-- ==== Sys2Proof/Word.lean ====
section
/-! DEFINITION. Words of the EK9640's records: bytes, and unsigned or two's complement numbers of a stated width. -/

namespace Sys2Proof

/-- One byte of a record, a buffer or host memory. -/
abbrev Byte := BitVec 8

/-- A sparse table keyed by a number, its keys strictly rising. -/
abbrev Tab (V : Type) := List (Nat × V)

end Sys2Proof
end

