-- ==== Sys2Proof/Config.lean ====
section
/-! DEFINITION. What the spec fixes once for the whole device, and the free values it leaves open. -/

namespace Sys2Proof.Config

/-- Positions in a shaft cycle (R2, R33). -/
def cyclePos : Nat := 19440
/-- Cycles in a multiframe (R35). -/
def multiframeCycles : Nat := 4
/-- Cycles in an epoch (R35). -/
def epochCycles : Nat := 32
/-- Cycles in a second of shaft time at zero DCO offset (R33). -/
def secondCycles : Nat := 8000
/-- Positions in a multiframe. -/
def multiframePos : Nat := 77760
/-- Positions in an epoch. -/
def epochPos : Nat := 622080
/-- Positions in a second. -/
def secondPos : Nat := 155520000
/-- Positions in a millisecond. -/
def msPos : Nat := 155520
/-- Positions in 100 µs. -/
def hundredUsPos : Nat := 15552

/-- Bits drawn from the random generator (nonces, TRNG output): the spec fixes their width only.
Log entry 8. -/
opaque freeRandom : Nat → Nat
/-- Output of a cryptographic operation whose bits the spec does not give (a signature, a MAC, a hash
of data the model does not hold). Log entry 8. -/
opaque freeCrypto : Nat → Nat
/-- The variance that the temperature model's recursive fit starts from (R86 names the method, not the number). Log entry 54. -/
opaque freePrior : Rat
/-- The proportional gain, per second, of the loop of a bandwidth in mHz (R76, R393: the bandwidth and the damping factor are
stated, the gain is not). Log entry 55. -/
opaque loopGain : Nat → Rat
/-- A tap of a preset's stock coefficients (R115 gives the response, not the numbers). Log entry 8. -/
opaque freeStock : Nat → BitVec 24
/-- The rounding of an exact quotient where the spec names none. Log entry 8. -/
opaque freeRound : Nat → Int
/-- A choice the spec leaves to the device's firmware or a count it does not state. Log entry 8. -/
opaque freeChoice : Nat → Nat

/-- Where the tributary links' frame counter starts (Table 05-4 says it counts modulo 256, not from where). Log entry 59. -/
opaque trbStart : Nat
/-- AES-256-CMAC under a key (R353): NIST SP 800-38B, whose bits the spec takes by reference. Log entry 8. -/
opaque cmac : Nat → List Nat → Nat
/-- AES-256-GCM (R347, NIST SP 800-38D, by reference): the text that a key and an IV turn a text into, and the tag over the
AAD and the ciphertext. Log entry 8. -/
opaque gcmCrypt : Nat → Nat → List Nat → List Nat
opaque gcmTag : Nat → Nat → List Nat → List Nat → Nat
/-- AES-256 KW unwrap of a blob under a key (R357, NIST SP 800-38F, by reference): the key it holds, or that its integrity check
fails. Log entry 8. -/
opaque kwUnwrap : Nat → List Nat → Option Nat
/-- SHA-512 of a byte string, as a 512-bit number, by reference (R546, R555). Log entry 8. -/
opaque sha512 : List Nat → Nat

/-- A signature verifies for a message under a public key: Ed25519, by reference (R546). Log entry 8. -/
opaque verifies : List Nat → List Nat → List Nat → Bool
/-- The Ed25519 signature that the identity key of the unit with a serial gives a message, 64 bytes as a number (R556). Log entry 8. -/
opaque identitySign : Nat → List Nat → Nat
/-- The X25519 shared secret of an ephemeral public key and the key of the unit with a serial, 32 bytes as a number (R560). Log
entry 8. -/
opaque x25519 : List Nat → Nat → Nat
/-- The SHA-512 of each image key's public key, as the ROM holds it (Table 18-1). Log entry 8. -/
opaque romKey : Nat → Nat
/-- The frequency in Hz that each ageing monitor had at manufacture, where State lists none (R606: OTP). Log entry 8. -/
opaque ageBase : Nat → Nat
/-- The release of the boot ROM, which measurement M0 takes in (Table 18-5). Log entry 8. -/
opaque romRelease : Nat

end Sys2Proof.Config
end

