-- ==== Sys2Proof/Syntax.lean ====
section
/-! DEFINITION. The commands and events of the EK9640 (spec/opcode_table.json), one constructor for each
row. The first operand of every one, `dt`, is how many position periods have passed since the command
before it (log entry 1); host commands carry the ring slot they came from (`HostRef`); an event carries
what the device sees from outside itself. -/

namespace Sys2Proof

/-- The command ring slot a host command came from: its CMD ring, its host tag and the NO_CPL flag (Tables 14-16 and 14-4), and
whether the device's read of the host buffer that the command names fails (R460). The HIF's own checks stand in DESCRIPTOR_FETCH. -/
structure HostRef where
  ring    : Nat := 0
  tag     : Nat := 0
  noCpl   : Bool := false
  badRead : Bool := false
  deriving DecidableEq, Repr

/-! ### The shaft -/

/-- A schedule entry (Table 02-2). -/
structure SchedEntry where
  valid  : Bool := true
  period : Nat
  cyc    : Nat
  pos    : Nat
  cls    : Nat
  target : Nat
  arg    : Nat
  deriving DecidableEq, Repr

/-- A line of the data-queue index table as read: its number, whether the read ended well or with which PCIe status, and its
64 bytes (R447, R468). -/
structure DbLine where
  line   : Nat
  ok     : Bool
  status : Nat
  bytes  : List Nat
  deriving DecidableEq, Repr

/-- What one doorbell read returns (R446, R447): whether the page read ended well or with which PCIe status, the page's first 384
bytes (Table 14-2), and the index-table lines read. -/
structure DbPage where
  ok     : Bool
  status : Nat
  bytes  : List Nat
  lines  : List DbLine
  deriving DecidableEq, Repr

/-! ### Timing -/

/-- The six coefficients of TIM_MODEL_LOAD, in register units (Table 03-12). -/
structure ModelCoef where
  c1  : Int
  c2  : Int
  c3  : Int
  c4  : Int
  age : Int
  t0  : Int
  deriving DecidableEq, Repr

/-! ### Filters -/

/-- Parameters of FLT_CONFIG (Table 04-5). -/
structure FltCfg where
  ch     : Nat
  preset : Nat
  n      : Nat
  r      : Nat
  k      : Nat
  keep   : Bool
  deriving DecidableEq, Repr

/-! ### Ports -/

/-- What an eye measurement gives for a lane (R162): the width and height of its eye, or of each of a PAM4 lane's three, with
its received frequency. -/
structure EyeMeas where
  lane : Nat
  eyes : List (Nat × Nat)
  freq : Int
  deriving DecidableEq, Repr

/-! ### Ralale -/

/-- A 66-bit block as it stands on the line (R169): its sync header and its eight scrambled payload bytes. -/
structure RlkBlock where
  sync  : Nat
  bytes : List Nat
  deriving DecidableEq, Repr

/-! ### Framing -/

/-- What a framer sees in one received frame (R212), or for DS1 in the frame of one framing bit and for
DS3 in one M-frame. `word` says the alignment pattern or bits stood right at the place looked at, `aux`
that a DS1 ESF superframe's CRC-6 passed or a DS3 M-frame's M bits were right, `fLoss` that three F bits
were wrong within 16, `alt` that the pattern is that of DS1 SF or DS3 M23, `mf` that an E1 multiframe signal stood right, and
`seq` is the MFAS or H4 byte. `bip` counts the layer's violations, `b1` B1's, and `bad` its errored blocks out of `blocks`
(Table 10-2). The overhead stands as received: `ptr` the 16 bits of the AU or TU pointer, `ks` K1 and K2, `status` the byte M1,
G1, V5, SM 10 or PM 12 of the layer, `rai` a PDH circuit's A bit, RAI or X bits, `fars` its errors in E bits or FEBE, `zeros` the
zeros in its AIS period (0 where a DS3 M-frame shows the AIS pattern), `psi` the PT, PSI[2] and MSI of a PSI multiframe with
whether the MSI differs from the placed structure, `label` C2, `aps` the ODU APS/PCC bytes, `ssm` the S1 nibble or the DS1
codeword, `sas` the SSM of an E1 multiframe in Sa4 to Sa8. `trace` is a trace frame that ended here: 1, 16 or 64 bytes.
`copies` is PSI bytes 128 to 191 of an HO ODU4's PSI multiframe, `fill` the gate store's fill in 1/1,024. -/
structure FrmFrame where
  word      : Bool
  aux       : Bool
  fLoss     : Bool
  alt       : Bool
  mf        : Bool
  seq       : Nat
  b1        : Nat
  bip       : Nat
  bad       : Nat
  blocks    : Nat
  ptr       : Option Nat
  ks        : Option (Nat × Nat)
  status    : Option Nat
  rai       : Option Bool
  fars      : Nat
  zeros     : Option Nat
  psi       : Option (Nat × Nat × Bool)
  trace     : Option (List Nat)
  traceAt   : Nat
  label     : Option Nat
  aps       : Option (List Nat)
  ssm       : Option Nat
  sas       : List Nat
  fecCorr   : Nat
  fecUncorr : Nat
  copies    : Option (List Nat)
  dgasp     : Option Bool
  fill      : Option Nat
  deriving DecidableEq, Repr

/-- A logical lane of an OTU4 port (R219): whether it is in SYNC, the marker it reports and its delay in ns. -/
structure OtlLane where
  sync   : Bool
  marker : Nat
  delay  : Nat
  deriving DecidableEq, Repr

/-- Parameters of FRM_CTX_CFG (Table 07-15). -/
structure CtxCfg where
  ctx   : Nat
  sf    : Nat
  sd    : Nat
  trace : Nat
  acts  : Nat
  label : Nat
  sa    : Nat
  deriving DecidableEq, Repr

/-- Parameters of FRM_TRACE_SET (Table 07-15). -/
structure TraceSet where
  ctx   : Nat
  tx    : Nat
  layer : Nat
  part  : Nat
  bytes : List Nat
  deriving DecidableEq, Repr

/-- Parameters of FRM_APS_CFG (Table 07-15). -/
structure ApsCfg where
  group : Nat
  mode  : Nat
  hold  : Nat
  wtr   : Nat
  deriving DecidableEq, Repr

/-! ### Mapping -/

/-- An Ethernet client frame as received (R261): its outer tag, its bytes, and whether its FCS was good.
`ql` is the SSM code of an ESMC PDU the frame carries. -/
structure ClientFrame where
  tpid  : Nat
  vid   : Nat
  data  : List Nat
  fcsOk : Bool
  ql    : Option Nat
  deriving DecidableEq, Repr

/-- A GFP-F frame as received (R264, R265): the four bytes of its core header as they stand on the line, the two bytes of type and
two of tHEC after descrambling, and whether a pFCS is right. -/
structure GfpFrame where
  core : Nat
  head : Nat
  pFcs : Bool
  deriving DecidableEq, Repr

/-- A received carriage block (R281, R282): the 8L bytes of its carriage stream, whether its leg had trail signal fail during
the block, and its BIP-8 violations. -/
structure CarriageBlock where
  stream : List Nat
  tsf    : Bool
  viol   : Nat
  deriving DecidableEq, Repr

/-- Parameters of MAP_PAGE_READ (Table 08-14). -/
structure PageRead where
  what    : Nat
  standby : Nat
  first   : Nat
  count   : Nat
  host    : Nat
  deriving DecidableEq, Repr

/-! ### Placement -/

/-- An endpoint of an intent (Table 09-2). -/
structure Endpoint where
  typ  : Nat := 0
  lane : Nat := 0
  idx  : Nat := 0
  tu   : Nat := 0
  deriving DecidableEq, Repr

/-- Parameters of OVM_INTENT_ADD (Table 09-1). -/
structure Intent where
  id        : Nat
  client    : Nat
  container : Nat
  count     : Nat
  proc      : Nat
  sealing   : Nat
  key       : Nat
  prot      : Nat
  shed      : Nat
  nts       : Nat
  rate      : Nat
  srcA      : Endpoint
  srcB      : Endpoint
  dstA      : Endpoint
  dstB      : Endpoint
  deriving DecidableEq, Repr

/-- What the Overman measures and the spec gives no formula for, as it places an intent: hewers without
room for more scheduled work (R301), whether the projected power passes the budget (R303), and the intent's
projected charge in 10 mW (Table 13-3). -/
structure OvmObs where
  fullHewers : List Nat := []
  overBudget : Bool := false
  charge     : Nat := 0
  deriving DecidableEq, Repr

/-- The placement fields of a context record (Table 08-2 bytes 4 to 31) with the position fields its
connection-page entries are built from (Tables 08-7 and 08-8). -/
structure Place where
  inSlice   : Nat := 0
  egSlice   : Nat := 0
  lineSlice : Nat := 0
  hewer     : Nat := 0
  pipeIn    : Nat := 0xFF
  pipeEg    : Nat := 0xFF
  grain     : Nat := 0xFFFF
  grains    : Nat := 0
  ts        : Nat := 0
  queue     : Nat := 0
  queues    : Nat := 0
  extPos    : Nat := 0
  insPos    : Nat := 0
  extCyc    : Nat := 0
  insCyc    : Nat := 0
  hbm       : Nat := 0xFFFFFFFF
  deriving DecidableEq, Repr

/-- A move the Overman decides (Table 09-8): the context, the reason and its new placement. -/
structure Move where
  ctx    : Nat
  reason : Nat
  place  : Place
  deriving DecidableEq, Repr

/-- A command that names a context, in the form in which it is held while that context is MIGRATING
(R312) or forwarded to the mate (R411). -/
inductive CtxCmd where
  | ctxCfg     (h : HostRef) (p : CtxCfg)
  | traceSet   (h : HostRef) (p : TraceSet)
  | ctxRead    (h : HostRef) (ctx host : Nat)
  | force      (h : HostRef) (ctx what on : Nat)
  | errInsert  (h : HostRef) (ctx monitor viol frames : Nat)
  | mapCtxRead (h : HostRef) (ctx host : Nat)
  | ddStatus   (h : HostRef) (ctx host : Nat)
  | resultRead (h : HostRef) (intent host avail : Nat)
  | withdraw   (h : HostRef) (intent : Nat)
  | pin        (h : HostRef) (ctx items : Nat)
  | unpin      (h : HostRef) (ctx items : Nat)
  deriving DecidableEq, Repr

/-! ### Queues and data queues -/

/-- One write to a queue (R478): its bytes (a narrow write, a record, or a wide word as the host or PM
export writes it), whether it ends its packet, whether the writer abandons the packet, and the STATUS and
TAG of the length word it fills. -/
structure QWrite where
  bytes  : List Nat
  wide   : Bool
  last   : Bool
  abort  : Bool
  status : Nat
  tag    : Nat
  deriving DecidableEq, Repr

/-- Parameters of QMG_Q_CREATE (Table 15-8); `mode` is byte 11. -/
structure QCreate where
  q     : Nat
  k     : Nat
  mode  : Nat
  hold  : Bool
  flush : Nat
  high  : Nat
  low   : Nat
  deriving DecidableEq, Repr

/-! ### Performance monitoring -/

/-- Parameters of PMN_POINT_CFG (Table 10-8). -/
structure PointCfg where
  point : Nat
  on    : Bool
  bidir : Bool
  exp   : Bool
  prof  : Nat
  deriving DecidableEq, Repr

/-- Parameters of PMN_PROFILE_SET (Table 10-8). -/
structure ProfileSet where
  prof : Nat
  typ  : Nat
  neP  : Nat
  feP  : Nat
  thr  : List Nat
  deriving DecidableEq, Repr

/-- Parameters of PMN_HIST_READ (Table 10-8). -/
structure HistRead where
  point : Nat
  count : Nat
  typ   : Nat
  first : Nat
  num   : Nat
  host  : Nat
  deriving DecidableEq, Repr

/-! ### Cipher -/

/-- Parameters of CIP_WRAP_LOAD (Table 11-11); `blob` is the 40-byte wrapped key. -/
structure WrapLoad where
  slot      : Nat
  fromEpoch : Nat
  peer      : Nat
  blob      : List Nat
  deriving DecidableEq, Repr

/-- Parameters of CIP_EPOCH_FLIP (Table 11-11). -/
structure EpochFlip where
  scope : Nat
  num   : Nat
  epoch : Nat
  raiseCur : Bool
  deriving DecidableEq, Repr

/-- What a receiving direction sees of a block (R370): the 8L bytes of its carriage stream, the ciphertext of the block before
it, the block's first and last shaft addresses, and how many of its frames were released before its stream was checked. -/
structure SealedRx where
  stream : List Nat
  before : List Nat
  first  : Nat
  last   : Nat
  frames : Nat
  deriving DecidableEq, Repr

/-- A bulk message as it arrives at the cipher pool (Table 11-7): to be opened or sealed, and whether its
consumer asks for early release; its text (ciphertext where it is to be opened) and tag. A message to be sealed gets its IV
and tag there. -/
structure BulkMsg where
  typ     : Nat
  prio    : Nat
  length  : Nat
  iv      : Nat
  nonce   : Nat
  opening : Bool
  early   : Bool
  pair    : Nat
  text    : List Nat
  tag     : Nat
  deriving DecidableEq, Repr

/-! ### Pair -/

/-- A forwarded command (Table 12-3, type 0x06; Table 12-10a), or a shedding step (R430). -/
inductive Fwd where
  | rootLoad  (e : List Nat)
  | keyErase  (e : List Nat)
  | wrapLoad  (p : WrapLoad)
  | epochFlip (p : EpochFlip)
  | shed      (intent : Nat)
  | restore   (intent : Nat)
  deriving DecidableEq, Repr

/-- A received mate frame (R387, R388): the number of its first block, whether block lock held, the 58 line bits before it, its
first four blocks, and by how many ps its marker began after the position at which the row falls. -/
structure MateIn where
  off    : Nat
  lock   : Bool
  prior  : Nat
  blocks : List RlkBlock
  sub    : Int
  deriving DecidableEq, Repr

/-- A message whose payload's layout Table 12-3 leaves open: its 16 header bytes (Table 12-2), and whether the CRC-32C over
header and payload passed. -/
structure MsgHead where
  head   : List Nat
  bodyOk : Bool
  deriving DecidableEq, Repr

/-- A message as received (R390): its 16 header bytes, its payload and its CRC-32C. -/
structure MateText where
  head    : List Nat
  payload : List Nat
  crc     : Nat
  deriving DecidableEq, Repr

/-- A GATE entry (Table 12-4). -/
structure GateEntry where
  ctx      : Nat
  frame    : Nat
  decision : Nat
  upstream : Nat
  offset   : Nat
  fill     : Bool
  deriving DecidableEq, Repr

/-- What a protection group's control image gives (R242): the bytes it sends and its selector. -/
structure ImageEntry where
  group : Nat
  tx    : List Nat
  leg   : Nat
  request : Nat
  deriving DecidableEq, Repr

/-- A context as a PLACE message or a state copy gives it: its record's configuration, placement and links, as
`Sys2Proof.Machine.Ctx` holds them, with its generation and pins. -/
structure PlacedCtx where
  ctx       : Nat
  kind      : Nat
  parent    : Option Nat
  endpoint  : Endpoint
  endpointB : Endpoint
  out       : Endpoint
  dest      : Option Nat
  pos       : Nat
  place     : Place
  gen       : Nat
  sealed    : Bool
  priv      : Bool
  scSeq     : Bool
  block     : Nat
  key       : Nat
  protect   : Bool
  hitless   : Bool
  group     : Nat
  nts       : Nat
  rate      : Nat
  stage     : Bool
  cyclic    : Bool
  pins      : Nat
  cross     : Bool
  deriving DecidableEq, Repr

/-- An intent with the contexts placed for it. `state` is Table 09-4's. -/
structure PlacedIntent where
  params : Intent
  state  : Nat
  charge : Nat
  group  : Nat
  shared : Bool
  ctxs   : List PlacedCtx
  deriving DecidableEq, Repr

/-- Standby-page changes and their swap cycle (Table 12-3, type 0x07): intents placed, intents withdrawn or shed,
and moves, with the entries of the Overman's own in the bank. -/
structure PlaceMsg where
  cycle   : Nat
  adds    : List PlacedIntent
  removes : List Nat
  sheds   : List Nat
  moves   : List Move
  own     : List SchedEntry
  deriving DecidableEq, Repr

/-- A PM bin in a state copy. -/
structure BinCopy where
  serial  : Nat
  start   : Nat
  ended   : Nat
  seconds : Nat
  classified : Nat
  counts  : List Nat
  suspect : Nat
  deriving DecidableEq, Repr

/-- A PM point in a state copy (Table 12-11a). -/
structure PointCopy where
  point  : Nat
  neUnav : Bool
  feUnav : Bool
  neHist : Nat
  feHist : Nat
  cur15  : BinCopy
  cur24  : BinCopy
  hist15 : List BinCopy
  hist24 : List BinCopy
  deriving DecidableEq, Repr

/-- A sealed context's epochs in a state copy: sending epoch, the epoch of a flip scheduled or announced, whether it has been
announced, and the accepted receive epoch. -/
structure EpochCopy where
  ctx       : Nat
  send      : Nat
  flip      : Option Nat
  announced : Bool
  receive   : Nat
  deriving DecidableEq, Repr

/-- The state of a key slot's halves in a state copy (Table 12-11a): for each, whether it is loaded and has served a direction,
and whether an erase is pending. -/
structure SlotCopy where
  slot    : Nat
  used0   : Bool
  used1   : Bool
  erasing : Bool
  deriving DecidableEq, Repr

/-- A context's defect integration in a state copy (Table 12-11a): the failures declared, and for each defect whose failure is
being set or cleared the positions that have passed. -/
structure DefectCopy where
  ctx    : Nat
  failed : List Nat
  sets   : List (Nat × Nat)
  clears : List (Nat × Nat)
  deriving DecidableEq, Repr

/-- A protection group in a state copy (Table 12-11a): its image, its command and the positions left of its
hold-off and WTR. -/
structure GroupCopy where
  image    : ImageEntry
  command  : Nat
  cmdLeg   : Nat
  holdLeft : Option Nat
  wtrLeft  : Option Nat
  deriving DecidableEq, Repr

/-- A snapshot's content (Table 12-11a). -/
structure Snapshot where
  intents : List PlacedIntent
  groups  : List GroupCopy
  defects : List DefectCopy
  epochs  : List EpochCopy
  slots   : List SlotCopy
  points  : List PointCopy
  tod     : Nat
  deriving DecidableEq, Repr

/-- What a BIST test of the canary tests (R416): a hewer, a pipeline, a grain, a TSI entry, an SRAM row or an HBM region. -/
inductive BistUnit where
  | hewer  (n : Nat)
  | pipe   (n : Nat)
  | grain  (n : Nat)
  | tsi    (n : Nat)
  | sram   (n : Nat)
  | hbm    (n : Nat)
  deriving DecidableEq, Repr

/-- A commit record's plaintext (Table 12-10); stamps as shaft addresses, `base` none for a full copy. -/
structure CommitRec where
  stamp  : Nat
  base   : Option Nat
  count  : Nat
  length : Nat
  crc    : Nat
  firstIv : Nat
  deriving DecidableEq, Repr


/-! ### Energy -/

/-- What the governor judges by where the spec gives no formula (R427): whether the Overman can empty one more hewer, and a
pipeline that it can empty. -/
structure GovObs where
  hewer     : Bool
  pipe      : Option Nat
  deriving DecidableEq, Repr

/-- A converter's answer to a poll (R439): `err` is 0 for none, 1 for a NACK, 2 for a PEC error. -/
structure PmbRead where
  conv   : Nat
  err    : Nat
  status : Nat
  vin    : Nat
  iout   : Nat
  pout   : Nat
  deriving DecidableEq, Repr

/-- Parameters of ENG_PMB_XFER (Table 13-6), with what the bus gives: `err` as for a poll, and the bytes read. -/
structure PmbXfer where
  addr : Nat
  wlen : Nat
  rlen : Nat
  pec  : Bool
  data : List Nat
  host : Nat
  err  : Nat
  got  : List Nat
  deriving DecidableEq, Repr

/-! ### Host interface -/

/-- Parameters of HIF_DQ_BIND (Table 14-14). -/
structure DqBind where
  d    : Nat
  q    : Nat
  dir  : Nat
  size : Nat
  base : Nat
  evq  : Nat
  thr  : Nat
  deriving DecidableEq, Repr

/-! ### Registers -/

/-- A triplicated field whose copies differ (R510, R511): its offset, and the copy that differs from the two others, none
when all three differ. -/
structure TriError where
  off  : Nat
  copy : Option Nat
  deriving DecidableEq, Repr

/-! ### Assay units -/

/-- What an assay unit reads at a granule (R535, R537): `written` that the structure was written between its reads, `word`
the check word's code (0 clean, 1 corrected, 2 uncorrectable), `stored` its value, `dataA` and `dataB` the data as the two
reads for the recomputations give it, `memErr` that a read of the data met an uncorrectable error; `last` that the granule ends
the pass; and the structure: 0 standby bank or page, 1 active bank or page, 2 context record, 3 configuration group, 4 hewer instruction RAM,
5 Overman state, with its number (as `SramError` numbers them). -/
structure Granule where
  unit    : Nat
  index   : Nat
  kind    : Nat
  num     : Nat
  written : Bool
  word    : Nat
  stored  : Nat
  dataA   : List Nat
  dataB   : List Nat
  memErr  : Bool
  last    : Bool
  deriving DecidableEq, Repr

/-! ### Start-up -/

/-- The results of a self-test (Table 19-3), as the units failed: slices, hewers and the number of other structures that own
an unrepaired SRAM row, HBM regions, hewers, pipelines and (24 to 27) derivation units, lanes; whether HBM training failed,
and whether a row of the security block, timing block, shaft or host interface is unrepaired. -/
structure SelfTest where
  rowSlices : List Nat
  rowHewers : List Nat
  rowOther  : Nat
  hbmFailed : Bool
  hbmBad    : List Nat
  hewers    : List Nat
  pipes     : List Nat
  lanes     : List Nat
  trngOk    : Bool
  fatal     : Bool
  deriving DecidableEq, Repr

/-- What the board gives at the release of a CHIP reset (R549, R570): the straps, whether the TRNG passes its start-up test,
whether the epoch reservation is stored, and the bytes of the NOR's images and configuration copies where the board changed them;
`suspect` names the image slots of whose transfer units one fails its check as it is read (Table 18-2); `moved` is a lifecycle step that reads blown though power failed during its move, with operator slot 0 as it reads (R559). -/
structure BootIn where
  bootSrc : Bool
  pairEn  : Bool
  unitId  : Bool
  trngOk  : Bool
  stored  : Bool
  nor     : Option (List (Nat × List Nat) × List (Nat × List Nat))
  suspect : List Nat
  moved   : Option (Nat × List Nat)
  deriving DecidableEq, Repr

/-! ### Background work -/

/-- What the scrubber or a foreground read meets in an SRAM word (R598 to R601): its address, row and macro group, `scrub` that the
scrubber reads it, `written` that a writer reaches the word in the same clock (R599), whether its code finds an error, whether
the error was uncorrectable, and the structure: 0 context record, 1 standby bank or page, 2 active bank or page, 3 hewer
instruction RAM, 4 hewer data RAM, 5 derived-key cache entry, 6 queue, 7 root or wrapped key slot, 8 intents, results and
pins, 9 security, timing, shaft or host interface; with its number: for a bank or page three times the entry's or word's
number plus 0 for the bank, 1 for the TSI page, 2 for the grain map, for a cache entry twice the context plus 1 for the
receiving direction, for a key slot its number in record byte 168. -/
structure SramError where
  addr   : Nat
  row    : Nat
  group  : Nat
  scrub  : Bool
  written : Bool
  error  : Bool
  uncorr : Bool
  kind   : Nat
  num    : Nat
  deriving DecidableEq, Repr

/-- The commands and events, in the order of the table. -/
inductive Instr where
  /-- SCHED_SWAP (R46): At position 0 of a multiframe the armed standby schedule bank and connection pages become active together if all pass assay. -/
  | schedSwap (dt : Nat) (bankOk pagesOk : Bool) (granule stored sum : Nat)
  /-- ARM_SWAP (R45): The Overman marks a built standby bank complete, which arms a swap for the next or a later multiframe boundary. -/
  | armSwap (dt : Nat) (own : List SchedEntry)
  /-- HEWER_WAKEUP (R43): A schedule entry reaches its position and is dispatched to its hewer. -/
  | hewerWakeup (dt : Nat)
  /-- DOORBELL_READ (R447): Once per cycle at SHF_DOORBELL_POS the device reads the doorbell page and changed index-table lines and starts fetching. -/
  | doorbellRead (dt : Nat) (page : DbPage)
  /-- GATE_SLIP (R49): A gate store that comes within 1/8 of either end is re-centred by dropping or repeating one cycle of the line's data. -/
  | gateSlip (dt ctx fill : Nat)
  /-- SHAFT_HALT (R50): Loss of OSCI stops the shaft, idles every transmitter and writes SHAFT_HALT to EVQ 0. -/
  | shaftHalt (dt : Nat)
  /-- SHAFT_START (R51): Once the timing block is up, the shaft leaves HALTED at 0:0 in state FREE. -/
  | shaftStart (dt : Nat)
  /-- TIM_FREQ_MEASURE (R56): At the end of each 1 s window the frequency of each enabled candidate against OSCI is reported. -/
  | timFreqMeasure (dt : Nat) (meas : List (Nat × Int))
  /-- REF_QUALIFIED (R60): A candidate's conditions have held for its qualify time, so it becomes QUALIFIED or enters WTR. -/
  | refQualified (dt cand : Nat)
  /-- TIM_HOLDOFF_EXPIRY (R62): A signal defect still present on the selected candidate after TIM_HOLDOFF disqualifies it. -/
  | timHoldoffExpiry (dt cand : Nat)
  /-- REF_SELECTION (R70): At position 0 of each cycle the timing block takes qualifications into effect and makes its selection decision. -/
  | refSelection (dt : Nat)
  /-- REF_SWITCH_DONE (R76): The lock criterion has held for the lock time, which completes the switch. -/
  | refSwitchDone (dt : Nat)
  /-- WTR_EXPIRY (R74): The WTR timer of a candidate expires and the candidate becomes QUALIFIED. -/
  | wtrExpiry (dt cand : Nat)
  /-- STEER_WDOG_EXPIRY (R91): No TIM_STEER arrives within TIM_STEER_WDOG, which disqualifies candidate 19. -/
  | steerWdogExpiry (dt : Nat)
  /-- HOLDOVER_UPDATE (R88): At each epoch boundary in HOLDOVER the DCO offset is set from f_hist and the temperature model. -/
  | holdoverUpdate (dt : Nat)
  /-- MODEL_LEARN_SAMPLE (R86): Once per second while LOCKED, the model takes a sample of DCO offset and T and updates its fit. -/
  | modelLearnSample (dt : Nat)
  /-- TOD_SET_APPLY (R96): At the shaft address of a TIM_SET_TOD, the time-of-day counter takes the new value. -/
  | todSetApply (dt : Nat)
  /-- PPSIN_EDGE (R97): A PPSIN rising edge is time-stamped in time of day. -/
  | ppsinEdge (dt sub : Nat)
  /-- PPSOUT_PULSE (R98): At each whole second of the time of day plus compensation, PPSOUT rises. -/
  | ppsoutPulse (dt : Nat)
  /-- TIM_FORCE (R102): Command that forces selection of a candidate over R70 to R73. -/
  | timForce (dt : Nat) (h : HostRef) (cand : Nat)
  /-- TIM_CLEAR (R102): Command that ends a force. -/
  | timClear (dt : Nat) (h : HostRef)
  /-- TIM_LOCKOUT (R75): Command that puts a candidate in LOCKED_OUT or releases it at the next cycle boundary. -/
  | timLockout (dt : Nat) (h : HostRef) (cand on : Nat)
  /-- TIM_HOLDOVER (R81): Command that forces HOLDOVER or releases it. -/
  | timHoldover (dt : Nat) (h : HostRef) (on : Nat)
  /-- TIM_STEER (R92): Command that gives the host numeric DCO offset for candidate 19. -/
  | timSteer (dt : Nat) (h : HostRef) (value : Int)
  /-- TIM_SET_TOD (R96): Command that schedules a time-of-day value at a future shaft address. -/
  | timSetTod (dt : Nat) (h : HostRef) (stamp sec ns : Nat)
  /-- TIM_TOD_CAPTURE (R102): Command that returns the shaft stamp and time of day of the cycle boundary at which it is processed. -/
  | timTodCapture (dt : Nat) (h : HostRef)
  /-- TIM_MODEL_LOAD (R90): Command that loads all six model coefficients and makes the model VALID. -/
  | timModelLoad (dt : Nat) (h : HostRef) (p : ModelCoef)
  /-- TIM_WTR_CLEAR (R74): Command that ends a candidate's WTR at the next cycle boundary. -/
  | timWtrClear (dt : Nat) (h : HostRef) (cand : Nat)
  /-- FLT_OUTPUT_WORD (R127): A filter chain completes R input samples and produces a stamped output word. -/
  | fltOutputWord (dt ch : Nat) (incoming : Bool) (samples : List Int)
  /-- INPUT_STUCK (R118): A feed bitstream holds one value for 1,024 consecutive bits. -/
  | inputStuck (dt ch level : Nat)
  /-- XFADE_START (R123): At the next cycle boundary after FLT_CONFIG, the incoming instance starts from a synchronising reset with the new preset. -/
  | xfadeStart (dt ch : Nat)
  /-- XFADE_DONE (R124): After cross-fade word L, the outgoing instance stops and the cross-fade ends. -/
  | xfadeDone (dt ch : Nat)
  /-- SWAP_DONE (R120): A requested or deferred coefficient-bank swap takes effect at an output sample boundary, or is dropped. -/
  | swapDone (dt ch : Nat)
  /-- FLT_SYNC_RESET_APPLY (R126): At the named shaft address, each named channel clears its integrators, combs and FIR delay line. -/
  | fltSyncResetApply (dt : Nat)
  /-- FLT_CONFIG (R123): Command that changes a channel's preset with a cross-fade. -/
  | fltConfig (dt : Nat) (h : HostRef) (p : FltCfg)
  /-- FLT_COEF_LOAD (R119): Command that writes 16 taps of a coefficient bank. -/
  | fltCoefLoad (dt : Nat) (h : HostRef) (ch bank first : Nat) (start : Bool) (taps : List Int)
  /-- FLT_SWAP (R120): Command that asks for a channel to change its active coefficient bank. -/
  | fltSwap (dt : Nat) (h : HostRef) (ch bank : Nat)
  /-- FLT_SYNC_RESET (R126): Command that schedules a synchronising reset of a set of channels at a shaft address. -/
  | fltSyncReset (dt : Nat) (h : HostRef) (mask stamp : Nat)
  /-- FLT_FREEZE (R134): Command that freezes or releases the DC blocker of a set of channels. -/
  | fltFreeze (dt : Nat) (h : HostRef) (mask on : Nat)
  /-- LANE_LOS (R157): Loss of signal on a lane or tributary link is declared or cleared after its persistence time. -/
  | laneLos (dt lane : Nat) (trb set : Bool)
  /-- LANE_LOL (R157): Loss of lock of a lane's clock recovery is declared or cleared. -/
  | laneLol (dt lane : Nat) (set : Bool)
  /-- LANE_BLOCK_LOCK (R157): A 64b/66b lane loses or regains block lock. -/
  | laneBlockLock (dt lane : Nat) (lost : Bool)
  /-- LANE_HIBER (R157): A 64b/66b lane's BER monitor sets or clears Hi-BER. -/
  | laneHiber (dt lane : Nat) (set : Bool)
  /-- LANE_READY (R159): Adaptation of an enabled or woken lane ends with an eye measurement and the lane becomes ready. -/
  | laneReady (dt lane w h : Nat)
  /-- EYE_MEASURE (R162): Every 100 ms each ready lane's eye is measured. -/
  | eyeMeasure (dt : Nat) (meas : List EyeMeas)
  /-- PRBS_LOCK (R167): A lane's PRBS checker locks to or loses its pattern. -/
  | prbsLock (dt lane : Nat) (locked : Bool) (errors : Nat)
  /-- TRB_FRAME_RX (R153): A tributary-link frame is received and processed for alignment, CRC, layout and slot data. -/
  | trbFrameRx (dt link off : Nat) (bytes : List Nat)
  /-- TRB_ALIGN (R154): LLA is declared after 3 ms out of SYNC or cleared after 1 ms in SYNC. -/
  | trbAlign (dt link : Nat)
  /-- PRT_TEST (R164): Command that starts or ends a PRBS or loopback test on a lane. -/
  | prtTest (dt : Nat) (h : HostRef) (lane ptn flags : Nat)
  /-- PRT_ADAPT_RESTART (R164): Command that restarts a lane's adaptation. -/
  | prtAdaptRestart (dt : Nat) (h : HostRef) (lane : Nat)
  /-- RLK_FRAME_RX (R186): A Ralale frame's marker and overhead are received and processed for alignment, QL, RDI, LIM, RTT, DGASP and the return channel. -/
  | rlkFrameRx (dt lane off : Nat) (lock : Bool) (prior : Nat) (blocks : List RlkBlock) (badSync : Nat)
  /-- RLK_LFA (R187): LFA is declared after 3 ms out of SYNC or cleared after 1 ms in SYNC. -/
  | rlkLfa (dt lane : Nat)
  /-- TUB_RX (R194): A received data tub is validated, classed against N and held, delivered or discarded. -/
  | tubRx (dt lane prior : Nat) (blocks : List RlkBlock)
  /-- DD_HOLD_EXPIRY (R196): A held tub has waited RLK_DD_HOLD, so a missing N is declared lost or a CSF copy is delivered. -/
  | ddHoldExpiry (dt ctx : Nat)
  /-- COPY_RECORD_CLOSE (R197): A delivered sequence's record closes and links that gave no good copy count a copy loss. -/
  | copyRecordClose (dt ctx : Nat)
  /-- FRAMER_FRAME_RX (R212): A framer processes a received frame: alignment, parity, pointers, defects and acceptance of persistent values. -/
  | framerFrameRx (dt framer : Nat) (f : FrmFrame)
  /-- LOF_DECLARE (R216): LOF is declared after 3 ms of OOF, or cleared after 3 ms of SYNC. -/
  | lofDeclare (dt framer : Nat)
  /-- OTL_LOL (R219): OTL4 lane-alignment loss is declared or cleared after 3 ms. -/
  | otlLol (dt lane : Nat) (lanes : List OtlLane)
  /-- CRC4_SEARCH_TIMEOUT (R221): E1 CRC-4 multiframe alignment is not gained within 8 ms or 400 ms. -/
  | crc4SearchTimeout (dt ctx : Nat) (found : Bool)
  /-- OH_EXTRACT (R214): At an extraction entry the framer writes a snapshot and the owning hewer compares traces, integrates failures and evaluates protection. -/
  | ohExtract (dt ctx : Nat)
  /-- OH_INSERT (R215): At an insertion entry the framer takes the hewer's transmit image. -/
  | ohInsert (dt ctx : Nat) (complete : Bool)
  /-- SD_SF_EVAL (R236): At each cycle boundary the violation window sums are judged for SD and SF declaration or clearance. -/
  | sdSfEval (dt framer : Nat)
  /-- APS_HOLDOFF_EXPIRY (R240): A protection group's hold-off time expires. -/
  | apsHoldoffExpiry (dt group : Nat)
  /-- APS_WTR_EXPIRY (R240): A protection group's wait-to-restore time expires. -/
  | apsWtrExpiry (dt group : Nat)
  /-- FRM_CTX_CFG (R244): Command that sets a context's thresholds, trace mode, consequent actions and label. -/
  | frmCtxCfg (dt : Nat) (h : HostRef) (p : CtxCfg)
  /-- FRM_TRACE_SET (R244): Command that writes an expected or transmitted trace. -/
  | frmTraceSet (dt : Nat) (h : HostRef) (p : TraceSet)
  /-- FRM_CTX_READ (R246): Command that writes a context's overhead snapshot to host memory. -/
  | frmCtxRead (dt : Nat) (h : HostRef) (ctx host : Nat)
  /-- FRM_APS_CFG (R239): Command that sets a protection group's parameters. -/
  | frmApsCfg (dt : Nat) (h : HostRef) (p : ApsCfg)
  /-- FRM_APS_CMD (R240): Command that issues an external protection command. -/
  | frmApsCmd (dt : Nat) (h : HostRef) (group cmd leg : Nat)
  /-- FRM_FORCE (R246): Command that forces insertion of AIS, RDI, LCK or OCI. -/
  | frmForce (dt : Nat) (h : HostRef) (ctx what on : Nat)
  /-- FRM_REFRAME (R222): Command that forces a framer into SEARCH. -/
  | frmReframe (dt : Nat) (h : HostRef) (lane ctx : Nat)
  /-- FRM_ERR_INSERT (R246): Command that inserts test violations on transmit. -/
  | frmErrInsert (dt : Nat) (h : HostRef) (ctx monitor viol frames : Nat)
  /-- HANDOVER (R277): At the first frame boundary after a swap, a context moves to its new stage, pipeline or hewer. -/
  | handover (dt ctx : Nat)
  /-- CLIENT_FRAME_RX (R261): An Ethernet client frame is received, checked and classified to a packet flow. -/
  | clientFrameRx (dt port : Nat) (f : ClientFrame)
  /-- GFP_FRAME_RX (R265): A GFP-F frame is delineated and received. -/
  | gfpFrameRx (dt ctx : Nat) (f : GfpFrame)
  /-- CARRIAGE_BLOCK_RX (R282): A carriage block of a leg is received and written to its ring with its MSEQ. -/
  | carriageBlockRx (dt ctx leg : Nat) (b : CarriageBlock)
  /-- DD_PLAYOUT (R286): MAP_DD_MAX after the earliest copy completes, a hitless group chooses and plays out a block. -/
  | ddPlayout (dt ctx : Nat)
  /-- MAP_RATE_LIMIT (R260): A rate-following divider at its limit lets its store slip one frame. -/
  | mapRateLimit (dt lane : Nat) (steer : Int) (fill : Nat)
  /-- MAP_CTX_READ (R249): Command that writes a context record to host memory. -/
  | mapCtxRead (dt : Nat) (h : HostRef) (ctx host : Nat)
  /-- MAP_PAGE_READ (R295): Command that writes TSI or grain-map entries to host memory. -/
  | mapPageRead (dt : Nat) (h : HostRef) (p : PageRead)
  /-- MAP_DD_STATUS (R295): Command that writes a hitless group's state to host memory. -/
  | mapDdStatus (dt : Nat) (h : HostRef) (ctx host : Nat)
  /-- OVM_INTENT_ADD (R297): Command that states an intent for the Overman to place. -/
  | ovmIntentAdd (dt : Nat) (h : HostRef) (p : Intent) (obs : OvmObs)
  /-- OVM_INTENT_WITHDRAW (R314): Command that cancels or withdraws an intent. -/
  | ovmIntentWithdraw (dt : Nat) (h : HostRef) (intent : Nat)
  /-- OVM_PIN (R309): Command that pins placement items of a context. -/
  | ovmPin (dt : Nat) (h : HostRef) (ctx items : Nat)
  /-- OVM_UNPIN (R320): Command that releases pinned items. -/
  | ovmUnpin (dt : Nat) (h : HostRef) (ctx items : Nat)
  /-- OVM_RESULT_READ (R308): Command that writes an intent's result block to host memory. -/
  | ovmResultRead (dt : Nat) (h : HostRef) (intent host avail : Nat)
  /-- OVM_DEFRAG (R320): Command that runs defragmentation at the next epoch boundary. -/
  | ovmDefrag (dt : Nat) (h : HostRef)
  /-- OVM_MOVE_PLAN (R310): The Overman decides moves for room, consolidation, wear, defragmentation or the governor and begins building pages. -/
  | ovmMovePlan (dt : Nat) (obs : OvmObs) (moves : List Move)
  /-- OVM_HOLD_EXPIRED (R313): A migration not completed within 2 multiframes is abandoned and held commands are released. -/
  | ovmHoldExpired (dt ctx : Nat)
  /-- STAGE_UNUSABLE (R31): An uncorrectable error in a slice stage marks it unusable and its contexts are re-placed. -/
  | stageUnusable (dt slice stage : Nat)
  /-- OVM_RESTART (R318): An Overman hewer fails or enters reset, and the Overman restarts on other hewers. -/
  | ovmRestart (dt hewer : Nat)
  /-- OVM_ENGINES (R317): The Overman adds a hewer for pending load or releases one after an epoch without need. -/
  | ovmEngines (dt : Nat)
  /-- UNIT_WAKE_READY (R28): A woken unit reports ready, so placements waiting on it proceed. -/
  | unitWakeReady (dt unitKind unitNo : Nat)
  /-- PM_SECOND_BOUNDARY (R325): At the boundary that begins a PM second, each stage copies and zeroes its current-second accumulators. -/
  | pmSecondBoundary (dt : Nat)
  /-- PM_SECOND_READ (R326): At a hewer's CLASS 0x6 entry, PM firmware classifies the ended seconds and commits them to bins. -/
  | pmSecondRead (dt hewer : Nat)
  /-- PM_BIN_CLOSURE (R332): At a 15-minute or 24-hour boundary, the current bins end their span and new bins begin. -/
  | pmBinClosure (dt hewer : Nat)
  /-- PMN_POINT_CFG (R346): Command that enables and configures a monitored point. -/
  | pmnPointCfg (dt : Nat) (h : HostRef) (p : PointCfg)
  /-- PMN_PROFILE_SET (R336): Command that sets a threshold profile. -/
  | pmnProfileSet (dt : Nat) (h : HostRef) (p : ProfileSet)
  /-- PMN_HIST_READ (R346): Command that writes bin records to host memory. -/
  | pmnHistRead (dt : Nat) (h : HostRef) (p : HistRead)
  /-- PMN_POINT_CLEAR (R346): Command that zeroes a point's current bin counts. -/
  | pmnPointClear (dt : Nat) (h : HostRef) (point : Nat) (c15 : Bool) (c24 : Bool)
  /-- PMN_SEC_READ (R346): Command that writes a point's accumulators to host memory. -/
  | pmnSecRead (dt : Nat) (h : HostRef) (point host : Nat)
  /-- CIP_ROOT_LOAD (R379): Command that loads a root key half from a signed envelope. -/
  | cipRootLoad (dt : Nat) (h : HostRef) (e : List Nat)
  /-- CIP_KEY_ERASE (R381): Command that erases a root or wrapped slot. -/
  | cipKeyErase (dt : Nat) (h : HostRef) (e : List Nat)
  /-- CIP_WRAP_LOAD (R357): Command that unwraps a key into a wrapped-key slot half. -/
  | cipWrapLoad (dt : Nat) (h : HostRef) (p : WrapLoad)
  /-- CIP_EPOCH_FLIP (R361): Command that schedules a key-epoch flip as a one-shot entry. -/
  | cipEpochFlip (dt : Nat) (h : HostRef) (p : EpochFlip) (stored : Bool)
  /-- KEY_EPOCH_FLIP (R362): A CLASS 0x7 entry fires and each named direction announces the new epoch in its next block. -/
  | keyEpochFlip (dt : Nat)
  /-- SEALED_BLOCK_TX (R349): A sending direction begins a sealed block under its epoch and counter. -/
  | sealedBlockTx (dt ctx : Nat) (before : List Nat)
  /-- SEALED_BLOCK_RX (R370): A receiving direction checks a block's stream and gives the verdict on the previous block's tag. -/
  | sealedBlockRx (dt ctx : Nat) (b : SealedRx)
  /-- KEY_DERIVED (R359): A derivation unit completes a key and salt derivation into the cache. -/
  | keyDerived (dt : Nat)
  /-- HALF_ZEROISE (R380): A key half is zeroised once no direction or block in flight still uses it. -/
  | halfZeroise (dt slot : Nat)
  /-- EPOCH_RESERVATION (R365): A new epoch reservation is written to NOR. -/
  | epochReservation (dt : Nat) (stored : Bool)
  /-- BULK_MESSAGE (R376): A bulk message arrives at a pipeline and may suspend a less urgent one. -/
  | bulkMessage (dt : Nat) (m : BulkMsg)
  /-- BULK_OPEN (R377): A bulk message finishes opening and its consumer receives the result. -/
  | bulkOpen (dt pipe : Nat)
  /-- MATE_FRAME_RX (R388): A mate frame's marker and overhead are received on a MATE lane. -/
  | mateFrameRx (dt lane : Nat) (f : MateIn)
  /-- LANE_ROLE_ASSIGN (R389): At each multiframe boundary roles are assigned to usable MATE lanes. -/
  | laneRoleAssign (dt : Nat)
  /-- MATE_LISTEN_END (R392): After listening 2 s or 4 s, the shaft joins a heard mate's address or starts alone. -/
  | mateListenEnd (dt : Nat)
  /-- TALLY_LEASE_RENEWAL (R400): A granting unit issues a GRANT every 8 cycles on both paths. -/
  | tallyLeaseRenewal (dt : Nat)
  /-- GRANT (R402): A GRANT message is received and renews the active's lease. -/
  | grant (dt : Nat) (t : MateText)
  /-- ACK (R401): An ACK message from the active is received. -/
  | ack (dt : Nat) (t : MateText)
  /-- TALLY_IN_WORD (R401): A pin word is received on TALLY_IN. -/
  | tallyInWord (dt : Nat) (chips : List Bool)
  /-- SURRENDER (R407): A SURRENDER message is received. -/
  | surrender (dt : Nat) (t : MateText)
  /-- CLAIM (R407): A CLAIM message is received and the hearer goes JOINING or yields. -/
  | claim (dt : Nat) (t : MateText)
  /-- HEALTH (R386): A HEALTH message is received and compared. -/
  | health (dt : Nat) (t : MateText)
  /-- FORWARD (R411): A forwarded command descriptor is received and applied. -/
  | forward (dt : Nat) (m : MsgHead) (f : Fwd) (stored : Bool)
  /-- PLACE (R411): A PLACE message with standby-page changes is received. -/
  | place (dt : Nat) (m : MsgHead) (p : PlaceMsg)
  /-- PLACE_ACK (R411): A PLACE_ACK naming the page CRC is received. -/
  | placeAck (dt : Nat) (m : MsgHead) (cycle crc : Nat)
  /-- CTRL_IMAGE (R242): A CTRL_IMAGE with protection transmit images is received. -/
  | ctrlImage (dt : Nat) (m : MsgHead) (l : List ImageEntry)
  /-- GATE (R396): A GATE message with the planner's justification plans is received. -/
  | gate (dt : Nat) (t : MateText)
  /-- PAR_GATE_MISS (R396): No GATE entry has arrived by the start of a container frame. -/
  | parGateMiss (dt ctx frame : Nat)
  /-- STATE_DATA (R414): A STATE_DATA message is received and opened into staging. -/
  | stateData (dt : Nat) (t : MateText)
  /-- STATE_COMMIT (R414): A STATE_COMMIT is received and the snapshot is applied whole or discarded. -/
  | stateCommit (dt : Nat) (t : MateText) (snap : Snapshot)
  /-- STATE_ACK (R412): A STATE_ACK verdict from the other unit is received. -/
  | stateAck (dt : Nat) (t : MateText)
  /-- DRILL (R418): A DRILL message from the active is received. -/
  | drill (dt : Nat) (m : MsgHead) (options cycle : Nat)
  /-- STATE_COMMIT_DEADLINE (R414): A snapshot's commit has not arrived by its deadline. -/
  | stateCommitDeadline (dt : Nat)
  /-- STATE_COPY_EPOCH (R412): At a CLASS 0x8 entry the holder takes a snapshot and sends it. -/
  | stateCopyEpoch (dt : Nat)
  /-- PAR_ORPHAN (R402): An active unit's lease expires and it becomes ORPHAN. -/
  | parOrphan (dt : Nat)
  /-- LEASE_VIEW_EXPIRY (R403): A TAKING unit's view of the lease expires and it becomes ACTIVE. -/
  | leaseViewExpiry (dt : Nat)
  /-- PAR_PATH (R404): A mate path becomes silent or is heard again. -/
  | parPath (dt : Nat)
  /-- HEALTH_REPORT (R416): Every 8,000 cycles a unit sends a HEALTH message. -/
  | healthReport (dt : Nat)
  /-- CANARY_BIST (R416): Every 10 ms the standby's canary tests one idle resource. -/
  | canaryBist (dt : Nat) (unit : BistUnit) (failed rotationEnd : Bool)
  /-- PAR_TAKE (R421): Command that asks the unit to take the tally. -/
  | parTake (dt : Nat) (h : HostRef)
  /-- PAR_SURRENDER (R410): Command that surrenders the tally with cause HOST. -/
  | parSurrender (dt : Nat) (h : HostRef)
  /-- PAR_DRILL (R418): Command that starts a takeover drill. -/
  | parDrill (dt : Nat) (h : HostRef) (options : Nat)
  /-- PAR_CLEAR_FAULT (R410): Command that clears PAR_FAULTED once its cause has gone. -/
  | parClearFault (dt : Nat) (h : HostRef)
  /-- DRILL_ACK_TIMEOUT (R418): No STATE_ACK with verdict 0 arrives within 8 cycles of the drill's commit. -/
  | drillAckTimeout (dt : Nat)
  /-- DRILL_CLAIM_TIMEOUT (R418): No CLAIM arrives within 50 ms of a drill's SURRENDER. -/
  | drillClaimTimeout (dt : Nat)
  /-- GOVERNOR_STEP (R427): At each multiframe boundary the governor compares mean power with the budget and pulls or releases one lever step. -/
  | governorStep (dt : Nat) (o : GovObs)
  /-- DEV_POWER_UPDATE (R425): Every 100 µs the rail power estimates are summed and the last-gasp ledger is charged. -/
  | devPowerUpdate (dt : Nat) (rails : List (Nat × Nat))
  /-- SLEW_WINDOW (R431): A new 100 µs slew window admits load steps that waited. -/
  | slewWindow (dt : Nat)
  /-- DETECTOR_ARM (R433): Every enabled pair has been above VMIN for 1 s with a set in force, so feed-loss detection arms. -/
  | detectorArm (dt : Nat)
  /-- FEED_LOSS (R433): Every pair has been low for ENG_LOSS_WORDS words, so the last gasp is declared. -/
  | feedLoss (dt : Nat)
  /-- LG_STAGE_END (R435): A last-gasp stage ends and the next stage is priced and run or skipped. -/
  | lgStageEnd (dt : Nat)
  /-- PMBUS_POLL (R439): Every 100 ms the device reads status and telemetry from each polled converter. -/
  | pmbusPoll (dt : Nat) (l : List PmbRead)
  /-- PMB_ALERT (R439): PMB_ALERT_N falls. -/
  | pmbAlert (dt conv status : Nat)
  /-- ENG_EPB_UPDATE (R440): Every second energy per bit is recomputed. -/
  | engEpbUpdate (dt : Nat)
  /-- ENG_LAST_GASP (R434): Command that declares feed loss at once. -/
  | engLastGasp (dt : Nat) (h : HostRef)
  /-- ENG_PMB_XFER (R439): Command that passes one host PMBus transaction. -/
  | engPmbXfer (dt : Nat) (h : HostRef) (p : PmbXfer)
  /-- ENG_CRASH_READ (R436): Command that returns a crash record. -/
  | engCrashRead (dt : Nat) (h : HostRef) (slot host : Nat)
  /-- ENG_CRASH_RELEASE (R436): Command that erases a crash slot. -/
  | engCrashRelease (dt : Nat) (h : HostRef) (slot : Nat)
  /-- ENG_CRASH_POINTS (R436): Command that sets the points whose bins go into the crash record. -/
  | engCrashPoints (dt : Nat) (h : HostRef) (count first : Nat) (points : List Nat)
  /-- DESCRIPTOR_FETCH (R457): Fetched command descriptors return from host memory, are checked and delivered to their blocks. -/
  | descriptorFetch (dt : Nat) (l : List (Nat × List (List Nat)))
  /-- HELD_EVENT_RELEASE (R467): Held events are written once the device may write the EVQ again. -/
  | heldEventRelease (dt : Nat)
  /-- DQ_WRITEBACK (R469): At a cycle boundary a data queue's write-back record is written. -/
  | dqWriteback (dt d : Nat)
  /-- VECTOR_TIMER (R471): An MSI-X vector's moderation timer expires and it sends its message. -/
  | vectorTimer (dt v : Nat)
  /-- PCIE_LINK_CHANGE (R444): The PCIe link goes down or up or changes speed or width. -/
  | pcieLinkChange (dt : Nat) (up : Bool) (speed width : Nat)
  /-- PCIE_POWER_STATE (R444): D3hot or Bus Master Enable changes whether the device may access host memory. -/
  | pciePowerState (dt : Nat) (d3hot : Bool) (busMaster : Bool)
  /-- HIF_DOMAIN_RESET (R445): A Function Level Reset or hot reset resets the HIF domain. -/
  | hifDomainReset (dt : Nat)
  /-- HIF_NOP (R474): Command that completes and echoes its parameters. -/
  | hifNop (dt : Nat) (h : HostRef) (value : Nat)
  /-- HIF_DQ_BIND (R468): Command that exposes a hardware queue as a data queue. -/
  | hifDqBind (dt : Nat) (h : HostRef) (p : DqBind)
  /-- HIF_DQ_UNBIND (R474): Command that unbinds a data queue at the next cycle boundary. -/
  | hifDqUnbind (dt : Nat) (h : HostRef) (d : Nat)
  /-- HIF_SEV_SET (R465): Command that sets event severities. -/
  | hifSevSet (dt : Nat) (h : HostRef) (first count : Nat) (levels : List Nat)
  /-- HIF_EVQ_TEST (R474): Command that raises HIF_TEST on an event queue. -/
  | hifEvqTest (dt : Nat) (h : HostRef) (evq sev : Nat)
  /-- QUEUE_PUSH (R478): A writer writes to a queue, packing narrow writes into wide words. -/
  | queuePush (dt q : Nat) (w : QWrite)
  /-- QUEUE_POP (R489): A reader takes the oldest readable word. -/
  | queuePop (dt q : Nat)
  /-- QUEUE_FLUSH (R482): A record-mode word open for QMG_Q_FLUSH cycles closes short. -/
  | queueFlush (dt q : Nat)
  /-- Q_DROP (R488): A one-second drop window ends and reports its drops. -/
  | qDrop (dt q : Nat)
  /-- Q_PTR_RESET (R496): A binary and Gray pointer copy mismatch and the queue is reset. -/
  | qPtrReset (dt q which binary gray : Nat)
  /-- QUEUE_RESET_END (R496): A queue reset ends at the next cycle boundary. -/
  | queueResetEnd (dt q : Nat)
  /-- QMG_Q_CREATE (R499): Command that creates a host queue. -/
  | qmgQCreate (dt : Nat) (h : HostRef) (p : QCreate)
  /-- QMG_Q_DESTROY (R499): Command that destroys a host queue. -/
  | qmgQDestroy (dt : Nat) (h : HostRef) (q : Nat)
  /-- QMG_Q_SET (R486): Command that changes a queue's thresholds and hold-mark mode. -/
  | qmgQSet (dt : Nat) (h : HostRef) (q high low : Nat) (hold : Bool) (holdValid : Bool)
  /-- QMG_Q_READ (R499): Command that writes a queue state record to host memory. -/
  | qmgQRead (dt : Nat) (h : HostRef) (q host : Nat)
  /-- QMG_MARK (R491): Command that sets or clears a rewind mark. -/
  | qmgMark (dt : Nat) (h : HostRef) (q on : Nat)
  /-- QMG_REWIND (R492): Command that moves the read pointer back to the mark. -/
  | qmgRewind (dt : Nat) (h : HostRef) (q : Nat)
  /-- QMG_DROP_REST (R490): Command that discards the rest of the current packet. -/
  | qmgDropRest (dt : Nat) (h : HostRef) (q : Nat)
  /-- QMG_Q_RESET (R496): Command that forces a queue reset. -/
  | qmgQReset (dt : Nat) (h : HostRef) (q : Nat)
  /-- REGISTER_WRITE (R503): A host write to a register that has no row of its own is applied by field type. -/
  | registerWrite (dt off value be : Nat)
  /-- SHADOW_LO_READ (R512): A read of the LO field of a shadowed pair latches its HI field into the shadow. -/
  | shadowLoRead (dt off : Nat)
  /-- GLB_COMMIT (R515): A write of GLB_COMMIT requests or cancels commits of groups. -/
  | glbCommit (dt value : Nat)
  /-- COMMIT_SNAPSHOT (R516): At the cycle boundary after a request, staged values are snapshot and checked. -/
  | commitSnapshot (dt : Nat) (bad : Option Nat)
  /-- COMMIT_OUTCOME (R516): At the next position 0 the requested groups take effect or are rejected. -/
  | commitOutcome (dt : Nat)
  /-- GLB_DISCARD (R518): A write of GLB_DISCARD copies active values back to staged values. -/
  | glbDiscard (dt value : Nat)
  /-- RST_REQ (R527): A keyed write of RST_REQ puts a reset domain into reset. -/
  | rstReq (dt value : Nat)
  /-- RST_HEWER_REQ (R527): A keyed write of RST_HEWER_REQ puts a hewer into reset. -/
  | rstHewerReq (dt third value : Nat)
  /-- RESET_RELEASED (R577): A domain or hewer is released from reset and becomes ready. -/
  | resetReleased (dt unit : Nat)
  /-- TRI_SCRUB (R510): Once per epoch all triplicated fields are compared. -/
  | triScrub (dt : Nat) (l : List TriError)
  /-- REG_COMMIT (R515): Command that requests a commit of groups. -/
  | regCommit (dt : Nat) (h : HostRef) (mask : Nat)
  /-- REG_DISCARD (R529): Command that discards staged values of groups. -/
  | regDiscard (dt : Nat) (h : HostRef) (mask : Nat)
  /-- ASSAY_GRANULE_CHECK (R535): An assay unit recomputes one granule's check value and compares it with the stored word. -/
  | assayGranuleCheck (dt : Nat) (g : Granule)
  /-- ASSAY_PASS_LATE (R534): A pass has not ended within twice ASY_PERIOD. -/
  | assayPassLate (dt unit : Nat)
  /-- ASSAY_COMPARE_START (R543): At the first cycle boundary after the first set is in force, compare mode begins. -/
  | assayCompareStart (dt : Nat)
  /-- TRANSFER_UNIT_RX (R540): A transfer unit is received and its check value stripped. -/
  | transferUnitRx (dt unit : Nat) (u : List Nat)
  /-- ASY_CHECK (R545): Command that restarts assay passes. -/
  | asyCheck (dt : Nat) (h : HostRef) (mask : Nat)
  /-- ASY_LOOPBACK (R542): Command that runs a loopback test through an HBM queue region. -/
  | asyLoopback (dt : Nat) (h : HostRef) (src dst bytes : Nat) (units back : List (List Nat))
  /-- SEC_TRNG_FAIL (R548): A TRNG health test fails or recovers. -/
  | secTrngFail (dt test : Nat) (fails : Bool)
  /-- SEC_CHALLENGE (R562): Command that draws and returns a fresh nonce. -/
  | secChallenge (dt : Nat) (h : HostRef) (host : Nat)
  /-- NONCE_EXPIRY (R562): A nonce expires 600 s after issue. -/
  | nonceExpiry (dt : Nat)
  /-- SEC_ATTEST (R556): Command that writes a signed attestation report. -/
  | secAttest (dt : Nat) (h : HostRef) (nonce : List Nat) (host : Nat)
  /-- SEC_CERT_READ (R557): Command that writes the identity certificate. -/
  | secCertRead (dt : Nat) (h : HostRef) (host : Nat)
  /-- SEC_LIFECYCLE (R559): Command that moves the lifecycle forward by one state. -/
  | secLifecycle (dt : Nat) (h : HostRef) (e : List Nat)
  /-- SEC_OPKEY_ROTATE (R560): Command that writes the next operator key slot. -/
  | secOpkeyRotate (dt : Nat) (h : HostRef) (e : List Nat)
  /-- SEC_SVN_COMMIT (R552): Command that advances the anti-rollback counter and revokes keys. -/
  | secSvnCommit (dt : Nat) (h : HostRef)
  /-- SEC_IMAGE_STAGE (R554): Command that reads and checks an image for the other slot. -/
  | secImageStage (dt : Nat) (h : HostRef) (length : Nat)
  /-- SEC_IMAGE_STAGED (R554): An image stage completes or fails. -/
  | secImageStaged (dt : Nat)
  /-- SEC_DEBUG_UNLOCK (R564): Command that opens the debug port for a scope and duration. -/
  | secDebugUnlock (dt : Nat) (h : HostRef) (e : List Nat)
  /-- SEC_DEBUG_LOCK (R564): Command that closes the debug port. -/
  | secDebugLock (dt : Nat) (h : HostRef)
  /-- DEBUG_EXPIRY (R564): The debug duration expires and the port closes. -/
  | debugExpiry (dt : Nat)
  /-- POWER_ON_RESET_RELEASE (R570): PORST_N is released, the straps are sampled and the boot ROM starts. -/
  | powerOnResetRelease (dt : Nat) (b : BootIn)
  /-- RAIL_UNDERVOLTAGE (R569): A core rail stays below its minimum for 2 µs and a CHIP reset follows. -/
  | railUndervoltage (dt : Nat)
  /-- PERST_N_RELEASE (R571): PERST_N is released and the PCIe link and configuration space are served. -/
  | perstNRelease (dt speed width : Nat)
  /-- SELFTEST_RESULT (R575): Self-test completes and failed units are marked unusable. -/
  | selftestResult (dt : Nat) (t : SelfTest)
  /-- CONFIG_SET_STAGE (R587): A loaded set is checked and its CMT records are staged, and its commit is requested at the next boundary. -/
  | configSetStage (dt : Nat)
  /-- CONFIG_STORE (R592): A set in force is written to NOR when STORE was set. -/
  | configStore (dt : Nat) (ok : Bool)
  /-- CFG_LOAD (R587): Command that loads a configuration set from host memory. -/
  | cfgLoad (dt : Nat) (h : HostRef) (address length : Nat) (store : Bool)
  /-- CFG_STATUS (R593): Command that returns the set in force. -/
  | cfgStatus (dt : Nat) (h : HostRef)
  /-- BOOT_LOAD (R573): Command that loads and runs an image in boot mode. -/
  | bootLoad (dt : Nat) (h : HostRef) (address length : Nat) (units : List (List Nat))
  /-- SELFTEST_READ (R593): Command that writes the last self-test results. -/
  | selftestRead (dt : Nat) (h : HostRef) (host : Nat)
  /-- SCRUB_WORD (R598): The scrubber reads an SRAM word and repairs or reports errors. -/
  | scrubWord (dt : Nat) (e : SramError)
  /-- HBM_PATROL (R602): The HBM patrol reads a word and corrects or reports errors. -/
  | hbmPatrol (dt address region num : Nat) (error uncorr : Bool)
  /-- BKG_EPOCH (R596): At each epoch the background charges are reset and starvation is judged. -/
  | bkgEpoch (dt hewerUse hbmUse : Nat) (waiting : List Nat)
  /-- TJ_UPDATE (R604): Each cycle BKG_TJ_MAX is updated from the temperature channels. -/
  | tjUpdate (dt : Nat)
  /-- THERMAL_FAULT (R410): Tj has been at or above 110 °C for 1 s and the unit is faulted. -/
  | thermalFault (dt : Nat)
  /-- AGE_MEASURE (R606): Once per hour every ageing monitor is measured. -/
  | ageMeasure (dt : Nat) (l : List (Nat × Nat))
  /-- LIFE_RECORD (R608): Each hour the life record is updated and logged. -/
  | lifeRecord (dt : Nat)
  /-- LOG_APPEND (R611): A record is appended to the NOR log. -/
  | logAppend (dt : Nat)
  /-- BKG_AGE_READ (R619): Command that writes the ageing indices. -/
  | bkgAgeRead (dt : Nat) (h : HostRef) (host : Nat)
  /-- BKG_LOG_APPEND (R611): Command that appends a host record to the log. -/
  | bkgLogAppend (dt : Nat) (h : HostRef) (detail : List Nat)
  /-- BKG_LOG_READ (R619): Command that writes log sectors to host memory. -/
  | bkgLogRead (dt : Nat) (h : HostRef) (first sectors host : Nat)
  /-- TST_ARM (R615): A write of TST_ARM arms or disarms the test perturbations if conditions allow. -/
  | tstArm (dt value : Nat)
  /-- TST_ENDED (R616): All perturbations end on disarm, duration expiry, a failed condition or a count. -/
  | tstEnded (dt : Nat)
  /-- REF_INPUT_NO_EDGE (R61): No edge arrives on REFIN0 or REFIN1 within 4 nominal periods, or no PPSIN edge arrives by 1,001 ms after the previous one, which is a signal defect that disqualifies the candidate. -/
  | refInputNoEdge (dt cand : Nat)
  /-- ESMC_PDU_TIMEOUT (R68): No ESMC PDU has been received on a 10GBASE-R or 25GBASE-R candidate source for 5 s, so its received QL becomes DNU or DUS. -/
  | esmcPduTimeout (dt lane : Nat)
  /-- PORST_N_LOW (R568): PORST_N is driven low by the board, putting the device into CHIP reset with its outputs in the reset states of Table 21-5. -/
  | porstNLow (dt : Nat)
  /-- FOLDED_EVENT_SECOND_END (R247): At the end of a second in which a rate-limited event exceeded its allowance, one folded event that carries the count and the final state is raised. -/
  | foldedEventSecondEnd (dt : Nat)
  deriving DecidableEq, Repr

end Sys2Proof
end

