-- ==== Sys2Proof/Decode.lean ====
section
/-! DEFINITION. The table gives no row any bits (opcode_table.json: every row's `fields` is empty and none
has `fixed`), so no word spells a command. -/

namespace Sys2Proof

/-- The command that a word of the table's bits spells: none, for no row of the table has bits. -/
def decodeTableWord (_nbits _w : Nat) : Option Instr := none

end Sys2Proof
end

