-- ==== Sys2Proof/Machine/Codes.lean ====
section
/-! DEFINITION. Event codes and command opcodes (R8), as each block's own tables give them. -/

namespace Sys2Proof.Machine

namespace Ev

def SHAFT_STATE_CHANGE : Nat := 0x0101
def SCHED_SWAP : Nat := 0x0102
def SCHED_SWAP_DEFERRED : Nat := 0x0103
def SCHED_REJECT : Nat := 0x0104
def SCHED_LATE : Nat := 0x0105
def GATE_SLIP : Nat := 0x0106
def SHAFT_HALT : Nat := 0x0107
def REF_QUALIFIED : Nat := 0x0110
def REF_DISQUALIFIED : Nat := 0x0111
def REF_SWITCH_START : Nat := 0x0112
def REF_SWITCH_DONE : Nat := 0x0113
def REF_WTR_START : Nat := 0x0114
def REF_DISAGREE : Nat := 0x0115
def DPLL_STATE_CHANGE : Nat := 0x0116
def REF_QL_CHANGE : Nat := 0x0117
def DCO_LIMIT : Nat := 0x0118
def MODEL_STATE_CHANGE : Nat := 0x0119
def MODEL_EXTRAPOLATE : Nat := 0x011A
def FORCE_CANCELLED : Nat := 0x011B
def TOD_STEP : Nat := 0x011C
def CHAIN_SATURATED : Nat := 0x0201
def INPUT_STUCK : Nat := 0x0202
def COEF_ASYM : Nat := 0x0203
def XFADE_DONE : Nat := 0x0204
def SWAP_DEFERRED : Nat := 0x0205
def SWAP_REPLACED : Nat := 0x0206
def SWAP_DONE : Nat := 0x0207
def LANE_LOS : Nat := 0x0301
def LANE_LOL : Nat := 0x0302
def LANE_BLOCK_LOCK : Nat := 0x0303
def LANE_HIBER : Nat := 0x0304
def LANE_READY : Nat := 0x0305
def LANE_TAP_CLIP : Nat := 0x0306
def TRB_ALIGN : Nat := 0x0307
def TRB_CHAN_LOS : Nat := 0x0308
def TRB_SLOT_OVERRUN : Nat := 0x0309
def TRB_MODE_MISMATCH : Nat := 0x030A
def PRBS_LOCK : Nat := 0x030B
def RLK_LFA : Nat := 0x0401
def RLK_RDI : Nat := 0x0402
def RLK_LIM : Nat := 0x0403
def RLK_REMOTE_DGASP : Nat := 0x0404
def RLK_SEQ_RESYNC : Nat := 0x0405
def RLK_BOTH_LOST : Nat := 0x0406
def RLK_UNKNOWN_CID : Nat := 0x0407
def FRM_DEFECT : Nat := 0x0501
def FRM_FAILURE : Nat := 0x0502
def FRM_TRACE_ACCEPTED : Nat := 0x0503
def FRM_LABEL_ACCEPTED : Nat := 0x0504
def FRM_APS_RX : Nat := 0x0505
def FRM_APS_SWITCH : Nat := 0x0506
def OH_OVERRUN : Nat := 0x0507
def FRM_REFRAMED : Nat := 0x0508
def MAP_DD_EXCEEDED : Nat := 0x0601
def MAP_DD_RESYNC : Nat := 0x0602
def MAP_GFP_LFD : Nat := 0x0603
def MAP_GFP_CMF : Nat := 0x0604
def MAP_VLAN_UNMATCHED : Nat := 0x0605
def MAP_RATE_LIMIT : Nat := 0x0606
def MAP_SC_CRC : Nat := 0x0607
def OVM_PLACED : Nat := 0x0701
def OVM_REFUSED : Nat := 0x0702
def OVM_MOVED : Nat := 0x0703
def OVM_WITHDRAWN : Nat := 0x0704
def OVM_SHED : Nat := 0x0705
def OVM_RESTORED : Nat := 0x0706
def OVM_HOLD_EXPIRED : Nat := 0x0707
def OVM_PIN_BLOCKED : Nat := 0x0708
def OVM_ENGINES : Nat := 0x0709
def PM_BIN_CLOSED : Nat := 0x0801
def PM_TCA : Nat := 0x0802
def PM_SECOND_LOST : Nat := 0x0803
def PM_UNAVAIL : Nat := 0x0804
def PM_EXPORT_DROP : Nat := 0x0805
def PM_HIST_ERROR : Nat := 0x0806
def AUTH_FAIL : Nat := 0x0901
def CTR_WARN : Nat := 0x0902
def CTX_STOPPED : Nat := 0x0903
def CTX_RESUMED : Nat := 0x0904
def EPOCH_FLIPPED : Nat := 0x0905
def KEY_LOADED : Nat := 0x0906
def KEY_ERASED : Nat := 0x0907
def BULK_AUTH_FAIL : Nat := 0x0908
def EPOCH_RESERVED : Nat := 0x0909
def EPOCH_RESV_FAIL : Nat := 0x090A
def PAR_STATE_CHANGE : Nat := 0x0A01
def PAR_TALLY_TAKEN : Nat := 0x0A02
def PAR_SURRENDER : Nat := 0x0A03
def PAR_ORPHAN : Nat := 0x0A04
def PAR_LANE : Nat := 0x0A05
def PAR_PATH : Nat := 0x0A06
def PAR_EPOCH_DISCARDED : Nat := 0x0A07
def PAR_CANARY : Nat := 0x0A08
def PAR_DRILL_RESULT : Nat := 0x0A09
def PAR_ADDR_CONFLICT : Nat := 0x0A0A
def PAR_CONFIG_MISMATCH : Nat := 0x0A0B
def PAR_DUAL_ACTIVE : Nat := 0x0A0C
def PAR_GATE_MISS : Nat := 0x0A0D
def ENG_LEVER : Nat := 0x0B01
def ENG_OVER_BUDGET : Nat := 0x0B02
def ENG_FEED_LOW : Nat := 0x0B03
def ENG_FEED_UNALIGNED : Nat := 0x0B04
def ENG_LAST_GASP : Nat := 0x0B05
def ENG_LG_SKIPPED : Nat := 0x0B06
def ENG_REMOTE_DGASP : Nat := 0x0B07
def ENG_PMB_FAULT : Nat := 0x0B08
def EVQ_OVERFLOW : Nat := 0x0C04
def HIF_DESC_BAD : Nat := 0x0C01
def HIF_INDEX_BAD : Nat := 0x0C02
def HIF_DB_ERROR : Nat := 0x0C03
def HIF_TEST : Nat := 0x0C05
def HIF_DQ_READY : Nat := 0x0C06
def HIF_LINK : Nat := 0x0C07
def Q_HIGH : Nat := 0x0D01
def Q_FULL : Nat := 0x0D02
def Q_DROP : Nat := 0x0D03
def Q_PTR_RESET : Nat := 0x0D04
def Q_MARK_LOST : Nat := 0x0D05
def COMMIT_DONE : Nat := 0x0E01
def COMMIT_REJECT : Nat := 0x0E02
def WRITE_TO_LOCKED : Nat := 0x0E03
def TRI_CORRECTED : Nat := 0x0E04
def TRI_NO_MAJORITY : Nat := 0x0E05
def REG_ACCESS_BAD : Nat := 0x0E06
def ASSAY_MISMATCH : Nat := 0x0F01
def CHECK_REGENERATED : Nat := 0x0F02
def CHECK_CORRECTED : Nat := 0x0F03
def CHECK_SUSPECT : Nat := 0x0F04
def ASSAY_SKIP : Nat := 0x0F05
def ASSAY_PASS_LATE : Nat := 0x0F06
def SEC_BOOTED : Nat := 0x1001
def SEC_LIFECYCLE_CHANGED : Nat := 0x1002
def SEC_ENVELOPE_BAD : Nat := 0x1003
def SEC_SVN_ADVANCED : Nat := 0x1004
def SEC_DEBUG : Nat := 0x1005
def SEC_TRNG_FAIL : Nat := 0x1006
def SEC_IMAGE_STAGED : Nat := 0x1007
def CONFIG_REJECTED : Nat := 0x1101
def CONFIG_IN_FORCE : Nat := 0x1102
def RESET_ENTERED : Nat := 0x1103
def RESET_RELEASED : Nat := 0x1104
def SELFTEST_RESULT : Nat := 0x1105
def NOR_COPY_BAD : Nat := 0x1106
def SCRUB_CORRECTED : Nat := 0x1201
def SCRUB_UNCORRECTABLE : Nat := 0x1202
def ROW_WEAK : Nat := 0x1203
def HBM_ECC : Nat := 0x1204
def AGE_MARGIN : Nat := 0x1205
def LIFE_BUDGET : Nat := 0x1206
def TEMP_HIGH : Nat := 0x1207
def LOG_DROP : Nat := 0x1208
def BKG_STARVED : Nat := 0x1209
def TST_ARMED : Nat := 0x1210
def TST_ENDED : Nat := 0x1211
def TST_REFUSED : Nat := 0x1212

/-- Every event code the blocks define. -/
def all : List Nat :=
  [SHAFT_STATE_CHANGE, SCHED_SWAP, SCHED_SWAP_DEFERRED, SCHED_REJECT, SCHED_LATE, GATE_SLIP, SHAFT_HALT, REF_QUALIFIED, REF_DISQUALIFIED, REF_SWITCH_START, REF_SWITCH_DONE, REF_WTR_START, REF_DISAGREE, DPLL_STATE_CHANGE, REF_QL_CHANGE, DCO_LIMIT, MODEL_STATE_CHANGE, MODEL_EXTRAPOLATE, FORCE_CANCELLED, TOD_STEP] ++
  [CHAIN_SATURATED, INPUT_STUCK, COEF_ASYM, XFADE_DONE, SWAP_DEFERRED, SWAP_REPLACED, SWAP_DONE, LANE_LOS, LANE_LOL, LANE_BLOCK_LOCK, LANE_HIBER, LANE_READY, LANE_TAP_CLIP, TRB_ALIGN, TRB_CHAN_LOS, TRB_SLOT_OVERRUN, TRB_MODE_MISMATCH, PRBS_LOCK, RLK_LFA, RLK_RDI] ++
  [RLK_LIM, RLK_REMOTE_DGASP, RLK_SEQ_RESYNC, RLK_BOTH_LOST, RLK_UNKNOWN_CID, FRM_DEFECT, FRM_FAILURE, FRM_TRACE_ACCEPTED, FRM_LABEL_ACCEPTED, FRM_APS_RX, FRM_APS_SWITCH, OH_OVERRUN, FRM_REFRAMED, MAP_DD_EXCEEDED, MAP_DD_RESYNC, MAP_GFP_LFD, MAP_GFP_CMF, MAP_VLAN_UNMATCHED, MAP_RATE_LIMIT, MAP_SC_CRC] ++
  [OVM_PLACED, OVM_REFUSED, OVM_MOVED, OVM_WITHDRAWN, OVM_SHED, OVM_RESTORED, OVM_HOLD_EXPIRED, OVM_PIN_BLOCKED, OVM_ENGINES, PM_BIN_CLOSED, PM_TCA, PM_SECOND_LOST, PM_UNAVAIL, PM_EXPORT_DROP, PM_HIST_ERROR, AUTH_FAIL, CTR_WARN, CTX_STOPPED, CTX_RESUMED, EPOCH_FLIPPED] ++
  [KEY_LOADED, KEY_ERASED, BULK_AUTH_FAIL, EPOCH_RESERVED, EPOCH_RESV_FAIL, PAR_STATE_CHANGE, PAR_TALLY_TAKEN, PAR_SURRENDER, PAR_ORPHAN, PAR_LANE, PAR_PATH, PAR_EPOCH_DISCARDED, PAR_CANARY, PAR_DRILL_RESULT, PAR_ADDR_CONFLICT, PAR_CONFIG_MISMATCH, PAR_DUAL_ACTIVE, PAR_GATE_MISS, ENG_LEVER, ENG_OVER_BUDGET] ++
  [ENG_FEED_LOW, ENG_FEED_UNALIGNED, ENG_LAST_GASP, ENG_LG_SKIPPED, ENG_REMOTE_DGASP, ENG_PMB_FAULT, EVQ_OVERFLOW, HIF_DESC_BAD, HIF_INDEX_BAD, HIF_DB_ERROR, HIF_TEST, HIF_DQ_READY, HIF_LINK, Q_HIGH, Q_FULL, Q_DROP, Q_PTR_RESET, Q_MARK_LOST, COMMIT_DONE, COMMIT_REJECT] ++
  [WRITE_TO_LOCKED, TRI_CORRECTED, TRI_NO_MAJORITY, REG_ACCESS_BAD, ASSAY_MISMATCH, CHECK_REGENERATED, CHECK_CORRECTED, CHECK_SUSPECT, ASSAY_SKIP, ASSAY_PASS_LATE, SEC_BOOTED, SEC_LIFECYCLE_CHANGED, SEC_ENVELOPE_BAD, SEC_SVN_ADVANCED, SEC_DEBUG, SEC_TRNG_FAIL, SEC_IMAGE_STAGED, CONFIG_REJECTED, CONFIG_IN_FORCE, RESET_ENTERED] ++
  [RESET_RELEASED, SELFTEST_RESULT, NOR_COPY_BAD, SCRUB_CORRECTED, SCRUB_UNCORRECTABLE, ROW_WEAK, HBM_ECC, AGE_MARGIN, LIFE_BUDGET, TEMP_HIGH, LOG_DROP, BKG_STARVED, TST_ARMED, TST_ENDED, TST_REFUSED]

end Ev

namespace Op

def TIM_FORCE : Nat := 0x0140
def TIM_CLEAR : Nat := 0x0141
def TIM_LOCKOUT : Nat := 0x0142
def TIM_HOLDOVER : Nat := 0x0143
def TIM_STEER : Nat := 0x0144
def TIM_SET_TOD : Nat := 0x0145
def TIM_TOD_CAPTURE : Nat := 0x0146
def TIM_MODEL_LOAD : Nat := 0x0147
def TIM_WTR_CLEAR : Nat := 0x0148
def FLT_CONFIG : Nat := 0x0240
def FLT_COEF_LOAD : Nat := 0x0241
def FLT_SWAP : Nat := 0x0242
def FLT_SYNC_RESET : Nat := 0x0243
def FLT_FREEZE : Nat := 0x0244
def PRT_TEST : Nat := 0x0340
def PRT_ADAPT_RESTART : Nat := 0x0341
def FRM_CTX_CFG : Nat := 0x0540
def FRM_TRACE_SET : Nat := 0x0541
def FRM_CTX_READ : Nat := 0x0542
def FRM_APS_CFG : Nat := 0x0543
def FRM_APS_CMD : Nat := 0x0544
def FRM_FORCE : Nat := 0x0545
def FRM_REFRAME : Nat := 0x0546
def FRM_ERR_INSERT : Nat := 0x0547
def MAP_CTX_READ : Nat := 0x0640
def MAP_PAGE_READ : Nat := 0x0641
def MAP_DD_STATUS : Nat := 0x0642
def OVM_INTENT_ADD : Nat := 0x0740
def OVM_INTENT_WITHDRAW : Nat := 0x0741
def OVM_PIN : Nat := 0x0742
def OVM_UNPIN : Nat := 0x0743
def OVM_RESULT_READ : Nat := 0x0744
def OVM_DEFRAG : Nat := 0x0745
def PMN_POINT_CFG : Nat := 0x0840
def PMN_PROFILE_SET : Nat := 0x0841
def PMN_HIST_READ : Nat := 0x0842
def PMN_POINT_CLEAR : Nat := 0x0843
def PMN_SEC_READ : Nat := 0x0844
def CIP_ROOT_LOAD : Nat := 0x0940
def CIP_KEY_ERASE : Nat := 0x0941
def CIP_WRAP_LOAD : Nat := 0x0942
def CIP_EPOCH_FLIP : Nat := 0x0943
def PAR_TAKE : Nat := 0x0A40
def PAR_SURRENDER : Nat := 0x0A41
def PAR_DRILL : Nat := 0x0A42
def PAR_CLEAR_FAULT : Nat := 0x0A43
def ENG_LAST_GASP : Nat := 0x0B40
def ENG_PMB_XFER : Nat := 0x0B41
def ENG_CRASH_READ : Nat := 0x0B42
def ENG_CRASH_RELEASE : Nat := 0x0B43
def ENG_CRASH_POINTS : Nat := 0x0B44
def HIF_NOP : Nat := 0x0C40
def HIF_DQ_BIND : Nat := 0x0C41
def HIF_DQ_UNBIND : Nat := 0x0C42
def HIF_SEV_SET : Nat := 0x0C43
def HIF_EVQ_TEST : Nat := 0x0C44
def QMG_Q_CREATE : Nat := 0x0D40
def QMG_Q_DESTROY : Nat := 0x0D41
def QMG_Q_SET : Nat := 0x0D42
def QMG_Q_READ : Nat := 0x0D43
def QMG_MARK : Nat := 0x0D44
def QMG_REWIND : Nat := 0x0D45
def QMG_DROP_REST : Nat := 0x0D46
def QMG_Q_RESET : Nat := 0x0D47
def REG_COMMIT : Nat := 0x0E40
def REG_DISCARD : Nat := 0x0E41
def ASY_CHECK : Nat := 0x0F40
def ASY_LOOPBACK : Nat := 0x0F41
def SEC_CHALLENGE : Nat := 0x1040
def SEC_ATTEST : Nat := 0x1041
def SEC_CERT_READ : Nat := 0x1042
def SEC_LIFECYCLE : Nat := 0x1043
def SEC_OPKEY_ROTATE : Nat := 0x1044
def SEC_SVN_COMMIT : Nat := 0x1045
def SEC_IMAGE_STAGE : Nat := 0x1046
def SEC_DEBUG_UNLOCK : Nat := 0x1047
def SEC_DEBUG_LOCK : Nat := 0x1048
def CFG_LOAD : Nat := 0x1140
def CFG_STATUS : Nat := 0x1141
def BOOT_LOAD : Nat := 0x1142
def SELFTEST_READ : Nat := 0x1143
def BKG_AGE_READ : Nat := 0x1240
def BKG_LOG_APPEND : Nat := 0x1241
def BKG_LOG_READ : Nat := 0x1242

/-- Every command opcode the blocks define. -/
def all : List Nat :=
  [TIM_FORCE, TIM_CLEAR, TIM_LOCKOUT, TIM_HOLDOVER, TIM_STEER, TIM_SET_TOD, TIM_TOD_CAPTURE, TIM_MODEL_LOAD, TIM_WTR_CLEAR, FLT_CONFIG, FLT_COEF_LOAD, FLT_SWAP, FLT_SYNC_RESET, FLT_FREEZE, PRT_TEST, PRT_ADAPT_RESTART, FRM_CTX_CFG, FRM_TRACE_SET, FRM_CTX_READ, FRM_APS_CFG] ++
  [FRM_APS_CMD, FRM_FORCE, FRM_REFRAME, FRM_ERR_INSERT, MAP_CTX_READ, MAP_PAGE_READ, MAP_DD_STATUS, OVM_INTENT_ADD, OVM_INTENT_WITHDRAW, OVM_PIN, OVM_UNPIN, OVM_RESULT_READ, OVM_DEFRAG, PMN_POINT_CFG, PMN_PROFILE_SET, PMN_HIST_READ, PMN_POINT_CLEAR, PMN_SEC_READ, CIP_ROOT_LOAD, CIP_KEY_ERASE] ++
  [CIP_WRAP_LOAD, CIP_EPOCH_FLIP, PAR_TAKE, PAR_SURRENDER, PAR_DRILL, PAR_CLEAR_FAULT, ENG_LAST_GASP, ENG_PMB_XFER, ENG_CRASH_READ, ENG_CRASH_RELEASE, ENG_CRASH_POINTS, HIF_NOP, HIF_DQ_BIND, HIF_DQ_UNBIND, HIF_SEV_SET, HIF_EVQ_TEST, QMG_Q_CREATE, QMG_Q_DESTROY, QMG_Q_SET, QMG_Q_READ] ++
  [QMG_MARK, QMG_REWIND, QMG_DROP_REST, QMG_Q_RESET, REG_COMMIT, REG_DISCARD, ASY_CHECK, ASY_LOOPBACK, SEC_CHALLENGE, SEC_ATTEST, SEC_CERT_READ, SEC_LIFECYCLE, SEC_OPKEY_ROTATE, SEC_SVN_COMMIT, SEC_IMAGE_STAGE, SEC_DEBUG_UNLOCK, SEC_DEBUG_LOCK, CFG_LOAD, CFG_STATUS, BOOT_LOAD] ++
  [SELFTEST_READ, BKG_AGE_READ, BKG_LOG_APPEND, BKG_LOG_READ]

end Op

end Sys2Proof.Machine
end

