-- ==== Sys2Proof/Machine/Fields.lean ====
section
/-! DEFINITION. The register map: one descriptor per register field of the spec's register tables
(R523 and each block's own table), with its address, bits, type and reset value. -/

namespace Sys2Proof.Machine

/-- The types of Table 00-2 (R6); RSV bits belong to no field and so read 0 (R508). -/
inductive FKind where
  | ctl | sts | cnt | cmt | lck
  deriving DecidableEq, Repr

/-- One register field. Instance `i` of a repeated field lies `stride * i` bytes above `base`.
`exc` lists the reset values that differ by instance, as (first, last, value). -/
structure Fld where
  base   : Nat
  lo     : Nat
  width  : Nat
  kind   : FKind
  stride : Nat := 0
  count  : Nat := 1
  reset  : Nat := 0
  tri    : Bool := false
  exc    : List (Nat × Nat × Nat) := []
  deriving DecidableEq, Repr

namespace Reg

/-- R524: Table 00-4 -/
def GLB_ID : Fld := { base := 0x00000000, lo := 0, width := 32, kind := .sts, reset := 0x9640B081 }
/-- R524: Commit request, bit per group number (R515) -/
def GLB_COMMIT : Fld := { base := 0x00000004, lo := 0, width := 20, kind := .ctl }
/-- R524: R514 -/
def GLB_COMMIT_PENDING : Fld := { base := 0x00000008, lo := 0, width := 20, kind := .sts }
/-- R524: Snapshot taken, outcome not yet in force -/
def GLB_COMMIT_BUSY : Fld := { base := 0x0000000C, lo := 0, width := 20, kind := .sts }
/-- R524: Staged ← active for each bit set, at the next cycle boundary; the device then clears the bit. A group that is BUSY is discarded after its outcome -/
def GLB_DISCARD : Fld := { base := 0x00000010, lo := 0, width := 20, kind := .ctl }
/-- R524: Group of the last rejection; 0x1F = none -/
def GLB_LAST_REJECT_GROUP : Fld := { base := 0x00000014, lo := 0, width := 5, kind := .sts, reset := 0x1F }
/-- R524: Block reason or Table 16-2 -/
def GLB_LAST_REJECT_REASON : Fld := { base := 0x00000014, lo := 8, width := 8, kind := .sts }
/-- R524: R519 -/
def GLB_LAST_REJECT_OFF : Fld := { base := 0x00000018, lo := 0, width := 32, kind := .sts }
/-- R524: Host's own use; the device never writes it -/
def GLB_SCRATCH : Fld := { base := 0x0000001C, lo := 0, width := 32, kind := .ctl }
/-- R524: R507 -/
def GLB_WTL_CNT : Fld := { base := 0x00000020, lo := 0, width := 32, kind := .cnt }
/-- R524: R510 -/
def GLB_TRI_FIX_CNT : Fld := { base := 0x00000024, lo := 0, width := 32, kind := .cnt }
/-- R524: R500, R526 -/
def GLB_ACCESS_BAD_CNT : Fld := { base := 0x00000028, lo := 0, width := 32, kind := .cnt }
/-- R524: R519 -/
def GLB_COMMIT_CNT : Fld := { base := 0x0000002C, lo := 0, width := 32, kind := .cnt }
/-- R524: R519 -/
def GLB_REJECT_CNT : Fld := { base := 0x00000030, lo := 0, width := 32, kind := .cnt }
/-- R524: Board identity, written once by host software or from the NOR configuration -/
def GLB_BOARD_ID : Fld := { base := 0x00000034, lo := 0, width := 32, kind := .lck, tri := true }
/-- R524: R511 -/
def GLB_TRI_FAULT : Fld := { base := 0x00000038, lo := 0, width := 1, kind := .sts }
/-- R528: Cause of the last CHIP reset: 0 POWER_ON, 1 CHIP_REQUEST; 2–3 not used -/
def RST_CAUSE : Fld := { base := 0x00080000, lo := 0, width := 2, kind := .sts }
/-- R528: Domain reset requests, Table 16-6 (R526, R527) -/
def RST_REQ : Fld := { base := 0x00080004, lo := 0, width := 13, kind := .ctl, tri := true }
/-- R528: R526 -/
def RST_KEY : Fld := { base := 0x00080008, lo := 0, width := 16, kind := .ctl }
/-- R528: Domains in reset -/
def RST_ACTIVE : Fld := { base := 0x0008000C, lo := 0, width := 13, kind := .sts }
/-- R528: Hewers 0–31 -/
def RST_HEWER_REQ_LO : Fld := { base := 0x00080010, lo := 0, width := 32, kind := .ctl, tri := true }
/-- R528: Hewers 32–63 -/
def RST_HEWER_REQ_MID : Fld := { base := 0x00080014, lo := 0, width := 32, kind := .ctl, tri := true }
/-- R528: Hewers 64–95 -/
def RST_HEWER_REQ_HI : Fld := { base := 0x00080018, lo := 0, width := 32, kind := .ctl, tri := true }
/-- R528: Hewers 0–31 in reset -/
def RST_HEWER_ACTIVE_LO : Fld := { base := 0x0008001C, lo := 0, width := 32, kind := .sts }
/-- R528: Hewers 32–63 -/
def RST_HEWER_ACTIVE_MID : Fld := { base := 0x00080020, lo := 0, width := 32, kind := .sts }
/-- R528: Hewers 64–95 -/
def RST_HEWER_ACTIVE_HI : Fld := { base := 0x00080024, lo := 0, width := 32, kind := .sts }
/-- R528: Requests applied -/
def RST_REQ_CNT : Fld := { base := 0x00080028, lo := 0, width := 32, kind := .cnt }
/-- R528: Generation of domain d -/
def RST_GEN : Fld := { base := 0x00080100, lo := 0, width := 16, kind := .sts, stride := 0x4, count := 13 }
/-- R528: Generation of hewer h -/
def RST_HEWER_GEN : Fld := { base := 0x00080200, lo := 0, width := 16, kind := .sts, stride := 0x4, count := 96 }
/-- R52: Doorbell read position -/
def SHF_DOORBELL_POS : Fld := { base := 0x00100000, lo := 0, width := 15, kind := .ctl }
/-- R52: Table 02-1 -/
def SHF_STATE : Fld := { base := 0x00100004, lo := 0, width := 3, kind := .sts }
/-- R52: SHF_DOORBELL_POS above 19,439 -/
def SHF_DOORBELL_BAD : Fld := { base := 0x00100004, lo := 3, width := 1, kind := .sts }
/-- R52: Cycle count bits [31:0] -/
def SHF_CYCLE_LO : Fld := { base := 0x00100008, lo := 0, width := 32, kind := .sts }
/-- R52: Cycle count bits [47:32], shadowed -/
def SHF_CYCLE_HI : Fld := { base := 0x0010000C, lo := 0, width := 16, kind := .sts }
/-- R52: Position at the SHF_CYCLE_LO read -/
def SHF_POS_SNAP : Fld := { base := 0x00100010, lo := 0, width := 15, kind := .sts }
/-- R52: Active bank -/
def SHF_BANK_ACTIVE : Fld := { base := 0x00100014, lo := 0, width := 1, kind := .sts }
/-- R52: Standby bank armed, swap pending -/
def SHF_BANK_ARMED : Fld := { base := 0x00100014, lo := 1, width := 1, kind := .sts }
/-- R52: Valid entries in the active bank -/
def SHF_ENTRIES_ACTIVE : Fld := { base := 0x00100018, lo := 0, width := 18, kind := .sts }
/-- R52: Entries dispatched late -/
def SHF_LATE_CNT : Fld := { base := 0x0010001C, lo := 0, width := 32, kind := .cnt }
/-- R52: Swaps deferred under R45 -/
def SHF_SWAP_DEFER_CNT : Fld := { base := 0x00100020, lo := 0, width := 32, kind := .cnt }
/-- R52: Gate slips, all lines -/
def SHF_GATE_SLIP_CNT : Fld := { base := 0x00100024, lo := 0, width := 32, kind := .cnt }
/-- R101: R73 -/
def TIM_REVERTIVE : Fld := { base := 0x00180000, lo := 0, width := 1, kind := .ctl, reset := 0x1 }
/-- R101: 1 = QL takes part in selection -/
def TIM_QL_EN : Fld := { base := 0x00180000, lo := 1, width := 1, kind := .ctl }
/-- R101: 0 = option 1, 1 = option 2 -/
def TIM_QL_OPTION : Fld := { base := 0x00180000, lo := 2, width := 1, kind := .ctl }
/-- R101: 0 = 2.048 MHz, 1 = 1.544 MHz, 2 = 10 MHz, 3 = REFIN0 not used -/
def TIM_REFIN0_FREQ : Fld := { base := 0x00180000, lo := 3, width := 2, kind := .ctl }
/-- R101: As TIM_REFIN0_FREQ -/
def TIM_REFIN1_FREQ : Fld := { base := 0x00180000, lo := 5, width := 2, kind := .ctl }
/-- R101: Seconds; values above 720 act as 720 -/
def TIM_WTR : Fld := { base := 0x00180004, lo := 0, width := 10, kind := .ctl, reset := 0x12C }
/-- R101: Units of 0.01 ppm -/
def TIM_DISAGREE_THR : Fld := { base := 0x00180008, lo := 0, width := 16, kind := .ctl, reset := 0xC8 }
/-- R101: ms; values above 1,000 act as 1,000 -/
def TIM_HOLDOFF : Fld := { base := 0x0018000C, lo := 0, width := 10, kind := .ctl }
/-- R101: ppb per second; 0 acts as 10 -/
def TIM_SWITCH_SLEW : Fld := { base := 0x00180010, lo := 0, width := 17, kind := .ctl, reset := 0x7D0 }
/-- R101: Seconds, 1–600 -/
def TIM_HO_HIST : Fld := { base := 0x00180014, lo := 0, width := 10, kind := .ctl, reset := 0x3C }
/-- R101: ppt per cycle; 0 = step -/
def TIM_STEER_RAMP : Fld := { base := 0x00180018, lo := 0, width := 16, kind := .ctl, reset := 0x3E8 }
/-- R101: Units of 100 ms, 1–600 -/
def TIM_STEER_WDOG : Fld := { base := 0x0018001C, lo := 0, width := 10, kind := .ctl, reset := 0xA }
/-- R101: Table 03-9 -/
def TIM_DPLL_STATE : Fld := { base := 0x00180020, lo := 0, width := 3, kind := .sts }
/-- R101: Selected candidate; 0x1F = none -/
def TIM_SEL : Fld := { base := 0x00180020, lo := 3, width := 5, kind := .sts, reset := 0x1F }
/-- R101: Switch in progress -/
def TIM_SWITCHING : Fld := { base := 0x00180020, lo := 8, width := 1, kind := .sts }
/-- R101: R72 -/
def TIM_DISAGREE : Fld := { base := 0x00180020, lo := 9, width := 1, kind := .sts }
/-- R101: A TIM_FORCE is in effect -/
def TIM_FORCED : Fld := { base := 0x00180020, lo := 10, width := 1, kind := .sts }
/-- R101: R84 -/
def TIM_HO_SHORT : Fld := { base := 0x00180020, lo := 11, width := 1, kind := .sts }
/-- R101: R88 -/
def TIM_HO_UNCOMP : Fld := { base := 0x00180020, lo := 12, width := 1, kind := .sts }
/-- R101: R94 -/
def TIM_DCO_LIMIT : Fld := { base := 0x00180020, lo := 13, width := 1, kind := .sts }
/-- R101: 0 = EMPTY, 1 = LEARNING, 2 = VALID -/
def TIM_MODEL_STATE : Fld := { base := 0x00180020, lo := 14, width := 2, kind := .sts }
/-- R101: Signed, ppt -/
def TIM_DCO_OFFSET : Fld := { base := 0x00180024, lo := 0, width := 32, kind := .sts }
/-- R101: Seconds in the current holdover -/
def TIM_HO_AGE : Fld := { base := 0x00180028, lo := 0, width := 32, kind := .sts }
/-- R101: R93 -/
def TIM_STEER_SUPERSEDED_CNT : Fld := { base := 0x0018002C, lo := 0, width := 32, kind := .cnt }
/-- R101: Die sensors used for T -/
def TIM_MODEL_SENSORS : Fld := { base := 0x00180030, lo := 0, width := 12, kind := .ctl, reset := 0xFFF }
/-- R101: ppt -/
def TIM_MODEL_RMS_MAX : Fld := { base := 0x00180034, lo := 0, width := 16, kind := .ctl, reset := 0x1388 }
/-- R101: Fit residual RMS, ppt -/
def TIM_MODEL_RMS : Fld := { base := 0x00180038, lo := 0, width := 32, kind := .sts }
/-- R101: [15:0] minimum and [31:16] maximum learned T, signed, 1/16 °C -/
def TIM_MODEL_TRANGE : Fld := { base := 0x0018003C, lo := 0, width := 32, kind := .sts }
/-- R101: Outgoing QL in HOLDOVER -/
def TIM_OUT_HO_QL : Fld := { base := 0x00180040, lo := 0, width := 4, kind := .ctl, reset := 0xB }
/-- R101: Outgoing QL in FREERUN -/
def TIM_OUT_FR_QL : Fld := { base := 0x00180040, lo := 4, width := 4, kind := .ctl, reset := 0xB }
/-- R101: Output enable -/
def TIM_REFOUT0_EN : Fld := { base := 0x00180044, lo := 0, width := 1, kind := .ctl }
/-- R101: 0 = 2.048 MHz, 1 = 1.544 MHz, 2 = 10 MHz, 3 = 8 kHz -/
def TIM_REFOUT0_FREQ : Fld := { base := 0x00180044, lo := 1, width := 2, kind := .ctl }
/-- R101: Squelch enable -/
def TIM_REFOUT0_SQ : Fld := { base := 0x00180044, lo := 3, width := 1, kind := .ctl, reset := 0x1 }
/-- R101: Worst QL still passed -/
def TIM_REFOUT0_SQ_QL : Fld := { base := 0x00180044, lo := 4, width := 4, kind := .ctl, reset := 0xF }
/-- R101: 0 = DCO, 1 = candidate direct -/
def TIM_REFOUT0_SRC : Fld := { base := 0x00180044, lo := 8, width := 1, kind := .ctl }
/-- R101: Candidate when SRC = 1 -/
def TIM_REFOUT0_CAND : Fld := { base := 0x00180044, lo := 9, width := 5, kind := .ctl }
/-- R101: as TIM_REFOUT0_EN -/
def TIM_REFOUT1_EN : Fld := { base := 0x00180048, lo := 0, width := 1, kind := .ctl }
/-- R101: as TIM_REFOUT0_FREQ -/
def TIM_REFOUT1_FREQ : Fld := { base := 0x00180048, lo := 1, width := 2, kind := .ctl }
/-- R101: as TIM_REFOUT0_SQ -/
def TIM_REFOUT1_SQ : Fld := { base := 0x00180048, lo := 3, width := 1, kind := .ctl, reset := 0x1 }
/-- R101: as TIM_REFOUT0_SQ_QL -/
def TIM_REFOUT1_SQ_QL : Fld := { base := 0x00180048, lo := 4, width := 4, kind := .ctl, reset := 0xF }
/-- R101: as TIM_REFOUT0_SRC -/
def TIM_REFOUT1_SRC : Fld := { base := 0x00180048, lo := 8, width := 1, kind := .ctl }
/-- R101: as TIM_REFOUT0_CAND -/
def TIM_REFOUT1_CAND : Fld := { base := 0x00180048, lo := 9, width := 5, kind := .ctl }
/-- R101: Output enable -/
def TIM_PPSOUT_EN : Fld := { base := 0x0018004C, lo := 0, width := 1, kind := .ctl }
/-- R101: Low in FREERUN -/
def TIM_PPSOUT_SQ : Fld := { base := 0x0018004C, lo := 1, width := 1, kind := .ctl, reset := 0x1 }
/-- R101: µs, 1–500,000 -/
def TIM_PPSOUT_WIDTH : Fld := { base := 0x0018004C, lo := 2, width := 20, kind := .ctl, reset := 0x64 }
/-- R101: Signed, ns -/
def TIM_PPSOUT_COMP : Fld := { base := 0x00180050, lo := 0, width := 16, kind := .ctl }
/-- R101: Seconds [31:0] -/
def TIM_TOD_SEC_LO : Fld := { base := 0x00180054, lo := 0, width := 32, kind := .sts }
/-- R101: Seconds [47:32], shadowed -/
def TIM_TOD_SEC_HI : Fld := { base := 0x00180058, lo := 0, width := 16, kind := .sts }
/-- R101: ns, shadowed -/
def TIM_TOD_NS : Fld := { base := 0x0018005C, lo := 0, width := 30, kind := .sts }
/-- R101: ns -/
def TIM_PPS_STEP_THR : Fld := { base := 0x00180060, lo := 0, width := 16, kind := .ctl, reset := 0x3E8 }
/-- R101: Signed, 2⁻⁸ ppt/°C -/
def TIM_MODEL_C1 : Fld := { base := 0x00180070, lo := 0, width := 32, kind := .sts }
/-- R101: Signed, 2⁻⁸ ppt/°C² -/
def TIM_MODEL_C2 : Fld := { base := 0x00180074, lo := 0, width := 32, kind := .sts }
/-- R101: Signed, 2⁻⁸ ppt/°C³ -/
def TIM_MODEL_C3 : Fld := { base := 0x00180078, lo := 0, width := 32, kind := .sts }
/-- R101: Signed, 2⁻⁸ ppt per °C/min -/
def TIM_MODEL_C4 : Fld := { base := 0x0018007C, lo := 0, width := 32, kind := .sts }
/-- R101: Signed, 2⁻⁸ ppt per day -/
def TIM_MODEL_AGE : Fld := { base := 0x00180080, lo := 0, width := 32, kind := .sts }
/-- R101: Signed, 1/16 °C -/
def TIM_MODEL_T0 : Fld := { base := 0x00180084, lo := 0, width := 16, kind := .sts }
/-- R101: Candidate enable -/
def TIM_CAND_EN : Fld := { base := 0x00181000, lo := 0, width := 1, kind := .ctl, stride := 0x20, count := 20 }
/-- R101: 1 = best, 15 = worst, 0 = never selected -/
def TIM_CAND_RANK : Fld := { base := 0x00181000, lo := 1, width := 4, kind := .ctl, stride := 0x20, count := 20 }
/-- R101: 0x0 = 1 mHz, 0x1 = 10 mHz, 0x2 = 0.1 Hz, 0x3 = 1 Hz, 0x4 = 3 Hz, 0x5 = 10 Hz; a value not offered acts as the default and sets CFG_BAD. For candidate 19 the field is stored and read back, has no effect, and never sets CFG_BAD -/
def TIM_CAND_BW : Fld := { base := 0x00181000, lo := 5, width := 3, kind := .ctl, stride := 0x20, count := 20, reset := 0x3, exc := [(16, 17, 0x2), (18, 19, 0x0)] }
/-- R101: 0 = received, 1 = fixed -/
def TIM_CAND_QL_SRC : Fld := { base := 0x00181000, lo := 8, width := 1, kind := .ctl, stride := 0x20, count := 20 }
/-- R101: Fixed QL -/
def TIM_CAND_QL_FIXED : Fld := { base := 0x00181000, lo := 9, width := 4, kind := .ctl, stride := 0x20, count := 20, reset := 0xF }
/-- R101: Phase build-out (R77). For candidate 19 the bit is stored and read back, with no effect -/
def TIM_CAND_PBO : Fld := { base := 0x00181000, lo := 13, width := 1, kind := .ctl, stride := 0x20, count := 20, reset := 0x1, exc := [(18, 19, 0x0)] }
/-- R101: 0–4 = Sa4–Sa8 -/
def TIM_CAND_SA : Fld := { base := 0x00181000, lo := 14, width := 3, kind := .ctl, stride := 0x20, count := 20 }
/-- R101: 0 = ACC, 1 = UPL, 2 = TRB link, 3 = TRB circuit -/
def TIM_CAND_SRC_KIND : Fld := { base := 0x00181000, lo := 17, width := 2, kind := .ctl, stride := 0x20, count := 20 }
/-- R101: Lane or link number -/
def TIM_CAND_SRC_LANE : Fld := { base := 0x00181000, lo := 19, width := 6, kind := .ctl, stride := 0x20, count := 20 }
/-- R101: Circuit 0–127 on the link -/
def TIM_CAND_SRC_CHAN : Fld := { base := 0x00181000, lo := 25, width := 7, kind := .ctl, stride := 0x20, count := 20 }
/-- R101: 0.1 ppm -/
def TIM_CAND_ACCEPT : Fld := { base := 0x00181004, lo := 0, width := 16, kind := .ctl, stride := 0x20, count := 20, reset := 0x5A }
/-- R101: 0.1 ppm; below ACCEPT acts as ACCEPT -/
def TIM_CAND_REJECT : Fld := { base := 0x00181004, lo := 16, width := 16, kind := .ctl, stride := 0x20, count := 20, reset := 0x78 }
/-- R101: 100 ms units, 1–600; 0 acts as 1 -/
def TIM_CAND_QUALTIME : Fld := { base := 0x00181008, lo := 0, width := 10, kind := .ctl, stride := 0x20, count := 20, reset := 0x14 }
/-- R101: Table 03-2 -/
def TIM_CAND_STATE : Fld := { base := 0x0018100C, lo := 0, width := 3, kind := .sts, stride := 0x20, count := 20 }
/-- R101: Effective QL -/
def TIM_CAND_QL : Fld := { base := 0x0018100C, lo := 3, width := 4, kind := .sts, stride := 0x20, count := 20, reset := 0xF }
/-- R101: R55, bandwidth not offered -/
def TIM_CAND_CFG_BAD : Fld := { base := 0x0018100C, lo := 7, width := 1, kind := .sts, stride := 0x20, count := 20 }
/-- R101: Table 03-4; last disqualification -/
def TIM_CAND_REASON : Fld := { base := 0x0018100C, lo := 8, width := 4, kind := .sts, stride := 0x20, count := 20 }
/-- R101: Signed, ppb against OSCI -/
def TIM_CAND_FREQ : Fld := { base := 0x00181010, lo := 0, width := 32, kind := .sts, stride := 0x20, count := 20 }
/-- R101: Seconds -/
def TIM_CAND_WTR_LEFT : Fld := { base := 0x00181014, lo := 0, width := 10, kind := .sts, stride := 0x20, count := 20 }
/-- R101: R68 -/
def TIM_CAND_QLCHG_CNT : Fld := { base := 0x00181018, lo := 0, width := 32, kind := .cnt, stride := 0x20, count := 20 }
/-- R133: Enable, channels 0–31; bit 19 has no effect -/
def FLT_CH_EN_LO : Fld := { base := 0x00200000, lo := 0, width := 32, kind := .ctl, reset := 0xFFF7FFFF }
/-- R133: Enable, channels 32–47 -/
def FLT_CH_EN_HI : Fld := { base := 0x00200004, lo := 0, width := 16, kind := .ctl, reset := 0xFFFF }
/-- R133: FMCLKk running -/
def FLT_FMCLK_EN : Fld := { base := 0x00200008, lo := 0, width := 8, kind := .ctl, reset := 0xFF }
/-- R133: R107 -/
def FLT_CH_QUEUE_EN : Fld := { base := 0x00201000, lo := 0, width := 1, kind := .ctl, stride := 0x40, count := 48 }
/-- R133: Fade length L, in words -/
def FLT_CH_XFADE_LEN : Fld := { base := 0x00201000, lo := 1, width := 8, kind := .ctl, stride := 0x40, count := 48, reset := 0x10 }
/-- R133: 0 = FAST, 1 = NORMAL, 2 = QUIET, 3 = DEEP, 4 = CUSTOM -/
def FLT_CH_PRESET : Fld := { base := 0x00201004, lo := 0, width := 3, kind := .sts, stride := 0x40, count := 48, reset := 0x1, exc := [(20, 35, 0x0), (36, 47, 0x2)] }
/-- R133: CIC order in force -/
def FLT_CH_N : Fld := { base := 0x00201004, lo := 3, width := 3, kind := .sts, stride := 0x40, count := 48, reset := 0x4, exc := [(20, 35, 0x3), (36, 47, 0x4)] }
/-- R133: Decimation in force -/
def FLT_CH_R : Fld := { base := 0x00201004, lo := 6, width := 13, kind := .sts, stride := 0x40, count := 48, reset := 0x40, exc := [(20, 35, 0x40), (36, 47, 0x200)] }
/-- R133: k; 0 = bypass -/
def FLT_CH_DC_K : Fld := { base := 0x00201004, lo := 19, width := 5, kind := .sts, stride := 0x40, count := 48 }
/-- R133: Active bank; 0 = A -/
def FLT_CH_BANK : Fld := { base := 0x00201008, lo := 0, width := 1, kind := .sts, stride := 0x40, count := 48 }
/-- R133: Cross-fade in progress -/
def FLT_CH_FADING : Fld := { base := 0x00201008, lo := 1, width := 1, kind := .sts, stride := 0x40, count := 48 }
/-- R133: R121 -/
def FLT_CH_DEFERRED : Fld := { base := 0x00201008, lo := 2, width := 1, kind := .sts, stride := 0x40, count := 48 }
/-- R133: Target of the deferred swap -/
def FLT_CH_DEF_BANK : Fld := { base := 0x00201008, lo := 3, width := 1, kind := .sts, stride := 0x40, count := 48 }
/-- R133: DC blocker frozen -/
def FLT_CH_FROZEN : Fld := { base := 0x00201008, lo := 4, width := 1, kind := .sts, stride := 0x40, count := 48 }
/-- R133: R117 -/
def FLT_CH_SAT : Fld := { base := 0x00201008, lo := 5, width := 1, kind := .sts, stride := 0x40, count := 48 }
/-- R133: R118 -/
def FLT_CH_STUCK : Fld := { base := 0x00201008, lo := 6, width := 1, kind := .sts, stride := 0x40, count := 48 }
/-- R133: Within samples 1 to N·R -/
def FLT_CH_SETTLING : Fld := { base := 0x00201008, lo := 7, width := 1, kind := .sts, stride := 0x40, count := 48 }
/-- R133: R113 -/
def FLT_CH_ASYM_A : Fld := { base := 0x00201008, lo := 8, width := 1, kind := .sts, stride := 0x40, count := 48 }
/-- R133: R113 -/
def FLT_CH_ASYM_B : Fld := { base := 0x00201008, lo := 9, width := 1, kind := .sts, stride := 0x40, count := 48 }
/-- R133: Bank A complete (R119) -/
def FLT_CH_COMPLETE_A : Fld := { base := 0x00201008, lo := 10, width := 1, kind := .sts, stride := 0x40, count := 48, reset := 0x1 }
/-- R133: Bank B complete -/
def FLT_CH_COMPLETE_B : Fld := { base := 0x00201008, lo := 11, width := 1, kind := .sts, stride := 0x40, count := 48, reset := 0x1 }
/-- R133: e, signed, in input units × 2⁸ -/
def FLT_CH_DC_EST : Fld := { base := 0x0020100C, lo := 0, width := 32, kind := .sts, stride := 0x40, count := 48 }
/-- R133: D in positions, rounded to the nearest whole position, with a half rounded up. The time-stamps of R112 use D exactly -/
def FLT_CH_GDELAY : Fld := { base := 0x00201010, lo := 0, width := 32, kind := .sts, stride := 0x40, count := 48, reset := 0x27B6220, exc := [(20, 35, 0x8036), (36, 47, 0x13DF3820)] }
/-- R133: R127 -/
def FLT_CH_SETTLE_CNT : Fld := { base := 0x00201014, lo := 0, width := 32, kind := .cnt, stride := 0x40, count := 48 }
/-- R133: R117 -/
def FLT_CH_SAT_CNT : Fld := { base := 0x00201018, lo := 0, width := 32, kind := .cnt, stride := 0x40, count := 48 }
/-- R133: R122 -/
def FLT_CH_SWAP_REPLACED_CNT : Fld := { base := 0x0020101C, lo := 0, width := 32, kind := .cnt, stride := 0x40, count := 48 }
/-- R133: Words produced -/
def FLT_CH_WORD_CNT : Fld := { base := 0x00201020, lo := 0, width := 32, kind := .cnt, stride := 0x40, count := 48 }
/-- R166: Bits [2s+1:2s] for slice s; Table 05-2 -/
def PRT_UPL_LAYOUT : Fld := { base := 0x00280000, lo := 0, width := 8, kind := .cmt }
/-- R166: Table 05-1 -/
def PRT_LANE_MODE : Fld := { base := 0x00281000, lo := 0, width := 4, kind := .cmt, stride := 0x40, count := 80 }
/-- R166: R136 -/
def PRT_LANE_SONET : Fld := { base := 0x00281000, lo := 4, width := 1, kind := .cmt, stride := 0x40, count := 80 }
/-- R166: R143, R144 -/
def PRT_LANE_FEC : Fld := { base := 0x00281000, lo := 5, width := 1, kind := .cmt, stride := 0x40, count := 80 }
/-- R166: Invert transmit polarity -/
def PRT_LANE_TXPOL : Fld := { base := 0x00281004, lo := 0, width := 1, kind := .ctl, stride := 0x40, count := 80 }
/-- R166: Invert receive polarity -/
def PRT_LANE_RXPOL : Fld := { base := 0x00281004, lo := 1, width := 1, kind := .ctl, stride := 0x40, count := 80 }
/-- R166: R160 -/
def PRT_LANE_TX_PRE : Fld := { base := 0x00281008, lo := 0, width := 6, kind := .ctl, stride := 0x40, count := 80, reset := 0x4 }
/-- R166: R160 -/
def PRT_LANE_TX_MAIN : Fld := { base := 0x00281008, lo := 8, width := 6, kind := .ctl, stride := 0x40, count := 80, reset := 0x33 }
/-- R166: R160 -/
def PRT_LANE_TX_POST : Fld := { base := 0x00281008, lo := 16, width := 6, kind := .ctl, stride := 0x40, count := 80, reset := 0x8 }
/-- R166: R161 -/
def PRT_LANE_ADAPT_FREEZE : Fld := { base := 0x0028100C, lo := 0, width := 1, kind := .ctl, stride := 0x40, count := 80 }
/-- R166: R161 -/
def PRT_LANE_CTLE_OVR : Fld := { base := 0x0028100C, lo := 1, width := 1, kind := .ctl, stride := 0x40, count := 80 }
/-- R166: Peaking code 0–31 -/
def PRT_LANE_CTLE : Fld := { base := 0x0028100C, lo := 2, width := 5, kind := .ctl, stride := 0x40, count := 80 }
/-- R166: 30 mV + 10 mV × code, differential peak-to-peak -/
def PRT_LANE_LOS_THR : Fld := { base := 0x0028100C, lo := 8, width := 4, kind := .ctl, stride := 0x40, count := 80, reset := 0x4 }
/-- R166: Table 05-8 -/
def PRT_LANE_LOS : Fld := { base := 0x00281010, lo := 0, width := 1, kind := .sts, stride := 0x40, count := 80 }
/-- R166: Table 05-8 -/
def PRT_LANE_LOL : Fld := { base := 0x00281010, lo := 1, width := 1, kind := .sts, stride := 0x40, count := 80 }
/-- R166: Table 05-8 -/
def PRT_LANE_NO_BLOCK_LOCK : Fld := { base := 0x00281010, lo := 2, width := 1, kind := .sts, stride := 0x40, count := 80 }
/-- R166: Table 05-8 -/
def PRT_LANE_HIBER : Fld := { base := 0x00281010, lo := 3, width := 1, kind := .sts, stride := 0x40, count := 80 }
/-- R166: Gated by the governor -/
def PRT_LANE_GATED : Fld := { base := 0x00281010, lo := 4, width := 1, kind := .sts, stride := 0x40, count := 80 }
/-- R166: R160 -/
def PRT_LANE_TAP_CLIP : Fld := { base := 0x00281010, lo := 5, width := 1, kind := .sts, stride := 0x40, count := 80 }
/-- R166: R159 -/
def PRT_LANE_READY : Fld := { base := 0x00281010, lo := 6, width := 1, kind := .sts, stride := 0x40, count := 80 }
/-- R166: A placed context uses the lane -/
def PRT_LANE_IN_USE : Fld := { base := 0x00281010, lo := 7, width := 1, kind := .sts, stride := 0x40, count := 80 }
/-- R166: PRT_TEST active -/
def PRT_LANE_TESTING : Fld := { base := 0x00281010, lo := 8, width := 1, kind := .sts, stride := 0x40, count := 80 }
/-- R166: Checker locked to the pattern -/
def PRT_LANE_PRBS_LOCK : Fld := { base := 0x00281010, lo := 9, width := 1, kind := .sts, stride := 0x40, count := 80 }
/-- R166: R162 -/
def PRT_LANE_EYE_W : Fld := { base := 0x00281014, lo := 0, width := 6, kind := .sts, stride := 0x40, count := 80 }
/-- R166: R162 -/
def PRT_LANE_EYE_H : Fld := { base := 0x00281014, lo := 8, width := 8, kind := .sts, stride := 0x40, count := 80 }
/-- R166: Signed; received frequency against the shaft, 0.01 ppm -/
def PRT_LANE_FREQ : Fld := { base := 0x00281018, lo := 0, width := 32, kind := .sts, stride := 0x40, count := 80 }
/-- R166: LOS declarations -/
def PRT_LANE_LOS_CNT : Fld := { base := 0x0028101C, lo := 0, width := 32, kind := .cnt, stride := 0x40, count := 80 }
/-- R166: Corrected symbols -/
def PRT_LANE_FEC_CORR_CNT : Fld := { base := 0x00281020, lo := 0, width := 32, kind := .cnt, stride := 0x40, count := 80 }
/-- R166: Uncorrectable codewords -/
def PRT_LANE_FEC_UNCORR_CNT : Fld := { base := 0x00281024, lo := 0, width := 32, kind := .cnt, stride := 0x40, count := 80 }
/-- R166: Checker bit errors -/
def PRT_LANE_PRBS_ERR_CNT : Fld := { base := 0x00281028, lo := 0, width := 32, kind := .cnt, stride := 0x40, count := 80 }
/-- R166: Link enable -/
def PRT_TRB_EN : Fld := { base := 0x00283000, lo := 0, width := 1, kind := .cmt, stride := 0x40, count := 32 }
/-- R166: 0 = 128 slots, 1 = 6 slots -/
def PRT_TRB_LAYOUT : Fld := { base := 0x00283000, lo := 1, width := 1, kind := .cmt, stride := 0x40, count := 32 }
/-- R166: 0 = SEARCH, 1 = PRESYNC, 2 = SYNC -/
def PRT_TRB_ALIGN : Fld := { base := 0x00283004, lo := 0, width := 2, kind := .sts, stride := 0x40, count := 32 }
/-- R166: R154 -/
def PRT_TRB_LLA : Fld := { base := 0x00283004, lo := 2, width := 1, kind := .sts, stride := 0x40, count := 32 }
/-- R166: RLA received -/
def PRT_TRB_RLA : Fld := { base := 0x00283004, lo := 3, width := 1, kind := .sts, stride := 0x40, count := 32 }
/-- R166: Table 05-8 -/
def PRT_TRB_LOS : Fld := { base := 0x00283004, lo := 4, width := 1, kind := .sts, stride := 0x40, count := 32 }
/-- R166: R156 -/
def PRT_TRB_MODE_MISMATCH : Fld := { base := 0x00283004, lo := 5, width := 1, kind := .sts, stride := 0x40, count := 32 }
/-- R166: R155 -/
def PRT_TRB_CRC_CNT : Fld := { base := 0x00283008, lo := 0, width := 32, kind := .cnt, stride := 0x40, count := 32 }
/-- R166: R150 -/
def PRT_TRB_OVERRUN_CNT : Fld := { base := 0x0028300C, lo := 0, width := 32, kind := .cnt, stride := 0x40, count := 32 }
/-- R166: Circuit LOS, slots 0–31 -/
def PRT_TRB_CHAN_LOS0 : Fld := { base := 0x00283010, lo := 0, width := 32, kind := .sts, stride := 0x40, count := 32 }
/-- R166: Slots 32–63 -/
def PRT_TRB_CHAN_LOS1 : Fld := { base := 0x00283014, lo := 0, width := 32, kind := .sts, stride := 0x40, count := 32 }
/-- R166: Slots 64–95 -/
def PRT_TRB_CHAN_LOS2 : Fld := { base := 0x00283018, lo := 0, width := 32, kind := .sts, stride := 0x40, count := 32 }
/-- R166: Slots 96–127 -/
def PRT_TRB_CHAN_LOS3 : Fld := { base := 0x0028301C, lo := 0, width := 32, kind := .sts, stride := 0x40, count := 32 }
/-- R209: µs; values above 250 act as 250 -/
def RLK_DD_HOLD : Fld := { base := 0x00300000, lo := 0, width := 8, kind := .ctl, reset := 0x32 }
/-- R209: R188 -/
def RLK_EK7210 : Fld := { base := 0x00301000, lo := 0, width := 1, kind := .cmt, stride := 0x80, count := 48 }
/-- R209: LINK_ID sent -/
def RLK_TX_LINK_ID : Fld := { base := 0x00301004, lo := 0, width := 16, kind := .ctl, stride := 0x80, count := 48 }
/-- R209: R178; 0 = not checked -/
def RLK_RX_LINK_ID_EXP : Fld := { base := 0x00301004, lo := 16, width := 16, kind := .ctl, stride := 0x80, count := 48 }
/-- R209: 0 = SEARCH, 1 = PRESYNC, 2 = SYNC -/
def RLK_ALIGN : Fld := { base := 0x00301008, lo := 0, width := 2, kind := .sts, stride := 0x80, count := 48 }
/-- R209: R187 -/
def RLK_LFA : Fld := { base := 0x00301008, lo := 2, width := 1, kind := .sts, stride := 0x80, count := 48 }
/-- R209: R177 -/
def RLK_RDI_RX : Fld := { base := 0x00301008, lo := 3, width := 1, kind := .sts, stride := 0x80, count := 48 }
/-- R209: R178 -/
def RLK_LIM : Fld := { base := 0x00301008, lo := 4, width := 1, kind := .sts, stride := 0x80, count := 48 }
/-- R209: R205 -/
def RLK_DGASP_RX : Fld := { base := 0x00301008, lo := 5, width := 1, kind := .sts, stride := 0x80, count := 48 }
/-- R209: UNIT last received -/
def RLK_UNIT_RX : Fld := { base := 0x00301008, lo := 6, width := 1, kind := .sts, stride := 0x80, count := 48 }
/-- R209: PAIRED last received -/
def RLK_PAIRED_RX : Fld := { base := 0x00301008, lo := 7, width := 1, kind := .sts, stride := 0x80, count := 48 }
/-- R209: R178 -/
def RLK_RX_LINK_ID : Fld := { base := 0x0030100C, lo := 0, width := 16, kind := .sts, stride := 0x80, count := 48 }
/-- R209: R176 -/
def RLK_RX_QL : Fld := { base := 0x0030100C, lo := 16, width := 4, kind := .sts, stride := 0x80, count := 48, reset := 0xF }
/-- R209: R179, ns -/
def RLK_RTT : Fld := { base := 0x00301010, lo := 0, width := 32, kind := .sts, stride := 0x80, count := 48 }
/-- R209: Invalid sync headers (0b00, 0b11) -/
def RLK_SH_ERR_CNT : Fld := { base := 0x00301014, lo := 0, width := 32, kind := .cnt, stride := 0x80, count := 48 }
/-- R209: R173 -/
def RLK_MARK_CRC_CNT : Fld := { base := 0x00301018, lo := 0, width := 32, kind := .cnt, stride := 0x80, count := 48 }
/-- R209: R175 -/
def RLK_OH_CRC_CNT : Fld := { base := 0x0030101C, lo := 0, width := 32, kind := .cnt, stride := 0x80, count := 48 }
/-- R209: R183 -/
def RLK_HDR_ERR_CNT : Fld := { base := 0x00301020, lo := 0, width := 32, kind := .cnt, stride := 0x80, count := 48 }
/-- R209: Good data tubs -/
def RLK_GOOD_CNT : Fld := { base := 0x00301024, lo := 0, width := 32, kind := .cnt, stride := 0x80, count := 48 }
/-- R209: Table 06-8 -/
def RLK_DUP_CNT : Fld := { base := 0x00301028, lo := 0, width := 32, kind := .cnt, stride := 0x80, count := 48 }
/-- R209: Table 06-8 -/
def RLK_LATE_CNT : Fld := { base := 0x0030102C, lo := 0, width := 32, kind := .cnt, stride := 0x80, count := 48 }
/-- R209: R197 -/
def RLK_COPY_LOST_CNT : Fld := { base := 0x00301030, lo := 0, width := 32, kind := .cnt, stride := 0x80, count := 48 }
/-- R209: R196 -/
def RLK_BOTH_LOST_CNT : Fld := { base := 0x00301034, lo := 0, width := 32, kind := .cnt, stride := 0x80, count := 48 }
/-- R209: R183 -/
def RLK_UNKNOWN_CID_CNT : Fld := { base := 0x00301038, lo := 0, width := 32, kind := .cnt, stride := 0x80, count := 48 }
/-- R209: Table 06-8, R198 -/
def RLK_OOW_CNT : Fld := { base := 0x0030103C, lo := 0, width := 32, kind := .cnt, stride := 0x80, count := 48 }
/-- R209: R203 -/
def RLK_FE_GOOD : Fld := { base := 0x00301040, lo := 0, width := 32, kind := .sts, stride := 0x80, count := 48 }
/-- R209: R203 -/
def RLK_FE_HDR_ERR : Fld := { base := 0x00301044, lo := 0, width := 32, kind := .sts, stride := 0x80, count := 48 }
/-- R209: R203 -/
def RLK_FE_COPY_LOST : Fld := { base := 0x00301048, lo := 0, width := 32, kind := .sts, stride := 0x80, count := 48 }
/-- R209: R203 -/
def RLK_FE_LATE : Fld := { base := 0x0030104C, lo := 0, width := 32, kind := .sts, stride := 0x80, count := 48 }
/-- R209: R203 -/
def RLK_FE_BOTH_LOST : Fld := { base := 0x00301050, lo := 0, width := 32, kind := .sts, stride := 0x80, count := 48 }
/-- R209: R203 -/
def RLK_FE_WORST_CID : Fld := { base := 0x00301054, lo := 0, width := 16, kind := .sts, stride := 0x80, count := 48, reset := 0xFFFF }
/-- R209: R203 -/
def RLK_FE_WORST_CNT : Fld := { base := 0x00301054, lo := 16, width := 16, kind := .sts, stride := 0x80, count := 48 }
/-- R209: Data tubs sent -/
def RLK_TX_TUB_CNT : Fld := { base := 0x00301058, lo := 0, width := 32, kind := .cnt, stride := 0x80, count := 48 }
/-- R209: Idle tubs sent -/
def RLK_TX_IDLE_CNT : Fld := { base := 0x0030105C, lo := 0, width := 32, kind := .cnt, stride := 0x80, count := 48 }
/-- R245: Default SF exponent, 3–5 -/
def FRM_SF_EXP : Fld := { base := 0x00380000, lo := 0, width := 3, kind := .ctl, reset := 0x3 }
/-- R245: Default SD exponent, 5–9 -/
def FRM_SD_EXP : Fld := { base := 0x00380000, lo := 3, width := 4, kind := .ctl, reset := 0x6 }
/-- R245: 100 ms units, 1–100 -/
def FRM_INTEG_SET : Fld := { base := 0x00380004, lo := 0, width := 8, kind := .ctl, reset := 0x19 }
/-- R245: 100 ms units, 1–200 -/
def FRM_INTEG_CLR : Fld := { base := 0x00380004, lo := 8, width := 8, kind := .ctl, reset := 0x64 }
/-- R245: R215, all contexts -/
def FRM_OH_OVERRUN_CNT : Fld := { base := 0x00380008, lo := 0, width := 32, kind := .cnt }
/-- R245: R222 -/
def FRM_REFRAME_CNT : Fld := { base := 0x0038000C, lo := 0, width := 32, kind := .cnt }
/-- R245: 0 = SEARCH, 1 = PRESYNC, 2 = SYNC -/
def FRM_LANE_ALIGN : Fld := { base := 0x00381000, lo := 0, width := 2, kind := .sts, stride := 0x40, count := 72 }
/-- R245: Table 07-10 -/
def FRM_LANE_OOF : Fld := { base := 0x00381000, lo := 2, width := 1, kind := .sts, stride := 0x40, count := 72 }
/-- R245: R216 -/
def FRM_LANE_LOF : Fld := { base := 0x00381000, lo := 3, width := 1, kind := .sts, stride := 0x40, count := 72 }
/-- R245: OTU MFAS -/
def FRM_LANE_LOM : Fld := { base := 0x00381000, lo := 4, width := 1, kind := .sts, stride := 0x40, count := 72 }
/-- R245: R219; first lane of a port only -/
def FRM_LANE_OTL_LOL : Fld := { base := 0x00381000, lo := 5, width := 1, kind := .sts, stride := 0x40, count := 72 }
/-- R245: MS-AIS -/
def FRM_LANE_AIS : Fld := { base := 0x00381000, lo := 6, width := 1, kind := .sts, stride := 0x40, count := 72 }
/-- R245: MS-RDI or SM BDI -/
def FRM_LANE_RDI : Fld := { base := 0x00381000, lo := 7, width := 1, kind := .sts, stride := 0x40, count := 72 }
/-- R245: J0 or SM TTI -/
def FRM_LANE_TIM : Fld := { base := 0x00381000, lo := 8, width := 1, kind := .sts, stride := 0x40, count := 72 }
/-- R245: B2 or SM -/
def FRM_LANE_SD : Fld := { base := 0x00381000, lo := 9, width := 1, kind := .sts, stride := 0x40, count := 72 }
/-- R245: B1, B2 or SM -/
def FRM_LANE_SF : Fld := { base := 0x00381000, lo := 10, width := 1, kind := .sts, stride := 0x40, count := 72 }
/-- R245: SM IAE or BIAE -/
def FRM_LANE_IAE : Fld := { base := 0x00381000, lo := 11, width := 1, kind := .sts, stride := 0x40, count := 72 }
/-- R245: OTL4 skew between the earliest and latest logical lane, ns -/
def FRM_LANE_SKEW : Fld := { base := 0x00381004, lo := 0, width := 16, kind := .sts, stride := 0x40, count := 72 }
/-- R245: Logical lanes in SYNC, OTU4 first lane -/
def FRM_LANE_LANES_OK : Fld := { base := 0x00381004, lo := 16, width := 16, kind := .sts, stride := 0x40, count := 72 }
/-- R245: B1 violations -/
def FRM_LANE_B1_CNT : Fld := { base := 0x00381008, lo := 0, width := 32, kind := .cnt, stride := 0x40, count := 72 }
/-- R245: B2 or SM BIP-8 violations -/
def FRM_LANE_B2_CNT : Fld := { base := 0x0038100C, lo := 0, width := 32, kind := .cnt, stride := 0x40, count := 72 }
/-- R245: M1 or SM BEI errors -/
def FRM_LANE_REI_CNT : Fld := { base := 0x00381010, lo := 0, width := 32, kind := .cnt, stride := 0x40, count := 72 }
/-- R245: Entries into OOF -/
def FRM_LANE_OOF_CNT : Fld := { base := 0x00381014, lo := 0, width := 32, kind := .cnt, stride := 0x40, count := 72 }
/-- R294: Active connection page -/
def MAP_PAGE_ACTIVE : Fld := { base := 0x00400000, lo := 0, width := 1, kind := .sts }
/-- R294: Standby page armed -/
def MAP_PAGE_ARMED : Fld := { base := 0x00400000, lo := 1, width := 1, kind := .sts }
/-- R294: Valid TSI entries, active page -/
def MAP_TSI_ENTRIES : Fld := { base := 0x00400004, lo := 0, width := 16, kind := .sts }
/-- R294: Valid grains, active page -/
def MAP_GRAINS_USED : Fld := { base := 0x00400004, lo := 16, width := 11, kind := .sts }
/-- R294: Units of 10 µs, 0–800; above 800 acts as 800 -/
def MAP_DD_MAX : Fld := { base := 0x00400008, lo := 0, width := 10, kind := .ctl, reset := 0x64 }
/-- R294: R261 -/
def MAP_STAG_EN : Fld := { base := 0x00400008, lo := 10, width := 1, kind := .ctl }
/-- R294: R263 -/
def MAP_FCS_DROP : Fld := { base := 0x00400008, lo := 11, width := 1, kind := .ctl, reset := 0x1 }
/-- R294: Units of 100 ms, 1–10; 0 acts as 1 -/
def MAP_CMF_PERIOD : Fld := { base := 0x00400008, lo := 12, width := 4, kind := .ctl, reset := 0x1 }
/-- R294: R262 -/
def MAP_VLAN_UNMATCHED_CNT : Fld := { base := 0x0040000C, lo := 0, width := 32, kind := .cnt }
/-- R294: R263 -/
def MAP_FCS_ERR_CNT : Fld := { base := 0x00400010, lo := 0, width := 32, kind := .cnt }
/-- R294: R265 -/
def MAP_CHEC_CORR_CNT : Fld := { base := 0x00400014, lo := 0, width := 32, kind := .cnt }
/-- R294: R265 -/
def MAP_CHEC_UNCORR_CNT : Fld := { base := 0x00400018, lo := 0, width := 32, kind := .cnt }
/-- R294: R282 -/
def MAP_SC_CRC_CNT : Fld := { base := 0x0040001C, lo := 0, width := 32, kind := .cnt }
/-- R294: R288 -/
def MAP_DD_LATE_CNT : Fld := { base := 0x00400020, lo := 0, width := 32, kind := .cnt }
/-- R294: R277 -/
def MAP_HANDOVER_CNT : Fld := { base := 0x00400024, lo := 0, width := 32, kind := .cnt }
/-- R294: R260 -/
def MAP_RATEFOLLOW_LIMIT_CNT : Fld := { base := 0x00400028, lo := 0, width := 32, kind := .cnt }
/-- R319: [0] defragmentation, [1] consolidation, [2] wear (Table 09-8) -/
def OVM_BG_EN : Fld := { base := 0x00480000, lo := 0, width := 3, kind := .ctl, reset := 0x7 }
/-- R319: Moved contexts per swap; 0 acts as 1 -/
def OVM_MOVE_MAX : Fld := { base := 0x00480004, lo := 0, width := 8, kind := .ctl, reset := 0x40 }
/-- R319: Percent, 0–50; above 50 acts as 50 -/
def OVM_HEADROOM : Fld := { base := 0x00480004, lo := 8, width := 8, kind := .ctl, reset := 0xA }
/-- R319: Hours, 1–255; 0 acts as 1 -/
def OVM_WEAR_PERIOD : Fld := { base := 0x00480004, lo := 16, width := 8, kind := .ctl, reset := 0x18 }
/-- R319: 0 = STOPPED, 1 = RUNNING, 2 = FROZEN (no authority), 3 = RESTARTING -/
def OVM_STATE : Fld := { base := 0x00480008, lo := 0, width := 2, kind := .sts }
/-- R319: Hewers in use, 0–8 -/
def OVM_ENGINES : Fld := { base := 0x00480008, lo := 2, width := 4, kind := .sts }
/-- R319: Hewers 0–31 in use -/
def OVM_HEWERS_LO : Fld := { base := 0x0048000C, lo := 0, width := 32, kind := .sts }
/-- R319: Hewers 32–63 -/
def OVM_HEWERS_MID : Fld := { base := 0x00480010, lo := 0, width := 32, kind := .sts }
/-- R319: Hewers 64–95 -/
def OVM_HEWERS_HI : Fld := { base := 0x00480014, lo := 0, width := 32, kind := .sts }
/-- R319: Intents PLACED -/
def OVM_INTENTS_PLACED : Fld := { base := 0x00480018, lo := 0, width := 16, kind := .sts }
/-- R319: Intents PENDING -/
def OVM_INTENTS_PENDING : Fld := { base := 0x00480018, lo := 16, width := 11, kind := .sts }
/-- R319: Contexts free for allocation -/
def OVM_CTX_FREE : Fld := { base := 0x0048001C, lo := 0, width := 16, kind := .sts, reset := 0xC000 }
/-- R319: Grains free -/
def OVM_GRAINS_FREE : Fld := { base := 0x0048001C, lo := 16, width := 11, kind := .sts, reset := 0x400 }
/-- R319: Sealed contexts free -/
def OVM_SEALED_FREE : Fld := { base := 0x00480020, lo := 0, width := 12, kind := .sts, reset := 0x800 }
/-- R319: Privileged contexts free -/
def OVM_PRIV_FREE : Fld := { base := 0x00480020, lo := 16, width := 7, kind := .sts, reset := 0x40 }
/-- R319: Contexts moved -/
def OVM_MOVE_CNT : Fld := { base := 0x00480024, lo := 0, width := 32, kind := .cnt }
/-- R319: Intents refused -/
def OVM_REFUSE_CNT : Fld := { base := 0x00480028, lo := 0, width := 32, kind := .cnt }
/-- R319: R312 -/
def OVM_HELD_CNT : Fld := { base := 0x0048002C, lo := 0, width := 32, kind := .cnt }
/-- R319: R313 -/
def OVM_HOLD_EXPIRE_CNT : Fld := { base := 0x00480030, lo := 0, width := 32, kind := .cnt }
/-- R319: R318 -/
def OVM_RESTART_CNT : Fld := { base := 0x00480034, lo := 0, width := 32, kind := .cnt }
/-- R345: 0 = no second is classified -/
def PMN_EN : Fld := { base := 0x00500000, lo := 0, width := 1, kind := .ctl, reset := 0x1 }
/-- R345: R321 -/
def PMN_AUTO : Fld := { base := 0x00500000, lo := 1, width := 1, kind := .ctl, reset := 0x1 }
/-- R345: Seconds, 0–86,399; above 86,399 acts as 0 -/
def PMN_DAY_START : Fld := { base := 0x00500000, lo := 2, width := 17, kind := .ctl }
/-- R345: R340 -/
def PMN_EXPORT_Q : Fld := { base := 0x00500004, lo := 0, width := 16, kind := .ctl, reset := 0xFFFF }
/-- R345: [16] 15-minute, [17] 24-hour -/
def PMN_EXPORT : Fld := { base := 0x00500004, lo := 16, width := 2, kind := .ctl, reset := 0x3 }
/-- R345: 0 = STOPPED, 1 = RUNNING, 2 = NO_AUTHORITY, 3 = FROZEN -/
def PMN_STATE : Fld := { base := 0x00500008, lo := 0, width := 2, kind := .sts }
/-- R345: Points enabled -/
def PMN_POINTS_EN : Fld := { base := 0x00500008, lo := 2, width := 16, kind := .sts }
/-- R345: Shaft stamp of the next 15-minute boundary, [31:0] -/
def PMN_NEXT_15M_LO : Fld := { base := 0x0050000C, lo := 0, width := 32, kind := .sts }
/-- R345: [63:32], shadowed -/
def PMN_NEXT_15M_HI : Fld := { base := 0x00500010, lo := 0, width := 32, kind := .sts }
/-- R345: As 15-minute -/
def PMN_NEXT_24H_LO : Fld := { base := 0x00500014, lo := 0, width := 32, kind := .sts }
/-- R345: Shadowed -/
def PMN_NEXT_24H_HI : Fld := { base := 0x00500018, lo := 0, width := 32, kind := .sts }
/-- R345: R326 -/
def PMN_SEC_LOST_CNT : Fld := { base := 0x0050001C, lo := 0, width := 32, kind := .cnt }
/-- R345: R337 -/
def PMN_TCA_CNT : Fld := { base := 0x00500020, lo := 0, width := 32, kind := .cnt }
/-- R345: R340 -/
def PMN_EXPORT_DROP_CNT : Fld := { base := 0x00500024, lo := 0, width := 32, kind := .cnt }
/-- R345: R339 -/
def PMN_HIST_ERR_CNT : Fld := { base := 0x00500028, lo := 0, width := 32, kind := .cnt }
/-- R383: Pair identity; 0 = none (R355) -/
def CIP_PAIR_ID : Fld := { base := 0x00580000, lo := 0, width := 16, kind := .lck }
/-- R383: Epoch of newly placed sending directions -/
def CIP_EPOCH_CUR : Fld := { base := 0x00580004, lo := 0, width := 16, kind := .sts }
/-- R383: Reservation last stored (R365) -/
def CIP_EPOCH_RESV : Fld := { base := 0x00580004, lo := 16, width := 16, kind := .sts }
/-- R383: R365 -/
def CIP_EPOCH_BASE : Fld := { base := 0x00580008, lo := 0, width := 16, kind := .lck }
/-- R383: 4 bits per slot s at [4s+3:4s]: [0] half 0 loaded, [1] half 1 loaded, [2] erase pending, [3] 0 -/
def CIP_ROOT_STATE : Fld := { base := 0x0058000C, lo := 0, width := 16, kind := .sts }
/-- R383: Wrapped slots 0–31 with a loaded half -/
def CIP_WRAP_LOADED_LO : Fld := { base := 0x00580010, lo := 0, width := 32, kind := .sts }
/-- R383: Wrapped slots 32–63 -/
def CIP_WRAP_LOADED_HI : Fld := { base := 0x00580014, lo := 0, width := 32, kind := .sts }
/-- R383: Cache entries held, 0–4,096 -/
def CIP_CACHE_USED : Fld := { base := 0x00580018, lo := 0, width := 13, kind := .sts }
/-- R383: Derivation units busy -/
def CIP_DERIVE_BUSY : Fld := { base := 0x00580018, lo := 16, width := 4, kind := .sts }
/-- R383: Pipelines awake -/
def CIP_PIPE_AWAKE : Fld := { base := 0x0058001C, lo := 0, width := 24, kind := .sts }
/-- R383: Pipelines running a bulk message -/
def CIP_PIPE_BULK : Fld := { base := 0x00580020, lo := 0, width := 24, kind := .sts }
/-- R383: Directions stopped, 0–4,096 -/
def CIP_CTX_STOPPED : Fld := { base := 0x00580024, lo := 0, width := 13, kind := .sts }
/-- R383: R371, all contexts -/
def CIP_AUTH_FAIL_CNT : Fld := { base := 0x00580028, lo := 0, width := 32, kind := .cnt }
/-- R383: R377 -/
def CIP_BULK_AUTH_FAIL_CNT : Fld := { base := 0x0058002C, lo := 0, width := 32, kind := .cnt }
/-- R383: R376 -/
def CIP_SUSPEND_CNT : Fld := { base := 0x00580030, lo := 0, width := 32, kind := .cnt }
/-- R383: R376 -/
def CIP_SUSPEND_FULL_CNT : Fld := { base := 0x00580034, lo := 0, width := 32, kind := .cnt }
/-- R383: Derivations completed -/
def CIP_DERIVE_CNT : Fld := { base := 0x00580038, lo := 0, width := 32, kind := .cnt }
/-- R420: 0 = A, 1 = B (reset: strap; the value of the model's fresh part, log entry 6) -/
def PAR_UNIT : Fld := { base := 0x00600000, lo := 0, width := 1, kind := .sts }
/-- R420: R385 (reset: strap; the value of the model's fresh part, log entry 6) -/
def PAR_PAIR_EN : Fld := { base := 0x00600000, lo := 1, width := 1, kind := .sts }
/-- R420: Automatic takeover -/
def PAR_AUTO : Fld := { base := 0x00600004, lo := 0, width := 1, kind := .ctl }
/-- R420: ms, 50–255; below 50 acts as 50 -/
def PAR_AUTO_SILENCE : Fld := { base := 0x00600004, lo := 1, width := 8, kind := .ctl, reset := 0x32 }
/-- R420: R406 -/
def PAR_EPOCH_MISS_MAX : Fld := { base := 0x00600004, lo := 9, width := 3, kind := .ctl, reset := 0x2 }
/-- R420: Per million; R417 -/
def PAR_CANARY_LOSS : Fld := { base := 0x00600008, lo := 0, width := 16, kind := .ctl, reset := 0xA }
/-- R420: Bit per UPL lane; a port's first lane applies -/
def PAR_PORT_ETUND : Fld := { base := 0x0060000C, lo := 0, width := 24, kind := .cmt }
/-- R420: Table 12-6; 0x0 when PAIR_EN is low -/
def PAR_STATE : Fld := { base := 0x00600010, lo := 0, width := 3, kind := .sts }
/-- R420: Authority held -/
def PAR_AUTHORITY : Fld := { base := 0x00600010, lo := 3, width := 1, kind := .sts }
/-- R420: R408 -/
def PAR_LEASED : Fld := { base := 0x00600010, lo := 4, width := 1, kind := .sts }
/-- R420: R410 -/
def PAR_FAULTED : Fld := { base := 0x00600010, lo := 5, width := 1, kind := .sts }
/-- R420: R406 -/
def PAR_HEALTHY : Fld := { base := 0x00600010, lo := 6, width := 1, kind := .sts }
/-- R420: Mate-link path not silent -/
def PAR_LINK_PATH : Fld := { base := 0x00600010, lo := 7, width := 1, kind := .sts }
/-- R420: Pin path not silent -/
def PAR_PIN_PATH : Fld := { base := 0x00600010, lo := 8, width := 1, kind := .sts }
/-- R420: R394 -/
def PAR_ADDR_CONFLICT : Fld := { base := 0x00600010, lo := 9, width := 1, kind := .sts }
/-- R420: R386 -/
def PAR_CONFIG_MISMATCH : Fld := { base := 0x00600010, lo := 10, width := 1, kind := .sts }
/-- R420: As HEALTH byte 0 -/
def PAR_CANARY : Fld := { base := 0x00600010, lo := 11, width := 2, kind := .sts }
/-- R420: Table 12-9 -/
def PAR_FAULT_CAUSE : Fld := { base := 0x00600010, lo := 13, width := 4, kind := .sts }
/-- R420: R389 -/
def PAR_LANES_USABLE : Fld := { base := 0x00600014, lo := 0, width := 8, kind := .sts }
/-- R420: 2 bits per lane, transmit roles -/
def PAR_LANE_ROLE : Fld := { base := 0x00600014, lo := 8, width := 16, kind := .sts }
/-- R420: Cycle of the grant held or issued, [31:0] -/
def PAR_LEASE_LO : Fld := { base := 0x00600018, lo := 0, width := 32, kind := .sts }
/-- R420: [47:32], shadowed -/
def PAR_LEASE_HI : Fld := { base := 0x0060001C, lo := 0, width := 16, kind := .sts }
/-- R420: Cycle of the last epoch applied or committed -/
def PAR_EPOCH_LO : Fld := { base := 0x00600020, lo := 0, width := 32, kind := .sts }
/-- R420: Shadowed -/
def PAR_EPOCH_HI : Fld := { base := 0x00600024, lo := 0, width := 16, kind := .sts }
/-- R420: ns -/
def PAR_MATE_RTT : Fld := { base := 0x00600028, lo := 0, width := 32, kind := .sts }
/-- R420: Signed, ps -/
def PAR_SHAFT_ERR : Fld := { base := 0x0060002C, lo := 0, width := 32, kind := .sts }
/-- R420: R399 -/
def PAR_FE_GOOD : Fld := { base := 0x00600030, lo := 0, width := 32, kind := .sts }
/-- R420: R399 -/
def PAR_FE_MISS : Fld := { base := 0x00600034, lo := 0, width := 32, kind := .sts }
/-- R420: R414 -/
def PAR_EPOCH_APPLIED_CNT : Fld := { base := 0x00600038, lo := 0, width := 32, kind := .cnt }
/-- R420: R414 -/
def PAR_EPOCH_DISCARD_CNT : Fld := { base := 0x0060003C, lo := 0, width := 32, kind := .cnt }
/-- R420: R402 -/
def PAR_GRANT_MISS_CNT : Fld := { base := 0x00600040, lo := 0, width := 32, kind := .cnt }
/-- R420: R396 -/
def PAR_GATE_MISS_CNT : Fld := { base := 0x00600044, lo := 0, width := 32, kind := .cnt }
/-- R420: R390 -/
def PAR_MSG_CRC_CNT : Fld := { base := 0x00600048, lo := 0, width := 32, kind := .cnt }
/-- R420: Entries to ACTIVE from TAKING -/
def PAR_TAKEOVER_CNT : Fld := { base := 0x0060004C, lo := 0, width := 32, kind := .cnt }
/-- R420: R416 -/
def PAR_BIST_FAIL_CNT : Fld := { base := 0x00600050, lo := 0, width := 32, kind := .cnt }
/-- R441: 10 mW units -/
def ENG_BUDGET : Fld := { base := 0x00680000, lo := 0, width := 16, kind := .ctl, reset := 0xC1C }
/-- R441: Lever 6 allowed -/
def ENG_SHED_EN : Fld := { base := 0x00680000, lo := 16, width := 1, kind := .ctl }
/-- R441: 0.1 W per 100 µs; 0 acts as 1 -/
def ENG_SLEW : Fld := { base := 0x00680004, lo := 0, width := 8, kind := .ctl, reset := 0x14 }
/-- R441: 10 mW units -/
def ENG_HYST : Fld := { base := 0x00680004, lo := 8, width := 8, kind := .ctl, reset := 0x32 }
/-- R441: 100 ms units; 0 acts as 1 -/
def ENG_RELEASE : Fld := { base := 0x00680004, lo := 16, width := 8, kind := .ctl, reset := 0xA }
/-- R441: mJ -/
def ENG_HOLDUP_MJ : Fld := { base := 0x00680008, lo := 0, width := 20, kind := .ctl }
/-- R441: 1–15; 0 acts as 1 -/
def ENG_LOSS_WORDS : Fld := { base := 0x0068000C, lo := 0, width := 4, kind := .ctl, reset := 0x4 }
/-- R441: R433 -/
def ENG_LG_EN : Fld := { base := 0x0068000C, lo := 4, width := 1, kind := .ctl, reset := 0x1 }
/-- R441: µs per 256-byte page -/
def ENG_NOR_PAGE_US : Fld := { base := 0x0068000C, lo := 5, width := 11, kind := .ctl, reset := 0x96 }
/-- R441: 1 = 400 kHz -/
def ENG_PMB_400K : Fld := { base := 0x0068000C, lo := 16, width := 1, kind := .ctl }
/-- R441: 0 NORMAL, 1 GOVERNING, 2 OVER, 3 LAST_GASP, 4 STOPPED -/
def ENG_STATE : Fld := { base := 0x00680010, lo := 0, width := 3, kind := .sts }
/-- R441: Highest lever in force -/
def ENG_LEVER : Fld := { base := 0x00680010, lo := 3, width := 3, kind := .sts }
/-- R441: Table 13-2 -/
def ENG_HBM_STATE : Fld := { base := 0x00680010, lo := 6, width := 2, kind := .sts }
/-- R441: Table 13-4 -/
def ENG_LG_STAGE : Fld := { base := 0x00680010, lo := 8, width := 3, kind := .sts }
/-- R441: R433 -/
def ENG_ARMED : Fld := { base := 0x00680010, lo := 11, width := 1, kind := .sts }
/-- R441: 10 mW units -/
def ENG_DEV_POWER : Fld := { base := 0x00680014, lo := 0, width := 16, kind := .sts }
/-- R441: 0.01 pJ/b -/
def ENG_EPB : Fld := { base := 0x00680014, lo := 16, width := 16, kind := .sts, reset := 0xFFFF }
/-- R441: 10 mW units -/
def ENG_INTAKE : Fld := { base := 0x00680018, lo := 0, width := 20, kind := .sts }
/-- R441: Remaining energy during a last gasp -/
def ENG_LEDGER_MJ : Fld := { base := 0x0068001C, lo := 0, width := 20, kind := .sts }
/-- R441: R431 -/
def ENG_SLEW_DEFER_CNT : Fld := { base := 0x00680020, lo := 0, width := 32, kind := .cnt }
/-- R441: R439 -/
def ENG_PMB_FAULT_CNT : Fld := { base := 0x00680024, lo := 0, width := 32, kind := .cnt }
/-- R441: Pair enabled -/
def ENG_FEED_EN : Fld := { base := 0x00681000, lo := 0, width := 1, kind := .ctl, stride := 0x20, count := 8 }
/-- R441: 10 mV at full scale -/
def ENG_FEED_VFS : Fld := { base := 0x00681004, lo := 0, width := 16, kind := .ctl, stride := 0x20, count := 8 }
/-- R441: 10 µA at full scale -/
def ENG_FEED_IFS : Fld := { base := 0x00681004, lo := 16, width := 16, kind := .ctl, stride := 0x20, count := 8 }
/-- R441: 10 mV -/
def ENG_FEED_VMIN : Fld := { base := 0x00681008, lo := 0, width := 16, kind := .ctl, stride := 0x20, count := 8 }
/-- R441: 10 mV, signed -/
def ENG_FEED_V : Fld := { base := 0x0068100C, lo := 0, width := 16, kind := .sts, stride := 0x20, count := 8 }
/-- R441: 10 µA, signed -/
def ENG_FEED_I : Fld := { base := 0x0068100C, lo := 16, width := 16, kind := .sts, stride := 0x20, count := 8 }
/-- R441: 10 mW -/
def ENG_FEED_P : Fld := { base := 0x00681010, lo := 0, width := 20, kind := .sts, stride := 0x20, count := 8 }
/-- R441: R426 -/
def ENG_FEED_LOW : Fld := { base := 0x00681014, lo := 0, width := 1, kind := .sts, stride := 0x20, count := 8 }
/-- R441: R423 -/
def ENG_FEED_UNALIGNED : Fld := { base := 0x00681014, lo := 1, width := 1, kind := .sts, stride := 0x20, count := 8 }
/-- R441: 7-bit address -/
def ENG_PMB_ADDR : Fld := { base := 0x00682000, lo := 0, width := 7, kind := .ctl, stride := 0x10, count := 8 }
/-- R441: Polled -/
def ENG_PMB_EN : Fld := { base := 0x00682000, lo := 7, width := 1, kind := .ctl, stride := 0x10, count := 8 }
/-- R441: Switched off in stage 4 -/
def ENG_PMB_LG_OFF : Fld := { base := 0x00682000, lo := 8, width := 1, kind := .ctl, stride := 0x10, count := 8 }
/-- R441: Last STATUS_WORD -/
def ENG_PMB_STATUS : Fld := { base := 0x00682004, lo := 0, width := 16, kind := .sts, stride := 0x10, count := 8 }
/-- R441: LINEAR11 -/
def ENG_PMB_VIN : Fld := { base := 0x00682008, lo := 0, width := 16, kind := .sts, stride := 0x10, count := 8 }
/-- R441: LINEAR11 -/
def ENG_PMB_POUT : Fld := { base := 0x00682008, lo := 16, width := 16, kind := .sts, stride := 0x10, count := 8 }
/-- R441: LINEAR11 -/
def ENG_PMB_IOUT : Fld := { base := 0x0068200C, lo := 0, width := 16, kind := .sts, stride := 0x10, count := 8 }
/-- R473: Doorbell reading on, from the next cycle -/
def HIF_EN : Fld := { base := 0x00700000, lo := 0, width := 1, kind := .ctl }
/-- R473: Doorbell reads; 0 acts as 1 -/
def HIF_STALE_LIMIT : Fld := { base := 0x00700000, lo := 8, width := 4, kind := .ctl, reset := 0x8 }
/-- R473: Doorbell page, address [31:0] -/
def HIF_DB_ADDR_LO : Fld := { base := 0x00700004, lo := 0, width := 32, kind := .cmt }
/-- R473: [63:32] -/
def HIF_DB_ADDR_HI : Fld := { base := 0x00700008, lo := 0, width := 32, kind := .cmt }
/-- R473: Index table -/
def HIF_DQ_IDX_ADDR_LO : Fld := { base := 0x0070000C, lo := 0, width := 32, kind := .cmt }
/-- R473: HIF_DQ_IDX_ADDR_HI -/
def HIF_DQ_IDX_ADDR_HI : Fld := { base := 0x00700010, lo := 0, width := 32, kind := .cmt }
/-- R473: Write-back area -/
def HIF_DQ_WB_ADDR_LO : Fld := { base := 0x00700014, lo := 0, width := 32, kind := .cmt }
/-- R473: HIF_DQ_WB_ADDR_HI -/
def HIF_DQ_WB_ADDR_HI : Fld := { base := 0x00700018, lo := 0, width := 32, kind := .cmt }
/-- R473: [15:0] subsystem vendor ID, [31:16] subsystem ID -/
def HIF_SUBSYS : Fld := { base := 0x0070001C, lo := 0, width := 32, kind := .lck }
/-- R473: Data link layer active -/
def HIF_LINK_UP : Fld := { base := 0x00700020, lo := 0, width := 1, kind := .sts }
/-- R473: 1–4 = 2.5, 5.0, 8.0, 16.0 GT/s -/
def HIF_LINK_SPEED : Fld := { base := 0x00700020, lo := 1, width := 3, kind := .sts }
/-- R473: Lanes -/
def HIF_LINK_WIDTH : Fld := { base := 0x00700020, lo := 4, width := 4, kind := .sts }
/-- R473: R449 -/
def HIF_DB_READ_ERR_CNT : Fld := { base := 0x00700024, lo := 0, width := 32, kind := .cnt }
/-- R473: R457 -/
def HIF_DESC_BAD_CNT : Fld := { base := 0x00700028, lo := 0, width := 32, kind := .cnt }
/-- R473: R448 -/
def HIF_INDEX_BAD_CNT : Fld := { base := 0x0070002C, lo := 0, width := 32, kind := .cnt }
/-- R473: Descriptors accepted -/
def HIF_CMD_CNT : Fld := { base := 0x00700030, lo := 0, width := 32, kind := .cnt }
/-- R473: EVQ of high byte 4i + 1 -/
def HIF_EVQ_ROUTE0 : Fld := { base := 0x00700040, lo := 0, width := 5, kind := .ctl, stride := 0x4, count := 5 }
/-- R473: EVQ of high byte 4i + 2 -/
def HIF_EVQ_ROUTE1 : Fld := { base := 0x00700040, lo := 8, width := 5, kind := .ctl, stride := 0x4, count := 5 }
/-- R473: EVQ of high byte 4i + 3 -/
def HIF_EVQ_ROUTE2 : Fld := { base := 0x00700040, lo := 16, width := 5, kind := .ctl, stride := 0x4, count := 5 }
/-- R473: EVQ of high byte 4i + 4 -/
def HIF_EVQ_ROUTE3 : Fld := { base := 0x00700040, lo := 24, width := 5, kind := .ctl, stride := 0x4, count := 5 }
/-- R473: HIF_CMD_BASE_LO -/
def HIF_CMD_BASE_LO : Fld := { base := 0x00701000, lo := 0, width := 32, kind := .cmt, stride := 0x20, count := 16 }
/-- R473: HIF_CMD_BASE_HI -/
def HIF_CMD_BASE_HI : Fld := { base := 0x00701004, lo := 0, width := 32, kind := .cmt, stride := 0x20, count := 16 }
/-- R473: log2 of entries -/
def HIF_CMD_SIZE : Fld := { base := 0x00701008, lo := 0, width := 5, kind := .cmt, stride := 0x20, count := 16, reset := 0x6 }
/-- R473: Bound CPL ring -/
def HIF_CMD_CPL : Fld := { base := 0x00701008, lo := 8, width := 4, kind := .cmt, stride := 0x20, count := 16 }
/-- R473: Per doorbell read; 0 acts as 1 -/
def HIF_CMD_BUDGET : Fld := { base := 0x00701008, lo := 16, width := 8, kind := .ctl, stride := 0x20, count := 16, reset := 0x40 }
/-- R473: From the next doorbell read -/
def HIF_CMD_EN : Fld := { base := 0x00701008, lo := 24, width := 1, kind := .ctl, stride := 0x20, count := 16 }
/-- R473: Device consumer index -/
def HIF_CMD_CONS : Fld := { base := 0x0070100C, lo := 0, width := 32, kind := .sts, stride := 0x20, count := 16 }
/-- R473: Producer index last accepted -/
def HIF_CMD_PROD : Fld := { base := 0x00701010, lo := 0, width := 32, kind := .sts, stride := 0x20, count := 16 }
/-- R473: R462 -/
def HIF_CMD_STALLED : Fld := { base := 0x00701014, lo := 0, width := 1, kind := .sts, stride := 0x20, count := 16 }
/-- R473: A FENCE waits -/
def HIF_CMD_FENCED : Fld := { base := 0x00701014, lo := 1, width := 1, kind := .sts, stride := 0x20, count := 16 }
/-- R473: R457, check 1 -/
def HIF_CMD_NOT_READY : Fld := { base := 0x00701014, lo := 2, width := 1, kind := .sts, stride := 0x20, count := 16 }
/-- R473: HIF_CPL_BASE_LO -/
def HIF_CPL_BASE_LO : Fld := { base := 0x00701200, lo := 0, width := 32, kind := .cmt, stride := 0x20, count := 16 }
/-- R473: HIF_CPL_BASE_HI -/
def HIF_CPL_BASE_HI : Fld := { base := 0x00701204, lo := 0, width := 32, kind := .cmt, stride := 0x20, count := 16 }
/-- R473: log2 of entries -/
def HIF_CPL_SIZE : Fld := { base := 0x00701208, lo := 0, width := 5, kind := .cmt, stride := 0x20, count := 16, reset := 0x6 }
/-- R473: Vector -/
def HIF_CPL_VEC : Fld := { base := 0x00701208, lo := 8, width := 5, kind := .ctl, stride := 0x20, count := 16 }
/-- R473: HIF_CPL_VEC_EN -/
def HIF_CPL_VEC_EN : Fld := { base := 0x00701208, lo := 13, width := 1, kind := .ctl, stride := 0x20, count := 16 }
/-- R473: HIF_CPL_EN -/
def HIF_CPL_EN : Fld := { base := 0x00701208, lo := 24, width := 1, kind := .ctl, stride := 0x20, count := 16 }
/-- R473: Device producer index -/
def HIF_CPL_PROD : Fld := { base := 0x0070120C, lo := 0, width := 32, kind := .sts, stride := 0x20, count := 16 }
/-- R473: Consumer index last accepted -/
def HIF_CPL_CONS : Fld := { base := 0x00701210, lo := 0, width := 32, kind := .sts, stride := 0x20, count := 16 }
/-- R473: R463 -/
def HIF_CPL_DROP_CNT : Fld := { base := 0x00701214, lo := 0, width := 32, kind := .cnt, stride := 0x20, count := 16 }
/-- R473: as HIF_CPL_BASE_LO -/
def HIF_EVQ_BASE_LO : Fld := { base := 0x00701400, lo := 0, width := 32, kind := .cmt, stride := 0x20, count := 32 }
/-- R473: as HIF_CPL_BASE_HI -/
def HIF_EVQ_BASE_HI : Fld := { base := 0x00701404, lo := 0, width := 32, kind := .cmt, stride := 0x20, count := 32 }
/-- R473: as HIF_CPL_SIZE -/
def HIF_EVQ_SIZE : Fld := { base := 0x00701408, lo := 0, width := 5, kind := .cmt, stride := 0x20, count := 32, reset := 0x6 }
/-- R473: as HIF_CPL_VEC -/
def HIF_EVQ_VEC : Fld := { base := 0x00701408, lo := 8, width := 5, kind := .ctl, stride := 0x20, count := 32 }
/-- R473: as HIF_CPL_VEC_EN -/
def HIF_EVQ_VEC_EN : Fld := { base := 0x00701408, lo := 13, width := 1, kind := .ctl, stride := 0x20, count := 32 }
/-- R473: as HIF_CPL_EN -/
def HIF_EVQ_EN : Fld := { base := 0x00701408, lo := 24, width := 1, kind := .ctl, stride := 0x20, count := 32 }
/-- R473: HIF_EVQ_PROD -/
def HIF_EVQ_PROD : Fld := { base := 0x0070140C, lo := 0, width := 32, kind := .sts, stride := 0x20, count := 32 }
/-- R473: HIF_EVQ_CONS -/
def HIF_EVQ_CONS : Fld := { base := 0x00701410, lo := 0, width := 32, kind := .sts, stride := 0x20, count := 32 }
/-- R473: R466, R467 -/
def HIF_EVQ_DROP_CNT : Fld := { base := 0x00701414, lo := 0, width := 32, kind := .cnt, stride := 0x20, count := 32 }
/-- R473: Shaft cycles -/
def HIF_VEC_TIMER : Fld := { base := 0x00701800, lo := 0, width := 8, kind := .ctl, stride := 0x8, count := 32 }
/-- R473: Records; 0 acts as 1 -/
def HIF_VEC_COUNT : Fld := { base := 0x00701800, lo := 8, width := 16, kind := .ctl, stride := 0x8, count := 32, reset := 0x1 }
/-- R473: Messages sent -/
def HIF_VEC_MSG_CNT : Fld := { base := 0x00701804, lo := 0, width := 32, kind := .cnt, stride := 0x8, count := 32 }
/-- R498: First host queue; 0xFFD0 = none -/
def QMG_HOST_BASE : Fld := { base := 0x00780000, lo := 0, width := 16, kind := .cmt, reset := 0xFFD0 }
/-- R498: MiB, 0–2,048 -/
def QMG_HOST_HBM : Fld := { base := 0x00780004, lo := 0, width := 12, kind := .cmt }
/-- R498: Queues existing -/
def QMG_QUEUES : Fld := { base := 0x00780008, lo := 0, width := 17, kind := .sts }
/-- R498: SRAM words in queue regions -/
def QMG_SRAM_WORDS : Fld := { base := 0x0078000C, lo := 0, width := 32, kind := .sts }
/-- R498: MiB in queue regions -/
def QMG_HBM_USED : Fld := { base := 0x00780010, lo := 0, width := 16, kind := .sts }
/-- R498: Queues with QMG_Q_HIGH set; saturates at 65,535 -/
def QMG_HIGH_QUEUES : Fld := { base := 0x00780010, lo := 16, width := 16, kind := .sts }
/-- R498: R488, all queues -/
def QMG_DROP_CNT : Fld := { base := 0x00780014, lo := 0, width := 32, kind := .cnt }
/-- R498: R481 -/
def QMG_ABORT_CNT : Fld := { base := 0x00780018, lo := 0, width := 32, kind := .cnt }
/-- R498: R496 -/
def QMG_PTR_RESET_CNT : Fld := { base := 0x0078001C, lo := 0, width := 32, kind := .cnt }
/-- R498: R492 -/
def QMG_MARK_LOST_CNT : Fld := { base := 0x00780020, lo := 0, width := 32, kind := .cnt }
/-- R498: Words closed short by R482 -/
def QMG_FLUSH_CNT : Fld := { base := 0x00780024, lo := 0, width := 32, kind := .cnt }
/-- R544: Compare mode per unit; units 4 and 5 ignore their bits -/
def ASY_EN : Fld := { base := 0x00800000, lo := 0, width := 6, kind := .ctl, reset := 0x3F }
/-- R544: Seconds, 1–60; 0 acts as 1 -/
def ASY_PERIOD : Fld := { base := 0x00800000, lo := 8, width := 6, kind := .ctl, reset := 0x4 }
/-- R544: 0 APPEND_ONLY, 1 COMPARING -/
def ASY_STATE : Fld := { base := 0x00800004, lo := 0, width := 2, kind := .sts }
/-- R544: R540 -/
def ASY_SUSPECT_CNT : Fld := { base := 0x00800008, lo := 0, width := 32, kind := .cnt }
/-- R544: Granule index reached in the current pass -/
def ASY_POS : Fld := { base := 0x00801000, lo := 0, width := 16, kind := .sts, stride := 0x20, count := 6 }
/-- R544: R534 -/
def ASY_PASS_LATE : Fld := { base := 0x00801000, lo := 16, width := 1, kind := .sts, stride := 0x20, count := 6 }
/-- R544: Passes completed -/
def ASY_PASS_CNT : Fld := { base := 0x00801004, lo := 0, width := 32, kind := .cnt, stride := 0x20, count := 6 }
/-- R544: R535 -/
def ASY_CORR_CNT : Fld := { base := 0x00801008, lo := 0, width := 32, kind := .cnt, stride := 0x20, count := 6 }
/-- R544: R535 -/
def ASY_REGEN_CNT : Fld := { base := 0x0080100C, lo := 0, width := 32, kind := .cnt, stride := 0x20, count := 6 }
/-- R544: R536 -/
def ASY_MISMATCH_CNT : Fld := { base := 0x00801010, lo := 0, width := 32, kind := .cnt, stride := 0x20, count := 6 }
/-- R544: R535 -/
def ASY_RETRY_CNT : Fld := { base := 0x00801014, lo := 0, width := 32, kind := .cnt, stride := 0x20, count := 6 }
/-- R544: R537 -/
def ASY_SKIP_CNT : Fld := { base := 0x00801018, lo := 0, width := 32, kind := .cnt, stride := 0x20, count := 6 }
/-- R565: Table 18-7 (reset: OTP; the value of the model's fresh part, log entry 6) -/
def SEC_LIFECYCLE : Fld := { base := 0x00880000, lo := 0, width := 2, kind := .sts }
/-- R565: R552 (reset: OTP; the value of the model's fresh part, log entry 6) -/
def SEC_SVN_OTP : Fld := { base := 0x00880000, lo := 2, width := 6, kind := .sts }
/-- R565: SVN of the running image (reset: image; the value of the model's fresh part, log entry 6) -/
def SEC_SVN_RUN : Fld := { base := 0x00880000, lo := 8, width := 6, kind := .sts }
/-- R565: Slot booted (reset: image; the value of the model's fresh part, log entry 6) -/
def SEC_BOOT_SLOT : Fld := { base := 0x00880000, lo := 14, width := 1, kind := .sts }
/-- R565: R553 (reset: OTP; the value of the model's fresh part, log entry 6) -/
def SEC_VKEY_REVOKED : Fld := { base := 0x00880000, lo := 16, width := 4, kind := .sts }
/-- R565: Slot in force; 0xF = none (reset: OTP; the value of the model's fresh part, log entry 6) -/
def SEC_OPKEY_SLOT : Fld := { base := 0x00880000, lo := 20, width := 4, kind := .sts, reset := 0xF }
/-- R565: R548 -/
def SEC_TRNG_OK : Fld := { base := 0x00880000, lo := 24, width := 1, kind := .sts }
/-- R565: R562 -/
def SEC_NONCE_VALID : Fld := { base := 0x00880000, lo := 25, width := 1, kind := .sts }
/-- R565: R554 -/
def SEC_STAGING : Fld := { base := 0x00880000, lo := 26, width := 1, kind := .sts }
/-- R565: [3:0] slot 0, [7:4] slot 1; Table 18-2, 0 = valid -/
def SEC_BOOT_STATUS : Fld := { base := 0x00880004, lo := 0, width := 8, kind := .sts }
/-- R565: Scope open; 0 = closed -/
def SEC_DEBUG : Fld := { base := 0x00880004, lo := 8, width := 2, kind := .sts }
/-- R565: Certificate serial [31:0] (reset: OTP; the value of the model's fresh part, log entry 6) -/
def SEC_SERIAL_LO : Fld := { base := 0x00880008, lo := 0, width := 32, kind := .sts }
/-- R565: [63:32], shadowed (reset: OTP; the value of the model's fresh part, log entry 6) -/
def SEC_SERIAL_HI : Fld := { base := 0x0088000C, lo := 0, width := 32, kind := .sts }
/-- R565: Minutes left -/
def SEC_DEBUG_LEFT : Fld := { base := 0x00880010, lo := 0, width := 16, kind := .sts }
/-- R565: R561 -/
def SEC_ENV_BAD_CNT : Fld := { base := 0x00880014, lo := 0, width := 32, kind := .cnt }
/-- R565: R562, bytes 0–31 -/
def SEC_NONCE : Fld := { base := 0x00880040, lo := 0, width := 32, kind := .sts, stride := 0x4, count := 8 }
/-- R618: 0.01 %; R607 -/
def BKG_WEAR_MARGIN : Fld := { base := 0x00900000, lo := 0, width := 8, kind := .ctl, reset := 0x14 }
/-- R618: R600; 0 acts as 1 -/
def BKG_WEAK_THR : Fld := { base := 0x00900000, lo := 8, width := 4, kind := .ctl, reset := 0x3 }
/-- R618: R611; 5–7 act as 4 -/
def BKG_LOG_SEV : Fld := { base := 0x00900000, lo := 12, width := 3, kind := .ctl, reset := 0x3 }
/-- R618: °C -/
def BKG_TJ_WARN : Fld := { base := 0x00900004, lo := 0, width := 8, kind := .ctl, reset := 0x69 }
/-- R618: Signed, 1/16 °C -/
def BKG_TJ_MAX : Fld := { base := 0x00900008, lo := 0, width := 16, kind := .sts }
/-- R618: R597 -/
def BKG_THROTTLED : Fld := { base := 0x00900008, lo := 16, width := 1, kind := .sts }
/-- R618: Last epoch, 0.01 % -/
def BKG_HEWER_USE : Fld := { base := 0x0090000C, lo := 0, width := 16, kind := .sts }
/-- R618: Last epoch, 0.01 % -/
def BKG_HBM_USE : Fld := { base := 0x0090000C, lo := 16, width := 16, kind := .sts }
/-- R618: R598 -/
def BKG_SRAM_CORR_CNT : Fld := { base := 0x00900010, lo := 0, width := 32, kind := .cnt }
/-- R618: R601 -/
def BKG_SRAM_UNCORR_CNT : Fld := { base := 0x00900014, lo := 0, width := 32, kind := .cnt }
/-- R618: R602 -/
def BKG_HBM_CORR_CNT : Fld := { base := 0x00900018, lo := 0, width := 32, kind := .cnt }
/-- R618: R602 -/
def BKG_HBM_UNCORR_CNT : Fld := { base := 0x0090001C, lo := 0, width := 32, kind := .cnt }
/-- R618: R600 -/
def BKG_WEAK_ROWS : Fld := { base := 0x00900020, lo := 0, width := 16, kind := .sts }
/-- R618: Signed, 1/16 °C -/
def BKG_LIFE_AVG_TJ : Fld := { base := 0x00900024, lo := 0, width := 16, kind := .sts }
/-- R618: Time at 105 °C or above, 0.01 % -/
def BKG_LIFE_HOT : Fld := { base := 0x00900024, lo := 16, width := 16, kind := .sts }
/-- R618: Hours of service -/
def BKG_LIFE_HOURS : Fld := { base := 0x00900028, lo := 0, width := 32, kind := .sts }
/-- R618: R613 -/
def BKG_LOG_DROP_CNT : Fld := { base := 0x0090002C, lo := 0, width := 32, kind := .cnt }
/-- R618: Sequence number of the current sector -/
def BKG_LOG_SEQ : Fld := { base := 0x00900030, lo := 0, width := 32, kind := .sts }
/-- R618: R596 -/
def BKG_STARVED_CNT : Fld := { base := 0x00900034, lo := 0, width := 32, kind := .cnt }
/-- R618: mV -/
def BKG_RAIL_MV : Fld := { base := 0x00900040, lo := 0, width := 16, kind := .sts, stride := 0x4, count := 9 }
/-- R618: 10 mW -/
def BKG_RAIL_PWR : Fld := { base := 0x00900040, lo := 16, width := 16, kind := .sts, stride := 0x4, count := 9 }
/-- R618: 0x7E57 arms (R615) -/
def TST_ARM : Fld := { base := 0x00980000, lo := 0, width := 16, kind := .ctl }
/-- R618: Table 20-3 -/
def TST_EN : Fld := { base := 0x00980000, lo := 16, width := 5, kind := .ctl }
/-- R618: Epochs; 0 acts as 1 -/
def TST_DURATION : Fld := { base := 0x00980004, lo := 0, width := 16, kind := .ctl, reset := 0xFA }
/-- R618: Epochs left -/
def TST_LEFT : Fld := { base := 0x00980004, lo := 16, width := 16, kind := .sts }
/-- R618: Signed, 0.001 ppm; beyond ±20,000 acts as ±20,000 -/
def TST_REF_OFFSET : Fld := { base := 0x00980008, lo := 0, width := 16, kind := .ctl }
/-- R618: Candidate 0–19 -/
def TST_REF_CAND : Fld := { base := 0x00980008, lo := 16, width := 5, kind := .ctl }
/-- R618: First queue -/
def TST_BP_Q_FIRST : Fld := { base := 0x0098000C, lo := 0, width := 16, kind := .ctl }
/-- R618: Queues; 0 = none -/
def TST_BP_Q_COUNT : Fld := { base := 0x0098000C, lo := 16, width := 16, kind := .ctl }
/-- R618: µs; above 1,000 acts as 1,000 -/
def TST_DMA_DELAY : Fld := { base := 0x00980010, lo := 0, width := 10, kind := .ctl }
/-- R618: Positions; above 64 acts as 64 -/
def TST_JITTER : Fld := { base := 0x00980010, lo := 10, width := 7, kind := .ctl }
/-- R618: 0–5 assay unit, 7 Ralale tub headers, 8 descriptors; others ignored -/
def TST_CHECK_TARGET : Fld := { base := 0x00980014, lo := 0, width := 4, kind := .ctl }
/-- R618: ACC lane for target 7 -/
def TST_CHECK_LANE : Fld := { base := 0x00980014, lo := 4, width := 6, kind := .ctl }
/-- R618: Results to alter -/
def TST_CHECK_COUNT : Fld := { base := 0x00980014, lo := 10, width := 16, kind := .ctl }
/-- R618: Perturbations in effect -/
def TST_ACTIVE : Fld := { base := 0x00980018, lo := 0, width := 5, kind := .sts }
/-- R618: R614 -/
def TST_PERTURB_CNT : Fld := { base := 0x0098001C, lo := 0, width := 32, kind := .cnt }

/-- The fields of block GLB. -/
def blockGLB : List Fld :=
  [GLB_ID, GLB_COMMIT, GLB_COMMIT_PENDING, GLB_COMMIT_BUSY, GLB_DISCARD, GLB_LAST_REJECT_GROUP, GLB_LAST_REJECT_REASON, GLB_LAST_REJECT_OFF, GLB_SCRATCH, GLB_WTL_CNT, GLB_TRI_FIX_CNT, GLB_ACCESS_BAD_CNT, GLB_COMMIT_CNT, GLB_REJECT_CNT, GLB_BOARD_ID, GLB_TRI_FAULT]

/-- The fields of block RST. -/
def blockRST : List Fld :=
  [RST_CAUSE, RST_REQ, RST_KEY, RST_ACTIVE, RST_HEWER_REQ_LO, RST_HEWER_REQ_MID, RST_HEWER_REQ_HI, RST_HEWER_ACTIVE_LO, RST_HEWER_ACTIVE_MID, RST_HEWER_ACTIVE_HI, RST_REQ_CNT, RST_GEN, RST_HEWER_GEN]

/-- The fields of block SHF. -/
def blockSHF : List Fld :=
  [SHF_DOORBELL_POS, SHF_STATE, SHF_DOORBELL_BAD, SHF_CYCLE_LO, SHF_CYCLE_HI, SHF_POS_SNAP, SHF_BANK_ACTIVE, SHF_BANK_ARMED, SHF_ENTRIES_ACTIVE, SHF_LATE_CNT, SHF_SWAP_DEFER_CNT, SHF_GATE_SLIP_CNT]

/-- The fields of block TIM. -/
def blockTIM : List Fld :=
  [TIM_REVERTIVE, TIM_QL_EN, TIM_QL_OPTION, TIM_REFIN0_FREQ, TIM_REFIN1_FREQ, TIM_WTR, TIM_DISAGREE_THR, TIM_HOLDOFF, TIM_SWITCH_SLEW, TIM_HO_HIST, TIM_STEER_RAMP, TIM_STEER_WDOG, TIM_DPLL_STATE, TIM_SEL, TIM_SWITCHING, TIM_DISAGREE, TIM_FORCED, TIM_HO_SHORT, TIM_HO_UNCOMP, TIM_DCO_LIMIT, TIM_MODEL_STATE, TIM_DCO_OFFSET, TIM_HO_AGE, TIM_STEER_SUPERSEDED_CNT] ++
  [TIM_MODEL_SENSORS, TIM_MODEL_RMS_MAX, TIM_MODEL_RMS, TIM_MODEL_TRANGE, TIM_OUT_HO_QL, TIM_OUT_FR_QL, TIM_REFOUT0_EN, TIM_REFOUT0_FREQ, TIM_REFOUT0_SQ, TIM_REFOUT0_SQ_QL, TIM_REFOUT0_SRC, TIM_REFOUT0_CAND, TIM_REFOUT1_EN, TIM_REFOUT1_FREQ, TIM_REFOUT1_SQ, TIM_REFOUT1_SQ_QL, TIM_REFOUT1_SRC, TIM_REFOUT1_CAND, TIM_PPSOUT_EN, TIM_PPSOUT_SQ, TIM_PPSOUT_WIDTH, TIM_PPSOUT_COMP, TIM_TOD_SEC_LO, TIM_TOD_SEC_HI] ++
  [TIM_TOD_NS, TIM_PPS_STEP_THR, TIM_MODEL_C1, TIM_MODEL_C2, TIM_MODEL_C3, TIM_MODEL_C4, TIM_MODEL_AGE, TIM_MODEL_T0, TIM_CAND_EN, TIM_CAND_RANK, TIM_CAND_BW, TIM_CAND_QL_SRC, TIM_CAND_QL_FIXED, TIM_CAND_PBO, TIM_CAND_SA, TIM_CAND_SRC_KIND, TIM_CAND_SRC_LANE, TIM_CAND_SRC_CHAN, TIM_CAND_ACCEPT, TIM_CAND_REJECT, TIM_CAND_QUALTIME, TIM_CAND_STATE, TIM_CAND_QL, TIM_CAND_CFG_BAD] ++
  [TIM_CAND_REASON, TIM_CAND_FREQ, TIM_CAND_WTR_LEFT, TIM_CAND_QLCHG_CNT]

/-- The fields of block FLT. -/
def blockFLT : List Fld :=
  [FLT_CH_EN_LO, FLT_CH_EN_HI, FLT_FMCLK_EN, FLT_CH_QUEUE_EN, FLT_CH_XFADE_LEN, FLT_CH_PRESET, FLT_CH_N, FLT_CH_R, FLT_CH_DC_K, FLT_CH_BANK, FLT_CH_FADING, FLT_CH_DEFERRED, FLT_CH_DEF_BANK, FLT_CH_FROZEN, FLT_CH_SAT, FLT_CH_STUCK, FLT_CH_SETTLING, FLT_CH_ASYM_A, FLT_CH_ASYM_B, FLT_CH_COMPLETE_A, FLT_CH_COMPLETE_B, FLT_CH_DC_EST, FLT_CH_GDELAY, FLT_CH_SETTLE_CNT] ++
  [FLT_CH_SAT_CNT, FLT_CH_SWAP_REPLACED_CNT, FLT_CH_WORD_CNT]

/-- The fields of block PRT. -/
def blockPRT : List Fld :=
  [PRT_UPL_LAYOUT, PRT_LANE_MODE, PRT_LANE_SONET, PRT_LANE_FEC, PRT_LANE_TXPOL, PRT_LANE_RXPOL, PRT_LANE_TX_PRE, PRT_LANE_TX_MAIN, PRT_LANE_TX_POST, PRT_LANE_ADAPT_FREEZE, PRT_LANE_CTLE_OVR, PRT_LANE_CTLE, PRT_LANE_LOS_THR, PRT_LANE_LOS, PRT_LANE_LOL, PRT_LANE_NO_BLOCK_LOCK, PRT_LANE_HIBER, PRT_LANE_GATED, PRT_LANE_TAP_CLIP, PRT_LANE_READY, PRT_LANE_IN_USE, PRT_LANE_TESTING, PRT_LANE_PRBS_LOCK, PRT_LANE_EYE_W] ++
  [PRT_LANE_EYE_H, PRT_LANE_FREQ, PRT_LANE_LOS_CNT, PRT_LANE_FEC_CORR_CNT, PRT_LANE_FEC_UNCORR_CNT, PRT_LANE_PRBS_ERR_CNT, PRT_TRB_EN, PRT_TRB_LAYOUT, PRT_TRB_ALIGN, PRT_TRB_LLA, PRT_TRB_RLA, PRT_TRB_LOS, PRT_TRB_MODE_MISMATCH, PRT_TRB_CRC_CNT, PRT_TRB_OVERRUN_CNT, PRT_TRB_CHAN_LOS0, PRT_TRB_CHAN_LOS1, PRT_TRB_CHAN_LOS2, PRT_TRB_CHAN_LOS3]

/-- The fields of block RLK. -/
def blockRLK : List Fld :=
  [RLK_DD_HOLD, RLK_EK7210, RLK_TX_LINK_ID, RLK_RX_LINK_ID_EXP, RLK_ALIGN, RLK_LFA, RLK_RDI_RX, RLK_LIM, RLK_DGASP_RX, RLK_UNIT_RX, RLK_PAIRED_RX, RLK_RX_LINK_ID, RLK_RX_QL, RLK_RTT, RLK_SH_ERR_CNT, RLK_MARK_CRC_CNT, RLK_OH_CRC_CNT, RLK_HDR_ERR_CNT, RLK_GOOD_CNT, RLK_DUP_CNT, RLK_LATE_CNT, RLK_COPY_LOST_CNT, RLK_BOTH_LOST_CNT, RLK_UNKNOWN_CID_CNT] ++
  [RLK_OOW_CNT, RLK_FE_GOOD, RLK_FE_HDR_ERR, RLK_FE_COPY_LOST, RLK_FE_LATE, RLK_FE_BOTH_LOST, RLK_FE_WORST_CID, RLK_FE_WORST_CNT, RLK_TX_TUB_CNT, RLK_TX_IDLE_CNT]

/-- The fields of block FRM. -/
def blockFRM : List Fld :=
  [FRM_SF_EXP, FRM_SD_EXP, FRM_INTEG_SET, FRM_INTEG_CLR, FRM_OH_OVERRUN_CNT, FRM_REFRAME_CNT, FRM_LANE_ALIGN, FRM_LANE_OOF, FRM_LANE_LOF, FRM_LANE_LOM, FRM_LANE_OTL_LOL, FRM_LANE_AIS, FRM_LANE_RDI, FRM_LANE_TIM, FRM_LANE_SD, FRM_LANE_SF, FRM_LANE_IAE, FRM_LANE_SKEW, FRM_LANE_LANES_OK, FRM_LANE_B1_CNT, FRM_LANE_B2_CNT, FRM_LANE_REI_CNT, FRM_LANE_OOF_CNT]

/-- The fields of block MAP. -/
def blockMAP : List Fld :=
  [MAP_PAGE_ACTIVE, MAP_PAGE_ARMED, MAP_TSI_ENTRIES, MAP_GRAINS_USED, MAP_DD_MAX, MAP_STAG_EN, MAP_FCS_DROP, MAP_CMF_PERIOD, MAP_VLAN_UNMATCHED_CNT, MAP_FCS_ERR_CNT, MAP_CHEC_CORR_CNT, MAP_CHEC_UNCORR_CNT, MAP_SC_CRC_CNT, MAP_DD_LATE_CNT, MAP_HANDOVER_CNT, MAP_RATEFOLLOW_LIMIT_CNT]

/-- The fields of block OVM. -/
def blockOVM : List Fld :=
  [OVM_BG_EN, OVM_MOVE_MAX, OVM_HEADROOM, OVM_WEAR_PERIOD, OVM_STATE, OVM_ENGINES, OVM_HEWERS_LO, OVM_HEWERS_MID, OVM_HEWERS_HI, OVM_INTENTS_PLACED, OVM_INTENTS_PENDING, OVM_CTX_FREE, OVM_GRAINS_FREE, OVM_SEALED_FREE, OVM_PRIV_FREE, OVM_MOVE_CNT, OVM_REFUSE_CNT, OVM_HELD_CNT, OVM_HOLD_EXPIRE_CNT, OVM_RESTART_CNT]

/-- The fields of block PMN. -/
def blockPMN : List Fld :=
  [PMN_EN, PMN_AUTO, PMN_DAY_START, PMN_EXPORT_Q, PMN_EXPORT, PMN_STATE, PMN_POINTS_EN, PMN_NEXT_15M_LO, PMN_NEXT_15M_HI, PMN_NEXT_24H_LO, PMN_NEXT_24H_HI, PMN_SEC_LOST_CNT, PMN_TCA_CNT, PMN_EXPORT_DROP_CNT, PMN_HIST_ERR_CNT]

/-- The fields of block CIP. -/
def blockCIP : List Fld :=
  [CIP_PAIR_ID, CIP_EPOCH_CUR, CIP_EPOCH_RESV, CIP_EPOCH_BASE, CIP_ROOT_STATE, CIP_WRAP_LOADED_LO, CIP_WRAP_LOADED_HI, CIP_CACHE_USED, CIP_DERIVE_BUSY, CIP_PIPE_AWAKE, CIP_PIPE_BULK, CIP_CTX_STOPPED, CIP_AUTH_FAIL_CNT, CIP_BULK_AUTH_FAIL_CNT, CIP_SUSPEND_CNT, CIP_SUSPEND_FULL_CNT, CIP_DERIVE_CNT]

/-- The fields of block PAR. -/
def blockPAR : List Fld :=
  [PAR_UNIT, PAR_PAIR_EN, PAR_AUTO, PAR_AUTO_SILENCE, PAR_EPOCH_MISS_MAX, PAR_CANARY_LOSS, PAR_PORT_ETUND, PAR_STATE, PAR_AUTHORITY, PAR_LEASED, PAR_FAULTED, PAR_HEALTHY, PAR_LINK_PATH, PAR_PIN_PATH, PAR_ADDR_CONFLICT, PAR_CONFIG_MISMATCH, PAR_CANARY, PAR_FAULT_CAUSE, PAR_LANES_USABLE, PAR_LANE_ROLE, PAR_LEASE_LO, PAR_LEASE_HI, PAR_EPOCH_LO, PAR_EPOCH_HI] ++
  [PAR_MATE_RTT, PAR_SHAFT_ERR, PAR_FE_GOOD, PAR_FE_MISS, PAR_EPOCH_APPLIED_CNT, PAR_EPOCH_DISCARD_CNT, PAR_GRANT_MISS_CNT, PAR_GATE_MISS_CNT, PAR_MSG_CRC_CNT, PAR_TAKEOVER_CNT, PAR_BIST_FAIL_CNT]

/-- The fields of block ENG. -/
def blockENG : List Fld :=
  [ENG_BUDGET, ENG_SHED_EN, ENG_SLEW, ENG_HYST, ENG_RELEASE, ENG_HOLDUP_MJ, ENG_LOSS_WORDS, ENG_LG_EN, ENG_NOR_PAGE_US, ENG_PMB_400K, ENG_STATE, ENG_LEVER, ENG_HBM_STATE, ENG_LG_STAGE, ENG_ARMED, ENG_DEV_POWER, ENG_EPB, ENG_INTAKE, ENG_LEDGER_MJ, ENG_SLEW_DEFER_CNT, ENG_PMB_FAULT_CNT, ENG_FEED_EN, ENG_FEED_VFS, ENG_FEED_IFS] ++
  [ENG_FEED_VMIN, ENG_FEED_V, ENG_FEED_I, ENG_FEED_P, ENG_FEED_LOW, ENG_FEED_UNALIGNED, ENG_PMB_ADDR, ENG_PMB_EN, ENG_PMB_LG_OFF, ENG_PMB_STATUS, ENG_PMB_VIN, ENG_PMB_POUT, ENG_PMB_IOUT]

/-- The fields of block HIF. -/
def blockHIF : List Fld :=
  [HIF_EN, HIF_STALE_LIMIT, HIF_DB_ADDR_LO, HIF_DB_ADDR_HI, HIF_DQ_IDX_ADDR_LO, HIF_DQ_IDX_ADDR_HI, HIF_DQ_WB_ADDR_LO, HIF_DQ_WB_ADDR_HI, HIF_SUBSYS, HIF_LINK_UP, HIF_LINK_SPEED, HIF_LINK_WIDTH, HIF_DB_READ_ERR_CNT, HIF_DESC_BAD_CNT, HIF_INDEX_BAD_CNT, HIF_CMD_CNT, HIF_EVQ_ROUTE0, HIF_EVQ_ROUTE1, HIF_EVQ_ROUTE2, HIF_EVQ_ROUTE3, HIF_CMD_BASE_LO, HIF_CMD_BASE_HI, HIF_CMD_SIZE, HIF_CMD_CPL] ++
  [HIF_CMD_BUDGET, HIF_CMD_EN, HIF_CMD_CONS, HIF_CMD_PROD, HIF_CMD_STALLED, HIF_CMD_FENCED, HIF_CMD_NOT_READY, HIF_CPL_BASE_LO, HIF_CPL_BASE_HI, HIF_CPL_SIZE, HIF_CPL_VEC, HIF_CPL_VEC_EN, HIF_CPL_EN, HIF_CPL_PROD, HIF_CPL_CONS, HIF_CPL_DROP_CNT, HIF_EVQ_BASE_LO, HIF_EVQ_BASE_HI, HIF_EVQ_SIZE, HIF_EVQ_VEC, HIF_EVQ_VEC_EN, HIF_EVQ_EN, HIF_EVQ_PROD, HIF_EVQ_CONS] ++
  [HIF_EVQ_DROP_CNT, HIF_VEC_TIMER, HIF_VEC_COUNT, HIF_VEC_MSG_CNT]

/-- The fields of block QMG. -/
def blockQMG : List Fld :=
  [QMG_HOST_BASE, QMG_HOST_HBM, QMG_QUEUES, QMG_SRAM_WORDS, QMG_HBM_USED, QMG_HIGH_QUEUES, QMG_DROP_CNT, QMG_ABORT_CNT, QMG_PTR_RESET_CNT, QMG_MARK_LOST_CNT, QMG_FLUSH_CNT]

/-- The fields of block ASY. -/
def blockASY : List Fld :=
  [ASY_EN, ASY_PERIOD, ASY_STATE, ASY_SUSPECT_CNT, ASY_POS, ASY_PASS_LATE, ASY_PASS_CNT, ASY_CORR_CNT, ASY_REGEN_CNT, ASY_MISMATCH_CNT, ASY_RETRY_CNT, ASY_SKIP_CNT]

/-- The fields of block SEC. -/
def blockSEC : List Fld :=
  [SEC_LIFECYCLE, SEC_SVN_OTP, SEC_SVN_RUN, SEC_BOOT_SLOT, SEC_VKEY_REVOKED, SEC_OPKEY_SLOT, SEC_TRNG_OK, SEC_NONCE_VALID, SEC_STAGING, SEC_BOOT_STATUS, SEC_DEBUG, SEC_SERIAL_LO, SEC_SERIAL_HI, SEC_DEBUG_LEFT, SEC_ENV_BAD_CNT, SEC_NONCE]

/-- The fields of block BKG. -/
def blockBKG : List Fld :=
  [BKG_WEAR_MARGIN, BKG_WEAK_THR, BKG_LOG_SEV, BKG_TJ_WARN, BKG_TJ_MAX, BKG_THROTTLED, BKG_HEWER_USE, BKG_HBM_USE, BKG_SRAM_CORR_CNT, BKG_SRAM_UNCORR_CNT, BKG_HBM_CORR_CNT, BKG_HBM_UNCORR_CNT, BKG_WEAK_ROWS, BKG_LIFE_AVG_TJ, BKG_LIFE_HOT, BKG_LIFE_HOURS, BKG_LOG_DROP_CNT, BKG_LOG_SEQ, BKG_STARVED_CNT, BKG_RAIL_MV, BKG_RAIL_PWR]

/-- The fields of block TST. -/
def blockTST : List Fld :=
  [TST_ARM, TST_EN, TST_DURATION, TST_LEFT, TST_REF_OFFSET, TST_REF_CAND, TST_BP_Q_FIRST, TST_BP_Q_COUNT, TST_DMA_DELAY, TST_JITTER, TST_CHECK_TARGET, TST_CHECK_LANE, TST_CHECK_COUNT, TST_ACTIVE, TST_PERTURB_CNT]

/-- The fields of the block with index `b` of Table 16-3 (R523). -/
def ofBlock (b : Nat) : List Fld :=
  match b with
  | 0 => blockGLB
  | 1 => blockRST
  | 2 => blockSHF
  | 3 => blockTIM
  | 4 => blockFLT
  | 5 => blockPRT
  | 6 => blockRLK
  | 7 => blockFRM
  | 8 => blockMAP
  | 9 => blockOVM
  | 10 => blockPMN
  | 11 => blockCIP
  | 12 => blockPAR
  | 13 => blockENG
  | 14 => blockHIF
  | 15 => blockQMG
  | 16 => blockASY
  | 17 => blockSEC
  | 18 => blockBKG
  | 19 => blockTST
  | _ => []

end Reg

end Sys2Proof.Machine
end

