-- ==== Sys2Proof/Machine/State.lean ====
section
/-! DEFINITION. The state of the EK9640: everything the spec gives the block, as plain data, with the
queue of commands that wait. Register fields live in one store (`RegSt`); the structures here hold what
the spec gives the blocks beside their registers. -/

namespace Sys2Proof.Machine

/-- Why the block stops. No command of the table stops this model: the spec gives each its effect. -/
inductive Fault where
  /-- Raised by nothing in this model; safe. -/
  | none
  deriving DecidableEq, Repr

/-- Why a command has no meaning. -/
inductive Refusal where
  /-- A row of the opcode table without a meaning yet; safe. -/
  | notModelled (mnemonic : String)
  deriving DecidableEq, Repr

/-- A commit between its snapshot and its outcome (R516): the groups, the REG_COMMITs it completes, the staged values of
the groups at the snapshot, the first group that failed with its reason and offset, and whether a configuration set is
part of it. -/
structure CommitRun where
  mask   : Nat
  asks   : List (Nat × HostRef)
  staged : Tab Nat
  fail   : Option (Nat × Nat × Nat)
  set    : Bool
  due    : Nat
  deriving DecidableEq, Repr

/-- The register fields' values: `vals` by field key (R503 to R505, and active values of R514), `staged`
the CMT values that differ from the active ones (R514), `locked` the LCK fields already written (R506),
`shadow` the latched HI values (R512). A field not listed holds its reset value. `fresh` holds staged values replaced in
this clock, as (key, time, value before) (R517). `asks` are the REG_COMMITs of the request being gathered, with their times,
`setAsk` that a configuration set is part of it, `askedAt` the time of the last GLB_COMMIT write with the bits it set anew;
`run` the commit under way, `doneAt` the address and groups of the last outcome; `discards` the REG_DISCARDs that wait. -/
structure RegSt where
  vals   : Tab Nat := []
  staged : Tab Nat := []
  locked : List Nat := []
  shadow : Tab Nat := []
  fresh  : List (Nat × Nat × Nat) := []
  asks   : List (Nat × Nat × HostRef) := []
  setAsk : Bool := false
  askedAt : Nat × Nat := (0, 0)
  run    : Option CommitRun := none
  doneAt : Nat × Nat := (0, 0)
  discards : List (Nat × HostRef) := []
  deriving DecidableEq, Repr

/-- An event as it is raised (Table 14-17), before a slot gives it its alive counter and CRC. -/
structure EvRec where
  code   : Nat
  sev    : Nat
  folded : Bool
  caused : Bool
  src    : Nat
  stamp  : Nat
  detail : List Nat
  deriving DecidableEq, Repr

/-- A completion (Table 14-5): `ring` is the CMD ring its command came from. -/
structure CplRec where
  ring    : Nat
  tag     : Nat
  opcode  : Nat
  outcome : Nat
  reason  : Nat
  stamp   : Nat
  result  : List Nat
  deriving DecidableEq, Repr

/-- An event queue's own state (R466, R467): events held while it cannot be written, and the overflow
record in progress. -/
structure EvqSt where
  held      : List EvRec := []
  lost      : Nat := 0
  lostFirst : Nat := 0
  lostLast  : Nat := 0
  inOver    : Bool := false
  drops     : Nat := 0
  dropFirst : Nat := 0
  dropLast  : Nat := 0
  deriving DecidableEq, Repr

/-- An MSI-X vector (R471): records counted since its last message, and when the first was counted. -/
structure VecSt where
  count   : Nat := 0
  since   : Nat := 0
  waiting : Bool := false
  deriving DecidableEq, Repr

/-- A descriptor delivered to its block and not yet completed (R456, R462): the domains' generations at its delivery
(R580), and whether its completion was discarded as its CPL ring was disabled (R463). -/
structure Delivered where
  ring   : Nat
  tag    : Nat
  opcode : Nat
  noCpl  : Bool
  gens   : List Nat := []
  dead   : Bool := false
  deriving DecidableEq, Repr

/-- A rate-limited event's account (R448, R449, R457, R507 and others). -/
structure RateSt where
  window : Nat := 0
  raised : Nat := 0
  folded : Nat := 0
  first  : List (Nat × Nat) := []
  final  : List (Nat × Nat) := []
  src    : Nat := 0
  deriving DecidableEq, Repr

/-- The host side of the block: host memory as the device has written it, the events and completions
raised, the queues that carry them, and the rate accounts. `cnt` holds the STS and CNT fields of the
CPL, EVQ and vector registers, keyed as registers are. `fetch` holds the CMD rings being fetched with the descriptors
taken from each, `stale` each ring's unready slot with the reads it has been met, `enCycle` the first cycle of doorbell
reading, `resumeAt` the address from which host memory is used again, `unbound` the data queue last unbound with the
address; `laps` how often each ring's index has gone round 2³² since its ring was enabled (R452); `linkWas` that the link has been up. -/
structure IoSt where
  mem       : List Host.Cell := []
  cnt       : Tab Nat := []
  evq       : Tab EvqSt := []
  heldCpl   : List CplRec := []
  vecs      : Tab VecSt := []
  msix      : Tab Nat := []
  sev       : Tab Nat := []
  evlog     : List EvRec := []
  cpllog    : List CplRec := []
  logWait   : List EvRec := []
  delivered : List Delivered := []
  rates     : Tab RateSt := []
  busMaster : Bool := false
  d3hot     : Bool := false
  fetch     : List (Nat × Nat) := []
  stale     : Tab (Nat × Nat) := []
  enCycle   : Nat := 0
  resumeAt  : Nat := 0
  laps      : Tab Nat := []
  linkWas   : Bool := false
  unbound   : Option (Nat × Nat) := none
  deriving DecidableEq, Repr

/-! ### The shaft -/

/-- The shaft block beside its registers (R37 to R49): the two banks with their spent marks, entries
carried late (and, as (index, entry, address), those that test jitter delays), the armed swap, the doorbell position in force
with the cycle in which one above 19,439 was last written, the gate stores, and the pins' idling. `fired` are the entries
dispatched at `firedAt`, `half` that the position still has its own to dispatch, after a swap. -/
structure ShfSt where
  bank0     : Tab SchedEntry := []
  bank1     : Tab SchedEntry := []
  spent0    : List Nat := []
  spent1    : List Nat := []
  carried   : List SchedEntry := []
  carriedAt : Nat := 0
  lateCycle : Nat := 0
  lateSeen  : Bool := false
  armDue    : Option Nat := none
  dbOld     : Nat := 0
  dbAt      : Option Nat := none
  dbBadIn   : Option Nat := none
  lastRead  : Option Nat := none
  startable : Bool := true
  oneShots  : List SchedEntry := []
  gates     : Tab Nat := []
  txIdle    : Bool := true
  fired     : List SchedEntry := []
  firedAt   : Option Nat := none
  half      : Bool := false
  jittered  : List (Nat × SchedEntry × Nat) := []
  deriving DecidableEq, Repr

/-! ### Timing -/

/-- The CTL fields of a candidate in force (R101): a write acts at the next cycle boundary. -/
structure CandCfg where
  rank     : Nat := 0
  bw       : Nat := 3
  qlSrc    : Nat := 0
  qlFixed  : Nat := 0xF
  pbo      : Bool := true
  sa       : Nat := 0
  accept   : Nat := 90
  reject   : Nat := 120
  qualTime : Nat := 20
  deriving DecidableEq, Repr

/-- A reference candidate beside its registers (R56 to R75). `cfg` and the source are the fields in force; `freqs` holds the
changes of TIM_CAND_FREQ as (shaft address, ppb), newest first; the phase detector stood at `phaseBase` at address `phaseFrom`,
and while `held` it stands there still (R57, R62). -/
structure CandSt where
  cfg      : CandCfg := {}
  freqs    : List (Nat × Int) := []
  phaseFrom : Nat := 0
  phaseBase : Int := 0
  held     : Bool := false
  enabled  : Bool := false
  kind     : Nat := 0
  lane     : Nat := 0
  chan     : Nat := 0
  measured : Bool := false
  everQual : Bool := false
  keepQual : Bool := false
  since    : Option Nat := none
  wtrFrom  : Option Nat := none
  wtrWaits : Bool := false
  qlRx     : Option Nat := none
  defectAt : Option Nat := none
  deriving DecidableEq, Repr

/-- The temperature model's fit (R86, R87): the estimates, their covariance (empty before the first sample), the samples taken,
the range of T learned in 1/16 °C, the last residuals as (shaft address, ppt) newest first, and the forgetting sums of
their squares and weights. -/
structure FitSt where
  theta   : List Rat := [0, 0, 0, 0, 0, 0]
  cov     : List (List Rat) := []
  samples : Nat := 0
  learnt  : Option (Int × Int) := none
  resid   : List (Nat × Rat) := []
  square  : Rat := 0
  weight  : Rat := 0
  deriving DecidableEq, Repr

/-- The timing block beside its registers and the DCO offset. `hist` holds the changes of the DCO
offset as (shaft address, eighths of a ppt), newest first; `temps` the changes of the mean temperature as
(shaft address, °C). `locks` holds the intervals spent LOCKED that have ended, newest first. The loop has its integrator
`integ` in eighths of a ppt, the phase `absorbed` at the start of a switch, `inWindow` the address since which the phase error
has been in the lock window, and `fast` while it runs at ten times its bandwidth (R76, R77, R82). `fitLog` holds the fit as it
stood before each of the last samples. Time of day is kept in 1/486 ns: it is `tod` at address `todAt`; `pulseAt` is PPSOUT's
last rise, in positions and 1/3,125 of one. -/
structure TimSt where
  cands      : Tab CandSt := []
  forced     : Option Nat := none
  holdOn     : Bool := false
  steer      : Int := 0
  steerRaw   : Int := 0
  steerAt    : Option Nat := none
  steerLast  : Option Nat := none
  steerQual  : Bool := false
  everLocked : Bool := false
  lockedAt   : Nat := 0
  locks      : List (Nat × Nat) := []
  switchAt   : Nat := 0
  integ      : Rat := 0
  absorbed   : Int := 0
  inWindow   : Option Nat := none
  fast       : Bool := false
  noEdge     : List Nat := []
  hist       : List (Nat × Int) := []
  temps      : List (Nat × Rat) := []
  fHist      : Rat := 0
  entryAt    : Nat := 0
  entryT     : Rat := 0
  guardAt    : Nat := 0
  disqAt     : Nat := 0
  entrySlope : Rat := 0
  fit        : FitSt := {}
  fitLog     : List (Nat × FitSt) := []
  beyond     : Bool := false
  beyond450  : Bool := false
  tod        : Nat := 0
  todAt      : Nat := 0
  todWas     : Option Nat := none
  todSet     : Bool := false
  todQueue   : List (Nat × Nat × Nat) := []
  ppsEdge    : Option Nat := none
  ppsAt      : Nat := 0
  ppsErr     : Int := 0
  stepNext   : Option Int := none
  stepArmed  : Bool := false
  pulses     : Nat := 0
  pulseAt    : Option (Nat × Nat) := none
  esmc       : Tab Nat := []
  deriving DecidableEq, Repr

/-! ### Filters -/

/-- A coefficient bank's contents: a preset's stock taps (R115), or 64 taps as loaded (R119). -/
inductive FltBank where
  | stock (preset kind : Nat)
  | taps  (l : List Int)
  deriving DecidableEq, Repr

/-- One chain (R108 to R112, R127): its order, decimation and k, its integrators and combs, its FIR
delay line and DC estimate, and the samples and words since its last synchronising reset. -/
structure FltInst where
  n       : Nat
  r       : Nat
  k       : Nat
  integ   : List Nat := []
  comb    : List Nat := []
  fir     : List Rat := []
  est     : Rat := 0
  samples : Nat := 0
  words   : Nat := 0
  clamp   : Option Int := none
  resetAt : Nat := 0
  bank    : FltBank
  deriving DecidableEq, Repr

/-- A filter channel beside its registers (R104 to R134). `swapTo` holds the swaps waiting for an output
sample boundary, `defer` the one that a cross-fade defers; `cfg` a FLT_CONFIG and its cycle boundary; `stuckAt` the level of a
stuck input and `stuckFrom` the address at which it was found; `vOld` and `vNew` the outgoing and the incoming chain's latest
value. -/
structure FltChan where
  cur      : Option FltInst := none
  inc      : Option FltInst := none
  fadeK    : Nat := 0
  bankA    : Option FltBank := none
  bankB    : Option FltBank := none
  gotA     : List Nat := []
  gotB     : List Nat := []
  swapTo   : List (Nat × HostRef) := []
  defer    : Option (Nat × HostRef) := none
  cfg      : Option (FltCfg × HostRef × Nat) := none
  stuckAt  : Nat := 0
  stuckFrom : Nat := 0
  vOld     : Int := 0
  vNew     : Int := 0
  vLast    : Int := 0
  deriving DecidableEq, Repr

/-- The filter block: its channels, and the synchronising resets scheduled, as (address, mask). -/
structure FltSt where
  chans  : Tab FltChan := []
  resets : List (Nat × Nat) := []
  deriving DecidableEq, Repr

/-! ### Ports -/

/-- A tributary link's alignment and slot judgement beside its registers (Table 05-7, R154 to R156): the received bit at which
the next framing word is expected, or the first one that a search looks at, with where the present candidate was found; the
times since which it is out of SYNC and in SYNC, each slot's run of equal LOS bits, the slots whose own
LOS is declared, and what its next frame reports. -/
structure TrbSt where
  next     : Nat := 0
  base     : Nat := 0
  conf     : Nat := 0
  bad      : Nat := 0
  outSince : Option Nat := some 0
  inSince  : Option Nat := none
  runs     : Tab Nat := []
  slotLos  : List Nat := []
  sendBad  : Bool := false
  deriving DecidableEq, Repr

/-- A lane test in force (R164). -/
structure LaneTest where
  ptn   : Nat
  flags : Nat
  deriving DecidableEq, Repr

/-- The ports beside their registers: links, lane tests, taps applied where they are reduced (R160), the tributary links that are
gated, the bits that each circuit's slot last delivered (R147, R150), each lane's adapted CTLE and DFE values (R161), and when its
eye was last measured (R162). -/
structure PrtSt where
  trb     : Tab TrbSt := []
  trbGated : List Nat := []
  tests   : Tab LaneTest := []
  applied : Tab (Nat × Nat × Nat) := []
  given   : Tab (List Bool) := []
  adapt   : Tab (Nat × Nat) := []
  eyeAt   : Tab Nat := []
  deriving DecidableEq, Repr

/-! ### Ralale -/

/-- A Ralale lane beside its registers (Table 06-7 and the runs of R176 to R178, R205): the block at which its receiver expects
the next marker, or the first one that a search looks at, with where the present candidate was found; the
times since which it is out of SYNC, in SYNC and free of DGASP, the last MFI, the losses of each CID in the second
`lossSec`, the worst of the second before it, and what it echoes. Its transmitter has run since `onAt`, and has sent `txData` data
tubs of packets and of contexts that are gone. -/
structure RlkLane where
  next      : Nat := 0
  base      : Nat := 0
  onAt      : Nat := 0
  txData    : Nat := 0
  conf      : Nat := 0
  bad       : Nat := 0
  outSince  : Option Nat := some 0
  inSince   : Option Nat := none
  mfi       : Option Nat := none
  qlVal     : Nat := 0
  qlRun     : Nat := 0
  rdiVal    : Bool := false
  rdiRun    : Nat := 0
  limRun    : Nat := 0
  okRun     : Nat := 0
  gaspRun   : Nat := 0
  gaspOff   : Option Nat := none
  lossSec   : Nat := 0
  losses    : Tab Nat := []
  worstCid  : Nat := 0xFFFF
  worstCnt  : Nat := 0
  echoStamp : Nat := 0
  echoTime  : Nat := 0
  reported  : Bool := false
  deriving DecidableEq, Repr

/-- A held tub (R194): its sequence, its flags, its arrival time, the lanes that gave a good copy, and its
payload. -/
structure HeldTub where
  seq   : Nat
  csf   : Bool
  sop   : Bool
  eop   : Bool
  abort : Bool
  since : Nat
  lanes : List Nat
  data  : List Nat
  deriving DecidableEq, Repr

/-- The record of a delivered sequence (R197): when it was delivered and the lanes that gave a copy. -/
structure CopyRec where
  seq   : Nat
  since : Nat
  lanes : List Nat
  deriving DecidableEq, Repr

/-- A context on Ralale links (R192, R193): the address from which it is sent with the packet tubs sent since, and its receive
group's sequence state, held tubs and open records. Its gate store has taken `gateBits` bits since `gateAt`. -/
structure RlkCtx where
  origin  : Nat := 0
  flowSeq : Nat := 0
  gateAt  : Option Nat := none
  gateBits : Nat := 0
  sync    : Bool := false
  n       : Nat := 0
  held    : List HeldTub := []
  records : List CopyRec := []
  oow     : Nat := 0
  skip    : Bool := false
  out     : Nat := 0
  fill    : Nat := 0
  deriving DecidableEq, Repr

/-- The Ralale block beside its registers; transmitters last left electrical idle at `txFrom`. A context's reverse direction is
kept under its number plus 65,536. -/
structure RlkSt where
  txFrom   : Nat := 0
  lanes    : Tab RlkLane := []
  ctxs     : Tab RlkCtx := []
  sendGasp : Bool := false
  deriving DecidableEq, Repr

/-! ### Framing -/

/-- The configuration of a framed unit (Tables 07-15 and 07-16). `acts` holds AIS_ON_TIM, AIS_ON_PLM,
AIS_ON_UNEQ and CRC4_AUTO in its four low bits. -/
structure FrmCfg where
  sf    : Nat := 0
  sd    : Nat := 0
  trace : Nat := 0
  acts  : Nat := 15
  label : Nat := 0
  sa    : Nat := 0
  expect : Tab (List Nat) := []
  send   : Tab (List Nat) := []
  deriving DecidableEq, Repr

/-- A framer (Tables 07-2 to 07-6, 07-9, 07-10): alignment, multiframe, defect judgement, counts and
accepted values. `raw` holds the defect codes whose own criterion is met, `declared` those declared
after masking (R233), `masked` that a masking defect stands. `alt` is the format its search found (DS1 SF, DS3 M23), `seq` the
multiframe byte last met, `ptr` the pointer in force, `saTry` and `saRun` an E1's SSM runs by Sa bit, `lastBip` the violations of
the last frame, `txGap` the frames since the gate last adjusted its pointer, `txPtr` the pointer it sends, `otl` a port's logical-lane condition with the time
since which it stands (R219), `snapB` the snapshot buffer before `snap` (R214). -/
structure FrmUnit where
  alt      : Bool := false
  masked   : Bool := false
  seq      : Option Nat := none
  ptr      : Option Nat := none
  ptrTry   : Nat := 0
  ptrRun   : Nat := 0
  saTry    : List Nat := []
  saRun    : List Nat := []
  lastBip  : Nat := 0
  txGap    : Nat := 4
  txPtr    : Nat := 0
  otl      : Option (Bool × Nat) := none
  snapB    : List Nat := []
  align    : Nat := 0
  conf     : Nat := 0
  bad      : Nat := 0
  oofSince : Option Nat := none
  okSince  : Option Nat := none
  phase    : Nat := 0
  hits     : List Bool := []
  mf       : Bool := false
  mfRun    : Nat := 0
  mfSince  : Nat := 0
  crcAll   : Nat := 0
  crcBad   : Nat := 0
  runs     : Tab Nat := []
  offRuns  : Tab Nat := []
  raw      : List Nat := []
  declared : List Nat := []
  failed   : List Nat := []
  setFrom  : Tab Nat := []
  clrFrom  : Tab Nat := []
  near     : Nat := 0
  far      : Nat := 0
  incs     : Nat := 0
  decs     : Nat := 0
  trace    : Option (List Nat) := none
  traceRun : Nat := 0
  traceTry : List Nat := []
  newTrace : Bool := false
  label    : Option Nat := none
  labelTry : Nat := 0
  labelRun : Nat := 0
  aps      : Option (List Nat) := none
  apsTry   : List Nat := []
  apsRun   : Nat := 0
  ssm      : Nat := 0
  ssmTry   : Nat := 0
  ssmRun   : Nat := 0
  ssmLast  : List Nat := []
  stat     : Nat := 0
  statTry  : Nat := 0
  statRun  : Nat := 0
  window   : List (Nat × Nat) := []
  winB1    : List (Nat × Nat) := []
  winFrom  : Nat := 0
  sdAt     : Nat := 0
  sfAt     : Nat := 0
  crc4     : Bool := false
  snap     : List Nat := []
  image    : List Nat := []
  cfg      : FrmCfg := {}
  cfgNext  : Option FrmCfg := none
  forced   : List Nat := []
  forcedNext : Option (List Nat) := none
  errIns   : Option (Nat × Nat × Nat) := none
  gaspRun  : Nat := 0
  copyGot  : Option (Nat × Nat) := none
  sealFail : Bool := false
  fecBlk   : Nat := 0
  deriving DecidableEq, Repr

/-- A protection group (R239 to R242). Requests are coded as Table 07-15 codes external commands, with
5 for a WTR, 6 for signal degrade and 7 for signal fail. `leg` is 0 for working. `pair` says that the legs are the copies of one
context in unit A and in unit B (R419). -/
structure ApsGroup where
  scheme   : Nat
  work     : Nat
  prot     : Nat
  pair     : Bool := false
  mode     : Nat := 0
  hold     : Nat := 0
  wtr      : Nat := 300
  next     : Option (Nat × Nat × Nat) := none
  command  : Nat := 0
  cmdLeg   : Nat := 0
  leg      : Nat := 0
  wanted   : Nat := 0
  request  : Nat := 0
  holdFrom : Option Nat := none
  holdDone : Bool := false
  wtrFrom  : Option Nat := none
  tx       : List Nat := []
  rx       : List Nat := []
  deriving DecidableEq, Repr

/-- The framing block beside its registers: framers by source ID (lane or context), and groups. -/
structure FrmSt where
  units  : Tab FrmUnit := []
  groups : Tab ApsGroup := []
  deriving DecidableEq, Repr

/-! ### Mapping -/

/-- One leg of a hitless group (R287 to R290): blocks played from it, copies not good, late copies, the runs of
late copies, of blocks out of window and of good blocks in sequence, the MSEQ last given, whether
MAP_DD_EXCEEDED was raised since a copy in time, and whether it is synchronised. -/
structure LegSt where
  ctx     : Nat := 0
  played  : Nat := 0
  bad     : Nat := 0
  late    : Nat := 0
  lateRun : Nat := 0
  said    : Bool := false
  outRun  : Nat := 0
  seqRun  : Nat := 0
  mseq    : Nat := 0
  sync    : Bool := false
  unitB   : Bool := false
  deriving DecidableEq, Repr

/-- A copy of a block in a leg's ring (R285): what R287 judges it by, and when it completed. -/
structure BlockCopy where
  mseq  : Nat
  leg   : Nat
  good  : Bool
  tsf   : Bool
  viol  : Nat
  since : Nat
  unitB : Bool
  deriving DecidableEq, Repr

/-- A hitless group (R285 to R290), under the CTX of its group. `delay` is the measured differential delay,
µs; `credits` counts good copies and copies not good, late or absent, of unit A and unit B (R399). -/
structure HitlessSt where
  legA    : LegSt := {}
  legB    : LegSt := {}
  next    : Nat := 0
  synced  : Bool := false
  copies  : List BlockCopy := []
  lost    : Nat := 0
  delay   : Nat := 0
  credits : List Nat := [0, 0, 0, 0]
  deriving DecidableEq, Repr

/-- A GFP-F receiver (R265): 0 HUNT, 1 PRESYNC, 2 SYNC; `cmf` is the client failure last reported, `lost` the
frames lost to cHEC or tHEC. -/
structure GfpSt where
  align : Nat := 0
  cmf   : Nat := 0
  lost  : Nat := 0
  deriving DecidableEq, Repr

/-- The mapping block beside its registers: two pages of each fabric, hitless groups, GFP receivers,
each context's client frames discarded, its justifications sent and received (R250), the contexts whose
handover is due (R277), the offset in ppb of each lane's rate-following divider (R259), and the deficit round robin of each
GFP-F container: the queue in turn and the deficits by queue, in bytes (R266); `seqTx` the next MSEQ and the last stream of each
context that sends in mode SEQ (R280). -/
structure MapSt where
  follow   : Tab Int := []
  drr      : Tab (Nat × Tab Nat) := []
  seqTx    : Tab (Nat × List Nat) := []
  tsi0     : Tab Nat := []
  tsi1     : Tab Nat := []
  grains0  : Tab Nat := []
  grains1  : Tab Nat := []
  hitless  : Tab HitlessSt := []
  gfp      : Tab GfpSt := []
  discards : Tab Nat := []
  just     : Tab (Nat × Nat × Nat × Nat) := []
  handing  : List Nat := []
  deriving DecidableEq, Repr

/-! ### Placement -/

/-- A placed or pending context (Tables 08-1 and 08-2). `parent` is the container it is carried in (for a
client received on a lane, the one it leaves), `dest` the container it enters, `pos` its position there
(Table 08-9), `nts` its tributary slots, `stage` that a container stage processes it, `cyclic` that its two
entries fire every cycle (R213), `extCyc` and `insCyc` their cycles otherwise, `block` the frames of its
carriage block, `key` its key slot. `endpointB` is the second link of a Ralale receive group, `out` where a
client carried as it is leaves; `fail` that it carries failure fill, `redo` that it does so
until the next swap builds its pages and record anew. -/
structure Ctx where
  intent    : Nat
  kind      : Nat
  parent    : Option Nat := none
  endpoint  : Endpoint := {}
  endpointB : Endpoint := {}
  out       : Endpoint := {}
  dest      : Option Nat := none
  pos       : Nat := 0
  place     : Place := {}
  gen       : Nat := 0
  sealed    : Bool := false
  priv      : Bool := false
  scSeq     : Bool := false
  block     : Nat := 16
  key       : Nat := 0
  protect   : Bool := false
  hitless   : Bool := false
  group     : Nat := 0x7FF
  nts       : Nat := 0
  rate      : Nat := 0
  stage     : Bool := false
  cyclic    : Bool := false
  active    : Bool := false
  migrating : Option Nat := none
  pins      : Nat := 0
  cross     : Bool := false
  fail      : Bool := false
  redo      : Bool := false
  deriving DecidableEq, Repr

/-- An intent as the Overman keeps it (Tables 09-1 and 09-4): state 0 PENDING, 1 PLACED, 2 SHED,
3 STRANDED, 4 WITHDRAWN. `ctxs` lists its contexts in the order of R299, `shared` is SHARED_FATE, `wake`
the gated units it waits for, `swapAt` the address of the swap that last changed it, `notBefore` the
earliest address of a swap that may place it (R305), `seq`
the order in which they were placed, `charge` the projected charge in 10 mW. -/
structure IntentSt where
  params : Intent
  state  : Nat
  host   : HostRef
  ctxs   : List Nat := []
  group  : Nat := 0x7FF
  shared : Bool := false
  wake   : List Nat := []
  swapAt : Nat := 0
  notBefore : Nat := 0
  charge : Nat := 0
  seq    : Nat := 0
  deriving DecidableEq, Repr

/-- A swap being prepared or armed (R45): intents it places, moves it makes, and the standby bank and pages built.
`armed` is false while the mate's PLACE_ACK is awaited (Table 12-10a). -/
structure ArmSt where
  adds   : List Nat := []
  moves  : List Move := []
  bank   : Tab SchedEntry := []
  tsi    : Tab Nat := []
  grains : Tab Nat := []
  armed  : Bool := false
  deriving DecidableEq, Repr

/-- The Overman (R297 to R320). `order` lists intents as accepted; `freed` context IDs with the address of
the swap that freed them; `withdraws` the withdrawals due at the next swap; `moves` the moves in progress;
`moveWaits` those that wait for a unit to wake (R28); `held` the commands held for a MIGRATING context; `unusable` and
`gated` stages and pipelines (pipeline p as p, container stage n as 256 + n, line stage n as 264 + n); `lastMove` when each reason last moved work; `shedding` the intents that the governor shed, whose contexts go at the
next swap, `placings` how many intents were placed. -/
structure OvmSt where
  intents   : Tab IntentSt := []
  order     : List Nat := []
  ctxs      : Tab Ctx := []
  freed     : List (Nat × Nat) := []
  withdraws : List (Nat × HostRef) := []
  moves     : List Move := []
  moveWaits : List Move := []
  held      : List (Nat × CtxCmd) := []
  arm       : Option ArmSt := none
  unusable  : List Nat := []
  gated     : List Nat := List.range 24
  waking    : List Nat := []
  defragAt  : Option Nat := none
  lastMove  : Tab Nat := []
  idleFrom  : Option Nat := none
  placings  : Nat := 0
  shedding  : List Nat := []
  deriving DecidableEq, Repr

/-! ### Queues -/

/-- A wide word in a queue (R478): its bytes so far, and its SOP and EOP tags. VBC is their count. -/
structure QWord where
  data : List Nat
  sop  : Bool := false
  eop  : Bool := false
  deriving DecidableEq, Repr

/-- A hardware queue (Table 15-7, R478 to R496). `slots` holds the words by slot, `pkt` the pointer of
the first word of a packet whose length slot is not filled yet, `openAt` the cycle in which the open
word of a record queue was opened, `skip` a packet being dropped, `left` the words still due of a packet
the host writes, `window` the drop window's start with its drops. `inPkt` is the reader's place. -/
structure QSt where
  packet    : Bool := false
  recSize   : Nat := 16
  hold      : Bool := false
  hbm       : Bool := false
  host      : Bool := false
  k         : Nat := 6
  writer    : Nat := 0
  reader    : Nat := 0
  flush     : Nat := 8
  base      : Nat := 0
  high      : Nat := 48
  low       : Nat := 32
  wp        : Nat := 0
  rp        : Nat := 0
  mark      : Option Nat := none
  markLost  : Bool := false
  slots     : Tab QWord := []
  pkt       : Option Nat := none
  pktLen    : Nat := 0
  skip      : Bool := false
  left      : Nat := 0
  openAt    : Option Nat := none
  firstIdx  : Nat := 0
  isHigh    : Bool := false
  isFull    : Bool := false
  fullSaid  : Bool := false
  drops     : Nat := 0
  resets    : Nat := 0
  window    : Option (Nat × Nat) := none
  resetting : Bool := false
  deriving DecidableEq, Repr

/-- A data queue (R468 to R470): the hardware queue it exposes, its ring, its indices, and what the next
write-back record reports. `crc` is the CRC register over the words since the last record. -/
structure DqSt where
  q        : Nat
  toHost   : Bool
  size     : Nat
  base     : Nat
  evq      : Nat
  thr      : Nat
  dev      : Nat := 0
  host     : Nat := 0
  words    : Nat := 0
  crc      : Nat := 0xFFFFFFFF
  reset    : Bool := false
  records  : Nat := 0
  ready    : Bool := false
  deriving DecidableEq, Repr

/-- The queue manager and the data queues. -/
structure QmgSt where
  qs        : Tab QSt := []
  dqs       : Tab DqSt := []
  deriving DecidableEq, Repr

/-! ### Energy -/

/-- A feed pair beside its registers (R423, R426, R433): the last voltage and current words that have not
been paired, as (stamp in 2⁻¹⁶ position, value), the run of low words and the stamp of its first, and
since when it has been above its minimum. `pSum` and `pCount` make up the pair's mean over a multiframe. -/
structure FeedSt where
  v       : Option (Int × Int) := none
  i       : Option (Int × Int) := none
  lowRun  : Nat := 0
  lowFrom : Int := 0
  okSince : Option Nat := none
  pSum    : Rat := 0
  pCount  : Nat := 0
  deriving DecidableEq, Repr

/-! ### Performance monitoring -/

/-- A second's accumulators (Table 10-3): errored blocks, defect cycles, the time-of-day second at which
it began, its length in cycles; `b15` and `b24` number the bins that were current as it began. -/
structure PmAcc where
  neEb  : Nat := 0
  feEb  : Nat := 0
  neDc  : Nat := 0
  feDc  : Nat := 0
  tod   : Nat := 0
  len   : Nat := 0
  start : Nat := 0
  b15   : Nat := 0
  b24   : Nat := 0
  deriving DecidableEq, Repr

/-- A classified second that is not committed yet (R327, R329). -/
structure PmSec where
  neEs  : Bool
  neSes : Bool
  neDs  : Bool
  feEs  : Bool
  feSes : Bool
  feDs  : Bool
  neBbe : Nat
  feBbe : Nat
  start : Nat
  b15   : Nat
  b24   : Nat
  deriving DecidableEq, Repr

/-- A bin (Table 10-6): `counts` by the parameter codes of Table 10-5, `classified` the seconds that fell
into its span, `said` the parameters whose alert was raised in it. -/
structure PmBin where
  serial     : Nat := 0
  start      : Nat := 0
  ended      : Nat := 0
  seconds    : Nat := 0
  classified : Nat := 0
  counts     : List Nat := [0, 0, 0, 0, 0, 0, 0, 0, 0, 0]
  suspect    : Nat := 0
  todMoved   : Bool := false
  said       : List Nat := []
  deriving DecidableEq, Repr

/-- A point's settings (PMN_POINT_CFG). -/
structure PmCfg where
  on    : Bool := false
  bidir : Bool := true
  exp   : Bool := false
  prof  : Nat := 0
  deriving DecidableEq, Repr

/-- A monitored point (R321 to R343). `neFrom` and `feFrom` say since which address a defect is present,
`neUpto` and `feUpto` the cycle up to which defect cycles are counted. -/
structure PmPoint where
  cfg     : PmCfg := {}
  next    : Option PmCfg := none
  acc     : PmAcc := {}
  last    : PmAcc := {}
  unread  : Bool := false
  cls     : Nat := 0
  neFrom  : Option Nat := none
  feFrom  : Option Nat := none
  neUpto  : Nat := 0
  feUpto  : Nat := 0
  neUnav  : Bool := false
  feUnav  : Bool := false
  neHist  : Nat := 0
  feHist  : Nat := 0
  pend    : List PmSec := []
  cur15   : PmBin := {}
  cur24   : PmBin := {}
  old15   : Option PmBin := none
  old24   : Option PmBin := none
  hist15  : List PmBin := []
  hist24  : List PmBin := []
  ever    : Bool := false
  deriving DecidableEq, Repr

/-- A threshold profile's thresholds for one bin type (R336). -/
structure PmProfile where
  thr : List Nat := [0, 0, 0, 0, 0, 0, 0, 0, 0, 0]
  deriving DecidableEq, Repr

/-- Performance monitoring beside its registers. `nextTod` is the whole second of the time of day that
the next PM second waits for; `thr` the profiles by 2 × profile + bin type, `pct` each profile's P as
(NE, FE); `done15` and `done24` the finalisation in progress, as (stamp, points, suspect points), `drops` the records
that each bin type's could not export (R340); `badHist` the history records that HBM lost, as (point, type, bin serial). -/
structure PmSt where
  points  : Tab PmPoint := []
  thr     : Tab PmProfile := []
  pct     : Tab (Nat × Nat) := []
  running : Bool := false
  frozen  : Bool := false
  nextTod : Nat := 0
  began   : Option Nat := none
  done15  : Option (Nat × Nat × Nat) := none
  done24  : Option (Nat × Nat × Nat) := none
  drops   : Nat × Nat := (0, 0)
  badHist : List (Nat × Nat × Nat) := []
  deriving DecidableEq, Repr

/-! ### Assay units -/

/-- A transfer being stripped (R539, R540): its TYPE, the units received, the last alive counter, their data, and the reason with
which it was refused with the index of the failing unit. -/
structure XferSt where
  typ     : Nat := 0
  units   : Nat := 0
  alive   : Nat := 0
  data    : List Nat := []
  refused : Option (Nat × Nat) := none
  deriving DecidableEq, Repr

/-- A unit's pass (R534, R537): when it began, the first granule index it has not done with, and the attempts abandoned at its
granule. -/
structure PassSt where
  since    : Nat := 0
  next     : Nat := 0
  attempts : Nat := 0
  deriving DecidableEq, Repr

/-- The assay units beside their registers: passes, transfers by unit, and ASY_CHECKs with the units they still wait for. -/
structure AsySt where
  passes : Tab PassSt := []
  xfers  : Tab XferSt := []
  checks : List (List Nat × HostRef) := []
  deriving DecidableEq, Repr

/-! ### Background work -/

/-- A sector of the NOR log (R610): its erase count, its sequence number (0 while erased), its records. -/
structure LogSector where
  erases : Nat := 0
  seq    : Nat := 0
  recs   : List (List Nat) := []
  deriving DecidableEq, Repr

/-- Background work beside its registers. `scrub` and `patrol` are the next addresses of the scrubber's pass and the patrol's, none
before their start (R603), `fixed` the last word whose error was corrected, with the time (R599). `ages` holds each ageing monitor's
(index, hour of measurement) and `base` its frequency at manufacture in Hz (R606), `measured` when they were last measured, `aged` the monitors above the margin (R607); `altered` counts the checks that a test altered, `armed` that the TST
block is armed, `tstFrom` the boundary at which its enables act; `waits` each task's epochs of waiting (R596); `rows` the corrections of SRAM rows as (row, time), `weak` the
rows marked (R600); `tjSaid` that TEMP_HIGH stands, `hotFrom` since when Tj is at or above 110 °C; `tjSum`, `tjTime` and
`tjHot` make up the hour's mean in 1/16 °C × positions and the time at 105 °C or above, `tjAt` their last update,
`lifeSum` and `lifeHot` the totals; `lifeSaid` that LIFE_BUDGET stands; `sectors` the NOR log with its current sector, and
`logSec` and `logCount` the records written in a second. -/
structure BkgSt where
  scrub    : Option Nat := none
  patrol   : Option Nat := none
  fixed    : Option (Nat × Nat) := none
  ages     : Tab (Nat × Nat) := []
  base     : Tab Nat := []
  measured : Option Nat := none
  aged     : List Nat := []
  altered  : Nat := 0
  armed    : Bool := false
  tstFrom  : Option Nat := none
  waits    : Tab Nat := []
  rows     : List (Nat × Nat) := []
  weak     : List Nat := []
  tjSaid   : Bool := false
  hotFrom  : Option Nat := none
  tjSum    : Int := 0
  tjTime   : Nat := 0
  tjHot    : Nat := 0
  tjAt     : Nat := 0
  lifeSum  : Int := 0
  lifeHot  : Nat := 0
  lifeTime : Nat := 0
  lifeSaid : Bool := false
  sectors  : Tab LogSector := []
  sector   : Option Nat := none
  logSec   : Nat := 0
  logCount : Nat := 0
  deriving DecidableEq, Repr

/-- The security block beside its registers (R546 to R566). `meas` holds the measurements M0 to M7 as 512-bit
numbers, `measRead` as they stood at the last doorbell read (R556), `nonceAt` the time at which the nonce was issued; `imgs` the bytes of the image slots of NOR, `run` those of the running image (R551); `opkeys`
the operator keys in OTP; `staging` the command whose image is being staged, `svnWaits` the SEC_SVN_COMMITs that wait for
it; `opening` the SEC_DEBUG_UNLOCK (scope, minutes, slot) that waits for keys to be erased, `debugSlot` the slot that opened
the port, `closeAt` when it closes; `failing` the TRNG tests that fail; `idGone` that the identity private key is
zeroised. -/
structure SecSt where
  meas     : Tab Nat := []
  measRead : Option (Tab Nat) := none
  nonceAt  : Nat := 0
  imgs     : Tab (List Nat) := []
  run      : Option (List Nat) := none
  opkeys   : Tab (List Nat) := []
  staging  : Option HostRef := none
  svnWaits : List HostRef := []
  opening  : Option (Nat × Nat × Nat × HostRef) := none
  debugSlot : Nat := 0
  closeAt  : Nat := 0
  failing  : List Nat := []
  idGone   : Bool := false
  deriving DecidableEq, Repr

/-- A configuration set as read (Table 19-6): its header's checks and fields, its length in bytes, its records as (bytes 0 to 3,
value), and its bytes. -/
structure ConfigSet where
  magic  : Bool
  format : Nat
  hdrOk  : Bool
  glbId  : Nat
  serial : Nat
  n      : Nat
  mask   : Nat
  crc    : Nat
  length : Nat
  recs   : List (Nat × Nat)
  raw    : List Nat
  deriving DecidableEq, Repr

/-- A configuration set being loaded (R586 to R592): its source (1 and 2 the NOR copies, 3 the host), the CFG_LOAD that
asked for it, and the set once it has passed its checks. -/
structure CfgLoad where
  source : Nat
  host   : Option HostRef
  store  : Bool
  set    : Option ConfigSet := none
  deriving DecidableEq, Repr

/-- Start-up, reset and configuration (R567 to R593). `configured` says a configuration set is in force, the first one since `since`, with `serial`,
`cfgCrc` its CRC-32C and `source`; `loading` the load in progress, `storing` a set in force that is to be written to NOR;
`nor` the bytes of the two configuration copies, `norBad` those rejected; `faultsHeld` the causes of Table 12-9 whose condition still
stands; `bootSrc` the strap, `bootMode` that the device waits for an image; `starting` that start-up has not released the
line stages; `tested` the last self-test; `resets` when each domain (hewers as 0x8000 and above) entered reset; `booted` that
SEC_BOOTED was raised; `held` that a CHIP reset has not been released yet; `fatal` that self-test was fatal, so
that no line transmitter sends. -/
structure SysSt where
  configured : Bool := false
  since      : Nat := 0
  serial     : Nat := 0
  cfgCrc     : Nat := 0
  source     : Nat := 0
  loading    : Option CfgLoad := none
  storing    : Option ConfigSet := none
  storeHost  : Option HostRef := none
  nor        : Tab (List Nat) := []
  norBad     : List Nat := []
  faultsHeld : List Nat := []
  bootSrc    : Bool := false
  bootMode   : Bool := false
  starting   : Bool := false
  booted     : Bool := false
  held       : Bool := true
  fatal      : Bool := false
  tested     : Option SelfTest := none
  resets     : Tab Nat := []
  deriving DecidableEq, Repr

/-! ### Cipher -/

/-- A loaded half of a key slot (R351): its key, FROM_EPOCH and peer pair identity; `used` says that a direction
has used it. -/
structure KeyHalf where
  fromEpoch : Nat
  peer      : Nat
  key       : Nat
  used      : Bool := false
  deriving DecidableEq, Repr

/-- A slot of the key store (R351, R357). `erasing` is an erase that has not drained, `root` that it came from
an erase of root slot 3, `stopped` the directions it stops. -/
structure KeySlot where
  h0      : Option KeyHalf := none
  h1      : Option KeyHalf := none
  erasing : Bool := false
  stopped : Nat := 0
  deriving DecidableEq, Repr

/-- A derived key and salt in a cache half (R358). -/
structure DerivedKey where
  epoch : Nat
  key   : Nat
  salt  : Nat
  since : Nat
  deriving DecidableEq, Repr

/-- A sending direction (Table 11-5). `flip` is the epoch of a flip scheduled for it, `fired` that its entry has
fired, `announced` that a block with FLIP was sent, `stop` its stop cause, `inHalf` the half of the block in
flight, `mseq` the next block's MSEQ, `stream` the 64 stream bytes of the last block sent, `key` and `iv` what it was sealed
with. -/
structure CipTx where
  epoch     : Nat
  ctr       : Nat := 0
  flip      : Option Nat := none
  fired     : Bool := false
  announced : Bool := false
  stop      : Nat := 0
  warned    : Bool := false
  inHalf    : Option Nat := none
  mseq      : Nat := 0
  blocks    : Nat := 0
  stream    : List Nat := []
  key       : Nat := 0
  iv        : Nat := 0
  deriving DecidableEq, Repr

/-- A receiving direction (Table 11-5, R369): its prediction, the epoch accepted, the verdict it awaits for the
block from `first` to `last` under half `inHalf`, opened with `key`, `iv` and `aad`, and its counts. -/
structure CipRx where
  running : Bool := false
  epoch   : Nat := 0
  pEpoch  : Nat := 0
  pIv     : Nat := 0
  pMseq   : Nat := 0
  pending : Bool := false
  inHalf  : Option Nat := none
  first   : Nat := 0
  last    : Nat := 0
  forced  : Nat := 0
  stop    : Nat := 0
  fails   : Nat := 0
  noTag   : Nat := 0
  ivMis   : Nat := 0
  passed  : Nat := 0
  key     : Nat := 0
  iv      : Nat := 0
  aad     : List Nat := []
  deriving DecidableEq, Repr

/-- A sealed context's cipher state: its slot (as record byte 168), its directions, and their cache entries. -/
structure CipCtx where
  slot    : Nat
  tx      : CipTx
  rx      : CipRx := {}
  txCache : List DerivedKey := []
  rxCache : List DerivedKey := []
  deriving DecidableEq, Repr

/-- A scheduled epoch flip (R361): its scope as commanded, the contexts named with their new epochs, its due
address, and the directions that have not flipped yet. -/
structure CipFlip where
  scope    : Nat
  num      : Nat
  epoch    : Nat
  raiseCur : Bool
  due      : Nat
  targets  : List (Nat × Nat)
  fired    : Bool := false
  waiting  : List Nat
  deriving DecidableEq, Repr

/-- A derivation requested (R359): for direction `dir` of a context (0 sending), with its deadline. -/
structure DeriveReq where
  ctx      : Nat
  dir      : Nat
  epoch    : Nat
  deadline : Nat
  since    : Nat
  deriving DecidableEq, Repr

/-- A bulk message on a pipeline (R375 to R377): `keyed` says that slot 3 had a loaded half as it began, `order`
its order of arrival. -/
structure BulkRun where
  msg   : BulkMsg
  keyed : Bool
  order : Nat
  deriving DecidableEq, Repr

/-- The bulk messages of a pipeline: the one running, those suspended (at most eight), those that wait. -/
structure BulkPipe where
  run       : Option BulkRun := none
  suspended : List BulkRun := []
  waiting   : List BulkRun := []
  deriving DecidableEq, Repr

/-- The cipher pool beside its registers. Slots are keyed as record byte 168 numbers them, root slot 3 as 3.
`resvWant` is the epoch that a reservation is to cover (R365). `results` are the bulk results handed to
consumers, newest first; `bulkCtr` counts the messages sealed under each bulk key, by 4 × nonce + TYPE (R374). -/
structure CipSt where
  slots    : Tab KeySlot := []
  ctxs     : Tab CipCtx := []
  flips    : List CipFlip := []
  requests : List DeriveReq := []
  pipes    : Tab BulkPipe := []
  arrivals : Nat := 0
  bulkCtr  : Tab Nat := []
  results  : List (BulkMsg × Nat) := []
  resvWant : Option Nat := none
  resvFail : Bool := false
  deriving DecidableEq, Repr

/-! ### Pair -/

/-- A MATE lane beside its registers (R388, R389): its alignment (0 SEARCH, 1 CONFIRM, 2 SYNC), the block it looks at next and
the one where its candidate was found, the run of counted frames that meet both conditions of use, the run that does not, the
role that the last good marker gave it, and the last marker received. -/
structure MateLane where
  next     : Nat := 0
  base     : Nat := 0
  align    : Nat := 0
  conf     : Nat := 0
  bad      : Nat := 0
  okRun    : Nat := 0
  badRun   : Nat := 0
  role     : Nat := 0
  echo     : Nat := 0
  echoTime : Nat := 0
  deriving DecidableEq, Repr

/-- A message or a pin word that the unit sends (Tables 12-3 and 12-5a). -/
inductive MateMsg where
  | grant (cycle : Nat)
  | ack (cycle : Nat) (leased : Bool)
  | surrender (cause addr : Nat)
  | claim (cause addr epoch nonce : Nat)
  | health (bytes : List Nat)
  | gate (l : List GateEntry)
  | forward (f : Fwd)
  | place (p : PlaceMsg) (crc : Nat)
  | placeAck (cycle crc : Nat)
  | ctrlImage (l : List ImageEntry)
  | stateCopy (stamp : Nat) (base : Option Nat) (snap : Snapshot)
  | stateAck (stamp verdict : Nat)
  | drill (options cycle : Nat)
  | pinWord (word : Nat)
  deriving DecidableEq, Repr

/-- A message as it was sent (R390, R391, R401): its stream sequence, the shaft address, and the MATE lanes it went out on; none
for a pin word. -/
structure SentMsg where
  msg   : MateMsg
  seq   : Nat
  addr  : Nat
  lanes : List Nat
  deriving DecidableEq, Repr

/-- A data message in the order of its stream (R391); a STATE_DATA with the address it was sent at. -/
inductive DataMsg where
  | place (p : PlaceMsg)
  | gate (l : List GateEntry)
  | state (sent : Nat) (b : BulkMsg)
  deriving DecidableEq, Repr

/-- A snapshot being received: its address, and its data messages as (IV counter, bulk result, plaintext). `dead` says it is
discarded already. -/
structure Staging where
  since : Nat
  ivs   : List (Nat × Nat × List Nat) := []
  dead  : Bool := false
  deriving DecidableEq, Repr

/-- A drill (R418): its options, its phase (the holder: 0 waiting for a snapshot, 1 for its STATE_ACK, 2 for the CLAIM; the mate:
4 until its CLAIM; either: 3 until option [1] ends), when the phase began, the snapshot it waits for, and its surrender. -/
structure DrillSt where
  options : Nat
  phase   : Nat
  since   : Nat
  snap    : Nat := 0
  gaveAt  : Nat := 0
  deriving DecidableEq, Repr

/-- The canary's own account (R416, R417): tests and failures of the last second, failures of this rotation and the last, and
the good and missing copies by second, own and the active's, newest first. -/
structure CanarySt where
  tests    : Nat := 0
  failures : Nat := 0
  rotFails : Nat := 0
  prevFails : Nat := 0
  own      : List (Nat × Nat) := []
  mate     : List (Nat × Nat) := []
  lastGood : Nat := 0
  lastMiss : Nat := 0
  due      : Nat := 0
  excess   : Int := 0
  deriving DecidableEq, Repr

/-- The pair block beside its registers (R385 to R421). `lease` is the cycle of the latest grant held, `granted`
that of the last issued; `heardLink` and `heardPin` when the mate was last heard on each path; `mateState`
its PAR_STATE as last heard, `mateActive` that it was heard in ACTIVE since this unit's start; `surrendered`
a remembered SURRENDER; `take` the PAR_TAKE that waits with its host; `applied` the stamp of the last epoch
applied or committed, `mateApplied` of the last that the mate reports; `plans` the planner's entries by context and
frame; `ctlSeen` the control sequences taken lately; `dataNext` the data sequence due next, with `dataHeld` what came before its
turn; `mateAt` the mate's shaft address at its last counted marker and when that came; `planNext` who plans from the next
multiframe; `faults` the fault causes still present; `mute` that the transmitters are
held for an address conflict (R394). -/
structure ParSt where
  lanes       : Tab MateLane := []
  sent        : List SentMsg := []
  ctlTx       : Nat := 0
  dataTx      : Nat := 0
  heardLink   : Option Nat := none
  heardPin    : Option Nat := none
  ctlSeen     : List Nat := []
  dataNext    : Option Nat := none
  dataHeld    : List (Nat × DataMsg) := []
  mateState   : Nat := 0xFF
  mateActive  : Bool := false
  mateHealthy : Bool := false
  mateJoinReady : Bool := false
  mateStages  : Nat := 0
  mateQl      : Option Nat := none
  mateAt      : Option (Nat × Nat) := none
  mateSel     : Nat := 0x1F
  lease       : Option Nat := none
  granted     : Option Nat := none
  gotGrant    : Bool := false
  gaveUp      : Bool := false
  surrendered : Bool := false
  surrenderAt : Nat := 0
  pinSurrender : Option (Nat × Nat) := none
  pinClaim    : Option (Nat × Nat) := none
  takeCause   : Nat := 0
  takeHost    : Option HostRef := none
  nonce       : Nat := 0
  applied     : Option Nat := none
  mateApplied : Option Nat := none
  fullSince   : Option Nat := none
  missRun     : Nat := 0
  staging     : Option Staging := none
  joined      : Bool := false
  drill       : Option DrillSt := none
  roleDown    : Bool := false
  planner     : Bool := false
  planNext    : Option Bool := none
  plans       : Tab GateEntry := []
  place       : Option PlaceMsg := none
  placing     : Option (PlaceMsg × Nat) := none
  canary      : CanarySt := {}
  faults      : List Nat := []
  mute        : Bool := false
  listened    : Bool := false
  listenFrom  : Nat := 0
  deriving DecidableEq, Repr

/-! ### Energy -/

/-- A load step (Table 13-3): a unit gated or woken (numbered as the Overman numbers units), a change of the HBM's
state, an intent shed. -/
inductive LoadStep where
  | gate (unit : Nat)
  | wake (unit : Nat)
  | hbm  (state : Nat)
  | shed (intent : Nat)
  deriving DecidableEq, Repr

/-- A crash record (R436): its cause (0 feed loss, 1 command), the declaration stamp, the ledger in mJ as each stage was considered,
the stages run and skipped, the events and the points' frozen bins; and the message that seals it (Table 11-7). -/
structure CrashRec where
  cause   : Nat
  stamp   : Nat
  ledgers : List Rat
  ran     : List Nat
  skipped : List Nat
  events  : List EvRec
  points  : List Nat
  bins    : List PmBin
  msg     : BulkMsg
  deriving DecidableEq, Repr

/-- The energy block beside its registers (R422 to R442). Lever 1 stands in BKG_THROTTLED and lever 4 in ENG_HBM_STATE;
`hewers` counts lever 2's steps, `pipes` holds the pipelines parked and `pipeAsks` those to be emptied (lever 3), `lanes`
the lanes gated (lever 5), `shed` the intents shed (lever 6), newest first. `powers` are ENG_DEV_POWER's changes as
(shaft address, value), newest first. `waiting` are load steps for the next window; the window `winAt` has admitted `winSum`.
`ledger` in mJ stands at time `ledgerAt`; `declPower` and `declAt` belong to the declaration, `stageAt` is when the stage was entered. `slots` are the crash
slots with a record, `erasedAt` the order of their erases. -/
structure EngSt where
  hewers    : Nat := 0
  pipes     : List Nat := []
  pipeAsks  : List Nat := []
  lanes     : List Nat := []
  shed      : List Nat := []
  below     : Option Nat := none
  powers    : List (Nat × Int) := []
  waiting   : List LoadStep := []
  winAt     : Nat := 0
  winSum    : Nat := 0
  ledger    : Rat := 0
  ledgerAt  : Nat := 0
  declPower : Nat := 0
  declAt    : Nat := 0
  declCause : Nat := 0
  ledgers   : List Rat := []
  ran       : List Nat := []
  skipped   : List Nat := []
  slots     : Tab CrashRec := []
  erasedAt  : Tab Nat := []
  erases    : Nat := 0
  points    : Tab Nat := []
  pointCount : Nat := 0
  offs      : List Nat := []
  stageAt   : Nat := 0
  deriving DecidableEq, Repr

/-! ### The whole block -/

/-- The state of the block. `time` counts every position period that has passed; `addr` is the shaft
address as a count of positions since 0:0, which stands while the shaft is HALTED; `dco` is the DCO's
offset in eighths of a ppt; `freeCtr` numbers the free values drawn (log entry 8). -/
structure State where
  pending : List Instr := []
  time    : Nat := 0
  addr    : Nat := 0
  dco     : Int := 0
  freeCtr : Nat := 0
  regs    : RegSt := {}
  io      : IoSt := {}
  shf     : ShfSt := {}
  tim     : TimSt := {}
  flt     : FltSt := {}
  prt     : PrtSt := {}
  rlk     : RlkSt := {}
  frm     : FrmSt := {}
  map     : MapSt := {}
  ovm     : OvmSt := {}
  qmg     : QmgSt := {}
  feeds   : Tab FeedSt := []
  pm      : PmSt := {}
  cip     : CipSt := {}
  par     : ParSt := {}
  eng     : EngSt := {}
  asy     : AsySt := {}
  bkg     : BkgSt := {}
  sec     : SecSt := {}
  sys     : SysSt := {}
  deriving DecidableEq, Repr

/-- The block right after reset (log entries 5 and 6): every register field at the reset value of its
table, the shaft HALTED at 0:0, no memory written, nothing waiting. -/
def State.reset : State := {}

end Sys2Proof.Machine
end

