-- ==== Sys2Proof/Machine/Ops.lean ====
section
/-! DEFINITION. The operations every family shares: tables, register fields, the passage of shaft
time, host memory, events and completions. -/

namespace Sys2Proof.Machine

/-! ### Tables -/

/-- The entry of a table at a key, if it lists one. -/
def tfind {V : Type} : Tab V → Nat → Option V
  | [], _ => none
  | (k, v) :: rest, q => if k = q then some v else tfind rest q

/-- A table with the entry at a key replaced or added, keys kept rising. -/
def tset {V : Type} : Tab V → Nat → V → Tab V
  | [], q, w => [(q, w)]
  | (k, v) :: rest, q, w =>
    if q < k then (q, w) :: (k, v) :: rest
    else if q = k then (q, w) :: rest
    else (k, v) :: tset rest q w

/-- A table without the entry at a key. -/
def tdel {V : Type} : Tab V → Nat → Tab V
  | [], _ => []
  | (k, v) :: rest, q => if k = q then rest else (k, v) :: tdel rest q

/-- The entry at a key, or `d` where the table lists none. -/
def tget {V : Type} (d : V) (t : Tab V) (q : Nat) : V := (tfind t q).getD d

/-- A table with the entry at a key changed by `f`, starting from `d`. -/
def tmod {V : Type} (d : V) (t : Tab V) (q : Nat) (f : V → V) : Tab V := tset t q (f (tget d t q))

/-- The keys of a table rise strictly. -/
def tsorted {V : Type} : Tab V → Bool
  | [] => true
  | [_] => true
  | (a, _) :: (b, w) :: rest => decide (a < b) && tsorted ((b, w) :: rest)

/-! ### Bytes -/

/-- `w` little-endian bytes of `n` (R4). -/
def leBytes : Nat → Nat → List Nat
  | 0, _ => []
  | w + 1, n => n % 256 :: leBytes w (n / 256)

/-- The number that little-endian bytes spell (R4). -/
def leNum : List Nat → Nat
  | [] => 0
  | b :: rest => b + 256 * leNum rest

/-- The `w`-byte two's complement pattern of a number, saturated at the width (R636). -/
def satSigned (w : Nat) (i : Int) : Nat :=
  let hi : Int := 2 ^ (8 * w - 1) - 1
  let c : Int := if i > hi then hi else if i < -hi - 1 then -hi - 1 else i
  (c % 2 ^ (8 * w)).toNat

/-- The number a two's complement pattern of `w` bits stands for. -/
def signed (w n : Nat) : Int := if n < 2 ^ (w - 1) then (n : Int) else (n : Int) - 2 ^ w

/-- The `w`-bit two's complement pattern of a number, modulo the width. -/
def pattern (w : Nat) (i : Int) : Nat := (i % 2 ^ w).toNat

/-- The bit of `n` at position `k`. -/
def bitOf (n k : Nat) : Bool := n / 2 ^ k % 2 = 1

/-- `n` with bit `k` set to `b`. -/
def setBit (n k : Nat) (b : Bool) : Nat :=
  if bitOf n k = b then n else if b then n + 2 ^ k else n - 2 ^ k

/-- Bits `[lo+w-1:lo]` of `n`. -/
def bitsOf (n lo w : Nat) : Nat := n / 2 ^ lo % 2 ^ w

/-- 1 for true, 0 for false. -/
def ofBool (b : Bool) : Nat := if b then 1 else 0

/-- One item of an event's detail: `w` little-endian bytes, saturated (R636). -/
def itemBytes (it : Nat × Nat) : List Nat := leBytes it.1 (min it.2 (256 ^ it.1 - 1))

/-- A 12-byte field packed from its items in order, zero after the last (R636). -/
def packItems (items : List (Nat × Nat)) : List Nat :=
  ((items.map itemBytes).flatten ++ List.replicate 12 0).take 12

/-- One step of the reflected CRC-32C register over one bit (R454). -/
def crcBit (c : Nat) : Nat := if c % 2 = 1 then Nat.xor (c / 2) 0x82F63B78 else c / 2

/-- CRC-32C over bytes (R454): Castagnoli, reflected, initial value and final XOR all ones. -/
def crc32c (bs : List Nat) : Nat :=
  Nat.xor 0xFFFFFFFF
    (bs.foldl (fun c b =>
      crcBit (crcBit (crcBit (crcBit (crcBit (crcBit (crcBit (crcBit (Nat.xor c b))))))))) 0xFFFFFFFF)

/-! ### Host memory -/

/-- What a byte of host memory the device has not written reads as in this model (log entry 5). -/
def memDefault : Byte := 0

/-- Host memory with one byte written, in canonical form: no entry equals `memDefault`. -/
def memPut (m : List Host.Cell) (a : Nat) (b : Byte) : List Host.Cell :=
  if b = memDefault then tdel m a else tset m a b

/-- One byte of host memory. -/
def memGet (m : List Host.Cell) (a : Nat) : Byte := tget memDefault m a

/-- Host memory with a run of bytes written from address `a`. -/
def memWrite (m : List Host.Cell) (a : Nat) : List Nat → List Host.Cell
  | [] => m
  | b :: rest => memWrite (memPut m a (BitVec.ofNat 8 b)) (a + 1) rest

/-- Host memory is in canonical form: addresses strictly rising, no listed byte that an unlisted
address reads as. -/
def memWf (m : List Host.Cell) : Bool := tsorted m && m.all (fun c => c.2 != memDefault)

/-! ### Register fields -/

/-- The register key of a field's copy `i`: its byte offset and its lowest bit. -/
def Fld.key (f : Fld) (i : Nat) : Nat := (f.base + f.stride * i) * 32 + f.lo

/-- The reset value of a field's copy `i`. -/
def Fld.resetAt (f : Fld) (i : Nat) : Nat :=
  match f.exc.find? (fun e => e.1 ≤ i && i ≤ e.2.1) with
  | some e => e.2.2
  | none => f.reset

/-- The field is status or a count of a CPL ring, an event queue or a vector, held beside them. -/
def Fld.inIo (f : Fld) : Bool :=
  0x00701200 ≤ f.base && f.base < 0x00701900 && (f.kind == .sts || f.kind == .cnt)

/-- A field's value in force, from the register store. -/
def RegSt.rd (r : RegSt) (f : Fld) (i : Nat) : Nat := (tfind r.vals (f.key i)).getD (f.resetAt i)

/-- The register store with a field's value replaced, cut to the field's width. -/
def RegSt.wr (r : RegSt) (f : Fld) (i v : Nat) : RegSt :=
  { r with vals := tset r.vals (f.key i) (v % 2 ^ f.width) }

/-- A field's value in force (the active value of a CMT field, R514). -/
def State.rd (s : State) (f : Fld) (i : Nat) : Nat := s.regs.rd f i

/-- The state with a field's value replaced by the device. -/
def State.wr (s : State) (f : Fld) (i v : Nat) : State := { s with regs := s.regs.wr f i v }

/-- A signed field's value in force. -/
def State.rdInt (s : State) (f : Fld) (i : Nat) : Int := signed f.width (s.rd f i)

/-- The state with a signed field replaced by the device. -/
def State.wrInt (s : State) (f : Fld) (i : Nat) (v : Int) : State := s.wr f i (pattern f.width v)

/-- The state with a one-bit field replaced by the device. -/
def State.wrBit (s : State) (f : Fld) (i : Nat) (b : Bool) : State := s.wr f i (ofBool b)

/-- A one-bit field in force. -/
def State.rdBit (s : State) (f : Fld) (i : Nat) : Bool := s.rd f i != 0

/-- A counter advanced by `n`, modulo 2³² (R505). -/
def State.countBy (s : State) (f : Fld) (i n : Nat) : State := s.wr f i (s.rd f i + n)

/-- A counter advanced by one (R505). -/
def State.count (s : State) (f : Fld) (i : Nat) : State := s.countBy f i 1

/-! ### Shaft time -/

/-- The shaft is stopped: SHF_STATE reads HALTED (Table 02-1). -/
def State.halted (s : State) : Bool := s.rd Reg.SHF_STATE 0 == 0

/-- `n` position periods pass; the shaft advances one position in each unless it is HALTED (R33, R34). -/
def State.elapse (s : State) (n : Nat) : State :=
  { s with time := s.time + n, addr := if s.halted then s.addr else s.addr + n }

/-- The shaft's cycle number. -/
def State.cycle (s : State) : Nat := s.addr / Config.cyclePos

/-- The shaft's position in its cycle. -/
def State.pos (s : State) : Nat := s.addr % Config.cyclePos

/-- The stamp of a shaft address (R3): cycle in bits [63:16], position in bits [15:0]. -/
def stampOf (a : Nat) : Nat := a / Config.cyclePos % 2 ^ 48 * 65536 + a % Config.cyclePos

/-- The shaft address that a stamp names. -/
def addrOfStamp (st : Nat) : Nat := st / 65536 * Config.cyclePos + st % 65536

/-- The stamp of now. -/
def State.stamp (s : State) : Nat := stampOf s.addr

/-- The six-byte detail item of a shaft address (Table 14-18). -/
def addrItem (a : Nat) : Nat × Nat := (6, a / Config.cyclePos % 2 ^ 32 + 2 ^ 32 * (a % Config.cyclePos))

/-- The first multiple of `m` at or after `a`. -/
def ceilTo (m a : Nat) : Nat := (a + m - 1) / m * m

/-- The cycle boundary at or before `a`, and the first one after it. -/
def cycleStart (a : Nat) : Nat := a / Config.cyclePos * Config.cyclePos
def nextCycle (a : Nat) : Nat := (a / Config.cyclePos + 1) * Config.cyclePos

/-- Time passes until the shaft reaches address `a`; a shaft already there, or HALTED, does not wait. -/
def State.waitAddr (s : State) (a : Nat) : State :=
  if s.halted then s else s.elapse (a - s.addr)

/-- What happens at a shaft address, once the shaft has reached it: a HALTED shaft reaches none (R50, R64). -/
def State.whenAddr (s : State) (a : Nat) (f : State → State) : State :=
  let s1 := s.waitAddr a
  if s1.addr < a then s1 else f s1

/-- After `dt`, time passes until the next shaft address that is a multiple of `m`. -/
def State.toBoundary (s : State) (dt m : Nat) : State :=
  let s1 := s.elapse dt
  s1.waitAddr (ceilTo m s1.addr)

/-- After `dt`, time passes until the time `t`, if that is still to come. -/
def State.untilTime (s : State) (dt t : Nat) : State :=
  let s1 := s.elapse dt
  s1.elapse (t - s1.time)

/-- After `dt`, time passes until the next cycle boundary after that. -/
def State.toNextCycle (s : State) (dt : Nat) : State :=
  let s1 := s.elapse dt
  s1.waitAddr (nextCycle s1.addr)

/-- The current second of shaft time, by which once-a-second events are counted. -/
def State.second (s : State) : Nat := s.time / Config.secondPos

/-- An entry of a class has been dispatched at this position (R20): only the schedule table starts an event of these classes. -/
def State.dispatched (s : State) (cls : Nat) (p : SchedEntry → Bool) : Bool :=
  s.shf.firedAt == some s.addr && s.shf.fired.any (fun e => e.cls == cls && p e)

/-- The state at an entry's position (R20): now, where an entry of the class has been dispatched here, late ones among them; else at
the next boundary of `m` positions, where it may have been. -/
def State.atEntry (s : State) (dt m cls : Nat) : State :=
  let s1 := s.elapse dt
  if s1.dispatched cls (fun _ => true) then s1 else s1.waitAddr (ceilTo m s1.addr)

/-! ### Free values -/

/-- The state after a free value was drawn. -/
def State.draw (s : State) : State := { s with freeCtr := s.freeCtr + 1 }

/-- A quotient rounded to the nearest whole number; the direction of an exact half is free. -/
def State.nearest (s : State) (q : Rat) : Int :=
  let f := q.floor
  if q - f < 1 / 2 then f else if 1 / 2 < q - f then f + 1 else f + Config.freeRound s.freeCtr % 2

/-- A quotient brought to a whole number where the spec names no rounding: exact when whole, otherwise
one of its two neighbours. -/
def State.wholeFree (s : State) (q : Rat) : Int :=
  if q = q.floor then q.floor else q.floor + Config.freeRound s.freeCtr % 2

/-! ### Interrupt vectors -/

/-- The device may read and write host memory (R444). -/
def State.mayUseHost (s : State) : Bool :=
  s.rd Reg.HIF_LINK_UP 0 == 1 && s.io.busMaster && !s.io.d3hot

/-- An MSI-X vector's mask bit (bit 0 of the fourth word of its table entry; PCI resets it to 1). -/
def IoSt.masked (io : IoSt) (v : Nat) : Bool := tget 1 io.msix (4 * v + 3) % 2 == 1

/-- A held-beside status or count. -/
def IoSt.rd (io : IoSt) (f : Fld) (i : Nat) : Nat := (tfind io.cnt (f.key i)).getD (f.resetAt i)

/-- A held-beside status or count, replaced. -/
def IoSt.wr (io : IoSt) (f : Fld) (i v : Nat) : IoSt :=
  { io with cnt := tset io.cnt (f.key i) (v % 2 ^ f.width) }

/-- A held-beside count advanced modulo 2³². -/
def IoSt.countBy (io : IoSt) (f : Fld) (i n : Nat) : IoSt := io.wr f i (io.rd f i + n)

/-- A vector sends its message, or waits in the PBA while its table entry is masked (R471). -/
def IoSt.sendMsg (io : IoSt) (v : Nat) : IoSt :=
  if io.masked v then { io with vecs := tset io.vecs v { waiting := true } }
  else ({ io with vecs := tset io.vecs v {} }).countBy Reg.HIF_VEC_MSG_CNT v 1

/-- A record was written to a ring that names vector `v`: the vector counts it, and sends its message
at its count or at once for a CRITICAL event (R471). -/
def State.countRecord (s : State) (io : IoSt) (v : Nat) (now : Bool) : IoSt :=
  let w := tget {} io.vecs v
  let w1 : VecSt := { w with count := w.count + 1, since := if w.count = 0 then s.time else w.since }
  let io1 : IoSt := { io with vecs := tset io.vecs v w1 }
  if now || max 1 (s.rd Reg.HIF_VEC_COUNT v) ≤ w1.count then io1.sendMsg v else io1

/-! ### Events -/

/-- The alive counter of a ring entry with free-running index `idx` in a ring of `size` (R452). -/
def aliveOf (idx size : Nat) : Nat := idx / size % 255 + 1

/-- A ring's index counted on from its enabling, past 2³² (R452, R453). -/
def IoSt.full (io : IoSt) (f : Fld) (i : Nat) (idx : Nat) : Nat := 2 ^ 32 * tget 0 io.laps (f.key i) + idx

/-- An index that comes round to 0 is counted. -/
def IoSt.lap (io : IoSt) (f : Fld) (i : Nat) (idx : Nat) : IoSt :=
  if (idx + 1) % 2 ^ 32 = 0 then { io with laps := tmod 0 io.laps (f.key i) (· + 1) } else io

/-- The 32 bytes of an event record (Table 14-17). -/
def EvRec.bytes (r : EvRec) (alive : Nat) : List Nat :=
  let b := leBytes 2 r.code ++ [r.sev + 8 * ofBool r.folded + 16 * ofBool r.caused, alive] ++
    leBytes 4 r.src ++ leBytes 8 r.stamp ++ r.detail
  b ++ leBytes 4 (crc32c b)

/-- The ring size of an event queue. -/
def State.evqSize (s : State) (q : Nat) : Nat := 2 ^ s.rd Reg.HIF_EVQ_SIZE q

/-- The base address of an event queue's ring. -/
def State.evqBase (s : State) (q : Nat) : Nat :=
  s.rd Reg.HIF_EVQ_BASE_LO q + 2 ^ 32 * s.rd Reg.HIF_EVQ_BASE_HI q

/-- Free slots of an event queue. -/
def State.evqFree (s : State) (io : IoSt) (q : Nat) : Nat :=
  s.evqSize q - (io.rd Reg.HIF_EVQ_PROD q + 2 ^ 32 - io.rd Reg.HIF_EVQ_CONS q) % 2 ^ 32

/-- Whether the device may write event queue `q` now (R467). -/
def State.evqOpen (s : State) (q : Nat) : Bool :=
  s.mayUseHost && s.rd Reg.HIF_EN 0 == 1 && s.rd Reg.HIF_EVQ_EN q == 1

/-- A record is written into the next slot of an event queue. -/
def State.evqPut (s : State) (io : IoSt) (q : Nat) (r : EvRec) : IoSt :=
  let p := io.rd Reg.HIF_EVQ_PROD q
  let size := s.evqSize q
  let io1 : IoSt := { io with mem := memWrite io.mem (s.evqBase q + 32 * (p % size)) (r.bytes (aliveOf (io.full Reg.HIF_EVQ_PROD q p) size)) }
  let io2 := (io1.wr Reg.HIF_EVQ_PROD q (p + 1)).lap Reg.HIF_EVQ_PROD q p
  if s.rd Reg.HIF_EVQ_VEC_EN q = 1 then s.countRecord io2 (s.rd Reg.HIF_EVQ_VEC q) (r.sev == 4) else io2

/-- An event is dropped by queue `q` and counted (R466). -/
def State.evqDrop (_s : State) (io : IoSt) (q : Nat) (r : EvRec) : IoSt :=
  let e := tget {} io.evq q
  let e1 : EvqSt :=
    { e with drops := e.drops + 1,
             dropFirst := if e.drops = 0 then r.stamp else e.dropFirst,
             dropLast := r.stamp }
  ({ io with evq := tset io.evq q e1 }).countBy Reg.HIF_EVQ_DROP_CNT q 1

/-- The EVQ_OVERFLOW record of queue `q` (Table 14-15): `n` dropped, stamps of the first and the last. -/
def State.overflowRec (s : State) (q n first last : Nat) : EvRec :=
  { code := Ev.EVQ_OVERFLOW, sev := 4, folded := false, caused := false,
    src := 0xC0000000 + 2 * 8192 + q, stamp := s.stamp,
    detail := packItems [(1, q), (3, min n (2 ^ 24 - 1)), (4, first / 65536 % 2 ^ 32), (4, last / 65536 % 2 ^ 32)] }

/-- An event due for a queue that the device may write meets the queue's room (R466). A queue in
overflow drops it; a queue with one free slot takes EVQ_OVERFLOW in its place. -/
def State.evqRoom (s : State) (io : IoSt) (q : Nat) (r : EvRec) : IoSt :=
  if (tget {} io.evq q).inOver then s.evqDrop io q r
  else if s.evqFree io q ≤ 1 then
    let io1 := if s.evqFree io q = 1 then s.evqPut io q (s.overflowRec q 0 0 0) else io
    let io2 : IoSt := { io1 with evq := tmod {} io1.evq q (fun e => { e with inOver := true, drops := 0 }) }
    s.evqDrop io2 q r
  else s.evqPut io q r

/-- An event is kept for a queue that cannot be written, up to 64 (R467). -/
def State.evqHold (_s : State) (io : IoSt) (q : Nat) (r : EvRec) : IoSt :=
  let e := tget {} io.evq q
  if e.held.length < 64 then { io with evq := tset io.evq q { e with held := e.held ++ [r] } }
  else
    let e1 : EvqSt :=
      { e with lost := e.lost + 1, lostFirst := if e.lost = 0 then r.stamp else e.lostFirst,
               lostLast := r.stamp }
    ({ io with evq := tset io.evq q e1 }).countBy Reg.HIF_EVQ_DROP_CNT q 1

/-- An event goes to one queue: held behind others or while the queue cannot be written (R467),
otherwise by the queue's room (R466). -/
def State.evqSend (s : State) (io : IoSt) (q : Nat) (r : EvRec) : IoSt :=
  if s.evqOpen q && (tget {} io.evq q).held.isEmpty then
    let starts := !(tget {} io.evq q).inOver && decide (s.evqFree io q = 1)
    let io1 := s.evqRoom io q r
    if starts && q != 0 then
      if s.evqOpen 0 && (tget {} io1.evq 0).held.isEmpty then s.evqRoom io1 0 (s.overflowRec q 0 0 0)
      else s.evqHold io1 0 (s.overflowRec q 0 0 0)
    else io1
  else s.evqHold io q r

/-- The event queue of a code's high byte (Table 14-13, HIF_EVQ_ROUTE). -/
def State.routeOf (s : State) (code : Nat) : Nat :=
  let h := code / 256 - 1
  s.rd (match h % 4 with
    | 0 => Reg.HIF_EVQ_ROUTE0
    | 1 => Reg.HIF_EVQ_ROUTE1
    | 2 => Reg.HIF_EVQ_ROUTE2
    | _ => Reg.HIF_EVQ_ROUTE3) (h / 4)

/-- The codes fixed at CRITICAL (Table 14-10). -/
def fixedCritical : List Nat :=
  [Ev.SHAFT_HALT, Ev.PAR_ADDR_CONFLICT, Ev.PAR_DUAL_ACTIVE, Ev.ENG_LAST_GASP, Ev.EVQ_OVERFLOW]

/-- The severity of a code (R465): fixed, set by HIF_SEV_SET, or 2. -/
def State.severity (s : State) (code : Nat) : Nat :=
  if fixedCritical.contains code then 4 else tget 2 s.io.sev code

/-- The event record of a code raised now. -/
def State.evRec (s : State) (code src : Nat) (det : List (Nat × Nat)) (folded caused : Bool) : EvRec :=
  { code := code, sev := s.severity code, folded := folded, caused := caused, src := src,
    stamp := s.stamp, detail := packItems det }

/-- The host side after an event is raised: logged, queued for the NOR log by severity (R611), and sent
to its queue, and to EVQ 0 as well when CRITICAL (R464). -/
def State.ioRaise (s : State) (r : EvRec) (q : Nat) : IoSt :=
  let io : IoSt :=
    { s.io with evlog := (r :: s.io.evlog).take 256,
                logWait := if min 4 (s.rd Reg.BKG_LOG_SEV 0) ≤ r.sev then s.io.logWait ++ [r]
                  else s.io.logWait }
  let io1 := s.evqSend io q r
  if r.sev = 4 && q != 0 then s.evqSend io1 0 r else io1

/-- An event is raised (R464). -/
def State.raise (s : State) (code src : Nat) (det : List (Nat × Nat)) : State :=
  { s with io := s.ioRaise (s.evRec code src det false false) (s.routeOf code) }

/-- An event is raised by the effect of a host command: CAUSED is set (Table 14-8). -/
def State.raiseC (s : State) (code src : Nat) (det : List (Nat × Nat)) : State :=
  { s with io := s.ioRaise (s.evRec code src det false true) (s.routeOf code) }

/-- A folded event is raised (Table 14-8 [3]). -/
def State.raiseFolded (s : State) (code src : Nat) (det : List (Nat × Nat)) : State :=
  { s with io := s.ioRaise (s.evRec code src det true false) (s.routeOf code) }

/-- An event is raised if a condition holds. -/
def State.raiseIf (s : State) (b : Bool) (code src : Nat) (det : List (Nat × Nat)) : State :=
  if b then s.raise code src det else s

/-- The key under which a rate-limited event of a code and a source number is accounted. -/
def rateKey (code n : Nat) : Nat := n * 65536 + code

/-- An event raised at most `lim` times in a second for a source, the rest folded into one at the end
of the second. `det` is its detail, `src` its source ID. -/
def State.raiseLim (s : State) (lim code n src : Nat) (det : List (Nat × Nat)) : State :=
  let k := rateKey code n
  let r0 := tget ({ window := s.second } : RateSt) s.io.rates k
  let r1 : RateSt := if r0.window = s.second || r0.folded != 0 then r0 else { window := s.second }
  if r1.window = s.second && r1.raised < lim then
    let s1 := s.raise code src det
    { s1 with io := { s1.io with rates := tset s1.io.rates k { r1 with raised := r1.raised + 1 } } }
  else
    let r2 : RateSt :=
      { r1 with folded := r1.folded + 1, first := if r1.folded = 0 then det else r1.first,
                final := det, src := src }
    { s with io := { s.io with rates := tset s.io.rates k r2 } }

/-- An event raised at most once in a second for a source, with the count since the last one: `mk`
gives the detail from that count. -/
def State.raiseOnce (s : State) (code n src : Nat) (mk : Nat → List (Nat × Nat)) : State :=
  let k := rateKey code n
  match tfind s.io.rates k with
  | none =>
    let s1 := s.raise code src (mk 1)
    { s1 with io := { s1.io with rates := tset s1.io.rates k { window := s.time, raised := 1 } } }
  | some r =>
    if s.time < r.window + Config.secondPos then
      { s with io := { s.io with rates := tset s.io.rates k { r with raised := r.raised + 1 } } }
    else
      let s1 := s.raise code src (mk r.raised)
      { s1 with io := { s1.io with rates := tset s1.io.rates k { window := s.time, raised := 1 } } }

/-! ### Source IDs (Table 14-9) -/

def srcDevice : Nat := 0
def srcCtx (c : Nat) : Nat := 0x10000000 + c
def srcLane (l : Nat) : Nat := 0x20000000 + l
def srcTrb (l : Nat) : Nat := 0x30000000 + l
def srcPoint (p : Nat) : Nat := 0x40000000 + p
def srcQueue (q : Nat) : Nat := 0x50000000 + q
def srcGroup (g : Nat) : Nat := 0x60000000 + g
def srcHewer (h : Nat) : Nat := 0x70000000 + h
def srcPipe (p : Nat) : Nat := 0x80000000 + p
def srcChannel (c : Nat) : Nat := 0x90000000 + c
def srcFeed (k : Nat) : Nat := 0xA0000000 + k
def srcConverter (j : Nat) : Nat := 0xA0000010 + j
def srcCand (n : Nat) : Nat := 0xB0000000 + n
def srcRing (kind n : Nat) : Nat := 0xC0000000 + kind * 8192 + n
def srcIntent (i : Nat) : Nat := 0xD0000000 + i % 2 ^ 28

/-! ### Completions -/

/-- The 32 bytes of a completion record (Table 14-5). -/
def CplRec.bytes (c : CplRec) (alive : Nat) : List Nat :=
  let b := leBytes 2 c.opcode ++ [c.outcome * 64 + c.reason, alive] ++ leBytes 4 c.tag ++
    leBytes 8 c.stamp ++ c.result
  b ++ leBytes 4 (crc32c b)

/-- A completion is written into the next slot of its CPL ring, or dropped and counted while that ring
is disabled (R461, R463). -/
def State.cplPut (s : State) (io : IoSt) (c : CplRec) : IoSt :=
  let q := s.rd Reg.HIF_CMD_CPL c.ring
  if s.rd Reg.HIF_CPL_EN q = 1 then
    let p := io.rd Reg.HIF_CPL_PROD q
    let size := 2 ^ s.rd Reg.HIF_CPL_SIZE q
    let base := s.rd Reg.HIF_CPL_BASE_LO q + 2 ^ 32 * s.rd Reg.HIF_CPL_BASE_HI q
    let io1 : IoSt := { io with mem := memWrite io.mem (base + 32 * (p % size)) (c.bytes (aliveOf (io.full Reg.HIF_CPL_PROD q p) size)) }
    let io2 := (io1.wr Reg.HIF_CPL_PROD q (p + 1)).lap Reg.HIF_CPL_PROD q p
    if s.rd Reg.HIF_CPL_VEC_EN q = 1 then s.countRecord io2 (s.rd Reg.HIF_CPL_VEC q) false else io2
  else io.countBy Reg.HIF_CPL_DROP_CNT q 1

/-- A delivered descriptor is the one of a command. -/
def Delivered.isOf (d : Delivered) (ring tag opcode : Nat) : Bool := d.ring == ring && d.tag == tag && d.opcode == opcode

/-- The host side after a command completes: the reservation ends, and the record is written, or held
while host memory may not be written (R444), or left out for a DONE under NO_CPL (Table 14-4) or as its ring was
disabled since (R463). -/
def State.ioComplete (s : State) (c : CplRec) (noCpl : Bool) : IoSt :=
  let mine := s.io.delivered.find? (fun d => d.isOf c.ring c.tag c.opcode)
  let io : IoSt :=
    { s.io with
      delivered := s.io.delivered.eraseP (fun d => d.isOf c.ring c.tag c.opcode),
      cpllog := (c :: s.io.cpllog).take 256 }
  if (noCpl && c.outcome == 0) || (match mine with | some d => d.dead | none => false) then io
  else if s.mayUseHost && io.heldCpl.isEmpty then s.cplPut io c
  else { io with heldCpl := io.heldCpl ++ [c] }

/-- A command completes now with an outcome, a reason and a result (R461). -/
def State.complete (s : State) (h : HostRef) (opcode outcome reason : Nat) (result : List (Nat × Nat)) :
    State :=
  let c : CplRec :=
    { ring := h.ring, tag := h.tag, opcode := opcode, outcome := outcome, reason := reason,
      stamp := s.stamp, result := packItems result }
  { s with io := s.ioComplete c h.noCpl }

/-- DONE with no result (Table 14-6). -/
def State.done (s : State) (h : HostRef) (opcode : Nat) : State := s.complete h opcode 0 0 []

/-- REFUSED by the block with its reason (Table 14-6). -/
def State.refuse (s : State) (h : HostRef) (opcode reason : Nat) : State := s.complete h opcode 2 reason []

/-- REJECTED with a reason of Table 14-7. -/
def State.reject (s : State) (h : HostRef) (opcode reason : Nat) : State := s.complete h opcode 3 reason []

/-- Bytes written to host memory at an address (a command's buffer). -/
def State.hostWrite (s : State) (a : Nat) (bs : List Nat) : State :=
  { s with io := { s.io with mem := memWrite s.io.mem a bs } }

/-- The domain (Table 16-6) is in reset. -/
def State.inReset (s : State) (d : Nat) : Bool := bitOf (s.rd Reg.RST_ACTIVE 0) d || bitOf (s.rd Reg.RST_ACTIVE 0) 0

/-- The domain's generation has moved on since the command was delivered (R580, Table 19-5). -/
def State.stale (s : State) (h : HostRef) (domain opcode : Nat) : Bool :=
  match s.io.delivered.find? (fun d => d.isOf h.ring h.tag opcode) with
  | some d => d.gens.getD domain (s.rd Reg.RST_GEN domain) != s.rd Reg.RST_GEN domain
  | none => false

/-- The command names a host buffer that the device reads (R460): an envelope, transfer units, or a loopback's source. -/
def readsBuffer (opcode : Nat) : Bool :=
  [Op.CIP_ROOT_LOAD, Op.CIP_KEY_ERASE, Op.SEC_LIFECYCLE, Op.SEC_OPKEY_ROTATE, Op.SEC_IMAGE_STAGE, Op.SEC_DEBUG_UNLOCK, Op.CFG_LOAD,
    Op.BOOT_LOAD, Op.ASY_LOOPBACK].contains opcode

/-- A command delivered to its block runs, unless the block's domain is in reset, when it is answered REJECTED with
RESET_IN_PROGRESS, or was reset since the delivery, when it is ABORTED (R459, Table 19-5), or the read of its buffer fails, when it
is REJECTED with PCIE_ERROR (R460). -/
def State.command (s : State) (dt : Nat) (h : HostRef) (domain opcode : Nat) (run : State → State) : State :=
  let s1 := s.elapse dt
  if s1.inReset domain then s1.reject h opcode 0x06
  else if s1.stale h domain opcode then s1.reject h opcode 0x07
  else if h.badRead && readsBuffer opcode then s1.reject h opcode 0x08
  else run s1

/-! ### Test perturbation -/

/-- A perturbation of Table 20-3 is in effect (R614). -/
def State.perturbed (s : State) (k : Nat) : Bool := bitOf (s.rd Reg.TST_ACTIVE 0) k

/-- A check of a target that would pass is reported failed while a check-result perturbation has results left to alter
(Table 20-3). -/
def State.alterCheck (s : State) (target : Nat) : State × Bool :=
  if s.perturbed 4 && s.rd Reg.TST_CHECK_TARGET 0 = target && s.bkg.altered < s.rd Reg.TST_CHECK_COUNT 0 then
    (({ s with bkg := { s.bkg with altered := s.bkg.altered + 1 } } : State).count Reg.TST_PERTURB_CNT 0, true)
  else (s, false)

/-- The unit holds authority: it is configured without a mate (R23), or PAR_AUTHORITY reads 1. -/
def State.hasAuthority (s : State) : Bool := s.rd Reg.PAR_PAIR_EN 0 == 0 || s.rd Reg.PAR_AUTHORITY 0 == 1

/-! ### Lanes and the pair -/

/-- The slice that owns an ACC or UPL lane (R11). -/
def laneSlice (l : Nat) : Nat := if l < 48 then l / 12 else (l - 48) / 6

/-- The first lane of the port that a lane belongs to (R138, Table 05-2). -/
def State.portFirst (s : State) (l : Nat) : Nat :=
  if l < 48 || 72 ≤ l then l
  else
    let v := (l - 48) % 6
    let b := l - v
    match s.rd Reg.PRT_UPL_LAYOUT 0 / 4 ^ laneSlice l % 4 with
    | 1 => b + v / 2 * 2
    | 2 => if v < 4 then b else b + 4
    | _ => l

/-- The unit bit (R348, R385): 1 for unit B of a pair. -/
def State.unitBit (s : State) : Nat := if s.rdBit Reg.PAR_PAIR_EN 0 && s.rd Reg.PAR_UNIT 0 = 1 then 1 else 0

/-- The device is configured with a mate (R385). -/
def State.paired (s : State) : Bool := s.rdBit Reg.PAR_PAIR_EN 0

/-- This is unit B. -/
def State.isUnitB (s : State) : Bool := s.rd Reg.PAR_UNIT 0 == 1

/-! ### Messages to the mate -/

/-- The MATE lanes that send in a role now (R389, Table 12-13). -/
def State.roleLanes (s : State) (role : Nat) : List Nat :=
  (List.range 8).filter (fun l => s.rd Reg.PAR_LANE_ROLE 0 / 4 ^ l % 4 == role)

/-- The lanes that carry data messages: with fewer than three usable lanes, the CONTROL lanes too (R389). -/
def State.dataLanes (s : State) : List Nat :=
  if (List.range 8).countP (bitOf (s.rd Reg.PAR_LANES_USABLE 0)) < 3 then s.roleLanes 1 ++ s.roleLanes 2 else s.roleLanes 2

/-- The streams of Table 12-3. -/
def MateMsg.isPin : MateMsg → Bool
  | .pinWord _ => true
  | _ => false
def MateMsg.isData : MateMsg → Bool
  | .place .. | .gate .. | .stateCopy .. => true
  | _ => false
def MateMsg.isTally : MateMsg → Bool
  | .grant .. | .ack .. | .surrender .. | .claim .. => true
  | _ => false

/-- A drill with option [0] keeps tally messages off the mate link (Table 12-12). -/
def State.pinsOnly (s : State) : Bool :=
  match s.par.drill with
  | some d => bitOf d.options 0 && (d.phase == 2 || d.phase == 4)
  | none => false

/-- A message goes to the mate (R389 to R391, R401): a control message on both CONTROL lanes, a data message on one of its lanes in
turn, each numbered in its stream. The newest 256 are kept. -/
def State.send (s : State) (m : MateMsg) : State :=
  if m.isTally && s.pinsOnly then s
  else
    let l := s.dataLanes
    let x : SentMsg := { msg := m, seq := if m.isPin then 0 else if m.isData then s.par.dataTx else s.par.ctlTx, addr := s.addr,
                         lanes := if m.isPin then [] else if m.isData then (l[s.par.dataTx % max 1 l.length]?).toList
                           else s.roleLanes 1 }
    { s with par := { s.par with
      sent := (x :: s.par.sent).take 256,
      ctlTx := if m.isPin || m.isData then s.par.ctlTx else (s.par.ctlTx + 1) % 2 ^ 32,
      dataTx := if m.isData then (s.par.dataTx + 1) % 2 ^ 32 else s.par.dataTx } }

end Sys2Proof.Machine
end

