-- ==== Sys2Proof/Machine/Wire.lean ====
section
/-! DEFINITION. The line formats the spec defines itself, bit by bit: the tributary-link frame (R145 to R149) and the Ralale
block, marker, overhead and tub (R169 to R185), each with its reader and its writer. -/

namespace Sys2Proof.Machine

/-! ### Bytes -/

/-- `w` big-endian bytes of `n`. -/
def beBytes (w n : Nat) : List Nat := (leBytes w n).reverse

/-- The number that big-endian bytes spell. -/
def beNum (l : List Nat) : Nat := leNum l.reverse

/-- The `n` bytes that begin at `at_`. -/
def cut (l : List Nat) (at_ n : Nat) : List Nat := (l.drop at_).take n

/-- The bits of a byte, most significant first. -/
def msbBits (b : Nat) : List Bool := [bitOf b 7, bitOf b 6, bitOf b 5, bitOf b 4, bitOf b 3, bitOf b 2, bitOf b 1, bitOf b 0]

/-- The byte whose bits, most significant first, are given. -/
def ofMsb (l : List Bool) : Nat := l.foldl (fun a b => 2 * a + ofBool b) 0

/-- Bits packed into `n` bytes, most significant first, filled with 0 (R147). -/
def packBits : Nat → List Bool → List Nat
  | 0, _ => []
  | n + 1, l => ofMsb ((l.take 8) ++ List.replicate (8 - (l.take 8).length) false) :: packBits n (l.drop 8)

/-! ### The carriage stream -/

/-- A carriage stream (Table 08-10), in network order (R4). -/
structure Carriage where
  tag   : Nat
  iv    : Nat
  epoch : Nat
  next  : Nat
  flags : Nat
  len   : Nat
  mseq  : Nat
  deriving DecidableEq, Repr

/-- FLAGS [1] and [3]. -/
def Carriage.flip (c : Carriage) : Bool := bitOf c.flags 1
def Carriage.stop (c : Carriage) : Bool := bitOf c.flags 3

/-- Stream bytes 16 to 31: the AAD of the block (Table 11-1). -/
def Carriage.aad (c : Carriage) : List Nat :=
  beBytes 6 c.iv ++ beBytes 2 c.epoch ++ beBytes 2 c.next ++ [c.flags, c.len] ++ beBytes 4 c.mseq

/-- Stream bytes 0 to 63, with their CRC. -/
def Carriage.bytes (c : Carriage) : List Nat :=
  let b := beBytes 16 c.tag ++ c.aad ++ List.replicate 28 0
  b ++ beBytes 4 (crc32c b)

/-- The copy of 64 bytes passes its CRC-32C (R282). -/
def copyOk (b : List Nat) : Bool := b.length == 64 && crc32c (b.take 60) == beNum (b.drop 60)

/-- The copies that a block's stream of 8L bytes holds, in turn (R282). -/
def streamCopies (b : List Nat) : List (List Nat) := (List.range (b.length / 64)).map (fun i => cut b (64 * i) 64)

/-- The first copy of a block's stream that passes its CRC (R282). -/
def readCarriage (b : List Nat) : Option Carriage :=
  ((streamCopies b).find? copyOk).map (fun c =>
    { tag := beNum (cut c 0 16), iv := beNum (cut c 16 6), epoch := beNum (cut c 22 2), next := beNum (cut c 24 2),
      flags := c.getD 26 0, len := c.getD 27 0, mseq := beNum (cut c 28 4) })

/-- What a hitless group judges a block by (R287): whether a copy of its stream passed, its MSEQ, trail signal fail, violations,
and the unit bit. -/
structure BlockIn where
  good  : Bool
  mseq  : Nat
  tsf   : Bool
  viol  : Nat
  unitB : Bool

/-! ### Checks and scramblers -/

/-- One bit of CRC-16/CCITT (R181). -/
def crc16Bit (c : Nat) : Nat := if c < 32768 then 2 * c else Nat.xor (2 * c % 65536) 0x1021

/-- The register of polynomial 0x1021 over bytes, not reflected, from an initial value. -/
def crc16From (init : Nat) (bs : List Nat) : Nat :=
  bs.foldl (fun c b => crc16Bit (crc16Bit (crc16Bit (crc16Bit (crc16Bit (crc16Bit (crc16Bit (crc16Bit
    (Nat.xor c (256 * b)))))))))) init

/-- CRC-16/CCITT: initial value 0xFFFF, no final XOR (R181). -/
def crc16 (bs : List Nat) : Nat := crc16From 0xFFFF bs

/-- The generator of x²³ + x¹⁸ + 1 over `n` bits, the oldest stage first (R148): the bits as a number, most significant first,
and the stages after them. -/
def genBits : Nat → Nat → Nat → Nat × Nat
  | 0, acc, r => (acc, r)
  | n + 1, acc, r => genBits n (2 * acc + r / 2 ^ 22 % 2) ((2 * r + (r / 2 ^ 22 + r / 2 ^ 17) % 2) % 2 ^ 23)

/-- Bytes with the generator's sequence added (R148): its own inverse. -/
def addScramble : Nat → List Nat → List Nat
  | _, [] => []
  | r, b :: rest => Nat.xor b (genBits 8 0 r).1 :: addScramble (genBits 8 0 r).2 rest

/-- The seed of a frame whose counter is `n` (R148). -/
def trbSeed (n : Nat) : Nat := n * 2 ^ 15 + 0x7FFF

/-- `n` bits through the self-synchronous x⁵⁸ + x³⁹ + 1 scrambler (R169, Clause 49), the octet's first bit its least
significant: the bits out, and the last 58 bits on the line, newest lowest. -/
def selfScramble (send : Bool) : Nat → Nat → Nat → Nat × Nat
  | 0, h, _ => (0, h)
  | n + 1, h, b =>
    let o := (b % 2 + h / 2 ^ 57 + h / 2 ^ 38) % 2
    let r := selfScramble send n ((2 * h + if send then o else b % 2) % 2 ^ 58) (b / 2)
    (o + 2 * r.1, r.2)

/-- Payload bytes of successive blocks through the scrambler (`send`) or the descrambler, from the 58 line bits before them. -/
def selfScrambleBytes (send : Bool) : Nat → List Nat → List Nat
  | _, [] => []
  | h, b :: rest =>
    let r := selfScramble send 8 h b
    r.1 :: selfScrambleBytes send r.2 rest

/-! ### Tributary links -/

/-- The nominal rate of a PDH circuit, b/s (Table 05-6). -/
def pdhRate (kind : Nat) : Nat :=
  match kind with
  | 1 => 2048000
  | 2 => 1544000
  | 3 => 34368000
  | 4 => 44736000
  | _ => 0

/-- A circuit's nominal COUNT (Table 05-6). -/
def nominalCount (kind : Nat) : Nat := pdhRate kind / Config.secondCycles

/-- Slots of a layout (R146). -/
def trbSlots (layout : Nat) : Nat := if layout = 1 then 6 else 128

/-- Bytes of a slot's data area (R147). -/
def slotBytes (layout : Nat) : Nat := if layout = 1 then 704 else 35

/-- The byte at which a slot begins (Table 05-4). -/
def slotAt (layout slot : Nat) : Nat := 12 + (slotBytes layout + 2) * slot

/-- A slot of a tributary-link frame (Table 05-5): its control word and its data area. -/
structure TrbSlot where
  los    : Bool
  active : Bool
  count  : Nat
  data   : List Nat
  deriving DecidableEq, Repr

/-- A tributary-link frame (Table 05-4): byte 4, the frame counter, the link status, the slots in order, and whether the CRC
over bytes 4 to 4,855 passed. -/
structure TrbFrame where
  word    : Bool
  layout  : Nat
  counter : Nat
  rla     : Bool
  farBad  : Bool
  slots   : List TrbSlot
  crcOk   : Bool
  deriving DecidableEq, Repr

/-- The framing word (Table 05-4). -/
def trbWord : List Nat := [0xF6, 0xF6, 0x28, 0x28]

/-- A slot's control word (Table 05-5). -/
def TrbSlot.control (q : TrbSlot) : Nat := q.count + 16384 * ofBool q.active + 32768 * ofBool q.los

/-- The slot that a control word and a data area spell. -/
def readSlot (layout : Nat) (b : List Nat) : TrbSlot :=
  let w := beNum (b.take 2)
  { los := bitOf w 15, active := bitOf w 14, count := w % (if layout = 1 then 8192 else 512), data := b.drop 2 }

/-- `n` slots of a layout from the bytes where the first begins. -/
def readSlots (layout : Nat) : Nat → List Nat → List TrbSlot
  | 0, _ => []
  | n + 1, b => readSlot layout (b.take (slotBytes layout + 2)) :: readSlots layout n (b.drop (slotBytes layout + 2))

/-- A received frame's bytes read under a layout (R145 to R148). -/
def readTrb (layout : Nat) (b : List Nat) : TrbFrame :=
  let plain := addScramble (trbSeed (b.getD 5 0)) (b.drop 6)
  let status := beNum (plain.take 2)
  { word := b.take 4 == trbWord, layout := b.getD 4 0, counter := b.getD 5 0, rla := bitOf status 0, farBad := bitOf status 1,
    slots := readSlots layout (trbSlots layout) (plain.drop 6),
    crcOk := beNum (plain.drop 4850) == crc32c (cut b 4 2 ++ plain.take 4850) }

/-- The bytes 4 to 4,855 of a frame before scrambling (Table 05-4). -/
def TrbFrame.body (f : TrbFrame) : List Nat :=
  let used := [f.layout, f.counter] ++ beBytes 2 (ofBool f.rla + 2 * ofBool f.farBad) ++ [0, 0, 0, 0] ++
    f.slots.flatMap (fun q => beBytes 2 q.control ++ q.data)
  used ++ List.replicate (4852 - used.length) 0

/-- A frame's bytes as they are sent (R145 to R148). -/
def TrbFrame.bytes (f : TrbFrame) : List Nat :=
  let plain := f.body.drop 2 ++ beBytes 4 (crc32c f.body)
  trbWord ++ [f.layout, f.counter] ++ addScramble (trbSeed f.counter) plain

/-- The position at which bit `i` of a frame is sent (R145). -/
def trbBitPos (i : Nat) : Nat := i / 2

/-- Bit `i` of a frame, byte 0 bit 7 first (R145). -/
def trbBit (bytes : List Nat) (i : Nat) : Bool := bitOf (bytes.getD (i / 8) 0) (7 - i % 8)

/-! ### Ralale blocks -/

/-- The payload bytes of blocks after descrambling, from the 58 line bits before the first (R169). -/
def plainBytes (prior : Nat) (bs : List RlkBlock) : List Nat := selfScrambleBytes false prior (bs.flatMap (·.bytes))

/-- Blocks with an invalid sync header (Table 06-13). -/
def badHeaders (bs : List RlkBlock) : Nat := (bs.filter (fun b => b.sync != 1 && b.sync != 2)).length

/-- The blocks that plain bytes are sent in: sync header `first` for the first and 0b01 for the rest (R169, R170). -/
def sendBlocks (first prior : Nat) (plain : List Nat) : List RlkBlock :=
  let line := selfScrambleBytes true prior plain
  (List.range (plain.length / 8)).map (fun k =>
    { sync := if k = 0 then first else 1, bytes := cut line (8 * k) 8 })

/-- The marker word (Table 06-3). -/
def markerWord : List Nat := [0xD2, 0x6B, 0x3C, 0xE1]

/-- What a Ralale frame's marker and overhead say (Tables 06-3 and 06-4). `marker` says a marker stood at the place looked at;
`count` is byte 4, FCNT or MFI; `rc` holds RC_GOOD, RC_HDR_ERR, RC_COPY_LOST, RC_LATE and RC_BOTH_LOST. -/
structure RlkFrame where
  marker    : Bool
  markCrc   : Bool
  count     : Nat
  unit      : Nat
  paired    : Bool
  ohCrc     : Bool
  linkId    : Nat
  ql        : Nat
  rdi       : Bool
  dgasp     : Bool
  txStamp   : Nat
  rc        : List Nat
  worstCid  : Nat
  worstCnt  : Nat
  echoStamp : Nat
  echoAge   : Nat
  deriving DecidableEq, Repr

/-- The multiframe indicator (R188). -/
def RlkFrame.mfi (f : RlkFrame) : Nat := f.count % 8

/-- A frame's first eight blocks read, in EK7210 mode or the native one (R186, R188, Tables 06-3 and 06-4). -/
def readRlk (ek : Bool) (prior : Nat) (bs : List RlkBlock) : RlkFrame :=
  let b := plainBytes prior bs
  let o := b.drop 8
  let n (at_ w : Nat) : Nat := beNum (cut o at_ w)
  { marker := (match bs with | h :: _ => h.sync == (if ek then 1 else 2) | [] => false) && b.take 4 == markerWord,
    markCrc := crc16 (cut b 4 2) == beNum (cut b 6 2), count := b.getD 4 0, unit := b.getD 5 0 / 128 % 2,
    paired := bitOf (b.getD 5 0) 6, ohCrc := crc16 (o.take 54) == n 54 2, linkId := n 0 2, ql := o.getD 2 0 % 16,
    rdi := bitOf (o.getD 3 0) 0, dgasp := bitOf (o.getD 3 0) 1, txStamp := n 4 4,
    rc := [n 8 4, n 12 4, n 16 4, n 20 4, n 24 4], worstCid := n 28 2, worstCnt := n 30 2, echoStamp := n 32 4,
    echoAge := n 36 4 }

/-- The marker block's bytes (Table 06-3). -/
def RlkFrame.markerBytes (f : RlkFrame) : List Nat :=
  let id := [f.count, f.unit * 128 + ofBool f.paired * 64]
  markerWord ++ id ++ beBytes 2 (crc16 id)

/-- The overhead blocks' bytes (Table 06-4). -/
def RlkFrame.overheadBytes (f : RlkFrame) : List Nat :=
  let o := beBytes 2 f.linkId ++ [f.ql, ofBool f.rdi + 2 * ofBool f.dgasp] ++ beBytes 4 f.txStamp ++
    f.rc.flatMap (beBytes 4) ++ beBytes 2 f.worstCid ++ beBytes 2 f.worstCnt ++ beBytes 4 f.echoStamp ++
    beBytes 4 f.echoAge ++ List.replicate 14 0
  o ++ beBytes 2 (crc16 o)

/-- The first eight blocks of a frame as they are sent (R170). -/
def RlkFrame.blocks (f : RlkFrame) (ek : Bool) (prior : Nat) : List RlkBlock :=
  sendBlocks (if ek then 1 else 2) prior (f.markerBytes ++ f.overheadBytes)

/-! ### GFP -/

/-- What a GFP core header says (R265). -/
inductive CoreSays where
  | good (pli : Nat)
  | fixed (pli : Nat)
  | bad
  deriving DecidableEq, Repr

/-- A core header or type field agrees with its HEC: CRC-16 of x¹⁶ + x¹² + x⁵ + 1 from 0 (G.7041, by reference; log entry 61). -/
def hecOk (w : Nat) : Bool := crc16From 0 (beBytes 2 (w / 65536)) == w % 65536

/-- A core header as it stands on the line (Table 08-5): after XOR with 0xB6AB_31E0 its HEC agrees, or does so with one bit
changed, or with none. -/
def readCore (line : Nat) : CoreSays :=
  let w := Nat.xor line 0xB6AB31E0
  if hecOk w then .good (w / 65536)
  else match (List.range 32).find? (fun i => hecOk (Nat.xor w (2 ^ i))) with
    | some i => .fixed (Nat.xor w (2 ^ i) / 65536)
    | none => .bad

/-- A core header as it is sent (Table 08-5). -/
def sendCore (pli : Nat) : Nat := Nat.xor (pli * 65536 + crc16From 0 (beBytes 2 pli)) 0xB6AB31E0

/-- The type field and tHEC of a client frame and of a management frame with a UPI (Table 08-5). -/
def sendType (pti upi : Nat) : Nat :=
  let t := pti * 8192 + upi
  t * 65536 + crc16From 0 (beBytes 2 t)

/-! ### The copy report -/

/-- A copy report (Table 12-5): the reporter's unit and whether it is paired, good copies and copies not good of units A and B, and
the blocks lost on both legs. -/
structure CopyReport where
  unit   : Nat
  paired : Bool
  counts : List Nat
  lost   : Nat
  deriving DecidableEq, Repr

/-- The 64 bytes of a copy report, as PSI bytes 128 to 191 carry them (R399). -/
def CopyReport.bytes (c : CopyReport) : List Nat :=
  let b := [0xE5, 128 * c.unit + ofBool c.paired, 0, 0] ++ c.counts.flatMap (beBytes 4) ++ beBytes 4 c.lost ++ List.replicate 36 0
  b ++ beBytes 4 (crc32c b)

/-- A received copy report, accepted if its CRC passes (R399). -/
def readCopyReport (b : List Nat) : Option CopyReport :=
  if b.length = 64 && b.headD 0 = 0xE5 && crc32c (b.take 60) = beNum (b.drop 60) then
    some { unit := b.getD 1 0 / 128, paired := bitOf (b.getD 1 0) 0,
           counts := [beNum (cut b 4 4), beNum (cut b 8 4), beNum (cut b 12 4), beNum (cut b 16 4)], lost := beNum (cut b 20 4) }
  else none

/-! ### Tubs -/

/-- A tub (Tables 06-5 and 06-6): `hcrc` says its header check passed, `data` its 56 payload bytes. -/
structure Tub where
  hcrc    : Bool
  cid     : Nat
  seq     : Nat
  csf     : Bool
  resync  : Bool
  vbc     : Nat
  sop     : Bool
  eop     : Bool
  abort   : Bool
  data    : List Nat
  deriving DecidableEq, Repr

/-- A tub's eight blocks read (Tables 06-5 and 06-6). -/
def readTub (prior : Nat) (bs : List RlkBlock) : Tub :=
  let b := plainBytes prior bs
  let flags := b.getD 4 0
  { hcrc := crc16 (b.take 6) == beNum (cut b 6 2), cid := beNum (b.take 2), seq := beNum (cut b 2 2), csf := bitOf flags 5,
    resync := bitOf flags 3, vbc := b.getD 5 0, sop := bitOf flags 7, eop := bitOf flags 6, abort := bitOf flags 4,
    data := b.drop 8 }

/-- A tub's header and payload bytes (Tables 06-5 and 06-6). -/
def Tub.bytes (t : Tub) : List Nat :=
  let h := beBytes 2 t.cid ++ beBytes 2 t.seq ++
    [128 * ofBool t.sop + 64 * ofBool t.eop + 32 * ofBool t.csf + 16 * ofBool t.abort + 8 * ofBool t.resync, t.vbc]
  h ++ beBytes 2 (crc16 h) ++ t.data

/-- A tub's blocks as they are sent (R170). -/
def Tub.blocks (t : Tub) (prior : Nat) : List RlkBlock := sendBlocks 1 prior t.bytes

/-- The idle tub (R182). -/
def idleTub : Tub :=
  { hcrc := true, cid := 0xFFFF, seq := 0, csf := false, resync := false, vbc := 0, sop := false, eop := false, abort := false,
    data := List.replicate 56 0 }

/-- The `j`th tub of a TDM context from its origin (R184, R185, R192): CSF and all-ones while its source has failed. -/
def tdmTub (cid j : Nat) (failed resync : Bool) (bytes : List Nat) : Tub :=
  { hcrc := true, cid := cid, seq := j % 65536, csf := failed, resync := resync, vbc := 56, sop := false, eop := false,
    abort := false, data := if failed then List.replicate 56 0xFF else bytes }

/-- A packet cut into tubs, numbered from `j` (R184, R192). -/
def packetTubs (cid : Nat) (abort : Bool) : Nat → Nat → Bool → List Nat → List Tub
  | 0, _, _, _ => []
  | n + 1, j, first, bytes =>
    let part := bytes.take 56
    let last := bytes.length ≤ 56
    let t : Tub := { hcrc := true, cid := cid, seq := j % 65536, csf := false, resync := j < 8, vbc := part.length, sop := first,
                     eop := last, abort := last && abort, data := part ++ List.replicate (56 - part.length) 0 }
    t :: if last then [] else packetTubs cid abort n (j + 1) false (bytes.drop 56)

/-- The tub that tells of a failed packet flow client (R185). -/
def flowCsfTub (cid j : Nat) (resync : Bool) : Tub :=
  { hcrc := true, cid := cid, seq := j % 65536, csf := true, resync := resync, vbc := 1, sop := false, eop := false,
    abort := false, data := List.replicate 56 0 }

end Sys2Proof.Machine
end

