-- ==== Sys2Proof/Machine/MateWire.lean ====
section
/-! DEFINITION. The mate link's formats and the pin words, byte by byte, with their readers and writers: marker and overhead
(Table 12-1), messages and their payloads (Tables 12-2 to 12-4), pin words (Table 12-5a), HEALTH (Table 12-8) and the commit
record (Table 12-10). -/

namespace Sys2Proof.Machine

/-! ### Frames -/

/-- What a mate frame's marker and overhead say (Table 12-1). -/
structure MateFrame where
  marker    : Bool
  markCrc   : Bool
  laneNo    : Nat
  unit      : Nat
  role      : Nat
  ohCrc     : Bool
  cycle     : Nat
  parState  : Nat
  authority : Bool
  faulted   : Bool
  healthy   : Bool
  ql        : Nat
  echoCycle : Nat
  echoNs    : Nat
  inSync    : Nat
  timSel    : Nat
  deriving DecidableEq, Repr

/-- The marker word (Table 12-1). -/
def mateWord : List Nat := [0x6E, 0x1A, 0x93, 0xC5]

/-- A mate frame's first four blocks read (R387, Table 12-1). -/
def readMate (prior : Nat) (bs : List RlkBlock) : MateFrame :=
  let b := plainBytes prior bs
  let o := b.drop 8
  let st := o.getD 6 0
  { marker := (match bs with | h :: _ => h.sync == 2 | [] => false) && b.take 4 == mateWord,
    markCrc := crc16 (cut b 4 2) == beNum (cut b 6 2), laneNo := b.getD 4 0 % 8, unit := b.getD 4 0 / 128 % 2, role := b.getD 5 0,
    ohCrc := crc16 (o.take 22) == beNum (cut o 22 2), cycle := beNum (cut o 0 6), parState := st % 8, authority := bitOf st 3,
    faulted := bitOf st 4, healthy := bitOf st 5, ql := o.getD 7 0 % 16, echoCycle := beNum (cut o 8 4), echoNs := beNum (cut o 12 4),
    inSync := o.getD 16 0, timSel := o.getD 17 0 }

/-- The marker and overhead blocks' bytes (Table 12-1). -/
def MateFrame.bytes (f : MateFrame) : List Nat :=
  let id := [f.laneNo + 128 * f.unit, f.role]
  let o := beBytes 6 f.cycle ++ [f.parState + 8 * ofBool f.authority + 16 * ofBool f.faulted + 32 * ofBool f.healthy, f.ql] ++
    beBytes 4 f.echoCycle ++ beBytes 4 f.echoNs ++ [f.inSync, f.timSel, 0, 0, 0, 0]
  mateWord ++ id ++ beBytes 2 (crc16 id) ++ o ++ beBytes 2 (crc16 o)

/-- The first four blocks of a mate frame as they are sent (R387). -/
def MateFrame.blocks (f : MateFrame) (prior : Nat) : List RlkBlock := sendBlocks 2 prior f.bytes

/-! ### Messages -/

/-- A message header (Table 12-2). -/
def msgHeader (typ len seq addr : Nat) : List Nat :=
  let h := [typ, 0] ++ beBytes 2 len ++ beBytes 4 seq ++ beBytes 4 (addr / Config.cyclePos) ++ beBytes 2 (addr % Config.cyclePos)
  h ++ beBytes 2 (crc16 h)

/-- HCRC passes (R390). -/
def headOk (h : List Nat) : Bool := crc16 (h.take 14) == beNum (h.drop 14)

/-- A header's stream sequence, cycle bits [31:0] and position of sending (Table 12-2). -/
def headSeq (h : List Nat) : Nat := beNum (cut h 4 4)
def headCycle (h : List Nat) : Nat := beNum (cut h 8 4)
def headPos (h : List Nat) : Nat := beNum (cut h 12 2)

/-- HCRC and CRC-32C pass (R390). -/
def headGood (m : MsgHead) : Bool := headOk m.head && m.bodyOk
def textGood (t : MateText) : Bool :=
  headOk t.head && t.payload.length == beNum (cut t.head 2 2) && crc32c (t.head ++ t.payload) == t.crc

/-- Bytes padded with 0x00 to a block boundary (R390). -/
def padBlock (b : List Nat) : List Nat := b ++ List.replicate ((8 - b.length % 8) % 8) 0

/-- A message as it is sent (R390). -/
def messageBytes (typ seq addr : Nat) (payload : List Nat) : List Nat :=
  let b := msgHeader typ payload.length seq addr ++ payload
  padBlock (b ++ beBytes 4 (crc32c b))

/-- What stands at a block where a message could start is idle (R390). -/
def idleBlock (b : List Nat) : Bool := b.headD 0 == 0

/-- A GATE entry's 16 bytes (Table 12-4), and their reader. -/
def gateBytes (g : GateEntry) : List Nat :=
  beBytes 4 g.ctx ++ beBytes 2 g.frame ++ beBytes 2 g.decision ++ beBytes 4 g.upstream ++ beBytes 3 g.offset ++ [ofBool g.fill]
def readGate (b : List Nat) : GateEntry :=
  { ctx := beNum (cut b 0 4), frame := beNum (cut b 4 2), decision := beNum (cut b 6 2), upstream := beNum (cut b 8 4),
    offset := beNum (cut b 12 3), fill := bitOf (b.getD 15 0) 0 }
def readGates (b : List Nat) : List GateEntry := (List.range (b.length / 16)).map (fun i => readGate (cut b (16 * i) 16))

/-- A HEALTH payload (Table 12-8). -/
structure HealthMsg where
  verdict   : Nat
  faulted   : Bool
  healthy   : Bool
  joinReady : Bool
  good      : Nat
  miss      : Nat
  tests     : Nat
  failures  : Nat
  cfgCrc    : Nat
  epoch     : Nat
  stages    : Nat
  deriving DecidableEq, Repr

/-- The bytes of a HEALTH payload, and their reader (Table 12-8). -/
def HealthMsg.bytes (p : HealthMsg) : List Nat :=
  [p.verdict, ofBool p.faulted + 2 * ofBool p.healthy + 4 * ofBool p.joinReady, 0, 0] ++ beBytes 4 p.good ++ beBytes 4 p.miss ++
    beBytes 4 p.tests ++ beBytes 2 p.failures ++ [0, 0] ++ beBytes 4 p.cfgCrc ++ beBytes 8 p.epoch ++ beBytes 2 p.stages
def readHealth (b : List Nat) : HealthMsg :=
  { verdict := b.getD 0 0, faulted := bitOf (b.getD 1 0) 0, healthy := bitOf (b.getD 1 0) 1, joinReady := bitOf (b.getD 1 0) 2,
    good := beNum (cut b 4 4), miss := beNum (cut b 8 4), tests := beNum (cut b 12 4), failures := beNum (cut b 16 2),
    cfgCrc := beNum (cut b 20 4), epoch := beNum (cut b 24 8), stages := beNum (cut b 32 2) }

/-- The TYPE of a message (Table 12-3); 0 for a pin word. -/
def MateMsg.typ : MateMsg → Nat
  | .grant .. => 1
  | .ack .. => 2
  | .surrender .. => 3
  | .claim .. => 4
  | .health .. => 5
  | .forward .. => 6
  | .place .. => 7
  | .placeAck .. => 8
  | .ctrlImage .. => 9
  | .gate .. => 10
  | .stateCopy .. => 11
  | .stateAck .. => 13
  | .drill .. => 14
  | .pinWord .. => 0

/-- The payload of a message whose layout Table 12-3 gives. -/
def MateMsg.payload : MateMsg → Option (List Nat)
  | .grant c => some (beBytes 8 (stampOf (c * Config.cyclePos)) ++ [64, 16] ++ List.replicate 6 0)
  | .ack c l => some (beBytes 8 (stampOf (c * Config.cyclePos)) ++ ofBool l :: List.replicate 7 0)
  | .surrender c a => some (c :: List.replicate 7 0 ++ beBytes 8 (stampOf a))
  | .claim c a e n => some (c :: List.replicate 7 0 ++ beBytes 8 (stampOf a) ++ beBytes 8 e ++ (leBytes 14 n ++ [0, 0]))
  | .health b => some b
  | .gate l => some (l.flatMap gateBytes)
  | .stateAck st v => some (beBytes 8 st ++ [v])
  | _ => none

/-- A message's bytes as they stand on a lane (R390), where Table 12-3 gives its layout. -/
def SentMsg.bytes (x : SentMsg) : Option (List Nat) := x.msg.payload.map (messageBytes x.msg.typ x.seq x.addr)

/-- The commit record that a plaintext spells (Table 12-10). -/
def readCommit (b : List Nat) : CommitRec :=
  let base := leNum (cut b 8 8)
  { stamp := addrOfStamp (leNum (cut b 0 8)), base := if base = 0 then none else some (addrOfStamp base), count := leNum (cut b 16 4),
    length := leNum (cut b 20 4), crc := leNum (cut b 24 4), firstIv := leNum (cut b 28 4) }

/-! ### Pin words -/

/-- CRC-8, polynomial 0x07, over one byte (Table 12-5a). -/
def crc8Byte (c b : Nat) : Nat :=
  (List.range 8).foldl (fun x _ => if 128 ≤ x then Nat.xor (x * 2 % 256) 7 else x * 2) (Nat.xor c b)

/-- A pin word (Table 12-5a). -/
def pinWord (kind cause cycle : Nat) : Nat :=
  let top := kind * 2 ^ 20 + cause % 16 * 2 ^ 16 + cycle % 65536
  top * 256 + crc8Byte (crc8Byte (crc8Byte 0 (top / 65536)) (top / 256 % 256)) (top % 256)

/-- The 68 chips of a pin word (R401): four high, then each bit, most significant first, as itself and its inverse. -/
def pinChips (w : Nat) : List Bool :=
  List.replicate 4 true ++ ((List.range 32).map (fun i => bitOf w (31 - i))).flatMap (fun b => [b, !b])

/-- The bits that Manchester chips spell; none where a pair does not change. -/
def unManchester : List Bool → Option (List Bool)
  | [] => some []
  | [_] => none
  | a :: b :: rest => if a = b then none else (unManchester rest).map (a :: ·)

/-- The word that 68 chips spell (R401). -/
def readChips (l : List Bool) : Option Nat :=
  if l.take 4 = List.replicate 4 true then (unManchester (l.drop 4)).map ofMsb else none

end Sys2Proof.Machine
end

