-- ==== Sys2Proof/Machine/Queues.lean ====
section
/-! DEFINITION. The queue manager (R475 to R499): writing, reading, thresholds, drops, marks, the pointer
guard and the queue commands. -/

namespace Sys2Proof.Machine

/-! ### A queue -/

/-- A queue's region in words (R477). -/
def QSt.size (q : QSt) : Nat := 2 ^ q.k

/-- The modulus of a queue's pointers, of k + 1 bits (R496). -/
def QSt.modulus (q : QSt) : Nat := 2 ^ (q.k + 1)

/-- Words from one pointer to another. -/
def QSt.dist (q : QSt) (a b : Nat) : Nat := (b + q.modulus - a) % q.modulus

/-- Depth (R485): from the mark in hold-mark mode with a mark set, otherwise from the read pointer. -/
def QSt.depth (q : QSt) : Nat :=
  match q.mark with
  | some m => if q.hold then q.dist m q.wp else q.dist q.rp q.wp
  | none => q.dist q.rp q.wp

/-- The pointer up to which words are readable (R480, R482): a packet whose slot is not filled, and an
open word of a record queue, are absent. -/
def QSt.readLimit (q : QSt) : Nat :=
  match q.pkt with
  | some p => p
  | none => if q.openAt.isSome then (q.wp + q.modulus - 1) % q.modulus else q.wp

/-- Readable words. -/
def QSt.readable (q : QSt) : Nat := q.dist q.rp q.readLimit

/-- The word at a pointer. -/
def QSt.word (q : QSt) (p : Nat) : QWord := tget { data := [] } q.slots (p % q.size)

/-- The queue with the word at a pointer replaced. -/
def QSt.setWord (q : QSt) (p : Nat) (w : QWord) : QSt := { q with slots := tset q.slots (p % q.size) w }

/-- The pointer after `p`. -/
def QSt.after (q : QSt) (p : Nat) : Nat := (p + 1) % q.modulus

/-- A stored word as it reaches a ring: 64 bytes, padded as R478 says. -/
def QSt.padded (q : QSt) (w : QWord) : List Nat :=
  (w.data ++ List.replicate 64 (if q.packet then 0 else 0xFF)).take 64

/-- Words of a packet of LENGTH bytes (R479). -/
def packetWords (len : Nat) : Nat := (len + 71) / 64

/-! ### Queues of the block -/

/-- Queue `n`, where it exists. -/
def State.queue (s : State) (n : Nat) : Option QSt := tfind s.qmg.qs n

/-- The state with queue `n` replaced. -/
def State.setQueue (s : State) (n : Nat) (q : QSt) : State :=
  { s with qmg := { s.qmg with qs := tset s.qmg.qs n q } }

/-- The data queue bound to hardware queue `n`. -/
def State.boundTo (s : State) (n : Nat) : Option (Nat × DqSt) := s.qmg.dqs.find? (fun e => e.2.q == n)

/-- The state with data queue `d` replaced. -/
def State.setDq (s : State) (d : Nat) (x : DqSt) : State :=
  { s with qmg := { s.qmg with dqs := tset s.qmg.dqs d x } }

/-- Back-pressure is forced on a queue (Table 20-3). -/
def State.pressed (s : State) (n : Nat) : Bool :=
  s.perturbed 1 && s.rd Reg.TST_BP_Q_FIRST 0 ≤ n && n < s.rd Reg.TST_BP_Q_FIRST 0 + s.rd Reg.TST_BP_Q_COUNT 0

/-- Q_HIGH and Q_FULL follow the depth (R486): HIGH is reported at each setting and clearing, FULL on
entry and not again before HIGH has cleared. A test holds HIGH set whatever the depth (Table 20-3). -/
def State.judgeQueue (s : State) (n : Nat) : State :=
  match s.queue n with
  | none => s
  | some q =>
    let d := q.depth
    let full := d == q.size
    let sets := !q.isHigh && (decide (q.high ≤ d) || s.pressed n)
    let clears := q.isHigh && decide (d ≤ q.low) && !s.pressed n
    let high := sets || (q.isHigh && !clears)
    let tell := full && !q.isFull && !q.fullSaid
    let q1 : QSt := { q with isHigh := high, isFull := full, fullSaid := (q.fullSaid && !clears) || tell }
    let s0 := s.setQueue n q1
    let s1 := if sets && d < q.high then s0.count Reg.TST_PERTURB_CNT 0 else s0
    let s2 := s1.raiseIf (sets || clears) Ev.Q_HIGH (srcQueue n) [(1, ofBool sets), (4, d)]
    s2.raiseIf tell Ev.Q_FULL (srcQueue n) [(4, q.size)]

/-- Queues of the back-pressure range are judged again (Table 20-3). -/
def State.judgePressed (s : State) : State :=
  let first := s.rd Reg.TST_BP_Q_FIRST 0
  let l := (s.qmg.qs.map (·.1)).filter (fun n => decide (first ≤ n && n < first + s.rd Reg.TST_BP_Q_COUNT 0))
  l.foldl State.judgeQueue s

/-- The perturbations of TST_EN take effect once the boundary after arming, or after a change of TST_EN, is reached (R615,
R616); a check-result perturbation that has altered all its results stays ended. -/
def State.tstTake (s : State) : State :=
  match s.bkg.tstFrom with
  | none => s
  | some a =>
    if s.addr < a || !s.bkg.armed then s
    else
      let en := s.rd Reg.TST_EN 0
      let spent := s.rd Reg.TST_CHECK_COUNT 0 ≤ s.bkg.altered
      let s1 : State := { s with bkg := { s.bkg with tstFrom := none } }
      (s1.wr Reg.TST_ACTIVE 0 (if spent then setBit en 4 false else en)).judgePressed

/-- The Q_DROP of a window that has ended (R488). -/
def State.endWindow (s : State) (n : Nat) (q : QSt) (k : Nat) : State :=
  (s.setQueue n { q with window := none }).raise Ev.Q_DROP (srcQueue n) [(4, k), (1, ofBool q.packet)]

/-- A packet or record is dropped and counted; the first drop after a window opens the next (R488). -/
def State.dropOne (s : State) (n : Nat) : State :=
  match s.queue n with
  | none => s
  | some q0 =>
    let s0 := match q0.window with
      | some (t, k) => if t + Config.secondPos ≤ s.time then s.endWindow n q0 k else s
      | none => s
    let q := tget q0 s0.qmg.qs n
    let q1 : QSt := { q with
        drops := min (q.drops + 1) (2 ^ 32 - 1),
        window := match q.window with
          | none => some (s.time, 1)
          | some (t, k) => some (t, k + 1) }
    (s0.setQueue n q1).count Reg.QMG_DROP_CNT 0

/-- A packet in progress is abandoned: its words are given back (R481). -/
def State.abandon (s : State) (n : Nat) : State :=
  match s.queue n with
  | none => s
  | some q =>
    match q.pkt with
    | none => s.count Reg.QMG_ABORT_CNT 0
    | some p => (s.setQueue n { q with wp := p, pkt := none, pktLen := 0, left := 0 }).count Reg.QMG_ABORT_CNT 0

/-- A new word is written at the write pointer, with the loss test of R492. `none` where the queue is
full (R488). -/
def State.newWord (s : State) (n : Nat) (w : QWord) : Option State :=
  match s.queue n with
  | none => none
  | some q =>
    if q.depth = q.size then none
    else
      let q1 := { q.setWord q.wp w with wp := q.after q.wp }
      match q.mark with
      | some m =>
        if !q.hold && q.dist m q.wp == q.size then
          some (((s.setQueue n { q1 with mark := none, markLost := true }).count Reg.QMG_MARK_LOST_CNT 0).raise
            Ev.Q_MARK_LOST (srcQueue n) [(4, m), (4, q1.wp)])
        else some (s.setQueue n q1)
      | none => some (s.setQueue n q1)

/-- A write that finds the queue full in packet mode: the packet is abandoned and dropped whole (R488). -/
def State.dropPacket (s : State) (n : Nat) (last : Bool) : State :=
  let s1 := (s.abandon n).dropOne n
  match s1.queue n with
  | none => s1
  | some q => s1.setQueue n { q with skip := !last }

/-- The bytes of a packet appended to the open word, in pieces of the room left (R478). -/
def State.appendBytes (s : State) (n : Nat) : List Nat → Option State
  | [] => some s
  | b :: rest =>
    match s.queue n with
    | none => none
    | some q =>
      let lastP := (q.wp + q.modulus - 1) % q.modulus
      let w := q.word lastP
      if w.data.length < 64 then
        State.appendBytes (s.setQueue n (q.setWord lastP { w with data := w.data ++ [b] })) n rest
      else
        match s.newWord n { data := [b] } with
        | none => none
        | some s1 => State.appendBytes s1 n rest

/-- A packet starts: a word with SOP and the reserved length slot (R479). -/
def State.startPacket (s : State) (n : Nat) : Option State :=
  match s.queue n with
  | none => none
  | some q =>
    match s.newWord n { data := List.replicate 8 0, sop := true } with
    | none => none
    | some s1 =>
      match s1.queue n with
      | none => none
      | some q1 => some (s1.setQueue n { q1 with pkt := some q.wp, pktLen := 0 })

/-- The length slot is filled, which makes the packet readable (R480, Table 15-4). -/
def State.endPacket (s : State) (n status tag : Nat) : State :=
  match s.queue n with
  | none => s
  | some q =>
    match q.pkt with
    | none => s
    | some p =>
      let lastP := (q.wp + q.modulus - 1) % q.modulus
      let q1 := q.setWord lastP { q.word lastP with eop := true }
      let w := q1.word p
      let slot := leBytes 4 q.pktLen ++ [status % 256, 0] ++ leBytes 2 tag
      let q2 := q1.setWord p { w with data := slot ++ w.data.drop 8 }
      s.setQueue n { q2 with pkt := none, pktLen := 0 }

/-- A narrow write in packet mode. -/
def State.writePacket (s : State) (n : Nat) (w : QWrite) (q : QSt) : State :=
  if q.skip then s.setQueue n { q with skip := !(w.last || w.abort) }
  else if w.abort then (if q.pkt.isSome then s.abandon n else s)
  else
    match (if q.pkt.isSome then some s else s.startPacket n) with
    | none => s.dropPacket n w.last
    | some s1 =>
      match s1.appendBytes n w.bytes with
      | none => s1.dropPacket n w.last
      | some s2 =>
        let s3 := match s2.queue n with
          | none => s2
          | some q3 => s2.setQueue n { q3 with pktLen := q3.pktLen + w.bytes.length }
        if w.last then s3.endPacket n w.status w.tag else s3

/-- A record in record mode (R482): into the open word where it fits, otherwise into a new one. -/
def State.writeRecord (s : State) (n : Nat) (bytes : List Nat) (q : QSt) : State :=
  let lastP := (q.wp + q.modulus - 1) % q.modulus
  let w := q.word lastP
  if q.openAt.isSome && decide (w.data.length + bytes.length ≤ 64) then
    let d := w.data ++ bytes
    s.setQueue n { q.setWord lastP { w with data := d } with
      openAt := if d.length = 64 then none else q.openAt }
  else
    match s.newWord n { data := bytes } with
    | none => s.dropOne n
    | some s1 =>
      match s1.queue n with
      | none => s1
      | some q1 => s1.setQueue n { q1 with openAt := if bytes.length = 64 then none else some s.cycle }

/-- A wide word of a packet as the host writes it (R484): the first word's length slot is filled already,
and a packet whose LENGTH is 0 or too large for the queue is discarded and counted as a drop. -/
def State.writeWide (s : State) (n : Nat) (bytes : List Nat) (q : QSt) : State :=
  if 0 < q.left then
    let q1 : QSt := { q with left := q.left - 1 }
    if q.skip then s.setQueue n { q1 with skip := decide (0 < q1.left) }
    else
      let endsHere := q1.left == 0
      let vbc := if endsHere then (q.pktLen + 7) % 64 + 1 else 64
      match (s.setQueue n q1).newWord n { data := bytes.take vbc, eop := endsHere } with
      | none => (s.setQueue n q1).dropPacket n endsHere
      | some s1 =>
        match s1.queue n with
        | none => s1
        | some q2 => if endsHere then s1.setQueue n { q2 with pkt := none, pktLen := 0 } else s1
  else
    let len := leNum (bytes.take 4)
    let words := packetWords len
    if len = 0 || 65535 < len || q.size < words then
      let s1 := s.dropOne n
      match s1.queue n with
      | none => s1
      | some q1 =>
        let more := if len = 0 || 65535 < len then 0 else words - 1
        s1.setQueue n { q1 with left := more, skip := decide (0 < more) }
    else
      let one := words == 1
      let vbc := if one then (len + 7) % 64 + 1 else 64
      match s.newWord n { data := bytes.take vbc, sop := true, eop := one } with
      | none =>
        let s1 := s.dropPacket n one
        match s1.queue n with
        | none => s1
        | some q1 => s1.setQueue n { q1 with left := words - 1 }
      | some s1 =>
        match s1.queue n with
        | none => s1
        | some q1 => s1.setQueue n { q1 with
            pkt := if one then none else some q.wp, pktLen := if one then 0 else len, left := words - 1 }

/-- A writer that can wait is held back while QMG_Q_HIGH is set (R487, Table 15-2). -/
def QSt.heldBack (q : QSt) : Bool := q.isHigh && (q.writer == 4 || q.writer == 7)

/-- One write to a queue. A queue that is resetting drops it (R496). -/
def State.writeQueue (s : State) (n : Nat) (w : QWrite) : State :=
  match s.queue n with
  | none => s
  | some q =>
    if q.resetting then
      if w.last || w.wide || !q.packet then s.dropOne n else s
    else
      let s1 :=
        if q.packet then (if w.wide then s.writeWide n w.bytes q else s.writePacket n w q)
        else if w.wide then
          (match s.newWord n { data := w.bytes.take 64 } with
            | none => s.dropOne n
            | some s1 => s1)
        else s.writeRecord n w.bytes q
      s1.judgeQueue n

/-- A record written to a queue by a part of the device. -/
def State.pushRecord (s : State) (n : Nat) (bytes : List Nat) : State :=
  s.writeQueue n { bytes := bytes, wide := false, last := true, abort := false, status := 0, tag := 0 }

/-- A binary number in Gray code (R496). -/
def gray (b : Nat) : Nat := Nat.xor b (b / 2)

/-- A queue is reset (R496). Its data queue, where one is bound, reports RESET; one from the host also
discards the words not yet taken. -/
def State.resetQueue (s : State) (n : Nat) : State :=
  match s.queue n with
  | none => s
  | some q =>
    let q1 : QSt := { q with
        wp := 0, rp := 0, mark := none, markLost := false, slots := [], pkt := none, pktLen := 0,
        skip := false, left := 0, openAt := none, isHigh := false, isFull := false, fullSaid := false,
        resets := min (q.resets + 1) (2 ^ 32 - 1), resetting := true }
    let s1 := (s.setQueue n q1).count Reg.QMG_PTR_RESET_CNT 0
    match s1.boundTo n with
    | none => s1
    | some (d, x) => s1.setDq d { x with reset := true, dev := if x.toHost then x.dev else x.host }

/-- A queue's reset ends. -/
def State.endQueueReset (s : State) (n : Nat) : State :=
  match s.queue n with
  | none => s
  | some q => s.setQueue n { q with resetting := false }

/-- The CRC-32C register run on over more bytes (R454). -/
def crcRun (c : Nat) (bs : List Nat) : Nat :=
  bs.foldl (fun c b => crcBit (crcBit (crcBit (crcBit (crcBit (crcBit (crcBit (crcBit (Nat.xor c b))))))))) c

/-- A word read from a queue for the host is copied into the data queue's ring. -/
def State.copyWord (s : State) (d : Nat) (x : DqSt) (bytes : List Nat) : State :=
  (s.hostWrite (x.base + 64 * (x.dev % 2 ^ x.size)) bytes).setDq d
    { x with dev := (x.dev + 1) % 2 ^ 32, words := x.words + 1, crc := crcRun x.crc bytes }

/-- The host's ring of a data queue has room, or holds a word, that the device may use now (R444). -/
def State.dqCanMove (s : State) (x : DqSt) : Bool :=
  s.mayUseHost && decide (s.io.resumeAt ≤ s.addr) && (if x.toHost then (x.dev + 2 ^ 32 - x.host) % 2 ^ 32 < 2 ^ x.size else x.dev != x.host)

/-! ### The meanings -/

/-- QUEUE_PUSH (R478 to R488): one write. A writer that can wait is held back while QMG_Q_HIGH is set; a
queue fed by a data queue takes the host's next word. -/
def execQueuePush (dt q : Nat) (w : QWrite) (s : State) : Host.Outcome State Fault Refusal :=
  let s1 := s.elapse dt
  .next (match s1.queue q with
    | none => s1
    | some x =>
      if x.heldBack then s1
      else
        match s1.boundTo q with
        | some (d, b) =>
          if b.toHost then s1.writeQueue q w
          else if s1.dqCanMove b then
            (s1.setDq d { b with dev := (b.dev + 1) % 2 ^ 32, words := b.words + 1 }).writeQueue q
              { w with wide := true }
          else s1
        | none => (s1.setQueue q { x with writer := if x.writer = 0 then 4 else x.writer }).writeQueue q w)

/-- QUEUE_FLUSH (R482): a record word open for QMG_Q_FLUSH cycles closes short. -/
def execQueueFlush (dt q : Nat) (s : State) : Host.Outcome State Fault Refusal :=
  let s1 := s.elapse dt
  .next (match s1.queue q with
    | none => s1
    | some x =>
      match x.openAt with
      | none => s1
      | some c =>
        let s2 := s1.waitAddr (max s1.addr ((c + max 1 x.flush) * Config.cyclePos))
        (s2.setQueue q { x with openAt := none }).count Reg.QMG_FLUSH_CNT 0)

/-- Q_DROP (R488): a drop window of one second ends. -/
def execQDrop (dt q : Nat) (s : State) : Host.Outcome State Fault Refusal :=
  let s1 := s.elapse dt
  .next (match s1.queue q with
    | none => s1
    | some x =>
      match x.window with
      | none => s1
      | some (t, k) => (s1.elapse (t + Config.secondPos - s1.time)).endWindow q x k)

/-- Q_PTR_RESET (R496): the copies of a pointer differ, and the queue is reset. -/
def execQPtrReset (dt q which binary graycopy : Nat) (s : State) : Host.Outcome State Fault Refusal :=
  let s1 := s.elapse dt
  .next (if (s1.queue q).isSome then
    (s1.resetQueue q).raise Ev.Q_PTR_RESET (srcQueue q) [(1, which), (4, binary), (4, graycopy)]
    else s1)

/-- QUEUE_RESET_END (R496): a reset lasts until the next cycle boundary. -/
def execQueueResetEnd (dt q : Nat) (s : State) : Host.Outcome State Fault Refusal :=
  .next ((s.toBoundary dt Config.cyclePos).endQueueReset q)

/-- The reset domain of the queue manager (Table 16-6). -/
def domQmg : Nat := 9

/-- The filter channels' queues exist from the shaft's leaving HALTED (R107, R497); the place of a region is the device's
own choice (log entry 11). -/
def State.addFilterQueues (s : State) : State :=
  (List.range 48).foldl (fun a ch =>
    if ch = 19 || (a.queue (65488 + ch)).isSome then a
    else (a.setQueue (65488 + ch) { writer := 5, base := Config.freeChoice a.freeCtr % 2 ^ 32 }).draw) s

/-- A command naming a queue in reset is held until the reset ends (R496). -/
def State.awaitQueue (s : State) (q : Nat) : State :=
  match s.queue q with
  | none => s
  | some x => if x.resetting then (s.waitAddr (nextCycle s.addr)).endQueueReset q else s

/-- HBM bytes of the host queues' regions. -/
def State.hostHbm (s : State) : Nat :=
  ((s.qmg.qs.filter (fun e => e.2.host)).map (fun e => 64 * e.2.size)).sum

/-- QMG_Q_CREATE (Table 15-8): a host queue in HBM from the next cycle boundary. The place of its region
is the device's own choice (log entry 11). -/
def execQmgQCreate (dt : Nat) (h : HostRef) (p : QCreate) (s : State) : Host.Outcome State Fault Refusal :=
  .next (s.command dt h domQmg Op.QMG_Q_CREATE (fun a =>
    let packet := p.mode % 2 == 0
    let rec_ := p.mode / 2 % 4
    if p.q < a.rd Reg.QMG_HOST_BASE 0 || 65487 < p.q then a.refuse h Op.QMG_Q_CREATE 3
    else if (a.queue p.q).isSome then a.refuse h Op.QMG_Q_CREATE 4
    else if p.k < 8 || 22 < p.k || p.high ≤ p.low || 2 ^ p.k < p.high || (packet && rec_ != 0) then
      a.refuse h Op.QMG_Q_CREATE 2
    else if a.rd Reg.QMG_HOST_HBM 0 * 2 ^ 20 < a.hostHbm + 64 * 2 ^ p.k then a.refuse h Op.QMG_Q_CREATE 5
    else
      let b := a.waitAddr (nextCycle a.addr)
      let x : QSt := { packet := packet, recSize := 8 * 2 ^ rec_, hold := p.hold, hbm := true, host := true,
                       k := p.k, flush := max 1 p.flush, base := Config.freeChoice b.freeCtr % 2 ^ 32,
                       high := p.high, low := p.low }
      (b.setQueue p.q x).draw.done h Op.QMG_Q_CREATE))

/-- QMG_Q_DESTROY (Table 15-8, R497). -/
def execQmgQDestroy (dt : Nat) (h : HostRef) (q : Nat) (s : State) : Host.Outcome State Fault Refusal :=
  .next (s.command dt h domQmg Op.QMG_Q_DESTROY (fun a0 =>
    let a := a0.awaitQueue q
    match a.queue q with
    | none => a.refuse h Op.QMG_Q_DESTROY 1
    | some x =>
      if !x.host then a.refuse h Op.QMG_Q_DESTROY 3
      else if (a.boundTo q).isSome then a.refuse h Op.QMG_Q_DESTROY 9
      else { a with qmg := { a.qmg with qs := tdel a.qmg.qs q } }.done h Op.QMG_Q_DESTROY))

/-- QMG_Q_SET (Table 15-8): from the next cycle boundary. -/
def execQmgQSet (dt : Nat) (h : HostRef) (q high low : Nat) (hold holdValid : Bool) (s : State) :
    Host.Outcome State Fault Refusal :=
  .next (s.command dt h domQmg Op.QMG_Q_SET (fun a0 =>
    let a := a0.awaitQueue q
    match a.queue q with
    | none => a.refuse h Op.QMG_Q_SET 1
    | some x =>
      if high ≤ low || x.size < high then a.refuse h Op.QMG_Q_SET 2
      else if holdValid && !x.host then a.refuse h Op.QMG_Q_SET 3
      else
        let b := a.waitAddr (nextCycle a.addr)
        let x1 : QSt := { x with high := high, low := low, hold := if holdValid then hold else x.hold }
        ((b.setQueue q x1).judgeQueue q).done h Op.QMG_Q_SET))

/-- The queue state record (Table 15-7). -/
def State.queueRecord (s : State) (n : Nat) (q : QSt) : List Nat :=
  let recCode := if q.packet then 0 else if q.recSize = 8 then 0 else if q.recSize = 16 then 1
    else if q.recSize = 32 then 2 else 3
  let flags := ofBool (!q.packet) + 2 * recCode + 8 * ofBool q.hold + 16 * ofBool q.hbm +
    32 * ofBool q.host + 64 * ofBool (s.boundTo n).isSome + 128
  let status := ofBool q.isHigh + 2 * ofBool (q.depth == q.size) + 4 * ofBool q.mark.isSome +
    8 * ofBool q.resetting + 16 * ofBool q.heldBack
  let b := leBytes 2 n ++ [flags, q.k, q.writer, q.reader] ++ leBytes 2 q.flush ++ leBytes 4 q.base ++
    leBytes 4 q.high ++ leBytes 4 q.low ++ leBytes 4 q.wp ++ leBytes 4 q.rp ++
    leBytes 4 (q.mark.getD 0xFFFFFFFF) ++ leBytes 4 q.depth ++ leBytes 4 q.readable ++
    leBytes 4 q.drops ++ leBytes 4 q.resets ++ [status, 0, 0, 0] ++ leBytes 8 s.stamp
  b ++ leBytes 4 (crc32c b)

/-- QMG_Q_READ (Table 15-8): the record is written, then the command completes. -/
def execQmgQRead (dt : Nat) (h : HostRef) (q host : Nat) (s : State) : Host.Outcome State Fault Refusal :=
  .next (s.command dt h domQmg Op.QMG_Q_READ (fun a0 =>
    let a := a0.awaitQueue q
    match a.queue q with
    | none => a.refuse h Op.QMG_Q_READ 1
    | some x =>
      if host % 64 != 0 then a.refuse h Op.QMG_Q_READ 2
      else (a.hostWrite host (a.queueRecord q x)).done h Op.QMG_Q_READ))

/-- QMG_MARK (R491): sets the mark at the read pointer, or clears it, which frees held words. -/
def execQmgMark (dt : Nat) (h : HostRef) (q on : Nat) (s : State) : Host.Outcome State Fault Refusal :=
  .next (s.command dt h domQmg Op.QMG_MARK (fun a0 =>
    let a := a0.awaitQueue q
    match a.queue q with
    | none => a.refuse h Op.QMG_MARK 1
    | some x =>
      if x.reader != 7 then a.refuse h Op.QMG_MARK 6
      else
        let x1 : QSt := { x with mark := if on = 1 then some x.rp else none, markLost := false }
        ((a.setQueue q x1).judgeQueue q).done h Op.QMG_MARK))

/-- QMG_REWIND (R491, R492): back to the mark, which stays set. -/
def execQmgRewind (dt : Nat) (h : HostRef) (q : Nat) (s : State) : Host.Outcome State Fault Refusal :=
  .next (s.command dt h domQmg Op.QMG_REWIND (fun a0 =>
    let a := a0.awaitQueue q
    match a.queue q with
    | none => a.refuse h Op.QMG_REWIND 1
    | some x =>
      if x.reader != 7 then a.refuse h Op.QMG_REWIND 6
      else
        match x.mark with
        | none => a.refuse h Op.QMG_REWIND (if x.markLost then 8 else 7)
        | some m => ((a.setQueue q { x with rp := m }).judgeQueue q).done h Op.QMG_REWIND))

/-- Words from a pointer to the word after the next EOP, among at most `fuel`. -/
def QSt.restOfPacket (q : QSt) : Nat → Nat → Nat
  | 0, _ => 0
  | fuel + 1, p => if (q.word p).eop then 1 else q.restOfPacket fuel (q.after p) + 1

/-- Words of the packet in progress before a pointer, among at most `fuel`. -/
def QSt.takenBefore (q : QSt) : Nat → Nat → Nat
  | 0, _ => 0
  | fuel + 1, p =>
    let b := (p + q.modulus - 1) % q.modulus
    if (q.word b).sop then 1 else q.takenBefore fuel b + 1

/-- QMG_DROP_REST (R490): the rest of the packet being read is discarded; the copy in the ring ends short,
with its length word rewritten. -/
def execQmgDropRest (dt : Nat) (h : HostRef) (q : Nat) (s : State) : Host.Outcome State Fault Refusal :=
  .next (s.command dt h domQmg Op.QMG_DROP_REST (fun a0 =>
    let a := a0.awaitQueue q
    match a.queue q with
    | none => a.refuse h Op.QMG_DROP_REST 1
    | some x =>
      if x.reader != 7 then a.refuse h Op.QMG_DROP_REST 6
      else if !x.packet || x.readable = 0 || (x.word x.rp).sop then a.complete h Op.QMG_DROP_REST 1 10 []
      else
        let n := x.restOfPacket x.readable x.rp
        let b := a.setQueue q { x with rp := (x.rp + n) % x.modulus }
        let c := match a.boundTo q with
          | none => b
          | some (_, d) =>
            let first := x.word ((x.rp + x.modulus - x.takenBefore x.size x.rp) % x.modulus)
            let slot := leBytes 4 (64 * x.takenBefore x.size x.rp - 8) ++
              [(setBit (first.data.getD 4 0) 1 true)] ++ (first.data.take 8).drop 5
            b.hostWrite (d.base + 64 * (x.firstIdx % 2 ^ d.size)) slot
        (c.judgeQueue q).complete h Op.QMG_DROP_REST 0 0 [(4, n)]))

/-- QMG_Q_RESET (R496): a forced reset of a host queue or a data queue. -/
def execQmgQReset (dt : Nat) (h : HostRef) (q : Nat) (s : State) : Host.Outcome State Fault Refusal :=
  .next (s.command dt h domQmg Op.QMG_Q_RESET (fun a0 =>
    let a := a0.awaitQueue q
    match a.queue q with
    | none => a.refuse h Op.QMG_Q_RESET 1
    | some x =>
      if !x.host && (a.boundTo q).isNone then a.refuse h Op.QMG_Q_RESET 3
      else ((a.resetQueue q).raiseC Ev.Q_PTR_RESET (srcQueue q) [(1, 3), (4, x.wp), (4, gray x.wp)]).done h
        Op.QMG_Q_RESET))

end Sys2Proof.Machine
end

