-- ==== Sys2Proof/Machine/Timing.lean ====
section
/-! DEFINITION. The timing block (R54 to R103): candidates, quality levels, selection, the DPLL, holdover
and its model, steering, time of day and the outputs derived from it. -/

namespace Sys2Proof.Machine

/-! ### Sources of candidates -/

/-- A candidate before anything is written: its fields have their reset values (Table 03-11). -/
def candStart (n : Nat) : CandSt :=
  { cfg := { bw := if n < 16 then 3 else if n < 18 then 2 else 0, pbo := decide (n < 18) } }

/-- A candidate's state beside its registers. -/
def State.cand (s : State) (n : Nat) : CandSt := tget (candStart n) s.tim.cands n

/-- The state with a candidate changed. -/
def State.setCand (s : State) (n : Nat) (c : CandSt) : State :=
  { s with tim := { s.tim with cands := tset s.tim.cands n c } }

/-- TIM_CAND_STATE of a candidate (Table 03-2): 0 DISABLED, 1 FAILED, 2 QUALIFYING, 3 QUALIFIED, 4 WTR,
5 LOCKED_OUT. -/
def State.candState (s : State) (n : Nat) : Nat := s.rd Reg.TIM_CAND_STATE n

/-- The end of a context that is a slot of a tributary link: where it comes from, or where it leaves. -/
def Ctx.trbEnd (x : Ctx) : Endpoint := if x.endpoint.typ = 2 then x.endpoint else x.out

/-- The context is placed on a tributary link. -/
def Ctx.onTrb (x : Ctx) (link : Nat) : Bool := x.active && x.trbEnd.typ == 2 && x.trbEnd.lane == link

/-- The active context placed as a PDH circuit on a slot of a tributary link (R55). -/
def State.circuitAt (s : State) (link slot : Nat) : Option (Nat × Ctx) :=
  s.ovm.ctxs.find? (fun e => e.2.onTrb link && 1 ≤ e.2.kind && e.2.kind ≤ 4 && e.2.trbEnd.idx == slot)

/-- The lane index that a line-derived candidate's source names, for an ACC or UPL lane. -/
def CandSt.laneIndex (c : CandSt) : Nat := if c.kind = 1 then 48 + c.lane else c.lane

/-- The source fields name a lane or channel that does not exist (R55). -/
def State.sourceMissing (s : State) (n : Nat) (c : CandSt) : Bool :=
  n < 16 && (match c.kind with
    | 0 => 48 ≤ c.lane
    | 1 => 24 ≤ c.lane
    | 2 => 32 ≤ c.lane
    | _ => 32 ≤ c.lane || (if s.rd Reg.PRT_TRB_LAYOUT c.lane = 1 then 6 else 128) ≤ c.chan)

/-- Two sets of source fields are equal (R65). -/
def CandSt.sameFields (a b : CandSt) : Bool := a.kind == b.kind && a.lane == b.lane && a.chan == b.chan

/-- Two line-derived candidates name the same source (R55). -/
def CandSt.sameSource (a b : CandSt) : Bool :=
  a.kind == b.kind && a.lane == b.lane && (a.kind != 3 || a.chan == b.chan)

/-- A lane's signal defect as Table 03-3 lists it for the lane's mode. A source that is not up counts as
one (R59). -/
def State.laneDefect (s : State) (l : Nat) : Bool :=
  let mode := s.rd Reg.PRT_LANE_MODE l
  let p := s.portFirst l
  !s.rdBit Reg.PRT_LANE_READY l || s.rdBit Reg.PRT_LANE_LOS l || s.rdBit Reg.PRT_LANE_GATED l ||
  (if mode = 0 then true
   else if mode ≤ 4 then s.rdBit Reg.FRM_LANE_LOF l || s.rdBit Reg.FRM_LANE_AIS l
   else if mode = 5 || mode = 6 || mode = 11 || mode = 12 then
     s.rdBit Reg.FRM_LANE_LOF p || s.rdBit Reg.FRM_LANE_LOM p
   else if mode = 7 || mode = 8 then s.rdBit Reg.PRT_LANE_NO_BLOCK_LOCK l
   else if mode = 9 || mode = 10 then s.rdBit Reg.RLK_LFA l
   else true)

/-- A tributary link's own signal defect (Table 03-3). -/
def State.linkDefect (s : State) (l : Nat) : Bool :=
  !s.rdBit Reg.PRT_TRB_EN l || s.prt.trbGated.contains l || s.rdBit Reg.PRT_TRB_LOS l || s.rdBit Reg.PRT_TRB_LLA l

/-- A PDH circuit's signal defect as a source (Table 03-3): its own LOS, LOF and AIS, and its link's. -/
def State.circuitDefect (s : State) (link slot : Nat) : Bool :=
  match s.circuitAt link slot with
  | none => true
  | some (c, _) =>
    let u := tget {} s.frm.units (srcCtx c)
    s.linkDefect link || s.rdBit Reg.PRT_TRB_MODE_MISMATCH link ||
    (tget {} s.prt.trb link).slotLos.contains slot ||
    u.declared.contains 0 || u.declared.contains 2 || u.declared.contains 5

/-- TIM_STEER_WDOG in positions: units of 100 ms, 1 to 600 (Table 03-11). -/
def State.wdogPos (s : State) : Nat := min 600 (max 1 (s.rd Reg.TIM_STEER_WDOG 0)) * 800 * Config.cyclePos

/-- A candidate's signal defect (Table 03-3, R59). -/
def State.candDefect (s : State) (n : Nat) : Bool :=
  let c := s.cand n
  if n < 16 then
    match c.kind with
    | 0 => s.laneDefect c.laneIndex
    | 1 => s.laneDefect c.laneIndex
    | 2 => s.linkDefect c.lane
    | _ => s.circuitDefect c.lane c.chan
  else if n = 16 then s.tim.noEdge.contains 16 || s.rd Reg.TIM_REFIN0_FREQ 0 = 3
  else if n = 17 then s.tim.noEdge.contains 17 || s.rd Reg.TIM_REFIN1_FREQ 0 = 3
  else if n = 18 then s.tim.noEdge.contains 18
  else match s.tim.steerAt with
    | none => true
    | some a => decide (a + s.wdogPos < s.addr)

/-! ### Quality levels -/

/-- The rank of a QL code under the option in force, best 0 (Table 03-5). A code not listed ranks with
DNU or DUS. -/
def qlRank (option ql : Nat) : Nat :=
  let order := if option = 0 then [0x2, 0x4, 0x8, 0xB] else [0x1, 0x0, 0x7, 0x4, 0xD, 0xA, 0xC, 0xE]
  order.idxOf ql

/-- The QL is DNU or DUS under the option in force, as any code not listed is (R67). -/
def State.qlUnusable (s : State) (ql : Nat) : Bool :=
  let option := s.rd Reg.TIM_QL_OPTION 0
  qlRank option ql == (if option = 0 then 4 else 8)

/-- The source of a candidate carries a QL (Table 03-6, R68). -/
def State.carriesQl (s : State) (n : Nat) : Bool :=
  let c := s.cand n
  n < 16 && (match c.kind with
    | 2 => false
    | 3 =>
      match s.circuitAt c.lane c.chan with
      | none => false
      | some (x, r) =>
        (r.kind == 1 && (tget {} s.frm.units (srcCtx x)).crc4) ||
        (r.kind == 2 && s.rd Reg.TIM_QL_OPTION 0 == 1 && !(tget {} s.frm.units (srcCtx x)).alt)
    | _ =>
      let mode := s.rd Reg.PRT_LANE_MODE c.laneIndex
      (1 ≤ mode && mode ≤ 4) || (7 ≤ mode && mode ≤ 10))

/-- The effective QL of a candidate (R68). -/
def State.effectiveQl (s : State) (n : Nat) : Nat :=
  let c := s.cand n
  if c.cfg.qlSrc = 0 && s.carriesQl n then c.qlRx.getD 0xF else c.cfg.qlFixed

/-- A change of effective QL is counted and reported while the candidate is enabled (R68). -/
def State.qlRefresh (s : State) (n : Nat) : State :=
  let old := s.rd Reg.TIM_CAND_QL n
  let new := s.effectiveQl n
  if (s.cand n).enabled && new != old then
    ((s.wr Reg.TIM_CAND_QL n new).count Reg.TIM_CAND_QLCHG_CNT n).raise Ev.REF_QL_CHANGE (srcCand n)
      [(1, n), (1, old), (1, new)]
  else s

/-! ### Qualification -/

/-- A candidate's frequency limits in ppb: ACCEPT, and REJECT, which acts as ACCEPT below it. -/
def State.acceptPpb (s : State) (n : Nat) : Int := 100 * ((s.cand n).cfg.accept : Int)
def State.rejectPpb (s : State) (n : Nat) : Int := max (100 * ((s.cand n).cfg.reject : Int)) (s.acceptPpb n)

/-- The first qualification condition of R59 that fails, by its code of Table 03-4; 0 when all hold. -/
def State.qualCause (s : State) (n : Nat) : Nat :=
  if s.candDefect n then 1
  else if n != 19 &&
    (!(s.cand n).measured || decide (s.acceptPpb n < |s.rdInt Reg.TIM_CAND_FREQ n|)) then 2
  else if s.rdBit Reg.TIM_QL_EN 0 && s.qlUnusable (s.rd Reg.TIM_CAND_QL n) then 3
  else 0

/-- The first cause of R61 present beside a signal defect and the watchdog, by its code of Table 03-4; 0 when none. -/
def State.otherCause (s : State) (n : Nat) : Nat :=
  if n != 19 && (s.cand n).measured && decide (s.rejectPpb n < |s.rdInt Reg.TIM_CAND_FREQ n|) then 2
  else if s.rdBit Reg.TIM_QL_EN 0 && s.qlUnusable (s.rd Reg.TIM_CAND_QL n) then 3
  else 0

/-- The first cause of R61 present, other than the watchdog, by its code of Table 03-4; 0 when none. -/
def State.lossCause (s : State) (n : Nat) : Nat :=
  if n != 19 && s.candDefect n then 1 else s.otherCause n

/-! ### The phase detectors -/

/-- The sum of a value over the positions `[lo, hi)`, from its changes listed newest first (R57, R84). -/
def histSum : List (Nat × Int) → Nat → Nat → Int
  | [], _, _ => 0
  | (a, v) :: rest, lo, hi =>
    if hi ≤ a then histSum rest lo hi
    else if a ≤ lo then v * ((hi - lo : Nat) : Int)
    else v * ((hi - a : Nat) : Int) + histSum rest lo a

/-- The value in force at an address, from changes listed newest first. -/
def valueAt {V : Type} (d : V) : List (Nat × V) → Nat → V
  | [], _ => d
  | (a, v) :: rest, x => if a ≤ x then v else valueAt d rest x

/-- One sample unit of the phase detectors, 2⁻¹⁶ of a position, in the unit in which they count: a ppb and an eighth of a ppt
over one position come out whole (R57). -/
def phaseUnit : Int := 8000000000000

/-- The phase of 0.1 ns, in the detectors' unit (R97). -/
def tenthPhase : Int := 8153726976000000

/-- A candidate's phase against the shaft at an address (R57): it accumulates the frequency measured less the DCO's offset, and
stands while the detector is held (R62). That of candidate 18 is how far its last edge came before the nearest whole second
(R97, log entry 56). -/
def State.phaseAt (s : State) (n a : Nat) : Int :=
  let c := s.cand n
  if n = 18 then -(s.tim.ppsErr * tenthPhase)
  else if c.held then c.phaseBase
  else c.phaseBase + 65536 * (8000 * histSum c.freqs c.phaseFrom a - histSum s.tim.hist c.phaseFrom a)

/-- The last `k` samples that a candidate's detector gave its filter channel, one a cycle, oldest first (R57). -/
def State.phaseSamples (s : State) (n k : Nat) : List Int :=
  (List.range k).map (fun i => s.phaseAt n ((s.cycle + 1 + i - k) * Config.cyclePos) / phaseUnit)

/-- TIM_CAND_FREQ takes a measurement, from which the phase accumulates. -/
def State.setFreq (s : State) (n : Nat) (v : Int) : State :=
  (s.setCand n { s.cand n with measured := true, freqs := (s.addr, v) :: (s.cand n).freqs }).wrInt Reg.TIM_CAND_FREQ n v

/-- A candidate's detector is frozen at once by a signal defect (R62). -/
def State.holdPhase (s : State) (n : Nat) : State :=
  if (s.cand n).held then s
  else s.setCand n { s.cand n with held := true, phaseBase := s.phaseAt n s.addr, defectAt := some s.addr }

/-- A frozen detector resumes from where it stood: phase build-out absorbs what moved in the gap (R62). -/
def CandSt.resume (c : CandSt) (a : Nat) : CandSt :=
  if c.held then { c with held := false, phaseFrom := a, defectAt := none } else { c with defectAt := none }

/-- The phase error of the selected candidate: what its detector shows beyond what build-out absorbed (R77). -/
def State.phaseErr (s : State) : Int := s.phaseAt (s.rd Reg.TIM_SEL 0) s.addr - s.tim.absorbed

/-- The force ends when its candidate is disqualified (Table 03-12). -/
def State.cancelForce (s : State) (n : Nat) : State :=
  if s.tim.forced = some n then
    ({ s with tim := { s.tim with forced := none } }.wrBit Reg.TIM_FORCED 0 false).raise
      Ev.FORCE_CANCELLED (srcCand n) [(1, n)]
  else s

/-- A candidate that was QUALIFIED or in WTR goes to FAILED with its cause (R61, R63). -/
def State.disqualify (s : State) (n cause : Nat) : State :=
  let c := (s.cand n).resume s.addr
  let s1 := s.setCand n { c with since := none, wtrFrom := none, wtrWaits := false }
  let s2 := (s1.wr Reg.TIM_CAND_STATE n 1).wr Reg.TIM_CAND_REASON n cause
  let s3 := s2.raise Ev.REF_DISQUALIFIED (srcCand n) [(1, n), (1, cause)]
  let s4 := if s3.rd Reg.TIM_SEL 0 = n then { s3 with tim := { s3.tim with disqAt := s3.addr } } else s3
  s4.cancelForce n

/-- Hold-off of the selected candidate in positions (R62): TIM_HOLDOFF above 1,000 acts as 1,000. -/
def State.holdoffPos (s : State) : Nat := min 1000 (s.rd Reg.TIM_HOLDOFF 0) * Config.msPos

/-- A signal defect of the selected candidate freezes its detector and waits for the hold-off; every
other cause, and a defect with no hold-off, disqualifies at once (R61, R62). -/
def State.candLost (s : State) (n : Nat) : State :=
  if s.lossCause n = 1 && s.rd Reg.TIM_SEL 0 = n && 0 < s.holdoffPos then
    if s.otherCause n = 0 then s.holdPhase n else s.disqualify n (s.otherCause n)
  else s.disqualify n (s.lossCause n)

/-- A defect that cleared within the hold-off lets the detector resume (R62). -/
def State.candBack (s : State) (n : Nat) : State :=
  if (s.cand n).defectAt.isSome then s.setCand n ((s.cand n).resume s.addr) else s

/-- The qualify timer runs on while the conditions of R59 hold, and starts over when they fail (R59, R75). -/
def State.qualTimer (s : State) (n : Nat) : State :=
  if s.qualCause n = 0 then
    if (s.cand n).since.isSome then s else s.setCand n { s.cand n with since := some s.addr }
  else if (s.cand n).since.isSome then s.setCand n { s.cand n with since := none } else s

/-- The conditions of a candidate are judged afresh (R59 to R61, R75). -/
def State.candReview (s : State) (n : Nat) : State :=
  let st := s.candState n
  if !(s.cand n).enabled then s
  else if st = 3 || st = 4 then
    if s.lossCause n = 0 then (s.candBack n).qualTimer n else s.candLost n
  else if st = 5 then
    let s1 := if s.lossCause n = 0 then s
      else (s.setCand n { s.cand n with since := none, keepQual := false }).wr Reg.TIM_CAND_REASON n
        (s.lossCause n)
    s1.qualTimer n
  else if n = 19 then s
  else if s.qualCause n = 0 then
    if st = 2 then s
    else (s.setCand n { s.cand n with since := some s.addr }).wr Reg.TIM_CAND_STATE n 2
  else if st = 2 then
    ((s.setCand n { s.cand n with since := none }).wr Reg.TIM_CAND_STATE n 1).wr Reg.TIM_CAND_REASON n
      (s.qualCause n)
  else s

/-- Every candidate is judged afresh, after a change in a lane, a framer, a link or a circuit. -/
def State.timReview (s : State) : State :=
  (List.range 20).foldl (fun a n => (a.qlRefresh n).candReview n) s

/-- A received QL is accepted from the source that a test on candidates picks out (R68). -/
def State.acceptQl (s : State) (hit : CandSt → Bool) (ql : Nat) : State :=
  let s1 := (List.range 16).foldl
    (fun a n => if (a.cand n).enabled && hit (a.cand n) then a.setCand n { a.cand n with qlRx := some ql }
      else a) s
  s1.timReview

/-- A received QL is accepted on an ACC or UPL lane. -/
def State.acceptLaneQl (s : State) (l ql : Nat) : State :=
  s.acceptQl (fun c => (c.kind == 0 || c.kind == 1) && c.laneIndex == l) ql

/-- A candidate becomes QUALIFIED, or enters WTR if it has been QUALIFIED since it was enabled (R60);
its WTR timer starts, or waits for the end of a switch in progress (R74). -/
def State.qualify (s : State) (n : Nat) : State :=
  let c := s.cand n
  let freq := satSigned 4 (s.rdInt Reg.TIM_CAND_FREQ n)
  if c.everQual && n != 19 then
    let wait := s.rdBit Reg.TIM_SWITCHING 0
    let s1 := s.setCand n { c with wtrWaits := wait, wtrFrom := if wait then none else some s.addr }
    let s2 := (s1.wr Reg.TIM_CAND_STATE n 4).raise Ev.REF_QUALIFIED (srcCand n) [(1, n), (4, freq)]
    if wait then s2
    else s2.raise Ev.REF_WTR_START (srcCand n) [(1, n), (4, min 720 (s2.rd Reg.TIM_WTR 0))]
  else
    let s1 := s.setCand n { c with everQual := true }
    (s1.wr Reg.TIM_CAND_STATE n 3).raise Ev.REF_QUALIFIED (srcCand n) [(1, n), (4, freq)]

/-- The qualify time of a candidate in positions (Table 03-11: units of 100 ms, 0 acts as 1); none for candidate 19 (R91). -/
def State.qualPos (s : State) (n : Nat) : Nat :=
  if n = 19 then 0 else max 1 (s.cand n).cfg.qualTime * 800 * Config.cyclePos

/-- WTR timers that waited for the end of the switch in progress start (R74). -/
def State.startWaitingWtr (s : State) : State :=
  (List.range 20).foldl (fun a n =>
    if (a.cand n).wtrWaits && a.candState n = 4 then
      (a.setCand n { a.cand n with wtrWaits := false, wtrFrom := some a.addr }).raise Ev.REF_WTR_START
        (srcCand n) [(1, n), (4, min 720 (a.rd Reg.TIM_WTR 0))]
    else a) s

/-! ### Selection -/

/-- A candidate may be selected on its own merit (R70). -/
def State.eligible (s : State) (n : Nat) : Bool :=
  s.candState n == 3 && 1 ≤ (s.cand n).cfg.rank

/-- A candidate counts in the vote (Table 03-2, R56). -/
def State.votes (s : State) (n : Nat) : Bool :=
  (s.cand n).measured && (s.candState n == 3 || s.candState n == 4 ||
    (s.candState n == 5 && s.qualCause n == 0))

/-- Twice the median of the frequencies that vote (R71). -/
def State.median2 (s : State) : Int :=
  let f := (((List.range 20).filter s.votes).map (fun n => s.rdInt Reg.TIM_CAND_FREQ n)).insertionSort (fun a b => a ≤ b)
  let k := f.length
  if k = 0 then 0
  else if k % 2 = 1 then 2 * f.getD (k / 2) 0
  else f.getD (k / 2 - 1) 0 + f.getD (k / 2) 0

/-- Twice a candidate's distance from the median. -/
def State.voteDist (s : State) (n : Nat) : Int := |2 * s.rdInt Reg.TIM_CAND_FREQ n - s.median2|

/-- The rank of a candidate's effective QL, which counts only when TIM_QL_EN = 1 (R70). -/
def State.qlOrder (s : State) (n : Nat) : Nat :=
  if s.rdBit Reg.TIM_QL_EN 0 then qlRank (s.rd Reg.TIM_QL_OPTION 0) (s.rd Reg.TIM_CAND_QL n) else 0

/-- The candidates of `l` that tie as best on rank and QL (R70). -/
def State.bestOf (s : State) (l : List Nat) : List Nat :=
  let r := (l.map (fun n => (s.cand n).cfg.rank)).foldl min 16
  let l1 := l.filter (fun n => (s.cand n).cfg.rank == r)
  let q := (l1.map s.qlOrder).foldl min 16
  l1.filter (fun n => s.qlOrder n == q)

/-- The two candidates of a disagreement, if R72 applies to the tied candidates `t`. -/
def State.disagreePair (s : State) (t : List Nat) : Option (Nat × Nat) :=
  match (List.range 20).filter s.votes with
  | [a, b] =>
    if t.contains a && t.contains b &&
      10 * (s.rd Reg.TIM_DISAGREE_THR 0 : Int) < |s.rdInt Reg.TIM_CAND_FREQ a - s.rdInt Reg.TIM_CAND_FREQ b|
    then some (a, b) else none
  | _ => none

/-- The candidate preferred among eligible ones under R70 to R72, given the current one. -/
def State.prefer (s : State) (l : List Nat) (cur : Nat) : Option Nat :=
  match s.bestOf l with
  | [] => none
  | [n] => some n
  | t =>
    match s.disagreePair t with
    | some (a, b) => if cur = a || cur = b then some cur else some (min a b)
    | none =>
      let d := (t.map s.voteDist).foldl min (t.head?.elim 0 s.voteDist)
      let w := t.filter (fun n => s.voteDist n == d)
      if w.contains cur then some cur else w.head?

/-- The selection that R70 to R73 and a force make now; `none` when no candidate can be selected. -/
def State.selectNow (s : State) : Option Nat :=
  let cur := s.rd Reg.TIM_SEL 0
  let l := (List.range 20).filter s.eligible
  match s.tim.forced with
  | some f => if s.candState f = 3 then some f else s.prefer l cur
  | none =>
    if !s.rdBit Reg.TIM_REVERTIVE 0 && s.candState cur == 3 then
      match s.prefer (l.filter (fun n => decide (s.qlOrder n < s.qlOrder cur))) cur with
      | some n => some n
      | none => some cur
    else s.prefer l cur

/-- TIM_DISAGREE follows R72 and REF_DISAGREE is raised when it comes to hold. -/
def State.judgeDisagree (s : State) : State :=
  match s.disagreePair (s.bestOf ((List.range 20).filter s.eligible)) with
  | some (a, b) =>
    if s.rdBit Reg.TIM_DISAGREE 0 then s
    else (s.wrBit Reg.TIM_DISAGREE 0 true).raise Ev.REF_DISAGREE srcDevice
      [(1, a), (1, b), (4, (s.rdInt Reg.TIM_CAND_FREQ a - s.rdInt Reg.TIM_CAND_FREQ b).natAbs)]
  | none => s.wrBit Reg.TIM_DISAGREE 0 false

/-- The cause code of a switch (Table 03-14, REF_SWITCH_START). -/
def State.switchCause (s : State) (old new : Nat) : Nat :=
  if old = 31 then 0
  else if s.tim.forced = some new then 4
  else if s.candState old != 3 then 1
  else if (s.cand new).cfg.rank < (if (s.cand old).cfg.rank = 0 then 16 else (s.cand old).cfg.rank) && s.rdBit Reg.TIM_REVERTIVE 0 then 2
  else if s.qlOrder new < s.qlOrder old then 3
  else 5

/-! ### The DPLL and the DCO -/

/-- DPLL states of Table 03-9. -/
def dpllFreerun : Nat := 0
def dpllAcquire : Nat := 1
def dpllLocked : Nat := 2
def dpllHoldover : Nat := 3
def dpllSlaved : Nat := 4

/-- SHF_STATE takes a new value, which is reported when it differs (R36, Table 02-6). -/
def State.setShfState (s : State) (v : Nat) : State :=
  let old := s.rd Reg.SHF_STATE 0
  if old = v then s
  else (s.wr Reg.SHF_STATE 0 v).raise Ev.SHAFT_STATE_CHANGE srcDevice [(1, old), (1, v)]

/-- The SHF_STATE of a DPLL state (Table 03-9); ACQUIRE keeps the state it was entered from, and a HALTED
shaft stays HALTED (R80). -/
def State.followDpll (s : State) (v : Nat) : State :=
  if s.halted then s
  else if v = 0 then s.setShfState 1
  else if v = 2 then s.setShfState 2
  else if v = 3 then s.setShfState 3
  else if v = 4 then s.setShfState 4
  else s

/-- The DPLL takes a state (R80, R81). -/
def State.setDpll (s : State) (v : Nat) : State :=
  let old := s.rd Reg.TIM_DPLL_STATE 0
  if old = v then s
  else
    let s1 := (s.wr Reg.TIM_DPLL_STATE 0 v).raise Ev.DPLL_STATE_CHANGE srcDevice [(1, old), (1, v)]
    let s2 := if v = 2 then { s1 with tim := { s1.tim with everLocked := true, lockedAt := s1.addr } }
      else if old = 2 then { s1 with tim := { s1.tim with locks := (s1.tim.lockedAt, s1.addr) :: s1.tim.locks } } else s1
    let s3 := if old = 3 then s2.wrBit Reg.TIM_HO_UNCOMP 0 false else s2
    s3.followDpll v

/-- The DCO's limit of ±500 ppm in eighths of a ppt (R94). -/
def dcoLimit : Int := 4000000000

/-- A demanded offset held to the DCO's limits (R94). -/
def clampDco (d : Int) : Int := max (-dcoLimit) (min dcoLimit d)

/-- The DCO takes an offset, held to its limits; its history records a change, and TIM_DCO_OFFSET shows
the whole ppt below (log entry 9). -/
def State.setDco (s : State) (d : Int) : State :=
  let d1 := clampDco d
  if d1 = s.dco then s
  else { s with dco := d1, tim := { s.tim with hist := (s.addr, d1) :: s.tim.hist } }.wrInt
    Reg.TIM_DCO_OFFSET 0 (d1 / 8)

/-- A demand beyond the limit sets TIM_DCO_LIMIT and raises DCO_LIMIT as it begins (R94). -/
def State.judgeDemand (s : State) (d : Int) : State :=
  if clampDco d = d then s.wrBit Reg.TIM_DCO_LIMIT 0 false
  else if s.rdBit Reg.TIM_DCO_LIMIT 0 then s
  else (s.wrBit Reg.TIM_DCO_LIMIT 0 true).raise Ev.DCO_LIMIT srcDevice [(4, satSigned 4 (d / 8))]

/-- The largest change of the DCO in one cycle during a switch, in eighths of a ppt (R77: ppb per second
over 8,000 cycles; 0 acts as 10). -/
def State.slewStep (s : State) : Int :=
  let v := s.rd Reg.TIM_SWITCH_SLEW 0
  if v = 0 then 10 else v

/-- A value moved toward a target by at most a step. -/
def stepToward (x target step : Int) : Int :=
  if target ≤ x then max target (x - step) else min target (x + step)

/-- The holdover history window in positions (TIM_HO_HIST, 1 to 600 s). -/
def State.histPos (s : State) : Nat := min 600 (max 1 (s.rd Reg.TIM_HO_HIST 0)) * Config.secondPos

/-- The temperature model's coefficient in °C units, from its register (2⁻⁸). -/
def State.coef (s : State) (f : Fld) : Rat := (s.rdInt f 0 : Rat) / 256

/-- The learned range in °C, from TIM_MODEL_TRANGE (1/16 °C). -/
def State.rangeLo (s : State) : Rat := (signed 16 (s.rd Reg.TIM_MODEL_TRANGE 0 % 65536) : Rat) / 16
def State.rangeHi (s : State) : Rat := (signed 16 (s.rd Reg.TIM_MODEL_TRANGE 0 / 65536) : Rat) / 16

/-- M(T) of R85 in ppt, for T in °C and its slope in °C per minute, by given coefficients. -/
def modelOf (c1 c2 c3 c4 t0 t slope : Rat) : Rat :=
  let d := t - t0
  c1 * d + c2 * d * d + c3 * d * d * d + c4 * slope

/-- T of the model (R85) at an address, and its slope in °C per minute: how far the mean moved in the last minute (log entry 57). -/
def State.tempAt (s : State) (a : Nat) : Rat := valueAt 0 s.tim.temps a
def State.slopeAt (s : State) (a : Nat) : Rat := s.tempAt a - s.tempAt (a - 60 * Config.secondPos)

/-- M(T) with the coefficients in force, evaluated at the nearer edge outside the learned range (R88). With nothing learned the
range is the one that a load was judged over (R90, log entry 57). -/
def State.model (s : State) (t slope : Rat) : Rat :=
  let t1 := if s.tim.fit.learnt.isNone then max (-40) (min 125 t) else max s.rangeLo (min s.rangeHi t)
  modelOf (s.coef Reg.TIM_MODEL_C1) (s.coef Reg.TIM_MODEL_C2) (s.coef Reg.TIM_MODEL_C3)
    (s.coef Reg.TIM_MODEL_C4) ((s.rdInt Reg.TIM_MODEL_T0 0 : Rat) / 16) t1 slope

/-- A coefficient as its register holds it: in units of 2⁻⁸, held to 32 bits. -/
def State.putCoef (s : State) (f : Fld) (q : Rat) : State :=
  s.wrInt f 0 (max (-2147483648) (min 2147483647 (s.nearest (256 * q))))

/-- The registers show the fit (Table 03-11). -/
def State.showFit (s : State) : State :=
  let f := s.tim.fit
  let put := [(Reg.TIM_MODEL_C1, 0), (Reg.TIM_MODEL_C2, 1), (Reg.TIM_MODEL_C3, 2), (Reg.TIM_MODEL_C4, 3), (Reg.TIM_MODEL_AGE, 4)]
  let s1 := put.foldl (fun a e => a.putCoef e.1 (f.theta.getD e.2 0)) s
  match f.learnt with
  | none => s1.wr Reg.TIM_MODEL_TRANGE 0 0
  | some (lo, hi) => s1.wr Reg.TIM_MODEL_TRANGE 0 (pattern 16 lo + 65536 * pattern 16 hi)

/-- The samples of the history guard second and of the second in progress are discarded from learning: the fit is what it was
before the first of them (R89). -/
def State.dropSamples (s : State) : State :=
  match (s.tim.fitLog.filter (fun e => decide (s.tim.guardAt < e.1))).getLast? with
  | none => s
  | some e => ({ s with tim := { s.tim with
      fit := e.2, fitLog := s.tim.fitLog.filter (fun x => decide (x.1 ≤ s.tim.guardAt)) } } : State).showFit

/-- The parts of `[lo, hi)` spent LOCKED (R84). -/
def State.lockedIn (s : State) (lo hi : Nat) : List (Nat × Nat) :=
  let all := if s.rd Reg.TIM_DPLL_STATE 0 = 2 then (s.tim.lockedAt, s.addr) :: s.tim.locks else s.tim.locks
  (all.map (fun e => (max lo e.1, min hi e.2))).filter (fun e => decide (e.1 < e.2))

/-- Entry to HOLDOVER takes f_hist, and the temperature, its slope and the time at the start of the history guard second
(R84, R88, R89). -/
def State.enterHoldover (s : State) : State :=
  let stop := s.tim.disqAt - Config.secondPos
  let spans := s.lockedIn (stop - s.histPos) stop
  let len := (spans.map (fun e => e.2 - e.1)).sum
  let f : Rat :=
    if len < Config.secondPos then (s.dco : Rat) / 8
    else ((spans.map (fun e => histSum s.tim.hist e.1 e.2)).sum : Rat) / (8 * (len : Rat))
  let s1 := { s with tim := { s.tim with
      fHist := f, entryAt := s.addr, guardAt := stop,
      entryT := s.tempAt stop, entrySlope := s.slopeAt stop, beyond := false } }
  (s1.dropSamples.wrBit Reg.TIM_HO_SHORT 0 (decide (len < s.histPos))).setDpll dpllHoldover

/-- A switch to a candidate begins: TIM_SWITCHING reads 1 and REF_SWITCH_START is raised (R76). With TIM_CAND_PBO = 1 the phase
offset is absorbed (R77), and from FREERUN or HOLDOVER the loop runs fast (R82). The loop starts from the DCO's offset. -/
def State.beginSwitch (s : State) (old new cause : Nat) : State :=
  let st := s.rd Reg.TIM_DPLL_STATE 0
  let s1 := { s with tim := { s.tim with
      switchAt := s.addr, integ := s.dco, inWindow := none, fast := decide (st = dpllFreerun ∨ st = dpllHoldover),
      absorbed := if (s.cand new).cfg.pbo then s.phaseAt new s.addr else 0 } }.wrBit Reg.TIM_SWITCHING 0 true
  s1.raise Ev.REF_SWITCH_START (srcCand new) [(1, old), (1, new), (1, cause)]

/-- The PPSIN phase error asks for a step of the time of day (R97). -/
def State.ppsStepDue (s : State) : Bool :=
  !(s.cand 18).cfg.pbo && decide ((s.rd Reg.TIM_PPS_STEP_THR 0 : Int) * 10 < |s.tim.ppsErr|)

/-- ACQUIRE begins toward candidate `n`. -/
def State.enterAcquire (s : State) (n : Nat) : State :=
  let s1 := s.setDpll dpllAcquire
  if n = 18 then
    if s1.tim.ppsEdge.isNone then { s1 with tim := { s1.tim with stepArmed := true } }
    else if s1.ppsStepDue then { s1 with tim := { s1.tim with stepNext := some s1.tim.ppsErr } }
    else s1
  else s1

/-- A switch ends without completing: WTR timers that waited for its end start (R74, R79). -/
def State.abandonSwitch (s : State) : State :=
  if s.rdBit Reg.TIM_SWITCHING 0 then (s.wrBit Reg.TIM_SWITCHING 0 false).startWaitingWtr else s

/-- A switch completes (R76): REF_SWITCH_DONE, and waiting WTR timers start. -/
def State.finishSwitch (s : State) : State :=
  let n := s.rd Reg.TIM_SEL 0
  let s1 := (s.wrBit Reg.TIM_SWITCHING 0 false).raise Ev.REF_SWITCH_DONE (srcCand n)
    [(1, n), (4, (s.addr - s.tim.switchAt) / Config.cyclePos)]
  (s1.setDpll dpllLocked).startWaitingWtr

/-- The DPLL acts on the selection in force (Table 03-10). `changed` says the decision names another
candidate than before, `old` that one, `cause` the switch's cause. -/
def State.dpllAct (s : State) (sel : Option Nat) (old : Nat) (changed : Bool) (cause : Nat) : State :=
  let st := s.rd Reg.TIM_DPLL_STATE 0
  if st = dpllSlaved then s
  else if s.tim.holdOn then
    if st = dpllLocked || st = dpllAcquire then (s.abandonSwitch).enterHoldover else s
  else
    match sel with
    | none =>
      if st = dpllLocked then (s.abandonSwitch).enterHoldover
      else if st = dpllAcquire then
        let s1 := s.abandonSwitch
        if s1.tim.everLocked then s1.enterHoldover else s1.setDpll dpllFreerun
      else s
    | some n =>
      if st = dpllFreerun || st = dpllHoldover then
        let s1 := s.beginSwitch (if changed then old else 31) n (if changed then cause else 0)
        if n = 19 then s1.setDpll dpllLocked else s1.enterAcquire n
      else if changed then ((s.abandonSwitch).beginSwitch old n cause).enterAcquire n
      else s

/-- The selection decision of a cycle boundary (R70 to R73, R78, R79). A switch in progress is not
abandoned while its target stands. -/
def State.makeDecision (s : State) : State :=
  let old := s.rd Reg.TIM_SEL 0
  if s.rdBit Reg.TIM_SWITCHING 0 && s.candState old = 3 && !s.tim.holdOn then s
  else
    let sel := s.selectNow
    let new := sel.getD 31
    let cause := s.switchCause old new
    (s.wr Reg.TIM_SEL 0 new).dpllAct sel old (new != old) cause

/-- The bandwidths a candidate offers (Table 03-1), and its default. -/
def bwOffered (n : Nat) : List Nat :=
  if n < 16 then [3, 2, 4, 5] else if n < 18 then [2, 3] else if n = 18 then [0, 1] else []

/-- The bandwidth in force: the field's, or the default where the field's is not offered (R65). -/
def State.bandwidth (s : State) (n : Nat) : Nat :=
  let v := (s.cand n).cfg.bw
  if (bwOffered n).contains v then v else (bwOffered n).headD 0

/-- The lock time of a bandwidth in cycles (Table 03-8). -/
def lockCycles (bw : Nat) : Nat :=
  8000 * (if bw = 5 then 1 else if bw = 4 then 2 else if bw = 3 then 5 else if bw = 2 then 40
    else if bw = 1 then 400 else 4000)

/-- A bandwidth code in mHz (Table 03-11). -/
def bwMilli (bw : Nat) : Nat :=
  if bw = 5 then 10000 else if bw = 4 then 3000 else if bw = 3 then 1000 else if bw = 2 then 100 else if bw = 1 then 10 else 1

/-- The bandwidth that the loop runs at, in mHz: ten times the configured one, at most 10 Hz, while it is fast (R82). -/
def State.loopMilli (s : State) : Nat :=
  let m := bwMilli (s.bandwidth (s.rd Reg.TIM_SEL 0))
  if s.tim.fast then min 10000 (10 * m) else m

/-- The lock window of a bandwidth in ns (Table 03-8). -/
def lockWindow (bw : Nat) : Nat := if bw ≤ 1 then 30 else 100

/-- The phase error lies inside the lock window (Table 03-8); a position is 3,125/486 ns. -/
def State.inLock (s : State) : Bool :=
  |s.phaseErr| * 3125 ≤ (lockWindow (s.bandwidth (s.rd Reg.TIM_SEL 0)) : Int) * 486 * 65536 * phaseUnit

/-- The lock criterion of a switch is judged: since when the phase error has been inside the window, and the end of the fast
loop where it is first inside (R76, R82). -/
def State.judgeLock (s : State) : State :=
  if !s.rdBit Reg.TIM_SWITCHING 0 || 19 ≤ s.rd Reg.TIM_SEL 0 then s
  else if s.inLock then
    { s with tim := { s.tim with fast := false, inWindow := some (s.tim.inWindow.getD s.addr) } }
  else { s with tim := { s.tim with inWindow := none } }

/-- One cycle of the loop toward a phase error of 0, at a bandwidth in mHz: the demand in eighths of a ppt, and the integrator.
The damping factor is 5 (Table 03-8), so the integral gain is a hundredth of the proportional gain's square; one eighth of a
ppt over a second is 65,536 × 155,520,000 of the detectors' units (log entry 55). -/
def State.loopStep (s : State) (err : Int) (milli : Nat) : Int × Rat :=
  if err = 0 then (s.tim.integ.floor, s.tim.integ)
  else
    let e : Rat := (err : Rat) / (65536 * 155520000)
    let k := Config.loopGain milli
    let i := s.tim.integ + k * k / 100 * e / 8000
    ((i + k * e).floor, i)

/-- The loop drives the DCO for a cycle, slewed where `slow` (R77, R94). -/
def State.runLoop (s : State) (err : Int) (milli : Nat) (slow : Bool) : State :=
  let r := s.loopStep err milli
  let s1 := ({ s with tim := { s.tim with integ := r.2 } } : State).judgeDemand r.1
  if slow then s1.setDco (stepToward s.dco (clampDco r.1) s.slewStep) else s1.setDco r.1

/-- The DCO's offset for this cycle (R77, R81, R83, R92, R94): after unit A's markers in SLAVED, at 100 Hz (R393); open loop
toward the steered value with candidate 19; held while the detector is frozen; back to zero in FREERUN; the loop's demand
otherwise, slewed during a switch. -/
def State.driveDco (s : State) : State :=
  let st := s.rd Reg.TIM_DPLL_STATE 0
  let sel := s.rd Reg.TIM_SEL 0
  let switching := s.rdBit Reg.TIM_SWITCHING 0
  if st = dpllHoldover then s
  else if st = dpllFreerun then (s.judgeDemand 0).setDco (stepToward s.dco 0 s.slewStep)
  else if st = dpllSlaved then s.runLoop (s.rdInt Reg.PAR_SHAFT_ERR 0 * 81537269760000) 100000 false
  else if sel = 19 then
    let ramp : Int := 8 * s.rd Reg.TIM_STEER_RAMP 0
    let goal := 8 * s.tim.steer
    let d := if ramp = 0 then goal else stepToward s.dco goal ramp
    let s1 := (s.judgeDemand (8 * s.tim.steerRaw)).setDco d
    if switching && d = goal then s1.finishSwitch else s1
  else if (s.cand sel).held then s
  else s.runLoop s.phaseErr s.loopMilli switching

/-- TIM_DCO_OFFSET beyond ±450 ppm while LOCKED raises DCO_LIMIT with that detail, once until it is back
within (Failure and start-up of the timing chapter). -/
def State.judge450 (s : State) : State :=
  let far := s.rd Reg.TIM_DPLL_STATE 0 = dpllLocked && decide (3600000000 < |s.dco|)
  let s1 := s.raiseIf (far && !s.tim.beyond450) Ev.DCO_LIMIT srcDevice [(4, satSigned 4 (s.dco / 8))]
  { s1 with tim := { s1.tim with beyond450 := far } }

/-! ### Time of day -/

/-- One second in the unit of the time of day, 1/486 ns. -/
def todSecond : Nat := 486000000000

/-- The time of day now, in 1/486 ns (R95). -/
def State.todNow (s : State) : Nat := (s.tim.tod + 3125 * (s.addr - s.tim.todAt)) % (2 ^ 48 * todSecond)

/-- Whole seconds, and nanoseconds truncated to 1 ns (R95). -/
def State.todSec (s : State) : Nat := s.todNow / todSecond
def State.todNs (s : State) : Nat := s.todNow % todSecond / 486

/-- The bins in progress when the time of day moves (R334). -/
def PmPoint.todMoves (x : PmPoint) : PmPoint :=
  { x with cur15 := { x.cur15 with todMoved := true }, cur24 := { x.cur24 with todMoved := true } }

/-- The time of day takes a value now. The PM second in progress ends at the first cycle boundary at which
the new time of day is at or after a whole second (R334). -/
def State.setTod (s : State) (t : Nat) : State :=
  let v := t % (2 ^ 48 * todSecond)
  { s with tim := { s.tim with tod := v, todAt := s.addr, todWas := some s.todNow },
           pm := { s.pm with nextTod := (v + todSecond - 1) / todSecond,
                             points := s.pm.points.map (fun e => (e.1, e.2.todMoves)) } }

/-- A step of the time of day that R97 asked for is made at the cycle boundary. -/
def State.applyStep (s : State) : State :=
  match s.tim.stepNext with
  | none => s
  | some e =>
    let t : Int := (s.todNow : Int) - e * 243 / 5
    let s1 := { s with tim := { s.tim with stepNext := none, todSet := true, ppsErr := 0 } }
    (s1.setTod (t % (2 ^ 48 * todSecond : Nat)).toNat).raise Ev.TOD_STEP srcDevice
      [(4, satSigned 4 (-e / 10))]

/-! ### Registers that take effect at a cycle boundary -/

/-- A candidate's source fields are unusable (R55). -/
def State.sourceBad (s : State) (n : Nat) (c : CandSt) : Bool :=
  s.sourceMissing n c ||
  (n < 16 && (List.range n).any (fun m => (s.cand m).enabled && (s.cand m).sameSource c))

/-- A candidate's CTL fields as they stand written. -/
def State.candFields (s : State) (n : Nat) : CandCfg :=
  { rank := s.rd Reg.TIM_CAND_RANK n, bw := s.rd Reg.TIM_CAND_BW n, qlSrc := s.rd Reg.TIM_CAND_QL_SRC n,
    qlFixed := s.rd Reg.TIM_CAND_QL_FIXED n, pbo := s.rdBit Reg.TIM_CAND_PBO n, sa := s.rd Reg.TIM_CAND_SA n,
    accept := s.rd Reg.TIM_CAND_ACCEPT n, reject := s.rd Reg.TIM_CAND_REJECT n, qualTime := s.rd Reg.TIM_CAND_QUALTIME n }

/-- A candidate is disabled, or held so by its source fields: it starts over when it is enabled again (R55, R61, R75). -/
def State.disableCand (s : State) (n : Nat) (c : CandSt) : State :=
  let was := s.candState n
  let s1 := if was = 3 || was = 4 then s.disqualify n 5 else if was = 0 then s else s.wr Reg.TIM_CAND_REASON n 5
  let s2 := ((s1.setCand n { cfg := c.cfg, kind := c.kind, lane := c.lane, chan := c.chan }).wr
    Reg.TIM_CAND_STATE n 0).wrInt Reg.TIM_CAND_FREQ n 0
  if n = 19 then { s2 with tim := { s2.tim with steerAt := none } } else s2

/-- The source fields of an enabled candidate changed: it is disqualified with reason 0x5 and qualifies again as a first-time
candidate (R65); one LOCKED_OUT records the reason (R75). -/
def State.changeSource (s : State) (n : Nat) (c : CandSt) : State :=
  let was := s.candState n
  let s1 := s.setCand n { c with everQual := false, since := none, qlRx := none }
  let s2 := if was = 3 || was = 4 then s1.disqualify n 5
    else if was = 5 then (s1.setCand n { s1.cand n with keepQual := false }).wr Reg.TIM_CAND_REASON n 5
    else (s1.wr Reg.TIM_CAND_STATE n 1).wr Reg.TIM_CAND_REASON n 5
  if n = 19 then { s2 with tim := { s2.tim with steerAt := none } } else s2

/-- The written fields of a candidate come into force at the cycle boundary (R65, R66, R101): enabling,
disabling, a new source, a bandwidth, and what the rest of its fields say. -/
def State.applyCandCfg (s : State) (n : Nat) : State :=
  let c := s.cand n
  let en := s.rdBit Reg.TIM_CAND_EN n
  let c1 : CandSt := { c with
    cfg := s.candFields n, kind := s.rd Reg.TIM_CAND_SRC_KIND n, lane := s.rd Reg.TIM_CAND_SRC_LANE n,
    chan := s.rd Reg.TIM_CAND_SRC_CHAN n }
  let bad := s.sourceBad n c1
  let bwBad := n != 19 && !(bwOffered n).contains c1.cfg.bw
  let s0 := s.wrBit Reg.TIM_CAND_CFG_BAD n (en && bad || bwBad)
  if !en || bad then
    if c.enabled || s.candState n != 0 then s0.disableCand n c1 else s0.setCand n c1
  else if !c.enabled then
    let s1 := s0.setCand n { cfg := c1.cfg, enabled := true, kind := c1.kind, lane := c1.lane, chan := c1.chan, phaseFrom := s0.addr }
    let s2 := (s1.wr Reg.TIM_CAND_QL n (s1.effectiveQl n)).wrInt Reg.TIM_CAND_FREQ n 0
    if s2.qualCause n = 0 && n != 19 then
      (s2.setCand n { s2.cand n with since := some s2.addr }).wr Reg.TIM_CAND_STATE n 2
    else (s2.wr Reg.TIM_CAND_STATE n 1).wr Reg.TIM_CAND_REASON n (s2.qualCause n)
  else if !c.sameFields c1 then s0.changeSource n c1
  else s0.setCand n c1

/-- Candidate 19 qualifies at its first accepted TIM_STEER (R91). -/
def State.steerQualify (s : State) : State :=
  if s.tim.steerQual then
    let s1 := { s with tim := { s.tim with steerQual := false } }
    if (s1.cand 19).enabled && s1.candState 19 = 1 && s1.qualCause 19 = 0 then s1.qualify 19 else s1
  else s

/-! ### The meanings -/

/-- TIM_FREQ_MEASURE (R56): at the end of a 1 s window each enabled candidate's measured frequency is
reported. A reference-offset perturbation in effect adds its offset (Table 20-3), and the candidates are
judged against their limits. An input that is measured has edges again (log entry 58). -/
def execTimFreqMeasure (dt : Nat) (meas : List (Nat × Int)) (s : State) : Host.Outcome State Fault Refusal :=
  let s1 := s.toBoundary dt Config.secondPos
  let s2 := meas.foldl (fun a m =>
    if (a.cand m.1).enabled then
      let off : Int :=
        if bitOf (a.rd Reg.TST_ACTIVE 0) 0 && a.rd Reg.TST_REF_CAND 0 = m.1 then
          max (-20000) (min 20000 (a.rdInt Reg.TST_REF_OFFSET 0)) else 0
      let b := a.setFreq m.1 (m.2 + off)
      let c := if off = 0 then b else b.count Reg.TST_PERTURB_CNT 0
      { c with tim := { c.tim with noEdge := c.tim.noEdge.filter (fun n => n != m.1 || m.1 == 18) } }
    else a) s1
  .next s2.timReview

/-- REF_QUALIFIED (R60, R63): once its qualify time has run, a candidate in QUALIFYING becomes QUALIFIED
or enters WTR at the next position 0. -/
def execRefQualified (dt cand : Nat) (s : State) : Host.Outcome State Fault Refusal :=
  let s1 := s.elapse dt
  .next (if s1.candState cand = 2 then
    match (s1.cand cand).since with
    | none => s1
    | some a => s1.whenAddr (ceilTo Config.cyclePos (max s1.addr (a + s1.qualPos cand))) (fun s2 => s2.qualify cand)
    else s1)

/-- TIM_HOLDOFF_EXPIRY (R62): the selected candidate's defect is still present after TIM_HOLDOFF. -/
def execTimHoldoffExpiry (dt cand : Nat) (s : State) : Host.Outcome State Fault Refusal :=
  let s1 := s.elapse dt
  .next (match (s1.cand cand).defectAt with
    | none => s1
    | some a => s1.whenAddr (a + s1.holdoffPos) (fun s2 =>
      if s2.candDefect cand && (s2.candState cand = 3 || s2.candState cand = 4) then s2.disqualify cand 1
      else s2.candBack cand))

/-- What the mate link makes of the DPLL at this boundary, if it changes it (R393): unit B is SLAVED while a mate lane is usable
and the addresses agree; else it leaves SLAVED for HOLDOVER. -/
def State.slaveDue (s : State) : Option Bool :=
  let ok := s.rd Reg.PAR_LANES_USABLE 0 != 0 && !s.rdBit Reg.PAR_ADDR_CONFLICT 0
  let slaved := s.rd Reg.TIM_DPLL_STATE 0 = dpllSlaved
  if !s.paired || !s.isUnitB || ok == slaved then none else some ok

/-- The pair block slaves the unit, or lets it go (R81, R83, R393); TIM_SEL goes on reporting the selection. -/
def State.slaveFollow (s : State) (on : Bool) : State :=
  let s1 := s.wr Reg.TIM_SEL 0 (s.selectNow.getD 31)
  if on then
    ({ s1.abandonSwitch with par := { s1.par with mateQl := none }, tim := { s1.abandonSwitch.tim with integ := s1.dco } } : State).setDpll
      dpllSlaved
  else ({ s1 with tim := { s1.tim with disqAt := s1.addr } } : State).enterHoldover

/-- The step that a boundary makes of the DPLL: the mate link's, or the selection decision's (R81). -/
def State.actDpll (s : State) : State :=
  match s.slaveDue with
  | some on => s.slaveFollow on
  | none => s.makeDecision

/-- REF_SELECTION (R63, R66, R70 to R99): the timing block's work at position 0 of a cycle. -/
def execRefSelection (dt : Nat) (s : State) : Host.Outcome State Fault Refusal :=
  let s1 := s.toBoundary dt Config.cyclePos
  .next (if s1.halted then s1 else
    let s2 := (List.range 20).foldl (fun a n => (a.applyCandCfg n).qlRefresh n) s1
    let s3 := ((List.range 20).foldl (fun a n => a.candReview n) s2).steerQualify
    let s4 := s3.applyStep.judgeDisagree.actDpll
    s4.judgeLock.driveDco.judge450)

/-- REF_SWITCH_DONE (R76): the switch completes once the lock criterion has held without a break for the lock time of the new
candidate's bandwidth. -/
def execRefSwitchDone (dt : Nat) (s : State) : Host.Outcome State Fault Refusal :=
  let s1 := s.toBoundary dt Config.cyclePos
  .next (if s1.halted then s1
    else match s1.tim.inWindow with
    | none => s1
    | some a =>
      if s1.rdBit Reg.TIM_SWITCHING 0 && s1.rd Reg.TIM_DPLL_STATE 0 = dpllAcquire && s1.rd Reg.TIM_SEL 0 != 19 &&
        a + lockCycles (s1.bandwidth (s1.rd Reg.TIM_SEL 0)) * Config.cyclePos ≤ s1.addr then s1.finishSwitch
      else s1)

/-- WTR_EXPIRY (R74, R63): a candidate's WTR timer has run for TIM_WTR, at most 720 s. -/
def execWtrExpiry (dt cand : Nat) (s : State) : Host.Outcome State Fault Refusal :=
  let s1 := s.elapse dt
  .next (match (s1.cand cand).wtrFrom with
    | none => s1
    | some a => s1.whenAddr (ceilTo Config.cyclePos (max s1.addr (a + min 720 (s1.rd Reg.TIM_WTR 0) * Config.secondPos))) (fun s2 =>
      if s2.candState cand = 4 then
        let s3 := s2.setCand cand { s2.cand cand with wtrFrom := none }
        (s3.wr Reg.TIM_CAND_STATE cand 3).raise Ev.REF_QUALIFIED (srcCand cand)
          [(1, cand), (4, satSigned 4 (s3.rdInt Reg.TIM_CAND_FREQ cand))]
      else s2))

/-- STEER_WDOG_EXPIRY (R91): no TIM_STEER for TIM_STEER_WDOG since the last disqualifies candidate 19; a LOCKED_OUT candidate
records the cause (R75). -/
def execSteerWdogExpiry (dt : Nat) (s : State) : Host.Outcome State Fault Refusal :=
  let s1 := s.elapse dt
  .next (match s1.tim.steerAt with
    | none => s1
    | some a => s1.whenAddr (max s1.addr (a + s1.wdogPos)) (fun s2 =>
      let s3 := { s2 with tim := { s2.tim with steerAt := none } }
      if s3.candState 19 = 3 then s3.disqualify 19 4
      else if s3.candState 19 = 5 then
        (s3.setCand 19 { s3.cand 19 with since := none, keepQual := false }).wr Reg.TIM_CAND_REASON 19 4
      else s3))

/-- HOLDOVER_UPDATE (R88): at an epoch boundary in HOLDOVER the DCO offset is set from f_hist and, with a
VALID model, the temperature model and its ageing. -/
def execHoldoverUpdate (dt : Nat) (s : State) : Host.Outcome State Fault Refusal :=
  let s1 := s.toBoundary dt Config.epochPos
  .next (if s1.halted || s1.rd Reg.TIM_DPLL_STATE 0 != dpllHoldover then s1
    else if s1.rd Reg.TIM_MODEL_STATE 0 != 2 then
      let d := s1.nearest s1.tim.fHist
      ((s1.wrBit Reg.TIM_HO_UNCOMP 0 true).judgeDemand (8 * d)).setDco (8 * d) |>.draw
    else
      let t := s1.tempAt s1.addr
      let days : Rat := ((s1.addr - s1.tim.guardAt : Nat) : Rat) / (86400 * Config.secondPos)
      let m := s1.model t (s1.slopeAt s1.addr) - s1.model s1.tim.entryT s1.tim.entrySlope
      let d := s1.nearest (s1.tim.fHist + m + s1.coef Reg.TIM_MODEL_AGE * days)
      let far := s1.tim.fit.learnt.isSome && (decide (s1.rangeHi + 5 < t) || decide (t < s1.rangeLo - 5))
      let s2 := s1.raiseIf (far && !s1.tim.beyond) Ev.MODEL_EXTRAPOLATE srcDevice
        [(2, satSigned 2 (t * 16).floor), (4, s1.rd Reg.TIM_MODEL_TRANGE 0)]
      let s3 := { s2 with tim := { s2.tim with beyond := far } }
      ((s3.wrBit Reg.TIM_HO_UNCOMP 0 false).judgeDemand (8 * d)).setDco (8 * d) |>.draw)

/-- The model takes a state, which is reported when it differs (R87). -/
def State.setModel (s : State) (v : Nat) : State :=
  let old := s.rd Reg.TIM_MODEL_STATE 0
  if old = v then s
  else (s.wr Reg.TIM_MODEL_STATE 0 v).raise Ev.MODEL_STATE_CHANGE srcDevice
    [(1, old), (1, v), (4, s.rd Reg.TIM_MODEL_RMS 0)]

/-- The product of two lists, term by term, summed. -/
def dot (a b : List Rat) : Rat := (List.zipWith (· * ·) a b).sum

/-- The weight that a sample keeps over a second: the forgetting time constant is 7 days, 604,800 s (R86, log entry 54). -/
def forget : Rat := 604799 / 604800

/-- The covariance before the first sample: a free prior (log entry 54). -/
def FitSt.covariance (f : FitSt) : List (List Rat) :=
  if f.cov.isEmpty then (List.range 6).map (fun i => (List.range 6).map (fun j => if i = j then Config.freePrior else 0)) else f.cov

/-- One sample of the recursive least squares (R86): `phi` are the terms of the model at the sample and `y` the DCO's mean
offset in ppt; the residual is that after the update. -/
def FitSt.sample (f : FitSt) (addr : Nat) (t16 : Int) (phi : List Rat) (y : Rat) : FitSt :=
  let p := f.covariance
  let g := p.map (fun r => dot r phi)
  let den := forget + dot phi g
  let err := y - dot f.theta phi
  let theta := List.zipWith (fun x k => x + k * err / den) f.theta g
  let res := y - dot theta phi
  { theta := theta
    cov := List.zipWith (fun r k => List.zipWith (fun x q => (x - k * q / den) / forget) r g) p g
    samples := f.samples + 1
    learnt := match f.learnt with | none => some (t16, t16) | some (a, b) => some (min a t16, max b t16)
    resid := ((addr, res) :: f.resid).take 3600
    square := forget * f.square + res * res
    weight := forget * f.weight + 1 }

/-- The square of the residual RMS, and of that over the last hour (R87). -/
def FitSt.meanSquare (f : FitSt) : Rat := if f.weight = 0 then 0 else f.square / f.weight
def FitSt.hourSquare (f : FitSt) : Rat :=
  if f.resid.isEmpty then 0 else (f.resid.map (fun e => e.2 * e.2)).sum / f.resid.length

/-- VALID (R87): 21,600 samples, a spread of 3 °C, and an RMS at or below the limit. -/
def FitSt.valid (f : FitSt) (limit : Nat) : Bool :=
  decide (21600 ≤ f.samples) && (match f.learnt with | none => false | some (a, b) => decide (48 ≤ b - a)) &&
    decide (f.meanSquare ≤ (limit : Rat) ^ 2)

/-- The terms of the model at an address: those of R85, the ageing in days, and the offset that the loop holds for the
reference itself (log entry 54). -/
def State.fitTerms (s : State) (a : Nat) : List Rat :=
  let d := s.tempAt a - (s.rdInt Reg.TIM_MODEL_T0 0 : Rat) / 16
  [d, d * d, d * d * d, s.slopeAt a, (a : Rat) / (86400 * Config.secondPos), 1]

/-- MODEL_LEARN_SAMPLE (R86, R87): once per second while LOCKED, past its first 60 s, the model takes a
sample of the mean DCO offset and of T and updates its fit; its state follows from the count, the spread of T and the
residuals. -/
def execModelLearnSample (dt : Nat) (s : State) : Host.Outcome State Fault Refusal :=
  let s1 := s.toBoundary dt Config.secondPos
  .next (if s1.halted || s1.rd Reg.TIM_DPLL_STATE 0 != dpllLocked ||
      s1.addr < s1.tim.lockedAt + 60 * Config.secondPos || (s1.tim.fitLog.head?.any (fun e => e.1 == s1.addr)) then s1
    else
      let y : Rat := (histSum s1.tim.hist (s1.addr - Config.secondPos) s1.addr : Rat) / (8 * Config.secondPos)
      let f := s1.tim.fit.sample s1.addr (s1.tempAt s1.addr * 16).floor (s1.fitTerms s1.addr) y
      let s2 := ({ s1 with tim := { s1.tim with
        fit := f, fitLog := ((s1.addr, s1.tim.fit) :: s1.tim.fitLog).take 4 } } : State).showFit
      let s3 := s2.wr Reg.TIM_MODEL_RMS 0 (min (2 ^ 32 - 1) (Nat.sqrt f.meanSquare.floor.toNat))
      let limit := s3.rd Reg.TIM_MODEL_RMS_MAX 0
      let s4 := if s3.rd Reg.TIM_MODEL_STATE 0 = 2 then
          (if ((2 * limit : Nat) : Rat) ^ 2 < f.hourSquare then s3.setModel 1 else s3)
        else s3.setModel (if f.valid limit then 2 else 1)
      s4.draw)

/-- PPSOUT is held low: disabled, or squelched in FREERUN (R98). -/
def State.ppsoutLow (s : State) : Bool :=
  !s.sys.configured || !s.rdBit Reg.TIM_PPSOUT_EN 0 || (s.rdBit Reg.TIM_PPSOUT_SQ 0 && s.rd Reg.TIM_DPLL_STATE 0 = dpllFreerun)

/-- PPSOUT rises, `sub` 1/3,125 into the position, unless it is held low (R98). -/
def State.pulse (s : State) (sub : Nat) : State :=
  if s.ppsoutLow || s.halted then s
  else { s with tim := { s.tim with pulses := s.tim.pulses + 1, pulseAt := some (s.time, sub) } }

/-- TOD_SET_APPLY (R96, R98): at the address of the earliest TIM_SET_TOD waiting, the time of day takes
its value; a value of 0 ns emits a PPSOUT pulse there. -/
def execTodSetApply (dt : Nat) (s : State) : Host.Outcome State Fault Refusal :=
  let s1 := s.elapse dt
  .next (match s1.tim.todQueue with
    | [] => s1
    | (a, sec, ns) :: rest => s1.whenAddr a (fun s2 =>
      let s3 := ({ s2 with tim := { s2.tim with todQueue := rest, todSet := true } }).setTod
        (sec * todSecond + ns * 486)
      if ns = 0 then s3.pulse 0 else s3))

/-- A second in tenths of a nanosecond. -/
def tenthSecond : Int := 10000000000

/-- PPSIN_EDGE (R97): a rising edge is time-stamped in time of day with 0.1 ns resolution, `sub` tenths of
a nanosecond into its position. An edge 999 to 1,001 ms after the one before ends the lack of edges; any other is
one (Table 03-3). Where ACQUIRE began before any edge, the first edge decides on its step (log entry 58). -/
def execPpsinEdge (dt sub : Nat) (s : State) : Host.Outcome State Fault Refusal :=
  let s1 := s.elapse dt
  let t := s1.todNow * 10 / 486 + sub
  let frac : Int := (t : Int) % tenthSecond
  let err : Int := if frac < 5000000000 then frac else frac - tenthSecond
  let gap := s1.time - s1.tim.ppsAt
  let good := 999 * Config.msPos ≤ gap && gap ≤ 1001 * Config.msPos
  let others := s1.tim.noEdge.filter (· != 18)
  let s2 := { s1 with tim := { s1.tim with
      ppsEdge := some t, ppsAt := s1.time, ppsErr := err, stepArmed := false,
      noEdge := if s1.tim.ppsEdge.isNone then s1.tim.noEdge else if good then others else 18 :: others } }
  let s3 := if s1.tim.stepArmed && s2.ppsStepDue then { s2 with tim := { s2.tim with stepNext := some err } }
    else s2
  .next s3.timReview

/-- PPSOUT_PULSE (R98): at the next whole second of the time of day plus TIM_PPSOUT_COMP, PPSOUT rises; within the position the
rise falls at the exact instant. -/
def execPpsoutPulse (dt : Nat) (s : State) : Host.Outcome State Fault Refusal :=
  let s1 := s.elapse dt
  let late : Int := ((s1.todNow : Int) - s1.rdInt Reg.TIM_PPSOUT_COMP 0 * 486) % todSecond
  let left := (todSecond - late).toNat
  .next ((s1.waitAddr (s1.addr + left / 3125)).pulse (left % 3125))

/-- PPSOUT stands high for TIM_PPSOUT_WIDTH µs after a pulse, unless it is held low (R98); the width acts as written
(log entry 58). -/
def State.ppsoutHigh (s : State) : Bool :=
  !s.ppsoutLow && match s.tim.pulseAt with
  | none => false
  | some (t, sub) => decide ((s.time - t) * 3125 * 100 < sub * 100 + s.rd Reg.TIM_PPSOUT_WIDTH 0 * Config.hundredUsPos * 3125)

/-- The QL that transmitters send (Table 03-7; R395 while SLAVED), before R69's exception for the selected source. -/
def State.outgoingQl (s : State) : Nat :=
  let st := s.rd Reg.TIM_DPLL_STATE 0
  let shf := s.rd Reg.SHF_STATE 0
  if st = dpllSlaved then s.par.mateQl.getD 0xF
  else if st = dpllLocked || (st = dpllAcquire && shf = 2) then s.rd Reg.TIM_CAND_QL (s.rd Reg.TIM_SEL 0)
  else if st = dpllHoldover || (st = dpllAcquire && shf = 3) then s.rd Reg.TIM_OUT_HO_QL 0
  else s.rd Reg.TIM_OUT_FR_QL 0

/-- The candidate whose source gets DNU or DUS instead (R69): the selected one, or unit A's while SLAVED (R395). -/
def State.qlSource (s : State) : Nat :=
  if s.rd Reg.TIM_DPLL_STATE 0 = dpllSlaved then s.par.mateSel else s.rd Reg.TIM_SEL 0

/-- The QL sent on a lane: DNU or DUS on the source of the selected candidate (R69). -/
def State.laneQl (s : State) (l : Nat) : Nat :=
  let c := s.cand s.qlSource
  if s.qlSource < 16 && (c.kind = 0 || c.kind = 1) && c.laneIndex = l then 0xF else s.outgoingQl

/-- The QL sent on a circuit of a tributary link: DNU or DUS on the source of the selected candidate (R69). -/
def State.circuitQl (s : State) (link slot : Nat) : Nat :=
  let c := s.cand s.qlSource
  if s.qlSource < 16 && c.kind = 3 && c.lane = link && c.chan = slot then 0xF else s.outgoingQl

/-- REFOUT `k` is held low (R99, R589): before the first configuration set, disabled, or squelched by its source's QL or by FREERUN. With the DCO as its source, that
QL is the outgoing QL (log entry 58). -/
def State.refoutLow (s : State) (k : Nat) : Bool :=
  let en := if k = 0 then s.rdBit Reg.TIM_REFOUT0_EN 0 else s.rdBit Reg.TIM_REFOUT1_EN 0
  let sq := if k = 0 then s.rdBit Reg.TIM_REFOUT0_SQ 0 else s.rdBit Reg.TIM_REFOUT1_SQ 0
  let worst := if k = 0 then s.rd Reg.TIM_REFOUT0_SQ_QL 0 else s.rd Reg.TIM_REFOUT1_SQ_QL 0
  let direct := if k = 0 then s.rdBit Reg.TIM_REFOUT0_SRC 0 else s.rdBit Reg.TIM_REFOUT1_SRC 0
  let cand := if k = 0 then s.rd Reg.TIM_REFOUT0_CAND 0 else s.rd Reg.TIM_REFOUT1_CAND 0
  let ql := if direct then s.rd Reg.TIM_CAND_QL cand else s.outgoingQl
  let option := s.rd Reg.TIM_QL_OPTION 0
  !s.sys.configured || !en || (sq && (qlRank option worst < qlRank option ql ||
    (!direct && s.rd Reg.TIM_DPLL_STATE 0 = dpllFreerun)))

/-- The rate of REFOUT `k`, in Hz (R99). -/
def State.refoutHz (s : State) (k : Nat) : Nat :=
  match if k = 0 then s.rd Reg.TIM_REFOUT0_FREQ 0 else s.rd Reg.TIM_REFOUT1_FREQ 0 with
  | 0 => 2048000
  | 1 => 1544000
  | 2 => 10000000
  | _ => 8000

/-! ### Commands -/

/-- The reset domain of the timing and shaft blocks (Table 16-6). -/
def domShaft : Nat := 1

/-- A candidate number is above 19 or its candidate is not enabled (Table 03-13), by the enable in force (R101). -/
def State.badCand (s : State) (n : Nat) : Bool := 19 < n || !(s.cand n).enabled

/-- TIM_FORCE (Table 03-12). -/
def execTimForce (dt : Nat) (h : HostRef) (cand : Nat) (s : State) : Host.Outcome State Fault Refusal :=
  .next (s.command dt h domShaft Op.TIM_FORCE (fun a =>
    if a.badCand cand then a.refuse h Op.TIM_FORCE 1
    else if a.candState cand != 3 then a.refuse h Op.TIM_FORCE 2
    else ({ a with tim := { a.tim with forced := some cand } }.wrBit Reg.TIM_FORCED 0 true).done h Op.TIM_FORCE))

/-- TIM_CLEAR (Table 03-12). -/
def execTimClear (dt : Nat) (h : HostRef) (s : State) : Host.Outcome State Fault Refusal :=
  .next (s.command dt h domShaft Op.TIM_CLEAR (fun a =>
    ({ a with tim := { a.tim with forced := none } }.wrBit Reg.TIM_FORCED 0 false).done h Op.TIM_CLEAR))

/-- A candidate enters LOCKED_OUT (R75): any WTR timer is discarded, and a qualify timer keeps running. -/
def State.lockOut (s : State) (n : Nat) : State :=
  let c := (s.cand n).resume s.addr
  let s1 := s.setCand n { c with wtrFrom := none, wtrWaits := false, keepQual := s.candState n == 3 }
  let s2 := (s1.qualTimer n).wr Reg.TIM_CAND_STATE n 5
  if s2.rd Reg.TIM_SEL 0 = n then { s2 with tim := { s2.tim with disqAt := s2.addr } } else s2

/-- A candidate leaves LOCKED_OUT (Table 03-15). -/
def State.lockRelease (s : State) (n : Nat) : State :=
  let c := s.cand n
  if s.qualCause n != 0 then
    (s.setCand n { c with since := none }).wr Reg.TIM_CAND_STATE n 1
  else
    let a := c.since.getD s.addr
    let s1 := s.setCand n { c with since := some a }
    if s.addr < a + s.qualPos n then s1.wr Reg.TIM_CAND_STATE n 2
    else if c.keepQual then (s1.wr Reg.TIM_CAND_STATE n 3).raise Ev.REF_QUALIFIED (srcCand n)
      [(1, n), (4, satSigned 4 (s1.rdInt Reg.TIM_CAND_FREQ n))]
    else s1.qualify n

/-- TIM_LOCKOUT (R75): takes effect at the next cycle boundary. -/
def execTimLockout (dt : Nat) (h : HostRef) (cand on : Nat) (s : State) : Host.Outcome State Fault Refusal :=
  .next (s.command dt h domShaft Op.TIM_LOCKOUT (fun a =>
    if a.badCand cand then a.refuse h Op.TIM_LOCKOUT 1
    else
      let b := a.waitAddr (nextCycle a.addr)
      let c := if on = 1 then (if b.candState cand = 5 then b else (b.lockOut cand).cancelForce cand)
        else if b.candState cand = 5 then b.lockRelease cand else b
      c.done h Op.TIM_LOCKOUT))

/-- TIM_HOLDOVER (Table 03-12, R81): the DPLL acts on it at the next cycle boundary. With no disqualification behind it, the
history window ends 1 s before the command's address (log entry 58). -/
def execTimHoldover (dt : Nat) (h : HostRef) (on : Nat) (s : State) : Host.Outcome State Fault Refusal :=
  .next (s.command dt h domShaft Op.TIM_HOLDOVER (fun a =>
    { a with tim := { a.tim with holdOn := decide (on = 1),
                                 disqAt := if on = 1 then a.addr else a.tim.disqAt } }.done h Op.TIM_HOLDOVER))

/-- TIM_STEER (R91 to R94): the value is stored, clamped to ±500 ppm; the last of one cycle applies and
each earlier one is counted. -/
def execTimSteer (dt : Nat) (h : HostRef) (value : Int) (s : State) : Host.Outcome State Fault Refusal :=
  .next (s.command dt h domShaft Op.TIM_STEER (fun a =>
    let v : Int := max (-500000000) (min 500000000 value)
    let again := match a.tim.steerLast with
      | some t => t / Config.cyclePos == a.cycle
      | none => false
    let en := (a.cand 19).enabled
    let b := if again then a.count Reg.TIM_STEER_SUPERSEDED_CNT 0 else a
    let c := { b with tim := { b.tim with
        steer := v, steerRaw := value,
        steerAt := if en then some b.addr else b.tim.steerAt, steerLast := some b.addr,
        steerQual := b.tim.steerQual || (en && b.candState 19 = 1) } }
    if v = value then c.done h Op.TIM_STEER
    else
      ((c.wrBit Reg.TIM_DCO_LIMIT 0 true).raiseC Ev.DCO_LIMIT srcDevice
        [(4, satSigned 4 value)]).complete h Op.TIM_STEER 1 4 []))

/-- Values queued by address, earliest first. -/
def insertByAddr (q : List (Nat × Nat × Nat)) (e : Nat × Nat × Nat) : List (Nat × Nat × Nat) :=
  q.takeWhile (fun x => decide (x.1 ≤ e.1)) ++ e :: q.dropWhile (fun x => decide (x.1 ≤ e.1))

/-- An address that a command may name: in the future and no more than 65,535 cycles ahead, counted in whole cycle numbers
(R96, R126, log entry 58). -/
def State.addrAhead (s : State) (a : Nat) : Bool :=
  decide (s.addr < a) && decide (a / Config.cyclePos ≤ s.cycle + 65535)

/-- TIM_SET_TOD (R96). Nanoseconds of 10⁹ or more and a position above 19,439 carry over (log entry 58). -/
def execTimSetTod (dt : Nat) (h : HostRef) (stamp sec ns : Nat) (s : State) :
    Host.Outcome State Fault Refusal :=
  .next (s.command dt h domShaft Op.TIM_SET_TOD (fun a =>
    let at_ := addrOfStamp stamp
    if a.addrAhead at_ then
      { a with tim := { a.tim with todQueue := insertByAddr a.tim.todQueue (at_, sec, ns) } }.done h
        Op.TIM_SET_TOD
    else a.refuse h Op.TIM_SET_TOD 3))

/-- TIM_TOD_CAPTURE (Table 03-12): the completion carries the stamp and the time of day of the cycle
boundary at which it is processed: the stamp in the record's own bytes 8 to 15, the seconds and the
nanoseconds in its result (log entry 10). -/
def execTimTodCapture (dt : Nat) (h : HostRef) (s : State) : Host.Outcome State Fault Refusal :=
  .next (s.command dt h domShaft Op.TIM_TOD_CAPTURE (fun a =>
    let b := a.waitAddr (nextCycle a.addr)
    b.complete h Op.TIM_TOD_CAPTURE 0 0
      [(6, b.todSec), (4, b.todNs)]))

/-- `a + b√d` is above 0, for `d` at or above 0. -/
def surdPos (a b d : Rat) : Bool :=
  if 0 ≤ a then decide (0 < a) && decide (0 ≤ b) || decide (0 < b * b * d) && decide (0 ≤ b) || decide (b < 0) && decide (b * b * d < a * a)
  else decide (0 < b) && decide (a * a < b * b * d)

/-- The cubic `x (c1 + x (c2 + x c3))` stays at or below `m` at every real `x` from `lo` to `hi`: at both ends, and at each
turning point between them, where `x` is `(-c2 ± √d) / (3 c3)`, or `-c1 / (2 c2)` for a quadratic (R90). -/
def cubicBelow (c1 c2 c3 lo hi m : Rat) : Bool :=
  let f (x : Rat) : Rat := x * (c1 + x * (c2 + x * c3))
  let d := c2 * c2 - 3 * c1 * c3
  let ends := decide (f lo ≤ m) && decide (f hi ≤ m)
  if c3 = 0 then ends && (c2 = 0 || (let x := -c1 / (2 * c2); x ≤ lo || hi ≤ x || decide (f x ≤ m)))
  else if d ≤ 0 then ends
  else ends && [1, -1].all (fun (g : Rat) =>
    let p := -c2 / (3 * c3)
    let q := g / (3 * c3)
    -- the cubic at a turning point is linear in it: the rest of its division by its derivative
    let r1 := (2 * c1 - 2 * c2 * c2 / (3 * c3)) / 3
    let r0 := -(c1 * c2) / (9 * c3)
    !(surdPos (p - lo) q d && surdPos (hi - p) (-q) d) || !surdPos (r0 + r1 * p - m) (r1 * q) d)

/-- A loaded model stays within ±500 ppm at every T from −40 °C to +125 °C, with no slope (R90). -/
def modelInRange (p : ModelCoef) : Bool :=
  let t0 : Rat := (p.t0 : Rat) / 16
  let c1 : Rat := (p.c1 : Rat) / 256
  let c2 : Rat := (p.c2 : Rat) / 256
  let c3 : Rat := (p.c3 : Rat) / 256
  decide (-640 ≤ p.t0) && decide (p.t0 ≤ 2000) &&
    cubicBelow c1 c2 c3 (-40 - t0) (125 - t0) 500000000 && cubicBelow (-c1) (-c2) (-c3) (-40 - t0) (125 - t0) 500000000

/-- The fit goes on from loaded coefficients (R90); its variance starts anew. -/
def State.loadFit (s : State) (p : ModelCoef) : State :=
  let theta : List Rat := [p.c1, p.c2, p.c3, p.c4, p.age].map (fun (x : Int) => (x : Rat) / 256)
  { s with tim := { s.tim with fit := { s.tim.fit with theta := theta ++ [s.tim.fit.theta.getD 5 0], cov := [] } } }

/-- TIM_MODEL_LOAD (R90): all six coefficients at the next cycle boundary, and the model is VALID. -/
def execTimModelLoad (dt : Nat) (h : HostRef) (p : ModelCoef) (s : State) : Host.Outcome State Fault Refusal :=
  .next (s.command dt h domShaft Op.TIM_MODEL_LOAD (fun a =>
    if modelInRange p then
      let b := a.waitAddr (nextCycle a.addr)
      let c := (((((b.wrInt Reg.TIM_MODEL_C1 0 p.c1).wrInt Reg.TIM_MODEL_C2 0 p.c2).wrInt Reg.TIM_MODEL_C3 0
        p.c3).wrInt Reg.TIM_MODEL_C4 0 p.c4).wrInt Reg.TIM_MODEL_AGE 0 p.age).wrInt Reg.TIM_MODEL_T0 0 p.t0
      let c := c.loadFit p
      let old := c.rd Reg.TIM_MODEL_STATE 0
      let d := if old = 2 then c
        else (c.wr Reg.TIM_MODEL_STATE 0 2).raiseC Ev.MODEL_STATE_CHANGE srcDevice
          [(1, old), (1, 2), (4, c.rd Reg.TIM_MODEL_RMS 0)]
      d.done h Op.TIM_MODEL_LOAD
    else a.refuse h Op.TIM_MODEL_LOAD 4))

/-- TIM_WTR_CLEAR (R74): a candidate's WTR ends at the next cycle boundary. -/
def execTimWtrClear (dt : Nat) (h : HostRef) (cand : Nat) (s : State) : Host.Outcome State Fault Refusal :=
  .next (s.command dt h domShaft Op.TIM_WTR_CLEAR (fun a =>
    if a.badCand cand then a.refuse h Op.TIM_WTR_CLEAR 1
    else
      let b := a.waitAddr (nextCycle a.addr)
      let c :=
        if b.candState cand = 4 then
          ((b.setCand cand { b.cand cand with wtrFrom := none, wtrWaits := false }).wr Reg.TIM_CAND_STATE
            cand 3).raiseC Ev.REF_QUALIFIED (srcCand cand)
            [(1, cand), (4, satSigned 4 (b.rdInt Reg.TIM_CAND_FREQ cand))]
        else b
      c.done h Op.TIM_WTR_CLEAR))

/-- REF_INPUT_NO_EDGE (R61, Table 03-3): no edge on REFIN0, REFIN1 or PPSIN in time; the candidate has a
signal defect. -/
def execRefInputNoEdge (dt cand : Nat) (s : State) : Host.Outcome State Fault Refusal :=
  let s1 := s.elapse dt
  let early := cand = 18 && s1.tim.ppsEdge.isSome && s1.time - s1.tim.ppsAt < 1001 * Config.msPos
  let s2 := if 16 ≤ cand && cand ≤ 18 && !early && !s1.tim.noEdge.contains cand then
      { s1 with tim := { s1.tim with noEdge := cand :: s1.tim.noEdge } } else s1
  .next s2.timReview

/-- ESMC_PDU_TIMEOUT (R68, Table 03-6): no ESMC PDU for 5 s on a 10GBASE-R or 25GBASE-R source, so its
received QL becomes DNU or DUS. -/
def execEsmcPduTimeout (dt lane : Nat) (s : State) : Host.Outcome State Fault Refusal :=
  let s1 := s.elapse dt
  let mode := s1.rd Reg.PRT_LANE_MODE lane
  let early := match tfind s1.tim.esmc lane with
    | some a => decide (s1.addr < a + 5 * Config.secondPos)
    | none => false
  .next (if (mode = 7 || mode = 8) && !early then s1.acceptLaneQl lane 0xF else s1)

end Sys2Proof.Machine
end

