-- ==== Sys2Proof/Machine/Filters.lean ====
section
/-! DEFINITION. The filter chains (R104 to R134): CIC decimator, DC blocker, FIR and output stage, banks and
swaps, cross-fades, resets, and what each word does to its consumer (R86, R422 to R426). -/

namespace Sys2Proof.Machine

/-- The reset domain of the filter chains (Table 16-6). -/
def domFlt : Nat := 12

/-! ### Channels -/

/-- A filter channel's state beside its registers. -/
def State.chan (s : State) (n : Nat) : FltChan := tget {} s.flt.chans n

/-- The state with a filter channel replaced. -/
def State.setChan (s : State) (n : Nat) (c : FltChan) : State :=
  { s with flt := { s.flt with chans := tset s.flt.chans n c } }

/-- A feed channel, whose samples are bits of a modulator (Table 04-1). -/
def isFeed (n : Nat) : Bool := 20 ≤ n && n < 36

/-- The feed pair of a feed channel. -/
def feedOf (n : Nat) : Nat := (n - 20) / 2

/-- The channel is enabled (Table 04-4): channel 19 never is. -/
def State.chanOn (s : State) (n : Nat) : Bool :=
  n != 19 && n < 48 &&
  (if n < 32 then bitOf (s.rd Reg.FLT_CH_EN_LO 0) n else bitOf (s.rd Reg.FLT_CH_EN_HI 0) (n - 32))

/-- The channel's source delivers samples (R130); FMCLK stops in the last gasp's fourth stage (Table 13-4). -/
def State.chanFed (s : State) (n : Nat) : Bool :=
  if n < 20 then (s.cand n).enabled
  else if isFeed n then bitOf (s.rd Reg.FLT_FMCLK_EN 0) (feedOf n) && s.rd Reg.ENG_LG_STAGE 0 != 4
  else true

/-- N and R of a preset (Table 04-2). -/
def presetNR (preset : Nat) (feed : Bool) : Nat × Nat :=
  match preset, feed with
  | 0, false => (3, 8)
  | 1, false => (4, 64)
  | 2, false => (4, 512)
  | 3, false => (5, 4096)
  | 0, true => (3, 64)
  | 1, true => (4, 256)
  | 2, true => (5, 1024)
  | _, _ => (5, 4096)

/-- A tap of a preset's stock coefficients, in 24 bits signed (R110): a free value (R115 gives the response), symmetric because the
stamps rely on it (R113). Log entry 8. -/
def stockTap (preset kind i : Nat) : Int := (Config.freeStock ((preset * 2 + kind) * 32 + min i (63 - i))).toInt

/-- The 64 taps of a bank. -/
def FltBank.list : FltBank → List Int
  | .stock p k => (List.range 64).map (stockTap p k)
  | .taps l => l

/-- The kind of a channel's stock coefficients: 1 for a feed bitstream. -/
def stockKind (n : Nat) : Nat := ofBool (isFeed n)

/-- The default preset of a channel (R116). -/
def defaultPreset (n : Nat) : Nat := if n < 20 then 1 else if isFeed n then 0 else 2

/-- The contents of bank A (0) or B of a channel; both hold the default preset's stock coefficients until
they are loaded. -/
def State.bankOf (s : State) (n b : Nat) : FltBank :=
  ((if b = 0 then (s.chan n).bankA else (s.chan n).bankB)).getD (.stock (defaultPreset n) (stockKind n))

/-- The chain in force on a channel. -/
def State.chain (s : State) (n : Nat) : FltInst :=
  match (s.chan n).cur with
  | some x => x
  | none => { n := s.rd Reg.FLT_CH_N n, r := s.rd Reg.FLT_CH_R n, k := s.rd Reg.FLT_CH_DC_K n,
              bank := s.bankOf n (s.rd Reg.FLT_CH_BANK n) }

/-- A chain after a synchronising reset (R126). A frozen DC blocker keeps its estimate. -/
def FltInst.cleared (x : FltInst) (frozen : Bool) : FltInst :=
  { x with integ := [], comb := [], fir := [], samples := 0, words := 0, clamp := none,
           est := if frozen then x.est else 0 }

/-! ### The chain's arithmetic -/

/-- The modulus of the decimator's 84-bit registers (R108). -/
def cicMod : Int := 2 ^ 84

/-- One input sample through the integrators (R108): each adds the one before it. -/
def integrate : List Nat → Int → List Nat
  | [], _ => []
  | a :: rest, x =>
    let v := (((a : Int) + x) % cicMod).toNat
    v :: integrate rest v

/-- One decimated value through the combs, with a differential delay of 1: the new delays, and the
result. -/
def combs : List Nat → Nat → List Nat × Nat
  | [], x => ([], x)
  | d :: rest, x =>
    let y := (((x : Int) - d) % cicMod).toNat
    let r := combs rest y
    (x :: r.1, r.2)

/-- The registers of a chain, at zero where nothing has entered. -/
def regsOf (n : Nat) (l : List Nat) : List Nat := if l.isEmpty then List.replicate n 0 else l

/-- The FIR over its delay line, newest first (R110): taps in Q1.22. -/
def firSum (taps : List Int) (line : List Rat) : Rat :=
  ((taps.zip line).map (fun p => (p.1 : Rat) * p.2)).sum / 4194304

/-- The samples run through the integrators. -/
def FltInst.absorb (x : FltInst) (l : List Int) : FltInst :=
  { x with integ := l.foldl integrate (regsOf x.n x.integ), samples := x.samples + l.length }

/-- The decimated value through the combs, with the decimator's gain of R^N removed (R108). -/
def FltInst.decimate (x : FltInst) : FltInst × Rat :=
  let c := combs (regsOf x.n x.comb) ((regsOf x.n x.integ).getLastD 0)
  ({ x with comb := c.1 }, (signed 84 c.2 : Rat) / (x.r : Rat) ^ x.n)

/-- The DC blocker (R109): y = x − e, then e + 2⁻ᵏ(x − e) unless frozen; k = 0 bypasses it. -/
def FltInst.block (x : FltInst) (v : Rat) (frozen : Bool) : FltInst × Rat :=
  if x.k = 0 then ({ x with est := 0 }, v)
  else ({ x with est := if frozen then x.est else x.est + (v - x.est) / 2 ^ x.k }, v - x.est)

/-- The largest input sample (R106), and the output word's limit (R111). -/
def inputLimit : Int := 8388607
def wordLimit : Int := 2147483647

/-- An input sample as it enters the chain (Table 04-1): a phase sample held to ±(2²³ − 1), a bit as ±2²²,
a temperature as 24 bits signed. -/
def enterSample (ch : Nat) (x : Int) : Int :=
  if ch < 20 then max (-inputLimit) (min inputLimit x)
  else if isFeed ch then (if x = 0 then -4194304 else 4194304)
  else signed 24 (pattern 24 x)

/-- The group delay D in 2⁻¹⁶ positions (R112): N(R − 1)/2 + 31.5 R sample periods, of 19,440 positions
for a cycle-rate source and of 15.552 for a feed bitstream. -/
def groupDelay (n r : Nat) (feed : Bool) : Rat :=
  let d : Rat := (n : Rat) * ((r : Rat) - 1) / 2 + 63 * (r : Rat) / 2
  d * 65536 * (if feed then 1944 / 125 else 19440)

/-- FLT_CH_GDELAY: D in whole positions, a half rounded up. -/
def gdelayPos (n r : Nat) (feed : Bool) : Nat := (groupDelay n r feed / 65536 + 1 / 2).floor.toNat

/-- The number of the last FMCLK edge at or before the position `addr`, counted from 0:0 (R105). -/
def feedEdges (addr : Nat) : Nat := ((addr + 1) * 125 - 1) / 1944

/-- The instant of the last input sample at or before the position `addr`, in 2⁻¹⁶ positions (R104,
R105). -/
def sampleInstant (addr : Nat) (feed : Bool) : Rat :=
  if feed then (feedEdges addr : Rat) * 1944 / 125 * 65536
  else ((addr / Config.cyclePos * Config.cyclePos : Nat) : Rat) * 65536

/-- A word's stamp in 2⁻¹⁶ positions before it is held at 0:0 (R112, R114). -/
def wordStamp (addr n r : Nat) (feed : Bool) : Int := (sampleInstant addr feed - groupDelay n r feed).floor

/-! ### Consumers -/

/-- T: the mean of the latest words of the selected die sensors in °C (R85). An output unit is 1/256 of
1/256 °C. -/
def State.meanTemp (s : State) : Rat :=
  let sel := (List.range 12).filter (fun i => bitOf (s.rd Reg.TIM_MODEL_SENSORS 0) i)
  if sel.isEmpty then 0
  else ((sel.map (fun i => (s.chan (36 + i)).vLast)).sum : Rat) / (65536 * sel.length)

/-- A physical figure as a register holds it: brought to a whole number, and free where it lies outside
the register's format (log entry 12). -/
def State.figure (s : State) (w : Nat) (sgn : Bool) (q : Rat) : Nat :=
  let v := s.wholeFree q
  let lo : Int := if sgn then -(2 ^ (w - 1)) else 0
  let hi : Int := if sgn then 2 ^ (w - 1) - 1 else 2 ^ w - 1
  if lo ≤ v && v ≤ hi then pattern w v else pattern w (Config.freeRound s.freeCtr)

/-- A pair's state beside its registers. -/
def State.feed (s : State) (k : Nat) : FeedSt := tget {} s.feeds k

/-- The state with a feed pair replaced. -/
def State.setFeed (s : State) (k : Nat) (f : FeedSt) : State := { s with feeds := tset s.feeds k f }

/-- A feed word in physical units (R422). -/
def State.feedVolts (s : State) (k : Nat) (v : Int) : Rat := (v : Rat) * s.rd Reg.ENG_FEED_VFS k / 2 ^ 30
def State.feedAmps (s : State) (k : Nat) (v : Int) : Rat := (v : Rat) * s.rd Reg.ENG_FEED_IFS k / 2 ^ 30

/-- The low judgement of a voltage word (R426, R433): the condition, its event when it sets or clears,
the run of low words and the time above the minimum. -/
def State.feedLow (s : State) (k : Nat) (stamp v : Int) : State :=
  let volts := s.feedVolts k v
  let vmin : Rat := s.rd Reg.ENG_FEED_VMIN k
  let low := decide (volts < vmin)
  let f := s.feed k
  let f1 : FeedSt := { f with
      lowRun := if low then f.lowRun + 1 else 0,
      lowFrom := if low && f.lowRun != 0 then f.lowFrom else stamp,
      okSince := if vmin < volts then (if f.okSince.isSome then f.okSince else some s.time) else none }
  let was := s.rdBit Reg.ENG_FEED_LOW k
  ((s.setFeed k f1).wrBit Reg.ENG_FEED_LOW k low).raiseIf (was != low) Ev.ENG_FEED_LOW (srcFeed k)
    [(1, k), (1, ofBool low), (4, satSigned 4 (s.wholeFree volts))]

/-- The four bytes of a stamp in ENG_FEED_UNALIGNED (Table 13-8): cycle [15:0], then the position. -/
def shortStamp (st : Int) : Nat :=
  let a := (max 0 st / 65536).toNat
  a / Config.cyclePos % 65536 + 65536 * (a % Config.cyclePos)

/-- The pair's words meet (R423): the same stamp forms P; different stamps exclude the pair. -/
def State.feedPair (s : State) (k : Nat) : State :=
  let f := s.feed k
  match f.v, f.i with
  | some (sv, v), some (si, i) =>
    let f1 : FeedSt := { f with v := none, i := none }
    if sv = si then
      let p := s.feedVolts k v * s.feedAmps k i / 100000
      let s1 := s.setFeed k { f1 with pSum := f.pSum + p, pCount := f.pCount + 1 }
      ((s1.wr Reg.ENG_FEED_P k (s1.figure 20 false p)).wrBit Reg.ENG_FEED_UNALIGNED k false).draw
    else
      let s1 := s.setFeed k f1
      if s1.rdBit Reg.ENG_FEED_UNALIGNED k then s1
      else (s1.wrBit Reg.ENG_FEED_UNALIGNED k true).raise Ev.ENG_FEED_UNALIGNED (srcFeed k)
        [(1, k), (3, 0), (4, shortStamp sv), (4, shortStamp si)]
  | _, _ => s

/-- A word of a feed channel reaches the governor (R422, R423, R426). -/
def State.feedWord (s : State) (ch : Nat) (stamp v : Int) : State :=
  let k := feedOf ch
  if s.rd Reg.ENG_FEED_EN k = 0 then s
  else if ch % 2 = 0 then
    let s1 := (s.wr Reg.ENG_FEED_V k (s.figure 16 true (s.feedVolts k v))).draw
    ((s1.setFeed k { s1.feed k with v := some (stamp, v) }).feedLow k stamp v).feedPair k
  else
    let s1 := (s.wr Reg.ENG_FEED_I k (s.figure 16 true (s.feedAmps k v))).draw
    (s1.setFeed k { s1.feed k with i := some (stamp, v) }).feedPair k

/-- An output word as it is delivered. -/
structure FltWord where
  stamp : Int
  value : Int
  bank  : Nat
  flags : Nat
  deriving DecidableEq, Repr

/-- The 16 bytes of an output word (Table 04-3, R114). -/
def FltWord.bytes (w : FltWord) (ch : Nat) : List Nat :=
  let t := (max 0 w.stamp).toNat
  leBytes 8 (stampOf (t / 65536)) ++ leBytes 4 (pattern 32 w.value) ++ leBytes 2 (t % 65536) ++
    [ch + 64 * w.bank, w.flags]

/-- A word goes to its consumer, and to its queue when FLT_CH_QUEUE_EN is set (R106, R107). -/
def State.deliverWord (s : State) (ch : Nat) (w : FltWord) : State :=
  let s1 := (s.setChan ch { s.chan ch with vLast := w.value }).count Reg.FLT_CH_WORD_CNT ch
  let s2 :=
    if isFeed ch then s1.feedWord ch (max 0 w.stamp) w.value
    else if 36 ≤ ch then { s1 with tim := { s1.tim with temps := (s1.addr, s1.meanTemp) :: s1.tim.temps } }
    else s1
  if s2.rdBit Reg.FLT_CH_QUEUE_EN ch then s2.pushRecord (65488 + ch) (w.bytes ch) else s2

/-! ### Words -/

/-- What a chain computed for a word: the value before the output clamp, and whether its input was
clamped, with the last sample clamped. -/
structure FltRaw where
  value : Rat
  inSat : Option Int
  deriving DecidableEq, Repr

/-- R input samples through a chain (R106 to R111, R127): the chain after them, how many of them fell
within settling, and what the word is made of, where they complete one. -/
def FltInst.run (x : FltInst) (ch : Nat) (frozen : Bool) (raw : List Int) : FltInst × Nat × Option FltRaw :=
  let room := x.r - x.samples % max 1 x.r
  let l := raw.take room
  let ins := l.map (enterSample ch)
  let now := if ch < 20 then (l.filter (fun v => decide (inputLimit < |v|))).getLast? else none
  let clamped := if now.isSome then now else x.clamp
  let settle := x.n * x.r
  let settled := min (x.samples + l.length) settle - min x.samples settle
  let x1 := x.absorb ins
  if l.length < room then ({ x1 with clamp := clamped }, settled, none)
  else
    let d := ({ x1 with clamp := none } : FltInst).decimate
    if x1.samples ≤ settle then (d.1, settled, none)
    else
      let b := d.1.block d.2 frozen
      let line := (b.2 :: b.1.fir).take 64
      let x2 : FltInst := { b.1 with fir := line, words := b.1.words + 1 }
      (x2, settled, some { value := firSum x2.bank.list line * 256, inSat := clamped })

/-- The output stage (R111): the clamped word, and whether the word is saturated with the value before
clamping (R117). -/
def State.outputStage (s : State) (r : FltRaw) : Int × Option Int :=
  let v := s.wholeFree r.value
  let c := max (-wordLimit - 1) (min wordLimit v)
  (c, if c = v then r.inSat else some v)

/-- A saturated word counts, and is reported when it follows one that was not (R117). -/
def State.judgeSat (s : State) (ch : Nat) (sat : Option Int) : State :=
  let was := s.rdBit Reg.FLT_CH_SAT ch
  match sat with
  | none => s.wrBit Reg.FLT_CH_SAT ch false
  | some v => ((s.count Reg.FLT_CH_SAT_CNT ch).wrBit Reg.FLT_CH_SAT ch true).raiseIf (!was) Ev.CHAIN_SATURATED
      (srcChannel ch) [(1, ch), (4, satSigned 4 v)]

/-- The flags of a word (Table 04-3). -/
def State.wordFlags (s : State) (ch words : Nat) (sat xfade early : Bool) : Nat :=
  ofBool (words == 1) + 2 * ofBool (words ≤ 63) + 4 * ofBool sat + 8 * ofBool xfade +
    16 * ofBool (s.rdBit Reg.FLT_CH_STUCK ch) + 32 * ofBool (s.rdBit Reg.FLT_CH_FROZEN ch) +
    64 * ofBool early

/-- A change of bit after a stuck input was found ends it (R118): of a row's bits, those of the edges since then. -/
def State.unstick (s : State) (ch : Nat) (raw : List Int) : State :=
  let since := feedEdges s.addr - feedEdges (s.chan ch).stuckFrom
  if isFeed ch && (raw.drop (raw.length - since)).any (fun v => ofBool (v != 0) != (s.chan ch).stuckAt) then
    s.wrBit Reg.FLT_CH_STUCK ch false
  else s

/-- The samples of the chain in force. Its word is the channel's until the incoming chain's first; after
that it is only the value a cross-fade leaves (R124). -/
def State.runCurrent (s : State) (ch : Nat) (raw : List Int) : State :=
  let feed := isFeed ch
  let x := s.chain ch
  let r := x.run ch (s.rdBit Reg.FLT_CH_FROZEN ch) raw
  let c := s.chan ch
  let s1 := (s.setChan ch { c with cur := some r.1 }).countBy Reg.FLT_CH_SETTLE_CNT ch r.2.1
  let s2 := if c.inc.isSome then s1 else s1.wrBit Reg.FLT_CH_SETTLING ch (r.1.samples < r.1.n * r.1.r)
  let s3 := if c.inc.isSome then s2
    else s2.wrInt Reg.FLT_CH_DC_EST ch (signed 32 (s2.figure 32 true (r.1.est * 256)))
  match r.2.2 with
  | none => s3.draw
  | some f =>
    let o := s3.outputStage f
    let s4 := s3.setChan ch { s3.chan ch with vOld := o.1 }
    if c.inc.isSome && 0 < c.fadeK then s4.draw
    else
      let st := wordStamp s4.addr r.1.n r.1.r feed
      let w : FltWord :=
        { stamp := st, value := o.1,
          bank := if c.inc.isSome then 1 - s4.rd Reg.FLT_CH_BANK ch else s4.rd Reg.FLT_CH_BANK ch,
          flags := s4.wordFlags ch r.1.words o.2.isSome false (decide (st < 0)) }
      ((s4.judgeSat ch o.2).deliverWord ch w).draw

/-- The samples of the incoming chain of a cross-fade (R123, R124): word k of L mixes the outgoing chain's
latest word with weight 1 − k/(L + 1). -/
def State.runIncoming (s : State) (ch : Nat) (raw : List Int) (x : FltInst) : State :=
  let feed := isFeed ch
  let r := x.run ch (s.rdBit Reg.FLT_CH_FROZEN ch) raw
  let c := s.chan ch
  let s1 := (s.setChan ch { c with inc := some r.1 }).countBy Reg.FLT_CH_SETTLE_CNT ch r.2.1
  let s2 := (s1.wrBit Reg.FLT_CH_SETTLING ch (r.1.samples < r.1.n * r.1.r)).wrInt Reg.FLT_CH_DC_EST ch
    (signed 32 (s1.figure 32 true (r.1.est * 256)))
  match r.2.2 with
  | none => s2.draw
  | some f =>
    let o := s2.outputStage f
    let k := c.fadeK + 1
    let len := s2.rd Reg.FLT_CH_XFADE_LEN ch
    let fades := decide (k ≤ len)
    let v := if fades then
        s2.nearest (((len + 1 - k : Nat) : Rat) / (len + 1) * c.vOld + (k : Rat) / (len + 1) * o.1)
      else o.1
    let st := wordStamp s2.addr r.1.n r.1.r feed
    let w : FltWord :=
      { stamp := st, value := v, bank := s2.rd Reg.FLT_CH_BANK ch,
        flags := s2.wordFlags ch r.1.words o.2.isSome fades (decide (st < 0)) }
    let s3 := (s2.setChan ch { s2.chan ch with fadeK := k, vNew := o.1 }).judgeSat ch o.2
    (s3.deliverWord ch w).draw

/-- The input samples of a row: a phase channel's are those that its detector gave in as many cycles (R57). -/
def State.inputs (s : State) (ch : Nat) (samples : List Int) : List Int :=
  if ch < 20 then s.phaseSamples ch samples.length else samples

/-- FLT_OUTPUT_WORD (R104 to R117, R124, R127): R input samples of a channel's chain, or of the incoming
chain of its cross-fade. A cycle-rate source samples at position 0 of a cycle; a HALTED shaft gives no samples (R50). -/
def execFltOutputWord (dt ch : Nat) (incoming : Bool) (samples : List Int) (s : State) :
    Host.Outcome State Fault Refusal :=
  let s1 := if isFeed ch then s.elapse dt else s.toBoundary dt Config.cyclePos
  .next (if s1.halted || !s1.chanOn ch || !s1.chanFed ch || s1.inReset domFlt then s1
    else
      let s2 := s1.unstick ch samples
      if incoming then
        match (s2.chan ch).inc with
        | none => s2
        | some x => s2.runIncoming ch (s2.inputs ch samples) x
      else s2.runCurrent ch (s2.inputs ch samples))

/-- INPUT_STUCK (R118): a feed bitstream has held one value for 1,024 bits. -/
def execInputStuck (dt ch level : Nat) (s : State) : Host.Outcome State Fault Refusal :=
  let s1 := s.elapse dt
  .next (if isFeed ch && s1.chanOn ch && !s1.rdBit Reg.FLT_CH_STUCK ch then
      ((s1.setChan ch { s1.chan ch with stuckAt := level % 2, stuckFrom := s1.addr }).wrBit Reg.FLT_CH_STUCK ch true).raise
        Ev.INPUT_STUCK (srcChannel ch) [(1, ch), (1, level)]
    else s1)

/-! ### Presets, banks and resets -/

/-- The bank of a channel is replaced. -/
def State.setBank (s : State) (ch b : Nat) (x : FltBank) : State :=
  let c := s.chan ch
  s.setChan ch (if b = 0 then { c with bankA := some x } else { c with bankB := some x })

/-- COMPLETE and ASYM of a bank. -/
def completeFld (b : Nat) : Fld := if b = 0 then Reg.FLT_CH_COMPLETE_A else Reg.FLT_CH_COMPLETE_B
def asymFld (b : Nat) : Fld := if b = 0 then Reg.FLT_CH_ASYM_A else Reg.FLT_CH_ASYM_B

/-- A bank's taps are symmetric (R113). -/
def symmetric (l : List Int) : Bool := (List.range 32).all (fun i => l.getD i 0 == l.getD (63 - i) 0)

/-- A complete bank is not symmetric; stock coefficients are. -/
def FltBank.asym : FltBank → Bool
  | .stock _ _ => false
  | .taps l => !symmetric l

/-- A bank whose writing is complete is checked (R113). -/
def State.checkBank (s : State) (ch b : Nat) : State :=
  let bad := (s.bankOf ch b).asym
  let s1 := (s.wrBit (completeFld b) ch true).wrBit (asymFld b) ch bad
  if bad then s1.raiseC Ev.COEF_ASYM (srcChannel ch) [(1, ch), (1, b)] else s1

/-- XFADE_START (R113, R123): at the cycle boundary after FLT_CONFIG, the incoming chain starts from a
synchronising reset. -/
def execXfadeStart (dt ch : Nat) (s : State) : Host.Outcome State Fault Refusal :=
  let s0 := s.elapse dt
  .next (match (s0.chan ch).cfg with
    | none => s0
    | some (p, h, due) => s0.whenAddr due (fun s1 =>
      let nr := if p.preset = 4 then (p.n, p.r) else presetNR p.preset (isFeed ch)
      let k := if p.preset = 4 then p.k else 0
      let b := 1 - s1.rd Reg.FLT_CH_BANK ch
      let out := s1.chain ch
      let s2 := s1.setChan ch { s1.chan ch with cur := some out, cfg := none, fadeK := 0 }
      let s3 := if p.keep || p.preset = 4 then s2
        else (s2.setBank ch b (.stock p.preset (stockKind ch))).checkBank ch b
      let x : FltInst := { n := nr.1, r := nr.2, k := k, resetAt := s3.addr, bank := s3.bankOf ch b }
      let s4 := s3.setChan ch { s3.chan ch with inc := some x }
      let s5 := (((((((s4.wr Reg.FLT_CH_PRESET ch p.preset).wr Reg.FLT_CH_N ch nr.1).wr Reg.FLT_CH_R ch
        nr.2).wr Reg.FLT_CH_DC_K ch k).wr Reg.FLT_CH_BANK ch b).wrBit Reg.FLT_CH_FADING ch true).wr
        Reg.FLT_CH_GDELAY ch (gdelayPos nr.1 nr.2 (isFeed ch))).wrBit Reg.FLT_CH_SETTLING ch true
      s5.done h Op.FLT_CONFIG))

/-- A cross-fade ends: the outgoing chain stops (R124, R128). -/
def State.endFade (s : State) (ch : Nat) (x : FltInst) : State :=
  let s1 := (s.setChan ch { s.chan ch with cur := some x, inc := none, fadeK := 0, vOld := (s.chan ch).vNew }).wrBit Reg.FLT_CH_FADING
    ch false
  s1.raise Ev.XFADE_DONE (srcChannel ch) [(1, ch), (1, s1.rd Reg.FLT_CH_PRESET ch)]

/-- XFADE_DONE (R124): after word L of the fade. With L = 0 the fade ends as the incoming chain has
settled, before its first word. -/
def execXfadeDone (dt ch : Nat) (s : State) : Host.Outcome State Fault Refusal :=
  let s1 := s.elapse dt
  .next (match (s1.chan ch).inc with
    | none => s1
    | some x =>
      let len := s1.rd Reg.FLT_CH_XFADE_LEN ch
      if len ≤ (s1.chan ch).fadeK && (0 < len || decide (x.n * x.r ≤ x.samples)) then s1.endFade ch x else s1)

/-- A cross-fade defers a swap; one deferred before is replaced (R121, R122). -/
def State.deferSwap (s : State) (ch : Nat) (w : Nat × HostRef) : State :=
  let old := (s.chan ch).defer
  let s1 := ((s.setChan ch { s.chan ch with defer := some w }).wrBit Reg.FLT_CH_DEFERRED ch true).wr
    Reg.FLT_CH_DEF_BANK ch w.1
  match old with
  | none => s1.raiseC Ev.SWAP_DEFERRED (srcChannel ch) [(1, ch), (1, w.1)]
  | some o => ((s1.count Reg.FLT_CH_SWAP_REPLACED_CNT ch).raiseC Ev.SWAP_REPLACED (srcChannel ch)
      [(1, ch), (1, o.1), (1, w.1)]).refuse o.2 Op.FLT_SWAP 7

/-- One swap takes effect (R120). -/
def State.applySwap (s : State) (ch : Nat) (w : Nat × HostRef) : State :=
  let x := s.chain ch
  let s1 := (s.setChan ch { s.chan ch with cur := some { x with bank := s.bankOf ch w.1 } }).wr Reg.FLT_CH_BANK ch w.1
  (s1.raise Ev.SWAP_DONE (srcChannel ch) [(1, ch), (1, w.1), (1, 0)]).done w.2 Op.FLT_SWAP

/-- The swap that a cross-fade deferred takes effect, or is dropped where its bank is incomplete (R121). -/
def State.applyDeferred (s : State) (ch : Nat) : State :=
  match (s.chan ch).defer with
  | none => s
  | some w =>
    let s1 := (s.setChan ch { s.chan ch with defer := none }).wrBit Reg.FLT_CH_DEFERRED ch false
    if s1.rdBit (completeFld w.1) ch then s1.applySwap ch w
    else (s1.raise Ev.SWAP_DONE (srcChannel ch) [(1, ch), (1, w.1), (1, 4)]).refuse w.2 Op.FLT_SWAP 4

/-- SWAP_DONE (R120, R121, R129): at an output sample boundary with no cross-fade in progress the swaps
waiting take effect in the order they came, and then the one deferred; in a cross-fade those that wait are deferred. -/
def execSwapDone (dt ch : Nat) (s : State) : Host.Outcome State Fault Refusal :=
  let s1 := s.elapse dt
  .next (
    let l := (s1.chan ch).swapTo
    let s2 := s1.setChan ch { s1.chan ch with swapTo := [] }
    if s1.rdBit Reg.FLT_CH_FADING ch then l.foldl (fun a w => a.deferSwap ch w) s2
    else
      let s3 := l.foldl (fun a w => a.applySwap ch w) s2
      if (s3.chan ch).cfg.isSome then s3 else s3.applyDeferred ch)

/-- A channel is reset (R126, R128): a cross-fade ends first. -/
def State.resetChan (s : State) (ch : Nat) : State :=
  let s1 := match (s.chan ch).inc with
    | none => s
    | some x => s.endFade ch x
  let x := (s1.chain ch).cleared (s1.rdBit Reg.FLT_CH_FROZEN ch)
  ((s1.setChan ch { s1.chan ch with cur := some { x with resetAt := s1.addr } }).wrBit Reg.FLT_CH_SETTLING ch
    true).wrInt Reg.FLT_CH_DC_EST ch (signed 32 (s1.figure 32 true (x.est * 256)))

/-- The earliest of the scheduled resets. -/
def earliest (l : List (Nat × Nat)) : Option (Nat × Nat) :=
  l.foldl (fun b e => match b with
    | none => some e
    | some x => if e.1 < x.1 then some e else some x) none

/-- FLT_SYNC_RESET_APPLY (R126 to R130): at the address of the earliest reset scheduled, each named
channel that is enabled is reset. -/
def execFltSyncResetApply (dt : Nat) (s : State) : Host.Outcome State Fault Refusal :=
  let s1 := s.elapse dt
  .next (match earliest s1.flt.resets with
    | none => s1
    | some e => s1.whenAddr e.1 (fun s2 =>
      let s3 := { s2 with flt := { s2.flt with resets := s2.flt.resets.erase e } }
      (List.range 48).foldl (fun a ch => if bitOf e.2 ch && a.chanOn ch then a.resetChan ch else a) s3))

/-! ### Commands -/

/-- The parameters of FLT_CONFIG are in range (R108, R109, R115, R116). -/
def cfgBad (p : FltCfg) : Bool :=
  4 < p.preset ||
  (p.preset == 4 && (p.n < 3 || 5 < p.n || p.r < 8 || 4096 < p.r || (p.k != 0 && (p.k < 8 || 24 < p.k))))

/-- FLT_CONFIG (R116, R123, R125): accepted, it waits for the next cycle boundary and completes there. A
configuration already waiting counts as a cross-fade in progress (log entry 13). -/
def execFltConfig (dt : Nat) (h : HostRef) (p : FltCfg) (s : State) : Host.Outcome State Fault Refusal :=
  .next (s.command dt h domFlt Op.FLT_CONFIG (fun a =>
    if !a.chanOn p.ch then a.refuse h Op.FLT_CONFIG 1
    else if cfgBad p then a.refuse h Op.FLT_CONFIG 2
    else if a.rdBit Reg.FLT_CH_FADING p.ch || (a.chan p.ch).cfg.isSome then a.refuse h Op.FLT_CONFIG 5
    else a.setChan p.ch { a.chan p.ch with cfg := some (p, h, nextCycle a.addr) }))

/-- FLT_COEF_LOAD (R113, R119). -/
def execFltCoefLoad (dt : Nat) (h : HostRef) (ch bank first : Nat) (start : Bool) (taps : List Int) (s : State) :
    Host.Outcome State Fault Refusal :=
  .next (s.command dt h domFlt Op.FLT_COEF_LOAD (fun a =>
    let b := bank % 2
    if !a.chanOn ch then a.refuse h Op.FLT_COEF_LOAD 1
    else if !([0, 16, 32, 48].contains first) then a.refuse h Op.FLT_COEF_LOAD 2
    else if a.rd Reg.FLT_CH_BANK ch = b then a.refuse h Op.FLT_COEF_LOAD 3
    else
      let c := a.chan ch
      let old := (a.bankOf ch b).list
      let l := old.take first ++ ((taps ++ List.replicate 16 0).take 16) ++ old.drop (first + 16)
      let had := if start then [] else if a.rdBit (completeFld b) ch then [0, 16, 32, 48]
        else if b = 0 then c.gotA else c.gotB
      let got := if had.contains first then had else first :: had
      let full := got.length == 4
      let c1 : FltChan := if b = 0 then { c with gotA := got } else { c with gotB := got }
      let s1 := (a.setChan ch c1).setBank ch b (.taps l)
      let s2 := if full then s1.checkBank ch b else s1.wrBit (completeFld b) ch false
      s2.done h Op.FLT_COEF_LOAD))

/-- FLT_SWAP (R120 to R122). -/
def execFltSwap (dt : Nat) (h : HostRef) (ch bank : Nat) (s : State) : Host.Outcome State Fault Refusal :=
  .next (s.command dt h domFlt Op.FLT_SWAP (fun a =>
    let b := bank % 2
    let c := a.chan ch
    if !a.chanOn ch then a.refuse h Op.FLT_SWAP 1
    else if a.rdBit Reg.FLT_CH_FADING ch || c.cfg.isSome then a.deferSwap ch (b, h)
    else if !a.rdBit (completeFld b) ch then a.refuse h Op.FLT_SWAP 4
    else if a.rd Reg.FLT_CH_BANK ch = b && c.swapTo.isEmpty then a.done h Op.FLT_SWAP
    else a.setChan ch { c with swapTo := c.swapTo ++ [(b, h)] }))

/-- A mask names a channel that is above 47, is 19 or is disabled (Table 04-6). -/
def State.maskBad (s : State) (mask : Nat) : Bool :=
  2 ^ 48 ≤ mask || (List.range 48).any (fun ch => bitOf mask ch && !s.chanOn ch)

/-- FLT_SYNC_RESET (R126). -/
def execFltSyncReset (dt : Nat) (h : HostRef) (mask stamp : Nat) (s : State) : Host.Outcome State Fault Refusal :=
  .next (s.command dt h domFlt Op.FLT_SYNC_RESET (fun a =>
    if a.maskBad mask then a.refuse h Op.FLT_SYNC_RESET 1
    else if !a.addrAhead (addrOfStamp stamp) then a.refuse h Op.FLT_SYNC_RESET 6
    else { a with flt := { a.flt with resets := a.flt.resets ++ [(addrOfStamp stamp, mask)] } }.done h
      Op.FLT_SYNC_RESET))

/-- The channels of a mask are frozen or released. -/
def State.freezeChans (s : State) (mask : Nat) (feeds on : Bool) : State :=
  (List.range 48).foldl (fun a ch =>
    if bitOf mask ch && isFeed ch == feeds then a.wrBit Reg.FLT_CH_FROZEN ch on else a) s

/-- FLT_FREEZE (R109, Table 04-5): at each channel's next sample, which is within a position or two for a
feed bitstream and the next cycle boundary for the others. -/
def execFltFreeze (dt : Nat) (h : HostRef) (mask on : Nat) (s : State) : Host.Outcome State Fault Refusal :=
  .next (s.command dt h domFlt Op.FLT_FREEZE (fun a =>
    if a.maskBad mask then a.refuse h Op.FLT_FREEZE 1
    else
      let a1 := a.freezeChans mask true (on == 1)
      let slow := (List.range 48).any (fun ch => bitOf mask ch && !isFeed ch)
      let a2 := if slow then a1.waitAddr (nextCycle a1.addr) else a1
      (a2.freezeChans mask false (on == 1)).done h Op.FLT_FREEZE))

end Sys2Proof.Machine
end

