-- ==== Sys2Proof/Machine/PerfMon.lean ====
section
/-! DEFINITION. Performance monitoring (R321 to R346): points, accumulators, the classification of seconds,
bins, alerts, history and export. -/

namespace Sys2Proof.Machine

/-! ### Points -/

/-- Point numbers of Table 10-1. -/
def lanePoint (l : Nat) : Nat := 49152 + l
def rsPoint (l : Nat) : Nat := 49232 + l
def otlPoint (u l : Nat) : Nat := 49280 + 20 * u + l

/-- A point of the block. -/
def State.point (s : State) (p : Nat) : PmPoint := tget {} s.pm.points p

/-- The state with a point replaced. -/
def State.setPoint (s : State) (p : Nat) (x : PmPoint) : State :=
  { s with pm := { s.pm with points := tset s.pm.points p x } }

/-- A placed context. -/
def State.ctx? (s : State) (c : Nat) : Option Ctx := tfind s.ovm.ctxs c

/-- The number names a point that can be monitored (R321, Table 10-9). -/
def State.pointOk (s : State) (p : Nat) : Bool :=
  if p < 49152 then
    match s.ctx? p with
    | none => false
    | some c => c.active && c.kind != 0x0F && c.kind != 0x30
  else p < 49760

/-- ⌊rate ÷ frame⌋ for the kinds whose blocks are frames of an OTU or ODU (Table 10-2), from the nominal
rates of G.709 in b/s (log entry 19); an ODUflex(CBR) has 239/238 of its client's rate. -/
def oduBlocks (kind nts : Nat) (cbr : Bool) : Nat :=
  match kind with
  | 0x10 => 1244160000 / 122368
  | 0x11 => 2498775126 / 122368
  | 0x12 => 10037273924 / 122368
  | 0x13 => 10399525316 / 122368
  | 0x14 => (if cbr then 25781250000 * 239 / 238 else nts * 1301683216) / 122368
  | 0x15 => 104794445815 / 122368
  | _ => 10037273924 / 122368

/-- N of an STM-N lane mode. -/
def stmN (mode : Nat) : Nat := if mode = 1 then 1 else if mode = 2 then 4 else if mode = 3 then 16 else 64

/-- B, the nominal number of blocks in a second of a point, rounded down (R322, Table 10-2); 0 for a
layer without blocks, as an E1 without CRC-4, a DS1 SF or a DS3 M23 is. -/
def State.pointBlocks (s : State) (p : Nat) : Nat :=
  if p < 49152 then
    match s.ctx? p with
    | none => 0
    | some c =>
      let u : FrmUnit := tget {} s.frm.units (srcCtx p)
      match c.kind with
      | 0x01 => if u.crc4 then 1000 else 0
      | 0x02 => if u.alt then 0 else 333
      | 0x04 => if u.alt then 0 else 9398
      | 0x08 => 2000
      | 0x09 => 2000
      | 0x0A => 8000
      | 0x0B => 8000
      | 0x0C => 8000
      | 0x0D => 8000
      | 0x0E => 8000 * stmN (s.rd Reg.PRT_LANE_MODE c.endpoint.lane)
      | 0x18 =>
        let m := s.rd Reg.PRT_LANE_MODE c.endpoint.lane
        (if m = 5 then 10709225000 else if m = 6 then 11095728000 else 111809976000) / 130560
      | 0x22 => if s.rd Reg.PRT_LANE_MODE c.endpoint.lane = 9 then 76293 else 190734
      | 0x31 => 8000
      | k => if 0x10 ≤ k && k ≤ 0x16 then oduBlocks k c.nts (c.nts == 20 && c.rate == 0) else 0
  else if p < 49232 then 1000
  else if p < 49280 then 8000
  else 0

/-- The default percentage of a point (Table 10-2). -/
def State.pointP (s : State) (p : Nat) : Nat :=
  if p < 49152 then
    match s.ctx? p with
    | none => 30
    | some c => if 0x10 ≤ c.kind && c.kind ≤ 0x18 then 15 else 30
  else 30

/-- The SES thresholds of a point, NE and FE (R322, R336). -/
def State.sesThr (s : State) (p : Nat) : Nat × Nat :=
  let pc := tget (0, 0) s.pm.pct (s.point p).cfg.prof
  let d := s.pointP p
  let b := s.pointBlocks p
  (b * (if pc.1 = 0 then d else pc.1) / 100, b * (if pc.2 = 0 then d else pc.2) / 100)

/-- The hewer that owns a point: a context's, and for sections and lanes the first hewer of the slice that
owns the lane (log entry 20). -/
def State.pointHewer (s : State) (p : Nat) : Nat :=
  if p < 49152 then
    match s.ctx? p with
    | none => 0
    | some c => c.place.hewer
  else
    let l := if p < 49232 then p - 49152 else if p < 49280 then p - 49232 else 48 + (p - 49280) / 20
    if l < 48 then 24 * (l / 12) else if l < 72 then 24 * ((l - 48) / 6) else 0

/-! ### Accumulators -/

/-- Defect cycles of an interval (R323): cycles touched from `start` up to `now` that lie at or after the
cycle `upto`. The result is the count and the cycle counted up to. -/
def defectCycles (start : Option Nat) (upto now : Nat) : Nat × Nat :=
  match start with
  | none => (0, upto)
  | some f =>
    let lo := max (f / Config.cyclePos) upto
    let hi := max ((now + Config.cyclePos - 1) / Config.cyclePos) (f / Config.cyclePos + 1)
    (hi - lo, max upto hi)

/-- The accumulators brought up to the address `now`. -/
def PmPoint.upTo (x : PmPoint) (now : Nat) : PmPoint :=
  let n := defectCycles x.neFrom x.neUpto now
  let f := defectCycles x.feFrom x.feUpto now
  { x with acc := { x.acc with neDc := min 65535 (x.acc.neDc + n.1), feDc := min 65535 (x.acc.feDc + f.1) },
           neUpto := n.2, feUpto := f.2 }

/-- Errored blocks of a point (R325), saturating. -/
def State.pmBlocks (s : State) (p ne fe : Nat) : State :=
  let x := s.point p
  if x.cfg.on then
    s.setPoint p { x with acc := { x.acc with
      neEb := min (2 ^ 32 - 1) (x.acc.neEb + ne), feEb := min (2 ^ 32 - 1) (x.acc.feEb + fe) } }
  else s

/-- The defects of a point as they stand (R323). -/
def State.pmDefect (s : State) (p : Nat) (ne fe : Bool) : State :=
  let x0 := s.point p
  if x0.cfg.on then
    let x := x0.upTo s.addr
    s.setPoint p { x with
      neFrom := if ne then (if x.neFrom.isSome then x.neFrom else some s.addr) else none,
      feFrom := if fe then (if x.feFrom.isSome then x.feFrom else some s.addr) else none }
  else s

/-! ### Bins -/

/-- A count of a bin advanced, with its largest value: 2²⁴ − 1, or 2³² − 1 for BBE. -/
def binMax (code : Nat) : Nat := if code = 2 || code = 7 then 2 ^ 32 - 1 else 2 ^ 24 - 1

/-- The counts of a bin with a list of additions made to them, and SATURATED where a maximum is reached. -/
def PmBin.add (b : PmBin) (adds : List Nat) : PmBin :=
  let c := (List.range 10).map (fun i => min (binMax i) (b.counts.getD i 0 + adds.getD i 0))
  let sat := (List.range 10).any (fun i => c.getD i 0 == binMax i && adds.getD i 0 != 0)
  { b with counts := c, seconds := b.seconds + 1, suspect := setBit b.suspect 7 (bitOf b.suspect 7 || sat) }

/-- What a committed second adds to its bins (R329), by parameter code. -/
def PmSec.adds (x : PmSec) (neUn feUn bidir : Bool) : List Nat :=
  let ne := !neUn && (!bidir || !feUn)
  let fe := !feUn && (!bidir || !neUn)
  [ofBool (ne && x.neEs), ofBool (ne && x.neSes), if ne then x.neBbe else 0, ofBool neUn, ofBool x.neDs,
   ofBool (fe && x.feEs), ofBool (fe && x.feSes), if fe then x.feBbe else 0, ofBool feUn, ofBool x.feDs]

/-- The alerts that a bin's counts raise as a commit brings them to their thresholds (R337). -/
def State.judgeTca (s : State) (p typ : Nat) (old new : PmBin) (thr : List Nat) : State × PmBin :=
  (List.range 10).foldl (fun a i =>
    let t := thr.getD i 0
    let c := new.counts.getD i 0
    if old.counts.getD i 0 < t && t ≤ c && !a.2.said.contains i then
      ((a.1.count Reg.PMN_TCA_CNT 0).raise Ev.PM_TCA (srcPoint p) [(2, p), (1, typ), (1, i), (4, c), (4, t)],
       { a.2 with said := i :: a.2.said })
    else a) (s, new)

/-- A second is committed to the current bins, or to a closed one still open for it (R329, R331, R341). -/
def State.commitSec (s : State) (p : Nat) (x : PmPoint) (sec : PmSec) : State × PmPoint :=
  let adds := sec.adds x.neUnav x.feUnav x.cfg.bidir
  let put (cur : PmBin) (old : Option PmBin) (n : Nat) : PmBin × Option PmBin :=
    match old with
    | some o => if o.serial = n then (cur, some (o.add adds)) else if cur.serial = n then (cur.add adds, old) else (cur, old)
    | none => if cur.serial = n then (cur.add adds, none) else (cur, none)
  if !s.hasAuthority then (s, x)
  else
    let a := put x.cur15 x.old15 sec.b15
    let b := put x.cur24 x.old24 sec.b24
    let judge (s0 : State) (typ : Nat) (was : PmBin) (wasOld : Option PmBin) (now : PmBin × Option PmBin) :
        State × PmBin × Option PmBin :=
      let thr := (tget {} s.pm.thr (2 * x.cfg.prof + typ)).thr
      let r := s0.judgeTca p typ was now.1 thr
      match wasOld, now.2 with
      | some o, some n => let q := r.1.judgeTca p typ o n thr; (q.1, r.2, some q.2)
      | _, n => (r.1, r.2, n)
    let r := judge s 0 x.cur15 x.old15 a
    let q := judge r.1 1 x.cur24 x.old24 b
    (q.1, { x with cur15 := r.2.1, old15 := r.2.2, cur24 := q.2.1, old24 := q.2.2 })

/-- The 64-byte record of a bin (Table 10-6). -/
def binRecord (p typ index stamp : Nat) (b : PmBin) (current pending : Bool) : List Nat :=
  let c (i : Nat) : List Nat := leBytes (if i = 2 || i = 7 then 4 else 3) (b.counts.getD i 0)
  let body := leBytes 4 p ++ [typ + 2 * ofBool current + 4 * ofBool pending, b.suspect] ++ leBytes 2 index ++
    leBytes 8 stamp ++ leBytes 6 b.start ++ leBytes 3 (if pending then b.classified else b.seconds) ++
    c 0 ++ c 1 ++ c 3 ++ c 4 ++ c 2 ++ c 5 ++ c 6 ++ c 8 ++ c 9 ++ c 7 ++ [0, 0, 0]
  body ++ leBytes 4 (crc32c body)

/-- A finalised record goes to the export queue (R340); the result says whether it was dropped. -/
def State.exportBin (s : State) (p typ : Nat) (b : PmBin) (on : Bool) : State × Bool :=
  let q := s.rd Reg.PMN_EXPORT_Q 0
  if !on || q = 0xFFFF || !bitOf (s.rd Reg.PMN_EXPORT 0) typ then (s, false)
  else
    let rec_ := binRecord p typ 1 (stampOf b.ended) b false false
    let fits := match s.queue q with
      | none => false
      | some x => !x.resetting && (if x.packet then x.depth + 2 ≤ x.size else x.recSize == 64 && x.depth < x.size)
    if fits then (s.pushRecord q rec_, false)
    else
      let n := s.pm.drops
      (({ s with pm := { s.pm with drops := if typ = 0 then (n.1 + 1, n.2) else (n.1, n.2 + 1) } } : State).count
        Reg.PMN_EXPORT_DROP_CNT 0, true)

/-- PM_EXPORT_DROP is raised once for a finalisation that dropped records (R340). -/
def State.tellDrops (s : State) (typ : Nat) : State :=
  let n := s.pm.drops
  let k := if typ = 0 then n.1 else n.2
  if k = 0 then s
  else ({ s with pm := { s.pm with drops := if typ = 0 then (0, n.2) else (n.1, 0) } } : State).raise Ev.PM_EXPORT_DROP
    srcDevice [(1, typ), (4, k)]

/-- A bin as it is finalised: TOD where the time of day moved in it and its seconds differ from its span, or was never set
(R334, R344). -/
def State.finalBin (s : State) (typ : Nat) (b : PmBin) : PmBin :=
  let whole := if typ = 0 then 900 else 86400
  { b with suspect := setBit b.suspect 0 (bitOf b.suspect 0 || (b.todMoved && b.seconds != whole) || !s.tim.todSet) }

/-- A bin is finalised; it becomes history index 1 and is exported (R332, R340). -/
def State.finalise (s : State) (p typ : Nat) (x : PmPoint) (b0 : PmBin) : State × PmPoint :=
  let b := s.finalBin typ b0
  if !s.hasAuthority then (s, x)
  else
    let r := s.exportBin p typ b x.cfg.exp
    (r.1, if typ = 0 then { x with hist15 := (b :: x.hist15).take 32 } else { x with hist24 := (b :: x.hist24).take 7 })

/-- A finalisation counted for PM_BIN_CLOSED. -/
def PmSt.noteDone (m : PmSt) (typ : Nat) (suspect : Bool) : PmSt :=
  if typ = 0 then { m with done15 := m.done15.map (fun d => (d.1, d.2.1 + 1, d.2.2 + ofBool suspect)) }
  else { m with done24 := m.done24.map (fun d => (d.1, d.2.1 + 1, d.2.2 + ofBool suspect)) }

/-- The closed bins of a point whose last second is committed are finalised, the 15-minute one first
(R332, R333). -/
def State.finaliseOld (s : State) (p : Nat) (x : PmPoint) : State × PmPoint :=
  let r : State × PmPoint := match x.old15 with
    | none => (s, x)
    | some b =>
      if x.pend.any (fun e => e.b15 == b.serial) then (s, x)
      else
        let q := s.finalise p 0 { x with old15 := none } b
        ({ q.1 with pm := q.1.pm.noteDone 0 ((s.finalBin 0 b).suspect != 0) }, q.2)
  match r.2.old24 with
  | none => r
  | some b =>
    if r.2.pend.any (fun e => e.b24 == b.serial) then r
    else
      let q := r.1.finalise p 1 { r.2 with old24 := none } b
      ({ q.1 with pm := q.1.pm.noteDone 1 ((s.finalBin 1 b).suspect != 0) }, q.2)

/-- Every pending second of a point is committed under the availability in force (R342, R343). -/
def State.commitAll (s : State) (p : Nat) (x : PmPoint) : State × PmPoint :=
  let r := x.pend.foldl (fun a sec => a.1.commitSec p a.2 sec) (s, x)
  (r.1, { r.2 with pend := [] })

/-- The current bins of a point are finalised with a suspect reason (R342, R343). -/
def State.closeNow (s : State) (p : Nat) (x : PmPoint) (bit : Nat) : State × PmPoint :=
  let a := s.commitAll p x
  let o := a.1.finaliseOld p a.2
  let mark (b : PmBin) : PmBin := { b with ended := s.addr, suspect := setBit b.suspect bit true }
  let q := o.1.finalise p 0 o.2 (mark o.2.cur15)
  let r := q.1.finalise p 1 q.2 (mark q.2.cur24)
  ((r.1.tellDrops 0).tellDrops 1, r.2)

/-- A bin that begins now. -/
def State.newBin (s : State) (serial suspect : Nat) : PmBin :=
  { serial := serial, start := s.todSec, suspect := suspect }

/-- A point starts: its bins carry START_STOP. -/
def State.startPoint (s : State) (p : Nat) (x : PmPoint) (c : PmCfg) : State :=
  let n15 := x.cur15.serial + 1
  let n24 := x.cur24.serial + 1
  s.setPoint p { x with
    cfg := c, ever := true, pend := [], neUnav := false, feUnav := false, neHist := 0, feHist := 0,
    unread := false, acc := { start := s.addr, tod := s.todSec, b15 := n15, b24 := n24 },
    neUpto := s.cycle, feUpto := s.cycle, cur15 := s.newBin n15 2, cur24 := s.newBin n24 2 }

/-- A point stops (R343). -/
def State.stopPoint (s : State) (p : Nat) : State :=
  let x := s.point p
  if x.cfg.on then
    let r := s.closeNow p x 1
    r.1.setPoint p { r.2 with cfg := { r.2.cfg with on := false } }
  else s

/-- A context's point at the swap that places it (R321, R343): its history is cleared, and with PMN_AUTO
it is enabled. -/
def State.pmPlace (s : State) (c : Nat) : State :=
  let x : PmPoint := { cur15 := { serial := (s.point c).cur15.serial }, cur24 := { serial := (s.point c).cur24.serial } }
  if s.rdBit Reg.PMN_AUTO 0 && s.pointOk c then s.startPoint c x { on := true } else s.setPoint c x

/-! ### Seconds -/

/-- A point's settings that take effect with the new second. -/
def State.applyPointCfg (s : State) (p : Nat) : State :=
  let x := s.point p
  match x.next with
  | none => s
  | some c =>
    let s1 := s.setPoint p { x with next := none }
    let y := s1.point p
    if c.on && !x.cfg.on then s1.startPoint p y c
    else if !c.on && x.cfg.on then
      let s2 := s1.stopPoint p
      s2.setPoint p { s2.point p with cfg := c }
    else s1.setPoint p { y with cfg := c }

/-- The accumulators of an enabled point at the boundary that begins a PM second (R325, R326): a second
that was not read is lost. -/
def State.boundaryPoint (s : State) (p : Nat) : State :=
  let x := (s.point p).upTo s.addr
  if !x.cfg.on then s
  else
    let lost := x.unread
    let mark (b : PmBin) : PmBin := { b with suspect := setBit b.suspect 3 (bitOf b.suspect 3 || lost) }
    let y : PmPoint := { x with
      last := { x.acc with len := (s.addr - x.acc.start) / Config.cyclePos }, unread := true,
      acc := { start := s.addr, tod := s.todSec, b15 := x.cur15.serial, b24 := x.cur24.serial },
      cur15 := mark x.cur15, cur24 := mark x.cur24 }
    let s1 := s.setPoint p y
    if lost then
      (s1.count Reg.PMN_SEC_LOST_CNT 0).raiseOnce Ev.PM_SECOND_LOST p (srcPoint p)
        (fun k => [(2, p), (4, k)])
    else s1

/-- PM_SECOND_BOUNDARY (R324, R325, R334): at the first cycle boundary at which the time of day is at or
after a whole second. -/
def execPmSecondBoundary (dt : Nat) (s : State) : Host.Outcome State Fault Refusal :=
  let s1 := s.toBoundary dt Config.cyclePos
  .next (if s1.halted || !s1.pm.running || s1.pm.frozen || s1.todNow < s1.pm.nextTod * todSecond then s1
    else
      let keys := s1.pm.points.map (·.1)
      let s2 := keys.foldl (fun a p => a.boundaryPoint p) s1
      let s3 := keys.foldl (fun a p => a.applyPointCfg p) s2
      { s3 with pm := { s3.pm with nextTod := s3.todSec + 1, began := some s3.addr } })

/-- The classification of a second (R327). -/
def classify (a : PmAcc) (thr : Nat × Nat) : PmSec :=
  let neDef := 0 < a.neDc
  let feDef := 0 < a.feDc
  let neSes := neDef || thr.1 ≤ a.neEb && 0 < thr.1
  let feSes := !neDef && (feDef || thr.2 ≤ a.feEb && 0 < thr.2)
  { neEs := neDef || 0 < a.neEb, neSes := neSes, neDs := neDef,
    feEs := !neDef && (feDef || 0 < a.feEb), feSes := feSes, feDs := feDef,
    neBbe := if neSes then 0 else a.neEb, feBbe := if feSes || neDef then 0 else a.feEb,
    start := a.start, b15 := a.b15, b24 := a.b24 }

/-- The bits of a classified second (Table 10-3, bytes 220 to 223). -/
def PmSec.bits (x : PmSec) : Nat :=
  ofBool x.neEs + 2 * ofBool x.neSes + 4 * ofBool x.neDs + 8 * ofBool x.feEs + 16 * ofBool x.feSes +
    32 * ofBool x.feDs + 64

/-- Availability of a second from its own and the nine after it (R328). -/
def unavailable (was : Bool) (window : List Bool) : Bool :=
  if was then window.any id else window.all id

/-- A bin counts a second classified in its span. -/
def PmPoint.noteClassified (x : PmPoint) (sec : PmSec) : PmPoint :=
  let up (b : PmBin) (n : Nat) : PmBin := if b.serial = n then { b with classified := b.classified + 1 } else b
  { x with cur15 := up x.cur15 sec.b15, cur24 := up x.cur24 sec.b24,
           old15 := x.old15.map (fun b => up b sec.b15), old24 := x.old24.map (fun b => up b sec.b24) }

/-- The last second of a point is read, classified, and the second nine before it committed (R326 to
R330). -/
def State.readSecond (s : State) (p : Nat) : State :=
  let x := s.point p
  if !x.cfg.on || !x.unread then s
  else if !s.rdBit Reg.PMN_EN 0 || s.pm.frozen then s.setPoint p { x with unread := false, cls := 0 }
  else
    let sec := classify x.last (s.sesThr p)
    let window := x.pend ++ [sec]
    let x1 : PmPoint := { x.noteClassified sec with
      unread := false, cls := sec.bits, pend := window,
      neHist := (x.neHist * 2 + ofBool sec.neSes) % 1024, feHist := (x.feHist * 2 + ofBool sec.feSes) % 1024 }
    if window.length < 10 then s.setPoint p x1
    else
      match window with
      | [] => s.setPoint p x1
      | first :: rest =>
        let ne := unavailable x.neUnav (window.map (·.neSes))
        let fe := unavailable x.feUnav (window.map (·.feSes))
        let s1 := s.raiseIf (ne != x.neUnav) Ev.PM_UNAVAIL (srcPoint p)
          [(2, p), (1, 1), (1, ofBool ne), addrItem first.start]
        let s2 := s1.raiseIf (fe != x.feUnav) Ev.PM_UNAVAIL (srcPoint p)
          [(2, p), (1, 0), (1, ofBool fe), addrItem first.start]
        let c := s2.commitSec p { x1 with pend := rest, neUnav := ne, feUnav := fe } first
        let f := c.1.finaliseOld p c.2
        f.1.setPoint p f.2

/-- PM_BIN_CLOSED is raised once every point has finalised the bins of a boundary (Table 10-10). -/
def State.reportClosed (s : State) : State :=
  let a := match s.pm.done15 with
    | some (st, n, k) =>
      if s.pm.points.any (fun e => e.2.old15.isSome) || n = 0 then s
      else (({ s with pm := { s.pm with done15 := none } } : State).tellDrops 0).raise Ev.PM_BIN_CLOSED srcDevice
        [(1, 0), addrItem st, (2, n), (2, k)]
    | none => s
  match a.pm.done24 with
  | some (st, n, k) =>
    if a.pm.points.any (fun e => e.2.old24.isSome) || n = 0 then a
    else (({ a with pm := { a.pm with done24 := none } } : State).tellDrops 1).raise Ev.PM_BIN_CLOSED srcDevice
      [(1, 1), addrItem st, (2, n), (2, k)]
  | none => a

/-- PM_SECOND_READ (R326 to R341): at a hewer's CLASS 0x6 entry the firmware takes every point of that
hewer whose second has ended. -/
def execPmSecondRead (dt hewer : Nat) (s : State) : Host.Outcome State Fault Refusal :=
  let s1 := s.elapse dt
  .next (if !s1.pm.running || !s1.dispatched 6 (fun e => e.target == hewer) then s1
    else
      let keys := (s1.pm.points.map (·.1)).filter (fun p => s1.pointHewer p == hewer)
      (keys.foldl (fun a p => a.readSecond p) s1).reportClosed)

/-- The current bin of a type ends its span at a boundary and a new one begins (R332, R334); an older bin
still open is finalised first. A bin without seconds is not closed. -/
def State.closeBin (s : State) (p typ : Nat) (sec : Nat) : State :=
  let x0 := s.point p
  let edge := cycleStart s.addr
  if !x0.cfg.on then s
  else
    let atStart := decide (s.pm.began = some edge)
    let f : State × PmPoint := match (if typ = 0 then x0.old15 else x0.old24) with
      | some b =>
        s.finalise p typ (if typ = 0 then { x0 with old15 := none } else { x0 with old24 := none }) b
      | none => (s, x0)
    let x := f.2
    let cur := if typ = 0 then x.cur15 else x.cur24
    if cur.start = sec && cur.classified = 0 then f.1.setPoint p x
    else
      let nb : PmBin := { serial := cur.serial + 1, start := sec }
      let ob : PmBin := { cur with ended := edge }
      let acc : PmAcc := if atStart then
          (if typ = 0 then { x.acc with b15 := nb.serial } else { x.acc with b24 := nb.serial })
        else x.acc
      f.1.setPoint p (if typ = 0 then { x with cur15 := nb, old15 := some ob, acc := acc }
        else { x with cur24 := nb, old24 := some ob, acc := acc })

/-- The time-of-day second at the cycle boundary that a closure entry belongs to, under the time of day in force before any
change at or after it (R334). -/
def State.edgeSec (s : State) : Nat :=
  let edge := cycleStart s.addr
  match s.tim.todWas with
  | some t => (if edge ≤ s.tim.todAt then t - 3125 * (s.tim.todAt - edge) else s.tim.tod + 3125 * (edge - s.tim.todAt)) / todSecond
  | none => (s.tim.tod + 3125 * (edge - s.tim.todAt)) / todSecond

/-- PMN_DAY_START as it acts. -/
def State.dayStart (s : State) : Nat := if s.rd Reg.PMN_DAY_START 0 < 86400 then s.rd Reg.PMN_DAY_START 0 else 0

/-- The address at which the time of day reaches a second, on a cycle boundary (R324). -/
def State.todAddr (s : State) (sec : Nat) : Nat :=
  ceilTo Config.cyclePos (s.tim.todAt + (sec * todSecond - s.tim.tod + 3124) / 3125)

/-- The address of the next 15-minute (900) or 24-hour (86,400) boundary (R331). -/
def State.nextEdge (s : State) (period start : Nat) : Nat :=
  s.todAddr ((((s.pm.nextTod - 1) + period - start) / period + 1) * period - (period - start))

/-- PM_BIN_CLOSURE (R331 to R334): at the start of a PM second whose time-of-day second is a 15-minute or
a 24-hour boundary, the bins of a hewer's points end their span, the 15-minute bin first. -/
def execPmBinClosure (dt hewer : Nat) (s : State) : Host.Outcome State Fault Refusal :=
  let s1 := s.atEntry dt Config.cyclePos 6
  .next (if s1.halted || !s1.pm.running || s1.pm.frozen || !s1.hasAuthority || !s1.dispatched 6 (fun e => e.target == hewer) then s1
    else
      let sec := s1.edgeSec
      let edge := cycleStart s1.addr
      let keys := (s1.pm.points.map (·.1)).filter (fun p => s1.pointHewer p == hewer)
      let s2 := if sec % 900 = 0 then
          let a := { s1 with pm := { s1.pm with done15 := match s1.pm.done15 with
            | some d => if d.1 = edge then some d else some (edge, 0, 0)
            | none => some (edge, 0, 0) } }
          keys.foldl (fun b p => b.closeBin p 0 sec) a
        else s1
      if (sec + 86400 - s1.dayStart) % 86400 = 0 then
        let a := { s2 with pm := { s2.pm with done24 := match s2.pm.done24 with
          | some d => if d.1 = edge then some d else some (edge, 0, 0)
          | none => some (edge, 0, 0) } }
        keys.foldl (fun b p => b.closeBin p 1 sec) a
      else s2)

/-- PMN_EN changed: every current bin carries START_STOP (R335). -/
def State.pmEnChanged (s : State) : State :=
  let mark (b : PmBin) : PmBin := { b with suspect := setBit b.suspect 1 true }
  { s with pm := { s.pm with points := s.pm.points.map (fun e =>
    if e.2.cfg.on then (e.1, { e.2 with cur15 := mark e.2.cur15, cur24 := mark e.2.cur24 }) else e) } }

/-- The last gasp freezes performance monitoring (R342). -/
def State.pmFreeze (s : State) : State :=
  let keys := (s.pm.points.filter (fun e => e.2.cfg.on)).map (·.1)
  let s1 := keys.foldl (fun a p =>
    let r := a.closeNow p (a.point p) 5
    r.1.setPoint p r.2) s
  { s1 with pm := { s1.pm with frozen := true } }

/-- PMN_STATE (Table 10-7). -/
def State.pmState (s : State) : Nat :=
  if s.pm.frozen then 3 else if !s.pm.running then 0 else if s.hasAuthority then 1 else 2

/-! ### Commands -/

/-- PMN_POINT_CFG (R321, R346): from the next PM second. -/
def execPmnPointCfg (dt : Nat) (h : HostRef) (p : PointCfg) (s : State) : Host.Outcome State Fault Refusal :=
  .next (s.command dt h 0 Op.PMN_POINT_CFG (fun a =>
    if !a.hasAuthority then a.refuse h Op.PMN_POINT_CFG 3
    else if 63 < p.prof then a.refuse h Op.PMN_POINT_CFG 2
    else if !a.pointOk p.point then a.refuse h Op.PMN_POINT_CFG 1
    else (a.setPoint p.point { a.point p.point with
      next := some { on := p.on, bidir := p.bidir, exp := p.exp, prof := p.prof } }).done h Op.PMN_POINT_CFG))

/-- PMN_PROFILE_SET (R336). -/
def execPmnProfileSet (dt : Nat) (h : HostRef) (p : ProfileSet) (s : State) : Host.Outcome State Fault Refusal :=
  .next (s.command dt h 0 Op.PMN_PROFILE_SET (fun a =>
    if !a.hasAuthority then a.refuse h Op.PMN_PROFILE_SET 3
    else if 63 < p.prof || 1 < p.typ || 100 < p.neP || 100 < p.feP then a.refuse h Op.PMN_PROFILE_SET 2
    else
      { a with pm := { a.pm with
          thr := tset a.pm.thr (2 * p.prof + p.typ) { thr := (p.thr ++ List.replicate 10 0).take 10 },
          pct := tset a.pm.pct p.prof (p.neP, p.feP) } }.done h Op.PMN_PROFILE_SET))

/-- The record of a point at an index as it is read (R338, R339): a current bin carries PENDING while
seconds are to be committed. -/
def State.histRecord (s : State) (p typ i : Nat) : List Nat :=
  let x := s.point p
  let cur := if typ = 0 then x.cur15 else x.cur24
  let old := if typ = 0 then x.old15 else x.old24
  let hist := (if typ = 0 then x.hist15 else x.hist24)
  let b0 : PmBin := if i = 0 then cur else hist.getD (i - 1) {}
  let bad := s.pm.badHist.contains (p, typ, b0.serial)
  let b : PmBin := { b0 with suspect := setBit b0.suspect 6 (bitOf b0.suspect 6 || bad) }
  let pending := i = 0 && (!x.pend.isEmpty || old.isSome)
  binRecord p typ i (if i = 0 then s.stamp else stampOf b.ended) b (i == 0) pending

/-- A stored record that failed is counted and reported as it is read (R339). -/
def State.histError (s : State) (p typ i : Nat) : State :=
  let x := s.point p
  let b : PmBin := (if typ = 0 then x.hist15 else x.hist24).getD (i - 1) {}
  if i != 0 && s.pm.badHist.contains (p, typ, b.serial) then
    (s.count Reg.PMN_HIST_ERR_CNT 0).raise Ev.PM_HIST_ERROR (srcPoint p) [(2, p), (1, typ), (2, i)]
  else s

/-- The bins that a point's history of a type holds. -/
def PmPoint.histLen (x : PmPoint) (typ : Nat) : Nat := (if typ = 0 then x.hist15 else x.hist24).length

/-- PMN_HIST_READ (R338, R339, R346): records in point order, then index order. -/
def execPmnHistRead (dt : Nat) (h : HostRef) (p : HistRead) (s : State) : Host.Outcome State Fault Refusal :=
  .next (s.command dt h 0 Op.PMN_HIST_READ (fun a =>
    let deep := if p.typ = 0 then 32 else 7
    let pts := (List.range p.count).map (fun k => p.point + k)
    if p.count < 1 || 1024 < p.count || 1 < p.typ || deep < p.first + p.num - 1 || deep < p.first ||
        p.host % 64 != 0 then a.refuse h Op.PMN_HIST_READ 2
    else if pts.any (fun q => !a.pointOk q) then a.refuse h Op.PMN_HIST_READ 1
    else if pts.any (fun q => !(a.point q).ever) then a.refuse h Op.PMN_HIST_READ 4
    else if pts.any (fun q => decide ((a.point q).histLen p.typ < p.first + p.num - 1)) then a.refuse h Op.PMN_HIST_READ 2
    else
      let want := (pts.map (fun q => (List.range p.num).map (fun k => (q, p.first + k)))).flatten
      let b := want.foldl (fun c w => c.histError w.1 p.typ w.2) a
      (b.hostWrite p.host ((want.map (fun w => a.histRecord w.1 p.typ w.2)).flatten)).done h Op.PMN_HIST_READ))

/-- PMN_POINT_CLEAR (R335, R346): the counts of the named current bins go to zero, with CLEARED. -/
def execPmnPointClear (dt : Nat) (h : HostRef) (point : Nat) (c15 c24 : Bool) (s : State) :
    Host.Outcome State Fault Refusal :=
  .next (s.command dt h 0 Op.PMN_POINT_CLEAR (fun a =>
    if !a.hasAuthority then a.refuse h Op.PMN_POINT_CLEAR 3
    else if !a.pointOk point then a.refuse h Op.PMN_POINT_CLEAR 1
    else
      let x := a.point point
      let z (b : PmBin) : PmBin :=
        { b with counts := [0, 0, 0, 0, 0, 0, 0, 0, 0, 0], suspect := setBit b.suspect 2 true }
      (a.setPoint point { x with cur15 := if c15 then z x.cur15 else x.cur15,
                                 cur24 := if c24 then z x.cur24 else x.cur24 }).done h Op.PMN_POINT_CLEAR))

/-- The twenty stage bytes of a second (Table 10-3). -/
def PmAcc.bytes (a : PmAcc) : List Nat :=
  leBytes 4 a.neEb ++ leBytes 4 a.feEb ++ leBytes 2 a.neDc ++ leBytes 2 a.feDc ++ leBytes 4 a.tod ++
    leBytes 4 a.len

/-- The 48 bytes of a point (Table 10-3). -/
def State.pointBytes (s : State) (p : Nat) : List Nat :=
  let x := (s.point p).upTo s.addr
  let fw := x.neHist + 2 ^ 10 * x.feHist + 2 ^ 20 * ofBool x.neUnav + 2 ^ 21 * ofBool x.feUnav
  { x.acc with len := (s.addr - x.acc.start) / Config.cyclePos }.bytes ++ leBytes 4 fw ++ x.last.bytes ++
    leBytes 4 x.cls

/-- PMN_SEC_READ (R346): the accumulators as they stand at the cycle boundary. -/
def execPmnSecRead (dt : Nat) (h : HostRef) (point host : Nat) (s : State) : Host.Outcome State Fault Refusal :=
  .next (s.command dt h 0 Op.PMN_SEC_READ (fun a =>
    if !a.pointOk point then a.refuse h Op.PMN_SEC_READ 1
    else if host % 64 != 0 then a.refuse h Op.PMN_SEC_READ 2
    else if !(a.point point).ever then a.refuse h Op.PMN_SEC_READ 4
    else
      let b := a.waitAddr (nextCycle a.addr)
      (b.hostWrite host (b.pointBytes point)).done h Op.PMN_SEC_READ))

end Sys2Proof.Machine
end

