-- ==== Sys2Proof/Machine/Framing.lean ====
section
/-! DEFINITION. Framing and overhead (R211 to R247): alignment, defects and their masking, acceptance of
persistent values, failures, signal degrade and fail, protection and the FRM commands. A framer is named
by the source ID of its lane or context. -/

namespace Sys2Proof.Machine

/-! ### Framers -/

/-- A framer's state. -/
def State.framer (s : State) (k : Nat) : FrmUnit := tget {} s.frm.units k

/-- The state with a framer replaced. -/
def State.setFramer (s : State) (k : Nat) (u : FrmUnit) : State :=
  { s with frm := { s.frm with units := tset s.frm.units k u } }

/-- The framer key names a lane, or a context. -/
def keyIsLane (k : Nat) : Bool := k / 2 ^ 28 == 2
def keyNum (k : Nat) : Nat := k % 2 ^ 28

/-- An STM-N or OC-N mode, and an OTU mode (Table 05-1). -/
def modeStm (m : Nat) : Bool := 1 ≤ m && m ≤ 4
def modeOtu (m : Nat) : Bool := m == 5 || m == 6 || m == 11 || m == 12

/-- The key of a context's framer: a section on a lane shares the lane's framer. -/
def State.frmKey (s : State) (c : Nat) : Nat :=
  match s.ctx? c with
  | none => srcCtx c
  | some x =>
    if x.kind = 0x18 || (x.kind = 0x0E && x.endpoint.typ = 1) then srcLane x.endpoint.lane else srcCtx c

/-- The kind a framer has (Table 08-1). -/
def State.framerKind (s : State) (k : Nat) : Nat :=
  if keyIsLane k then (if modeStm (s.rd Reg.PRT_LANE_MODE (keyNum k)) then 0x0E else 0x18)
  else match s.ctx? (keyNum k) with
    | none => 0
    | some x => x.kind

/-- A context of this kind has overhead of its own (R211). -/
def kindHasOverhead (k : Nat) : Bool :=
  (1 ≤ k && k ≤ 4) || (8 ≤ k && k ≤ 0x0E) || (0x10 ≤ k && k ≤ 0x16) || k == 0x18

/-- A PDH circuit. -/
def kindPdh (k : Nat) : Bool := 1 ≤ k && k ≤ 4
/-- A VC. -/
def kindVc (k : Nat) : Bool := 8 ≤ k && k ≤ 0x0D
/-- An ODU. -/
def kindOdu (k : Nat) : Bool := 0x10 ≤ k && k ≤ 0x16

/-- The section or OTU context placed on a lane, whose point counts the lane's section (R321). -/
def State.sectionOf (s : State) (l : Nat) : Option Nat :=
  (s.ovm.ctxs.find? (fun e => e.2.active && (e.2.kind == 0x18 || e.2.kind == 0x0E) && e.2.endpoint.typ == 1 &&
    e.2.endpoint.lane == l)).map (·.1)

/-- The server of a context: its parent, or the lane of its endpoint. -/
def State.serverKey (s : State) (k : Nat) : Option Nat :=
  if keyIsLane k then none
  else match s.ctx? (keyNum k) with
    | none => none
    | some x =>
      match x.parent with
      | some p => if s.frmKey p = k then none else some (s.frmKey p)
      | none => if x.endpoint.typ = 0 || x.endpoint.typ = 2 then none else some (srcLane x.endpoint.lane)

/-- The servers above a framer, nearest first. -/
def State.servers (s : State) : Nat → Nat → List Nat
  | 0, _ => []
  | n + 1, k =>
    match s.serverKey k with
    | none => []
    | some p => p :: State.servers s n p

/-! ### Defects -/

/-- The order in which defects of one layer mask those after them (R233), by code. -/
def maskOrder : List Nat := [0, 2, 4, 3, 5, 12, 13, 6, 11, 9, 10]

/-- Masked by a server layer (R233). -/
def State.serverMasks (s : State) (k : Nat) : Bool :=
  (s.servers 8 k).any (fun p => (s.framer p).raw.any maskOrder.contains)

/-- A defect is masked by an earlier one of its own layer (R233). -/
def maskedIn (raw : List Nat) (c : Nat) : Bool :=
  maskOrder.contains c && (maskOrder.takeWhile (fun d => d != c)).any raw.contains

/-- The defects that stand declared (R232, R233). -/
def State.declares (s : State) (k : Nat) (u : FrmUnit) : List Nat :=
  if s.serverMasks k then []
  else (List.range 19).filter (fun c => (u.raw.contains c || (c == 17 && u.raw.contains 31)) && !maskedIn u.raw c)

/-- The defects that make trail signal fail (R234): TIM, PLM and UNEQ as FRM_CTX_CFG sets. -/
def FrmUnit.tsf (u : FrmUnit) : Bool :=
  u.sealFail ||
  u.declared.any (fun c => [0, 2, 4, 3, 5, 6, 12, 13].contains c || (c == 9 && bitOf u.cfg.acts 0) ||
    (c == 10 && bitOf u.cfg.acts 1) || (c == 11 && bitOf u.cfg.acts 2))

/-- Trail signal fail of a framer. -/
def State.tsf (s : State) (k : Nat) : Bool := (s.framer k).tsf

/-- Trail signal fail of a framer or of any server above it: the source of its client has failed (R300). -/
def State.sourceFailed (s : State) (k : Nat) : Bool := s.tsf k || (s.servers 8 k).any s.tsf

/-- RDI or BDI is sent upstream (R234), or forced. -/
def State.sendsRdi (s : State) (k : Nat) : Bool := s.tsf k || (s.framer k).forced.contains 1

/-- Counting is suspended: LOS, LOF, OTL_LOL, LOM, AIS or LOP is present in the layer (R233). -/
def FrmUnit.noCount (u : FrmUnit) : Bool := u.raw.any (fun c => [0, 2, 4, 3, 5, 6].contains c)

/-- The FRM_LANE_* fields of a lane follow its framer (Table 07-14). -/
def State.laneRegs (s : State) (l : Nat) : State :=
  let u := s.framer (srcLane l)
  let has (c : Nat) : Bool := u.declared.contains c
  let otu := modeOtu (s.rd Reg.PRT_LANE_MODE l)
  if 72 ≤ l then s
  else ((((((((((s.wr Reg.FRM_LANE_ALIGN l u.align).wrBit Reg.FRM_LANE_OOF l (has 1)).wrBit Reg.FRM_LANE_LOF l
    (has 2)).wrBit Reg.FRM_LANE_LOM l (otu && has 3)).wrBit Reg.FRM_LANE_OTL_LOL l (has 4)).wrBit Reg.FRM_LANE_AIS
    l (has 5)).wrBit Reg.FRM_LANE_RDI l (has 7 || has 8)).wrBit Reg.FRM_LANE_TIM l (has 9)).wrBit Reg.FRM_LANE_SD
    l (has 15)).wrBit Reg.FRM_LANE_SF l (has 16)).wrBit Reg.FRM_LANE_IAE l (has 17)

/-- One defect of a framer changed: FRM_DEFECT, at most four in a second for each (R247). -/
def State.reportDefect (s : State) (k c : Nat) (on : Bool) : State :=
  s.raiseLim 4 Ev.FRM_DEFECT (k * 32 + c) k [(2, keyNum k), (1, c), (1, ofBool on), (4, 0)]

/-- The point of a framer's layer, where one is monitored (R321). -/
def State.framerPoint (s : State) (k : Nat) : Option Nat :=
  if keyIsLane k then s.sectionOf (keyNum k) else some (keyNum k)

/-- The declared defects of a framer follow its raw ones: changes are reported, a window restarts when a
masking defect clears (R238), and the points and lane fields follow. -/
def State.settleOne (s : State) (k : Nat) : State :=
  let u := s.framer k
  let new := s.declares k u
  let isMasked := new.any maskOrder.contains || s.serverMasks k
  let u1 : FrmUnit := { u with declared := new, masked := isMasked }
  let u2 : FrmUnit := if u.masked && !isMasked then { u1 with window := [], winB1 := [], winFrom := s.cycle } else u1
  let s1 := s.setFramer k u2
  let s2 := (List.range 19).foldl (fun a c =>
    if u.declared.contains c != new.contains c then a.reportDefect k c (new.contains c) else a) s1
  let s3 := if keyIsLane k then s2.laneRegs (keyNum k) else s2
  let fe := new.contains 7 || new.contains 8
  let s4 := match s3.framerPoint k with
    | none => s3
    | some p => s3.pmDefect p u2.tsf fe
  if keyIsLane k && modeStm (s.rd Reg.PRT_LANE_MODE (keyNum k)) then
    s4.pmDefect (rsPoint (keyNum k)) (new.contains 0 || new.contains 2) false
  else s4

/-- A framer and everything it serves settle, then the references are reviewed (R59, R233). -/
def State.settle (s : State) (k : Nat) : State :=
  let below := (s.frm.units.map (·.1)).filter (fun q => (s.servers 8 q).contains k)
  ((below.foldl (fun a q => a.settleOne q) (s.settleOne k))).timReview

/-- A raw defect is set or cleared. -/
def FrmUnit.setRaw (u : FrmUnit) (c : Nat) (on : Bool) : FrmUnit :=
  if on then (if u.raw.contains c then u else { u with raw := c :: u.raw })
  else { u with raw := u.raw.filter (fun d => d != c) }

/-- A framer returns to SEARCH (R217, R218, R222). -/
def FrmUnit.toSearch (u : FrmUnit) (now : Nat) : FrmUnit :=
  let u1 : FrmUnit := { u with align := 0, conf := 0, bad := 0, hits := [], okSince := none,
                               oofSince := if u.align = 2 || u.oofSince.isNone then some now else u.oofSince,
                               mf := false, mfRun := 0, mfSince := if u.mf then now else u.mfSince, crc4 := false }
  u1.setRaw 1 true

/-- The entries into OOF are counted on a lane. -/
def State.countOof (s : State) (k : Nat) (was : FrmUnit) : State :=
  if keyIsLane k && keyNum k < 72 && was.align = 2 && (s.framer k).align != 2 then
    s.count Reg.FRM_LANE_OOF_CNT (keyNum k)
  else s

/-- Lane LOS or LOL, or a circuit's LOS, as the framer sees it: LOS is a defect, and both stop alignment. -/
def State.framerLos (s : State) (k : Nat) (los stop : Bool) : State :=
  let u := s.framer k
  let u1 := u.setRaw 0 los
  let u2 := if stop then u1.toSearch s.time else u1
  ((s.setFramer k u2).countOof k u).settle k

/-! ### Alignment -/

/-- Consecutive hits that give SYNC (Tables 07-2, 07-3 and 07-5). DS1 SF and DS3 M23 are told from ESF and C-bit parity by the
pattern that the search finds (R142, log entry 60). -/
def hitsFor (kind : Nat) : Nat := if kind = 2 then 12 else if kind = 4 then 2 else 3

/-- SYNC is lost in this frame. -/
def FrmUnit.losesSync (u : FrmUnit) (kind : Nat) (f : FrmFrame) : Bool :=
  match kind with
  | 1 => u.phase % 2 = 0 && !f.word && 2 ≤ u.bad
  | 2 => 2 ≤ ((f.word :: u.hits).take 4).count false
  | 3 => !f.word && 3 ≤ u.bad
  | 4 => f.fLoss || 2 ≤ ((f.aux :: u.hits).take 4).count false
  | 0x0E => !f.word && 3 ≤ u.bad
  | _ => !f.word && 4 ≤ u.bad

/-- One frame through the alignment machine of its kind. An E1 framer in SYNC judges every other frame. -/
def FrmUnit.alignStep (u : FrmUnit) (kind now : Nat) (f : FrmFrame) : FrmUnit :=
  if u.align = 2 then
    if u.losesSync kind f then u.toSearch now
    else
      let judged := kind != 1 || u.phase % 2 = 0
      { u with bad := if !judged then u.bad else if f.word then 0 else u.bad + 1,
               hits := ((if kind = 4 then f.aux else f.word) :: u.hits).take 4, phase := u.phase + 1 }
  else if u.align = 1 then
    if !f.word || (kind = 4 && !f.aux) then u.toSearch now
    else if u.conf + 2 < hitsFor kind then { u with conf := u.conf + 1 }
    else if kind = 2 && !u.alt && !f.aux then u.toSearch now
    else { u with align := 2, conf := 0, bad := 0, hits := [], phase := 1, okSince := some now, oofSince := none,
                  mfSince := now }.setRaw 1 false
  else if f.word then { u with align := 1, conf := 0, alt := f.alt }
  else u

/-- The multiframe byte is the next one, and the byte met with it: while the multiframe stands the count goes on by itself
(Tables 07-3, 07-8). -/
def FrmUnit.seqStep (u : FrmUnit) (m seq : Nat) : Bool × FrmUnit :=
  match u.seq with
  | none => (false, { u with seq := some (seq % m) })
  | some q =>
    let want := (q + 1) % m
    (seq % m == want, { u with seq := some (if u.mf then want else seq % m) })

/-- A run of frames that speak against the present multiframe state reaches its length (`lose` or `gain`). -/
def FrmUnit.mfFlip (u : FrmUnit) (ok : Bool) (lose gain : Nat) : Bool × FrmUnit :=
  let run := if ok = u.mf then 0 else u.mfRun + 1
  let flips := if u.mf then decide (lose ≤ run) else decide (gain ≤ run)
  (flips, { u with mf := if flips then !u.mf else u.mf, mfRun := if flips then 0 else run })

/-- The multiframe (Tables 07-3, 07-8, R221): IM and OOM of an OTU or ODU by runs of 2 and 5; the H4
sequence of a VC that carries TUs by 8 and 2; an E1's CRC-4 multiframe as it is gained. -/
def FrmUnit.mfStep (u : FrmUnit) (kind now : Nat) (tus : Bool) (f : FrmFrame) : FrmUnit :=
  if kind = 1 then
    if u.align = 2 && f.mf && !u.crc4 then { u with crc4 := true, crcAll := 0, crcBad := 0 }.setRaw 3 false else u
  else if kindVc kind then
    if !tus then u
    else
      let a := u.seqStep 4 f.seq
      let b := a.2.mfFlip a.1 8 2
      if b.1 then b.2.setRaw 3 (!b.2.mf) else b.2
  else if kindOdu kind || kind = 0x18 then
    if u.align != 2 then { u with mf := false, mfRun := 0, mfSince := if u.mf then now else u.mfSince }
    else
      let a := u.seqStep 256 f.seq
      let b := a.2.mfFlip a.1 5 2
      let u1 : FrmUnit := { b.2 with mfSince := if b.1 then now else b.2.mfSince }
      if now < u1.mfSince + 3 * Config.msPos then u1 else u1.setRaw 3 (!u1.mf)
  else u

/-! ### Pointers -/

/-- The largest pointer value of a kind (G.707, by reference; log entry 60). -/
def ptrMax (kind : Nat) : Nat := if kind = 8 then 103 else if kind = 9 then 139 else if kind = 0xA then 764 else 782

/-- Set bits among the lowest ten. -/
def ones (n : Nat) : Nat := ((List.range 10).filter (bitOf n)).length

/-- The new data flag is set or not, by three of its four bits (R226, G.707). -/
def ptrNdf (w : Nat) : Bool := [9, 1, 8, 11, 13].contains (w / 4096)
def ptrNormal (w : Nat) : Bool := [6, 2, 4, 7, 14].contains (w / 4096)

/-- What a received pointer word says (R226, Table 07-10). -/
inductive PtrSays where
  | ais
  | ndf
  | equal
  | up
  | down
  | other
  | bad
  deriving DecidableEq, Repr

/-- A pointer word read against the pointer in force: increments and decrements by the majority of the I and D bits. -/
def readPtr (kind : Nat) (cur : Option Nat) (w : Nat) : PtrSays :=
  let v := w % 1024
  if w = 65535 then .ais
  else if ptrNdf w then (if v ≤ ptrMax kind then .ndf else .bad)
  else if !ptrNormal w then .bad
  else match cur with
    | none => if v ≤ ptrMax kind then .other else .bad
    | some c =>
      let i := ones (Nat.land (Nat.xor v c) 0x2AA)
      let d := ones (Nat.land (Nat.xor v c) 0x155)
      if v = c then .equal
      else if 3 ≤ i && d ≤ 2 then .up
      else if 3 ≤ d && i ≤ 2 then .down
      else if v ≤ ptrMax kind then .other
      else .bad

/-- A pointer word through the interpreter (R226): a new data flag, or three equal values, bring a new pointer; justifications
move it by one. -/
def FrmUnit.ptrStep (u : FrmUnit) (kind w : Nat) : FrmUnit :=
  let v := w % 1024
  let max := ptrMax kind
  match readPtr kind u.ptr w with
  | .ndf => { u with ptr := some v, ptrTry := v, ptrRun := 0 }
  | .up => { u with ptr := u.ptr.map (fun c => if c = max then 0 else c + 1), ptrRun := 0, incs := (u.incs + 1) % 2 ^ 32 }
  | .down => { u with ptr := u.ptr.map (fun c => if c = 0 then max else c - 1), ptrRun := 0, decs := (u.decs + 1) % 2 ^ 32 }
  | .equal => { u with ptrTry := v, ptrRun := if u.ptrTry = v then u.ptrRun + 1 else 1 }
  | .other =>
    let run := if u.ptrTry = v then u.ptrRun + 1 else 1
    { u with ptrTry := v, ptrRun := run, ptr := if 3 ≤ run then some v else u.ptr }
  | _ => { u with ptrRun := 0 }

/-! ### Defects of a frame -/

/-- Frames in a row that set and that clear a defect, by kind (Table 07-10). -/
def defectRuns (kind c : Nat) : Nat × Nat :=
  match c with
  | 5 => if kind = 4 then (1, 2) else if kindPdh kind then (2, 2) else (3, 3)
  | 6 => (8, 3)
  | 7 => if kindPdh kind then (3, 3) else (5, 5)
  | 8 => (5, 5)
  | 17 => (5, 5)
  | 31 => (5, 5)
  | _ => (3, 3)

/-- The defects judged frame by frame from what the frame shows: AIS, LOP, RDI, BDI, LCK, OCI, CSF, IAE,
BIAE (code 31) and MSIM. -/
def frameDefects : List Nat := [5, 6, 7, 8, 12, 13, 14, 17, 18, 31]

/-- A low-order VC, whose status byte is V5 (Table 07-8). -/
def kindV5 (kind : Nat) : Bool := kind == 8 || kind == 9

/-- Whether a frame shows a defect's condition (Tables 07-7, 07-8, 07-10, 07-11, 07-12), where it says anything of it. `u` is the
framer before the frame. -/
def shows (u : FrmUnit) (kind : Nat) (f : FrmFrame) (c : Nat) : Option Bool :=
  match c with
  | 5 =>
    if kind = 0x0E then f.ks.map (fun k => k.2 % 8 == 7)
    else if kindVc kind then f.ptr.map (fun w => w == 65535)
    else if kindOdu kind then f.status.map (fun b => b % 8 == 7)
    else if kindPdh kind then f.zeros.map (fun z => decide (z < 3))
    else none
  | 6 =>
    if !kindVc kind then none
    else f.ptr.bind (fun w => match readPtr kind u.ptr w with
      | .bad => some true
      | .ndf => some true
      | .ais => none
      | .equal => some false
      | _ => if w % 1024 = u.ptrTry then some false else none)
  | 7 =>
    if kind = 0x0E then f.ks.map (fun k => k.2 % 8 == 6)
    else if kindV5 kind then f.status.map (fun b => bitOf b 0)
    else if kindVc kind then f.status.map (fun b => bitOf b 3)
    else if kindPdh kind then f.rai
    else none
  | 8 => if kind = 0x18 || kindOdu kind then f.status.map (fun b => bitOf b 3) else none
  | 12 => if kindOdu kind then f.status.map (fun b => b % 8 == 5) else none
  | 13 => if kindOdu kind then f.status.map (fun b => b % 8 == 6) else none
  | 14 => if kindOdu kind then f.psi.map (fun p => bitOf p.2.1 7) else none
  | 17 => if kind = 0x18 then f.status.map (fun b => bitOf b 2) else none
  | 18 => if kindOdu kind then f.psi.map (·.2.2) else none
  | 31 => if kind = 0x18 then f.status.map (fun b => b / 16 == 0xB) else none
  | _ => none

/-- The runs of one defect after a frame; an AIS is over at once with the third equal pointer. -/
def FrmUnit.runDefect (u : FrmUnit) (kind c : Nat) (seen : Option Bool) : FrmUnit :=
  let n := defectRuns kind c
  match seen with
  | some true =>
    let r := tget 0 u.runs c + 1
    let u1 : FrmUnit := { u with runs := tset u.runs c (min r 16), offRuns := tset u.offRuns c 0 }
    if n.1 ≤ r then u1.setRaw c true else u1
  | some false =>
    let r := tget 0 u.offRuns c + 1
    let u1 : FrmUnit := { u with offRuns := tset u.offRuns c (min r 16), runs := tset u.runs c 0 }
    if n.2 ≤ r then u1.setRaw c false else u1
  | none => u

/-- The far end's error count in a frame (R231). -/
def State.farErrors (s : State) (k kind : Nat) (f : FrmFrame) : Nat :=
  let b := f.status.getD 0
  if kindPdh kind then f.fars
  else if kind = 0x0E then (if b ≤ 24 * (if keyIsLane k then stmN (s.rd Reg.PRT_LANE_MODE (keyNum k)) else 1) then b else 0)
  else if kindV5 kind then ofBool (bitOf b 5)
  else if b / 16 ≤ 8 then b / 16 else 0

/-! ### Accepted values -/

/-- A received label matches the expected one (Table 07-10). PT 0x20 of an access HO ODU2 is accepted
where nothing is multiplexed into it (R253). -/
def State.labelMatches (s : State) (k kind got want : Nat) : Bool :=
  got == want || (got == 1 && want != 0) ||
  (kind == 0x16 && got == 0x20 && want == 0x21 &&
    !s.ovm.ctxs.any (fun e => e.2.active && e.2.parent == some (keyNum k)))

/-- Frames in a row that make a label acceptable (Table 07-6). -/
def labelRun (kind : Nat) : Nat := if kindVc kind then 5 else 3

/-- A label arrives (R223): an accepted change is reported, and PLM and UNEQ follow. -/
def State.takeLabel (s : State) (k kind v : Nat) : State :=
  let u := s.framer k
  let run := if u.labelTry = v then u.labelRun + 1 else 1
  let s1 := s.setFramer k { u with labelTry := v, labelRun := run }
  if run < labelRun kind || u.label = some v then s1
  else
    let u1 := s1.framer k
    let u2 := ({ u1 with label := some v }.setRaw 11 (kindVc kind && v == 0)).setRaw 10
      (!s1.labelMatches k kind v u.cfg.label)
    (s1.setFramer k u2).raise Ev.FRM_LABEL_ACCEPTED k [(2, keyNum k), (1, u.label.getD 0), (1, v)]

/-- One bit of the CRC-7 of a trace frame, x⁷ + x³ + 1 (G.707, by reference; log entry 60). -/
def crc7Bit (c : Nat) (b : Bool) : Nat :=
  let top := bitOf c 6 != b
  Nat.xor (2 * c % 128) (if top then 9 else 0)

/-- The CRC-7 of a 16-byte trace frame, its own bits taken as 0. -/
def crc7 (l : List Nat) : Nat :=
  ((0x80 :: l.drop 1).flatMap (fun b => (List.range 8).map (fun i => bitOf b (7 - i)))).foldl crc7Bit 0

/-- A trace frame is one that may be accepted (Table 07-6): 16 bytes need a valid CRC-7, and a section's one byte SONET (R136). -/
def State.traceOk (s : State) (k kind : Nat) (v : List Nat) : Bool :=
  let sonet := keyIsLane k && s.rdBit Reg.PRT_LANE_SONET (keyNum k)
  match v.length with
  | 1 => kind == 0x0E && sonet
  | 16 => (kind == 0x0E && !sonet || kindVc kind) && v.headD 0 == 128 + crc7 v
  | 64 => kind != 0x0E
  | _ => false

/-- A trace arrives (R223): one that fails its CRC-7 breaks the run. -/
def State.takeTrace (s : State) (k kind layer : Nat) (v : List Nat) : State :=
  let u := s.framer k
  if !s.traceOk k kind v then s.setFramer k { u with traceRun := 0, traceTry := [] }
  else
    let run := if u.traceTry = v then u.traceRun + 1 else 1
    let u1 : FrmUnit := { u with traceTry := v, traceRun := run }
    if run < 3 || u.trace = some v then s.setFramer k { u1 with newTrace := u.newTrace || decide (3 ≤ run) }
    else (s.setFramer k { u1 with trace := some v, newTrace := true }).raise Ev.FRM_TRACE_ACCEPTED k
      [(2, keyNum k), (1, layer), (8, leNum (v.take 8))]

/-- The protection group one of whose legs is a context. -/
def State.groupOf (s : State) (c : Nat) : Option (Nat × ApsGroup) :=
  s.frm.groups.find? (fun e => e.2.work == c || e.2.prot == c)

/-- The context of a framer. -/
def State.ctxOfKey (s : State) (k : Nat) : Option Nat :=
  if keyIsLane k then s.sectionOf (keyNum k) else some (keyNum k)

/-- APS bytes arrive (R223). -/
def State.takeAps (s : State) (k : Nat) (v : List Nat) : State :=
  let u := s.framer k
  let run := if u.apsTry = v then u.apsRun + 1 else 1
  let u1 : FrmUnit := { u with apsTry := v, apsRun := run }
  if run < 3 || u.aps = some v then s.setFramer k u1
  else
    let s1 := s.setFramer k { u1 with aps := some v }
    match s1.ctxOfKey k with
    | none => s1
    | some c =>
      match s1.groupOf c with
      | none => s1
      | some (g, x) =>
        ({ s1 with frm := { s1.frm with groups := tset s1.frm.groups g { x with rx := v } } }).raise
          Ev.FRM_APS_RX (srcGroup g) [(2, g), (4, leNum (v.take 4))]

/-- A QL received in a framer goes to the candidates of its lane or circuit; an E1's to those that take this Sa bit (R68). -/
def State.giveQl (s : State) (k : Nat) (sa : Option Nat) (v : Nat) : State :=
  if keyIsLane k then s.acceptLaneQl (keyNum k) v
  else match s.ctx? (keyNum k) with
    | none => s
    | some x => s.acceptQl (fun c => c.kind == 3 && x.endpoint.typ == 2 && c.lane == x.endpoint.lane &&
        c.chan == x.endpoint.idx && sa.all (fun i => c.cfg.sa == i)) v

/-- An SSM arrives (Table 03-6): eight equal S1 in a row, or seven of the last ten DS1 ESF codewords. -/
def State.takeSsm (s : State) (k kind v : Nat) : State :=
  let u := s.framer k
  let run := if u.ssmTry = v then u.ssmRun + 1 else 1
  let last := (v :: u.ssmLast).take 10
  let got := if kind = 2 then !u.alt && decide (7 ≤ last.count v) else decide (8 ≤ run)
  let s1 := s.setFramer k { u with ssmTry := v, ssmRun := run, ssmLast := last, ssm := if got then v else u.ssm }
  if got then s1.giveQl k none v else s1

/-- The SSM of an E1 multiframe in each Sa bit (Table 03-6): three equal ones in a row are accepted, in the bit each candidate
takes (TIM_CAND_SA) and, for the snapshot, the bit of FRM_CTX_CFG. -/
def State.takeSas (s : State) (k : Nat) (sas : List Nat) : State :=
  if sas.isEmpty then s
  else
    let u := s.framer k
    let runs := sas.zipIdx.map (fun e => if u.saTry[e.2]? = some e.1 then u.saRun.getD e.2 0 + 1 else 1)
    let s1 := s.setFramer k { u with
      saTry := sas, saRun := runs,
      ssm := if 3 ≤ runs.getD u.cfg.sa 0 then sas.getD u.cfg.sa 0 else u.ssm }
    (sas.zipIdx.filter (fun e => decide (3 ≤ runs.getD e.2 0))).foldl (fun a e => a.giveQl k (some e.2) e.1) s1

/-- ODU STAT arrives; it is accepted after three equal values. -/
def FrmUnit.takeStat (u : FrmUnit) (v : Nat) : FrmUnit :=
  let run := if u.statTry = v then u.statRun + 1 else 1
  { u with statTry := v, statRun := run, stat := if 3 ≤ run then v else u.stat }

/-! ### Counts -/

/-- The port's or lane's FEC counts, and the 1 ms blocks of its point (R138, R143, Table 10-2): the port's first lane says whether
errors are corrected. -/
def State.takeFec (s : State) (l0 corr uncorr : Nat) : State :=
  let l := s.portFirst l0
  if s.rd Reg.PRT_LANE_FEC l = 0 then s
  else
    let s1 := (s.countBy Reg.PRT_LANE_FEC_CORR_CNT l corr).countBy Reg.PRT_LANE_FEC_UNCORR_CNT l uncorr
    let began := s.pm.began.getD 0
    let blk := (s.addr - began) / (8 * Config.cyclePos) + began + 1
    let u := s1.framer (srcLane l)
    if uncorr = 0 || u.fecBlk = blk then s1
    else (s1.setFramer (srcLane l) { u with fecBlk := blk }).pmBlocks (lanePoint l) 1 0

/-- The violations of a frame (R230, R231): B1 and the layer's own monitor, near and far, with their lane
counters, windows and errored blocks. -/
def State.takeCounts (s : State) (k kind : Nat) (f : FrmFrame) : State :=
  let u := s.framer k
  let l := keyNum k
  let lane := keyIsLane k && l < 72
  if u.noCount || s.serverMasks k then s.setFramer k { u with lastBip := f.bip }
  else
    let dead := shows u kind f 17 == some true || (kind = 1 && !u.crc4) || (kind = 2 && u.alt)
    let near := if dead then 0 else f.bip
    let far := if shows u kind f 31 == some true || (u.alt && kindPdh kind) then 0 else s.farErrors k kind f
    let bad := if dead then 0 else f.bad
    let feBad := if kind = 0x0E then min far (stmN (s.rd Reg.PRT_LANE_MODE l)) else ofBool (far != 0)
    let add (w : List (Nat × Nat)) (n : Nat) : List (Nat × Nat) :=
      if n = 0 then w
      else match w with
        | (c, m) :: rest => if c = s.cycle then (c, m + n) :: rest else (s.cycle, n) :: w
        | [] => [(s.cycle, n)]
    let s1 := s.setFramer k { u with
      lastBip := f.bip, near := (u.near + near) % 2 ^ 32, far := (u.far + far) % 2 ^ 32,
      window := add u.window near, winB1 := add u.winB1 f.b1 }
    let s2 := if lane then
        (((s1.countBy Reg.FRM_LANE_B1_CNT l f.b1).countBy Reg.FRM_LANE_B2_CNT l near).countBy
          Reg.FRM_LANE_REI_CNT l far)
      else s1
    let s3 := match s2.framerPoint k with
      | none => s2
      | some p => s2.pmBlocks p bad feBad
    if kind = 0x0E && lane then s3.pmBlocks (rsPoint l) (ofBool (f.b1 != 0)) 0 else s3

/-- An E1's CRC-4 blocks: 915 errored among 1,000 cause LOM and a return to SEARCH (R221). -/
def State.takeCrc4 (s : State) (k kind : Nat) (f : FrmFrame) : State :=
  let u := s.framer k
  if kind != 1 || !u.crc4 || f.blocks = 0 then s
  else
    let bad := u.crcBad + f.bad
    let all := u.crcAll + f.blocks
    if 915 ≤ bad then s.setFramer k (({ u with crcAll := 0, crcBad := 0 }.toSearch s.time).setRaw 3 true)
    else if 1000 ≤ all then s.setFramer k { u with crcAll := 0, crcBad := 0 }
    else s.setFramer k { u with crcAll := all, crcBad := bad }

/-- Received justifications, and the gate's own decision where the store's fill leaves half by more than
1/32 of its size (R226, R250, R257): of a pointer, at most one in any 4 consecutive frames. They count in the container's
record. `was` is the framer before the frame. -/
def State.takeJust (s : State) (k kind : Nat) (was : FrmUnit) (f : FrmFrame) : State :=
  let u := s.framer k
  let s1 := s.setFramer k { u with txGap := u.txGap + 1 }
  if keyIsLane k then s1
  else
    let c := keyNum k
    let j := tget (0, 0, 0, 0) s1.map.just c
    let gone (a b : Nat) : Nat := (a + 2 ^ 32 - b) % 2 ^ 32
    let s2 := { s1 with map := { s1.map with
      just := tset s1.map.just c (j.1, j.2.1, (j.2.2.1 + gone u.incs was.incs) % 2 ^ 32, (j.2.2.2 + gone u.decs was.decs) % 2 ^ 32) } }
    match f.fill with
    | none => s2
    | some v =>
      let up := match s2.ctx? c with
        | some x => x.parent.getD c
        | none => c
      let q := tget (0, 0, 0, 0) s2.map.just up
      if (480 ≤ v && v ≤ 544) || (kindVc kind && u.txGap < 4) || (s2.rdBit Reg.PAR_PAIR_EN 0 && !s2.par.planner) then s2
      else
        let q1 := if v < 480 then ((q.1 + 1) % 2 ^ 32, q.2) else (q.1, (q.2.1 + 1) % 2 ^ 32, q.2.2)
        let max := ptrMax kind
        let p := (s2.framer k).txPtr
        let p1 := if v < 480 then (if p = max then 0 else p + 1) else if p = 0 then max else p - 1
        ({ s2 with map := { s2.map with just := tset s2.map.just up q1 } } : State).setFramer k
          { s2.framer k with txGap := 1, txPtr := if kindVc kind then p1 else p }

/-- A copy report is accepted (R399): the changes of this unit's counts are added. -/
def State.takeCopies (s : State) (k : Nat) (r : Nat × Nat) : State :=
  let u := s.framer k
  let s1 := s.setFramer k { u with copyGot := some r }
  match u.copyGot with
  | none => s1
  | some o => (s1.countBy Reg.PAR_FE_GOOD 0 ((r.1 + 2 ^ 32 - o.1) % 2 ^ 32)).countBy Reg.PAR_FE_MISS 0
      ((r.2 + 2 ^ 32 - o.2) % 2 ^ 32)

/-- The lane of an uplink ODU's port. -/
def State.portLane (s : State) (k : Nat) : Nat :=
  if keyIsLane k then keyNum k
  else match s.ctx? (keyNum k) with
    | none => 0
    | some x => x.endpoint.lane

/-- PSI byte 127 of an HO ODU4: a dying gasp is accepted in two multiframes in a row (R438). -/
def State.takeGasp (s : State) (k : Nat) (on : Bool) : State :=
  let u := s.framer k
  let run := if on then u.gaspRun + 1 else 0
  let s1 := s.setFramer k { u with gaspRun := min run 3 }
  if run = 2 then s1.raise Ev.ENG_REMOTE_DGASP (srcLane (s.portLane k)) [(2, s.portLane k)] else s1

/-! ### A frame -/

/-- The framer receives: its lane has a framed mode, no LOS and no LOL, and is aligned as a port; a
context is placed. -/
def State.framerLive (s : State) (k : Nat) : Bool :=
  if keyIsLane k then
    let l := keyNum k
    let m := s.rd Reg.PRT_LANE_MODE l
    l < 72 && s.portFirst l == l && (modeStm m || modeOtu m) && !s.rdBit Reg.PRT_LANE_LOS l && !s.rdBit Reg.PRT_LANE_LOL l &&
      !s.rdBit Reg.PRT_LANE_GATED l && !(s.framer k).raw.contains 4
  else match s.ctx? (keyNum k) with
    | none => false
    | some x => x.active && kindHasOverhead x.kind && !(s.framer k).raw.contains 0

/-- The context carries TUs (Table 07-10). -/
def State.carriesTus (s : State) (k : Nat) : Bool :=
  !keyIsLane k && s.ovm.ctxs.any (fun e => e.2.active && 8 ≤ e.2.kind && e.2.kind ≤ 0xA &&
    (e.2.parent == some (keyNum k) || e.2.dest == some (keyNum k)))

/-- A frame through alignment, the pointer and the frame-by-frame defects. -/
def State.frameAlign (s : State) (k kind : Nat) (f : FrmFrame) : State :=
  let u := s.framer k
  let u0 : FrmUnit := if u.align != 2 && u.oofSince.isNone then { u with oofSince := some s.time } else u
  let u1 := if kindVc kind then { u0 with align := 2 } else u0.alignStep kind s.time f
  let u2 := u1.mfStep kind s.time (s.carriesTus k) f
  let u3 := if u2.align = 2 then frameDefects.foldl (fun a c => a.runDefect kind c (shows u2 kind f c)) u2 else u2
  let u4 := if kindVc kind then (match f.ptr with | some w => u3.ptrStep kind w | none => u3) else u3
  let u5 := if kindOdu kind then (match f.status with | some b => u4.takeStat (b % 8) | none => u4) else u4
  (s.setFramer k u5).countOof k u

/-- The label a frame brings (Tables 07-8, 07-11): C2, V5 [3:1], or the PT of a PSI multiframe. -/
def frameLabel (kind : Nat) (f : FrmFrame) : Option Nat :=
  if kindV5 kind then f.status.map (fun b => b / 2 % 8)
  else if kindOdu kind then f.psi.map (·.1)
  else if kindVc kind then f.label else none

/-- The APS bytes a frame brings (Table 07-6): K1 and K2 [7:3], or APS/PCC at MFAS [2:0] = 0. -/
def frameAps (kind : Nat) (f : FrmFrame) : Option (List Nat) :=
  if kind = 0x0E then f.ks.map (fun k => [k.1, k.2 / 8 * 8])
  else if kindOdu kind && f.seq % 8 = 0 then f.aps else none

/-- The values that a frame brings. -/
def State.frameValues (s : State) (k kind : Nat) (f : FrmFrame) : State :=
  let s1 := match f.trace with | some v => s.takeTrace k kind f.traceAt v | none => s
  let s2 := match frameLabel kind f with | some v => s1.takeLabel k kind v | none => s1
  let s3 := match frameAps kind f with | some v => s2.takeAps k v | none => s2
  let s4 := match f.ssm with | some v => s3.takeSsm k kind v | none => s3
  let s5 := if kind = 1 && (s.framer k).crc4 then s4.takeSas k f.sas else s4
  let s6 := match f.copies.bind readCopyReport with
    | some r => s5.takeCopies k (r.counts.getD (2 * s.rd Reg.PAR_UNIT 0) 0, r.counts.getD (2 * s.rd Reg.PAR_UNIT 0 + 1) 0)
    | none => s5
  match f.dgasp with | some b => s6.takeGasp k b | none => s6

/-- FRAMER_FRAME_RX (R138, R212 to R234, R257, R322, R399, R438): one received frame; a port's framer is its first lane's. -/
def execFramerFrameRx (dt framer : Nat) (f : FrmFrame) (s : State) : Host.Outcome State Fault Refusal :=
  let s1 := s.elapse dt
  .next (if !s1.framerLive framer then s1
    else
      let kind := s1.framerKind framer
      let s2 := s1.frameAlign framer kind f
      let s3 := if (s2.framer framer).align = 2 then
          (((s2.takeCounts framer kind f).takeCrc4 framer kind f).takeJust framer kind (s1.framer framer) f).frameValues framer kind f
        else s2
      let s4 := if keyIsLane framer && modeOtu (s3.rd Reg.PRT_LANE_MODE (keyNum framer)) then
          s3.takeFec (keyNum framer) f.fecCorr f.fecUncorr
        else s3
      s4.settle framer)

/-- LOF_DECLARE (R216): OOF, or SYNC, has lasted 3 ms. -/
def execLofDeclare (dt framer : Nat) (s : State) : Host.Outcome State Fault Refusal :=
  let s1 := s.elapse dt
  let u := s1.framer framer
  .next (if u.align = 2 then
      match u.okSince with
      | none => s1
      | some t =>
        let s2 := s1.elapse (t + 3 * Config.msPos - s1.time)
        (s2.setFramer framer (u.setRaw 2 false)).settle framer
    else
      match u.oofSince with
      | none => s1
      | some t =>
        let s2 := s1.elapse (t + 3 * Config.msPos - s1.time)
        (s2.setFramer framer (u.setRaw 2 true)).settle framer)

/-- The skew of a port's logical lanes in ns (R219). -/
def otlSkew (l : List OtlLane) : Nat :=
  let d := l.map (·.delay)
  d.foldl max 0 - d.foldl min (d.headD 0)

/-- One of the conditions of OTL_LOL holds (R219, R141): a logical lane out of SYNC, two equal markers, or a skew above 200 ns. -/
def otlBad (l : List OtlLane) : Bool :=
  !l.all (·.sync) || !decide ((l.map (fun x => x.marker % 20)).Nodup) || decide (200 < otlSkew l)

/-- OTL_LOL (R138, R141, R219): the logical lanes of a port are looked at. A condition newly met or newly absent is noted with its
time; the row that finds it so again waits until it has stood for 3 ms, and declares or clears the defect. Each logical lane's
point has a defect while it is out of SYNC (Table 10-2). -/
def execOtlLol (dt lane : Nat) (lanes : List OtlLane) (s : State) : Host.Outcome State Fault Refusal :=
  let s1 := s.elapse dt
  let m := s1.rd Reg.PRT_LANE_MODE lane
  let k := srcLane lane
  let bad := otlBad lanes
  .next (if (m = 11 || m = 12) && s1.portFirst lane = lane then
      let s0 := (s1.wr Reg.FRM_LANE_SKEW lane (otlSkew lanes)).wr Reg.FRM_LANE_LANES_OK lane (lanes.countP (·.sync))
      let s2 := (lanes.zipIdx.filter (fun e => decide (e.2 < 20))).foldl
        (fun a e => a.pmDefect (otlPoint (lane - 48) e.2) (!e.1.sync) false) s0
      match (s2.framer k).otl with
      | some (b, t) =>
        if b = bad then
          let s3 := s2.elapse (t + 3 * Config.msPos - s2.time)
          let u := s3.framer k
          let u1 := u.setRaw 4 bad
          ((s3.setFramer k (if bad then u1.toSearch s3.time else u1)).countOof k u).settle k
        else s2.setFramer k { s2.framer k with otl := some (bad, s2.time) }
      | none => s2.setFramer k { s2.framer k with otl := some (bad, s2.time) }
    else s1)

/-- CRC4_SEARCH_TIMEOUT (R221): an E1 in SYNC has not gained CRC-4 multiframe alignment within 8 ms, or
within 400 ms under CRC4_AUTO, when it stays frame-aligned without it. -/
def execCrc4SearchTimeout (dt ctx : Nat) (found : Bool) (s : State) : Host.Outcome State Fault Refusal :=
  let s1 := s.elapse dt
  let k := srcCtx ctx
  let u := s1.framer k
  .next (match u.okSince with
    | none => s1
    | some t =>
      let auto := bitOf u.cfg.acts 3
      let s2 := s1.elapse (t + (if auto then 400 else 8) * Config.msPos - s1.time)
      if s2.framerKind k != 1 || u.crc4 || found then s2
      else if auto then (s2.setFramer k (u.setRaw 3 false)).settle k
      else ((s2.setFramer k (u.toSearch s2.time)).countOof k u).settle k)

/-! ### The hewer's work -/

/-- The layer code of a kind's trace (FRM_TRACE_SET). -/
def traceLayer (kind : Nat) : Nat := if kind = 0x0E then 0 else if kind = 0x18 then 2 else if kindOdu kind then 3 else 1

/-- The accepted trace differs from the expected one under the mode in force. -/
def traceDiffers (kind mode : Nat) (got want : List Nat) : Bool :=
  let part (lo n : Nat) (l : List Nat) : List Nat := (l.drop lo).take n
  if mode = 0 then false
  else if kind = 0x18 || kindOdu kind then
    (mode != 2 && part 0 16 got != part 0 16 want) || (mode != 1 && part 16 16 got != part 16 16 want)
  else got.take got.length != want.take got.length

/-- TIM is evaluated at a snapshot once a trace has been accepted. -/
def State.judgeTim (s : State) (k kind : Nat) : State :=
  let u := s.framer k
  match u.trace, tfind u.cfg.expect (traceLayer kind) with
  | some got, some want => s.setFramer k (u.setRaw 9 (traceDiffers kind u.cfg.trace got want))
  | _, _ => s.setFramer k (u.setRaw 9 false)

/-- The 128 bytes of a snapshot (Table 07-4). -/
def State.snapshotBytes (s : State) (k : Nat) : List Nat :=
  let u := s.framer k
  let vec (l : List Nat) : Nat := (l.map (fun c => 2 ^ c)).sum
  let tr := ((u.trace.getD []) ++ List.replicate 64 0).take 64
  let b := leBytes 8 s.stamp ++ leBytes 4 (vec u.declared) ++ leBytes 4 (vec u.failed) ++ leBytes 4 u.near ++
    leBytes 4 u.far ++ leBytes 4 u.incs ++ leBytes 4 u.decs ++ [u.label.getD 0] ++
    ((u.aps.getD []) ++ [0, 0, 0, 0]).take 4 ++ [u.ssm, u.stat, ofBool u.crc4 + 2 * ofBool u.newTrace] ++ tr
  (b ++ List.replicate 128 0).take 128

/-- A time of FRM_INTEG_SET or FRM_INTEG_CLR in positions. -/
def State.integPos (s : State) (f : Fld) (most : Nat) : Nat :=
  min most (max 1 (s.rd f 0)) * 100 * Config.msPos

/-- Defects are integrated into failures at a snapshot (R235); masked ones are not. -/
def State.integrate (s : State) (k : Nat) : State :=
  (List.range 19).foldl (fun a c =>
    let u := a.framer k
    let on := u.declared.contains c
    let hidden := !on && u.raw.contains c
    let since := tfind (if on then u.setFrom else u.clrFrom) c
    let t := since.getD a.time
    let u1 : FrmUnit := if on then { u with setFrom := tset u.setFrom c t, clrFrom := tdel u.clrFrom c }
      else { u with clrFrom := tset u.clrFrom c t, setFrom := tdel u.setFrom c }
    let lasts := a.time - t
    let failed := u.failed.contains c
    if hidden then a.setFramer k { u with setFrom := tdel u.setFrom c, clrFrom := tdel u.clrFrom c }
    else if on && !failed && a.integPos Reg.FRM_INTEG_SET 100 ≤ lasts then
      (a.setFramer k { u1 with failed := c :: u1.failed }).raise Ev.FRM_FAILURE k [(2, keyNum k), (1, c), (1, 1)]
    else if !on && failed && a.integPos Reg.FRM_INTEG_CLR 200 ≤ lasts then
      (a.setFramer k { u1 with failed := u1.failed.filter (fun d => d != c) }).raise Ev.FRM_FAILURE k
        [(2, keyNum k), (1, c), (1, 0)]
    else a.setFramer k u1) s

/-! ### Protection -/

/-- A protection group of ODUs speaks G.873.1, others G.841 (Table 07-13). -/
def ApsGroup.isOdu (g : ApsGroup) : Bool := 5 ≤ g.scheme && g.scheme ≤ 7

/-- Request codes of the group's standard (log entry 21), in the order: lockout, SF of the protect leg,
forced, SF, SD, manual, WTR, exercise, reverse request, do not revert, none. -/
def ApsGroup.codes (g : ApsGroup) : List Nat :=
  if g.isOdu then [15, 14, 13, 11, 9, 7, 5, 4, 2, 1, 0] else [15, 13, 14, 13, 11, 8, 6, 4, 2, 1, 0]

/-- A request of the group, by its place in that order; `leg` is the leg the selector is to take. -/
structure ApsWant where
  req : Nat
  leg : Nat
  deriving DecidableEq, Repr

/-- Signal fail and signal degrade of a leg as the group's scheme sees them: SNC/I takes what its servers
and its own AIS, LOP, LCK and OCI say, the others every trail signal fail, SF and SD (R239, R240). Of a pair's copies a unit
sees its own; the mate's counts as failed while the mate is silent on both paths (R419, log entry 62). -/
def State.legFail (s : State) (g : ApsGroup) (leg : Nat) : Bool :=
  let k := s.frmKey (if leg = 0 then g.work else g.prot)
  let u := s.framer k
  if g.pair && leg != s.rd Reg.PAR_UNIT 0 then !s.rdBit Reg.PAR_LINK_PATH 0 && !s.rdBit Reg.PAR_PIN_PATH 0
  else if g.scheme = 3 || g.scheme = 5 then
    (s.servers 8 k).any s.tsf || u.declared.any (fun d => [5, 6, 12, 13].contains d)
  else s.sourceFailed k || u.declared.contains 16
def State.legDegraded (s : State) (g : ApsGroup) (leg : Nat) : Bool :=
  !(g.scheme = 3 || g.scheme = 5) && !(g.pair && leg != s.rd Reg.PAR_UNIT 0) &&
    (s.framer (s.frmKey (if leg = 0 then g.work else g.prot))).declared.contains 15

/-- The local request of highest priority (R240). A command leaves the leg it names. -/
def State.localWant (s : State) (g : ApsGroup) : ApsWant :=
  let wf := s.legFail g 0 && g.holdDone
  let wd := s.legDegraded g 0 && g.holdDone
  if g.command = 1 then { req := 0, leg := 0 }
  else if s.legFail g 1 then { req := 1, leg := 0 }
  else if g.command = 2 then { req := 2, leg := 1 - g.cmdLeg }
  else if wf then { req := 3, leg := 1 }
  else if s.legDegraded g 1 then { req := 4, leg := 0 }
  else if wd then { req := 4, leg := 1 }
  else if g.command = 3 then { req := 5, leg := 1 - g.cmdLeg }
  else if g.wtrFrom.isSome then { req := 6, leg := 1 }
  else if g.command = 4 then { req := 7, leg := g.leg }
  else if g.wanted = 1 && !bitOf g.mode 0 then { req := 9, leg := 1 }
  else { req := 10, leg := 0 }

/-- The far end's request, from the accepted APS bytes: its code and the signal it asks for. -/
def ApsGroup.farWant (g : ApsGroup) : Option ApsWant :=
  match g.rx with
  | [] => none
  | b :: rest =>
    let code := b / 16
    let leg := if g.isOdu then rest.headD 0 else b % 16
    some { req := g.codes.idxOf code, leg := if leg = 0 then 0 else 1 }

/-- The APS bytes sent for a request (R241): K1 and K2, or the four APS/PCC bytes. -/
def ApsGroup.txBytes (g : ApsGroup) (w : ApsWant) : List Nat :=
  let code := g.codes.getD w.req 0
  let bidir := bitOf g.mode 1
  if g.scheme = 3 || g.scheme = 4 || g.scheme = 8 then []
  else if g.isOdu then
    [16 * code + 8 + 4 * ofBool (g.scheme == 7) + 2 * ofBool bidir + ofBool (bitOf g.mode 0), w.leg, w.leg, 0]
  else
    [16 * code + w.leg, 16 * w.leg + 8 * ofBool (g.scheme == 2) + (if bidir then 5 else 4)]

/-- The state with a group replaced. -/
def State.setGroup (s : State) (n : Nat) (g : ApsGroup) : State :=
  { s with frm := { s.frm with groups := tset s.frm.groups n g } }

/-- Hold-off of a group in positions. -/
def ApsGroup.holdPos (g : ApsGroup) : Nat := g.hold * 100 * Config.msPos

/-- Hold-off and WTR as a snapshot finds the working leg (R240): a condition waits for its hold-off; when
it ends on a revertive group that stands on the protect leg, WTR starts. -/
def State.apsTimers (s : State) (g : ApsGroup) : ApsGroup :=
  let bad := s.legFail g 0 || s.legDegraded g 0
  if bad then
    if g.holdFrom.isSome then { g with wtrFrom := none }
    else { g with holdFrom := some s.time, holdDone := g.hold == 0, wtrFrom := none }
  else
    let had := g.holdFrom.isSome && g.holdDone
    let g1 : ApsGroup := { g with holdFrom := none, holdDone := false }
    if had && g.wanted = 1 && bitOf g.mode 0 then { g1 with wtrFrom := some s.time } else g1

/-- A group's requests are evaluated (R240, R242): only the holder of authority acts. -/
def State.evalGroup (s : State) (n : Nat) : State :=
  match tfind s.frm.groups n with
  | none => s
  | some g0 =>
    if !s.hasAuthority || g0.scheme = 8 then s
    else
      let g := s.apsTimers g0
      let mine := s.localWant g
      let far := if bitOf g.mode 1 then g.farWant else none
      let w : ApsWant := match far with
        | some f => if f.req < mine.req && f.req < 8 then { req := 8, leg := f.leg } else mine
        | none => mine
      let leg := match far with
        | some f => if f.req < mine.req && f.req < 8 then f.leg else mine.leg
        | none => mine.leg
      s.setGroup n { g with wanted := leg, request := g.codes.getD w.req 0, tx := g.txBytes w }

/-- OH_EXTRACT (R213, R214 with its two buffers, R232, R235, R240): the snapshot is written; the hewer compares traces,
integrates failures and evaluates protection. -/
def execOhExtract (dt ctx : Nat) (s : State) : Host.Outcome State Fault Refusal :=
  let s1 := s.elapse dt
  .next (match s1.ctx? ctx with
    | none => s1
    | some x =>
      if !x.active || !kindHasOverhead x.kind || !s1.dispatched 1 (fun e => e.arg == ctx) then s1
      else
        let k := s1.frmKey ctx
        let s2 := ((s1.judgeTim k x.kind).settle k).integrate k
        let u := s2.framer k
        let s3 := s2.setFramer k { u with snap := s2.snapshotBytes k, snapB := u.snap, newTrace := false }
        match s3.groupOf ctx with
        | none => s3
        | some (n, _) => s3.evalGroup n)

/-- The trace sent where none is set (Tables 07-7, 07-8): 16 bytes of NUL with their CRC-7, or 0x01 in SONET; nothing for a TTI. -/
def State.defaultTrace (s : State) (k kind : Nat) : List Nat :=
  if kind = 0x0E && keyIsLane k && s.rdBit Reg.PRT_LANE_SONET (keyNum k) then [1]
  else if kind = 0x0E || kindVc kind then (128 + crc7 (List.replicate 16 0)) :: List.replicate 15 0
  else List.replicate 64 0

/-- A group takes the leg its hewer decided (R241, R273); the holder of the tally tells the mate (Table 12-10a). -/
def State.takeLeg (s : State) (ctx : Nat) : State :=
  match s.groupOf ctx with
  | none => s
  | some (n, g0) =>
    let g := match g0.next with
      | some (m, hold, wtr) => { g0 with mode := m, hold := hold, wtr := wtr, next := none }
      | none => g0
    let s0 := s.setGroup n { g with leg := g.wanted }
    let s1 := if s.rdBit Reg.PAR_PAIR_EN 0 && s.hasAuthority then
        s0.send (.ctrlImage [{ group := n, tx := g.tx, leg := g.wanted, request := g.request }])
      else s0
    s1.raiseIf (g.leg != g.wanted) Ev.FRM_APS_SWITCH (srcGroup n) [(2, n), (1, g.wanted), (1, g.request)]

/-- OH_INSERT (R213, R215, R241, R244): the framer takes the transmit image, with what the FRM commands
changed; an image that is not complete leaves the previous one in use. -/
def execOhInsert (dt ctx : Nat) (complete : Bool) (s : State) : Host.Outcome State Fault Refusal :=
  let s1 := s.elapse dt
  .next (match s1.ctx? ctx with
    | none => s1
    | some x =>
      if !x.active || !kindHasOverhead x.kind || !s1.dispatched 2 (fun e => e.arg == ctx) then s1
      else
        let k := s1.frmKey ctx
        let u := s1.framer k
        let c := u.cfgNext.getD u.cfg
        let moved := c.sf != u.cfg.sf || c.sd != u.cfg.sd
        let u1 : FrmUnit := { u with
          cfg := c, cfgNext := none, window := if moved then [] else u.window,
          winB1 := if moved then [] else u.winB1, winFrom := if moved then s1.cycle else u.winFrom }
        if complete then
          let tx := match s1.groupOf ctx with
            | some (_, g) => g.tx
            | none => []
          let s2 := s1.setFramer k { u1 with
            forced := u1.forcedNext.getD u1.forced, forcedNext := none,
            image := tx ++ ((tfind c.send (traceLayer x.kind)).getD (s1.defaultTrace k x.kind)) }
          s2.takeLeg ctx
        else
          ((s1.setFramer k u1).count Reg.FRM_OH_OVERRUN_CNT 0).raiseOnce Ev.OH_OVERRUN ctx (srcCtx ctx)
            (fun n => [(2, ctx), (4, n)]))

/-- APS_HOLDOFF_EXPIRY (R240): the working leg's condition has outlasted the hold-off. -/
def execApsHoldoffExpiry (dt group : Nat) (s : State) : Host.Outcome State Fault Refusal :=
  let s1 := s.elapse dt
  .next (match tfind s1.frm.groups group with
    | none => s1
    | some g =>
      match g.holdFrom with
      | none => s1
      | some t =>
        let s2 := s1.elapse (t + g.holdPos - s1.time)
        (s2.setGroup group { g with holdDone := true }).evalGroup group)

/-- APS_WTR_EXPIRY (R240): the working leg is restored. -/
def execApsWtrExpiry (dt group : Nat) (s : State) : Host.Outcome State Fault Refusal :=
  let s1 := s.elapse dt
  .next (match tfind s1.frm.groups group with
    | none => s1
    | some g =>
      match g.wtrFrom with
      | none => s1
      | some t =>
        let s2 := s1.elapse (t + g.wtr * Config.secondPos - s1.time)
        (s2.setGroup group { g with wtrFrom := none, wanted := 0 }).evalGroup group)

/-! ### Signal degrade and signal fail -/

/-- The rate r of a framer's monitor in b/s (Table 07-9); 0 where the kind has none. -/
def State.monitorRate (s : State) (k kind : Nat) : Nat :=
  match kind with
  | 0x01 => 2048000
  | 0x02 => 1544000
  | 0x04 => 44736000
  | 0x08 => 2240000
  | 0x09 => 1664000
  | 0x0A => 48384000
  | 0x0B => 149760000
  | 0x0C => 4 * 149760000
  | 0x0D => 16 * 149760000
  | 0x0E => if keyIsLane k then 155520000 * stmN (s.rd Reg.PRT_LANE_MODE (keyNum k)) else 155520000
  | 0x18 =>
    let m := s.rd Reg.PRT_LANE_MODE (keyNum k)
    if m = 5 then 10709225000 else if m = 6 then 11095728000 else 111809976000
  | n => if kindOdu n then
      (match s.ctx? (keyNum k) with
        | some x => oduBlocks n x.nts (x.nts == 20 && x.rate == 0)
        | none => oduBlocks n 1 false) * 122368
    else 0

/-- W for an exponent and a rate (R236). -/
def windowCycles (x r : Nat) : Nat := max 8 ((16 * 10 ^ x * 8000 + r - 1) / max 1 r)

/-- The exponents in force for a framer. -/
def State.sfExp (s : State) (c : FrmCfg) : Nat := if c.sf = 0 then s.rd Reg.FRM_SF_EXP 0 else c.sf
def State.sdExp (s : State) (c : FrmCfg) : Nat := if c.sd = 0 then s.rd Reg.FRM_SD_EXP 0 else c.sd

/-- Violations of the last `w` cycles before cycle `now`. -/
def windowSum (l : List (Nat × Nat)) (now w : Nat) : Nat :=
  ((l.filter (fun e => decide (e.1 < now) && decide (now ≤ e.1 + w))).map (·.2)).sum

/-- The judgement of one of SD and SF: declared from the last W cycles, cleared after 10·W with fewer than
16 violations in 10·W (R236, R237). -/
def judgeWindow (on : Bool) (sums : Nat → Nat) (w now declaredAt : Nat) : Bool :=
  if on then !(decide (declaredAt + 10 * w ≤ now) && decide (sums (10 * w) < 16))
  else decide (16 ≤ sums w)

/-- SD_SF_EVAL (R236 to R238): the windows of a framer's monitors at a cycle boundary. -/
def execSdSfEval (dt framer : Nat) (s : State) : Host.Outcome State Fault Refusal :=
  let s1 := s.toBoundary dt Config.cyclePos
  let u := s1.framer framer
  let kind := s1.framerKind framer
  let r := s1.monitorRate framer kind
  .next (if r = 0 || s1.halted || u.declared.any maskOrder.contains || s1.serverMasks framer then s1
    else
      let now := s1.cycle
      let wd := windowCycles (s1.sdExp u.cfg) r
      let wf := windowCycles (s1.sfExp u.cfg) r
      let sd := judgeWindow (u.raw.contains 15) (windowSum u.window now) wd now u.sdAt
      let sf := judgeWindow (u.raw.contains 16)
        (fun w => max (windowSum u.window now w) (windowSum u.winB1 now w)) wf now u.sfAt
      let keep := 10 * max wd wf
      let u1 : FrmUnit := { u with
        sdAt := if sd && !u.raw.contains 15 then now else u.sdAt,
        sfAt := if sf && !u.raw.contains 16 then now else u.sfAt,
        window := u.window.filter (fun e => decide (now ≤ e.1 + keep)),
        winB1 := u.winB1.filter (fun e => decide (now ≤ e.1 + keep)) }
      (s1.setFramer framer ((u1.setRaw 15 sd).setRaw 16 sf)).settle framer)

/-! ### Commands -/

/-- A command that names a MIGRATING context is held and counted (R312); otherwise it runs. -/
def State.orHold (s : State) (c : Nat) (cmd : CtxCmd) (run : State → State) : State :=
  match s.ctx? c with
  | none => run s
  | some x =>
    if x.migrating.isSome then
      ({ s with ovm := { s.ovm with held := s.ovm.held ++ [(c, cmd)] } }).count Reg.OVM_HELD_CNT 0
    else run s

/-- The context is placed and its kind has overhead (Table 07-16). -/
def State.frmCtxOk (s : State) (c : Nat) : Bool :=
  match s.ctx? c with
  | none => false
  | some x => x.active && kindHasOverhead x.kind

/-- FRM_CTX_CFG on the placement in force (R236, R238). -/
def State.doCtxCfg (s : State) (h : HostRef) (p : CtxCfg) : State :=
  if !s.frmCtxOk p.ctx then s.refuse h Op.FRM_CTX_CFG 1
  else if (p.sf != 0 && (p.sf < 3 || 5 < p.sf)) || (p.sd != 0 && (p.sd < 5 || 9 < p.sd)) || 3 < p.trace ||
      4 < p.sa then s.refuse h Op.FRM_CTX_CFG 2
  else
    let k := s.frmKey p.ctx
    let r := s.monitorRate k (s.framerKind k)
    let c : FrmCfg := { (s.framer k).cfg with
      sf := p.sf, sd := p.sd, trace := p.trace, acts := p.acts % 16, label := p.label, sa := p.sa }
    if s.sdExp c ≤ s.sfExp c || (r != 0 && (80000 < windowCycles (s.sdExp c) r || 80000 < windowCycles (s.sfExp c) r))
    then s.refuse h Op.FRM_CTX_CFG 3
    else (s.setFramer k { s.framer k with cfgNext := some c }).done h Op.FRM_CTX_CFG

/-- FRM_CTX_CFG (R234, R236, R244). -/
def execFrmCtxCfg (dt : Nat) (h : HostRef) (p : CtxCfg) (s : State) : Host.Outcome State Fault Refusal :=
  .next (s.command dt h 0 Op.FRM_CTX_CFG (fun a => a.orHold p.ctx (.ctxCfg h p) (fun b => b.doCtxCfg h p)))

/-- FRM_TRACE_SET on the placement in force. -/
def State.doTraceSet (s : State) (h : HostRef) (p : TraceSet) : State :=
  if !s.frmCtxOk p.ctx then s.refuse h Op.FRM_TRACE_SET 1
  else if 1 < p.tx || 3 < p.layer || 1 < p.part then s.refuse h Op.FRM_TRACE_SET 2
  else
    let k := s.frmKey p.ctx
    let u := s.framer k
    let c := u.cfgNext.getD u.cfg
    let tab := if p.tx = 0 then c.expect else c.send
    let old := ((tget [] tab p.layer) ++ List.replicate 64 0).take 64
    let new := (p.bytes ++ List.replicate 32 0).take 32
    let l := if p.part = 0 then new ++ old.drop 32 else old.take 32 ++ new
    let c1 : FrmCfg := if p.tx = 0 then { c with expect := tset c.expect p.layer l }
      else { c with send := tset c.send p.layer l }
    (s.setFramer k { u with cfgNext := some c1 }).done h Op.FRM_TRACE_SET

/-- FRM_TRACE_SET (R244). -/
def execFrmTraceSet (dt : Nat) (h : HostRef) (p : TraceSet) (s : State) : Host.Outcome State Fault Refusal :=
  .next (s.command dt h 0 Op.FRM_TRACE_SET (fun a => a.orHold p.ctx (.traceSet h p) (fun b => b.doTraceSet h p)))

/-- FRM_CTX_READ on the placement in force: the snapshot last written. -/
def State.doFrmRead (s : State) (h : HostRef) (ctx host : Nat) : State :=
  if !s.frmCtxOk ctx then s.refuse h Op.FRM_CTX_READ 1
  else if host % 64 != 0 then s.refuse h Op.FRM_CTX_READ 2
  else (s.hostWrite host (((s.framer (s.frmKey ctx)).snap ++ List.replicate 128 0).take 128)).done h Op.FRM_CTX_READ

/-- FRM_CTX_READ (Table 07-4). -/
def execFrmCtxRead (dt : Nat) (h : HostRef) (ctx host : Nat) (s : State) : Host.Outcome State Fault Refusal :=
  .next (s.command dt h 0 Op.FRM_CTX_READ (fun a => a.orHold ctx (.ctxRead h ctx host) (fun b => b.doFrmRead h ctx host)))

/-- The options a scheme supports (Table 07-13): MSP 1:1 is bidirectional and revertive, and SNCP has no
signalling. -/
def apsModeOk (scheme mode : Nat) : Bool :=
  mode < 4 && (scheme != 2 || mode == 3) && (!(scheme == 3 || scheme == 4 || scheme == 8) || mode < 2)

/-- FRM_APS_CFG (R239, R240): from the group's next insertion entry. -/
def execFrmApsCfg (dt : Nat) (h : HostRef) (p : ApsCfg) (s : State) : Host.Outcome State Fault Refusal :=
  .next (s.command dt h 0 Op.FRM_APS_CFG (fun a =>
    match tfind a.frm.groups p.group with
    | none => a.refuse h Op.FRM_APS_CFG 6
    | some g =>
      if !apsModeOk g.scheme p.mode || 100 < p.hold || p.wtr < 300 || 720 < p.wtr then a.refuse h Op.FRM_APS_CFG 2
      else (a.setGroup p.group { g with next := some (p.mode, p.hold, p.wtr) }).done h Op.FRM_APS_CFG))

/-- The place of an external command in the order of requests. -/
def commandReq (cmd : Nat) : Nat := if cmd = 1 then 0 else if cmd = 2 then 2 else if cmd = 3 then 5 else 7

/-- FRM_APS_CMD (R240, R242): a command that a higher request overrides completes with SUPERSEDED. -/
def execFrmApsCmd (dt : Nat) (h : HostRef) (group cmd leg : Nat) (s : State) : Host.Outcome State Fault Refusal :=
  .next (s.command dt h 0 Op.FRM_APS_CMD (fun a =>
    if !a.hasAuthority then a.refuse h Op.FRM_APS_CMD 4
    else match tfind a.frm.groups group with
      | none => a.refuse h Op.FRM_APS_CMD 6
      | some g =>
        if 4 < cmd || 1 < leg then a.refuse h Op.FRM_APS_CMD 2
        else if cmd = 0 then
          ((a.setGroup group { g with command := 0, wtrFrom := none }).evalGroup group).done h Op.FRM_APS_CMD
        else if (a.localWant g).req < commandReq cmd then a.refuse h Op.FRM_APS_CMD 5
        else ((a.setGroup group { g with command := cmd, cmdLeg := leg }).evalGroup group).done h Op.FRM_APS_CMD))

/-- FRM_FORCE on the placement in force. -/
def State.doForce (s : State) (h : HostRef) (ctx what on : Nat) : State :=
  if !s.hasAuthority then s.refuse h Op.FRM_FORCE 4
  else if !s.frmCtxOk ctx then s.refuse h Op.FRM_FORCE 1
  else
    let k := s.frmKey ctx
    if 3 < what || 1 < on || (2 ≤ what && !kindOdu (s.framerKind k)) then s.refuse h Op.FRM_FORCE 2
    else
      let u := s.framer k
      let l := u.forcedNext.getD u.forced
      let m := l.filter (fun c => c != what)
      (s.setFramer k { u with forcedNext := some (if on = 1 then what :: m else m) }).done h Op.FRM_FORCE

/-- FRM_FORCE (R242): inserted from the next insertion entry. -/
def execFrmForce (dt : Nat) (h : HostRef) (ctx what on : Nat) (s : State) : Host.Outcome State Fault Refusal :=
  .next (s.command dt h 0 Op.FRM_FORCE (fun a => a.orHold ctx (.force h ctx what on) (fun b => b.doForce h ctx what on)))

/-- FRM_REFRAME (R222): the framer of a lane, or of a PDH circuit, goes to SEARCH; a port's logical lanes, named by its first lane
(R138), all restart. -/
def execFrmReframe (dt : Nat) (h : HostRef) (lane ctx : Nat) (s : State) : Host.Outcome State Fault Refusal :=
  .next (s.command dt h 0 Op.FRM_REFRAME (fun a =>
    let m := a.rd Reg.PRT_LANE_MODE lane
    let byCtx := lane == 0xFFFF
    let okLane := lane < 72 && a.portFirst lane == lane && (modeStm m || modeOtu m)
    let okCtx := a.frmCtxOk ctx && kindPdh (a.framerKind (srcCtx ctx))
    if byCtx && !okCtx then a.refuse h Op.FRM_REFRAME 1
    else if !byCtx && !okLane then a.refuse h Op.FRM_REFRAME 2
    else
      let k := if byCtx then srcCtx ctx else srcLane lane
      let u := a.framer k
      let otl := if !byCtx && (m = 11 || m = 12) then some (true, a.time) else u.otl
      let b := (((a.setFramer k { u.toSearch a.time with otl := otl }).countOof k u).settle k).count Reg.FRM_REFRAME_CNT 0
      (b.raiseC Ev.FRM_REFRAMED k [(2, keyNum k)]).done h Op.FRM_REFRAME))

/-- FRM_ERR_INSERT on the placement in force. -/
def State.doErrInsert (s : State) (h : HostRef) (ctx monitor viol frames : Nat) : State :=
  if !s.frmCtxOk ctx then s.refuse h Op.FRM_ERR_INSERT 1
  else if 7 < monitor || viol < 1 || 8 < viol || frames < 1 then s.refuse h Op.FRM_ERR_INSERT 2
  else
    let k := s.frmKey ctx
    (s.setFramer k { s.framer k with errIns := some (monitor, viol, frames) }).done h Op.FRM_ERR_INSERT

/-- FRM_ERR_INSERT (Table 07-15). -/
def execFrmErrInsert (dt : Nat) (h : HostRef) (ctx monitor viol frames : Nat) (s : State) :
    Host.Outcome State Fault Refusal :=
  .next (s.command dt h 0 Op.FRM_ERR_INSERT (fun a =>
    a.orHold ctx (.errInsert h ctx monitor viol frames) (fun b => b.doErrInsert h ctx monitor viol frames)))

/-! ### Sending -/

/-- The STAT that an ODU's overhead carries (R243, Tables 07-11, 07-15): forced AIS, LCK or OCI; OCI where its OTU has no placed
client; otherwise normal. -/
def State.txStat (s : State) (k : Nat) : Nat :=
  let f := (s.framer k).forced
  if f.contains 0 then 7 else if f.contains 2 then 5 else if f.contains 3 then 6
  else if !keyIsLane k && (s.ctx? (keyNum k)).any (fun x => carrier x && !(s.ovm.ctxs.any (fun e => e.2.active &&
      (e.2.dest == some (keyNum k) || e.2.parent == some (keyNum k))))) then 6 else 1
where
  /-- A high-order ODU carries others. -/
  carrier (x : Ctx) : Bool := x.kind == 0x15 || x.kind == 0x16

/-- The remote error count sent for the last frame's violations (R231). -/
def State.txRei (s : State) (k kind : Nat) : Nat :=
  let n := (s.framer k).lastBip
  if kind = 0x0E then min n 255 else if kindV5 kind then ofBool (n != 0) else min n 8

/-- The status byte that a layer sends, its parity bits aside (R224, R225, R227, R231): M1, G1, V5, SM 10 or PM 12. -/
def State.txStatus (s : State) (k kind : Nat) : Nat :=
  let rei := s.txRei k kind
  let rdi := ofBool (s.sendsRdi k)
  if kind = 0x0E then rei
  else if kindV5 kind then 32 * rei + 4 + rdi
  else if kindVc kind then 16 * rei + 8 * rdi
  else if kind = 0x18 then 16 * rei + 8 * rdi
  else 16 * rei + 8 * rdi + s.txStat k

/-- K1 and K2 sent (R224): MS-RDI takes the place of the image's mode bits. -/
def State.txKs (s : State) (k : Nat) : Nat × Nat :=
  let i := (s.framer k).image
  let k2 := i.getD 1 0
  (i.getD 0 0, if s.sendsRdi k then k2 / 8 * 8 + 6 else k2)

/-- The S1 byte sent on a lane (R69, R224). -/
def State.txS1 (s : State) (l : Nat) : Nat := s.laneQl l % 16

/-- The label sent (R225): TUG structure, an asynchronous mapping, or unequipped where nothing is placed in the container. -/
def State.txLabel (s : State) (c : Nat) (x : Ctx) : Nat :=
  let inner := s.ovm.ctxs.filter (fun e => e.2.active && (e.2.dest == some c || e.2.parent == some c))
  if kindV5 x.kind then 2
  else if inner.any (fun e => 8 ≤ e.2.kind && e.2.kind ≤ 0xA) then 2
  else if inner.isEmpty then 0 else 4

/-- An AU of a lane has no context, and is sent unequipped (R243). -/
def State.auUnequipped (s : State) (l au : Nat) : Bool :=
  !s.ovm.ctxs.any (fun e => e.2.active && [e.2.endpoint, e.2.out].any (fun d => d.typ == 6 && d.lane == l && d.idx == au))

/-- BIP-8 of the bytes that a B1, B3, SM or PM byte covers, and BIP-24 of those of a B2 (R224, R225, R227). -/
def bip8 (l : List Nat) : Nat := l.foldl Nat.xor 0
def bip24 (l : List Nat) : List Nat :=
  (List.range 3).map (fun i => bip8 ((l.zipIdx.filter (fun e => e.2 % 3 == i)).map (·.1)))

/-- The section overhead of an STM-N lane that an STM-N from an ODU leaves on (R255): J0 from the image, B1 over the scrambled
frame before and B2 over it without its RSOH, and the pointers of its AUs, made afresh. -/
structure SectionTx where
  j0   : List Nat
  b1   : Nat
  b2   : List Nat
  ptrs : List Nat
  deriving DecidableEq, Repr
def State.sectionTx (s : State) (l : Nat) (scrambled plain : List Nat) : SectionTx :=
  let k := srcLane l
  let aus := s.ovm.ctxs.filter (fun e => e.2.active && kindVc e.2.kind && [e.2.endpoint, e.2.out].any (fun d => d.typ == 6 && d.lane == l))
  { j0 := (s.framer k).image.drop 2, b1 := bip8 scrambled, b2 := bip24 plain,
    ptrs := aus.map (fun e => (s.framer (srcCtx e.1)).txPtr) }

/-- A context's failure fill (Table 08-12). -/
inductive FailFill where
  | allOnes
  | ds3Ais
  | pointerAndContainerOnes
  | oduAis
  | localFault
  | noFramesButCmf
  | csfTubs
  deriving DecidableEq, Repr
def failFill (kind : Nat) : FailFill :=
  if kind = 4 then .ds3Ais else if kindPdh kind then .allOnes
  else if kindVc kind || kind = 0x0E || kind = 0x0F then .pointerAndContainerOnes
  else if kindOdu kind || kind = 0x18 then .oduAis
  else if kind = 0x20 then .localFault
  else if kind = 0x21 then .noFramesButCmf else .csfTubs

/-- A context of a pair's copies whose own leg is not selected (R419). -/
def State.pairIdle (s : State) (c : Nat) : Bool :=
  s.frm.groups.any (fun e => e.2.pair && e.2.work == c && e.2.leg != s.rd Reg.PAR_UNIT 0)

/-- An onward container whose client is such a context (R419). -/
def State.feedIdle (s : State) (c : Nat) (x : Ctx) : Bool :=
  s.pairIdle c && x.dest.isNone || s.ovm.ctxs.any (fun e => e.2.active && e.2.dest == some c && s.pairIdle e.1)

/-- The pattern a context is sent with in place of its client (R234, R291): while it carries failure fill or its source has
failed. -/
def State.fillOf (s : State) (c : Nat) : Option FailFill :=
  match s.ctx? c with
  | none => none
  | some x => if x.fail || s.sourceFailed (s.frmKey c) || s.feedIdle c x then some (failFill x.kind) else none

/-- The H4 byte of a shaft address (R225): it counts the frames of the 500 µs multiframe. -/
def txH4 (cycle : Nat) : Nat := 0xFC + cycle % 4

end Sys2Proof.Machine
end

