-- ==== Sys2Proof/Machine/Ralale.lean ====
section
/-! DEFINITION. The Ralale link (R168 to R210): alignment, overhead, tubs, and the discard of duplicate
copies. -/

namespace Sys2Proof.Machine

/-! ### Lanes -/

/-- The lane is in a Ralale mode (R168). -/
def State.rlkOn (s : State) (l : Nat) : Bool :=
  l < 48 && (s.rd Reg.PRT_LANE_MODE l == 9 || s.rd Reg.PRT_LANE_MODE l == 10)

/-- The receiver of the lane is fed: in mode, awake, and without LOS or LOL (Table 06-7). -/
def State.rlkLive (s : State) (l : Nat) : Bool :=
  s.rlkOn l && !s.rdBit Reg.PRT_LANE_LOS l && !s.rdBit Reg.PRT_LANE_LOL l && !s.rdBit Reg.PRT_LANE_GATED l

/-- A lane's receiver. -/
def State.rlkLane (s : State) (l : Nat) : RlkLane := tget {} s.rlk.lanes l

/-- The state with a lane's receiver replaced. -/
def State.setRlkLane (s : State) (l : Nat) (x : RlkLane) : State :=
  { s with rlk := { s.rlk with lanes := tset s.rlk.lanes l x } }

/-- A receive group's context. -/
def State.rlkCtx (s : State) (c : Nat) : RlkCtx := tget {} s.rlk.ctxs c

/-- The state with a receive group's context replaced. -/
def State.setRlkCtx (s : State) (c : Nat) (x : RlkCtx) : State :=
  { s with rlk := { s.rlk with ctxs := tset s.rlk.ctxs c x } }

/-- The device sends RDI on the lane (R177, R207). -/
def State.rlkSendsRdi (s : State) (l : Nat) : Bool :=
  s.rdBit Reg.PRT_LANE_LOS l || s.rdBit Reg.PRT_LANE_LOL l || s.rdBit Reg.RLK_LFA l

/-- The Ralale link context placed on a lane. -/
def State.rlkLinkCtx (s : State) (l : Nat) : Option Nat :=
  (s.ovm.ctxs.find? (fun e => e.2.active && e.2.kind == 0x22 && e.2.endpoint.typ == 1 &&
    e.2.endpoint.lane == l)).map (·.1)

/-- The defects of the lane's link reach its point and the references (Table 10-2, Table 03-3). -/
def State.rlkReview (s : State) (l : Nat) : State :=
  let s1 := match s.rlkLinkCtx l with
    | none => s
    | some c => s.pmDefect c (s.rlkSendsRdi l || s.rdBit Reg.RLK_LIM l) (s.rdBit Reg.RLK_RDI_RX l)
  s1.timReview

/-- The lane leaves SYNC or a search in progress, and looks on from block `from_` (Table 06-7). -/
def State.rlkSearch (s : State) (l from_ : Nat) : State :=
  let x := s.rlkLane l
  let y : RlkLane := { x with next := from_, conf := 0, bad := 0, inSince := none, gaspOff := none,
                              outSince := if s.rd Reg.RLK_ALIGN l = 2 || x.outSince.isNone then some s.time else x.outSince }
  (s.setRlkLane l y).wr Reg.RLK_ALIGN l 0

/-- LOS, LOL or loss of block lock of a Ralale lane (Table 06-7), and what follows from it. -/
def State.rlkDown (s : State) (l : Nat) : State :=
  if s.rlkOn l then (if s.rlkLive l then s else s.rlkSearch l 0).rlkReview l else s

/-! ### Alignment -/

/-- Confirmations that a marker needs for SYNC (Table 06-7, R188). -/
def State.rlkNeeds (s : State) (l : Nat) : Nat := if s.rdBit Reg.RLK_EK7210 l then 3 else 2

/-- The frame's marker stands where it is expected: in EK7210 mode its MFI must be the next one, unless its CRC failed, which
leaves bytes 4 and 5 out (R173, R188). -/
def State.rlkHit (s : State) (l : Nat) (f : RlkFrame) : Bool :=
  f.marker && (!s.rdBit Reg.RLK_EK7210 l || s.rd Reg.RLK_ALIGN l == 0 || !f.markCrc ||
    (match (s.rlkLane l).mfi with | some m => f.mfi == (m + 1) % 8 | none => true))

/-- The MFI from which the next one counts (R188): the marker's own, or the expected one where its CRC failed. -/
def RlkLane.mfiNow (x : RlkLane) (f : RlkFrame) : Option Nat := if f.markCrc then some f.mfi else x.mfi.map (fun m => (m + 1) % 8)

/-- The receiver looks at block `off`: a search at every block from where it resumes, and otherwise the expected one
(Table 06-7). -/
def State.rlkLooks (s : State) (l off : Nat) : Bool :=
  if s.rd Reg.RLK_ALIGN l = 0 then decide ((s.rlkLane l).next ≤ off) else off == (s.rlkLane l).next

/-- One frame, whose first block is `off`, through Table 06-7. A candidate that fails makes the search resume one block after
where it was found. -/
def State.rlkAlign (s : State) (l off : Nat) (f : RlkFrame) : State :=
  let x := { s.rlkLane l with next := off + 2048 }
  let hit := s.rlkHit l f
  let a := s.rd Reg.RLK_ALIGN l
  if a = 2 then
    let y : RlkLane := { x with mfi := x.mfi.map (fun m => (m + 1) % 8), bad := if hit then 0 else x.bad + 1 }
    if 4 ≤ y.bad then (s.setRlkLane l y).rlkSearch l (off + 1) else s.setRlkLane l y
  else if !hit then s.rlkSearch l (if a = 0 then off + 1 else x.base + 1)
  else if a = 0 then
    (s.setRlkLane l { x with conf := 0, base := off, mfi := if f.markCrc then some f.mfi else none }).wr Reg.RLK_ALIGN l 1
  else if x.conf + 1 < s.rlkNeeds l then s.setRlkLane l { x with conf := x.conf + 1, mfi := x.mfiNow f }
  else (s.setRlkLane l { x with conf := 0, bad := 0, mfi := x.mfiNow f, inSince := some s.time, outSince := none }).wr
    Reg.RLK_ALIGN l 2

/-! ### Overhead -/

/-- A run of equal values: its value and its length with one more (R175). -/
def runOf {V : Type} [DecidableEq V] (old : V) (n : Nat) (v : V) : Nat := if v = old then n + 1 else 1

/-- The received QL (R176): accepted after 8 equal counted values. -/
def State.rlkQl (s : State) (l ql : Nat) : State :=
  let x := s.rlkLane l
  let n := runOf x.qlVal x.qlRun ql
  let s1 := s.setRlkLane l { x with qlVal := ql, qlRun := n }
  if 8 ≤ n then (s1.wr Reg.RLK_RX_QL l ql).acceptLaneQl l ql else s1

/-- RDI received (R177): set or cleared after 3 equal counted frames. -/
def State.rlkRdi (s : State) (l : Nat) (v : Bool) : State :=
  let x := s.rlkLane l
  let n := runOf x.rdiVal x.rdiRun v
  let s1 := s.setRlkLane l { x with rdiVal := v, rdiRun := n }
  if 3 ≤ n && s.rdBit Reg.RLK_RDI_RX l != v then
    (s1.wrBit Reg.RLK_RDI_RX l v).raise Ev.RLK_RDI (srcLane l) [(2, l), (1, ofBool v)]
  else s1

/-- LIM (R178): declared or cleared after 8 counted frames; RLK_RX_LINK_ID follows each. -/
def State.rlkLim (s : State) (l v : Nat) : State :=
  let x := s.rlkLane l
  let want := s.rd Reg.RLK_RX_LINK_ID_EXP l
  let differs := want != 0 && v != want
  let y : RlkLane := { x with limRun := if differs then x.limRun + 1 else 0,
                              okRun := if differs then 0 else x.okRun + 1 }
  let s1 := (s.setRlkLane l y).wr Reg.RLK_RX_LINK_ID l v
  if 8 ≤ y.limRun && !s.rdBit Reg.RLK_LIM l then
    (s1.wrBit Reg.RLK_LIM l true).raise Ev.RLK_LIM (srcLane l) [(2, l), (1, 1), (2, v)]
  else if 8 ≤ y.okRun && s.rdBit Reg.RLK_LIM l then
    (s1.wrBit Reg.RLK_LIM l false).raise Ev.RLK_LIM (srcLane l) [(2, l), (1, 0), (2, v)]
  else s1

/-- DGASP (R205): accepted after 2 counted frames; it clears after 1 ms in SYNC without it. -/
def State.rlkGasp (s : State) (l : Nat) (v : Bool) : State :=
  let x := s.rlkLane l
  let y : RlkLane := { x with gaspRun := if v then x.gaspRun + 1 else 0,
                              gaspOff := if v then none else if x.gaspOff.isSome then x.gaspOff else some s.time }
  let s1 := s.setRlkLane l y
  if 2 ≤ y.gaspRun && !s.rdBit Reg.RLK_DGASP_RX l then
    (s1.wrBit Reg.RLK_DGASP_RX l true).raise Ev.RLK_REMOTE_DGASP (srcLane l)
      [(2, l), (1, s.rd Reg.RLK_UNIT_RX l)]
  else match y.gaspOff with
    | some t => if t + Config.msPos ≤ s.time then s1.wrBit Reg.RLK_DGASP_RX l false else s1
    | none => s1

/-- The round trip (R179): from the shaft address of ECHO_STAMP, in the most recent cycle whose low 16
bits match, to now, less ECHO_AGE. -/
def State.rlkRtt (s : State) (l echo age : Nat) : State :=
  if echo = 0 then s
  else
    let c := (s.cycle % 65536 + 65536 - echo / 65536) % 65536
    let gone : Int := (c * Config.cyclePos : Int) + s.pos - echo % 65536
    (s.wr Reg.RLK_RTT l (s.figure 32 false ((gone : Rat) * 3125 / 486 - age))).draw

/-- The return channel (R203). The changes of its good and lost copies add to the pair's counts (R399). -/
def State.rlkReturn (s0 : State) (l : Nat) (f : RlkFrame) : State :=
  let g (i : Nat) : Nat := f.rc.getD i 0
  let x := s0.rlkLane l
  let gone (v old : Nat) : Nat := if x.reported then (v + 2 ^ 32 - old) % 2 ^ 32 else 0
  let s1 := (s0.countBy Reg.PAR_FE_GOOD 0 (gone (g 0) (s0.rd Reg.RLK_FE_GOOD l))).countBy Reg.PAR_FE_MISS 0
    (gone (g 2) (s0.rd Reg.RLK_FE_COPY_LOST l))
  let s := s1.setRlkLane l { x with reported := true }
  ((((((s.wr Reg.RLK_FE_GOOD l (g 0)).wr Reg.RLK_FE_HDR_ERR l (g 1)).wr Reg.RLK_FE_COPY_LOST l (g 2)).wr
    Reg.RLK_FE_LATE l (g 3)).wr Reg.RLK_FE_BOTH_LOST l (g 4)).wr Reg.RLK_FE_WORST_CID l f.worstCid).wr
    Reg.RLK_FE_WORST_CNT l f.worstCnt

/-- The overhead of a counted frame (R175 to R179, R203, R205). -/
def State.rlkOverhead (s : State) (l : Nat) (f : RlkFrame) : State :=
  let s1 := ((((s.rlkQl l f.ql).rlkRdi l f.rdi).rlkLim l f.linkId).rlkGasp l f.dgasp).rlkRtt l f.echoStamp f.echoAge
  let s2 := s1.setRlkLane l { s1.rlkLane l with echoStamp := f.txStamp, echoTime := s1.time }
  s2.rlkReturn l f

/-- What a frame in SYNC brings beside its marker (R175 to R179, R203, R205). -/
def State.rlkTake (s : State) (l : Nat) (f : RlkFrame) : State :=
  if f.ohCrc then s.rlkOverhead l f
  else
    let s1 := s.count Reg.RLK_OH_CRC_CNT l
    match s1.rlkLinkCtx l with
    | none => s1
    | some c => s1.pmBlocks c 1 0

/-- A marker that stands at its place says who sends, or fails its CRC (R172, R173). -/
def State.rlkMarker (s : State) (l : Nat) (f : RlkFrame) : State :=
  if f.markCrc then (s.wr Reg.RLK_UNIT_RX l f.unit).wrBit Reg.RLK_PAIRED_RX l f.paired else s.count Reg.RLK_MARK_CRC_CNT l

/-- RLK_FRAME_RX (R169 to R179, R186 to R188, R203, R205): the first eight blocks of one received frame, the first of them block
`off`, after the 58 line bits `prior`. `lock` says block lock held; `badSync` counts the invalid sync headers of blocks that no
row gives. -/
def execRlkFrameRx (dt lane off : Nat) (lock : Bool) (prior : Nat) (blocks : List RlkBlock) (badSync : Nat) (s : State) :
    Host.Outcome State Fault Refusal :=
  let s1 := s.elapse dt
  .next (if !s1.rlkLive lane then s1
    else
      let s2 := s1.countBy Reg.RLK_SH_ERR_CNT lane (badSync + badHeaders blocks)
      if !lock then (s2.rlkSearch lane 0).rlkReview lane
      else if !s2.rlkLooks lane off then s2
      else
        let f := readRlk (s2.rdBit Reg.RLK_EK7210 lane) prior blocks
        let s3 := s2.rlkAlign lane off f
        let s4 := if s2.rlkHit lane f then s3.rlkMarker lane f else s3
        (if s4.rd Reg.RLK_ALIGN lane = 2 then s4.rlkTake lane f else s4).rlkReview lane)

/-- RLK_LFA (R187, R205): the link has been out of SYNC for 3 ms, or in SYNC for 1 ms. -/
def execRlkLfa (dt lane : Nat) (s : State) : Host.Outcome State Fault Refusal :=
  let s1 := s.elapse dt
  let x := s1.rlkLane lane
  let set (a : State) (on : Bool) : State :=
    if a.rdBit Reg.RLK_LFA lane = on then a
    else ((a.wrBit Reg.RLK_LFA lane on).raise Ev.RLK_LFA (srcLane lane)
      [(2, lane), (1, ofBool on), (1, ofBool (on && a.rdBit Reg.RLK_DGASP_RX lane))]).rlkReview lane
  .next (if !s1.rlkOn lane || s1.rdBit Reg.PRT_LANE_GATED lane then s1
    else if s1.rd Reg.RLK_ALIGN lane = 2 then
      match x.inSince with
      | none => s1
      | some t => set (s1.elapse (t + Config.msPos - s1.time)) false
    else
      match x.outSince with
      | none => s1
      | some t => set (s1.elapse (t + 3 * Config.msPos - s1.time)) true)

/-! ### Tubs -/

/-- A once-a-second event that carries the first item seen and the count since the previous one (R210). -/
def State.raiseFirst (s : State) (code n src first : Nat) (mk : Nat → Nat → List (Nat × Nat)) : State :=
  let k := rateKey code n
  match tfind s.io.rates k with
  | none =>
    let s1 := s.raise code src (mk first 1)
    { s1 with io := { s1.io with rates := tset s1.io.rates k { window := s.time } } }
  | some r =>
    let f := match r.first with | e :: _ => e.2 | [] => first
    if s.time < r.window + Config.secondPos then
      { s with io := { s.io with rates := tset s.io.rates k { r with raised := r.raised + 1, first := [(4, f)] } } }
    else
      let s1 := s.raise code src (mk f (r.raised + 1))
      { s1 with io := { s1.io with rates := tset s1.io.rates k { window := s.time } } }

/-- The Ralale channels on which a direction of a context arrives (R193): forward, its sources; in reverse (a key above 65,535),
where it leaves, which is also the forward direction of a context that comes from elsewhere. -/
def Ctx.rlkEnds (x : Ctx) (g : Nat) : List Endpoint :=
  let src := [x.endpoint, x.endpointB].filter (fun d => d.typ == 3)
  let out := [x.out].filter (fun d => d.typ == 3)
  if g < 65536 then (if src.isEmpty then out else src) else if src.isEmpty then [] else out

/-- All Ralale channels of a context. -/
def Ctx.channels (x : Ctx) : List Endpoint := x.rlkEnds 0 ++ x.rlkEnds 65536

/-- The context that a CID names on a link, with its direction's key (R181, R183). -/
def State.cidCtx (s : State) (l cid : Nat) : Option (Nat × Ctx) :=
  let on (x : Ctx) (g : Nat) : Bool := (x.rlkEnds g).any (fun d => d.lane == l && d.idx == cid)
  (s.ovm.ctxs.find? (fun e => e.2.active && (on e.2 0 || on e.2 65536))).map (fun e => (if on e.2 0 then e.1 else e.1 + 65536, e.2))

/-- The links of a receive group (R193). -/
def Ctx.rlkLinks (x : Ctx) (g : Nat) : List Nat := (x.rlkEnds g).map (·.lane)

/-- The CID under which a context arrives on a link. -/
def Ctx.cidOn (x : Ctx) (g l : Nat) : Nat :=
  match (x.rlkEnds g).find? (fun d => d.lane == l) with
  | some d => d.idx
  | none => 0

/-- The context is a packet flow. -/
def Ctx.isFlow (x : Ctx) : Bool := x.kind == 0x21 || x.kind == 0x24

/-- Positions that the hold lasts, rounded up (R201). -/
def State.holdPos (s : State) : Nat := (min 250 (s.rd Reg.RLK_DD_HOLD 0) * Config.hundredUsPos + 99) / 100

/-- Tubs of the store put in place of a sequence. -/
def RlkCtx.heldAt (x : RlkCtx) (q : Nat) : Option HeldTub := x.held.find? (fun t => t.seq == q)

/-- A link is added to those that gave a copy. -/
def addLane (l : Nat) (ls : List Nat) : List Nat := if ls.contains l then ls else l :: ls

/-- A tub goes out to the gate (R184, R196): of a flow that skips, only one that begins a packet. -/
def RlkCtx.give (x : RlkCtx) (flow : Bool) (t : HeldTub) (now : Nat) : RlkCtx :=
  let goes := !flow || !x.skip || t.sop
  { x with n := (t.seq + 1) % 65536, held := x.held.filter (fun u => u.seq != t.seq),
           records := x.records ++ [{ seq := t.seq, since := now, lanes := t.lanes }],
           skip := if goes then false else x.skip, out := if goes then x.out + 1 else x.out }

/-- A flow's bytes go into its queue, with the CID as TAG (Table 15-4). -/
def State.flowWrite (s : State) (x : Ctx) (bytes : List Nat) (last abort : Bool) : State :=
  if x.isFlow && x.place.queues != 0 then
    s.writeQueue x.place.queue { bytes := bytes, wide := false, last := last, abort := abort, status := 0,
                                 tag := ((x.rlkEnds 0).map (·.idx)).headD 0 }
  else s

/-- A tub of a context is delivered; a CSF tub of a flow carries no packet data (Table 06-6). A context whose kind has no
overhead has its CSF as the far-end defect of its point (Table 10-2). -/
def State.giveTub (s : State) (c : Nat) (x : Ctx) (t : HeldTub) : State :=
  let y := s.rlkCtx c
  let goes := !y.skip || t.sop
  let s1 := s.setRlkCtx c { y.give x.isFlow t s.time with gateAt := some (y.gateAt.getD s.addr), gateBits := y.gateBits + 448 }
  let s2 := if kindHasOverhead x.kind then s1 else s1.pmDefect (c % 65536) false t.csf
  if goes && !t.csf then s2.flowWrite x t.data t.eop (t.abort && t.eop) else s2

/-- The held copy of N may be delivered (R195). -/
def HeldTub.ready (t : HeldTub) (links : List Nat) (now hold : Nat) : Bool :=
  !t.csf || links.all t.lanes.contains || decide (t.since + hold ≤ now)

/-- N is declared lost (R196): failure fill of 56 bytes, or the flow skips to its next packet. -/
def State.loseTub (s : State) (c : Nat) (x : Ctx) : State :=
  let y := s.rlkCtx c
  let z : RlkCtx := { y with n := (y.n + 1) % 65536, skip := x.isFlow || y.skip, gateBits := y.gateBits + 448,
                             fill := if x.isFlow then y.fill else y.fill + 56 }
  let s1 := s.setRlkCtx c z
  let s2 := ((x.rlkLinks c).foldl (fun a l => a.count Reg.RLK_BOTH_LOST_CNT l) s1).flowWrite x [] true true
  s2.raiseFirst Ev.RLK_BOTH_LOST c (srcCtx (c % 65536)) y.n (fun f n => [(2, c % 65536), (2, f), (4, n)])

/-- Delivery (R195, R196): N goes out or is lost while one of the two applies. -/
def State.deliverTubs (s : State) (c : Nat) (x : Ctx) : Nat → State
  | 0 => s
  | fuel + 1 =>
    let y := s.rlkCtx c
    match y.heldAt y.n with
    | some t =>
      if t.ready (x.rlkLinks c) s.time s.holdPos then
        (s.giveTub c x t).deliverTubs c x fuel
      else s
    | none =>
      if y.held.any (fun t => decide (t.since + s.holdPos ≤ s.time)) then (s.loseTub c x).deliverTubs c x fuel else s

/-- A received tub as it is held, with the valid bytes of its payload (R180, R184). -/
def heldOf (t : Tub) (now : Nat) (lanes : List Nat) : HeldTub :=
  { seq := t.seq, csf := t.csf, sop := t.sop, eop := t.eop, abort := t.abort, since := now, lanes := lanes,
    data := t.data.take t.vbc }

/-- The link whose copy counts as the duplicate when one from `l` comes after those of `lanes` at `since`: in the same datapath
clock the copy from the lower lane is the first (R199). -/
def State.laterOf (s : State) (l since : Nat) (lanes : List Nat) : Nat :=
  match lanes with
  | [h] => if since = s.time && l < h then h else l
  | _ => l

/-- An ahead copy (Table 06-8). -/
def State.aheadTub (s : State) (l c : Nat) (t : Tub) : State :=
  let y := { s.rlkCtx c with oow := 0 }
  let put (lanes : List Nat) : RlkCtx :=
    { y with held := heldOf t s.time lanes :: y.held.filter (fun u => u.seq != t.seq) }
  let mark : RlkCtx :=
    { y with held := y.held.map (fun u => if u.seq = t.seq then { u with lanes := addLane l u.lanes } else u) }
  match y.heldAt t.seq with
  | none => s.setRlkCtx c (put [l])
  | some u =>
    if !u.csf && !t.csf && s.laterOf l u.since u.lanes != l then
      (s.setRlkCtx c (put (addLane l u.lanes))).count Reg.RLK_DUP_CNT (s.laterOf l u.since u.lanes)
    else if !u.csf then (s.setRlkCtx c mark).count Reg.RLK_DUP_CNT l
    else if t.csf then s.setRlkCtx c mark
    else (s.setRlkCtx c (put (addLane l u.lanes))).count Reg.RLK_DUP_CNT (u.lanes.headD l)

/-- A copy behind N (Table 06-8): a duplicate while its record is open, late otherwise. -/
def State.behindTub (s : State) (l c seq : Nat) : State :=
  let y := { s.rlkCtx c with oow := 0 }
  match y.records.find? (fun r => r.seq == seq) with
  | some r => (s.setRlkCtx c { y with records := y.records.map (fun r =>
      if r.seq = seq then { r with lanes := addLane l r.lanes } else r) }).count Reg.RLK_DUP_CNT (s.laterOf l r.since r.lanes)
  | none => (s.setRlkCtx c y).count Reg.RLK_LATE_CNT l

/-- A context resynchronises at a copy (R198). -/
def State.resyncTub (s : State) (l c : Nat) (x : Ctx) (t : Tub) (cause : Nat) : State :=
  let y := s.rlkCtx c
  let s1 := y.held.foldl (fun a u => a.count Reg.RLK_OOW_CNT (u.lanes.headD l)) s
  let z : RlkCtx := { y with n := t.seq, held := [], records := [], oow := 0 }
  ((s1.setRlkCtx c z).giveTub c x (heldOf t s.time [l])).raise Ev.RLK_SEQ_RESYNC (srcCtx (c % 65536))
    [(2, c % 65536), (2, y.n), (2, t.seq), (1, cause)]

/-- An out-of-window copy (Table 06-8, R198). -/
def State.outTub (s : State) (l c : Nat) (x : Ctx) (t : Tub) : State :=
  let y := s.rlkCtx c
  if t.resync then s.resyncTub l c x t 1
  else if y.oow + 1 = 8 then s.resyncTub l c x t 2
  else (s.setRlkCtx c { y with oow := y.oow + 1 }).count Reg.RLK_OOW_CNT l

/-- A good copy (R194). -/
def State.goodTub (s : State) (l c : Nat) (x : Ctx) (t : Tub) : State :=
  let y := s.rlkCtx c
  let y1 : RlkCtx := if y.sync then y else { y with sync := true, n := t.seq }
  let s1 := s.setRlkCtx c y1
  let d := (t.seq + 65536 - y1.n) % 65536
  let s2 := if d < 16384 then s1.aheadTub l c t
    else if 49152 ≤ d then s1.behindTub l c t.seq
    else s1.outTub l c x t
  s2.deliverTubs c x 65536

/-- TUB_RX (R169, R180 to R185, R193 to R199): one received tub's eight blocks, after the 58 line bits `prior`. -/
def execTubRx (dt lane prior : Nat) (blocks : List RlkBlock) (s : State) : Host.Outcome State Fault Refusal :=
  let s1 := s.elapse dt
  let t := readTub prior blocks
  .next (if !s1.rlkLive lane || s1.rd Reg.RLK_ALIGN lane != 2 then s1
    else
      let s2 := s1.countBy Reg.RLK_SH_ERR_CNT lane (badHeaders blocks)
      if !t.hcrc then s2.count Reg.RLK_HDR_ERR_CNT lane
      else if s2.rd Reg.TST_CHECK_LANE 0 = lane && (s2.alterCheck 7).2 then (s2.alterCheck 7).1.count Reg.RLK_HDR_ERR_CNT lane
      else if t.cid = 0xFFFF then s2
      else if t.vbc = 0 || 56 < t.vbc || s2.rdBit Reg.RLK_LIM lane then s2.count Reg.RLK_HDR_ERR_CNT lane
      else match s2.cidCtx lane t.cid with
        | none => (s2.count Reg.RLK_UNKNOWN_CID_CNT lane).raiseFirst Ev.RLK_UNKNOWN_CID lane (srcLane lane) t.cid
            (fun f n => [(2, lane), (2, f), (4, n)])
        | some (g, x) => (s2.count Reg.RLK_GOOD_CNT lane).goodTub lane g x t)

/-- The key of the direction of a context whose time comes first (0 where neither has one). -/
def earlier (c : Nat) (a b : Option Nat) : Nat :=
  match a, b with
  | none, some _ => c + 65536
  | some x, some y => if y < x then c + 65536 else c
  | _, _ => c

/-- When the oldest held tub of a group arrived. -/
def State.heldSince (s : State) (g : Nat) : Option Nat :=
  match (s.rlkCtx g).held.map (·.since) with
  | [] => none
  | t :: rest => some (rest.foldl min t)

/-- DD_HOLD_EXPIRY (R195, R196): the hold of the context's oldest held tub ends. -/
def execDdHoldExpiry (dt ctx : Nat) (s : State) : Host.Outcome State Fault Refusal :=
  let s1 := s.elapse dt
  let g := earlier ctx (s1.heldSince ctx) (s1.heldSince (ctx + 65536))
  .next (match s1.ctx? ctx, s1.heldSince g with
    | some x, some t => (s1.elapse (t + s1.holdPos - s1.time)).deliverTubs g x 65536
    | _, _ => s1)

/-- The CID with the most losses, with their number (Table 06-10). -/
def worstOf (t : Tab Nat) : Nat × Nat := t.foldl (fun a e => if a.2 < e.2 then e else a) (0xFFFF, 0)

/-- The worst CID of the last full second and its losses (Table 06-10). -/
def State.worstLoss (s : State) (l : Nat) : Nat × Nat :=
  let x := s.rlkLane l
  if x.lossSec = s.second then (x.worstCid, x.worstCnt)
  else if x.lossSec + 1 = s.second then ((worstOf x.losses).1, min 65535 (worstOf x.losses).2)
  else (0xFFFF, 0)

/-- A copy lost on a link is counted, and by CID for the worst of the second (R197, Table 06-10). -/
def State.copyLost (s : State) (l cid : Nat) : State :=
  let x := s.rlkLane l
  let w := s.worstLoss l
  let y : RlkLane := { x with lossSec := s.second, losses := if x.lossSec = s.second then x.losses else [],
                              worstCid := w.1, worstCnt := w.2 }
  (s.setRlkLane l { y with losses := tmod 0 y.losses cid (· + 1) }).count Reg.RLK_COPY_LOST_CNT l

/-- When the oldest open record of a group was delivered. -/
def State.recordSince (s : State) (g : Nat) : Option Nat := ((s.rlkCtx g).records.head?).map (·.since)

/-- COPY_RECORD_CLOSE (R197): the oldest open record of the context closes a hold time after delivery. -/
def execCopyRecordClose (dt ctx : Nat) (s : State) : Host.Outcome State Fault Refusal :=
  let s1 := s.elapse dt
  let g := earlier ctx (s1.recordSince ctx) (s1.recordSince (ctx + 65536))
  let y := s1.rlkCtx g
  .next (match s1.ctx? ctx, y.records with
    | some x, r :: rest =>
      let s2 := s1.elapse (r.since + s1.holdPos - s1.time)
      let s3 := s2.setRlkCtx g { y with records := rest }
      ((x.rlkLinks g).filter (fun l => !r.lanes.contains l)).foldl (fun a l => a.copyLost l (x.cidOn g l)) s3
    | _, _ => s1)

/-! ### Sending -/

/-- The load that a context puts on a Ralale link, in eighths of b/s of tub payload (R190); a Ralale channel that a circuit
is put into has the circuit's rate. -/
def tubLoad (all : Tab Ctx) (c : Nat) (x : Ctx) : Nat :=
  if x.kind = 0x21 || x.kind = 0x24 then 14 * x.rate * 64000
  else if x.kind = 0x23 then 8 * ((all.filter (fun e => e.2.dest == some c)).map (fun e => pdhRate e.2.kind)).sum
  else 8 * pdhRate x.kind

/-- The reset domain of a lane (Table 16-6): its slice, or PAIR for a MATE lane. -/
def laneDomain (l : Nat) : Nat := if l < 72 then 3 + laneSlice l else 11

/-- The Ralale transmitter of the lane sends (R204, R207). -/
def State.rlkSends (s : State) (l : Nat) : Bool :=
  s.rlkOn l && !s.shf.txIdle && !s.rdBit Reg.PRT_LANE_GATED l && !s.inReset (laneDomain l)

/-- The address from which the lane's transmitter has sent: since it was enabled or woken, or left electrical idle (R207). -/
def State.rlkTxFrom (s : State) (l : Nat) : Nat := max s.rlk.txFrom (s.rlkLane l).onAt

/-- The positions that `n` frames last (Table 06-1): 2,048 blocks of 66 bits at the line rate. -/
def framePos (mode n : Nat) : Rat := if mode = 9 then (n : Rat) * 2038431744 / 1000000 else (n : Rat) * 8153726976 / 10000000

/-- The address at which the first bit of the lane's `k`th frame is sent (R171). -/
def State.rlkFrameStart (s : State) (l k : Nat) : Nat :=
  s.rlkTxFrom l + (framePos (s.rd Reg.PRT_LANE_MODE l) k).floor.toNat

/-- Whole frames sent by now (R171). -/
def State.rlkFrames (s : State) (l : Nat) : Nat :=
  (((s.addr - s.rlkTxFrom l : Nat) : Rat) / framePos (s.rd Reg.PRT_LANE_MODE l) 1).floor.toNat

/-- The number of the next tub of a TDM context from its origin, at an address (R184, R192): one for each 56 bytes. -/
def State.tubNo (s : State) (c : Nat) (x : Ctx) (at_ : Nat) : Nat :=
  (at_ - (s.rlkCtx c).origin) * (tubLoad s.ovm.ctxs c x / 8) / (448 * Config.secondPos)

/-- A tub carries RESYNC on the first 8 of its context after placement, and after its transmitter leaves electrical idle
(R192). -/
def State.tubResync (s : State) (l c : Nat) (x : Ctx) (j : Nat) : Bool :=
  let start := if x.isFlow then 0 else s.tubNo c x (s.rlkTxFrom l)
  j < 8 || (start ≤ j && j < start + 8)

/-- The `j`th tub of a TDM context on a lane, from its 56 bytes (R184, R185, R192). -/
def State.sendTub (s : State) (l c : Nat) (x : Ctx) (j : Nat) (bytes : List Nat) : Tub :=
  let cid := ((x.channels.find? (fun d => d.lane == l)).map (·.idx)).getD 0
  tdmTub cid j (x.fail || s.sourceFailed (s.frmKey c)) (s.tubResync l c x j) bytes

/-- The tub that tells of the failed client of a packet flow, sent at least once per ms while the client port has LOS, LOL or no
block lock (R185). -/
def State.flowCsf (s : State) (l c : Nat) (x : Ctx) : Option Tub :=
  let p := x.endpoint.lane
  let failed := x.fail || (x.endpoint.typ == 4 && (s.rdBit Reg.PRT_LANE_LOS p || s.rdBit Reg.PRT_LANE_LOL p ||
    s.rdBit Reg.PRT_LANE_NO_BLOCK_LOCK p))
  let cid := ((x.channels.find? (fun d => d.lane == l)).map (·.idx)).getD 0
  if failed && x.isFlow then some (flowCsfTub cid (s.rlkCtx c).flowSeq (s.tubResync l c x (s.rlkCtx c).flowSeq)) else none

/-- Data tubs of a TDM context sent on a lane since its transmitter started (R184): a failed source's go on at its rate
(R185). -/
def State.ctxTubs (s : State) (l c : Nat) (x : Ctx) : Nat :=
  if x.isFlow || !x.active then 0 else s.tubNo c x s.addr - s.tubNo c x (s.rlkTxFrom l)

/-- Data tubs sent on a lane since its transmitter started. -/
def State.laneTubs (s : State) (l : Nat) : Nat :=
  (s.rlkLane l).txData +
    ((s.ovm.ctxs.filter (fun e => e.2.channels.any (fun d => d.lane == l))).map (fun e => s.ctxTubs l e.1 e.2)).sum

/-- RLK_TX_TUB_CNT or RLK_TX_IDLE_CNT as it reads now: every tub position without a data tub carries an idle one (R182, R189). -/
def State.txCount (s : State) (l : Nat) (idle : Bool) : Nat :=
  let base := s.rd (if idle then Reg.RLK_TX_IDLE_CNT else Reg.RLK_TX_TUB_CNT) l
  let more := if !s.rlkSends l then 0 else if idle then 255 * s.rlkFrames l - s.laneTubs l else s.laneTubs l
  (base + more) % 2 ^ 32

/-- The lane's transmitter stops or starts anew: what it has sent is counted, and it sends from here. -/
def State.settleTx (s : State) (l : Nat) : State :=
  if s.rlkOn l then
    let s1 := (s.wr Reg.RLK_TX_TUB_CNT l (s.txCount l false)).wr Reg.RLK_TX_IDLE_CNT l (s.txCount l true)
    s1.setRlkLane l { s1.rlkLane l with onAt := s1.addr, txData := 0 }
  else s

/-- Electrical idle of every transmitter begins or ends (R50, R204, R207, R589). -/
def State.setTxIdle (s : State) (idle : Bool) : State :=
  if s.shf.txIdle = idle then s
  else if idle then
    let s1 := (List.range 48).foldl State.settleTx s
    { s1 with shf := { s1.shf with txIdle := true } }
  else { s with shf := { s.shf with txIdle := false },
                rlk := { s.rlk with txFrom := s.addr, lanes := s.rlk.lanes.map (fun e => (e.1, { e.2 with onAt := s.addr })) } }

/-- A context leaves its links: its tubs and receive groups go, and what it sent stays counted (R200). -/
def State.dropTubs (s : State) (c : Nat) : State :=
  let s1 := match s.ctx? c with
    | none => s
    | some x => x.channels.foldl (fun (a : State) (d : Endpoint) => a.setRlkLane d.lane { a.rlkLane d.lane with
        txData := (a.rlkLane d.lane).txData + s.ctxTubs d.lane c x }) s
  { s1 with rlk := { s1.rlk with ctxs := tdel (tdel s1.rlk.ctxs c) (c + 65536) } }

/-- A context's tubs are numbered from here (R192). -/
def State.startTubs (s : State) (c : Nat) : State := s.setRlkCtx c { origin := s.addr }

/-- A packet of `length` bytes of a flow leaves in tubs on its Ralale channel (R184, R192). -/
def State.sendPacket (s : State) (c : Nat) (x : Ctx) (length : Nat) : State :=
  let n := max 1 ((length + 55) / 56)
  let s1 := s.setRlkCtx c { s.rlkCtx c with flowSeq := (s.rlkCtx c).flowSeq + n }
  if x.out.typ = 3 && s1.rlkSends x.out.lane then
    s1.setRlkLane x.out.lane { s1.rlkLane x.out.lane with txData := (s1.rlkLane x.out.lane).txData + n }
  else s1

/-- ns between two addresses, rounded down. -/
def nsOf (positions : Nat) : Nat := positions * 3125 / 486

/-- The marker and overhead of the frame that the lane sends now (R171, R172, R174 to R177, R202, R204). -/
def State.rlkTxFrame (s : State) (l : Nat) : RlkFrame :=
  let k := s.rlkFrames l
  let start := s.rlkFrameStart l k
  let x := s.rlkLane l
  let w := s.worstLoss l
  { marker := true, markCrc := true, count := if s.rdBit Reg.RLK_EK7210 l then k % 8 else k % 256, unit := s.unitBit,
    paired := s.paired, ohCrc := true, linkId := s.rd Reg.RLK_TX_LINK_ID l, ql := s.laneQl l, rdi := s.rlkSendsRdi l,
    dgasp := s.rlk.sendGasp, txStamp := start / Config.cyclePos % 65536 * 65536 + start % Config.cyclePos,
    rc := [s.rd Reg.RLK_GOOD_CNT l, s.rd Reg.RLK_HDR_ERR_CNT l, s.rd Reg.RLK_COPY_LOST_CNT l, s.rd Reg.RLK_LATE_CNT l,
           s.rd Reg.RLK_BOTH_LOST_CNT l],
    worstCid := w.1, worstCnt := w.2, echoStamp := x.echoStamp,
    echoAge := if x.echoStamp = 0 then 0 else min (2 ^ 32 - 1) (nsOf (s.time - (s.addr - start) - x.echoTime)) }

/-! ### Gate stores -/

/-- Bits by which a TDM context's arrivals exceed, or fall short of, what the justification of its mapping absorbs: ±100 ppm of
its nominal rate since its first delivery, and the tub in hand (R189, R191). -/
def State.gateExcess (s : State) (c : Nat) (x : Ctx) : Rat :=
  match (s.rlkCtx c).gateAt with
  | none => 0
  | some t =>
    let d : Rat := (s.rlkCtx c).gateBits
    let nominal : Rat := ((tubLoad s.ovm.ctxs c x / 8 : Nat) : Rat) * ((s.addr - t : Nat) : Rat) / Config.secondPos
    if nominal * (1 + 1 / 10000) < d - 448 then d - 448 - nominal * (1 + 1 / 10000)
    else if d + 448 < nominal * (1 - 1 / 10000) then d + 448 - nominal * (1 - 1 / 10000)
    else 0

/-- The fill of a line's gate store in 1/64 of its size, of two cycles of the line's data; a store starts half full. A TDM
context that arrives over Ralale moves it by what its justification does not absorb (R191). -/
def State.gateFill (s : State) (ctx : Nat) : Nat :=
  let base := tget 32 s.shf.gates ctx
  match s.ctx? ctx with
  | none => base
  | some x =>
    let r := tubLoad s.ovm.ctxs ctx x / 8
    if x.isFlow || r = 0 then base else (min 64 (((base : Rat) + s.gateExcess ctx x * 32 * 8000 / r).floor)).toNat

/-- A gate store's fill is set, and its arrivals count from here. -/
def State.setGate (s : State) (ctx fill : Nat) : State :=
  let s1 : State := { s with shf := { s.shf with gates := tset s.shf.gates ctx fill } }
  match tfind s1.rlk.ctxs ctx with
  | none => s1
  | some y => s1.setRlkCtx ctx { y with gateAt := y.gateAt.map (fun _ => s1.addr), gateBits := 0 }

/-- GATE_SLIP (R49): a gate store whose fill comes within 1/8 of either end is re-centred by dropping or repeating one cycle of
the line's data, half of the store. The fill of a context that arrives over Ralale follows from its tubs (R191); another's
is given. -/
def execGateSlip (dt ctx fill : Nat) (s : State) : Host.Outcome State Fault Refusal :=
  let s1 := s.elapse dt
  let now := if ((s1.rlkCtx ctx).gateAt).isSome then s1.gateFill ctx else fill
  .next (if now ≤ 8 then
      ((s1.setGate ctx (now + 32)).count Reg.SHF_GATE_SLIP_CNT 0).raise Ev.GATE_SLIP (srcCtx ctx) [(2, ctx), (1, 0)]
    else if 56 ≤ now then
      ((s1.setGate ctx (now - 32)).count Reg.SHF_GATE_SLIP_CNT 0).raise Ev.GATE_SLIP (srcCtx ctx) [(2, ctx), (1, 1)]
    else s1.setGate ctx now)

end Sys2Proof.Machine
end

