-- ==== Sys2Proof/Machine/Ports.lean ====
section
/-! DEFINITION. Line, uplink and tributary ports (R135 to R167): lane defects, readiness, equalisation,
tests and the tributary links. -/

namespace Sys2Proof.Machine

/-! ### Lanes -/

/-- The lanes of the port that a lane belongs to. -/
def State.portLanes (s : State) (l : Nat) : List Nat :=
  (List.range 72).filter (fun m => s.portFirst m == s.portFirst l)

/-- The lane runs: it has a mode other than OFF and is not gated (R158). A MATE lane also runs before the
first configuration set is in force (R589). -/
def State.laneOn (s : State) (l : Nat) : Bool :=
  l < 80 && (s.rd Reg.PRT_LANE_MODE l != 0 || (72 ≤ l && s.rdBit Reg.PAR_PAIR_EN 0 && !s.sys.configured)) &&
    !s.rdBit Reg.PRT_LANE_GATED l && !s.inReset (laneDomain l)

/-- The lane's type-0x01 endpoints and those within its signal (Table 09-2). -/
def laneEndpoint (e : Endpoint) : Bool := [1, 3, 4, 5, 6, 7].contains e.typ

/-- A placed context uses the lane, or the port it belongs to (R164). -/
def State.laneInUse (s : State) (l : Nat) : Bool :=
  s.ovm.ctxs.any (fun e => e.2.active &&
    [e.2.endpoint, e.2.endpointB, e.2.out].any (fun d => laneEndpoint d && (d.lane == l || d.lane == s.portFirst l)))

/-- A placed context uses the tributary link. -/
def State.trbInUse (s : State) (n : Nat) : Bool :=
  s.ovm.ctxs.any (fun e => e.2.onTrb n)

/-- The commit under way changes a CMT field (R521). -/
def State.changes (s : State) (f : Fld) (i : Nat) : Bool :=
  match s.regs.run with
  | some r => (match tfind r.staged (f.key i) with | some v => v != s.rd f i | none => false)
  | none => false

/-- The value that a bit array takes at the commit under way differs in `mask` (R521). -/
def State.changesIn (s : State) (f : Fld) (mask : Nat) : Bool :=
  match s.regs.run with
  | some r => (match tfind r.staged (f.key 0) with | some v => Nat.land v mask != Nat.land (s.rd f 0) mask | none => false)
  | none => false

/-- A lane, or the port it belongs to, is unavailable from the snapshot of a commit that changes its fields to the outcome
(R521). -/
def State.laneHeld (s : State) (l : Nat) : Bool :=
  s.regs.run.isSome && (l :: s.portLanes l).any (fun m =>
    s.changes Reg.PRT_LANE_MODE m || s.changes Reg.PRT_LANE_SONET m || s.changes Reg.PRT_LANE_FEC m ||
      (m < 48 && s.changes Reg.RLK_EK7210 m) ||
      (48 ≤ m && m < 72 && (s.changesIn Reg.PRT_UPL_LAYOUT (3 * 4 ^ laneSlice m) || s.changesIn Reg.PAR_PORT_ETUND (2 ^ (m - 48)))))

/-- A link is unavailable likewise (R521). -/
def State.trbHeld (s : State) (n : Nat) : Bool := s.changes Reg.PRT_TRB_EN n || s.changes Reg.PRT_TRB_LAYOUT n

/-- A lane field changes, and the event that reports it is raised with set or clear. -/
def State.laneFlag (s : State) (f : Fld) (code l : Nat) (on : Bool) : State :=
  if s.rdBit f l = on then s else (s.wrBit f l on).raise code (srcLane l) [(2, l), (1, ofBool on)]

/-- What a change of a lane's defects brings: its point, its framer, its Ralale receiver and the
references (Table 10-2, R233, Table 06-7, R59). -/
def State.laneFollow (s : State) (l : Nat) : State :=
  let los := s.rdBit Reg.PRT_LANE_LOS l
  let lol := s.rdBit Reg.PRT_LANE_LOL l
  let s1 := s.pmDefect (lanePoint l) (los || lol || s.rdBit Reg.PRT_LANE_NO_BLOCK_LOCK l) false
  let m := s.rd Reg.PRT_LANE_MODE l
  let s2 := if l < 72 && (modeStm m || modeOtu m) then
      let ls := s1.portLanes l
      let anyLos := ls.any (fun n => s1.rdBit Reg.PRT_LANE_LOS n)
      s1.framerLos (srcLane (s1.portFirst l)) anyLos (anyLos || ls.any (fun n => s1.rdBit Reg.PRT_LANE_LOL n))
    else s1
  (s2.rlkDown l).timReview

/-- The defects that a higher one masks are no longer declared (R157): the last `n` of LOL, loss of block
lock and Hi-BER. -/
def State.maskBelow (s : State) (l n : Nat) : State :=
  let s1 := if 3 ≤ n then s.laneFlag Reg.PRT_LANE_LOL Ev.LANE_LOL l false else s
  let s2 := if 2 ≤ n then s1.laneFlag Reg.PRT_LANE_NO_BLOCK_LOCK Ev.LANE_BLOCK_LOCK l false else s1
  s2.laneFlag Reg.PRT_LANE_HIBER Ev.LANE_HIBER l false

/-- The lane starts over: no defect, not ready, its framer and receiver as new (R158, R159). -/
def State.laneRestart (s : State) (l : Nat) : State :=
  let s1 := (s.laneFlag Reg.PRT_LANE_LOS Ev.LANE_LOS l false).maskBelow l 3
  let s2 := s1.wrBit Reg.PRT_LANE_READY l false
  let s3 := (s2.setFramer (srcLane l) { s2.framer (srcLane l) with
    align := 0, conf := 0, bad := 0, oofSince := none, okSince := none, hits := [], mf := false, mfRun := 0,
    raw := [], runs := [], offRuns := [], crc4 := false }).settle (srcLane l)
  let s4 := ((((s3.settleTx l).setRlkLane l { outSince := some s3.time, onAt := s3.addr }).wr Reg.RLK_ALIGN l 0).wrBit Reg.RLK_LFA l false).wrBit
    Reg.RLK_RDI_RX l false
  let s5 := if l < 48 then (s4.wrBit Reg.RLK_LIM l false).wrBit Reg.RLK_DGASP_RX l false else s3
  s5.laneFollow l

/-- Table 05-8 applies to the lane's PCS (R144, R157, R159). -/
def State.lanePcs (s : State) (l : Nat) : Bool :=
  l < 48 && (s.rd Reg.PRT_LANE_MODE l == 7 || s.rd Reg.PRT_LANE_MODE l == 8) && !s.rdBit Reg.PRT_LANE_FEC l &&
    s.laneOn l && s.rdBit Reg.PRT_LANE_READY l && !s.rdBit Reg.PRT_LANE_LOS l && !s.rdBit Reg.PRT_LANE_LOL l

/-! ### Tributary links -/

/-- A link's state beside its registers. -/
def State.trb (s : State) (n : Nat) : TrbSt := tget {} s.prt.trb n

/-- The state with a link's state replaced. -/
def State.setTrb (s : State) (n : Nat) (x : TrbSt) : State :=
  { s with prt := { s.prt with trb := tset s.prt.trb n x } }

/-- The link runs (R158). -/
def State.trbOn (s : State) (n : Nat) : Bool :=
  n < 32 && s.rdBit Reg.PRT_TRB_EN n && !s.prt.trbGated.contains n && !s.inReset (3 + n / 8)

/-- The PDH circuits placed on a link. -/
def State.circuits (s : State) (n : Nat) : List (Nat × Ctx) :=
  s.ovm.ctxs.filter (fun e => e.2.onTrb n && kindPdh e.2.kind)

/-- The register that holds the LOS of a slot's circuit. -/
def chanLosFld (slot : Nat) : Fld :=
  match slot / 32 with
  | 0 => Reg.PRT_TRB_CHAN_LOS0
  | 1 => Reg.PRT_TRB_CHAN_LOS1
  | 2 => Reg.PRT_TRB_CHAN_LOS2
  | _ => Reg.PRT_TRB_CHAN_LOS3

/-- One circuit's LOS follows its slot, its link's LLA and the layout (R154, R156). -/
def State.circuitLos (s : State) (n c slot : Nat) : State :=
  let los := (s.trb n).slotLos.contains slot || s.rdBit Reg.PRT_TRB_LLA n || s.rdBit Reg.PRT_TRB_MODE_MISMATCH n
  let f := chanLosFld slot
  if bitOf (s.rd f n) (slot % 32) = los then s
  else ((s.wr f n (setBit (s.rd f n) (slot % 32) los)).raise Ev.TRB_CHAN_LOS (srcTrb n)
    [(2, n), (2, slot), (1, ofBool los)]).framerLos (srcCtx c) los los

/-- A circuit leaves its slot: its LOS is no longer declared (R156). -/
def State.dropSlot (s : State) (n slot : Nat) : State :=
  let f := chanLosFld slot
  let x := s.trb n
  (s.wr f n (setBit (s.rd f n) (slot % 32) false)).setTrb n { x with runs := tdel x.runs slot, slotLos := x.slotLos.filter (fun q => q != slot) }

/-- The link's context (kind 0x31). -/
def State.trbCtx (s : State) (n : Nat) : Option Nat :=
  (s.ovm.ctxs.find? (fun e => e.2.onTrb n && e.2.kind == 0x31)).map
    (·.1)

/-- What a change of a link brings: its circuits, its point and the references. -/
def State.trbFollow (s : State) (n : Nat) : State :=
  let s1 := (s.circuits n).foldl (fun a e => a.circuitLos n e.1 e.2.trbEnd.idx) s
  let s2 := match s1.trbCtx n with
    | none => s1
    | some c => s1.pmDefect c (s1.rdBit Reg.PRT_TRB_LOS n || s1.rdBit Reg.PRT_TRB_LLA n) (s1.rdBit Reg.PRT_TRB_RLA n)
  s2.timReview

/-- The link returns to SEARCH, and looks on from received bit `from_` (Table 05-7). -/
def State.trbSearch (s : State) (n from_ : Nat) : State :=
  let x := s.trb n
  let out := if s.rd Reg.PRT_TRB_ALIGN n = 2 || x.outSince.isNone then some s.time else x.outSince
  (s.setTrb n { x with next := from_, conf := 0, bad := 0, inSince := none, outSince := out }).wr Reg.PRT_TRB_ALIGN n 0

/-- The link starts over when it is enabled, changed or gated. -/
def State.trbRestart (s : State) (n : Nat) : State :=
  let s1 := s.setTrb n { outSince := some s.time }
  ((((((s1.wr Reg.PRT_TRB_ALIGN n 0).wrBit Reg.PRT_TRB_LLA n false).wrBit Reg.PRT_TRB_RLA n false).wrBit
    Reg.PRT_TRB_LOS n false).wrBit Reg.PRT_TRB_MODE_MISMATCH n false)).trbFollow n

/-- The link looks for a framing word at received bit `off`: a search at every bit from where it resumes, and otherwise the
expected one (Table 05-7). -/
def State.trbLooks (s : State) (n off : Nat) : Bool :=
  if s.rd Reg.PRT_TRB_ALIGN n = 0 then decide ((s.trb n).next ≤ off) else off == (s.trb n).next

/-- One frame, from received bit `off`, through Table 05-7. A candidate that fails makes the search resume one bit after where
it was found. -/
def State.trbStep (s : State) (n off : Nat) (word : Bool) : State :=
  let x := { s.trb n with next := off + 38880 }
  let a := s.rd Reg.PRT_TRB_ALIGN n
  if a = 2 then
    let bad := if word then 0 else x.bad + 1
    if 4 ≤ bad then s.trbSearch n (off + 1) else s.setTrb n { x with bad := bad }
  else if !word then s.trbSearch n (if a = 0 then off + 1 else x.base + 1)
  else if a = 0 then (s.setTrb n { x with conf := 0, base := off }).wr Reg.PRT_TRB_ALIGN n 1
  else if x.conf = 0 then s.setTrb n { x with conf := 1 }
  else (s.setTrb n { x with conf := 0, bad := 0, inSince := some s.time, outSince := none }).wr Reg.PRT_TRB_ALIGN n 2

/-- The link's layout in force. -/
def State.trbLayout (s : State) (n : Nat) : Nat := s.rd Reg.PRT_TRB_LAYOUT n

/-- Bits of a slot's data area (R147). -/
def State.slotCapacity (s : State) (n : Nat) : Nat := 8 * slotBytes (s.trbLayout n)

/-- A slot's LOS: declared or cleared by 2 equal frames (R156); `runs` counts frames against the present
state. -/
def TrbSt.slotStep (x : TrbSt) (slot : Nat) (los : Bool) : TrbSt :=
  let now := x.slotLos.contains slot
  if los = now then { x with runs := tdel x.runs slot }
  else if tget 0 x.runs slot = 0 then { x with runs := tset x.runs slot 1 }
  else { x with runs := tdel x.runs slot,
                slotLos := if los then slot :: x.slotLos else x.slotLos.filter (fun q => q != slot) }

/-- A circuit's bits of one frame reach its mapping (R147, R150). -/
def State.giveBits (s : State) (c : Nat) (bits : List Bool) : State :=
  { s with prt := { s.prt with given := tset s.prt.given c bits } }

/-- A received slot of a link (R147, R150, R156): the first COUNT bits of its data area, or, for a COUNT above its capacity, its
circuit's nominal COUNT of all-ones. -/
def State.takeSlot (s : State) (n slot : Nat) (q : TrbSlot) : State :=
  match (s.circuits n).find? (fun e => e.2.trbEnd.idx == slot) with
  | none => s
  | some (c, x) =>
    let s1 := s.setTrb n ((s.trb n).slotStep slot q.los)
    if s1.slotCapacity n < q.count then
      ((s1.giveBits c (List.replicate (nominalCount x.kind) true)).count Reg.PRT_TRB_OVERRUN_CNT n).raise Ev.TRB_SLOT_OVERRUN
        (srcTrb n) [(2, n), (2, slot), (2, q.count)]
    else s1.giveBits c ((q.data.flatMap msbBits).take q.count)

/-- The slots of a frame, in order. -/
def State.takeSlots (s : State) (n : Nat) : Nat → List TrbSlot → State
  | _, [] => s
  | k, q :: rest => (s.takeSlot n k q).takeSlots n (k + 1) rest

/-- A frame in SYNC (R155, R156, Table 05-4). -/
def State.takeTrbFrame (s : State) (n : Nat) (f : TrbFrame) : State :=
  let s1 := s.wrBit Reg.PRT_TRB_RLA n f.rla
  let s2 := if f.crcOk then s1 else s1.count Reg.PRT_TRB_CRC_CNT n
  let s3 := s2.setTrb n { s2.trb n with sendBad := !f.crcOk }
  let s4 := match s3.trbCtx n with
    | none => s3
    | some c => s3.pmBlocks c (ofBool (!f.crcOk)) (ofBool f.farBad)
  let wrong := f.layout != s4.trbLayout n
  let s5 := (s4.raiseIf (wrong && !s4.rdBit Reg.PRT_TRB_MODE_MISMATCH n) Ev.TRB_MODE_MISMATCH (srcTrb n)
    [(2, n), (1, f.layout)]).wrBit Reg.PRT_TRB_MODE_MISMATCH n wrong
  if wrong then s5 else s5.takeSlots n 0 f.slots

/-- The slot that the link sends, from the bits its circuit has for this frame (R147, R149): without a placed circuit ACTIVE and
COUNT are 0. -/
def State.sendSlot (s : State) (n slot : Nat) (bits : Nat → List Bool) : TrbSlot :=
  let on := (s.circuits n).any (fun e => e.2.trbEnd.idx == slot)
  let b := if on then (bits slot).take (s.slotCapacity n) else []
  { los := false, active := on, count := b.length, data := packBits (slotBytes (s.trbLayout n)) b }

/-- The frame counter of the frame that the link sends in this cycle (Table 05-4); the spec does not say where it starts. -/
def State.trbCounter (s : State) : Nat := (s.cycle + Config.trbStart) % 256

/-- The frame that the link sends in this cycle (R145 to R149, R154, R155), from the bits its circuits have for it. -/
def State.sendTrb (s : State) (n : Nat) (bits : Nat → List Bool) : TrbFrame :=
  { word := true, layout := s.trbLayout n, counter := s.trbCounter, rla := s.rdBit Reg.PRT_TRB_LLA n, farBad := (s.trb n).sendBad,
    slots := (List.range (trbSlots (s.trbLayout n))).map (fun k => s.sendSlot n k bits), crcOk := true }

/-! ### Equalisation -/

/-- The taps applied for the taps written (R160). -/
def clipTaps (pre main post : Nat) : Nat × Nat × Nat :=
  let m := min main (63 - (pre + post))
  let p := min post (63 - (pre + m))
  (min pre 63, m, p)

/-- The transmit taps of a lane follow its fields (R160). -/
def State.applyTaps (s : State) (l : Nat) : State :=
  let pre := s.rd Reg.PRT_LANE_TX_PRE l
  let main := s.rd Reg.PRT_LANE_TX_MAIN l
  let post := s.rd Reg.PRT_LANE_TX_POST l
  if 63 < pre + main + post then
    let t := clipTaps pre main post
    (({ s with prt := { s.prt with applied := tset s.prt.applied l t } } : State).wrBit Reg.PRT_LANE_TAP_CLIP l
      true).raise Ev.LANE_TAP_CLIP (srcLane l) [(2, l), (1, t.1), (1, t.2.1), (1, t.2.2)]
  else ({ s with prt := { s.prt with applied := tdel s.prt.applied l } } : State).wrBit Reg.PRT_LANE_TAP_CLIP l false

/-! ### Events -/

/-- LANE_LOS (R157): of a lane, or of a tributary link when `trb` is set. -/
def execLaneLos (dt lane : Nat) (trb set : Bool) (s : State) : Host.Outcome State Fault Refusal :=
  let s1 := s.elapse dt
  .next (if trb then
      if !s1.trbOn lane || s1.rdBit Reg.PRT_TRB_LOS lane = set then s1
      else
        let s2 := (s1.wrBit Reg.PRT_TRB_LOS lane set).raise Ev.LANE_LOS (srcTrb lane) [(2, lane), (1, ofBool set)]
        (if set then s2.trbSearch lane 0 else s2).trbFollow lane
    else if !s1.laneOn lane || s1.rdBit Reg.PRT_LANE_LOS lane = set then s1
    else
      let s2 := s1.laneFlag Reg.PRT_LANE_LOS Ev.LANE_LOS lane set
      (if set then (s2.count Reg.PRT_LANE_LOS_CNT lane).maskBelow lane 3 else s2).laneFollow lane)

/-- LANE_LOL (R157, R159). -/
def execLaneLol (dt lane : Nat) (set : Bool) (s : State) : Host.Outcome State Fault Refusal :=
  let s1 := s.elapse dt
  .next (if !s1.laneOn lane || (set && (!s1.rdBit Reg.PRT_LANE_READY lane || s1.rdBit Reg.PRT_LANE_LOS lane)) then s1
    else
      let s2 := s1.laneFlag Reg.PRT_LANE_LOL Ev.LANE_LOL lane set
      (if set then s2.maskBelow lane 2 else s2).laneFollow lane)

/-- LANE_BLOCK_LOCK (R157, R159). -/
def execLaneBlockLock (dt lane : Nat) (lost : Bool) (s : State) : Host.Outcome State Fault Refusal :=
  let s1 := s.elapse dt
  .next (if lost && !s1.lanePcs lane then s1
    else
      let s2 := s1.laneFlag Reg.PRT_LANE_NO_BLOCK_LOCK Ev.LANE_BLOCK_LOCK lane lost
      (if lost then s2.maskBelow lane 1 else s2).laneFollow lane)

/-- LANE_HIBER (R157, R159). -/
def execLaneHiber (dt lane : Nat) (set : Bool) (s : State) : Host.Outcome State Fault Refusal :=
  let s1 := s.elapse dt
  .next (if set && (!s1.lanePcs lane || s1.rdBit Reg.PRT_LANE_NO_BLOCK_LOCK lane) then s1
    else s1.laneFlag Reg.PRT_LANE_HIBER Ev.LANE_HIBER lane set)

/-- A lane's measured eye (R162). -/
def State.setEye (s : State) (l w h : Nat) : State :=
  let s1 := (s.wr Reg.PRT_LANE_EYE_W l w).wr Reg.PRT_LANE_EYE_H l h
  { s1 with prt := { s1.prt with eyeAt := tset s1.prt.eyeAt l s1.time } }

/-- The smallest of a lane's eyes: a PAM4 lane has three (R162). -/
def smallestEye (m : EyeMeas) : Nat × Nat :=
  ((m.eyes.map (·.1)).foldl min 63, (m.eyes.map (·.2)).foldl min 255)

/-- The receiver adapts (R161): to values the spec does not give, but for peaking that is overridden; frozen values stay. -/
def State.adaptLane (s : State) (l : Nat) : State :=
  let old := tfind s.prt.adapt l
  if s.rdBit Reg.PRT_LANE_ADAPT_FREEZE l && old.isSome then s
  else
    let ctle := if s.rdBit Reg.PRT_LANE_CTLE_OVR l then (old.getD (0, 0)).1 else Config.freeChoice s.freeCtr
    ({ s with prt := { s.prt with adapt := tset s.prt.adapt l (ctle, Config.freeChoice (s.freeCtr + 1)) } } : State).draw.draw

/-- The peaking a receiver applies (R161). -/
def State.laneCtle (s : State) (l : Nat) : Nat :=
  if s.rdBit Reg.PRT_LANE_CTLE_OVR l then s.rd Reg.PRT_LANE_CTLE l else (tget (0, 0) s.prt.adapt l).1

/-- LANE_READY (R159). -/
def execLaneReady (dt lane w h : Nat) (s : State) : Host.Outcome State Fault Refusal :=
  let s1 := s.elapse dt
  .next (if !s1.laneOn lane || s1.rdBit Reg.PRT_LANE_READY lane then s1
    else ((((s1.adaptLane lane).setEye lane w h).wrBit Reg.PRT_LANE_READY lane true).raise Ev.LANE_READY (srcLane lane)
      [(2, lane), (1, w), (1, h)]).timReview)

/-- The lanes whose eyes are measured: those that are ready. -/
def State.readyLanes (s : State) : List Nat :=
  (List.range 80).filter (fun l => s.laneOn l && s.rdBit Reg.PRT_LANE_READY l)

/-- When a ready lane's eye is next measured (R162): 100 ms after it last was. -/
def State.eyeDue (s : State) (l : Nat) : Nat :=
  match tfind s.prt.eyeAt l with
  | none => s.time
  | some t => t + 100 * Config.msPos

/-- One lane's eye is measured and its receiver adapts (R161, R162); a measurement the row does not give is free. -/
def State.measureEye (s : State) (meas : List EyeMeas) (l : Nat) : State :=
  match meas.find? (fun m => m.lane == l) with
  | some m => (((s.adaptLane l).setEye l (smallestEye m).1 (smallestEye m).2).wrInt Reg.PRT_LANE_FREQ l m.freq)
  | none =>
    ((s.adaptLane l).setEye l (Config.freeChoice s.freeCtr % 64) (Config.freeChoice (s.freeCtr + 1) % 256)).draw.draw

/-- EYE_MEASURE (R162): every 100 ms each ready lane's eye is measured, with its received frequency. The row waits for the first
lane that is due. -/
def execEyeMeasure (dt : Nat) (meas : List EyeMeas) (s : State) : Host.Outcome State Fault Refusal :=
  let s1 := s.elapse dt
  let ready := s1.readyLanes
  let due := (ready.map s1.eyeDue).foldl min ((ready.map s1.eyeDue).headD s1.time)
  let s2 := s1.elapse (due - s1.time)
  .next ((ready.filter (fun l => decide (s2.eyeDue l ≤ s2.time))).foldl (fun a l => a.measureEye meas l) s2)

/-- A lane's checker changes state (Table 05-13). -/
def State.prbsState (s : State) (l : Nat) (on : Bool) : State := s.laneFlag Reg.PRT_LANE_PRBS_LOCK Ev.PRBS_LOCK l on

/-- PRBS_LOCK (R167): the checker locks to its pattern or loses it, having counted `errors` while locked. -/
def execPrbsLock (dt lane : Nat) (locked : Bool) (errors : Nat) (s : State) : Host.Outcome State Fault Refusal :=
  let s1 := s.elapse dt
  let checks := match tfind s1.prt.tests lane with | some t => bitOf t.flags 1 | none => false
  .next (if !checks then s1
    else (if s1.rdBit Reg.PRT_LANE_PRBS_LOCK lane then s1.countBy Reg.PRT_LANE_PRBS_ERR_CNT lane errors
      else s1).prbsState lane locked)

/-- TRB_FRAME_RX (R145 to R156): the 4,860 bytes received on a link from bit `off` of its stream on. -/
def execTrbFrameRx (dt link off : Nat) (bytes : List Nat) (s : State) : Host.Outcome State Fault Refusal :=
  let s1 := s.elapse dt
  .next (if !s1.trbOn link || s1.rdBit Reg.PRT_TRB_LOS link || !s1.trbLooks link off then s1
    else
      let f := readTrb (s1.trbLayout link) bytes
      let s2 := s1.trbStep link off f.word
      (if s2.rd Reg.PRT_TRB_ALIGN link = 2 then s2.takeTrbFrame link f else s2).trbFollow link)

/-- TRB_ALIGN (R154): the link has been out of SYNC for 3 ms, or in SYNC for 1 ms. -/
def execTrbAlign (dt link : Nat) (s : State) : Host.Outcome State Fault Refusal :=
  let s1 := s.elapse dt
  let x := s1.trb link
  let set (a : State) (on : Bool) : State :=
    if a.rdBit Reg.PRT_TRB_LLA link = on then a
    else ((a.wrBit Reg.PRT_TRB_LLA link on).raise Ev.TRB_ALIGN (srcTrb link) [(2, link), (1, ofBool on)]).trbFollow link
  .next (if !s1.trbOn link then s1
    else if s1.rd Reg.PRT_TRB_ALIGN link = 2 then
      match x.inSince with
      | none => s1
      | some t => set (s1.elapse (t + Config.msPos - s1.time)) false
    else
      match x.outSince with
      | none => s1
      | some t => set (s1.elapse (t + 3 * Config.msPos - s1.time)) true)

/-! ### Commands -/

/-- The lane may not be disturbed (R164, R165). -/
def State.laneBusy (s : State) (l : Nat) (test : Bool) : Bool :=
  s.laneInUse l || (test && 72 ≤ l && s.rdBit Reg.PAR_PAIR_EN 0)

/-- PRT_TEST (R164, R165). -/
def execPrtTest (dt : Nat) (h : HostRef) (lane ptn flags : Nat) (s : State) : Host.Outcome State Fault Refusal :=
  .next (s.command dt h (laneDomain lane) Op.PRT_TEST (fun a =>
    if 79 < lane then a.refuse h Op.PRT_TEST 1
    else if 4 < ptn || (bitOf flags 2 && bitOf flags 3) then a.refuse h Op.PRT_TEST 2
    else if a.laneBusy lane true then a.refuse h Op.PRT_TEST 3
    else if !a.laneOn lane then a.refuse h Op.PRT_TEST 4
    else
      let b := a.prbsState lane false
      (if ptn = 0 && flags = 0 then
        ({ b with prt := { b.prt with tests := tdel b.prt.tests lane } } : State).wrBit Reg.PRT_LANE_TESTING lane false
      else
        ({ b with prt := { b.prt with tests := tset b.prt.tests lane { ptn := ptn, flags := flags % 16 } } } :
          State).wrBit Reg.PRT_LANE_TESTING lane true).done h Op.PRT_TEST))

/-- PRT_ADAPT_RESTART (R164): the lane is not ready until adaptation finishes. -/
def execPrtAdaptRestart (dt : Nat) (h : HostRef) (lane : Nat) (s : State) : Host.Outcome State Fault Refusal :=
  .next (s.command dt h (laneDomain lane) Op.PRT_ADAPT_RESTART (fun a =>
    if 79 < lane then a.refuse h Op.PRT_ADAPT_RESTART 1
    else if a.laneBusy lane false then a.refuse h Op.PRT_ADAPT_RESTART 3
    else if !a.laneOn lane then a.refuse h Op.PRT_ADAPT_RESTART 4
    else ((a.maskBelow lane 3).wrBit Reg.PRT_LANE_READY lane false).laneFollow lane |>.done h Op.PRT_ADAPT_RESTART))

end Sys2Proof.Machine
end

