-- ==== Sys2Proof/Machine/Shaft.lean ====
section
/-! DEFINITION. The shaft block (R33 to R53): schedule entries and their dispatch, the gate stores, loss of
OSCI and start-up. Arming and the swap stand with the Overman (Placement). -/

namespace Sys2Proof.Machine

/-! ### Schedule entries -/

/-- The place of a class in the order of dispatch (Table 02-4); `none` for a class that never fires. -/
def classOrder (cls : Nat) : Option Nat :=
  match cls with
  | 0x3 => some 1
  | 0x7 => some 2
  | 0x8 => some 3
  | 0x9 => some 4
  | 0x6 => some 5
  | 0x5 => some 6
  | 0x1 => some 7
  | 0x2 => some 8
  | 0x0 => some 9
  | _ => none

/-- An entry fires in a cycle (Table 02-3). -/
def entryFires (e : SchedEntry) (cycle : Nat) : Bool :=
  match e.period with
  | 0 => true
  | 1 => cycle % 4 == e.cyc % 4
  | 2 => cycle % 32 == e.cyc
  | 3 => cycle % 65536 == e.arg / 256
  | _ => false

/-- The active bank and its spent marks (R37, R38). -/
def State.activeBank (s : State) : Tab SchedEntry :=
  if s.rd Reg.SHF_BANK_ACTIVE 0 = 0 then s.shf.bank0 else s.shf.bank1
def State.activeSpent (s : State) : List Nat :=
  if s.rd Reg.SHF_BANK_ACTIVE 0 = 0 then s.shf.spent0 else s.shf.spent1

/-- The doorbell position in force (R48): a newly written one acts from the next cycle, and one above
19,439 reads at position 0. -/
def State.doorbellPos (s : State) : Nat :=
  let v := match s.shf.dbAt with
    | some a => if a / Config.cyclePos = s.cycle then s.shf.dbOld else s.rd Reg.SHF_DOORBELL_POS 0
    | none => s.rd Reg.SHF_DOORBELL_POS 0
  if v < Config.cyclePos then v else 0

/-- SHF_DOORBELL_BAD (R48): set by a write above 19,439, and standing until the cycle boundary at which a value in range
takes effect. -/
def State.doorbellBad (s : State) : Bool :=
  Config.cyclePos ≤ s.rd Reg.SHF_DOORBELL_POS 0 || s.shf.dbBadIn == some s.cycle ||
  (match s.shf.dbAt with
    | some a => a / Config.cyclePos == s.cycle && Config.cyclePos ≤ s.shf.dbOld
    | none => false)

/-- The doorbell's fixed entry, held outside both banks (R39). -/
def doorbellEntry (pos : Nat) : SchedEntry :=
  { period := 0, cyc := 0, pos := pos, cls := 0x5, target := 0, arg := 0 }

/-- The swap's fixed entry, at position 0 of every fourth cycle (R39). -/
def swapEntry : SchedEntry :=
  { period := 1, cyc := 0, pos := 0, cls := 0x3, target := 0, arg := 0 }

/-- The entries of the active bank due now, as (index, entry) (R38). -/
def State.bankDue (s : State) : List (Nat × SchedEntry) :=
  s.activeBank.filter (fun e =>
    e.2.valid && e.2.pos == s.pos && entryFires e.2 s.cycle && !(e.2.period == 3 && s.activeSpent.contains e.1))

/-- Bank entries by class order and then bank index (R40). An entry of a bank with the class of a fixed entry never fires
(log entry 53). -/
def inOrder (l : List (Nat × SchedEntry)) : List SchedEntry :=
  ([0x7, 0x8, 0x9, 0x6, 0x1, 0x2, 0x0].map (fun c =>
    ((l.filter (fun e => e.2.cls == c)).insertionSort (fun a b => a.1 ≤ b.1)).map (·.2))).flatten

/-- Test jitter spares the last positions before a swap (Table 20-3). -/
def State.jitterSpares (s : State) : Bool := 19376 ≤ s.pos && s.cycle % 4 == 3

/-- The delay in positions that test jitter gives the bank's entry of index `k` (Table 20-3); pseudo-random, so free. -/
def State.jitterOf (s : State) (k : Nat) : Nat :=
  if s.perturbed 3 && !s.jitterSpares then Config.freeChoice (s.freeCtr + k) % (min 64 (s.rd Reg.TST_JITTER 0) + 1) else 0

/-- The bank's entries due at this position, those that jitter delayed to it among them, by class order and bank index. -/
def State.ownDue (s : State) : List SchedEntry :=
  inOrder (s.bankDue.filter (fun e => s.jitterOf e.1 == 0) ++
    (s.shf.jittered.filter (fun e => e.2.2 == s.addr)).map (fun e => (e.1, e.2.1)))

/-- The position's own entries but for the swap, the doorbell in its place (Table 02-4). -/
def State.posDue (s : State) : List SchedEntry :=
  let own := s.ownDue
  let early := own.filter (fun e => decide (((classOrder e.cls).getD 10) < 6))
  let late := own.filter (fun e => decide (6 < ((classOrder e.cls).getD 10)))
  early ++ (if s.pos = s.doorbellPos then [doorbellEntry s.pos] else []) ++ late

/-- The entries carried to this position (R41). -/
def State.carriedNow (s : State) : List SchedEntry := if s.shf.carriedAt ≤ s.addr then s.shf.carried else []

/-- What goes ahead of the position's own entries: those carried to it, or, where a swap has just taken effect, what went
ahead of the swap (R41, R47). -/
def State.aheadNow (s : State) : List SchedEntry :=
  if s.shf.half && s.shf.firedAt == some s.addr then s.shf.fired else s.carriedNow

/-- The entries due at this position in dispatch order: those carried from before, then the position's own (R40, R41). The
fixed entry of the swap is never late: at most seven carried entries go ahead of it. -/
def State.dueNow (s : State) : List SchedEntry :=
  if s.pos = 0 && s.cycle % 4 = 0 then s.aheadNow.take 7 ++ swapEntry :: (s.aheadNow.drop 7 ++ s.posDue)
  else s.aheadNow ++ s.posDue

/-- A swap is armed for this position and has not taken effect. -/
def State.swapDue (s : State) : Bool := s.shf.armDue == some s.addr

/-- What the old bank left behind goes ahead of a swap, at most seven so that the swap is not late; no other entry of the
old bank fires (R41, R47). -/
def State.clearOld (s : State) : State :=
  if s.shf.firedAt = some s.addr then { s with shf := { s.shf with carried := [], jittered := [] } }
  else { s with shf := { s.shf with
    fired := s.carriedNow.take 7, firedAt := some s.addr, half := true, carried := [], jittered := [] } }

/-- The entries due at this position are dispatched, at most eight; those beyond the eighth are carried to the next position,
counted late, and reported once a cycle; a one-shot of the bank gets its spent mark (R38 to R41). -/
def State.dispatch (s1 : State) : State :=
  let due := s1.dueNow
  let over_ := due.drop 8
  let marks := (s1.bankDue.filter (fun e => e.2.period == 3)).map (·.1)
  let first := s1.rd Reg.SHF_BANK_ACTIVE 0 = 0
  let away := (s1.bankDue.filter (fun e => s1.jitterOf e.1 != 0)).map (fun e => (e.1, e.2, s1.addr + s1.jitterOf e.1))
  let late := over_.length + away.length
  let report := late != 0 && !(s1.shf.lateSeen && s1.shf.lateCycle = s1.cycle)
  let s2 := { s1 with shf := { s1.shf with
      fired := due.take 8, firedAt := some s1.addr, half := false, carried := over_, carriedAt := s1.addr + 1,
      spent0 := if first then s1.shf.spent0 ++ marks else s1.shf.spent0,
      spent1 := if first then s1.shf.spent1 else s1.shf.spent1 ++ marks,
      lateCycle := if report then s1.cycle else s1.shf.lateCycle,
      lateSeen := report || s1.shf.lateSeen,
      jittered := s1.shf.jittered.filter (fun (e : Nat × SchedEntry × Nat) => decide (s1.addr < e.2.2)) ++ away } }
  let s3 : State := { s2 with freeCtr := s2.freeCtr + (if s1.perturbed 3 then 65536 else 0) }
  let first_ := away.foldl (fun m e => min m e.2.2) (if over_.isEmpty then s1.addr + 65 else s1.addr + 1)
  ((s3.countBy Reg.SHF_LATE_CNT 0 late).countBy Reg.TST_PERTURB_CNT 0 away.length).raiseIf report Ev.SCHED_LATE srcDevice
    [(2, first_ % Config.cyclePos), (4, late)]

/-- HEWER_WAKEUP (R40 to R43, R53): the entries due at this position are dispatched in the order of Table 02-4. Where a swap is due
here, what was carried goes first, and the rest is taken from the new bank once SCHED_SWAP has run (R47). SCHED_LATE tells
the first position of late dispatch and the entries late there, and an entry carried again counts again (log entry 53). -/
def execHewerWakeup (dt : Nat) (s : State) : Host.Outcome State Fault Refusal :=
  let s1 := s.elapse dt
  .next (if s1.halted then s1
    else if s1.shf.firedAt = some s1.addr && !s1.shf.half then s1
    else if s1.swapDue then s1.clearOld
    else s1.dispatch)

/-- SHAFT_HALT (R50): OSCI is lost. The shaft stops, every transmitter idles, and SHAFT_HALT is written
with the last position reached; the shaft restarts only after a shaft-domain reset. -/
def execShaftHalt (dt : Nat) (s : State) : Host.Outcome State Fault Refusal :=
  let s1 := s.elapse dt
  .next (if s1.halted then s1
    else
      let s0 := s1.setTxIdle true
      let s2 := { s0 with shf := { s0.shf with startable := false } }
      (s2.setShfState 0).raise Ev.SHAFT_HALT srcDevice [(2, s1.pos)])

/-- The shaft leaves HALTED at an address in a state (R51, R100, R392, R497): the time of day counts from there, the filter
queues exist, and transmitters send once a configuration set is in force (R589). -/
def State.leaveHalted (s : State) (addr dpll state : Nat) : State :=
  let s1 : State := { s with addr := addr, tim := { s.tim with todAt := addr, todWas := none } }
  (((s1.setTxIdle (!s.sys.configured || s.sys.fatal)).setDpll dpll).setShfState state).addFilterQueues

/-- SHAFT_START (R51, R35, R100; R392 for a unit of a pair, which listens first): the shaft leaves HALTED at 0:0 in state FREE, with the DPLL in FREERUN
and the time of day counting from there. -/
def execShaftStart (dt : Nat) (s : State) : Host.Outcome State Fault Refusal :=
  let s1 := s.elapse dt
  .next (if s1.halted && s1.shf.startable && !s1.inReset domShaft && !(s1.rdBit Reg.PAR_PAIR_EN 0 && !s1.par.listened) then
      s1.leaveHalted 0 dpllFreerun 1
    else s1)

end Sys2Proof.Machine
end

