-- ==== Sys2Proof/Machine/Paths.lean ====
section
/-! DEFINITION. What an intent asks for: the mapping matrix (Table 08-3), endpoints (Table 09-2), and the
charges and limits of placement (Tables 09-5 and 09-6). -/

namespace Sys2Proof.Machine

/-! ### The mapping matrix -/

/-- The LO containers of a PDH circuit or VC up to a VC-4 (Table 08-3), then the section. -/
def toSection (client : Nat) : Option (List Nat) :=
  match client with
  | 1 => some [8, 0xF, 0xB, 0xE]
  | 2 => some [9, 0xF, 0xB, 0xE]
  | 3 => some [0xA, 0xF, 0xB, 0xE]
  | 4 => some [0xA, 0xF, 0xB, 0xE]
  | 8 => some [0xF, 0xB, 0xE]
  | 9 => some [0xF, 0xB, 0xE]
  | 0xA => some [0xF, 0xB, 0xE]
  | 0xB => some [0xE]
  | 0xC => some [0xE]
  | 0xD => some [0xE]
  | 0xE => some []
  | _ => none

/-- The part of a path up to and with its first `k`. -/
def upToKind (k : Nat) : List Nat → Option (List Nat)
  | [] => none
  | x :: rest => if x = k then some [x] else (upToKind k rest).map (x :: ·)

/-- The containers that a client passes through up to an LO container or a Ralale channel, innermost first
(R297). -/
def pathToLo (client container : Nat) : Option (List Nat) :=
  match container with
  | 8 => if client = 1 then some [8] else none
  | 9 => if client = 2 then some [9] else none
  | 0xA =>
    if client = 3 || client = 4 then some [0xA]
    else if client = 1 then some [8, 0xF, 0xA]
    else if client = 2 then some [9, 0xF, 0xA]
    else if client = 8 || client = 9 then some [0xF, 0xA]
    else none
  | 0xB => (toSection client).bind (upToKind 0xB)
  | 0xE => if client = 0xE then none else toSection client
  | 0x10 =>
    if client = 0x21 then some [0x10]
    else if client = 0xD then none
    else (toSection client).map (· ++ [0x10])
  | 0x11 => (toSection client).map (· ++ [0x11])
  | 0x12 => (toSection client).map (· ++ [0x12])
  | 0x13 => if client = 0x20 then some [0x13] else none
  | 0x14 => if client = 0x20 || client = 0x21 then some [0x14] else none
  | 0x23 => if 1 ≤ client && client ≤ 4 then some [0x23] else none
  | 0x24 => if client = 0x21 then some [0x24] else none
  | _ => none

/-- An LO ODU may enter the HO ODU (Table 08-3). -/
def loInHo (lo ho nts : Nat) : Bool :=
  if ho = 0x15 then lo == 0x10 || lo == 0x11 || lo == 0x12 || lo == 0x13 || lo == 0x14
  else lo == 0x10 || lo == 0x11 || (lo == 0x14 && nts ≤ 8)

/-- The path of a client to its outermost container (R297, R252); `[]` for a client carried as it is. -/
def pathOf (client container nts : Nat) : Option (List Nat) :=
  if container = 0 then some []
  else if container = 0x15 || container = 0x16 then
    if 0x10 ≤ client && client ≤ 0x14 then (if loInHo client container nts then some [container] else none)
    else
      ([0x10, 0x11, 0x12, 0x13, 0x14].findSome? (fun o =>
        if loInHo o container nts then pathToLo client o else none)).map (· ++ [container])
  else pathToLo client container

/-- PROC is one that Table 08-3 offers for the path (R297). -/
def procOk (client container proc : Nat) : Bool :=
  match proc with
  | 0 => true
  | 1 => container == 0x11 || container == 0x12 || (client == 0x11 && container == 0x16)
  | 2 => container == 0x11 || container == 0x12 || container == 0x13 || (container == 0x14 && client == 0x20)
  | 3 => (container == 0x10 && client != 0x21) || container == 0x15 || (container == 0x16 && client != 0x11)
  | 4 => client == 0x21 && (container == 0x10 || container == 0x14)
  | _ => false

/-- A kind of Table 08-1 that a host may name as a client. -/
def clientKind (k : Nat) : Bool :=
  (1 ≤ k && k ≤ 4) || (8 ≤ k && k ≤ 0xE) || (0x10 ≤ k && k ≤ 0x16) || k == 0x18 || (0x20 ≤ k && k ≤ 0x24) || k == 0x31

/-- The first container of the path is made once for each client endpoint. -/
def perClient (client k : Nat) : Bool :=
  ((client == 1 || client == 2) && (k == 8 || k == 9)) || ((client == 3 || client == 4) && k == 0xA) ||
    k == 0x23 || k == 0x24

/-- How many clients of a kind the path's structures hold (Tables 08-8 and 08-9). -/
def pathCapacity (client : Nat) (path : List Nat) : Nat :=
  let vc4 := path.contains 0xB
  if path.contains 0xF then
    (if client = 1 || client = 8 then (if vc4 then 63 else 21)
     else if client = 2 || client = 9 then (if vc4 then 84 else 28)
     else 3)
  else if path = [0x23] || path = [0x24] || path = [] || path = [8] || path = [9] || path = [0xA] then 84
  else if client = 0x21 then 84
  else if client = 0xB then 64
  else 1

/-! ### Endpoints -/

/-- The HO ODU's tributary slots that a lane's mode carries. -/
def hoSlots (mode : Nat) : Nat := if mode = 11 || mode = 12 then 80 else if mode = 5 then 8 else 0

/-- The lane's mode can carry the client as a whole (Tables 05-1 and 08-1). -/
def laneCarries (mode client : Nat) : Bool :=
  match client with
  | 0xE => modeStm mode
  | 0x18 => modeOtu mode
  | 0x12 => mode == 5
  | 0x16 => mode == 5
  | 0x13 => mode == 6
  | 0x15 => mode == 11 || mode == 12
  | 0x20 => mode == 7 || mode == 8
  | 0x21 => mode == 7 || mode == 8
  | 0x22 => mode == 9 || mode == 10
  | _ => false

/-- A TU position of Table 08-9 for a kind. -/
def tuOk (kind tu : Nat) : Bool :=
  let k := tu / 64
  let l := tu / 8 % 8
  let m := tu % 8
  k ≤ 3 && (if kind = 0xA then l == 0 && m == 0 && 1 ≤ k else 1 ≤ l && l ≤ 7 && 1 ≤ m && m ≤ (if kind = 9 then 4 else 3))

/-- The position `n` places after a TU position, in K, L, M order (Table 09-2, Table 08-9). -/
def tuAfter (kind tu n : Nat) : Nat :=
  if kind = 0xA then tu + 64 * n
  else
    let w := if kind = 9 then 4 else 3
    let i := (tu / 64 - 1) * 7 * w + (tu / 8 % 8 - 1) * w + (tu % 8 - 1) + n
    if tu / 64 = 0 then (i / w % 7 + 1) * 8 + (i % w + 1)
    else (i / (7 * w) + 1) * 64 + (i / w % 7 + 1) * 8 + (i % w + 1)

/-- The position of member `k` in a TU structure of a VC-4, or of a VC-3 when `vc3`. -/
def memberPos (kind k : Nat) (vc3 : Bool) : Nat :=
  if kind = 0xA then (k + 1) * 64 else tuAfter kind (if vc3 then 9 else 73) k

/-- The endpoint of member `k` of an intent (Table 09-2). -/
def memberOf (e : Endpoint) (kind k : Nat) : Endpoint :=
  if e.typ = 7 then { e with tu := tuAfter kind e.tu k } else if e.typ = 1 then e else { e with idx := e.idx + k }

/-- The endpoint exists and its lane's mode can carry the kind there (BAD_ENDPOINT, Table 09-9). A CID of
0xFFFF has a reason of its own. -/
def State.endpointOk (s : State) (e : Endpoint) (kind : Nat) : Bool :=
  let m := s.rd Reg.PRT_LANE_MODE e.lane
  match e.typ with
  | 1 => e.lane < 72 && m != 0 && s.portFirst e.lane == e.lane && laneCarries m kind
  | 2 => e.lane < 32 && s.rdBit Reg.PRT_TRB_EN e.lane && (kind == 0x31 ||
      (if s.rdBit Reg.PRT_TRB_LAYOUT e.lane then e.idx < 6 && (kind == 3 || kind == 4)
       else e.idx < 128 && (kind == 1 || kind == 2)))
  | 3 => e.lane < 48 && (m == 9 || m == 10) &&
      ((1 ≤ kind && kind ≤ 4) || kind == 0x21 || kind == 0x23 || kind == 0x24)
  | 4 => e.lane < 48 && (m == 7 || m == 8) && ((1 ≤ e.idx && e.idx ≤ 4094) || e.idx == 0x1000) && kind == 0x21
  | 5 => e.lane < 72 && s.portFirst e.lane == e.lane && e.idx ≤ hoSlots m && hoSlots m != 0 &&
      0x10 ≤ kind && kind ≤ 0x14
  | 6 => e.lane < 48 && modeStm m && 1 ≤ e.idx && 0xA ≤ kind && kind ≤ 0xD &&
      (if kind = 0xA then e.idx ≤ 3 * stmN m else e.idx ≤ stmN m)
  | 7 => e.lane < 48 && modeStm m && 1 ≤ e.idx && e.idx ≤ 3 * stmN m && 8 ≤ kind && kind ≤ 0xA && tuOk kind e.tu
  | _ => false

/-- Two endpoints are the same place. Whole-lane endpoints of different kinds are different (a section and
the OTU or ODU on it). -/
def sameEndpoint (e : Endpoint) (ek : Nat) (f : Endpoint) (fk : Nat) : Bool :=
  e.typ != 0 && e.typ == f.typ && e.lane == f.lane &&
    (match e.typ with
    | 1 => ek == fk
    | 5 => e.idx != 0 && e.idx == f.idx
    | 7 => e.idx == f.idx && e.tu == f.tu
    | 2 => (ek == 0x31) == (fk == 0x31) && (ek == 0x31 || e.idx == f.idx)
    | _ => e.idx == f.idx)

/-- The client endpoints of an intent: source A's members and, where named, source B's. -/
def intentClients (p : Intent) : List Endpoint :=
  let n := max 1 p.count
  (List.range n).map (fun k => memberOf p.srcA p.client k) ++
    (if p.srcB.typ = 0 then [] else (List.range n).map (fun k => memberOf p.srcB p.client k))

/-- The kind at an intent's destination: its container, or the client carried as it is. -/
def intentOuter (p : Intent) : Nat := if p.container = 0 then p.client else p.container

/-- The container is made once for each client, and is the outermost: each has a destination place of its own. -/
def perMember (p : Intent) : Bool :=
  match pathOf p.client p.container p.nts with
  | some [k] => perClient p.client k
  | _ => false

/-- The destination places of an intent: its container's, or one for each of the containers made per client. -/
def intentDests (p : Intent) : List Endpoint :=
  if perMember p then (List.range (max 1 p.count)).map (fun k => memberOf p.dstA p.container k) else [p.dstA]

/-- Every endpoint of an intent with the kind it has there. -/
def intentPlaces (p : Intent) : List (Endpoint × Nat) :=
  (intentClients p).map (fun e => (e, p.client)) ++ (intentDests p).map (fun e => (e, intentOuter p)) ++ [(p.dstB, intentOuter p)]

/-- An endpoint of the intent belongs to another intent already (R316). -/
def State.endpointUsed (s : State) (p : Intent) : Bool :=
  s.ovm.intents.any (fun e => e.2.state != 4 &&
    (intentPlaces e.2.params).any (fun a => (intentPlaces p).any (fun b => sameEndpoint a.1 a.2 b.1 b.2)))

/-- The two links of a Ralale receive group: one context arrives on both (R193). -/
def isRlkGroup (p : Intent) : Bool := p.srcA.typ == 3 && p.srcB.typ == 3

/-! ### Charges and limits -/

/-- Tributary slots of an ODU kind (Table 09-6). -/
def oduSlots (kind nts : Nat) : Nat :=
  match kind with
  | 0x10 => 1
  | 0x11 => 2
  | 0x12 => 8
  | 0x13 => 8
  | 0x14 => nts
  | _ => 0

/-- An LO ODU. -/
def loOdu (kind : Nat) : Bool := 0x10 ≤ kind && kind ≤ 0x14

/-- A VC, and its share of a VC-4 equivalent in 1/252 (R271). -/
def tsiWeight (kind : Nat) : Nat :=
  match kind with
  | 8 => 4
  | 9 => 3
  | 0xA => 84
  | 0xB => 252
  | 0xC => 1008
  | 0xD => 4032
  | _ => 0

/-- The rate of a client carried whole from its lane, b/s, by the lane's mode (Table 05-1). -/
def wholeRate (kind mode : Nat) : Nat :=
  match kind with
  | 0x0E => stmN mode * 155520000
  | 0x20 => if mode = 7 then 10312500000 else 25781250000
  | 0x18 => if mode = 11 || mode = 12 then 100000000000 else 10000000000
  | _ => 0

/-- What a context that carries no other charges its stage, b/s (Table 09-6). -/
def Ctx.stageCharge (x : Ctx) : Nat :=
  match x.kind with
  | 8 => 2048000
  | 9 => 1544000
  | 0xA => 51840000
  | 0xB => 155520000
  | 0xC => 622080000
  | 0xD => 2488320000
  | k => if loOdu k then oduSlots k x.nts * 1250000000 else if k = 0x21 then x.rate * 64000 else pdhRate k

/-- A section, an OTU, an HO ODU, a link or a port: it charges its client payload (Table 09-6). -/
def carrierKind (k : Nat) : Bool :=
  k == 0x0E || k == 0x15 || k == 0x16 || k == 0x18 || k == 0x20 || k == 0x22 || k == 0x23 || k == 0x24 || k == 0x31

/-- The charges of the contexts that a carrier takes directly. -/
def payloadOf (all : Tab Ctx) (c : Nat) : Nat :=
  ((all.filter (fun e => e.2.dest == some c)).map (fun e => e.2.stageCharge)).sum

/-- A context's charge: its own, or a carrier's client payload. -/
def chargeIn (all : Tab Ctx) (c : Nat) (x : Ctx) : Nat := if carrierKind x.kind then payloadOf all c else x.stageCharge

/-- What a sealed ODU charges its pipeline, in units of 100 kb/s (Table 09-6). An ODUflex of 20 slots that
carries 25GBASE-R is charged as ODUflex(CBR). -/
def pipeCharge (kind nts : Nat) (cbr : Bool) : Nat :=
  match kind with
  | 0x10 => 12390
  | 0x11 => 24883
  | 0x12 => 99953
  | 0x13 => 103560
  | 0x14 => if cbr then 257813 else nts * 12963
  | _ => 0

/-- The limits of a stage (b/s) and a pipeline (100 kb/s) (R15, R16). -/
def stageLimit : Nat := 300000000000
def pipeLimit : Nat := 1024000

/-- The context is the outermost in its stage: nothing that carries it is processed there. -/
def outermost (all : Tab Ctx) (dir : Place → Nat) (x : Ctx) : Bool :=
  match x.dest with
  | none => true
  | some p => match tfind all p with
    | none => true
    | some y => !(y.stage && dir y.place == dir x.place)

/-- The charge against a slice's container stage in one direction (R301). -/
def stageLoad (all : Tab Ctx) (dir : Place → Nat) (slice : Nat) : Nat :=
  ((all.filter (fun e => e.2.stage && dir e.2.place == slice && outermost all dir e.2)).map
    (fun e => chargeIn all e.1 e.2)).sum

/-- The slice of the line stage that an endpoint belongs to (R11, R12). -/
def endpointSlice (e : Endpoint) : Nat := if e.typ = 2 then e.lane / 8 else laneSlice e.lane

/-- What a context charges the line stage at one of its ends (R15, Table 09-6): its own charge; a carrier the payload whose
contexts have no end of their own there, or the whole lane's rate when it carries none. -/
def State.lineCharge (s : State) (all : Tab Ctx) (c : Nat) (x : Ctx) : Nat :=
  if !carrierKind x.kind then x.stageCharge
  else if all.any (fun e => e.2.dest == some c || e.2.parent == some c) then
    ((all.filter (fun e => e.2.dest == some c && e.2.endpoint.typ == 0)).map (fun e => e.2.stageCharge)).sum
  else wholeRate x.kind (s.rd Reg.PRT_LANE_MODE x.endpoint.lane)

/-- The charge against a slice's line stage, the same in both directions as circuits are two-way (R15, R301). -/
def State.lineLoad (s : State) (all : Tab Ctx) (slice : Nat) : Nat :=
  (all.map (fun e =>
    ([e.2.endpoint, e.2.endpointB, e.2.out].filter (fun d => d.typ != 0 && endpointSlice d == slice)).length *
      s.lineCharge all e.1 e.2)).sum

/-- What a sealed context charges its pipeline. -/
def Ctx.pipeCharge (x : Ctx) : Nat := Sys2Proof.Machine.pipeCharge x.kind x.nts (x.kind == 0x14 && x.nts == 20 && x.rate == 0)

/-- The charge against a pipeline in one direction (R301). -/
def pipeLoad (all : Tab Ctx) (dir : Place → Nat) (p : Nat) : Nat :=
  ((all.filter (fun e => dir e.2.place == p)).map (fun e => e.2.pipeCharge)).sum

/-- The TSI's VC-4 equivalents out of, into and over all slices, in 1/252 (R271). A context crosses the TSI
when its VC is made at a gate or leaves one container for another. -/
def Ctx.crosses (x : Ctx) : Bool := tsiWeight x.kind != 0 && x.stage && x.dest.isSome
def tsiLoad (all : Tab Ctx) (f : Place → Bool) : Nat :=
  ((all.filter (fun e => e.2.crosses && f e.2.place)).map (fun e => tsiWeight e.2.kind)).sum

/-- The load of a Ralale link (R190). -/
def linkLoad (all : Tab Ctx) (lane : Nat) : Nat :=
  ((all.filter (fun e => [e.2.endpoint, e.2.endpointB, e.2.out].any (fun d => d.typ == 3 && d.lane == lane))).map
    (fun e => tubLoad all e.1 e.2)).sum

/-- 250 tubs per frame, in eighths of b/s (R190, Table 06-1). -/
def linkLimit (mode : Nat) : Nat := if mode = 9 then 68359375000 else 170898437500

/-! ### Free resources -/

/-- The lowest `n` free context IDs (R299). -/
def State.freeCtxs (s : State) (n : Nat) : List Nat :=
  let held := s.ovm.freed.filter (fun e => decide (s.addr < e.2 + Config.epochPos))
  ((List.range 49152).filter (fun c => (tfind s.ovm.ctxs c).isNone && !(held.any (fun e => e.1 == c)))).take n

/-- The lowest run of `n` free grains (R269). -/
def grainRun (all : Tab Ctx) (n : Nat) : Option Nat :=
  let free (g : Nat) : Bool := !(all.any (fun e => e.2.place.grain != 0xFFFF && e.2.place.grain ≤ g &&
    g < e.2.place.grain + e.2.place.grains))
  (List.range (1025 - n)).find? (fun g => (List.range n).all (fun i => free (g + i)))

/-- The grains in use. -/
def grainsUsed (all : Tab Ctx) : Nat := (all.map (fun e => if e.2.place.grain = 0xFFFF then 0 else e.2.place.grains)).sum

/-- The lowest run of `n` free tributary slots of a lane's HO ODU. -/
def slotRun (all : Tab Ctx) (lane slots n : Nat) : Option Nat :=
  let free (t : Nat) : Bool := !(all.any (fun e => e.2.endpoint.typ == 5 && e.2.endpoint.lane == lane &&
    e.2.place.ts ≤ t && t < e.2.place.ts + oduSlots e.2.kind e.2.nts))
  ((List.range (slots + 1 - n)).map (· + 1)).find? (fun t => (List.range n).all (fun i => free (t + i)))

/-- The lowest free queue below 65,488 (R107). -/
def State.freeQueue (s : State) (all : Tab Ctx) : Option Nat :=
  (List.range 65488).find? (fun q => (s.queue q).isNone && !(all.any (fun e => e.2.place.queues != 0 && e.2.place.queue == q)))

/-- Among the unusable units, the whole HBM stack, and region r of it (R576). -/
def hbmUnit : Nat := 0x100000
def hbmRegion (r : Nat) : Nat := 4096 + r

/-- The lowest free HBM region that is usable (R576). -/
def freeHbm (all : Tab Ctx) (unusable : List Nat) : Nat :=
  ((List.range 49152).find? (fun r => !(all.any (fun e => e.2.place.hbm == r)) && !unusable.contains (hbmRegion r))).getD 0

/-- Context entries due at a position in a cycle of the epoch (R213). -/
def entriesAt (all : Tab Ctx) (pos cyc : Nat) : Nat :=
  ((all.filter (fun e => kindHasOverhead e.2.kind)).map (fun e =>
    ofBool (e.2.place.extPos == pos && (e.2.cyclic || e.2.place.extCyc == cyc)) +
    ofBool (e.2.place.insPos == pos && (e.2.cyclic || e.2.place.insCyc == cyc)))).sum

/-- Entries of the active bank that belong to no context and fall due there, with the fixed entries. -/
def State.otherAt (s : State) (pos cyc : Nat) : Nat :=
  ((s.activeBank.filter (fun e => e.2.cls != 1 && e.2.cls != 2 && e.2.pos == pos &&
    (e.2.period == 3 || entryFires e.2 cyc))).length) +
    ofBool (pos == 0 && cyc % 4 == 0) + ofBool (pos == s.doorbellPos)

/-- The lowest schedule position (and cycle of the epoch) with room for one more entry, after `used` taken
by the same intent (R42, R302). -/
def State.freePos (s : State) (all : Tab Ctx) (cyclic : Bool) (used : List (Nat × Nat)) : Option (Nat × Nat) :=
  let load (p c : Nat) : Nat := entriesAt all p c + s.otherAt p c +
    (used.filter (fun u => u.1 == p && (u.2 == c || u.2 == 32))).length
  (List.range Config.cyclePos).findSome? (fun p =>
    if cyclic then (if (List.range 32).all (fun c => load p c < 8) then some (p, 32) else none)
    else ((List.range 32).find? (fun c => load p c < 8)).map (fun c => (p, c)))

/-! ### Limits -/

/-- Every link keeps within its tubs (R190). -/
def State.linksKept (s : State) (all : Tab Ctx) : Bool :=
  (List.range 48).all (fun l =>
    let m := s.rd Reg.PRT_LANE_MODE l
    !(m == 9 || m == 10) || decide (linkLoad all l ≤ linkLimit m))

/-- Every stage, pipeline and the fabrics keep within their limits (R15, R16, R301, Table 09-5). -/
def State.limitsKept (s : State) (all : Tab Ctx) : Bool :=
  (List.range 4).all (fun n =>
    decide (stageLoad all (·.inSlice) n ≤ stageLimit) && decide (stageLoad all (·.egSlice) n ≤ stageLimit) &&
    decide (s.lineLoad all n ≤ stageLimit) &&
    decide (tsiLoad all (fun q => q.inSlice == n) ≤ 256 * 252) && decide (tsiLoad all (fun q => q.egSlice == n) ≤ 256 * 252)) &&
  decide (tsiLoad all (fun _ => true) ≤ 1024 * 252) && decide (grainsUsed all ≤ 1024) &&
  (List.range 24).all (fun p =>
    decide (pipeLoad all (·.pipeIn) p ≤ pipeLimit) && decide (pipeLoad all (·.pipeEg) p ≤ pipeLimit))

/-- No position has more than eight context entries with the other entries that fall due there (R42). -/
def State.positionsKept (s : State) (all : Tab Ctx) : Bool :=
  (all.filter (fun e => kindHasOverhead e.2.kind)).all (fun e =>
    let fits (p c : Nat) : Bool := decide (entriesAt all p c + s.otherAt p c ≤ 8)
    if e.2.cyclic then (List.range 32).all (fun c => fits e.2.place.extPos c && fits e.2.place.insPos c)
    else fits e.2.place.extPos e.2.place.extCyc && fits e.2.place.insPos e.2.place.insCyc)

end Sys2Proof.Machine
end

