-- ==== Sys2Proof/Machine/Slew.lean ====
section
/-! DEFINITION. Load steps and the slew limit (R428, R431), and what each step does. -/

namespace Sys2Proof.Machine

/-- The end of a last gasp is under way or over (ENG_STATE 3 LAST_GASP, 4 STOPPED). -/
def State.gasping (s : State) : Bool := 3 ≤ s.rd Reg.ENG_STATE 0

/-- The Overman's number of a container stage and of a line stage: direction 0 ingress, 1 egress. -/
def stageUnit (slice dir : Nat) : Nat := 256 + 2 * slice + dir
def lineUnit (slice dir : Nat) : Nat := 264 + 2 * slice + dir

/-- A unit's step when it is gated or woken, in 10 mW (Table 13-3): container stages are numbered 256 to 263. -/
def unitPrice (u : Nat) : Nat := if 256 ≤ u && u < 264 then 36 else 8

/-- The HBM's step from one state to another, in 10 mW (Table 13-3); LP1 to LP2 and back is not listed. -/
def hbmPrice (old new : Nat) : Nat :=
  if (old = 0 && new = 1) || (old = 1 && new = 0) then 80
  else if (old = 0 && new = 2) || (old = 2 && new = 0) then 130
  else 0

/-- The projected charge of an intent, in 10 mW. -/
def State.chargeOf (s : State) (i : Nat) : Nat := match tfind s.ovm.intents i with | some x => x.charge | none => 0

/-- A load step's size in 10 mW (Table 13-3). -/
def State.stepPrice (s : State) : LoadStep → Nat
  | .gate u => unitPrice u
  | .wake u => unitPrice u
  | .hbm k => hbmPrice (s.rd Reg.ENG_HBM_STATE 0) k
  | .shed i => s.chargeOf i

/-- The contexts, placed or pending, with those that a planned move has at their new place as well (R29). -/
def State.heldPlaces (s : State) : Tab Ctx :=
  s.ovm.ctxs ++ (s.ovm.moves ++ s.ovm.moveWaits).filterMap (fun m =>
    (tfind s.ovm.ctxs m.ctx).map (fun x => (m.ctx, { x with place := m.place })))

/-- No context, placed or pending, and no bulk message uses the unit (Table 01-6, R29). -/
def State.unitIdle (s : State) (u : Nat) : Bool :=
  let all := s.heldPlaces
  if u < 24 then
    !(all.any (fun e => e.2.place.pipeIn == u || e.2.place.pipeEg == u)) &&
      (let x := tget {} s.cip.pipes u
       x.run.isNone && x.suspended.isEmpty && x.waiting.isEmpty)
  else if u < 1024 then
    !(all.any (fun e => e.2.stage && (if u % 2 = 0 then stageUnit e.2.place.inSlice 0 else stageUnit e.2.place.egSlice 1) == u))
  else if u < 2048 then
    !(all.any (fun e => [e.2.endpoint, e.2.endpointB, e.2.out].any (fun d =>
      laneEndpoint d && (d.lane == u - 1024 || d.lane == s.portFirst (u - 1024)))))
  else !(all.any (fun e => e.2.trbEnd.typ == 2 && e.2.trbEnd.lane == u - 2048))

/-- A unit is gated (R428, R158), unless it is in use, wakes, or is gated already (R28, R29). -/
def State.gateUnit (s : State) (u : Nat) : State :=
  if !s.unitIdle u || s.ovm.waking.contains u || s.ovm.gated.contains u then s
  else
    let s1 : State := { s with ovm := { s.ovm with gated := s.ovm.gated ++ [u] } }
    if 2048 ≤ u then
      ({ s1 with prt := { s1.prt with trbGated := s1.prt.trbGated ++ [u - 2048] } } : State).trbRestart (u - 2048)
    else if 1024 ≤ u then (s1.wrBit Reg.PRT_LANE_GATED (u - 1024) true).laneRestart (u - 1024)
    else s1

/-- An intent that is PLACED is shed (R430): its contexts go at the next swap. -/
def State.shedNow (s : State) (i : Nat) : State :=
  match tfind s.ovm.intents i with
  | none => s
  | some x =>
    if x.state != 1 then s
    else
      let s1 : State := { s with ovm := { s.ovm with
        intents := tset s.ovm.intents i { x with state := 2 }, shedding := s.ovm.shedding ++ [i] } }
      s1.raise Ev.OVM_SHED (srcIntent i) [(4, i), (1, x.params.shed % 4)]

/-- A load step is made. -/
def State.makeStep (s : State) : LoadStep → State
  | .gate u => s.gateUnit u
  | .wake u =>
    if s.ovm.gated.contains u && !s.ovm.waking.contains u then { s with ovm := { s.ovm with waking := s.ovm.waking ++ [u] } } else s
  | .hbm k => s.wr Reg.ENG_HBM_STATE 0 k
  | .shed i => s.shedNow i

/-- ENG_SLEW in 10 mW; 0 acts as 1 (Table 13-5). -/
def State.slewLimit (s : State) : Nat := 10 * max 1 (s.rd Reg.ENG_SLEW 0)

/-- The slew window of now: windows of 15,552 positions, counted from 0:0 (log entry 36). -/
def State.slewWindow (s : State) : Nat := s.addr / Config.hundredUsPos

/-- What the window of now has admitted. -/
def State.slewSum (s : State) : Nat := if s.eng.winAt = s.slewWindow then s.eng.winSum else 0

/-- A step fits into the window (R431): a single larger one only into an empty window. -/
def State.slewFits (s : State) (price : Nat) : Bool := s.slewSum == 0 || decide (s.slewSum + price ≤ s.slewLimit)

/-- The window admits a step. -/
def State.slewCharge (s : State) (price : Nat) : State :=
  { s with eng := { s.eng with winAt := s.slewWindow, winSum := s.slewSum + price } }

/-- A load step is made, or waits for the next window and is counted (R431). R431 is suspended in a last gasp (R434). -/
def State.loadStep (s : State) (x : LoadStep) : State :=
  let p := s.stepPrice x
  if s.gasping || p = 0 then s.makeStep x
  else if s.eng.waiting.isEmpty && s.slewFits p then (s.slewCharge p).makeStep x
  else if s.eng.waiting.contains x then s
  else ({ s with eng := { s.eng with waiting := s.eng.waiting ++ [x] } } : State).count Reg.ENG_SLEW_DEFER_CNT 0

/-- The steps that waited are made as the window admits them, in order; those left are counted again (log entry 36). -/
def State.admitSteps (s : State) : List LoadStep → State
  | [] => { s with eng := { s.eng with waiting := [] } }
  | x :: rest =>
    let p := s.stepPrice x
    if s.gasping || s.slewFits p then State.admitSteps ((s.slewCharge p).makeStep x) rest
    else ({ s with eng := { s.eng with waiting := x :: rest } } : State).countBy Reg.ENG_SLEW_DEFER_CNT 0 (rest.length + 1)

/-- SLEW_WINDOW (R431): a new window of 15,552 positions admits load steps that waited. -/
def execSlewWindow (dt : Nat) (s : State) : Host.Outcome State Fault Refusal :=
  let s1 := s.toBoundary dt Config.hundredUsPos
  .next (s1.admitSteps s1.eng.waiting)

/-- A context keeps data in HBM: a differential-delay buffer or a packet queue (R25). -/
def State.hbmUsed (s : State) : Bool :=
  s.ovm.ctxs.any (fun e => e.2.active && (e.2.place.hbm != 0xFFFFFFFF || e.2.place.queues != 0))

end Sys2Proof.Machine
end

