-- ==== Sys2Proof/Machine/Placement.lean ====
section
/-! DEFINITION. The Overman (R297 to R320): admission of intents, pins, results, defragmentation, the plan
of moves, held commands and its engines. Arming and the swap stand in Swap. -/

namespace Sys2Proof.Machine

/-! ### Units -/

/-- The ageing index of a monitor (R606): hewer h as h, pipeline p as 96 + p. -/
def State.ageIndex (s : State) (u : Nat) : Nat := (tget (0, 0) s.bkg.ages u).1

/-- The slice-mates of a hewer's or a pipeline's monitor, by which reason 3 judges it (R607). -/
def ageMates (m : Nat) : List Nat :=
  if m < 96 then (List.range 24).map (fun k => m / 24 * 24 + k)
  else (List.range 6).map (fun k => 96 + (m - 96) / 6 * 6 + k)

/-- The least index among the units of the same kind in a unit's slice (R607). -/
def State.leastAged (s : State) (m : Nat) : Nat := (ageMates m).foldl (fun a k => min a (s.ageIndex k)) (s.ageIndex m)

/-- The unit's index exceeds the least-aged unit of its kind and slice by more than BKG_WEAR_MARGIN (R607). -/
def State.overMargin (s : State) (m : Nat) : Bool := decide (s.rd Reg.BKG_WEAR_MARGIN 0 < s.ageIndex m - s.leastAged m)

/-- The hewer is in reset. -/
def State.hewerReset (s : State) (h : Nat) : Bool :=
  if h < 32 then bitOf (s.rd Reg.RST_HEWER_ACTIVE_LO 0) h
  else if h < 64 then bitOf (s.rd Reg.RST_HEWER_ACTIVE_MID 0) (h - 32)
  else bitOf (s.rd Reg.RST_HEWER_ACTIVE_HI 0) (h - 64)

/-- The hewer is in reset, or failed its self-test (R30, R576; numbered 512 + h among the unusable units). -/
def State.hewerBad (s : State) (h : Nat) : Bool := s.hewerReset h || s.ovm.unusable.contains (512 + h)

/-- The hewers that the Overman runs on (OVM_HEWERS). -/
def State.ovmHewers (s : State) : List Nat :=
  (List.range 96).filter (fun h =>
    if h < 32 then bitOf (s.rd Reg.OVM_HEWERS_LO 0) h
    else if h < 64 then bitOf (s.rd Reg.OVM_HEWERS_MID 0) (h - 32)
    else bitOf (s.rd Reg.OVM_HEWERS_HI 0) (h - 64))

/-- The one of a list with the least key, the earlier on a tie. -/
def leastBy (key : Nat → Nat) : List Nat → Option Nat
  | [] => none
  | x :: rest =>
    match leastBy key rest with
    | none => some x
    | some y => if key x ≤ key y then some x else some y

/-- The hewer runs work other than a schedule entry: an Overman duty, or seconds that PM firmware has yet to read (R21). -/
def State.hewerWork (s : State) (h : Nat) : Bool :=
  s.ovmHewers.contains h || s.pm.points.any (fun e => (e.2.unread || e.2.pend != []) && s.pointHewer e.1 == h)

/-- An entry falls due for a hewer at a shaft address, from the active bank or carried to it (R43, Table 02-2). -/
def State.hewerDue (s : State) (h a : Nat) : Bool :=
  let p := a % Config.cyclePos
  let hit (e : SchedEntry) : Bool := [0x0, 0x1, 0x2].contains e.cls && e.target == h
  s.activeBank.any (fun e => e.2.valid && hit e.2 && e.2.pos == p && entryFires e.2 (a / Config.cyclePos) &&
    !(e.2.period == 3 && s.activeSpent.contains e.1)) ||
    (s.shf.carriedAt == a && s.shf.carried.any hit) || (s.shf.firedAt == some a && s.shf.fired.any hit)

/-- A hewer's clock runs, and is gated otherwise (R21, R27, R43, Table 01-6): by the position before an entry for it, at
that position, and while it has other work. -/
def State.hewerClock (s : State) (h : Nat) : Bool :=
  !s.halted && (s.hewerDue h s.addr || s.hewerDue h (s.addr + 1) || s.hewerWork h)

/-- A hewer that owns overhead or runs other work does not stay gated throughout (R21). -/
def State.hewerAwake (s : State) (h : Nat) : Bool :=
  s.ovm.ctxs.any (fun e => kindHasOverhead e.2.kind && e.2.place.hewer == h) || s.hewerWork h

/-- The hewer may take overhead: not in reset or failed, not one of the Overman's, and not full (Table 09-5). -/
def State.hewerOk (s : State) (obs : OvmObs) (h : Nat) : Bool :=
  !obs.fullHewers.contains h && !s.hewerBad h && !s.ovmHewers.contains h

/-- The hewers with room for more work, in the order of R302: of the slice (R17), awake before gated, then the least aged,
then the lowest-numbered. -/
def State.pickHewer (s : State) (obs : OvmObs) (slice : Nat) : Option Nat :=
  let key (h : Nat) : Nat :=
    (if h / 24 = slice then 0 else 2 ^ 34) + (if s.hewerAwake h then s.ageIndex h else 2 ^ 33) * 128 + h
  leastBy key ((List.range 96).filter (s.hewerOk obs))

/-- The pipeline of a slice with room for a charge in one direction, in the order of R302 (R16). -/
def State.pickPipe (s : State) (dir : Place → Nat) (slice charge : Nat) : Option Nat :=
  let ok := ((List.range 24).filter (fun p => p / 6 == slice)).filter (fun p =>
    pipeLoad s.ovm.ctxs dir p + charge ≤ pipeLimit && !s.ovm.unusable.contains p)
  leastBy (fun p => (if s.ovm.gated.contains p then 2 ^ 33 else s.ageIndex (96 + p)) * 128 + p) ok

/-- The container-stage slices that may take work, awake ones first, then the lowest-numbered (R302, R30, R31). -/
def State.stageSlices (s : State) : List Nat :=
  let ok := (List.range 4).filter (fun n =>
    !s.ovm.unusable.contains (stageUnit n 0) && !s.ovm.unusable.contains (stageUnit n 1) && !s.inReset (3 + n))
  let asleep (n : Nat) : Bool := s.ovm.gated.contains (stageUnit n 0) || s.ovm.gated.contains (stageUnit n 1)
  ok.filter (fun n => !asleep n) ++ ok.filter asleep

/-- The slices to try for the container stages of the two legs, in the order of R302: different slices first. -/
def legPairs (twoLegs : Bool) (l : List Nat) : List (Nat × Nat) :=
  if twoLegs then (l.map (fun a => (l.filter (fun b => b != a)).map (fun b => (a, b)))).flatten ++ l.map (fun a => (a, a))
  else l.map (fun a => (a, a))

/-! ### Admission -/

/-- The placed context that carries what is at an endpoint (Table 08-1). -/
def State.hoAt (s : State) (e : Endpoint) (kind : Nat) : Option Nat :=
  let want : List Nat :=
    match e.typ with
    | 1 => if kind = 0x15 || kind = 0x16 || kind = 0x12 || kind = 0x13 then [0x18] else []
    | 2 => if kind = 0x31 then [] else [0x31]
    | 3 => [0x22]
    | 4 => [0x20]
    | 5 => [0x15, 0x16]
    | 6 => [0x0E]
    | 7 => [0x0E]
    | _ => []
  (s.ovm.ctxs.find? (fun c => want.contains c.2.kind && c.2.endpoint.lane == e.lane &&
    c.2.endpoint.typ == (if e.typ = 2 then 2 else 1))).map (·.1)

/-- The containers of an intent made once: all of its path but a first one made per client. -/
def sharedKinds (client : Nat) (path : List Nat) : List Nat :=
  match path with
  | [] => []
  | k :: rest => if perClient client k then rest else path

/-- The first container of the path where it is made per client. -/
def innerKind (client : Nat) (path : List Nat) : Option Nat :=
  match path with
  | [] => none
  | k :: _ => if perClient client k then some k else none

/-- An end on an uplink port that is not Etund's, in pair operation (R419). -/
def State.bareEnd (s : State) (e : Endpoint) : Bool :=
  s.paired && (e.typ == 1 || e.typ == 5) && 48 ≤ e.lane && e.lane < 72 &&
    !bitOf (s.rd Reg.PAR_PORT_ETUND 0) (s.portFirst e.lane - 48)

/-- The two units' copies of an intent's ODU form a protection group (R419). -/
def State.pairCopies (s : State) (p : Intent) (path : List Nat) : Bool :=
  p.prot == 0 && [p.srcA, p.dstA].any s.bareEnd && (p.client :: path).any kindOdu

/-- What an intent becomes, before resources are given: each context's kind, client endpoint and member
number, in the order of R299: clients, containers per client, shared containers, the bridge, the group. The
first number is 0 for a client of source A, 1 of source B, 2 for a container per client, 3 for a shared
one, 4 for the bridge, 5 for the group, which the copies of a pair form too (R419). -/
def intentParts (p : Intent) (path : List Nat) (pair : Bool) : List (Nat × Nat × Nat) :=
  let n := max 1 p.count
  let members (role kind : Nat) : List (Nat × Nat × Nat) := (List.range n).map (fun k => (role, kind, k))
  members 0 p.client ++ (if p.srcB.typ = 0 || isRlkGroup p then [] else members 1 p.client) ++
    (match innerKind p.client path with
      | some k => members 2 k
      | none => []) ++
    (sharedKinds p.client path).mapIdx (fun j k => (3, k, j)) ++
    (if p.dstB.typ = 0 then [] else [(4, intentOuter p, 0)]) ++ (if p.prot = 0 && !pair then [] else [(5, 0x30, 0)])

/-- The context that SEAL applies to: the outermost LO ODU built, or the client carried as it is (R280). -/
def sealedPart (p : Intent) (path : List Nat) (part : Nat × Nat × Nat) : Bool :=
  p.sealing % 4 != 0 && loOdu part.2.1 &&
    (if path.any loOdu then part.1 == 3 || part.1 == 4 else part.1 ≤ 1)

/-- The part is processed in a container stage (R13, R19, R256). -/
def stagePart (p : Intent) (path : List Nat) (part : Nat × Nat × Nat) : Bool :=
  if part.1 ≤ 1 then
    (8 ≤ part.2.1 && part.2.1 ≤ 0xD && (path != [] || p.prot != 0)) || (loOdu part.2.1 && (p.sealing % 4 != 0 || p.prot == 8))
  else part.2.1 != 0x30 && part.2.1 != 0x23 && part.2.1 != 0x24 && part.2.1 != 0x15 && part.2.1 != 0x16 &&
    (part.1 != 4 || path != [])

/-- The ODUflex of the intent carries 25GBASE-R bit-transparently (Table 08-3). -/
def isCbr (p : Intent) : Bool := p.client == 0x20

/-- Tributary slots of a part: those of NTS, or 20 for 25GBASE-R. -/
def partSlots (p : Intent) (kind : Nat) : Nat := if kind = 0x14 then (if isCbr p then 20 else p.nts) else 0

/-- The slices chosen for an intent: of its first line stage and of the container stages of the two legs. -/
structure Chosen where
  line   : Nat
  slice  : Nat
  sliceB : Nat

/-- The record of one part (Table 08-2), but for its hewer, pipelines, schedule positions, grains, queue and HBM region. -/
def partCtx (s : State) (p : Intent) (path : List Nat) (ids : List Nat) (g : Nat) (c : Chosen)
    (part : Nat × Nat × Nat) : Ctx :=
  let n := max 1 p.count
  let nB := if p.srcB.typ = 0 || isRlkGroup p then 0 else n
  let inner := (innerKind p.client path).isSome
  let shared := sharedKinds p.client path
  let firstInner := n + nB
  let firstShared := firstInner + (if inner then n else 0)
  let id (i : Nat) : Option Nat := ids[i]?
  let role := part.1
  let kind := part.2.1
  let k := part.2.2
  let stage := stagePart p path part
  let legB := role == 1
  let src := memberOf (if legB then p.srcB else p.srcA) p.client k
  let dst := if role = 4 then p.dstB else if role = 2 then memberOf p.dstA kind k else p.dstA
  let isLast := (role == 2 && shared.isEmpty) || (role == 3 && k + 1 == shared.length) || role == 4
  let vc3 := shared.head? == some 0xF && shared.getD 1 0 == 0xA
  let dest : Option Nat :=
    if role ≤ 1 then (if inner then id (firstInner + k) else if shared.isEmpty then s.hoAt p.dstA kind else id firstShared)
    else if role = 2 then (if shared.isEmpty then s.hoAt dst kind else id firstShared)
    else if role = 3 then (if isLast then s.hoAt dst kind else id (firstShared + k + 1))
    else if role = 4 then s.hoAt dst kind
    else none
  let sl := if legB then c.sliceB else c.slice
  let sealed := sealedPart p path part
  let seq := p.sealing % 4 == 1
  let pair := s.pairCopies p path && (role == 5 || (kindOdu kind && [src, dst].any s.bareEnd))
  let far := if role ≤ 1 then src else dst
  let own := if far.typ = 0 then c.line else endpointSlice far
  { intent := p.id, kind := kind,
    parent := if role ≤ 1 then s.hoAt src kind else dest,
    endpoint := if role ≤ 1 then src else if isLast then dst else {},
    endpointB := if role = 0 && isRlkGroup p then memberOf p.srcB p.client k else {},
    out := if role = 0 && path.isEmpty then p.dstA else {},
    dest := dest,
    pos := if role ≤ 2 && shared.head? == some 0xF then memberPos kind k vc3
      else if isLast && dst.typ = 6 then dst.idx else if isLast && dst.typ = 7 then dst.tu
      else if kind = 0xB || kind = 0xC || kind = 0xD then k + 1 else 0,
    place := { inSlice := if stage then (if role = 2 then c.line else sl) else own,
               egSlice := if stage then sl else own,
               lineSlice := own },
    sealed := sealed && !seq, priv := sealed && p.sealing % 4 == 3, scSeq := sealed && seq && !pair,
    block := 8 * 2 ^ (p.sealing / 4 % 4), key := p.key,
    protect := p.prot != 0 && role ≤ 1, hitless := p.prot == 8 && role ≤ 1,
    group := if (p.prot != 0 && (role ≤ 1 || role = 5)) || pair then g else 0x7FF,
    nts := partSlots p kind, rate := if p.client = 0x21 then p.rate else 0,
    stage := stage,
    cyclic := (p.prot != 0 && role ≤ 1) || pair }

/-- The slice of the stage that processes a context's overhead (R17). -/
def Ctx.ownSlice (x : Ctx) (q : Place) : Nat := if x.stage then q.egSlice else q.lineSlice

/-- A part gets its hewer, pipelines, positions, grains, tributary slot, queue and HBM region from what `s` has free. -/
def State.settlePart (s : State) (obs : OvmObs) (x : Ctx) : Option Ctx :=
  let all := s.ovm.ctxs
  let slots := oduSlots x.kind x.nts
  let ends := if x.endpoint.typ = 5 then x.endpoint else x.out
  let grains := if loOdu x.kind then slots else 0
  let mode := s.rd Reg.PRT_LANE_MODE ends.lane
  let ts : Option Nat := if ends.typ != 5 then some 0 else if ends.idx != 0 then some ends.idx
    else slotRun all ends.lane (hoSlots mode) slots
  let grain : Option Nat := if grains = 0 then some 0xFFFF else grainRun all grains
  let pos : Option ((Nat × Nat) × (Nat × Nat)) :=
    if kindHasOverhead x.kind then
      match s.freePos all x.cyclic [] with
      | none => none
      | some a => (s.freePos all x.cyclic [a]).map (fun b => (a, b))
    else some ((0, 0), (0, 0))
  let queue : Option Nat := if x.kind = 0x21 then s.freeQueue all else some 0
  let needsHbm := x.hitless || x.endpointB.typ == 3
  let pipe (dir : Place → Nat) (slice : Nat) : Option Nat :=
    if x.sealed then s.pickPipe dir slice x.pipeCharge else some 0xFF
  match ts, grain, pos, queue, s.pickHewer obs (x.ownSlice x.place), pipe (·.pipeIn) x.place.inSlice, pipe (·.pipeEg) x.place.egSlice with
  | some t, some g, some q, some qu, some h, some pi, some pe =>
    if (needsHbm || x.kind == 0x21) && s.ovm.unusable.contains hbmUnit then none
    else some { x with cross := kindHasOverhead x.kind && h / 24 != x.ownSlice x.place, place := { x.place with
      hewer := h, pipeIn := pi, pipeEg := pe, ts := t, grain := g, grains := grains, extPos := q.1.1, extCyc := q.1.2 % 32, insPos := q.2.1,
      insCyc := q.2.2 % 32, queue := qu, queues := ofBool (x.kind == 0x21),
      hbm := if needsHbm then freeHbm all s.ovm.unusable else 0xFFFFFFFF } }
  | _, _, _, _, _, _, _ => none

/-- Parts are settled one after another, each seeing those before it. -/
def State.settleParts (s : State) (obs : OvmObs) : List (Nat × Ctx) → Option State
  | [] => some s
  | (i, x) :: rest =>
    match s.settlePart obs x with
    | none => none
    | some y => State.settleParts { s with ovm := { s.ovm with ctxs := tset s.ovm.ctxs i y } } obs rest

/-- The lowest group number not in use (11 bits, 0x7FF for none). -/
def State.freeGroup (s : State) : Nat :=
  ((List.range 0x7FF).find? (fun g => (tfind s.frm.groups g).isNone && !(s.ovm.ctxs.any (fun e => e.2.group == g)))).getD 0

/-- The gated units that a context uses (R28): container stages, pipelines, lanes (as 1,024 + L) and tributary links (as
2,048 + n). -/
def State.gatedUnits (s : State) (x : Ctx) : List Nat :=
  let ends := [x.endpoint, x.endpointB, x.out]
  ((if x.stage then [stageUnit x.place.inSlice 0, stageUnit x.place.egSlice 1] else []) ++ [x.place.pipeIn, x.place.pipeEg]).filter
      s.ovm.gated.contains ++
    (((ends.filter laneEndpoint).map (·.lane)).filter (fun l => s.rdBit Reg.PRT_LANE_GATED l)).map (1024 + ·) ++
    (((ends.filter (fun e => e.typ == 2)).map (·.lane)).filter s.prt.trbGated.contains).map (2048 + ·)

/-- Whether the free room of all units of each kind together would suffice, with no single charge above a unit (R310 reason 1),
for contexts that have no units yet. -/
def State.roomInSum (s : State) (parts : List (Nat × Ctx)) : Bool :=
  let all := s.ovm.ctxs ++ parts
  let lone (dir : Place → Nat) : Nat := ((List.range 4).map (fun n => stageLoad all dir n)).sum
  let pipes := (all.map (fun e => if e.2.sealed then e.2.pipeCharge else 0)).sum
  decide (lone (·.inSlice) ≤ 4 * stageLimit) && decide (lone (·.egSlice) ≤ 4 * stageLimit) &&
    parts.all (fun e => decide (chargeIn all e.1 e.2 ≤ stageLimit) && (!e.2.sealed || decide (e.2.pipeCharge ≤ pipeLimit))) &&
    decide (pipes ≤ 24 * pipeLimit) && decide (tsiLoad all (fun _ => true) ≤ 1024 * 252) &&
    decide (grainsUsed s.ovm.ctxs + (parts.map (fun e => if loOdu e.2.kind then oduSlots e.2.kind e.2.nts else 0)).sum ≤ 1024)

/-- Sealing is refused: by the lifecycle state (Table 18-7), or as the epoch of new directions is above a
reservation that could not be stored (R365). -/
def State.sealingShut (s : State) : Bool :=
  s.rd Reg.SEC_LIFECYCLE 0 == 0 || s.rd Reg.SEC_LIFECYCLE 0 == 3 ||
    (s.cip.resvFail && decide (s.rd Reg.CIP_EPOCH_RESV 0 < s.rd Reg.CIP_EPOCH_CUR 0))

/-- Admission (R299 to R303): the state with the intent's contexts reserved and its entry made, or the reason
against it: 0 when moves could make room and it waits, otherwise a code of Table 09-9. The first slices in the order of R302
that keep every limit of R301 are taken. -/
def State.acceptIntent (s : State) (p : Intent) (obs : OvmObs) (old : IntentSt) : Except Nat State :=
  let path := (pathOf p.client p.container p.nts).getD []
  let parts := intentParts p path (s.pairCopies p path)
  let ids := s.freeCtxs parts.length
  let real := parts.any (sealedPart p path) && p.sealing % 4 != 1
  let sealedNow := (s.ovm.ctxs.filter (fun e => e.2.sealed)).length
  let privNow := (s.ovm.ctxs.filter (fun e => e.2.priv)).length
  let newSealed := if real then (parts.filter (sealedPart p path)).length else 0
  let staged := parts.filter (stagePart p path)
  let twoLegs := staged.any (fun q => q.1 == 1)
  let line := endpointSlice p.srcA
  let g := if p.prot = 0 && !s.pairCopies p path then 0x7FF else s.freeGroup
  let records (a b : Nat) : List (Nat × Ctx) :=
    ids.zip (parts.map (partCtx s p path ids g { line := line, slice := a, sliceB := b }))
  let tries := if staged.isEmpty then [(line, line)] else legPairs twoLegs s.stageSlices
  let attempt (t : Nat × Nat) : Option (State × Bool) :=
    ((s.settleParts obs (records t.1 t.2)).filter (fun b => b.limitsKept b.ovm.ctxs)).map (fun b => (b, twoLegs && t.1 == t.2))
  if ids.length < parts.length then .error 6
  else if real && (2048 < sealedNow + newSealed || (p.sealing % 4 == 3 && 64 < privNow + newSealed) || s.sealingShut) then .error 7
  else if !s.linksKept (s.ovm.ctxs ++ records line line) then .error 5
  else if obs.overBudget || s.rd Reg.ENG_STATE 0 = 2 then .error 8
  else match tries.findSome? attempt with
    | none => .error (if s.roomInSum (records line line) then 0 else 5)
    | some (s1, shared) =>
      if 65536 < (s1.ovm.ctxs.filter (fun e => kindHasOverhead e.2.kind)).length then .error 5
      else
        let wake := ((ids.filterMap s1.ctx?).map s.gatedUnits).flatten.dedup
        let it : IntentSt := { old with ctxs := ids, group := g, shared := shared, wake := wake }
        let s2 : State := { s1 with ovm := { s1.ovm with intents := tset s1.ovm.intents p.id it } }
        .ok (wake.foldl (fun a u => a.loadStep (.wake u)) s2)

/-! ### Intents -/

/-- The result bytes of an OVM_INTENT_ADD completion (R307). -/
def intentResult (id : Nat) (ctxs : List Nat) (reason state : Nat) : List (Nat × Nat) :=
  [(4, id), (4, ctxs.foldl min (ctxs.headD 0)), (2, ctxs.length), (1, reason), (1, state)]

/-- An intent is refused (R307): the add completes with its reason. -/
def State.refuseIntent (s : State) (h : HostRef) (id reason : Nat) : State :=
  ((s.count Reg.OVM_REFUSE_CNT 0).complete h Op.OVM_INTENT_ADD 2 reason (intentResult id [] reason 0)).raiseC
    Ev.OVM_REFUSED (srcIntent id) [(4, id), (1, reason)]

/-- Intents PENDING. -/
def State.pendingIntents (s : State) : List Nat :=
  s.ovm.order.filter (fun i => match tfind s.ovm.intents i with | some x => x.state == 0 | none => false)

/-- A field of the intent is out of range (BAD_PARAM, Table 09-9). -/
def intentBad (p : Intent) : Bool :=
  p.id == 0 || p.id == 0xFFFFFFFF || 84 < p.count || 4 < p.proc || 15 < p.sealing || 8 < p.prot || 3 < p.shed ||
    (if p.sealing % 4 = 2 then 2 < p.key else if p.sealing % 4 = 3 then 63 < p.key else p.key != 0) ||
    (if p.container = 0x14 || p.client = 0x14 then !(isCbr p) && (p.nts == 0 || 80 < p.nts) else p.nts != 0) ||
    (p.client != 0x21 && p.rate != 0) ||
    (match p.prot with
      | 0 => p.srcB.typ != 0 && !isRlkGroup p
      | 1 => p.srcA.typ != 1 || p.srcB.typ != 1
      | 2 => p.srcA.typ != 1 || p.srcB.typ != 1
      | 8 => p.srcB.typ == 0 || !(loOdu p.client) || p.sealing % 4 == 0
      | _ => p.srcB.typ == 0)

/-- The endpoints of an intent exist (BAD_ENDPOINT, Table 09-9). -/
def State.intentEnds (s : State) (p : Intent) : Bool :=
  (intentClients p).all (fun e => s.endpointOk e p.client) &&
    (p.dstA.typ == 0 || (intentDests p).all (fun e => s.endpointOk e (intentOuter p))) && (p.dstB.typ == 0 || s.endpointOk p.dstB (intentOuter p))

/-- The intent is one that Table 08-3, R144 or R256 does not offer (NOT_SUPPORTED). -/
def State.intentUnsupported (s : State) (p : Intent) : Bool :=
  !clientKind p.client ||
    (match pathOf p.client p.container p.nts with
      | none => true
      | some path =>
        !procOk p.client p.container p.proc || pathCapacity p.client path < max 1 p.count ||
          (p.sealing % 4 != 0 && !(p.prot == 8 && loOdu p.client) && !((intentParts p path false).any (sealedPart p path))) ||
          (p.container == 0x14 && p.client == 0x21 && p.nts < 2) ||
          (p.client == 0xE && path != [] && p.srcA.typ == 1 &&
            (match s.rd Reg.PRT_LANE_MODE p.srcA.lane with
              | 1 => path.head? != some 0x10
              | 2 => path.head? != some 0x10
              | 3 => path.head? != some 0x11
              | 4 => path.head? != some 0x12
              | _ => true)) ||
          (p.client == 0x20 && p.container != 0 && p.srcA.typ == 1 &&
            (s.rd Reg.PRT_LANE_MODE p.srcA.lane == 7) != path.contains 0x13)) ||
    (2 ≤ p.sealing % 4 && [p.srcA, p.dstA].any s.bareEnd) ||
    (p.client == 0x21 && (intentPlaces p).any (fun e => (e.1.typ == 4 || e.1.typ == 1) && s.rdBit Reg.PRT_LANE_FEC e.1.lane))

/-- A CID of 0xFFFF, or a COUNT that reaches it (CID_RESERVED). -/
def cidReserved (p : Intent) : Bool :=
  (p.srcA.typ == 3 && 0xFFFF < p.srcA.idx + max 1 p.count) || (p.srcB.typ == 3 && 0xFFFF < p.srcB.idx + max 1 p.count) ||
    (intentDests p).any (fun e => e.typ == 3 && 0xFFFF ≤ e.idx) || (p.dstB.typ == 3 && 0xFFFF ≤ p.dstB.idx)

/-- The reason that stops an intent before its resources are looked at, lowest code first (Table 09-9, log
entry 26). -/
def State.intentReason (s : State) (p : Intent) : Option Nat :=
  if intentBad p then some 1
  else if !s.intentEnds p then some 2
  else if s.endpointUsed p then some 3
  else if s.intentUnsupported p then some 4
  else if (match tfind s.ovm.intents p.id with | some x => x.state != 4 | none => false) then some 9
  else if cidReserved p then some 0xB
  else if 1024 ≤ s.pendingIntents.length then some 0xD
  else if !s.hasAuthority then some 0xE
  else none

/-- A shed intent is to be placed again at a swap (R430); where it cannot be, it stays SHED. -/
def State.restoreIntent (s : State) (i : Nat) : State :=
  match tfind s.ovm.intents i with
  | none => s
  | some x =>
    if x.state != 2 || !x.ctxs.isEmpty then s
    else match s.acceptIntent x.params {} x with
      | .ok b => b
      | .error _ => s

/-- OVM_INTENT_ADD (R297 to R307, R315, R316): the intent is refused, or PENDING until a swap places it. -/
def execOvmIntentAdd (dt : Nat) (h : HostRef) (p : Intent) (obs : OvmObs) (s : State) :
    Host.Outcome State Fault Refusal :=
  .next (s.command dt h 0 Op.OVM_INTENT_ADD (fun a =>
    match a.intentReason p with
    | some r => a.refuseIntent h p.id r
    | none =>
      let it : IntentSt := { params := p, state := 0, host := h, charge := obs.charge }
      let wait (b : State) : State :=
        { b with ovm := { b.ovm with order := b.ovm.order.filter (fun i => i != p.id) ++ [p.id] } }
      match a.acceptIntent p obs it with
      | .ok b => wait b
      | .error 0 => wait { a with ovm := { a.ovm with intents := tset a.ovm.intents p.id it } }
      | .error r => a.refuseIntent h p.id r))

/-- Contexts reserved for an intent that is not active are given back. -/
def State.dropReserved (s : State) (x : IntentSt) : State :=
  { s with ovm := { s.ovm with ctxs := x.ctxs.foldl tdel s.ovm.ctxs } }

/-- OVM_INTENT_WITHDRAW on the placement in force (R314). -/
def State.doWithdraw (s : State) (h : HostRef) (id : Nat) : State :=
  match tfind s.ovm.intents id with
  | none => s.refuse h Op.OVM_INTENT_WITHDRAW 0x0A
  | some x =>
    if x.state = 4 then s.refuse h Op.OVM_INTENT_WITHDRAW 0x0A
    else if !s.hasAuthority then s.refuse h Op.OVM_INTENT_WITHDRAW 0x0E
    else if x.state = 0 then
      let s1 := s.dropReserved x
      let s2 := { s1 with ovm := { s1.ovm with
        intents := tset s1.ovm.intents id { x with state := 4, ctxs := [] },
        order := s1.ovm.order.filter (fun i => i != id) } }
      (s2.refuseIntent x.host id 0x0C).done h Op.OVM_INTENT_WITHDRAW
    else { s with ovm := { s.ovm with withdraws := s.ovm.withdraws ++ [(id, h)] } }

/-- The first MIGRATING context of an intent. -/
def State.migratingOf (s : State) (id : Nat) : Option Nat :=
  match tfind s.ovm.intents id with
  | none => none
  | some x => x.ctxs.find? (fun c => match s.ctx? c with | some y => y.migrating.isSome | none => false)

/-- OVM_INTENT_WITHDRAW (R312, R314). -/
def execOvmIntentWithdraw (dt : Nat) (h : HostRef) (intent : Nat) (s : State) : Host.Outcome State Fault Refusal :=
  .next (s.command dt h 0 Op.OVM_INTENT_WITHDRAW (fun a =>
    match a.migratingOf intent with
    | some c => a.orHold c (.withdraw h intent) (fun b => b.doWithdraw h intent)
    | none => a.doWithdraw h intent))

/-- OVM_PIN or OVM_UNPIN on the placement in force: BAD_PARAM, UNKNOWN_INTENT, NO_AUTHORITY. -/
def State.doPin (s : State) (h : HostRef) (ctx items : Nat) (on : Bool) : State :=
  let op := if on then Op.OVM_PIN else Op.OVM_UNPIN
  match s.ctx? ctx with
  | none => s.refuse h op (if 63 < items then 1 else 0x0A)
  | some x =>
    if 63 < items then s.refuse h op 1
    else if !x.active then s.refuse h op 0x0A
    else if !s.hasAuthority then s.refuse h op 0x0E
    else
      let pins := (List.range 6).foldl (fun a k => if bitOf items k then setBit a k on else a) x.pins
      ({ s with ovm := { s.ovm with ctxs := tset s.ovm.ctxs ctx { x with pins := pins } } } : State).done h op

/-- OVM_PIN (R309, R312). -/
def execOvmPin (dt : Nat) (h : HostRef) (ctx items : Nat) (s : State) : Host.Outcome State Fault Refusal :=
  .next (s.command dt h 0 Op.OVM_PIN (fun a => a.orHold ctx (.pin h ctx items) (fun b => b.doPin h ctx items true)))

/-- OVM_UNPIN (R311, R312). -/
def execOvmUnpin (dt : Nat) (h : HostRef) (ctx items : Nat) (s : State) : Host.Outcome State Fault Refusal :=
  .next (s.command dt h 0 Op.OVM_UNPIN (fun a =>
    a.orHold ctx (.unpin h ctx items) (fun b => b.doPin h ctx items false)))

/-! ### Records and results -/

/-- Bytes 0 to 31 of a context's record (Table 08-2). -/
def State.placeBytes (s : State) (c : Nat) (x : Ctx) : List Nat :=
  let q := x.place
  let flags := ofBool x.migrating.isSome + 2 * ofBool (x.pins != 0) + 4 * ofBool x.sealed + 8 * ofBool x.scSeq +
    16 * ofBool x.protect + 32 * ofBool x.hitless + 64 * ofBool (s.sourceFailed (s.frmKey c)) + 128 * ofBool x.cross
  let e := if x.endpoint.typ = 0 then x.out else x.endpoint
  leBytes 2 x.kind ++ [flags, x.gen, q.inSlice + 4 * q.egSlice + 16 * q.lineSlice, q.hewer, q.pipeIn, q.pipeEg] ++
    leBytes 4 (x.parent.getD 0xFFFFFFFF) ++ leBytes 1 e.lane ++ leBytes 2 e.idx ++ leBytes 1 e.tu ++
    leBytes 2 q.grain ++ [q.grains, q.ts] ++ leBytes 2 q.queue ++ leBytes 2 q.queues ++
    leBytes 2 q.extPos ++ leBytes 2 q.insPos ++ leBytes 4 q.hbm

/-- The result block of an intent (R308, Table 09-7). -/
def State.resultBlock (s : State) (id : Nat) (x : IntentSt) : List Nat :=
  let cs := x.ctxs.filterMap (fun c => (s.ctx? c).map (fun y => (c, y)))
  let entries := (cs.map (fun e => s.placeBytes e.1 e.2)).flatten
  let flags := ofBool (cs.any (fun e => e.2.cross)) + 2 * ofBool x.shared + 4 * ofBool (cs.any (fun e => e.2.pins != 0))
  let head := leBytes 4 id ++ [x.state, x.params.prot] ++ leBytes 2 x.group ++ leBytes 8 (stampOf x.swapAt) ++
    leBytes 2 cs.length ++ [flags] ++ List.replicate 9 0
  head ++ leBytes 4 (crc32c (head ++ entries)) ++ entries

/-- OVM_RESULT_READ on the placement in force (R308): BAD_PARAM for a buffer too small or not 64-byte aligned,
UNKNOWN_INTENT. -/
def State.doResultRead (s : State) (h : HostRef) (intent host avail : Nat) : State :=
  match tfind s.ovm.intents intent with
  | none => s.refuse h Op.OVM_RESULT_READ (if host % 64 != 0 then 1 else 0x0A)
  | some x =>
    let b := s.resultBlock intent x
    if host % 64 != 0 || avail < b.length then s.refuse h Op.OVM_RESULT_READ 1
    else (s.hostWrite host b).done h Op.OVM_RESULT_READ

/-- OVM_RESULT_READ (R308, R312). -/
def execOvmResultRead (dt : Nat) (h : HostRef) (intent host avail : Nat) (s : State) :
    Host.Outcome State Fault Refusal :=
  .next (s.command dt h 0 Op.OVM_RESULT_READ (fun a =>
    match a.migratingOf intent with
    | some c => a.orHold c (.resultRead h intent host avail) (fun b => b.doResultRead h intent host avail)
    | none => a.doResultRead h intent host avail))

/-- OVM_DEFRAG (Table 09-11): defragmentation runs at the next epoch boundary. -/
def execOvmDefrag (dt : Nat) (h : HostRef) (s : State) : Host.Outcome State Fault Refusal :=
  .next (s.command dt h 0 Op.OVM_DEFRAG (fun a =>
    ({ a with ovm := { a.ovm with defragAt := some ((a.addr / Config.epochPos + 1) * Config.epochPos) } } :
      State).done h Op.OVM_DEFRAG))

/-! ### Moves -/

/-- The items of a context that a new placement changes, by the bits of OVM_PIN. -/
def movedItems (p q : Place) : Nat :=
  ofBool (p.inSlice != q.inSlice || p.egSlice != q.egSlice) + 2 * ofBool (p.hewer != q.hewer) +
    4 * ofBool (p.pipeIn != q.pipeIn || p.pipeEg != q.pipeEg) + 8 * ofBool (p.grain != q.grain) +
    16 * ofBool (p.queue != q.queue || p.hbm != q.hbm) + 32 * ofBool (p.extPos != q.extPos || p.insPos != q.insPos)

/-- Moves for a reason may be planned now (Table 09-8): reasons 2 to 4 not while lever 1 is in force (Table 20-1), reason 5
while lever 2 or 3 is (R427, R428). -/
def State.reasonRuns (s : State) (r : Nat) : Bool :=
  let since (p : Nat) : Bool := match tfind s.ovm.lastMove r with | none => true | some t => decide (t + p ≤ s.time)
  let hour := 3600 * Config.secondPos
  let calm := !s.rdBit Reg.BKG_THROTTLED 0
  match r with
  | 1 => true
  | 2 => calm && s.rd Reg.OVM_BG_EN 0 / 2 % 2 == 1 && since Config.epochPos
  | 3 => calm && s.rd Reg.OVM_BG_EN 0 / 4 % 2 == 1 && since (max 1 (s.rd Reg.OVM_WEAR_PERIOD 0) * hour)
  | 4 => calm && ((match s.ovm.defragAt with | some a => decide (a ≤ s.addr) | none => false) ||
      (s.rd Reg.OVM_BG_EN 0 % 2 == 1 && since Config.epochPos))
  | 5 => 0 < s.eng.hewers || s.eng.pipes != [] || s.eng.pipeAsks != []
  | 6 => true
  | _ => false

/-- The contexts as they stand once a plan's moves have been made. -/
def State.afterMoves (s : State) (plan : List Move) : Tab Ctx :=
  plan.foldl (fun t m => match tfind t m.ctx with
    | none => t
    | some x => tset t m.ctx { x with place := m.place }) s.ovm.ctxs

/-- A load stays the share `room` (in %) below its limit. -/
def below (room load limit : Nat) : Bool := decide (load * 100 ≤ limit * (100 - room))

/-- Every stage and pipeline that receives one of the plan's contexts keeps OVM_HEADROOM (Table 09-8, reason 2; R319). -/
def State.roomKept (s : State) (plan : List Move) : Bool :=
  let after := s.afterMoves plan
  let room := min 50 (s.rd Reg.OVM_HEADROOM 0)
  plan.all (fun m => match s.ctx? m.ctx with
    | none => true
    | some x =>
      (!x.stage || x.place.inSlice == m.place.inSlice || below room (stageLoad after (·.inSlice) m.place.inSlice) stageLimit) &&
      (!x.stage || x.place.egSlice == m.place.egSlice || below room (stageLoad after (·.egSlice) m.place.egSlice) stageLimit) &&
      (x.place.pipeIn == m.place.pipeIn || 24 ≤ m.place.pipeIn || below room (pipeLoad after (·.pipeIn) m.place.pipeIn) pipeLimit) &&
      (x.place.pipeEg == m.place.pipeEg || 24 ≤ m.place.pipeEg || below room (pipeLoad after (·.pipeEg) m.place.pipeEg) pipeLimit))

/-- The plan's moves empty a hewer, a container stage or a pipeline (Table 09-8, reason 2; Table 01-6). -/
def State.emptiesUnit (s : State) (plan : List Move) : Bool :=
  let after := s.afterMoves plan
  plan.any (fun m => match s.ctx? m.ctx with
    | none => false
    | some x =>
      (x.stage && !(after.any (fun e => e.2.stage && e.2.place.inSlice == x.place.inSlice))) ||
      (x.stage && !(after.any (fun e => e.2.stage && e.2.place.egSlice == x.place.egSlice))) ||
      (decide (x.place.pipeIn < 24) && !(after.any (fun e => e.2.place.pipeIn == x.place.pipeIn))) ||
      (kindHasOverhead x.kind && !(after.any (fun e => kindHasOverhead e.2.kind && e.2.place.hewer == x.place.hewer))))

/-- A pending intent waits for room (R315). -/
def State.waitsForRoom (s : State) : Bool :=
  s.pendingIntents.any (fun i => match tfind s.ovm.intents i with | some x => x.ctxs.isEmpty | none => false)

/-- The condition of Table 09-8 on the plan that a move belongs to: an intent waits for room (reason 1); the moves of reason 2
together empty a unit and leave the headroom; a move of reason 3 takes a context off a unit past the wear margin. A pending
intent that waits for room goes before reasons 2 to 4 (R315). -/
def State.moveRuns (s : State) (plan : List Move) (m : Move) : Bool :=
  s.reasonRuns m.reason && (match m.reason with
    | 1 => s.waitsForRoom
    | 2 =>
      let l := plan.filter (fun n => n.reason == 2)
      !s.waitsForRoom && s.emptiesUnit l && s.roomKept l
    | 3 => !s.waitsForRoom && (match s.ctx? m.ctx with
      | none => false
      | some x => (kindHasOverhead x.kind && s.overMargin x.place.hewer) ||
          (decide (x.place.pipeIn < 24) && s.overMargin (96 + x.place.pipeIn)) ||
          (decide (x.place.pipeEg < 24) && s.overMargin (96 + x.place.pipeEg)))
    | 4 => !s.waitsForRoom
    | _ => true)

/-- The new placement keeps what the far end sees (R279). -/
def farSame (p q : Place) : Bool := p.ts == q.ts && p.grains == q.grains && p.lineSlice == q.lineSlice

/-- A unit that the context uses is in reset (R30, R583): a hewer, a slice, the grain fabric, the TSI, the queue manager or the
cipher pool (Table 16-6). -/
def State.ctxInReset (s : State) (x : Ctx) : Bool :=
  let p := x.place
  s.hewerReset p.hewer || s.inReset (3 + p.egSlice) || s.inReset (3 + p.inSlice) || s.inReset (3 + p.lineSlice) ||
    (p.grain != 0xFFFF && s.inReset 7) || (tsiWeight x.kind != 0 && s.inReset 8) ||
    (p.queues != 0 && s.inReset domQmg) || (x.sealed && s.inReset 10)

/-- A unit that the context uses is marked unusable (R31). -/
def State.ctxUnusable (s : State) (x : Ctx) : Bool :=
  ([stageUnit x.place.inSlice 0, stageUnit x.place.egSlice 1].any (fun u => x.stage && s.ovm.unusable.contains u)) ||
    s.ovm.unusable.contains (lineUnit x.place.lineSlice 0) || s.ovm.unusable.contains (lineUnit x.place.lineSlice 1) ||
    s.ovm.unusable.contains x.place.pipeIn || s.ovm.unusable.contains x.place.pipeEg || s.ovm.unusable.contains (512 + x.place.hewer)

/-- No grain belongs to two contexts. -/
def grainsApart (all : Tab Ctx) (c : Nat) (q : Place) : Bool :=
  q.grain == 0xFFFF || decide (q.grain + q.grains ≤ 1024) && !(all.any (fun e => e.1 != c && e.2.place.grain != 0xFFFF &&
    decide (e.2.place.grain < q.grain + q.grains) && decide (q.grain < e.2.place.grain + e.2.place.grains)))

/-- A context's new placement keeps R16, R30, R31 and the limits of R301 and R42 among the placements in force and planned. -/
def State.moveFits (s : State) (m : Move) (x : Ctx) : Bool :=
  let y : Ctx := { x with place := m.place }
  let all := tset (s.afterMoves s.ovm.moves) m.ctx y
  !s.ctxInReset y && !s.ctxUnusable y && grainsApart all m.ctx m.place && s.limitsKept all && s.positionsKept all &&
    (m.place.hewer == x.place.hewer || s.hewerOk {} m.place.hewer) &&
    (if x.sealed then m.place.pipeIn / 6 == m.place.inSlice && m.place.pipeEg / 6 == m.place.egSlice
     else m.place.pipeIn == 0xFF && m.place.pipeEg == 0xFF)

/-- A new hewer is of the context's own slice, unless no hewer there has room (R17). -/
def State.moveHewerOk (s : State) (obs : OvmObs) (m : Move) (x : Ctx) : Bool :=
  let own := x.ownSlice m.place
  m.place.hewer == x.place.hewer || m.place.hewer / 24 == own ||
    !((List.range 24).any (fun k => s.hewerOk obs (24 * own + k)))

/-- A planned move may begin: its context is placed and still, no pinned item changes, the far end sees no change, and the new
placement fits (R279, R309, R312). -/
def State.moveOk (s : State) (m : Move) (x : Ctx) : Bool :=
  let counted := (s.ovm.moves.filter (fun n => n.reason != 6)).length
  x.active && x.migrating.isNone && farSame x.place m.place && Nat.land x.pins (movedItems x.place m.place) == 0 &&
    (m.reason == 6 || decide (counted < max 1 (s.rd Reg.OVM_MOVE_MAX 0))) && s.moveFits m x

/-- A planned move begins (R312); onto gated units it waits until they have been woken (R28). -/
def State.takeMove (s : State) (m : Move) : State :=
  match s.ctx? m.ctx with
  | none => s
  | some x =>
    let wake := s.gatedUnits { x with place := m.place }
    if !s.moveOk m x then s
    else if wake != [] then
      wake.foldl (fun a u => a.loadStep (.wake u)) { s with ovm := { s.ovm with moveWaits := s.ovm.moveWaits ++ [m] } }
    else { s with ovm := { s.ovm with moves := s.ovm.moves ++ [m],
                                      ctxs := tset s.ovm.ctxs m.ctx { x with migrating := some s.addr } } }

/-- Moves that waited for a unit are tried again. -/
def State.retryMoves (s : State) : State :=
  s.ovm.moveWaits.foldl (fun a m => a.takeMove m) { s with ovm := { s.ovm with moveWaits := [] } }

/-- OVM_MOVE_PLAN (R309, R310, R312): the Overman begins building the pages that move these contexts. A unit
without authority plans nothing (R304). -/
def execOvmMovePlan (dt : Nat) (obs : OvmObs) (moves : List Move) (s : State) : Host.Outcome State Fault Refusal :=
  let s1 := s.elapse dt
  let runs := moves.filter (fun m => s1.moveRuns moves m && (match s1.ctx? m.ctx with
    | none => false
    | some x => s1.moveHewerOk obs m x))
  .next (if !s1.hasAuthority then s1
    else
      let s2 := runs.foldl (fun a m => a.takeMove m) s1
      let mark := runs.foldl (fun a m => tset a m.reason s1.time) s2.ovm.lastMove
      { s2 with ovm := { s2.ovm with
          lastMove := mark,
          defragAt := if runs.any (fun m => m.reason == 4) then none else s2.ovm.defragAt } })

/-- A context is MIGRATING no longer, and its move is forgotten. -/
def State.endMove (s : State) (c : Nat) : State :=
  match s.ctx? c with
  | none => s
  | some x => { s with ovm := { s.ovm with moves := s.ovm.moves.filter (fun m => m.ctx != c),
                                           ctxs := tset s.ovm.ctxs c { x with migrating := none } } }

/-! ### Units and engines -/

/-- The Overman's number of a slice's stage: 0 and 1 the container stage's ingress and egress, 2 and 3 the line stage's. -/
def stageOf (slice stage : Nat) : Nat := if stage ≤ 1 then stageUnit slice stage else lineUnit slice (stage % 2)

/-- A stage is marked unusable (R31, R311): every context that uses it carries failure fill; one with the slice pinned is
stranded, and the rest wait for moves of reason 6. -/
def State.markUnusable (s : State) (slice stage : Nat) : State :=
  let u := stageOf slice stage
  let hit (x : Ctx) : Bool := x.active && (
    match stage with
    | 0 => x.stage && x.place.inSlice == slice
    | 1 => x.stage && x.place.egSlice == slice
    | _ => x.place.lineSlice == slice)
  let s1 := { s with ovm := { s.ovm with
    unusable := if s.ovm.unusable.contains u then s.ovm.unusable else s.ovm.unusable ++ [u],
    ctxs := s.ovm.ctxs.map (fun e => if hit e.2 then (e.1, { e.2 with fail := true }) else e) } }
  (s.ovm.ctxs.filter (fun e => hit e.2 && bitOf e.2.pins 0)).foldl (fun a e =>
    match tfind a.ovm.intents e.2.intent with
    | none => a
    | some x =>
      ({ a with ovm := { a.ovm with intents := tset a.ovm.intents e.2.intent { x with state := 3 } } } : State).raise
        Ev.OVM_PIN_BLOCKED (srcIntent e.2.intent) [(4, e.2.intent), (2, e.1), (1, 2 * slice + stage % 2)]) s1

/-- Hewers the Overman needs (R317): two, and one more for every further 64 intents PENDING, up to 8. -/
def State.enginesNeeded (s : State) : Nat := min 8 (2 + s.pendingIntents.length / 64)

/-- The Overman's hewers become `l`; a change of their number is reported (R317, R318). -/
def State.setHewers (s : State) (l : List Nat) : State :=
  let word (k : Nat) : Nat := ((l.filter (fun h => h / 32 == k)).map (fun h => 2 ^ (h % 32))).sum
  let old := s.rd Reg.OVM_ENGINES 0
  let s1 := (((s.wr Reg.OVM_HEWERS_LO 0 (word 0)).wr Reg.OVM_HEWERS_MID 0 (word 1)).wr Reg.OVM_HEWERS_HI 0
    (word 2)).wr Reg.OVM_ENGINES 0 l.length
  s1.raiseIf (old != l.length) Ev.OVM_ENGINES srcDevice [(4, old), (4, l.length)]

/-- Hewers that own no context overhead and are not in reset, lowest first. -/
def State.spareHewers (s : State) (except_ : List Nat) : List Nat :=
  (List.range 96).filter (fun h => !except_.contains h && !s.hewerBad h &&
    !(s.ovm.ctxs.any (fun e => kindHasOverhead e.2.kind && e.2.place.hewer == h)))

/-- The Overman runs on `n` hewers: those it has, and spare ones. -/
def State.takeHewers (s : State) (n : Nat) (bad : List Nat) : State :=
  let keep := (s.ovmHewers.filter (fun h => !bad.contains h && !s.hewerBad h)).take n
  s.setHewers ((keep ++ (s.spareHewers (keep ++ bad)).take (n - keep.length)).insertionSort (· ≤ ·))

/-- OVM_STATE of a running Overman (R304). -/
def State.ovmRunState (s : State) : Nat := if s.hasAuthority then 1 else 2

/-- The Overman begins once every usable hewer is out of reset (R32, R318). -/
def State.startOverman (s : State) : State :=
  if s.rd Reg.OVM_STATE 0 != 0 || (List.range 96).any (fun h => s.hewerReset h && !s.ovm.unusable.contains (512 + h)) then s
  else
    let s1 := s.takeHewers s.enginesNeeded []
    s1.wr Reg.OVM_STATE 0 s1.ovmRunState

/-- OVM_ENGINES (R317, R318): an Overman that has not begun begins; hewers are added as intents wait, and released after an epoch without need. -/
def execOvmEngines (dt : Nat) (s : State) : Host.Outcome State Fault Refusal :=
  let s1 := s.elapse dt
  let need := s1.enginesNeeded
  let have_ := s1.rd Reg.OVM_ENGINES 0
  .next (if s1.rd Reg.OVM_STATE 0 = 0 then s1.startOverman
    else if have_ < need then
      let s2 := s1.takeHewers need []
      { s2 with ovm := { s2.ovm with idleFrom := none } }
    else if have_ = need then { s1 with ovm := { s1.ovm with idleFrom := none } }
    else match s1.ovm.idleFrom with
      | none => { s1 with ovm := { s1.ovm with idleFrom := some s1.time } }
      | some t =>
        let s2 := s1.elapse (t + Config.epochPos - s1.time)
        let s3 := s2.takeHewers need []
        { s3 with ovm := { s3.ovm with idleFrom := none } })

/-- A gated unit's number as the Overman keeps it: kind 0 a container stage (2 × slice + direction), 1 a
pipeline, 2 a SerDes lane, 3 a tributary link. -/
def unitCode (kind n : Nat) : Nat :=
  match kind with
  | 0 => 256 + n
  | 1 => n
  | 2 => 1024 + n
  | _ => 2048 + n

/-- UNIT_WAKE_READY (R28, Table 01-6): a waking unit reports ready; a lane leaves the gated state and adapts; moves that waited
for the unit begin. -/
def execUnitWakeReady (dt unitKind unitNo : Nat) (s : State) : Host.Outcome State Fault Refusal :=
  let s1 := s.elapse dt
  let u := unitCode unitKind unitNo
  .next (if !s1.ovm.waking.contains u then s1
    else
      let s2 := { s1 with ovm := { s1.ovm with
        waking := s1.ovm.waking.filter (fun v => v != u), gated := s1.ovm.gated.filter (fun v => v != u),
        intents := s1.ovm.intents.map (fun e => (e.1, { e.2 with wake := e.2.wake.filter (fun v => v != u) })) } }
      let s3 := if unitKind = 2 then (s2.wrBit Reg.PRT_LANE_GATED unitNo false).laneRestart unitNo
        else if unitKind = 3 then
          ({ s2 with prt := { s2.prt with trbGated := s2.prt.trbGated.filter (fun v => v != unitNo) } } : State).trbRestart unitNo
        else s2
      s3.retryMoves)

end Sys2Proof.Machine
end

