-- ==== Sys2Proof/Machine/Mapping.lean ====
section
/-! DEFINITION. Mapping and time-slot interchange (R248 to R296): connection-page entries, packet flows, GFP
receivers, rate following, and the differential-delay buffers of hitless groups. Record reads stand in
Swap, beside the cipher state they carry. -/

namespace Sys2Proof.Machine

/-! ### Connection pages -/

/-- TYPE of a TSI entry (Table 08-8). -/
def tsiType (kind : Nat) : Nat :=
  match kind with
  | 8 => 1
  | 9 => 0
  | 0xA => 2
  | 0xB => 3
  | 0xC => 4
  | _ => 5

/-- Position of a source in the container it leaves (Table 08-9): an AU number, a TU position, or 0 for a
context that stands alone. -/
def sourcePos (e : Endpoint) : Nat := if e.typ = 6 then e.idx else if e.typ = 7 then e.tu else 0

/-- The TSI entry of context `c` (Table 08-8). `b` is a second source, SNCP's protect leg. -/
def tsiEntry (c : Nat) (x : Ctx) (b : Option (Nat × Ctx)) : Nat :=
  let ho (i : Nat) (y : Ctx) : Nat := if y.endpoint.typ = 6 || y.endpoint.typ = 7 then y.parent.getD i else i
  2 ^ 127 + tsiType x.kind * 2 ^ 124 + x.place.egSlice * 2 ^ 122 + x.dest.getD c * 2 ^ 104 + x.pos * 2 ^ 96 +
    x.place.inSlice * 2 ^ 94 + ho c x * 2 ^ 78 + sourcePos x.endpoint * 2 ^ 70 +
    (match b with
      | none => 0
      | some (i, y) => 2 ^ 69 + y.place.inSlice * 2 ^ 67 + ho i y * 2 ^ 51 + sourcePos y.endpoint * 2 ^ 43) +
    x.group * 2 ^ 32

/-- The grain-map entry of member `k` of an ODU (Table 08-7). -/
def grainEntry (c : Nat) (x : Ctx) (k : Nat) : Nat :=
  let built := ofBool x.stage
  let src := if x.stage then x.place.egSlice else endpointSlice x.endpoint
  2 ^ 63 + src * 2 ^ 61 + built * 2 ^ 60 + x.place.lineSlice * 2 ^ 58 + 2 ^ 57 + c * 2 ^ 41 + k * 2 ^ 34 +
    x.place.grains * 2 ^ 27 + (if x.place.ts = 0 then 0 else x.place.ts + k) * 2 ^ 20 + x.dest.getD 0 * 2 ^ 4

/-- The TSI page of a placement: one entry for each VC that crosses (R272). -/
def tsiPage (all : Tab Ctx) : Tab Nat :=
  (all.filter (fun e => e.2.active && e.2.crosses)).map (fun e =>
    let second := all.find? (fun f => f.2.active && e.2.group != 0x7FF && f.2.group == e.2.group &&
      f.2.kind == e.2.kind && e.1 < f.1)
    (e.1, tsiEntry e.1 e.2 second))

/-- The grain map of a placement (R269). -/
def grainPage (all : Tab Ctx) : Tab Nat :=
  all.foldl (fun t e => if e.2.active && e.2.place.grain != 0xFFFF then
    (List.range e.2.place.grains).foldl (fun u k => tset u (e.2.place.grain + k) (grainEntry e.1 e.2 k)) t else t) []

/-- A page of the TSI or the grain map (R274). -/
def State.page (s : State) (grain standby : Bool) : Tab Nat :=
  let first := (s.rd Reg.MAP_PAGE_ACTIVE 0 == 0) != standby
  match grain, first with
  | false, true => s.map.tsi0
  | false, false => s.map.tsi1
  | true, true => s.map.grains0
  | true, false => s.map.grains1

/-- MAP_PAGE_READ (R295): entries in order, 16 bytes each for the TSI and 8 for the grain map. -/
def execMapPageRead (dt : Nat) (h : HostRef) (p : PageRead) (s : State) : Host.Outcome State Fault Refusal :=
  .next (s.command dt h 0 Op.MAP_PAGE_READ (fun a =>
    let most := if p.what = 0 then 49152 else 1024
    if 1 < p.what || 1 < p.standby || p.count = 0 || 4096 < p.count || most < p.first + p.count then
      a.refuse h Op.MAP_PAGE_READ 2
    else
      let t := a.page (p.what == 1) (p.standby == 1)
      let w := if p.what = 0 then 16 else 8
      (a.hostWrite p.host (((List.range p.count).map (fun i => leBytes w (tget 0 t (p.first + i)))).flatten)).done h
        Op.MAP_PAGE_READ))

/-! ### Handover and rate following -/

/-- HANDOVER (R277): at its first frame boundary after the swap a moved context is handed over. -/
def execHandover (dt ctx : Nat) (s : State) : Host.Outcome State Fault Refusal :=
  let s1 := s.elapse dt
  .next (if s1.map.handing.contains ctx then
      ({ s1 with map := { s1.map with handing := s1.map.handing.filter (fun c => c != ctx) } } : State).count
        Reg.MAP_HANDOVER_CNT 0
    else s1)

/-- The lowest context that uses a lane. -/
def State.laneCtx (s : State) (l : Nat) : Option Nat :=
  (s.ovm.ctxs.find? (fun e => e.2.active &&
    [e.2.endpoint, e.2.out].any (fun d => laneEndpoint d && d.lane == l))).map (·.1)

/-- The lane's transmitter follows its client's rate (R259): an access OTU2 or OTU2e whose ODU passes through or is BMP-mapped, or
an Ethernet lane on which a bit-transparent client leaves. -/
def State.followsRate (s : State) (l : Nat) : Bool :=
  let m := s.rd Reg.PRT_LANE_MODE l
  s.ovm.ctxs.any (fun e => e.2.active &&
    (((m == 5 || m == 6) && (e.2.kind == 0x12 || e.2.kind == 0x13) && [e.2.endpoint, e.2.out].any (fun d => laneEndpoint d && d.lane == l)) ||
      ((m == 7 || m == 8) && e.2.kind == 0x20 && e.2.out.typ == 1 && e.2.out.lane == l)))

/-- The divider's offset for a steer in ppb: it has a range of ±250 ppm (R259). -/
def dividerPpb (steer : Int) : Int := max (-250000) (min 250000 steer)

/-- MAP_RATE_LIMIT (R259, R260): the fill of the lane's egress store (in 1/64) steers its divider. Where the divider stands at its
limit and the fill has reached 1/8 of an end, the store slips one frame under R49. -/
def execMapRateLimit (dt lane : Nat) (steer : Int) (fill : Nat) (s : State) : Host.Outcome State Fault Refusal :=
  let s0 := s.elapse dt
  .next (if !s0.followsRate lane then s0
    else
      let p := dividerPpb steer
      let s1 : State := { s0 with map := { s0.map with follow := tset s0.map.follow lane p } }
      match s1.laneCtx lane with
      | none => s1
      | some c =>
        if (8 < fill && fill < 56) || (p != 250000 && p != -250000) then s1
        else (((s1.count Reg.MAP_RATEFOLLOW_LIMIT_CNT 0).raise Ev.MAP_RATE_LIMIT (srcLane lane)
          [(2, lane), (1, ofBool (p == 250000))]).count Reg.SHF_GATE_SLIP_CNT 0).raise Ev.GATE_SLIP (srcCtx c)
          [(2, c), (1, ofBool (56 ≤ fill))])

/-! ### Packet flows -/

/-- The VID that a frame is classified by (R261): 0x1000 for untagged. -/
def State.frameVid (s : State) (f : ClientFrame) : Nat :=
  let tagged := f.tpid == 0x8100 || (f.tpid == 0x88A8 && s.rdBit Reg.MAP_STAG_EN 0)
  if tagged && f.vid != 0 then f.vid else 0x1000

/-- The client port context of a lane. -/
def State.clientPort (s : State) (l : Nat) : Nat :=
  ((s.ovm.ctxs.find? (fun e => e.2.active && e.2.kind == 0x20 && e.2.endpoint.typ == 1 &&
    e.2.endpoint.lane == l)).map (·.1)).getD 0xFFFF

/-- The packet flow of a port and VID (R261). -/
def State.flowAt (s : State) (l vid : Nat) : Option (Nat × Ctx) :=
  s.ovm.ctxs.find? (fun e => e.2.active && e.2.kind == 0x21 &&
    [e.2.endpoint, e.2.out].any (fun d => d.typ == 4 && d.lane == l && d.idx == vid))

/-- A discarded client frame is counted in a context's record bytes 60 to 63. -/
def State.discard (s : State) (c : Nat) : State :=
  { s with map := { s.map with discards := tmod 0 s.map.discards c (fun n => (n + 1) % 2 ^ 32) } }

/-- CLIENT_FRAME_RX (R261 to R263, R68): a frame received on a client lane. -/
def execClientFrameRx (dt port : Nat) (f : ClientFrame) (s : State) : Host.Outcome State Fault Refusal :=
  let s0 := s.elapse dt
  .next (if !s0.lanePcs port || s0.rdBit Reg.PRT_LANE_NO_BLOCK_LOCK port then s0
    else
      let s1 := match f.ql with
        | some q => ({ s0 with tim := { s0.tim with esmc := tset s0.tim.esmc port s0.addr } } : State).acceptLaneQl port q
        | none => s0
      let s2 := if f.fcsOk then s1 else s1.count Reg.MAP_FCS_ERR_CNT 0
      let vid := s2.frameVid f
      let pc := s2.clientPort port
      let gone := (!f.fcsOk && s2.rdBit Reg.MAP_FCS_DROP 0) || decide (9600 < f.data.length)
      let s3 := if 9600 < f.data.length then s2.discard pc else s2
      match s2.flowAt port vid with
      | none => ((s3.count Reg.MAP_VLAN_UNMATCHED_CNT 0).discard pc).raiseFirst Ev.MAP_VLAN_UNMATCHED port (srcCtx pc) vid
          (fun v n => [(2, pc), (2, v), (4, n)])
      | some (_, x) =>
        s3.writeQueue x.place.queue { bytes := f.data, wide := false, last := true, abort := gone,
                                      status := ofBool (!f.fcsOk), tag := vid })

/-- A container's GFP receiver. -/
def State.gfp (s : State) (c : Nat) : GfpSt := tget {} s.map.gfp c

/-- The state with a GFP receiver replaced. -/
def State.setGfp (s : State) (c : Nat) (g : GfpSt) : State :=
  { s with map := { s.map with gfp := tset s.map.gfp c g } }

/-- A GFP frame lost to cHEC or tHEC (record bytes 58 to 59). -/
def State.loseGfp (s : State) (c : Nat) : State :=
  s.setGfp c { s.gfp c with lost := min 65535 ((s.gfp c).lost + 1) }

/-- The client state reported by management frames changes (R264, log entry 27); it is the far-end defect of the points of the
flows that the container carries (Table 10-2). -/
def State.setCmf (s : State) (c upi : Nat) : State :=
  let g := s.gfp c
  if g.cmf = upi then s
  else ((s.ovm.ctxs.filter (fun e => e.2.active && e.2.isFlow && e.2.dest == some c)).foldl
      (fun a e => a.pmDefect e.1 false (upi != 0)) (s.setGfp c { g with cmf := upi })).raise Ev.MAP_GFP_CMF (srcCtx c)
    [(2, c), (1, if upi = 0 then g.cmf else upi), (1, ofBool (upi != 0))]

/-- A frame of a PLI in SYNC (Table 08-5): a PLI below 4 is an idle or control frame. -/
def State.takeGfp (s : State) (c pli : Nat) (f : GfpFrame) : State :=
  let typ := f.head / 65536
  let pti := typ / 8192
  let upi := typ % 256
  if pli < 4 then s
  else if !hecOk f.head then s.loseGfp c
  else if pti = 4 then (if upi = 1 || upi = 2 then s.setCmf c upi else s)
  else if pti != 0 || typ / 256 % 16 != 0 || upi != 1 || (bitOf typ 12 && !f.pFcs) then s.discard c
  else s.setCmf c 0

/-- GFP_FRAME_RX (R264, R265). A single-bit error is corrected only in SYNC. -/
def execGfpFrameRx (dt ctx : Nat) (f : GfpFrame) (s : State) : Host.Outcome State Fault Refusal :=
  let s1 := s.elapse dt
  let g := s1.gfp ctx
  .next (if !(s1.ctx? ctx).any (·.active) then s1
    else match readCore f.core with
      | .good pli =>
        if g.align = 2 then s1.takeGfp ctx pli f
        else if g.align = 0 then s1.setGfp ctx { g with align := 1 }
        else (s1.setGfp ctx { g with align := 2 }).takeGfp ctx pli f
      | .fixed pli =>
        if g.align = 2 then (s1.count Reg.MAP_CHEC_CORR_CNT 0).takeGfp ctx pli f else s1.setGfp ctx { g with align := 0 }
      | .bad =>
        if g.align = 2 then
          (((s1.setGfp ctx { g with align := 0 }).loseGfp ctx).count Reg.MAP_CHEC_UNCORR_CNT 0).raise Ev.MAP_GFP_LFD
            (srcCtx ctx) [(2, ctx)]
        else s1.setGfp ctx { g with align := 0 })

/-- The UPI of the management frames sent for a client port, one every MAP_CMF_PERIOD (Table 08-5): 1 for LOS or LOL, 2 for loss of
block lock; 0 for none. -/
def State.cmfUpi (s : State) (l : Nat) : Nat :=
  if s.rdBit Reg.PRT_LANE_LOS l || s.rdBit Reg.PRT_LANE_LOL l then 1 else if s.rdBit Reg.PRT_LANE_NO_BLOCK_LOCK l then 2 else 0

/-- The positions between two management frames of a client port that stands failed (Table 08-5): MAP_CMF_PERIOD in units of 100 ms,
where 0 acts as 1. -/
def State.cmfGap (s : State) : Nat := max 1 (s.rd Reg.MAP_CMF_PERIOD 0) * (Config.secondPos / 10)

/-- The client lane is sent local-fault ordered sets (R267): the container of a flow that leaves on it has trail signal fail, or a
received management frame reports client failure. -/
def State.sendsLocalFault (s : State) (l : Nat) : Bool :=
  s.ovm.ctxs.any (fun e => e.2.active && e.2.kind == 0x21 && [e.2.endpoint, e.2.out].any (fun d => d.typ == 4 && d.lane == l) &&
    (match e.2.dest with
      | some c => s.sourceFailed (s.frmKey c) || (s.gfp c).cmf != 0
      | none => false))

/-! ### Deficit round robin -/

/-- The flows that share a GFP-F container, by CTX. -/
def State.containerFlows (s : State) (c : Nat) : List (Nat × Ctx) :=
  s.ovm.ctxs.filter (fun e => e.2.active && e.2.kind == 0x21 && e.2.dest == some c && e.2.place.queues != 0)

/-- A flow's quantum in bytes (R266): its committed rate, in 64 kb/s, times 125 µs. -/
def Ctx.quantum (x : Ctx) : Nat := x.rate * 64000 / (8 * 8000)

/-- LENGTH of the packet whose first word is a queue's next (Table 15-4). -/
def QSt.headLength (q : QSt) : Nat := leNum ((q.word q.rp).data.take 4)

/-- The round robin's next queue (R266), with the deficits then: the queue in turn is served on while it is inside a frame or its
next frame fits its deficit; otherwise the turn passes on, and the next queue gets its quantum. -/
def State.drrNext (s : State) (flows : List (Nat × Ctx)) : Nat → Nat → Tab Nat → Option (Nat × Tab Nat)
  | 0, _, _ => none
  | fuel + 1, turn, d =>
    let i := (flows.findIdx? (fun e => e.2.place.queue == turn)).getD 0
    match flows[i]? with
    | none => none
    | some e =>
      let t := e.2.place.queue
      let pass (d : Tab Nat) : Option (Nat × Tab Nat) :=
        match flows[(i + 1) % flows.length]? with
        | none => none
        | some f => s.drrNext flows fuel f.2.place.queue (tset d f.2.place.queue (tget 0 d f.2.place.queue + f.2.quantum))
      match s.queue t with
      | none => pass (tset d t 0)
      | some q =>
        if q.readable = 0 then pass (tset d t 0)
        else if !(q.word q.rp).sop then some (t, d)
        else if q.headLength ≤ tget 0 d t then some (t, tset d t (tget 0 d t - q.headLength))
        else pass d

/-- A pop from a flow's queue is what its container's round robin serves next: the deficits after it, or none while another
queue's turn stands. A queue outside a shared container is always served. -/
def State.drrServe (s : State) (n : Nat) : Option State :=
  match s.ovm.ctxs.find? (fun e => e.2.active && e.2.kind == 0x21 && e.2.place.queues != 0 && e.2.place.queue == n) with
  | none => some s
  | some (_, x) =>
    match x.dest with
    | none => some s
    | some c =>
      let flows := s.containerFlows c
      if flows.length < 2 then some s
      else
        let r := tget (n, []) s.map.drr c
        match s.drrNext flows ((flows.length + 1) * 10000) r.1 r.2 with
        | none => none
        | some (t, d) => if t = n then some { s with map := { s.map with drr := tset s.map.drr c (t, d) } } else none

/-- A packet of a flow that leaves on a Ralale channel is cut into tubs as its first word is taken (R184). -/
def State.sendFlow (s : State) (n : Nat) (q : QSt) : State :=
  match s.ovm.ctxs.find? (fun e => e.2.active && e.2.isFlow && e.2.place.queues != 0 && e.2.place.queue == n) with
  | none => s
  | some (c, x) => if (q.word q.rp).sop && x.out.typ = 3 then s.sendPacket c x q.headLength else s

/-- QUEUE_POP (R266, R480, R489, R491): the reader takes the oldest readable word. For a data queue to the
host, the word is copied into its ring, where it has room; a flow of a shared container is read in its turn. -/
def execQueuePop (dt q : Nat) (s : State) : Host.Outcome State Fault Refusal :=
  let s1 := s.elapse dt
  .next (match s1.queue q with
    | none => s1
    | some x =>
      if x.readable = 0 || x.resetting then s1
      else
        let w := x.word x.rp
        let x1 : QSt := { x with rp := x.after x.rp }
        match s1.boundTo q with
        | some (d, b) =>
          if !b.toHost then (s1.setQueue q x1).judgeQueue q
          else if s1.dqCanMove b then
            ((s1.setQueue q { x1 with firstIdx := if w.sop then b.dev else x.firstIdx }).copyWord d b
              (x.padded w)).judgeQueue q
          else s1
        | none =>
          match s1.drrServe q with
          | none => s1
          | some s2 => ((s2.sendFlow q x).setQueue q { x1 with reader := if x.reader = 0 then 4 else x.reader }).judgeQueue q)

/-! ### Hitless groups -/

/-- A hitless group. -/
def State.group? (s : State) (c : Nat) : Option HitlessSt := tfind s.map.hitless c

/-- The state with a hitless group replaced. -/
def State.setHitless (s : State) (c : Nat) (x : HitlessSt) : State :=
  { s with map := { s.map with hitless := tset s.map.hitless c x } }

/-- A leg of a group: 0 for A. -/
def HitlessSt.leg (x : HitlessSt) (l : Nat) : LegSt := if l = 0 then x.legA else x.legB
def HitlessSt.setLeg (x : HitlessSt) (l : Nat) (y : LegSt) : HitlessSt :=
  if l = 0 then { x with legA := y } else { x with legB := y }

/-- The distance of an MSEQ from the next to be played, modulo 2³², as a signed number. -/
def mseqDist (m next : Nat) : Int := signed 32 ((m + 2 ^ 32 - next) % 2 ^ 32)

/-- The time that a block waits for play-out, in positions (R286). -/
def State.ddPos (s : State) : Nat := (min 800 (s.rd Reg.MAP_DD_MAX 0) * Config.hundredUsPos + 9) / 10

/-- Credits of R399: a good copy of a unit, or one not good, late or absent. -/
def HitlessSt.credit (x : HitlessSt) (unitB good : Bool) : HitlessSt :=
  let i := 2 * ofBool unitB + ofBool (!good)
  { x with credits := x.credits.set i ((x.credits.getD i 0 + 1) % 2 ^ 32) }

/-- A copy whose block is played already (R288). -/
def State.lateCopy (s : State) (c l : Nat) (x : HitlessSt) (b : BlockIn) : State :=
  let y := x.leg l
  let y1 : LegSt := { y with late := min 65535 (y.late + 1), lateRun := y.lateRun + 1, outRun := 0, sync := true,
                             mseq := b.mseq }
  let say := 8 ≤ y1.lateRun && !y.said
  let z := (x.setLeg l { y1 with said := y.said || say }).credit b.unitB false
  ((s.setHitless c z).count Reg.MAP_DD_LATE_CNT 0).raiseIf say Ev.MAP_DD_EXCEEDED (srcCtx c)
    [(2, c), (1, l), (4, x.delay)]

/-- A copy in time goes into its leg's ring; where the other leg gave the same block, their distance is the
measured delay (R285, R290). -/
def State.ringCopy (s : State) (c l : Nat) (x : HitlessSt) (b : BlockIn) : State :=
  let y := x.leg l
  let y1 : LegSt := { y with lateRun := 0, said := false, outRun := 0, sync := true, mseq := b.mseq, unitB := b.unitB,
                             bad := if b.good then y.bad else min 65535 (y.bad + 1) }
  let copy : BlockCopy := { mseq := b.mseq, leg := l, good := b.good, tsf := b.tsf, viol := b.viol, since := s.time,
                            unitB := b.unitB }
  let other := x.copies.find? (fun d => d.mseq == b.mseq && d.leg != l)
  let delay := match other with
    | some d => min 65535 ((s.time - d.since) * 100 / Config.hundredUsPos)
    | none => x.delay
  let z : HitlessSt := (x.setLeg l y1).credit b.unitB b.good
  s.setHitless c { z with copies := z.copies ++ [copy], delay := delay }

/-- The group takes a new MSEQ from a leg (R289). -/
def State.resyncGroup (s : State) (c l : Nat) (x : HitlessSt) (b : BlockIn) : State :=
  let y := { x with next := b.mseq, copies := [] }
  (s.ringCopy c l y b).raise Ev.MAP_DD_RESYNC (srcCtx c) [(2, c), (4, x.next), (4, b.mseq)]

/-- A copy out of window (R289): both legs have been so for four blocks, or the only synchronised leg gives
four good ones in sequence. -/
def State.outCopy (s : State) (c l : Nat) (x : HitlessSt) (b : BlockIn) : State :=
  let y := x.leg l
  let o := x.leg (1 - l)
  let inSeq := b.good && (y.mseq + 1) % 2 ^ 32 == b.mseq
  let y1 : LegSt := { y with outRun := y.outRun + 1, mseq := b.mseq, sync := true,
                             seqRun := if inSeq then y.seqRun + 1 else if b.good then 1 else 0 }
  let x1 := x.setLeg l y1
  if (4 ≤ y1.outRun && 4 ≤ o.outRun) || (!o.sync && 4 ≤ y1.seqRun) then
    s.resyncGroup c l (x1.setLeg l { y1 with outRun := 0, seqRun := 0 }) b
  else s.setHitless c x1

/-- MAP_SC_CRC (R282): no copy of a block's stream passed. -/
def State.streamBad (s : State) (c : Nat) : State :=
  (s.count Reg.MAP_SC_CRC_CNT 0).raiseOnce Ev.MAP_SC_CRC c (srcCtx c) (fun n => [(2, c), (4, n)])

/-- A leg's block as it is judged (R282, R287): one with no good copy of its stream follows the leg's last MSEQ. -/
def LegSt.blockIn (y : LegSt) (b : CarriageBlock) (failing : Bool) : BlockIn :=
  match readCarriage b.stream with
  | some f => { good := !b.tsf && !failing && b.viol == 0, mseq := f.mseq, tsf := b.tsf || failing, viol := b.viol, unitB := bitOf f.iv 47 }
  | none => { good := false, mseq := (y.mseq + 1) % 2 ^ 32, tsf := b.tsf || failing, viol := b.viol, unitB := y.unitB }

/-- CARRIAGE_BLOCK_RX (R281, R282, R285, R287 to R289): a block of leg `leg` of the group `ctx` is received
whole. -/
def execCarriageBlockRx (dt ctx leg : Nat) (blk : CarriageBlock) (s : State) : Host.Outcome State Fault Refusal :=
  let s1 := s.elapse dt
  .next (match s1.group? ctx with
    | none => s1
    | some x =>
      let l := leg % 2
      let b := (x.leg l).blockIn blk (s1.tsf (s1.frmKey (x.leg l).ctx))
      let s2 := if (readCarriage blk.stream).isSome then s1 else s1.streamBad (x.leg l).ctx
      if !x.synced then
        (if (readCarriage blk.stream).isSome then s2.ringCopy ctx l { x with synced := true, next := b.mseq } b else s2)
      else
        let d := mseqDist b.mseq x.next
        if d < -1024 || 1024 < d then s2.outCopy ctx l x b
        else if d < 0 then s2.lateCopy ctx l x b
        else s2.ringCopy ctx l x b)

/-- The copy that is played (R287): the good one that completed first; else the one without trail signal fail
that has fewer violations, the earlier on a tie. -/
def chooseCopy (l : List BlockCopy) : Option BlockCopy :=
  match l.find? (·.good) with
  | some d => some d
  | none => (l.filter (fun d => !d.tsf)).foldl (fun a d =>
      match a with
      | none => some d
      | some e => if d.viol < e.viol then some d else some e) none

/-- DD_PLAYOUT (R286, R287): the next block is played MAP_DD_MAX after the earliest copy held completed, or is
lost on both legs. Copies that complete together are taken with the lower lane index first. -/
def execDdPlayout (dt ctx : Nat) (s : State) : Host.Outcome State Fault Refusal :=
  let s1 := s.elapse dt
  .next (match s1.group? ctx with
    | none => s1
    | some x =>
      match (x.copies.map (·.since)) with
      | [] => s1
      | t :: rest =>
        let s2 := s1.elapse (rest.foldl min t + s1.ddPos - s1.time)
        let laneOf (l : Nat) : Nat := match s2.ctx? (x.leg l).ctx with | some y => y.endpoint.lane | none => l
        let here := (x.copies.filter (fun d => d.mseq == x.next)).insertionSort (fun a b =>
          a.since < b.since ∨ (a.since = b.since ∧ laneOf a.leg ≤ laneOf b.leg))
        let y : HitlessSt := { x with next := (x.next + 1) % 2 ^ 32, copies := x.copies.filter (fun d => d.mseq != x.next) }
        match chooseCopy here with
        | some d => s2.setHitless ctx (y.setLeg d.leg { y.leg d.leg with played := ((y.leg d.leg).played + 1) % 2 ^ 32 })
        | none => s2.setHitless ctx { y with lost := min 65535 (y.lost + 1) })

/-- Record bytes 224 to 247 (Table 08-11). -/
def HitlessSt.bytes (x : HitlessSt) : List Nat :=
  leBytes 4 x.next ++ leBytes 4 x.legA.played ++ leBytes 4 x.legB.played ++ leBytes 2 x.legA.bad ++
    leBytes 2 x.legB.bad ++ leBytes 2 x.legA.late ++ leBytes 2 x.legB.late ++ leBytes 2 x.lost ++ leBytes 2 x.delay

/-- The group that a leg, or the group's own context, belongs to. -/
def State.groupOfLeg (s : State) (c : Nat) : Option (Nat × HitlessSt) :=
  s.map.hitless.find? (fun e => e.1 == c || e.2.legA.ctx == c || e.2.legB.ctx == c)

/-- MAP_DD_STATUS on the placement in force (R295). -/
def State.doDdStatus (s : State) (h : HostRef) (ctx host : Nat) : State :=
  match s.ctx? ctx with
  | none => s.refuse h Op.MAP_DD_STATUS 1
  | some x =>
    if !x.active then s.refuse h Op.MAP_DD_STATUS 1
    else if host % 64 != 0 then s.refuse h Op.MAP_DD_STATUS 2
    else match s.groupOfLeg ctx with
      | none => s.refuse h Op.MAP_DD_STATUS 3
      | some g =>
        let a := s.waitAddr (nextCycle s.addr)
        (a.hostWrite host g.2.bytes).done h Op.MAP_DD_STATUS

/-- MAP_DD_STATUS (R295, R312). -/
def execMapDdStatus (dt : Nat) (h : HostRef) (ctx host : Nat) (s : State) : Host.Outcome State Fault Refusal :=
  .next (s.command dt h 0 Op.MAP_DD_STATUS (fun a =>
    a.orHold ctx (.ddStatus h ctx host) (fun b => b.doDdStatus h ctx host)))

/-- The copy report that an originated HO ODU4 carries in PSI bytes 128 to 191, bytes 192 to 255 being 0 (R399): over every hitless
group held. -/
def State.copyReport (s : State) : CopyReport :=
  let sum (i : Nat) : Nat := ((s.map.hitless.map (fun e => e.2.credits.getD i 0)).sum) % 2 ^ 32
  { unit := s.rd Reg.PAR_UNIT 0, paired := s.rdBit Reg.PAR_PAIR_EN 0, counts := (List.range 4).map sum,
    lost := ((s.map.hitless.map (fun e => e.2.lost)).sum) % 2 ^ 32 }
def State.psiTail (s : State) : List Nat := s.copyReport.bytes ++ List.replicate 64 0

end Sys2Proof.Machine
end

