-- ==== Sys2Proof/Machine/Cipher.lean ====
section
/-! DEFINITION. Sealed contexts and the cipher engine (R347 to R384), with the check of operator-signed envelopes
(R560 to R563). GCM, KW, SHA-512, X25519 and Ed25519 are taken by reference, as functions of Config (log entries 8, 32). -/

namespace Sys2Proof.Machine

/-- An event that a host command's effect raises carries CAUSED (Table 14-8). -/
def State.say (s : State) (caused : Bool) (code src : Nat) (det : List (Nat × Nat)) : State :=
  if caused then s.raiseC code src det else s.raise code src det

/-- A command is forwarded to the mate, in pair operation (Table 12-10a). -/
def State.sendFwd (s : State) (f : Fwd) : State := if s.paired then s.send (.forward f) else s

/-! ### Envelopes -/

/-- Measurement `i` is extended by a digest (R555). -/
def State.extend (s : State) (i : Nat) (d : Nat) : State :=
  let m := tget 0 s.sec.meas i
  { s with sec := { s.sec with meas := tset s.sec.meas i (Config.sha512 (leBytes 64 m ++ leBytes 64 d)) } }

/-- The nonce that SEC_NONCE holds (R562). -/
def State.nonce (s : State) : Nat := ((List.range 8).map (fun i => s.rd Reg.SEC_NONCE i * 2 ^ (32 * i))).sum

/-- The unit's certificate serial. -/
def State.serial (s : State) : Nat := s.rd Reg.SEC_SERIAL_LO 0 + 2 ^ 32 * s.rd Reg.SEC_SERIAL_HI 0

/-- The nonce is consumed or has expired (R562). -/
def State.dropNonce (s : State) : State :=
  (List.range 8).foldl (fun a i => a.wr Reg.SEC_NONCE i 0) (s.wrBit Reg.SEC_NONCE_VALID 0 false)

/-- A run of bytes. -/
def slice (b : List Nat) (lo n : Nat) : List Nat := (b.drop lo).take n

/-- One unit's entry of an envelope (Table 18-8). -/
structure EnvUnit where
  serial  : Nat
  nonce   : Nat
  wrapped : List Nat
  deriving DecidableEq, Repr

/-- The fields of an envelope (Table 18-8): the opcode, the slot, the number of units, their entries, the bytes that the signature is
over, and the signature. -/
def envOpcode (e : List Nat) : Nat := leNum (slice e 4 2)
def envSlot (e : List Nat) : Nat := e.getD 6 0
def envUnits (e : List Nat) : Nat := e.getD 7 0
def envUnit (e : List Nat) (i : Nat) : EnvUnit :=
  { serial := leNum (slice e (40 + 88 * i) 8), nonce := leNum (slice e (48 + 88 * i) 32), wrapped := slice e (80 + 88 * i) 48 }
def envSigned (e : List Nat) : List Nat := e.take (40 + 88 * envUnits e)
def envSig (e : List Nat) : List Nat := slice e (40 + 88 * envUnits e) 64

/-- An envelope has the form of Table 18-8, and carries the opcode of its command (check 1 of Table 18-9). -/
def envForm (op : Nat) (e : List Nat) : Bool :=
  e.take 4 == [0x45, 0x4B, 0x4F, 0x50] && 1 ≤ envUnits e && envUnits e ≤ 2 && envOpcode e == op && e.length == 104 + 88 * envUnits e

/-- The entry that names this unit. -/
def State.ownUnit (s : State) (e : List Nat) : Option EnvUnit :=
  ((List.range (envUnits e)).map (envUnit e)).find? (fun u => u.serial == s.serial)

/-- The payload of an entry, unwrapped under K_u (R560): the first 32 bytes of SHA-512(X25519(e, D_u) ‖ serial ‖ nonce). -/
def State.unwrap (s : State) (e : List Nat) (u : EnvUnit) : Option (List Nat) :=
  let key := Config.sha512 (leBytes 32 (Config.x25519 (slice e 8 32) s.serial) ++ leBytes 8 u.serial ++ leBytes 32 u.nonce) % 2 ^ 256
  (Config.kwUnwrap key u.wrapped).map (leBytes 40)

/-- An operator key is in force and may be used (R547, Table 18-7). -/
def State.operatorOk (s : State) (slot : Nat) : Bool :=
  s.rd Reg.SEC_OPKEY_SLOT 0 == slot && slot < 4 && (s.rd Reg.SEC_LIFECYCLE 0 == 1 || s.rd Reg.SEC_LIFECYCLE 0 == 2)

/-- The signature verifies: under the key of the slot in force or, for a move into PROVISIONED, under the payload's (Table 18-9). -/
def State.envSigned (s : State) (fresh : Bool) (e : List Nat) (payload : List Nat) : Bool :=
  let key := if fresh then slice payload 4 32 else (tget [] s.sec.opkeys (envSlot e) ++ List.replicate 32 0).take 32
  Config.verifies key (Machine.envSigned e) (envSig e)

/-- The cause with which an envelope fails, 0 if none (Table 18-9), and its payload. `fresh` is a move into PROVISIONED, whose payload
is unwrapped before check 2; one that does not name the unit has no payload to read, and fails as NOT_NAMED (log entry 32). -/
def State.envelopeCause (s : State) (op : Nat) (fresh : Bool) (e : List Nat) : Nat × List Nat :=
  if !envForm op e then (1, [])
  else
    match s.ownUnit e with
    | none => (if fresh then 4 else if !s.operatorOk (envSlot e) then 2 else if !s.envSigned false e [] then 3 else 4, [])
    | some u =>
      let p := s.unwrap e u
      let text := p.getD []
      let c :=
        if fresh && p.isNone then 6
        else if !fresh && !s.operatorOk (envSlot e) then 2
        else if !s.envSigned fresh e text then 3
        else if !s.rdBit Reg.SEC_NONCE_VALID 0 || u.nonce != s.nonce then 5
        else if p.isNone then 6
        else 0
      (c, text)

/-- An envelope is checked (R561, R562): the state after, and its payload or the cause. A nonce is consumed by
the first envelope that reaches check 5 with it; an accepted envelope extends M4. -/
def State.checkEnvelope (s : State) (op : Nat) (fresh caused : Bool) (e : List Nat) : State × Except Nat (List Nat) :=
  let r := s.envelopeCause op fresh e
  let s1 := if r.1 = 0 || (r.1 = 6 && !fresh) then s.dropNonce else s
  if r.1 = 0 then (s1.extend 4 (Config.sha512 (envSig e)), .ok r.2)
  else ((s1.count Reg.SEC_ENV_BAD_CNT 0).say caused Ev.SEC_ENVELOPE_BAD srcDevice
      [(2, op), (1, r.1), (4, s.rd Reg.SEC_SERIAL_LO 0)], .error r.1)

/-! ### Keys -/

/-- A slot of the key store. -/
def State.keySlot (s : State) (k : Nat) : KeySlot := tget {} s.cip.slots k

/-- CIP_ROOT_STATE and CIP_WRAP_LOADED follow the key store (Table 11-10). -/
def State.slotRegs (s : State) : State :=
  let root (k : Nat) : Nat :=
    let x := s.keySlot k
    (ofBool x.h0.isSome + 2 * ofBool x.h1.isSome + 4 * ofBool x.erasing) * 2 ^ (4 * k)
  let wrap (b : Nat) : Nat := ((List.range 32).map (fun i =>
    let x := s.keySlot (0x80 + b + i)
    ofBool (x.h0.isSome || x.h1.isSome) * 2 ^ i)).sum
  ((s.wr Reg.CIP_ROOT_STATE 0 (root 0 + root 1 + root 2 + root 3)).wr Reg.CIP_WRAP_LOADED_LO 0 (wrap 0)).wr
    Reg.CIP_WRAP_LOADED_HI 0 (wrap 32)

/-- The state with a slot replaced, and its registers. -/
def State.setSlot (s : State) (k : Nat) (x : KeySlot) : State :=
  ({ s with cip := { s.cip with slots := tset s.cip.slots k x } } : State).slotRegs

/-- A half of a slot. -/
def KeySlot.half (x : KeySlot) (i : Nat) : Option KeyHalf := if i = 0 then x.h0 else x.h1
def KeySlot.setHalf (x : KeySlot) (i : Nat) (h : Option KeyHalf) : KeySlot :=
  if i = 0 then { x with h0 := h } else { x with h1 := h }

/-- The half that the key of an epoch is derived from (R352): the largest FROM_EPOCH that does not exceed it. -/
def KeySlot.halfFor (x : KeySlot) (e : Nat) : Option Nat :=
  let ok (i : Nat) : Bool := match x.half i with | some h => decide (h.fromEpoch ≤ e) | none => false
  match ok 0, ok 1 with
  | false, false => none
  | true, false => some 0
  | false, true => some 1
  | true, true =>
    match x.h0, x.h1 with
    | some a, some b => if a.fromEpoch < b.fromEpoch then some 1 else some 0
    | _, _ => none

/-- The half of a slot that gives an epoch's key, if there is a key (R352, R355, R381). -/
def State.halfOf (s : State) (k e : Nat) : Option Nat :=
  let x := s.keySlot k
  if s.rd Reg.CIP_PAIR_ID 0 = 0 || x.erasing then none else x.halfFor e

/-- The label of a key (Table 11-4): SCID, DIR, TYPE, EPOCH, PAIR and NONCE, big-endian. -/
def keyLabel (scid dir typ epoch pair nonce : Nat) : List Nat :=
  (leBytes 4 scid).reverse ++ [dir, typ] ++ (leBytes 2 epoch).reverse ++ (leBytes 2 pair).reverse ++ leBytes 14 nonce

/-- The fixed input of block `i` of the key derivation (Table 11-3). -/
def kdfInput (i : Nat) (label : List Nat) : List Nat := [i, 0x45, 0x4B, 0x53, 0x45, 0x41, 0x4C, 0] ++ label ++ [1, 0x80]

/-- The key and salt that a PRF key and a label give (R353): output bits [383:128] and [127:80]. -/
def deriveKey (prf : Nat) (label : List Nat) : Nat × Nat :=
  let b (i : Nat) : Nat := Config.cmac prf (kdfInput i label) % 2 ^ 128
  (b 1 * 2 ^ 128 + b 2, b 3 / 2 ^ 80)

/-- The newest loaded half of slot 3 (R357); none once an erase of the slot has begun. -/
def State.newestHalf (s : State) : Option KeyHalf :=
  let x := s.keySlot 3
  if x.erasing then none
  else match x.h0, x.h1 with
    | some a, some b => if a.fromEpoch < b.fromEpoch then some b else some a
    | some a, none => some a
    | none, b => b

/-- The key-encryption key (R357, Table 11-4 TYPE 3). -/
def State.kek (s : State) : Option Nat := s.newestHalf.map (fun h => (deriveKey h.key (keyLabel 0 0 3 0 0 0)).1)

/-- DIR (R354): 0 when the sender's pair identity is the lower. -/
def labelDir (sender receiver : Nat) : Nat := if sender < receiver then 0 else 1

/-- The intent whose ID names a context's circuit (Table 11-4). -/
def State.scid (s : State) (c : Nat) : Nat := match s.ctx? c with | some x => x.intent | none => 0

/-- The key of an epoch for direction `dir` (0 sending) of a context (R353, R354). -/
def State.contextKey (s : State) (c dir e : Nat) : Option DerivedKey :=
  match tfind s.cip.ctxs c with
  | none => none
  | some x =>
    match s.halfOf x.slot e with
    | none => none
    | some i =>
      match (s.keySlot x.slot).half i with
      | none => none
      | some h =>
        let own := s.rd Reg.CIP_PAIR_ID 0
        let sender := if dir = 0 then own else h.peer
        let receiver := if dir = 0 then h.peer else own
        let d := deriveKey h.key (keyLabel (s.scid c) (labelDir sender receiver) 0 e sender 0)
        some { epoch := e, key := d.1, salt := d.2, since := s.addr }

/-! ### Directions -/

/-- A sealed context's cipher state. -/
def State.cip? (s : State) (c : Nat) : Option CipCtx := tfind s.cip.ctxs c

/-- CIP_CACHE_USED and CIP_CTX_STOPPED follow the directions (Table 11-10, R358). -/
def State.cipRegs (s : State) : State :=
  let l := s.cip.ctxs.map (·.2)
  (s.wr Reg.CIP_CACHE_USED 0 (2 * l.length)).wr Reg.CIP_CTX_STOPPED 0
    ((l.filter (fun x => x.tx.stop != 0)).length + (l.filter (fun x => x.rx.stop != 0)).length)

/-- The state with a sealed context's cipher state replaced, and its registers. -/
def State.setCip (s : State) (c : Nat) (x : CipCtx) : State :=
  ({ s with cip := { s.cip with ctxs := tset s.cip.ctxs c x } } : State).cipRegs

/-- CIP_DERIVE_BUSY follows the requests (R359): four units, less those that failed self-test (24 to 27 among the unusable). -/
def State.busyRegs (s : State) : State :=
  s.wr Reg.CIP_DERIVE_BUSY 0 (min (4 - (s.ovm.unusable.filter (fun u => 24 ≤ u && u < 28)).length) s.cip.requests.length)

/-- A derivation is requested (R358, R359). -/
def State.wantKey (s : State) (c dir e deadline : Nat) : State :=
  let others := s.cip.requests.filter (fun r => !(r.ctx == c && r.dir == dir && r.epoch == e))
  ({ s with cip := { s.cip with
    requests := others ++ [{ ctx := c, dir := dir, epoch := e, deadline := deadline, since := s.time }] } } :
      State).busyRegs

/-- The deadline of a key that no block needs yet. -/
def noDeadline : Nat := 0x10000000000000000

/-- Keys of an epoch and the next are requested for a direction (R358); no block needs the next one yet. -/
def State.wantKeys (s : State) (c dir e deadline : Nat) : State :=
  (s.wantKey c dir e deadline).wantKey c dir (e + 1) noDeadline

/-- A key is in a direction's cache entry. -/
def hasKey (l : List DerivedKey) (e : Nat) : Bool := l.any (fun d => d.epoch == e)

/-- A key is requested unless the direction's cache entry holds it. -/
def State.needKey (s : State) (c dir e deadline : Nat) : State :=
  match s.cip? c with
  | none => s
  | some x => if hasKey (if dir = 0 then x.txCache else x.rxCache) e then s else s.wantKey c dir e deadline

/-- A key leaves a direction's cache entry and is requested anew (R358). -/
def State.renewKey (s : State) (c dir e : Nat) : State :=
  match s.cip? c with
  | none => s
  | some x =>
    let y : CipCtx := if dir = 0 then { x with txCache := x.txCache.filter (fun d => d.epoch != e) }
      else { x with rxCache := x.rxCache.filter (fun d => d.epoch != e) }
    (s.setCip c y).wantKey c dir e noDeadline

/-- The half has served a direction (R380). -/
def State.markUsed (s : State) (k e : Nat) : State :=
  match s.halfOf k e with
  | none => s
  | some i =>
    let x := s.keySlot k
    match x.half i with
    | none => s
    | some h => if h.used then s else s.setSlot k (x.setHalf i (some { h with used := true }))

/-- A direction stops (R367). -/
def State.stopDir (s : State) (c dir cause : Nat) : State :=
  match s.cip? c with
  | none => s
  | some x =>
    let was := if dir = 0 then x.tx.stop else x.rx.stop
    let y : CipCtx := if dir = 0 then { x with tx := { x.tx with stop := cause } } else { x with rx := { x.rx with stop := cause } }
    if was != 0 then s
    else (s.setCip c y).raise Ev.CTX_STOPPED (srcCtx c) [(2, c), (1, dir), (1, cause)]

/-- A direction resumes (R367). -/
def State.resumeDir (s : State) (c dir : Nat) : State :=
  match s.cip? c with
  | none => s
  | some x =>
    let was := if dir = 0 then x.tx.stop else x.rx.stop
    let e := if dir = 0 then x.tx.epoch else x.rx.pEpoch
    let y : CipCtx := if dir = 0 then { x with tx := { x.tx with stop := 0 } } else { x with rx := { x.rx with stop := 0 } }
    if was = 0 then s
    else (s.setCip c y).raise Ev.CTX_RESUMED (srcCtx c) [(2, c), (1, dir), (2, e)]

/-- The epoch of a stopped or running direction may be entered (R365): it does not exceed the reservation. -/
def State.reserved (s : State) (e : Nat) : Bool := e ≤ s.rd Reg.CIP_EPOCH_RESV 0

/-- A sealed context is placed (R358, R360, R368, R369): sending from CIP_EPOCH_CUR, receiving SEEKING. `joins` says
that this unit starts sending it without having sent it since its epoch began. -/
def State.placeCipher (s : State) (c slot epoch : Nat) (joins : Bool) : State :=
  let x : CipCtx := { slot := slot, tx := { epoch := epoch }, rx := {} }
  let s1 := (((s.setCip c x).wantKeys c 0 epoch s.addr).wantKeys c 1 epoch s.addr).markUsed slot epoch
  if joins then s1.stopDir c 0 4
  else if !s.reserved epoch then s1.stopDir c 0 5
  else s1

/-- A flip no longer waits for a context; one that has fired ends when the last has flipped (R362). -/
def State.endFlip (s : State) (c : Nat) (sent : Bool) : State :=
  let hit (f : CipFlip) : Bool := f.waiting.contains c && (f.fired || !sent)
  let cut (f : CipFlip) : CipFlip := if hit f then { f with waiting := f.waiting.filter (fun d => d != c) } else f
  let over_ := (s.cip.flips.map cut).filter (fun f => f.fired && f.waiting.isEmpty)
  let s1 := { s with cip := { s.cip with flips := (s.cip.flips.map cut).filter (fun f => !(f.fired && f.waiting.isEmpty)) } }
  over_.foldl (fun a f => a.raise Ev.EPOCH_FLIPPED (if f.scope = 0 then srcCtx f.num else srcDevice)
    [(1, f.scope), (if f.scope = 0 then 2 else 1, f.num), (2, f.epoch), (4, f.targets.length)]) s1

/-- A sealed context is withdrawn (R373): its entries leave the cache. -/
def State.dropCipher (s : State) (c : Nat) : State :=
  let s1 : State := { s with cip := { s.cip with ctxs := tdel s.cip.ctxs c, requests := s.cip.requests.filter (fun r => r.ctx != c) } }
  ((s1.cipRegs).busyRegs).endFlip c false

/-- The record's cipher state (Table 11-5). -/
def State.cipherBytes (s : State) (c : Nat) : List Nat :=
  match s.cip? c with
  | none => List.replicate 48 0
  | some x =>
    let t := x.tx
    let r := x.rx
    let st := if t.stop != 0 then 3 else if t.announced then 2 else if t.flip.isSome then 1 else 0
    let halves := (s.halfOf x.slot t.epoch).getD 0 + 2 * (s.halfOf x.slot r.epoch).getD 0
    leBytes 2 t.epoch ++ leBytes 2 (if t.announced then t.flip.getD t.epoch else t.epoch) ++ leBytes 6 t.ctr ++ [st, t.stop] ++
      leBytes 2 r.epoch ++ leBytes 2 r.pEpoch ++ leBytes 6 r.pIv ++ [ofBool r.running, r.forced] ++ leBytes 4 r.fails ++
      leBytes 2 (min 65535 r.noTag) ++ leBytes 2 (min 65535 r.ivMis) ++ leBytes 4 t.blocks ++ leBytes 4 r.passed ++
      [x.slot, halves] ++ List.replicate 6 0

/-! ### Loading and erasing -/

/-- The epochs in use, announced or scheduled on a slot (R379). -/
def State.slotEpochs (s : State) (k : Nat) : List Nat :=
  ((s.cip.ctxs.filter (fun e => e.2.slot == k)).map (fun e =>
    [e.2.tx.epoch, e.2.tx.flip.getD 0, e.2.rx.epoch, e.2.rx.pEpoch])).flatten ++
    (s.cip.flips.map (fun f => (f.targets.filter (fun t => match s.cip? t.1 with | some x => x.slot == k | none => false)).map (·.2))).flatten

/-- A direction's epoch falls in a half's range (R380). -/
def State.halfInUse (s : State) (k i : Nat) : Bool :=
  s.cip.ctxs.any (fun e => e.2.slot == k &&
    ((s.keySlot k).halfFor e.2.tx.epoch == some i || (s.keySlot k).halfFor e.2.rx.epoch == some i ||
      (s.keySlot k).halfFor e.2.rx.pEpoch == some i))

/-- A block sealed under a half is being sent, or one opened under it awaits its verdict (R380). -/
def State.halfInFlight (s : State) (k i : Nat) : Bool :=
  s.cip.ctxs.any (fun e => e.2.slot == k && (e.2.tx.inHalf == some i || (e.2.rx.pending && e.2.rx.inHalf == some i)))

/-- The half that a load writes (R379): the one no direction uses; of two, an empty one, or the newer. -/
def State.loadHalf (s : State) (k : Nat) : Option Nat :=
  let x := s.keySlot k
  match s.halfInUse k 0, s.halfInUse k 1 with
  | true, true => none
  | true, false => some 1
  | false, true => some 0
  | false, false =>
    match x.h0, x.h1 with
    | none, _ => some 0
    | _, none => some 1
    | some a, some b => if a.fromEpoch < b.fromEpoch then some 1 else some 0

/-- Why a load on a slot is refused (R379): EPOCH_PAST, then SLOT_BUSY. -/
def State.loadReason (s : State) (k fromEpoch : Nat) : Option Nat :=
  if (s.slotEpochs k).any (fun e => decide (fromEpoch ≤ e)) then some 4
  else if (s.keySlot k).erasing || (s.loadHalf k).isNone then some 5
  else none

/-- A context's next keys that half `i` of its slot covers are derived again (R358). -/
def State.deriveAgain (s : State) (k i c : Nat) (x : CipCtx) : State :=
  let s1 := if s.halfOf k (x.tx.epoch + 1) == some i then s.renewKey c 0 (x.tx.epoch + 1) else s
  if s1.halfOf k (x.rx.pEpoch + 1) == some i then s1.renewKey c 1 (x.rx.pEpoch + 1) else s1

/-- A key half is loaded (R358, R379): cache entries that it covers are derived again. -/
def State.loadKey (s : State) (k fromEpoch peer key : Nat) (caused : Bool) : State :=
  match s.loadHalf k with
  | none => s
  | some i =>
    let s1 := s.setSlot k ((s.keySlot k).setHalf i (some { fromEpoch := fromEpoch, peer := peer, key := key }))
    let s2 := (s.cip.ctxs.filter (fun e => e.2.slot == k)).foldl (fun a e => a.deriveAgain k i e.1 e.2) s1
    let root := ofBool (k < 4)
    s2.say caused Ev.KEY_LOADED srcDevice [(1, root), (1, if k < 4 then k else k - 0x80), (2, fromEpoch)]

/-- Slots that an erase of a slot takes with it (R381): root slot 3 takes the 64 wrapped slots. -/
def eraseSet (k : Nat) : List Nat := if k = 3 then 3 :: (List.range 64).map (· + 0x80) else [k]

/-- The erase of a slot has drained: no block in flight refers to it (R380, R381). -/
def State.drained (s : State) (k : Nat) : Bool :=
  (eraseSet k).all (fun j => !s.halfInFlight j 0 && !s.halfInFlight j 1)

/-- A drained erase zeroises the slot, its cache halves and what goes with it (R381). -/
def State.finishErase (s : State) (k : Nat) (caused : Bool) : State :=
  let x := s.keySlot k
  if !x.erasing || !s.drained k then s
  else
    let gone := eraseSet k
    let s1 : State := { s with cip := { s.cip with
      slots := gone.foldl tdel s.cip.slots,
      ctxs := s.cip.ctxs.map (fun e => if gone.contains e.2.slot then (e.1, { e.2 with txCache := [], rxCache := [] }) else e),
      requests := s.cip.requests.filter (fun r => match s.cip? r.ctx with | some y => !gone.contains y.slot | none => false) } }
    ((s1.slotRegs).busyRegs).say caused Ev.KEY_ERASED srcDevice
      [(1, ofBool (k < 4)), (1, if k < 4 then k else k - 0x80), (4, x.stopped)]

/-- A slot's erase begins (R381): from its next block every direction that uses it is stopped. -/
def State.eraseSlot (s : State) (k : Nat) (caused : Bool) : State :=
  let users := (s.cip.ctxs.filter (fun e => (eraseSet k).contains e.2.slot)).length
  let mark (a : State) (j : Nat) : State :=
    a.setSlot j { a.keySlot j with erasing := true, stopped := if j = k then 2 * users else (a.keySlot j).stopped }
  let loaded (j : Nat) : Bool := j == k || (s.keySlot j).h0.isSome || (s.keySlot j).h1.isSome
  (((eraseSet k).filter loaded).foldl mark s).finishErase k caused

/-- Every root and wrapped slot is erased as R381 erases one (R559, R564). -/
def State.eraseAll (s : State) (caused : Bool) : State :=
  let loaded := (s.cip.slots.map (·.1)).filter (fun j => 0x80 ≤ j)
  ([0, 1, 2].foldl (fun a k => a.eraseSlot k caused) (loaded.foldl (fun a k => a.eraseSlot k caused) s)).eraseSlot 3 caused

/-- CIP_ROOT_LOAD: the refusal's reason, or none and the load is made (R378, R379, R355). -/
def State.doRootLoad (s : State) (e : List Nat) (forwarded : Bool) : State × Nat :=
  match s.checkEnvelope Op.CIP_ROOT_LOAD false (!forwarded) e with
  | (s1, .error _) => (s1, 2)
  | (s1, .ok b) =>
    let slot := b.getD 0 0
    let from_ := b.getD 2 0 + 256 * b.getD 3 0
    let peer := b.getD 4 0 + 256 * b.getD 5 0
    let key := leNum ((b.drop 8).take 32)
    if 3 < slot || (slot != 3 && peer == s1.rd Reg.CIP_PAIR_ID 0) then (s1, 1)
    else if !forwarded && !s1.hasAuthority then (s1, 3)
    else match s1.loadReason slot from_ with
      | some r => (s1, r)
      | none =>
        let s2 := s1.loadKey slot from_ peer key (!forwarded)
        (if forwarded then s2 else s2.sendFwd (.rootLoad e), 0)

/-- CIP_KEY_ERASE (R378, R381): no authority is needed. -/
def State.doKeyErase (s : State) (e : List Nat) (forwarded : Bool) : State × Nat :=
  match s.checkEnvelope Op.CIP_KEY_ERASE false (!forwarded) e with
  | (s1, .error _) => (s1, 2)
  | (s1, .ok b) =>
    let what := b.getD 0 0
    let slot := b.getD 1 0
    if 1 < what || (what == 0 && 3 < slot) || (what == 1 && 63 < slot) then (s1, 1)
    else
      let s2 := s1.eraseSlot (if what = 0 then slot else 0x80 + slot) (!forwarded)
      (if forwarded then s2 else s2.sendFwd (.keyErase e), 0)

/-- CIP_WRAP_LOAD (R357, R379). Without a loaded half of slot 3 there is no KEK, so nothing unwraps. -/
def State.doWrapLoad (s : State) (p : WrapLoad) (forwarded : Bool) : State × Nat :=
  let k := 0x80 + p.slot
  let open_ := s.rd Reg.SEC_LIFECYCLE 0 == 1 || s.rd Reg.SEC_LIFECYCLE 0 == 2
  if 63 < p.slot || p.peer == s.rd Reg.CIP_PAIR_ID 0 then (s, 1)
  else if !forwarded && !s.hasAuthority then (s, 3)
  else match s.loadReason k p.fromEpoch with
    | some r => (s, r)
    | none =>
      match (s.kek.filter (fun _ => open_)).bind (fun e => Config.kwUnwrap e p.blob) with
      | none => (s, 6)
      | some key =>
        let s2 := s.loadKey k p.fromEpoch p.peer key (!forwarded)
        (if forwarded then s2 else s2.sendFwd (.wrapLoad p), 0)

/-- A block's command ends DONE, or REFUSED with its reason. -/
def State.finish (h : HostRef) (op : Nat) (r : State × Nat) : State := if r.2 = 0 then r.1.done h op else r.1.refuse h op r.2

/-- CIP_ROOT_LOAD (R378, R379). -/
def execCipRootLoad (dt : Nat) (h : HostRef) (e : List Nat) (s : State) : Host.Outcome State Fault Refusal :=
  .next (s.command dt h 10 Op.CIP_ROOT_LOAD (fun a => State.finish h Op.CIP_ROOT_LOAD (a.doRootLoad e false)))

/-- CIP_KEY_ERASE (R378, R381). -/
def execCipKeyErase (dt : Nat) (h : HostRef) (e : List Nat) (s : State) : Host.Outcome State Fault Refusal :=
  .next (s.command dt h 10 Op.CIP_KEY_ERASE (fun a => State.finish h Op.CIP_KEY_ERASE (a.doKeyErase e false)))

/-- CIP_WRAP_LOAD (R357, R379). -/
def execCipWrapLoad (dt : Nat) (h : HostRef) (p : WrapLoad) (s : State) : Host.Outcome State Fault Refusal :=
  .next (s.command dt h 10 Op.CIP_WRAP_LOAD (fun a => State.finish h Op.CIP_WRAP_LOAD (a.doWrapLoad p false)))

/-! ### Reservations -/

/-- A reservation that covers an epoch is written, or cannot be (R365). -/
def State.reserve (s : State) (e : Nat) (stored caused : Bool) : State :=
  let v := min 65535 (e + 16)
  if stored then
    let s1 : State := { s with cip := { s.cip with resvWant := none, resvFail := false } }
    (s1.wr Reg.CIP_EPOCH_RESV 0 v).say caused Ev.EPOCH_RESERVED srcDevice [(2, v)]
  else
    let s1 : State := { s with cip := { s.cip with resvWant := some e, resvFail := true } }
    s1.say caused Ev.EPOCH_RESV_FAIL srcDevice [(2, v)]

/-- EPOCH_RESERVATION (R365): the reservation that is wanted is written to NOR. -/
def execEpochReservation (dt : Nat) (stored : Bool) (s : State) : Host.Outcome State Fault Refusal :=
  let s1 := s.elapse dt
  .next (match s1.cip.resvWant with
    | none => s1
    | some e => s1.reserve e stored false)

/-! ### Flips -/

/-- The contexts that a flip names (Table 11-11). -/
def State.flipCtxs (s : State) (p : EpochFlip) : List Nat :=
  (s.cip.ctxs.filter (fun e =>
    match p.scope with
    | 0 => e.1 == p.num
    | 1 => e.2.slot == p.num
    | 2 => e.2.slot == 0x80 + p.num
    | _ => true)).map (·.1)

/-- Why a flip is refused (R361, R363, R365), lowest reason first. -/
def State.flipReason (s : State) (p : EpochFlip) (l : List (Nat × Nat)) : Option Nat :=
  let with_ (f : CipCtx → Nat → Bool) : Bool := l.any (fun t => match s.cip? t.1 with | some x => f x t.2 | none => false)
  if 3 < p.scope || (p.scope == 1 && 2 < p.num) || (p.scope == 2 && 63 < p.num) then some 1
  else if !s.hasAuthority then some 3
  else if with_ (fun x e => decide (e ≤ x.tx.epoch)) then some 4
  else if p.scope = 0 && l.isEmpty then some 7
  else if l.any (fun t => decide (0xFFFF < t.2)) then some 8
  else if with_ (fun x e => (s.halfOf x.slot e).isNone) then some 9
  else if with_ (fun x _ => x.tx.flip.isSome) then some 0xA
  else none

/-- The contexts named, with their new epochs; the epoch 0 stands for each one's own plus 1. -/
def State.flipTargets (s : State) (p : EpochFlip) : List (Nat × Nat) :=
  (s.flipCtxs p).map (fun c => (c, if p.epoch = 0 then (match s.cip? c with | some x => x.tx.epoch + 1 | none => 1) else p.epoch))

/-- The address of the flip's entry (R361): the first cycle divisible by 32 at least 8 cycles on. -/
def State.flipDue (s : State) : Nat := ceilTo 32 (s.cycle + 8) * Config.cyclePos

/-- The flip's one-shot entry (R361, Table 02-2). -/
def flipEntry (due : Nat) : SchedEntry :=
  { period := 3, cyc := 0, pos := 0, cls := 7, target := 0, arg := due / Config.cyclePos % 65536 * 256 }

/-- A flip is scheduled (R361, R364): its entry joins those of the next bank. -/
def State.scheduleFlip (s : State) (p : EpochFlip) (l : List (Nat × Nat)) : State :=
  let due := s.flipDue
  let f : CipFlip := { scope := p.scope, num := p.num, epoch := if p.epoch = 0 then (l.map (·.2)).foldl max 0 else p.epoch,
                       raiseCur := p.raiseCur, due := due, targets := l, waiting := l.map (·.1) }
  let s1 : State := { s with cip := { s.cip with flips := s.cip.flips ++ [f] },
                             shf := { s.shf with oneShots := s.shf.oneShots ++ [flipEntry due] } }
  l.foldl (fun a t => match a.cip? t.1 with
    | none => a
    | some x => (a.setCip t.1 { x with tx := { x.tx with flip := some t.2, fired := false } }).needKey t.1 0 t.2 due) s1

/-- CIP_EPOCH_FLIP (R361 to R365). A flip above the reservation is refused with EPOCH_EXHAUSTED when the new
reservation cannot be stored. The unit that a flip is forwarded to makes its own reservation and holds the same entry. -/
def State.doEpochFlip (s : State) (p : EpochFlip) (stored forwarded : Bool) : State × Nat :=
  let l := s.flipTargets p
  let most := (l.map (·.2)).foldl max 0
  let s1 := if s.reserved most then s else s.reserve most stored (!forwarded)
  match s.flipReason p l with
  | some 3 => if forwarded then (s1.scheduleFlip p l, 0) else (s, 3)
  | some r => (s, r)
  | none =>
    if !s1.reserved most then (s1, 8)
    else
      let s2 := s1.scheduleFlip p l
      (if forwarded then s2 else s2.sendFwd (.epochFlip p), 0)

/-- CIP_EPOCH_FLIP (R361). -/
def execCipEpochFlip (dt : Nat) (h : HostRef) (p : EpochFlip) (stored : Bool) (s : State) :
    Host.Outcome State Fault Refusal :=
  .next (s.command dt h 10 Op.CIP_EPOCH_FLIP (fun a => State.finish h Op.CIP_EPOCH_FLIP (a.doEpochFlip p stored false)))

/-- A flip's entry fires (R362, R364). -/
def State.fireFlip (s : State) (f : CipFlip) : State :=
  let s1 : State := { s with cip := { s.cip with flips := s.cip.flips.map (fun g => if g == f then { g with fired := true } else g) } }
  let s2 := f.targets.foldl (fun a t => match a.cip? t.1 with
    | none => a
    | some x => a.setCip t.1 { x with tx := { x.tx with fired := true } }) s1
  if f.raiseCur && s2.rd Reg.CIP_EPOCH_CUR 0 < f.epoch then s2.wr Reg.CIP_EPOCH_CUR 0 f.epoch else s2

/-- KEY_EPOCH_FLIP (R361, R362, R364): the shaft reaches the earliest flip that waits, and it fires
where its entry has been dispatched (R20). -/
def execKeyEpochFlip (dt : Nat) (s : State) : Host.Outcome State Fault Refusal :=
  let s1 := s.elapse dt
  .next (match s1.cip.flips.filter (fun f => !f.fired) with
    | [] => s1
    | f :: rest =>
      let g := rest.foldl (fun a b => if b.due < a.due then b else a) f
      let s2 := s1.waitAddr g.due
      if s2.addr < g.due || !s2.dispatched 7 (fun _ => true) then s2
      else
        let s3 : State := { s2 with shf := { s2.shf with oneShots := s2.shf.oneShots.filter (fun e => e != flipEntry g.due) } }
        s3.fireFlip g)

/-! ### Sending -/

/-- The sending direction enters the epoch announced in the block before (R349, R362). -/
def State.enterEpoch (s : State) (c : Nat) (x : CipCtx) : State :=
  if !x.tx.announced then s
  else
    let e := x.tx.flip.getD x.tx.epoch
    let t : CipTx := { x.tx with epoch := e, ctr := 0, flip := none, fired := false, announced := false, warned := false }
    let s1 := ((s.setCip c { x with tx := t }).wantKey c 0 (e + 1) noDeadline).markUsed x.slot e
    (if (s1.halfOf x.slot e).isSome && s1.reserved e then s1.resumeDir c 0 else s1).endFlip c true

/-- Why a sending direction stops at a block (Table 11-9); 0 if it runs on. -/
def State.txCause (s : State) (x : CipCtx) : Nat :=
  if x.tx.ctr = 2 ^ 47 - 1 then 1
  else if (s.keySlot x.slot).erasing then 2
  else if (s.halfOf x.slot x.tx.epoch).isNone then 3
  else if !s.reserved x.tx.epoch then 5
  else 0

/-- LEN of a context's carriage blocks (Table 08-10). -/
def State.lenCode (s : State) (c : Nat) : Nat :=
  match (s.ctx? c).map (·.block) with
  | some 8 => 0
  | some 32 => 2
  | some 64 => 3
  | _ => 1

/-- The carriage stream (Table 08-10) of the block that a direction begins, with a tag. -/
def State.sealStream (s : State) (c : Nat) (x : CipCtx) (tag : Nat) : Carriage :=
  let t := x.tx
  { tag := tag, iv := s.unitBit * 2 ^ 47 + t.ctr, epoch := t.epoch, next := if t.announced then t.flip.getD t.epoch else t.epoch,
    flags := 1 + 2 * ofBool t.announced + 4 * ofBool (0x80 ≤ x.slot) + 8 * ofBool (t.stop != 0), len := s.lenCode c, mseq := t.mseq }

/-- The key and salt that a direction seals its next block with. -/
def State.sealKey (s : State) (c : Nat) (x : CipCtx) : Nat × Nat :=
  match x.txCache.find? (fun d => d.epoch == x.tx.epoch) with
  | some d => (d.key, d.salt)
  | none => match s.contextKey c 0 x.tx.epoch with
    | some d => (d.key, d.salt)
    | none => (0, 0)

/-- TAG of a block that begins (Table 08-10, R347): over the block before, sealed from its plaintext; 0 in the first block; after
a stopped block the spec gives none, and it is free. -/
def State.tagBefore (s : State) (t : CipTx) (before : List Nat) : Nat :=
  if t.stream.isEmpty then 0
  else if t.inHalf.isSome then Config.gcmTag t.key t.iv (cut t.stream 16 16) (Config.gcmCrypt t.key t.iv before)
  else Config.freeChoice s.freeCtr % 2 ^ 128

/-- The IV of the block that a direction sends next (Table 11-2). -/
def State.sealIv (s : State) (c : Nat) (x : CipCtx) : Nat := (s.sealKey c x).2 * 2 ^ 48 + s.unitBit * 2 ^ 47 + x.tx.ctr

/-- A sending direction begins a block, after one whose plaintext is `before` (R347, R349, R362, R366, R367). -/
def State.sendBlock (s : State) (c : Nat) (x : CipCtx) (before : List Nat) : State :=
  let t := x.tx
  let e := t.flip.getD t.epoch
  let tells := t.flip.isSome && t.fired && hasKey x.txCache e && (s.halfOf x.slot e).isSome
  let runs := t.stop = 0
  let warn := runs && 2 ^ 46 ≤ t.ctr && !t.warned
  let y : CipCtx := { x with tx := { t with announced := tells } }
  let u : CipTx := { y.tx with
    stream := (s.sealStream c y (s.tagBefore t before)).bytes, key := (s.sealKey c y).1, iv := s.sealIv c y, mseq := (t.mseq + 1) % 2 ^ 32,
    ctr := if runs then t.ctr + 1 else t.ctr, warned := t.warned || warn,
    inHalf := if runs then s.halfOf x.slot t.epoch else none,
    blocks := if runs then (t.blocks + 1) % 2 ^ 32 else t.blocks }
  (s.setCip c { y with tx := u }).draw.raiseIf warn Ev.CTR_WARN (srcCtx c) [(2, c), (1, 0), (2, t.epoch)]

/-- A context in mode SEQ begins a carriage block (R280, R284): SEALED 0 and TAG 0. What the counter and the epochs of its stream
hold the spec does not say; they are free. -/
def State.sendSeq (s : State) (c : Nat) : State :=
  let t := tget (0, []) s.map.seqTx c
  let free (i m : Nat) : Nat := Config.freeChoice (s.freeCtr + i) % m
  let f : Carriage := { tag := 0, iv := s.unitBit * 2 ^ 47 + free 0 (2 ^ 47), epoch := free 1 65536, next := free 2 65536,
                        flags := 0, len := s.lenCode c, mseq := t.1 }
  { s with map := { s.map with seqTx := tset s.map.seqTx c ((t.1 + 1) % 2 ^ 32, f.bytes) },
           freeCtr := s.freeCtr + 3 }

/-- SEALED_BLOCK_TX (R280, R281, R347, R349, R362, R366, R367): a sending direction begins a block. -/
def execSealedBlockTx (dt ctx : Nat) (before : List Nat) (s : State) : Host.Outcome State Fault Refusal :=
  let s1 := s.elapse dt
  .next (match s1.cip? ctx with
    | none => if (s1.ctx? ctx).any (fun y => y.active && y.scSeq) then s1.sendSeq ctx else s1
    | some x =>
      let s2 := s1.enterEpoch ctx x
      match s2.cip? ctx with
      | none => s2
      | some y =>
        let cause := s2.txCause y
        let s3 := if y.tx.stop = 0 && cause != 0 then s2.stopDir ctx 0 cause else s2
        match s3.cip? ctx with
        | none => s3
        | some z => s3.sendBlock ctx z before)

/-! ### Receiving -/

/-- A shaft address as AUTH_FAIL gives it (R384): cycle bits [15:0], then the position. -/
def shortAddr (a : Nat) : Nat := a / Config.cyclePos % 65536 + 65536 * (a % Config.cyclePos)

/-- The forced signal fail of a context follows its count (R371). -/
def State.forceFail (s : State) (c n : Nat) : State :=
  let k := s.frmKey c
  let u := s.framer k
  if u.sealFail = decide (n != 0) then s else (s.setFramer k { u with sealFail := decide (n != 0) }).settle k

/-- A verdict other than Pass (R371, R372): it is counted, signal fail is forced for two blocks, and AUTH_FAIL names
the block. `code` is Table 11-6's. -/
def State.failBlock (s : State) (c code first last frames : Nat) : State :=
  match s.cip? c with
  | none => s
  | some x =>
    let r : CipRx := { x.rx with forced := 2, fails := (x.rx.fails + 1) % 2 ^ 32,
                                 noTag := if code = 2 then min 65535 (x.rx.noTag + 1) else x.rx.noTag,
                                 ivMis := if code = 3 then min 65535 (x.rx.ivMis + 1) else x.rx.ivMis }
    ((s.setCip c { x with rx := r }).count Reg.CIP_AUTH_FAIL_CNT 0).raiseLim 16 Ev.AUTH_FAIL c (srcCtx c)
      [(2, c), (1, code), (1, frames), (4, shortAddr first), (4, shortAddr last)]

/-- The verdict on the block before (R370), by the tag that this block's stream carries and the one computed over that block. -/
def State.judgeTag (s : State) (c : Nat) (f : Option Carriage) (b : SealedRx) : State :=
  match s.cip? c with
  | none => s
  | some x =>
    if !x.rx.pending then s
    else
      let s1 := s.setCip c { x with rx := { x.rx with pending := false, inHalf := none } }
      match f with
      | none => s1.failBlock c 2 x.rx.first x.rx.last b.frames
      | some g =>
        if g.tag != Config.gcmTag x.rx.key x.rx.iv x.rx.aad b.before then s1.failBlock c 1 x.rx.first x.rx.last b.frames
        else s1.setCip c { x with rx := { x.rx with pending := false, inHalf := none, passed := (x.rx.passed + 1) % 2 ^ 32 } }

/-- The prediction after a block whose stream was good (R369, R370, log entry 33): a stopped block consumes no
counter. -/
def CipRx.predict (r : CipRx) (b : Carriage) : CipRx :=
  let ctr := if b.flip then 0 else if b.stop then b.iv % 2 ^ 47 else (b.iv % 2 ^ 47 + 1) % 2 ^ 47
  { r with running := true, epoch := b.epoch, pEpoch := if b.flip then b.next else b.epoch,
           pIv := b.iv / 2 ^ 47 * 2 ^ 47 + ctr, pMseq := (b.mseq + 1) % 2 ^ 32 }

/-- A receiving direction takes a prediction: keys of the next block's epoch are prefetched (R358, R359), an
epoch above the reservation is to be reserved (R365), and a stopped direction resumes under a new epoch that
has a key (R367). -/
def State.takePrediction (s : State) (c : Nat) (b : Carriage) (last : Nat) : State :=
  match s.cip? c with
  | none => s
  | some x =>
    let r := x.rx.predict b
    let s1 := (s.setCip c { x with rx := r }).markUsed x.slot r.pEpoch
    let s2 := (s1.needKey c 1 r.pEpoch (last + 1)).needKey c 1 (r.pEpoch + 1) noDeadline
    let s3 : State := if s2.reserved r.pEpoch then s2
      else { s2 with cip := { s2.cip with resvWant := some (max r.pEpoch (s2.cip.resvWant.getD 0)) } }
    let hasHalf := (s3.halfOf x.slot r.pEpoch).isSome
    if x.rx.stop != 0 && r.pEpoch != x.rx.pEpoch && hasHalf then s3.resumeDir c 1
    else if x.rx.stop = 0 && (s3.keySlot x.slot).erasing then s3.stopDir c 1 2
    else if x.rx.stop = 0 && !hasHalf then s3.stopDir c 1 3
    else s3

/-- The key that opens a block of the predicted epoch, if it was in the cache as the block began (Table 11-6, code 5). -/
def CipCtx.openKey (x : CipCtx) (first : Nat) : Option DerivedKey :=
  x.rxCache.find? (fun d => d.epoch == x.rx.pEpoch && decide (d.since ≤ first))

/-- The prediction moves on by one block (R369). -/
def CipRx.advance (r : CipRx) : CipRx :=
  { r with pIv := r.pIv / 2 ^ 47 * 2 ^ 47 + (r.pIv % 2 ^ 47 + 1) % 2 ^ 47, pMseq := (r.pMseq + 1) % 2 ^ 32 }

/-- The block is decrypted under the prediction and awaits its verdict (R369, R370). -/
def CipRx.await (r : CipRx) (d : DerivedKey) (half : Option Nat) (aad : List Nat) (b : SealedRx) : CipRx :=
  { r with pending := true, inHalf := half, first := b.first, last := b.last, key := d.key, iv := d.salt * 2 ^ 48 + r.pIv, aad := aad }

/-- A block under prediction whose stream is good (R370): its own verdict of code 3, 4 or 5, or it awaits one. -/
def State.runBlock (s : State) (c : Nat) (f : Carriage) (b : SealedRx) : State :=
  match s.cip? c with
  | none => s
  | some x =>
    if f.stop then s.takePrediction c f b.last
    else if f.epoch < x.rx.epoch then (s.setCip c { x with rx := x.rx.advance }).failBlock c 4 b.first b.last b.frames
    else if f.iv != x.rx.pIv || f.epoch != x.rx.pEpoch then (s.takePrediction c f b.last).failBlock c 3 b.first b.last b.frames
    else if x.rx.stop != 0 then s.takePrediction c f b.last
    else match x.openKey b.first with
      | none => (s.takePrediction c f b.last).failBlock c 5 b.first b.last b.frames
      | some d => (s.setCip c { x with rx := x.rx.await d (s.halfOf x.slot f.epoch) f.aad b }).takePrediction c f b.last

/-- A block whose stream has no good copy goes on under the prediction (Table 11-6, code 2), with the AAD that the prediction
gives it. -/
def State.blindBlock (s : State) (c : Nat) (b : SealedRx) : State :=
  match s.cip? c with
  | none => s
  | some x =>
    let f : Carriage := { tag := 0, iv := x.rx.pIv, epoch := x.rx.pEpoch, next := x.rx.pEpoch, flags := 1 + 4 * ofBool (0x80 ≤ x.slot),
                          len := s.lenCode c, mseq := x.rx.pMseq }
    let on : CipRx := { x.rx.advance with epoch := x.rx.pEpoch }
    if x.rx.stop != 0 then s.setCip c { x with rx := on }
    else match x.openKey b.first with
      | none => (s.setCip c { x with rx := on }).failBlock c 5 b.first b.last b.frames
      | some d =>
        let r := x.rx.await d (s.halfOf x.slot x.rx.pEpoch) f.aad b
        s.setCip c { x with rx := { r.advance with epoch := x.rx.pEpoch } }

/-- A block of forced signal fail has passed (R371). -/
def State.countForced (s : State) (c : Nat) : State :=
  match s.cip? c with
  | none => s
  | some x => s.setCip c { x with rx := { x.rx with forced := x.rx.forced - 1 } }

/-- SEALED_BLOCK_RX (R369 to R372, R282): a receiving direction checks a block's stream, which gives the verdict on
the block before. -/
def execSealedBlockRx (dt ctx : Nat) (b : SealedRx) (s : State) : Host.Outcome State Fault Refusal :=
  let s1 := s.elapse dt
  .next (match s1.cip? ctx with
    | none => s1
    | some x =>
      let f := readCarriage b.stream
      let s2 := (if f.isSome then s1 else s1.streamBad ctx).countForced ctx
      let s3 := if !x.rx.running then
          (match f with
            | some g => if x.rx.epoch ≤ g.epoch then s2.takePrediction ctx g b.last else s2
            | none => s2)
        else
          let s4 := s2.judgeTag ctx f b
          match f with
          | some g => s4.runBlock ctx g b
          | none => s4.blindBlock ctx b
      match s3.cip? ctx with
      | none => s3
      | some y => s3.forceFail ctx y.rx.forced)

/-! ### Derivation -/

/-- The request that is served first (R359): earliest deadline, then lowest context. -/
def firstReq : List DeriveReq → Option DeriveReq
  | [] => none
  | r :: rest =>
    match firstReq rest with
    | none => some r
    | some q => if q.deadline < r.deadline || (q.deadline == r.deadline && q.ctx < r.ctx) then some q else some r

/-- A derived key joins its cache entry (R358), which keeps the keys of its current epoch and the next. -/
def addKey (l : List DerivedKey) (d : DerivedKey) (cur : Nat) : List DerivedKey :=
  d :: l.filter (fun k => k.epoch != d.epoch && cur ≤ k.epoch)

/-- KEY_DERIVED (R358, R359): a unit completes the most urgent derivation, no sooner than 0.16 µs after it was
requested. -/
def execKeyDerived (dt : Nat) (s : State) : Host.Outcome State Fault Refusal :=
  let s1 := s.elapse dt
  .next (match firstReq s1.cip.requests with
    | none => s1
    | some r =>
      let s2 := s1.elapse (r.since + 25 - s1.time)
      let s3 : State := ({ s2 with cip := { s2.cip with requests := s2.cip.requests.filter (fun q => q != r) } } : State).busyRegs
      match s3.contextKey r.ctx r.dir r.epoch, s3.cip? r.ctx with
      | some d, some x =>
        (s3.setCip r.ctx (if r.dir = 0 then { x with txCache := addKey x.txCache d x.tx.epoch }
          else { x with rxCache := addKey x.rxCache d x.rx.epoch })).count Reg.CIP_DERIVE_CNT 0
      | _, _ => s3)

/-! ### Bulk messages -/

/-- The awake pipeline with the least charge, the lowest-numbered on a tie (R375). -/
def State.bulkPipe (s : State) : Option Nat :=
  leastBy (fun p => (pipeLoad s.ovm.ctxs (·.pipeIn) p + pipeLoad s.ovm.ctxs (·.pipeEg) p) * 32 + p) ((List.range 24).filter (fun p =>
    !s.ovm.gated.contains p && !s.ovm.unusable.contains p))

/-- CIP_PIPE_BULK follows the pipelines (Table 11-10). -/
def State.bulkRegs (s : State) : State :=
  s.wr Reg.CIP_PIPE_BULK 0 (((s.cip.pipes.filter (fun e => e.2.run.isSome)).map (fun e => 2 ^ e.1)).sum)

/-- The state with a pipeline's bulk messages replaced. -/
def State.setPipe (s : State) (p : Nat) (x : BulkPipe) : State :=
  ({ s with cip := { s.cip with pipes := tset s.cip.pipes p x } } : State).bulkRegs

/-- A bulk message that slot 3 can give a key. -/
def State.bulkKeyed (s : State) : Bool := s.newestHalf.isSome

/-- The key and salt of a bulk message (R374, Table 11-4). -/
def State.bulkKey (s : State) (m : BulkMsg) : Nat × Nat :=
  match s.newestHalf with
  | some h => deriveKey h.key (keyLabel 0 0 m.typ 0 (s.rd Reg.CIP_PAIR_ID 0) m.nonce)
  | none => (0, 0)

/-- Bytes 0 to 31 of a sealed bulk message, its AAD (Table 11-7). -/
def bulkHead (m : BulkMsg) : List Nat :=
  [m.typ, m.prio, 0, 0] ++ leBytes 4 m.length ++ leBytes 6 m.iv ++ leBytes 2 m.pair ++ leBytes 14 m.nonce ++ [0, 0]

/-- A received sealed bulk message (Table 11-7); `early` says that its consumer asks for early release. -/
def readBulk (early : Bool) (b : List Nat) : BulkMsg :=
  let n := leNum (cut b 4 4)
  { typ := b.getD 0 0, prio := b.getD 1 0, length := n, iv := leNum (cut b 8 6), nonce := leNum (cut b 16 14), opening := true,
    early := early, pair := leNum (cut b 14 2), text := cut b 32 n, tag := beNum (b.drop (32 + n)) }

/-- A sealed bulk message as it is laid out (Table 11-7). -/
def bulkBytes (m : BulkMsg) : List Nat := bulkHead m ++ m.text ++ beBytes 16 m.tag

/-- The tag that a bulk message's key gives over a ciphertext (R374). -/
def State.bulkTag (s : State) (m : BulkMsg) (text : List Nat) : Nat :=
  Config.gcmTag (s.bulkKey m).1 ((s.bulkKey m).2 * 2 ^ 48 + m.iv) (bulkHead m) text

/-- A message to be sealed takes the next counter of its key, with the unit bit, and this device's pair identity (R348, R374). -/
def State.numberBulk (s : State) (m : BulkMsg) : State × BulkMsg :=
  if m.opening || !s.bulkKeyed then (s, m)
  else
    let k := 4 * m.nonce + m.typ
    let n := tget 0 s.cip.bulkCtr k
    ({ s with cip := { s.cip with bulkCtr := tset s.cip.bulkCtr k (n + 1) } },
      { m with iv := s.unitBit * 2 ^ 47 + n % 2 ^ 47, pair := s.rd Reg.CIP_PAIR_ID 0 })

/-- A message sealed: its ciphertext and tag (R374). -/
def State.sealBulk (s : State) (m : BulkMsg) : BulkMsg :=
  let text := Config.gcmCrypt (s.bulkKey m).1 ((s.bulkKey m).2 * 2 ^ 48 + m.iv) m.text
  { m with text := text, tag := s.bulkTag m text }

/-- The plaintext of a received message (R374). -/
def State.openBulk (s : State) (m : BulkMsg) : List Nat :=
  Config.gcmCrypt (s.bulkKey m).1 ((s.bulkKey m).2 * 2 ^ 48 + m.iv) m.text

/-- A message meets a pipeline (R376): it runs, suspends a less urgent one, or waits. -/
def State.meetPipe (s : State) (p : Nat) (r : BulkRun) : State :=
  let x := tget {} s.cip.pipes p
  match x.run with
  | none => s.setPipe p { x with run := some r }
  | some q =>
    if r.msg.prio < q.msg.prio then
      if x.suspended.length < 8 then
        (s.setPipe p { x with run := some r, suspended := x.suspended ++ [q] }).count Reg.CIP_SUSPEND_CNT 0
      else (s.setPipe p { x with waiting := x.waiting ++ [r] }).count Reg.CIP_SUSPEND_FULL_CNT 0
    else s.setPipe p { x with waiting := x.waiting ++ [r] }

/-- A bulk result reaches its consumer (Table 11-8): a failed tag is counted and raised. -/
def State.bulkResult (s : State) (p : Nat) (m : BulkMsg) (res : Nat) : State :=
  let s1 : State := { s with cip := { s.cip with results := ((m, res) :: s.cip.results).take 256 } }
  if res = 1 || res = 2 then
    (s1.count Reg.CIP_BULK_AUTH_FAIL_CNT 0).raise Ev.BULK_AUTH_FAIL (srcPipe p)
      [(1, m.typ), (1, p), (6, m.iv % 2 ^ 47), (1, ofBool (res == 2))]
  else s1

/-- BULK_MESSAGE (R375 to R377): a message arrives at the cipher pool. With no pipeline awake, pipeline 0 wakes for
it. -/
def execBulkMessage (dt : Nat) (m : BulkMsg) (s : State) : Host.Outcome State Fault Refusal :=
  let n := (s.elapse dt).numberBulk m
  let s1 := n.1
  let r : BulkRun := { msg := n.2, keyed := s1.bulkKeyed, order := s1.cip.arrivals }
  let s2 : State := { s1 with cip := { s1.cip with arrivals := s1.cip.arrivals + 1 } }
  .next (if !r.keyed then s2.bulkResult 0 m 3
    else match s2.bulkPipe with
      | some p => s2.meetPipe p r
      | none => (s2.loadStep (.wake 0)).meetPipe 0 r)

/-- The message that a pipeline takes up next (R376): most urgent first, then in order of arrival. -/
def nextBulk (l : List BulkRun) : Option BulkRun :=
  l.foldl (fun a r =>
    match a with
    | none => some r
    | some q => if r.msg.prio < q.msg.prio || (r.msg.prio == q.msg.prio && r.order < q.order) then some r else some q) none

/-- BULK_OPEN (R374, R376, R377): the message running on a pipeline ends, one being opened gives its consumer a result by its
tag, one being sealed is handed out, and the pipeline takes up the next. -/
def execBulkOpen (dt pipe : Nat) (s : State) : Host.Outcome State Fault Refusal :=
  let s1 := s.elapse dt
  let x := tget {} s1.cip.pipes pipe
  .next (match x.run with
    | none => s1
    | some q =>
      let rest := x.suspended ++ x.waiting
      let nxt := nextBulk rest
      let drop (l : List BulkRun) : List BulkRun := l.filter (fun r => some r != nxt)
      let s2 := s1.setPipe pipe { run := nxt, suspended := drop x.suspended, waiting := drop x.waiting }
      if !q.msg.opening then s2.bulkResult pipe (s2.sealBulk q.msg) 0
      else s2.bulkResult pipe q.msg (if q.msg.tag = s2.bulkTag q.msg q.msg.text then 0 else if q.msg.early then 2 else 1))

end Sys2Proof.Machine
end

