-- ==== Sys2Proof/Machine/Swap.lean ====
section
/-! DEFINITION. Arming and the swap (R44 to R47, R274 to R276, R297 to R314), what a swap places, moves and removes,
the commands held for it, and the Overman's restart. -/

namespace Sys2Proof.Machine

/-! ### Context records -/

/-- The 256 bytes of a context record (Table 08-2). The framer state in bytes 64 to 127 has no layout in the spec,
so those bytes are free (log entry 28). -/
def State.recordBytes (s : State) (c : Nat) (x : Ctx) : List Nat :=
  let j := tget (0, 0, 0, 0) s.map.just c
  let free (i n : Nat) : List Nat := leBytes n (Config.freeChoice (s.freeCtr + i) % 256 ^ n)
  let u := s.framer (s.frmKey c)
  let hit := match s.groupOfLeg c with | some g => g.2.bytes | none => List.replicate 24 0
  let b := s.placeBytes c x ++ leBytes 4 j.1 ++ leBytes 4 j.2.1 ++ leBytes 4 j.2.2.1 ++ leBytes 4 j.2.2.2 ++
    free 0 2 ++ free 1 2 ++ leBytes 2 u.txPtr ++ leBytes 2 (u.ptr.getD 0) ++ free 4 2 ++ leBytes 2 (s.gfp c).lost ++
    leBytes 4 (tget 0 s.map.discards c) ++ free 5 64 ++ s.cipherBytes c ++ (s.pointBytes c).take 48 ++ hit ++
    List.replicate 4 0
  b ++ leBytes 4 (crc32c b)

/-- MAP_CTX_READ on the placement in force (R249, R295): the record as it stands at the cycle boundary. -/
def State.doMapRead (s : State) (h : HostRef) (ctx host : Nat) : State :=
  match s.ctx? ctx with
  | none => s.refuse h Op.MAP_CTX_READ 1
  | some x =>
    if !x.active then s.refuse h Op.MAP_CTX_READ 1
    else if host % 64 != 0 then s.refuse h Op.MAP_CTX_READ 2
    else
      let a := s.waitAddr (nextCycle s.addr)
      let a1 := a.hostWrite host (a.recordBytes ctx x)
      let b : State := { a1 with freeCtr := a1.freeCtr + 6 }
      b.done h Op.MAP_CTX_READ

/-- MAP_CTX_READ (R249, R295, R312). -/
def execMapCtxRead (dt : Nat) (h : HostRef) (ctx host : Nat) (s : State) : Host.Outcome State Fault Refusal :=
  .next (s.command dt h 0 Op.MAP_CTX_READ (fun a =>
    a.orHold ctx (.mapCtxRead h ctx host) (fun b => b.doMapRead h ctx host)))

/-! ### Held commands -/

/-- A command that was held runs on the placement in force (R312, R313). -/
def State.runHeld (s : State) : CtxCmd → State
  | .ctxCfg h p => s.doCtxCfg h p
  | .traceSet h p => s.doTraceSet h p
  | .ctxRead h c host => s.doFrmRead h c host
  | .force h c what on => s.doForce h c what on
  | .errInsert h c m v n => s.doErrInsert h c m v n
  | .mapCtxRead h c host => s.doMapRead h c host
  | .ddStatus h c host => s.doDdStatus h c host
  | .resultRead h i host avail => s.doResultRead h i host avail
  | .withdraw h i => s.doWithdraw h i
  | .pin h c items => s.doPin h c items true
  | .unpin h c items => s.doPin h c items false

/-- The commands held for a context run in order. -/
def State.releaseHeld (s : State) (c : Nat) : State :=
  let mine := s.ovm.held.filter (fun e => e.1 == c)
  let s1 : State := { s with ovm := { s.ovm with held := s.ovm.held.filter (fun e => e.1 != c) } }
  mine.foldl (fun a e => a.runHeld e.2) s1

/-- A move is abandoned and the commands held for it run (R313). -/
def State.expireHold (s : State) (c : Nat) : State :=
  let n := (s.ovm.held.filter (fun e => e.1 == c)).length
  (((s.endMove c).count Reg.OVM_HOLD_EXPIRE_CNT 0).raise Ev.OVM_HOLD_EXPIRED (srcCtx c) [(2, c), (4, n)]).releaseHeld c

/-- OVM_HOLD_EXPIRED (R313): two multiframes after MIGRATING was set without the swap. -/
def execOvmHoldExpired (dt ctx : Nat) (s : State) : Host.Outcome State Fault Refusal :=
  let s1 := s.elapse dt
  .next (match s1.ctx? ctx with
    | none => s1
    | some x =>
      match x.migrating with
      | none => s1
      | some t =>
        let s2 := s1.waitAddr (t + 2 * Config.multiframePos)
        if s2.addr < t + 2 * Config.multiframePos then s2 else s2.expireHold ctx)

/-! ### The standby bank and pages -/

/-- The placement that a swap makes: withdrawn and shed intents' contexts gone, moves made, added contexts active. -/
def State.standbyCtxs (s : State) (adds : List Nat) (moves : List Move) : Tab Ctx :=
  let gone := s.ovm.withdraws.map (·.1) ++ s.ovm.shedding
  ((s.ovm.ctxs.filter (fun e => !gone.contains e.2.intent)).map (fun e =>
    let x := if adds.contains e.2.intent then { e.2 with active := true } else e.2
    match moves.find? (fun m => m.ctx == e.1) with
    | some m => (e.1, { x with place := m.place })
    | none => (e.1, x)))

/-- The two overhead entries of a context (R213): extraction and insertion. -/
def overheadEntries (c : Nat) (x : Ctx) : List SchedEntry :=
  let p := if x.cyclic then 0 else 2
  [{ period := p, cyc := if x.cyclic then 0 else x.place.extCyc, pos := x.place.extPos, cls := 1, target := x.place.hewer, arg := c },
   { period := p, cyc := if x.cyclic then 0 else x.place.insCyc, pos := x.place.insPos, cls := 2, target := x.place.hewer, arg := c }]

/-- The entries of a list due at a position in a cycle of the epoch, with the fixed entries at their current positions; a
one-shot counts in every cycle. -/
def State.dueIn (s : State) (l : List SchedEntry) (pos cyc : Nat) : Nat :=
  (l.filter (fun e => e.valid && e.pos == pos && (e.period == 3 || entryFires e cyc))).length +
    ofBool (pos == 0 && cyc % 4 == 0) + ofBool (pos == s.doorbellPos)

/-- No position at which an entry of the list stands has more than eight entries due in a cycle (R42). -/
def State.bankKept (s : State) (l : List SchedEntry) : Bool :=
  l.all (fun e => (List.range 32).all (fun c => decide (s.dueIn l e.pos c ≤ 8)))

/-- The hewers that own points once a placement is in force (R326). -/
def State.pmHewers (s : State) (all : Tab Ctx) : List Nat :=
  let on (e : Nat × Ctx) : Bool := e.2.active && e.2.kind != 0x0F && e.2.kind != 0x30 &&
    ((s.point e.1).cfg.on || (s.rdBit Reg.PMN_AUTO 0 && !(s.ctx? e.1).any (·.active)))
  ((all.filter on).map (fun e => e.2.place.hewer) ++
    (s.pm.points.filter (fun e => e.2.cfg.on && decide (49152 ≤ e.1))).map (fun e => s.pointHewer e.1)).dedup

/-- An entry of PM firmware at the first position with room (R42): the second reads of a hewer (`none`), or a one-shot in the
cycle of a boundary. One that the list holds already is not added again. -/
def State.addPmEntry (s : State) (l : List SchedEntry) (h : Nat) (at_ : Option Nat) : List SchedEntry :=
  match at_ with
  | none =>
    if l.any (fun e => e.cls == 6 && e.period == 2 && e.target == h) then l
    else match (List.range Config.cyclePos).findSome? (fun p => ((List.range 32).find? (fun c => s.dueIn l p c < 8)).map (fun c => (p, c))) with
      | some q => l ++ [{ period := 2, cyc := q.2, pos := q.1, cls := 6, target := h, arg := 0 }]
      | none => l
  | some cyc =>
    let arg := cyc % 65536 * 256
    if l.any (fun e => e.cls == 6 && e.period == 3 && e.target == h && e.arg / 256 == cyc % 65536) then l
    else match (List.range Config.cyclePos).find? (fun p => s.dueIn l p cyc < 8) with
      | some p => l ++ [{ period := 3, cyc := 0, pos := p, cls := 6, target := h, arg := arg }]
      | none => l

/-- The entries of PM firmware in a bank that comes into force at `due` (R326, R332): for every hewer that owns points its
second reads, and a one-shot at each next boundary of the bins that lies within reach of one (R38). -/
def State.pmEntries (s : State) (all : Tab Ctx) (due : Nat) (l : List SchedEntry) : List SchedEntry :=
  if !s.pm.running || s.pm.frozen then l
  else
    let edges := ([s.nextEdge 900 0, s.nextEdge 86400 s.dayStart].dedup.map (· / Config.cyclePos)).filter (fun c =>
      due / Config.cyclePos ≤ c && c ≤ s.cycle + 65535)
    (s.pmHewers all).foldl (fun m h => edges.foldl (fun n c => s.addPmEntry n h (some c)) (s.addPmEntry m h none)) l

/-- A bank built as standby (R38, R44): one-shots that have not fired, the overhead entries of the placement, of the
Overman's own entries those that find room (R42), and those of PM firmware. -/
def State.buildBank (s : State) (own : List SchedEntry) (all : Tab Ctx) (due : Nat) : Tab SchedEntry :=
  let unspent := (s.activeBank.filter (fun e => e.2.period == 3 && e.2.cls != 7 && !s.activeSpent.contains e.1)).map (·.2)
  let pairs := ((all.filter (fun e => e.2.active && kindHasOverhead e.2.kind)).map (fun e => overheadEntries e.1 e.2)).flatten
  let must := unspent ++ s.shf.oneShots ++ pairs
  let mine := own.foldl (fun l e =>
    if must.contains e || (List.range 32).any (fun c => decide (8 ≤ s.dueIn (l ++ must) e.pos c)) then l else l ++ [e]) []
  ((s.pmEntries all due (mine ++ must)).take 131072).zipIdx.map (fun e => (e.2, e.1))

/-- No value stands twice in a list. -/
def distinct : List Nat → Bool
  | [] => true
  | x :: rest => !rest.contains x && distinct rest

/-- The structure of what the standby pages hold (R275): no destination position and no tributary slot twice, every
HO placed, and each ODU's grains as many as its slots. -/
def pagesSound (all : Tab Ctx) : Bool :=
  let act := all.filter (fun e => e.2.active)
  let tsi := act.filter (fun e => e.2.crosses && (e.2.group == 0x7FF || !(act.any (fun f =>
    f.2.group == e.2.group && f.2.kind == e.2.kind && f.1 < e.1))))
  let slots := act.filter (fun e => loOdu e.2.kind && e.2.place.ts != 0)
  distinct (tsi.map (fun e => (e.2.dest.getD e.1) * 256 + e.2.pos)) &&
    distinct ((slots.map (fun e => (List.range e.2.place.grains).map (fun k =>
      (e.2.dest.getD 0) * 128 + e.2.place.ts + k))).flatten) &&
    (tsi ++ slots).all (fun e => match e.2.dest with | some d => (act.any (fun f => f.1 == d)) | none => true)

/-- CRC-32C of the standby pages as MAP_PAGE_READ gives them (Table 12-3, type 0x08). -/
def pageCrc (tsi grains : Tab Nat) : Nat :=
  crc32c (((List.range 49152).map (fun i => leBytes 16 (tget 0 tsi i))).flatten ++
    ((List.range 1024).map (fun i => leBytes 8 (tget 0 grains i))).flatten)

/-! ### Arming -/

/-- An intent may be placed at a swap at address `due` (R28, R30, R164, R305, R316, R521). -/
def State.intentReady (s : State) (due : Nat) (x : IntentSt) : Bool :=
  let cs := x.ctxs.filterMap s.ctx?
  let ends := ((intentPlaces x.params).map (·.1))
  s.sys.configured && !x.ctxs.isEmpty && x.wake.isEmpty && decide (x.notBefore ≤ due) &&
    (((ends.filter laneEndpoint).map (fun e => s.portLanes e.lane)).flatten).all (fun l => s.rdBit Reg.PRT_LANE_READY l &&
      !s.rdBit Reg.PRT_LANE_TESTING l && !s.laneHeld l && !s.ovm.unusable.contains (unitCode 2 l)) &&
    (ends.filter (fun e => e.typ == 2)).all (fun e => s.trbOn e.lane && !s.trbHeld e.lane &&
      !s.ovm.unusable.contains (unitCode 3 e.lane)) &&
    cs.all (fun c => !s.hewerBad c.place.hewer && !s.ctxInReset c)

/-- Intents without contexts are tried again (R316, R315), in the order accepted. -/
def State.retryPending (s : State) : State :=
  s.ovm.order.foldl (fun a i =>
    match tfind a.ovm.intents i with
    | none => a
    | some x =>
      if x.state = 0 && x.ctxs.isEmpty then
        match a.acceptIntent x.params {} x with
        | .ok b => b
        | .error _ => a
      else a) s

/-- The intents that a swap places, within 256 intents and 4,096 records (R306). -/
def takeLimited (size : Nat → Nat) : List Nat → Nat → Nat → List Nat
  | [], _, _ => []
  | i :: rest, n, r =>
    if n = 0 || r < size i then [] else i :: takeLimited size rest (n - 1) (r - size i)

/-- The intents of a list whose projected charges fit one slew window together (R431), in order; a single larger one
alone. -/
def takeSlew (charge : Nat → Nat) (limit : Nat) : List Nat → Nat → List Nat
  | [], _ => []
  | i :: rest, sum => if sum = 0 || sum + charge i ≤ limit then i :: takeSlew charge limit rest (sum + charge i) else []

/-- An intent uses a unit that the moves of this swap empty: it gets its work only at a later swap (R309). -/
def State.onEmptied (s : State) (i : Nat) : Bool :=
  let mine := match tfind s.ovm.intents i with | some x => x.ctxs.filterMap s.ctx? | none => []
  let after := (s.afterMoves s.ovm.moves).filter (fun e => e.2.active)
  s.ovm.moves.any (fun m => match s.ctx? m.ctx with
    | none => false
    | some x =>
      let left (f : Ctx → Bool) : Bool := f x && mine.any f && !(after.any (fun e => f e.2))
      left (fun y => y.stage && y.place.inSlice == x.place.inSlice) || left (fun y => y.stage && y.place.egSlice == x.place.egSlice) ||
        left (fun y => decide (y.place.pipeIn < 24) && y.place.pipeIn == x.place.pipeIn) ||
        left (fun y => decide (y.place.pipeEg < 24) && y.place.pipeEg == x.place.pipeEg) ||
        left (fun y => kindHasOverhead y.kind && y.place.hewer == x.place.hewer))

/-- The intents ready for a swap at `due`, those being restored after those pending, within R306. -/
def State.readyIntents (s : State) (due : Nat) : List Nat :=
  let ok (i : Nat) : Bool := match tfind s.ovm.intents i with
    | some x => (x.state == 0 || (x.state == 2 && !s.ovm.shedding.contains i)) && s.intentReady due x
    | none => false
  let shed := (s.ovm.intents.filter (fun e => e.2.state == 2)).map (·.1)
  let size (i : Nat) : Nat := match tfind s.ovm.intents i with | some x => x.ctxs.length | none => 0
  takeLimited size (((s.ovm.order ++ shed).filter ok).filter (fun i => !s.onEmptied i)) 256 (4096 - s.ovm.moves.length)

/-- The boundary at which a swap armed now is due, and whether that defers it (R45). -/
def State.swapBoundary (s : State) : Nat × Bool :=
  let late := s.cycle % 4 = 3 && 19000 ≤ s.pos
  let next := (s.cycle / 4 + 1) * 4
  ((if late then next + 4 else next) * Config.cyclePos, late)

/-- The swap is armed for its boundary (R45). -/
def State.armNow (s : State) (a : ArmSt) (due : Nat) (late : Bool) : State :=
  let first := s.rd Reg.SHF_BANK_ACTIVE 0 = 0
  let pages := s.rd Reg.MAP_PAGE_ACTIVE 0 = 0
  let s1 : State := { s with
    ovm := { s.ovm with arm := some { a with armed := true } },
    shf := { s.shf with armDue := some due, bank0 := if first then s.shf.bank0 else a.bank, bank1 := if first then a.bank else s.shf.bank1 },
    map := { s.map with tsi0 := if pages then s.map.tsi0 else a.tsi, tsi1 := if pages then a.tsi else s.map.tsi1,
                        grains0 := if pages then s.map.grains0 else a.grains, grains1 := if pages then a.grains else s.map.grains1 } }
  let s2 := (s1.wrBit Reg.SHF_BANK_ARMED 0 true).wrBit Reg.MAP_PAGE_ARMED 0 true
  if late then (s2.count Reg.SHF_SWAP_DEFER_CNT 0).raise Ev.SCHED_SWAP_DEFERRED srcDevice [addrItem s.addr] else s2

/-- A placed context as a message to the mate gives it. -/
def Ctx.toPlaced (c : Nat) (x : Ctx) : PlacedCtx :=
  { ctx := c, kind := x.kind, parent := x.parent, endpoint := x.endpoint, endpointB := x.endpointB, out := x.out, dest := x.dest,
    pos := x.pos, place := x.place, gen := x.gen, sealed := x.sealed, priv := x.priv, scSeq := x.scSeq, block := x.block,
    key := x.key, protect := x.protect, hitless := x.hitless, group := x.group, nts := x.nts, rate := x.rate, stage := x.stage,
    cyclic := x.cyclic, pins := x.pins, cross := x.cross }

/-- An intent with its contexts as a message to the mate gives it. -/
def State.placedIntent (s : State) (i : Nat) : Option PlacedIntent :=
  (tfind s.ovm.intents i).map (fun x =>
    { params := x.params, state := x.state, charge := x.charge, group := x.group, shared := x.shared,
      ctxs := x.ctxs.filterMap (fun c => (s.ctx? c).map (Ctx.toPlaced c)) })

/-- The control path has been silent for 4 ms (Table 12-10a). -/
def State.mateSilent (s : State) : Bool :=
  match s.par.heardLink with | none => true | some t => decide (t + 4 * Config.msPos ≤ s.time)

/-- The standby bank and pages are built (R44, R274). Intents whose charges the window of the swap cannot take wait for
the next swap, and are counted (R431). -/
def State.prepareSwap (s : State) (own : List SchedEntry) : State × ArmSt :=
  let s0 := s.retryPending
  let ready := s0.readyIntents s0.swapBoundary.1
  let adds := if s0.gasping then ready else takeSlew s0.chargeOf s0.slewLimit ready 0
  let s1 := s0.countBy Reg.ENG_SLEW_DEFER_CNT 0 (ready.length - adds.length)
  let all := s1.standbyCtxs adds s1.ovm.moves
  (s1, { adds := adds, moves := s1.ovm.moves, bank := s1.buildBank own all s0.swapBoundary.1, tsi := tsiPage all, grains := grainPage all })

/-- The prepared swap goes to the mate, whose PLACE_ACK is awaited (Table 12-10a). -/
def State.sendPlace (s : State) (a : ArmSt) (own : List SchedEntry) : State :=
  let m : PlaceMsg := { cycle := s.swapBoundary.1 / Config.cyclePos, adds := a.adds.filterMap s.placedIntent,
                        removes := s.ovm.withdraws.map (·.1), sheds := s.ovm.shedding, moves := a.moves, own := own }
  let crc := pageCrc a.tsi a.grains
  let s1 : State := { s with ovm := { s.ovm with arm := some a }, par := { s.par with placing := some (m, crc) } }
  s1.send (.place m crc)

/-- ARM_SWAP (R42, R44, R45, R306, Table 12-10a): the Overman marks the standby bank complete. In pair operation it first
sends the changes to the mate, and arms on the acknowledgement or after 4 ms of silence. A bank with more than eight entries
due at a position is never built, so nothing is armed while the placement would give one (log entry 53). -/
def execArmSwap (dt : Nat) (own : List SchedEntry) (s : State) : Host.Outcome State Fault Refusal :=
  let s1 := s.elapse dt
  let b := s1.swapBoundary
  .next (if s1.halted || !s1.hasAuthority then s1
    else match s1.ovm.arm with
      | some a => if !a.armed && s1.mateSilent then s1.armNow a b.1 b.2 else s1
      | none =>
        let p := s1.prepareSwap own
        if !p.1.bankKept (p.2.bank.map (·.2)) then p.1
        else if s1.paired && !s1.mateSilent then p.1.sendPlace p.2 own else p.1.armNow p.2 b.1 b.2)

/-! ### The swap -/

/-- A context leaves the device: everything kept for it goes, and its ID is held for one epoch (R299). -/
def State.dropCtx (s : State) (c : Nat) : State :=
  match s.ctx? c with
  | none => s
  | some x =>
    let s0 := if x.trbEnd.typ = 2 && kindPdh x.kind then s.dropSlot x.trbEnd.lane x.trbEnd.idx else s
    let s1 := ((s0.dropTubs c).stopPoint c).dropCipher c
    let qs := (List.range x.place.queues).map (x.place.queue + ·)
    { s1 with
      ovm := { s1.ovm with ctxs := tdel s1.ovm.ctxs c, freed := s1.ovm.freed ++ [(c, s1.addr)],
                           moves := s1.ovm.moves.filter (fun m => m.ctx != c),
                           moveWaits := s1.ovm.moveWaits.filter (fun m => m.ctx != c) },
      prt := { s1.prt with given := tdel s1.prt.given c },
      frm := { units := tdel s1.frm.units (srcCtx c),
               groups := if x.kind = 0x30 then tdel s1.frm.groups x.group else s1.frm.groups },
      map := { s1.map with drr := tdel s1.map.drr c, seqTx := tdel s1.map.seqTx c, hitless := tdel s1.map.hitless c, gfp := tdel s1.map.gfp c, discards := tdel s1.map.discards c,
                           just := tdel s1.map.just c, handing := s1.map.handing.filter (fun d => d != c) },
      qmg := { s1.qmg with qs := qs.foldl tdel s1.qmg.qs },
      shf := { s1.shf with gates := tdel s1.shf.gates c } }

/-- A withdrawal takes effect at the swap (R314). -/
def State.swapWithdraw (s : State) (w : Nat × HostRef) : State :=
  match tfind s.ovm.intents w.1 with
  | none => s
  | some x =>
    let s1 := x.ctxs.foldl State.dropCtx s
    let s2 : State := { s1 with ovm := { s1.ovm with
      intents := tset s1.ovm.intents w.1 { x with state := 4, ctxs := [], swapAt := s1.addr },
      order := s1.ovm.order.filter (fun i => i != w.1) } }
    (s2.raiseC Ev.OVM_WITHDRAWN (srcIntent w.1) [(4, w.1)]).done w.2 Op.OVM_INTENT_WITHDRAW

/-- The contexts of an intent that was shed go at the swap (R430); a unit that follows the holder sheds it here. -/
def State.swapShed (s : State) (i : Nat) : State :=
  let s0 := s.shedNow i
  match tfind s0.ovm.intents i with
  | none => s0
  | some x =>
    let s1 := x.ctxs.foldl State.dropCtx s0
    { s1 with ovm := { s1.ovm with
        intents := tset s1.ovm.intents i { x with ctxs := [], swapAt := s1.addr },
        shedding := s1.ovm.shedding.filter (fun j => j != i) } }

/-- A context uses a stage that is marked unusable (R31). -/
def State.onUnusable (s : State) (x : Ctx) : Bool :=
  (x.stage && (s.ovm.unusable.contains (stageUnit x.place.inSlice 0) || s.ovm.unusable.contains (stageUnit x.place.egSlice 1))) ||
    s.ovm.unusable.contains (lineUnit x.place.lineSlice 0) || s.ovm.unusable.contains (lineUnit x.place.lineSlice 1)

/-- A stranded intent whose contexts all carry their clients again is PLACED. -/
def State.unstrand (s : State) (i : Nat) : State :=
  match tfind s.ovm.intents i with
  | none => s
  | some x =>
    if x.state = 3 && (x.ctxs.filterMap s.ctx?).all (fun c => !c.fail) then
      { s with ovm := { s.ovm with intents := tset s.ovm.intents i { x with state := 1 } } }
    else s

/-- A move takes effect at the swap (R277, R309, R312). -/
def State.swapMove (s : State) (m : Move) : State :=
  match s.ctx? m.ctx with
  | none => s
  | some x =>
    let p := m.place
    let y : Ctx := { x with place := p, gen := (x.gen + 1) % 256, migrating := none,
                            cross := kindHasOverhead x.kind && p.hewer / 24 != (if x.stage then p.egSlice else p.lineSlice) }
    let z : Ctx := { y with fail := y.fail && s.onUnusable y }
    let hands := p.inSlice != x.place.inSlice || p.egSlice != x.place.egSlice || p.pipeEg != x.place.pipeEg ||
      p.pipeIn != x.place.pipeIn || p.hewer != x.place.hewer
    let s1 : State := { s with
      ovm := { s.ovm with ctxs := tset s.ovm.ctxs m.ctx z },
      map := { s.map with handing := if hands && !s.map.handing.contains m.ctx then s.map.handing ++ [m.ctx] else s.map.handing } }
    ((s1.count Reg.OVM_MOVE_CNT 0).raise Ev.OVM_MOVED (srcCtx m.ctx)
      [(2, m.ctx), (1, m.reason), (1, p.egSlice), (1, p.hewer), (1, p.pipeEg), (2, p.grain), (1, z.gen)]).unstrand x.intent

/-- The queue of a packet flow, made as it is placed (R107, R479). -/
def flowQueue (s : State) (q : Nat) : State :=
  s.setQueue q { packet := true, hbm := true, k := 14, writer := 1, reader := 2, high := 12288, low := 8192,
                 base := Config.freeChoice s.freeCtr }

/-- A context comes into force at the swap. -/
def State.addCtx (s : State) (c : Nat) : State :=
  match s.ctx? c with
  | none => s
  | some x =>
    let s1 : State := { s with ovm := { s.ovm with ctxs := tset s.ovm.ctxs c { x with active := true, gen := (x.gen + 1) % 256 } } }
    let s2 := if kindHasOverhead x.kind then
        (s1.setFramer (srcCtx c) { oofSince := some s1.time, txPtr := Config.freeChoice s1.freeCtr % (ptrMax x.kind + 1) }).draw
      else s1
    let s3 := if x.kind = 0x30 then s2 else s2.pmPlace c
    let s4 := if x.isFlow && x.place.queues != 0 then (flowQueue s3 x.place.queue).draw else s3
    let s5 := if x.channels.isEmpty then s4 else s4.startTubs c
    let s6 := if x.trbEnd.typ = 2 && kindPdh x.kind then s5.trbFollow x.trbEnd.lane else s5
    if x.sealed then s6.placeCipher c (if x.priv then 0x80 + x.key else x.key) (s6.rd Reg.CIP_EPOCH_CUR 0) false else s6

/-- The protection group and hitless group of an intent (R285, R298), and the group of a pair's two copies of an ODU, unit A's
the working one (R419). -/
def State.addGroup (s : State) (x : IntentSt) : State :=
  if x.params.prot = 0 then
    match x.ctxs.find? (fun c => (s.ctx? c).any (fun y => y.group == x.group && kindOdu y.kind)) with
    | some c => if x.group = 0x7FF then s else s.setGroup x.group { scheme := 6, work := c, prot := c, pair := true }
    | none => s
  else
    let n := max 1 x.params.count
    let work := x.ctxs.getD 0 0
    let prot := x.ctxs.getD n work
    let g := x.ctxs.getLastD 0
    let s1 := s.setGroup x.group { scheme := x.params.prot, work := work, prot := prot }
    if x.params.prot = 8 then s1.setHitless g { legA := { ctx := work }, legB := { ctx := prot } } else s1

/-- An intent comes into force at the swap (R307). -/
def State.swapAdd (s : State) (i : Nat) : State :=
  match tfind s.ovm.intents i with
  | none => s
  | some x =>
   if (x.state != 0 && x.state != 2) || x.ctxs.isEmpty then s
   else
    let s1 := (x.ctxs.foldl State.addCtx s).addGroup x
    let s2 : State := { s1 with ovm := { s1.ovm with
      intents := tset s1.ovm.intents i { x with state := 1, swapAt := s1.addr, seq := s1.ovm.placings },
      order := s1.ovm.order.filter (fun j => j != i), placings := s1.ovm.placings + 1 } }
    if x.state = 2 then s2.raise Ev.OVM_RESTORED (srcIntent i) [(4, i)]
    else (s2.raiseC Ev.OVM_PLACED (srcIntent i) [(4, i), (2, x.ctxs.foldl min (x.ctxs.headD 0)), (4, x.ctxs.length)]).complete
      x.host Op.OVM_INTENT_ADD 0 0 (intentResult i x.ctxs 0 1)

/-- The bank and pages flip, and nothing of the old bank fires afterwards (R46, R47). -/
def State.flipBank (s0 : State) (a : ArmSt) : State :=
  let s := s0.clearOld
  let bank := 1 - s.rd Reg.SHF_BANK_ACTIVE 0
  let page := 1 - s.rd Reg.MAP_PAGE_ACTIVE 0
  let s1 : State := { s with shf := { s.shf with armDue := none, spent0 := if bank = 0 then [] else s.shf.spent0,
                                                 spent1 := if bank = 0 then s.shf.spent1 else [] },
                             ovm := { s.ovm with arm := none } }
  let n := (a.bank.filter (fun e => e.2.valid)).length
  let s2 := ((((s1.wr Reg.SHF_BANK_ACTIVE 0 bank).wrBit Reg.SHF_BANK_ARMED 0 false).wr Reg.MAP_PAGE_ACTIVE 0 page).wrBit
    Reg.MAP_PAGE_ARMED 0 false).wr Reg.SHF_ENTRIES_ACTIVE 0 n
  ((s2.wr Reg.MAP_TSI_ENTRIES 0 a.tsi.length).wr Reg.MAP_GRAINS_USED 0 a.grains.length).raise Ev.SCHED_SWAP srcDevice
    [(1, bank), (4, n)]

/-- A unit that the context needs is in reset, or its stage is unusable, so that it carries failure fill still (Table 19-4). -/
def State.stillFails (s : State) (x : Ctx) : Bool :=
  s.onUnusable x || s.inReset (3 + x.place.lineSlice) ||
    (x.stage && (s.inReset (3 + x.place.inSlice) || s.inReset (3 + x.place.egSlice))) ||
    (x.place.grain != 0xFFFF && s.inReset 7) || (tsiWeight x.kind != 0 && s.inReset 8)

/-- Pages and records are built anew: contexts that waited for that carry their clients again (Tables 17-4, 19-4, 20-2). -/
def State.redone (s : State) : State :=
  { s with ovm := { s.ovm with ctxs := s.ovm.ctxs.map (fun e =>
    if e.2.redo then (e.1, { e.2 with fail := s.stillFails e.2, redo := s.stillFails e.2 }) else e) } }

/-- The swap takes effect (R46, R47, R306, R312, R314). -/
def State.doSwap (s : State) (a : ArmSt) : State :=
  let s1 := s.flipBank a
  let wd := s1.ovm.withdraws
  let sh := s1.ovm.shedding
  let s2 : State := { s1 with ovm := { s1.ovm with withdraws := [], shedding := [], moves := s1.ovm.moves.filter (fun m => !a.moves.contains m) },
                              par := { s1.par with placing := none, place := none } }
  let s3 := sh.foldl State.swapShed (wd.foldl State.swapWithdraw s2)
  let s4 := a.moves.foldl State.swapMove s3
  let wait := a.moves.any (fun m => m.reason == 1)
  let s5 : State := { s4 with ovm := { s4.ovm with
    freed := s4.ovm.freed.filter (fun e => decide (s4.addr < e.2 + Config.epochPos)),
    intents := s4.ovm.intents.map (fun e =>
      if wait && e.2.state == 0 && !a.adds.contains e.1 then (e.1, { e.2 with notBefore := s4.addr + Config.multiframePos }) else e) } }
  let s6 := (a.adds.foldl State.swapAdd s5).slewCharge ((a.adds.map s5.chargeOf).sum)
  let s7 := if s6.rd Reg.ENG_HBM_STATE 0 = 2 && s6.hbmUsed then s6.wr Reg.ENG_HBM_STATE 0 1 else s6
  a.moves.foldl (fun b m => b.releaseHeld m.ctx) s7.redone

/-- A move's new place lies on a unit in reset (R583). -/
def State.moveInReset (s : State) (m : Move) : Bool :=
  match s.ctx? m.ctx with
  | some x => s.ctxInReset { x with place := m.place }
  | none => false

/-- Work that is armed lies on a unit in reset (R583). -/
def State.armedInReset (s : State) (a : ArmSt) : Bool :=
  a.moves.any s.moveInReset ||
  a.adds.any (fun i => match tfind s.ovm.intents i with
    | some x => (x.ctxs.filterMap s.ctx?).any s.ctxInReset
    | none => false)

/-- A swap refused (R46): the armed contents stay in standby, and SCHED_REJECT names the bank (1) or the pages (0), the bank
where both failed (log entry 53). -/
def State.rejectSwap (s : State) (bankBad : Bool) : State :=
  let s1 : State := { s with shf := { s.shf with armDue := none }, ovm := { s.ovm with arm := none },
                             par := { s.par with placing := none, place := none } }
  ((s1.wrBit Reg.SHF_BANK_ARMED 0 false).wrBit Reg.MAP_PAGE_ARMED 0 false).raise Ev.SCHED_REJECT srcDevice [(1, ofBool bankBad)]

/-- The bank or a page fails its assay check at the swap (R536): unit 0 counts and reports it, and the swap is refused. -/
def State.swapMismatch (s : State) (bankBad : Bool) (granule stored sum : Nat) : State :=
  ((s.count Reg.ASY_MISMATCH_CNT 0).raise Ev.ASSAY_MISMATCH srcDevice
    [(1, 0), (2, granule), (4, stored), (4, sum), (1, 0)]).rejectSwap bankBad

/-- SCHED_SWAP (R45 to R47, R275): at its boundary the armed swap takes effect, when the bank and the pages pass their
checks. A segment that fails is `granule`, with its stored and recomputed values; a test may alter a check that passes. -/
def execSchedSwap (dt : Nat) (bankOk pagesOk : Bool) (granule stored sum : Nat) (s : State) :
    Host.Outcome State Fault Refusal :=
  let s1 := s.elapse dt
  .next (match s1.ovm.arm, s1.shf.armDue with
    | some a, some due =>
      let s2 := s1.waitAddr due
      if s2.addr < due then s2
      else if !bankOk || !pagesOk then s2.swapMismatch (!bankOk) granule stored sum
      else if !pagesSound (s2.standbyCtxs a.adds a.moves) || s2.armedInReset a then s2.rejectSwap false
      else
        let t := s2.alterCheck 0
        if t.2 then t.1.swapMismatch true granule stored sum else s2.doSwap a
    | _, _ => s1)

/-! ### Restart -/

/-- The contexts that an armed swap moves. -/
def State.armedMoves (s : State) : List Nat :=
  match s.ovm.arm with
  | some a => if a.armed then a.moves.map (fun m => m.ctx) else []
  | none => []

/-- The Overman restarts on hewers other than `bad` within 4 ms (R318); what was not armed is not kept. -/
def State.ovmRestart (s : State) (bad : List Nat) : State :=
  let lost := (s.ovm.moves.map (fun m => m.ctx)).filter (fun c => !s.armedMoves.contains c)
  let s2 := (s.count Reg.OVM_RESTART_CNT 0).wr Reg.OVM_STATE 0 3
  let s3 := lost.foldl (fun a c => (a.endMove c).releaseHeld c) s2
  let s4 : State := { s3 with ovm := { s3.ovm with moveWaits := [], arm := match s3.ovm.arm with | some a => if a.armed then some a else none | none => none } }
  let s5 := (s4.takeHewers s4.enginesNeeded bad)
  s5.wr Reg.OVM_STATE 0 s5.ovmRunState

/-- OVM_RESTART (R318): an Overman hewer fails. -/
def execOvmRestart (dt hewer : Nat) (s : State) : Host.Outcome State Fault Refusal :=
  let s1 := s.elapse dt
  .next (if !s1.ovmHewers.contains hewer then s1 else s1.ovmRestart [hewer])

end Sys2Proof.Machine
end

