-- ==== Sys2Proof/Machine/Pair.lean ====
section
/-! DEFINITION. Pair operation and the tally (R385 to R421): the mate link, shaft lock, the tally, state copy, the
canary and drills. State changes are made where Example 12-1 shows them, on receipt (log entry 34). -/

namespace Sys2Proof.Machine

/-- The states of Table 12-6. -/
def parSeeking : Nat := 1
def parJoining : Nat := 2
def parStandby : Nat := 3
def parTaking : Nat := 4
def parActive : Nat := 5
def parOrphan : Nat := 6

/-- The unit's state. -/
def State.parSt (s : State) : Nat := s.rd Reg.PAR_STATE 0

/-! ### Health and faults -/

/-- The unit is healthy (R406). -/
def State.healthy (s : State) : Bool :=
  s.par.faults.isEmpty && s.rd Reg.PAR_CANARY 0 != 3 && !s.rdBit Reg.PAR_ADDR_CONFLICT 0 &&
    (s.parSt != parStandby || s.par.missRun ≤ s.rd Reg.PAR_EPOCH_MISS_MAX 0)

/-- PAR_HEALTHY, PAR_FAULTED and PAR_FAULT_CAUSE follow (Table 12-13). -/
def State.parRegs (s : State) : State :=
  ((s.wrBit Reg.PAR_FAULTED 0 (!s.par.faults.isEmpty)).wr Reg.PAR_FAULT_CAUSE 0 (s.par.faults.getLastD 0)).wrBit
    Reg.PAR_HEALTHY 0 (s.paired && s.healthy)

/-- The Overman runs or is frozen as authority goes (R304). -/
def State.ovmFollow (s : State) : State :=
  if s.rd Reg.OVM_STATE 0 = 1 || s.rd Reg.OVM_STATE 0 = 2 then s.wr Reg.OVM_STATE 0 s.ovmRunState else s

/-- The unit takes a state (R405, R407, Table 12-16). -/
def State.setPar (s : State) (v cause : Nat) : State :=
  let old := s.parSt
  if old = v then s
  else
    let s1 := (s.wr Reg.PAR_STATE 0 v).wrBit Reg.PAR_AUTHORITY 0 (v == parActive)
    (s1.raise Ev.PAR_STATE_CHANGE srcDevice [(1, old), (1, v), (1, cause)]).ovmFollow.parRegs

/-- A PAR_TAKE in progress ends (Table 12-14). -/
def State.endTake (s : State) (reason : Nat) : State :=
  match s.par.takeHost with
  | none => s
  | some h =>
    let s1 : State := { s with par := { s.par with takeHost := none } }
    if reason = 0 then s1.done h Op.PAR_TAKE else s1.refuse h Op.PAR_TAKE reason

/-! ### Pin words -/

/-- The shaft address at which a message was sent (Table 12-2): in the most recent cycle whose low 32 bits match. -/
def State.sentAddr (s : State) (h : List Nat) : Nat :=
  (s.cycle - (s.cycle % 2 ^ 32 + 2 ^ 32 - headCycle h) % 2 ^ 32) * Config.cyclePos + headPos h

/-- The most recent cycle whose low 16 bits match (R402). -/
def State.recentCycle (s : State) (low : Nat) : Nat := s.cycle - (s.cycle % 65536 + 65536 - low % 65536) % 65536

/-! ### Giving up and taking the tally -/

/-- An active unit surrenders (R407, R410). -/
def State.giveUp (s : State) (cause : Nat) : State :=
  let s1 : State := { s with par := { s.par with gaveUp := true, lease := none, pinSurrender := some (cause, s.time) } }
  let s2 := ((s1.wrBit Reg.PAR_LEASED 0 false).send (.surrender cause s.addr)).send (.pinWord (pinWord 3 cause s.cycle))
  (s2.raise Ev.PAR_SURRENDER srcDevice [(1, cause)]).setPar parJoining cause

/-- Unit B, active, hears unit A active and yields; unit A reports it (R407). -/
def State.dualActive (s : State) : State :=
  let s1 := s.raise Ev.PAR_DUAL_ACTIVE srcDevice [(1, 1)]
  if s.isUnitB then s1.giveUp 8 else s1

/-- A snapshot being received is discarded (R414). -/
def State.discardEpoch (s : State) (addr reason : Nat) : State :=
  let s1 : State := { s with par := { s.par with
    staging := none, missRun := if reason = 1 then s.par.missRun else s.par.missRun + 1 } }
  (((s1.count Reg.PAR_EPOCH_DISCARD_CNT 0).raise Ev.PAR_EPOCH_DISCARDED srcDevice [addrItem addr, (1, reason)]).send
    (.stateAck (stampOf addr) reason)).parRegs

/-- Bins whose span overlaps the gap carry PAIR_GAP (R415). `since` is the time of day at which it began, s. -/
def State.markGap (s : State) (since : Nat) : State :=
  let mark (b : PmBin) : PmBin := { b with suspect := setBit b.suspect 4 true }
  let old (b : PmBin) : PmBin := if since ≤ b.start + b.seconds then mark b else b
  { s with pm := { s.pm with points := s.pm.points.map (fun e =>
    if e.2.cfg.on then (e.1, { e.2 with cur15 := mark e.2.cur15, cur24 := mark e.2.cur24, old15 := e.2.old15.map mark,
                                        old24 := e.2.old24.map mark, hist15 := e.2.hist15.map old, hist24 := e.2.hist24.map old })
    else e) } }

/-- The address at which the mate's authority ended: its surrender, or the end of the last lease (R409). -/
def State.gapFrom (s : State) : Nat :=
  if s.par.surrendered then s.par.surrenderAt
  else match s.par.granted with
    | some g => (g + 48) * Config.cyclePos
    | none => s.addr

/-- The unit enters ACTIVE from TAKING (R407 to R409, R412, R415). -/
def State.becomeActive (s : State) : State :=
  let cause := s.par.takeCause
  let gap := s.nearest (((s.addr - s.gapFrom : Nat) : Rat) * 125 / 19440)
  let epoch := (s.par.applied.getD 0) / Config.cyclePos
  let nonce := Config.freeRandom (s.freeCtr + 1) % 2 ^ 112
  let s0 : State := { s with freeCtr := s.freeCtr + 2 }
  let s1 := match s0.par.staging with
    | some g => if g.dead then s0 else s0.discardEpoch g.since 1
    | none => s0
  let behind := 3125 * (s.addr - s.par.applied.getD s.addr)
  let s2 := s1.markGap ((s1.todNow - behind) / todSecond)
  let s3 : State := { s2 with par := { s2.par with
    nonce := nonce, pinClaim := some (cause, 8), surrendered := false, lease := none, gaveUp := false,
    gotGrant := false, planNext := some true, mateApplied := none, fullSince := none, staging := none } }
  let s4 := (((s3.wrBit Reg.PAR_LEASED 0 false).setPar parActive cause).count Reg.PAR_TAKEOVER_CNT 0).raise Ev.PAR_TALLY_TAKEN
    srcDevice [(1, cause), (4, (s.par.granted.getD 0) % 2 ^ 32), (4, epoch % 2 ^ 32), (3, min gap.toNat (2 ^ 24 - 1))]
  ((s4.send (.claim cause s.addr epoch nonce)).send (.pinWord (pinWord 0xC cause s.cycle))).endTake 0

/-- A drill ends with its result (R418). -/
def State.endDrill (s : State) (result : Nat) (gaveAt : Nat) : State :=
  let gap := s.nearest (((s.addr - gaveAt : Nat) : Rat) * 125 / 19440)
  let s1 : State := { s.draw with par := { s.par with drill := none } }
  s1.raise Ev.PAR_DRILL_RESULT srcDevice [(1, result), (4, gap.toNat)]

/-- A CLAIM ends a drill that waits for it in a phase: it passed, and option [1] stays in force for 1 s (R418). -/
def State.drillPassed (s : State) (phase gaveAt : Nat) : State :=
  match s.par.drill with
  | none => s
  | some d =>
    if d.phase != phase then s
    else
      let b := s.endDrill 0 gaveAt
      if bitOf d.options 1 then { b with par := { b.par with drill := some { d with phase := 3, since := b.time } } } else b

/-- A TAKING unit whose view of the lease has expired becomes ACTIVE; one that may not go on returns to STANDBY
(R403, R407). -/
def State.tryActive (s : State) : State :=
  if s.parSt != parTaking then s
  else if !s.healthy then ((s.setPar parStandby s.par.takeCause).endTake 4)
  else
    let view := match s.par.granted with | none => true | some g => decide ((g + 64) * Config.cyclePos ≤ s.addr)
    let own := match s.par.lease with | none => true | some c => s.par.gaveUp || decide ((c + 48) * Config.cyclePos ≤ s.addr)
    if view && own then
      let s1 := s.becomeActive
      if s.par.takeCause = 1 then s1.drillPassed 4 s.par.surrenderAt else s1
    else s

/-- A unit goes TAKING (Table 12-7); `cause` is the CLAIM's: 1 SURRENDER, 2 TAKE, 3 AUTO. -/
def State.enterTaking (s : State) (cause : Nat) (h : Option HostRef) : State :=
  ({ s with par := { s.par with takeCause := cause, takeHost := h } } : State).setPar parTaking cause |>.tryActive

/-- A standby that a surrender waits for takes the tally once it is healthy (R407, R408). -/
def State.tryTake (s : State) : State :=
  if s.parSt = parStandby && s.par.surrendered && s.healthy then s.enterTaking 1 none else s

/-- The unit's health is judged anew. -/
def State.review (s : State) : State := s.parRegs.tryActive.tryTake

/-- A fault that the unit diagnoses in itself (R410, Table 12-9): PAR_FAULTED is set, and an active unit surrenders. A
device without a mate has no tally to surrender. -/
def State.selfFault (s : State) (cause : Nat) : State :=
  if !s.paired then s
  else
    let s1 := ({ s with par := { s.par with faults := if s.par.faults.contains cause then s.par.faults else s.par.faults ++ [cause] } } :
      State).parRegs
    if s1.parSt = parActive then s1.giveUp cause else s1.review

/-- STAGE_UNUSABLE (R31, R311, R410): a stage of a slice reports an uncorrectable error; 0 is its ingress container
stage, 1 its egress container stage, 2 and 3 its line stages. -/
def execStageUnusable (dt slice stage : Nat) (s : State) : Host.Outcome State Fault Refusal :=
  .next (((s.elapse dt).markUnusable slice stage).selfFault 1)

/-! ### Hearing the mate -/

/-- A path is heard (R404): path 0 is the mate link, 1 the pins. A TAKING unit whose cause was AUTO goes back to
STANDBY. -/
def State.hear (s : State) (pins : Bool) : State :=
  let f := if pins then Reg.PAR_PIN_PATH else Reg.PAR_LINK_PATH
  let s1 : State := if pins then { s with par := { s.par with heardPin := some s.time } }
    else { s with par := { s.par with heardLink := some s.time } }
  let s2 := if s1.rdBit f 0 then s1
    else (s1.wrBit f 0 true).raise Ev.PAR_PATH srcDevice [(1, ofBool pins), (1, 0)]
  if s2.parSt = parTaking && s2.par.takeCause = 3 then (s2.setPar parStandby 3).endTake 3 else s2

/-- The mate is heard in a state (R407): a SEEKING unit joins an ACTIVE mate, two active units are resolved. -/
def State.hearState (s : State) (v : Nat) : State :=
  let s1 : State := { s with par := { s.par with mateState := v, mateActive := s.par.mateActive || v == parActive } }
  if v != parActive then s1
  else if s1.parSt = parSeeking && !s1.par.mute then s1.setPar parJoining 0
  else if s1.parSt = parActive && s.par.mateState != parActive then s1.dualActive
  else s1

/-- A control message is taken (R390, R391): a bad one is discarded and counted, the second copy of a sequence number is discarded
(log entry 62). -/
def State.control (s : State) (typ : Nat) (head : List Nat) (good : Bool) (run : State → State) : State :=
  if !s.paired then s
  else if !good then s.count Reg.PAR_MSG_CRC_CNT 0
  else if head.headD 0 != typ then s
  else
    let s1 := s.hear false
    let q := headSeq head
    if s1.par.ctlSeen.contains q then s1 else run { s1 with par := { s1.par with ctlSeen := (q :: s1.par.ctlSeen).take 64 } }

/-- A control message whose payload's layout Table 12-3 gives. -/
def State.controlText (s : State) (typ : Nat) (t : MateText) (run : State → State) : State :=
  s.control typ t.head (textGood t) run

/-! ### Lanes -/

/-- The usable MATE lanes. -/
def State.usableLanes (s : State) : List Nat := (List.range 8).filter (bitOf (s.rd Reg.PAR_LANES_USABLE 0))

/-- The roles of the usable lanes (R389, Table 12-12): two CONTROL, four DATA, the rest SPARE, in ascending order or,
in a drill with option [1], descending. -/
def State.rolesNow (s : State) : List (Nat × Nat) :=
  let l := if s.par.roleDown then s.usableLanes.reverse else s.usableLanes
  l.zipIdx.map (fun e => (e.1, if e.2 < 2 then 1 else if e.2 < 6 then 2 else 3))

/-- A lane's role by the present usable lanes. -/
def State.roleOf (s : State) (l : Nat) : Nat := ((s.rolesNow.find? (fun e => e.1 == l)).map (·.2)).getD 0

/-- A MATE lane. -/
def State.mateLane (s : State) (l : Nat) : MateLane := tget {} s.par.lanes l

/-- The state with a MATE lane replaced. -/
def State.setMateLane (s : State) (l : Nat) (x : MateLane) : State :=
  { s with par := { s.par with lanes := tset s.par.lanes l x } }

/-- A lane becomes usable or stops being so (R389). -/
def State.setUsable (s : State) (l : Nat) (on : Bool) : State :=
  let old := s.rd Reg.PAR_LANES_USABLE 0
  if bitOf old l = on then s
  else
    let s1 := s.wr Reg.PAR_LANES_USABLE 0 (setBit old l on)
    s1.raise Ev.PAR_LANE (srcLane (72 + l)) [(2, 72 + l), (1, ofBool on), (1, s1.roleOf l)]

/-- The two shaft addresses are compared (R394): the unit without the tally, or unit B, stops sending. -/
def State.compareAddr (s : State) (mate mateCycle : Nat) (mateAuth : Bool) : State :=
  let far := decide (mate + 1 < s.addr) || decide (s.addr + 1 < mate)
  let mine := s.rd Reg.PAR_AUTHORITY 0 == 1
  let yields := (!mine && mateAuth) || (!mine && !mateAuth && s.isUnitB)
  if s.halted || !far || !yields || s.rdBit Reg.PAR_ADDR_CONFLICT 0 then s
  else
    let s1 := (s.wrBit Reg.PAR_ADDR_CONFLICT 0 true).raise Ev.PAR_ADDR_CONFLICT srcDevice
      [(6, s.cycle), (6, mateCycle)]
    (({ s1 with par := { s1.par with mute := true } } : State).setPar parSeeking 0).parRegs

/-- The one-way delay is half the round trip (R388, R392): in positions, exactly and brought to a whole number. -/
def State.oneWayRat (s : State) : Rat := (s.rd Reg.PAR_MATE_RTT 0 : Rat) * 243 / 3125
def State.oneWay (s : State) : Nat := (s.wholeFree s.oneWayRat).toNat

/-- PAR_SHAFT_ERR (R393): by how many ps this unit's shaft is ahead of the mate's, whose marker left at position 0 of the cycle it
names and began `sub` ps after this row's position (log entry 56). -/
def State.shaftErr (s : State) (mateCycle : Nat) (sub : Int) : State :=
  let mate : Rat := (mateCycle * Config.cyclePos : Nat) + s.oneWayRat
  (s.wrInt Reg.PAR_SHAFT_ERR 0 (s.wholeFree (((s.addr : Rat) - mate) * 3125000 / 486 + sub))).draw

/-- The receiver looks at block `off` of a lane: a search at every block from where it resumes, and otherwise the expected one
(Table 06-7, R388). -/
def MateLane.looks (x : MateLane) (off : Nat) : Bool := if x.align = 0 then decide (x.next ≤ off) else off == x.next

/-- The lane searches on from block `from_`. -/
def MateLane.search (x : MateLane) (from_ : Nat) : MateLane := { x with align := 0, next := from_, conf := 0, bad := 0 }

/-- One frame, whose first block is `off`, through the machine of Table 06-7, as R388 takes it. -/
def MateLane.alignStep (x0 : MateLane) (off : Nat) (hit : Bool) : MateLane :=
  let x := { x0 with next := off + 53125 }
  if x.align = 2 then
    let bad := if hit then 0 else x.bad + 1
    if 4 ≤ bad then x.search (off + 1) else { x with bad := bad }
  else if !hit then x.search (if x.align = 0 then off + 1 else x.base + 1)
  else if x.align = 0 then { x with align := 1, base := off, conf := 0 }
  else if x.conf + 1 < 2 then { x with conf := x.conf + 1 }
  else { x with align := 2, conf := 0, bad := 0 }

/-- The round trip (R388), by R179's way: from the own marker that the mate names to now, less its ns. -/
def State.mateRtt (s : State) (echo ns : Nat) : State :=
  let c := (s.cycle % 2 ^ 32 + 2 ^ 32 - echo) % 2 ^ 32
  let gone : Nat := c * Config.cyclePos + s.pos
  (s.wr Reg.PAR_MATE_RTT 0 (s.figure 32 false ((gone : Rat) * 3125 / 486 - ns))).draw

/-- The overhead of a counted frame (R387 to R395). -/
def State.mateOverhead (s : State) (l : Nat) (f : MateFrame) (sub : Int) : State :=
  let x := s.mateLane l
  let ok := x.align == 2 && bitOf f.inSync l
  let y : MateLane := { x with okRun := if ok then x.okRun + 1 else 0, badRun := if ok then 0 else x.badRun + 1,
                               role := if f.markCrc then f.role else x.role, echo := f.cycle % 2 ^ 32, echoTime := s.time }
  let s0 := s.setMateLane l y
  let s1 := { s0 with par := { s0.par with mateHealthy := f.healthy, mateQl := some f.ql, mateSel := f.timSel } }
  let s2 := if 8 ≤ y.okRun then s1.setUsable l true else if 2 ≤ y.badRun then s1.setUsable l false else s1
  let s3 := s2.mateRtt f.echoCycle f.echoNs
  let mate := f.cycle * Config.cyclePos + s3.oneWay
  let s4 := ({ s3 with par := { s3.par with mateAt := some (mate, s3.time) } } : State).compareAddr mate f.cycle f.authority
  let s5 := if s4.rd Reg.TIM_DPLL_STATE 0 = dpllSlaved then s4.shaftErr f.cycle sub else s4
  s5.hearState f.parState

/-- MATE_FRAME_RX (R387 to R395): the first four blocks of one received frame of MATE lane `lane` (0 to 7). -/
def execMateFrameRx (dt lane : Nat) (f : MateIn) (s : State) : Host.Outcome State Fault Refusal :=
  let s1 := s.elapse dt
  .next (if !s1.paired || 7 < lane || !s1.laneOn (72 + lane) then s1
    else
      let g := readMate f.prior f.blocks
      let x0 := s1.mateLane lane
      if f.lock && !x0.looks f.off then s1
      else
        let x := if f.lock then x0.alignStep f.off g.marker else x0.search 0
        let s2 := s1.setMateLane lane x
        if x.align != 2 then
          let y : MateLane := { x with okRun := 0, badRun := x.badRun + 1 }
          let s3 := s2.setMateLane lane y
          if 2 ≤ y.badRun then s3.setUsable lane false else s3
        else if g.ohCrc then s2.mateOverhead lane g f.sub
        else s2)

/-- The frame that a MATE lane sends at position 0 of the cycle (R387, Table 12-1). -/
def State.mateFrame (s : State) (l : Nat) : MateFrame :=
  let x := s.mateLane l
  { marker := true, markCrc := true, laneNo := l, unit := ofBool s.isUnitB, role := s.rd Reg.PAR_LANE_ROLE 0 / 4 ^ l % 4,
    ohCrc := true, cycle := s.cycle, parState := s.parSt, authority := s.rdBit Reg.PAR_AUTHORITY 0,
    faulted := s.rdBit Reg.PAR_FAULTED 0, healthy := s.rdBit Reg.PAR_HEALTHY 0, ql := s.outgoingQl, echoCycle := x.echo,
    echoNs := (s.wholeFree (((s.time - x.echoTime : Nat) : Rat) * 3125 / 486)).toNat,
    inSync := ((List.range 8).map (fun i => ofBool ((s.mateLane i).align == 2) * 2 ^ i)).sum, timSel := s.rd Reg.TIM_SEL 0 }

/-- LANE_ROLE_ASSIGN (R389, R396, Table 12-12): roles at the multiframe boundary, in descending order while option [1] of a drill
is in force; the planner of the multiframe. A lane that receives nothing is not usable. -/
def execLaneRoleAssign (dt : Nat) (s : State) : Host.Outcome State Fault Refusal :=
  let s1 := s.toBoundary dt Config.multiframePos
  .next (if !s1.paired then s1
    else
      let dark (a : State) (l : Nat) : Bool := a.rdBit Reg.PRT_LANE_LOS (72 + l) || a.rdBit Reg.PRT_LANE_LOL (72 + l)
      let s2 := (s1.usableLanes.filter (dark s1)).foldl (fun a l =>
        (a.setMateLane l { a.mateLane l with align := 0, okRun := 0 }).setUsable l false) s1
      let over_ := match s2.par.drill with
        | some d => d.phase == 3 && decide (d.since + Config.secondPos ≤ s2.time)
        | none => false
      let down := match s2.par.drill with
        | some d => bitOf d.options 1 && (d.phase == 2 || d.phase == 3 || (d.phase == 4 && s2.par.surrendered)) && !over_
        | none => false
      let s3 : State := { s2 with par := { s2.par with
        drill := if over_ then none else s2.par.drill, roleDown := down, planner := s2.par.planNext.getD s2.par.planner,
        planNext := none } }
      let roles := ((s3.rolesNow.map (fun e => e.2 * 4 ^ e.1))).sum
      s3.wr Reg.PAR_LANE_ROLE 0 roles)

/-! ### Listening -/

/-- The address of a running mate's shaft, if a frame of it was counted since listening began (R392). -/
def State.mateHeard (s : State) : Option Nat :=
  match s.par.mateAt with
  | some (a, t) => if s.par.listenFrom ≤ t then some (a + (s.time - t)) else none
  | none => none

/-- MATE_LISTEN_END (R392): after 2 s (unit A) or 4 s (unit B) the shaft leaves HALTED at the address of a running mate
heard, which is the one its marker named plus the one-way delay, or as R51 states. -/
def execMateListenEnd (dt : Nat) (s : State) : Host.Outcome State Fault Refusal :=
  let s1 := s.elapse dt
  .next (if !s1.paired || !s1.halted || s1.par.listened || !s1.shf.startable || s1.inReset domShaft then s1
    else
      let wait := if s1.isUnitB then 4 * Config.secondPos else 2 * Config.secondPos
      let s2 := s1.elapse (s1.par.listenFrom + wait - s1.time)
      let heard := s2.mateHeard
      let slaved := heard.isSome && s2.isUnitB
      let s3 : State := { s2 with par := { s2.par with listened := true } }
      s3.leaveHalted (heard.getD 0) (if slaved then dpllSlaved else dpllFreerun) (if slaved then 4 else 1))

/-! ### The tally -/

/-- PAR_LEASE reports the cycle of a grant held or issued (Table 12-13). -/
def State.leaseRegs (s : State) (c : Nat) : State := (s.wr Reg.PAR_LEASE_LO 0 (c % 2 ^ 32)).wr Reg.PAR_LEASE_HI 0 (c / 2 ^ 32)

/-- The word of a 1 ms slot on the pins (R401): a SURRENDER until a CLAIM is heard or 50 ms, a CLAIM for eight slots,
otherwise the routine word. -/
def State.pinSlot (s : State) : State :=
  match s.par.pinClaim, s.par.pinSurrender with
  | some (cause, n), _ =>
    ({ s with par := { s.par with pinClaim := if n ≤ 1 then none else some (cause, n - 1) } } : State).send (.pinWord (pinWord 0xC cause s.cycle))
  | none, some (cause, t) =>
    if s.time < t + 50 * Config.msPos then s.send (.pinWord (pinWord 3 cause s.cycle))
    else { s with par := { s.par with pinSurrender := none } }
  | none, none =>
    if s.parSt = parActive then s.send (.pinWord (pinWord 6 0 ((s.par.lease.getD 0))))
    else if s.parSt = parJoining || s.parSt = parStandby then s.send (.pinWord (pinWord 9 0 s.cycle))
    else s

/-- TALLY_LEASE_RENEWAL (R400 to R402): at every eighth cycle a JOINING or STANDBY unit issues a GRANT; the active
acknowledges and counts a slot without one. -/
def execTallyLeaseRenewal (dt : Nat) (s : State) : Host.Outcome State Fault Refusal :=
  let s1 := s.atEntry dt (8 * Config.cyclePos) 9
  .next (if !s1.paired || s1.halted || !s1.dispatched 9 (fun _ => true) then s1
    else if s1.parSt = parJoining || s1.parSt = parStandby then
      let s2 : State := { s1 with par := { s1.par with granted := some s1.cycle } }
      ((s2.leaseRegs s1.cycle).send (.grant s1.cycle)).pinSlot
    else if s1.parSt = parActive then
      let s2 := if s1.par.gotGrant then s1 else s1.count Reg.PAR_GRANT_MISS_CNT 0
      (({ s2 with par := { s2.par with gotGrant := false } } : State).send (.ack (s2.par.lease.getD 0) (s2.rdBit Reg.PAR_LEASED 0))).pinSlot
    else s1.pinSlot)

/-- A GRANT issued at cycle `c` is received (R402, R407, R408). -/
def State.takeGrant (s : State) (c : Nat) : State :=
  if c + 48 ≤ s.cycle then s
  else if s.parSt = parActive then
    let l := max c (s.par.lease.getD 0)
    (({ s with par := { s.par with lease := some l, gotGrant := true, gaveUp := false } } : State).leaseRegs l).wrBit Reg.PAR_LEASED 0 true
  else if s.parSt = parOrphan then
    let s1 : State := { s with par := { s.par with lease := some c, gotGrant := true, gaveUp := false } }
    ((s1.leaseRegs c).wrBit Reg.PAR_LEASED 0 true).setPar parActive 0
  else s

/-- A SURRENDER is received (R407, R408): it is remembered until a CLAIM is heard. -/
def State.takeSurrender (s : State) (cause addr : Nat) : State :=
  let s1 : State := { s with par := { s.par with surrendered := true, surrenderAt := addr, mateState := parJoining } }
  let s2 := s1.raiseIf (cause = 8 && s1.parSt = parActive) Ev.PAR_DUAL_ACTIVE srcDevice [(1, 1)]
  s2.tryTake

/-- A CLAIM is received (R396, R407, R412, R418). -/
def State.takeClaim (s : State) (nonce : Option Nat) : State :=
  let s1 : State := { s with par := { s.par with
    surrendered := false, pinSurrender := none, mateState := parActive, mateActive := true,
    nonce := nonce.getD s.par.nonce, staging := none } }
  let s2 : State := if s.parSt = parActive && !s.isUnitB then s1 else { s1 with par := { s1.par with planNext := some false } }
  let s3 := match s2.par.drill with
    | some d => if d.phase = 4 then s2.endDrill 2 s2.par.surrenderAt else s2.drillPassed 2 d.gaveAt
    | none => s2
  if s3.parSt = parActive then s3.dualActive
  else if s3.parSt = 0 then s3
  else (s3.endTake 3).setPar parJoining 0

/-- GRANT (R402, R407, R408, Table 12-3). -/
def execGrant (dt : Nat) (t : MateText) (s : State) : Host.Outcome State Fault Refusal :=
  .next ((s.elapse dt).controlText 1 t (fun a => a.takeGrant (addrOfStamp (beNum (cut t.payload 0 8)) / Config.cyclePos)))

/-- ACK (Table 12-3): the active acknowledges the last grant; it is heard. -/
def execAck (dt : Nat) (t : MateText) (s : State) : Host.Outcome State Fault Refusal :=
  .next ((s.elapse dt).controlText 2 t (fun a => a.hearState parActive))

/-- A pin word is heard (R401, R402). -/
def State.takePinWord (s : State) (kind cause low : Nat) : State :=
  let s2 := s.hear true
  let c := s2.recentCycle low
  match kind with
  | 9 => s2.takeGrant c
  | 6 => s2.hearState parActive
  | 3 => if s2.par.surrendered then s2 else s2.takeSurrender cause (c * Config.cyclePos)
  | _ => if s2.par.mateState = parActive && !s2.par.surrendered && s2.parSt = parJoining then s2 else s2.takeClaim none

/-- TALLY_IN_WORD (R401, R402): the chips of a pin word; one that is not Manchester-coded, or whose CRC-8 fails, is ignored. -/
def execTallyInWord (dt : Nat) (chips : List Bool) (s : State) : Host.Outcome State Fault Refusal :=
  let s1 := s.elapse dt
  .next (match readChips chips with
    | none => s1
    | some word =>
      let kind := word / 2 ^ 28 % 16
      let cause := word / 2 ^ 24 % 16
      let low := word / 256 % 65536
      if !s1.paired || pinWord kind cause low != word || !([9, 6, 3, 0xC].contains kind) then s1
      else s1.takePinWord kind cause low)

/-- SURRENDER (R407, R408, Table 12-3). -/
def execSurrender (dt : Nat) (t : MateText) (s : State) : Host.Outcome State Fault Refusal :=
  .next ((s.elapse dt).controlText 3 t (fun a =>
    a.takeSurrender (t.payload.getD 0 0) (addrOfStamp (beNum (cut t.payload 8 8)))))

/-- CLAIM (R407, R412, Table 12-3): bytes 24 to 37 are the session nonce. -/
def execClaim (dt : Nat) (t : MateText) (s : State) : Host.Outcome State Fault Refusal :=
  .next ((s.elapse dt).controlText 4 t (fun a => a.takeClaim (some (leNum (cut t.payload 24 14)))))

/-- PAR_ORPHAN (R402, R407, R408): a leased active whose lease runs out is an ORPHAN. -/
def execParOrphan (dt : Nat) (s : State) : Host.Outcome State Fault Refusal :=
  let s1 := s.elapse dt
  .next (match s1.par.lease with
    | none => s1
    | some c =>
      if s1.parSt != parActive || !s1.rdBit Reg.PAR_LEASED 0 then s1
      else
        let due := (c + 48) * Config.cyclePos
        let s2 := s1.waitAddr due
        if s2.addr < due then s2
        else ((s2.wrBit Reg.PAR_LEASED 0 false).raise Ev.PAR_ORPHAN srcDevice [(4, c % 2 ^ 32)]).setPar parOrphan 0)

/-- LEASE_VIEW_EXPIRY (R403, R407): the view of a TAKING unit expires 64 cycles after its last GRANT. -/
def execLeaseViewExpiry (dt : Nat) (s : State) : Host.Outcome State Fault Refusal :=
  let s1 := s.elapse dt
  .next (if s1.parSt != parTaking then s1
    else
      let view := match s1.par.granted with | some g => (g + 64) * Config.cyclePos | none => 0
      let own := match s1.par.lease with | some c => if s1.par.gaveUp then 0 else (c + 48) * Config.cyclePos | none => 0
      (s1.waitAddr (max view own)).tryActive)

/-- The silence that makes a path silent (R404, Table 12-13). -/
def State.silencePos (s : State) : Nat := max 50 (s.rd Reg.PAR_AUTO_SILENCE 0) * Config.msPos

/-- Automatic takeover (Table 12-7). -/
def State.tryAuto (s : State) : State :=
  if s.parSt = parStandby && s.rdBit Reg.PAR_AUTO 0 && !s.rdBit Reg.PAR_LINK_PATH 0 && !s.rdBit Reg.PAR_PIN_PATH 0 &&
      s.par.mateActive && s.healthy then s.enterTaking 3 none else s

/-- PAR_PATH (R404): the path heard longest ago becomes silent. -/
def execParPath (dt : Nat) (s : State) : Host.Outcome State Fault Refusal :=
  let s1 := s.elapse dt
  let due (on : Bool) (t : Option Nat) : Option Nat := if on then t.map (· + s1.silencePos) else none
  let link := due (s1.rdBit Reg.PAR_LINK_PATH 0) s1.par.heardLink
  let pins := due (s1.rdBit Reg.PAR_PIN_PATH 0) s1.par.heardPin
  let go (t : Nat) (p : Bool) : State :=
    let s2 := s1.elapse (t - s1.time)
    ((s2.wrBit (if p then Reg.PAR_PIN_PATH else Reg.PAR_LINK_PATH) 0 false).raise Ev.PAR_PATH srcDevice
      [(1, ofBool p), (1, 1)]).tryAuto
  .next (match link, pins with
    | none, none => s1.tryAuto
    | some t, none => go t false
    | none, some t => go t true
    | some t, some u => if t ≤ u then go t false else go u true)

/-! ### Health messages -/

/-- The configuration CRCs are compared (R386). -/
def State.compareCrc (s : State) (crc : Nat) : State :=
  let differs := crc != s.sys.cfgCrc
  if s.parSt = parActive || !s.sys.configured then s
  else if differs && !s.rdBit Reg.PAR_CONFIG_MISMATCH 0 then
    let s1 := (s.wrBit Reg.PAR_CONFIG_MISMATCH 0 true).raise Ev.PAR_CONFIG_MISMATCH srcDevice [(4, s.sys.cfgCrc), (4, crc)]
    if s1.parSt = parStandby then s1.setPar parJoining 0 else s1
  else if !differs then s.wrBit Reg.PAR_CONFIG_MISMATCH 0 false
  else s

/-- A JOINING unit with a full copy applied and the same configuration is a STANDBY (R407). -/
def State.tryStandby (s : State) : State :=
  if s.parSt = parJoining && s.par.joined && !s.rdBit Reg.PAR_CONFIG_MISMATCH 0 then (s.setPar parStandby 0).review else s

/-- Table 12-8's stage bits for a stage code: 0 ingress line, 1 egress line, 2 ingress container, 3 egress container. -/
def stageOfBit (k : Nat) : Nat := match k with | 0 => 2 | 1 => 3 | 2 => 0 | _ => 1

/-- Stages that the mate newly reports unusable are so in both units (Table 12-10a). -/
def State.takeStages (s : State) (v : Nat) : State :=
  let new := (List.range 16).filter (fun i => bitOf v i && !bitOf s.par.mateStages i)
  let s1 : State := { s with par := { s.par with mateStages := v } }
  if s.parSt = parActive then new.foldl (fun a i => a.markUnusable (i / 4) (stageOfBit (i % 4))) s1 else s1

/-- The verdict of the canary (R417): `bad` says a test failed within the rotation. -/
def State.canaryVerdict (s : State) : Nat × Int :=
  let sum (l : List (Nat × Nat)) : Nat × Nat := l.foldl (fun a e => (a.1 + e.1, a.2 + e.2)) (0, 0)
  let own := sum s.par.canary.own
  let mate := sum s.par.canary.mate
  let loss (p : Nat × Nat) : Rat := if p.1 + p.2 = 0 then 0 else (p.2 : Rat) * 1000000 / ((p.1 + p.2 : Nat) : Rat)
  let judged := 10000 ≤ own.1 + own.2 && 10000 ≤ mate.1 + mate.2
  let ex := loss own - loss mate
  let lim : Rat := s.rd Reg.PAR_CANARY_LOSS 0
  let bist := s.par.canary.rotFails + s.par.canary.prevFails != 0
  let old := s.rd Reg.PAR_CANARY 0
  let e := if judged then ex.floor else s.par.canary.excess
  let v := if bist || (judged && 10 * lim < ex) then 3
    else if judged then (if lim < ex then 2 else 1)
    else if old = 0 then 1 else old
  (v, e)

/-- The canary of a STANDBY is judged (R416, R417). -/
def State.judgeCanary (s : State) : State :=
  if s.parSt != parStandby then s
  else
    let old := s.rd Reg.PAR_CANARY 0
    let r := s.canaryVerdict
    let s1 : State := { s with par := { s.par with canary := { s.par.canary with excess := r.2 } } }
    ((s1.wr Reg.PAR_CANARY 0 r.1).raiseIf (old != r.1) Ev.PAR_CANARY srcDevice
      [(1, old), (1, r.1), (4, satSigned 4 r.2)]).review

/-- The mate's report is taken. -/
def State.takeHealth (a : State) (p : HealthMsg) : State :=
  let ready := p.joinReady && !a.par.mateJoinReady
  let a1 : State := { a with par := { a.par with
    mateHealthy := p.healthy, mateJoinReady := p.joinReady,
    canary := { a.par.canary with mate := ((p.good, p.miss) :: a.par.canary.mate).take 10 } } }
  let a2 := ((a1.compareCrc p.cfgCrc).takeStages p.stages).tryStandby
  let flip : EpochFlip := { scope := 3, num := 0, epoch := 0, raiseCur := false }
  let a3 := if ready && a2.parSt = parActive && !a2.cip.ctxs.isEmpty then (a2.doEpochFlip flip true false).1 else a2
  a3.judgeCanary

/-- HEALTH (R386, R407, R416, Table 12-10a, R368): the mate's report. As a joining unit reports ready, the holder flips
every sealed context to its next epoch. -/
def execHealth (dt : Nat) (t : MateText) (s : State) : Host.Outcome State Fault Refusal :=
  .next ((s.elapse dt).controlText 5 t (fun a => a.takeHealth (readHealth t.payload)))

/-- The HEALTH message of now (Table 12-8). -/
def State.healthMsg (s : State) (good miss : Nat) : HealthMsg :=
  let bit (sl k : Nat) : Nat :=
    ofBool (s.ovm.unusable.contains (if k < 2 then lineUnit sl k else stageUnit sl (k - 2))) * 2 ^ (4 * sl + k)
  { verdict := s.rd Reg.PAR_CANARY 0, faulted := !s.par.faults.isEmpty, healthy := s.healthy, joinReady := s.parSt == parStandby,
    good := good, miss := miss, tests := s.par.canary.tests, failures := min 65535 s.par.canary.failures, cfgCrc := s.sys.cfgCrc,
    epoch := stampOf (s.par.applied.getD 0), stages := ((List.range 4).map (fun sl => ((List.range 4).map (bit sl)).sum)).sum }

/-- HEALTH_REPORT (R416): every 8,000 cycles a unit of a pair sends HEALTH. -/
def execHealthReport (dt : Nat) (s : State) : Host.Outcome State Fault Refusal :=
  let s1 := s.toBoundary dt (8000 * Config.cyclePos)
  let good := (s1.rd Reg.PAR_FE_GOOD 0 + 2 ^ 32 - s1.par.canary.lastGood) % 2 ^ 32
  let miss := (s1.rd Reg.PAR_FE_MISS 0 + 2 ^ 32 - s1.par.canary.lastMiss) % 2 ^ 32
  .next (if !s1.paired || s1.halted then s1
    else
      let s2 := s1.send (.health (s1.healthMsg good miss).bytes)
      let c := { s2.par.canary with
        own := ((good, miss) :: s2.par.canary.own).take 10, lastGood := s2.rd Reg.PAR_FE_GOOD 0,
        lastMiss := s2.rd Reg.PAR_FE_MISS 0, tests := 0, failures := 0 }
      ({ s2 with par := { s2.par with canary := c } } : State).judgeCanary)

/-- A resource is idle, so that the canary may test it (R416). The mark that keeps the Overman off it lasts for the test, which is
this row. -/
def State.bistIdle (s : State) : BistUnit → Bool
  | .hewer n => !s.ovmHewers.contains n && !s.ovm.ctxs.any (fun e => kindHasOverhead e.2.kind && e.2.place.hewer == n)
  | .pipe n => !s.ovm.ctxs.any (fun e => e.2.sealed && (e.2.place.pipeIn == n || e.2.place.pipeEg == n))
  | .grain n => tget 0 s.map.grains0 n == 0 && tget 0 s.map.grains1 n == 0
  | .tsi n => tget 0 s.map.tsi0 n == 0 && tget 0 s.map.tsi1 n == 0
  | .sram _ => true
  | .hbm n => !s.ovm.ctxs.any (fun e => e.2.place.hbm == n)

/-- CANARY_BIST (R416): every 10 ms a STANDBY tests one idle resource; `rotationEnd` says it completes a rotation. -/
def execCanaryBist (dt : Nat) (unit : BistUnit) (failed rotationEnd : Bool) (s : State) : Host.Outcome State Fault Refusal :=
  let s1 := s.untilTime dt s.par.canary.due
  .next (if !s1.paired || s1.parSt != parStandby || !s1.bistIdle unit then s1
    else
      let x := s1.par.canary
      let n := x.rotFails + ofBool failed
      let c := { x with
        tests := x.tests + 1, failures := x.failures + ofBool failed, due := s1.time + 10 * Config.msPos,
        rotFails := if rotationEnd then 0 else n, prevFails := if rotationEnd then n else x.prevFails }
      let s2 : State := { s1 with par := { s1.par with canary := c } }
      (s2.countBy Reg.PAR_BIST_FAIL_CNT 0 (ofBool failed)).judgeCanary)

/-! ### Control actions from the holder -/

/-- FORWARD (R361, R379, R381, R411, R430): a forwarded command is applied; `stored` says that a reservation it needs
could be stored. -/
def execForward (dt : Nat) (m : MsgHead) (f : Fwd) (stored : Bool) (s : State) : Host.Outcome State Fault Refusal :=
  .next ((s.elapse dt).control 6 m.head (headGood m) (fun a =>
    match f with
    | .rootLoad e => (a.doRootLoad e true).1
    | .keyErase e => (a.doKeyErase e true).1
    | .wrapLoad p => (a.doWrapLoad p true).1
    | .epochFlip p => (a.doEpochFlip p stored true).1
    | .shed i =>
      match tfind a.ovm.intents i with
      | some x => if x.state = 1 && a.hasAuthority then a.loadStep (.shed i) else a
      | none => a
    | .restore i => if a.hasAuthority then a.restoreIntent i else a))

/-- The host reference of work that no command of this unit's rings asked for. -/
def mateHost : HostRef := { ring := 0, tag := 2 ^ 32, noCpl := true }

/-- A context as the mate gives it, not yet in force. -/
def ctxOfPlaced (i : Nat) (p : PlacedCtx) (active : Bool) : Ctx :=
  { intent := i, kind := p.kind, parent := p.parent, endpoint := p.endpoint, endpointB := p.endpointB, out := p.out, dest := p.dest,
    pos := p.pos, place := p.place, gen := p.gen, sealed := p.sealed, priv := p.priv, scSeq := p.scSeq, block := p.block,
    key := p.key, protect := p.protect, hitless := p.hitless, group := p.group, nts := p.nts, rate := p.rate, stage := p.stage,
    cyclic := p.cyclic, active := active, pins := p.pins, cross := p.cross }

/-- An intent of a PLACE joins those that wait for the swap. -/
def State.takePlaced (s : State) (p : PlacedIntent) : State :=
  let i := p.params.id
  let x : IntentSt := { params := p.params, state := 0, charge := p.charge, host := mateHost, ctxs := p.ctxs.map (·.ctx), group := p.group, shared := p.shared }
  { s with ovm := { s.ovm with
    intents := tset s.ovm.intents i x, order := s.ovm.order.filter (fun j => j != i) ++ [i],
    ctxs := p.ctxs.foldl (fun t c => tset t c.ctx (ctxOfPlaced i c false)) s.ovm.ctxs } }

/-- Placement changes of the holder (R304, R411, Table 12-10a): the unit builds the same standby pages, acknowledges their CRC, and
arms for the swap named, or for the next where R45 defers it; one that misses the swap goes JOINING. -/
def State.takePlace (a : State) (p : PlaceMsg) : State :=
  if a.hasAuthority then a
  else if p.cycle * Config.cyclePos ≤ a.addr then
    (if a.parSt = parStandby || a.parSt = parJoining then a.setPar parJoining 0 else a)
  else
    let a1 := p.adds.foldl State.takePlaced a
    let a2 : State := { a1 with ovm := { a1.ovm with
      withdraws := p.removes.map (fun i => (i, mateHost)), shedding := p.sheds, moves := p.moves } }
    let adds := p.adds.map (fun x => x.params.id)
    let all := a2.standbyCtxs adds p.moves
    let b : ArmSt := { adds := adds, moves := p.moves, bank := a2.buildBank p.own all (p.cycle * Config.cyclePos), tsi := tsiPage all, grains := grainPage all }
    let due := a2.swapBoundary
    let late := p.cycle * Config.cyclePos < due.1
    let a3 := if late then a2.armNow b due.1 due.2 else a2.armNow b (p.cycle * Config.cyclePos) false
    let a4 := ({ a3 with par := { a3.par with place := some p } } : State).send (.placeAck p.cycle (pageCrc b.tsi b.grains))
    if late && (a4.parSt = parStandby || a4.parSt = parJoining) then a4.setPar parJoining 0 else a4

/-- The planner's plans are kept by context and frame (R396). -/
def planKey (ctx frame : Nat) : Nat := ctx * 65536 + frame
def State.takeGates (a : State) (l : List GateEntry) : State :=
  if a.par.planner then a
  else { a with par := { a.par with plans := l.foldl (fun t e => tset t (planKey e.ctx e.frame) e) a.par.plans } }

/-- The snapshot that a message sent at an address belongs to. -/
def snapOf (a : Nat) : Nat := a / Config.epochPos * Config.epochPos

/-- A STATE_DATA message is opened with early release into staging (R412, R414); a TAINTED result discards the whole snapshot. -/
def State.takeStateData (a : State) (sent : Nat) (b : BulkMsg) : State :=
  if a.parSt != parJoining && a.parSt != parStandby then a
  else
    let g := a.par.staging.getD { since := snapOf sent }
    let r := if !a.bulkKeyed then 3 else if b.tag = a.bulkTag b b.text then 0 else 2
    let a1 := a.bulkResult ((a.bulkPipe).getD 0) b r
    if g.dead then a1
    else
      let a2 : State := { a1 with par := { a1.par with
        staging := some { g with ivs := g.ivs ++ [(b.iv % 2 ^ 47, r, a.openBulk b)] } } }
      if r = 2 then
        let a3 := a2.discardEpoch g.since 3
        { a3 with par := { a3.par with staging := some { g with dead := true } } }
      else a2

/-- A data message in its turn. -/
def State.runData (s : State) : DataMsg → State
  | .place p => s.takePlace p
  | .gate l => s.takeGates l
  | .state sent b => s.takeStateData sent b

/-- Data messages that are next in the stream are acted on (R391). -/
def State.drainData : Nat → State → State
  | 0, s => s
  | n + 1, s =>
    let q := s.par.dataNext.getD 0
    match s.par.dataHeld.find? (fun e => e.1 == q) with
    | none => s
    | some e => State.drainData n (({ s with par := { s.par with
        dataNext := some ((q + 1) % 2 ^ 32), dataHeld := s.par.dataHeld.filter (fun f => f.1 != q) } } : State).runData e.2)

/-- The receiver orders data messages by their sequence numbers (R391). One whose turn has passed is discarded; a number far behind
restarts the order, and a gap is given up once more than six wait behind it (log entry 62). -/
def State.orderData (s : State) (q : Nat) (m : DataMsg) : State :=
  let next := s.par.dataNext.getD q
  let ahead (k : Nat) : Nat := (k + 2 ^ 32 - next) % 2 ^ 32
  if 2 ^ 32 - 64 ≤ ahead q then s
  else
    let again := decide (2 ^ 31 ≤ ahead q)
    let held := if again then [(q, m)] else s.par.dataHeld.filter (fun e => e.1 != q) ++ [(q, m)]
    let first := held.foldl (fun b e => if ahead e.1 < ahead b then e.1 else b) q
    let s1 : State := { s with par := { s.par with
      dataNext := some (if again then q else if 6 < held.length then first else next), dataHeld := held } }
    s1.drainData held.length

/-- A data message is taken (R390, R391). -/
def State.dataMsg (s : State) (typ : Nat) (head : List Nat) (good : Bool) (m : DataMsg) : State :=
  if !s.paired then s
  else if !good then s.count Reg.PAR_MSG_CRC_CNT 0
  else if head.headD 0 != typ then s
  else s.orderData (headSeq head) m

/-- PLACE (R304, R390, R391, R411, Table 12-10a). -/
def execPlace (dt : Nat) (m : MsgHead) (p : PlaceMsg) (s : State) : Host.Outcome State Fault Refusal :=
  .next ((s.elapse dt).dataMsg 7 m.head (headGood m) (.place p))

/-- PLACE_ACK (Table 12-10a): the same CRC arms the swap; when its boundary can no longer be met, the changes are sent
again for the next. -/
def execPlaceAck (dt : Nat) (m : MsgHead) (cycle crc : Nat) (s : State) : Host.Outcome State Fault Refusal :=
  .next ((s.elapse dt).control 8 m.head (headGood m) (fun a =>
    match a.ovm.arm, a.par.placing with
    | some b, some (p, own) =>
      if b.armed || p.cycle != cycle || own != crc then a
      else
        let due := a.swapBoundary
        if due.1 = p.cycle * Config.cyclePos then a.armNow b due.1 due.2 else a.sendPlace b p.own
    | _, _ => a))

/-- CTRL_IMAGE (R242): bytes, selectors and requests apply at the next insertion. -/
def execCtrlImage (dt : Nat) (m : MsgHead) (l : List ImageEntry) (s : State) : Host.Outcome State Fault Refusal :=
  .next ((s.elapse dt).control 9 m.head (headGood m) (fun a =>
    if a.hasAuthority then a
    else l.foldl (fun b e => match tfind b.frm.groups e.group with
      | some g => b.setGroup e.group { g with tx := e.tx, wanted := e.leg, request := e.request }
      | none => b) a))

/-- GATE (R390, R391, R396, Table 12-4): the planner's plans for the next multiframe. -/
def execGate (dt : Nat) (t : MateText) (s : State) : Host.Outcome State Fault Refusal :=
  .next ((s.elapse dt).dataMsg 10 t.head (textGood t) (.gate (readGates t.payload)))

/-- Container frames of a context in a multiframe, rounded up. -/
def State.planFrames (s : State) (c : Nat) : Nat := (s.pointBlocks c + 1999) / 2000

/-- The plan of the planner's gate for a container frame (R396, Table 12-4); what it decides is free (log entry 62). -/
def State.newPlan (s : State) (c frame : Nat) : GateEntry :=
  let free (i m : Nat) : Nat := Config.freeChoice (s.freeCtr + i) % m
  let small := match s.ctx? c with | some x => kindVc x.kind | none => false
  { ctx := c, frame := frame, decision := free 0 (if small then 3 else 65536), upstream := free 1 (2 ^ 32), offset := free 2 (2 ^ 24),
    fill := (s.fillOf c).isSome }

/-- A bit or byte justification that a gate takes (Table 12-4) is counted as sent. -/
def State.takeDecision (s : State) (c d : Nat) : State :=
  match s.ctx? c with
  | none => s
  | some x =>
    if !kindVc x.kind then s
    else
      let j := tget (0, 0, 0, 0) s.map.just c
      let k := if d % 4 = 1 then ((j.1 + 1) % 2 ^ 32, j.2) else if d % 4 = 2 then (j.1, (j.2.1 + 1) % 2 ^ 32, j.2.2) else j
      { s with map := { s.map with just := tset s.map.just c k } }

/-- PAR_GATE_MISS (R396): container frame `frame` of a context begins. The planner plans the frame of the next multiframe and sends
its entry; the other unit applies the entry it has, or decides itself and counts the miss. -/
def execParGateMiss (dt ctx frame : Nat) (s : State) : Host.Outcome State Fault Refusal :=
  let s1 := s.elapse dt
  .next (if !s1.paired || !(s1.ctx? ctx).any (·.active) then s1
    else if s1.par.planner then
      let g := s1.newPlan ctx ((frame + s1.planFrames ctx) % 65536)
      ({ s1 with freeCtr := s1.freeCtr + 3 } : State).send (.gate [g])
    else match tfind s1.par.plans (planKey ctx frame) with
      | some g => ({ s1 with par := { s1.par with plans := tdel s1.par.plans (planKey ctx frame) } } : State).takeDecision ctx g.decision
      | none =>
        ((((s1.takeDecision ctx (s1.newPlan ctx frame).decision).draw).count Reg.PAR_GATE_MISS_CNT 0).raiseOnce Ev.PAR_GATE_MISS 0
          srcDevice (fun n => [(4, n)])))

/-! ### State copy -/

/-- PAR_EPOCH reports the last epoch applied or committed (Table 12-13). -/
def State.epochRegs (s : State) (a : Nat) : State :=
  let c := a / Config.cyclePos
  (({ s with par := { s.par with applied := some a } } : State).wr Reg.PAR_EPOCH_LO 0 (c % 2 ^ 32)).wr Reg.PAR_EPOCH_HI 0 (c / 2 ^ 32)

/-- A bin as a copy gives it. -/
def copyOfBin (b : PmBin) : BinCopy :=
  { serial := b.serial, start := b.start, ended := b.ended, seconds := b.seconds, classified := b.classified, counts := b.counts,
    suspect := b.suspect }
def binOf (c : BinCopy) : PmBin :=
  { serial := c.serial, start := c.start, ended := c.ended, seconds := c.seconds, classified := c.classified, counts := c.counts,
    suspect := c.suspect }

/-- The snapshot of now (R412, R413, Table 12-11a). -/
def State.snapshotNow (s : State) : Snapshot :=
  let left (t n : Nat) : Nat := t + n - s.time
  let passed (l : Tab Nat) : List (Nat × Nat) := l.map (fun e => (e.1, s.time - e.2))
  { intents := (s.ovm.intents.map (·.1)).filterMap s.placedIntent,
    groups := s.frm.groups.map (fun e =>
      { image := { group := e.1, tx := e.2.tx, leg := e.2.wanted, request := e.2.request }, command := e.2.command, cmdLeg := e.2.cmdLeg,
        holdLeft := e.2.holdFrom.map (left · e.2.holdPos), wtrLeft := e.2.wtrFrom.map (left · (e.2.wtr * Config.secondPos)) }),
    defects := s.ovm.ctxs.map (fun e =>
      let u := s.framer (srcCtx e.1)
      { ctx := e.1, failed := u.failed, sets := passed u.setFrom, clears := passed u.clrFrom }),
    epochs := s.cip.ctxs.map (fun e =>
      { ctx := e.1, send := e.2.tx.epoch, flip := e.2.tx.flip, announced := e.2.tx.announced, receive := e.2.rx.epoch }),
    slots := s.cip.slots.map (fun e =>
      { slot := e.1, used0 := e.2.h0.any (·.used), used1 := e.2.h1.any (·.used), erasing := e.2.erasing }),
    points := s.pm.points.map (fun e =>
      { point := e.1, neUnav := e.2.neUnav, feUnav := e.2.feUnav, neHist := e.2.neHist, feHist := e.2.feHist,
        cur15 := copyOfBin e.2.cur15, cur24 := copyOfBin e.2.cur24, hist15 := e.2.hist15.map copyOfBin,
        hist24 := e.2.hist24.map copyOfBin }),
    tod := s.todNow }

/-- STATE_COPY_EPOCH (R412): the holder's snapshot at an epoch boundary: a delta, or a full copy for a joining unit;
while a full copy is in progress, none. -/
def execStateCopyEpoch (dt : Nat) (s : State) : Host.Outcome State Fault Refusal :=
  let s1 := s.atEntry dt Config.epochPos 8
  .next (if !s1.paired || s1.halted || s1.parSt != parActive || !s1.dispatched 8 (fun _ => true) then s1
    else
      let joining := s1.par.mateState == parJoining || s1.par.mateApplied.isNone
      let busy := match s1.par.fullSince with | some t => decide (s1.addr < t + 64 * Config.epochPos) | none => false
      if busy then s1
      else
        let base := if joining then none else s1.par.mateApplied
        let s2 := (s1.epochRegs s1.addr).send (.stateCopy s1.stamp (base.map stampOf) s1.snapshotNow)
        let d := match s2.par.drill with
          | some x => if x.phase = 0 then some { x with phase := 1, since := s2.addr, snap := s2.addr } else some x
          | none => none
        { s2 with par := { s2.par with fullSince := if joining then some s1.addr else none, drill := d } })

/-- STATE_DATA (R390, R391, R412, R414): one sealed bulk message (Table 11-7). -/
def execStateData (dt : Nat) (t : MateText) (s : State) : Host.Outcome State Fault Refusal :=
  let s1 := s.elapse dt
  .next (s1.dataMsg 11 t.head (textGood t) (.state (s1.sentAddr t.head) (readBulk true t.payload)))

/-- A copied PM point (R341, R413). -/
def State.copyPoint (s : State) (c : PointCopy) : State :=
  let x := s.point c.point
  s.setPoint c.point { x with
    neUnav := c.neUnav, feUnav := c.feUnav, neHist := c.neHist, feHist := c.feHist, cur15 := binOf c.cur15, cur24 := binOf c.cur24,
    hist15 := c.hist15.map binOf, hist24 := c.hist24.map binOf }

/-- A copied protection group. -/
def State.copyGroup (s : State) (c : GroupCopy) : State :=
  match tfind s.frm.groups c.image.group with
  | none => s
  | some g => s.setGroup c.image.group { g with
      tx := c.image.tx, wanted := c.image.leg, leg := c.image.leg, request := c.image.request, command := c.command, cmdLeg := c.cmdLeg,
      holdFrom := c.holdLeft.map (fun n => s.time + n - g.holdPos),
      wtrFrom := c.wtrLeft.map (fun n => s.time + n - g.wtr * Config.secondPos) }

/-- A copied context: one that is new here comes into force, its sending direction stopped with cause JOIN (R368). -/
def State.copyCtx (s : State) (i : Nat) (p : PlacedCtx) : State :=
  let x := ctxOfPlaced i p true
  match s.ctx? p.ctx with
  | some y => { s with ovm := { s.ovm with ctxs := tset s.ovm.ctxs p.ctx { x with fail := y.fail, migrating := y.migrating } } }
  | none =>
    let s1 : State := { s with ovm := { s.ovm with ctxs := tset s.ovm.ctxs p.ctx x } }
    let s2 := if kindHasOverhead x.kind then s1.setFramer (srcCtx p.ctx) { oofSince := some s1.time } else s1
    let s3 := if x.kind = 0x30 then s2 else s2.pmPlace p.ctx
    let s4 := if x.isFlow && x.place.queues != 0 then (flowQueue s3 x.place.queue).draw else s3
    if x.sealed then s4.placeCipher p.ctx (if x.priv then 0x80 + x.key else x.key) (s4.rd Reg.CIP_EPOCH_CUR 0) true else s4

/-- A copied intent. -/
def State.copyIntent (s : State) (p : PlacedIntent) : State :=
  let i := p.params.id
  let known := (tfind s.ovm.intents i).isSome
  let x : IntentSt := { params := p.params, state := p.state, charge := p.charge, host := mateHost, ctxs := p.ctxs.map (·.ctx), group := p.group, shared := p.shared }
  let s1 : State := { s with ovm := { s.ovm with intents := tset s.ovm.intents i x } }
  if p.state = 1 || p.state = 3 then
    let s2 := p.ctxs.foldl (fun a c => a.copyCtx i c) s1
    if known then s2 else s2.addGroup x
  else s1

/-- Copied defect integration (R413). -/
def State.copyDefect (s : State) (c : DefectCopy) : State :=
  let from_ (l : List (Nat × Nat)) : Tab Nat := l.foldl (fun t e => tset t e.1 (s.time - e.2)) []
  if (s.ctx? c.ctx).isNone then s
  else s.setFramer (srcCtx c.ctx) { s.framer (srcCtx c.ctx) with failed := c.failed, setFrom := from_ c.sets, clrFrom := from_ c.clears }

/-- The copied state of a slot's halves (R380, R413): keys are never copied. -/
def State.copySlot (s : State) (c : SlotCopy) : State :=
  let x := s.keySlot c.slot
  s.setSlot c.slot { x with h0 := x.h0.map (fun h => { h with used := c.used0 || h.used }),
                            h1 := x.h1.map (fun h => { h with used := c.used1 || h.used }), erasing := c.erasing || x.erasing }

/-- A copied epoch (R368, R413): a direction stopped as JOIN takes the sending epoch; sending counters are never copied. -/
def State.copyEpoch (s : State) (c : EpochCopy) : State :=
  match s.cip? c.ctx with
  | none => s
  | some x => s.setCip c.ctx { x with tx := if x.tx.stop = 4 then { x.tx with epoch := c.send, flip := c.flip, announced := c.announced }
                                        else { x.tx with flip := if x.tx.flip.isSome then x.tx.flip else c.flip },
                                      rx := { x.rx with epoch := max x.rx.epoch c.receive } }

/-- A snapshot is applied whole (R413, R414, Table 12-10a); a full copy also removes what it does not name. -/
def State.applySnapshot (s : State) (stamp : Nat) (full : Bool) (n : Snapshot) : State :=
  let names := (n.intents.map (fun p => p.ctxs.map (·.ctx))).flatten
  let gone := if full then ((s.ovm.ctxs.map (·.1)).filter (fun c => !names.contains c)) else []
  let s1 := gone.foldl State.dropCtx s
  let s2 := n.intents.foldl State.copyIntent s1
  let s3 := n.slots.foldl State.copySlot (n.epochs.foldl State.copyEpoch (n.defects.foldl State.copyDefect
    (n.groups.foldl State.copyGroup s2)))
  let s4 := n.points.foldl State.copyPoint s3
  s4.setTod (n.tod + 3125 * (s4.addr - stamp))

/-- Why a snapshot is discarded at its commit (R414), 0 if it is applied. -/
def State.commitReason (s : State) (c : CommitRec) (tagOk : Bool) : Nat :=
  let due := c.stamp + (if c.base.isNone then 64 else 1) * Config.epochPos
  let got := match s.par.staging with | some g => g.ivs | none => []
  if due ≤ s.addr then 1
  else if !tagOk || got.any (fun e => e.2.1 != 0) then 3
  else if !((List.range c.count).all (fun k => got.any (fun e => e.1 == c.firstIv + k))) then 5
  else if crc32c ((List.range c.count).flatMap (fun k => ((got.find? (fun e => e.1 == c.firstIv + k)).map (·.2.2)).getD [])) != c.crc then 2
  else if c.base.isSome && c.base != s.par.applied then 4
  else 0

/-- A later commit than the drill's tells the mate that the holder did not surrender: result 1 (R418). -/
def State.drillMissed (s : State) (stamp : Nat) : State :=
  match s.par.drill with
  | some d => if d.phase = 4 && !s.par.surrendered && d.snap < stamp then s.endDrill 1 s.addr else s
  | none => s

/-- A commit record is judged (R412 to R414): the snapshot `snap` that the plaintexts in staging spell is applied whole at the next
cycle boundary, or discarded with its reason. -/
def State.takeCommit (a0 : State) (b : BulkMsg) (snap : Snapshot) : State :=
  let tagOk := a0.bulkKeyed && b.tag == a0.bulkTag b b.text
  let c := readCommit (a0.openBulk b)
  if a0.parSt != parJoining && a0.parSt != parStandby then a0
  else
    let a := if tagOk then a0.drillMissed c.stamp else a0
    if (match a.par.staging with | some g => g.dead | none => false) then { a with par := { a.par with staging := none } }
    else match a.commitReason c tagOk with
      | 0 =>
        let p := a.alterCheck 4
        if p.2 then (p.1.discardEpoch c.stamp 2).review else
        let a1 := a.waitAddr (nextCycle a.addr)
        let a2 := (a1.applySnapshot c.stamp c.base.isNone snap).epochRegs c.stamp
        let a3 : State := { a2 with par := { a2.par with staging := none, missRun := 0, joined := a2.par.joined || c.base.isNone } }
        (((a3.count Reg.PAR_EPOCH_APPLIED_CNT 0).send (.stateAck (stampOf c.stamp) 0)).tryStandby).review
      | r =>
        let at_ := if tagOk then c.stamp else match a.par.staging with | some g => g.since | none => a.addr
        (a.discardEpoch at_ r).review

/-- STATE_COMMIT (R390, R391, R412 to R414): one sealed bulk message whose plaintext is Table 12-10. -/
def execStateCommit (dt : Nat) (t : MateText) (snap : Snapshot) (s : State) : Host.Outcome State Fault Refusal :=
  .next ((s.elapse dt).controlText 12 t (fun a => a.takeCommit (readBulk false t.payload) snap))

/-- STATE_COMMIT_DEADLINE (R414): the commit of a snapshot in staging has not arrived. -/
def execStateCommitDeadline (dt : Nat) (s : State) : Host.Outcome State Fault Refusal :=
  let s1 := s.elapse dt
  .next (match s1.par.staging with
    | none => s1
    | some g =>
      let s2 := s1.waitAddr (g.since + (if s1.parSt = parJoining then 64 else 1) * Config.epochPos)
      if g.dead then { s2 with par := { s2.par with staging := none } } else s2.discardEpoch g.since 1)

/-- The other unit's verdict (R412, R418): a drill that waits for verdict 0 surrenders the tally, with its options in force. -/
def State.takeAck (a : State) (stamp verdict : Nat) : State :=
  let at_ := addrOfStamp stamp
  let a1 : State := { a with par := { a.par with
    mateApplied := if verdict = 0 then some at_ else a.par.mateApplied,
    fullSince := if verdict = 0 || a.par.fullSince = some at_ then none else a.par.fullSince } }
  match a1.par.drill with
  | some d =>
    if d.phase = 1 && verdict = 0 && d.snap = at_ && a1.parSt = parActive then
      ({ a1 with par := { a1.par with drill := some { d with phase := 2, since := a1.time, gaveAt := a1.addr } } } : State).giveUp 7
    else a1
  | none => a1

/-- STATE_ACK (R412, R418, Table 12-3). -/
def execStateAck (dt : Nat) (t : MateText) (s : State) : Host.Outcome State Fault Refusal :=
  .next ((s.elapse dt).controlText 13 t (fun a => a.takeAck (beNum (cut t.payload 0 8)) (t.payload.getD 8 0)))

/-! ### Drills and commands -/

/-- DRILL (R418): the standby is told of a drill, with its options. -/
def execDrill (dt : Nat) (m : MsgHead) (options cycle : Nat) (s : State) : Host.Outcome State Fault Refusal :=
  .next ((s.elapse dt).control 14 m.head (headGood m) (fun a =>
    { a with par := { a.par with drill := some { options := options, phase := 4, since := a.time, snap := cycle * Config.cyclePos } } }))

/-- DRILL_ACK_TIMEOUT (R418): no verdict 0 within 8 cycles of the commit; the drill ends with result 1. -/
def execDrillAckTimeout (dt : Nat) (s : State) : Host.Outcome State Fault Refusal :=
  let s1 := s.elapse dt
  .next (match s1.par.drill with
    | some d =>
      if d.phase != 1 then s1
      else
        let s2 := s1.waitAddr (d.since + 8 * Config.cyclePos)
        if s2.addr < d.since + 8 * Config.cyclePos then s2 else s2.endDrill 1 s2.addr
    | none => s1)

/-- DRILL_CLAIM_TIMEOUT (R418): no CLAIM within 50 ms of the surrender; the former holder takes the tally back. -/
def execDrillClaimTimeout (dt : Nat) (s : State) : Host.Outcome State Fault Refusal :=
  let s1 := s.elapse dt
  .next (match s1.par.drill with
    | some d =>
      if d.phase != 2 then s1
      else
        let s2 := s1.elapse (d.since + 50 * Config.msPos - s1.time)
        (s2.endDrill 2 d.gaveAt).enterTaking 2 none
    | none => s1)

/-- PAR_TAKE (R407, R421): NOT_PAIRED, WRONG_STATE, NOT_HEALTHY; it completes as the attempt ends. -/
def execParTake (dt : Nat) (h : HostRef) (s : State) : Host.Outcome State Fault Refusal :=
  .next (s.command dt h 11 Op.PAR_TAKE (fun a =>
    if !a.paired then a.refuse h Op.PAR_TAKE 2
    else if !([parSeeking, parStandby, parOrphan].contains a.parSt) then a.refuse h Op.PAR_TAKE 3
    else if !a.healthy then a.refuse h Op.PAR_TAKE 4
    else a.enterTaking 2 (some h)))

/-- PAR_SURRENDER (R410, R421): cause 6. -/
def execParSurrender (dt : Nat) (h : HostRef) (s : State) : Host.Outcome State Fault Refusal :=
  .next (s.command dt h 11 Op.PAR_SURRENDER (fun a =>
    if !a.paired then a.refuse h Op.PAR_SURRENDER 2
    else if a.parSt != parActive then a.refuse h Op.PAR_SURRENDER 5
    else (a.giveUp 6).done h Op.PAR_SURRENDER))

/-- PAR_DRILL (R418, R421): accepted from the holder while the mate is STANDBY and healthy. -/
def execParDrill (dt : Nat) (h : HostRef) (options : Nat) (s : State) : Host.Outcome State Fault Refusal :=
  .next (s.command dt h 11 Op.PAR_DRILL (fun a =>
    if 3 < options then a.refuse h Op.PAR_DRILL 1
    else if !a.paired then a.refuse h Op.PAR_DRILL 2
    else if a.par.drill.isSome then a.refuse h Op.PAR_DRILL 3
    else if a.parSt != parActive then a.refuse h Op.PAR_DRILL 5
    else if a.par.mateState != parStandby || !a.par.mateHealthy then a.refuse h Op.PAR_DRILL 7
    else
      let a1 : State := { a with par := { a.par with drill := some { options := options, phase := 0, since := a.time } } }
      (a1.send (.drill options ((a.addr / Config.epochPos + 1) * 32))).done h Op.PAR_DRILL))

/-- PAR_CLEAR_FAULT (R410, R421): once every cause has gone. A stage marked unusable has not gone; a cause that another
block still holds present stays in `faults` until it ends. -/
def execParClearFault (dt : Nat) (h : HostRef) (s : State) : Host.Outcome State Fault Refusal :=
  .next (s.command dt h 11 Op.PAR_CLEAR_FAULT (fun a =>
    let stays := (a.par.faults.contains 1 && a.ovm.unusable.any (· < 4096)) || (a.par.faults.contains 4 && 1760 ≤ a.rdInt Reg.BKG_TJ_MAX 0) ||
      a.par.faults.any (fun c => a.sys.faultsHeld.contains c)
    if !a.paired then a.refuse h Op.PAR_CLEAR_FAULT 2
    else if stays then a.refuse h Op.PAR_CLEAR_FAULT 6
    else ((({ a with par := { a.par with faults := [] } } : State).parRegs).review).done h Op.PAR_CLEAR_FAULT))

end Sys2Proof.Machine
end

