-- ==== Sys2Proof/Machine/Energy.lean ====
section
/-! DEFINITION. The energy governor (R422 to R442): power, levers, container-stage gating, feed loss and the last gasp,
PMBus and energy per bit. Load steps stand in Slew, the feed words in Filters. -/

namespace Sys2Proof.Machine

/-! ### Power -/

/-- Energy in mJ of a power in 10 mW over a number of positions. -/
def energyMj (p : Nat) (n : Rat) : Rat := (p : Rat) * n * 10 / 155520000

/-- ENG_LEDGER_MJ follows the ledger: what remains, never below nothing. -/
def State.ledgerReg (s : State) : State := (s.wr Reg.ENG_LEDGER_MJ 0 (s.figure 20 false (max 0 s.eng.ledger))).draw

/-- The ledger is charged up to now at a power (R434). -/
def State.chargeLedger (s : State) (p : Nat) : State :=
  if s.rd Reg.ENG_STATE 0 != 3 then s
  else
    let e := s.eng.ledger - energyMj p ((s.time - s.eng.ledgerAt : Nat) : Rat)
    ({ s with eng := { s.eng with ledger := e, ledgerAt := s.time } } : State).ledgerReg

/-- Rail r's measured voltage and power estimate (R605). -/
def State.setRail (s : State) (r mv p : Nat) : State := (s.wr Reg.BKG_RAIL_MV r mv).wr Reg.BKG_RAIL_PWR r p

/-- DEV_POWER_UPDATE (R425, R434, R605): every 100 µs the rails, as (mV, 10 mW), are measured and summed, and a running
last gasp's ledger is charged. -/
def execDevPowerUpdate (dt : Nat) (rails : List (Nat × Nat)) (s : State) : Host.Outcome State Fault Refusal :=
  let s1 := s.toBoundary dt Config.hundredUsPos
  let l := rails.take 9
  let s2 := (l.zipIdx).foldl (fun a e => a.setRail e.2 e.1.1 e.1.2) s1
  let p := (l.map (·.2)).sum
  let v := if p < 65536 then p else (Config.freeRound s2.freeCtr % 65536).toNat
  let s3 := (s2.wr Reg.ENG_DEV_POWER 0 v).draw
  .next (if s3.rd Reg.ENG_STATE 0 = 4 then s1
    else
      let s4 : State := { s3 with eng := { s3.eng with powers := ((s3.addr, (v : Int)) :: s3.eng.powers).take 16 } }
      s4.chargeLedger v)

/-- The mean of ENG_DEV_POWER over the last multiframe, in 10 mW (R427). -/
def State.meanPower (s : State) : Rat :=
  (histSum s.eng.powers (s.addr - Config.multiframePos) s.addr : Rat) / Config.multiframePos

/-- The feed pairs that are enabled and aligned. -/
def State.goodPairs (s : State) : List Nat :=
  (List.range 8).filter (fun k => s.rdBit Reg.ENG_FEED_EN k && !s.rdBit Reg.ENG_FEED_UNALIGNED k)

/-- ENG_INTAKE: the sum over the pairs of the mean of P over the last multiframe (R424). -/
def State.intake (s : State) : State :=
  let mean (k : Nat) : Rat := let f := s.feed k; if f.pCount = 0 then 0 else f.pSum / f.pCount
  let total := (s.goodPairs.map mean).sum
  let s1 := (s.wr Reg.ENG_INTAKE 0 (s.figure 20 false total)).draw
  (List.range 8).foldl (fun a k => a.setFeed k { a.feed k with pSum := 0, pCount := 0 }) s1

/-! ### Levers -/

/-- The highest lever in force, 0 for none (ENG_LEVER). -/
def State.topLever (s : State) : Nat :=
  if s.eng.shed != [] then 6 else if s.eng.lanes != [] then 5 else if s.rd Reg.ENG_HBM_STATE 0 != 0 then 4
  else if s.eng.pipes != [] || s.eng.pipeAsks != [] then 3 else if s.eng.hewers != 0 then 2
  else if s.rdBit Reg.BKG_THROTTLED 0 then 1 else 0

/-- ENG_LEVER and, outside a last gasp, ENG_STATE follow the levers. -/
def State.leverRegs (s : State) (isOver : Bool) : State :=
  let s1 := s.wr Reg.ENG_LEVER 0 s.topLever
  if s1.gasping then s1 else s1.wr Reg.ENG_STATE 0 (if isOver then 2 else if s1.topLever = 0 then 0 else 1)

/-- Pipelines with nothing bound that run, lowest first (Table 13-1). -/
def State.freePipe (s : State) : Option Nat :=
  (List.range 24).find? (fun p => s.unitIdle p && !s.ovm.gated.contains p && !s.ovm.waking.contains p &&
    !s.eng.pipes.contains p && !s.ovm.unusable.contains p)

/-- ACC, UPL and TRB lanes that run and carry no placed context, lowest first (Table 13-1, R158). -/
def State.freeLane (s : State) : Option Nat :=
  let fresh (u : Nat) : Bool := s.unitIdle u && !s.ovm.gated.contains u && !s.ovm.waking.contains u && !s.eng.lanes.contains u
  (((List.range 72).filter (fun l => s.laneOn l && !s.rdBit Reg.PRT_LANE_TESTING l && fresh (1024 + l))).map (1024 + ·) ++
    ((List.range 32).filter (fun n => s.trbOn n && fresh (2048 + n))).map (2048 + ·)).head?

/-- The intent that lever 6 sheds next (Table 13-1): of the highest shed class, the most recently placed. -/
def State.nextShed (s : State) : Option Nat :=
  let l := (s.ovm.intents.filter (fun e => e.2.state == 1 && e.2.params.shed != 0 && !s.eng.shed.contains e.1))
  let key (i : Nat) : Nat := match tfind s.ovm.intents i with
    | some x => (4 - x.params.shed) * 2 ^ 64 + (2 ^ 64 - 1 - x.seq)
    | none => 0
  leastBy key (l.map (·.1))

/-- A lever step is reported (R427). -/
def State.sayLever (s : State) (lever : Nat) (pulled : Bool) (mean : Rat) : State :=
  (s.raise Ev.ENG_LEVER srcDevice [(1, lever), (1, ofBool pulled), (4, (s.wholeFree mean).toNat)]).draw

/-- One step of a lever is pulled, if it has one (Table 13-1). -/
def State.pull (s : State) (o : GovObs) (lever : Nat) : Option State :=
  match lever with
  | 1 => if s.rdBit Reg.BKG_THROTTLED 0 then none else some (s.wrBit Reg.BKG_THROTTLED 0 true)
  | 2 => if o.hewer then some { s with eng := { s.eng with hewers := s.eng.hewers + 1 } } else none
  | 3 =>
    match s.freePipe, o.pipe with
    | some p, _ => some (({ s with eng := { s.eng with pipes := p :: s.eng.pipes } } : State).loadStep (.gate p))
    | none, some p => if s.eng.pipeAsks.contains p || s.ovm.gated.contains p || 23 < p then none
        else some { s with eng := { s.eng with pipeAsks := p :: s.eng.pipeAsks } }
    | none, none => none
  | 4 =>
    let k := s.rd Reg.ENG_HBM_STATE 0
    if k = 0 then some (s.loadStep (.hbm 1)) else if k = 1 && !s.hbmUsed then some (s.loadStep (.hbm 2)) else none
  | 5 => s.freeLane.map (fun u => ({ s with eng := { s.eng with lanes := u :: s.eng.lanes } } : State).loadStep (.gate u))
  | 6 =>
    if !s.rdBit Reg.ENG_SHED_EN 0 then none
    else s.nextShed.map (fun i =>
      let s1 : State := { s with eng := { s.eng with shed := i :: s.eng.shed } }
      if s1.hasAuthority then s1.loadStep (.shed i) else s1.sendFwd (.shed i))
  | _ => none

/-- The lowest lever that still has a step is pulled by one step; none left means over budget (R427, R429). -/
def State.pullLowest (s : State) (o : GovObs) (mean : Rat) : List Nat → State
  | [] =>
    let was := s.rd Reg.ENG_STATE 0 = 2
    ((s.raiseIf (!was) Ev.ENG_OVER_BUDGET srcDevice [(4, (s.wholeFree mean).toNat), (4, s.rd Reg.ENG_BUDGET 0)]).draw).leverRegs true
  | l :: rest =>
    match s.pull o l with
    | some s1 => (s1.sayLever l true mean).leverRegs false
    | none => s.pullLowest o mean rest

/-- One step of a lever in force is released (R427, R430). -/
def State.release (s : State) (lever : Nat) : State :=
  match lever with
  | 1 => s.wrBit Reg.BKG_THROTTLED 0 false
  | 2 => { s with eng := { s.eng with hewers := s.eng.hewers - 1 } }
  | 3 =>
    match s.eng.pipeAsks, s.eng.pipes with
    | _ :: rest, _ => { s with eng := { s.eng with pipeAsks := rest } }
    | [], p :: rest => ({ s with eng := { s.eng with pipes := rest } } : State).loadStep (.wake p)
    | [], [] => s
  | 4 => s.loadStep (.hbm (s.rd Reg.ENG_HBM_STATE 0 - 1))
  | 5 =>
    match s.eng.lanes with
    | u :: rest => ({ s with eng := { s.eng with lanes := rest } } : State).loadStep (.wake u)
    | [] => s
  | 6 =>
    match s.eng.shed with
    | i :: rest =>
      let s1 : State := { s with eng := { s.eng with shed := rest } }
      if s1.hasAuthority then s1.restoreIntent i else s1.sendFwd (.restore i)
    | [] => s
  | _ => s

/-- ENG_RELEASE in positions (100 ms units, 0 acts as 1). -/
def State.releasePos (s : State) : Nat := max 1 (s.rd Reg.ENG_RELEASE 0) * 100 * Config.msPos

/-- What the release of one step of a lever adds, in 10 mW: the step's typical saving (Tables 13-1, 13-2; log entry 35). -/
def State.releaseCost (s : State) (lever : Nat) : Rat :=
  match lever with
  | 1 => 10
  | 2 => 5 / 2
  | 3 => if s.eng.pipeAsks.isEmpty then 8 else 0
  | 4 => if s.rd Reg.ENG_HBM_STATE 0 = 2 then 50 else 80
  | 5 => 8
  | 6 => match s.eng.shed with | i :: _ => s.chargeOf i | [] => 0
  | _ => 0

/-- The governor's comparison (R427, R429): at most one lever step. -/
def State.govern (s : State) (o : GovObs) : State :=
  let mean := s.meanPower
  let budget : Rat := s.rd Reg.ENG_BUDGET 0
  let low := budget - s.rd Reg.ENG_HYST 0
  let below := if mean < low then some (s.eng.below.getD s.time) else none
  let s1 : State := { s with eng := { s.eng with below := below } }
  let top := s1.topLever
  if budget < mean then s1.pullLowest o mean [1, 2, 3, 4, 5, 6]
  else
    let due := match below with | some t => decide (t + s1.releasePos ≤ s1.time) | none => false
    if due && top != 0 && mean + s1.releaseCost top ≤ low then ((s1.release top).sayLever top false mean).leverRegs false
    else s1.leverRegs false

/-! ### Gating -/

/-- Container stages that no placed context uses and no placement is pending on are gated, within the slew limit, in
every state but STOPPED (R428). -/
def State.gateStages (s : State) : State :=
  ((List.range 8).map (256 + ·)).foldl (fun a u =>
    if a.unitIdle u && !a.ovm.gated.contains u && !a.ovm.waking.contains u then a.loadStep (.gate u) else a) s

/-- Pipelines that the Overman was asked to empty are parked once nothing is bound to them (Table 13-1). -/
def State.parkAsked (s : State) : State :=
  (s.eng.pipeAsks.filter s.unitIdle).foldl (fun a p =>
    ({ a with eng := { a.eng with pipeAsks := a.eng.pipeAsks.filter (fun q => q != p), pipes := p :: a.eng.pipes } } : State).loadStep
      (.gate p)) s

/-- Units of levers 3 and 5 that a placement has woken are theirs no longer (R28). -/
def State.dropWoken (s : State) : State :=
  let kept (u : Nat) : Bool := (s.ovm.gated.contains u && !s.ovm.waking.contains u) || s.eng.waiting.contains (.gate u)
  { s with eng := { s.eng with pipes := s.eng.pipes.filter kept, lanes := s.eng.lanes.filter kept } }

/-- GOVERNOR_STEP (R424, R427 to R430): at each multiframe boundary intake and budget are judged and empty container
stages gated. In a last gasp the levers stand as the declaration left them. -/
def execGovernorStep (dt : Nat) (o : GovObs) (s : State) : Host.Outcome State Fault Refusal :=
  let s1 := s.toBoundary dt Config.multiframePos
  .next (if s1.halted || s1.rd Reg.ENG_STATE 0 = 4 then s1
    else
      let s2 := s1.intake.dropWoken.parkAsked
      (if s2.gasping then s2 else s2.govern o).gateStages)

/-! ### Feed loss -/

/-- DETECTOR_ARM (R433): a configuration set is in force and every enabled pair has been above ENG_FEED_VMIN for 1 s. -/
def execDetectorArm (dt : Nat) (s : State) : Host.Outcome State Fault Refusal :=
  let s1 := s.elapse dt
  let on := (List.range 8).filter (s1.rdBit Reg.ENG_FEED_EN)
  let from_ := on.map (fun k => (s1.feed k).okSince)
  .next (if !s1.sys.configured || on.isEmpty || s1.rdBit Reg.ENG_ARMED 0 || from_.any (·.isNone) then s1
    else
      let due := (from_.map (fun t => t.getD 0 + Config.secondPos)).foldl max 0
      (s1.elapse (due - s1.time)).wrBit Reg.ENG_ARMED 0 true)

/-- Every enabled and aligned pair has been low for ENG_LOSS_WORDS words while the detector is armed (R433). -/
def State.feedsLost (s : State) : Bool :=
  s.rdBit Reg.ENG_ARMED 0 && s.goodPairs != [] &&
    s.goodPairs.all (fun k => max 1 (s.rd Reg.ENG_LOSS_WORDS 0) ≤ (s.feed k).lowRun)

/-- The positions from the stamp of the first low word, corrected for group delay, until now (R434): with several pairs,
from when the last of them went low. -/
def State.lossAge (s : State) : Rat :=
  let first := (s.goodPairs.map (fun k => (s.feed k).lowFrom)).foldl max 0
  max 0 ((s.addr : Rat) - first / 65536)

/-! ### Stages -/

/-- An uplink port is active. -/
def State.uplinkActive (s : State) : Bool := (List.range 24).any (fun k => s.laneOn (48 + k))

/-- The slowest Ralale link's frame, µs (R167): 135,168 bits at the link's rate. -/
def State.slowestFrame (s : State) : Rat :=
  let modes := ((List.range 48).filter (fun l => s.laneOn l)).map (fun l => s.rd Reg.PRT_LANE_MODE l)
  if modes.contains 9 then 135168 * 10000 / 103125000 else if modes.contains 0xA then 135168 * 10000 / 257812500 else 0

/-- The positions that stage 1 lasts at least (Table 13-4): 16 frames of the slowest link and, with an uplink port active, two PSI
multiframes of 256 frames of an HO ODU4. -/
def State.gaspPos (s : State) : Nat :=
  let us := max (16 * s.slowestFrame) (if s.uplinkActive then 2 * 256 * 122368 * 1000000 / 104794445815 else 0)
  (us * 3888 / 25).ceil.toNat

/-- Converters switched off in stage 4. -/
def State.lgOff (s : State) : List Nat := (List.range 8).filter (s.rdBit Reg.ENG_PMB_LG_OFF)

/-- The events and bins of a crash record (R436), and the bytes of its plaintext: the header, 32 for each event, 64 for each
of a point's two bins (log entry 37). -/
def State.crashPoints (s : State) : List Nat :=
  ((List.range s.eng.pointCount).map (fun i => tget 0 s.eng.points i)).filter (fun p => (tfind s.pm.points p).isSome)
def State.crashLength (s : State) : Nat := 64 + 32 * (s.io.evlog.take 256).length + 128 * s.crashPoints.length

/-- The bytes of the crash record's message (Table 11-7). -/
def State.crashBytes (s : State) : Nat := ceilTo 16 s.crashLength + 48

/-- A stage's price in mJ (Table 13-4). -/
def State.lgPrice (s : State) (stage : Nat) : Rat :=
  match stage with
  | 1 => (s.eng.declPower : Rat) * (if s.uplinkActive then 900 else 16 * s.slowestFrame) / 100000
  | 2 => 17
  | 3 => (13 / 2) * ((s.crashBytes : Rat) / 256 * s.rd Reg.ENG_NOR_PAGE_US 0) / 1000
  | _ => 6 * (200 + 150 * (s.lgOff.length : Rat)) / 1000

/-- The crash slot that stage 3 writes: the erased slot that was erased first (R436). -/
def State.freeSlot (s : State) : Option Nat :=
  leastBy (fun k => tget 0 s.eng.erasedAt k) ((List.range 2).filter (fun k => (tfind s.eng.slots k).isNone))

/-- The whole mJ of an energy as an event carries it; how it is rounded is free. -/
def State.mj (s : State) (q : Rat) : Nat := (s.wholeFree (max 0 q)).toNat

/-- A stage is entered (R435): its events, and what it does at once. -/
def State.enterStage (s : State) (stage : Nat) : State :=
  let s0 : State := { s with eng := { s.eng with
    ran := s.eng.ran ++ [stage], ledgers := s.eng.ledgers ++ [s.eng.ledger], stageAt := s.time } }
  let s1 := ((s0.wr Reg.ENG_LG_STAGE 0 stage).raise Ev.ENG_LAST_GASP srcDevice [(1, stage), (4, s0.mj s0.eng.ledger)]).draw
  match stage with
  | 1 => { s1 with rlk := { s1.rlk with sendGasp := true } }
  | 2 => s1.pmFreeze
  | 3 => s1
  | _ => { s1 with eng := { s1.eng with offs := s1.lgOff } }

/-- The next stage that its price allows is entered (R435, R436); stage 4 always is. -/
def State.nextStage (s : State) : List Nat → State
  | [] => s.enterStage 4
  | k :: rest =>
    let price := s.lgPrice k
    if s.eng.ledger < price + s.lgPrice 4 || (k = 3 && s.freeSlot.isNone) then
      let s1 : State := { s with eng := { s.eng with skipped := s.eng.skipped ++ [k], ledgers := s.eng.ledgers ++ [s.eng.ledger] } }
      ((s1.raise Ev.ENG_LG_SKIPPED srcDevice [(1, k), (4, s1.mj s1.eng.ledger), (4, s1.mj price)]).draw).nextStage rest
    else s.enterStage k

/-- Levers 1 to 4 are pulled at once (R434): each to its last step. -/
def State.pullGasp (s : State) : State :=
  let mean : Rat := s.eng.declPower
  let say (a b : State) (lever : Nat) (moved : Bool) : State := if moved then b.sayLever lever true mean else a
  let s1 := say s (s.wrBit Reg.BKG_THROTTLED 0 true) 1 (!s.rdBit Reg.BKG_THROTTLED 0)
  let s2 := say s1 { s1 with eng := { s1.eng with hewers := 96 } } 2 (s1.eng.hewers < 96)
  let idle := (List.range 24).filter (fun p => s2.unitIdle p && !s2.ovm.gated.contains p && !s2.ovm.waking.contains p)
  let s3 := say s2 (idle.foldl (fun a p =>
    ({ a with eng := { a.eng with pipes := p :: a.eng.pipes } } : State).loadStep (.gate p)) s2) 3 (!idle.isEmpty)
  let deep := if s3.hbmUsed then 1 else 2
  let s4 := say s3 (s3.loadStep (.hbm deep)) 4 (s3.rd Reg.ENG_HBM_STATE 0 < deep)
  s4.leverRegs false

/-- Loss is declared (R433, R434): `age` is how long it took to detect. -/
def State.declareLoss (s : State) (cause : Nat) (age : Rat) : State :=
  if s.gasping then s
  else if !s.rdBit Reg.ENG_LG_EN 0 then
    s.raise Ev.ENG_LAST_GASP srcDevice [(1, 0), (4, s.rd Reg.ENG_LEDGER_MJ 0)]
  else
    let p := s.rd Reg.ENG_DEV_POWER 0
    let ledger := (s.rd Reg.ENG_HOLDUP_MJ 0 : Rat) - energyMj p age
    let s1 : State := { s with
      eng := { s.eng with ledger := ledger, ledgerAt := s.time, declPower := p, declAt := s.addr, declCause := cause,
                          ledgers := [], ran := [], skipped := [] },
      sys := { s.sys with faultsHeld := s.sys.faultsHeld ++ [5] } }
    let s2 := ((s1.wr Reg.ENG_STATE 0 3).ledgerReg).selfFault 5
    let s3 := s2.admitSteps s2.eng.waiting
    s3.pullGasp.nextStage [1, 2, 3]

/-- FEED_LOSS (R433, R434): the loss that the words show is declared. -/
def execFeedLoss (dt : Nat) (s : State) : Host.Outcome State Fault Refusal :=
  let s1 := s.elapse dt
  .next (if s1.feedsLost then s1.declareLoss 0 s1.lossAge else s1)

/-- PSI byte 127 of an originated HO ODU4 (Table 13-4). -/
def State.psi127 (s : State) : Nat := if s.rlk.sendGasp then 0xD6 else 0

/-- The plaintext of a crash record (R436): its header, whose layout the spec leaves open, the events and the frozen bins. -/
def State.crashText (s : State) (bins : List (List Nat)) : List Nat :=
  let b := leBytes 64 (Config.freeCrypto s.freeCtr) ++ (s.io.evlog.take 256).flatMap (fun e => e.bytes 0) ++ bins.flatten
  b ++ List.replicate (ceilTo 16 b.length - b.length) 0

/-- The crash record is written into its slot (R374, R436): sealed under slot 3 with a nonce of its own, and so the first message of
its key, or not at all where slot 3 gives no key or the TRNG fails a test (R548). -/
def State.writeCrash (s : State) : State :=
  match s.freeSlot with
  | none => s
  | some k =>
    if !s.bulkKeyed || !s.rdBit Reg.SEC_TRNG_OK 0 then s
    else
      let text := s.crashText (s.crashPoints.flatMap (fun p =>
        [binRecord p 0 0 s.stamp (s.point p).cur15 true false, binRecord p 1 0 s.stamp (s.point p).cur24 true false]))
      let m : BulkMsg :=
        { typ := 2, prio := 0, length := text.length, iv := s.unitBit * 2 ^ 47, nonce := Config.freeRandom (s.freeCtr + 1) % 2 ^ 112,
          opening := false, early := false, pair := s.rd Reg.CIP_PAIR_ID 0, text := text, tag := 0 }
      let r : CrashRec :=
        { cause := s.eng.declCause, stamp := stampOf s.eng.declAt, ledgers := s.eng.ledgers, ran := s.eng.ran, skipped := s.eng.skipped,
          events := s.io.evlog.take 256, points := s.crashPoints,
          bins := s.crashPoints.flatMap (fun p => [(s.point p).cur15, (s.point p).cur24]), msg := s.sealBulk m }
      ({ s with eng := { s.eng with slots := tset s.eng.slots k r } } : State).draw.draw

/-- Every block is held in reset (Table 13-4, stage 4; R437). -/
def State.stopAll (s : State) : State :=
  let s0 := s.setTxIdle true
  let s1 : State := { s0 with shf := { s0.shf with startable := false } }
  ((((s1.wr Reg.ENG_STATE 0 4).wr Reg.SHF_STATE 0 0).wr Reg.RST_ACTIVE 0 0x1FFF).wr Reg.HIF_EN 0 0)

/-- LG_STAGE_END (R204, R435 to R437): the stage under way ends, and the next is priced. Stage 1 lasts until every link has sent
16 frames and every HO ODU4 two PSI multiframes. -/
def execLgStageEnd (dt : Nat) (s : State) : Host.Outcome State Fault Refusal :=
  let s0 := s.elapse dt
  let first := s0.rd Reg.ENG_STATE 0 == 3 && s0.rd Reg.ENG_LG_STAGE 0 == 1
  let s1 := if first then s0.elapse (s0.eng.stageAt + s0.gaspPos - s0.time) else s0
  .next (if s1.rd Reg.ENG_STATE 0 != 3 then s1
    else
      let s2 := s1.chargeLedger (s1.rd Reg.ENG_DEV_POWER 0)
      match s2.rd Reg.ENG_LG_STAGE 0 with
      | 1 => (s2.setTxIdle true).nextStage [2, 3]
      | 2 => s2.nextStage [3]
      | 3 => s2.writeCrash.nextStage []
      | _ => s2.stopAll)

/-! ### PMBus -/

/-- A converter fails (R439). -/
def State.pmbFault (s : State) (j status : Nat) : State :=
  (s.count Reg.ENG_PMB_FAULT_CNT 0).raise Ev.ENG_PMB_FAULT (srcConverter j) [(1, j), (2, status)]

/-- What a converter's answer brings (R439). -/
def State.takePoll (s : State) (r : PmbRead) : State :=
  if r.err = 1 then s.pmbFault r.conv 0xFFFF
  else if r.err != 0 then s.pmbFault r.conv (r.status % 65536)
  else
    let s1 := (((s.wr Reg.ENG_PMB_STATUS r.conv r.status).wr Reg.ENG_PMB_VIN r.conv r.vin).wr Reg.ENG_PMB_IOUT r.conv r.iout).wr
      Reg.ENG_PMB_POUT r.conv r.pout
    if r.status % 65536 / 4 != 0 then s1.pmbFault r.conv (r.status % 65536) else s1

/-- PMBUS_POLL (R439): every 100 ms each polled converter is read; one that gives no answer is a NACK. -/
def execPmbusPoll (dt : Nat) (l : List PmbRead) (s : State) : Host.Outcome State Fault Refusal :=
  let s1 := s.toBoundary dt (100 * Config.msPos)
  .next (if s1.rd Reg.ENG_STATE 0 = 4 then s1
    else ((List.range 8).filter (s1.rdBit Reg.ENG_PMB_EN)).foldl (fun a j =>
      a.takePoll ((l.find? (fun r => r.conv == j)).getD { conv := j, err := 1, status := 0, vin := 0, iout := 0, pout := 0 })) s1)

/-- PMB_ALERT (R439): PMB_ALERT_N falls; the converter that pulls it and its STATUS_WORD are as the bus gives them. -/
def execPmbAlert (dt conv status : Nat) (s : State) : Host.Outcome State Fault Refusal :=
  .next ((s.elapse dt).pmbFault (conv % 8) (status % 65536))

/-! ### Energy per bit -/

/-- The carried rate in b/s over both directions (R440). -/
def State.carriedRate (s : State) : Nat :=
  ((List.range 4).map (fun n => stageLoad (s.ovm.ctxs.filter (fun e => e.2.active)) (·.inSlice) n +
    stageLoad (s.ovm.ctxs.filter (fun e => e.2.active)) (·.egSlice) n)).sum

/-- ENG_EPB_UPDATE (R440): every second, in 0.01 pJ per bit. -/
def execEngEpbUpdate (dt : Nat) (s : State) : Host.Outcome State Fault Refusal :=
  let s1 := s.toBoundary dt Config.secondPos
  let rate := s1.carriedRate
  .next (if rate = 0 then s1.wr Reg.ENG_EPB 0 0xFFFF
    else
      let q := (((s1.rd Reg.ENG_DEV_POWER 0 : Rat) * 1000000000000 / rate) + 1 / 2).floor
      (s1.wr Reg.ENG_EPB 0 (if q < 65536 then q.toNat else (Config.freeRound s1.freeCtr % 65536).toNat)).draw)

/-! ### Commands -/

/-- ENG_LAST_GASP (R434, R437): loss is declared at once. -/
def execEngLastGasp (dt : Nat) (h : HostRef) (s : State) : Host.Outcome State Fault Refusal :=
  .next (s.command dt h 0 Op.ENG_LAST_GASP (fun a =>
    if a.gasping then a.refuse h Op.ENG_LAST_GASP 2
    else (a.declareLoss 1 0).done h Op.ENG_LAST_GASP))

/-- ENG_PMB_XFER (R439, Table 13-6). -/
def execEngPmbXfer (dt : Nat) (h : HostRef) (p : PmbXfer) (s : State) : Host.Outcome State Fault Refusal :=
  .next (s.command dt h 0 Op.ENG_PMB_XFER (fun a =>
    let conv := (List.range 8).find? (fun j => a.rd Reg.ENG_PMB_ADDR j == p.addr)
    if 127 < p.addr || 32 < p.wlen || 32 < p.rlen || (p.rlen != 0 && p.host % 64 != 0) then a.refuse h Op.ENG_PMB_XFER 1
    else if a.gasping then a.refuse h Op.ENG_PMB_XFER 2
    else if p.err != 0 then
      let a1 := match conv with
        | some j => a.pmbFault j (if p.err = 1 then 0xFFFF else a.rd Reg.ENG_PMB_STATUS j)
        | none => a
      a1.refuse h Op.ENG_PMB_XFER 3
    else
      let got := p.got.take p.rlen
      let a1 := if p.rlen = 0 then a else a.hostWrite p.host got
      a1.complete h Op.ENG_PMB_XFER 0 0 [(2, got.length)]))

/-- ENG_CRASH_READ (R436): allowed in a last gasp, as every read is (R437). -/
def execEngCrashRead (dt : Nat) (h : HostRef) (slot host : Nat) (s : State) : Host.Outcome State Fault Refusal :=
  .next (s.command dt h 0 Op.ENG_CRASH_READ (fun a =>
    if 1 < slot || host % 64 != 0 then a.refuse h Op.ENG_CRASH_READ 1
    else match tfind a.eng.slots slot with
      | none => a.refuse h Op.ENG_CRASH_READ 4
      | some r => (a.hostWrite host (bulkBytes r.msg)).done h Op.ENG_CRASH_READ))

/-- ENG_CRASH_RELEASE (R436): the slot is erased. -/
def execEngCrashRelease (dt : Nat) (h : HostRef) (slot : Nat) (s : State) : Host.Outcome State Fault Refusal :=
  .next (s.command dt h 0 Op.ENG_CRASH_RELEASE (fun a =>
    if 1 < slot then a.refuse h Op.ENG_CRASH_RELEASE 1
    else if a.gasping then a.refuse h Op.ENG_CRASH_RELEASE 2
    else
      let fresh := (tfind a.eng.slots slot).isSome
      let e := { a.eng with slots := tdel a.eng.slots slot, erases := a.eng.erases + 1,
                            erasedAt := if fresh then tset a.eng.erasedAt slot (a.eng.erases + 1) else a.eng.erasedAt }
      ({ a with eng := e } : State).done h Op.ENG_CRASH_RELEASE))

/-- ENG_CRASH_POINTS (R436): `count` points in all, those of this command from entry `first` on. -/
def execEngCrashPoints (dt : Nat) (h : HostRef) (count first : Nat) (points : List Nat) (s : State) :
    Host.Outcome State Fault Refusal :=
  .next (s.command dt h 0 Op.ENG_CRASH_POINTS (fun a =>
    if 256 < count || 255 < first then a.refuse h Op.ENG_CRASH_POINTS 1
    else if a.gasping then a.refuse h Op.ENG_CRASH_POINTS 2
    else
      let l := ((points.take 12).take (count - first)).zipIdx
      let e := { a.eng with pointCount := count, points := l.foldl (fun t q => tset t (first + q.2) q.1) a.eng.points }
      ({ a with eng := e } : State).done h Op.ENG_CRASH_POINTS))

end Sys2Proof.Machine
end

