-- ==== Sys2Proof/Machine/HostIf.lean ====
section
/-! DEFINITION. The host interface (R443 to R474): the doorbell page, descriptors, held events, data queues, vectors
and its own commands. Events and completions as such stand in Ops; the resets of its domain in Resets. -/

namespace Sys2Proof.Machine

/-- The reset domain of the host interface (Table 16-6). -/
def domHif : Nat := 2

/-- How far index `b` is ahead of `a`, as free-running 32-bit counts. -/
def ahead (a b : Nat) : Nat := (b % 2 ^ 32 + 2 ^ 32 - a % 2 ^ 32) % 2 ^ 32

/-! ### The PCIe function -/

/-- The configuration space's fixed items (R443, Table 14-1); the subsystem IDs are HIF_SUBSYS. -/
structure PciId where
  vendor    : Nat := 0x1F2C
  device    : Nat := 0x9640
  revision  : Nat := 0xB0
  classCode : Nat := 0x028000
  subVendor : Nat
  subsystem : Nat
  bar0Size  : Nat := 16 * 2 ^ 20
  interruptPin : Nat := 0
  vectors   : Nat := 32
  msixTable : Nat := 0x00708000
  msixPba   : Nat := 0x00709000
  maxPayload : Nat := 512
  serial    : Nat
  deriving DecidableEq, Repr
def State.pciId (s : State) : PciId :=
  { subVendor := s.rd Reg.HIF_SUBSYS 0 % 65536, subsystem := s.rd Reg.HIF_SUBSYS 0 / 65536, serial := s.serial }

/-! ### Indices -/

/-- A host index is rejected (R448): kept, counted, and reported at most once in a second for its ring. -/
def State.indexBad (s : State) (kind n value kept : Nat) : State :=
  (s.count Reg.HIF_INDEX_BAD_CNT 0).raiseOnce Ev.HIF_INDEX_BAD (kind * 8192 + n) (srcRing kind n)
    (fun _ => [(2, kind * 8192 + n), (4, value), (4, kept)])

/-- A CMD ring's producer index is read (R448). -/
def State.takeProd (s : State) (n value : Nat) : State :=
  if !s.rdBit Reg.HIF_CMD_EN n then s
  else
    let cons := s.rd Reg.HIF_CMD_CONS n
    let old := s.rd Reg.HIF_CMD_PROD n
    if ahead cons value ≤ 2 ^ s.rd Reg.HIF_CMD_SIZE n && ahead cons old ≤ ahead cons value then s.wr Reg.HIF_CMD_PROD n value
    else s.indexBad 0 n value old

/-- A CPL ring's consumer index is read (R448). -/
def State.takeCplCons (s : State) (n value : Nat) : State :=
  if !s.rdBit Reg.HIF_CPL_EN n then s
  else
    let old := s.io.rd Reg.HIF_CPL_CONS n
    let prod := s.io.rd Reg.HIF_CPL_PROD n
    if ahead old value ≤ ahead old prod then { s with io := s.io.wr Reg.HIF_CPL_CONS n value } else s.indexBad 1 n value old

/-- An event queue in overflow resumes once a quarter of it is free (R466). -/
def State.resumeEvq (s : State) (q : Nat) : State :=
  let e := tget {} s.io.evq q
  if e.inOver && s.evqOpen q && s.evqSize q / 4 ≤ s.evqFree s.io q then
    let r := s.overflowRec q e.drops e.dropFirst e.dropLast
    let io : IoSt := { s.io with evq := tset s.io.evq q { e with inOver := false, drops := 0 } }
    let io1 := s.evqPut io q r
    { s with io := if q = 0 then io1 else s.evqSend io1 0 r }
  else s

/-- An event queue's consumer index is read (R448, R466). -/
def State.takeEvqCons (s : State) (n value : Nat) : State :=
  if !s.rdBit Reg.HIF_EVQ_EN n then s
  else
    let old := s.io.rd Reg.HIF_EVQ_CONS n
    let prod := s.io.rd Reg.HIF_EVQ_PROD n
    if ahead old value ≤ ahead old prod then ({ s with io := s.io.wr Reg.HIF_EVQ_CONS n value } : State).resumeEvq n
    else s.indexBad 2 n value old

/-- An event of a data queue goes to the event queue that its binding names (R470). -/
def State.raiseOn (s : State) (q code src : Nat) (det : List (Nat × Nat)) (sev : Nat) (caused : Bool) : State :=
  { s with io := s.ioRaise { s.evRec code src det false caused with sev := sev } q }

/-- HIF_DQ_READY (R470): a data queue to the host holds its threshold of words, and no event for it is outstanding. -/
def State.judgeReady (s : State) (d : Nat) : State :=
  match tfind s.qmg.dqs d with
  | none => s
  | some x =>
    let n := ahead x.host x.dev
    if x.toHost && x.evq < 32 && !x.ready && max 1 x.thr ≤ n then
      (s.setDq d { x with ready := true }).raiseOn x.evq Ev.HIF_DQ_READY (srcRing 3 d) [(2, d), (4, n)] (s.severity Ev.HIF_DQ_READY) false
    else s

/-- A data queue's host index is read (R447, R448, R470). -/
def State.takeDq (s : State) (d value : Nat) : State :=
  match tfind s.qmg.dqs d with
  | none => s
  | some x =>
    if value % 2 ^ 32 = x.host then s
    else
      let good := if x.toHost then ahead x.host value ≤ ahead x.host x.dev
        else ahead x.dev value ≤ 2 ^ x.size && ahead x.dev x.host ≤ ahead x.dev value
      if good then (s.setDq d { x with host := value % 2 ^ 32, ready := false }).judgeReady d else s.indexBad 3 d value x.host

/-- A read of the page or of a line fails (R449). -/
def State.dbError (s : State) (page : Bool) (status : Nat) : State :=
  (s.count Reg.HIF_DB_READ_ERR_CNT 0).raiseOnce Ev.HIF_DB_ERROR 0 srcDevice (fun _ => [(1, ofBool page), (1, status)])

/-- The `n` indices that begin at an offset, each a 32-bit little-endian word, `step` bytes apart (R446, R468). -/
def indices (b : List Nat) (at_ n step : Nat) : List Nat := (List.range n).map (fun i => leNum (cut b (at_ + step * i) 4))

/-- A line of the data-queue index table (R447, R468): the indices of data queues 8j to 8j + 7. -/
def State.takeLine (s : State) (l : DbLine) : State :=
  if !l.ok then s.dbError false l.status
  else (indices l.bytes 0 8 8).zipIdx.foldl (fun a e => a.takeDq (8 * l.line + e.2) e.1) s

/-- The page's bitmap says that a line has changed (Table 14-2). -/
def lineSet (b : List Nat) (j : Nat) : Bool := bitOf (b.getD (0x100 + j / 8) 0) (j % 8)

/-! ### Fetching -/

/-- Slots of a CPL ring that no record, no held completion and no outstanding command needs (R462). -/
def State.cplFree (s : State) (q : Nat) : Nat :=
  let used := ahead (s.io.rd Reg.HIF_CPL_CONS q) (s.io.rd Reg.HIF_CPL_PROD q)
  let owed := (s.io.delivered.filter (fun d => !d.dead && s.rd Reg.HIF_CMD_CPL d.ring == q)).length +
    (s.io.heldCpl.filter (fun c => s.rd Reg.HIF_CMD_CPL c.ring == q)).length +
    ((s.io.fetch.filter (fun f => s.rd Reg.HIF_CMD_CPL f.1 == q)).map (·.2)).sum
  2 ^ s.rd Reg.HIF_CPL_SIZE q - used - owed

/-- What is fetched from a CMD ring at this doorbell read (R456, R462, R463). -/
def State.planRing (s : State) (n : Nat) : State :=
  let q := s.rd Reg.HIF_CMD_CPL n
  if !s.rdBit Reg.HIF_CMD_EN n || !s.rdBit Reg.HIF_CPL_EN q then s
  else
    let avail := ahead (s.rd Reg.HIF_CMD_CONS n) (s.rd Reg.HIF_CMD_PROD n)
    let want := min avail (max 1 (s.rd Reg.HIF_CMD_BUDGET n))
    let k := min want (s.cplFree q)
    let s1 := s.wrBit Reg.HIF_CMD_STALLED n (k < want)
    if k = 0 then s1 else { s1 with io := { s1.io with fetch := s1.io.fetch ++ [(n, k)] } }

/-- The next doorbell read's address (R48, R447): at the position in force, once in a cycle. -/
def State.nextDoorbell (s : State) : Nat :=
  let here := s.cycle * Config.cyclePos + s.doorbellPos
  if s.addr ≤ here && s.shf.lastRead != some s.cycle then here
  else
    let v := s.rd Reg.SHF_DOORBELL_POS 0
    (s.cycle + 1) * Config.cyclePos + (if v < Config.cyclePos then v else 0)

/-- DOORBELL_READ (R446 to R449, R456, R462, R466, R470): the page's indices and the changed lines are taken, and fetching
starts. Nothing is read while the shaft is HALTED (R50), under R444, or before HIF_EN acts. -/
def execDoorbellRead (dt : Nat) (page : DbPage) (s : State) : Host.Outcome State Fault Refusal :=
  let s0 := s.elapse dt
  let s1 := s0.waitAddr s0.nextDoorbell
  .next (if s1.halted || s1.rd Reg.HIF_EN 0 = 0 || s1.cycle < s1.io.enCycle || !s1.mayUseHost || s1.addr < s1.io.resumeAt ||
      s1.inReset domHif then s1
    else
      let s2 : State := { s1 with shf := { s1.shf with lastRead := some s1.cycle }, io := { s1.io with fetch := [] },
                                  sec := { s1.sec with measRead := some s1.sec.meas } }
      let s3 := if !page.ok then s2.dbError true page.status
        else
          let a := (indices page.bytes 0 16 4).zipIdx.foldl (fun a e => a.takeProd e.2 e.1) s2
          let b := (indices page.bytes 0x40 16 4).zipIdx.foldl (fun a e => a.takeCplCons e.2 e.1) a
          let c := (indices page.bytes 0x80 32 4).zipIdx.foldl (fun a e => a.takeEvqCons e.2 e.1) b
          (page.lines.filter (fun l => lineSet page.bytes l.line)).foldl State.takeLine c
      (List.range 16).foldl State.planRing s3)

/-! ### Descriptors -/

/-- A command descriptor's head (Table 14-16), and whether its CRC-32C passed. -/
structure DescIn where
  opcode : Nat
  flags  : Nat
  alive  : Nat
  tag    : Nat
  crcOk  : Bool
  deriving DecidableEq, Repr

/-- The 64 bytes of a descriptor read (R450, R454, Table 14-16). -/
def readDesc (b : List Nat) : DescIn :=
  { opcode := leNum (b.take 2), flags := b.getD 2 0, alive := b.getD 3 0, tag := leNum (cut b 4 4),
    crcOk := crc32c (b.take 60) == leNum (cut b 60 4) }

/-- The 64 bytes of a descriptor as the host writes it (Table 14-16). -/
def descBytes (opcode flags alive tag : Nat) (params : List Nat) : List Nat :=
  let b := leBytes 2 opcode ++ [flags, alive] ++ leBytes 4 tag ++ (params ++ List.replicate 52 0).take 52
  b ++ leBytes 4 (crc32c b)

/-- In boot mode only the host interface, the security block and start-up take commands (R572). -/
def bootOpcode (op : Nat) : Bool := [0x0C, 0x10, 0x11].contains (op / 256)

/-- The reason of Table 14-3 against a descriptor from check 2 on, 0 for none. -/
def descReason (d : DescIn) (alive : Nat) (crcBad : Bool) : Nat :=
  if d.alive != alive then 2
  else if !d.crcOk || crcBad then 3
  else if !Op.all.contains d.opcode then 4
  else if 4 ≤ d.flags % 256 then 5
  else 0

/-- A descriptor leaves its ring. -/
def State.consume (s : State) (n : Nat) (d : DescIn) : State :=
  let e : Delivered := { ring := n, tag := d.tag, opcode := d.opcode, noCpl := bitOf d.flags 0,
                         gens := (List.range 13).map (fun k => s.rd Reg.RST_GEN k) }
  let io : IoSt := { s.io with delivered := s.io.delivered ++ [e], stale := tdel s.io.stale n }
  let s1 : State := { s with io := io.lap Reg.HIF_CMD_CONS n (s.rd Reg.HIF_CMD_CONS n) }
  ((s1.wr Reg.HIF_CMD_CONS n (s1.rd Reg.HIF_CMD_CONS n + 1)).wrBit Reg.HIF_CMD_NOT_READY n false).wrBit Reg.HIF_CMD_FENCED n false

/-- A descriptor is rejected (R457). -/
def State.rejectDesc (s : State) (n : Nat) (d : DescIn) (reason : Nat) : State :=
  let slot := s.rd Reg.HIF_CMD_CONS n % 2 ^ s.rd Reg.HIF_CMD_SIZE n
  let s1 := ((s.consume n d).count Reg.HIF_DESC_BAD_CNT 0).raiseOnce Ev.HIF_DESC_BAD n (srcRing 0 n)
    (fun k => [(2, n), (2, slot), (1, reason), (4, k)])
  s1.reject { ring := n, tag := d.tag } d.opcode reason

/-- The descriptors fetched from a ring, in ring order, until one stops it (R452, R453, R456 to R458). A FENCE that waits is
fetched again at the next doorbell read (log entry 39). -/
def State.takeDescs (s : State) (n : Nat) : List DescIn → State
  | [] => s
  | d :: rest =>
    let idx := s.rd Reg.HIF_CMD_CONS n
    let size := 2 ^ s.rd Reg.HIF_CMD_SIZE n
    let full := s.io.full Reg.HIF_CMD_CONS n idx
    let prev := if full < size then 0 else aliveOf (full - size) size
    if d.alive % 256 = prev then
      let met := (match tfind s.io.stale n with | some e => if e.1 = idx then e.2 else 0 | none => 0) + 1
      if met < max 1 (s.rd Reg.HIF_STALE_LIMIT 0) then
        ({ s with io := { s.io with stale := tset s.io.stale n (idx, met) } } : State).wrBit Reg.HIF_CMD_NOT_READY n true
      else State.takeDescs (s.rejectDesc n d 1) n rest
    else
      let sound := descReason d (aliveOf full size) false = 0
      let p := if sound then s.alterCheck 8 else (s, false)
      match descReason d (aliveOf full size) p.2 with
      | 0 =>
        if bitOf d.flags 1 && p.1.io.delivered.any (fun e => e.ring == n) then
          (p.1.wrBit Reg.HIF_CMD_NOT_READY n false).wrBit Reg.HIF_CMD_FENCED n true
        else if p.1.sys.bootMode && !bootOpcode d.opcode then
          State.takeDescs ((p.1.consume n d).reject { ring := n, tag := d.tag } d.opcode 6) n rest
        else State.takeDescs ((p.1.consume n d).count Reg.HIF_CMD_CNT 0) n rest
      | r => State.takeDescs (p.1.rejectDesc n d r) n rest

/-- DESCRIPTOR_FETCH (R450 to R459, R572): what was fetched returns, ring by ring; accepted descriptors wait for their
blocks as delivered. -/
def execDescriptorFetch (dt : Nat) (l : List (Nat × List (List Nat))) (s : State) : Host.Outcome State Fault Refusal :=
  let s1 := s.elapse dt
  let plan := s1.io.fetch
  let s2 : State := { s1 with io := { s1.io with fetch := [] } }
  let got (n : Nat) : List DescIn := ((l.find? (fun e => e.1 == n)).map (fun e => e.2.map readDesc)).getD []
  .next (plan.foldl (fun a f => if a.rdBit Reg.HIF_CMD_EN f.1 then a.takeDescs f.1 ((got f.1).take f.2) else a) s2)

/-! ### Held events and completions -/

/-- The events held for a queue are written, in order, and what was dropped is reported (R467). -/
def State.releaseEvq (s : State) (q : Nat) : State :=
  let e := tget {} s.io.evq q
  if !s.evqOpen q || (e.held.isEmpty && e.lost = 0) then s
  else
    let io : IoSt := { s.io with evq := tset s.io.evq q { e with held := [], lost := 0 } }
    let s1 := e.held.foldl (fun (a : State) r => { a with io := a.evqSend a.io q r }) ({ s with io := io } : State)
    if e.lost = 0 then s1
    else
      let r := s1.overflowRec q e.lost e.lostFirst e.lostLast
      let s2 : State := { s1 with io := s1.evqSend s1.io q r }
      if q = 0 then s2 else { s2 with io := s2.evqSend s2.io 0 r }

/-- HELD_EVENT_RELEASE (R444, R467): at the cycle boundary from which the device may write again, the held completions
are written in slot order, then each queue's held events. -/
def execHeldEventRelease (dt : Nat) (s : State) : Host.Outcome State Fault Refusal :=
  let s1 := s.toBoundary dt Config.cyclePos
  .next (if !s1.mayUseHost || s1.addr < s1.io.resumeAt then s1
    else
      let l := s1.io.heldCpl
      let s2 := l.foldl (fun (a : State) c => { a with io := a.cplPut a.io c }) ({ s1 with io := { s1.io with heldCpl := [] } } : State)
      (List.range 32).foldl State.releaseEvq s2)

/-! ### Data queues -/

/-- A data queue's write-back record (Table 14-11). -/
def State.dqRecord (s : State) (d : Nat) (x : DqSt) : List Nat :=
  let b := leBytes 2 d ++ [ofBool (!x.toHost) + 2 * ofBool x.reset, x.records % 255 + 1] ++ leBytes 4 x.dev ++ leBytes 8 s.stamp ++
    leBytes 4 x.words ++ leBytes 4 (if x.toHost then Nat.xor x.crc 0xFFFFFFFF else 0) ++ [0, 0, 0, 0]
  b ++ leBytes 4 (crc32c b)

/-- DQ_WRITEBACK (R444, R469, R470): at a cycle boundary the record of a data queue whose device index moved, or whose queue
was reset, is written. -/
def execDqWriteback (dt d : Nat) (s : State) : Host.Outcome State Fault Refusal :=
  let s1 := s.toBoundary dt Config.cyclePos
  .next (match tfind s1.qmg.dqs d with
    | none => s1
    | some x =>
      if (x.words = 0 && !x.reset) || !s1.mayUseHost || s1.addr < s1.io.resumeAt then s1
      else
        let base := s1.rd Reg.HIF_DQ_WB_ADDR_LO 0 + 2 ^ 32 * s1.rd Reg.HIF_DQ_WB_ADDR_HI 0
        let s2 := s1.hostWrite (base + 32 * d) (s1.dqRecord d x)
        (s2.setDq d { x with words := 0, crc := 0xFFFFFFFF, reset := false, records := x.records + 1 }).judgeReady d)

/-! ### Vectors -/

/-- VECTOR_TIMER (R471): HIF_VEC_TIMER whole cycles after the first record counted, or with 0 at the cycle boundary after it. -/
def execVectorTimer (dt v : Nat) (s : State) : Host.Outcome State Fault Refusal :=
  let s1 := s.elapse dt
  let w := tget {} s1.io.vecs v
  .next (if w.count = 0 then s1
    else
      let n := s1.rd Reg.HIF_VEC_TIMER v
      let s2 := if n = 0 then s1.waitAddr (nextCycle (s1.addr - (s1.time - w.since))) else s1.elapse (w.since + n * Config.cyclePos - s1.time)
      { s2 with io := s2.io.sendMsg v })

/-- PCIE_POWER_STATE (R444): D3hot or Bus Master Enable changes. -/
def execPciePowerState (dt : Nat) (d3hot busMaster : Bool) (s : State) : Host.Outcome State Fault Refusal :=
  let s1 := s.elapse dt
  let s2 : State := { s1 with io := { s1.io with d3hot := d3hot, busMaster := busMaster } }
  .next (if !s1.mayUseHost && s2.mayUseHost then
      { s2 with io := { s2.io with resumeAt := if s2.halted then s2.addr else ceilTo Config.cyclePos s2.addr } }
    else s2)

/-! ### Commands -/

/-- HIF_NOP (Table 14-14). -/
def execHifNop (dt : Nat) (h : HostRef) (value : Nat) (s : State) : Host.Outcome State Fault Refusal :=
  .next (s.command dt h domHif Op.HIF_NOP (fun a => a.complete h Op.HIF_NOP 0 0 [(8, value)]))

/-- HIF_DQ_BIND (R468, Table 14-14): a hardware queue whose side is free becomes data queue D. -/
def execHifDqBind (dt : Nat) (h : HostRef) (p : DqBind) (s : State) : Host.Outcome State Fault Refusal :=
  .next (s.command dt h domHif Op.HIF_DQ_BIND (fun a =>
    if 8191 < p.d || 1 < p.dir || p.size < 6 || 16 < p.size || p.base % 4096 != 0 || (31 < p.evq && p.evq != 0xFF) then
      a.reject h Op.HIF_DQ_BIND 9
    else match a.queue p.q with
      | none => a.reject h Op.HIF_DQ_BIND 9
      | some x =>
        let toHost := p.dir == 0
        if (tfind a.qmg.dqs p.d).isSome then a.reject h Op.HIF_DQ_BIND 0xA
        else if (a.boundTo p.q).isSome || (if toHost then x.reader else x.writer) != 0 then a.reject h Op.HIF_DQ_BIND 0xB
        else
          let d : DqSt := { q := p.q, toHost := toHost, size := p.size, base := p.base, evq := p.evq, thr := p.thr }
          ((a.setQueue p.q (if toHost then { x with reader := 7 } else { x with writer := 7 })).setDq p.d d).done h Op.HIF_DQ_BIND))

/-- A data queue is unbound: the words not yet consumed stay in its hardware queue, whose side is free again. -/
def State.unbind (s : State) (d : Nat) : State :=
  match tfind s.qmg.dqs d with
  | none => s
  | some x =>
    let s1 : State := { s with qmg := { s.qmg with dqs := tdel s.qmg.dqs d } }
    match s1.queue x.q with
    | none => s1
    | some y => s1.setQueue x.q (if x.toHost then { y with reader := 0 } else { y with writer := 0 })

/-- HIF_DQ_UNBIND (Table 14-14): at the next cycle boundary; a second one due at that boundary completes there too. -/
def execHifDqUnbind (dt : Nat) (h : HostRef) (d : Nat) (s : State) : Host.Outcome State Fault Refusal :=
  .next (s.command dt h domHif Op.HIF_DQ_UNBIND (fun a =>
    if a.io.unbound = some (d, a.addr) then a.done h Op.HIF_DQ_UNBIND
    else if (tfind a.qmg.dqs d).isNone then a.reject h Op.HIF_DQ_UNBIND 0xC
    else
      let b := (a.waitAddr (nextCycle a.addr)).unbind d
      ({ b with io := { b.io with unbound := some (d, b.addr) } } : State).done h Op.HIF_DQ_UNBIND))

/-- HIF_SEV_SET (R465): whole or not at all. -/
def execHifSevSet (dt : Nat) (h : HostRef) (first count : Nat) (levels : List Nat) (s : State) : Host.Outcome State Fault Refusal :=
  .next (s.command dt h domHif Op.HIF_SEV_SET (fun a =>
    let l := ((levels.take count).zipIdx.map (fun e => (first + e.2, e.1 % 16))).filter (fun e =>
      Ev.all.contains e.1 && !fixedCritical.contains e.1)
    if count = 0 || 96 < count || l.any (fun e => 3 < e.2) then a.reject h Op.HIF_SEV_SET 9
    else ({ a with io := { a.io with sev := l.foldl (fun t e => tset t e.1 e.2) a.io.sev } } : State).done h Op.HIF_SEV_SET))

/-- HIF_EVQ_TEST (Table 14-14): HIF_TEST on the queue named, at the severity asked for, then the completion. -/
def execHifEvqTest (dt : Nat) (h : HostRef) (evq sev : Nat) (s : State) : Host.Outcome State Fault Refusal :=
  .next (s.command dt h domHif Op.HIF_EVQ_TEST (fun a =>
    if 31 < evq || 3 < sev then a.reject h Op.HIF_EVQ_TEST 9
    else (a.raiseOn evq Ev.HIF_TEST srcDevice [(1, sev)] sev true).done h Op.HIF_EVQ_TEST))

end Sys2Proof.Machine
end

