-- ==== Sys2Proof/Machine/Resets.lean ====
section
/-! DEFINITION. Resets (R445, R526, R527, R569, R577 to R583): what each domain's entry and release do, the chip reset, and
the commands that ask for them. -/

namespace Sys2Proof.Machine

/-- The reset domain of the pair block (Table 16-6). -/
def domPair : Nat := 11

/-! ### Fields by domain -/

/-- The fields of the pipelines and derivation units: the key store and what NOR holds stand beside them (Table 19-4). -/
def pipeFields : List Fld :=
  [Reg.CIP_DERIVE_BUSY, Reg.CIP_PIPE_BULK, Reg.CIP_AUTH_FAIL_CNT, Reg.CIP_BULK_AUTH_FAIL_CNT, Reg.CIP_SUSPEND_CNT,
   Reg.CIP_SUSPEND_FULL_CNT, Reg.CIP_DERIVE_CNT]

/-- The domain whose reset returns a field's copy `i` to its reset value (R578, Table 19-4); 0 for the chip's alone (log
entry 40). -/
def Fld.domain (f : Fld) (i : Nat) : Nat :=
  match f.base / 0x80000 with
  | 2 => 1
  | 3 => 1
  | 4 => 12
  | 5 => if 0x00283000 ≤ f.base then 3 + i / 8 else if f.stride = 0 then 0 else laneDomain i
  | 6 => if f.stride = 0 then 0 else 3 + i / 12
  | 7 => if f.stride = 0 then 0 else laneDomain i
  | 8 => if f = Reg.MAP_GRAINS_USED then 7 else if f.base ≤ 0x00400004 then 8 else 0
  | 11 => if pipeFields.contains f then 10 else 0
  | 12 => if f.base ≤ 0x00600000 then 0 else 11
  | 14 => if [Reg.HIF_LINK_UP, Reg.HIF_LINK_SPEED, Reg.HIF_LINK_WIDTH].contains f then 0 else 2
  | 15 => 9
  | _ => 0

/-- A field's copy returns to its reset value, and its shadow with it (R512). -/
def State.clearField (s : State) (f : Fld) (i : Nat) : State :=
  if f.inIo then { s with io := { s.io with cnt := tdel s.io.cnt (f.key i) } }
  else { s with regs := { s.regs with vals := tdel s.regs.vals (f.key i), shadow := tdel s.regs.shadow (f.key i) } }

/-- The STS and CNT fields of a domain's units return to their reset values (R578). -/
def State.clearDomain (s : State) (d : Nat) : State :=
  (((List.range 20).map Reg.ofBlock).flatten.filter (fun f => f.kind == .sts || f.kind == .cnt)).foldl (fun a f =>
    (List.range f.count).foldl (fun b i => if f.domain i = d then b.clearField f i else b) a) s

/-! ### Work and contexts on a unit in reset -/

/-- Moves toward a unit in reset are abandoned, with the standby pages that held them; the commands held for their contexts
are released (R583). -/
def State.abandonMoves (s : State) : State :=
  let l := (s.ovm.moves ++ s.ovm.moveWaits).filter (fun m => s.moveInReset m)
  if l.isEmpty then s
  else
    let s1 : State := match s.ovm.arm with
      | some a => if a.armed then s else { s with ovm := { s.ovm with arm := none } }
      | none => s
    l.foldl (fun a m => (a.endMove m.ctx).releaseHeld m.ctx) s1

/-- Contexts carry failure fill; those of `wait` until the next swap. -/
def State.failWhere (s : State) (p : Ctx → Bool) (wait : Bool) : State :=
  { s with ovm := { s.ovm with ctxs := s.ovm.ctxs.map (fun e =>
    if e.2.active && p e.2 then (e.1, { e.2 with fail := true, redo := e.2.redo || wait }) else e) } }

/-- A framer starts over with its settings (R243). -/
def FrmUnit.restart (u : FrmUnit) : FrmUnit :=
  { cfg := u.cfg, cfgNext := u.cfgNext, forced := u.forced, forcedNext := u.forcedNext, oofSince := none }

/-- A lane's receivers start over without an event. -/
def State.wipeLane (s : State) (l : Nat) : State :=
  let s1 := if (tfind s.frm.units (srcLane l)).isSome then s.setFramer (srcLane l) (s.framer (srcLane l)).restart else s
  if l < 48 then s1.setRlkLane l { outSince := some s1.time } else s1

/-! ### What each domain's reset does (Table 19-4) -/

/-- SHAFT: the timing block, the shaft, both banks and the time of day. The doorbell position written stays (CTL). -/
def State.resetShaft (s : State) : State :=
  let pos := s.rd Reg.SHF_DOORBELL_POS 0
  let shf : ShfSt := { dbOld := pos, gates := s.shf.gates }
  { s with shf := shf, tim := {}, dco := 0, ovm := { s.ovm with arm := none },
           pm := { s.pm with nextTod := 1, points := s.pm.points.map (fun e => (e.1, e.2.todMoves)) },
           par := { s.par with listened := false, listenFrom := s.time, placing := none } }

/-- HIF (R445): every ring disabled, indices, fetch state, moderation and the MSI-X table reset, data queues unbound,
completions discarded and counted; events held stay held. -/
def State.resetHif (s : State) : State :=
  let s1 := (s.qmg.dqs.map (·.1)).foldl State.unbind s
  let s2 := s1.io.heldCpl.foldl (fun (a : State) c =>
    { a with io := a.io.countBy Reg.HIF_CPL_DROP_CNT (a.rd Reg.HIF_CMD_CPL c.ring) 1 }) s1
  let s3 := (s2.io.delivered.filter (fun d => !d.dead)).foldl (fun (a : State) d =>
    { a with io := a.io.countBy Reg.HIF_CPL_DROP_CNT (a.rd Reg.HIF_CMD_CPL d.ring) 1 }) s2
  let io : IoSt := { s3.io with
    evq := s3.io.evq.map (fun e => (e.1, { e.2 with inOver := false, drops := 0 })), heldCpl := [], vecs := [], msix := [],
    delivered := s3.io.delivered.map (fun d => { d with dead := true }), fetch := [], stale := [], unbound := none }
  let s4 : State := { s3 with io := io }
  let s5 := (List.range 16).foldl (fun a n => (a.wr Reg.HIF_CMD_EN n 0).wr Reg.HIF_CPL_EN n 0) s4
  ((List.range 32).foldl (fun a n => a.wr Reg.HIF_EVQ_EN n 0) s5).wr Reg.HIF_EN 0 0

/-- SLICE k: line and container stages, lanes and gate stores; contexts that use the slice carry failure fill. -/
def State.resetSlice (s : State) (k : Nat) : State :=
  let uses (x : Ctx) : Bool := x.place.lineSlice == k || (x.stage && (x.place.inSlice == k || x.place.egSlice == k))
  let s1 := s.failWhere uses false
  let s2 := ((List.range 72).filter (fun l => laneSlice l == k)).foldl State.wipeLane s1
  let s3 := ((List.range 32).filter (fun n => n / 8 == k)).foldl (fun a n => a.setTrb n { outSince := some a.time }) s2
  let s4 := (s3.ovm.ctxs.filter (fun e => uses e.2)).foldl (fun a e =>
    if (tfind a.frm.units (a.frmKey e.1)).isSome then a.setFramer (a.frmKey e.1) (a.framer (a.frmKey e.1)).restart else a) s3
  { s4 with shf := { s4.shf with gates := s4.shf.gates.filter (fun e => match s4.ctx? e.1 with
      | some x => x.place.lineSlice != k
      | none => true) } }

/-- GRAIN: both grain maps; ODUs that cross the fabric carry failure fill until the next swap. -/
def State.resetGrain (s : State) : State :=
  ({ s with map := { s.map with grains0 := [], grains1 := [] } } : State).failWhere (fun x => x.place.grain != 0xFFFF) true

/-- TSI: both pages; low-order contexts carry failure fill until the next swap. -/
def State.resetTsi (s : State) : State :=
  ({ s with map := { s.map with tsi0 := [], tsi1 := [] } } : State).failWhere (fun x => x.crosses) true

/-- QMG: every queue is reset as R496 states. -/
def State.resetQmg (s : State) : State :=
  s.qmg.qs.foldl (fun a e => (a.resetQueue e.1).raise Ev.Q_PTR_RESET (srcQueue e.1) [(1, 3), (4, e.2.wp), (4, gray e.2.wp)]) s

/-- CIPHER: pipelines and derivation units; blocks in flight end in failure fill, receiving directions enter SEEKING. -/
def State.resetCipher (s : State) : State :=
  { s with cip := { s.cip with
    requests := [], pipes := [],
    ctxs := s.cip.ctxs.map (fun e => (e.1, { e.2 with
      tx := { e.2.tx with inHalf := none },
      rx := { e.2.rx with running := false, pending := false, inHalf := none } })) } }

/-- PAIR: the mate link and the tally; the pair block returns to SEEKING. -/
def State.resetPair (s : State) : State :=
  let s1 := match s.par.takeHost with
    | some h => s.reject h Op.PAR_TAKE 7
    | none => s
  let s2 := (List.range 8).foldl (fun a n => a.wipeLane (72 + n)) s1
  (({ s2 with par := { listened := s2.par.listened, listenFrom := s2.par.listenFrom, nonce := s2.par.nonce } } : State).wr
    Reg.PAR_STATE 0 (if s2.paired then parSeeking else 0)).ovmFollow

/-- FLT: all channels; the commands that wait for a channel end ABORTED. -/
def State.resetFlt (s : State) : State :=
  let s1 := s.flt.chans.foldl (fun (a : State) e =>
    let b := (e.2.swapTo ++ e.2.defer.toList).foldl (fun (x : State) w => x.reject w.2 Op.FLT_SWAP 7) a
    match e.2.cfg with
    | some c => b.reject c.2.1 Op.FLT_CONFIG 7
    | none => b) s
  { s1 with flt := {} }

/-- What the entry of a domain into reset does beside its fields. -/
def State.resetUnits (s : State) (d : Nat) : State :=
  match d with
  | 1 => s.resetShaft
  | 2 => s.resetHif
  | 7 => s.resetGrain
  | 8 => s.resetTsi
  | 9 => s.resetQmg
  | 10 => s.resetCipher
  | 11 => s.resetPair
  | 12 => s.resetFlt
  | _ => if 3 ≤ d && d ≤ 6 then s.resetSlice (d - 3) else s

/-- The number of a domain, or of hewer h as 0x8000 + h, in RESET_ENTERED and RESET_RELEASED. -/
def hewerUnit (h : Nat) : Nat := 0x8000 + h

/-- Assay units whose structures lie in a domain start their passes from the beginning, and what waits for them ends ABORTED (R538):
unit 0 guards banks (SHAFT), grain maps and TSI pages. -/
def State.restartPasses (s : State) (d : Nat) : State :=
  if d = 1 || d = 7 || d = 8 then
    let gone := s.asy.checks.filter (fun e => e.1.contains 0)
    let s1 : State := { s with asy := { s.asy with
      passes := tset s.asy.passes 0 { since := s.time }, checks := s.asy.checks.filter (fun e => !e.1.contains 0) } }
    gone.foldl (fun a e => a.reject e.2 Op.ASY_CHECK 7) (s1.wr Reg.ASY_POS 0 0)
  else s

/-- A domain enters reset (R527, R577, R578, R580, R583). -/
def State.enterReset (s : State) (d : Nat) : State :=
  let gen := s.rd Reg.RST_GEN d
  let s1 := ((s.clearDomain d).resetUnits d).restartPasses d
  let s2 := ((s1.wr Reg.RST_GEN d (gen + 1)).wr Reg.RST_ACTIVE 0 (setBit (s1.rd Reg.RST_ACTIVE 0) d true)).wr Reg.RST_REQ 0
    (setBit (s1.rd Reg.RST_REQ 0) d false)
  let s3 : State := { s2 with sys := { s2.sys with resets := tset s2.sys.resets d s2.time } }
  (s3.raise Ev.RESET_ENTERED srcDevice [(2, d), (2, gen)]).abandonMoves

/-- The field of three that holds hewer h. -/
def hewerFld (lo mid hi : Fld) (h : Nat) : Fld := if h < 32 then lo else if h < 64 then mid else hi

/-- A hewer's bit of three fields takes a value. -/
def State.setHewerBit (s : State) (lo mid hi : Fld) (h : Nat) (b : Bool) : State :=
  let f := hewerFld lo mid hi h
  s.wr f 0 (setBit (s.rd f 0) (h % 32) b)

/-- A hewer enters reset (R527, R577, R583). -/
def State.enterHewerReset (s : State) (h : Nat) : State :=
  let gen := s.rd Reg.RST_HEWER_GEN h
  let s1 := (s.wr Reg.RST_HEWER_GEN h (gen + 1)).setHewerBit Reg.RST_HEWER_ACTIVE_LO Reg.RST_HEWER_ACTIVE_MID
    Reg.RST_HEWER_ACTIVE_HI h true
  let s2 := s1.setHewerBit Reg.RST_HEWER_REQ_LO Reg.RST_HEWER_REQ_MID Reg.RST_HEWER_REQ_HI h false
  let s3 : State := { s2 with sys := { s2.sys with resets := tset s2.sys.resets (hewerUnit h) s2.time } }
  (s3.raise Ev.RESET_ENTERED (srcHewer h) [(2, hewerUnit h), (2, gen)]).abandonMoves

/-! ### The chip -/

/-- The fields that a CHIP reset does not reach: OTP, and what NOR holds (R365, R552, R558, R608). -/
def keptFields : List Fld :=
  [Reg.SEC_LIFECYCLE, Reg.SEC_SVN_OTP, Reg.SEC_VKEY_REVOKED, Reg.SEC_OPKEY_SLOT, Reg.SEC_SERIAL_LO, Reg.SEC_SERIAL_HI,
   Reg.CIP_EPOCH_RESV, Reg.BKG_LIFE_AVG_TJ, Reg.BKG_LIFE_HOT, Reg.BKG_LIFE_HOURS, Reg.BKG_LOG_SEQ, Reg.HIF_LINK_UP,
   Reg.HIF_LINK_SPEED, Reg.HIF_LINK_WIDTH]

/-- A CHIP reset begins (R527, R569, R577): everything but OTP, NOR, the PCIe link and the host's own memory returns to its
reset state, and every domain is in reset until the chip is released. An open debug port closes (R564). `cause` is
RST_CAUSE: 0 POWER_ON, 1 CHIP_REQUEST. -/
def State.chipReset (s : State) (cause : Nat) : State :=
  let r : State := State.reset
  let s1 : State := { r with
    pending := s.pending, time := s.time, freeCtr := s.freeCtr,
    io := { mem := s.io.mem, busMaster := s.io.busMaster, d3hot := s.io.d3hot, linkWas := s.io.linkWas },
    eng := { slots := s.eng.slots, erasedAt := s.eng.erasedAt, erases := s.eng.erases },
    bkg := { lifeSum := s.bkg.lifeSum, lifeHot := s.bkg.lifeHot, lifeTime := s.bkg.lifeTime, sectors := s.bkg.sectors,
             sector := s.bkg.sector, base := s.bkg.base },
    sec := { imgs := s.sec.imgs, opkeys := s.sec.opkeys, idGone := s.sec.idGone },
    sys := { nor := s.sys.nor }, shf := { startable := false } }
  let s2 := keptFields.foldl (fun a f => a.wr f 0 (s.rd f 0)) s1
  let s3 := ((s2.wr Reg.RST_ACTIVE 0 0x1FFF).wr Reg.RST_CAUSE 0 cause)
  let s4 := ([Reg.RST_HEWER_ACTIVE_LO, Reg.RST_HEWER_ACTIVE_MID, Reg.RST_HEWER_ACTIVE_HI]).foldl (fun a f => a.wr f 0 0xFFFFFFFF) s3
  s4.raiseIf (s.rdBit Reg.SEC_DEBUG 0) Ev.SEC_DEBUG srcDevice [(1, s.rd Reg.SEC_DEBUG 0), (1, 0), (4, 0)]

/-- RAIL_UNDERVOLTAGE (R569): a core rail below its minimum for 2 µs. -/
def execRailUndervoltage (dt : Nat) (s : State) : Host.Outcome State Fault Refusal := .next ((s.elapse dt).chipReset 0)

/-- PORST_N_LOW (R568, R631): the board holds the device in CHIP reset. -/
def execPorstNLow (dt : Nat) (s : State) : Host.Outcome State Fault Refusal := .next ((s.elapse dt).chipReset 0)

/-! ### Requests -/

/-- Domains before whose reset a holder surrenders (R579). -/
def tallyDomain (d : Nat) : Bool := d = 1 || (3 ≤ d && d ≤ 11)

/-- A holder of the tally surrenders in the clock of the request, and the reset begins at the next cycle boundary (R579). -/
def State.yieldFirst (s : State) (l : List Nat) : State :=
  if s.paired && s.parSt = parActive && l.any tallyDomain then
    let s1 := s.giveUp 1
    s1.waitAddr (nextCycle s1.addr)
  else s

/-- A partial or keyless write is discarded (R500, R526): cause 0 byte enables, 1 KEY. -/
def State.accessBad (s : State) (off be cause : Nat) : State :=
  (s.count Reg.GLB_ACCESS_BAD_CNT 0).raise Ev.REG_ACCESS_BAD srcDevice [(4, off), (1, be), (1, cause)]

/-- A write of RST_REQ (R526, R527, R579, R582). A domain already in reset keeps its bit until its release. -/
def State.writeRstReq (s : State) (value : Nat) : State :=
  let v := value % 2 ^ 13
  if v != 0 && s.rd Reg.RST_KEY 0 != 0xC0DE then (s.accessBad 0x00080004 15 1).wr Reg.RST_KEY 0 0
  else
    let s1 := (s.wr Reg.RST_KEY 0 0).wr Reg.RST_REQ 0 v
    let s2 := if v = 0 then s1 else s1.count Reg.RST_REQ_CNT 0
    if bitOf v 0 then s2.chipReset 1
    else
      let l := (List.range 13).filter (fun d => bitOf v d && !s2.inReset d)
      l.foldl State.enterReset (s2.yieldFirst l)

/-- A write of one of the RST_HEWER_REQ fields (R526, R527). -/
def State.writeHewerReq (s : State) (third value : Nat) : State :=
  let v := value % 2 ^ 32
  let f := hewerFld Reg.RST_HEWER_REQ_LO Reg.RST_HEWER_REQ_MID Reg.RST_HEWER_REQ_HI (32 * third)
  if v != 0 && s.rd Reg.RST_KEY 0 != 0xC0DE then (s.accessBad f.base 15 1).wr Reg.RST_KEY 0 0
  else
    let s1 := (s.wr Reg.RST_KEY 0 0).wr f 0 v
    let s2 := if v = 0 then s1 else s1.count Reg.RST_REQ_CNT 0
    let l := ((List.range 32).filter (bitOf v)).map (fun k => 32 * third + k)
    (l.filter (fun h => !s2.hewerReset h)).foldl State.enterHewerReset s2

/-- RST_REQ (R526, R527, R577 to R583): a host write of the register. -/
def execRstReq (dt value : Nat) (s : State) : Host.Outcome State Fault Refusal :=
  let s1 := s.elapse dt
  .next (if bitOf (s1.rd Reg.RST_ACTIVE 0) 0 then s1 else s1.writeRstReq value)

/-- RST_HEWER_REQ (R526, R527): a host write of its LO (0), MID (1) or HI (2) field. -/
def execRstHewerReq (dt third value : Nat) (s : State) : Host.Outcome State Fault Refusal :=
  let s1 := s.elapse dt
  .next (if bitOf (s1.rd Reg.RST_ACTIVE 0) 0 || 2 < third then s1 else s1.writeHewerReq third value)

/-- HIF_DOMAIN_RESET (R445): a Function Level Reset or a hot reset. -/
def execHifDomainReset (dt : Nat) (s : State) : Host.Outcome State Fault Refusal :=
  let s1 := s.elapse dt
  .next (if s1.inReset domHif then s1 else s1.enterReset domHif)

/-- The link goes down or up or changes speed or width (R444, R445, R474). A link down and up again resets the HIF domain. -/
def State.linkChange (s1 : State) (up : Bool) (speed width : Nat) : State :=
  let was := s1.rdBit Reg.HIF_LINK_UP 0
  let same := was == up && s1.rd Reg.HIF_LINK_SPEED 0 = speed % 8 && s1.rd Reg.HIF_LINK_WIDTH 0 = width % 16
  let s2 := ((s1.wrBit Reg.HIF_LINK_UP 0 up).wr Reg.HIF_LINK_SPEED 0 speed).wr Reg.HIF_LINK_WIDTH 0 width
  let back := up && !was && s1.io.linkWas
  let from_ := if up && !was then (if s2.halted then s2.addr else ceilTo Config.cyclePos s2.addr) else s2.io.resumeAt
  let s3 : State := { s2 with io := { s2.io with linkWas := s2.io.linkWas || up, resumeAt := from_ } }
  let s4 := if back && !s3.inReset domHif then s3.enterReset domHif else s3
  if same then s1 else s4.raise Ev.HIF_LINK srcDevice [(1, ofBool up), (1, speed), (1, width)]

/-- PCIE_LINK_CHANGE (R444, R445, R474). -/
def execPcieLinkChange (dt : Nat) (up : Bool) (speed width : Nat) (s : State) : Host.Outcome State Fault Refusal :=
  .next ((s.elapse dt).linkChange up speed width)

/-- PERST_N_RELEASE (R571): the link and configuration space are served, whatever the state of start-up; the configuration
space is as PCI Express leaves it after a reset. -/
def execPerstNRelease (dt speed width : Nat) (s : State) : Host.Outcome State Fault Refusal :=
  let s1 := s.elapse dt
  .next (({ s1 with io := { s1.io with busMaster := false, d3hot := false } } : State).linkChange true speed width)

/-! ### Release -/

/-- A NOR configuration copy is rejected (R591). -/
def State.norBad (s : State) (copy reason : Nat) : State :=
  ({ s with sys := { s.sys with norBad := s.sys.norBad ++ [copy] } } : State).raise Ev.NOR_COPY_BAD srcDevice [(1, copy), (1, reason)]

/-- The detail of CONFIG_REJECTED (Table 19-9). -/
def configDetail (reason source serial : Nat) (more : List (Nat × Nat)) : List (Nat × Nat) :=
  [(1, reason), (1, source), (4, serial)] ++ more

/-- A configuration set as its bytes spell it (Table 19-6). -/
def readSet (b : List Nat) : ConfigSet :=
  let word (k : Nat) : Nat := leNum (slice b k 4)
  { magic := b.take 4 == [0x45, 0x4B, 0x43, 0x46], format := b.getD 4 0,
    hdrOk := 64 ≤ b.length && word 60 == crc32c (b.take 60),
    glbId := word 8, serial := word 12, n := word 16, mask := word 20, crc := word 24, length := b.length,
    recs := (List.range (b.length / 8 - 8)).map (fun i => (word (64 + 8 * i), word (68 + 8 * i))), raw := b }

/-- The newer of the NOR copies not rejected yet is loaded, or NO_SET is reported (R591). -/
def State.loadNor (s : State) : State :=
  let l := ([0, 1].filter (fun k => !s.sys.norBad.contains k)).filterMap (fun k => (tfind s.sys.nor k).map (fun c => (k, (readSet c).serial)))
  let best := l.foldl (fun (b : Option (Nat × Nat)) e => match b with
    | none => some e
    | some x => if x.2 < e.2 then some e else some x) none
  match best with
  | none => s.raise Ev.CONFIG_REJECTED srcDevice (configDetail 0x19 0 0 [])
  | some e =>
    let load : CfgLoad := { source := 1 + e.1, host := none, store := false }
    { s with sys := { s.sys with loading := some load }, asy := { s.asy with xfers := tdel s.asy.xfers 2 } }

/-- NOR_CONFIG_LOAD (R591): at the release of the line stages, with BOOT_SRC low, copies whose header CRC fails are rejected,
and the newer of the others is read. -/
def State.norConfigLoad (s : State) : State :=
  if s.sys.bootSrc then s
  else
    let bad := [0, 1].filter (fun k => match tfind s.sys.nor k with | some c => !(readSet c).hdrOk | none => false)
    (bad.foldl (fun a k => a.norBad k 0x11) s).loadNor

/-- What the release of a domain does (Table 19-4, R35, R130, R566, R591). -/
def State.afterRelease (s : State) (d : Nat) : State :=
  match d with
  | 1 => { s with addr := 0 }
  | 2 =>
    if s.sys.booted then s
    else ({ s with sys := { s.sys with booted := true } } : State).raise Ev.SEC_BOOTED srcDevice
      [(1, s.rd Reg.SEC_BOOT_SLOT 0), (1, s.rd Reg.SEC_SVN_RUN 0), (1, s.rd Reg.SEC_BOOT_STATUS 0)]
  | 12 =>
    let mask := ((List.range 48).filter (fun ch => s.chanOn ch)).map (fun ch => 2 ^ ch)
    { s with flt := { s.flt with resets := s.flt.resets ++ [(nextCycle s.addr, mask.sum)] } }
  | _ =>
    if 3 ≤ d && d ≤ 6 then
      let s1 : State := { s with ovm := { s.ovm with ctxs := s.ovm.ctxs.map (fun e =>
        if e.2.fail && !e.2.redo then (e.1, { e.2 with fail := s.stillFails e.2 }) else e) } }
      if s1.sys.starting && (List.range 4).all (fun k => !s1.inReset (3 + k)) then
        ({ s1 with sys := { s1.sys with starting := false } } : State).norConfigLoad
      else s1
    else s

/-- Microseconds since a unit entered reset; how they are rounded is free. -/
def State.resetUs (s : State) (u : Nat) : Nat :=
  (s.wholeFree (((s.time - tget s.time s.sys.resets u : Nat) : Rat) * 3125 / 486000)).toNat

/-- The place of a domain, or of hewer h as 0x8000 + h, in the order of start-up (R32): the shaft with its filters and the mate link
that it listens to (R392), the host interface, the hewers, the fabrics with the queue manager and the cipher pool, the slices. -/
def startRank (unit : Nat) : Nat :=
  if 0x8000 ≤ unit then 3
  else if unit = 1 || unit = 11 || unit = 12 then 1
  else if unit = 2 then 2
  else if 7 ≤ unit && unit ≤ 10 then 4
  else 5

/-- Everything that R32 puts before a unit is out of reset, unless self-test marked it unusable; asked while the device starts. -/
def State.startsInOrder (s : State) (unit : Nat) : Bool :=
  !s.sys.starting ||
  ((List.range 13).all (fun d => d == 0 || startRank unit ≤ startRank d || !bitOf (s.rd Reg.RST_ACTIVE 0) d) &&
    (startRank unit ≤ 3 || (List.range 96).all (fun h => !s.hewerReset h || s.ovm.unusable.contains (512 + h))))

/-- RESET_RELEASED (R32, R572, R577, R582): a domain, or hewer h as 0x8000 + h, is released. In boot mode only the shaft and
the host interface are. A request made meanwhile puts it into reset again. -/
def execResetReleased (dt unit : Nat) (s : State) : Host.Outcome State Fault Refusal :=
  let s1 := s.elapse dt
  .next (if bitOf (s1.rd Reg.RST_ACTIVE 0) 0 || (s1.sys.bootMode && unit != domShaft && unit != domHif) ||
      !s1.startsInOrder unit then s1
    else if 0x8000 ≤ unit then
      let h := unit - 0x8000
      if 95 < h || !s1.hewerReset h then s1
      else
        let s2 := (s1.setHewerBit Reg.RST_HEWER_ACTIVE_LO Reg.RST_HEWER_ACTIVE_MID Reg.RST_HEWER_ACTIVE_HI h false).draw.raise
          Ev.RESET_RELEASED (srcHewer h) [(2, unit), (2, s1.rd Reg.RST_HEWER_GEN h), (4, s1.resetUs unit)]
        let f := hewerFld Reg.RST_HEWER_REQ_LO Reg.RST_HEWER_REQ_MID Reg.RST_HEWER_REQ_HI h
        if bitOf (s2.rd f 0) (h % 32) then s2.enterHewerReset h else s2.startOverman
    else if unit = 0 || 12 < unit || !bitOf (s1.rd Reg.RST_ACTIVE 0) unit then s1
    else
      let s2 := (s1.wr Reg.RST_ACTIVE 0 (setBit (s1.rd Reg.RST_ACTIVE 0) unit false)).draw.raise Ev.RESET_RELEASED srcDevice
        [(2, unit), (2, s1.rd Reg.RST_GEN unit), (4, s1.resetUs unit)]
      if bitOf (s2.rd Reg.RST_REQ 0) unit then s2.enterReset unit else s2.afterRelease unit)

end Sys2Proof.Machine
end

