-- ==== Sys2Proof/Machine/Registers.lean ====
section
/-! DEFINITION. Register behaviour (R5, R500 to R514): host writes by field type, staged values, what a read returns, and
the shadows. -/

namespace Sys2Proof.Machine

/-! ### Fields by offset -/

/-- The instance of a field whose register lies at a byte offset. -/
def Fld.copyAt (f : Fld) (off : Nat) : Option Nat :=
  if f.stride = 0 then (if off = f.base then some 0 else none)
  else if off < f.base then none
  else if (off - f.base) % f.stride = 0 && (off - f.base) / f.stride < f.count then some ((off - f.base) / f.stride)
  else none

/-- A field's instance exists: channel 19 has no fields (R133). -/
def Fld.exists_ (f : Fld) (i : Nat) : Bool := !(f.base / 0x80000 == 4 && f.stride == 0x40 && i == 19)

/-- The fields of the word at an offset, with their instances. -/
def wordFields (off : Nat) : List (Fld × Nat) :=
  (Reg.ofBlock (off / 0x80000)).filterMap (fun f => match f.copyAt off with
    | some i => if f.exists_ i then some (f, i) else none
    | none => none)

/-- The offset is above the block map (R5), or in a block's active-value view (R514). -/
def outsideMap (off : Nat) : Bool := 0x00A00000 ≤ off
def activeView (off : Nat) : Bool := 0x40000 ≤ off % 0x80000

/-! ### Staged values -/

/-- A CMT field's staged value (R514). -/
def State.staged (s : State) (f : Fld) (i : Nat) : Nat := (tfind s.regs.staged (f.key i)).getD (s.rd f i)

/-- A CMT field's staged value is written; what it was before this clock is kept for a snapshot in this clock (R517). -/
def State.stage (s : State) (f : Fld) (i v : Nat) : State :=
  let k := f.key i
  let now := s.regs.fresh.filter (fun e => e.2.1 == s.time)
  let fresh := if now.any (fun e => e.1 == k) then now else (k, s.time, s.staged f i) :: now
  { s with regs := { s.regs with staged := if v = s.rd f i then tdel s.regs.staged k else tset s.regs.staged k v,
                                 fresh := fresh } }

/-- The group of a register key. -/
def keyGroup (k : Nat) : Nat := k / 32 / 0x80000

/-- GLB_COMMIT_PENDING (R514). -/
def State.pendingGroups (s : State) : Nat :=
  ((List.range 20).filter (fun g => s.regs.staged.any (fun e => keyGroup e.1 == g))).map (2 ^ ·) |>.sum

/-! ### Locked fields -/

/-- A reservation for the epochs from a start-up value on is wanted (R365): CIP_EPOCH_BASE raises CIP_EPOCH_CUR until the
first configuration set is in force (log entry 42). -/
def State.raiseEpoch (s : State) (v : Nat) : State :=
  if !s.sys.configured && s.rd Reg.CIP_EPOCH_CUR 0 < v then
    ({ s with cip := { s.cip with resvWant := some v } } : State).wr Reg.CIP_EPOCH_CUR 0 v
  else s

/-- The first write of an LCK field locks it (R506). -/
def State.lockField (s : State) (f : Fld) (i v : Nat) : State :=
  let s1 : State := { s with regs := { s.regs with locked := f.key i :: s.regs.locked } }
  let s2 := s1.wr f i v
  if f = Reg.CIP_EPOCH_BASE then s2.raiseEpoch v else s2

/-- An LCK field is locked. -/
def State.isLocked (s : State) (f : Fld) (i : Nat) : Bool := s.regs.locked.contains (f.key i)

/-- A write of an LCK field: a locked one keeps its value, counts and reports (R507). -/
def State.hostLock (s : State) (off : Nat) (f : Fld) (i v : Nat) : State :=
  if s.isLocked f i then
    (s.count Reg.GLB_WTL_CNT 0).raiseLim 16 Ev.WRITE_TO_LOCKED 0 srcDevice [(4, off), (4, v), (4, s.rd f i)]
  else s.lockField f i v

/-! ### Host writes -/

/-- Rings whose enable falls or rises. A CMD ring enabled restarts at index 0 (R453). -/
def State.cmdEnabled (s : State) (n : Nat) : State :=
  let s1 : State := { s with io := { s.io with stale := tdel s.io.stale n, laps := tdel s.io.laps (Reg.HIF_CMD_CONS.key n),
                                               fetch := s.io.fetch.filter (fun e => e.1 != n) } }
  (s1.wr Reg.HIF_CMD_CONS n 0).wr Reg.HIF_CMD_PROD n 0

/-- A CPL ring enabled restarts at index 0 (R453). -/
def State.cplEnabled (s : State) (n : Nat) : State :=
  { s with io := { (s.io.wr Reg.HIF_CPL_PROD n 0).wr Reg.HIF_CPL_CONS n 0 with laps := tdel s.io.laps (Reg.HIF_CPL_PROD.key n) } }

/-- An event queue enabled restarts at index 0 (R453). -/
def State.evqEnabled (s : State) (n : Nat) : State :=
  { s with io := { (s.io.wr Reg.HIF_EVQ_PROD n 0).wr Reg.HIF_EVQ_CONS n 0 with laps := tdel s.io.laps (Reg.HIF_EVQ_PROD.key n) } }

/-- A CPL ring disabled: the completions outstanding for it are discarded and counted (R463). -/
def State.cplDisabled (s : State) (n : Nat) : State :=
  let mine (r : Nat) : Bool := s.rd Reg.HIF_CMD_CPL r == n
  let owed := (s.io.delivered.filter (fun d => !d.dead && mine d.ring)).length
  let held := (s.io.heldCpl.filter (fun c => mine c.ring)).length
  let io : IoSt := { s.io with
    delivered := s.io.delivered.map (fun d => if mine d.ring then { d with dead := true } else d),
    heldCpl := s.io.heldCpl.filter (fun c => !mine c.ring) }
  { s with io := io.countBy Reg.HIF_CPL_DROP_CNT n (owed + held) }

/-- What an enable bit's change does. -/
def State.onEdge (old new : State) (f : Fld) (n : Nat) (rise fall : State → State) : State :=
  let a := old.rdBit f n
  let b := new.rdBit f n
  if !a && b then rise new else if a && !b then fall new else new

/-- FLT channels that a write enabled are reset at the next cycle boundary, and those disabled are held in reset (R130). -/
def State.chansChanged (old new : State) : State :=
  let on := (List.range 48).filter (fun ch => !old.chanOn ch && new.chanOn ch)
  let off := (List.range 48).filter (fun ch => old.chanOn ch && !new.chanOn ch)
  let s1 := off.foldl State.resetChan new
  if on.isEmpty then s1
  else { s1 with flt := { s1.flt with resets := s1.flt.resets ++ [(nextCycle s1.addr, (on.map (2 ^ ·)).sum)] } }

/-- A new doorbell position acts from the next cycle; the one in force is kept until then (R48). -/
def State.doorbellMoved (old new : State) : State :=
  let inForce := match old.shf.dbAt with
    | some a => if a / Config.cyclePos = old.cycle then old.shf.dbOld else old.rd Reg.SHF_DOORBELL_POS 0
    | none => old.rd Reg.SHF_DOORBELL_POS 0
  let bad := Config.cyclePos ≤ new.rd Reg.SHF_DOORBELL_POS 0
  { new with shf := { new.shf with
      dbOld := inForce, dbAt := some new.addr, dbBadIn := if bad then some new.cycle else new.shf.dbBadIn } }

/-- What a write of the word at an offset does beside storing its fields. -/
def State.afterWrite (old new : State) (off : Nat) : State :=
  if off = 0x00100000 then old.doorbellMoved new
  else if off = 0x00200000 || off = 0x00200004 then old.chansChanged new
  else if 0x00281000 ≤ off && off < 0x00282400 && off % 0x40 = 8 then new.applyTaps ((off - 0x00281000) / 0x40)
  else if off = 0x00500000 then (if old.rdBit Reg.PMN_EN 0 = new.rdBit Reg.PMN_EN 0 then new else new.pmEnChanged)
  else if off = 0x00700000 then
    old.onEdge new Reg.HIF_EN 0 (fun a => { a with io := { a.io with enCycle := a.cycle + 1 } }) id
  else if 0x00701000 ≤ off && off < 0x00701200 && off % 0x20 = 8 then
    old.onEdge new Reg.HIF_CMD_EN ((off - 0x00701000) / 0x20) (fun a => a.cmdEnabled ((off - 0x00701000) / 0x20)) id
  else if 0x00701200 ≤ off && off < 0x00701400 && off % 0x20 = 8 then
    let n := (off - 0x00701200) / 0x20
    old.onEdge new Reg.HIF_CPL_EN n (fun a => a.cplEnabled n) (fun a => a.cplDisabled n)
  else if 0x00701400 ≤ off && off < 0x00701800 && off % 0x20 = 8 then
    old.onEdge new Reg.HIF_EVQ_EN ((off - 0x00701400) / 0x20) (fun a => a.evqEnabled ((off - 0x00701400) / 0x20)) id
  else new

/-- One field of a written word takes its bits under its own type (R503 to R508, R514). Writes to ENG_BUDGET and ENG_SLEW are
ignored while a last gasp runs (R437); a field whose domain is in reset takes none (R571). -/
def State.hostField (s : State) (off value : Nat) (f : Fld) (i : Nat) : State :=
  let v := bitsOf value f.lo f.width
  if s.inReset (f.domain i) then s
  else
    match f.kind with
    | .ctl => if s.gasping && (f == Reg.ENG_BUDGET || f == Reg.ENG_SLEW) then s else s.wr f i v
    | .sts => s
    | .cnt => if f.inIo then { s with io := s.io.wr f i v } else s.wr f i v
    | .cmt => s.stage f i v
    | .lck => s.hostLock off f i v

/-- A word's fields take a value in ascending bit order. -/
def State.hostFields (s : State) (off value : Nat) : State :=
  s.afterWrite ((wordFields off).foldl (fun a (e : Fld × Nat) => a.hostField off value e.1 e.2) s) off

/-- A word of the MSI-X table (Table 14-1): a vector that waits sends its message when it is unmasked. -/
def State.writeMsix (s : State) (k value : Nat) : State :=
  if s.inReset domHif then s
  else
    let io : IoSt := { s.io with msix := tset s.io.msix k value }
    let v := k / 4
    { s with io := if (tget {} io.vecs v).waiting && !io.masked v then io.sendMsg v else io }

/-- The first condition of R615 that fails: 0 lifecycle, 1 authority, 2 energy. -/
def State.tstCondition (s : State) : Option Nat :=
  if s.rd Reg.SEC_LIFECYCLE 0 = 2 && s.rd Reg.SEC_DEBUG 0 < 2 then some 0
  else if s.paired && s.hasAuthority then some 1
  else if s.gasping then some 2
  else none

/-- A write of TST_ARM and TST_EN (R615, R616): 0x7E57 arms where the conditions hold, and the enables act from the next cycle
boundary; so does a change of TST_EN while armed. -/
def State.writeTst (s : State) (value : Nat) : State :=
  let s1 := (s.wr Reg.TST_ARM 0 value).wr Reg.TST_EN 0 (value / 65536)
  if s1.rd Reg.TST_ARM 0 != 0x7E57 then s1
  else if s.bkg.armed then
    if s1.rd Reg.TST_EN 0 = s.rd Reg.TST_EN 0 then s1
    else { s1 with bkg := { s1.bkg with tstFrom := some (nextCycle s1.addr) } }
  else match s1.tstCondition with
    | some c => s1.raise Ev.TST_REFUSED srcDevice [(1, c)]
    | none =>
      let s2 : State := { s1 with bkg := { s1.bkg with armed := true, altered := 0, tstFrom := some (nextCycle s1.addr) } }
      (s2.wr Reg.TST_LEFT 0 (max 1 (s2.rd Reg.TST_DURATION 0))).raise Ev.TST_ARMED srcDevice
        [(1, s2.rd Reg.TST_EN 0), (2, s2.rd Reg.TST_DURATION 0)]

/-- Time passes until enables that a write changed have come into effect. -/
def State.tstWait (s : State) : State :=
  match s.bkg.tstFrom with
  | some a => (s.waitAddr a).tstTake
  | none => s

/-- TST_ARM (R615, R616): a host write of TST_ARM and TST_EN. -/
def execTstArm (dt value : Nat) (s : State) : Host.Outcome State Fault Refusal :=
  let s1 := s.elapse dt
  .next (if s1.inReset 0 then s1 else (s1.writeTst value).tstWait)

/-! ### Reads -/

/-- The stamp of the next 15-minute (900) or 24-hour (86,400) boundary (R331); 0 while PM is stopped. -/
def State.nextBin (s : State) (period start : Nat) : Nat :=
  if s.halted || !s.pm.running then 0
  else stampOf (s.nextEdge period start)

/-- Free units of a kind of `n`, given those used. -/
def State.freeCtxCount (s : State) : Nat :=
  let held := (s.ovm.freed.filter (fun e => decide (s.addr < e.2 + Config.epochPos) && (tfind s.ovm.ctxs e.1).isNone)).map (·.1)
  49152 - s.ovm.ctxs.length - held.dedup.length

/-- Bytes of HBM in queue regions. -/
def State.queueHbm (s : State) : Nat := ((s.qmg.qs.filter (fun e => e.2.hbm)).map (fun e => 64 * e.2.size)).sum

/-- The conditions that follow their cause at every moment, and the values that the shaft carries (R504). -/
def State.live (s : State) (f : Fld) (i : Nat) : Option Nat :=
  match f.base / 0x80000 with
  | 0 => if f = Reg.GLB_COMMIT_PENDING then some s.pendingGroups else none
  | 2 =>
    if f = Reg.SHF_DOORBELL_BAD then some (ofBool s.doorbellBad)
    else if f = Reg.SHF_CYCLE_LO then some (s.cycle % 2 ^ 32)
    else if f = Reg.SHF_CYCLE_HI then some (s.cycle / 2 ^ 32 % 65536)
    else if f = Reg.SHF_POS_SNAP then some s.pos
    else none
  | 3 =>
    if f = Reg.TIM_TOD_SEC_LO then some (s.todSec % 2 ^ 32)
    else if f = Reg.TIM_TOD_SEC_HI then some (s.todSec / 2 ^ 32 % 65536)
    else if f = Reg.TIM_TOD_NS then some s.todNs
    else if f = Reg.TIM_HO_AGE then
      some (if s.rd Reg.TIM_DPLL_STATE 0 = dpllHoldover then
        (s.wholeFree (((s.addr - s.tim.entryAt : Nat) : Rat) / Config.secondPos)).toNat else 0)
    else if f = Reg.TIM_CAND_WTR_LEFT then
      let c := s.cand i
      let wtr := min 720 (s.rd Reg.TIM_WTR 0)
      some (match c.wtrFrom with
        | some a => (s.wholeFree ((((a + wtr * Config.secondPos) - s.addr : Nat) : Rat) / Config.secondPos)).toNat
        | none => if c.wtrWaits then wtr else 0)
    else none
  | 12 => if f = Reg.PAR_AUTHORITY then some (ofBool s.hasAuthority) else none
  | 6 =>
    if f = Reg.RLK_TX_TUB_CNT && s.rlkOn i then some (s.txCount i false)
    else if f = Reg.RLK_TX_IDLE_CNT && s.rlkOn i then some (s.txCount i true)
    else none
  | 5 => if f = Reg.PRT_LANE_IN_USE then some (ofBool (s.laneInUse i)) else none
  | 9 =>
    if f = Reg.OVM_INTENTS_PLACED then some (s.ovm.intents.filter (fun e => e.2.state == 1)).length
    else if f = Reg.OVM_INTENTS_PENDING then some s.pendingIntents.length
    else if f = Reg.OVM_CTX_FREE then some s.freeCtxCount
    else if f = Reg.OVM_GRAINS_FREE then some (1024 - grainsUsed s.ovm.ctxs)
    else if f = Reg.OVM_SEALED_FREE then some (2048 - (s.ovm.ctxs.filter (fun e => e.2.sealed)).length)
    else if f = Reg.OVM_PRIV_FREE then some (64 - (s.ovm.ctxs.filter (fun e => e.2.priv)).length)
    else none
  | 10 =>
    if f = Reg.PMN_STATE then some s.pmState
    else if f = Reg.PMN_POINTS_EN then some (s.pm.points.filter (fun e => e.2.cfg.on)).length
    else if f = Reg.PMN_NEXT_15M_LO then some (s.nextBin 900 0 % 2 ^ 32)
    else if f = Reg.PMN_NEXT_15M_HI then some (s.nextBin 900 0 / 2 ^ 32)
    else if f = Reg.PMN_NEXT_24H_LO then some (s.nextBin 86400 s.dayStart % 2 ^ 32)
    else if f = Reg.PMN_NEXT_24H_HI then some (s.nextBin 86400 s.dayStart / 2 ^ 32)
    else none
  | 11 => if f = Reg.CIP_PIPE_AWAKE then
      some (((List.range 24).filter (fun p => !s.ovm.gated.contains p)).map (2 ^ ·)).sum
    else none
  | 15 =>
    if f = Reg.QMG_QUEUES then some s.qmg.qs.length
    else if f = Reg.QMG_SRAM_WORDS then some ((s.qmg.qs.filter (fun e => !e.2.hbm)).map (fun e => e.2.size)).sum
    else if f = Reg.QMG_HBM_USED then some (s.wholeFree ((s.queueHbm : Rat) / 2 ^ 20)).toNat
    else if f = Reg.QMG_HIGH_QUEUES then some (min 65535 (s.qmg.qs.filter (fun e => e.2.isHigh)).length)
    else none
  | 17 => if f = Reg.SEC_DEBUG_LEFT then
      some (if s.rd Reg.SEC_DEBUG 0 = 0 || s.sec.closeAt ≤ s.time then 0
        else (s.wholeFree (((s.sec.closeAt - s.time : Nat) : Rat) / (60 * Config.secondPos))).toNat)
    else none
  | _ => none

/-- A field's value now: live, held beside the rings, or stored. -/
def State.value (s : State) (f : Fld) (i : Nat) : Nat :=
  match s.live f i with
  | some v => v % 2 ^ f.width
  | none => if f.inIo then s.io.rd f i else s.rd f i

/-- The shadowed pairs (R512): the LO field and what its read latches (R52, R101, R345, R420, R565). -/
def shadowPairs : List (Fld × List Fld) :=
  [(Reg.SHF_CYCLE_LO, [Reg.SHF_CYCLE_HI, Reg.SHF_POS_SNAP]), (Reg.TIM_TOD_SEC_LO, [Reg.TIM_TOD_SEC_HI, Reg.TIM_TOD_NS]),
   (Reg.PMN_NEXT_15M_LO, [Reg.PMN_NEXT_15M_HI]), (Reg.PMN_NEXT_24H_LO, [Reg.PMN_NEXT_24H_HI]),
   (Reg.PAR_LEASE_LO, [Reg.PAR_LEASE_HI]), (Reg.PAR_EPOCH_LO, [Reg.PAR_EPOCH_HI]), (Reg.SEC_SERIAL_LO, [Reg.SEC_SERIAL_HI])]

/-- The field is read through a shadow. -/
def Fld.shadowed (f : Fld) : Bool := shadowPairs.any (fun e => e.2.contains f)

/-- The STS and CNT fields of a lane read 0 while its mode is none of the block's: Ralale (R209), SDH, SONET or OTU (R245). -/
def State.silentLane (s : State) (f : Fld) (i : Nat) : Bool :=
  (f.kind == .sts || f.kind == .cnt) && f.count != 1 &&
    ((f.base / 0x80000 == 6 && !s.rlkOn i) ||
      (f.base / 0x80000 == 7 && !(modeStm (s.rd Reg.PRT_LANE_MODE i) || modeOtu (s.rd Reg.PRT_LANE_MODE i))))

/-- What a host read of a field returns (R9, R209, R245, R512, R514, R571): 0 while its domain is in reset, GLB_ID apart, a shadow, a staged value, or the
value now. A HI field with no LO read since reset returns its value as it stood at reset. -/
def State.readField (s : State) (f : Fld) (i : Nat) : Nat :=
  if s.inReset (f.domain i) && !(f == Reg.GLB_ID && !s.sys.held) then 0
  else if s.silentLane f i then 0
  else if f.shadowed then
    (tfind s.regs.shadow (f.key i)).getD (if f = Reg.SEC_SERIAL_HI then s.rd f i else f.resetAt i)
  else if f.kind = .cmt then s.staged f i
  else s.value f i

/-- What a host read of a word returns (R5, R501, R514, R571). -/
def State.readWord (s : State) (off : Nat) : Nat :=
  if outsideMap off then 0
  else if activeView off then
    ((wordFields (off - 0x40000)).map (fun (e : Fld × Nat) =>
      if e.1.kind == .cmt && !s.inReset (e.1.domain e.2) then s.rd e.1 e.2 * 2 ^ e.1.lo else 0)).sum
  else if 0x00708000 ≤ off && off < 0x00708200 then
    if s.inReset domHif then 0
    else tget (ofBool ((off - 0x00708000) / 4 % 4 == 3)) s.io.msix ((off - 0x00708000) / 4)
  else if off = 0x00709000 then
    if s.inReset domHif then 0
    else (((List.range 32).filter (fun v => (tget {} s.io.vecs v).waiting)).map (2 ^ ·)).sum
  else ((wordFields off).map (fun (e : Fld × Nat) => s.readField e.1 e.2 * 2 ^ e.1.lo)).sum

/-- SHADOW_LO_READ (R512): the read of a LO field latches its HI field, and what is latched with it, in the same clock. -/
def execShadowLoRead (dt off : Nat) (s : State) : Host.Outcome State Fault Refusal :=
  let s1 := s.elapse dt
  .next (match shadowPairs.find? (fun e => e.1.base == off) with
    | none => s1
    | some e =>
      if s1.inReset (e.1.domain 0) then s1
      else { s1 with regs := { s1.regs with
        shadow := e.2.foldl (fun t f => tset t (f.key 0) (s1.value f 0)) s1.regs.shadow } })

/-! ### Triplicated fields -/

/-- One TRI field whose copies differ (R510, R511). `off` names its register; the word's TRI field is meant. -/
def State.triFix (s : State) (e : TriError) : State :=
  match (wordFields e.off).find? (fun w => w.1.tri) with
  | none => s
  | some w =>
    match e.copy with
    | some c => (s.count Reg.GLB_TRI_FIX_CNT 0).raise Ev.TRI_CORRECTED srcDevice [(4, e.off), (1, c)]
    | none => ((s.wr w.1 w.2 (w.1.resetAt w.2)).wr Reg.GLB_TRI_FAULT 0 1).raise Ev.TRI_NO_MAJORITY srcDevice [(4, e.off)]

/-- TRI_SCRUB (R510, R511): once per shaft epoch the copies of every TRI field are compared. -/
def execTriScrub (dt : Nat) (l : List TriError) (s : State) : Host.Outcome State Fault Refusal :=
  let s1 := s.toBoundary dt Config.epochPos
  .next (if s1.halted || s1.inReset 0 then s1 else l.foldl State.triFix s1)

end Sys2Proof.Machine
end

