-- ==== Sys2Proof/Machine/Commit.lean ====
section
/-! DEFINITION. Commits (R514 to R522, R529): requests, the snapshot with every group's checks, the outcome, discards; and
what the outcome of a configuration set does (R587 to R592). -/

namespace Sys2Proof.Machine

/-! ### Groups -/

/-- The CMT fields of a group in offset order, as runs of fields repeated alike. -/
def cmtRuns (g : Nat) : List (List Fld × Nat) :=
  match g with
  | 5 => [([Reg.PRT_UPL_LAYOUT], 1), ([Reg.PRT_LANE_MODE, Reg.PRT_LANE_SONET, Reg.PRT_LANE_FEC], 80),
          ([Reg.PRT_TRB_EN, Reg.PRT_TRB_LAYOUT], 32)]
  | 6 => [([Reg.RLK_EK7210], 48)]
  | 12 => [([Reg.PAR_PORT_ETUND], 1)]
  | 14 => [([Reg.HIF_DB_ADDR_LO, Reg.HIF_DB_ADDR_HI, Reg.HIF_DQ_IDX_ADDR_LO, Reg.HIF_DQ_IDX_ADDR_HI, Reg.HIF_DQ_WB_ADDR_LO,
             Reg.HIF_DQ_WB_ADDR_HI], 1),
           ([Reg.HIF_CMD_BASE_LO, Reg.HIF_CMD_BASE_HI, Reg.HIF_CMD_SIZE, Reg.HIF_CMD_CPL], 16),
           ([Reg.HIF_CPL_BASE_LO, Reg.HIF_CPL_BASE_HI, Reg.HIF_CPL_SIZE], 16),
           ([Reg.HIF_EVQ_BASE_LO, Reg.HIF_EVQ_BASE_HI, Reg.HIF_EVQ_SIZE], 32)]
  | 15 => [([Reg.QMG_HOST_BASE, Reg.QMG_HOST_HBM], 1)]
  | _ => []

/-- The CMT fields of a group in offset order, with their instances. -/
def groupFields (g : Nat) : List (Fld × Nat) :=
  (cmtRuns g).flatMap (fun r => (List.range r.2).flatMap (fun i => r.1.map (fun f => (f, i))))

/-- The groups of a mask, in ascending order. -/
def groupsOf (mask : Nat) : List Nat := (List.range 20).filter (bitOf mask)

/-- A group's staged values become its active values again (R518). -/
def State.discardGroups (s : State) (mask : Nat) : State :=
  { s with regs := { s.regs with
    staged := s.regs.staged.filter (fun e => !bitOf mask (keyGroup e.1)),
    fresh := s.regs.fresh.filter (fun e => !bitOf mask (keyGroup e.1)) } }

/-- Discards that a boundary makes (R518, R529): of groups that are not BUSY. -/
def State.makeDiscards (s : State) : State :=
  let busy := s.rd Reg.GLB_COMMIT_BUSY 0
  let asked := s.rd Reg.GLB_DISCARD 0
  let now := ((groupsOf asked).filter (fun g => !bitOf busy g)).map (2 ^ ·) |>.sum
  let s1 := (s.discardGroups now).wr Reg.GLB_DISCARD 0 (asked - now)
  let ready := s1.regs.discards.filter (fun e => Nat.land e.1 busy == 0)
  let s2 : State := { s1 with regs := { s1.regs with discards := s1.regs.discards.filter (fun e => Nat.land e.1 busy != 0) } }
  ready.foldl (fun a e => (a.discardGroups e.1).done e.2 Op.REG_DISCARD) s2

/-! ### Checks at the snapshot -/

/-- A CMT field's value as the snapshot holds it; for a group that is not part of the commit, its active value. -/
def State.snap (s : State) (t : Tab Nat) (f : Fld) (i : Nat) : Nat := (tfind t (f.key i)).getD (s.rd f i)

/-- Contexts placed, or placed by the swap that is armed (R516). -/
def State.placedCtxs (s : State) : List (Nat × Ctx) :=
  let adds := match s.ovm.arm with | some a => if a.armed then a.adds else [] | none => []
  s.ovm.ctxs.filter (fun e => e.2.active || adds.contains e.2.intent)

/-- A lane carries a placed context, in force or armed (R516). -/
def State.laneTaken (s : State) (l : Nat) : Bool :=
  s.placedCtxs.any (fun e => [e.2.endpoint, e.2.endpointB, e.2.out].any (fun d => laneEndpoint d && (d.lane == l || d.lane == s.portFirst l)))

/-- A tributary link carries a placed context, in force or armed. -/
def State.trbTaken (s : State) (n : Nat) : Bool :=
  s.placedCtxs.any (fun e => e.2.trbEnd.typ == 2 && e.2.trbEnd.lane == n)

/-- Table 05-1: the modes allowed on a lane's group. -/
def modeAllowed (l m : Nat) : Bool :=
  m == 0 || (l < 48 && 1 ≤ m && m ≤ 10) || (48 ≤ l && l < 72 && (m == 11 || m == 12)) || (72 ≤ l && m == 13)

/-- Table 05-2: the modes of a slice's six uplink lanes agree with its layout. -/
def layoutAgrees (layout : Nat) (m : Nat → Nat) : Bool :=
  let pair (a : Nat) : Bool := (m a == 12 && m (a + 1) == 12) || (m a == 0 && m (a + 1) == 0)
  let four : Bool := [0, 1, 2, 3].all (fun k => m k == 11) || [0, 1, 2, 3].all (fun k => m k == 0)
  match layout with
  | 0 => [0, 1, 2, 3, 4, 5].all (fun k => m k == 0)
  | 1 => pair 0 && pair 2 && pair 4
  | 2 => four && pair 4
  | _ => false

/-- A commit changes a field. -/
def State.alters (s : State) (t : Tab Nat) (f : Fld) (i : Nat) : Bool := s.snap t f i != s.rd f i

/-- Group PRT (R163, Table 05-9). -/
def State.checkPrt (s : State) (t : Tab Nat) : Option (Nat × Nat) :=
  let mode (l : Nat) : Nat := s.snap t Reg.PRT_LANE_MODE l
  let layout (k : Nat) : Nat := s.snap t Reg.PRT_UPL_LAYOUT 0 / 4 ^ k % 4
  let lane (l : Nat) : Nat := 0x00281000 + 0x40 * l
  match (List.range 80).find? (fun l => !modeAllowed l (mode l)) with
  | some l => some (1, lane l)
  | none =>
    if (List.range 4).any (fun k => layout k == 3) then some (4, 0x00280000)
    else if (List.range 4).any (fun k => !layoutAgrees (layout k) (fun j => mode (48 + 6 * k + j))) then some (2, 0x00280000)
    else
      match (List.range 80).find? (fun l => s.laneTaken l &&
          (s.alters t Reg.PRT_LANE_MODE l || s.alters t Reg.PRT_LANE_SONET l || s.alters t Reg.PRT_LANE_FEC l)) with
      | some l => some (3, lane l)
      | none => ((List.range 32).find? (fun n => s.trbTaken n &&
          (s.alters t Reg.PRT_TRB_EN n || s.alters t Reg.PRT_TRB_LAYOUT n))).map (fun n => (3, 0x00283000 + 0x40 * n))

/-- Group RLK (R208, Table 06-12). The check of the rate reads PRT_LANE_MODE, whose offset is the lower. -/
def State.checkRlk (s : State) (t : Tab Nat) : Option (Nat × Nat) :=
  match (List.range 48).find? (fun l => s.snap t Reg.RLK_EK7210 l == 1 && s.snap t Reg.PRT_LANE_MODE l != 9) with
  | some l => some (1, 0x00281000 + 0x40 * l)
  | none => ((List.range 48).find? (fun l => s.alters t Reg.RLK_EK7210 l && s.laneTaken l)).map (fun l => (2, 0x00301000 + 0x80 * l))

/-- Group PAR (R419): the bit of a port that carries a placed context. -/
def State.checkPar (s : State) (t : Tab Nat) : Option (Nat × Nat) :=
  let old := s.rd Reg.PAR_PORT_ETUND 0
  let new := s.snap t Reg.PAR_PORT_ETUND 0
  if (List.range 24).any (fun k => bitOf old k != bitOf new k && s.laneTaken (48 + k)) then some (1, 0x0060000C) else none

/-- The rings of a kind: enable, base LO, base HI, size, binding where there is one, count and the offset of ring 0. -/
def hifRings : List (Fld × List Fld × Fld × Fld × Nat × Nat) :=
  [(Reg.HIF_CMD_EN, [Reg.HIF_CMD_BASE_LO, Reg.HIF_CMD_BASE_HI, Reg.HIF_CMD_SIZE, Reg.HIF_CMD_CPL], Reg.HIF_CMD_BASE_LO,
      Reg.HIF_CMD_SIZE, 16, 0x00701000),
   (Reg.HIF_CPL_EN, [Reg.HIF_CPL_BASE_LO, Reg.HIF_CPL_BASE_HI, Reg.HIF_CPL_SIZE], Reg.HIF_CPL_BASE_LO, Reg.HIF_CPL_SIZE, 16,
      0x00701200),
   (Reg.HIF_EVQ_EN, [Reg.HIF_EVQ_BASE_LO, Reg.HIF_EVQ_BASE_HI, Reg.HIF_EVQ_SIZE], Reg.HIF_EVQ_BASE_LO, Reg.HIF_EVQ_SIZE, 32,
      0x00701400)]

/-- Each ring with its number. -/
def hifRingList : List ((Fld × List Fld × Fld × Fld × Nat × Nat) × Nat) :=
  hifRings.flatMap (fun r => (List.range r.2.2.2.2.1).map (fun n => (r, n)))

/-- Group HIF (R473): RING_ENABLED, BAD_ALIGN, BAD_SIZE, in that order. -/
def State.checkHif (s : State) (t : Tab Nat) : Option (Nat × Nat) :=
  if s.rdBit Reg.HIF_EN 0 && (s.alters t Reg.HIF_DB_ADDR_LO 0 || s.alters t Reg.HIF_DB_ADDR_HI 0) then some (1, 0x00700000)
  else
    match hifRingList.find? (fun r => s.rdBit r.1.1 r.2 && r.1.2.1.any (fun f => s.alters t f r.2)) with
    | some r => some (1, r.1.2.2.2.2.2 + 0x20 * r.2)
    | none =>
      match [Reg.HIF_DB_ADDR_LO, Reg.HIF_DQ_IDX_ADDR_LO, Reg.HIF_DQ_WB_ADDR_LO].find? (fun f => s.snap t f 0 % 4096 != 0) with
      | some f => some (2, f.base)
      | none =>
        match hifRingList.find? (fun r => s.snap t r.1.2.2.1 r.2 % 64 != 0) with
        | some r => some (2, r.1.2.2.2.2.2 + 0x20 * r.2)
        | none =>
          (hifRingList.find? (fun r => s.snap t r.1.2.2.2.1 r.2 < 6 || 16 < s.snap t r.1.2.2.2.1 r.2)).map
            (fun r => (3, r.1.2.2.2.2.2 + 0x20 * r.2 + 8))

/-- MiB of the 8 GiB of HBM that no placed queue's region takes (R498). -/
def State.hbmFree (s : State) : Nat :=
  8192 - (((s.qmg.qs.filter (fun e => e.2.hbm && !e.2.host)).map (fun e => 64 * e.2.size)).sum + 2 ^ 20 - 1) / 2 ^ 20

/-- Group QMG (R498). -/
def State.checkQmg (s : State) (t : Tab Nat) : Option (Nat × Nat) :=
  let base := s.snap t Reg.QMG_HOST_BASE 0
  let area := s.snap t Reg.QMG_HOST_HBM 0
  if (s.alters t Reg.QMG_HOST_BASE 0 || s.alters t Reg.QMG_HOST_HBM 0) && s.qmg.qs.any (fun e => e.2.host) then
    some (1, 0x00780000)
  else if s.placedCtxs.any (fun e => e.2.place.queues != 0 && base < e.2.place.queue + e.2.place.queues) then some (2, 0x00780000)
  else if 2048 < area || s.hbmFree < area then some (3, 0x00780004)
  else none

/-- A group's own check: its reason and the lowest offset read. -/
def State.checkGroup (s : State) (t : Tab Nat) (g : Nat) : Option (Nat × Nat) :=
  match g with
  | 5 => s.checkPrt t
  | 6 => s.checkRlk t
  | 12 => s.checkPar t
  | 14 => s.checkHif t
  | 15 => s.checkQmg t
  | _ => some (0x80, 0)

/-- The lowest group of a mask. -/
def lowest (mask : Nat) : Nat := ((groupsOf mask).head?).getD 0

/-- The first group of a request that fails its check (R516, R518, R520): LAST_GASP for all of them, else in ascending order,
each with the common reasons before its own. `bad` is the offset of a staged value with an uncorrectable error. -/
def State.checkCommit (s : State) (t : Tab Nat) (mask : Nat) (bad : Option Nat) : Option (Nat × Nat × Nat) :=
  if mask != 0 && s.gasping then some (lowest mask, 0x84, 0x00680010)
  else (groupsOf mask).findSome? (fun g =>
    if (cmtRuns g).isEmpty then some (g, 0x80, 0)
    else
      match bad with
      | some off => if off / 0x80000 = g then some (g, 0x82, off) else (s.checkGroup t g).map (fun r => (g, r))
      | none => (s.checkGroup t g).map (fun r => (g, r)))

/-! ### Requests -/

/-- A commit's events carry CAUSED where a host command asked for it (Table 14-8). -/
def asked (l : List (Nat × HostRef)) : Bool := !l.isEmpty

/-- A rejection (R519): recorded, counted, raised, and the REG_COMMITs refused. -/
def State.rejectCommit (s : State) (mask : Nat) (fail : Nat × Nat × Nat) (asks : List (Nat × HostRef)) : State :=
  let s1 := ((s.wr Reg.GLB_LAST_REJECT_GROUP 0 fail.1).wr Reg.GLB_LAST_REJECT_REASON 0 fail.2.1).wr Reg.GLB_LAST_REJECT_OFF 0 fail.2.2
  let s2 := (s1.count Reg.GLB_REJECT_CNT 0).say (asked asks) Ev.COMMIT_REJECT srcDevice
    [(4, mask), (1, fail.1), (1, fail.2.1), (2, 0), (4, fail.2.2)]
  asks.foldl (fun a e => a.complete e.2 Op.REG_COMMIT 2 1 [(4, 0), (1, fail.1), (1, fail.2.1), (2, 0), (4, fail.2.2)]) s2

/-- A rejection because the shaft is HALTED, at once (R520). The check reads SHF_STATE. -/
def State.rejectHalted (s : State) (mask : Nat) (asks : List (Nat × HostRef)) : State :=
  s.rejectCommit mask (lowest mask, 0x81, 0x00100004) asks

/-- A write of GLB_COMMIT (R515, R520): its bits request, and cleared bits cancel. -/
def State.writeCommit (s : State) (value : Nat) : State :=
  let v := value % 2 ^ 20
  if s.halted && v != 0 then (s.wr Reg.GLB_COMMIT 0 0).rejectHalted v []
  else
    let was := if s.regs.askedAt.1 = s.time then s.regs.askedAt.2 else 0
    let new := ((groupsOf v).filter (fun g => !bitOf (s.rd Reg.GLB_COMMIT 0) g || bitOf was g)).map (2 ^ ·) |>.sum
    ({ s with regs := { s.regs with askedAt := (s.time, new) } } : State).wr Reg.GLB_COMMIT 0 v

/-- GLB_COMMIT (R515): a host write of the register. -/
def execGlbCommit (dt value : Nat) (s : State) : Host.Outcome State Fault Refusal :=
  let s1 := s.elapse dt
  .next (if s1.inReset 0 then s1 else s1.writeCommit value)

/-- A write of GLB_DISCARD: the copy is made at the next cycle boundary (R518). -/
def State.writeDiscard (s : State) (value : Nat) : State :=
  let s1 := s.wr Reg.GLB_DISCARD 0 value
  if s1.halted || s1.rd Reg.GLB_DISCARD 0 = 0 then s1 else (s1.waitAddr (nextCycle s1.addr)).makeDiscards

/-- GLB_DISCARD (R518): a host write of the register. -/
def execGlbDiscard (dt value : Nat) (s : State) : Host.Outcome State Fault Refusal :=
  let s1 := s.elapse dt
  .next (if s1.inReset 0 then s1 else s1.writeDiscard value)

/-- REG_COMMIT (R515, R529): part of the request of the next cycle boundary. -/
def execRegCommit (dt : Nat) (h : HostRef) (mask : Nat) (s : State) : Host.Outcome State Fault Refusal :=
  .next (s.command dt h 0 Op.REG_COMMIT (fun a =>
    if 2 ^ 20 ≤ mask then a.refuse h Op.REG_COMMIT 2
    else if a.halted then a.rejectHalted mask [(mask, h)]
    else { a with regs := { a.regs with asks := a.regs.asks ++ [(a.time, mask, h)] } }))

/-- REG_DISCARD (R518, R529): as GLB_DISCARD; completes when the copy is made. -/
def execRegDiscard (dt : Nat) (h : HostRef) (mask : Nat) (s : State) : Host.Outcome State Fault Refusal :=
  .next (s.command dt h 0 Op.REG_DISCARD (fun a =>
    if 2 ^ 20 ≤ mask then a.refuse h Op.REG_DISCARD 2
    else
      let b : State := { a with regs := { a.regs with discards := a.regs.discards ++ [(mask, h)] } }
      if b.halted then b else (b.waitAddr (nextCycle b.addr)).makeDiscards))

/-! ### The outcome -/

/-- A lane or link whose fields a commit changed starts over. -/
def State.afterCommit (s : State) (old : State) (g : Nat) : State :=
  if g != 5 then s
  else
    let lanes := (List.range 80).filter (fun l => [Reg.PRT_LANE_MODE, Reg.PRT_LANE_SONET, Reg.PRT_LANE_FEC].any (fun f => s.rd f l != old.rd f l))
    let links := (List.range 32).filter (fun n => [Reg.PRT_TRB_EN, Reg.PRT_TRB_LAYOUT].any (fun f => s.rd f n != old.rd f n))
    links.foldl State.trbRestart (lanes.foldl State.laneRestart s)

/-- The active values of the groups become those of the snapshot; a value staged since stays staged (R516, R517). -/
def State.activate (s : State) (mask : Nat) (t : Tab Nat) : State :=
  ((groupsOf mask).flatMap groupFields).foldl (fun (a : State) (w : Fld × Nat) =>
    match tfind t (w.1.key w.2) with
    | none => a
    | some v =>
      let now := a.staged w.1 w.2
      let st := if now = v then tdel a.regs.staged (w.1.key w.2) else tset a.regs.staged (w.1.key w.2) now
      ({ a with regs := { a.regs with staged := st } } : State).wr w.1 w.2 v) s

/-- Measurement M3 takes the active values of every CMT field, in offset order (Table 18-5). -/
def State.measureCmt (s : State) : State :=
  s.extend 3 (Config.sha512 (((List.range 20).flatMap groupFields).flatMap (fun e => leBytes 4 (s.rd e.1 e.2))))

/-- The CTL and LCK fields of one record of a set (R587). -/
def State.applyRecord (s : State) (e : Nat × Nat) : State :=
  let off := e.1 / 4 * 4
  if off = 0x00980000 then s.writeTst e.2
  else
    s.afterWrite ((wordFields off).foldl (fun (a : State) (w : Fld × Nat) =>
      let v := bitsOf e.2 w.1.lo w.1.width
      match w.1.kind with
      | .ctl => a.wr w.1 w.2 v
      | .lck => if a.isLocked w.1 w.2 then a else a.lockField w.1 w.2 v
      | _ => a) s) off

/-- A load of a set ends rejected (R586, R590, R591). -/
def State.rejectLoad (s : State) (l : CfgLoad) (reason serial : Nat) (more : List (Nat × Nat)) : State :=
  let s1 : State := { s with sys := { s.sys with loading := none } }
  let s2 := s1.say l.host.isSome Ev.CONFIG_REJECTED srcDevice (configDetail reason l.source serial more)
  match l.host with
  | some h => s2.refuse h Op.CFG_LOAD reason
  | none => if reason = 0x1A then s2 else (s2.norBad (l.source - 1) reason).loadNor

/-- A set is in force (R587 to R589, R344): its CTL and LCK records are written; the first one lets the transmitters send and
starts performance monitoring. -/
def State.setInForce (s : State) (l : CfgLoad) (c : ConfigSet) : State :=
  let s1 := c.recs.foldl State.applyRecord s
  let first := !s1.sys.configured
  let s2 : State := { s1 with sys := { s1.sys with
    configured := true, since := if first then s1.time else s1.sys.since, serial := c.serial, cfgCrc := c.crc, source := l.source, loading := none,
    storing := if l.store then some c else s1.sys.storing, storeHost := if l.store then l.host else s1.sys.storeHost } }
  let s3 : State := if first then
      let a0 := s2.setTxIdle (s2.halted || s2.sys.fatal)
      let a : State := { a0 with pm := { s2.pm with running := true, nextTod := (s2.todNow + todSecond - 1) / todSecond } }
      ((List.range 8).filter (fun n => a.paired && a.rd Reg.PRT_LANE_MODE (72 + n) = 0)).foldl (fun b n => b.laneRestart (72 + n)) a
    else s2
  let s4 := s3.say l.host.isSome Ev.CONFIG_IN_FORCE srcDevice [(4, c.serial), (4, c.crc), (1, l.source)]
  match l.host with
  | some h => if l.store then s4 else s4.complete h Op.CFG_LOAD 0 0 [(4, c.serial), (4, c.crc)]
  | none => s4

/-- The part of an outcome that a configuration set has in it. -/
def State.finishSet (s : State) (fail : Option (Nat × Nat × Nat)) : State :=
  match s.sys.loading with
  | none => s
  | some l =>
    match l.set, fail with
    | some c, none => s.setInForce l c
    | some c, some f => (s.discardGroups c.mask).rejectLoad l 0x18 c.serial [(1, f.1), (1, f.2.1), (4, f.2.2)]
    | none, _ => s

/-- The outcome of the commit under way (R516, R518, R519): LAST_GASP is judged again. -/
def State.outcome (s : State) (r : CommitRun) : State :=
  let s1 : State := { s with regs := { s.regs with run := none, doneAt := (s.addr, r.mask) } }
  let s2 := s1.wr Reg.GLB_COMMIT_BUSY 0 (s1.rd Reg.GLB_COMMIT_BUSY 0 - Nat.land (s1.rd Reg.GLB_COMMIT_BUSY 0) r.mask)
  let fail := match r.fail with
    | some f => some f
    | none => if r.mask != 0 && s2.gasping then some (lowest r.mask, 0x84, 0x00680010) else none
  let s3 := match fail with
    | some f => s2.rejectCommit r.mask f r.asks
    | none =>
      let a := s2.activate r.mask r.staged
      let b := (groupsOf r.mask).foldl (fun (x : State) g => x.afterCommit s2 g) a
      let c := ((b.count Reg.GLB_COMMIT_CNT 0).measureCmt).say (asked r.asks) Ev.COMMIT_DONE srcDevice [(4, r.mask)]
      r.asks.foldl (fun (x : State) (e : Nat × HostRef) => x.complete e.2 Op.REG_COMMIT 0 0 [(4, r.mask), (1, 0xFF), (1, 0), (2, 0), (4, 0)]) c
  (if r.set then s3.finishSet fail else s3).makeDiscards

/-- COMMIT_OUTCOME (R516, R518, R519): at the position 0 after the snapshot. -/
def execCommitOutcome (dt : Nat) (s : State) : Host.Outcome State Fault Refusal :=
  let s1 := s.elapse dt
  .next (match s1.regs.run with
    | none => s1
    | some r => if s1.halted then s1 else (s1.waitAddr (min r.due (nextCycle s1.addr))).outcome r)

/-- The values that a snapshot holds: those staged before this clock, and those that a configuration set staged (R517, R587). -/
def State.snapshot (s : State) (mask : Nat) (set : Option ConfigSet) : Tab Nat :=
  let old := s.regs.fresh.filter (fun e => e.2.1 == s.time)
  let base := (s.regs.staged.filter (fun e => bitOf mask (keyGroup e.1)))
  let l := old.foldl (fun t e => if bitOf mask (keyGroup e.1) then tset t e.1 e.2.2 else t) base
  match set with
  | none => l
  | some c => c.recs.foldl (fun t e => ((wordFields (e.1 / 4 * 4)).filter (fun w => w.1.kind == .cmt)).foldl (fun u w =>
      tset u (w.1.key w.2) (bitsOf e.2 w.1.lo w.1.width)) t) l

/-- The groups that an ask list names. -/
def orMasks (l : List Nat) : Nat := l.foldl Nat.lor 0

/-- COMMIT_SNAPSHOT (R515 to R517, R520 to R522): at a cycle boundary, the requests made before its clock are one request. One
that names a group whose outcome falls at this boundary waits for the next. `bad` is the offset of a staged value that has an
uncorrectable error, if one has. -/
def execCommitSnapshot (dt : Nat) (bad : Option Nat) (s : State) : Host.Outcome State Fault Refusal :=
  let s0 := s.toBoundary dt Config.cyclePos
  .next (if s0.halted || s0.inReset 0 then s0
    else
      let s1 := match s0.regs.run with
        | some r => if r.due ≤ s0.addr then s0.outcome r else s0
        | none => s0
      let late := if s1.regs.askedAt.1 = s1.time then s1.regs.askedAt.2 else 0
      let all := s1.rd Reg.GLB_COMMIT 0
      let glb := all - Nat.land all late
      let asks := s1.regs.asks.filter (fun e => e.1 < s1.time)
      let set := if s1.regs.setAsk then (match s1.sys.loading with | some l => l.set | none => none) else none
      let mask := Nat.lor (Nat.lor glb (orMasks (asks.map (·.2.1)))) (match set with | some c => c.mask % 2 ^ 20 | none => 0)
      let busy := if s1.regs.doneAt.1 = s1.addr then s1.regs.doneAt.2 else 0
      if s1.regs.run.isSome || Nat.land mask busy != 0 || (glb = 0 && asks.isEmpty && !s1.regs.setAsk) then s1
      else
        let t := s1.snapshot mask set
        let run : CommitRun := { mask := mask, asks := asks.map (·.2), staged := t, fail := s1.checkCommit t mask bad,
                                 set := s1.regs.setAsk, due := s1.addr + Config.cyclePos }
        let s2 : State := { s1 with regs := { s1.regs with
          run := some run, asks := s1.regs.asks.filter (fun e => !(e.1 < s1.time)), setAsk := false } }
        (s2.wr Reg.GLB_COMMIT 0 (all - glb)).wr Reg.GLB_COMMIT_BUSY 0 (Nat.lor (s2.rd Reg.GLB_COMMIT_BUSY 0) mask))

end Sys2Proof.Machine
end

