-- ==== Sys2Proof/Machine/Assay.lean ====
section
/-! DEFINITION. The assay units (R530 to R545), with what an uncorrectable SRAM error does (R601, Table 20-2), which they
share with the scrubber. -/

namespace Sys2Proof.Machine

/-! ### Events raised at most once a second, folded -/

/-- An event raised at most once in a second for a source, for the occurrences since the last one: `mk` gives its detail
from their count, and FOLDED is set where it stands for several (R535, R598; log entry 45). -/
def State.raiseOnceFolded (s : State) (code n : Nat) (mk : Nat → List (Nat × Nat)) : State :=
  let k := rateKey code n
  let say (a : State) (c : Nat) : State :=
    let b := if c = 1 then a.raise code srcDevice (mk c) else a.raiseFolded code srcDevice (mk c)
    { b with io := { b.io with rates := tset b.io.rates k { window := b.time } } }
  match tfind s.io.rates k with
  | none => say s 1
  | some r =>
    if s.time < r.window + Config.secondPos then
      { s with io := { s.io with rates := tset s.io.rates k { r with raised := r.raised + 1 } } }
    else say s (r.raised + 1)

/-! ### Uncorrectable SRAM errors (Table 20-2) -/

/-- A context's record is lost: failure fill until the next swap, and its state fields restart as at placement (Tables 17-4,
20-2). A sealed sender has no proof of its counter, so it stops as R368 states (log entry 46). -/
def State.recordLost (s : State) (c : Nat) : State :=
  match s.ctx? c with
  | none => s
  | some x =>
    let s0 := (s.dropTubs c).startTubs c
    let s1 : State := { s0 with
      ovm := { s.ovm with ctxs := tset s.ovm.ctxs c { x with fail := true, redo := true } },
      map := { s.map with gfp := tdel s.map.gfp c, discards := tdel s.map.discards c, just := tdel s.map.just c } }
    let s2 := if (tfind s1.frm.units (srcCtx c)).isSome then s1.setFramer (srcCtx c) (s1.framer (srcCtx c)).restart else s1
    match s2.cip? c with
    | some y => s2.placeCipher c y.slot y.tx.epoch true
    | none => s2

/-- An entry of the active bank, or a word of an active page, acts as VALID = 0 until the next swap (Table 20-2). -/
def State.invalidate (s : State) (n : Nat) : State :=
  let bank := s.rd Reg.SHF_BANK_ACTIVE 0
  let page := s.rd Reg.MAP_PAGE_ACTIVE 0
  let k := n / 3
  match n % 3, bank, page with
  | 0, 0, _ => { s with shf := { s.shf with bank0 := tdel s.shf.bank0 k } }
  | 0, _, _ => { s with shf := { s.shf with bank1 := tdel s.shf.bank1 k } }
  | 1, _, 0 => { s with map := { s.map with tsi0 := tdel s.map.tsi0 k } }
  | 1, _, _ => { s with map := { s.map with tsi1 := tdel s.map.tsi1 k } }
  | _, _, 0 => { s with map := { s.map with grains0 := tdel s.map.grains0 k } }
  | _, _, _ => { s with map := { s.map with grains1 := tdel s.map.grains1 k } }

/-- A direction's cached keys are derived again, at once for the epoch in use (R359). -/
def State.cacheLost (s : State) (c dir : Nat) : State :=
  match s.cip? c with
  | none => s
  | some x =>
    let l := if dir = 0 then x.txCache else x.rxCache
    let now := if dir = 0 then x.tx.epoch else x.rx.pEpoch
    let y : CipCtx := if dir = 0 then { x with txCache := [] } else { x with rxCache := [] }
    l.foldl (fun a d => a.wantKey c dir d.epoch (if d.epoch = now then s.addr else noDeadline)) (s.setCip c y)

/-- Every direction that uses a slot stops with cause NO_KEY. -/
def State.slotLost (s : State) (k : Nat) : State :=
  ((s.cip.ctxs.filter (fun e => e.2.slot == k)).map (·.1)).foldl (fun a c => (a.stopDir c 0 3).stopDir c 1 3) s

/-- A hewer is reset (RST_HEWER_REQ), unless it is in reset already. -/
def State.resetHewer (s : State) (h : Nat) : State := if 95 < h || s.hewerReset h then s else s.enterHewerReset h

/-- Every intent is marked STRANDED. -/
def State.strandAll (s : State) : State :=
  { s with ovm := { s.ovm with intents := s.ovm.intents.map (fun e => if e.2.state = 4 then e else (e.1, { e.2 with state := 3 })) } }

/-- The structure of Table 20-2 is repaired. -/
def repaired (kind : Nat) : Bool := kind ≤ 6

/-- What an uncorrectable error does to its structure (Table 20-2, kinds in its order). A standby bank or page is built
again from the Overman's plan, so its contents stand. -/
def State.sramAction (s : State) (kind num : Nat) : State :=
  match kind with
  | 0 => s.recordLost num
  | 1 => s
  | 2 => s.invalidate num
  | 3 => s.resetHewer num
  | 4 => s.resetHewer num
  | 5 => s.cacheLost (num / 2) (num % 2)
  | 6 => match s.queue num with
    | some q => (s.resetQueue num).raise Ev.Q_PTR_RESET (srcQueue num) [(1, 3), (4, q.wp), (4, gray q.wp)]
    | none => s
  | 7 => s.slotLost num
  | 8 => s.strandAll
  | _ => s

/-- An uncorrectable SRAM error (R601, R410 cause 2): counted, reported, handled by structure; one that is not repaired
faults the unit, and one in the security block, timing block, shaft or host interface is a CHIP reset at once. -/
def State.sramBad (s : State) (addr kind num : Nat) : State :=
  let s1 := (s.count Reg.BKG_SRAM_UNCORR_CNT 0).raise Ev.SCRUB_UNCORRECTABLE srcDevice
    [(4, addr), (1, kind), (1, ofBool (repaired kind))]
  if kind = 9 then s1.chipReset 0
  else
    let s2 := s1.sramAction kind num
    if repaired kind then s2 else s2.selfFault 2

/-! ### Compare mode -/

/-- The unit compares: ASY_STATE is COMPARING and its bit of ASY_EN is set; units 4 and 5 have no compare mode. -/
def State.compares (s : State) (u : Nat) : Bool := s.rd Reg.ASY_STATE 0 == 1 && u < 4 && bitOf (s.rd Reg.ASY_EN 0) u

/-- A unit's pass. -/
def State.pass (s : State) (u : Nat) : PassSt := tget {} s.asy.passes u

/-- A unit's pass replaced. -/
def State.setPass (s : State) (u : Nat) (p : PassSt) : State := { s with asy := { s.asy with passes := tset s.asy.passes u p } }

/-- The unit that guards a kind of structure (Table 17-1). -/
def guardUnit (kind : Nat) : Nat := if kind ≤ 1 then 0 else if kind = 2 then 1 else if kind = 3 then 2 else 3

/-- A unit begins a pass. -/
def State.startPass (s : State) (u : Nat) : State :=
  ((s.setPass u { since := s.time }).wr Reg.ASY_POS u 0).wr Reg.ASY_PASS_LATE u 0

/-- ASY_CHECKs no longer wait for a unit; those that wait for none complete (R545). -/
def State.checksDone (s : State) (u : Nat) : State :=
  let l := s.asy.checks.map (fun e => (e.1.filter (fun v => v != u), e.2))
  let s1 : State := { s with asy := { s.asy with checks := l.filter (fun e => !e.1.isEmpty) } }
  (l.filter (fun e => e.1.isEmpty)).foldl (fun a e => a.done e.2 Op.ASY_CHECK) s1

/-- The unit is done with a granule: it moves on, or its pass ends and the next begins (R534). -/
def State.nextGranule (s : State) (g : Granule) : State :=
  let s1 := (s.setPass g.unit { s.pass g.unit with attempts := 0, next := g.index + 1 }).wr Reg.ASY_POS g.unit g.index
  if g.last then ((s1.count Reg.ASY_PASS_CNT g.unit).startPass g.unit).checksDone g.unit else s1

/-- The kind of Table 20-2 of a granule's structure; 10 for a configuration group, which the table does not list. -/
def granuleKind (g : Granule) : Nat :=
  match g.kind with
  | 0 => 1
  | 1 => 2
  | 2 => 0
  | 3 => 10
  | 4 => 3
  | _ => 8

/-- A MISMATCH (R536, Table 17-4): reported and counted; every action but a standby page's is a fault (R410 cause 3). -/
def State.mismatch (s : State) (g : Granule) (sum cause : Nat) : State :=
  let s1 := (s.count Reg.ASY_MISMATCH_CNT g.unit).raise Ev.ASSAY_MISMATCH srcDevice
    [(1, g.unit), (2, g.index), (4, g.stored), (4, sum), (1, cause)]
  let s2 := match g.kind with
    | 2 => s1.recordLost g.num
    | 4 => s1.resetHewer g.num
    | 5 => s1.ovmRestart []
    | _ => s1
  if g.kind = 0 then s2 else s2.selfFault 3

/-- A PASS: a corrected check word is written back and reported (Table 17-3). -/
def State.passed (s : State) (g : Granule) : State :=
  if g.word = 1 then
    (s.count Reg.ASY_CORR_CNT g.unit).raiseOnceFolded Ev.CHECK_CORRECTED g.unit (fun n => [(1, g.unit), (4, n)])
  else s

/-- A check that would pass, unless a test alters it (Table 20-3). -/
def State.passOrAlter (s : State) (g : Granule) (sum : Nat) (pass : State → State) : State :=
  let r := s.alterCheck g.unit
  if r.2 then r.1.mismatch g sum 0 else pass r.1

/-- The two recomputations of a granule's check word (R535): CRC-32C over the data as each read gives it. -/
def sumA (g : Granule) : Nat := crc32c g.dataA
def sumB (g : Granule) : Nat := crc32c g.dataB

/-- The outcome of a granule's comparison (Table 17-3). -/
def State.compare (s : State) (g : Granule) : State :=
  if g.memErr then s.sramBad (Config.freeChoice s.freeCtr) (granuleKind g) g.num
  else if g.word ≤ 1 then
    if sumA g = g.stored then s.passOrAlter g (sumA g) (fun a => a.passed g)
    else if sumB g = g.stored then s.passOrAlter g (sumB g) (fun a => (a.count Reg.ASY_RETRY_CNT g.unit).passed g)
    else s.mismatch g (sumB g) 0
  else if sumA g = sumB g then
    (s.count Reg.ASY_REGEN_CNT g.unit).raise Ev.CHECK_REGENERATED srcDevice
      [(1, g.unit), (2, g.index), (4, g.stored), (4, sumA g)]
  else s.mismatch g (sumB g) 1

/-- A granule whose structure was written between the unit's reads is abandoned, and skipped after three attempts (R537). -/
def State.abandonGranule (s : State) (g : Granule) : State :=
  let n := (s.pass g.unit).attempts + 1
  if n < 3 then s.setPass g.unit { s.pass g.unit with attempts := n }
  else ((s.count Reg.ASY_SKIP_CNT g.unit).raise Ev.ASSAY_SKIP srcDevice [(1, g.unit), (2, g.index)]).nextGranule g

/-- ASSAY_GRANULE_CHECK (R530, R534 to R537): the next granule of a unit's pass, in ascending order. A CHIP reset that the error
brings leaves no pass to go on with. -/
def execAssayGranuleCheck (dt : Nat) (g : Granule) (s : State) : Host.Outcome State Fault Refusal :=
  let s1 := s.elapse dt
  .next (if !s1.compares g.unit || guardUnit g.kind != g.unit || g.index < (s1.pass g.unit).next then s1
    else if g.written then s1.abandonGranule g
    else
      let s2 := s1.compare g
      let s3 := if g.memErr then s2.draw else s2
      if s3.compares g.unit then s3.nextGranule g else s3)

/-- ASY_PERIOD in positions (0 acts as 1), four times as long under lever 1 (Table 20-1). -/
def State.asyPeriod (s : State) : Nat :=
  max 1 (s.rd Reg.ASY_PERIOD 0) * Config.secondPos * (if s.rdBit Reg.BKG_THROTTLED 0 then 4 else 1)

/-- ASSAY_PASS_LATE (R534, R597): a unit's pass reaches twice the period. -/
def execAssayPassLate (dt unit : Nat) (s : State) : Host.Outcome State Fault Refusal :=
  let s1 := s.elapse dt
  .next (if !s1.compares unit || s1.rdBit Reg.ASY_PASS_LATE unit then s1
    else
      let s2 := s1.untilTime 0 ((s1.pass unit).since + 2 * s1.asyPeriod)
      (s2.wr Reg.ASY_PASS_LATE unit 1).raise Ev.ASSAY_PASS_LATE srcDevice [(1, unit), (2, s2.rd Reg.ASY_POS unit)])

/-- ASSAY_COMPARE_START (R543): at the first cycle boundary after the first configuration set is in force. -/
def execAssayCompareStart (dt : Nat) (s : State) : Host.Outcome State Fault Refusal :=
  let s1 := s.elapse dt
  .next (if !s1.sys.configured || s1.halted || s1.rd Reg.ASY_STATE 0 != 0 then s1
    else
      let s2 := (s1.waitAddr (if s1.addr = s1.regs.doneAt.1 then nextCycle s1.addr else ceilTo Config.cyclePos s1.addr)).tstTake
      [0, 1, 2, 3].foldl State.startPass (s2.wr Reg.ASY_STATE 0 1))

/-! ### Append/strip mode -/

/-- The TYPE of the transfer units that a unit strips (Table 17-5). -/
def unitType (u : Nat) : Nat := if u = 2 then 1 else if u = 3 then 2 else 3

/-- A transfer unit as its bytes spell it (Table 17-5): LENGTH, alive counter, TYPE, data, and whether the CRC-32C over all before it
passes. -/
structure XferUnit where
  length : Nat
  alive  : Nat
  typ    : Nat
  data   : List Nat
  crcOk  : Bool
  deriving DecidableEq, Repr

/-- What a transfer unit's bytes spell. -/
def readXfer (b : List Nat) : XferUnit :=
  let n := leNum (b.take 4)
  { length := n, alive := b.getD 4 0, typ := b.getD 5 0, data := slice b 8 n,
    crcOk := b.length == 12 + n && leNum (slice b (8 + n) 4) == crc32c (b.take (8 + n)) }

/-- The bytes of a transfer unit with fresh checks (Table 17-5, R542). -/
def xferBytes (alive typ : Nat) (data : List Nat) : List Nat :=
  let b := leBytes 4 data.length ++ [alive, typ, 0, 0] ++ data
  b ++ leBytes 4 (crc32c b)

/-- Why a transfer unit is refused (R540), by its reason of Table 17-9. -/
def XferSt.reason (x : XferSt) (typ : Nat) (u : XferUnit) : Option Nat :=
  if x.units != 0 && u.alive = x.alive then some 4
  else if u.alive != x.alive % 255 + 1 then some 5
  else if !u.crcOk || u.typ != typ || u.length = 0 || 65536 < u.length then some 3
  else none

/-- A transfer unit is stripped (R540): once one is refused, so is the whole transfer, and nothing of it reaches the consumer. -/
def State.strip (s : State) (unit : Nat) (caused : Bool) (x : XferSt) (b : List Nat) : State × XferSt :=
  if x.refused.isSome then (s, x)
  else
    let u := readXfer b
    let r := x.reason (unitType unit) u
    let t := if r.isNone then s.alterCheck unit else (s, false)
    let y : XferSt := { x with typ := unitType unit, units := x.units + 1, alive := u.alive, data := x.data ++ u.data }
    match if t.2 then some 3 else r with
    | none => (t.1, y)
    | some c =>
      ((t.1.count Reg.ASY_SUSPECT_CNT 0).say caused Ev.CHECK_SUSPECT srcDevice [(1, unit), (1, u.typ), (4, x.units), (1, c)],
       { y with refused := some (c, x.units), data := [] })

/-- A transfer comes through a unit: a configuration set being loaded (unit 2), or an image being staged (unit 3). -/
def State.transferOpen (s : State) (unit : Nat) : Bool :=
  (unit == 2 && (match s.sys.loading with | some l => l.set.isNone | none => false)) || (unit == 3 && s.sec.staging.isSome)

/-- A transfer is the effect of a host command: the load of a set from the host, or an image's stage. -/
def State.transferCaused (s : State) (unit : Nat) : Bool :=
  unit == 3 || (match s.sys.loading with | some l => l.host.isSome | none => false)

/-- TRANSFER_UNIT_RX (R539 to R541). -/
def execTransferUnitRx (dt unit : Nat) (u : List Nat) (s : State) : Host.Outcome State Fault Refusal :=
  let s1 := s.elapse dt
  .next (if !s1.transferOpen unit then s1
    else
      let r := s1.strip unit (s1.transferCaused unit) (tget {} s1.asy.xfers unit) u
      { r.1 with asy := { r.1.asy with xfers := tset r.1.asy.xfers unit r.2 } })

/-- The units of a whole transfer, stripped in order: the state after, and the transfer. -/
def State.stripAll (s : State) (unit : Nat) (l : List (List Nat)) : State × XferSt :=
  l.foldl (fun r u => r.1.strip unit true r.2 u) (s, {})

/-! ### Commands -/

/-- ASY_CHECK (R545): each named unit restarts its pass at the next cycle boundary. Units that do not compare have no pass
to wait for. -/
def execAsyCheck (dt : Nat) (h : HostRef) (mask : Nat) (s : State) : Host.Outcome State Fault Refusal :=
  .next (s.command dt h 0 Op.ASY_CHECK (fun a =>
    if 64 ≤ mask then a.refuse h Op.ASY_CHECK 1
    else if a.rd Reg.ASY_STATE 0 != 1 then a.refuse h Op.ASY_CHECK 2
    else
      let b := a.waitAddr (nextCycle a.addr)
      let l := (List.range 4).filter (fun u => bitOf mask u && b.compares u)
      let c := l.foldl State.startPass b
      if l.isEmpty then c.done h Op.ASY_CHECK
      else { c with asy := { c.asy with checks := c.asy.checks ++ [(l, h)] } }))

/-- ASY_LOOPBACK (R542): loopback units are stripped, carried through HBM with fresh checks, stripped again as they come back, and
their data written. -/
def execAsyLoopback (dt : Nat) (h : HostRef) (src dst bytes : Nat) (units back : List (List Nat)) (s : State) :
    Host.Outcome State Fault Refusal :=
  .next (s.command dt h 0 Op.ASY_LOOPBACK (fun a =>
    if src % 64 != 0 || dst % 64 != 0 || bytes = 0 then a.refuse h Op.ASY_LOOPBACK 1
    else
      let p := a.stripAll 5 units
      let q := if p.2.refused.isSome then p else p.1.stripAll 5 back
      match q.2.refused with
      | some r => q.1.complete h Op.ASY_LOOPBACK 2 r.1 [(4, r.2)]
      | none => (q.1.hostWrite dst q.2.data).complete h Op.ASY_LOOPBACK 0 0 [(4, q.2.units)]))

end Sys2Proof.Machine
end

