-- ==== Sys2Proof/Machine/Security.lean ====
section
/-! DEFINITION. The security block (R546 to R566): images, lifecycle, operator commands, challenges, attestation, debug. -/

namespace Sys2Proof.Machine

/-- A SEC command ends with the reason of an envelope's cause (Table 18-12). -/
def State.envRefuse (s : State) (h : HostRef) (op cause : Nat) : State := s.refuse h op (cause + 1)

/-! ### Images (Table 18-2) -/

/-- The fields of a Klosis header (Table 18-3), in the bytes of its image. -/
def imgKeyIndex (b : List Nat) : Nat := b.getD 5 0
def imgSvn (b : List Nat) : Nat := b.getD 6 0
def imgRevoke (b : List Nat) : Nat := b.getD 7 0 % 16
def imgCount (b : List Nat) : Nat := leNum (slice b 16 2)
def imgKey (b : List Nat) : List Nat := slice b 32 32
def imgHeader (b : List Nat) : List Nat := slice b 0 256

/-- The section table, and entry i of it (Table 18-4). -/
def imgTable (b : List Nat) : List Nat := slice b 256 (96 * imgCount b)
def imgEntry (b : List Nat) (i : Nat) : List Nat := slice b (256 + 96 * i) 96

/-- The bytes of the section that an entry places. -/
def imgSection (b e : List Nat) : List Nat := slice b (leNum (slice e 4 4)) (leNum (slice e 8 4))

/-- The section table's entries. -/
def imgEntries (b : List Nat) : List (List Nat) := (List.range (imgCount b)).map (imgEntry b)

/-- The header and the section table have their form (check 2 of Table 18-2): magic, format, 1 to 32 sections, known targets. -/
def imgForm (b : List Nat) : Bool :=
  slice b 0 4 == [0x4B, 0x4C, 0x4F, 0x53] && b.getD 4 0 == 1 && 1 ≤ imgCount b && imgCount b ≤ 32 &&
    (imgEntries b).all (fun e => 1 ≤ e.getD 0 0 && e.getD 0 0 ≤ 4)

/-- The section table and every section have the SHA-512 that stands for them (check 6 of Table 18-2). -/
def imgHashes (b : List Nat) : Bool :=
  Config.sha512 (imgTable b) == leNum (slice b 64 64) &&
    (imgEntries b).all (fun e => Config.sha512 (imgSection b e) == leNum (slice e 32 64))

/-- The first check of Table 18-2 that an image fails, 0 if none; `moved` says that every transfer unit passed its check. -/
def State.imageStatus (s : State) (moved : Bool) (b : List Nat) : Nat :=
  let k := imgKeyIndex b
  if !moved then 1
  else if !imgForm b then 2
  else if 3 < k || Config.sha512 (imgKey b) != Config.romKey k || bitOf (s.rd Reg.SEC_VKEY_REVOKED 0) k then 3
  else if !Config.verifies (imgKey b) (slice b 0 192) (slice b 192 64) then 4
  else if 63 < imgSvn b || imgSvn b < s.rd Reg.SEC_SVN_OTP 0 then 5
  else if !imgHashes b then 6
  else 0

/-- The image slot that did not boot (R554). -/
def State.otherSlot (s : State) : Nat := 1 - s.rd Reg.SEC_BOOT_SLOT 0

/-- The other slot holds an image that would boot. -/
def State.otherBoots (s : State) : Bool :=
  match tfind s.sec.imgs s.otherSlot with
  | some img => s.imageStatus true img == 0
  | none => false

/-! ### The TRNG -/

/-- SEC_TRNG_FAIL (R548): a health test fails or recovers. -/
def execSecTrngFail (dt test : Nat) (fails : Bool) (s : State) : Host.Outcome State Fault Refusal :=
  let s1 := s.elapse dt
  .next (if s1.sec.failing.contains test == fails then s1
    else
      let l := if fails then s1.sec.failing ++ [test] else s1.sec.failing.filter (fun t => t != test)
      ((({ s1 with sec := { s1.sec with failing := l } } : State).wrBit Reg.SEC_TRNG_OK 0 l.isEmpty).raise Ev.SEC_TRNG_FAIL
        srcDevice [(1, test), (1, ofBool fails)]))

/-! ### Challenges -/

/-- A fresh nonce is held (R562): the old one is replaced. -/
def State.issueNonce (s : State) (n : Nat) : State :=
  let s1 : State := { s with sec := { s.sec with nonceAt := s.time } }
  (List.range 8).foldl (fun a i => a.wr Reg.SEC_NONCE i (n / 2 ^ (32 * i))) (s1.wrBit Reg.SEC_NONCE_VALID 0 true)

/-- SEC_CHALLENGE (R562). -/
def execSecChallenge (dt : Nat) (h : HostRef) (host : Nat) (s : State) : Host.Outcome State Fault Refusal :=
  .next (s.command dt h 0 Op.SEC_CHALLENGE (fun a =>
    if host % 64 != 0 then a.refuse h Op.SEC_CHALLENGE 1
    else if !a.rdBit Reg.SEC_TRNG_OK 0 then a.refuse h Op.SEC_CHALLENGE 0x0A
    else
      let n := Config.freeRandom a.freeCtr % 2 ^ 256
      ((a.draw.issueNonce n).hostWrite host (leBytes 32 n)).complete h Op.SEC_CHALLENGE 0 0 [(12, n % 2 ^ 96)]))

/-- NONCE_EXPIRY (R562): 600 s after its issue. -/
def execNonceExpiry (dt : Nat) (s : State) : Host.Outcome State Fault Refusal :=
  let s1 := s.elapse dt
  .next (if s1.rdBit Reg.SEC_NONCE_VALID 0 then (s1.untilTime 0 (s1.sec.nonceAt + 600 * Config.secondPos)).dropNonce else s1)

/-! ### Attestation -/

/-- The shaft address of the doorbell read that delivered a command; now, where none has been made. -/
def State.readAddr (s : State) : Nat :=
  match s.shf.lastRead with
  | some c => min s.addr (c * Config.cyclePos + s.doorbellPos)
  | none => s.addr

/-- Bytes 0 to 639 of the attestation report (Table 18-6), with the measurements as they stood at the doorbell read (R556). -/
def State.report (s : State) (nonce : List Nat) : List Nat :=
  let at_ : State := { s with addr := s.readAddr }
  let slot := s.rd Reg.SEC_OPKEY_SLOT 0
  let meas := s.sec.measRead.getD s.sec.meas
  [0x45, 0x4B, 0x41, 0x54, 1, s.rd Reg.SEC_LIFECYCLE 0, s.rd Reg.SEC_SVN_OTP 0, s.rd Reg.SEC_SVN_RUN 0] ++ leBytes 8 s.serial ++
    leBytes 8 (stampOf s.readAddr) ++ leBytes 6 at_.todSec ++
    [s.unitBit + 2 * ofBool s.paired + 4 * ofBool (s.rdBit Reg.SEC_DEBUG 0), if slot < 4 then slot else 0xFF] ++
    (nonce ++ List.replicate 32 0).take 32 ++ ((List.range 8).flatMap (fun i => leBytes 64 (tget 0 meas i))) ++
    leBytes 2 (s.rd Reg.CIP_PAIR_ID 0) ++ leBytes 2 (s.rd Reg.CIP_ROOT_STATE 0) ++ List.replicate 60 0

/-- SEC_ATTEST (R556): the report, signed with the identity key. -/
def execSecAttest (dt : Nat) (h : HostRef) (nonce : List Nat) (host : Nat) (s : State) : Host.Outcome State Fault Refusal :=
  .next (s.command dt h 0 Op.SEC_ATTEST (fun a =>
    if host % 64 != 0 then a.refuse h Op.SEC_ATTEST 1
    else if a.rd Reg.SEC_LIFECYCLE 0 = 3 then a.refuse h Op.SEC_ATTEST 8
    else if !a.rdBit Reg.SEC_TRNG_OK 0 then a.refuse h Op.SEC_ATTEST 0x0A
    else (a.hostWrite host (a.report nonce ++ leBytes 64 (Config.identitySign a.serial (a.report nonce)))).done h Op.SEC_ATTEST))

/-- The identity certificate (R557): its length, 1 to 1,024, and its bytes are those of the part. -/
def State.certificate (s : State) : List Nat :=
  leBytes (Config.freeCrypto (2 * s.serial) % 1024 + 1) (Config.freeCrypto (2 * s.serial + 1))

/-- SEC_CERT_READ (R557). -/
def execSecCertRead (dt : Nat) (h : HostRef) (host : Nat) (s : State) : Host.Outcome State Fault Refusal :=
  .next (s.command dt h 0 Op.SEC_CERT_READ (fun a =>
    (a.hostWrite host a.certificate).complete h Op.SEC_CERT_READ 0 0 [(2, a.certificate.length)]))

/-! ### Lifecycle -/

/-- The operator key in force is written to a slot (R546, R547). -/
def State.takeOpkey (s : State) (slot : Nat) (key : List Nat) : State :=
  ({ s with sec := { s.sec with opkeys := tset s.sec.opkeys slot (key.take 32) } } : State).wr Reg.SEC_OPKEY_SLOT 0 slot

/-- The crash slots of NOR are erased. -/
def State.eraseCrash (s : State) : State :=
  { s with eng := (List.range 2).foldl (fun e k =>
      if (tfind e.slots k).isSome then
        { e with slots := tdel e.slots k, erases := e.erases + 1, erasedAt := tset e.erasedAt k (e.erases + 1) }
      else e) s.eng }

/-- A move of the lifecycle takes effect (R559): into state `new`, with the payload of its envelope. -/
def State.moveLifecycle (s : State) (new : Nat) (payload : List Nat) : State :=
  let s1 :=
    match new with
    | 1 => s.takeOpkey 0 (payload.drop 4)
    | 2 => s.eraseAll true
    | _ =>
      let a := s.eraseAll true
      ({ a with sec := { a.sec with idGone := true } } : State).eraseCrash
  (s1.wr Reg.SEC_LIFECYCLE 0 new).raiseC Ev.SEC_LIFECYCLE_CHANGED srcDevice [(1, s.rd Reg.SEC_LIFECYCLE 0), (1, new)]

/-- SEC_LIFECYCLE (R559 to R562): forward by one state. -/
def execSecLifecycle (dt : Nat) (h : HostRef) (e : List Nat) (s : State) : Host.Outcome State Fault Refusal :=
  .next (s.command dt h 0 Op.SEC_LIFECYCLE (fun a =>
    let now := a.rd Reg.SEC_LIFECYCLE 0
    if now = 3 then a.refuse h Op.SEC_LIFECYCLE 8
    else match a.checkEnvelope Op.SEC_LIFECYCLE (now == 0) true e with
      | (b, .error c) => b.envRefuse h Op.SEC_LIFECYCLE c
      | (b, .ok p) =>
        let new := p.getD 0 0
        if new = 0 || 3 < new then b.refuse h Op.SEC_LIFECYCLE 1
        else if new != now + 1 then b.refuse h Op.SEC_LIFECYCLE 8
        else (b.moveLifecycle new p).done h Op.SEC_LIFECYCLE))

/-- An operator key may be used in this lifecycle state (Table 18-7). -/
def State.operatorState (s : State) : Bool := s.rd Reg.SEC_LIFECYCLE 0 == 1 || s.rd Reg.SEC_LIFECYCLE 0 == 2

/-- SEC_OPKEY_ROTATE (R546, R547, R560): the next operator slot is written. -/
def execSecOpkeyRotate (dt : Nat) (h : HostRef) (e : List Nat) (s : State) : Host.Outcome State Fault Refusal :=
  .next (s.command dt h 0 Op.SEC_OPKEY_ROTATE (fun a =>
    if !a.operatorState then a.refuse h Op.SEC_OPKEY_ROTATE 8
    else match a.checkEnvelope Op.SEC_OPKEY_ROTATE false true e with
      | (b, .error c) => b.envRefuse h Op.SEC_OPKEY_ROTATE c
      | (b, .ok p) =>
        let slot := b.rd Reg.SEC_OPKEY_SLOT 0
        if 3 ≤ slot then b.refuse h Op.SEC_OPKEY_ROTATE 9 else (b.takeOpkey (slot + 1) p).done h Op.SEC_OPKEY_ROTATE))

/-! ### Anti-rollback -/

/-- The revocation bits that a commit of the running image sets: never its own key's (R553). -/
def State.revokes (s : State) : Nat :=
  match s.sec.run with
  | some img => ((List.range 4).filter (fun k => bitOf (imgRevoke img) k && k != imgKeyIndex img)).map (2 ^ ·) |>.sum
  | none => 0

/-- SEC_SVN_COMMIT runs (R552, R553): steps are blown up to the running image's SVN. -/
def State.commitSvn (s : State) (h : HostRef) : State :=
  let old := s.rd Reg.SEC_SVN_OTP 0
  let new := max old (s.rd Reg.SEC_SVN_RUN 0)
  let had := s.rd Reg.SEC_VKEY_REVOKED 0
  let all := Nat.lor had s.revokes
  let s1 := (s.wr Reg.SEC_SVN_OTP 0 new).wr Reg.SEC_VKEY_REVOKED 0 all
  let s2 := if new = old then s1 else s1.raiseC Ev.SEC_SVN_ADVANCED srcDevice [(1, old), (1, new), (1, all - had)]
  if s.otherBoots && !s2.otherBoots then s2.complete h Op.SEC_SVN_COMMIT 1 0x0E []
  else if new = old then s2.complete h Op.SEC_SVN_COMMIT 1 0x0D []
  else s2.done h Op.SEC_SVN_COMMIT

/-- SEC_SVN_COMMIT (R552 to R554): one that arrives during a stage waits until it completes. -/
def execSecSvnCommit (dt : Nat) (h : HostRef) (s : State) : Host.Outcome State Fault Refusal :=
  .next (s.command dt h 0 Op.SEC_SVN_COMMIT (fun a =>
    if a.sec.staging.isSome then { a with sec := { a.sec with svnWaits := a.sec.svnWaits ++ [h] } } else a.commitSvn h))

/-! ### Image staging -/

/-- SEC_IMAGE_STAGE (R554): an image for the slot that did not boot is read. -/
def execSecImageStage (dt : Nat) (h : HostRef) (length : Nat) (s : State) : Host.Outcome State Fault Refusal :=
  .next (s.command dt h 0 Op.SEC_IMAGE_STAGE (fun a =>
    if length = 0 then a.refuse h Op.SEC_IMAGE_STAGE 1
    else if a.sec.staging.isSome then a.refuse h Op.SEC_IMAGE_STAGE 0x0B
    else
      let b : State := { a with sec := { a.sec with staging := some h }, asy := { a.asy with xfers := tdel a.asy.xfers 3 } }
      b.wrBit Reg.SEC_STAGING 0 true))

/-- The image that a stage has read is judged and written, or leaves its slot erased (R554, R555). -/
def State.endStage (s : State) (h : HostRef) : State :=
  let slot := s.otherSlot
  let x := tget {} s.asy.xfers 3
  let img := x.data
  let status := s.imageStatus (x.refused.isNone && x.units != 0) img
  let s1 : State := { s with sec := { s.sec with
    staging := none, svnWaits := [],
    imgs := if status = 0 then tset s.sec.imgs slot img else tdel s.sec.imgs slot } }
  let s2 := s1.wrBit Reg.SEC_STAGING 0 false
  let s3 := if status = 0 then s2.extend 6 (Config.sha512 (imgHeader img)) else s2
  let s4 := s3.raiseC Ev.SEC_IMAGE_STAGED srcDevice [(1, slot), (1, imgSvn img), (1, status)]
  let s5 := if status = 0 then s4.done h Op.SEC_IMAGE_STAGE else s4.refuse h Op.SEC_IMAGE_STAGE 0x0C
  s.sec.svnWaits.foldl State.commitSvn s5

/-- SEC_IMAGE_STAGED (R554): the stage completes or fails, and the commits that waited for it run. -/
def execSecImageStaged (dt : Nat) (s : State) : Host.Outcome State Fault Refusal :=
  let s1 := s.elapse dt
  .next (match s1.sec.staging with
    | some h => s1.endStage h
    | none => s1)

/-! ### The debug port -/

/-- The digest that a debug unlock or lock extends M5 with (Table 18-5). -/
def debugDigest (scope minutes slot : Nat) : Nat := Config.sha512 ([scope] ++ leBytes 2 minutes ++ [slot])

/-- The port opens (R564, R555): at scope FULL the unit faults itself in pair operation (R410 cause 2). -/
def State.openDebug (s : State) (scope minutes slot : Nat) (h : HostRef) : State :=
  let s1 : State := { s with
    sec := { s.sec with opening := none, debugSlot := slot, closeAt := s.time + minutes * 60 * Config.secondPos } }
  let s2 := ((s1.wr Reg.SEC_DEBUG 0 scope).extend 5 (debugDigest scope minutes slot)).raiseC Ev.SEC_DEBUG srcDevice
    [(1, scope), (1, 1), (4, minutes)]
  let full := s.rd Reg.SEC_DEBUG 0 == 3
  let s3 := if scope = 3 && !full then
      ({ s2 with sys := { s2.sys with faultsHeld := 2 :: s2.sys.faultsHeld } } : State).selfFault 2
    else if scope != 3 && full then { s2 with sys := { s2.sys with faultsHeld := s2.sys.faultsHeld.erase 2 } }
    else s2
  s3.done h Op.SEC_DEBUG_UNLOCK

/-- The port that waits for keys to be erased opens once none is left erasing (R564). -/
def State.tryOpen (s : State) : State :=
  match s.sec.opening with
  | some (scope, minutes, slot, h) => if s.cip.slots.any (fun e => e.2.erasing) then s else s.openDebug scope minutes slot h
  | none => s

/-- The port closes (R564). -/
def State.closeDebug (s : State) (caused : Bool) : State :=
  let scope := s.rd Reg.SEC_DEBUG 0
  let s1 := (s.wr Reg.SEC_DEBUG 0 0).say caused Ev.SEC_DEBUG srcDevice [(1, scope), (1, 0), (4, 0)]
  if scope = 3 then { s1 with sys := { s1.sys with faultsHeld := s1.sys.faultsHeld.erase 2 } } else s1

/-- SEC_DEBUG_UNLOCK (R560, R564): in OPERATIONAL, scope FULL first erases every slot. -/
def execSecDebugUnlock (dt : Nat) (h : HostRef) (e : List Nat) (s : State) : Host.Outcome State Fault Refusal :=
  .next (s.command dt h 0 Op.SEC_DEBUG_UNLOCK (fun a =>
    if !a.operatorState then a.refuse h Op.SEC_DEBUG_UNLOCK 8
    else match a.checkEnvelope Op.SEC_DEBUG_UNLOCK false true e with
      | (b, .error c) => b.envRefuse h Op.SEC_DEBUG_UNLOCK c
      | (b, .ok p) =>
        let scope := p.getD 0 0
        let minutes := p.getD 2 0 + 256 * p.getD 3 0
        if scope = 0 || 3 < scope || minutes = 0 || 1440 < minutes then b.refuse h Op.SEC_DEBUG_UNLOCK 1
        else if scope = 3 && b.rd Reg.SEC_LIFECYCLE 0 = 2 then
          let c := b.eraseAll true
          ({ c with sec := { c.sec with opening := some (scope, minutes, envSlot e, h) } } : State).tryOpen
        else b.openDebug scope minutes (envSlot e) h))

/-- SEC_DEBUG_LOCK (R564, R555). -/
def execSecDebugLock (dt : Nat) (h : HostRef) (s : State) : Host.Outcome State Fault Refusal :=
  .next (s.command dt h 0 Op.SEC_DEBUG_LOCK (fun a =>
    if a.rd Reg.SEC_DEBUG 0 = 0 then a.done h Op.SEC_DEBUG_LOCK
    else ((a.extend 5 (debugDigest (a.rd Reg.SEC_DEBUG 0) 0 a.sec.debugSlot)).closeDebug true).done h Op.SEC_DEBUG_LOCK))

/-- DEBUG_EXPIRY (R564): the duration ends. -/
def execDebugExpiry (dt : Nat) (s : State) : Host.Outcome State Fault Refusal :=
  let s1 := s.elapse dt
  .next (if s1.rd Reg.SEC_DEBUG 0 = 0 then s1 else (s1.untilTime 0 s1.sec.closeAt).closeDebug false)

/-! ### Keys that drain -/

/-- HALF_ZEROISE (R380, R381, R564): a slot whose erase has drained is zeroised; else a half that has been used, that
no epoch falls in and no block in flight needs. -/
def execHalfZeroise (dt slot : Nat) (s : State) : Host.Outcome State Fault Refusal :=
  let s1 := s.elapse dt
  let x := s1.keySlot slot
  let old (i : Nat) : Bool := match x.half i with
    | some h => h.used && !s1.halfInUse slot i && !s1.halfInFlight slot i
    | none => false
  .next (if x.erasing then (s1.finishErase slot false).tryOpen
    else if old 0 then s1.setSlot slot { x with h0 := none }
    else if old 1 then s1.setSlot slot { x with h1 := none }
    else s1)

end Sys2Proof.Machine
end

