-- ==== Sys2Proof/Machine/Startup.lean ====
section
/-! DEFINITION. Start-up and configuration sets (R567 to R576, R584 to R593, R549): the boot ROM, self-test, and the loading
of sets. -/

namespace Sys2Proof.Machine

/-! ### The boot ROM -/

/-- The image of a candidate list with the highest SVN, the lower slot on a tie (R549). -/
def bestImage : List (Nat × List Nat) → Option (Nat × List Nat)
  | [] => none
  | e :: rest =>
    match bestImage rest with
    | none => some e
    | some x => if imgSvn x.2 ≤ imgSvn e.2 then some e else some x

/-- SEC_BOOT_STATUS of a NOR slot (Table 18-2); an empty slot holds no transfer unit that passes. -/
def State.slotStatus (s : State) (suspect : List Nat) (k : Nat) : Nat :=
  match tfind s.sec.imgs k with
  | some img => s.imageStatus (!suspect.contains k) img
  | none => 1

/-- An image runs: its header and sections are measured (R549, R555). -/
def State.runImage (s : State) (img : List Nat) : State :=
  let s1 : State := { s with sec := { s.sec with run := some img } }
  let s2 := (s1.wr Reg.SEC_SVN_RUN 0 (imgSvn img)).extend 1 (Config.sha512 (imgHeader img))
  (imgEntries img).foldl (fun a e => a.extend 2 (Config.sha512 (imgSection img e))) s2

/-- The ROM takes its candidates from the NOR slots, and runs the one with the highest SVN, or waits for a host image (R549,
R572). -/
def State.bootNor (s : State) (suspect : List Nat) : State :=
  let st (k : Nat) : Nat := s.slotStatus suspect k
  let s1 := s.wr Reg.SEC_BOOT_STATUS 0 (st 0 + 16 * st 1)
  let l := s.sec.imgs.filter (fun e => e.1 ≤ 1 && st e.1 == 0)
  match bestImage l with
  | some e => (s1.wr Reg.SEC_BOOT_SLOT 0 e.1).runImage e.2
  | none => { s1 with sys := { s1.sys with bootMode := true } }

/-- The epoch after those reserved, with a new reservation (R365). -/
def State.startEpoch (s : State) (stored : Bool) : State :=
  let e := min 65535 (s.rd Reg.CIP_EPOCH_RESV 0 + 1)
  (s.wr Reg.CIP_EPOCH_CUR 0 e).reserve e stored false

/-- A lifecycle move that a power failure cut takes effect as its step reads blown (R559). -/
def State.bootMoved (s : State) (m : Option (Nat × List Nat)) : State :=
  match m with
  | some (new, key) =>
    if new != s.rd Reg.SEC_LIFECYCLE 0 + 1 || 3 < new then s
    else
      let s1 := if new = 1 then s.takeOpkey 0 key
        else if new = 3 then ({ s with sec := { s.sec with idGone := true } } : State).eraseCrash else s
      (s1.wr Reg.SEC_LIFECYCLE 0 new).raise Ev.SEC_LIFECYCLE_CHANGED srcDevice [(1, s.rd Reg.SEC_LIFECYCLE 0), (1, new)]
  | none => s

/-- The straps are sampled and the ROM runs (R385, R549, R570, R572). Every other domain and hewer is in reset until it is
released. -/
def State.bootRom (s : State) (b : BootIn) : State :=
  let s1 : State := { s with
    sec := { s.sec with imgs := match b.nor with | some n => n.1.foldl (fun t e => tset t e.1 e.2) [] | none => s.sec.imgs,
                        failing := if b.trngOk then [] else [2] },
    sys := { s.sys with held := false, bootSrc := b.bootSrc, bootMode := b.bootSrc, starting := true,
                        nor := match b.nor with | some n => n.2.foldl (fun t e => tset t e.1 e.2) [] | none => s.sys.nor } }
  let s2 := (((s1.wrBit Reg.PAR_PAIR_EN 0 b.pairEn).wrBit Reg.PAR_UNIT 0 b.unitId).wr Reg.PAR_STATE 0
    (if b.pairEn then parSeeking else 0)).wr Reg.RST_ACTIVE 0 0x1FFE
  let s3 := [Reg.RST_HEWER_ACTIVE_LO, Reg.RST_HEWER_ACTIVE_MID, Reg.RST_HEWER_ACTIVE_HI].foldl (fun a f => a.wr f 0 0xFFFFFFFF) s2
  let s4 := (s3.wrBit Reg.SEC_TRNG_OK 0 b.trngOk).raiseIf (!b.trngOk) Ev.SEC_TRNG_FAIL srcDevice [(1, 2), (1, 1)]
  let s5 := s4.bootMoved b.moved
  let otp := [s5.rd Reg.SEC_LIFECYCLE 0, s5.rd Reg.SEC_SVN_OTP 0, s5.rd Reg.SEC_VKEY_REVOKED 0, s5.rd Reg.SEC_OPKEY_SLOT 0]
  let s6 := s5.extend 0 (Config.sha512 (leBytes 4 Config.romRelease ++ otp))
  let s7 := (if b.bootSrc then s6 else s6.bootNor b.suspect).startEpoch b.stored
  let units := List.range 13 ++ (List.range 96).map hewerUnit
  let entered := units.map (fun u => (u, s7.time))
  { s7 with shf := { s7.shf with startable := s7.sys.bootMode },
            par := { s7.par with listened := false, listenFrom := s7.time },
            sys := { s7.sys with resets := entered } }

/-- POWER_ON_RESET_RELEASE (R549, R570): a CHIP reset is released. -/
def execPowerOnResetRelease (dt : Nat) (b : BootIn) (s : State) : Host.Outcome State Fault Refusal :=
  let s1 := s.elapse dt
  .next (if s1.sys.held then s1.bootRom b else s1)

/-! ### Self-test -/

/-- The units that a self-test marks unusable (Table 19-3), as `ovm.unusable` numbers them. -/
def unusableUnits (t : SelfTest) : List Nat :=
  t.rowSlices.flatMap (fun k => [stageUnit k 0, stageUnit k 1, lineUnit k 0, lineUnit k 1] ++
      ((List.range 72).filter (fun l => laneSlice l == k)).map (unitCode 2) ++
      ((List.range 32).filter (fun n => n / 8 == k)).map (unitCode 3)) ++
    (t.rowHewers ++ t.hewers).map (512 + ·) ++ (if t.hbmFailed then [hbmUnit] else []) ++ t.hbmBad.map hbmRegion ++
    t.pipes ++ t.lanes.map (unitCode 2)

/-- Rows that no spare could replace. -/
def SelfTestRows (t : SelfTest) : Nat := t.rowSlices.length + t.rowHewers.length + t.rowOther + ofBool t.fatal

/-- The units failed in each test of Table 19-3, in its order. -/
def testCounts (t : SelfTest) : List Nat :=
  [SelfTestRows t, max t.hbmBad.length (ofBool t.hbmFailed), t.hewers.length, t.pipes.length, t.lanes.length, ofBool (!t.trngOk)]

/-- The faults that a self-test sets (R576). -/
def State.testFaults (s : State) (t : SelfTest) : State :=
  let memory := SelfTestRows t != 0 || t.hbmFailed
  let stage := !t.hewers.isEmpty || !t.pipes.isEmpty || !t.lanes.isEmpty
  let s1 := if memory then ({ s with sys := { s.sys with faultsHeld := 2 :: s.sys.faultsHeld } } : State).selfFault 2 else s
  if stage then s1.selfFault 1 else s1

/-- Each self-test result goes to the NOR log whatever its severity (R611). -/
def State.logResult (s : State) (r : EvRec) : State :=
  if min 4 (s.rd Reg.BKG_LOG_SEV 0) ≤ r.sev then s else { s with io := { s.io with logWait := s.io.logWait ++ [r] } }

/-- SELFTEST_RESULT (R575, R576, R603): failed units are marked unusable; a fatal result leads to boot mode. The scrubber's pass and,
where HBM training has not failed, the patrol's begin. -/
def State.selfTest (s : State) (t : SelfTest) : State :=
  let s0 := if t.fatal then s.setTxIdle true else s
  let s1 : State := { s0 with
    ovm := { s.ovm with unusable := s.ovm.unusable ++ (unusableUnits t).filter (fun u => !s.ovm.unusable.contains u) },
    sec := { s.sec with failing := if t.trngOk || s.sec.failing.contains 2 then s.sec.failing else s.sec.failing ++ [2] },
    sys := { s.sys with tested := some t, bootMode := t.fatal, fatal := s.sys.fatal || t.fatal },
    shf := { s.shf with startable := s.shf.startable || !t.fatal, txIdle := s0.shf.txIdle },
    par := { s.par with listenFrom := if s.shf.startable then s.par.listenFrom else s.time },
    bkg := { s.bkg with scrub := some 0, patrol := if t.hbmFailed then none else some 0 } }
  let s2 := if t.trngOk then s1 else s1.wrBit Reg.SEC_TRNG_OK 0 false
  let s3 := s2.raiseIf (!t.trngOk && !s.sec.failing.contains 2) Ev.SEC_TRNG_FAIL srcDevice [(1, 2), (1, 1)]
  let failed := ((testCounts t).zipIdx.map (fun e => if e.1 = 0 then 0 else 2 ^ e.2)).sum
  let det := [(1, failed), (1, ofBool t.fatal)]
  let s4 := (s3.testFaults t).raise Ev.SELFTEST_RESULT srcDevice det
  s4.logResult (s3.evRec Ev.SELFTEST_RESULT srcDevice det false false)

/-- SELFTEST_RESULT (R575): after the image is loaded, and once for it. -/
def execSelftestResult (dt : Nat) (t : SelfTest) (s : State) : Host.Outcome State Fault Refusal :=
  let s1 := s.elapse dt
  .next (if s1.sys.starting && !s1.sys.bootMode && s1.sys.tested.isNone then s1.selfTest t else s1)

/-- SELFTEST_READ (R576, R593): the units failed in each test, then the bitmaps, whose layout the spec leaves open. -/
def execSelftestRead (dt : Nat) (h : HostRef) (host : Nat) (s : State) : Host.Outcome State Fault Refusal :=
  .next (s.command dt h 0 Op.SELFTEST_READ (fun a =>
    let counts := match a.sys.tested with
      | some t => (testCounts t).map (min 255)
      | none => List.replicate 6 0
    (a.draw.hostWrite host (counts ++ leBytes 250 (Config.freeChoice a.freeCtr))).done h Op.SELFTEST_READ))

/-- BOOT_LOAD (R573): in boot mode, an image from host memory is checked and run without being written to NOR. -/
def execBootLoad (dt : Nat) (h : HostRef) (address length : Nat) (units : List (List Nat)) (s : State) :
    Host.Outcome State Fault Refusal :=
  .next (s.command dt h 0 Op.BOOT_LOAD (fun a =>
    if address % 64 != 0 || length = 0 then a.refuse h Op.BOOT_LOAD 1
    else if !a.sys.bootMode then a.refuse h Op.BOOT_LOAD 3
    else
      let p := a.stripAll 3 units
      let img := p.2.data
      if p.1.imageStatus (p.2.refused.isNone && p.2.units != 0) img != 0 then p.1.refuse h Op.BOOT_LOAD 4
      else
        let b := p.1.runImage img
        ({ b with sys := { b.sys with bootMode := false, tested := none } } : State).done h Op.BOOT_LOAD))

/-! ### Output states (Table 21-5) -/

/-- What an output ball does. -/
inductive BallState where
  | low
  | high
  | highZ
  | released
  /-- Driven by the unit that owns it. -/
  | active
  deriving DecidableEq, Repr

/-- PORST_N holds the device in CHIP reset, or a rail has put it there. -/
def State.porstLow (s : State) : Bool := s.sys.held

/-- FMCLK k: low in reset, running once the shaft leaves HALTED, while FLT_FMCLK_EN has its bit set (R131). -/
def State.fmclkBall (s : State) (k : Nat) : BallState :=
  if s.porstLow || s.halted || !bitOf (s.rd Reg.FLT_FMCLK_EN 0) k || s.rd Reg.ENG_LG_STAGE 0 = 4 then .low else .active

/-- REFOUT0 and REFOUT1 (R99, R589). -/
def State.refoutBall (s : State) (k : Nat) : BallState := if s.porstLow || s.refoutLow k then .low else .active

/-- PPSOUT (R98, R589). -/
def State.ppsoutBall (s : State) : BallState := if s.porstLow || !s.ppsoutHigh then .low else .high

/-- TALLY_OUT: idle low, words once PAIR_EN is high (R401). -/
def State.tallyBall (s : State) : BallState := if s.porstLow || !s.paired then .low else .active

/-- PMB_SCL and PMB_SDA: released until a configuration set is in force (R439). -/
def State.pmbBall (s : State) : BallState := if s.porstLow || !s.sys.configured then .released else .active

/-- NOR_CS_N and NOR_RESET_N: high and low in reset, then driven. -/
def State.norCsBall (s : State) : BallState := if s.porstLow then .high else .active
def State.norResetBall (s : State) : BallState := if s.porstLow then .low else .active

/-- TDO: high impedance unless the debug port is open (R564). -/
def State.tdoBall (s : State) : BallState := if s.porstLow || s.rd Reg.SEC_DEBUG 0 = 0 then .highZ else .active

/-! ### Configuration sets -/

/-- The bytes of a record (R584). -/
def recordBytes (e : Nat × Nat) : List Nat := leBytes 4 e.1 ++ leBytes 4 e.2

/-- The set CRC (R585): over the records that are not LOCAL. -/
def setCrc (l : List (Nat × Nat)) : Nat := crc32c ((l.filter (fun e => e.1 % 2 = 0)).flatMap recordBytes)

/-- The CTL, CMT and LCK fields of a record's register. -/
def recordFields (e : Nat × Nat) : List (Fld × Nat) :=
  (wordFields (e.1 / 4 * 4)).filter (fun w => w.1.kind == .ctl || w.1.kind == .cmt || w.1.kind == .lck)

/-- BAD_OFFSET (Table 19-7). -/
def badOffset (e : Nat × Nat) : Bool :=
  let off := e.1 / 4 * 4
  e.1 / 2 % 2 = 1 || outsideMap off || off / 0x80000 = 1 || off = 4 || off = 0x10 || activeView off || (recordFields e).isEmpty

/-- BAD_VALUE (Table 19-7): a bit outside the register's CTL, CMT and LCK fields. -/
def badValue (e : Nat × Nat) : Bool :=
  e.2 != ((recordFields e).map (fun w => bitsOf e.2 w.1.lo w.1.width * 2 ^ w.1.lo)).sum

/-- LOCKED (Table 19-7). -/
def State.recordLocked (s : State) (e : Nat × Nat) : Bool :=
  (recordFields e).any (fun w => w.1.kind == .lck && s.isLocked w.1 w.2 && s.rd w.1 w.2 != bitsOf e.2 w.1.lo w.1.width)

/-- MASK (Table 19-7). -/
def outsideMask (mask : Nat) (e : Nat × Nat) : Bool :=
  (recordFields e).any (fun w => w.1.kind == .cmt && !bitOf (mask % 2 ^ 20) (e.1 / 0x80000))

/-- A set's header is sound (FORMAT of Table 19-7). -/
def setFormat (c : ConfigSet) : Bool :=
  c.magic && c.format == 1 && c.hdrOk && 1 ≤ c.n && c.n ≤ 131064 && c.recs.length == c.n && c.length == 64 + 8 * c.n

/-- The first check of Table 19-7 that a set fails (R586), if any. -/
def State.setReason (s : State) (c : ConfigSet) : Option Nat :=
  if !setFormat c then some 0x11
  else if c.glbId != s.rd Reg.GLB_ID 0 then some 0x12
  else if setCrc c.recs != c.crc then some 0x13
  else if c.recs.any badOffset then some 0x14
  else if c.recs.any badValue then some 0x15
  else if c.recs.any s.recordLocked then some 0x16
  else if c.recs.any (outsideMask c.mask) then some 0x17
  else if s.gasping then some 0x1A
  else none

/-- One record's CMT fields are staged (R587). -/
def State.stageRecord (s : State) (e : Nat × Nat) : State :=
  ((recordFields e).filter (fun w => w.1.kind == .cmt)).foldl (fun a w => a.stage w.1 w.2 (bitsOf e.2 w.1.lo w.1.width)) s

/-- A set that passes its checks is staged in the clock before the next cycle boundary, and its commit is requested there
(R587); a HALTED shaft rejects it at once (R520). -/
def State.stageSet (s : State) (l : CfgLoad) (c : ConfigSet) : State :=
  if s.halted then (s.rejectHalted (c.mask % 2 ^ 20) []).rejectLoad l 0x18 c.serial
    [(1, lowest (c.mask % 2 ^ 20)), (1, 0x81), (4, 0x00100004)]
  else
    let s1 := c.recs.foldl State.stageRecord (s.waitAddr (nextCycle s.addr - 1))
    { s1 with regs := { s1.regs with setAsk := true }, sys := { s1.sys with loading := some { l with set := some c } } }

/-- The set that has come through assay unit 2: the NOR copy that is loaded, or what the host sent. -/
def State.arrived (s : State) (l : CfgLoad) : ConfigSet :=
  readSet (if l.source = 3 then (tget {} s.asy.xfers 2).data else tget [] s.sys.nor (l.source - 1))

/-- CONFIG_SET_STAGE (R586, R587, R590, R591): a set whose transfer units have all come is checked whole, and staged or
rejected. -/
def execConfigSetStage (dt : Nat) (s : State) : Host.Outcome State Fault Refusal :=
  let s1 := s.elapse dt
  .next (match s1.sys.loading with
    | none => s1
    | some l =>
      let x := tget {} s1.asy.xfers 2
      if l.set.isSome || x.units = 0 then s1
      else match x.refused with
        | some r => s1.rejectLoad l 0x10 0 [(1, r.1)]
        | none =>
          let c := s1.arrived l
          match s1.setReason c with
          | some r => s1.rejectLoad l r (if c.magic && c.format = 1 && c.hdrOk then c.serial else 0) []
          | none => s1.stageSet l c)

/-- The NOR copy that a STORE overwrites (R592): one that failed its checks, else the one with the lower serial, an empty one
first; the lower-numbered on a tie. -/
def State.storeSlot (s : State) : Nat :=
  let key (k : Nat) : Nat := if s.sys.norBad.contains k then 0 else match tfind s.sys.nor k with | some c => 2 + (readSet c).serial | none => 1
  if key 0 ≤ key 1 then 0 else 1

/-- CONFIG_STORE (R592): a set in force is written to NOR. A write that fails leaves the copy as it was (log entry 44). -/
def execConfigStore (dt : Nat) (ok : Bool) (s : State) : Host.Outcome State Fault Refusal :=
  let s1 := s.elapse dt
  .next (match s1.sys.storing with
    | none => s1
    | some c =>
      let k := s1.storeSlot
      let s2 : State := { s1 with sys := { s1.sys with
        storing := none, storeHost := none,
        nor := if ok then tset s1.sys.nor k c.raw else s1.sys.nor,
        norBad := if ok then s1.sys.norBad.filter (fun j => j != k) else s1.sys.norBad } }
      let result := [(4, c.serial), (4, c.crc)]
      match s1.sys.storeHost with
      | none => s2
      | some h => if ok then s2.complete h Op.CFG_LOAD 0 0 result
        else s2.draw.complete h Op.CFG_LOAD 1 (Config.freeChoice s2.freeCtr % 64) result)

/-- CFG_LOAD is refused (R586). -/
def State.refuseLoad (s : State) (h : HostRef) (reason : Nat) : State :=
  (s.raiseC Ev.CONFIG_REJECTED srcDevice (configDetail reason 3 0 [])).refuse h Op.CFG_LOAD reason

/-- CFG_LOAD (R584 to R587): a set from host memory is read; the command completes at the outcome. -/
def execCfgLoad (dt : Nat) (h : HostRef) (address length : Nat) (store : Bool) (s : State) : Host.Outcome State Fault Refusal :=
  .next (s.command dt h 0 Op.CFG_LOAD (fun a =>
    if address % 64 != 0 || length = 0 then a.refuseLoad h 1
    else if a.sys.loading.isSome then a.refuseLoad h 2
    else if a.gasping then a.refuseLoad h 0x1A
    else { a with sys := { a.sys with loading := some { source := 3, host := some h, store := store } },
                  asy := { a.asy with xfers := tdel a.asy.xfers 2 } }))

/-- CFG_STATUS (R593). -/
def execCfgStatus (dt : Nat) (h : HostRef) (s : State) : Host.Outcome State Fault Refusal :=
  .next (s.command dt h 0 Op.CFG_STATUS (fun a =>
    let on := a.sys.configured
    a.complete h Op.CFG_STATUS 0 0
      [(4, if on then a.sys.serial else 0), (4, if on then a.sys.cfgCrc else 0),
       (1, ofBool on + 2 * ofBool a.sys.loading.isSome + 4 * (if on then a.sys.source else 0))]))

end Sys2Proof.Machine
end

