-- ==== Sys2Proof/Machine/Background.lean ====
section
/-! DEFINITION. Background work (R594 to R613): scrub, patrol, telemetry, ageing, the NOR log; the end of test perturbation
(R616, R617); and the events folded at the end of a second (R247, R372, R507). -/

namespace Sys2Proof.Machine

/-! ### Scrub -/

/-- Positions in 24 h and in 1 h. -/
def dayPos : Nat := 86400 * Config.secondPos
def hourPos : Nat := 3600 * Config.secondPos

/-- A corrected error counts against its row; one that reaches BKG_WEAK_THR within 24 h is marked weak (R600). -/
def State.noteRow (s : State) (e : SramError) : State :=
  let row := e.group * 65536 + e.row
  let l := (s.bkg.rows.filter (fun r => decide (s.time < r.2 + dayPos))) ++ [(row, s.time)]
  let s1 : State := { s with bkg := { s.bkg with rows := l } }
  let n := (l.filter (fun r => r.1 == row)).length
  if s.bkg.weak.contains row || n < max 1 (s.rd Reg.BKG_WEAK_THR 0) then s1
  else
    let s2 : State := { s1 with bkg := { s1.bkg with weak := s1.bkg.weak ++ [row] } }
    (s2.wr Reg.BKG_WEAK_ROWS 0 s2.bkg.weak.length).raise Ev.ROW_WEAK srcDevice [(1, e.group), (2, e.row)]

/-- The scrubber's pass moves past an address; one before it begins the next pass (R598). -/
def State.scrubPast (s : State) (addr : Nat) : State := { s with bkg := { s.bkg with scrub := some (addr + 1) } }

/-- SCRUB_WORD (R598 to R601, R603): a word's single-bit error is written back, an uncorrectable one handled by its structure. The
scrubber works from self-test on; where a writer reaches its word in the same clock, the writer's value stands and the scrubber reads
the word again. A correctable error that a foreground read and the scrubber both meet is counted once. -/
def execScrubWord (dt : Nat) (e : SramError) (s : State) : Host.Outcome State Fault Refusal :=
  let s1 := s.elapse dt
  let s2 := if e.scrub then s1.scrubPast e.addr else s1
  .next (if e.scrub && (s1.bkg.scrub.isNone || e.written) then s1
    else if !e.error then s2
    else if e.uncorr then s2.sramBad e.addr e.kind e.num
    else if s2.bkg.fixed == some (e.addr, s2.time) then s2
    else
      let s3 : State := { s2 with bkg := { s2.bkg with fixed := some (e.addr, s2.time) } }
      ((s3.count Reg.BKG_SRAM_CORR_CNT 0).raiseOnceFolded Ev.SCRUB_CORRECTED 0 (fun n => [(4, n)])).noteRow e)

/-- A block or tub of a differential-delay buffer is lost: a hitless group's copy is not good, and a held tub is discarded
(R602). `num` is the context plus 65,536 times the tub's sequence, or twice the block's MSEQ plus its leg. -/
def State.bufferLost (s : State) (num : Nat) : State :=
  let c := num % 65536
  let k := num / 65536
  let s1 : State := match tfind s.map.hitless c with
    | some x => s.setHitless c { x with copies := x.copies.map (fun b =>
        if b.mseq = k / 2 && b.leg = k % 2 then { b with good := false } else b) }
    | none => s
  match tfind s1.rlk.ctxs c with
  | some x => { s1 with rlk := { s1.rlk with ctxs := tset s1.rlk.ctxs c { x with held := x.held.filter (fun t => t.seq != k) } } }
  | none => s1

/-- A PM history record is lost to HBM (R339, R602): `num` is 64 times twice the point plus the bin type, plus the index. -/
def State.historyLost (s : State) (num : Nat) : State :=
  let p := num / 128
  let typ := num / 64 % 2
  let x := s.point p
  match (if typ = 0 then x.hist15 else x.hist24)[num % 64 - 1]? with
  | some b => { s with pm := { s.pm with badHist := (p, typ, b.serial) :: s.pm.badHist } }
  | none => s

/-- What an uncorrectable HBM error does to its region (R602): 0 a packet queue, 1 a differential-delay buffer, 2 PM
history. -/
def State.hbmAction (s : State) (region num : Nat) : State :=
  match region with
  | 0 => match s.queue num with
    | some q => (s.resetQueue num).raise Ev.Q_PTR_RESET (srcQueue num) [(1, 3), (4, q.wp), (4, gray q.wp)]
    | none => s
  | 1 => s.bufferLost num
  | 2 => s.historyLost num
  | _ => s

/-- HBM_PATROL (R602, R603): from the end of HBM training a word is read; its error is corrected, or acts on the region that holds it. -/
def execHbmPatrol (dt address region num : Nat) (error uncorr : Bool) (s : State) : Host.Outcome State Fault Refusal :=
  let s1 := s.elapse dt
  let s2 : State := { s1 with bkg := { s1.bkg with patrol := some (address + 1) } }
  .next (if s1.bkg.patrol.isNone then s1
    else if !error then s2
    else if uncorr then
      ((s2.count Reg.BKG_HBM_UNCORR_CNT 0).raise Ev.HBM_ECC srcDevice [(4, address), (1, region)]).hbmAction region num
    else s2.count Reg.BKG_HBM_CORR_CNT 0)

/-! ### The budget -/

/-- A task that waits at an epoch (R596): its 16th epoch in a row is counted and reported. -/
def State.noteWait (s : State) (task : Nat) : State :=
  let n := tget 0 s.bkg.waits task + 1
  if n < 16 then { s with bkg := { s.bkg with waits := tset s.bkg.waits task n } }
  else (({ s with bkg := { s.bkg with waits := tset s.bkg.waits task 0 } } : State).count Reg.BKG_STARVED_CNT 0).raiseOnce
    Ev.BKG_STARVED task srcDevice (fun _ => [(1, task)])

/-- BKG_EPOCH (R594, R596, R597, R616): the charges of the epoch that ended, never above their caps, and the tasks that wait;
TST_LEFT counts down. -/
def execBkgEpoch (dt hewerUse hbmUse : Nat) (waiting : List Nat) (s : State) : Host.Outcome State Fault Refusal :=
  let s0 := s.toBoundary dt Config.epochPos
  .next (if s0.halted then s0
    else
      let s1 := s0.tstTake
      let low := s1.rdBit Reg.BKG_THROTTLED 0
      let s2 := (s1.wr Reg.BKG_HEWER_USE 0 (min hewerUse (if low then 75 else 300))).wr Reg.BKG_HBM_USE 0
        (min hbmUse (if low then 50 else 200))
      let tasks := (List.range 11).filter (fun t => 1 ≤ t && waiting.contains t)
      let s3 : State := { s2 with bkg := { s2.bkg with waits := s2.bkg.waits.filter (fun e => tasks.contains e.1) } }
      let s4 := tasks.foldl State.noteWait s3
      if s4.bkg.armed then s4.wr Reg.TST_LEFT 0 (s4.rd Reg.TST_LEFT 0 - 1) else s4)

/-! ### Telemetry -/

/-- Half of the temperature channels' words, in 1/16 °C (Table 04-1): an output unit is 1/65,536 °C. -/
def sixteenths (word : Int) : Rat := (word : Rat) / 4096

/-- The largest of a list of (sensor, word), the lower sensor on a tie. -/
def hottest : List (Nat × Int) → Option (Nat × Int)
  | [] => none
  | e :: rest =>
    match hottest rest with
    | none => some e
    | some x => if x.2 ≤ e.2 then some e else some x

/-- The time since the last update is added to the hour's account of BKG_TJ_MAX (R608). -/
def State.accountTj (s : State) : State :=
  let n := s.time - s.bkg.tjAt
  let tj := s.rdInt Reg.BKG_TJ_MAX 0
  { s with bkg := { s.bkg with tjAt := s.time, tjSum := s.bkg.tjSum + tj * n, tjTime := s.bkg.tjTime + n,
                               tjHot := s.bkg.tjHot + (if 1680 ≤ tj then n else 0) } }

/-- TEMP_HIGH and the start of 110 °C are judged (R604, R410). -/
def State.judgeTj (s : State) (tj : Int) (sensor : Nat) : State :=
  let warn : Int := 16 * (s.rd Reg.BKG_TJ_WARN 0 : Int)
  let s1 := s.raiseIf (!s.bkg.tjSaid && decide (warn ≤ tj)) Ev.TEMP_HIGH srcDevice [(2, pattern 16 tj), (1, sensor)]
  let said := decide (warn ≤ tj) || (s.bkg.tjSaid && !decide (tj ≤ warn - 32))
  let hot := if 1760 ≤ tj then some (s.bkg.hotFrom.getD s.time) else none
  { s1 with bkg := { s1.bkg with tjSaid := said, hotFrom := hot } }

/-- TJ_UPDATE (R604): each cycle, the largest of the latest words of channels 36 to 47. -/
def execTjUpdate (dt : Nat) (s : State) : Host.Outcome State Fault Refusal :=
  let s0 := s.toBoundary dt Config.cyclePos
  .next (if s0.halted then s0
    else
      let s1 := s0.tstTake.accountTj
      match hottest ((List.range 12).map (fun i => (i, (s1.chan (36 + i)).vLast))) with
      | none => s1
      | some e =>
        let s2 := (s1.wr Reg.BKG_TJ_MAX 0 (s1.figure 16 true (sixteenths e.2))).draw
        s2.judgeTj (s2.rdInt Reg.BKG_TJ_MAX 0) e.1)

/-- THERMAL_FAULT (R410 cause 4): Tj at or above 110 °C for 1 s. -/
def execThermalFault (dt : Nat) (s : State) : Host.Outcome State Fault Refusal :=
  let s1 := s.elapse dt
  .next (match s1.bkg.hotFrom with
    | some t => (s1.untilTime 0 (t + Config.secondPos)).selfFault 4
    | none => s1)

/-! ### Ageing and life -/

/-- A unit that first exceeds the margin is reported; one that is back within it may be reported again (R607). -/
def State.judgeAge (s : State) (m : Nat) : State :=
  let idx := s.ageIndex m
  let least := s.leastAged m
  let above := s.overMargin m
  if above == s.bkg.aged.contains m then s
  else if above then
    ({ s with bkg := { s.bkg with aged := s.bkg.aged ++ [m] } } : State).raise Ev.AGE_MARGIN
      (if m < 96 then srcHewer m else srcPipe (m - 96)) [(2, m), (2, idx), (2, least)]
  else { s with bkg := { s.bkg with aged := s.bkg.aged.filter (fun k => k != m) } }

/-- A monitor's frequency at manufacture, in Hz (R606). -/
def State.ageBase (s : State) (m : Nat) : Nat := max 1 (tget (Config.ageBase m) s.bkg.base m)

/-- A monitor's ageing index (R606): the loss of corrected frequency in units of 0.01 %; a gain gives 0. -/
def State.lossIndex (s : State) (m freq : Nat) : Nat :=
  min 65535 (s.wholeFree ((10000 * (s.ageBase m - freq : Nat) : Rat) / s.ageBase m)).toNat

/-- When the monitors are next measured (R606, R609, Table 20-1): 1 h after the first set is in force, then once an hour, or once
in 4 h under lever 1. -/
def State.ageDue (s : State) : Nat :=
  match s.bkg.measured with
  | none => s.sys.since + hourPos
  | some t => t + (if s.rdBit Reg.BKG_THROTTLED 0 then 4 * hourPos else hourPos)

/-- AGE_MEASURE (R606, R607, R609): the ageing monitors are measured. `l` gives monitors' frequencies corrected to 85 °C, in Hz. -/
def execAgeMeasure (dt : Nat) (l : List (Nat × Nat)) (s : State) : Host.Outcome State Fault Refusal :=
  let s1 := s.elapse dt
  .next (if !s1.sys.configured then s1
    else
      let s2 := s1.untilTime 0 s1.ageDue
      let hour := s2.rd Reg.BKG_LIFE_HOURS 0
      let r := (l.filter (fun e => e.1 < 184)).foldl (fun (a : State) e =>
        ({ a with bkg := { a.bkg with ages := tset a.bkg.ages e.1 (a.lossIndex e.1 e.2, hour) } } : State).draw) s2
      (List.range 120).foldl State.judgeAge { r with bkg := { r.bkg with measured := some r.time } })

/-- LIFE_BUDGET is judged after 720 h of service (R608): the average above 90 °C, or more than 10 % at 105 °C or above. -/
def State.judgeLife (s : State) : State :=
  let avg := s.rdInt Reg.BKG_LIFE_AVG_TJ 0
  let hot := s.rd Reg.BKG_LIFE_HOT 0
  let bad := decide (1440 < avg) || decide (1000 < hot)
  if s.rd Reg.BKG_LIFE_HOURS 0 < 720 || bad == s.bkg.lifeSaid then s
  else ({ s with bkg := { s.bkg with lifeSaid := bad } } : State).raiseIf bad Ev.LIFE_BUDGET srcDevice
    [(2, pattern 16 avg), (2, hot)]

/-- The life record goes to the log with code 0x12F1 (R611); its detail is not laid out by the spec and is a free value. -/
def State.lifeRec (s : State) : EvRec :=
  { s.evRec 0x12F1 srcDevice [] false false with detail := leBytes 12 (Config.freeChoice s.freeCtr) }

/-- LIFE_RECORD (R608, R611): the hour's mean BKG_TJ_MAX and the time at 105 °C or above join the life record. -/
def execLifeRecord (dt : Nat) (s : State) : Host.Outcome State Fault Refusal :=
  let s1 := s.elapse dt
  let s2 := (s1.untilTime 0 (s1.bkg.tjAt + hourPos - s1.bkg.tjTime)).accountTj
  let b := s2.bkg
  let s3 : State := { s2 with bkg := { b with
    lifeSum := b.lifeSum + b.tjSum, lifeTime := b.lifeTime + b.tjTime, lifeHot := b.lifeHot + b.tjHot,
    tjSum := 0, tjTime := 0, tjHot := 0 } }
  let total : Rat := max 1 s3.bkg.lifeTime
  let s4 := (s3.wr Reg.BKG_LIFE_AVG_TJ 0 (s3.figure 16 true ((s3.bkg.lifeSum : Rat) / total))).draw
  let s5 := (s4.wr Reg.BKG_LIFE_HOT 0 (s4.figure 16 false (10000 * (s4.bkg.lifeHot : Rat) / total))).draw
  let s6 := s5.wr Reg.BKG_LIFE_HOURS 0 (s5.rd Reg.BKG_LIFE_HOURS 0 + 1)
  let s7 : State := { s6 with io := { s6.io with logWait := s6.io.logWait ++ [s6.lifeRec] } }
  .next (s7.draw).judgeLife

/-! ### The NOR log -/

/-- Sectors of the log region of a 64 MiB part, and records in each (R610). -/
def logSectors : Nat := 476
def sectorRecords : Nat := 2047

/-- A sector of the log. -/
def State.sector (s : State) (k : Nat) : LogSector := tget {} s.bkg.sectors k

/-- The erased sectors. -/
def State.erased (s : State) : List Nat := (List.range logSectors).filter (fun k => (s.sector k).seq == 0)

/-- A sector is erased; its records are lost (R612). -/
def State.eraseSector (s : State) (k : Nat) : State :=
  { s with bkg := { s.bkg with sectors := tset s.bkg.sectors k { erases := (s.sector k).erases + 1 } } }

/-- A new sector is begun: the erased one with the lowest erase count, the lowest-numbered on a tie; when fewer than two
erased sectors remain, the one with the lowest sequence number is erased (R612). -/
def State.nextSector (s : State) : State :=
  match leastBy (fun k => (s.sector k).erases) s.erased with
  | none => s
  | some k =>
    let seq := s.rd Reg.BKG_LOG_SEQ 0 + 1
    let s1 : State := { s with bkg := { s.bkg with
      sectors := tset s.bkg.sectors k { s.sector k with seq := seq, recs := [] }, sector := some k } }
    let s2 := s1.wr Reg.BKG_LOG_SEQ 0 seq
    if s2.erased.length < 2 then
      match leastBy (fun j => (s2.sector j).seq) ((List.range logSectors).filter (fun j => (s2.sector j).seq != 0)) with
      | some j => s2.eraseSector j
      | none => s2
    else s2

/-- The current sector has room for a record; otherwise the next one is begun. -/
def State.roomInLog (s : State) : State :=
  match s.bkg.sector with
  | some k => if (s.sector k).recs.length < sectorRecords then s else s.nextSector
  | none => s.nextSector

/-- A record is written; the alive counter that its layout has is a free value in the log. -/
def State.writeLog (s : State) (r : EvRec) : State :=
  let s1 := s.roomInLog
  match s1.bkg.sector with
  | some k =>
    let bytes := r.bytes (Config.freeChoice s1.freeCtr % 256)
    { s1.draw with bkg := { s1.bkg with sectors := tset s1.bkg.sectors k { s1.sector k with recs := (s1.sector k).recs ++ [bytes] } } }
  | none => s1

/-- The record at the front of the log's queue is written, or dropped beyond 100 in the second (R613). -/
def State.appendLog (s : State) (r : EvRec) (rest : List EvRec) : State :=
  let s1 : State := { s with io := { s.io with logWait := rest } }
  let n := if s.bkg.logSec = s.second then s.bkg.logCount else 0
  if 100 ≤ n then (s1.count Reg.BKG_LOG_DROP_CNT 0).raiseOnce Ev.LOG_DROP 0 srcDevice (fun k => [(4, k)])
  else ({ s1 with bkg := { s1.bkg with logSec := s.second, logCount := n + 1 } } : State).writeLog r

/-- Records that wait count toward the second's limit (R613): those beyond it are dropped, the newest first. -/
def State.dropWaits (s : State) : State :=
  let n := if s.bkg.logSec = s.second then s.bkg.logCount else 0
  let gone := (s.io.logWait.drop (100 - n)).length
  (List.range gone).foldl (fun (a : State) _ => (a.count Reg.BKG_LOG_DROP_CNT 0).raiseOnce Ev.LOG_DROP 0 srcDevice (fun k => [(4, k)]))
    { s with io := { s.io with logWait := s.io.logWait.take (100 - n) } }

/-- A configuration copy or an epoch reservation is being written to NOR (R613). A crash record is written within a last gasp. -/
def State.norBusy (s : State) : Bool := s.sys.storing.isSome || (s.cip.resvWant.isSome && !s.cip.resvFail)

/-- LOG_APPEND (R611 to R613): none is written once a last gasp has been declared, and records wait while the NOR is written
otherwise. -/
def execLogAppend (dt : Nat) (s : State) : Host.Outcome State Fault Refusal :=
  let s1 := s.elapse dt
  .next (match s1.io.logWait with
    | [] => s1
    | r :: rest => if s1.gasping then s1 else if s1.norBusy then s1.dropWaits else s1.appendLog r rest)

/-- A BKG command is refused with BAD_PARAM, or with LAST_GASP during a last gasp (R619). -/
def State.bkgCommand (s : State) (h : HostRef) (op : Nat) (ok : Bool) (run : State → State) : State :=
  if !ok then s.refuse h op 1 else if s.gasping then s.refuse h op 2 else run s

/-- BKG_AGE_READ (R619): the 184 monitors, their indices and hours of measurement. -/
def execBkgAgeRead (dt : Nat) (h : HostRef) (host : Nat) (s : State) : Host.Outcome State Fault Refusal :=
  .next (s.command dt h 0 Op.BKG_AGE_READ (fun a => a.bkgCommand h Op.BKG_AGE_READ (host % 64 == 0) (fun b =>
    let entry (m : Nat) : List Nat :=
      let e := tget (0, 0) b.bkg.ages m
      leBytes 2 m ++ leBytes 2 e.1 ++ leBytes 4 e.2
    (b.hostWrite host ((List.range 184).flatMap entry)).done h Op.BKG_AGE_READ)))

/-- BKG_LOG_APPEND (R611, R619): a record with code 0x12F0 joins the log's queue. -/
def execBkgLogAppend (dt : Nat) (h : HostRef) (detail : List Nat) (s : State) : Host.Outcome State Fault Refusal :=
  .next (s.command dt h 0 Op.BKG_LOG_APPEND (fun a => a.bkgCommand h Op.BKG_LOG_APPEND true (fun b =>
    let r : EvRec := { b.evRec 0x12F0 srcDevice [] false true with detail := (detail ++ List.replicate 12 0).take 12 }
    ({ b with io := { b.io with logWait := b.io.logWait ++ [r] } } : State).done h Op.BKG_LOG_APPEND)))

/-- The slots of a sector (R610); a slot not written reads as erased NOR. -/
def LogSector.slots (x : LogSector) : List Nat :=
  let head := [0x45, 0x4B, 0x4C, 0x47] ++ leBytes 4 x.erases ++ leBytes 4 x.seq ++ List.replicate 20 0xFF
  head ++ x.recs.flatten ++ List.replicate (65536 - 32 - 32 * x.recs.length) 0xFF

/-- BKG_LOG_READ (R619): the slots of sectors, by sequence number, in order. -/
def execBkgLogRead (dt : Nat) (h : HostRef) (first sectors host : Nat) (s : State) : Host.Outcome State Fault Refusal :=
  .next (s.command dt h 0 Op.BKG_LOG_READ (fun a =>
    let all := (a.bkg.sectors.map (·.2)).filter (fun x => x.seq != 0)
    let l := (List.range sectors).filterMap (fun k => all.find? (fun x => x.seq == first + k))
    a.bkgCommand h Op.BKG_LOG_READ (1 ≤ sectors && sectors ≤ 16 && !l.isEmpty) (fun b =>
      (b.hostWrite host (l.flatMap LogSector.slots)).done h Op.BKG_LOG_READ)))

/-! ### The end of test perturbation -/

/-- Why the perturbations end, if they do (R616): 0 disarmed, 1 duration, 2 a condition fails. -/
def State.tstOver (s : State) : Option Nat :=
  if !s.bkg.armed then none
  else if s.rd Reg.TST_ARM 0 != 0x7E57 then some 0
  else if s.rd Reg.TST_LEFT 0 = 0 then some 1
  else if s.tstCondition.isSome then some 2
  else none

/-- The check-result perturbation has altered all its results (R616). -/
def State.checksSpent (s : State) : Bool := s.perturbed 4 && s.rd Reg.TST_CHECK_COUNT 0 ≤ s.bkg.altered

/-- TST_ENDED (R616, R617): every perturbation ends at the next cycle boundary, or the check-result one ends alone. A forced
Q_HIGH clears where its queue's depth allows. -/
def execTstEnded (dt : Nat) (s : State) : Host.Outcome State Fault Refusal :=
  let s1 := s.toNextCycle dt
  .next (match s1.tstOver with
    | some c =>
      let s2 : State := { s1 with bkg := { s1.bkg with armed := false, tstFrom := none } }
      ((s2.wr Reg.TST_ACTIVE 0 0).judgePressed).raise Ev.TST_ENDED srcDevice [(1, c), (4, s1.bkg.altered)]
    | none =>
      if s1.checksSpent then
        (s1.wr Reg.TST_ACTIVE 0 (setBit (s1.rd Reg.TST_ACTIVE 0) 4 false)).raise Ev.TST_ENDED srcDevice
          [(1, 3), (4, s1.bkg.altered)]
      else s1)

/-! ### Folded events -/

/-- The detail of the folded form of an event: FRM_DEFECT (R247), AUTH_FAIL (R372), WRITE_TO_LOCKED (R507). -/
def foldedDetail (code : Nat) (r : RateSt) : List (Nat × Nat) :=
  if code = Ev.FRM_DEFECT then r.final.take 3 ++ [(4, r.folded)]
  else if code = Ev.AUTH_FAIL then r.final.take 2 ++ [(1, 0), (4, r.folded)]
  else r.first.take 1 ++ [(4, r.folded)]

/-- The folded event of one account is raised, and the account starts anew. -/
def State.endFold (s : State) (e : Nat × RateSt) : State :=
  let s1 := s.raiseFolded (e.1 % 65536) e.2.src (foldedDetail (e.1 % 65536) e.2)
  { s1 with io := { s1.io with rates := tdel s1.io.rates e.1 } }

/-- FOLDED_EVENT_SECOND_END (R247, R372, R507): at the end of the second, one event for each account that folded any. -/
def execFoldedEventSecondEnd (dt : Nat) (s : State) : Host.Outcome State Fault Refusal :=
  let s1 := s.elapse dt
  let open_ := s1.io.rates.any (fun e => e.2.folded != 0 && e.2.window == s1.second)
  let s2 := if open_ then s1.untilTime 0 ((s1.second + 1) * Config.secondPos) else s1
  .next ((s2.io.rates.filter (fun e => e.2.folded != 0)).foldl State.endFold s2)

end Sys2Proof.Machine
end

