-- ==== Sys2Proof/Machine/HostWrite.lean ====
section
/-! DEFINITION. A host write of any register (R5, R500 to R509): those whose write is a command of its own take its
effect, the MSI-X table its words, and every other its fields. -/

namespace Sys2Proof.Machine

/-- A whole-word write at an offset of the map. -/
def State.writeWord (s : State) (off value : Nat) : State :=
  if outsideMap off || activeView off then s
  else if off = 0x00000004 then s.writeCommit value
  else if off = 0x00000010 then s.writeDiscard value
  else if off = 0x00080004 then s.writeRstReq value
  else if off = 0x00080010 then s.writeHewerReq 0 value
  else if off = 0x00080014 then s.writeHewerReq 1 value
  else if off = 0x00080018 then s.writeHewerReq 2 value
  else if off = 0x00980000 then (s.writeTst value).tstWait
  else if 0x00708000 ≤ off && off < 0x00708200 then s.writeMsix ((off - 0x00708000) / 4) value
  else s.hostFields off value

/-- REGISTER_WRITE (R500 to R508): a write with fewer than four byte enables is discarded and reported;
one above the block map is discarded in silence (R5). -/
def execRegisterWrite (dt off value be : Nat) (s : State) : Host.Outcome State Fault Refusal :=
  let s1 := s.elapse dt
  let o := off / 4 * 4
  .next (if s1.inReset 0 || outsideMap o then s1
    else if be % 16 != 15 then s1.accessBad o (be % 16) 0
    else s1.writeWord o (value % 2 ^ 32))

end Sys2Proof.Machine
end

