-- ==== Sys2Proof/Machine/Dispatch.lean ====
section
/-! DEFINITION. The dispatch of every command to its meaning. -/

namespace Sys2Proof.Machine

def exec (i : Instr) (s : State) : Host.Outcome State Fault Refusal :=
  match i with
  | .schedSwap dt bankOk pagesOk granule stored sum => Sys2Proof.Machine.execSchedSwap dt bankOk pagesOk granule stored sum s
  | .armSwap dt own => Sys2Proof.Machine.execArmSwap dt own s
  | .hewerWakeup dt => Sys2Proof.Machine.execHewerWakeup dt s
  | .doorbellRead dt page => Sys2Proof.Machine.execDoorbellRead dt page s
  | .gateSlip dt ctx fill => Sys2Proof.Machine.execGateSlip dt ctx fill s
  | .shaftHalt dt => Sys2Proof.Machine.execShaftHalt dt s
  | .shaftStart dt => Sys2Proof.Machine.execShaftStart dt s
  | .timFreqMeasure dt meas => Sys2Proof.Machine.execTimFreqMeasure dt meas s
  | .refQualified dt cand => Sys2Proof.Machine.execRefQualified dt cand s
  | .timHoldoffExpiry dt cand => Sys2Proof.Machine.execTimHoldoffExpiry dt cand s
  | .refSelection dt => Sys2Proof.Machine.execRefSelection dt s
  | .refSwitchDone dt => Sys2Proof.Machine.execRefSwitchDone dt s
  | .wtrExpiry dt cand => Sys2Proof.Machine.execWtrExpiry dt cand s
  | .steerWdogExpiry dt => Sys2Proof.Machine.execSteerWdogExpiry dt s
  | .holdoverUpdate dt => Sys2Proof.Machine.execHoldoverUpdate dt s
  | .modelLearnSample dt => Sys2Proof.Machine.execModelLearnSample dt s
  | .todSetApply dt => Sys2Proof.Machine.execTodSetApply dt s
  | .ppsinEdge dt sub => Sys2Proof.Machine.execPpsinEdge dt sub s
  | .ppsoutPulse dt => Sys2Proof.Machine.execPpsoutPulse dt s
  | .timForce dt h cand => Sys2Proof.Machine.execTimForce dt h cand s
  | .timClear dt h => Sys2Proof.Machine.execTimClear dt h s
  | .timLockout dt h cand on => Sys2Proof.Machine.execTimLockout dt h cand on s
  | .timHoldover dt h on => Sys2Proof.Machine.execTimHoldover dt h on s
  | .timSteer dt h value => Sys2Proof.Machine.execTimSteer dt h value s
  | .timSetTod dt h stamp sec ns => Sys2Proof.Machine.execTimSetTod dt h stamp sec ns s
  | .timTodCapture dt h => Sys2Proof.Machine.execTimTodCapture dt h s
  | .timModelLoad dt h p => Sys2Proof.Machine.execTimModelLoad dt h p s
  | .timWtrClear dt h cand => Sys2Proof.Machine.execTimWtrClear dt h cand s
  | .fltOutputWord dt ch incoming samples => Sys2Proof.Machine.execFltOutputWord dt ch incoming samples s
  | .inputStuck dt ch level => Sys2Proof.Machine.execInputStuck dt ch level s
  | .xfadeStart dt ch => Sys2Proof.Machine.execXfadeStart dt ch s
  | .xfadeDone dt ch => Sys2Proof.Machine.execXfadeDone dt ch s
  | .swapDone dt ch => Sys2Proof.Machine.execSwapDone dt ch s
  | .fltSyncResetApply dt => Sys2Proof.Machine.execFltSyncResetApply dt s
  | .fltConfig dt h p => Sys2Proof.Machine.execFltConfig dt h p s
  | .fltCoefLoad dt h ch bank first start taps => Sys2Proof.Machine.execFltCoefLoad dt h ch bank first start taps s
  | .fltSwap dt h ch bank => Sys2Proof.Machine.execFltSwap dt h ch bank s
  | .fltSyncReset dt h mask stamp => Sys2Proof.Machine.execFltSyncReset dt h mask stamp s
  | .fltFreeze dt h mask on => Sys2Proof.Machine.execFltFreeze dt h mask on s
  | .laneLos dt lane trb set => Sys2Proof.Machine.execLaneLos dt lane trb set s
  | .laneLol dt lane set => Sys2Proof.Machine.execLaneLol dt lane set s
  | .laneBlockLock dt lane lost => Sys2Proof.Machine.execLaneBlockLock dt lane lost s
  | .laneHiber dt lane set => Sys2Proof.Machine.execLaneHiber dt lane set s
  | .laneReady dt lane w h => Sys2Proof.Machine.execLaneReady dt lane w h s
  | .eyeMeasure dt meas => Sys2Proof.Machine.execEyeMeasure dt meas s
  | .prbsLock dt lane locked errors => Sys2Proof.Machine.execPrbsLock dt lane locked errors s
  | .trbFrameRx dt link off bytes => Sys2Proof.Machine.execTrbFrameRx dt link off bytes s
  | .trbAlign dt link => Sys2Proof.Machine.execTrbAlign dt link s
  | .prtTest dt h lane ptn flags => Sys2Proof.Machine.execPrtTest dt h lane ptn flags s
  | .prtAdaptRestart dt h lane => Sys2Proof.Machine.execPrtAdaptRestart dt h lane s
  | .rlkFrameRx dt lane off lock prior blocks badSync => Sys2Proof.Machine.execRlkFrameRx dt lane off lock prior blocks badSync s
  | .rlkLfa dt lane => Sys2Proof.Machine.execRlkLfa dt lane s
  | .tubRx dt lane prior blocks => Sys2Proof.Machine.execTubRx dt lane prior blocks s
  | .ddHoldExpiry dt ctx => Sys2Proof.Machine.execDdHoldExpiry dt ctx s
  | .copyRecordClose dt ctx => Sys2Proof.Machine.execCopyRecordClose dt ctx s
  | .framerFrameRx dt framer f => Sys2Proof.Machine.execFramerFrameRx dt framer f s
  | .lofDeclare dt framer => Sys2Proof.Machine.execLofDeclare dt framer s
  | .otlLol dt lane lanes => Sys2Proof.Machine.execOtlLol dt lane lanes s
  | .crc4SearchTimeout dt ctx found => Sys2Proof.Machine.execCrc4SearchTimeout dt ctx found s
  | .ohExtract dt ctx => Sys2Proof.Machine.execOhExtract dt ctx s
  | .ohInsert dt ctx complete => Sys2Proof.Machine.execOhInsert dt ctx complete s
  | .sdSfEval dt framer => Sys2Proof.Machine.execSdSfEval dt framer s
  | .apsHoldoffExpiry dt group => Sys2Proof.Machine.execApsHoldoffExpiry dt group s
  | .apsWtrExpiry dt group => Sys2Proof.Machine.execApsWtrExpiry dt group s
  | .frmCtxCfg dt h p => Sys2Proof.Machine.execFrmCtxCfg dt h p s
  | .frmTraceSet dt h p => Sys2Proof.Machine.execFrmTraceSet dt h p s
  | .frmCtxRead dt h ctx host => Sys2Proof.Machine.execFrmCtxRead dt h ctx host s
  | .frmApsCfg dt h p => Sys2Proof.Machine.execFrmApsCfg dt h p s
  | .frmApsCmd dt h group cmd leg => Sys2Proof.Machine.execFrmApsCmd dt h group cmd leg s
  | .frmForce dt h ctx what on => Sys2Proof.Machine.execFrmForce dt h ctx what on s
  | .frmReframe dt h lane ctx => Sys2Proof.Machine.execFrmReframe dt h lane ctx s
  | .frmErrInsert dt h ctx monitor viol frames => Sys2Proof.Machine.execFrmErrInsert dt h ctx monitor viol frames s
  | .handover dt ctx => Sys2Proof.Machine.execHandover dt ctx s
  | .clientFrameRx dt port f => Sys2Proof.Machine.execClientFrameRx dt port f s
  | .gfpFrameRx dt ctx f => Sys2Proof.Machine.execGfpFrameRx dt ctx f s
  | .carriageBlockRx dt ctx leg b => Sys2Proof.Machine.execCarriageBlockRx dt ctx leg b s
  | .ddPlayout dt ctx => Sys2Proof.Machine.execDdPlayout dt ctx s
  | .mapRateLimit dt lane steer fill => Sys2Proof.Machine.execMapRateLimit dt lane steer fill s
  | .mapCtxRead dt h ctx host => Sys2Proof.Machine.execMapCtxRead dt h ctx host s
  | .mapPageRead dt h p => Sys2Proof.Machine.execMapPageRead dt h p s
  | .mapDdStatus dt h ctx host => Sys2Proof.Machine.execMapDdStatus dt h ctx host s
  | .ovmIntentAdd dt h p obs => Sys2Proof.Machine.execOvmIntentAdd dt h p obs s
  | .ovmIntentWithdraw dt h intent => Sys2Proof.Machine.execOvmIntentWithdraw dt h intent s
  | .ovmPin dt h ctx items => Sys2Proof.Machine.execOvmPin dt h ctx items s
  | .ovmUnpin dt h ctx items => Sys2Proof.Machine.execOvmUnpin dt h ctx items s
  | .ovmResultRead dt h intent host avail => Sys2Proof.Machine.execOvmResultRead dt h intent host avail s
  | .ovmDefrag dt h => Sys2Proof.Machine.execOvmDefrag dt h s
  | .ovmMovePlan dt obs moves => Sys2Proof.Machine.execOvmMovePlan dt obs moves s
  | .ovmHoldExpired dt ctx => Sys2Proof.Machine.execOvmHoldExpired dt ctx s
  | .stageUnusable dt slice stage => Sys2Proof.Machine.execStageUnusable dt slice stage s
  | .ovmRestart dt hewer => Sys2Proof.Machine.execOvmRestart dt hewer s
  | .ovmEngines dt => Sys2Proof.Machine.execOvmEngines dt s
  | .unitWakeReady dt unitKind unitNo => Sys2Proof.Machine.execUnitWakeReady dt unitKind unitNo s
  | .pmSecondBoundary dt => Sys2Proof.Machine.execPmSecondBoundary dt s
  | .pmSecondRead dt hewer => Sys2Proof.Machine.execPmSecondRead dt hewer s
  | .pmBinClosure dt hewer => Sys2Proof.Machine.execPmBinClosure dt hewer s
  | .pmnPointCfg dt h p => Sys2Proof.Machine.execPmnPointCfg dt h p s
  | .pmnProfileSet dt h p => Sys2Proof.Machine.execPmnProfileSet dt h p s
  | .pmnHistRead dt h p => Sys2Proof.Machine.execPmnHistRead dt h p s
  | .pmnPointClear dt h point c15 c24 => Sys2Proof.Machine.execPmnPointClear dt h point c15 c24 s
  | .pmnSecRead dt h point host => Sys2Proof.Machine.execPmnSecRead dt h point host s
  | .cipRootLoad dt h e => Sys2Proof.Machine.execCipRootLoad dt h e s
  | .cipKeyErase dt h e => Sys2Proof.Machine.execCipKeyErase dt h e s
  | .cipWrapLoad dt h p => Sys2Proof.Machine.execCipWrapLoad dt h p s
  | .cipEpochFlip dt h p stored => Sys2Proof.Machine.execCipEpochFlip dt h p stored s
  | .keyEpochFlip dt => Sys2Proof.Machine.execKeyEpochFlip dt s
  | .sealedBlockTx dt ctx before => Sys2Proof.Machine.execSealedBlockTx dt ctx before s
  | .sealedBlockRx dt ctx b => Sys2Proof.Machine.execSealedBlockRx dt ctx b s
  | .keyDerived dt => Sys2Proof.Machine.execKeyDerived dt s
  | .halfZeroise dt slot => Sys2Proof.Machine.execHalfZeroise dt slot s
  | .epochReservation dt stored => Sys2Proof.Machine.execEpochReservation dt stored s
  | .bulkMessage dt m => Sys2Proof.Machine.execBulkMessage dt m s
  | .bulkOpen dt pipe => Sys2Proof.Machine.execBulkOpen dt pipe s
  | .mateFrameRx dt lane f => Sys2Proof.Machine.execMateFrameRx dt lane f s
  | .laneRoleAssign dt => Sys2Proof.Machine.execLaneRoleAssign dt s
  | .mateListenEnd dt => Sys2Proof.Machine.execMateListenEnd dt s
  | .tallyLeaseRenewal dt => Sys2Proof.Machine.execTallyLeaseRenewal dt s
  | .grant dt t => Sys2Proof.Machine.execGrant dt t s
  | .ack dt t => Sys2Proof.Machine.execAck dt t s
  | .tallyInWord dt chips => Sys2Proof.Machine.execTallyInWord dt chips s
  | .surrender dt t => Sys2Proof.Machine.execSurrender dt t s
  | .claim dt t => Sys2Proof.Machine.execClaim dt t s
  | .health dt t => Sys2Proof.Machine.execHealth dt t s
  | .forward dt m f stored => Sys2Proof.Machine.execForward dt m f stored s
  | .place dt m p => Sys2Proof.Machine.execPlace dt m p s
  | .placeAck dt m cycle crc => Sys2Proof.Machine.execPlaceAck dt m cycle crc s
  | .ctrlImage dt m l => Sys2Proof.Machine.execCtrlImage dt m l s
  | .gate dt t => Sys2Proof.Machine.execGate dt t s
  | .parGateMiss dt ctx frame => Sys2Proof.Machine.execParGateMiss dt ctx frame s
  | .stateData dt t => Sys2Proof.Machine.execStateData dt t s
  | .stateCommit dt t snap => Sys2Proof.Machine.execStateCommit dt t snap s
  | .stateAck dt t => Sys2Proof.Machine.execStateAck dt t s
  | .drill dt m options cycle => Sys2Proof.Machine.execDrill dt m options cycle s
  | .stateCommitDeadline dt => Sys2Proof.Machine.execStateCommitDeadline dt s
  | .stateCopyEpoch dt => Sys2Proof.Machine.execStateCopyEpoch dt s
  | .parOrphan dt => Sys2Proof.Machine.execParOrphan dt s
  | .leaseViewExpiry dt => Sys2Proof.Machine.execLeaseViewExpiry dt s
  | .parPath dt => Sys2Proof.Machine.execParPath dt s
  | .healthReport dt => Sys2Proof.Machine.execHealthReport dt s
  | .canaryBist dt unit failed rotationEnd => Sys2Proof.Machine.execCanaryBist dt unit failed rotationEnd s
  | .parTake dt h => Sys2Proof.Machine.execParTake dt h s
  | .parSurrender dt h => Sys2Proof.Machine.execParSurrender dt h s
  | .parDrill dt h options => Sys2Proof.Machine.execParDrill dt h options s
  | .parClearFault dt h => Sys2Proof.Machine.execParClearFault dt h s
  | .drillAckTimeout dt => Sys2Proof.Machine.execDrillAckTimeout dt s
  | .drillClaimTimeout dt => Sys2Proof.Machine.execDrillClaimTimeout dt s
  | .governorStep dt o => Sys2Proof.Machine.execGovernorStep dt o s
  | .devPowerUpdate dt rails => Sys2Proof.Machine.execDevPowerUpdate dt rails s
  | .slewWindow dt => Sys2Proof.Machine.execSlewWindow dt s
  | .detectorArm dt => Sys2Proof.Machine.execDetectorArm dt s
  | .feedLoss dt => Sys2Proof.Machine.execFeedLoss dt s
  | .lgStageEnd dt => Sys2Proof.Machine.execLgStageEnd dt s
  | .pmbusPoll dt l => Sys2Proof.Machine.execPmbusPoll dt l s
  | .pmbAlert dt conv status => Sys2Proof.Machine.execPmbAlert dt conv status s
  | .engEpbUpdate dt => Sys2Proof.Machine.execEngEpbUpdate dt s
  | .engLastGasp dt h => Sys2Proof.Machine.execEngLastGasp dt h s
  | .engPmbXfer dt h p => Sys2Proof.Machine.execEngPmbXfer dt h p s
  | .engCrashRead dt h slot host => Sys2Proof.Machine.execEngCrashRead dt h slot host s
  | .engCrashRelease dt h slot => Sys2Proof.Machine.execEngCrashRelease dt h slot s
  | .engCrashPoints dt h count first points => Sys2Proof.Machine.execEngCrashPoints dt h count first points s
  | .descriptorFetch dt l => Sys2Proof.Machine.execDescriptorFetch dt l s
  | .heldEventRelease dt => Sys2Proof.Machine.execHeldEventRelease dt s
  | .dqWriteback dt d => Sys2Proof.Machine.execDqWriteback dt d s
  | .vectorTimer dt v => Sys2Proof.Machine.execVectorTimer dt v s
  | .pcieLinkChange dt up speed width => Sys2Proof.Machine.execPcieLinkChange dt up speed width s
  | .pciePowerState dt d3hot busMaster => Sys2Proof.Machine.execPciePowerState dt d3hot busMaster s
  | .hifDomainReset dt => Sys2Proof.Machine.execHifDomainReset dt s
  | .hifNop dt h value => Sys2Proof.Machine.execHifNop dt h value s
  | .hifDqBind dt h p => Sys2Proof.Machine.execHifDqBind dt h p s
  | .hifDqUnbind dt h d => Sys2Proof.Machine.execHifDqUnbind dt h d s
  | .hifSevSet dt h first count levels => Sys2Proof.Machine.execHifSevSet dt h first count levels s
  | .hifEvqTest dt h evq sev => Sys2Proof.Machine.execHifEvqTest dt h evq sev s
  | .queuePush dt q w => Sys2Proof.Machine.execQueuePush dt q w s
  | .queuePop dt q => Sys2Proof.Machine.execQueuePop dt q s
  | .queueFlush dt q => Sys2Proof.Machine.execQueueFlush dt q s
  | .qDrop dt q => Sys2Proof.Machine.execQDrop dt q s
  | .qPtrReset dt q which binary gray => Sys2Proof.Machine.execQPtrReset dt q which binary gray s
  | .queueResetEnd dt q => Sys2Proof.Machine.execQueueResetEnd dt q s
  | .qmgQCreate dt h p => Sys2Proof.Machine.execQmgQCreate dt h p s
  | .qmgQDestroy dt h q => Sys2Proof.Machine.execQmgQDestroy dt h q s
  | .qmgQSet dt h q high low hold holdValid => Sys2Proof.Machine.execQmgQSet dt h q high low hold holdValid s
  | .qmgQRead dt h q host => Sys2Proof.Machine.execQmgQRead dt h q host s
  | .qmgMark dt h q on => Sys2Proof.Machine.execQmgMark dt h q on s
  | .qmgRewind dt h q => Sys2Proof.Machine.execQmgRewind dt h q s
  | .qmgDropRest dt h q => Sys2Proof.Machine.execQmgDropRest dt h q s
  | .qmgQReset dt h q => Sys2Proof.Machine.execQmgQReset dt h q s
  | .registerWrite dt off value be => Sys2Proof.Machine.execRegisterWrite dt off value be s
  | .shadowLoRead dt off => Sys2Proof.Machine.execShadowLoRead dt off s
  | .glbCommit dt value => Sys2Proof.Machine.execGlbCommit dt value s
  | .commitSnapshot dt bad => Sys2Proof.Machine.execCommitSnapshot dt bad s
  | .commitOutcome dt => Sys2Proof.Machine.execCommitOutcome dt s
  | .glbDiscard dt value => Sys2Proof.Machine.execGlbDiscard dt value s
  | .rstReq dt value => Sys2Proof.Machine.execRstReq dt value s
  | .rstHewerReq dt third value => Sys2Proof.Machine.execRstHewerReq dt third value s
  | .resetReleased dt unit => Sys2Proof.Machine.execResetReleased dt unit s
  | .triScrub dt l => Sys2Proof.Machine.execTriScrub dt l s
  | .regCommit dt h mask => Sys2Proof.Machine.execRegCommit dt h mask s
  | .regDiscard dt h mask => Sys2Proof.Machine.execRegDiscard dt h mask s
  | .assayGranuleCheck dt g => Sys2Proof.Machine.execAssayGranuleCheck dt g s
  | .assayPassLate dt unit => Sys2Proof.Machine.execAssayPassLate dt unit s
  | .assayCompareStart dt => Sys2Proof.Machine.execAssayCompareStart dt s
  | .transferUnitRx dt unit u => Sys2Proof.Machine.execTransferUnitRx dt unit u s
  | .asyCheck dt h mask => Sys2Proof.Machine.execAsyCheck dt h mask s
  | .asyLoopback dt h src dst bytes units back => Sys2Proof.Machine.execAsyLoopback dt h src dst bytes units back s
  | .secTrngFail dt test fails => Sys2Proof.Machine.execSecTrngFail dt test fails s
  | .secChallenge dt h host => Sys2Proof.Machine.execSecChallenge dt h host s
  | .nonceExpiry dt => Sys2Proof.Machine.execNonceExpiry dt s
  | .secAttest dt h nonce host => Sys2Proof.Machine.execSecAttest dt h nonce host s
  | .secCertRead dt h host => Sys2Proof.Machine.execSecCertRead dt h host s
  | .secLifecycle dt h e => Sys2Proof.Machine.execSecLifecycle dt h e s
  | .secOpkeyRotate dt h e => Sys2Proof.Machine.execSecOpkeyRotate dt h e s
  | .secSvnCommit dt h => Sys2Proof.Machine.execSecSvnCommit dt h s
  | .secImageStage dt h length => Sys2Proof.Machine.execSecImageStage dt h length s
  | .secImageStaged dt => Sys2Proof.Machine.execSecImageStaged dt s
  | .secDebugUnlock dt h e => Sys2Proof.Machine.execSecDebugUnlock dt h e s
  | .secDebugLock dt h => Sys2Proof.Machine.execSecDebugLock dt h s
  | .debugExpiry dt => Sys2Proof.Machine.execDebugExpiry dt s
  | .powerOnResetRelease dt b => Sys2Proof.Machine.execPowerOnResetRelease dt b s
  | .railUndervoltage dt => Sys2Proof.Machine.execRailUndervoltage dt s
  | .perstNRelease dt speed width => Sys2Proof.Machine.execPerstNRelease dt speed width s
  | .selftestResult dt t => Sys2Proof.Machine.execSelftestResult dt t s
  | .configSetStage dt => Sys2Proof.Machine.execConfigSetStage dt s
  | .configStore dt ok => Sys2Proof.Machine.execConfigStore dt ok s
  | .cfgLoad dt h address length store => Sys2Proof.Machine.execCfgLoad dt h address length store s
  | .cfgStatus dt h => Sys2Proof.Machine.execCfgStatus dt h s
  | .bootLoad dt h address length units => Sys2Proof.Machine.execBootLoad dt h address length units s
  | .selftestRead dt h host => Sys2Proof.Machine.execSelftestRead dt h host s
  | .scrubWord dt e => Sys2Proof.Machine.execScrubWord dt e s
  | .hbmPatrol dt address region num error uncorr => Sys2Proof.Machine.execHbmPatrol dt address region num error uncorr s
  | .bkgEpoch dt hewerUse hbmUse waiting => Sys2Proof.Machine.execBkgEpoch dt hewerUse hbmUse waiting s
  | .tjUpdate dt => Sys2Proof.Machine.execTjUpdate dt s
  | .thermalFault dt => Sys2Proof.Machine.execThermalFault dt s
  | .ageMeasure dt l => Sys2Proof.Machine.execAgeMeasure dt l s
  | .lifeRecord dt => Sys2Proof.Machine.execLifeRecord dt s
  | .logAppend dt => Sys2Proof.Machine.execLogAppend dt s
  | .bkgAgeRead dt h host => Sys2Proof.Machine.execBkgAgeRead dt h host s
  | .bkgLogAppend dt h detail => Sys2Proof.Machine.execBkgLogAppend dt h detail s
  | .bkgLogRead dt h first sectors host => Sys2Proof.Machine.execBkgLogRead dt h first sectors host s
  | .tstArm dt value => Sys2Proof.Machine.execTstArm dt value s
  | .tstEnded dt => Sys2Proof.Machine.execTstEnded dt s
  | .refInputNoEdge dt cand => Sys2Proof.Machine.execRefInputNoEdge dt cand s
  | .esmcPduTimeout dt lane => Sys2Proof.Machine.execEsmcPduTimeout dt lane s
  | .porstNLow dt => Sys2Proof.Machine.execPorstNLow dt s
  | .foldedEventSecondEnd dt => Sys2Proof.Machine.execFoldedEventSecondEnd dt s

end Sys2Proof.Machine
end

