-- ==== Sys2Proof/Safety.lean ====
section
/-! DEFINITION. The terms that claims use: the invariant that every step keeps, which parts of the state a command may change,
and when a host command is admitted and how it is answered. -/

namespace Sys2Proof.Machine

/-- The DCO's offset lies within its limits (R94). -/
def dcoOk (d : Int) : Prop := -dcoLimit ≤ d ∧ d ≤ dcoLimit

/-- The host side keeps host memory's canonical form, and holds at most 64 events for each event queue (R467). -/
def ioOk (io : IoSt) : Prop := memWf io.mem = true ∧ ∀ e ∈ io.evq, e.2.held.length ≤ 64

/-- What every step keeps: the DCO within its limits (R94), at most 64 events held for an event queue (R467), and the canonical
form of host memory. -/
def Inv (s : State) : Prop := dcoOk s.dco ∧ ioOk s.io

/-- The parts of the state. -/
inductive Part where
  | pending | clock | dco | freeCtr | regs | io | shf | tim | flt | prt | rlk | frm | map | ovm | qmg | feeds | pm | cip | par
  | eng | asy | bkg | sec | sys
  deriving DecidableEq, Repr

/-- A part is the same in two states. -/
def Part.same (s t : State) : Part → Prop
  | .pending => t.pending = s.pending
  | .clock => t.time = s.time ∧ t.addr = s.addr
  | .dco => t.dco = s.dco
  | .freeCtr => t.freeCtr = s.freeCtr
  | .regs => t.regs = s.regs
  | .io => t.io = s.io
  | .shf => t.shf = s.shf
  | .tim => t.tim = s.tim
  | .flt => t.flt = s.flt
  | .prt => t.prt = s.prt
  | .rlk => t.rlk = s.rlk
  | .frm => t.frm = s.frm
  | .map => t.map = s.map
  | .ovm => t.ovm = s.ovm
  | .qmg => t.qmg = s.qmg
  | .feeds => t.feeds = s.feeds
  | .pm => t.pm = s.pm
  | .cip => t.cip = s.cip
  | .par => t.par = s.par
  | .eng => t.eng = s.eng
  | .asy => t.asy = s.asy
  | .bkg => t.bkg = s.bkg
  | .sec => t.sec = s.sec
  | .sys => t.sys = s.sys

/-- Between two states only the listed parts differ. -/
def OnlyChanges (l : List Part) (s t : State) : Prop := ∀ p : Part, p ∉ l → p.same s t

/-- Every register field but the listed ones reads the same in two states. -/
def RegsOnly (l : List (Fld × Nat)) (s t : State) : Prop :=
  ∀ (f : Fld) (i : Nat), (∀ e ∈ l, e.1.key e.2 ≠ f.key i) → t.rd f i = s.rd f i

/-- Every byte of host memory outside a run of `n` bytes at `a` reads the same in two states. -/
def MemOnly (a n : Nat) (s t : State) : Prop := ∀ c, c < a ∨ a + n ≤ c → memGet t.io.mem c = memGet s.io.mem c

/-- A host command delivered `dt` periods from now runs: its domain is not in reset, and has not been reset since the
delivery (R459, Table 19-5), and the device reads the buffer that it names, if any (R460). -/
def Admitted (s : State) (dt : Nat) (h : HostRef) (domain opcode : Nat) : Prop :=
  (s.elapse dt).inReset domain = false ∧ (s.elapse dt).stale h domain opcode = false ∧ (h.badRead && readsBuffer opcode) = false

/-- The newest completion is the one of this command, with this outcome, reason and packed result (R461). -/
def Answered (t : State) (h : HostRef) (opcode outcome reason : Nat) (result : List (Nat × Nat)) : Prop :=
  ∃ c, t.io.cpllog.head? = some c ∧ c.ring = h.ring ∧ c.tag = h.tag ∧ c.opcode = opcode ∧ c.outcome = outcome ∧
    c.reason = reason ∧ c.result = packItems result

/-- The newest event is this one, with this source and packed detail (R464). -/
def Raised (t : State) (code src : Nat) (detail : List (Nat × Nat)) : Prop :=
  ∃ r, t.io.evlog.head? = some r ∧ r.code = code ∧ r.src = src ∧ r.detail = packItems detail

/-- A command answers a next state of which `post` holds. -/
def Completes (i : Instr) (s : State) (post : State → Prop) : Prop := ∃ t, exec i s = .next t ∧ post t

/-- A control message from the mate that is acted on (R390, R391): its checks passed, it is of the row's type, its sequence number has
not been seen. The path was heard already, and hearing it ends no automatic takeover. -/
def FreshControl (s : State) (typ : Nat) (head : List Nat) (good : Bool) : Prop :=
  s.paired = true ∧ good = true ∧ head.headD 0 = typ ∧ headSeq head ∉ s.par.ctlSeen ∧
    s.rdBit Reg.PAR_LINK_PATH 0 = true ∧ s.parSt ≠ parTaking

/-- The state in which such a message is acted on: the path is heard, and the sequence number noted. -/
def State.heardControl (s : State) (head : List Nat) : State :=
  { s with par := { s.par with heardLink := some s.time, ctlSeen := (headSeq head :: s.par.ctlSeen).take 64 } }

/-- A data message from the mate that is acted on at once (R390, R391): its checks passed, it is of the row's type, its turn in the
stream has come, and none waits behind a gap. -/
def NextData (s : State) (typ : Nat) (head : List Nat) (good : Bool) : Prop :=
  s.paired = true ∧ good = true ∧ head.headD 0 = typ ∧ (s.par.dataNext = none ∨ s.par.dataNext = some (headSeq head)) ∧
    s.par.dataHeld = []

/-- The state in which a cycle boundary makes its selection decision (R63, R70): registers written in force, quality levels and
conditions judged, candidate 19 qualified, a step of the time of day made. -/
def State.atDecision (s : State) : State :=
  (((List.range 20).foldl (fun a n => a.candReview n)
    ((List.range 20).foldl (fun a n => (a.applyCandCfg n).qlRefresh n) s)).steerQualify).applyStep.judgeDisagree

/-- A doorbell read `dt` periods from now reads the page (R444, R445, R447, R50): the shaft runs, HIF_EN acts, and host memory may be
used. -/
def State.ReadsPage (s : State) (dt : Nat) : Prop :=
  s.halted = false ∧ s.rd Reg.HIF_EN 0 ≠ 0 ∧ s.io.enCycle ≤ (s.elapse dt).nextDoorbell / Config.cyclePos ∧ s.mayUseHost = true ∧
    s.io.resumeAt ≤ (s.elapse dt).nextDoorbell ∧ s.inReset domHif = false

/-- Domain `d` has entered reset between two states (R527, R577): it is shown in reset, its generation has moved on, and nothing
requests it; the others are shown as before. -/
def InResetNow (d : Nat) (s t : State) : Prop :=
  bitOf (t.rd Reg.RST_ACTIVE 0) d = true ∧ (∀ k, k < 13 → k ≠ d → bitOf (t.rd Reg.RST_ACTIVE 0) k = bitOf (s.rd Reg.RST_ACTIVE 0) k) ∧
    t.rd Reg.RST_GEN d = (s.rd Reg.RST_GEN d + 1) % 2 ^ 16 ∧ bitOf (t.rd Reg.RST_REQ 0) d = false

/-- The address of the slot of a CMD ring's CPL ring that its next completion takes (R461). -/
def State.cplSlot (s : State) (ring : Nat) : Nat :=
  let q := s.rd Reg.HIF_CMD_CPL ring
  s.rd Reg.HIF_CPL_BASE_LO q + 2 ^ 32 * s.rd Reg.HIF_CPL_BASE_HI q + 32 * (s.io.rd Reg.HIF_CPL_PROD q % 2 ^ s.rd Reg.HIF_CPL_SIZE q)

/-- A host command: when it comes, the descriptor it came from, its block's reset domain and its opcode. -/
def hostOf : Instr → Option (Nat × HostRef × Nat × Nat)
  | .timForce dt h .. => some (dt, h, domShaft, Op.TIM_FORCE)
  | .timClear dt h => some (dt, h, domShaft, Op.TIM_CLEAR)
  | .timLockout dt h .. => some (dt, h, domShaft, Op.TIM_LOCKOUT)
  | .timHoldover dt h .. => some (dt, h, domShaft, Op.TIM_HOLDOVER)
  | .timSteer dt h .. => some (dt, h, domShaft, Op.TIM_STEER)
  | .timSetTod dt h .. => some (dt, h, domShaft, Op.TIM_SET_TOD)
  | .timTodCapture dt h => some (dt, h, domShaft, Op.TIM_TOD_CAPTURE)
  | .timModelLoad dt h .. => some (dt, h, domShaft, Op.TIM_MODEL_LOAD)
  | .timWtrClear dt h .. => some (dt, h, domShaft, Op.TIM_WTR_CLEAR)
  | .fltConfig dt h .. => some (dt, h, domFlt, Op.FLT_CONFIG)
  | .fltCoefLoad dt h .. => some (dt, h, domFlt, Op.FLT_COEF_LOAD)
  | .fltSwap dt h .. => some (dt, h, domFlt, Op.FLT_SWAP)
  | .fltSyncReset dt h .. => some (dt, h, domFlt, Op.FLT_SYNC_RESET)
  | .fltFreeze dt h .. => some (dt, h, domFlt, Op.FLT_FREEZE)
  | .prtTest dt h lane _ _ => some (dt, h, laneDomain lane, Op.PRT_TEST)
  | .prtAdaptRestart dt h lane => some (dt, h, laneDomain lane, Op.PRT_ADAPT_RESTART)
  | .frmCtxCfg dt h .. => some (dt, h, 0, Op.FRM_CTX_CFG)
  | .frmTraceSet dt h .. => some (dt, h, 0, Op.FRM_TRACE_SET)
  | .frmCtxRead dt h .. => some (dt, h, 0, Op.FRM_CTX_READ)
  | .frmApsCfg dt h .. => some (dt, h, 0, Op.FRM_APS_CFG)
  | .frmApsCmd dt h .. => some (dt, h, 0, Op.FRM_APS_CMD)
  | .frmForce dt h .. => some (dt, h, 0, Op.FRM_FORCE)
  | .frmReframe dt h .. => some (dt, h, 0, Op.FRM_REFRAME)
  | .frmErrInsert dt h .. => some (dt, h, 0, Op.FRM_ERR_INSERT)
  | .mapCtxRead dt h .. => some (dt, h, 0, Op.MAP_CTX_READ)
  | .mapPageRead dt h .. => some (dt, h, 0, Op.MAP_PAGE_READ)
  | .mapDdStatus dt h .. => some (dt, h, 0, Op.MAP_DD_STATUS)
  | .ovmIntentAdd dt h .. => some (dt, h, 0, Op.OVM_INTENT_ADD)
  | .ovmIntentWithdraw dt h .. => some (dt, h, 0, Op.OVM_INTENT_WITHDRAW)
  | .ovmPin dt h .. => some (dt, h, 0, Op.OVM_PIN)
  | .ovmUnpin dt h .. => some (dt, h, 0, Op.OVM_UNPIN)
  | .ovmResultRead dt h .. => some (dt, h, 0, Op.OVM_RESULT_READ)
  | .ovmDefrag dt h => some (dt, h, 0, Op.OVM_DEFRAG)
  | .pmnPointCfg dt h .. => some (dt, h, 0, Op.PMN_POINT_CFG)
  | .pmnProfileSet dt h .. => some (dt, h, 0, Op.PMN_PROFILE_SET)
  | .pmnHistRead dt h .. => some (dt, h, 0, Op.PMN_HIST_READ)
  | .pmnPointClear dt h .. => some (dt, h, 0, Op.PMN_POINT_CLEAR)
  | .pmnSecRead dt h .. => some (dt, h, 0, Op.PMN_SEC_READ)
  | .cipRootLoad dt h .. => some (dt, h, 10, Op.CIP_ROOT_LOAD)
  | .cipKeyErase dt h .. => some (dt, h, 10, Op.CIP_KEY_ERASE)
  | .cipWrapLoad dt h .. => some (dt, h, 10, Op.CIP_WRAP_LOAD)
  | .cipEpochFlip dt h .. => some (dt, h, 10, Op.CIP_EPOCH_FLIP)
  | .parTake dt h => some (dt, h, 11, Op.PAR_TAKE)
  | .parSurrender dt h => some (dt, h, 11, Op.PAR_SURRENDER)
  | .parDrill dt h .. => some (dt, h, 11, Op.PAR_DRILL)
  | .parClearFault dt h => some (dt, h, 11, Op.PAR_CLEAR_FAULT)
  | .engLastGasp dt h => some (dt, h, 0, Op.ENG_LAST_GASP)
  | .engPmbXfer dt h .. => some (dt, h, 0, Op.ENG_PMB_XFER)
  | .engCrashRead dt h .. => some (dt, h, 0, Op.ENG_CRASH_READ)
  | .engCrashRelease dt h .. => some (dt, h, 0, Op.ENG_CRASH_RELEASE)
  | .engCrashPoints dt h .. => some (dt, h, 0, Op.ENG_CRASH_POINTS)
  | .hifNop dt h .. => some (dt, h, domHif, Op.HIF_NOP)
  | .hifDqBind dt h .. => some (dt, h, domHif, Op.HIF_DQ_BIND)
  | .hifDqUnbind dt h .. => some (dt, h, domHif, Op.HIF_DQ_UNBIND)
  | .hifSevSet dt h .. => some (dt, h, domHif, Op.HIF_SEV_SET)
  | .hifEvqTest dt h .. => some (dt, h, domHif, Op.HIF_EVQ_TEST)
  | .qmgQCreate dt h .. => some (dt, h, domQmg, Op.QMG_Q_CREATE)
  | .qmgQDestroy dt h .. => some (dt, h, domQmg, Op.QMG_Q_DESTROY)
  | .qmgQSet dt h .. => some (dt, h, domQmg, Op.QMG_Q_SET)
  | .qmgQRead dt h .. => some (dt, h, domQmg, Op.QMG_Q_READ)
  | .qmgMark dt h .. => some (dt, h, domQmg, Op.QMG_MARK)
  | .qmgRewind dt h .. => some (dt, h, domQmg, Op.QMG_REWIND)
  | .qmgDropRest dt h .. => some (dt, h, domQmg, Op.QMG_DROP_REST)
  | .qmgQReset dt h .. => some (dt, h, domQmg, Op.QMG_Q_RESET)
  | .regCommit dt h .. => some (dt, h, 0, Op.REG_COMMIT)
  | .regDiscard dt h .. => some (dt, h, 0, Op.REG_DISCARD)
  | .asyCheck dt h .. => some (dt, h, 0, Op.ASY_CHECK)
  | .asyLoopback dt h .. => some (dt, h, 0, Op.ASY_LOOPBACK)
  | .secChallenge dt h .. => some (dt, h, 0, Op.SEC_CHALLENGE)
  | .secAttest dt h .. => some (dt, h, 0, Op.SEC_ATTEST)
  | .secCertRead dt h .. => some (dt, h, 0, Op.SEC_CERT_READ)
  | .secLifecycle dt h .. => some (dt, h, 0, Op.SEC_LIFECYCLE)
  | .secOpkeyRotate dt h .. => some (dt, h, 0, Op.SEC_OPKEY_ROTATE)
  | .secSvnCommit dt h => some (dt, h, 0, Op.SEC_SVN_COMMIT)
  | .secImageStage dt h .. => some (dt, h, 0, Op.SEC_IMAGE_STAGE)
  | .secDebugUnlock dt h .. => some (dt, h, 0, Op.SEC_DEBUG_UNLOCK)
  | .secDebugLock dt h => some (dt, h, 0, Op.SEC_DEBUG_LOCK)
  | .cfgLoad dt h .. => some (dt, h, 0, Op.CFG_LOAD)
  | .cfgStatus dt h => some (dt, h, 0, Op.CFG_STATUS)
  | .bootLoad dt h .. => some (dt, h, 0, Op.BOOT_LOAD)
  | .selftestRead dt h .. => some (dt, h, 0, Op.SELFTEST_READ)
  | .bkgAgeRead dt h .. => some (dt, h, 0, Op.BKG_AGE_READ)
  | .bkgLogAppend dt h .. => some (dt, h, 0, Op.BKG_LOG_APPEND)
  | .bkgLogRead dt h .. => some (dt, h, 0, Op.BKG_LOG_READ)
  | .schedSwap .. | .armSwap .. | .hewerWakeup .. | .doorbellRead .. | .gateSlip .. | .shaftHalt .. | .shaftStart ..
  | .timFreqMeasure .. | .refQualified .. | .timHoldoffExpiry .. | .refSelection .. | .refSwitchDone .. | .wtrExpiry ..
  | .steerWdogExpiry .. | .holdoverUpdate .. | .modelLearnSample .. | .todSetApply .. | .ppsinEdge .. | .ppsoutPulse ..
  | .fltOutputWord .. | .inputStuck .. | .xfadeStart .. | .xfadeDone .. | .swapDone .. | .fltSyncResetApply .. | .laneLos ..
  | .laneLol .. | .laneBlockLock .. | .laneHiber .. | .laneReady .. | .eyeMeasure .. | .prbsLock .. | .trbFrameRx ..
  | .trbAlign .. | .rlkFrameRx .. | .rlkLfa .. | .tubRx .. | .ddHoldExpiry .. | .copyRecordClose .. | .framerFrameRx ..
  | .lofDeclare .. | .otlLol .. | .crc4SearchTimeout .. | .ohExtract .. | .ohInsert .. | .sdSfEval .. | .apsHoldoffExpiry ..
  | .apsWtrExpiry .. | .handover .. | .clientFrameRx .. | .gfpFrameRx .. | .carriageBlockRx .. | .ddPlayout ..
  | .mapRateLimit .. | .ovmMovePlan .. | .ovmHoldExpired .. | .stageUnusable .. | .ovmRestart .. | .ovmEngines ..
  | .unitWakeReady .. | .pmSecondBoundary .. | .pmSecondRead .. | .pmBinClosure .. | .keyEpochFlip .. | .sealedBlockTx ..
  | .sealedBlockRx .. | .keyDerived .. | .halfZeroise .. | .epochReservation .. | .bulkMessage .. | .bulkOpen ..
  | .mateFrameRx .. | .laneRoleAssign .. | .mateListenEnd .. | .tallyLeaseRenewal .. | .grant .. | .ack .. | .tallyInWord ..
  | .surrender .. | .claim .. | .health .. | .forward .. | .place .. | .placeAck .. | .ctrlImage .. | .gate ..
  | .parGateMiss .. | .stateData .. | .stateCommit .. | .stateAck .. | .drill .. | .stateCommitDeadline ..
  | .stateCopyEpoch .. | .parOrphan .. | .leaseViewExpiry .. | .parPath .. | .healthReport .. | .canaryBist ..
  | .drillAckTimeout .. | .drillClaimTimeout .. | .governorStep .. | .devPowerUpdate .. | .slewWindow .. | .detectorArm ..
  | .feedLoss .. | .lgStageEnd .. | .pmbusPoll .. | .pmbAlert .. | .engEpbUpdate .. | .descriptorFetch ..
  | .heldEventRelease .. | .dqWriteback .. | .vectorTimer .. | .pcieLinkChange .. | .pciePowerState .. | .hifDomainReset ..
  | .queuePush .. | .queuePop .. | .queueFlush .. | .qDrop .. | .qPtrReset .. | .queueResetEnd .. | .registerWrite ..
  | .shadowLoRead .. | .glbCommit .. | .commitSnapshot .. | .commitOutcome .. | .glbDiscard .. | .rstReq ..
  | .rstHewerReq .. | .resetReleased .. | .triScrub .. | .assayGranuleCheck .. | .assayPassLate .. | .assayCompareStart ..
  | .transferUnitRx .. | .secTrngFail .. | .nonceExpiry .. | .secImageStaged .. | .debugExpiry .. | .powerOnResetRelease ..
  | .railUndervoltage .. | .perstNRelease .. | .selftestResult .. | .configSetStage .. | .configStore .. | .scrubWord ..
  | .hbmPatrol .. | .bkgEpoch .. | .tjUpdate .. | .thermalFault .. | .ageMeasure .. | .lifeRecord .. | .logAppend ..
  | .tstArm .. | .tstEnded .. | .refInputNoEdge .. | .esmcPduTimeout .. | .porstNLow .. | .foldedEventSecondEnd .. => none

/-- The parts of the state that a command may change. -/
def framesOf : Instr → List Part
  | .schedSwap .. =>
    [.clock, .freeCtr, .regs, .io, .shf, .tim, .prt, .rlk, .frm, .map, .ovm, .qmg, .pm, .cip, .par, .eng, .bkg]
  | .armSwap .. =>
    [.clock, .regs, .io, .shf, .tim, .prt, .rlk, .frm, .map, .ovm, .pm, .par, .eng]
  | .hewerWakeup .. =>
    [.clock, .freeCtr, .regs, .io, .shf]
  | .doorbellRead .. =>
    [.clock, .regs, .io, .shf, .qmg, .sec]
  | .gateSlip .. | .shaftHalt .. =>
    [.clock, .regs, .io, .shf, .rlk]
  | .shaftStart .. =>
    [.clock, .freeCtr, .regs, .io, .shf, .tim, .rlk, .qmg]
  | .timFreqMeasure .. | .refQualified .. | .timHoldoffExpiry .. | .refSwitchDone .. | .wtrExpiry ..
  | .steerWdogExpiry .. | .ppsinEdge .. | .timForce .. | .timClear .. | .timLockout .. | .timSteer .. | .timModelLoad ..
  | .timWtrClear .. | .refInputNoEdge .. | .esmcPduTimeout .. =>
    [.clock, .regs, .io, .tim]
  | .refSelection .. =>
    [.clock, .dco, .regs, .io, .tim, .pm, .par]
  | .holdoverUpdate .. =>
    [.clock, .dco, .freeCtr, .regs, .io, .tim]
  | .modelLearnSample .. =>
    [.clock, .freeCtr, .regs, .io, .tim]
  | .todSetApply .. =>
    [.clock, .tim, .pm]
  | .ppsoutPulse .. =>
    [.clock, .tim]
  | .timHoldover .. | .timSetTod .. =>
    [.clock, .io, .tim]
  | .timTodCapture .. | .pmnSecRead .. | .engCrashRead .. | .heldEventRelease .. | .pciePowerState .. | .hifNop ..
  | .hifSevSet .. | .hifEvqTest .. | .secAttest .. | .secCertRead .. | .cfgStatus .. | .bkgAgeRead .. | .bkgLogAppend ..
  | .bkgLogRead .. | .foldedEventSecondEnd .. =>
    [.clock, .io]
  | .fltOutputWord .. =>
    [.clock, .freeCtr, .regs, .io, .tim, .flt, .qmg, .feeds]
  | .inputStuck .. | .xfadeStart .. | .xfadeDone .. | .swapDone .. | .fltSyncResetApply .. | .fltCoefLoad ..
  | .fltSwap .. =>
    [.clock, .regs, .io, .flt]
  | .fltConfig .. | .fltSyncReset .. =>
    [.clock, .io, .flt]
  | .fltFreeze .. | .laneHiber .. | .prbsLock .. | .mapPageRead .. | .pmnHistRead .. | .parOrphan .. | .pmbusPoll ..
  | .pmbAlert .. | .engPmbXfer .. | .vectorTimer .. | .glbCommit .. | .glbDiscard .. | .triScrub .. | .regCommit ..
  | .regDiscard .. | .assayPassLate .. =>
    [.clock, .regs, .io]
  | .laneLos .. =>
    [.clock, .regs, .io, .tim, .prt, .rlk, .frm, .pm]
  | .laneLol .. | .laneBlockLock .. | .prtAdaptRestart .. =>
    [.clock, .regs, .io, .tim, .rlk, .frm, .pm]
  | .laneReady .. =>
    [.clock, .freeCtr, .regs, .io, .tim, .prt]
  | .eyeMeasure .. =>
    [.clock, .freeCtr, .regs, .prt]
  | .trbFrameRx .. =>
    [.clock, .regs, .io, .tim, .prt, .frm, .pm]
  | .trbAlign .. | .lofDeclare .. | .otlLol .. | .crc4SearchTimeout .. | .ohExtract .. | .sdSfEval .. | .frmReframe .. =>
    [.clock, .regs, .io, .tim, .frm, .pm]
  | .prtTest .. =>
    [.clock, .regs, .io, .prt]
  | .rlkFrameRx .. =>
    [.clock, .freeCtr, .regs, .io, .tim, .rlk, .pm]
  | .rlkLfa .. =>
    [.clock, .regs, .io, .tim, .pm]
  | .tubRx .. =>
    [.clock, .regs, .io, .rlk, .qmg, .pm, .bkg]
  | .ddHoldExpiry .. =>
    [.clock, .regs, .io, .rlk, .qmg, .pm]
  | .copyRecordClose .. =>
    [.clock, .regs, .rlk]
  | .framerFrameRx .. =>
    [.clock, .regs, .io, .tim, .frm, .map, .pm]
  | .ohInsert .. | .ctrlImage .. =>
    [.clock, .regs, .io, .frm, .par]
  | .apsHoldoffExpiry .. | .apsWtrExpiry .. =>
    [.clock, .frm]
  | .frmCtxCfg .. | .frmForce .. | .frmErrInsert .. =>
    [.clock, .regs, .io, .frm, .ovm]
  | .frmTraceSet .. =>
    [.clock, .regs, .io, .frm, .ovm, .par]
  | .frmCtxRead .. | .mapDdStatus .. | .ovmIntentWithdraw .. | .ovmPin .. | .ovmUnpin .. | .ovmResultRead ..
  | .ovmEngines .. =>
    [.clock, .regs, .io, .ovm]
  | .frmApsCfg .. | .frmApsCmd .. =>
    [.clock, .io, .frm]
  | .handover .. =>
    [.clock, .regs, .map]
  | .clientFrameRx .. =>
    [.clock, .regs, .io, .tim, .map, .qmg]
  | .gfpFrameRx .. =>
    [.clock, .regs, .io, .map, .pm]
  | .carriageBlockRx .. | .mapRateLimit .. =>
    [.clock, .regs, .io, .map]
  | .ddPlayout .. =>
    [.clock, .map]
  | .mapCtxRead .. =>
    [.clock, .freeCtr, .regs, .io, .ovm]
  | .ovmIntentAdd .. | .ovmMovePlan .. | .unitWakeReady .. | .slewWindow .. =>
    [.clock, .regs, .io, .tim, .prt, .rlk, .frm, .ovm, .pm, .eng]
  | .ovmDefrag .. =>
    [.clock, .io, .ovm]
  | .ovmHoldExpired .. | .ovmRestart .. =>
    [.clock, .freeCtr, .regs, .io, .frm, .ovm, .par]
  | .stageUnusable .. =>
    [.clock, .freeCtr, .regs, .io, .ovm, .pm, .par]
  | .pmSecondBoundary .. | .pmSecondRead .. | .pmBinClosure .. =>
    [.clock, .regs, .io, .qmg, .pm]
  | .pmnPointCfg .. | .pmnProfileSet .. | .pmnPointClear .. =>
    [.clock, .io, .pm]
  | .cipRootLoad .. | .cipKeyErase .. =>
    [.clock, .regs, .io, .cip, .par, .sec]
  | .cipWrapLoad .. =>
    [.clock, .regs, .io, .cip, .par]
  | .cipEpochFlip .. =>
    [.clock, .regs, .io, .shf, .cip, .par]
  | .keyEpochFlip .. =>
    [.clock, .regs, .shf, .cip]
  | .sealedBlockTx .. =>
    [.clock, .freeCtr, .regs, .io, .map, .cip]
  | .sealedBlockRx .. =>
    [.clock, .regs, .io, .tim, .frm, .pm, .cip]
  | .keyDerived .. =>
    [.clock, .regs, .cip]
  | .halfZeroise .. | .secDebugUnlock .. =>
    [.clock, .freeCtr, .regs, .io, .pm, .cip, .par, .sec, .sys]
  | .epochReservation .. | .bulkOpen .. =>
    [.clock, .regs, .io, .cip]
  | .bulkMessage .. =>
    [.clock, .regs, .io, .tim, .prt, .rlk, .frm, .ovm, .pm, .cip, .eng]
  | .mateFrameRx .. | .claim .. =>
    [.clock, .freeCtr, .regs, .io, .par]
  | .laneRoleAssign .. | .grant .. | .ack .. | .stateAck .. | .drill .. | .stateCommitDeadline .. | .parSurrender .. =>
    [.clock, .regs, .io, .par]
  | .mateListenEnd .. =>
    [.clock, .freeCtr, .regs, .io, .shf, .tim, .rlk, .qmg, .par]
  | .tallyLeaseRenewal .. | .stateCopyEpoch .. =>
    [.clock, .regs, .par]
  | .tallyInWord .. | .surrender .. | .leaseViewExpiry .. | .parPath .. | .healthReport .. | .canaryBist ..
  | .parTake .. | .parClearFault .. | .drillClaimTimeout .. | .thermalFault .. =>
    [.clock, .freeCtr, .regs, .io, .pm, .par]
  | .health .. =>
    [.clock, .freeCtr, .regs, .io, .shf, .ovm, .pm, .cip, .par]
  | .forward .. =>
    [.clock, .regs, .io, .shf, .tim, .prt, .rlk, .frm, .ovm, .pm, .cip, .par, .eng, .sec]
  | .place .. | .gate .. | .stateData .. =>
    [.clock, .regs, .io, .shf, .map, .ovm, .cip, .par]
  | .placeAck .. =>
    [.clock, .regs, .io, .shf, .map, .ovm, .par]
  | .parGateMiss .. =>
    [.clock, .freeCtr, .regs, .io, .map, .par]
  | .stateCommit .. =>
    [.clock, .freeCtr, .regs, .io, .shf, .tim, .prt, .rlk, .frm, .map, .ovm, .qmg, .pm, .cip, .par, .bkg]
  | .parDrill .. =>
    [.clock, .io, .par]
  | .drillAckTimeout .. =>
    [.clock, .freeCtr, .io, .par]
  | .governorStep .. =>
    [.clock, .freeCtr, .regs, .io, .tim, .prt, .rlk, .frm, .ovm, .feeds, .pm, .par, .eng]
  | .devPowerUpdate .. =>
    [.clock, .freeCtr, .regs, .eng]
  | .detectorArm .. | .shadowLoRead .. | .nonceExpiry .. =>
    [.clock, .regs]
  | .feedLoss .. | .engLastGasp .. =>
    [.clock, .freeCtr, .regs, .io, .tim, .prt, .rlk, .frm, .ovm, .qmg, .pm, .par, .eng, .sys]
  | .lgStageEnd .. =>
    [.clock, .freeCtr, .regs, .io, .shf, .rlk, .qmg, .pm, .eng]
  | .engEpbUpdate .. =>
    [.clock, .freeCtr, .regs]
  | .engCrashRelease .. | .engCrashPoints .. =>
    [.clock, .io, .eng]
  | .descriptorFetch .. | .asyLoopback .. =>
    [.clock, .regs, .io, .bkg]
  | .dqWriteback .. | .hifDqBind .. | .hifDqUnbind .. | .qDrop .. | .qmgQDestroy .. | .qmgQRead .. =>
    [.clock, .io, .qmg]
  | .pcieLinkChange .. | .hifDomainReset .. | .resetReleased .. | .perstNRelease .. =>
    [.clock, .dco, .freeCtr, .regs, .io, .shf, .tim, .flt, .prt, .rlk, .frm, .map, .ovm, .qmg, .pm, .cip, .par, .asy, .sys]
  | .queuePush .. | .qPtrReset .. | .qmgQSet .. | .qmgMark .. | .qmgRewind .. | .qmgDropRest .. | .qmgQReset .. =>
    [.clock, .regs, .io, .qmg]
  | .queuePop .. =>
    [.clock, .regs, .io, .rlk, .map, .qmg]
  | .queueFlush .. =>
    [.clock, .regs, .qmg]
  | .queueResetEnd .. =>
    [.clock, .qmg]
  | .qmgQCreate .. =>
    [.clock, .freeCtr, .io, .qmg]
  | .registerWrite .. | .rstReq .. | .assayGranuleCheck .. | .railUndervoltage .. | .scrubWord .. | .porstNLow .. =>
    [.clock, .dco, .freeCtr, .regs, .io, .shf, .tim, .flt, .prt, .rlk, .frm, .map, .ovm, .qmg, .feeds, .pm, .cip, .par, .eng, .asy, .bkg, .sec, .sys]
  | .commitSnapshot .. | .commitOutcome .. =>
    [.clock, .regs, .io, .shf, .tim, .flt, .prt, .rlk, .frm, .pm, .cip, .asy, .bkg, .sec, .sys]
  | .rstHewerReq .. =>
    [.clock, .freeCtr, .regs, .io, .frm, .ovm, .par, .sys]
  | .assayCompareStart .. =>
    [.clock, .regs, .io, .qmg, .asy, .bkg]
  | .transferUnitRx .. =>
    [.clock, .regs, .io, .asy, .bkg]
  | .asyCheck .. =>
    [.clock, .regs, .io, .asy]
  | .secTrngFail .. | .secOpkeyRotate .. | .secSvnCommit .. | .secImageStaged .. =>
    [.clock, .regs, .io, .sec]
  | .secChallenge .. =>
    [.clock, .freeCtr, .regs, .io, .sec]
  | .secLifecycle .. =>
    [.clock, .regs, .io, .cip, .eng, .sec]
  | .secImageStage .. =>
    [.clock, .regs, .io, .asy, .sec]
  | .secDebugLock .. =>
    [.clock, .regs, .io, .sec, .sys]
  | .debugExpiry .. =>
    [.clock, .regs, .io, .sys]
  | .powerOnResetRelease .. =>
    [.clock, .regs, .io, .shf, .cip, .par, .eng, .sec, .sys]
  | .selftestResult .. =>
    [.clock, .freeCtr, .regs, .io, .shf, .rlk, .ovm, .pm, .par, .bkg, .sec, .sys]
  | .configSetStage .. =>
    [.clock, .regs, .io, .asy, .sys]
  | .configStore .. =>
    [.clock, .freeCtr, .io, .sys]
  | .cfgLoad .. =>
    [.clock, .io, .asy, .sys]
  | .bootLoad .. =>
    [.clock, .regs, .io, .bkg, .sec, .sys]
  | .selftestRead .. =>
    [.clock, .freeCtr, .io]
  | .hbmPatrol .. =>
    [.clock, .regs, .io, .rlk, .map, .qmg, .pm, .bkg]
  | .bkgEpoch .. | .tstArm .. | .tstEnded .. =>
    [.clock, .regs, .io, .qmg, .bkg]
  | .tjUpdate .. =>
    [.clock, .freeCtr, .regs, .io, .qmg, .bkg]
  | .ageMeasure .. =>
    [.clock, .freeCtr, .io, .bkg]
  | .lifeRecord .. | .logAppend .. =>
    [.clock, .freeCtr, .regs, .io, .bkg]

end Sys2Proof.Machine
end

