-- ==== Sys2Proof/Certificates/Slice0/Obligations.lean ====
section
/-! DEFINITION. The statements for the provers, about the block as a whole and then family by family. -/

open Sys2Proof Sys2Proof.Machine

/-- A step with a command at the front of the queue is that command's effect, the rest of the queue still waiting. -/
def Obligations.StepRunsFrontCommand : Prop :=
  ∀ (c : Instr) (rest : List Instr) (s : State), s.pending = c :: rest → step s = exec c { s with pending := rest }

/-- With no command waiting one position period passes: the model's choice (log entry 2) on R33 and R34. -/
def Obligations.EmptyQueueLetsOnePeriodPass : Prop :=
  ∀ s : State, s.pending = [] →
    step s = .next { s with time := s.time + 1, addr := if s.rd Reg.SHF_STATE 0 = 0 then s.addr else s.addr + 1 }

/-- No command stops the block: the spec gives each an effect in every state. -/
def Obligations.CommandsAnswerANextState : Prop := ∀ (i : Instr) (s : State), ∃ t, exec i s = .next t

/-- The block right after reset: each register field reads its table's reset value, nothing waits, nothing is in host memory that the
device has written, and the shaft is HALTED at 0:0. The values the spec leaves open are the model's (log entries 5 and 6). -/
def Obligations.ResetLeavesTheTablesValues : Prop :=
  (∀ f i, State.reset.rd f i = f.resetAt i) ∧ State.reset.pending = [] ∧ State.reset.io.mem = [] ∧ State.reset.halted = true ∧
    State.reset.addr = 0 ∧ State.reset.rd Reg.GLB_ID 0 = 0x9640B081 ∧ State.reset.cip.slots = [] ∧ State.reset.ovm.intents = [] ∧
    State.reset.qmg.dqs = [] ∧ ∀ n, n < 16 → State.reset.rd Reg.HIF_CMD_EN n = 0 ∧ State.reset.rd Reg.HIF_CPL_EN n = 0

/-- What every step keeps holds right after reset. -/
def Obligations.InvariantHoldsAtReset : Prop := Inv State.reset

/-- From every state that meets the invariant a step gives one that meets it: the DCO stays within ±500 ppm (R94), no event queue
holds more than 64 events (R467), and host memory keeps its canonical form. -/
def Obligations.StepKeepsInvariant : Prop := ∀ s t : State, Inv s → step s = .next t → Inv t

/-- Each command changes only the parts of the block that it acts on; all others stay as they were. -/
def Obligations.CommandsChangeOnlyTheirParts : Prop := ∀ (i : Instr) (s t : State), exec i s = .next t → OnlyChanges (framesOf i) s t

/-- No command takes from the queue or adds to it. -/
def Obligations.CommandsLeaveTheQueue : Prop := ∀ (i : Instr) (s t : State), exec i s = .next t → t.pending = s.pending

/-- A host command whose block's domain is in reset is answered RESET_IN_PROGRESS, one whose domain was reset since its delivery
ABORTED (R459, Table 19-5), and one of which the buffer cannot be read PCIE_ERROR (R460), with no other effect. The answer stores at most the 32 bytes of its completion. -/
def Obligations.HostCommandsMeetResets : Prop :=
  ∀ (i : Instr) (s : State) (dt : Nat) (h : HostRef) (d op : Nat), hostOf i = some (dt, h, d, op) →
    ((s.elapse dt).inReset d = true →
      Completes i s fun t =>
        Answered t h op 3 6 [] ∧ OnlyChanges [.clock, .io] s t ∧ t.time = s.time + dt ∧ MemOnly (s.cplSlot h.ring) 32 s t) ∧
    ((s.elapse dt).inReset d = false → (s.elapse dt).stale h d op = true →
      Completes i s fun t =>
        Answered t h op 3 7 [] ∧ OnlyChanges [.clock, .io] s t ∧ t.time = s.time + dt ∧ MemOnly (s.cplSlot h.ring) 32 s t) ∧
    ((s.elapse dt).inReset d = false → (s.elapse dt).stale h d op = false → h.badRead = true → readsBuffer op = true →
      Completes i s fun t =>
        Answered t h op 3 8 [] ∧ OnlyChanges [.clock, .io] s t ∧ t.time = s.time + dt ∧ MemOnly (s.cplSlot h.ring) 32 s t)

/-- A completion goes whole into the next slot of the CPL ring that HIF_CMD_CPL names, and nowhere else (R461); while the ring is
disabled it is dropped and counted (R463); while host memory may not be written it is held (R444). -/
def Obligations.CompletionsTakeTheirSlot : Prop :=
  ∀ (s : State) (h : HostRef) (op outcome reason : Nat) (result : List (Nat × Nat)) (q : Nat),
    let t := s.complete h op outcome reason result
    let c : CplRec := { ring := h.ring, tag := h.tag, opcode := op, outcome := outcome, reason := reason, stamp := stampOf s.addr,
                        result := packItems result }
    q = s.rd Reg.HIF_CMD_CPL h.ring →
    MemOnly (s.cplSlot h.ring) 32 s t ∧ Answered t h op outcome reason result ∧
    (s.mayUseHost = true → s.io.heldCpl = [] → h.noCpl = false →
      (∀ d ∈ s.io.delivered, d.isOf h.ring h.tag op = true → d.dead = false) → s.rd Reg.HIF_CPL_EN q = 1 → q < 16 →
      t.io.mem = memWrite s.io.mem (s.cplSlot h.ring)
        (c.bytes (aliveOf (s.io.full Reg.HIF_CPL_PROD q (s.io.rd Reg.HIF_CPL_PROD q)) (2 ^ s.rd Reg.HIF_CPL_SIZE q))) ∧
      t.io.rd Reg.HIF_CPL_PROD q = (s.io.rd Reg.HIF_CPL_PROD q + 1) % 2 ^ 32) ∧
    (s.mayUseHost = true → s.io.heldCpl = [] → h.noCpl = false →
      (∀ d ∈ s.io.delivered, d.isOf h.ring h.tag op = true → d.dead = false) → s.rd Reg.HIF_CPL_EN q ≠ 1 → q < 16 →
      t.io.mem = s.io.mem ∧ t.io.rd Reg.HIF_CPL_DROP_CNT q = (s.io.rd Reg.HIF_CPL_DROP_CNT q + 1) % 2 ^ 32) ∧
    (s.mayUseHost = false → h.noCpl = false → (∀ d ∈ s.io.delivered, d.isOf h.ring h.tag op = true → d.dead = false) →
      t.io.mem = s.io.mem ∧ t.io.heldCpl = s.io.heldCpl ++ [c])

/-- Commands that store nothing beside their completion leave every other byte of host memory as it was; those that return a buffer
store in it besides. R4, R461 and the commands' own tables. -/
def Obligations.AnswersStoreOnlyTheirBytes : Prop :=
  ∀ (s t : State) (dt : Nat) (h : HostRef),
    (∀ (on stamp sec ns value first count point : Nat) (levels : List Nat) (c15 c24 : Bool),
      ∀ i ∈ [Instr.timClear dt h, .timHoldover dt h on, .timSetTod dt h stamp sec ns, .timTodCapture dt h, .hifNop dt h value,
        .hifSevSet dt h first count levels, .cfgStatus dt h, .pmnPointClear dt h point c15 c24],
      exec i s = .next t → MemOnly (s.cplSlot h.ring) 32 s t) ∧
    (∀ p, exec (.mapPageRead dt h p) s = .next t →
      ∀ c, (c < p.host ∨ p.host + (if p.what = 0 then 16 else 8) * p.count ≤ c) →
        (c < s.cplSlot h.ring ∨ s.cplSlot h.ring + 32 ≤ c) → memGet t.io.mem c = memGet s.io.mem c) ∧
    (∀ point host, exec (.pmnSecRead dt h point host) s = .next t →
      ∀ c, (c < host ∨ host + ((s.toNextCycle dt).pointBytes point).length ≤ c) →
        (c < s.cplSlot h.ring ∨ s.cplSlot h.ring + 32 ≤ c) → memGet t.io.mem c = memGet s.io.mem c)

/-- An event goes into the next slot of the event queue that HIF_EVQ_ROUTE names for its code, a CRITICAL one into EVQ 0 as well
(R464, R465). Both queues are enabled, hold nothing back and have room here. -/
def Obligations.EventsGoToTheirQueues : Prop :=
  ∀ (s : State) (code src q : Nat) (det : List (Nat × Nat)), q = s.routeOf code → q < 32 →
    s.evqOpen q = true → (tget {} s.io.evq q).held = [] → (tget {} s.io.evq q).inOver = false → 2 ≤ s.evqFree s.io q →
    (s.severity code ≠ 4 ∨ q = 0 →
      (s.raise code src det).io.mem = memWrite s.io.mem (s.evqBase q + 32 * (s.io.rd Reg.HIF_EVQ_PROD q % s.evqSize q))
        ((s.evRec code src det false false).bytes
          (aliveOf (s.io.full Reg.HIF_EVQ_PROD q (s.io.rd Reg.HIF_EVQ_PROD q)) (s.evqSize q))) ∧
      (s.raise code src det).io.rd Reg.HIF_EVQ_PROD q = (s.io.rd Reg.HIF_EVQ_PROD q + 1) % 2 ^ 32 ∧
      (∀ k, k < 32 → k ≠ q → (s.raise code src det).io.rd Reg.HIF_EVQ_PROD k = s.io.rd Reg.HIF_EVQ_PROD k)) ∧
    (s.severity code = 4 → q ≠ 0 → s.evqOpen 0 = true → (tget {} s.io.evq 0).held = [] → (tget {} s.io.evq 0).inOver = false →
      2 ≤ s.evqFree s.io 0 →
      (s.raise code src det).io.rd Reg.HIF_EVQ_PROD q = (s.io.rd Reg.HIF_EVQ_PROD q + 1) % 2 ^ 32 ∧
      (s.raise code src det).io.rd Reg.HIF_EVQ_PROD 0 = (s.io.rd Reg.HIF_EVQ_PROD 0 + 1) % 2 ^ 32)

/-- An event changes host memory only inside the rings of its own event queue and of EVQ 0 (R464). -/
def Obligations.EventsStoreOnlyInTheirRings : Prop :=
  ∀ (s : State) (r : EvRec) (q c : Nat), r.detail.length = 12 →
    (∀ k, k = 0 ∨ k = q → c < s.evqBase k ∨ s.evqBase k + 32 * s.evqSize k ≤ c) →
    memGet (s.ioRaise r q).mem c = memGet s.io.mem c

/-- An event queue with one free slot takes EVQ_OVERFLOW in place of the event, which is dropped and counted, as is every later one
(R466); a queue that cannot be written holds up to 64 events, and counts what it drops (R467). Said of EVQ 0. -/
def Obligations.EventQueuesOverflow : Prop :=
  ∀ (s : State) (r : EvRec),
    (s.evqOpen 0 = true → (tget {} s.io.evq 0).held = [] → (tget {} s.io.evq 0).inOver = false → s.evqFree s.io 0 = 1 →
      (s.ioRaise r 0).mem = memWrite s.io.mem (s.evqBase 0 + 32 * (s.io.rd Reg.HIF_EVQ_PROD 0 % s.evqSize 0))
        ((s.overflowRec 0 0 0 0).bytes (aliveOf (s.io.full Reg.HIF_EVQ_PROD 0 (s.io.rd Reg.HIF_EVQ_PROD 0)) (s.evqSize 0))) ∧
      (s.ioRaise r 0).rd Reg.HIF_EVQ_DROP_CNT 0 = (s.io.rd Reg.HIF_EVQ_DROP_CNT 0 + 1) % 2 ^ 32 ∧
      (tget {} (s.ioRaise r 0).evq 0).inOver = true ∧ (tget {} (s.ioRaise r 0).evq 0).drops = 1) ∧
    (s.evqOpen 0 = true → (tget {} s.io.evq 0).held = [] → (tget {} s.io.evq 0).inOver = true →
      (s.ioRaise r 0).mem = s.io.mem ∧
      (s.ioRaise r 0).rd Reg.HIF_EVQ_DROP_CNT 0 = (s.io.rd Reg.HIF_EVQ_DROP_CNT 0 + 1) % 2 ^ 32 ∧
      (tget {} (s.ioRaise r 0).evq 0).drops = (tget {} s.io.evq 0).drops + 1) ∧
    (s.evqOpen 0 = false → (tget {} s.io.evq 0).held.length < 64 →
      (s.ioRaise r 0).mem = s.io.mem ∧ (tget {} (s.ioRaise r 0).evq 0).held = (tget {} s.io.evq 0).held ++ [r] ∧
      (s.ioRaise r 0).rd Reg.HIF_EVQ_DROP_CNT 0 = s.io.rd Reg.HIF_EVQ_DROP_CNT 0) ∧
    (s.evqOpen 0 = false → (tget {} s.io.evq 0).held.length = 64 →
      (s.ioRaise r 0).mem = s.io.mem ∧ (tget {} (s.ioRaise r 0).evq 0).held = (tget {} s.io.evq 0).held ∧
      (tget {} (s.ioRaise r 0).evq 0).lost = (tget {} s.io.evq 0).lost + 1 ∧
      (s.ioRaise r 0).rd Reg.HIF_EVQ_DROP_CNT 0 = (s.io.rd Reg.HIF_EVQ_DROP_CNT 0 + 1) % 2 ^ 32)

/-- A run of bytes written to host memory reads back at its addresses, and no other byte changes; the canonical form is kept. -/
def Obligations.HostMemoryReadsBack : Prop :=
  ∀ (m : List Host.Cell) (a : Nat) (bs : List Nat), memWf m = true →
    memWf (memWrite m a bs) = true ∧
    (∀ k v, bs[k]? = some v → memGet (memWrite m a bs) (a + k) = BitVec.ofNat 8 v) ∧
    (∀ c, c < a ∨ a + bs.length ≤ c → memGet (memWrite m a bs) c = memGet m c)

/-- Completion and event records are 32 bytes and end with the CRC-32C of the first 28 (R454). -/
def Obligations.RecordsEndWithTheirCrc : Prop :=
  (∀ (s : State) (code src alive : Nat) (det : List (Nat × Nat)) (folded caused : Bool),
    let b := (s.evRec code src det folded caused).bytes alive
    b.length = 32 ∧ b.drop 28 = leBytes 4 (crc32c (b.take 28)) ∧ b.take 2 = leBytes 2 code ∧ (b.drop 16).take 12 = packItems det) ∧
  (∀ (c : CplRec) (items : List (Nat × Nat)) (alive : Nat), c.result = packItems items →
    let b := c.bytes alive
    b.length = 32 ∧ b.drop 28 = leBytes 4 (crc32c (b.take 28)) ∧ b.take 2 = leBytes 2 c.opcode ∧ (b.drop 4).take 4 = leBytes 4 c.tag) ∧
  crc32c [0x31, 0x32, 0x33, 0x34, 0x35, 0x36, 0x37, 0x38, 0x39] = 0xE3069283

/-- R3. -/
def Obligations.StampsHoldCycleAndPosition : Prop :=
  (∀ a, stampOf a < 2 ^ 64 ∧ bitsOf (stampOf a) 16 48 = a / 19440 % 2 ^ 48 ∧ bitsOf (stampOf a) 0 16 = a % 19440) ∧
  (∀ (s : State) (code src alive : Nat) (det : List (Nat × Nat)) (folded caused : Bool),
    (((s.evRec code src det folded caused).bytes alive).drop 8).take 8 = leBytes 8 (stampOf s.addr)) ∧
  (∀ (s : State) (h : HostRef) (op outcome reason alive : Nat) (result : List (Nat × Nat)) (c : CplRec),
    (s.complete h op outcome reason result).io.cpllog.head? = some c → ((c.bytes alive).drop 8).take 8 = leBytes 8 (stampOf s.addr)) ∧
  (∀ (s : State) (d : Nat) (x : DqSt), ((s.dqRecord d x).drop 8).take 8 = leBytes 8 (stampOf s.addr))

/-- R5. -/
def Obligations.NothingLiesAboveTheMap : Prop :=
  ∀ (s : State) (dt off value be : Nat), 0x009FFFFF < off →
    s.readWord off = 0 ∧ exec (.registerWrite dt off value be) s = .next (s.elapse dt)

/-- R41, where no test perturbation delays entries. At an armed swap, what was carried goes ahead of it first (R47). -/
def Obligations.EntriesBeyondTheEighthAreCarried : Prop :=
  (∀ (s : State) (dt : Nat), s.halted = false → s.shf.armDue ≠ some (s.addr + dt) →
    s.shf.firedAt ≠ some (s.addr + dt) ∨ s.shf.half = true → s.perturbed 3 = false →
    Completes (.hewerWakeup dt) s fun t =>
      let due := (s.elapse dt).dueNow
      let next := t.elapse 1
      let said := s.shf.lateSeen && decide (s.shf.lateCycle = (s.elapse dt).cycle)
      t.shf.fired = due.take 8 ∧ t.rd Reg.SHF_LATE_CNT 0 = (s.rd Reg.SHF_LATE_CNT 0 + (due.length - 8)) % 2 ^ 32 ∧
      ((due.drop 8).length ≤ 7 ∨ next.pos ≠ 0 ∨ next.cycle % 4 ≠ 0 →
        next.dueNow = due.drop 8 ++ ({ next with shf := { next.shf with carried := [] } } : State).dueNow) ∧
      (8 < due.length → said = false →
        Raised t Ev.SCHED_LATE srcDevice [(2, (s.addr + dt + 1) % Config.cyclePos), (4, due.length - 8)]) ∧
      (8 < due.length → t.shf.lateSeen = true ∧ t.shf.lateCycle = (s.elapse dt).cycle) ∧
      (due.length ≤ 8 ∨ said = true → t.io = s.io) ∧
      ((s.elapse dt).pos = 0 → (s.elapse dt).cycle % 4 = 0 → swapEntry ∈ t.shf.fired)) ∧
  (∀ (s : State) (dt : Nat), s.halted = false → s.shf.armDue = some (s.addr + dt) → s.shf.firedAt ≠ some (s.addr + dt) →
    Completes (.hewerWakeup dt) s fun t =>
      t.shf.fired = (s.elapse dt).carriedNow.take 7 ∧ t.shf.carried = [] ∧ t.shf.half = true ∧ t.shf.firedAt = some (s.addr + dt) ∧
      t.io = s.io ∧ RegsOnly [] s t)

/-- R45. The mate, if there is one, is silent, and no position of the new bank has more than eight entries (R42). -/
def Obligations.LateArmingDefersTheSwap : Prop :=
  ∀ (s : State) (dt : Nat) (own : List SchedEntry), s.halted = false → s.hasAuthority = true → s.ovm.arm = none →
    s.paired = false ∨ (s.elapse dt).mateSilent = true →
    (let p := (s.elapse dt).prepareSwap own; p.1.bankKept (p.2.bank.map (·.2)) = true) →
    Completes (.armSwap dt own) s fun t =>
      let cycle := (s.addr + dt) / 19440
      let pos := (s.addr + dt) % 19440
      let p := (s.elapse dt).prepareSwap own
      t.rd Reg.SHF_BANK_ARMED 0 = 1 ∧
      (cycle % 4 = 3 → pos < 19000 → t.shf.armDue = some ((cycle + 1) * 19440) ∧
        t.rd Reg.SHF_SWAP_DEFER_CNT 0 = p.1.rd Reg.SHF_SWAP_DEFER_CNT 0 ∧ t.io = p.1.io) ∧
      (cycle % 4 ≠ 3 → t.shf.armDue = some ((cycle + (4 - cycle % 4)) * 19440) ∧
        t.rd Reg.SHF_SWAP_DEFER_CNT 0 = p.1.rd Reg.SHF_SWAP_DEFER_CNT 0 ∧ t.io = p.1.io) ∧
      (cycle % 4 = 3 → 19000 ≤ pos → t.shf.armDue = some ((cycle + 5) * 19440) ∧
        t.rd Reg.SHF_SWAP_DEFER_CNT 0 = (p.1.rd Reg.SHF_SWAP_DEFER_CNT 0 + 1) % 2 ^ 32 ∧
        Raised t Ev.SCHED_SWAP_DEFERRED srcDevice [addrItem p.1.addr])

/-- R452. -/
def Obligations.AliveCountersFollowThePasses : Prop :=
  (∀ idx size, 0 < size → aliveOf idx size = idx / size % 255 + 1 ∧ aliveOf idx size ≠ 0 ∧ aliveOf idx size < 256 ∧
    aliveOf (idx + size) size ≠ aliveOf idx size) ∧
  (∀ (s : State) (q : Nat), tsorted s.io.laps = true → (s.cplEnabled q).io.full Reg.HIF_CPL_PROD q ((s.cplEnabled q).io.rd Reg.HIF_CPL_PROD q) = 0 ∧
    (s.evqEnabled q).io.full Reg.HIF_EVQ_PROD q ((s.evqEnabled q).io.rd Reg.HIF_EVQ_PROD q) = 0 ∧
    (s.cmdEnabled q).io.full Reg.HIF_CMD_CONS q ((s.cmdEnabled q).rd Reg.HIF_CMD_CONS q) = 0) ∧
  (∀ (s : State) (io : IoSt) (c : CplRec) (q p size : Nat), q = s.rd Reg.HIF_CMD_CPL c.ring → q < 16 → s.rd Reg.HIF_CPL_EN q = 1 →
    p = io.rd Reg.HIF_CPL_PROD q → p < 2 ^ 32 → size = 2 ^ s.rd Reg.HIF_CPL_SIZE q →
    (s.cplPut io c).mem = memWrite io.mem (s.rd Reg.HIF_CPL_BASE_LO q + 2 ^ 32 * s.rd Reg.HIF_CPL_BASE_HI q + 32 * (p % size))
      (c.bytes (aliveOf (io.full Reg.HIF_CPL_PROD q p) size)) ∧
    (s.cplPut io c).full Reg.HIF_CPL_PROD q ((s.cplPut io c).rd Reg.HIF_CPL_PROD q) = io.full Reg.HIF_CPL_PROD q p + 1) ∧
  (∀ (s : State) (io : IoSt) (r : EvRec) (q p : Nat), q < 32 → p = io.rd Reg.HIF_EVQ_PROD q → p < 2 ^ 32 →
    (s.evqPut io q r).mem = memWrite io.mem (s.evqBase q + 32 * (p % s.evqSize q))
      (r.bytes (aliveOf (io.full Reg.HIF_EVQ_PROD q p) (s.evqSize q))) ∧
    (s.evqPut io q r).full Reg.HIF_EVQ_PROD q ((s.evqPut io q r).rd Reg.HIF_EVQ_PROD q) = io.full Reg.HIF_EVQ_PROD q p + 1) ∧
  (∀ (s : State) (n : Nat) (d : DescIn), n < 16 → s.rd Reg.HIF_CMD_CONS n < 2 ^ 32 →
    (s.consume n d).io.full Reg.HIF_CMD_CONS n ((s.consume n d).rd Reg.HIF_CMD_CONS n) =
      s.io.full Reg.HIF_CMD_CONS n (s.rd Reg.HIF_CMD_CONS n) + 1) ∧
  (∀ (c : CplRec) (r : EvRec) (alive : Nat), (c.bytes alive)[3]? = some alive ∧ (r.bytes alive)[3]? = some alive)

/-- R470. The threshold is judged as the write-back record is written and as the host's index is read. -/
def Obligations.ReadyIsRaisedOnceAtTheThreshold : Prop :=
  ∀ (s : State) (dt d : Nat) (x : DqSt), tfind s.qmg.dqs d = some x → x.toHost = true →
    (x.words ≠ 0 ∨ x.reset = true → s.mayUseHost = true → s.io.resumeAt ≤ (s.toBoundary dt Config.cyclePos).addr → x.evq < 32 →
      x.ready = false → max 1 x.thr ≤ ahead x.host x.dev →
      Completes (.dqWriteback dt d) s fun t =>
        (∃ y, tfind t.qmg.dqs d = some y ∧ y.ready = true) ∧
        Raised t Ev.HIF_DQ_READY (srcRing 3 d) [(2, d), (4, ahead x.host x.dev)]) ∧
    (x.ready = true ∨ x.evq = 0xFF ∨ ahead x.host x.dev < max 1 x.thr →
      Completes (.dqWriteback dt d) s fun t => t.io.evlog = s.io.evlog ∧ ∃ y, tfind t.qmg.dqs d = some y ∧ y.ready = x.ready) ∧
    (∀ v, v % 2 ^ 32 = x.host → s.takeDq d v = s) ∧
    (∀ v, v % 2 ^ 32 ≠ x.host → ahead x.host v ≤ ahead x.host x.dev →
      (x.evq < 32 → max 1 x.thr ≤ ahead (v % 2 ^ 32) x.dev →
        (∃ y, tfind (s.takeDq d v).qmg.dqs d = some y ∧ y.host = v % 2 ^ 32 ∧ y.ready = true) ∧
        Raised (s.takeDq d v) Ev.HIF_DQ_READY (srcRing 3 d) [(2, d), (4, ahead (v % 2 ^ 32) x.dev)]) ∧
      (x.evq = 0xFF ∨ ahead (v % 2 ^ 32) x.dev < max 1 x.thr →
        tfind (s.takeDq d v).qmg.dqs d = some { x with host := v % 2 ^ 32, ready := false } ∧ (s.takeDq d v).io = s.io))

/-- R492. -/
def Obligations.OverwrittenMarksAreLost : Prop :=
  (∀ (s : State) (q : Nat) (x : QSt) (w : QWord) (m : Nat), s.queue q = some x → x.depth ≠ x.size → x.mark = some m →
    ∃ t, s.newWord q w = some t ∧
      (x.hold = false → x.dist m x.wp = x.size →
        (∃ y, t.queue q = some y ∧ y.mark = none ∧ y.markLost = true ∧ y.rp = x.rp ∧ y.wp = x.after x.wp) ∧
        t.rd Reg.QMG_MARK_LOST_CNT 0 = (s.rd Reg.QMG_MARK_LOST_CNT 0 + 1) % 2 ^ 32 ∧
        Raised t Ev.Q_MARK_LOST (srcQueue q) [(4, m), (4, x.after x.wp)]) ∧
      (x.hold = true ∨ x.dist m x.wp ≠ x.size →
        (∃ y, t.queue q = some y ∧ y.mark = some m ∧ y.rp = x.rp ∧ y.wp = x.after x.wp) ∧ t.io = s.io ∧ t.regs = s.regs)) ∧
  (∀ (s : State) (dt : Nat) (h : HostRef) (q : Nat) (x : QSt), Admitted s dt h domQmg Op.QMG_REWIND → s.queue q = some x →
    x.resetting = false → x.reader = 7 → x.mark = none →
    Completes (.qmgRewind dt h q) s fun t =>
      t.qmg = s.qmg ∧ Answered t h Op.QMG_REWIND 2 (if x.markLost then 8 else 7) [] ∧ RegsOnly [] s t)

/-- R505: a counter wraps at 2³², takes any value the host writes, and counts on from it. -/
def Obligations.CountersWrapAndTakeWrites : Prop :=
  ∀ (g : Nat) (f : Fld) (i : Nat), g < 20 → f ∈ Reg.ofBlock g → f.kind = .cnt →
    f.width = 32 ∧ f.lo = 0 ∧
    (∀ (s : State) (n : Nat), (s.countBy f i n).rd f i = (s.rd f i + n) % 2 ^ 32) ∧
    (∀ (io : IoSt) (n : Nat), (io.countBy f i n).rd f i = (io.rd f i + n) % 2 ^ 32) ∧
    (∀ (s : State) (off v : Nat), v < 2 ^ 32 → s.inReset (f.domain i) = false →
      (f.inIo = false → (s.hostField off v f i).rd f i = v ∧ ((s.hostField off v f i).count f i).rd f i = (v + 1) % 2 ^ 32) ∧
      (f.inIo = true → (s.hostField off v f i).io.rd f i = v ∧
        ((s.hostField off v f i).io.countBy f i 1).rd f i = (v + 1) % 2 ^ 32))

/-- The shaft's events take effect. R40 to R42 and R49, R50, R51 with R35 and R100, R45, R46. The clause on the swap is for one that
changes no placement; what placements change at a swap, other statements say. -/
def Obligations.ShaftEventsTakeEffect : Prop :=
  ∀ (s : State) (dt : Nat),
    (∀ granule stored sum a due, s.halted = false → s.ovm.arm = some a → s.shf.armDue = some due → a.adds = [] → a.moves = [] →
      s.ovm.withdraws = [] → s.ovm.shedding = [] → s.perturbed 4 = false →
      pagesSound (((s.elapse dt).waitAddr due).standbyCtxs [] []) = true →
      Completes (.schedSwap dt true true granule stored sum) s fun t =>
        t.addr = max (s.addr + dt) due ∧
        t.rd Reg.SHF_BANK_ACTIVE 0 = (1 - s.rd Reg.SHF_BANK_ACTIVE 0) % 2 ∧
        t.rd Reg.MAP_PAGE_ACTIVE 0 = (1 - s.rd Reg.MAP_PAGE_ACTIVE 0) % 2 ∧
        t.rd Reg.SHF_BANK_ARMED 0 = 0 ∧ t.rd Reg.MAP_PAGE_ARMED 0 = 0 ∧ t.ovm.arm = none ∧ t.shf.armDue = none ∧
        t.shf.bank0 = s.shf.bank0 ∧ t.shf.bank1 = s.shf.bank1 ∧ t.map.tsi0 = s.map.tsi0 ∧ t.map.tsi1 = s.map.tsi1 ∧
        t.ovm.intents = s.ovm.intents) ∧
    (∀ bankOk pagesOk granule stored sum a due, s.halted = false → s.ovm.arm = some a → s.shf.armDue = some due →
      (bankOk && pagesOk) = false →
      Completes (.schedSwap dt bankOk pagesOk granule stored sum) s fun t =>
        t.rd Reg.SHF_BANK_ACTIVE 0 = s.rd Reg.SHF_BANK_ACTIVE 0 ∧ t.rd Reg.MAP_PAGE_ACTIVE 0 = s.rd Reg.MAP_PAGE_ACTIVE 0 ∧
        t.rd Reg.SHF_BANK_ARMED 0 = 0 ∧ t.rd Reg.MAP_PAGE_ARMED 0 = 0 ∧ t.shf.bank0 = s.shf.bank0 ∧ t.shf.bank1 = s.shf.bank1 ∧
        Raised t Ev.SCHED_REJECT srcDevice [(1, ofBool (!bankOk))]) ∧
    (∀ own, s.halted = false → s.hasAuthority = true → s.ovm.arm = none → s.paired = false ∨ (s.elapse dt).mateSilent = true →
      (let p := (s.elapse dt).prepareSwap own; p.1.bankKept (p.2.bank.map (·.2)) = true) →
      Completes (.armSwap dt own) s fun t =>
        t.shf.armDue = some (s.elapse dt).swapBoundary.1 ∧ t.rd Reg.SHF_BANK_ARMED 0 = 1 ∧ t.rd Reg.MAP_PAGE_ARMED 0 = 1 ∧
        (∃ a, t.ovm.arm = some a ∧ a.armed = true) ∧
        ((s.elapse dt).swapBoundary.2 = true → Raised t Ev.SCHED_SWAP_DEFERRED srcDevice [addrItem (s.addr + dt)])) ∧
    (s.halted = false → s.shf.armDue ≠ some (s.addr + dt) → s.shf.firedAt ≠ some (s.addr + dt) → s.perturbed 3 = false →
      Completes (.hewerWakeup dt) s fun t =>
        t.shf.fired = (s.elapse dt).dueNow.take 8 ∧ t.shf.carried = (s.elapse dt).dueNow.drop 8 ∧ t.shf.firedAt = some (s.addr + dt) ∧
        t.rd Reg.SHF_LATE_CNT 0 = (s.rd Reg.SHF_LATE_CNT 0 + ((s.elapse dt).dueNow.drop 8).length) % 2 ^ 32 ∧
        RegsOnly [(Reg.SHF_LATE_CNT, 0), (Reg.TST_PERTURB_CNT, 0)] s t) ∧
    (∀ ctx fill, fill ≤ 8 ∨ 56 ≤ fill →
      Completes (.gateSlip dt ctx fill) s fun t =>
        t.gateFill ctx = (if fill ≤ 8 then fill + 32 else fill - 32) ∧
        t.rd Reg.SHF_GATE_SLIP_CNT 0 = (s.rd Reg.SHF_GATE_SLIP_CNT 0 + 1) % 2 ^ 32 ∧
        Raised t Ev.GATE_SLIP (srcCtx ctx) [(2, ctx), (1, if fill ≤ 8 then 0 else 1)] ∧ RegsOnly [(Reg.SHF_GATE_SLIP_CNT, 0)] s t) ∧
    (s.halted = false →
      Completes (.shaftHalt dt) s fun t =>
        t.rd Reg.SHF_STATE 0 = 0 ∧ t.addr = s.addr + dt ∧ t.shf.txIdle = true ∧ t.shf.startable = false ∧
        Raised t Ev.SHAFT_HALT srcDevice [(2, (s.addr + dt) % Config.cyclePos)] ∧ RegsOnly [(Reg.SHF_STATE, 0)] s t) ∧
    (s.halted = true → s.shf.startable = true → s.inReset domShaft = false →
      s.rdBit Reg.PAR_PAIR_EN 0 = false ∨ s.par.listened = true →
      Completes (.shaftStart dt) s fun t =>
        t.addr = 0 ∧ t.rd Reg.SHF_STATE 0 = 1 ∧ t.rd Reg.TIM_DPLL_STATE 0 = dpllFreerun ∧ t.tim.todAt = 0 ∧
        RegsOnly [(Reg.SHF_STATE, 0), (Reg.TIM_DPLL_STATE, 0)] s t)

/-- The timing block's host commands take effect. R102 (Table 03-12) with R74, R75, R81, R90 to R94 and R96. -/
def Obligations.TimCommandsTakeEffect : Prop :=
  ∀ (s : State) (dt : Nat) (h : HostRef),
    (∀ cand, Admitted s dt h domShaft Op.TIM_FORCE → s.badCand cand = false → s.candState cand = 3 →
      Completes (.timForce dt h cand) s fun t =>
        t.tim = { s.tim with forced := some cand } ∧ t.rd Reg.TIM_FORCED 0 = 1 ∧ Answered t h Op.TIM_FORCE 0 0 [] ∧
        RegsOnly [(Reg.TIM_FORCED, 0)] s t) ∧
    (Admitted s dt h domShaft Op.TIM_CLEAR →
      Completes (.timClear dt h) s fun t =>
        t.tim = { s.tim with forced := none } ∧ t.rd Reg.TIM_FORCED 0 = 0 ∧ Answered t h Op.TIM_CLEAR 0 0 [] ∧
        RegsOnly [(Reg.TIM_FORCED, 0)] s t) ∧
    (∀ on, Admitted s dt h domShaft Op.TIM_HOLDOVER →
      Completes (.timHoldover dt h on) s fun t =>
        t.tim.holdOn = decide (on = 1) ∧ Answered t h Op.TIM_HOLDOVER 0 0 [] ∧ RegsOnly [] s t) ∧
    (∀ value : Int, Admitted s dt h domShaft Op.TIM_STEER →
      Completes (.timSteer dt h value) s fun t =>
        t.tim.steer = max (-500000000) (min 500000000 value) ∧
        (if -500000000 ≤ value ∧ value ≤ 500000000 then Answered t h Op.TIM_STEER 0 0 []
          else Answered t h Op.TIM_STEER 1 4 [] ∧ t.rd Reg.TIM_DCO_LIMIT 0 = 1 ∧
            Raised t Ev.DCO_LIMIT srcDevice [(4, satSigned 4 value)]) ∧
        RegsOnly [(Reg.TIM_STEER_SUPERSEDED_CNT, 0), (Reg.TIM_DCO_LIMIT, 0)] s t) ∧
    (∀ stamp sec ns, Admitted s dt h domShaft Op.TIM_SET_TOD → (s.elapse dt).addrAhead (addrOfStamp stamp) = true →
      Completes (.timSetTod dt h stamp sec ns) s fun t =>
        t.tim.todQueue = insertByAddr s.tim.todQueue (addrOfStamp stamp, sec, ns) ∧ Answered t h Op.TIM_SET_TOD 0 0 [] ∧
        RegsOnly [] s t) ∧
    (Admitted s dt h domShaft Op.TIM_TOD_CAPTURE →
      Completes (.timTodCapture dt h) s fun t =>
        t.addr = (s.toNextCycle dt).addr ∧
        Answered t h Op.TIM_TOD_CAPTURE 0 0 [(6, (s.toNextCycle dt).todSec), (4, (s.toNextCycle dt).todNs)] ∧
        RegsOnly [] s t) ∧
    (∀ p, Admitted s dt h domShaft Op.TIM_MODEL_LOAD → modelInRange p = true →
      Completes (.timModelLoad dt h p) s fun t =>
        t.rd Reg.TIM_MODEL_C1 0 = pattern 32 p.c1 ∧ t.rd Reg.TIM_MODEL_C2 0 = pattern 32 p.c2 ∧
        t.rd Reg.TIM_MODEL_C3 0 = pattern 32 p.c3 ∧ t.rd Reg.TIM_MODEL_C4 0 = pattern 32 p.c4 ∧
        t.rd Reg.TIM_MODEL_AGE 0 = pattern 32 p.age ∧ t.rd Reg.TIM_MODEL_T0 0 = pattern 16 p.t0 ∧
        t.rd Reg.TIM_MODEL_STATE 0 = 2 ∧ Answered t h Op.TIM_MODEL_LOAD 0 0 [] ∧
        RegsOnly [(Reg.TIM_MODEL_C1, 0), (Reg.TIM_MODEL_C2, 0), (Reg.TIM_MODEL_C3, 0), (Reg.TIM_MODEL_C4, 0),
          (Reg.TIM_MODEL_AGE, 0), (Reg.TIM_MODEL_T0, 0), (Reg.TIM_MODEL_STATE, 0)] s t) ∧
    (∀ cand, Admitted s dt h domShaft Op.TIM_WTR_CLEAR → s.badCand cand = false → s.candState cand = 4 →
      Completes (.timWtrClear dt h cand) s fun t =>
        t.addr = (s.toNextCycle dt).addr ∧ t.candState cand = 3 ∧ (t.cand cand).wtrFrom = none ∧
        Raised t Ev.REF_QUALIFIED (srcCand cand) [(1, cand), (4, satSigned 4 (s.rdInt Reg.TIM_CAND_FREQ cand))] ∧
        Answered t h Op.TIM_WTR_CLEAR 0 0 [] ∧ RegsOnly [(Reg.TIM_CAND_STATE, cand)] s t) ∧
    (∀ cand, Admitted s dt h domShaft Op.TIM_LOCKOUT → s.badCand cand = false →
      Completes (.timLockout dt h cand 1) s fun t =>
        t.addr = (s.toNextCycle dt).addr ∧ t.candState cand = 5 ∧ (s.candState cand ≠ 5 → (t.cand cand).wtrFrom = none) ∧
        Answered t h Op.TIM_LOCKOUT 0 0 [] ∧
        RegsOnly [(Reg.TIM_CAND_STATE, cand), (Reg.TIM_FORCED, 0)] s t) ∧
    (∀ cand on, Admitted s dt h domShaft Op.TIM_LOCKOUT → s.badCand cand = false → on ≠ 1 → s.candState cand = 5 →
      Completes (.timLockout dt h cand on) s fun t =>
        t.candState cand =
          (if (s.toNextCycle dt).qualCause cand ≠ 0 then 1
            else if (s.toNextCycle dt).addr < (s.cand cand).since.getD (s.toNextCycle dt).addr + s.qualPos cand then 2
            else if (s.cand cand).keepQual then 3
            else if (s.cand cand).everQual && cand ≠ 19 then 4 else 3) ∧
        Answered t h Op.TIM_LOCKOUT 0 0 [] ∧ RegsOnly [(Reg.TIM_CAND_STATE, cand)] s t)

/-- Candidates take their measurements, qualify, lose their hold-off, leave WTR and lose their watchdog. R56 (with Table 20-3's
reference perturbation), R60, R61, R62, R63, R68, R74, R91. -/
def Obligations.CandidateEventsTakeEffect : Prop :=
  ∀ (s : State) (dt : Nat),
    (∀ meas n v, n < 20 → (meas.map Prod.fst).Nodup → (∀ e ∈ meas, e.1 < 20) → (n, v) ∈ meas → (s.cand n).enabled = true →
      Completes (.timFreqMeasure dt meas) s fun t =>
        t.addr = (s.toBoundary dt Config.secondPos).addr ∧ (t.cand n).measured = true ∧
        t.rd Reg.TIM_CAND_FREQ n = pattern 32 (v +
          if s.perturbed 0 = true ∧ s.rd Reg.TST_REF_CAND 0 = n then max (-20000) (min 20000 (s.rdInt Reg.TST_REF_OFFSET 0))
          else 0)) ∧
    (∀ cand a, s.halted = false → s.candState cand = 2 → (s.cand cand).since = some a →
      Completes (.refQualified dt cand) s fun t =>
        t.addr = ceilTo Config.cyclePos (max (s.addr + dt) (a + s.qualPos cand)) ∧
        t.candState cand = (if (s.cand cand).everQual = true ∧ cand ≠ 19 then 4 else 3) ∧
        RegsOnly [(Reg.TIM_CAND_STATE, cand)] s t) ∧
    (∀ cand from_, s.halted = false → (s.cand cand).defectAt = some from_ →
      Completes (.timHoldoffExpiry dt cand) s fun t =>
        let b := (s.elapse dt).waitAddr (from_ + s.holdoffPos)
        t.addr = max (s.addr + dt) (from_ + s.holdoffPos) ∧ (t.cand cand).defectAt = none ∧ (t.cand cand).held = false ∧
        (if b.candDefect cand = true ∧ (s.candState cand = 3 ∨ s.candState cand = 4) then
          t.candState cand = 1 ∧ t.rd Reg.TIM_CAND_REASON cand = 1
        else t.candState cand = s.candState cand ∧ (t.cand cand).phaseBase = (s.cand cand).phaseBase)) ∧
    (∀ cand a, s.halted = false → (s.cand cand).wtrFrom = some a → s.candState cand = 4 →
      Completes (.wtrExpiry dt cand) s fun t =>
        t.addr = ceilTo Config.cyclePos (max (s.addr + dt) (a + min 720 (s.rd Reg.TIM_WTR 0) * 8000 * Config.cyclePos)) ∧
        t.candState cand = 3 ∧ (t.cand cand).wtrFrom = none ∧
        Raised t Ev.REF_QUALIFIED (srcCand cand) [(1, cand), (4, satSigned 4 (s.rdInt Reg.TIM_CAND_FREQ cand))] ∧
        RegsOnly [(Reg.TIM_CAND_STATE, cand)] s t) ∧
    (∀ a, s.halted = false → s.tim.steerAt = some a →
      Completes (.steerWdogExpiry dt) s fun t =>
        t.addr = max (s.addr + dt) (a + min 600 (max 1 (s.rd Reg.TIM_STEER_WDOG 0)) * 800 * Config.cyclePos) ∧
        t.tim.steerAt = none ∧
        (s.candState 19 = 3 → t.candState 19 = 1 ∧ t.rd Reg.TIM_CAND_REASON 19 = 4) ∧
        (s.candState 19 = 5 → t.candState 19 = 5 ∧ t.rd Reg.TIM_CAND_REASON 19 = 4) ∧
        RegsOnly [(Reg.TIM_CAND_STATE, 19), (Reg.TIM_CAND_REASON, 19), (Reg.TIM_FORCED, 0)] s t) ∧
    (∀ cand, 16 ≤ cand → cand ≤ 18 →
      (cand = 18 → s.tim.ppsEdge.isSome = true → 1001 * Config.msPos ≤ s.time + dt - s.tim.ppsAt) →
      Completes (.refInputNoEdge dt cand) s fun t => cand ∈ t.tim.noEdge ∧ t.candDefect cand = true ∧ t.time = s.time + dt) ∧
    (∀ lane n, s.rd Reg.PRT_LANE_MODE lane = 7 ∨ s.rd Reg.PRT_LANE_MODE lane = 8 → n < 16 → (s.cand n).enabled = true →
      (s.cand n).kind ≤ 1 → (s.cand n).laneIndex = lane →
      (∀ a, tfind s.tim.esmc lane = some a → a + 5 * Config.secondPos ≤ (s.elapse dt).addr) →
      Completes (.esmcPduTimeout dt lane) s fun t => (t.cand n).qlRx = some 0xF ∧ t.time = s.time + dt)

/-- Selection, the end of a switch, holdover, the temperature model, the time of day and its pulses. R63, R70 with R71 to R73, R76
with R80, R86, R88 with R94, R96 and R98, R97. -/
def Obligations.TimingEventsTakeEffect : Prop :=
  ∀ (s : State) (dt : Nat),
    (s.halted = false →
      Completes (.refSelection dt) s fun t =>
        let b := (s.toBoundary dt Config.cyclePos).atDecision
        t.addr = ceilTo Config.cyclePos (s.addr + dt) ∧
        t.rd Reg.TIM_SEL 0 =
          (if b.slaveDue = none ∧ b.rdBit Reg.TIM_SWITCHING 0 = true ∧ b.candState (b.rd Reg.TIM_SEL 0) = 3 ∧ b.tim.holdOn = false then
            b.rd Reg.TIM_SEL 0
          else b.selectNow.getD 31 % 32)) ∧
    (∀ a, s.halted = false → s.rdBit Reg.TIM_SWITCHING 0 = true → s.rd Reg.TIM_DPLL_STATE 0 = dpllAcquire →
      s.rd Reg.TIM_SEL 0 ≠ 19 → s.tim.inWindow = some a →
      a + lockCycles (s.bandwidth (s.rd Reg.TIM_SEL 0)) * Config.cyclePos ≤ ceilTo Config.cyclePos (s.addr + dt) →
      Completes (.refSwitchDone dt) s fun t =>
        t.addr = ceilTo Config.cyclePos (s.addr + dt) ∧ t.rd Reg.TIM_SWITCHING 0 = 0 ∧ t.rd Reg.TIM_DPLL_STATE 0 = dpllLocked ∧
        t.rd Reg.SHF_STATE 0 = 2 ∧
        RegsOnly [(Reg.TIM_SWITCHING, 0), (Reg.TIM_DPLL_STATE, 0), (Reg.SHF_STATE, 0)] s t) ∧
    (s.halted = false → s.rd Reg.TIM_DPLL_STATE 0 = dpllHoldover → s.rd Reg.TIM_MODEL_STATE 0 ≠ 2 →
      Completes (.holdoverUpdate dt) s fun t =>
        t.addr = ceilTo Config.epochPos (s.addr + dt) ∧ t.dco = clampDco (8 * s.nearest s.tim.fHist) ∧
        t.rd Reg.TIM_HO_UNCOMP 0 = 1) ∧
    (s.halted = false → s.rd Reg.TIM_DPLL_STATE 0 = dpllHoldover → s.rd Reg.TIM_MODEL_STATE 0 = 2 →
      Completes (.holdoverUpdate dt) s fun t =>
        t.addr = ceilTo Config.epochPos (s.addr + dt) ∧ t.rd Reg.TIM_HO_UNCOMP 0 = 0 ∧
        t.dco = clampDco (8 * s.nearest (s.tim.fHist +
          (s.model (s.tempAt t.addr) (s.slopeAt t.addr) - s.model s.tim.entryT s.tim.entrySlope) +
          s.coef Reg.TIM_MODEL_AGE * (((t.addr - s.tim.guardAt : Nat) : Rat) / (86400 * Config.secondPos))))) ∧
    (s.halted = false → s.rd Reg.TIM_DPLL_STATE 0 = dpllLocked →
      s.tim.lockedAt + 60 * Config.secondPos ≤ ceilTo Config.secondPos (s.addr + dt) →
      (∀ e, s.tim.fitLog.head? = some e → e.1 ≠ ceilTo Config.secondPos (s.addr + dt)) →
      Completes (.modelLearnSample dt) s fun t =>
        let b := s.toBoundary dt Config.secondPos
        t.tim.fit = s.tim.fit.sample b.addr (b.tempAt b.addr * 16).floor (b.fitTerms b.addr)
          ((histSum s.tim.hist (b.addr - Config.secondPos) b.addr : Rat) / (8 * Config.secondPos)) ∧
        t.rd Reg.TIM_MODEL_STATE 0 ≠ 0 ∧
        (s.rd Reg.TIM_MODEL_STATE 0 ≠ 2 → s.tim.fit.samples + 1 < 21600 → t.rd Reg.TIM_MODEL_STATE 0 = 1) ∧
        (∃ lo hi, t.tim.fit.learnt = some (lo, hi) ∧
          t.rd Reg.TIM_MODEL_TRANGE 0 = (pattern 16 lo + 65536 * pattern 16 hi) % 2 ^ 32)) ∧
    (∀ a sec ns rest, s.halted = false → s.tim.todQueue = (a, sec, ns) :: rest →
      Completes (.todSetApply dt) s fun t =>
        t.addr = max (s.addr + dt) a ∧ t.tim.todQueue = rest ∧ t.todNow = (sec * todSecond + ns * 486) % (2 ^ 48 * todSecond) ∧
        t.tim.pulses = (if ns = 0 ∧ s.ppsoutLow = false then s.tim.pulses + 1 else s.tim.pulses) ∧
        RegsOnly [] s t) ∧
    (∀ sub,
      Completes (.ppsinEdge dt sub) s fun t =>
        t.tim.ppsEdge = some ((s.elapse dt).todNow * 10 / 486 + sub) ∧ t.tim.ppsAt = s.time + dt ∧
        (∃ k : Int, t.tim.ppsErr + k * 10000000000 = (((s.elapse dt).todNow * 10 / 486 + sub : Nat) : Int)) ∧
        -5000000000 ≤ t.tim.ppsErr ∧ t.tim.ppsErr < 5000000000) ∧
    (s.halted = false → s.ppsoutLow = false →
      Completes (.ppsoutPulse dt) s fun t =>
        let left := ((todSecond : Int) - (((s.elapse dt).todNow : Int) - s.rdInt Reg.TIM_PPSOUT_COMP 0 * 486) % (todSecond : Int)).toNat
        t.tim.pulses = s.tim.pulses + 1 ∧ t.tim.pulseAt = some (t.time, left % 3125) ∧ t.addr = s.addr + dt + left / 3125 ∧
        RegsOnly [] s t)

/-- The filter chains' samples, stuck inputs, swaps, cross-fades and resets take effect. R104 to R111, R117, R118, R120, R121, R123,
R124, R126 and R128. The value of a word is the output stage's over the chain's exact arithmetic. -/
def Obligations.FilterEventsTakeEffect : Prop :=
  ∀ (s : State) (dt ch : Nat),
    (∀ samples x k raw b, s.halted = false → b = (if isFeed ch then s.elapse dt else s.toBoundary dt Config.cyclePos) →
      s.chanOn ch = true → b.chanFed ch = true → s.inReset domFlt = false → (s.chan ch).inc = none →
      (s.chain ch).run ch (s.rdBit Reg.FLT_CH_FROZEN ch) (b.inputs ch samples) = (x, k, some raw) →
      Completes (.fltOutputWord dt ch false samples) s fun t =>
        (t.chan ch).cur = some x ∧ (t.chan ch).vLast = max (-2147483648) (min 2147483647 (s.wholeFree raw.value)) ∧
        t.rd Reg.FLT_CH_WORD_CNT ch = (s.rd Reg.FLT_CH_WORD_CNT ch + 1) % 2 ^ 32 ∧
        t.rd Reg.FLT_CH_SETTLING ch = ofBool (decide (x.samples < x.n * x.r))) ∧
    (∀ level, isFeed ch = true → s.chanOn ch = true → s.rdBit Reg.FLT_CH_STUCK ch = false →
      Completes (.inputStuck dt ch level) s fun t =>
        t.rd Reg.FLT_CH_STUCK ch = 1 ∧ Raised t Ev.INPUT_STUCK (srcChannel ch) [(1, ch), (1, level)] ∧
        RegsOnly [(Reg.FLT_CH_STUCK, ch)] s t) ∧
    (∀ p h due, s.halted = false → (s.chan ch).cfg = some (p, h, due) → cfgBad p = false →
      Completes (.xfadeStart dt ch) s fun t =>
        t.addr = max (s.addr + dt) due ∧ t.rd Reg.FLT_CH_PRESET ch = p.preset ∧ t.rd Reg.FLT_CH_BANK ch = 1 - s.rd Reg.FLT_CH_BANK ch ∧
        t.rd Reg.FLT_CH_FADING ch = 1 ∧ t.rd Reg.FLT_CH_SETTLING ch = 1 ∧
        (p.preset = 4 → t.rd Reg.FLT_CH_N ch = p.n ∧ t.rd Reg.FLT_CH_R ch = p.r ∧ t.rd Reg.FLT_CH_DC_K ch = p.k) ∧
        (p.preset ≠ 4 → t.rd Reg.FLT_CH_N ch = (presetNR p.preset (isFeed ch)).1 ∧
          t.rd Reg.FLT_CH_R ch = (presetNR p.preset (isFeed ch)).2 ∧ t.rd Reg.FLT_CH_DC_K ch = 0) ∧
        (t.chan ch).cur = some (s.chain ch) ∧ (∃ x, (t.chan ch).inc = some x ∧ x.samples = 0) ∧
        Answered t h Op.FLT_CONFIG 0 0 []) ∧
    (∀ x, s.chanOn ch = true → (s.chan ch).inc = some x → 0 < s.rd Reg.FLT_CH_XFADE_LEN ch →
      s.rd Reg.FLT_CH_XFADE_LEN ch ≤ (s.chan ch).fadeK →
      Completes (.xfadeDone dt ch) s fun t =>
        (t.chan ch).cur = some x ∧ (t.chan ch).inc = none ∧ t.rd Reg.FLT_CH_FADING ch = 0 ∧
        Raised t Ev.XFADE_DONE (srcChannel ch) [(1, ch), (1, s.rd Reg.FLT_CH_PRESET ch)] ∧
        RegsOnly [(Reg.FLT_CH_FADING, ch)] s t) ∧
    (∀ b h, b < 2 → s.rdBit Reg.FLT_CH_FADING ch = false → (s.chan ch).defer = none → (s.chan ch).swapTo = [(b, h)] →
      Completes (.swapDone dt ch) s fun t =>
        t.rd Reg.FLT_CH_BANK ch = b ∧ (t.chan ch).swapTo = [] ∧
        (∃ x, (t.chan ch).cur = some x ∧ x.bank = s.bankOf ch b ∧ x.integ = (s.chain ch).integ ∧ x.comb = (s.chain ch).comb ∧
          x.fir = (s.chain ch).fir) ∧
        Raised t Ev.SWAP_DONE (srcChannel ch) [(1, ch), (1, b), (1, 0)] ∧ Answered t h Op.FLT_SWAP 0 0 [] ∧
        RegsOnly [(Reg.FLT_CH_BANK, ch)] s t) ∧
    (∀ b h, b < 2 → s.rdBit Reg.FLT_CH_FADING ch = false → (s.chan ch).cfg = none → (s.chan ch).swapTo = [] →
      (s.chan ch).defer = some (b, h) →
      Completes (.swapDone dt ch) s fun t =>
        t.rd Reg.FLT_CH_DEFERRED ch = 0 ∧ (t.chan ch).defer = none ∧
        (if s.rdBit (completeFld b) ch = true then
          t.rd Reg.FLT_CH_BANK ch = b ∧ Raised t Ev.SWAP_DONE (srcChannel ch) [(1, ch), (1, b), (1, 0)] ∧ Answered t h Op.FLT_SWAP 0 0 []
        else t.rd Reg.FLT_CH_BANK ch = s.rd Reg.FLT_CH_BANK ch ∧ Raised t Ev.SWAP_DONE (srcChannel ch) [(1, ch), (1, b), (1, 4)] ∧
          Answered t h Op.FLT_SWAP 2 4 []) ∧
        RegsOnly [(Reg.FLT_CH_DEFERRED, ch), (Reg.FLT_CH_BANK, ch)] s t) ∧
    (∀ b h, b < 2 → s.rdBit Reg.FLT_CH_FADING ch = true → (s.chan ch).defer = none → (s.chan ch).swapTo = [(b, h)] →
      Completes (.swapDone dt ch) s fun t =>
        (t.chan ch).defer = some (b, h) ∧ (t.chan ch).swapTo = [] ∧ t.rd Reg.FLT_CH_DEFERRED ch = 1 ∧ t.rd Reg.FLT_CH_DEF_BANK ch = b ∧
        Raised t Ev.SWAP_DEFERRED (srcChannel ch) [(1, ch), (1, b)] ∧
        RegsOnly [(Reg.FLT_CH_DEFERRED, ch), (Reg.FLT_CH_DEF_BANK, ch)] s t) ∧
    (∀ a mask, s.halted = false → earliest s.flt.resets = some (a, mask) →
      Completes (.fltSyncResetApply dt) s fun t =>
        t.addr = max (s.addr + dt) a ∧ t.flt.resets = s.flt.resets.erase (a, mask) ∧
        (ch < 48 → bitOf mask ch = true → s.chanOn ch = true →
          (∃ x, (t.chan ch).cur = some x ∧ x.integ = [] ∧ x.comb = [] ∧ x.fir = [] ∧ x.samples = 0 ∧ x.resetAt = t.addr) ∧
          (t.chan ch).inc = none ∧ t.rd Reg.FLT_CH_SETTLING ch = 1) ∧
        (ch < 48 → bitOf mask ch = false → t.chan ch = s.chan ch))

/-- The filter chains' host commands take effect. R109, R113, R116 and R119 to R126. -/
def Obligations.FilterCommandsTakeEffect : Prop :=
  ∀ (s : State) (dt : Nat) (h : HostRef) (ch : Nat),
    (∀ p, Admitted s dt h domFlt Op.FLT_CONFIG → s.chanOn p.ch = true → cfgBad p = false →
      s.rdBit Reg.FLT_CH_FADING p.ch = false → (s.chan p.ch).cfg = none →
      Completes (.fltConfig dt h p) s fun t =>
        t.chan p.ch = { s.chan p.ch with cfg := some (p, h, nextCycle (s.elapse dt).addr) } ∧ t.io = s.io ∧ RegsOnly [] s t) ∧
    (∀ bank first start taps, Admitted s dt h domFlt Op.FLT_COEF_LOAD → s.chanOn ch = true → first ∈ [0, 16, 32, 48] →
      s.rd Reg.FLT_CH_BANK ch ≠ bank % 2 → taps.length = 16 →
      Completes (.fltCoefLoad dt h ch bank first start taps) s fun t =>
        (t.bankOf ch (bank % 2)).list =
          (s.bankOf ch (bank % 2)).list.take first ++ taps ++ (s.bankOf ch (bank % 2)).list.drop (first + 16) ∧
        (start = true → t.rd (completeFld (bank % 2)) ch = 0) ∧
        t.bankOf ch (1 - bank % 2) = s.bankOf ch (1 - bank % 2) ∧ Answered t h Op.FLT_COEF_LOAD 0 0 [] ∧
        RegsOnly [(completeFld (bank % 2), ch), (asymFld (bank % 2), ch)] s t) ∧
    (∀ bank taps, Admitted s dt h domFlt Op.FLT_COEF_LOAD → s.chanOn ch = true →
      s.rd Reg.FLT_CH_BANK ch ≠ bank % 2 → taps.length = 16 → s.rdBit (completeFld (bank % 2)) ch = false →
      (if bank % 2 = 0 then (s.chan ch).gotA else (s.chan ch).gotB) = [32, 16, 0] →
      Completes (.fltCoefLoad dt h ch bank 48 false taps) s fun t =>
        t.rd (completeFld (bank % 2)) ch = 1 ∧
        t.rd (asymFld (bank % 2)) ch = ofBool (!symmetric ((s.bankOf ch (bank % 2)).list.take 48 ++ taps ++
          (s.bankOf ch (bank % 2)).list.drop 64)) ∧
        (t.rd (asymFld (bank % 2)) ch = 1 → Raised t Ev.COEF_ASYM (srcChannel ch) [(1, ch), (1, bank % 2)])) ∧
    (∀ bank, Admitted s dt h domFlt Op.FLT_SWAP → s.chanOn ch = true → s.rdBit Reg.FLT_CH_FADING ch = false →
      (s.chan ch).cfg = none → s.rdBit (completeFld (bank % 2)) ch = true → s.rd Reg.FLT_CH_BANK ch ≠ bank % 2 →
      Completes (.fltSwap dt h ch bank) s fun t =>
        t.chan ch = { s.chan ch with swapTo := (s.chan ch).swapTo ++ [(bank % 2, h)] } ∧ t.io = s.io ∧ RegsOnly [] s t) ∧
    (∀ bank, Admitted s dt h domFlt Op.FLT_SWAP → s.chanOn ch = true → s.rdBit Reg.FLT_CH_FADING ch = true →
      (s.chan ch).defer = none →
      Completes (.fltSwap dt h ch bank) s fun t =>
        (t.chan ch).defer = some (bank % 2, h) ∧ t.rd Reg.FLT_CH_DEFERRED ch = 1 ∧ t.rd Reg.FLT_CH_DEF_BANK ch = bank % 2 ∧
        Raised t Ev.SWAP_DEFERRED (srcChannel ch) [(1, ch), (1, bank % 2)] ∧
        RegsOnly [(Reg.FLT_CH_DEFERRED, ch), (Reg.FLT_CH_DEF_BANK, ch)] s t) ∧
    (∀ mask stamp, Admitted s dt h domFlt Op.FLT_SYNC_RESET → s.maskBad mask = false →
      (s.elapse dt).addrAhead (addrOfStamp stamp) = true →
      Completes (.fltSyncReset dt h mask stamp) s fun t =>
        t.flt = { s.flt with resets := s.flt.resets ++ [(addrOfStamp stamp, mask)] } ∧
        Answered t h Op.FLT_SYNC_RESET 0 0 [] ∧ RegsOnly [] s t) ∧
    (∀ mask on, Admitted s dt h domFlt Op.FLT_FREEZE → s.maskBad mask = false →
      Completes (.fltFreeze dt h mask on) s fun t =>
        (∀ n, n < 48 → t.rd Reg.FLT_CH_FROZEN n =
          if bitOf mask n then ofBool (on == 1) else s.rd Reg.FLT_CH_FROZEN n) ∧
        Answered t h Op.FLT_FREEZE 0 0 [] ∧ RegsOnly ((List.range 48).map fun n => (Reg.FLT_CH_FROZEN, n)) s t)

/-- Lane defects, readiness, eyes and test patterns, and tributary links take effect. R145, R150, R154 to R159, R162 and R167, with
the two commands of R164 and R165. -/
def Obligations.PortCommandsTakeEffect : Prop :=
  ∀ (s : State) (dt lane : Nat),
    (∀ set, s.laneOn lane = true → s.rdBit Reg.PRT_LANE_LOS lane ≠ set →
      Completes (.laneLos dt lane false set) s fun t =>
        t.rdBit Reg.PRT_LANE_LOS lane = set ∧
        (set = true → t.rd Reg.PRT_LANE_LOS_CNT lane = (s.rd Reg.PRT_LANE_LOS_CNT lane + 1) % 2 ^ 32 ∧ t.rdBit Reg.PRT_LANE_LOL lane = false ∧ t.rdBit Reg.PRT_LANE_NO_BLOCK_LOCK lane = false ∧
          t.rdBit Reg.PRT_LANE_HIBER lane = false)) ∧
    (∀ set, s.trbOn lane = true → s.rdBit Reg.PRT_TRB_LOS lane ≠ set →
      Completes (.laneLos dt lane true set) s fun t =>
        t.rdBit Reg.PRT_TRB_LOS lane = set ∧ (set = true → t.rd Reg.PRT_TRB_ALIGN lane = 0)) ∧
    (∀ set, s.laneOn lane = true → (set = true → s.rdBit Reg.PRT_LANE_READY lane = true ∧ s.rdBit Reg.PRT_LANE_LOS lane = false) →
      Completes (.laneLol dt lane set) s fun t =>
        t.rdBit Reg.PRT_LANE_LOL lane = set ∧
        (set = true → t.rdBit Reg.PRT_LANE_NO_BLOCK_LOCK lane = false ∧ t.rdBit Reg.PRT_LANE_HIBER lane = false)) ∧
    (∀ lost, lane < 80 → (lost = true → s.lanePcs lane = true) →
      Completes (.laneBlockLock dt lane lost) s fun t =>
        t.rdBit Reg.PRT_LANE_NO_BLOCK_LOCK lane = lost ∧ (lost = true → t.rdBit Reg.PRT_LANE_HIBER lane = false)) ∧
    (∀ set, (set = true → s.lanePcs lane = true ∧ s.rdBit Reg.PRT_LANE_NO_BLOCK_LOCK lane = false) →
      Completes (.laneHiber dt lane set) s fun t =>
        t.rdBit Reg.PRT_LANE_HIBER lane = set ∧
        (s.rdBit Reg.PRT_LANE_HIBER lane ≠ set → Raised t Ev.LANE_HIBER (srcLane lane) [(2, lane), (1, ofBool set)]) ∧
        RegsOnly [(Reg.PRT_LANE_HIBER, lane)] s t) ∧
    (∀ w h, s.laneOn lane = true → s.rdBit Reg.PRT_LANE_READY lane = false →
      Completes (.laneReady dt lane w h) s fun t =>
        t.rd Reg.PRT_LANE_READY lane = 1 ∧ t.rd Reg.PRT_LANE_EYE_W lane = w % 2 ^ Reg.PRT_LANE_EYE_W.width ∧
        t.rd Reg.PRT_LANE_EYE_H lane = h % 2 ^ Reg.PRT_LANE_EYE_H.width) ∧
    (∀ (meas : List EyeMeas) (m : EyeMeas), lane ∈ s.readyLanes →
      (∀ l ∈ s.readyLanes, (s.elapse dt).eyeDue lane ≤ (s.elapse dt).eyeDue l) → meas.find? (fun e => e.lane == lane) = some m →
      Completes (.eyeMeasure dt meas) s fun t =>
        t.time = max (s.time + dt) ((s.elapse dt).eyeDue lane) ∧
        t.rd Reg.PRT_LANE_EYE_W lane = (smallestEye m).1 % 2 ^ Reg.PRT_LANE_EYE_W.width ∧
        t.rd Reg.PRT_LANE_EYE_H lane = (smallestEye m).2 % 2 ^ Reg.PRT_LANE_EYE_H.width ∧
        t.rd Reg.PRT_LANE_FREQ lane = pattern Reg.PRT_LANE_FREQ.width m.freq ∧
        RegsOnly (s.readyLanes.flatMap fun l =>
          [(Reg.PRT_LANE_EYE_W, l), (Reg.PRT_LANE_EYE_H, l), (Reg.PRT_LANE_FREQ, l)]) s t) ∧
    (∀ locked errors e, lane < 80 → tfind s.prt.tests lane = some e → bitOf e.flags 1 = true →
      Completes (.prbsLock dt lane locked errors) s fun t =>
        t.rdBit Reg.PRT_LANE_PRBS_LOCK lane = locked ∧
        t.rd Reg.PRT_LANE_PRBS_ERR_CNT lane =
          (if s.rdBit Reg.PRT_LANE_PRBS_LOCK lane then (s.rd Reg.PRT_LANE_PRBS_ERR_CNT lane + errors) % 2 ^ 32
            else s.rd Reg.PRT_LANE_PRBS_ERR_CNT lane) ∧
        (s.rdBit Reg.PRT_LANE_PRBS_LOCK lane ≠ locked →
          Raised t Ev.PRBS_LOCK (srcLane lane) [(2, lane), (1, ofBool locked)]) ∧
        RegsOnly [(Reg.PRT_LANE_PRBS_LOCK, lane), (Reg.PRT_LANE_PRBS_ERR_CNT, lane)] s t) ∧
    (∀ off bytes f, s.trbOn lane = true → s.rdBit Reg.PRT_TRB_LOS lane = false → s.trbLooks lane off = true →
      f = readTrb (s.trbLayout lane) bytes →
      Completes (.trbFrameRx dt lane off bytes) s fun t =>
        t.rd Reg.PRT_TRB_ALIGN lane =
          (if f.word then
            (if s.rd Reg.PRT_TRB_ALIGN lane = 2 then 2 else if s.rd Reg.PRT_TRB_ALIGN lane = 0 then 1
              else if (s.trb lane).conf = 0 then s.rd Reg.PRT_TRB_ALIGN lane else 2)
          else if s.rd Reg.PRT_TRB_ALIGN lane = 2 ∧ (s.trb lane).bad < 3 then 2 else 0) ∧
        (s.rd Reg.PRT_TRB_ALIGN lane = 2 → t.rd Reg.PRT_TRB_ALIGN lane = 2 → t.rdBit Reg.PRT_TRB_RLA lane = f.rla ∧
          t.rd Reg.PRT_TRB_CRC_CNT lane =
            (if f.crcOk then s.rd Reg.PRT_TRB_CRC_CNT lane else (s.rd Reg.PRT_TRB_CRC_CNT lane + 1) % 2 ^ 32) ∧
          (t.trb lane).sendBad = !f.crcOk ∧ t.rdBit Reg.PRT_TRB_MODE_MISMATCH lane = (f.layout != s.trbLayout lane) ∧
          ∀ slot q c x, f.layout = s.trbLayout lane → f.slots[slot]? = some q →
            (s.circuits lane).find? (fun e => e.2.trbEnd.idx == slot) = some (c, x) →
            (∀ slot2 y, (s.circuits lane).find? (fun e => e.2.trbEnd.idx == slot2) = some (c, y) → slot2 = slot) →
            tfind t.prt.given c = some (if s.slotCapacity lane < q.count then List.replicate (nominalCount x.kind) true
              else (q.data.flatMap msbBits).take q.count))) ∧
    (∀ since, s.trbOn lane = true →
      (if s.rd Reg.PRT_TRB_ALIGN lane = 2 then (s.trb lane).inSince else (s.trb lane).outSince) = some since →
      Completes (.trbAlign dt lane) s fun t =>
        t.rdBit Reg.PRT_TRB_LLA lane = decide (s.rd Reg.PRT_TRB_ALIGN lane ≠ 2) ∧
        t.time = max (s.time + dt) (since + (if s.rd Reg.PRT_TRB_ALIGN lane = 2 then 1 else 3) * Config.msPos)) ∧
    (∀ h ptn flags, Admitted s dt h (laneDomain lane) Op.PRT_TEST → lane ≤ 79 → ptn ≤ 4 →
      (bitOf flags 2 && bitOf flags 3) = false → s.laneBusy lane true = false → s.laneOn lane = true →
      Completes (.prtTest dt h lane ptn flags) s fun t =>
        t.rd Reg.PRT_LANE_TESTING lane = (if ptn = 0 ∧ flags = 0 then 0 else 1) ∧
        (¬(ptn = 0 ∧ flags = 0) → tfind t.prt.tests lane = some { ptn := ptn, flags := flags % 16 }) ∧
        (ptn = 0 ∧ flags = 0 → tsorted s.prt.tests = true → tfind t.prt.tests lane = none) ∧
        t.rdBit Reg.PRT_LANE_PRBS_LOCK lane = false ∧ Answered t h Op.PRT_TEST 0 0 [] ∧
        RegsOnly [(Reg.PRT_LANE_TESTING, lane), (Reg.PRT_LANE_PRBS_LOCK, lane)] s t) ∧
    (∀ h, Admitted s dt h (laneDomain lane) Op.PRT_ADAPT_RESTART → lane ≤ 79 → s.laneBusy lane false = false →
      s.laneOn lane = true →
      Completes (.prtAdaptRestart dt h lane) s fun t =>
        t.rd Reg.PRT_LANE_READY lane = 0 ∧ t.rdBit Reg.PRT_LANE_LOL lane = false ∧
        t.rdBit Reg.PRT_LANE_NO_BLOCK_LOCK lane = false ∧ t.rdBit Reg.PRT_LANE_HIBER lane = false ∧
        Answered t h Op.PRT_ADAPT_RESTART 0 0 [])

/-- Ralale frames, the failure of alignment, tubs and the closing of records take effect. R170 to R179, R183, R187, R188 and R193 to
R197. -/
def Obligations.RalaleEventsTakeEffect : Prop :=
  ∀ (s : State) (dt lane : Nat),
    (∀ off prior blocks badSync, s.rlkLive lane = true →
      Completes (.rlkFrameRx dt lane off false prior blocks badSync) s fun t =>
        t.rd Reg.RLK_ALIGN lane = 0 ∧
        t.rd Reg.RLK_SH_ERR_CNT lane = (s.rd Reg.RLK_SH_ERR_CNT lane + (badSync + badHeaders blocks)) % 2 ^ 32) ∧
    (∀ off prior blocks badSync f, s.rlkLive lane = true → s.rlkLooks lane off = true →
      f = readRlk (s.rdBit Reg.RLK_EK7210 lane) prior blocks → s.rlkHit lane f = true → s.rd Reg.RLK_ALIGN lane ≠ 2 →
      (s.rd Reg.RLK_ALIGN lane = 0 ∨ (s.rlkLane lane).conf + 1 < s.rlkNeeds lane) →
      Completes (.rlkFrameRx dt lane off true prior blocks badSync) s fun t =>
        t.rd Reg.RLK_ALIGN lane = (if s.rd Reg.RLK_ALIGN lane = 0 then 1 else s.rd Reg.RLK_ALIGN lane)) ∧
    (∀ off prior blocks badSync f, s.rlkLive lane = true → s.rlkLooks lane off = true →
      f = readRlk (s.rdBit Reg.RLK_EK7210 lane) prior blocks → s.rlkHit lane f = true → s.rd Reg.RLK_ALIGN lane = 2 →
      Completes (.rlkFrameRx dt lane off true prior blocks badSync) s fun t =>
        t.rd Reg.RLK_ALIGN lane = 2 ∧
        (f.markCrc = true → t.rd Reg.RLK_UNIT_RX lane = f.unit % 2 ^ Reg.RLK_UNIT_RX.width ∧
          t.rdBit Reg.RLK_PAIRED_RX lane = f.paired ∧ t.rd Reg.RLK_MARK_CRC_CNT lane = s.rd Reg.RLK_MARK_CRC_CNT lane) ∧
        (f.markCrc = false → t.rd Reg.RLK_UNIT_RX lane = s.rd Reg.RLK_UNIT_RX lane ∧
          t.rd Reg.RLK_MARK_CRC_CNT lane = (s.rd Reg.RLK_MARK_CRC_CNT lane + 1) % 2 ^ 32) ∧
        (f.ohCrc = true → t.rd Reg.RLK_RX_LINK_ID lane = f.linkId % 2 ^ Reg.RLK_RX_LINK_ID.width ∧
          t.rd Reg.RLK_FE_GOOD lane = f.rc.getD 0 0 % 2 ^ 32 ∧ t.rd Reg.RLK_OH_CRC_CNT lane = s.rd Reg.RLK_OH_CRC_CNT lane) ∧
        (f.ohCrc = false → t.rd Reg.RLK_OH_CRC_CNT lane = (s.rd Reg.RLK_OH_CRC_CNT lane + 1) % 2 ^ 32 ∧
          t.rd Reg.RLK_RX_LINK_ID lane = s.rd Reg.RLK_RX_LINK_ID lane)) ∧
    (∀ since, s.rlkOn lane = true → s.rdBit Reg.PRT_LANE_GATED lane = false →
      (if s.rd Reg.RLK_ALIGN lane = 2 then (s.rlkLane lane).inSince else (s.rlkLane lane).outSince) = some since →
      Completes (.rlkLfa dt lane) s fun t =>
        t.rdBit Reg.RLK_LFA lane = decide (s.rd Reg.RLK_ALIGN lane ≠ 2) ∧
        t.time = max (s.time + dt) (since + (if s.rd Reg.RLK_ALIGN lane = 2 then 1 else 3) * Config.msPos)) ∧
    (∀ prior blocks, s.rlkLive lane = true → s.rd Reg.RLK_ALIGN lane = 2 → (readTub prior blocks).hcrc = false →
      Completes (.tubRx dt lane prior blocks) s fun t =>
        t.rd Reg.RLK_HDR_ERR_CNT lane = (s.rd Reg.RLK_HDR_ERR_CNT lane + 1) % 2 ^ 32 ∧
        t.rd Reg.RLK_SH_ERR_CNT lane = (s.rd Reg.RLK_SH_ERR_CNT lane + badHeaders blocks) % 2 ^ 32 ∧ t.rlk = s.rlk ∧ t.io = s.io ∧
        RegsOnly [(Reg.RLK_HDR_ERR_CNT, lane), (Reg.RLK_SH_ERR_CNT, lane)] s t) ∧
    (∀ prior blocks u c x, s.rlkLive lane = true → s.rd Reg.RLK_ALIGN lane = 2 → s.perturbed 4 = false →
      s.rdBit Reg.RLK_LIM lane = false → u = readTub prior blocks → u.hcrc = true → u.cid ≠ 0xFFFF → 1 ≤ u.vbc → u.vbc ≤ 56 →
      u.csf = false → s.cidCtx lane u.cid = some (c, x) → (s.rlkCtx c).sync = true → (s.rlkCtx c).held = [] → u.seq = (s.rlkCtx c).n →
      Completes (.tubRx dt lane prior blocks) s fun t =>
        (t.rlkCtx c).n = (u.seq + 1) % 65536 ∧ (t.rlkCtx c).held = [] ∧
        (t.rlkCtx c).records = (s.rlkCtx c).records ++ [{ seq := u.seq, since := s.time + dt, lanes := [lane] }] ∧
        (t.rlkCtx c).gateBits = (s.rlkCtx c).gateBits + 448 ∧
        t.rd Reg.RLK_GOOD_CNT lane = (s.rd Reg.RLK_GOOD_CNT lane + 1) % 2 ^ 32) ∧
    (∀ ctx x u, s.ctx? ctx = some x → x.isFlow = false → (s.rlkCtx ctx).held = [u] → (s.rlkCtx (ctx + 65536)).held = [] →
      u.csf = false → (s.rlkCtx ctx).n < 65536 → u.seq = ((s.rlkCtx ctx).n + 1) % 65536 →
      Completes (.ddHoldExpiry dt ctx) s fun t =>
        t.time = max (s.time + dt) (u.since + s.holdPos) ∧ (t.rlkCtx ctx).n = (u.seq + 1) % 65536 ∧ (t.rlkCtx ctx).held = [] ∧
        (t.rlkCtx ctx).fill = (s.rlkCtx ctx).fill + 56) ∧
    (∀ ctx x r rest l, s.ctx? ctx = some x → (s.rlkCtx ctx).records = r :: rest → (s.rlkCtx (ctx + 65536)).records = [] →
      (x.rlkLinks ctx).filter (fun l => !r.lanes.contains l) = [l] →
      Completes (.copyRecordClose dt ctx) s fun t =>
        t.time = max (s.time + dt) (r.since + s.holdPos) ∧ t.rlkCtx ctx = { s.rlkCtx ctx with records := rest } ∧
        t.rd Reg.RLK_COPY_LOST_CNT l = (s.rd Reg.RLK_COPY_LOST_CNT l + 1) % 2 ^ 32 ∧
        RegsOnly [(Reg.RLK_COPY_LOST_CNT, l)] s t)

/-- Received frames, the defects that last, snapshots and insertions take effect. R213 to R217, R219, R221, R230, R231, R236, R237,
R240 and R241. -/
def Obligations.FramingEventsTakeEffect : Prop :=
  ∀ (s : State) (dt : Nat),
    (∀ k f, s.framerLive k = true → kindVc (s.framerKind k) = false → (s.framer k).align = 0 →
      Completes (.framerFrameRx dt k f) s fun t => (t.framer k).align = if f.word then 1 else 0) ∧
    (∀ lane f, s.framerLive (srcLane lane) = true → lane < 72 → modeStm (s.rd Reg.PRT_LANE_MODE lane) = true →
      (s.framer (srcLane lane)).align = 2 → (s.framer (srcLane lane)).raw = [] → f.word = true →
      Completes (.framerFrameRx dt (srcLane lane) f) s fun t =>
        (t.framer (srcLane lane)).align = 2 ∧
        t.rd Reg.FRM_LANE_B1_CNT lane = (s.rd Reg.FRM_LANE_B1_CNT lane + f.b1) % 2 ^ 32 ∧
        t.rd Reg.FRM_LANE_B2_CNT lane = (s.rd Reg.FRM_LANE_B2_CNT lane + f.bip) % 2 ^ 32 ∧
        t.rd Reg.FRM_LANE_REI_CNT lane = (s.rd Reg.FRM_LANE_REI_CNT lane +
            (if f.status.getD 0 ≤ 24 * stmN (s.rd Reg.PRT_LANE_MODE lane) then f.status.getD 0 else 0)) % 2 ^ 32) ∧
    (∀ k since, (if (s.framer k).align = 2 then (s.framer k).okSince else (s.framer k).oofSince) = some since →
      Completes (.lofDeclare dt k) s fun t =>
        t.time = max (s.time + dt) (since + 3 * Config.msPos) ∧
        (2 ∈ (t.framer k).raw ↔ (s.framer k).align ≠ 2)) ∧
    (∀ lane lanes, lane < 72 → s.rd Reg.PRT_LANE_MODE lane = 11 ∨ s.rd Reg.PRT_LANE_MODE lane = 12 → s.portFirst lane = lane →
      Completes (.otlLol dt lane lanes) s fun t =>
        let u := t.framer (srcLane lane)
        t.rd Reg.FRM_LANE_SKEW lane = otlSkew lanes % 2 ^ Reg.FRM_LANE_SKEW.width ∧
        t.rd Reg.FRM_LANE_LANES_OK lane = lanes.countP (·.sync) % 2 ^ Reg.FRM_LANE_LANES_OK.width ∧
        (∀ since, (s.framer (srcLane lane)).otl = some (otlBad lanes, since) →
          t.time = max (s.time + dt) (since + 3 * Config.msPos) ∧ (4 ∈ u.raw ↔ otlBad lanes = true) ∧
          (otlBad lanes = true → u.align = 0)) ∧
        ((∀ since, (s.framer (srcLane lane)).otl ≠ some (otlBad lanes, since)) →
          t.time = s.time + dt ∧ u = { s.framer (srcLane lane) with otl := some (otlBad lanes, s.time + dt) })) ∧
    (∀ ctx since, (s.framer (srcCtx ctx)).okSince = some since → s.framerKind (srcCtx ctx) = 1 →
      (s.framer (srcCtx ctx)).crc4 = false →
      Completes (.crc4SearchTimeout dt ctx false) s fun t =>
        t.time = max (s.time + dt) (since + (if bitOf (s.framer (srcCtx ctx)).cfg.acts 3 then 400 else 8) * Config.msPos) ∧
        (if bitOf (s.framer (srcCtx ctx)).cfg.acts 3 then
          3 ∉ (t.framer (srcCtx ctx)).raw ∧ (t.framer (srcCtx ctx)).align = (s.framer (srcCtx ctx)).align
        else (t.framer (srcCtx ctx)).align = 0)) ∧
    (∀ ctx, s.frmCtxOk ctx = true → (s.elapse dt).dispatched 1 (fun e => e.arg == ctx) = true →
      Completes (.ohExtract dt ctx) s fun t =>
        (t.framer (s.frmKey ctx)).snap.length = 128 ∧ (t.framer (s.frmKey ctx)).newTrace = false ∧
        (t.framer (s.frmKey ctx)).snap.take 8 = leBytes 8 (s.elapse dt).stamp) ∧
    (∀ ctx, s.frmCtxOk ctx = true → (s.elapse dt).dispatched 2 (fun e => e.arg == ctx) = true →
      Completes (.ohInsert dt ctx true) s fun t =>
        (t.framer (s.frmKey ctx)).cfg = (s.framer (s.frmKey ctx)).cfgNext.getD (s.framer (s.frmKey ctx)).cfg ∧
        (t.framer (s.frmKey ctx)).forced = (s.framer (s.frmKey ctx)).forcedNext.getD (s.framer (s.frmKey ctx)).forced ∧
        (t.framer (s.frmKey ctx)).cfgNext = none ∧ (t.framer (s.frmKey ctx)).forcedNext = none ∧
        (∀ n g, s.groupOf ctx = some (n, g) → ∃ q, tfind t.frm.groups n = some q ∧ q.leg = g.wanted ∧ q.next = none) ∧
        RegsOnly [] s t) ∧
    (∀ ctx, s.frmCtxOk ctx = true → (s.elapse dt).dispatched 2 (fun e => e.arg == ctx) = true →
      Completes (.ohInsert dt ctx false) s fun t =>
        (t.framer (s.frmKey ctx)).forced = (s.framer (s.frmKey ctx)).forced ∧
        (t.framer (s.frmKey ctx)).image = (s.framer (s.frmKey ctx)).image ∧
        t.rd Reg.FRM_OH_OVERRUN_CNT 0 = (s.rd Reg.FRM_OH_OVERRUN_CNT 0 + 1) % 2 ^ 32 ∧
        RegsOnly [(Reg.FRM_OH_OVERRUN_CNT, 0)] s t) ∧
    (∀ k, s.monitorRate k (s.framerKind k) ≠ 0 → s.halted = false → (s.framer k).declared.any maskOrder.contains = false →
      s.serverMasks k = false →
      Completes (.sdSfEval dt k) s fun t =>
        t.addr = ceilTo Config.cyclePos (s.addr + dt) ∧
        (15 ∈ (t.framer k).raw ↔ judgeWindow ((s.framer k).raw.contains 15) (windowSum (s.framer k).window t.cycle)
          (windowCycles (s.sdExp (s.framer k).cfg) (s.monitorRate k (s.framerKind k))) t.cycle (s.framer k).sdAt = true) ∧
        (16 ∈ (t.framer k).raw ↔ judgeWindow ((s.framer k).raw.contains 16)
          (fun w => max (windowSum (s.framer k).window t.cycle w) (windowSum (s.framer k).winB1 t.cycle w))
          (windowCycles (s.sfExp (s.framer k).cfg) (s.monitorRate k (s.framerKind k))) t.cycle (s.framer k).sfAt = true)) ∧
    (∀ group g since, tfind s.frm.groups group = some g → g.holdFrom = some since → s.hasAuthority = true → g.scheme ≠ 8 →
      g.command = 0 → bitOf g.mode 1 = false → s.legFail g 0 = true → s.legFail g 1 = false →
      Completes (.apsHoldoffExpiry dt group) s fun t =>
        t.time = max (s.time + dt) (since + g.holdPos) ∧
        (∃ q, tfind t.frm.groups group = some q ∧ q.holdDone = true ∧ q.wanted = 1) ∧ RegsOnly [] s t) ∧
    (∀ group g since, tfind s.frm.groups group = some g → g.wtrFrom = some since → s.hasAuthority = true → g.scheme ≠ 8 →
      g.command = 0 → bitOf g.mode 1 = false → bitOf g.mode 0 = true → s.legFail g 0 = false → s.legFail g 1 = false →
      s.legDegraded g 0 = false → s.legDegraded g 1 = false →
      Completes (.apsWtrExpiry dt group) s fun t =>
        t.time = max (s.time + dt) (since + g.wtr * Config.secondPos) ∧
        (∃ q, tfind t.frm.groups group = some q ∧ q.wtrFrom = none ∧ q.wanted = 0) ∧ RegsOnly [] s t)

/-- The FRM commands take effect. R222, R234, R236, R239, R240, R242, R244 and R312. -/
def Obligations.FramingCommandsTakeEffect : Prop :=
  ∀ (s : State) (dt : Nat) (h : HostRef) (ctx : Nat) (x : Ctx), s.ctx? ctx = some x → x.active = true →
    kindHasOverhead x.kind = true →
    (∀ p, Admitted s dt h 0 Op.FRM_CTX_CFG → p.ctx = ctx → x.migrating.isSome = true →
      Completes (.frmCtxCfg dt h p) s fun t =>
        t.ovm.held = s.ovm.held ++ [(ctx, .ctxCfg h p)] ∧ t.rd Reg.OVM_HELD_CNT 0 = (s.rd Reg.OVM_HELD_CNT 0 + 1) % 2 ^ 32 ∧
        t.io = s.io ∧ t.frm = s.frm ∧ RegsOnly [(Reg.OVM_HELD_CNT, 0)] s t) ∧
    (∀ p c, Admitted s dt h 0 Op.FRM_CTX_CFG → p.ctx = ctx → x.migrating = none → p.sf = 0 ∨ 3 ≤ p.sf ∧ p.sf ≤ 5 →
      p.sd = 0 ∨ 5 ≤ p.sd ∧ p.sd ≤ 9 → p.trace ≤ 3 → p.sa ≤ 4 →
      c = { (s.framer (s.frmKey ctx)).cfg with
        sf := p.sf, sd := p.sd, trace := p.trace, acts := p.acts % 16, label := p.label, sa := p.sa } →
      s.sfExp c < s.sdExp c →
      s.monitorRate (s.frmKey ctx) (s.framerKind (s.frmKey ctx)) = 0 ∨
        windowCycles (s.sdExp c) (s.monitorRate (s.frmKey ctx) (s.framerKind (s.frmKey ctx))) ≤ 80000 ∧
        windowCycles (s.sfExp c) (s.monitorRate (s.frmKey ctx) (s.framerKind (s.frmKey ctx))) ≤ 80000 →
      Completes (.frmCtxCfg dt h p) s fun t =>
        t.framer (s.frmKey ctx) = { s.framer (s.frmKey ctx) with cfgNext := some c } ∧ Answered t h Op.FRM_CTX_CFG 0 0 [] ∧
        RegsOnly [] s t) ∧
    (∀ p : TraceSet, Admitted s dt h 0 Op.FRM_TRACE_SET → p.ctx = ctx → x.migrating = none → p.tx ≤ 1 → p.layer ≤ 3 → p.part ≤ 1 →
      p.bytes.length = 32 →
      Completes (.frmTraceSet dt h p) s fun t =>
        (∃ c, (t.framer (s.frmKey ctx)).cfgNext = some c ∧
          ((tget [] (if p.tx = 0 then c.expect else c.send) p.layer).drop (32 * p.part)).take 32 = p.bytes) ∧
        Answered t h Op.FRM_TRACE_SET 0 0 [] ∧ RegsOnly [] s t) ∧
    (∀ host, Admitted s dt h 0 Op.FRM_CTX_READ → x.migrating = none → host % 64 = 0 →
      Completes (.frmCtxRead dt h ctx host) s fun t =>
        Answered t h Op.FRM_CTX_READ 0 0 [] ∧ RegsOnly [] s t ∧
        (h.noCpl = true → t.io.mem = memWrite s.io.mem host
          (((s.framer (s.frmKey ctx)).snap ++ List.replicate 128 0).take 128))) ∧
    (∀ what on, Admitted s dt h 0 Op.FRM_FORCE → x.migrating = none → s.hasAuthority = true → on ≤ 1 →
      what < 2 ∨ what ≤ 3 ∧ kindOdu (s.framerKind (s.frmKey ctx)) = true →
      Completes (.frmForce dt h ctx what on) s fun t =>
        (∃ l, (t.framer (s.frmKey ctx)).forcedNext = some l ∧ (what ∈ l ↔ on = 1)) ∧ Answered t h Op.FRM_FORCE 0 0 [] ∧
        RegsOnly [] s t) ∧
    (∀ monitor viol frames, Admitted s dt h 0 Op.FRM_ERR_INSERT → x.migrating = none → monitor ≤ 7 → 1 ≤ viol → viol ≤ 8 →
      1 ≤ frames →
      Completes (.frmErrInsert dt h ctx monitor viol frames) s fun t =>
        t.framer (s.frmKey ctx) = { s.framer (s.frmKey ctx) with errIns := some (monitor, viol, frames) } ∧
        Answered t h Op.FRM_ERR_INSERT 0 0 [] ∧ RegsOnly [] s t) ∧
    (Admitted s dt h 0 Op.FRM_REFRAME → kindPdh (s.framerKind (srcCtx ctx)) = true →
      Completes (.frmReframe dt h 0xFFFF ctx) s fun t =>
        (t.framer (srcCtx ctx)).align = 0 ∧ t.rd Reg.FRM_REFRAME_CNT 0 = (s.rd Reg.FRM_REFRAME_CNT 0 + 1) % 2 ^ 32 ∧
        Raised t Ev.FRM_REFRAMED (srcCtx ctx) [(2, keyNum (srcCtx ctx))] ∧ Answered t h Op.FRM_REFRAME 0 0 []) ∧
    (∀ lane, Admitted s dt h 0 Op.FRM_REFRAME → lane < 72 → s.portFirst lane = lane →
      (modeStm (s.rd Reg.PRT_LANE_MODE lane) || modeOtu (s.rd Reg.PRT_LANE_MODE lane)) = true →
      Completes (.frmReframe dt h lane ctx) s fun t =>
        (t.framer (srcLane lane)).align = 0 ∧ t.rd Reg.FRM_REFRAME_CNT 0 = (s.rd Reg.FRM_REFRAME_CNT 0 + 1) % 2 ^ 32 ∧
        Raised t Ev.FRM_REFRAMED (srcLane lane) [(2, lane)] ∧ Answered t h Op.FRM_REFRAME 0 0 [])

/-- The commands of protection groups take effect. R239, R240 and R242. -/
def Obligations.ProtectionCommandsTakeEffect : Prop :=
  ∀ (s : State) (dt : Nat) (h : HostRef) (group : Nat) (g : ApsGroup), tfind s.frm.groups group = some g →
    (∀ p : ApsCfg, Admitted s dt h 0 Op.FRM_APS_CFG → p.group = group → apsModeOk g.scheme p.mode = true → p.hold ≤ 100 →
      300 ≤ p.wtr → p.wtr ≤ 720 →
      Completes (.frmApsCfg dt h p) s fun t =>
        tfind t.frm.groups group = some { g with next := some (p.mode, p.hold, p.wtr) } ∧ Answered t h Op.FRM_APS_CFG 0 0 [] ∧
        RegsOnly [] s t) ∧
    (∀ leg, Admitted s dt h 0 Op.FRM_APS_CMD → s.hasAuthority = true → leg ≤ 1 →
      Completes (.frmApsCmd dt h group 0 leg) s fun t =>
        (∃ q, tfind t.frm.groups group = some q ∧ q.command = 0) ∧ Answered t h Op.FRM_APS_CMD 0 0 [] ∧ RegsOnly [] s t) ∧
    (∀ cmd leg, Admitted s dt h 0 Op.FRM_APS_CMD → s.hasAuthority = true → 1 ≤ cmd → cmd ≤ 4 → leg ≤ 1 →
      commandReq cmd ≤ (s.localWant g).req →
      Completes (.frmApsCmd dt h group cmd leg) s fun t =>
        (∃ q, tfind t.frm.groups group = some q ∧ q.command = cmd ∧ q.cmdLeg = leg) ∧ Answered t h Op.FRM_APS_CMD 0 0 [] ∧
        RegsOnly [] s t) ∧
    (∀ cmd leg, Admitted s dt h 0 Op.FRM_APS_CMD → s.hasAuthority = true → 1 ≤ cmd → cmd ≤ 4 → leg ≤ 1 →
      (s.localWant g).req < commandReq cmd →
      Completes (.frmApsCmd dt h group cmd leg) s fun t =>
        t.frm = s.frm ∧ Answered t h Op.FRM_APS_CMD 2 5 [] ∧ RegsOnly [] s t)

/-- Handovers, client and GFP frames, carriage blocks, play-out, rate limits and the reads of MAP take effect. R249, R260 to R264,
R274, R277, R285 to R288 and R295. -/
def Obligations.MappingCommandsTakeEffect : Prop :=
  ∀ (s : State) (dt ctx : Nat),
    (ctx ∈ s.map.handing →
      Completes (.handover dt ctx) s fun t =>
        t.map = { s.map with handing := s.map.handing.filter (fun c => c != ctx) } ∧
        t.rd Reg.MAP_HANDOVER_CNT 0 = (s.rd Reg.MAP_HANDOVER_CNT 0 + 1) % 2 ^ 32 ∧ RegsOnly [(Reg.MAP_HANDOVER_CNT, 0)] s t) ∧
    (∀ port f, s.lanePcs port = true → s.rdBit Reg.PRT_LANE_NO_BLOCK_LOCK port = false → f.ql = none → f.fcsOk = true →
      f.data.length ≤ 9600 → s.flowAt port (s.frameVid f) = none →
      Completes (.clientFrameRx dt port f) s fun t =>
        t.rd Reg.MAP_VLAN_UNMATCHED_CNT 0 = (s.rd Reg.MAP_VLAN_UNMATCHED_CNT 0 + 1) % 2 ^ 32 ∧
        tget 0 t.map.discards (s.clientPort port) = (tget 0 s.map.discards (s.clientPort port) + 1) % 2 ^ 32 ∧
        t.qmg = s.qmg ∧ RegsOnly [(Reg.MAP_VLAN_UNMATCHED_CNT, 0)] s t) ∧
    (∀ port f c x, s.lanePcs port = true → s.rdBit Reg.PRT_LANE_NO_BLOCK_LOCK port = false → f.ql = none → f.fcsOk = true →
      f.data.length ≤ 9600 → s.flowAt port (s.frameVid f) = some (c, x) →
      Completes (.clientFrameRx dt port f) s fun t =>
        t = (s.elapse dt).writeQueue x.place.queue
          { bytes := f.data, wide := false, last := true, abort := false, status := 0, tag := s.frameVid f }) ∧
    (∀ f x, s.ctx? ctx = some x → x.active = true → (s.gfp ctx).align = 2 → readCore f.core = .bad →
      Completes (.gfpFrameRx dt ctx f) s fun t =>
        (t.gfp ctx).align = 0 ∧ (t.gfp ctx).lost = min 65535 ((s.gfp ctx).lost + 1) ∧
        t.rd Reg.MAP_CHEC_UNCORR_CNT 0 = (s.rd Reg.MAP_CHEC_UNCORR_CNT 0 + 1) % 2 ^ 32 ∧
        Raised t Ev.MAP_GFP_LFD (srcCtx ctx) [(2, ctx)] ∧ RegsOnly [(Reg.MAP_CHEC_UNCORR_CNT, 0)] s t) ∧
    (∀ f x, s.ctx? ctx = some x → x.active = true → (s.gfp ctx).align ≠ 2 →
      Completes (.gfpFrameRx dt ctx f) s fun t =>
        (t.gfp ctx).align = (match readCore f.core with
          | .good _ => if (s.gfp ctx).align = 0 then 1 else 2
          | _ => 0)) ∧
    (∀ f x pli, s.ctx? ctx = some x → x.active = true → (s.gfp ctx).align = 2 → readCore f.core = .good pli → 4 ≤ pli →
      hecOk f.head = false →
      Completes (.gfpFrameRx dt ctx f) s fun t =>
        (t.gfp ctx).align = 2 ∧ (t.gfp ctx).lost = min 65535 ((s.gfp ctx).lost + 1) ∧ RegsOnly [] s t) ∧
    (∀ leg b x f, s.group? ctx = some x → x.synced = true → readCarriage b.stream = some f → 0 ≤ mseqDist f.mseq x.next →
      mseqDist f.mseq x.next ≤ 1024 →
      let failing := b.tsf || s.tsf (s.frmKey (x.leg (leg % 2)).ctx)
      Completes (.carriageBlockRx dt ctx leg b) s fun t =>
        (∃ z, t.group? ctx = some z ∧ z.next = x.next ∧ z.copies = x.copies ++
          [{ mseq := f.mseq, leg := leg % 2, good := !failing && b.viol == 0, tsf := failing, viol := b.viol, since := s.time + dt,
             unitB := bitOf f.iv 47 }]) ∧ RegsOnly [] s t) ∧
    (∀ leg b x f, s.group? ctx = some x → x.synced = true → readCarriage b.stream = some f → -1024 ≤ mseqDist f.mseq x.next →
      mseqDist f.mseq x.next < 0 →
      Completes (.carriageBlockRx dt ctx leg b) s fun t =>
        (∃ z, t.group? ctx = some z ∧ z.next = x.next ∧ z.copies = x.copies) ∧
        t.rd Reg.MAP_DD_LATE_CNT 0 = (s.rd Reg.MAP_DD_LATE_CNT 0 + 1) % 2 ^ 32 ∧ RegsOnly [(Reg.MAP_DD_LATE_CNT, 0)] s t) ∧
    (∀ x d, s.group? ctx = some x → x.copies = [d] →
      Completes (.ddPlayout dt ctx) s fun t =>
        t.time = max (s.time + dt) (d.since + s.ddPos) ∧
        (∃ z, t.group? ctx = some z ∧ z.next = (x.next + 1) % 2 ^ 32 ∧
          (d.mseq = x.next → d.good = true → z.copies = [] ∧ (z.leg d.leg).played = ((x.leg d.leg).played + 1) % 2 ^ 32 ∧
            z.lost = x.lost) ∧
          (d.mseq ≠ x.next → z.copies = [d] ∧ z.lost = min 65535 (x.lost + 1))) ∧ RegsOnly [] s t) ∧
    (∀ lane steer fill, s.followsRate lane = true → -250000 < steer → steer < 250000 →
      Completes (.mapRateLimit dt lane steer fill) s fun t =>
        tget 0 t.map.follow lane = steer ∧ t.io = s.io ∧ RegsOnly [] s t) ∧
    (∀ lane c steer fill, s.followsRate lane = true → s.laneCtx lane = some c → steer ≤ -250000 ∨ 250000 ≤ steer →
      fill ≤ 8 ∨ 56 ≤ fill →
      Completes (.mapRateLimit dt lane steer fill) s fun t =>
        tget 0 t.map.follow lane = (if steer ≤ -250000 then -250000 else 250000) ∧
        (∃ r ∈ t.io.evlog, r.code = Ev.MAP_RATE_LIMIT ∧ r.src = srcLane lane ∧
          r.detail = packItems [(2, lane), (1, ofBool (decide (250000 ≤ steer)))]) ∧
        t.rd Reg.MAP_RATEFOLLOW_LIMIT_CNT 0 = (s.rd Reg.MAP_RATEFOLLOW_LIMIT_CNT 0 + 1) % 2 ^ 32 ∧
        t.rd Reg.SHF_GATE_SLIP_CNT 0 = (s.rd Reg.SHF_GATE_SLIP_CNT 0 + 1) % 2 ^ 32 ∧
        Raised t Ev.GATE_SLIP (srcCtx c) [(2, c), (1, ofBool (decide (56 ≤ fill)))] ∧
        RegsOnly [(Reg.MAP_RATEFOLLOW_LIMIT_CNT, 0), (Reg.SHF_GATE_SLIP_CNT, 0)] s t) ∧
    (∀ h host x, Admitted s dt h 0 Op.MAP_CTX_READ → s.ctx? ctx = some x → x.active = true → x.migrating = none → host % 64 = 0 →
      Completes (.mapCtxRead dt h ctx host) s fun t =>
        t.addr = (s.toNextCycle dt).addr ∧ Answered t h Op.MAP_CTX_READ 0 0 [] ∧ RegsOnly [] s t ∧
        (h.noCpl = true → t.io.mem = memWrite s.io.mem host ((s.toNextCycle dt).recordBytes ctx x))) ∧
    (∀ h (p : PageRead), Admitted s dt h 0 Op.MAP_PAGE_READ → p.what ≤ 1 → p.standby ≤ 1 → 1 ≤ p.count → p.count ≤ 4096 →
      p.first + p.count ≤ (if p.what = 0 then 49152 else 1024) →
      Completes (.mapPageRead dt h p) s fun t =>
        Answered t h Op.MAP_PAGE_READ 0 0 [] ∧ RegsOnly [] s t ∧
        (h.noCpl = true → t.io.mem = memWrite s.io.mem p.host (((List.range p.count).map fun i =>
          leBytes (if p.what = 0 then 16 else 8) (tget 0 (s.page (p.what == 1) (p.standby == 1)) (p.first + i))).flatten))) ∧
    (∀ h host x g, Admitted s dt h 0 Op.MAP_DD_STATUS → s.ctx? ctx = some x → x.active = true → x.migrating = none →
      host % 64 = 0 → s.groupOfLeg ctx = some g →
      Completes (.mapDdStatus dt h ctx host) s fun t =>
        t.addr = (s.toNextCycle dt).addr ∧ Answered t h Op.MAP_DD_STATUS 0 0 [] ∧ RegsOnly [] s t ∧
        (h.noCpl = true → t.io.mem = memWrite s.io.mem host g.2.bytes))

/-- The OVM commands take effect. R297, R303, R307 to R309, R311, R314, R315. -/
def Obligations.OvermanCommandsTakeEffect : Prop :=
  ∀ (s : State) (dt : Nat) (h : HostRef),
    (∀ p obs b, Admitted s dt h 0 Op.OVM_INTENT_ADD → s.intentReason p = none →
      (s.elapse dt).acceptIntent p obs { params := p, state := 0, host := h, charge := obs.charge } = .ok b →
      Completes (.ovmIntentAdd dt h p obs) s fun t =>
        t.ovm = { b.ovm with order := b.ovm.order.filter (fun i => i != p.id) ++ [p.id] } ∧ t.regs = b.regs ∧ t.io = b.io) ∧
    (∀ p obs, Admitted s dt h 0 Op.OVM_INTENT_ADD → s.intentReason p = none →
      (match (s.elapse dt).acceptIntent p obs { params := p, state := 0, host := h, charge := obs.charge } with
        | .error 0 => True | _ => False) →
      Completes (.ovmIntentAdd dt h p obs) s fun t =>
        tfind t.ovm.intents p.id = some { params := p, state := 0, host := h, charge := obs.charge } ∧
        t.ovm.order = s.ovm.order.filter (fun i => i != p.id) ++ [p.id] ∧ t.ovm.ctxs = s.ovm.ctxs ∧ t.io = s.io ∧ RegsOnly [] s t) ∧
    (∀ p obs r, Admitted s dt h 0 Op.OVM_INTENT_ADD → s.intentReason p = some r →
      Completes (.ovmIntentAdd dt h p obs) s fun t =>
        t.ovm = s.ovm ∧ t.rd Reg.OVM_REFUSE_CNT 0 = (s.rd Reg.OVM_REFUSE_CNT 0 + 1) % 2 ^ 32 ∧
        Answered t h Op.OVM_INTENT_ADD 2 r (intentResult p.id [] r 0) ∧ Raised t Ev.OVM_REFUSED (srcIntent p.id) [(4, p.id), (1, r)] ∧
        RegsOnly [(Reg.OVM_REFUSE_CNT, 0)] s t) ∧
    (∀ intent x, Admitted s dt h 0 Op.OVM_INTENT_WITHDRAW → tfind s.ovm.intents intent = some x → x.state ≠ 4 → x.state ≠ 0 →
      s.migratingOf intent = none → s.hasAuthority = true →
      Completes (.ovmIntentWithdraw dt h intent) s fun t =>
        t.ovm = { s.ovm with withdraws := s.ovm.withdraws ++ [(intent, h)] } ∧ t.io = s.io ∧ RegsOnly [] s t) ∧
    (∀ intent x, Admitted s dt h 0 Op.OVM_INTENT_WITHDRAW → tfind s.ovm.intents intent = some x → x.state = 0 →
      s.migratingOf intent = none → s.hasAuthority = true →
      Completes (.ovmIntentWithdraw dt h intent) s fun t =>
        tfind t.ovm.intents intent = some { x with state := 4, ctxs := [] } ∧ intent ∉ t.ovm.order ∧
        Answered t h Op.OVM_INTENT_WITHDRAW 0 0 [] ∧ Raised t Ev.OVM_REFUSED (srcIntent intent) [(4, intent), (1, 12)] ∧
        RegsOnly [(Reg.OVM_REFUSE_CNT, 0)] s t) ∧
    (∀ ctx items x, Admitted s dt h 0 Op.OVM_PIN → s.ctx? ctx = some x → x.active = true → x.migrating = none → items ≤ 63 →
      s.hasAuthority = true →
      Completes (.ovmPin dt h ctx items) s fun t =>
        (∃ y, t.ctx? ctx = some y ∧ y.place = x.place ∧
          ∀ k, k < 6 → bitOf y.pins k = (bitOf x.pins k || bitOf items k)) ∧
        Answered t h Op.OVM_PIN 0 0 [] ∧ RegsOnly [] s t) ∧
    (∀ ctx items x, Admitted s dt h 0 Op.OVM_UNPIN → s.ctx? ctx = some x → x.active = true → x.migrating = none → items ≤ 63 →
      s.hasAuthority = true →
      Completes (.ovmUnpin dt h ctx items) s fun t =>
        (∃ y, t.ctx? ctx = some y ∧ y.place = x.place ∧
          ∀ k, k < 6 → bitOf y.pins k = (bitOf x.pins k && !bitOf items k)) ∧
        Answered t h Op.OVM_UNPIN 0 0 [] ∧ RegsOnly [] s t) ∧
    (∀ intent host avail x, Admitted s dt h 0 Op.OVM_RESULT_READ → tfind s.ovm.intents intent = some x → s.migratingOf intent = none →
      host % 64 = 0 → (s.resultBlock intent x).length ≤ avail →
      Completes (.ovmResultRead dt h intent host avail) s fun t =>
        Answered t h Op.OVM_RESULT_READ 0 0 [] ∧ RegsOnly [] s t ∧
        (h.noCpl = true → t.io.mem = memWrite s.io.mem host (s.resultBlock intent x))) ∧
    (Admitted s dt h 0 Op.OVM_DEFRAG →
      Completes (.ovmDefrag dt h) s fun t =>
        (∃ a, t.ovm = { s.ovm with defragAt := some a } ∧ t.addr < a ∧ a ≤ t.addr + Config.epochPos ∧ a % Config.epochPos = 0) ∧
        Answered t h Op.OVM_DEFRAG 0 0 [] ∧ RegsOnly [] s t)

/-- The Overman's own events take effect. R28, R309, R312, R313, R317 and R318. -/
def Obligations.OvermanEventsTakeEffect : Prop :=
  ∀ (s : State) (dt : Nat),
    (∀ obs m x, s.hasAuthority = true → (s.elapse dt).moveRuns [m] m = true → s.ctx? m.ctx = some x → x.active = true →
      x.migrating = none → farSame x.place m.place = true → Nat.land x.pins (movedItems x.place m.place) = 0 →
      m.reason = 6 ∨ (s.ovm.moves.filter (fun n => n.reason != 6)).length < max 1 (s.rd Reg.OVM_MOVE_MAX 0) →
      (s.elapse dt).moveFits m x = true → (s.elapse dt).moveHewerOk obs m x = true →
      (s.elapse dt).gatedUnits { x with place := m.place } = [] →
      Completes (.ovmMovePlan dt obs [m]) s fun t =>
        t.ovm.moves = s.ovm.moves ++ [m] ∧ t.ctx? m.ctx = some { x with migrating := some t.addr } ∧
        tfind t.ovm.lastMove m.reason = some t.time ∧ t.io = s.io ∧ RegsOnly [] s t) ∧
    (∀ ctx x since, s.halted = false → s.ctx? ctx = some x → x.migrating = some since → s.ovm.held = [] →
      Completes (.ovmHoldExpired dt ctx) s fun t =>
        t.addr = max (s.addr + dt) (since + 2 * Config.multiframePos) ∧ t.ctx? ctx = some { x with migrating := none } ∧
        (∀ m ∈ t.ovm.moves, m.ctx ≠ ctx) ∧
        t.rd Reg.OVM_HOLD_EXPIRE_CNT 0 = (s.rd Reg.OVM_HOLD_EXPIRE_CNT 0 + 1) % 2 ^ 32 ∧
        Raised t Ev.OVM_HOLD_EXPIRED (srcCtx ctx) [(2, ctx), (4, 0)] ∧ RegsOnly [(Reg.OVM_HOLD_EXPIRE_CNT, 0)] s t) ∧
    (∀ slice stage, slice < 4 → stage ≤ 1 →
      Completes (.stageUnusable dt slice stage) s fun t =>
        stageUnit slice stage ∈ t.ovm.unusable ∧
        (∀ c x, (c, x) ∈ s.ovm.ctxs → x.active = true → x.stage = true →
          (if stage = 0 then x.place.inSlice else x.place.egSlice) = slice → (c, { x with fail := true }) ∈ t.ovm.ctxs) ∧
        (∀ c x, (c, x) ∈ s.ovm.ctxs → x.stage = false → (c, x) ∈ t.ovm.ctxs) ∧
        (s.paired = true → t.rd Reg.PAR_FAULTED 0 = 1) ∧ (s.paired = false → RegsOnly [] s t)) ∧
    (∀ hewer, hewer ∈ s.ovmHewers → s.ovm.moves = [] →
      Completes (.ovmRestart dt hewer) s fun t =>
        t.rd Reg.OVM_RESTART_CNT 0 = (s.rd Reg.OVM_RESTART_CNT 0 + 1) % 2 ^ 32 ∧
        t.rd Reg.OVM_STATE 0 = (if s.hasAuthority then 1 else 2) ∧ t.ovm.ctxs = s.ovm.ctxs ∧ t.ovm.intents = s.ovm.intents ∧
        RegsOnly [(Reg.OVM_RESTART_CNT, 0), (Reg.OVM_STATE, 0), (Reg.OVM_HEWERS_LO, 0), (Reg.OVM_HEWERS_MID, 0),
          (Reg.OVM_HEWERS_HI, 0), (Reg.OVM_ENGINES, 0)] s t) ∧
    (s.rd Reg.OVM_STATE 0 = 0 → (∀ n, n < 96 → s.hewerReset n = false) →
      Completes (.ovmEngines dt) s fun t =>
        t.rd Reg.OVM_STATE 0 = (if s.hasAuthority then 1 else 2) ∧
        RegsOnly [(Reg.OVM_STATE, 0), (Reg.OVM_HEWERS_LO, 0), (Reg.OVM_HEWERS_MID, 0), (Reg.OVM_HEWERS_HI, 0),
          (Reg.OVM_ENGINES, 0)] s t) ∧
    (s.rd Reg.OVM_STATE 0 ≠ 0 → s.enginesNeeded < s.rd Reg.OVM_ENGINES 0 → s.ovm.idleFrom = none →
      Completes (.ovmEngines dt) s fun t =>
        t.ovm = { s.ovm with idleFrom := some (s.time + dt) } ∧ RegsOnly [] s t) ∧
    (∀ kind n, unitCode kind n ∈ s.ovm.waking → s.ovm.moveWaits = [] →
      Completes (.unitWakeReady dt kind n) s fun t =>
        unitCode kind n ∉ t.ovm.waking ∧ unitCode kind n ∉ t.ovm.gated ∧
        (∀ i x, tfind t.ovm.intents i = some x → unitCode kind n ∉ x.wake) ∧
        (kind = 2 → n < 80 → t.rd Reg.PRT_LANE_GATED n = 0 ∧ t.rd Reg.PRT_LANE_READY n = 0) ∧
        (kind = 3 → n ∉ t.prt.trbGated) ∧ (kind ≤ 1 → RegsOnly [] s t))

/-- Seconds and bins of performance monitoring take effect. R324 to R329, R331 to R334. -/
def Obligations.MonitoringEventsTakeEffect : Prop :=
  ∀ (s : State) (dt hewer p : Nat), tsorted s.pm.points = true → s.pm.running = true → s.pm.frozen = false →
    (s.point p).cfg.on = true →
    (s.halted = false → s.pm.nextTod * todSecond ≤ (s.toBoundary dt Config.cyclePos).todNow → (s.point p).next = none →
      Completes (.pmSecondBoundary dt) s fun t =>
        t.addr = ceilTo Config.cyclePos (s.addr + dt) ∧ t.pm.began = some t.addr ∧ t.pm.nextTod = t.todSec + 1 ∧
        (t.point p).unread = true ∧ (t.point p).last.neEb = (s.point p).acc.neEb ∧
        (t.point p).last.feEb = (s.point p).acc.feEb ∧ (t.point p).acc.neEb = 0 ∧ (t.point p).acc.feEb = 0 ∧
        (t.point p).acc.neDc = 0 ∧ (t.point p).acc.feDc = 0) ∧
    (s.pointHewer p = hewer → (s.elapse dt).dispatched 6 (fun e => e.target == hewer) = true → (s.point p).unread = true →
      s.rdBit Reg.PMN_EN 0 = true → (s.point p).pend.length < 9 →
      Completes (.pmSecondRead dt hewer) s fun t =>
        (t.point p).unread = false ∧ (t.point p).cls = (classify (s.point p).last (s.sesThr p)).bits ∧
        (t.point p).pend = (s.point p).pend ++ [classify (s.point p).last (s.sesThr p)] ∧
        (t.point p).neUnav = (s.point p).neUnav ∧ (t.point p).feUnav = (s.point p).feUnav) ∧
    (∀ first rest, s.pointHewer p = hewer → (s.elapse dt).dispatched 6 (fun e => e.target == hewer) = true →
      (s.point p).unread = true → s.rdBit Reg.PMN_EN 0 = true →
      (s.point p).pend = first :: rest → rest.length = 8 →
      Completes (.pmSecondRead dt hewer) s fun t =>
        (t.point p).pend = rest ++ [classify (s.point p).last (s.sesThr p)] ∧
        (t.point p).neUnav = unavailable (s.point p).neUnav
          (((s.point p).pend ++ [classify (s.point p).last (s.sesThr p)]).map (·.neSes)) ∧
        (t.point p).feUnav = unavailable (s.point p).feUnav
          (((s.point p).pend ++ [classify (s.point p).last (s.sesThr p)]).map (·.feSes))) ∧
    (s.halted = false → s.hasAuthority = true → s.pointHewer p = hewer →
      (s.elapse dt).dispatched 6 (fun e => e.target == hewer) = true → (s.elapse dt).edgeSec % 900 = 0 →
      0 < (s.point p).cur15.classified →
      Completes (.pmBinClosure dt hewer) s fun t =>
        (t.point p).cur15.serial = (s.point p).cur15.serial + 1 ∧ (t.point p).cur15.start = (s.elapse dt).edgeSec ∧
        (t.point p).cur15.counts = ({} : PmBin).counts ∧ (t.point p).cur15.seconds = 0 ∧
        (t.point p).old15 = some { (s.point p).cur15 with ended := cycleStart t.addr })

/-- The host commands of performance monitoring take effect. R321, R335, R336, R338 and R346. -/
def Obligations.MonitoringCommandsTakeEffect : Prop :=
  ∀ (s : State) (dt : Nat) (h : HostRef),
    (∀ p, Admitted s dt h 0 Op.PMN_POINT_CFG → s.hasAuthority = true → p.prof ≤ 63 → s.pointOk p.point = true →
      Completes (.pmnPointCfg dt h p) s fun t =>
        t.point p.point = { s.point p.point with next := some { on := p.on, bidir := p.bidir, exp := p.exp, prof := p.prof } } ∧
        Answered t h Op.PMN_POINT_CFG 0 0 [] ∧ RegsOnly [] s t) ∧
    (∀ p, Admitted s dt h 0 Op.PMN_PROFILE_SET → s.hasAuthority = true → p.prof ≤ 63 → p.typ ≤ 1 → p.neP ≤ 100 → p.feP ≤ 100 →
      p.thr.length = 10 →
      Completes (.pmnProfileSet dt h p) s fun t =>
        (tget {} t.pm.thr (2 * p.prof + p.typ)).thr = p.thr ∧ tget (0, 0) t.pm.pct p.prof = (p.neP, p.feP) ∧
        Answered t h Op.PMN_PROFILE_SET 0 0 [] ∧ RegsOnly [] s t) ∧
    (∀ p : HistRead, Admitted s dt h 0 Op.PMN_HIST_READ → p.count = 1 → p.typ ≤ 1 → p.num = 1 →
      p.first ≤ (if p.typ = 0 then 32 else 7) → s.pointOk p.point = true → (s.point p.point).ever = true → s.pm.badHist = [] →
      p.host % 64 = 0 → p.first ≤ (s.point p.point).histLen p.typ →
      Completes (.pmnHistRead dt h p) s fun t =>
        Answered t h Op.PMN_HIST_READ 0 0 [] ∧ RegsOnly [] s t ∧
        (h.noCpl = true → t.io.mem = memWrite s.io.mem p.host ((s.elapse dt).histRecord p.point p.typ p.first))) ∧
    (∀ point c15 c24, Admitted s dt h 0 Op.PMN_POINT_CLEAR → s.hasAuthority = true → s.pointOk point = true →
      Completes (.pmnPointClear dt h point c15 c24) s fun t =>
        (if c15 then (t.point point).cur15.counts = List.replicate 10 0 ∧ bitOf (t.point point).cur15.suspect 2 = true
          else (t.point point).cur15 = (s.point point).cur15) ∧
        (if c24 then (t.point point).cur24.counts = List.replicate 10 0 ∧ bitOf (t.point point).cur24.suspect 2 = true
          else (t.point point).cur24 = (s.point point).cur24) ∧
        Answered t h Op.PMN_POINT_CLEAR 0 0 [] ∧ RegsOnly [] s t) ∧
    (∀ point host, Admitted s dt h 0 Op.PMN_SEC_READ → host % 64 = 0 → s.pointOk point = true → (s.point point).ever = true →
      Completes (.pmnSecRead dt h point host) s fun t =>
        t.addr = (s.toNextCycle dt).addr ∧ Answered t h Op.PMN_SEC_READ 0 0 [] ∧ RegsOnly [] s t ∧
        (h.noCpl = true → t.io.mem = memWrite s.io.mem host ((s.toNextCycle dt).pointBytes point)))

/-- The CIP commands take effect. R357, R361, R378, R379, R381, R561 and R562. -/
def Obligations.CipherCommandsTakeEffect : Prop :=
  ∀ (s : State) (dt : Nat) (h : HostRef),
    (∀ e, Admitted s dt h 10 Op.CIP_ROOT_LOAD → s.hasAuthority = true →
      Completes (.cipRootLoad dt h e) s fun t =>
        let c := s.envelopeCause Op.CIP_ROOT_LOAD false e
        let slot := c.2.getD 0 0
        let since := c.2.getD 2 0 + 256 * c.2.getD 3 0
        let peer := c.2.getD 4 0 + 256 * c.2.getD 5 0
        (∀ i, c.1 = 0 → slot ≤ 3 → (slot = 3 ∨ peer ≠ s.rd Reg.CIP_PAIR_ID 0) → s.loadReason slot since = none →
          s.loadHalf slot = some i →
          (t.keySlot slot).half i = some { fromEpoch := since, peer := peer, key := leNum ((c.2.drop 8).take 32) } ∧
          t.rd Reg.SEC_NONCE_VALID 0 = 0 ∧ tget 0 t.sec.meas 4 = Config.sha512 (leBytes 64 (tget 0 s.sec.meas 4) ++
            leBytes 64 (Config.sha512 (envSig e))) ∧
          Raised t Ev.KEY_LOADED srcDevice [(1, 1), (1, slot), (2, since)] ∧ Answered t h Op.CIP_ROOT_LOAD 0 0 []) ∧
        (c.1 ≠ 0 → t.cip = s.cip ∧ t.rd Reg.SEC_ENV_BAD_CNT 0 = (s.rd Reg.SEC_ENV_BAD_CNT 0 + 1) % 2 ^ 32 ∧
          Raised t Ev.SEC_ENVELOPE_BAD srcDevice [(2, Op.CIP_ROOT_LOAD), (1, c.1), (4, s.rd Reg.SEC_SERIAL_LO 0)] ∧
          Answered t h Op.CIP_ROOT_LOAD 2 2 []) ∧
        (c.1 ≠ 0 → c.1 ≠ 6 → RegsOnly [(Reg.SEC_ENV_BAD_CNT, 0)] s t)) ∧
    (∀ e, Admitted s dt h 10 Op.CIP_KEY_ERASE → s.cip.ctxs = [] → tsorted s.cip.slots = true →
      Completes (.cipKeyErase dt h e) s fun t =>
        let c := s.envelopeCause Op.CIP_KEY_ERASE false e
        let slot := c.2.getD 1 0
        (c.1 = 0 → c.2.getD 0 0 = 0 → slot < 3 →
          t.keySlot slot = {} ∧ (∀ k, k ≠ slot → t.keySlot k = s.keySlot k) ∧
          Raised t Ev.KEY_ERASED srcDevice [(1, 1), (1, slot), (4, 0)] ∧ Answered t h Op.CIP_KEY_ERASE 0 0 []) ∧
        (c.1 ≠ 0 → t.cip = s.cip ∧ Raised t Ev.SEC_ENVELOPE_BAD srcDevice
          [(2, Op.CIP_KEY_ERASE), (1, c.1), (4, s.rd Reg.SEC_SERIAL_LO 0)] ∧ Answered t h Op.CIP_KEY_ERASE 2 2 [])) ∧
    (∀ (p : WrapLoad) i e, Admitted s dt h 10 Op.CIP_WRAP_LOAD → p.slot ≤ 63 → p.peer ≠ s.rd Reg.CIP_PAIR_ID 0 → s.hasAuthority = true →
      s.loadReason (0x80 + p.slot) p.fromEpoch = none → s.loadHalf (0x80 + p.slot) = some i → s.kek = some e →
      s.rd Reg.SEC_LIFECYCLE 0 = 1 ∨ s.rd Reg.SEC_LIFECYCLE 0 = 2 →
      Completes (.cipWrapLoad dt h p) s fun t =>
        (∀ key, Config.kwUnwrap e p.blob = some key →
          (t.keySlot (0x80 + p.slot)).half i = some { fromEpoch := p.fromEpoch, peer := p.peer, key := key } ∧
          Raised t Ev.KEY_LOADED srcDevice [(1, 0), (1, p.slot), (2, p.fromEpoch)] ∧ Answered t h Op.CIP_WRAP_LOAD 0 0 []) ∧
        (Config.kwUnwrap e p.blob = none → t.cip = s.cip ∧ Answered t h Op.CIP_WRAP_LOAD 2 6 [] ∧ RegsOnly [] s t)) ∧
    (∀ p stored, Admitted s dt h 10 Op.CIP_EPOCH_FLIP → s.flipReason p (s.flipTargets p) = none →
      s.reserved (((s.flipTargets p).map (·.2)).foldl max 0) = true →
      Completes (.cipEpochFlip dt h p stored) s fun t =>
        t.shf.oneShots = s.shf.oneShots ++ [flipEntry (s.elapse dt).flipDue] ∧
        (∃ f, t.cip.flips = s.cip.flips ++ [f] ∧ f.due = (s.elapse dt).flipDue ∧ f.targets = s.flipTargets p) ∧
        Answered t h Op.CIP_EPOCH_FLIP 0 0 []) ∧
    (∀ p stored, Admitted s dt h 10 Op.CIP_EPOCH_FLIP → s.flipReason p (s.flipTargets p) = none →
      s.reserved (((s.flipTargets p).map (·.2)).foldl max 0) = false →
      Completes (.cipEpochFlip dt h p stored) s fun t =>
        if stored then
          t.rd Reg.CIP_EPOCH_RESV 0 = min 65535 (((s.flipTargets p).map (·.2)).foldl max 0 + 16) ∧
          t.shf.oneShots = s.shf.oneShots ++ [flipEntry (s.elapse dt).flipDue] ∧ Answered t h Op.CIP_EPOCH_FLIP 0 0 []
        else
          t.shf = s.shf ∧ Raised t Ev.EPOCH_RESV_FAIL srcDevice
            [(2, min 65535 (((s.flipTargets p).map (·.2)).foldl max 0 + 16))] ∧
          Answered t h Op.CIP_EPOCH_FLIP 2 8 [] ∧ RegsOnly [] s t)

/-- Epoch flips, sealed blocks, derivations, erases, reservations and bulk messages take effect. R349, R358, R359, R362, R364, R365,
R367, R369 to R371, R375, R377 and R380. -/
def Obligations.CipherEventsTakeEffect : Prop :=
  ∀ (s : State) (dt : Nat),
    (∀ f, s.halted = false → s.cip.flips.filter (fun g => !g.fired) = [f] →
      ((s.elapse dt).waitAddr f.due).dispatched 7 (fun _ => true) = true →
      Completes (.keyEpochFlip dt) s fun t =>
        t.addr = max (s.addr + dt) f.due ∧ t.cip.flips = s.cip.flips.map (fun g => if g == f then { g with fired := true } else g) ∧
        (f.raiseCur = true → s.rd Reg.CIP_EPOCH_CUR 0 < f.epoch → t.rd Reg.CIP_EPOCH_CUR 0 = f.epoch % 65536) ∧
        flipEntry f.due ∉ t.shf.oneShots) ∧
    (∀ ctx x before, s.cip? ctx = some x → x.tx.announced = false → x.tx.flip = none → x.tx.stop = 0 → s.txCause x = 0 →
      Completes (.sealedBlockTx dt ctx before) s fun t =>
        ∃ y, t.cip? ctx = some y ∧ y.tx.epoch = x.tx.epoch ∧ y.tx.ctr = x.tx.ctr + 1 ∧ y.tx.stop = 0 ∧
          y.tx.mseq = (x.tx.mseq + 1) % 2 ^ 32 ∧ y.tx.blocks = (x.tx.blocks + 1) % 2 ^ 32 ∧ y.rx = x.rx ∧
          y.tx.stream = (s.sealStream ctx x (s.tagBefore x.tx before)).bytes) ∧
    (∀ ctx x before, s.cip? ctx = some x → x.tx.announced = false → x.tx.flip = none → x.tx.stop ≠ 0 →
      Completes (.sealedBlockTx dt ctx before) s fun t =>
        (∃ y, t.cip? ctx = some y ∧ y.tx.ctr = x.tx.ctr ∧ y.tx.stop = x.tx.stop ∧ y.tx.mseq = (x.tx.mseq + 1) % 2 ^ 32 ∧
          y.tx.blocks = x.tx.blocks) ∧ t.io = s.io) ∧
    (∀ ctx x b f, s.cip? ctx = some x → x.rx.running = false → readCarriage b.stream = some f → x.rx.epoch ≤ f.epoch →
      Completes (.sealedBlockRx dt ctx b) s fun t =>
        ∃ y, t.cip? ctx = some y ∧ y.rx.running = true ∧ y.rx.epoch = f.epoch ∧
          y.rx.pEpoch = (if f.flip then f.next else f.epoch) ∧ y.rx.pMseq = (f.mseq + 1) % 2 ^ 32) ∧
    (∀ ctx x b f, s.cip? ctx = some x → x.rx.running = true → x.rx.pending = true → readCarriage b.stream = some f → f.stop = true →
      Completes (.sealedBlockRx dt ctx b) s fun t =>
        let good := f.tag = Config.gcmTag x.rx.key x.rx.iv x.rx.aad b.before
        ∃ y, t.cip? ctx = some y ∧
          (good → y.rx.forced = x.rx.forced - 1 ∧ y.rx.fails = x.rx.fails ∧ y.rx.passed = (x.rx.passed + 1) % 2 ^ 32 ∧
            t.rd Reg.CIP_AUTH_FAIL_CNT 0 = s.rd Reg.CIP_AUTH_FAIL_CNT 0) ∧
          (¬good → y.rx.forced = 2 ∧ y.rx.fails = (x.rx.fails + 1) % 2 ^ 32 ∧ y.rx.passed = x.rx.passed ∧
            (t.framer (s.frmKey ctx)).sealFail = true ∧
            t.rd Reg.CIP_AUTH_FAIL_CNT 0 = (s.rd Reg.CIP_AUTH_FAIL_CNT 0 + 1) % 2 ^ 32)) ∧
    (∀ r x, firstReq s.cip.requests = some r → s.cip? r.ctx = some x → (s.contextKey r.ctx r.dir r.epoch).isSome = true →
      Completes (.keyDerived dt) s fun t =>
        t.time = max (s.time + dt) (r.since + 25) ∧ r ∉ t.cip.requests ∧
        (∃ y, t.cip? r.ctx = some y ∧ hasKey (if r.dir = 0 then y.txCache else y.rxCache) r.epoch = true ∧ y.tx = x.tx ∧
          y.rx = x.rx) ∧
        t.rd Reg.CIP_DERIVE_CNT 0 = (s.rd Reg.CIP_DERIVE_CNT 0 + 1) % 2 ^ 32 ∧ t.io = s.io) ∧
    (∀ slot k, (s.keySlot slot).erasing = false → (s.keySlot slot).h0 = some k → k.used = true → s.halfInUse slot 0 = false →
      s.halfInFlight slot 0 = false →
      Completes (.halfZeroise dt slot) s fun t =>
        t.keySlot slot = { s.keySlot slot with h0 := none } ∧ t.io = s.io ∧
        RegsOnly [(Reg.CIP_ROOT_STATE, 0), (Reg.CIP_WRAP_LOADED_LO, 0), (Reg.CIP_WRAP_LOADED_HI, 0)] s t) ∧
    (∀ stored e, s.cip.resvWant = some e →
      Completes (.epochReservation dt stored) s fun t =>
        if stored then
          t.rd Reg.CIP_EPOCH_RESV 0 = min 65535 (e + 16) ∧ t.cip.resvWant = none ∧ t.cip.resvFail = false ∧
          Raised t Ev.EPOCH_RESERVED srcDevice [(2, min 65535 (e + 16))] ∧ RegsOnly [(Reg.CIP_EPOCH_RESV, 0)] s t
        else
          t.cip.resvFail = true ∧ t.cip.resvWant = some e ∧ Raised t Ev.EPOCH_RESV_FAIL srcDevice [(2, min 65535 (e + 16))] ∧
          RegsOnly [] s t) ∧
    (∀ m p, s.bulkKeyed = true → s.bulkPipe = some p → (tget {} s.cip.pipes p).run = none →
      Completes (.bulkMessage dt m) s fun t =>
        (∃ r, (tget {} t.cip.pipes p).run = some r ∧ r.keyed = true ∧ r.order = s.cip.arrivals ∧
          (m.opening = true → r.msg = m) ∧
          (m.opening = false → r.msg = { m with
            iv := s.unitBit * 2 ^ 47 + tget 0 s.cip.bulkCtr (4 * m.nonce + m.typ) % 2 ^ 47, pair := s.rd Reg.CIP_PAIR_ID 0 })) ∧
        t.io = s.io ∧ RegsOnly [(Reg.CIP_PIPE_BULK, 0)] s t) ∧
    (∀ pipe q, (tget {} s.cip.pipes pipe).run = some q → (tget {} s.cip.pipes pipe).suspended = [] →
      (tget {} s.cip.pipes pipe).waiting = [] → q.msg.opening = false →
      Completes (.bulkOpen dt pipe) s fun t =>
        (tget {} t.cip.pipes pipe).run = none ∧ t.cip.results = ((s.sealBulk q.msg, 0) :: s.cip.results).take 256 ∧
        RegsOnly [(Reg.CIP_PIPE_BULK, 0)] s t) ∧
    (∀ pipe q, (tget {} s.cip.pipes pipe).run = some q → (tget {} s.cip.pipes pipe).suspended = [] →
      (tget {} s.cip.pipes pipe).waiting = [] → q.msg.opening = true →
      Completes (.bulkOpen dt pipe) s fun t =>
        let good := q.msg.tag = s.bulkTag q.msg q.msg.text
        (tget {} t.cip.pipes pipe).run = none ∧
        t.cip.results = ((q.msg, if good then 0 else if q.msg.early then 2 else 1) :: s.cip.results).take 256 ∧
        (good → RegsOnly [(Reg.CIP_PIPE_BULK, 0)] s t) ∧
        (¬good → t.rd Reg.CIP_BULK_AUTH_FAIL_CNT 0 = (s.rd Reg.CIP_BULK_AUTH_FAIL_CNT 0 + 1) % 2 ^ 32 ∧
          RegsOnly [(Reg.CIP_PIPE_BULK, 0), (Reg.CIP_BULK_AUTH_FAIL_CNT, 0)] s t))

/-- Frames and messages from the mate take effect. R387 to R391, R396, R400 to R402, R407, R411 to R414, R416 and R418. -/
def Obligations.MateMessagesTakeEffect : Prop :=
  ∀ (s : State) (dt : Nat) (m : MsgHead) (x : MateText),
    (∀ lane f, s.paired = true → lane ≤ 7 → s.laneOn (72 + lane) = true → (s.mateLane lane).align = 0 → f.lock = true →
      (s.mateLane lane).next ≤ f.off → (readMate f.prior f.blocks).marker = true →
      Completes (.mateFrameRx dt lane f) s fun t => (t.mateLane lane).align = 1 ∧ (t.mateLane lane).base = f.off) ∧
    (∀ lane f, s.paired = true → lane ≤ 7 → s.laneOn (72 + lane) = true → (s.mateLane lane).align = 2 → f.lock = true →
      (s.mateLane lane).next = f.off → (readMate f.prior f.blocks).marker = true → (readMate f.prior f.blocks).ohCrc = true →
      Completes (.mateFrameRx dt lane f) s fun t =>
        let g := readMate f.prior f.blocks
        (t.mateLane lane).align = 2 ∧ (t.mateLane lane).echo = g.cycle % 2 ^ 32 ∧ t.par.mateHealthy = g.healthy ∧
        t.par.mateQl = some g.ql ∧ t.par.mateSel = g.timSel) ∧
    (s.paired = true → textGood x = false →
      Completes (.grant dt x) s fun t =>
        t.rd Reg.PAR_MSG_CRC_CNT 0 = (s.rd Reg.PAR_MSG_CRC_CNT 0 + 1) % 2 ^ 32 ∧ t.par = s.par ∧ t.io = s.io ∧
        RegsOnly [(Reg.PAR_MSG_CRC_CNT, 0)] s t) ∧
    (FreshControl s 1 x.head (textGood x) → s.parSt = parActive →
      (s.elapse dt).cycle < addrOfStamp (beNum (cut x.payload 0 8)) / Config.cyclePos + 48 →
      Completes (.grant dt x) s fun t =>
        t.par.lease = some (max (addrOfStamp (beNum (cut x.payload 0 8)) / Config.cyclePos) (s.par.lease.getD 0)) ∧
        t.par.gotGrant = true ∧ t.rd Reg.PAR_LEASED 0 = 1 ∧ t.io = s.io ∧
        RegsOnly [(Reg.PAR_LEASED, 0), (Reg.PAR_LEASE_LO, 0), (Reg.PAR_LEASE_HI, 0)] s t) ∧
    (FreshControl s 2 x.head (textGood x) → s.parSt = parSeeking → s.par.mute = false →
      Completes (.ack dt x) s fun t =>
        t.parSt = parJoining ∧ t.par.mateState = parActive ∧ Raised t Ev.PAR_STATE_CHANGE srcDevice [(1, 1), (1, 2), (1, 0)]) ∧
    (∀ chips cycle, s.paired = true → s.rdBit Reg.PAR_PIN_PATH 0 = true → s.parSt = parActive →
      readChips chips = some (pinWord 9 0 cycle) →
      (s.elapse dt).cycle < (s.elapse dt).recentCycle (cycle % 65536) + 48 →
      Completes (.tallyInWord dt chips) s fun t =>
        t.par.lease = some (max ((s.elapse dt).recentCycle (cycle % 65536)) (s.par.lease.getD 0)) ∧ t.par.gotGrant = true ∧
        t.par.heardPin = some t.time ∧ t.rd Reg.PAR_LEASED 0 = 1 ∧ t.io = s.io ∧
        RegsOnly [(Reg.PAR_LEASED, 0), (Reg.PAR_LEASE_LO, 0), (Reg.PAR_LEASE_HI, 0)] s t) ∧
    (FreshControl s 3 x.head (textGood x) → s.parSt = parJoining →
      Completes (.surrender dt x) s fun t =>
        t.par.surrendered = true ∧ t.par.surrenderAt = addrOfStamp (beNum (cut x.payload 8 8)) ∧ t.par.mateState = parJoining ∧
        t.io = s.io ∧ RegsOnly [] s t) ∧
    (FreshControl s 4 x.head (textGood x) → s.parSt = parStandby → s.par.drill = none → s.par.takeHost = none →
      Completes (.claim dt x) s fun t =>
        t.parSt = parJoining ∧ t.par.mateState = parActive ∧ t.par.nonce = leNum (cut x.payload 24 14) ∧
        t.par.surrendered = false ∧ t.par.planNext = some false ∧ t.par.staging = none ∧
        Raised t Ev.PAR_STATE_CHANGE srcDevice [(1, 3), (1, 2), (1, 0)]) ∧
    (FreshControl s 5 x.head (textGood x) → s.parSt = parActive → (readHealth x.payload).joinReady = false →
      (readHealth x.payload).stages = s.par.mateStages →
      Completes (.health dt x) s fun t =>
        let p := readHealth x.payload
        t.par.mateHealthy = p.healthy ∧ t.par.mateJoinReady = false ∧
        t.par.canary.mate = ((p.good, p.miss) :: s.par.canary.mate).take 10 ∧ t.io = s.io ∧ RegsOnly [] s t) ∧
    (∀ e, FreshControl s 6 m.head (headGood m) →
      Completes (.forward dt m (.rootLoad e) true) s fun t => t = (((s.elapse dt).heardControl m.head).doRootLoad e true).1) ∧
    (∀ e, FreshControl s 6 m.head (headGood m) →
      Completes (.forward dt m (.keyErase e) true) s fun t => t = (((s.elapse dt).heardControl m.head).doKeyErase e true).1) ∧
    (∀ p stored, FreshControl s 6 m.head (headGood m) →
      Completes (.forward dt m (.epochFlip p) stored) s fun t =>
        t = (((s.elapse dt).heardControl m.head).doEpochFlip p stored true).1) ∧
    (∀ p : PlaceMsg, NextData s 7 m.head (headGood m) → s.hasAuthority = false → s.addr + dt < p.cycle * Config.cyclePos →
      (s.elapse dt).swapBoundary.1 ≤ p.cycle * Config.cyclePos →
      Completes (.place dt m p) s fun t =>
        t.shf.armDue = some (p.cycle * Config.cyclePos) ∧ t.rd Reg.SHF_BANK_ARMED 0 = 1 ∧ t.rd Reg.MAP_PAGE_ARMED 0 = 1 ∧
        t.par.place = some p ∧ (∃ a, t.ovm.arm = some a ∧ a.armed = true ∧ a.moves = p.moves) ∧
        (∃ y rest crc, t.par.sent = y :: rest ∧ y.msg = .placeAck p.cycle crc) ∧ t.io = s.io ∧
        RegsOnly [(Reg.SHF_BANK_ARMED, 0), (Reg.MAP_PAGE_ARMED, 0)] s t) ∧
    (∀ cycle crc p b, FreshControl s 8 m.head (headGood m) → s.ovm.arm = some b → b.armed = false → s.par.placing = some (p, crc) →
      p.cycle = cycle → (s.elapse dt).swapBoundary = (cycle * Config.cyclePos, false) →
      Completes (.placeAck dt m cycle crc) s fun t =>
        t.shf.armDue = some (cycle * Config.cyclePos) ∧ t.ovm.arm = some { b with armed := true } ∧
        t.rd Reg.SHF_BANK_ARMED 0 = 1 ∧ t.rd Reg.MAP_PAGE_ARMED 0 = 1 ∧ t.io = s.io ∧
        RegsOnly [(Reg.SHF_BANK_ARMED, 0), (Reg.MAP_PAGE_ARMED, 0)] s t) ∧
    (∀ (e : ImageEntry) g, FreshControl s 9 m.head (headGood m) → s.hasAuthority = false → tfind s.frm.groups e.group = some g →
      Completes (.ctrlImage dt m [e]) s fun t =>
        tfind t.frm.groups e.group = some { g with tx := e.tx, wanted := e.leg, request := e.request } ∧ t.io = s.io ∧
        RegsOnly [] s t) ∧
    (∀ e, NextData s 10 x.head (textGood x) → s.par.planner = false → readGates x.payload = [e] →
      Completes (.gate dt x) s fun t => tfind t.par.plans (planKey e.ctx e.frame) = some e ∧ t.io = s.io ∧ RegsOnly [] s t) ∧
    (NextData s 11 x.head (textGood x) → s.parSt = parJoining ∨ s.parSt = parStandby → s.bulkKeyed = true →
      (∀ g, s.par.staging = some g → g.dead = false) →
      Completes (.stateData dt x) s fun t =>
        let b := readBulk true x.payload
        let g := s.par.staging.getD { since := snapOf ((s.elapse dt).sentAddr x.head) }
        let good := b.tag = s.bulkTag b b.text
        (good → t.par.staging = some { g with ivs := g.ivs ++ [(b.iv % 2 ^ 47, 0, s.openBulk b)] } ∧
          t.cip.results = ((b, 0) :: s.cip.results).take 256 ∧ t.io = s.io ∧ RegsOnly [] s t) ∧
        (¬good → t.par.staging.map (·.dead) = some true ∧ t.cip.results = ((b, 2) :: s.cip.results).take 256 ∧
          t.rd Reg.CIP_BULK_AUTH_FAIL_CNT 0 = (s.rd Reg.CIP_BULK_AUTH_FAIL_CNT 0 + 1) % 2 ^ 32 ∧
          t.rd Reg.PAR_EPOCH_DISCARD_CNT 0 = (s.rd Reg.PAR_EPOCH_DISCARD_CNT 0 + 1) % 2 ^ 32 ∧
          Raised t Ev.PAR_EPOCH_DISCARDED srcDevice [addrItem g.since, (1, 3)])) ∧
    (∀ snap, FreshControl s 12 x.head (textGood x) → s.parSt = parJoining ∨ s.parSt = parStandby → s.bulkKeyed = true →
      (∀ g, s.par.staging = some g → g.dead = false) → s.perturbed 4 = false → s.par.drill = none →
      Completes (.stateCommit dt x snap) s fun t =>
        let b := readBulk false x.payload
        let c := readCommit (s.openBulk b)
        let r := (s.elapse dt).commitReason c (b.tag == s.bulkTag b b.text)
        (r = 0 → t.par.applied = some c.stamp ∧ t.par.staging = none ∧ t.par.missRun = 0 ∧
          t.rd Reg.PAR_EPOCH_APPLIED_CNT 0 = (s.rd Reg.PAR_EPOCH_APPLIED_CNT 0 + 1) % 2 ^ 32) ∧
        (r ≠ 0 → t.par.applied = s.par.applied ∧ t.par.staging = none ∧
          t.rd Reg.PAR_EPOCH_DISCARD_CNT 0 = (s.rd Reg.PAR_EPOCH_DISCARD_CNT 0 + 1) % 2 ^ 32)) ∧
    (FreshControl s 13 x.head (textGood x) → s.par.drill = none → x.payload.getD 8 0 = 0 →
      Completes (.stateAck dt x) s fun t =>
        t.par.mateApplied = some (addrOfStamp (beNum (cut x.payload 0 8))) ∧ t.par.fullSince = none ∧ t.io = s.io ∧
        RegsOnly [] s t) ∧
    (∀ options cycle, FreshControl s 14 m.head (headGood m) →
      Completes (.drill dt m options cycle) s fun t =>
        t.par.drill = some { options := options, phase := 4, since := s.time + dt, snap := cycle * Config.cyclePos } ∧
        t.io = s.io ∧ RegsOnly [] s t)

/-- The pair's own events and its host commands take effect. R389, R392, R396, R402 to R404, R407, R410, R412, R414, R416 to R418 and
R421. -/
def Obligations.PairEventsTakeEffect : Prop :=
  ∀ (s : State) (dt : Nat),
    (s.paired = true → s.par.drill = none → s.par.roleDown = false → (∀ l ∈ s.usableLanes, s.rdBit Reg.PRT_LANE_LOS (72 + l) = false ∧
        s.rdBit Reg.PRT_LANE_LOL (72 + l) = false) →
      Completes (.laneRoleAssign dt) s fun t =>
        t.addr = (s.toBoundary dt Config.multiframePos).addr ∧
        t.rd Reg.PAR_LANE_ROLE 0 = ((s.rolesNow.map (fun e => e.2 * 4 ^ e.1)).sum) % 2 ^ 16 ∧
        t.par.planner = s.par.planNext.getD s.par.planner ∧ t.par.planNext = none) ∧
    (s.paired = true → s.halted = true → s.par.listened = false → s.shf.startable = true → s.inReset domShaft = false →
      s.par.mateAt = none → s.shf.txIdle = true →
      Completes (.mateListenEnd dt) s fun t =>
        t.addr = 0 ∧ t.time = max (s.time + dt) (s.par.listenFrom + (if s.isUnitB then 4 else 2) * Config.secondPos) ∧
        t.par.listened = true ∧ t.rd Reg.SHF_STATE 0 = 1 ∧ t.rd Reg.TIM_DPLL_STATE 0 = dpllFreerun ∧
        RegsOnly [(Reg.SHF_STATE, 0), (Reg.TIM_DPLL_STATE, 0), (Reg.TIM_HO_UNCOMP, 0)] s t) ∧
    (s.paired = true → s.halted = false → s.parSt = parJoining ∨ s.parSt = parStandby → s.pinsOnly = false →
      (s.elapse dt).dispatched 9 (fun _ => true) = true →
      Completes (.tallyLeaseRenewal dt) s fun t =>
        t.addr = s.addr + dt ∧ t.par.granted = some t.cycle ∧
        t.rd Reg.PAR_LEASE_LO 0 = t.cycle % 2 ^ 32 ∧ .grant t.cycle ∈ (t.par.sent.take 2).map (·.msg) ∧ t.io = s.io ∧
        RegsOnly [(Reg.PAR_LEASE_LO, 0), (Reg.PAR_LEASE_HI, 0)] s t) ∧
    (s.paired = true → s.halted = false → s.parSt = parActive → s.pinsOnly = false →
      (s.elapse dt).dispatched 9 (fun _ => true) = true →
      Completes (.tallyLeaseRenewal dt) s fun t =>
        t.par.gotGrant = false ∧ .ack (s.par.lease.getD 0) (s.rdBit Reg.PAR_LEASED 0) ∈ (t.par.sent.take 2).map (·.msg) ∧
        (s.par.gotGrant = false → t.rd Reg.PAR_GRANT_MISS_CNT 0 = (s.rd Reg.PAR_GRANT_MISS_CNT 0 + 1) % 2 ^ 32) ∧
        (s.par.gotGrant = true → RegsOnly [] s t) ∧ RegsOnly [(Reg.PAR_GRANT_MISS_CNT, 0)] s t) ∧
    (∀ c, s.halted = false → s.parSt = parActive → s.rdBit Reg.PAR_LEASED 0 = true → s.par.lease = some c →
      Completes (.parOrphan dt) s fun t =>
        t.addr = max (s.addr + dt) ((c + 48) * Config.cyclePos) ∧ t.parSt = parOrphan ∧ t.rd Reg.PAR_LEASED 0 = 0 ∧
        t.rd Reg.PAR_AUTHORITY 0 = 0) ∧
    (∀ g, s.halted = false → s.parSt = parTaking → s.healthy = true → s.par.granted = some g → s.par.lease = none → s.par.drill = none →
      Completes (.leaseViewExpiry dt) s fun t =>
        t.addr = max (s.addr + dt) ((g + 64) * Config.cyclePos) ∧ t.parSt = parActive ∧ t.rd Reg.PAR_AUTHORITY 0 = 1 ∧
        t.rd Reg.PAR_TAKEOVER_CNT 0 = (s.rd Reg.PAR_TAKEOVER_CNT 0 + 1) % 2 ^ 32) ∧
    (∀ heard, s.rdBit Reg.PAR_LINK_PATH 0 = true → s.rdBit Reg.PAR_PIN_PATH 0 = false → s.par.heardLink = some heard →
      s.rdBit Reg.PAR_AUTO 0 = false →
      Completes (.parPath dt) s fun t =>
        t.time = max (s.time + dt) (heard + s.silencePos) ∧ t.rd Reg.PAR_LINK_PATH 0 = 0 ∧
        Raised t Ev.PAR_PATH srcDevice [(1, 0), (1, 1)] ∧ RegsOnly [(Reg.PAR_LINK_PATH, 0)] s t) ∧
    (s.paired = true → s.halted = false → s.parSt ≠ parStandby →
      Completes (.healthReport dt) s fun t =>
        t.addr = ceilTo (8000 * Config.cyclePos) (s.addr + dt) ∧ t.par.canary.tests = 0 ∧ t.par.canary.failures = 0 ∧
        (∃ y rest bytes, t.par.sent = y :: rest ∧ y.msg = .health bytes ∧ bytes.length = 34) ∧ t.io = s.io ∧ RegsOnly [] s t) ∧
    (∀ unit rotationEnd, s.paired = true → s.parSt = parStandby → s.bistIdle unit = true →
      Completes (.canaryBist dt unit true rotationEnd) s fun t =>
        t.time = max (s.time + dt) s.par.canary.due ∧ t.par.canary.tests = s.par.canary.tests + 1 ∧
        t.par.canary.failures = s.par.canary.failures + 1 ∧
        t.rd Reg.PAR_BIST_FAIL_CNT 0 = (s.rd Reg.PAR_BIST_FAIL_CNT 0 + 1) % 2 ^ 32 ∧ t.rd Reg.PAR_CANARY 0 = 3 ∧
        t.rd Reg.PAR_HEALTHY 0 = 0) ∧
    (∀ ctx frame y, s.paired = true → s.ctx? ctx = some y → y.active = true → s.par.planner = true →
      Completes (.parGateMiss dt ctx frame) s fun t =>
        (∃ g z rest, t.par.sent = z :: rest ∧ z.msg = .gate [g] ∧ g.ctx = ctx ∧ g.frame = (frame + s.planFrames ctx) % 65536) ∧
        t.io = s.io ∧ RegsOnly [] s t) ∧
    (∀ ctx frame y, s.paired = true → s.ctx? ctx = some y → y.active = true → s.par.planner = false →
      tfind s.par.plans (planKey ctx frame) = none →
      Completes (.parGateMiss dt ctx frame) s fun t =>
        t.rd Reg.PAR_GATE_MISS_CNT 0 = (s.rd Reg.PAR_GATE_MISS_CNT 0 + 1) % 2 ^ 32 ∧ RegsOnly [(Reg.PAR_GATE_MISS_CNT, 0)] s t) ∧
    (∀ ctx frame y e, s.paired = true → s.ctx? ctx = some y → y.active = true → s.par.planner = false →
      tfind s.par.plans (planKey ctx frame) = some e →
      Completes (.parGateMiss dt ctx frame) s fun t =>
        t.par = { s.par with plans := tdel s.par.plans (planKey ctx frame) } ∧ t.io = s.io ∧ RegsOnly [] s t) ∧
    (s.paired = true → s.halted = false → s.parSt = parActive → s.par.fullSince = none →
      (s.elapse dt).dispatched 8 (fun _ => true) = true →
      Completes (.stateCopyEpoch dt) s fun t =>
        t.addr = s.addr + dt ∧ t.par.applied = some t.addr ∧ t.rd Reg.PAR_EPOCH_LO 0 = t.cycle % 2 ^ 32 ∧
        (∃ y rest base, t.par.sent = y :: rest ∧ y.msg = .stateCopy t.stamp base (s.elapse dt).snapshotNow) ∧ t.io = s.io ∧
        RegsOnly [(Reg.PAR_EPOCH_LO, 0), (Reg.PAR_EPOCH_HI, 0)] s t) ∧
    (∀ g, s.par.staging = some g → g.dead = false →
      Completes (.stateCommitDeadline dt) s fun t =>
        t.addr = ((s.elapse dt).waitAddr (g.since + (if s.parSt = parJoining then 64 else 1) * Config.epochPos)).addr ∧
        t.par.staging = none ∧ t.rd Reg.PAR_EPOCH_DISCARD_CNT 0 = (s.rd Reg.PAR_EPOCH_DISCARD_CNT 0 + 1) % 2 ^ 32 ∧
        Raised t Ev.PAR_EPOCH_DISCARDED srcDevice [addrItem g.since, (1, 1)] ∧
        RegsOnly [(Reg.PAR_EPOCH_DISCARD_CNT, 0), (Reg.PAR_FAULTED, 0), (Reg.PAR_FAULT_CAUSE, 0), (Reg.PAR_HEALTHY, 0)] s t) ∧
    (∀ d, s.halted = false → s.par.drill = some d → d.phase = 1 →
      Completes (.drillAckTimeout dt) s fun t =>
        t.addr = max (s.addr + dt) (d.since + 8 * Config.cyclePos) ∧ t.par.drill = none ∧
        Raised t Ev.PAR_DRILL_RESULT srcDevice [(1, 1), (4, 0)] ∧ RegsOnly [] s t) ∧
    (∀ d, s.par.drill = some d → d.phase = 2 →
      Completes (.drillClaimTimeout dt) s fun t =>
        t.time = max (s.time + dt) (d.since + 50 * Config.msPos) ∧ t.par.drill = none ∧ t.par.takeCause = 2) ∧
    (∀ h g, Admitted s dt h 11 Op.PAR_TAKE → s.paired = true → s.parSt = parStandby → s.healthy = true → s.par.granted = some g →
      (s.elapse dt).addr < (g + 64) * Config.cyclePos →
      Completes (.parTake dt h) s fun t =>
        t.parSt = parTaking ∧ t.par.takeHost = some h ∧ t.par.takeCause = 2 ∧
        Raised t Ev.PAR_STATE_CHANGE srcDevice [(1, 3), (1, 4), (1, 2)]) ∧
    (∀ h, Admitted s dt h 11 Op.PAR_SURRENDER → s.paired = true → s.parSt = parActive →
      Completes (.parSurrender dt h) s fun t =>
        t.parSt = parJoining ∧ t.par.gaveUp = true ∧ t.rd Reg.PAR_AUTHORITY 0 = 0 ∧ t.rd Reg.PAR_LEASED 0 = 0 ∧
        Raised t Ev.PAR_STATE_CHANGE srcDevice [(1, 5), (1, 2), (1, 6)] ∧ Answered t h Op.PAR_SURRENDER 0 0 []) ∧
    (∀ h options, Admitted s dt h 11 Op.PAR_DRILL → options ≤ 3 → s.paired = true → s.par.drill = none → s.parSt = parActive →
      s.par.mateState = parStandby → s.par.mateHealthy = true →
      Completes (.parDrill dt h options) s fun t =>
        t.par.drill = some { options := options, phase := 0, since := s.time + dt } ∧ Answered t h Op.PAR_DRILL 0 0 [] ∧
        RegsOnly [] s t) ∧
    (∀ h, Admitted s dt h 11 Op.PAR_CLEAR_FAULT → s.paired = true → (∀ c ∈ s.par.faults, c ≠ 1 ∧ c ≠ 4 ∧ c ∉ s.sys.faultsHeld) →
      Completes (.parClearFault dt h) s fun t =>
        t.par.faults = [] ∧ t.rd Reg.PAR_FAULTED 0 = 0 ∧ Answered t h Op.PAR_CLEAR_FAULT 0 0 [])

/-- Power, levers, load steps, feed loss, the stages of a last gasp, PMBus and energy per bit take effect. R424, R425, R427, R428,
R431, R433 to R437, R439, R440 and R605. -/
def Obligations.EnergyEventsTakeEffect : Prop :=
  ∀ (s : State) (dt : Nat),
    (∀ o, s.halted = false → s.gasping = false → s.rdBit Reg.BKG_THROTTLED 0 = false → s.rd Reg.ENG_HBM_STATE 0 = 0 →
      s.eng.pipes = [] → s.eng.pipeAsks = [] → s.eng.lanes = [] → s.eng.shed = [] → s.eng.hewers = 0 →
      (∀ u, 256 ≤ u → u < 264 → s.unitIdle u = false ∨ s.ovm.gated.contains u = true) →
      (s.rd Reg.ENG_BUDGET 0 : Rat) < (s.toBoundary dt Config.multiframePos).meanPower →
      Completes (.governorStep dt o) s fun t =>
        t.addr = ceilTo Config.multiframePos (s.addr + dt) ∧ t.rd Reg.BKG_THROTTLED 0 = 1 ∧ t.rd Reg.ENG_LEVER 0 = 1 ∧
        t.rd Reg.ENG_STATE 0 = 1 ∧ (s.goodPairs = [] → t.rd Reg.ENG_INTAKE 0 = 0) ∧
        (∃ m : Int, (m = (s.toBoundary dt Config.multiframePos).meanPower.floor ∨
            m = (s.toBoundary dt Config.multiframePos).meanPower.floor + 1) ∧
          Raised t Ev.ENG_LEVER srcDevice [(1, 1), (1, 1), (4, m.toNat)]) ∧
        RegsOnly [(Reg.ENG_INTAKE, 0), (Reg.BKG_THROTTLED, 0), (Reg.ENG_LEVER, 0), (Reg.ENG_STATE, 0)] s t) ∧
    (∀ o since, s.halted = false → s.gasping = false → s.rdBit Reg.BKG_THROTTLED 0 = true → s.rd Reg.ENG_HBM_STATE 0 = 0 →
      s.eng.pipes = [] → s.eng.pipeAsks = [] → s.eng.lanes = [] → s.eng.shed = [] → s.eng.hewers = 0 →
      (∀ u, 256 ≤ u → u < 264 → s.unitIdle u = false ∨ s.ovm.gated.contains u = true) →
      (s.toBoundary dt Config.multiframePos).meanPower < (s.rd Reg.ENG_BUDGET 0 : Rat) - s.rd Reg.ENG_HYST 0 →
      s.eng.below = some since → since + s.releasePos ≤ s.time + dt →
      (s.toBoundary dt Config.multiframePos).meanPower + 10 ≤ (s.rd Reg.ENG_BUDGET 0 : Rat) - s.rd Reg.ENG_HYST 0 →
      Completes (.governorStep dt o) s fun t =>
        t.rd Reg.BKG_THROTTLED 0 = 0 ∧ t.rd Reg.ENG_LEVER 0 = 0 ∧ t.rd Reg.ENG_STATE 0 = 0 ∧
        (∃ m : Int, (m = (s.toBoundary dt Config.multiframePos).meanPower.floor ∨
            m = (s.toBoundary dt Config.multiframePos).meanPower.floor + 1) ∧
          Raised t Ev.ENG_LEVER srcDevice [(1, 1), (1, 0), (4, m.toNat)])) ∧
    (∀ rails : List (Nat × Nat), s.rd Reg.ENG_STATE 0 ≠ 3 → s.rd Reg.ENG_STATE 0 ≠ 4 → rails.length ≤ 9 →
      (rails.map (·.2)).sum < 65536 →
      Completes (.devPowerUpdate dt rails) s fun t =>
        (∀ k p, rails[k]? = some p → t.rd Reg.BKG_RAIL_MV k = p.1 % 2 ^ 16 ∧ t.rd Reg.BKG_RAIL_PWR k = p.2 % 2 ^ 16) ∧
        t.rd Reg.ENG_DEV_POWER 0 = (rails.map (·.2)).sum ∧
        t.eng.powers = ((t.addr, (((rails.map (·.2)).sum : Nat) : Int)) :: s.eng.powers).take 16 ∧ t.eng.ledger = s.eng.ledger ∧
        RegsOnly ((Reg.ENG_DEV_POWER, 0) :: (List.range 9).flatMap (fun k => [(Reg.BKG_RAIL_MV, k), (Reg.BKG_RAIL_PWR, k)])) s t) ∧
    (∀ p, p < 24 → s.eng.waiting = [.wake p] → s.gasping = false → (s.toBoundary dt Config.hundredUsPos).slewSum = 0 →
      s.ovm.gated.contains p = true → s.ovm.waking.contains p = false →
      Completes (.slewWindow dt) s fun t =>
        t.ovm.waking = s.ovm.waking ++ [p] ∧ t.ovm.gated = s.ovm.gated ∧ t.eng.waiting = [] ∧ t.eng.winSum = 8 ∧
        t.eng.winAt = t.addr / Config.hundredUsPos ∧ t.io = s.io ∧ RegsOnly [] s t) ∧
    (∀ x, s.eng.waiting = [x] → s.gasping = false → (s.toBoundary dt Config.hundredUsPos).slewFits (s.stepPrice x) = false →
      Completes (.slewWindow dt) s fun t =>
        t.rd Reg.ENG_SLEW_DEFER_CNT 0 = (s.rd Reg.ENG_SLEW_DEFER_CNT 0 + 1) % 2 ^ 32 ∧ t.eng = s.eng ∧ t.ovm = s.ovm ∧
        RegsOnly [(Reg.ENG_SLEW_DEFER_CNT, 0)] s t) ∧
    (s.sys.configured = true → s.rdBit Reg.ENG_ARMED 0 = false → (∃ k, k < 8 ∧ s.rdBit Reg.ENG_FEED_EN k = true) →
      (∀ k, k < 8 → s.rdBit Reg.ENG_FEED_EN k = true → ∃ a, (s.feed k).okSince = some a ∧ a + Config.secondPos ≤ s.time + dt) →
      Completes (.detectorArm dt) s fun t =>
        t.rd Reg.ENG_ARMED 0 = 1 ∧ t.time = s.time + dt ∧ RegsOnly [(Reg.ENG_ARMED, 0)] s t) ∧
    (s.feedsLost = true → s.gasping = false → s.rdBit Reg.ENG_LG_EN 0 = false →
      Completes (.feedLoss dt) s fun t =>
        Raised t Ev.ENG_LAST_GASP srcDevice [(1, 0), (4, s.rd Reg.ENG_LEDGER_MJ 0)] ∧ t.eng = s.eng ∧ RegsOnly [] s t) ∧
    (s.feedsLost = true → s.gasping = false → s.rdBit Reg.ENG_LG_EN 0 = true → s.paired = false → s.eng.waiting = [] →
      Completes (.feedLoss dt) s fun t =>
        t.rd Reg.ENG_STATE 0 = 3 ∧ t.rd Reg.ENG_LG_STAGE 0 ∈ [1, 2, 3, 4] ∧ t.rd Reg.BKG_THROTTLED 0 ≠ 0 ∧ 96 ≤ t.eng.hewers ∧
        t.eng.declPower = s.rd Reg.ENG_DEV_POWER 0 ∧ t.eng.declCause = 0 ∧
        t.eng.ledger = (s.rd Reg.ENG_HOLDUP_MJ 0 : Rat) - energyMj (s.rd Reg.ENG_DEV_POWER 0) (s.elapse dt).lossAge ∧
        t.eng.ran = [t.rd Reg.ENG_LG_STAGE 0]) ∧
    (s.rd Reg.ENG_STATE 0 = 3 → s.rd Reg.ENG_LG_STAGE 0 = 1 →
      Completes (.lgStageEnd dt) s fun t =>
        t.time = max (s.time + dt) (s.eng.stageAt + s.gaspPos) ∧ t.shf.txIdle = true ∧ t.rd Reg.ENG_LG_STAGE 0 ∈ [2, 3, 4] ∧
        t.rd Reg.ENG_STATE 0 = 3) ∧
    (s.rd Reg.ENG_STATE 0 = 3 → s.rd Reg.ENG_LG_STAGE 0 = 4 →
      Completes (.lgStageEnd dt) s fun t =>
        t.rd Reg.ENG_STATE 0 = 4 ∧ t.rd Reg.SHF_STATE 0 = 0 ∧ t.rd Reg.RST_ACTIVE 0 = 0x1FFF ∧ t.rd Reg.HIF_EN 0 = 0 ∧
        t.shf.startable = false ∧ t.shf.txIdle = true ∧ t.io = s.io ∧
        (s.shf.txIdle = true → RegsOnly [(Reg.ENG_LEDGER_MJ, 0), (Reg.ENG_STATE, 0), (Reg.SHF_STATE, 0), (Reg.RST_ACTIVE, 0),
          (Reg.HIF_EN, 0)] s t)) ∧
    (∀ r : PmbRead, s.rd Reg.ENG_STATE 0 ≠ 4 → (List.range 8).filter (s.rdBit Reg.ENG_PMB_EN) = [r.conv] → r.err = 0 → r.status < 4 →
      Completes (.pmbusPoll dt [r]) s fun t =>
        t.rd Reg.ENG_PMB_STATUS r.conv = r.status ∧ t.rd Reg.ENG_PMB_VIN r.conv = r.vin % 2 ^ 16 ∧
        t.rd Reg.ENG_PMB_IOUT r.conv = r.iout % 2 ^ 16 ∧ t.rd Reg.ENG_PMB_POUT r.conv = r.pout % 2 ^ 16 ∧ t.io = s.io ∧
        RegsOnly [(Reg.ENG_PMB_STATUS, r.conv), (Reg.ENG_PMB_VIN, r.conv), (Reg.ENG_PMB_IOUT, r.conv), (Reg.ENG_PMB_POUT, r.conv)] s t) ∧
    (∀ r : PmbRead, s.rd Reg.ENG_STATE 0 ≠ 4 → (List.range 8).filter (s.rdBit Reg.ENG_PMB_EN) = [r.conv] → r.err = 1 →
      Completes (.pmbusPoll dt [r]) s fun t =>
        t.rd Reg.ENG_PMB_FAULT_CNT 0 = (s.rd Reg.ENG_PMB_FAULT_CNT 0 + 1) % 2 ^ 32 ∧
        Raised t Ev.ENG_PMB_FAULT (srcConverter r.conv) [(1, r.conv), (2, 0xFFFF)] ∧ RegsOnly [(Reg.ENG_PMB_FAULT_CNT, 0)] s t) ∧
    (∀ conv status, conv < 8 → status < 65536 →
      Completes (.pmbAlert dt conv status) s fun t =>
        t.rd Reg.ENG_PMB_FAULT_CNT 0 = (s.rd Reg.ENG_PMB_FAULT_CNT 0 + 1) % 2 ^ 32 ∧
        Raised t Ev.ENG_PMB_FAULT (srcConverter conv) [(1, conv), (2, status)] ∧ RegsOnly [(Reg.ENG_PMB_FAULT_CNT, 0)] s t) ∧
    (∀ q : Int, q = (((s.rd Reg.ENG_DEV_POWER 0 : Rat) * 1000000000000 / s.carriedRate) + 1 / 2).floor → q < 65536 →
      Completes (.engEpbUpdate dt) s fun t =>
        t.rd Reg.ENG_EPB 0 = (if s.carriedRate = 0 then 0xFFFF else q.toNat) ∧
        (s.halted = false → t.addr = ceilTo Config.secondPos (s.addr + dt)) ∧ t.io = s.io ∧ RegsOnly [(Reg.ENG_EPB, 0)] s t)

/-- The host commands of the energy block take effect. R434, R436, R437, R439 and Table 13-6. -/
def Obligations.EnergyCommandsTakeEffect : Prop :=
  ∀ (s : State) (dt : Nat) (h : HostRef),
    (Admitted s dt h 0 Op.ENG_LAST_GASP → s.gasping = false → s.rdBit Reg.ENG_LG_EN 0 = true → s.paired = false →
      s.eng.waiting = [] →
      Completes (.engLastGasp dt h) s fun t =>
        t.rd Reg.ENG_STATE 0 = 3 ∧ t.rd Reg.ENG_LG_STAGE 0 ∈ [1, 2, 3, 4] ∧ t.eng.declCause = 1 ∧
        t.eng.ledger = (s.rd Reg.ENG_HOLDUP_MJ 0 : Rat) ∧ t.eng.ran = [t.rd Reg.ENG_LG_STAGE 0] ∧
        Answered t h Op.ENG_LAST_GASP 0 0 []) ∧
    (Admitted s dt h 0 Op.ENG_LAST_GASP → s.gasping = true →
      Completes (.engLastGasp dt h) s fun t => t.eng = s.eng ∧ Answered t h Op.ENG_LAST_GASP 2 2 [] ∧ RegsOnly [] s t) ∧
    (∀ p : PmbXfer, Admitted s dt h 0 Op.ENG_PMB_XFER → s.gasping = false → p.addr ≤ 127 → p.wlen ≤ 32 → p.rlen ≤ 32 →
      p.host % 64 = 0 → p.err = 0 → p.got.length = p.rlen →
      Completes (.engPmbXfer dt h p) s fun t =>
        Answered t h Op.ENG_PMB_XFER 0 0 [(2, p.rlen)] ∧ RegsOnly [] s t ∧
        (h.noCpl = true → t.io.mem = if p.rlen = 0 then s.io.mem else memWrite s.io.mem p.host p.got)) ∧
    (∀ slot host r, Admitted s dt h 0 Op.ENG_CRASH_READ → slot ≤ 1 → host % 64 = 0 → tfind s.eng.slots slot = some r →
      Completes (.engCrashRead dt h slot host) s fun t =>
        Answered t h Op.ENG_CRASH_READ 0 0 [] ∧ RegsOnly [] s t ∧ t.eng = s.eng ∧
        (h.noCpl = true → t.io.mem = memWrite s.io.mem host (bulkBytes r.msg))) ∧
    (∀ slot, Admitted s dt h 0 Op.ENG_CRASH_RELEASE → slot ≤ 1 → s.gasping = false → tsorted s.eng.slots = true →
      Completes (.engCrashRelease dt h slot) s fun t =>
        tfind t.eng.slots slot = none ∧ (∀ k, k ≠ slot → tfind t.eng.slots k = tfind s.eng.slots k) ∧
        Answered t h Op.ENG_CRASH_RELEASE 0 0 [] ∧ RegsOnly [] s t) ∧
    (∀ count first points, Admitted s dt h 0 Op.ENG_CRASH_POINTS → count ≤ 256 → first ≤ 255 → s.gasping = false →
      points.length ≤ 12 → first + points.length ≤ count → tsorted s.eng.points = true →
      Completes (.engCrashPoints dt h count first points) s fun t =>
        t.eng.pointCount = count ∧ (∀ k p, points[k]? = some p → tget 0 t.eng.points (first + k) = p) ∧
        (∀ n, n < first ∨ first + points.length ≤ n → tget 0 t.eng.points n = tget 0 s.eng.points n) ∧
        Answered t h Op.ENG_CRASH_POINTS 0 0 [] ∧ RegsOnly [] s t)

/-- The doorbell page, descriptors, held records, data queues, vectors and the link take effect. R443 to R450, R452, R453, R456, R457, R459,
R462, R467, R469 to R471 and R474. -/
def Obligations.HostInterfaceEventsTakeEffect : Prop :=
  ∀ (s : State) (dt : Nat),
    (∀ page, s.ReadsPage dt → page.ok = true →
      Completes (.doorbellRead dt page) s fun t =>
        t.addr = (s.elapse dt).nextDoorbell ∧ t.shf.lastRead = some t.cycle ∧
        (∀ n v, n < 16 → leNum (cut page.bytes (4 * n) 4) = v → s.rdBit Reg.HIF_CMD_EN n = true →
          ahead (s.rd Reg.HIF_CMD_CONS n) v ≤ 2 ^ s.rd Reg.HIF_CMD_SIZE n →
          ahead (s.rd Reg.HIF_CMD_CONS n) (s.rd Reg.HIF_CMD_PROD n) ≤ ahead (s.rd Reg.HIF_CMD_CONS n) v →
          t.rd Reg.HIF_CMD_PROD n = v % 2 ^ 32) ∧
        (∀ n v, n < 16 → leNum (cut page.bytes (0x40 + 4 * n) 4) = v → s.rdBit Reg.HIF_CPL_EN n = true →
          ahead (s.io.rd Reg.HIF_CPL_CONS n) v ≤ ahead (s.io.rd Reg.HIF_CPL_CONS n) (s.io.rd Reg.HIF_CPL_PROD n) →
          t.io.rd Reg.HIF_CPL_CONS n = v % 2 ^ 32)) ∧
    (∀ page, s.ReadsPage dt → page.ok = false →
      Completes (.doorbellRead dt page) s fun t =>
        t.addr = (s.elapse dt).nextDoorbell ∧ t.shf.lastRead = some t.cycle ∧
        t.rd Reg.HIF_DB_READ_ERR_CNT 0 = (s.rd Reg.HIF_DB_READ_ERR_CNT 0 + 1) % 2 ^ 32 ∧
        RegsOnly ((Reg.HIF_DB_READ_ERR_CNT, 0) :: (List.range 16).map (fun n => (Reg.HIF_CMD_STALLED, n))) s t) ∧
    (∀ page, s.ReadsPage dt → page.ok = true → page.lines = [] → s.rdBit Reg.HIF_CMD_EN 0 = true →
      2 ^ s.rd Reg.HIF_CMD_SIZE 0 < ahead (s.rd Reg.HIF_CMD_CONS 0) (leNum (cut page.bytes 0 4)) →
      (∀ n, n < 16 → (n ≠ 0 → s.rdBit Reg.HIF_CMD_EN n = false) ∧ s.rdBit Reg.HIF_CPL_EN n = false) →
      (∀ n, n < 32 → s.rdBit Reg.HIF_EVQ_EN n = false) →
      Completes (.doorbellRead dt page) s fun t =>
        t.rd Reg.HIF_CMD_PROD 0 = s.rd Reg.HIF_CMD_PROD 0 ∧
        t.rd Reg.HIF_INDEX_BAD_CNT 0 = (s.rd Reg.HIF_INDEX_BAD_CNT 0 + 1) % 2 ^ 32) ∧
    (∀ n b d, d = readDesc b → n < 16 → s.io.fetch = [(n, 1)] → s.rdBit Reg.HIF_CMD_EN n = true → s.perturbed 4 = false →
      s.sys.bootMode = false →
      descReason d (aliveOf (s.io.full Reg.HIF_CMD_CONS n (s.rd Reg.HIF_CMD_CONS n)) (2 ^ s.rd Reg.HIF_CMD_SIZE n)) false = 0 →
      bitOf d.flags 1 = false ∨ s.io.delivered.any (fun e => e.ring == n) = false →
      Completes (.descriptorFetch dt [(n, [b])]) s fun t =>
        t.io.delivered = s.io.delivered ++ [
          { ring := n, tag := d.tag, opcode := d.opcode, noCpl := bitOf d.flags 0,
            gens := (List.range 13).map (fun k => s.rd Reg.RST_GEN k) }] ∧ t.io.fetch = [] ∧ t.io.cpllog = s.io.cpllog ∧
        t.rd Reg.HIF_CMD_CONS n = (s.rd Reg.HIF_CMD_CONS n + 1) % 2 ^ 32 ∧
        t.rd Reg.HIF_CMD_CNT 0 = (s.rd Reg.HIF_CMD_CNT 0 + 1) % 2 ^ 32 ∧ t.rd Reg.HIF_CMD_NOT_READY n = 0 ∧
        t.rd Reg.HIF_CMD_FENCED n = 0 ∧
        RegsOnly [(Reg.HIF_CMD_CONS, n), (Reg.HIF_CMD_CNT, 0), (Reg.HIF_CMD_NOT_READY, n), (Reg.HIF_CMD_FENCED, n)] s t) ∧
    (∀ n b d, d = readDesc b → n < 16 → s.io.fetch = [(n, 1)] → s.rdBit Reg.HIF_CMD_EN n = true → d.alive < 256 →
      d.alive = aliveOf (s.io.full Reg.HIF_CMD_CONS n (s.rd Reg.HIF_CMD_CONS n)) (2 ^ s.rd Reg.HIF_CMD_SIZE n) → d.crcOk = false →
      Completes (.descriptorFetch dt [(n, [b])]) s fun t =>
        t.rd Reg.HIF_CMD_CONS n = (s.rd Reg.HIF_CMD_CONS n + 1) % 2 ^ 32 ∧
        t.rd Reg.HIF_DESC_BAD_CNT 0 = (s.rd Reg.HIF_DESC_BAD_CNT 0 + 1) % 2 ^ 32 ∧ t.rd Reg.HIF_CMD_CNT 0 = s.rd Reg.HIF_CMD_CNT 0 ∧
        Answered t { ring := n, tag := d.tag } d.opcode 3 3 []) ∧
    (∀ n b d, d = readDesc b → n < 16 → s.io.fetch = [(n, 1)] → s.rdBit Reg.HIF_CMD_EN n = true → tfind s.io.stale n = none →
      1 < s.rd Reg.HIF_STALE_LIMIT 0 → s.io.full Reg.HIF_CMD_CONS n (s.rd Reg.HIF_CMD_CONS n) < 2 ^ s.rd Reg.HIF_CMD_SIZE n → d.alive = 0 →
      Completes (.descriptorFetch dt [(n, [b])]) s fun t =>
        t.rd Reg.HIF_CMD_NOT_READY n = 1 ∧ tfind t.io.stale n = some (s.rd Reg.HIF_CMD_CONS n, 1) ∧
        RegsOnly [(Reg.HIF_CMD_NOT_READY, n)] s t) ∧
    (∀ c q, s.halted = false → s.mayUseHost = true → s.io.resumeAt ≤ ceilTo Config.cyclePos (s.addr + dt) → s.io.heldCpl = [c] →
      (∀ k, (tget {} s.io.evq k).held = [] ∧ (tget {} s.io.evq k).lost = 0) → q = s.rd Reg.HIF_CMD_CPL c.ring → q < 16 →
      s.rd Reg.HIF_CPL_EN q = 1 → s.rd Reg.HIF_CPL_VEC_EN q ≠ 1 →
      Completes (.heldEventRelease dt) s fun t =>
        t.addr = ceilTo Config.cyclePos (s.addr + dt) ∧ t.io.heldCpl = [] ∧
        t.io.rd Reg.HIF_CPL_PROD q = (s.io.rd Reg.HIF_CPL_PROD q + 1) % 2 ^ 32 ∧
        t.io.mem = memWrite s.io.mem (s.rd Reg.HIF_CPL_BASE_LO q + 2 ^ 32 * s.rd Reg.HIF_CPL_BASE_HI q +
          32 * (s.io.rd Reg.HIF_CPL_PROD q % 2 ^ s.rd Reg.HIF_CPL_SIZE q))
          (c.bytes (aliveOf (s.io.full Reg.HIF_CPL_PROD q (s.io.rd Reg.HIF_CPL_PROD q)) (2 ^ s.rd Reg.HIF_CPL_SIZE q)))) ∧
    (∀ r q, s.halted = false → s.evqOpen q = true → s.io.resumeAt ≤ ceilTo Config.cyclePos (s.addr + dt) → s.io.heldCpl = [] → q < 32 →
      (∀ k, k ≠ q → (tget {} s.io.evq k).held = [] ∧ (tget {} s.io.evq k).lost = 0) → (tget {} s.io.evq q).held = [r] →
      (tget {} s.io.evq q).lost = 0 → (tget {} s.io.evq q).inOver = false → 2 ≤ s.evqFree s.io q → s.rd Reg.HIF_EVQ_VEC_EN q ≠ 1 →
      Completes (.heldEventRelease dt) s fun t =>
        (tget {} t.io.evq q).held = [] ∧ t.io.rd Reg.HIF_EVQ_PROD q = (s.io.rd Reg.HIF_EVQ_PROD q + 1) % 2 ^ 32 ∧
        t.io.mem = memWrite s.io.mem (s.evqBase q + 32 * (s.io.rd Reg.HIF_EVQ_PROD q % s.evqSize q))
          (r.bytes (aliveOf (s.io.full Reg.HIF_EVQ_PROD q (s.io.rd Reg.HIF_EVQ_PROD q)) (s.evqSize q)))) ∧
    (∀ d x, tfind s.qmg.dqs d = some x → x.words ≠ 0 ∨ x.reset = true → s.mayUseHost = true →
      s.io.resumeAt ≤ (s.toBoundary dt Config.cyclePos).addr → 32 ≤ x.evq →
      Completes (.dqWriteback dt d) s fun t =>
        t.addr = (s.toBoundary dt Config.cyclePos).addr ∧
        t.io.mem = memWrite s.io.mem (s.rd Reg.HIF_DQ_WB_ADDR_LO 0 + 2 ^ 32 * s.rd Reg.HIF_DQ_WB_ADDR_HI 0 + 32 * d)
          ((s.toBoundary dt Config.cyclePos).dqRecord d x) ∧
        tfind t.qmg.dqs d = some { x with words := 0, crc := 0xFFFFFFFF, reset := false, records := x.records + 1 } ∧
        RegsOnly [] s t) ∧
    (∀ d x, tfind s.qmg.dqs d = some x → x.words ≠ 0 → s.mayUseHost = true →
      s.io.resumeAt ≤ (s.toBoundary dt Config.cyclePos).addr → x.evq < 32 → x.toHost = true → x.ready = false →
      max 1 x.thr ≤ ahead x.host x.dev →
      Completes (.dqWriteback dt d) s fun t =>
        Raised t Ev.HIF_DQ_READY (srcRing 3 d) [(2, d), (4, ahead x.host x.dev)] ∧
        tfind t.qmg.dqs d = some { x with words := 0, crc := 0xFFFFFFFF, reset := false, records := x.records + 1, ready := true } ∧
        RegsOnly [] s t) ∧
    (∀ v n, (tget {} s.io.vecs v).count ≠ 0 → s.rd Reg.HIF_VEC_TIMER v = n → 0 < n → v < 32 →
      Completes (.vectorTimer dt v) s fun t =>
        t.time = max (s.time + dt) ((tget {} s.io.vecs v).since + n * Config.cyclePos) ∧ (tget {} t.io.vecs v).count = 0 ∧
        (if s.io.masked v then (tget {} t.io.vecs v).waiting = true
          else t.io.rd Reg.HIF_VEC_MSG_CNT v = (s.io.rd Reg.HIF_VEC_MSG_CNT v + 1) % 2 ^ 32) ∧
        t.io.mem = s.io.mem ∧ RegsOnly [] s t) ∧
    (∀ d3hot busMaster,
      Completes (.pciePowerState dt d3hot busMaster) s fun t =>
        t.io.d3hot = d3hot ∧ t.io.busMaster = busMaster ∧ t.io.mem = s.io.mem ∧ t.io.heldCpl = s.io.heldCpl ∧
        (s.mayUseHost = false → t.mayUseHost = true → s.halted = false →
          t.io.resumeAt = ceilTo Config.cyclePos (s.addr + dt)) ∧ RegsOnly [] s t) ∧
    (∀ speed width, speed < 8 → width < 16 → s.rd Reg.HIF_LINK_UP 0 = 0 → s.io.linkWas = false →
      Completes (.pcieLinkChange dt true speed width) s fun t =>
        t.rd Reg.HIF_LINK_UP 0 = 1 ∧ t.rd Reg.HIF_LINK_SPEED 0 = speed ∧ t.rd Reg.HIF_LINK_WIDTH 0 = width ∧ t.io.linkWas = true ∧
        Raised t Ev.HIF_LINK srcDevice [(1, 1), (1, speed), (1, width)] ∧
        RegsOnly [(Reg.HIF_LINK_UP, 0), (Reg.HIF_LINK_SPEED, 0), (Reg.HIF_LINK_WIDTH, 0)] s t) ∧
    (∀ speed width, speed < 8 → width < 16 → s.rdBit Reg.HIF_LINK_UP 0 = true →
      Completes (.pcieLinkChange dt false speed width) s fun t =>
        t.rd Reg.HIF_LINK_UP 0 = 0 ∧ t.mayUseHost = false ∧ Raised t Ev.HIF_LINK srcDevice [(1, 0), (1, speed), (1, width)] ∧
        RegsOnly [(Reg.HIF_LINK_UP, 0), (Reg.HIF_LINK_SPEED, 0), (Reg.HIF_LINK_WIDTH, 0)] s t) ∧
    (∀ speed width, speed < 8 → width < 16 → s.rd Reg.HIF_LINK_UP 0 = 0 → s.io.linkWas = true → s.inReset domHif = false →
      Completes (.pcieLinkChange dt true speed width) s fun t =>
        t.rd Reg.HIF_LINK_UP 0 = 1 ∧ t.rd Reg.HIF_EN 0 = 0 ∧ InResetNow domHif s t ∧
        Raised t Ev.HIF_LINK srcDevice [(1, 1), (1, speed), (1, width)]) ∧
    (∀ speed width, speed < 8 → width < 16 → s.rd Reg.HIF_LINK_UP 0 = 0 → s.io.linkWas = false →
      Completes (.perstNRelease dt speed width) s fun t =>
        t.rd Reg.HIF_LINK_UP 0 = 1 ∧ t.rd Reg.HIF_LINK_SPEED 0 = speed ∧ t.rd Reg.HIF_LINK_WIDTH 0 = width ∧
        t.io.busMaster = false ∧ t.io.d3hot = false ∧ t.mayUseHost = false ∧
        Raised t Ev.HIF_LINK srcDevice [(1, 1), (1, speed), (1, width)] ∧
        RegsOnly [(Reg.HIF_LINK_UP, 0), (Reg.HIF_LINK_SPEED, 0), (Reg.HIF_LINK_WIDTH, 0)] s t) ∧
    (s.inReset domHif = false → s.ovm.moves = [] →
      Completes (.hifDomainReset dt) s fun t =>
        InResetNow domHif s t ∧ t.rd Reg.HIF_EN 0 = 0 ∧
        (∀ n, n < 16 → t.rd Reg.HIF_CMD_EN n = 0 ∧ t.rd Reg.HIF_CPL_EN n = 0) ∧ (∀ n, n < 32 → t.rd Reg.HIF_EVQ_EN n = 0) ∧
        t.io.fetch = [] ∧ t.io.heldCpl = [] ∧ t.qmg.dqs = [] ∧
        Raised t Ev.RESET_ENTERED srcDevice [(2, domHif), (2, s.rd Reg.RST_GEN domHif)])

/-- The commands of the host interface take effect. Table 14-14, R465, R468 and R469. -/
def Obligations.HostInterfaceCommandsTakeEffect : Prop :=
  ∀ (s : State) (dt : Nat) (h : HostRef),
    (∀ value, Admitted s dt h domHif Op.HIF_NOP →
      Completes (.hifNop dt h value) s fun t => Answered t h Op.HIF_NOP 0 0 [(8, value)] ∧ t.io.evlog = s.io.evlog ∧ RegsOnly [] s t) ∧
    (∀ (p : DqBind) x, Admitted s dt h domHif Op.HIF_DQ_BIND → p.d ≤ 8191 → p.dir ≤ 1 → 6 ≤ p.size → p.size ≤ 16 → p.base % 4096 = 0 →
      p.evq ≤ 31 ∨ p.evq = 0xFF → s.queue p.q = some x → tfind s.qmg.dqs p.d = none → s.boundTo p.q = none →
      (if p.dir = 0 then x.reader else x.writer) = 0 →
      Completes (.hifDqBind dt h p) s fun t =>
        tfind t.qmg.dqs p.d = some { q := p.q, toHost := p.dir == 0, size := p.size, base := p.base, evq := p.evq, thr := p.thr } ∧
        t.queue p.q = some (if p.dir = 0 then { x with reader := 7 } else { x with writer := 7 }) ∧
        (∀ q, q ≠ p.q → t.queue q = s.queue q) ∧ (∀ k, k ≠ p.d → tfind t.qmg.dqs k = tfind s.qmg.dqs k) ∧
        Answered t h Op.HIF_DQ_BIND 0 0 [] ∧ RegsOnly [] s t) ∧
    (∀ (p : DqBind), Admitted s dt h domHif Op.HIF_DQ_BIND → 8191 < p.d →
      Completes (.hifDqBind dt h p) s fun t => t.qmg = s.qmg ∧ Answered t h Op.HIF_DQ_BIND 3 9 [] ∧ RegsOnly [] s t) ∧
    (∀ d x y, Admitted s dt h domHif Op.HIF_DQ_UNBIND → s.io.unbound ≠ some (d, (s.elapse dt).addr) → tsorted s.qmg.dqs = true →
      tfind s.qmg.dqs d = some x → s.queue x.q = some y →
      Completes (.hifDqUnbind dt h d) s fun t =>
        tfind t.qmg.dqs d = none ∧ t.queue x.q = some (if x.toHost then { y with reader := 0 } else { y with writer := 0 }) ∧
        (s.halted = false → t.addr = nextCycle (s.addr + dt)) ∧ Answered t h Op.HIF_DQ_UNBIND 0 0 [] ∧ RegsOnly [] s t) ∧
    (∀ first count levels, Admitted s dt h domHif Op.HIF_SEV_SET → 1 ≤ count → count ≤ 96 → count ≤ levels.length →
      (∀ v ∈ levels, v ≤ 3) →
      Completes (.hifSevSet dt h first count levels) s fun t =>
        (∀ c, t.severity c =
          if first ≤ c ∧ c < first + count ∧ c ∈ Ev.all ∧ c ∉ fixedCritical then levels.getD (c - first) 0 else s.severity c) ∧
        Answered t h Op.HIF_SEV_SET 0 0 [] ∧ RegsOnly [] s t) ∧
    (∀ evq sev, Admitted s dt h domHif Op.HIF_EVQ_TEST → evq ≤ 31 → sev ≤ 3 →
      Completes (.hifEvqTest dt h evq sev) s fun t =>
        (∃ r, t.io.evlog.head? = some r ∧ r.code = Ev.HIF_TEST ∧ r.src = srcDevice ∧ r.sev = sev ∧ r.caused = true ∧
          r.detail = packItems [(1, sev)]) ∧
        Answered t h Op.HIF_EVQ_TEST 0 0 [] ∧ RegsOnly [] s t)

/-- Queue writes, reads, flushes, drop windows and resets take effect. R478, R480, R482, R485, R487 to R489 and R496. -/
def Obligations.QueueEventsTakeEffect : Prop :=
  ∀ (s : State) (dt q : Nat) (x : QSt), s.queue q = some x →
    (∀ w : QWrite, x.resetting = false → x.heldBack = false → s.boundTo q = none → x.packet = false → w.wide = false → x.openAt = none →
      x.mark = none → x.depth ≠ x.size → w.bytes.length < 64 →
      Completes (.queuePush dt q w) s fun t =>
        (∃ y, t.queue q = some y ∧ y.wp = x.after x.wp ∧ y.rp = x.rp ∧ y.word x.wp = { data := w.bytes } ∧
          y.openAt = some (s.elapse dt).cycle ∧ y.drops = x.drops ∧ y.writer = (if x.writer = 0 then 4 else x.writer)) ∧
        (∀ k, k ≠ q → t.queue k = s.queue k) ∧ RegsOnly [(Reg.TST_PERTURB_CNT, 0)] s t) ∧
    (∀ w : QWrite, x.resetting = false → x.heldBack = false → s.boundTo q = none → x.packet = false → w.wide = false → x.openAt = none →
      x.depth = x.size → x.window = none →
      Completes (.queuePush dt q w) s fun t =>
        (∃ y, t.queue q = some y ∧ y.wp = x.wp ∧ y.rp = x.rp ∧ y.slots = x.slots ∧ y.drops = min (x.drops + 1) (2 ^ 32 - 1) ∧
          y.window = some (s.time + dt, 1)) ∧
        t.rd Reg.QMG_DROP_CNT 0 = (s.rd Reg.QMG_DROP_CNT 0 + 1) % 2 ^ 32 ∧
        RegsOnly [(Reg.QMG_DROP_CNT, 0), (Reg.TST_PERTURB_CNT, 0)] s t) ∧
    (∀ w, x.heldBack = true → Completes (.queuePush dt q w) s fun t => t.qmg = s.qmg ∧ t.io = s.io ∧ RegsOnly [] s t) ∧
    (x.resetting = false → x.readable ≠ 0 → s.boundTo q = none → ((s.elapse dt).drrServe q).isSome = true →
      Completes (.queuePop dt q) s fun t =>
        (∃ y, t.queue q = some y ∧ y.rp = x.after x.rp ∧ y.wp = x.wp ∧ y.slots = x.slots ∧ y.mark = x.mark) ∧
        (∀ k, k ≠ q → t.queue k = s.queue k) ∧ RegsOnly [(Reg.TST_PERTURB_CNT, 0)] s t) ∧
    (s.boundTo q = none → (s.elapse dt).drrServe q = none →
      Completes (.queuePop dt q) s fun t => t.qmg = s.qmg ∧ t.map = s.map ∧ t.io = s.io ∧ RegsOnly [] s t) ∧
    (∀ d b, x.resetting = false → x.readable ≠ 0 → s.boundTo q = some (d, b) → b.toHost = true → (s.elapse dt).dqCanMove b = true →
      Completes (.queuePop dt q) s fun t =>
        (∃ y, t.queue q = some y ∧ y.rp = x.after x.rp ∧ y.wp = x.wp) ∧
        tfind t.qmg.dqs d = some { b with dev := (b.dev + 1) % 2 ^ 32, words := b.words + 1, crc := crcRun b.crc (x.padded (x.word x.rp)) } ∧
        (x.isHigh = false → s.pressed q = false → ({ x with rp := x.after x.rp } : QSt).depth < x.high →
          ({ x with rp := x.after x.rp } : QSt).depth ≠ x.size →
          t.io = { s.io with mem := memWrite s.io.mem (b.base + 64 * (b.dev % 2 ^ b.size)) (x.padded (x.word x.rp)) })) ∧
    (∀ c, x.openAt = some c →
      Completes (.queueFlush dt q) s fun t =>
        t.queue q = some { x with openAt := none } ∧
        (s.halted = false → t.addr = max (s.addr + dt) ((c + max 1 x.flush) * Config.cyclePos)) ∧
        t.rd Reg.QMG_FLUSH_CNT 0 = (s.rd Reg.QMG_FLUSH_CNT 0 + 1) % 2 ^ 32 ∧ RegsOnly [(Reg.QMG_FLUSH_CNT, 0)] s t) ∧
    (∀ since k, x.window = some (since, k) →
      Completes (.qDrop dt q) s fun t =>
        t.queue q = some { x with window := none } ∧ t.time = max (s.time + dt) (since + Config.secondPos) ∧
        Raised t Ev.Q_DROP (srcQueue q) [(4, k), (1, ofBool x.packet)] ∧ RegsOnly [] s t) ∧
    (∀ which binary graycopy,
      Completes (.qPtrReset dt q which binary graycopy) s fun t =>
        (∃ y, t.queue q = some y ∧ y.wp = 0 ∧ y.rp = 0 ∧ y.mark = none ∧ y.slots = [] ∧ y.resetting = true ∧
          y.resets = min (x.resets + 1) (2 ^ 32 - 1) ∧ y.drops = x.drops ∧ y.high = x.high ∧ y.low = x.low) ∧
        t.rd Reg.QMG_PTR_RESET_CNT 0 = (s.rd Reg.QMG_PTR_RESET_CNT 0 + 1) % 2 ^ 32 ∧
        Raised t Ev.Q_PTR_RESET (srcQueue q) [(1, which), (4, binary), (4, graycopy)] ∧
        (∀ k, k ≠ q → t.queue k = s.queue k) ∧ RegsOnly [(Reg.QMG_PTR_RESET_CNT, 0)] s t) ∧
    Completes (.queueResetEnd dt q) s fun t =>
      t.queue q = some { x with resetting := false } ∧ t.addr = (s.toBoundary dt Config.cyclePos).addr ∧ t.io = s.io ∧ RegsOnly [] s t

/-- A packet of at most 56 bytes written at once is stored as one word, its length slot filled. R479, R480 and Table 15-4. -/
def Obligations.ShortPacketIsStoredWhole : Prop :=
  ∀ (s : State) (dt q : Nat) (x : QSt) (w : QWrite), s.queue q = some x → x.resetting = false → x.heldBack = false → s.boundTo q = none →
    x.packet = true → x.pkt = none → x.skip = false → x.mark = none → x.depth ≠ x.size → x.wp < x.modulus → w.wide = false →
    w.abort = false → w.last = true → w.bytes.length ≤ 56 →
    Completes (.queuePush dt q w) s fun t =>
      ∃ y, t.queue q = some y ∧ y.wp = x.after x.wp ∧ y.pkt = none ∧ y.rp = x.rp ∧
        y.word x.wp =
          { data := leBytes 4 w.bytes.length ++ [w.status % 256, 0] ++ leBytes 2 w.tag ++ w.bytes, sop := true, eop := true }

/-- The queue manager's commands take effect. Table 15-8, R477, R490, R491, R496 and R497. -/
def Obligations.QueueCommandsTakeEffect : Prop :=
  ∀ (s : State) (dt : Nat) (h : HostRef),
    (∀ p : QCreate, Admitted s dt h domQmg Op.QMG_Q_CREATE → s.rd Reg.QMG_HOST_BASE 0 ≤ p.q → p.q ≤ 65487 → s.queue p.q = none →
      8 ≤ p.k → p.k ≤ 22 → p.low < p.high → p.high ≤ 2 ^ p.k → (p.mode % 2 = 0 → p.mode / 2 % 4 = 0) →
      s.hostHbm + 64 * 2 ^ p.k ≤ s.rd Reg.QMG_HOST_HBM 0 * 2 ^ 20 →
      Completes (.qmgQCreate dt h p) s fun t =>
        (∃ x, t.queue p.q = some x ∧ x.packet = (p.mode % 2 == 0) ∧ x.recSize = 8 * 2 ^ (p.mode / 2 % 4) ∧ x.hold = p.hold ∧ x.hbm = true ∧
          x.host = true ∧ x.k = p.k ∧ x.flush = max 1 p.flush ∧ x.high = p.high ∧ x.low = p.low ∧ x.wp = 0 ∧ x.rp = 0 ∧ x.drops = 0) ∧
        (∀ k, k ≠ p.q → t.queue k = s.queue k) ∧ (s.halted = false → t.addr = nextCycle (s.addr + dt)) ∧
        Answered t h Op.QMG_Q_CREATE 0 0 [] ∧ RegsOnly [] s t) ∧
    (∀ p : QCreate, Admitted s dt h domQmg Op.QMG_Q_CREATE → s.rd Reg.QMG_HOST_BASE 0 ≤ p.q → p.q ≤ 65487 → (s.queue p.q).isSome = true →
      Completes (.qmgQCreate dt h p) s fun t => t.qmg = s.qmg ∧ Answered t h Op.QMG_Q_CREATE 2 4 [] ∧ RegsOnly [] s t) ∧
    (∀ q x, Admitted s dt h domQmg Op.QMG_Q_DESTROY → s.queue q = some x → x.resetting = false → x.host = true → s.boundTo q = none →
      tsorted s.qmg.qs = true →
      Completes (.qmgQDestroy dt h q) s fun t =>
        t.queue q = none ∧ (∀ k, k ≠ q → t.queue k = s.queue k) ∧ Answered t h Op.QMG_Q_DESTROY 0 0 [] ∧ RegsOnly [] s t) ∧
    (∀ q x high low hold holdValid, Admitted s dt h domQmg Op.QMG_Q_SET → s.queue q = some x → x.resetting = false → low < high →
      high ≤ x.size → (holdValid = true → x.host = true) →
      Completes (.qmgQSet dt h q high low hold holdValid) s fun t =>
        (∃ y, t.queue q = some y ∧ y.high = high ∧ y.low = low ∧ y.hold = (if holdValid then hold else x.hold) ∧ y.wp = x.wp ∧
          y.rp = x.rp) ∧
        (s.halted = false → t.addr = nextCycle (s.addr + dt)) ∧ Answered t h Op.QMG_Q_SET 0 0 [] ∧
        RegsOnly [(Reg.TST_PERTURB_CNT, 0)] s t) ∧
    (∀ q x host, Admitted s dt h domQmg Op.QMG_Q_READ → s.queue q = some x → x.resetting = false → host % 64 = 0 →
      Completes (.qmgQRead dt h q host) s fun t =>
        t.qmg = s.qmg ∧ Answered t h Op.QMG_Q_READ 0 0 [] ∧ RegsOnly [] s t ∧
        (h.noCpl = true → t.io.mem = memWrite s.io.mem host ((s.elapse dt).queueRecord q x))) ∧
    (∀ q host, Admitted s dt h domQmg Op.QMG_Q_READ → s.queue q = none →
      Completes (.qmgQRead dt h q host) s fun t => t.qmg = s.qmg ∧ Answered t h Op.QMG_Q_READ 2 1 [] ∧ RegsOnly [] s t) ∧
    (∀ q x on, Admitted s dt h domQmg Op.QMG_MARK → s.queue q = some x → x.resetting = false → x.reader = 7 →
      Completes (.qmgMark dt h q on) s fun t =>
        (∃ y, t.queue q = some y ∧ y.mark = (if on = 1 then some x.rp else none) ∧ y.markLost = false ∧ y.rp = x.rp ∧ y.wp = x.wp) ∧
        Answered t h Op.QMG_MARK 0 0 [] ∧ RegsOnly [(Reg.TST_PERTURB_CNT, 0)] s t) ∧
    (∀ q x m, Admitted s dt h domQmg Op.QMG_REWIND → s.queue q = some x → x.resetting = false → x.reader = 7 → x.mark = some m →
      Completes (.qmgRewind dt h q) s fun t =>
        (∃ y, t.queue q = some y ∧ y.rp = m ∧ y.mark = some m ∧ y.wp = x.wp) ∧
        Answered t h Op.QMG_REWIND 0 0 [] ∧ RegsOnly [(Reg.TST_PERTURB_CNT, 0)] s t) ∧
    (∀ q x, Admitted s dt h domQmg Op.QMG_REWIND → s.queue q = some x → x.resetting = false → x.reader = 7 → x.mark = none →
      Completes (.qmgRewind dt h q) s fun t =>
        t.qmg = s.qmg ∧ Answered t h Op.QMG_REWIND 2 (if x.markLost then 8 else 7) [] ∧ RegsOnly [] s t) ∧
    (∀ q x, Admitted s dt h domQmg Op.QMG_DROP_REST → s.queue q = some x → x.resetting = false → x.reader = 7 → x.packet = true →
      x.readable ≠ 0 → (x.word x.rp).sop = false →
      Completes (.qmgDropRest dt h q) s fun t =>
        (∃ y, t.queue q = some y ∧ y.rp = (x.rp + x.restOfPacket x.readable x.rp) % x.modulus ∧ y.wp = x.wp) ∧
        Answered t h Op.QMG_DROP_REST 0 0 [(4, x.restOfPacket x.readable x.rp)] ∧ RegsOnly [(Reg.TST_PERTURB_CNT, 0)] s t) ∧
    (∀ q x, Admitted s dt h domQmg Op.QMG_Q_RESET → s.queue q = some x → x.resetting = false → x.host = true →
      Completes (.qmgQReset dt h q) s fun t =>
        (∃ y, t.queue q = some y ∧ y.wp = 0 ∧ y.rp = 0 ∧ y.mark = none ∧ y.slots = [] ∧ y.resetting = true) ∧
        t.rd Reg.QMG_PTR_RESET_CNT 0 = (s.rd Reg.QMG_PTR_RESET_CNT 0 + 1) % 2 ^ 32 ∧
        Raised t Ev.Q_PTR_RESET (srcQueue q) [(1, 3), (4, x.wp), (4, gray x.wp)] ∧ Answered t h Op.QMG_Q_RESET 0 0 [] ∧
        RegsOnly [(Reg.QMG_PTR_RESET_CNT, 0)] s t)

/-- A host write of a register does what the field's type says. R500, R503 to R507 and R514; a read of a shadowed LO field, R512; the
scrub of triplicated fields, R510 and R511; what a read returns, R209, R245, R514 and R571. The words of a single field are meant, in the blocks whose writes do nothing else. -/
def Obligations.RegisterWritesTakeEffect : Prop :=
  ∀ (s : State) (dt : Nat), s.inReset 0 = false →
    (∀ off value be, outsideMap (off / 4 * 4) = false → be % 16 ≠ 15 →
      Completes (.registerWrite dt off value be) s fun t =>
        t.rd Reg.GLB_ACCESS_BAD_CNT 0 = (s.rd Reg.GLB_ACCESS_BAD_CNT 0 + 1) % 2 ^ 32 ∧
        Raised t Ev.REG_ACCESS_BAD srcDevice [(4, off / 4 * 4), (1, be % 16), (1, 0)] ∧ RegsOnly [(Reg.GLB_ACCESS_BAD_CNT, 0)] s t) ∧
    (∀ off value f i, off % 4 = 0 → outsideMap off = false → activeView off = false →
      off / 0x80000 ∈ [3, 6, 7, 8, 9, 10, 11, 12, 13, 15, 16, 17, 18] → wordFields off = [(f, i)] → s.inReset (f.domain i) = false →
      s.gasping = false →
      Completes (.registerWrite dt off value 15) s fun t =>
        (f.kind = .ctl → t.rd f i = bitsOf (value % 2 ^ 32) f.lo f.width % 2 ^ f.width ∧ RegsOnly [(f, i)] s t ∧ t.io = s.io) ∧
        (f.kind = .sts → t.regs = s.regs ∧ t.io = s.io) ∧
        (f.kind = .cnt → f.inIo = false → t.rd f i = bitsOf (value % 2 ^ 32) f.lo f.width % 2 ^ f.width ∧ RegsOnly [(f, i)] s t) ∧
        (f.kind = .cmt → tsorted s.regs.staged = true →
          t.staged f i = bitsOf (value % 2 ^ 32) f.lo f.width ∧ RegsOnly [] s t ∧ t.io = s.io) ∧
        (f.kind = .lck → s.isLocked f i = true →
          t.rd Reg.GLB_WTL_CNT 0 = (s.rd Reg.GLB_WTL_CNT 0 + 1) % 2 ^ 32 ∧ RegsOnly [(Reg.GLB_WTL_CNT, 0)] s t) ∧
        (f.kind = .lck → s.isLocked f i = false → f ≠ Reg.CIP_EPOCH_BASE →
          t.rd f i = bitsOf (value % 2 ^ 32) f.lo f.width % 2 ^ f.width ∧ t.isLocked f i = true ∧ RegsOnly [(f, i)] s t)) ∧
    (∀ e ∈ shadowPairs, s.inReset (e.1.domain 0) = false →
      Completes (.shadowLoRead dt e.1.base) s fun t =>
        (∀ f ∈ e.2, tfind t.regs.shadow (f.key 0) = some ((s.elapse dt).value f 0)) ∧ t.regs.vals = s.regs.vals ∧ t.io = s.io) ∧
    (∀ off c w, s.halted = false → (wordFields off).find? (fun e => e.1.tri) = some w →
      Completes (.triScrub dt [{ off := off, copy := some c }]) s fun t =>
        t.addr = ceilTo Config.epochPos (s.addr + dt) ∧ t.rd Reg.GLB_TRI_FIX_CNT 0 = (s.rd Reg.GLB_TRI_FIX_CNT 0 + 1) % 2 ^ 32 ∧
        Raised t Ev.TRI_CORRECTED srcDevice [(4, off), (1, c)] ∧ RegsOnly [(Reg.GLB_TRI_FIX_CNT, 0)] s t) ∧
    (s.halted = false →
      Completes (.triScrub dt [{ off := 0x00080004, copy := none }]) s fun t =>
        t.rd Reg.RST_REQ 0 = 0 ∧ t.rd Reg.GLB_TRI_FAULT 0 = 1 ∧ Raised t Ev.TRI_NO_MAJORITY srcDevice [(4, 0x00080004)] ∧
        RegsOnly [(Reg.RST_REQ, 0), (Reg.GLB_TRI_FAULT, 0)] s t) ∧
    (∀ f i, s.inReset (f.domain i) = true → f ≠ Reg.GLB_ID → s.readField f i = 0) ∧
    (∀ f ∈ Reg.ofBlock 6, ∀ i, f.kind = .sts ∨ f.kind = .cnt → f.count = 48 → i < 48 →
      s.rd Reg.PRT_LANE_MODE i ≠ 9 → s.rd Reg.PRT_LANE_MODE i ≠ 10 → s.readField f i = 0) ∧
    (∀ f ∈ Reg.ofBlock 7, ∀ i, f.kind = .sts ∨ f.kind = .cnt → f.count = 72 → i < 72 →
      modeStm (s.rd Reg.PRT_LANE_MODE i) = false → modeOtu (s.rd Reg.PRT_LANE_MODE i) = false → s.readField f i = 0) ∧
    (∀ f i, s.inReset (f.domain i) = false → f.shadowed = false → f.kind = .cmt → s.readField f i = s.staged f i)

/-- Commits and discards take effect. R515 to R520 and R529. -/
def Obligations.CommitsTakeEffect : Prop :=
  ∀ (s : State) (dt : Nat),
    (∀ value, value < 2 ^ 20 → s.inReset 0 = false → s.halted = false →
      Completes (.glbCommit dt value) s fun t => t.rd Reg.GLB_COMMIT 0 = value ∧ t.io = s.io ∧ RegsOnly [(Reg.GLB_COMMIT, 0)] s t) ∧
    (∀ value, value < 2 ^ 20 → value ≠ 0 → s.inReset 0 = false → s.halted = true →
      Completes (.glbCommit dt value) s fun t =>
        t.rd Reg.GLB_COMMIT 0 = 0 ∧ t.rd Reg.GLB_LAST_REJECT_GROUP 0 = lowest value ∧ t.rd Reg.GLB_LAST_REJECT_REASON 0 = 0x81 ∧
        t.rd Reg.GLB_REJECT_CNT 0 = (s.rd Reg.GLB_REJECT_CNT 0 + 1) % 2 ^ 32 ∧
        Raised t Ev.COMMIT_REJECT srcDevice [(4, value), (1, lowest value), (1, 0x81), (2, 0), (4, 0x00100004)]) ∧
    (∀ h mask, mask < 2 ^ 20 → Admitted s dt h 0 Op.REG_COMMIT → s.halted = false →
      Completes (.regCommit dt h mask) s fun t => t.regs.asks = s.regs.asks ++ [(s.time + dt, mask, h)] ∧ t.io = s.io ∧ RegsOnly [] s t) ∧
    (∀ h mask, 2 ^ 20 ≤ mask → Admitted s dt h 0 Op.REG_COMMIT →
      Completes (.regCommit dt h mask) s fun t => t.regs = s.regs ∧ Answered t h Op.REG_COMMIT 2 2 [] ∧ RegsOnly [] s t) ∧
    (∀ bad mask, s.inReset 0 = false → s.halted = false → s.rd Reg.GLB_COMMIT 0 = mask → mask ≠ 0 → mask < 2 ^ 20 → s.regs.run = none →
      s.regs.asks = [] → s.regs.setAsk = false → s.regs.askedAt.1 ≠ (s.toBoundary dt Config.cyclePos).time →
      s.regs.doneAt.1 ≠ (s.toBoundary dt Config.cyclePos).addr →
      Completes (.commitSnapshot dt bad) s fun t =>
        t.addr = ceilTo Config.cyclePos (s.addr + dt) ∧
        (∃ r, t.regs.run = some r ∧ r.mask = mask ∧ r.staged = (s.toBoundary dt Config.cyclePos).snapshot mask none ∧
          r.fail = (s.toBoundary dt Config.cyclePos).checkCommit r.staged mask bad ∧ r.due = t.addr + Config.cyclePos) ∧
        t.rd Reg.GLB_COMMIT 0 = 0 ∧ t.rd Reg.GLB_COMMIT_BUSY 0 = Nat.lor (s.rd Reg.GLB_COMMIT_BUSY 0) mask % 2 ^ 20 ∧
        t.io = s.io ∧ RegsOnly [(Reg.GLB_COMMIT, 0), (Reg.GLB_COMMIT_BUSY, 0)] s t) ∧
    (∀ r, s.halted = false → s.regs.run = some r → r.set = false → r.asks = [] → r.mask = 2 ^ 15 → r.fail = none → s.gasping = false →
      s.rd Reg.GLB_DISCARD 0 = 0 → s.regs.discards = [] →
      Completes (.commitOutcome dt) s fun t =>
        (∀ v, tfind r.staged (Reg.QMG_HOST_BASE.key 0) = some v → t.rd Reg.QMG_HOST_BASE 0 = v % 2 ^ Reg.QMG_HOST_BASE.width) ∧
        (∀ v, tfind r.staged (Reg.QMG_HOST_HBM.key 0) = some v → t.rd Reg.QMG_HOST_HBM 0 = v % 2 ^ Reg.QMG_HOST_HBM.width) ∧
        t.rd Reg.GLB_COMMIT_CNT 0 = (s.rd Reg.GLB_COMMIT_CNT 0 + 1) % 2 ^ 32 ∧ t.regs.run = none ∧
        t.addr = max (s.addr + dt) (min r.due (nextCycle (s.addr + dt))) ∧ Raised t Ev.COMMIT_DONE srcDevice [(4, 2 ^ 15)] ∧
        RegsOnly [(Reg.QMG_HOST_BASE, 0), (Reg.QMG_HOST_HBM, 0), (Reg.GLB_COMMIT_CNT, 0), (Reg.GLB_COMMIT_BUSY, 0),
          (Reg.GLB_DISCARD, 0)] s t) ∧
    (∀ r f, s.halted = false → s.regs.run = some r → r.set = false → r.asks = [] → r.fail = some f → s.rd Reg.GLB_DISCARD 0 = 0 →
      s.regs.discards = [] →
      Completes (.commitOutcome dt) s fun t =>
        t.rd Reg.GLB_LAST_REJECT_GROUP 0 = f.1 % 2 ^ 5 ∧ t.rd Reg.GLB_LAST_REJECT_REASON 0 = f.2.1 % 2 ^ 8 ∧
        t.rd Reg.GLB_LAST_REJECT_OFF 0 = f.2.2 % 2 ^ 32 ∧ t.rd Reg.GLB_REJECT_CNT 0 = (s.rd Reg.GLB_REJECT_CNT 0 + 1) % 2 ^ 32 ∧
        Raised t Ev.COMMIT_REJECT srcDevice [(4, r.mask), (1, f.1), (1, f.2.1), (2, 0), (4, f.2.2)] ∧
        RegsOnly [(Reg.GLB_LAST_REJECT_GROUP, 0), (Reg.GLB_LAST_REJECT_REASON, 0), (Reg.GLB_LAST_REJECT_OFF, 0), (Reg.GLB_REJECT_CNT, 0),
          (Reg.GLB_COMMIT_BUSY, 0), (Reg.GLB_DISCARD, 0)] s t) ∧
    (∀ value, value < 2 ^ 20 → value ≠ 0 → s.inReset 0 = false → s.halted = false → s.rd Reg.GLB_COMMIT_BUSY 0 = 0 →
      s.regs.discards = [] →
      Completes (.glbDiscard dt value) s fun t =>
        t.addr = nextCycle (s.addr + dt) ∧ t.rd Reg.GLB_DISCARD 0 = 0 ∧
        (∀ f i, bitOf value (keyGroup (f.key i)) = true → t.staged f i = t.rd f i) ∧
        (∀ f i, bitOf value (keyGroup (f.key i)) = false → f ≠ Reg.GLB_DISCARD → f.key i ≠ Reg.GLB_DISCARD.key 0 →
          t.staged f i = s.staged f i) ∧ t.io = s.io ∧ RegsOnly [(Reg.GLB_DISCARD, 0)] s t) ∧
    (∀ h mask, mask < 2 ^ 20 → Admitted s dt h 0 Op.REG_DISCARD → s.halted = false → s.rd Reg.GLB_COMMIT_BUSY 0 = 0 →
      s.rd Reg.GLB_DISCARD 0 = 0 → s.regs.discards = [] →
      Completes (.regDiscard dt h mask) s fun t =>
        t.addr = nextCycle (s.addr + dt) ∧ (∀ f i, bitOf mask (keyGroup (f.key i)) = true → t.staged f i = t.rd f i) ∧
        Answered t h Op.REG_DISCARD 0 0 [] ∧ RegsOnly [(Reg.GLB_DISCARD, 0)] s t)

/-- A CHIP reset: what it leaves. R527, R577 and Table 16-6. -/
def Obligations.ChipResetsTakeEffect : Prop :=
  ∀ (s t : State) (dt cause : Nat),
    ((exec (.railUndervoltage dt) s = .next t ∨ exec (.porstNLow dt) s = .next t) ∧ cause = 0) ∨
      (∃ value, s.inReset 0 = false ∧ bitOf (s.rd Reg.RST_ACTIVE 0) 0 = false ∧ s.rd Reg.RST_KEY 0 = 0xC0DE ∧ bitOf value 0 = true ∧
        exec (.rstReq dt value) s = .next t ∧ cause = 1) →
    t.rd Reg.RST_ACTIVE 0 = 0x1FFF ∧ t.rd Reg.RST_CAUSE 0 = cause ∧ t.halted = true ∧ t.addr = 0 ∧ t.time = s.time + dt ∧
      t.pending = s.pending ∧ t.io.mem = s.io.mem ∧ t.rd Reg.SEC_SVN_OTP 0 = s.rd Reg.SEC_SVN_OTP 0 % 2 ^ Reg.SEC_SVN_OTP.width ∧
      t.rd Reg.SEC_LIFECYCLE 0 = s.rd Reg.SEC_LIFECYCLE 0 % 2 ^ Reg.SEC_LIFECYCLE.width ∧ t.rd Reg.SEC_DEBUG 0 = 0 ∧
      t.sec.imgs = s.sec.imgs ∧ t.sys.nor = s.sys.nor ∧ t.bkg.sectors = s.bkg.sectors ∧ t.eng.slots = s.eng.slots ∧
      t.cip.slots = [] ∧ t.ovm.intents = [] ∧ t.qmg.qs = State.reset.qmg.qs ∧
      RegsOnly (keptFields.map (fun f => (f, 0)) ++ [(Reg.RST_ACTIVE, 0), (Reg.RST_CAUSE, 0), (Reg.RST_HEWER_ACTIVE_LO, 0),
        (Reg.RST_HEWER_ACTIVE_MID, 0), (Reg.RST_HEWER_ACTIVE_HI, 0)]) State.reset t

/-- Reset requests and releases take effect. R526, R527, R549, R569 to R571, R577, R580 and R582. -/
def Obligations.ResetCommandsTakeEffect : Prop :=
  ∀ (s : State) (dt : Nat),
    (Completes (.railUndervoltage dt) s fun t => t.rd Reg.RST_ACTIVE 0 = 0x1FFF ∧ t.rd Reg.RST_CAUSE 0 = 0 ∧ t.halted = true) ∧
    (Completes (.porstNLow dt) s fun t => t.rd Reg.RST_ACTIVE 0 = 0x1FFF ∧ t.rd Reg.RST_CAUSE 0 = 0 ∧ t.halted = true) ∧
    (∀ d, 1 ≤ d → d ≤ 12 → bitOf (s.rd Reg.RST_ACTIVE 0) 0 = false → s.rd Reg.RST_KEY 0 = 0xC0DE → s.inReset d = false →
      s.paired = false → s.ovm.moves = [] →
      Completes (.rstReq dt (2 ^ d)) s fun t =>
        InResetNow d s t ∧ t.rd Reg.RST_KEY 0 = 0 ∧ t.rd Reg.RST_REQ_CNT 0 = (s.rd Reg.RST_REQ_CNT 0 + 1) % 2 ^ 32 ∧
        Raised t Ev.RESET_ENTERED srcDevice [(2, d), (2, s.rd Reg.RST_GEN d)]) ∧
    (∀ value, value < 2 ^ 13 → value ≠ 0 → bitOf (s.rd Reg.RST_ACTIVE 0) 0 = false → s.rd Reg.RST_KEY 0 ≠ 0xC0DE →
      Completes (.rstReq dt value) s fun t =>
        t.rd Reg.RST_KEY 0 = 0 ∧ t.rd Reg.GLB_ACCESS_BAD_CNT 0 = (s.rd Reg.GLB_ACCESS_BAD_CNT 0 + 1) % 2 ^ 32 ∧
        Raised t Ev.REG_ACCESS_BAD srcDevice [(4, 0x00080004), (1, 15), (1, 1)] ∧
        RegsOnly [(Reg.GLB_ACCESS_BAD_CNT, 0), (Reg.RST_KEY, 0)] s t) ∧
    (∀ third k hewer, third < 3 → k < 32 → hewer = 32 * third + k → bitOf (s.rd Reg.RST_ACTIVE 0) 0 = false → s.rd Reg.RST_KEY 0 = 0xC0DE →
      s.hewerReset hewer = false → s.ovm.moves = [] →
      Completes (.rstHewerReq dt third (2 ^ k)) s fun t =>
        t.hewerReset hewer = true ∧ t.rd Reg.RST_HEWER_GEN hewer = (s.rd Reg.RST_HEWER_GEN hewer + 1) % 2 ^ 16 ∧ t.rd Reg.RST_KEY 0 = 0 ∧
        t.rd Reg.RST_REQ_CNT 0 = (s.rd Reg.RST_REQ_CNT 0 + 1) % 2 ^ 32 ∧
        Raised t Ev.RESET_ENTERED (srcHewer hewer) [(2, 0x8000 + hewer), (2, s.rd Reg.RST_HEWER_GEN hewer)]) ∧
    (∀ unit, 1 ≤ unit → unit ≤ 12 → bitOf (s.rd Reg.RST_ACTIVE 0) 0 = false → bitOf (s.rd Reg.RST_ACTIVE 0) unit = true →
      s.sys.bootMode = false → bitOf (s.rd Reg.RST_REQ 0) unit = false → s.startsInOrder unit = true →
      Completes (.resetReleased dt unit) s fun t =>
        bitOf (t.rd Reg.RST_ACTIVE 0) unit = false ∧
        (∀ k, k < 13 → k ≠ unit → bitOf (t.rd Reg.RST_ACTIVE 0) k = bitOf (s.rd Reg.RST_ACTIVE 0) k) ∧
        t.rd Reg.RST_GEN unit = s.rd Reg.RST_GEN unit ∧
        (unit ∈ [1, 7, 8, 9, 10, 11, 12] →
          ∃ us, Raised t Ev.RESET_RELEASED srcDevice [(2, unit), (2, s.rd Reg.RST_GEN unit), (4, us)])) ∧
    (∀ hewer, hewer ≤ 95 → bitOf (s.rd Reg.RST_ACTIVE 0) 0 = false → s.sys.bootMode = false → s.hewerReset hewer = true →
      s.startsInOrder (0x8000 + hewer) = true →
      bitOf (s.rd (hewerFld Reg.RST_HEWER_REQ_LO Reg.RST_HEWER_REQ_MID Reg.RST_HEWER_REQ_HI hewer) 0) (hewer % 32) = false →
      Completes (.resetReleased dt (0x8000 + hewer)) s fun t =>
        t.hewerReset hewer = false ∧ (∀ k, k ≤ 95 → k ≠ hewer → t.hewerReset k = s.hewerReset k) ∧
        t.rd Reg.RST_HEWER_GEN hewer = s.rd Reg.RST_HEWER_GEN hewer) ∧
    (∀ unit, s.startsInOrder unit = false →
      Completes (.resetReleased dt unit) s fun t => t.regs = s.regs ∧ t.sys = s.sys ∧ t.io = s.io) ∧
    (∀ b : BootIn, s.sys.held = true → b.moved = none → b.trngOk = true →
      Completes (.powerOnResetRelease dt b) s fun t =>
        t.rd Reg.RST_ACTIVE 0 = 0x1FFE ∧ t.rd Reg.PAR_PAIR_EN 0 = ofBool b.pairEn ∧ t.rd Reg.PAR_UNIT 0 = ofBool b.unitId ∧
        t.rd Reg.PAR_STATE 0 = (if b.pairEn then parSeeking else 0) ∧ t.sys.held = false ∧ t.sys.bootSrc = b.bootSrc ∧
        t.rd Reg.SEC_TRNG_OK 0 = 1 ∧ t.rd Reg.CIP_EPOCH_CUR 0 = min 65535 (s.rd Reg.CIP_EPOCH_RESV 0 + 1) ∧
        t.rd Reg.SEC_LIFECYCLE 0 = s.rd Reg.SEC_LIFECYCLE 0 ∧ (b.bootSrc = true → t.sys.bootMode = true ∧ t.shf.startable = true) ∧
        t.rd Reg.RST_HEWER_ACTIVE_LO 0 = 0xFFFFFFFF)

/-- The assay units take effect. R534, R536, R537, R540, R542, R543 and R545 with Table 17-3. -/
def Obligations.AssayCommandsTakeEffect : Prop :=
  ∀ (s : State) (dt : Nat),
    (∀ g : Granule, s.compares g.unit = true → guardUnit g.kind = g.unit → (s.pass g.unit).next ≤ g.index →
      g.written = true → (s.pass g.unit).attempts < 2 →
      Completes (.assayGranuleCheck dt g) s fun t =>
        t.pass g.unit = { s.pass g.unit with attempts := (s.pass g.unit).attempts + 1 } ∧ t.io = s.io ∧ RegsOnly [] s t) ∧
    (∀ g : Granule, s.compares g.unit = true → guardUnit g.kind = g.unit → (s.pass g.unit).next ≤ g.index →
      g.written = true → (s.pass g.unit).attempts = 2 → g.last = false →
      Completes (.assayGranuleCheck dt g) s fun t =>
        (t.pass g.unit).attempts = 0 ∧ t.rd Reg.ASY_SKIP_CNT g.unit = (s.rd Reg.ASY_SKIP_CNT g.unit + 1) % 2 ^ 32 ∧
        Raised t Ev.ASSAY_SKIP srcDevice [(1, g.unit), (2, g.index)] ∧
        RegsOnly [(Reg.ASY_SKIP_CNT, g.unit), (Reg.ASY_POS, g.unit)] s t) ∧
    (∀ g : Granule, s.compares g.unit = true → guardUnit g.kind = g.unit → (s.pass g.unit).next ≤ g.index →
      g.written = false → g.memErr = false → g.word = 0 → sumA g = g.stored →
      s.perturbed 4 = false → g.last = false →
      Completes (.assayGranuleCheck dt g) s fun t =>
        t.rd Reg.ASY_POS g.unit = g.index % 2 ^ 16 ∧ (t.pass g.unit).since = (s.pass g.unit).since ∧ (t.pass g.unit).attempts = 0 ∧
        t.io = s.io ∧ RegsOnly [(Reg.ASY_POS, g.unit)] s t) ∧
    (∀ g : Granule, s.compares g.unit = true → guardUnit g.kind = g.unit → (s.pass g.unit).next ≤ g.index →
      g.written = false → g.memErr = false → g.word = 0 → sumA g = g.stored →
      s.perturbed 4 = false → g.last = true → s.asy.checks = [] →
      Completes (.assayGranuleCheck dt g) s fun t =>
        t.rd Reg.ASY_POS g.unit = 0 ∧ t.rd Reg.ASY_PASS_CNT g.unit = (s.rd Reg.ASY_PASS_CNT g.unit + 1) % 2 ^ 32 ∧
        t.pass g.unit = { since := s.time + dt } ∧ t.io = s.io ∧
        RegsOnly [(Reg.ASY_POS, g.unit), (Reg.ASY_PASS_CNT, g.unit), (Reg.ASY_PASS_LATE, g.unit)] s t) ∧
    (∀ g : Granule, s.compares g.unit = true → guardUnit g.kind = g.unit → (s.pass g.unit).next ≤ g.index →
      g.written = false → g.memErr = false → g.word ≤ 1 → sumA g ≠ g.stored →
      sumB g ≠ g.stored → g.kind = 0 → g.last = false →
      Completes (.assayGranuleCheck dt g) s fun t =>
        t.rd Reg.ASY_MISMATCH_CNT g.unit = (s.rd Reg.ASY_MISMATCH_CNT g.unit + 1) % 2 ^ 32 ∧
        Raised t Ev.ASSAY_MISMATCH srcDevice [(1, g.unit), (2, g.index), (4, g.stored), (4, sumB g), (1, 0)] ∧
        RegsOnly [(Reg.ASY_MISMATCH_CNT, g.unit), (Reg.ASY_POS, g.unit)] s t) ∧
    (∀ g : Granule, s.compares g.unit = true → guardUnit g.kind = g.unit → (s.pass g.unit).next ≤ g.index →
      g.written = false → g.memErr = false → 2 ≤ g.word → sumA g = sumB g → g.last = false →
      Completes (.assayGranuleCheck dt g) s fun t =>
        t.rd Reg.ASY_REGEN_CNT g.unit = (s.rd Reg.ASY_REGEN_CNT g.unit + 1) % 2 ^ 32 ∧
        Raised t Ev.CHECK_REGENERATED srcDevice [(1, g.unit), (2, g.index), (4, g.stored), (4, sumA g)] ∧
        RegsOnly [(Reg.ASY_REGEN_CNT, g.unit), (Reg.ASY_POS, g.unit)] s t) ∧
    (∀ unit, s.compares unit = true → s.rdBit Reg.ASY_PASS_LATE unit = false →
      Completes (.assayPassLate dt unit) s fun t =>
        t.time = max (s.time + dt) ((s.pass unit).since + 2 * s.asyPeriod) ∧ t.rd Reg.ASY_PASS_LATE unit = 1 ∧
        Raised t Ev.ASSAY_PASS_LATE srcDevice [(1, unit), (2, s.rd Reg.ASY_POS unit)] ∧ RegsOnly [(Reg.ASY_PASS_LATE, unit)] s t) ∧
    (s.sys.configured = true → s.halted = false → s.rd Reg.ASY_STATE 0 = 0 →
      Completes (.assayCompareStart dt) s fun t =>
        t.rd Reg.ASY_STATE 0 = 1 ∧ t.addr % Config.cyclePos = 0 ∧
        (∀ u, u < 4 → t.rd Reg.ASY_POS u = 0 ∧ t.rd Reg.ASY_PASS_LATE u = 0 ∧ t.pass u = { since := t.time })) ∧
    (∀ unit u, s.transferOpen unit = true → (tget {} s.asy.xfers unit).refused = none →
      (tget {} s.asy.xfers unit).reason (unitType unit) (readXfer u) = none → s.perturbed 4 = false →
      Completes (.transferUnitRx dt unit u) s fun t =>
        tget {} t.asy.xfers unit =
          { typ := unitType unit, units := (tget {} s.asy.xfers unit).units + 1, alive := (readXfer u).alive, refused := none,
            data := (tget {} s.asy.xfers unit).data ++ (readXfer u).data } ∧
        t.io = s.io ∧ RegsOnly [] s t) ∧
    (∀ unit u c, s.transferOpen unit = true → (tget {} s.asy.xfers unit).refused = none →
      (tget {} s.asy.xfers unit).reason (unitType unit) (readXfer u) = some c →
      Completes (.transferUnitRx dt unit u) s fun t =>
        (tget {} t.asy.xfers unit).refused = some (c, (tget {} s.asy.xfers unit).units) ∧ (tget {} t.asy.xfers unit).data = [] ∧
        t.rd Reg.ASY_SUSPECT_CNT 0 = (s.rd Reg.ASY_SUSPECT_CNT 0 + 1) % 2 ^ 32 ∧
        Raised t Ev.CHECK_SUSPECT srcDevice [(1, unit), (1, (readXfer u).typ), (4, (tget {} s.asy.xfers unit).units), (1, c)] ∧
        RegsOnly [(Reg.ASY_SUSPECT_CNT, 0)] s t) ∧
    (∀ h mask l, Admitted s dt h 0 Op.ASY_CHECK → mask < 64 → s.rd Reg.ASY_STATE 0 = 1 →
      l = (List.range 4).filter (fun u => bitOf mask u && s.compares u) → l ≠ [] →
      Completes (.asyCheck dt h mask) s fun t =>
        t.asy.checks = s.asy.checks ++ [(l, h)] ∧ (s.halted = false → t.addr = nextCycle (s.addr + dt)) ∧
        (∀ u, u ∈ l → t.rd Reg.ASY_POS u = 0 ∧ t.pass u = { since := t.time }) ∧
        (∀ u, u < 4 → u ∉ l → t.rd Reg.ASY_POS u = s.rd Reg.ASY_POS u ∧ t.pass u = s.pass u) ∧ t.io = s.io) ∧
    (∀ h mask, Admitted s dt h 0 Op.ASY_CHECK → mask < 64 → s.rd Reg.ASY_STATE 0 ≠ 1 →
      Completes (.asyCheck dt h mask) s fun t => t.asy = s.asy ∧ Answered t h Op.ASY_CHECK 2 2 [] ∧ RegsOnly [] s t) ∧
    (∀ h src dst bytes u v, Admitted s dt h 0 Op.ASY_LOOPBACK → src % 64 = 0 → dst % 64 = 0 → bytes ≠ 0 →
      ({} : XferSt).reason (unitType 5) (readXfer u) = none → ({} : XferSt).reason (unitType 5) (readXfer v) = none → s.perturbed 4 = false →
      Completes (.asyLoopback dt h src dst bytes [u] [v]) s fun t =>
        Answered t h Op.ASY_LOOPBACK 0 0 [(4, 1)] ∧ RegsOnly [] s t ∧
        (h.noCpl = true → t.io.mem = memWrite s.io.mem dst (readXfer v).data)) ∧
    (∀ h src dst bytes u back c, Admitted s dt h 0 Op.ASY_LOOPBACK → src % 64 = 0 → dst % 64 = 0 → bytes ≠ 0 →
      ({} : XferSt).reason (unitType 5) (readXfer u) = some c →
      Completes (.asyLoopback dt h src dst bytes [u] back) s fun t =>
        Answered t h Op.ASY_LOOPBACK 2 c [(4, 0)] ∧ t.rd Reg.ASY_SUSPECT_CNT 0 = (s.rd Reg.ASY_SUSPECT_CNT 0 + 1) % 2 ^ 32 ∧
        RegsOnly [(Reg.ASY_SUSPECT_CNT, 0)] s t)

/-- The security block takes effect: random numbers, nonces, attestation, lifecycle, keys, anti-rollback, images and debug. R548, R552
to R554, R556, R557, R559, R560, R562 and R564. -/
def Obligations.SecurityCommandsTakeEffect : Prop :=
  ∀ (s : State) (dt : Nat),
    (∀ test, s.sec.failing.contains test = false →
      Completes (.secTrngFail dt test true) s fun t =>
        t.sec.failing = s.sec.failing ++ [test] ∧ t.rd Reg.SEC_TRNG_OK 0 = 0 ∧
        Raised t Ev.SEC_TRNG_FAIL srcDevice [(1, test), (1, 1)] ∧ RegsOnly [(Reg.SEC_TRNG_OK, 0)] s t) ∧
    (∀ test, s.sec.failing = [test] →
      Completes (.secTrngFail dt test false) s fun t =>
        t.sec.failing = [] ∧ t.rd Reg.SEC_TRNG_OK 0 = 1 ∧ Raised t Ev.SEC_TRNG_FAIL srcDevice [(1, test), (1, 0)] ∧
        RegsOnly [(Reg.SEC_TRNG_OK, 0)] s t) ∧
    (∀ h host, Admitted s dt h 0 Op.SEC_CHALLENGE → host % 64 = 0 → s.rdBit Reg.SEC_TRNG_OK 0 = true →
      Completes (.secChallenge dt h host) s fun t =>
        t.rd Reg.SEC_NONCE_VALID 0 = 1 ∧ t.sec.nonceAt = s.time + dt ∧
        (∃ n, n < 2 ^ 256 ∧ (∀ i, i < 8 → t.rd Reg.SEC_NONCE i = n / 2 ^ (32 * i) % 2 ^ 32) ∧
          Answered t h Op.SEC_CHALLENGE 0 0 [(12, n % 2 ^ 96)] ∧
          (h.noCpl = true → t.io.mem = memWrite s.io.mem host (leBytes 32 n))) ∧
        RegsOnly ((Reg.SEC_NONCE_VALID, 0) :: (List.range 8).map (fun i => (Reg.SEC_NONCE, i))) s t) ∧
    (s.rdBit Reg.SEC_NONCE_VALID 0 = true →
      Completes (.nonceExpiry dt) s fun t =>
        t.time = max (s.time + dt) (s.sec.nonceAt + 600 * Config.secondPos) ∧ t.rd Reg.SEC_NONCE_VALID 0 = 0 ∧
        (∀ i, i < 8 → t.rd Reg.SEC_NONCE i = 0) ∧ t.io = s.io) ∧
    (∀ h nonce host, Admitted s dt h 0 Op.SEC_ATTEST → host % 64 = 0 → s.rd Reg.SEC_LIFECYCLE 0 ≠ 3 →
      s.rdBit Reg.SEC_TRNG_OK 0 = true →
      Completes (.secAttest dt h nonce host) s fun t =>
        Answered t h Op.SEC_ATTEST 0 0 [] ∧ RegsOnly [] s t ∧ t.sec = s.sec ∧
        (h.noCpl = true → ∃ sig : List Nat, sig.length = 64 ∧
          t.io.mem = memWrite s.io.mem host ((s.elapse dt).report nonce ++ sig))) ∧
    (∀ h nonce host, Admitted s dt h 0 Op.SEC_ATTEST → host % 64 = 0 → s.rd Reg.SEC_LIFECYCLE 0 = 3 →
      Completes (.secAttest dt h nonce host) s fun t => Answered t h Op.SEC_ATTEST 2 8 [] ∧ RegsOnly [] s t) ∧
    (∀ h host, Admitted s dt h 0 Op.SEC_CERT_READ →
      Completes (.secCertRead dt h host) s fun t =>
        Answered t h Op.SEC_CERT_READ 0 0 [(2, s.certificate.length)] ∧ RegsOnly [] s t ∧
        (h.noCpl = true → t.io.mem = memWrite s.io.mem host s.certificate)) ∧
    (∀ h e, Admitted s dt h 0 Op.SEC_LIFECYCLE → s.rd Reg.SEC_LIFECYCLE 0 = 0 →
      Completes (.secLifecycle dt h e) s fun t =>
        let c := s.envelopeCause Op.SEC_LIFECYCLE true e
        (c.1 = 0 → c.2.getD 0 0 = 1 →
          t.rd Reg.SEC_LIFECYCLE 0 = 1 ∧ t.rd Reg.SEC_OPKEY_SLOT 0 = 0 ∧ tfind t.sec.opkeys 0 = some ((c.2.drop 4).take 32) ∧
          t.rd Reg.SEC_NONCE_VALID 0 = 0 ∧ Raised t Ev.SEC_LIFECYCLE_CHANGED srcDevice [(1, 0), (1, 1)] ∧
          Answered t h Op.SEC_LIFECYCLE 0 0 []) ∧
        (c.1 ≠ 0 → t.rd Reg.SEC_LIFECYCLE 0 = 0 ∧ t.sec.opkeys = s.sec.opkeys ∧
          t.rd Reg.SEC_ENV_BAD_CNT 0 = (s.rd Reg.SEC_ENV_BAD_CNT 0 + 1) % 2 ^ 32 ∧
          Raised t Ev.SEC_ENVELOPE_BAD srcDevice [(2, Op.SEC_LIFECYCLE), (1, c.1), (4, s.rd Reg.SEC_SERIAL_LO 0)] ∧
          Answered t h Op.SEC_LIFECYCLE 2 (c.1 + 1) [])) ∧
    (∀ h e, Admitted s dt h 0 Op.SEC_LIFECYCLE → s.rd Reg.SEC_LIFECYCLE 0 = 3 →
      Completes (.secLifecycle dt h e) s fun t => t.sec = s.sec ∧ Answered t h Op.SEC_LIFECYCLE 2 8 [] ∧ RegsOnly [] s t) ∧
    (∀ h e, Admitted s dt h 0 Op.SEC_OPKEY_ROTATE → s.operatorState = true → s.rd Reg.SEC_OPKEY_SLOT 0 < 3 →
      Completes (.secOpkeyRotate dt h e) s fun t =>
        let c := s.envelopeCause Op.SEC_OPKEY_ROTATE false e
        (c.1 = 0 →
          t.rd Reg.SEC_OPKEY_SLOT 0 = s.rd Reg.SEC_OPKEY_SLOT 0 + 1 ∧
          tfind t.sec.opkeys (s.rd Reg.SEC_OPKEY_SLOT 0 + 1) = some (c.2.take 32) ∧ t.rd Reg.SEC_NONCE_VALID 0 = 0 ∧
          Answered t h Op.SEC_OPKEY_ROTATE 0 0 []) ∧
        (c.1 ≠ 0 → t.sec.opkeys = s.sec.opkeys ∧ t.rd Reg.SEC_OPKEY_SLOT 0 = s.rd Reg.SEC_OPKEY_SLOT 0 ∧
          Answered t h Op.SEC_OPKEY_ROTATE 2 (c.1 + 1) [])) ∧
    (∀ h e, Admitted s dt h 0 Op.SEC_OPKEY_ROTATE → s.operatorState = false →
      Completes (.secOpkeyRotate dt h e) s fun t => t.sec = s.sec ∧ Answered t h Op.SEC_OPKEY_ROTATE 2 8 [] ∧ RegsOnly [] s t) ∧
    (∀ h, Admitted s dt h 0 Op.SEC_SVN_COMMIT → s.sec.staging = none → s.sec.run = none → s.otherBoots = false →
      s.rd Reg.SEC_SVN_OTP 0 < s.rd Reg.SEC_SVN_RUN 0 → s.rd Reg.SEC_SVN_RUN 0 < 64 →
      Completes (.secSvnCommit dt h) s fun t =>
        t.rd Reg.SEC_SVN_OTP 0 = s.rd Reg.SEC_SVN_RUN 0 ∧ t.rd Reg.SEC_VKEY_REVOKED 0 = s.rd Reg.SEC_VKEY_REVOKED 0 % 16 ∧
        Raised t Ev.SEC_SVN_ADVANCED srcDevice [(1, s.rd Reg.SEC_SVN_OTP 0), (1, s.rd Reg.SEC_SVN_RUN 0), (1, 0)] ∧
        Answered t h Op.SEC_SVN_COMMIT 0 0 [] ∧ RegsOnly [(Reg.SEC_SVN_OTP, 0), (Reg.SEC_VKEY_REVOKED, 0)] s t) ∧
    (∀ h, Admitted s dt h 0 Op.SEC_SVN_COMMIT → s.sec.staging.isSome = true →
      Completes (.secSvnCommit dt h) s fun t => t.sec = { s.sec with svnWaits := s.sec.svnWaits ++ [h] } ∧ t.io = s.io ∧ RegsOnly [] s t) ∧
    (∀ h length, Admitted s dt h 0 Op.SEC_IMAGE_STAGE → length ≠ 0 → s.sec.staging = none → tsorted s.asy.xfers = true →
      Completes (.secImageStage dt h length) s fun t =>
        t.sec = { s.sec with staging := some h } ∧ t.rd Reg.SEC_STAGING 0 = 1 ∧ tfind t.asy.xfers 3 = none ∧ t.io = s.io ∧
        RegsOnly [(Reg.SEC_STAGING, 0)] s t) ∧
    (∀ h x status, s.sec.staging = some h → s.sec.svnWaits = [] → x = tget {} s.asy.xfers 3 →
      status = s.imageStatus (x.refused.isNone && x.units != 0) x.data → tsorted s.sec.imgs = true →
      Completes (.secImageStaged dt) s fun t =>
        t.rd Reg.SEC_STAGING 0 = 0 ∧ t.sec.staging = none ∧
        tfind t.sec.imgs s.otherSlot = (if status = 0 then some x.data else none) ∧
        (status = 0 → tget 0 t.sec.meas 6 = Config.sha512 (leBytes 64 (tget 0 s.sec.meas 6) ++
          leBytes 64 (Config.sha512 (imgHeader x.data)))) ∧
        Raised t Ev.SEC_IMAGE_STAGED srcDevice [(1, s.otherSlot), (1, imgSvn x.data), (1, status)] ∧
        (if status = 0 then Answered t h Op.SEC_IMAGE_STAGE 0 0 [] else Answered t h Op.SEC_IMAGE_STAGE 2 0x0C []) ∧
        RegsOnly [(Reg.SEC_STAGING, 0)] s t) ∧
    (∀ h e, Admitted s dt h 0 Op.SEC_DEBUG_UNLOCK → s.operatorState = true →
      Completes (.secDebugUnlock dt h e) s fun t =>
        let c := s.envelopeCause Op.SEC_DEBUG_UNLOCK false e
        let scope := c.2.getD 0 0
        let minutes := c.2.getD 2 0 + 256 * c.2.getD 3 0
        (c.1 = 0 → 1 ≤ scope → scope ≤ 2 → 1 ≤ minutes → minutes ≤ 1440 →
          t.rd Reg.SEC_DEBUG 0 = scope ∧ t.sec.closeAt = s.time + dt + minutes * 60 * Config.secondPos ∧
          Raised t Ev.SEC_DEBUG srcDevice [(1, scope), (1, 1), (4, minutes)] ∧ Answered t h Op.SEC_DEBUG_UNLOCK 0 0 []) ∧
        (c.1 ≠ 0 → t.rd Reg.SEC_DEBUG 0 = s.rd Reg.SEC_DEBUG 0 ∧ Answered t h Op.SEC_DEBUG_UNLOCK 2 (c.1 + 1) [])) ∧
    (∀ h, Admitted s dt h 0 Op.SEC_DEBUG_LOCK → s.rd Reg.SEC_DEBUG 0 ≠ 0 →
      Completes (.secDebugLock dt h) s fun t =>
        t.rd Reg.SEC_DEBUG 0 = 0 ∧ Raised t Ev.SEC_DEBUG srcDevice [(1, s.rd Reg.SEC_DEBUG 0), (1, 0), (4, 0)] ∧
        Answered t h Op.SEC_DEBUG_LOCK 0 0 [] ∧ RegsOnly [(Reg.SEC_DEBUG, 0)] s t) ∧
    (s.rd Reg.SEC_DEBUG 0 ≠ 0 →
      Completes (.debugExpiry dt) s fun t =>
        t.time = max (s.time + dt) s.sec.closeAt ∧ t.rd Reg.SEC_DEBUG 0 = 0 ∧
        Raised t Ev.SEC_DEBUG srcDevice [(1, s.rd Reg.SEC_DEBUG 0), (1, 0), (4, 0)] ∧ RegsOnly [(Reg.SEC_DEBUG, 0)] s t)

/-- Self-test, configuration sets and host images take effect. R573, R575, R576, R586, R587, R591 to R593 and Table 19-7. -/
def Obligations.StartupCommandsTakeEffect : Prop :=
  ∀ (s : State) (dt : Nat),
    (∀ x : SelfTest, s.sys.starting = true → s.sys.bootMode = false → s.sys.tested = none → s.paired = false →
      Completes (.selftestResult dt x) s fun t =>
        t.sys.tested = some x ∧ t.sys.bootMode = x.fatal ∧ (x.fatal = true → t.sys.fatal = true ∧ t.shf.txIdle = true) ∧
        (x.fatal = false → t.shf.startable = true) ∧ (∀ u, u ∈ unusableUnits x → u ∈ t.ovm.unusable) ∧
        (x.trngOk = false → t.rd Reg.SEC_TRNG_OK 0 = 0) ∧ t.bkg.scrub = some 0 ∧
        t.bkg.patrol = (if x.hbmFailed then none else some 0) ∧
        Raised t Ev.SELFTEST_RESULT srcDevice
          [(1, ((testCounts x).zipIdx.map (fun e => if e.1 = 0 then 0 else 2 ^ e.2)).sum), (1, ofBool x.fatal)] ∧
        RegsOnly [(Reg.SEC_TRNG_OK, 0)] s t) ∧
    (∀ l, s.sys.loading = some l → l.set = none → (tget {} s.asy.xfers 2).units ≠ 0 → (tget {} s.asy.xfers 2).refused = none →
      s.setReason (s.arrived l) = none → s.halted = false →
      Completes (.configSetStage dt) s fun t =>
        t.addr = nextCycle (s.addr + dt) - 1 ∧ t.regs.setAsk = true ∧ t.sys.loading = some { l with set := some (s.arrived l) } ∧
        t.io = s.io ∧ RegsOnly [] s t) ∧
    (∀ l f i v, s.sys.loading = some l → l.set = none → (tget {} s.asy.xfers 2).units ≠ 0 → (tget {} s.asy.xfers 2).refused = none →
      s.setReason (s.arrived l) = none → s.halted = false → tsorted s.regs.staged = true → (s.arrived l).recs = [(f.base + f.stride * i, v)] →
      wordFields (f.base + f.stride * i) = [(f, i)] → f.kind = .cmt → (f.base + f.stride * i) % 4 = 0 →
      Completes (.configSetStage dt) s fun t => t.staged f i = bitsOf v f.lo f.width) ∧
    (∀ l h r, s.sys.loading = some l → l.host = some h → l.set = none → (tget {} s.asy.xfers 2).units ≠ 0 →
      (tget {} s.asy.xfers 2).refused = none → s.setReason (s.arrived l) = some r → r ≠ 0x11 →
      Completes (.configSetStage dt) s fun t =>
        t.sys.loading = none ∧ Raised t Ev.CONFIG_REJECTED srcDevice [(1, r), (1, l.source), (4, (s.arrived l).serial)] ∧
        Answered t h Op.CFG_LOAD 2 r [] ∧ t.regs = s.regs) ∧
    (∀ c, s.sys.storing = some c →
      Completes (.configStore dt true) s fun t =>
        tfind t.sys.nor s.storeSlot = some c.raw ∧ (∀ k, k ≠ s.storeSlot → tfind t.sys.nor k = tfind s.sys.nor k) ∧
        t.sys.storing = none ∧ (∀ h, s.sys.storeHost = some h → Answered t h Op.CFG_LOAD 0 0 [(4, c.serial), (4, c.crc)]) ∧
        RegsOnly [] s t) ∧
    (∀ c h, s.sys.storing = some c → s.sys.storeHost = some h →
      Completes (.configStore dt false) s fun t =>
        t.sys.nor = s.sys.nor ∧ t.sys.storing = none ∧ (∃ r, Answered t h Op.CFG_LOAD 1 r [(4, c.serial), (4, c.crc)]) ∧
        RegsOnly [] s t) ∧
    (∀ h address length store, Admitted s dt h 0 Op.CFG_LOAD → address % 64 = 0 → length ≠ 0 → s.sys.loading = none → s.gasping = false →
      tsorted s.asy.xfers = true →
      Completes (.cfgLoad dt h address length store) s fun t =>
        t.sys.loading = some { source := 3, host := some h, store := store } ∧ tfind t.asy.xfers 2 = none ∧ t.io = s.io ∧
        RegsOnly [] s t) ∧
    (∀ h address length store, Admitted s dt h 0 Op.CFG_LOAD → address % 64 = 0 → length ≠ 0 → s.sys.loading.isSome = true →
      Completes (.cfgLoad dt h address length store) s fun t =>
        t.sys = s.sys ∧ Raised t Ev.CONFIG_REJECTED srcDevice [(1, 2), (1, 3), (4, 0)] ∧ Answered t h Op.CFG_LOAD 2 2 [] ∧
        RegsOnly [] s t) ∧
    (∀ h, Admitted s dt h 0 Op.CFG_STATUS → s.sys.configured = true →
      Completes (.cfgStatus dt h) s fun t =>
        Answered t h Op.CFG_STATUS 0 0 [(4, s.sys.serial), (4, s.sys.cfgCrc),
          (1, 1 + 2 * ofBool s.sys.loading.isSome + 4 * s.sys.source)] ∧ t.sys = s.sys ∧ RegsOnly [] s t) ∧
    (∀ h address length units p, Admitted s dt h 0 Op.BOOT_LOAD → address % 64 = 0 → length ≠ 0 → s.sys.bootMode = true →
      p = (s.elapse dt).stripAll 3 units →
      Completes (.bootLoad dt h address length units) s fun t =>
        let status := s.imageStatus (p.2.refused.isNone && p.2.units != 0) p.2.data
        (status = 0 →
          t.sys.bootMode = false ∧ t.sys.tested = none ∧ t.sec.run = some p.2.data ∧ t.rd Reg.SEC_SVN_RUN 0 = imgSvn p.2.data ∧
          t.sec.imgs = s.sec.imgs ∧ Answered t h Op.BOOT_LOAD 0 0 []) ∧
        (status ≠ 0 → t.sys = s.sys ∧ t.sec = s.sec ∧ Answered t h Op.BOOT_LOAD 2 4 [])) ∧
    (∀ h address length units, Admitted s dt h 0 Op.BOOT_LOAD → address % 64 = 0 → length ≠ 0 → s.sys.bootMode = false →
      Completes (.bootLoad dt h address length units) s fun t => t.sys = s.sys ∧ Answered t h Op.BOOT_LOAD 2 3 [] ∧ RegsOnly [] s t) ∧
    (∀ h host x, Admitted s dt h 0 Op.SELFTEST_READ → s.sys.tested = some x →
      Completes (.selftestRead dt h host) s fun t =>
        Answered t h Op.SELFTEST_READ 0 0 [] ∧ RegsOnly [] s t ∧
        (h.noCpl = true → ∃ maps : List Nat, maps.length = 250 ∧
          t.io.mem = memWrite s.io.mem host ((testCounts x).map (min 255) ++ maps)))

/-- Background work and test perturbation take effect. R247, R598 to R602, R604, R606, R608, R611 to R613, R615, R616 and R619. -/
def Obligations.BackgroundCommandsTakeEffect : Prop :=
  ∀ (s : State) (dt : Nat),
    (∀ e : SramError, e.error = true → (e.scrub = true → s.bkg.scrub.isSome = true ∧ e.written = false) →
      e.uncorr = false → s.bkg.fixed ≠ some (e.addr, s.time + dt) →
      Completes (.scrubWord dt e) s fun t =>
        t.rd Reg.BKG_SRAM_CORR_CNT 0 = (s.rd Reg.BKG_SRAM_CORR_CNT 0 + 1) % 2 ^ 32 ∧
        (e.group * 65536 + e.row, s.time + dt) ∈ t.bkg.rows ∧
        RegsOnly [(Reg.BKG_SRAM_CORR_CNT, 0), (Reg.BKG_WEAK_ROWS, 0)] s t) ∧
    (∀ e : SramError, e.scrub = true → s.bkg.scrub.isSome = true → e.written = false → e.error = false →
      Completes (.scrubWord dt e) s fun t => t.bkg = { s.bkg with scrub := some (e.addr + 1) } ∧ t.io = s.io ∧ RegsOnly [] s t) ∧
    (∀ e : SramError, e.scrub = true → e.written = true →
      Completes (.scrubWord dt e) s fun t => t.bkg = s.bkg ∧ t.io = s.io ∧ RegsOnly [] s t) ∧
    (∀ e : SramError, e.uncorr = false → s.bkg.fixed = some (e.addr, s.time + dt) →
      Completes (.scrubWord dt e) s fun t => t.bkg.rows = s.bkg.rows ∧ t.io = s.io ∧ RegsOnly [] s t) ∧
    (∀ e : SramError, e.error = true → (e.scrub = true → s.bkg.scrub.isSome = true ∧ e.written = false) → e.uncorr = true → e.kind = 1 →
      Completes (.scrubWord dt e) s fun t =>
        t.rd Reg.BKG_SRAM_UNCORR_CNT 0 = (s.rd Reg.BKG_SRAM_UNCORR_CNT 0 + 1) % 2 ^ 32 ∧
        Raised t Ev.SCRUB_UNCORRECTABLE srcDevice [(4, e.addr), (1, 1), (1, 1)] ∧ RegsOnly [(Reg.BKG_SRAM_UNCORR_CNT, 0)] s t) ∧
    (∀ e : SramError, e.error = true → (e.scrub = true → s.bkg.scrub.isSome = true ∧ e.written = false) → e.uncorr = true → e.kind = 9 →
      Completes (.scrubWord dt e) s fun t => t.rd Reg.RST_ACTIVE 0 = 0x1FFF ∧ t.rd Reg.RST_CAUSE 0 = 0) ∧
    (∀ address region num, s.bkg.patrol.isSome = true →
      Completes (.hbmPatrol dt address region num true false) s fun t =>
        t.rd Reg.BKG_HBM_CORR_CNT 0 = (s.rd Reg.BKG_HBM_CORR_CNT 0 + 1) % 2 ^ 32 ∧ t.io = s.io ∧ RegsOnly [(Reg.BKG_HBM_CORR_CNT, 0)] s t) ∧
    (∀ address region num uncorr, s.bkg.patrol.isSome = true →
      Completes (.hbmPatrol dt address region num false uncorr) s fun t =>
        t.bkg = { s.bkg with patrol := some (address + 1) } ∧ t.io = s.io ∧ RegsOnly [] s t) ∧
    (∀ address num, s.bkg.patrol.isSome = true → s.queue num = none →
      Completes (.hbmPatrol dt address 0 num true true) s fun t =>
        t.rd Reg.BKG_HBM_UNCORR_CNT 0 = (s.rd Reg.BKG_HBM_UNCORR_CNT 0 + 1) % 2 ^ 32 ∧
        Raised t Ev.HBM_ECC srcDevice [(4, address), (1, 0)] ∧ RegsOnly [(Reg.BKG_HBM_UNCORR_CNT, 0)] s t) ∧
    (∀ hewerUse hbmUse, s.halted = false → s.bkg.tstFrom = none → s.bkg.armed = true →
      Completes (.bkgEpoch dt hewerUse hbmUse []) s fun t =>
        t.addr = ceilTo Config.epochPos (s.addr + dt) ∧
        t.rd Reg.BKG_HEWER_USE 0 = min hewerUse (if s.rdBit Reg.BKG_THROTTLED 0 then 75 else 300) ∧
        t.rd Reg.BKG_HBM_USE 0 = min hbmUse (if s.rdBit Reg.BKG_THROTTLED 0 then 50 else 200) ∧
        t.rd Reg.TST_LEFT 0 = (s.rd Reg.TST_LEFT 0 - 1) % 2 ^ 16 ∧ t.bkg.waits = [] ∧ t.io = s.io ∧
        RegsOnly [(Reg.BKG_HEWER_USE, 0), (Reg.BKG_HBM_USE, 0), (Reg.TST_LEFT, 0)] s t) ∧
    (∀ sensor v word, s.halted = false → s.bkg.tstFrom = none →
      hottest ((List.range 12).map (fun i => (i, (s.chan (36 + i)).vLast))) = some (sensor, word) → word = 4096 * v →
      -32768 ≤ v → v ≤ 32767 → s.bkg.tjSaid = false → 16 * (s.rd Reg.BKG_TJ_WARN 0 : Int) ≤ v →
      Completes (.tjUpdate dt) s fun t =>
        t.addr = ceilTo Config.cyclePos (s.addr + dt) ∧ t.rdInt Reg.BKG_TJ_MAX 0 = v ∧ t.bkg.tjSaid = true ∧ t.bkg.tjAt = t.time ∧
        t.bkg.tjSum = s.bkg.tjSum + s.rdInt Reg.BKG_TJ_MAX 0 * ((t.time - s.bkg.tjAt : Nat) : Int) ∧
        Raised t Ev.TEMP_HIGH srcDevice [(2, pattern 16 v), (1, sensor)] ∧ RegsOnly [(Reg.BKG_TJ_MAX, 0)] s t) ∧
    (∀ since, s.bkg.hotFrom = some since → s.paired = false →
      Completes (.thermalFault dt) s fun t => t.time = max (s.time + dt) (since + Config.secondPos) ∧ t.regs = s.regs ∧ t.io = s.io) ∧
    (∀ since, s.bkg.hotFrom = some since → s.paired = true →
      Completes (.thermalFault dt) s fun t => t.time = max (s.time + dt) (since + Config.secondPos) ∧ t.rd Reg.PAR_FAULTED 0 = 1) ∧
    (∀ m freq k, s.sys.configured = true → m < 184 → 10000 * (s.ageBase m - freq) = k * s.ageBase m →
      Completes (.ageMeasure dt [(m, freq)]) s fun t =>
        t.time = max (s.time + dt) s.ageDue ∧ t.bkg.measured = some t.time ∧
        tget (0, 0) t.bkg.ages m = (min 65535 k, s.rd Reg.BKG_LIFE_HOURS 0) ∧
        (∀ k, k ≠ m → tget (0, 0) t.bkg.ages k = tget (0, 0) s.bkg.ages k) ∧ RegsOnly [] s t) ∧
    Completes (.lifeRecord dt) s (fun t =>
      t.time = max (s.time + dt) (s.bkg.tjAt + hourPos - s.bkg.tjTime) ∧
      t.bkg.lifeTime = s.bkg.lifeTime + s.bkg.tjTime + (t.time - s.bkg.tjAt) ∧ t.bkg.tjAt = t.time ∧ t.bkg.tjTime = 0 ∧ t.bkg.tjSum = 0 ∧
      t.bkg.lifeSum = s.bkg.lifeSum + s.bkg.tjSum + s.rdInt Reg.BKG_TJ_MAX 0 * ((t.time - s.bkg.tjAt : Nat) : Int) ∧
      t.rd Reg.BKG_LIFE_HOURS 0 = (s.rd Reg.BKG_LIFE_HOURS 0 + 1) % 2 ^ 32 ∧
      RegsOnly [(Reg.BKG_LIFE_AVG_TJ, 0), (Reg.BKG_LIFE_HOT, 0), (Reg.BKG_LIFE_HOURS, 0)] s t) ∧
    (∀ r rest k, s.io.logWait = r :: rest → s.gasping = false → s.norBusy = false → s.bkg.logCount < 100 → s.bkg.sector = some k →
      (s.sector k).recs.length < sectorRecords →
      Completes (.logAppend dt) s fun t =>
        t.io.logWait = rest ∧
        (∃ alive, alive < 256 ∧ t.sector k = { s.sector k with recs := (s.sector k).recs ++ [r.bytes alive] }) ∧ RegsOnly [] s t) ∧
    (∀ r rest, s.io.logWait = r :: rest → s.gasping = false → s.norBusy = false → s.bkg.logSec = (s.elapse dt).second →
      100 ≤ s.bkg.logCount →
      Completes (.logAppend dt) s fun t =>
        t.rd Reg.BKG_LOG_DROP_CNT 0 = (s.rd Reg.BKG_LOG_DROP_CNT 0 + 1) % 2 ^ 32 ∧ t.bkg.sectors = s.bkg.sectors ∧
        RegsOnly [(Reg.BKG_LOG_DROP_CNT, 0)] s t) ∧
    (∀ h host, Admitted s dt h 0 Op.BKG_AGE_READ → host % 64 = 0 → s.gasping = false →
      Completes (.bkgAgeRead dt h host) s fun t =>
        Answered t h Op.BKG_AGE_READ 0 0 [] ∧ RegsOnly [] s t ∧
        (h.noCpl = true → t.io.mem = memWrite s.io.mem host ((List.range 184).flatMap (fun m =>
          leBytes 2 m ++ leBytes 2 (tget (0, 0) s.bkg.ages m).1 ++ leBytes 4 (tget (0, 0) s.bkg.ages m).2)))) ∧
    (∀ h detail, Admitted s dt h 0 Op.BKG_LOG_APPEND → s.gasping = false →
      Completes (.bkgLogAppend dt h detail) s fun t =>
        (∃ r, t.io.logWait = s.io.logWait ++ [r] ∧ r.code = 0x12F0 ∧ r.detail = (detail ++ List.replicate 12 0).take 12) ∧
        Answered t h Op.BKG_LOG_APPEND 0 0 [] ∧ RegsOnly [] s t) ∧
    (∀ h host x, Admitted s dt h 0 Op.BKG_LOG_READ → s.gasping = false →
      ((s.bkg.sectors.map (·.2)).filter (fun y => y.seq != 0)).find? (fun y => y.seq == x.seq) = some x →
      Completes (.bkgLogRead dt h x.seq 1 host) s fun t =>
        Answered t h Op.BKG_LOG_READ 0 0 [] ∧ RegsOnly [] s t ∧
        (h.noCpl = true → t.io.mem = memWrite s.io.mem host x.slots)) ∧
    (∀ value, s.inReset 0 = false → value % 65536 = 0x7E57 → s.bkg.armed = false → s.tstCondition = none → s.halted = false →
      s.rd Reg.TST_CHECK_COUNT 0 ≠ 0 →
      Completes (.tstArm dt value) s fun t =>
        t.bkg.armed = true ∧ t.addr = nextCycle (s.addr + dt) ∧ t.rd Reg.TST_ARM 0 = 0x7E57 ∧
        t.rd Reg.TST_EN 0 = value / 65536 % 2 ^ 5 ∧ t.rd Reg.TST_ACTIVE 0 = value / 65536 % 2 ^ 5 ∧
        t.rd Reg.TST_LEFT 0 = max 1 (s.rd Reg.TST_DURATION 0) % 2 ^ 16) ∧
    (∀ value c, s.inReset 0 = false → value % 65536 = 0x7E57 → s.bkg.armed = false → s.tstCondition = some c → s.bkg.tstFrom = none →
      Completes (.tstArm dt value) s fun t =>
        t.bkg = s.bkg ∧ Raised t Ev.TST_REFUSED srcDevice [(1, c)] ∧ RegsOnly [(Reg.TST_ARM, 0), (Reg.TST_EN, 0)] s t) ∧
    (∀ c, s.bkg.armed = true → s.tstOver = some c →
      Completes (.tstEnded dt) s fun t =>
        t.addr = (s.toNextCycle dt).addr ∧ t.bkg.armed = false ∧ t.rd Reg.TST_ACTIVE 0 = 0 ∧
        Raised t Ev.TST_ENDED srcDevice [(1, c), (4, s.bkg.altered)]) ∧
    (∀ k r, s.io.rates = [(k, r)] → r.folded ≠ 0 → r.window = (s.elapse dt).second →
      Completes (.foldedEventSecondEnd dt) s fun t =>
        t.time = ((s.elapse dt).second + 1) * Config.secondPos ∧ t.io.rates = [] ∧
        (∃ e, t.io.evlog.head? = some e ∧ e.code = k % 65536 ∧ e.folded = true ∧ e.src = r.src ∧
          e.detail = packItems (foldedDetail (k % 65536) r)) ∧ RegsOnly [] s t)

/-- What the block writes on a line it reads back: tributary-link frames (R145 to R148), Ralale markers, overheads and tubs (R169, R170,
R172, R174, R180, R181), mate frames (R387), carriage streams (R282), core headers (R265), transfer units (R542) and pin words (R401). -/
def Obligations.LineFormatsReadBack : Prop :=
  (∀ f : TrbFrame, f.word = true → f.crcOk = true → f.layout ≤ 1 → f.counter < 256 → f.slots.length = trbSlots f.layout →
    (∀ q ∈ f.slots, q.count < (if f.layout = 1 then 8192 else 512) ∧ q.data.length = slotBytes f.layout ∧ ∀ b ∈ q.data, b < 256) →
    f.bytes.length = 4860 ∧ readTrb f.layout f.bytes = f) ∧
  (∀ (f : RlkFrame) (ek : Bool) (prior : Nat), f.marker = true → f.markCrc = true → f.ohCrc = true → f.count < 256 → f.unit < 2 →
    f.linkId < 2 ^ 16 → f.ql < 16 → f.txStamp < 2 ^ 32 → f.rc.length = 5 → (∀ n ∈ f.rc, n < 2 ^ 32) → f.worstCid < 2 ^ 16 →
    f.worstCnt < 2 ^ 16 → f.echoStamp < 2 ^ 32 → f.echoAge < 2 ^ 32 → prior < 2 ^ 58 →
    (f.blocks ek prior).length = 8 ∧ readRlk ek prior (f.blocks ek prior) = f) ∧
  (∀ (u : Tub) (prior : Nat), u.hcrc = true → u.cid < 2 ^ 16 → u.seq < 2 ^ 16 → u.vbc < 256 → u.data.length = 56 →
    (∀ b ∈ u.data, b < 256) → prior < 2 ^ 58 → (u.blocks prior).length = 8 ∧ readTub prior (u.blocks prior) = u) ∧
  (∀ (f : MateFrame) (prior : Nat), f.marker = true → f.markCrc = true → f.ohCrc = true → f.laneNo < 8 → f.unit < 2 → f.role < 256 →
    f.cycle < 2 ^ 48 → f.parState < 8 → f.ql < 16 → f.echoCycle < 2 ^ 32 → f.echoNs < 2 ^ 32 → f.inSync < 256 → f.timSel < 256 →
    prior < 2 ^ 58 → readMate prior (f.blocks prior) = f) ∧
  (∀ (c : Carriage) (bad rest : List Nat), c.tag < 2 ^ 128 → c.iv < 2 ^ 48 → c.epoch < 2 ^ 16 → c.next < 2 ^ 16 → c.flags < 256 →
    c.len < 256 → c.mseq < 2 ^ 32 → bad.length = 64 → copyOk bad = false →
    readCarriage (c.bytes ++ rest) = some c ∧ readCarriage (bad ++ c.bytes ++ rest) = some c ∧ readCarriage bad = none) ∧
  (∀ pli, pli < 2 ^ 16 → readCore (sendCore pli) = .good pli) ∧
  (∀ (alive typ : Nat) (data : List Nat), alive < 256 → typ < 256 →
    data.length < 2 ^ 32 → (∀ b ∈ data, b < 256) → readXfer (xferBytes alive typ data) =
    { length := data.length, alive := alive, typ := typ, data := data, crcOk := true }) ∧
  (∀ w, w < 2 ^ 32 → (pinChips w).length = 68 ∧ readChips (pinChips w) = some w)
end

