-- ==== Sys2Proof/Laws/Tables.lean ====
section
/-! SUPPORT. What the table operations and the host-memory operations do: reads after writes, and the canonical form that every
write keeps. -/

set_option Elab.async false

namespace Sys2Proof.Machine

variable {V : Type}

theorem tfind_tset_same (t : Tab V) (q : Nat) (w : V) : tfind (tset t q w) q = some w := by
  induction t with
  | nil => simp [tset, tfind]
  | cons e rest ih =>
    obtain ⟨k, v⟩ := e
    unfold tset
    split
    · simp [tfind]
    · split
      · simp [tfind]
      · rename_i h1 h2
        simp [tfind, Ne.symm h2, ih]

theorem tfind_tset_other (t : Tab V) (q r : Nat) (w : V) (h : r ≠ q) : tfind (tset t q w) r = tfind t r := by
  induction t with
  | nil => simp [tset, tfind, Ne.symm h]
  | cons e rest ih =>
    obtain ⟨k, v⟩ := e
    unfold tset
    split
    · simp [tfind, Ne.symm h]
    · split
      · rename_i h2
        subst h2
        simp [tfind, Ne.symm h]
      · simp only [tfind, ih]

/-- A table entry is read back as written, and every other key reads as before. -/
theorem tfind_tset (t : Tab V) (q r : Nat) (w : V) : tfind (tset t q w) r = if r = q then some w else tfind t r := by
  split
  · next h => subst h; exact tfind_tset_same t r w
  · next h => exact tfind_tset_other t q r w h

theorem tget_tset (d : V) (t : Tab V) (q r : Nat) (w : V) : tget d (tset t q w) r = if r = q then w else tget d t r := by
  unfold tget
  rw [tfind_tset]
  split <;> rfl

/-- Every entry of a table meets a predicate after an entry that meets it is set. -/
theorem forall_tset {p : Nat × V → Prop} (t : Tab V) (q : Nat) (w : V) (ht : ∀ e ∈ t, p e) (hw : p (q, w)) :
    ∀ e ∈ tset t q w, p e := by
  induction t with
  | nil => intro e he; simp [tset] at he; exact he ▸ hw
  | cons x rest ih =>
    obtain ⟨k, v⟩ := x
    have hr : ∀ e ∈ rest, p e := fun e he => ht e (List.mem_cons_of_mem _ he)
    unfold tset
    intro e he
    split at he
    · rcases List.mem_cons.mp he with h | h
      · exact h ▸ hw
      · exact ht e h
    · split at he
      · rcases List.mem_cons.mp he with h | h
        · exact h ▸ hw
        · exact hr e h
      · rcases List.mem_cons.mp he with h | h
        · exact ht e (h ▸ List.mem_cons_self ..)
        · exact ih hr e h

/-- An entry that a table lists at a key is one of its entries. -/
theorem mem_of_tfind (t : Tab V) (q : Nat) (v : V) (h : tfind t q = some v) : (q, v) ∈ t := by
  induction t with
  | nil => simp [tfind] at h
  | cons x rest ih =>
    obtain ⟨k, u⟩ := x
    unfold tfind at h
    split at h
    · next hk => cases h; subst hk; exact List.mem_cons_self ..
    · exact List.mem_cons_of_mem _ (ih h)

/-! ### Rising keys -/

/-- A table's keys are all above a number and rise strictly. -/
def above : Nat → Tab V → Prop
  | _, [] => True
  | n, (k, _) :: rest => n < k ∧ above k rest

theorem above_mono {m n : Nat} (h : m ≤ n) : ∀ {t : Tab V}, above n t → above m t
  | [], _ => trivial
  | (_, _) :: _, ha => ⟨Nat.lt_of_le_of_lt h ha.1, ha.2⟩

theorem tsorted_cons (k : Nat) (v : V) : ∀ t : Tab V, tsorted ((k, v) :: t) = true ↔ above k t
  | [] => by simp [tsorted, above]
  | (b, w) :: rest => by
    rw [tsorted, Bool.and_eq_true, decide_eq_true_iff, above, tsorted_cons b w rest]

theorem tsorted_above (t : Tab V) : tsorted t = true ↔ t = [] ∨ ∃ k v r, t = (k, v) :: r ∧ above k r := by
  cases t with
  | nil => simp [tsorted]
  | cons e r =>
    obtain ⟨k, v⟩ := e
    rw [tsorted_cons]
    constructor
    · intro h; exact .inr ⟨k, v, r, rfl, h⟩
    · rintro (h | ⟨_, _, _, h, ha⟩)
      · cases h
      · cases h; exact ha

theorem above_tset (n q : Nat) (w : V) (hq : n < q) : ∀ t : Tab V, above n t → above n (tset t q w)
  | [], _ => ⟨hq, trivial⟩
  | (k, v) :: rest, h => by
    unfold tset
    split
    · next h1 => exact ⟨hq, h1, h.2⟩
    · split
      · next h2 => subst h2; exact ⟨hq, h.2⟩
      · next h1 h2 =>
        exact ⟨h.1, above_tset k q w (by omega) rest h.2⟩

theorem above_tdel (n q : Nat) : ∀ t : Tab V, above n t → above n (tdel t q)
  | [], _ => trivial
  | (k, v) :: rest, h => by
    unfold tdel
    split
    · exact above_mono (Nat.le_of_lt h.1) h.2
    · exact ⟨h.1, above_tdel k q rest h.2⟩

/-- Setting an entry keeps a table's keys rising. -/
theorem tsorted_tset (t : Tab V) (q : Nat) (w : V) (h : tsorted t = true) : tsorted (tset t q w) = true := by
  cases t with
  | nil => simp [tset, tsorted]
  | cons e rest =>
    obtain ⟨k, v⟩ := e
    rw [tsorted_cons] at h
    unfold tset
    split
    · next h1 => rw [tsorted_cons]; exact ⟨h1, h⟩
    · split
      · next h2 => subst h2; rw [tsorted_cons]; exact h
      · next h1 h2 => rw [tsorted_cons]; exact above_tset k q w (by omega) rest h

/-- Deleting an entry keeps a table's keys rising. -/
theorem tsorted_tdel (t : Tab V) (q : Nat) (h : tsorted t = true) : tsorted (tdel t q) = true := by
  cases t with
  | nil => simp [tdel, tsorted]
  | cons e rest =>
    obtain ⟨k, v⟩ := e
    rw [tsorted_cons] at h
    unfold tdel
    split
    · exact (tsorted_above rest).mpr (by cases rest with
        | nil => exact .inl rfl
        | cons x r => obtain ⟨b, u⟩ := x; exact .inr ⟨b, u, r, rfl, h.2⟩)
    · rw [tsorted_cons]; exact above_tdel k q rest h

theorem mem_tdel (t : Tab V) (q : Nat) (e : Nat × V) (h : e ∈ tdel t q) : e ∈ t := by
  induction t with
  | nil => simp [tdel] at h
  | cons x rest ih =>
    obtain ⟨k, v⟩ := x
    unfold tdel at h
    split at h
    · exact List.mem_cons_of_mem _ h
    · rcases List.mem_cons.mp h with h | h
      · exact h ▸ List.mem_cons_self ..
      · exact List.mem_cons_of_mem _ (ih h)

/-- In a table with rising keys a deleted key is listed no more. -/
theorem tfind_above (n q : Nat) (h : q ≤ n) : ∀ t : Tab V, above n t → tfind t q = none
  | [], _ => rfl
  | (k, v) :: rest, ha => by
    unfold tfind
    rw [if_neg (by have := ha.1; omega)]
    exact tfind_above n q h rest (above_mono (Nat.le_of_lt ha.1) ha.2)

theorem tfind_tdel (t : Tab V) (q r : Nat) (hs : tsorted t = true) :
    tfind (tdel t q) r = if r = q then none else tfind t r := by
  induction t with
  | nil => simp [tdel, tfind]
  | cons x rest ih =>
    obtain ⟨k, v⟩ := x
    have ha := (tsorted_cons k v rest).mp hs
    have hr : tsorted rest = true := by
      cases rest with
      | nil => rfl
      | cons y r' => obtain ⟨b, u⟩ := y; exact (tsorted_cons b u r').mpr ha.2
    unfold tdel
    split
    · next hk =>
      subst hk
      split
      · next hr' => subst hr'; exact tfind_above _ _ (Nat.le_refl _) rest ha
      · next hne => simp [tfind, Ne.symm hne]
    · next hk =>
      simp only [tfind, ih hr]
      split
      · next h1 => subst h1; simp [hk]
      · rfl

/-! ### Host memory -/

theorem memWf_iff (m : List Host.Cell) : memWf m = true ↔ tsorted m = true ∧ ∀ c ∈ m, c.2 ≠ memDefault := by
  simp [memWf]

/-- Writing one byte keeps host memory's canonical form. -/
theorem memPut_wf (m : List Host.Cell) (a : Nat) (b : Byte) (h : memWf m = true) : memWf (memPut m a b) = true := by
  rw [memWf_iff] at *
  unfold memPut
  split
  · exact ⟨tsorted_tdel m a h.1, fun c hc => h.2 c (mem_tdel m a c hc)⟩
  · next hb => exact ⟨tsorted_tset m a b h.1, forall_tset (p := fun c => c.2 ≠ memDefault) m a b h.2 hb⟩

/-- Writing a run of bytes keeps host memory's canonical form. -/
theorem memWrite_wf (bs : List Nat) : ∀ (m : List Host.Cell) (a : Nat), memWf m = true → memWf (memWrite m a bs) = true := by
  induction bs with
  | nil => intro m a h; exact h
  | cons b rest ih => intro m a h; exact ih _ _ (memPut_wf m a _ h)

/-- A byte of canonical host memory reads as the last one written there, every other as before. -/
theorem memGet_memPut (m : List Host.Cell) (a c : Nat) (b : Byte) (h : memWf m = true) :
    memGet (memPut m a b) c = if c = a then b else memGet m c := by
  rw [memWf_iff] at h
  unfold memPut memGet tget
  split
  · next hb =>
    rw [tfind_tdel m a c h.1]
    split
    · subst hb; rfl
    · rfl
  · rw [tfind_tset]
    split <;> rfl

/-- A run of bytes written leaves every byte outside it as it was. -/
theorem memGet_memWrite_outside (bs : List Nat) : ∀ (m : List Host.Cell) (a c : Nat), memWf m = true →
    (c < a ∨ a + bs.length ≤ c) → memGet (memWrite m a bs) c = memGet m c := by
  induction bs with
  | nil => intro m a c _ _; rfl
  | cons b rest ih =>
    intro m a c hm hc
    simp only [List.length_cons] at hc
    rw [memWrite, ih _ _ _ (memPut_wf m a _ hm) (by omega), memGet_memPut m a c _ hm, if_neg (by omega)]

/-- A run of bytes written reads back. -/
theorem memGet_memWrite_inside (bs : List Nat) : ∀ (m : List Host.Cell) (a k : Nat) (hk : k < bs.length), memWf m = true →
    memGet (memWrite m a bs) (a + k) = BitVec.ofNat 8 bs[k] := by
  induction bs with
  | nil => intro m a k hk; simp at hk
  | cons b rest ih =>
    intro m a k hk hm
    cases k with
    | zero =>
      rw [memWrite, memGet_memWrite_outside rest _ _ _ (memPut_wf m a _ hm) (by omega), memGet_memPut m a _ _ hm]
      simp
    | succ j =>
      have := ih (memPut m a (BitVec.ofNat 8 b)) (a + 1) j (by simpa using hk) (memPut_wf m a _ hm)
      rw [memWrite, show a + (j + 1) = a + 1 + j by omega, this]
      simp

end Sys2Proof.Machine
end

