-- ==== Sys2Proof/Laws/Keeps.lean ====
section
/-! SUPPORT. What every operation of the block keeps, as one relation that composes: the queue stands, time and the count of
free values never run backward, and the invariant's clauses carry over. -/

set_option Elab.async false

namespace Sys2Proof.Machine

/-- What holds of every state an operation makes from another. -/
structure Keeps (s t : State) : Prop where
  pend : t.pending = s.pending
  time : s.time ≤ t.time
  ctr  : s.freeCtr ≤ t.freeCtr
  dco  : dcoOk s.dco → dcoOk t.dco
  io   : ioOk s.io → ioOk t.io

theorem Keeps.refl (s : State) : Keeps s s := ⟨rfl, Nat.le_refl _, Nat.le_refl _, id, id⟩

theorem Keeps.trans {s t u : State} (h : Keeps s t) (k : Keeps t u) : Keeps s u :=
  ⟨k.pend.trans h.pend, h.time.trans k.time, h.ctr.trans k.ctr, fun x => k.dco (h.dco x), fun x => k.io (h.io x)⟩

theorem Keeps.inv {s t : State} (h : Keeps s t) (i : Inv s) : Inv t := ⟨h.dco i.1, h.io i.2⟩

/-- Changing parts other than the clock, the DCO, the free values, the queue and the host side. -/
theorem Keeps.upd {a s : State} (h : Keeps a s) {ad regs shf tim flt prt rlk frm map ovm qmg feeds pm cip par eng asy bkg sec sys} :
    Keeps a ⟨s.pending, s.time, ad, s.dco, s.freeCtr, regs, s.io, shf, tim, flt, prt, rlk, frm, map, ovm, qmg, feeds, pm, cip,
      par, eng, asy, bkg, sec, sys⟩ :=
  ⟨h.pend, h.time, h.ctr, h.dco, h.io⟩

/-- Changing the host side as well. -/
theorem Keeps.updIo {a s : State} (h : Keeps a s)
    {ad regs io shf tim flt prt rlk frm map ovm qmg feeds pm cip par eng asy bkg sec sys} (hio : ioOk s.io → ioOk io) :
    Keeps a ⟨s.pending, s.time, ad, s.dco, s.freeCtr, regs, io, shf, tim, flt, prt, rlk, frm, map, ovm, qmg, feeds, pm, cip,
      par, eng, asy, bkg, sec, sys⟩ :=
  ⟨h.pend, h.time, h.ctr, h.dco, fun x => hio (h.io x)⟩

/-- Drawing free values as well. -/
theorem Keeps.updCtr {a s : State} (h : Keeps a s)
    {ad n regs shf tim flt prt rlk frm map ovm qmg feeds pm cip par eng asy bkg sec sys} :
    Keeps a ⟨s.pending, s.time, ad, s.dco, s.freeCtr + n, regs, s.io, shf, tim, flt, prt, rlk, frm, map, ovm, qmg, feeds, pm, cip,
      par, eng, asy, bkg, sec, sys⟩ :=
  ⟨h.pend, h.time, h.ctr.trans (Nat.le_add_right _ _), h.dco, h.io⟩

/-- Resetting the DCO as well. -/
theorem Keeps.updDco {a s : State} (h : Keeps a s) {ad regs shf tim flt prt rlk frm map ovm qmg feeds pm cip par eng asy bkg sec sys} :
    Keeps a ⟨s.pending, s.time, ad, 0, s.freeCtr, regs, s.io, shf, tim, flt, prt, rlk, frm, map, ovm, qmg, feeds, pm, cip,
      par, eng, asy, bkg, sec, sys⟩ :=
  ⟨h.pend, h.time, h.ctr, fun _ => by simp [dcoOk, dcoLimit], h.io⟩

theorem Keeps.ite {a s t : State} {c : Prop} [Decidable c] (h : Keeps a s) (k : Keeps a t) : Keeps a (if c then s else t) := by
  split <;> assumption

theorem Keeps.foldl {α : Type} {f : State → α → State} (hf : ∀ b x, Keeps b (f b x)) (l : List α) :
    ∀ {a s : State}, Keeps a s → Keeps a (l.foldl f s) := by
  induction l with
  | nil => intro a s h; exact h
  | cons x r ih => intro a s h; exact ih (h.trans (hf s x))

theorem Keeps.iteFst {α : Type} {a : State} {x y : State × α} {c : Prop} [Decidable c] (h : Keeps a x.1) (k : Keeps a y.1) :
    Keeps a (if c then x else y).1 := by
  split <;> assumption

theorem Keeps.foldlFst {α β : Type} {f : State × β → α → State × β} (hf : ∀ b x, Keeps b.1 (f b x).1) (l : List α) :
    ∀ {a : State} {s : State × β}, Keeps a s.1 → Keeps a (l.foldl f s).1 := by
  induction l with
  | nil => intro a s h; exact h
  | cons x r ih => intro a s h; exact ih (h.trans (hf s x))

theorem Keeps.dite {a s t : State} {c : Bool} (h : Keeps a s) (k : Keeps a t) :
    Keeps a (match c with | true => s | false => t) := by
  cases c <;> assumption

/-! ### The host side -/

/-- Changing anything of the host side but memory and the event queues' own state. -/
theorem ioOk.upd {io : IoSt} (h : ioOk io)
    {cnt heldCpl vecs msix sev evlog cpllog logWait delivered rates busMaster d3hot fetch stale enCycle resumeAt laps linkWas unbound} :
    ioOk ⟨io.mem, cnt, io.evq, heldCpl, vecs, msix, sev, evlog, cpllog, logWait, delivered, rates, busMaster, d3hot, fetch, stale,
      enCycle, resumeAt, laps, linkWas, unbound⟩ := h

/-- Writing host memory as well. -/
theorem ioOk.updMem {io : IoSt} (h : ioOk io) {b : Nat} {bs : List Nat}
    {cnt heldCpl vecs msix sev evlog cpllog logWait delivered rates busMaster d3hot fetch stale enCycle resumeAt laps linkWas unbound} :
    ioOk ⟨memWrite io.mem b bs, cnt, io.evq, heldCpl, vecs, msix, sev, evlog, cpllog, logWait, delivered, rates, busMaster, d3hot,
      fetch, stale, enCycle, resumeAt, laps, linkWas, unbound⟩ := ⟨memWrite_wf bs _ _ h.1, h.2⟩

/-- Setting an event queue's own state with at most 64 events held as well. -/
theorem ioOk.updEvq {io : IoSt} (h : ioOk io) {q : Nat} {e : EvqSt} (he : e.held.length ≤ 64)
    {cnt heldCpl vecs msix sev evlog cpllog logWait delivered rates busMaster d3hot fetch stale enCycle resumeAt laps linkWas unbound} :
    ioOk ⟨io.mem, cnt, tset io.evq q e, heldCpl, vecs, msix, sev, evlog, cpllog, logWait, delivered, rates, busMaster, d3hot,
      fetch, stale, enCycle, resumeAt, laps, linkWas, unbound⟩ :=
  ⟨h.1, forall_tset (p := fun e => e.2.held.length ≤ 64) io.evq q e h.2 he⟩

/-- Changing the event queues' own state but for what they hold as well. -/
theorem ioOk.mapEvq {io : IoSt} (h : ioOk io) {f : Nat × EvqSt → Nat × EvqSt} (hf : ∀ e, (f e).2.held = e.2.held)
    {cnt heldCpl vecs msix sev evlog cpllog logWait delivered rates busMaster d3hot fetch stale enCycle resumeAt laps linkWas unbound} :
    ioOk ⟨io.mem, cnt, io.evq.map f, heldCpl, vecs, msix, sev, evlog, cpllog, logWait, delivered, rates, busMaster, d3hot,
      fetch, stale, enCycle, resumeAt, laps, linkWas, unbound⟩ := by
  refine ⟨h.1, fun e he => ?_⟩
  obtain ⟨x, hx, rfl⟩ := List.mem_map.mp he
  rw [hf]
  exact h.2 x hx

theorem ioOk.ite {x y : IoSt} {c : Prop} [Decidable c] (h : ioOk x) (k : ioOk y) : ioOk (if c then x else y) := by
  split <;> assumption

theorem ioOk.foldl {α : Type} {f : IoSt → α → IoSt} (hf : ∀ b x, ioOk b → ioOk (f b x)) (l : List α) :
    ∀ {s : IoSt}, ioOk s → ioOk (l.foldl f s) := by
  induction l with
  | nil => intro s h; exact h
  | cons x r ih => intro s h; exact ih (hf s x h)

/-- An event queue's own state as the host side holds it. -/
theorem ioOk.held {io : IoSt} (h : ioOk io) (q : Nat) : (tget ({} : EvqSt) io.evq q).held.length ≤ 64 := by
  unfold tget
  cases hq : tfind io.evq q with
  | none => simp
  | some e => exact h.2 _ (mem_of_tfind _ _ _ hq)

end Sys2Proof.Machine
end

