-- ==== Sys2Proof/Laws/KeepsOps.lean ====
section
/-! SUPPORT. What the operations of Machine/Ops.lean keep. -/

set_option Elab.async false

namespace Sys2Proof.Machine

theorem State.wr_keeps {base : State} {s : State} {f : Fld} {i v : Nat} (hss : Keeps base s) :
    Keeps base (State.wr s f i v) := by
  unfold State.wr
  try dsimp only
  repeat' first
    | with_reducible assumption | fail_if_no_progress with_reducible apply Keeps.upd | intro _

theorem State.wrInt_keeps {base : State} {s : State} {f : Fld} {i : Nat} {v : Int} (hss : Keeps base s) :
    Keeps base (State.wrInt s f i v) := by
  unfold State.wrInt
  try dsimp only
  repeat' first
    | with_reducible assumption | with_reducible apply State.wr_keeps | intro _

theorem State.wrBit_keeps {base : State} {s : State} {f : Fld} {i : Nat} {b : Bool} (hss : Keeps base s) :
    Keeps base (State.wrBit s f i b) := by
  unfold State.wrBit
  try dsimp only
  repeat' first
    | with_reducible assumption | with_reducible apply State.wr_keeps | intro _

theorem State.countBy_keeps {base : State} {s : State} {f : Fld} {i n : Nat} (hss : Keeps base s) :
    Keeps base (State.countBy s f i n) := by
  unfold State.countBy
  try dsimp only
  repeat' first
    | with_reducible assumption | with_reducible apply State.wr_keeps | intro _

theorem State.count_keeps {base : State} {s : State} {f : Fld} {i : Nat} (hss : Keeps base s) :
    Keeps base (State.count s f i) := by
  unfold State.count
  try dsimp only
  repeat' first
    | with_reducible assumption | with_reducible apply State.countBy_keeps | intro _

/-- Time never runs backward. -/
theorem State.elapse_keeps {base s : State} {n : Nat} (hs : Keeps base s) : Keeps base (s.elapse n) :=
  ⟨hs.pend, hs.time.trans (Nat.le_add_right _ _), hs.ctr, hs.dco, hs.io⟩

theorem State.waitAddr_keeps {base : State} {s : State} {a : Nat} (hss : Keeps base s) :
    Keeps base (State.waitAddr s a) := by
  unfold State.waitAddr
  try dsimp only
  repeat' first
    | with_reducible assumption | with_reducible apply State.elapse_keeps | with_reducible apply Keeps.ite
    | intro _ | split

theorem State.whenAddr_keeps {base : State} {s : State} {a : Nat} {f : State → State} (hss : Keeps base s) (hf : ∀ b, Keeps b (f b)) :
    Keeps base (State.whenAddr s a f) := by
  unfold State.whenAddr
  try dsimp only
  repeat' first
    | with_reducible assumption | with_reducible exact Keeps.refl _ | with_reducible refine Keeps.trans ?_ (hf _)
    | with_reducible apply State.waitAddr_keeps | with_reducible apply Keeps.ite | intro _ | split

theorem State.toBoundary_keeps {base : State} {s : State} {dt m : Nat} (hss : Keeps base s) :
    Keeps base (State.toBoundary s dt m) := by
  unfold State.toBoundary
  try dsimp only
  repeat' first
    | with_reducible assumption | with_reducible apply State.elapse_keeps | with_reducible apply State.waitAddr_keeps
    | intro _

theorem State.untilTime_keeps {base : State} {s : State} {dt t : Nat} (hss : Keeps base s) :
    Keeps base (State.untilTime s dt t) := by
  unfold State.untilTime
  try dsimp only
  repeat' first
    | with_reducible assumption | with_reducible apply State.elapse_keeps | intro _

theorem State.toNextCycle_keeps {base : State} {s : State} {dt : Nat} (hss : Keeps base s) :
    Keeps base (State.toNextCycle s dt) := by
  unfold State.toNextCycle
  try dsimp only
  repeat' first
    | with_reducible assumption | with_reducible apply State.elapse_keeps | with_reducible apply State.waitAddr_keeps
    | intro _

theorem State.atEntry_keeps {base : State} {s : State} {dt m cls : Nat} (hss : Keeps base s) :
    Keeps base (State.atEntry s dt m cls) := by
  unfold State.atEntry
  try dsimp only
  repeat' first
    | with_reducible assumption | with_reducible exact Keeps.refl _ | with_reducible apply State.elapse_keeps
    | with_reducible apply State.waitAddr_keeps | with_reducible apply Keeps.ite | intro _ | split

theorem State.draw_keeps {base : State} {s : State} (hss : Keeps base s) :
    Keeps base (State.draw s) := by
  unfold State.draw
  try dsimp only
  repeat' first
    | with_reducible assumption | fail_if_no_progress with_reducible apply Keeps.upd | fail_if_no_progress with_reducible apply Keeps.updCtr
    | intro _

theorem IoSt.wr_keeps {io : IoSt} {f : Fld} {i v : Nat} (hsio : ioOk io) :
    ioOk (IoSt.wr io f i v) := by
  unfold IoSt.wr
  try dsimp only
  repeat' first
    | with_reducible assumption | fail_if_no_progress with_reducible apply ioOk.upd | fail_if_no_progress with_reducible apply ioOk.updMem
    | fail_if_no_progress with_reducible apply ioOk.updEvq | fail_if_no_progress with_reducible apply ioOk.held
    | intro _

theorem IoSt.countBy_keeps {io : IoSt} {f : Fld} {i n : Nat} (hsio : ioOk io) :
    ioOk (IoSt.countBy io f i n) := by
  unfold IoSt.countBy
  try dsimp only
  repeat' first
    | with_reducible assumption | with_reducible apply State.wr_keeps | with_reducible apply IoSt.wr_keeps
    | fail_if_no_progress with_reducible apply ioOk.upd | fail_if_no_progress with_reducible apply ioOk.updMem
    | fail_if_no_progress with_reducible apply ioOk.updEvq | fail_if_no_progress with_reducible apply ioOk.held
    | intro _

theorem IoSt.sendMsg_keeps {io : IoSt} {v : Nat} (hsio : ioOk io) :
    ioOk (IoSt.sendMsg io v) := by
  unfold IoSt.sendMsg
  try dsimp only
  repeat' first
    | with_reducible assumption | with_reducible apply State.countBy_keeps | with_reducible apply IoSt.countBy_keeps
    | with_reducible apply ioOk.ite | fail_if_no_progress with_reducible apply ioOk.upd | fail_if_no_progress with_reducible apply ioOk.updMem
    | fail_if_no_progress with_reducible apply ioOk.updEvq | fail_if_no_progress with_reducible apply ioOk.held
    | intro _ | split

theorem State.countRecord_keeps {s : State} {io : IoSt} {v : Nat} {now : Bool} (hsio : ioOk io) :
    ioOk (State.countRecord s io v now) := by
  unfold State.countRecord
  try dsimp only
  repeat' first
    | with_reducible assumption | with_reducible apply State.count_keeps | with_reducible apply IoSt.sendMsg_keeps
    | with_reducible apply ioOk.ite | fail_if_no_progress with_reducible apply ioOk.upd | fail_if_no_progress with_reducible apply ioOk.updMem
    | fail_if_no_progress with_reducible apply ioOk.updEvq | fail_if_no_progress with_reducible apply ioOk.held
    | intro _ | split

theorem IoSt.lap_keeps {io : IoSt} {f : Fld} {i : Nat} {idx : Nat} (hsio : ioOk io) :
    ioOk (IoSt.lap io f i idx) := by
  unfold IoSt.lap
  try dsimp only
  repeat' first
    | with_reducible assumption | with_reducible apply ioOk.ite | fail_if_no_progress with_reducible apply ioOk.upd
    | fail_if_no_progress with_reducible apply ioOk.updMem | fail_if_no_progress with_reducible apply ioOk.updEvq
    | fail_if_no_progress with_reducible apply ioOk.held | intro _ | split

theorem State.evqPut_keeps {s : State} {io : IoSt} {q : Nat} {r : EvRec} (hsio : ioOk io) :
    ioOk (State.evqPut s io q r) := by
  unfold State.evqPut
  try dsimp only
  repeat' first
    | with_reducible assumption | with_reducible apply State.countRecord_keeps | with_reducible apply IoSt.lap_keeps
    | with_reducible apply State.wr_keeps | with_reducible apply IoSt.wr_keeps | with_reducible apply ioOk.ite
    | fail_if_no_progress with_reducible apply ioOk.upd | fail_if_no_progress with_reducible apply ioOk.updMem
    | fail_if_no_progress with_reducible apply ioOk.updEvq | fail_if_no_progress with_reducible apply ioOk.held
    | intro _ | split

theorem State.evqDrop_keeps {_s : State} {io : IoSt} {q : Nat} {r : EvRec} (hsio : ioOk io) :
    ioOk (State.evqDrop _s io q r) := by
  unfold State.evqDrop
  try dsimp only
  repeat' first
    | with_reducible assumption | with_reducible apply State.countBy_keeps | with_reducible apply IoSt.countBy_keeps
    | with_reducible apply ioOk.ite | fail_if_no_progress with_reducible apply ioOk.upd | fail_if_no_progress with_reducible apply ioOk.updMem
    | fail_if_no_progress with_reducible apply ioOk.updEvq | fail_if_no_progress with_reducible apply ioOk.held
    | intro _ | split

/-- An overflowing queue's own state keeps the events it holds. -/
theorem ioOk.overEvq {io : IoSt} (h : ioOk io) (q n : Nat) :
    ioOk { io with evq := tmod {} io.evq q (fun e => { e with inOver := true, drops := n }) } :=
  ioOk.updEvq (e := { tget {} io.evq q with inOver := true, drops := n }) h (ioOk.held h q)

theorem State.evqRoom_keeps {s : State} {io : IoSt} {q : Nat} {r : EvRec} (hsio : ioOk io) : ioOk (State.evqRoom s io q r) := by
  unfold State.evqRoom
  split
  · exact State.evqDrop_keeps hsio
  · split
    · dsimp only
      split
      · exact State.evqDrop_keeps (ioOk.overEvq (State.evqPut_keeps hsio) q 0)
      · exact State.evqDrop_keeps (ioOk.overEvq hsio q 0)
    · exact State.evqPut_keeps hsio

/-- At most 64 events are held (R467). -/
theorem State.evqHold_keeps {s : State} {io : IoSt} {q : Nat} {r : EvRec} (hsio : ioOk io) : ioOk (State.evqHold s io q r) := by
  unfold State.evqHold
  dsimp only
  split
  · next h => exact ioOk.updEvq hsio (by simpa using h)
  · refine IoSt.countBy_keeps (ioOk.updEvq hsio ?_)
    exact ioOk.held hsio q

theorem State.evqSend_keeps {s : State} {io : IoSt} {q : Nat} {r : EvRec} (hsio : ioOk io) :
    ioOk (State.evqSend s io q r) := by
  unfold State.evqSend
  try dsimp only
  repeat' first
    | with_reducible assumption | with_reducible apply State.evqHold_keeps | with_reducible apply State.evqRoom_keeps
    | with_reducible apply ioOk.ite | fail_if_no_progress with_reducible apply ioOk.upd | fail_if_no_progress with_reducible apply ioOk.updMem
    | fail_if_no_progress with_reducible apply ioOk.updEvq | fail_if_no_progress with_reducible apply ioOk.held
    | intro _ | split

theorem State.ioRaise_keeps {s : State} {r : EvRec} {q : Nat} (hs : ioOk s.io) :
    ioOk (State.ioRaise s r q) := by
  unfold State.ioRaise
  try dsimp only
  repeat' first
    | with_reducible assumption | with_reducible apply State.evqSend_keeps | with_reducible apply ioOk.ite
    | fail_if_no_progress with_reducible apply ioOk.upd | fail_if_no_progress with_reducible apply ioOk.updMem
    | fail_if_no_progress with_reducible apply ioOk.updEvq | fail_if_no_progress with_reducible apply ioOk.held
    | intro _ | split

theorem State.raise_keeps {base : State} {s : State} {code src : Nat} {det : List (Nat × Nat)} (hss : Keeps base s) :
    Keeps base (State.raise s code src det) := by
  unfold State.raise
  try dsimp only
  repeat' first
    | with_reducible assumption | with_reducible apply State.ioRaise_keeps | fail_if_no_progress with_reducible apply Keeps.upd
    | fail_if_no_progress with_reducible apply Keeps.updIo | with_reducible apply ioOk.ite | fail_if_no_progress with_reducible apply ioOk.upd
    | fail_if_no_progress with_reducible apply ioOk.updMem | fail_if_no_progress with_reducible apply ioOk.updEvq
    | fail_if_no_progress with_reducible apply ioOk.held | intro _

theorem State.raiseC_keeps {base : State} {s : State} {code src : Nat} {det : List (Nat × Nat)} (hss : Keeps base s) :
    Keeps base (State.raiseC s code src det) := by
  unfold State.raiseC
  try dsimp only
  repeat' first
    | with_reducible assumption | with_reducible apply State.ioRaise_keeps | fail_if_no_progress with_reducible apply Keeps.upd
    | fail_if_no_progress with_reducible apply Keeps.updIo | with_reducible apply ioOk.ite | fail_if_no_progress with_reducible apply ioOk.upd
    | fail_if_no_progress with_reducible apply ioOk.updMem | fail_if_no_progress with_reducible apply ioOk.updEvq
    | fail_if_no_progress with_reducible apply ioOk.held | intro _

theorem State.raiseFolded_keeps {base : State} {s : State} {code src : Nat} {det : List (Nat × Nat)} (hss : Keeps base s) :
    Keeps base (State.raiseFolded s code src det) := by
  unfold State.raiseFolded
  try dsimp only
  repeat' first
    | with_reducible assumption | with_reducible apply State.ioRaise_keeps | fail_if_no_progress with_reducible apply Keeps.upd
    | fail_if_no_progress with_reducible apply Keeps.updIo | with_reducible apply ioOk.ite | fail_if_no_progress with_reducible apply ioOk.upd
    | fail_if_no_progress with_reducible apply ioOk.updMem | fail_if_no_progress with_reducible apply ioOk.updEvq
    | fail_if_no_progress with_reducible apply ioOk.held | intro _

theorem State.raiseIf_keeps {base : State} {s : State} {b : Bool} {code src : Nat} {det : List (Nat × Nat)} (hss : Keeps base s) :
    Keeps base (State.raiseIf s b code src det) := by
  unfold State.raiseIf
  try dsimp only
  repeat' first
    | with_reducible assumption | with_reducible apply State.raise_keeps | with_reducible apply Keeps.ite
    | intro _ | split

theorem State.raiseLim_keeps {base : State} {s : State} {lim code n src : Nat} {det : List (Nat × Nat)} (hss : Keeps base s) :
    Keeps base (State.raiseLim s lim code n src det) := by
  unfold State.raiseLim
  try dsimp only
  repeat' first
    | with_reducible assumption | with_reducible apply State.raise_keeps | with_reducible apply Keeps.ite
    | fail_if_no_progress with_reducible apply Keeps.upd | fail_if_no_progress with_reducible apply Keeps.updIo
    | with_reducible apply ioOk.ite | fail_if_no_progress with_reducible apply ioOk.upd | fail_if_no_progress with_reducible apply ioOk.updMem
    | fail_if_no_progress with_reducible apply ioOk.updEvq | fail_if_no_progress with_reducible apply ioOk.held
    | intro _ | split

theorem State.raiseOnce_keeps {base : State} {s : State} {code n src : Nat} {mk : Nat → List (Nat × Nat)} (hss : Keeps base s) :
    Keeps base (State.raiseOnce s code n src mk) := by
  unfold State.raiseOnce
  try dsimp only
  repeat' first
    | with_reducible assumption | with_reducible apply State.raise_keeps | with_reducible apply Keeps.ite
    | split | fail_if_no_progress with_reducible apply Keeps.upd | fail_if_no_progress with_reducible apply Keeps.updIo
    | with_reducible apply ioOk.ite | fail_if_no_progress with_reducible apply ioOk.upd | fail_if_no_progress with_reducible apply ioOk.updMem
    | fail_if_no_progress with_reducible apply ioOk.updEvq | fail_if_no_progress with_reducible apply ioOk.held
    | intro _

theorem State.cplPut_keeps {s : State} {io : IoSt} {c : CplRec} (hsio : ioOk io) :
    ioOk (State.cplPut s io c) := by
  unfold State.cplPut
  try dsimp only
  repeat' first
    | with_reducible assumption | with_reducible apply State.countBy_keeps | with_reducible apply IoSt.countBy_keeps
    | with_reducible apply State.countRecord_keeps | with_reducible apply IoSt.lap_keeps | with_reducible apply State.wr_keeps
    | with_reducible apply IoSt.wr_keeps | with_reducible apply ioOk.ite | fail_if_no_progress with_reducible apply ioOk.upd
    | fail_if_no_progress with_reducible apply ioOk.updMem | fail_if_no_progress with_reducible apply ioOk.updEvq
    | fail_if_no_progress with_reducible apply ioOk.held | intro _ | split

theorem State.ioComplete_keeps {s : State} {c : CplRec} {noCpl : Bool} (hs : ioOk s.io) :
    ioOk (State.ioComplete s c noCpl) := by
  unfold State.ioComplete
  try dsimp only
  repeat' first
    | with_reducible assumption | with_reducible exact Keeps.refl _ | with_reducible apply State.cplPut_keeps
    | with_reducible apply ioOk.ite | split | fail_if_no_progress with_reducible apply ioOk.upd | fail_if_no_progress with_reducible apply ioOk.updMem
    | fail_if_no_progress with_reducible apply ioOk.updEvq | fail_if_no_progress with_reducible apply ioOk.held
    | intro _

theorem State.complete_keeps {base : State} {s : State} {h : HostRef} {opcode outcome reason : Nat} {result : List (Nat × Nat)} (hss : Keeps base s) :
    Keeps base (State.complete s h opcode outcome reason result) := by
  unfold State.complete
  try dsimp only
  repeat' first
    | with_reducible assumption | with_reducible apply State.ioComplete_keeps | fail_if_no_progress with_reducible apply Keeps.upd
    | fail_if_no_progress with_reducible apply Keeps.updIo | with_reducible apply ioOk.ite | fail_if_no_progress with_reducible apply ioOk.upd
    | fail_if_no_progress with_reducible apply ioOk.updMem | fail_if_no_progress with_reducible apply ioOk.updEvq
    | fail_if_no_progress with_reducible apply ioOk.held | intro _

theorem State.done_keeps {base : State} {s : State} {h : HostRef} {opcode : Nat} (hss : Keeps base s) :
    Keeps base (State.done s h opcode) := by
  unfold State.done
  try dsimp only
  repeat' first
    | with_reducible assumption | with_reducible apply State.complete_keeps | intro _

theorem State.refuse_keeps {base : State} {s : State} {h : HostRef} {opcode reason : Nat} (hss : Keeps base s) :
    Keeps base (State.refuse s h opcode reason) := by
  unfold State.refuse
  try dsimp only
  repeat' first
    | with_reducible assumption | with_reducible apply State.complete_keeps | intro _

theorem State.reject_keeps {base : State} {s : State} {h : HostRef} {opcode reason : Nat} (hss : Keeps base s) :
    Keeps base (State.reject s h opcode reason) := by
  unfold State.reject
  try dsimp only
  repeat' first
    | with_reducible assumption | with_reducible apply State.complete_keeps | intro _

theorem State.hostWrite_keeps {base : State} {s : State} {a : Nat} {bs : List Nat} (hss : Keeps base s) :
    Keeps base (State.hostWrite s a bs) := by
  unfold State.hostWrite
  try dsimp only
  repeat' first
    | with_reducible assumption | fail_if_no_progress with_reducible apply Keeps.upd | fail_if_no_progress with_reducible apply Keeps.updIo
    | with_reducible apply ioOk.ite | fail_if_no_progress with_reducible apply ioOk.upd | fail_if_no_progress with_reducible apply ioOk.updMem
    | fail_if_no_progress with_reducible apply ioOk.updEvq | fail_if_no_progress with_reducible apply ioOk.held
    | intro _

theorem State.command_keeps {base : State} {s : State} {dt : Nat} {h : HostRef} {domain opcode : Nat} {run : State → State} (hss : Keeps base s) (hrun : ∀ b, Keeps b (run b)) :
    Keeps base (State.command s dt h domain opcode run) := by
  unfold State.command
  try dsimp only
  repeat' first
    | with_reducible assumption | with_reducible exact Keeps.refl _ | with_reducible refine Keeps.trans ?_ (hrun _)
    | with_reducible apply State.elapse_keeps | with_reducible apply State.reject_keeps | with_reducible apply Keeps.ite
    | intro _ | split

theorem State.alterCheck_keeps {base : State} {s : State} {target : Nat} (hss : Keeps base s) :
    Keeps base (State.alterCheck s target).1 := by
  unfold State.alterCheck
  try dsimp only
  repeat' first
    | with_reducible assumption | with_reducible apply State.count_keeps | with_reducible apply Keeps.ite
    | with_reducible apply Keeps.iteFst | fail_if_no_progress with_reducible apply Keeps.upd | intro _
    | split

theorem State.alterCheck_keepsAs {base : State} {s : State} {target : Nat} (hss : Keeps base s) {t : State} {y : Bool}
    (h : State.alterCheck s target = (t, y)) : Keeps base t := by
  have k : Keeps base (State.alterCheck s target).1 := State.alterCheck_keeps hss
  rw [h] at k
  exact k

theorem State.send_keeps {base : State} {s : State} {m : MateMsg} (hss : Keeps base s) :
    Keeps base (State.send s m) := by
  unfold State.send
  try dsimp only
  repeat' first
    | with_reducible assumption | with_reducible apply Keeps.ite | fail_if_no_progress with_reducible apply Keeps.upd
    | intro _ | split

end Sys2Proof.Machine
end

