-- ==== Sys2Proof/Laws/KeepsQueues.lean ====
section
/-! SUPPORT. What the operations of Machine/Queues.lean keep. -/

set_option Elab.async false

namespace Sys2Proof.Machine

theorem State.setQueue_keeps {base : State} {s : State} {n : Nat} {q : QSt} (hss : Keeps base s) :
    Keeps base (State.setQueue s n q) := by
  unfold State.setQueue
  try dsimp only
  repeat' first
    | with_reducible assumption | fail_if_no_progress with_reducible apply Keeps.upd | intro _

theorem State.setDq_keeps {base : State} {s : State} {d : Nat} {x : DqSt} (hss : Keeps base s) :
    Keeps base (State.setDq s d x) := by
  unfold State.setDq
  try dsimp only
  repeat' first
    | with_reducible assumption | fail_if_no_progress with_reducible apply Keeps.upd | intro _

theorem State.judgeQueue_keeps {base : State} {s : State} {n : Nat} (hss : Keeps base s) :
    Keeps base (State.judgeQueue s n) := by
  unfold State.judgeQueue
  try dsimp only
  repeat' first
    | with_reducible assumption | with_reducible apply State.count_keeps | with_reducible apply State.raiseIf_keeps
    | with_reducible apply State.setQueue_keeps | with_reducible apply Keeps.ite | split | fail_if_no_progress with_reducible apply Keeps.upd
    | intro _

theorem State.judgePressed_keeps {base : State} {s : State} (hss : Keeps base s) :
    Keeps base (State.judgePressed s) := by
  unfold State.judgePressed
  try dsimp only
  repeat' first
    | with_reducible assumption | with_reducible exact Keeps.refl _ | with_reducible apply State.judgeQueue_keeps
    | with_reducible apply Keeps.foldl | with_reducible apply Keeps.foldlFst | with_reducible apply Keeps.iteFst
    | intro _

theorem State.tstTake_keeps {base : State} {s : State} (hss : Keeps base s) :
    Keeps base (State.tstTake s) := by
  unfold State.tstTake
  try dsimp only
  repeat' first
    | with_reducible assumption | with_reducible apply State.judgePressed_keeps | with_reducible apply State.wr_keeps
    | with_reducible apply IoSt.wr_keeps | with_reducible apply Keeps.ite | split | fail_if_no_progress with_reducible apply Keeps.upd
    | intro _

theorem State.endWindow_keeps {base : State} {s : State} {n : Nat} {q : QSt} {k : Nat} (hss : Keeps base s) :
    Keeps base (State.endWindow s n q k) := by
  unfold State.endWindow
  try dsimp only
  repeat' first
    | with_reducible assumption | with_reducible apply State.raise_keeps | with_reducible apply State.setQueue_keeps
    | fail_if_no_progress with_reducible apply Keeps.upd | intro _

theorem State.dropOne_keeps {base : State} {s : State} {n : Nat} (hss : Keeps base s) :
    Keeps base (State.dropOne s n) := by
  unfold State.dropOne
  try dsimp only
  repeat' first
    | with_reducible assumption | with_reducible apply State.count_keeps | with_reducible apply State.endWindow_keeps
    | with_reducible apply State.setQueue_keeps | with_reducible apply Keeps.ite | split | fail_if_no_progress with_reducible apply Keeps.upd
    | intro _

theorem State.abandon_keeps {base : State} {s : State} {n : Nat} (hss : Keeps base s) :
    Keeps base (State.abandon s n) := by
  unfold State.abandon
  try dsimp only
  repeat' first
    | with_reducible assumption | with_reducible apply State.count_keeps | with_reducible apply State.setQueue_keeps
    | split | fail_if_no_progress with_reducible apply Keeps.upd | intro _

theorem State.newWord_keeps {base : State} {s : State} {n : Nat} {w : QWord} (hss : Keeps base s) {t : State} (ht : State.newWord s n w = some t) :
    Keeps base t := by
  unfold State.newWord at ht
  try dsimp only at ht
  repeat' split at ht
  all_goals cases ht
  repeat' first
    | with_reducible assumption | with_reducible apply State.count_keeps | with_reducible apply State.raise_keeps
    | with_reducible apply State.setQueue_keeps | with_reducible apply Keeps.ite | split | fail_if_no_progress with_reducible apply Keeps.upd
    | intro _

theorem State.dropPacket_keeps {base : State} {s : State} {n : Nat} {last : Bool} (hss : Keeps base s) :
    Keeps base (State.dropPacket s n last) := by
  unfold State.dropPacket
  try dsimp only
  repeat' first
    | with_reducible assumption | with_reducible apply State.abandon_keeps | with_reducible apply State.dropOne_keeps
    | with_reducible apply State.setQueue_keeps | split | fail_if_no_progress with_reducible apply Keeps.upd
    | intro _

theorem State.appendBytes_keeps {base : State} {n : Nat} {l : List Nat} :
    ∀ {s t : State}, Keeps base s → State.appendBytes s n l = some t → Keeps base t := by
  induction l with
  | nil => intro s t hss ht; cases ht; exact hss
  | cons b rest ih =>
    intro s t hss ht
    unfold State.appendBytes at ht
    split at ht
    · cases ht
    · dsimp only at ht
      split at ht
      · exact ih (State.setQueue_keeps hss) ht
      · split at ht
        · cases ht
        · next h => exact ih (State.newWord_keeps hss h) ht

theorem State.startPacket_keeps {base : State} {s : State} {n : Nat} (hss : Keeps base s) {t : State} (ht : State.startPacket s n = some t) :
    Keeps base t := by
  unfold State.startPacket at ht
  try dsimp only at ht
  repeat' split at ht
  all_goals cases ht
  repeat' first
    | with_reducible assumption | with_reducible refine State.newWord_keeps ?_ (by with_reducible assumption)
    | with_reducible apply State.setQueue_keeps | split | fail_if_no_progress with_reducible apply Keeps.upd
    | intro _

theorem State.endPacket_keeps {base : State} {s : State} {n status tag : Nat} (hss : Keeps base s) :
    Keeps base (State.endPacket s n status tag) := by
  unfold State.endPacket
  try dsimp only
  repeat' first
    | with_reducible assumption | with_reducible apply State.setQueue_keeps | split | fail_if_no_progress with_reducible apply Keeps.upd
    | intro _

theorem State.writePacket_keeps {base : State} {s : State} {n : Nat} {w : QWrite} {q : QSt} (hss : Keeps base s) :
    Keeps base (State.writePacket s n w q) := by
  have hp : ∀ t, (if q.pkt.isSome then some s else s.startPacket n) = some t → Keeps base t := by
    intro t ht
    split at ht
    · cases ht; exact hss
    · exact State.startPacket_keeps hss ht
  unfold State.writePacket
  dsimp only
  repeat' first
    | with_reducible assumption | with_reducible exact hp _ (by with_reducible assumption)
    | with_reducible apply State.abandon_keeps | with_reducible apply State.dropPacket_keeps
    | with_reducible apply State.endPacket_keeps | with_reducible apply State.setQueue_keeps
    | with_reducible refine State.appendBytes_keeps ?_ (by with_reducible assumption)
    | with_reducible apply Keeps.ite | split

theorem State.writeRecord_keeps {base : State} {s : State} {n : Nat} {bytes : List Nat} {q : QSt} (hss : Keeps base s) :
    Keeps base (State.writeRecord s n bytes q) := by
  unfold State.writeRecord
  try dsimp only
  repeat' first
    | with_reducible assumption | with_reducible apply State.dropOne_keeps | with_reducible refine State.newWord_keeps ?_ (by with_reducible assumption)
    | with_reducible apply State.setQueue_keeps | with_reducible apply Keeps.ite | split | fail_if_no_progress with_reducible apply Keeps.upd
    | intro _

theorem State.writeWide_keeps {base : State} {s : State} {n : Nat} {bytes : List Nat} {q : QSt} (hss : Keeps base s) :
    Keeps base (State.writeWide s n bytes q) := by
  unfold State.writeWide
  try dsimp only
  repeat' first
    | with_reducible assumption | with_reducible apply State.dropOne_keeps | with_reducible apply State.dropPacket_keeps
    | with_reducible refine State.newWord_keeps ?_ (by with_reducible assumption) | with_reducible apply State.setQueue_keeps
    | with_reducible apply Keeps.ite | split | fail_if_no_progress with_reducible apply Keeps.upd | intro _

theorem State.writeQueue_keeps {base : State} {s : State} {n : Nat} {w : QWrite} (hss : Keeps base s) :
    Keeps base (State.writeQueue s n w) := by
  unfold State.writeQueue
  try dsimp only
  repeat' first
    | with_reducible assumption | with_reducible apply State.dropOne_keeps | with_reducible apply State.judgeQueue_keeps
    | with_reducible refine State.newWord_keeps ?_ (by with_reducible assumption) | with_reducible apply State.writePacket_keeps
    | with_reducible apply State.writeRecord_keeps | with_reducible apply State.writeWide_keeps | with_reducible apply Keeps.ite
    | split | fail_if_no_progress with_reducible apply Keeps.upd | intro _

theorem State.pushRecord_keeps {base : State} {s : State} {n : Nat} {bytes : List Nat} (hss : Keeps base s) :
    Keeps base (State.pushRecord s n bytes) := by
  unfold State.pushRecord
  try dsimp only
  repeat' first
    | with_reducible assumption | with_reducible apply State.writeQueue_keeps | intro _

theorem State.resetQueue_keeps {base : State} {s : State} {n : Nat} (hss : Keeps base s) :
    Keeps base (State.resetQueue s n) := by
  unfold State.resetQueue
  try dsimp only
  repeat' first
    | with_reducible assumption | with_reducible apply State.count_keeps | with_reducible apply State.setDq_keeps
    | with_reducible apply State.setQueue_keeps | with_reducible apply Keeps.ite | split | fail_if_no_progress with_reducible apply Keeps.upd
    | intro _

theorem State.endQueueReset_keeps {base : State} {s : State} {n : Nat} (hss : Keeps base s) :
    Keeps base (State.endQueueReset s n) := by
  unfold State.endQueueReset
  try dsimp only
  repeat' first
    | with_reducible assumption | with_reducible apply State.setQueue_keeps | split | fail_if_no_progress with_reducible apply Keeps.upd
    | intro _

theorem State.copyWord_keeps {base : State} {s : State} {d : Nat} {x : DqSt} {bytes : List Nat} (hss : Keeps base s) :
    Keeps base (State.copyWord s d x bytes) := by
  unfold State.copyWord
  try dsimp only
  repeat' first
    | with_reducible assumption | with_reducible apply State.hostWrite_keeps | with_reducible apply State.setDq_keeps
    | fail_if_no_progress with_reducible apply Keeps.upd | intro _

theorem execQueuePush_keeps {dt q : Nat} {w : QWrite} {s : State}  :
    ∃ s', execQueuePush dt q w s = .next s' ∧ Keeps s s' := by
  unfold execQueuePush
  refine ⟨_, rfl, ?_⟩
  try dsimp only
  repeat' first
    | with_reducible assumption | with_reducible exact Keeps.refl _ | with_reducible apply State.elapse_keeps
    | with_reducible apply State.setDq_keeps | with_reducible apply State.setQueue_keeps | with_reducible apply State.writeQueue_keeps
    | with_reducible apply Keeps.ite | split | fail_if_no_progress with_reducible apply Keeps.upd | intro _

theorem execQueueFlush_keeps {dt q : Nat} {s : State}  :
    ∃ s', execQueueFlush dt q s = .next s' ∧ Keeps s s' := by
  unfold execQueueFlush
  refine ⟨_, rfl, ?_⟩
  try dsimp only
  repeat' first
    | with_reducible assumption | with_reducible exact Keeps.refl _ | with_reducible apply State.count_keeps
    | with_reducible apply State.elapse_keeps | with_reducible apply State.setQueue_keeps | with_reducible apply State.waitAddr_keeps
    | split | fail_if_no_progress with_reducible apply Keeps.upd | intro _

theorem execQDrop_keeps {dt q : Nat} {s : State}  :
    ∃ s', execQDrop dt q s = .next s' ∧ Keeps s s' := by
  unfold execQDrop
  refine ⟨_, rfl, ?_⟩
  try dsimp only
  repeat' first
    | with_reducible assumption | with_reducible exact Keeps.refl _ | with_reducible apply State.elapse_keeps
    | with_reducible apply State.endWindow_keeps | split | fail_if_no_progress with_reducible apply Keeps.upd
    | intro _

theorem execQPtrReset_keeps {dt q which binary graycopy : Nat} {s : State}  :
    ∃ s', execQPtrReset dt q which binary graycopy s = .next s' ∧ Keeps s s' := by
  unfold execQPtrReset
  refine ⟨_, rfl, ?_⟩
  try dsimp only
  repeat' first
    | with_reducible assumption | with_reducible exact Keeps.refl _ | with_reducible apply State.elapse_keeps
    | with_reducible apply State.raise_keeps | with_reducible apply State.resetQueue_keeps | with_reducible apply Keeps.ite
    | intro _ | split

theorem execQueueResetEnd_keeps {dt q : Nat} {s : State}  :
    ∃ s', execQueueResetEnd dt q s = .next s' ∧ Keeps s s' := by
  unfold execQueueResetEnd
  refine ⟨_, rfl, ?_⟩
  try dsimp only
  repeat' first
    | with_reducible assumption | with_reducible exact Keeps.refl _ | with_reducible apply State.endQueueReset_keeps
    | with_reducible apply State.toBoundary_keeps | intro _

theorem State.addFilterQueues_keeps {base : State} {s : State} (hss : Keeps base s) :
    Keeps base (State.addFilterQueues s) := by
  unfold State.addFilterQueues
  try dsimp only
  repeat' first
    | with_reducible assumption | with_reducible exact Keeps.refl _ | with_reducible apply State.draw_keeps
    | with_reducible apply State.setQueue_keeps | with_reducible apply Keeps.ite | with_reducible apply Keeps.foldl
    | intro _ | split

theorem State.awaitQueue_keeps {base : State} {s : State} {q : Nat} (hss : Keeps base s) :
    Keeps base (State.awaitQueue s q) := by
  unfold State.awaitQueue
  try dsimp only
  repeat' first
    | with_reducible assumption | with_reducible apply State.endQueueReset_keeps | with_reducible apply State.waitAddr_keeps
    | with_reducible apply Keeps.ite | split | fail_if_no_progress with_reducible apply Keeps.upd | intro _

theorem execQmgQCreate_keeps {dt : Nat} {h : HostRef} {p : QCreate} {s : State}  :
    ∃ s', execQmgQCreate dt h p s = .next s' ∧ Keeps s s' := by
  unfold execQmgQCreate
  refine ⟨_, rfl, ?_⟩
  try dsimp only
  repeat' first
    | with_reducible assumption | with_reducible exact Keeps.refl _ | with_reducible apply State.command_keeps
    | with_reducible apply State.done_keeps | with_reducible apply State.draw_keeps | with_reducible apply State.refuse_keeps
    | with_reducible apply State.setQueue_keeps | with_reducible apply State.waitAddr_keeps | with_reducible apply Keeps.ite
    | intro _ | split

theorem execQmgQDestroy_keeps {dt : Nat} {h : HostRef} {q : Nat} {s : State}  :
    ∃ s', execQmgQDestroy dt h q s = .next s' ∧ Keeps s s' := by
  unfold execQmgQDestroy
  refine ⟨_, rfl, ?_⟩
  try dsimp only
  repeat' first
    | with_reducible assumption | with_reducible exact Keeps.refl _ | with_reducible apply State.awaitQueue_keeps
    | with_reducible apply State.command_keeps | with_reducible apply State.done_keeps | with_reducible apply State.refuse_keeps
    | with_reducible apply Keeps.ite | split | fail_if_no_progress with_reducible apply Keeps.upd | intro _

theorem execQmgQSet_keeps {dt : Nat} {h : HostRef} {q high low : Nat} {hold holdValid : Bool} {s : State}  :
    ∃ s', execQmgQSet dt h q high low hold holdValid s = .next s' ∧ Keeps s s' := by
  unfold execQmgQSet
  refine ⟨_, rfl, ?_⟩
  try dsimp only
  repeat' first
    | with_reducible assumption | with_reducible exact Keeps.refl _ | with_reducible apply State.awaitQueue_keeps
    | with_reducible apply State.command_keeps | with_reducible apply State.done_keeps | with_reducible apply State.judgeQueue_keeps
    | with_reducible apply State.refuse_keeps | with_reducible apply State.setQueue_keeps | with_reducible apply State.waitAddr_keeps
    | with_reducible apply Keeps.ite | split | fail_if_no_progress with_reducible apply Keeps.upd | intro _

theorem execQmgQRead_keeps {dt : Nat} {h : HostRef} {q host : Nat} {s : State}  :
    ∃ s', execQmgQRead dt h q host s = .next s' ∧ Keeps s s' := by
  unfold execQmgQRead
  refine ⟨_, rfl, ?_⟩
  try dsimp only
  repeat' first
    | with_reducible assumption | with_reducible exact Keeps.refl _ | with_reducible apply State.awaitQueue_keeps
    | with_reducible apply State.command_keeps | with_reducible apply State.done_keeps | with_reducible apply State.hostWrite_keeps
    | with_reducible apply State.refuse_keeps | with_reducible apply Keeps.ite | split | fail_if_no_progress with_reducible apply Keeps.upd
    | intro _

theorem execQmgMark_keeps {dt : Nat} {h : HostRef} {q on : Nat} {s : State}  :
    ∃ s', execQmgMark dt h q on s = .next s' ∧ Keeps s s' := by
  unfold execQmgMark
  refine ⟨_, rfl, ?_⟩
  try dsimp only
  repeat' first
    | with_reducible assumption | with_reducible exact Keeps.refl _ | with_reducible apply State.awaitQueue_keeps
    | with_reducible apply State.command_keeps | with_reducible apply State.done_keeps | with_reducible apply State.judgeQueue_keeps
    | with_reducible apply State.refuse_keeps | with_reducible apply State.setQueue_keeps | with_reducible apply Keeps.ite
    | split | fail_if_no_progress with_reducible apply Keeps.upd | intro _

theorem execQmgRewind_keeps {dt : Nat} {h : HostRef} {q : Nat} {s : State}  :
    ∃ s', execQmgRewind dt h q s = .next s' ∧ Keeps s s' := by
  unfold execQmgRewind
  refine ⟨_, rfl, ?_⟩
  try dsimp only
  repeat' first
    | with_reducible assumption | with_reducible exact Keeps.refl _ | with_reducible apply State.awaitQueue_keeps
    | with_reducible apply State.command_keeps | with_reducible apply State.done_keeps | with_reducible apply State.judgeQueue_keeps
    | with_reducible apply State.refuse_keeps | with_reducible apply State.setQueue_keeps | with_reducible apply Keeps.ite
    | split | fail_if_no_progress with_reducible apply Keeps.upd | intro _

theorem execQmgDropRest_keeps {dt : Nat} {h : HostRef} {q : Nat} {s : State}  :
    ∃ s', execQmgDropRest dt h q s = .next s' ∧ Keeps s s' := by
  unfold execQmgDropRest
  refine ⟨_, rfl, ?_⟩
  try dsimp only
  repeat' first
    | with_reducible assumption | with_reducible exact Keeps.refl _ | with_reducible apply State.awaitQueue_keeps
    | with_reducible apply State.command_keeps | with_reducible apply State.complete_keeps | with_reducible apply State.hostWrite_keeps
    | with_reducible apply State.judgeQueue_keeps | with_reducible apply State.refuse_keeps | with_reducible apply State.setQueue_keeps
    | with_reducible apply Keeps.ite | split | fail_if_no_progress with_reducible apply Keeps.upd | intro _

theorem execQmgQReset_keeps {dt : Nat} {h : HostRef} {q : Nat} {s : State}  :
    ∃ s', execQmgQReset dt h q s = .next s' ∧ Keeps s s' := by
  unfold execQmgQReset
  refine ⟨_, rfl, ?_⟩
  try dsimp only
  repeat' first
    | with_reducible assumption | with_reducible exact Keeps.refl _ | with_reducible apply State.awaitQueue_keeps
    | with_reducible apply State.command_keeps | with_reducible apply State.done_keeps | with_reducible apply State.raiseC_keeps
    | with_reducible apply State.refuse_keeps | with_reducible apply State.resetQueue_keeps | with_reducible apply Keeps.ite
    | split | fail_if_no_progress with_reducible apply Keeps.upd | intro _

end Sys2Proof.Machine
end

