-- ==== Sys2Proof/Laws/KeepsTiming.lean ====
section
/-! SUPPORT. What the operations of Machine/Timing.lean keep. -/

set_option Elab.async false

namespace Sys2Proof.Machine

theorem State.setCand_keeps {base : State} {s : State} {n : Nat} {c : CandSt} (hss : Keeps base s) :
    Keeps base (State.setCand s n c) := by
  unfold State.setCand
  try dsimp only
  repeat' first
    | with_reducible assumption | fail_if_no_progress with_reducible apply Keeps.upd | intro _

theorem State.qlRefresh_keeps {base : State} {s : State} {n : Nat} (hss : Keeps base s) :
    Keeps base (State.qlRefresh s n) := by
  unfold State.qlRefresh
  try dsimp only
  repeat' first
    | with_reducible assumption | with_reducible apply State.count_keeps | with_reducible apply State.raise_keeps
    | with_reducible apply State.wr_keeps | with_reducible apply IoSt.wr_keeps | with_reducible apply Keeps.ite
    | intro _ | split

theorem State.setFreq_keeps {base : State} {s : State} {n : Nat} {v : Int} (hss : Keeps base s) :
    Keeps base (State.setFreq s n v) := by
  unfold State.setFreq
  try dsimp only
  repeat' first
    | with_reducible assumption | with_reducible apply State.setCand_keeps | with_reducible apply State.wrInt_keeps
    | fail_if_no_progress with_reducible apply Keeps.upd | intro _

theorem State.holdPhase_keeps {base : State} {s : State} {n : Nat} (hss : Keeps base s) :
    Keeps base (State.holdPhase s n) := by
  unfold State.holdPhase
  try dsimp only
  repeat' first
    | with_reducible assumption | with_reducible apply State.setCand_keeps | with_reducible apply Keeps.ite
    | fail_if_no_progress with_reducible apply Keeps.upd | intro _ | split

theorem State.cancelForce_keeps {base : State} {s : State} {n : Nat} (hss : Keeps base s) :
    Keeps base (State.cancelForce s n) := by
  unfold State.cancelForce
  try dsimp only
  repeat' first
    | with_reducible assumption | with_reducible apply State.raise_keeps | with_reducible apply State.wrBit_keeps
    | with_reducible apply Keeps.ite | fail_if_no_progress with_reducible apply Keeps.upd | intro _ | split

theorem State.disqualify_keeps {base : State} {s : State} {n cause : Nat} (hss : Keeps base s) :
    Keeps base (State.disqualify s n cause) := by
  unfold State.disqualify
  try dsimp only
  repeat' first
    | with_reducible assumption | with_reducible apply State.cancelForce_keeps | with_reducible apply State.raise_keeps
    | with_reducible apply State.setCand_keeps | with_reducible apply State.wr_keeps | with_reducible apply IoSt.wr_keeps
    | with_reducible apply Keeps.ite | fail_if_no_progress with_reducible apply Keeps.upd | intro _ | split

theorem State.candLost_keeps {base : State} {s : State} {n : Nat} (hss : Keeps base s) :
    Keeps base (State.candLost s n) := by
  unfold State.candLost
  try dsimp only
  repeat' first
    | with_reducible assumption | with_reducible apply State.disqualify_keeps | with_reducible apply State.holdPhase_keeps
    | with_reducible apply Keeps.ite | intro _ | split

theorem State.candBack_keeps {base : State} {s : State} {n : Nat} (hss : Keeps base s) :
    Keeps base (State.candBack s n) := by
  unfold State.candBack
  try dsimp only
  repeat' first
    | with_reducible assumption | with_reducible apply State.setCand_keeps | with_reducible apply Keeps.ite
    | intro _ | split

theorem State.qualTimer_keeps {base : State} {s : State} {n : Nat} (hss : Keeps base s) :
    Keeps base (State.qualTimer s n) := by
  unfold State.qualTimer
  try dsimp only
  repeat' first
    | with_reducible assumption | with_reducible apply State.setCand_keeps | with_reducible apply Keeps.ite
    | fail_if_no_progress with_reducible apply Keeps.upd | intro _ | split

theorem State.candReview_keeps {base : State} {s : State} {n : Nat} (hss : Keeps base s) :
    Keeps base (State.candReview s n) := by
  unfold State.candReview
  try dsimp only
  repeat' first
    | with_reducible assumption | with_reducible apply State.candBack_keeps | with_reducible apply State.candLost_keeps
    | with_reducible apply State.qualTimer_keeps | with_reducible apply State.setCand_keeps | with_reducible apply State.wr_keeps
    | with_reducible apply IoSt.wr_keeps | with_reducible apply Keeps.ite | fail_if_no_progress with_reducible apply Keeps.upd
    | intro _ | split

theorem State.timReview_keeps {base : State} {s : State} (hss : Keeps base s) :
    Keeps base (State.timReview s) := by
  unfold State.timReview
  try dsimp only
  repeat' first
    | with_reducible assumption | with_reducible exact Keeps.refl _ | with_reducible apply State.candReview_keeps
    | with_reducible apply State.qlRefresh_keeps | with_reducible apply Keeps.foldl | intro _

theorem State.acceptQl_keeps {base : State} {s : State} {hit : CandSt → Bool} {ql : Nat} (hss : Keeps base s) :
    Keeps base (State.acceptQl s hit ql) := by
  unfold State.acceptQl
  try dsimp only
  repeat' first
    | with_reducible assumption | with_reducible exact Keeps.refl _ | with_reducible apply State.setCand_keeps
    | with_reducible apply State.timReview_keeps | with_reducible apply Keeps.ite | with_reducible apply Keeps.foldl
    | fail_if_no_progress with_reducible apply Keeps.upd | intro _ | split

theorem State.acceptLaneQl_keeps {base : State} {s : State} {l ql : Nat} (hss : Keeps base s) :
    Keeps base (State.acceptLaneQl s l ql) := by
  unfold State.acceptLaneQl
  try dsimp only
  repeat' first
    | with_reducible assumption | with_reducible exact Keeps.refl _ | with_reducible apply State.acceptQl_keeps
    | intro _

theorem State.qualify_keeps {base : State} {s : State} {n : Nat} (hss : Keeps base s) :
    Keeps base (State.qualify s n) := by
  unfold State.qualify
  try dsimp only
  repeat' first
    | with_reducible assumption | with_reducible apply State.raise_keeps | with_reducible apply State.setCand_keeps
    | with_reducible apply State.wr_keeps | with_reducible apply IoSt.wr_keeps | with_reducible apply Keeps.ite
    | fail_if_no_progress with_reducible apply Keeps.upd | intro _ | split

theorem State.startWaitingWtr_keeps {base : State} {s : State} (hss : Keeps base s) :
    Keeps base (State.startWaitingWtr s) := by
  unfold State.startWaitingWtr
  try dsimp only
  repeat' first
    | with_reducible assumption | with_reducible exact Keeps.refl _ | with_reducible apply State.raise_keeps
    | with_reducible apply State.setCand_keeps | with_reducible apply Keeps.ite | with_reducible apply Keeps.foldl
    | fail_if_no_progress with_reducible apply Keeps.upd | intro _ | split

theorem State.judgeDisagree_keeps {base : State} {s : State} (hss : Keeps base s) :
    Keeps base (State.judgeDisagree s) := by
  unfold State.judgeDisagree
  try dsimp only
  repeat' first
    | with_reducible assumption | with_reducible apply State.raise_keeps | with_reducible apply State.wrBit_keeps
    | with_reducible apply Keeps.ite | split | fail_if_no_progress with_reducible apply Keeps.upd | intro _

theorem State.setShfState_keeps {base : State} {s : State} {v : Nat} (hss : Keeps base s) :
    Keeps base (State.setShfState s v) := by
  unfold State.setShfState
  try dsimp only
  repeat' first
    | with_reducible assumption | with_reducible apply State.raise_keeps | with_reducible apply State.wr_keeps
    | with_reducible apply IoSt.wr_keeps | with_reducible apply Keeps.ite | intro _ | split

theorem State.followDpll_keeps {base : State} {s : State} {v : Nat} (hss : Keeps base s) :
    Keeps base (State.followDpll s v) := by
  unfold State.followDpll
  try dsimp only
  repeat' first
    | with_reducible assumption | with_reducible apply State.setShfState_keeps | with_reducible apply Keeps.ite
    | intro _ | split

theorem State.setDpll_keeps {base : State} {s : State} {v : Nat} (hss : Keeps base s) :
    Keeps base (State.setDpll s v) := by
  unfold State.setDpll
  try dsimp only
  repeat' first
    | with_reducible assumption | with_reducible apply State.followDpll_keeps | with_reducible apply State.raise_keeps
    | with_reducible apply State.wr_keeps | with_reducible apply IoSt.wr_keeps | with_reducible apply State.wrBit_keeps
    | with_reducible apply Keeps.ite | fail_if_no_progress with_reducible apply Keeps.upd | intro _ | split

/-- A demanded offset is held to the DCO's limits. -/
theorem clampDco_ok (d : Int) : dcoOk (clampDco d) := by
  unfold dcoOk clampDco dcoLimit
  omega

/-- The DCO's offset stays within its limits (R94). -/
theorem State.setDco_keeps {base : State} {s : State} {d : Int} (hss : Keeps base s) : Keeps base (State.setDco s d) := by
  unfold State.setDco
  dsimp only
  split
  · exact hss
  · refine State.wrInt_keeps ?_
    exact ⟨hss.pend, hss.time, hss.ctr, fun _ => clampDco_ok d, hss.io⟩

theorem State.judgeDemand_keeps {base : State} {s : State} {d : Int} (hss : Keeps base s) :
    Keeps base (State.judgeDemand s d) := by
  unfold State.judgeDemand
  try dsimp only
  repeat' first
    | with_reducible assumption | with_reducible apply State.raise_keeps | with_reducible apply State.wrBit_keeps
    | with_reducible apply Keeps.ite | intro _ | split

theorem State.putCoef_keeps {base : State} {s : State} {f : Fld} {q : Rat} (hss : Keeps base s) :
    Keeps base (State.putCoef s f q) := by
  unfold State.putCoef
  try dsimp only
  repeat' first
    | with_reducible assumption | with_reducible apply State.wrInt_keeps | intro _

theorem State.showFit_keeps {base : State} {s : State} (hss : Keeps base s) :
    Keeps base (State.showFit s) := by
  unfold State.showFit
  try dsimp only
  repeat' first
    | with_reducible assumption | with_reducible exact Keeps.refl _ | with_reducible apply State.putCoef_keeps
    | with_reducible apply State.wr_keeps | with_reducible apply IoSt.wr_keeps | with_reducible apply Keeps.foldl
    | with_reducible apply Keeps.foldlFst | with_reducible apply Keeps.iteFst | split | fail_if_no_progress with_reducible apply Keeps.upd
    | intro _

theorem State.dropSamples_keeps {base : State} {s : State} (hss : Keeps base s) :
    Keeps base (State.dropSamples s) := by
  unfold State.dropSamples
  try dsimp only
  repeat' first
    | with_reducible assumption | with_reducible exact Keeps.refl _ | with_reducible apply State.showFit_keeps
    | with_reducible apply Keeps.iteFst | split | fail_if_no_progress with_reducible apply Keeps.upd | intro _

theorem State.enterHoldover_keeps {base : State} {s : State} (hss : Keeps base s) :
    Keeps base (State.enterHoldover s) := by
  unfold State.enterHoldover
  try dsimp only
  repeat' first
    | with_reducible assumption | with_reducible exact Keeps.refl _ | with_reducible apply State.dropSamples_keeps
    | with_reducible apply State.setDpll_keeps | with_reducible apply State.wrBit_keeps | with_reducible apply Keeps.ite
    | with_reducible apply Keeps.iteFst | fail_if_no_progress with_reducible apply Keeps.upd | fail_if_no_progress with_reducible apply Keeps.updDco
    | intro _ | split

theorem State.beginSwitch_keeps {base : State} {s : State} {old new cause : Nat} (hss : Keeps base s) :
    Keeps base (State.beginSwitch s old new cause) := by
  unfold State.beginSwitch
  try dsimp only
  repeat' first
    | with_reducible assumption | with_reducible apply State.raise_keeps | with_reducible apply State.wrBit_keeps
    | with_reducible apply Keeps.ite | fail_if_no_progress with_reducible apply Keeps.upd | fail_if_no_progress with_reducible apply Keeps.updDco
    | intro _ | split

theorem State.enterAcquire_keeps {base : State} {s : State} {n : Nat} (hss : Keeps base s) :
    Keeps base (State.enterAcquire s n) := by
  unfold State.enterAcquire
  try dsimp only
  repeat' first
    | with_reducible assumption | with_reducible apply State.setDpll_keeps | with_reducible apply Keeps.ite
    | fail_if_no_progress with_reducible apply Keeps.upd | intro _ | split

theorem State.abandonSwitch_keeps {base : State} {s : State} (hss : Keeps base s) :
    Keeps base (State.abandonSwitch s) := by
  unfold State.abandonSwitch
  try dsimp only
  repeat' first
    | with_reducible assumption | with_reducible apply State.startWaitingWtr_keeps | with_reducible apply State.wrBit_keeps
    | with_reducible apply Keeps.ite | intro _ | split

theorem State.finishSwitch_keeps {base : State} {s : State} (hss : Keeps base s) :
    Keeps base (State.finishSwitch s) := by
  unfold State.finishSwitch
  try dsimp only
  repeat' first
    | with_reducible assumption | with_reducible apply State.raise_keeps | with_reducible apply State.setDpll_keeps
    | with_reducible apply State.startWaitingWtr_keeps | with_reducible apply State.wrBit_keeps | intro _

theorem State.dpllAct_keeps {base : State} {s : State} {sel : Option Nat} {old : Nat} {changed : Bool} {cause : Nat} (hss : Keeps base s) :
    Keeps base (State.dpllAct s sel old changed cause) := by
  unfold State.dpllAct
  try dsimp only
  repeat' first
    | with_reducible assumption | with_reducible apply State.abandonSwitch_keeps | with_reducible apply State.beginSwitch_keeps
    | with_reducible apply State.enterAcquire_keeps | with_reducible apply State.enterHoldover_keeps | with_reducible apply State.setDpll_keeps
    | with_reducible apply Keeps.ite | split | fail_if_no_progress with_reducible apply Keeps.upd | intro _

theorem State.makeDecision_keeps {base : State} {s : State} (hss : Keeps base s) :
    Keeps base (State.makeDecision s) := by
  unfold State.makeDecision
  try dsimp only
  repeat' first
    | with_reducible assumption | with_reducible apply State.dpllAct_keeps | with_reducible apply State.wr_keeps
    | with_reducible apply IoSt.wr_keeps | with_reducible apply Keeps.ite | intro _ | split

theorem State.judgeLock_keeps {base : State} {s : State} (hss : Keeps base s) :
    Keeps base (State.judgeLock s) := by
  unfold State.judgeLock
  try dsimp only
  repeat' first
    | with_reducible assumption | with_reducible apply Keeps.ite | fail_if_no_progress with_reducible apply Keeps.upd
    | intro _ | split

theorem State.runLoop_keeps {base : State} {s : State} {err : Int} {milli : Nat} {slow : Bool} (hss : Keeps base s) :
    Keeps base (State.runLoop s err milli slow) := by
  unfold State.runLoop
  try dsimp only
  repeat' first
    | with_reducible assumption | with_reducible apply State.judgeDemand_keeps | with_reducible apply State.setDco_keeps
    | with_reducible apply Keeps.ite | with_reducible apply Keeps.iteFst | fail_if_no_progress with_reducible apply Keeps.upd
    | fail_if_no_progress with_reducible apply Keeps.updDco | intro _ | split

theorem State.driveDco_keeps {base : State} {s : State} (hss : Keeps base s) :
    Keeps base (State.driveDco s) := by
  unfold State.driveDco
  try dsimp only
  repeat' first
    | with_reducible assumption | with_reducible apply State.finishSwitch_keeps | with_reducible apply State.judgeDemand_keeps
    | with_reducible apply State.runLoop_keeps | with_reducible apply State.setDco_keeps | with_reducible apply Keeps.ite
    | intro _ | split

theorem State.judge450_keeps {base : State} {s : State} (hss : Keeps base s) :
    Keeps base (State.judge450 s) := by
  unfold State.judge450
  try dsimp only
  repeat' first
    | with_reducible assumption | with_reducible apply State.raiseIf_keeps | fail_if_no_progress with_reducible apply Keeps.upd
    | fail_if_no_progress with_reducible apply Keeps.updDco | intro _

theorem State.setTod_keeps {base : State} {s : State} {t : Nat} (hss : Keeps base s) :
    Keeps base (State.setTod s t) := by
  unfold State.setTod
  try dsimp only
  repeat' first
    | with_reducible assumption | with_reducible exact Keeps.refl _ | with_reducible apply Keeps.iteFst
    | fail_if_no_progress with_reducible apply Keeps.upd | intro _

theorem State.applyStep_keeps {base : State} {s : State} (hss : Keeps base s) :
    Keeps base (State.applyStep s) := by
  unfold State.applyStep
  try dsimp only
  repeat' first
    | with_reducible assumption | with_reducible apply State.raise_keeps | with_reducible apply State.setTod_keeps
    | split | fail_if_no_progress with_reducible apply Keeps.upd | intro _

theorem State.disableCand_keeps {base : State} {s : State} {n : Nat} {c : CandSt} (hss : Keeps base s) :
    Keeps base (State.disableCand s n c) := by
  unfold State.disableCand
  try dsimp only
  repeat' first
    | with_reducible assumption | with_reducible apply State.disqualify_keeps | with_reducible apply State.setCand_keeps
    | with_reducible apply State.wr_keeps | with_reducible apply IoSt.wr_keeps | with_reducible apply State.wrInt_keeps
    | with_reducible apply Keeps.ite | fail_if_no_progress with_reducible apply Keeps.upd | intro _ | split

theorem State.changeSource_keeps {base : State} {s : State} {n : Nat} {c : CandSt} (hss : Keeps base s) :
    Keeps base (State.changeSource s n c) := by
  unfold State.changeSource
  try dsimp only
  repeat' first
    | with_reducible assumption | with_reducible apply State.disqualify_keeps | with_reducible apply State.setCand_keeps
    | with_reducible apply State.wr_keeps | with_reducible apply IoSt.wr_keeps | with_reducible apply Keeps.ite
    | fail_if_no_progress with_reducible apply Keeps.upd | intro _ | split

theorem State.applyCandCfg_keeps {base : State} {s : State} {n : Nat} (hss : Keeps base s) :
    Keeps base (State.applyCandCfg s n) := by
  unfold State.applyCandCfg
  try dsimp only
  repeat' first
    | with_reducible assumption | with_reducible apply State.changeSource_keeps | with_reducible apply State.disableCand_keeps
    | with_reducible apply State.setCand_keeps | with_reducible apply State.wr_keeps | with_reducible apply IoSt.wr_keeps
    | with_reducible apply State.wrBit_keeps | with_reducible apply State.wrInt_keeps | with_reducible apply Keeps.ite
    | fail_if_no_progress with_reducible apply Keeps.upd | intro _ | split

theorem State.steerQualify_keeps {base : State} {s : State} (hss : Keeps base s) :
    Keeps base (State.steerQualify s) := by
  unfold State.steerQualify
  try dsimp only
  repeat' first
    | with_reducible assumption | with_reducible apply State.qualify_keeps | with_reducible apply Keeps.ite
    | fail_if_no_progress with_reducible apply Keeps.upd | intro _ | split

theorem execTimFreqMeasure_keeps {dt : Nat} {meas : List (Nat × Int)} {s : State}  :
    ∃ s', execTimFreqMeasure dt meas s = .next s' ∧ Keeps s s' := by
  unfold execTimFreqMeasure
  refine ⟨_, rfl, ?_⟩
  try dsimp only
  repeat' first
    | with_reducible assumption | with_reducible exact Keeps.refl _ | with_reducible apply State.count_keeps
    | with_reducible apply State.setFreq_keeps | with_reducible apply State.timReview_keeps | with_reducible apply State.toBoundary_keeps
    | with_reducible apply Keeps.ite | with_reducible apply Keeps.foldl | with_reducible apply Keeps.foldlFst
    | with_reducible apply Keeps.iteFst | fail_if_no_progress with_reducible apply Keeps.upd | intro _
    | split

theorem execRefQualified_keeps {dt cand : Nat} {s : State}  :
    ∃ s', execRefQualified dt cand s = .next s' ∧ Keeps s s' := by
  unfold execRefQualified
  refine ⟨_, rfl, ?_⟩
  try dsimp only
  repeat' first
    | with_reducible assumption | with_reducible exact Keeps.refl _ | with_reducible apply State.elapse_keeps
    | with_reducible apply State.qualify_keeps | with_reducible apply State.whenAddr_keeps | with_reducible apply Keeps.ite
    | split | fail_if_no_progress with_reducible apply Keeps.upd | intro _

theorem execTimHoldoffExpiry_keeps {dt cand : Nat} {s : State}  :
    ∃ s', execTimHoldoffExpiry dt cand s = .next s' ∧ Keeps s s' := by
  unfold execTimHoldoffExpiry
  refine ⟨_, rfl, ?_⟩
  try dsimp only
  repeat' first
    | with_reducible assumption | with_reducible exact Keeps.refl _ | with_reducible apply State.candBack_keeps
    | with_reducible apply State.disqualify_keeps | with_reducible apply State.elapse_keeps | with_reducible apply State.whenAddr_keeps
    | with_reducible apply Keeps.ite | split | fail_if_no_progress with_reducible apply Keeps.upd | intro _

theorem State.slaveFollow_keeps {base : State} {s : State} {on : Bool} (hss : Keeps base s) :
    Keeps base (State.slaveFollow s on) := by
  unfold State.slaveFollow
  try dsimp only
  repeat' first
    | with_reducible assumption | with_reducible apply State.abandonSwitch_keeps | with_reducible apply State.enterHoldover_keeps
    | with_reducible apply State.setDpll_keeps | with_reducible apply State.wr_keeps | with_reducible apply IoSt.wr_keeps
    | with_reducible apply Keeps.ite | fail_if_no_progress with_reducible apply Keeps.upd | fail_if_no_progress with_reducible apply Keeps.updDco
    | intro _ | split

theorem State.actDpll_keeps {base : State} {s : State} (hss : Keeps base s) :
    Keeps base (State.actDpll s) := by
  unfold State.actDpll
  try dsimp only
  repeat' first
    | with_reducible assumption | with_reducible apply State.makeDecision_keeps | with_reducible apply State.slaveFollow_keeps
    | split | fail_if_no_progress with_reducible apply Keeps.upd | intro _

theorem execRefSelection_keeps {dt : Nat} {s : State}  :
    ∃ s', execRefSelection dt s = .next s' ∧ Keeps s s' := by
  unfold execRefSelection
  refine ⟨_, rfl, ?_⟩
  try dsimp only
  repeat' first
    | with_reducible assumption | with_reducible exact Keeps.refl _ | with_reducible apply State.actDpll_keeps
    | with_reducible apply State.applyCandCfg_keeps | with_reducible apply State.applyStep_keeps | with_reducible apply State.candReview_keeps
    | with_reducible apply State.driveDco_keeps | with_reducible apply State.judge450_keeps | with_reducible apply State.judgeDisagree_keeps
    | with_reducible apply State.judgeLock_keeps | with_reducible apply State.qlRefresh_keeps | with_reducible apply State.steerQualify_keeps
    | with_reducible apply State.toBoundary_keeps | with_reducible apply Keeps.ite | with_reducible apply Keeps.foldl
    | intro _ | split

theorem execRefSwitchDone_keeps {dt : Nat} {s : State}  :
    ∃ s', execRefSwitchDone dt s = .next s' ∧ Keeps s s' := by
  unfold execRefSwitchDone
  refine ⟨_, rfl, ?_⟩
  try dsimp only
  repeat' first
    | with_reducible assumption | with_reducible exact Keeps.refl _ | with_reducible apply State.finishSwitch_keeps
    | with_reducible apply State.toBoundary_keeps | with_reducible apply Keeps.ite | split | fail_if_no_progress with_reducible apply Keeps.upd
    | intro _

theorem execWtrExpiry_keeps {dt cand : Nat} {s : State}  :
    ∃ s', execWtrExpiry dt cand s = .next s' ∧ Keeps s s' := by
  unfold execWtrExpiry
  refine ⟨_, rfl, ?_⟩
  try dsimp only
  repeat' first
    | with_reducible assumption | with_reducible exact Keeps.refl _ | with_reducible apply State.elapse_keeps
    | with_reducible apply State.raise_keeps | with_reducible apply State.setCand_keeps | with_reducible apply State.whenAddr_keeps
    | with_reducible apply State.wr_keeps | with_reducible apply IoSt.wr_keeps | with_reducible apply Keeps.ite
    | split | fail_if_no_progress with_reducible apply Keeps.upd | intro _

theorem execSteerWdogExpiry_keeps {dt : Nat} {s : State}  :
    ∃ s', execSteerWdogExpiry dt s = .next s' ∧ Keeps s s' := by
  unfold execSteerWdogExpiry
  refine ⟨_, rfl, ?_⟩
  try dsimp only
  repeat' first
    | with_reducible assumption | with_reducible exact Keeps.refl _ | with_reducible apply State.disqualify_keeps
    | with_reducible apply State.elapse_keeps | with_reducible apply State.setCand_keeps | with_reducible apply State.whenAddr_keeps
    | with_reducible apply State.wr_keeps | with_reducible apply IoSt.wr_keeps | with_reducible apply Keeps.ite
    | split | fail_if_no_progress with_reducible apply Keeps.upd | intro _

theorem execHoldoverUpdate_keeps {dt : Nat} {s : State}  :
    ∃ s', execHoldoverUpdate dt s = .next s' ∧ Keeps s s' := by
  unfold execHoldoverUpdate
  refine ⟨_, rfl, ?_⟩
  try dsimp only
  repeat' first
    | with_reducible assumption | with_reducible exact Keeps.refl _ | with_reducible apply State.draw_keeps
    | with_reducible apply State.judgeDemand_keeps | with_reducible apply State.raiseIf_keeps | with_reducible apply State.setDco_keeps
    | with_reducible apply State.toBoundary_keeps | with_reducible apply State.wrBit_keeps | with_reducible apply Keeps.ite
    | fail_if_no_progress with_reducible apply Keeps.upd | intro _ | split

theorem State.setModel_keeps {base : State} {s : State} {v : Nat} (hss : Keeps base s) :
    Keeps base (State.setModel s v) := by
  unfold State.setModel
  try dsimp only
  repeat' first
    | with_reducible assumption | with_reducible apply State.raise_keeps | with_reducible apply State.wr_keeps
    | with_reducible apply IoSt.wr_keeps | with_reducible apply Keeps.ite | intro _ | split

theorem execModelLearnSample_keeps {dt : Nat} {s : State}  :
    ∃ s', execModelLearnSample dt s = .next s' ∧ Keeps s s' := by
  unfold execModelLearnSample
  refine ⟨_, rfl, ?_⟩
  try dsimp only
  repeat' first
    | with_reducible assumption | with_reducible exact Keeps.refl _ | with_reducible apply State.draw_keeps
    | with_reducible apply State.setModel_keeps | with_reducible apply State.showFit_keeps | with_reducible apply State.toBoundary_keeps
    | with_reducible apply State.wr_keeps | with_reducible apply IoSt.wr_keeps | with_reducible apply Keeps.ite
    | with_reducible apply Keeps.iteFst | fail_if_no_progress with_reducible apply Keeps.upd | intro _
    | split

theorem State.pulse_keeps {base : State} {s : State} {sub : Nat} (hss : Keeps base s) :
    Keeps base (State.pulse s sub) := by
  unfold State.pulse
  try dsimp only
  repeat' first
    | with_reducible assumption | with_reducible apply Keeps.ite | fail_if_no_progress with_reducible apply Keeps.upd
    | intro _ | split

theorem execTodSetApply_keeps {dt : Nat} {s : State}  :
    ∃ s', execTodSetApply dt s = .next s' ∧ Keeps s s' := by
  unfold execTodSetApply
  refine ⟨_, rfl, ?_⟩
  try dsimp only
  repeat' first
    | with_reducible assumption | with_reducible exact Keeps.refl _ | with_reducible apply State.elapse_keeps
    | with_reducible apply State.pulse_keeps | with_reducible apply State.setTod_keeps | with_reducible apply State.whenAddr_keeps
    | with_reducible apply Keeps.ite | split | fail_if_no_progress with_reducible apply Keeps.upd | intro _

theorem execPpsinEdge_keeps {dt sub : Nat} {s : State}  :
    ∃ s', execPpsinEdge dt sub s = .next s' ∧ Keeps s s' := by
  unfold execPpsinEdge
  refine ⟨_, rfl, ?_⟩
  try dsimp only
  repeat' first
    | with_reducible assumption | with_reducible exact Keeps.refl _ | with_reducible apply State.elapse_keeps
    | with_reducible apply State.timReview_keeps | with_reducible apply Keeps.ite | fail_if_no_progress with_reducible apply Keeps.upd
    | intro _ | split

theorem execPpsoutPulse_keeps {dt : Nat} {s : State}  :
    ∃ s', execPpsoutPulse dt s = .next s' ∧ Keeps s s' := by
  unfold execPpsoutPulse
  refine ⟨_, rfl, ?_⟩
  try dsimp only
  repeat' first
    | with_reducible assumption | with_reducible exact Keeps.refl _ | with_reducible apply State.elapse_keeps
    | with_reducible apply State.pulse_keeps | with_reducible apply State.waitAddr_keeps | intro _

theorem execTimForce_keeps {dt : Nat} {h : HostRef} {cand : Nat} {s : State}  :
    ∃ s', execTimForce dt h cand s = .next s' ∧ Keeps s s' := by
  unfold execTimForce
  refine ⟨_, rfl, ?_⟩
  try dsimp only
  repeat' first
    | with_reducible assumption | with_reducible exact Keeps.refl _ | with_reducible apply State.command_keeps
    | with_reducible apply State.done_keeps | with_reducible apply State.refuse_keeps | with_reducible apply State.wrBit_keeps
    | with_reducible apply Keeps.ite | fail_if_no_progress with_reducible apply Keeps.upd | intro _ | split

theorem execTimClear_keeps {dt : Nat} {h : HostRef} {s : State}  :
    ∃ s', execTimClear dt h s = .next s' ∧ Keeps s s' := by
  unfold execTimClear
  refine ⟨_, rfl, ?_⟩
  try dsimp only
  repeat' first
    | with_reducible assumption | with_reducible exact Keeps.refl _ | with_reducible apply State.command_keeps
    | with_reducible apply State.done_keeps | with_reducible apply State.wrBit_keeps | fail_if_no_progress with_reducible apply Keeps.upd
    | intro _

theorem State.lockOut_keeps {base : State} {s : State} {n : Nat} (hss : Keeps base s) :
    Keeps base (State.lockOut s n) := by
  unfold State.lockOut
  try dsimp only
  repeat' first
    | with_reducible assumption | with_reducible apply State.qualTimer_keeps | with_reducible apply State.setCand_keeps
    | with_reducible apply State.wr_keeps | with_reducible apply IoSt.wr_keeps | with_reducible apply Keeps.ite
    | fail_if_no_progress with_reducible apply Keeps.upd | intro _ | split

theorem State.lockRelease_keeps {base : State} {s : State} {n : Nat} (hss : Keeps base s) :
    Keeps base (State.lockRelease s n) := by
  unfold State.lockRelease
  try dsimp only
  repeat' first
    | with_reducible assumption | with_reducible apply State.qualify_keeps | with_reducible apply State.raise_keeps
    | with_reducible apply State.setCand_keeps | with_reducible apply State.wr_keeps | with_reducible apply IoSt.wr_keeps
    | with_reducible apply Keeps.ite | fail_if_no_progress with_reducible apply Keeps.upd | intro _ | split

theorem execTimLockout_keeps {dt : Nat} {h : HostRef} {cand on : Nat} {s : State}  :
    ∃ s', execTimLockout dt h cand on s = .next s' ∧ Keeps s s' := by
  unfold execTimLockout
  refine ⟨_, rfl, ?_⟩
  try dsimp only
  repeat' first
    | with_reducible assumption | with_reducible exact Keeps.refl _ | with_reducible apply State.cancelForce_keeps
    | with_reducible apply State.command_keeps | with_reducible apply State.done_keeps | with_reducible apply State.lockOut_keeps
    | with_reducible apply State.lockRelease_keeps | with_reducible apply State.refuse_keeps | with_reducible apply State.waitAddr_keeps
    | with_reducible apply Keeps.ite | intro _ | split

theorem execTimHoldover_keeps {dt : Nat} {h : HostRef} {on : Nat} {s : State}  :
    ∃ s', execTimHoldover dt h on s = .next s' ∧ Keeps s s' := by
  unfold execTimHoldover
  refine ⟨_, rfl, ?_⟩
  try dsimp only
  repeat' first
    | with_reducible assumption | with_reducible exact Keeps.refl _ | with_reducible apply State.command_keeps
    | with_reducible apply State.done_keeps | with_reducible apply Keeps.ite | fail_if_no_progress with_reducible apply Keeps.upd
    | intro _ | split

theorem execTimSteer_keeps {dt : Nat} {h : HostRef} {value : Int} {s : State}  :
    ∃ s', execTimSteer dt h value s = .next s' ∧ Keeps s s' := by
  unfold execTimSteer
  refine ⟨_, rfl, ?_⟩
  try dsimp only
  repeat' first
    | with_reducible assumption | with_reducible exact Keeps.refl _ | with_reducible apply State.command_keeps
    | with_reducible apply State.complete_keeps | with_reducible apply State.count_keeps | with_reducible apply State.done_keeps
    | with_reducible apply State.raiseC_keeps | with_reducible apply State.wrBit_keeps | with_reducible apply Keeps.ite
    | split | fail_if_no_progress with_reducible apply Keeps.upd | intro _

theorem execTimSetTod_keeps {dt : Nat} {h : HostRef} {stamp sec ns : Nat} {s : State}  :
    ∃ s', execTimSetTod dt h stamp sec ns s = .next s' ∧ Keeps s s' := by
  unfold execTimSetTod
  refine ⟨_, rfl, ?_⟩
  try dsimp only
  repeat' first
    | with_reducible assumption | with_reducible exact Keeps.refl _ | with_reducible apply State.command_keeps
    | with_reducible apply State.done_keeps | with_reducible apply State.refuse_keeps | with_reducible apply Keeps.ite
    | fail_if_no_progress with_reducible apply Keeps.upd | intro _ | split

theorem execTimTodCapture_keeps {dt : Nat} {h : HostRef} {s : State}  :
    ∃ s', execTimTodCapture dt h s = .next s' ∧ Keeps s s' := by
  unfold execTimTodCapture
  refine ⟨_, rfl, ?_⟩
  try dsimp only
  repeat' first
    | with_reducible assumption | with_reducible exact Keeps.refl _ | with_reducible apply State.command_keeps
    | with_reducible apply State.complete_keeps | with_reducible apply State.waitAddr_keeps | intro _

theorem State.loadFit_keeps {base : State} {s : State} {p : ModelCoef} (hss : Keeps base s) :
    Keeps base (State.loadFit s p) := by
  unfold State.loadFit
  try dsimp only
  repeat' first
    | with_reducible assumption | with_reducible exact Keeps.refl _ | fail_if_no_progress with_reducible apply Keeps.upd
    | intro _

theorem execTimModelLoad_keeps {dt : Nat} {h : HostRef} {p : ModelCoef} {s : State}  :
    ∃ s', execTimModelLoad dt h p s = .next s' ∧ Keeps s s' := by
  unfold execTimModelLoad
  refine ⟨_, rfl, ?_⟩
  try dsimp only
  repeat' first
    | with_reducible assumption | with_reducible exact Keeps.refl _ | with_reducible apply State.command_keeps
    | with_reducible apply State.done_keeps | with_reducible apply State.loadFit_keeps | with_reducible apply State.raiseC_keeps
    | with_reducible apply State.refuse_keeps | with_reducible apply State.waitAddr_keeps | with_reducible apply State.wr_keeps
    | with_reducible apply IoSt.wr_keeps | with_reducible apply State.wrInt_keeps | with_reducible apply Keeps.ite
    | intro _ | split

theorem execTimWtrClear_keeps {dt : Nat} {h : HostRef} {cand : Nat} {s : State}  :
    ∃ s', execTimWtrClear dt h cand s = .next s' ∧ Keeps s s' := by
  unfold execTimWtrClear
  refine ⟨_, rfl, ?_⟩
  try dsimp only
  repeat' first
    | with_reducible assumption | with_reducible exact Keeps.refl _ | with_reducible apply State.command_keeps
    | with_reducible apply State.done_keeps | with_reducible apply State.raiseC_keeps | with_reducible apply State.refuse_keeps
    | with_reducible apply State.setCand_keeps | with_reducible apply State.waitAddr_keeps | with_reducible apply State.wr_keeps
    | with_reducible apply IoSt.wr_keeps | with_reducible apply Keeps.ite | fail_if_no_progress with_reducible apply Keeps.upd
    | intro _ | split

theorem execRefInputNoEdge_keeps {dt cand : Nat} {s : State}  :
    ∃ s', execRefInputNoEdge dt cand s = .next s' ∧ Keeps s s' := by
  unfold execRefInputNoEdge
  refine ⟨_, rfl, ?_⟩
  try dsimp only
  repeat' first
    | with_reducible assumption | with_reducible exact Keeps.refl _ | with_reducible apply State.elapse_keeps
    | with_reducible apply State.timReview_keeps | with_reducible apply Keeps.ite | fail_if_no_progress with_reducible apply Keeps.upd
    | intro _ | split

theorem execEsmcPduTimeout_keeps {dt lane : Nat} {s : State}  :
    ∃ s', execEsmcPduTimeout dt lane s = .next s' ∧ Keeps s s' := by
  unfold execEsmcPduTimeout
  refine ⟨_, rfl, ?_⟩
  try dsimp only
  repeat' first
    | with_reducible assumption | with_reducible exact Keeps.refl _ | with_reducible apply State.acceptLaneQl_keeps
    | with_reducible apply State.elapse_keeps | with_reducible apply Keeps.ite | split | fail_if_no_progress with_reducible apply Keeps.upd
    | intro _

end Sys2Proof.Machine
end

