-- ==== Sys2Proof/Laws/KeepsPerfMon.lean ====
section
/-! SUPPORT. What the operations of Machine/PerfMon.lean keep. -/

set_option Elab.async false

namespace Sys2Proof.Machine

theorem State.setPoint_keeps {base : State} {s : State} {p : Nat} {x : PmPoint} (hss : Keeps base s) :
    Keeps base (State.setPoint s p x) := by
  unfold State.setPoint
  try dsimp only
  repeat' first
    | with_reducible assumption | fail_if_no_progress with_reducible apply Keeps.upd | intro _

theorem State.pmBlocks_keeps {base : State} {s : State} {p ne fe : Nat} (hss : Keeps base s) :
    Keeps base (State.pmBlocks s p ne fe) := by
  unfold State.pmBlocks
  try dsimp only
  repeat' first
    | with_reducible assumption | with_reducible apply State.setPoint_keeps | with_reducible apply Keeps.ite
    | fail_if_no_progress with_reducible apply Keeps.upd | intro _ | split

theorem State.pmDefect_keeps {base : State} {s : State} {p : Nat} {ne fe : Bool} (hss : Keeps base s) :
    Keeps base (State.pmDefect s p ne fe) := by
  unfold State.pmDefect
  try dsimp only
  repeat' first
    | with_reducible assumption | with_reducible apply State.setPoint_keeps | with_reducible apply Keeps.ite
    | fail_if_no_progress with_reducible apply Keeps.upd | intro _ | split

theorem State.judgeTca_keeps {base : State} {s : State} {p typ : Nat} {old new : PmBin} {thr : List Nat} (hss : Keeps base s) :
    Keeps base (State.judgeTca s p typ old new thr).1 := by
  unfold State.judgeTca
  try dsimp only
  repeat' first
    | with_reducible assumption | with_reducible exact Keeps.refl _ | with_reducible apply State.count_keeps
    | with_reducible apply State.raise_keeps | with_reducible apply Keeps.ite | with_reducible apply Keeps.foldl
    | with_reducible apply Keeps.foldlFst | with_reducible apply Keeps.iteFst | fail_if_no_progress with_reducible apply Keeps.upd
    | intro _ | split

theorem State.judgeTca_keepsAs {base : State} {s : State} {p typ : Nat} {old new : PmBin} {thr : List Nat} (hss : Keeps base s) {t : State} {y : PmBin}
    (h : State.judgeTca s p typ old new thr = (t, y)) : Keeps base t := by
  have k : Keeps base (State.judgeTca s p typ old new thr).1 := State.judgeTca_keeps hss
  rw [h] at k
  exact k

theorem State.commitSec_keeps {base : State} {s : State} {p : Nat} {x : PmPoint} {sec : PmSec} (hss : Keeps base s) :
    Keeps base (State.commitSec s p x sec).1 := by
  unfold State.commitSec
  try dsimp only
  repeat' first
    | with_reducible assumption | with_reducible refine State.judgeTca_keepsAs ?_ (by with_reducible assumption)
    | with_reducible apply State.judgeTca_keeps | with_reducible apply Keeps.ite | with_reducible apply Keeps.iteFst
    | split | fail_if_no_progress with_reducible apply Keeps.upd | intro _

theorem State.commitSec_keepsAs {base : State} {s : State} {p : Nat} {x : PmPoint} {sec : PmSec} (hss : Keeps base s) {t : State} {y : PmPoint}
    (h : State.commitSec s p x sec = (t, y)) : Keeps base t := by
  have k : Keeps base (State.commitSec s p x sec).1 := State.commitSec_keeps hss
  rw [h] at k
  exact k

theorem State.exportBin_keeps {base : State} {s : State} {p typ : Nat} {b : PmBin} {on : Bool} (hss : Keeps base s) :
    Keeps base (State.exportBin s p typ b on).1 := by
  unfold State.exportBin
  try dsimp only
  repeat' first
    | with_reducible assumption | with_reducible apply State.count_keeps | with_reducible apply State.pushRecord_keeps
    | with_reducible apply Keeps.ite | with_reducible apply Keeps.iteFst | split | fail_if_no_progress with_reducible apply Keeps.upd
    | intro _

theorem State.exportBin_keepsAs {base : State} {s : State} {p typ : Nat} {b : PmBin} {on : Bool} (hss : Keeps base s) {t : State} {y : Bool}
    (h : State.exportBin s p typ b on = (t, y)) : Keeps base t := by
  have k : Keeps base (State.exportBin s p typ b on).1 := State.exportBin_keeps hss
  rw [h] at k
  exact k

theorem State.tellDrops_keeps {base : State} {s : State} {typ : Nat} (hss : Keeps base s) :
    Keeps base (State.tellDrops s typ) := by
  unfold State.tellDrops
  try dsimp only
  repeat' first
    | with_reducible assumption | with_reducible apply State.raise_keeps | with_reducible apply Keeps.ite
    | with_reducible apply Keeps.iteFst | fail_if_no_progress with_reducible apply Keeps.upd | intro _
    | split

theorem State.finalise_keeps {base : State} {s : State} {p typ : Nat} {x : PmPoint} {b0 : PmBin} (hss : Keeps base s) :
    Keeps base (State.finalise s p typ x b0).1 := by
  unfold State.finalise
  try dsimp only
  repeat' first
    | with_reducible assumption | with_reducible refine State.exportBin_keepsAs ?_ (by with_reducible assumption)
    | with_reducible apply State.exportBin_keeps | with_reducible apply Keeps.ite | with_reducible apply Keeps.iteFst
    | fail_if_no_progress with_reducible apply Keeps.upd | intro _ | split

theorem State.finalise_keepsAs {base : State} {s : State} {p typ : Nat} {x : PmPoint} {b0 : PmBin} (hss : Keeps base s) {t : State} {y : PmPoint}
    (h : State.finalise s p typ x b0 = (t, y)) : Keeps base t := by
  have k : Keeps base (State.finalise s p typ x b0).1 := State.finalise_keeps hss
  rw [h] at k
  exact k

theorem State.finaliseOld_keeps {base : State} {s : State} {p : Nat} {x : PmPoint} (hss : Keeps base s) :
    Keeps base (State.finaliseOld s p x).1 := by
  unfold State.finaliseOld
  try dsimp only
  repeat' first
    | with_reducible assumption | with_reducible exact Keeps.refl _ | with_reducible refine State.finalise_keepsAs ?_ (by with_reducible assumption)
    | with_reducible apply State.finalise_keeps | with_reducible apply Keeps.ite | with_reducible apply Keeps.iteFst
    | split | fail_if_no_progress with_reducible apply Keeps.upd | intro _

theorem State.finaliseOld_keepsAs {base : State} {s : State} {p : Nat} {x : PmPoint} (hss : Keeps base s) {t : State} {y : PmPoint}
    (h : State.finaliseOld s p x = (t, y)) : Keeps base t := by
  have k : Keeps base (State.finaliseOld s p x).1 := State.finaliseOld_keeps hss
  rw [h] at k
  exact k

theorem State.commitAll_keeps {base : State} {s : State} {p : Nat} {x : PmPoint} (hss : Keeps base s) :
    Keeps base (State.commitAll s p x).1 := by
  unfold State.commitAll
  try dsimp only
  repeat' first
    | with_reducible assumption | with_reducible exact Keeps.refl _ | with_reducible refine State.commitSec_keepsAs ?_ (by with_reducible assumption)
    | with_reducible apply State.commitSec_keeps | with_reducible apply Keeps.foldl | with_reducible apply Keeps.foldlFst
    | with_reducible apply Keeps.iteFst | fail_if_no_progress with_reducible apply Keeps.upd | intro _

theorem State.commitAll_keepsAs {base : State} {s : State} {p : Nat} {x : PmPoint} (hss : Keeps base s) {t : State} {y : PmPoint}
    (h : State.commitAll s p x = (t, y)) : Keeps base t := by
  have k : Keeps base (State.commitAll s p x).1 := State.commitAll_keeps hss
  rw [h] at k
  exact k

theorem State.closeNow_keeps {base : State} {s : State} {p : Nat} {x : PmPoint} {bit : Nat} (hss : Keeps base s) :
    Keeps base (State.closeNow s p x bit).1 := by
  unfold State.closeNow
  try dsimp only
  repeat' first
    | with_reducible assumption | with_reducible refine State.commitAll_keepsAs ?_ (by with_reducible assumption)
    | with_reducible apply State.commitAll_keeps | with_reducible refine State.finalise_keepsAs ?_ (by with_reducible assumption)
    | with_reducible apply State.finalise_keeps | with_reducible refine State.finaliseOld_keepsAs ?_ (by with_reducible assumption)
    | with_reducible apply State.finaliseOld_keeps | with_reducible apply State.tellDrops_keeps | with_reducible apply Keeps.iteFst
    | fail_if_no_progress with_reducible apply Keeps.upd | intro _

theorem State.closeNow_keepsAs {base : State} {s : State} {p : Nat} {x : PmPoint} {bit : Nat} (hss : Keeps base s) {t : State} {y : PmPoint}
    (h : State.closeNow s p x bit = (t, y)) : Keeps base t := by
  have k : Keeps base (State.closeNow s p x bit).1 := State.closeNow_keeps hss
  rw [h] at k
  exact k

theorem State.startPoint_keeps {base : State} {s : State} {p : Nat} {x : PmPoint} {c : PmCfg} (hss : Keeps base s) :
    Keeps base (State.startPoint s p x c) := by
  unfold State.startPoint
  try dsimp only
  repeat' first
    | with_reducible assumption | with_reducible apply State.setPoint_keeps | fail_if_no_progress with_reducible apply Keeps.upd
    | intro _

theorem State.stopPoint_keeps {base : State} {s : State} {p : Nat} (hss : Keeps base s) :
    Keeps base (State.stopPoint s p) := by
  unfold State.stopPoint
  try dsimp only
  repeat' first
    | with_reducible assumption | with_reducible refine State.closeNow_keepsAs ?_ (by with_reducible assumption)
    | with_reducible apply State.closeNow_keeps | with_reducible apply State.setPoint_keeps | with_reducible apply Keeps.ite
    | with_reducible apply Keeps.iteFst | fail_if_no_progress with_reducible apply Keeps.upd | intro _
    | split

theorem State.pmPlace_keeps {base : State} {s : State} {c : Nat} (hss : Keeps base s) :
    Keeps base (State.pmPlace s c) := by
  unfold State.pmPlace
  try dsimp only
  repeat' first
    | with_reducible assumption | with_reducible apply State.setPoint_keeps | with_reducible apply State.startPoint_keeps
    | with_reducible apply Keeps.ite | intro _ | split

theorem State.applyPointCfg_keeps {base : State} {s : State} {p : Nat} (hss : Keeps base s) :
    Keeps base (State.applyPointCfg s p) := by
  unfold State.applyPointCfg
  try dsimp only
  repeat' first
    | with_reducible assumption | with_reducible apply State.setPoint_keeps | with_reducible apply State.startPoint_keeps
    | with_reducible apply State.stopPoint_keeps | with_reducible apply Keeps.ite | split | fail_if_no_progress with_reducible apply Keeps.upd
    | intro _

theorem State.boundaryPoint_keeps {base : State} {s : State} {p : Nat} (hss : Keeps base s) :
    Keeps base (State.boundaryPoint s p) := by
  unfold State.boundaryPoint
  try dsimp only
  repeat' first
    | with_reducible assumption | with_reducible exact Keeps.refl _ | with_reducible apply State.count_keeps
    | with_reducible apply State.raiseOnce_keeps | with_reducible apply State.setPoint_keeps | with_reducible apply Keeps.ite
    | fail_if_no_progress with_reducible apply Keeps.upd | intro _ | split

theorem execPmSecondBoundary_keeps {dt : Nat} {s : State}  :
    ∃ s', execPmSecondBoundary dt s = .next s' ∧ Keeps s s' := by
  unfold execPmSecondBoundary
  refine ⟨_, rfl, ?_⟩
  try dsimp only
  repeat' first
    | with_reducible assumption | with_reducible exact Keeps.refl _ | with_reducible apply State.applyPointCfg_keeps
    | with_reducible apply State.boundaryPoint_keeps | with_reducible apply State.toBoundary_keeps | with_reducible apply Keeps.ite
    | with_reducible apply Keeps.foldl | with_reducible apply Keeps.foldlFst | with_reducible apply Keeps.iteFst
    | fail_if_no_progress with_reducible apply Keeps.upd | intro _ | split

theorem State.readSecond_keeps {base : State} {s : State} {p : Nat} (hss : Keeps base s) :
    Keeps base (State.readSecond s p) := by
  unfold State.readSecond
  try dsimp only
  repeat' first
    | with_reducible assumption | with_reducible refine State.commitSec_keepsAs ?_ (by with_reducible assumption)
    | with_reducible apply State.commitSec_keeps | with_reducible refine State.finaliseOld_keepsAs ?_ (by with_reducible assumption)
    | with_reducible apply State.finaliseOld_keeps | with_reducible apply State.raiseIf_keeps | with_reducible apply State.setPoint_keeps
    | with_reducible apply Keeps.ite | with_reducible apply Keeps.iteFst | split | fail_if_no_progress with_reducible apply Keeps.upd
    | intro _

theorem State.reportClosed_keeps {base : State} {s : State} (hss : Keeps base s) :
    Keeps base (State.reportClosed s) := by
  unfold State.reportClosed
  try dsimp only
  repeat' first
    | with_reducible assumption | with_reducible exact Keeps.refl _ | with_reducible apply State.raise_keeps
    | with_reducible apply State.tellDrops_keeps | with_reducible apply Keeps.ite | split | fail_if_no_progress with_reducible apply Keeps.upd
    | intro _

theorem execPmSecondRead_keeps {dt hewer : Nat} {s : State}  :
    ∃ s', execPmSecondRead dt hewer s = .next s' ∧ Keeps s s' := by
  unfold execPmSecondRead
  refine ⟨_, rfl, ?_⟩
  try dsimp only
  repeat' first
    | with_reducible assumption | with_reducible exact Keeps.refl _ | with_reducible apply State.elapse_keeps
    | with_reducible apply State.readSecond_keeps | with_reducible apply State.reportClosed_keeps | with_reducible apply Keeps.ite
    | with_reducible apply Keeps.foldl | with_reducible apply Keeps.foldlFst | with_reducible apply Keeps.iteFst
    | intro _ | split

theorem State.closeBin_keeps {base : State} {s : State} {p typ : Nat} {sec : Nat} (hss : Keeps base s) :
    Keeps base (State.closeBin s p typ sec) := by
  unfold State.closeBin
  try dsimp only
  repeat' first
    | with_reducible assumption | with_reducible refine State.finalise_keepsAs ?_ (by with_reducible assumption)
    | with_reducible apply State.finalise_keeps | with_reducible apply State.setPoint_keeps | with_reducible apply Keeps.ite
    | with_reducible apply Keeps.iteFst | split | fail_if_no_progress with_reducible apply Keeps.upd | intro _

theorem execPmBinClosure_keeps {dt hewer : Nat} {s : State}  :
    ∃ s', execPmBinClosure dt hewer s = .next s' ∧ Keeps s s' := by
  unfold execPmBinClosure
  refine ⟨_, rfl, ?_⟩
  try dsimp only
  repeat' first
    | with_reducible assumption | with_reducible exact Keeps.refl _ | with_reducible apply State.atEntry_keeps
    | with_reducible apply State.closeBin_keeps | with_reducible apply Keeps.ite | with_reducible apply Keeps.foldl
    | with_reducible apply Keeps.foldlFst | with_reducible apply Keeps.iteFst | split | fail_if_no_progress with_reducible apply Keeps.upd
    | intro _

theorem State.pmEnChanged_keeps {base : State} {s : State} (hss : Keeps base s) :
    Keeps base (State.pmEnChanged s) := by
  unfold State.pmEnChanged
  try dsimp only
  repeat' first
    | with_reducible assumption | with_reducible exact Keeps.refl _ | with_reducible apply Keeps.ite | with_reducible apply Keeps.iteFst
    | fail_if_no_progress with_reducible apply Keeps.upd | intro _ | split

theorem State.pmFreeze_keeps {base : State} {s : State} (hss : Keeps base s) :
    Keeps base (State.pmFreeze s) := by
  unfold State.pmFreeze
  try dsimp only
  repeat' first
    | with_reducible assumption | with_reducible exact Keeps.refl _ | with_reducible refine State.closeNow_keepsAs ?_ (by with_reducible assumption)
    | with_reducible apply State.closeNow_keeps | with_reducible apply State.setPoint_keeps | with_reducible apply Keeps.foldl
    | with_reducible apply Keeps.foldlFst | with_reducible apply Keeps.iteFst | fail_if_no_progress with_reducible apply Keeps.upd
    | intro _

theorem execPmnPointCfg_keeps {dt : Nat} {h : HostRef} {p : PointCfg} {s : State}  :
    ∃ s', execPmnPointCfg dt h p s = .next s' ∧ Keeps s s' := by
  unfold execPmnPointCfg
  refine ⟨_, rfl, ?_⟩
  try dsimp only
  repeat' first
    | with_reducible assumption | with_reducible exact Keeps.refl _ | with_reducible apply State.command_keeps
    | with_reducible apply State.done_keeps | with_reducible apply State.refuse_keeps | with_reducible apply State.setPoint_keeps
    | with_reducible apply Keeps.ite | fail_if_no_progress with_reducible apply Keeps.upd | intro _ | split

theorem execPmnProfileSet_keeps {dt : Nat} {h : HostRef} {p : ProfileSet} {s : State}  :
    ∃ s', execPmnProfileSet dt h p s = .next s' ∧ Keeps s s' := by
  unfold execPmnProfileSet
  refine ⟨_, rfl, ?_⟩
  try dsimp only
  repeat' first
    | with_reducible assumption | with_reducible exact Keeps.refl _ | with_reducible apply State.command_keeps
    | with_reducible apply State.done_keeps | with_reducible apply State.refuse_keeps | with_reducible apply Keeps.ite
    | fail_if_no_progress with_reducible apply Keeps.upd | intro _ | split

theorem State.histError_keeps {base : State} {s : State} {p typ i : Nat} (hss : Keeps base s) :
    Keeps base (State.histError s p typ i) := by
  unfold State.histError
  try dsimp only
  repeat' first
    | with_reducible assumption | with_reducible apply State.count_keeps | with_reducible apply State.raise_keeps
    | with_reducible apply Keeps.ite | intro _ | split

theorem execPmnHistRead_keeps {dt : Nat} {h : HostRef} {p : HistRead} {s : State}  :
    ∃ s', execPmnHistRead dt h p s = .next s' ∧ Keeps s s' := by
  unfold execPmnHistRead
  refine ⟨_, rfl, ?_⟩
  try dsimp only
  repeat' first
    | with_reducible assumption | with_reducible exact Keeps.refl _ | with_reducible apply State.command_keeps
    | with_reducible apply State.count_keeps | with_reducible apply State.done_keeps | with_reducible apply State.histError_keeps
    | with_reducible apply State.hostWrite_keeps | with_reducible apply State.refuse_keeps | with_reducible apply Keeps.ite
    | with_reducible apply Keeps.foldl | with_reducible apply Keeps.foldlFst | with_reducible apply Keeps.iteFst
    | intro _ | split

theorem execPmnPointClear_keeps {dt : Nat} {h : HostRef} {point : Nat} {c15 c24 : Bool} {s : State}  :
    ∃ s', execPmnPointClear dt h point c15 c24 s = .next s' ∧ Keeps s s' := by
  unfold execPmnPointClear
  refine ⟨_, rfl, ?_⟩
  try dsimp only
  repeat' first
    | with_reducible assumption | with_reducible exact Keeps.refl _ | with_reducible apply State.command_keeps
    | with_reducible apply State.done_keeps | with_reducible apply State.refuse_keeps | with_reducible apply State.setPoint_keeps
    | with_reducible apply Keeps.ite | fail_if_no_progress with_reducible apply Keeps.upd | intro _ | split

theorem execPmnSecRead_keeps {dt : Nat} {h : HostRef} {point host : Nat} {s : State}  :
    ∃ s', execPmnSecRead dt h point host s = .next s' ∧ Keeps s s' := by
  unfold execPmnSecRead
  refine ⟨_, rfl, ?_⟩
  try dsimp only
  repeat' first
    | with_reducible assumption | with_reducible exact Keeps.refl _ | with_reducible apply State.command_keeps
    | with_reducible apply State.done_keeps | with_reducible apply State.hostWrite_keeps | with_reducible apply State.refuse_keeps
    | with_reducible apply State.waitAddr_keeps | with_reducible apply Keeps.ite | intro _ | split

end Sys2Proof.Machine
end

