-- ==== Sys2Proof/Laws/KeepsFilters.lean ====
section
/-! SUPPORT. What the operations of Machine/Filters.lean keep. -/

set_option Elab.async false

namespace Sys2Proof.Machine

theorem State.setChan_keeps {base : State} {s : State} {n : Nat} {c : FltChan} (hss : Keeps base s) :
    Keeps base (State.setChan s n c) := by
  unfold State.setChan
  try dsimp only
  repeat' first
    | with_reducible assumption | fail_if_no_progress with_reducible apply Keeps.upd | intro _

theorem State.setFeed_keeps {base : State} {s : State} {k : Nat} {f : FeedSt} (hss : Keeps base s) :
    Keeps base (State.setFeed s k f) := by
  unfold State.setFeed
  try dsimp only
  repeat' first
    | with_reducible assumption | fail_if_no_progress with_reducible apply Keeps.upd | intro _

theorem State.feedLow_keeps {base : State} {s : State} {k : Nat} {stamp v : Int} (hss : Keeps base s) :
    Keeps base (State.feedLow s k stamp v) := by
  unfold State.feedLow
  try dsimp only
  repeat' first
    | with_reducible assumption | with_reducible apply State.raiseIf_keeps | with_reducible apply State.setFeed_keeps
    | with_reducible apply State.wrBit_keeps | with_reducible apply Keeps.ite | fail_if_no_progress with_reducible apply Keeps.upd
    | intro _ | split

theorem State.feedPair_keeps {base : State} {s : State} {k : Nat} (hss : Keeps base s) :
    Keeps base (State.feedPair s k) := by
  unfold State.feedPair
  try dsimp only
  repeat' first
    | with_reducible assumption | with_reducible apply State.draw_keeps | with_reducible apply State.raise_keeps
    | with_reducible apply State.setFeed_keeps | with_reducible apply State.wr_keeps | with_reducible apply IoSt.wr_keeps
    | with_reducible apply State.wrBit_keeps | with_reducible apply Keeps.ite | split | fail_if_no_progress with_reducible apply Keeps.upd
    | intro _

theorem State.feedWord_keeps {base : State} {s : State} {ch : Nat} {stamp v : Int} (hss : Keeps base s) :
    Keeps base (State.feedWord s ch stamp v) := by
  unfold State.feedWord
  try dsimp only
  repeat' first
    | with_reducible assumption | with_reducible apply State.draw_keeps | with_reducible apply State.feedLow_keeps
    | with_reducible apply State.feedPair_keeps | with_reducible apply State.setFeed_keeps | with_reducible apply State.wr_keeps
    | with_reducible apply IoSt.wr_keeps | with_reducible apply Keeps.ite | fail_if_no_progress with_reducible apply Keeps.upd
    | intro _ | split

theorem State.deliverWord_keeps {base : State} {s : State} {ch : Nat} {w : FltWord} (hss : Keeps base s) :
    Keeps base (State.deliverWord s ch w) := by
  unfold State.deliverWord
  try dsimp only
  repeat' first
    | with_reducible assumption | with_reducible apply State.count_keeps | with_reducible apply State.feedWord_keeps
    | with_reducible apply State.pushRecord_keeps | with_reducible apply State.setChan_keeps | with_reducible apply Keeps.ite
    | fail_if_no_progress with_reducible apply Keeps.upd | intro _ | split

theorem State.judgeSat_keeps {base : State} {s : State} {ch : Nat} {sat : Option Int} (hss : Keeps base s) :
    Keeps base (State.judgeSat s ch sat) := by
  unfold State.judgeSat
  try dsimp only
  repeat' first
    | with_reducible assumption | with_reducible apply State.count_keeps | with_reducible apply State.raiseIf_keeps
    | with_reducible apply State.wrBit_keeps | split | fail_if_no_progress with_reducible apply Keeps.upd
    | intro _

theorem State.unstick_keeps {base : State} {s : State} {ch : Nat} {raw : List Int} (hss : Keeps base s) :
    Keeps base (State.unstick s ch raw) := by
  unfold State.unstick
  try dsimp only
  repeat' first
    | with_reducible assumption | with_reducible exact Keeps.refl _ | with_reducible apply State.wrBit_keeps
    | with_reducible apply Keeps.ite | intro _ | split

theorem State.runCurrent_keeps {base : State} {s : State} {ch : Nat} {raw : List Int} (hss : Keeps base s) :
    Keeps base (State.runCurrent s ch raw) := by
  unfold State.runCurrent
  try dsimp only
  repeat' first
    | with_reducible assumption | with_reducible apply State.countBy_keeps | with_reducible apply IoSt.countBy_keeps
    | with_reducible apply State.deliverWord_keeps | with_reducible apply State.draw_keeps | with_reducible apply State.judgeSat_keeps
    | with_reducible apply State.setChan_keeps | with_reducible apply State.wrBit_keeps | with_reducible apply State.wrInt_keeps
    | with_reducible apply Keeps.ite | with_reducible apply Keeps.iteFst | split | fail_if_no_progress with_reducible apply Keeps.upd
    | intro _

theorem State.runIncoming_keeps {base : State} {s : State} {ch : Nat} {raw : List Int} {x : FltInst} (hss : Keeps base s) :
    Keeps base (State.runIncoming s ch raw x) := by
  unfold State.runIncoming
  try dsimp only
  repeat' first
    | with_reducible assumption | with_reducible apply State.countBy_keeps | with_reducible apply IoSt.countBy_keeps
    | with_reducible apply State.deliverWord_keeps | with_reducible apply State.draw_keeps | with_reducible apply State.judgeSat_keeps
    | with_reducible apply State.setChan_keeps | with_reducible apply State.wrBit_keeps | with_reducible apply State.wrInt_keeps
    | with_reducible apply Keeps.ite | with_reducible apply Keeps.iteFst | split | fail_if_no_progress with_reducible apply Keeps.upd
    | intro _

theorem execFltOutputWord_keeps {dt ch : Nat} {incoming : Bool} {samples : List Int} {s : State}  :
    ∃ s', execFltOutputWord dt ch incoming samples s = .next s' ∧ Keeps s s' := by
  unfold execFltOutputWord
  refine ⟨_, rfl, ?_⟩
  try dsimp only
  repeat' first
    | with_reducible assumption | with_reducible exact Keeps.refl _ | with_reducible apply State.elapse_keeps
    | with_reducible apply State.runCurrent_keeps | with_reducible apply State.runIncoming_keeps | with_reducible apply State.toBoundary_keeps
    | with_reducible apply State.unstick_keeps | with_reducible apply Keeps.ite | split | fail_if_no_progress with_reducible apply Keeps.upd
    | intro _

theorem execInputStuck_keeps {dt ch level : Nat} {s : State}  :
    ∃ s', execInputStuck dt ch level s = .next s' ∧ Keeps s s' := by
  unfold execInputStuck
  refine ⟨_, rfl, ?_⟩
  try dsimp only
  repeat' first
    | with_reducible assumption | with_reducible exact Keeps.refl _ | with_reducible apply State.elapse_keeps
    | with_reducible apply State.raise_keeps | with_reducible apply State.setChan_keeps | with_reducible apply State.wrBit_keeps
    | with_reducible apply Keeps.ite | fail_if_no_progress with_reducible apply Keeps.upd | intro _ | split

theorem State.setBank_keeps {base : State} {s : State} {ch b : Nat} {x : FltBank} (hss : Keeps base s) :
    Keeps base (State.setBank s ch b x) := by
  unfold State.setBank
  try dsimp only
  repeat' first
    | with_reducible assumption | with_reducible apply State.setChan_keeps | with_reducible apply Keeps.ite
    | fail_if_no_progress with_reducible apply Keeps.upd | intro _ | split

theorem State.checkBank_keeps {base : State} {s : State} {ch b : Nat} (hss : Keeps base s) :
    Keeps base (State.checkBank s ch b) := by
  unfold State.checkBank
  try dsimp only
  repeat' first
    | with_reducible assumption | with_reducible apply State.raiseC_keeps | with_reducible apply State.wrBit_keeps
    | with_reducible apply Keeps.ite | intro _ | split

theorem execXfadeStart_keeps {dt ch : Nat} {s : State}  :
    ∃ s', execXfadeStart dt ch s = .next s' ∧ Keeps s s' := by
  unfold execXfadeStart
  refine ⟨_, rfl, ?_⟩
  try dsimp only
  repeat' first
    | with_reducible assumption | with_reducible exact Keeps.refl _ | with_reducible apply State.checkBank_keeps
    | with_reducible apply State.done_keeps | with_reducible apply State.elapse_keeps | with_reducible apply State.setBank_keeps
    | with_reducible apply State.setChan_keeps | with_reducible apply State.whenAddr_keeps | with_reducible apply State.wr_keeps
    | with_reducible apply IoSt.wr_keeps | with_reducible apply State.wrBit_keeps | with_reducible apply Keeps.ite
    | with_reducible apply Keeps.iteFst | split | fail_if_no_progress with_reducible apply Keeps.upd | intro _

theorem State.endFade_keeps {base : State} {s : State} {ch : Nat} {x : FltInst} (hss : Keeps base s) :
    Keeps base (State.endFade s ch x) := by
  unfold State.endFade
  try dsimp only
  repeat' first
    | with_reducible assumption | with_reducible apply State.raise_keeps | with_reducible apply State.setChan_keeps
    | with_reducible apply State.wrBit_keeps | fail_if_no_progress with_reducible apply Keeps.upd | intro _

theorem execXfadeDone_keeps {dt ch : Nat} {s : State}  :
    ∃ s', execXfadeDone dt ch s = .next s' ∧ Keeps s s' := by
  unfold execXfadeDone
  refine ⟨_, rfl, ?_⟩
  try dsimp only
  repeat' first
    | with_reducible assumption | with_reducible exact Keeps.refl _ | with_reducible apply State.elapse_keeps
    | with_reducible apply State.endFade_keeps | with_reducible apply Keeps.ite | split | fail_if_no_progress with_reducible apply Keeps.upd
    | intro _

theorem State.deferSwap_keeps {base : State} {s : State} {ch : Nat} {w : Nat × HostRef} (hss : Keeps base s) :
    Keeps base (State.deferSwap s ch w) := by
  unfold State.deferSwap
  try dsimp only
  repeat' first
    | with_reducible assumption | with_reducible apply State.count_keeps | with_reducible apply State.raiseC_keeps
    | with_reducible apply State.refuse_keeps | with_reducible apply State.setChan_keeps | with_reducible apply State.wr_keeps
    | with_reducible apply IoSt.wr_keeps | with_reducible apply State.wrBit_keeps | with_reducible apply Keeps.iteFst
    | split | fail_if_no_progress with_reducible apply Keeps.upd | intro _

theorem State.applySwap_keeps {base : State} {s : State} {ch : Nat} {w : Nat × HostRef} (hss : Keeps base s) :
    Keeps base (State.applySwap s ch w) := by
  unfold State.applySwap
  try dsimp only
  repeat' first
    | with_reducible assumption | with_reducible apply State.done_keeps | with_reducible apply State.raise_keeps
    | with_reducible apply State.setChan_keeps | with_reducible apply State.wr_keeps | with_reducible apply IoSt.wr_keeps
    | with_reducible apply Keeps.iteFst | fail_if_no_progress with_reducible apply Keeps.upd | intro _

theorem State.applyDeferred_keeps {base : State} {s : State} {ch : Nat} (hss : Keeps base s) :
    Keeps base (State.applyDeferred s ch) := by
  unfold State.applyDeferred
  try dsimp only
  repeat' first
    | with_reducible assumption | with_reducible apply State.applySwap_keeps | with_reducible apply State.raise_keeps
    | with_reducible apply State.refuse_keeps | with_reducible apply State.setChan_keeps | with_reducible apply State.wrBit_keeps
    | with_reducible apply Keeps.ite | with_reducible apply Keeps.iteFst | split | fail_if_no_progress with_reducible apply Keeps.upd
    | intro _

theorem execSwapDone_keeps {dt ch : Nat} {s : State}  :
    ∃ s', execSwapDone dt ch s = .next s' ∧ Keeps s s' := by
  unfold execSwapDone
  refine ⟨_, rfl, ?_⟩
  try dsimp only
  repeat' first
    | with_reducible assumption | with_reducible exact Keeps.refl _ | with_reducible apply State.applyDeferred_keeps
    | with_reducible apply State.applySwap_keeps | with_reducible apply State.deferSwap_keeps | with_reducible apply State.elapse_keeps
    | with_reducible apply State.setChan_keeps | with_reducible apply Keeps.ite | with_reducible apply Keeps.foldl
    | fail_if_no_progress with_reducible apply Keeps.upd | intro _ | split

theorem State.resetChan_keeps {base : State} {s : State} {ch : Nat} (hss : Keeps base s) :
    Keeps base (State.resetChan s ch) := by
  unfold State.resetChan
  try dsimp only
  repeat' first
    | with_reducible assumption | with_reducible apply State.endFade_keeps | with_reducible apply State.setChan_keeps
    | with_reducible apply State.wrBit_keeps | with_reducible apply State.wrInt_keeps | split | fail_if_no_progress with_reducible apply Keeps.upd
    | intro _

theorem execFltSyncResetApply_keeps {dt : Nat} {s : State}  :
    ∃ s', execFltSyncResetApply dt s = .next s' ∧ Keeps s s' := by
  unfold execFltSyncResetApply
  refine ⟨_, rfl, ?_⟩
  try dsimp only
  repeat' first
    | with_reducible assumption | with_reducible exact Keeps.refl _ | with_reducible apply State.elapse_keeps
    | with_reducible apply State.resetChan_keeps | with_reducible apply State.whenAddr_keeps | with_reducible apply Keeps.ite
    | with_reducible apply Keeps.foldl | with_reducible apply Keeps.foldlFst | with_reducible apply Keeps.iteFst
    | split | fail_if_no_progress with_reducible apply Keeps.upd | intro _

theorem execFltConfig_keeps {dt : Nat} {h : HostRef} {p : FltCfg} {s : State}  :
    ∃ s', execFltConfig dt h p s = .next s' ∧ Keeps s s' := by
  unfold execFltConfig
  refine ⟨_, rfl, ?_⟩
  try dsimp only
  repeat' first
    | with_reducible assumption | with_reducible exact Keeps.refl _ | with_reducible apply State.command_keeps
    | with_reducible apply State.refuse_keeps | with_reducible apply State.setChan_keeps | with_reducible apply Keeps.ite
    | fail_if_no_progress with_reducible apply Keeps.upd | intro _ | split

theorem execFltCoefLoad_keeps {dt : Nat} {h : HostRef} {ch bank first : Nat} {start : Bool} {taps : List Int} {s : State}  :
    ∃ s', execFltCoefLoad dt h ch bank first start taps s = .next s' ∧ Keeps s s' := by
  unfold execFltCoefLoad
  refine ⟨_, rfl, ?_⟩
  try dsimp only
  repeat' first
    | with_reducible assumption | with_reducible exact Keeps.refl _ | with_reducible apply State.checkBank_keeps
    | with_reducible apply State.command_keeps | with_reducible apply State.done_keeps | with_reducible apply State.refuse_keeps
    | with_reducible apply State.setBank_keeps | with_reducible apply State.setChan_keeps | with_reducible apply State.wrBit_keeps
    | with_reducible apply Keeps.ite | fail_if_no_progress with_reducible apply Keeps.upd | intro _ | split

theorem execFltSwap_keeps {dt : Nat} {h : HostRef} {ch bank : Nat} {s : State}  :
    ∃ s', execFltSwap dt h ch bank s = .next s' ∧ Keeps s s' := by
  unfold execFltSwap
  refine ⟨_, rfl, ?_⟩
  try dsimp only
  repeat' first
    | with_reducible assumption | with_reducible exact Keeps.refl _ | with_reducible apply State.command_keeps
    | with_reducible apply State.deferSwap_keeps | with_reducible apply State.done_keeps | with_reducible apply State.refuse_keeps
    | with_reducible apply State.setChan_keeps | with_reducible apply Keeps.ite | fail_if_no_progress with_reducible apply Keeps.upd
    | intro _ | split

theorem execFltSyncReset_keeps {dt : Nat} {h : HostRef} {mask stamp : Nat} {s : State}  :
    ∃ s', execFltSyncReset dt h mask stamp s = .next s' ∧ Keeps s s' := by
  unfold execFltSyncReset
  refine ⟨_, rfl, ?_⟩
  try dsimp only
  repeat' first
    | with_reducible assumption | with_reducible exact Keeps.refl _ | with_reducible apply State.command_keeps
    | with_reducible apply State.done_keeps | with_reducible apply State.refuse_keeps | with_reducible apply Keeps.ite
    | fail_if_no_progress with_reducible apply Keeps.upd | intro _ | split

theorem State.freezeChans_keeps {base : State} {s : State} {mask : Nat} {feeds on : Bool} (hss : Keeps base s) :
    Keeps base (State.freezeChans s mask feeds on) := by
  unfold State.freezeChans
  try dsimp only
  repeat' first
    | with_reducible assumption | with_reducible exact Keeps.refl _ | with_reducible apply State.wrBit_keeps
    | with_reducible apply Keeps.ite | with_reducible apply Keeps.foldl | intro _ | split

theorem execFltFreeze_keeps {dt : Nat} {h : HostRef} {mask on : Nat} {s : State}  :
    ∃ s', execFltFreeze dt h mask on s = .next s' ∧ Keeps s s' := by
  unfold execFltFreeze
  refine ⟨_, rfl, ?_⟩
  try dsimp only
  repeat' first
    | with_reducible assumption | with_reducible exact Keeps.refl _ | with_reducible apply State.command_keeps
    | with_reducible apply State.done_keeps | with_reducible apply State.freezeChans_keeps | with_reducible apply State.refuse_keeps
    | with_reducible apply State.waitAddr_keeps | with_reducible apply Keeps.ite | intro _ | split

end Sys2Proof.Machine
end

