-- ==== Sys2Proof/Laws/KeepsFraming.lean ====
section
/-! SUPPORT. What the operations of Machine/Framing.lean keep. -/

set_option Elab.async false

namespace Sys2Proof.Machine

theorem State.setFramer_keeps {base : State} {s : State} {k : Nat} {u : FrmUnit} (hss : Keeps base s) :
    Keeps base (State.setFramer s k u) := by
  unfold State.setFramer
  try dsimp only
  repeat' first
    | with_reducible assumption | fail_if_no_progress with_reducible apply Keeps.upd | intro _

theorem State.laneRegs_keeps {base : State} {s : State} {l : Nat} (hss : Keeps base s) :
    Keeps base (State.laneRegs s l) := by
  unfold State.laneRegs
  try dsimp only
  repeat' first
    | with_reducible assumption | with_reducible apply State.wr_keeps | with_reducible apply IoSt.wr_keeps
    | with_reducible apply State.wrBit_keeps | with_reducible apply Keeps.ite | intro _ | split

theorem State.reportDefect_keeps {base : State} {s : State} {k c : Nat} {on : Bool} (hss : Keeps base s) :
    Keeps base (State.reportDefect s k c on) := by
  unfold State.reportDefect
  try dsimp only
  repeat' first
    | with_reducible assumption | with_reducible apply State.raiseLim_keeps | intro _

theorem State.settleOne_keeps {base : State} {s : State} {k : Nat} (hss : Keeps base s) :
    Keeps base (State.settleOne s k) := by
  unfold State.settleOne
  try dsimp only
  repeat' first
    | with_reducible assumption | with_reducible exact Keeps.refl _ | with_reducible apply State.laneRegs_keeps
    | with_reducible apply State.pmDefect_keeps | with_reducible apply State.reportDefect_keeps | with_reducible apply State.setFramer_keeps
    | with_reducible apply Keeps.ite | with_reducible apply Keeps.foldl | split | fail_if_no_progress with_reducible apply Keeps.upd
    | intro _

theorem State.settle_keeps {base : State} {s : State} {k : Nat} (hss : Keeps base s) :
    Keeps base (State.settle s k) := by
  unfold State.settle
  try dsimp only
  repeat' first
    | with_reducible assumption | with_reducible exact Keeps.refl _ | with_reducible apply State.settleOne_keeps
    | with_reducible apply State.timReview_keeps | with_reducible apply Keeps.foldl | with_reducible apply Keeps.foldlFst
    | with_reducible apply Keeps.iteFst | intro _

theorem State.countOof_keeps {base : State} {s : State} {k : Nat} {was : FrmUnit} (hss : Keeps base s) :
    Keeps base (State.countOof s k was) := by
  unfold State.countOof
  try dsimp only
  repeat' first
    | with_reducible assumption | with_reducible apply State.count_keeps | with_reducible apply Keeps.ite
    | intro _ | split

theorem State.framerLos_keeps {base : State} {s : State} {k : Nat} {los stop : Bool} (hss : Keeps base s) :
    Keeps base (State.framerLos s k los stop) := by
  unfold State.framerLos
  try dsimp only
  repeat' first
    | with_reducible assumption | with_reducible apply State.countOof_keeps | with_reducible apply State.setFramer_keeps
    | with_reducible apply State.settle_keeps | with_reducible apply Keeps.ite | intro _ | split

theorem State.takeLabel_keeps {base : State} {s : State} {k kind v : Nat} (hss : Keeps base s) :
    Keeps base (State.takeLabel s k kind v) := by
  unfold State.takeLabel
  try dsimp only
  repeat' first
    | with_reducible assumption | with_reducible apply State.raise_keeps | with_reducible apply State.setFramer_keeps
    | with_reducible apply Keeps.ite | fail_if_no_progress with_reducible apply Keeps.upd | intro _ | split

theorem State.takeTrace_keeps {base : State} {s : State} {k kind layer : Nat} {v : List Nat} (hss : Keeps base s) :
    Keeps base (State.takeTrace s k kind layer v) := by
  unfold State.takeTrace
  try dsimp only
  repeat' first
    | with_reducible assumption | with_reducible apply State.raise_keeps | with_reducible apply State.setFramer_keeps
    | with_reducible apply Keeps.ite | fail_if_no_progress with_reducible apply Keeps.upd | intro _ | split

theorem State.takeAps_keeps {base : State} {s : State} {k : Nat} {v : List Nat} (hss : Keeps base s) :
    Keeps base (State.takeAps s k v) := by
  unfold State.takeAps
  try dsimp only
  repeat' first
    | with_reducible assumption | with_reducible apply State.raise_keeps | with_reducible apply State.setFramer_keeps
    | with_reducible apply Keeps.ite | split | fail_if_no_progress with_reducible apply Keeps.upd | intro _

theorem State.giveQl_keeps {base : State} {s : State} {k : Nat} {sa : Option Nat} {v : Nat} (hss : Keeps base s) :
    Keeps base (State.giveQl s k sa v) := by
  unfold State.giveQl
  try dsimp only
  repeat' first
    | with_reducible assumption | with_reducible exact Keeps.refl _ | with_reducible apply State.acceptLaneQl_keeps
    | with_reducible apply State.acceptQl_keeps | with_reducible apply Keeps.ite | split | fail_if_no_progress with_reducible apply Keeps.upd
    | intro _

theorem State.takeSsm_keeps {base : State} {s : State} {k kind v : Nat} (hss : Keeps base s) :
    Keeps base (State.takeSsm s k kind v) := by
  unfold State.takeSsm
  try dsimp only
  repeat' first
    | with_reducible assumption | with_reducible apply State.count_keeps | with_reducible apply State.giveQl_keeps
    | with_reducible apply State.setFramer_keeps | with_reducible apply Keeps.ite | fail_if_no_progress with_reducible apply Keeps.upd
    | intro _ | split

theorem State.takeSas_keeps {base : State} {s : State} {k : Nat} {sas : List Nat} (hss : Keeps base s) :
    Keeps base (State.takeSas s k sas) := by
  unfold State.takeSas
  try dsimp only
  repeat' first
    | with_reducible assumption | with_reducible exact Keeps.refl _ | with_reducible apply State.giveQl_keeps
    | with_reducible apply State.setFramer_keeps | with_reducible apply Keeps.ite | with_reducible apply Keeps.foldl
    | with_reducible apply Keeps.foldlFst | with_reducible apply Keeps.iteFst | fail_if_no_progress with_reducible apply Keeps.upd
    | intro _ | split

theorem State.takeFec_keeps {base : State} {s : State} {l0 corr uncorr : Nat} (hss : Keeps base s) :
    Keeps base (State.takeFec s l0 corr uncorr) := by
  unfold State.takeFec
  try dsimp only
  repeat' first
    | with_reducible assumption | with_reducible apply State.countBy_keeps | with_reducible apply IoSt.countBy_keeps
    | with_reducible apply State.pmBlocks_keeps | with_reducible apply State.setFramer_keeps | with_reducible apply Keeps.ite
    | fail_if_no_progress with_reducible apply Keeps.upd | intro _ | split

theorem State.takeCounts_keeps {base : State} {s : State} {k kind : Nat} {f : FrmFrame} (hss : Keeps base s) :
    Keeps base (State.takeCounts s k kind f) := by
  unfold State.takeCounts
  try dsimp only
  repeat' first
    | with_reducible assumption | with_reducible apply State.countBy_keeps | with_reducible apply IoSt.countBy_keeps
    | with_reducible apply State.pmBlocks_keeps | with_reducible apply State.setFramer_keeps | with_reducible apply Keeps.ite
    | split | fail_if_no_progress with_reducible apply Keeps.upd | intro _

theorem State.takeCrc4_keeps {base : State} {s : State} {k kind : Nat} {f : FrmFrame} (hss : Keeps base s) :
    Keeps base (State.takeCrc4 s k kind f) := by
  unfold State.takeCrc4
  try dsimp only
  repeat' first
    | with_reducible assumption | with_reducible apply State.setFramer_keeps | with_reducible apply Keeps.ite
    | fail_if_no_progress with_reducible apply Keeps.upd | intro _ | split

theorem State.takeJust_keeps {base : State} {s : State} {k kind : Nat} {was : FrmUnit} {f : FrmFrame} (hss : Keeps base s) :
    Keeps base (State.takeJust s k kind was f) := by
  unfold State.takeJust
  try dsimp only
  repeat' first
    | with_reducible assumption | with_reducible apply State.setFramer_keeps | with_reducible apply Keeps.ite
    | with_reducible apply Keeps.iteFst | split | fail_if_no_progress with_reducible apply Keeps.upd | intro _

theorem State.takeCopies_keeps {base : State} {s : State} {k : Nat} {r : Nat × Nat} (hss : Keeps base s) :
    Keeps base (State.takeCopies s k r) := by
  unfold State.takeCopies
  try dsimp only
  repeat' first
    | with_reducible assumption | with_reducible apply State.countBy_keeps | with_reducible apply IoSt.countBy_keeps
    | with_reducible apply State.setFramer_keeps | with_reducible apply Keeps.iteFst | split | fail_if_no_progress with_reducible apply Keeps.upd
    | intro _

theorem State.takeGasp_keeps {base : State} {s : State} {k : Nat} {on : Bool} (hss : Keeps base s) :
    Keeps base (State.takeGasp s k on) := by
  unfold State.takeGasp
  try dsimp only
  repeat' first
    | with_reducible assumption | with_reducible apply State.raise_keeps | with_reducible apply State.setFramer_keeps
    | with_reducible apply Keeps.ite | fail_if_no_progress with_reducible apply Keeps.upd | intro _ | split

theorem State.frameAlign_keeps {base : State} {s : State} {k kind : Nat} {f : FrmFrame} (hss : Keeps base s) :
    Keeps base (State.frameAlign s k kind f) := by
  unfold State.frameAlign
  try dsimp only
  repeat' first
    | with_reducible assumption | with_reducible exact Keeps.refl _ | with_reducible apply State.countOof_keeps
    | with_reducible apply State.setFramer_keeps | with_reducible apply Keeps.ite | with_reducible apply Keeps.foldl
    | split | fail_if_no_progress with_reducible apply Keeps.upd | intro _

theorem State.frameValues_keeps {base : State} {s : State} {k kind : Nat} {f : FrmFrame} (hss : Keeps base s) :
    Keeps base (State.frameValues s k kind f) := by
  unfold State.frameValues
  try dsimp only
  repeat' first
    | with_reducible assumption | with_reducible apply State.takeAps_keeps | with_reducible apply State.takeCopies_keeps
    | with_reducible apply State.takeGasp_keeps | with_reducible apply State.takeLabel_keeps | with_reducible apply State.takeSas_keeps
    | with_reducible apply State.takeSsm_keeps | with_reducible apply State.takeTrace_keeps | with_reducible apply Keeps.ite
    | split | fail_if_no_progress with_reducible apply Keeps.upd | intro _

theorem execFramerFrameRx_keeps {dt framer : Nat} {f : FrmFrame} {s : State}  :
    ∃ s', execFramerFrameRx dt framer f s = .next s' ∧ Keeps s s' := by
  unfold execFramerFrameRx
  refine ⟨_, rfl, ?_⟩
  try dsimp only
  repeat' first
    | with_reducible assumption | with_reducible exact Keeps.refl _ | with_reducible apply State.elapse_keeps
    | with_reducible apply State.frameAlign_keeps | with_reducible apply State.frameValues_keeps | with_reducible apply State.settle_keeps
    | with_reducible apply State.takeCounts_keeps | with_reducible apply State.takeCrc4_keeps | with_reducible apply State.takeFec_keeps
    | with_reducible apply State.takeJust_keeps | with_reducible apply Keeps.ite | intro _ | split

theorem execLofDeclare_keeps {dt framer : Nat} {s : State}  :
    ∃ s', execLofDeclare dt framer s = .next s' ∧ Keeps s s' := by
  unfold execLofDeclare
  refine ⟨_, rfl, ?_⟩
  try dsimp only
  repeat' first
    | with_reducible assumption | with_reducible exact Keeps.refl _ | with_reducible apply State.elapse_keeps
    | with_reducible apply State.setFramer_keeps | with_reducible apply State.settle_keeps | with_reducible apply Keeps.ite
    | split | fail_if_no_progress with_reducible apply Keeps.upd | intro _

theorem execOtlLol_keeps {dt lane : Nat} {lanes : List OtlLane} {s : State}  :
    ∃ s', execOtlLol dt lane lanes s = .next s' ∧ Keeps s s' := by
  unfold execOtlLol
  refine ⟨_, rfl, ?_⟩
  try dsimp only
  repeat' first
    | with_reducible assumption | with_reducible exact Keeps.refl _ | with_reducible apply State.countOof_keeps
    | with_reducible apply State.elapse_keeps | with_reducible apply State.pmDefect_keeps | with_reducible apply State.setFramer_keeps
    | with_reducible apply State.settle_keeps | with_reducible apply State.wr_keeps | with_reducible apply IoSt.wr_keeps
    | with_reducible apply Keeps.ite | with_reducible apply Keeps.foldl | with_reducible apply Keeps.foldlFst
    | with_reducible apply Keeps.iteFst | split | fail_if_no_progress with_reducible apply Keeps.upd | intro _

theorem execCrc4SearchTimeout_keeps {dt ctx : Nat} {found : Bool} {s : State}  :
    ∃ s', execCrc4SearchTimeout dt ctx found s = .next s' ∧ Keeps s s' := by
  unfold execCrc4SearchTimeout
  refine ⟨_, rfl, ?_⟩
  try dsimp only
  repeat' first
    | with_reducible assumption | with_reducible exact Keeps.refl _ | with_reducible apply State.countOof_keeps
    | with_reducible apply State.elapse_keeps | with_reducible apply State.setFramer_keeps | with_reducible apply State.settle_keeps
    | with_reducible apply Keeps.ite | split | fail_if_no_progress with_reducible apply Keeps.upd | intro _

theorem State.judgeTim_keeps {base : State} {s : State} {k kind : Nat} (hss : Keeps base s) :
    Keeps base (State.judgeTim s k kind) := by
  unfold State.judgeTim
  try dsimp only
  repeat' first
    | with_reducible assumption | with_reducible apply State.setFramer_keeps | split | fail_if_no_progress with_reducible apply Keeps.upd
    | intro _

theorem State.integrate_keeps {base : State} {s : State} {k : Nat} (hss : Keeps base s) :
    Keeps base (State.integrate s k) := by
  unfold State.integrate
  try dsimp only
  repeat' first
    | with_reducible assumption | with_reducible exact Keeps.refl _ | with_reducible apply State.raise_keeps
    | with_reducible apply State.setFramer_keeps | with_reducible apply Keeps.ite | with_reducible apply Keeps.foldl
    | fail_if_no_progress with_reducible apply Keeps.upd | intro _ | split

theorem State.setGroup_keeps {base : State} {s : State} {n : Nat} {g : ApsGroup} (hss : Keeps base s) :
    Keeps base (State.setGroup s n g) := by
  unfold State.setGroup
  try dsimp only
  repeat' first
    | with_reducible assumption | fail_if_no_progress with_reducible apply Keeps.upd | intro _

theorem State.evalGroup_keeps {base : State} {s : State} {n : Nat} (hss : Keeps base s) :
    Keeps base (State.evalGroup s n) := by
  unfold State.evalGroup
  try dsimp only
  repeat' first
    | with_reducible assumption | with_reducible apply State.setGroup_keeps | with_reducible apply Keeps.ite
    | split | fail_if_no_progress with_reducible apply Keeps.upd | intro _

theorem execOhExtract_keeps {dt ctx : Nat} {s : State}  :
    ∃ s', execOhExtract dt ctx s = .next s' ∧ Keeps s s' := by
  unfold execOhExtract
  refine ⟨_, rfl, ?_⟩
  try dsimp only
  repeat' first
    | with_reducible assumption | with_reducible exact Keeps.refl _ | with_reducible apply State.elapse_keeps
    | with_reducible apply State.evalGroup_keeps | with_reducible apply State.integrate_keeps | with_reducible apply State.judgeTim_keeps
    | with_reducible apply State.setFramer_keeps | with_reducible apply State.settle_keeps | with_reducible apply Keeps.ite
    | split | fail_if_no_progress with_reducible apply Keeps.upd | intro _

theorem State.takeLeg_keeps {base : State} {s : State} {ctx : Nat} (hss : Keeps base s) :
    Keeps base (State.takeLeg s ctx) := by
  unfold State.takeLeg
  try dsimp only
  repeat' first
    | with_reducible assumption | with_reducible apply State.raiseIf_keeps | with_reducible apply State.send_keeps
    | with_reducible apply State.setGroup_keeps | with_reducible apply Keeps.ite | split | fail_if_no_progress with_reducible apply Keeps.upd
    | intro _

theorem execOhInsert_keeps {dt ctx : Nat} {complete : Bool} {s : State}  :
    ∃ s', execOhInsert dt ctx complete s = .next s' ∧ Keeps s s' := by
  unfold execOhInsert
  refine ⟨_, rfl, ?_⟩
  try dsimp only
  repeat' first
    | with_reducible assumption | with_reducible exact Keeps.refl _ | with_reducible apply State.count_keeps
    | with_reducible apply State.elapse_keeps | with_reducible apply State.raiseOnce_keeps | with_reducible apply State.send_keeps
    | with_reducible apply State.setFramer_keeps | with_reducible apply State.takeLeg_keeps | with_reducible apply Keeps.ite
    | split | fail_if_no_progress with_reducible apply Keeps.upd | intro _

theorem execApsHoldoffExpiry_keeps {dt group : Nat} {s : State}  :
    ∃ s', execApsHoldoffExpiry dt group s = .next s' ∧ Keeps s s' := by
  unfold execApsHoldoffExpiry
  refine ⟨_, rfl, ?_⟩
  try dsimp only
  repeat' first
    | with_reducible assumption | with_reducible exact Keeps.refl _ | with_reducible apply State.elapse_keeps
    | with_reducible apply State.evalGroup_keeps | with_reducible apply State.setGroup_keeps | split | fail_if_no_progress with_reducible apply Keeps.upd
    | intro _

theorem execApsWtrExpiry_keeps {dt group : Nat} {s : State}  :
    ∃ s', execApsWtrExpiry dt group s = .next s' ∧ Keeps s s' := by
  unfold execApsWtrExpiry
  refine ⟨_, rfl, ?_⟩
  try dsimp only
  repeat' first
    | with_reducible assumption | with_reducible exact Keeps.refl _ | with_reducible apply State.elapse_keeps
    | with_reducible apply State.evalGroup_keeps | with_reducible apply State.setGroup_keeps | split | fail_if_no_progress with_reducible apply Keeps.upd
    | intro _

theorem execSdSfEval_keeps {dt framer : Nat} {s : State}  :
    ∃ s', execSdSfEval dt framer s = .next s' ∧ Keeps s s' := by
  unfold execSdSfEval
  refine ⟨_, rfl, ?_⟩
  try dsimp only
  repeat' first
    | with_reducible assumption | with_reducible exact Keeps.refl _ | with_reducible apply State.setFramer_keeps
    | with_reducible apply State.settle_keeps | with_reducible apply State.toBoundary_keeps | with_reducible apply Keeps.ite
    | with_reducible apply Keeps.iteFst | fail_if_no_progress with_reducible apply Keeps.upd | intro _
    | split

theorem State.orHold_keeps {base : State} {s : State} {c : Nat} {cmd : CtxCmd} {run : State → State} (hss : Keeps base s) (hrun : ∀ b, Keeps b (run b)) :
    Keeps base (State.orHold s c cmd run) := by
  unfold State.orHold
  try dsimp only
  repeat' first
    | with_reducible assumption | with_reducible exact Keeps.refl _ | with_reducible refine Keeps.trans ?_ (hrun _)
    | with_reducible apply State.count_keeps | with_reducible apply Keeps.ite | split | fail_if_no_progress with_reducible apply Keeps.upd
    | intro _

theorem State.doCtxCfg_keeps {base : State} {s : State} {h : HostRef} {p : CtxCfg} (hss : Keeps base s) :
    Keeps base (State.doCtxCfg s h p) := by
  unfold State.doCtxCfg
  try dsimp only
  repeat' first
    | with_reducible assumption | with_reducible apply State.done_keeps | with_reducible apply State.refuse_keeps
    | with_reducible apply State.setFramer_keeps | with_reducible apply Keeps.ite | fail_if_no_progress with_reducible apply Keeps.upd
    | intro _ | split

theorem execFrmCtxCfg_keeps {dt : Nat} {h : HostRef} {p : CtxCfg} {s : State}  :
    ∃ s', execFrmCtxCfg dt h p s = .next s' ∧ Keeps s s' := by
  unfold execFrmCtxCfg
  refine ⟨_, rfl, ?_⟩
  try dsimp only
  repeat' first
    | with_reducible assumption | with_reducible exact Keeps.refl _ | with_reducible apply State.command_keeps
    | with_reducible apply State.doCtxCfg_keeps | with_reducible apply State.orHold_keeps | intro _

theorem State.doTraceSet_keeps {base : State} {s : State} {h : HostRef} {p : TraceSet} (hss : Keeps base s) :
    Keeps base (State.doTraceSet s h p) := by
  unfold State.doTraceSet
  try dsimp only
  repeat' first
    | with_reducible assumption | with_reducible apply State.done_keeps | with_reducible apply State.refuse_keeps
    | with_reducible apply State.send_keeps | with_reducible apply State.setFramer_keeps | with_reducible apply Keeps.ite
    | fail_if_no_progress with_reducible apply Keeps.upd | intro _ | split

theorem execFrmTraceSet_keeps {dt : Nat} {h : HostRef} {p : TraceSet} {s : State}  :
    ∃ s', execFrmTraceSet dt h p s = .next s' ∧ Keeps s s' := by
  unfold execFrmTraceSet
  refine ⟨_, rfl, ?_⟩
  try dsimp only
  repeat' first
    | with_reducible assumption | with_reducible exact Keeps.refl _ | with_reducible apply State.command_keeps
    | with_reducible apply State.doTraceSet_keeps | with_reducible apply State.orHold_keeps | intro _

theorem State.doFrmRead_keeps {base : State} {s : State} {h : HostRef} {ctx host : Nat} (hss : Keeps base s) :
    Keeps base (State.doFrmRead s h ctx host) := by
  unfold State.doFrmRead
  try dsimp only
  repeat' first
    | with_reducible assumption | with_reducible apply State.done_keeps | with_reducible apply State.hostWrite_keeps
    | with_reducible apply State.refuse_keeps | with_reducible apply Keeps.ite | intro _ | split

theorem execFrmCtxRead_keeps {dt : Nat} {h : HostRef} {ctx host : Nat} {s : State}  :
    ∃ s', execFrmCtxRead dt h ctx host s = .next s' ∧ Keeps s s' := by
  unfold execFrmCtxRead
  refine ⟨_, rfl, ?_⟩
  try dsimp only
  repeat' first
    | with_reducible assumption | with_reducible exact Keeps.refl _ | with_reducible apply State.command_keeps
    | with_reducible apply State.doFrmRead_keeps | with_reducible apply State.orHold_keeps | intro _

theorem execFrmApsCfg_keeps {dt : Nat} {h : HostRef} {p : ApsCfg} {s : State}  :
    ∃ s', execFrmApsCfg dt h p s = .next s' ∧ Keeps s s' := by
  unfold execFrmApsCfg
  refine ⟨_, rfl, ?_⟩
  try dsimp only
  repeat' first
    | with_reducible assumption | with_reducible exact Keeps.refl _ | with_reducible apply State.command_keeps
    | with_reducible apply State.done_keeps | with_reducible apply State.refuse_keeps | with_reducible apply State.setGroup_keeps
    | with_reducible apply Keeps.ite | split | fail_if_no_progress with_reducible apply Keeps.upd | intro _

theorem execFrmApsCmd_keeps {dt : Nat} {h : HostRef} {group cmd leg : Nat} {s : State}  :
    ∃ s', execFrmApsCmd dt h group cmd leg s = .next s' ∧ Keeps s s' := by
  unfold execFrmApsCmd
  refine ⟨_, rfl, ?_⟩
  try dsimp only
  repeat' first
    | with_reducible assumption | with_reducible exact Keeps.refl _ | with_reducible apply State.command_keeps
    | with_reducible apply State.done_keeps | with_reducible apply State.evalGroup_keeps | with_reducible apply State.refuse_keeps
    | with_reducible apply State.setGroup_keeps | with_reducible apply Keeps.ite | split | fail_if_no_progress with_reducible apply Keeps.upd
    | intro _

theorem State.doForce_keeps {base : State} {s : State} {h : HostRef} {ctx what on : Nat} (hss : Keeps base s) :
    Keeps base (State.doForce s h ctx what on) := by
  unfold State.doForce
  try dsimp only
  repeat' first
    | with_reducible assumption | with_reducible exact Keeps.refl _ | with_reducible apply State.done_keeps
    | with_reducible apply State.refuse_keeps | with_reducible apply State.setFramer_keeps | with_reducible apply Keeps.ite
    | fail_if_no_progress with_reducible apply Keeps.upd | intro _ | split

theorem execFrmForce_keeps {dt : Nat} {h : HostRef} {ctx what on : Nat} {s : State}  :
    ∃ s', execFrmForce dt h ctx what on s = .next s' ∧ Keeps s s' := by
  unfold execFrmForce
  refine ⟨_, rfl, ?_⟩
  try dsimp only
  repeat' first
    | with_reducible assumption | with_reducible exact Keeps.refl _ | with_reducible apply State.command_keeps
    | with_reducible apply State.doForce_keeps | with_reducible apply State.orHold_keeps | intro _

theorem execFrmReframe_keeps {dt : Nat} {h : HostRef} {lane ctx : Nat} {s : State}  :
    ∃ s', execFrmReframe dt h lane ctx s = .next s' ∧ Keeps s s' := by
  unfold execFrmReframe
  refine ⟨_, rfl, ?_⟩
  try dsimp only
  repeat' first
    | with_reducible assumption | with_reducible exact Keeps.refl _ | with_reducible apply State.command_keeps
    | with_reducible apply State.count_keeps | with_reducible apply State.countOof_keeps | with_reducible apply State.done_keeps
    | with_reducible apply State.raiseC_keeps | with_reducible apply State.refuse_keeps | with_reducible apply State.setFramer_keeps
    | with_reducible apply State.settle_keeps | with_reducible apply Keeps.ite | fail_if_no_progress with_reducible apply Keeps.upd
    | intro _ | split

theorem State.doErrInsert_keeps {base : State} {s : State} {h : HostRef} {ctx monitor viol frames : Nat} (hss : Keeps base s) :
    Keeps base (State.doErrInsert s h ctx monitor viol frames) := by
  unfold State.doErrInsert
  try dsimp only
  repeat' first
    | with_reducible assumption | with_reducible apply State.done_keeps | with_reducible apply State.refuse_keeps
    | with_reducible apply State.setFramer_keeps | with_reducible apply Keeps.ite | fail_if_no_progress with_reducible apply Keeps.upd
    | intro _ | split

theorem execFrmErrInsert_keeps {dt : Nat} {h : HostRef} {ctx monitor viol frames : Nat} {s : State}  :
    ∃ s', execFrmErrInsert dt h ctx monitor viol frames s = .next s' ∧ Keeps s s' := by
  unfold execFrmErrInsert
  refine ⟨_, rfl, ?_⟩
  try dsimp only
  repeat' first
    | with_reducible assumption | with_reducible exact Keeps.refl _ | with_reducible apply State.command_keeps
    | with_reducible apply State.doErrInsert_keeps | with_reducible apply State.orHold_keeps | intro _

end Sys2Proof.Machine
end

