-- ==== Sys2Proof/Laws/KeepsRalale.lean ====
section
/-! SUPPORT. What the operations of Machine/Ralale.lean keep. -/

set_option Elab.async false

namespace Sys2Proof.Machine

theorem State.setRlkLane_keeps {base : State} {s : State} {l : Nat} {x : RlkLane} (hss : Keeps base s) :
    Keeps base (State.setRlkLane s l x) := by
  unfold State.setRlkLane
  try dsimp only
  repeat' first
    | with_reducible assumption | fail_if_no_progress with_reducible apply Keeps.upd | intro _

theorem State.setRlkCtx_keeps {base : State} {s : State} {c : Nat} {x : RlkCtx} (hss : Keeps base s) :
    Keeps base (State.setRlkCtx s c x) := by
  unfold State.setRlkCtx
  try dsimp only
  repeat' first
    | with_reducible assumption | fail_if_no_progress with_reducible apply Keeps.upd | intro _

theorem State.rlkReview_keeps {base : State} {s : State} {l : Nat} (hss : Keeps base s) :
    Keeps base (State.rlkReview s l) := by
  unfold State.rlkReview
  try dsimp only
  repeat' first
    | with_reducible assumption | with_reducible apply State.pmDefect_keeps | with_reducible apply State.timReview_keeps
    | split | fail_if_no_progress with_reducible apply Keeps.upd | intro _

theorem State.rlkSearch_keeps {base : State} {s : State} {l from_ : Nat} (hss : Keeps base s) :
    Keeps base (State.rlkSearch s l from_) := by
  unfold State.rlkSearch
  try dsimp only
  repeat' first
    | with_reducible assumption | with_reducible apply State.setRlkLane_keeps | with_reducible apply State.wr_keeps
    | with_reducible apply IoSt.wr_keeps | with_reducible apply Keeps.ite | fail_if_no_progress with_reducible apply Keeps.upd
    | intro _ | split

theorem State.rlkDown_keeps {base : State} {s : State} {l : Nat} (hss : Keeps base s) :
    Keeps base (State.rlkDown s l) := by
  unfold State.rlkDown
  try dsimp only
  repeat' first
    | with_reducible assumption | with_reducible apply State.rlkReview_keeps | with_reducible apply State.rlkSearch_keeps
    | with_reducible apply Keeps.ite | intro _ | split

theorem State.rlkAlign_keeps {base : State} {s : State} {l off : Nat} {f : RlkFrame} (hss : Keeps base s) :
    Keeps base (State.rlkAlign s l off f) := by
  unfold State.rlkAlign
  try dsimp only
  repeat' first
    | with_reducible assumption | with_reducible exact Keeps.refl _ | with_reducible apply State.rlkSearch_keeps
    | with_reducible apply State.setRlkLane_keeps | with_reducible apply State.wr_keeps | with_reducible apply IoSt.wr_keeps
    | with_reducible apply Keeps.ite | fail_if_no_progress with_reducible apply Keeps.upd | intro _ | split

theorem State.rlkQl_keeps {base : State} {s : State} {l ql : Nat} (hss : Keeps base s) :
    Keeps base (State.rlkQl s l ql) := by
  unfold State.rlkQl
  try dsimp only
  repeat' first
    | with_reducible assumption | with_reducible apply State.acceptLaneQl_keeps | with_reducible apply State.setRlkLane_keeps
    | with_reducible apply State.wr_keeps | with_reducible apply IoSt.wr_keeps | with_reducible apply Keeps.ite
    | fail_if_no_progress with_reducible apply Keeps.upd | intro _ | split

theorem State.rlkRdi_keeps {base : State} {s : State} {l : Nat} {v : Bool} (hss : Keeps base s) :
    Keeps base (State.rlkRdi s l v) := by
  unfold State.rlkRdi
  try dsimp only
  repeat' first
    | with_reducible assumption | with_reducible apply State.raise_keeps | with_reducible apply State.setRlkLane_keeps
    | with_reducible apply State.wrBit_keeps | with_reducible apply Keeps.ite | fail_if_no_progress with_reducible apply Keeps.upd
    | intro _ | split

theorem State.rlkLim_keeps {base : State} {s : State} {l v : Nat} (hss : Keeps base s) :
    Keeps base (State.rlkLim s l v) := by
  unfold State.rlkLim
  try dsimp only
  repeat' first
    | with_reducible assumption | with_reducible apply State.raise_keeps | with_reducible apply State.setRlkLane_keeps
    | with_reducible apply State.wr_keeps | with_reducible apply IoSt.wr_keeps | with_reducible apply State.wrBit_keeps
    | with_reducible apply Keeps.ite | fail_if_no_progress with_reducible apply Keeps.upd | intro _ | split

theorem State.rlkGasp_keeps {base : State} {s : State} {l : Nat} {v : Bool} (hss : Keeps base s) :
    Keeps base (State.rlkGasp s l v) := by
  unfold State.rlkGasp
  try dsimp only
  repeat' first
    | with_reducible assumption | with_reducible apply State.raise_keeps | with_reducible apply State.setRlkLane_keeps
    | with_reducible apply State.wrBit_keeps | with_reducible apply Keeps.ite | split | fail_if_no_progress with_reducible apply Keeps.upd
    | intro _

theorem State.rlkRtt_keeps {base : State} {s : State} {l echo age : Nat} (hss : Keeps base s) :
    Keeps base (State.rlkRtt s l echo age) := by
  unfold State.rlkRtt
  try dsimp only
  repeat' first
    | with_reducible assumption | with_reducible apply State.draw_keeps | with_reducible apply State.wr_keeps
    | with_reducible apply IoSt.wr_keeps | with_reducible apply Keeps.ite | intro _ | split

theorem State.rlkReturn_keeps {base : State} {s0 : State} {l : Nat} {f : RlkFrame} (hss0 : Keeps base s0) :
    Keeps base (State.rlkReturn s0 l f) := by
  unfold State.rlkReturn
  try dsimp only
  repeat' first
    | with_reducible assumption | with_reducible apply State.countBy_keeps | with_reducible apply IoSt.countBy_keeps
    | with_reducible apply State.setRlkLane_keeps | with_reducible apply State.wr_keeps | with_reducible apply IoSt.wr_keeps
    | with_reducible apply Keeps.ite | fail_if_no_progress with_reducible apply Keeps.upd | intro _ | split

theorem State.rlkOverhead_keeps {base : State} {s : State} {l : Nat} {f : RlkFrame} (hss : Keeps base s) :
    Keeps base (State.rlkOverhead s l f) := by
  unfold State.rlkOverhead
  try dsimp only
  repeat' first
    | with_reducible assumption | with_reducible apply State.rlkGasp_keeps | with_reducible apply State.rlkLim_keeps
    | with_reducible apply State.rlkQl_keeps | with_reducible apply State.rlkRdi_keeps | with_reducible apply State.rlkReturn_keeps
    | with_reducible apply State.rlkRtt_keeps | with_reducible apply State.setRlkLane_keeps | fail_if_no_progress with_reducible apply Keeps.upd
    | intro _

theorem State.rlkTake_keeps {base : State} {s : State} {l : Nat} {f : RlkFrame} (hss : Keeps base s) :
    Keeps base (State.rlkTake s l f) := by
  unfold State.rlkTake
  try dsimp only
  repeat' first
    | with_reducible assumption | with_reducible apply State.count_keeps | with_reducible apply State.pmBlocks_keeps
    | with_reducible apply State.rlkOverhead_keeps | with_reducible apply Keeps.ite | split | fail_if_no_progress with_reducible apply Keeps.upd
    | intro _

theorem State.rlkMarker_keeps {base : State} {s : State} {l : Nat} {f : RlkFrame} (hss : Keeps base s) :
    Keeps base (State.rlkMarker s l f) := by
  unfold State.rlkMarker
  try dsimp only
  repeat' first
    | with_reducible assumption | with_reducible apply State.count_keeps | with_reducible apply State.wr_keeps
    | with_reducible apply IoSt.wr_keeps | with_reducible apply State.wrBit_keeps | with_reducible apply Keeps.ite
    | intro _ | split

theorem execRlkFrameRx_keeps {dt lane off : Nat} {lock : Bool} {prior : Nat} {blocks : List RlkBlock} {badSync : Nat} {s : State}  :
    ∃ s', execRlkFrameRx dt lane off lock prior blocks badSync s = .next s' ∧ Keeps s s' := by
  unfold execRlkFrameRx
  refine ⟨_, rfl, ?_⟩
  try dsimp only
  repeat' first
    | with_reducible assumption | with_reducible exact Keeps.refl _ | with_reducible apply State.countBy_keeps
    | with_reducible apply IoSt.countBy_keeps | with_reducible apply State.elapse_keeps | with_reducible apply State.rlkAlign_keeps
    | with_reducible apply State.rlkMarker_keeps | with_reducible apply State.rlkReview_keeps | with_reducible apply State.rlkSearch_keeps
    | with_reducible apply State.rlkTake_keeps | with_reducible apply Keeps.ite | intro _ | split

theorem execRlkLfa_keeps {dt lane : Nat} {s : State}  :
    ∃ s', execRlkLfa dt lane s = .next s' ∧ Keeps s s' := by
  unfold execRlkLfa
  refine ⟨_, rfl, ?_⟩
  try dsimp only
  repeat' first
    | with_reducible assumption | with_reducible exact Keeps.refl _ | with_reducible apply State.elapse_keeps
    | with_reducible apply State.raise_keeps | with_reducible apply State.rlkReview_keeps | with_reducible apply State.wrBit_keeps
    | with_reducible apply Keeps.ite | split | fail_if_no_progress with_reducible apply Keeps.upd | intro _

theorem State.raiseFirst_keeps {base : State} {s : State} {code n src first : Nat} {mk : Nat → Nat → List (Nat × Nat)} (hss : Keeps base s) :
    Keeps base (State.raiseFirst s code n src first mk) := by
  unfold State.raiseFirst
  try dsimp only
  repeat' first
    | with_reducible assumption | with_reducible apply State.raise_keeps | with_reducible apply Keeps.ite
    | split | fail_if_no_progress with_reducible apply Keeps.upd | fail_if_no_progress with_reducible apply Keeps.updIo
    | with_reducible apply ioOk.ite | fail_if_no_progress with_reducible apply ioOk.upd | fail_if_no_progress with_reducible apply ioOk.updMem
    | fail_if_no_progress with_reducible apply ioOk.updEvq | fail_if_no_progress with_reducible apply ioOk.held
    | intro _

theorem State.flowWrite_keeps {base : State} {s : State} {x : Ctx} {bytes : List Nat} {last abort : Bool} (hss : Keeps base s) :
    Keeps base (State.flowWrite s x bytes last abort) := by
  unfold State.flowWrite
  try dsimp only
  repeat' first
    | with_reducible assumption | with_reducible apply State.writeQueue_keeps | with_reducible apply Keeps.ite
    | intro _ | split

theorem State.giveTub_keeps {base : State} {s : State} {c : Nat} {x : Ctx} {t : HeldTub} (hss : Keeps base s) :
    Keeps base (State.giveTub s c x t) := by
  unfold State.giveTub
  try dsimp only
  repeat' first
    | with_reducible assumption | with_reducible apply State.flowWrite_keeps | with_reducible apply State.pmDefect_keeps
    | with_reducible apply State.setRlkCtx_keeps | with_reducible apply Keeps.ite | fail_if_no_progress with_reducible apply Keeps.upd
    | intro _ | split

theorem State.loseTub_keeps {base : State} {s : State} {c : Nat} {x : Ctx} (hss : Keeps base s) :
    Keeps base (State.loseTub s c x) := by
  unfold State.loseTub
  try dsimp only
  repeat' first
    | with_reducible assumption | with_reducible exact Keeps.refl _ | with_reducible apply State.count_keeps
    | with_reducible apply State.flowWrite_keeps | with_reducible apply State.raiseFirst_keeps | with_reducible apply State.setRlkCtx_keeps
    | with_reducible apply Keeps.ite | with_reducible apply Keeps.foldl | fail_if_no_progress with_reducible apply Keeps.upd
    | intro _ | split

theorem State.deliverTubs_keeps {base : State} {c : Nat} {x : Ctx} {n : Nat} :
    ∀ {s : State}, Keeps base s → Keeps base (State.deliverTubs s c x n) := by
  induction n with
  | zero => intro s hss; exact hss
  | succ n ih =>
    intro s hss
    unfold State.deliverTubs
    dsimp only
    split
    · split
      · exact ih (State.giveTub_keeps hss)
      · exact hss
    · split
      · exact ih (State.loseTub_keeps hss)
      · exact hss

theorem State.aheadTub_keeps {base : State} {s : State} {l c : Nat} {t : Tub} (hss : Keeps base s) :
    Keeps base (State.aheadTub s l c t) := by
  unfold State.aheadTub
  try dsimp only
  repeat' first
    | with_reducible assumption | with_reducible exact Keeps.refl _ | with_reducible apply State.count_keeps
    | with_reducible apply State.setRlkCtx_keeps | with_reducible apply Keeps.ite | split | fail_if_no_progress with_reducible apply Keeps.upd
    | intro _

theorem State.behindTub_keeps {base : State} {s : State} {l c seq : Nat} (hss : Keeps base s) :
    Keeps base (State.behindTub s l c seq) := by
  unfold State.behindTub
  try dsimp only
  repeat' first
    | with_reducible assumption | with_reducible exact Keeps.refl _ | with_reducible apply State.count_keeps
    | with_reducible apply State.setRlkCtx_keeps | with_reducible apply Keeps.ite | split | fail_if_no_progress with_reducible apply Keeps.upd
    | intro _

theorem State.resyncTub_keeps {base : State} {s : State} {l c : Nat} {x : Ctx} {t : Tub} {cause : Nat} (hss : Keeps base s) :
    Keeps base (State.resyncTub s l c x t cause) := by
  unfold State.resyncTub
  try dsimp only
  repeat' first
    | with_reducible assumption | with_reducible exact Keeps.refl _ | with_reducible apply State.count_keeps
    | with_reducible apply State.giveTub_keeps | with_reducible apply State.raise_keeps | with_reducible apply State.setRlkCtx_keeps
    | with_reducible apply Keeps.foldl | fail_if_no_progress with_reducible apply Keeps.upd | exact Nat.zero_le 64
    | intro _

theorem State.outTub_keeps {base : State} {s : State} {l c : Nat} {x : Ctx} {t : Tub} (hss : Keeps base s) :
    Keeps base (State.outTub s l c x t) := by
  unfold State.outTub
  try dsimp only
  repeat' first
    | with_reducible assumption | with_reducible apply State.count_keeps | with_reducible apply State.resyncTub_keeps
    | with_reducible apply State.setRlkCtx_keeps | with_reducible apply Keeps.ite | fail_if_no_progress with_reducible apply Keeps.upd
    | intro _ | split

theorem State.goodTub_keeps {base : State} {s : State} {l c : Nat} {x : Ctx} {t : Tub} (hss : Keeps base s) :
    Keeps base (State.goodTub s l c x t) := by
  unfold State.goodTub
  try dsimp only
  repeat' first
    | with_reducible assumption | with_reducible apply State.aheadTub_keeps | with_reducible apply State.behindTub_keeps
    | with_reducible apply State.deliverTubs_keeps | with_reducible apply State.outTub_keeps | with_reducible apply State.setRlkCtx_keeps
    | with_reducible apply Keeps.ite | fail_if_no_progress with_reducible apply Keeps.upd | intro _ | split

theorem execTubRx_keeps {dt lane prior : Nat} {blocks : List RlkBlock} {s : State}  :
    ∃ s', execTubRx dt lane prior blocks s = .next s' ∧ Keeps s s' := by
  unfold execTubRx
  refine ⟨_, rfl, ?_⟩
  try dsimp only
  repeat' first
    | with_reducible assumption | with_reducible exact Keeps.refl _ | with_reducible refine State.alterCheck_keepsAs ?_ (by with_reducible assumption)
    | with_reducible apply State.alterCheck_keeps | with_reducible apply State.count_keeps | with_reducible apply State.countBy_keeps
    | with_reducible apply IoSt.countBy_keeps | with_reducible apply State.elapse_keeps | with_reducible apply State.goodTub_keeps
    | with_reducible apply State.raiseFirst_keeps | with_reducible apply Keeps.ite | with_reducible apply Keeps.iteFst
    | split | fail_if_no_progress with_reducible apply Keeps.upd | intro _

theorem execDdHoldExpiry_keeps {dt ctx : Nat} {s : State}  :
    ∃ s', execDdHoldExpiry dt ctx s = .next s' ∧ Keeps s s' := by
  unfold execDdHoldExpiry
  refine ⟨_, rfl, ?_⟩
  try dsimp only
  repeat' first
    | with_reducible assumption | with_reducible exact Keeps.refl _ | with_reducible apply State.deliverTubs_keeps
    | with_reducible apply State.elapse_keeps | split | fail_if_no_progress with_reducible apply Keeps.upd
    | intro _

theorem State.copyLost_keeps {base : State} {s : State} {l cid : Nat} (hss : Keeps base s) :
    Keeps base (State.copyLost s l cid) := by
  unfold State.copyLost
  try dsimp only
  repeat' first
    | with_reducible assumption | with_reducible apply State.count_keeps | with_reducible apply State.setRlkLane_keeps
    | with_reducible apply Keeps.ite | with_reducible apply Keeps.iteFst | fail_if_no_progress with_reducible apply Keeps.upd
    | intro _ | split

theorem execCopyRecordClose_keeps {dt ctx : Nat} {s : State}  :
    ∃ s', execCopyRecordClose dt ctx s = .next s' ∧ Keeps s s' := by
  unfold execCopyRecordClose
  refine ⟨_, rfl, ?_⟩
  try dsimp only
  repeat' first
    | with_reducible assumption | with_reducible exact Keeps.refl _ | with_reducible apply State.copyLost_keeps
    | with_reducible apply State.elapse_keeps | with_reducible apply State.setRlkCtx_keeps | with_reducible apply Keeps.foldl
    | split | fail_if_no_progress with_reducible apply Keeps.upd | intro _

theorem State.settleTx_keeps {base : State} {s : State} {l : Nat} (hss : Keeps base s) :
    Keeps base (State.settleTx s l) := by
  unfold State.settleTx
  try dsimp only
  repeat' first
    | with_reducible assumption | with_reducible apply State.setRlkLane_keeps | with_reducible apply State.wr_keeps
    | with_reducible apply IoSt.wr_keeps | with_reducible apply Keeps.ite | fail_if_no_progress with_reducible apply Keeps.upd
    | intro _ | split

theorem State.setTxIdle_keeps {base : State} {s : State} {idle : Bool} (hss : Keeps base s) :
    Keeps base (State.setTxIdle s idle) := by
  unfold State.setTxIdle
  try dsimp only
  repeat' first
    | with_reducible assumption | with_reducible exact Keeps.refl _ | with_reducible apply State.settleTx_keeps
    | with_reducible apply Keeps.ite | with_reducible apply Keeps.foldl | with_reducible apply Keeps.foldlFst
    | with_reducible apply Keeps.iteFst | fail_if_no_progress with_reducible apply Keeps.upd | intro _
    | split

theorem State.dropTubs_keeps {base : State} {s : State} {c : Nat} (hss : Keeps base s) :
    Keeps base (State.dropTubs s c) := by
  unfold State.dropTubs
  try dsimp only
  repeat' first
    | with_reducible assumption | with_reducible exact Keeps.refl _ | with_reducible apply State.setRlkLane_keeps
    | with_reducible apply Keeps.foldl | split | fail_if_no_progress with_reducible apply Keeps.upd | intro _

theorem State.startTubs_keeps {base : State} {s : State} {c : Nat} (hss : Keeps base s) :
    Keeps base (State.startTubs s c) := by
  unfold State.startTubs
  try dsimp only
  repeat' first
    | with_reducible assumption | with_reducible apply State.setRlkCtx_keeps | intro _

theorem State.sendPacket_keeps {base : State} {s : State} {c : Nat} {x : Ctx} {length : Nat} (hss : Keeps base s) :
    Keeps base (State.sendPacket s c x length) := by
  unfold State.sendPacket
  try dsimp only
  repeat' first
    | with_reducible assumption | with_reducible apply State.setRlkCtx_keeps | with_reducible apply State.setRlkLane_keeps
    | with_reducible apply Keeps.ite | fail_if_no_progress with_reducible apply Keeps.upd | intro _ | split

theorem State.setGate_keeps {base : State} {s : State} {ctx fill : Nat} (hss : Keeps base s) :
    Keeps base (State.setGate s ctx fill) := by
  unfold State.setGate
  try dsimp only
  repeat' first
    | with_reducible assumption | with_reducible exact Keeps.refl _ | with_reducible apply State.setRlkCtx_keeps
    | split | fail_if_no_progress with_reducible apply Keeps.upd | intro _

theorem execGateSlip_keeps {dt ctx fill : Nat} {s : State}  :
    ∃ s', execGateSlip dt ctx fill s = .next s' ∧ Keeps s s' := by
  unfold execGateSlip
  refine ⟨_, rfl, ?_⟩
  try dsimp only
  repeat' first
    | with_reducible assumption | with_reducible exact Keeps.refl _ | with_reducible apply State.count_keeps
    | with_reducible apply State.elapse_keeps | with_reducible apply State.raise_keeps | with_reducible apply State.setGate_keeps
    | with_reducible apply Keeps.ite | intro _ | split

end Sys2Proof.Machine
end

