-- ==== Sys2Proof/Laws/KeepsShaft.lean ====
section
/-! SUPPORT. What the operations of Machine/Shaft.lean keep. -/

set_option Elab.async false

namespace Sys2Proof.Machine

theorem State.clearOld_keeps {base : State} {s : State} (hss : Keeps base s) :
    Keeps base (State.clearOld s) := by
  unfold State.clearOld
  try dsimp only
  repeat' first
    | with_reducible assumption | with_reducible apply Keeps.ite | fail_if_no_progress with_reducible apply Keeps.upd
    | intro _ | split

theorem State.dispatch_keeps {base : State} {s1 : State} (hss1 : Keeps base s1) :
    Keeps base (State.dispatch s1) := by
  unfold State.dispatch
  try dsimp only
  repeat' first
    | with_reducible assumption | with_reducible exact Keeps.refl _ | with_reducible apply State.countBy_keeps
    | with_reducible apply IoSt.countBy_keeps | with_reducible apply State.raiseIf_keeps | with_reducible apply Keeps.ite
    | with_reducible apply Keeps.foldl | with_reducible apply Keeps.foldlFst | with_reducible apply Keeps.iteFst
    | fail_if_no_progress with_reducible apply Keeps.upd | fail_if_no_progress with_reducible apply Keeps.updCtr
    | intro _ | split

theorem execHewerWakeup_keeps {dt : Nat} {s : State}  :
    ∃ s', execHewerWakeup dt s = .next s' ∧ Keeps s s' := by
  unfold execHewerWakeup
  refine ⟨_, rfl, ?_⟩
  try dsimp only
  repeat' first
    | with_reducible assumption | with_reducible exact Keeps.refl _ | with_reducible apply State.clearOld_keeps
    | with_reducible apply State.dispatch_keeps | with_reducible apply State.elapse_keeps | with_reducible apply Keeps.ite
    | intro _ | split

theorem execShaftHalt_keeps {dt : Nat} {s : State}  :
    ∃ s', execShaftHalt dt s = .next s' ∧ Keeps s s' := by
  unfold execShaftHalt
  refine ⟨_, rfl, ?_⟩
  try dsimp only
  repeat' first
    | with_reducible assumption | with_reducible exact Keeps.refl _ | with_reducible apply State.elapse_keeps
    | with_reducible apply State.raise_keeps | with_reducible apply State.setShfState_keeps | with_reducible apply State.setTxIdle_keeps
    | with_reducible apply Keeps.ite | fail_if_no_progress with_reducible apply Keeps.upd | intro _ | split

theorem State.leaveHalted_keeps {base : State} {s : State} {addr dpll state : Nat} (hss : Keeps base s) :
    Keeps base (State.leaveHalted s addr dpll state) := by
  unfold State.leaveHalted
  try dsimp only
  repeat' first
    | with_reducible assumption | with_reducible apply State.addFilterQueues_keeps | with_reducible apply State.setDpll_keeps
    | with_reducible apply State.setShfState_keeps | with_reducible apply State.setTxIdle_keeps | fail_if_no_progress with_reducible apply Keeps.upd
    | intro _

theorem execShaftStart_keeps {dt : Nat} {s : State}  :
    ∃ s', execShaftStart dt s = .next s' ∧ Keeps s s' := by
  unfold execShaftStart
  refine ⟨_, rfl, ?_⟩
  try dsimp only
  repeat' first
    | with_reducible assumption | with_reducible exact Keeps.refl _ | with_reducible apply State.elapse_keeps
    | with_reducible apply State.leaveHalted_keeps | with_reducible apply Keeps.ite | intro _ | split

end Sys2Proof.Machine
end

