-- ==== Sys2Proof/Laws/KeepsPorts.lean ====
section
/-! SUPPORT. What the operations of Machine/Ports.lean keep. -/

set_option Elab.async false

namespace Sys2Proof.Machine

theorem State.laneFlag_keeps {base : State} {s : State} {f : Fld} {code l : Nat} {on : Bool} (hss : Keeps base s) :
    Keeps base (State.laneFlag s f code l on) := by
  unfold State.laneFlag
  try dsimp only
  repeat' first
    | with_reducible assumption | with_reducible apply State.raise_keeps | with_reducible apply State.wrBit_keeps
    | with_reducible apply Keeps.ite | intro _ | split

theorem State.laneFollow_keeps {base : State} {s : State} {l : Nat} (hss : Keeps base s) :
    Keeps base (State.laneFollow s l) := by
  unfold State.laneFollow
  try dsimp only
  repeat' first
    | with_reducible assumption | with_reducible exact Keeps.refl _ | with_reducible apply State.framerLos_keeps
    | with_reducible apply State.pmDefect_keeps | with_reducible apply State.rlkDown_keeps | with_reducible apply State.timReview_keeps
    | with_reducible apply Keeps.ite | intro _ | split

theorem State.maskBelow_keeps {base : State} {s : State} {l n : Nat} (hss : Keeps base s) :
    Keeps base (State.maskBelow s l n) := by
  unfold State.maskBelow
  try dsimp only
  repeat' first
    | with_reducible assumption | with_reducible apply State.laneFlag_keeps | with_reducible apply Keeps.ite
    | intro _ | split

theorem State.laneRestart_keeps {base : State} {s : State} {l : Nat} (hss : Keeps base s) :
    Keeps base (State.laneRestart s l) := by
  unfold State.laneRestart
  try dsimp only
  repeat' first
    | with_reducible assumption | with_reducible apply State.laneFlag_keeps | with_reducible apply State.laneFollow_keeps
    | with_reducible apply State.maskBelow_keeps | with_reducible apply State.setFramer_keeps | with_reducible apply State.setRlkLane_keeps
    | with_reducible apply State.settle_keeps | with_reducible apply State.settleTx_keeps | with_reducible apply State.wr_keeps
    | with_reducible apply IoSt.wr_keeps | with_reducible apply State.wrBit_keeps | with_reducible apply Keeps.ite
    | fail_if_no_progress with_reducible apply Keeps.upd | intro _ | split

theorem State.setTrb_keeps {base : State} {s : State} {n : Nat} {x : TrbSt} (hss : Keeps base s) :
    Keeps base (State.setTrb s n x) := by
  unfold State.setTrb
  try dsimp only
  repeat' first
    | with_reducible assumption | fail_if_no_progress with_reducible apply Keeps.upd | intro _

theorem State.circuitLos_keeps {base : State} {s : State} {n c slot : Nat} (hss : Keeps base s) :
    Keeps base (State.circuitLos s n c slot) := by
  unfold State.circuitLos
  try dsimp only
  repeat' first
    | with_reducible assumption | with_reducible apply State.framerLos_keeps | with_reducible apply State.raise_keeps
    | with_reducible apply State.wr_keeps | with_reducible apply IoSt.wr_keeps | with_reducible apply Keeps.ite
    | intro _ | split

theorem State.dropSlot_keeps {base : State} {s : State} {n slot : Nat} (hss : Keeps base s) :
    Keeps base (State.dropSlot s n slot) := by
  unfold State.dropSlot
  try dsimp only
  repeat' first
    | with_reducible assumption | with_reducible exact Keeps.refl _ | with_reducible apply State.setTrb_keeps
    | with_reducible apply State.wr_keeps | with_reducible apply IoSt.wr_keeps | fail_if_no_progress with_reducible apply Keeps.upd
    | intro _

theorem State.trbFollow_keeps {base : State} {s : State} {n : Nat} (hss : Keeps base s) :
    Keeps base (State.trbFollow s n) := by
  unfold State.trbFollow
  try dsimp only
  repeat' first
    | with_reducible assumption | with_reducible exact Keeps.refl _ | with_reducible apply State.circuitLos_keeps
    | with_reducible apply State.pmDefect_keeps | with_reducible apply State.timReview_keeps | with_reducible apply Keeps.foldl
    | with_reducible apply Keeps.foldlFst | with_reducible apply Keeps.iteFst | split | fail_if_no_progress with_reducible apply Keeps.upd
    | intro _

theorem State.trbSearch_keeps {base : State} {s : State} {n from_ : Nat} (hss : Keeps base s) :
    Keeps base (State.trbSearch s n from_) := by
  unfold State.trbSearch
  try dsimp only
  repeat' first
    | with_reducible assumption | with_reducible apply State.setTrb_keeps | with_reducible apply State.wr_keeps
    | with_reducible apply IoSt.wr_keeps | with_reducible apply Keeps.ite | fail_if_no_progress with_reducible apply Keeps.upd
    | intro _ | split

theorem State.trbRestart_keeps {base : State} {s : State} {n : Nat} (hss : Keeps base s) :
    Keeps base (State.trbRestart s n) := by
  unfold State.trbRestart
  try dsimp only
  repeat' first
    | with_reducible assumption | with_reducible apply State.setTrb_keeps | with_reducible apply State.trbFollow_keeps
    | with_reducible apply State.wr_keeps | with_reducible apply IoSt.wr_keeps | with_reducible apply State.wrBit_keeps
    | intro _

theorem State.trbStep_keeps {base : State} {s : State} {n off : Nat} {word : Bool} (hss : Keeps base s) :
    Keeps base (State.trbStep s n off word) := by
  unfold State.trbStep
  try dsimp only
  repeat' first
    | with_reducible assumption | with_reducible apply State.setTrb_keeps | with_reducible apply State.trbSearch_keeps
    | with_reducible apply State.wr_keeps | with_reducible apply IoSt.wr_keeps | with_reducible apply Keeps.ite
    | fail_if_no_progress with_reducible apply Keeps.upd | intro _ | split

theorem State.giveBits_keeps {base : State} {s : State} {c : Nat} {bits : List Bool} (hss : Keeps base s) :
    Keeps base (State.giveBits s c bits) := by
  unfold State.giveBits
  try dsimp only
  repeat' first
    | with_reducible assumption | fail_if_no_progress with_reducible apply Keeps.upd | intro _

theorem State.takeSlot_keeps {base : State} {s : State} {n slot : Nat} {q : TrbSlot} (hss : Keeps base s) :
    Keeps base (State.takeSlot s n slot q) := by
  unfold State.takeSlot
  try dsimp only
  repeat' first
    | with_reducible assumption | with_reducible exact Keeps.refl _ | with_reducible apply State.count_keeps
    | with_reducible apply State.giveBits_keeps | with_reducible apply State.raise_keeps | with_reducible apply State.setTrb_keeps
    | with_reducible apply Keeps.ite | split | fail_if_no_progress with_reducible apply Keeps.upd | intro _

theorem State.takeSlots_keeps {base : State} {n : Nat} {l : List TrbSlot} :
    ∀ {s : State} {k : Nat}, Keeps base s → Keeps base (State.takeSlots s n k l) := by
  induction l with
  | nil => intro s k hss; exact hss
  | cons q rest ih => intro s k hss; exact ih (State.takeSlot_keeps hss)

theorem State.takeTrbFrame_keeps {base : State} {s : State} {n : Nat} {f : TrbFrame} (hss : Keeps base s) :
    Keeps base (State.takeTrbFrame s n f) := by
  unfold State.takeTrbFrame
  try dsimp only
  repeat' first
    | with_reducible assumption | with_reducible apply State.count_keeps | with_reducible apply State.pmBlocks_keeps
    | with_reducible apply State.raiseIf_keeps | with_reducible apply State.setTrb_keeps | with_reducible apply State.takeSlots_keeps
    | with_reducible apply State.wrBit_keeps | with_reducible apply Keeps.ite | split | fail_if_no_progress with_reducible apply Keeps.upd
    | intro _

theorem State.applyTaps_keeps {base : State} {s : State} {l : Nat} (hss : Keeps base s) :
    Keeps base (State.applyTaps s l) := by
  unfold State.applyTaps
  try dsimp only
  repeat' first
    | with_reducible assumption | with_reducible apply State.raise_keeps | with_reducible apply State.wrBit_keeps
    | with_reducible apply Keeps.ite | with_reducible apply Keeps.iteFst | fail_if_no_progress with_reducible apply Keeps.upd
    | intro _ | split

theorem execLaneLos_keeps {dt lane : Nat} {trb set : Bool} {s : State}  :
    ∃ s', execLaneLos dt lane trb set s = .next s' ∧ Keeps s s' := by
  unfold execLaneLos
  refine ⟨_, rfl, ?_⟩
  try dsimp only
  repeat' first
    | with_reducible assumption | with_reducible exact Keeps.refl _ | with_reducible apply State.count_keeps
    | with_reducible apply State.elapse_keeps | with_reducible apply State.laneFlag_keeps | with_reducible apply State.laneFollow_keeps
    | with_reducible apply State.maskBelow_keeps | with_reducible apply State.raise_keeps | with_reducible apply State.trbFollow_keeps
    | with_reducible apply State.trbSearch_keeps | with_reducible apply State.wrBit_keeps | with_reducible apply Keeps.ite
    | intro _ | split

theorem execLaneLol_keeps {dt lane : Nat} {set : Bool} {s : State}  :
    ∃ s', execLaneLol dt lane set s = .next s' ∧ Keeps s s' := by
  unfold execLaneLol
  refine ⟨_, rfl, ?_⟩
  try dsimp only
  repeat' first
    | with_reducible assumption | with_reducible exact Keeps.refl _ | with_reducible apply State.elapse_keeps
    | with_reducible apply State.laneFlag_keeps | with_reducible apply State.laneFollow_keeps | with_reducible apply State.maskBelow_keeps
    | with_reducible apply Keeps.ite | intro _ | split

theorem execLaneBlockLock_keeps {dt lane : Nat} {lost : Bool} {s : State}  :
    ∃ s', execLaneBlockLock dt lane lost s = .next s' ∧ Keeps s s' := by
  unfold execLaneBlockLock
  refine ⟨_, rfl, ?_⟩
  try dsimp only
  repeat' first
    | with_reducible assumption | with_reducible exact Keeps.refl _ | with_reducible apply State.elapse_keeps
    | with_reducible apply State.laneFlag_keeps | with_reducible apply State.laneFollow_keeps | with_reducible apply State.maskBelow_keeps
    | with_reducible apply Keeps.ite | intro _ | split

theorem execLaneHiber_keeps {dt lane : Nat} {set : Bool} {s : State}  :
    ∃ s', execLaneHiber dt lane set s = .next s' ∧ Keeps s s' := by
  unfold execLaneHiber
  refine ⟨_, rfl, ?_⟩
  try dsimp only
  repeat' first
    | with_reducible assumption | with_reducible exact Keeps.refl _ | with_reducible apply State.elapse_keeps
    | with_reducible apply State.laneFlag_keeps | with_reducible apply Keeps.ite | intro _ | split

theorem State.setEye_keeps {base : State} {s : State} {l w h : Nat} (hss : Keeps base s) :
    Keeps base (State.setEye s l w h) := by
  unfold State.setEye
  try dsimp only
  repeat' first
    | with_reducible assumption | with_reducible apply State.wr_keeps | with_reducible apply IoSt.wr_keeps
    | fail_if_no_progress with_reducible apply Keeps.upd | intro _

theorem State.adaptLane_keeps {base : State} {s : State} {l : Nat} (hss : Keeps base s) :
    Keeps base (State.adaptLane s l) := by
  unfold State.adaptLane
  try dsimp only
  repeat' first
    | with_reducible assumption | with_reducible apply State.draw_keeps | with_reducible apply Keeps.ite
    | with_reducible apply Keeps.iteFst | fail_if_no_progress with_reducible apply Keeps.upd | fail_if_no_progress with_reducible apply Keeps.updCtr
    | intro _ | split

theorem execLaneReady_keeps {dt lane w h : Nat} {s : State}  :
    ∃ s', execLaneReady dt lane w h s = .next s' ∧ Keeps s s' := by
  unfold execLaneReady
  refine ⟨_, rfl, ?_⟩
  try dsimp only
  repeat' first
    | with_reducible assumption | with_reducible exact Keeps.refl _ | with_reducible apply State.adaptLane_keeps
    | with_reducible apply State.elapse_keeps | with_reducible apply State.raise_keeps | with_reducible apply State.setEye_keeps
    | with_reducible apply State.timReview_keeps | with_reducible apply State.wrBit_keeps | with_reducible apply Keeps.ite
    | intro _ | split

theorem State.measureEye_keeps {base : State} {s : State} {meas : List EyeMeas} {l : Nat} (hss : Keeps base s) :
    Keeps base (State.measureEye s meas l) := by
  unfold State.measureEye
  try dsimp only
  repeat' first
    | with_reducible assumption | with_reducible exact Keeps.refl _ | with_reducible apply State.adaptLane_keeps
    | with_reducible apply State.draw_keeps | with_reducible apply State.setEye_keeps | with_reducible apply State.wrInt_keeps
    | with_reducible apply Keeps.iteFst | split | fail_if_no_progress with_reducible apply Keeps.upd | fail_if_no_progress with_reducible apply Keeps.updCtr
    | intro _

theorem execEyeMeasure_keeps {dt : Nat} {meas : List EyeMeas} {s : State}  :
    ∃ s', execEyeMeasure dt meas s = .next s' ∧ Keeps s s' := by
  unfold execEyeMeasure
  refine ⟨_, rfl, ?_⟩
  try dsimp only
  repeat' first
    | with_reducible assumption | with_reducible exact Keeps.refl _ | with_reducible apply State.elapse_keeps
    | with_reducible apply State.measureEye_keeps | with_reducible apply Keeps.foldl | intro _

theorem State.prbsState_keeps {base : State} {s : State} {l : Nat} {on : Bool} (hss : Keeps base s) :
    Keeps base (State.prbsState s l on) := by
  unfold State.prbsState
  try dsimp only
  repeat' first
    | with_reducible assumption | with_reducible apply State.laneFlag_keeps | intro _

theorem execPrbsLock_keeps {dt lane : Nat} {locked : Bool} {errors : Nat} {s : State}  :
    ∃ s', execPrbsLock dt lane locked errors s = .next s' ∧ Keeps s s' := by
  unfold execPrbsLock
  refine ⟨_, rfl, ?_⟩
  try dsimp only
  repeat' first
    | with_reducible assumption | with_reducible exact Keeps.refl _ | with_reducible apply State.countBy_keeps
    | with_reducible apply IoSt.countBy_keeps | with_reducible apply State.elapse_keeps | with_reducible apply State.prbsState_keeps
    | with_reducible apply Keeps.ite | split | fail_if_no_progress with_reducible apply Keeps.upd | intro _

theorem execTrbFrameRx_keeps {dt link off : Nat} {bytes : List Nat} {s : State}  :
    ∃ s', execTrbFrameRx dt link off bytes s = .next s' ∧ Keeps s s' := by
  unfold execTrbFrameRx
  refine ⟨_, rfl, ?_⟩
  try dsimp only
  repeat' first
    | with_reducible assumption | with_reducible exact Keeps.refl _ | with_reducible apply State.elapse_keeps
    | with_reducible apply State.takeTrbFrame_keeps | with_reducible apply State.trbFollow_keeps | with_reducible apply State.trbStep_keeps
    | with_reducible apply Keeps.ite | intro _ | split

theorem execTrbAlign_keeps {dt link : Nat} {s : State}  :
    ∃ s', execTrbAlign dt link s = .next s' ∧ Keeps s s' := by
  unfold execTrbAlign
  refine ⟨_, rfl, ?_⟩
  try dsimp only
  repeat' first
    | with_reducible assumption | with_reducible exact Keeps.refl _ | with_reducible apply State.elapse_keeps
    | with_reducible apply State.raise_keeps | with_reducible apply State.trbFollow_keeps | with_reducible apply State.wrBit_keeps
    | with_reducible apply Keeps.ite | split | fail_if_no_progress with_reducible apply Keeps.upd | intro _

theorem execPrtTest_keeps {dt : Nat} {h : HostRef} {lane ptn flags : Nat} {s : State}  :
    ∃ s', execPrtTest dt h lane ptn flags s = .next s' ∧ Keeps s s' := by
  unfold execPrtTest
  refine ⟨_, rfl, ?_⟩
  try dsimp only
  repeat' first
    | with_reducible assumption | with_reducible exact Keeps.refl _ | with_reducible apply State.command_keeps
    | with_reducible apply State.done_keeps | with_reducible apply State.prbsState_keeps | with_reducible apply State.refuse_keeps
    | with_reducible apply State.wrBit_keeps | with_reducible apply Keeps.ite | fail_if_no_progress with_reducible apply Keeps.upd
    | intro _ | split

theorem execPrtAdaptRestart_keeps {dt : Nat} {h : HostRef} {lane : Nat} {s : State}  :
    ∃ s', execPrtAdaptRestart dt h lane s = .next s' ∧ Keeps s s' := by
  unfold execPrtAdaptRestart
  refine ⟨_, rfl, ?_⟩
  try dsimp only
  repeat' first
    | with_reducible assumption | with_reducible exact Keeps.refl _ | with_reducible apply State.command_keeps
    | with_reducible apply State.done_keeps | with_reducible apply State.laneFollow_keeps | with_reducible apply State.maskBelow_keeps
    | with_reducible apply State.refuse_keeps | with_reducible apply State.wrBit_keeps | with_reducible apply Keeps.ite
    | intro _ | split

end Sys2Proof.Machine
end

