-- ==== Sys2Proof/Laws/KeepsPaths.lean ====
section
/-! SUPPORT. What the operations of Machine/Paths.lean keep. -/

set_option Elab.async false

namespace Sys2Proof.Machine


end Sys2Proof.Machine
end

