-- ==== Sys2Proof/Laws/KeepsSlew.lean ====
section
/-! SUPPORT. What the operations of Machine/Slew.lean keep. -/

set_option Elab.async false

namespace Sys2Proof.Machine

theorem State.gateUnit_keeps {base : State} {s : State} {u : Nat} (hss : Keeps base s) :
    Keeps base (State.gateUnit s u) := by
  unfold State.gateUnit
  try dsimp only
  repeat' first
    | with_reducible assumption | with_reducible apply State.laneRestart_keeps | with_reducible apply State.trbRestart_keeps
    | with_reducible apply State.wrBit_keeps | with_reducible apply Keeps.ite | fail_if_no_progress with_reducible apply Keeps.upd
    | intro _ | split

theorem State.shedNow_keeps {base : State} {s : State} {i : Nat} (hss : Keeps base s) :
    Keeps base (State.shedNow s i) := by
  unfold State.shedNow
  try dsimp only
  repeat' first
    | with_reducible assumption | with_reducible apply State.raise_keeps | with_reducible apply Keeps.ite
    | split | fail_if_no_progress with_reducible apply Keeps.upd | intro _

theorem State.makeStep_keeps {base : State} {s : State} {x : LoadStep} (hss : Keeps base s) : Keeps base (State.makeStep s x) := by
  cases x <;> unfold State.makeStep <;> dsimp only
  · exact State.gateUnit_keeps hss
  · split
    · exact Keeps.upd hss
    · exact hss
  · exact State.wr_keeps hss
  · exact State.shedNow_keeps hss

theorem State.slewCharge_keeps {base : State} {s : State} {price : Nat} (hss : Keeps base s) :
    Keeps base (State.slewCharge s price) := by
  unfold State.slewCharge
  try dsimp only
  repeat' first
    | with_reducible assumption | fail_if_no_progress with_reducible apply Keeps.upd | intro _

theorem State.loadStep_keeps {base : State} {s : State} {x : LoadStep} (hss : Keeps base s) :
    Keeps base (State.loadStep s x) := by
  unfold State.loadStep
  try dsimp only
  repeat' first
    | with_reducible assumption | with_reducible apply State.count_keeps | with_reducible apply State.makeStep_keeps
    | with_reducible apply State.slewCharge_keeps | with_reducible apply Keeps.ite | fail_if_no_progress with_reducible apply Keeps.upd
    | intro _ | split

theorem State.admitSteps_keeps {base : State} {l : List LoadStep} :
    ∀ {s : State}, Keeps base s → Keeps base (State.admitSteps s l) := by
  induction l with
  | nil => intro s hss; exact Keeps.upd hss
  | cons x rest ih =>
    intro s hss
    unfold State.admitSteps
    dsimp only
    split
    · exact ih (State.makeStep_keeps (State.slewCharge_keeps hss))
    · exact State.countBy_keeps (Keeps.upd hss)

theorem execSlewWindow_keeps {dt : Nat} {s : State}  :
    ∃ s', execSlewWindow dt s = .next s' ∧ Keeps s s' := by
  unfold execSlewWindow
  refine ⟨_, rfl, ?_⟩
  try dsimp only
  repeat' first
    | with_reducible assumption | with_reducible exact Keeps.refl _ | with_reducible apply State.admitSteps_keeps
    | with_reducible apply State.toBoundary_keeps | intro _

end Sys2Proof.Machine
end

