-- ==== Sys2Proof/Laws/KeepsPlacement.lean ====
section
/-! SUPPORT. What the operations of Machine/Placement.lean keep. -/

set_option Elab.async false

namespace Sys2Proof.Machine

theorem State.settleParts_keeps {base : State} {obs : OvmObs} {l : List (Nat × Ctx)} :
    ∀ {s t : State}, Keeps base s → State.settleParts s obs l = some t → Keeps base t := by
  induction l with
  | nil => intro s t hss ht; cases ht; exact hss
  | cons x rest ih =>
    intro s t hss ht
    obtain ⟨i, x⟩ := x
    unfold State.settleParts at ht
    split at ht
    · cases ht
    · exact ih (Keeps.upd hss) ht

theorem ok_of_ite {α : Type} {c : Prop} [Decidable c] {n : Nat} {x : Except Nat α} {t : α}
    (h : (if c then .error n else x) = .ok t) : x = .ok t := by
  split at h
  · cases h
  · exact h

/-- An intent is accepted by settling its contexts and waking what it uses. -/
theorem State.acceptIntent_keeps {base : State} {s t : State} {p : Intent} {obs : OvmObs} {old : IntentSt} (hss : Keeps base s)
    (ht : State.acceptIntent s p obs old = .ok t) : Keeps base t := by
  unfold State.acceptIntent at ht
  extract_lets at ht
  replace ht := ok_of_ite (ok_of_ite (ok_of_ite (ok_of_ite ht)))
  split at ht
  · cases ht
  · next hs =>
    obtain ⟨x, -, hx⟩ := List.exists_of_findSome?_eq_some hs
    change Option.map _ (Option.filter _ (State.settleParts s obs _)) = some _ at hx
    simp only [Option.map_eq_some_iff, Option.filter_eq_some_iff, Prod.mk.injEq] at hx
    obtain ⟨b, ⟨hb, -⟩, rfl, -⟩ := hx
    replace ht := ok_of_ite ht
    extract_lets at ht
    cases ht
    exact Keeps.foldl (fun b x => State.loadStep_keeps (Keeps.refl b)) _ (Keeps.upd (State.settleParts_keeps hss hb))

theorem State.refuseIntent_keeps {base : State} {s : State} {h : HostRef} {id reason : Nat} (hss : Keeps base s) :
    Keeps base (State.refuseIntent s h id reason) := by
  unfold State.refuseIntent
  try dsimp only
  repeat' first
    | with_reducible assumption | with_reducible apply State.complete_keeps | with_reducible apply State.count_keeps
    | with_reducible apply State.raiseC_keeps | intro _

theorem State.restoreIntent_keeps {base : State} {s : State} {i : Nat} (hss : Keeps base s) :
    Keeps base (State.restoreIntent s i) := by
  unfold State.restoreIntent
  try dsimp only
  repeat' first
    | with_reducible assumption | with_reducible refine State.acceptIntent_keeps ?_ (by with_reducible assumption)
    | with_reducible apply Keeps.ite | split | fail_if_no_progress with_reducible apply Keeps.upd | intro _

theorem execOvmIntentAdd_keeps {dt : Nat} {h : HostRef} {p : Intent} {obs : OvmObs} {s : State}  :
    ∃ s', execOvmIntentAdd dt h p obs s = .next s' ∧ Keeps s s' := by
  unfold execOvmIntentAdd
  refine ⟨_, rfl, ?_⟩
  try dsimp only
  repeat' first
    | with_reducible assumption | with_reducible exact Keeps.refl _ | with_reducible refine State.acceptIntent_keeps ?_ (by with_reducible assumption)
    | with_reducible apply State.command_keeps | with_reducible apply State.refuseIntent_keeps | split
    | fail_if_no_progress with_reducible apply Keeps.upd | intro _

theorem State.dropReserved_keeps {base : State} {s : State} {x : IntentSt} (hss : Keeps base s) :
    Keeps base (State.dropReserved s x) := by
  unfold State.dropReserved
  try dsimp only
  repeat' first
    | with_reducible assumption | with_reducible exact Keeps.refl _ | with_reducible apply Keeps.foldl
    | fail_if_no_progress with_reducible apply Keeps.upd | intro _

theorem State.doWithdraw_keeps {base : State} {s : State} {h : HostRef} {id : Nat} (hss : Keeps base s) :
    Keeps base (State.doWithdraw s h id) := by
  unfold State.doWithdraw
  try dsimp only
  repeat' first
    | with_reducible assumption | with_reducible exact Keeps.refl _ | with_reducible apply State.done_keeps
    | with_reducible apply State.dropReserved_keeps | with_reducible apply State.refuse_keeps | with_reducible apply State.refuseIntent_keeps
    | with_reducible apply Keeps.ite | split | fail_if_no_progress with_reducible apply Keeps.upd | intro _

theorem execOvmIntentWithdraw_keeps {dt : Nat} {h : HostRef} {intent : Nat} {s : State}  :
    ∃ s', execOvmIntentWithdraw dt h intent s = .next s' ∧ Keeps s s' := by
  unfold execOvmIntentWithdraw
  refine ⟨_, rfl, ?_⟩
  try dsimp only
  repeat' first
    | with_reducible assumption | with_reducible exact Keeps.refl _ | with_reducible apply State.command_keeps
    | with_reducible apply State.doWithdraw_keeps | with_reducible apply State.orHold_keeps | split | fail_if_no_progress with_reducible apply Keeps.upd
    | intro _

theorem State.doPin_keeps {base : State} {s : State} {h : HostRef} {ctx items : Nat} {on : Bool} (hss : Keeps base s) :
    Keeps base (State.doPin s h ctx items on) := by
  unfold State.doPin
  try dsimp only
  repeat' first
    | with_reducible assumption | with_reducible exact Keeps.refl _ | with_reducible apply State.done_keeps
    | with_reducible apply State.refuse_keeps | with_reducible apply Keeps.ite | with_reducible apply Keeps.foldl
    | split | fail_if_no_progress with_reducible apply Keeps.upd | intro _

theorem execOvmPin_keeps {dt : Nat} {h : HostRef} {ctx items : Nat} {s : State}  :
    ∃ s', execOvmPin dt h ctx items s = .next s' ∧ Keeps s s' := by
  unfold execOvmPin
  refine ⟨_, rfl, ?_⟩
  try dsimp only
  repeat' first
    | with_reducible assumption | with_reducible exact Keeps.refl _ | with_reducible apply State.command_keeps
    | with_reducible apply State.doPin_keeps | with_reducible apply State.orHold_keeps | intro _

theorem execOvmUnpin_keeps {dt : Nat} {h : HostRef} {ctx items : Nat} {s : State}  :
    ∃ s', execOvmUnpin dt h ctx items s = .next s' ∧ Keeps s s' := by
  unfold execOvmUnpin
  refine ⟨_, rfl, ?_⟩
  try dsimp only
  repeat' first
    | with_reducible assumption | with_reducible exact Keeps.refl _ | with_reducible apply State.command_keeps
    | with_reducible apply State.doPin_keeps | with_reducible apply State.orHold_keeps | intro _

theorem State.doResultRead_keeps {base : State} {s : State} {h : HostRef} {intent host avail : Nat} (hss : Keeps base s) :
    Keeps base (State.doResultRead s h intent host avail) := by
  unfold State.doResultRead
  try dsimp only
  repeat' first
    | with_reducible assumption | with_reducible apply State.done_keeps | with_reducible apply State.hostWrite_keeps
    | with_reducible apply State.refuse_keeps | with_reducible apply Keeps.ite | split | fail_if_no_progress with_reducible apply Keeps.upd
    | intro _

theorem execOvmResultRead_keeps {dt : Nat} {h : HostRef} {intent host avail : Nat} {s : State}  :
    ∃ s', execOvmResultRead dt h intent host avail s = .next s' ∧ Keeps s s' := by
  unfold execOvmResultRead
  refine ⟨_, rfl, ?_⟩
  try dsimp only
  repeat' first
    | with_reducible assumption | with_reducible exact Keeps.refl _ | with_reducible apply State.command_keeps
    | with_reducible apply State.doResultRead_keeps | with_reducible apply State.orHold_keeps | split
    | fail_if_no_progress with_reducible apply Keeps.upd | intro _

theorem execOvmDefrag_keeps {dt : Nat} {h : HostRef} {s : State}  :
    ∃ s', execOvmDefrag dt h s = .next s' ∧ Keeps s s' := by
  unfold execOvmDefrag
  refine ⟨_, rfl, ?_⟩
  try dsimp only
  repeat' first
    | with_reducible assumption | with_reducible exact Keeps.refl _ | with_reducible apply State.command_keeps
    | with_reducible apply State.done_keeps | fail_if_no_progress with_reducible apply Keeps.upd | intro _

theorem State.takeMove_keeps {base : State} {s : State} {m : Move} (hss : Keeps base s) :
    Keeps base (State.takeMove s m) := by
  unfold State.takeMove
  try dsimp only
  repeat' first
    | with_reducible assumption | with_reducible exact Keeps.refl _ | with_reducible apply State.loadStep_keeps
    | with_reducible apply Keeps.ite | with_reducible apply Keeps.foldl | split | fail_if_no_progress with_reducible apply Keeps.upd
    | intro _

theorem State.retryMoves_keeps {base : State} {s : State} (hss : Keeps base s) :
    Keeps base (State.retryMoves s) := by
  unfold State.retryMoves
  try dsimp only
  repeat' first
    | with_reducible assumption | with_reducible exact Keeps.refl _ | with_reducible apply State.takeMove_keeps
    | with_reducible apply Keeps.foldl | fail_if_no_progress with_reducible apply Keeps.upd | intro _

theorem execOvmMovePlan_keeps {dt : Nat} {obs : OvmObs} {moves : List Move} {s : State}  :
    ∃ s', execOvmMovePlan dt obs moves s = .next s' ∧ Keeps s s' := by
  unfold execOvmMovePlan
  refine ⟨_, rfl, ?_⟩
  try dsimp only
  repeat' first
    | with_reducible assumption | with_reducible exact Keeps.refl _ | with_reducible apply State.elapse_keeps
    | with_reducible apply State.takeMove_keeps | with_reducible apply Keeps.ite | with_reducible apply Keeps.foldl
    | split | fail_if_no_progress with_reducible apply Keeps.upd | intro _

theorem State.endMove_keeps {base : State} {s : State} {c : Nat} (hss : Keeps base s) :
    Keeps base (State.endMove s c) := by
  unfold State.endMove
  try dsimp only
  repeat' first
    | with_reducible assumption | with_reducible exact Keeps.refl _ | split | fail_if_no_progress with_reducible apply Keeps.upd
    | intro _

theorem State.markUnusable_keeps {base : State} {s : State} {slice stage : Nat} (hss : Keeps base s) :
    Keeps base (State.markUnusable s slice stage) := by
  unfold State.markUnusable
  try dsimp only
  repeat' first
    | with_reducible assumption | with_reducible exact Keeps.refl _ | with_reducible apply State.raise_keeps
    | with_reducible apply Keeps.ite | with_reducible apply Keeps.foldl | with_reducible apply Keeps.foldlFst
    | with_reducible apply Keeps.iteFst | split | fail_if_no_progress with_reducible apply Keeps.upd | intro _

theorem State.setHewers_keeps {base : State} {s : State} {l : List Nat} (hss : Keeps base s) :
    Keeps base (State.setHewers s l) := by
  unfold State.setHewers
  try dsimp only
  repeat' first
    | with_reducible assumption | with_reducible exact Keeps.refl _ | with_reducible apply State.raiseIf_keeps
    | with_reducible apply State.wr_keeps | with_reducible apply IoSt.wr_keeps | intro _

theorem State.takeHewers_keeps {base : State} {s : State} {n : Nat} {bad : List Nat} (hss : Keeps base s) :
    Keeps base (State.takeHewers s n bad) := by
  unfold State.takeHewers
  try dsimp only
  repeat' first
    | with_reducible assumption | with_reducible exact Keeps.refl _ | with_reducible apply State.setHewers_keeps
    | intro _

theorem State.startOverman_keeps {base : State} {s : State} (hss : Keeps base s) :
    Keeps base (State.startOverman s) := by
  unfold State.startOverman
  try dsimp only
  repeat' first
    | with_reducible assumption | with_reducible exact Keeps.refl _ | with_reducible apply State.takeHewers_keeps
    | with_reducible apply State.wr_keeps | with_reducible apply IoSt.wr_keeps | with_reducible apply Keeps.ite
    | intro _ | split

theorem execOvmEngines_keeps {dt : Nat} {s : State}  :
    ∃ s', execOvmEngines dt s = .next s' ∧ Keeps s s' := by
  unfold execOvmEngines
  refine ⟨_, rfl, ?_⟩
  try dsimp only
  repeat' first
    | with_reducible assumption | with_reducible exact Keeps.refl _ | with_reducible apply State.elapse_keeps
    | with_reducible apply State.startOverman_keeps | with_reducible apply State.takeHewers_keeps | with_reducible apply Keeps.ite
    | split | fail_if_no_progress with_reducible apply Keeps.upd | intro _

theorem execUnitWakeReady_keeps {dt unitKind unitNo : Nat} {s : State}  :
    ∃ s', execUnitWakeReady dt unitKind unitNo s = .next s' ∧ Keeps s s' := by
  unfold execUnitWakeReady
  refine ⟨_, rfl, ?_⟩
  try dsimp only
  repeat' first
    | with_reducible assumption | with_reducible exact Keeps.refl _ | with_reducible apply State.elapse_keeps
    | with_reducible apply State.laneRestart_keeps | with_reducible apply State.retryMoves_keeps | with_reducible apply State.trbRestart_keeps
    | with_reducible apply State.wrBit_keeps | with_reducible apply Keeps.ite | with_reducible apply Keeps.iteFst
    | fail_if_no_progress with_reducible apply Keeps.upd | intro _ | split

end Sys2Proof.Machine
end

