-- ==== Sys2Proof/Laws/KeepsMapping.lean ====
section
/-! SUPPORT. What the operations of Machine/Mapping.lean keep. -/

set_option Elab.async false

namespace Sys2Proof.Machine

theorem execMapPageRead_keeps {dt : Nat} {h : HostRef} {p : PageRead} {s : State}  :
    ∃ s', execMapPageRead dt h p s = .next s' ∧ Keeps s s' := by
  unfold execMapPageRead
  refine ⟨_, rfl, ?_⟩
  try dsimp only
  repeat' first
    | with_reducible assumption | with_reducible exact Keeps.refl _ | with_reducible apply State.command_keeps
    | with_reducible apply State.count_keeps | with_reducible apply State.done_keeps | with_reducible apply State.hostWrite_keeps
    | with_reducible apply State.refuse_keeps | with_reducible apply Keeps.ite | intro _ | split

theorem execHandover_keeps {dt ctx : Nat} {s : State}  :
    ∃ s', execHandover dt ctx s = .next s' ∧ Keeps s s' := by
  unfold execHandover
  refine ⟨_, rfl, ?_⟩
  try dsimp only
  repeat' first
    | with_reducible assumption | with_reducible exact Keeps.refl _ | with_reducible apply State.count_keeps
    | with_reducible apply State.elapse_keeps | with_reducible apply Keeps.ite | fail_if_no_progress with_reducible apply Keeps.upd
    | intro _ | split

theorem execMapRateLimit_keeps {dt lane : Nat} {steer : Int} {fill : Nat} {s : State}  :
    ∃ s', execMapRateLimit dt lane steer fill s = .next s' ∧ Keeps s s' := by
  unfold execMapRateLimit
  refine ⟨_, rfl, ?_⟩
  try dsimp only
  repeat' first
    | with_reducible assumption | with_reducible exact Keeps.refl _ | with_reducible apply State.count_keeps
    | with_reducible apply State.elapse_keeps | with_reducible apply State.raise_keeps | with_reducible apply Keeps.ite
    | split | fail_if_no_progress with_reducible apply Keeps.upd | intro _

theorem State.discard_keeps {base : State} {s : State} {c : Nat} (hss : Keeps base s) :
    Keeps base (State.discard s c) := by
  unfold State.discard
  try dsimp only
  repeat' first
    | with_reducible assumption | with_reducible exact Keeps.refl _ | fail_if_no_progress with_reducible apply Keeps.upd
    | intro _

theorem execClientFrameRx_keeps {dt port : Nat} {f : ClientFrame} {s : State}  :
    ∃ s', execClientFrameRx dt port f s = .next s' ∧ Keeps s s' := by
  unfold execClientFrameRx
  refine ⟨_, rfl, ?_⟩
  try dsimp only
  repeat' first
    | with_reducible assumption | with_reducible exact Keeps.refl _ | with_reducible apply State.acceptLaneQl_keeps
    | with_reducible apply State.count_keeps | with_reducible apply State.discard_keeps | with_reducible apply State.elapse_keeps
    | with_reducible apply State.raiseFirst_keeps | with_reducible apply State.writeQueue_keeps | with_reducible apply Keeps.ite
    | split | fail_if_no_progress with_reducible apply Keeps.upd | intro _

theorem State.setGfp_keeps {base : State} {s : State} {c : Nat} {g : GfpSt} (hss : Keeps base s) :
    Keeps base (State.setGfp s c g) := by
  unfold State.setGfp
  try dsimp only
  repeat' first
    | with_reducible assumption | fail_if_no_progress with_reducible apply Keeps.upd | intro _

theorem State.loseGfp_keeps {base : State} {s : State} {c : Nat} (hss : Keeps base s) :
    Keeps base (State.loseGfp s c) := by
  unfold State.loseGfp
  try dsimp only
  repeat' first
    | with_reducible assumption | with_reducible apply State.setGfp_keeps | fail_if_no_progress with_reducible apply Keeps.upd
    | intro _

theorem State.setCmf_keeps {base : State} {s : State} {c upi : Nat} (hss : Keeps base s) :
    Keeps base (State.setCmf s c upi) := by
  unfold State.setCmf
  try dsimp only
  repeat' first
    | with_reducible assumption | with_reducible exact Keeps.refl _ | with_reducible apply State.pmDefect_keeps
    | with_reducible apply State.raise_keeps | with_reducible apply State.setGfp_keeps | with_reducible apply Keeps.ite
    | with_reducible apply Keeps.foldl | with_reducible apply Keeps.foldlFst | with_reducible apply Keeps.iteFst
    | fail_if_no_progress with_reducible apply Keeps.upd | intro _ | split

theorem State.takeGfp_keeps {base : State} {s : State} {c pli : Nat} {f : GfpFrame} (hss : Keeps base s) :
    Keeps base (State.takeGfp s c pli f) := by
  unfold State.takeGfp
  try dsimp only
  repeat' first
    | with_reducible assumption | with_reducible apply State.discard_keeps | with_reducible apply State.loseGfp_keeps
    | with_reducible apply State.setCmf_keeps | with_reducible apply Keeps.ite | intro _ | split

theorem execGfpFrameRx_keeps {dt ctx : Nat} {f : GfpFrame} {s : State}  :
    ∃ s', execGfpFrameRx dt ctx f s = .next s' ∧ Keeps s s' := by
  unfold execGfpFrameRx
  refine ⟨_, rfl, ?_⟩
  try dsimp only
  repeat' first
    | with_reducible assumption | with_reducible exact Keeps.refl _ | with_reducible apply State.count_keeps
    | with_reducible apply State.elapse_keeps | with_reducible apply State.loseGfp_keeps | with_reducible apply State.raise_keeps
    | with_reducible apply State.setGfp_keeps | with_reducible apply State.takeGfp_keeps | with_reducible apply Keeps.ite
    | split | fail_if_no_progress with_reducible apply Keeps.upd | intro _

theorem State.drrServe_keeps {base : State} {s : State} {n : Nat} (hss : Keeps base s) {t : State} (ht : State.drrServe s n = some t) :
    Keeps base t := by
  unfold State.drrServe at ht
  try dsimp only at ht
  repeat' split at ht
  all_goals cases ht
  repeat' first
    | with_reducible assumption | with_reducible exact Keeps.refl _ | with_reducible apply Keeps.ite | with_reducible apply Keeps.iteFst
    | split | fail_if_no_progress with_reducible apply Keeps.upd | intro _

theorem State.sendFlow_keeps {base : State} {s : State} {n : Nat} {q : QSt} (hss : Keeps base s) :
    Keeps base (State.sendFlow s n q) := by
  unfold State.sendFlow
  try dsimp only
  repeat' first
    | with_reducible assumption | with_reducible exact Keeps.refl _ | with_reducible apply State.sendPacket_keeps
    | with_reducible apply Keeps.ite | split | fail_if_no_progress with_reducible apply Keeps.upd | intro _

theorem execQueuePop_keeps {dt q : Nat} {s : State}  :
    ∃ s', execQueuePop dt q s = .next s' ∧ Keeps s s' := by
  unfold execQueuePop
  refine ⟨_, rfl, ?_⟩
  try dsimp only
  repeat' first
    | with_reducible assumption | with_reducible exact Keeps.refl _ | with_reducible apply State.copyWord_keeps
    | with_reducible refine State.drrServe_keeps ?_ (by with_reducible assumption) | with_reducible apply State.elapse_keeps
    | with_reducible apply State.judgeQueue_keeps | with_reducible apply State.sendFlow_keeps | with_reducible apply State.setQueue_keeps
    | with_reducible apply Keeps.ite | split | fail_if_no_progress with_reducible apply Keeps.upd | intro _

theorem State.setHitless_keeps {base : State} {s : State} {c : Nat} {x : HitlessSt} (hss : Keeps base s) :
    Keeps base (State.setHitless s c x) := by
  unfold State.setHitless
  try dsimp only
  repeat' first
    | with_reducible assumption | fail_if_no_progress with_reducible apply Keeps.upd | intro _

theorem State.lateCopy_keeps {base : State} {s : State} {c l : Nat} {x : HitlessSt} {b : BlockIn} (hss : Keeps base s) :
    Keeps base (State.lateCopy s c l x b) := by
  unfold State.lateCopy
  try dsimp only
  repeat' first
    | with_reducible assumption | with_reducible apply State.count_keeps | with_reducible apply State.raiseIf_keeps
    | with_reducible apply State.setHitless_keeps | fail_if_no_progress with_reducible apply Keeps.upd
    | intro _

theorem State.ringCopy_keeps {base : State} {s : State} {c l : Nat} {x : HitlessSt} {b : BlockIn} (hss : Keeps base s) :
    Keeps base (State.ringCopy s c l x b) := by
  unfold State.ringCopy
  try dsimp only
  repeat' first
    | with_reducible assumption | with_reducible exact Keeps.refl _ | with_reducible apply State.setHitless_keeps
    | with_reducible apply Keeps.ite | split | fail_if_no_progress with_reducible apply Keeps.upd | intro _

theorem State.resyncGroup_keeps {base : State} {s : State} {c l : Nat} {x : HitlessSt} {b : BlockIn} (hss : Keeps base s) :
    Keeps base (State.resyncGroup s c l x b) := by
  unfold State.resyncGroup
  try dsimp only
  repeat' first
    | with_reducible assumption | with_reducible apply State.raise_keeps | with_reducible apply State.ringCopy_keeps
    | fail_if_no_progress with_reducible apply Keeps.upd | intro _

theorem State.outCopy_keeps {base : State} {s : State} {c l : Nat} {x : HitlessSt} {b : BlockIn} (hss : Keeps base s) :
    Keeps base (State.outCopy s c l x b) := by
  unfold State.outCopy
  try dsimp only
  repeat' first
    | with_reducible assumption | with_reducible apply State.resyncGroup_keeps | with_reducible apply State.setHitless_keeps
    | with_reducible apply Keeps.ite | fail_if_no_progress with_reducible apply Keeps.upd | intro _ | split

theorem State.streamBad_keeps {base : State} {s : State} {c : Nat} (hss : Keeps base s) :
    Keeps base (State.streamBad s c) := by
  unfold State.streamBad
  try dsimp only
  repeat' first
    | with_reducible assumption | with_reducible exact Keeps.refl _ | with_reducible apply State.count_keeps
    | with_reducible apply State.raiseOnce_keeps | intro _

theorem execCarriageBlockRx_keeps {dt ctx leg : Nat} {blk : CarriageBlock} {s : State}  :
    ∃ s', execCarriageBlockRx dt ctx leg blk s = .next s' ∧ Keeps s s' := by
  unfold execCarriageBlockRx
  refine ⟨_, rfl, ?_⟩
  try dsimp only
  repeat' first
    | with_reducible assumption | with_reducible exact Keeps.refl _ | with_reducible apply State.elapse_keeps
    | with_reducible apply State.lateCopy_keeps | with_reducible apply State.outCopy_keeps | with_reducible apply State.ringCopy_keeps
    | with_reducible apply State.streamBad_keeps | with_reducible apply Keeps.ite | split | fail_if_no_progress with_reducible apply Keeps.upd
    | intro _

theorem execDdPlayout_keeps {dt ctx : Nat} {s : State}  :
    ∃ s', execDdPlayout dt ctx s = .next s' ∧ Keeps s s' := by
  unfold execDdPlayout
  refine ⟨_, rfl, ?_⟩
  try dsimp only
  repeat' first
    | with_reducible assumption | with_reducible exact Keeps.refl _ | with_reducible apply State.elapse_keeps
    | with_reducible apply State.setHitless_keeps | with_reducible apply Keeps.foldl | split | fail_if_no_progress with_reducible apply Keeps.upd
    | intro _

theorem State.doDdStatus_keeps {base : State} {s : State} {h : HostRef} {ctx host : Nat} (hss : Keeps base s) :
    Keeps base (State.doDdStatus s h ctx host) := by
  unfold State.doDdStatus
  try dsimp only
  repeat' first
    | with_reducible assumption | with_reducible apply State.done_keeps | with_reducible apply State.hostWrite_keeps
    | with_reducible apply State.refuse_keeps | with_reducible apply State.waitAddr_keeps | with_reducible apply Keeps.ite
    | split | fail_if_no_progress with_reducible apply Keeps.upd | intro _

theorem execMapDdStatus_keeps {dt : Nat} {h : HostRef} {ctx host : Nat} {s : State}  :
    ∃ s', execMapDdStatus dt h ctx host s = .next s' ∧ Keeps s s' := by
  unfold execMapDdStatus
  refine ⟨_, rfl, ?_⟩
  try dsimp only
  repeat' first
    | with_reducible assumption | with_reducible exact Keeps.refl _ | with_reducible apply State.command_keeps
    | with_reducible apply State.doDdStatus_keeps | with_reducible apply State.orHold_keeps | intro _

end Sys2Proof.Machine
end

