-- ==== Sys2Proof/Laws/KeepsCipher.lean ====
section
/-! SUPPORT. What the operations of Machine/Cipher.lean keep. -/

set_option Elab.async false

namespace Sys2Proof.Machine

theorem State.say_keeps {base : State} {s : State} {caused : Bool} {code src : Nat} {det : List (Nat × Nat)} (hss : Keeps base s) :
    Keeps base (State.say s caused code src det) := by
  unfold State.say
  try dsimp only
  repeat' first
    | with_reducible assumption | with_reducible apply State.raise_keeps | with_reducible apply State.raiseC_keeps
    | with_reducible apply Keeps.ite | intro _ | split

theorem State.sendFwd_keeps {base : State} {s : State} {f : Fwd} (hss : Keeps base s) :
    Keeps base (State.sendFwd s f) := by
  unfold State.sendFwd
  try dsimp only
  repeat' first
    | with_reducible assumption | with_reducible apply State.send_keeps | with_reducible apply Keeps.ite
    | intro _ | split

theorem State.extend_keeps {base : State} {s : State} {i : Nat} {d : Nat} (hss : Keeps base s) :
    Keeps base (State.extend s i d) := by
  unfold State.extend
  try dsimp only
  repeat' first
    | with_reducible assumption | fail_if_no_progress with_reducible apply Keeps.upd | intro _

theorem State.dropNonce_keeps {base : State} {s : State} (hss : Keeps base s) :
    Keeps base (State.dropNonce s) := by
  unfold State.dropNonce
  try dsimp only
  repeat' first
    | with_reducible assumption | with_reducible exact Keeps.refl _ | with_reducible apply State.wr_keeps
    | with_reducible apply IoSt.wr_keeps | with_reducible apply State.wrBit_keeps | with_reducible apply Keeps.foldl
    | intro _

theorem State.checkEnvelope_keeps {base : State} {s : State} {op : Nat} {fresh caused : Bool} {e : List Nat} (hss : Keeps base s) :
    Keeps base (State.checkEnvelope s op fresh caused e).1 := by
  unfold State.checkEnvelope
  try dsimp only
  repeat' first
    | with_reducible assumption | with_reducible apply State.count_keeps | with_reducible apply State.dropNonce_keeps
    | with_reducible apply State.extend_keeps | with_reducible apply State.say_keeps | with_reducible apply Keeps.ite
    | with_reducible apply Keeps.iteFst | intro _ | split

theorem State.checkEnvelope_keepsAs {base : State} {s : State} {op : Nat} {fresh caused : Bool} {e : List Nat} (hss : Keeps base s) {t : State} {y : Except Nat (List Nat)}
    (h : State.checkEnvelope s op fresh caused e = (t, y)) : Keeps base t := by
  have k : Keeps base (State.checkEnvelope s op fresh caused e).1 := State.checkEnvelope_keeps hss
  rw [h] at k
  exact k

theorem State.slotRegs_keeps {base : State} {s : State} (hss : Keeps base s) :
    Keeps base (State.slotRegs s) := by
  unfold State.slotRegs
  try dsimp only
  repeat' first
    | with_reducible assumption | with_reducible exact Keeps.refl _ | with_reducible apply State.wr_keeps
    | with_reducible apply IoSt.wr_keeps | intro _

theorem State.setSlot_keeps {base : State} {s : State} {k : Nat} {x : KeySlot} (hss : Keeps base s) :
    Keeps base (State.setSlot s k x) := by
  unfold State.setSlot
  try dsimp only
  repeat' first
    | with_reducible assumption | with_reducible apply State.slotRegs_keeps | fail_if_no_progress with_reducible apply Keeps.upd
    | intro _

theorem State.cipRegs_keeps {base : State} {s : State} (hss : Keeps base s) :
    Keeps base (State.cipRegs s) := by
  unfold State.cipRegs
  try dsimp only
  repeat' first
    | with_reducible assumption | with_reducible exact Keeps.refl _ | with_reducible apply State.wr_keeps
    | with_reducible apply IoSt.wr_keeps | intro _

theorem State.setCip_keeps {base : State} {s : State} {c : Nat} {x : CipCtx} (hss : Keeps base s) :
    Keeps base (State.setCip s c x) := by
  unfold State.setCip
  try dsimp only
  repeat' first
    | with_reducible assumption | with_reducible apply State.cipRegs_keeps | fail_if_no_progress with_reducible apply Keeps.upd
    | intro _

theorem State.busyRegs_keeps {base : State} {s : State} (hss : Keeps base s) :
    Keeps base (State.busyRegs s) := by
  unfold State.busyRegs
  try dsimp only
  repeat' first
    | with_reducible assumption | with_reducible exact Keeps.refl _ | with_reducible apply State.wr_keeps
    | with_reducible apply IoSt.wr_keeps | intro _

theorem State.wantKey_keeps {base : State} {s : State} {c dir e deadline : Nat} (hss : Keeps base s) :
    Keeps base (State.wantKey s c dir e deadline) := by
  unfold State.wantKey
  try dsimp only
  repeat' first
    | with_reducible assumption | with_reducible exact Keeps.refl _ | with_reducible apply State.busyRegs_keeps
    | fail_if_no_progress with_reducible apply Keeps.upd | intro _

theorem State.wantKeys_keeps {base : State} {s : State} {c dir e deadline : Nat} (hss : Keeps base s) :
    Keeps base (State.wantKeys s c dir e deadline) := by
  unfold State.wantKeys
  try dsimp only
  repeat' first
    | with_reducible assumption | with_reducible apply State.wantKey_keeps | intro _

theorem State.needKey_keeps {base : State} {s : State} {c dir e deadline : Nat} (hss : Keeps base s) :
    Keeps base (State.needKey s c dir e deadline) := by
  unfold State.needKey
  try dsimp only
  repeat' first
    | with_reducible assumption | with_reducible apply State.wantKey_keeps | with_reducible apply Keeps.ite
    | split | fail_if_no_progress with_reducible apply Keeps.upd | intro _

theorem State.renewKey_keeps {base : State} {s : State} {c dir e : Nat} (hss : Keeps base s) :
    Keeps base (State.renewKey s c dir e) := by
  unfold State.renewKey
  try dsimp only
  repeat' first
    | with_reducible assumption | with_reducible exact Keeps.refl _ | with_reducible apply State.setCip_keeps
    | with_reducible apply State.wantKey_keeps | with_reducible apply Keeps.ite | split | fail_if_no_progress with_reducible apply Keeps.upd
    | intro _

theorem State.markUsed_keeps {base : State} {s : State} {k e : Nat} (hss : Keeps base s) :
    Keeps base (State.markUsed s k e) := by
  unfold State.markUsed
  try dsimp only
  repeat' first
    | with_reducible assumption | with_reducible apply State.setSlot_keeps | with_reducible apply Keeps.ite
    | split | fail_if_no_progress with_reducible apply Keeps.upd | intro _

theorem State.stopDir_keeps {base : State} {s : State} {c dir cause : Nat} (hss : Keeps base s) :
    Keeps base (State.stopDir s c dir cause) := by
  unfold State.stopDir
  try dsimp only
  repeat' first
    | with_reducible assumption | with_reducible apply State.raise_keeps | with_reducible apply State.setCip_keeps
    | with_reducible apply Keeps.ite | split | fail_if_no_progress with_reducible apply Keeps.upd | intro _

theorem State.resumeDir_keeps {base : State} {s : State} {c dir : Nat} (hss : Keeps base s) :
    Keeps base (State.resumeDir s c dir) := by
  unfold State.resumeDir
  try dsimp only
  repeat' first
    | with_reducible assumption | with_reducible apply State.raise_keeps | with_reducible apply State.setCip_keeps
    | with_reducible apply Keeps.ite | split | fail_if_no_progress with_reducible apply Keeps.upd | intro _

theorem State.placeCipher_keeps {base : State} {s : State} {c slot epoch : Nat} {joins : Bool} (hss : Keeps base s) :
    Keeps base (State.placeCipher s c slot epoch joins) := by
  unfold State.placeCipher
  try dsimp only
  repeat' first
    | with_reducible assumption | with_reducible apply State.markUsed_keeps | with_reducible apply State.setCip_keeps
    | with_reducible apply State.stopDir_keeps | with_reducible apply State.wantKeys_keeps | with_reducible apply Keeps.ite
    | intro _ | split

theorem State.endFlip_keeps {base : State} {s : State} {c : Nat} {sent : Bool} (hss : Keeps base s) :
    Keeps base (State.endFlip s c sent) := by
  unfold State.endFlip
  try dsimp only
  repeat' first
    | with_reducible assumption | with_reducible exact Keeps.refl _ | with_reducible apply State.raise_keeps
    | with_reducible apply Keeps.ite | with_reducible apply Keeps.foldl | fail_if_no_progress with_reducible apply Keeps.upd
    | intro _ | split

theorem State.dropCipher_keeps {base : State} {s : State} {c : Nat} (hss : Keeps base s) :
    Keeps base (State.dropCipher s c) := by
  unfold State.dropCipher
  try dsimp only
  repeat' first
    | with_reducible assumption | with_reducible exact Keeps.refl _ | with_reducible apply State.busyRegs_keeps
    | with_reducible apply State.cipRegs_keeps | with_reducible apply State.endFlip_keeps | fail_if_no_progress with_reducible apply Keeps.upd
    | intro _

theorem State.deriveAgain_keeps {base : State} {s : State} {k i c : Nat} {x : CipCtx} (hss : Keeps base s) :
    Keeps base (State.deriveAgain s k i c x) := by
  unfold State.deriveAgain
  try dsimp only
  repeat' first
    | with_reducible assumption | with_reducible apply State.renewKey_keeps | with_reducible apply Keeps.ite
    | intro _ | split

theorem State.loadKey_keeps {base : State} {s : State} {k fromEpoch peer key : Nat} {caused : Bool} (hss : Keeps base s) :
    Keeps base (State.loadKey s k fromEpoch peer key caused) := by
  unfold State.loadKey
  try dsimp only
  repeat' first
    | with_reducible assumption | with_reducible exact Keeps.refl _ | with_reducible apply State.deriveAgain_keeps
    | with_reducible apply State.say_keeps | with_reducible apply State.setSlot_keeps | with_reducible apply Keeps.ite
    | with_reducible apply Keeps.foldl | with_reducible apply Keeps.foldlFst | with_reducible apply Keeps.iteFst
    | split | fail_if_no_progress with_reducible apply Keeps.upd | intro _

theorem State.finishErase_keeps {base : State} {s : State} {k : Nat} {caused : Bool} (hss : Keeps base s) :
    Keeps base (State.finishErase s k caused) := by
  unfold State.finishErase
  try dsimp only
  repeat' first
    | with_reducible assumption | with_reducible exact Keeps.refl _ | with_reducible apply State.busyRegs_keeps
    | with_reducible apply State.say_keeps | with_reducible apply State.slotRegs_keeps | with_reducible apply Keeps.ite
    | with_reducible apply Keeps.foldl | with_reducible apply Keeps.foldlFst | with_reducible apply Keeps.iteFst
    | split | fail_if_no_progress with_reducible apply Keeps.upd | intro _

theorem State.eraseSlot_keeps {base : State} {s : State} {k : Nat} {caused : Bool} (hss : Keeps base s) :
    Keeps base (State.eraseSlot s k caused) := by
  unfold State.eraseSlot
  try dsimp only
  repeat' first
    | with_reducible assumption | with_reducible exact Keeps.refl _ | with_reducible apply State.finishErase_keeps
    | with_reducible apply State.setSlot_keeps | with_reducible apply Keeps.ite | with_reducible apply Keeps.foldl
    | fail_if_no_progress with_reducible apply Keeps.upd | intro _ | split

theorem State.eraseAll_keeps {base : State} {s : State} {caused : Bool} (hss : Keeps base s) :
    Keeps base (State.eraseAll s caused) := by
  unfold State.eraseAll
  try dsimp only
  repeat' first
    | with_reducible assumption | with_reducible exact Keeps.refl _ | with_reducible apply State.eraseSlot_keeps
    | with_reducible apply Keeps.foldl | with_reducible apply Keeps.foldlFst | with_reducible apply Keeps.iteFst
    | intro _

theorem State.doRootLoad_keeps {base : State} {s : State} {e : List Nat} {forwarded : Bool} (hss : Keeps base s) :
    Keeps base (State.doRootLoad s e forwarded).1 := by
  unfold State.doRootLoad
  try dsimp only
  repeat' first
    | with_reducible assumption | with_reducible refine State.checkEnvelope_keepsAs ?_ (by with_reducible assumption)
    | with_reducible apply State.checkEnvelope_keeps | with_reducible apply State.loadKey_keeps | with_reducible apply State.sendFwd_keeps
    | with_reducible apply Keeps.ite | with_reducible apply Keeps.iteFst | split | fail_if_no_progress with_reducible apply Keeps.upd
    | intro _

theorem State.doRootLoad_keepsAs {base : State} {s : State} {e : List Nat} {forwarded : Bool} (hss : Keeps base s) {t : State} {y : Nat}
    (h : State.doRootLoad s e forwarded = (t, y)) : Keeps base t := by
  have k : Keeps base (State.doRootLoad s e forwarded).1 := State.doRootLoad_keeps hss
  rw [h] at k
  exact k

theorem State.doKeyErase_keeps {base : State} {s : State} {e : List Nat} {forwarded : Bool} (hss : Keeps base s) :
    Keeps base (State.doKeyErase s e forwarded).1 := by
  unfold State.doKeyErase
  try dsimp only
  repeat' first
    | with_reducible assumption | with_reducible refine State.checkEnvelope_keepsAs ?_ (by with_reducible assumption)
    | with_reducible apply State.checkEnvelope_keeps | with_reducible apply State.eraseSlot_keeps | with_reducible apply State.sendFwd_keeps
    | with_reducible apply Keeps.ite | with_reducible apply Keeps.iteFst | split | fail_if_no_progress with_reducible apply Keeps.upd
    | intro _

theorem State.doKeyErase_keepsAs {base : State} {s : State} {e : List Nat} {forwarded : Bool} (hss : Keeps base s) {t : State} {y : Nat}
    (h : State.doKeyErase s e forwarded = (t, y)) : Keeps base t := by
  have k : Keeps base (State.doKeyErase s e forwarded).1 := State.doKeyErase_keeps hss
  rw [h] at k
  exact k

theorem State.doWrapLoad_keeps {base : State} {s : State} {p : WrapLoad} {forwarded : Bool} (hss : Keeps base s) :
    Keeps base (State.doWrapLoad s p forwarded).1 := by
  unfold State.doWrapLoad
  try dsimp only
  repeat' first
    | with_reducible assumption | with_reducible exact Keeps.refl _ | with_reducible apply State.loadKey_keeps
    | with_reducible apply State.sendFwd_keeps | with_reducible apply Keeps.ite | with_reducible apply Keeps.iteFst
    | split | fail_if_no_progress with_reducible apply Keeps.upd | intro _

theorem State.doWrapLoad_keepsAs {base : State} {s : State} {p : WrapLoad} {forwarded : Bool} (hss : Keeps base s) {t : State} {y : Nat}
    (h : State.doWrapLoad s p forwarded = (t, y)) : Keeps base t := by
  have k : Keeps base (State.doWrapLoad s p forwarded).1 := State.doWrapLoad_keeps hss
  rw [h] at k
  exact k

theorem State.finish_keeps {base : State} {h : HostRef} {op : Nat} {r : State × Nat} (hss : Keeps base r.1) :
    Keeps base (State.finish h op r) := by
  unfold State.finish
  split
  · exact State.done_keeps hss
  · exact State.refuse_keeps hss

theorem execCipRootLoad_keeps {dt : Nat} {h : HostRef} {e : List Nat} {s : State}  :
    ∃ s', execCipRootLoad dt h e s = .next s' ∧ Keeps s s' := by
  unfold execCipRootLoad
  refine ⟨_, rfl, ?_⟩
  try dsimp only
  repeat' first
    | with_reducible assumption | with_reducible exact Keeps.refl _ | with_reducible apply State.command_keeps
    | with_reducible refine State.doRootLoad_keepsAs ?_ (by with_reducible assumption) | with_reducible apply State.doRootLoad_keeps
    | with_reducible apply State.finish_keeps | intro _

theorem execCipKeyErase_keeps {dt : Nat} {h : HostRef} {e : List Nat} {s : State}  :
    ∃ s', execCipKeyErase dt h e s = .next s' ∧ Keeps s s' := by
  unfold execCipKeyErase
  refine ⟨_, rfl, ?_⟩
  try dsimp only
  repeat' first
    | with_reducible assumption | with_reducible exact Keeps.refl _ | with_reducible apply State.command_keeps
    | with_reducible refine State.doKeyErase_keepsAs ?_ (by with_reducible assumption) | with_reducible apply State.doKeyErase_keeps
    | with_reducible apply State.finish_keeps | intro _

theorem execCipWrapLoad_keeps {dt : Nat} {h : HostRef} {p : WrapLoad} {s : State}  :
    ∃ s', execCipWrapLoad dt h p s = .next s' ∧ Keeps s s' := by
  unfold execCipWrapLoad
  refine ⟨_, rfl, ?_⟩
  try dsimp only
  repeat' first
    | with_reducible assumption | with_reducible exact Keeps.refl _ | with_reducible apply State.command_keeps
    | with_reducible refine State.doWrapLoad_keepsAs ?_ (by with_reducible assumption) | with_reducible apply State.doWrapLoad_keeps
    | with_reducible apply State.finish_keeps | intro _

theorem State.reserve_keeps {base : State} {s : State} {e : Nat} {stored caused : Bool} (hss : Keeps base s) :
    Keeps base (State.reserve s e stored caused) := by
  unfold State.reserve
  try dsimp only
  repeat' first
    | with_reducible assumption | with_reducible apply State.say_keeps | with_reducible apply State.wr_keeps
    | with_reducible apply IoSt.wr_keeps | with_reducible apply Keeps.ite | fail_if_no_progress with_reducible apply Keeps.upd
    | intro _ | split

theorem execEpochReservation_keeps {dt : Nat} {stored : Bool} {s : State}  :
    ∃ s', execEpochReservation dt stored s = .next s' ∧ Keeps s s' := by
  unfold execEpochReservation
  refine ⟨_, rfl, ?_⟩
  try dsimp only
  repeat' first
    | with_reducible assumption | with_reducible exact Keeps.refl _ | with_reducible apply State.elapse_keeps
    | with_reducible apply State.reserve_keeps | split | fail_if_no_progress with_reducible apply Keeps.upd
    | intro _

theorem State.scheduleFlip_keeps {base : State} {s : State} {p : EpochFlip} {l : List (Nat × Nat)} (hss : Keeps base s) :
    Keeps base (State.scheduleFlip s p l) := by
  unfold State.scheduleFlip
  try dsimp only
  repeat' first
    | with_reducible assumption | with_reducible exact Keeps.refl _ | with_reducible apply State.needKey_keeps
    | with_reducible apply State.setCip_keeps | with_reducible apply Keeps.ite | with_reducible apply Keeps.foldl
    | with_reducible apply Keeps.foldlFst | with_reducible apply Keeps.iteFst | split | fail_if_no_progress with_reducible apply Keeps.upd
    | intro _

theorem State.doEpochFlip_keeps {base : State} {s : State} {p : EpochFlip} {stored forwarded : Bool} (hss : Keeps base s) :
    Keeps base (State.doEpochFlip s p stored forwarded).1 := by
  unfold State.doEpochFlip
  try dsimp only
  repeat' first
    | with_reducible assumption | with_reducible exact Keeps.refl _ | with_reducible apply State.reserve_keeps
    | with_reducible apply State.scheduleFlip_keeps | with_reducible apply State.sendFwd_keeps | with_reducible apply Keeps.ite
    | with_reducible apply Keeps.foldl | with_reducible apply Keeps.foldlFst | with_reducible apply Keeps.iteFst
    | split | fail_if_no_progress with_reducible apply Keeps.upd | intro _

theorem State.doEpochFlip_keepsAs {base : State} {s : State} {p : EpochFlip} {stored forwarded : Bool} (hss : Keeps base s) {t : State} {y : Nat}
    (h : State.doEpochFlip s p stored forwarded = (t, y)) : Keeps base t := by
  have k : Keeps base (State.doEpochFlip s p stored forwarded).1 := State.doEpochFlip_keeps hss
  rw [h] at k
  exact k

theorem execCipEpochFlip_keeps {dt : Nat} {h : HostRef} {p : EpochFlip} {stored : Bool} {s : State}  :
    ∃ s', execCipEpochFlip dt h p stored s = .next s' ∧ Keeps s s' := by
  unfold execCipEpochFlip
  refine ⟨_, rfl, ?_⟩
  try dsimp only
  repeat' first
    | with_reducible assumption | with_reducible exact Keeps.refl _ | with_reducible apply State.command_keeps
    | with_reducible refine State.doEpochFlip_keepsAs ?_ (by with_reducible assumption) | with_reducible apply State.doEpochFlip_keeps
    | with_reducible apply State.finish_keeps | intro _

theorem State.fireFlip_keeps {base : State} {s : State} {f : CipFlip} (hss : Keeps base s) :
    Keeps base (State.fireFlip s f) := by
  unfold State.fireFlip
  try dsimp only
  repeat' first
    | with_reducible assumption | with_reducible exact Keeps.refl _ | with_reducible apply State.setCip_keeps
    | with_reducible apply State.wr_keeps | with_reducible apply IoSt.wr_keeps | with_reducible apply Keeps.ite
    | with_reducible apply Keeps.foldl | with_reducible apply Keeps.foldlFst | with_reducible apply Keeps.iteFst
    | split | fail_if_no_progress with_reducible apply Keeps.upd | intro _

theorem execKeyEpochFlip_keeps {dt : Nat} {s : State}  :
    ∃ s', execKeyEpochFlip dt s = .next s' ∧ Keeps s s' := by
  unfold execKeyEpochFlip
  refine ⟨_, rfl, ?_⟩
  try dsimp only
  repeat' first
    | with_reducible assumption | with_reducible exact Keeps.refl _ | with_reducible apply State.elapse_keeps
    | with_reducible apply State.fireFlip_keeps | with_reducible apply State.waitAddr_keeps | with_reducible apply Keeps.ite
    | with_reducible apply Keeps.foldl | split | fail_if_no_progress with_reducible apply Keeps.upd | intro _

theorem State.enterEpoch_keeps {base : State} {s : State} {c : Nat} {x : CipCtx} (hss : Keeps base s) :
    Keeps base (State.enterEpoch s c x) := by
  unfold State.enterEpoch
  try dsimp only
  repeat' first
    | with_reducible assumption | with_reducible apply State.endFlip_keeps | with_reducible apply State.markUsed_keeps
    | with_reducible apply State.resumeDir_keeps | with_reducible apply State.setCip_keeps | with_reducible apply State.wantKey_keeps
    | with_reducible apply Keeps.ite | fail_if_no_progress with_reducible apply Keeps.upd | intro _ | split

theorem State.sendBlock_keeps {base : State} {s : State} {c : Nat} {x : CipCtx} {before : List Nat} (hss : Keeps base s) :
    Keeps base (State.sendBlock s c x before) := by
  unfold State.sendBlock
  try dsimp only
  repeat' first
    | with_reducible assumption | with_reducible apply State.draw_keeps | with_reducible apply State.raiseIf_keeps
    | with_reducible apply State.setCip_keeps | with_reducible apply Keeps.ite | with_reducible apply Keeps.iteFst
    | fail_if_no_progress with_reducible apply Keeps.upd | intro _ | split

theorem State.sendSeq_keeps {base : State} {s : State} {c : Nat} (hss : Keeps base s) :
    Keeps base (State.sendSeq s c) := by
  unfold State.sendSeq
  try dsimp only
  repeat' first
    | with_reducible assumption | with_reducible apply Keeps.iteFst | fail_if_no_progress with_reducible apply Keeps.upd
    | fail_if_no_progress with_reducible apply Keeps.updCtr | intro _

theorem execSealedBlockTx_keeps {dt ctx : Nat} {before : List Nat} {s : State}  :
    ∃ s', execSealedBlockTx dt ctx before s = .next s' ∧ Keeps s s' := by
  unfold execSealedBlockTx
  refine ⟨_, rfl, ?_⟩
  try dsimp only
  repeat' first
    | with_reducible assumption | with_reducible exact Keeps.refl _ | with_reducible apply State.elapse_keeps
    | with_reducible apply State.enterEpoch_keeps | with_reducible apply State.sendBlock_keeps | with_reducible apply State.sendSeq_keeps
    | with_reducible apply State.stopDir_keeps | with_reducible apply Keeps.ite | split | fail_if_no_progress with_reducible apply Keeps.upd
    | intro _

theorem State.forceFail_keeps {base : State} {s : State} {c n : Nat} (hss : Keeps base s) :
    Keeps base (State.forceFail s c n) := by
  unfold State.forceFail
  try dsimp only
  repeat' first
    | with_reducible assumption | with_reducible apply State.setFramer_keeps | with_reducible apply State.settle_keeps
    | with_reducible apply Keeps.ite | fail_if_no_progress with_reducible apply Keeps.upd | intro _ | split

theorem State.failBlock_keeps {base : State} {s : State} {c code first last frames : Nat} (hss : Keeps base s) :
    Keeps base (State.failBlock s c code first last frames) := by
  unfold State.failBlock
  try dsimp only
  repeat' first
    | with_reducible assumption | with_reducible apply State.count_keeps | with_reducible apply State.raiseLim_keeps
    | with_reducible apply State.setCip_keeps | with_reducible apply Keeps.ite | split | fail_if_no_progress with_reducible apply Keeps.upd
    | intro _

theorem State.judgeTag_keeps {base : State} {s : State} {c : Nat} {f : Option Carriage} {b : SealedRx} (hss : Keeps base s) :
    Keeps base (State.judgeTag s c f b) := by
  unfold State.judgeTag
  try dsimp only
  repeat' first
    | with_reducible assumption | with_reducible apply State.failBlock_keeps | with_reducible apply State.setCip_keeps
    | with_reducible apply Keeps.ite | split | fail_if_no_progress with_reducible apply Keeps.upd | intro _

theorem State.takePrediction_keeps {base : State} {s : State} {c : Nat} {b : Carriage} {last : Nat} (hss : Keeps base s) :
    Keeps base (State.takePrediction s c b last) := by
  unfold State.takePrediction
  try dsimp only
  repeat' first
    | with_reducible assumption | with_reducible apply State.markUsed_keeps | with_reducible apply State.needKey_keeps
    | with_reducible apply State.resumeDir_keeps | with_reducible apply State.setCip_keeps | with_reducible apply State.stopDir_keeps
    | with_reducible apply Keeps.ite | split | fail_if_no_progress with_reducible apply Keeps.upd | intro _

theorem State.runBlock_keeps {base : State} {s : State} {c : Nat} {f : Carriage} {b : SealedRx} (hss : Keeps base s) :
    Keeps base (State.runBlock s c f b) := by
  unfold State.runBlock
  try dsimp only
  repeat' first
    | with_reducible assumption | with_reducible apply State.failBlock_keeps | with_reducible apply State.setCip_keeps
    | with_reducible apply State.takePrediction_keeps | with_reducible apply Keeps.ite | split | fail_if_no_progress with_reducible apply Keeps.upd
    | intro _

theorem State.blindBlock_keeps {base : State} {s : State} {c : Nat} {b : SealedRx} (hss : Keeps base s) :
    Keeps base (State.blindBlock s c b) := by
  unfold State.blindBlock
  try dsimp only
  repeat' first
    | with_reducible assumption | with_reducible apply State.failBlock_keeps | with_reducible apply State.setCip_keeps
    | with_reducible apply Keeps.ite | split | fail_if_no_progress with_reducible apply Keeps.upd | intro _

theorem State.countForced_keeps {base : State} {s : State} {c : Nat} (hss : Keeps base s) :
    Keeps base (State.countForced s c) := by
  unfold State.countForced
  try dsimp only
  repeat' first
    | with_reducible assumption | with_reducible apply State.setCip_keeps | split | fail_if_no_progress with_reducible apply Keeps.upd
    | intro _

theorem execSealedBlockRx_keeps {dt ctx : Nat} {b : SealedRx} {s : State}  :
    ∃ s', execSealedBlockRx dt ctx b s = .next s' ∧ Keeps s s' := by
  unfold execSealedBlockRx
  refine ⟨_, rfl, ?_⟩
  try dsimp only
  repeat' first
    | with_reducible assumption | with_reducible exact Keeps.refl _ | with_reducible apply State.blindBlock_keeps
    | with_reducible apply State.countForced_keeps | with_reducible apply State.elapse_keeps | with_reducible apply State.forceFail_keeps
    | with_reducible apply State.judgeTag_keeps | with_reducible apply State.runBlock_keeps | with_reducible apply State.streamBad_keeps
    | with_reducible apply State.takePrediction_keeps | with_reducible apply Keeps.ite | split | fail_if_no_progress with_reducible apply Keeps.upd
    | intro _

theorem execKeyDerived_keeps {dt : Nat} {s : State}  :
    ∃ s', execKeyDerived dt s = .next s' ∧ Keeps s s' := by
  unfold execKeyDerived
  refine ⟨_, rfl, ?_⟩
  try dsimp only
  repeat' first
    | with_reducible assumption | with_reducible exact Keeps.refl _ | with_reducible apply State.busyRegs_keeps
    | with_reducible apply State.count_keeps | with_reducible apply State.elapse_keeps | with_reducible apply State.setCip_keeps
    | with_reducible apply Keeps.ite | split | fail_if_no_progress with_reducible apply Keeps.upd | intro _

theorem State.bulkRegs_keeps {base : State} {s : State} (hss : Keeps base s) :
    Keeps base (State.bulkRegs s) := by
  unfold State.bulkRegs
  try dsimp only
  repeat' first
    | with_reducible assumption | with_reducible exact Keeps.refl _ | with_reducible apply State.wr_keeps
    | with_reducible apply IoSt.wr_keeps | with_reducible apply Keeps.iteFst | intro _

theorem State.setPipe_keeps {base : State} {s : State} {p : Nat} {x : BulkPipe} (hss : Keeps base s) :
    Keeps base (State.setPipe s p x) := by
  unfold State.setPipe
  try dsimp only
  repeat' first
    | with_reducible assumption | with_reducible apply State.bulkRegs_keeps | fail_if_no_progress with_reducible apply Keeps.upd
    | intro _

theorem State.numberBulk_keeps {base : State} {s : State} {m : BulkMsg} (hss : Keeps base s) :
    Keeps base (State.numberBulk s m).1 := by
  unfold State.numberBulk
  try dsimp only
  repeat' first
    | with_reducible assumption | with_reducible apply Keeps.ite | with_reducible apply Keeps.iteFst | fail_if_no_progress with_reducible apply Keeps.upd
    | intro _ | split

theorem State.numberBulk_keepsAs {base : State} {s : State} {m : BulkMsg} (hss : Keeps base s) {t : State} {y : BulkMsg}
    (h : State.numberBulk s m = (t, y)) : Keeps base t := by
  have k : Keeps base (State.numberBulk s m).1 := State.numberBulk_keeps hss
  rw [h] at k
  exact k

theorem State.meetPipe_keeps {base : State} {s : State} {p : Nat} {r : BulkRun} (hss : Keeps base s) :
    Keeps base (State.meetPipe s p r) := by
  unfold State.meetPipe
  try dsimp only
  repeat' first
    | with_reducible assumption | with_reducible apply State.count_keeps | with_reducible apply State.setPipe_keeps
    | with_reducible apply Keeps.ite | split | fail_if_no_progress with_reducible apply Keeps.upd | intro _

theorem State.bulkResult_keeps {base : State} {s : State} {p : Nat} {m : BulkMsg} {res : Nat} (hss : Keeps base s) :
    Keeps base (State.bulkResult s p m res) := by
  unfold State.bulkResult
  try dsimp only
  repeat' first
    | with_reducible assumption | with_reducible apply State.count_keeps | with_reducible apply State.raise_keeps
    | with_reducible apply Keeps.ite | fail_if_no_progress with_reducible apply Keeps.upd | intro _ | split

theorem execBulkMessage_keeps {dt : Nat} {m : BulkMsg} {s : State}  :
    ∃ s', execBulkMessage dt m s = .next s' ∧ Keeps s s' := by
  unfold execBulkMessage
  refine ⟨_, rfl, ?_⟩
  try dsimp only
  repeat' first
    | with_reducible assumption | with_reducible exact Keeps.refl _ | with_reducible apply State.bulkResult_keeps
    | with_reducible apply State.elapse_keeps | with_reducible apply State.loadStep_keeps | with_reducible apply State.meetPipe_keeps
    | with_reducible refine State.numberBulk_keepsAs ?_ (by with_reducible assumption) | with_reducible apply State.numberBulk_keeps
    | with_reducible apply Keeps.ite | with_reducible apply Keeps.iteFst | split | fail_if_no_progress with_reducible apply Keeps.upd
    | intro _

theorem execBulkOpen_keeps {dt pipe : Nat} {s : State}  :
    ∃ s', execBulkOpen dt pipe s = .next s' ∧ Keeps s s' := by
  unfold execBulkOpen
  refine ⟨_, rfl, ?_⟩
  try dsimp only
  repeat' first
    | with_reducible assumption | with_reducible exact Keeps.refl _ | with_reducible apply State.bulkResult_keeps
    | with_reducible apply State.elapse_keeps | with_reducible apply State.setPipe_keeps | with_reducible apply Keeps.ite
    | split | fail_if_no_progress with_reducible apply Keeps.upd | intro _

end Sys2Proof.Machine
end

