-- ==== Sys2Proof/Laws/KeepsSwap.lean ====
section
/-! SUPPORT. What the operations of Machine/Swap.lean keep. -/

set_option Elab.async false

namespace Sys2Proof.Machine

theorem State.doMapRead_keeps {base : State} {s : State} {h : HostRef} {ctx host : Nat} (hss : Keeps base s) :
    Keeps base (State.doMapRead s h ctx host) := by
  unfold State.doMapRead
  try dsimp only
  repeat' first
    | with_reducible assumption | with_reducible apply State.done_keeps | with_reducible apply State.hostWrite_keeps
    | with_reducible apply State.refuse_keeps | with_reducible apply State.waitAddr_keeps | with_reducible apply Keeps.ite
    | split | fail_if_no_progress with_reducible apply Keeps.upd | fail_if_no_progress with_reducible apply Keeps.updCtr
    | intro _

theorem execMapCtxRead_keeps {dt : Nat} {h : HostRef} {ctx host : Nat} {s : State}  :
    ∃ s', execMapCtxRead dt h ctx host s = .next s' ∧ Keeps s s' := by
  unfold execMapCtxRead
  refine ⟨_, rfl, ?_⟩
  try dsimp only
  repeat' first
    | with_reducible assumption | with_reducible exact Keeps.refl _ | with_reducible apply State.command_keeps
    | with_reducible apply State.doMapRead_keeps | with_reducible apply State.orHold_keeps | intro _

theorem State.runHeld_keeps {base : State} {s : State} {x : CtxCmd} (hss : Keeps base s) : Keeps base (State.runHeld s x) := by
  cases x <;> unfold State.runHeld <;> dsimp only
  · exact State.doCtxCfg_keeps hss
  · exact State.doTraceSet_keeps hss
  · exact State.doFrmRead_keeps hss
  · exact State.doForce_keeps hss
  · exact State.doErrInsert_keeps hss
  · exact State.doMapRead_keeps hss
  · exact State.doDdStatus_keeps hss
  · exact State.doResultRead_keeps hss
  · exact State.doWithdraw_keeps hss
  · exact State.doPin_keeps hss
  · exact State.doPin_keeps hss

theorem State.releaseHeld_keeps {base : State} {s : State} {c : Nat} (hss : Keeps base s) :
    Keeps base (State.releaseHeld s c) := by
  unfold State.releaseHeld
  try dsimp only
  repeat' first
    | with_reducible assumption | with_reducible exact Keeps.refl _ | with_reducible apply State.runHeld_keeps
    | with_reducible apply Keeps.foldl | with_reducible apply Keeps.foldlFst | with_reducible apply Keeps.iteFst
    | fail_if_no_progress with_reducible apply Keeps.upd | intro _

theorem State.expireHold_keeps {base : State} {s : State} {c : Nat} (hss : Keeps base s) :
    Keeps base (State.expireHold s c) := by
  unfold State.expireHold
  try dsimp only
  repeat' first
    | with_reducible assumption | with_reducible exact Keeps.refl _ | with_reducible apply State.count_keeps
    | with_reducible apply State.endMove_keeps | with_reducible apply State.raise_keeps | with_reducible apply State.releaseHeld_keeps
    | with_reducible apply Keeps.iteFst | intro _

theorem execOvmHoldExpired_keeps {dt ctx : Nat} {s : State}  :
    ∃ s', execOvmHoldExpired dt ctx s = .next s' ∧ Keeps s s' := by
  unfold execOvmHoldExpired
  refine ⟨_, rfl, ?_⟩
  try dsimp only
  repeat' first
    | with_reducible assumption | with_reducible exact Keeps.refl _ | with_reducible apply State.elapse_keeps
    | with_reducible apply State.expireHold_keeps | with_reducible apply State.waitAddr_keeps | with_reducible apply Keeps.ite
    | split | fail_if_no_progress with_reducible apply Keeps.upd | intro _

theorem State.retryPending_keeps {base : State} {s : State} (hss : Keeps base s) :
    Keeps base (State.retryPending s) := by
  unfold State.retryPending
  try dsimp only
  repeat' first
    | with_reducible assumption | with_reducible exact Keeps.refl _ | with_reducible refine State.acceptIntent_keeps ?_ (by with_reducible assumption)
    | with_reducible apply Keeps.ite | with_reducible apply Keeps.foldl | split | fail_if_no_progress with_reducible apply Keeps.upd
    | intro _

theorem State.armNow_keeps {base : State} {s : State} {a : ArmSt} {due : Nat} {late : Bool} (hss : Keeps base s) :
    Keeps base (State.armNow s a due late) := by
  unfold State.armNow
  try dsimp only
  repeat' first
    | with_reducible assumption | with_reducible apply State.count_keeps | with_reducible apply State.raise_keeps
    | with_reducible apply State.wrBit_keeps | with_reducible apply Keeps.ite | fail_if_no_progress with_reducible apply Keeps.upd
    | intro _ | split

theorem State.prepareSwap_keeps {base : State} {s : State} {own : List SchedEntry} (hss : Keeps base s) :
    Keeps base (State.prepareSwap s own).1 := by
  unfold State.prepareSwap
  try dsimp only
  repeat' first
    | with_reducible assumption | with_reducible apply State.countBy_keeps | with_reducible apply IoSt.countBy_keeps
    | with_reducible apply State.retryPending_keeps | with_reducible apply Keeps.ite | with_reducible apply Keeps.iteFst
    | intro _ | split

theorem State.prepareSwap_keepsAs {base : State} {s : State} {own : List SchedEntry} (hss : Keeps base s) {t : State} {y : ArmSt}
    (h : State.prepareSwap s own = (t, y)) : Keeps base t := by
  have k : Keeps base (State.prepareSwap s own).1 := State.prepareSwap_keeps hss
  rw [h] at k
  exact k

theorem State.sendPlace_keeps {base : State} {s : State} {a : ArmSt} {own : List SchedEntry} (hss : Keeps base s) :
    Keeps base (State.sendPlace s a own) := by
  unfold State.sendPlace
  try dsimp only
  repeat' first
    | with_reducible assumption | with_reducible apply State.send_keeps | with_reducible apply Keeps.iteFst
    | fail_if_no_progress with_reducible apply Keeps.upd | intro _

theorem execArmSwap_keeps {dt : Nat} {own : List SchedEntry} {s : State}  :
    ∃ s', execArmSwap dt own s = .next s' ∧ Keeps s s' := by
  unfold execArmSwap
  refine ⟨_, rfl, ?_⟩
  try dsimp only
  repeat' first
    | with_reducible assumption | with_reducible exact Keeps.refl _ | with_reducible apply State.armNow_keeps
    | with_reducible apply State.elapse_keeps | with_reducible refine State.prepareSwap_keepsAs ?_ (by with_reducible assumption)
    | with_reducible apply State.prepareSwap_keeps | with_reducible apply State.sendPlace_keeps | with_reducible apply Keeps.ite
    | with_reducible apply Keeps.iteFst | split | fail_if_no_progress with_reducible apply Keeps.upd | intro _

theorem State.dropCtx_keeps {base : State} {s : State} {c : Nat} (hss : Keeps base s) :
    Keeps base (State.dropCtx s c) := by
  unfold State.dropCtx
  try dsimp only
  repeat' first
    | with_reducible assumption | with_reducible exact Keeps.refl _ | with_reducible apply State.dropCipher_keeps
    | with_reducible apply State.dropSlot_keeps | with_reducible apply State.dropTubs_keeps | with_reducible apply State.stopPoint_keeps
    | with_reducible apply Keeps.ite | with_reducible apply Keeps.foldl | split | fail_if_no_progress with_reducible apply Keeps.upd
    | intro _

theorem State.swapWithdraw_keeps {base : State} {s : State} {w : Nat × HostRef} (hss : Keeps base s) :
    Keeps base (State.swapWithdraw s w) := by
  unfold State.swapWithdraw
  try dsimp only
  repeat' first
    | with_reducible assumption | with_reducible exact Keeps.refl _ | with_reducible apply State.done_keeps
    | with_reducible apply State.dropCtx_keeps | with_reducible apply State.raiseC_keeps | with_reducible apply Keeps.foldl
    | with_reducible apply Keeps.foldlFst | with_reducible apply Keeps.iteFst | split | fail_if_no_progress with_reducible apply Keeps.upd
    | intro _

theorem State.swapShed_keeps {base : State} {s : State} {i : Nat} (hss : Keeps base s) :
    Keeps base (State.swapShed s i) := by
  unfold State.swapShed
  try dsimp only
  repeat' first
    | with_reducible assumption | with_reducible exact Keeps.refl _ | with_reducible apply State.dropCtx_keeps
    | with_reducible apply State.shedNow_keeps | with_reducible apply Keeps.foldl | split | fail_if_no_progress with_reducible apply Keeps.upd
    | intro _

theorem State.unstrand_keeps {base : State} {s : State} {i : Nat} (hss : Keeps base s) :
    Keeps base (State.unstrand s i) := by
  unfold State.unstrand
  try dsimp only
  repeat' first
    | with_reducible assumption | with_reducible exact Keeps.refl _ | with_reducible apply Keeps.ite | split
    | fail_if_no_progress with_reducible apply Keeps.upd | intro _

theorem State.swapMove_keeps {base : State} {s : State} {m : Move} (hss : Keeps base s) :
    Keeps base (State.swapMove s m) := by
  unfold State.swapMove
  try dsimp only
  repeat' first
    | with_reducible assumption | with_reducible apply State.count_keeps | with_reducible apply State.raise_keeps
    | with_reducible apply State.unstrand_keeps | with_reducible apply Keeps.ite | split | fail_if_no_progress with_reducible apply Keeps.upd
    | intro _

theorem flowQueue_keeps {base : State} {s : State} {q : Nat} (hss : Keeps base s) :
    Keeps base (flowQueue s q) := by
  unfold flowQueue
  try dsimp only
  repeat' first
    | with_reducible assumption | with_reducible apply State.setQueue_keeps | intro _

theorem State.addCtx_keeps {base : State} {s : State} {c : Nat} (hss : Keeps base s) :
    Keeps base (State.addCtx s c) := by
  unfold State.addCtx
  try dsimp only
  repeat' first
    | with_reducible assumption | with_reducible apply State.draw_keeps | with_reducible apply flowQueue_keeps
    | with_reducible apply State.placeCipher_keeps | with_reducible apply State.pmPlace_keeps | with_reducible apply State.setFramer_keeps
    | with_reducible apply State.startTubs_keeps | with_reducible apply State.trbFollow_keeps | with_reducible apply Keeps.ite
    | split | fail_if_no_progress with_reducible apply Keeps.upd | fail_if_no_progress with_reducible apply Keeps.updCtr
    | intro _

theorem State.addGroup_keeps {base : State} {s : State} {x : IntentSt} (hss : Keeps base s) :
    Keeps base (State.addGroup s x) := by
  unfold State.addGroup
  try dsimp only
  repeat' first
    | with_reducible assumption | with_reducible exact Keeps.refl _ | with_reducible apply State.count_keeps
    | with_reducible apply State.setGroup_keeps | with_reducible apply State.setHitless_keeps | with_reducible apply Keeps.ite
    | split | fail_if_no_progress with_reducible apply Keeps.upd | intro _

theorem State.swapAdd_keeps {base : State} {s : State} {i : Nat} (hss : Keeps base s) :
    Keeps base (State.swapAdd s i) := by
  unfold State.swapAdd
  try dsimp only
  repeat' first
    | with_reducible assumption | with_reducible exact Keeps.refl _ | with_reducible apply State.addCtx_keeps
    | with_reducible apply State.addGroup_keeps | with_reducible apply State.complete_keeps | with_reducible apply State.raise_keeps
    | with_reducible apply State.raiseC_keeps | with_reducible apply Keeps.ite | with_reducible apply Keeps.foldl
    | split | fail_if_no_progress with_reducible apply Keeps.upd | intro _

theorem State.flipBank_keeps {base : State} {s0 : State} {a : ArmSt} (hss0 : Keeps base s0) :
    Keeps base (State.flipBank s0 a) := by
  unfold State.flipBank
  try dsimp only
  repeat' first
    | with_reducible assumption | with_reducible exact Keeps.refl _ | with_reducible apply State.clearOld_keeps
    | with_reducible apply State.raise_keeps | with_reducible apply State.wr_keeps | with_reducible apply IoSt.wr_keeps
    | with_reducible apply State.wrBit_keeps | with_reducible apply Keeps.ite | fail_if_no_progress with_reducible apply Keeps.upd
    | intro _ | split

theorem State.redone_keeps {base : State} {s : State} (hss : Keeps base s) :
    Keeps base (State.redone s) := by
  unfold State.redone
  try dsimp only
  repeat' first
    | with_reducible assumption | with_reducible exact Keeps.refl _ | with_reducible apply Keeps.ite | with_reducible apply Keeps.iteFst
    | fail_if_no_progress with_reducible apply Keeps.upd | intro _ | split

theorem State.doSwap_keeps {base : State} {s : State} {a : ArmSt} (hss : Keeps base s) :
    Keeps base (State.doSwap s a) := by
  unfold State.doSwap
  try dsimp only
  repeat' first
    | with_reducible assumption | with_reducible exact Keeps.refl _ | with_reducible apply State.flipBank_keeps
    | with_reducible apply State.redone_keeps | with_reducible apply State.releaseHeld_keeps | with_reducible apply State.slewCharge_keeps
    | with_reducible apply State.swapAdd_keeps | with_reducible apply State.swapMove_keeps | with_reducible apply State.swapShed_keeps
    | with_reducible apply State.swapWithdraw_keeps | with_reducible apply State.wr_keeps | with_reducible apply IoSt.wr_keeps
    | with_reducible apply Keeps.ite | with_reducible apply Keeps.foldl | with_reducible apply Keeps.foldlFst
    | with_reducible apply Keeps.iteFst | fail_if_no_progress with_reducible apply Keeps.upd | intro _
    | split

theorem State.rejectSwap_keeps {base : State} {s : State} {bankBad : Bool} (hss : Keeps base s) :
    Keeps base (State.rejectSwap s bankBad) := by
  unfold State.rejectSwap
  try dsimp only
  repeat' first
    | with_reducible assumption | with_reducible apply State.raise_keeps | with_reducible apply State.wrBit_keeps
    | fail_if_no_progress with_reducible apply Keeps.upd | intro _

theorem State.swapMismatch_keeps {base : State} {s : State} {bankBad : Bool} {granule stored sum : Nat} (hss : Keeps base s) :
    Keeps base (State.swapMismatch s bankBad granule stored sum) := by
  unfold State.swapMismatch
  try dsimp only
  repeat' first
    | with_reducible assumption | with_reducible apply State.count_keeps | with_reducible apply State.raise_keeps
    | with_reducible apply State.rejectSwap_keeps | intro _

theorem execSchedSwap_keeps {dt : Nat} {bankOk pagesOk : Bool} {granule stored sum : Nat} {s : State}  :
    ∃ s', execSchedSwap dt bankOk pagesOk granule stored sum s = .next s' ∧ Keeps s s' := by
  unfold execSchedSwap
  refine ⟨_, rfl, ?_⟩
  try dsimp only
  repeat' first
    | with_reducible assumption | with_reducible exact Keeps.refl _ | with_reducible refine State.alterCheck_keepsAs ?_ (by with_reducible assumption)
    | with_reducible apply State.alterCheck_keeps | with_reducible apply State.doSwap_keeps | with_reducible apply State.elapse_keeps
    | with_reducible apply State.rejectSwap_keeps | with_reducible apply State.swapMismatch_keeps | with_reducible apply State.waitAddr_keeps
    | with_reducible apply Keeps.ite | with_reducible apply Keeps.iteFst | split | fail_if_no_progress with_reducible apply Keeps.upd
    | intro _

theorem State.ovmRestart_keeps {base : State} {s : State} {bad : List Nat} (hss : Keeps base s) :
    Keeps base (State.ovmRestart s bad) := by
  unfold State.ovmRestart
  try dsimp only
  repeat' first
    | with_reducible assumption | with_reducible exact Keeps.refl _ | with_reducible apply State.count_keeps
    | with_reducible apply State.endMove_keeps | with_reducible apply State.releaseHeld_keeps | with_reducible apply State.takeHewers_keeps
    | with_reducible apply State.wr_keeps | with_reducible apply IoSt.wr_keeps | with_reducible apply Keeps.ite
    | with_reducible apply Keeps.foldl | split | fail_if_no_progress with_reducible apply Keeps.upd | intro _

theorem execOvmRestart_keeps {dt hewer : Nat} {s : State}  :
    ∃ s', execOvmRestart dt hewer s = .next s' ∧ Keeps s s' := by
  unfold execOvmRestart
  refine ⟨_, rfl, ?_⟩
  try dsimp only
  repeat' first
    | with_reducible assumption | with_reducible exact Keeps.refl _ | with_reducible apply State.elapse_keeps
    | with_reducible apply State.ovmRestart_keeps | with_reducible apply Keeps.ite | intro _ | split

end Sys2Proof.Machine
end

