-- ==== Sys2Proof/Laws/KeepsPair.lean ====
section
/-! SUPPORT. What the operations of Machine/Pair.lean keep. -/

set_option Elab.async false

namespace Sys2Proof.Machine

theorem State.parRegs_keeps {base : State} {s : State} (hss : Keeps base s) :
    Keeps base (State.parRegs s) := by
  unfold State.parRegs
  try dsimp only
  repeat' first
    | with_reducible assumption | with_reducible apply State.wr_keeps | with_reducible apply IoSt.wr_keeps
    | with_reducible apply State.wrBit_keeps | intro _

theorem State.ovmFollow_keeps {base : State} {s : State} (hss : Keeps base s) :
    Keeps base (State.ovmFollow s) := by
  unfold State.ovmFollow
  try dsimp only
  repeat' first
    | with_reducible assumption | with_reducible apply State.wr_keeps | with_reducible apply IoSt.wr_keeps
    | with_reducible apply Keeps.ite | intro _ | split

theorem State.setPar_keeps {base : State} {s : State} {v cause : Nat} (hss : Keeps base s) :
    Keeps base (State.setPar s v cause) := by
  unfold State.setPar
  try dsimp only
  repeat' first
    | with_reducible assumption | with_reducible apply State.ovmFollow_keeps | with_reducible apply State.parRegs_keeps
    | with_reducible apply State.raise_keeps | with_reducible apply State.wr_keeps | with_reducible apply IoSt.wr_keeps
    | with_reducible apply State.wrBit_keeps | with_reducible apply Keeps.ite | intro _ | split

theorem State.endTake_keeps {base : State} {s : State} {reason : Nat} (hss : Keeps base s) :
    Keeps base (State.endTake s reason) := by
  unfold State.endTake
  try dsimp only
  repeat' first
    | with_reducible assumption | with_reducible apply State.done_keeps | with_reducible apply State.refuse_keeps
    | with_reducible apply Keeps.ite | split | fail_if_no_progress with_reducible apply Keeps.upd | intro _

theorem State.giveUp_keeps {base : State} {s : State} {cause : Nat} (hss : Keeps base s) :
    Keeps base (State.giveUp s cause) := by
  unfold State.giveUp
  try dsimp only
  repeat' first
    | with_reducible assumption | with_reducible apply State.raise_keeps | with_reducible apply State.send_keeps
    | with_reducible apply State.setPar_keeps | with_reducible apply State.wrBit_keeps | fail_if_no_progress with_reducible apply Keeps.upd
    | intro _

theorem State.dualActive_keeps {base : State} {s : State} (hss : Keeps base s) :
    Keeps base (State.dualActive s) := by
  unfold State.dualActive
  try dsimp only
  repeat' first
    | with_reducible assumption | with_reducible apply State.giveUp_keeps | with_reducible apply State.raise_keeps
    | with_reducible apply Keeps.ite | intro _ | split

theorem State.discardEpoch_keeps {base : State} {s : State} {addr reason : Nat} (hss : Keeps base s) :
    Keeps base (State.discardEpoch s addr reason) := by
  unfold State.discardEpoch
  try dsimp only
  repeat' first
    | with_reducible assumption | with_reducible apply State.count_keeps | with_reducible apply State.parRegs_keeps
    | with_reducible apply State.raise_keeps | with_reducible apply State.send_keeps | with_reducible apply Keeps.ite
    | fail_if_no_progress with_reducible apply Keeps.upd | intro _ | split

theorem State.markGap_keeps {base : State} {s : State} {since : Nat} (hss : Keeps base s) :
    Keeps base (State.markGap s since) := by
  unfold State.markGap
  try dsimp only
  repeat' first
    | with_reducible assumption | with_reducible exact Keeps.refl _ | with_reducible apply Keeps.ite | with_reducible apply Keeps.iteFst
    | fail_if_no_progress with_reducible apply Keeps.upd | intro _ | split

theorem State.becomeActive_keeps {base : State} {s : State} (hss : Keeps base s) :
    Keeps base (State.becomeActive s) := by
  unfold State.becomeActive
  try dsimp only
  repeat' first
    | with_reducible assumption | with_reducible apply State.count_keeps | with_reducible apply State.discardEpoch_keeps
    | with_reducible apply State.endTake_keeps | with_reducible apply State.markGap_keeps | with_reducible apply State.raise_keeps
    | with_reducible apply State.send_keeps | with_reducible apply State.setPar_keeps | with_reducible apply State.wrBit_keeps
    | with_reducible apply Keeps.ite | split | fail_if_no_progress with_reducible apply Keeps.upd | fail_if_no_progress with_reducible apply Keeps.updCtr
    | intro _

theorem State.endDrill_keeps {base : State} {s : State} {result : Nat} {gaveAt : Nat} (hss : Keeps base s) :
    Keeps base (State.endDrill s result gaveAt) := by
  unfold State.endDrill
  try dsimp only
  repeat' first
    | with_reducible assumption | with_reducible apply State.draw_keeps | with_reducible apply State.raise_keeps
    | fail_if_no_progress with_reducible apply Keeps.upd | intro _

theorem State.drillPassed_keeps {base : State} {s : State} {phase gaveAt : Nat} (hss : Keeps base s) :
    Keeps base (State.drillPassed s phase gaveAt) := by
  unfold State.drillPassed
  try dsimp only
  repeat' first
    | with_reducible assumption | with_reducible apply State.endDrill_keeps | with_reducible apply Keeps.ite
    | split | fail_if_no_progress with_reducible apply Keeps.upd | intro _

theorem State.tryActive_keeps {base : State} {s : State} (hss : Keeps base s) :
    Keeps base (State.tryActive s) := by
  unfold State.tryActive
  try dsimp only
  repeat' first
    | with_reducible assumption | with_reducible apply State.becomeActive_keeps | with_reducible apply State.drillPassed_keeps
    | with_reducible apply State.endTake_keeps | with_reducible apply State.setPar_keeps | with_reducible apply Keeps.ite
    | split | fail_if_no_progress with_reducible apply Keeps.upd | intro _

theorem State.enterTaking_keeps {base : State} {s : State} {cause : Nat} {h : Option HostRef} (hss : Keeps base s) :
    Keeps base (State.enterTaking s cause h) := by
  unfold State.enterTaking
  try dsimp only
  repeat' first
    | with_reducible assumption | with_reducible apply State.setPar_keeps | with_reducible apply State.tryActive_keeps
    | fail_if_no_progress with_reducible apply Keeps.upd | intro _

theorem State.tryTake_keeps {base : State} {s : State} (hss : Keeps base s) :
    Keeps base (State.tryTake s) := by
  unfold State.tryTake
  try dsimp only
  repeat' first
    | with_reducible assumption | with_reducible apply State.enterTaking_keeps | with_reducible apply Keeps.ite
    | intro _ | split

theorem State.review_keeps {base : State} {s : State} (hss : Keeps base s) :
    Keeps base (State.review s) := by
  unfold State.review
  try dsimp only
  repeat' first
    | with_reducible assumption | with_reducible apply State.parRegs_keeps | with_reducible apply State.tryActive_keeps
    | with_reducible apply State.tryTake_keeps | intro _

theorem State.selfFault_keeps {base : State} {s : State} {cause : Nat} (hss : Keeps base s) :
    Keeps base (State.selfFault s cause) := by
  unfold State.selfFault
  try dsimp only
  repeat' first
    | with_reducible assumption | with_reducible apply State.giveUp_keeps | with_reducible apply State.parRegs_keeps
    | with_reducible apply State.review_keeps | with_reducible apply Keeps.ite | fail_if_no_progress with_reducible apply Keeps.upd
    | intro _ | split

theorem execStageUnusable_keeps {dt slice stage : Nat} {s : State}  :
    ∃ s', execStageUnusable dt slice stage s = .next s' ∧ Keeps s s' := by
  unfold execStageUnusable
  refine ⟨_, rfl, ?_⟩
  try dsimp only
  repeat' first
    | with_reducible assumption | with_reducible exact Keeps.refl _ | with_reducible apply State.elapse_keeps
    | with_reducible apply State.markUnusable_keeps | with_reducible apply State.selfFault_keeps | intro _

theorem State.hear_keeps {base : State} {s : State} {pins : Bool} (hss : Keeps base s) :
    Keeps base (State.hear s pins) := by
  unfold State.hear
  try dsimp only
  repeat' first
    | with_reducible assumption | with_reducible apply State.endTake_keeps | with_reducible apply State.raise_keeps
    | with_reducible apply State.setPar_keeps | with_reducible apply State.wrBit_keeps | with_reducible apply Keeps.ite
    | fail_if_no_progress with_reducible apply Keeps.upd | intro _ | split

theorem State.hearState_keeps {base : State} {s : State} {v : Nat} (hss : Keeps base s) :
    Keeps base (State.hearState s v) := by
  unfold State.hearState
  try dsimp only
  repeat' first
    | with_reducible assumption | with_reducible apply State.dualActive_keeps | with_reducible apply State.setPar_keeps
    | with_reducible apply Keeps.ite | fail_if_no_progress with_reducible apply Keeps.upd | intro _ | split

theorem State.control_keeps {base : State} {s : State} {typ : Nat} {head : List Nat} {good : Bool} {run : State → State} (hss : Keeps base s) (hrun : ∀ b, Keeps b (run b)) :
    Keeps base (State.control s typ head good run) := by
  unfold State.control
  try dsimp only
  repeat' first
    | with_reducible assumption | with_reducible exact Keeps.refl _ | with_reducible refine Keeps.trans ?_ (hrun _)
    | with_reducible apply State.count_keeps | with_reducible apply State.hear_keeps | with_reducible apply Keeps.ite
    | fail_if_no_progress with_reducible apply Keeps.upd | intro _ | split

theorem State.controlText_keeps {base : State} {s : State} {typ : Nat} {t : MateText} {run : State → State} (hss : Keeps base s) (hrun : ∀ b, Keeps b (run b)) :
    Keeps base (State.controlText s typ t run) := by
  unfold State.controlText
  try dsimp only
  repeat' first
    | with_reducible assumption | with_reducible exact Keeps.refl _ | with_reducible refine Keeps.trans ?_ (hrun _)
    | with_reducible apply State.control_keeps | intro _

theorem State.setMateLane_keeps {base : State} {s : State} {l : Nat} {x : MateLane} (hss : Keeps base s) :
    Keeps base (State.setMateLane s l x) := by
  unfold State.setMateLane
  try dsimp only
  repeat' first
    | with_reducible assumption | fail_if_no_progress with_reducible apply Keeps.upd | intro _

theorem State.setUsable_keeps {base : State} {s : State} {l : Nat} {on : Bool} (hss : Keeps base s) :
    Keeps base (State.setUsable s l on) := by
  unfold State.setUsable
  try dsimp only
  repeat' first
    | with_reducible assumption | with_reducible apply State.raise_keeps | with_reducible apply State.wr_keeps
    | with_reducible apply IoSt.wr_keeps | with_reducible apply Keeps.ite | intro _ | split

theorem State.compareAddr_keeps {base : State} {s : State} {mate mateCycle : Nat} {mateAuth : Bool} (hss : Keeps base s) :
    Keeps base (State.compareAddr s mate mateCycle mateAuth) := by
  unfold State.compareAddr
  try dsimp only
  repeat' first
    | with_reducible assumption | with_reducible apply State.parRegs_keeps | with_reducible apply State.raise_keeps
    | with_reducible apply State.setPar_keeps | with_reducible apply State.wrBit_keeps | with_reducible apply Keeps.ite
    | fail_if_no_progress with_reducible apply Keeps.upd | intro _ | split

theorem State.shaftErr_keeps {base : State} {s : State} {mateCycle : Nat} {sub : Int} (hss : Keeps base s) :
    Keeps base (State.shaftErr s mateCycle sub) := by
  unfold State.shaftErr
  try dsimp only
  repeat' first
    | with_reducible assumption | with_reducible apply State.draw_keeps | with_reducible apply State.wrInt_keeps
    | intro _

theorem State.mateRtt_keeps {base : State} {s : State} {echo ns : Nat} (hss : Keeps base s) :
    Keeps base (State.mateRtt s echo ns) := by
  unfold State.mateRtt
  try dsimp only
  repeat' first
    | with_reducible assumption | with_reducible apply State.draw_keeps | with_reducible apply State.wr_keeps
    | with_reducible apply IoSt.wr_keeps | intro _

theorem State.mateOverhead_keeps {base : State} {s : State} {l : Nat} {f : MateFrame} {sub : Int} (hss : Keeps base s) :
    Keeps base (State.mateOverhead s l f sub) := by
  unfold State.mateOverhead
  try dsimp only
  repeat' first
    | with_reducible assumption | with_reducible apply State.compareAddr_keeps | with_reducible apply State.hearState_keeps
    | with_reducible apply State.mateRtt_keeps | with_reducible apply State.setMateLane_keeps | with_reducible apply State.setUsable_keeps
    | with_reducible apply State.shaftErr_keeps | with_reducible apply Keeps.ite | fail_if_no_progress with_reducible apply Keeps.upd
    | intro _ | split

theorem execMateFrameRx_keeps {dt lane : Nat} {f : MateIn} {s : State}  :
    ∃ s', execMateFrameRx dt lane f s = .next s' ∧ Keeps s s' := by
  unfold execMateFrameRx
  refine ⟨_, rfl, ?_⟩
  try dsimp only
  repeat' first
    | with_reducible assumption | with_reducible exact Keeps.refl _ | with_reducible apply State.elapse_keeps
    | with_reducible apply State.mateOverhead_keeps | with_reducible apply State.setMateLane_keeps | with_reducible apply State.setUsable_keeps
    | with_reducible apply Keeps.ite | fail_if_no_progress with_reducible apply Keeps.upd | intro _ | split

theorem execLaneRoleAssign_keeps {dt : Nat} {s : State}  :
    ∃ s', execLaneRoleAssign dt s = .next s' ∧ Keeps s s' := by
  unfold execLaneRoleAssign
  refine ⟨_, rfl, ?_⟩
  try dsimp only
  repeat' first
    | with_reducible assumption | with_reducible exact Keeps.refl _ | with_reducible apply State.setMateLane_keeps
    | with_reducible apply State.setUsable_keeps | with_reducible apply State.toBoundary_keeps | with_reducible apply State.wr_keeps
    | with_reducible apply IoSt.wr_keeps | with_reducible apply Keeps.ite | with_reducible apply Keeps.foldl
    | with_reducible apply Keeps.foldlFst | with_reducible apply Keeps.iteFst | split | fail_if_no_progress with_reducible apply Keeps.upd
    | intro _

theorem execMateListenEnd_keeps {dt : Nat} {s : State}  :
    ∃ s', execMateListenEnd dt s = .next s' ∧ Keeps s s' := by
  unfold execMateListenEnd
  refine ⟨_, rfl, ?_⟩
  try dsimp only
  repeat' first
    | with_reducible assumption | with_reducible exact Keeps.refl _ | with_reducible apply State.elapse_keeps
    | with_reducible apply State.leaveHalted_keeps | with_reducible apply Keeps.ite | fail_if_no_progress with_reducible apply Keeps.upd
    | intro _ | split

theorem State.leaseRegs_keeps {base : State} {s : State} {c : Nat} (hss : Keeps base s) :
    Keeps base (State.leaseRegs s c) := by
  unfold State.leaseRegs
  try dsimp only
  repeat' first
    | with_reducible assumption | with_reducible apply State.wr_keeps | with_reducible apply IoSt.wr_keeps
    | intro _

theorem State.pinSlot_keeps {base : State} {s : State} (hss : Keeps base s) :
    Keeps base (State.pinSlot s) := by
  unfold State.pinSlot
  try dsimp only
  repeat' first
    | with_reducible assumption | with_reducible apply State.send_keeps | with_reducible apply Keeps.ite
    | split | fail_if_no_progress with_reducible apply Keeps.upd | intro _

theorem execTallyLeaseRenewal_keeps {dt : Nat} {s : State}  :
    ∃ s', execTallyLeaseRenewal dt s = .next s' ∧ Keeps s s' := by
  unfold execTallyLeaseRenewal
  refine ⟨_, rfl, ?_⟩
  try dsimp only
  repeat' first
    | with_reducible assumption | with_reducible exact Keeps.refl _ | with_reducible apply State.atEntry_keeps
    | with_reducible apply State.count_keeps | with_reducible apply State.leaseRegs_keeps | with_reducible apply State.pinSlot_keeps
    | with_reducible apply State.send_keeps | with_reducible apply Keeps.ite | fail_if_no_progress with_reducible apply Keeps.upd
    | intro _ | split

theorem State.takeGrant_keeps {base : State} {s : State} {c : Nat} (hss : Keeps base s) :
    Keeps base (State.takeGrant s c) := by
  unfold State.takeGrant
  try dsimp only
  repeat' first
    | with_reducible assumption | with_reducible apply State.leaseRegs_keeps | with_reducible apply State.setPar_keeps
    | with_reducible apply State.wrBit_keeps | with_reducible apply Keeps.ite | fail_if_no_progress with_reducible apply Keeps.upd
    | intro _ | split

theorem State.takeSurrender_keeps {base : State} {s : State} {cause addr : Nat} (hss : Keeps base s) :
    Keeps base (State.takeSurrender s cause addr) := by
  unfold State.takeSurrender
  try dsimp only
  repeat' first
    | with_reducible assumption | with_reducible apply State.raiseIf_keeps | with_reducible apply State.tryTake_keeps
    | fail_if_no_progress with_reducible apply Keeps.upd | intro _

theorem State.takeClaim_keeps {base : State} {s : State} {nonce : Option Nat} (hss : Keeps base s) :
    Keeps base (State.takeClaim s nonce) := by
  unfold State.takeClaim
  try dsimp only
  repeat' first
    | with_reducible assumption | with_reducible apply State.drillPassed_keeps | with_reducible apply State.dualActive_keeps
    | with_reducible apply State.endDrill_keeps | with_reducible apply State.endTake_keeps | with_reducible apply State.setPar_keeps
    | with_reducible apply Keeps.ite | split | fail_if_no_progress with_reducible apply Keeps.upd | intro _

theorem execGrant_keeps {dt : Nat} {t : MateText} {s : State}  :
    ∃ s', execGrant dt t s = .next s' ∧ Keeps s s' := by
  unfold execGrant
  refine ⟨_, rfl, ?_⟩
  try dsimp only
  repeat' first
    | with_reducible assumption | with_reducible exact Keeps.refl _ | with_reducible apply State.controlText_keeps
    | with_reducible apply State.elapse_keeps | with_reducible apply State.takeGrant_keeps | intro _

theorem execAck_keeps {dt : Nat} {t : MateText} {s : State}  :
    ∃ s', execAck dt t s = .next s' ∧ Keeps s s' := by
  unfold execAck
  refine ⟨_, rfl, ?_⟩
  try dsimp only
  repeat' first
    | with_reducible assumption | with_reducible exact Keeps.refl _ | with_reducible apply State.controlText_keeps
    | with_reducible apply State.elapse_keeps | with_reducible apply State.hearState_keeps | intro _

theorem State.takePinWord_keeps {base : State} {s : State} {kind cause low : Nat} (hss : Keeps base s) :
    Keeps base (State.takePinWord s kind cause low) := by
  unfold State.takePinWord
  try dsimp only
  repeat' first
    | with_reducible assumption | with_reducible apply State.hear_keeps | with_reducible apply State.hearState_keeps
    | with_reducible apply State.takeClaim_keeps | with_reducible apply State.takeGrant_keeps | with_reducible apply State.takeSurrender_keeps
    | with_reducible apply Keeps.ite | split | fail_if_no_progress with_reducible apply Keeps.upd | intro _

theorem execTallyInWord_keeps {dt : Nat} {chips : List Bool} {s : State}  :
    ∃ s', execTallyInWord dt chips s = .next s' ∧ Keeps s s' := by
  unfold execTallyInWord
  refine ⟨_, rfl, ?_⟩
  try dsimp only
  repeat' first
    | with_reducible assumption | with_reducible exact Keeps.refl _ | with_reducible apply State.elapse_keeps
    | with_reducible apply State.takePinWord_keeps | with_reducible apply Keeps.ite | split | fail_if_no_progress with_reducible apply Keeps.upd
    | intro _

theorem execSurrender_keeps {dt : Nat} {t : MateText} {s : State}  :
    ∃ s', execSurrender dt t s = .next s' ∧ Keeps s s' := by
  unfold execSurrender
  refine ⟨_, rfl, ?_⟩
  try dsimp only
  repeat' first
    | with_reducible assumption | with_reducible exact Keeps.refl _ | with_reducible apply State.controlText_keeps
    | with_reducible apply State.elapse_keeps | with_reducible apply State.takeSurrender_keeps | intro _

theorem execClaim_keeps {dt : Nat} {t : MateText} {s : State}  :
    ∃ s', execClaim dt t s = .next s' ∧ Keeps s s' := by
  unfold execClaim
  refine ⟨_, rfl, ?_⟩
  try dsimp only
  repeat' first
    | with_reducible assumption | with_reducible exact Keeps.refl _ | with_reducible apply State.controlText_keeps
    | with_reducible apply State.elapse_keeps | with_reducible apply State.takeClaim_keeps | intro _

theorem execParOrphan_keeps {dt : Nat} {s : State}  :
    ∃ s', execParOrphan dt s = .next s' ∧ Keeps s s' := by
  unfold execParOrphan
  refine ⟨_, rfl, ?_⟩
  try dsimp only
  repeat' first
    | with_reducible assumption | with_reducible exact Keeps.refl _ | with_reducible apply State.elapse_keeps
    | with_reducible apply State.raise_keeps | with_reducible apply State.setPar_keeps | with_reducible apply State.waitAddr_keeps
    | with_reducible apply State.wrBit_keeps | with_reducible apply Keeps.ite | split | fail_if_no_progress with_reducible apply Keeps.upd
    | intro _

theorem execLeaseViewExpiry_keeps {dt : Nat} {s : State}  :
    ∃ s', execLeaseViewExpiry dt s = .next s' ∧ Keeps s s' := by
  unfold execLeaseViewExpiry
  refine ⟨_, rfl, ?_⟩
  try dsimp only
  repeat' first
    | with_reducible assumption | with_reducible exact Keeps.refl _ | with_reducible apply State.elapse_keeps
    | with_reducible apply State.tryActive_keeps | with_reducible apply State.waitAddr_keeps | with_reducible apply Keeps.ite
    | split | fail_if_no_progress with_reducible apply Keeps.upd | intro _

theorem State.tryAuto_keeps {base : State} {s : State} (hss : Keeps base s) :
    Keeps base (State.tryAuto s) := by
  unfold State.tryAuto
  try dsimp only
  repeat' first
    | with_reducible assumption | with_reducible apply State.enterTaking_keeps | with_reducible apply Keeps.ite
    | intro _ | split

theorem execParPath_keeps {dt : Nat} {s : State}  :
    ∃ s', execParPath dt s = .next s' ∧ Keeps s s' := by
  unfold execParPath
  refine ⟨_, rfl, ?_⟩
  try dsimp only
  repeat' first
    | with_reducible assumption | with_reducible exact Keeps.refl _ | with_reducible apply State.elapse_keeps
    | with_reducible apply State.raise_keeps | with_reducible apply State.tryAuto_keeps | with_reducible apply State.wrBit_keeps
    | with_reducible apply Keeps.ite | split | fail_if_no_progress with_reducible apply Keeps.upd | intro _

theorem State.compareCrc_keeps {base : State} {s : State} {crc : Nat} (hss : Keeps base s) :
    Keeps base (State.compareCrc s crc) := by
  unfold State.compareCrc
  try dsimp only
  repeat' first
    | with_reducible assumption | with_reducible apply State.raise_keeps | with_reducible apply State.setPar_keeps
    | with_reducible apply State.wrBit_keeps | with_reducible apply Keeps.ite | intro _ | split

theorem State.tryStandby_keeps {base : State} {s : State} (hss : Keeps base s) :
    Keeps base (State.tryStandby s) := by
  unfold State.tryStandby
  try dsimp only
  repeat' first
    | with_reducible assumption | with_reducible apply State.review_keeps | with_reducible apply State.setPar_keeps
    | with_reducible apply Keeps.ite | intro _ | split

theorem State.takeStages_keeps {base : State} {s : State} {v : Nat} (hss : Keeps base s) :
    Keeps base (State.takeStages s v) := by
  unfold State.takeStages
  try dsimp only
  repeat' first
    | with_reducible assumption | with_reducible exact Keeps.refl _ | with_reducible apply State.markUnusable_keeps
    | with_reducible apply Keeps.ite | with_reducible apply Keeps.foldl | fail_if_no_progress with_reducible apply Keeps.upd
    | intro _ | split

theorem State.judgeCanary_keeps {base : State} {s : State} (hss : Keeps base s) :
    Keeps base (State.judgeCanary s) := by
  unfold State.judgeCanary
  try dsimp only
  repeat' first
    | with_reducible assumption | with_reducible apply State.raiseIf_keeps | with_reducible apply State.review_keeps
    | with_reducible apply State.wr_keeps | with_reducible apply IoSt.wr_keeps | with_reducible apply Keeps.ite
    | with_reducible apply Keeps.iteFst | fail_if_no_progress with_reducible apply Keeps.upd | intro _
    | split

theorem State.takeHealth_keeps {base : State} {a : State} {p : HealthMsg} (hsa : Keeps base a) :
    Keeps base (State.takeHealth a p) := by
  unfold State.takeHealth
  try dsimp only
  repeat' first
    | with_reducible assumption | with_reducible apply State.compareCrc_keeps | with_reducible refine State.doEpochFlip_keepsAs ?_ (by with_reducible assumption)
    | with_reducible apply State.doEpochFlip_keeps | with_reducible apply State.judgeCanary_keeps | with_reducible apply State.takeStages_keeps
    | with_reducible apply State.tryStandby_keeps | with_reducible apply Keeps.ite | with_reducible apply Keeps.iteFst
    | fail_if_no_progress with_reducible apply Keeps.upd | intro _ | split

theorem execHealth_keeps {dt : Nat} {t : MateText} {s : State}  :
    ∃ s', execHealth dt t s = .next s' ∧ Keeps s s' := by
  unfold execHealth
  refine ⟨_, rfl, ?_⟩
  try dsimp only
  repeat' first
    | with_reducible assumption | with_reducible exact Keeps.refl _ | with_reducible apply State.controlText_keeps
    | with_reducible apply State.elapse_keeps | with_reducible apply State.takeHealth_keeps | intro _

theorem execHealthReport_keeps {dt : Nat} {s : State}  :
    ∃ s', execHealthReport dt s = .next s' ∧ Keeps s s' := by
  unfold execHealthReport
  refine ⟨_, rfl, ?_⟩
  try dsimp only
  repeat' first
    | with_reducible assumption | with_reducible exact Keeps.refl _ | with_reducible apply State.judgeCanary_keeps
    | with_reducible apply State.send_keeps | with_reducible apply State.toBoundary_keeps | with_reducible apply Keeps.ite
    | fail_if_no_progress with_reducible apply Keeps.upd | intro _ | split

theorem execCanaryBist_keeps {dt : Nat} {unit : BistUnit} {failed rotationEnd : Bool} {s : State}  :
    ∃ s', execCanaryBist dt unit failed rotationEnd s = .next s' ∧ Keeps s s' := by
  unfold execCanaryBist
  refine ⟨_, rfl, ?_⟩
  try dsimp only
  repeat' first
    | with_reducible assumption | with_reducible exact Keeps.refl _ | with_reducible apply State.countBy_keeps
    | with_reducible apply IoSt.countBy_keeps | with_reducible apply State.judgeCanary_keeps | with_reducible apply State.untilTime_keeps
    | with_reducible apply Keeps.ite | fail_if_no_progress with_reducible apply Keeps.upd | intro _ | split

theorem execForward_keeps {dt : Nat} {m : MsgHead} {f : Fwd} {stored : Bool} {s : State}  :
    ∃ s', execForward dt m f stored s = .next s' ∧ Keeps s s' := by
  unfold execForward
  refine ⟨_, rfl, ?_⟩
  try dsimp only
  repeat' first
    | with_reducible assumption | with_reducible exact Keeps.refl _ | with_reducible apply State.control_keeps
    | with_reducible refine State.doEpochFlip_keepsAs ?_ (by with_reducible assumption) | with_reducible apply State.doEpochFlip_keeps
    | with_reducible refine State.doKeyErase_keepsAs ?_ (by with_reducible assumption) | with_reducible apply State.doKeyErase_keeps
    | with_reducible refine State.doRootLoad_keepsAs ?_ (by with_reducible assumption) | with_reducible apply State.doRootLoad_keeps
    | with_reducible refine State.doWrapLoad_keepsAs ?_ (by with_reducible assumption) | with_reducible apply State.doWrapLoad_keeps
    | with_reducible apply State.elapse_keeps | with_reducible apply State.loadStep_keeps | with_reducible apply State.restoreIntent_keeps
    | with_reducible apply Keeps.ite | with_reducible apply Keeps.iteFst | split | fail_if_no_progress with_reducible apply Keeps.upd
    | intro _

theorem State.takePlaced_keeps {base : State} {s : State} {p : PlacedIntent} (hss : Keeps base s) :
    Keeps base (State.takePlaced s p) := by
  unfold State.takePlaced
  try dsimp only
  repeat' first
    | with_reducible assumption | with_reducible exact Keeps.refl _ | with_reducible apply Keeps.foldl
    | fail_if_no_progress with_reducible apply Keeps.upd | intro _

theorem State.takePlace_keeps {base : State} {a : State} {p : PlaceMsg} (hsa : Keeps base a) :
    Keeps base (State.takePlace a p) := by
  unfold State.takePlace
  try dsimp only
  repeat' first
    | with_reducible assumption | with_reducible exact Keeps.refl _ | with_reducible apply State.armNow_keeps
    | with_reducible apply State.send_keeps | with_reducible apply State.setPar_keeps | with_reducible apply State.takePlaced_keeps
    | with_reducible apply Keeps.ite | with_reducible apply Keeps.foldl | with_reducible apply Keeps.foldlFst
    | with_reducible apply Keeps.iteFst | fail_if_no_progress with_reducible apply Keeps.upd | intro _
    | split

theorem State.takeGates_keeps {base : State} {a : State} {l : List GateEntry} (hsa : Keeps base a) :
    Keeps base (State.takeGates a l) := by
  unfold State.takeGates
  try dsimp only
  repeat' first
    | with_reducible assumption | with_reducible exact Keeps.refl _ | with_reducible apply Keeps.ite | with_reducible apply Keeps.foldl
    | fail_if_no_progress with_reducible apply Keeps.upd | intro _ | split

theorem State.takeStateData_keeps {base : State} {a : State} {sent : Nat} {b : BulkMsg} (hsa : Keeps base a) :
    Keeps base (State.takeStateData a sent b) := by
  unfold State.takeStateData
  try dsimp only
  repeat' first
    | with_reducible assumption | with_reducible apply State.bulkResult_keeps | with_reducible apply State.discardEpoch_keeps
    | with_reducible apply Keeps.ite | fail_if_no_progress with_reducible apply Keeps.upd | intro _ | split

theorem State.runData_keeps {base : State} {s : State} {m : DataMsg} (hss : Keeps base s) : Keeps base (State.runData s m) := by
  cases m <;> unfold State.runData <;> dsimp only
  · exact State.takePlace_keeps hss
  · exact State.takeGates_keeps hss
  · exact State.takeStateData_keeps hss

theorem State.drainData_keeps {base : State} {n : Nat} : ∀ {s : State}, Keeps base s → Keeps base (State.drainData n s) := by
  induction n with
  | zero => intro s hss; exact hss
  | succ n ih =>
    intro s hss
    unfold State.drainData
    dsimp only
    split
    · exact hss
    · exact ih (State.runData_keeps (Keeps.upd hss))

theorem State.orderData_keeps {base : State} {s : State} {q : Nat} {m : DataMsg} (hss : Keeps base s) :
    Keeps base (State.orderData s q m) := by
  unfold State.orderData
  try dsimp only
  repeat' first
    | with_reducible assumption | with_reducible exact Keeps.refl _ | with_reducible apply State.drainData_keeps
    | with_reducible apply Keeps.ite | with_reducible apply Keeps.foldl | with_reducible apply Keeps.foldlFst
    | with_reducible apply Keeps.iteFst | fail_if_no_progress with_reducible apply Keeps.upd | intro _
    | split

theorem State.dataMsg_keeps {base : State} {s : State} {typ : Nat} {head : List Nat} {good : Bool} {m : DataMsg} (hss : Keeps base s) :
    Keeps base (State.dataMsg s typ head good m) := by
  unfold State.dataMsg
  try dsimp only
  repeat' first
    | with_reducible assumption | with_reducible apply State.count_keeps | with_reducible apply State.orderData_keeps
    | with_reducible apply Keeps.ite | intro _ | split

theorem execPlace_keeps {dt : Nat} {m : MsgHead} {p : PlaceMsg} {s : State}  :
    ∃ s', execPlace dt m p s = .next s' ∧ Keeps s s' := by
  unfold execPlace
  refine ⟨_, rfl, ?_⟩
  try dsimp only
  repeat' first
    | with_reducible assumption | with_reducible exact Keeps.refl _ | with_reducible apply State.dataMsg_keeps
    | with_reducible apply State.elapse_keeps | intro _

theorem execPlaceAck_keeps {dt : Nat} {m : MsgHead} {cycle crc : Nat} {s : State}  :
    ∃ s', execPlaceAck dt m cycle crc s = .next s' ∧ Keeps s s' := by
  unfold execPlaceAck
  refine ⟨_, rfl, ?_⟩
  try dsimp only
  repeat' first
    | with_reducible assumption | with_reducible exact Keeps.refl _ | with_reducible apply State.armNow_keeps
    | with_reducible apply State.control_keeps | with_reducible apply State.elapse_keeps | with_reducible apply State.sendPlace_keeps
    | with_reducible apply Keeps.ite | with_reducible apply Keeps.iteFst | split | fail_if_no_progress with_reducible apply Keeps.upd
    | intro _

theorem execCtrlImage_keeps {dt : Nat} {m : MsgHead} {l : List ImageEntry} {s : State}  :
    ∃ s', execCtrlImage dt m l s = .next s' ∧ Keeps s s' := by
  unfold execCtrlImage
  refine ⟨_, rfl, ?_⟩
  try dsimp only
  repeat' first
    | with_reducible assumption | with_reducible exact Keeps.refl _ | with_reducible apply State.control_keeps
    | with_reducible apply State.elapse_keeps | with_reducible apply State.setGroup_keeps | with_reducible apply Keeps.ite
    | with_reducible apply Keeps.foldl | split | fail_if_no_progress with_reducible apply Keeps.upd | intro _

theorem execGate_keeps {dt : Nat} {t : MateText} {s : State}  :
    ∃ s', execGate dt t s = .next s' ∧ Keeps s s' := by
  unfold execGate
  refine ⟨_, rfl, ?_⟩
  try dsimp only
  repeat' first
    | with_reducible assumption | with_reducible exact Keeps.refl _ | with_reducible apply State.dataMsg_keeps
    | with_reducible apply State.elapse_keeps | intro _

theorem State.takeDecision_keeps {base : State} {s : State} {c d : Nat} (hss : Keeps base s) :
    Keeps base (State.takeDecision s c d) := by
  unfold State.takeDecision
  try dsimp only
  repeat' first
    | with_reducible assumption | with_reducible apply Keeps.ite | with_reducible apply Keeps.iteFst | split
    | fail_if_no_progress with_reducible apply Keeps.upd | intro _

theorem execParGateMiss_keeps {dt ctx frame : Nat} {s : State}  :
    ∃ s', execParGateMiss dt ctx frame s = .next s' ∧ Keeps s s' := by
  unfold execParGateMiss
  refine ⟨_, rfl, ?_⟩
  try dsimp only
  repeat' first
    | with_reducible assumption | with_reducible exact Keeps.refl _ | with_reducible apply State.count_keeps
    | with_reducible apply State.draw_keeps | with_reducible apply State.elapse_keeps | with_reducible apply State.raiseOnce_keeps
    | with_reducible apply State.send_keeps | with_reducible apply State.takeDecision_keeps | with_reducible apply Keeps.ite
    | split | fail_if_no_progress with_reducible apply Keeps.upd | fail_if_no_progress with_reducible apply Keeps.updCtr
    | intro _

theorem State.epochRegs_keeps {base : State} {s : State} {a : Nat} (hss : Keeps base s) :
    Keeps base (State.epochRegs s a) := by
  unfold State.epochRegs
  try dsimp only
  repeat' first
    | with_reducible assumption | with_reducible apply State.wr_keeps | with_reducible apply IoSt.wr_keeps
    | fail_if_no_progress with_reducible apply Keeps.upd | intro _

theorem execStateCopyEpoch_keeps {dt : Nat} {s : State}  :
    ∃ s', execStateCopyEpoch dt s = .next s' ∧ Keeps s s' := by
  unfold execStateCopyEpoch
  refine ⟨_, rfl, ?_⟩
  try dsimp only
  repeat' first
    | with_reducible assumption | with_reducible exact Keeps.refl _ | with_reducible apply State.atEntry_keeps
    | with_reducible apply State.epochRegs_keeps | with_reducible apply State.send_keeps | with_reducible apply Keeps.ite
    | split | fail_if_no_progress with_reducible apply Keeps.upd | intro _

theorem execStateData_keeps {dt : Nat} {t : MateText} {s : State}  :
    ∃ s', execStateData dt t s = .next s' ∧ Keeps s s' := by
  unfold execStateData
  refine ⟨_, rfl, ?_⟩
  try dsimp only
  repeat' first
    | with_reducible assumption | with_reducible exact Keeps.refl _ | with_reducible apply State.dataMsg_keeps
    | with_reducible apply State.elapse_keeps | intro _

theorem State.copyPoint_keeps {base : State} {s : State} {c : PointCopy} (hss : Keeps base s) :
    Keeps base (State.copyPoint s c) := by
  unfold State.copyPoint
  try dsimp only
  repeat' first
    | with_reducible assumption | with_reducible apply State.setPoint_keeps | fail_if_no_progress with_reducible apply Keeps.upd
    | intro _

theorem State.copyGroup_keeps {base : State} {s : State} {c : GroupCopy} (hss : Keeps base s) :
    Keeps base (State.copyGroup s c) := by
  unfold State.copyGroup
  try dsimp only
  repeat' first
    | with_reducible assumption | with_reducible exact Keeps.refl _ | with_reducible apply State.command_keeps
    | with_reducible apply State.setGroup_keeps | split | fail_if_no_progress with_reducible apply Keeps.upd
    | intro _

theorem State.copyCtx_keeps {base : State} {s : State} {i : Nat} {p : PlacedCtx} (hss : Keeps base s) :
    Keeps base (State.copyCtx s i p) := by
  unfold State.copyCtx
  try dsimp only
  repeat' first
    | with_reducible assumption | with_reducible apply State.draw_keeps | with_reducible apply flowQueue_keeps
    | with_reducible apply State.placeCipher_keeps | with_reducible apply State.pmPlace_keeps | with_reducible apply State.setFramer_keeps
    | with_reducible apply Keeps.ite | split | fail_if_no_progress with_reducible apply Keeps.upd | intro _

theorem State.copyIntent_keeps {base : State} {s : State} {p : PlacedIntent} (hss : Keeps base s) :
    Keeps base (State.copyIntent s p) := by
  unfold State.copyIntent
  try dsimp only
  repeat' first
    | with_reducible assumption | with_reducible exact Keeps.refl _ | with_reducible apply State.addGroup_keeps
    | with_reducible apply State.copyCtx_keeps | with_reducible apply Keeps.ite | with_reducible apply Keeps.foldl
    | fail_if_no_progress with_reducible apply Keeps.upd | intro _ | split

theorem State.copyDefect_keeps {base : State} {s : State} {c : DefectCopy} (hss : Keeps base s) :
    Keeps base (State.copyDefect s c) := by
  unfold State.copyDefect
  try dsimp only
  repeat' first
    | with_reducible assumption | with_reducible exact Keeps.refl _ | with_reducible apply State.setFramer_keeps
    | with_reducible apply Keeps.ite | with_reducible apply Keeps.foldl | with_reducible apply Keeps.foldlFst
    | with_reducible apply Keeps.iteFst | fail_if_no_progress with_reducible apply Keeps.upd | intro _
    | split

theorem State.copySlot_keeps {base : State} {s : State} {c : SlotCopy} (hss : Keeps base s) :
    Keeps base (State.copySlot s c) := by
  unfold State.copySlot
  try dsimp only
  repeat' first
    | with_reducible assumption | with_reducible exact Keeps.refl _ | with_reducible apply State.setSlot_keeps
    | fail_if_no_progress with_reducible apply Keeps.upd | intro _

theorem State.copyEpoch_keeps {base : State} {s : State} {c : EpochCopy} (hss : Keeps base s) :
    Keeps base (State.copyEpoch s c) := by
  unfold State.copyEpoch
  try dsimp only
  repeat' first
    | with_reducible assumption | with_reducible apply State.send_keeps | with_reducible apply State.setCip_keeps
    | with_reducible apply Keeps.ite | split | fail_if_no_progress with_reducible apply Keeps.upd | intro _

theorem State.applySnapshot_keeps {base : State} {s : State} {stamp : Nat} {full : Bool} {n : Snapshot} (hss : Keeps base s) :
    Keeps base (State.applySnapshot s stamp full n) := by
  unfold State.applySnapshot
  try dsimp only
  repeat' first
    | with_reducible assumption | with_reducible exact Keeps.refl _ | with_reducible apply State.copyDefect_keeps
    | with_reducible apply State.copyEpoch_keeps | with_reducible apply State.copyGroup_keeps | with_reducible apply State.copyIntent_keeps
    | with_reducible apply State.copyPoint_keeps | with_reducible apply State.copySlot_keeps | with_reducible apply State.dropCtx_keeps
    | with_reducible apply State.setTod_keeps | with_reducible apply Keeps.ite | with_reducible apply Keeps.foldl
    | with_reducible apply Keeps.foldlFst | with_reducible apply Keeps.iteFst | intro _ | split

theorem State.drillMissed_keeps {base : State} {s : State} {stamp : Nat} (hss : Keeps base s) :
    Keeps base (State.drillMissed s stamp) := by
  unfold State.drillMissed
  try dsimp only
  repeat' first
    | with_reducible assumption | with_reducible apply State.endDrill_keeps | with_reducible apply Keeps.ite
    | split | fail_if_no_progress with_reducible apply Keeps.upd | intro _

theorem State.takeCommit_keeps {base : State} {a0 : State} {b : BulkMsg} {snap : Snapshot} (hsa0 : Keeps base a0) :
    Keeps base (State.takeCommit a0 b snap) := by
  unfold State.takeCommit
  try dsimp only
  repeat' first
    | with_reducible assumption | with_reducible refine State.alterCheck_keepsAs ?_ (by with_reducible assumption)
    | with_reducible apply State.alterCheck_keeps | with_reducible apply State.applySnapshot_keeps | with_reducible apply State.count_keeps
    | with_reducible apply State.discardEpoch_keeps | with_reducible apply State.drillMissed_keeps | with_reducible apply State.epochRegs_keeps
    | with_reducible apply State.review_keeps | with_reducible apply State.send_keeps | with_reducible apply State.tryStandby_keeps
    | with_reducible apply State.waitAddr_keeps | with_reducible apply Keeps.ite | with_reducible apply Keeps.iteFst
    | split | fail_if_no_progress with_reducible apply Keeps.upd | intro _

theorem execStateCommit_keeps {dt : Nat} {t : MateText} {snap : Snapshot} {s : State}  :
    ∃ s', execStateCommit dt t snap s = .next s' ∧ Keeps s s' := by
  unfold execStateCommit
  refine ⟨_, rfl, ?_⟩
  try dsimp only
  repeat' first
    | with_reducible assumption | with_reducible exact Keeps.refl _ | with_reducible apply State.controlText_keeps
    | with_reducible apply State.elapse_keeps | with_reducible apply State.takeCommit_keeps | intro _

theorem execStateCommitDeadline_keeps {dt : Nat} {s : State}  :
    ∃ s', execStateCommitDeadline dt s = .next s' ∧ Keeps s s' := by
  unfold execStateCommitDeadline
  refine ⟨_, rfl, ?_⟩
  try dsimp only
  repeat' first
    | with_reducible assumption | with_reducible exact Keeps.refl _ | with_reducible apply State.discardEpoch_keeps
    | with_reducible apply State.elapse_keeps | with_reducible apply State.waitAddr_keeps | with_reducible apply Keeps.ite
    | split | fail_if_no_progress with_reducible apply Keeps.upd | intro _

theorem State.takeAck_keeps {base : State} {a : State} {stamp verdict : Nat} (hsa : Keeps base a) :
    Keeps base (State.takeAck a stamp verdict) := by
  unfold State.takeAck
  try dsimp only
  repeat' first
    | with_reducible assumption | with_reducible apply State.giveUp_keeps | with_reducible apply Keeps.ite
    | split | fail_if_no_progress with_reducible apply Keeps.upd | intro _

theorem execStateAck_keeps {dt : Nat} {t : MateText} {s : State}  :
    ∃ s', execStateAck dt t s = .next s' ∧ Keeps s s' := by
  unfold execStateAck
  refine ⟨_, rfl, ?_⟩
  try dsimp only
  repeat' first
    | with_reducible assumption | with_reducible exact Keeps.refl _ | with_reducible apply State.controlText_keeps
    | with_reducible apply State.elapse_keeps | with_reducible apply State.takeAck_keeps | intro _

theorem execDrill_keeps {dt : Nat} {m : MsgHead} {options cycle : Nat} {s : State}  :
    ∃ s', execDrill dt m options cycle s = .next s' ∧ Keeps s s' := by
  unfold execDrill
  refine ⟨_, rfl, ?_⟩
  try dsimp only
  repeat' first
    | with_reducible assumption | with_reducible exact Keeps.refl _ | with_reducible apply State.control_keeps
    | with_reducible apply State.elapse_keeps | fail_if_no_progress with_reducible apply Keeps.upd | intro _

theorem execDrillAckTimeout_keeps {dt : Nat} {s : State}  :
    ∃ s', execDrillAckTimeout dt s = .next s' ∧ Keeps s s' := by
  unfold execDrillAckTimeout
  refine ⟨_, rfl, ?_⟩
  try dsimp only
  repeat' first
    | with_reducible assumption | with_reducible exact Keeps.refl _ | with_reducible apply State.elapse_keeps
    | with_reducible apply State.endDrill_keeps | with_reducible apply State.waitAddr_keeps | with_reducible apply Keeps.ite
    | split | fail_if_no_progress with_reducible apply Keeps.upd | intro _

theorem execDrillClaimTimeout_keeps {dt : Nat} {s : State}  :
    ∃ s', execDrillClaimTimeout dt s = .next s' ∧ Keeps s s' := by
  unfold execDrillClaimTimeout
  refine ⟨_, rfl, ?_⟩
  try dsimp only
  repeat' first
    | with_reducible assumption | with_reducible exact Keeps.refl _ | with_reducible apply State.elapse_keeps
    | with_reducible apply State.endDrill_keeps | with_reducible apply State.enterTaking_keeps | with_reducible apply Keeps.ite
    | split | fail_if_no_progress with_reducible apply Keeps.upd | intro _

theorem execParTake_keeps {dt : Nat} {h : HostRef} {s : State}  :
    ∃ s', execParTake dt h s = .next s' ∧ Keeps s s' := by
  unfold execParTake
  refine ⟨_, rfl, ?_⟩
  try dsimp only
  repeat' first
    | with_reducible assumption | with_reducible exact Keeps.refl _ | with_reducible apply State.command_keeps
    | with_reducible apply State.enterTaking_keeps | with_reducible apply State.refuse_keeps | with_reducible apply Keeps.ite
    | intro _ | split

theorem execParSurrender_keeps {dt : Nat} {h : HostRef} {s : State}  :
    ∃ s', execParSurrender dt h s = .next s' ∧ Keeps s s' := by
  unfold execParSurrender
  refine ⟨_, rfl, ?_⟩
  try dsimp only
  repeat' first
    | with_reducible assumption | with_reducible exact Keeps.refl _ | with_reducible apply State.command_keeps
    | with_reducible apply State.done_keeps | with_reducible apply State.giveUp_keeps | with_reducible apply State.refuse_keeps
    | with_reducible apply Keeps.ite | intro _ | split

theorem execParDrill_keeps {dt : Nat} {h : HostRef} {options : Nat} {s : State}  :
    ∃ s', execParDrill dt h options s = .next s' ∧ Keeps s s' := by
  unfold execParDrill
  refine ⟨_, rfl, ?_⟩
  try dsimp only
  repeat' first
    | with_reducible assumption | with_reducible exact Keeps.refl _ | with_reducible apply State.command_keeps
    | with_reducible apply State.done_keeps | with_reducible apply State.refuse_keeps | with_reducible apply State.send_keeps
    | with_reducible apply Keeps.ite | fail_if_no_progress with_reducible apply Keeps.upd | intro _ | split

theorem execParClearFault_keeps {dt : Nat} {h : HostRef} {s : State}  :
    ∃ s', execParClearFault dt h s = .next s' ∧ Keeps s s' := by
  unfold execParClearFault
  refine ⟨_, rfl, ?_⟩
  try dsimp only
  repeat' first
    | with_reducible assumption | with_reducible exact Keeps.refl _ | with_reducible apply State.command_keeps
    | with_reducible apply State.done_keeps | with_reducible apply State.parRegs_keeps | with_reducible apply State.refuse_keeps
    | with_reducible apply State.review_keeps | with_reducible apply Keeps.ite | fail_if_no_progress with_reducible apply Keeps.upd
    | intro _ | split

end Sys2Proof.Machine
end

