-- ==== Sys2Proof/Laws/KeepsEnergy.lean ====
section
/-! SUPPORT. What the operations of Machine/Energy.lean keep. -/

set_option Elab.async false

namespace Sys2Proof.Machine

theorem State.ledgerReg_keeps {base : State} {s : State} (hss : Keeps base s) :
    Keeps base (State.ledgerReg s) := by
  unfold State.ledgerReg
  try dsimp only
  repeat' first
    | with_reducible assumption | with_reducible apply State.draw_keeps | with_reducible apply State.wr_keeps
    | with_reducible apply IoSt.wr_keeps | intro _

theorem State.chargeLedger_keeps {base : State} {s : State} {p : Nat} (hss : Keeps base s) :
    Keeps base (State.chargeLedger s p) := by
  unfold State.chargeLedger
  try dsimp only
  repeat' first
    | with_reducible assumption | with_reducible apply State.ledgerReg_keeps | with_reducible apply Keeps.ite
    | fail_if_no_progress with_reducible apply Keeps.upd | intro _ | split

theorem State.setRail_keeps {base : State} {s : State} {r mv p : Nat} (hss : Keeps base s) :
    Keeps base (State.setRail s r mv p) := by
  unfold State.setRail
  try dsimp only
  repeat' first
    | with_reducible assumption | with_reducible apply State.wr_keeps | with_reducible apply IoSt.wr_keeps
    | intro _

theorem execDevPowerUpdate_keeps {dt : Nat} {rails : List (Nat × Nat)} {s : State}  :
    ∃ s', execDevPowerUpdate dt rails s = .next s' ∧ Keeps s s' := by
  unfold execDevPowerUpdate
  refine ⟨_, rfl, ?_⟩
  try dsimp only
  repeat' first
    | with_reducible assumption | with_reducible exact Keeps.refl _ | with_reducible apply State.chargeLedger_keeps
    | with_reducible apply State.draw_keeps | with_reducible apply State.setRail_keeps | with_reducible apply State.toBoundary_keeps
    | with_reducible apply State.wr_keeps | with_reducible apply IoSt.wr_keeps | with_reducible apply Keeps.ite
    | with_reducible apply Keeps.foldl | with_reducible apply Keeps.foldlFst | with_reducible apply Keeps.iteFst
    | fail_if_no_progress with_reducible apply Keeps.upd | fail_if_no_progress with_reducible apply Keeps.updCtr
    | intro _ | split

theorem State.intake_keeps {base : State} {s : State} (hss : Keeps base s) :
    Keeps base (State.intake s) := by
  unfold State.intake
  try dsimp only
  repeat' first
    | with_reducible assumption | with_reducible exact Keeps.refl _ | with_reducible apply State.draw_keeps
    | with_reducible apply State.setFeed_keeps | with_reducible apply State.wr_keeps | with_reducible apply IoSt.wr_keeps
    | with_reducible apply Keeps.ite | with_reducible apply Keeps.foldl | fail_if_no_progress with_reducible apply Keeps.upd
    | intro _ | split

theorem State.leverRegs_keeps {base : State} {s : State} {isOver : Bool} (hss : Keeps base s) :
    Keeps base (State.leverRegs s isOver) := by
  unfold State.leverRegs
  try dsimp only
  repeat' first
    | with_reducible assumption | with_reducible apply State.wr_keeps | with_reducible apply IoSt.wr_keeps
    | with_reducible apply Keeps.ite | intro _ | split

theorem State.sayLever_keeps {base : State} {s : State} {lever : Nat} {pulled : Bool} {mean : Rat} (hss : Keeps base s) :
    Keeps base (State.sayLever s lever pulled mean) := by
  unfold State.sayLever
  try dsimp only
  repeat' first
    | with_reducible assumption | with_reducible apply State.draw_keeps | with_reducible apply State.raise_keeps
    | intro _

theorem State.pull_keeps {base : State} {s : State} {o : GovObs} {lever : Nat} (hss : Keeps base s) {t : State}
    (ht : State.pull s o lever = some t) : Keeps base t := by
  unfold State.pull at ht
  dsimp only at ht
  repeat' split at ht
  all_goals first
    | (cases ht; done)
    | (cases ht
       repeat' first
         | with_reducible assumption | with_reducible apply State.loadStep_keeps | with_reducible apply State.wrBit_keeps
         | fail_if_no_progress with_reducible apply Keeps.upd)
    | (rw [Option.map_eq_some_iff] at ht
       obtain ⟨u, _, ht⟩ := ht
       subst ht
       repeat' first
         | with_reducible assumption | with_reducible apply State.loadStep_keeps | with_reducible apply State.sendFwd_keeps
         | with_reducible apply Keeps.ite | fail_if_no_progress with_reducible apply Keeps.upd)

theorem State.pullLowest_keeps {base : State} {s : State} {o : GovObs} {mean : Rat} {l : List Nat} (hss : Keeps base s) :
    Keeps base (State.pullLowest s o mean l) := by
  induction l with
  | nil => exact State.leverRegs_keeps (State.draw_keeps (State.raiseIf_keeps hss))
  | cons x rest ih =>
    unfold State.pullLowest
    split
    · next h => exact State.leverRegs_keeps (State.sayLever_keeps (State.pull_keeps hss h))
    · exact ih

theorem State.release_keeps {base : State} {s : State} {lever : Nat} (hss : Keeps base s) :
    Keeps base (State.release s lever) := by
  unfold State.release
  try dsimp only
  repeat' first
    | with_reducible assumption | with_reducible apply State.loadStep_keeps | with_reducible apply State.restoreIntent_keeps
    | with_reducible apply State.sendFwd_keeps | with_reducible apply State.wrBit_keeps | with_reducible apply Keeps.ite
    | split | fail_if_no_progress with_reducible apply Keeps.upd | intro _

theorem State.govern_keeps {base : State} {s : State} {o : GovObs} (hss : Keeps base s) :
    Keeps base (State.govern s o) := by
  unfold State.govern
  try dsimp only
  repeat' first
    | with_reducible assumption | with_reducible apply State.leverRegs_keeps | with_reducible apply State.pullLowest_keeps
    | with_reducible apply State.release_keeps | with_reducible apply State.sayLever_keeps | with_reducible apply Keeps.ite
    | split | fail_if_no_progress with_reducible apply Keeps.upd | intro _

theorem State.gateStages_keeps {base : State} {s : State} (hss : Keeps base s) :
    Keeps base (State.gateStages s) := by
  unfold State.gateStages
  try dsimp only
  repeat' first
    | with_reducible assumption | with_reducible exact Keeps.refl _ | with_reducible apply State.loadStep_keeps
    | with_reducible apply Keeps.ite | with_reducible apply Keeps.foldl | intro _ | split

theorem State.parkAsked_keeps {base : State} {s : State} (hss : Keeps base s) :
    Keeps base (State.parkAsked s) := by
  unfold State.parkAsked
  try dsimp only
  repeat' first
    | with_reducible assumption | with_reducible exact Keeps.refl _ | with_reducible apply State.loadStep_keeps
    | with_reducible apply Keeps.foldl | fail_if_no_progress with_reducible apply Keeps.upd | intro _

theorem State.dropWoken_keeps {base : State} {s : State} (hss : Keeps base s) :
    Keeps base (State.dropWoken s) := by
  unfold State.dropWoken
  try dsimp only
  repeat' first
    | with_reducible assumption | fail_if_no_progress with_reducible apply Keeps.upd | intro _

theorem execGovernorStep_keeps {dt : Nat} {o : GovObs} {s : State}  :
    ∃ s', execGovernorStep dt o s = .next s' ∧ Keeps s s' := by
  unfold execGovernorStep
  refine ⟨_, rfl, ?_⟩
  try dsimp only
  repeat' first
    | with_reducible assumption | with_reducible exact Keeps.refl _ | with_reducible apply State.dropWoken_keeps
    | with_reducible apply State.gateStages_keeps | with_reducible apply State.govern_keeps | with_reducible apply State.intake_keeps
    | with_reducible apply State.parkAsked_keeps | with_reducible apply State.toBoundary_keeps | with_reducible apply Keeps.ite
    | intro _ | split

theorem execDetectorArm_keeps {dt : Nat} {s : State}  :
    ∃ s', execDetectorArm dt s = .next s' ∧ Keeps s s' := by
  unfold execDetectorArm
  refine ⟨_, rfl, ?_⟩
  try dsimp only
  repeat' first
    | with_reducible assumption | with_reducible exact Keeps.refl _ | with_reducible apply State.elapse_keeps
    | with_reducible apply State.wrBit_keeps | with_reducible apply Keeps.ite | with_reducible apply Keeps.foldl
    | intro _ | split

theorem State.enterStage_keeps {base : State} {s : State} {stage : Nat} (hss : Keeps base s) :
    Keeps base (State.enterStage s stage) := by
  unfold State.enterStage
  try dsimp only
  repeat' first
    | with_reducible assumption | with_reducible apply State.draw_keeps | with_reducible apply State.pmFreeze_keeps
    | with_reducible apply State.raise_keeps | with_reducible apply State.wr_keeps | with_reducible apply IoSt.wr_keeps
    | split | fail_if_no_progress with_reducible apply Keeps.upd | intro _

theorem State.nextStage_keeps {base : State} {l : List Nat} :
    ∀ {s : State}, Keeps base s → Keeps base (State.nextStage s l) := by
  induction l with
  | nil => intro s hss; exact State.enterStage_keeps hss
  | cons k rest ih =>
    intro s hss
    unfold State.nextStage
    dsimp only
    split
    · exact ih (State.draw_keeps (State.raise_keeps (Keeps.upd hss)))
    · exact State.enterStage_keeps hss

theorem State.pullGasp_keeps {base : State} {s : State} (hss : Keeps base s) :
    Keeps base (State.pullGasp s) := by
  unfold State.pullGasp
  try dsimp only
  repeat' first
    | with_reducible assumption | with_reducible exact Keeps.refl _ | with_reducible apply State.leverRegs_keeps
    | with_reducible apply State.loadStep_keeps | with_reducible apply State.sayLever_keeps | with_reducible apply State.wrBit_keeps
    | with_reducible apply Keeps.ite | with_reducible apply Keeps.foldl | fail_if_no_progress with_reducible apply Keeps.upd
    | intro _ | split

theorem State.declareLoss_keeps {base : State} {s : State} {cause : Nat} {age : Rat} (hss : Keeps base s) :
    Keeps base (State.declareLoss s cause age) := by
  unfold State.declareLoss
  try dsimp only
  repeat' first
    | with_reducible assumption | with_reducible apply State.admitSteps_keeps | with_reducible apply State.ledgerReg_keeps
    | with_reducible apply State.nextStage_keeps | with_reducible apply State.pullGasp_keeps | with_reducible apply State.raise_keeps
    | with_reducible apply State.selfFault_keeps | with_reducible apply State.wr_keeps | with_reducible apply IoSt.wr_keeps
    | with_reducible apply Keeps.ite | fail_if_no_progress with_reducible apply Keeps.upd | intro _ | split

theorem execFeedLoss_keeps {dt : Nat} {s : State}  :
    ∃ s', execFeedLoss dt s = .next s' ∧ Keeps s s' := by
  unfold execFeedLoss
  refine ⟨_, rfl, ?_⟩
  try dsimp only
  repeat' first
    | with_reducible assumption | with_reducible exact Keeps.refl _ | with_reducible apply State.declareLoss_keeps
    | with_reducible apply State.elapse_keeps | with_reducible apply Keeps.ite | intro _ | split

theorem State.writeCrash_keeps {base : State} {s : State} (hss : Keeps base s) :
    Keeps base (State.writeCrash s) := by
  unfold State.writeCrash
  try dsimp only
  repeat' first
    | with_reducible assumption | with_reducible exact Keeps.refl _ | with_reducible apply State.draw_keeps
    | with_reducible apply Keeps.ite | split | fail_if_no_progress with_reducible apply Keeps.upd | fail_if_no_progress with_reducible apply Keeps.updCtr
    | fail_if_no_progress with_reducible apply Keeps.updIo | with_reducible apply ioOk.ite | fail_if_no_progress with_reducible apply ioOk.upd
    | fail_if_no_progress with_reducible apply ioOk.updMem | fail_if_no_progress with_reducible apply ioOk.updEvq
    | fail_if_no_progress with_reducible apply ioOk.held | intro _

theorem State.stopAll_keeps {base : State} {s : State} (hss : Keeps base s) :
    Keeps base (State.stopAll s) := by
  unfold State.stopAll
  try dsimp only
  repeat' first
    | with_reducible assumption | with_reducible apply State.setTxIdle_keeps | with_reducible apply State.wr_keeps
    | with_reducible apply IoSt.wr_keeps | fail_if_no_progress with_reducible apply Keeps.upd | intro _

theorem execLgStageEnd_keeps {dt : Nat} {s : State}  :
    ∃ s', execLgStageEnd dt s = .next s' ∧ Keeps s s' := by
  unfold execLgStageEnd
  refine ⟨_, rfl, ?_⟩
  try dsimp only
  repeat' first
    | with_reducible assumption | with_reducible exact Keeps.refl _ | with_reducible apply State.chargeLedger_keeps
    | with_reducible apply State.elapse_keeps | with_reducible apply State.nextStage_keeps | with_reducible apply State.setTxIdle_keeps
    | with_reducible apply State.stopAll_keeps | with_reducible apply State.writeCrash_keeps | with_reducible apply Keeps.ite
    | split | fail_if_no_progress with_reducible apply Keeps.upd | intro _

theorem State.pmbFault_keeps {base : State} {s : State} {j status : Nat} (hss : Keeps base s) :
    Keeps base (State.pmbFault s j status) := by
  unfold State.pmbFault
  try dsimp only
  repeat' first
    | with_reducible assumption | with_reducible apply State.count_keeps | with_reducible apply State.raise_keeps
    | intro _

theorem State.takePoll_keeps {base : State} {s : State} {r : PmbRead} (hss : Keeps base s) :
    Keeps base (State.takePoll s r) := by
  unfold State.takePoll
  try dsimp only
  repeat' first
    | with_reducible assumption | with_reducible apply State.pmbFault_keeps | with_reducible apply State.wr_keeps
    | with_reducible apply IoSt.wr_keeps | with_reducible apply Keeps.ite | intro _ | split

theorem execPmbusPoll_keeps {dt : Nat} {l : List PmbRead} {s : State}  :
    ∃ s', execPmbusPoll dt l s = .next s' ∧ Keeps s s' := by
  unfold execPmbusPoll
  refine ⟨_, rfl, ?_⟩
  try dsimp only
  repeat' first
    | with_reducible assumption | with_reducible exact Keeps.refl _ | with_reducible apply State.takePoll_keeps
    | with_reducible apply State.toBoundary_keeps | with_reducible apply Keeps.ite | with_reducible apply Keeps.foldl
    | intro _ | split

theorem execPmbAlert_keeps {dt conv status : Nat} {s : State}  :
    ∃ s', execPmbAlert dt conv status s = .next s' ∧ Keeps s s' := by
  unfold execPmbAlert
  refine ⟨_, rfl, ?_⟩
  try dsimp only
  repeat' first
    | with_reducible assumption | with_reducible exact Keeps.refl _ | with_reducible apply State.elapse_keeps
    | with_reducible apply State.pmbFault_keeps | intro _

theorem execEngEpbUpdate_keeps {dt : Nat} {s : State}  :
    ∃ s', execEngEpbUpdate dt s = .next s' ∧ Keeps s s' := by
  unfold execEngEpbUpdate
  refine ⟨_, rfl, ?_⟩
  try dsimp only
  repeat' first
    | with_reducible assumption | with_reducible exact Keeps.refl _ | with_reducible apply State.draw_keeps
    | with_reducible apply State.toBoundary_keeps | with_reducible apply State.wr_keeps | with_reducible apply IoSt.wr_keeps
    | with_reducible apply Keeps.ite | intro _ | split

theorem execEngLastGasp_keeps {dt : Nat} {h : HostRef} {s : State}  :
    ∃ s', execEngLastGasp dt h s = .next s' ∧ Keeps s s' := by
  unfold execEngLastGasp
  refine ⟨_, rfl, ?_⟩
  try dsimp only
  repeat' first
    | with_reducible assumption | with_reducible exact Keeps.refl _ | with_reducible apply State.command_keeps
    | with_reducible apply State.declareLoss_keeps | with_reducible apply State.done_keeps | with_reducible apply State.refuse_keeps
    | with_reducible apply Keeps.ite | intro _ | split

theorem execEngPmbXfer_keeps {dt : Nat} {h : HostRef} {p : PmbXfer} {s : State}  :
    ∃ s', execEngPmbXfer dt h p s = .next s' ∧ Keeps s s' := by
  unfold execEngPmbXfer
  refine ⟨_, rfl, ?_⟩
  try dsimp only
  repeat' first
    | with_reducible assumption | with_reducible exact Keeps.refl _ | with_reducible apply State.command_keeps
    | with_reducible apply State.complete_keeps | with_reducible apply State.hostWrite_keeps | with_reducible apply State.pmbFault_keeps
    | with_reducible apply State.refuse_keeps | with_reducible apply Keeps.ite | split | fail_if_no_progress with_reducible apply Keeps.upd
    | intro _

theorem execEngCrashRead_keeps {dt : Nat} {h : HostRef} {slot host : Nat} {s : State}  :
    ∃ s', execEngCrashRead dt h slot host s = .next s' ∧ Keeps s s' := by
  unfold execEngCrashRead
  refine ⟨_, rfl, ?_⟩
  try dsimp only
  repeat' first
    | with_reducible assumption | with_reducible exact Keeps.refl _ | with_reducible apply State.command_keeps
    | with_reducible apply State.done_keeps | with_reducible apply State.hostWrite_keeps | with_reducible apply State.refuse_keeps
    | with_reducible apply Keeps.ite | split | fail_if_no_progress with_reducible apply Keeps.upd | intro _

theorem execEngCrashRelease_keeps {dt : Nat} {h : HostRef} {slot : Nat} {s : State}  :
    ∃ s', execEngCrashRelease dt h slot s = .next s' ∧ Keeps s s' := by
  unfold execEngCrashRelease
  refine ⟨_, rfl, ?_⟩
  try dsimp only
  repeat' first
    | with_reducible assumption | with_reducible exact Keeps.refl _ | with_reducible apply State.command_keeps
    | with_reducible apply State.done_keeps | with_reducible apply State.refuse_keeps | with_reducible apply Keeps.ite
    | fail_if_no_progress with_reducible apply Keeps.upd | intro _ | split

theorem execEngCrashPoints_keeps {dt : Nat} {h : HostRef} {count first : Nat} {points : List Nat} {s : State}  :
    ∃ s', execEngCrashPoints dt h count first points s = .next s' ∧ Keeps s s' := by
  unfold execEngCrashPoints
  refine ⟨_, rfl, ?_⟩
  try dsimp only
  repeat' first
    | with_reducible assumption | with_reducible exact Keeps.refl _ | with_reducible apply State.command_keeps
    | with_reducible apply State.done_keeps | with_reducible apply State.refuse_keeps | with_reducible apply Keeps.ite
    | with_reducible apply Keeps.foldl | with_reducible apply Keeps.foldlFst | with_reducible apply Keeps.iteFst
    | fail_if_no_progress with_reducible apply Keeps.upd | intro _ | split

end Sys2Proof.Machine
end

