-- ==== Sys2Proof/Laws/KeepsHostIf.lean ====
section
/-! SUPPORT. What the operations of Machine/HostIf.lean keep. -/

set_option Elab.async false

namespace Sys2Proof.Machine

theorem State.indexBad_keeps {base : State} {s : State} {kind n value kept : Nat} (hss : Keeps base s) :
    Keeps base (State.indexBad s kind n value kept) := by
  unfold State.indexBad
  try dsimp only
  repeat' first
    | with_reducible assumption | with_reducible exact Keeps.refl _ | with_reducible apply State.count_keeps
    | with_reducible apply State.raiseOnce_keeps | intro _

theorem State.takeProd_keeps {base : State} {s : State} {n value : Nat} (hss : Keeps base s) :
    Keeps base (State.takeProd s n value) := by
  unfold State.takeProd
  try dsimp only
  repeat' first
    | with_reducible assumption | with_reducible apply State.indexBad_keeps | with_reducible apply State.wr_keeps
    | with_reducible apply IoSt.wr_keeps | with_reducible apply Keeps.ite | intro _ | split

theorem State.takeCplCons_keeps {base : State} {s : State} {n value : Nat} (hss : Keeps base s) :
    Keeps base (State.takeCplCons s n value) := by
  unfold State.takeCplCons
  try dsimp only
  repeat' first
    | with_reducible assumption | with_reducible apply State.indexBad_keeps | with_reducible apply State.wr_keeps
    | with_reducible apply IoSt.wr_keeps | with_reducible apply Keeps.ite | fail_if_no_progress with_reducible apply Keeps.upd
    | fail_if_no_progress with_reducible apply Keeps.updIo | with_reducible apply ioOk.ite | fail_if_no_progress with_reducible apply ioOk.upd
    | fail_if_no_progress with_reducible apply ioOk.updMem | fail_if_no_progress with_reducible apply ioOk.updEvq
    | fail_if_no_progress with_reducible apply ioOk.held | intro _ | split

theorem State.resumeEvq_keeps {base : State} {s : State} {q : Nat} (hss : Keeps base s) :
    Keeps base (State.resumeEvq s q) := by
  unfold State.resumeEvq
  try dsimp only
  repeat' first
    | with_reducible assumption | with_reducible apply State.evqPut_keeps | with_reducible apply State.evqSend_keeps
    | with_reducible apply Keeps.ite | fail_if_no_progress with_reducible apply Keeps.upd | fail_if_no_progress with_reducible apply Keeps.updIo
    | with_reducible apply ioOk.ite | fail_if_no_progress with_reducible apply ioOk.upd | fail_if_no_progress with_reducible apply ioOk.updMem
    | fail_if_no_progress with_reducible apply ioOk.updEvq | fail_if_no_progress with_reducible apply ioOk.held
    | intro _ | split

theorem State.takeEvqCons_keeps {base : State} {s : State} {n value : Nat} (hss : Keeps base s) :
    Keeps base (State.takeEvqCons s n value) := by
  unfold State.takeEvqCons
  try dsimp only
  repeat' first
    | with_reducible assumption | with_reducible apply State.indexBad_keeps | with_reducible apply State.resumeEvq_keeps
    | with_reducible apply State.wr_keeps | with_reducible apply IoSt.wr_keeps | with_reducible apply Keeps.ite
    | fail_if_no_progress with_reducible apply Keeps.upd | fail_if_no_progress with_reducible apply Keeps.updIo
    | with_reducible apply ioOk.ite | fail_if_no_progress with_reducible apply ioOk.upd | fail_if_no_progress with_reducible apply ioOk.updMem
    | fail_if_no_progress with_reducible apply ioOk.updEvq | fail_if_no_progress with_reducible apply ioOk.held
    | intro _ | split

theorem State.raiseOn_keeps {base : State} {s : State} {q code src : Nat} {det : List (Nat × Nat)} {sev : Nat} {caused : Bool} (hss : Keeps base s) :
    Keeps base (State.raiseOn s q code src det sev caused) := by
  unfold State.raiseOn
  try dsimp only
  repeat' first
    | with_reducible assumption | with_reducible apply State.ioRaise_keeps | fail_if_no_progress with_reducible apply Keeps.upd
    | fail_if_no_progress with_reducible apply Keeps.updIo | with_reducible apply ioOk.ite | fail_if_no_progress with_reducible apply ioOk.upd
    | fail_if_no_progress with_reducible apply ioOk.updMem | fail_if_no_progress with_reducible apply ioOk.updEvq
    | fail_if_no_progress with_reducible apply ioOk.held | intro _

theorem State.judgeReady_keeps {base : State} {s : State} {d : Nat} (hss : Keeps base s) :
    Keeps base (State.judgeReady s d) := by
  unfold State.judgeReady
  try dsimp only
  repeat' first
    | with_reducible assumption | with_reducible apply State.raiseOn_keeps | with_reducible apply State.setDq_keeps
    | with_reducible apply Keeps.ite | split | fail_if_no_progress with_reducible apply Keeps.upd | intro _

theorem State.takeDq_keeps {base : State} {s : State} {d value : Nat} (hss : Keeps base s) :
    Keeps base (State.takeDq s d value) := by
  unfold State.takeDq
  try dsimp only
  repeat' first
    | with_reducible assumption | with_reducible apply State.indexBad_keeps | with_reducible apply State.judgeReady_keeps
    | with_reducible apply State.setDq_keeps | with_reducible apply Keeps.ite | split | fail_if_no_progress with_reducible apply Keeps.upd
    | intro _

theorem State.dbError_keeps {base : State} {s : State} {page : Bool} {status : Nat} (hss : Keeps base s) :
    Keeps base (State.dbError s page status) := by
  unfold State.dbError
  try dsimp only
  repeat' first
    | with_reducible assumption | with_reducible exact Keeps.refl _ | with_reducible apply State.count_keeps
    | with_reducible apply State.raiseOnce_keeps | intro _

theorem State.takeLine_keeps {base : State} {s : State} {l : DbLine} (hss : Keeps base s) :
    Keeps base (State.takeLine s l) := by
  unfold State.takeLine
  try dsimp only
  repeat' first
    | with_reducible assumption | with_reducible exact Keeps.refl _ | with_reducible apply State.dbError_keeps
    | with_reducible apply State.takeDq_keeps | with_reducible apply Keeps.ite | with_reducible apply Keeps.foldl
    | with_reducible apply Keeps.foldlFst | with_reducible apply Keeps.iteFst | intro _ | split

theorem State.planRing_keeps {base : State} {s : State} {n : Nat} (hss : Keeps base s) :
    Keeps base (State.planRing s n) := by
  unfold State.planRing
  try dsimp only
  repeat' first
    | with_reducible assumption | with_reducible apply State.wrBit_keeps | with_reducible apply Keeps.ite
    | fail_if_no_progress with_reducible apply Keeps.upd | fail_if_no_progress with_reducible apply Keeps.updIo
    | with_reducible apply ioOk.ite | fail_if_no_progress with_reducible apply ioOk.upd | fail_if_no_progress with_reducible apply ioOk.updMem
    | fail_if_no_progress with_reducible apply ioOk.updEvq | fail_if_no_progress with_reducible apply ioOk.held
    | intro _ | split

theorem execDoorbellRead_keeps {dt : Nat} {page : DbPage} {s : State}  :
    ∃ s', execDoorbellRead dt page s = .next s' ∧ Keeps s s' := by
  unfold execDoorbellRead
  refine ⟨_, rfl, ?_⟩
  try dsimp only
  repeat' first
    | with_reducible assumption | with_reducible exact Keeps.refl _ | with_reducible apply State.dbError_keeps
    | with_reducible apply State.elapse_keeps | with_reducible apply State.planRing_keeps | with_reducible apply State.takeCplCons_keeps
    | with_reducible apply State.takeEvqCons_keeps | with_reducible apply State.takeLine_keeps | with_reducible apply State.takeProd_keeps
    | with_reducible apply State.waitAddr_keeps | with_reducible apply Keeps.ite | with_reducible apply Keeps.foldl
    | with_reducible apply Keeps.foldlFst | with_reducible apply Keeps.iteFst | fail_if_no_progress with_reducible apply Keeps.upd
    | fail_if_no_progress with_reducible apply Keeps.updIo | with_reducible apply ioOk.ite | fail_if_no_progress with_reducible apply ioOk.upd
    | fail_if_no_progress with_reducible apply ioOk.updMem | fail_if_no_progress with_reducible apply ioOk.updEvq
    | fail_if_no_progress with_reducible apply ioOk.held | intro _ | split

theorem State.consume_keeps {base : State} {s : State} {n : Nat} {d : DescIn} (hss : Keeps base s) :
    Keeps base (State.consume s n d) := by
  unfold State.consume
  try dsimp only
  repeat' first
    | with_reducible assumption | with_reducible exact Keeps.refl _ | with_reducible apply IoSt.lap_keeps
    | with_reducible apply State.wr_keeps | with_reducible apply IoSt.wr_keeps | with_reducible apply State.wrBit_keeps
    | fail_if_no_progress with_reducible apply Keeps.upd | fail_if_no_progress with_reducible apply Keeps.updIo
    | with_reducible apply ioOk.ite | fail_if_no_progress with_reducible apply ioOk.upd | fail_if_no_progress with_reducible apply ioOk.updMem
    | fail_if_no_progress with_reducible apply ioOk.updEvq | fail_if_no_progress with_reducible apply ioOk.held
    | intro _

theorem State.rejectDesc_keeps {base : State} {s : State} {n : Nat} {d : DescIn} {reason : Nat} (hss : Keeps base s) :
    Keeps base (State.rejectDesc s n d reason) := by
  unfold State.rejectDesc
  try dsimp only
  repeat' first
    | with_reducible assumption | with_reducible exact Keeps.refl _ | with_reducible apply State.consume_keeps
    | with_reducible apply State.count_keeps | with_reducible apply State.raiseOnce_keeps | with_reducible apply State.reject_keeps
    | intro _

theorem State.takeDescs_keeps {base : State} {n : Nat} {l : List DescIn} :
    ∀ {s : State}, Keeps base s → Keeps base (State.takeDescs s n l) := by
  induction l with
  | nil => intro s hss; exact hss
  | cons d rest ih =>
    intro s hss
    unfold State.takeDescs
    dsimp only
    have hp (c : Prop) [Decidable c] : Keeps base (if c then s.alterCheck 8 else (s, false)).1 := by
      split
      · exact State.alterCheck_keeps hss
      · exact hss
    refine Keeps.ite (Keeps.ite (State.wrBit_keeps (Keeps.updIo hss id)) (ih (State.rejectDesc_keeps hss))) ?_
    split
    · exact Keeps.ite (State.wrBit_keeps (State.wrBit_keeps (hp _))) (Keeps.ite (ih (State.reject_keeps (State.consume_keeps (hp _))))
        (ih (State.count_keeps (State.consume_keeps (hp _)))))
    · exact ih (State.rejectDesc_keeps (hp _))

theorem execDescriptorFetch_keeps {dt : Nat} {l : List (Nat × List (List Nat))} {s : State}  :
    ∃ s', execDescriptorFetch dt l s = .next s' ∧ Keeps s s' := by
  unfold execDescriptorFetch
  refine ⟨_, rfl, ?_⟩
  try dsimp only
  repeat' first
    | with_reducible assumption | with_reducible exact Keeps.refl _ | with_reducible apply State.elapse_keeps
    | with_reducible apply State.takeDescs_keeps | with_reducible apply Keeps.ite | with_reducible apply Keeps.foldl
    | with_reducible apply Keeps.foldlFst | with_reducible apply Keeps.iteFst | fail_if_no_progress with_reducible apply Keeps.upd
    | fail_if_no_progress with_reducible apply Keeps.updIo | with_reducible apply ioOk.ite | fail_if_no_progress with_reducible apply ioOk.upd
    | fail_if_no_progress with_reducible apply ioOk.updMem | fail_if_no_progress with_reducible apply ioOk.updEvq
    | fail_if_no_progress with_reducible apply ioOk.held | intro _ | split

theorem State.releaseEvq_keeps {base : State} {s : State} {q : Nat} (hss : Keeps base s) :
    Keeps base (State.releaseEvq s q) := by
  unfold State.releaseEvq
  try dsimp only
  repeat' first
    | with_reducible assumption | with_reducible exact Keeps.refl _ | with_reducible apply State.evqSend_keeps
    | with_reducible apply Keeps.ite | with_reducible apply Keeps.foldl | fail_if_no_progress with_reducible apply Keeps.upd
    | fail_if_no_progress with_reducible apply Keeps.updIo | with_reducible apply ioOk.ite | fail_if_no_progress with_reducible apply ioOk.upd
    | fail_if_no_progress with_reducible apply ioOk.updMem | fail_if_no_progress with_reducible apply ioOk.updEvq
    | fail_if_no_progress with_reducible apply ioOk.held | exact Nat.zero_le 64 | intro _ | split

theorem execHeldEventRelease_keeps {dt : Nat} {s : State}  :
    ∃ s', execHeldEventRelease dt s = .next s' ∧ Keeps s s' := by
  unfold execHeldEventRelease
  refine ⟨_, rfl, ?_⟩
  try dsimp only
  repeat' first
    | with_reducible assumption | with_reducible exact Keeps.refl _ | with_reducible apply State.cplPut_keeps
    | with_reducible apply State.releaseEvq_keeps | with_reducible apply State.toBoundary_keeps | with_reducible apply Keeps.ite
    | with_reducible apply Keeps.foldl | fail_if_no_progress with_reducible apply Keeps.upd | fail_if_no_progress with_reducible apply Keeps.updIo
    | with_reducible apply ioOk.ite | fail_if_no_progress with_reducible apply ioOk.upd | fail_if_no_progress with_reducible apply ioOk.updMem
    | fail_if_no_progress with_reducible apply ioOk.updEvq | fail_if_no_progress with_reducible apply ioOk.held
    | intro _ | split

theorem execDqWriteback_keeps {dt d : Nat} {s : State}  :
    ∃ s', execDqWriteback dt d s = .next s' ∧ Keeps s s' := by
  unfold execDqWriteback
  refine ⟨_, rfl, ?_⟩
  try dsimp only
  repeat' first
    | with_reducible assumption | with_reducible exact Keeps.refl _ | with_reducible apply State.hostWrite_keeps
    | with_reducible apply State.judgeReady_keeps | with_reducible apply State.setDq_keeps | with_reducible apply State.toBoundary_keeps
    | with_reducible apply Keeps.ite | split | fail_if_no_progress with_reducible apply Keeps.upd | fail_if_no_progress with_reducible apply Keeps.updIo
    | with_reducible apply ioOk.ite | fail_if_no_progress with_reducible apply ioOk.upd | fail_if_no_progress with_reducible apply ioOk.updMem
    | fail_if_no_progress with_reducible apply ioOk.updEvq | fail_if_no_progress with_reducible apply ioOk.held
    | intro _

theorem execVectorTimer_keeps {dt v : Nat} {s : State}  :
    ∃ s', execVectorTimer dt v s = .next s' ∧ Keeps s s' := by
  unfold execVectorTimer
  refine ⟨_, rfl, ?_⟩
  try dsimp only
  repeat' first
    | with_reducible assumption | with_reducible exact Keeps.refl _ | with_reducible apply State.count_keeps
    | with_reducible apply State.elapse_keeps | with_reducible apply IoSt.sendMsg_keeps | with_reducible apply State.waitAddr_keeps
    | with_reducible apply Keeps.ite | fail_if_no_progress with_reducible apply Keeps.upd | fail_if_no_progress with_reducible apply Keeps.updIo
    | with_reducible apply ioOk.ite | fail_if_no_progress with_reducible apply ioOk.upd | fail_if_no_progress with_reducible apply ioOk.updMem
    | fail_if_no_progress with_reducible apply ioOk.updEvq | fail_if_no_progress with_reducible apply ioOk.held
    | intro _ | split

theorem execPciePowerState_keeps {dt : Nat} {d3hot busMaster : Bool} {s : State}  :
    ∃ s', execPciePowerState dt d3hot busMaster s = .next s' ∧ Keeps s s' := by
  unfold execPciePowerState
  refine ⟨_, rfl, ?_⟩
  try dsimp only
  repeat' first
    | with_reducible assumption | with_reducible exact Keeps.refl _ | with_reducible apply State.elapse_keeps
    | with_reducible apply Keeps.ite | fail_if_no_progress with_reducible apply Keeps.upd | fail_if_no_progress with_reducible apply Keeps.updIo
    | with_reducible apply ioOk.ite | fail_if_no_progress with_reducible apply ioOk.upd | fail_if_no_progress with_reducible apply ioOk.updMem
    | fail_if_no_progress with_reducible apply ioOk.updEvq | fail_if_no_progress with_reducible apply ioOk.held
    | intro _ | split

theorem execHifNop_keeps {dt : Nat} {h : HostRef} {value : Nat} {s : State}  :
    ∃ s', execHifNop dt h value s = .next s' ∧ Keeps s s' := by
  unfold execHifNop
  refine ⟨_, rfl, ?_⟩
  try dsimp only
  repeat' first
    | with_reducible assumption | with_reducible exact Keeps.refl _ | with_reducible apply State.command_keeps
    | with_reducible apply State.complete_keeps | intro _

theorem execHifDqBind_keeps {dt : Nat} {h : HostRef} {p : DqBind} {s : State}  :
    ∃ s', execHifDqBind dt h p s = .next s' ∧ Keeps s s' := by
  unfold execHifDqBind
  refine ⟨_, rfl, ?_⟩
  try dsimp only
  repeat' first
    | with_reducible assumption | with_reducible exact Keeps.refl _ | with_reducible apply State.command_keeps
    | with_reducible apply State.done_keeps | with_reducible apply State.reject_keeps | with_reducible apply State.setDq_keeps
    | with_reducible apply State.setQueue_keeps | with_reducible apply Keeps.ite | split | fail_if_no_progress with_reducible apply Keeps.upd
    | intro _

theorem State.unbind_keeps {base : State} {s : State} {d : Nat} (hss : Keeps base s) :
    Keeps base (State.unbind s d) := by
  unfold State.unbind
  try dsimp only
  repeat' first
    | with_reducible assumption | with_reducible apply State.setQueue_keeps | with_reducible apply Keeps.ite
    | split | fail_if_no_progress with_reducible apply Keeps.upd | intro _

theorem execHifDqUnbind_keeps {dt : Nat} {h : HostRef} {d : Nat} {s : State}  :
    ∃ s', execHifDqUnbind dt h d s = .next s' ∧ Keeps s s' := by
  unfold execHifDqUnbind
  refine ⟨_, rfl, ?_⟩
  try dsimp only
  repeat' first
    | with_reducible assumption | with_reducible exact Keeps.refl _ | with_reducible apply State.command_keeps
    | with_reducible apply State.done_keeps | with_reducible apply State.reject_keeps | with_reducible apply State.unbind_keeps
    | with_reducible apply State.waitAddr_keeps | with_reducible apply Keeps.ite | fail_if_no_progress with_reducible apply Keeps.upd
    | fail_if_no_progress with_reducible apply Keeps.updIo | with_reducible apply ioOk.ite | fail_if_no_progress with_reducible apply ioOk.upd
    | fail_if_no_progress with_reducible apply ioOk.updMem | fail_if_no_progress with_reducible apply ioOk.updEvq
    | fail_if_no_progress with_reducible apply ioOk.held | intro _ | split

theorem execHifSevSet_keeps {dt : Nat} {h : HostRef} {first count : Nat} {levels : List Nat} {s : State}  :
    ∃ s', execHifSevSet dt h first count levels s = .next s' ∧ Keeps s s' := by
  unfold execHifSevSet
  refine ⟨_, rfl, ?_⟩
  try dsimp only
  repeat' first
    | with_reducible assumption | with_reducible exact Keeps.refl _ | with_reducible apply State.command_keeps
    | with_reducible apply State.done_keeps | with_reducible apply State.reject_keeps | with_reducible apply Keeps.ite
    | with_reducible apply Keeps.foldl | with_reducible apply Keeps.foldlFst | with_reducible apply Keeps.iteFst
    | fail_if_no_progress with_reducible apply Keeps.upd | fail_if_no_progress with_reducible apply Keeps.updIo
    | with_reducible apply ioOk.ite | fail_if_no_progress with_reducible apply ioOk.upd | fail_if_no_progress with_reducible apply ioOk.updMem
    | fail_if_no_progress with_reducible apply ioOk.updEvq | fail_if_no_progress with_reducible apply ioOk.held
    | intro _ | split

theorem execHifEvqTest_keeps {dt : Nat} {h : HostRef} {evq sev : Nat} {s : State}  :
    ∃ s', execHifEvqTest dt h evq sev s = .next s' ∧ Keeps s s' := by
  unfold execHifEvqTest
  refine ⟨_, rfl, ?_⟩
  try dsimp only
  repeat' first
    | with_reducible assumption | with_reducible exact Keeps.refl _ | with_reducible apply State.command_keeps
    | with_reducible apply State.done_keeps | with_reducible apply State.raiseOn_keeps | with_reducible apply State.reject_keeps
    | with_reducible apply Keeps.ite | intro _ | split

end Sys2Proof.Machine
end

