-- ==== Sys2Proof/Laws/KeepsResets.lean ====
section
/-! SUPPORT. What the operations of Machine/Resets.lean keep. -/

set_option Elab.async false

namespace Sys2Proof.Machine

theorem State.clearField_keeps {base : State} {s : State} {f : Fld} {i : Nat} (hss : Keeps base s) :
    Keeps base (State.clearField s f i) := by
  unfold State.clearField
  try dsimp only
  repeat' first
    | with_reducible assumption | with_reducible apply Keeps.ite | fail_if_no_progress with_reducible apply Keeps.upd
    | fail_if_no_progress with_reducible apply Keeps.updIo | with_reducible apply ioOk.ite | fail_if_no_progress with_reducible apply ioOk.upd
    | fail_if_no_progress with_reducible apply ioOk.updMem | fail_if_no_progress with_reducible apply ioOk.updEvq
    | fail_if_no_progress with_reducible apply ioOk.held | intro _ | split

theorem State.clearDomain_keeps {base : State} {s : State} {d : Nat} (hss : Keeps base s) :
    Keeps base (State.clearDomain s d) := by
  unfold State.clearDomain
  try dsimp only
  repeat' first
    | with_reducible assumption | with_reducible exact Keeps.refl _ | with_reducible apply State.clearField_keeps
    | with_reducible apply State.count_keeps | with_reducible apply Keeps.ite | with_reducible apply Keeps.foldl
    | intro _ | split

theorem State.abandonMoves_keeps {base : State} {s : State} (hss : Keeps base s) :
    Keeps base (State.abandonMoves s) := by
  unfold State.abandonMoves
  try dsimp only
  repeat' first
    | with_reducible assumption | with_reducible exact Keeps.refl _ | with_reducible apply State.endMove_keeps
    | with_reducible apply State.releaseHeld_keeps | with_reducible apply Keeps.ite | with_reducible apply Keeps.foldl
    | split | fail_if_no_progress with_reducible apply Keeps.upd | intro _

theorem State.failWhere_keeps {base : State} {s : State} {p : Ctx → Bool} {wait : Bool} (hss : Keeps base s) :
    Keeps base (State.failWhere s p wait) := by
  unfold State.failWhere
  try dsimp only
  repeat' first
    | with_reducible assumption | with_reducible exact Keeps.refl _ | with_reducible apply Keeps.ite | with_reducible apply Keeps.iteFst
    | fail_if_no_progress with_reducible apply Keeps.upd | intro _ | split

theorem State.wipeLane_keeps {base : State} {s : State} {l : Nat} (hss : Keeps base s) :
    Keeps base (State.wipeLane s l) := by
  unfold State.wipeLane
  try dsimp only
  repeat' first
    | with_reducible assumption | with_reducible apply State.setFramer_keeps | with_reducible apply State.setRlkLane_keeps
    | with_reducible apply Keeps.ite | intro _ | split

theorem State.resetShaft_keeps {base : State} {s : State} (hss : Keeps base s) :
    Keeps base (State.resetShaft s) := by
  unfold State.resetShaft
  try dsimp only
  repeat' first
    | with_reducible assumption | with_reducible exact Keeps.refl _ | with_reducible apply Keeps.iteFst
    | fail_if_no_progress with_reducible apply Keeps.upd | fail_if_no_progress with_reducible apply Keeps.updDco
    | intro _

/-- A reset of the host interface keeps the events that its queues hold (R445). -/
theorem State.resetHif_keeps {base : State} {s : State} (hss : Keeps base s) : Keeps base (State.resetHif s) := by
  unfold State.resetHif
  extract_lets s1 s2 s3 src io s4 s5
  have h1 : Keeps base s1 := Keeps.foldl (fun b x => State.unbind_keeps (Keeps.refl b)) _ hss
  have h2 : Keeps base s2 := Keeps.foldl (fun b x => Keeps.updIo (Keeps.refl b) IoSt.countBy_keeps) _ h1
  have h3 : Keeps base s3 := Keeps.foldl (fun b x => Keeps.updIo (Keeps.refl b) IoSt.countBy_keeps) _ h2
  have h4 : Keeps base s4 := Keeps.updIo h3 (fun k => ioOk.mapEvq (io := s3.io)
    (f := fun e => (e.1, { e.2 with inOver := false, drops := 0 })) k (fun _ => rfl))
  have h5 : Keeps base s5 := Keeps.foldl (fun b x => State.wr_keeps (State.wr_keeps (Keeps.refl b))) _ h4
  exact State.wr_keeps (Keeps.foldl (fun b x => State.wr_keeps (Keeps.refl b)) _ h5)

theorem State.resetSlice_keeps {base : State} {s : State} {k : Nat} (hss : Keeps base s) :
    Keeps base (State.resetSlice s k) := by
  unfold State.resetSlice
  try dsimp only
  repeat' first
    | with_reducible assumption | with_reducible exact Keeps.refl _ | with_reducible apply State.failWhere_keeps
    | with_reducible apply State.setFramer_keeps | with_reducible apply State.setTrb_keeps | with_reducible apply State.wipeLane_keeps
    | with_reducible apply Keeps.ite | with_reducible apply Keeps.foldl | with_reducible apply Keeps.foldlFst
    | with_reducible apply Keeps.iteFst | split | fail_if_no_progress with_reducible apply Keeps.upd | intro _

theorem State.resetGrain_keeps {base : State} {s : State} (hss : Keeps base s) :
    Keeps base (State.resetGrain s) := by
  unfold State.resetGrain
  try dsimp only
  repeat' first
    | with_reducible assumption | with_reducible exact Keeps.refl _ | with_reducible apply State.failWhere_keeps
    | fail_if_no_progress with_reducible apply Keeps.upd | intro _

theorem State.resetTsi_keeps {base : State} {s : State} (hss : Keeps base s) :
    Keeps base (State.resetTsi s) := by
  unfold State.resetTsi
  try dsimp only
  repeat' first
    | with_reducible assumption | with_reducible exact Keeps.refl _ | with_reducible apply State.failWhere_keeps
    | fail_if_no_progress with_reducible apply Keeps.upd | intro _

theorem State.resetQmg_keeps {base : State} {s : State} (hss : Keeps base s) :
    Keeps base (State.resetQmg s) := by
  unfold State.resetQmg
  try dsimp only
  repeat' first
    | with_reducible assumption | with_reducible exact Keeps.refl _ | with_reducible apply State.raise_keeps
    | with_reducible apply State.resetQueue_keeps | with_reducible apply Keeps.foldl | with_reducible apply Keeps.foldlFst
    | with_reducible apply Keeps.iteFst | intro _

theorem State.resetCipher_keeps {base : State} {s : State} (hss : Keeps base s) :
    Keeps base (State.resetCipher s) := by
  unfold State.resetCipher
  try dsimp only
  repeat' first
    | with_reducible assumption | with_reducible exact Keeps.refl _ | with_reducible apply Keeps.iteFst
    | fail_if_no_progress with_reducible apply Keeps.upd | intro _

theorem State.resetPair_keeps {base : State} {s : State} (hss : Keeps base s) :
    Keeps base (State.resetPair s) := by
  unfold State.resetPair
  try dsimp only
  repeat' first
    | with_reducible assumption | with_reducible exact Keeps.refl _ | with_reducible apply State.ovmFollow_keeps
    | with_reducible apply State.reject_keeps | with_reducible apply State.wipeLane_keeps | with_reducible apply State.wr_keeps
    | with_reducible apply IoSt.wr_keeps | with_reducible apply Keeps.ite | with_reducible apply Keeps.foldl
    | split | fail_if_no_progress with_reducible apply Keeps.upd | intro _

theorem State.resetFlt_keeps {base : State} {s : State} (hss : Keeps base s) :
    Keeps base (State.resetFlt s) := by
  unfold State.resetFlt
  try dsimp only
  repeat' first
    | with_reducible assumption | with_reducible exact Keeps.refl _ | with_reducible apply State.reject_keeps
    | with_reducible apply Keeps.foldl | with_reducible apply Keeps.foldlFst | with_reducible apply Keeps.iteFst
    | split | fail_if_no_progress with_reducible apply Keeps.upd | intro _

theorem State.resetUnits_keeps {base : State} {s : State} {d : Nat} (hss : Keeps base s) :
    Keeps base (State.resetUnits s d) := by
  unfold State.resetUnits
  try dsimp only
  repeat' first
    | with_reducible assumption | with_reducible apply State.resetCipher_keeps | with_reducible apply State.resetFlt_keeps
    | with_reducible apply State.resetGrain_keeps | with_reducible apply State.resetHif_keeps | with_reducible apply State.resetPair_keeps
    | with_reducible apply State.resetQmg_keeps | with_reducible apply State.resetShaft_keeps | with_reducible apply State.resetSlice_keeps
    | with_reducible apply State.resetTsi_keeps | with_reducible apply Keeps.ite | split | fail_if_no_progress with_reducible apply Keeps.upd
    | intro _

theorem State.restartPasses_keeps {base : State} {s : State} {d : Nat} (hss : Keeps base s) :
    Keeps base (State.restartPasses s d) := by
  unfold State.restartPasses
  try dsimp only
  repeat' first
    | with_reducible assumption | with_reducible exact Keeps.refl _ | with_reducible apply State.reject_keeps
    | with_reducible apply State.wr_keeps | with_reducible apply IoSt.wr_keeps | with_reducible apply Keeps.ite
    | with_reducible apply Keeps.foldl | with_reducible apply Keeps.foldlFst | with_reducible apply Keeps.iteFst
    | fail_if_no_progress with_reducible apply Keeps.upd | intro _ | split

theorem State.enterReset_keeps {base : State} {s : State} {d : Nat} (hss : Keeps base s) :
    Keeps base (State.enterReset s d) := by
  unfold State.enterReset
  try dsimp only
  repeat' first
    | with_reducible assumption | with_reducible apply State.abandonMoves_keeps | with_reducible apply State.clearDomain_keeps
    | with_reducible apply State.raise_keeps | with_reducible apply State.resetUnits_keeps | with_reducible apply State.restartPasses_keeps
    | with_reducible apply State.wr_keeps | with_reducible apply IoSt.wr_keeps | fail_if_no_progress with_reducible apply Keeps.upd
    | intro _

theorem State.setHewerBit_keeps {base : State} {s : State} {lo mid hi : Fld} {h : Nat} {b : Bool} (hss : Keeps base s) :
    Keeps base (State.setHewerBit s lo mid hi h b) := by
  unfold State.setHewerBit
  try dsimp only
  repeat' first
    | with_reducible assumption | with_reducible apply State.wr_keeps | with_reducible apply IoSt.wr_keeps
    | intro _

theorem State.enterHewerReset_keeps {base : State} {s : State} {h : Nat} (hss : Keeps base s) :
    Keeps base (State.enterHewerReset s h) := by
  unfold State.enterHewerReset
  try dsimp only
  repeat' first
    | with_reducible assumption | with_reducible apply State.abandonMoves_keeps | with_reducible apply State.raise_keeps
    | with_reducible apply State.setHewerBit_keeps | with_reducible apply State.wr_keeps | with_reducible apply IoSt.wr_keeps
    | fail_if_no_progress with_reducible apply Keeps.upd | intro _

/-- A CHIP reset keeps the queue, the time and the host's memory. -/
theorem State.chipReset_keeps {base : State} {s : State} {cause : Nat} (hss : Keeps base s) :
    Keeps base (State.chipReset s cause) := by
  unfold State.chipReset
  extract_lets r s1 s2 s3 s4
  have h1 : Keeps base s1 :=
    ⟨hss.pend, hss.time, hss.ctr, fun _ => by simp [s1, r, State.reset, dcoOk, dcoLimit],
      fun k => ⟨(hss.io k).1, by simp [s1]⟩⟩
  have h2 : Keeps base s2 := Keeps.foldl (fun b x => State.wr_keeps (Keeps.refl b)) _ h1
  have h3 : Keeps base s3 := State.wr_keeps (State.wr_keeps h2)
  have h4 : Keeps base s4 := Keeps.foldl (fun b x => State.wr_keeps (Keeps.refl b)) _ h3
  exact State.raiseIf_keeps h4

theorem execRailUndervoltage_keeps {dt : Nat} {s : State}  :
    ∃ s', execRailUndervoltage dt s = .next s' ∧ Keeps s s' := by
  unfold execRailUndervoltage
  refine ⟨_, rfl, ?_⟩
  try dsimp only
  repeat' first
    | with_reducible assumption | with_reducible exact Keeps.refl _ | with_reducible apply State.chipReset_keeps
    | with_reducible apply State.elapse_keeps | intro _

theorem execPorstNLow_keeps {dt : Nat} {s : State}  :
    ∃ s', execPorstNLow dt s = .next s' ∧ Keeps s s' := by
  unfold execPorstNLow
  refine ⟨_, rfl, ?_⟩
  try dsimp only
  repeat' first
    | with_reducible assumption | with_reducible exact Keeps.refl _ | with_reducible apply State.chipReset_keeps
    | with_reducible apply State.elapse_keeps | intro _

theorem State.yieldFirst_keeps {base : State} {s : State} {l : List Nat} (hss : Keeps base s) :
    Keeps base (State.yieldFirst s l) := by
  unfold State.yieldFirst
  try dsimp only
  repeat' first
    | with_reducible assumption | with_reducible apply State.giveUp_keeps | with_reducible apply State.waitAddr_keeps
    | with_reducible apply Keeps.ite | intro _ | split

theorem State.accessBad_keeps {base : State} {s : State} {off be cause : Nat} (hss : Keeps base s) :
    Keeps base (State.accessBad s off be cause) := by
  unfold State.accessBad
  try dsimp only
  repeat' first
    | with_reducible assumption | with_reducible apply State.count_keeps | with_reducible apply State.raise_keeps
    | intro _

theorem State.writeRstReq_keeps {base : State} {s : State} {value : Nat} (hss : Keeps base s) :
    Keeps base (State.writeRstReq s value) := by
  unfold State.writeRstReq
  try dsimp only
  repeat' first
    | with_reducible assumption | with_reducible exact Keeps.refl _ | with_reducible apply State.accessBad_keeps
    | with_reducible apply State.chipReset_keeps | with_reducible apply State.count_keeps | with_reducible apply State.enterReset_keeps
    | with_reducible apply State.wr_keeps | with_reducible apply IoSt.wr_keeps | with_reducible apply State.yieldFirst_keeps
    | with_reducible apply Keeps.ite | with_reducible apply Keeps.foldl | intro _ | split

theorem State.writeHewerReq_keeps {base : State} {s : State} {third value : Nat} (hss : Keeps base s) :
    Keeps base (State.writeHewerReq s third value) := by
  unfold State.writeHewerReq
  try dsimp only
  repeat' first
    | with_reducible assumption | with_reducible exact Keeps.refl _ | with_reducible apply State.accessBad_keeps
    | with_reducible apply State.count_keeps | with_reducible apply State.enterHewerReset_keeps | with_reducible apply State.wr_keeps
    | with_reducible apply IoSt.wr_keeps | with_reducible apply Keeps.ite | with_reducible apply Keeps.foldl
    | intro _ | split

theorem execRstReq_keeps {dt value : Nat} {s : State}  :
    ∃ s', execRstReq dt value s = .next s' ∧ Keeps s s' := by
  unfold execRstReq
  refine ⟨_, rfl, ?_⟩
  try dsimp only
  repeat' first
    | with_reducible assumption | with_reducible exact Keeps.refl _ | with_reducible apply State.elapse_keeps
    | with_reducible apply State.writeRstReq_keeps | with_reducible apply Keeps.ite | intro _ | split

theorem execRstHewerReq_keeps {dt third value : Nat} {s : State}  :
    ∃ s', execRstHewerReq dt third value s = .next s' ∧ Keeps s s' := by
  unfold execRstHewerReq
  refine ⟨_, rfl, ?_⟩
  try dsimp only
  repeat' first
    | with_reducible assumption | with_reducible exact Keeps.refl _ | with_reducible apply State.elapse_keeps
    | with_reducible apply State.writeHewerReq_keeps | with_reducible apply Keeps.ite | intro _ | split

theorem execHifDomainReset_keeps {dt : Nat} {s : State}  :
    ∃ s', execHifDomainReset dt s = .next s' ∧ Keeps s s' := by
  unfold execHifDomainReset
  refine ⟨_, rfl, ?_⟩
  try dsimp only
  repeat' first
    | with_reducible assumption | with_reducible exact Keeps.refl _ | with_reducible apply State.elapse_keeps
    | with_reducible apply State.enterReset_keeps | with_reducible apply Keeps.ite | intro _ | split

theorem State.linkChange_keeps {base : State} {s1 : State} {up : Bool} {speed width : Nat} (hss1 : Keeps base s1) :
    Keeps base (State.linkChange s1 up speed width) := by
  unfold State.linkChange
  try dsimp only
  repeat' first
    | with_reducible assumption | with_reducible apply State.enterReset_keeps | with_reducible apply State.raise_keeps
    | with_reducible apply State.wr_keeps | with_reducible apply IoSt.wr_keeps | with_reducible apply State.wrBit_keeps
    | with_reducible apply Keeps.ite | fail_if_no_progress with_reducible apply Keeps.upd | fail_if_no_progress with_reducible apply Keeps.updIo
    | with_reducible apply ioOk.ite | fail_if_no_progress with_reducible apply ioOk.upd | fail_if_no_progress with_reducible apply ioOk.updMem
    | fail_if_no_progress with_reducible apply ioOk.updEvq | fail_if_no_progress with_reducible apply ioOk.held
    | intro _ | split

theorem execPcieLinkChange_keeps {dt : Nat} {up : Bool} {speed width : Nat} {s : State}  :
    ∃ s', execPcieLinkChange dt up speed width s = .next s' ∧ Keeps s s' := by
  unfold execPcieLinkChange
  refine ⟨_, rfl, ?_⟩
  try dsimp only
  repeat' first
    | with_reducible assumption | with_reducible exact Keeps.refl _ | with_reducible apply State.elapse_keeps
    | with_reducible apply State.linkChange_keeps | intro _

theorem execPerstNRelease_keeps {dt speed width : Nat} {s : State}  :
    ∃ s', execPerstNRelease dt speed width s = .next s' ∧ Keeps s s' := by
  unfold execPerstNRelease
  refine ⟨_, rfl, ?_⟩
  try dsimp only
  repeat' first
    | with_reducible assumption | with_reducible exact Keeps.refl _ | with_reducible apply State.elapse_keeps
    | with_reducible apply State.linkChange_keeps | fail_if_no_progress with_reducible apply Keeps.upd
    | fail_if_no_progress with_reducible apply Keeps.updIo | with_reducible apply ioOk.ite | fail_if_no_progress with_reducible apply ioOk.upd
    | fail_if_no_progress with_reducible apply ioOk.updMem | fail_if_no_progress with_reducible apply ioOk.updEvq
    | fail_if_no_progress with_reducible apply ioOk.held | intro _

theorem State.norBad_keeps {base : State} {s : State} {copy reason : Nat} (hss : Keeps base s) :
    Keeps base (State.norBad s copy reason) := by
  unfold State.norBad
  try dsimp only
  repeat' first
    | with_reducible assumption | with_reducible apply State.raise_keeps | fail_if_no_progress with_reducible apply Keeps.upd
    | intro _

theorem State.loadNor_keeps {base : State} {s : State} (hss : Keeps base s) :
    Keeps base (State.loadNor s) := by
  unfold State.loadNor
  try dsimp only
  repeat' first
    | with_reducible assumption | with_reducible exact Keeps.refl _ | with_reducible apply State.norBad_keeps
    | with_reducible apply State.raise_keeps | with_reducible apply Keeps.ite | with_reducible apply Keeps.foldl
    | with_reducible apply Keeps.foldlFst | with_reducible apply Keeps.iteFst | split | fail_if_no_progress with_reducible apply Keeps.upd
    | intro _

theorem State.norConfigLoad_keeps {base : State} {s : State} (hss : Keeps base s) :
    Keeps base (State.norConfigLoad s) := by
  unfold State.norConfigLoad
  try dsimp only
  repeat' first
    | with_reducible assumption | with_reducible exact Keeps.refl _ | with_reducible apply State.loadNor_keeps
    | with_reducible apply State.norBad_keeps | with_reducible apply Keeps.ite | with_reducible apply Keeps.foldl
    | split | fail_if_no_progress with_reducible apply Keeps.upd | intro _

theorem State.afterRelease_keeps {base : State} {s : State} {d : Nat} (hss : Keeps base s) :
    Keeps base (State.afterRelease s d) := by
  unfold State.afterRelease
  try dsimp only
  repeat' first
    | with_reducible assumption | with_reducible exact Keeps.refl _ | with_reducible apply State.norConfigLoad_keeps
    | with_reducible apply State.raise_keeps | with_reducible apply Keeps.ite | with_reducible apply Keeps.iteFst
    | split | fail_if_no_progress with_reducible apply Keeps.upd | intro _

theorem execResetReleased_keeps {dt unit : Nat} {s : State}  :
    ∃ s', execResetReleased dt unit s = .next s' ∧ Keeps s s' := by
  unfold execResetReleased
  refine ⟨_, rfl, ?_⟩
  try dsimp only
  repeat' first
    | with_reducible assumption | with_reducible exact Keeps.refl _ | with_reducible apply State.afterRelease_keeps
    | with_reducible apply State.draw_keeps | with_reducible apply State.elapse_keeps | with_reducible apply State.enterHewerReset_keeps
    | with_reducible apply State.enterReset_keeps | with_reducible apply State.raise_keeps | with_reducible apply State.setHewerBit_keeps
    | with_reducible apply State.startOverman_keeps | with_reducible apply State.wr_keeps | with_reducible apply IoSt.wr_keeps
    | with_reducible apply Keeps.ite | intro _ | split

end Sys2Proof.Machine
end

