-- ==== Sys2Proof/Laws/KeepsRegisters.lean ====
section
/-! SUPPORT. What the operations of Machine/Registers.lean keep. -/

set_option Elab.async false

namespace Sys2Proof.Machine

theorem State.stage_keeps {base : State} {s : State} {f : Fld} {i v : Nat} (hss : Keeps base s) :
    Keeps base (State.stage s f i v) := by
  unfold State.stage
  try dsimp only
  repeat' first
    | with_reducible assumption | with_reducible exact Keeps.refl _ | with_reducible apply Keeps.ite | with_reducible apply Keeps.iteFst
    | fail_if_no_progress with_reducible apply Keeps.upd | intro _ | split

theorem State.raiseEpoch_keeps {base : State} {s : State} {v : Nat} (hss : Keeps base s) :
    Keeps base (State.raiseEpoch s v) := by
  unfold State.raiseEpoch
  try dsimp only
  repeat' first
    | with_reducible assumption | with_reducible apply State.wr_keeps | with_reducible apply IoSt.wr_keeps
    | with_reducible apply Keeps.ite | fail_if_no_progress with_reducible apply Keeps.upd | intro _ | split

theorem State.lockField_keeps {base : State} {s : State} {f : Fld} {i v : Nat} (hss : Keeps base s) :
    Keeps base (State.lockField s f i v) := by
  unfold State.lockField
  try dsimp only
  repeat' first
    | with_reducible assumption | with_reducible apply State.raiseEpoch_keeps | with_reducible apply State.wr_keeps
    | with_reducible apply IoSt.wr_keeps | with_reducible apply Keeps.ite | fail_if_no_progress with_reducible apply Keeps.upd
    | intro _ | split

theorem State.hostLock_keeps {base : State} {s : State} {off : Nat} {f : Fld} {i v : Nat} (hss : Keeps base s) :
    Keeps base (State.hostLock s off f i v) := by
  unfold State.hostLock
  try dsimp only
  repeat' first
    | with_reducible assumption | with_reducible apply State.count_keeps | with_reducible apply State.lockField_keeps
    | with_reducible apply State.raiseLim_keeps | with_reducible apply Keeps.ite | intro _ | split

theorem State.cmdEnabled_keeps {base : State} {s : State} {n : Nat} (hss : Keeps base s) :
    Keeps base (State.cmdEnabled s n) := by
  unfold State.cmdEnabled
  try dsimp only
  repeat' first
    | with_reducible assumption | with_reducible exact Keeps.refl _ | with_reducible apply State.wr_keeps
    | with_reducible apply IoSt.wr_keeps | with_reducible apply Keeps.iteFst | fail_if_no_progress with_reducible apply Keeps.upd
    | fail_if_no_progress with_reducible apply Keeps.updIo | with_reducible apply ioOk.ite | fail_if_no_progress with_reducible apply ioOk.upd
    | fail_if_no_progress with_reducible apply ioOk.updMem | fail_if_no_progress with_reducible apply ioOk.updEvq
    | fail_if_no_progress with_reducible apply ioOk.held | intro _

theorem State.cplEnabled_keeps {base : State} {s : State} {n : Nat} (hss : Keeps base s) :
    Keeps base (State.cplEnabled s n) := by
  unfold State.cplEnabled
  try dsimp only
  repeat' first
    | with_reducible assumption | with_reducible apply State.wr_keeps | with_reducible apply IoSt.wr_keeps
    | fail_if_no_progress with_reducible apply Keeps.upd | fail_if_no_progress with_reducible apply Keeps.updIo
    | with_reducible apply ioOk.ite | fail_if_no_progress with_reducible apply ioOk.upd | fail_if_no_progress with_reducible apply ioOk.updMem
    | fail_if_no_progress with_reducible apply ioOk.updEvq | fail_if_no_progress with_reducible apply ioOk.held
    | intro _

theorem State.evqEnabled_keeps {base : State} {s : State} {n : Nat} (hss : Keeps base s) :
    Keeps base (State.evqEnabled s n) := by
  unfold State.evqEnabled
  try dsimp only
  repeat' first
    | with_reducible assumption | with_reducible apply State.wr_keeps | with_reducible apply IoSt.wr_keeps
    | fail_if_no_progress with_reducible apply Keeps.upd | fail_if_no_progress with_reducible apply Keeps.updIo
    | with_reducible apply ioOk.ite | fail_if_no_progress with_reducible apply ioOk.upd | fail_if_no_progress with_reducible apply ioOk.updMem
    | fail_if_no_progress with_reducible apply ioOk.updEvq | fail_if_no_progress with_reducible apply ioOk.held
    | intro _

theorem State.cplDisabled_keeps {base : State} {s : State} {n : Nat} (hss : Keeps base s) :
    Keeps base (State.cplDisabled s n) := by
  unfold State.cplDisabled
  try dsimp only
  repeat' first
    | with_reducible assumption | with_reducible exact Keeps.refl _ | with_reducible apply State.countBy_keeps
    | with_reducible apply IoSt.countBy_keeps | with_reducible apply Keeps.ite | fail_if_no_progress with_reducible apply Keeps.upd
    | fail_if_no_progress with_reducible apply Keeps.updIo | with_reducible apply ioOk.ite | fail_if_no_progress with_reducible apply ioOk.upd
    | fail_if_no_progress with_reducible apply ioOk.updMem | fail_if_no_progress with_reducible apply ioOk.updEvq
    | fail_if_no_progress with_reducible apply ioOk.held | intro _ | split

theorem State.onEdge_keeps {base : State} {old new : State} {f : Fld} {n : Nat} {rise fall : State → State} (hsnew : Keeps base new) (hrise : ∀ b, Keeps b (rise b)) (hfall : ∀ b, Keeps b (fall b)) :
    Keeps base (State.onEdge old new f n rise fall) := by
  unfold State.onEdge
  try dsimp only
  repeat' first
    | with_reducible assumption | with_reducible exact Keeps.refl _ | with_reducible refine Keeps.trans ?_ (hrise _)
    | with_reducible refine Keeps.trans ?_ (hfall _) | with_reducible apply Keeps.ite | intro _ | split

theorem State.chansChanged_keeps {base : State} {old new : State} (hsnew : Keeps base new) :
    Keeps base (State.chansChanged old new) := by
  unfold State.chansChanged
  try dsimp only
  repeat' first
    | with_reducible assumption | with_reducible exact Keeps.refl _ | with_reducible apply State.resetChan_keeps
    | with_reducible apply Keeps.ite | with_reducible apply Keeps.foldl | fail_if_no_progress with_reducible apply Keeps.upd
    | intro _ | split

theorem State.doorbellMoved_keeps {base : State} {old new : State} (hsnew : Keeps base new) :
    Keeps base (State.doorbellMoved old new) := by
  unfold State.doorbellMoved
  try dsimp only
  repeat' first
    | with_reducible assumption | with_reducible apply Keeps.ite | split | fail_if_no_progress with_reducible apply Keeps.upd
    | intro _

theorem State.afterWrite_keeps {base : State} {old new : State} {off : Nat} (hsnew : Keeps base new) :
    Keeps base (State.afterWrite old new off) := by
  have k := fun b => Keeps.refl b
  exact Keeps.ite (State.doorbellMoved_keeps hsnew) (Keeps.ite (State.chansChanged_keeps hsnew)
    (Keeps.ite (State.applyTaps_keeps hsnew) (Keeps.ite (Keeps.ite hsnew (State.pmEnChanged_keeps hsnew))
      (Keeps.ite (State.onEdge_keeps hsnew (fun b => Keeps.updIo (k b) (fun x => x)) k)
        (Keeps.ite (State.onEdge_keeps hsnew (fun b => State.cmdEnabled_keeps (k b)) k)
          (Keeps.ite (State.onEdge_keeps hsnew (fun b => State.cplEnabled_keeps (k b)) (fun b => State.cplDisabled_keeps (k b)))
            (Keeps.ite (State.onEdge_keeps hsnew (fun b => State.evqEnabled_keeps (k b)) k) hsnew)))))))

theorem State.hostField_keeps {base : State} {s : State} {off value : Nat} {f : Fld} {i : Nat} (hss : Keeps base s) :
    Keeps base (State.hostField s off value f i) := by
  unfold State.hostField
  try dsimp only
  repeat' first
    | with_reducible assumption | with_reducible apply State.hostLock_keeps | with_reducible apply State.stage_keeps
    | with_reducible apply State.wr_keeps | with_reducible apply IoSt.wr_keeps | with_reducible apply Keeps.ite
    | split | fail_if_no_progress with_reducible apply Keeps.upd | fail_if_no_progress with_reducible apply Keeps.updIo
    | with_reducible apply ioOk.ite | fail_if_no_progress with_reducible apply ioOk.upd | fail_if_no_progress with_reducible apply ioOk.updMem
    | fail_if_no_progress with_reducible apply ioOk.updEvq | fail_if_no_progress with_reducible apply ioOk.held
    | intro _

theorem State.hostFields_keeps {base : State} {s : State} {off value : Nat} (hss : Keeps base s) :
    Keeps base (State.hostFields s off value) := by
  unfold State.hostFields
  try dsimp only
  repeat' first
    | with_reducible assumption | with_reducible exact Keeps.refl _ | with_reducible apply State.afterWrite_keeps
    | with_reducible apply State.hostField_keeps | with_reducible apply Keeps.foldl | with_reducible apply Keeps.foldlFst
    | with_reducible apply Keeps.iteFst | intro _

theorem State.writeMsix_keeps {base : State} {s : State} {k value : Nat} (hss : Keeps base s) :
    Keeps base (State.writeMsix s k value) := by
  unfold State.writeMsix
  try dsimp only
  repeat' first
    | with_reducible assumption | with_reducible apply IoSt.sendMsg_keeps | with_reducible apply Keeps.ite
    | fail_if_no_progress with_reducible apply Keeps.upd | fail_if_no_progress with_reducible apply Keeps.updIo
    | with_reducible apply ioOk.ite | fail_if_no_progress with_reducible apply ioOk.upd | fail_if_no_progress with_reducible apply ioOk.updMem
    | fail_if_no_progress with_reducible apply ioOk.updEvq | fail_if_no_progress with_reducible apply ioOk.held
    | intro _ | split

theorem State.writeTst_keeps {base : State} {s : State} {value : Nat} (hss : Keeps base s) :
    Keeps base (State.writeTst s value) := by
  unfold State.writeTst
  try dsimp only
  repeat' first
    | with_reducible assumption | with_reducible apply State.raise_keeps | with_reducible apply State.wr_keeps
    | with_reducible apply IoSt.wr_keeps | with_reducible apply Keeps.ite | split | fail_if_no_progress with_reducible apply Keeps.upd
    | intro _

theorem State.tstWait_keeps {base : State} {s : State} (hss : Keeps base s) :
    Keeps base (State.tstWait s) := by
  unfold State.tstWait
  try dsimp only
  repeat' first
    | with_reducible assumption | with_reducible apply State.tstTake_keeps | with_reducible apply State.waitAddr_keeps
    | split | fail_if_no_progress with_reducible apply Keeps.upd | intro _

theorem execTstArm_keeps {dt value : Nat} {s : State}  :
    ∃ s', execTstArm dt value s = .next s' ∧ Keeps s s' := by
  unfold execTstArm
  refine ⟨_, rfl, ?_⟩
  try dsimp only
  repeat' first
    | with_reducible assumption | with_reducible exact Keeps.refl _ | with_reducible apply State.elapse_keeps
    | with_reducible apply State.tstWait_keeps | with_reducible apply State.writeTst_keeps | with_reducible apply Keeps.ite
    | intro _ | split

theorem execShadowLoRead_keeps {dt off : Nat} {s : State}  :
    ∃ s', execShadowLoRead dt off s = .next s' ∧ Keeps s s' := by
  unfold execShadowLoRead
  refine ⟨_, rfl, ?_⟩
  try dsimp only
  repeat' first
    | with_reducible assumption | with_reducible exact Keeps.refl _ | with_reducible apply State.elapse_keeps
    | with_reducible apply Keeps.ite | with_reducible apply Keeps.foldl | with_reducible apply Keeps.foldlFst
    | with_reducible apply Keeps.iteFst | split | fail_if_no_progress with_reducible apply Keeps.upd | intro _

theorem State.triFix_keeps {base : State} {s : State} {e : TriError} (hss : Keeps base s) :
    Keeps base (State.triFix s e) := by
  unfold State.triFix
  try dsimp only
  repeat' first
    | with_reducible assumption | with_reducible exact Keeps.refl _ | with_reducible apply State.count_keeps
    | with_reducible apply State.raise_keeps | with_reducible apply State.wr_keeps | with_reducible apply IoSt.wr_keeps
    | with_reducible apply Keeps.iteFst | split | fail_if_no_progress with_reducible apply Keeps.upd | intro _

theorem execTriScrub_keeps {dt : Nat} {l : List TriError} {s : State}  :
    ∃ s', execTriScrub dt l s = .next s' ∧ Keeps s s' := by
  unfold execTriScrub
  refine ⟨_, rfl, ?_⟩
  try dsimp only
  repeat' first
    | with_reducible assumption | with_reducible exact Keeps.refl _ | with_reducible apply State.toBoundary_keeps
    | with_reducible apply State.triFix_keeps | with_reducible apply Keeps.ite | with_reducible apply Keeps.foldl
    | intro _ | split

end Sys2Proof.Machine
end

