-- ==== Sys2Proof/Laws/KeepsCommit.lean ====
section
/-! SUPPORT. What the operations of Machine/Commit.lean keep. -/

set_option Elab.async false

namespace Sys2Proof.Machine

theorem State.discardGroups_keeps {base : State} {s : State} {mask : Nat} (hss : Keeps base s) :
    Keeps base (State.discardGroups s mask) := by
  unfold State.discardGroups
  try dsimp only
  repeat' first
    | with_reducible assumption | with_reducible exact Keeps.refl _ | with_reducible apply Keeps.iteFst
    | fail_if_no_progress with_reducible apply Keeps.upd | intro _

theorem State.makeDiscards_keeps {base : State} {s : State} (hss : Keeps base s) :
    Keeps base (State.makeDiscards s) := by
  unfold State.makeDiscards
  try dsimp only
  repeat' first
    | with_reducible assumption | with_reducible exact Keeps.refl _ | with_reducible apply State.discardGroups_keeps
    | with_reducible apply State.done_keeps | with_reducible apply State.wr_keeps | with_reducible apply IoSt.wr_keeps
    | with_reducible apply Keeps.foldl | with_reducible apply Keeps.foldlFst | with_reducible apply Keeps.iteFst
    | fail_if_no_progress with_reducible apply Keeps.upd | intro _

theorem State.rejectCommit_keeps {base : State} {s : State} {mask : Nat} {fail : Nat × Nat × Nat} {asks : List (Nat × HostRef)} (hss : Keeps base s) :
    Keeps base (State.rejectCommit s mask fail asks) := by
  unfold State.rejectCommit
  try dsimp only
  repeat' first
    | with_reducible assumption | with_reducible exact Keeps.refl _ | with_reducible apply State.complete_keeps
    | with_reducible apply State.count_keeps | with_reducible apply State.say_keeps | with_reducible apply State.wr_keeps
    | with_reducible apply IoSt.wr_keeps | with_reducible apply Keeps.foldl | with_reducible apply Keeps.foldlFst
    | with_reducible apply Keeps.iteFst | intro _

theorem State.rejectHalted_keeps {base : State} {s : State} {mask : Nat} {asks : List (Nat × HostRef)} (hss : Keeps base s) :
    Keeps base (State.rejectHalted s mask asks) := by
  unfold State.rejectHalted
  try dsimp only
  repeat' first
    | with_reducible assumption | with_reducible apply State.rejectCommit_keeps | intro _

theorem State.writeCommit_keeps {base : State} {s : State} {value : Nat} (hss : Keeps base s) :
    Keeps base (State.writeCommit s value) := by
  unfold State.writeCommit
  try dsimp only
  repeat' first
    | with_reducible assumption | with_reducible exact Keeps.refl _ | with_reducible apply State.rejectHalted_keeps
    | with_reducible apply State.wr_keeps | with_reducible apply IoSt.wr_keeps | with_reducible apply Keeps.ite
    | with_reducible apply Keeps.iteFst | fail_if_no_progress with_reducible apply Keeps.upd | intro _
    | split

theorem execGlbCommit_keeps {dt value : Nat} {s : State}  :
    ∃ s', execGlbCommit dt value s = .next s' ∧ Keeps s s' := by
  unfold execGlbCommit
  refine ⟨_, rfl, ?_⟩
  try dsimp only
  repeat' first
    | with_reducible assumption | with_reducible exact Keeps.refl _ | with_reducible apply State.elapse_keeps
    | with_reducible apply State.writeCommit_keeps | with_reducible apply Keeps.ite | intro _ | split

theorem State.writeDiscard_keeps {base : State} {s : State} {value : Nat} (hss : Keeps base s) :
    Keeps base (State.writeDiscard s value) := by
  unfold State.writeDiscard
  try dsimp only
  repeat' first
    | with_reducible assumption | with_reducible apply State.makeDiscards_keeps | with_reducible apply State.waitAddr_keeps
    | with_reducible apply State.wr_keeps | with_reducible apply IoSt.wr_keeps | with_reducible apply Keeps.ite
    | intro _ | split

theorem execGlbDiscard_keeps {dt value : Nat} {s : State}  :
    ∃ s', execGlbDiscard dt value s = .next s' ∧ Keeps s s' := by
  unfold execGlbDiscard
  refine ⟨_, rfl, ?_⟩
  try dsimp only
  repeat' first
    | with_reducible assumption | with_reducible exact Keeps.refl _ | with_reducible apply State.elapse_keeps
    | with_reducible apply State.writeDiscard_keeps | with_reducible apply Keeps.ite | intro _ | split

theorem execRegCommit_keeps {dt : Nat} {h : HostRef} {mask : Nat} {s : State}  :
    ∃ s', execRegCommit dt h mask s = .next s' ∧ Keeps s s' := by
  unfold execRegCommit
  refine ⟨_, rfl, ?_⟩
  try dsimp only
  repeat' first
    | with_reducible assumption | with_reducible exact Keeps.refl _ | with_reducible apply State.command_keeps
    | with_reducible apply State.refuse_keeps | with_reducible apply State.rejectHalted_keeps | with_reducible apply Keeps.ite
    | fail_if_no_progress with_reducible apply Keeps.upd | intro _ | split

theorem execRegDiscard_keeps {dt : Nat} {h : HostRef} {mask : Nat} {s : State}  :
    ∃ s', execRegDiscard dt h mask s = .next s' ∧ Keeps s s' := by
  unfold execRegDiscard
  refine ⟨_, rfl, ?_⟩
  try dsimp only
  repeat' first
    | with_reducible assumption | with_reducible exact Keeps.refl _ | with_reducible apply State.command_keeps
    | with_reducible apply State.makeDiscards_keeps | with_reducible apply State.refuse_keeps | with_reducible apply State.waitAddr_keeps
    | with_reducible apply Keeps.ite | fail_if_no_progress with_reducible apply Keeps.upd | intro _ | split

theorem State.afterCommit_keeps {base : State} {s : State} {old : State} {g : Nat} (hss : Keeps base s) :
    Keeps base (State.afterCommit s old g) := by
  unfold State.afterCommit
  try dsimp only
  repeat' first
    | with_reducible assumption | with_reducible exact Keeps.refl _ | with_reducible apply State.laneRestart_keeps
    | with_reducible apply State.trbRestart_keeps | with_reducible apply Keeps.ite | with_reducible apply Keeps.foldl
    | intro _ | split

theorem State.activate_keeps {base : State} {s : State} {mask : Nat} {t : Tab Nat} (hss : Keeps base s) :
    Keeps base (State.activate s mask t) := by
  unfold State.activate
  try dsimp only
  repeat' first
    | with_reducible assumption | with_reducible exact Keeps.refl _ | with_reducible apply State.wr_keeps
    | with_reducible apply IoSt.wr_keeps | with_reducible apply Keeps.ite | with_reducible apply Keeps.foldl
    | with_reducible apply Keeps.foldlFst | with_reducible apply Keeps.iteFst | split | fail_if_no_progress with_reducible apply Keeps.upd
    | intro _

theorem State.measureCmt_keeps {base : State} {s : State} (hss : Keeps base s) :
    Keeps base (State.measureCmt s) := by
  unfold State.measureCmt
  try dsimp only
  repeat' first
    | with_reducible assumption | with_reducible exact Keeps.refl _ | with_reducible apply State.extend_keeps
    | with_reducible apply Keeps.iteFst | intro _

theorem State.applyRecord_keeps {base : State} {s : State} {e : Nat × Nat} (hss : Keeps base s) :
    Keeps base (State.applyRecord s e) := by
  unfold State.applyRecord
  try dsimp only
  repeat' first
    | with_reducible assumption | with_reducible exact Keeps.refl _ | with_reducible apply State.afterWrite_keeps
    | with_reducible apply State.lockField_keeps | with_reducible apply State.wr_keeps | with_reducible apply IoSt.wr_keeps
    | with_reducible apply State.writeTst_keeps | with_reducible apply Keeps.ite | with_reducible apply Keeps.foldl
    | with_reducible apply Keeps.foldlFst | with_reducible apply Keeps.iteFst | split | fail_if_no_progress with_reducible apply Keeps.upd
    | intro _

theorem State.rejectLoad_keeps {base : State} {s : State} {l : CfgLoad} {reason serial : Nat} {more : List (Nat × Nat)} (hss : Keeps base s) :
    Keeps base (State.rejectLoad s l reason serial more) := by
  unfold State.rejectLoad
  try dsimp only
  repeat' first
    | with_reducible assumption | with_reducible apply State.loadNor_keeps | with_reducible apply State.norBad_keeps
    | with_reducible apply State.refuse_keeps | with_reducible apply State.say_keeps | with_reducible apply Keeps.ite
    | split | fail_if_no_progress with_reducible apply Keeps.upd | intro _

theorem State.setInForce_keeps {base : State} {s : State} {l : CfgLoad} {c : ConfigSet} (hss : Keeps base s) :
    Keeps base (State.setInForce s l c) := by
  unfold State.setInForce
  try dsimp only
  repeat' first
    | with_reducible assumption | with_reducible exact Keeps.refl _ | with_reducible apply State.applyRecord_keeps
    | with_reducible apply State.complete_keeps | with_reducible apply State.laneRestart_keeps | with_reducible apply State.say_keeps
    | with_reducible apply State.setTxIdle_keeps | with_reducible apply Keeps.ite | with_reducible apply Keeps.foldl
    | split | fail_if_no_progress with_reducible apply Keeps.upd | intro _

theorem State.finishSet_keeps {base : State} {s : State} {fail : Option (Nat × Nat × Nat)} (hss : Keeps base s) :
    Keeps base (State.finishSet s fail) := by
  unfold State.finishSet
  try dsimp only
  repeat' first
    | with_reducible assumption | with_reducible apply State.discardGroups_keeps | with_reducible apply State.rejectLoad_keeps
    | with_reducible apply State.setInForce_keeps | with_reducible apply Keeps.iteFst | split | fail_if_no_progress with_reducible apply Keeps.upd
    | intro _

theorem State.outcome_keeps {base : State} {s : State} {r : CommitRun} (hss : Keeps base s) :
    Keeps base (State.outcome s r) := by
  unfold State.outcome
  try dsimp only
  repeat' first
    | with_reducible assumption | with_reducible exact Keeps.refl _ | with_reducible apply State.activate_keeps
    | with_reducible apply State.afterCommit_keeps | with_reducible apply State.complete_keeps | with_reducible apply State.count_keeps
    | with_reducible apply State.finishSet_keeps | with_reducible apply State.makeDiscards_keeps | with_reducible apply State.measureCmt_keeps
    | with_reducible apply State.rejectCommit_keeps | with_reducible apply State.say_keeps | with_reducible apply State.wr_keeps
    | with_reducible apply IoSt.wr_keeps | with_reducible apply Keeps.ite | with_reducible apply Keeps.foldl
    | split | fail_if_no_progress with_reducible apply Keeps.upd | intro _

theorem execCommitOutcome_keeps {dt : Nat} {s : State}  :
    ∃ s', execCommitOutcome dt s = .next s' ∧ Keeps s s' := by
  unfold execCommitOutcome
  refine ⟨_, rfl, ?_⟩
  try dsimp only
  repeat' first
    | with_reducible assumption | with_reducible exact Keeps.refl _ | with_reducible apply State.elapse_keeps
    | with_reducible apply State.outcome_keeps | with_reducible apply State.waitAddr_keeps | with_reducible apply Keeps.ite
    | split | fail_if_no_progress with_reducible apply Keeps.upd | intro _

theorem execCommitSnapshot_keeps {dt : Nat} {bad : Option Nat} {s : State}  :
    ∃ s', execCommitSnapshot dt bad s = .next s' ∧ Keeps s s' := by
  unfold execCommitSnapshot
  refine ⟨_, rfl, ?_⟩
  try dsimp only
  repeat' first
    | with_reducible assumption | with_reducible exact Keeps.refl _ | with_reducible apply State.outcome_keeps
    | with_reducible apply State.toBoundary_keeps | with_reducible apply State.wr_keeps | with_reducible apply IoSt.wr_keeps
    | with_reducible apply Keeps.ite | with_reducible apply Keeps.iteFst | split | fail_if_no_progress with_reducible apply Keeps.upd
    | intro _

end Sys2Proof.Machine
end

