-- ==== Sys2Proof/Laws/KeepsAssay.lean ====
section
/-! SUPPORT. What the operations of Machine/Assay.lean keep. -/

set_option Elab.async false

namespace Sys2Proof.Machine

theorem State.raiseOnceFolded_keeps {base : State} {s : State} {code n : Nat} {mk : Nat → List (Nat × Nat)} (hss : Keeps base s) :
    Keeps base (State.raiseOnceFolded s code n mk) := by
  unfold State.raiseOnceFolded
  try dsimp only
  repeat' first
    | with_reducible assumption | with_reducible apply State.raise_keeps | with_reducible apply State.raiseFolded_keeps
    | with_reducible apply Keeps.ite | split | fail_if_no_progress with_reducible apply Keeps.upd | fail_if_no_progress with_reducible apply Keeps.updIo
    | with_reducible apply ioOk.ite | fail_if_no_progress with_reducible apply ioOk.upd | fail_if_no_progress with_reducible apply ioOk.updMem
    | fail_if_no_progress with_reducible apply ioOk.updEvq | fail_if_no_progress with_reducible apply ioOk.held
    | intro _

theorem State.recordLost_keeps {base : State} {s : State} {c : Nat} (hss : Keeps base s) :
    Keeps base (State.recordLost s c) := by
  unfold State.recordLost
  try dsimp only
  repeat' first
    | with_reducible assumption | with_reducible apply State.dropTubs_keeps | with_reducible apply State.placeCipher_keeps
    | with_reducible apply State.setFramer_keeps | with_reducible apply State.startTubs_keeps | with_reducible apply Keeps.ite
    | split | fail_if_no_progress with_reducible apply Keeps.upd | intro _

theorem State.invalidate_keeps {base : State} {s : State} {n : Nat} (hss : Keeps base s) :
    Keeps base (State.invalidate s n) := by
  unfold State.invalidate
  try dsimp only
  repeat' first
    | with_reducible assumption | split | fail_if_no_progress with_reducible apply Keeps.upd | intro _

theorem State.cacheLost_keeps {base : State} {s : State} {c dir : Nat} (hss : Keeps base s) :
    Keeps base (State.cacheLost s c dir) := by
  unfold State.cacheLost
  try dsimp only
  repeat' first
    | with_reducible assumption | with_reducible exact Keeps.refl _ | with_reducible apply State.setCip_keeps
    | with_reducible apply State.wantKey_keeps | with_reducible apply Keeps.ite | with_reducible apply Keeps.foldl
    | split | fail_if_no_progress with_reducible apply Keeps.upd | intro _

theorem State.slotLost_keeps {base : State} {s : State} {k : Nat} (hss : Keeps base s) :
    Keeps base (State.slotLost s k) := by
  unfold State.slotLost
  try dsimp only
  repeat' first
    | with_reducible assumption | with_reducible exact Keeps.refl _ | with_reducible apply State.stopDir_keeps
    | with_reducible apply Keeps.foldl | with_reducible apply Keeps.foldlFst | with_reducible apply Keeps.iteFst
    | intro _

theorem State.resetHewer_keeps {base : State} {s : State} {h : Nat} (hss : Keeps base s) :
    Keeps base (State.resetHewer s h) := by
  unfold State.resetHewer
  try dsimp only
  repeat' first
    | with_reducible assumption | with_reducible apply State.enterHewerReset_keeps | with_reducible apply Keeps.ite
    | intro _ | split

theorem State.strandAll_keeps {base : State} {s : State} (hss : Keeps base s) :
    Keeps base (State.strandAll s) := by
  unfold State.strandAll
  try dsimp only
  repeat' first
    | with_reducible assumption | with_reducible exact Keeps.refl _ | with_reducible apply Keeps.ite | with_reducible apply Keeps.iteFst
    | fail_if_no_progress with_reducible apply Keeps.upd | intro _ | split

theorem State.sramAction_keeps {base : State} {s : State} {kind num : Nat} (hss : Keeps base s) :
    Keeps base (State.sramAction s kind num) := by
  unfold State.sramAction
  try dsimp only
  repeat' first
    | with_reducible assumption | with_reducible apply State.cacheLost_keeps | with_reducible apply State.invalidate_keeps
    | with_reducible apply State.raise_keeps | with_reducible apply State.recordLost_keeps | with_reducible apply State.resetHewer_keeps
    | with_reducible apply State.resetQueue_keeps | with_reducible apply State.slotLost_keeps | with_reducible apply State.strandAll_keeps
    | split | fail_if_no_progress with_reducible apply Keeps.upd | intro _

theorem State.sramBad_keeps {base : State} {s : State} {addr kind num : Nat} (hss : Keeps base s) :
    Keeps base (State.sramBad s addr kind num) := by
  unfold State.sramBad
  try dsimp only
  repeat' first
    | with_reducible assumption | with_reducible apply State.chipReset_keeps | with_reducible apply State.count_keeps
    | with_reducible apply State.raise_keeps | with_reducible apply State.selfFault_keeps | with_reducible apply State.sramAction_keeps
    | with_reducible apply Keeps.ite | intro _ | split

theorem State.setPass_keeps {base : State} {s : State} {u : Nat} {p : PassSt} (hss : Keeps base s) :
    Keeps base (State.setPass s u p) := by
  unfold State.setPass
  try dsimp only
  repeat' first
    | with_reducible assumption | fail_if_no_progress with_reducible apply Keeps.upd | intro _

theorem State.startPass_keeps {base : State} {s : State} {u : Nat} (hss : Keeps base s) :
    Keeps base (State.startPass s u) := by
  unfold State.startPass
  try dsimp only
  repeat' first
    | with_reducible assumption | with_reducible apply State.setPass_keeps | with_reducible apply State.wr_keeps
    | with_reducible apply IoSt.wr_keeps | intro _

theorem State.checksDone_keeps {base : State} {s : State} {u : Nat} (hss : Keeps base s) :
    Keeps base (State.checksDone s u) := by
  unfold State.checksDone
  try dsimp only
  repeat' first
    | with_reducible assumption | with_reducible exact Keeps.refl _ | with_reducible apply State.done_keeps
    | with_reducible apply Keeps.foldl | with_reducible apply Keeps.foldlFst | with_reducible apply Keeps.iteFst
    | fail_if_no_progress with_reducible apply Keeps.upd | intro _

theorem State.nextGranule_keeps {base : State} {s : State} {g : Granule} (hss : Keeps base s) :
    Keeps base (State.nextGranule s g) := by
  unfold State.nextGranule
  try dsimp only
  repeat' first
    | with_reducible assumption | with_reducible apply State.checksDone_keeps | with_reducible apply State.count_keeps
    | with_reducible apply State.setPass_keeps | with_reducible apply State.startPass_keeps | with_reducible apply State.wr_keeps
    | with_reducible apply IoSt.wr_keeps | with_reducible apply Keeps.ite | fail_if_no_progress with_reducible apply Keeps.upd
    | intro _ | split

theorem State.mismatch_keeps {base : State} {s : State} {g : Granule} {sum cause : Nat} (hss : Keeps base s) :
    Keeps base (State.mismatch s g sum cause) := by
  unfold State.mismatch
  try dsimp only
  repeat' first
    | with_reducible assumption | with_reducible apply State.count_keeps | with_reducible apply State.ovmRestart_keeps
    | with_reducible apply State.raise_keeps | with_reducible apply State.recordLost_keeps | with_reducible apply State.resetHewer_keeps
    | with_reducible apply State.selfFault_keeps | with_reducible apply Keeps.ite | split | fail_if_no_progress with_reducible apply Keeps.upd
    | intro _

theorem State.passed_keeps {base : State} {s : State} {g : Granule} (hss : Keeps base s) :
    Keeps base (State.passed s g) := by
  unfold State.passed
  try dsimp only
  repeat' first
    | with_reducible assumption | with_reducible exact Keeps.refl _ | with_reducible apply State.count_keeps
    | with_reducible apply State.raiseOnceFolded_keeps | with_reducible apply Keeps.ite | intro _ | split

theorem State.passOrAlter_keeps {base : State} {s : State} {g : Granule} {sum : Nat} {pass : State → State} (hss : Keeps base s) (hpass : ∀ b, Keeps b (pass b)) :
    Keeps base (State.passOrAlter s g sum pass) := by
  unfold State.passOrAlter
  try dsimp only
  repeat' first
    | with_reducible assumption | with_reducible exact Keeps.refl _ | with_reducible refine Keeps.trans ?_ (hpass _)
    | with_reducible refine State.alterCheck_keepsAs ?_ (by with_reducible assumption) | with_reducible apply State.alterCheck_keeps
    | with_reducible apply State.mismatch_keeps | with_reducible apply Keeps.ite | with_reducible apply Keeps.iteFst
    | intro _ | split

theorem State.compare_keeps {base : State} {s : State} {g : Granule} (hss : Keeps base s) :
    Keeps base (State.compare s g) := by
  unfold State.compare
  try dsimp only
  repeat' first
    | with_reducible assumption | with_reducible exact Keeps.refl _ | with_reducible apply State.count_keeps
    | with_reducible apply State.mismatch_keeps | with_reducible apply State.passOrAlter_keeps | with_reducible apply State.passed_keeps
    | with_reducible apply State.raise_keeps | with_reducible apply State.sramBad_keeps | with_reducible apply Keeps.ite
    | intro _ | split

theorem State.abandonGranule_keeps {base : State} {s : State} {g : Granule} (hss : Keeps base s) :
    Keeps base (State.abandonGranule s g) := by
  unfold State.abandonGranule
  try dsimp only
  repeat' first
    | with_reducible assumption | with_reducible apply State.count_keeps | with_reducible apply State.nextGranule_keeps
    | with_reducible apply State.raise_keeps | with_reducible apply State.setPass_keeps | with_reducible apply Keeps.ite
    | fail_if_no_progress with_reducible apply Keeps.upd | intro _ | split

theorem execAssayGranuleCheck_keeps {dt : Nat} {g : Granule} {s : State}  :
    ∃ s', execAssayGranuleCheck dt g s = .next s' ∧ Keeps s s' := by
  unfold execAssayGranuleCheck
  refine ⟨_, rfl, ?_⟩
  try dsimp only
  repeat' first
    | with_reducible assumption | with_reducible exact Keeps.refl _ | with_reducible apply State.abandonGranule_keeps
    | with_reducible apply State.compare_keeps | with_reducible apply State.draw_keeps | with_reducible apply State.elapse_keeps
    | with_reducible apply State.nextGranule_keeps | with_reducible apply Keeps.ite | intro _ | split

theorem execAssayPassLate_keeps {dt unit : Nat} {s : State}  :
    ∃ s', execAssayPassLate dt unit s = .next s' ∧ Keeps s s' := by
  unfold execAssayPassLate
  refine ⟨_, rfl, ?_⟩
  try dsimp only
  repeat' first
    | with_reducible assumption | with_reducible exact Keeps.refl _ | with_reducible apply State.elapse_keeps
    | with_reducible apply State.raise_keeps | with_reducible apply State.untilTime_keeps | with_reducible apply State.wr_keeps
    | with_reducible apply IoSt.wr_keeps | with_reducible apply Keeps.ite | intro _ | split

theorem execAssayCompareStart_keeps {dt : Nat} {s : State}  :
    ∃ s', execAssayCompareStart dt s = .next s' ∧ Keeps s s' := by
  unfold execAssayCompareStart
  refine ⟨_, rfl, ?_⟩
  try dsimp only
  repeat' first
    | with_reducible assumption | with_reducible exact Keeps.refl _ | with_reducible apply State.elapse_keeps
    | with_reducible apply State.startPass_keeps | with_reducible apply State.tstTake_keeps | with_reducible apply State.waitAddr_keeps
    | with_reducible apply State.wr_keeps | with_reducible apply IoSt.wr_keeps | with_reducible apply Keeps.ite
    | with_reducible apply Keeps.foldl | with_reducible apply Keeps.foldlFst | with_reducible apply Keeps.iteFst
    | intro _ | split

theorem State.strip_keeps {base : State} {s : State} {unit : Nat} {caused : Bool} {x : XferSt} {b : List Nat} (hss : Keeps base s) :
    Keeps base (State.strip s unit caused x b).1 := by
  unfold State.strip
  try dsimp only
  repeat' first
    | with_reducible assumption | with_reducible refine State.alterCheck_keepsAs ?_ (by with_reducible assumption)
    | with_reducible apply State.alterCheck_keeps | with_reducible apply State.count_keeps | with_reducible apply State.say_keeps
    | with_reducible apply Keeps.ite | with_reducible apply Keeps.iteFst | split | fail_if_no_progress with_reducible apply Keeps.upd
    | intro _

theorem State.strip_keepsAs {base : State} {s : State} {unit : Nat} {caused : Bool} {x : XferSt} {b : List Nat} (hss : Keeps base s) {t : State} {y : XferSt}
    (h : State.strip s unit caused x b = (t, y)) : Keeps base t := by
  have k : Keeps base (State.strip s unit caused x b).1 := State.strip_keeps hss
  rw [h] at k
  exact k

theorem execTransferUnitRx_keeps {dt unit : Nat} {u : List Nat} {s : State}  :
    ∃ s', execTransferUnitRx dt unit u s = .next s' ∧ Keeps s s' := by
  unfold execTransferUnitRx
  refine ⟨_, rfl, ?_⟩
  try dsimp only
  repeat' first
    | with_reducible assumption | with_reducible exact Keeps.refl _ | with_reducible apply State.elapse_keeps
    | with_reducible refine State.strip_keepsAs ?_ (by with_reducible assumption) | with_reducible apply State.strip_keeps
    | with_reducible apply Keeps.ite | with_reducible apply Keeps.iteFst | fail_if_no_progress with_reducible apply Keeps.upd
    | intro _ | split

theorem State.stripAll_keeps {base : State} {s : State} {unit : Nat} {l : List (List Nat)} (hss : Keeps base s) :
    Keeps base (State.stripAll s unit l).1 := by
  unfold State.stripAll
  try dsimp only
  repeat' first
    | with_reducible assumption | with_reducible exact Keeps.refl _ | with_reducible refine State.strip_keepsAs ?_ (by with_reducible assumption)
    | with_reducible apply State.strip_keeps | with_reducible apply Keeps.foldl | with_reducible apply Keeps.foldlFst
    | with_reducible apply Keeps.iteFst | intro _

theorem State.stripAll_keepsAs {base : State} {s : State} {unit : Nat} {l : List (List Nat)} (hss : Keeps base s) {t : State} {y : XferSt}
    (h : State.stripAll s unit l = (t, y)) : Keeps base t := by
  have k : Keeps base (State.stripAll s unit l).1 := State.stripAll_keeps hss
  rw [h] at k
  exact k

theorem execAsyCheck_keeps {dt : Nat} {h : HostRef} {mask : Nat} {s : State}  :
    ∃ s', execAsyCheck dt h mask s = .next s' ∧ Keeps s s' := by
  unfold execAsyCheck
  refine ⟨_, rfl, ?_⟩
  try dsimp only
  repeat' first
    | with_reducible assumption | with_reducible exact Keeps.refl _ | with_reducible apply State.command_keeps
    | with_reducible apply State.done_keeps | with_reducible apply State.refuse_keeps | with_reducible apply State.startPass_keeps
    | with_reducible apply State.waitAddr_keeps | with_reducible apply Keeps.ite | with_reducible apply Keeps.foldl
    | fail_if_no_progress with_reducible apply Keeps.upd | intro _ | split

theorem execAsyLoopback_keeps {dt : Nat} {h : HostRef} {src dst bytes : Nat} {units back : List (List Nat)} {s : State}  :
    ∃ s', execAsyLoopback dt h src dst bytes units back s = .next s' ∧ Keeps s s' := by
  unfold execAsyLoopback
  refine ⟨_, rfl, ?_⟩
  try dsimp only
  repeat' first
    | with_reducible assumption | with_reducible exact Keeps.refl _ | with_reducible apply State.command_keeps
    | with_reducible apply State.complete_keeps | with_reducible apply State.hostWrite_keeps | with_reducible apply State.refuse_keeps
    | with_reducible refine State.stripAll_keepsAs ?_ (by with_reducible assumption) | with_reducible apply State.stripAll_keeps
    | with_reducible apply Keeps.ite | with_reducible apply Keeps.iteFst | split | fail_if_no_progress with_reducible apply Keeps.upd
    | intro _

end Sys2Proof.Machine
end

