-- ==== Sys2Proof/Laws/KeepsSecurity.lean ====
section
/-! SUPPORT. What the operations of Machine/Security.lean keep. -/

set_option Elab.async false

namespace Sys2Proof.Machine

theorem State.envRefuse_keeps {base : State} {s : State} {h : HostRef} {op cause : Nat} (hss : Keeps base s) :
    Keeps base (State.envRefuse s h op cause) := by
  unfold State.envRefuse
  try dsimp only
  repeat' first
    | with_reducible assumption | with_reducible apply State.refuse_keeps | intro _

theorem execSecTrngFail_keeps {dt test : Nat} {fails : Bool} {s : State}  :
    ∃ s', execSecTrngFail dt test fails s = .next s' ∧ Keeps s s' := by
  unfold execSecTrngFail
  refine ⟨_, rfl, ?_⟩
  try dsimp only
  repeat' first
    | with_reducible assumption | with_reducible exact Keeps.refl _ | with_reducible apply State.elapse_keeps
    | with_reducible apply State.raise_keeps | with_reducible apply State.wrBit_keeps | with_reducible apply Keeps.ite
    | fail_if_no_progress with_reducible apply Keeps.upd | intro _ | split

theorem State.issueNonce_keeps {base : State} {s : State} {n : Nat} (hss : Keeps base s) :
    Keeps base (State.issueNonce s n) := by
  unfold State.issueNonce
  try dsimp only
  repeat' first
    | with_reducible assumption | with_reducible exact Keeps.refl _ | with_reducible apply State.wr_keeps
    | with_reducible apply IoSt.wr_keeps | with_reducible apply State.wrBit_keeps | with_reducible apply Keeps.foldl
    | fail_if_no_progress with_reducible apply Keeps.upd | intro _

theorem execSecChallenge_keeps {dt : Nat} {h : HostRef} {host : Nat} {s : State}  :
    ∃ s', execSecChallenge dt h host s = .next s' ∧ Keeps s s' := by
  unfold execSecChallenge
  refine ⟨_, rfl, ?_⟩
  try dsimp only
  repeat' first
    | with_reducible assumption | with_reducible exact Keeps.refl _ | with_reducible apply State.command_keeps
    | with_reducible apply State.complete_keeps | with_reducible apply State.draw_keeps | with_reducible apply State.hostWrite_keeps
    | with_reducible apply State.issueNonce_keeps | with_reducible apply State.refuse_keeps | with_reducible apply Keeps.ite
    | intro _ | split

theorem execNonceExpiry_keeps {dt : Nat} {s : State}  :
    ∃ s', execNonceExpiry dt s = .next s' ∧ Keeps s s' := by
  unfold execNonceExpiry
  refine ⟨_, rfl, ?_⟩
  try dsimp only
  repeat' first
    | with_reducible assumption | with_reducible exact Keeps.refl _ | with_reducible apply State.dropNonce_keeps
    | with_reducible apply State.elapse_keeps | with_reducible apply State.untilTime_keeps | with_reducible apply Keeps.ite
    | intro _ | split

theorem execSecAttest_keeps {dt : Nat} {h : HostRef} {nonce : List Nat} {host : Nat} {s : State}  :
    ∃ s', execSecAttest dt h nonce host s = .next s' ∧ Keeps s s' := by
  unfold execSecAttest
  refine ⟨_, rfl, ?_⟩
  try dsimp only
  repeat' first
    | with_reducible assumption | with_reducible exact Keeps.refl _ | with_reducible apply State.command_keeps
    | with_reducible apply State.done_keeps | with_reducible apply State.hostWrite_keeps | with_reducible apply State.refuse_keeps
    | with_reducible apply Keeps.ite | intro _ | split

theorem execSecCertRead_keeps {dt : Nat} {h : HostRef} {host : Nat} {s : State}  :
    ∃ s', execSecCertRead dt h host s = .next s' ∧ Keeps s s' := by
  unfold execSecCertRead
  refine ⟨_, rfl, ?_⟩
  try dsimp only
  repeat' first
    | with_reducible assumption | with_reducible exact Keeps.refl _ | with_reducible apply State.command_keeps
    | with_reducible apply State.complete_keeps | with_reducible apply State.hostWrite_keeps | intro _

theorem State.takeOpkey_keeps {base : State} {s : State} {slot : Nat} {key : List Nat} (hss : Keeps base s) :
    Keeps base (State.takeOpkey s slot key) := by
  unfold State.takeOpkey
  try dsimp only
  repeat' first
    | with_reducible assumption | with_reducible apply State.wr_keeps | with_reducible apply IoSt.wr_keeps
    | fail_if_no_progress with_reducible apply Keeps.upd | intro _

theorem State.eraseCrash_keeps {base : State} {s : State} (hss : Keeps base s) :
    Keeps base (State.eraseCrash s) := by
  unfold State.eraseCrash
  try dsimp only
  repeat' first
    | with_reducible assumption | with_reducible exact Keeps.refl _ | with_reducible apply Keeps.ite | with_reducible apply Keeps.foldl
    | fail_if_no_progress with_reducible apply Keeps.upd | intro _ | split

theorem State.moveLifecycle_keeps {base : State} {s : State} {new : Nat} {payload : List Nat} (hss : Keeps base s) :
    Keeps base (State.moveLifecycle s new payload) := by
  unfold State.moveLifecycle
  try dsimp only
  repeat' first
    | with_reducible assumption | with_reducible apply State.eraseAll_keeps | with_reducible apply State.eraseCrash_keeps
    | with_reducible apply State.raiseC_keeps | with_reducible apply State.takeOpkey_keeps | with_reducible apply State.wr_keeps
    | with_reducible apply IoSt.wr_keeps | split | fail_if_no_progress with_reducible apply Keeps.upd
    | intro _

theorem execSecLifecycle_keeps {dt : Nat} {h : HostRef} {e : List Nat} {s : State}  :
    ∃ s', execSecLifecycle dt h e s = .next s' ∧ Keeps s s' := by
  unfold execSecLifecycle
  refine ⟨_, rfl, ?_⟩
  try dsimp only
  repeat' first
    | with_reducible assumption | with_reducible exact Keeps.refl _ | with_reducible refine State.checkEnvelope_keepsAs ?_ (by with_reducible assumption)
    | with_reducible apply State.checkEnvelope_keeps | with_reducible apply State.command_keeps | with_reducible apply State.done_keeps
    | with_reducible apply State.envRefuse_keeps | with_reducible apply State.moveLifecycle_keeps | with_reducible apply State.refuse_keeps
    | with_reducible apply Keeps.ite | split | fail_if_no_progress with_reducible apply Keeps.upd | intro _

theorem execSecOpkeyRotate_keeps {dt : Nat} {h : HostRef} {e : List Nat} {s : State}  :
    ∃ s', execSecOpkeyRotate dt h e s = .next s' ∧ Keeps s s' := by
  unfold execSecOpkeyRotate
  refine ⟨_, rfl, ?_⟩
  try dsimp only
  repeat' first
    | with_reducible assumption | with_reducible exact Keeps.refl _ | with_reducible refine State.checkEnvelope_keepsAs ?_ (by with_reducible assumption)
    | with_reducible apply State.checkEnvelope_keeps | with_reducible apply State.command_keeps | with_reducible apply State.done_keeps
    | with_reducible apply State.envRefuse_keeps | with_reducible apply State.refuse_keeps | with_reducible apply State.takeOpkey_keeps
    | with_reducible apply Keeps.ite | split | fail_if_no_progress with_reducible apply Keeps.upd | intro _

theorem State.commitSvn_keeps {base : State} {s : State} {h : HostRef} (hss : Keeps base s) :
    Keeps base (State.commitSvn s h) := by
  unfold State.commitSvn
  try dsimp only
  repeat' first
    | with_reducible assumption | with_reducible apply State.complete_keeps | with_reducible apply State.done_keeps
    | with_reducible apply State.raiseC_keeps | with_reducible apply State.wr_keeps | with_reducible apply IoSt.wr_keeps
    | with_reducible apply Keeps.ite | intro _ | split

theorem execSecSvnCommit_keeps {dt : Nat} {h : HostRef} {s : State}  :
    ∃ s', execSecSvnCommit dt h s = .next s' ∧ Keeps s s' := by
  unfold execSecSvnCommit
  refine ⟨_, rfl, ?_⟩
  try dsimp only
  repeat' first
    | with_reducible assumption | with_reducible exact Keeps.refl _ | with_reducible apply State.command_keeps
    | with_reducible apply State.commitSvn_keeps | with_reducible apply Keeps.ite | fail_if_no_progress with_reducible apply Keeps.upd
    | intro _ | split

theorem execSecImageStage_keeps {dt : Nat} {h : HostRef} {length : Nat} {s : State}  :
    ∃ s', execSecImageStage dt h length s = .next s' ∧ Keeps s s' := by
  unfold execSecImageStage
  refine ⟨_, rfl, ?_⟩
  try dsimp only
  repeat' first
    | with_reducible assumption | with_reducible exact Keeps.refl _ | with_reducible apply State.command_keeps
    | with_reducible apply State.refuse_keeps | with_reducible apply State.wrBit_keeps | with_reducible apply Keeps.ite
    | fail_if_no_progress with_reducible apply Keeps.upd | intro _ | split

theorem State.endStage_keeps {base : State} {s : State} {h : HostRef} (hss : Keeps base s) :
    Keeps base (State.endStage s h) := by
  unfold State.endStage
  try dsimp only
  repeat' first
    | with_reducible assumption | with_reducible exact Keeps.refl _ | with_reducible apply State.commitSvn_keeps
    | with_reducible apply State.done_keeps | with_reducible apply State.extend_keeps | with_reducible apply State.raiseC_keeps
    | with_reducible apply State.refuse_keeps | with_reducible apply State.wrBit_keeps | with_reducible apply Keeps.ite
    | with_reducible apply Keeps.foldl | fail_if_no_progress with_reducible apply Keeps.upd | intro _
    | split

theorem execSecImageStaged_keeps {dt : Nat} {s : State}  :
    ∃ s', execSecImageStaged dt s = .next s' ∧ Keeps s s' := by
  unfold execSecImageStaged
  refine ⟨_, rfl, ?_⟩
  try dsimp only
  repeat' first
    | with_reducible assumption | with_reducible exact Keeps.refl _ | with_reducible apply State.elapse_keeps
    | with_reducible apply State.endStage_keeps | split | fail_if_no_progress with_reducible apply Keeps.upd
    | intro _

theorem State.openDebug_keeps {base : State} {s : State} {scope minutes slot : Nat} {h : HostRef} (hss : Keeps base s) :
    Keeps base (State.openDebug s scope minutes slot h) := by
  unfold State.openDebug
  try dsimp only
  repeat' first
    | with_reducible assumption | with_reducible apply State.done_keeps | with_reducible apply State.extend_keeps
    | with_reducible apply State.raiseC_keeps | with_reducible apply State.selfFault_keeps | with_reducible apply State.wr_keeps
    | with_reducible apply IoSt.wr_keeps | with_reducible apply Keeps.ite | fail_if_no_progress with_reducible apply Keeps.upd
    | intro _ | split

theorem State.tryOpen_keeps {base : State} {s : State} (hss : Keeps base s) :
    Keeps base (State.tryOpen s) := by
  unfold State.tryOpen
  try dsimp only
  repeat' first
    | with_reducible assumption | with_reducible exact Keeps.refl _ | with_reducible apply State.openDebug_keeps
    | with_reducible apply Keeps.ite | split | fail_if_no_progress with_reducible apply Keeps.upd | intro _

theorem State.closeDebug_keeps {base : State} {s : State} {caused : Bool} (hss : Keeps base s) :
    Keeps base (State.closeDebug s caused) := by
  unfold State.closeDebug
  try dsimp only
  repeat' first
    | with_reducible assumption | with_reducible apply State.say_keeps | with_reducible apply State.wr_keeps
    | with_reducible apply IoSt.wr_keeps | with_reducible apply Keeps.ite | fail_if_no_progress with_reducible apply Keeps.upd
    | intro _ | split

theorem execSecDebugUnlock_keeps {dt : Nat} {h : HostRef} {e : List Nat} {s : State}  :
    ∃ s', execSecDebugUnlock dt h e s = .next s' ∧ Keeps s s' := by
  unfold execSecDebugUnlock
  refine ⟨_, rfl, ?_⟩
  try dsimp only
  repeat' first
    | with_reducible assumption | with_reducible exact Keeps.refl _ | with_reducible refine State.checkEnvelope_keepsAs ?_ (by with_reducible assumption)
    | with_reducible apply State.checkEnvelope_keeps | with_reducible apply State.command_keeps | with_reducible apply State.envRefuse_keeps
    | with_reducible apply State.eraseAll_keeps | with_reducible apply State.openDebug_keeps | with_reducible apply State.refuse_keeps
    | with_reducible apply State.tryOpen_keeps | with_reducible apply Keeps.ite | split | fail_if_no_progress with_reducible apply Keeps.upd
    | intro _

theorem execSecDebugLock_keeps {dt : Nat} {h : HostRef} {s : State}  :
    ∃ s', execSecDebugLock dt h s = .next s' ∧ Keeps s s' := by
  unfold execSecDebugLock
  refine ⟨_, rfl, ?_⟩
  try dsimp only
  repeat' first
    | with_reducible assumption | with_reducible exact Keeps.refl _ | with_reducible apply State.closeDebug_keeps
    | with_reducible apply State.command_keeps | with_reducible apply State.done_keeps | with_reducible apply State.extend_keeps
    | with_reducible apply Keeps.ite | intro _ | split

theorem execDebugExpiry_keeps {dt : Nat} {s : State}  :
    ∃ s', execDebugExpiry dt s = .next s' ∧ Keeps s s' := by
  unfold execDebugExpiry
  refine ⟨_, rfl, ?_⟩
  try dsimp only
  repeat' first
    | with_reducible assumption | with_reducible exact Keeps.refl _ | with_reducible apply State.closeDebug_keeps
    | with_reducible apply State.elapse_keeps | with_reducible apply State.untilTime_keeps | with_reducible apply Keeps.ite
    | intro _ | split

theorem execHalfZeroise_keeps {dt slot : Nat} {s : State}  :
    ∃ s', execHalfZeroise dt slot s = .next s' ∧ Keeps s s' := by
  unfold execHalfZeroise
  refine ⟨_, rfl, ?_⟩
  try dsimp only
  repeat' first
    | with_reducible assumption | with_reducible exact Keeps.refl _ | with_reducible apply State.elapse_keeps
    | with_reducible apply State.finishErase_keeps | with_reducible apply State.setSlot_keeps | with_reducible apply State.tryOpen_keeps
    | with_reducible apply Keeps.ite | split | fail_if_no_progress with_reducible apply Keeps.upd | intro _

end Sys2Proof.Machine
end

