-- ==== Sys2Proof/Laws/KeepsStartup.lean ====
section
/-! SUPPORT. What the operations of Machine/Startup.lean keep. -/

set_option Elab.async false

namespace Sys2Proof.Machine

theorem State.runImage_keeps {base : State} {s : State} {img : List Nat} (hss : Keeps base s) :
    Keeps base (State.runImage s img) := by
  unfold State.runImage
  try dsimp only
  repeat' first
    | with_reducible assumption | with_reducible exact Keeps.refl _ | with_reducible apply State.extend_keeps
    | with_reducible apply State.wr_keeps | with_reducible apply IoSt.wr_keeps | with_reducible apply Keeps.foldl
    | fail_if_no_progress with_reducible apply Keeps.upd | intro _

theorem State.bootNor_keeps {base : State} {s : State} {suspect : List Nat} (hss : Keeps base s) :
    Keeps base (State.bootNor s suspect) := by
  unfold State.bootNor
  try dsimp only
  repeat' first
    | with_reducible assumption | with_reducible exact Keeps.refl _ | with_reducible apply State.runImage_keeps
    | with_reducible apply State.wr_keeps | with_reducible apply IoSt.wr_keeps | with_reducible apply Keeps.iteFst
    | split | fail_if_no_progress with_reducible apply Keeps.upd | intro _

theorem State.startEpoch_keeps {base : State} {s : State} {stored : Bool} (hss : Keeps base s) :
    Keeps base (State.startEpoch s stored) := by
  unfold State.startEpoch
  try dsimp only
  repeat' first
    | with_reducible assumption | with_reducible apply State.reserve_keeps | with_reducible apply State.wr_keeps
    | with_reducible apply IoSt.wr_keeps | intro _

theorem State.bootMoved_keeps {base : State} {s : State} {m : Option (Nat × List Nat)} (hss : Keeps base s) :
    Keeps base (State.bootMoved s m) := by
  unfold State.bootMoved
  try dsimp only
  repeat' first
    | with_reducible assumption | with_reducible apply State.eraseCrash_keeps | with_reducible apply State.raise_keeps
    | with_reducible apply State.takeOpkey_keeps | with_reducible apply State.wr_keeps | with_reducible apply IoSt.wr_keeps
    | with_reducible apply Keeps.ite | split | fail_if_no_progress with_reducible apply Keeps.upd | intro _

theorem State.bootRom_keeps {base : State} {s : State} {b : BootIn} (hss : Keeps base s) :
    Keeps base (State.bootRom s b) := by
  unfold State.bootRom
  try dsimp only
  repeat' first
    | with_reducible assumption | with_reducible exact Keeps.refl _ | with_reducible apply State.bootMoved_keeps
    | with_reducible apply State.bootNor_keeps | with_reducible apply State.extend_keeps | with_reducible apply State.raiseIf_keeps
    | with_reducible apply State.startEpoch_keeps | with_reducible apply State.wr_keeps | with_reducible apply IoSt.wr_keeps
    | with_reducible apply State.wrBit_keeps | with_reducible apply Keeps.ite | with_reducible apply Keeps.foldl
    | with_reducible apply Keeps.foldlFst | with_reducible apply Keeps.iteFst | split | fail_if_no_progress with_reducible apply Keeps.upd
    | intro _

theorem execPowerOnResetRelease_keeps {dt : Nat} {b : BootIn} {s : State}  :
    ∃ s', execPowerOnResetRelease dt b s = .next s' ∧ Keeps s s' := by
  unfold execPowerOnResetRelease
  refine ⟨_, rfl, ?_⟩
  try dsimp only
  repeat' first
    | with_reducible assumption | with_reducible exact Keeps.refl _ | with_reducible apply State.bootRom_keeps
    | with_reducible apply State.elapse_keeps | with_reducible apply Keeps.ite | intro _ | split

theorem State.testFaults_keeps {base : State} {s : State} {t : SelfTest} (hss : Keeps base s) :
    Keeps base (State.testFaults s t) := by
  unfold State.testFaults
  try dsimp only
  repeat' first
    | with_reducible assumption | with_reducible apply State.selfFault_keeps | with_reducible apply Keeps.ite
    | fail_if_no_progress with_reducible apply Keeps.upd | intro _ | split

theorem State.logResult_keeps {base : State} {s : State} {r : EvRec} (hss : Keeps base s) :
    Keeps base (State.logResult s r) := by
  unfold State.logResult
  try dsimp only
  repeat' first
    | with_reducible assumption | with_reducible apply Keeps.ite | fail_if_no_progress with_reducible apply Keeps.upd
    | fail_if_no_progress with_reducible apply Keeps.updIo | with_reducible apply ioOk.ite | fail_if_no_progress with_reducible apply ioOk.upd
    | fail_if_no_progress with_reducible apply ioOk.updMem | fail_if_no_progress with_reducible apply ioOk.updEvq
    | fail_if_no_progress with_reducible apply ioOk.held | intro _ | split

theorem State.selfTest_keeps {base : State} {s : State} {t : SelfTest} (hss : Keeps base s) :
    Keeps base (State.selfTest s t) := by
  unfold State.selfTest
  try dsimp only
  repeat' first
    | with_reducible assumption | with_reducible exact Keeps.refl _ | with_reducible apply State.logResult_keeps
    | with_reducible apply State.raise_keeps | with_reducible apply State.raiseIf_keeps | with_reducible apply State.setTxIdle_keeps
    | with_reducible apply State.testFaults_keeps | with_reducible apply State.wrBit_keeps | with_reducible apply Keeps.ite
    | with_reducible apply Keeps.iteFst | fail_if_no_progress with_reducible apply Keeps.upd | intro _
    | split

theorem execSelftestResult_keeps {dt : Nat} {t : SelfTest} {s : State}  :
    ∃ s', execSelftestResult dt t s = .next s' ∧ Keeps s s' := by
  unfold execSelftestResult
  refine ⟨_, rfl, ?_⟩
  try dsimp only
  repeat' first
    | with_reducible assumption | with_reducible exact Keeps.refl _ | with_reducible apply State.elapse_keeps
    | with_reducible apply State.selfTest_keeps | with_reducible apply Keeps.ite | intro _ | split

theorem execSelftestRead_keeps {dt : Nat} {h : HostRef} {host : Nat} {s : State}  :
    ∃ s', execSelftestRead dt h host s = .next s' ∧ Keeps s s' := by
  unfold execSelftestRead
  refine ⟨_, rfl, ?_⟩
  try dsimp only
  repeat' first
    | with_reducible assumption | with_reducible exact Keeps.refl _ | with_reducible apply State.command_keeps
    | with_reducible apply State.done_keeps | with_reducible apply State.draw_keeps | with_reducible apply State.hostWrite_keeps
    | split | fail_if_no_progress with_reducible apply Keeps.upd | fail_if_no_progress with_reducible apply Keeps.updCtr
    | intro _

theorem execBootLoad_keeps {dt : Nat} {h : HostRef} {address length : Nat} {units : List (List Nat)} {s : State}  :
    ∃ s', execBootLoad dt h address length units s = .next s' ∧ Keeps s s' := by
  unfold execBootLoad
  refine ⟨_, rfl, ?_⟩
  try dsimp only
  repeat' first
    | with_reducible assumption | with_reducible exact Keeps.refl _ | with_reducible apply State.command_keeps
    | with_reducible apply State.done_keeps | with_reducible apply State.refuse_keeps | with_reducible apply State.runImage_keeps
    | with_reducible refine State.stripAll_keepsAs ?_ (by with_reducible assumption) | with_reducible apply State.stripAll_keeps
    | with_reducible apply Keeps.ite | with_reducible apply Keeps.iteFst | fail_if_no_progress with_reducible apply Keeps.upd
    | intro _ | split

theorem State.stageRecord_keeps {base : State} {s : State} {e : Nat × Nat} (hss : Keeps base s) :
    Keeps base (State.stageRecord s e) := by
  unfold State.stageRecord
  try dsimp only
  repeat' first
    | with_reducible assumption | with_reducible exact Keeps.refl _ | with_reducible apply State.stage_keeps
    | with_reducible apply Keeps.foldl | with_reducible apply Keeps.foldlFst | with_reducible apply Keeps.iteFst
    | intro _

theorem State.stageSet_keeps {base : State} {s : State} {l : CfgLoad} {c : ConfigSet} (hss : Keeps base s) :
    Keeps base (State.stageSet s l c) := by
  unfold State.stageSet
  try dsimp only
  repeat' first
    | with_reducible assumption | with_reducible exact Keeps.refl _ | with_reducible apply State.rejectHalted_keeps
    | with_reducible apply State.rejectLoad_keeps | with_reducible apply State.stageRecord_keeps | with_reducible apply State.waitAddr_keeps
    | with_reducible apply Keeps.ite | with_reducible apply Keeps.foldl | fail_if_no_progress with_reducible apply Keeps.upd
    | intro _ | split

theorem execConfigSetStage_keeps {dt : Nat} {s : State}  :
    ∃ s', execConfigSetStage dt s = .next s' ∧ Keeps s s' := by
  unfold execConfigSetStage
  refine ⟨_, rfl, ?_⟩
  try dsimp only
  repeat' first
    | with_reducible assumption | with_reducible exact Keeps.refl _ | with_reducible apply State.elapse_keeps
    | with_reducible apply State.rejectLoad_keeps | with_reducible apply State.stageSet_keeps | with_reducible apply Keeps.ite
    | with_reducible apply Keeps.iteFst | split | fail_if_no_progress with_reducible apply Keeps.upd | intro _

theorem execConfigStore_keeps {dt : Nat} {ok : Bool} {s : State}  :
    ∃ s', execConfigStore dt ok s = .next s' ∧ Keeps s s' := by
  unfold execConfigStore
  refine ⟨_, rfl, ?_⟩
  try dsimp only
  repeat' first
    | with_reducible assumption | with_reducible exact Keeps.refl _ | with_reducible apply State.complete_keeps
    | with_reducible apply State.draw_keeps | with_reducible apply State.elapse_keeps | with_reducible apply State.norBad_keeps
    | with_reducible apply Keeps.ite | split | fail_if_no_progress with_reducible apply Keeps.upd | fail_if_no_progress with_reducible apply Keeps.updCtr
    | intro _

theorem State.refuseLoad_keeps {base : State} {s : State} {h : HostRef} {reason : Nat} (hss : Keeps base s) :
    Keeps base (State.refuseLoad s h reason) := by
  unfold State.refuseLoad
  try dsimp only
  repeat' first
    | with_reducible assumption | with_reducible apply State.raiseC_keeps | with_reducible apply State.refuse_keeps
    | intro _

theorem execCfgLoad_keeps {dt : Nat} {h : HostRef} {address length : Nat} {store : Bool} {s : State}  :
    ∃ s', execCfgLoad dt h address length store s = .next s' ∧ Keeps s s' := by
  unfold execCfgLoad
  refine ⟨_, rfl, ?_⟩
  try dsimp only
  repeat' first
    | with_reducible assumption | with_reducible exact Keeps.refl _ | with_reducible apply State.command_keeps
    | with_reducible apply State.refuseLoad_keeps | with_reducible apply Keeps.ite | fail_if_no_progress with_reducible apply Keeps.upd
    | intro _ | split

theorem execCfgStatus_keeps {dt : Nat} {h : HostRef} {s : State}  :
    ∃ s', execCfgStatus dt h s = .next s' ∧ Keeps s s' := by
  unfold execCfgStatus
  refine ⟨_, rfl, ?_⟩
  try dsimp only
  repeat' first
    | with_reducible assumption | with_reducible exact Keeps.refl _ | with_reducible apply State.command_keeps
    | with_reducible apply State.complete_keeps | with_reducible apply Keeps.ite | intro _ | split

end Sys2Proof.Machine
end

