-- ==== Sys2Proof/Laws/KeepsBackground.lean ====
section
/-! SUPPORT. What the operations of Machine/Background.lean keep. -/

set_option Elab.async false

namespace Sys2Proof.Machine

theorem State.noteRow_keeps {base : State} {s : State} {e : SramError} (hss : Keeps base s) :
    Keeps base (State.noteRow s e) := by
  unfold State.noteRow
  try dsimp only
  repeat' first
    | with_reducible assumption | with_reducible exact Keeps.refl _ | with_reducible apply State.raise_keeps
    | with_reducible apply State.wr_keeps | with_reducible apply IoSt.wr_keeps | with_reducible apply Keeps.ite
    | with_reducible apply Keeps.iteFst | fail_if_no_progress with_reducible apply Keeps.upd | intro _
    | split

theorem State.scrubPast_keeps {base : State} {s : State} {addr : Nat} (hss : Keeps base s) :
    Keeps base (State.scrubPast s addr) := by
  unfold State.scrubPast
  try dsimp only
  repeat' first
    | with_reducible assumption | fail_if_no_progress with_reducible apply Keeps.upd | intro _

theorem execScrubWord_keeps {dt : Nat} {e : SramError} {s : State}  :
    ∃ s', execScrubWord dt e s = .next s' ∧ Keeps s s' := by
  unfold execScrubWord
  refine ⟨_, rfl, ?_⟩
  try dsimp only
  repeat' first
    | with_reducible assumption | with_reducible exact Keeps.refl _ | with_reducible apply State.count_keeps
    | with_reducible apply State.elapse_keeps | with_reducible apply State.noteRow_keeps | with_reducible apply State.raiseOnceFolded_keeps
    | with_reducible apply State.scrubPast_keeps | with_reducible apply State.sramBad_keeps | with_reducible apply Keeps.ite
    | fail_if_no_progress with_reducible apply Keeps.upd | intro _ | split

theorem State.bufferLost_keeps {base : State} {s : State} {num : Nat} (hss : Keeps base s) :
    Keeps base (State.bufferLost s num) := by
  unfold State.bufferLost
  try dsimp only
  repeat' first
    | with_reducible assumption | with_reducible exact Keeps.refl _ | with_reducible apply State.setHitless_keeps
    | with_reducible apply Keeps.ite | split | fail_if_no_progress with_reducible apply Keeps.upd | intro _

theorem State.historyLost_keeps {base : State} {s : State} {num : Nat} (hss : Keeps base s) :
    Keeps base (State.historyLost s num) := by
  unfold State.historyLost
  try dsimp only
  repeat' first
    | with_reducible assumption | with_reducible apply Keeps.ite | split | fail_if_no_progress with_reducible apply Keeps.upd
    | intro _

theorem State.hbmAction_keeps {base : State} {s : State} {region num : Nat} (hss : Keeps base s) :
    Keeps base (State.hbmAction s region num) := by
  unfold State.hbmAction
  try dsimp only
  repeat' first
    | with_reducible assumption | with_reducible apply State.bufferLost_keeps | with_reducible apply State.historyLost_keeps
    | with_reducible apply State.raise_keeps | with_reducible apply State.resetQueue_keeps | split | fail_if_no_progress with_reducible apply Keeps.upd
    | intro _

theorem execHbmPatrol_keeps {dt address region num : Nat} {error uncorr : Bool} {s : State}  :
    ∃ s', execHbmPatrol dt address region num error uncorr s = .next s' ∧ Keeps s s' := by
  unfold execHbmPatrol
  refine ⟨_, rfl, ?_⟩
  try dsimp only
  repeat' first
    | with_reducible assumption | with_reducible exact Keeps.refl _ | with_reducible apply State.count_keeps
    | with_reducible apply State.elapse_keeps | with_reducible apply State.hbmAction_keeps | with_reducible apply State.raise_keeps
    | with_reducible apply Keeps.ite | fail_if_no_progress with_reducible apply Keeps.upd | intro _ | split

theorem State.noteWait_keeps {base : State} {s : State} {task : Nat} (hss : Keeps base s) :
    Keeps base (State.noteWait s task) := by
  unfold State.noteWait
  try dsimp only
  repeat' first
    | with_reducible assumption | with_reducible exact Keeps.refl _ | with_reducible apply State.count_keeps
    | with_reducible apply State.raiseOnce_keeps | with_reducible apply Keeps.ite | fail_if_no_progress with_reducible apply Keeps.upd
    | intro _ | split

theorem execBkgEpoch_keeps {dt hewerUse hbmUse : Nat} {waiting : List Nat} {s : State}  :
    ∃ s', execBkgEpoch dt hewerUse hbmUse waiting s = .next s' ∧ Keeps s s' := by
  unfold execBkgEpoch
  refine ⟨_, rfl, ?_⟩
  try dsimp only
  repeat' first
    | with_reducible assumption | with_reducible exact Keeps.refl _ | with_reducible apply State.noteWait_keeps
    | with_reducible apply State.toBoundary_keeps | with_reducible apply State.tstTake_keeps | with_reducible apply State.wr_keeps
    | with_reducible apply IoSt.wr_keeps | with_reducible apply Keeps.ite | with_reducible apply Keeps.foldl
    | with_reducible apply Keeps.foldlFst | with_reducible apply Keeps.iteFst | fail_if_no_progress with_reducible apply Keeps.upd
    | intro _ | split

theorem State.accountTj_keeps {base : State} {s : State} (hss : Keeps base s) :
    Keeps base (State.accountTj s) := by
  unfold State.accountTj
  try dsimp only
  repeat' first
    | with_reducible assumption | with_reducible apply Keeps.ite | fail_if_no_progress with_reducible apply Keeps.upd
    | intro _ | split

theorem State.judgeTj_keeps {base : State} {s : State} {tj : Int} {sensor : Nat} (hss : Keeps base s) :
    Keeps base (State.judgeTj s tj sensor) := by
  unfold State.judgeTj
  try dsimp only
  repeat' first
    | with_reducible assumption | with_reducible apply State.raiseIf_keeps | with_reducible apply Keeps.ite
    | fail_if_no_progress with_reducible apply Keeps.upd | intro _ | split

theorem execTjUpdate_keeps {dt : Nat} {s : State}  :
    ∃ s', execTjUpdate dt s = .next s' ∧ Keeps s s' := by
  unfold execTjUpdate
  refine ⟨_, rfl, ?_⟩
  try dsimp only
  repeat' first
    | with_reducible assumption | with_reducible exact Keeps.refl _ | with_reducible apply State.accountTj_keeps
    | with_reducible apply State.draw_keeps | with_reducible apply State.judgeTj_keeps | with_reducible apply State.toBoundary_keeps
    | with_reducible apply State.tstTake_keeps | with_reducible apply State.wr_keeps | with_reducible apply IoSt.wr_keeps
    | with_reducible apply Keeps.ite | with_reducible apply Keeps.iteFst | split | fail_if_no_progress with_reducible apply Keeps.upd
    | intro _

theorem execThermalFault_keeps {dt : Nat} {s : State}  :
    ∃ s', execThermalFault dt s = .next s' ∧ Keeps s s' := by
  unfold execThermalFault
  refine ⟨_, rfl, ?_⟩
  try dsimp only
  repeat' first
    | with_reducible assumption | with_reducible exact Keeps.refl _ | with_reducible apply State.elapse_keeps
    | with_reducible apply State.selfFault_keeps | with_reducible apply State.untilTime_keeps | split
    | fail_if_no_progress with_reducible apply Keeps.upd | intro _

theorem State.judgeAge_keeps {base : State} {s : State} {m : Nat} (hss : Keeps base s) :
    Keeps base (State.judgeAge s m) := by
  unfold State.judgeAge
  try dsimp only
  repeat' first
    | with_reducible assumption | with_reducible exact Keeps.refl _ | with_reducible apply State.raise_keeps
    | with_reducible apply Keeps.ite | fail_if_no_progress with_reducible apply Keeps.upd | intro _ | split

theorem execAgeMeasure_keeps {dt : Nat} {l : List (Nat × Nat)} {s : State}  :
    ∃ s', execAgeMeasure dt l s = .next s' ∧ Keeps s s' := by
  unfold execAgeMeasure
  refine ⟨_, rfl, ?_⟩
  try dsimp only
  repeat' first
    | with_reducible assumption | with_reducible exact Keeps.refl _ | with_reducible apply State.draw_keeps
    | with_reducible apply State.elapse_keeps | with_reducible apply State.judgeAge_keeps | with_reducible apply State.untilTime_keeps
    | with_reducible apply Keeps.ite | with_reducible apply Keeps.foldl | with_reducible apply Keeps.foldlFst
    | with_reducible apply Keeps.iteFst | fail_if_no_progress with_reducible apply Keeps.upd | intro _
    | split

theorem State.judgeLife_keeps {base : State} {s : State} (hss : Keeps base s) :
    Keeps base (State.judgeLife s) := by
  unfold State.judgeLife
  try dsimp only
  repeat' first
    | with_reducible assumption | with_reducible apply State.raiseIf_keeps | with_reducible apply Keeps.ite
    | fail_if_no_progress with_reducible apply Keeps.upd | intro _ | split

theorem execLifeRecord_keeps {dt : Nat} {s : State}  :
    ∃ s', execLifeRecord dt s = .next s' ∧ Keeps s s' := by
  unfold execLifeRecord
  refine ⟨_, rfl, ?_⟩
  try dsimp only
  repeat' first
    | with_reducible assumption | with_reducible exact Keeps.refl _ | with_reducible apply State.accountTj_keeps
    | with_reducible apply State.draw_keeps | with_reducible apply State.elapse_keeps | with_reducible apply State.judgeLife_keeps
    | with_reducible apply State.untilTime_keeps | with_reducible apply State.wr_keeps | with_reducible apply IoSt.wr_keeps
    | fail_if_no_progress with_reducible apply Keeps.upd | fail_if_no_progress with_reducible apply Keeps.updIo
    | with_reducible apply ioOk.ite | fail_if_no_progress with_reducible apply ioOk.upd | fail_if_no_progress with_reducible apply ioOk.updMem
    | fail_if_no_progress with_reducible apply ioOk.updEvq | fail_if_no_progress with_reducible apply ioOk.held
    | intro _

theorem State.eraseSector_keeps {base : State} {s : State} {k : Nat} (hss : Keeps base s) :
    Keeps base (State.eraseSector s k) := by
  unfold State.eraseSector
  try dsimp only
  repeat' first
    | with_reducible assumption | fail_if_no_progress with_reducible apply Keeps.upd | intro _

theorem State.nextSector_keeps {base : State} {s : State} (hss : Keeps base s) :
    Keeps base (State.nextSector s) := by
  unfold State.nextSector
  try dsimp only
  repeat' first
    | with_reducible assumption | with_reducible exact Keeps.refl _ | with_reducible apply State.eraseSector_keeps
    | with_reducible apply State.wr_keeps | with_reducible apply IoSt.wr_keeps | with_reducible apply Keeps.ite
    | split | fail_if_no_progress with_reducible apply Keeps.upd | intro _

theorem State.roomInLog_keeps {base : State} {s : State} (hss : Keeps base s) :
    Keeps base (State.roomInLog s) := by
  unfold State.roomInLog
  try dsimp only
  repeat' first
    | with_reducible assumption | with_reducible apply State.nextSector_keeps | with_reducible apply Keeps.ite
    | split | fail_if_no_progress with_reducible apply Keeps.upd | intro _

theorem State.writeLog_keeps {base : State} {s : State} {r : EvRec} (hss : Keeps base s) :
    Keeps base (State.writeLog s r) := by
  unfold State.writeLog
  try dsimp only
  repeat' first
    | with_reducible assumption | with_reducible apply State.draw_keeps | with_reducible apply State.roomInLog_keeps
    | split | fail_if_no_progress with_reducible apply Keeps.upd | fail_if_no_progress with_reducible apply Keeps.updCtr
    | intro _

theorem State.appendLog_keeps {base : State} {s : State} {r : EvRec} {rest : List EvRec} (hss : Keeps base s) :
    Keeps base (State.appendLog s r rest) := by
  unfold State.appendLog
  try dsimp only
  repeat' first
    | with_reducible assumption | with_reducible exact Keeps.refl _ | with_reducible apply State.count_keeps
    | with_reducible apply State.raiseOnce_keeps | with_reducible apply State.writeLog_keeps | with_reducible apply Keeps.ite
    | fail_if_no_progress with_reducible apply Keeps.upd | fail_if_no_progress with_reducible apply Keeps.updIo
    | with_reducible apply ioOk.ite | fail_if_no_progress with_reducible apply ioOk.upd | fail_if_no_progress with_reducible apply ioOk.updMem
    | fail_if_no_progress with_reducible apply ioOk.updEvq | fail_if_no_progress with_reducible apply ioOk.held
    | intro _ | split

theorem State.dropWaits_keeps {base : State} {s : State} (hss : Keeps base s) :
    Keeps base (State.dropWaits s) := by
  unfold State.dropWaits
  try dsimp only
  repeat' first
    | with_reducible assumption | with_reducible exact Keeps.refl _ | with_reducible apply State.count_keeps
    | with_reducible apply State.raiseOnce_keeps | with_reducible apply Keeps.ite | with_reducible apply Keeps.foldl
    | fail_if_no_progress with_reducible apply Keeps.upd | fail_if_no_progress with_reducible apply Keeps.updIo
    | with_reducible apply ioOk.ite | fail_if_no_progress with_reducible apply ioOk.upd | fail_if_no_progress with_reducible apply ioOk.updMem
    | fail_if_no_progress with_reducible apply ioOk.updEvq | fail_if_no_progress with_reducible apply ioOk.held
    | intro _ | split

theorem execLogAppend_keeps {dt : Nat} {s : State}  :
    ∃ s', execLogAppend dt s = .next s' ∧ Keeps s s' := by
  unfold execLogAppend
  refine ⟨_, rfl, ?_⟩
  try dsimp only
  repeat' first
    | with_reducible assumption | with_reducible exact Keeps.refl _ | with_reducible apply State.appendLog_keeps
    | with_reducible apply State.dropWaits_keeps | with_reducible apply State.elapse_keeps | with_reducible apply Keeps.ite
    | split | fail_if_no_progress with_reducible apply Keeps.upd | fail_if_no_progress with_reducible apply Keeps.updIo
    | with_reducible apply ioOk.ite | fail_if_no_progress with_reducible apply ioOk.upd | fail_if_no_progress with_reducible apply ioOk.updMem
    | fail_if_no_progress with_reducible apply ioOk.updEvq | fail_if_no_progress with_reducible apply ioOk.held
    | intro _

theorem State.bkgCommand_keeps {base : State} {s : State} {h : HostRef} {op : Nat} {ok : Bool} {run : State → State} (hss : Keeps base s) (hrun : ∀ b, Keeps b (run b)) :
    Keeps base (State.bkgCommand s h op ok run) := by
  unfold State.bkgCommand
  try dsimp only
  repeat' first
    | with_reducible assumption | with_reducible exact Keeps.refl _ | with_reducible refine Keeps.trans ?_ (hrun _)
    | with_reducible apply State.refuse_keeps | with_reducible apply Keeps.ite | intro _ | split

theorem execBkgAgeRead_keeps {dt : Nat} {h : HostRef} {host : Nat} {s : State}  :
    ∃ s', execBkgAgeRead dt h host s = .next s' ∧ Keeps s s' := by
  unfold execBkgAgeRead
  refine ⟨_, rfl, ?_⟩
  try dsimp only
  repeat' first
    | with_reducible assumption | with_reducible exact Keeps.refl _ | with_reducible apply State.bkgCommand_keeps
    | with_reducible apply State.command_keeps | with_reducible apply State.done_keeps | with_reducible apply State.hostWrite_keeps
    | with_reducible apply Keeps.iteFst | intro _

theorem execBkgLogAppend_keeps {dt : Nat} {h : HostRef} {detail : List Nat} {s : State}  :
    ∃ s', execBkgLogAppend dt h detail s = .next s' ∧ Keeps s s' := by
  unfold execBkgLogAppend
  refine ⟨_, rfl, ?_⟩
  try dsimp only
  repeat' first
    | with_reducible assumption | with_reducible exact Keeps.refl _ | with_reducible apply State.bkgCommand_keeps
    | with_reducible apply State.command_keeps | with_reducible apply State.done_keeps | fail_if_no_progress with_reducible apply Keeps.upd
    | fail_if_no_progress with_reducible apply Keeps.updIo | with_reducible apply ioOk.ite | fail_if_no_progress with_reducible apply ioOk.upd
    | fail_if_no_progress with_reducible apply ioOk.updMem | fail_if_no_progress with_reducible apply ioOk.updEvq
    | fail_if_no_progress with_reducible apply ioOk.held | intro _

theorem execBkgLogRead_keeps {dt : Nat} {h : HostRef} {first sectors host : Nat} {s : State}  :
    ∃ s', execBkgLogRead dt h first sectors host s = .next s' ∧ Keeps s s' := by
  unfold execBkgLogRead
  refine ⟨_, rfl, ?_⟩
  try dsimp only
  repeat' first
    | with_reducible assumption | with_reducible exact Keeps.refl _ | with_reducible apply State.bkgCommand_keeps
    | with_reducible apply State.command_keeps | with_reducible apply State.done_keeps | with_reducible apply State.hostWrite_keeps
    | intro _

theorem execTstEnded_keeps {dt : Nat} {s : State}  :
    ∃ s', execTstEnded dt s = .next s' ∧ Keeps s s' := by
  unfold execTstEnded
  refine ⟨_, rfl, ?_⟩
  try dsimp only
  repeat' first
    | with_reducible assumption | with_reducible exact Keeps.refl _ | with_reducible apply State.judgePressed_keeps
    | with_reducible apply State.raise_keeps | with_reducible apply State.toNextCycle_keeps | with_reducible apply State.wr_keeps
    | with_reducible apply IoSt.wr_keeps | with_reducible apply Keeps.ite | split | fail_if_no_progress with_reducible apply Keeps.upd
    | intro _

theorem State.endFold_keeps {base : State} {s : State} {e : Nat × RateSt} (hss : Keeps base s) :
    Keeps base (State.endFold s e) := by
  unfold State.endFold
  try dsimp only
  repeat' first
    | with_reducible assumption | with_reducible apply State.raiseFolded_keeps | with_reducible apply Keeps.iteFst
    | fail_if_no_progress with_reducible apply Keeps.upd | fail_if_no_progress with_reducible apply Keeps.updIo
    | with_reducible apply ioOk.ite | fail_if_no_progress with_reducible apply ioOk.upd | fail_if_no_progress with_reducible apply ioOk.updMem
    | fail_if_no_progress with_reducible apply ioOk.updEvq | fail_if_no_progress with_reducible apply ioOk.held
    | intro _

theorem execFoldedEventSecondEnd_keeps {dt : Nat} {s : State}  :
    ∃ s', execFoldedEventSecondEnd dt s = .next s' ∧ Keeps s s' := by
  unfold execFoldedEventSecondEnd
  refine ⟨_, rfl, ?_⟩
  try dsimp only
  repeat' first
    | with_reducible assumption | with_reducible exact Keeps.refl _ | with_reducible apply State.elapse_keeps
    | with_reducible apply State.endFold_keeps | with_reducible apply State.untilTime_keeps | with_reducible apply Keeps.ite
    | with_reducible apply Keeps.foldl | intro _ | split

end Sys2Proof.Machine
end

