-- ==== Sys2Proof/Laws/KeepsHostWrite.lean ====
section
/-! SUPPORT. What the operations of Machine/HostWrite.lean keep. -/

set_option Elab.async false

namespace Sys2Proof.Machine

theorem State.writeWord_keeps {base : State} {s : State} {off value : Nat} (hss : Keeps base s) :
    Keeps base (State.writeWord s off value) := by
  unfold State.writeWord
  try dsimp only
  repeat' first
    | with_reducible assumption | with_reducible apply State.hostFields_keeps | with_reducible apply State.tstWait_keeps
    | with_reducible apply State.writeCommit_keeps | with_reducible apply State.writeDiscard_keeps | with_reducible apply State.writeHewerReq_keeps
    | with_reducible apply State.writeMsix_keeps | with_reducible apply State.writeRstReq_keeps | with_reducible apply State.writeTst_keeps
    | with_reducible apply Keeps.ite | intro _ | split

theorem execRegisterWrite_keeps {dt off value be : Nat} {s : State}  :
    ∃ s', execRegisterWrite dt off value be s = .next s' ∧ Keeps s s' := by
  unfold execRegisterWrite
  refine ⟨_, rfl, ?_⟩
  try dsimp only
  repeat' first
    | with_reducible assumption | with_reducible exact Keeps.refl _ | with_reducible apply State.accessBad_keeps
    | with_reducible apply State.elapse_keeps | with_reducible apply State.writeWord_keeps | with_reducible apply Keeps.ite
    | intro _ | split

end Sys2Proof.Machine
end

