-- ==== Sys2Proof/Laws/State.lean ====
section
/-! SUPPORT. The fields of the state after each shared operation, one lemma a field; register reads after writes; the newest
event and completion after one is raised or made. -/

set_option Elab.async false

namespace Sys2Proof.Machine


/-! ### elapse -/

@[simp] theorem State.elapse_pending (s : State) (n : Nat) : (s.elapse n).pending = s.pending := rfl
@[simp] theorem State.elapse_dco (s : State) (n : Nat) : (s.elapse n).dco = s.dco := rfl
@[simp] theorem State.elapse_freeCtr (s : State) (n : Nat) : (s.elapse n).freeCtr = s.freeCtr := rfl
@[simp] theorem State.elapse_regs (s : State) (n : Nat) : (s.elapse n).regs = s.regs := rfl
@[simp] theorem State.elapse_io (s : State) (n : Nat) : (s.elapse n).io = s.io := rfl
@[simp] theorem State.elapse_shf (s : State) (n : Nat) : (s.elapse n).shf = s.shf := rfl
@[simp] theorem State.elapse_tim (s : State) (n : Nat) : (s.elapse n).tim = s.tim := rfl
@[simp] theorem State.elapse_flt (s : State) (n : Nat) : (s.elapse n).flt = s.flt := rfl
@[simp] theorem State.elapse_prt (s : State) (n : Nat) : (s.elapse n).prt = s.prt := rfl
@[simp] theorem State.elapse_rlk (s : State) (n : Nat) : (s.elapse n).rlk = s.rlk := rfl
@[simp] theorem State.elapse_frm (s : State) (n : Nat) : (s.elapse n).frm = s.frm := rfl
@[simp] theorem State.elapse_map (s : State) (n : Nat) : (s.elapse n).map = s.map := rfl
@[simp] theorem State.elapse_ovm (s : State) (n : Nat) : (s.elapse n).ovm = s.ovm := rfl
@[simp] theorem State.elapse_qmg (s : State) (n : Nat) : (s.elapse n).qmg = s.qmg := rfl
@[simp] theorem State.elapse_feeds (s : State) (n : Nat) : (s.elapse n).feeds = s.feeds := rfl
@[simp] theorem State.elapse_pm (s : State) (n : Nat) : (s.elapse n).pm = s.pm := rfl
@[simp] theorem State.elapse_cip (s : State) (n : Nat) : (s.elapse n).cip = s.cip := rfl
@[simp] theorem State.elapse_par (s : State) (n : Nat) : (s.elapse n).par = s.par := rfl
@[simp] theorem State.elapse_eng (s : State) (n : Nat) : (s.elapse n).eng = s.eng := rfl
@[simp] theorem State.elapse_asy (s : State) (n : Nat) : (s.elapse n).asy = s.asy := rfl
@[simp] theorem State.elapse_bkg (s : State) (n : Nat) : (s.elapse n).bkg = s.bkg := rfl
@[simp] theorem State.elapse_sec (s : State) (n : Nat) : (s.elapse n).sec = s.sec := rfl
@[simp] theorem State.elapse_sys (s : State) (n : Nat) : (s.elapse n).sys = s.sys := rfl
@[simp] theorem State.elapse_rd (s : State) (n : Nat) (g : Fld) (j : Nat) : (s.elapse n).rd g j = s.rd g j := rfl
@[simp] theorem State.elapse_rdBit (s : State) (n : Nat) (g : Fld) (j : Nat) : (s.elapse n).rdBit g j = s.rdBit g j := rfl
@[simp] theorem State.elapse_rdInt (s : State) (n : Nat) (g : Fld) (j : Nat) : (s.elapse n).rdInt g j = s.rdInt g j := rfl

/-! ### wr -/

@[simp] theorem State.wr_pending (s : State) (f : Fld) (i v : Nat) : (s.wr f i v).pending = s.pending := rfl
@[simp] theorem State.wr_time (s : State) (f : Fld) (i v : Nat) : (s.wr f i v).time = s.time := rfl
@[simp] theorem State.wr_addr (s : State) (f : Fld) (i v : Nat) : (s.wr f i v).addr = s.addr := rfl
@[simp] theorem State.wr_dco (s : State) (f : Fld) (i v : Nat) : (s.wr f i v).dco = s.dco := rfl
@[simp] theorem State.wr_freeCtr (s : State) (f : Fld) (i v : Nat) : (s.wr f i v).freeCtr = s.freeCtr := rfl
@[simp] theorem State.wr_io (s : State) (f : Fld) (i v : Nat) : (s.wr f i v).io = s.io := rfl
@[simp] theorem State.wr_shf (s : State) (f : Fld) (i v : Nat) : (s.wr f i v).shf = s.shf := rfl
@[simp] theorem State.wr_tim (s : State) (f : Fld) (i v : Nat) : (s.wr f i v).tim = s.tim := rfl
@[simp] theorem State.wr_flt (s : State) (f : Fld) (i v : Nat) : (s.wr f i v).flt = s.flt := rfl
@[simp] theorem State.wr_prt (s : State) (f : Fld) (i v : Nat) : (s.wr f i v).prt = s.prt := rfl
@[simp] theorem State.wr_rlk (s : State) (f : Fld) (i v : Nat) : (s.wr f i v).rlk = s.rlk := rfl
@[simp] theorem State.wr_frm (s : State) (f : Fld) (i v : Nat) : (s.wr f i v).frm = s.frm := rfl
@[simp] theorem State.wr_map (s : State) (f : Fld) (i v : Nat) : (s.wr f i v).map = s.map := rfl
@[simp] theorem State.wr_ovm (s : State) (f : Fld) (i v : Nat) : (s.wr f i v).ovm = s.ovm := rfl
@[simp] theorem State.wr_qmg (s : State) (f : Fld) (i v : Nat) : (s.wr f i v).qmg = s.qmg := rfl
@[simp] theorem State.wr_feeds (s : State) (f : Fld) (i v : Nat) : (s.wr f i v).feeds = s.feeds := rfl
@[simp] theorem State.wr_pm (s : State) (f : Fld) (i v : Nat) : (s.wr f i v).pm = s.pm := rfl
@[simp] theorem State.wr_cip (s : State) (f : Fld) (i v : Nat) : (s.wr f i v).cip = s.cip := rfl
@[simp] theorem State.wr_par (s : State) (f : Fld) (i v : Nat) : (s.wr f i v).par = s.par := rfl
@[simp] theorem State.wr_eng (s : State) (f : Fld) (i v : Nat) : (s.wr f i v).eng = s.eng := rfl
@[simp] theorem State.wr_asy (s : State) (f : Fld) (i v : Nat) : (s.wr f i v).asy = s.asy := rfl
@[simp] theorem State.wr_bkg (s : State) (f : Fld) (i v : Nat) : (s.wr f i v).bkg = s.bkg := rfl
@[simp] theorem State.wr_sec (s : State) (f : Fld) (i v : Nat) : (s.wr f i v).sec = s.sec := rfl
@[simp] theorem State.wr_sys (s : State) (f : Fld) (i v : Nat) : (s.wr f i v).sys = s.sys := rfl

/-! ### wrInt -/

@[simp] theorem State.wrInt_pending (s : State) (f : Fld) (i : Nat) (v : Int) : (s.wrInt f i v).pending = s.pending := rfl
@[simp] theorem State.wrInt_time (s : State) (f : Fld) (i : Nat) (v : Int) : (s.wrInt f i v).time = s.time := rfl
@[simp] theorem State.wrInt_addr (s : State) (f : Fld) (i : Nat) (v : Int) : (s.wrInt f i v).addr = s.addr := rfl
@[simp] theorem State.wrInt_dco (s : State) (f : Fld) (i : Nat) (v : Int) : (s.wrInt f i v).dco = s.dco := rfl
@[simp] theorem State.wrInt_freeCtr (s : State) (f : Fld) (i : Nat) (v : Int) : (s.wrInt f i v).freeCtr = s.freeCtr := rfl
@[simp] theorem State.wrInt_io (s : State) (f : Fld) (i : Nat) (v : Int) : (s.wrInt f i v).io = s.io := rfl
@[simp] theorem State.wrInt_shf (s : State) (f : Fld) (i : Nat) (v : Int) : (s.wrInt f i v).shf = s.shf := rfl
@[simp] theorem State.wrInt_tim (s : State) (f : Fld) (i : Nat) (v : Int) : (s.wrInt f i v).tim = s.tim := rfl
@[simp] theorem State.wrInt_flt (s : State) (f : Fld) (i : Nat) (v : Int) : (s.wrInt f i v).flt = s.flt := rfl
@[simp] theorem State.wrInt_prt (s : State) (f : Fld) (i : Nat) (v : Int) : (s.wrInt f i v).prt = s.prt := rfl
@[simp] theorem State.wrInt_rlk (s : State) (f : Fld) (i : Nat) (v : Int) : (s.wrInt f i v).rlk = s.rlk := rfl
@[simp] theorem State.wrInt_frm (s : State) (f : Fld) (i : Nat) (v : Int) : (s.wrInt f i v).frm = s.frm := rfl
@[simp] theorem State.wrInt_map (s : State) (f : Fld) (i : Nat) (v : Int) : (s.wrInt f i v).map = s.map := rfl
@[simp] theorem State.wrInt_ovm (s : State) (f : Fld) (i : Nat) (v : Int) : (s.wrInt f i v).ovm = s.ovm := rfl
@[simp] theorem State.wrInt_qmg (s : State) (f : Fld) (i : Nat) (v : Int) : (s.wrInt f i v).qmg = s.qmg := rfl
@[simp] theorem State.wrInt_feeds (s : State) (f : Fld) (i : Nat) (v : Int) : (s.wrInt f i v).feeds = s.feeds := rfl
@[simp] theorem State.wrInt_pm (s : State) (f : Fld) (i : Nat) (v : Int) : (s.wrInt f i v).pm = s.pm := rfl
@[simp] theorem State.wrInt_cip (s : State) (f : Fld) (i : Nat) (v : Int) : (s.wrInt f i v).cip = s.cip := rfl
@[simp] theorem State.wrInt_par (s : State) (f : Fld) (i : Nat) (v : Int) : (s.wrInt f i v).par = s.par := rfl
@[simp] theorem State.wrInt_eng (s : State) (f : Fld) (i : Nat) (v : Int) : (s.wrInt f i v).eng = s.eng := rfl
@[simp] theorem State.wrInt_asy (s : State) (f : Fld) (i : Nat) (v : Int) : (s.wrInt f i v).asy = s.asy := rfl
@[simp] theorem State.wrInt_bkg (s : State) (f : Fld) (i : Nat) (v : Int) : (s.wrInt f i v).bkg = s.bkg := rfl
@[simp] theorem State.wrInt_sec (s : State) (f : Fld) (i : Nat) (v : Int) : (s.wrInt f i v).sec = s.sec := rfl
@[simp] theorem State.wrInt_sys (s : State) (f : Fld) (i : Nat) (v : Int) : (s.wrInt f i v).sys = s.sys := rfl

/-! ### wrBit -/

@[simp] theorem State.wrBit_pending (s : State) (f : Fld) (i : Nat) (b : Bool) : (s.wrBit f i b).pending = s.pending := rfl
@[simp] theorem State.wrBit_time (s : State) (f : Fld) (i : Nat) (b : Bool) : (s.wrBit f i b).time = s.time := rfl
@[simp] theorem State.wrBit_addr (s : State) (f : Fld) (i : Nat) (b : Bool) : (s.wrBit f i b).addr = s.addr := rfl
@[simp] theorem State.wrBit_dco (s : State) (f : Fld) (i : Nat) (b : Bool) : (s.wrBit f i b).dco = s.dco := rfl
@[simp] theorem State.wrBit_freeCtr (s : State) (f : Fld) (i : Nat) (b : Bool) : (s.wrBit f i b).freeCtr = s.freeCtr := rfl
@[simp] theorem State.wrBit_io (s : State) (f : Fld) (i : Nat) (b : Bool) : (s.wrBit f i b).io = s.io := rfl
@[simp] theorem State.wrBit_shf (s : State) (f : Fld) (i : Nat) (b : Bool) : (s.wrBit f i b).shf = s.shf := rfl
@[simp] theorem State.wrBit_tim (s : State) (f : Fld) (i : Nat) (b : Bool) : (s.wrBit f i b).tim = s.tim := rfl
@[simp] theorem State.wrBit_flt (s : State) (f : Fld) (i : Nat) (b : Bool) : (s.wrBit f i b).flt = s.flt := rfl
@[simp] theorem State.wrBit_prt (s : State) (f : Fld) (i : Nat) (b : Bool) : (s.wrBit f i b).prt = s.prt := rfl
@[simp] theorem State.wrBit_rlk (s : State) (f : Fld) (i : Nat) (b : Bool) : (s.wrBit f i b).rlk = s.rlk := rfl
@[simp] theorem State.wrBit_frm (s : State) (f : Fld) (i : Nat) (b : Bool) : (s.wrBit f i b).frm = s.frm := rfl
@[simp] theorem State.wrBit_map (s : State) (f : Fld) (i : Nat) (b : Bool) : (s.wrBit f i b).map = s.map := rfl
@[simp] theorem State.wrBit_ovm (s : State) (f : Fld) (i : Nat) (b : Bool) : (s.wrBit f i b).ovm = s.ovm := rfl
@[simp] theorem State.wrBit_qmg (s : State) (f : Fld) (i : Nat) (b : Bool) : (s.wrBit f i b).qmg = s.qmg := rfl
@[simp] theorem State.wrBit_feeds (s : State) (f : Fld) (i : Nat) (b : Bool) : (s.wrBit f i b).feeds = s.feeds := rfl
@[simp] theorem State.wrBit_pm (s : State) (f : Fld) (i : Nat) (b : Bool) : (s.wrBit f i b).pm = s.pm := rfl
@[simp] theorem State.wrBit_cip (s : State) (f : Fld) (i : Nat) (b : Bool) : (s.wrBit f i b).cip = s.cip := rfl
@[simp] theorem State.wrBit_par (s : State) (f : Fld) (i : Nat) (b : Bool) : (s.wrBit f i b).par = s.par := rfl
@[simp] theorem State.wrBit_eng (s : State) (f : Fld) (i : Nat) (b : Bool) : (s.wrBit f i b).eng = s.eng := rfl
@[simp] theorem State.wrBit_asy (s : State) (f : Fld) (i : Nat) (b : Bool) : (s.wrBit f i b).asy = s.asy := rfl
@[simp] theorem State.wrBit_bkg (s : State) (f : Fld) (i : Nat) (b : Bool) : (s.wrBit f i b).bkg = s.bkg := rfl
@[simp] theorem State.wrBit_sec (s : State) (f : Fld) (i : Nat) (b : Bool) : (s.wrBit f i b).sec = s.sec := rfl
@[simp] theorem State.wrBit_sys (s : State) (f : Fld) (i : Nat) (b : Bool) : (s.wrBit f i b).sys = s.sys := rfl

/-! ### countBy -/

@[simp] theorem State.countBy_pending (s : State) (f : Fld) (i n : Nat) : (s.countBy f i n).pending = s.pending := rfl
@[simp] theorem State.countBy_time (s : State) (f : Fld) (i n : Nat) : (s.countBy f i n).time = s.time := rfl
@[simp] theorem State.countBy_addr (s : State) (f : Fld) (i n : Nat) : (s.countBy f i n).addr = s.addr := rfl
@[simp] theorem State.countBy_dco (s : State) (f : Fld) (i n : Nat) : (s.countBy f i n).dco = s.dco := rfl
@[simp] theorem State.countBy_freeCtr (s : State) (f : Fld) (i n : Nat) : (s.countBy f i n).freeCtr = s.freeCtr := rfl
@[simp] theorem State.countBy_io (s : State) (f : Fld) (i n : Nat) : (s.countBy f i n).io = s.io := rfl
@[simp] theorem State.countBy_shf (s : State) (f : Fld) (i n : Nat) : (s.countBy f i n).shf = s.shf := rfl
@[simp] theorem State.countBy_tim (s : State) (f : Fld) (i n : Nat) : (s.countBy f i n).tim = s.tim := rfl
@[simp] theorem State.countBy_flt (s : State) (f : Fld) (i n : Nat) : (s.countBy f i n).flt = s.flt := rfl
@[simp] theorem State.countBy_prt (s : State) (f : Fld) (i n : Nat) : (s.countBy f i n).prt = s.prt := rfl
@[simp] theorem State.countBy_rlk (s : State) (f : Fld) (i n : Nat) : (s.countBy f i n).rlk = s.rlk := rfl
@[simp] theorem State.countBy_frm (s : State) (f : Fld) (i n : Nat) : (s.countBy f i n).frm = s.frm := rfl
@[simp] theorem State.countBy_map (s : State) (f : Fld) (i n : Nat) : (s.countBy f i n).map = s.map := rfl
@[simp] theorem State.countBy_ovm (s : State) (f : Fld) (i n : Nat) : (s.countBy f i n).ovm = s.ovm := rfl
@[simp] theorem State.countBy_qmg (s : State) (f : Fld) (i n : Nat) : (s.countBy f i n).qmg = s.qmg := rfl
@[simp] theorem State.countBy_feeds (s : State) (f : Fld) (i n : Nat) : (s.countBy f i n).feeds = s.feeds := rfl
@[simp] theorem State.countBy_pm (s : State) (f : Fld) (i n : Nat) : (s.countBy f i n).pm = s.pm := rfl
@[simp] theorem State.countBy_cip (s : State) (f : Fld) (i n : Nat) : (s.countBy f i n).cip = s.cip := rfl
@[simp] theorem State.countBy_par (s : State) (f : Fld) (i n : Nat) : (s.countBy f i n).par = s.par := rfl
@[simp] theorem State.countBy_eng (s : State) (f : Fld) (i n : Nat) : (s.countBy f i n).eng = s.eng := rfl
@[simp] theorem State.countBy_asy (s : State) (f : Fld) (i n : Nat) : (s.countBy f i n).asy = s.asy := rfl
@[simp] theorem State.countBy_bkg (s : State) (f : Fld) (i n : Nat) : (s.countBy f i n).bkg = s.bkg := rfl
@[simp] theorem State.countBy_sec (s : State) (f : Fld) (i n : Nat) : (s.countBy f i n).sec = s.sec := rfl
@[simp] theorem State.countBy_sys (s : State) (f : Fld) (i n : Nat) : (s.countBy f i n).sys = s.sys := rfl

/-! ### count -/

@[simp] theorem State.count_pending (s : State) (f : Fld) (i : Nat) : (s.count f i).pending = s.pending := rfl
@[simp] theorem State.count_time (s : State) (f : Fld) (i : Nat) : (s.count f i).time = s.time := rfl
@[simp] theorem State.count_addr (s : State) (f : Fld) (i : Nat) : (s.count f i).addr = s.addr := rfl
@[simp] theorem State.count_dco (s : State) (f : Fld) (i : Nat) : (s.count f i).dco = s.dco := rfl
@[simp] theorem State.count_freeCtr (s : State) (f : Fld) (i : Nat) : (s.count f i).freeCtr = s.freeCtr := rfl
@[simp] theorem State.count_io (s : State) (f : Fld) (i : Nat) : (s.count f i).io = s.io := rfl
@[simp] theorem State.count_shf (s : State) (f : Fld) (i : Nat) : (s.count f i).shf = s.shf := rfl
@[simp] theorem State.count_tim (s : State) (f : Fld) (i : Nat) : (s.count f i).tim = s.tim := rfl
@[simp] theorem State.count_flt (s : State) (f : Fld) (i : Nat) : (s.count f i).flt = s.flt := rfl
@[simp] theorem State.count_prt (s : State) (f : Fld) (i : Nat) : (s.count f i).prt = s.prt := rfl
@[simp] theorem State.count_rlk (s : State) (f : Fld) (i : Nat) : (s.count f i).rlk = s.rlk := rfl
@[simp] theorem State.count_frm (s : State) (f : Fld) (i : Nat) : (s.count f i).frm = s.frm := rfl
@[simp] theorem State.count_map (s : State) (f : Fld) (i : Nat) : (s.count f i).map = s.map := rfl
@[simp] theorem State.count_ovm (s : State) (f : Fld) (i : Nat) : (s.count f i).ovm = s.ovm := rfl
@[simp] theorem State.count_qmg (s : State) (f : Fld) (i : Nat) : (s.count f i).qmg = s.qmg := rfl
@[simp] theorem State.count_feeds (s : State) (f : Fld) (i : Nat) : (s.count f i).feeds = s.feeds := rfl
@[simp] theorem State.count_pm (s : State) (f : Fld) (i : Nat) : (s.count f i).pm = s.pm := rfl
@[simp] theorem State.count_cip (s : State) (f : Fld) (i : Nat) : (s.count f i).cip = s.cip := rfl
@[simp] theorem State.count_par (s : State) (f : Fld) (i : Nat) : (s.count f i).par = s.par := rfl
@[simp] theorem State.count_eng (s : State) (f : Fld) (i : Nat) : (s.count f i).eng = s.eng := rfl
@[simp] theorem State.count_asy (s : State) (f : Fld) (i : Nat) : (s.count f i).asy = s.asy := rfl
@[simp] theorem State.count_bkg (s : State) (f : Fld) (i : Nat) : (s.count f i).bkg = s.bkg := rfl
@[simp] theorem State.count_sec (s : State) (f : Fld) (i : Nat) : (s.count f i).sec = s.sec := rfl
@[simp] theorem State.count_sys (s : State) (f : Fld) (i : Nat) : (s.count f i).sys = s.sys := rfl

/-! ### draw -/

@[simp] theorem State.draw_pending (s : State) : (s.draw).pending = s.pending := rfl
@[simp] theorem State.draw_time (s : State) : (s.draw).time = s.time := rfl
@[simp] theorem State.draw_addr (s : State) : (s.draw).addr = s.addr := rfl
@[simp] theorem State.draw_dco (s : State) : (s.draw).dco = s.dco := rfl
@[simp] theorem State.draw_regs (s : State) : (s.draw).regs = s.regs := rfl
@[simp] theorem State.draw_io (s : State) : (s.draw).io = s.io := rfl
@[simp] theorem State.draw_shf (s : State) : (s.draw).shf = s.shf := rfl
@[simp] theorem State.draw_tim (s : State) : (s.draw).tim = s.tim := rfl
@[simp] theorem State.draw_flt (s : State) : (s.draw).flt = s.flt := rfl
@[simp] theorem State.draw_prt (s : State) : (s.draw).prt = s.prt := rfl
@[simp] theorem State.draw_rlk (s : State) : (s.draw).rlk = s.rlk := rfl
@[simp] theorem State.draw_frm (s : State) : (s.draw).frm = s.frm := rfl
@[simp] theorem State.draw_map (s : State) : (s.draw).map = s.map := rfl
@[simp] theorem State.draw_ovm (s : State) : (s.draw).ovm = s.ovm := rfl
@[simp] theorem State.draw_qmg (s : State) : (s.draw).qmg = s.qmg := rfl
@[simp] theorem State.draw_feeds (s : State) : (s.draw).feeds = s.feeds := rfl
@[simp] theorem State.draw_pm (s : State) : (s.draw).pm = s.pm := rfl
@[simp] theorem State.draw_cip (s : State) : (s.draw).cip = s.cip := rfl
@[simp] theorem State.draw_par (s : State) : (s.draw).par = s.par := rfl
@[simp] theorem State.draw_eng (s : State) : (s.draw).eng = s.eng := rfl
@[simp] theorem State.draw_asy (s : State) : (s.draw).asy = s.asy := rfl
@[simp] theorem State.draw_bkg (s : State) : (s.draw).bkg = s.bkg := rfl
@[simp] theorem State.draw_sec (s : State) : (s.draw).sec = s.sec := rfl
@[simp] theorem State.draw_sys (s : State) : (s.draw).sys = s.sys := rfl
@[simp] theorem State.draw_rd (s : State) (g : Fld) (j : Nat) : (s.draw).rd g j = s.rd g j := rfl
@[simp] theorem State.draw_rdBit (s : State) (g : Fld) (j : Nat) : (s.draw).rdBit g j = s.rdBit g j := rfl
@[simp] theorem State.draw_rdInt (s : State) (g : Fld) (j : Nat) : (s.draw).rdInt g j = s.rdInt g j := rfl

/-! ### raise -/

@[simp] theorem State.raise_pending (s : State) (code src : Nat) (d : List (Nat × Nat)) : (s.raise code src d).pending = s.pending := rfl
@[simp] theorem State.raise_time (s : State) (code src : Nat) (d : List (Nat × Nat)) : (s.raise code src d).time = s.time := rfl
@[simp] theorem State.raise_addr (s : State) (code src : Nat) (d : List (Nat × Nat)) : (s.raise code src d).addr = s.addr := rfl
@[simp] theorem State.raise_dco (s : State) (code src : Nat) (d : List (Nat × Nat)) : (s.raise code src d).dco = s.dco := rfl
@[simp] theorem State.raise_freeCtr (s : State) (code src : Nat) (d : List (Nat × Nat)) : (s.raise code src d).freeCtr = s.freeCtr := rfl
@[simp] theorem State.raise_regs (s : State) (code src : Nat) (d : List (Nat × Nat)) : (s.raise code src d).regs = s.regs := rfl
@[simp] theorem State.raise_shf (s : State) (code src : Nat) (d : List (Nat × Nat)) : (s.raise code src d).shf = s.shf := rfl
@[simp] theorem State.raise_tim (s : State) (code src : Nat) (d : List (Nat × Nat)) : (s.raise code src d).tim = s.tim := rfl
@[simp] theorem State.raise_flt (s : State) (code src : Nat) (d : List (Nat × Nat)) : (s.raise code src d).flt = s.flt := rfl
@[simp] theorem State.raise_prt (s : State) (code src : Nat) (d : List (Nat × Nat)) : (s.raise code src d).prt = s.prt := rfl
@[simp] theorem State.raise_rlk (s : State) (code src : Nat) (d : List (Nat × Nat)) : (s.raise code src d).rlk = s.rlk := rfl
@[simp] theorem State.raise_frm (s : State) (code src : Nat) (d : List (Nat × Nat)) : (s.raise code src d).frm = s.frm := rfl
@[simp] theorem State.raise_map (s : State) (code src : Nat) (d : List (Nat × Nat)) : (s.raise code src d).map = s.map := rfl
@[simp] theorem State.raise_ovm (s : State) (code src : Nat) (d : List (Nat × Nat)) : (s.raise code src d).ovm = s.ovm := rfl
@[simp] theorem State.raise_qmg (s : State) (code src : Nat) (d : List (Nat × Nat)) : (s.raise code src d).qmg = s.qmg := rfl
@[simp] theorem State.raise_feeds (s : State) (code src : Nat) (d : List (Nat × Nat)) : (s.raise code src d).feeds = s.feeds := rfl
@[simp] theorem State.raise_pm (s : State) (code src : Nat) (d : List (Nat × Nat)) : (s.raise code src d).pm = s.pm := rfl
@[simp] theorem State.raise_cip (s : State) (code src : Nat) (d : List (Nat × Nat)) : (s.raise code src d).cip = s.cip := rfl
@[simp] theorem State.raise_par (s : State) (code src : Nat) (d : List (Nat × Nat)) : (s.raise code src d).par = s.par := rfl
@[simp] theorem State.raise_eng (s : State) (code src : Nat) (d : List (Nat × Nat)) : (s.raise code src d).eng = s.eng := rfl
@[simp] theorem State.raise_asy (s : State) (code src : Nat) (d : List (Nat × Nat)) : (s.raise code src d).asy = s.asy := rfl
@[simp] theorem State.raise_bkg (s : State) (code src : Nat) (d : List (Nat × Nat)) : (s.raise code src d).bkg = s.bkg := rfl
@[simp] theorem State.raise_sec (s : State) (code src : Nat) (d : List (Nat × Nat)) : (s.raise code src d).sec = s.sec := rfl
@[simp] theorem State.raise_sys (s : State) (code src : Nat) (d : List (Nat × Nat)) : (s.raise code src d).sys = s.sys := rfl
@[simp] theorem State.raise_rd (s : State) (code src : Nat) (d : List (Nat × Nat)) (g : Fld) (j : Nat) : (s.raise code src d).rd g j = s.rd g j := rfl
@[simp] theorem State.raise_rdBit (s : State) (code src : Nat) (d : List (Nat × Nat)) (g : Fld) (j : Nat) : (s.raise code src d).rdBit g j = s.rdBit g j := rfl
@[simp] theorem State.raise_rdInt (s : State) (code src : Nat) (d : List (Nat × Nat)) (g : Fld) (j : Nat) : (s.raise code src d).rdInt g j = s.rdInt g j := rfl

/-! ### raiseC -/

@[simp] theorem State.raiseC_pending (s : State) (code src : Nat) (d : List (Nat × Nat)) : (s.raiseC code src d).pending = s.pending := rfl
@[simp] theorem State.raiseC_time (s : State) (code src : Nat) (d : List (Nat × Nat)) : (s.raiseC code src d).time = s.time := rfl
@[simp] theorem State.raiseC_addr (s : State) (code src : Nat) (d : List (Nat × Nat)) : (s.raiseC code src d).addr = s.addr := rfl
@[simp] theorem State.raiseC_dco (s : State) (code src : Nat) (d : List (Nat × Nat)) : (s.raiseC code src d).dco = s.dco := rfl
@[simp] theorem State.raiseC_freeCtr (s : State) (code src : Nat) (d : List (Nat × Nat)) : (s.raiseC code src d).freeCtr = s.freeCtr := rfl
@[simp] theorem State.raiseC_regs (s : State) (code src : Nat) (d : List (Nat × Nat)) : (s.raiseC code src d).regs = s.regs := rfl
@[simp] theorem State.raiseC_shf (s : State) (code src : Nat) (d : List (Nat × Nat)) : (s.raiseC code src d).shf = s.shf := rfl
@[simp] theorem State.raiseC_tim (s : State) (code src : Nat) (d : List (Nat × Nat)) : (s.raiseC code src d).tim = s.tim := rfl
@[simp] theorem State.raiseC_flt (s : State) (code src : Nat) (d : List (Nat × Nat)) : (s.raiseC code src d).flt = s.flt := rfl
@[simp] theorem State.raiseC_prt (s : State) (code src : Nat) (d : List (Nat × Nat)) : (s.raiseC code src d).prt = s.prt := rfl
@[simp] theorem State.raiseC_rlk (s : State) (code src : Nat) (d : List (Nat × Nat)) : (s.raiseC code src d).rlk = s.rlk := rfl
@[simp] theorem State.raiseC_frm (s : State) (code src : Nat) (d : List (Nat × Nat)) : (s.raiseC code src d).frm = s.frm := rfl
@[simp] theorem State.raiseC_map (s : State) (code src : Nat) (d : List (Nat × Nat)) : (s.raiseC code src d).map = s.map := rfl
@[simp] theorem State.raiseC_ovm (s : State) (code src : Nat) (d : List (Nat × Nat)) : (s.raiseC code src d).ovm = s.ovm := rfl
@[simp] theorem State.raiseC_qmg (s : State) (code src : Nat) (d : List (Nat × Nat)) : (s.raiseC code src d).qmg = s.qmg := rfl
@[simp] theorem State.raiseC_feeds (s : State) (code src : Nat) (d : List (Nat × Nat)) : (s.raiseC code src d).feeds = s.feeds := rfl
@[simp] theorem State.raiseC_pm (s : State) (code src : Nat) (d : List (Nat × Nat)) : (s.raiseC code src d).pm = s.pm := rfl
@[simp] theorem State.raiseC_cip (s : State) (code src : Nat) (d : List (Nat × Nat)) : (s.raiseC code src d).cip = s.cip := rfl
@[simp] theorem State.raiseC_par (s : State) (code src : Nat) (d : List (Nat × Nat)) : (s.raiseC code src d).par = s.par := rfl
@[simp] theorem State.raiseC_eng (s : State) (code src : Nat) (d : List (Nat × Nat)) : (s.raiseC code src d).eng = s.eng := rfl
@[simp] theorem State.raiseC_asy (s : State) (code src : Nat) (d : List (Nat × Nat)) : (s.raiseC code src d).asy = s.asy := rfl
@[simp] theorem State.raiseC_bkg (s : State) (code src : Nat) (d : List (Nat × Nat)) : (s.raiseC code src d).bkg = s.bkg := rfl
@[simp] theorem State.raiseC_sec (s : State) (code src : Nat) (d : List (Nat × Nat)) : (s.raiseC code src d).sec = s.sec := rfl
@[simp] theorem State.raiseC_sys (s : State) (code src : Nat) (d : List (Nat × Nat)) : (s.raiseC code src d).sys = s.sys := rfl
@[simp] theorem State.raiseC_rd (s : State) (code src : Nat) (d : List (Nat × Nat)) (g : Fld) (j : Nat) : (s.raiseC code src d).rd g j = s.rd g j := rfl
@[simp] theorem State.raiseC_rdBit (s : State) (code src : Nat) (d : List (Nat × Nat)) (g : Fld) (j : Nat) : (s.raiseC code src d).rdBit g j = s.rdBit g j := rfl
@[simp] theorem State.raiseC_rdInt (s : State) (code src : Nat) (d : List (Nat × Nat)) (g : Fld) (j : Nat) : (s.raiseC code src d).rdInt g j = s.rdInt g j := rfl

/-! ### raiseFolded -/

@[simp] theorem State.raiseFolded_pending (s : State) (code src : Nat) (d : List (Nat × Nat)) : (s.raiseFolded code src d).pending = s.pending := rfl
@[simp] theorem State.raiseFolded_time (s : State) (code src : Nat) (d : List (Nat × Nat)) : (s.raiseFolded code src d).time = s.time := rfl
@[simp] theorem State.raiseFolded_addr (s : State) (code src : Nat) (d : List (Nat × Nat)) : (s.raiseFolded code src d).addr = s.addr := rfl
@[simp] theorem State.raiseFolded_dco (s : State) (code src : Nat) (d : List (Nat × Nat)) : (s.raiseFolded code src d).dco = s.dco := rfl
@[simp] theorem State.raiseFolded_freeCtr (s : State) (code src : Nat) (d : List (Nat × Nat)) : (s.raiseFolded code src d).freeCtr = s.freeCtr := rfl
@[simp] theorem State.raiseFolded_regs (s : State) (code src : Nat) (d : List (Nat × Nat)) : (s.raiseFolded code src d).regs = s.regs := rfl
@[simp] theorem State.raiseFolded_shf (s : State) (code src : Nat) (d : List (Nat × Nat)) : (s.raiseFolded code src d).shf = s.shf := rfl
@[simp] theorem State.raiseFolded_tim (s : State) (code src : Nat) (d : List (Nat × Nat)) : (s.raiseFolded code src d).tim = s.tim := rfl
@[simp] theorem State.raiseFolded_flt (s : State) (code src : Nat) (d : List (Nat × Nat)) : (s.raiseFolded code src d).flt = s.flt := rfl
@[simp] theorem State.raiseFolded_prt (s : State) (code src : Nat) (d : List (Nat × Nat)) : (s.raiseFolded code src d).prt = s.prt := rfl
@[simp] theorem State.raiseFolded_rlk (s : State) (code src : Nat) (d : List (Nat × Nat)) : (s.raiseFolded code src d).rlk = s.rlk := rfl
@[simp] theorem State.raiseFolded_frm (s : State) (code src : Nat) (d : List (Nat × Nat)) : (s.raiseFolded code src d).frm = s.frm := rfl
@[simp] theorem State.raiseFolded_map (s : State) (code src : Nat) (d : List (Nat × Nat)) : (s.raiseFolded code src d).map = s.map := rfl
@[simp] theorem State.raiseFolded_ovm (s : State) (code src : Nat) (d : List (Nat × Nat)) : (s.raiseFolded code src d).ovm = s.ovm := rfl
@[simp] theorem State.raiseFolded_qmg (s : State) (code src : Nat) (d : List (Nat × Nat)) : (s.raiseFolded code src d).qmg = s.qmg := rfl
@[simp] theorem State.raiseFolded_feeds (s : State) (code src : Nat) (d : List (Nat × Nat)) : (s.raiseFolded code src d).feeds = s.feeds := rfl
@[simp] theorem State.raiseFolded_pm (s : State) (code src : Nat) (d : List (Nat × Nat)) : (s.raiseFolded code src d).pm = s.pm := rfl
@[simp] theorem State.raiseFolded_cip (s : State) (code src : Nat) (d : List (Nat × Nat)) : (s.raiseFolded code src d).cip = s.cip := rfl
@[simp] theorem State.raiseFolded_par (s : State) (code src : Nat) (d : List (Nat × Nat)) : (s.raiseFolded code src d).par = s.par := rfl
@[simp] theorem State.raiseFolded_eng (s : State) (code src : Nat) (d : List (Nat × Nat)) : (s.raiseFolded code src d).eng = s.eng := rfl
@[simp] theorem State.raiseFolded_asy (s : State) (code src : Nat) (d : List (Nat × Nat)) : (s.raiseFolded code src d).asy = s.asy := rfl
@[simp] theorem State.raiseFolded_bkg (s : State) (code src : Nat) (d : List (Nat × Nat)) : (s.raiseFolded code src d).bkg = s.bkg := rfl
@[simp] theorem State.raiseFolded_sec (s : State) (code src : Nat) (d : List (Nat × Nat)) : (s.raiseFolded code src d).sec = s.sec := rfl
@[simp] theorem State.raiseFolded_sys (s : State) (code src : Nat) (d : List (Nat × Nat)) : (s.raiseFolded code src d).sys = s.sys := rfl
@[simp] theorem State.raiseFolded_rd (s : State) (code src : Nat) (d : List (Nat × Nat)) (g : Fld) (j : Nat) : (s.raiseFolded code src d).rd g j = s.rd g j := rfl
@[simp] theorem State.raiseFolded_rdBit (s : State) (code src : Nat) (d : List (Nat × Nat)) (g : Fld) (j : Nat) : (s.raiseFolded code src d).rdBit g j = s.rdBit g j := rfl
@[simp] theorem State.raiseFolded_rdInt (s : State) (code src : Nat) (d : List (Nat × Nat)) (g : Fld) (j : Nat) : (s.raiseFolded code src d).rdInt g j = s.rdInt g j := rfl

/-! ### raiseIf -/

@[simp] theorem State.raiseIf_pending (s : State) (b : Bool) (code src : Nat) (d : List (Nat × Nat)) : (s.raiseIf b code src d).pending = s.pending := by cases b <;> rfl
@[simp] theorem State.raiseIf_time (s : State) (b : Bool) (code src : Nat) (d : List (Nat × Nat)) : (s.raiseIf b code src d).time = s.time := by cases b <;> rfl
@[simp] theorem State.raiseIf_addr (s : State) (b : Bool) (code src : Nat) (d : List (Nat × Nat)) : (s.raiseIf b code src d).addr = s.addr := by cases b <;> rfl
@[simp] theorem State.raiseIf_dco (s : State) (b : Bool) (code src : Nat) (d : List (Nat × Nat)) : (s.raiseIf b code src d).dco = s.dco := by cases b <;> rfl
@[simp] theorem State.raiseIf_freeCtr (s : State) (b : Bool) (code src : Nat) (d : List (Nat × Nat)) : (s.raiseIf b code src d).freeCtr = s.freeCtr := by cases b <;> rfl
@[simp] theorem State.raiseIf_regs (s : State) (b : Bool) (code src : Nat) (d : List (Nat × Nat)) : (s.raiseIf b code src d).regs = s.regs := by cases b <;> rfl
@[simp] theorem State.raiseIf_shf (s : State) (b : Bool) (code src : Nat) (d : List (Nat × Nat)) : (s.raiseIf b code src d).shf = s.shf := by cases b <;> rfl
@[simp] theorem State.raiseIf_tim (s : State) (b : Bool) (code src : Nat) (d : List (Nat × Nat)) : (s.raiseIf b code src d).tim = s.tim := by cases b <;> rfl
@[simp] theorem State.raiseIf_flt (s : State) (b : Bool) (code src : Nat) (d : List (Nat × Nat)) : (s.raiseIf b code src d).flt = s.flt := by cases b <;> rfl
@[simp] theorem State.raiseIf_prt (s : State) (b : Bool) (code src : Nat) (d : List (Nat × Nat)) : (s.raiseIf b code src d).prt = s.prt := by cases b <;> rfl
@[simp] theorem State.raiseIf_rlk (s : State) (b : Bool) (code src : Nat) (d : List (Nat × Nat)) : (s.raiseIf b code src d).rlk = s.rlk := by cases b <;> rfl
@[simp] theorem State.raiseIf_frm (s : State) (b : Bool) (code src : Nat) (d : List (Nat × Nat)) : (s.raiseIf b code src d).frm = s.frm := by cases b <;> rfl
@[simp] theorem State.raiseIf_map (s : State) (b : Bool) (code src : Nat) (d : List (Nat × Nat)) : (s.raiseIf b code src d).map = s.map := by cases b <;> rfl
@[simp] theorem State.raiseIf_ovm (s : State) (b : Bool) (code src : Nat) (d : List (Nat × Nat)) : (s.raiseIf b code src d).ovm = s.ovm := by cases b <;> rfl
@[simp] theorem State.raiseIf_qmg (s : State) (b : Bool) (code src : Nat) (d : List (Nat × Nat)) : (s.raiseIf b code src d).qmg = s.qmg := by cases b <;> rfl
@[simp] theorem State.raiseIf_feeds (s : State) (b : Bool) (code src : Nat) (d : List (Nat × Nat)) : (s.raiseIf b code src d).feeds = s.feeds := by cases b <;> rfl
@[simp] theorem State.raiseIf_pm (s : State) (b : Bool) (code src : Nat) (d : List (Nat × Nat)) : (s.raiseIf b code src d).pm = s.pm := by cases b <;> rfl
@[simp] theorem State.raiseIf_cip (s : State) (b : Bool) (code src : Nat) (d : List (Nat × Nat)) : (s.raiseIf b code src d).cip = s.cip := by cases b <;> rfl
@[simp] theorem State.raiseIf_par (s : State) (b : Bool) (code src : Nat) (d : List (Nat × Nat)) : (s.raiseIf b code src d).par = s.par := by cases b <;> rfl
@[simp] theorem State.raiseIf_eng (s : State) (b : Bool) (code src : Nat) (d : List (Nat × Nat)) : (s.raiseIf b code src d).eng = s.eng := by cases b <;> rfl
@[simp] theorem State.raiseIf_asy (s : State) (b : Bool) (code src : Nat) (d : List (Nat × Nat)) : (s.raiseIf b code src d).asy = s.asy := by cases b <;> rfl
@[simp] theorem State.raiseIf_bkg (s : State) (b : Bool) (code src : Nat) (d : List (Nat × Nat)) : (s.raiseIf b code src d).bkg = s.bkg := by cases b <;> rfl
@[simp] theorem State.raiseIf_sec (s : State) (b : Bool) (code src : Nat) (d : List (Nat × Nat)) : (s.raiseIf b code src d).sec = s.sec := by cases b <;> rfl
@[simp] theorem State.raiseIf_sys (s : State) (b : Bool) (code src : Nat) (d : List (Nat × Nat)) : (s.raiseIf b code src d).sys = s.sys := by cases b <;> rfl
@[simp] theorem State.raiseIf_rd (s : State) (b : Bool) (code src : Nat) (d : List (Nat × Nat)) (g : Fld) (j : Nat) : (s.raiseIf b code src d).rd g j = s.rd g j := by
  simp only [State.rdBit, State.rdInt, State.rd, State.raiseIf_regs]
@[simp] theorem State.raiseIf_rdBit (s : State) (b : Bool) (code src : Nat) (d : List (Nat × Nat)) (g : Fld) (j : Nat) : (s.raiseIf b code src d).rdBit g j = s.rdBit g j := by
  simp only [State.rdBit, State.rdInt, State.rd, State.raiseIf_regs]
@[simp] theorem State.raiseIf_rdInt (s : State) (b : Bool) (code src : Nat) (d : List (Nat × Nat)) (g : Fld) (j : Nat) : (s.raiseIf b code src d).rdInt g j = s.rdInt g j := by
  simp only [State.rdBit, State.rdInt, State.rd, State.raiseIf_regs]

/-! ### complete -/

@[simp] theorem State.complete_pending (s : State) (h : HostRef) (op o r : Nat) (l : List (Nat × Nat)) : (s.complete h op o r l).pending = s.pending := rfl
@[simp] theorem State.complete_time (s : State) (h : HostRef) (op o r : Nat) (l : List (Nat × Nat)) : (s.complete h op o r l).time = s.time := rfl
@[simp] theorem State.complete_addr (s : State) (h : HostRef) (op o r : Nat) (l : List (Nat × Nat)) : (s.complete h op o r l).addr = s.addr := rfl
@[simp] theorem State.complete_dco (s : State) (h : HostRef) (op o r : Nat) (l : List (Nat × Nat)) : (s.complete h op o r l).dco = s.dco := rfl
@[simp] theorem State.complete_freeCtr (s : State) (h : HostRef) (op o r : Nat) (l : List (Nat × Nat)) : (s.complete h op o r l).freeCtr = s.freeCtr := rfl
@[simp] theorem State.complete_regs (s : State) (h : HostRef) (op o r : Nat) (l : List (Nat × Nat)) : (s.complete h op o r l).regs = s.regs := rfl
@[simp] theorem State.complete_shf (s : State) (h : HostRef) (op o r : Nat) (l : List (Nat × Nat)) : (s.complete h op o r l).shf = s.shf := rfl
@[simp] theorem State.complete_tim (s : State) (h : HostRef) (op o r : Nat) (l : List (Nat × Nat)) : (s.complete h op o r l).tim = s.tim := rfl
@[simp] theorem State.complete_flt (s : State) (h : HostRef) (op o r : Nat) (l : List (Nat × Nat)) : (s.complete h op o r l).flt = s.flt := rfl
@[simp] theorem State.complete_prt (s : State) (h : HostRef) (op o r : Nat) (l : List (Nat × Nat)) : (s.complete h op o r l).prt = s.prt := rfl
@[simp] theorem State.complete_rlk (s : State) (h : HostRef) (op o r : Nat) (l : List (Nat × Nat)) : (s.complete h op o r l).rlk = s.rlk := rfl
@[simp] theorem State.complete_frm (s : State) (h : HostRef) (op o r : Nat) (l : List (Nat × Nat)) : (s.complete h op o r l).frm = s.frm := rfl
@[simp] theorem State.complete_map (s : State) (h : HostRef) (op o r : Nat) (l : List (Nat × Nat)) : (s.complete h op o r l).map = s.map := rfl
@[simp] theorem State.complete_ovm (s : State) (h : HostRef) (op o r : Nat) (l : List (Nat × Nat)) : (s.complete h op o r l).ovm = s.ovm := rfl
@[simp] theorem State.complete_qmg (s : State) (h : HostRef) (op o r : Nat) (l : List (Nat × Nat)) : (s.complete h op o r l).qmg = s.qmg := rfl
@[simp] theorem State.complete_feeds (s : State) (h : HostRef) (op o r : Nat) (l : List (Nat × Nat)) : (s.complete h op o r l).feeds = s.feeds := rfl
@[simp] theorem State.complete_pm (s : State) (h : HostRef) (op o r : Nat) (l : List (Nat × Nat)) : (s.complete h op o r l).pm = s.pm := rfl
@[simp] theorem State.complete_cip (s : State) (h : HostRef) (op o r : Nat) (l : List (Nat × Nat)) : (s.complete h op o r l).cip = s.cip := rfl
@[simp] theorem State.complete_par (s : State) (h : HostRef) (op o r : Nat) (l : List (Nat × Nat)) : (s.complete h op o r l).par = s.par := rfl
@[simp] theorem State.complete_eng (s : State) (h : HostRef) (op o r : Nat) (l : List (Nat × Nat)) : (s.complete h op o r l).eng = s.eng := rfl
@[simp] theorem State.complete_asy (s : State) (h : HostRef) (op o r : Nat) (l : List (Nat × Nat)) : (s.complete h op o r l).asy = s.asy := rfl
@[simp] theorem State.complete_bkg (s : State) (h : HostRef) (op o r : Nat) (l : List (Nat × Nat)) : (s.complete h op o r l).bkg = s.bkg := rfl
@[simp] theorem State.complete_sec (s : State) (h : HostRef) (op o r : Nat) (l : List (Nat × Nat)) : (s.complete h op o r l).sec = s.sec := rfl
@[simp] theorem State.complete_sys (s : State) (h : HostRef) (op o r : Nat) (l : List (Nat × Nat)) : (s.complete h op o r l).sys = s.sys := rfl
@[simp] theorem State.complete_rd (s : State) (h : HostRef) (op o r : Nat) (l : List (Nat × Nat)) (g : Fld) (j : Nat) : (s.complete h op o r l).rd g j = s.rd g j := rfl
@[simp] theorem State.complete_rdBit (s : State) (h : HostRef) (op o r : Nat) (l : List (Nat × Nat)) (g : Fld) (j : Nat) : (s.complete h op o r l).rdBit g j = s.rdBit g j := rfl
@[simp] theorem State.complete_rdInt (s : State) (h : HostRef) (op o r : Nat) (l : List (Nat × Nat)) (g : Fld) (j : Nat) : (s.complete h op o r l).rdInt g j = s.rdInt g j := rfl

/-! ### done -/

@[simp] theorem State.done_pending (s : State) (h : HostRef) (op : Nat) : (s.done h op).pending = s.pending := rfl
@[simp] theorem State.done_time (s : State) (h : HostRef) (op : Nat) : (s.done h op).time = s.time := rfl
@[simp] theorem State.done_addr (s : State) (h : HostRef) (op : Nat) : (s.done h op).addr = s.addr := rfl
@[simp] theorem State.done_dco (s : State) (h : HostRef) (op : Nat) : (s.done h op).dco = s.dco := rfl
@[simp] theorem State.done_freeCtr (s : State) (h : HostRef) (op : Nat) : (s.done h op).freeCtr = s.freeCtr := rfl
@[simp] theorem State.done_regs (s : State) (h : HostRef) (op : Nat) : (s.done h op).regs = s.regs := rfl
@[simp] theorem State.done_shf (s : State) (h : HostRef) (op : Nat) : (s.done h op).shf = s.shf := rfl
@[simp] theorem State.done_tim (s : State) (h : HostRef) (op : Nat) : (s.done h op).tim = s.tim := rfl
@[simp] theorem State.done_flt (s : State) (h : HostRef) (op : Nat) : (s.done h op).flt = s.flt := rfl
@[simp] theorem State.done_prt (s : State) (h : HostRef) (op : Nat) : (s.done h op).prt = s.prt := rfl
@[simp] theorem State.done_rlk (s : State) (h : HostRef) (op : Nat) : (s.done h op).rlk = s.rlk := rfl
@[simp] theorem State.done_frm (s : State) (h : HostRef) (op : Nat) : (s.done h op).frm = s.frm := rfl
@[simp] theorem State.done_map (s : State) (h : HostRef) (op : Nat) : (s.done h op).map = s.map := rfl
@[simp] theorem State.done_ovm (s : State) (h : HostRef) (op : Nat) : (s.done h op).ovm = s.ovm := rfl
@[simp] theorem State.done_qmg (s : State) (h : HostRef) (op : Nat) : (s.done h op).qmg = s.qmg := rfl
@[simp] theorem State.done_feeds (s : State) (h : HostRef) (op : Nat) : (s.done h op).feeds = s.feeds := rfl
@[simp] theorem State.done_pm (s : State) (h : HostRef) (op : Nat) : (s.done h op).pm = s.pm := rfl
@[simp] theorem State.done_cip (s : State) (h : HostRef) (op : Nat) : (s.done h op).cip = s.cip := rfl
@[simp] theorem State.done_par (s : State) (h : HostRef) (op : Nat) : (s.done h op).par = s.par := rfl
@[simp] theorem State.done_eng (s : State) (h : HostRef) (op : Nat) : (s.done h op).eng = s.eng := rfl
@[simp] theorem State.done_asy (s : State) (h : HostRef) (op : Nat) : (s.done h op).asy = s.asy := rfl
@[simp] theorem State.done_bkg (s : State) (h : HostRef) (op : Nat) : (s.done h op).bkg = s.bkg := rfl
@[simp] theorem State.done_sec (s : State) (h : HostRef) (op : Nat) : (s.done h op).sec = s.sec := rfl
@[simp] theorem State.done_sys (s : State) (h : HostRef) (op : Nat) : (s.done h op).sys = s.sys := rfl
@[simp] theorem State.done_rd (s : State) (h : HostRef) (op : Nat) (g : Fld) (j : Nat) : (s.done h op).rd g j = s.rd g j := rfl
@[simp] theorem State.done_rdBit (s : State) (h : HostRef) (op : Nat) (g : Fld) (j : Nat) : (s.done h op).rdBit g j = s.rdBit g j := rfl
@[simp] theorem State.done_rdInt (s : State) (h : HostRef) (op : Nat) (g : Fld) (j : Nat) : (s.done h op).rdInt g j = s.rdInt g j := rfl

/-! ### refuse -/

@[simp] theorem State.refuse_pending (s : State) (h : HostRef) (op r : Nat) : (s.refuse h op r).pending = s.pending := rfl
@[simp] theorem State.refuse_time (s : State) (h : HostRef) (op r : Nat) : (s.refuse h op r).time = s.time := rfl
@[simp] theorem State.refuse_addr (s : State) (h : HostRef) (op r : Nat) : (s.refuse h op r).addr = s.addr := rfl
@[simp] theorem State.refuse_dco (s : State) (h : HostRef) (op r : Nat) : (s.refuse h op r).dco = s.dco := rfl
@[simp] theorem State.refuse_freeCtr (s : State) (h : HostRef) (op r : Nat) : (s.refuse h op r).freeCtr = s.freeCtr := rfl
@[simp] theorem State.refuse_regs (s : State) (h : HostRef) (op r : Nat) : (s.refuse h op r).regs = s.regs := rfl
@[simp] theorem State.refuse_shf (s : State) (h : HostRef) (op r : Nat) : (s.refuse h op r).shf = s.shf := rfl
@[simp] theorem State.refuse_tim (s : State) (h : HostRef) (op r : Nat) : (s.refuse h op r).tim = s.tim := rfl
@[simp] theorem State.refuse_flt (s : State) (h : HostRef) (op r : Nat) : (s.refuse h op r).flt = s.flt := rfl
@[simp] theorem State.refuse_prt (s : State) (h : HostRef) (op r : Nat) : (s.refuse h op r).prt = s.prt := rfl
@[simp] theorem State.refuse_rlk (s : State) (h : HostRef) (op r : Nat) : (s.refuse h op r).rlk = s.rlk := rfl
@[simp] theorem State.refuse_frm (s : State) (h : HostRef) (op r : Nat) : (s.refuse h op r).frm = s.frm := rfl
@[simp] theorem State.refuse_map (s : State) (h : HostRef) (op r : Nat) : (s.refuse h op r).map = s.map := rfl
@[simp] theorem State.refuse_ovm (s : State) (h : HostRef) (op r : Nat) : (s.refuse h op r).ovm = s.ovm := rfl
@[simp] theorem State.refuse_qmg (s : State) (h : HostRef) (op r : Nat) : (s.refuse h op r).qmg = s.qmg := rfl
@[simp] theorem State.refuse_feeds (s : State) (h : HostRef) (op r : Nat) : (s.refuse h op r).feeds = s.feeds := rfl
@[simp] theorem State.refuse_pm (s : State) (h : HostRef) (op r : Nat) : (s.refuse h op r).pm = s.pm := rfl
@[simp] theorem State.refuse_cip (s : State) (h : HostRef) (op r : Nat) : (s.refuse h op r).cip = s.cip := rfl
@[simp] theorem State.refuse_par (s : State) (h : HostRef) (op r : Nat) : (s.refuse h op r).par = s.par := rfl
@[simp] theorem State.refuse_eng (s : State) (h : HostRef) (op r : Nat) : (s.refuse h op r).eng = s.eng := rfl
@[simp] theorem State.refuse_asy (s : State) (h : HostRef) (op r : Nat) : (s.refuse h op r).asy = s.asy := rfl
@[simp] theorem State.refuse_bkg (s : State) (h : HostRef) (op r : Nat) : (s.refuse h op r).bkg = s.bkg := rfl
@[simp] theorem State.refuse_sec (s : State) (h : HostRef) (op r : Nat) : (s.refuse h op r).sec = s.sec := rfl
@[simp] theorem State.refuse_sys (s : State) (h : HostRef) (op r : Nat) : (s.refuse h op r).sys = s.sys := rfl
@[simp] theorem State.refuse_rd (s : State) (h : HostRef) (op r : Nat) (g : Fld) (j : Nat) : (s.refuse h op r).rd g j = s.rd g j := rfl
@[simp] theorem State.refuse_rdBit (s : State) (h : HostRef) (op r : Nat) (g : Fld) (j : Nat) : (s.refuse h op r).rdBit g j = s.rdBit g j := rfl
@[simp] theorem State.refuse_rdInt (s : State) (h : HostRef) (op r : Nat) (g : Fld) (j : Nat) : (s.refuse h op r).rdInt g j = s.rdInt g j := rfl

/-! ### reject -/

@[simp] theorem State.reject_pending (s : State) (h : HostRef) (op r : Nat) : (s.reject h op r).pending = s.pending := rfl
@[simp] theorem State.reject_time (s : State) (h : HostRef) (op r : Nat) : (s.reject h op r).time = s.time := rfl
@[simp] theorem State.reject_addr (s : State) (h : HostRef) (op r : Nat) : (s.reject h op r).addr = s.addr := rfl
@[simp] theorem State.reject_dco (s : State) (h : HostRef) (op r : Nat) : (s.reject h op r).dco = s.dco := rfl
@[simp] theorem State.reject_freeCtr (s : State) (h : HostRef) (op r : Nat) : (s.reject h op r).freeCtr = s.freeCtr := rfl
@[simp] theorem State.reject_regs (s : State) (h : HostRef) (op r : Nat) : (s.reject h op r).regs = s.regs := rfl
@[simp] theorem State.reject_shf (s : State) (h : HostRef) (op r : Nat) : (s.reject h op r).shf = s.shf := rfl
@[simp] theorem State.reject_tim (s : State) (h : HostRef) (op r : Nat) : (s.reject h op r).tim = s.tim := rfl
@[simp] theorem State.reject_flt (s : State) (h : HostRef) (op r : Nat) : (s.reject h op r).flt = s.flt := rfl
@[simp] theorem State.reject_prt (s : State) (h : HostRef) (op r : Nat) : (s.reject h op r).prt = s.prt := rfl
@[simp] theorem State.reject_rlk (s : State) (h : HostRef) (op r : Nat) : (s.reject h op r).rlk = s.rlk := rfl
@[simp] theorem State.reject_frm (s : State) (h : HostRef) (op r : Nat) : (s.reject h op r).frm = s.frm := rfl
@[simp] theorem State.reject_map (s : State) (h : HostRef) (op r : Nat) : (s.reject h op r).map = s.map := rfl
@[simp] theorem State.reject_ovm (s : State) (h : HostRef) (op r : Nat) : (s.reject h op r).ovm = s.ovm := rfl
@[simp] theorem State.reject_qmg (s : State) (h : HostRef) (op r : Nat) : (s.reject h op r).qmg = s.qmg := rfl
@[simp] theorem State.reject_feeds (s : State) (h : HostRef) (op r : Nat) : (s.reject h op r).feeds = s.feeds := rfl
@[simp] theorem State.reject_pm (s : State) (h : HostRef) (op r : Nat) : (s.reject h op r).pm = s.pm := rfl
@[simp] theorem State.reject_cip (s : State) (h : HostRef) (op r : Nat) : (s.reject h op r).cip = s.cip := rfl
@[simp] theorem State.reject_par (s : State) (h : HostRef) (op r : Nat) : (s.reject h op r).par = s.par := rfl
@[simp] theorem State.reject_eng (s : State) (h : HostRef) (op r : Nat) : (s.reject h op r).eng = s.eng := rfl
@[simp] theorem State.reject_asy (s : State) (h : HostRef) (op r : Nat) : (s.reject h op r).asy = s.asy := rfl
@[simp] theorem State.reject_bkg (s : State) (h : HostRef) (op r : Nat) : (s.reject h op r).bkg = s.bkg := rfl
@[simp] theorem State.reject_sec (s : State) (h : HostRef) (op r : Nat) : (s.reject h op r).sec = s.sec := rfl
@[simp] theorem State.reject_sys (s : State) (h : HostRef) (op r : Nat) : (s.reject h op r).sys = s.sys := rfl
@[simp] theorem State.reject_rd (s : State) (h : HostRef) (op r : Nat) (g : Fld) (j : Nat) : (s.reject h op r).rd g j = s.rd g j := rfl
@[simp] theorem State.reject_rdBit (s : State) (h : HostRef) (op r : Nat) (g : Fld) (j : Nat) : (s.reject h op r).rdBit g j = s.rdBit g j := rfl
@[simp] theorem State.reject_rdInt (s : State) (h : HostRef) (op r : Nat) (g : Fld) (j : Nat) : (s.reject h op r).rdInt g j = s.rdInt g j := rfl

/-! ### hostWrite -/

@[simp] theorem State.hostWrite_pending (s : State) (a : Nat) (l : List Nat) : (s.hostWrite a l).pending = s.pending := rfl
@[simp] theorem State.hostWrite_time (s : State) (a : Nat) (l : List Nat) : (s.hostWrite a l).time = s.time := rfl
@[simp] theorem State.hostWrite_addr (s : State) (a : Nat) (l : List Nat) : (s.hostWrite a l).addr = s.addr := rfl
@[simp] theorem State.hostWrite_dco (s : State) (a : Nat) (l : List Nat) : (s.hostWrite a l).dco = s.dco := rfl
@[simp] theorem State.hostWrite_freeCtr (s : State) (a : Nat) (l : List Nat) : (s.hostWrite a l).freeCtr = s.freeCtr := rfl
@[simp] theorem State.hostWrite_regs (s : State) (a : Nat) (l : List Nat) : (s.hostWrite a l).regs = s.regs := rfl
@[simp] theorem State.hostWrite_shf (s : State) (a : Nat) (l : List Nat) : (s.hostWrite a l).shf = s.shf := rfl
@[simp] theorem State.hostWrite_tim (s : State) (a : Nat) (l : List Nat) : (s.hostWrite a l).tim = s.tim := rfl
@[simp] theorem State.hostWrite_flt (s : State) (a : Nat) (l : List Nat) : (s.hostWrite a l).flt = s.flt := rfl
@[simp] theorem State.hostWrite_prt (s : State) (a : Nat) (l : List Nat) : (s.hostWrite a l).prt = s.prt := rfl
@[simp] theorem State.hostWrite_rlk (s : State) (a : Nat) (l : List Nat) : (s.hostWrite a l).rlk = s.rlk := rfl
@[simp] theorem State.hostWrite_frm (s : State) (a : Nat) (l : List Nat) : (s.hostWrite a l).frm = s.frm := rfl
@[simp] theorem State.hostWrite_map (s : State) (a : Nat) (l : List Nat) : (s.hostWrite a l).map = s.map := rfl
@[simp] theorem State.hostWrite_ovm (s : State) (a : Nat) (l : List Nat) : (s.hostWrite a l).ovm = s.ovm := rfl
@[simp] theorem State.hostWrite_qmg (s : State) (a : Nat) (l : List Nat) : (s.hostWrite a l).qmg = s.qmg := rfl
@[simp] theorem State.hostWrite_feeds (s : State) (a : Nat) (l : List Nat) : (s.hostWrite a l).feeds = s.feeds := rfl
@[simp] theorem State.hostWrite_pm (s : State) (a : Nat) (l : List Nat) : (s.hostWrite a l).pm = s.pm := rfl
@[simp] theorem State.hostWrite_cip (s : State) (a : Nat) (l : List Nat) : (s.hostWrite a l).cip = s.cip := rfl
@[simp] theorem State.hostWrite_par (s : State) (a : Nat) (l : List Nat) : (s.hostWrite a l).par = s.par := rfl
@[simp] theorem State.hostWrite_eng (s : State) (a : Nat) (l : List Nat) : (s.hostWrite a l).eng = s.eng := rfl
@[simp] theorem State.hostWrite_asy (s : State) (a : Nat) (l : List Nat) : (s.hostWrite a l).asy = s.asy := rfl
@[simp] theorem State.hostWrite_bkg (s : State) (a : Nat) (l : List Nat) : (s.hostWrite a l).bkg = s.bkg := rfl
@[simp] theorem State.hostWrite_sec (s : State) (a : Nat) (l : List Nat) : (s.hostWrite a l).sec = s.sec := rfl
@[simp] theorem State.hostWrite_sys (s : State) (a : Nat) (l : List Nat) : (s.hostWrite a l).sys = s.sys := rfl
@[simp] theorem State.hostWrite_rd (s : State) (a : Nat) (l : List Nat) (g : Fld) (j : Nat) : (s.hostWrite a l).rd g j = s.rd g j := rfl
@[simp] theorem State.hostWrite_rdBit (s : State) (a : Nat) (l : List Nat) (g : Fld) (j : Nat) : (s.hostWrite a l).rdBit g j = s.rdBit g j := rfl
@[simp] theorem State.hostWrite_rdInt (s : State) (a : Nat) (l : List Nat) (g : Fld) (j : Nat) : (s.hostWrite a l).rdInt g j = s.rdInt g j := rfl

/-! ### waitAddr -/

@[simp] theorem State.waitAddr_pending (s : State) (a : Nat) : (s.waitAddr a).pending = s.pending := by unfold State.waitAddr; split <;> rfl
@[simp] theorem State.waitAddr_dco (s : State) (a : Nat) : (s.waitAddr a).dco = s.dco := by unfold State.waitAddr; split <;> rfl
@[simp] theorem State.waitAddr_freeCtr (s : State) (a : Nat) : (s.waitAddr a).freeCtr = s.freeCtr := by unfold State.waitAddr; split <;> rfl
@[simp] theorem State.waitAddr_regs (s : State) (a : Nat) : (s.waitAddr a).regs = s.regs := by unfold State.waitAddr; split <;> rfl
@[simp] theorem State.waitAddr_io (s : State) (a : Nat) : (s.waitAddr a).io = s.io := by unfold State.waitAddr; split <;> rfl
@[simp] theorem State.waitAddr_shf (s : State) (a : Nat) : (s.waitAddr a).shf = s.shf := by unfold State.waitAddr; split <;> rfl
@[simp] theorem State.waitAddr_tim (s : State) (a : Nat) : (s.waitAddr a).tim = s.tim := by unfold State.waitAddr; split <;> rfl
@[simp] theorem State.waitAddr_flt (s : State) (a : Nat) : (s.waitAddr a).flt = s.flt := by unfold State.waitAddr; split <;> rfl
@[simp] theorem State.waitAddr_prt (s : State) (a : Nat) : (s.waitAddr a).prt = s.prt := by unfold State.waitAddr; split <;> rfl
@[simp] theorem State.waitAddr_rlk (s : State) (a : Nat) : (s.waitAddr a).rlk = s.rlk := by unfold State.waitAddr; split <;> rfl
@[simp] theorem State.waitAddr_frm (s : State) (a : Nat) : (s.waitAddr a).frm = s.frm := by unfold State.waitAddr; split <;> rfl
@[simp] theorem State.waitAddr_map (s : State) (a : Nat) : (s.waitAddr a).map = s.map := by unfold State.waitAddr; split <;> rfl
@[simp] theorem State.waitAddr_ovm (s : State) (a : Nat) : (s.waitAddr a).ovm = s.ovm := by unfold State.waitAddr; split <;> rfl
@[simp] theorem State.waitAddr_qmg (s : State) (a : Nat) : (s.waitAddr a).qmg = s.qmg := by unfold State.waitAddr; split <;> rfl
@[simp] theorem State.waitAddr_feeds (s : State) (a : Nat) : (s.waitAddr a).feeds = s.feeds := by unfold State.waitAddr; split <;> rfl
@[simp] theorem State.waitAddr_pm (s : State) (a : Nat) : (s.waitAddr a).pm = s.pm := by unfold State.waitAddr; split <;> rfl
@[simp] theorem State.waitAddr_cip (s : State) (a : Nat) : (s.waitAddr a).cip = s.cip := by unfold State.waitAddr; split <;> rfl
@[simp] theorem State.waitAddr_par (s : State) (a : Nat) : (s.waitAddr a).par = s.par := by unfold State.waitAddr; split <;> rfl
@[simp] theorem State.waitAddr_eng (s : State) (a : Nat) : (s.waitAddr a).eng = s.eng := by unfold State.waitAddr; split <;> rfl
@[simp] theorem State.waitAddr_asy (s : State) (a : Nat) : (s.waitAddr a).asy = s.asy := by unfold State.waitAddr; split <;> rfl
@[simp] theorem State.waitAddr_bkg (s : State) (a : Nat) : (s.waitAddr a).bkg = s.bkg := by unfold State.waitAddr; split <;> rfl
@[simp] theorem State.waitAddr_sec (s : State) (a : Nat) : (s.waitAddr a).sec = s.sec := by unfold State.waitAddr; split <;> rfl
@[simp] theorem State.waitAddr_sys (s : State) (a : Nat) : (s.waitAddr a).sys = s.sys := by unfold State.waitAddr; split <;> rfl
@[simp] theorem State.waitAddr_rd (s : State) (a : Nat) (g : Fld) (j : Nat) : (s.waitAddr a).rd g j = s.rd g j := by
  simp only [State.rdBit, State.rdInt, State.rd, State.waitAddr_regs]
@[simp] theorem State.waitAddr_rdBit (s : State) (a : Nat) (g : Fld) (j : Nat) : (s.waitAddr a).rdBit g j = s.rdBit g j := by
  simp only [State.rdBit, State.rdInt, State.rd, State.waitAddr_regs]
@[simp] theorem State.waitAddr_rdInt (s : State) (a : Nat) (g : Fld) (j : Nat) : (s.waitAddr a).rdInt g j = s.rdInt g j := by
  simp only [State.rdBit, State.rdInt, State.rd, State.waitAddr_regs]

/-! ### raiseLim -/

/-- A rate-limited event changes only the host side. -/
theorem State.raiseLim_only (s : State) (lim code n src : Nat) (d : List (Nat × Nat)) :
    ∃ io, s.raiseLim lim code n src d = { s with io := io } := by
  unfold State.raiseLim
  extract_lets k r0 r1 s1 r2
  split
  · exact ⟨_, rfl⟩
  · exact ⟨_, rfl⟩

@[simp] theorem State.raiseLim_pending (s : State) (lim code n src : Nat) (d : List (Nat × Nat)) : (s.raiseLim lim code n src d).pending = s.pending := by obtain ⟨io, h⟩ := State.raiseLim_only s lim code n src d; rw [h]
@[simp] theorem State.raiseLim_time (s : State) (lim code n src : Nat) (d : List (Nat × Nat)) : (s.raiseLim lim code n src d).time = s.time := by obtain ⟨io, h⟩ := State.raiseLim_only s lim code n src d; rw [h]
@[simp] theorem State.raiseLim_addr (s : State) (lim code n src : Nat) (d : List (Nat × Nat)) : (s.raiseLim lim code n src d).addr = s.addr := by obtain ⟨io, h⟩ := State.raiseLim_only s lim code n src d; rw [h]
@[simp] theorem State.raiseLim_dco (s : State) (lim code n src : Nat) (d : List (Nat × Nat)) : (s.raiseLim lim code n src d).dco = s.dco := by obtain ⟨io, h⟩ := State.raiseLim_only s lim code n src d; rw [h]
@[simp] theorem State.raiseLim_freeCtr (s : State) (lim code n src : Nat) (d : List (Nat × Nat)) : (s.raiseLim lim code n src d).freeCtr = s.freeCtr := by obtain ⟨io, h⟩ := State.raiseLim_only s lim code n src d; rw [h]
@[simp] theorem State.raiseLim_regs (s : State) (lim code n src : Nat) (d : List (Nat × Nat)) : (s.raiseLim lim code n src d).regs = s.regs := by obtain ⟨io, h⟩ := State.raiseLim_only s lim code n src d; rw [h]
@[simp] theorem State.raiseLim_shf (s : State) (lim code n src : Nat) (d : List (Nat × Nat)) : (s.raiseLim lim code n src d).shf = s.shf := by obtain ⟨io, h⟩ := State.raiseLim_only s lim code n src d; rw [h]
@[simp] theorem State.raiseLim_tim (s : State) (lim code n src : Nat) (d : List (Nat × Nat)) : (s.raiseLim lim code n src d).tim = s.tim := by obtain ⟨io, h⟩ := State.raiseLim_only s lim code n src d; rw [h]
@[simp] theorem State.raiseLim_flt (s : State) (lim code n src : Nat) (d : List (Nat × Nat)) : (s.raiseLim lim code n src d).flt = s.flt := by obtain ⟨io, h⟩ := State.raiseLim_only s lim code n src d; rw [h]
@[simp] theorem State.raiseLim_prt (s : State) (lim code n src : Nat) (d : List (Nat × Nat)) : (s.raiseLim lim code n src d).prt = s.prt := by obtain ⟨io, h⟩ := State.raiseLim_only s lim code n src d; rw [h]
@[simp] theorem State.raiseLim_rlk (s : State) (lim code n src : Nat) (d : List (Nat × Nat)) : (s.raiseLim lim code n src d).rlk = s.rlk := by obtain ⟨io, h⟩ := State.raiseLim_only s lim code n src d; rw [h]
@[simp] theorem State.raiseLim_frm (s : State) (lim code n src : Nat) (d : List (Nat × Nat)) : (s.raiseLim lim code n src d).frm = s.frm := by obtain ⟨io, h⟩ := State.raiseLim_only s lim code n src d; rw [h]
@[simp] theorem State.raiseLim_map (s : State) (lim code n src : Nat) (d : List (Nat × Nat)) : (s.raiseLim lim code n src d).map = s.map := by obtain ⟨io, h⟩ := State.raiseLim_only s lim code n src d; rw [h]
@[simp] theorem State.raiseLim_ovm (s : State) (lim code n src : Nat) (d : List (Nat × Nat)) : (s.raiseLim lim code n src d).ovm = s.ovm := by obtain ⟨io, h⟩ := State.raiseLim_only s lim code n src d; rw [h]
@[simp] theorem State.raiseLim_qmg (s : State) (lim code n src : Nat) (d : List (Nat × Nat)) : (s.raiseLim lim code n src d).qmg = s.qmg := by obtain ⟨io, h⟩ := State.raiseLim_only s lim code n src d; rw [h]
@[simp] theorem State.raiseLim_feeds (s : State) (lim code n src : Nat) (d : List (Nat × Nat)) : (s.raiseLim lim code n src d).feeds = s.feeds := by obtain ⟨io, h⟩ := State.raiseLim_only s lim code n src d; rw [h]
@[simp] theorem State.raiseLim_pm (s : State) (lim code n src : Nat) (d : List (Nat × Nat)) : (s.raiseLim lim code n src d).pm = s.pm := by obtain ⟨io, h⟩ := State.raiseLim_only s lim code n src d; rw [h]
@[simp] theorem State.raiseLim_cip (s : State) (lim code n src : Nat) (d : List (Nat × Nat)) : (s.raiseLim lim code n src d).cip = s.cip := by obtain ⟨io, h⟩ := State.raiseLim_only s lim code n src d; rw [h]
@[simp] theorem State.raiseLim_par (s : State) (lim code n src : Nat) (d : List (Nat × Nat)) : (s.raiseLim lim code n src d).par = s.par := by obtain ⟨io, h⟩ := State.raiseLim_only s lim code n src d; rw [h]
@[simp] theorem State.raiseLim_eng (s : State) (lim code n src : Nat) (d : List (Nat × Nat)) : (s.raiseLim lim code n src d).eng = s.eng := by obtain ⟨io, h⟩ := State.raiseLim_only s lim code n src d; rw [h]
@[simp] theorem State.raiseLim_asy (s : State) (lim code n src : Nat) (d : List (Nat × Nat)) : (s.raiseLim lim code n src d).asy = s.asy := by obtain ⟨io, h⟩ := State.raiseLim_only s lim code n src d; rw [h]
@[simp] theorem State.raiseLim_bkg (s : State) (lim code n src : Nat) (d : List (Nat × Nat)) : (s.raiseLim lim code n src d).bkg = s.bkg := by obtain ⟨io, h⟩ := State.raiseLim_only s lim code n src d; rw [h]
@[simp] theorem State.raiseLim_sec (s : State) (lim code n src : Nat) (d : List (Nat × Nat)) : (s.raiseLim lim code n src d).sec = s.sec := by obtain ⟨io, h⟩ := State.raiseLim_only s lim code n src d; rw [h]
@[simp] theorem State.raiseLim_sys (s : State) (lim code n src : Nat) (d : List (Nat × Nat)) : (s.raiseLim lim code n src d).sys = s.sys := by obtain ⟨io, h⟩ := State.raiseLim_only s lim code n src d; rw [h]
@[simp] theorem State.raiseLim_rd (s : State) (lim code n src : Nat) (d : List (Nat × Nat)) (g : Fld) (j : Nat) : (s.raiseLim lim code n src d).rd g j = s.rd g j := by
  simp only [State.rdBit, State.rdInt, State.rd, State.raiseLim_regs]
@[simp] theorem State.raiseLim_rdBit (s : State) (lim code n src : Nat) (d : List (Nat × Nat)) (g : Fld) (j : Nat) : (s.raiseLim lim code n src d).rdBit g j = s.rdBit g j := by
  simp only [State.rdBit, State.rdInt, State.rd, State.raiseLim_regs]
@[simp] theorem State.raiseLim_rdInt (s : State) (lim code n src : Nat) (d : List (Nat × Nat)) (g : Fld) (j : Nat) : (s.raiseLim lim code n src d).rdInt g j = s.rdInt g j := by
  simp only [State.rdBit, State.rdInt, State.rd, State.raiseLim_regs]

/-! ### raiseOnce -/

/-- An event raised once a second changes only the host side. -/
theorem State.raiseOnce_only (s : State) (code n src : Nat) (mk : Nat → List (Nat × Nat)) :
    ∃ io, s.raiseOnce code n src mk = { s with io := io } := by
  unfold State.raiseOnce
  extract_lets k
  split
  · exact ⟨_, rfl⟩
  · split
    · exact ⟨_, rfl⟩
    · exact ⟨_, rfl⟩

@[simp] theorem State.raiseOnce_pending (s : State) (code n src : Nat) (mk : Nat → List (Nat × Nat)) : (s.raiseOnce code n src mk).pending = s.pending := by obtain ⟨io, h⟩ := State.raiseOnce_only s code n src mk; rw [h]
@[simp] theorem State.raiseOnce_time (s : State) (code n src : Nat) (mk : Nat → List (Nat × Nat)) : (s.raiseOnce code n src mk).time = s.time := by obtain ⟨io, h⟩ := State.raiseOnce_only s code n src mk; rw [h]
@[simp] theorem State.raiseOnce_addr (s : State) (code n src : Nat) (mk : Nat → List (Nat × Nat)) : (s.raiseOnce code n src mk).addr = s.addr := by obtain ⟨io, h⟩ := State.raiseOnce_only s code n src mk; rw [h]
@[simp] theorem State.raiseOnce_dco (s : State) (code n src : Nat) (mk : Nat → List (Nat × Nat)) : (s.raiseOnce code n src mk).dco = s.dco := by obtain ⟨io, h⟩ := State.raiseOnce_only s code n src mk; rw [h]
@[simp] theorem State.raiseOnce_freeCtr (s : State) (code n src : Nat) (mk : Nat → List (Nat × Nat)) : (s.raiseOnce code n src mk).freeCtr = s.freeCtr := by obtain ⟨io, h⟩ := State.raiseOnce_only s code n src mk; rw [h]
@[simp] theorem State.raiseOnce_regs (s : State) (code n src : Nat) (mk : Nat → List (Nat × Nat)) : (s.raiseOnce code n src mk).regs = s.regs := by obtain ⟨io, h⟩ := State.raiseOnce_only s code n src mk; rw [h]
@[simp] theorem State.raiseOnce_shf (s : State) (code n src : Nat) (mk : Nat → List (Nat × Nat)) : (s.raiseOnce code n src mk).shf = s.shf := by obtain ⟨io, h⟩ := State.raiseOnce_only s code n src mk; rw [h]
@[simp] theorem State.raiseOnce_tim (s : State) (code n src : Nat) (mk : Nat → List (Nat × Nat)) : (s.raiseOnce code n src mk).tim = s.tim := by obtain ⟨io, h⟩ := State.raiseOnce_only s code n src mk; rw [h]
@[simp] theorem State.raiseOnce_flt (s : State) (code n src : Nat) (mk : Nat → List (Nat × Nat)) : (s.raiseOnce code n src mk).flt = s.flt := by obtain ⟨io, h⟩ := State.raiseOnce_only s code n src mk; rw [h]
@[simp] theorem State.raiseOnce_prt (s : State) (code n src : Nat) (mk : Nat → List (Nat × Nat)) : (s.raiseOnce code n src mk).prt = s.prt := by obtain ⟨io, h⟩ := State.raiseOnce_only s code n src mk; rw [h]
@[simp] theorem State.raiseOnce_rlk (s : State) (code n src : Nat) (mk : Nat → List (Nat × Nat)) : (s.raiseOnce code n src mk).rlk = s.rlk := by obtain ⟨io, h⟩ := State.raiseOnce_only s code n src mk; rw [h]
@[simp] theorem State.raiseOnce_frm (s : State) (code n src : Nat) (mk : Nat → List (Nat × Nat)) : (s.raiseOnce code n src mk).frm = s.frm := by obtain ⟨io, h⟩ := State.raiseOnce_only s code n src mk; rw [h]
@[simp] theorem State.raiseOnce_map (s : State) (code n src : Nat) (mk : Nat → List (Nat × Nat)) : (s.raiseOnce code n src mk).map = s.map := by obtain ⟨io, h⟩ := State.raiseOnce_only s code n src mk; rw [h]
@[simp] theorem State.raiseOnce_ovm (s : State) (code n src : Nat) (mk : Nat → List (Nat × Nat)) : (s.raiseOnce code n src mk).ovm = s.ovm := by obtain ⟨io, h⟩ := State.raiseOnce_only s code n src mk; rw [h]
@[simp] theorem State.raiseOnce_qmg (s : State) (code n src : Nat) (mk : Nat → List (Nat × Nat)) : (s.raiseOnce code n src mk).qmg = s.qmg := by obtain ⟨io, h⟩ := State.raiseOnce_only s code n src mk; rw [h]
@[simp] theorem State.raiseOnce_feeds (s : State) (code n src : Nat) (mk : Nat → List (Nat × Nat)) : (s.raiseOnce code n src mk).feeds = s.feeds := by obtain ⟨io, h⟩ := State.raiseOnce_only s code n src mk; rw [h]
@[simp] theorem State.raiseOnce_pm (s : State) (code n src : Nat) (mk : Nat → List (Nat × Nat)) : (s.raiseOnce code n src mk).pm = s.pm := by obtain ⟨io, h⟩ := State.raiseOnce_only s code n src mk; rw [h]
@[simp] theorem State.raiseOnce_cip (s : State) (code n src : Nat) (mk : Nat → List (Nat × Nat)) : (s.raiseOnce code n src mk).cip = s.cip := by obtain ⟨io, h⟩ := State.raiseOnce_only s code n src mk; rw [h]
@[simp] theorem State.raiseOnce_par (s : State) (code n src : Nat) (mk : Nat → List (Nat × Nat)) : (s.raiseOnce code n src mk).par = s.par := by obtain ⟨io, h⟩ := State.raiseOnce_only s code n src mk; rw [h]
@[simp] theorem State.raiseOnce_eng (s : State) (code n src : Nat) (mk : Nat → List (Nat × Nat)) : (s.raiseOnce code n src mk).eng = s.eng := by obtain ⟨io, h⟩ := State.raiseOnce_only s code n src mk; rw [h]
@[simp] theorem State.raiseOnce_asy (s : State) (code n src : Nat) (mk : Nat → List (Nat × Nat)) : (s.raiseOnce code n src mk).asy = s.asy := by obtain ⟨io, h⟩ := State.raiseOnce_only s code n src mk; rw [h]
@[simp] theorem State.raiseOnce_bkg (s : State) (code n src : Nat) (mk : Nat → List (Nat × Nat)) : (s.raiseOnce code n src mk).bkg = s.bkg := by obtain ⟨io, h⟩ := State.raiseOnce_only s code n src mk; rw [h]
@[simp] theorem State.raiseOnce_sec (s : State) (code n src : Nat) (mk : Nat → List (Nat × Nat)) : (s.raiseOnce code n src mk).sec = s.sec := by obtain ⟨io, h⟩ := State.raiseOnce_only s code n src mk; rw [h]
@[simp] theorem State.raiseOnce_sys (s : State) (code n src : Nat) (mk : Nat → List (Nat × Nat)) : (s.raiseOnce code n src mk).sys = s.sys := by obtain ⟨io, h⟩ := State.raiseOnce_only s code n src mk; rw [h]
@[simp] theorem State.raiseOnce_rd (s : State) (code n src : Nat) (mk : Nat → List (Nat × Nat)) (g : Fld) (j : Nat) : (s.raiseOnce code n src mk).rd g j = s.rd g j := by
  simp only [State.rdBit, State.rdInt, State.rd, State.raiseOnce_regs]
@[simp] theorem State.raiseOnce_rdBit (s : State) (code n src : Nat) (mk : Nat → List (Nat × Nat)) (g : Fld) (j : Nat) : (s.raiseOnce code n src mk).rdBit g j = s.rdBit g j := by
  simp only [State.rdBit, State.rdInt, State.rd, State.raiseOnce_regs]
@[simp] theorem State.raiseOnce_rdInt (s : State) (code n src : Nat) (mk : Nat → List (Nat × Nat)) (g : Fld) (j : Nat) : (s.raiseOnce code n src mk).rdInt g j = s.rdInt g j := by
  simp only [State.rdBit, State.rdInt, State.rd, State.raiseOnce_regs]

/-! ### Register reads -/

theorem State.wr_rd (s : State) (f g : Fld) (i j v : Nat) :
    (s.wr f i v).rd g j = if g.key j = f.key i then v % 2 ^ f.width else s.rd g j := by
  unfold State.wr State.rd RegSt.wr RegSt.rd
  simp only [tfind_tset]
  split <;> rfl

/-- A field written by the device reads as the value, cut to its width. -/
@[simp] theorem State.wr_rd_same (s : State) (f : Fld) (i v : Nat) : (s.wr f i v).rd f i = v % 2 ^ f.width := by
  rw [State.wr_rd, if_pos rfl]

/-- Every field but the one written reads as before. -/
theorem State.wr_rd_other (s : State) (f g : Fld) (i j v : Nat) (h : g.key j ≠ f.key i) : (s.wr f i v).rd g j = s.rd g j := by
  rw [State.wr_rd, if_neg h]

theorem State.wrInt_eq (s : State) (f : Fld) (i : Nat) (v : Int) : s.wrInt f i v = s.wr f i (pattern f.width v) := rfl

theorem State.wrBit_eq (s : State) (f : Fld) (i : Nat) (b : Bool) : s.wrBit f i b = s.wr f i (ofBool b) := rfl

theorem State.countBy_eq (s : State) (f : Fld) (i n : Nat) : s.countBy f i n = s.wr f i (s.rd f i + n) := rfl

theorem State.count_eq (s : State) (f : Fld) (i : Nat) : s.count f i = s.wr f i (s.rd f i + 1) := rfl

/-! ### The newest completion and the newest event -/

@[simp] theorem IoSt.wr_evlog (io : IoSt) (f : Fld) (i v : Nat) : (io.wr f i v).evlog = io.evlog := rfl
@[simp] theorem IoSt.wr_cpllog (io : IoSt) (f : Fld) (i v : Nat) : (io.wr f i v).cpllog = io.cpllog := rfl
@[simp] theorem IoSt.countBy_evlog (io : IoSt) (f : Fld) (i v : Nat) : (io.countBy f i v).evlog = io.evlog := rfl
@[simp] theorem IoSt.countBy_cpllog (io : IoSt) (f : Fld) (i v : Nat) : (io.countBy f i v).cpllog = io.cpllog := rfl
@[simp] theorem IoSt.sendMsg_evlog (io : IoSt) (v : Nat) : (io.sendMsg v).evlog = io.evlog := by
  unfold IoSt.sendMsg; split <;> rfl
@[simp] theorem IoSt.sendMsg_cpllog (io : IoSt) (v : Nat) : (io.sendMsg v).cpllog = io.cpllog := by
  unfold IoSt.sendMsg; split <;> rfl
@[simp] theorem State.countRecord_evlog (s : State) (io : IoSt) (v : Nat) (b : Bool) : (s.countRecord io v b).evlog = io.evlog := by
  unfold State.countRecord; dsimp only; split <;> simp
@[simp] theorem State.countRecord_cpllog (s : State) (io : IoSt) (v : Nat) (b : Bool) :
    (s.countRecord io v b).cpllog = io.cpllog := by
  unfold State.countRecord; dsimp only; split <;> simp
@[simp] theorem IoSt.lap_evlog (io : IoSt) (f : Fld) (i v : Nat) : (io.lap f i v).evlog = io.evlog := by
  unfold IoSt.lap; split <;> rfl
@[simp] theorem IoSt.lap_cpllog (io : IoSt) (f : Fld) (i v : Nat) : (io.lap f i v).cpllog = io.cpllog := by
  unfold IoSt.lap; split <;> rfl
@[simp] theorem IoSt.lap_mem (io : IoSt) (f : Fld) (i v : Nat) : (io.lap f i v).mem = io.mem := by
  unfold IoSt.lap; split <;> rfl
@[simp] theorem IoSt.lap_evq (io : IoSt) (f : Fld) (i v : Nat) : (io.lap f i v).evq = io.evq := by
  unfold IoSt.lap; split <;> rfl
@[simp] theorem IoSt.lap_rd (io : IoSt) (f g : Fld) (i v j : Nat) : (io.lap f i v).rd g j = io.rd g j := by
  unfold IoSt.lap; split <;> rfl
@[simp] theorem State.evqPut_evlog (s : State) (io : IoSt) (q : Nat) (r : EvRec) : (s.evqPut io q r).evlog = io.evlog := by
  unfold State.evqPut; dsimp only; split <;> simp
@[simp] theorem State.evqPut_cpllog (s : State) (io : IoSt) (q : Nat) (r : EvRec) : (s.evqPut io q r).cpllog = io.cpllog := by
  unfold State.evqPut; dsimp only; split <;> simp
@[simp] theorem State.evqDrop_evlog (s : State) (io : IoSt) (q : Nat) (r : EvRec) : (s.evqDrop io q r).evlog = io.evlog := rfl
@[simp] theorem State.evqDrop_cpllog (s : State) (io : IoSt) (q : Nat) (r : EvRec) : (s.evqDrop io q r).cpllog = io.cpllog := rfl
@[simp] theorem State.evqRoom_evlog (s : State) (io : IoSt) (q : Nat) (r : EvRec) : (s.evqRoom io q r).evlog = io.evlog := by
  unfold State.evqRoom
  split
  · simp
  · split
    · dsimp only
      split <;> simp
    · simp
@[simp] theorem State.evqRoom_cpllog (s : State) (io : IoSt) (q : Nat) (r : EvRec) : (s.evqRoom io q r).cpllog = io.cpllog := by
  unfold State.evqRoom
  split
  · simp
  · split
    · dsimp only
      split <;> simp
    · simp
@[simp] theorem State.evqHold_evlog (s : State) (io : IoSt) (q : Nat) (r : EvRec) : (s.evqHold io q r).evlog = io.evlog := by
  unfold State.evqHold; dsimp only; split <;> simp
@[simp] theorem State.evqHold_cpllog (s : State) (io : IoSt) (q : Nat) (r : EvRec) : (s.evqHold io q r).cpllog = io.cpllog := by
  unfold State.evqHold; dsimp only; split <;> simp
@[simp] theorem State.evqSend_evlog (s : State) (io : IoSt) (q : Nat) (r : EvRec) : (s.evqSend io q r).evlog = io.evlog := by
  unfold State.evqSend
  split
  · dsimp only
    split
    · split <;> simp
    · simp
  · simp
@[simp] theorem State.evqSend_cpllog (s : State) (io : IoSt) (q : Nat) (r : EvRec) : (s.evqSend io q r).cpllog = io.cpllog := by
  unfold State.evqSend
  split
  · dsimp only
    split
    · split <;> simp
    · simp
  · simp
@[simp] theorem State.cplPut_cpllog (s : State) (io : IoSt) (c : CplRec) : (s.cplPut io c).cpllog = io.cpllog := by
  unfold State.cplPut
  dsimp only
  split
  · split <;> simp
  · simp
@[simp] theorem State.cplPut_evlog (s : State) (io : IoSt) (c : CplRec) : (s.cplPut io c).evlog = io.evlog := by
  unfold State.cplPut
  dsimp only
  split
  · split <;> simp
  · simp

/-- An event raised is the newest of the log. -/
theorem State.ioRaise_evlog (s : State) (r : EvRec) (q : Nat) : (s.ioRaise r q).evlog = (r :: s.io.evlog).take 256 := by
  unfold State.ioRaise
  dsimp only
  split <;> simp

/-- Events leave the completions as they were. -/
@[simp] theorem State.ioRaise_cpllog (s : State) (r : EvRec) (q : Nat) : (s.ioRaise r q).cpllog = s.io.cpllog := by
  unfold State.ioRaise
  dsimp only
  split <;> simp

theorem IoSt.ite_field {α : Type} (f : IoSt → α) {c : Prop} [Decidable c] {x y : IoSt} {v : α} (hx : f x = v) (hy : f y = v) :
    f (if c then x else y) = v := by
  split
  · exact hx
  · exact hy

/-- A completion made is the newest of the log. -/
theorem State.ioComplete_cpllog (s : State) (c : CplRec) (b : Bool) :
    (s.ioComplete c b).cpllog = (c :: s.io.cpllog).take 256 := by
  unfold State.ioComplete
  extract_lets mine src io
  exact IoSt.ite_field _ rfl (IoSt.ite_field _ (State.cplPut_cpllog ..) rfl)

/-- Completions leave the events as they were. -/
@[simp] theorem State.ioComplete_evlog (s : State) (c : CplRec) (b : Bool) : (s.ioComplete c b).evlog = s.io.evlog := by
  unfold State.ioComplete
  extract_lets mine src io
  exact IoSt.ite_field _ rfl (IoSt.ite_field _ (State.cplPut_evlog ..) rfl)

@[simp] theorem State.raise_cpllog (s : State) (code src : Nat) (d : List (Nat × Nat)) :
    (s.raise code src d).io.cpllog = s.io.cpllog := State.ioRaise_cpllog s _ _
@[simp] theorem State.raiseC_cpllog (s : State) (code src : Nat) (d : List (Nat × Nat)) :
    (s.raiseC code src d).io.cpllog = s.io.cpllog := State.ioRaise_cpllog s _ _
@[simp] theorem State.complete_evlog (s : State) (h : HostRef) (op o r : Nat) (l : List (Nat × Nat)) :
    (s.complete h op o r l).io.evlog = s.io.evlog := State.ioComplete_evlog s _ _

/-- The newest completion is the one just made. -/
theorem State.complete_answered (s : State) (h : HostRef) (op o r : Nat) (l : List (Nat × Nat)) :
    Answered (s.complete h op o r l) h op o r l := by
  refine ⟨{ ring := h.ring, tag := h.tag, opcode := op, outcome := o, reason := r, stamp := s.stamp, result := packItems l }, ?_,
    rfl, rfl, rfl, rfl, rfl, rfl⟩
  show (State.ioComplete s _ _).cpllog.head? = _
  rw [State.ioComplete_cpllog]
  rfl

theorem State.done_answered (s : State) (h : HostRef) (op : Nat) : Answered (s.done h op) h op 0 0 [] :=
  State.complete_answered s h op 0 0 []

theorem State.refuse_answered (s : State) (h : HostRef) (op r : Nat) : Answered (s.refuse h op r) h op 2 r [] :=
  State.complete_answered s h op 2 r []

theorem State.reject_answered (s : State) (h : HostRef) (op r : Nat) : Answered (s.reject h op r) h op 3 r [] :=
  State.complete_answered s h op 3 r []

/-- The newest event is the one just raised. -/
theorem State.raise_raised (s : State) (code src : Nat) (d : List (Nat × Nat)) : Raised (s.raise code src d) code src d := by
  refine ⟨s.evRec code src d false false, ?_, rfl, rfl, rfl⟩
  show (State.ioRaise s _ _).evlog.head? = _
  rw [State.ioRaise_evlog]
  rfl

theorem State.raiseC_raised (s : State) (code src : Nat) (d : List (Nat × Nat)) : Raised (s.raiseC code src d) code src d := by
  refine ⟨s.evRec code src d false true, ?_, rfl, rfl, rfl⟩
  show (State.ioRaise s _ _).evlog.head? = _
  rw [State.ioRaise_evlog]
  rfl

/-- What a completion leaves of the newest event. -/
theorem Raised.complete {s : State} {code src : Nat} {d : List (Nat × Nat)} (k : Raised s code src d) (h : HostRef) (op o r : Nat)
    (l : List (Nat × Nat)) : Raised (s.complete h op o r l) code src d := by
  obtain ⟨e, he, h1, h2, h3⟩ := k
  exact ⟨e, by rw [State.complete_evlog]; exact he, h1, h2, h3⟩

/-- What an event leaves of the newest completion. -/
theorem Answered.raise {s : State} {h : HostRef} {op o r : Nat} {l : List (Nat × Nat)} (k : Answered s h op o r l) (code src : Nat)
    (d : List (Nat × Nat)) : Answered (s.raise code src d) h op o r l := by
  obtain ⟨c, hc, k⟩ := k
  exact ⟨c, by rw [State.raise_cpllog]; exact hc, k⟩

theorem Answered.raiseC {s : State} {h : HostRef} {op o r : Nat} {l : List (Nat × Nat)} (k : Answered s h op o r l) (code src : Nat)
    (d : List (Nat × Nat)) : Answered (s.raiseC code src d) h op o r l := by
  obtain ⟨c, hc, k⟩ := k
  exact ⟨c, by rw [State.raiseC_cpllog]; exact hc, k⟩

/-- An admitted host command runs on the state after its time. -/
theorem State.command_admitted {s : State} {dt : Nat} {h : HostRef} {domain opcode : Nat} (k : Admitted s dt h domain opcode)
    (run : State → State) : s.command dt h domain opcode run = run (s.elapse dt) := by
  unfold State.command
  dsimp only
  rw [k.1, k.2.1, k.2.2]
  rfl

/-! ### Frames -/

/-- Only the listed parts differ: every other part is the same. -/
theorem onlyChanges_iff (l : List Part) (s t : State) : OnlyChanges l s t ↔
    (.pending ∈ l ∨ t.pending = s.pending) ∧ (.clock ∈ l ∨ t.time = s.time ∧ t.addr = s.addr) ∧ (.dco ∈ l ∨ t.dco = s.dco) ∧
    (.freeCtr ∈ l ∨ t.freeCtr = s.freeCtr) ∧ (.regs ∈ l ∨ t.regs = s.regs) ∧ (.io ∈ l ∨ t.io = s.io) ∧
    (.shf ∈ l ∨ t.shf = s.shf) ∧ (.tim ∈ l ∨ t.tim = s.tim) ∧ (.flt ∈ l ∨ t.flt = s.flt) ∧ (.prt ∈ l ∨ t.prt = s.prt) ∧
    (.rlk ∈ l ∨ t.rlk = s.rlk) ∧ (.frm ∈ l ∨ t.frm = s.frm) ∧ (.map ∈ l ∨ t.map = s.map) ∧ (.ovm ∈ l ∨ t.ovm = s.ovm) ∧
    (.qmg ∈ l ∨ t.qmg = s.qmg) ∧ (.feeds ∈ l ∨ t.feeds = s.feeds) ∧ (.pm ∈ l ∨ t.pm = s.pm) ∧ (.cip ∈ l ∨ t.cip = s.cip) ∧
    (.par ∈ l ∨ t.par = s.par) ∧ (.eng ∈ l ∨ t.eng = s.eng) ∧ (.asy ∈ l ∨ t.asy = s.asy) ∧ (.bkg ∈ l ∨ t.bkg = s.bkg) ∧
    (.sec ∈ l ∨ t.sec = s.sec) ∧ (.sys ∈ l ∨ t.sys = s.sys) := by
  constructor
  · intro h
    have k : ∀ p : Part, p ∈ l ∨ p.same s t := fun p => Decidable.or_iff_not_imp_left.mpr (h p)
    exact ⟨k .pending, k .clock, k .dco, k .freeCtr, k .regs, k .io, k .shf, k .tim, k .flt, k .prt, k .rlk, k .frm, k .map, k .ovm,
      k .qmg, k .feeds, k .pm, k .cip, k .par, k .eng, k .asy, k .bkg, k .sec, k .sys⟩
  · rintro ⟨h1, h2, h3, h4, h5, h6, h7, h8, h9, h10, h11, h12, h13, h14, h15, h16, h17, h18, h19, h20, h21, h22, h23, h24⟩ p hp
    cases p <;> first
      | exact h1.resolve_left hp | exact h2.resolve_left hp | exact h3.resolve_left hp | exact h4.resolve_left hp
      | exact h5.resolve_left hp | exact h6.resolve_left hp | exact h7.resolve_left hp | exact h8.resolve_left hp
      | exact h9.resolve_left hp | exact h10.resolve_left hp | exact h11.resolve_left hp | exact h12.resolve_left hp
      | exact h13.resolve_left hp | exact h14.resolve_left hp | exact h15.resolve_left hp | exact h16.resolve_left hp
      | exact h17.resolve_left hp | exact h18.resolve_left hp | exact h19.resolve_left hp | exact h20.resolve_left hp
      | exact h21.resolve_left hp | exact h22.resolve_left hp | exact h23.resolve_left hp | exact h24.resolve_left hp

/-- States with the same registers read the same. -/
theorem regsOnly_of_regs {s t : State} (h : t.regs = s.regs) (l : List (Fld × Nat)) : RegsOnly l s t := by
  intro f i _
  unfold State.rd
  rw [h]

/-- A register write changes only its field. -/
theorem RegsOnly.wr {l : List (Fld × Nat)} {s t : State} (k : RegsOnly l s t) (f : Fld) (i v : Nat) (hf : (f, i) ∈ l) :
    RegsOnly l s (t.wr f i v) := by
  intro g j hg
  rw [State.wr_rd_other t f g i j v (fun e => hg (f, i) hf e.symm)]
  exact k g j hg

/-- What has the same registers reads the same. -/
theorem RegsOnly.of_regs {l : List (Fld × Nat)} {s t u : State} (k : RegsOnly l s t) (h : u.regs = t.regs) : RegsOnly l s u := by
  intro g j hg
  have := k g j hg
  unfold State.rd at *
  rw [h]
  exact this

end Sys2Proof.Machine
end

