-- ==== Sys2Proof/Laws/Frames.lean ====
section
/-! SUPPORT. How frames compose: a part of the state that an operation may not change is the same after it. -/

set_option Elab.async false

namespace Sys2Proof.Machine

theorem Part.same_refl (p : Part) (s : State) : p.same s s := by
  cases p <;> first | exact rfl | exact ⟨rfl, rfl⟩

theorem Part.same_trans {p : Part} {s t u : State} (h : p.same s t) (k : p.same t u) : p.same s u := by
  cases p <;> first | exact Eq.trans k h | exact ⟨k.1.trans h.1, k.2.trans h.2⟩

/-- A part not among more parts is not among fewer. -/
theorem Part.sub {p : Part} {l m : List Part} (h : p ∉ l) (k : ∀ q ∈ m, q ∈ l) : p ∉ m := fun e => h (k p e)

/-- A part that an update of a state's fields leaves. -/
def Part.kept (p : Part) (s t : State) : Prop := p.same s t

theorem Part.keptIntro {p : Part} {s t : State} (h : p.same s t) : p.kept s t := h

/-- An update of a state leaves what it leaves of the state it updates. -/
theorem Part.same_upd {p : Part} {base s : State} {tm ad dc ct regs io shf tim flt prt rlk frm map ovm qmg feeds pm cip par eng asy bkg
    sec sys} (h : p.same base s)
    (k : p.kept s ⟨s.pending, tm, ad, dc, ct, regs, io, shf, tim, flt, prt, rlk, frm, map, ovm, qmg, feeds, pm, cip, par, eng, asy,
      bkg, sec, sys⟩) :
    p.same base ⟨s.pending, tm, ad, dc, ct, regs, io, shf, tim, flt, prt, rlk, frm, map, ovm, qmg, feeds, pm, cip, par, eng, asy,
      bkg, sec, sys⟩ := Part.same_trans h k

theorem Part.ite {p : Part} {a s t : State} {c : Prop} [Decidable c] (h : p.same a s) (k : p.same a t) :
    p.same a (if c then s else t) := by
  split <;> assumption

theorem Part.iteFst {α : Type} {p : Part} {a : State} {x y : State × α} {c : Prop} [Decidable c] (h : p.same a x.1)
    (k : p.same a y.1) : p.same a (if c then x else y).1 := by
  split <;> assumption

theorem Part.foldl {α : Type} {p : Part} {f : State → α → State} (hf : ∀ b c x, p.same b c → p.same b (f c x)) (l : List α) :
    ∀ {a s : State}, p.same a s → p.same a (l.foldl f s) := by
  induction l with
  | nil => intro a s h; exact h
  | cons x r ih => intro a s h; exact ih (hf a s x h)

theorem Part.foldlFst {α β : Type} {p : Part} {f : State × β → α → State × β}
    (hf : ∀ (b : State) c x, p.same b c.1 → p.same b (f c x).1) (l : List α) :
    ∀ {a : State} {s : State × β}, p.same a s.1 → p.same a (l.foldl f s).1 := by
  induction l with
  | nil => intro a s h; exact h
  | cons x r ih => intro a s h; exact ih (hf a s x h)

end Sys2Proof.Machine
end

