-- ==== Sys2Proof/Laws/FramesOps.lean ====
section
/-! SUPPORT. Which parts of the state the operations of Machine/Ops.lean may change. -/

set_option Elab.async false

namespace Sys2Proof.Machine

theorem State.wr_frame {pt : Part} {base : State} {s : State} {f : Fld} {i v : Nat} (hp : pt ∉ [Part.regs]) (hss : pt.same base s) :
    pt.same base (State.wr s f i v) := by
  unfold State.wr
  try dsimp only
  repeat' first
    | with_reducible assumption | intro _ | fail_if_no_progress with_reducible refine Part.same_upd ?_ ?_
    | ((with_reducible refine Part.keptIntro ?_); cases pt <;> first | exact absurd (by decide) hp | exact rfl | exact ⟨rfl, rfl⟩)

theorem State.wrInt_frame {pt : Part} {base : State} {s : State} {f : Fld} {i : Nat} {v : Int} (hp : pt ∉ [Part.regs]) (hss : pt.same base s) :
    pt.same base (State.wrInt s f i v) := by
  unfold State.wrInt
  try dsimp only
  repeat' first
    | with_reducible assumption | intro _ | with_reducible refine State.wr_frame (Part.sub hp (by decide)) ?_

theorem State.wrBit_frame {pt : Part} {base : State} {s : State} {f : Fld} {i : Nat} {b : Bool} (hp : pt ∉ [Part.regs]) (hss : pt.same base s) :
    pt.same base (State.wrBit s f i b) := by
  unfold State.wrBit
  try dsimp only
  repeat' first
    | with_reducible assumption | intro _ | with_reducible refine State.wr_frame (Part.sub hp (by decide)) ?_

theorem State.countBy_frame {pt : Part} {base : State} {s : State} {f : Fld} {i n : Nat} (hp : pt ∉ [Part.regs]) (hss : pt.same base s) :
    pt.same base (State.countBy s f i n) := by
  unfold State.countBy
  try dsimp only
  repeat' first
    | with_reducible assumption | intro _ | with_reducible refine State.wr_frame (Part.sub hp (by decide)) ?_

theorem State.count_frame {pt : Part} {base : State} {s : State} {f : Fld} {i : Nat} (hp : pt ∉ [Part.regs]) (hss : pt.same base s) :
    pt.same base (State.count s f i) := by
  unfold State.count
  try dsimp only
  repeat' first
    | with_reducible assumption | intro _ | with_reducible refine State.countBy_frame (Part.sub hp (by decide)) ?_

theorem State.elapse_frame {pt : Part} {base s : State} {n : Nat} (hp : pt ∉ [Part.clock]) (hss : pt.same base s) :
    pt.same base (s.elapse n) := by
  refine Part.same_trans hss ?_
  cases pt <;> first | exact absurd (by decide) hp | exact rfl | exact ⟨rfl, rfl⟩

theorem State.waitAddr_frame {pt : Part} {base : State} {s : State} {a : Nat} (hp : pt ∉ [Part.clock]) (hss : pt.same base s) :
    pt.same base (State.waitAddr s a) := by
  unfold State.waitAddr
  try dsimp only
  repeat' first
    | with_reducible assumption | intro _ | with_reducible refine State.elapse_frame (Part.sub hp (by decide)) ?_
    | with_reducible apply Part.ite | split

theorem State.whenAddr_frame {pt : Part} {base : State} {s : State} {a : Nat} {f : State → State} (hp : pt ∉ [Part.clock]) (hss : pt.same base s) (hf : ∀ b c, pt.same b c → pt.same b (f c)) :
    pt.same base (State.whenAddr s a f) := by
  unfold State.whenAddr
  try dsimp only
  repeat' first
    | with_reducible assumption | intro _ | with_reducible exact Part.same_refl _ _ | with_reducible apply hf
    | with_reducible refine State.waitAddr_frame (Part.sub hp (by decide)) ?_ | with_reducible apply Part.ite
    | split

theorem State.toBoundary_frame {pt : Part} {base : State} {s : State} {dt m : Nat} (hp : pt ∉ [Part.clock]) (hss : pt.same base s) :
    pt.same base (State.toBoundary s dt m) := by
  unfold State.toBoundary
  try dsimp only
  repeat' first
    | with_reducible assumption | intro _ | with_reducible refine State.elapse_frame (Part.sub hp (by decide)) ?_
    | with_reducible refine State.waitAddr_frame (Part.sub hp (by decide)) ?_

theorem State.untilTime_frame {pt : Part} {base : State} {s : State} {dt t : Nat} (hp : pt ∉ [Part.clock]) (hss : pt.same base s) :
    pt.same base (State.untilTime s dt t) := by
  unfold State.untilTime
  try dsimp only
  repeat' first
    | with_reducible assumption | intro _ | with_reducible refine State.elapse_frame (Part.sub hp (by decide)) ?_

theorem State.toNextCycle_frame {pt : Part} {base : State} {s : State} {dt : Nat} (hp : pt ∉ [Part.clock]) (hss : pt.same base s) :
    pt.same base (State.toNextCycle s dt) := by
  unfold State.toNextCycle
  try dsimp only
  repeat' first
    | with_reducible assumption | intro _ | with_reducible refine State.elapse_frame (Part.sub hp (by decide)) ?_
    | with_reducible refine State.waitAddr_frame (Part.sub hp (by decide)) ?_

theorem State.atEntry_frame {pt : Part} {base : State} {s : State} {dt m cls : Nat} (hp : pt ∉ [Part.clock]) (hss : pt.same base s) :
    pt.same base (State.atEntry s dt m cls) := by
  unfold State.atEntry
  try dsimp only
  repeat' first
    | with_reducible assumption | intro _ | with_reducible exact Part.same_refl _ _ | with_reducible refine State.elapse_frame (Part.sub hp (by decide)) ?_
    | with_reducible refine State.waitAddr_frame (Part.sub hp (by decide)) ?_ | with_reducible apply Part.ite
    | split

theorem State.draw_frame {pt : Part} {base : State} {s : State} (hp : pt ∉ [Part.freeCtr]) (hss : pt.same base s) :
    pt.same base (State.draw s) := by
  unfold State.draw
  try dsimp only
  repeat' first
    | with_reducible assumption | intro _ | fail_if_no_progress with_reducible refine Part.same_upd ?_ ?_
    | ((with_reducible refine Part.keptIntro ?_); cases pt <;> first | exact absurd (by decide) hp | exact rfl | exact ⟨rfl, rfl⟩)

theorem State.raise_frame {pt : Part} {base : State} {s : State} {code src : Nat} {det : List (Nat × Nat)} (hp : pt ∉ [Part.io]) (hss : pt.same base s) :
    pt.same base (State.raise s code src det) := by
  unfold State.raise
  try dsimp only
  repeat' first
    | with_reducible assumption | intro _ | fail_if_no_progress with_reducible refine Part.same_upd ?_ ?_
    | ((with_reducible refine Part.keptIntro ?_); cases pt <;> first | exact absurd (by decide) hp | exact rfl | exact ⟨rfl, rfl⟩)

theorem State.raiseC_frame {pt : Part} {base : State} {s : State} {code src : Nat} {det : List (Nat × Nat)} (hp : pt ∉ [Part.io]) (hss : pt.same base s) :
    pt.same base (State.raiseC s code src det) := by
  unfold State.raiseC
  try dsimp only
  repeat' first
    | with_reducible assumption | intro _ | fail_if_no_progress with_reducible refine Part.same_upd ?_ ?_
    | ((with_reducible refine Part.keptIntro ?_); cases pt <;> first | exact absurd (by decide) hp | exact rfl | exact ⟨rfl, rfl⟩)

theorem State.raiseFolded_frame {pt : Part} {base : State} {s : State} {code src : Nat} {det : List (Nat × Nat)} (hp : pt ∉ [Part.io]) (hss : pt.same base s) :
    pt.same base (State.raiseFolded s code src det) := by
  unfold State.raiseFolded
  try dsimp only
  repeat' first
    | with_reducible assumption | intro _ | fail_if_no_progress with_reducible refine Part.same_upd ?_ ?_
    | ((with_reducible refine Part.keptIntro ?_); cases pt <;> first | exact absurd (by decide) hp | exact rfl | exact ⟨rfl, rfl⟩)

theorem State.raiseIf_frame {pt : Part} {base : State} {s : State} {b : Bool} {code src : Nat} {det : List (Nat × Nat)} (hp : pt ∉ [Part.io]) (hss : pt.same base s) :
    pt.same base (State.raiseIf s b code src det) := by
  unfold State.raiseIf
  try dsimp only
  repeat' first
    | with_reducible assumption | intro _ | with_reducible refine State.raise_frame (Part.sub hp (by decide)) ?_
    | with_reducible apply Part.ite | split

theorem State.raiseLim_frame {pt : Part} {base : State} {s : State} {lim code n src : Nat} {det : List (Nat × Nat)} (hp : pt ∉ [Part.io]) (hss : pt.same base s) :
    pt.same base (State.raiseLim s lim code n src det) := by
  unfold State.raiseLim
  try dsimp only
  repeat' first
    | with_reducible assumption | intro _ | with_reducible refine State.raise_frame (Part.sub hp (by decide)) ?_
    | with_reducible apply Part.ite | fail_if_no_progress with_reducible refine Part.same_upd ?_ ?_ | ((with_reducible refine Part.keptIntro ?_); cases pt <;> first | exact absurd (by decide) hp | exact rfl | exact ⟨rfl, rfl⟩)
    | split

theorem State.raiseOnce_frame {pt : Part} {base : State} {s : State} {code n src : Nat} {mk : Nat → List (Nat × Nat)} (hp : pt ∉ [Part.io]) (hss : pt.same base s) :
    pt.same base (State.raiseOnce s code n src mk) := by
  unfold State.raiseOnce
  try dsimp only
  repeat' first
    | with_reducible assumption | intro _ | with_reducible refine State.raise_frame (Part.sub hp (by decide)) ?_
    | with_reducible apply Part.ite | split | fail_if_no_progress with_reducible refine Part.same_upd ?_ ?_
    | ((with_reducible refine Part.keptIntro ?_); cases pt <;> first | exact absurd (by decide) hp | exact rfl | exact ⟨rfl, rfl⟩)

theorem State.complete_frame {pt : Part} {base : State} {s : State} {h : HostRef} {opcode outcome reason : Nat} {result : List (Nat × Nat)} (hp : pt ∉ [Part.io]) (hss : pt.same base s) :
    pt.same base (State.complete s h opcode outcome reason result) := by
  unfold State.complete
  try dsimp only
  repeat' first
    | with_reducible assumption | intro _ | fail_if_no_progress with_reducible refine Part.same_upd ?_ ?_
    | ((with_reducible refine Part.keptIntro ?_); cases pt <;> first | exact absurd (by decide) hp | exact rfl | exact ⟨rfl, rfl⟩)

theorem State.done_frame {pt : Part} {base : State} {s : State} {h : HostRef} {opcode : Nat} (hp : pt ∉ [Part.io]) (hss : pt.same base s) :
    pt.same base (State.done s h opcode) := by
  unfold State.done
  try dsimp only
  repeat' first
    | with_reducible assumption | intro _ | with_reducible refine State.complete_frame (Part.sub hp (by decide)) ?_

theorem State.refuse_frame {pt : Part} {base : State} {s : State} {h : HostRef} {opcode reason : Nat} (hp : pt ∉ [Part.io]) (hss : pt.same base s) :
    pt.same base (State.refuse s h opcode reason) := by
  unfold State.refuse
  try dsimp only
  repeat' first
    | with_reducible assumption | intro _ | with_reducible refine State.complete_frame (Part.sub hp (by decide)) ?_

theorem State.reject_frame {pt : Part} {base : State} {s : State} {h : HostRef} {opcode reason : Nat} (hp : pt ∉ [Part.io]) (hss : pt.same base s) :
    pt.same base (State.reject s h opcode reason) := by
  unfold State.reject
  try dsimp only
  repeat' first
    | with_reducible assumption | intro _ | with_reducible refine State.complete_frame (Part.sub hp (by decide)) ?_

theorem State.hostWrite_frame {pt : Part} {base : State} {s : State} {a : Nat} {bs : List Nat} (hp : pt ∉ [Part.io]) (hss : pt.same base s) :
    pt.same base (State.hostWrite s a bs) := by
  unfold State.hostWrite
  try dsimp only
  repeat' first
    | with_reducible assumption | intro _ | fail_if_no_progress with_reducible refine Part.same_upd ?_ ?_
    | ((with_reducible refine Part.keptIntro ?_); cases pt <;> first | exact absurd (by decide) hp | exact rfl | exact ⟨rfl, rfl⟩)

theorem State.command_frame {pt : Part} {base : State} {s : State} {dt : Nat} {h : HostRef} {domain opcode : Nat} {run : State → State} (hp : pt ∉ [Part.clock, Part.io]) (hss : pt.same base s) (hrun : ∀ b c, pt.same b c → pt.same b (run c)) :
    pt.same base (State.command s dt h domain opcode run) := by
  unfold State.command
  try dsimp only
  repeat' first
    | with_reducible assumption | intro _ | with_reducible exact Part.same_refl _ _ | with_reducible apply hrun
    | with_reducible refine State.elapse_frame (Part.sub hp (by decide)) ?_ | with_reducible refine State.reject_frame (Part.sub hp (by decide)) ?_
    | with_reducible apply Part.ite | split

theorem State.alterCheck_frame {pt : Part} {base : State} {s : State} {target : Nat} (hp : pt ∉ [Part.regs, Part.bkg]) (hss : pt.same base s) :
    pt.same base (State.alterCheck s target).1 := by
  unfold State.alterCheck
  try dsimp only
  repeat' first
    | with_reducible assumption | intro _ | with_reducible refine State.count_frame (Part.sub hp (by decide)) ?_
    | with_reducible apply Part.ite | with_reducible apply Part.iteFst | fail_if_no_progress with_reducible refine Part.same_upd ?_ ?_
    | ((with_reducible refine Part.keptIntro ?_); cases pt <;> first | exact absurd (by decide) hp | exact rfl | exact ⟨rfl, rfl⟩)
    | split

theorem State.alterCheck_frameAs {pt : Part} {base : State} {s : State} {target : Nat} (hp : pt ∉ [Part.regs, Part.bkg]) (hss : pt.same base s) {t : State} {y : Bool}
    (h : State.alterCheck s target = (t, y)) : pt.same base t := by
  have k : pt.same base (State.alterCheck s target).1 := State.alterCheck_frame hp hss
  rw [h] at k
  exact k

theorem State.send_frame {pt : Part} {base : State} {s : State} {m : MateMsg} (hp : pt ∉ [Part.par]) (hss : pt.same base s) :
    pt.same base (State.send s m) := by
  unfold State.send
  try dsimp only
  repeat' first
    | with_reducible assumption | intro _ | with_reducible apply Part.ite | fail_if_no_progress with_reducible refine Part.same_upd ?_ ?_
    | ((with_reducible refine Part.keptIntro ?_); cases pt <;> first | exact absurd (by decide) hp | exact rfl | exact ⟨rfl, rfl⟩)
    | split

end Sys2Proof.Machine
end

