-- ==== Sys2Proof/Laws/FramesQueues.lean ====
section
/-! SUPPORT. Which parts of the state the operations of Machine/Queues.lean may change. -/

set_option Elab.async false

namespace Sys2Proof.Machine

theorem State.setQueue_frame {pt : Part} {base : State} {s : State} {n : Nat} {q : QSt} (hp : pt ∉ [Part.qmg]) (hss : pt.same base s) :
    pt.same base (State.setQueue s n q) := by
  unfold State.setQueue
  try dsimp only
  repeat' first
    | with_reducible assumption | intro _ | fail_if_no_progress with_reducible refine Part.same_upd ?_ ?_
    | ((with_reducible refine Part.keptIntro ?_); cases pt <;> first | exact absurd (by decide) hp | exact rfl | exact ⟨rfl, rfl⟩)

theorem State.setDq_frame {pt : Part} {base : State} {s : State} {d : Nat} {x : DqSt} (hp : pt ∉ [Part.qmg]) (hss : pt.same base s) :
    pt.same base (State.setDq s d x) := by
  unfold State.setDq
  try dsimp only
  repeat' first
    | with_reducible assumption | intro _ | fail_if_no_progress with_reducible refine Part.same_upd ?_ ?_
    | ((with_reducible refine Part.keptIntro ?_); cases pt <;> first | exact absurd (by decide) hp | exact rfl | exact ⟨rfl, rfl⟩)

theorem State.judgeQueue_frame {pt : Part} {base : State} {s : State} {n : Nat} (hp : pt ∉ [Part.regs, Part.io, Part.qmg]) (hss : pt.same base s) :
    pt.same base (State.judgeQueue s n) := by
  unfold State.judgeQueue
  try dsimp only
  repeat' first
    | with_reducible assumption | intro _ | with_reducible refine State.count_frame (Part.sub hp (by decide)) ?_
    | with_reducible refine State.raiseIf_frame (Part.sub hp (by decide)) ?_ | with_reducible refine State.setQueue_frame (Part.sub hp (by decide)) ?_
    | with_reducible apply Part.ite | split

theorem State.judgePressed_frame {pt : Part} {base : State} {s : State} (hp : pt ∉ [Part.regs, Part.io, Part.qmg]) (hss : pt.same base s) :
    pt.same base (State.judgePressed s) := by
  unfold State.judgePressed
  try dsimp only
  repeat' first
    | with_reducible assumption | intro _ | with_reducible exact Part.same_refl _ _ | with_reducible refine State.judgeQueue_frame (Part.sub hp (by decide)) ?_
    | with_reducible apply Part.foldl | with_reducible apply Part.foldlFst | with_reducible apply Part.iteFst

theorem State.tstTake_frame {pt : Part} {base : State} {s : State} (hp : pt ∉ [Part.regs, Part.io, Part.qmg, Part.bkg]) (hss : pt.same base s) :
    pt.same base (State.tstTake s) := by
  unfold State.tstTake
  try dsimp only
  repeat' first
    | with_reducible assumption | intro _ | with_reducible refine State.judgePressed_frame (Part.sub hp (by decide)) ?_
    | with_reducible refine State.wr_frame (Part.sub hp (by decide)) ?_ | with_reducible apply Part.ite
    | split | fail_if_no_progress with_reducible refine Part.same_upd ?_ ?_ | ((with_reducible refine Part.keptIntro ?_); cases pt <;> first | exact absurd (by decide) hp | exact rfl | exact ⟨rfl, rfl⟩)

theorem State.endWindow_frame {pt : Part} {base : State} {s : State} {n : Nat} {q : QSt} {k : Nat} (hp : pt ∉ [Part.io, Part.qmg]) (hss : pt.same base s) :
    pt.same base (State.endWindow s n q k) := by
  unfold State.endWindow
  try dsimp only
  repeat' first
    | with_reducible assumption | intro _ | with_reducible refine State.raise_frame (Part.sub hp (by decide)) ?_
    | with_reducible refine State.setQueue_frame (Part.sub hp (by decide)) ?_

theorem State.dropOne_frame {pt : Part} {base : State} {s : State} {n : Nat} (hp : pt ∉ [Part.regs, Part.io, Part.qmg]) (hss : pt.same base s) :
    pt.same base (State.dropOne s n) := by
  unfold State.dropOne
  try dsimp only
  repeat' first
    | with_reducible assumption | intro _ | with_reducible refine State.count_frame (Part.sub hp (by decide)) ?_
    | with_reducible refine State.endWindow_frame (Part.sub hp (by decide)) ?_ | with_reducible refine State.setQueue_frame (Part.sub hp (by decide)) ?_
    | with_reducible apply Part.ite | split

theorem State.abandon_frame {pt : Part} {base : State} {s : State} {n : Nat} (hp : pt ∉ [Part.regs, Part.qmg]) (hss : pt.same base s) :
    pt.same base (State.abandon s n) := by
  unfold State.abandon
  try dsimp only
  repeat' first
    | with_reducible assumption | intro _ | with_reducible refine State.count_frame (Part.sub hp (by decide)) ?_
    | with_reducible refine State.setQueue_frame (Part.sub hp (by decide)) ?_ | split

theorem State.newWord_frame {pt : Part} {base : State} {s : State} {n : Nat} {w : QWord} (hp : pt ∉ [Part.regs, Part.io, Part.qmg]) (hss : pt.same base s) {t : State} (ht : State.newWord s n w = some t) :
    pt.same base t := by
  unfold State.newWord at ht
  try dsimp only at ht
  repeat' split at ht
  all_goals cases ht
  repeat' first
    | with_reducible assumption | intro _ | with_reducible refine State.count_frame (Part.sub hp (by decide)) ?_
    | with_reducible refine State.raise_frame (Part.sub hp (by decide)) ?_ | with_reducible refine State.setQueue_frame (Part.sub hp (by decide)) ?_
    | with_reducible apply Part.ite | split

theorem State.dropPacket_frame {pt : Part} {base : State} {s : State} {n : Nat} {last : Bool} (hp : pt ∉ [Part.regs, Part.io, Part.qmg]) (hss : pt.same base s) :
    pt.same base (State.dropPacket s n last) := by
  unfold State.dropPacket
  try dsimp only
  repeat' first
    | with_reducible assumption | intro _ | with_reducible refine State.abandon_frame (Part.sub hp (by decide)) ?_
    | with_reducible refine State.dropOne_frame (Part.sub hp (by decide)) ?_ | with_reducible refine State.setQueue_frame (Part.sub hp (by decide)) ?_
    | split

theorem State.appendBytes_frame {pt : Part} {base : State} {n : Nat} {l : List Nat} (hp : pt ∉ [Part.regs, Part.io, Part.qmg]) :
    ∀ {s t : State}, pt.same base s → State.appendBytes s n l = some t → pt.same base t := by
  induction l with
  | nil => intro s t hss ht; cases ht; exact hss
  | cons b rest ih =>
    intro s t hss ht
    unfold State.appendBytes at ht
    split at ht
    · cases ht
    · dsimp only at ht
      split at ht
      · exact ih (State.setQueue_frame (Part.sub hp (by decide)) hss) ht
      · split at ht
        · cases ht
        · next h => exact ih (State.newWord_frame (Part.sub hp (by decide)) hss h) ht

theorem State.startPacket_frame {pt : Part} {base : State} {s : State} {n : Nat} (hp : pt ∉ [Part.regs, Part.io, Part.qmg]) (hss : pt.same base s) {t : State} (ht : State.startPacket s n = some t) :
    pt.same base t := by
  unfold State.startPacket at ht
  try dsimp only at ht
  repeat' split at ht
  all_goals cases ht
  repeat' first
    | with_reducible assumption | intro _ | with_reducible refine State.newWord_frame (Part.sub hp (by decide)) ?_ (by with_reducible assumption)
    | with_reducible refine State.setQueue_frame (Part.sub hp (by decide)) ?_ | split

theorem State.endPacket_frame {pt : Part} {base : State} {s : State} {n status tag : Nat} (hp : pt ∉ [Part.qmg]) (hss : pt.same base s) :
    pt.same base (State.endPacket s n status tag) := by
  unfold State.endPacket
  try dsimp only
  repeat' first
    | with_reducible assumption | intro _ | with_reducible refine State.setQueue_frame (Part.sub hp (by decide)) ?_
    | split

theorem State.writePacket_frame {pt : Part} {base : State} {s : State} {n : Nat} {w : QWrite} {q : QSt}
    (hp : pt ∉ [Part.regs, Part.io, Part.qmg]) (hss : pt.same base s) : pt.same base (State.writePacket s n w q) := by
  have hk : ∀ t, (if q.pkt.isSome then some s else s.startPacket n) = some t → pt.same base t := by
    intro t ht
    split at ht
    · cases ht; exact hss
    · exact State.startPacket_frame (Part.sub hp (by decide)) hss ht
  unfold State.writePacket
  dsimp only
  repeat' first
    | with_reducible assumption | with_reducible exact hk _ (by with_reducible assumption)
    | with_reducible refine State.abandon_frame (Part.sub hp (by decide)) ?_ | with_reducible refine State.dropPacket_frame (Part.sub hp (by decide)) ?_
    | with_reducible refine State.endPacket_frame (Part.sub hp (by decide)) ?_ | with_reducible refine State.setQueue_frame (Part.sub hp (by decide)) ?_
    | with_reducible refine State.appendBytes_frame (Part.sub hp (by decide)) ?_ (by with_reducible assumption)
    | with_reducible apply Part.ite | split

theorem State.writeRecord_frame {pt : Part} {base : State} {s : State} {n : Nat} {bytes : List Nat} {q : QSt} (hp : pt ∉ [Part.regs, Part.io, Part.qmg]) (hss : pt.same base s) :
    pt.same base (State.writeRecord s n bytes q) := by
  unfold State.writeRecord
  try dsimp only
  repeat' first
    | with_reducible assumption | intro _ | with_reducible refine State.dropOne_frame (Part.sub hp (by decide)) ?_
    | with_reducible refine State.newWord_frame (Part.sub hp (by decide)) ?_ (by with_reducible assumption)
    | with_reducible refine State.setQueue_frame (Part.sub hp (by decide)) ?_ | with_reducible apply Part.ite
    | split

theorem State.writeWide_frame {pt : Part} {base : State} {s : State} {n : Nat} {bytes : List Nat} {q : QSt} (hp : pt ∉ [Part.regs, Part.io, Part.qmg]) (hss : pt.same base s) :
    pt.same base (State.writeWide s n bytes q) := by
  unfold State.writeWide
  try dsimp only
  repeat' first
    | with_reducible assumption | intro _ | with_reducible refine State.dropOne_frame (Part.sub hp (by decide)) ?_
    | with_reducible refine State.dropPacket_frame (Part.sub hp (by decide)) ?_ | with_reducible refine State.newWord_frame (Part.sub hp (by decide)) ?_ (by with_reducible assumption)
    | with_reducible refine State.setQueue_frame (Part.sub hp (by decide)) ?_ | with_reducible apply Part.ite
    | split

theorem State.writeQueue_frame {pt : Part} {base : State} {s : State} {n : Nat} {w : QWrite} (hp : pt ∉ [Part.regs, Part.io, Part.qmg]) (hss : pt.same base s) :
    pt.same base (State.writeQueue s n w) := by
  unfold State.writeQueue
  try dsimp only
  repeat' first
    | with_reducible assumption | intro _ | with_reducible refine State.dropOne_frame (Part.sub hp (by decide)) ?_
    | with_reducible refine State.judgeQueue_frame (Part.sub hp (by decide)) ?_ | with_reducible refine State.newWord_frame (Part.sub hp (by decide)) ?_ (by with_reducible assumption)
    | with_reducible refine State.writePacket_frame (Part.sub hp (by decide)) ?_ | with_reducible refine State.writeRecord_frame (Part.sub hp (by decide)) ?_
    | with_reducible refine State.writeWide_frame (Part.sub hp (by decide)) ?_ | with_reducible apply Part.ite
    | split

theorem State.pushRecord_frame {pt : Part} {base : State} {s : State} {n : Nat} {bytes : List Nat} (hp : pt ∉ [Part.regs, Part.io, Part.qmg]) (hss : pt.same base s) :
    pt.same base (State.pushRecord s n bytes) := by
  unfold State.pushRecord
  try dsimp only
  repeat' first
    | with_reducible assumption | intro _ | with_reducible refine State.writeQueue_frame (Part.sub hp (by decide)) ?_

theorem State.resetQueue_frame {pt : Part} {base : State} {s : State} {n : Nat} (hp : pt ∉ [Part.regs, Part.qmg]) (hss : pt.same base s) :
    pt.same base (State.resetQueue s n) := by
  unfold State.resetQueue
  try dsimp only
  repeat' first
    | with_reducible assumption | intro _ | with_reducible refine State.count_frame (Part.sub hp (by decide)) ?_
    | with_reducible refine State.setDq_frame (Part.sub hp (by decide)) ?_ | with_reducible refine State.setQueue_frame (Part.sub hp (by decide)) ?_
    | with_reducible apply Part.ite | split

theorem State.endQueueReset_frame {pt : Part} {base : State} {s : State} {n : Nat} (hp : pt ∉ [Part.qmg]) (hss : pt.same base s) :
    pt.same base (State.endQueueReset s n) := by
  unfold State.endQueueReset
  try dsimp only
  repeat' first
    | with_reducible assumption | intro _ | with_reducible refine State.setQueue_frame (Part.sub hp (by decide)) ?_
    | split

theorem State.copyWord_frame {pt : Part} {base : State} {s : State} {d : Nat} {x : DqSt} {bytes : List Nat} (hp : pt ∉ [Part.io, Part.qmg]) (hss : pt.same base s) :
    pt.same base (State.copyWord s d x bytes) := by
  unfold State.copyWord
  try dsimp only
  repeat' first
    | with_reducible assumption | intro _ | with_reducible refine State.hostWrite_frame (Part.sub hp (by decide)) ?_
    | with_reducible refine State.setDq_frame (Part.sub hp (by decide)) ?_

theorem execQueuePush_frame {pt : Part} {dt q : Nat} {w : QWrite} {s : State} (hp : pt ∉ [Part.clock, Part.regs, Part.io, Part.qmg]) :
    ∃ s', execQueuePush dt q w s = .next s' ∧ pt.same s s' := by
  unfold execQueuePush
  refine ⟨_, rfl, ?_⟩
  try dsimp only
  repeat' first
    | with_reducible assumption | with_reducible exact Part.same_refl _ _ | intro _ | with_reducible refine State.elapse_frame (Part.sub hp (by decide)) ?_
    | with_reducible refine State.setDq_frame (Part.sub hp (by decide)) ?_ | with_reducible refine State.setQueue_frame (Part.sub hp (by decide)) ?_
    | with_reducible refine State.writeQueue_frame (Part.sub hp (by decide)) ?_ | with_reducible apply Part.ite
    | split

theorem execQueueFlush_frame {pt : Part} {dt q : Nat} {s : State} (hp : pt ∉ [Part.clock, Part.regs, Part.qmg]) :
    ∃ s', execQueueFlush dt q s = .next s' ∧ pt.same s s' := by
  unfold execQueueFlush
  refine ⟨_, rfl, ?_⟩
  try dsimp only
  repeat' first
    | with_reducible assumption | with_reducible exact Part.same_refl _ _ | intro _ | with_reducible refine State.count_frame (Part.sub hp (by decide)) ?_
    | with_reducible refine State.elapse_frame (Part.sub hp (by decide)) ?_ | with_reducible refine State.setQueue_frame (Part.sub hp (by decide)) ?_
    | with_reducible refine State.waitAddr_frame (Part.sub hp (by decide)) ?_ | split

theorem execQDrop_frame {pt : Part} {dt q : Nat} {s : State} (hp : pt ∉ [Part.clock, Part.io, Part.qmg]) :
    ∃ s', execQDrop dt q s = .next s' ∧ pt.same s s' := by
  unfold execQDrop
  refine ⟨_, rfl, ?_⟩
  try dsimp only
  repeat' first
    | with_reducible assumption | with_reducible exact Part.same_refl _ _ | intro _ | with_reducible refine State.elapse_frame (Part.sub hp (by decide)) ?_
    | with_reducible refine State.endWindow_frame (Part.sub hp (by decide)) ?_ | split

theorem execQPtrReset_frame {pt : Part} {dt q which binary graycopy : Nat} {s : State} (hp : pt ∉ [Part.clock, Part.regs, Part.io, Part.qmg]) :
    ∃ s', execQPtrReset dt q which binary graycopy s = .next s' ∧ pt.same s s' := by
  unfold execQPtrReset
  refine ⟨_, rfl, ?_⟩
  try dsimp only
  repeat' first
    | with_reducible assumption | with_reducible exact Part.same_refl _ _ | intro _ | with_reducible refine State.elapse_frame (Part.sub hp (by decide)) ?_
    | with_reducible refine State.raise_frame (Part.sub hp (by decide)) ?_ | with_reducible refine State.resetQueue_frame (Part.sub hp (by decide)) ?_
    | with_reducible apply Part.ite | split

theorem execQueueResetEnd_frame {pt : Part} {dt q : Nat} {s : State} (hp : pt ∉ [Part.clock, Part.qmg]) :
    ∃ s', execQueueResetEnd dt q s = .next s' ∧ pt.same s s' := by
  unfold execQueueResetEnd
  refine ⟨_, rfl, ?_⟩
  try dsimp only
  repeat' first
    | with_reducible assumption | with_reducible exact Part.same_refl _ _ | intro _ | with_reducible refine State.endQueueReset_frame (Part.sub hp (by decide)) ?_
    | with_reducible refine State.toBoundary_frame (Part.sub hp (by decide)) ?_

theorem State.addFilterQueues_frame {pt : Part} {base : State} {s : State} (hp : pt ∉ [Part.freeCtr, Part.qmg]) (hss : pt.same base s) :
    pt.same base (State.addFilterQueues s) := by
  unfold State.addFilterQueues
  try dsimp only
  repeat' first
    | with_reducible assumption | intro _ | with_reducible exact Part.same_refl _ _ | with_reducible refine State.draw_frame (Part.sub hp (by decide)) ?_
    | with_reducible refine State.setQueue_frame (Part.sub hp (by decide)) ?_ | with_reducible apply Part.ite
    | with_reducible apply Part.foldl | split

theorem State.awaitQueue_frame {pt : Part} {base : State} {s : State} {q : Nat} (hp : pt ∉ [Part.clock, Part.qmg]) (hss : pt.same base s) :
    pt.same base (State.awaitQueue s q) := by
  unfold State.awaitQueue
  try dsimp only
  repeat' first
    | with_reducible assumption | intro _ | with_reducible refine State.endQueueReset_frame (Part.sub hp (by decide)) ?_
    | with_reducible refine State.waitAddr_frame (Part.sub hp (by decide)) ?_ | with_reducible apply Part.ite
    | split

theorem execQmgQCreate_frame {pt : Part} {dt : Nat} {h : HostRef} {p : QCreate} {s : State} (hp : pt ∉ [Part.clock, Part.freeCtr, Part.io, Part.qmg]) :
    ∃ s', execQmgQCreate dt h p s = .next s' ∧ pt.same s s' := by
  unfold execQmgQCreate
  refine ⟨_, rfl, ?_⟩
  try dsimp only
  repeat' first
    | with_reducible assumption | intro _ | with_reducible exact Part.same_refl _ _ | with_reducible refine State.command_frame (Part.sub hp (by decide)) ?_ ?_
    | with_reducible refine State.done_frame (Part.sub hp (by decide)) ?_ | with_reducible refine State.draw_frame (Part.sub hp (by decide)) ?_
    | with_reducible refine State.refuse_frame (Part.sub hp (by decide)) ?_ | with_reducible refine State.setQueue_frame (Part.sub hp (by decide)) ?_
    | with_reducible refine State.waitAddr_frame (Part.sub hp (by decide)) ?_ | with_reducible apply Part.ite
    | split

theorem execQmgQDestroy_frame {pt : Part} {dt : Nat} {h : HostRef} {q : Nat} {s : State} (hp : pt ∉ [Part.clock, Part.io, Part.qmg]) :
    ∃ s', execQmgQDestroy dt h q s = .next s' ∧ pt.same s s' := by
  unfold execQmgQDestroy
  refine ⟨_, rfl, ?_⟩
  try dsimp only
  repeat' first
    | with_reducible assumption | intro _ | with_reducible exact Part.same_refl _ _ | with_reducible refine State.awaitQueue_frame (Part.sub hp (by decide)) ?_
    | with_reducible refine State.command_frame (Part.sub hp (by decide)) ?_ ?_ | with_reducible refine State.done_frame (Part.sub hp (by decide)) ?_
    | with_reducible refine State.refuse_frame (Part.sub hp (by decide)) ?_ | with_reducible apply Part.ite
    | split | fail_if_no_progress with_reducible refine Part.same_upd ?_ ?_ | ((with_reducible refine Part.keptIntro ?_); cases pt <;> first | exact absurd (by decide) hp | exact rfl | exact ⟨rfl, rfl⟩)

theorem execQmgQSet_frame {pt : Part} {dt : Nat} {h : HostRef} {q high low : Nat} {hold holdValid : Bool} {s : State} (hp : pt ∉ [Part.clock, Part.regs, Part.io, Part.qmg]) :
    ∃ s', execQmgQSet dt h q high low hold holdValid s = .next s' ∧ pt.same s s' := by
  unfold execQmgQSet
  refine ⟨_, rfl, ?_⟩
  try dsimp only
  repeat' first
    | with_reducible assumption | intro _ | with_reducible exact Part.same_refl _ _ | with_reducible refine State.awaitQueue_frame (Part.sub hp (by decide)) ?_
    | with_reducible refine State.command_frame (Part.sub hp (by decide)) ?_ ?_ | with_reducible refine State.done_frame (Part.sub hp (by decide)) ?_
    | with_reducible refine State.judgeQueue_frame (Part.sub hp (by decide)) ?_ | with_reducible refine State.refuse_frame (Part.sub hp (by decide)) ?_
    | with_reducible refine State.setQueue_frame (Part.sub hp (by decide)) ?_ | with_reducible refine State.waitAddr_frame (Part.sub hp (by decide)) ?_
    | with_reducible apply Part.ite | split

theorem execQmgQRead_frame {pt : Part} {dt : Nat} {h : HostRef} {q host : Nat} {s : State} (hp : pt ∉ [Part.clock, Part.io, Part.qmg]) :
    ∃ s', execQmgQRead dt h q host s = .next s' ∧ pt.same s s' := by
  unfold execQmgQRead
  refine ⟨_, rfl, ?_⟩
  try dsimp only
  repeat' first
    | with_reducible assumption | intro _ | with_reducible exact Part.same_refl _ _ | with_reducible refine State.awaitQueue_frame (Part.sub hp (by decide)) ?_
    | with_reducible refine State.command_frame (Part.sub hp (by decide)) ?_ ?_ | with_reducible refine State.done_frame (Part.sub hp (by decide)) ?_
    | with_reducible refine State.hostWrite_frame (Part.sub hp (by decide)) ?_ | with_reducible refine State.refuse_frame (Part.sub hp (by decide)) ?_
    | with_reducible apply Part.ite | split

theorem execQmgMark_frame {pt : Part} {dt : Nat} {h : HostRef} {q on : Nat} {s : State} (hp : pt ∉ [Part.clock, Part.regs, Part.io, Part.qmg]) :
    ∃ s', execQmgMark dt h q on s = .next s' ∧ pt.same s s' := by
  unfold execQmgMark
  refine ⟨_, rfl, ?_⟩
  try dsimp only
  repeat' first
    | with_reducible assumption | intro _ | with_reducible exact Part.same_refl _ _ | with_reducible refine State.awaitQueue_frame (Part.sub hp (by decide)) ?_
    | with_reducible refine State.command_frame (Part.sub hp (by decide)) ?_ ?_ | with_reducible refine State.done_frame (Part.sub hp (by decide)) ?_
    | with_reducible refine State.judgeQueue_frame (Part.sub hp (by decide)) ?_ | with_reducible refine State.refuse_frame (Part.sub hp (by decide)) ?_
    | with_reducible refine State.setQueue_frame (Part.sub hp (by decide)) ?_ | with_reducible apply Part.ite
    | split

theorem execQmgRewind_frame {pt : Part} {dt : Nat} {h : HostRef} {q : Nat} {s : State} (hp : pt ∉ [Part.clock, Part.regs, Part.io, Part.qmg]) :
    ∃ s', execQmgRewind dt h q s = .next s' ∧ pt.same s s' := by
  unfold execQmgRewind
  refine ⟨_, rfl, ?_⟩
  try dsimp only
  repeat' first
    | with_reducible assumption | intro _ | with_reducible exact Part.same_refl _ _ | with_reducible refine State.awaitQueue_frame (Part.sub hp (by decide)) ?_
    | with_reducible refine State.command_frame (Part.sub hp (by decide)) ?_ ?_ | with_reducible refine State.done_frame (Part.sub hp (by decide)) ?_
    | with_reducible refine State.judgeQueue_frame (Part.sub hp (by decide)) ?_ | with_reducible refine State.refuse_frame (Part.sub hp (by decide)) ?_
    | with_reducible refine State.setQueue_frame (Part.sub hp (by decide)) ?_ | with_reducible apply Part.ite
    | split

theorem execQmgDropRest_frame {pt : Part} {dt : Nat} {h : HostRef} {q : Nat} {s : State} (hp : pt ∉ [Part.clock, Part.regs, Part.io, Part.qmg]) :
    ∃ s', execQmgDropRest dt h q s = .next s' ∧ pt.same s s' := by
  unfold execQmgDropRest
  refine ⟨_, rfl, ?_⟩
  try dsimp only
  repeat' first
    | with_reducible assumption | intro _ | with_reducible exact Part.same_refl _ _ | with_reducible refine State.awaitQueue_frame (Part.sub hp (by decide)) ?_
    | with_reducible refine State.command_frame (Part.sub hp (by decide)) ?_ ?_ | with_reducible refine State.complete_frame (Part.sub hp (by decide)) ?_
    | with_reducible refine State.hostWrite_frame (Part.sub hp (by decide)) ?_ | with_reducible refine State.judgeQueue_frame (Part.sub hp (by decide)) ?_
    | with_reducible refine State.refuse_frame (Part.sub hp (by decide)) ?_ | with_reducible refine State.setQueue_frame (Part.sub hp (by decide)) ?_
    | with_reducible apply Part.ite | split

theorem execQmgQReset_frame {pt : Part} {dt : Nat} {h : HostRef} {q : Nat} {s : State} (hp : pt ∉ [Part.clock, Part.regs, Part.io, Part.qmg]) :
    ∃ s', execQmgQReset dt h q s = .next s' ∧ pt.same s s' := by
  unfold execQmgQReset
  refine ⟨_, rfl, ?_⟩
  try dsimp only
  repeat' first
    | with_reducible assumption | intro _ | with_reducible exact Part.same_refl _ _ | with_reducible refine State.awaitQueue_frame (Part.sub hp (by decide)) ?_
    | with_reducible refine State.command_frame (Part.sub hp (by decide)) ?_ ?_ | with_reducible refine State.done_frame (Part.sub hp (by decide)) ?_
    | with_reducible refine State.raiseC_frame (Part.sub hp (by decide)) ?_ | with_reducible refine State.refuse_frame (Part.sub hp (by decide)) ?_
    | with_reducible refine State.resetQueue_frame (Part.sub hp (by decide)) ?_ | with_reducible apply Part.ite
    | split

end Sys2Proof.Machine
end

