-- ==== Sys2Proof/Laws/FramesTiming.lean ====
section
/-! SUPPORT. Which parts of the state the operations of Machine/Timing.lean may change. -/

set_option Elab.async false

namespace Sys2Proof.Machine

theorem State.setCand_frame {pt : Part} {base : State} {s : State} {n : Nat} {c : CandSt} (hp : pt ∉ [Part.tim]) (hss : pt.same base s) :
    pt.same base (State.setCand s n c) := by
  unfold State.setCand
  try dsimp only
  repeat' first
    | with_reducible assumption | intro _ | fail_if_no_progress with_reducible refine Part.same_upd ?_ ?_
    | ((with_reducible refine Part.keptIntro ?_); cases pt <;> first | exact absurd (by decide) hp | exact rfl | exact ⟨rfl, rfl⟩)

theorem State.qlRefresh_frame {pt : Part} {base : State} {s : State} {n : Nat} (hp : pt ∉ [Part.regs, Part.io]) (hss : pt.same base s) :
    pt.same base (State.qlRefresh s n) := by
  unfold State.qlRefresh
  try dsimp only
  repeat' first
    | with_reducible assumption | intro _ | with_reducible refine State.count_frame (Part.sub hp (by decide)) ?_
    | with_reducible refine State.raise_frame (Part.sub hp (by decide)) ?_ | with_reducible refine State.wr_frame (Part.sub hp (by decide)) ?_
    | with_reducible apply Part.ite | split

theorem State.setFreq_frame {pt : Part} {base : State} {s : State} {n : Nat} {v : Int} (hp : pt ∉ [Part.regs, Part.tim]) (hss : pt.same base s) :
    pt.same base (State.setFreq s n v) := by
  unfold State.setFreq
  try dsimp only
  repeat' first
    | with_reducible assumption | intro _ | with_reducible refine State.setCand_frame (Part.sub hp (by decide)) ?_
    | with_reducible refine State.wrInt_frame (Part.sub hp (by decide)) ?_

theorem State.holdPhase_frame {pt : Part} {base : State} {s : State} {n : Nat} (hp : pt ∉ [Part.tim]) (hss : pt.same base s) :
    pt.same base (State.holdPhase s n) := by
  unfold State.holdPhase
  try dsimp only
  repeat' first
    | with_reducible assumption | intro _ | with_reducible refine State.setCand_frame (Part.sub hp (by decide)) ?_
    | with_reducible apply Part.ite | split

theorem State.cancelForce_frame {pt : Part} {base : State} {s : State} {n : Nat} (hp : pt ∉ [Part.regs, Part.io, Part.tim]) (hss : pt.same base s) :
    pt.same base (State.cancelForce s n) := by
  unfold State.cancelForce
  try dsimp only
  repeat' first
    | with_reducible assumption | intro _ | with_reducible refine State.raise_frame (Part.sub hp (by decide)) ?_
    | with_reducible refine State.wrBit_frame (Part.sub hp (by decide)) ?_ | with_reducible apply Part.ite
    | fail_if_no_progress with_reducible refine Part.same_upd ?_ ?_ | ((with_reducible refine Part.keptIntro ?_); cases pt <;> first | exact absurd (by decide) hp | exact rfl | exact ⟨rfl, rfl⟩)
    | split

theorem State.disqualify_frame {pt : Part} {base : State} {s : State} {n cause : Nat} (hp : pt ∉ [Part.regs, Part.io, Part.tim]) (hss : pt.same base s) :
    pt.same base (State.disqualify s n cause) := by
  unfold State.disqualify
  try dsimp only
  repeat' first
    | with_reducible assumption | intro _ | with_reducible refine State.cancelForce_frame (Part.sub hp (by decide)) ?_
    | with_reducible refine State.raise_frame (Part.sub hp (by decide)) ?_ | with_reducible refine State.setCand_frame (Part.sub hp (by decide)) ?_
    | with_reducible refine State.wr_frame (Part.sub hp (by decide)) ?_ | with_reducible apply Part.ite
    | fail_if_no_progress with_reducible refine Part.same_upd ?_ ?_ | ((with_reducible refine Part.keptIntro ?_); cases pt <;> first | exact absurd (by decide) hp | exact rfl | exact ⟨rfl, rfl⟩)
    | split

theorem State.candLost_frame {pt : Part} {base : State} {s : State} {n : Nat} (hp : pt ∉ [Part.regs, Part.io, Part.tim]) (hss : pt.same base s) :
    pt.same base (State.candLost s n) := by
  unfold State.candLost
  try dsimp only
  repeat' first
    | with_reducible assumption | intro _ | with_reducible refine State.disqualify_frame (Part.sub hp (by decide)) ?_
    | with_reducible refine State.holdPhase_frame (Part.sub hp (by decide)) ?_ | with_reducible apply Part.ite
    | split

theorem State.candBack_frame {pt : Part} {base : State} {s : State} {n : Nat} (hp : pt ∉ [Part.tim]) (hss : pt.same base s) :
    pt.same base (State.candBack s n) := by
  unfold State.candBack
  try dsimp only
  repeat' first
    | with_reducible assumption | intro _ | with_reducible refine State.setCand_frame (Part.sub hp (by decide)) ?_
    | with_reducible apply Part.ite | split

theorem State.qualTimer_frame {pt : Part} {base : State} {s : State} {n : Nat} (hp : pt ∉ [Part.tim]) (hss : pt.same base s) :
    pt.same base (State.qualTimer s n) := by
  unfold State.qualTimer
  try dsimp only
  repeat' first
    | with_reducible assumption | intro _ | with_reducible refine State.setCand_frame (Part.sub hp (by decide)) ?_
    | with_reducible apply Part.ite | split

theorem State.candReview_frame {pt : Part} {base : State} {s : State} {n : Nat} (hp : pt ∉ [Part.regs, Part.io, Part.tim]) (hss : pt.same base s) :
    pt.same base (State.candReview s n) := by
  unfold State.candReview
  try dsimp only
  repeat' first
    | with_reducible assumption | intro _ | with_reducible refine State.candBack_frame (Part.sub hp (by decide)) ?_
    | with_reducible refine State.candLost_frame (Part.sub hp (by decide)) ?_ | with_reducible refine State.qualTimer_frame (Part.sub hp (by decide)) ?_
    | with_reducible refine State.setCand_frame (Part.sub hp (by decide)) ?_ | with_reducible refine State.wr_frame (Part.sub hp (by decide)) ?_
    | with_reducible apply Part.ite | split

theorem State.timReview_frame {pt : Part} {base : State} {s : State} (hp : pt ∉ [Part.regs, Part.io, Part.tim]) (hss : pt.same base s) :
    pt.same base (State.timReview s) := by
  unfold State.timReview
  try dsimp only
  repeat' first
    | with_reducible assumption | intro _ | with_reducible exact Part.same_refl _ _ | with_reducible refine State.candReview_frame (Part.sub hp (by decide)) ?_
    | with_reducible refine State.qlRefresh_frame (Part.sub hp (by decide)) ?_ | with_reducible apply Part.foldl

theorem State.acceptQl_frame {pt : Part} {base : State} {s : State} {hit : CandSt → Bool} {ql : Nat} (hp : pt ∉ [Part.regs, Part.io, Part.tim]) (hss : pt.same base s) :
    pt.same base (State.acceptQl s hit ql) := by
  unfold State.acceptQl
  try dsimp only
  repeat' first
    | with_reducible assumption | intro _ | with_reducible exact Part.same_refl _ _ | with_reducible refine State.setCand_frame (Part.sub hp (by decide)) ?_
    | with_reducible refine State.timReview_frame (Part.sub hp (by decide)) ?_ | with_reducible apply Part.ite
    | with_reducible apply Part.foldl | split

theorem State.acceptLaneQl_frame {pt : Part} {base : State} {s : State} {l ql : Nat} (hp : pt ∉ [Part.regs, Part.io, Part.tim]) (hss : pt.same base s) :
    pt.same base (State.acceptLaneQl s l ql) := by
  unfold State.acceptLaneQl
  try dsimp only
  repeat' first
    | with_reducible assumption | intro _ | with_reducible exact Part.same_refl _ _ | with_reducible refine State.acceptQl_frame (Part.sub hp (by decide)) ?_

theorem State.qualify_frame {pt : Part} {base : State} {s : State} {n : Nat} (hp : pt ∉ [Part.regs, Part.io, Part.tim]) (hss : pt.same base s) :
    pt.same base (State.qualify s n) := by
  unfold State.qualify
  try dsimp only
  repeat' first
    | with_reducible assumption | intro _ | with_reducible refine State.raise_frame (Part.sub hp (by decide)) ?_
    | with_reducible refine State.setCand_frame (Part.sub hp (by decide)) ?_ | with_reducible refine State.wr_frame (Part.sub hp (by decide)) ?_
    | with_reducible apply Part.ite | split

theorem State.startWaitingWtr_frame {pt : Part} {base : State} {s : State} (hp : pt ∉ [Part.io, Part.tim]) (hss : pt.same base s) :
    pt.same base (State.startWaitingWtr s) := by
  unfold State.startWaitingWtr
  try dsimp only
  repeat' first
    | with_reducible assumption | intro _ | with_reducible exact Part.same_refl _ _ | with_reducible refine State.raise_frame (Part.sub hp (by decide)) ?_
    | with_reducible refine State.setCand_frame (Part.sub hp (by decide)) ?_ | with_reducible apply Part.ite
    | with_reducible apply Part.foldl | split

theorem State.judgeDisagree_frame {pt : Part} {base : State} {s : State} (hp : pt ∉ [Part.regs, Part.io]) (hss : pt.same base s) :
    pt.same base (State.judgeDisagree s) := by
  unfold State.judgeDisagree
  try dsimp only
  repeat' first
    | with_reducible assumption | intro _ | with_reducible refine State.raise_frame (Part.sub hp (by decide)) ?_
    | with_reducible refine State.wrBit_frame (Part.sub hp (by decide)) ?_ | with_reducible apply Part.ite
    | split

theorem State.setShfState_frame {pt : Part} {base : State} {s : State} {v : Nat} (hp : pt ∉ [Part.regs, Part.io]) (hss : pt.same base s) :
    pt.same base (State.setShfState s v) := by
  unfold State.setShfState
  try dsimp only
  repeat' first
    | with_reducible assumption | intro _ | with_reducible refine State.raise_frame (Part.sub hp (by decide)) ?_
    | with_reducible refine State.wr_frame (Part.sub hp (by decide)) ?_ | with_reducible apply Part.ite
    | split

theorem State.followDpll_frame {pt : Part} {base : State} {s : State} {v : Nat} (hp : pt ∉ [Part.regs, Part.io]) (hss : pt.same base s) :
    pt.same base (State.followDpll s v) := by
  unfold State.followDpll
  try dsimp only
  repeat' first
    | with_reducible assumption | intro _ | with_reducible refine State.setShfState_frame (Part.sub hp (by decide)) ?_
    | with_reducible apply Part.ite | split

theorem State.setDpll_frame {pt : Part} {base : State} {s : State} {v : Nat} (hp : pt ∉ [Part.regs, Part.io, Part.tim]) (hss : pt.same base s) :
    pt.same base (State.setDpll s v) := by
  unfold State.setDpll
  try dsimp only
  repeat' first
    | with_reducible assumption | intro _ | with_reducible refine State.followDpll_frame (Part.sub hp (by decide)) ?_
    | with_reducible refine State.raise_frame (Part.sub hp (by decide)) ?_ | with_reducible refine State.wr_frame (Part.sub hp (by decide)) ?_
    | with_reducible refine State.wrBit_frame (Part.sub hp (by decide)) ?_ | with_reducible apply Part.ite
    | fail_if_no_progress with_reducible refine Part.same_upd ?_ ?_ | ((with_reducible refine Part.keptIntro ?_); cases pt <;> first | exact absurd (by decide) hp | exact rfl | exact ⟨rfl, rfl⟩)
    | split

theorem State.setDco_frame {pt : Part} {base : State} {s : State} {d : Int} (hp : pt ∉ [Part.dco, Part.regs, Part.tim]) (hss : pt.same base s) :
    pt.same base (State.setDco s d) := by
  unfold State.setDco
  try dsimp only
  repeat' first
    | with_reducible assumption | intro _ | with_reducible refine State.wrInt_frame (Part.sub hp (by decide)) ?_
    | with_reducible apply Part.ite | fail_if_no_progress with_reducible refine Part.same_upd ?_ ?_ | ((with_reducible refine Part.keptIntro ?_); cases pt <;> first | exact absurd (by decide) hp | exact rfl | exact ⟨rfl, rfl⟩)
    | split

theorem State.judgeDemand_frame {pt : Part} {base : State} {s : State} {d : Int} (hp : pt ∉ [Part.regs, Part.io]) (hss : pt.same base s) :
    pt.same base (State.judgeDemand s d) := by
  unfold State.judgeDemand
  try dsimp only
  repeat' first
    | with_reducible assumption | intro _ | with_reducible refine State.raise_frame (Part.sub hp (by decide)) ?_
    | with_reducible refine State.wrBit_frame (Part.sub hp (by decide)) ?_ | with_reducible apply Part.ite
    | split

theorem State.putCoef_frame {pt : Part} {base : State} {s : State} {f : Fld} {q : Rat} (hp : pt ∉ [Part.regs]) (hss : pt.same base s) :
    pt.same base (State.putCoef s f q) := by
  unfold State.putCoef
  try dsimp only
  repeat' first
    | with_reducible assumption | intro _ | with_reducible refine State.wrInt_frame (Part.sub hp (by decide)) ?_

theorem State.showFit_frame {pt : Part} {base : State} {s : State} (hp : pt ∉ [Part.regs]) (hss : pt.same base s) :
    pt.same base (State.showFit s) := by
  unfold State.showFit
  try dsimp only
  repeat' first
    | with_reducible assumption | intro _ | with_reducible exact Part.same_refl _ _ | with_reducible refine State.putCoef_frame (Part.sub hp (by decide)) ?_
    | with_reducible refine State.wr_frame (Part.sub hp (by decide)) ?_ | with_reducible apply Part.foldl
    | with_reducible apply Part.foldlFst | with_reducible apply Part.iteFst | split

theorem State.dropSamples_frame {pt : Part} {base : State} {s : State} (hp : pt ∉ [Part.regs, Part.tim]) (hss : pt.same base s) :
    pt.same base (State.dropSamples s) := by
  unfold State.dropSamples
  try dsimp only
  repeat' first
    | with_reducible assumption | intro _ | with_reducible exact Part.same_refl _ _ | with_reducible refine State.showFit_frame (Part.sub hp (by decide)) ?_
    | with_reducible apply Part.iteFst | split | fail_if_no_progress with_reducible refine Part.same_upd ?_ ?_
    | ((with_reducible refine Part.keptIntro ?_); cases pt <;> first | exact absurd (by decide) hp | exact rfl | exact ⟨rfl, rfl⟩)

theorem State.enterHoldover_frame {pt : Part} {base : State} {s : State} (hp : pt ∉ [Part.regs, Part.io, Part.tim]) (hss : pt.same base s) :
    pt.same base (State.enterHoldover s) := by
  unfold State.enterHoldover
  try dsimp only
  repeat' first
    | with_reducible assumption | intro _ | with_reducible exact Part.same_refl _ _ | with_reducible refine State.dropSamples_frame (Part.sub hp (by decide)) ?_
    | with_reducible refine State.setDpll_frame (Part.sub hp (by decide)) ?_ | with_reducible refine State.wrBit_frame (Part.sub hp (by decide)) ?_
    | with_reducible apply Part.ite | with_reducible apply Part.iteFst | fail_if_no_progress with_reducible refine Part.same_upd ?_ ?_
    | ((with_reducible refine Part.keptIntro ?_); cases pt <;> first | exact absurd (by decide) hp | exact rfl | exact ⟨rfl, rfl⟩)
    | split

theorem State.beginSwitch_frame {pt : Part} {base : State} {s : State} {old new cause : Nat} (hp : pt ∉ [Part.regs, Part.io, Part.tim]) (hss : pt.same base s) :
    pt.same base (State.beginSwitch s old new cause) := by
  unfold State.beginSwitch
  try dsimp only
  repeat' first
    | with_reducible assumption | intro _ | with_reducible refine State.raise_frame (Part.sub hp (by decide)) ?_
    | with_reducible refine State.wrBit_frame (Part.sub hp (by decide)) ?_ | with_reducible apply Part.ite
    | fail_if_no_progress with_reducible refine Part.same_upd ?_ ?_ | ((with_reducible refine Part.keptIntro ?_); cases pt <;> first | exact absurd (by decide) hp | exact rfl | exact ⟨rfl, rfl⟩)
    | split

theorem State.enterAcquire_frame {pt : Part} {base : State} {s : State} {n : Nat} (hp : pt ∉ [Part.regs, Part.io, Part.tim]) (hss : pt.same base s) :
    pt.same base (State.enterAcquire s n) := by
  unfold State.enterAcquire
  try dsimp only
  repeat' first
    | with_reducible assumption | intro _ | with_reducible refine State.setDpll_frame (Part.sub hp (by decide)) ?_
    | with_reducible apply Part.ite | fail_if_no_progress with_reducible refine Part.same_upd ?_ ?_ | ((with_reducible refine Part.keptIntro ?_); cases pt <;> first | exact absurd (by decide) hp | exact rfl | exact ⟨rfl, rfl⟩)
    | split

theorem State.abandonSwitch_frame {pt : Part} {base : State} {s : State} (hp : pt ∉ [Part.regs, Part.io, Part.tim]) (hss : pt.same base s) :
    pt.same base (State.abandonSwitch s) := by
  unfold State.abandonSwitch
  try dsimp only
  repeat' first
    | with_reducible assumption | intro _ | with_reducible refine State.startWaitingWtr_frame (Part.sub hp (by decide)) ?_
    | with_reducible refine State.wrBit_frame (Part.sub hp (by decide)) ?_ | with_reducible apply Part.ite
    | split

theorem State.finishSwitch_frame {pt : Part} {base : State} {s : State} (hp : pt ∉ [Part.regs, Part.io, Part.tim]) (hss : pt.same base s) :
    pt.same base (State.finishSwitch s) := by
  unfold State.finishSwitch
  try dsimp only
  repeat' first
    | with_reducible assumption | intro _ | with_reducible refine State.raise_frame (Part.sub hp (by decide)) ?_
    | with_reducible refine State.setDpll_frame (Part.sub hp (by decide)) ?_ | with_reducible refine State.startWaitingWtr_frame (Part.sub hp (by decide)) ?_
    | with_reducible refine State.wrBit_frame (Part.sub hp (by decide)) ?_

theorem State.dpllAct_frame {pt : Part} {base : State} {s : State} {sel : Option Nat} {old : Nat} {changed : Bool} {cause : Nat} (hp : pt ∉ [Part.regs, Part.io, Part.tim]) (hss : pt.same base s) :
    pt.same base (State.dpllAct s sel old changed cause) := by
  unfold State.dpllAct
  try dsimp only
  repeat' first
    | with_reducible assumption | intro _ | with_reducible refine State.abandonSwitch_frame (Part.sub hp (by decide)) ?_
    | with_reducible refine State.beginSwitch_frame (Part.sub hp (by decide)) ?_ | with_reducible refine State.enterAcquire_frame (Part.sub hp (by decide)) ?_
    | with_reducible refine State.enterHoldover_frame (Part.sub hp (by decide)) ?_ | with_reducible refine State.setDpll_frame (Part.sub hp (by decide)) ?_
    | with_reducible apply Part.ite | split

theorem State.makeDecision_frame {pt : Part} {base : State} {s : State} (hp : pt ∉ [Part.regs, Part.io, Part.tim]) (hss : pt.same base s) :
    pt.same base (State.makeDecision s) := by
  unfold State.makeDecision
  try dsimp only
  repeat' first
    | with_reducible assumption | intro _ | with_reducible refine State.dpllAct_frame (Part.sub hp (by decide)) ?_
    | with_reducible refine State.wr_frame (Part.sub hp (by decide)) ?_ | with_reducible apply Part.ite
    | split

theorem State.judgeLock_frame {pt : Part} {base : State} {s : State} (hp : pt ∉ [Part.tim]) (hss : pt.same base s) :
    pt.same base (State.judgeLock s) := by
  unfold State.judgeLock
  try dsimp only
  repeat' first
    | with_reducible assumption | intro _ | with_reducible apply Part.ite | fail_if_no_progress with_reducible refine Part.same_upd ?_ ?_
    | ((with_reducible refine Part.keptIntro ?_); cases pt <;> first | exact absurd (by decide) hp | exact rfl | exact ⟨rfl, rfl⟩)
    | split

theorem State.runLoop_frame {pt : Part} {base : State} {s : State} {err : Int} {milli : Nat} {slow : Bool} (hp : pt ∉ [Part.dco, Part.regs, Part.io, Part.tim]) (hss : pt.same base s) :
    pt.same base (State.runLoop s err milli slow) := by
  unfold State.runLoop
  try dsimp only
  repeat' first
    | with_reducible assumption | intro _ | with_reducible refine State.judgeDemand_frame (Part.sub hp (by decide)) ?_
    | with_reducible refine State.setDco_frame (Part.sub hp (by decide)) ?_ | with_reducible apply Part.ite
    | with_reducible apply Part.iteFst | fail_if_no_progress with_reducible refine Part.same_upd ?_ ?_
    | ((with_reducible refine Part.keptIntro ?_); cases pt <;> first | exact absurd (by decide) hp | exact rfl | exact ⟨rfl, rfl⟩)
    | split

theorem State.driveDco_frame {pt : Part} {base : State} {s : State} (hp : pt ∉ [Part.dco, Part.regs, Part.io, Part.tim]) (hss : pt.same base s) :
    pt.same base (State.driveDco s) := by
  unfold State.driveDco
  try dsimp only
  repeat' first
    | with_reducible assumption | intro _ | with_reducible refine State.finishSwitch_frame (Part.sub hp (by decide)) ?_
    | with_reducible refine State.judgeDemand_frame (Part.sub hp (by decide)) ?_ | with_reducible refine State.runLoop_frame (Part.sub hp (by decide)) ?_
    | with_reducible refine State.setDco_frame (Part.sub hp (by decide)) ?_ | with_reducible apply Part.ite
    | split

theorem State.judge450_frame {pt : Part} {base : State} {s : State} (hp : pt ∉ [Part.io, Part.tim]) (hss : pt.same base s) :
    pt.same base (State.judge450 s) := by
  unfold State.judge450
  try dsimp only
  repeat' first
    | with_reducible assumption | intro _ | with_reducible refine State.raiseIf_frame (Part.sub hp (by decide)) ?_
    | fail_if_no_progress with_reducible refine Part.same_upd ?_ ?_ | ((with_reducible refine Part.keptIntro ?_); cases pt <;> first | exact absurd (by decide) hp | exact rfl | exact ⟨rfl, rfl⟩)

theorem State.setTod_frame {pt : Part} {base : State} {s : State} {t : Nat} (hp : pt ∉ [Part.tim, Part.pm]) (hss : pt.same base s) :
    pt.same base (State.setTod s t) := by
  unfold State.setTod
  try dsimp only
  repeat' first
    | with_reducible assumption | intro _ | with_reducible exact Part.same_refl _ _ | with_reducible apply Part.iteFst
    | fail_if_no_progress with_reducible refine Part.same_upd ?_ ?_ | ((with_reducible refine Part.keptIntro ?_); cases pt <;> first | exact absurd (by decide) hp | exact rfl | exact ⟨rfl, rfl⟩)

theorem State.applyStep_frame {pt : Part} {base : State} {s : State} (hp : pt ∉ [Part.io, Part.tim, Part.pm]) (hss : pt.same base s) :
    pt.same base (State.applyStep s) := by
  unfold State.applyStep
  try dsimp only
  repeat' first
    | with_reducible assumption | intro _ | with_reducible refine State.raise_frame (Part.sub hp (by decide)) ?_
    | with_reducible refine State.setTod_frame (Part.sub hp (by decide)) ?_ | split | fail_if_no_progress with_reducible refine Part.same_upd ?_ ?_
    | ((with_reducible refine Part.keptIntro ?_); cases pt <;> first | exact absurd (by decide) hp | exact rfl | exact ⟨rfl, rfl⟩)

theorem State.disableCand_frame {pt : Part} {base : State} {s : State} {n : Nat} {c : CandSt} (hp : pt ∉ [Part.regs, Part.io, Part.tim]) (hss : pt.same base s) :
    pt.same base (State.disableCand s n c) := by
  unfold State.disableCand
  try dsimp only
  repeat' first
    | with_reducible assumption | intro _ | with_reducible refine State.disqualify_frame (Part.sub hp (by decide)) ?_
    | with_reducible refine State.setCand_frame (Part.sub hp (by decide)) ?_ | with_reducible refine State.wr_frame (Part.sub hp (by decide)) ?_
    | with_reducible refine State.wrInt_frame (Part.sub hp (by decide)) ?_ | with_reducible apply Part.ite
    | fail_if_no_progress with_reducible refine Part.same_upd ?_ ?_ | ((with_reducible refine Part.keptIntro ?_); cases pt <;> first | exact absurd (by decide) hp | exact rfl | exact ⟨rfl, rfl⟩)
    | split

theorem State.changeSource_frame {pt : Part} {base : State} {s : State} {n : Nat} {c : CandSt} (hp : pt ∉ [Part.regs, Part.io, Part.tim]) (hss : pt.same base s) :
    pt.same base (State.changeSource s n c) := by
  unfold State.changeSource
  try dsimp only
  repeat' first
    | with_reducible assumption | intro _ | with_reducible refine State.disqualify_frame (Part.sub hp (by decide)) ?_
    | with_reducible refine State.setCand_frame (Part.sub hp (by decide)) ?_ | with_reducible refine State.wr_frame (Part.sub hp (by decide)) ?_
    | with_reducible apply Part.ite | fail_if_no_progress with_reducible refine Part.same_upd ?_ ?_ | ((with_reducible refine Part.keptIntro ?_); cases pt <;> first | exact absurd (by decide) hp | exact rfl | exact ⟨rfl, rfl⟩)
    | split

theorem State.applyCandCfg_frame {pt : Part} {base : State} {s : State} {n : Nat} (hp : pt ∉ [Part.regs, Part.io, Part.tim]) (hss : pt.same base s) :
    pt.same base (State.applyCandCfg s n) := by
  unfold State.applyCandCfg
  try dsimp only
  repeat' first
    | with_reducible assumption | intro _ | with_reducible refine State.changeSource_frame (Part.sub hp (by decide)) ?_
    | with_reducible refine State.disableCand_frame (Part.sub hp (by decide)) ?_ | with_reducible refine State.setCand_frame (Part.sub hp (by decide)) ?_
    | with_reducible refine State.wr_frame (Part.sub hp (by decide)) ?_ | with_reducible refine State.wrBit_frame (Part.sub hp (by decide)) ?_
    | with_reducible refine State.wrInt_frame (Part.sub hp (by decide)) ?_ | with_reducible apply Part.ite
    | split

theorem State.steerQualify_frame {pt : Part} {base : State} {s : State} (hp : pt ∉ [Part.regs, Part.io, Part.tim]) (hss : pt.same base s) :
    pt.same base (State.steerQualify s) := by
  unfold State.steerQualify
  try dsimp only
  repeat' first
    | with_reducible assumption | intro _ | with_reducible refine State.qualify_frame (Part.sub hp (by decide)) ?_
    | with_reducible apply Part.ite | fail_if_no_progress with_reducible refine Part.same_upd ?_ ?_ | ((with_reducible refine Part.keptIntro ?_); cases pt <;> first | exact absurd (by decide) hp | exact rfl | exact ⟨rfl, rfl⟩)
    | split

theorem execTimFreqMeasure_frame {pt : Part} {dt : Nat} {meas : List (Nat × Int)} {s : State} (hp : pt ∉ [Part.clock, Part.regs, Part.io, Part.tim]) :
    ∃ s', execTimFreqMeasure dt meas s = .next s' ∧ pt.same s s' := by
  unfold execTimFreqMeasure
  refine ⟨_, rfl, ?_⟩
  try dsimp only
  repeat' first
    | with_reducible assumption | intro _ | with_reducible exact Part.same_refl _ _ | with_reducible refine State.count_frame (Part.sub hp (by decide)) ?_
    | with_reducible refine State.setFreq_frame (Part.sub hp (by decide)) ?_ | with_reducible refine State.timReview_frame (Part.sub hp (by decide)) ?_
    | with_reducible refine State.toBoundary_frame (Part.sub hp (by decide)) ?_ | with_reducible apply Part.ite
    | with_reducible apply Part.foldl | with_reducible apply Part.foldlFst | with_reducible apply Part.iteFst
    | fail_if_no_progress with_reducible refine Part.same_upd ?_ ?_ | ((with_reducible refine Part.keptIntro ?_); cases pt <;> first | exact absurd (by decide) hp | exact rfl | exact ⟨rfl, rfl⟩)
    | split

theorem execRefQualified_frame {pt : Part} {dt cand : Nat} {s : State} (hp : pt ∉ [Part.clock, Part.regs, Part.io, Part.tim]) :
    ∃ s', execRefQualified dt cand s = .next s' ∧ pt.same s s' := by
  unfold execRefQualified
  refine ⟨_, rfl, ?_⟩
  try dsimp only
  repeat' first
    | with_reducible assumption | intro _ | with_reducible exact Part.same_refl _ _ | with_reducible refine State.elapse_frame (Part.sub hp (by decide)) ?_
    | with_reducible refine State.qualify_frame (Part.sub hp (by decide)) ?_ | with_reducible refine State.whenAddr_frame (Part.sub hp (by decide)) ?_ ?_
    | with_reducible apply Part.ite | split

theorem execTimHoldoffExpiry_frame {pt : Part} {dt cand : Nat} {s : State} (hp : pt ∉ [Part.clock, Part.regs, Part.io, Part.tim]) :
    ∃ s', execTimHoldoffExpiry dt cand s = .next s' ∧ pt.same s s' := by
  unfold execTimHoldoffExpiry
  refine ⟨_, rfl, ?_⟩
  try dsimp only
  repeat' first
    | with_reducible assumption | intro _ | with_reducible exact Part.same_refl _ _ | with_reducible refine State.candBack_frame (Part.sub hp (by decide)) ?_
    | with_reducible refine State.disqualify_frame (Part.sub hp (by decide)) ?_ | with_reducible refine State.elapse_frame (Part.sub hp (by decide)) ?_
    | with_reducible refine State.whenAddr_frame (Part.sub hp (by decide)) ?_ ?_ | with_reducible apply Part.ite
    | split

theorem State.slaveFollow_frame {pt : Part} {base : State} {s : State} {on : Bool} (hp : pt ∉ [Part.regs, Part.io, Part.tim, Part.par]) (hss : pt.same base s) :
    pt.same base (State.slaveFollow s on) := by
  unfold State.slaveFollow
  try dsimp only
  repeat' first
    | with_reducible assumption | intro _ | with_reducible refine State.abandonSwitch_frame (Part.sub hp (by decide)) ?_
    | with_reducible refine State.enterHoldover_frame (Part.sub hp (by decide)) ?_ | with_reducible refine State.setDpll_frame (Part.sub hp (by decide)) ?_
    | with_reducible refine State.wr_frame (Part.sub hp (by decide)) ?_ | with_reducible apply Part.ite
    | fail_if_no_progress with_reducible refine Part.same_upd ?_ ?_ | ((with_reducible refine Part.keptIntro ?_); cases pt <;> first | exact absurd (by decide) hp | exact rfl | exact ⟨rfl, rfl⟩)
    | split

theorem State.actDpll_frame {pt : Part} {base : State} {s : State} (hp : pt ∉ [Part.regs, Part.io, Part.tim, Part.par]) (hss : pt.same base s) :
    pt.same base (State.actDpll s) := by
  unfold State.actDpll
  try dsimp only
  repeat' first
    | with_reducible assumption | intro _ | with_reducible refine State.makeDecision_frame (Part.sub hp (by decide)) ?_
    | with_reducible refine State.slaveFollow_frame (Part.sub hp (by decide)) ?_ | split

theorem execRefSelection_frame {pt : Part} {dt : Nat} {s : State} (hp : pt ∉ [Part.clock, Part.dco, Part.regs, Part.io, Part.tim, Part.pm, Part.par]) :
    ∃ s', execRefSelection dt s = .next s' ∧ pt.same s s' := by
  unfold execRefSelection
  refine ⟨_, rfl, ?_⟩
  try dsimp only
  repeat' first
    | with_reducible assumption | intro _ | with_reducible exact Part.same_refl _ _ | with_reducible refine State.actDpll_frame (Part.sub hp (by decide)) ?_
    | with_reducible refine State.applyCandCfg_frame (Part.sub hp (by decide)) ?_ | with_reducible refine State.applyStep_frame (Part.sub hp (by decide)) ?_
    | with_reducible refine State.candReview_frame (Part.sub hp (by decide)) ?_ | with_reducible refine State.driveDco_frame (Part.sub hp (by decide)) ?_
    | with_reducible refine State.judge450_frame (Part.sub hp (by decide)) ?_ | with_reducible refine State.judgeDisagree_frame (Part.sub hp (by decide)) ?_
    | with_reducible refine State.judgeLock_frame (Part.sub hp (by decide)) ?_ | with_reducible refine State.qlRefresh_frame (Part.sub hp (by decide)) ?_
    | with_reducible refine State.steerQualify_frame (Part.sub hp (by decide)) ?_ | with_reducible refine State.toBoundary_frame (Part.sub hp (by decide)) ?_
    | with_reducible apply Part.ite | with_reducible apply Part.foldl | split

theorem execRefSwitchDone_frame {pt : Part} {dt : Nat} {s : State} (hp : pt ∉ [Part.clock, Part.regs, Part.io, Part.tim]) :
    ∃ s', execRefSwitchDone dt s = .next s' ∧ pt.same s s' := by
  unfold execRefSwitchDone
  refine ⟨_, rfl, ?_⟩
  try dsimp only
  repeat' first
    | with_reducible assumption | with_reducible exact Part.same_refl _ _ | intro _ | with_reducible refine State.finishSwitch_frame (Part.sub hp (by decide)) ?_
    | with_reducible refine State.toBoundary_frame (Part.sub hp (by decide)) ?_ | with_reducible apply Part.ite
    | split

theorem execWtrExpiry_frame {pt : Part} {dt cand : Nat} {s : State} (hp : pt ∉ [Part.clock, Part.regs, Part.io, Part.tim]) :
    ∃ s', execWtrExpiry dt cand s = .next s' ∧ pt.same s s' := by
  unfold execWtrExpiry
  refine ⟨_, rfl, ?_⟩
  try dsimp only
  repeat' first
    | with_reducible assumption | intro _ | with_reducible exact Part.same_refl _ _ | with_reducible refine State.elapse_frame (Part.sub hp (by decide)) ?_
    | with_reducible refine State.raise_frame (Part.sub hp (by decide)) ?_ | with_reducible refine State.setCand_frame (Part.sub hp (by decide)) ?_
    | with_reducible refine State.whenAddr_frame (Part.sub hp (by decide)) ?_ ?_ | with_reducible refine State.wr_frame (Part.sub hp (by decide)) ?_
    | with_reducible apply Part.ite | split

theorem execSteerWdogExpiry_frame {pt : Part} {dt : Nat} {s : State} (hp : pt ∉ [Part.clock, Part.regs, Part.io, Part.tim]) :
    ∃ s', execSteerWdogExpiry dt s = .next s' ∧ pt.same s s' := by
  unfold execSteerWdogExpiry
  refine ⟨_, rfl, ?_⟩
  try dsimp only
  repeat' first
    | with_reducible assumption | intro _ | with_reducible exact Part.same_refl _ _ | with_reducible refine State.disqualify_frame (Part.sub hp (by decide)) ?_
    | with_reducible refine State.elapse_frame (Part.sub hp (by decide)) ?_ | with_reducible refine State.setCand_frame (Part.sub hp (by decide)) ?_
    | with_reducible refine State.whenAddr_frame (Part.sub hp (by decide)) ?_ ?_ | with_reducible refine State.wr_frame (Part.sub hp (by decide)) ?_
    | with_reducible apply Part.ite | split | fail_if_no_progress with_reducible refine Part.same_upd ?_ ?_
    | ((with_reducible refine Part.keptIntro ?_); cases pt <;> first | exact absurd (by decide) hp | exact rfl | exact ⟨rfl, rfl⟩)

theorem execHoldoverUpdate_frame {pt : Part} {dt : Nat} {s : State} (hp : pt ∉ [Part.clock, Part.dco, Part.freeCtr, Part.regs, Part.io, Part.tim]) :
    ∃ s', execHoldoverUpdate dt s = .next s' ∧ pt.same s s' := by
  unfold execHoldoverUpdate
  refine ⟨_, rfl, ?_⟩
  try dsimp only
  repeat' first
    | with_reducible assumption | with_reducible exact Part.same_refl _ _ | intro _ | with_reducible refine State.draw_frame (Part.sub hp (by decide)) ?_
    | with_reducible refine State.judgeDemand_frame (Part.sub hp (by decide)) ?_ | with_reducible refine State.raiseIf_frame (Part.sub hp (by decide)) ?_
    | with_reducible refine State.setDco_frame (Part.sub hp (by decide)) ?_ | with_reducible refine State.toBoundary_frame (Part.sub hp (by decide)) ?_
    | with_reducible refine State.wrBit_frame (Part.sub hp (by decide)) ?_ | with_reducible apply Part.ite
    | fail_if_no_progress with_reducible refine Part.same_upd ?_ ?_ | ((with_reducible refine Part.keptIntro ?_); cases pt <;> first | exact absurd (by decide) hp | exact rfl | exact ⟨rfl, rfl⟩)
    | split

theorem State.setModel_frame {pt : Part} {base : State} {s : State} {v : Nat} (hp : pt ∉ [Part.regs, Part.io]) (hss : pt.same base s) :
    pt.same base (State.setModel s v) := by
  unfold State.setModel
  try dsimp only
  repeat' first
    | with_reducible assumption | intro _ | with_reducible refine State.raise_frame (Part.sub hp (by decide)) ?_
    | with_reducible refine State.wr_frame (Part.sub hp (by decide)) ?_ | with_reducible apply Part.ite
    | split

theorem execModelLearnSample_frame {pt : Part} {dt : Nat} {s : State} (hp : pt ∉ [Part.clock, Part.freeCtr, Part.regs, Part.io, Part.tim]) :
    ∃ s', execModelLearnSample dt s = .next s' ∧ pt.same s s' := by
  unfold execModelLearnSample
  refine ⟨_, rfl, ?_⟩
  try dsimp only
  repeat' first
    | with_reducible assumption | intro _ | with_reducible exact Part.same_refl _ _ | with_reducible refine State.draw_frame (Part.sub hp (by decide)) ?_
    | with_reducible refine State.setModel_frame (Part.sub hp (by decide)) ?_ | with_reducible refine State.showFit_frame (Part.sub hp (by decide)) ?_
    | with_reducible refine State.toBoundary_frame (Part.sub hp (by decide)) ?_ | with_reducible refine State.wr_frame (Part.sub hp (by decide)) ?_
    | with_reducible apply Part.ite | with_reducible apply Part.iteFst | fail_if_no_progress with_reducible refine Part.same_upd ?_ ?_
    | ((with_reducible refine Part.keptIntro ?_); cases pt <;> first | exact absurd (by decide) hp | exact rfl | exact ⟨rfl, rfl⟩)
    | split

theorem State.pulse_frame {pt : Part} {base : State} {s : State} {sub : Nat} (hp : pt ∉ [Part.tim]) (hss : pt.same base s) :
    pt.same base (State.pulse s sub) := by
  unfold State.pulse
  try dsimp only
  repeat' first
    | with_reducible assumption | intro _ | with_reducible apply Part.ite | fail_if_no_progress with_reducible refine Part.same_upd ?_ ?_
    | ((with_reducible refine Part.keptIntro ?_); cases pt <;> first | exact absurd (by decide) hp | exact rfl | exact ⟨rfl, rfl⟩)
    | split

theorem execTodSetApply_frame {pt : Part} {dt : Nat} {s : State} (hp : pt ∉ [Part.clock, Part.tim, Part.pm]) :
    ∃ s', execTodSetApply dt s = .next s' ∧ pt.same s s' := by
  unfold execTodSetApply
  refine ⟨_, rfl, ?_⟩
  try dsimp only
  repeat' first
    | with_reducible assumption | intro _ | with_reducible exact Part.same_refl _ _ | with_reducible refine State.elapse_frame (Part.sub hp (by decide)) ?_
    | with_reducible refine State.pulse_frame (Part.sub hp (by decide)) ?_ | with_reducible refine State.setTod_frame (Part.sub hp (by decide)) ?_
    | with_reducible refine State.whenAddr_frame (Part.sub hp (by decide)) ?_ ?_ | with_reducible apply Part.ite
    | split | fail_if_no_progress with_reducible refine Part.same_upd ?_ ?_ | ((with_reducible refine Part.keptIntro ?_); cases pt <;> first | exact absurd (by decide) hp | exact rfl | exact ⟨rfl, rfl⟩)

theorem execPpsinEdge_frame {pt : Part} {dt sub : Nat} {s : State} (hp : pt ∉ [Part.clock, Part.regs, Part.io, Part.tim]) :
    ∃ s', execPpsinEdge dt sub s = .next s' ∧ pt.same s s' := by
  unfold execPpsinEdge
  refine ⟨_, rfl, ?_⟩
  try dsimp only
  repeat' first
    | with_reducible assumption | with_reducible exact Part.same_refl _ _ | intro _ | with_reducible refine State.elapse_frame (Part.sub hp (by decide)) ?_
    | with_reducible refine State.timReview_frame (Part.sub hp (by decide)) ?_ | with_reducible apply Part.ite
    | fail_if_no_progress with_reducible refine Part.same_upd ?_ ?_ | ((with_reducible refine Part.keptIntro ?_); cases pt <;> first | exact absurd (by decide) hp | exact rfl | exact ⟨rfl, rfl⟩)
    | split

theorem execPpsoutPulse_frame {pt : Part} {dt : Nat} {s : State} (hp : pt ∉ [Part.clock, Part.tim]) :
    ∃ s', execPpsoutPulse dt s = .next s' ∧ pt.same s s' := by
  unfold execPpsoutPulse
  refine ⟨_, rfl, ?_⟩
  try dsimp only
  repeat' first
    | with_reducible assumption | with_reducible exact Part.same_refl _ _ | intro _ | with_reducible refine State.elapse_frame (Part.sub hp (by decide)) ?_
    | with_reducible refine State.pulse_frame (Part.sub hp (by decide)) ?_ | with_reducible refine State.waitAddr_frame (Part.sub hp (by decide)) ?_

theorem execTimForce_frame {pt : Part} {dt : Nat} {h : HostRef} {cand : Nat} {s : State} (hp : pt ∉ [Part.clock, Part.regs, Part.io, Part.tim]) :
    ∃ s', execTimForce dt h cand s = .next s' ∧ pt.same s s' := by
  unfold execTimForce
  refine ⟨_, rfl, ?_⟩
  try dsimp only
  repeat' first
    | with_reducible assumption | intro _ | with_reducible exact Part.same_refl _ _ | with_reducible refine State.command_frame (Part.sub hp (by decide)) ?_ ?_
    | with_reducible refine State.done_frame (Part.sub hp (by decide)) ?_ | with_reducible refine State.refuse_frame (Part.sub hp (by decide)) ?_
    | with_reducible refine State.wrBit_frame (Part.sub hp (by decide)) ?_ | with_reducible apply Part.ite
    | fail_if_no_progress with_reducible refine Part.same_upd ?_ ?_ | ((with_reducible refine Part.keptIntro ?_); cases pt <;> first | exact absurd (by decide) hp | exact rfl | exact ⟨rfl, rfl⟩)
    | split

theorem execTimClear_frame {pt : Part} {dt : Nat} {h : HostRef} {s : State} (hp : pt ∉ [Part.clock, Part.regs, Part.io, Part.tim]) :
    ∃ s', execTimClear dt h s = .next s' ∧ pt.same s s' := by
  unfold execTimClear
  refine ⟨_, rfl, ?_⟩
  try dsimp only
  repeat' first
    | with_reducible assumption | intro _ | with_reducible exact Part.same_refl _ _ | with_reducible refine State.command_frame (Part.sub hp (by decide)) ?_ ?_
    | with_reducible refine State.done_frame (Part.sub hp (by decide)) ?_ | with_reducible refine State.wrBit_frame (Part.sub hp (by decide)) ?_
    | fail_if_no_progress with_reducible refine Part.same_upd ?_ ?_ | ((with_reducible refine Part.keptIntro ?_); cases pt <;> first | exact absurd (by decide) hp | exact rfl | exact ⟨rfl, rfl⟩)

theorem State.lockOut_frame {pt : Part} {base : State} {s : State} {n : Nat} (hp : pt ∉ [Part.regs, Part.tim]) (hss : pt.same base s) :
    pt.same base (State.lockOut s n) := by
  unfold State.lockOut
  try dsimp only
  repeat' first
    | with_reducible assumption | intro _ | with_reducible refine State.qualTimer_frame (Part.sub hp (by decide)) ?_
    | with_reducible refine State.setCand_frame (Part.sub hp (by decide)) ?_ | with_reducible refine State.wr_frame (Part.sub hp (by decide)) ?_
    | with_reducible apply Part.ite | fail_if_no_progress with_reducible refine Part.same_upd ?_ ?_ | ((with_reducible refine Part.keptIntro ?_); cases pt <;> first | exact absurd (by decide) hp | exact rfl | exact ⟨rfl, rfl⟩)
    | split

theorem State.lockRelease_frame {pt : Part} {base : State} {s : State} {n : Nat} (hp : pt ∉ [Part.regs, Part.io, Part.tim]) (hss : pt.same base s) :
    pt.same base (State.lockRelease s n) := by
  unfold State.lockRelease
  try dsimp only
  repeat' first
    | with_reducible assumption | intro _ | with_reducible refine State.qualify_frame (Part.sub hp (by decide)) ?_
    | with_reducible refine State.raise_frame (Part.sub hp (by decide)) ?_ | with_reducible refine State.setCand_frame (Part.sub hp (by decide)) ?_
    | with_reducible refine State.wr_frame (Part.sub hp (by decide)) ?_ | with_reducible apply Part.ite
    | split

theorem execTimLockout_frame {pt : Part} {dt : Nat} {h : HostRef} {cand on : Nat} {s : State} (hp : pt ∉ [Part.clock, Part.regs, Part.io, Part.tim]) :
    ∃ s', execTimLockout dt h cand on s = .next s' ∧ pt.same s s' := by
  unfold execTimLockout
  refine ⟨_, rfl, ?_⟩
  try dsimp only
  repeat' first
    | with_reducible assumption | intro _ | with_reducible exact Part.same_refl _ _ | with_reducible refine State.cancelForce_frame (Part.sub hp (by decide)) ?_
    | with_reducible refine State.command_frame (Part.sub hp (by decide)) ?_ ?_ | with_reducible refine State.done_frame (Part.sub hp (by decide)) ?_
    | with_reducible refine State.lockOut_frame (Part.sub hp (by decide)) ?_ | with_reducible refine State.lockRelease_frame (Part.sub hp (by decide)) ?_
    | with_reducible refine State.refuse_frame (Part.sub hp (by decide)) ?_ | with_reducible refine State.waitAddr_frame (Part.sub hp (by decide)) ?_
    | with_reducible apply Part.ite | split

theorem execTimHoldover_frame {pt : Part} {dt : Nat} {h : HostRef} {on : Nat} {s : State} (hp : pt ∉ [Part.clock, Part.io, Part.tim]) :
    ∃ s', execTimHoldover dt h on s = .next s' ∧ pt.same s s' := by
  unfold execTimHoldover
  refine ⟨_, rfl, ?_⟩
  try dsimp only
  repeat' first
    | with_reducible assumption | intro _ | with_reducible exact Part.same_refl _ _ | with_reducible refine State.command_frame (Part.sub hp (by decide)) ?_ ?_
    | with_reducible refine State.done_frame (Part.sub hp (by decide)) ?_ | with_reducible apply Part.ite
    | fail_if_no_progress with_reducible refine Part.same_upd ?_ ?_ | ((with_reducible refine Part.keptIntro ?_); cases pt <;> first | exact absurd (by decide) hp | exact rfl | exact ⟨rfl, rfl⟩)
    | split

theorem execTimSteer_frame {pt : Part} {dt : Nat} {h : HostRef} {value : Int} {s : State} (hp : pt ∉ [Part.clock, Part.regs, Part.io, Part.tim]) :
    ∃ s', execTimSteer dt h value s = .next s' ∧ pt.same s s' := by
  unfold execTimSteer
  refine ⟨_, rfl, ?_⟩
  try dsimp only
  repeat' first
    | with_reducible assumption | intro _ | with_reducible exact Part.same_refl _ _ | with_reducible refine State.command_frame (Part.sub hp (by decide)) ?_ ?_
    | with_reducible refine State.complete_frame (Part.sub hp (by decide)) ?_ | with_reducible refine State.count_frame (Part.sub hp (by decide)) ?_
    | with_reducible refine State.done_frame (Part.sub hp (by decide)) ?_ | with_reducible refine State.raiseC_frame (Part.sub hp (by decide)) ?_
    | with_reducible refine State.wrBit_frame (Part.sub hp (by decide)) ?_ | with_reducible apply Part.ite
    | split | fail_if_no_progress with_reducible refine Part.same_upd ?_ ?_ | ((with_reducible refine Part.keptIntro ?_); cases pt <;> first | exact absurd (by decide) hp | exact rfl | exact ⟨rfl, rfl⟩)

theorem execTimSetTod_frame {pt : Part} {dt : Nat} {h : HostRef} {stamp sec ns : Nat} {s : State} (hp : pt ∉ [Part.clock, Part.io, Part.tim]) :
    ∃ s', execTimSetTod dt h stamp sec ns s = .next s' ∧ pt.same s s' := by
  unfold execTimSetTod
  refine ⟨_, rfl, ?_⟩
  try dsimp only
  repeat' first
    | with_reducible assumption | intro _ | with_reducible exact Part.same_refl _ _ | with_reducible refine State.command_frame (Part.sub hp (by decide)) ?_ ?_
    | with_reducible refine State.done_frame (Part.sub hp (by decide)) ?_ | with_reducible refine State.refuse_frame (Part.sub hp (by decide)) ?_
    | with_reducible apply Part.ite | fail_if_no_progress with_reducible refine Part.same_upd ?_ ?_ | ((with_reducible refine Part.keptIntro ?_); cases pt <;> first | exact absurd (by decide) hp | exact rfl | exact ⟨rfl, rfl⟩)
    | split

theorem execTimTodCapture_frame {pt : Part} {dt : Nat} {h : HostRef} {s : State} (hp : pt ∉ [Part.clock, Part.io]) :
    ∃ s', execTimTodCapture dt h s = .next s' ∧ pt.same s s' := by
  unfold execTimTodCapture
  refine ⟨_, rfl, ?_⟩
  try dsimp only
  repeat' first
    | with_reducible assumption | intro _ | with_reducible exact Part.same_refl _ _ | with_reducible refine State.command_frame (Part.sub hp (by decide)) ?_ ?_
    | with_reducible refine State.complete_frame (Part.sub hp (by decide)) ?_ | with_reducible refine State.waitAddr_frame (Part.sub hp (by decide)) ?_

theorem State.loadFit_frame {pt : Part} {base : State} {s : State} {p : ModelCoef} (hp : pt ∉ [Part.tim]) (hss : pt.same base s) :
    pt.same base (State.loadFit s p) := by
  unfold State.loadFit
  try dsimp only
  repeat' first
    | with_reducible assumption | intro _ | with_reducible exact Part.same_refl _ _ | fail_if_no_progress with_reducible refine Part.same_upd ?_ ?_
    | ((with_reducible refine Part.keptIntro ?_); cases pt <;> first | exact absurd (by decide) hp | exact rfl | exact ⟨rfl, rfl⟩)

theorem execTimModelLoad_frame {pt : Part} {dt : Nat} {h : HostRef} {p : ModelCoef} {s : State} (hp : pt ∉ [Part.clock, Part.regs, Part.io, Part.tim]) :
    ∃ s', execTimModelLoad dt h p s = .next s' ∧ pt.same s s' := by
  unfold execTimModelLoad
  refine ⟨_, rfl, ?_⟩
  try dsimp only
  repeat' first
    | with_reducible assumption | intro _ | with_reducible exact Part.same_refl _ _ | with_reducible refine State.command_frame (Part.sub hp (by decide)) ?_ ?_
    | with_reducible refine State.done_frame (Part.sub hp (by decide)) ?_ | with_reducible refine State.loadFit_frame (Part.sub hp (by decide)) ?_
    | with_reducible refine State.raiseC_frame (Part.sub hp (by decide)) ?_ | with_reducible refine State.refuse_frame (Part.sub hp (by decide)) ?_
    | with_reducible refine State.waitAddr_frame (Part.sub hp (by decide)) ?_ | with_reducible refine State.wr_frame (Part.sub hp (by decide)) ?_
    | with_reducible refine State.wrInt_frame (Part.sub hp (by decide)) ?_ | with_reducible apply Part.ite
    | split

theorem execTimWtrClear_frame {pt : Part} {dt : Nat} {h : HostRef} {cand : Nat} {s : State} (hp : pt ∉ [Part.clock, Part.regs, Part.io, Part.tim]) :
    ∃ s', execTimWtrClear dt h cand s = .next s' ∧ pt.same s s' := by
  unfold execTimWtrClear
  refine ⟨_, rfl, ?_⟩
  try dsimp only
  repeat' first
    | with_reducible assumption | intro _ | with_reducible exact Part.same_refl _ _ | with_reducible refine State.command_frame (Part.sub hp (by decide)) ?_ ?_
    | with_reducible refine State.done_frame (Part.sub hp (by decide)) ?_ | with_reducible refine State.raiseC_frame (Part.sub hp (by decide)) ?_
    | with_reducible refine State.refuse_frame (Part.sub hp (by decide)) ?_ | with_reducible refine State.setCand_frame (Part.sub hp (by decide)) ?_
    | with_reducible refine State.waitAddr_frame (Part.sub hp (by decide)) ?_ | with_reducible refine State.wr_frame (Part.sub hp (by decide)) ?_
    | with_reducible apply Part.ite | split

theorem execRefInputNoEdge_frame {pt : Part} {dt cand : Nat} {s : State} (hp : pt ∉ [Part.clock, Part.regs, Part.io, Part.tim]) :
    ∃ s', execRefInputNoEdge dt cand s = .next s' ∧ pt.same s s' := by
  unfold execRefInputNoEdge
  refine ⟨_, rfl, ?_⟩
  try dsimp only
  repeat' first
    | with_reducible assumption | with_reducible exact Part.same_refl _ _ | intro _ | with_reducible refine State.elapse_frame (Part.sub hp (by decide)) ?_
    | with_reducible refine State.timReview_frame (Part.sub hp (by decide)) ?_ | with_reducible apply Part.ite
    | fail_if_no_progress with_reducible refine Part.same_upd ?_ ?_ | ((with_reducible refine Part.keptIntro ?_); cases pt <;> first | exact absurd (by decide) hp | exact rfl | exact ⟨rfl, rfl⟩)
    | split

theorem execEsmcPduTimeout_frame {pt : Part} {dt lane : Nat} {s : State} (hp : pt ∉ [Part.clock, Part.regs, Part.io, Part.tim]) :
    ∃ s', execEsmcPduTimeout dt lane s = .next s' ∧ pt.same s s' := by
  unfold execEsmcPduTimeout
  refine ⟨_, rfl, ?_⟩
  try dsimp only
  repeat' first
    | with_reducible assumption | with_reducible exact Part.same_refl _ _ | intro _ | with_reducible refine State.acceptLaneQl_frame (Part.sub hp (by decide)) ?_
    | with_reducible refine State.elapse_frame (Part.sub hp (by decide)) ?_ | with_reducible apply Part.ite
    | split

end Sys2Proof.Machine
end

