-- ==== Sys2Proof/Laws/FramesPerfMon.lean ====
section
/-! SUPPORT. Which parts of the state the operations of Machine/PerfMon.lean may change. -/

set_option Elab.async false

namespace Sys2Proof.Machine

theorem State.setPoint_frame {pt : Part} {base : State} {s : State} {p : Nat} {x : PmPoint} (hp : pt ∉ [Part.pm]) (hss : pt.same base s) :
    pt.same base (State.setPoint s p x) := by
  unfold State.setPoint
  try dsimp only
  repeat' first
    | with_reducible assumption | intro _ | fail_if_no_progress with_reducible refine Part.same_upd ?_ ?_
    | ((with_reducible refine Part.keptIntro ?_); cases pt <;> first | exact absurd (by decide) hp | exact rfl | exact ⟨rfl, rfl⟩)

theorem State.pmBlocks_frame {pt : Part} {base : State} {s : State} {p ne fe : Nat} (hp : pt ∉ [Part.pm]) (hss : pt.same base s) :
    pt.same base (State.pmBlocks s p ne fe) := by
  unfold State.pmBlocks
  try dsimp only
  repeat' first
    | with_reducible assumption | intro _ | with_reducible refine State.setPoint_frame (Part.sub hp (by decide)) ?_
    | with_reducible apply Part.ite | split

theorem State.pmDefect_frame {pt : Part} {base : State} {s : State} {p : Nat} {ne fe : Bool} (hp : pt ∉ [Part.pm]) (hss : pt.same base s) :
    pt.same base (State.pmDefect s p ne fe) := by
  unfold State.pmDefect
  try dsimp only
  repeat' first
    | with_reducible assumption | intro _ | with_reducible refine State.setPoint_frame (Part.sub hp (by decide)) ?_
    | with_reducible apply Part.ite | split

theorem State.judgeTca_frame {pt : Part} {base : State} {s : State} {p typ : Nat} {old new : PmBin} {thr : List Nat} (hp : pt ∉ [Part.regs, Part.io]) (hss : pt.same base s) :
    pt.same base (State.judgeTca s p typ old new thr).1 := by
  unfold State.judgeTca
  try dsimp only
  repeat' first
    | with_reducible assumption | intro _ | with_reducible exact Part.same_refl _ _ | with_reducible refine State.count_frame (Part.sub hp (by decide)) ?_
    | with_reducible refine State.raise_frame (Part.sub hp (by decide)) ?_ | with_reducible apply Part.ite
    | with_reducible apply Part.foldl | with_reducible apply Part.foldlFst | with_reducible apply Part.iteFst
    | split

theorem State.judgeTca_frameAs {pt : Part} {base : State} {s : State} {p typ : Nat} {old new : PmBin} {thr : List Nat} (hp : pt ∉ [Part.regs, Part.io]) (hss : pt.same base s) {t : State} {y : PmBin}
    (h : State.judgeTca s p typ old new thr = (t, y)) : pt.same base t := by
  have k : pt.same base (State.judgeTca s p typ old new thr).1 := State.judgeTca_frame hp hss
  rw [h] at k
  exact k

theorem State.commitSec_frame {pt : Part} {base : State} {s : State} {p : Nat} {x : PmPoint} {sec : PmSec} (hp : pt ∉ [Part.regs, Part.io]) (hss : pt.same base s) :
    pt.same base (State.commitSec s p x sec).1 := by
  unfold State.commitSec
  try dsimp only
  repeat' first
    | with_reducible assumption | intro _ | with_reducible refine State.judgeTca_frameAs (Part.sub hp (by decide)) ?_ (by with_reducible assumption)
    | with_reducible refine State.judgeTca_frame (Part.sub hp (by decide)) ?_ | with_reducible apply Part.ite
    | with_reducible apply Part.iteFst | split

theorem State.commitSec_frameAs {pt : Part} {base : State} {s : State} {p : Nat} {x : PmPoint} {sec : PmSec} (hp : pt ∉ [Part.regs, Part.io]) (hss : pt.same base s) {t : State} {y : PmPoint}
    (h : State.commitSec s p x sec = (t, y)) : pt.same base t := by
  have k : pt.same base (State.commitSec s p x sec).1 := State.commitSec_frame hp hss
  rw [h] at k
  exact k

theorem State.exportBin_frame {pt : Part} {base : State} {s : State} {p typ : Nat} {b : PmBin} {on : Bool} (hp : pt ∉ [Part.regs, Part.io, Part.qmg, Part.pm]) (hss : pt.same base s) :
    pt.same base (State.exportBin s p typ b on).1 := by
  unfold State.exportBin
  try dsimp only
  repeat' first
    | with_reducible assumption | intro _ | with_reducible refine State.count_frame (Part.sub hp (by decide)) ?_
    | with_reducible refine State.pushRecord_frame (Part.sub hp (by decide)) ?_ | with_reducible apply Part.ite
    | with_reducible apply Part.iteFst | split | fail_if_no_progress with_reducible refine Part.same_upd ?_ ?_
    | ((with_reducible refine Part.keptIntro ?_); cases pt <;> first | exact absurd (by decide) hp | exact rfl | exact ⟨rfl, rfl⟩)

theorem State.exportBin_frameAs {pt : Part} {base : State} {s : State} {p typ : Nat} {b : PmBin} {on : Bool} (hp : pt ∉ [Part.regs, Part.io, Part.qmg, Part.pm]) (hss : pt.same base s) {t : State} {y : Bool}
    (h : State.exportBin s p typ b on = (t, y)) : pt.same base t := by
  have k : pt.same base (State.exportBin s p typ b on).1 := State.exportBin_frame hp hss
  rw [h] at k
  exact k

theorem State.tellDrops_frame {pt : Part} {base : State} {s : State} {typ : Nat} (hp : pt ∉ [Part.io, Part.pm]) (hss : pt.same base s) :
    pt.same base (State.tellDrops s typ) := by
  unfold State.tellDrops
  try dsimp only
  repeat' first
    | with_reducible assumption | intro _ | with_reducible refine State.raise_frame (Part.sub hp (by decide)) ?_
    | with_reducible apply Part.ite | with_reducible apply Part.iteFst | fail_if_no_progress with_reducible refine Part.same_upd ?_ ?_
    | ((with_reducible refine Part.keptIntro ?_); cases pt <;> first | exact absurd (by decide) hp | exact rfl | exact ⟨rfl, rfl⟩)
    | split

theorem State.finalise_frame {pt : Part} {base : State} {s : State} {p typ : Nat} {x : PmPoint} {b0 : PmBin} (hp : pt ∉ [Part.regs, Part.io, Part.qmg, Part.pm]) (hss : pt.same base s) :
    pt.same base (State.finalise s p typ x b0).1 := by
  unfold State.finalise
  try dsimp only
  repeat' first
    | with_reducible assumption | intro _ | with_reducible refine State.exportBin_frameAs (Part.sub hp (by decide)) ?_ (by with_reducible assumption)
    | with_reducible refine State.exportBin_frame (Part.sub hp (by decide)) ?_ | with_reducible apply Part.ite
    | with_reducible apply Part.iteFst | split

theorem State.finalise_frameAs {pt : Part} {base : State} {s : State} {p typ : Nat} {x : PmPoint} {b0 : PmBin} (hp : pt ∉ [Part.regs, Part.io, Part.qmg, Part.pm]) (hss : pt.same base s) {t : State} {y : PmPoint}
    (h : State.finalise s p typ x b0 = (t, y)) : pt.same base t := by
  have k : pt.same base (State.finalise s p typ x b0).1 := State.finalise_frame hp hss
  rw [h] at k
  exact k

theorem State.finaliseOld_frame {pt : Part} {base : State} {s : State} {p : Nat} {x : PmPoint} (hp : pt ∉ [Part.regs, Part.io, Part.qmg, Part.pm]) (hss : pt.same base s) :
    pt.same base (State.finaliseOld s p x).1 := by
  unfold State.finaliseOld
  try dsimp only
  repeat' first
    | with_reducible assumption | intro _ | with_reducible exact Part.same_refl _ _ | with_reducible refine State.finalise_frameAs (Part.sub hp (by decide)) ?_ (by with_reducible assumption)
    | with_reducible refine State.finalise_frame (Part.sub hp (by decide)) ?_ | with_reducible apply Part.ite
    | with_reducible apply Part.iteFst | split | fail_if_no_progress with_reducible refine Part.same_upd ?_ ?_
    | ((with_reducible refine Part.keptIntro ?_); cases pt <;> first | exact absurd (by decide) hp | exact rfl | exact ⟨rfl, rfl⟩)

theorem State.finaliseOld_frameAs {pt : Part} {base : State} {s : State} {p : Nat} {x : PmPoint} (hp : pt ∉ [Part.regs, Part.io, Part.qmg, Part.pm]) (hss : pt.same base s) {t : State} {y : PmPoint}
    (h : State.finaliseOld s p x = (t, y)) : pt.same base t := by
  have k : pt.same base (State.finaliseOld s p x).1 := State.finaliseOld_frame hp hss
  rw [h] at k
  exact k

theorem State.commitAll_frame {pt : Part} {base : State} {s : State} {p : Nat} {x : PmPoint} (hp : pt ∉ [Part.regs, Part.io]) (hss : pt.same base s) :
    pt.same base (State.commitAll s p x).1 := by
  unfold State.commitAll
  try dsimp only
  repeat' first
    | with_reducible assumption | intro _ | with_reducible exact Part.same_refl _ _ | with_reducible refine State.commitSec_frameAs (Part.sub hp (by decide)) ?_ (by with_reducible assumption)
    | with_reducible refine State.commitSec_frame (Part.sub hp (by decide)) ?_ | with_reducible apply Part.foldl
    | with_reducible apply Part.foldlFst | with_reducible apply Part.iteFst

theorem State.commitAll_frameAs {pt : Part} {base : State} {s : State} {p : Nat} {x : PmPoint} (hp : pt ∉ [Part.regs, Part.io]) (hss : pt.same base s) {t : State} {y : PmPoint}
    (h : State.commitAll s p x = (t, y)) : pt.same base t := by
  have k : pt.same base (State.commitAll s p x).1 := State.commitAll_frame hp hss
  rw [h] at k
  exact k

theorem State.closeNow_frame {pt : Part} {base : State} {s : State} {p : Nat} {x : PmPoint} {bit : Nat} (hp : pt ∉ [Part.regs, Part.io, Part.qmg, Part.pm]) (hss : pt.same base s) :
    pt.same base (State.closeNow s p x bit).1 := by
  unfold State.closeNow
  try dsimp only
  repeat' first
    | with_reducible assumption | intro _ | with_reducible refine State.commitAll_frameAs (Part.sub hp (by decide)) ?_ (by with_reducible assumption)
    | with_reducible refine State.commitAll_frame (Part.sub hp (by decide)) ?_ | with_reducible refine State.finalise_frameAs (Part.sub hp (by decide)) ?_ (by with_reducible assumption)
    | with_reducible refine State.finalise_frame (Part.sub hp (by decide)) ?_ | with_reducible refine State.finaliseOld_frameAs (Part.sub hp (by decide)) ?_ (by with_reducible assumption)
    | with_reducible refine State.finaliseOld_frame (Part.sub hp (by decide)) ?_ | with_reducible refine State.tellDrops_frame (Part.sub hp (by decide)) ?_
    | with_reducible apply Part.iteFst

theorem State.closeNow_frameAs {pt : Part} {base : State} {s : State} {p : Nat} {x : PmPoint} {bit : Nat} (hp : pt ∉ [Part.regs, Part.io, Part.qmg, Part.pm]) (hss : pt.same base s) {t : State} {y : PmPoint}
    (h : State.closeNow s p x bit = (t, y)) : pt.same base t := by
  have k : pt.same base (State.closeNow s p x bit).1 := State.closeNow_frame hp hss
  rw [h] at k
  exact k

theorem State.startPoint_frame {pt : Part} {base : State} {s : State} {p : Nat} {x : PmPoint} {c : PmCfg} (hp : pt ∉ [Part.pm]) (hss : pt.same base s) :
    pt.same base (State.startPoint s p x c) := by
  unfold State.startPoint
  try dsimp only
  repeat' first
    | with_reducible assumption | intro _ | with_reducible refine State.setPoint_frame (Part.sub hp (by decide)) ?_

theorem State.stopPoint_frame {pt : Part} {base : State} {s : State} {p : Nat} (hp : pt ∉ [Part.regs, Part.io, Part.qmg, Part.pm]) (hss : pt.same base s) :
    pt.same base (State.stopPoint s p) := by
  unfold State.stopPoint
  try dsimp only
  repeat' first
    | with_reducible assumption | intro _ | with_reducible refine State.closeNow_frameAs (Part.sub hp (by decide)) ?_ (by with_reducible assumption)
    | with_reducible refine State.closeNow_frame (Part.sub hp (by decide)) ?_ | with_reducible refine State.setPoint_frame (Part.sub hp (by decide)) ?_
    | with_reducible apply Part.ite | with_reducible apply Part.iteFst | split

theorem State.pmPlace_frame {pt : Part} {base : State} {s : State} {c : Nat} (hp : pt ∉ [Part.pm]) (hss : pt.same base s) :
    pt.same base (State.pmPlace s c) := by
  unfold State.pmPlace
  try dsimp only
  repeat' first
    | with_reducible assumption | intro _ | with_reducible refine State.setPoint_frame (Part.sub hp (by decide)) ?_
    | with_reducible refine State.startPoint_frame (Part.sub hp (by decide)) ?_ | with_reducible apply Part.ite
    | split

theorem State.applyPointCfg_frame {pt : Part} {base : State} {s : State} {p : Nat} (hp : pt ∉ [Part.regs, Part.io, Part.qmg, Part.pm]) (hss : pt.same base s) :
    pt.same base (State.applyPointCfg s p) := by
  unfold State.applyPointCfg
  try dsimp only
  repeat' first
    | with_reducible assumption | intro _ | with_reducible refine State.setPoint_frame (Part.sub hp (by decide)) ?_
    | with_reducible refine State.startPoint_frame (Part.sub hp (by decide)) ?_ | with_reducible refine State.stopPoint_frame (Part.sub hp (by decide)) ?_
    | with_reducible apply Part.ite | split

theorem State.boundaryPoint_frame {pt : Part} {base : State} {s : State} {p : Nat} (hp : pt ∉ [Part.regs, Part.io, Part.pm]) (hss : pt.same base s) :
    pt.same base (State.boundaryPoint s p) := by
  unfold State.boundaryPoint
  try dsimp only
  repeat' first
    | with_reducible assumption | intro _ | with_reducible exact Part.same_refl _ _ | with_reducible refine State.count_frame (Part.sub hp (by decide)) ?_
    | with_reducible refine State.raiseOnce_frame (Part.sub hp (by decide)) ?_ | with_reducible refine State.setPoint_frame (Part.sub hp (by decide)) ?_
    | with_reducible apply Part.ite | split

theorem execPmSecondBoundary_frame {pt : Part} {dt : Nat} {s : State} (hp : pt ∉ [Part.clock, Part.regs, Part.io, Part.qmg, Part.pm]) :
    ∃ s', execPmSecondBoundary dt s = .next s' ∧ pt.same s s' := by
  unfold execPmSecondBoundary
  refine ⟨_, rfl, ?_⟩
  try dsimp only
  repeat' first
    | with_reducible assumption | intro _ | with_reducible exact Part.same_refl _ _ | with_reducible refine State.applyPointCfg_frame (Part.sub hp (by decide)) ?_
    | with_reducible refine State.boundaryPoint_frame (Part.sub hp (by decide)) ?_ | with_reducible refine State.toBoundary_frame (Part.sub hp (by decide)) ?_
    | with_reducible apply Part.ite | with_reducible apply Part.foldl | with_reducible apply Part.foldlFst
    | with_reducible apply Part.iteFst | fail_if_no_progress with_reducible refine Part.same_upd ?_ ?_
    | ((with_reducible refine Part.keptIntro ?_); cases pt <;> first | exact absurd (by decide) hp | exact rfl | exact ⟨rfl, rfl⟩)
    | split

theorem State.readSecond_frame {pt : Part} {base : State} {s : State} {p : Nat} (hp : pt ∉ [Part.regs, Part.io, Part.qmg, Part.pm]) (hss : pt.same base s) :
    pt.same base (State.readSecond s p) := by
  unfold State.readSecond
  try dsimp only
  repeat' first
    | with_reducible assumption | intro _ | with_reducible refine State.commitSec_frameAs (Part.sub hp (by decide)) ?_ (by with_reducible assumption)
    | with_reducible refine State.commitSec_frame (Part.sub hp (by decide)) ?_ | with_reducible refine State.finaliseOld_frameAs (Part.sub hp (by decide)) ?_ (by with_reducible assumption)
    | with_reducible refine State.finaliseOld_frame (Part.sub hp (by decide)) ?_ | with_reducible refine State.raiseIf_frame (Part.sub hp (by decide)) ?_
    | with_reducible refine State.setPoint_frame (Part.sub hp (by decide)) ?_ | with_reducible apply Part.ite
    | with_reducible apply Part.iteFst | split | fail_if_no_progress with_reducible refine Part.same_upd ?_ ?_
    | ((with_reducible refine Part.keptIntro ?_); cases pt <;> first | exact absurd (by decide) hp | exact rfl | exact ⟨rfl, rfl⟩)

theorem State.reportClosed_frame {pt : Part} {base : State} {s : State} (hp : pt ∉ [Part.io, Part.pm]) (hss : pt.same base s) :
    pt.same base (State.reportClosed s) := by
  unfold State.reportClosed
  try dsimp only
  repeat' first
    | with_reducible assumption | intro _ | with_reducible exact Part.same_refl _ _ | with_reducible refine State.raise_frame (Part.sub hp (by decide)) ?_
    | with_reducible refine State.tellDrops_frame (Part.sub hp (by decide)) ?_ | with_reducible apply Part.ite
    | split | fail_if_no_progress with_reducible refine Part.same_upd ?_ ?_ | ((with_reducible refine Part.keptIntro ?_); cases pt <;> first | exact absurd (by decide) hp | exact rfl | exact ⟨rfl, rfl⟩)

theorem execPmSecondRead_frame {pt : Part} {dt hewer : Nat} {s : State} (hp : pt ∉ [Part.clock, Part.regs, Part.io, Part.qmg, Part.pm]) :
    ∃ s', execPmSecondRead dt hewer s = .next s' ∧ pt.same s s' := by
  unfold execPmSecondRead
  refine ⟨_, rfl, ?_⟩
  try dsimp only
  repeat' first
    | with_reducible assumption | intro _ | with_reducible exact Part.same_refl _ _ | with_reducible refine State.elapse_frame (Part.sub hp (by decide)) ?_
    | with_reducible refine State.readSecond_frame (Part.sub hp (by decide)) ?_ | with_reducible refine State.reportClosed_frame (Part.sub hp (by decide)) ?_
    | with_reducible apply Part.ite | with_reducible apply Part.foldl | with_reducible apply Part.foldlFst
    | with_reducible apply Part.iteFst | split

theorem State.closeBin_frame {pt : Part} {base : State} {s : State} {p typ : Nat} {sec : Nat} (hp : pt ∉ [Part.regs, Part.io, Part.qmg, Part.pm]) (hss : pt.same base s) :
    pt.same base (State.closeBin s p typ sec) := by
  unfold State.closeBin
  try dsimp only
  repeat' first
    | with_reducible assumption | intro _ | with_reducible refine State.finalise_frameAs (Part.sub hp (by decide)) ?_ (by with_reducible assumption)
    | with_reducible refine State.finalise_frame (Part.sub hp (by decide)) ?_ | with_reducible refine State.setPoint_frame (Part.sub hp (by decide)) ?_
    | with_reducible apply Part.ite | with_reducible apply Part.iteFst | split

theorem execPmBinClosure_frame {pt : Part} {dt hewer : Nat} {s : State} (hp : pt ∉ [Part.clock, Part.regs, Part.io, Part.qmg, Part.pm]) :
    ∃ s', execPmBinClosure dt hewer s = .next s' ∧ pt.same s s' := by
  unfold execPmBinClosure
  refine ⟨_, rfl, ?_⟩
  try dsimp only
  repeat' first
    | with_reducible assumption | intro _ | with_reducible exact Part.same_refl _ _ | with_reducible refine State.atEntry_frame (Part.sub hp (by decide)) ?_
    | with_reducible refine State.closeBin_frame (Part.sub hp (by decide)) ?_ | with_reducible apply Part.ite
    | with_reducible apply Part.foldl | with_reducible apply Part.foldlFst | with_reducible apply Part.iteFst
    | split | fail_if_no_progress with_reducible refine Part.same_upd ?_ ?_ | ((with_reducible refine Part.keptIntro ?_); cases pt <;> first | exact absurd (by decide) hp | exact rfl | exact ⟨rfl, rfl⟩)

theorem State.pmEnChanged_frame {pt : Part} {base : State} {s : State} (hp : pt ∉ [Part.pm]) (hss : pt.same base s) :
    pt.same base (State.pmEnChanged s) := by
  unfold State.pmEnChanged
  try dsimp only
  repeat' first
    | with_reducible assumption | intro _ | with_reducible exact Part.same_refl _ _ | with_reducible apply Part.ite
    | with_reducible apply Part.iteFst | fail_if_no_progress with_reducible refine Part.same_upd ?_ ?_
    | ((with_reducible refine Part.keptIntro ?_); cases pt <;> first | exact absurd (by decide) hp | exact rfl | exact ⟨rfl, rfl⟩)
    | split

theorem State.pmFreeze_frame {pt : Part} {base : State} {s : State} (hp : pt ∉ [Part.regs, Part.io, Part.qmg, Part.pm]) (hss : pt.same base s) :
    pt.same base (State.pmFreeze s) := by
  unfold State.pmFreeze
  try dsimp only
  repeat' first
    | with_reducible assumption | intro _ | with_reducible exact Part.same_refl _ _ | with_reducible refine State.closeNow_frameAs (Part.sub hp (by decide)) ?_ (by with_reducible assumption)
    | with_reducible refine State.closeNow_frame (Part.sub hp (by decide)) ?_ | with_reducible refine State.setPoint_frame (Part.sub hp (by decide)) ?_
    | with_reducible apply Part.foldl | with_reducible apply Part.foldlFst | with_reducible apply Part.iteFst
    | fail_if_no_progress with_reducible refine Part.same_upd ?_ ?_ | ((with_reducible refine Part.keptIntro ?_); cases pt <;> first | exact absurd (by decide) hp | exact rfl | exact ⟨rfl, rfl⟩)

theorem execPmnPointCfg_frame {pt : Part} {dt : Nat} {h : HostRef} {p : PointCfg} {s : State} (hp : pt ∉ [Part.clock, Part.io, Part.pm]) :
    ∃ s', execPmnPointCfg dt h p s = .next s' ∧ pt.same s s' := by
  unfold execPmnPointCfg
  refine ⟨_, rfl, ?_⟩
  try dsimp only
  repeat' first
    | with_reducible assumption | intro _ | with_reducible exact Part.same_refl _ _ | with_reducible refine State.command_frame (Part.sub hp (by decide)) ?_ ?_
    | with_reducible refine State.done_frame (Part.sub hp (by decide)) ?_ | with_reducible refine State.refuse_frame (Part.sub hp (by decide)) ?_
    | with_reducible refine State.setPoint_frame (Part.sub hp (by decide)) ?_ | with_reducible apply Part.ite
    | split

theorem execPmnProfileSet_frame {pt : Part} {dt : Nat} {h : HostRef} {p : ProfileSet} {s : State} (hp : pt ∉ [Part.clock, Part.io, Part.pm]) :
    ∃ s', execPmnProfileSet dt h p s = .next s' ∧ pt.same s s' := by
  unfold execPmnProfileSet
  refine ⟨_, rfl, ?_⟩
  try dsimp only
  repeat' first
    | with_reducible assumption | intro _ | with_reducible exact Part.same_refl _ _ | with_reducible refine State.command_frame (Part.sub hp (by decide)) ?_ ?_
    | with_reducible refine State.done_frame (Part.sub hp (by decide)) ?_ | with_reducible refine State.refuse_frame (Part.sub hp (by decide)) ?_
    | with_reducible apply Part.ite | fail_if_no_progress with_reducible refine Part.same_upd ?_ ?_ | ((with_reducible refine Part.keptIntro ?_); cases pt <;> first | exact absurd (by decide) hp | exact rfl | exact ⟨rfl, rfl⟩)
    | split

theorem State.histError_frame {pt : Part} {base : State} {s : State} {p typ i : Nat} (hp : pt ∉ [Part.regs, Part.io]) (hss : pt.same base s) :
    pt.same base (State.histError s p typ i) := by
  unfold State.histError
  try dsimp only
  repeat' first
    | with_reducible assumption | intro _ | with_reducible refine State.count_frame (Part.sub hp (by decide)) ?_
    | with_reducible refine State.raise_frame (Part.sub hp (by decide)) ?_ | with_reducible apply Part.ite
    | split

theorem execPmnHistRead_frame {pt : Part} {dt : Nat} {h : HostRef} {p : HistRead} {s : State} (hp : pt ∉ [Part.clock, Part.regs, Part.io]) :
    ∃ s', execPmnHistRead dt h p s = .next s' ∧ pt.same s s' := by
  unfold execPmnHistRead
  refine ⟨_, rfl, ?_⟩
  try dsimp only
  repeat' first
    | with_reducible assumption | intro _ | with_reducible exact Part.same_refl _ _ | with_reducible refine State.command_frame (Part.sub hp (by decide)) ?_ ?_
    | with_reducible refine State.count_frame (Part.sub hp (by decide)) ?_ | with_reducible refine State.done_frame (Part.sub hp (by decide)) ?_
    | with_reducible refine State.histError_frame (Part.sub hp (by decide)) ?_ | with_reducible refine State.hostWrite_frame (Part.sub hp (by decide)) ?_
    | with_reducible refine State.refuse_frame (Part.sub hp (by decide)) ?_ | with_reducible apply Part.ite
    | with_reducible apply Part.foldl | with_reducible apply Part.foldlFst | with_reducible apply Part.iteFst
    | split

theorem execPmnPointClear_frame {pt : Part} {dt : Nat} {h : HostRef} {point : Nat} {c15 c24 : Bool} {s : State} (hp : pt ∉ [Part.clock, Part.io, Part.pm]) :
    ∃ s', execPmnPointClear dt h point c15 c24 s = .next s' ∧ pt.same s s' := by
  unfold execPmnPointClear
  refine ⟨_, rfl, ?_⟩
  try dsimp only
  repeat' first
    | with_reducible assumption | intro _ | with_reducible exact Part.same_refl _ _ | with_reducible refine State.command_frame (Part.sub hp (by decide)) ?_ ?_
    | with_reducible refine State.done_frame (Part.sub hp (by decide)) ?_ | with_reducible refine State.refuse_frame (Part.sub hp (by decide)) ?_
    | with_reducible refine State.setPoint_frame (Part.sub hp (by decide)) ?_ | with_reducible apply Part.ite
    | split

theorem execPmnSecRead_frame {pt : Part} {dt : Nat} {h : HostRef} {point host : Nat} {s : State} (hp : pt ∉ [Part.clock, Part.io]) :
    ∃ s', execPmnSecRead dt h point host s = .next s' ∧ pt.same s s' := by
  unfold execPmnSecRead
  refine ⟨_, rfl, ?_⟩
  try dsimp only
  repeat' first
    | with_reducible assumption | intro _ | with_reducible exact Part.same_refl _ _ | with_reducible refine State.command_frame (Part.sub hp (by decide)) ?_ ?_
    | with_reducible refine State.done_frame (Part.sub hp (by decide)) ?_ | with_reducible refine State.hostWrite_frame (Part.sub hp (by decide)) ?_
    | with_reducible refine State.refuse_frame (Part.sub hp (by decide)) ?_ | with_reducible refine State.waitAddr_frame (Part.sub hp (by decide)) ?_
    | with_reducible apply Part.ite | split

end Sys2Proof.Machine
end

