-- ==== Sys2Proof/Laws/FramesFilters.lean ====
section
/-! SUPPORT. Which parts of the state the operations of Machine/Filters.lean may change. -/

set_option Elab.async false

namespace Sys2Proof.Machine

theorem State.setChan_frame {pt : Part} {base : State} {s : State} {n : Nat} {c : FltChan} (hp : pt ∉ [Part.flt]) (hss : pt.same base s) :
    pt.same base (State.setChan s n c) := by
  unfold State.setChan
  try dsimp only
  repeat' first
    | with_reducible assumption | intro _ | fail_if_no_progress with_reducible refine Part.same_upd ?_ ?_
    | ((with_reducible refine Part.keptIntro ?_); cases pt <;> first | exact absurd (by decide) hp | exact rfl | exact ⟨rfl, rfl⟩)

theorem State.setFeed_frame {pt : Part} {base : State} {s : State} {k : Nat} {f : FeedSt} (hp : pt ∉ [Part.feeds]) (hss : pt.same base s) :
    pt.same base (State.setFeed s k f) := by
  unfold State.setFeed
  try dsimp only
  repeat' first
    | with_reducible assumption | intro _ | fail_if_no_progress with_reducible refine Part.same_upd ?_ ?_
    | ((with_reducible refine Part.keptIntro ?_); cases pt <;> first | exact absurd (by decide) hp | exact rfl | exact ⟨rfl, rfl⟩)

theorem State.feedLow_frame {pt : Part} {base : State} {s : State} {k : Nat} {stamp v : Int} (hp : pt ∉ [Part.regs, Part.io, Part.feeds]) (hss : pt.same base s) :
    pt.same base (State.feedLow s k stamp v) := by
  unfold State.feedLow
  try dsimp only
  repeat' first
    | with_reducible assumption | intro _ | with_reducible refine State.raiseIf_frame (Part.sub hp (by decide)) ?_
    | with_reducible refine State.setFeed_frame (Part.sub hp (by decide)) ?_ | with_reducible refine State.wrBit_frame (Part.sub hp (by decide)) ?_
    | with_reducible apply Part.ite | split

theorem State.feedPair_frame {pt : Part} {base : State} {s : State} {k : Nat} (hp : pt ∉ [Part.freeCtr, Part.regs, Part.io, Part.feeds]) (hss : pt.same base s) :
    pt.same base (State.feedPair s k) := by
  unfold State.feedPair
  try dsimp only
  repeat' first
    | with_reducible assumption | intro _ | with_reducible refine State.draw_frame (Part.sub hp (by decide)) ?_
    | with_reducible refine State.raise_frame (Part.sub hp (by decide)) ?_ | with_reducible refine State.setFeed_frame (Part.sub hp (by decide)) ?_
    | with_reducible refine State.wr_frame (Part.sub hp (by decide)) ?_ | with_reducible refine State.wrBit_frame (Part.sub hp (by decide)) ?_
    | with_reducible apply Part.ite | split

theorem State.feedWord_frame {pt : Part} {base : State} {s : State} {ch : Nat} {stamp v : Int} (hp : pt ∉ [Part.freeCtr, Part.regs, Part.io, Part.feeds]) (hss : pt.same base s) :
    pt.same base (State.feedWord s ch stamp v) := by
  unfold State.feedWord
  try dsimp only
  repeat' first
    | with_reducible assumption | intro _ | with_reducible refine State.draw_frame (Part.sub hp (by decide)) ?_
    | with_reducible refine State.feedLow_frame (Part.sub hp (by decide)) ?_ | with_reducible refine State.feedPair_frame (Part.sub hp (by decide)) ?_
    | with_reducible refine State.setFeed_frame (Part.sub hp (by decide)) ?_ | with_reducible refine State.wr_frame (Part.sub hp (by decide)) ?_
    | with_reducible apply Part.ite | split

theorem State.deliverWord_frame {pt : Part} {base : State} {s : State} {ch : Nat} {w : FltWord} (hp : pt ∉ [Part.freeCtr, Part.regs, Part.io, Part.tim, Part.flt, Part.qmg, Part.feeds]) (hss : pt.same base s) :
    pt.same base (State.deliverWord s ch w) := by
  unfold State.deliverWord
  try dsimp only
  repeat' first
    | with_reducible assumption | intro _ | with_reducible refine State.count_frame (Part.sub hp (by decide)) ?_
    | with_reducible refine State.feedWord_frame (Part.sub hp (by decide)) ?_ | with_reducible refine State.pushRecord_frame (Part.sub hp (by decide)) ?_
    | with_reducible refine State.setChan_frame (Part.sub hp (by decide)) ?_ | with_reducible apply Part.ite
    | fail_if_no_progress with_reducible refine Part.same_upd ?_ ?_ | ((with_reducible refine Part.keptIntro ?_); cases pt <;> first | exact absurd (by decide) hp | exact rfl | exact ⟨rfl, rfl⟩)
    | split

theorem State.judgeSat_frame {pt : Part} {base : State} {s : State} {ch : Nat} {sat : Option Int} (hp : pt ∉ [Part.regs, Part.io]) (hss : pt.same base s) :
    pt.same base (State.judgeSat s ch sat) := by
  unfold State.judgeSat
  try dsimp only
  repeat' first
    | with_reducible assumption | intro _ | with_reducible refine State.count_frame (Part.sub hp (by decide)) ?_
    | with_reducible refine State.raiseIf_frame (Part.sub hp (by decide)) ?_ | with_reducible refine State.wrBit_frame (Part.sub hp (by decide)) ?_
    | split

theorem State.unstick_frame {pt : Part} {base : State} {s : State} {ch : Nat} {raw : List Int} (hp : pt ∉ [Part.regs]) (hss : pt.same base s) :
    pt.same base (State.unstick s ch raw) := by
  unfold State.unstick
  try dsimp only
  repeat' first
    | with_reducible assumption | intro _ | with_reducible exact Part.same_refl _ _ | with_reducible refine State.wrBit_frame (Part.sub hp (by decide)) ?_
    | with_reducible apply Part.ite | split

theorem State.runCurrent_frame {pt : Part} {base : State} {s : State} {ch : Nat} {raw : List Int} (hp : pt ∉ [Part.freeCtr, Part.regs, Part.io, Part.tim, Part.flt, Part.qmg, Part.feeds]) (hss : pt.same base s) :
    pt.same base (State.runCurrent s ch raw) := by
  unfold State.runCurrent
  try dsimp only
  repeat' first
    | with_reducible assumption | intro _ | with_reducible refine State.countBy_frame (Part.sub hp (by decide)) ?_
    | with_reducible refine State.deliverWord_frame (Part.sub hp (by decide)) ?_ | with_reducible refine State.draw_frame (Part.sub hp (by decide)) ?_
    | with_reducible refine State.judgeSat_frame (Part.sub hp (by decide)) ?_ | with_reducible refine State.setChan_frame (Part.sub hp (by decide)) ?_
    | with_reducible refine State.wrBit_frame (Part.sub hp (by decide)) ?_ | with_reducible refine State.wrInt_frame (Part.sub hp (by decide)) ?_
    | with_reducible apply Part.ite | with_reducible apply Part.iteFst | split

theorem State.runIncoming_frame {pt : Part} {base : State} {s : State} {ch : Nat} {raw : List Int} {x : FltInst} (hp : pt ∉ [Part.freeCtr, Part.regs, Part.io, Part.tim, Part.flt, Part.qmg, Part.feeds]) (hss : pt.same base s) :
    pt.same base (State.runIncoming s ch raw x) := by
  unfold State.runIncoming
  try dsimp only
  repeat' first
    | with_reducible assumption | intro _ | with_reducible refine State.countBy_frame (Part.sub hp (by decide)) ?_
    | with_reducible refine State.deliverWord_frame (Part.sub hp (by decide)) ?_ | with_reducible refine State.draw_frame (Part.sub hp (by decide)) ?_
    | with_reducible refine State.judgeSat_frame (Part.sub hp (by decide)) ?_ | with_reducible refine State.setChan_frame (Part.sub hp (by decide)) ?_
    | with_reducible refine State.wrBit_frame (Part.sub hp (by decide)) ?_ | with_reducible refine State.wrInt_frame (Part.sub hp (by decide)) ?_
    | with_reducible apply Part.ite | with_reducible apply Part.iteFst | split

theorem execFltOutputWord_frame {pt : Part} {dt ch : Nat} {incoming : Bool} {samples : List Int} {s : State} (hp : pt ∉ [Part.clock, Part.freeCtr, Part.regs, Part.io, Part.tim, Part.flt, Part.qmg, Part.feeds]) :
    ∃ s', execFltOutputWord dt ch incoming samples s = .next s' ∧ pt.same s s' := by
  unfold execFltOutputWord
  refine ⟨_, rfl, ?_⟩
  try dsimp only
  repeat' first
    | with_reducible assumption | with_reducible exact Part.same_refl _ _ | intro _ | with_reducible refine State.elapse_frame (Part.sub hp (by decide)) ?_
    | with_reducible refine State.runCurrent_frame (Part.sub hp (by decide)) ?_ | with_reducible refine State.runIncoming_frame (Part.sub hp (by decide)) ?_
    | with_reducible refine State.toBoundary_frame (Part.sub hp (by decide)) ?_ | with_reducible refine State.unstick_frame (Part.sub hp (by decide)) ?_
    | with_reducible apply Part.ite | split

theorem execInputStuck_frame {pt : Part} {dt ch level : Nat} {s : State} (hp : pt ∉ [Part.clock, Part.regs, Part.io, Part.flt]) :
    ∃ s', execInputStuck dt ch level s = .next s' ∧ pt.same s s' := by
  unfold execInputStuck
  refine ⟨_, rfl, ?_⟩
  try dsimp only
  repeat' first
    | with_reducible assumption | with_reducible exact Part.same_refl _ _ | intro _ | with_reducible refine State.elapse_frame (Part.sub hp (by decide)) ?_
    | with_reducible refine State.raise_frame (Part.sub hp (by decide)) ?_ | with_reducible refine State.setChan_frame (Part.sub hp (by decide)) ?_
    | with_reducible refine State.wrBit_frame (Part.sub hp (by decide)) ?_ | with_reducible apply Part.ite
    | split

theorem State.setBank_frame {pt : Part} {base : State} {s : State} {ch b : Nat} {x : FltBank} (hp : pt ∉ [Part.flt]) (hss : pt.same base s) :
    pt.same base (State.setBank s ch b x) := by
  unfold State.setBank
  try dsimp only
  repeat' first
    | with_reducible assumption | intro _ | with_reducible refine State.setChan_frame (Part.sub hp (by decide)) ?_
    | with_reducible apply Part.ite | split

theorem State.checkBank_frame {pt : Part} {base : State} {s : State} {ch b : Nat} (hp : pt ∉ [Part.regs, Part.io]) (hss : pt.same base s) :
    pt.same base (State.checkBank s ch b) := by
  unfold State.checkBank
  try dsimp only
  repeat' first
    | with_reducible assumption | intro _ | with_reducible refine State.raiseC_frame (Part.sub hp (by decide)) ?_
    | with_reducible refine State.wrBit_frame (Part.sub hp (by decide)) ?_ | with_reducible apply Part.ite
    | split

theorem execXfadeStart_frame {pt : Part} {dt ch : Nat} {s : State} (hp : pt ∉ [Part.clock, Part.regs, Part.io, Part.flt]) :
    ∃ s', execXfadeStart dt ch s = .next s' ∧ pt.same s s' := by
  unfold execXfadeStart
  refine ⟨_, rfl, ?_⟩
  try dsimp only
  repeat' first
    | with_reducible assumption | intro _ | with_reducible exact Part.same_refl _ _ | with_reducible refine State.checkBank_frame (Part.sub hp (by decide)) ?_
    | with_reducible refine State.done_frame (Part.sub hp (by decide)) ?_ | with_reducible refine State.elapse_frame (Part.sub hp (by decide)) ?_
    | with_reducible refine State.setBank_frame (Part.sub hp (by decide)) ?_ | with_reducible refine State.setChan_frame (Part.sub hp (by decide)) ?_
    | with_reducible refine State.whenAddr_frame (Part.sub hp (by decide)) ?_ ?_ | with_reducible refine State.wr_frame (Part.sub hp (by decide)) ?_
    | with_reducible refine State.wrBit_frame (Part.sub hp (by decide)) ?_ | with_reducible apply Part.ite
    | with_reducible apply Part.iteFst | split

theorem State.endFade_frame {pt : Part} {base : State} {s : State} {ch : Nat} {x : FltInst} (hp : pt ∉ [Part.regs, Part.io, Part.flt]) (hss : pt.same base s) :
    pt.same base (State.endFade s ch x) := by
  unfold State.endFade
  try dsimp only
  repeat' first
    | with_reducible assumption | intro _ | with_reducible refine State.raise_frame (Part.sub hp (by decide)) ?_
    | with_reducible refine State.setChan_frame (Part.sub hp (by decide)) ?_ | with_reducible refine State.wrBit_frame (Part.sub hp (by decide)) ?_

theorem execXfadeDone_frame {pt : Part} {dt ch : Nat} {s : State} (hp : pt ∉ [Part.clock, Part.regs, Part.io, Part.flt]) :
    ∃ s', execXfadeDone dt ch s = .next s' ∧ pt.same s s' := by
  unfold execXfadeDone
  refine ⟨_, rfl, ?_⟩
  try dsimp only
  repeat' first
    | with_reducible assumption | with_reducible exact Part.same_refl _ _ | intro _ | with_reducible refine State.elapse_frame (Part.sub hp (by decide)) ?_
    | with_reducible refine State.endFade_frame (Part.sub hp (by decide)) ?_ | with_reducible apply Part.ite
    | split

theorem State.deferSwap_frame {pt : Part} {base : State} {s : State} {ch : Nat} {w : Nat × HostRef} (hp : pt ∉ [Part.regs, Part.io, Part.flt]) (hss : pt.same base s) :
    pt.same base (State.deferSwap s ch w) := by
  unfold State.deferSwap
  try dsimp only
  repeat' first
    | with_reducible assumption | intro _ | with_reducible refine State.count_frame (Part.sub hp (by decide)) ?_
    | with_reducible refine State.raiseC_frame (Part.sub hp (by decide)) ?_ | with_reducible refine State.refuse_frame (Part.sub hp (by decide)) ?_
    | with_reducible refine State.setChan_frame (Part.sub hp (by decide)) ?_ | with_reducible refine State.wr_frame (Part.sub hp (by decide)) ?_
    | with_reducible refine State.wrBit_frame (Part.sub hp (by decide)) ?_ | with_reducible apply Part.iteFst
    | split

theorem State.applySwap_frame {pt : Part} {base : State} {s : State} {ch : Nat} {w : Nat × HostRef} (hp : pt ∉ [Part.regs, Part.io, Part.flt]) (hss : pt.same base s) :
    pt.same base (State.applySwap s ch w) := by
  unfold State.applySwap
  try dsimp only
  repeat' first
    | with_reducible assumption | intro _ | with_reducible refine State.done_frame (Part.sub hp (by decide)) ?_
    | with_reducible refine State.raise_frame (Part.sub hp (by decide)) ?_ | with_reducible refine State.setChan_frame (Part.sub hp (by decide)) ?_
    | with_reducible refine State.wr_frame (Part.sub hp (by decide)) ?_ | with_reducible apply Part.iteFst

theorem State.applyDeferred_frame {pt : Part} {base : State} {s : State} {ch : Nat} (hp : pt ∉ [Part.regs, Part.io, Part.flt]) (hss : pt.same base s) :
    pt.same base (State.applyDeferred s ch) := by
  unfold State.applyDeferred
  try dsimp only
  repeat' first
    | with_reducible assumption | intro _ | with_reducible refine State.applySwap_frame (Part.sub hp (by decide)) ?_
    | with_reducible refine State.raise_frame (Part.sub hp (by decide)) ?_ | with_reducible refine State.refuse_frame (Part.sub hp (by decide)) ?_
    | with_reducible refine State.setChan_frame (Part.sub hp (by decide)) ?_ | with_reducible refine State.wrBit_frame (Part.sub hp (by decide)) ?_
    | with_reducible apply Part.ite | with_reducible apply Part.iteFst | split

theorem execSwapDone_frame {pt : Part} {dt ch : Nat} {s : State} (hp : pt ∉ [Part.clock, Part.regs, Part.io, Part.flt]) :
    ∃ s', execSwapDone dt ch s = .next s' ∧ pt.same s s' := by
  unfold execSwapDone
  refine ⟨_, rfl, ?_⟩
  try dsimp only
  repeat' first
    | with_reducible assumption | intro _ | with_reducible exact Part.same_refl _ _ | with_reducible refine State.applyDeferred_frame (Part.sub hp (by decide)) ?_
    | with_reducible refine State.applySwap_frame (Part.sub hp (by decide)) ?_ | with_reducible refine State.deferSwap_frame (Part.sub hp (by decide)) ?_
    | with_reducible refine State.elapse_frame (Part.sub hp (by decide)) ?_ | with_reducible refine State.setChan_frame (Part.sub hp (by decide)) ?_
    | with_reducible apply Part.ite | with_reducible apply Part.foldl | split

theorem State.resetChan_frame {pt : Part} {base : State} {s : State} {ch : Nat} (hp : pt ∉ [Part.regs, Part.io, Part.flt]) (hss : pt.same base s) :
    pt.same base (State.resetChan s ch) := by
  unfold State.resetChan
  try dsimp only
  repeat' first
    | with_reducible assumption | intro _ | with_reducible refine State.endFade_frame (Part.sub hp (by decide)) ?_
    | with_reducible refine State.setChan_frame (Part.sub hp (by decide)) ?_ | with_reducible refine State.wrBit_frame (Part.sub hp (by decide)) ?_
    | with_reducible refine State.wrInt_frame (Part.sub hp (by decide)) ?_ | split

theorem execFltSyncResetApply_frame {pt : Part} {dt : Nat} {s : State} (hp : pt ∉ [Part.clock, Part.regs, Part.io, Part.flt]) :
    ∃ s', execFltSyncResetApply dt s = .next s' ∧ pt.same s s' := by
  unfold execFltSyncResetApply
  refine ⟨_, rfl, ?_⟩
  try dsimp only
  repeat' first
    | with_reducible assumption | intro _ | with_reducible exact Part.same_refl _ _ | with_reducible refine State.elapse_frame (Part.sub hp (by decide)) ?_
    | with_reducible refine State.resetChan_frame (Part.sub hp (by decide)) ?_ | with_reducible refine State.whenAddr_frame (Part.sub hp (by decide)) ?_ ?_
    | with_reducible apply Part.ite | with_reducible apply Part.foldl | with_reducible apply Part.foldlFst
    | with_reducible apply Part.iteFst | split | fail_if_no_progress with_reducible refine Part.same_upd ?_ ?_
    | ((with_reducible refine Part.keptIntro ?_); cases pt <;> first | exact absurd (by decide) hp | exact rfl | exact ⟨rfl, rfl⟩)

theorem execFltConfig_frame {pt : Part} {dt : Nat} {h : HostRef} {p : FltCfg} {s : State} (hp : pt ∉ [Part.clock, Part.io, Part.flt]) :
    ∃ s', execFltConfig dt h p s = .next s' ∧ pt.same s s' := by
  unfold execFltConfig
  refine ⟨_, rfl, ?_⟩
  try dsimp only
  repeat' first
    | with_reducible assumption | intro _ | with_reducible exact Part.same_refl _ _ | with_reducible refine State.command_frame (Part.sub hp (by decide)) ?_ ?_
    | with_reducible refine State.refuse_frame (Part.sub hp (by decide)) ?_ | with_reducible refine State.setChan_frame (Part.sub hp (by decide)) ?_
    | with_reducible apply Part.ite | split

theorem execFltCoefLoad_frame {pt : Part} {dt : Nat} {h : HostRef} {ch bank first : Nat} {start : Bool} {taps : List Int} {s : State} (hp : pt ∉ [Part.clock, Part.regs, Part.io, Part.flt]) :
    ∃ s', execFltCoefLoad dt h ch bank first start taps s = .next s' ∧ pt.same s s' := by
  unfold execFltCoefLoad
  refine ⟨_, rfl, ?_⟩
  try dsimp only
  repeat' first
    | with_reducible assumption | intro _ | with_reducible exact Part.same_refl _ _ | with_reducible refine State.checkBank_frame (Part.sub hp (by decide)) ?_
    | with_reducible refine State.command_frame (Part.sub hp (by decide)) ?_ ?_ | with_reducible refine State.done_frame (Part.sub hp (by decide)) ?_
    | with_reducible refine State.refuse_frame (Part.sub hp (by decide)) ?_ | with_reducible refine State.setBank_frame (Part.sub hp (by decide)) ?_
    | with_reducible refine State.setChan_frame (Part.sub hp (by decide)) ?_ | with_reducible refine State.wrBit_frame (Part.sub hp (by decide)) ?_
    | with_reducible apply Part.ite | split

theorem execFltSwap_frame {pt : Part} {dt : Nat} {h : HostRef} {ch bank : Nat} {s : State} (hp : pt ∉ [Part.clock, Part.regs, Part.io, Part.flt]) :
    ∃ s', execFltSwap dt h ch bank s = .next s' ∧ pt.same s s' := by
  unfold execFltSwap
  refine ⟨_, rfl, ?_⟩
  try dsimp only
  repeat' first
    | with_reducible assumption | intro _ | with_reducible exact Part.same_refl _ _ | with_reducible refine State.command_frame (Part.sub hp (by decide)) ?_ ?_
    | with_reducible refine State.deferSwap_frame (Part.sub hp (by decide)) ?_ | with_reducible refine State.done_frame (Part.sub hp (by decide)) ?_
    | with_reducible refine State.refuse_frame (Part.sub hp (by decide)) ?_ | with_reducible refine State.setChan_frame (Part.sub hp (by decide)) ?_
    | with_reducible apply Part.ite | split

theorem execFltSyncReset_frame {pt : Part} {dt : Nat} {h : HostRef} {mask stamp : Nat} {s : State} (hp : pt ∉ [Part.clock, Part.io, Part.flt]) :
    ∃ s', execFltSyncReset dt h mask stamp s = .next s' ∧ pt.same s s' := by
  unfold execFltSyncReset
  refine ⟨_, rfl, ?_⟩
  try dsimp only
  repeat' first
    | with_reducible assumption | intro _ | with_reducible exact Part.same_refl _ _ | with_reducible refine State.command_frame (Part.sub hp (by decide)) ?_ ?_
    | with_reducible refine State.done_frame (Part.sub hp (by decide)) ?_ | with_reducible refine State.refuse_frame (Part.sub hp (by decide)) ?_
    | with_reducible apply Part.ite | fail_if_no_progress with_reducible refine Part.same_upd ?_ ?_ | ((with_reducible refine Part.keptIntro ?_); cases pt <;> first | exact absurd (by decide) hp | exact rfl | exact ⟨rfl, rfl⟩)
    | split

theorem State.freezeChans_frame {pt : Part} {base : State} {s : State} {mask : Nat} {feeds on : Bool} (hp : pt ∉ [Part.regs]) (hss : pt.same base s) :
    pt.same base (State.freezeChans s mask feeds on) := by
  unfold State.freezeChans
  try dsimp only
  repeat' first
    | with_reducible assumption | intro _ | with_reducible exact Part.same_refl _ _ | with_reducible refine State.wrBit_frame (Part.sub hp (by decide)) ?_
    | with_reducible apply Part.ite | with_reducible apply Part.foldl | split

theorem execFltFreeze_frame {pt : Part} {dt : Nat} {h : HostRef} {mask on : Nat} {s : State} (hp : pt ∉ [Part.clock, Part.regs, Part.io]) :
    ∃ s', execFltFreeze dt h mask on s = .next s' ∧ pt.same s s' := by
  unfold execFltFreeze
  refine ⟨_, rfl, ?_⟩
  try dsimp only
  repeat' first
    | with_reducible assumption | intro _ | with_reducible exact Part.same_refl _ _ | with_reducible refine State.command_frame (Part.sub hp (by decide)) ?_ ?_
    | with_reducible refine State.done_frame (Part.sub hp (by decide)) ?_ | with_reducible refine State.freezeChans_frame (Part.sub hp (by decide)) ?_
    | with_reducible refine State.refuse_frame (Part.sub hp (by decide)) ?_ | with_reducible refine State.waitAddr_frame (Part.sub hp (by decide)) ?_
    | with_reducible apply Part.ite | split

end Sys2Proof.Machine
end

