-- ==== Sys2Proof/Laws/FramesFraming.lean ====
section
/-! SUPPORT. Which parts of the state the operations of Machine/Framing.lean may change. -/

set_option Elab.async false

namespace Sys2Proof.Machine

theorem State.setFramer_frame {pt : Part} {base : State} {s : State} {k : Nat} {u : FrmUnit} (hp : pt ∉ [Part.frm]) (hss : pt.same base s) :
    pt.same base (State.setFramer s k u) := by
  unfold State.setFramer
  try dsimp only
  repeat' first
    | with_reducible assumption | intro _ | fail_if_no_progress with_reducible refine Part.same_upd ?_ ?_
    | ((with_reducible refine Part.keptIntro ?_); cases pt <;> first | exact absurd (by decide) hp | exact rfl | exact ⟨rfl, rfl⟩)

theorem State.laneRegs_frame {pt : Part} {base : State} {s : State} {l : Nat} (hp : pt ∉ [Part.regs]) (hss : pt.same base s) :
    pt.same base (State.laneRegs s l) := by
  unfold State.laneRegs
  try dsimp only
  repeat' first
    | with_reducible assumption | intro _ | with_reducible refine State.wr_frame (Part.sub hp (by decide)) ?_
    | with_reducible refine State.wrBit_frame (Part.sub hp (by decide)) ?_ | with_reducible apply Part.ite
    | split

theorem State.reportDefect_frame {pt : Part} {base : State} {s : State} {k c : Nat} {on : Bool} (hp : pt ∉ [Part.io]) (hss : pt.same base s) :
    pt.same base (State.reportDefect s k c on) := by
  unfold State.reportDefect
  try dsimp only
  repeat' first
    | with_reducible assumption | intro _ | with_reducible refine State.raiseLim_frame (Part.sub hp (by decide)) ?_

theorem State.settleOne_frame {pt : Part} {base : State} {s : State} {k : Nat} (hp : pt ∉ [Part.regs, Part.io, Part.frm, Part.pm]) (hss : pt.same base s) :
    pt.same base (State.settleOne s k) := by
  unfold State.settleOne
  try dsimp only
  repeat' first
    | with_reducible assumption | intro _ | with_reducible exact Part.same_refl _ _ | with_reducible refine State.laneRegs_frame (Part.sub hp (by decide)) ?_
    | with_reducible refine State.pmDefect_frame (Part.sub hp (by decide)) ?_ | with_reducible refine State.reportDefect_frame (Part.sub hp (by decide)) ?_
    | with_reducible refine State.setFramer_frame (Part.sub hp (by decide)) ?_ | with_reducible apply Part.ite
    | with_reducible apply Part.foldl | split

theorem State.settle_frame {pt : Part} {base : State} {s : State} {k : Nat} (hp : pt ∉ [Part.regs, Part.io, Part.tim, Part.frm, Part.pm]) (hss : pt.same base s) :
    pt.same base (State.settle s k) := by
  unfold State.settle
  try dsimp only
  repeat' first
    | with_reducible assumption | intro _ | with_reducible exact Part.same_refl _ _ | with_reducible refine State.settleOne_frame (Part.sub hp (by decide)) ?_
    | with_reducible refine State.timReview_frame (Part.sub hp (by decide)) ?_ | with_reducible apply Part.foldl
    | with_reducible apply Part.foldlFst | with_reducible apply Part.iteFst

theorem State.countOof_frame {pt : Part} {base : State} {s : State} {k : Nat} {was : FrmUnit} (hp : pt ∉ [Part.regs]) (hss : pt.same base s) :
    pt.same base (State.countOof s k was) := by
  unfold State.countOof
  try dsimp only
  repeat' first
    | with_reducible assumption | intro _ | with_reducible refine State.count_frame (Part.sub hp (by decide)) ?_
    | with_reducible apply Part.ite | split

theorem State.framerLos_frame {pt : Part} {base : State} {s : State} {k : Nat} {los stop : Bool} (hp : pt ∉ [Part.regs, Part.io, Part.tim, Part.frm, Part.pm]) (hss : pt.same base s) :
    pt.same base (State.framerLos s k los stop) := by
  unfold State.framerLos
  try dsimp only
  repeat' first
    | with_reducible assumption | intro _ | with_reducible refine State.countOof_frame (Part.sub hp (by decide)) ?_
    | with_reducible refine State.setFramer_frame (Part.sub hp (by decide)) ?_ | with_reducible refine State.settle_frame (Part.sub hp (by decide)) ?_
    | with_reducible apply Part.ite | split

theorem State.takeLabel_frame {pt : Part} {base : State} {s : State} {k kind v : Nat} (hp : pt ∉ [Part.io, Part.frm]) (hss : pt.same base s) :
    pt.same base (State.takeLabel s k kind v) := by
  unfold State.takeLabel
  try dsimp only
  repeat' first
    | with_reducible assumption | intro _ | with_reducible refine State.raise_frame (Part.sub hp (by decide)) ?_
    | with_reducible refine State.setFramer_frame (Part.sub hp (by decide)) ?_ | with_reducible apply Part.ite
    | split

theorem State.takeTrace_frame {pt : Part} {base : State} {s : State} {k kind layer : Nat} {v : List Nat} (hp : pt ∉ [Part.io, Part.frm]) (hss : pt.same base s) :
    pt.same base (State.takeTrace s k kind layer v) := by
  unfold State.takeTrace
  try dsimp only
  repeat' first
    | with_reducible assumption | intro _ | with_reducible refine State.raise_frame (Part.sub hp (by decide)) ?_
    | with_reducible refine State.setFramer_frame (Part.sub hp (by decide)) ?_ | with_reducible apply Part.ite
    | split

theorem State.takeAps_frame {pt : Part} {base : State} {s : State} {k : Nat} {v : List Nat} (hp : pt ∉ [Part.io, Part.frm]) (hss : pt.same base s) :
    pt.same base (State.takeAps s k v) := by
  unfold State.takeAps
  try dsimp only
  repeat' first
    | with_reducible assumption | intro _ | with_reducible refine State.raise_frame (Part.sub hp (by decide)) ?_
    | with_reducible refine State.setFramer_frame (Part.sub hp (by decide)) ?_ | with_reducible apply Part.ite
    | split | fail_if_no_progress with_reducible refine Part.same_upd ?_ ?_ | ((with_reducible refine Part.keptIntro ?_); cases pt <;> first | exact absurd (by decide) hp | exact rfl | exact ⟨rfl, rfl⟩)

theorem State.giveQl_frame {pt : Part} {base : State} {s : State} {k : Nat} {sa : Option Nat} {v : Nat} (hp : pt ∉ [Part.regs, Part.io, Part.tim]) (hss : pt.same base s) :
    pt.same base (State.giveQl s k sa v) := by
  unfold State.giveQl
  try dsimp only
  repeat' first
    | with_reducible assumption | intro _ | with_reducible exact Part.same_refl _ _ | with_reducible refine State.acceptLaneQl_frame (Part.sub hp (by decide)) ?_
    | with_reducible refine State.acceptQl_frame (Part.sub hp (by decide)) ?_ | with_reducible apply Part.ite
    | split

theorem State.takeSsm_frame {pt : Part} {base : State} {s : State} {k kind v : Nat} (hp : pt ∉ [Part.regs, Part.io, Part.tim, Part.frm]) (hss : pt.same base s) :
    pt.same base (State.takeSsm s k kind v) := by
  unfold State.takeSsm
  try dsimp only
  repeat' first
    | with_reducible assumption | intro _ | with_reducible refine State.count_frame (Part.sub hp (by decide)) ?_
    | with_reducible refine State.giveQl_frame (Part.sub hp (by decide)) ?_ | with_reducible refine State.setFramer_frame (Part.sub hp (by decide)) ?_
    | with_reducible apply Part.ite | split

theorem State.takeSas_frame {pt : Part} {base : State} {s : State} {k : Nat} {sas : List Nat} (hp : pt ∉ [Part.regs, Part.io, Part.tim, Part.frm]) (hss : pt.same base s) :
    pt.same base (State.takeSas s k sas) := by
  unfold State.takeSas
  try dsimp only
  repeat' first
    | with_reducible assumption | intro _ | with_reducible exact Part.same_refl _ _ | with_reducible refine State.giveQl_frame (Part.sub hp (by decide)) ?_
    | with_reducible refine State.setFramer_frame (Part.sub hp (by decide)) ?_ | with_reducible apply Part.ite
    | with_reducible apply Part.foldl | with_reducible apply Part.foldlFst | with_reducible apply Part.iteFst
    | split

theorem State.takeFec_frame {pt : Part} {base : State} {s : State} {l0 corr uncorr : Nat} (hp : pt ∉ [Part.regs, Part.frm, Part.pm]) (hss : pt.same base s) :
    pt.same base (State.takeFec s l0 corr uncorr) := by
  unfold State.takeFec
  try dsimp only
  repeat' first
    | with_reducible assumption | intro _ | with_reducible refine State.countBy_frame (Part.sub hp (by decide)) ?_
    | with_reducible refine State.pmBlocks_frame (Part.sub hp (by decide)) ?_ | with_reducible refine State.setFramer_frame (Part.sub hp (by decide)) ?_
    | with_reducible apply Part.ite | split

theorem State.takeCounts_frame {pt : Part} {base : State} {s : State} {k kind : Nat} {f : FrmFrame} (hp : pt ∉ [Part.regs, Part.frm, Part.pm]) (hss : pt.same base s) :
    pt.same base (State.takeCounts s k kind f) := by
  unfold State.takeCounts
  try dsimp only
  repeat' first
    | with_reducible assumption | intro _ | with_reducible refine State.countBy_frame (Part.sub hp (by decide)) ?_
    | with_reducible refine State.pmBlocks_frame (Part.sub hp (by decide)) ?_ | with_reducible refine State.setFramer_frame (Part.sub hp (by decide)) ?_
    | with_reducible apply Part.ite | split

theorem State.takeCrc4_frame {pt : Part} {base : State} {s : State} {k kind : Nat} {f : FrmFrame} (hp : pt ∉ [Part.frm]) (hss : pt.same base s) :
    pt.same base (State.takeCrc4 s k kind f) := by
  unfold State.takeCrc4
  try dsimp only
  repeat' first
    | with_reducible assumption | intro _ | with_reducible refine State.setFramer_frame (Part.sub hp (by decide)) ?_
    | with_reducible apply Part.ite | split

theorem State.takeJust_frame {pt : Part} {base : State} {s : State} {k kind : Nat} {was : FrmUnit} {f : FrmFrame} (hp : pt ∉ [Part.frm, Part.map]) (hss : pt.same base s) :
    pt.same base (State.takeJust s k kind was f) := by
  unfold State.takeJust
  try dsimp only
  repeat' first
    | with_reducible assumption | intro _ | with_reducible refine State.setFramer_frame (Part.sub hp (by decide)) ?_
    | with_reducible apply Part.ite | with_reducible apply Part.iteFst | split | fail_if_no_progress with_reducible refine Part.same_upd ?_ ?_
    | ((with_reducible refine Part.keptIntro ?_); cases pt <;> first | exact absurd (by decide) hp | exact rfl | exact ⟨rfl, rfl⟩)

theorem State.takeCopies_frame {pt : Part} {base : State} {s : State} {k : Nat} {r : Nat × Nat} (hp : pt ∉ [Part.regs, Part.frm]) (hss : pt.same base s) :
    pt.same base (State.takeCopies s k r) := by
  unfold State.takeCopies
  try dsimp only
  repeat' first
    | with_reducible assumption | intro _ | with_reducible refine State.countBy_frame (Part.sub hp (by decide)) ?_
    | with_reducible refine State.setFramer_frame (Part.sub hp (by decide)) ?_ | with_reducible apply Part.iteFst
    | split

theorem State.takeGasp_frame {pt : Part} {base : State} {s : State} {k : Nat} {on : Bool} (hp : pt ∉ [Part.io, Part.frm]) (hss : pt.same base s) :
    pt.same base (State.takeGasp s k on) := by
  unfold State.takeGasp
  try dsimp only
  repeat' first
    | with_reducible assumption | intro _ | with_reducible refine State.raise_frame (Part.sub hp (by decide)) ?_
    | with_reducible refine State.setFramer_frame (Part.sub hp (by decide)) ?_ | with_reducible apply Part.ite
    | split

theorem State.frameAlign_frame {pt : Part} {base : State} {s : State} {k kind : Nat} {f : FrmFrame} (hp : pt ∉ [Part.regs, Part.frm]) (hss : pt.same base s) :
    pt.same base (State.frameAlign s k kind f) := by
  unfold State.frameAlign
  try dsimp only
  repeat' first
    | with_reducible assumption | intro _ | with_reducible exact Part.same_refl _ _ | with_reducible refine State.countOof_frame (Part.sub hp (by decide)) ?_
    | with_reducible refine State.setFramer_frame (Part.sub hp (by decide)) ?_ | with_reducible apply Part.ite
    | with_reducible apply Part.foldl | split

theorem State.frameValues_frame {pt : Part} {base : State} {s : State} {k kind : Nat} {f : FrmFrame} (hp : pt ∉ [Part.regs, Part.io, Part.tim, Part.frm]) (hss : pt.same base s) :
    pt.same base (State.frameValues s k kind f) := by
  unfold State.frameValues
  try dsimp only
  repeat' first
    | with_reducible assumption | intro _ | with_reducible refine State.takeAps_frame (Part.sub hp (by decide)) ?_
    | with_reducible refine State.takeCopies_frame (Part.sub hp (by decide)) ?_ | with_reducible refine State.takeGasp_frame (Part.sub hp (by decide)) ?_
    | with_reducible refine State.takeLabel_frame (Part.sub hp (by decide)) ?_ | with_reducible refine State.takeSas_frame (Part.sub hp (by decide)) ?_
    | with_reducible refine State.takeSsm_frame (Part.sub hp (by decide)) ?_ | with_reducible refine State.takeTrace_frame (Part.sub hp (by decide)) ?_
    | with_reducible apply Part.ite | split

theorem execFramerFrameRx_frame {pt : Part} {dt framer : Nat} {f : FrmFrame} {s : State} (hp : pt ∉ [Part.clock, Part.regs, Part.io, Part.tim, Part.frm, Part.map, Part.pm]) :
    ∃ s', execFramerFrameRx dt framer f s = .next s' ∧ pt.same s s' := by
  unfold execFramerFrameRx
  refine ⟨_, rfl, ?_⟩
  try dsimp only
  repeat' first
    | with_reducible assumption | with_reducible exact Part.same_refl _ _ | intro _ | with_reducible refine State.elapse_frame (Part.sub hp (by decide)) ?_
    | with_reducible refine State.frameAlign_frame (Part.sub hp (by decide)) ?_ | with_reducible refine State.frameValues_frame (Part.sub hp (by decide)) ?_
    | with_reducible refine State.settle_frame (Part.sub hp (by decide)) ?_ | with_reducible refine State.takeCounts_frame (Part.sub hp (by decide)) ?_
    | with_reducible refine State.takeCrc4_frame (Part.sub hp (by decide)) ?_ | with_reducible refine State.takeFec_frame (Part.sub hp (by decide)) ?_
    | with_reducible refine State.takeJust_frame (Part.sub hp (by decide)) ?_ | with_reducible apply Part.ite
    | split

theorem execLofDeclare_frame {pt : Part} {dt framer : Nat} {s : State} (hp : pt ∉ [Part.clock, Part.regs, Part.io, Part.tim, Part.frm, Part.pm]) :
    ∃ s', execLofDeclare dt framer s = .next s' ∧ pt.same s s' := by
  unfold execLofDeclare
  refine ⟨_, rfl, ?_⟩
  try dsimp only
  repeat' first
    | with_reducible assumption | with_reducible exact Part.same_refl _ _ | intro _ | with_reducible refine State.elapse_frame (Part.sub hp (by decide)) ?_
    | with_reducible refine State.setFramer_frame (Part.sub hp (by decide)) ?_ | with_reducible refine State.settle_frame (Part.sub hp (by decide)) ?_
    | with_reducible apply Part.ite | split

theorem execOtlLol_frame {pt : Part} {dt lane : Nat} {lanes : List OtlLane} {s : State} (hp : pt ∉ [Part.clock, Part.regs, Part.io, Part.tim, Part.frm, Part.pm]) :
    ∃ s', execOtlLol dt lane lanes s = .next s' ∧ pt.same s s' := by
  unfold execOtlLol
  refine ⟨_, rfl, ?_⟩
  try dsimp only
  repeat' first
    | with_reducible assumption | intro _ | with_reducible exact Part.same_refl _ _ | with_reducible refine State.countOof_frame (Part.sub hp (by decide)) ?_
    | with_reducible refine State.elapse_frame (Part.sub hp (by decide)) ?_ | with_reducible refine State.pmDefect_frame (Part.sub hp (by decide)) ?_
    | with_reducible refine State.setFramer_frame (Part.sub hp (by decide)) ?_ | with_reducible refine State.settle_frame (Part.sub hp (by decide)) ?_
    | with_reducible refine State.wr_frame (Part.sub hp (by decide)) ?_ | with_reducible apply Part.ite
    | with_reducible apply Part.foldl | with_reducible apply Part.foldlFst | with_reducible apply Part.iteFst
    | split

theorem execCrc4SearchTimeout_frame {pt : Part} {dt ctx : Nat} {found : Bool} {s : State} (hp : pt ∉ [Part.clock, Part.regs, Part.io, Part.tim, Part.frm, Part.pm]) :
    ∃ s', execCrc4SearchTimeout dt ctx found s = .next s' ∧ pt.same s s' := by
  unfold execCrc4SearchTimeout
  refine ⟨_, rfl, ?_⟩
  try dsimp only
  repeat' first
    | with_reducible assumption | with_reducible exact Part.same_refl _ _ | intro _ | with_reducible refine State.countOof_frame (Part.sub hp (by decide)) ?_
    | with_reducible refine State.elapse_frame (Part.sub hp (by decide)) ?_ | with_reducible refine State.setFramer_frame (Part.sub hp (by decide)) ?_
    | with_reducible refine State.settle_frame (Part.sub hp (by decide)) ?_ | with_reducible apply Part.ite
    | split

theorem State.judgeTim_frame {pt : Part} {base : State} {s : State} {k kind : Nat} (hp : pt ∉ [Part.frm]) (hss : pt.same base s) :
    pt.same base (State.judgeTim s k kind) := by
  unfold State.judgeTim
  try dsimp only
  repeat' first
    | with_reducible assumption | intro _ | with_reducible refine State.setFramer_frame (Part.sub hp (by decide)) ?_
    | split

theorem State.integrate_frame {pt : Part} {base : State} {s : State} {k : Nat} (hp : pt ∉ [Part.io, Part.frm]) (hss : pt.same base s) :
    pt.same base (State.integrate s k) := by
  unfold State.integrate
  try dsimp only
  repeat' first
    | with_reducible assumption | intro _ | with_reducible exact Part.same_refl _ _ | with_reducible refine State.raise_frame (Part.sub hp (by decide)) ?_
    | with_reducible refine State.setFramer_frame (Part.sub hp (by decide)) ?_ | with_reducible apply Part.ite
    | with_reducible apply Part.foldl | split

theorem State.setGroup_frame {pt : Part} {base : State} {s : State} {n : Nat} {g : ApsGroup} (hp : pt ∉ [Part.frm]) (hss : pt.same base s) :
    pt.same base (State.setGroup s n g) := by
  unfold State.setGroup
  try dsimp only
  repeat' first
    | with_reducible assumption | intro _ | fail_if_no_progress with_reducible refine Part.same_upd ?_ ?_
    | ((with_reducible refine Part.keptIntro ?_); cases pt <;> first | exact absurd (by decide) hp | exact rfl | exact ⟨rfl, rfl⟩)

theorem State.evalGroup_frame {pt : Part} {base : State} {s : State} {n : Nat} (hp : pt ∉ [Part.frm]) (hss : pt.same base s) :
    pt.same base (State.evalGroup s n) := by
  unfold State.evalGroup
  try dsimp only
  repeat' first
    | with_reducible assumption | intro _ | with_reducible refine State.setGroup_frame (Part.sub hp (by decide)) ?_
    | with_reducible apply Part.ite | split

theorem execOhExtract_frame {pt : Part} {dt ctx : Nat} {s : State} (hp : pt ∉ [Part.clock, Part.regs, Part.io, Part.tim, Part.frm, Part.pm]) :
    ∃ s', execOhExtract dt ctx s = .next s' ∧ pt.same s s' := by
  unfold execOhExtract
  refine ⟨_, rfl, ?_⟩
  try dsimp only
  repeat' first
    | with_reducible assumption | intro _ | with_reducible exact Part.same_refl _ _ | with_reducible refine State.elapse_frame (Part.sub hp (by decide)) ?_
    | with_reducible refine State.evalGroup_frame (Part.sub hp (by decide)) ?_ | with_reducible refine State.integrate_frame (Part.sub hp (by decide)) ?_
    | with_reducible refine State.judgeTim_frame (Part.sub hp (by decide)) ?_ | with_reducible refine State.setFramer_frame (Part.sub hp (by decide)) ?_
    | with_reducible refine State.settle_frame (Part.sub hp (by decide)) ?_ | with_reducible apply Part.ite
    | split

theorem State.takeLeg_frame {pt : Part} {base : State} {s : State} {ctx : Nat} (hp : pt ∉ [Part.io, Part.frm, Part.par]) (hss : pt.same base s) :
    pt.same base (State.takeLeg s ctx) := by
  unfold State.takeLeg
  try dsimp only
  repeat' first
    | with_reducible assumption | intro _ | with_reducible refine State.raiseIf_frame (Part.sub hp (by decide)) ?_
    | with_reducible refine State.send_frame (Part.sub hp (by decide)) ?_ | with_reducible refine State.setGroup_frame (Part.sub hp (by decide)) ?_
    | with_reducible apply Part.ite | split

theorem execOhInsert_frame {pt : Part} {dt ctx : Nat} {complete : Bool} {s : State} (hp : pt ∉ [Part.clock, Part.regs, Part.io, Part.frm, Part.par]) :
    ∃ s', execOhInsert dt ctx complete s = .next s' ∧ pt.same s s' := by
  unfold execOhInsert
  refine ⟨_, rfl, ?_⟩
  try dsimp only
  repeat' first
    | with_reducible assumption | intro _ | with_reducible exact Part.same_refl _ _ | with_reducible refine State.count_frame (Part.sub hp (by decide)) ?_
    | with_reducible refine State.elapse_frame (Part.sub hp (by decide)) ?_ | with_reducible refine State.raiseOnce_frame (Part.sub hp (by decide)) ?_
    | with_reducible refine State.send_frame (Part.sub hp (by decide)) ?_ | with_reducible refine State.setFramer_frame (Part.sub hp (by decide)) ?_
    | with_reducible refine State.takeLeg_frame (Part.sub hp (by decide)) ?_ | with_reducible apply Part.ite
    | split

theorem execApsHoldoffExpiry_frame {pt : Part} {dt group : Nat} {s : State} (hp : pt ∉ [Part.clock, Part.frm]) :
    ∃ s', execApsHoldoffExpiry dt group s = .next s' ∧ pt.same s s' := by
  unfold execApsHoldoffExpiry
  refine ⟨_, rfl, ?_⟩
  try dsimp only
  repeat' first
    | with_reducible assumption | with_reducible exact Part.same_refl _ _ | intro _ | with_reducible refine State.elapse_frame (Part.sub hp (by decide)) ?_
    | with_reducible refine State.evalGroup_frame (Part.sub hp (by decide)) ?_ | with_reducible refine State.setGroup_frame (Part.sub hp (by decide)) ?_
    | split

theorem execApsWtrExpiry_frame {pt : Part} {dt group : Nat} {s : State} (hp : pt ∉ [Part.clock, Part.frm]) :
    ∃ s', execApsWtrExpiry dt group s = .next s' ∧ pt.same s s' := by
  unfold execApsWtrExpiry
  refine ⟨_, rfl, ?_⟩
  try dsimp only
  repeat' first
    | with_reducible assumption | with_reducible exact Part.same_refl _ _ | intro _ | with_reducible refine State.elapse_frame (Part.sub hp (by decide)) ?_
    | with_reducible refine State.evalGroup_frame (Part.sub hp (by decide)) ?_ | with_reducible refine State.setGroup_frame (Part.sub hp (by decide)) ?_
    | split

theorem execSdSfEval_frame {pt : Part} {dt framer : Nat} {s : State} (hp : pt ∉ [Part.clock, Part.regs, Part.io, Part.tim, Part.frm, Part.pm]) :
    ∃ s', execSdSfEval dt framer s = .next s' ∧ pt.same s s' := by
  unfold execSdSfEval
  refine ⟨_, rfl, ?_⟩
  try dsimp only
  repeat' first
    | with_reducible assumption | intro _ | with_reducible exact Part.same_refl _ _ | with_reducible refine State.setFramer_frame (Part.sub hp (by decide)) ?_
    | with_reducible refine State.settle_frame (Part.sub hp (by decide)) ?_ | with_reducible refine State.toBoundary_frame (Part.sub hp (by decide)) ?_
    | with_reducible apply Part.ite | with_reducible apply Part.iteFst | split

theorem State.orHold_frame {pt : Part} {base : State} {s : State} {c : Nat} {cmd : CtxCmd} {run : State → State} (hp : pt ∉ [Part.regs, Part.ovm]) (hss : pt.same base s) (hrun : ∀ b c, pt.same b c → pt.same b (run c)) :
    pt.same base (State.orHold s c cmd run) := by
  unfold State.orHold
  try dsimp only
  repeat' first
    | with_reducible assumption | intro _ | with_reducible exact Part.same_refl _ _ | with_reducible apply hrun
    | with_reducible refine State.count_frame (Part.sub hp (by decide)) ?_ | with_reducible apply Part.ite
    | split | fail_if_no_progress with_reducible refine Part.same_upd ?_ ?_ | ((with_reducible refine Part.keptIntro ?_); cases pt <;> first | exact absurd (by decide) hp | exact rfl | exact ⟨rfl, rfl⟩)

theorem State.doCtxCfg_frame {pt : Part} {base : State} {s : State} {h : HostRef} {p : CtxCfg} (hp : pt ∉ [Part.io, Part.frm]) (hss : pt.same base s) :
    pt.same base (State.doCtxCfg s h p) := by
  unfold State.doCtxCfg
  try dsimp only
  repeat' first
    | with_reducible assumption | intro _ | with_reducible refine State.done_frame (Part.sub hp (by decide)) ?_
    | with_reducible refine State.refuse_frame (Part.sub hp (by decide)) ?_ | with_reducible refine State.setFramer_frame (Part.sub hp (by decide)) ?_
    | with_reducible apply Part.ite | split

theorem execFrmCtxCfg_frame {pt : Part} {dt : Nat} {h : HostRef} {p : CtxCfg} {s : State} (hp : pt ∉ [Part.clock, Part.regs, Part.io, Part.frm, Part.ovm]) :
    ∃ s', execFrmCtxCfg dt h p s = .next s' ∧ pt.same s s' := by
  unfold execFrmCtxCfg
  refine ⟨_, rfl, ?_⟩
  try dsimp only
  repeat' first
    | with_reducible assumption | intro _ | with_reducible exact Part.same_refl _ _ | with_reducible refine State.command_frame (Part.sub hp (by decide)) ?_ ?_
    | with_reducible refine State.doCtxCfg_frame (Part.sub hp (by decide)) ?_ | with_reducible refine State.orHold_frame (Part.sub hp (by decide)) ?_ ?_

theorem State.doTraceSet_frame {pt : Part} {base : State} {s : State} {h : HostRef} {p : TraceSet} (hp : pt ∉ [Part.io, Part.frm, Part.par]) (hss : pt.same base s) :
    pt.same base (State.doTraceSet s h p) := by
  unfold State.doTraceSet
  try dsimp only
  repeat' first
    | with_reducible assumption | intro _ | with_reducible refine State.done_frame (Part.sub hp (by decide)) ?_
    | with_reducible refine State.refuse_frame (Part.sub hp (by decide)) ?_ | with_reducible refine State.send_frame (Part.sub hp (by decide)) ?_
    | with_reducible refine State.setFramer_frame (Part.sub hp (by decide)) ?_ | with_reducible apply Part.ite
    | split

theorem execFrmTraceSet_frame {pt : Part} {dt : Nat} {h : HostRef} {p : TraceSet} {s : State} (hp : pt ∉ [Part.clock, Part.regs, Part.io, Part.frm, Part.ovm, Part.par]) :
    ∃ s', execFrmTraceSet dt h p s = .next s' ∧ pt.same s s' := by
  unfold execFrmTraceSet
  refine ⟨_, rfl, ?_⟩
  try dsimp only
  repeat' first
    | with_reducible assumption | intro _ | with_reducible exact Part.same_refl _ _ | with_reducible refine State.command_frame (Part.sub hp (by decide)) ?_ ?_
    | with_reducible refine State.doTraceSet_frame (Part.sub hp (by decide)) ?_ | with_reducible refine State.orHold_frame (Part.sub hp (by decide)) ?_ ?_

theorem State.doFrmRead_frame {pt : Part} {base : State} {s : State} {h : HostRef} {ctx host : Nat} (hp : pt ∉ [Part.io]) (hss : pt.same base s) :
    pt.same base (State.doFrmRead s h ctx host) := by
  unfold State.doFrmRead
  try dsimp only
  repeat' first
    | with_reducible assumption | intro _ | with_reducible refine State.done_frame (Part.sub hp (by decide)) ?_
    | with_reducible refine State.hostWrite_frame (Part.sub hp (by decide)) ?_ | with_reducible refine State.refuse_frame (Part.sub hp (by decide)) ?_
    | with_reducible apply Part.ite | split

theorem execFrmCtxRead_frame {pt : Part} {dt : Nat} {h : HostRef} {ctx host : Nat} {s : State} (hp : pt ∉ [Part.clock, Part.regs, Part.io, Part.ovm]) :
    ∃ s', execFrmCtxRead dt h ctx host s = .next s' ∧ pt.same s s' := by
  unfold execFrmCtxRead
  refine ⟨_, rfl, ?_⟩
  try dsimp only
  repeat' first
    | with_reducible assumption | intro _ | with_reducible exact Part.same_refl _ _ | with_reducible refine State.command_frame (Part.sub hp (by decide)) ?_ ?_
    | with_reducible refine State.doFrmRead_frame (Part.sub hp (by decide)) ?_ | with_reducible refine State.orHold_frame (Part.sub hp (by decide)) ?_ ?_

theorem execFrmApsCfg_frame {pt : Part} {dt : Nat} {h : HostRef} {p : ApsCfg} {s : State} (hp : pt ∉ [Part.clock, Part.io, Part.frm]) :
    ∃ s', execFrmApsCfg dt h p s = .next s' ∧ pt.same s s' := by
  unfold execFrmApsCfg
  refine ⟨_, rfl, ?_⟩
  try dsimp only
  repeat' first
    | with_reducible assumption | intro _ | with_reducible exact Part.same_refl _ _ | with_reducible refine State.command_frame (Part.sub hp (by decide)) ?_ ?_
    | with_reducible refine State.done_frame (Part.sub hp (by decide)) ?_ | with_reducible refine State.refuse_frame (Part.sub hp (by decide)) ?_
    | with_reducible refine State.setGroup_frame (Part.sub hp (by decide)) ?_ | with_reducible apply Part.ite
    | split

theorem execFrmApsCmd_frame {pt : Part} {dt : Nat} {h : HostRef} {group cmd leg : Nat} {s : State} (hp : pt ∉ [Part.clock, Part.io, Part.frm]) :
    ∃ s', execFrmApsCmd dt h group cmd leg s = .next s' ∧ pt.same s s' := by
  unfold execFrmApsCmd
  refine ⟨_, rfl, ?_⟩
  try dsimp only
  repeat' first
    | with_reducible assumption | intro _ | with_reducible exact Part.same_refl _ _ | with_reducible refine State.command_frame (Part.sub hp (by decide)) ?_ ?_
    | with_reducible refine State.done_frame (Part.sub hp (by decide)) ?_ | with_reducible refine State.evalGroup_frame (Part.sub hp (by decide)) ?_
    | with_reducible refine State.refuse_frame (Part.sub hp (by decide)) ?_ | with_reducible refine State.setGroup_frame (Part.sub hp (by decide)) ?_
    | with_reducible apply Part.ite | split

theorem State.doForce_frame {pt : Part} {base : State} {s : State} {h : HostRef} {ctx what on : Nat} (hp : pt ∉ [Part.io, Part.frm]) (hss : pt.same base s) :
    pt.same base (State.doForce s h ctx what on) := by
  unfold State.doForce
  try dsimp only
  repeat' first
    | with_reducible assumption | intro _ | with_reducible exact Part.same_refl _ _ | with_reducible refine State.done_frame (Part.sub hp (by decide)) ?_
    | with_reducible refine State.refuse_frame (Part.sub hp (by decide)) ?_ | with_reducible refine State.setFramer_frame (Part.sub hp (by decide)) ?_
    | with_reducible apply Part.ite | split

theorem execFrmForce_frame {pt : Part} {dt : Nat} {h : HostRef} {ctx what on : Nat} {s : State} (hp : pt ∉ [Part.clock, Part.regs, Part.io, Part.frm, Part.ovm]) :
    ∃ s', execFrmForce dt h ctx what on s = .next s' ∧ pt.same s s' := by
  unfold execFrmForce
  refine ⟨_, rfl, ?_⟩
  try dsimp only
  repeat' first
    | with_reducible assumption | intro _ | with_reducible exact Part.same_refl _ _ | with_reducible refine State.command_frame (Part.sub hp (by decide)) ?_ ?_
    | with_reducible refine State.doForce_frame (Part.sub hp (by decide)) ?_ | with_reducible refine State.orHold_frame (Part.sub hp (by decide)) ?_ ?_

theorem execFrmReframe_frame {pt : Part} {dt : Nat} {h : HostRef} {lane ctx : Nat} {s : State} (hp : pt ∉ [Part.clock, Part.regs, Part.io, Part.tim, Part.frm, Part.pm]) :
    ∃ s', execFrmReframe dt h lane ctx s = .next s' ∧ pt.same s s' := by
  unfold execFrmReframe
  refine ⟨_, rfl, ?_⟩
  try dsimp only
  repeat' first
    | with_reducible assumption | intro _ | with_reducible exact Part.same_refl _ _ | with_reducible refine State.command_frame (Part.sub hp (by decide)) ?_ ?_
    | with_reducible refine State.count_frame (Part.sub hp (by decide)) ?_ | with_reducible refine State.countOof_frame (Part.sub hp (by decide)) ?_
    | with_reducible refine State.done_frame (Part.sub hp (by decide)) ?_ | with_reducible refine State.raiseC_frame (Part.sub hp (by decide)) ?_
    | with_reducible refine State.refuse_frame (Part.sub hp (by decide)) ?_ | with_reducible refine State.setFramer_frame (Part.sub hp (by decide)) ?_
    | with_reducible refine State.settle_frame (Part.sub hp (by decide)) ?_ | with_reducible apply Part.ite
    | split

theorem State.doErrInsert_frame {pt : Part} {base : State} {s : State} {h : HostRef} {ctx monitor viol frames : Nat} (hp : pt ∉ [Part.io, Part.frm]) (hss : pt.same base s) :
    pt.same base (State.doErrInsert s h ctx monitor viol frames) := by
  unfold State.doErrInsert
  try dsimp only
  repeat' first
    | with_reducible assumption | intro _ | with_reducible refine State.done_frame (Part.sub hp (by decide)) ?_
    | with_reducible refine State.refuse_frame (Part.sub hp (by decide)) ?_ | with_reducible refine State.setFramer_frame (Part.sub hp (by decide)) ?_
    | with_reducible apply Part.ite | split

theorem execFrmErrInsert_frame {pt : Part} {dt : Nat} {h : HostRef} {ctx monitor viol frames : Nat} {s : State} (hp : pt ∉ [Part.clock, Part.regs, Part.io, Part.frm, Part.ovm]) :
    ∃ s', execFrmErrInsert dt h ctx monitor viol frames s = .next s' ∧ pt.same s s' := by
  unfold execFrmErrInsert
  refine ⟨_, rfl, ?_⟩
  try dsimp only
  repeat' first
    | with_reducible assumption | intro _ | with_reducible exact Part.same_refl _ _ | with_reducible refine State.command_frame (Part.sub hp (by decide)) ?_ ?_
    | with_reducible refine State.doErrInsert_frame (Part.sub hp (by decide)) ?_ | with_reducible refine State.orHold_frame (Part.sub hp (by decide)) ?_ ?_

end Sys2Proof.Machine
end

