-- ==== Sys2Proof/Laws/FramesRalale.lean ====
section
/-! SUPPORT. Which parts of the state the operations of Machine/Ralale.lean may change. -/

set_option Elab.async false

namespace Sys2Proof.Machine

theorem State.setRlkLane_frame {pt : Part} {base : State} {s : State} {l : Nat} {x : RlkLane} (hp : pt ∉ [Part.rlk]) (hss : pt.same base s) :
    pt.same base (State.setRlkLane s l x) := by
  unfold State.setRlkLane
  try dsimp only
  repeat' first
    | with_reducible assumption | intro _ | fail_if_no_progress with_reducible refine Part.same_upd ?_ ?_
    | ((with_reducible refine Part.keptIntro ?_); cases pt <;> first | exact absurd (by decide) hp | exact rfl | exact ⟨rfl, rfl⟩)

theorem State.setRlkCtx_frame {pt : Part} {base : State} {s : State} {c : Nat} {x : RlkCtx} (hp : pt ∉ [Part.rlk]) (hss : pt.same base s) :
    pt.same base (State.setRlkCtx s c x) := by
  unfold State.setRlkCtx
  try dsimp only
  repeat' first
    | with_reducible assumption | intro _ | fail_if_no_progress with_reducible refine Part.same_upd ?_ ?_
    | ((with_reducible refine Part.keptIntro ?_); cases pt <;> first | exact absurd (by decide) hp | exact rfl | exact ⟨rfl, rfl⟩)

theorem State.rlkReview_frame {pt : Part} {base : State} {s : State} {l : Nat} (hp : pt ∉ [Part.regs, Part.io, Part.tim, Part.pm]) (hss : pt.same base s) :
    pt.same base (State.rlkReview s l) := by
  unfold State.rlkReview
  try dsimp only
  repeat' first
    | with_reducible assumption | intro _ | with_reducible refine State.pmDefect_frame (Part.sub hp (by decide)) ?_
    | with_reducible refine State.timReview_frame (Part.sub hp (by decide)) ?_ | split

theorem State.rlkSearch_frame {pt : Part} {base : State} {s : State} {l from_ : Nat} (hp : pt ∉ [Part.regs, Part.rlk]) (hss : pt.same base s) :
    pt.same base (State.rlkSearch s l from_) := by
  unfold State.rlkSearch
  try dsimp only
  repeat' first
    | with_reducible assumption | intro _ | with_reducible refine State.setRlkLane_frame (Part.sub hp (by decide)) ?_
    | with_reducible refine State.wr_frame (Part.sub hp (by decide)) ?_ | with_reducible apply Part.ite
    | split

theorem State.rlkDown_frame {pt : Part} {base : State} {s : State} {l : Nat} (hp : pt ∉ [Part.regs, Part.io, Part.tim, Part.rlk, Part.pm]) (hss : pt.same base s) :
    pt.same base (State.rlkDown s l) := by
  unfold State.rlkDown
  try dsimp only
  repeat' first
    | with_reducible assumption | intro _ | with_reducible refine State.rlkReview_frame (Part.sub hp (by decide)) ?_
    | with_reducible refine State.rlkSearch_frame (Part.sub hp (by decide)) ?_ | with_reducible apply Part.ite
    | split

theorem State.rlkAlign_frame {pt : Part} {base : State} {s : State} {l off : Nat} {f : RlkFrame} (hp : pt ∉ [Part.regs, Part.rlk]) (hss : pt.same base s) :
    pt.same base (State.rlkAlign s l off f) := by
  unfold State.rlkAlign
  try dsimp only
  repeat' first
    | with_reducible assumption | intro _ | with_reducible exact Part.same_refl _ _ | with_reducible refine State.rlkSearch_frame (Part.sub hp (by decide)) ?_
    | with_reducible refine State.setRlkLane_frame (Part.sub hp (by decide)) ?_ | with_reducible refine State.wr_frame (Part.sub hp (by decide)) ?_
    | with_reducible apply Part.ite | split

theorem State.rlkQl_frame {pt : Part} {base : State} {s : State} {l ql : Nat} (hp : pt ∉ [Part.regs, Part.io, Part.tim, Part.rlk]) (hss : pt.same base s) :
    pt.same base (State.rlkQl s l ql) := by
  unfold State.rlkQl
  try dsimp only
  repeat' first
    | with_reducible assumption | intro _ | with_reducible refine State.acceptLaneQl_frame (Part.sub hp (by decide)) ?_
    | with_reducible refine State.setRlkLane_frame (Part.sub hp (by decide)) ?_ | with_reducible refine State.wr_frame (Part.sub hp (by decide)) ?_
    | with_reducible apply Part.ite | split

theorem State.rlkRdi_frame {pt : Part} {base : State} {s : State} {l : Nat} {v : Bool} (hp : pt ∉ [Part.regs, Part.io, Part.rlk]) (hss : pt.same base s) :
    pt.same base (State.rlkRdi s l v) := by
  unfold State.rlkRdi
  try dsimp only
  repeat' first
    | with_reducible assumption | intro _ | with_reducible refine State.raise_frame (Part.sub hp (by decide)) ?_
    | with_reducible refine State.setRlkLane_frame (Part.sub hp (by decide)) ?_ | with_reducible refine State.wrBit_frame (Part.sub hp (by decide)) ?_
    | with_reducible apply Part.ite | split

theorem State.rlkLim_frame {pt : Part} {base : State} {s : State} {l v : Nat} (hp : pt ∉ [Part.regs, Part.io, Part.rlk]) (hss : pt.same base s) :
    pt.same base (State.rlkLim s l v) := by
  unfold State.rlkLim
  try dsimp only
  repeat' first
    | with_reducible assumption | intro _ | with_reducible refine State.raise_frame (Part.sub hp (by decide)) ?_
    | with_reducible refine State.setRlkLane_frame (Part.sub hp (by decide)) ?_ | with_reducible refine State.wr_frame (Part.sub hp (by decide)) ?_
    | with_reducible refine State.wrBit_frame (Part.sub hp (by decide)) ?_ | with_reducible apply Part.ite
    | split

theorem State.rlkGasp_frame {pt : Part} {base : State} {s : State} {l : Nat} {v : Bool} (hp : pt ∉ [Part.regs, Part.io, Part.rlk]) (hss : pt.same base s) :
    pt.same base (State.rlkGasp s l v) := by
  unfold State.rlkGasp
  try dsimp only
  repeat' first
    | with_reducible assumption | intro _ | with_reducible refine State.raise_frame (Part.sub hp (by decide)) ?_
    | with_reducible refine State.setRlkLane_frame (Part.sub hp (by decide)) ?_ | with_reducible refine State.wrBit_frame (Part.sub hp (by decide)) ?_
    | with_reducible apply Part.ite | split

theorem State.rlkRtt_frame {pt : Part} {base : State} {s : State} {l echo age : Nat} (hp : pt ∉ [Part.freeCtr, Part.regs]) (hss : pt.same base s) :
    pt.same base (State.rlkRtt s l echo age) := by
  unfold State.rlkRtt
  try dsimp only
  repeat' first
    | with_reducible assumption | intro _ | with_reducible refine State.draw_frame (Part.sub hp (by decide)) ?_
    | with_reducible refine State.wr_frame (Part.sub hp (by decide)) ?_ | with_reducible apply Part.ite
    | split

theorem State.rlkReturn_frame {pt : Part} {base : State} {s0 : State} {l : Nat} {f : RlkFrame} (hp : pt ∉ [Part.regs, Part.rlk]) (hss0 : pt.same base s0) :
    pt.same base (State.rlkReturn s0 l f) := by
  unfold State.rlkReturn
  try dsimp only
  repeat' first
    | with_reducible assumption | intro _ | with_reducible refine State.countBy_frame (Part.sub hp (by decide)) ?_
    | with_reducible refine State.setRlkLane_frame (Part.sub hp (by decide)) ?_ | with_reducible refine State.wr_frame (Part.sub hp (by decide)) ?_
    | with_reducible apply Part.ite | split

theorem State.rlkOverhead_frame {pt : Part} {base : State} {s : State} {l : Nat} {f : RlkFrame} (hp : pt ∉ [Part.freeCtr, Part.regs, Part.io, Part.tim, Part.rlk]) (hss : pt.same base s) :
    pt.same base (State.rlkOverhead s l f) := by
  unfold State.rlkOverhead
  try dsimp only
  repeat' first
    | with_reducible assumption | intro _ | with_reducible refine State.rlkGasp_frame (Part.sub hp (by decide)) ?_
    | with_reducible refine State.rlkLim_frame (Part.sub hp (by decide)) ?_ | with_reducible refine State.rlkQl_frame (Part.sub hp (by decide)) ?_
    | with_reducible refine State.rlkRdi_frame (Part.sub hp (by decide)) ?_ | with_reducible refine State.rlkReturn_frame (Part.sub hp (by decide)) ?_
    | with_reducible refine State.rlkRtt_frame (Part.sub hp (by decide)) ?_ | with_reducible refine State.setRlkLane_frame (Part.sub hp (by decide)) ?_

theorem State.rlkTake_frame {pt : Part} {base : State} {s : State} {l : Nat} {f : RlkFrame} (hp : pt ∉ [Part.freeCtr, Part.regs, Part.io, Part.tim, Part.rlk, Part.pm]) (hss : pt.same base s) :
    pt.same base (State.rlkTake s l f) := by
  unfold State.rlkTake
  try dsimp only
  repeat' first
    | with_reducible assumption | intro _ | with_reducible refine State.count_frame (Part.sub hp (by decide)) ?_
    | with_reducible refine State.pmBlocks_frame (Part.sub hp (by decide)) ?_ | with_reducible refine State.rlkOverhead_frame (Part.sub hp (by decide)) ?_
    | with_reducible apply Part.ite | split

theorem State.rlkMarker_frame {pt : Part} {base : State} {s : State} {l : Nat} {f : RlkFrame} (hp : pt ∉ [Part.regs]) (hss : pt.same base s) :
    pt.same base (State.rlkMarker s l f) := by
  unfold State.rlkMarker
  try dsimp only
  repeat' first
    | with_reducible assumption | intro _ | with_reducible refine State.count_frame (Part.sub hp (by decide)) ?_
    | with_reducible refine State.wr_frame (Part.sub hp (by decide)) ?_ | with_reducible refine State.wrBit_frame (Part.sub hp (by decide)) ?_
    | with_reducible apply Part.ite | split

theorem execRlkFrameRx_frame {pt : Part} {dt lane off : Nat} {lock : Bool} {prior : Nat} {blocks : List RlkBlock} {badSync : Nat} {s : State} (hp : pt ∉ [Part.clock, Part.freeCtr, Part.regs, Part.io, Part.tim, Part.rlk, Part.pm]) :
    ∃ s', execRlkFrameRx dt lane off lock prior blocks badSync s = .next s' ∧ pt.same s s' := by
  unfold execRlkFrameRx
  refine ⟨_, rfl, ?_⟩
  try dsimp only
  repeat' first
    | with_reducible assumption | with_reducible exact Part.same_refl _ _ | intro _ | with_reducible refine State.countBy_frame (Part.sub hp (by decide)) ?_
    | with_reducible refine State.elapse_frame (Part.sub hp (by decide)) ?_ | with_reducible refine State.rlkAlign_frame (Part.sub hp (by decide)) ?_
    | with_reducible refine State.rlkMarker_frame (Part.sub hp (by decide)) ?_ | with_reducible refine State.rlkReview_frame (Part.sub hp (by decide)) ?_
    | with_reducible refine State.rlkSearch_frame (Part.sub hp (by decide)) ?_ | with_reducible refine State.rlkTake_frame (Part.sub hp (by decide)) ?_
    | with_reducible apply Part.ite | split

theorem execRlkLfa_frame {pt : Part} {dt lane : Nat} {s : State} (hp : pt ∉ [Part.clock, Part.regs, Part.io, Part.tim, Part.pm]) :
    ∃ s', execRlkLfa dt lane s = .next s' ∧ pt.same s s' := by
  unfold execRlkLfa
  refine ⟨_, rfl, ?_⟩
  try dsimp only
  repeat' first
    | with_reducible assumption | with_reducible exact Part.same_refl _ _ | intro _ | with_reducible refine State.elapse_frame (Part.sub hp (by decide)) ?_
    | with_reducible refine State.raise_frame (Part.sub hp (by decide)) ?_ | with_reducible refine State.rlkReview_frame (Part.sub hp (by decide)) ?_
    | with_reducible refine State.wrBit_frame (Part.sub hp (by decide)) ?_ | with_reducible apply Part.ite
    | split

theorem State.raiseFirst_frame {pt : Part} {base : State} {s : State} {code n src first : Nat} {mk : Nat → Nat → List (Nat × Nat)} (hp : pt ∉ [Part.io]) (hss : pt.same base s) :
    pt.same base (State.raiseFirst s code n src first mk) := by
  unfold State.raiseFirst
  try dsimp only
  repeat' first
    | with_reducible assumption | intro _ | with_reducible refine State.raise_frame (Part.sub hp (by decide)) ?_
    | with_reducible apply Part.ite | split | fail_if_no_progress with_reducible refine Part.same_upd ?_ ?_
    | ((with_reducible refine Part.keptIntro ?_); cases pt <;> first | exact absurd (by decide) hp | exact rfl | exact ⟨rfl, rfl⟩)

theorem State.flowWrite_frame {pt : Part} {base : State} {s : State} {x : Ctx} {bytes : List Nat} {last abort : Bool} (hp : pt ∉ [Part.regs, Part.io, Part.qmg]) (hss : pt.same base s) :
    pt.same base (State.flowWrite s x bytes last abort) := by
  unfold State.flowWrite
  try dsimp only
  repeat' first
    | with_reducible assumption | intro _ | with_reducible refine State.writeQueue_frame (Part.sub hp (by decide)) ?_
    | with_reducible apply Part.ite | split

theorem State.giveTub_frame {pt : Part} {base : State} {s : State} {c : Nat} {x : Ctx} {t : HeldTub} (hp : pt ∉ [Part.regs, Part.io, Part.rlk, Part.qmg, Part.pm]) (hss : pt.same base s) :
    pt.same base (State.giveTub s c x t) := by
  unfold State.giveTub
  try dsimp only
  repeat' first
    | with_reducible assumption | intro _ | with_reducible refine State.flowWrite_frame (Part.sub hp (by decide)) ?_
    | with_reducible refine State.pmDefect_frame (Part.sub hp (by decide)) ?_ | with_reducible refine State.setRlkCtx_frame (Part.sub hp (by decide)) ?_
    | with_reducible apply Part.ite | split

theorem State.loseTub_frame {pt : Part} {base : State} {s : State} {c : Nat} {x : Ctx} (hp : pt ∉ [Part.regs, Part.io, Part.rlk, Part.qmg]) (hss : pt.same base s) :
    pt.same base (State.loseTub s c x) := by
  unfold State.loseTub
  try dsimp only
  repeat' first
    | with_reducible assumption | intro _ | with_reducible exact Part.same_refl _ _ | with_reducible refine State.count_frame (Part.sub hp (by decide)) ?_
    | with_reducible refine State.flowWrite_frame (Part.sub hp (by decide)) ?_ | with_reducible refine State.raiseFirst_frame (Part.sub hp (by decide)) ?_
    | with_reducible refine State.setRlkCtx_frame (Part.sub hp (by decide)) ?_ | with_reducible apply Part.ite
    | with_reducible apply Part.foldl | split

theorem State.deliverTubs_frame {pt : Part} {base : State} {c : Nat} {x : Ctx} {n : Nat} (hp : pt ∉ [Part.regs, Part.io, Part.rlk, Part.qmg, Part.pm]) :
    ∀ {s : State}, pt.same base s → pt.same base (State.deliverTubs s c x n) := by
  induction n with
  | zero => intro s hss; exact hss
  | succ n ih =>
    intro s hss
    unfold State.deliverTubs
    dsimp only
    split
    · split
      · exact ih (State.giveTub_frame (Part.sub hp (by decide)) hss)
      · exact hss
    · split
      · exact ih (State.loseTub_frame (Part.sub hp (by decide)) hss)
      · exact hss

theorem State.aheadTub_frame {pt : Part} {base : State} {s : State} {l c : Nat} {t : Tub} (hp : pt ∉ [Part.regs, Part.rlk]) (hss : pt.same base s) :
    pt.same base (State.aheadTub s l c t) := by
  unfold State.aheadTub
  try dsimp only
  repeat' first
    | with_reducible assumption | intro _ | with_reducible exact Part.same_refl _ _ | with_reducible refine State.count_frame (Part.sub hp (by decide)) ?_
    | with_reducible refine State.setRlkCtx_frame (Part.sub hp (by decide)) ?_ | with_reducible apply Part.ite
    | split

theorem State.behindTub_frame {pt : Part} {base : State} {s : State} {l c seq : Nat} (hp : pt ∉ [Part.regs, Part.rlk]) (hss : pt.same base s) :
    pt.same base (State.behindTub s l c seq) := by
  unfold State.behindTub
  try dsimp only
  repeat' first
    | with_reducible assumption | intro _ | with_reducible exact Part.same_refl _ _ | with_reducible refine State.count_frame (Part.sub hp (by decide)) ?_
    | with_reducible refine State.setRlkCtx_frame (Part.sub hp (by decide)) ?_ | with_reducible apply Part.ite
    | split

theorem State.resyncTub_frame {pt : Part} {base : State} {s : State} {l c : Nat} {x : Ctx} {t : Tub} {cause : Nat} (hp : pt ∉ [Part.regs, Part.io, Part.rlk, Part.qmg, Part.pm]) (hss : pt.same base s) :
    pt.same base (State.resyncTub s l c x t cause) := by
  unfold State.resyncTub
  try dsimp only
  repeat' first
    | with_reducible assumption | intro _ | with_reducible exact Part.same_refl _ _ | with_reducible refine State.count_frame (Part.sub hp (by decide)) ?_
    | with_reducible refine State.giveTub_frame (Part.sub hp (by decide)) ?_ | with_reducible refine State.raise_frame (Part.sub hp (by decide)) ?_
    | with_reducible refine State.setRlkCtx_frame (Part.sub hp (by decide)) ?_ | with_reducible apply Part.foldl

theorem State.outTub_frame {pt : Part} {base : State} {s : State} {l c : Nat} {x : Ctx} {t : Tub} (hp : pt ∉ [Part.regs, Part.io, Part.rlk, Part.qmg, Part.pm]) (hss : pt.same base s) :
    pt.same base (State.outTub s l c x t) := by
  unfold State.outTub
  try dsimp only
  repeat' first
    | with_reducible assumption | intro _ | with_reducible refine State.count_frame (Part.sub hp (by decide)) ?_
    | with_reducible refine State.resyncTub_frame (Part.sub hp (by decide)) ?_ | with_reducible refine State.setRlkCtx_frame (Part.sub hp (by decide)) ?_
    | with_reducible apply Part.ite | split

theorem State.goodTub_frame {pt : Part} {base : State} {s : State} {l c : Nat} {x : Ctx} {t : Tub} (hp : pt ∉ [Part.regs, Part.io, Part.rlk, Part.qmg, Part.pm]) (hss : pt.same base s) :
    pt.same base (State.goodTub s l c x t) := by
  unfold State.goodTub
  try dsimp only
  repeat' first
    | with_reducible assumption | intro _ | with_reducible refine State.aheadTub_frame (Part.sub hp (by decide)) ?_
    | with_reducible refine State.behindTub_frame (Part.sub hp (by decide)) ?_ | with_reducible refine State.deliverTubs_frame (Part.sub hp (by decide)) ?_
    | with_reducible refine State.outTub_frame (Part.sub hp (by decide)) ?_ | with_reducible refine State.setRlkCtx_frame (Part.sub hp (by decide)) ?_
    | with_reducible apply Part.ite | split

theorem execTubRx_frame {pt : Part} {dt lane prior : Nat} {blocks : List RlkBlock} {s : State} (hp : pt ∉ [Part.clock, Part.regs, Part.io, Part.rlk, Part.qmg, Part.pm, Part.bkg]) :
    ∃ s', execTubRx dt lane prior blocks s = .next s' ∧ pt.same s s' := by
  unfold execTubRx
  refine ⟨_, rfl, ?_⟩
  try dsimp only
  repeat' first
    | with_reducible assumption | intro _ | with_reducible exact Part.same_refl _ _ | with_reducible refine State.alterCheck_frameAs (Part.sub hp (by decide)) ?_ (by with_reducible assumption)
    | with_reducible refine State.alterCheck_frame (Part.sub hp (by decide)) ?_ | with_reducible refine State.count_frame (Part.sub hp (by decide)) ?_
    | with_reducible refine State.countBy_frame (Part.sub hp (by decide)) ?_ | with_reducible refine State.elapse_frame (Part.sub hp (by decide)) ?_
    | with_reducible refine State.goodTub_frame (Part.sub hp (by decide)) ?_ | with_reducible refine State.raiseFirst_frame (Part.sub hp (by decide)) ?_
    | with_reducible apply Part.ite | with_reducible apply Part.iteFst | split

theorem execDdHoldExpiry_frame {pt : Part} {dt ctx : Nat} {s : State} (hp : pt ∉ [Part.clock, Part.regs, Part.io, Part.rlk, Part.qmg, Part.pm]) :
    ∃ s', execDdHoldExpiry dt ctx s = .next s' ∧ pt.same s s' := by
  unfold execDdHoldExpiry
  refine ⟨_, rfl, ?_⟩
  try dsimp only
  repeat' first
    | with_reducible assumption | with_reducible exact Part.same_refl _ _ | intro _ | with_reducible refine State.deliverTubs_frame (Part.sub hp (by decide)) ?_
    | with_reducible refine State.elapse_frame (Part.sub hp (by decide)) ?_ | split

theorem State.copyLost_frame {pt : Part} {base : State} {s : State} {l cid : Nat} (hp : pt ∉ [Part.regs, Part.rlk]) (hss : pt.same base s) :
    pt.same base (State.copyLost s l cid) := by
  unfold State.copyLost
  try dsimp only
  repeat' first
    | with_reducible assumption | intro _ | with_reducible refine State.count_frame (Part.sub hp (by decide)) ?_
    | with_reducible refine State.setRlkLane_frame (Part.sub hp (by decide)) ?_ | with_reducible apply Part.ite
    | with_reducible apply Part.iteFst | split

theorem execCopyRecordClose_frame {pt : Part} {dt ctx : Nat} {s : State} (hp : pt ∉ [Part.clock, Part.regs, Part.rlk]) :
    ∃ s', execCopyRecordClose dt ctx s = .next s' ∧ pt.same s s' := by
  unfold execCopyRecordClose
  refine ⟨_, rfl, ?_⟩
  try dsimp only
  repeat' first
    | with_reducible assumption | intro _ | with_reducible exact Part.same_refl _ _ | with_reducible refine State.copyLost_frame (Part.sub hp (by decide)) ?_
    | with_reducible refine State.elapse_frame (Part.sub hp (by decide)) ?_ | with_reducible refine State.setRlkCtx_frame (Part.sub hp (by decide)) ?_
    | with_reducible apply Part.foldl | split

theorem State.settleTx_frame {pt : Part} {base : State} {s : State} {l : Nat} (hp : pt ∉ [Part.regs, Part.rlk]) (hss : pt.same base s) :
    pt.same base (State.settleTx s l) := by
  unfold State.settleTx
  try dsimp only
  repeat' first
    | with_reducible assumption | intro _ | with_reducible refine State.setRlkLane_frame (Part.sub hp (by decide)) ?_
    | with_reducible refine State.wr_frame (Part.sub hp (by decide)) ?_ | with_reducible apply Part.ite
    | split

theorem State.setTxIdle_frame {pt : Part} {base : State} {s : State} {idle : Bool} (hp : pt ∉ [Part.regs, Part.shf, Part.rlk]) (hss : pt.same base s) :
    pt.same base (State.setTxIdle s idle) := by
  have k : pt.same base ((List.range 48).foldl State.settleTx s) :=
    Part.foldl (fun b c x h => State.settleTx_frame (Part.sub hp (by decide)) h) _ hss
  unfold State.setTxIdle
  dsimp only
  revert k
  generalize (List.range 48).foldl State.settleTx s = s1
  intro k
  exact Part.ite hss (Part.ite (Part.same_upd k (by
      cases pt <;> first | exact absurd (by decide) hp | exact rfl | exact ⟨rfl, rfl⟩)) (Part.same_upd hss (by
      cases pt <;> first | exact absurd (by decide) hp | exact rfl | exact ⟨rfl, rfl⟩)))

theorem State.dropTubs_frame {pt : Part} {base : State} {s : State} {c : Nat} (hp : pt ∉ [Part.rlk]) (hss : pt.same base s) :
    pt.same base (State.dropTubs s c) := by
  unfold State.dropTubs
  try dsimp only
  repeat' first
    | with_reducible assumption | intro _ | with_reducible exact Part.same_refl _ _ | with_reducible refine State.setRlkLane_frame (Part.sub hp (by decide)) ?_
    | with_reducible apply Part.foldl | split | fail_if_no_progress with_reducible refine Part.same_upd ?_ ?_
    | ((with_reducible refine Part.keptIntro ?_); cases pt <;> first | exact absurd (by decide) hp | exact rfl | exact ⟨rfl, rfl⟩)

theorem State.startTubs_frame {pt : Part} {base : State} {s : State} {c : Nat} (hp : pt ∉ [Part.rlk]) (hss : pt.same base s) :
    pt.same base (State.startTubs s c) := by
  unfold State.startTubs
  try dsimp only
  repeat' first
    | with_reducible assumption | intro _ | with_reducible refine State.setRlkCtx_frame (Part.sub hp (by decide)) ?_

theorem State.sendPacket_frame {pt : Part} {base : State} {s : State} {c : Nat} {x : Ctx} {length : Nat} (hp : pt ∉ [Part.rlk]) (hss : pt.same base s) :
    pt.same base (State.sendPacket s c x length) := by
  unfold State.sendPacket
  try dsimp only
  repeat' first
    | with_reducible assumption | intro _ | with_reducible refine State.setRlkCtx_frame (Part.sub hp (by decide)) ?_
    | with_reducible refine State.setRlkLane_frame (Part.sub hp (by decide)) ?_ | with_reducible apply Part.ite
    | split

theorem State.setGate_frame {pt : Part} {base : State} {s : State} {ctx fill : Nat} (hp : pt ∉ [Part.shf, Part.rlk]) (hss : pt.same base s) :
    pt.same base (State.setGate s ctx fill) := by
  unfold State.setGate
  try dsimp only
  repeat' first
    | with_reducible assumption | intro _ | with_reducible exact Part.same_refl _ _ | with_reducible refine State.setRlkCtx_frame (Part.sub hp (by decide)) ?_
    | split | fail_if_no_progress with_reducible refine Part.same_upd ?_ ?_ | ((with_reducible refine Part.keptIntro ?_); cases pt <;> first | exact absurd (by decide) hp | exact rfl | exact ⟨rfl, rfl⟩)

theorem execGateSlip_frame {pt : Part} {dt ctx fill : Nat} {s : State} (hp : pt ∉ [Part.clock, Part.regs, Part.io, Part.shf, Part.rlk]) :
    ∃ s', execGateSlip dt ctx fill s = .next s' ∧ pt.same s s' := by
  unfold execGateSlip
  refine ⟨_, rfl, ?_⟩
  try dsimp only
  repeat' first
    | with_reducible assumption | with_reducible exact Part.same_refl _ _ | intro _ | with_reducible refine State.count_frame (Part.sub hp (by decide)) ?_
    | with_reducible refine State.elapse_frame (Part.sub hp (by decide)) ?_ | with_reducible refine State.raise_frame (Part.sub hp (by decide)) ?_
    | with_reducible refine State.setGate_frame (Part.sub hp (by decide)) ?_ | with_reducible apply Part.ite
    | split

end Sys2Proof.Machine
end

