-- ==== Sys2Proof/Laws/FramesShaft.lean ====
section
/-! SUPPORT. Which parts of the state the operations of Machine/Shaft.lean may change. -/

set_option Elab.async false

namespace Sys2Proof.Machine

theorem State.clearOld_frame {pt : Part} {base : State} {s : State} (hp : pt ∉ [Part.shf]) (hss : pt.same base s) :
    pt.same base (State.clearOld s) := by
  unfold State.clearOld
  try dsimp only
  repeat' first
    | with_reducible assumption | intro _ | with_reducible apply Part.ite | fail_if_no_progress with_reducible refine Part.same_upd ?_ ?_
    | ((with_reducible refine Part.keptIntro ?_); cases pt <;> first | exact absurd (by decide) hp | exact rfl | exact ⟨rfl, rfl⟩)
    | split

theorem State.dispatch_frame {pt : Part} {base : State} {s1 : State} (hp : pt ∉ [Part.freeCtr, Part.regs, Part.io, Part.shf]) (hss1 : pt.same base s1) :
    pt.same base (State.dispatch s1) := by
  unfold State.dispatch
  try dsimp only
  repeat' first
    | with_reducible assumption | intro _ | with_reducible exact Part.same_refl _ _ | with_reducible refine State.countBy_frame (Part.sub hp (by decide)) ?_
    | with_reducible refine State.raiseIf_frame (Part.sub hp (by decide)) ?_ | with_reducible apply Part.ite
    | with_reducible apply Part.foldl | with_reducible apply Part.foldlFst | with_reducible apply Part.iteFst
    | fail_if_no_progress with_reducible refine Part.same_upd ?_ ?_ | ((with_reducible refine Part.keptIntro ?_); cases pt <;> first | exact absurd (by decide) hp | exact rfl | exact ⟨rfl, rfl⟩)
    | split

theorem execHewerWakeup_frame {pt : Part} {dt : Nat} {s : State} (hp : pt ∉ [Part.clock, Part.freeCtr, Part.regs, Part.io, Part.shf]) :
    ∃ s', execHewerWakeup dt s = .next s' ∧ pt.same s s' := by
  unfold execHewerWakeup
  refine ⟨_, rfl, ?_⟩
  try dsimp only
  repeat' first
    | with_reducible assumption | with_reducible exact Part.same_refl _ _ | intro _ | with_reducible refine State.clearOld_frame (Part.sub hp (by decide)) ?_
    | with_reducible refine State.dispatch_frame (Part.sub hp (by decide)) ?_ | with_reducible refine State.elapse_frame (Part.sub hp (by decide)) ?_
    | with_reducible apply Part.ite | split

theorem execShaftHalt_frame {pt : Part} {dt : Nat} {s : State} (hp : pt ∉ [Part.clock, Part.regs, Part.io, Part.shf, Part.rlk]) :
    ∃ s', execShaftHalt dt s = .next s' ∧ pt.same s s' := by
  unfold execShaftHalt
  refine ⟨_, rfl, ?_⟩
  try dsimp only
  repeat' first
    | with_reducible assumption | with_reducible exact Part.same_refl _ _ | intro _ | with_reducible refine State.elapse_frame (Part.sub hp (by decide)) ?_
    | with_reducible refine State.raise_frame (Part.sub hp (by decide)) ?_ | with_reducible refine State.setShfState_frame (Part.sub hp (by decide)) ?_
    | with_reducible refine State.setTxIdle_frame (Part.sub hp (by decide)) ?_ | with_reducible apply Part.ite
    | fail_if_no_progress with_reducible refine Part.same_upd ?_ ?_ | ((with_reducible refine Part.keptIntro ?_); cases pt <;> first | exact absurd (by decide) hp | exact rfl | exact ⟨rfl, rfl⟩)
    | split

theorem State.leaveHalted_frame {pt : Part} {base : State} {s : State} {addr dpll state : Nat} (hp : pt ∉ [Part.clock, Part.freeCtr, Part.regs, Part.io, Part.shf, Part.tim, Part.rlk, Part.qmg]) (hss : pt.same base s) :
    pt.same base (State.leaveHalted s addr dpll state) := by
  unfold State.leaveHalted
  try dsimp only
  repeat' first
    | with_reducible assumption | intro _ | with_reducible refine State.addFilterQueues_frame (Part.sub hp (by decide)) ?_
    | with_reducible refine State.setDpll_frame (Part.sub hp (by decide)) ?_ | with_reducible refine State.setShfState_frame (Part.sub hp (by decide)) ?_
    | with_reducible refine State.setTxIdle_frame (Part.sub hp (by decide)) ?_ | fail_if_no_progress with_reducible refine Part.same_upd ?_ ?_
    | ((with_reducible refine Part.keptIntro ?_); cases pt <;> first | exact absurd (by decide) hp | exact rfl | exact ⟨rfl, rfl⟩)

theorem execShaftStart_frame {pt : Part} {dt : Nat} {s : State} (hp : pt ∉ [Part.clock, Part.freeCtr, Part.regs, Part.io, Part.shf, Part.tim, Part.rlk, Part.qmg]) :
    ∃ s', execShaftStart dt s = .next s' ∧ pt.same s s' := by
  unfold execShaftStart
  refine ⟨_, rfl, ?_⟩
  try dsimp only
  repeat' first
    | with_reducible assumption | with_reducible exact Part.same_refl _ _ | intro _ | with_reducible refine State.elapse_frame (Part.sub hp (by decide)) ?_
    | with_reducible refine State.leaveHalted_frame (Part.sub hp (by decide)) ?_ | with_reducible apply Part.ite
    | split

end Sys2Proof.Machine
end

