-- ==== Sys2Proof/Laws/FramesPorts.lean ====
section
/-! SUPPORT. Which parts of the state the operations of Machine/Ports.lean may change. -/

set_option Elab.async false

namespace Sys2Proof.Machine

theorem State.laneFlag_frame {pt : Part} {base : State} {s : State} {f : Fld} {code l : Nat} {on : Bool} (hp : pt ∉ [Part.regs, Part.io]) (hss : pt.same base s) :
    pt.same base (State.laneFlag s f code l on) := by
  unfold State.laneFlag
  try dsimp only
  repeat' first
    | with_reducible assumption | intro _ | with_reducible refine State.raise_frame (Part.sub hp (by decide)) ?_
    | with_reducible refine State.wrBit_frame (Part.sub hp (by decide)) ?_ | with_reducible apply Part.ite
    | split

theorem State.laneFollow_frame {pt : Part} {base : State} {s : State} {l : Nat} (hp : pt ∉ [Part.regs, Part.io, Part.tim, Part.rlk, Part.frm, Part.pm]) (hss : pt.same base s) :
    pt.same base (State.laneFollow s l) := by
  unfold State.laneFollow
  try dsimp only
  repeat' first
    | with_reducible assumption | intro _ | with_reducible exact Part.same_refl _ _ | with_reducible refine State.framerLos_frame (Part.sub hp (by decide)) ?_
    | with_reducible refine State.pmDefect_frame (Part.sub hp (by decide)) ?_ | with_reducible refine State.rlkDown_frame (Part.sub hp (by decide)) ?_
    | with_reducible refine State.timReview_frame (Part.sub hp (by decide)) ?_ | with_reducible apply Part.ite
    | split

theorem State.maskBelow_frame {pt : Part} {base : State} {s : State} {l n : Nat} (hp : pt ∉ [Part.regs, Part.io]) (hss : pt.same base s) :
    pt.same base (State.maskBelow s l n) := by
  unfold State.maskBelow
  try dsimp only
  repeat' first
    | with_reducible assumption | intro _ | with_reducible refine State.laneFlag_frame (Part.sub hp (by decide)) ?_
    | with_reducible apply Part.ite | split

theorem State.laneRestart_frame {pt : Part} {base : State} {s : State} {l : Nat} (hp : pt ∉ [Part.regs, Part.io, Part.tim, Part.rlk, Part.frm, Part.pm]) (hss : pt.same base s) :
    pt.same base (State.laneRestart s l) := by
  unfold State.laneRestart
  try dsimp only
  repeat' first
    | with_reducible assumption | intro _ | with_reducible refine State.laneFlag_frame (Part.sub hp (by decide)) ?_
    | with_reducible refine State.laneFollow_frame (Part.sub hp (by decide)) ?_ | with_reducible refine State.maskBelow_frame (Part.sub hp (by decide)) ?_
    | with_reducible refine State.setFramer_frame (Part.sub hp (by decide)) ?_ | with_reducible refine State.setRlkLane_frame (Part.sub hp (by decide)) ?_
    | with_reducible refine State.settle_frame (Part.sub hp (by decide)) ?_ | with_reducible refine State.settleTx_frame (Part.sub hp (by decide)) ?_
    | with_reducible refine State.wr_frame (Part.sub hp (by decide)) ?_ | with_reducible refine State.wrBit_frame (Part.sub hp (by decide)) ?_
    | with_reducible apply Part.ite | split

theorem State.setTrb_frame {pt : Part} {base : State} {s : State} {n : Nat} {x : TrbSt} (hp : pt ∉ [Part.prt]) (hss : pt.same base s) :
    pt.same base (State.setTrb s n x) := by
  unfold State.setTrb
  try dsimp only
  repeat' first
    | with_reducible assumption | intro _ | fail_if_no_progress with_reducible refine Part.same_upd ?_ ?_
    | ((with_reducible refine Part.keptIntro ?_); cases pt <;> first | exact absurd (by decide) hp | exact rfl | exact ⟨rfl, rfl⟩)

theorem State.circuitLos_frame {pt : Part} {base : State} {s : State} {n c slot : Nat} (hp : pt ∉ [Part.regs, Part.io, Part.tim, Part.frm, Part.pm]) (hss : pt.same base s) :
    pt.same base (State.circuitLos s n c slot) := by
  unfold State.circuitLos
  try dsimp only
  repeat' first
    | with_reducible assumption | intro _ | with_reducible refine State.framerLos_frame (Part.sub hp (by decide)) ?_
    | with_reducible refine State.raise_frame (Part.sub hp (by decide)) ?_ | with_reducible refine State.wr_frame (Part.sub hp (by decide)) ?_
    | with_reducible apply Part.ite | split

theorem State.dropSlot_frame {pt : Part} {base : State} {s : State} {n slot : Nat} (hp : pt ∉ [Part.regs, Part.prt]) (hss : pt.same base s) :
    pt.same base (State.dropSlot s n slot) := by
  unfold State.dropSlot
  try dsimp only
  repeat' first
    | with_reducible assumption | intro _ | with_reducible exact Part.same_refl _ _ | with_reducible refine State.setTrb_frame (Part.sub hp (by decide)) ?_
    | with_reducible refine State.wr_frame (Part.sub hp (by decide)) ?_

theorem State.trbFollow_frame {pt : Part} {base : State} {s : State} {n : Nat} (hp : pt ∉ [Part.regs, Part.io, Part.tim, Part.frm, Part.pm]) (hss : pt.same base s) :
    pt.same base (State.trbFollow s n) := by
  unfold State.trbFollow
  try dsimp only
  repeat' first
    | with_reducible assumption | intro _ | with_reducible exact Part.same_refl _ _ | with_reducible refine State.circuitLos_frame (Part.sub hp (by decide)) ?_
    | with_reducible refine State.pmDefect_frame (Part.sub hp (by decide)) ?_ | with_reducible refine State.timReview_frame (Part.sub hp (by decide)) ?_
    | with_reducible apply Part.foldl | with_reducible apply Part.foldlFst | with_reducible apply Part.iteFst
    | split

theorem State.trbSearch_frame {pt : Part} {base : State} {s : State} {n from_ : Nat} (hp : pt ∉ [Part.regs, Part.prt]) (hss : pt.same base s) :
    pt.same base (State.trbSearch s n from_) := by
  unfold State.trbSearch
  try dsimp only
  repeat' first
    | with_reducible assumption | intro _ | with_reducible refine State.setTrb_frame (Part.sub hp (by decide)) ?_
    | with_reducible refine State.wr_frame (Part.sub hp (by decide)) ?_ | with_reducible apply Part.ite
    | split

theorem State.trbRestart_frame {pt : Part} {base : State} {s : State} {n : Nat} (hp : pt ∉ [Part.regs, Part.io, Part.tim, Part.prt, Part.frm, Part.pm]) (hss : pt.same base s) :
    pt.same base (State.trbRestart s n) := by
  unfold State.trbRestart
  try dsimp only
  repeat' first
    | with_reducible assumption | intro _ | with_reducible refine State.setTrb_frame (Part.sub hp (by decide)) ?_
    | with_reducible refine State.trbFollow_frame (Part.sub hp (by decide)) ?_ | with_reducible refine State.wr_frame (Part.sub hp (by decide)) ?_
    | with_reducible refine State.wrBit_frame (Part.sub hp (by decide)) ?_

theorem State.trbStep_frame {pt : Part} {base : State} {s : State} {n off : Nat} {word : Bool} (hp : pt ∉ [Part.regs, Part.prt]) (hss : pt.same base s) :
    pt.same base (State.trbStep s n off word) := by
  unfold State.trbStep
  try dsimp only
  repeat' first
    | with_reducible assumption | intro _ | with_reducible refine State.setTrb_frame (Part.sub hp (by decide)) ?_
    | with_reducible refine State.trbSearch_frame (Part.sub hp (by decide)) ?_ | with_reducible refine State.wr_frame (Part.sub hp (by decide)) ?_
    | with_reducible apply Part.ite | split

theorem State.giveBits_frame {pt : Part} {base : State} {s : State} {c : Nat} {bits : List Bool} (hp : pt ∉ [Part.prt]) (hss : pt.same base s) :
    pt.same base (State.giveBits s c bits) := by
  unfold State.giveBits
  try dsimp only
  repeat' first
    | with_reducible assumption | intro _ | fail_if_no_progress with_reducible refine Part.same_upd ?_ ?_
    | ((with_reducible refine Part.keptIntro ?_); cases pt <;> first | exact absurd (by decide) hp | exact rfl | exact ⟨rfl, rfl⟩)

theorem State.takeSlot_frame {pt : Part} {base : State} {s : State} {n slot : Nat} {q : TrbSlot} (hp : pt ∉ [Part.regs, Part.io, Part.prt]) (hss : pt.same base s) :
    pt.same base (State.takeSlot s n slot q) := by
  unfold State.takeSlot
  try dsimp only
  repeat' first
    | with_reducible assumption | intro _ | with_reducible exact Part.same_refl _ _ | with_reducible refine State.count_frame (Part.sub hp (by decide)) ?_
    | with_reducible refine State.giveBits_frame (Part.sub hp (by decide)) ?_ | with_reducible refine State.raise_frame (Part.sub hp (by decide)) ?_
    | with_reducible refine State.setTrb_frame (Part.sub hp (by decide)) ?_ | with_reducible apply Part.ite
    | split

theorem State.takeSlots_frame {pt : Part} {base : State} {n : Nat} {l : List TrbSlot} (hp : pt ∉ [Part.regs, Part.io, Part.prt]) :
    ∀ {s : State} {k : Nat}, pt.same base s → pt.same base (State.takeSlots s n k l) := by
  induction l with
  | nil => intro s k hss; exact hss
  | cons q rest ih => intro s k hss; exact ih (State.takeSlot_frame (Part.sub hp (by decide)) hss)

theorem State.takeTrbFrame_frame {pt : Part} {base : State} {s : State} {n : Nat} {f : TrbFrame} (hp : pt ∉ [Part.regs, Part.io, Part.prt, Part.pm]) (hss : pt.same base s) :
    pt.same base (State.takeTrbFrame s n f) := by
  unfold State.takeTrbFrame
  try dsimp only
  repeat' first
    | with_reducible assumption | intro _ | with_reducible refine State.count_frame (Part.sub hp (by decide)) ?_
    | with_reducible refine State.pmBlocks_frame (Part.sub hp (by decide)) ?_ | with_reducible refine State.raiseIf_frame (Part.sub hp (by decide)) ?_
    | with_reducible refine State.setTrb_frame (Part.sub hp (by decide)) ?_ | with_reducible refine State.takeSlots_frame (Part.sub hp (by decide)) ?_
    | with_reducible refine State.wrBit_frame (Part.sub hp (by decide)) ?_ | with_reducible apply Part.ite
    | split

theorem State.applyTaps_frame {pt : Part} {base : State} {s : State} {l : Nat} (hp : pt ∉ [Part.regs, Part.io, Part.prt]) (hss : pt.same base s) :
    pt.same base (State.applyTaps s l) := by
  unfold State.applyTaps
  try dsimp only
  repeat' first
    | with_reducible assumption | intro _ | with_reducible refine State.raise_frame (Part.sub hp (by decide)) ?_
    | with_reducible refine State.wrBit_frame (Part.sub hp (by decide)) ?_ | with_reducible apply Part.ite
    | with_reducible apply Part.iteFst | fail_if_no_progress with_reducible refine Part.same_upd ?_ ?_
    | ((with_reducible refine Part.keptIntro ?_); cases pt <;> first | exact absurd (by decide) hp | exact rfl | exact ⟨rfl, rfl⟩)
    | split

theorem execLaneLos_frame {pt : Part} {dt lane : Nat} {trb set : Bool} {s : State} (hp : pt ∉ [Part.clock, Part.regs, Part.io, Part.tim, Part.prt, Part.rlk, Part.frm, Part.pm]) :
    ∃ s', execLaneLos dt lane trb set s = .next s' ∧ pt.same s s' := by
  unfold execLaneLos
  refine ⟨_, rfl, ?_⟩
  try dsimp only
  repeat' first
    | with_reducible assumption | with_reducible exact Part.same_refl _ _ | intro _ | with_reducible refine State.count_frame (Part.sub hp (by decide)) ?_
    | with_reducible refine State.elapse_frame (Part.sub hp (by decide)) ?_ | with_reducible refine State.laneFlag_frame (Part.sub hp (by decide)) ?_
    | with_reducible refine State.laneFollow_frame (Part.sub hp (by decide)) ?_ | with_reducible refine State.maskBelow_frame (Part.sub hp (by decide)) ?_
    | with_reducible refine State.raise_frame (Part.sub hp (by decide)) ?_ | with_reducible refine State.trbFollow_frame (Part.sub hp (by decide)) ?_
    | with_reducible refine State.trbSearch_frame (Part.sub hp (by decide)) ?_ | with_reducible refine State.wrBit_frame (Part.sub hp (by decide)) ?_
    | with_reducible apply Part.ite | split

theorem execLaneLol_frame {pt : Part} {dt lane : Nat} {set : Bool} {s : State} (hp : pt ∉ [Part.clock, Part.regs, Part.io, Part.tim, Part.rlk, Part.frm, Part.pm]) :
    ∃ s', execLaneLol dt lane set s = .next s' ∧ pt.same s s' := by
  unfold execLaneLol
  refine ⟨_, rfl, ?_⟩
  try dsimp only
  repeat' first
    | with_reducible assumption | with_reducible exact Part.same_refl _ _ | intro _ | with_reducible refine State.elapse_frame (Part.sub hp (by decide)) ?_
    | with_reducible refine State.laneFlag_frame (Part.sub hp (by decide)) ?_ | with_reducible refine State.laneFollow_frame (Part.sub hp (by decide)) ?_
    | with_reducible refine State.maskBelow_frame (Part.sub hp (by decide)) ?_ | with_reducible apply Part.ite
    | split

theorem execLaneBlockLock_frame {pt : Part} {dt lane : Nat} {lost : Bool} {s : State} (hp : pt ∉ [Part.clock, Part.regs, Part.io, Part.tim, Part.rlk, Part.frm, Part.pm]) :
    ∃ s', execLaneBlockLock dt lane lost s = .next s' ∧ pt.same s s' := by
  unfold execLaneBlockLock
  refine ⟨_, rfl, ?_⟩
  try dsimp only
  repeat' first
    | with_reducible assumption | with_reducible exact Part.same_refl _ _ | intro _ | with_reducible refine State.elapse_frame (Part.sub hp (by decide)) ?_
    | with_reducible refine State.laneFlag_frame (Part.sub hp (by decide)) ?_ | with_reducible refine State.laneFollow_frame (Part.sub hp (by decide)) ?_
    | with_reducible refine State.maskBelow_frame (Part.sub hp (by decide)) ?_ | with_reducible apply Part.ite
    | split

theorem execLaneHiber_frame {pt : Part} {dt lane : Nat} {set : Bool} {s : State} (hp : pt ∉ [Part.clock, Part.regs, Part.io]) :
    ∃ s', execLaneHiber dt lane set s = .next s' ∧ pt.same s s' := by
  unfold execLaneHiber
  refine ⟨_, rfl, ?_⟩
  try dsimp only
  repeat' first
    | with_reducible assumption | with_reducible exact Part.same_refl _ _ | intro _ | with_reducible refine State.elapse_frame (Part.sub hp (by decide)) ?_
    | with_reducible refine State.laneFlag_frame (Part.sub hp (by decide)) ?_ | with_reducible apply Part.ite
    | split

theorem State.setEye_frame {pt : Part} {base : State} {s : State} {l w h : Nat} (hp : pt ∉ [Part.regs, Part.prt]) (hss : pt.same base s) :
    pt.same base (State.setEye s l w h) := by
  unfold State.setEye
  try dsimp only
  repeat' first
    | with_reducible assumption | intro _ | with_reducible refine State.wr_frame (Part.sub hp (by decide)) ?_
    | fail_if_no_progress with_reducible refine Part.same_upd ?_ ?_ | ((with_reducible refine Part.keptIntro ?_); cases pt <;> first | exact absurd (by decide) hp | exact rfl | exact ⟨rfl, rfl⟩)

theorem State.adaptLane_frame {pt : Part} {base : State} {s : State} {l : Nat} (hp : pt ∉ [Part.freeCtr, Part.prt]) (hss : pt.same base s) :
    pt.same base (State.adaptLane s l) := by
  unfold State.adaptLane
  try dsimp only
  repeat' first
    | with_reducible assumption | intro _ | with_reducible refine State.draw_frame (Part.sub hp (by decide)) ?_
    | with_reducible apply Part.ite | with_reducible apply Part.iteFst | fail_if_no_progress with_reducible refine Part.same_upd ?_ ?_
    | ((with_reducible refine Part.keptIntro ?_); cases pt <;> first | exact absurd (by decide) hp | exact rfl | exact ⟨rfl, rfl⟩)
    | split

theorem execLaneReady_frame {pt : Part} {dt lane w h : Nat} {s : State} (hp : pt ∉ [Part.clock, Part.freeCtr, Part.regs, Part.io, Part.tim, Part.prt]) :
    ∃ s', execLaneReady dt lane w h s = .next s' ∧ pt.same s s' := by
  unfold execLaneReady
  refine ⟨_, rfl, ?_⟩
  try dsimp only
  repeat' first
    | with_reducible assumption | with_reducible exact Part.same_refl _ _ | intro _ | with_reducible refine State.adaptLane_frame (Part.sub hp (by decide)) ?_
    | with_reducible refine State.elapse_frame (Part.sub hp (by decide)) ?_ | with_reducible refine State.raise_frame (Part.sub hp (by decide)) ?_
    | with_reducible refine State.setEye_frame (Part.sub hp (by decide)) ?_ | with_reducible refine State.timReview_frame (Part.sub hp (by decide)) ?_
    | with_reducible refine State.wrBit_frame (Part.sub hp (by decide)) ?_ | with_reducible apply Part.ite
    | split

theorem State.measureEye_frame {pt : Part} {base : State} {s : State} {meas : List EyeMeas} {l : Nat} (hp : pt ∉ [Part.freeCtr, Part.regs, Part.prt]) (hss : pt.same base s) :
    pt.same base (State.measureEye s meas l) := by
  unfold State.measureEye
  try dsimp only
  repeat' first
    | with_reducible assumption | intro _ | with_reducible exact Part.same_refl _ _ | with_reducible refine State.adaptLane_frame (Part.sub hp (by decide)) ?_
    | with_reducible refine State.draw_frame (Part.sub hp (by decide)) ?_ | with_reducible refine State.setEye_frame (Part.sub hp (by decide)) ?_
    | with_reducible refine State.wrInt_frame (Part.sub hp (by decide)) ?_ | with_reducible apply Part.iteFst
    | split

theorem execEyeMeasure_frame {pt : Part} {dt : Nat} {meas : List EyeMeas} {s : State} (hp : pt ∉ [Part.clock, Part.freeCtr, Part.regs, Part.prt]) :
    ∃ s', execEyeMeasure dt meas s = .next s' ∧ pt.same s s' := by
  unfold execEyeMeasure
  refine ⟨_, rfl, ?_⟩
  try dsimp only
  repeat' first
    | with_reducible assumption | intro _ | with_reducible exact Part.same_refl _ _ | with_reducible refine State.elapse_frame (Part.sub hp (by decide)) ?_
    | with_reducible refine State.measureEye_frame (Part.sub hp (by decide)) ?_ | with_reducible apply Part.foldl

theorem State.prbsState_frame {pt : Part} {base : State} {s : State} {l : Nat} {on : Bool} (hp : pt ∉ [Part.regs, Part.io]) (hss : pt.same base s) :
    pt.same base (State.prbsState s l on) := by
  unfold State.prbsState
  try dsimp only
  repeat' first
    | with_reducible assumption | intro _ | with_reducible refine State.laneFlag_frame (Part.sub hp (by decide)) ?_

theorem execPrbsLock_frame {pt : Part} {dt lane : Nat} {locked : Bool} {errors : Nat} {s : State} (hp : pt ∉ [Part.clock, Part.regs, Part.io]) :
    ∃ s', execPrbsLock dt lane locked errors s = .next s' ∧ pt.same s s' := by
  unfold execPrbsLock
  refine ⟨_, rfl, ?_⟩
  try dsimp only
  repeat' first
    | with_reducible assumption | with_reducible exact Part.same_refl _ _ | intro _ | with_reducible refine State.countBy_frame (Part.sub hp (by decide)) ?_
    | with_reducible refine State.elapse_frame (Part.sub hp (by decide)) ?_ | with_reducible refine State.prbsState_frame (Part.sub hp (by decide)) ?_
    | with_reducible apply Part.ite | split

theorem execTrbFrameRx_frame {pt : Part} {dt link off : Nat} {bytes : List Nat} {s : State} (hp : pt ∉ [Part.clock, Part.regs, Part.io, Part.tim, Part.prt, Part.frm, Part.pm]) :
    ∃ s', execTrbFrameRx dt link off bytes s = .next s' ∧ pt.same s s' := by
  unfold execTrbFrameRx
  refine ⟨_, rfl, ?_⟩
  try dsimp only
  repeat' first
    | with_reducible assumption | with_reducible exact Part.same_refl _ _ | intro _ | with_reducible refine State.elapse_frame (Part.sub hp (by decide)) ?_
    | with_reducible refine State.takeTrbFrame_frame (Part.sub hp (by decide)) ?_ | with_reducible refine State.trbFollow_frame (Part.sub hp (by decide)) ?_
    | with_reducible refine State.trbStep_frame (Part.sub hp (by decide)) ?_ | with_reducible apply Part.ite
    | split

theorem execTrbAlign_frame {pt : Part} {dt link : Nat} {s : State} (hp : pt ∉ [Part.clock, Part.regs, Part.io, Part.tim, Part.frm, Part.pm]) :
    ∃ s', execTrbAlign dt link s = .next s' ∧ pt.same s s' := by
  unfold execTrbAlign
  refine ⟨_, rfl, ?_⟩
  try dsimp only
  repeat' first
    | with_reducible assumption | with_reducible exact Part.same_refl _ _ | intro _ | with_reducible refine State.elapse_frame (Part.sub hp (by decide)) ?_
    | with_reducible refine State.raise_frame (Part.sub hp (by decide)) ?_ | with_reducible refine State.trbFollow_frame (Part.sub hp (by decide)) ?_
    | with_reducible refine State.wrBit_frame (Part.sub hp (by decide)) ?_ | with_reducible apply Part.ite
    | split

theorem execPrtTest_frame {pt : Part} {dt : Nat} {h : HostRef} {lane ptn flags : Nat} {s : State} (hp : pt ∉ [Part.clock, Part.regs, Part.io, Part.prt]) :
    ∃ s', execPrtTest dt h lane ptn flags s = .next s' ∧ pt.same s s' := by
  unfold execPrtTest
  refine ⟨_, rfl, ?_⟩
  try dsimp only
  repeat' first
    | with_reducible assumption | intro _ | with_reducible exact Part.same_refl _ _ | with_reducible refine State.command_frame (Part.sub hp (by decide)) ?_ ?_
    | with_reducible refine State.done_frame (Part.sub hp (by decide)) ?_ | with_reducible refine State.prbsState_frame (Part.sub hp (by decide)) ?_
    | with_reducible refine State.refuse_frame (Part.sub hp (by decide)) ?_ | with_reducible refine State.wrBit_frame (Part.sub hp (by decide)) ?_
    | with_reducible apply Part.ite | fail_if_no_progress with_reducible refine Part.same_upd ?_ ?_ | ((with_reducible refine Part.keptIntro ?_); cases pt <;> first | exact absurd (by decide) hp | exact rfl | exact ⟨rfl, rfl⟩)
    | split

theorem execPrtAdaptRestart_frame {pt : Part} {dt : Nat} {h : HostRef} {lane : Nat} {s : State} (hp : pt ∉ [Part.clock, Part.regs, Part.io, Part.tim, Part.rlk, Part.frm, Part.pm]) :
    ∃ s', execPrtAdaptRestart dt h lane s = .next s' ∧ pt.same s s' := by
  unfold execPrtAdaptRestart
  refine ⟨_, rfl, ?_⟩
  try dsimp only
  repeat' first
    | with_reducible assumption | intro _ | with_reducible exact Part.same_refl _ _ | with_reducible refine State.command_frame (Part.sub hp (by decide)) ?_ ?_
    | with_reducible refine State.done_frame (Part.sub hp (by decide)) ?_ | with_reducible refine State.laneFollow_frame (Part.sub hp (by decide)) ?_
    | with_reducible refine State.maskBelow_frame (Part.sub hp (by decide)) ?_ | with_reducible refine State.refuse_frame (Part.sub hp (by decide)) ?_
    | with_reducible refine State.wrBit_frame (Part.sub hp (by decide)) ?_ | with_reducible apply Part.ite
    | split

end Sys2Proof.Machine
end

