-- ==== Sys2Proof/Laws/FramesPaths.lean ====
section
/-! SUPPORT. Which parts of the state the operations of Machine/Paths.lean may change. -/

set_option Elab.async false

namespace Sys2Proof.Machine


end Sys2Proof.Machine
end

