-- ==== Sys2Proof/Laws/FramesSlew.lean ====
section
/-! SUPPORT. Which parts of the state the operations of Machine/Slew.lean may change. -/

set_option Elab.async false

namespace Sys2Proof.Machine

theorem State.gateUnit_frame {pt : Part} {base : State} {s : State} {u : Nat} (hp : pt ∉ [Part.regs, Part.io, Part.tim, Part.prt, Part.rlk, Part.frm, Part.ovm, Part.pm]) (hss : pt.same base s) :
    pt.same base (State.gateUnit s u) := by
  unfold State.gateUnit
  try dsimp only
  repeat' first
    | with_reducible assumption | intro _ | with_reducible refine State.laneRestart_frame (Part.sub hp (by decide)) ?_
    | with_reducible refine State.trbRestart_frame (Part.sub hp (by decide)) ?_ | with_reducible refine State.wrBit_frame (Part.sub hp (by decide)) ?_
    | with_reducible apply Part.ite | fail_if_no_progress with_reducible refine Part.same_upd ?_ ?_ | ((with_reducible refine Part.keptIntro ?_); cases pt <;> first | exact absurd (by decide) hp | exact rfl | exact ⟨rfl, rfl⟩)
    | split

theorem State.shedNow_frame {pt : Part} {base : State} {s : State} {i : Nat} (hp : pt ∉ [Part.io, Part.ovm]) (hss : pt.same base s) :
    pt.same base (State.shedNow s i) := by
  unfold State.shedNow
  try dsimp only
  repeat' first
    | with_reducible assumption | intro _ | with_reducible refine State.raise_frame (Part.sub hp (by decide)) ?_
    | with_reducible apply Part.ite | split | fail_if_no_progress with_reducible refine Part.same_upd ?_ ?_
    | ((with_reducible refine Part.keptIntro ?_); cases pt <;> first | exact absurd (by decide) hp | exact rfl | exact ⟨rfl, rfl⟩)

theorem State.makeStep_frame {pt : Part} {base : State} {s : State} {x : LoadStep} (hp : pt ∉ [Part.regs, Part.io, Part.tim, Part.prt, Part.rlk, Part.frm, Part.ovm, Part.pm])
    (hss : pt.same base s) : pt.same base (State.makeStep s x) := by
  cases x <;> unfold State.makeStep <;> dsimp only
  · exact State.gateUnit_frame (Part.sub hp (by decide)) hss
  · split
    · refine Part.same_upd hss ?_
      cases pt <;> first | exact absurd (by decide) hp | exact rfl | exact ⟨rfl, rfl⟩
    · exact hss
  · exact State.wr_frame (Part.sub hp (by decide)) hss
  · exact State.shedNow_frame (Part.sub hp (by decide)) hss

theorem State.slewCharge_frame {pt : Part} {base : State} {s : State} {price : Nat} (hp : pt ∉ [Part.eng]) (hss : pt.same base s) :
    pt.same base (State.slewCharge s price) := by
  unfold State.slewCharge
  try dsimp only
  repeat' first
    | with_reducible assumption | intro _ | fail_if_no_progress with_reducible refine Part.same_upd ?_ ?_
    | ((with_reducible refine Part.keptIntro ?_); cases pt <;> first | exact absurd (by decide) hp | exact rfl | exact ⟨rfl, rfl⟩)

theorem State.loadStep_frame {pt : Part} {base : State} {s : State} {x : LoadStep} (hp : pt ∉ [Part.regs, Part.io, Part.tim, Part.prt, Part.rlk, Part.frm, Part.ovm, Part.pm, Part.eng]) (hss : pt.same base s) :
    pt.same base (State.loadStep s x) := by
  unfold State.loadStep
  try dsimp only
  repeat' first
    | with_reducible assumption | intro _ | with_reducible refine State.count_frame (Part.sub hp (by decide)) ?_
    | with_reducible refine State.makeStep_frame (Part.sub hp (by decide)) ?_ | with_reducible refine State.slewCharge_frame (Part.sub hp (by decide)) ?_
    | with_reducible apply Part.ite | fail_if_no_progress with_reducible refine Part.same_upd ?_ ?_ | ((with_reducible refine Part.keptIntro ?_); cases pt <;> first | exact absurd (by decide) hp | exact rfl | exact ⟨rfl, rfl⟩)
    | split

theorem State.admitSteps_frame {pt : Part} {base : State} {l : List LoadStep} (hp : pt ∉ [Part.regs, Part.io, Part.tim, Part.prt, Part.rlk, Part.frm, Part.ovm, Part.pm, Part.eng]) :
    ∀ {s : State}, pt.same base s → pt.same base (State.admitSteps s l) := by
  induction l with
  | nil =>
    intro s hss
    exact Part.same_upd hss (by
      cases pt <;> first | exact absurd (by decide) hp | exact rfl | exact ⟨rfl, rfl⟩)
  | cons x rest ih =>
    intro s hss
    unfold State.admitSteps
    dsimp only
    split
    · exact ih (State.makeStep_frame (Part.sub hp (by decide)) (State.slewCharge_frame (Part.sub hp (by decide)) hss))
    · exact State.countBy_frame (Part.sub hp (by decide)) (Part.same_upd hss (by
      cases pt <;> first | exact absurd (by decide) hp | exact rfl | exact ⟨rfl, rfl⟩))

theorem execSlewWindow_frame {pt : Part} {dt : Nat} {s : State} (hp : pt ∉ [Part.clock, Part.regs, Part.io, Part.tim, Part.prt, Part.rlk, Part.frm, Part.ovm, Part.pm, Part.eng]) :
    ∃ s', execSlewWindow dt s = .next s' ∧ pt.same s s' := by
  unfold execSlewWindow
  refine ⟨_, rfl, ?_⟩
  try dsimp only
  repeat' first
    | with_reducible assumption | with_reducible exact Part.same_refl _ _ | intro _ | with_reducible refine State.admitSteps_frame (Part.sub hp (by decide)) ?_
    | with_reducible refine State.toBoundary_frame (Part.sub hp (by decide)) ?_

end Sys2Proof.Machine
end

