-- ==== Sys2Proof/Laws/FramesPlacement.lean ====
section
/-! SUPPORT. Which parts of the state the operations of Machine/Placement.lean may change. -/

set_option Elab.async false

namespace Sys2Proof.Machine

theorem State.settleParts_frame {pt : Part} {base : State} {obs : OvmObs} {l : List (Nat × Ctx)} (hp : pt ∉ [Part.ovm]) :
    ∀ {s t : State}, pt.same base s → State.settleParts s obs l = some t → pt.same base t := by
  induction l with
  | nil => intro s t hss ht; cases ht; exact hss
  | cons x rest ih =>
    intro s t hss ht
    obtain ⟨i, x⟩ := x
    unfold State.settleParts at ht
    split at ht
    · cases ht
    · exact ih (Part.same_upd hss (by
      cases pt <;> first | exact absurd (by decide) hp | exact rfl | exact ⟨rfl, rfl⟩)) ht

theorem State.acceptIntent_frame {q : Part} {base : State} {s t : State} {p : Intent} {obs : OvmObs} {old : IntentSt}
    (hp : q ∉ [Part.regs, Part.io, Part.tim, Part.prt, Part.rlk, Part.frm, Part.ovm, Part.pm, Part.eng])
    (hss : q.same base s) (ht : State.acceptIntent s p obs old = .ok t) : q.same base t := by
  unfold State.acceptIntent at ht
  extract_lets at ht
  replace ht := ok_of_ite (ok_of_ite (ok_of_ite (ok_of_ite ht)))
  split at ht
  · cases ht
  · next hs =>
    obtain ⟨x, -, hx⟩ := List.exists_of_findSome?_eq_some hs
    change Option.map _ (Option.filter _ (State.settleParts s obs _)) = some _ at hx
    simp only [Option.map_eq_some_iff, Option.filter_eq_some_iff, Prod.mk.injEq] at hx
    obtain ⟨b, ⟨hb, -⟩, rfl, -⟩ := hx
    replace ht := ok_of_ite ht
    extract_lets at ht
    cases ht
    refine Part.foldl (fun b c x h => State.loadStep_frame (Part.sub hp (by decide)) h) _ (Part.same_upd (State.settleParts_frame (Part.sub hp (by decide)) hss hb) ?_)
    cases q <;> first | exact absurd (by decide) hp | exact rfl | exact ⟨rfl, rfl⟩

theorem State.refuseIntent_frame {pt : Part} {base : State} {s : State} {h : HostRef} {id reason : Nat} (hp : pt ∉ [Part.regs, Part.io]) (hss : pt.same base s) :
    pt.same base (State.refuseIntent s h id reason) := by
  unfold State.refuseIntent
  try dsimp only
  repeat' first
    | with_reducible assumption | intro _ | with_reducible refine State.complete_frame (Part.sub hp (by decide)) ?_
    | with_reducible refine State.count_frame (Part.sub hp (by decide)) ?_ | with_reducible refine State.raiseC_frame (Part.sub hp (by decide)) ?_

theorem State.restoreIntent_frame {pt : Part} {base : State} {s : State} {i : Nat} (hp : pt ∉ [Part.regs, Part.io, Part.tim, Part.prt, Part.rlk, Part.frm, Part.ovm, Part.pm, Part.eng]) (hss : pt.same base s) :
    pt.same base (State.restoreIntent s i) := by
  unfold State.restoreIntent
  try dsimp only
  repeat' first
    | with_reducible assumption | intro _ | with_reducible refine State.acceptIntent_frame (Part.sub hp (by decide)) ?_ (by with_reducible assumption)
    | with_reducible apply Part.ite | split

theorem execOvmIntentAdd_frame {pt : Part} {dt : Nat} {h : HostRef} {p : Intent} {obs : OvmObs} {s : State} (hp : pt ∉ [Part.clock, Part.regs, Part.io, Part.tim, Part.prt, Part.rlk, Part.frm, Part.ovm, Part.pm, Part.eng]) :
    ∃ s', execOvmIntentAdd dt h p obs s = .next s' ∧ pt.same s s' := by
  unfold execOvmIntentAdd
  refine ⟨_, rfl, ?_⟩
  try dsimp only
  repeat' first
    | with_reducible assumption | intro _ | with_reducible exact Part.same_refl _ _ | with_reducible refine State.acceptIntent_frame (Part.sub hp (by decide)) ?_ (by with_reducible assumption)
    | with_reducible refine State.command_frame (Part.sub hp (by decide)) ?_ ?_ | with_reducible refine State.refuseIntent_frame (Part.sub hp (by decide)) ?_
    | split | fail_if_no_progress with_reducible refine Part.same_upd ?_ ?_ | ((with_reducible refine Part.keptIntro ?_); cases pt <;> first | exact absurd (by decide) hp | exact rfl | exact ⟨rfl, rfl⟩)

theorem State.dropReserved_frame {pt : Part} {base : State} {s : State} {x : IntentSt} (hp : pt ∉ [Part.ovm]) (hss : pt.same base s) :
    pt.same base (State.dropReserved s x) := by
  unfold State.dropReserved
  try dsimp only
  repeat' first
    | with_reducible assumption | intro _ | with_reducible exact Part.same_refl _ _ | with_reducible apply Part.foldl
    | fail_if_no_progress with_reducible refine Part.same_upd ?_ ?_ | ((with_reducible refine Part.keptIntro ?_); cases pt <;> first | exact absurd (by decide) hp | exact rfl | exact ⟨rfl, rfl⟩)

theorem State.doWithdraw_frame {pt : Part} {base : State} {s : State} {h : HostRef} {id : Nat} (hp : pt ∉ [Part.regs, Part.io, Part.ovm]) (hss : pt.same base s) :
    pt.same base (State.doWithdraw s h id) := by
  unfold State.doWithdraw
  try dsimp only
  repeat' first
    | with_reducible assumption | intro _ | with_reducible exact Part.same_refl _ _ | with_reducible refine State.done_frame (Part.sub hp (by decide)) ?_
    | with_reducible refine State.dropReserved_frame (Part.sub hp (by decide)) ?_ | with_reducible refine State.refuse_frame (Part.sub hp (by decide)) ?_
    | with_reducible refine State.refuseIntent_frame (Part.sub hp (by decide)) ?_ | with_reducible apply Part.ite
    | split | fail_if_no_progress with_reducible refine Part.same_upd ?_ ?_ | ((with_reducible refine Part.keptIntro ?_); cases pt <;> first | exact absurd (by decide) hp | exact rfl | exact ⟨rfl, rfl⟩)

theorem execOvmIntentWithdraw_frame {pt : Part} {dt : Nat} {h : HostRef} {intent : Nat} {s : State} (hp : pt ∉ [Part.clock, Part.regs, Part.io, Part.ovm]) :
    ∃ s', execOvmIntentWithdraw dt h intent s = .next s' ∧ pt.same s s' := by
  unfold execOvmIntentWithdraw
  refine ⟨_, rfl, ?_⟩
  try dsimp only
  repeat' first
    | with_reducible assumption | intro _ | with_reducible exact Part.same_refl _ _ | with_reducible refine State.command_frame (Part.sub hp (by decide)) ?_ ?_
    | with_reducible refine State.doWithdraw_frame (Part.sub hp (by decide)) ?_ | with_reducible refine State.orHold_frame (Part.sub hp (by decide)) ?_ ?_
    | split

theorem State.doPin_frame {pt : Part} {base : State} {s : State} {h : HostRef} {ctx items : Nat} {on : Bool} (hp : pt ∉ [Part.io, Part.ovm]) (hss : pt.same base s) :
    pt.same base (State.doPin s h ctx items on) := by
  unfold State.doPin
  try dsimp only
  repeat' first
    | with_reducible assumption | intro _ | with_reducible exact Part.same_refl _ _ | with_reducible refine State.done_frame (Part.sub hp (by decide)) ?_
    | with_reducible refine State.refuse_frame (Part.sub hp (by decide)) ?_ | with_reducible apply Part.ite
    | with_reducible apply Part.foldl | split | fail_if_no_progress with_reducible refine Part.same_upd ?_ ?_
    | ((with_reducible refine Part.keptIntro ?_); cases pt <;> first | exact absurd (by decide) hp | exact rfl | exact ⟨rfl, rfl⟩)

theorem execOvmPin_frame {pt : Part} {dt : Nat} {h : HostRef} {ctx items : Nat} {s : State} (hp : pt ∉ [Part.clock, Part.regs, Part.io, Part.ovm]) :
    ∃ s', execOvmPin dt h ctx items s = .next s' ∧ pt.same s s' := by
  unfold execOvmPin
  refine ⟨_, rfl, ?_⟩
  try dsimp only
  repeat' first
    | with_reducible assumption | intro _ | with_reducible exact Part.same_refl _ _ | with_reducible refine State.command_frame (Part.sub hp (by decide)) ?_ ?_
    | with_reducible refine State.doPin_frame (Part.sub hp (by decide)) ?_ | with_reducible refine State.orHold_frame (Part.sub hp (by decide)) ?_ ?_

theorem execOvmUnpin_frame {pt : Part} {dt : Nat} {h : HostRef} {ctx items : Nat} {s : State} (hp : pt ∉ [Part.clock, Part.regs, Part.io, Part.ovm]) :
    ∃ s', execOvmUnpin dt h ctx items s = .next s' ∧ pt.same s s' := by
  unfold execOvmUnpin
  refine ⟨_, rfl, ?_⟩
  try dsimp only
  repeat' first
    | with_reducible assumption | intro _ | with_reducible exact Part.same_refl _ _ | with_reducible refine State.command_frame (Part.sub hp (by decide)) ?_ ?_
    | with_reducible refine State.doPin_frame (Part.sub hp (by decide)) ?_ | with_reducible refine State.orHold_frame (Part.sub hp (by decide)) ?_ ?_

theorem State.doResultRead_frame {pt : Part} {base : State} {s : State} {h : HostRef} {intent host avail : Nat} (hp : pt ∉ [Part.io]) (hss : pt.same base s) :
    pt.same base (State.doResultRead s h intent host avail) := by
  unfold State.doResultRead
  try dsimp only
  repeat' first
    | with_reducible assumption | intro _ | with_reducible refine State.done_frame (Part.sub hp (by decide)) ?_
    | with_reducible refine State.hostWrite_frame (Part.sub hp (by decide)) ?_ | with_reducible refine State.refuse_frame (Part.sub hp (by decide)) ?_
    | with_reducible apply Part.ite | split

theorem execOvmResultRead_frame {pt : Part} {dt : Nat} {h : HostRef} {intent host avail : Nat} {s : State} (hp : pt ∉ [Part.clock, Part.regs, Part.io, Part.ovm]) :
    ∃ s', execOvmResultRead dt h intent host avail s = .next s' ∧ pt.same s s' := by
  unfold execOvmResultRead
  refine ⟨_, rfl, ?_⟩
  try dsimp only
  repeat' first
    | with_reducible assumption | intro _ | with_reducible exact Part.same_refl _ _ | with_reducible refine State.command_frame (Part.sub hp (by decide)) ?_ ?_
    | with_reducible refine State.doResultRead_frame (Part.sub hp (by decide)) ?_ | with_reducible refine State.orHold_frame (Part.sub hp (by decide)) ?_ ?_
    | split

theorem execOvmDefrag_frame {pt : Part} {dt : Nat} {h : HostRef} {s : State} (hp : pt ∉ [Part.clock, Part.io, Part.ovm]) :
    ∃ s', execOvmDefrag dt h s = .next s' ∧ pt.same s s' := by
  unfold execOvmDefrag
  refine ⟨_, rfl, ?_⟩
  try dsimp only
  repeat' first
    | with_reducible assumption | intro _ | with_reducible exact Part.same_refl _ _ | with_reducible refine State.command_frame (Part.sub hp (by decide)) ?_ ?_
    | with_reducible refine State.done_frame (Part.sub hp (by decide)) ?_ | fail_if_no_progress with_reducible refine Part.same_upd ?_ ?_
    | ((with_reducible refine Part.keptIntro ?_); cases pt <;> first | exact absurd (by decide) hp | exact rfl | exact ⟨rfl, rfl⟩)

theorem State.takeMove_frame {pt : Part} {base : State} {s : State} {m : Move} (hp : pt ∉ [Part.regs, Part.io, Part.tim, Part.prt, Part.rlk, Part.frm, Part.ovm, Part.pm, Part.eng]) (hss : pt.same base s) :
    pt.same base (State.takeMove s m) := by
  unfold State.takeMove
  try dsimp only
  repeat' first
    | with_reducible assumption | intro _ | with_reducible exact Part.same_refl _ _ | with_reducible refine State.loadStep_frame (Part.sub hp (by decide)) ?_
    | with_reducible apply Part.ite | with_reducible apply Part.foldl | split | fail_if_no_progress with_reducible refine Part.same_upd ?_ ?_
    | ((with_reducible refine Part.keptIntro ?_); cases pt <;> first | exact absurd (by decide) hp | exact rfl | exact ⟨rfl, rfl⟩)

theorem State.retryMoves_frame {pt : Part} {base : State} {s : State} (hp : pt ∉ [Part.regs, Part.io, Part.tim, Part.prt, Part.rlk, Part.frm, Part.ovm, Part.pm, Part.eng]) (hss : pt.same base s) :
    pt.same base (State.retryMoves s) := by
  unfold State.retryMoves
  try dsimp only
  repeat' first
    | with_reducible assumption | intro _ | with_reducible exact Part.same_refl _ _ | with_reducible refine State.takeMove_frame (Part.sub hp (by decide)) ?_
    | with_reducible apply Part.foldl | fail_if_no_progress with_reducible refine Part.same_upd ?_ ?_
    | ((with_reducible refine Part.keptIntro ?_); cases pt <;> first | exact absurd (by decide) hp | exact rfl | exact ⟨rfl, rfl⟩)

theorem execOvmMovePlan_frame {pt : Part} {dt : Nat} {obs : OvmObs} {moves : List Move} {s : State} (hp : pt ∉ [Part.clock, Part.regs, Part.io, Part.tim, Part.prt, Part.rlk, Part.frm, Part.ovm, Part.pm, Part.eng]) :
    ∃ s', execOvmMovePlan dt obs moves s = .next s' ∧ pt.same s s' := by
  unfold execOvmMovePlan
  refine ⟨_, rfl, ?_⟩
  try dsimp only
  repeat' first
    | with_reducible assumption | intro _ | with_reducible exact Part.same_refl _ _ | with_reducible refine State.elapse_frame (Part.sub hp (by decide)) ?_
    | with_reducible refine State.takeMove_frame (Part.sub hp (by decide)) ?_ | with_reducible apply Part.ite
    | with_reducible apply Part.foldl | split | fail_if_no_progress with_reducible refine Part.same_upd ?_ ?_
    | ((with_reducible refine Part.keptIntro ?_); cases pt <;> first | exact absurd (by decide) hp | exact rfl | exact ⟨rfl, rfl⟩)

theorem State.endMove_frame {pt : Part} {base : State} {s : State} {c : Nat} (hp : pt ∉ [Part.ovm]) (hss : pt.same base s) :
    pt.same base (State.endMove s c) := by
  unfold State.endMove
  try dsimp only
  repeat' first
    | with_reducible assumption | intro _ | with_reducible exact Part.same_refl _ _ | split | fail_if_no_progress with_reducible refine Part.same_upd ?_ ?_
    | ((with_reducible refine Part.keptIntro ?_); cases pt <;> first | exact absurd (by decide) hp | exact rfl | exact ⟨rfl, rfl⟩)

theorem State.markUnusable_frame {pt : Part} {base : State} {s : State} {slice stage : Nat} (hp : pt ∉ [Part.regs, Part.io, Part.ovm]) (hss : pt.same base s) :
    pt.same base (State.markUnusable s slice stage) := by
  unfold State.markUnusable
  try dsimp only
  repeat' first
    | with_reducible assumption | intro _ | with_reducible exact Part.same_refl _ _ | with_reducible refine State.raise_frame (Part.sub hp (by decide)) ?_
    | with_reducible apply Part.ite | with_reducible apply Part.foldl | with_reducible apply Part.foldlFst
    | with_reducible apply Part.iteFst | split | fail_if_no_progress with_reducible refine Part.same_upd ?_ ?_
    | ((with_reducible refine Part.keptIntro ?_); cases pt <;> first | exact absurd (by decide) hp | exact rfl | exact ⟨rfl, rfl⟩)

theorem State.setHewers_frame {pt : Part} {base : State} {s : State} {l : List Nat} (hp : pt ∉ [Part.regs, Part.io]) (hss : pt.same base s) :
    pt.same base (State.setHewers s l) := by
  unfold State.setHewers
  try dsimp only
  repeat' first
    | with_reducible assumption | intro _ | with_reducible exact Part.same_refl _ _ | with_reducible refine State.raiseIf_frame (Part.sub hp (by decide)) ?_
    | with_reducible refine State.wr_frame (Part.sub hp (by decide)) ?_

theorem State.takeHewers_frame {pt : Part} {base : State} {s : State} {n : Nat} {bad : List Nat} (hp : pt ∉ [Part.regs, Part.io]) (hss : pt.same base s) :
    pt.same base (State.takeHewers s n bad) := by
  unfold State.takeHewers
  try dsimp only
  repeat' first
    | with_reducible assumption | intro _ | with_reducible exact Part.same_refl _ _ | with_reducible refine State.setHewers_frame (Part.sub hp (by decide)) ?_

theorem State.startOverman_frame {pt : Part} {base : State} {s : State} (hp : pt ∉ [Part.regs, Part.io]) (hss : pt.same base s) :
    pt.same base (State.startOverman s) := by
  unfold State.startOverman
  try dsimp only
  repeat' first
    | with_reducible assumption | intro _ | with_reducible exact Part.same_refl _ _ | with_reducible refine State.takeHewers_frame (Part.sub hp (by decide)) ?_
    | with_reducible refine State.wr_frame (Part.sub hp (by decide)) ?_ | with_reducible apply Part.ite
    | split

theorem execOvmEngines_frame {pt : Part} {dt : Nat} {s : State} (hp : pt ∉ [Part.clock, Part.regs, Part.io, Part.ovm]) :
    ∃ s', execOvmEngines dt s = .next s' ∧ pt.same s s' := by
  unfold execOvmEngines
  refine ⟨_, rfl, ?_⟩
  try dsimp only
  repeat' first
    | with_reducible assumption | with_reducible exact Part.same_refl _ _ | intro _ | with_reducible refine State.elapse_frame (Part.sub hp (by decide)) ?_
    | with_reducible refine State.startOverman_frame (Part.sub hp (by decide)) ?_ | with_reducible refine State.takeHewers_frame (Part.sub hp (by decide)) ?_
    | with_reducible apply Part.ite | split | fail_if_no_progress with_reducible refine Part.same_upd ?_ ?_
    | ((with_reducible refine Part.keptIntro ?_); cases pt <;> first | exact absurd (by decide) hp | exact rfl | exact ⟨rfl, rfl⟩)

theorem execUnitWakeReady_frame {pt : Part} {dt unitKind unitNo : Nat} {s : State} (hp : pt ∉ [Part.clock, Part.regs, Part.io, Part.tim, Part.prt, Part.rlk, Part.frm, Part.ovm, Part.pm, Part.eng]) :
    ∃ s', execUnitWakeReady dt unitKind unitNo s = .next s' ∧ pt.same s s' := by
  unfold execUnitWakeReady
  refine ⟨_, rfl, ?_⟩
  try dsimp only
  repeat' first
    | with_reducible assumption | intro _ | with_reducible exact Part.same_refl _ _ | with_reducible refine State.elapse_frame (Part.sub hp (by decide)) ?_
    | with_reducible refine State.laneRestart_frame (Part.sub hp (by decide)) ?_ | with_reducible refine State.retryMoves_frame (Part.sub hp (by decide)) ?_
    | with_reducible refine State.trbRestart_frame (Part.sub hp (by decide)) ?_ | with_reducible refine State.wrBit_frame (Part.sub hp (by decide)) ?_
    | with_reducible apply Part.ite | with_reducible apply Part.iteFst | fail_if_no_progress with_reducible refine Part.same_upd ?_ ?_
    | ((with_reducible refine Part.keptIntro ?_); cases pt <;> first | exact absurd (by decide) hp | exact rfl | exact ⟨rfl, rfl⟩)
    | split

end Sys2Proof.Machine
end

