-- ==== Sys2Proof/Laws/FramesMapping.lean ====
section
/-! SUPPORT. Which parts of the state the operations of Machine/Mapping.lean may change. -/

set_option Elab.async false

namespace Sys2Proof.Machine

theorem execMapPageRead_frame {pt : Part} {dt : Nat} {h : HostRef} {p : PageRead} {s : State} (hp : pt ∉ [Part.clock, Part.regs, Part.io]) :
    ∃ s', execMapPageRead dt h p s = .next s' ∧ pt.same s s' := by
  unfold execMapPageRead
  refine ⟨_, rfl, ?_⟩
  try dsimp only
  repeat' first
    | with_reducible assumption | intro _ | with_reducible exact Part.same_refl _ _ | with_reducible refine State.command_frame (Part.sub hp (by decide)) ?_ ?_
    | with_reducible refine State.count_frame (Part.sub hp (by decide)) ?_ | with_reducible refine State.done_frame (Part.sub hp (by decide)) ?_
    | with_reducible refine State.hostWrite_frame (Part.sub hp (by decide)) ?_ | with_reducible refine State.refuse_frame (Part.sub hp (by decide)) ?_
    | with_reducible apply Part.ite | split

theorem execHandover_frame {pt : Part} {dt ctx : Nat} {s : State} (hp : pt ∉ [Part.clock, Part.regs, Part.map]) :
    ∃ s', execHandover dt ctx s = .next s' ∧ pt.same s s' := by
  unfold execHandover
  refine ⟨_, rfl, ?_⟩
  try dsimp only
  repeat' first
    | with_reducible assumption | intro _ | with_reducible exact Part.same_refl _ _ | with_reducible refine State.count_frame (Part.sub hp (by decide)) ?_
    | with_reducible refine State.elapse_frame (Part.sub hp (by decide)) ?_ | with_reducible apply Part.ite
    | fail_if_no_progress with_reducible refine Part.same_upd ?_ ?_ | ((with_reducible refine Part.keptIntro ?_); cases pt <;> first | exact absurd (by decide) hp | exact rfl | exact ⟨rfl, rfl⟩)
    | split

theorem execMapRateLimit_frame {pt : Part} {dt lane : Nat} {steer : Int} {fill : Nat} {s : State} (hp : pt ∉ [Part.clock, Part.regs, Part.io, Part.map]) :
    ∃ s', execMapRateLimit dt lane steer fill s = .next s' ∧ pt.same s s' := by
  unfold execMapRateLimit
  refine ⟨_, rfl, ?_⟩
  try dsimp only
  repeat' first
    | with_reducible assumption | with_reducible exact Part.same_refl _ _ | intro _ | with_reducible refine State.count_frame (Part.sub hp (by decide)) ?_
    | with_reducible refine State.elapse_frame (Part.sub hp (by decide)) ?_ | with_reducible refine State.raise_frame (Part.sub hp (by decide)) ?_
    | with_reducible apply Part.ite | split | fail_if_no_progress with_reducible refine Part.same_upd ?_ ?_
    | ((with_reducible refine Part.keptIntro ?_); cases pt <;> first | exact absurd (by decide) hp | exact rfl | exact ⟨rfl, rfl⟩)

theorem State.discard_frame {pt : Part} {base : State} {s : State} {c : Nat} (hp : pt ∉ [Part.map]) (hss : pt.same base s) :
    pt.same base (State.discard s c) := by
  unfold State.discard
  try dsimp only
  repeat' first
    | with_reducible assumption | intro _ | with_reducible exact Part.same_refl _ _ | fail_if_no_progress with_reducible refine Part.same_upd ?_ ?_
    | ((with_reducible refine Part.keptIntro ?_); cases pt <;> first | exact absurd (by decide) hp | exact rfl | exact ⟨rfl, rfl⟩)

theorem execClientFrameRx_frame {pt : Part} {dt port : Nat} {f : ClientFrame} {s : State} (hp : pt ∉ [Part.clock, Part.regs, Part.io, Part.tim, Part.map, Part.qmg]) :
    ∃ s', execClientFrameRx dt port f s = .next s' ∧ pt.same s s' := by
  unfold execClientFrameRx
  refine ⟨_, rfl, ?_⟩
  try dsimp only
  repeat' first
    | with_reducible assumption | intro _ | with_reducible exact Part.same_refl _ _ | with_reducible refine State.acceptLaneQl_frame (Part.sub hp (by decide)) ?_
    | with_reducible refine State.count_frame (Part.sub hp (by decide)) ?_ | with_reducible refine State.discard_frame (Part.sub hp (by decide)) ?_
    | with_reducible refine State.elapse_frame (Part.sub hp (by decide)) ?_ | with_reducible refine State.raiseFirst_frame (Part.sub hp (by decide)) ?_
    | with_reducible refine State.writeQueue_frame (Part.sub hp (by decide)) ?_ | with_reducible apply Part.ite
    | split | fail_if_no_progress with_reducible refine Part.same_upd ?_ ?_ | ((with_reducible refine Part.keptIntro ?_); cases pt <;> first | exact absurd (by decide) hp | exact rfl | exact ⟨rfl, rfl⟩)

theorem State.setGfp_frame {pt : Part} {base : State} {s : State} {c : Nat} {g : GfpSt} (hp : pt ∉ [Part.map]) (hss : pt.same base s) :
    pt.same base (State.setGfp s c g) := by
  unfold State.setGfp
  try dsimp only
  repeat' first
    | with_reducible assumption | intro _ | fail_if_no_progress with_reducible refine Part.same_upd ?_ ?_
    | ((with_reducible refine Part.keptIntro ?_); cases pt <;> first | exact absurd (by decide) hp | exact rfl | exact ⟨rfl, rfl⟩)

theorem State.loseGfp_frame {pt : Part} {base : State} {s : State} {c : Nat} (hp : pt ∉ [Part.map]) (hss : pt.same base s) :
    pt.same base (State.loseGfp s c) := by
  unfold State.loseGfp
  try dsimp only
  repeat' first
    | with_reducible assumption | intro _ | with_reducible refine State.setGfp_frame (Part.sub hp (by decide)) ?_

theorem State.setCmf_frame {pt : Part} {base : State} {s : State} {c upi : Nat} (hp : pt ∉ [Part.io, Part.map, Part.pm]) (hss : pt.same base s) :
    pt.same base (State.setCmf s c upi) := by
  unfold State.setCmf
  try dsimp only
  repeat' first
    | with_reducible assumption | intro _ | with_reducible exact Part.same_refl _ _ | with_reducible refine State.pmDefect_frame (Part.sub hp (by decide)) ?_
    | with_reducible refine State.raise_frame (Part.sub hp (by decide)) ?_ | with_reducible refine State.setGfp_frame (Part.sub hp (by decide)) ?_
    | with_reducible apply Part.ite | with_reducible apply Part.foldl | with_reducible apply Part.foldlFst
    | with_reducible apply Part.iteFst | split

theorem State.takeGfp_frame {pt : Part} {base : State} {s : State} {c pli : Nat} {f : GfpFrame} (hp : pt ∉ [Part.io, Part.map, Part.pm]) (hss : pt.same base s) :
    pt.same base (State.takeGfp s c pli f) := by
  unfold State.takeGfp
  try dsimp only
  repeat' first
    | with_reducible assumption | intro _ | with_reducible refine State.discard_frame (Part.sub hp (by decide)) ?_
    | with_reducible refine State.loseGfp_frame (Part.sub hp (by decide)) ?_ | with_reducible refine State.setCmf_frame (Part.sub hp (by decide)) ?_
    | with_reducible apply Part.ite | split

theorem execGfpFrameRx_frame {pt : Part} {dt ctx : Nat} {f : GfpFrame} {s : State} (hp : pt ∉ [Part.clock, Part.regs, Part.io, Part.map, Part.pm]) :
    ∃ s', execGfpFrameRx dt ctx f s = .next s' ∧ pt.same s s' := by
  unfold execGfpFrameRx
  refine ⟨_, rfl, ?_⟩
  try dsimp only
  repeat' first
    | with_reducible assumption | with_reducible exact Part.same_refl _ _ | intro _ | with_reducible refine State.count_frame (Part.sub hp (by decide)) ?_
    | with_reducible refine State.elapse_frame (Part.sub hp (by decide)) ?_ | with_reducible refine State.loseGfp_frame (Part.sub hp (by decide)) ?_
    | with_reducible refine State.raise_frame (Part.sub hp (by decide)) ?_ | with_reducible refine State.setGfp_frame (Part.sub hp (by decide)) ?_
    | with_reducible refine State.takeGfp_frame (Part.sub hp (by decide)) ?_ | with_reducible apply Part.ite
    | split

theorem State.drrServe_frame {pt : Part} {base : State} {s : State} {n : Nat} (hp : pt ∉ [Part.map]) (hss : pt.same base s) {t : State} (ht : State.drrServe s n = some t) :
    pt.same base t := by
  unfold State.drrServe at ht
  try dsimp only at ht
  repeat' split at ht
  all_goals cases ht
  repeat' first
    | with_reducible assumption | intro _ | with_reducible exact Part.same_refl _ _ | with_reducible apply Part.ite
    | with_reducible apply Part.iteFst | split | fail_if_no_progress with_reducible refine Part.same_upd ?_ ?_
    | ((with_reducible refine Part.keptIntro ?_); cases pt <;> first | exact absurd (by decide) hp | exact rfl | exact ⟨rfl, rfl⟩)

theorem State.sendFlow_frame {pt : Part} {base : State} {s : State} {n : Nat} {q : QSt} (hp : pt ∉ [Part.rlk]) (hss : pt.same base s) :
    pt.same base (State.sendFlow s n q) := by
  unfold State.sendFlow
  try dsimp only
  repeat' first
    | with_reducible assumption | intro _ | with_reducible exact Part.same_refl _ _ | with_reducible refine State.sendPacket_frame (Part.sub hp (by decide)) ?_
    | with_reducible apply Part.ite | split

theorem execQueuePop_frame {pt : Part} {dt q : Nat} {s : State} (hp : pt ∉ [Part.clock, Part.regs, Part.io, Part.rlk, Part.map, Part.qmg]) :
    ∃ s', execQueuePop dt q s = .next s' ∧ pt.same s s' := by
  unfold execQueuePop
  refine ⟨_, rfl, ?_⟩
  try dsimp only
  repeat' first
    | with_reducible assumption | with_reducible exact Part.same_refl _ _ | intro _ | with_reducible refine State.copyWord_frame (Part.sub hp (by decide)) ?_
    | with_reducible refine State.drrServe_frame (Part.sub hp (by decide)) ?_ (by with_reducible assumption)
    | with_reducible refine State.elapse_frame (Part.sub hp (by decide)) ?_ | with_reducible refine State.judgeQueue_frame (Part.sub hp (by decide)) ?_
    | with_reducible refine State.sendFlow_frame (Part.sub hp (by decide)) ?_ | with_reducible refine State.setQueue_frame (Part.sub hp (by decide)) ?_
    | with_reducible apply Part.ite | split

theorem State.setHitless_frame {pt : Part} {base : State} {s : State} {c : Nat} {x : HitlessSt} (hp : pt ∉ [Part.map]) (hss : pt.same base s) :
    pt.same base (State.setHitless s c x) := by
  unfold State.setHitless
  try dsimp only
  repeat' first
    | with_reducible assumption | intro _ | fail_if_no_progress with_reducible refine Part.same_upd ?_ ?_
    | ((with_reducible refine Part.keptIntro ?_); cases pt <;> first | exact absurd (by decide) hp | exact rfl | exact ⟨rfl, rfl⟩)

theorem State.lateCopy_frame {pt : Part} {base : State} {s : State} {c l : Nat} {x : HitlessSt} {b : BlockIn} (hp : pt ∉ [Part.regs, Part.io, Part.map]) (hss : pt.same base s) :
    pt.same base (State.lateCopy s c l x b) := by
  unfold State.lateCopy
  try dsimp only
  repeat' first
    | with_reducible assumption | intro _ | with_reducible refine State.count_frame (Part.sub hp (by decide)) ?_
    | with_reducible refine State.raiseIf_frame (Part.sub hp (by decide)) ?_ | with_reducible refine State.setHitless_frame (Part.sub hp (by decide)) ?_

theorem State.ringCopy_frame {pt : Part} {base : State} {s : State} {c l : Nat} {x : HitlessSt} {b : BlockIn} (hp : pt ∉ [Part.map]) (hss : pt.same base s) :
    pt.same base (State.ringCopy s c l x b) := by
  unfold State.ringCopy
  try dsimp only
  repeat' first
    | with_reducible assumption | intro _ | with_reducible exact Part.same_refl _ _ | with_reducible refine State.setHitless_frame (Part.sub hp (by decide)) ?_
    | with_reducible apply Part.ite | split

theorem State.resyncGroup_frame {pt : Part} {base : State} {s : State} {c l : Nat} {x : HitlessSt} {b : BlockIn} (hp : pt ∉ [Part.io, Part.map]) (hss : pt.same base s) :
    pt.same base (State.resyncGroup s c l x b) := by
  unfold State.resyncGroup
  try dsimp only
  repeat' first
    | with_reducible assumption | intro _ | with_reducible refine State.raise_frame (Part.sub hp (by decide)) ?_
    | with_reducible refine State.ringCopy_frame (Part.sub hp (by decide)) ?_

theorem State.outCopy_frame {pt : Part} {base : State} {s : State} {c l : Nat} {x : HitlessSt} {b : BlockIn} (hp : pt ∉ [Part.io, Part.map]) (hss : pt.same base s) :
    pt.same base (State.outCopy s c l x b) := by
  unfold State.outCopy
  try dsimp only
  repeat' first
    | with_reducible assumption | intro _ | with_reducible refine State.resyncGroup_frame (Part.sub hp (by decide)) ?_
    | with_reducible refine State.setHitless_frame (Part.sub hp (by decide)) ?_ | with_reducible apply Part.ite
    | split

theorem State.streamBad_frame {pt : Part} {base : State} {s : State} {c : Nat} (hp : pt ∉ [Part.regs, Part.io]) (hss : pt.same base s) :
    pt.same base (State.streamBad s c) := by
  unfold State.streamBad
  try dsimp only
  repeat' first
    | with_reducible assumption | intro _ | with_reducible exact Part.same_refl _ _ | with_reducible refine State.count_frame (Part.sub hp (by decide)) ?_
    | with_reducible refine State.raiseOnce_frame (Part.sub hp (by decide)) ?_

theorem execCarriageBlockRx_frame {pt : Part} {dt ctx leg : Nat} {blk : CarriageBlock} {s : State} (hp : pt ∉ [Part.clock, Part.regs, Part.io, Part.map]) :
    ∃ s', execCarriageBlockRx dt ctx leg blk s = .next s' ∧ pt.same s s' := by
  unfold execCarriageBlockRx
  refine ⟨_, rfl, ?_⟩
  try dsimp only
  repeat' first
    | with_reducible assumption | with_reducible exact Part.same_refl _ _ | intro _ | with_reducible refine State.elapse_frame (Part.sub hp (by decide)) ?_
    | with_reducible refine State.lateCopy_frame (Part.sub hp (by decide)) ?_ | with_reducible refine State.outCopy_frame (Part.sub hp (by decide)) ?_
    | with_reducible refine State.ringCopy_frame (Part.sub hp (by decide)) ?_ | with_reducible refine State.streamBad_frame (Part.sub hp (by decide)) ?_
    | with_reducible apply Part.ite | split

theorem execDdPlayout_frame {pt : Part} {dt ctx : Nat} {s : State} (hp : pt ∉ [Part.clock, Part.map]) :
    ∃ s', execDdPlayout dt ctx s = .next s' ∧ pt.same s s' := by
  unfold execDdPlayout
  refine ⟨_, rfl, ?_⟩
  try dsimp only
  repeat' first
    | with_reducible assumption | intro _ | with_reducible exact Part.same_refl _ _ | with_reducible refine State.elapse_frame (Part.sub hp (by decide)) ?_
    | with_reducible refine State.setHitless_frame (Part.sub hp (by decide)) ?_ | with_reducible apply Part.foldl
    | split

theorem State.doDdStatus_frame {pt : Part} {base : State} {s : State} {h : HostRef} {ctx host : Nat} (hp : pt ∉ [Part.clock, Part.io]) (hss : pt.same base s) :
    pt.same base (State.doDdStatus s h ctx host) := by
  unfold State.doDdStatus
  try dsimp only
  repeat' first
    | with_reducible assumption | intro _ | with_reducible refine State.done_frame (Part.sub hp (by decide)) ?_
    | with_reducible refine State.hostWrite_frame (Part.sub hp (by decide)) ?_ | with_reducible refine State.refuse_frame (Part.sub hp (by decide)) ?_
    | with_reducible refine State.waitAddr_frame (Part.sub hp (by decide)) ?_ | with_reducible apply Part.ite
    | split

theorem execMapDdStatus_frame {pt : Part} {dt : Nat} {h : HostRef} {ctx host : Nat} {s : State} (hp : pt ∉ [Part.clock, Part.regs, Part.io, Part.ovm]) :
    ∃ s', execMapDdStatus dt h ctx host s = .next s' ∧ pt.same s s' := by
  unfold execMapDdStatus
  refine ⟨_, rfl, ?_⟩
  try dsimp only
  repeat' first
    | with_reducible assumption | intro _ | with_reducible exact Part.same_refl _ _ | with_reducible refine State.command_frame (Part.sub hp (by decide)) ?_ ?_
    | with_reducible refine State.doDdStatus_frame (Part.sub hp (by decide)) ?_ | with_reducible refine State.orHold_frame (Part.sub hp (by decide)) ?_ ?_

end Sys2Proof.Machine
end

