-- ==== Sys2Proof/Laws/FramesCipher.lean ====
section
/-! SUPPORT. Which parts of the state the operations of Machine/Cipher.lean may change. -/

set_option Elab.async false

namespace Sys2Proof.Machine

theorem State.say_frame {pt : Part} {base : State} {s : State} {caused : Bool} {code src : Nat} {det : List (Nat × Nat)} (hp : pt ∉ [Part.io]) (hss : pt.same base s) :
    pt.same base (State.say s caused code src det) := by
  unfold State.say
  try dsimp only
  repeat' first
    | with_reducible assumption | intro _ | with_reducible refine State.raise_frame (Part.sub hp (by decide)) ?_
    | with_reducible refine State.raiseC_frame (Part.sub hp (by decide)) ?_ | with_reducible apply Part.ite
    | split

theorem State.sendFwd_frame {pt : Part} {base : State} {s : State} {f : Fwd} (hp : pt ∉ [Part.par]) (hss : pt.same base s) :
    pt.same base (State.sendFwd s f) := by
  unfold State.sendFwd
  try dsimp only
  repeat' first
    | with_reducible assumption | intro _ | with_reducible refine State.send_frame (Part.sub hp (by decide)) ?_
    | with_reducible apply Part.ite | split

theorem State.extend_frame {pt : Part} {base : State} {s : State} {i : Nat} {d : Nat} (hp : pt ∉ [Part.sec]) (hss : pt.same base s) :
    pt.same base (State.extend s i d) := by
  unfold State.extend
  try dsimp only
  repeat' first
    | with_reducible assumption | intro _ | fail_if_no_progress with_reducible refine Part.same_upd ?_ ?_
    | ((with_reducible refine Part.keptIntro ?_); cases pt <;> first | exact absurd (by decide) hp | exact rfl | exact ⟨rfl, rfl⟩)

theorem State.dropNonce_frame {pt : Part} {base : State} {s : State} (hp : pt ∉ [Part.regs]) (hss : pt.same base s) :
    pt.same base (State.dropNonce s) := by
  unfold State.dropNonce
  try dsimp only
  repeat' first
    | with_reducible assumption | intro _ | with_reducible exact Part.same_refl _ _ | with_reducible refine State.wr_frame (Part.sub hp (by decide)) ?_
    | with_reducible refine State.wrBit_frame (Part.sub hp (by decide)) ?_ | with_reducible apply Part.foldl

theorem State.checkEnvelope_frame {pt : Part} {base : State} {s : State} {op : Nat} {fresh caused : Bool} {e : List Nat} (hp : pt ∉ [Part.regs, Part.io, Part.sec]) (hss : pt.same base s) :
    pt.same base (State.checkEnvelope s op fresh caused e).1 := by
  unfold State.checkEnvelope
  try dsimp only
  repeat' first
    | with_reducible assumption | intro _ | with_reducible refine State.count_frame (Part.sub hp (by decide)) ?_
    | with_reducible refine State.dropNonce_frame (Part.sub hp (by decide)) ?_ | with_reducible refine State.extend_frame (Part.sub hp (by decide)) ?_
    | with_reducible refine State.say_frame (Part.sub hp (by decide)) ?_ | with_reducible apply Part.ite
    | with_reducible apply Part.iteFst | split

theorem State.checkEnvelope_frameAs {pt : Part} {base : State} {s : State} {op : Nat} {fresh caused : Bool} {e : List Nat} (hp : pt ∉ [Part.regs, Part.io, Part.sec]) (hss : pt.same base s) {t : State} {y : Except Nat (List Nat)}
    (h : State.checkEnvelope s op fresh caused e = (t, y)) : pt.same base t := by
  have k : pt.same base (State.checkEnvelope s op fresh caused e).1 := State.checkEnvelope_frame hp hss
  rw [h] at k
  exact k

theorem State.slotRegs_frame {pt : Part} {base : State} {s : State} (hp : pt ∉ [Part.regs]) (hss : pt.same base s) :
    pt.same base (State.slotRegs s) := by
  unfold State.slotRegs
  try dsimp only
  repeat' first
    | with_reducible assumption | intro _ | with_reducible exact Part.same_refl _ _ | with_reducible refine State.wr_frame (Part.sub hp (by decide)) ?_

theorem State.setSlot_frame {pt : Part} {base : State} {s : State} {k : Nat} {x : KeySlot} (hp : pt ∉ [Part.regs, Part.cip]) (hss : pt.same base s) :
    pt.same base (State.setSlot s k x) := by
  unfold State.setSlot
  try dsimp only
  repeat' first
    | with_reducible assumption | intro _ | with_reducible refine State.slotRegs_frame (Part.sub hp (by decide)) ?_
    | fail_if_no_progress with_reducible refine Part.same_upd ?_ ?_ | ((with_reducible refine Part.keptIntro ?_); cases pt <;> first | exact absurd (by decide) hp | exact rfl | exact ⟨rfl, rfl⟩)

theorem State.cipRegs_frame {pt : Part} {base : State} {s : State} (hp : pt ∉ [Part.regs]) (hss : pt.same base s) :
    pt.same base (State.cipRegs s) := by
  unfold State.cipRegs
  try dsimp only
  repeat' first
    | with_reducible assumption | intro _ | with_reducible exact Part.same_refl _ _ | with_reducible refine State.wr_frame (Part.sub hp (by decide)) ?_

theorem State.setCip_frame {pt : Part} {base : State} {s : State} {c : Nat} {x : CipCtx} (hp : pt ∉ [Part.regs, Part.cip]) (hss : pt.same base s) :
    pt.same base (State.setCip s c x) := by
  unfold State.setCip
  try dsimp only
  repeat' first
    | with_reducible assumption | intro _ | with_reducible refine State.cipRegs_frame (Part.sub hp (by decide)) ?_
    | fail_if_no_progress with_reducible refine Part.same_upd ?_ ?_ | ((with_reducible refine Part.keptIntro ?_); cases pt <;> first | exact absurd (by decide) hp | exact rfl | exact ⟨rfl, rfl⟩)

theorem State.busyRegs_frame {pt : Part} {base : State} {s : State} (hp : pt ∉ [Part.regs]) (hss : pt.same base s) :
    pt.same base (State.busyRegs s) := by
  unfold State.busyRegs
  try dsimp only
  repeat' first
    | with_reducible assumption | intro _ | with_reducible exact Part.same_refl _ _ | with_reducible refine State.wr_frame (Part.sub hp (by decide)) ?_

theorem State.wantKey_frame {pt : Part} {base : State} {s : State} {c dir e deadline : Nat} (hp : pt ∉ [Part.regs, Part.cip]) (hss : pt.same base s) :
    pt.same base (State.wantKey s c dir e deadline) := by
  unfold State.wantKey
  try dsimp only
  repeat' first
    | with_reducible assumption | intro _ | with_reducible exact Part.same_refl _ _ | with_reducible refine State.busyRegs_frame (Part.sub hp (by decide)) ?_
    | fail_if_no_progress with_reducible refine Part.same_upd ?_ ?_ | ((with_reducible refine Part.keptIntro ?_); cases pt <;> first | exact absurd (by decide) hp | exact rfl | exact ⟨rfl, rfl⟩)

theorem State.wantKeys_frame {pt : Part} {base : State} {s : State} {c dir e deadline : Nat} (hp : pt ∉ [Part.regs, Part.cip]) (hss : pt.same base s) :
    pt.same base (State.wantKeys s c dir e deadline) := by
  unfold State.wantKeys
  try dsimp only
  repeat' first
    | with_reducible assumption | intro _ | with_reducible refine State.wantKey_frame (Part.sub hp (by decide)) ?_

theorem State.needKey_frame {pt : Part} {base : State} {s : State} {c dir e deadline : Nat} (hp : pt ∉ [Part.regs, Part.cip]) (hss : pt.same base s) :
    pt.same base (State.needKey s c dir e deadline) := by
  unfold State.needKey
  try dsimp only
  repeat' first
    | with_reducible assumption | intro _ | with_reducible refine State.wantKey_frame (Part.sub hp (by decide)) ?_
    | with_reducible apply Part.ite | split

theorem State.renewKey_frame {pt : Part} {base : State} {s : State} {c dir e : Nat} (hp : pt ∉ [Part.regs, Part.cip]) (hss : pt.same base s) :
    pt.same base (State.renewKey s c dir e) := by
  unfold State.renewKey
  try dsimp only
  repeat' first
    | with_reducible assumption | intro _ | with_reducible exact Part.same_refl _ _ | with_reducible refine State.setCip_frame (Part.sub hp (by decide)) ?_
    | with_reducible refine State.wantKey_frame (Part.sub hp (by decide)) ?_ | with_reducible apply Part.ite
    | split

theorem State.markUsed_frame {pt : Part} {base : State} {s : State} {k e : Nat} (hp : pt ∉ [Part.regs, Part.cip]) (hss : pt.same base s) :
    pt.same base (State.markUsed s k e) := by
  unfold State.markUsed
  try dsimp only
  repeat' first
    | with_reducible assumption | intro _ | with_reducible refine State.setSlot_frame (Part.sub hp (by decide)) ?_
    | with_reducible apply Part.ite | split

theorem State.stopDir_frame {pt : Part} {base : State} {s : State} {c dir cause : Nat} (hp : pt ∉ [Part.regs, Part.io, Part.cip]) (hss : pt.same base s) :
    pt.same base (State.stopDir s c dir cause) := by
  unfold State.stopDir
  try dsimp only
  repeat' first
    | with_reducible assumption | intro _ | with_reducible refine State.raise_frame (Part.sub hp (by decide)) ?_
    | with_reducible refine State.setCip_frame (Part.sub hp (by decide)) ?_ | with_reducible apply Part.ite
    | split

theorem State.resumeDir_frame {pt : Part} {base : State} {s : State} {c dir : Nat} (hp : pt ∉ [Part.regs, Part.io, Part.cip]) (hss : pt.same base s) :
    pt.same base (State.resumeDir s c dir) := by
  unfold State.resumeDir
  try dsimp only
  repeat' first
    | with_reducible assumption | intro _ | with_reducible refine State.raise_frame (Part.sub hp (by decide)) ?_
    | with_reducible refine State.setCip_frame (Part.sub hp (by decide)) ?_ | with_reducible apply Part.ite
    | split

theorem State.placeCipher_frame {pt : Part} {base : State} {s : State} {c slot epoch : Nat} {joins : Bool} (hp : pt ∉ [Part.regs, Part.io, Part.cip]) (hss : pt.same base s) :
    pt.same base (State.placeCipher s c slot epoch joins) := by
  unfold State.placeCipher
  try dsimp only
  repeat' first
    | with_reducible assumption | intro _ | with_reducible refine State.markUsed_frame (Part.sub hp (by decide)) ?_
    | with_reducible refine State.setCip_frame (Part.sub hp (by decide)) ?_ | with_reducible refine State.stopDir_frame (Part.sub hp (by decide)) ?_
    | with_reducible refine State.wantKeys_frame (Part.sub hp (by decide)) ?_ | with_reducible apply Part.ite
    | split

theorem State.endFlip_frame {pt : Part} {base : State} {s : State} {c : Nat} {sent : Bool} (hp : pt ∉ [Part.io, Part.cip]) (hss : pt.same base s) :
    pt.same base (State.endFlip s c sent) := by
  unfold State.endFlip
  try dsimp only
  repeat' first
    | with_reducible assumption | intro _ | with_reducible exact Part.same_refl _ _ | with_reducible refine State.raise_frame (Part.sub hp (by decide)) ?_
    | with_reducible apply Part.ite | with_reducible apply Part.foldl | fail_if_no_progress with_reducible refine Part.same_upd ?_ ?_
    | ((with_reducible refine Part.keptIntro ?_); cases pt <;> first | exact absurd (by decide) hp | exact rfl | exact ⟨rfl, rfl⟩)
    | split

theorem State.dropCipher_frame {pt : Part} {base : State} {s : State} {c : Nat} (hp : pt ∉ [Part.regs, Part.io, Part.cip]) (hss : pt.same base s) :
    pt.same base (State.dropCipher s c) := by
  unfold State.dropCipher
  try dsimp only
  repeat' first
    | with_reducible assumption | intro _ | with_reducible exact Part.same_refl _ _ | with_reducible refine State.busyRegs_frame (Part.sub hp (by decide)) ?_
    | with_reducible refine State.cipRegs_frame (Part.sub hp (by decide)) ?_ | with_reducible refine State.endFlip_frame (Part.sub hp (by decide)) ?_
    | fail_if_no_progress with_reducible refine Part.same_upd ?_ ?_ | ((with_reducible refine Part.keptIntro ?_); cases pt <;> first | exact absurd (by decide) hp | exact rfl | exact ⟨rfl, rfl⟩)

theorem State.deriveAgain_frame {pt : Part} {base : State} {s : State} {k i c : Nat} {x : CipCtx} (hp : pt ∉ [Part.regs, Part.cip]) (hss : pt.same base s) :
    pt.same base (State.deriveAgain s k i c x) := by
  unfold State.deriveAgain
  try dsimp only
  repeat' first
    | with_reducible assumption | intro _ | with_reducible refine State.renewKey_frame (Part.sub hp (by decide)) ?_
    | with_reducible apply Part.ite | split

theorem State.loadKey_frame {pt : Part} {base : State} {s : State} {k fromEpoch peer key : Nat} {caused : Bool} (hp : pt ∉ [Part.regs, Part.io, Part.cip]) (hss : pt.same base s) :
    pt.same base (State.loadKey s k fromEpoch peer key caused) := by
  unfold State.loadKey
  try dsimp only
  repeat' first
    | with_reducible assumption | intro _ | with_reducible exact Part.same_refl _ _ | with_reducible refine State.deriveAgain_frame (Part.sub hp (by decide)) ?_
    | with_reducible refine State.say_frame (Part.sub hp (by decide)) ?_ | with_reducible refine State.setSlot_frame (Part.sub hp (by decide)) ?_
    | with_reducible apply Part.ite | with_reducible apply Part.foldl | with_reducible apply Part.foldlFst
    | with_reducible apply Part.iteFst | split

theorem State.finishErase_frame {pt : Part} {base : State} {s : State} {k : Nat} {caused : Bool} (hp : pt ∉ [Part.regs, Part.io, Part.cip]) (hss : pt.same base s) :
    pt.same base (State.finishErase s k caused) := by
  unfold State.finishErase
  try dsimp only
  repeat' first
    | with_reducible assumption | intro _ | with_reducible exact Part.same_refl _ _ | with_reducible refine State.busyRegs_frame (Part.sub hp (by decide)) ?_
    | with_reducible refine State.say_frame (Part.sub hp (by decide)) ?_ | with_reducible refine State.slotRegs_frame (Part.sub hp (by decide)) ?_
    | with_reducible apply Part.ite | with_reducible apply Part.foldl | with_reducible apply Part.foldlFst
    | with_reducible apply Part.iteFst | split | fail_if_no_progress with_reducible refine Part.same_upd ?_ ?_
    | ((with_reducible refine Part.keptIntro ?_); cases pt <;> first | exact absurd (by decide) hp | exact rfl | exact ⟨rfl, rfl⟩)

theorem State.eraseSlot_frame {pt : Part} {base : State} {s : State} {k : Nat} {caused : Bool} (hp : pt ∉ [Part.regs, Part.io, Part.cip]) (hss : pt.same base s) :
    pt.same base (State.eraseSlot s k caused) := by
  unfold State.eraseSlot
  try dsimp only
  repeat' first
    | with_reducible assumption | intro _ | with_reducible exact Part.same_refl _ _ | with_reducible refine State.finishErase_frame (Part.sub hp (by decide)) ?_
    | with_reducible refine State.setSlot_frame (Part.sub hp (by decide)) ?_ | with_reducible apply Part.ite
    | with_reducible apply Part.foldl | split

theorem State.eraseAll_frame {pt : Part} {base : State} {s : State} {caused : Bool} (hp : pt ∉ [Part.regs, Part.io, Part.cip]) (hss : pt.same base s) :
    pt.same base (State.eraseAll s caused) := by
  unfold State.eraseAll
  try dsimp only
  repeat' first
    | with_reducible assumption | intro _ | with_reducible exact Part.same_refl _ _ | with_reducible refine State.eraseSlot_frame (Part.sub hp (by decide)) ?_
    | with_reducible apply Part.foldl | with_reducible apply Part.foldlFst | with_reducible apply Part.iteFst

theorem State.doRootLoad_frame {pt : Part} {base : State} {s : State} {e : List Nat} {forwarded : Bool} (hp : pt ∉ [Part.regs, Part.io, Part.cip, Part.par, Part.sec]) (hss : pt.same base s) :
    pt.same base (State.doRootLoad s e forwarded).1 := by
  unfold State.doRootLoad
  try dsimp only
  repeat' first
    | with_reducible assumption | intro _ | with_reducible refine State.checkEnvelope_frameAs (Part.sub hp (by decide)) ?_ (by with_reducible assumption)
    | with_reducible refine State.checkEnvelope_frame (Part.sub hp (by decide)) ?_ | with_reducible refine State.loadKey_frame (Part.sub hp (by decide)) ?_
    | with_reducible refine State.sendFwd_frame (Part.sub hp (by decide)) ?_ | with_reducible apply Part.ite
    | with_reducible apply Part.iteFst | split

theorem State.doRootLoad_frameAs {pt : Part} {base : State} {s : State} {e : List Nat} {forwarded : Bool} (hp : pt ∉ [Part.regs, Part.io, Part.cip, Part.par, Part.sec]) (hss : pt.same base s) {t : State} {y : Nat}
    (h : State.doRootLoad s e forwarded = (t, y)) : pt.same base t := by
  have k : pt.same base (State.doRootLoad s e forwarded).1 := State.doRootLoad_frame hp hss
  rw [h] at k
  exact k

theorem State.doKeyErase_frame {pt : Part} {base : State} {s : State} {e : List Nat} {forwarded : Bool} (hp : pt ∉ [Part.regs, Part.io, Part.cip, Part.par, Part.sec]) (hss : pt.same base s) :
    pt.same base (State.doKeyErase s e forwarded).1 := by
  unfold State.doKeyErase
  try dsimp only
  repeat' first
    | with_reducible assumption | intro _ | with_reducible refine State.checkEnvelope_frameAs (Part.sub hp (by decide)) ?_ (by with_reducible assumption)
    | with_reducible refine State.checkEnvelope_frame (Part.sub hp (by decide)) ?_ | with_reducible refine State.eraseSlot_frame (Part.sub hp (by decide)) ?_
    | with_reducible refine State.sendFwd_frame (Part.sub hp (by decide)) ?_ | with_reducible apply Part.ite
    | with_reducible apply Part.iteFst | split

theorem State.doKeyErase_frameAs {pt : Part} {base : State} {s : State} {e : List Nat} {forwarded : Bool} (hp : pt ∉ [Part.regs, Part.io, Part.cip, Part.par, Part.sec]) (hss : pt.same base s) {t : State} {y : Nat}
    (h : State.doKeyErase s e forwarded = (t, y)) : pt.same base t := by
  have k : pt.same base (State.doKeyErase s e forwarded).1 := State.doKeyErase_frame hp hss
  rw [h] at k
  exact k

theorem State.doWrapLoad_frame {pt : Part} {base : State} {s : State} {p : WrapLoad} {forwarded : Bool} (hp : pt ∉ [Part.regs, Part.io, Part.cip, Part.par]) (hss : pt.same base s) :
    pt.same base (State.doWrapLoad s p forwarded).1 := by
  unfold State.doWrapLoad
  try dsimp only
  repeat' first
    | with_reducible assumption | intro _ | with_reducible exact Part.same_refl _ _ | with_reducible refine State.loadKey_frame (Part.sub hp (by decide)) ?_
    | with_reducible refine State.sendFwd_frame (Part.sub hp (by decide)) ?_ | with_reducible apply Part.ite
    | with_reducible apply Part.iteFst | split

theorem State.doWrapLoad_frameAs {pt : Part} {base : State} {s : State} {p : WrapLoad} {forwarded : Bool} (hp : pt ∉ [Part.regs, Part.io, Part.cip, Part.par]) (hss : pt.same base s) {t : State} {y : Nat}
    (h : State.doWrapLoad s p forwarded = (t, y)) : pt.same base t := by
  have k : pt.same base (State.doWrapLoad s p forwarded).1 := State.doWrapLoad_frame hp hss
  rw [h] at k
  exact k

theorem State.finish_frame {pt : Part} {base : State} {h : HostRef} {op : Nat} {r : State × Nat} (hp : pt ∉ [Part.io])
    (hss : pt.same base r.1) : pt.same base (State.finish h op r) := by
  unfold State.finish
  split
  · exact State.done_frame (Part.sub hp (by decide)) hss
  · exact State.refuse_frame (Part.sub hp (by decide)) hss

theorem execCipRootLoad_frame {pt : Part} {dt : Nat} {h : HostRef} {e : List Nat} {s : State} (hp : pt ∉ [Part.clock, Part.regs, Part.io, Part.cip, Part.par, Part.sec]) :
    ∃ s', execCipRootLoad dt h e s = .next s' ∧ pt.same s s' := by
  unfold execCipRootLoad
  refine ⟨_, rfl, ?_⟩
  try dsimp only
  repeat' first
    | with_reducible assumption | intro _ | with_reducible exact Part.same_refl _ _ | with_reducible refine State.command_frame (Part.sub hp (by decide)) ?_ ?_
    | with_reducible refine State.doRootLoad_frameAs (Part.sub hp (by decide)) ?_ (by with_reducible assumption)
    | with_reducible refine State.doRootLoad_frame (Part.sub hp (by decide)) ?_ | with_reducible refine State.finish_frame (Part.sub hp (by decide)) ?_

theorem execCipKeyErase_frame {pt : Part} {dt : Nat} {h : HostRef} {e : List Nat} {s : State} (hp : pt ∉ [Part.clock, Part.regs, Part.io, Part.cip, Part.par, Part.sec]) :
    ∃ s', execCipKeyErase dt h e s = .next s' ∧ pt.same s s' := by
  unfold execCipKeyErase
  refine ⟨_, rfl, ?_⟩
  try dsimp only
  repeat' first
    | with_reducible assumption | intro _ | with_reducible exact Part.same_refl _ _ | with_reducible refine State.command_frame (Part.sub hp (by decide)) ?_ ?_
    | with_reducible refine State.doKeyErase_frameAs (Part.sub hp (by decide)) ?_ (by with_reducible assumption)
    | with_reducible refine State.doKeyErase_frame (Part.sub hp (by decide)) ?_ | with_reducible refine State.finish_frame (Part.sub hp (by decide)) ?_

theorem execCipWrapLoad_frame {pt : Part} {dt : Nat} {h : HostRef} {p : WrapLoad} {s : State} (hp : pt ∉ [Part.clock, Part.regs, Part.io, Part.cip, Part.par]) :
    ∃ s', execCipWrapLoad dt h p s = .next s' ∧ pt.same s s' := by
  unfold execCipWrapLoad
  refine ⟨_, rfl, ?_⟩
  try dsimp only
  repeat' first
    | with_reducible assumption | intro _ | with_reducible exact Part.same_refl _ _ | with_reducible refine State.command_frame (Part.sub hp (by decide)) ?_ ?_
    | with_reducible refine State.doWrapLoad_frameAs (Part.sub hp (by decide)) ?_ (by with_reducible assumption)
    | with_reducible refine State.doWrapLoad_frame (Part.sub hp (by decide)) ?_ | with_reducible refine State.finish_frame (Part.sub hp (by decide)) ?_

theorem State.reserve_frame {pt : Part} {base : State} {s : State} {e : Nat} {stored caused : Bool} (hp : pt ∉ [Part.regs, Part.io, Part.cip]) (hss : pt.same base s) :
    pt.same base (State.reserve s e stored caused) := by
  unfold State.reserve
  try dsimp only
  repeat' first
    | with_reducible assumption | intro _ | with_reducible refine State.say_frame (Part.sub hp (by decide)) ?_
    | with_reducible refine State.wr_frame (Part.sub hp (by decide)) ?_ | with_reducible apply Part.ite
    | fail_if_no_progress with_reducible refine Part.same_upd ?_ ?_ | ((with_reducible refine Part.keptIntro ?_); cases pt <;> first | exact absurd (by decide) hp | exact rfl | exact ⟨rfl, rfl⟩)
    | split

theorem execEpochReservation_frame {pt : Part} {dt : Nat} {stored : Bool} {s : State} (hp : pt ∉ [Part.clock, Part.regs, Part.io, Part.cip]) :
    ∃ s', execEpochReservation dt stored s = .next s' ∧ pt.same s s' := by
  unfold execEpochReservation
  refine ⟨_, rfl, ?_⟩
  try dsimp only
  repeat' first
    | with_reducible assumption | with_reducible exact Part.same_refl _ _ | intro _ | with_reducible refine State.elapse_frame (Part.sub hp (by decide)) ?_
    | with_reducible refine State.reserve_frame (Part.sub hp (by decide)) ?_ | split

theorem State.scheduleFlip_frame {pt : Part} {base : State} {s : State} {p : EpochFlip} {l : List (Nat × Nat)} (hp : pt ∉ [Part.regs, Part.shf, Part.cip]) (hss : pt.same base s) :
    pt.same base (State.scheduleFlip s p l) := by
  unfold State.scheduleFlip
  try dsimp only
  repeat' first
    | with_reducible assumption | intro _ | with_reducible exact Part.same_refl _ _ | with_reducible refine State.needKey_frame (Part.sub hp (by decide)) ?_
    | with_reducible refine State.setCip_frame (Part.sub hp (by decide)) ?_ | with_reducible apply Part.ite
    | with_reducible apply Part.foldl | with_reducible apply Part.foldlFst | with_reducible apply Part.iteFst
    | split | fail_if_no_progress with_reducible refine Part.same_upd ?_ ?_ | ((with_reducible refine Part.keptIntro ?_); cases pt <;> first | exact absurd (by decide) hp | exact rfl | exact ⟨rfl, rfl⟩)

theorem State.doEpochFlip_frame {pt : Part} {base : State} {s : State} {p : EpochFlip} {stored forwarded : Bool} (hp : pt ∉ [Part.regs, Part.io, Part.shf, Part.cip, Part.par]) (hss : pt.same base s) :
    pt.same base (State.doEpochFlip s p stored forwarded).1 := by
  unfold State.doEpochFlip
  try dsimp only
  repeat' first
    | with_reducible assumption | intro _ | with_reducible exact Part.same_refl _ _ | with_reducible refine State.reserve_frame (Part.sub hp (by decide)) ?_
    | with_reducible refine State.scheduleFlip_frame (Part.sub hp (by decide)) ?_ | with_reducible refine State.sendFwd_frame (Part.sub hp (by decide)) ?_
    | with_reducible apply Part.ite | with_reducible apply Part.foldl | with_reducible apply Part.foldlFst
    | with_reducible apply Part.iteFst | split

theorem State.doEpochFlip_frameAs {pt : Part} {base : State} {s : State} {p : EpochFlip} {stored forwarded : Bool} (hp : pt ∉ [Part.regs, Part.io, Part.shf, Part.cip, Part.par]) (hss : pt.same base s) {t : State} {y : Nat}
    (h : State.doEpochFlip s p stored forwarded = (t, y)) : pt.same base t := by
  have k : pt.same base (State.doEpochFlip s p stored forwarded).1 := State.doEpochFlip_frame hp hss
  rw [h] at k
  exact k

theorem execCipEpochFlip_frame {pt : Part} {dt : Nat} {h : HostRef} {p : EpochFlip} {stored : Bool} {s : State} (hp : pt ∉ [Part.clock, Part.regs, Part.io, Part.shf, Part.cip, Part.par]) :
    ∃ s', execCipEpochFlip dt h p stored s = .next s' ∧ pt.same s s' := by
  unfold execCipEpochFlip
  refine ⟨_, rfl, ?_⟩
  try dsimp only
  repeat' first
    | with_reducible assumption | intro _ | with_reducible exact Part.same_refl _ _ | with_reducible refine State.command_frame (Part.sub hp (by decide)) ?_ ?_
    | with_reducible refine State.doEpochFlip_frameAs (Part.sub hp (by decide)) ?_ (by with_reducible assumption)
    | with_reducible refine State.doEpochFlip_frame (Part.sub hp (by decide)) ?_ | with_reducible refine State.finish_frame (Part.sub hp (by decide)) ?_

theorem State.fireFlip_frame {pt : Part} {base : State} {s : State} {f : CipFlip} (hp : pt ∉ [Part.regs, Part.cip]) (hss : pt.same base s) :
    pt.same base (State.fireFlip s f) := by
  unfold State.fireFlip
  try dsimp only
  repeat' first
    | with_reducible assumption | intro _ | with_reducible exact Part.same_refl _ _ | with_reducible refine State.setCip_frame (Part.sub hp (by decide)) ?_
    | with_reducible refine State.wr_frame (Part.sub hp (by decide)) ?_ | with_reducible apply Part.ite
    | with_reducible apply Part.foldl | with_reducible apply Part.foldlFst | with_reducible apply Part.iteFst
    | split | fail_if_no_progress with_reducible refine Part.same_upd ?_ ?_ | ((with_reducible refine Part.keptIntro ?_); cases pt <;> first | exact absurd (by decide) hp | exact rfl | exact ⟨rfl, rfl⟩)

theorem execKeyEpochFlip_frame {pt : Part} {dt : Nat} {s : State} (hp : pt ∉ [Part.clock, Part.regs, Part.shf, Part.cip]) :
    ∃ s', execKeyEpochFlip dt s = .next s' ∧ pt.same s s' := by
  unfold execKeyEpochFlip
  refine ⟨_, rfl, ?_⟩
  try dsimp only
  repeat' first
    | with_reducible assumption | intro _ | with_reducible exact Part.same_refl _ _ | with_reducible refine State.elapse_frame (Part.sub hp (by decide)) ?_
    | with_reducible refine State.fireFlip_frame (Part.sub hp (by decide)) ?_ | with_reducible refine State.waitAddr_frame (Part.sub hp (by decide)) ?_
    | with_reducible apply Part.ite | with_reducible apply Part.foldl | split | fail_if_no_progress with_reducible refine Part.same_upd ?_ ?_
    | ((with_reducible refine Part.keptIntro ?_); cases pt <;> first | exact absurd (by decide) hp | exact rfl | exact ⟨rfl, rfl⟩)

theorem State.enterEpoch_frame {pt : Part} {base : State} {s : State} {c : Nat} {x : CipCtx} (hp : pt ∉ [Part.regs, Part.io, Part.cip]) (hss : pt.same base s) :
    pt.same base (State.enterEpoch s c x) := by
  unfold State.enterEpoch
  try dsimp only
  repeat' first
    | with_reducible assumption | intro _ | with_reducible refine State.endFlip_frame (Part.sub hp (by decide)) ?_
    | with_reducible refine State.markUsed_frame (Part.sub hp (by decide)) ?_ | with_reducible refine State.resumeDir_frame (Part.sub hp (by decide)) ?_
    | with_reducible refine State.setCip_frame (Part.sub hp (by decide)) ?_ | with_reducible refine State.wantKey_frame (Part.sub hp (by decide)) ?_
    | with_reducible apply Part.ite | split

theorem State.sendBlock_frame {pt : Part} {base : State} {s : State} {c : Nat} {x : CipCtx} {before : List Nat} (hp : pt ∉ [Part.freeCtr, Part.regs, Part.io, Part.cip]) (hss : pt.same base s) :
    pt.same base (State.sendBlock s c x before) := by
  unfold State.sendBlock
  try dsimp only
  repeat' first
    | with_reducible assumption | intro _ | with_reducible refine State.draw_frame (Part.sub hp (by decide)) ?_
    | with_reducible refine State.raiseIf_frame (Part.sub hp (by decide)) ?_ | with_reducible refine State.setCip_frame (Part.sub hp (by decide)) ?_
    | with_reducible apply Part.ite | with_reducible apply Part.iteFst | split

theorem State.sendSeq_frame {pt : Part} {base : State} {s : State} {c : Nat} (hp : pt ∉ [Part.freeCtr, Part.map]) (hss : pt.same base s) :
    pt.same base (State.sendSeq s c) := by
  unfold State.sendSeq
  try dsimp only
  repeat' first
    | with_reducible assumption | intro _ | with_reducible apply Part.iteFst | fail_if_no_progress with_reducible refine Part.same_upd ?_ ?_
    | ((with_reducible refine Part.keptIntro ?_); cases pt <;> first | exact absurd (by decide) hp | exact rfl | exact ⟨rfl, rfl⟩)

theorem execSealedBlockTx_frame {pt : Part} {dt ctx : Nat} {before : List Nat} {s : State} (hp : pt ∉ [Part.clock, Part.freeCtr, Part.regs, Part.io, Part.map, Part.cip]) :
    ∃ s', execSealedBlockTx dt ctx before s = .next s' ∧ pt.same s s' := by
  unfold execSealedBlockTx
  refine ⟨_, rfl, ?_⟩
  try dsimp only
  repeat' first
    | with_reducible assumption | intro _ | with_reducible exact Part.same_refl _ _ | with_reducible refine State.elapse_frame (Part.sub hp (by decide)) ?_
    | with_reducible refine State.enterEpoch_frame (Part.sub hp (by decide)) ?_ | with_reducible refine State.sendBlock_frame (Part.sub hp (by decide)) ?_
    | with_reducible refine State.sendSeq_frame (Part.sub hp (by decide)) ?_ | with_reducible refine State.stopDir_frame (Part.sub hp (by decide)) ?_
    | with_reducible apply Part.ite | split

theorem State.forceFail_frame {pt : Part} {base : State} {s : State} {c n : Nat} (hp : pt ∉ [Part.regs, Part.io, Part.tim, Part.frm, Part.pm]) (hss : pt.same base s) :
    pt.same base (State.forceFail s c n) := by
  unfold State.forceFail
  try dsimp only
  repeat' first
    | with_reducible assumption | intro _ | with_reducible refine State.setFramer_frame (Part.sub hp (by decide)) ?_
    | with_reducible refine State.settle_frame (Part.sub hp (by decide)) ?_ | with_reducible apply Part.ite
    | split

theorem State.failBlock_frame {pt : Part} {base : State} {s : State} {c code first last frames : Nat} (hp : pt ∉ [Part.regs, Part.io, Part.cip]) (hss : pt.same base s) :
    pt.same base (State.failBlock s c code first last frames) := by
  unfold State.failBlock
  try dsimp only
  repeat' first
    | with_reducible assumption | intro _ | with_reducible refine State.count_frame (Part.sub hp (by decide)) ?_
    | with_reducible refine State.raiseLim_frame (Part.sub hp (by decide)) ?_ | with_reducible refine State.setCip_frame (Part.sub hp (by decide)) ?_
    | with_reducible apply Part.ite | split

theorem State.judgeTag_frame {pt : Part} {base : State} {s : State} {c : Nat} {f : Option Carriage} {b : SealedRx} (hp : pt ∉ [Part.regs, Part.io, Part.cip]) (hss : pt.same base s) :
    pt.same base (State.judgeTag s c f b) := by
  unfold State.judgeTag
  try dsimp only
  repeat' first
    | with_reducible assumption | intro _ | with_reducible refine State.failBlock_frame (Part.sub hp (by decide)) ?_
    | with_reducible refine State.setCip_frame (Part.sub hp (by decide)) ?_ | with_reducible apply Part.ite
    | split | fail_if_no_progress with_reducible refine Part.same_upd ?_ ?_ | ((with_reducible refine Part.keptIntro ?_); cases pt <;> first | exact absurd (by decide) hp | exact rfl | exact ⟨rfl, rfl⟩)

theorem State.takePrediction_frame {pt : Part} {base : State} {s : State} {c : Nat} {b : Carriage} {last : Nat} (hp : pt ∉ [Part.regs, Part.io, Part.cip]) (hss : pt.same base s) :
    pt.same base (State.takePrediction s c b last) := by
  unfold State.takePrediction
  try dsimp only
  repeat' first
    | with_reducible assumption | intro _ | with_reducible refine State.markUsed_frame (Part.sub hp (by decide)) ?_
    | with_reducible refine State.needKey_frame (Part.sub hp (by decide)) ?_ | with_reducible refine State.resumeDir_frame (Part.sub hp (by decide)) ?_
    | with_reducible refine State.setCip_frame (Part.sub hp (by decide)) ?_ | with_reducible refine State.stopDir_frame (Part.sub hp (by decide)) ?_
    | with_reducible apply Part.ite | split | fail_if_no_progress with_reducible refine Part.same_upd ?_ ?_
    | ((with_reducible refine Part.keptIntro ?_); cases pt <;> first | exact absurd (by decide) hp | exact rfl | exact ⟨rfl, rfl⟩)

theorem State.runBlock_frame {pt : Part} {base : State} {s : State} {c : Nat} {f : Carriage} {b : SealedRx} (hp : pt ∉ [Part.regs, Part.io, Part.cip]) (hss : pt.same base s) :
    pt.same base (State.runBlock s c f b) := by
  unfold State.runBlock
  try dsimp only
  repeat' first
    | with_reducible assumption | intro _ | with_reducible refine State.failBlock_frame (Part.sub hp (by decide)) ?_
    | with_reducible refine State.setCip_frame (Part.sub hp (by decide)) ?_ | with_reducible refine State.takePrediction_frame (Part.sub hp (by decide)) ?_
    | with_reducible apply Part.ite | split

theorem State.blindBlock_frame {pt : Part} {base : State} {s : State} {c : Nat} {b : SealedRx} (hp : pt ∉ [Part.regs, Part.io, Part.cip]) (hss : pt.same base s) :
    pt.same base (State.blindBlock s c b) := by
  unfold State.blindBlock
  try dsimp only
  repeat' first
    | with_reducible assumption | intro _ | with_reducible refine State.failBlock_frame (Part.sub hp (by decide)) ?_
    | with_reducible refine State.setCip_frame (Part.sub hp (by decide)) ?_ | with_reducible apply Part.ite
    | split

theorem State.countForced_frame {pt : Part} {base : State} {s : State} {c : Nat} (hp : pt ∉ [Part.regs, Part.cip]) (hss : pt.same base s) :
    pt.same base (State.countForced s c) := by
  unfold State.countForced
  try dsimp only
  repeat' first
    | with_reducible assumption | intro _ | with_reducible refine State.setCip_frame (Part.sub hp (by decide)) ?_
    | split

theorem execSealedBlockRx_frame {pt : Part} {dt ctx : Nat} {b : SealedRx} {s : State} (hp : pt ∉ [Part.clock, Part.regs, Part.io, Part.tim, Part.frm, Part.pm, Part.cip]) :
    ∃ s', execSealedBlockRx dt ctx b s = .next s' ∧ pt.same s s' := by
  unfold execSealedBlockRx
  refine ⟨_, rfl, ?_⟩
  try dsimp only
  repeat' first
    | with_reducible assumption | with_reducible exact Part.same_refl _ _ | intro _ | with_reducible refine State.blindBlock_frame (Part.sub hp (by decide)) ?_
    | with_reducible refine State.countForced_frame (Part.sub hp (by decide)) ?_ | with_reducible refine State.elapse_frame (Part.sub hp (by decide)) ?_
    | with_reducible refine State.forceFail_frame (Part.sub hp (by decide)) ?_ | with_reducible refine State.judgeTag_frame (Part.sub hp (by decide)) ?_
    | with_reducible refine State.runBlock_frame (Part.sub hp (by decide)) ?_ | with_reducible refine State.streamBad_frame (Part.sub hp (by decide)) ?_
    | with_reducible refine State.takePrediction_frame (Part.sub hp (by decide)) ?_ | with_reducible apply Part.ite
    | split

theorem execKeyDerived_frame {pt : Part} {dt : Nat} {s : State} (hp : pt ∉ [Part.clock, Part.regs, Part.cip]) :
    ∃ s', execKeyDerived dt s = .next s' ∧ pt.same s s' := by
  unfold execKeyDerived
  refine ⟨_, rfl, ?_⟩
  try dsimp only
  repeat' first
    | with_reducible assumption | intro _ | with_reducible exact Part.same_refl _ _ | with_reducible refine State.busyRegs_frame (Part.sub hp (by decide)) ?_
    | with_reducible refine State.count_frame (Part.sub hp (by decide)) ?_ | with_reducible refine State.elapse_frame (Part.sub hp (by decide)) ?_
    | with_reducible refine State.setCip_frame (Part.sub hp (by decide)) ?_ | with_reducible apply Part.ite
    | split | fail_if_no_progress with_reducible refine Part.same_upd ?_ ?_ | ((with_reducible refine Part.keptIntro ?_); cases pt <;> first | exact absurd (by decide) hp | exact rfl | exact ⟨rfl, rfl⟩)

theorem State.bulkRegs_frame {pt : Part} {base : State} {s : State} (hp : pt ∉ [Part.regs]) (hss : pt.same base s) :
    pt.same base (State.bulkRegs s) := by
  unfold State.bulkRegs
  try dsimp only
  repeat' first
    | with_reducible assumption | intro _ | with_reducible exact Part.same_refl _ _ | with_reducible refine State.wr_frame (Part.sub hp (by decide)) ?_
    | with_reducible apply Part.iteFst

theorem State.setPipe_frame {pt : Part} {base : State} {s : State} {p : Nat} {x : BulkPipe} (hp : pt ∉ [Part.regs, Part.cip]) (hss : pt.same base s) :
    pt.same base (State.setPipe s p x) := by
  unfold State.setPipe
  try dsimp only
  repeat' first
    | with_reducible assumption | intro _ | with_reducible refine State.bulkRegs_frame (Part.sub hp (by decide)) ?_
    | fail_if_no_progress with_reducible refine Part.same_upd ?_ ?_ | ((with_reducible refine Part.keptIntro ?_); cases pt <;> first | exact absurd (by decide) hp | exact rfl | exact ⟨rfl, rfl⟩)

theorem State.numberBulk_frame {pt : Part} {base : State} {s : State} {m : BulkMsg} (hp : pt ∉ [Part.cip]) (hss : pt.same base s) :
    pt.same base (State.numberBulk s m).1 := by
  unfold State.numberBulk
  try dsimp only
  repeat' first
    | with_reducible assumption | intro _ | with_reducible apply Part.ite | with_reducible apply Part.iteFst
    | fail_if_no_progress with_reducible refine Part.same_upd ?_ ?_ | ((with_reducible refine Part.keptIntro ?_); cases pt <;> first | exact absurd (by decide) hp | exact rfl | exact ⟨rfl, rfl⟩)
    | split

theorem State.numberBulk_frameAs {pt : Part} {base : State} {s : State} {m : BulkMsg} (hp : pt ∉ [Part.cip]) (hss : pt.same base s) {t : State} {y : BulkMsg}
    (h : State.numberBulk s m = (t, y)) : pt.same base t := by
  have k : pt.same base (State.numberBulk s m).1 := State.numberBulk_frame hp hss
  rw [h] at k
  exact k

theorem State.meetPipe_frame {pt : Part} {base : State} {s : State} {p : Nat} {r : BulkRun} (hp : pt ∉ [Part.regs, Part.cip]) (hss : pt.same base s) :
    pt.same base (State.meetPipe s p r) := by
  unfold State.meetPipe
  try dsimp only
  repeat' first
    | with_reducible assumption | intro _ | with_reducible refine State.count_frame (Part.sub hp (by decide)) ?_
    | with_reducible refine State.setPipe_frame (Part.sub hp (by decide)) ?_ | with_reducible apply Part.ite
    | split

theorem State.bulkResult_frame {pt : Part} {base : State} {s : State} {p : Nat} {m : BulkMsg} {res : Nat} (hp : pt ∉ [Part.regs, Part.io, Part.cip]) (hss : pt.same base s) :
    pt.same base (State.bulkResult s p m res) := by
  unfold State.bulkResult
  try dsimp only
  repeat' first
    | with_reducible assumption | intro _ | with_reducible refine State.count_frame (Part.sub hp (by decide)) ?_
    | with_reducible refine State.raise_frame (Part.sub hp (by decide)) ?_ | with_reducible apply Part.ite
    | fail_if_no_progress with_reducible refine Part.same_upd ?_ ?_ | ((with_reducible refine Part.keptIntro ?_); cases pt <;> first | exact absurd (by decide) hp | exact rfl | exact ⟨rfl, rfl⟩)
    | split

theorem execBulkMessage_frame {pt : Part} {dt : Nat} {m : BulkMsg} {s : State} (hp : pt ∉ [Part.clock, Part.regs, Part.io, Part.tim, Part.prt, Part.rlk, Part.frm, Part.ovm, Part.pm, Part.cip, Part.eng]) :
    ∃ s', execBulkMessage dt m s = .next s' ∧ pt.same s s' := by
  unfold execBulkMessage
  refine ⟨_, rfl, ?_⟩
  try dsimp only
  repeat' first
    | with_reducible assumption | with_reducible exact Part.same_refl _ _ | intro _ | with_reducible refine State.bulkResult_frame (Part.sub hp (by decide)) ?_
    | with_reducible refine State.elapse_frame (Part.sub hp (by decide)) ?_ | with_reducible refine State.loadStep_frame (Part.sub hp (by decide)) ?_
    | with_reducible refine State.meetPipe_frame (Part.sub hp (by decide)) ?_ | with_reducible refine State.numberBulk_frameAs (Part.sub hp (by decide)) ?_ (by with_reducible assumption)
    | with_reducible refine State.numberBulk_frame (Part.sub hp (by decide)) ?_ | with_reducible apply Part.ite
    | with_reducible apply Part.iteFst | split | fail_if_no_progress with_reducible refine Part.same_upd ?_ ?_
    | ((with_reducible refine Part.keptIntro ?_); cases pt <;> first | exact absurd (by decide) hp | exact rfl | exact ⟨rfl, rfl⟩)

theorem execBulkOpen_frame {pt : Part} {dt pipe : Nat} {s : State} (hp : pt ∉ [Part.clock, Part.regs, Part.io, Part.cip]) :
    ∃ s', execBulkOpen dt pipe s = .next s' ∧ pt.same s s' := by
  unfold execBulkOpen
  refine ⟨_, rfl, ?_⟩
  try dsimp only
  repeat' first
    | with_reducible assumption | intro _ | with_reducible exact Part.same_refl _ _ | with_reducible refine State.bulkResult_frame (Part.sub hp (by decide)) ?_
    | with_reducible refine State.elapse_frame (Part.sub hp (by decide)) ?_ | with_reducible refine State.setPipe_frame (Part.sub hp (by decide)) ?_
    | with_reducible apply Part.ite | split

end Sys2Proof.Machine
end

