-- ==== Sys2Proof/Laws/FramesSwap.lean ====
section
/-! SUPPORT. Which parts of the state the operations of Machine/Swap.lean may change. -/

set_option Elab.async false

namespace Sys2Proof.Machine

theorem State.doMapRead_frame {pt : Part} {base : State} {s : State} {h : HostRef} {ctx host : Nat} (hp : pt ∉ [Part.clock, Part.freeCtr, Part.io])
    (hss : pt.same base s) : pt.same base (State.doMapRead s h ctx host) := by
  have k (a : State) (n : Nat) (hk : pt.same base a) : pt.same base { a with freeCtr := n } :=
    Part.same_upd hk (by
      cases pt <;> first | exact absurd (by decide) hp | exact rfl | exact ⟨rfl, rfl⟩)
  unfold State.doMapRead
  split
  · exact State.refuse_frame (Part.sub hp (by decide)) hss
  · refine Part.ite (State.refuse_frame (Part.sub hp (by decide)) hss) (Part.ite (State.refuse_frame (Part.sub hp (by decide)) hss) ?_)
    exact State.done_frame (Part.sub hp (by decide)) (k _ _ (State.hostWrite_frame (Part.sub hp (by decide)) (State.waitAddr_frame (Part.sub hp (by decide)) hss)))

theorem execMapCtxRead_frame {pt : Part} {dt : Nat} {h : HostRef} {ctx host : Nat} {s : State} (hp : pt ∉ [Part.clock, Part.freeCtr, Part.regs, Part.io, Part.ovm]) :
    ∃ s', execMapCtxRead dt h ctx host s = .next s' ∧ pt.same s s' := by
  unfold execMapCtxRead
  refine ⟨_, rfl, ?_⟩
  try dsimp only
  repeat' first
    | with_reducible assumption | intro _ | with_reducible exact Part.same_refl _ _ | with_reducible refine State.command_frame (Part.sub hp (by decide)) ?_ ?_
    | with_reducible refine State.doMapRead_frame (Part.sub hp (by decide)) ?_ | with_reducible refine State.orHold_frame (Part.sub hp (by decide)) ?_ ?_

theorem State.runHeld_frame {pt : Part} {base : State} {s : State} {x : CtxCmd} (hp : pt ∉ [Part.clock, Part.freeCtr, Part.regs, Part.io, Part.frm, Part.ovm, Part.par]) (hss : pt.same base s) :
    pt.same base (State.runHeld s x) := by
  cases x <;> unfold State.runHeld <;> dsimp only
  · exact State.doCtxCfg_frame (Part.sub hp (by decide)) hss
  · exact State.doTraceSet_frame (Part.sub hp (by decide)) hss
  · exact State.doFrmRead_frame (Part.sub hp (by decide)) hss
  · exact State.doForce_frame (Part.sub hp (by decide)) hss
  · exact State.doErrInsert_frame (Part.sub hp (by decide)) hss
  · exact State.doMapRead_frame (Part.sub hp (by decide)) hss
  · exact State.doDdStatus_frame (Part.sub hp (by decide)) hss
  · exact State.doResultRead_frame (Part.sub hp (by decide)) hss
  · exact State.doWithdraw_frame (Part.sub hp (by decide)) hss
  · exact State.doPin_frame (Part.sub hp (by decide)) hss
  · exact State.doPin_frame (Part.sub hp (by decide)) hss

theorem State.releaseHeld_frame {pt : Part} {base : State} {s : State} {c : Nat} (hp : pt ∉ [Part.clock, Part.freeCtr, Part.regs, Part.io, Part.frm, Part.ovm, Part.par]) (hss : pt.same base s) :
    pt.same base (State.releaseHeld s c) := by
  unfold State.releaseHeld
  try dsimp only
  repeat' first
    | with_reducible assumption | intro _ | with_reducible exact Part.same_refl _ _ | with_reducible refine State.runHeld_frame (Part.sub hp (by decide)) ?_
    | with_reducible apply Part.foldl | with_reducible apply Part.foldlFst | with_reducible apply Part.iteFst
    | fail_if_no_progress with_reducible refine Part.same_upd ?_ ?_ | ((with_reducible refine Part.keptIntro ?_); cases pt <;> first | exact absurd (by decide) hp | exact rfl | exact ⟨rfl, rfl⟩)

theorem State.expireHold_frame {pt : Part} {base : State} {s : State} {c : Nat} (hp : pt ∉ [Part.clock, Part.freeCtr, Part.regs, Part.io, Part.frm, Part.ovm, Part.par]) (hss : pt.same base s) :
    pt.same base (State.expireHold s c) := by
  unfold State.expireHold
  try dsimp only
  repeat' first
    | with_reducible assumption | intro _ | with_reducible exact Part.same_refl _ _ | with_reducible refine State.count_frame (Part.sub hp (by decide)) ?_
    | with_reducible refine State.endMove_frame (Part.sub hp (by decide)) ?_ | with_reducible refine State.raise_frame (Part.sub hp (by decide)) ?_
    | with_reducible refine State.releaseHeld_frame (Part.sub hp (by decide)) ?_ | with_reducible apply Part.iteFst

theorem execOvmHoldExpired_frame {pt : Part} {dt ctx : Nat} {s : State} (hp : pt ∉ [Part.clock, Part.freeCtr, Part.regs, Part.io, Part.frm, Part.ovm, Part.par]) :
    ∃ s', execOvmHoldExpired dt ctx s = .next s' ∧ pt.same s s' := by
  unfold execOvmHoldExpired
  refine ⟨_, rfl, ?_⟩
  try dsimp only
  repeat' first
    | with_reducible assumption | with_reducible exact Part.same_refl _ _ | intro _ | with_reducible refine State.elapse_frame (Part.sub hp (by decide)) ?_
    | with_reducible refine State.expireHold_frame (Part.sub hp (by decide)) ?_ | with_reducible refine State.waitAddr_frame (Part.sub hp (by decide)) ?_
    | with_reducible apply Part.ite | split

theorem State.retryPending_frame {pt : Part} {base : State} {s : State} (hp : pt ∉ [Part.regs, Part.io, Part.tim, Part.prt, Part.rlk, Part.frm, Part.ovm, Part.pm, Part.eng]) (hss : pt.same base s) :
    pt.same base (State.retryPending s) := by
  unfold State.retryPending
  try dsimp only
  repeat' first
    | with_reducible assumption | intro _ | with_reducible exact Part.same_refl _ _ | with_reducible refine State.acceptIntent_frame (Part.sub hp (by decide)) ?_ (by with_reducible assumption)
    | with_reducible apply Part.ite | with_reducible apply Part.foldl | split

theorem State.armNow_frame {pt : Part} {base : State} {s : State} {a : ArmSt} {due : Nat} {late : Bool} (hp : pt ∉ [Part.regs, Part.io, Part.shf, Part.map, Part.ovm]) (hss : pt.same base s) :
    pt.same base (State.armNow s a due late) := by
  unfold State.armNow
  try dsimp only
  repeat' first
    | with_reducible assumption | intro _ | with_reducible refine State.count_frame (Part.sub hp (by decide)) ?_
    | with_reducible refine State.raise_frame (Part.sub hp (by decide)) ?_ | with_reducible refine State.wrBit_frame (Part.sub hp (by decide)) ?_
    | with_reducible apply Part.ite | fail_if_no_progress with_reducible refine Part.same_upd ?_ ?_ | ((with_reducible refine Part.keptIntro ?_); cases pt <;> first | exact absurd (by decide) hp | exact rfl | exact ⟨rfl, rfl⟩)
    | split

theorem State.prepareSwap_frame {pt : Part} {base : State} {s : State} {own : List SchedEntry} (hp : pt ∉ [Part.regs, Part.io, Part.tim, Part.prt, Part.rlk, Part.frm, Part.ovm, Part.pm, Part.eng]) (hss : pt.same base s) :
    pt.same base (State.prepareSwap s own).1 := by
  unfold State.prepareSwap
  try dsimp only
  repeat' first
    | with_reducible assumption | intro _ | with_reducible refine State.countBy_frame (Part.sub hp (by decide)) ?_
    | with_reducible refine State.retryPending_frame (Part.sub hp (by decide)) ?_ | with_reducible apply Part.ite
    | with_reducible apply Part.iteFst | split

theorem State.prepareSwap_frameAs {pt : Part} {base : State} {s : State} {own : List SchedEntry} (hp : pt ∉ [Part.regs, Part.io, Part.tim, Part.prt, Part.rlk, Part.frm, Part.ovm, Part.pm, Part.eng]) (hss : pt.same base s) {t : State} {y : ArmSt}
    (h : State.prepareSwap s own = (t, y)) : pt.same base t := by
  have k : pt.same base (State.prepareSwap s own).1 := State.prepareSwap_frame hp hss
  rw [h] at k
  exact k

theorem State.sendPlace_frame {pt : Part} {base : State} {s : State} {a : ArmSt} {own : List SchedEntry} (hp : pt ∉ [Part.ovm, Part.par]) (hss : pt.same base s) :
    pt.same base (State.sendPlace s a own) := by
  unfold State.sendPlace
  try dsimp only
  repeat' first
    | with_reducible assumption | intro _ | with_reducible refine State.send_frame (Part.sub hp (by decide)) ?_
    | with_reducible apply Part.iteFst | fail_if_no_progress with_reducible refine Part.same_upd ?_ ?_
    | ((with_reducible refine Part.keptIntro ?_); cases pt <;> first | exact absurd (by decide) hp | exact rfl | exact ⟨rfl, rfl⟩)

theorem execArmSwap_frame {pt : Part} {dt : Nat} {own : List SchedEntry} {s : State} (hp : pt ∉ [Part.clock, Part.regs, Part.io, Part.shf, Part.tim, Part.prt, Part.rlk, Part.frm, Part.map, Part.ovm, Part.pm, Part.par, Part.eng]) :
    ∃ s', execArmSwap dt own s = .next s' ∧ pt.same s s' := by
  unfold execArmSwap
  refine ⟨_, rfl, ?_⟩
  try dsimp only
  repeat' first
    | with_reducible assumption | with_reducible exact Part.same_refl _ _ | intro _ | with_reducible refine State.armNow_frame (Part.sub hp (by decide)) ?_
    | with_reducible refine State.elapse_frame (Part.sub hp (by decide)) ?_ | with_reducible refine State.prepareSwap_frameAs (Part.sub hp (by decide)) ?_ (by with_reducible assumption)
    | with_reducible refine State.prepareSwap_frame (Part.sub hp (by decide)) ?_ | with_reducible refine State.sendPlace_frame (Part.sub hp (by decide)) ?_
    | with_reducible apply Part.ite | with_reducible apply Part.iteFst | split

theorem State.dropCtx_frame {pt : Part} {base : State} {s : State} {c : Nat} (hp : pt ∉ [Part.regs, Part.io, Part.shf, Part.prt, Part.rlk, Part.frm, Part.map, Part.ovm, Part.qmg, Part.pm, Part.cip]) (hss : pt.same base s) :
    pt.same base (State.dropCtx s c) := by
  unfold State.dropCtx
  try dsimp only
  repeat' first
    | with_reducible assumption | intro _ | with_reducible exact Part.same_refl _ _ | with_reducible refine State.dropCipher_frame (Part.sub hp (by decide)) ?_
    | with_reducible refine State.dropSlot_frame (Part.sub hp (by decide)) ?_ | with_reducible refine State.dropTubs_frame (Part.sub hp (by decide)) ?_
    | with_reducible refine State.stopPoint_frame (Part.sub hp (by decide)) ?_ | with_reducible apply Part.ite
    | with_reducible apply Part.foldl | split | fail_if_no_progress with_reducible refine Part.same_upd ?_ ?_
    | ((with_reducible refine Part.keptIntro ?_); cases pt <;> first | exact absurd (by decide) hp | exact rfl | exact ⟨rfl, rfl⟩)

theorem State.swapWithdraw_frame {pt : Part} {base : State} {s : State} {w : Nat × HostRef} (hp : pt ∉ [Part.regs, Part.io, Part.shf, Part.prt, Part.rlk, Part.frm, Part.map, Part.ovm, Part.qmg, Part.pm, Part.cip]) (hss : pt.same base s) :
    pt.same base (State.swapWithdraw s w) := by
  unfold State.swapWithdraw
  try dsimp only
  repeat' first
    | with_reducible assumption | intro _ | with_reducible exact Part.same_refl _ _ | with_reducible refine State.done_frame (Part.sub hp (by decide)) ?_
    | with_reducible refine State.dropCtx_frame (Part.sub hp (by decide)) ?_ | with_reducible refine State.raiseC_frame (Part.sub hp (by decide)) ?_
    | with_reducible apply Part.foldl | with_reducible apply Part.foldlFst | with_reducible apply Part.iteFst
    | split | fail_if_no_progress with_reducible refine Part.same_upd ?_ ?_ | ((with_reducible refine Part.keptIntro ?_); cases pt <;> first | exact absurd (by decide) hp | exact rfl | exact ⟨rfl, rfl⟩)

theorem State.swapShed_frame {pt : Part} {base : State} {s : State} {i : Nat} (hp : pt ∉ [Part.regs, Part.io, Part.shf, Part.prt, Part.rlk, Part.frm, Part.map, Part.ovm, Part.qmg, Part.pm, Part.cip]) (hss : pt.same base s) :
    pt.same base (State.swapShed s i) := by
  unfold State.swapShed
  try dsimp only
  repeat' first
    | with_reducible assumption | intro _ | with_reducible exact Part.same_refl _ _ | with_reducible refine State.dropCtx_frame (Part.sub hp (by decide)) ?_
    | with_reducible refine State.shedNow_frame (Part.sub hp (by decide)) ?_ | with_reducible apply Part.foldl
    | split | fail_if_no_progress with_reducible refine Part.same_upd ?_ ?_ | ((with_reducible refine Part.keptIntro ?_); cases pt <;> first | exact absurd (by decide) hp | exact rfl | exact ⟨rfl, rfl⟩)

theorem State.unstrand_frame {pt : Part} {base : State} {s : State} {i : Nat} (hp : pt ∉ [Part.ovm]) (hss : pt.same base s) :
    pt.same base (State.unstrand s i) := by
  unfold State.unstrand
  try dsimp only
  repeat' first
    | with_reducible assumption | intro _ | with_reducible exact Part.same_refl _ _ | with_reducible apply Part.ite
    | split | fail_if_no_progress with_reducible refine Part.same_upd ?_ ?_ | ((with_reducible refine Part.keptIntro ?_); cases pt <;> first | exact absurd (by decide) hp | exact rfl | exact ⟨rfl, rfl⟩)

theorem State.swapMove_frame {pt : Part} {base : State} {s : State} {m : Move} (hp : pt ∉ [Part.regs, Part.io, Part.map, Part.ovm]) (hss : pt.same base s) :
    pt.same base (State.swapMove s m) := by
  unfold State.swapMove
  try dsimp only
  repeat' first
    | with_reducible assumption | intro _ | with_reducible refine State.count_frame (Part.sub hp (by decide)) ?_
    | with_reducible refine State.raise_frame (Part.sub hp (by decide)) ?_ | with_reducible refine State.unstrand_frame (Part.sub hp (by decide)) ?_
    | with_reducible apply Part.ite | split | fail_if_no_progress with_reducible refine Part.same_upd ?_ ?_
    | ((with_reducible refine Part.keptIntro ?_); cases pt <;> first | exact absurd (by decide) hp | exact rfl | exact ⟨rfl, rfl⟩)

theorem flowQueue_frame {pt : Part} {base : State} {s : State} {q : Nat} (hp : pt ∉ [Part.qmg]) (hss : pt.same base s) :
    pt.same base (flowQueue s q) := by
  unfold flowQueue
  try dsimp only
  repeat' first
    | with_reducible assumption | intro _ | with_reducible refine State.setQueue_frame (Part.sub hp (by decide)) ?_

theorem State.addCtx_frame {pt : Part} {base : State} {s : State} {c : Nat} (hp : pt ∉ [Part.freeCtr, Part.regs, Part.io, Part.tim, Part.rlk, Part.frm, Part.ovm, Part.qmg, Part.pm, Part.cip]) (hss : pt.same base s) :
    pt.same base (State.addCtx s c) := by
  unfold State.addCtx
  try dsimp only
  repeat' first
    | with_reducible assumption | intro _ | with_reducible refine State.draw_frame (Part.sub hp (by decide)) ?_
    | with_reducible refine flowQueue_frame (Part.sub hp (by decide)) ?_ | with_reducible refine State.placeCipher_frame (Part.sub hp (by decide)) ?_
    | with_reducible refine State.pmPlace_frame (Part.sub hp (by decide)) ?_ | with_reducible refine State.setFramer_frame (Part.sub hp (by decide)) ?_
    | with_reducible refine State.startTubs_frame (Part.sub hp (by decide)) ?_ | with_reducible refine State.trbFollow_frame (Part.sub hp (by decide)) ?_
    | with_reducible apply Part.ite | split | fail_if_no_progress with_reducible refine Part.same_upd ?_ ?_
    | ((with_reducible refine Part.keptIntro ?_); cases pt <;> first | exact absurd (by decide) hp | exact rfl | exact ⟨rfl, rfl⟩)

theorem State.addGroup_frame {pt : Part} {base : State} {s : State} {x : IntentSt} (hp : pt ∉ [Part.regs, Part.frm, Part.map]) (hss : pt.same base s) :
    pt.same base (State.addGroup s x) := by
  unfold State.addGroup
  try dsimp only
  repeat' first
    | with_reducible assumption | intro _ | with_reducible exact Part.same_refl _ _ | with_reducible refine State.count_frame (Part.sub hp (by decide)) ?_
    | with_reducible refine State.setGroup_frame (Part.sub hp (by decide)) ?_ | with_reducible refine State.setHitless_frame (Part.sub hp (by decide)) ?_
    | with_reducible apply Part.ite | split

theorem State.swapAdd_frame {pt : Part} {base : State} {s : State} {i : Nat} (hp : pt ∉ [Part.freeCtr, Part.regs, Part.io, Part.tim, Part.rlk, Part.frm, Part.map, Part.ovm, Part.qmg, Part.pm, Part.cip]) (hss : pt.same base s) :
    pt.same base (State.swapAdd s i) := by
  unfold State.swapAdd
  try dsimp only
  repeat' first
    | with_reducible assumption | intro _ | with_reducible exact Part.same_refl _ _ | with_reducible refine State.addCtx_frame (Part.sub hp (by decide)) ?_
    | with_reducible refine State.addGroup_frame (Part.sub hp (by decide)) ?_ | with_reducible refine State.complete_frame (Part.sub hp (by decide)) ?_
    | with_reducible refine State.raise_frame (Part.sub hp (by decide)) ?_ | with_reducible refine State.raiseC_frame (Part.sub hp (by decide)) ?_
    | with_reducible apply Part.ite | with_reducible apply Part.foldl | split | fail_if_no_progress with_reducible refine Part.same_upd ?_ ?_
    | ((with_reducible refine Part.keptIntro ?_); cases pt <;> first | exact absurd (by decide) hp | exact rfl | exact ⟨rfl, rfl⟩)

theorem State.flipBank_frame {pt : Part} {base : State} {s0 : State} {a : ArmSt} (hp : pt ∉ [Part.regs, Part.io, Part.shf, Part.ovm]) (hss0 : pt.same base s0) :
    pt.same base (State.flipBank s0 a) := by
  unfold State.flipBank
  try dsimp only
  repeat' first
    | with_reducible assumption | intro _ | with_reducible exact Part.same_refl _ _ | with_reducible refine State.clearOld_frame (Part.sub hp (by decide)) ?_
    | with_reducible refine State.raise_frame (Part.sub hp (by decide)) ?_ | with_reducible refine State.wr_frame (Part.sub hp (by decide)) ?_
    | with_reducible refine State.wrBit_frame (Part.sub hp (by decide)) ?_ | with_reducible apply Part.ite
    | fail_if_no_progress with_reducible refine Part.same_upd ?_ ?_ | ((with_reducible refine Part.keptIntro ?_); cases pt <;> first | exact absurd (by decide) hp | exact rfl | exact ⟨rfl, rfl⟩)
    | split

theorem State.redone_frame {pt : Part} {base : State} {s : State} (hp : pt ∉ [Part.ovm]) (hss : pt.same base s) :
    pt.same base (State.redone s) := by
  unfold State.redone
  try dsimp only
  repeat' first
    | with_reducible assumption | intro _ | with_reducible exact Part.same_refl _ _ | with_reducible apply Part.ite
    | with_reducible apply Part.iteFst | fail_if_no_progress with_reducible refine Part.same_upd ?_ ?_
    | ((with_reducible refine Part.keptIntro ?_); cases pt <;> first | exact absurd (by decide) hp | exact rfl | exact ⟨rfl, rfl⟩)
    | split

theorem State.doSwap_frame {pt : Part} {base : State} {s : State} {a : ArmSt} (hp : pt ∉ [Part.clock, Part.freeCtr, Part.regs, Part.io, Part.shf, Part.tim, Part.prt, Part.rlk, Part.frm, Part.map, Part.ovm, Part.qmg, Part.pm, Part.cip, Part.par, Part.eng]) (hss : pt.same base s) :
    pt.same base (State.doSwap s a) := by
  unfold State.doSwap
  try dsimp only
  repeat' first
    | with_reducible assumption | intro _ | with_reducible exact Part.same_refl _ _ | with_reducible refine State.flipBank_frame (Part.sub hp (by decide)) ?_
    | with_reducible refine State.redone_frame (Part.sub hp (by decide)) ?_ | with_reducible refine State.releaseHeld_frame (Part.sub hp (by decide)) ?_
    | with_reducible refine State.slewCharge_frame (Part.sub hp (by decide)) ?_ | with_reducible refine State.swapAdd_frame (Part.sub hp (by decide)) ?_
    | with_reducible refine State.swapMove_frame (Part.sub hp (by decide)) ?_ | with_reducible refine State.swapShed_frame (Part.sub hp (by decide)) ?_
    | with_reducible refine State.swapWithdraw_frame (Part.sub hp (by decide)) ?_ | with_reducible refine State.wr_frame (Part.sub hp (by decide)) ?_
    | with_reducible apply Part.ite | with_reducible apply Part.foldl | with_reducible apply Part.foldlFst
    | with_reducible apply Part.iteFst | fail_if_no_progress with_reducible refine Part.same_upd ?_ ?_
    | ((with_reducible refine Part.keptIntro ?_); cases pt <;> first | exact absurd (by decide) hp | exact rfl | exact ⟨rfl, rfl⟩)
    | split

theorem State.rejectSwap_frame {pt : Part} {base : State} {s : State} {bankBad : Bool} (hp : pt ∉ [Part.regs, Part.io, Part.shf, Part.ovm, Part.par]) (hss : pt.same base s) :
    pt.same base (State.rejectSwap s bankBad) := by
  unfold State.rejectSwap
  try dsimp only
  repeat' first
    | with_reducible assumption | intro _ | with_reducible refine State.raise_frame (Part.sub hp (by decide)) ?_
    | with_reducible refine State.wrBit_frame (Part.sub hp (by decide)) ?_ | fail_if_no_progress with_reducible refine Part.same_upd ?_ ?_
    | ((with_reducible refine Part.keptIntro ?_); cases pt <;> first | exact absurd (by decide) hp | exact rfl | exact ⟨rfl, rfl⟩)

theorem State.swapMismatch_frame {pt : Part} {base : State} {s : State} {bankBad : Bool} {granule stored sum : Nat} (hp : pt ∉ [Part.regs, Part.io, Part.shf, Part.ovm, Part.par]) (hss : pt.same base s) :
    pt.same base (State.swapMismatch s bankBad granule stored sum) := by
  unfold State.swapMismatch
  try dsimp only
  repeat' first
    | with_reducible assumption | intro _ | with_reducible refine State.count_frame (Part.sub hp (by decide)) ?_
    | with_reducible refine State.raise_frame (Part.sub hp (by decide)) ?_ | with_reducible refine State.rejectSwap_frame (Part.sub hp (by decide)) ?_

theorem execSchedSwap_frame {pt : Part} {dt : Nat} {bankOk pagesOk : Bool} {granule stored sum : Nat} {s : State} (hp : pt ∉ [Part.clock, Part.freeCtr, Part.regs, Part.io, Part.shf, Part.tim, Part.prt, Part.rlk, Part.frm, Part.map, Part.ovm, Part.qmg, Part.pm, Part.cip, Part.par, Part.eng, Part.bkg]) :
    ∃ s', execSchedSwap dt bankOk pagesOk granule stored sum s = .next s' ∧ pt.same s s' := by
  unfold execSchedSwap
  refine ⟨_, rfl, ?_⟩
  try dsimp only
  repeat' first
    | with_reducible assumption | with_reducible exact Part.same_refl _ _ | intro _ | with_reducible refine State.alterCheck_frameAs (Part.sub hp (by decide)) ?_ (by with_reducible assumption)
    | with_reducible refine State.alterCheck_frame (Part.sub hp (by decide)) ?_ | with_reducible refine State.doSwap_frame (Part.sub hp (by decide)) ?_
    | with_reducible refine State.elapse_frame (Part.sub hp (by decide)) ?_ | with_reducible refine State.rejectSwap_frame (Part.sub hp (by decide)) ?_
    | with_reducible refine State.swapMismatch_frame (Part.sub hp (by decide)) ?_ | with_reducible refine State.waitAddr_frame (Part.sub hp (by decide)) ?_
    | with_reducible apply Part.ite | with_reducible apply Part.iteFst | split

theorem State.ovmRestart_frame {pt : Part} {base : State} {s : State} {bad : List Nat} (hp : pt ∉ [Part.clock, Part.freeCtr, Part.regs, Part.io, Part.frm, Part.ovm, Part.par]) (hss : pt.same base s) :
    pt.same base (State.ovmRestart s bad) := by
  unfold State.ovmRestart
  try dsimp only
  repeat' first
    | with_reducible assumption | intro _ | with_reducible exact Part.same_refl _ _ | with_reducible refine State.count_frame (Part.sub hp (by decide)) ?_
    | with_reducible refine State.endMove_frame (Part.sub hp (by decide)) ?_ | with_reducible refine State.releaseHeld_frame (Part.sub hp (by decide)) ?_
    | with_reducible refine State.takeHewers_frame (Part.sub hp (by decide)) ?_ | with_reducible refine State.wr_frame (Part.sub hp (by decide)) ?_
    | with_reducible apply Part.ite | with_reducible apply Part.foldl | split | fail_if_no_progress with_reducible refine Part.same_upd ?_ ?_
    | ((with_reducible refine Part.keptIntro ?_); cases pt <;> first | exact absurd (by decide) hp | exact rfl | exact ⟨rfl, rfl⟩)

theorem execOvmRestart_frame {pt : Part} {dt hewer : Nat} {s : State} (hp : pt ∉ [Part.clock, Part.freeCtr, Part.regs, Part.io, Part.frm, Part.ovm, Part.par]) :
    ∃ s', execOvmRestart dt hewer s = .next s' ∧ pt.same s s' := by
  unfold execOvmRestart
  refine ⟨_, rfl, ?_⟩
  try dsimp only
  repeat' first
    | with_reducible assumption | with_reducible exact Part.same_refl _ _ | intro _ | with_reducible refine State.elapse_frame (Part.sub hp (by decide)) ?_
    | with_reducible refine State.ovmRestart_frame (Part.sub hp (by decide)) ?_ | with_reducible apply Part.ite
    | split

end Sys2Proof.Machine
end

