-- ==== Sys2Proof/Laws/FramesPair.lean ====
section
/-! SUPPORT. Which parts of the state the operations of Machine/Pair.lean may change. -/

set_option Elab.async false

namespace Sys2Proof.Machine

theorem State.parRegs_frame {pt : Part} {base : State} {s : State} (hp : pt ∉ [Part.regs]) (hss : pt.same base s) :
    pt.same base (State.parRegs s) := by
  unfold State.parRegs
  try dsimp only
  repeat' first
    | with_reducible assumption | intro _ | with_reducible refine State.wr_frame (Part.sub hp (by decide)) ?_
    | with_reducible refine State.wrBit_frame (Part.sub hp (by decide)) ?_

theorem State.ovmFollow_frame {pt : Part} {base : State} {s : State} (hp : pt ∉ [Part.regs]) (hss : pt.same base s) :
    pt.same base (State.ovmFollow s) := by
  unfold State.ovmFollow
  try dsimp only
  repeat' first
    | with_reducible assumption | intro _ | with_reducible refine State.wr_frame (Part.sub hp (by decide)) ?_
    | with_reducible apply Part.ite | split

theorem State.setPar_frame {pt : Part} {base : State} {s : State} {v cause : Nat} (hp : pt ∉ [Part.regs, Part.io]) (hss : pt.same base s) :
    pt.same base (State.setPar s v cause) := by
  unfold State.setPar
  try dsimp only
  repeat' first
    | with_reducible assumption | intro _ | with_reducible refine State.ovmFollow_frame (Part.sub hp (by decide)) ?_
    | with_reducible refine State.parRegs_frame (Part.sub hp (by decide)) ?_ | with_reducible refine State.raise_frame (Part.sub hp (by decide)) ?_
    | with_reducible refine State.wr_frame (Part.sub hp (by decide)) ?_ | with_reducible refine State.wrBit_frame (Part.sub hp (by decide)) ?_
    | with_reducible apply Part.ite | split

theorem State.endTake_frame {pt : Part} {base : State} {s : State} {reason : Nat} (hp : pt ∉ [Part.io, Part.par]) (hss : pt.same base s) :
    pt.same base (State.endTake s reason) := by
  unfold State.endTake
  try dsimp only
  repeat' first
    | with_reducible assumption | intro _ | with_reducible refine State.done_frame (Part.sub hp (by decide)) ?_
    | with_reducible refine State.refuse_frame (Part.sub hp (by decide)) ?_ | with_reducible apply Part.ite
    | split | fail_if_no_progress with_reducible refine Part.same_upd ?_ ?_ | ((with_reducible refine Part.keptIntro ?_); cases pt <;> first | exact absurd (by decide) hp | exact rfl | exact ⟨rfl, rfl⟩)

theorem State.giveUp_frame {pt : Part} {base : State} {s : State} {cause : Nat} (hp : pt ∉ [Part.regs, Part.io, Part.par]) (hss : pt.same base s) :
    pt.same base (State.giveUp s cause) := by
  unfold State.giveUp
  try dsimp only
  repeat' first
    | with_reducible assumption | intro _ | with_reducible refine State.raise_frame (Part.sub hp (by decide)) ?_
    | with_reducible refine State.send_frame (Part.sub hp (by decide)) ?_ | with_reducible refine State.setPar_frame (Part.sub hp (by decide)) ?_
    | with_reducible refine State.wrBit_frame (Part.sub hp (by decide)) ?_ | fail_if_no_progress with_reducible refine Part.same_upd ?_ ?_
    | ((with_reducible refine Part.keptIntro ?_); cases pt <;> first | exact absurd (by decide) hp | exact rfl | exact ⟨rfl, rfl⟩)

theorem State.dualActive_frame {pt : Part} {base : State} {s : State} (hp : pt ∉ [Part.regs, Part.io, Part.par]) (hss : pt.same base s) :
    pt.same base (State.dualActive s) := by
  unfold State.dualActive
  try dsimp only
  repeat' first
    | with_reducible assumption | intro _ | with_reducible refine State.giveUp_frame (Part.sub hp (by decide)) ?_
    | with_reducible refine State.raise_frame (Part.sub hp (by decide)) ?_ | with_reducible apply Part.ite
    | split

theorem State.discardEpoch_frame {pt : Part} {base : State} {s : State} {addr reason : Nat} (hp : pt ∉ [Part.regs, Part.io, Part.par]) (hss : pt.same base s) :
    pt.same base (State.discardEpoch s addr reason) := by
  unfold State.discardEpoch
  try dsimp only
  repeat' first
    | with_reducible assumption | intro _ | with_reducible refine State.count_frame (Part.sub hp (by decide)) ?_
    | with_reducible refine State.parRegs_frame (Part.sub hp (by decide)) ?_ | with_reducible refine State.raise_frame (Part.sub hp (by decide)) ?_
    | with_reducible refine State.send_frame (Part.sub hp (by decide)) ?_ | with_reducible apply Part.ite
    | fail_if_no_progress with_reducible refine Part.same_upd ?_ ?_ | ((with_reducible refine Part.keptIntro ?_); cases pt <;> first | exact absurd (by decide) hp | exact rfl | exact ⟨rfl, rfl⟩)
    | split

theorem State.markGap_frame {pt : Part} {base : State} {s : State} {since : Nat} (hp : pt ∉ [Part.pm]) (hss : pt.same base s) :
    pt.same base (State.markGap s since) := by
  unfold State.markGap
  try dsimp only
  repeat' first
    | with_reducible assumption | intro _ | with_reducible exact Part.same_refl _ _ | with_reducible apply Part.ite
    | with_reducible apply Part.iteFst | fail_if_no_progress with_reducible refine Part.same_upd ?_ ?_
    | ((with_reducible refine Part.keptIntro ?_); cases pt <;> first | exact absurd (by decide) hp | exact rfl | exact ⟨rfl, rfl⟩)
    | split

theorem State.becomeActive_frame {pt : Part} {base : State} {s : State} (hp : pt ∉ [Part.freeCtr, Part.regs, Part.io, Part.pm, Part.par]) (hss : pt.same base s) :
    pt.same base (State.becomeActive s) := by
  unfold State.becomeActive
  try dsimp only
  repeat' first
    | with_reducible assumption | intro _ | with_reducible refine State.count_frame (Part.sub hp (by decide)) ?_
    | with_reducible refine State.discardEpoch_frame (Part.sub hp (by decide)) ?_ | with_reducible refine State.endTake_frame (Part.sub hp (by decide)) ?_
    | with_reducible refine State.markGap_frame (Part.sub hp (by decide)) ?_ | with_reducible refine State.raise_frame (Part.sub hp (by decide)) ?_
    | with_reducible refine State.send_frame (Part.sub hp (by decide)) ?_ | with_reducible refine State.setPar_frame (Part.sub hp (by decide)) ?_
    | with_reducible refine State.wrBit_frame (Part.sub hp (by decide)) ?_ | with_reducible apply Part.ite
    | split | fail_if_no_progress with_reducible refine Part.same_upd ?_ ?_ | ((with_reducible refine Part.keptIntro ?_); cases pt <;> first | exact absurd (by decide) hp | exact rfl | exact ⟨rfl, rfl⟩)

theorem State.endDrill_frame {pt : Part} {base : State} {s : State} {result : Nat} {gaveAt : Nat} (hp : pt ∉ [Part.freeCtr, Part.io, Part.par]) (hss : pt.same base s) :
    pt.same base (State.endDrill s result gaveAt) := by
  unfold State.endDrill
  try dsimp only
  repeat' first
    | with_reducible assumption | intro _ | with_reducible refine State.draw_frame (Part.sub hp (by decide)) ?_
    | with_reducible refine State.raise_frame (Part.sub hp (by decide)) ?_ | fail_if_no_progress with_reducible refine Part.same_upd ?_ ?_
    | ((with_reducible refine Part.keptIntro ?_); cases pt <;> first | exact absurd (by decide) hp | exact rfl | exact ⟨rfl, rfl⟩)

theorem State.drillPassed_frame {pt : Part} {base : State} {s : State} {phase gaveAt : Nat} (hp : pt ∉ [Part.freeCtr, Part.io, Part.par]) (hss : pt.same base s) :
    pt.same base (State.drillPassed s phase gaveAt) := by
  unfold State.drillPassed
  try dsimp only
  repeat' first
    | with_reducible assumption | intro _ | with_reducible refine State.endDrill_frame (Part.sub hp (by decide)) ?_
    | with_reducible apply Part.ite | split | fail_if_no_progress with_reducible refine Part.same_upd ?_ ?_
    | ((with_reducible refine Part.keptIntro ?_); cases pt <;> first | exact absurd (by decide) hp | exact rfl | exact ⟨rfl, rfl⟩)

theorem State.tryActive_frame {pt : Part} {base : State} {s : State} (hp : pt ∉ [Part.freeCtr, Part.regs, Part.io, Part.pm, Part.par]) (hss : pt.same base s) :
    pt.same base (State.tryActive s) := by
  unfold State.tryActive
  try dsimp only
  repeat' first
    | with_reducible assumption | intro _ | with_reducible refine State.becomeActive_frame (Part.sub hp (by decide)) ?_
    | with_reducible refine State.drillPassed_frame (Part.sub hp (by decide)) ?_ | with_reducible refine State.endTake_frame (Part.sub hp (by decide)) ?_
    | with_reducible refine State.setPar_frame (Part.sub hp (by decide)) ?_ | with_reducible apply Part.ite
    | split

theorem State.enterTaking_frame {pt : Part} {base : State} {s : State} {cause : Nat} {h : Option HostRef} (hp : pt ∉ [Part.freeCtr, Part.regs, Part.io, Part.pm, Part.par]) (hss : pt.same base s) :
    pt.same base (State.enterTaking s cause h) := by
  unfold State.enterTaking
  try dsimp only
  repeat' first
    | with_reducible assumption | intro _ | with_reducible refine State.setPar_frame (Part.sub hp (by decide)) ?_
    | with_reducible refine State.tryActive_frame (Part.sub hp (by decide)) ?_ | fail_if_no_progress with_reducible refine Part.same_upd ?_ ?_
    | ((with_reducible refine Part.keptIntro ?_); cases pt <;> first | exact absurd (by decide) hp | exact rfl | exact ⟨rfl, rfl⟩)

theorem State.tryTake_frame {pt : Part} {base : State} {s : State} (hp : pt ∉ [Part.freeCtr, Part.regs, Part.io, Part.pm, Part.par]) (hss : pt.same base s) :
    pt.same base (State.tryTake s) := by
  unfold State.tryTake
  try dsimp only
  repeat' first
    | with_reducible assumption | intro _ | with_reducible refine State.enterTaking_frame (Part.sub hp (by decide)) ?_
    | with_reducible apply Part.ite | split

theorem State.review_frame {pt : Part} {base : State} {s : State} (hp : pt ∉ [Part.freeCtr, Part.regs, Part.io, Part.pm, Part.par]) (hss : pt.same base s) :
    pt.same base (State.review s) := by
  unfold State.review
  try dsimp only
  repeat' first
    | with_reducible assumption | intro _ | with_reducible refine State.parRegs_frame (Part.sub hp (by decide)) ?_
    | with_reducible refine State.tryActive_frame (Part.sub hp (by decide)) ?_ | with_reducible refine State.tryTake_frame (Part.sub hp (by decide)) ?_

theorem State.selfFault_frame {pt : Part} {base : State} {s : State} {cause : Nat} (hp : pt ∉ [Part.freeCtr, Part.regs, Part.io, Part.pm, Part.par]) (hss : pt.same base s) :
    pt.same base (State.selfFault s cause) := by
  unfold State.selfFault
  try dsimp only
  repeat' first
    | with_reducible assumption | intro _ | with_reducible refine State.giveUp_frame (Part.sub hp (by decide)) ?_
    | with_reducible refine State.parRegs_frame (Part.sub hp (by decide)) ?_ | with_reducible refine State.review_frame (Part.sub hp (by decide)) ?_
    | with_reducible apply Part.ite | fail_if_no_progress with_reducible refine Part.same_upd ?_ ?_ | ((with_reducible refine Part.keptIntro ?_); cases pt <;> first | exact absurd (by decide) hp | exact rfl | exact ⟨rfl, rfl⟩)
    | split

theorem execStageUnusable_frame {pt : Part} {dt slice stage : Nat} {s : State} (hp : pt ∉ [Part.clock, Part.freeCtr, Part.regs, Part.io, Part.ovm, Part.pm, Part.par]) :
    ∃ s', execStageUnusable dt slice stage s = .next s' ∧ pt.same s s' := by
  unfold execStageUnusable
  refine ⟨_, rfl, ?_⟩
  try dsimp only
  repeat' first
    | with_reducible assumption | with_reducible exact Part.same_refl _ _ | intro _ | with_reducible refine State.elapse_frame (Part.sub hp (by decide)) ?_
    | with_reducible refine State.markUnusable_frame (Part.sub hp (by decide)) ?_ | with_reducible refine State.selfFault_frame (Part.sub hp (by decide)) ?_

theorem State.hear_frame {pt : Part} {base : State} {s : State} {pins : Bool} (hp : pt ∉ [Part.regs, Part.io, Part.par]) (hss : pt.same base s) :
    pt.same base (State.hear s pins) := by
  unfold State.hear
  try dsimp only
  repeat' first
    | with_reducible assumption | intro _ | with_reducible refine State.endTake_frame (Part.sub hp (by decide)) ?_
    | with_reducible refine State.raise_frame (Part.sub hp (by decide)) ?_ | with_reducible refine State.setPar_frame (Part.sub hp (by decide)) ?_
    | with_reducible refine State.wrBit_frame (Part.sub hp (by decide)) ?_ | with_reducible apply Part.ite
    | fail_if_no_progress with_reducible refine Part.same_upd ?_ ?_ | ((with_reducible refine Part.keptIntro ?_); cases pt <;> first | exact absurd (by decide) hp | exact rfl | exact ⟨rfl, rfl⟩)
    | split

theorem State.hearState_frame {pt : Part} {base : State} {s : State} {v : Nat} (hp : pt ∉ [Part.regs, Part.io, Part.par]) (hss : pt.same base s) :
    pt.same base (State.hearState s v) := by
  unfold State.hearState
  try dsimp only
  repeat' first
    | with_reducible assumption | intro _ | with_reducible refine State.dualActive_frame (Part.sub hp (by decide)) ?_
    | with_reducible refine State.setPar_frame (Part.sub hp (by decide)) ?_ | with_reducible apply Part.ite
    | fail_if_no_progress with_reducible refine Part.same_upd ?_ ?_ | ((with_reducible refine Part.keptIntro ?_); cases pt <;> first | exact absurd (by decide) hp | exact rfl | exact ⟨rfl, rfl⟩)
    | split

theorem State.control_frame {pt : Part} {base : State} {s : State} {typ : Nat} {head : List Nat} {good : Bool} {run : State → State} (hp : pt ∉ [Part.regs, Part.io, Part.par]) (hss : pt.same base s) (hrun : ∀ b c, pt.same b c → pt.same b (run c)) :
    pt.same base (State.control s typ head good run) := by
  unfold State.control
  try dsimp only
  repeat' first
    | with_reducible assumption | intro _ | with_reducible exact Part.same_refl _ _ | with_reducible apply hrun
    | with_reducible refine State.count_frame (Part.sub hp (by decide)) ?_ | with_reducible refine State.hear_frame (Part.sub hp (by decide)) ?_
    | with_reducible apply Part.ite | fail_if_no_progress with_reducible refine Part.same_upd ?_ ?_ | ((with_reducible refine Part.keptIntro ?_); cases pt <;> first | exact absurd (by decide) hp | exact rfl | exact ⟨rfl, rfl⟩)
    | split

theorem State.controlText_frame {pt : Part} {base : State} {s : State} {typ : Nat} {t : MateText} {run : State → State} (hp : pt ∉ [Part.regs, Part.io, Part.par]) (hss : pt.same base s) (hrun : ∀ b c, pt.same b c → pt.same b (run c)) :
    pt.same base (State.controlText s typ t run) := by
  unfold State.controlText
  try dsimp only
  repeat' first
    | with_reducible assumption | intro _ | with_reducible exact Part.same_refl _ _ | with_reducible apply hrun
    | with_reducible refine State.control_frame (Part.sub hp (by decide)) ?_ ?_

theorem State.setMateLane_frame {pt : Part} {base : State} {s : State} {l : Nat} {x : MateLane} (hp : pt ∉ [Part.par]) (hss : pt.same base s) :
    pt.same base (State.setMateLane s l x) := by
  unfold State.setMateLane
  try dsimp only
  repeat' first
    | with_reducible assumption | intro _ | fail_if_no_progress with_reducible refine Part.same_upd ?_ ?_
    | ((with_reducible refine Part.keptIntro ?_); cases pt <;> first | exact absurd (by decide) hp | exact rfl | exact ⟨rfl, rfl⟩)

theorem State.setUsable_frame {pt : Part} {base : State} {s : State} {l : Nat} {on : Bool} (hp : pt ∉ [Part.regs, Part.io]) (hss : pt.same base s) :
    pt.same base (State.setUsable s l on) := by
  unfold State.setUsable
  try dsimp only
  repeat' first
    | with_reducible assumption | intro _ | with_reducible refine State.raise_frame (Part.sub hp (by decide)) ?_
    | with_reducible refine State.wr_frame (Part.sub hp (by decide)) ?_ | with_reducible apply Part.ite
    | split

theorem State.compareAddr_frame {pt : Part} {base : State} {s : State} {mate mateCycle : Nat} {mateAuth : Bool} (hp : pt ∉ [Part.regs, Part.io, Part.par]) (hss : pt.same base s) :
    pt.same base (State.compareAddr s mate mateCycle mateAuth) := by
  unfold State.compareAddr
  try dsimp only
  repeat' first
    | with_reducible assumption | intro _ | with_reducible refine State.parRegs_frame (Part.sub hp (by decide)) ?_
    | with_reducible refine State.raise_frame (Part.sub hp (by decide)) ?_ | with_reducible refine State.setPar_frame (Part.sub hp (by decide)) ?_
    | with_reducible refine State.wrBit_frame (Part.sub hp (by decide)) ?_ | with_reducible apply Part.ite
    | fail_if_no_progress with_reducible refine Part.same_upd ?_ ?_ | ((with_reducible refine Part.keptIntro ?_); cases pt <;> first | exact absurd (by decide) hp | exact rfl | exact ⟨rfl, rfl⟩)
    | split

theorem State.shaftErr_frame {pt : Part} {base : State} {s : State} {mateCycle : Nat} {sub : Int} (hp : pt ∉ [Part.freeCtr, Part.regs]) (hss : pt.same base s) :
    pt.same base (State.shaftErr s mateCycle sub) := by
  unfold State.shaftErr
  try dsimp only
  repeat' first
    | with_reducible assumption | intro _ | with_reducible refine State.draw_frame (Part.sub hp (by decide)) ?_
    | with_reducible refine State.wrInt_frame (Part.sub hp (by decide)) ?_

theorem State.mateRtt_frame {pt : Part} {base : State} {s : State} {echo ns : Nat} (hp : pt ∉ [Part.freeCtr, Part.regs]) (hss : pt.same base s) :
    pt.same base (State.mateRtt s echo ns) := by
  unfold State.mateRtt
  try dsimp only
  repeat' first
    | with_reducible assumption | intro _ | with_reducible refine State.draw_frame (Part.sub hp (by decide)) ?_
    | with_reducible refine State.wr_frame (Part.sub hp (by decide)) ?_

theorem State.mateOverhead_frame {pt : Part} {base : State} {s : State} {l : Nat} {f : MateFrame} {sub : Int} (hp : pt ∉ [Part.freeCtr, Part.regs, Part.io, Part.par]) (hss : pt.same base s) :
    pt.same base (State.mateOverhead s l f sub) := by
  unfold State.mateOverhead
  try dsimp only
  repeat' first
    | with_reducible assumption | intro _ | with_reducible refine State.compareAddr_frame (Part.sub hp (by decide)) ?_
    | with_reducible refine State.hearState_frame (Part.sub hp (by decide)) ?_ | with_reducible refine State.mateRtt_frame (Part.sub hp (by decide)) ?_
    | with_reducible refine State.setMateLane_frame (Part.sub hp (by decide)) ?_ | with_reducible refine State.setUsable_frame (Part.sub hp (by decide)) ?_
    | with_reducible refine State.shaftErr_frame (Part.sub hp (by decide)) ?_ | with_reducible apply Part.ite
    | fail_if_no_progress with_reducible refine Part.same_upd ?_ ?_ | ((with_reducible refine Part.keptIntro ?_); cases pt <;> first | exact absurd (by decide) hp | exact rfl | exact ⟨rfl, rfl⟩)
    | split

theorem execMateFrameRx_frame {pt : Part} {dt lane : Nat} {f : MateIn} {s : State} (hp : pt ∉ [Part.clock, Part.freeCtr, Part.regs, Part.io, Part.par]) :
    ∃ s', execMateFrameRx dt lane f s = .next s' ∧ pt.same s s' := by
  unfold execMateFrameRx
  refine ⟨_, rfl, ?_⟩
  try dsimp only
  repeat' first
    | with_reducible assumption | with_reducible exact Part.same_refl _ _ | intro _ | with_reducible refine State.elapse_frame (Part.sub hp (by decide)) ?_
    | with_reducible refine State.mateOverhead_frame (Part.sub hp (by decide)) ?_ | with_reducible refine State.setMateLane_frame (Part.sub hp (by decide)) ?_
    | with_reducible refine State.setUsable_frame (Part.sub hp (by decide)) ?_ | with_reducible apply Part.ite
    | split

theorem execLaneRoleAssign_frame {pt : Part} {dt : Nat} {s : State} (hp : pt ∉ [Part.clock, Part.regs, Part.io, Part.par]) :
    ∃ s', execLaneRoleAssign dt s = .next s' ∧ pt.same s s' := by
  unfold execLaneRoleAssign
  refine ⟨_, rfl, ?_⟩
  try dsimp only
  repeat' first
    | with_reducible assumption | intro _ | with_reducible exact Part.same_refl _ _ | with_reducible refine State.setMateLane_frame (Part.sub hp (by decide)) ?_
    | with_reducible refine State.setUsable_frame (Part.sub hp (by decide)) ?_ | with_reducible refine State.toBoundary_frame (Part.sub hp (by decide)) ?_
    | with_reducible refine State.wr_frame (Part.sub hp (by decide)) ?_ | with_reducible apply Part.ite
    | with_reducible apply Part.foldl | with_reducible apply Part.foldlFst | with_reducible apply Part.iteFst
    | split | fail_if_no_progress with_reducible refine Part.same_upd ?_ ?_ | ((with_reducible refine Part.keptIntro ?_); cases pt <;> first | exact absurd (by decide) hp | exact rfl | exact ⟨rfl, rfl⟩)

theorem execMateListenEnd_frame {pt : Part} {dt : Nat} {s : State} (hp : pt ∉ [Part.clock, Part.freeCtr, Part.regs, Part.io, Part.shf, Part.tim, Part.rlk, Part.qmg, Part.par]) :
    ∃ s', execMateListenEnd dt s = .next s' ∧ pt.same s s' := by
  unfold execMateListenEnd
  refine ⟨_, rfl, ?_⟩
  try dsimp only
  repeat' first
    | with_reducible assumption | with_reducible exact Part.same_refl _ _ | intro _ | with_reducible refine State.elapse_frame (Part.sub hp (by decide)) ?_
    | with_reducible refine State.leaveHalted_frame (Part.sub hp (by decide)) ?_ | with_reducible apply Part.ite
    | fail_if_no_progress with_reducible refine Part.same_upd ?_ ?_ | ((with_reducible refine Part.keptIntro ?_); cases pt <;> first | exact absurd (by decide) hp | exact rfl | exact ⟨rfl, rfl⟩)
    | split

theorem State.leaseRegs_frame {pt : Part} {base : State} {s : State} {c : Nat} (hp : pt ∉ [Part.regs]) (hss : pt.same base s) :
    pt.same base (State.leaseRegs s c) := by
  unfold State.leaseRegs
  try dsimp only
  repeat' first
    | with_reducible assumption | intro _ | with_reducible refine State.wr_frame (Part.sub hp (by decide)) ?_

theorem State.pinSlot_frame {pt : Part} {base : State} {s : State} (hp : pt ∉ [Part.par]) (hss : pt.same base s) :
    pt.same base (State.pinSlot s) := by
  unfold State.pinSlot
  try dsimp only
  repeat' first
    | with_reducible assumption | intro _ | with_reducible refine State.send_frame (Part.sub hp (by decide)) ?_
    | with_reducible apply Part.ite | split | fail_if_no_progress with_reducible refine Part.same_upd ?_ ?_
    | ((with_reducible refine Part.keptIntro ?_); cases pt <;> first | exact absurd (by decide) hp | exact rfl | exact ⟨rfl, rfl⟩)

theorem execTallyLeaseRenewal_frame {pt : Part} {dt : Nat} {s : State} (hp : pt ∉ [Part.clock, Part.regs, Part.par]) :
    ∃ s', execTallyLeaseRenewal dt s = .next s' ∧ pt.same s s' := by
  unfold execTallyLeaseRenewal
  refine ⟨_, rfl, ?_⟩
  try dsimp only
  repeat' first
    | with_reducible assumption | intro _ | with_reducible exact Part.same_refl _ _ | with_reducible refine State.atEntry_frame (Part.sub hp (by decide)) ?_
    | with_reducible refine State.count_frame (Part.sub hp (by decide)) ?_ | with_reducible refine State.leaseRegs_frame (Part.sub hp (by decide)) ?_
    | with_reducible refine State.pinSlot_frame (Part.sub hp (by decide)) ?_ | with_reducible refine State.send_frame (Part.sub hp (by decide)) ?_
    | with_reducible apply Part.ite | fail_if_no_progress with_reducible refine Part.same_upd ?_ ?_ | ((with_reducible refine Part.keptIntro ?_); cases pt <;> first | exact absurd (by decide) hp | exact rfl | exact ⟨rfl, rfl⟩)
    | split

theorem State.takeGrant_frame {pt : Part} {base : State} {s : State} {c : Nat} (hp : pt ∉ [Part.regs, Part.io, Part.par]) (hss : pt.same base s) :
    pt.same base (State.takeGrant s c) := by
  unfold State.takeGrant
  try dsimp only
  repeat' first
    | with_reducible assumption | intro _ | with_reducible refine State.leaseRegs_frame (Part.sub hp (by decide)) ?_
    | with_reducible refine State.setPar_frame (Part.sub hp (by decide)) ?_ | with_reducible refine State.wrBit_frame (Part.sub hp (by decide)) ?_
    | with_reducible apply Part.ite | fail_if_no_progress with_reducible refine Part.same_upd ?_ ?_ | ((with_reducible refine Part.keptIntro ?_); cases pt <;> first | exact absurd (by decide) hp | exact rfl | exact ⟨rfl, rfl⟩)
    | split

theorem State.takeSurrender_frame {pt : Part} {base : State} {s : State} {cause addr : Nat} (hp : pt ∉ [Part.freeCtr, Part.regs, Part.io, Part.pm, Part.par]) (hss : pt.same base s) :
    pt.same base (State.takeSurrender s cause addr) := by
  unfold State.takeSurrender
  try dsimp only
  repeat' first
    | with_reducible assumption | intro _ | with_reducible refine State.raiseIf_frame (Part.sub hp (by decide)) ?_
    | with_reducible refine State.tryTake_frame (Part.sub hp (by decide)) ?_ | fail_if_no_progress with_reducible refine Part.same_upd ?_ ?_
    | ((with_reducible refine Part.keptIntro ?_); cases pt <;> first | exact absurd (by decide) hp | exact rfl | exact ⟨rfl, rfl⟩)

theorem State.takeClaim_frame {pt : Part} {base : State} {s : State} {nonce : Option Nat} (hp : pt ∉ [Part.freeCtr, Part.regs, Part.io, Part.par]) (hss : pt.same base s) :
    pt.same base (State.takeClaim s nonce) := by
  unfold State.takeClaim
  try dsimp only
  repeat' first
    | with_reducible assumption | intro _ | with_reducible refine State.drillPassed_frame (Part.sub hp (by decide)) ?_
    | with_reducible refine State.dualActive_frame (Part.sub hp (by decide)) ?_ | with_reducible refine State.endDrill_frame (Part.sub hp (by decide)) ?_
    | with_reducible refine State.endTake_frame (Part.sub hp (by decide)) ?_ | with_reducible refine State.setPar_frame (Part.sub hp (by decide)) ?_
    | with_reducible apply Part.ite | split | fail_if_no_progress with_reducible refine Part.same_upd ?_ ?_
    | ((with_reducible refine Part.keptIntro ?_); cases pt <;> first | exact absurd (by decide) hp | exact rfl | exact ⟨rfl, rfl⟩)

theorem execGrant_frame {pt : Part} {dt : Nat} {t : MateText} {s : State} (hp : pt ∉ [Part.clock, Part.regs, Part.io, Part.par]) :
    ∃ s', execGrant dt t s = .next s' ∧ pt.same s s' := by
  unfold execGrant
  refine ⟨_, rfl, ?_⟩
  try dsimp only
  repeat' first
    | with_reducible assumption | intro _ | with_reducible exact Part.same_refl _ _ | with_reducible refine State.controlText_frame (Part.sub hp (by decide)) ?_ ?_
    | with_reducible refine State.elapse_frame (Part.sub hp (by decide)) ?_ | with_reducible refine State.takeGrant_frame (Part.sub hp (by decide)) ?_

theorem execAck_frame {pt : Part} {dt : Nat} {t : MateText} {s : State} (hp : pt ∉ [Part.clock, Part.regs, Part.io, Part.par]) :
    ∃ s', execAck dt t s = .next s' ∧ pt.same s s' := by
  unfold execAck
  refine ⟨_, rfl, ?_⟩
  try dsimp only
  repeat' first
    | with_reducible assumption | intro _ | with_reducible exact Part.same_refl _ _ | with_reducible refine State.controlText_frame (Part.sub hp (by decide)) ?_ ?_
    | with_reducible refine State.elapse_frame (Part.sub hp (by decide)) ?_ | with_reducible refine State.hearState_frame (Part.sub hp (by decide)) ?_

theorem State.takePinWord_frame {pt : Part} {base : State} {s : State} {kind cause low : Nat} (hp : pt ∉ [Part.freeCtr, Part.regs, Part.io, Part.pm, Part.par]) (hss : pt.same base s) :
    pt.same base (State.takePinWord s kind cause low) := by
  unfold State.takePinWord
  try dsimp only
  repeat' first
    | with_reducible assumption | intro _ | with_reducible refine State.hear_frame (Part.sub hp (by decide)) ?_
    | with_reducible refine State.hearState_frame (Part.sub hp (by decide)) ?_ | with_reducible refine State.takeClaim_frame (Part.sub hp (by decide)) ?_
    | with_reducible refine State.takeGrant_frame (Part.sub hp (by decide)) ?_ | with_reducible refine State.takeSurrender_frame (Part.sub hp (by decide)) ?_
    | with_reducible apply Part.ite | split

theorem execTallyInWord_frame {pt : Part} {dt : Nat} {chips : List Bool} {s : State} (hp : pt ∉ [Part.clock, Part.freeCtr, Part.regs, Part.io, Part.pm, Part.par]) :
    ∃ s', execTallyInWord dt chips s = .next s' ∧ pt.same s s' := by
  unfold execTallyInWord
  refine ⟨_, rfl, ?_⟩
  try dsimp only
  repeat' first
    | with_reducible assumption | with_reducible exact Part.same_refl _ _ | intro _ | with_reducible refine State.elapse_frame (Part.sub hp (by decide)) ?_
    | with_reducible refine State.takePinWord_frame (Part.sub hp (by decide)) ?_ | with_reducible apply Part.ite
    | split

theorem execSurrender_frame {pt : Part} {dt : Nat} {t : MateText} {s : State} (hp : pt ∉ [Part.clock, Part.freeCtr, Part.regs, Part.io, Part.pm, Part.par]) :
    ∃ s', execSurrender dt t s = .next s' ∧ pt.same s s' := by
  unfold execSurrender
  refine ⟨_, rfl, ?_⟩
  try dsimp only
  repeat' first
    | with_reducible assumption | intro _ | with_reducible exact Part.same_refl _ _ | with_reducible refine State.controlText_frame (Part.sub hp (by decide)) ?_ ?_
    | with_reducible refine State.elapse_frame (Part.sub hp (by decide)) ?_ | with_reducible refine State.takeSurrender_frame (Part.sub hp (by decide)) ?_

theorem execClaim_frame {pt : Part} {dt : Nat} {t : MateText} {s : State} (hp : pt ∉ [Part.clock, Part.freeCtr, Part.regs, Part.io, Part.par]) :
    ∃ s', execClaim dt t s = .next s' ∧ pt.same s s' := by
  unfold execClaim
  refine ⟨_, rfl, ?_⟩
  try dsimp only
  repeat' first
    | with_reducible assumption | intro _ | with_reducible exact Part.same_refl _ _ | with_reducible refine State.controlText_frame (Part.sub hp (by decide)) ?_ ?_
    | with_reducible refine State.elapse_frame (Part.sub hp (by decide)) ?_ | with_reducible refine State.takeClaim_frame (Part.sub hp (by decide)) ?_

theorem execParOrphan_frame {pt : Part} {dt : Nat} {s : State} (hp : pt ∉ [Part.clock, Part.regs, Part.io]) :
    ∃ s', execParOrphan dt s = .next s' ∧ pt.same s s' := by
  unfold execParOrphan
  refine ⟨_, rfl, ?_⟩
  try dsimp only
  repeat' first
    | with_reducible assumption | with_reducible exact Part.same_refl _ _ | intro _ | with_reducible refine State.elapse_frame (Part.sub hp (by decide)) ?_
    | with_reducible refine State.raise_frame (Part.sub hp (by decide)) ?_ | with_reducible refine State.setPar_frame (Part.sub hp (by decide)) ?_
    | with_reducible refine State.waitAddr_frame (Part.sub hp (by decide)) ?_ | with_reducible refine State.wrBit_frame (Part.sub hp (by decide)) ?_
    | with_reducible apply Part.ite | split

theorem execLeaseViewExpiry_frame {pt : Part} {dt : Nat} {s : State} (hp : pt ∉ [Part.clock, Part.freeCtr, Part.regs, Part.io, Part.pm, Part.par]) :
    ∃ s', execLeaseViewExpiry dt s = .next s' ∧ pt.same s s' := by
  unfold execLeaseViewExpiry
  refine ⟨_, rfl, ?_⟩
  try dsimp only
  repeat' first
    | with_reducible assumption | with_reducible exact Part.same_refl _ _ | intro _ | with_reducible refine State.elapse_frame (Part.sub hp (by decide)) ?_
    | with_reducible refine State.tryActive_frame (Part.sub hp (by decide)) ?_ | with_reducible refine State.waitAddr_frame (Part.sub hp (by decide)) ?_
    | with_reducible apply Part.ite | split

theorem State.tryAuto_frame {pt : Part} {base : State} {s : State} (hp : pt ∉ [Part.freeCtr, Part.regs, Part.io, Part.pm, Part.par]) (hss : pt.same base s) :
    pt.same base (State.tryAuto s) := by
  unfold State.tryAuto
  try dsimp only
  repeat' first
    | with_reducible assumption | intro _ | with_reducible refine State.enterTaking_frame (Part.sub hp (by decide)) ?_
    | with_reducible apply Part.ite | split

theorem execParPath_frame {pt : Part} {dt : Nat} {s : State} (hp : pt ∉ [Part.clock, Part.freeCtr, Part.regs, Part.io, Part.pm, Part.par]) :
    ∃ s', execParPath dt s = .next s' ∧ pt.same s s' := by
  unfold execParPath
  refine ⟨_, rfl, ?_⟩
  try dsimp only
  repeat' first
    | with_reducible assumption | with_reducible exact Part.same_refl _ _ | intro _ | with_reducible refine State.elapse_frame (Part.sub hp (by decide)) ?_
    | with_reducible refine State.raise_frame (Part.sub hp (by decide)) ?_ | with_reducible refine State.tryAuto_frame (Part.sub hp (by decide)) ?_
    | with_reducible refine State.wrBit_frame (Part.sub hp (by decide)) ?_ | with_reducible apply Part.ite
    | split

theorem State.compareCrc_frame {pt : Part} {base : State} {s : State} {crc : Nat} (hp : pt ∉ [Part.regs, Part.io]) (hss : pt.same base s) :
    pt.same base (State.compareCrc s crc) := by
  unfold State.compareCrc
  try dsimp only
  repeat' first
    | with_reducible assumption | intro _ | with_reducible refine State.raise_frame (Part.sub hp (by decide)) ?_
    | with_reducible refine State.setPar_frame (Part.sub hp (by decide)) ?_ | with_reducible refine State.wrBit_frame (Part.sub hp (by decide)) ?_
    | with_reducible apply Part.ite | split

theorem State.tryStandby_frame {pt : Part} {base : State} {s : State} (hp : pt ∉ [Part.freeCtr, Part.regs, Part.io, Part.pm, Part.par]) (hss : pt.same base s) :
    pt.same base (State.tryStandby s) := by
  unfold State.tryStandby
  try dsimp only
  repeat' first
    | with_reducible assumption | intro _ | with_reducible refine State.review_frame (Part.sub hp (by decide)) ?_
    | with_reducible refine State.setPar_frame (Part.sub hp (by decide)) ?_ | with_reducible apply Part.ite
    | split

theorem State.takeStages_frame {pt : Part} {base : State} {s : State} {v : Nat} (hp : pt ∉ [Part.regs, Part.io, Part.ovm, Part.par]) (hss : pt.same base s) :
    pt.same base (State.takeStages s v) := by
  unfold State.takeStages
  try dsimp only
  repeat' first
    | with_reducible assumption | intro _ | with_reducible exact Part.same_refl _ _ | with_reducible refine State.markUnusable_frame (Part.sub hp (by decide)) ?_
    | with_reducible apply Part.ite | with_reducible apply Part.foldl | fail_if_no_progress with_reducible refine Part.same_upd ?_ ?_
    | ((with_reducible refine Part.keptIntro ?_); cases pt <;> first | exact absurd (by decide) hp | exact rfl | exact ⟨rfl, rfl⟩)
    | split

theorem State.judgeCanary_frame {pt : Part} {base : State} {s : State} (hp : pt ∉ [Part.freeCtr, Part.regs, Part.io, Part.pm, Part.par]) (hss : pt.same base s) :
    pt.same base (State.judgeCanary s) := by
  unfold State.judgeCanary
  try dsimp only
  repeat' first
    | with_reducible assumption | intro _ | with_reducible refine State.raiseIf_frame (Part.sub hp (by decide)) ?_
    | with_reducible refine State.review_frame (Part.sub hp (by decide)) ?_ | with_reducible refine State.wr_frame (Part.sub hp (by decide)) ?_
    | with_reducible apply Part.ite | with_reducible apply Part.iteFst | fail_if_no_progress with_reducible refine Part.same_upd ?_ ?_
    | ((with_reducible refine Part.keptIntro ?_); cases pt <;> first | exact absurd (by decide) hp | exact rfl | exact ⟨rfl, rfl⟩)
    | split

theorem State.takeHealth_frame {pt : Part} {base : State} {a : State} {p : HealthMsg} (hp : pt ∉ [Part.freeCtr, Part.regs, Part.io, Part.shf, Part.ovm, Part.pm, Part.cip, Part.par]) (hsa : pt.same base a) :
    pt.same base (State.takeHealth a p) := by
  unfold State.takeHealth
  try dsimp only
  repeat' first
    | with_reducible assumption | intro _ | with_reducible refine State.compareCrc_frame (Part.sub hp (by decide)) ?_
    | with_reducible refine State.doEpochFlip_frameAs (Part.sub hp (by decide)) ?_ (by with_reducible assumption)
    | with_reducible refine State.doEpochFlip_frame (Part.sub hp (by decide)) ?_ | with_reducible refine State.judgeCanary_frame (Part.sub hp (by decide)) ?_
    | with_reducible refine State.takeStages_frame (Part.sub hp (by decide)) ?_ | with_reducible refine State.tryStandby_frame (Part.sub hp (by decide)) ?_
    | with_reducible apply Part.ite | with_reducible apply Part.iteFst | fail_if_no_progress with_reducible refine Part.same_upd ?_ ?_
    | ((with_reducible refine Part.keptIntro ?_); cases pt <;> first | exact absurd (by decide) hp | exact rfl | exact ⟨rfl, rfl⟩)
    | split

theorem execHealth_frame {pt : Part} {dt : Nat} {t : MateText} {s : State} (hp : pt ∉ [Part.clock, Part.freeCtr, Part.regs, Part.io, Part.shf, Part.ovm, Part.pm, Part.cip, Part.par]) :
    ∃ s', execHealth dt t s = .next s' ∧ pt.same s s' := by
  unfold execHealth
  refine ⟨_, rfl, ?_⟩
  try dsimp only
  repeat' first
    | with_reducible assumption | intro _ | with_reducible exact Part.same_refl _ _ | with_reducible refine State.controlText_frame (Part.sub hp (by decide)) ?_ ?_
    | with_reducible refine State.elapse_frame (Part.sub hp (by decide)) ?_ | with_reducible refine State.takeHealth_frame (Part.sub hp (by decide)) ?_

theorem execHealthReport_frame {pt : Part} {dt : Nat} {s : State} (hp : pt ∉ [Part.clock, Part.freeCtr, Part.regs, Part.io, Part.pm, Part.par]) :
    ∃ s', execHealthReport dt s = .next s' ∧ pt.same s s' := by
  unfold execHealthReport
  refine ⟨_, rfl, ?_⟩
  try dsimp only
  repeat' first
    | with_reducible assumption | with_reducible exact Part.same_refl _ _ | intro _ | with_reducible refine State.judgeCanary_frame (Part.sub hp (by decide)) ?_
    | with_reducible refine State.send_frame (Part.sub hp (by decide)) ?_ | with_reducible refine State.toBoundary_frame (Part.sub hp (by decide)) ?_
    | with_reducible apply Part.ite | fail_if_no_progress with_reducible refine Part.same_upd ?_ ?_ | ((with_reducible refine Part.keptIntro ?_); cases pt <;> first | exact absurd (by decide) hp | exact rfl | exact ⟨rfl, rfl⟩)
    | split

theorem execCanaryBist_frame {pt : Part} {dt : Nat} {unit : BistUnit} {failed rotationEnd : Bool} {s : State} (hp : pt ∉ [Part.clock, Part.freeCtr, Part.regs, Part.io, Part.pm, Part.par]) :
    ∃ s', execCanaryBist dt unit failed rotationEnd s = .next s' ∧ pt.same s s' := by
  unfold execCanaryBist
  refine ⟨_, rfl, ?_⟩
  try dsimp only
  repeat' first
    | with_reducible assumption | with_reducible exact Part.same_refl _ _ | intro _ | with_reducible refine State.countBy_frame (Part.sub hp (by decide)) ?_
    | with_reducible refine State.judgeCanary_frame (Part.sub hp (by decide)) ?_ | with_reducible refine State.untilTime_frame (Part.sub hp (by decide)) ?_
    | with_reducible apply Part.ite | fail_if_no_progress with_reducible refine Part.same_upd ?_ ?_ | ((with_reducible refine Part.keptIntro ?_); cases pt <;> first | exact absurd (by decide) hp | exact rfl | exact ⟨rfl, rfl⟩)
    | split

theorem execForward_frame {pt : Part} {dt : Nat} {m : MsgHead} {f : Fwd} {stored : Bool} {s : State} (hp : pt ∉ [Part.clock, Part.regs, Part.io, Part.shf, Part.tim, Part.prt, Part.rlk, Part.frm, Part.ovm, Part.pm, Part.cip, Part.par, Part.eng, Part.sec]) :
    ∃ s', execForward dt m f stored s = .next s' ∧ pt.same s s' := by
  unfold execForward
  refine ⟨_, rfl, ?_⟩
  try dsimp only
  repeat' first
    | with_reducible assumption | intro _ | with_reducible exact Part.same_refl _ _ | with_reducible refine State.control_frame (Part.sub hp (by decide)) ?_ ?_
    | with_reducible refine State.doEpochFlip_frameAs (Part.sub hp (by decide)) ?_ (by with_reducible assumption)
    | with_reducible refine State.doEpochFlip_frame (Part.sub hp (by decide)) ?_ | with_reducible refine State.doKeyErase_frameAs (Part.sub hp (by decide)) ?_ (by with_reducible assumption)
    | with_reducible refine State.doKeyErase_frame (Part.sub hp (by decide)) ?_ | with_reducible refine State.doRootLoad_frameAs (Part.sub hp (by decide)) ?_ (by with_reducible assumption)
    | with_reducible refine State.doRootLoad_frame (Part.sub hp (by decide)) ?_ | with_reducible refine State.doWrapLoad_frameAs (Part.sub hp (by decide)) ?_ (by with_reducible assumption)
    | with_reducible refine State.doWrapLoad_frame (Part.sub hp (by decide)) ?_ | with_reducible refine State.elapse_frame (Part.sub hp (by decide)) ?_
    | with_reducible refine State.loadStep_frame (Part.sub hp (by decide)) ?_ | with_reducible refine State.restoreIntent_frame (Part.sub hp (by decide)) ?_
    | with_reducible apply Part.ite | with_reducible apply Part.iteFst | split

theorem State.takePlaced_frame {pt : Part} {base : State} {s : State} {p : PlacedIntent} (hp : pt ∉ [Part.ovm]) (hss : pt.same base s) :
    pt.same base (State.takePlaced s p) := by
  unfold State.takePlaced
  try dsimp only
  repeat' first
    | with_reducible assumption | intro _ | with_reducible exact Part.same_refl _ _ | with_reducible apply Part.foldl
    | fail_if_no_progress with_reducible refine Part.same_upd ?_ ?_ | ((with_reducible refine Part.keptIntro ?_); cases pt <;> first | exact absurd (by decide) hp | exact rfl | exact ⟨rfl, rfl⟩)

theorem State.takePlace_frame {pt : Part} {base : State} {a : State} {p : PlaceMsg} (hp : pt ∉ [Part.regs, Part.io, Part.shf, Part.map, Part.ovm, Part.par]) (hsa : pt.same base a) :
    pt.same base (State.takePlace a p) := by
  unfold State.takePlace
  try dsimp only
  repeat' first
    | with_reducible assumption | intro _ | with_reducible exact Part.same_refl _ _ | with_reducible refine State.armNow_frame (Part.sub hp (by decide)) ?_
    | with_reducible refine State.send_frame (Part.sub hp (by decide)) ?_ | with_reducible refine State.setPar_frame (Part.sub hp (by decide)) ?_
    | with_reducible refine State.takePlaced_frame (Part.sub hp (by decide)) ?_ | with_reducible apply Part.ite
    | with_reducible apply Part.foldl | with_reducible apply Part.foldlFst | with_reducible apply Part.iteFst
    | fail_if_no_progress with_reducible refine Part.same_upd ?_ ?_ | ((with_reducible refine Part.keptIntro ?_); cases pt <;> first | exact absurd (by decide) hp | exact rfl | exact ⟨rfl, rfl⟩)
    | split

theorem State.takeGates_frame {pt : Part} {base : State} {a : State} {l : List GateEntry} (hp : pt ∉ [Part.par]) (hsa : pt.same base a) :
    pt.same base (State.takeGates a l) := by
  unfold State.takeGates
  try dsimp only
  repeat' first
    | with_reducible assumption | intro _ | with_reducible exact Part.same_refl _ _ | with_reducible apply Part.ite
    | with_reducible apply Part.foldl | fail_if_no_progress with_reducible refine Part.same_upd ?_ ?_
    | ((with_reducible refine Part.keptIntro ?_); cases pt <;> first | exact absurd (by decide) hp | exact rfl | exact ⟨rfl, rfl⟩)
    | split

theorem State.takeStateData_frame {pt : Part} {base : State} {a : State} {sent : Nat} {b : BulkMsg} (hp : pt ∉ [Part.regs, Part.io, Part.cip, Part.par]) (hsa : pt.same base a) :
    pt.same base (State.takeStateData a sent b) := by
  unfold State.takeStateData
  try dsimp only
  repeat' first
    | with_reducible assumption | intro _ | with_reducible refine State.bulkResult_frame (Part.sub hp (by decide)) ?_
    | with_reducible refine State.discardEpoch_frame (Part.sub hp (by decide)) ?_ | with_reducible apply Part.ite
    | fail_if_no_progress with_reducible refine Part.same_upd ?_ ?_ | ((with_reducible refine Part.keptIntro ?_); cases pt <;> first | exact absurd (by decide) hp | exact rfl | exact ⟨rfl, rfl⟩)
    | split

theorem State.runData_frame {pt : Part} {base : State} {s : State} {m : DataMsg} (hp : pt ∉ [Part.regs, Part.io, Part.shf, Part.map, Part.ovm, Part.cip, Part.par]) (hss : pt.same base s) :
    pt.same base (State.runData s m) := by
  cases m <;> unfold State.runData <;> dsimp only
  · exact State.takePlace_frame (Part.sub hp (by decide)) hss
  · exact State.takeGates_frame (Part.sub hp (by decide)) hss
  · exact State.takeStateData_frame (Part.sub hp (by decide)) hss

theorem State.drainData_frame {pt : Part} {base : State} {n : Nat} (hp : pt ∉ [Part.regs, Part.io, Part.shf, Part.map, Part.ovm, Part.cip, Part.par]) :
    ∀ {s : State}, pt.same base s → pt.same base (State.drainData n s) := by
  induction n with
  | zero => intro s hss; exact hss
  | succ n ih =>
    intro s hss
    unfold State.drainData
    dsimp only
    split
    · exact hss
    · exact ih (State.runData_frame (Part.sub hp (by decide)) (Part.same_upd hss (by
      cases pt <;> first | exact absurd (by decide) hp | exact rfl | exact ⟨rfl, rfl⟩)))

theorem State.orderData_frame {pt : Part} {base : State} {s : State} {q : Nat} {m : DataMsg} (hp : pt ∉ [Part.regs, Part.io, Part.shf, Part.map, Part.ovm, Part.cip, Part.par]) (hss : pt.same base s) :
    pt.same base (State.orderData s q m) := by
  unfold State.orderData
  try dsimp only
  repeat' first
    | with_reducible assumption | intro _ | with_reducible exact Part.same_refl _ _ | with_reducible refine State.drainData_frame (Part.sub hp (by decide)) ?_
    | with_reducible apply Part.ite | with_reducible apply Part.foldl | with_reducible apply Part.foldlFst
    | with_reducible apply Part.iteFst | fail_if_no_progress with_reducible refine Part.same_upd ?_ ?_
    | ((with_reducible refine Part.keptIntro ?_); cases pt <;> first | exact absurd (by decide) hp | exact rfl | exact ⟨rfl, rfl⟩)
    | split

theorem State.dataMsg_frame {pt : Part} {base : State} {s : State} {typ : Nat} {head : List Nat} {good : Bool} {m : DataMsg} (hp : pt ∉ [Part.regs, Part.io, Part.shf, Part.map, Part.ovm, Part.cip, Part.par]) (hss : pt.same base s) :
    pt.same base (State.dataMsg s typ head good m) := by
  unfold State.dataMsg
  try dsimp only
  repeat' first
    | with_reducible assumption | intro _ | with_reducible refine State.count_frame (Part.sub hp (by decide)) ?_
    | with_reducible refine State.orderData_frame (Part.sub hp (by decide)) ?_ | with_reducible apply Part.ite
    | split

theorem execPlace_frame {pt : Part} {dt : Nat} {m : MsgHead} {p : PlaceMsg} {s : State} (hp : pt ∉ [Part.clock, Part.regs, Part.io, Part.shf, Part.map, Part.ovm, Part.cip, Part.par]) :
    ∃ s', execPlace dt m p s = .next s' ∧ pt.same s s' := by
  unfold execPlace
  refine ⟨_, rfl, ?_⟩
  try dsimp only
  repeat' first
    | with_reducible assumption | with_reducible exact Part.same_refl _ _ | intro _ | with_reducible refine State.dataMsg_frame (Part.sub hp (by decide)) ?_
    | with_reducible refine State.elapse_frame (Part.sub hp (by decide)) ?_

theorem execPlaceAck_frame {pt : Part} {dt : Nat} {m : MsgHead} {cycle crc : Nat} {s : State} (hp : pt ∉ [Part.clock, Part.regs, Part.io, Part.shf, Part.map, Part.ovm, Part.par]) :
    ∃ s', execPlaceAck dt m cycle crc s = .next s' ∧ pt.same s s' := by
  unfold execPlaceAck
  refine ⟨_, rfl, ?_⟩
  try dsimp only
  repeat' first
    | with_reducible assumption | intro _ | with_reducible exact Part.same_refl _ _ | with_reducible refine State.armNow_frame (Part.sub hp (by decide)) ?_
    | with_reducible refine State.control_frame (Part.sub hp (by decide)) ?_ ?_ | with_reducible refine State.elapse_frame (Part.sub hp (by decide)) ?_
    | with_reducible refine State.sendPlace_frame (Part.sub hp (by decide)) ?_ | with_reducible apply Part.ite
    | with_reducible apply Part.iteFst | split

theorem execCtrlImage_frame {pt : Part} {dt : Nat} {m : MsgHead} {l : List ImageEntry} {s : State} (hp : pt ∉ [Part.clock, Part.regs, Part.io, Part.frm, Part.par]) :
    ∃ s', execCtrlImage dt m l s = .next s' ∧ pt.same s s' := by
  unfold execCtrlImage
  refine ⟨_, rfl, ?_⟩
  try dsimp only
  repeat' first
    | with_reducible assumption | intro _ | with_reducible exact Part.same_refl _ _ | with_reducible refine State.control_frame (Part.sub hp (by decide)) ?_ ?_
    | with_reducible refine State.elapse_frame (Part.sub hp (by decide)) ?_ | with_reducible refine State.setGroup_frame (Part.sub hp (by decide)) ?_
    | with_reducible apply Part.ite | with_reducible apply Part.foldl | split

theorem execGate_frame {pt : Part} {dt : Nat} {t : MateText} {s : State} (hp : pt ∉ [Part.clock, Part.regs, Part.io, Part.shf, Part.map, Part.ovm, Part.cip, Part.par]) :
    ∃ s', execGate dt t s = .next s' ∧ pt.same s s' := by
  unfold execGate
  refine ⟨_, rfl, ?_⟩
  try dsimp only
  repeat' first
    | with_reducible assumption | with_reducible exact Part.same_refl _ _ | intro _ | with_reducible refine State.dataMsg_frame (Part.sub hp (by decide)) ?_
    | with_reducible refine State.elapse_frame (Part.sub hp (by decide)) ?_

theorem State.takeDecision_frame {pt : Part} {base : State} {s : State} {c d : Nat} (hp : pt ∉ [Part.map]) (hss : pt.same base s) :
    pt.same base (State.takeDecision s c d) := by
  unfold State.takeDecision
  try dsimp only
  repeat' first
    | with_reducible assumption | intro _ | with_reducible apply Part.ite | with_reducible apply Part.iteFst
    | split | fail_if_no_progress with_reducible refine Part.same_upd ?_ ?_ | ((with_reducible refine Part.keptIntro ?_); cases pt <;> first | exact absurd (by decide) hp | exact rfl | exact ⟨rfl, rfl⟩)

theorem execParGateMiss_frame {pt : Part} {dt ctx frame : Nat} {s : State} (hp : pt ∉ [Part.clock, Part.freeCtr, Part.regs, Part.io, Part.map, Part.par]) :
    ∃ s', execParGateMiss dt ctx frame s = .next s' ∧ pt.same s s' := by
  unfold execParGateMiss
  refine ⟨_, rfl, ?_⟩
  try dsimp only
  repeat' first
    | with_reducible assumption | intro _ | with_reducible exact Part.same_refl _ _ | with_reducible refine State.count_frame (Part.sub hp (by decide)) ?_
    | with_reducible refine State.draw_frame (Part.sub hp (by decide)) ?_ | with_reducible refine State.elapse_frame (Part.sub hp (by decide)) ?_
    | with_reducible refine State.raiseOnce_frame (Part.sub hp (by decide)) ?_ | with_reducible refine State.send_frame (Part.sub hp (by decide)) ?_
    | with_reducible refine State.takeDecision_frame (Part.sub hp (by decide)) ?_ | with_reducible apply Part.ite
    | split | fail_if_no_progress with_reducible refine Part.same_upd ?_ ?_ | ((with_reducible refine Part.keptIntro ?_); cases pt <;> first | exact absurd (by decide) hp | exact rfl | exact ⟨rfl, rfl⟩)

theorem State.epochRegs_frame {pt : Part} {base : State} {s : State} {a : Nat} (hp : pt ∉ [Part.regs, Part.par]) (hss : pt.same base s) :
    pt.same base (State.epochRegs s a) := by
  unfold State.epochRegs
  try dsimp only
  repeat' first
    | with_reducible assumption | intro _ | with_reducible refine State.wr_frame (Part.sub hp (by decide)) ?_
    | fail_if_no_progress with_reducible refine Part.same_upd ?_ ?_ | ((with_reducible refine Part.keptIntro ?_); cases pt <;> first | exact absurd (by decide) hp | exact rfl | exact ⟨rfl, rfl⟩)

theorem execStateCopyEpoch_frame {pt : Part} {dt : Nat} {s : State} (hp : pt ∉ [Part.clock, Part.regs, Part.par]) :
    ∃ s', execStateCopyEpoch dt s = .next s' ∧ pt.same s s' := by
  unfold execStateCopyEpoch
  refine ⟨_, rfl, ?_⟩
  try dsimp only
  repeat' first
    | with_reducible assumption | intro _ | with_reducible exact Part.same_refl _ _ | with_reducible refine State.atEntry_frame (Part.sub hp (by decide)) ?_
    | with_reducible refine State.epochRegs_frame (Part.sub hp (by decide)) ?_ | with_reducible refine State.send_frame (Part.sub hp (by decide)) ?_
    | with_reducible apply Part.ite | split | fail_if_no_progress with_reducible refine Part.same_upd ?_ ?_
    | ((with_reducible refine Part.keptIntro ?_); cases pt <;> first | exact absurd (by decide) hp | exact rfl | exact ⟨rfl, rfl⟩)

theorem execStateData_frame {pt : Part} {dt : Nat} {t : MateText} {s : State} (hp : pt ∉ [Part.clock, Part.regs, Part.io, Part.shf, Part.map, Part.ovm, Part.cip, Part.par]) :
    ∃ s', execStateData dt t s = .next s' ∧ pt.same s s' := by
  unfold execStateData
  refine ⟨_, rfl, ?_⟩
  try dsimp only
  repeat' first
    | with_reducible assumption | with_reducible exact Part.same_refl _ _ | intro _ | with_reducible refine State.dataMsg_frame (Part.sub hp (by decide)) ?_
    | with_reducible refine State.elapse_frame (Part.sub hp (by decide)) ?_

theorem State.copyPoint_frame {pt : Part} {base : State} {s : State} {c : PointCopy} (hp : pt ∉ [Part.pm]) (hss : pt.same base s) :
    pt.same base (State.copyPoint s c) := by
  unfold State.copyPoint
  try dsimp only
  repeat' first
    | with_reducible assumption | intro _ | with_reducible refine State.setPoint_frame (Part.sub hp (by decide)) ?_

theorem State.copyGroup_frame {pt : Part} {base : State} {s : State} {c : GroupCopy} (hp : pt ∉ [Part.clock, Part.io, Part.frm]) (hss : pt.same base s) :
    pt.same base (State.copyGroup s c) := by
  unfold State.copyGroup
  try dsimp only
  repeat' first
    | with_reducible assumption | intro _ | with_reducible exact Part.same_refl _ _ | with_reducible refine State.command_frame (Part.sub hp (by decide)) ?_ ?_
    | with_reducible refine State.setGroup_frame (Part.sub hp (by decide)) ?_ | split

theorem State.copyCtx_frame {pt : Part} {base : State} {s : State} {i : Nat} {p : PlacedCtx} (hp : pt ∉ [Part.freeCtr, Part.regs, Part.io, Part.frm, Part.ovm, Part.qmg, Part.pm, Part.cip]) (hss : pt.same base s) :
    pt.same base (State.copyCtx s i p) := by
  unfold State.copyCtx
  try dsimp only
  repeat' first
    | with_reducible assumption | intro _ | with_reducible refine State.draw_frame (Part.sub hp (by decide)) ?_
    | with_reducible refine flowQueue_frame (Part.sub hp (by decide)) ?_ | with_reducible refine State.placeCipher_frame (Part.sub hp (by decide)) ?_
    | with_reducible refine State.pmPlace_frame (Part.sub hp (by decide)) ?_ | with_reducible refine State.setFramer_frame (Part.sub hp (by decide)) ?_
    | with_reducible apply Part.ite | split | fail_if_no_progress with_reducible refine Part.same_upd ?_ ?_
    | ((with_reducible refine Part.keptIntro ?_); cases pt <;> first | exact absurd (by decide) hp | exact rfl | exact ⟨rfl, rfl⟩)

theorem State.copyIntent_frame {pt : Part} {base : State} {s : State} {p : PlacedIntent} (hp : pt ∉ [Part.freeCtr, Part.regs, Part.io, Part.frm, Part.map, Part.ovm, Part.qmg, Part.pm, Part.cip]) (hss : pt.same base s) :
    pt.same base (State.copyIntent s p) := by
  unfold State.copyIntent
  try dsimp only
  repeat' first
    | with_reducible assumption | intro _ | with_reducible exact Part.same_refl _ _ | with_reducible refine State.addGroup_frame (Part.sub hp (by decide)) ?_
    | with_reducible refine State.copyCtx_frame (Part.sub hp (by decide)) ?_ | with_reducible apply Part.ite
    | with_reducible apply Part.foldl | fail_if_no_progress with_reducible refine Part.same_upd ?_ ?_
    | ((with_reducible refine Part.keptIntro ?_); cases pt <;> first | exact absurd (by decide) hp | exact rfl | exact ⟨rfl, rfl⟩)
    | split

theorem State.copyDefect_frame {pt : Part} {base : State} {s : State} {c : DefectCopy} (hp : pt ∉ [Part.frm]) (hss : pt.same base s) :
    pt.same base (State.copyDefect s c) := by
  unfold State.copyDefect
  try dsimp only
  repeat' first
    | with_reducible assumption | intro _ | with_reducible exact Part.same_refl _ _ | with_reducible refine State.setFramer_frame (Part.sub hp (by decide)) ?_
    | with_reducible apply Part.ite | with_reducible apply Part.foldl | with_reducible apply Part.foldlFst
    | with_reducible apply Part.iteFst | split

theorem State.copySlot_frame {pt : Part} {base : State} {s : State} {c : SlotCopy} (hp : pt ∉ [Part.regs, Part.cip]) (hss : pt.same base s) :
    pt.same base (State.copySlot s c) := by
  unfold State.copySlot
  try dsimp only
  repeat' first
    | with_reducible assumption | intro _ | with_reducible exact Part.same_refl _ _ | with_reducible refine State.setSlot_frame (Part.sub hp (by decide)) ?_

theorem State.copyEpoch_frame {pt : Part} {base : State} {s : State} {c : EpochCopy} (hp : pt ∉ [Part.regs, Part.cip, Part.par]) (hss : pt.same base s) :
    pt.same base (State.copyEpoch s c) := by
  unfold State.copyEpoch
  try dsimp only
  repeat' first
    | with_reducible assumption | intro _ | with_reducible refine State.send_frame (Part.sub hp (by decide)) ?_
    | with_reducible refine State.setCip_frame (Part.sub hp (by decide)) ?_ | with_reducible apply Part.ite
    | split

theorem State.applySnapshot_frame {pt : Part} {base : State} {s : State} {stamp : Nat} {full : Bool} {n : Snapshot} (hp : pt ∉ [Part.clock, Part.freeCtr, Part.regs, Part.io, Part.shf, Part.tim, Part.prt, Part.rlk, Part.frm, Part.map, Part.ovm, Part.qmg, Part.pm, Part.cip, Part.par]) (hss : pt.same base s) :
    pt.same base (State.applySnapshot s stamp full n) := by
  unfold State.applySnapshot
  try dsimp only
  repeat' first
    | with_reducible assumption | intro _ | with_reducible exact Part.same_refl _ _ | with_reducible refine State.copyDefect_frame (Part.sub hp (by decide)) ?_
    | with_reducible refine State.copyEpoch_frame (Part.sub hp (by decide)) ?_ | with_reducible refine State.copyGroup_frame (Part.sub hp (by decide)) ?_
    | with_reducible refine State.copyIntent_frame (Part.sub hp (by decide)) ?_ | with_reducible refine State.copyPoint_frame (Part.sub hp (by decide)) ?_
    | with_reducible refine State.copySlot_frame (Part.sub hp (by decide)) ?_ | with_reducible refine State.dropCtx_frame (Part.sub hp (by decide)) ?_
    | with_reducible refine State.setTod_frame (Part.sub hp (by decide)) ?_ | with_reducible apply Part.ite
    | with_reducible apply Part.foldl | with_reducible apply Part.foldlFst | with_reducible apply Part.iteFst
    | split

theorem State.drillMissed_frame {pt : Part} {base : State} {s : State} {stamp : Nat} (hp : pt ∉ [Part.freeCtr, Part.io, Part.par]) (hss : pt.same base s) :
    pt.same base (State.drillMissed s stamp) := by
  unfold State.drillMissed
  try dsimp only
  repeat' first
    | with_reducible assumption | intro _ | with_reducible refine State.endDrill_frame (Part.sub hp (by decide)) ?_
    | with_reducible apply Part.ite | split

theorem State.takeCommit_frame {pt : Part} {base : State} {a0 : State} {b : BulkMsg} {snap : Snapshot} (hp : pt ∉ [Part.clock, Part.freeCtr, Part.regs, Part.io, Part.shf, Part.tim, Part.prt, Part.rlk, Part.frm, Part.map, Part.ovm, Part.qmg, Part.pm, Part.cip, Part.par, Part.bkg]) (hsa0 : pt.same base a0) :
    pt.same base (State.takeCommit a0 b snap) := by
  unfold State.takeCommit
  try dsimp only
  repeat' first
    | with_reducible assumption | intro _ | with_reducible refine State.alterCheck_frameAs (Part.sub hp (by decide)) ?_ (by with_reducible assumption)
    | with_reducible refine State.alterCheck_frame (Part.sub hp (by decide)) ?_ | with_reducible refine State.applySnapshot_frame (Part.sub hp (by decide)) ?_
    | with_reducible refine State.count_frame (Part.sub hp (by decide)) ?_ | with_reducible refine State.discardEpoch_frame (Part.sub hp (by decide)) ?_
    | with_reducible refine State.drillMissed_frame (Part.sub hp (by decide)) ?_ | with_reducible refine State.epochRegs_frame (Part.sub hp (by decide)) ?_
    | with_reducible refine State.review_frame (Part.sub hp (by decide)) ?_ | with_reducible refine State.send_frame (Part.sub hp (by decide)) ?_
    | with_reducible refine State.tryStandby_frame (Part.sub hp (by decide)) ?_ | with_reducible refine State.waitAddr_frame (Part.sub hp (by decide)) ?_
    | with_reducible apply Part.ite | with_reducible apply Part.iteFst | split | fail_if_no_progress with_reducible refine Part.same_upd ?_ ?_
    | ((with_reducible refine Part.keptIntro ?_); cases pt <;> first | exact absurd (by decide) hp | exact rfl | exact ⟨rfl, rfl⟩)

theorem execStateCommit_frame {pt : Part} {dt : Nat} {t : MateText} {snap : Snapshot} {s : State} (hp : pt ∉ [Part.clock, Part.freeCtr, Part.regs, Part.io, Part.shf, Part.tim, Part.prt, Part.rlk, Part.frm, Part.map, Part.ovm, Part.qmg, Part.pm, Part.cip, Part.par, Part.bkg]) :
    ∃ s', execStateCommit dt t snap s = .next s' ∧ pt.same s s' := by
  unfold execStateCommit
  refine ⟨_, rfl, ?_⟩
  try dsimp only
  repeat' first
    | with_reducible assumption | intro _ | with_reducible exact Part.same_refl _ _ | with_reducible refine State.controlText_frame (Part.sub hp (by decide)) ?_ ?_
    | with_reducible refine State.elapse_frame (Part.sub hp (by decide)) ?_ | with_reducible refine State.takeCommit_frame (Part.sub hp (by decide)) ?_

theorem execStateCommitDeadline_frame {pt : Part} {dt : Nat} {s : State} (hp : pt ∉ [Part.clock, Part.regs, Part.io, Part.par]) :
    ∃ s', execStateCommitDeadline dt s = .next s' ∧ pt.same s s' := by
  unfold execStateCommitDeadline
  refine ⟨_, rfl, ?_⟩
  try dsimp only
  repeat' first
    | with_reducible assumption | with_reducible exact Part.same_refl _ _ | intro _ | with_reducible refine State.discardEpoch_frame (Part.sub hp (by decide)) ?_
    | with_reducible refine State.elapse_frame (Part.sub hp (by decide)) ?_ | with_reducible refine State.waitAddr_frame (Part.sub hp (by decide)) ?_
    | with_reducible apply Part.ite | split | fail_if_no_progress with_reducible refine Part.same_upd ?_ ?_
    | ((with_reducible refine Part.keptIntro ?_); cases pt <;> first | exact absurd (by decide) hp | exact rfl | exact ⟨rfl, rfl⟩)

theorem State.takeAck_frame {pt : Part} {base : State} {a : State} {stamp verdict : Nat} (hp : pt ∉ [Part.regs, Part.io, Part.par]) (hsa : pt.same base a) :
    pt.same base (State.takeAck a stamp verdict) := by
  unfold State.takeAck
  try dsimp only
  repeat' first
    | with_reducible assumption | intro _ | with_reducible refine State.giveUp_frame (Part.sub hp (by decide)) ?_
    | with_reducible apply Part.ite | split | fail_if_no_progress with_reducible refine Part.same_upd ?_ ?_
    | ((with_reducible refine Part.keptIntro ?_); cases pt <;> first | exact absurd (by decide) hp | exact rfl | exact ⟨rfl, rfl⟩)

theorem execStateAck_frame {pt : Part} {dt : Nat} {t : MateText} {s : State} (hp : pt ∉ [Part.clock, Part.regs, Part.io, Part.par]) :
    ∃ s', execStateAck dt t s = .next s' ∧ pt.same s s' := by
  unfold execStateAck
  refine ⟨_, rfl, ?_⟩
  try dsimp only
  repeat' first
    | with_reducible assumption | intro _ | with_reducible exact Part.same_refl _ _ | with_reducible refine State.controlText_frame (Part.sub hp (by decide)) ?_ ?_
    | with_reducible refine State.elapse_frame (Part.sub hp (by decide)) ?_ | with_reducible refine State.takeAck_frame (Part.sub hp (by decide)) ?_

theorem execDrill_frame {pt : Part} {dt : Nat} {m : MsgHead} {options cycle : Nat} {s : State} (hp : pt ∉ [Part.clock, Part.regs, Part.io, Part.par]) :
    ∃ s', execDrill dt m options cycle s = .next s' ∧ pt.same s s' := by
  unfold execDrill
  refine ⟨_, rfl, ?_⟩
  try dsimp only
  repeat' first
    | with_reducible assumption | intro _ | with_reducible exact Part.same_refl _ _ | with_reducible refine State.control_frame (Part.sub hp (by decide)) ?_ ?_
    | with_reducible refine State.elapse_frame (Part.sub hp (by decide)) ?_ | fail_if_no_progress with_reducible refine Part.same_upd ?_ ?_
    | ((with_reducible refine Part.keptIntro ?_); cases pt <;> first | exact absurd (by decide) hp | exact rfl | exact ⟨rfl, rfl⟩)

theorem execDrillAckTimeout_frame {pt : Part} {dt : Nat} {s : State} (hp : pt ∉ [Part.clock, Part.freeCtr, Part.io, Part.par]) :
    ∃ s', execDrillAckTimeout dt s = .next s' ∧ pt.same s s' := by
  unfold execDrillAckTimeout
  refine ⟨_, rfl, ?_⟩
  try dsimp only
  repeat' first
    | with_reducible assumption | with_reducible exact Part.same_refl _ _ | intro _ | with_reducible refine State.elapse_frame (Part.sub hp (by decide)) ?_
    | with_reducible refine State.endDrill_frame (Part.sub hp (by decide)) ?_ | with_reducible refine State.waitAddr_frame (Part.sub hp (by decide)) ?_
    | with_reducible apply Part.ite | split

theorem execDrillClaimTimeout_frame {pt : Part} {dt : Nat} {s : State} (hp : pt ∉ [Part.clock, Part.freeCtr, Part.regs, Part.io, Part.pm, Part.par]) :
    ∃ s', execDrillClaimTimeout dt s = .next s' ∧ pt.same s s' := by
  unfold execDrillClaimTimeout
  refine ⟨_, rfl, ?_⟩
  try dsimp only
  repeat' first
    | with_reducible assumption | with_reducible exact Part.same_refl _ _ | intro _ | with_reducible refine State.elapse_frame (Part.sub hp (by decide)) ?_
    | with_reducible refine State.endDrill_frame (Part.sub hp (by decide)) ?_ | with_reducible refine State.enterTaking_frame (Part.sub hp (by decide)) ?_
    | with_reducible apply Part.ite | split

theorem execParTake_frame {pt : Part} {dt : Nat} {h : HostRef} {s : State} (hp : pt ∉ [Part.clock, Part.freeCtr, Part.regs, Part.io, Part.pm, Part.par]) :
    ∃ s', execParTake dt h s = .next s' ∧ pt.same s s' := by
  unfold execParTake
  refine ⟨_, rfl, ?_⟩
  try dsimp only
  repeat' first
    | with_reducible assumption | intro _ | with_reducible exact Part.same_refl _ _ | with_reducible refine State.command_frame (Part.sub hp (by decide)) ?_ ?_
    | with_reducible refine State.enterTaking_frame (Part.sub hp (by decide)) ?_ | with_reducible refine State.refuse_frame (Part.sub hp (by decide)) ?_
    | with_reducible apply Part.ite | split

theorem execParSurrender_frame {pt : Part} {dt : Nat} {h : HostRef} {s : State} (hp : pt ∉ [Part.clock, Part.regs, Part.io, Part.par]) :
    ∃ s', execParSurrender dt h s = .next s' ∧ pt.same s s' := by
  unfold execParSurrender
  refine ⟨_, rfl, ?_⟩
  try dsimp only
  repeat' first
    | with_reducible assumption | intro _ | with_reducible exact Part.same_refl _ _ | with_reducible refine State.command_frame (Part.sub hp (by decide)) ?_ ?_
    | with_reducible refine State.done_frame (Part.sub hp (by decide)) ?_ | with_reducible refine State.giveUp_frame (Part.sub hp (by decide)) ?_
    | with_reducible refine State.refuse_frame (Part.sub hp (by decide)) ?_ | with_reducible apply Part.ite
    | split

theorem execParDrill_frame {pt : Part} {dt : Nat} {h : HostRef} {options : Nat} {s : State} (hp : pt ∉ [Part.clock, Part.io, Part.par]) :
    ∃ s', execParDrill dt h options s = .next s' ∧ pt.same s s' := by
  unfold execParDrill
  refine ⟨_, rfl, ?_⟩
  try dsimp only
  repeat' first
    | with_reducible assumption | intro _ | with_reducible exact Part.same_refl _ _ | with_reducible refine State.command_frame (Part.sub hp (by decide)) ?_ ?_
    | with_reducible refine State.done_frame (Part.sub hp (by decide)) ?_ | with_reducible refine State.refuse_frame (Part.sub hp (by decide)) ?_
    | with_reducible refine State.send_frame (Part.sub hp (by decide)) ?_ | with_reducible apply Part.ite
    | fail_if_no_progress with_reducible refine Part.same_upd ?_ ?_ | ((with_reducible refine Part.keptIntro ?_); cases pt <;> first | exact absurd (by decide) hp | exact rfl | exact ⟨rfl, rfl⟩)
    | split

theorem execParClearFault_frame {pt : Part} {dt : Nat} {h : HostRef} {s : State} (hp : pt ∉ [Part.clock, Part.freeCtr, Part.regs, Part.io, Part.pm, Part.par]) :
    ∃ s', execParClearFault dt h s = .next s' ∧ pt.same s s' := by
  unfold execParClearFault
  refine ⟨_, rfl, ?_⟩
  try dsimp only
  repeat' first
    | with_reducible assumption | intro _ | with_reducible exact Part.same_refl _ _ | with_reducible refine State.command_frame (Part.sub hp (by decide)) ?_ ?_
    | with_reducible refine State.done_frame (Part.sub hp (by decide)) ?_ | with_reducible refine State.parRegs_frame (Part.sub hp (by decide)) ?_
    | with_reducible refine State.refuse_frame (Part.sub hp (by decide)) ?_ | with_reducible refine State.review_frame (Part.sub hp (by decide)) ?_
    | with_reducible apply Part.ite | fail_if_no_progress with_reducible refine Part.same_upd ?_ ?_ | ((with_reducible refine Part.keptIntro ?_); cases pt <;> first | exact absurd (by decide) hp | exact rfl | exact ⟨rfl, rfl⟩)
    | split

end Sys2Proof.Machine
end

