-- ==== Sys2Proof/Laws/FramesEnergy.lean ====
section
/-! SUPPORT. Which parts of the state the operations of Machine/Energy.lean may change. -/

set_option Elab.async false

namespace Sys2Proof.Machine

theorem State.ledgerReg_frame {pt : Part} {base : State} {s : State} (hp : pt ∉ [Part.freeCtr, Part.regs]) (hss : pt.same base s) :
    pt.same base (State.ledgerReg s) := by
  unfold State.ledgerReg
  try dsimp only
  repeat' first
    | with_reducible assumption | intro _ | with_reducible refine State.draw_frame (Part.sub hp (by decide)) ?_
    | with_reducible refine State.wr_frame (Part.sub hp (by decide)) ?_

theorem State.chargeLedger_frame {pt : Part} {base : State} {s : State} {p : Nat} (hp : pt ∉ [Part.freeCtr, Part.regs, Part.eng]) (hss : pt.same base s) :
    pt.same base (State.chargeLedger s p) := by
  unfold State.chargeLedger
  try dsimp only
  repeat' first
    | with_reducible assumption | intro _ | with_reducible refine State.ledgerReg_frame (Part.sub hp (by decide)) ?_
    | with_reducible apply Part.ite | fail_if_no_progress with_reducible refine Part.same_upd ?_ ?_ | ((with_reducible refine Part.keptIntro ?_); cases pt <;> first | exact absurd (by decide) hp | exact rfl | exact ⟨rfl, rfl⟩)
    | split

theorem State.setRail_frame {pt : Part} {base : State} {s : State} {r mv p : Nat} (hp : pt ∉ [Part.regs]) (hss : pt.same base s) :
    pt.same base (State.setRail s r mv p) := by
  unfold State.setRail
  try dsimp only
  repeat' first
    | with_reducible assumption | intro _ | with_reducible refine State.wr_frame (Part.sub hp (by decide)) ?_

theorem execDevPowerUpdate_frame {pt : Part} {dt : Nat} {rails : List (Nat × Nat)} {s : State} (hp : pt ∉ [Part.clock, Part.freeCtr, Part.regs, Part.eng]) :
    ∃ s', execDevPowerUpdate dt rails s = .next s' ∧ pt.same s s' := by
  unfold execDevPowerUpdate
  refine ⟨_, rfl, ?_⟩
  try dsimp only
  repeat' first
    | with_reducible assumption | intro _ | with_reducible exact Part.same_refl _ _ | with_reducible refine State.chargeLedger_frame (Part.sub hp (by decide)) ?_
    | with_reducible refine State.draw_frame (Part.sub hp (by decide)) ?_ | with_reducible refine State.setRail_frame (Part.sub hp (by decide)) ?_
    | with_reducible refine State.toBoundary_frame (Part.sub hp (by decide)) ?_ | with_reducible refine State.wr_frame (Part.sub hp (by decide)) ?_
    | with_reducible apply Part.ite | with_reducible apply Part.foldl | with_reducible apply Part.foldlFst
    | with_reducible apply Part.iteFst | fail_if_no_progress with_reducible refine Part.same_upd ?_ ?_
    | ((with_reducible refine Part.keptIntro ?_); cases pt <;> first | exact absurd (by decide) hp | exact rfl | exact ⟨rfl, rfl⟩)
    | split

theorem State.intake_frame {pt : Part} {base : State} {s : State} (hp : pt ∉ [Part.freeCtr, Part.regs, Part.feeds]) (hss : pt.same base s) :
    pt.same base (State.intake s) := by
  unfold State.intake
  try dsimp only
  repeat' first
    | with_reducible assumption | intro _ | with_reducible exact Part.same_refl _ _ | with_reducible refine State.draw_frame (Part.sub hp (by decide)) ?_
    | with_reducible refine State.setFeed_frame (Part.sub hp (by decide)) ?_ | with_reducible refine State.wr_frame (Part.sub hp (by decide)) ?_
    | with_reducible apply Part.ite | with_reducible apply Part.foldl | split

theorem State.leverRegs_frame {pt : Part} {base : State} {s : State} {isOver : Bool} (hp : pt ∉ [Part.regs]) (hss : pt.same base s) :
    pt.same base (State.leverRegs s isOver) := by
  unfold State.leverRegs
  try dsimp only
  repeat' first
    | with_reducible assumption | intro _ | with_reducible refine State.wr_frame (Part.sub hp (by decide)) ?_
    | with_reducible apply Part.ite | split

theorem State.sayLever_frame {pt : Part} {base : State} {s : State} {lever : Nat} {pulled : Bool} {mean : Rat} (hp : pt ∉ [Part.freeCtr, Part.io]) (hss : pt.same base s) :
    pt.same base (State.sayLever s lever pulled mean) := by
  unfold State.sayLever
  try dsimp only
  repeat' first
    | with_reducible assumption | intro _ | with_reducible refine State.draw_frame (Part.sub hp (by decide)) ?_
    | with_reducible refine State.raise_frame (Part.sub hp (by decide)) ?_

theorem State.pull_frame {pt : Part} {base : State} {s : State} {o : GovObs} {lever : Nat}
    (hp : pt ∉ [Part.regs, Part.io, Part.tim, Part.prt, Part.rlk, Part.frm, Part.ovm, Part.pm, Part.par, Part.eng])
    (hss : pt.same base s) {t : State} (ht : State.pull s o lever = some t) : pt.same base t := by
  unfold State.pull at ht
  dsimp only at ht
  repeat' split at ht
  all_goals first
    | (cases ht; done)
    | (cases ht
       repeat' first
         | with_reducible assumption | with_reducible refine State.loadStep_frame (Part.sub hp (by decide)) ?_
         | with_reducible refine State.wrBit_frame (Part.sub hp (by decide)) ?_
         | fail_if_no_progress with_reducible refine Part.same_upd ?_ ?_
         | ((with_reducible refine Part.keptIntro ?_); cases pt <;> first | exact absurd (by decide) hp | exact rfl | exact ⟨rfl, rfl⟩))
    | (rw [Option.map_eq_some_iff] at ht
       obtain ⟨u, _, ht⟩ := ht
       subst ht
       repeat' first
         | with_reducible assumption | with_reducible refine State.loadStep_frame (Part.sub hp (by decide)) ?_
         | with_reducible refine State.sendFwd_frame (Part.sub hp (by decide)) ?_ | with_reducible apply Part.ite
         | fail_if_no_progress with_reducible refine Part.same_upd ?_ ?_
         | ((with_reducible refine Part.keptIntro ?_); cases pt <;> first | exact absurd (by decide) hp | exact rfl | exact ⟨rfl, rfl⟩))

theorem State.pullLowest_frame {pt : Part} {base : State} {s : State} {o : GovObs} {mean : Rat} {l : List Nat}
    (hp : pt ∉ [Part.freeCtr, Part.regs, Part.io, Part.tim, Part.prt, Part.rlk, Part.frm, Part.ovm, Part.pm, Part.par, Part.eng])
    (hss : pt.same base s) : pt.same base (State.pullLowest s o mean l) := by
  induction l with
  | nil =>
    exact State.leverRegs_frame (Part.sub hp (by decide)) (State.draw_frame (Part.sub hp (by decide))
      (State.raiseIf_frame (Part.sub hp (by decide)) hss))
  | cons x rest ih =>
    unfold State.pullLowest
    split
    · next h =>
      exact State.leverRegs_frame (Part.sub hp (by decide)) (State.sayLever_frame (Part.sub hp (by decide))
        (State.pull_frame (Part.sub hp (by decide)) hss h))
    · exact ih

theorem State.release_frame {pt : Part} {base : State} {s : State} {lever : Nat} (hp : pt ∉ [Part.regs, Part.io, Part.tim, Part.prt, Part.rlk, Part.frm, Part.ovm, Part.pm, Part.par, Part.eng]) (hss : pt.same base s) :
    pt.same base (State.release s lever) := by
  unfold State.release
  try dsimp only
  repeat' first
    | with_reducible assumption | intro _ | with_reducible refine State.loadStep_frame (Part.sub hp (by decide)) ?_
    | with_reducible refine State.restoreIntent_frame (Part.sub hp (by decide)) ?_ | with_reducible refine State.sendFwd_frame (Part.sub hp (by decide)) ?_
    | with_reducible refine State.wrBit_frame (Part.sub hp (by decide)) ?_ | with_reducible apply Part.ite
    | split | fail_if_no_progress with_reducible refine Part.same_upd ?_ ?_ | ((with_reducible refine Part.keptIntro ?_); cases pt <;> first | exact absurd (by decide) hp | exact rfl | exact ⟨rfl, rfl⟩)

theorem State.govern_frame {pt : Part} {base : State} {s : State} {o : GovObs} (hp : pt ∉ [Part.freeCtr, Part.regs, Part.io, Part.tim, Part.prt, Part.rlk, Part.frm, Part.ovm, Part.pm, Part.par, Part.eng]) (hss : pt.same base s) :
    pt.same base (State.govern s o) := by
  unfold State.govern
  try dsimp only
  repeat' first
    | with_reducible assumption | intro _ | with_reducible refine State.leverRegs_frame (Part.sub hp (by decide)) ?_
    | with_reducible refine State.pullLowest_frame (Part.sub hp (by decide)) ?_ | with_reducible refine State.release_frame (Part.sub hp (by decide)) ?_
    | with_reducible refine State.sayLever_frame (Part.sub hp (by decide)) ?_ | with_reducible apply Part.ite
    | split | fail_if_no_progress with_reducible refine Part.same_upd ?_ ?_ | ((with_reducible refine Part.keptIntro ?_); cases pt <;> first | exact absurd (by decide) hp | exact rfl | exact ⟨rfl, rfl⟩)

theorem State.gateStages_frame {pt : Part} {base : State} {s : State} (hp : pt ∉ [Part.regs, Part.io, Part.tim, Part.prt, Part.rlk, Part.frm, Part.ovm, Part.pm, Part.eng]) (hss : pt.same base s) :
    pt.same base (State.gateStages s) := by
  unfold State.gateStages
  try dsimp only
  repeat' first
    | with_reducible assumption | intro _ | with_reducible exact Part.same_refl _ _ | with_reducible refine State.loadStep_frame (Part.sub hp (by decide)) ?_
    | with_reducible apply Part.ite | with_reducible apply Part.foldl | split

theorem State.parkAsked_frame {pt : Part} {base : State} {s : State} (hp : pt ∉ [Part.regs, Part.io, Part.tim, Part.prt, Part.rlk, Part.frm, Part.ovm, Part.pm, Part.eng]) (hss : pt.same base s) :
    pt.same base (State.parkAsked s) := by
  unfold State.parkAsked
  try dsimp only
  repeat' first
    | with_reducible assumption | intro _ | with_reducible exact Part.same_refl _ _ | with_reducible refine State.loadStep_frame (Part.sub hp (by decide)) ?_
    | with_reducible apply Part.foldl | fail_if_no_progress with_reducible refine Part.same_upd ?_ ?_
    | ((with_reducible refine Part.keptIntro ?_); cases pt <;> first | exact absurd (by decide) hp | exact rfl | exact ⟨rfl, rfl⟩)

theorem State.dropWoken_frame {pt : Part} {base : State} {s : State} (hp : pt ∉ [Part.eng]) (hss : pt.same base s) :
    pt.same base (State.dropWoken s) := by
  unfold State.dropWoken
  try dsimp only
  repeat' first
    | with_reducible assumption | intro _ | fail_if_no_progress with_reducible refine Part.same_upd ?_ ?_
    | ((with_reducible refine Part.keptIntro ?_); cases pt <;> first | exact absurd (by decide) hp | exact rfl | exact ⟨rfl, rfl⟩)

theorem execGovernorStep_frame {pt : Part} {dt : Nat} {o : GovObs} {s : State} (hp : pt ∉ [Part.clock, Part.freeCtr, Part.regs, Part.io, Part.tim, Part.prt, Part.rlk, Part.frm, Part.ovm, Part.feeds, Part.pm, Part.par, Part.eng]) :
    ∃ s', execGovernorStep dt o s = .next s' ∧ pt.same s s' := by
  unfold execGovernorStep
  refine ⟨_, rfl, ?_⟩
  try dsimp only
  repeat' first
    | with_reducible assumption | with_reducible exact Part.same_refl _ _ | intro _ | with_reducible refine State.dropWoken_frame (Part.sub hp (by decide)) ?_
    | with_reducible refine State.gateStages_frame (Part.sub hp (by decide)) ?_ | with_reducible refine State.govern_frame (Part.sub hp (by decide)) ?_
    | with_reducible refine State.intake_frame (Part.sub hp (by decide)) ?_ | with_reducible refine State.parkAsked_frame (Part.sub hp (by decide)) ?_
    | with_reducible refine State.toBoundary_frame (Part.sub hp (by decide)) ?_ | with_reducible apply Part.ite
    | split

theorem execDetectorArm_frame {pt : Part} {dt : Nat} {s : State} (hp : pt ∉ [Part.clock, Part.regs]) :
    ∃ s', execDetectorArm dt s = .next s' ∧ pt.same s s' := by
  unfold execDetectorArm
  refine ⟨_, rfl, ?_⟩
  try dsimp only
  repeat' first
    | with_reducible assumption | intro _ | with_reducible exact Part.same_refl _ _ | with_reducible refine State.elapse_frame (Part.sub hp (by decide)) ?_
    | with_reducible refine State.wrBit_frame (Part.sub hp (by decide)) ?_ | with_reducible apply Part.ite
    | with_reducible apply Part.foldl | split

theorem State.enterStage_frame {pt : Part} {base : State} {s : State} {stage : Nat} (hp : pt ∉ [Part.freeCtr, Part.regs, Part.io, Part.rlk, Part.qmg, Part.pm, Part.eng]) (hss : pt.same base s) :
    pt.same base (State.enterStage s stage) := by
  unfold State.enterStage
  try dsimp only
  repeat' first
    | with_reducible assumption | intro _ | with_reducible refine State.draw_frame (Part.sub hp (by decide)) ?_
    | with_reducible refine State.pmFreeze_frame (Part.sub hp (by decide)) ?_ | with_reducible refine State.raise_frame (Part.sub hp (by decide)) ?_
    | with_reducible refine State.wr_frame (Part.sub hp (by decide)) ?_ | split | fail_if_no_progress with_reducible refine Part.same_upd ?_ ?_
    | ((with_reducible refine Part.keptIntro ?_); cases pt <;> first | exact absurd (by decide) hp | exact rfl | exact ⟨rfl, rfl⟩)

theorem State.nextStage_frame {pt : Part} {base : State} {l : List Nat} (hp : pt ∉ [Part.freeCtr, Part.regs, Part.io, Part.rlk, Part.qmg, Part.pm, Part.eng]) :
    ∀ {s : State}, pt.same base s → pt.same base (State.nextStage s l) := by
  induction l with
  | nil => intro s hss; exact State.enterStage_frame (Part.sub hp (by decide)) hss
  | cons k rest ih =>
    intro s hss
    unfold State.nextStage
    dsimp only
    split
    · exact ih (State.draw_frame (Part.sub hp (by decide)) (State.raise_frame (Part.sub hp (by decide))
        (Part.same_upd hss (by
      cases pt <;> first | exact absurd (by decide) hp | exact rfl | exact ⟨rfl, rfl⟩))))
    · exact State.enterStage_frame (Part.sub hp (by decide)) hss

theorem State.pullGasp_frame {pt : Part} {base : State} {s : State} (hp : pt ∉ [Part.freeCtr, Part.regs, Part.io, Part.tim, Part.prt, Part.rlk, Part.frm, Part.ovm, Part.pm, Part.eng]) (hss : pt.same base s) :
    pt.same base (State.pullGasp s) := by
  unfold State.pullGasp
  try dsimp only
  repeat' first
    | with_reducible assumption | intro _ | with_reducible exact Part.same_refl _ _ | with_reducible refine State.leverRegs_frame (Part.sub hp (by decide)) ?_
    | with_reducible refine State.loadStep_frame (Part.sub hp (by decide)) ?_ | with_reducible refine State.sayLever_frame (Part.sub hp (by decide)) ?_
    | with_reducible refine State.wrBit_frame (Part.sub hp (by decide)) ?_ | with_reducible apply Part.ite
    | with_reducible apply Part.foldl | fail_if_no_progress with_reducible refine Part.same_upd ?_ ?_
    | ((with_reducible refine Part.keptIntro ?_); cases pt <;> first | exact absurd (by decide) hp | exact rfl | exact ⟨rfl, rfl⟩)
    | split

theorem State.declareLoss_frame {pt : Part} {base : State} {s : State} {cause : Nat} {age : Rat} (hp : pt ∉ [Part.freeCtr, Part.regs, Part.io, Part.tim, Part.prt, Part.rlk, Part.frm, Part.ovm, Part.qmg, Part.pm, Part.par, Part.eng, Part.sys]) (hss : pt.same base s) :
    pt.same base (State.declareLoss s cause age) := by
  unfold State.declareLoss
  try dsimp only
  repeat' first
    | with_reducible assumption | intro _ | with_reducible refine State.admitSteps_frame (Part.sub hp (by decide)) ?_
    | with_reducible refine State.ledgerReg_frame (Part.sub hp (by decide)) ?_ | with_reducible refine State.nextStage_frame (Part.sub hp (by decide)) ?_
    | with_reducible refine State.pullGasp_frame (Part.sub hp (by decide)) ?_ | with_reducible refine State.raise_frame (Part.sub hp (by decide)) ?_
    | with_reducible refine State.selfFault_frame (Part.sub hp (by decide)) ?_ | with_reducible refine State.wr_frame (Part.sub hp (by decide)) ?_
    | with_reducible apply Part.ite | fail_if_no_progress with_reducible refine Part.same_upd ?_ ?_ | ((with_reducible refine Part.keptIntro ?_); cases pt <;> first | exact absurd (by decide) hp | exact rfl | exact ⟨rfl, rfl⟩)
    | split

theorem execFeedLoss_frame {pt : Part} {dt : Nat} {s : State} (hp : pt ∉ [Part.clock, Part.freeCtr, Part.regs, Part.io, Part.tim, Part.prt, Part.rlk, Part.frm, Part.ovm, Part.qmg, Part.pm, Part.par, Part.eng, Part.sys]) :
    ∃ s', execFeedLoss dt s = .next s' ∧ pt.same s s' := by
  unfold execFeedLoss
  refine ⟨_, rfl, ?_⟩
  try dsimp only
  repeat' first
    | with_reducible assumption | with_reducible exact Part.same_refl _ _ | intro _ | with_reducible refine State.declareLoss_frame (Part.sub hp (by decide)) ?_
    | with_reducible refine State.elapse_frame (Part.sub hp (by decide)) ?_ | with_reducible apply Part.ite
    | split

theorem State.writeCrash_frame {pt : Part} {base : State} {s : State} (hp : pt ∉ [Part.freeCtr, Part.eng]) (hss : pt.same base s) :
    pt.same base (State.writeCrash s) := by
  unfold State.writeCrash
  try dsimp only
  repeat' first
    | with_reducible assumption | intro _ | with_reducible exact Part.same_refl _ _ | with_reducible refine State.draw_frame (Part.sub hp (by decide)) ?_
    | with_reducible apply Part.ite | split | fail_if_no_progress with_reducible refine Part.same_upd ?_ ?_
    | ((with_reducible refine Part.keptIntro ?_); cases pt <;> first | exact absurd (by decide) hp | exact rfl | exact ⟨rfl, rfl⟩)

theorem State.stopAll_frame {pt : Part} {base : State} {s : State} (hp : pt ∉ [Part.regs, Part.shf, Part.rlk]) (hss : pt.same base s) :
    pt.same base (State.stopAll s) := by
  unfold State.stopAll
  try dsimp only
  repeat' first
    | with_reducible assumption | intro _ | with_reducible refine State.setTxIdle_frame (Part.sub hp (by decide)) ?_
    | with_reducible refine State.wr_frame (Part.sub hp (by decide)) ?_ | fail_if_no_progress with_reducible refine Part.same_upd ?_ ?_
    | ((with_reducible refine Part.keptIntro ?_); cases pt <;> first | exact absurd (by decide) hp | exact rfl | exact ⟨rfl, rfl⟩)

theorem execLgStageEnd_frame {pt : Part} {dt : Nat} {s : State} (hp : pt ∉ [Part.clock, Part.freeCtr, Part.regs, Part.io, Part.shf, Part.rlk, Part.qmg, Part.pm, Part.eng]) :
    ∃ s', execLgStageEnd dt s = .next s' ∧ pt.same s s' := by
  unfold execLgStageEnd
  refine ⟨_, rfl, ?_⟩
  try dsimp only
  repeat' first
    | with_reducible assumption | with_reducible exact Part.same_refl _ _ | intro _ | with_reducible refine State.chargeLedger_frame (Part.sub hp (by decide)) ?_
    | with_reducible refine State.elapse_frame (Part.sub hp (by decide)) ?_ | with_reducible refine State.nextStage_frame (Part.sub hp (by decide)) ?_
    | with_reducible refine State.setTxIdle_frame (Part.sub hp (by decide)) ?_ | with_reducible refine State.stopAll_frame (Part.sub hp (by decide)) ?_
    | with_reducible refine State.writeCrash_frame (Part.sub hp (by decide)) ?_ | with_reducible apply Part.ite
    | split

theorem State.pmbFault_frame {pt : Part} {base : State} {s : State} {j status : Nat} (hp : pt ∉ [Part.regs, Part.io]) (hss : pt.same base s) :
    pt.same base (State.pmbFault s j status) := by
  unfold State.pmbFault
  try dsimp only
  repeat' first
    | with_reducible assumption | intro _ | with_reducible refine State.count_frame (Part.sub hp (by decide)) ?_
    | with_reducible refine State.raise_frame (Part.sub hp (by decide)) ?_

theorem State.takePoll_frame {pt : Part} {base : State} {s : State} {r : PmbRead} (hp : pt ∉ [Part.regs, Part.io]) (hss : pt.same base s) :
    pt.same base (State.takePoll s r) := by
  unfold State.takePoll
  try dsimp only
  repeat' first
    | with_reducible assumption | intro _ | with_reducible refine State.pmbFault_frame (Part.sub hp (by decide)) ?_
    | with_reducible refine State.wr_frame (Part.sub hp (by decide)) ?_ | with_reducible apply Part.ite
    | split

theorem execPmbusPoll_frame {pt : Part} {dt : Nat} {l : List PmbRead} {s : State} (hp : pt ∉ [Part.clock, Part.regs, Part.io]) :
    ∃ s', execPmbusPoll dt l s = .next s' ∧ pt.same s s' := by
  unfold execPmbusPoll
  refine ⟨_, rfl, ?_⟩
  try dsimp only
  repeat' first
    | with_reducible assumption | intro _ | with_reducible exact Part.same_refl _ _ | with_reducible refine State.takePoll_frame (Part.sub hp (by decide)) ?_
    | with_reducible refine State.toBoundary_frame (Part.sub hp (by decide)) ?_ | with_reducible apply Part.ite
    | with_reducible apply Part.foldl | split

theorem execPmbAlert_frame {pt : Part} {dt conv status : Nat} {s : State} (hp : pt ∉ [Part.clock, Part.regs, Part.io]) :
    ∃ s', execPmbAlert dt conv status s = .next s' ∧ pt.same s s' := by
  unfold execPmbAlert
  refine ⟨_, rfl, ?_⟩
  try dsimp only
  repeat' first
    | with_reducible assumption | with_reducible exact Part.same_refl _ _ | intro _ | with_reducible refine State.elapse_frame (Part.sub hp (by decide)) ?_
    | with_reducible refine State.pmbFault_frame (Part.sub hp (by decide)) ?_

theorem execEngEpbUpdate_frame {pt : Part} {dt : Nat} {s : State} (hp : pt ∉ [Part.clock, Part.freeCtr, Part.regs]) :
    ∃ s', execEngEpbUpdate dt s = .next s' ∧ pt.same s s' := by
  unfold execEngEpbUpdate
  refine ⟨_, rfl, ?_⟩
  try dsimp only
  repeat' first
    | with_reducible assumption | with_reducible exact Part.same_refl _ _ | intro _ | with_reducible refine State.draw_frame (Part.sub hp (by decide)) ?_
    | with_reducible refine State.toBoundary_frame (Part.sub hp (by decide)) ?_ | with_reducible refine State.wr_frame (Part.sub hp (by decide)) ?_
    | with_reducible apply Part.ite | split

theorem execEngLastGasp_frame {pt : Part} {dt : Nat} {h : HostRef} {s : State} (hp : pt ∉ [Part.clock, Part.freeCtr, Part.regs, Part.io, Part.tim, Part.prt, Part.rlk, Part.frm, Part.ovm, Part.qmg, Part.pm, Part.par, Part.eng, Part.sys]) :
    ∃ s', execEngLastGasp dt h s = .next s' ∧ pt.same s s' := by
  unfold execEngLastGasp
  refine ⟨_, rfl, ?_⟩
  try dsimp only
  repeat' first
    | with_reducible assumption | intro _ | with_reducible exact Part.same_refl _ _ | with_reducible refine State.command_frame (Part.sub hp (by decide)) ?_ ?_
    | with_reducible refine State.declareLoss_frame (Part.sub hp (by decide)) ?_ | with_reducible refine State.done_frame (Part.sub hp (by decide)) ?_
    | with_reducible refine State.refuse_frame (Part.sub hp (by decide)) ?_ | with_reducible apply Part.ite
    | split

theorem execEngPmbXfer_frame {pt : Part} {dt : Nat} {h : HostRef} {p : PmbXfer} {s : State} (hp : pt ∉ [Part.clock, Part.regs, Part.io]) :
    ∃ s', execEngPmbXfer dt h p s = .next s' ∧ pt.same s s' := by
  unfold execEngPmbXfer
  refine ⟨_, rfl, ?_⟩
  try dsimp only
  repeat' first
    | with_reducible assumption | intro _ | with_reducible exact Part.same_refl _ _ | with_reducible refine State.command_frame (Part.sub hp (by decide)) ?_ ?_
    | with_reducible refine State.complete_frame (Part.sub hp (by decide)) ?_ | with_reducible refine State.hostWrite_frame (Part.sub hp (by decide)) ?_
    | with_reducible refine State.pmbFault_frame (Part.sub hp (by decide)) ?_ | with_reducible refine State.refuse_frame (Part.sub hp (by decide)) ?_
    | with_reducible apply Part.ite | split

theorem execEngCrashRead_frame {pt : Part} {dt : Nat} {h : HostRef} {slot host : Nat} {s : State} (hp : pt ∉ [Part.clock, Part.io]) :
    ∃ s', execEngCrashRead dt h slot host s = .next s' ∧ pt.same s s' := by
  unfold execEngCrashRead
  refine ⟨_, rfl, ?_⟩
  try dsimp only
  repeat' first
    | with_reducible assumption | intro _ | with_reducible exact Part.same_refl _ _ | with_reducible refine State.command_frame (Part.sub hp (by decide)) ?_ ?_
    | with_reducible refine State.done_frame (Part.sub hp (by decide)) ?_ | with_reducible refine State.hostWrite_frame (Part.sub hp (by decide)) ?_
    | with_reducible refine State.refuse_frame (Part.sub hp (by decide)) ?_ | with_reducible apply Part.ite
    | split

theorem execEngCrashRelease_frame {pt : Part} {dt : Nat} {h : HostRef} {slot : Nat} {s : State} (hp : pt ∉ [Part.clock, Part.io, Part.eng]) :
    ∃ s', execEngCrashRelease dt h slot s = .next s' ∧ pt.same s s' := by
  unfold execEngCrashRelease
  refine ⟨_, rfl, ?_⟩
  try dsimp only
  repeat' first
    | with_reducible assumption | intro _ | with_reducible exact Part.same_refl _ _ | with_reducible refine State.command_frame (Part.sub hp (by decide)) ?_ ?_
    | with_reducible refine State.done_frame (Part.sub hp (by decide)) ?_ | with_reducible refine State.refuse_frame (Part.sub hp (by decide)) ?_
    | with_reducible apply Part.ite | fail_if_no_progress with_reducible refine Part.same_upd ?_ ?_ | ((with_reducible refine Part.keptIntro ?_); cases pt <;> first | exact absurd (by decide) hp | exact rfl | exact ⟨rfl, rfl⟩)
    | split

theorem execEngCrashPoints_frame {pt : Part} {dt : Nat} {h : HostRef} {count first : Nat} {points : List Nat} {s : State} (hp : pt ∉ [Part.clock, Part.io, Part.eng]) :
    ∃ s', execEngCrashPoints dt h count first points s = .next s' ∧ pt.same s s' := by
  unfold execEngCrashPoints
  refine ⟨_, rfl, ?_⟩
  try dsimp only
  repeat' first
    | with_reducible assumption | intro _ | with_reducible exact Part.same_refl _ _ | with_reducible refine State.command_frame (Part.sub hp (by decide)) ?_ ?_
    | with_reducible refine State.done_frame (Part.sub hp (by decide)) ?_ | with_reducible refine State.refuse_frame (Part.sub hp (by decide)) ?_
    | with_reducible apply Part.ite | with_reducible apply Part.foldl | with_reducible apply Part.foldlFst
    | with_reducible apply Part.iteFst | fail_if_no_progress with_reducible refine Part.same_upd ?_ ?_
    | ((with_reducible refine Part.keptIntro ?_); cases pt <;> first | exact absurd (by decide) hp | exact rfl | exact ⟨rfl, rfl⟩)
    | split

end Sys2Proof.Machine
end

