-- ==== Sys2Proof/Laws/FramesHostIf.lean ====
section
/-! SUPPORT. Which parts of the state the operations of Machine/HostIf.lean may change. -/

set_option Elab.async false

namespace Sys2Proof.Machine

theorem State.indexBad_frame {pt : Part} {base : State} {s : State} {kind n value kept : Nat} (hp : pt ∉ [Part.regs, Part.io]) (hss : pt.same base s) :
    pt.same base (State.indexBad s kind n value kept) := by
  unfold State.indexBad
  try dsimp only
  repeat' first
    | with_reducible assumption | intro _ | with_reducible exact Part.same_refl _ _ | with_reducible refine State.count_frame (Part.sub hp (by decide)) ?_
    | with_reducible refine State.raiseOnce_frame (Part.sub hp (by decide)) ?_

theorem State.takeProd_frame {pt : Part} {base : State} {s : State} {n value : Nat} (hp : pt ∉ [Part.regs, Part.io]) (hss : pt.same base s) :
    pt.same base (State.takeProd s n value) := by
  unfold State.takeProd
  try dsimp only
  repeat' first
    | with_reducible assumption | intro _ | with_reducible refine State.indexBad_frame (Part.sub hp (by decide)) ?_
    | with_reducible refine State.wr_frame (Part.sub hp (by decide)) ?_ | with_reducible apply Part.ite
    | split

theorem State.takeCplCons_frame {pt : Part} {base : State} {s : State} {n value : Nat} (hp : pt ∉ [Part.regs, Part.io]) (hss : pt.same base s) :
    pt.same base (State.takeCplCons s n value) := by
  unfold State.takeCplCons
  try dsimp only
  repeat' first
    | with_reducible assumption | intro _ | with_reducible refine State.indexBad_frame (Part.sub hp (by decide)) ?_
    | with_reducible refine State.wr_frame (Part.sub hp (by decide)) ?_ | with_reducible apply Part.ite
    | fail_if_no_progress with_reducible refine Part.same_upd ?_ ?_ | ((with_reducible refine Part.keptIntro ?_); cases pt <;> first | exact absurd (by decide) hp | exact rfl | exact ⟨rfl, rfl⟩)
    | split

theorem State.resumeEvq_frame {pt : Part} {base : State} {s : State} {q : Nat} (hp : pt ∉ [Part.io]) (hss : pt.same base s) :
    pt.same base (State.resumeEvq s q) := by
  unfold State.resumeEvq
  try dsimp only
  repeat' first
    | with_reducible assumption | intro _ | with_reducible apply Part.ite | fail_if_no_progress with_reducible refine Part.same_upd ?_ ?_
    | ((with_reducible refine Part.keptIntro ?_); cases pt <;> first | exact absurd (by decide) hp | exact rfl | exact ⟨rfl, rfl⟩)
    | split

theorem State.takeEvqCons_frame {pt : Part} {base : State} {s : State} {n value : Nat} (hp : pt ∉ [Part.regs, Part.io]) (hss : pt.same base s) :
    pt.same base (State.takeEvqCons s n value) := by
  unfold State.takeEvqCons
  try dsimp only
  repeat' first
    | with_reducible assumption | intro _ | with_reducible refine State.indexBad_frame (Part.sub hp (by decide)) ?_
    | with_reducible refine State.resumeEvq_frame (Part.sub hp (by decide)) ?_ | with_reducible refine State.wr_frame (Part.sub hp (by decide)) ?_
    | with_reducible apply Part.ite | fail_if_no_progress with_reducible refine Part.same_upd ?_ ?_ | ((with_reducible refine Part.keptIntro ?_); cases pt <;> first | exact absurd (by decide) hp | exact rfl | exact ⟨rfl, rfl⟩)
    | split

theorem State.raiseOn_frame {pt : Part} {base : State} {s : State} {q code src : Nat} {det : List (Nat × Nat)} {sev : Nat} {caused : Bool} (hp : pt ∉ [Part.io]) (hss : pt.same base s) :
    pt.same base (State.raiseOn s q code src det sev caused) := by
  unfold State.raiseOn
  try dsimp only
  repeat' first
    | with_reducible assumption | intro _ | fail_if_no_progress with_reducible refine Part.same_upd ?_ ?_
    | ((with_reducible refine Part.keptIntro ?_); cases pt <;> first | exact absurd (by decide) hp | exact rfl | exact ⟨rfl, rfl⟩)

theorem State.judgeReady_frame {pt : Part} {base : State} {s : State} {d : Nat} (hp : pt ∉ [Part.io, Part.qmg]) (hss : pt.same base s) :
    pt.same base (State.judgeReady s d) := by
  unfold State.judgeReady
  try dsimp only
  repeat' first
    | with_reducible assumption | intro _ | with_reducible refine State.raiseOn_frame (Part.sub hp (by decide)) ?_
    | with_reducible refine State.setDq_frame (Part.sub hp (by decide)) ?_ | with_reducible apply Part.ite
    | split

theorem State.takeDq_frame {pt : Part} {base : State} {s : State} {d value : Nat} (hp : pt ∉ [Part.regs, Part.io, Part.qmg]) (hss : pt.same base s) :
    pt.same base (State.takeDq s d value) := by
  unfold State.takeDq
  try dsimp only
  repeat' first
    | with_reducible assumption | intro _ | with_reducible refine State.indexBad_frame (Part.sub hp (by decide)) ?_
    | with_reducible refine State.judgeReady_frame (Part.sub hp (by decide)) ?_ | with_reducible refine State.setDq_frame (Part.sub hp (by decide)) ?_
    | with_reducible apply Part.ite | split

theorem State.dbError_frame {pt : Part} {base : State} {s : State} {page : Bool} {status : Nat} (hp : pt ∉ [Part.regs, Part.io]) (hss : pt.same base s) :
    pt.same base (State.dbError s page status) := by
  unfold State.dbError
  try dsimp only
  repeat' first
    | with_reducible assumption | intro _ | with_reducible exact Part.same_refl _ _ | with_reducible refine State.count_frame (Part.sub hp (by decide)) ?_
    | with_reducible refine State.raiseOnce_frame (Part.sub hp (by decide)) ?_

theorem State.takeLine_frame {pt : Part} {base : State} {s : State} {l : DbLine} (hp : pt ∉ [Part.regs, Part.io, Part.qmg]) (hss : pt.same base s) :
    pt.same base (State.takeLine s l) := by
  unfold State.takeLine
  try dsimp only
  repeat' first
    | with_reducible assumption | intro _ | with_reducible exact Part.same_refl _ _ | with_reducible refine State.dbError_frame (Part.sub hp (by decide)) ?_
    | with_reducible refine State.takeDq_frame (Part.sub hp (by decide)) ?_ | with_reducible apply Part.ite
    | with_reducible apply Part.foldl | with_reducible apply Part.foldlFst | with_reducible apply Part.iteFst
    | split

theorem State.planRing_frame {pt : Part} {base : State} {s : State} {n : Nat} (hp : pt ∉ [Part.regs, Part.io]) (hss : pt.same base s) :
    pt.same base (State.planRing s n) := by
  unfold State.planRing
  try dsimp only
  repeat' first
    | with_reducible assumption | intro _ | with_reducible refine State.wrBit_frame (Part.sub hp (by decide)) ?_
    | with_reducible apply Part.ite | fail_if_no_progress with_reducible refine Part.same_upd ?_ ?_ | ((with_reducible refine Part.keptIntro ?_); cases pt <;> first | exact absurd (by decide) hp | exact rfl | exact ⟨rfl, rfl⟩)
    | split

theorem execDoorbellRead_frame {pt : Part} {dt : Nat} {page : DbPage} {s : State} (hp : pt ∉ [Part.clock, Part.regs, Part.io, Part.shf, Part.qmg, Part.sec]) :
    ∃ s', execDoorbellRead dt page s = .next s' ∧ pt.same s s' := by
  unfold execDoorbellRead
  refine ⟨_, rfl, ?_⟩
  try dsimp only
  repeat' first
    | with_reducible assumption | intro _ | with_reducible exact Part.same_refl _ _ | with_reducible refine State.dbError_frame (Part.sub hp (by decide)) ?_
    | with_reducible refine State.elapse_frame (Part.sub hp (by decide)) ?_ | with_reducible refine State.planRing_frame (Part.sub hp (by decide)) ?_
    | with_reducible refine State.takeCplCons_frame (Part.sub hp (by decide)) ?_ | with_reducible refine State.takeEvqCons_frame (Part.sub hp (by decide)) ?_
    | with_reducible refine State.takeLine_frame (Part.sub hp (by decide)) ?_ | with_reducible refine State.takeProd_frame (Part.sub hp (by decide)) ?_
    | with_reducible refine State.waitAddr_frame (Part.sub hp (by decide)) ?_ | with_reducible apply Part.ite
    | with_reducible apply Part.foldl | with_reducible apply Part.foldlFst | with_reducible apply Part.iteFst
    | fail_if_no_progress with_reducible refine Part.same_upd ?_ ?_ | ((with_reducible refine Part.keptIntro ?_); cases pt <;> first | exact absurd (by decide) hp | exact rfl | exact ⟨rfl, rfl⟩)
    | split

theorem State.consume_frame {pt : Part} {base : State} {s : State} {n : Nat} {d : DescIn} (hp : pt ∉ [Part.regs, Part.io]) (hss : pt.same base s) :
    pt.same base (State.consume s n d) := by
  unfold State.consume
  try dsimp only
  repeat' first
    | with_reducible assumption | intro _ | with_reducible exact Part.same_refl _ _ | with_reducible refine State.wr_frame (Part.sub hp (by decide)) ?_
    | with_reducible refine State.wrBit_frame (Part.sub hp (by decide)) ?_ | fail_if_no_progress with_reducible refine Part.same_upd ?_ ?_
    | ((with_reducible refine Part.keptIntro ?_); cases pt <;> first | exact absurd (by decide) hp | exact rfl | exact ⟨rfl, rfl⟩)

theorem State.rejectDesc_frame {pt : Part} {base : State} {s : State} {n : Nat} {d : DescIn} {reason : Nat} (hp : pt ∉ [Part.regs, Part.io]) (hss : pt.same base s) :
    pt.same base (State.rejectDesc s n d reason) := by
  unfold State.rejectDesc
  try dsimp only
  repeat' first
    | with_reducible assumption | intro _ | with_reducible exact Part.same_refl _ _ | with_reducible refine State.consume_frame (Part.sub hp (by decide)) ?_
    | with_reducible refine State.count_frame (Part.sub hp (by decide)) ?_ | with_reducible refine State.raiseOnce_frame (Part.sub hp (by decide)) ?_
    | with_reducible refine State.reject_frame (Part.sub hp (by decide)) ?_

theorem State.takeDescs_frame {pt : Part} {base : State} {n : Nat} {l : List DescIn} (hp : pt ∉ [Part.regs, Part.io, Part.bkg]) :
    ∀ {s : State}, pt.same base s → pt.same base (State.takeDescs s n l) := by
  induction l with
  | nil => intro s hss; exact hss
  | cons d rest ih =>
    intro s hss
    unfold State.takeDescs
    dsimp only
    have hk (c : Prop) [Decidable c] : pt.same base (if c then s.alterCheck 8 else (s, false)).1 := by
      split
      · exact State.alterCheck_frame (Part.sub hp (by decide)) hss
      · exact hss
    refine Part.ite (Part.ite (State.wrBit_frame (Part.sub hp (by decide)) (Part.same_upd hss (by
      cases pt <;> first | exact absurd (by decide) hp | exact rfl | exact ⟨rfl, rfl⟩)))
      (ih (State.rejectDesc_frame (Part.sub hp (by decide)) hss))) ?_
    split
    · exact Part.ite (State.wrBit_frame (Part.sub hp (by decide)) (State.wrBit_frame (Part.sub hp (by decide)) (hk _)))
        (Part.ite (ih (State.reject_frame (Part.sub hp (by decide)) (State.consume_frame (Part.sub hp (by decide)) (hk _))))
        (ih (State.count_frame (Part.sub hp (by decide)) (State.consume_frame (Part.sub hp (by decide)) (hk _)))))
    · exact ih (State.rejectDesc_frame (Part.sub hp (by decide)) (hk _))

theorem execDescriptorFetch_frame {pt : Part} {dt : Nat} {l : List (Nat × List (List Nat))} {s : State} (hp : pt ∉ [Part.clock, Part.regs, Part.io, Part.bkg]) :
    ∃ s', execDescriptorFetch dt l s = .next s' ∧ pt.same s s' := by
  unfold execDescriptorFetch
  refine ⟨_, rfl, ?_⟩
  try dsimp only
  repeat' first
    | with_reducible assumption | intro _ | with_reducible exact Part.same_refl _ _ | with_reducible refine State.elapse_frame (Part.sub hp (by decide)) ?_
    | with_reducible refine State.takeDescs_frame (Part.sub hp (by decide)) ?_ | with_reducible apply Part.ite
    | with_reducible apply Part.foldl | with_reducible apply Part.foldlFst | with_reducible apply Part.iteFst
    | fail_if_no_progress with_reducible refine Part.same_upd ?_ ?_ | ((with_reducible refine Part.keptIntro ?_); cases pt <;> first | exact absurd (by decide) hp | exact rfl | exact ⟨rfl, rfl⟩)
    | split

theorem State.releaseEvq_frame {pt : Part} {base : State} {s : State} {q : Nat} (hp : pt ∉ [Part.io]) (hss : pt.same base s) :
    pt.same base (State.releaseEvq s q) := by
  unfold State.releaseEvq
  try dsimp only
  repeat' first
    | with_reducible assumption | intro _ | with_reducible exact Part.same_refl _ _ | with_reducible apply Part.ite
    | with_reducible apply Part.foldl | fail_if_no_progress with_reducible refine Part.same_upd ?_ ?_
    | ((with_reducible refine Part.keptIntro ?_); cases pt <;> first | exact absurd (by decide) hp | exact rfl | exact ⟨rfl, rfl⟩)
    | split

theorem execHeldEventRelease_frame {pt : Part} {dt : Nat} {s : State} (hp : pt ∉ [Part.clock, Part.io]) :
    ∃ s', execHeldEventRelease dt s = .next s' ∧ pt.same s s' := by
  unfold execHeldEventRelease
  refine ⟨_, rfl, ?_⟩
  try dsimp only
  repeat' first
    | with_reducible assumption | intro _ | with_reducible exact Part.same_refl _ _ | with_reducible refine State.releaseEvq_frame (Part.sub hp (by decide)) ?_
    | with_reducible refine State.toBoundary_frame (Part.sub hp (by decide)) ?_ | with_reducible apply Part.ite
    | with_reducible apply Part.foldl | fail_if_no_progress with_reducible refine Part.same_upd ?_ ?_
    | ((with_reducible refine Part.keptIntro ?_); cases pt <;> first | exact absurd (by decide) hp | exact rfl | exact ⟨rfl, rfl⟩)
    | split

theorem execDqWriteback_frame {pt : Part} {dt d : Nat} {s : State} (hp : pt ∉ [Part.clock, Part.io, Part.qmg]) :
    ∃ s', execDqWriteback dt d s = .next s' ∧ pt.same s s' := by
  unfold execDqWriteback
  refine ⟨_, rfl, ?_⟩
  try dsimp only
  repeat' first
    | with_reducible assumption | with_reducible exact Part.same_refl _ _ | intro _ | with_reducible refine State.hostWrite_frame (Part.sub hp (by decide)) ?_
    | with_reducible refine State.judgeReady_frame (Part.sub hp (by decide)) ?_ | with_reducible refine State.setDq_frame (Part.sub hp (by decide)) ?_
    | with_reducible refine State.toBoundary_frame (Part.sub hp (by decide)) ?_ | with_reducible apply Part.ite
    | split

theorem execVectorTimer_frame {pt : Part} {dt v : Nat} {s : State} (hp : pt ∉ [Part.clock, Part.regs, Part.io]) :
    ∃ s', execVectorTimer dt v s = .next s' ∧ pt.same s s' := by
  unfold execVectorTimer
  refine ⟨_, rfl, ?_⟩
  try dsimp only
  repeat' first
    | with_reducible assumption | with_reducible exact Part.same_refl _ _ | intro _ | with_reducible refine State.count_frame (Part.sub hp (by decide)) ?_
    | with_reducible refine State.elapse_frame (Part.sub hp (by decide)) ?_ | with_reducible refine State.waitAddr_frame (Part.sub hp (by decide)) ?_
    | with_reducible apply Part.ite | fail_if_no_progress with_reducible refine Part.same_upd ?_ ?_ | ((with_reducible refine Part.keptIntro ?_); cases pt <;> first | exact absurd (by decide) hp | exact rfl | exact ⟨rfl, rfl⟩)
    | split

theorem execPciePowerState_frame {pt : Part} {dt : Nat} {d3hot busMaster : Bool} {s : State} (hp : pt ∉ [Part.clock, Part.io]) :
    ∃ s', execPciePowerState dt d3hot busMaster s = .next s' ∧ pt.same s s' := by
  unfold execPciePowerState
  refine ⟨_, rfl, ?_⟩
  try dsimp only
  repeat' first
    | with_reducible assumption | with_reducible exact Part.same_refl _ _ | intro _ | with_reducible refine State.elapse_frame (Part.sub hp (by decide)) ?_
    | with_reducible apply Part.ite | fail_if_no_progress with_reducible refine Part.same_upd ?_ ?_ | ((with_reducible refine Part.keptIntro ?_); cases pt <;> first | exact absurd (by decide) hp | exact rfl | exact ⟨rfl, rfl⟩)
    | split

theorem execHifNop_frame {pt : Part} {dt : Nat} {h : HostRef} {value : Nat} {s : State} (hp : pt ∉ [Part.clock, Part.io]) :
    ∃ s', execHifNop dt h value s = .next s' ∧ pt.same s s' := by
  unfold execHifNop
  refine ⟨_, rfl, ?_⟩
  try dsimp only
  repeat' first
    | with_reducible assumption | intro _ | with_reducible exact Part.same_refl _ _ | with_reducible refine State.command_frame (Part.sub hp (by decide)) ?_ ?_
    | with_reducible refine State.complete_frame (Part.sub hp (by decide)) ?_

theorem execHifDqBind_frame {pt : Part} {dt : Nat} {h : HostRef} {p : DqBind} {s : State} (hp : pt ∉ [Part.clock, Part.io, Part.qmg]) :
    ∃ s', execHifDqBind dt h p s = .next s' ∧ pt.same s s' := by
  unfold execHifDqBind
  refine ⟨_, rfl, ?_⟩
  try dsimp only
  repeat' first
    | with_reducible assumption | intro _ | with_reducible exact Part.same_refl _ _ | with_reducible refine State.command_frame (Part.sub hp (by decide)) ?_ ?_
    | with_reducible refine State.done_frame (Part.sub hp (by decide)) ?_ | with_reducible refine State.reject_frame (Part.sub hp (by decide)) ?_
    | with_reducible refine State.setDq_frame (Part.sub hp (by decide)) ?_ | with_reducible refine State.setQueue_frame (Part.sub hp (by decide)) ?_
    | with_reducible apply Part.ite | split

theorem State.unbind_frame {pt : Part} {base : State} {s : State} {d : Nat} (hp : pt ∉ [Part.qmg]) (hss : pt.same base s) :
    pt.same base (State.unbind s d) := by
  unfold State.unbind
  try dsimp only
  repeat' first
    | with_reducible assumption | intro _ | with_reducible refine State.setQueue_frame (Part.sub hp (by decide)) ?_
    | with_reducible apply Part.ite | split | fail_if_no_progress with_reducible refine Part.same_upd ?_ ?_
    | ((with_reducible refine Part.keptIntro ?_); cases pt <;> first | exact absurd (by decide) hp | exact rfl | exact ⟨rfl, rfl⟩)

theorem execHifDqUnbind_frame {pt : Part} {dt : Nat} {h : HostRef} {d : Nat} {s : State} (hp : pt ∉ [Part.clock, Part.io, Part.qmg]) :
    ∃ s', execHifDqUnbind dt h d s = .next s' ∧ pt.same s s' := by
  unfold execHifDqUnbind
  refine ⟨_, rfl, ?_⟩
  try dsimp only
  repeat' first
    | with_reducible assumption | intro _ | with_reducible exact Part.same_refl _ _ | with_reducible refine State.command_frame (Part.sub hp (by decide)) ?_ ?_
    | with_reducible refine State.done_frame (Part.sub hp (by decide)) ?_ | with_reducible refine State.reject_frame (Part.sub hp (by decide)) ?_
    | with_reducible refine State.unbind_frame (Part.sub hp (by decide)) ?_ | with_reducible refine State.waitAddr_frame (Part.sub hp (by decide)) ?_
    | with_reducible apply Part.ite | fail_if_no_progress with_reducible refine Part.same_upd ?_ ?_ | ((with_reducible refine Part.keptIntro ?_); cases pt <;> first | exact absurd (by decide) hp | exact rfl | exact ⟨rfl, rfl⟩)
    | split

theorem execHifSevSet_frame {pt : Part} {dt : Nat} {h : HostRef} {first count : Nat} {levels : List Nat} {s : State} (hp : pt ∉ [Part.clock, Part.io]) :
    ∃ s', execHifSevSet dt h first count levels s = .next s' ∧ pt.same s s' := by
  unfold execHifSevSet
  refine ⟨_, rfl, ?_⟩
  try dsimp only
  repeat' first
    | with_reducible assumption | intro _ | with_reducible exact Part.same_refl _ _ | with_reducible refine State.command_frame (Part.sub hp (by decide)) ?_ ?_
    | with_reducible refine State.done_frame (Part.sub hp (by decide)) ?_ | with_reducible refine State.reject_frame (Part.sub hp (by decide)) ?_
    | with_reducible apply Part.ite | with_reducible apply Part.foldl | with_reducible apply Part.foldlFst
    | with_reducible apply Part.iteFst | fail_if_no_progress with_reducible refine Part.same_upd ?_ ?_
    | ((with_reducible refine Part.keptIntro ?_); cases pt <;> first | exact absurd (by decide) hp | exact rfl | exact ⟨rfl, rfl⟩)
    | split

theorem execHifEvqTest_frame {pt : Part} {dt : Nat} {h : HostRef} {evq sev : Nat} {s : State} (hp : pt ∉ [Part.clock, Part.io]) :
    ∃ s', execHifEvqTest dt h evq sev s = .next s' ∧ pt.same s s' := by
  unfold execHifEvqTest
  refine ⟨_, rfl, ?_⟩
  try dsimp only
  repeat' first
    | with_reducible assumption | intro _ | with_reducible exact Part.same_refl _ _ | with_reducible refine State.command_frame (Part.sub hp (by decide)) ?_ ?_
    | with_reducible refine State.done_frame (Part.sub hp (by decide)) ?_ | with_reducible refine State.raiseOn_frame (Part.sub hp (by decide)) ?_
    | with_reducible refine State.reject_frame (Part.sub hp (by decide)) ?_ | with_reducible apply Part.ite
    | split

end Sys2Proof.Machine
end

