-- ==== Sys2Proof/Laws/FramesResets.lean ====
section
/-! SUPPORT. Which parts of the state the operations of Machine/Resets.lean may change. -/

set_option Elab.async false

namespace Sys2Proof.Machine

theorem State.clearField_frame {pt : Part} {base : State} {s : State} {f : Fld} {i : Nat} (hp : pt ∉ [Part.regs, Part.io]) (hss : pt.same base s) :
    pt.same base (State.clearField s f i) := by
  unfold State.clearField
  try dsimp only
  repeat' first
    | with_reducible assumption | intro _ | with_reducible apply Part.ite | fail_if_no_progress with_reducible refine Part.same_upd ?_ ?_
    | ((with_reducible refine Part.keptIntro ?_); cases pt <;> first | exact absurd (by decide) hp | exact rfl | exact ⟨rfl, rfl⟩)
    | split

theorem State.clearDomain_frame {pt : Part} {base : State} {s : State} {d : Nat} (hp : pt ∉ [Part.regs, Part.io]) (hss : pt.same base s) :
    pt.same base (State.clearDomain s d) := by
  unfold State.clearDomain
  try dsimp only
  repeat' first
    | with_reducible assumption | intro _ | with_reducible exact Part.same_refl _ _ | with_reducible refine State.clearField_frame (Part.sub hp (by decide)) ?_
    | with_reducible refine State.count_frame (Part.sub hp (by decide)) ?_ | with_reducible apply Part.ite
    | with_reducible apply Part.foldl | split

theorem State.abandonMoves_frame {pt : Part} {base : State} {s : State} (hp : pt ∉ [Part.clock, Part.freeCtr, Part.regs, Part.io, Part.frm, Part.ovm, Part.par]) (hss : pt.same base s) :
    pt.same base (State.abandonMoves s) := by
  unfold State.abandonMoves
  try dsimp only
  repeat' first
    | with_reducible assumption | intro _ | with_reducible exact Part.same_refl _ _ | with_reducible refine State.endMove_frame (Part.sub hp (by decide)) ?_
    | with_reducible refine State.releaseHeld_frame (Part.sub hp (by decide)) ?_ | with_reducible apply Part.ite
    | with_reducible apply Part.foldl | split | fail_if_no_progress with_reducible refine Part.same_upd ?_ ?_
    | ((with_reducible refine Part.keptIntro ?_); cases pt <;> first | exact absurd (by decide) hp | exact rfl | exact ⟨rfl, rfl⟩)

theorem State.failWhere_frame {pt : Part} {base : State} {s : State} {p : Ctx → Bool} {wait : Bool} (hp : pt ∉ [Part.ovm]) (hss : pt.same base s) :
    pt.same base (State.failWhere s p wait) := by
  unfold State.failWhere
  try dsimp only
  repeat' first
    | with_reducible assumption | intro _ | with_reducible exact Part.same_refl _ _ | with_reducible apply Part.ite
    | with_reducible apply Part.iteFst | fail_if_no_progress with_reducible refine Part.same_upd ?_ ?_
    | ((with_reducible refine Part.keptIntro ?_); cases pt <;> first | exact absurd (by decide) hp | exact rfl | exact ⟨rfl, rfl⟩)
    | split

theorem State.wipeLane_frame {pt : Part} {base : State} {s : State} {l : Nat} (hp : pt ∉ [Part.rlk, Part.frm]) (hss : pt.same base s) :
    pt.same base (State.wipeLane s l) := by
  unfold State.wipeLane
  try dsimp only
  repeat' first
    | with_reducible assumption | intro _ | with_reducible refine State.setFramer_frame (Part.sub hp (by decide)) ?_
    | with_reducible refine State.setRlkLane_frame (Part.sub hp (by decide)) ?_ | with_reducible apply Part.ite
    | split

theorem State.resetShaft_frame {pt : Part} {base : State} {s : State} (hp : pt ∉ [Part.dco, Part.shf, Part.tim, Part.ovm, Part.pm, Part.par]) (hss : pt.same base s) :
    pt.same base (State.resetShaft s) := by
  unfold State.resetShaft
  try dsimp only
  repeat' first
    | with_reducible assumption | intro _ | with_reducible exact Part.same_refl _ _ | with_reducible apply Part.iteFst
    | fail_if_no_progress with_reducible refine Part.same_upd ?_ ?_ | ((with_reducible refine Part.keptIntro ?_); cases pt <;> first | exact absurd (by decide) hp | exact rfl | exact ⟨rfl, rfl⟩)

theorem State.resetHif_frame {pt : Part} {base : State} {s : State} (hp : pt ∉ [Part.regs, Part.io, Part.qmg]) (hss : pt.same base s) :
    pt.same base (State.resetHif s) := by
  unfold State.resetHif
  try dsimp only
  repeat' first
    | with_reducible assumption | intro _ | with_reducible exact Part.same_refl _ _ | with_reducible refine State.countBy_frame (Part.sub hp (by decide)) ?_
    | with_reducible refine State.unbind_frame (Part.sub hp (by decide)) ?_ | with_reducible refine State.wr_frame (Part.sub hp (by decide)) ?_
    | with_reducible apply Part.foldl | with_reducible apply Part.foldlFst | with_reducible apply Part.iteFst
    | fail_if_no_progress with_reducible refine Part.same_upd ?_ ?_ | ((with_reducible refine Part.keptIntro ?_); cases pt <;> first | exact absurd (by decide) hp | exact rfl | exact ⟨rfl, rfl⟩)

theorem State.resetSlice_frame {pt : Part} {base : State} {s : State} {k : Nat} (hp : pt ∉ [Part.regs, Part.shf, Part.prt, Part.rlk, Part.frm, Part.ovm]) (hss : pt.same base s) :
    pt.same base (State.resetSlice s k) := by
  unfold State.resetSlice
  try dsimp only
  repeat' first
    | with_reducible assumption | intro _ | with_reducible exact Part.same_refl _ _ | with_reducible refine State.failWhere_frame (Part.sub hp (by decide)) ?_
    | with_reducible refine State.setFramer_frame (Part.sub hp (by decide)) ?_ | with_reducible refine State.setTrb_frame (Part.sub hp (by decide)) ?_
    | with_reducible refine State.wipeLane_frame (Part.sub hp (by decide)) ?_ | with_reducible apply Part.ite
    | with_reducible apply Part.foldl | with_reducible apply Part.foldlFst | with_reducible apply Part.iteFst
    | split | fail_if_no_progress with_reducible refine Part.same_upd ?_ ?_ | ((with_reducible refine Part.keptIntro ?_); cases pt <;> first | exact absurd (by decide) hp | exact rfl | exact ⟨rfl, rfl⟩)

theorem State.resetGrain_frame {pt : Part} {base : State} {s : State} (hp : pt ∉ [Part.map, Part.ovm]) (hss : pt.same base s) :
    pt.same base (State.resetGrain s) := by
  unfold State.resetGrain
  try dsimp only
  repeat' first
    | with_reducible assumption | intro _ | with_reducible exact Part.same_refl _ _ | with_reducible refine State.failWhere_frame (Part.sub hp (by decide)) ?_
    | fail_if_no_progress with_reducible refine Part.same_upd ?_ ?_ | ((with_reducible refine Part.keptIntro ?_); cases pt <;> first | exact absurd (by decide) hp | exact rfl | exact ⟨rfl, rfl⟩)

theorem State.resetTsi_frame {pt : Part} {base : State} {s : State} (hp : pt ∉ [Part.map, Part.ovm]) (hss : pt.same base s) :
    pt.same base (State.resetTsi s) := by
  unfold State.resetTsi
  try dsimp only
  repeat' first
    | with_reducible assumption | intro _ | with_reducible exact Part.same_refl _ _ | with_reducible refine State.failWhere_frame (Part.sub hp (by decide)) ?_
    | fail_if_no_progress with_reducible refine Part.same_upd ?_ ?_ | ((with_reducible refine Part.keptIntro ?_); cases pt <;> first | exact absurd (by decide) hp | exact rfl | exact ⟨rfl, rfl⟩)

theorem State.resetQmg_frame {pt : Part} {base : State} {s : State} (hp : pt ∉ [Part.regs, Part.io, Part.qmg]) (hss : pt.same base s) :
    pt.same base (State.resetQmg s) := by
  unfold State.resetQmg
  try dsimp only
  repeat' first
    | with_reducible assumption | intro _ | with_reducible exact Part.same_refl _ _ | with_reducible refine State.raise_frame (Part.sub hp (by decide)) ?_
    | with_reducible refine State.resetQueue_frame (Part.sub hp (by decide)) ?_ | with_reducible apply Part.foldl
    | with_reducible apply Part.foldlFst | with_reducible apply Part.iteFst

theorem State.resetCipher_frame {pt : Part} {base : State} {s : State} (hp : pt ∉ [Part.cip]) (hss : pt.same base s) :
    pt.same base (State.resetCipher s) := by
  unfold State.resetCipher
  try dsimp only
  repeat' first
    | with_reducible assumption | intro _ | with_reducible exact Part.same_refl _ _ | with_reducible apply Part.iteFst
    | fail_if_no_progress with_reducible refine Part.same_upd ?_ ?_ | ((with_reducible refine Part.keptIntro ?_); cases pt <;> first | exact absurd (by decide) hp | exact rfl | exact ⟨rfl, rfl⟩)

theorem State.resetPair_frame {pt : Part} {base : State} {s : State} (hp : pt ∉ [Part.regs, Part.io, Part.rlk, Part.frm, Part.par])
    (hss : pt.same base s) : pt.same base (State.resetPair s) := by
  have k (a : State) (x : ParSt) (hk : pt.same base a) : pt.same base { a with par := x } :=
    Part.same_upd hk (by
      cases pt <;> first | exact absurd (by decide) hp | exact rfl | exact ⟨rfl, rfl⟩)
  unfold State.resetPair
  refine State.ovmFollow_frame (Part.sub hp (by decide)) (State.wr_frame (Part.sub hp (by decide)) (k _ _ (Part.foldl
    (fun b c x h => State.wipeLane_frame (Part.sub hp (by decide)) h) _ ?_)))
  split
  · exact State.reject_frame (Part.sub hp (by decide)) hss
  · exact hss

theorem State.resetFlt_frame {pt : Part} {base : State} {s : State} (hp : pt ∉ [Part.io, Part.flt]) (hss : pt.same base s) :
    pt.same base (State.resetFlt s) := by
  unfold State.resetFlt
  try dsimp only
  repeat' first
    | with_reducible assumption | intro _ | with_reducible exact Part.same_refl _ _ | with_reducible refine State.reject_frame (Part.sub hp (by decide)) ?_
    | with_reducible apply Part.foldl | with_reducible apply Part.foldlFst | with_reducible apply Part.iteFst
    | split | fail_if_no_progress with_reducible refine Part.same_upd ?_ ?_ | ((with_reducible refine Part.keptIntro ?_); cases pt <;> first | exact absurd (by decide) hp | exact rfl | exact ⟨rfl, rfl⟩)

theorem State.resetUnits_frame {pt : Part} {base : State} {s : State} {d : Nat} (hp : pt ∉ [Part.dco, Part.regs, Part.io, Part.shf, Part.tim, Part.flt, Part.prt, Part.rlk, Part.frm, Part.map, Part.ovm, Part.qmg, Part.pm, Part.cip, Part.par]) (hss : pt.same base s) :
    pt.same base (State.resetUnits s d) := by
  unfold State.resetUnits
  try dsimp only
  repeat' first
    | with_reducible assumption | intro _ | with_reducible refine State.resetCipher_frame (Part.sub hp (by decide)) ?_
    | with_reducible refine State.resetFlt_frame (Part.sub hp (by decide)) ?_ | with_reducible refine State.resetGrain_frame (Part.sub hp (by decide)) ?_
    | with_reducible refine State.resetHif_frame (Part.sub hp (by decide)) ?_ | with_reducible refine State.resetPair_frame (Part.sub hp (by decide)) ?_
    | with_reducible refine State.resetQmg_frame (Part.sub hp (by decide)) ?_ | with_reducible refine State.resetShaft_frame (Part.sub hp (by decide)) ?_
    | with_reducible refine State.resetSlice_frame (Part.sub hp (by decide)) ?_ | with_reducible refine State.resetTsi_frame (Part.sub hp (by decide)) ?_
    | with_reducible apply Part.ite | split

theorem State.restartPasses_frame {pt : Part} {base : State} {s : State} {d : Nat} (hp : pt ∉ [Part.regs, Part.io, Part.asy]) (hss : pt.same base s) :
    pt.same base (State.restartPasses s d) := by
  unfold State.restartPasses
  try dsimp only
  repeat' first
    | with_reducible assumption | intro _ | with_reducible exact Part.same_refl _ _ | with_reducible refine State.reject_frame (Part.sub hp (by decide)) ?_
    | with_reducible refine State.wr_frame (Part.sub hp (by decide)) ?_ | with_reducible apply Part.ite
    | with_reducible apply Part.foldl | with_reducible apply Part.foldlFst | with_reducible apply Part.iteFst
    | fail_if_no_progress with_reducible refine Part.same_upd ?_ ?_ | ((with_reducible refine Part.keptIntro ?_); cases pt <;> first | exact absurd (by decide) hp | exact rfl | exact ⟨rfl, rfl⟩)
    | split

theorem State.enterReset_frame {pt : Part} {base : State} {s : State} {d : Nat} (hp : pt ∉ [Part.clock, Part.dco, Part.freeCtr, Part.regs, Part.io, Part.shf, Part.tim, Part.flt, Part.prt, Part.rlk, Part.frm, Part.map, Part.ovm, Part.qmg, Part.pm, Part.cip, Part.par, Part.asy, Part.sys]) (hss : pt.same base s) :
    pt.same base (State.enterReset s d) := by
  unfold State.enterReset
  try dsimp only
  repeat' first
    | with_reducible assumption | intro _ | with_reducible refine State.abandonMoves_frame (Part.sub hp (by decide)) ?_
    | with_reducible refine State.clearDomain_frame (Part.sub hp (by decide)) ?_ | with_reducible refine State.raise_frame (Part.sub hp (by decide)) ?_
    | with_reducible refine State.resetUnits_frame (Part.sub hp (by decide)) ?_ | with_reducible refine State.restartPasses_frame (Part.sub hp (by decide)) ?_
    | with_reducible refine State.wr_frame (Part.sub hp (by decide)) ?_ | fail_if_no_progress with_reducible refine Part.same_upd ?_ ?_
    | ((with_reducible refine Part.keptIntro ?_); cases pt <;> first | exact absurd (by decide) hp | exact rfl | exact ⟨rfl, rfl⟩)

theorem State.setHewerBit_frame {pt : Part} {base : State} {s : State} {lo mid hi : Fld} {h : Nat} {b : Bool} (hp : pt ∉ [Part.regs]) (hss : pt.same base s) :
    pt.same base (State.setHewerBit s lo mid hi h b) := by
  unfold State.setHewerBit
  try dsimp only
  repeat' first
    | with_reducible assumption | intro _ | with_reducible refine State.wr_frame (Part.sub hp (by decide)) ?_

theorem State.enterHewerReset_frame {pt : Part} {base : State} {s : State} {h : Nat} (hp : pt ∉ [Part.clock, Part.freeCtr, Part.regs, Part.io, Part.frm, Part.ovm, Part.par, Part.sys]) (hss : pt.same base s) :
    pt.same base (State.enterHewerReset s h) := by
  unfold State.enterHewerReset
  try dsimp only
  repeat' first
    | with_reducible assumption | intro _ | with_reducible refine State.abandonMoves_frame (Part.sub hp (by decide)) ?_
    | with_reducible refine State.raise_frame (Part.sub hp (by decide)) ?_ | with_reducible refine State.setHewerBit_frame (Part.sub hp (by decide)) ?_
    | with_reducible refine State.wr_frame (Part.sub hp (by decide)) ?_ | fail_if_no_progress with_reducible refine Part.same_upd ?_ ?_
    | ((with_reducible refine Part.keptIntro ?_); cases pt <;> first | exact absurd (by decide) hp | exact rfl | exact ⟨rfl, rfl⟩)

/-- A CHIP reset keeps the queue. -/
theorem State.chipReset_frame {pt : Part} {base : State} {s : State} {cause : Nat}
    (hp : pt ∉ [Part.clock, Part.dco, Part.freeCtr, Part.regs, Part.io, Part.shf, Part.tim, Part.flt, Part.prt, Part.rlk, Part.frm, Part.map, Part.ovm, Part.qmg, Part.feeds, Part.pm, Part.cip, Part.par, Part.eng, Part.asy, Part.bkg, Part.sec, Part.sys])
    (hss : pt.same base s) : pt.same base (State.chipReset s cause) := by
  cases pt <;> first
    | exact absurd (by decide) hp
    | exact (State.chipReset_keeps (Keeps.refl s)).pend.trans hss

theorem execRailUndervoltage_frame {pt : Part} {dt : Nat} {s : State} (hp : pt ∉ [Part.clock, Part.dco, Part.freeCtr, Part.regs, Part.io, Part.shf, Part.tim, Part.flt, Part.prt, Part.rlk, Part.frm, Part.map, Part.ovm, Part.qmg, Part.feeds, Part.pm, Part.cip, Part.par, Part.eng, Part.asy, Part.bkg, Part.sec, Part.sys]) :
    ∃ s', execRailUndervoltage dt s = .next s' ∧ pt.same s s' := by
  unfold execRailUndervoltage
  refine ⟨_, rfl, ?_⟩
  try dsimp only
  repeat' first
    | with_reducible assumption | with_reducible exact Part.same_refl _ _ | intro _ | with_reducible refine State.chipReset_frame (Part.sub hp (by decide)) ?_
    | with_reducible refine State.elapse_frame (Part.sub hp (by decide)) ?_

theorem execPorstNLow_frame {pt : Part} {dt : Nat} {s : State} (hp : pt ∉ [Part.clock, Part.dco, Part.freeCtr, Part.regs, Part.io, Part.shf, Part.tim, Part.flt, Part.prt, Part.rlk, Part.frm, Part.map, Part.ovm, Part.qmg, Part.feeds, Part.pm, Part.cip, Part.par, Part.eng, Part.asy, Part.bkg, Part.sec, Part.sys]) :
    ∃ s', execPorstNLow dt s = .next s' ∧ pt.same s s' := by
  unfold execPorstNLow
  refine ⟨_, rfl, ?_⟩
  try dsimp only
  repeat' first
    | with_reducible assumption | with_reducible exact Part.same_refl _ _ | intro _ | with_reducible refine State.chipReset_frame (Part.sub hp (by decide)) ?_
    | with_reducible refine State.elapse_frame (Part.sub hp (by decide)) ?_

theorem State.yieldFirst_frame {pt : Part} {base : State} {s : State} {l : List Nat} (hp : pt ∉ [Part.clock, Part.regs, Part.io, Part.par]) (hss : pt.same base s) :
    pt.same base (State.yieldFirst s l) := by
  unfold State.yieldFirst
  try dsimp only
  repeat' first
    | with_reducible assumption | intro _ | with_reducible refine State.giveUp_frame (Part.sub hp (by decide)) ?_
    | with_reducible refine State.waitAddr_frame (Part.sub hp (by decide)) ?_ | with_reducible apply Part.ite
    | split

theorem State.accessBad_frame {pt : Part} {base : State} {s : State} {off be cause : Nat} (hp : pt ∉ [Part.regs, Part.io]) (hss : pt.same base s) :
    pt.same base (State.accessBad s off be cause) := by
  unfold State.accessBad
  try dsimp only
  repeat' first
    | with_reducible assumption | intro _ | with_reducible refine State.count_frame (Part.sub hp (by decide)) ?_
    | with_reducible refine State.raise_frame (Part.sub hp (by decide)) ?_

theorem State.writeRstReq_frame {pt : Part} {base : State} {s : State} {value : Nat} (hp : pt ∉ [Part.clock, Part.dco, Part.freeCtr, Part.regs, Part.io, Part.shf, Part.tim, Part.flt, Part.prt, Part.rlk, Part.frm, Part.map, Part.ovm, Part.qmg, Part.feeds, Part.pm, Part.cip, Part.par, Part.eng, Part.asy, Part.bkg, Part.sec, Part.sys]) (hss : pt.same base s) :
    pt.same base (State.writeRstReq s value) := by
  unfold State.writeRstReq
  try dsimp only
  repeat' first
    | with_reducible assumption | intro _ | with_reducible exact Part.same_refl _ _ | with_reducible refine State.accessBad_frame (Part.sub hp (by decide)) ?_
    | with_reducible refine State.chipReset_frame (Part.sub hp (by decide)) ?_ | with_reducible refine State.count_frame (Part.sub hp (by decide)) ?_
    | with_reducible refine State.enterReset_frame (Part.sub hp (by decide)) ?_ | with_reducible refine State.wr_frame (Part.sub hp (by decide)) ?_
    | with_reducible refine State.yieldFirst_frame (Part.sub hp (by decide)) ?_ | with_reducible apply Part.ite
    | with_reducible apply Part.foldl | split

theorem State.writeHewerReq_frame {pt : Part} {base : State} {s : State} {third value : Nat} (hp : pt ∉ [Part.clock, Part.freeCtr, Part.regs, Part.io, Part.frm, Part.ovm, Part.par, Part.sys]) (hss : pt.same base s) :
    pt.same base (State.writeHewerReq s third value) := by
  unfold State.writeHewerReq
  try dsimp only
  repeat' first
    | with_reducible assumption | intro _ | with_reducible exact Part.same_refl _ _ | with_reducible refine State.accessBad_frame (Part.sub hp (by decide)) ?_
    | with_reducible refine State.count_frame (Part.sub hp (by decide)) ?_ | with_reducible refine State.enterHewerReset_frame (Part.sub hp (by decide)) ?_
    | with_reducible refine State.wr_frame (Part.sub hp (by decide)) ?_ | with_reducible apply Part.ite
    | with_reducible apply Part.foldl | split

theorem execRstReq_frame {pt : Part} {dt value : Nat} {s : State} (hp : pt ∉ [Part.clock, Part.dco, Part.freeCtr, Part.regs, Part.io, Part.shf, Part.tim, Part.flt, Part.prt, Part.rlk, Part.frm, Part.map, Part.ovm, Part.qmg, Part.feeds, Part.pm, Part.cip, Part.par, Part.eng, Part.asy, Part.bkg, Part.sec, Part.sys]) :
    ∃ s', execRstReq dt value s = .next s' ∧ pt.same s s' := by
  unfold execRstReq
  refine ⟨_, rfl, ?_⟩
  try dsimp only
  repeat' first
    | with_reducible assumption | with_reducible exact Part.same_refl _ _ | intro _ | with_reducible refine State.elapse_frame (Part.sub hp (by decide)) ?_
    | with_reducible refine State.writeRstReq_frame (Part.sub hp (by decide)) ?_ | with_reducible apply Part.ite
    | split

theorem execRstHewerReq_frame {pt : Part} {dt third value : Nat} {s : State} (hp : pt ∉ [Part.clock, Part.freeCtr, Part.regs, Part.io, Part.frm, Part.ovm, Part.par, Part.sys]) :
    ∃ s', execRstHewerReq dt third value s = .next s' ∧ pt.same s s' := by
  unfold execRstHewerReq
  refine ⟨_, rfl, ?_⟩
  try dsimp only
  repeat' first
    | with_reducible assumption | with_reducible exact Part.same_refl _ _ | intro _ | with_reducible refine State.elapse_frame (Part.sub hp (by decide)) ?_
    | with_reducible refine State.writeHewerReq_frame (Part.sub hp (by decide)) ?_ | with_reducible apply Part.ite
    | split

theorem execHifDomainReset_frame {pt : Part} {dt : Nat} {s : State} (hp : pt ∉ [Part.clock, Part.dco, Part.freeCtr, Part.regs, Part.io, Part.shf, Part.tim, Part.flt, Part.prt, Part.rlk, Part.frm, Part.map, Part.ovm, Part.qmg, Part.pm, Part.cip, Part.par, Part.asy, Part.sys]) :
    ∃ s', execHifDomainReset dt s = .next s' ∧ pt.same s s' := by
  unfold execHifDomainReset
  refine ⟨_, rfl, ?_⟩
  try dsimp only
  repeat' first
    | with_reducible assumption | with_reducible exact Part.same_refl _ _ | intro _ | with_reducible refine State.elapse_frame (Part.sub hp (by decide)) ?_
    | with_reducible refine State.enterReset_frame (Part.sub hp (by decide)) ?_ | with_reducible apply Part.ite
    | split

theorem State.linkChange_frame {pt : Part} {base : State} {s1 : State} {up : Bool} {speed width : Nat} (hp : pt ∉ [Part.clock, Part.dco, Part.freeCtr, Part.regs, Part.io, Part.shf, Part.tim, Part.flt, Part.prt, Part.rlk, Part.frm, Part.map, Part.ovm, Part.qmg, Part.pm, Part.cip, Part.par, Part.asy, Part.sys]) (hss1 : pt.same base s1) :
    pt.same base (State.linkChange s1 up speed width) := by
  unfold State.linkChange
  try dsimp only
  repeat' first
    | with_reducible assumption | intro _ | with_reducible refine State.enterReset_frame (Part.sub hp (by decide)) ?_
    | with_reducible refine State.raise_frame (Part.sub hp (by decide)) ?_ | with_reducible refine State.wr_frame (Part.sub hp (by decide)) ?_
    | with_reducible refine State.wrBit_frame (Part.sub hp (by decide)) ?_ | with_reducible apply Part.ite
    | fail_if_no_progress with_reducible refine Part.same_upd ?_ ?_ | ((with_reducible refine Part.keptIntro ?_); cases pt <;> first | exact absurd (by decide) hp | exact rfl | exact ⟨rfl, rfl⟩)
    | split

theorem execPcieLinkChange_frame {pt : Part} {dt : Nat} {up : Bool} {speed width : Nat} {s : State} (hp : pt ∉ [Part.clock, Part.dco, Part.freeCtr, Part.regs, Part.io, Part.shf, Part.tim, Part.flt, Part.prt, Part.rlk, Part.frm, Part.map, Part.ovm, Part.qmg, Part.pm, Part.cip, Part.par, Part.asy, Part.sys]) :
    ∃ s', execPcieLinkChange dt up speed width s = .next s' ∧ pt.same s s' := by
  unfold execPcieLinkChange
  refine ⟨_, rfl, ?_⟩
  try dsimp only
  repeat' first
    | with_reducible assumption | with_reducible exact Part.same_refl _ _ | intro _ | with_reducible refine State.elapse_frame (Part.sub hp (by decide)) ?_
    | with_reducible refine State.linkChange_frame (Part.sub hp (by decide)) ?_

theorem execPerstNRelease_frame {pt : Part} {dt speed width : Nat} {s : State} (hp : pt ∉ [Part.clock, Part.dco, Part.freeCtr, Part.regs, Part.io, Part.shf, Part.tim, Part.flt, Part.prt, Part.rlk, Part.frm, Part.map, Part.ovm, Part.qmg, Part.pm, Part.cip, Part.par, Part.asy, Part.sys]) :
    ∃ s', execPerstNRelease dt speed width s = .next s' ∧ pt.same s s' := by
  unfold execPerstNRelease
  refine ⟨_, rfl, ?_⟩
  try dsimp only
  repeat' first
    | with_reducible assumption | with_reducible exact Part.same_refl _ _ | intro _ | with_reducible refine State.elapse_frame (Part.sub hp (by decide)) ?_
    | with_reducible refine State.linkChange_frame (Part.sub hp (by decide)) ?_ | fail_if_no_progress with_reducible refine Part.same_upd ?_ ?_
    | ((with_reducible refine Part.keptIntro ?_); cases pt <;> first | exact absurd (by decide) hp | exact rfl | exact ⟨rfl, rfl⟩)

theorem State.norBad_frame {pt : Part} {base : State} {s : State} {copy reason : Nat} (hp : pt ∉ [Part.io, Part.sys]) (hss : pt.same base s) :
    pt.same base (State.norBad s copy reason) := by
  unfold State.norBad
  try dsimp only
  repeat' first
    | with_reducible assumption | intro _ | with_reducible refine State.raise_frame (Part.sub hp (by decide)) ?_
    | fail_if_no_progress with_reducible refine Part.same_upd ?_ ?_ | ((with_reducible refine Part.keptIntro ?_); cases pt <;> first | exact absurd (by decide) hp | exact rfl | exact ⟨rfl, rfl⟩)

theorem State.loadNor_frame {pt : Part} {base : State} {s : State} (hp : pt ∉ [Part.io, Part.asy, Part.sys]) (hss : pt.same base s) :
    pt.same base (State.loadNor s) := by
  unfold State.loadNor
  try dsimp only
  repeat' first
    | with_reducible assumption | intro _ | with_reducible exact Part.same_refl _ _ | with_reducible refine State.norBad_frame (Part.sub hp (by decide)) ?_
    | with_reducible refine State.raise_frame (Part.sub hp (by decide)) ?_ | with_reducible apply Part.ite
    | with_reducible apply Part.foldl | with_reducible apply Part.foldlFst | with_reducible apply Part.iteFst
    | split | fail_if_no_progress with_reducible refine Part.same_upd ?_ ?_ | ((with_reducible refine Part.keptIntro ?_); cases pt <;> first | exact absurd (by decide) hp | exact rfl | exact ⟨rfl, rfl⟩)

theorem State.norConfigLoad_frame {pt : Part} {base : State} {s : State} (hp : pt ∉ [Part.io, Part.asy, Part.sys]) (hss : pt.same base s) :
    pt.same base (State.norConfigLoad s) := by
  unfold State.norConfigLoad
  try dsimp only
  repeat' first
    | with_reducible assumption | intro _ | with_reducible exact Part.same_refl _ _ | with_reducible refine State.loadNor_frame (Part.sub hp (by decide)) ?_
    | with_reducible refine State.norBad_frame (Part.sub hp (by decide)) ?_ | with_reducible apply Part.ite
    | with_reducible apply Part.foldl | split

theorem State.afterRelease_frame {pt : Part} {base : State} {s : State} {d : Nat} (hp : pt ∉ [Part.clock, Part.io, Part.flt, Part.ovm, Part.asy, Part.sys]) (hss : pt.same base s) :
    pt.same base (State.afterRelease s d) := by
  unfold State.afterRelease
  try dsimp only
  repeat' first
    | with_reducible assumption | intro _ | with_reducible exact Part.same_refl _ _ | with_reducible refine State.norConfigLoad_frame (Part.sub hp (by decide)) ?_
    | with_reducible refine State.raise_frame (Part.sub hp (by decide)) ?_ | with_reducible apply Part.ite
    | with_reducible apply Part.iteFst | split | fail_if_no_progress with_reducible refine Part.same_upd ?_ ?_
    | ((with_reducible refine Part.keptIntro ?_); cases pt <;> first | exact absurd (by decide) hp | exact rfl | exact ⟨rfl, rfl⟩)

theorem execResetReleased_frame {pt : Part} {dt unit : Nat} {s : State} (hp : pt ∉ [Part.clock, Part.dco, Part.freeCtr, Part.regs, Part.io, Part.shf, Part.tim, Part.flt, Part.prt, Part.rlk, Part.frm, Part.map, Part.ovm, Part.qmg, Part.pm, Part.cip, Part.par, Part.asy, Part.sys]) :
    ∃ s', execResetReleased dt unit s = .next s' ∧ pt.same s s' := by
  unfold execResetReleased
  refine ⟨_, rfl, ?_⟩
  try dsimp only
  repeat' first
    | with_reducible assumption | with_reducible exact Part.same_refl _ _ | intro _ | with_reducible refine State.afterRelease_frame (Part.sub hp (by decide)) ?_
    | with_reducible refine State.draw_frame (Part.sub hp (by decide)) ?_ | with_reducible refine State.elapse_frame (Part.sub hp (by decide)) ?_
    | with_reducible refine State.enterHewerReset_frame (Part.sub hp (by decide)) ?_ | with_reducible refine State.enterReset_frame (Part.sub hp (by decide)) ?_
    | with_reducible refine State.raise_frame (Part.sub hp (by decide)) ?_ | with_reducible refine State.setHewerBit_frame (Part.sub hp (by decide)) ?_
    | with_reducible refine State.startOverman_frame (Part.sub hp (by decide)) ?_ | with_reducible refine State.wr_frame (Part.sub hp (by decide)) ?_
    | with_reducible apply Part.ite | split

end Sys2Proof.Machine
end

