-- ==== Sys2Proof/Laws/FramesRegisters.lean ====
section
/-! SUPPORT. Which parts of the state the operations of Machine/Registers.lean may change. -/

set_option Elab.async false

namespace Sys2Proof.Machine

theorem State.stage_frame {pt : Part} {base : State} {s : State} {f : Fld} {i v : Nat} (hp : pt ∉ [Part.regs]) (hss : pt.same base s) :
    pt.same base (State.stage s f i v) := by
  unfold State.stage
  try dsimp only
  repeat' first
    | with_reducible assumption | intro _ | with_reducible exact Part.same_refl _ _ | with_reducible apply Part.ite
    | with_reducible apply Part.iteFst | fail_if_no_progress with_reducible refine Part.same_upd ?_ ?_
    | ((with_reducible refine Part.keptIntro ?_); cases pt <;> first | exact absurd (by decide) hp | exact rfl | exact ⟨rfl, rfl⟩)
    | split

theorem State.raiseEpoch_frame {pt : Part} {base : State} {s : State} {v : Nat} (hp : pt ∉ [Part.regs, Part.cip]) (hss : pt.same base s) :
    pt.same base (State.raiseEpoch s v) := by
  unfold State.raiseEpoch
  try dsimp only
  repeat' first
    | with_reducible assumption | intro _ | with_reducible refine State.wr_frame (Part.sub hp (by decide)) ?_
    | with_reducible apply Part.ite | fail_if_no_progress with_reducible refine Part.same_upd ?_ ?_ | ((with_reducible refine Part.keptIntro ?_); cases pt <;> first | exact absurd (by decide) hp | exact rfl | exact ⟨rfl, rfl⟩)
    | split

theorem State.lockField_frame {pt : Part} {base : State} {s : State} {f : Fld} {i v : Nat} (hp : pt ∉ [Part.regs, Part.cip]) (hss : pt.same base s) :
    pt.same base (State.lockField s f i v) := by
  unfold State.lockField
  try dsimp only
  repeat' first
    | with_reducible assumption | intro _ | with_reducible refine State.raiseEpoch_frame (Part.sub hp (by decide)) ?_
    | with_reducible refine State.wr_frame (Part.sub hp (by decide)) ?_ | with_reducible apply Part.ite
    | fail_if_no_progress with_reducible refine Part.same_upd ?_ ?_ | ((with_reducible refine Part.keptIntro ?_); cases pt <;> first | exact absurd (by decide) hp | exact rfl | exact ⟨rfl, rfl⟩)
    | split

theorem State.hostLock_frame {pt : Part} {base : State} {s : State} {off : Nat} {f : Fld} {i v : Nat} (hp : pt ∉ [Part.regs, Part.io, Part.cip]) (hss : pt.same base s) :
    pt.same base (State.hostLock s off f i v) := by
  unfold State.hostLock
  try dsimp only
  repeat' first
    | with_reducible assumption | intro _ | with_reducible refine State.count_frame (Part.sub hp (by decide)) ?_
    | with_reducible refine State.lockField_frame (Part.sub hp (by decide)) ?_ | with_reducible refine State.raiseLim_frame (Part.sub hp (by decide)) ?_
    | with_reducible apply Part.ite | split

theorem State.cmdEnabled_frame {pt : Part} {base : State} {s : State} {n : Nat} (hp : pt ∉ [Part.regs, Part.io]) (hss : pt.same base s) :
    pt.same base (State.cmdEnabled s n) := by
  unfold State.cmdEnabled
  try dsimp only
  repeat' first
    | with_reducible assumption | intro _ | with_reducible exact Part.same_refl _ _ | with_reducible refine State.wr_frame (Part.sub hp (by decide)) ?_
    | with_reducible apply Part.iteFst | fail_if_no_progress with_reducible refine Part.same_upd ?_ ?_
    | ((with_reducible refine Part.keptIntro ?_); cases pt <;> first | exact absurd (by decide) hp | exact rfl | exact ⟨rfl, rfl⟩)

theorem State.cplEnabled_frame {pt : Part} {base : State} {s : State} {n : Nat} (hp : pt ∉ [Part.io]) (hss : pt.same base s) :
    pt.same base (State.cplEnabled s n) := by
  unfold State.cplEnabled
  try dsimp only
  repeat' first
    | with_reducible assumption | intro _ | with_reducible refine State.wr_frame (Part.sub hp (by decide)) ?_
    | fail_if_no_progress with_reducible refine Part.same_upd ?_ ?_ | ((with_reducible refine Part.keptIntro ?_); cases pt <;> first | exact absurd (by decide) hp | exact rfl | exact ⟨rfl, rfl⟩)

theorem State.evqEnabled_frame {pt : Part} {base : State} {s : State} {n : Nat} (hp : pt ∉ [Part.io]) (hss : pt.same base s) :
    pt.same base (State.evqEnabled s n) := by
  unfold State.evqEnabled
  try dsimp only
  repeat' first
    | with_reducible assumption | intro _ | with_reducible refine State.wr_frame (Part.sub hp (by decide)) ?_
    | fail_if_no_progress with_reducible refine Part.same_upd ?_ ?_ | ((with_reducible refine Part.keptIntro ?_); cases pt <;> first | exact absurd (by decide) hp | exact rfl | exact ⟨rfl, rfl⟩)

theorem State.cplDisabled_frame {pt : Part} {base : State} {s : State} {n : Nat} (hp : pt ∉ [Part.io]) (hss : pt.same base s) :
    pt.same base (State.cplDisabled s n) := by
  unfold State.cplDisabled
  try dsimp only
  repeat' first
    | with_reducible assumption | intro _ | with_reducible exact Part.same_refl _ _ | with_reducible refine State.countBy_frame (Part.sub hp (by decide)) ?_
    | with_reducible apply Part.ite | fail_if_no_progress with_reducible refine Part.same_upd ?_ ?_ | ((with_reducible refine Part.keptIntro ?_); cases pt <;> first | exact absurd (by decide) hp | exact rfl | exact ⟨rfl, rfl⟩)
    | split

theorem State.onEdge_frame {pt : Part} {base : State} {old new : State} {f : Fld} {n : Nat} {rise fall : State → State} (hp : pt ∉ ([] : List Part)) (hsnew : pt.same base new) (hrise : ∀ b c, pt.same b c → pt.same b (rise c)) (hfall : ∀ b c, pt.same b c → pt.same b (fall c)) :
    pt.same base (State.onEdge old new f n rise fall) := by
  unfold State.onEdge
  try dsimp only
  repeat' first
    | with_reducible assumption | intro _ | with_reducible exact Part.same_refl _ _ | with_reducible apply hrise
    | with_reducible apply hfall | with_reducible apply Part.ite | split

theorem State.chansChanged_frame {pt : Part} {base : State} {old new : State} (hp : pt ∉ [Part.regs, Part.io, Part.flt]) (hsnew : pt.same base new) :
    pt.same base (State.chansChanged old new) := by
  unfold State.chansChanged
  try dsimp only
  repeat' first
    | with_reducible assumption | intro _ | with_reducible exact Part.same_refl _ _ | with_reducible refine State.resetChan_frame (Part.sub hp (by decide)) ?_
    | with_reducible apply Part.ite | with_reducible apply Part.foldl | fail_if_no_progress with_reducible refine Part.same_upd ?_ ?_
    | ((with_reducible refine Part.keptIntro ?_); cases pt <;> first | exact absurd (by decide) hp | exact rfl | exact ⟨rfl, rfl⟩)
    | split

theorem State.doorbellMoved_frame {pt : Part} {base : State} {old new : State} (hp : pt ∉ [Part.shf]) (hsnew : pt.same base new) :
    pt.same base (State.doorbellMoved old new) := by
  unfold State.doorbellMoved
  try dsimp only
  repeat' first
    | with_reducible assumption | intro _ | with_reducible apply Part.ite | split | fail_if_no_progress with_reducible refine Part.same_upd ?_ ?_
    | ((with_reducible refine Part.keptIntro ?_); cases pt <;> first | exact absurd (by decide) hp | exact rfl | exact ⟨rfl, rfl⟩)

theorem State.afterWrite_frame {pt : Part} {base : State} {old new : State} {off : Nat} (hp : pt ∉ [Part.regs, Part.io, Part.shf, Part.flt, Part.prt, Part.pm])
    (hsnew : pt.same base new) : pt.same base (State.afterWrite old new off) := by
  have k (b c : State) (h : pt.same b c) : pt.same b c := h
  exact Part.ite (State.doorbellMoved_frame (Part.sub hp (by decide)) hsnew) (Part.ite (State.chansChanged_frame (Part.sub hp (by decide)) hsnew)
    (Part.ite (State.applyTaps_frame (Part.sub hp (by decide)) hsnew) (Part.ite (Part.ite hsnew (State.pmEnChanged_frame (Part.sub hp (by decide)) hsnew))
      (Part.ite (State.onEdge_frame (Part.sub hp (by decide)) hsnew (fun b c h => Part.same_upd h (by
      cases pt <;> first | exact absurd (by decide) hp | exact rfl | exact ⟨rfl, rfl⟩)) k)
        (Part.ite (State.onEdge_frame (Part.sub hp (by decide)) hsnew (fun b c h => State.cmdEnabled_frame (Part.sub hp (by decide)) h) k)
          (Part.ite (State.onEdge_frame (Part.sub hp (by decide)) hsnew (fun b c h => State.cplEnabled_frame (Part.sub hp (by decide)) h)
              (fun b c h => State.cplDisabled_frame (Part.sub hp (by decide)) h))
            (Part.ite (State.onEdge_frame (Part.sub hp (by decide)) hsnew (fun b c h => State.evqEnabled_frame (Part.sub hp (by decide)) h) k)
              hsnew)))))))

theorem State.hostField_frame {pt : Part} {base : State} {s : State} {off value : Nat} {f : Fld} {i : Nat} (hp : pt ∉ [Part.regs, Part.io, Part.cip]) (hss : pt.same base s) :
    pt.same base (State.hostField s off value f i) := by
  unfold State.hostField
  try dsimp only
  repeat' first
    | with_reducible assumption | intro _ | with_reducible refine State.hostLock_frame (Part.sub hp (by decide)) ?_
    | with_reducible refine State.stage_frame (Part.sub hp (by decide)) ?_ | with_reducible refine State.wr_frame (Part.sub hp (by decide)) ?_
    | with_reducible apply Part.ite | split | fail_if_no_progress with_reducible refine Part.same_upd ?_ ?_
    | ((with_reducible refine Part.keptIntro ?_); cases pt <;> first | exact absurd (by decide) hp | exact rfl | exact ⟨rfl, rfl⟩)

theorem State.hostFields_frame {pt : Part} {base : State} {s : State} {off value : Nat} (hp : pt ∉ [Part.regs, Part.io, Part.shf, Part.flt, Part.prt, Part.pm, Part.cip]) (hss : pt.same base s) :
    pt.same base (State.hostFields s off value) := by
  unfold State.hostFields
  try dsimp only
  repeat' first
    | with_reducible assumption | intro _ | with_reducible exact Part.same_refl _ _ | with_reducible refine State.afterWrite_frame (Part.sub hp (by decide)) ?_
    | with_reducible refine State.hostField_frame (Part.sub hp (by decide)) ?_ | with_reducible apply Part.foldl
    | with_reducible apply Part.foldlFst | with_reducible apply Part.iteFst

theorem State.writeMsix_frame {pt : Part} {base : State} {s : State} {k value : Nat} (hp : pt ∉ [Part.io]) (hss : pt.same base s) :
    pt.same base (State.writeMsix s k value) := by
  unfold State.writeMsix
  try dsimp only
  repeat' first
    | with_reducible assumption | intro _ | with_reducible apply Part.ite | fail_if_no_progress with_reducible refine Part.same_upd ?_ ?_
    | ((with_reducible refine Part.keptIntro ?_); cases pt <;> first | exact absurd (by decide) hp | exact rfl | exact ⟨rfl, rfl⟩)
    | split

theorem State.writeTst_frame {pt : Part} {base : State} {s : State} {value : Nat} (hp : pt ∉ [Part.regs, Part.io, Part.bkg]) (hss : pt.same base s) :
    pt.same base (State.writeTst s value) := by
  unfold State.writeTst
  try dsimp only
  repeat' first
    | with_reducible assumption | intro _ | with_reducible refine State.raise_frame (Part.sub hp (by decide)) ?_
    | with_reducible refine State.wr_frame (Part.sub hp (by decide)) ?_ | with_reducible apply Part.ite
    | split | fail_if_no_progress with_reducible refine Part.same_upd ?_ ?_ | ((with_reducible refine Part.keptIntro ?_); cases pt <;> first | exact absurd (by decide) hp | exact rfl | exact ⟨rfl, rfl⟩)

theorem State.tstWait_frame {pt : Part} {base : State} {s : State} (hp : pt ∉ [Part.clock, Part.regs, Part.io, Part.qmg, Part.bkg]) (hss : pt.same base s) :
    pt.same base (State.tstWait s) := by
  unfold State.tstWait
  try dsimp only
  repeat' first
    | with_reducible assumption | intro _ | with_reducible refine State.tstTake_frame (Part.sub hp (by decide)) ?_
    | with_reducible refine State.waitAddr_frame (Part.sub hp (by decide)) ?_ | split

theorem execTstArm_frame {pt : Part} {dt value : Nat} {s : State} (hp : pt ∉ [Part.clock, Part.regs, Part.io, Part.qmg, Part.bkg]) :
    ∃ s', execTstArm dt value s = .next s' ∧ pt.same s s' := by
  unfold execTstArm
  refine ⟨_, rfl, ?_⟩
  try dsimp only
  repeat' first
    | with_reducible assumption | with_reducible exact Part.same_refl _ _ | intro _ | with_reducible refine State.elapse_frame (Part.sub hp (by decide)) ?_
    | with_reducible refine State.tstWait_frame (Part.sub hp (by decide)) ?_ | with_reducible refine State.writeTst_frame (Part.sub hp (by decide)) ?_
    | with_reducible apply Part.ite | split

theorem execShadowLoRead_frame {pt : Part} {dt off : Nat} {s : State} (hp : pt ∉ [Part.clock, Part.regs]) :
    ∃ s', execShadowLoRead dt off s = .next s' ∧ pt.same s s' := by
  unfold execShadowLoRead
  refine ⟨_, rfl, ?_⟩
  try dsimp only
  repeat' first
    | with_reducible assumption | intro _ | with_reducible exact Part.same_refl _ _ | with_reducible refine State.elapse_frame (Part.sub hp (by decide)) ?_
    | with_reducible apply Part.ite | with_reducible apply Part.foldl | with_reducible apply Part.foldlFst
    | with_reducible apply Part.iteFst | split | fail_if_no_progress with_reducible refine Part.same_upd ?_ ?_
    | ((with_reducible refine Part.keptIntro ?_); cases pt <;> first | exact absurd (by decide) hp | exact rfl | exact ⟨rfl, rfl⟩)

theorem State.triFix_frame {pt : Part} {base : State} {s : State} {e : TriError} (hp : pt ∉ [Part.regs, Part.io]) (hss : pt.same base s) :
    pt.same base (State.triFix s e) := by
  unfold State.triFix
  try dsimp only
  repeat' first
    | with_reducible assumption | intro _ | with_reducible exact Part.same_refl _ _ | with_reducible refine State.count_frame (Part.sub hp (by decide)) ?_
    | with_reducible refine State.raise_frame (Part.sub hp (by decide)) ?_ | with_reducible refine State.wr_frame (Part.sub hp (by decide)) ?_
    | with_reducible apply Part.iteFst | split

theorem execTriScrub_frame {pt : Part} {dt : Nat} {l : List TriError} {s : State} (hp : pt ∉ [Part.clock, Part.regs, Part.io]) :
    ∃ s', execTriScrub dt l s = .next s' ∧ pt.same s s' := by
  unfold execTriScrub
  refine ⟨_, rfl, ?_⟩
  try dsimp only
  repeat' first
    | with_reducible assumption | intro _ | with_reducible exact Part.same_refl _ _ | with_reducible refine State.toBoundary_frame (Part.sub hp (by decide)) ?_
    | with_reducible refine State.triFix_frame (Part.sub hp (by decide)) ?_ | with_reducible apply Part.ite
    | with_reducible apply Part.foldl | split

end Sys2Proof.Machine
end

