-- ==== Sys2Proof/Laws/FramesCommit.lean ====
section
/-! SUPPORT. Which parts of the state the operations of Machine/Commit.lean may change. -/

set_option Elab.async false

namespace Sys2Proof.Machine

theorem State.discardGroups_frame {pt : Part} {base : State} {s : State} {mask : Nat} (hp : pt ∉ [Part.regs]) (hss : pt.same base s) :
    pt.same base (State.discardGroups s mask) := by
  unfold State.discardGroups
  try dsimp only
  repeat' first
    | with_reducible assumption | intro _ | with_reducible exact Part.same_refl _ _ | with_reducible apply Part.iteFst
    | fail_if_no_progress with_reducible refine Part.same_upd ?_ ?_ | ((with_reducible refine Part.keptIntro ?_); cases pt <;> first | exact absurd (by decide) hp | exact rfl | exact ⟨rfl, rfl⟩)

theorem State.makeDiscards_frame {pt : Part} {base : State} {s : State} (hp : pt ∉ [Part.regs, Part.io]) (hss : pt.same base s) :
    pt.same base (State.makeDiscards s) := by
  unfold State.makeDiscards
  try dsimp only
  repeat' first
    | with_reducible assumption | intro _ | with_reducible exact Part.same_refl _ _ | with_reducible refine State.discardGroups_frame (Part.sub hp (by decide)) ?_
    | with_reducible refine State.done_frame (Part.sub hp (by decide)) ?_ | with_reducible refine State.wr_frame (Part.sub hp (by decide)) ?_
    | with_reducible apply Part.foldl | with_reducible apply Part.foldlFst | with_reducible apply Part.iteFst
    | fail_if_no_progress with_reducible refine Part.same_upd ?_ ?_ | ((with_reducible refine Part.keptIntro ?_); cases pt <;> first | exact absurd (by decide) hp | exact rfl | exact ⟨rfl, rfl⟩)

theorem State.rejectCommit_frame {pt : Part} {base : State} {s : State} {mask : Nat} {fail : Nat × Nat × Nat} {asks : List (Nat × HostRef)} (hp : pt ∉ [Part.regs, Part.io]) (hss : pt.same base s) :
    pt.same base (State.rejectCommit s mask fail asks) := by
  unfold State.rejectCommit
  try dsimp only
  repeat' first
    | with_reducible assumption | intro _ | with_reducible exact Part.same_refl _ _ | with_reducible refine State.complete_frame (Part.sub hp (by decide)) ?_
    | with_reducible refine State.count_frame (Part.sub hp (by decide)) ?_ | with_reducible refine State.say_frame (Part.sub hp (by decide)) ?_
    | with_reducible refine State.wr_frame (Part.sub hp (by decide)) ?_ | with_reducible apply Part.foldl
    | with_reducible apply Part.foldlFst | with_reducible apply Part.iteFst

theorem State.rejectHalted_frame {pt : Part} {base : State} {s : State} {mask : Nat} {asks : List (Nat × HostRef)} (hp : pt ∉ [Part.regs, Part.io]) (hss : pt.same base s) :
    pt.same base (State.rejectHalted s mask asks) := by
  unfold State.rejectHalted
  try dsimp only
  repeat' first
    | with_reducible assumption | intro _ | with_reducible refine State.rejectCommit_frame (Part.sub hp (by decide)) ?_

theorem State.writeCommit_frame {pt : Part} {base : State} {s : State} {value : Nat} (hp : pt ∉ [Part.regs, Part.io]) (hss : pt.same base s) :
    pt.same base (State.writeCommit s value) := by
  unfold State.writeCommit
  try dsimp only
  repeat' first
    | with_reducible assumption | intro _ | with_reducible exact Part.same_refl _ _ | with_reducible refine State.rejectHalted_frame (Part.sub hp (by decide)) ?_
    | with_reducible refine State.wr_frame (Part.sub hp (by decide)) ?_ | with_reducible apply Part.ite
    | with_reducible apply Part.iteFst | fail_if_no_progress with_reducible refine Part.same_upd ?_ ?_
    | ((with_reducible refine Part.keptIntro ?_); cases pt <;> first | exact absurd (by decide) hp | exact rfl | exact ⟨rfl, rfl⟩)
    | split

theorem execGlbCommit_frame {pt : Part} {dt value : Nat} {s : State} (hp : pt ∉ [Part.clock, Part.regs, Part.io]) :
    ∃ s', execGlbCommit dt value s = .next s' ∧ pt.same s s' := by
  unfold execGlbCommit
  refine ⟨_, rfl, ?_⟩
  try dsimp only
  repeat' first
    | with_reducible assumption | with_reducible exact Part.same_refl _ _ | intro _ | with_reducible refine State.elapse_frame (Part.sub hp (by decide)) ?_
    | with_reducible refine State.writeCommit_frame (Part.sub hp (by decide)) ?_ | with_reducible apply Part.ite
    | split

theorem State.writeDiscard_frame {pt : Part} {base : State} {s : State} {value : Nat} (hp : pt ∉ [Part.clock, Part.regs, Part.io]) (hss : pt.same base s) :
    pt.same base (State.writeDiscard s value) := by
  unfold State.writeDiscard
  try dsimp only
  repeat' first
    | with_reducible assumption | intro _ | with_reducible refine State.makeDiscards_frame (Part.sub hp (by decide)) ?_
    | with_reducible refine State.waitAddr_frame (Part.sub hp (by decide)) ?_ | with_reducible refine State.wr_frame (Part.sub hp (by decide)) ?_
    | with_reducible apply Part.ite | split

theorem execGlbDiscard_frame {pt : Part} {dt value : Nat} {s : State} (hp : pt ∉ [Part.clock, Part.regs, Part.io]) :
    ∃ s', execGlbDiscard dt value s = .next s' ∧ pt.same s s' := by
  unfold execGlbDiscard
  refine ⟨_, rfl, ?_⟩
  try dsimp only
  repeat' first
    | with_reducible assumption | with_reducible exact Part.same_refl _ _ | intro _ | with_reducible refine State.elapse_frame (Part.sub hp (by decide)) ?_
    | with_reducible refine State.writeDiscard_frame (Part.sub hp (by decide)) ?_ | with_reducible apply Part.ite
    | split

theorem execRegCommit_frame {pt : Part} {dt : Nat} {h : HostRef} {mask : Nat} {s : State} (hp : pt ∉ [Part.clock, Part.regs, Part.io]) :
    ∃ s', execRegCommit dt h mask s = .next s' ∧ pt.same s s' := by
  unfold execRegCommit
  refine ⟨_, rfl, ?_⟩
  try dsimp only
  repeat' first
    | with_reducible assumption | intro _ | with_reducible exact Part.same_refl _ _ | with_reducible refine State.command_frame (Part.sub hp (by decide)) ?_ ?_
    | with_reducible refine State.refuse_frame (Part.sub hp (by decide)) ?_ | with_reducible refine State.rejectHalted_frame (Part.sub hp (by decide)) ?_
    | with_reducible apply Part.ite | fail_if_no_progress with_reducible refine Part.same_upd ?_ ?_ | ((with_reducible refine Part.keptIntro ?_); cases pt <;> first | exact absurd (by decide) hp | exact rfl | exact ⟨rfl, rfl⟩)
    | split

theorem execRegDiscard_frame {pt : Part} {dt : Nat} {h : HostRef} {mask : Nat} {s : State} (hp : pt ∉ [Part.clock, Part.regs, Part.io]) :
    ∃ s', execRegDiscard dt h mask s = .next s' ∧ pt.same s s' := by
  unfold execRegDiscard
  refine ⟨_, rfl, ?_⟩
  try dsimp only
  repeat' first
    | with_reducible assumption | intro _ | with_reducible exact Part.same_refl _ _ | with_reducible refine State.command_frame (Part.sub hp (by decide)) ?_ ?_
    | with_reducible refine State.makeDiscards_frame (Part.sub hp (by decide)) ?_ | with_reducible refine State.refuse_frame (Part.sub hp (by decide)) ?_
    | with_reducible refine State.waitAddr_frame (Part.sub hp (by decide)) ?_ | with_reducible apply Part.ite
    | fail_if_no_progress with_reducible refine Part.same_upd ?_ ?_ | ((with_reducible refine Part.keptIntro ?_); cases pt <;> first | exact absurd (by decide) hp | exact rfl | exact ⟨rfl, rfl⟩)
    | split

theorem State.afterCommit_frame {pt : Part} {base : State} {s : State} {old : State} {g : Nat} (hp : pt ∉ [Part.regs, Part.io, Part.tim, Part.prt, Part.rlk, Part.frm, Part.pm]) (hss : pt.same base s) :
    pt.same base (State.afterCommit s old g) := by
  unfold State.afterCommit
  try dsimp only
  repeat' first
    | with_reducible assumption | intro _ | with_reducible exact Part.same_refl _ _ | with_reducible refine State.laneRestart_frame (Part.sub hp (by decide)) ?_
    | with_reducible refine State.trbRestart_frame (Part.sub hp (by decide)) ?_ | with_reducible apply Part.ite
    | with_reducible apply Part.foldl | split

theorem State.activate_frame {pt : Part} {base : State} {s : State} {mask : Nat} {t : Tab Nat} (hp : pt ∉ [Part.regs]) (hss : pt.same base s) :
    pt.same base (State.activate s mask t) := by
  unfold State.activate
  try dsimp only
  repeat' first
    | with_reducible assumption | intro _ | with_reducible exact Part.same_refl _ _ | with_reducible refine State.wr_frame (Part.sub hp (by decide)) ?_
    | with_reducible apply Part.ite | with_reducible apply Part.foldl | with_reducible apply Part.foldlFst
    | with_reducible apply Part.iteFst | split | fail_if_no_progress with_reducible refine Part.same_upd ?_ ?_
    | ((with_reducible refine Part.keptIntro ?_); cases pt <;> first | exact absurd (by decide) hp | exact rfl | exact ⟨rfl, rfl⟩)

theorem State.measureCmt_frame {pt : Part} {base : State} {s : State} (hp : pt ∉ [Part.sec]) (hss : pt.same base s) :
    pt.same base (State.measureCmt s) := by
  unfold State.measureCmt
  try dsimp only
  repeat' first
    | with_reducible assumption | intro _ | with_reducible exact Part.same_refl _ _ | with_reducible refine State.extend_frame (Part.sub hp (by decide)) ?_
    | with_reducible apply Part.iteFst

theorem State.applyRecord_frame {pt : Part} {base : State} {s : State} {e : Nat × Nat} (hp : pt ∉ [Part.regs, Part.io, Part.shf, Part.flt, Part.prt, Part.pm, Part.cip, Part.bkg]) (hss : pt.same base s) :
    pt.same base (State.applyRecord s e) := by
  unfold State.applyRecord
  try dsimp only
  repeat' first
    | with_reducible assumption | intro _ | with_reducible exact Part.same_refl _ _ | with_reducible refine State.afterWrite_frame (Part.sub hp (by decide)) ?_
    | with_reducible refine State.lockField_frame (Part.sub hp (by decide)) ?_ | with_reducible refine State.wr_frame (Part.sub hp (by decide)) ?_
    | with_reducible refine State.writeTst_frame (Part.sub hp (by decide)) ?_ | with_reducible apply Part.ite
    | with_reducible apply Part.foldl | with_reducible apply Part.foldlFst | with_reducible apply Part.iteFst
    | split

theorem State.rejectLoad_frame {pt : Part} {base : State} {s : State} {l : CfgLoad} {reason serial : Nat} {more : List (Nat × Nat)} (hp : pt ∉ [Part.io, Part.asy, Part.sys]) (hss : pt.same base s) :
    pt.same base (State.rejectLoad s l reason serial more) := by
  unfold State.rejectLoad
  try dsimp only
  repeat' first
    | with_reducible assumption | intro _ | with_reducible refine State.loadNor_frame (Part.sub hp (by decide)) ?_
    | with_reducible refine State.norBad_frame (Part.sub hp (by decide)) ?_ | with_reducible refine State.refuse_frame (Part.sub hp (by decide)) ?_
    | with_reducible refine State.say_frame (Part.sub hp (by decide)) ?_ | with_reducible apply Part.ite
    | split | fail_if_no_progress with_reducible refine Part.same_upd ?_ ?_ | ((with_reducible refine Part.keptIntro ?_); cases pt <;> first | exact absurd (by decide) hp | exact rfl | exact ⟨rfl, rfl⟩)

theorem State.setInForce_frame {pt : Part} {base : State} {s : State} {l : CfgLoad} {c : ConfigSet} (hp : pt ∉ [Part.regs, Part.io, Part.shf, Part.tim, Part.flt, Part.prt, Part.rlk, Part.frm, Part.pm, Part.cip, Part.bkg, Part.sys]) (hss : pt.same base s) :
    pt.same base (State.setInForce s l c) := by
  unfold State.setInForce
  try dsimp only
  repeat' first
    | with_reducible assumption | intro _ | with_reducible exact Part.same_refl _ _ | with_reducible refine State.applyRecord_frame (Part.sub hp (by decide)) ?_
    | with_reducible refine State.complete_frame (Part.sub hp (by decide)) ?_ | with_reducible refine State.laneRestart_frame (Part.sub hp (by decide)) ?_
    | with_reducible refine State.say_frame (Part.sub hp (by decide)) ?_ | with_reducible refine State.setTxIdle_frame (Part.sub hp (by decide)) ?_
    | with_reducible apply Part.ite | with_reducible apply Part.foldl | split | fail_if_no_progress with_reducible refine Part.same_upd ?_ ?_
    | ((with_reducible refine Part.keptIntro ?_); cases pt <;> first | exact absurd (by decide) hp | exact rfl | exact ⟨rfl, rfl⟩)

theorem State.finishSet_frame {pt : Part} {base : State} {s : State} {fail : Option (Nat × Nat × Nat)} (hp : pt ∉ [Part.regs, Part.io, Part.shf, Part.tim, Part.flt, Part.prt, Part.rlk, Part.frm, Part.pm, Part.cip, Part.asy, Part.bkg, Part.sys]) (hss : pt.same base s) :
    pt.same base (State.finishSet s fail) := by
  unfold State.finishSet
  try dsimp only
  repeat' first
    | with_reducible assumption | intro _ | with_reducible refine State.discardGroups_frame (Part.sub hp (by decide)) ?_
    | with_reducible refine State.rejectLoad_frame (Part.sub hp (by decide)) ?_ | with_reducible refine State.setInForce_frame (Part.sub hp (by decide)) ?_
    | with_reducible apply Part.iteFst | split

theorem State.outcome_frame {pt : Part} {base : State} {s : State} {r : CommitRun} (hp : pt ∉ [Part.regs, Part.io, Part.shf, Part.tim, Part.flt, Part.prt, Part.rlk, Part.frm, Part.pm, Part.cip, Part.asy, Part.bkg, Part.sec, Part.sys]) (hss : pt.same base s) :
    pt.same base (State.outcome s r) := by
  unfold State.outcome
  try dsimp only
  repeat' first
    | with_reducible assumption | intro _ | with_reducible exact Part.same_refl _ _ | with_reducible refine State.activate_frame (Part.sub hp (by decide)) ?_
    | with_reducible refine State.afterCommit_frame (Part.sub hp (by decide)) ?_ | with_reducible refine State.complete_frame (Part.sub hp (by decide)) ?_
    | with_reducible refine State.count_frame (Part.sub hp (by decide)) ?_ | with_reducible refine State.finishSet_frame (Part.sub hp (by decide)) ?_
    | with_reducible refine State.makeDiscards_frame (Part.sub hp (by decide)) ?_ | with_reducible refine State.measureCmt_frame (Part.sub hp (by decide)) ?_
    | with_reducible refine State.rejectCommit_frame (Part.sub hp (by decide)) ?_ | with_reducible refine State.say_frame (Part.sub hp (by decide)) ?_
    | with_reducible refine State.wr_frame (Part.sub hp (by decide)) ?_ | with_reducible apply Part.ite
    | with_reducible apply Part.foldl | split | fail_if_no_progress with_reducible refine Part.same_upd ?_ ?_
    | ((with_reducible refine Part.keptIntro ?_); cases pt <;> first | exact absurd (by decide) hp | exact rfl | exact ⟨rfl, rfl⟩)

theorem execCommitOutcome_frame {pt : Part} {dt : Nat} {s : State} (hp : pt ∉ [Part.clock, Part.regs, Part.io, Part.shf, Part.tim, Part.flt, Part.prt, Part.rlk, Part.frm, Part.pm, Part.cip, Part.asy, Part.bkg, Part.sec, Part.sys]) :
    ∃ s', execCommitOutcome dt s = .next s' ∧ pt.same s s' := by
  unfold execCommitOutcome
  refine ⟨_, rfl, ?_⟩
  try dsimp only
  repeat' first
    | with_reducible assumption | with_reducible exact Part.same_refl _ _ | intro _ | with_reducible refine State.elapse_frame (Part.sub hp (by decide)) ?_
    | with_reducible refine State.outcome_frame (Part.sub hp (by decide)) ?_ | with_reducible refine State.waitAddr_frame (Part.sub hp (by decide)) ?_
    | with_reducible apply Part.ite | split

theorem execCommitSnapshot_frame {pt : Part} {dt : Nat} {bad : Option Nat} {s : State} (hp : pt ∉ [Part.clock, Part.regs, Part.io, Part.shf, Part.tim, Part.flt, Part.prt, Part.rlk, Part.frm, Part.pm, Part.cip, Part.asy, Part.bkg, Part.sec, Part.sys]) :
    ∃ s', execCommitSnapshot dt bad s = .next s' ∧ pt.same s s' := by
  unfold execCommitSnapshot
  refine ⟨_, rfl, ?_⟩
  try dsimp only
  repeat' first
    | with_reducible assumption | intro _ | with_reducible exact Part.same_refl _ _ | with_reducible refine State.outcome_frame (Part.sub hp (by decide)) ?_
    | with_reducible refine State.toBoundary_frame (Part.sub hp (by decide)) ?_ | with_reducible refine State.wr_frame (Part.sub hp (by decide)) ?_
    | with_reducible apply Part.ite | with_reducible apply Part.iteFst | split | fail_if_no_progress with_reducible refine Part.same_upd ?_ ?_
    | ((with_reducible refine Part.keptIntro ?_); cases pt <;> first | exact absurd (by decide) hp | exact rfl | exact ⟨rfl, rfl⟩)

end Sys2Proof.Machine
end

