-- ==== Sys2Proof/Laws/FramesAssay.lean ====
section
/-! SUPPORT. Which parts of the state the operations of Machine/Assay.lean may change. -/

set_option Elab.async false

namespace Sys2Proof.Machine

theorem State.raiseOnceFolded_frame {pt : Part} {base : State} {s : State} {code n : Nat} {mk : Nat → List (Nat × Nat)} (hp : pt ∉ [Part.io]) (hss : pt.same base s) :
    pt.same base (State.raiseOnceFolded s code n mk) := by
  unfold State.raiseOnceFolded
  try dsimp only
  repeat' first
    | with_reducible assumption | intro _ | with_reducible refine State.raise_frame (Part.sub hp (by decide)) ?_
    | with_reducible refine State.raiseFolded_frame (Part.sub hp (by decide)) ?_ | with_reducible apply Part.ite
    | split | fail_if_no_progress with_reducible refine Part.same_upd ?_ ?_ | ((with_reducible refine Part.keptIntro ?_); cases pt <;> first | exact absurd (by decide) hp | exact rfl | exact ⟨rfl, rfl⟩)

theorem State.recordLost_frame {pt : Part} {base : State} {s : State} {c : Nat} (hp : pt ∉ [Part.regs, Part.io, Part.rlk, Part.frm, Part.map, Part.ovm, Part.cip]) (hss : pt.same base s) :
    pt.same base (State.recordLost s c) := by
  unfold State.recordLost
  try dsimp only
  repeat' first
    | with_reducible assumption | intro _ | with_reducible refine State.dropTubs_frame (Part.sub hp (by decide)) ?_
    | with_reducible refine State.placeCipher_frame (Part.sub hp (by decide)) ?_ | with_reducible refine State.setFramer_frame (Part.sub hp (by decide)) ?_
    | with_reducible refine State.startTubs_frame (Part.sub hp (by decide)) ?_ | with_reducible apply Part.ite
    | split | fail_if_no_progress with_reducible refine Part.same_upd ?_ ?_ | ((with_reducible refine Part.keptIntro ?_); cases pt <;> first | exact absurd (by decide) hp | exact rfl | exact ⟨rfl, rfl⟩)

theorem State.invalidate_frame {pt : Part} {base : State} {s : State} {n : Nat} (hp : pt ∉ [Part.shf, Part.map]) (hss : pt.same base s) :
    pt.same base (State.invalidate s n) := by
  unfold State.invalidate
  try dsimp only
  repeat' first
    | with_reducible assumption | intro _ | split | fail_if_no_progress with_reducible refine Part.same_upd ?_ ?_
    | ((with_reducible refine Part.keptIntro ?_); cases pt <;> first | exact absurd (by decide) hp | exact rfl | exact ⟨rfl, rfl⟩)

theorem State.cacheLost_frame {pt : Part} {base : State} {s : State} {c dir : Nat} (hp : pt ∉ [Part.regs, Part.cip]) (hss : pt.same base s) :
    pt.same base (State.cacheLost s c dir) := by
  unfold State.cacheLost
  try dsimp only
  repeat' first
    | with_reducible assumption | intro _ | with_reducible exact Part.same_refl _ _ | with_reducible refine State.setCip_frame (Part.sub hp (by decide)) ?_
    | with_reducible refine State.wantKey_frame (Part.sub hp (by decide)) ?_ | with_reducible apply Part.ite
    | with_reducible apply Part.foldl | split

theorem State.slotLost_frame {pt : Part} {base : State} {s : State} {k : Nat} (hp : pt ∉ [Part.regs, Part.io, Part.cip]) (hss : pt.same base s) :
    pt.same base (State.slotLost s k) := by
  unfold State.slotLost
  try dsimp only
  repeat' first
    | with_reducible assumption | intro _ | with_reducible exact Part.same_refl _ _ | with_reducible refine State.stopDir_frame (Part.sub hp (by decide)) ?_
    | with_reducible apply Part.foldl | with_reducible apply Part.foldlFst | with_reducible apply Part.iteFst

theorem State.resetHewer_frame {pt : Part} {base : State} {s : State} {h : Nat} (hp : pt ∉ [Part.clock, Part.freeCtr, Part.regs, Part.io, Part.frm, Part.ovm, Part.par, Part.sys]) (hss : pt.same base s) :
    pt.same base (State.resetHewer s h) := by
  unfold State.resetHewer
  try dsimp only
  repeat' first
    | with_reducible assumption | intro _ | with_reducible refine State.enterHewerReset_frame (Part.sub hp (by decide)) ?_
    | with_reducible apply Part.ite | split

theorem State.strandAll_frame {pt : Part} {base : State} {s : State} (hp : pt ∉ [Part.ovm]) (hss : pt.same base s) :
    pt.same base (State.strandAll s) := by
  unfold State.strandAll
  try dsimp only
  repeat' first
    | with_reducible assumption | intro _ | with_reducible exact Part.same_refl _ _ | with_reducible apply Part.ite
    | with_reducible apply Part.iteFst | fail_if_no_progress with_reducible refine Part.same_upd ?_ ?_
    | ((with_reducible refine Part.keptIntro ?_); cases pt <;> first | exact absurd (by decide) hp | exact rfl | exact ⟨rfl, rfl⟩)
    | split

theorem State.sramAction_frame {pt : Part} {base : State} {s : State} {kind num : Nat} (hp : pt ∉ [Part.clock, Part.freeCtr, Part.regs, Part.io, Part.shf, Part.rlk, Part.frm, Part.map, Part.ovm, Part.qmg, Part.cip, Part.par, Part.sys]) (hss : pt.same base s) :
    pt.same base (State.sramAction s kind num) := by
  unfold State.sramAction
  try dsimp only
  repeat' first
    | with_reducible assumption | intro _ | with_reducible refine State.cacheLost_frame (Part.sub hp (by decide)) ?_
    | with_reducible refine State.invalidate_frame (Part.sub hp (by decide)) ?_ | with_reducible refine State.raise_frame (Part.sub hp (by decide)) ?_
    | with_reducible refine State.recordLost_frame (Part.sub hp (by decide)) ?_ | with_reducible refine State.resetHewer_frame (Part.sub hp (by decide)) ?_
    | with_reducible refine State.resetQueue_frame (Part.sub hp (by decide)) ?_ | with_reducible refine State.slotLost_frame (Part.sub hp (by decide)) ?_
    | with_reducible refine State.strandAll_frame (Part.sub hp (by decide)) ?_ | split

theorem State.sramBad_frame {pt : Part} {base : State} {s : State} {addr kind num : Nat} (hp : pt ∉ [Part.clock, Part.dco, Part.freeCtr, Part.regs, Part.io, Part.shf, Part.tim, Part.flt, Part.prt, Part.rlk, Part.frm, Part.map, Part.ovm, Part.qmg, Part.feeds, Part.pm, Part.cip, Part.par, Part.eng, Part.asy, Part.bkg, Part.sec, Part.sys]) (hss : pt.same base s) :
    pt.same base (State.sramBad s addr kind num) := by
  unfold State.sramBad
  try dsimp only
  repeat' first
    | with_reducible assumption | intro _ | with_reducible refine State.chipReset_frame (Part.sub hp (by decide)) ?_
    | with_reducible refine State.count_frame (Part.sub hp (by decide)) ?_ | with_reducible refine State.raise_frame (Part.sub hp (by decide)) ?_
    | with_reducible refine State.selfFault_frame (Part.sub hp (by decide)) ?_ | with_reducible refine State.sramAction_frame (Part.sub hp (by decide)) ?_
    | with_reducible apply Part.ite | split

theorem State.setPass_frame {pt : Part} {base : State} {s : State} {u : Nat} {p : PassSt} (hp : pt ∉ [Part.asy]) (hss : pt.same base s) :
    pt.same base (State.setPass s u p) := by
  unfold State.setPass
  try dsimp only
  repeat' first
    | with_reducible assumption | intro _ | fail_if_no_progress with_reducible refine Part.same_upd ?_ ?_
    | ((with_reducible refine Part.keptIntro ?_); cases pt <;> first | exact absurd (by decide) hp | exact rfl | exact ⟨rfl, rfl⟩)

theorem State.startPass_frame {pt : Part} {base : State} {s : State} {u : Nat} (hp : pt ∉ [Part.regs, Part.asy]) (hss : pt.same base s) :
    pt.same base (State.startPass s u) := by
  unfold State.startPass
  try dsimp only
  repeat' first
    | with_reducible assumption | intro _ | with_reducible refine State.setPass_frame (Part.sub hp (by decide)) ?_
    | with_reducible refine State.wr_frame (Part.sub hp (by decide)) ?_

theorem State.checksDone_frame {pt : Part} {base : State} {s : State} {u : Nat} (hp : pt ∉ [Part.io, Part.asy]) (hss : pt.same base s) :
    pt.same base (State.checksDone s u) := by
  unfold State.checksDone
  try dsimp only
  repeat' first
    | with_reducible assumption | intro _ | with_reducible exact Part.same_refl _ _ | with_reducible refine State.done_frame (Part.sub hp (by decide)) ?_
    | with_reducible apply Part.foldl | with_reducible apply Part.foldlFst | with_reducible apply Part.iteFst
    | fail_if_no_progress with_reducible refine Part.same_upd ?_ ?_ | ((with_reducible refine Part.keptIntro ?_); cases pt <;> first | exact absurd (by decide) hp | exact rfl | exact ⟨rfl, rfl⟩)

theorem State.nextGranule_frame {pt : Part} {base : State} {s : State} {g : Granule} (hp : pt ∉ [Part.regs, Part.io, Part.asy]) (hss : pt.same base s) :
    pt.same base (State.nextGranule s g) := by
  unfold State.nextGranule
  try dsimp only
  repeat' first
    | with_reducible assumption | intro _ | with_reducible refine State.checksDone_frame (Part.sub hp (by decide)) ?_
    | with_reducible refine State.count_frame (Part.sub hp (by decide)) ?_ | with_reducible refine State.setPass_frame (Part.sub hp (by decide)) ?_
    | with_reducible refine State.startPass_frame (Part.sub hp (by decide)) ?_ | with_reducible refine State.wr_frame (Part.sub hp (by decide)) ?_
    | with_reducible apply Part.ite | split

theorem State.mismatch_frame {pt : Part} {base : State} {s : State} {g : Granule} {sum cause : Nat} (hp : pt ∉ [Part.clock, Part.freeCtr, Part.regs, Part.io, Part.rlk, Part.frm, Part.map, Part.ovm, Part.pm, Part.cip, Part.par, Part.sys]) (hss : pt.same base s) :
    pt.same base (State.mismatch s g sum cause) := by
  unfold State.mismatch
  try dsimp only
  repeat' first
    | with_reducible assumption | intro _ | with_reducible refine State.count_frame (Part.sub hp (by decide)) ?_
    | with_reducible refine State.ovmRestart_frame (Part.sub hp (by decide)) ?_ | with_reducible refine State.raise_frame (Part.sub hp (by decide)) ?_
    | with_reducible refine State.recordLost_frame (Part.sub hp (by decide)) ?_ | with_reducible refine State.resetHewer_frame (Part.sub hp (by decide)) ?_
    | with_reducible refine State.selfFault_frame (Part.sub hp (by decide)) ?_ | with_reducible apply Part.ite
    | split

theorem State.passed_frame {pt : Part} {base : State} {s : State} {g : Granule} (hp : pt ∉ [Part.regs, Part.io]) (hss : pt.same base s) :
    pt.same base (State.passed s g) := by
  unfold State.passed
  try dsimp only
  repeat' first
    | with_reducible assumption | intro _ | with_reducible exact Part.same_refl _ _ | with_reducible refine State.count_frame (Part.sub hp (by decide)) ?_
    | with_reducible refine State.raiseOnceFolded_frame (Part.sub hp (by decide)) ?_ | with_reducible apply Part.ite
    | split

theorem State.passOrAlter_frame {pt : Part} {base : State} {s : State} {g : Granule} {sum : Nat} {pass : State → State} (hp : pt ∉ [Part.clock, Part.freeCtr, Part.regs, Part.io, Part.rlk, Part.frm, Part.map, Part.ovm, Part.pm, Part.cip, Part.par, Part.bkg, Part.sys]) (hss : pt.same base s) (hpass : ∀ b c, pt.same b c → pt.same b (pass c)) :
    pt.same base (State.passOrAlter s g sum pass) := by
  unfold State.passOrAlter
  try dsimp only
  repeat' first
    | with_reducible assumption | intro _ | with_reducible exact Part.same_refl _ _ | with_reducible apply hpass
    | with_reducible refine State.alterCheck_frameAs (Part.sub hp (by decide)) ?_ (by with_reducible assumption)
    | with_reducible refine State.alterCheck_frame (Part.sub hp (by decide)) ?_ | with_reducible refine State.mismatch_frame (Part.sub hp (by decide)) ?_
    | with_reducible apply Part.ite | with_reducible apply Part.iteFst | split

theorem State.compare_frame {pt : Part} {base : State} {s : State} {g : Granule} (hp : pt ∉ [Part.clock, Part.dco, Part.freeCtr, Part.regs, Part.io, Part.shf, Part.tim, Part.flt, Part.prt, Part.rlk, Part.frm, Part.map, Part.ovm, Part.qmg, Part.feeds, Part.pm, Part.cip, Part.par, Part.eng, Part.asy, Part.bkg, Part.sec, Part.sys]) (hss : pt.same base s) :
    pt.same base (State.compare s g) := by
  unfold State.compare
  try dsimp only
  repeat' first
    | with_reducible assumption | intro _ | with_reducible exact Part.same_refl _ _ | with_reducible refine State.count_frame (Part.sub hp (by decide)) ?_
    | with_reducible refine State.mismatch_frame (Part.sub hp (by decide)) ?_ | with_reducible refine State.passOrAlter_frame (Part.sub hp (by decide)) ?_ ?_
    | with_reducible refine State.passed_frame (Part.sub hp (by decide)) ?_ | with_reducible refine State.raise_frame (Part.sub hp (by decide)) ?_
    | with_reducible refine State.sramBad_frame (Part.sub hp (by decide)) ?_ | with_reducible apply Part.ite
    | split

theorem State.abandonGranule_frame {pt : Part} {base : State} {s : State} {g : Granule} (hp : pt ∉ [Part.regs, Part.io, Part.asy]) (hss : pt.same base s) :
    pt.same base (State.abandonGranule s g) := by
  unfold State.abandonGranule
  try dsimp only
  repeat' first
    | with_reducible assumption | intro _ | with_reducible refine State.count_frame (Part.sub hp (by decide)) ?_
    | with_reducible refine State.nextGranule_frame (Part.sub hp (by decide)) ?_ | with_reducible refine State.raise_frame (Part.sub hp (by decide)) ?_
    | with_reducible refine State.setPass_frame (Part.sub hp (by decide)) ?_ | with_reducible apply Part.ite
    | split

theorem execAssayGranuleCheck_frame {pt : Part} {dt : Nat} {g : Granule} {s : State} (hp : pt ∉ [Part.clock, Part.dco, Part.freeCtr, Part.regs, Part.io, Part.shf, Part.tim, Part.flt, Part.prt, Part.rlk, Part.frm, Part.map, Part.ovm, Part.qmg, Part.feeds, Part.pm, Part.cip, Part.par, Part.eng, Part.asy, Part.bkg, Part.sec, Part.sys]) :
    ∃ s', execAssayGranuleCheck dt g s = .next s' ∧ pt.same s s' := by
  unfold execAssayGranuleCheck
  refine ⟨_, rfl, ?_⟩
  try dsimp only
  repeat' first
    | with_reducible assumption | with_reducible exact Part.same_refl _ _ | intro _ | with_reducible refine State.abandonGranule_frame (Part.sub hp (by decide)) ?_
    | with_reducible refine State.compare_frame (Part.sub hp (by decide)) ?_ | with_reducible refine State.draw_frame (Part.sub hp (by decide)) ?_
    | with_reducible refine State.elapse_frame (Part.sub hp (by decide)) ?_ | with_reducible refine State.nextGranule_frame (Part.sub hp (by decide)) ?_
    | with_reducible apply Part.ite | split

theorem execAssayPassLate_frame {pt : Part} {dt unit : Nat} {s : State} (hp : pt ∉ [Part.clock, Part.regs, Part.io]) :
    ∃ s', execAssayPassLate dt unit s = .next s' ∧ pt.same s s' := by
  unfold execAssayPassLate
  refine ⟨_, rfl, ?_⟩
  try dsimp only
  repeat' first
    | with_reducible assumption | with_reducible exact Part.same_refl _ _ | intro _ | with_reducible refine State.elapse_frame (Part.sub hp (by decide)) ?_
    | with_reducible refine State.raise_frame (Part.sub hp (by decide)) ?_ | with_reducible refine State.untilTime_frame (Part.sub hp (by decide)) ?_
    | with_reducible refine State.wr_frame (Part.sub hp (by decide)) ?_ | with_reducible apply Part.ite
    | split

theorem execAssayCompareStart_frame {pt : Part} {dt : Nat} {s : State} (hp : pt ∉ [Part.clock, Part.regs, Part.io, Part.qmg, Part.asy, Part.bkg]) :
    ∃ s', execAssayCompareStart dt s = .next s' ∧ pt.same s s' := by
  unfold execAssayCompareStart
  refine ⟨_, rfl, ?_⟩
  try dsimp only
  repeat' first
    | with_reducible assumption | intro _ | with_reducible exact Part.same_refl _ _ | with_reducible refine State.elapse_frame (Part.sub hp (by decide)) ?_
    | with_reducible refine State.startPass_frame (Part.sub hp (by decide)) ?_ | with_reducible refine State.tstTake_frame (Part.sub hp (by decide)) ?_
    | with_reducible refine State.waitAddr_frame (Part.sub hp (by decide)) ?_ | with_reducible refine State.wr_frame (Part.sub hp (by decide)) ?_
    | with_reducible apply Part.ite | with_reducible apply Part.foldl | with_reducible apply Part.foldlFst
    | with_reducible apply Part.iteFst | split

theorem State.strip_frame {pt : Part} {base : State} {s : State} {unit : Nat} {caused : Bool} {x : XferSt} {b : List Nat} (hp : pt ∉ [Part.regs, Part.io, Part.bkg]) (hss : pt.same base s) :
    pt.same base (State.strip s unit caused x b).1 := by
  unfold State.strip
  try dsimp only
  repeat' first
    | with_reducible assumption | intro _ | with_reducible refine State.alterCheck_frameAs (Part.sub hp (by decide)) ?_ (by with_reducible assumption)
    | with_reducible refine State.alterCheck_frame (Part.sub hp (by decide)) ?_ | with_reducible refine State.count_frame (Part.sub hp (by decide)) ?_
    | with_reducible refine State.say_frame (Part.sub hp (by decide)) ?_ | with_reducible apply Part.ite
    | with_reducible apply Part.iteFst | split

theorem State.strip_frameAs {pt : Part} {base : State} {s : State} {unit : Nat} {caused : Bool} {x : XferSt} {b : List Nat} (hp : pt ∉ [Part.regs, Part.io, Part.bkg]) (hss : pt.same base s) {t : State} {y : XferSt}
    (h : State.strip s unit caused x b = (t, y)) : pt.same base t := by
  have k : pt.same base (State.strip s unit caused x b).1 := State.strip_frame hp hss
  rw [h] at k
  exact k

theorem execTransferUnitRx_frame {pt : Part} {dt unit : Nat} {u : List Nat} {s : State} (hp : pt ∉ [Part.clock, Part.regs, Part.io, Part.asy, Part.bkg]) :
    ∃ s', execTransferUnitRx dt unit u s = .next s' ∧ pt.same s s' := by
  unfold execTransferUnitRx
  refine ⟨_, rfl, ?_⟩
  try dsimp only
  repeat' first
    | with_reducible assumption | with_reducible exact Part.same_refl _ _ | intro _ | with_reducible refine State.elapse_frame (Part.sub hp (by decide)) ?_
    | with_reducible refine State.strip_frameAs (Part.sub hp (by decide)) ?_ (by with_reducible assumption)
    | with_reducible refine State.strip_frame (Part.sub hp (by decide)) ?_ | with_reducible apply Part.ite
    | with_reducible apply Part.iteFst | fail_if_no_progress with_reducible refine Part.same_upd ?_ ?_
    | ((with_reducible refine Part.keptIntro ?_); cases pt <;> first | exact absurd (by decide) hp | exact rfl | exact ⟨rfl, rfl⟩)
    | split

theorem State.stripAll_frame {pt : Part} {base : State} {s : State} {unit : Nat} {l : List (List Nat)} (hp : pt ∉ [Part.regs, Part.io, Part.bkg]) (hss : pt.same base s) :
    pt.same base (State.stripAll s unit l).1 := by
  unfold State.stripAll
  try dsimp only
  repeat' first
    | with_reducible assumption | intro _ | with_reducible exact Part.same_refl _ _ | with_reducible refine State.strip_frameAs (Part.sub hp (by decide)) ?_ (by with_reducible assumption)
    | with_reducible refine State.strip_frame (Part.sub hp (by decide)) ?_ | with_reducible apply Part.foldl
    | with_reducible apply Part.foldlFst | with_reducible apply Part.iteFst

theorem State.stripAll_frameAs {pt : Part} {base : State} {s : State} {unit : Nat} {l : List (List Nat)} (hp : pt ∉ [Part.regs, Part.io, Part.bkg]) (hss : pt.same base s) {t : State} {y : XferSt}
    (h : State.stripAll s unit l = (t, y)) : pt.same base t := by
  have k : pt.same base (State.stripAll s unit l).1 := State.stripAll_frame hp hss
  rw [h] at k
  exact k

theorem execAsyCheck_frame {pt : Part} {dt : Nat} {h : HostRef} {mask : Nat} {s : State} (hp : pt ∉ [Part.clock, Part.regs, Part.io, Part.asy]) :
    ∃ s', execAsyCheck dt h mask s = .next s' ∧ pt.same s s' := by
  unfold execAsyCheck
  refine ⟨_, rfl, ?_⟩
  try dsimp only
  repeat' first
    | with_reducible assumption | intro _ | with_reducible exact Part.same_refl _ _ | with_reducible refine State.command_frame (Part.sub hp (by decide)) ?_ ?_
    | with_reducible refine State.done_frame (Part.sub hp (by decide)) ?_ | with_reducible refine State.refuse_frame (Part.sub hp (by decide)) ?_
    | with_reducible refine State.startPass_frame (Part.sub hp (by decide)) ?_ | with_reducible refine State.waitAddr_frame (Part.sub hp (by decide)) ?_
    | with_reducible apply Part.ite | with_reducible apply Part.foldl | fail_if_no_progress with_reducible refine Part.same_upd ?_ ?_
    | ((with_reducible refine Part.keptIntro ?_); cases pt <;> first | exact absurd (by decide) hp | exact rfl | exact ⟨rfl, rfl⟩)
    | split

theorem execAsyLoopback_frame {pt : Part} {dt : Nat} {h : HostRef} {src dst bytes : Nat} {units back : List (List Nat)} {s : State} (hp : pt ∉ [Part.clock, Part.regs, Part.io, Part.bkg]) :
    ∃ s', execAsyLoopback dt h src dst bytes units back s = .next s' ∧ pt.same s s' := by
  unfold execAsyLoopback
  refine ⟨_, rfl, ?_⟩
  try dsimp only
  repeat' first
    | with_reducible assumption | intro _ | with_reducible exact Part.same_refl _ _ | with_reducible refine State.command_frame (Part.sub hp (by decide)) ?_ ?_
    | with_reducible refine State.complete_frame (Part.sub hp (by decide)) ?_ | with_reducible refine State.hostWrite_frame (Part.sub hp (by decide)) ?_
    | with_reducible refine State.refuse_frame (Part.sub hp (by decide)) ?_ | with_reducible refine State.stripAll_frameAs (Part.sub hp (by decide)) ?_ (by with_reducible assumption)
    | with_reducible refine State.stripAll_frame (Part.sub hp (by decide)) ?_ | with_reducible apply Part.ite
    | with_reducible apply Part.iteFst | split

end Sys2Proof.Machine
end

