-- ==== Sys2Proof/Laws/FramesSecurity.lean ====
section
/-! SUPPORT. Which parts of the state the operations of Machine/Security.lean may change. -/

set_option Elab.async false

namespace Sys2Proof.Machine

theorem State.envRefuse_frame {pt : Part} {base : State} {s : State} {h : HostRef} {op cause : Nat} (hp : pt ∉ [Part.io]) (hss : pt.same base s) :
    pt.same base (State.envRefuse s h op cause) := by
  unfold State.envRefuse
  try dsimp only
  repeat' first
    | with_reducible assumption | intro _ | with_reducible refine State.refuse_frame (Part.sub hp (by decide)) ?_

theorem execSecTrngFail_frame {pt : Part} {dt test : Nat} {fails : Bool} {s : State} (hp : pt ∉ [Part.clock, Part.regs, Part.io, Part.sec]) :
    ∃ s', execSecTrngFail dt test fails s = .next s' ∧ pt.same s s' := by
  unfold execSecTrngFail
  refine ⟨_, rfl, ?_⟩
  try dsimp only
  repeat' first
    | with_reducible assumption | intro _ | with_reducible exact Part.same_refl _ _ | with_reducible refine State.elapse_frame (Part.sub hp (by decide)) ?_
    | with_reducible refine State.raise_frame (Part.sub hp (by decide)) ?_ | with_reducible refine State.wrBit_frame (Part.sub hp (by decide)) ?_
    | with_reducible apply Part.ite | fail_if_no_progress with_reducible refine Part.same_upd ?_ ?_ | ((with_reducible refine Part.keptIntro ?_); cases pt <;> first | exact absurd (by decide) hp | exact rfl | exact ⟨rfl, rfl⟩)
    | split

theorem State.issueNonce_frame {pt : Part} {base : State} {s : State} {n : Nat} (hp : pt ∉ [Part.regs, Part.sec]) (hss : pt.same base s) :
    pt.same base (State.issueNonce s n) := by
  unfold State.issueNonce
  try dsimp only
  repeat' first
    | with_reducible assumption | intro _ | with_reducible exact Part.same_refl _ _ | with_reducible refine State.wr_frame (Part.sub hp (by decide)) ?_
    | with_reducible refine State.wrBit_frame (Part.sub hp (by decide)) ?_ | with_reducible apply Part.foldl
    | fail_if_no_progress with_reducible refine Part.same_upd ?_ ?_ | ((with_reducible refine Part.keptIntro ?_); cases pt <;> first | exact absurd (by decide) hp | exact rfl | exact ⟨rfl, rfl⟩)

theorem execSecChallenge_frame {pt : Part} {dt : Nat} {h : HostRef} {host : Nat} {s : State} (hp : pt ∉ [Part.clock, Part.freeCtr, Part.regs, Part.io, Part.sec]) :
    ∃ s', execSecChallenge dt h host s = .next s' ∧ pt.same s s' := by
  unfold execSecChallenge
  refine ⟨_, rfl, ?_⟩
  try dsimp only
  repeat' first
    | with_reducible assumption | intro _ | with_reducible exact Part.same_refl _ _ | with_reducible refine State.command_frame (Part.sub hp (by decide)) ?_ ?_
    | with_reducible refine State.complete_frame (Part.sub hp (by decide)) ?_ | with_reducible refine State.draw_frame (Part.sub hp (by decide)) ?_
    | with_reducible refine State.hostWrite_frame (Part.sub hp (by decide)) ?_ | with_reducible refine State.issueNonce_frame (Part.sub hp (by decide)) ?_
    | with_reducible refine State.refuse_frame (Part.sub hp (by decide)) ?_ | with_reducible apply Part.ite
    | split

theorem execNonceExpiry_frame {pt : Part} {dt : Nat} {s : State} (hp : pt ∉ [Part.clock, Part.regs]) :
    ∃ s', execNonceExpiry dt s = .next s' ∧ pt.same s s' := by
  unfold execNonceExpiry
  refine ⟨_, rfl, ?_⟩
  try dsimp only
  repeat' first
    | with_reducible assumption | with_reducible exact Part.same_refl _ _ | intro _ | with_reducible refine State.dropNonce_frame (Part.sub hp (by decide)) ?_
    | with_reducible refine State.elapse_frame (Part.sub hp (by decide)) ?_ | with_reducible refine State.untilTime_frame (Part.sub hp (by decide)) ?_
    | with_reducible apply Part.ite | split

theorem execSecAttest_frame {pt : Part} {dt : Nat} {h : HostRef} {nonce : List Nat} {host : Nat} {s : State} (hp : pt ∉ [Part.clock, Part.io]) :
    ∃ s', execSecAttest dt h nonce host s = .next s' ∧ pt.same s s' := by
  unfold execSecAttest
  refine ⟨_, rfl, ?_⟩
  try dsimp only
  repeat' first
    | with_reducible assumption | intro _ | with_reducible exact Part.same_refl _ _ | with_reducible refine State.command_frame (Part.sub hp (by decide)) ?_ ?_
    | with_reducible refine State.done_frame (Part.sub hp (by decide)) ?_ | with_reducible refine State.hostWrite_frame (Part.sub hp (by decide)) ?_
    | with_reducible refine State.refuse_frame (Part.sub hp (by decide)) ?_ | with_reducible apply Part.ite
    | split

theorem execSecCertRead_frame {pt : Part} {dt : Nat} {h : HostRef} {host : Nat} {s : State} (hp : pt ∉ [Part.clock, Part.io]) :
    ∃ s', execSecCertRead dt h host s = .next s' ∧ pt.same s s' := by
  unfold execSecCertRead
  refine ⟨_, rfl, ?_⟩
  try dsimp only
  repeat' first
    | with_reducible assumption | intro _ | with_reducible exact Part.same_refl _ _ | with_reducible refine State.command_frame (Part.sub hp (by decide)) ?_ ?_
    | with_reducible refine State.complete_frame (Part.sub hp (by decide)) ?_ | with_reducible refine State.hostWrite_frame (Part.sub hp (by decide)) ?_

theorem State.takeOpkey_frame {pt : Part} {base : State} {s : State} {slot : Nat} {key : List Nat} (hp : pt ∉ [Part.regs, Part.sec]) (hss : pt.same base s) :
    pt.same base (State.takeOpkey s slot key) := by
  unfold State.takeOpkey
  try dsimp only
  repeat' first
    | with_reducible assumption | intro _ | with_reducible refine State.wr_frame (Part.sub hp (by decide)) ?_
    | fail_if_no_progress with_reducible refine Part.same_upd ?_ ?_ | ((with_reducible refine Part.keptIntro ?_); cases pt <;> first | exact absurd (by decide) hp | exact rfl | exact ⟨rfl, rfl⟩)

theorem State.eraseCrash_frame {pt : Part} {base : State} {s : State} (hp : pt ∉ [Part.eng]) (hss : pt.same base s) :
    pt.same base (State.eraseCrash s) := by
  unfold State.eraseCrash
  try dsimp only
  repeat' first
    | with_reducible assumption | intro _ | with_reducible exact Part.same_refl _ _ | with_reducible apply Part.ite
    | with_reducible apply Part.foldl | fail_if_no_progress with_reducible refine Part.same_upd ?_ ?_
    | ((with_reducible refine Part.keptIntro ?_); cases pt <;> first | exact absurd (by decide) hp | exact rfl | exact ⟨rfl, rfl⟩)
    | split

theorem State.moveLifecycle_frame {pt : Part} {base : State} {s : State} {new : Nat} {payload : List Nat}
    (hp : pt ∉ [Part.regs, Part.io, Part.cip, Part.eng, Part.sec]) (hss : pt.same base s) : pt.same base (State.moveLifecycle s new payload) := by
  have k (a : State) (x : SecSt) (hk : pt.same base a) : pt.same base { a with sec := x } :=
    Part.same_upd hk (by
      cases pt <;> first | exact absurd (by decide) hp | exact rfl | exact ⟨rfl, rfl⟩)
  unfold State.moveLifecycle
  refine State.raiseC_frame (Part.sub hp (by decide)) (State.wr_frame (Part.sub hp (by decide)) ?_)
  split
  · exact State.takeOpkey_frame (Part.sub hp (by decide)) hss
  · exact State.eraseAll_frame (Part.sub hp (by decide)) hss
  · exact State.eraseCrash_frame (Part.sub hp (by decide)) (k _ _ (State.eraseAll_frame (Part.sub hp (by decide)) hss))

theorem execSecLifecycle_frame {pt : Part} {dt : Nat} {h : HostRef} {e : List Nat} {s : State} (hp : pt ∉ [Part.clock, Part.regs, Part.io, Part.cip, Part.eng, Part.sec]) :
    ∃ s', execSecLifecycle dt h e s = .next s' ∧ pt.same s s' := by
  unfold execSecLifecycle
  refine ⟨_, rfl, ?_⟩
  try dsimp only
  repeat' first
    | with_reducible assumption | intro _ | with_reducible exact Part.same_refl _ _ | with_reducible refine State.checkEnvelope_frameAs (Part.sub hp (by decide)) ?_ (by with_reducible assumption)
    | with_reducible refine State.checkEnvelope_frame (Part.sub hp (by decide)) ?_ | with_reducible refine State.command_frame (Part.sub hp (by decide)) ?_ ?_
    | with_reducible refine State.done_frame (Part.sub hp (by decide)) ?_ | with_reducible refine State.envRefuse_frame (Part.sub hp (by decide)) ?_
    | with_reducible refine State.moveLifecycle_frame (Part.sub hp (by decide)) ?_ | with_reducible refine State.refuse_frame (Part.sub hp (by decide)) ?_
    | with_reducible apply Part.ite | split

theorem execSecOpkeyRotate_frame {pt : Part} {dt : Nat} {h : HostRef} {e : List Nat} {s : State} (hp : pt ∉ [Part.clock, Part.regs, Part.io, Part.sec]) :
    ∃ s', execSecOpkeyRotate dt h e s = .next s' ∧ pt.same s s' := by
  unfold execSecOpkeyRotate
  refine ⟨_, rfl, ?_⟩
  try dsimp only
  repeat' first
    | with_reducible assumption | intro _ | with_reducible exact Part.same_refl _ _ | with_reducible refine State.checkEnvelope_frameAs (Part.sub hp (by decide)) ?_ (by with_reducible assumption)
    | with_reducible refine State.checkEnvelope_frame (Part.sub hp (by decide)) ?_ | with_reducible refine State.command_frame (Part.sub hp (by decide)) ?_ ?_
    | with_reducible refine State.done_frame (Part.sub hp (by decide)) ?_ | with_reducible refine State.envRefuse_frame (Part.sub hp (by decide)) ?_
    | with_reducible refine State.refuse_frame (Part.sub hp (by decide)) ?_ | with_reducible refine State.takeOpkey_frame (Part.sub hp (by decide)) ?_
    | with_reducible apply Part.ite | split

theorem State.commitSvn_frame {pt : Part} {base : State} {s : State} {h : HostRef} (hp : pt ∉ [Part.regs, Part.io]) (hss : pt.same base s) :
    pt.same base (State.commitSvn s h) := by
  unfold State.commitSvn
  try dsimp only
  repeat' first
    | with_reducible assumption | intro _ | with_reducible refine State.complete_frame (Part.sub hp (by decide)) ?_
    | with_reducible refine State.done_frame (Part.sub hp (by decide)) ?_ | with_reducible refine State.raiseC_frame (Part.sub hp (by decide)) ?_
    | with_reducible refine State.wr_frame (Part.sub hp (by decide)) ?_ | with_reducible apply Part.ite
    | split

theorem execSecSvnCommit_frame {pt : Part} {dt : Nat} {h : HostRef} {s : State} (hp : pt ∉ [Part.clock, Part.regs, Part.io, Part.sec]) :
    ∃ s', execSecSvnCommit dt h s = .next s' ∧ pt.same s s' := by
  unfold execSecSvnCommit
  refine ⟨_, rfl, ?_⟩
  try dsimp only
  repeat' first
    | with_reducible assumption | intro _ | with_reducible exact Part.same_refl _ _ | with_reducible refine State.command_frame (Part.sub hp (by decide)) ?_ ?_
    | with_reducible refine State.commitSvn_frame (Part.sub hp (by decide)) ?_ | with_reducible apply Part.ite
    | fail_if_no_progress with_reducible refine Part.same_upd ?_ ?_ | ((with_reducible refine Part.keptIntro ?_); cases pt <;> first | exact absurd (by decide) hp | exact rfl | exact ⟨rfl, rfl⟩)
    | split

theorem execSecImageStage_frame {pt : Part} {dt : Nat} {h : HostRef} {length : Nat} {s : State} (hp : pt ∉ [Part.clock, Part.regs, Part.io, Part.asy, Part.sec]) :
    ∃ s', execSecImageStage dt h length s = .next s' ∧ pt.same s s' := by
  unfold execSecImageStage
  refine ⟨_, rfl, ?_⟩
  try dsimp only
  repeat' first
    | with_reducible assumption | intro _ | with_reducible exact Part.same_refl _ _ | with_reducible refine State.command_frame (Part.sub hp (by decide)) ?_ ?_
    | with_reducible refine State.refuse_frame (Part.sub hp (by decide)) ?_ | with_reducible refine State.wrBit_frame (Part.sub hp (by decide)) ?_
    | with_reducible apply Part.ite | fail_if_no_progress with_reducible refine Part.same_upd ?_ ?_ | ((with_reducible refine Part.keptIntro ?_); cases pt <;> first | exact absurd (by decide) hp | exact rfl | exact ⟨rfl, rfl⟩)
    | split

theorem State.endStage_frame {pt : Part} {base : State} {s : State} {h : HostRef} (hp : pt ∉ [Part.regs, Part.io, Part.sec]) (hss : pt.same base s) :
    pt.same base (State.endStage s h) := by
  unfold State.endStage
  try dsimp only
  repeat' first
    | with_reducible assumption | intro _ | with_reducible exact Part.same_refl _ _ | with_reducible refine State.commitSvn_frame (Part.sub hp (by decide)) ?_
    | with_reducible refine State.done_frame (Part.sub hp (by decide)) ?_ | with_reducible refine State.extend_frame (Part.sub hp (by decide)) ?_
    | with_reducible refine State.raiseC_frame (Part.sub hp (by decide)) ?_ | with_reducible refine State.refuse_frame (Part.sub hp (by decide)) ?_
    | with_reducible refine State.wrBit_frame (Part.sub hp (by decide)) ?_ | with_reducible apply Part.ite
    | with_reducible apply Part.foldl | fail_if_no_progress with_reducible refine Part.same_upd ?_ ?_
    | ((with_reducible refine Part.keptIntro ?_); cases pt <;> first | exact absurd (by decide) hp | exact rfl | exact ⟨rfl, rfl⟩)
    | split

theorem execSecImageStaged_frame {pt : Part} {dt : Nat} {s : State} (hp : pt ∉ [Part.clock, Part.regs, Part.io, Part.sec]) :
    ∃ s', execSecImageStaged dt s = .next s' ∧ pt.same s s' := by
  unfold execSecImageStaged
  refine ⟨_, rfl, ?_⟩
  try dsimp only
  repeat' first
    | with_reducible assumption | with_reducible exact Part.same_refl _ _ | intro _ | with_reducible refine State.elapse_frame (Part.sub hp (by decide)) ?_
    | with_reducible refine State.endStage_frame (Part.sub hp (by decide)) ?_ | split

theorem State.openDebug_frame {pt : Part} {base : State} {s : State} {scope minutes slot : Nat} {h : HostRef} (hp : pt ∉ [Part.freeCtr, Part.regs, Part.io, Part.pm, Part.par, Part.sec, Part.sys]) (hss : pt.same base s) :
    pt.same base (State.openDebug s scope minutes slot h) := by
  unfold State.openDebug
  try dsimp only
  repeat' first
    | with_reducible assumption | intro _ | with_reducible refine State.done_frame (Part.sub hp (by decide)) ?_
    | with_reducible refine State.extend_frame (Part.sub hp (by decide)) ?_ | with_reducible refine State.raiseC_frame (Part.sub hp (by decide)) ?_
    | with_reducible refine State.selfFault_frame (Part.sub hp (by decide)) ?_ | with_reducible refine State.wr_frame (Part.sub hp (by decide)) ?_
    | with_reducible apply Part.ite | fail_if_no_progress with_reducible refine Part.same_upd ?_ ?_ | ((with_reducible refine Part.keptIntro ?_); cases pt <;> first | exact absurd (by decide) hp | exact rfl | exact ⟨rfl, rfl⟩)
    | split

theorem State.tryOpen_frame {pt : Part} {base : State} {s : State} (hp : pt ∉ [Part.freeCtr, Part.regs, Part.io, Part.pm, Part.par, Part.sec, Part.sys]) (hss : pt.same base s) :
    pt.same base (State.tryOpen s) := by
  unfold State.tryOpen
  try dsimp only
  repeat' first
    | with_reducible assumption | intro _ | with_reducible exact Part.same_refl _ _ | with_reducible refine State.openDebug_frame (Part.sub hp (by decide)) ?_
    | with_reducible apply Part.ite | split

theorem State.closeDebug_frame {pt : Part} {base : State} {s : State} {caused : Bool} (hp : pt ∉ [Part.regs, Part.io, Part.sys]) (hss : pt.same base s) :
    pt.same base (State.closeDebug s caused) := by
  unfold State.closeDebug
  try dsimp only
  repeat' first
    | with_reducible assumption | intro _ | with_reducible refine State.say_frame (Part.sub hp (by decide)) ?_
    | with_reducible refine State.wr_frame (Part.sub hp (by decide)) ?_ | with_reducible apply Part.ite
    | fail_if_no_progress with_reducible refine Part.same_upd ?_ ?_ | ((with_reducible refine Part.keptIntro ?_); cases pt <;> first | exact absurd (by decide) hp | exact rfl | exact ⟨rfl, rfl⟩)
    | split

theorem execSecDebugUnlock_frame {pt : Part} {dt : Nat} {h : HostRef} {e : List Nat} {s : State} (hp : pt ∉ [Part.clock, Part.freeCtr, Part.regs, Part.io, Part.pm, Part.cip, Part.par, Part.sec, Part.sys]) :
    ∃ s', execSecDebugUnlock dt h e s = .next s' ∧ pt.same s s' := by
  have k (base a : State) (x : SecSt) (hk : pt.same base a) : pt.same base { a with sec := x } :=
    Part.same_upd hk (by
      cases pt <;> first | exact absurd (by decide) hp | exact rfl | exact ⟨rfl, rfl⟩)
  unfold execSecDebugUnlock
  refine ⟨_, rfl, State.command_frame (Part.sub hp (by decide)) (Part.same_refl _ _) ?_⟩
  intro b c hc
  refine Part.ite (State.refuse_frame (Part.sub hp (by decide)) hc) ?_
  split
  · next h => exact State.envRefuse_frame (Part.sub hp (by decide)) (State.checkEnvelope_frameAs (Part.sub hp (by decide)) hc h)
  · next h =>
    have hb := State.checkEnvelope_frameAs (Part.sub hp (by decide)) hc h
    exact Part.ite (State.refuse_frame (Part.sub hp (by decide)) hb) (Part.ite
      (State.tryOpen_frame (Part.sub hp (by decide)) (k _ _ _ (State.eraseAll_frame (Part.sub hp (by decide)) hb))) (State.openDebug_frame (Part.sub hp (by decide)) hb))

theorem execSecDebugLock_frame {pt : Part} {dt : Nat} {h : HostRef} {s : State} (hp : pt ∉ [Part.clock, Part.regs, Part.io, Part.sec, Part.sys]) :
    ∃ s', execSecDebugLock dt h s = .next s' ∧ pt.same s s' := by
  unfold execSecDebugLock
  refine ⟨_, rfl, ?_⟩
  try dsimp only
  repeat' first
    | with_reducible assumption | intro _ | with_reducible exact Part.same_refl _ _ | with_reducible refine State.closeDebug_frame (Part.sub hp (by decide)) ?_
    | with_reducible refine State.command_frame (Part.sub hp (by decide)) ?_ ?_ | with_reducible refine State.done_frame (Part.sub hp (by decide)) ?_
    | with_reducible refine State.extend_frame (Part.sub hp (by decide)) ?_ | with_reducible apply Part.ite
    | split

theorem execDebugExpiry_frame {pt : Part} {dt : Nat} {s : State} (hp : pt ∉ [Part.clock, Part.regs, Part.io, Part.sys]) :
    ∃ s', execDebugExpiry dt s = .next s' ∧ pt.same s s' := by
  unfold execDebugExpiry
  refine ⟨_, rfl, ?_⟩
  try dsimp only
  repeat' first
    | with_reducible assumption | with_reducible exact Part.same_refl _ _ | intro _ | with_reducible refine State.closeDebug_frame (Part.sub hp (by decide)) ?_
    | with_reducible refine State.elapse_frame (Part.sub hp (by decide)) ?_ | with_reducible refine State.untilTime_frame (Part.sub hp (by decide)) ?_
    | with_reducible apply Part.ite | split

theorem execHalfZeroise_frame {pt : Part} {dt slot : Nat} {s : State} (hp : pt ∉ [Part.clock, Part.freeCtr, Part.regs, Part.io, Part.pm, Part.cip, Part.par, Part.sec, Part.sys]) :
    ∃ s', execHalfZeroise dt slot s = .next s' ∧ pt.same s s' := by
  unfold execHalfZeroise
  refine ⟨_, rfl, ?_⟩
  try dsimp only
  repeat' first
    | with_reducible assumption | with_reducible exact Part.same_refl _ _ | intro _ | with_reducible refine State.elapse_frame (Part.sub hp (by decide)) ?_
    | with_reducible refine State.finishErase_frame (Part.sub hp (by decide)) ?_ | with_reducible refine State.setSlot_frame (Part.sub hp (by decide)) ?_
    | with_reducible refine State.tryOpen_frame (Part.sub hp (by decide)) ?_ | with_reducible apply Part.ite
    | split

end Sys2Proof.Machine
end

