-- ==== Sys2Proof/Laws/FramesStartup.lean ====
section
/-! SUPPORT. Which parts of the state the operations of Machine/Startup.lean may change. -/

set_option Elab.async false

namespace Sys2Proof.Machine

theorem State.runImage_frame {pt : Part} {base : State} {s : State} {img : List Nat} (hp : pt ∉ [Part.regs, Part.sec]) (hss : pt.same base s) :
    pt.same base (State.runImage s img) := by
  unfold State.runImage
  try dsimp only
  repeat' first
    | with_reducible assumption | intro _ | with_reducible exact Part.same_refl _ _ | with_reducible refine State.extend_frame (Part.sub hp (by decide)) ?_
    | with_reducible refine State.wr_frame (Part.sub hp (by decide)) ?_ | with_reducible apply Part.foldl
    | fail_if_no_progress with_reducible refine Part.same_upd ?_ ?_ | ((with_reducible refine Part.keptIntro ?_); cases pt <;> first | exact absurd (by decide) hp | exact rfl | exact ⟨rfl, rfl⟩)

theorem State.bootNor_frame {pt : Part} {base : State} {s : State} {suspect : List Nat} (hp : pt ∉ [Part.regs, Part.sec, Part.sys]) (hss : pt.same base s) :
    pt.same base (State.bootNor s suspect) := by
  unfold State.bootNor
  try dsimp only
  repeat' first
    | with_reducible assumption | intro _ | with_reducible exact Part.same_refl _ _ | with_reducible refine State.runImage_frame (Part.sub hp (by decide)) ?_
    | with_reducible refine State.wr_frame (Part.sub hp (by decide)) ?_ | with_reducible apply Part.iteFst
    | split | fail_if_no_progress with_reducible refine Part.same_upd ?_ ?_ | ((with_reducible refine Part.keptIntro ?_); cases pt <;> first | exact absurd (by decide) hp | exact rfl | exact ⟨rfl, rfl⟩)

theorem State.startEpoch_frame {pt : Part} {base : State} {s : State} {stored : Bool} (hp : pt ∉ [Part.regs, Part.io, Part.cip]) (hss : pt.same base s) :
    pt.same base (State.startEpoch s stored) := by
  unfold State.startEpoch
  try dsimp only
  repeat' first
    | with_reducible assumption | intro _ | with_reducible refine State.reserve_frame (Part.sub hp (by decide)) ?_
    | with_reducible refine State.wr_frame (Part.sub hp (by decide)) ?_

theorem State.bootMoved_frame {pt : Part} {base : State} {s : State} {m : Option (Nat × List Nat)} (hp : pt ∉ [Part.regs, Part.io, Part.eng, Part.sec]) (hss : pt.same base s) :
    pt.same base (State.bootMoved s m) := by
  unfold State.bootMoved
  try dsimp only
  repeat' first
    | with_reducible assumption | intro _ | with_reducible refine State.eraseCrash_frame (Part.sub hp (by decide)) ?_
    | with_reducible refine State.raise_frame (Part.sub hp (by decide)) ?_ | with_reducible refine State.takeOpkey_frame (Part.sub hp (by decide)) ?_
    | with_reducible refine State.wr_frame (Part.sub hp (by decide)) ?_ | with_reducible apply Part.ite
    | split | fail_if_no_progress with_reducible refine Part.same_upd ?_ ?_ | ((with_reducible refine Part.keptIntro ?_); cases pt <;> first | exact absurd (by decide) hp | exact rfl | exact ⟨rfl, rfl⟩)

theorem State.bootRom_frame {pt : Part} {base : State} {s : State} {b : BootIn} (hp : pt ∉ [Part.regs, Part.io, Part.shf, Part.cip, Part.par, Part.eng, Part.sec, Part.sys]) (hss : pt.same base s) :
    pt.same base (State.bootRom s b) := by
  unfold State.bootRom
  try dsimp only
  repeat' first
    | with_reducible assumption | intro _ | with_reducible exact Part.same_refl _ _ | with_reducible refine State.bootMoved_frame (Part.sub hp (by decide)) ?_
    | with_reducible refine State.bootNor_frame (Part.sub hp (by decide)) ?_ | with_reducible refine State.extend_frame (Part.sub hp (by decide)) ?_
    | with_reducible refine State.raiseIf_frame (Part.sub hp (by decide)) ?_ | with_reducible refine State.startEpoch_frame (Part.sub hp (by decide)) ?_
    | with_reducible refine State.wr_frame (Part.sub hp (by decide)) ?_ | with_reducible refine State.wrBit_frame (Part.sub hp (by decide)) ?_
    | with_reducible apply Part.ite | with_reducible apply Part.foldl | with_reducible apply Part.foldlFst
    | with_reducible apply Part.iteFst | split | fail_if_no_progress with_reducible refine Part.same_upd ?_ ?_
    | ((with_reducible refine Part.keptIntro ?_); cases pt <;> first | exact absurd (by decide) hp | exact rfl | exact ⟨rfl, rfl⟩)

theorem execPowerOnResetRelease_frame {pt : Part} {dt : Nat} {b : BootIn} {s : State} (hp : pt ∉ [Part.clock, Part.regs, Part.io, Part.shf, Part.cip, Part.par, Part.eng, Part.sec, Part.sys]) :
    ∃ s', execPowerOnResetRelease dt b s = .next s' ∧ pt.same s s' := by
  unfold execPowerOnResetRelease
  refine ⟨_, rfl, ?_⟩
  try dsimp only
  repeat' first
    | with_reducible assumption | with_reducible exact Part.same_refl _ _ | intro _ | with_reducible refine State.bootRom_frame (Part.sub hp (by decide)) ?_
    | with_reducible refine State.elapse_frame (Part.sub hp (by decide)) ?_ | with_reducible apply Part.ite
    | split

theorem State.testFaults_frame {pt : Part} {base : State} {s : State} {t : SelfTest} (hp : pt ∉ [Part.freeCtr, Part.regs, Part.io, Part.pm, Part.par, Part.sys]) (hss : pt.same base s) :
    pt.same base (State.testFaults s t) := by
  unfold State.testFaults
  try dsimp only
  repeat' first
    | with_reducible assumption | intro _ | with_reducible refine State.selfFault_frame (Part.sub hp (by decide)) ?_
    | with_reducible apply Part.ite | fail_if_no_progress with_reducible refine Part.same_upd ?_ ?_ | ((with_reducible refine Part.keptIntro ?_); cases pt <;> first | exact absurd (by decide) hp | exact rfl | exact ⟨rfl, rfl⟩)
    | split

theorem State.logResult_frame {pt : Part} {base : State} {s : State} {r : EvRec} (hp : pt ∉ [Part.io]) (hss : pt.same base s) :
    pt.same base (State.logResult s r) := by
  unfold State.logResult
  try dsimp only
  repeat' first
    | with_reducible assumption | intro _ | with_reducible apply Part.ite | fail_if_no_progress with_reducible refine Part.same_upd ?_ ?_
    | ((with_reducible refine Part.keptIntro ?_); cases pt <;> first | exact absurd (by decide) hp | exact rfl | exact ⟨rfl, rfl⟩)
    | split

theorem State.selfTest_frame {pt : Part} {base : State} {s : State} {t : SelfTest} (hp : pt ∉ [Part.freeCtr, Part.regs, Part.io, Part.shf, Part.rlk, Part.ovm, Part.pm, Part.par, Part.bkg, Part.sec, Part.sys]) (hss : pt.same base s) :
    pt.same base (State.selfTest s t) := by
  unfold State.selfTest
  try dsimp only
  repeat' first
    | with_reducible assumption | intro _ | with_reducible exact Part.same_refl _ _ | with_reducible refine State.logResult_frame (Part.sub hp (by decide)) ?_
    | with_reducible refine State.raise_frame (Part.sub hp (by decide)) ?_ | with_reducible refine State.raiseIf_frame (Part.sub hp (by decide)) ?_
    | with_reducible refine State.setTxIdle_frame (Part.sub hp (by decide)) ?_ | with_reducible refine State.testFaults_frame (Part.sub hp (by decide)) ?_
    | with_reducible refine State.wrBit_frame (Part.sub hp (by decide)) ?_ | with_reducible apply Part.ite
    | with_reducible apply Part.iteFst | fail_if_no_progress with_reducible refine Part.same_upd ?_ ?_
    | ((with_reducible refine Part.keptIntro ?_); cases pt <;> first | exact absurd (by decide) hp | exact rfl | exact ⟨rfl, rfl⟩)
    | split

theorem execSelftestResult_frame {pt : Part} {dt : Nat} {t : SelfTest} {s : State} (hp : pt ∉ [Part.clock, Part.freeCtr, Part.regs, Part.io, Part.shf, Part.rlk, Part.ovm, Part.pm, Part.par, Part.bkg, Part.sec, Part.sys]) :
    ∃ s', execSelftestResult dt t s = .next s' ∧ pt.same s s' := by
  unfold execSelftestResult
  refine ⟨_, rfl, ?_⟩
  try dsimp only
  repeat' first
    | with_reducible assumption | with_reducible exact Part.same_refl _ _ | intro _ | with_reducible refine State.elapse_frame (Part.sub hp (by decide)) ?_
    | with_reducible refine State.selfTest_frame (Part.sub hp (by decide)) ?_ | with_reducible apply Part.ite
    | split

theorem execSelftestRead_frame {pt : Part} {dt : Nat} {h : HostRef} {host : Nat} {s : State} (hp : pt ∉ [Part.clock, Part.freeCtr, Part.io]) :
    ∃ s', execSelftestRead dt h host s = .next s' ∧ pt.same s s' := by
  unfold execSelftestRead
  refine ⟨_, rfl, ?_⟩
  try dsimp only
  repeat' first
    | with_reducible assumption | intro _ | with_reducible exact Part.same_refl _ _ | with_reducible refine State.command_frame (Part.sub hp (by decide)) ?_ ?_
    | with_reducible refine State.done_frame (Part.sub hp (by decide)) ?_ | with_reducible refine State.draw_frame (Part.sub hp (by decide)) ?_
    | with_reducible refine State.hostWrite_frame (Part.sub hp (by decide)) ?_ | split

theorem execBootLoad_frame {pt : Part} {dt : Nat} {h : HostRef} {address length : Nat} {units : List (List Nat)} {s : State} (hp : pt ∉ [Part.clock, Part.regs, Part.io, Part.bkg, Part.sec, Part.sys]) :
    ∃ s', execBootLoad dt h address length units s = .next s' ∧ pt.same s s' := by
  unfold execBootLoad
  refine ⟨_, rfl, ?_⟩
  try dsimp only
  repeat' first
    | with_reducible assumption | intro _ | with_reducible exact Part.same_refl _ _ | with_reducible refine State.command_frame (Part.sub hp (by decide)) ?_ ?_
    | with_reducible refine State.done_frame (Part.sub hp (by decide)) ?_ | with_reducible refine State.refuse_frame (Part.sub hp (by decide)) ?_
    | with_reducible refine State.runImage_frame (Part.sub hp (by decide)) ?_ | with_reducible refine State.stripAll_frameAs (Part.sub hp (by decide)) ?_ (by with_reducible assumption)
    | with_reducible refine State.stripAll_frame (Part.sub hp (by decide)) ?_ | with_reducible apply Part.ite
    | with_reducible apply Part.iteFst | fail_if_no_progress with_reducible refine Part.same_upd ?_ ?_
    | ((with_reducible refine Part.keptIntro ?_); cases pt <;> first | exact absurd (by decide) hp | exact rfl | exact ⟨rfl, rfl⟩)
    | split

theorem State.stageRecord_frame {pt : Part} {base : State} {s : State} {e : Nat × Nat} (hp : pt ∉ [Part.regs]) (hss : pt.same base s) :
    pt.same base (State.stageRecord s e) := by
  unfold State.stageRecord
  try dsimp only
  repeat' first
    | with_reducible assumption | intro _ | with_reducible exact Part.same_refl _ _ | with_reducible refine State.stage_frame (Part.sub hp (by decide)) ?_
    | with_reducible apply Part.foldl | with_reducible apply Part.foldlFst | with_reducible apply Part.iteFst

theorem State.stageSet_frame {pt : Part} {base : State} {s : State} {l : CfgLoad} {c : ConfigSet} (hp : pt ∉ [Part.clock, Part.regs, Part.io, Part.asy, Part.sys]) (hss : pt.same base s) :
    pt.same base (State.stageSet s l c) := by
  unfold State.stageSet
  try dsimp only
  repeat' first
    | with_reducible assumption | intro _ | with_reducible exact Part.same_refl _ _ | with_reducible refine State.rejectHalted_frame (Part.sub hp (by decide)) ?_
    | with_reducible refine State.rejectLoad_frame (Part.sub hp (by decide)) ?_ | with_reducible refine State.stageRecord_frame (Part.sub hp (by decide)) ?_
    | with_reducible refine State.waitAddr_frame (Part.sub hp (by decide)) ?_ | with_reducible apply Part.ite
    | with_reducible apply Part.foldl | fail_if_no_progress with_reducible refine Part.same_upd ?_ ?_
    | ((with_reducible refine Part.keptIntro ?_); cases pt <;> first | exact absurd (by decide) hp | exact rfl | exact ⟨rfl, rfl⟩)
    | split

theorem execConfigSetStage_frame {pt : Part} {dt : Nat} {s : State} (hp : pt ∉ [Part.clock, Part.regs, Part.io, Part.asy, Part.sys]) :
    ∃ s', execConfigSetStage dt s = .next s' ∧ pt.same s s' := by
  unfold execConfigSetStage
  refine ⟨_, rfl, ?_⟩
  try dsimp only
  repeat' first
    | with_reducible assumption | with_reducible exact Part.same_refl _ _ | intro _ | with_reducible refine State.elapse_frame (Part.sub hp (by decide)) ?_
    | with_reducible refine State.rejectLoad_frame (Part.sub hp (by decide)) ?_ | with_reducible refine State.stageSet_frame (Part.sub hp (by decide)) ?_
    | with_reducible apply Part.ite | with_reducible apply Part.iteFst | split

theorem execConfigStore_frame {pt : Part} {dt : Nat} {ok : Bool} {s : State} (hp : pt ∉ [Part.clock, Part.freeCtr, Part.io, Part.sys]) :
    ∃ s', execConfigStore dt ok s = .next s' ∧ pt.same s s' := by
  unfold execConfigStore
  refine ⟨_, rfl, ?_⟩
  try dsimp only
  repeat' first
    | with_reducible assumption | intro _ | with_reducible exact Part.same_refl _ _ | with_reducible refine State.complete_frame (Part.sub hp (by decide)) ?_
    | with_reducible refine State.draw_frame (Part.sub hp (by decide)) ?_ | with_reducible refine State.elapse_frame (Part.sub hp (by decide)) ?_
    | with_reducible refine State.norBad_frame (Part.sub hp (by decide)) ?_ | with_reducible apply Part.ite
    | split | fail_if_no_progress with_reducible refine Part.same_upd ?_ ?_ | ((with_reducible refine Part.keptIntro ?_); cases pt <;> first | exact absurd (by decide) hp | exact rfl | exact ⟨rfl, rfl⟩)

theorem State.refuseLoad_frame {pt : Part} {base : State} {s : State} {h : HostRef} {reason : Nat} (hp : pt ∉ [Part.io]) (hss : pt.same base s) :
    pt.same base (State.refuseLoad s h reason) := by
  unfold State.refuseLoad
  try dsimp only
  repeat' first
    | with_reducible assumption | intro _ | with_reducible refine State.raiseC_frame (Part.sub hp (by decide)) ?_
    | with_reducible refine State.refuse_frame (Part.sub hp (by decide)) ?_

theorem execCfgLoad_frame {pt : Part} {dt : Nat} {h : HostRef} {address length : Nat} {store : Bool} {s : State} (hp : pt ∉ [Part.clock, Part.io, Part.asy, Part.sys]) :
    ∃ s', execCfgLoad dt h address length store s = .next s' ∧ pt.same s s' := by
  unfold execCfgLoad
  refine ⟨_, rfl, ?_⟩
  try dsimp only
  repeat' first
    | with_reducible assumption | intro _ | with_reducible exact Part.same_refl _ _ | with_reducible refine State.command_frame (Part.sub hp (by decide)) ?_ ?_
    | with_reducible refine State.refuseLoad_frame (Part.sub hp (by decide)) ?_ | with_reducible apply Part.ite
    | fail_if_no_progress with_reducible refine Part.same_upd ?_ ?_ | ((with_reducible refine Part.keptIntro ?_); cases pt <;> first | exact absurd (by decide) hp | exact rfl | exact ⟨rfl, rfl⟩)
    | split

theorem execCfgStatus_frame {pt : Part} {dt : Nat} {h : HostRef} {s : State} (hp : pt ∉ [Part.clock, Part.io]) :
    ∃ s', execCfgStatus dt h s = .next s' ∧ pt.same s s' := by
  unfold execCfgStatus
  refine ⟨_, rfl, ?_⟩
  try dsimp only
  repeat' first
    | with_reducible assumption | intro _ | with_reducible exact Part.same_refl _ _ | with_reducible refine State.command_frame (Part.sub hp (by decide)) ?_ ?_
    | with_reducible refine State.complete_frame (Part.sub hp (by decide)) ?_ | with_reducible apply Part.ite
    | split

end Sys2Proof.Machine
end

