-- ==== Sys2Proof/Laws/FramesBackground.lean ====
section
/-! SUPPORT. Which parts of the state the operations of Machine/Background.lean may change. -/

set_option Elab.async false

namespace Sys2Proof.Machine

theorem State.noteRow_frame {pt : Part} {base : State} {s : State} {e : SramError} (hp : pt ∉ [Part.regs, Part.io, Part.bkg]) (hss : pt.same base s) :
    pt.same base (State.noteRow s e) := by
  unfold State.noteRow
  try dsimp only
  repeat' first
    | with_reducible assumption | intro _ | with_reducible exact Part.same_refl _ _ | with_reducible refine State.raise_frame (Part.sub hp (by decide)) ?_
    | with_reducible refine State.wr_frame (Part.sub hp (by decide)) ?_ | with_reducible apply Part.ite
    | with_reducible apply Part.iteFst | fail_if_no_progress with_reducible refine Part.same_upd ?_ ?_
    | ((with_reducible refine Part.keptIntro ?_); cases pt <;> first | exact absurd (by decide) hp | exact rfl | exact ⟨rfl, rfl⟩)
    | split

theorem State.scrubPast_frame {pt : Part} {base : State} {s : State} {addr : Nat} (hp : pt ∉ [Part.bkg]) (hss : pt.same base s) :
    pt.same base (State.scrubPast s addr) := by
  unfold State.scrubPast
  try dsimp only
  repeat' first
    | with_reducible assumption | intro _ | fail_if_no_progress with_reducible refine Part.same_upd ?_ ?_
    | ((with_reducible refine Part.keptIntro ?_); cases pt <;> first | exact absurd (by decide) hp | exact rfl | exact ⟨rfl, rfl⟩)

theorem execScrubWord_frame {pt : Part} {dt : Nat} {e : SramError} {s : State} (hp : pt ∉ [Part.clock, Part.dco, Part.freeCtr, Part.regs, Part.io, Part.shf, Part.tim, Part.flt, Part.prt, Part.rlk, Part.frm, Part.map, Part.ovm, Part.qmg, Part.feeds, Part.pm, Part.cip, Part.par, Part.eng, Part.asy, Part.bkg, Part.sec, Part.sys]) :
    ∃ s', execScrubWord dt e s = .next s' ∧ pt.same s s' := by
  unfold execScrubWord
  refine ⟨_, rfl, ?_⟩
  try dsimp only
  repeat' first
    | with_reducible assumption | intro _ | with_reducible exact Part.same_refl _ _ | with_reducible refine State.count_frame (Part.sub hp (by decide)) ?_
    | with_reducible refine State.elapse_frame (Part.sub hp (by decide)) ?_ | with_reducible refine State.noteRow_frame (Part.sub hp (by decide)) ?_
    | with_reducible refine State.raiseOnceFolded_frame (Part.sub hp (by decide)) ?_ | with_reducible refine State.scrubPast_frame (Part.sub hp (by decide)) ?_
    | with_reducible refine State.sramBad_frame (Part.sub hp (by decide)) ?_ | with_reducible apply Part.ite
    | fail_if_no_progress with_reducible refine Part.same_upd ?_ ?_ | ((with_reducible refine Part.keptIntro ?_); cases pt <;> first | exact absurd (by decide) hp | exact rfl | exact ⟨rfl, rfl⟩)
    | split

theorem State.bufferLost_frame {pt : Part} {base : State} {s : State} {num : Nat} (hp : pt ∉ [Part.rlk, Part.map]) (hss : pt.same base s) :
    pt.same base (State.bufferLost s num) := by
  unfold State.bufferLost
  try dsimp only
  repeat' first
    | with_reducible assumption | intro _ | with_reducible exact Part.same_refl _ _ | with_reducible refine State.setHitless_frame (Part.sub hp (by decide)) ?_
    | with_reducible apply Part.ite | split | fail_if_no_progress with_reducible refine Part.same_upd ?_ ?_
    | ((with_reducible refine Part.keptIntro ?_); cases pt <;> first | exact absurd (by decide) hp | exact rfl | exact ⟨rfl, rfl⟩)

theorem State.historyLost_frame {pt : Part} {base : State} {s : State} {num : Nat} (hp : pt ∉ [Part.pm]) (hss : pt.same base s) :
    pt.same base (State.historyLost s num) := by
  unfold State.historyLost
  try dsimp only
  repeat' first
    | with_reducible assumption | intro _ | with_reducible apply Part.ite | split | fail_if_no_progress with_reducible refine Part.same_upd ?_ ?_
    | ((with_reducible refine Part.keptIntro ?_); cases pt <;> first | exact absurd (by decide) hp | exact rfl | exact ⟨rfl, rfl⟩)

theorem State.hbmAction_frame {pt : Part} {base : State} {s : State} {region num : Nat} (hp : pt ∉ [Part.regs, Part.io, Part.rlk, Part.map, Part.qmg, Part.pm]) (hss : pt.same base s) :
    pt.same base (State.hbmAction s region num) := by
  unfold State.hbmAction
  try dsimp only
  repeat' first
    | with_reducible assumption | intro _ | with_reducible refine State.bufferLost_frame (Part.sub hp (by decide)) ?_
    | with_reducible refine State.historyLost_frame (Part.sub hp (by decide)) ?_ | with_reducible refine State.raise_frame (Part.sub hp (by decide)) ?_
    | with_reducible refine State.resetQueue_frame (Part.sub hp (by decide)) ?_ | split

theorem execHbmPatrol_frame {pt : Part} {dt address region num : Nat} {error uncorr : Bool} {s : State} (hp : pt ∉ [Part.clock, Part.regs, Part.io, Part.rlk, Part.map, Part.qmg, Part.pm, Part.bkg]) :
    ∃ s', execHbmPatrol dt address region num error uncorr s = .next s' ∧ pt.same s s' := by
  unfold execHbmPatrol
  refine ⟨_, rfl, ?_⟩
  try dsimp only
  repeat' first
    | with_reducible assumption | with_reducible exact Part.same_refl _ _ | intro _ | with_reducible refine State.count_frame (Part.sub hp (by decide)) ?_
    | with_reducible refine State.elapse_frame (Part.sub hp (by decide)) ?_ | with_reducible refine State.hbmAction_frame (Part.sub hp (by decide)) ?_
    | with_reducible refine State.raise_frame (Part.sub hp (by decide)) ?_ | with_reducible apply Part.ite
    | fail_if_no_progress with_reducible refine Part.same_upd ?_ ?_ | ((with_reducible refine Part.keptIntro ?_); cases pt <;> first | exact absurd (by decide) hp | exact rfl | exact ⟨rfl, rfl⟩)
    | split

theorem State.noteWait_frame {pt : Part} {base : State} {s : State} {task : Nat} (hp : pt ∉ [Part.regs, Part.io, Part.bkg]) (hss : pt.same base s) :
    pt.same base (State.noteWait s task) := by
  unfold State.noteWait
  try dsimp only
  repeat' first
    | with_reducible assumption | intro _ | with_reducible exact Part.same_refl _ _ | with_reducible refine State.count_frame (Part.sub hp (by decide)) ?_
    | with_reducible refine State.raiseOnce_frame (Part.sub hp (by decide)) ?_ | with_reducible apply Part.ite
    | fail_if_no_progress with_reducible refine Part.same_upd ?_ ?_ | ((with_reducible refine Part.keptIntro ?_); cases pt <;> first | exact absurd (by decide) hp | exact rfl | exact ⟨rfl, rfl⟩)
    | split

theorem execBkgEpoch_frame {pt : Part} {dt hewerUse hbmUse : Nat} {waiting : List Nat} {s : State} (hp : pt ∉ [Part.clock, Part.regs, Part.io, Part.qmg, Part.bkg]) :
    ∃ s', execBkgEpoch dt hewerUse hbmUse waiting s = .next s' ∧ pt.same s s' := by
  unfold execBkgEpoch
  refine ⟨_, rfl, ?_⟩
  try dsimp only
  repeat' first
    | with_reducible assumption | intro _ | with_reducible exact Part.same_refl _ _ | with_reducible refine State.noteWait_frame (Part.sub hp (by decide)) ?_
    | with_reducible refine State.toBoundary_frame (Part.sub hp (by decide)) ?_ | with_reducible refine State.tstTake_frame (Part.sub hp (by decide)) ?_
    | with_reducible refine State.wr_frame (Part.sub hp (by decide)) ?_ | with_reducible apply Part.ite
    | with_reducible apply Part.foldl | with_reducible apply Part.foldlFst | with_reducible apply Part.iteFst
    | fail_if_no_progress with_reducible refine Part.same_upd ?_ ?_ | ((with_reducible refine Part.keptIntro ?_); cases pt <;> first | exact absurd (by decide) hp | exact rfl | exact ⟨rfl, rfl⟩)
    | split

theorem State.accountTj_frame {pt : Part} {base : State} {s : State} (hp : pt ∉ [Part.bkg]) (hss : pt.same base s) :
    pt.same base (State.accountTj s) := by
  unfold State.accountTj
  try dsimp only
  repeat' first
    | with_reducible assumption | intro _ | with_reducible apply Part.ite | fail_if_no_progress with_reducible refine Part.same_upd ?_ ?_
    | ((with_reducible refine Part.keptIntro ?_); cases pt <;> first | exact absurd (by decide) hp | exact rfl | exact ⟨rfl, rfl⟩)
    | split

theorem State.judgeTj_frame {pt : Part} {base : State} {s : State} {tj : Int} {sensor : Nat} (hp : pt ∉ [Part.io, Part.bkg]) (hss : pt.same base s) :
    pt.same base (State.judgeTj s tj sensor) := by
  unfold State.judgeTj
  try dsimp only
  repeat' first
    | with_reducible assumption | intro _ | with_reducible refine State.raiseIf_frame (Part.sub hp (by decide)) ?_
    | with_reducible apply Part.ite | fail_if_no_progress with_reducible refine Part.same_upd ?_ ?_ | ((with_reducible refine Part.keptIntro ?_); cases pt <;> first | exact absurd (by decide) hp | exact rfl | exact ⟨rfl, rfl⟩)
    | split

theorem execTjUpdate_frame {pt : Part} {dt : Nat} {s : State} (hp : pt ∉ [Part.clock, Part.freeCtr, Part.regs, Part.io, Part.qmg, Part.bkg]) :
    ∃ s', execTjUpdate dt s = .next s' ∧ pt.same s s' := by
  unfold execTjUpdate
  refine ⟨_, rfl, ?_⟩
  try dsimp only
  repeat' first
    | with_reducible assumption | intro _ | with_reducible exact Part.same_refl _ _ | with_reducible refine State.accountTj_frame (Part.sub hp (by decide)) ?_
    | with_reducible refine State.draw_frame (Part.sub hp (by decide)) ?_ | with_reducible refine State.judgeTj_frame (Part.sub hp (by decide)) ?_
    | with_reducible refine State.toBoundary_frame (Part.sub hp (by decide)) ?_ | with_reducible refine State.tstTake_frame (Part.sub hp (by decide)) ?_
    | with_reducible refine State.wr_frame (Part.sub hp (by decide)) ?_ | with_reducible apply Part.ite
    | with_reducible apply Part.iteFst | split

theorem execThermalFault_frame {pt : Part} {dt : Nat} {s : State} (hp : pt ∉ [Part.clock, Part.freeCtr, Part.regs, Part.io, Part.pm, Part.par]) :
    ∃ s', execThermalFault dt s = .next s' ∧ pt.same s s' := by
  unfold execThermalFault
  refine ⟨_, rfl, ?_⟩
  try dsimp only
  repeat' first
    | with_reducible assumption | with_reducible exact Part.same_refl _ _ | intro _ | with_reducible refine State.elapse_frame (Part.sub hp (by decide)) ?_
    | with_reducible refine State.selfFault_frame (Part.sub hp (by decide)) ?_ | with_reducible refine State.untilTime_frame (Part.sub hp (by decide)) ?_
    | split

theorem State.judgeAge_frame {pt : Part} {base : State} {s : State} {m : Nat} (hp : pt ∉ [Part.io, Part.bkg]) (hss : pt.same base s) :
    pt.same base (State.judgeAge s m) := by
  unfold State.judgeAge
  try dsimp only
  repeat' first
    | with_reducible assumption | intro _ | with_reducible exact Part.same_refl _ _ | with_reducible refine State.raise_frame (Part.sub hp (by decide)) ?_
    | with_reducible apply Part.ite | fail_if_no_progress with_reducible refine Part.same_upd ?_ ?_ | ((with_reducible refine Part.keptIntro ?_); cases pt <;> first | exact absurd (by decide) hp | exact rfl | exact ⟨rfl, rfl⟩)
    | split

theorem execAgeMeasure_frame {pt : Part} {dt : Nat} {l : List (Nat × Nat)} {s : State} (hp : pt ∉ [Part.clock, Part.freeCtr, Part.io, Part.bkg]) :
    ∃ s', execAgeMeasure dt l s = .next s' ∧ pt.same s s' := by
  unfold execAgeMeasure
  refine ⟨_, rfl, ?_⟩
  try dsimp only
  repeat' first
    | with_reducible assumption | intro _ | with_reducible exact Part.same_refl _ _ | with_reducible refine State.draw_frame (Part.sub hp (by decide)) ?_
    | with_reducible refine State.elapse_frame (Part.sub hp (by decide)) ?_ | with_reducible refine State.judgeAge_frame (Part.sub hp (by decide)) ?_
    | with_reducible refine State.untilTime_frame (Part.sub hp (by decide)) ?_ | with_reducible apply Part.ite
    | with_reducible apply Part.foldl | with_reducible apply Part.foldlFst | with_reducible apply Part.iteFst
    | fail_if_no_progress with_reducible refine Part.same_upd ?_ ?_ | ((with_reducible refine Part.keptIntro ?_); cases pt <;> first | exact absurd (by decide) hp | exact rfl | exact ⟨rfl, rfl⟩)
    | split

theorem State.judgeLife_frame {pt : Part} {base : State} {s : State} (hp : pt ∉ [Part.io, Part.bkg]) (hss : pt.same base s) :
    pt.same base (State.judgeLife s) := by
  unfold State.judgeLife
  try dsimp only
  repeat' first
    | with_reducible assumption | intro _ | with_reducible refine State.raiseIf_frame (Part.sub hp (by decide)) ?_
    | with_reducible apply Part.ite | fail_if_no_progress with_reducible refine Part.same_upd ?_ ?_ | ((with_reducible refine Part.keptIntro ?_); cases pt <;> first | exact absurd (by decide) hp | exact rfl | exact ⟨rfl, rfl⟩)
    | split

theorem execLifeRecord_frame {pt : Part} {dt : Nat} {s : State} (hp : pt ∉ [Part.clock, Part.freeCtr, Part.regs, Part.io, Part.bkg]) :
    ∃ s', execLifeRecord dt s = .next s' ∧ pt.same s s' := by
  unfold execLifeRecord
  refine ⟨_, rfl, ?_⟩
  try dsimp only
  repeat' first
    | with_reducible assumption | with_reducible exact Part.same_refl _ _ | intro _ | with_reducible refine State.accountTj_frame (Part.sub hp (by decide)) ?_
    | with_reducible refine State.draw_frame (Part.sub hp (by decide)) ?_ | with_reducible refine State.elapse_frame (Part.sub hp (by decide)) ?_
    | with_reducible refine State.judgeLife_frame (Part.sub hp (by decide)) ?_ | with_reducible refine State.untilTime_frame (Part.sub hp (by decide)) ?_
    | with_reducible refine State.wr_frame (Part.sub hp (by decide)) ?_ | fail_if_no_progress with_reducible refine Part.same_upd ?_ ?_
    | ((with_reducible refine Part.keptIntro ?_); cases pt <;> first | exact absurd (by decide) hp | exact rfl | exact ⟨rfl, rfl⟩)

theorem State.eraseSector_frame {pt : Part} {base : State} {s : State} {k : Nat} (hp : pt ∉ [Part.bkg]) (hss : pt.same base s) :
    pt.same base (State.eraseSector s k) := by
  unfold State.eraseSector
  try dsimp only
  repeat' first
    | with_reducible assumption | intro _ | fail_if_no_progress with_reducible refine Part.same_upd ?_ ?_
    | ((with_reducible refine Part.keptIntro ?_); cases pt <;> first | exact absurd (by decide) hp | exact rfl | exact ⟨rfl, rfl⟩)

theorem State.nextSector_frame {pt : Part} {base : State} {s : State} (hp : pt ∉ [Part.regs, Part.bkg]) (hss : pt.same base s) :
    pt.same base (State.nextSector s) := by
  unfold State.nextSector
  try dsimp only
  repeat' first
    | with_reducible assumption | intro _ | with_reducible exact Part.same_refl _ _ | with_reducible refine State.eraseSector_frame (Part.sub hp (by decide)) ?_
    | with_reducible refine State.wr_frame (Part.sub hp (by decide)) ?_ | with_reducible apply Part.ite
    | split | fail_if_no_progress with_reducible refine Part.same_upd ?_ ?_ | ((with_reducible refine Part.keptIntro ?_); cases pt <;> first | exact absurd (by decide) hp | exact rfl | exact ⟨rfl, rfl⟩)

theorem State.roomInLog_frame {pt : Part} {base : State} {s : State} (hp : pt ∉ [Part.regs, Part.bkg]) (hss : pt.same base s) :
    pt.same base (State.roomInLog s) := by
  unfold State.roomInLog
  try dsimp only
  repeat' first
    | with_reducible assumption | intro _ | with_reducible refine State.nextSector_frame (Part.sub hp (by decide)) ?_
    | with_reducible apply Part.ite | split

theorem State.writeLog_frame {pt : Part} {base : State} {s : State} {r : EvRec} (hp : pt ∉ [Part.freeCtr, Part.regs, Part.bkg]) (hss : pt.same base s) :
    pt.same base (State.writeLog s r) := by
  unfold State.writeLog
  try dsimp only
  repeat' first
    | with_reducible assumption | intro _ | with_reducible refine State.draw_frame (Part.sub hp (by decide)) ?_
    | with_reducible refine State.roomInLog_frame (Part.sub hp (by decide)) ?_ | split | fail_if_no_progress with_reducible refine Part.same_upd ?_ ?_
    | ((with_reducible refine Part.keptIntro ?_); cases pt <;> first | exact absurd (by decide) hp | exact rfl | exact ⟨rfl, rfl⟩)

theorem State.appendLog_frame {pt : Part} {base : State} {s : State} {r : EvRec} {rest : List EvRec} (hp : pt ∉ [Part.freeCtr, Part.regs, Part.io, Part.bkg]) (hss : pt.same base s) :
    pt.same base (State.appendLog s r rest) := by
  unfold State.appendLog
  try dsimp only
  repeat' first
    | with_reducible assumption | intro _ | with_reducible exact Part.same_refl _ _ | with_reducible refine State.count_frame (Part.sub hp (by decide)) ?_
    | with_reducible refine State.raiseOnce_frame (Part.sub hp (by decide)) ?_ | with_reducible refine State.writeLog_frame (Part.sub hp (by decide)) ?_
    | with_reducible apply Part.ite | fail_if_no_progress with_reducible refine Part.same_upd ?_ ?_ | ((with_reducible refine Part.keptIntro ?_); cases pt <;> first | exact absurd (by decide) hp | exact rfl | exact ⟨rfl, rfl⟩)
    | split

theorem State.dropWaits_frame {pt : Part} {base : State} {s : State} (hp : pt ∉ [Part.regs, Part.io]) (hss : pt.same base s) :
    pt.same base (State.dropWaits s) := by
  unfold State.dropWaits
  try dsimp only
  repeat' first
    | with_reducible assumption | intro _ | with_reducible exact Part.same_refl _ _ | with_reducible refine State.count_frame (Part.sub hp (by decide)) ?_
    | with_reducible refine State.raiseOnce_frame (Part.sub hp (by decide)) ?_ | with_reducible apply Part.ite
    | with_reducible apply Part.foldl | fail_if_no_progress with_reducible refine Part.same_upd ?_ ?_
    | ((with_reducible refine Part.keptIntro ?_); cases pt <;> first | exact absurd (by decide) hp | exact rfl | exact ⟨rfl, rfl⟩)
    | split

theorem execLogAppend_frame {pt : Part} {dt : Nat} {s : State} (hp : pt ∉ [Part.clock, Part.freeCtr, Part.regs, Part.io, Part.bkg]) :
    ∃ s', execLogAppend dt s = .next s' ∧ pt.same s s' := by
  unfold execLogAppend
  refine ⟨_, rfl, ?_⟩
  try dsimp only
  repeat' first
    | with_reducible assumption | with_reducible exact Part.same_refl _ _ | intro _ | with_reducible refine State.appendLog_frame (Part.sub hp (by decide)) ?_
    | with_reducible refine State.dropWaits_frame (Part.sub hp (by decide)) ?_ | with_reducible refine State.elapse_frame (Part.sub hp (by decide)) ?_
    | with_reducible apply Part.ite | split

theorem State.bkgCommand_frame {pt : Part} {base : State} {s : State} {h : HostRef} {op : Nat} {ok : Bool} {run : State → State} (hp : pt ∉ [Part.io]) (hss : pt.same base s) (hrun : ∀ b c, pt.same b c → pt.same b (run c)) :
    pt.same base (State.bkgCommand s h op ok run) := by
  unfold State.bkgCommand
  try dsimp only
  repeat' first
    | with_reducible assumption | intro _ | with_reducible exact Part.same_refl _ _ | with_reducible apply hrun
    | with_reducible refine State.refuse_frame (Part.sub hp (by decide)) ?_ | with_reducible apply Part.ite
    | split

theorem execBkgAgeRead_frame {pt : Part} {dt : Nat} {h : HostRef} {host : Nat} {s : State} (hp : pt ∉ [Part.clock, Part.io]) :
    ∃ s', execBkgAgeRead dt h host s = .next s' ∧ pt.same s s' := by
  unfold execBkgAgeRead
  refine ⟨_, rfl, ?_⟩
  try dsimp only
  repeat' first
    | with_reducible assumption | intro _ | with_reducible exact Part.same_refl _ _ | with_reducible refine State.bkgCommand_frame (Part.sub hp (by decide)) ?_ ?_
    | with_reducible refine State.command_frame (Part.sub hp (by decide)) ?_ ?_ | with_reducible refine State.done_frame (Part.sub hp (by decide)) ?_
    | with_reducible refine State.hostWrite_frame (Part.sub hp (by decide)) ?_ | with_reducible apply Part.iteFst

theorem execBkgLogAppend_frame {pt : Part} {dt : Nat} {h : HostRef} {detail : List Nat} {s : State} (hp : pt ∉ [Part.clock, Part.io]) :
    ∃ s', execBkgLogAppend dt h detail s = .next s' ∧ pt.same s s' := by
  unfold execBkgLogAppend
  refine ⟨_, rfl, ?_⟩
  try dsimp only
  repeat' first
    | with_reducible assumption | intro _ | with_reducible exact Part.same_refl _ _ | with_reducible refine State.bkgCommand_frame (Part.sub hp (by decide)) ?_ ?_
    | with_reducible refine State.command_frame (Part.sub hp (by decide)) ?_ ?_ | with_reducible refine State.done_frame (Part.sub hp (by decide)) ?_
    | fail_if_no_progress with_reducible refine Part.same_upd ?_ ?_ | ((with_reducible refine Part.keptIntro ?_); cases pt <;> first | exact absurd (by decide) hp | exact rfl | exact ⟨rfl, rfl⟩)

theorem execBkgLogRead_frame {pt : Part} {dt : Nat} {h : HostRef} {first sectors host : Nat} {s : State} (hp : pt ∉ [Part.clock, Part.io]) :
    ∃ s', execBkgLogRead dt h first sectors host s = .next s' ∧ pt.same s s' := by
  unfold execBkgLogRead
  refine ⟨_, rfl, ?_⟩
  try dsimp only
  repeat' first
    | with_reducible assumption | intro _ | with_reducible exact Part.same_refl _ _ | with_reducible refine State.bkgCommand_frame (Part.sub hp (by decide)) ?_ ?_
    | with_reducible refine State.command_frame (Part.sub hp (by decide)) ?_ ?_ | with_reducible refine State.done_frame (Part.sub hp (by decide)) ?_
    | with_reducible refine State.hostWrite_frame (Part.sub hp (by decide)) ?_

theorem execTstEnded_frame {pt : Part} {dt : Nat} {s : State} (hp : pt ∉ [Part.clock, Part.regs, Part.io, Part.qmg, Part.bkg]) :
    ∃ s', execTstEnded dt s = .next s' ∧ pt.same s s' := by
  unfold execTstEnded
  refine ⟨_, rfl, ?_⟩
  try dsimp only
  repeat' first
    | with_reducible assumption | with_reducible exact Part.same_refl _ _ | intro _ | with_reducible refine State.judgePressed_frame (Part.sub hp (by decide)) ?_
    | with_reducible refine State.raise_frame (Part.sub hp (by decide)) ?_ | with_reducible refine State.toNextCycle_frame (Part.sub hp (by decide)) ?_
    | with_reducible refine State.wr_frame (Part.sub hp (by decide)) ?_ | with_reducible apply Part.ite
    | split | fail_if_no_progress with_reducible refine Part.same_upd ?_ ?_ | ((with_reducible refine Part.keptIntro ?_); cases pt <;> first | exact absurd (by decide) hp | exact rfl | exact ⟨rfl, rfl⟩)

theorem State.endFold_frame {pt : Part} {base : State} {s : State} {e : Nat × RateSt} (hp : pt ∉ [Part.io]) (hss : pt.same base s) :
    pt.same base (State.endFold s e) := by
  unfold State.endFold
  try dsimp only
  repeat' first
    | with_reducible assumption | intro _ | with_reducible refine State.raiseFolded_frame (Part.sub hp (by decide)) ?_
    | with_reducible apply Part.iteFst | fail_if_no_progress with_reducible refine Part.same_upd ?_ ?_
    | ((with_reducible refine Part.keptIntro ?_); cases pt <;> first | exact absurd (by decide) hp | exact rfl | exact ⟨rfl, rfl⟩)

theorem execFoldedEventSecondEnd_frame {pt : Part} {dt : Nat} {s : State} (hp : pt ∉ [Part.clock, Part.io]) :
    ∃ s', execFoldedEventSecondEnd dt s = .next s' ∧ pt.same s s' := by
  unfold execFoldedEventSecondEnd
  refine ⟨_, rfl, ?_⟩
  try dsimp only
  repeat' first
    | with_reducible assumption | intro _ | with_reducible exact Part.same_refl _ _ | with_reducible refine State.elapse_frame (Part.sub hp (by decide)) ?_
    | with_reducible refine State.endFold_frame (Part.sub hp (by decide)) ?_ | with_reducible refine State.untilTime_frame (Part.sub hp (by decide)) ?_
    | with_reducible apply Part.ite | with_reducible apply Part.foldl | split

end Sys2Proof.Machine
end

