-- ==== Sys2Proof/Laws/FramesHostWrite.lean ====
section
/-! SUPPORT. Which parts of the state the operations of Machine/HostWrite.lean may change. -/

set_option Elab.async false

namespace Sys2Proof.Machine

theorem State.writeWord_frame {pt : Part} {base : State} {s : State} {off value : Nat} (hp : pt ∉ [Part.clock, Part.dco, Part.freeCtr, Part.regs, Part.io, Part.shf, Part.tim, Part.flt, Part.prt, Part.rlk, Part.frm, Part.map, Part.ovm, Part.qmg, Part.feeds, Part.pm, Part.cip, Part.par, Part.eng, Part.asy, Part.bkg, Part.sec, Part.sys]) (hss : pt.same base s) :
    pt.same base (State.writeWord s off value) := by
  unfold State.writeWord
  try dsimp only
  repeat' first
    | with_reducible assumption | intro _ | with_reducible refine State.hostFields_frame (Part.sub hp (by decide)) ?_
    | with_reducible refine State.tstWait_frame (Part.sub hp (by decide)) ?_ | with_reducible refine State.writeCommit_frame (Part.sub hp (by decide)) ?_
    | with_reducible refine State.writeDiscard_frame (Part.sub hp (by decide)) ?_ | with_reducible refine State.writeHewerReq_frame (Part.sub hp (by decide)) ?_
    | with_reducible refine State.writeMsix_frame (Part.sub hp (by decide)) ?_ | with_reducible refine State.writeRstReq_frame (Part.sub hp (by decide)) ?_
    | with_reducible refine State.writeTst_frame (Part.sub hp (by decide)) ?_ | with_reducible apply Part.ite
    | split

theorem execRegisterWrite_frame {pt : Part} {dt off value be : Nat} {s : State} (hp : pt ∉ [Part.clock, Part.dco, Part.freeCtr, Part.regs, Part.io, Part.shf, Part.tim, Part.flt, Part.prt, Part.rlk, Part.frm, Part.map, Part.ovm, Part.qmg, Part.feeds, Part.pm, Part.cip, Part.par, Part.eng, Part.asy, Part.bkg, Part.sec, Part.sys]) :
    ∃ s', execRegisterWrite dt off value be s = .next s' ∧ pt.same s s' := by
  unfold execRegisterWrite
  refine ⟨_, rfl, ?_⟩
  try dsimp only
  repeat' first
    | with_reducible assumption | with_reducible exact Part.same_refl _ _ | intro _ | with_reducible refine State.accessBad_frame (Part.sub hp (by decide)) ?_
    | with_reducible refine State.elapse_frame (Part.sub hp (by decide)) ?_ | with_reducible refine State.writeWord_frame (Part.sub hp (by decide)) ?_
    | with_reducible apply Part.ite | split

end Sys2Proof.Machine
end

