-- ==== Sys2Proof/WellFormed.lean ====
section
/-! DEFINITION. Which commands and events the outside can send: every operand within the width its
descriptor bytes give it (the command tables), and every number of an event within the range the spec
gives the thing it names. A command whose value fits its bytes but is refused by the device is well
formed; the refusal is the device's answer. The passed time `dt` is any number (log entry 1). -/

namespace Sys2Proof

/-! ### Widths -/

/-- A one-byte parameter. -/
def byteOk (n : Nat) : Bool := n < 2 ^ 8
/-- A two-byte parameter. -/
def halfOk (n : Nat) : Bool := n < 2 ^ 16
/-- A four-byte parameter. -/
def wordOk (n : Nat) : Bool := n < 2 ^ 32
/-- A six-byte parameter. -/
def sixOk (n : Nat) : Bool := n < 2 ^ 48
/-- An eight-byte parameter. -/
def longOk (n : Nat) : Bool := n < 2 ^ 64
/-- A bit. -/
def bitOk (n : Nat) : Bool := n < 2
/-- A signed value of `b + 1` bits. -/
def signedOk (b : Nat) (v : Int) : Bool := (-(2 ^ b : Int)) ≤ v && v < (2 ^ b : Int)
/-- A list of bytes of a given length. -/
def bytesOk (n : Nat) (l : List Nat) : Bool := l.length == n && l.all byteOk

/-! ### What is named -/

/-- A lane's index: ACC0 to ACC47, UPL0 to UPL23, MATE0 to MATE7 (R11). -/
def laneOk (n : Nat) : Bool := n < 80
/-- A tributary link (R11). -/
def linkOk (n : Nat) : Bool := n < 32
/-- A timing candidate (R54). -/
def candOk (n : Nat) : Bool := n < 20
/-- A filter channel (Table 01-1). -/
def chOk (n : Nat) : Bool := n < 48
/-- A context, by the number of its record (R24). -/
def ctxOk (n : Nat) : Bool := n < 49152
/-- A hewer (R11). -/
def hewerOk (n : Nat) : Bool := n < 96
/-- A slice (R11). -/
def sliceOk (n : Nat) : Bool := n < 4
/-- A command ring (R446). -/
def ringOk (n : Nat) : Bool := n < 16
/-- A shaft address as a count of positions: 48 bits of cycles (R33). -/
def addrOk (n : Nat) : Bool := n < 2 ^ 48 * Config.cyclePos

/-! ### Structures -/

/-- The slot a host command came from: its ring and its four bytes of host tag (Table 14-16). -/
def HostRef.wf (h : HostRef) : Bool := ringOk h.ring && wordOk h.tag

/-- An entry's fields fit theirs (Table 02-2). -/
def SchedEntry.wf (e : SchedEntry) : Bool :=
  e.period < 8 && e.cyc < 32 && e.pos < Config.cyclePos && e.cls < 16 && e.target < 4096 && e.arg < 2 ^ 24

/-- A doorbell page: sixteen CMD indices, sixteen CPL indices and thirty-two EVQ indices (Table 14-2); one of 1,024 lines
of the index table holds eight indices (R447). -/
def DbPage.wf (p : DbPage) : Bool :=
  p.bytes.length == 384 && p.bytes.all byteOk && p.lines.all (fun l => l.line < 1024 && l.bytes.length == 64 && l.bytes.all byteOk)

/-- The coefficients fit their registers (Table 03-12). -/
def ModelCoef.wf (p : ModelCoef) : Bool :=
  signedOk 31 p.c1 && signedOk 31 p.c2 && signedOk 31 p.c3 && signedOk 31 p.c4 && signedOk 31 p.age &&
  signedOk 31 p.t0

/-- Table 04-5. -/
def FltCfg.wf (p : FltCfg) : Bool :=
  byteOk p.ch && byteOk p.preset && byteOk p.n && halfOk p.r && byteOk p.k

/-- A Ralale block has a 2-bit sync header and 8 payload bytes (R169). -/
def RlkBlock.wf (b : RlkBlock) : Bool := b.sync < 4 && bytesOk 8 b.bytes

/-- The eight blocks of a tub, or of a frame's marker and overhead, after 58 line bits (R169, R170). -/
def blocksOk (n prior : Nat) (l : List RlkBlock) : Bool := prior < 2 ^ 58 && l.length == n && l.all RlkBlock.wf

/-- Every byte of the overhead is a byte (R212). -/
def FrmFrame.wf (f : FrmFrame) : Bool :=
  byteOk f.seq && (f.ptr.all (fun v => v < 65536)) && f.ks.all (fun k => byteOk k.1 && byteOk k.2) && f.status.all byteOk &&
    f.psi.all (fun p => byteOk p.1 && byteOk p.2.1) && f.label.all byteOk && f.sas.all (fun v => v < 16) &&
    (match f.trace with | some l => (l.length == 1 || l.length == 16 || l.length == 64) && l.all byteOk | none => true)

/-- Table 07-15. -/
def CtxCfg.wf (p : CtxCfg) : Bool :=
  wordOk p.ctx && byteOk p.sf && byteOk p.sd && byteOk p.trace && byteOk p.acts && byteOk p.label && byteOk p.sa
/-- Table 07-15. -/
def TraceSet.wf (p : TraceSet) : Bool :=
  wordOk p.ctx && byteOk p.tx && p.layer < 4 && bitOk p.part && bytesOk 32 p.bytes
/-- Table 07-15. -/
def ApsCfg.wf (p : ApsCfg) : Bool := halfOk p.group && byteOk p.mode && byteOk p.hold && halfOk p.wtr

/-- Table 08-14. -/
def PageRead.wf (p : PageRead) : Bool :=
  byteOk p.what && byteOk p.standby && wordOk p.first && halfOk p.count && longOk p.host

/-- Table 09-2. -/
def Endpoint.wf (e : Endpoint) : Bool := byteOk e.typ && byteOk e.lane && halfOk e.idx && byteOk e.tu
/-- Table 09-1. -/
def Intent.wf (p : Intent) : Bool :=
  wordOk p.id && byteOk p.client && byteOk p.container && byteOk p.count && byteOk p.proc && byteOk p.sealing &&
  byteOk p.key && byteOk p.prot && byteOk p.shed && byteOk p.nts && wordOk p.rate &&
  p.srcA.wf && p.srcB.wf && p.dstA.wf && p.dstB.wf
/-- A move names a context and one of the reasons of Table 09-8. -/
def Move.wf (m : Move) : Bool := ctxOk m.ctx && byteOk m.reason

/-- A queue word's parts (R478, Table 15-2): at most 64 bytes in one write. -/
def QWrite.wf (w : QWrite) : Bool := w.bytes.length ≤ 64 && w.bytes.all byteOk && byteOk w.status && halfOk w.tag
/-- Table 15-8. -/
def QCreate.wf (p : QCreate) : Bool :=
  halfOk p.q && byteOk p.k && byteOk p.mode && byteOk p.flush && wordOk p.high && wordOk p.low

/-- Table 10-8. -/
def PointCfg.wf (p : PointCfg) : Bool := wordOk p.point && byteOk p.prof
/-- Table 10-8: ten thresholds of four bytes. -/
def ProfileSet.wf (p : ProfileSet) : Bool :=
  byteOk p.prof && byteOk p.typ && byteOk p.neP && byteOk p.feP && p.thr.length == 10 && p.thr.all wordOk
/-- Table 10-8. -/
def HistRead.wf (p : HistRead) : Bool :=
  wordOk p.point && halfOk p.count && byteOk p.typ && byteOk p.first && byteOk p.num && longOk p.host

/-- Table 18-8: an envelope for one unit or for two has 192 or 280 bytes; a shorter or longer one fails its checks. -/
def envOk (e : List Nat) : Bool := e.length ≤ 4096 && e.all byteOk
/-- Table 11-11. -/
def WrapLoad.wf (p : WrapLoad) : Bool := byteOk p.slot && halfOk p.fromEpoch && halfOk p.peer && p.blob.length == 40 && p.blob.all byteOk
/-- Table 11-11. -/
def EpochFlip.wf (p : EpochFlip) : Bool := byteOk p.scope && wordOk p.num && halfOk p.epoch
/-- R281, R282: the 8L bytes of a block's carriage stream. -/
def streamOk (b : List Nat) : Bool := [64, 128, 256, 512].contains b.length && b.all byteOk
/-- Table 08-10: a block's stream and the ciphertext before it. -/
def SealedRx.wf (b : SealedRx) : Bool := streamOk b.stream && b.before.all byteOk && addrOk b.first && addrOk b.last
/-- Table 11-7. -/
def BulkMsg.wf (m : BulkMsg) : Bool := byteOk m.typ && m.prio < 8 && halfOk m.pair && m.text.all byteOk && m.tag < 2 ^ 128

/-- Table 12-1: a marker and three overhead blocks. -/
def MateIn.wf (f : MateIn) : Bool := blocksOk 4 f.prior f.blocks
/-- Table 12-2. -/
def MsgHead.wf (m : MsgHead) : Bool := m.head.length == 16 && m.head.all byteOk
/-- R390: at most 65,528 bytes of payload. -/
def MateText.wf (t : MateText) : Bool :=
  t.head.length == 16 && t.head.all byteOk && t.payload.length ≤ 65528 && t.payload.all byteOk && wordOk t.crc

/-- Table 13-6: at most 32 bytes each way. -/
def PmbXfer.wf (p : PmbXfer) : Bool :=
  byteOk p.addr && byteOk p.wlen && byteOk p.rlen && bytesOk 32 p.data && longOk p.host && p.err < 3 &&
  p.got.length ≤ 32 && p.got.all byteOk

/-- Table 14-14. -/
def DqBind.wf (p : DqBind) : Bool :=
  halfOk p.d && halfOk p.q && byteOk p.dir && byteOk p.size && longOk p.base && byteOk p.evq && halfOk p.thr

/-- The six structures an assay unit judges (R530). -/
def Granule.wf (g : Granule) : Bool := g.unit < 6 && g.kind < 6 && g.word < 3 && wordOk g.stored && g.dataA.all byteOk && g.dataB.all byteOk
/-- Table 17-5: 8 bytes, at most 65,536 of data, and the check value. -/
def xferOk (u : List Nat) : Bool := u.length ≤ 65548 && u.all byteOk

/-- The ten kinds of structure an SRAM word can belong to (R598 to R601). -/
def SramError.wf (e : SramError) : Bool := e.kind < 10

/-! ### Commands and events -/

/-- The command or event is one that can come. -/
def Instr.wf : Instr → Bool
  | .schedSwap _ _ _ g st su => wordOk g && wordOk st && wordOk su
  | .armSwap _ own => own.all SchedEntry.wf
  | .hewerWakeup _ => true
  | .doorbellRead _ p => p.wf
  | .gateSlip _ c f => ctxOk c && f ≤ 1024
  | .shaftHalt _ => true
  | .shaftStart _ => true
  | .timFreqMeasure _ m => m.all (fun x => candOk x.1)
  | .refQualified _ c => candOk c
  | .timHoldoffExpiry _ c => candOk c
  | .refSelection _ => true
  | .refSwitchDone _ => true
  | .wtrExpiry _ c => candOk c
  | .steerWdogExpiry _ => true
  | .holdoverUpdate _ => true
  | .modelLearnSample _ => true
  | .todSetApply _ => true
  | .ppsinEdge _ _ => true
  | .ppsoutPulse _ => true
  | .timForce _ h c => h.wf && byteOk c
  | .timClear _ h => h.wf
  | .timLockout _ h c o => h.wf && byteOk c && byteOk o
  | .timHoldover _ h o => h.wf && byteOk o
  | .timSteer _ h v => h.wf && signedOk 31 v
  | .timSetTod _ h st sc ns => h.wf && longOk st && sixOk sc && wordOk ns
  | .timTodCapture _ h => h.wf
  | .timModelLoad _ h p => h.wf && p.wf
  | .timWtrClear _ h c => h.wf && byteOk c
  | .fltOutputWord _ c _ l => chOk c && l.all (signedOk 31)
  | .inputStuck _ c lv => chOk c && bitOk lv
  | .xfadeStart _ c => chOk c
  | .xfadeDone _ c => chOk c
  | .swapDone _ c => chOk c
  | .fltSyncResetApply _ => true
  | .fltConfig _ h p => h.wf && p.wf
  | .fltCoefLoad _ h c b f _ t =>
      h.wf && byteOk c && byteOk b && byteOk f && t.length == 16 && t.all (signedOk 23)
  | .fltSwap _ h c b => h.wf && byteOk c && byteOk b
  | .fltSyncReset _ h m st => h.wf && longOk m && longOk st
  | .fltFreeze _ h m o => h.wf && longOk m && byteOk o
  | .laneLos _ n trb _ => if trb then linkOk n else laneOk n
  | .laneLol _ n _ => laneOk n
  | .laneBlockLock _ n _ => laneOk n
  | .laneHiber _ n _ => laneOk n
  | .laneReady _ n w v => laneOk n && w < 64 && byteOk v
  | .eyeMeasure _ m => m.all (fun x => laneOk x.lane && x.eyes.all (fun e => e.1 < 64 && byteOk e.2))
  | .prbsLock _ n _ _ => laneOk n
  | .trbFrameRx _ k _ b => linkOk k && bytesOk 4860 b
  | .trbAlign _ k => linkOk k
  | .prtTest _ h n p f => h.wf && halfOk n && byteOk p && byteOk f
  | .prtAdaptRestart _ h n => h.wf && halfOk n
  | .rlkFrameRx _ n _ _ p b _ => laneOk n && blocksOk 8 p b
  | .rlkLfa _ n => laneOk n
  | .tubRx _ n p b => laneOk n && blocksOk 8 p b
  | .ddHoldExpiry _ c => ctxOk c
  | .copyRecordClose _ c => ctxOk c
  | .framerFrameRx _ k f => wordOk k && f.wf
  | .lofDeclare _ k => wordOk k
  | .otlLol _ n l => laneOk n && l.length == 20
  | .crc4SearchTimeout _ c _ => ctxOk c
  | .ohExtract _ c => ctxOk c
  | .ohInsert _ c _ => ctxOk c
  | .sdSfEval _ k => wordOk k
  | .apsHoldoffExpiry _ g => halfOk g
  | .apsWtrExpiry _ g => halfOk g
  | .frmCtxCfg _ h p => h.wf && p.wf
  | .frmTraceSet _ h p => h.wf && p.wf
  | .frmCtxRead _ h c a => h.wf && wordOk c && longOk a
  | .frmApsCfg _ h p => h.wf && p.wf
  | .frmApsCmd _ h g c l => h.wf && halfOk g && byteOk c && byteOk l
  | .frmForce _ h c w o => h.wf && wordOk c && byteOk w && byteOk o
  | .frmReframe _ h n c => h.wf && halfOk n && wordOk c
  | .frmErrInsert _ h c m v f => h.wf && wordOk c && byteOk m && byteOk v && halfOk f
  | .handover _ c => ctxOk c
  | .clientFrameRx _ n f => laneOk n && f.data.all byteOk && halfOk f.tpid && f.vid ≤ 0x1000
  | .gfpFrameRx _ c f => ctxOk c && wordOk f.core && wordOk f.head
  | .carriageBlockRx _ c l b => ctxOk c && bitOk l && streamOk b.stream
  | .ddPlayout _ c => ctxOk c
  | .mapRateLimit _ n _ f => laneOk n && f ≤ 1024
  | .mapCtxRead _ h c a => h.wf && wordOk c && longOk a
  | .mapPageRead _ h p => h.wf && p.wf
  | .mapDdStatus _ h c a => h.wf && wordOk c && longOk a
  | .ovmIntentAdd _ h p o => h.wf && p.wf && o.fullHewers.all hewerOk
  | .ovmIntentWithdraw _ h i => h.wf && wordOk i
  | .ovmPin _ h c i => h.wf && wordOk c && byteOk i
  | .ovmUnpin _ h c i => h.wf && wordOk c && byteOk i
  | .ovmResultRead _ h i a n => h.wf && wordOk i && longOk a && wordOk n
  | .ovmDefrag _ h => h.wf
  | .ovmMovePlan _ o m => o.fullHewers.all (fun h => decide (h < 96)) && m.all Move.wf
  | .ovmHoldExpired _ c => ctxOk c
  | .stageUnusable _ s st => sliceOk s && byteOk st
  | .ovmRestart _ n => hewerOk n
  | .ovmEngines _ => true
  | .unitWakeReady _ _ _ => true
  | .pmSecondBoundary _ => true
  | .pmSecondRead _ n => hewerOk n
  | .pmBinClosure _ n => hewerOk n
  | .pmnPointCfg _ h p => h.wf && p.wf
  | .pmnProfileSet _ h p => h.wf && p.wf
  | .pmnHistRead _ h p => h.wf && p.wf
  | .pmnPointClear _ h p _ _ => h.wf && wordOk p
  | .pmnSecRead _ h p a => h.wf && wordOk p && longOk a
  | .cipRootLoad _ h e => h.wf && envOk e
  | .cipKeyErase _ h e => h.wf && envOk e
  | .cipWrapLoad _ h p => h.wf && p.wf
  | .cipEpochFlip _ h p _ => h.wf && p.wf
  | .keyEpochFlip _ => true
  | .sealedBlockTx _ c b => ctxOk c && b.all byteOk
  | .sealedBlockRx _ c b => ctxOk c && b.wf
  | .keyDerived _ => true
  | .halfZeroise _ s => byteOk s
  | .epochReservation _ _ => true
  | .bulkMessage _ m => m.wf
  | .bulkOpen _ p => byteOk p
  | .mateFrameRx _ n f => laneOk n && f.wf
  | .laneRoleAssign _ => true
  | .mateListenEnd _ => true
  | .tallyLeaseRenewal _ => true
  | .grant _ t => t.wf
  | .ack _ t => t.wf
  | .tallyInWord _ l => l.length == 68
  | .surrender _ t => t.wf
  | .claim _ t => t.wf
  | .health _ t => t.wf
  | .forward _ m _ _ => m.wf
  | .place _ m p => m.wf && p.own.all SchedEntry.wf && p.moves.all Move.wf
  | .placeAck _ m _ c => m.wf && wordOk c
  | .ctrlImage _ m _ => m.wf
  | .gate _ t => t.wf
  | .parGateMiss _ c n => ctxOk c && halfOk n
  | .stateData _ t => t.wf
  | .stateCommit _ t _ => t.wf
  | .stateAck _ t => t.wf
  | .drill _ m o _ => m.wf && byteOk o
  | .stateCommitDeadline _ => true
  | .stateCopyEpoch _ => true
  | .parOrphan _ => true
  | .leaseViewExpiry _ => true
  | .parPath _ => true
  | .healthReport _ => true
  | .canaryBist _ _ _ _ => true
  | .parTake _ h => h.wf
  | .parSurrender _ h => h.wf
  | .parDrill _ h o => h.wf && byteOk o
  | .parClearFault _ h => h.wf
  | .drillAckTimeout _ => true
  | .drillClaimTimeout _ => true
  | .governorStep _ _ => true
  | .devPowerUpdate _ _ => true
  | .slewWindow _ => true
  | .detectorArm _ => true
  | .feedLoss _ => true
  | .lgStageEnd _ => true
  | .pmbusPoll _ l => l.all (fun r => r.err < 3 && halfOk r.status)
  | .pmbAlert _ _ st => halfOk st
  | .engEpbUpdate _ => true
  | .engLastGasp _ h => h.wf
  | .engPmbXfer _ h p => h.wf && p.wf
  | .engCrashRead _ h s a => h.wf && byteOk s && longOk a
  | .engCrashRelease _ h s => h.wf && byteOk s
  | .engCrashPoints _ h c f p => h.wf && halfOk c && halfOk f && p.length == 12 && p.all wordOk
  | .descriptorFetch _ l => l.all (fun x => ringOk x.1 && x.2.all (fun d => d.length == 64 && d.all byteOk))
  | .heldEventRelease _ => true
  | .dqWriteback _ d => halfOk d
  | .vectorTimer _ v => halfOk v
  | .pcieLinkChange _ _ s w => byteOk s && byteOk w
  | .pciePowerState _ _ _ => true
  | .hifDomainReset _ => true
  | .hifNop _ h v => h.wf && longOk v
  | .hifDqBind _ h p => h.wf && p.wf
  | .hifDqUnbind _ h d => h.wf && halfOk d
  | .hifSevSet _ h f c l => h.wf && halfOk f && byteOk c && l.length == 96 && l.all (fun x => x < 16)
  | .hifEvqTest _ h q s => h.wf && byteOk q && byteOk s
  | .queuePush _ q w => halfOk q && w.wf
  | .queuePop _ q => halfOk q
  | .queueFlush _ q => halfOk q
  | .qDrop _ q => halfOk q
  | .qPtrReset _ q _ b g => halfOk q && wordOk b && wordOk g
  | .queueResetEnd _ q => halfOk q
  | .qmgQCreate _ h p => h.wf && p.wf
  | .qmgQDestroy _ h q => h.wf && halfOk q
  | .qmgQSet _ h q a b _ _ => h.wf && halfOk q && wordOk a && wordOk b
  | .qmgQRead _ h q a => h.wf && halfOk q && longOk a
  | .qmgMark _ h q o => h.wf && halfOk q && byteOk o
  | .qmgRewind _ h q => h.wf && halfOk q
  | .qmgDropRest _ h q => h.wf && halfOk q
  | .qmgQReset _ h q => h.wf && halfOk q
  | .registerWrite _ o v b => o < 2 ^ 24 && o % 4 == 0 && wordOk v && b < 16
  | .shadowLoRead _ o => o < 2 ^ 24 && o % 4 == 0
  | .glbCommit _ v => wordOk v
  | .commitSnapshot _ _ => true
  | .commitOutcome _ => true
  | .glbDiscard _ v => wordOk v
  | .rstReq _ v => wordOk v
  | .rstHewerReq _ _ v => wordOk v
  | .resetReleased _ u => wordOk u
  | .triScrub _ l => l.all (fun e => e.off < 2 ^ 24 && e.copy.all (fun c => c < 3))
  | .regCommit _ h m => h.wf && wordOk m
  | .regDiscard _ h m => h.wf && wordOk m
  | .assayGranuleCheck _ g => g.wf
  | .assayPassLate _ u => u < 6
  | .assayCompareStart _ => true
  | .transferUnitRx _ _ u => xferOk u
  | .asyCheck _ h m => h.wf && byteOk m
  | .asyLoopback _ h s d n u b => h.wf && longOk s && longOk d && wordOk n && u.all xferOk && b.all xferOk
  | .secTrngFail _ t _ => byteOk t
  | .secChallenge _ h a => h.wf && longOk a
  | .nonceExpiry _ => true
  | .secAttest _ h n a => h.wf && bytesOk 32 n && longOk a
  | .secCertRead _ h a => h.wf && longOk a
  | .secLifecycle _ h e => h.wf && envOk e
  | .secOpkeyRotate _ h e => h.wf && envOk e
  | .secSvnCommit _ h => h.wf
  | .secImageStage _ h n => h.wf && wordOk n
  | .secImageStaged _ => true
  | .secDebugUnlock _ h e => h.wf && envOk e
  | .secDebugLock _ h => h.wf
  | .debugExpiry _ => true
  | .powerOnResetRelease _ b => b.nor.all (fun n => n.1.all (fun e => e.2.all byteOk) && n.2.all (fun e => e.2.all byteOk))
  | .railUndervoltage _ => true
  | .perstNRelease _ s w => byteOk s && byteOk w
  | .selftestResult _ t => t.lanes.all laneOk && t.hewers.all hewerOk
  | .configSetStage _ => true
  | .configStore _ _ => true
  | .cfgLoad _ h a n _ => h.wf && longOk a && wordOk n
  | .cfgStatus _ h => h.wf
  | .bootLoad _ h a n u => h.wf && longOk a && wordOk n && u.all xferOk
  | .selftestRead _ h a => h.wf && longOk a
  | .scrubWord _ e => e.wf
  | .hbmPatrol _ a _ _ _ _ => longOk a
  | .bkgEpoch _ _ _ _ => true
  | .tjUpdate _ => true
  | .thermalFault _ => true
  | .ageMeasure _ _ => true
  | .lifeRecord _ => true
  | .logAppend _ => true
  | .bkgAgeRead _ h a => h.wf && longOk a
  | .bkgLogAppend _ h d => h.wf && bytesOk 12 d
  | .bkgLogRead _ h f n a => h.wf && wordOk f && halfOk n && longOk a
  | .tstArm _ v => wordOk v
  | .tstEnded _ => true
  | .refInputNoEdge _ c => candOk c
  | .esmcPduTimeout _ n => laneOk n
  | .porstNLow _ => true
  | .foldedEventSecondEnd _ => true

/-- The ring slot a host command came from; an event has none. -/
def Instr.host : Instr → Option HostRef
  | .schedSwap _ _ _ _ _ _ => none
  | .armSwap _ _ => none
  | .hewerWakeup _ => none
  | .doorbellRead _ _ => none
  | .gateSlip _ _ _ => none
  | .shaftHalt _ => none
  | .shaftStart _ => none
  | .timFreqMeasure _ _ => none
  | .refQualified _ _ => none
  | .timHoldoffExpiry _ _ => none
  | .refSelection _ => none
  | .refSwitchDone _ => none
  | .wtrExpiry _ _ => none
  | .steerWdogExpiry _ => none
  | .holdoverUpdate _ => none
  | .modelLearnSample _ => none
  | .todSetApply _ => none
  | .ppsinEdge _ _ => none
  | .ppsoutPulse _ => none
  | .timForce _ h _ => some h
  | .timClear _ h => some h
  | .timLockout _ h _ _ => some h
  | .timHoldover _ h _ => some h
  | .timSteer _ h _ => some h
  | .timSetTod _ h _ _ _ => some h
  | .timTodCapture _ h => some h
  | .timModelLoad _ h _ => some h
  | .timWtrClear _ h _ => some h
  | .fltOutputWord _ _ _ _ => none
  | .inputStuck _ _ _ => none
  | .xfadeStart _ _ => none
  | .xfadeDone _ _ => none
  | .swapDone _ _ => none
  | .fltSyncResetApply _ => none
  | .fltConfig _ h _ => some h
  | .fltCoefLoad _ h _ _ _ _ _ => some h
  | .fltSwap _ h _ _ => some h
  | .fltSyncReset _ h _ _ => some h
  | .fltFreeze _ h _ _ => some h
  | .laneLos _ _ _ _ => none
  | .laneLol _ _ _ => none
  | .laneBlockLock _ _ _ => none
  | .laneHiber _ _ _ => none
  | .laneReady _ _ _ _ => none
  | .eyeMeasure _ _ => none
  | .prbsLock _ _ _ _ => none
  | .trbFrameRx _ _ _ _ => none
  | .trbAlign _ _ => none
  | .prtTest _ h _ _ _ => some h
  | .prtAdaptRestart _ h _ => some h
  | .rlkFrameRx _ _ _ _ _ _ _ => none
  | .rlkLfa _ _ => none
  | .tubRx _ _ _ _ => none
  | .ddHoldExpiry _ _ => none
  | .copyRecordClose _ _ => none
  | .framerFrameRx _ _ _ => none
  | .lofDeclare _ _ => none
  | .otlLol _ _ _ => none
  | .crc4SearchTimeout _ _ _ => none
  | .ohExtract _ _ => none
  | .ohInsert _ _ _ => none
  | .sdSfEval _ _ => none
  | .apsHoldoffExpiry _ _ => none
  | .apsWtrExpiry _ _ => none
  | .frmCtxCfg _ h _ => some h
  | .frmTraceSet _ h _ => some h
  | .frmCtxRead _ h _ _ => some h
  | .frmApsCfg _ h _ => some h
  | .frmApsCmd _ h _ _ _ => some h
  | .frmForce _ h _ _ _ => some h
  | .frmReframe _ h _ _ => some h
  | .frmErrInsert _ h _ _ _ _ => some h
  | .handover _ _ => none
  | .clientFrameRx _ _ _ => none
  | .gfpFrameRx _ _ _ => none
  | .carriageBlockRx _ _ _ _ => none
  | .ddPlayout _ _ => none
  | .mapRateLimit _ _ _ _ => none
  | .mapCtxRead _ h _ _ => some h
  | .mapPageRead _ h _ => some h
  | .mapDdStatus _ h _ _ => some h
  | .ovmIntentAdd _ h _ _ => some h
  | .ovmIntentWithdraw _ h _ => some h
  | .ovmPin _ h _ _ => some h
  | .ovmUnpin _ h _ _ => some h
  | .ovmResultRead _ h _ _ _ => some h
  | .ovmDefrag _ h => some h
  | .ovmMovePlan _ _ _ => none
  | .ovmHoldExpired _ _ => none
  | .stageUnusable _ _ _ => none
  | .ovmRestart _ _ => none
  | .ovmEngines _ => none
  | .unitWakeReady _ _ _ => none
  | .pmSecondBoundary _ => none
  | .pmSecondRead _ _ => none
  | .pmBinClosure _ _ => none
  | .pmnPointCfg _ h _ => some h
  | .pmnProfileSet _ h _ => some h
  | .pmnHistRead _ h _ => some h
  | .pmnPointClear _ h _ _ _ => some h
  | .pmnSecRead _ h _ _ => some h
  | .cipRootLoad _ h _ => some h
  | .cipKeyErase _ h _ => some h
  | .cipWrapLoad _ h _ => some h
  | .cipEpochFlip _ h _ _ => some h
  | .keyEpochFlip _ => none
  | .sealedBlockTx _ _ _ => none
  | .sealedBlockRx _ _ _ => none
  | .keyDerived _ => none
  | .halfZeroise _ _ => none
  | .epochReservation _ _ => none
  | .bulkMessage _ _ => none
  | .bulkOpen _ _ => none
  | .mateFrameRx _ _ _ => none
  | .laneRoleAssign _ => none
  | .mateListenEnd _ => none
  | .tallyLeaseRenewal _ => none
  | .grant _ _ => none
  | .ack _ _ => none
  | .tallyInWord _ _ => none
  | .surrender _ _ => none
  | .claim _ _ => none
  | .health _ _ => none
  | .forward _ _ _ _ => none
  | .place _ _ _ => none
  | .placeAck _ _ _ _ => none
  | .ctrlImage _ _ _ => none
  | .gate _ _ => none
  | .parGateMiss _ _ _ => none
  | .stateData _ _ => none
  | .stateCommit _ _ _ => none
  | .stateAck _ _ => none
  | .drill _ _ _ _ => none
  | .stateCommitDeadline _ => none
  | .stateCopyEpoch _ => none
  | .parOrphan _ => none
  | .leaseViewExpiry _ => none
  | .parPath _ => none
  | .healthReport _ => none
  | .canaryBist _ _ _ _ => none
  | .parTake _ h => some h
  | .parSurrender _ h => some h
  | .parDrill _ h _ => some h
  | .parClearFault _ h => some h
  | .drillAckTimeout _ => none
  | .drillClaimTimeout _ => none
  | .governorStep _ _ => none
  | .devPowerUpdate _ _ => none
  | .slewWindow _ => none
  | .detectorArm _ => none
  | .feedLoss _ => none
  | .lgStageEnd _ => none
  | .pmbusPoll _ _ => none
  | .pmbAlert _ _ _ => none
  | .engEpbUpdate _ => none
  | .engLastGasp _ h => some h
  | .engPmbXfer _ h _ => some h
  | .engCrashRead _ h _ _ => some h
  | .engCrashRelease _ h _ => some h
  | .engCrashPoints _ h _ _ _ => some h
  | .descriptorFetch _ _ => none
  | .heldEventRelease _ => none
  | .dqWriteback _ _ => none
  | .vectorTimer _ _ => none
  | .pcieLinkChange _ _ _ _ => none
  | .pciePowerState _ _ _ => none
  | .hifDomainReset _ => none
  | .hifNop _ h _ => some h
  | .hifDqBind _ h _ => some h
  | .hifDqUnbind _ h _ => some h
  | .hifSevSet _ h _ _ _ => some h
  | .hifEvqTest _ h _ _ => some h
  | .queuePush _ _ _ => none
  | .queuePop _ _ => none
  | .queueFlush _ _ => none
  | .qDrop _ _ => none
  | .qPtrReset _ _ _ _ _ => none
  | .queueResetEnd _ _ => none
  | .qmgQCreate _ h _ => some h
  | .qmgQDestroy _ h _ => some h
  | .qmgQSet _ h _ _ _ _ _ => some h
  | .qmgQRead _ h _ _ => some h
  | .qmgMark _ h _ _ => some h
  | .qmgRewind _ h _ => some h
  | .qmgDropRest _ h _ => some h
  | .qmgQReset _ h _ => some h
  | .registerWrite _ _ _ _ => none
  | .shadowLoRead _ _ => none
  | .glbCommit _ _ => none
  | .commitSnapshot _ _ => none
  | .commitOutcome _ => none
  | .glbDiscard _ _ => none
  | .rstReq _ _ => none
  | .rstHewerReq _ _ _ => none
  | .resetReleased _ _ => none
  | .triScrub _ _ => none
  | .regCommit _ h _ => some h
  | .regDiscard _ h _ => some h
  | .assayGranuleCheck _ _ => none
  | .assayPassLate _ _ => none
  | .assayCompareStart _ => none
  | .transferUnitRx _ _ _ => none
  | .asyCheck _ h _ => some h
  | .asyLoopback _ h _ _ _ _ _ => some h
  | .secTrngFail _ _ _ => none
  | .secChallenge _ h _ => some h
  | .nonceExpiry _ => none
  | .secAttest _ h _ _ => some h
  | .secCertRead _ h _ => some h
  | .secLifecycle _ h _ => some h
  | .secOpkeyRotate _ h _ => some h
  | .secSvnCommit _ h => some h
  | .secImageStage _ h _ => some h
  | .secImageStaged _ => none
  | .secDebugUnlock _ h _ => some h
  | .secDebugLock _ h => some h
  | .debugExpiry _ => none
  | .powerOnResetRelease _ _ => none
  | .railUndervoltage _ => none
  | .perstNRelease _ _ _ => none
  | .selftestResult _ _ => none
  | .configSetStage _ => none
  | .configStore _ _ => none
  | .cfgLoad _ h _ _ _ => some h
  | .cfgStatus _ h => some h
  | .bootLoad _ h _ _ _ => some h
  | .selftestRead _ h _ => some h
  | .scrubWord _ _ => none
  | .hbmPatrol _ _ _ _ _ _ => none
  | .bkgEpoch _ _ _ _ => none
  | .tjUpdate _ => none
  | .thermalFault _ => none
  | .ageMeasure _ _ => none
  | .lifeRecord _ => none
  | .logAppend _ => none
  | .bkgAgeRead _ h _ => some h
  | .bkgLogAppend _ h _ => some h
  | .bkgLogRead _ h _ _ _ => some h
  | .tstArm _ _ => none
  | .tstEnded _ => none
  | .refInputNoEdge _ _ => none
  | .esmcPduTimeout _ _ => none
  | .porstNLow _ => none
  | .foldedEventSecondEnd _ => none

end Sys2Proof
end

