-- ==== Sys2Proof/Laws/PerInstr.lean ====
section
/-! SUPPORT. The per-instruction family: a well-formed host command came from a command ring that exists, and its host tag
fits its four bytes (R446, Table 14-16). One lemma for each constructor of `Instr`. -/

set_option Elab.async false

namespace Sys2Proof.Laws.Family

/-- What the family states of a command. -/
def Statement (i : Instr) : Prop := i.wf = true → ∀ h, i.host = some h → h.ring < 16 ∧ h.tag < 2 ^ 32

/-- A slot that is well formed. -/
theorem slot_of_wf {h : HostRef} (w : h.wf = true) : h.ring < 16 ∧ h.tag < 2 ^ 32 := by
  simpa only [HostRef.wf, ringOk, wordOk, Bool.and_eq_true, decide_eq_true_eq] using w

/-- A command with a slot, whose well-formedness starts with the slot's. -/
theorem of_host {i : Instr} {h : HostRef} (e : i.host = some h) (f : i.wf = true → h.wf = true) : Statement i := by
  intro w g hg
  obtain rfl : h = g := by simpa [e] using hg
  exact slot_of_wf (f w)

/-- The first of two checks that pass together. -/
theorem first {a b : Bool} (w : (a && b) = true) : a = true := by
  cases a
  · exact absurd w (by simp)
  · rfl

/-- An event has no slot. -/
theorem of_event {i : Instr} (e : i.host = none) : Statement i := fun _ _ hg => by simp [e] at hg

theorem schedSwap (x0 : Nat) (x1 : Bool) (x2 : Bool) (x3 : Nat) (x4 : Nat) (x5 : Nat) : Statement (.schedSwap x0 x1 x2 x3 x4 x5) := of_event rfl
theorem armSwap (x0 : Nat) (x1 : List SchedEntry) : Statement (.armSwap x0 x1) := of_event rfl
theorem hewerWakeup (x0 : Nat) : Statement (.hewerWakeup x0) := of_event rfl
theorem doorbellRead (x0 : Nat) (x1 : DbPage) : Statement (.doorbellRead x0 x1) := of_event rfl
theorem gateSlip (x0 : Nat) (x1 : Nat) (x2 : Nat) : Statement (.gateSlip x0 x1 x2) := of_event rfl
theorem shaftHalt (x0 : Nat) : Statement (.shaftHalt x0) := of_event rfl
theorem shaftStart (x0 : Nat) : Statement (.shaftStart x0) := of_event rfl
theorem timFreqMeasure (x0 : Nat) (x1 : List (Nat × Int)) : Statement (.timFreqMeasure x0 x1) := of_event rfl
theorem refQualified (x0 : Nat) (x1 : Nat) : Statement (.refQualified x0 x1) := of_event rfl
theorem timHoldoffExpiry (x0 : Nat) (x1 : Nat) : Statement (.timHoldoffExpiry x0 x1) := of_event rfl
theorem refSelection (x0 : Nat) : Statement (.refSelection x0) := of_event rfl
theorem refSwitchDone (x0 : Nat) : Statement (.refSwitchDone x0) := of_event rfl
theorem wtrExpiry (x0 : Nat) (x1 : Nat) : Statement (.wtrExpiry x0 x1) := of_event rfl
theorem steerWdogExpiry (x0 : Nat) : Statement (.steerWdogExpiry x0) := of_event rfl
theorem holdoverUpdate (x0 : Nat) : Statement (.holdoverUpdate x0) := of_event rfl
theorem modelLearnSample (x0 : Nat) : Statement (.modelLearnSample x0) := of_event rfl
theorem todSetApply (x0 : Nat) : Statement (.todSetApply x0) := of_event rfl
theorem ppsinEdge (x0 : Nat) (x1 : Nat) : Statement (.ppsinEdge x0 x1) := of_event rfl
theorem ppsoutPulse (x0 : Nat) : Statement (.ppsoutPulse x0) := of_event rfl
theorem timForce (x0 : Nat) (x1 : HostRef) (x2 : Nat) : Statement (.timForce x0 x1 x2) := of_host rfl (fun w => first w)
theorem timClear (x0 : Nat) (x1 : HostRef) : Statement (.timClear x0 x1) := of_host rfl (fun w => w)
theorem timLockout (x0 : Nat) (x1 : HostRef) (x2 : Nat) (x3 : Nat) : Statement (.timLockout x0 x1 x2 x3) := of_host rfl (fun w => first (first w))
theorem timHoldover (x0 : Nat) (x1 : HostRef) (x2 : Nat) : Statement (.timHoldover x0 x1 x2) := of_host rfl (fun w => first w)
theorem timSteer (x0 : Nat) (x1 : HostRef) (x2 : Int) : Statement (.timSteer x0 x1 x2) := of_host rfl (fun w => first w)
theorem timSetTod (x0 : Nat) (x1 : HostRef) (x2 : Nat) (x3 : Nat) (x4 : Nat) : Statement (.timSetTod x0 x1 x2 x3 x4) := of_host rfl (fun w => first (first (first w)))
theorem timTodCapture (x0 : Nat) (x1 : HostRef) : Statement (.timTodCapture x0 x1) := of_host rfl (fun w => w)
theorem timModelLoad (x0 : Nat) (x1 : HostRef) (x2 : ModelCoef) : Statement (.timModelLoad x0 x1 x2) := of_host rfl (fun w => first w)
theorem timWtrClear (x0 : Nat) (x1 : HostRef) (x2 : Nat) : Statement (.timWtrClear x0 x1 x2) := of_host rfl (fun w => first w)
theorem fltOutputWord (x0 : Nat) (x1 : Nat) (x2 : Bool) (x3 : List Int) : Statement (.fltOutputWord x0 x1 x2 x3) := of_event rfl
theorem inputStuck (x0 : Nat) (x1 : Nat) (x2 : Nat) : Statement (.inputStuck x0 x1 x2) := of_event rfl
theorem xfadeStart (x0 : Nat) (x1 : Nat) : Statement (.xfadeStart x0 x1) := of_event rfl
theorem xfadeDone (x0 : Nat) (x1 : Nat) : Statement (.xfadeDone x0 x1) := of_event rfl
theorem swapDone (x0 : Nat) (x1 : Nat) : Statement (.swapDone x0 x1) := of_event rfl
theorem fltSyncResetApply (x0 : Nat) : Statement (.fltSyncResetApply x0) := of_event rfl
theorem fltConfig (x0 : Nat) (x1 : HostRef) (x2 : FltCfg) : Statement (.fltConfig x0 x1 x2) := of_host rfl (fun w => first w)
theorem fltCoefLoad (x0 : Nat) (x1 : HostRef) (x2 : Nat) (x3 : Nat) (x4 : Nat) (x5 : Bool) (x6 : List Int) : Statement (.fltCoefLoad x0 x1 x2 x3 x4 x5 x6) := of_host rfl (fun w => first (first (first (first (first w)))))
theorem fltSwap (x0 : Nat) (x1 : HostRef) (x2 : Nat) (x3 : Nat) : Statement (.fltSwap x0 x1 x2 x3) := of_host rfl (fun w => first (first w))
theorem fltSyncReset (x0 : Nat) (x1 : HostRef) (x2 : Nat) (x3 : Nat) : Statement (.fltSyncReset x0 x1 x2 x3) := of_host rfl (fun w => first (first w))
theorem fltFreeze (x0 : Nat) (x1 : HostRef) (x2 : Nat) (x3 : Nat) : Statement (.fltFreeze x0 x1 x2 x3) := of_host rfl (fun w => first (first w))
theorem laneLos (x0 : Nat) (x1 : Nat) (x2 : Bool) (x3 : Bool) : Statement (.laneLos x0 x1 x2 x3) := of_event rfl
theorem laneLol (x0 : Nat) (x1 : Nat) (x2 : Bool) : Statement (.laneLol x0 x1 x2) := of_event rfl
theorem laneBlockLock (x0 : Nat) (x1 : Nat) (x2 : Bool) : Statement (.laneBlockLock x0 x1 x2) := of_event rfl
theorem laneHiber (x0 : Nat) (x1 : Nat) (x2 : Bool) : Statement (.laneHiber x0 x1 x2) := of_event rfl
theorem laneReady (x0 : Nat) (x1 : Nat) (x2 : Nat) (x3 : Nat) : Statement (.laneReady x0 x1 x2 x3) := of_event rfl
theorem eyeMeasure (x0 : Nat) (x1 : List EyeMeas) : Statement (.eyeMeasure x0 x1) := of_event rfl
theorem prbsLock (x0 : Nat) (x1 : Nat) (x2 : Bool) (x3 : Nat) : Statement (.prbsLock x0 x1 x2 x3) := of_event rfl
theorem trbFrameRx (x0 : Nat) (x1 : Nat) (x2 : Nat) (x3 : List Nat) : Statement (.trbFrameRx x0 x1 x2 x3) := of_event rfl
theorem trbAlign (x0 : Nat) (x1 : Nat) : Statement (.trbAlign x0 x1) := of_event rfl
theorem prtTest (x0 : Nat) (x1 : HostRef) (x2 : Nat) (x3 : Nat) (x4 : Nat) : Statement (.prtTest x0 x1 x2 x3 x4) := of_host rfl (fun w => first (first (first w)))
theorem prtAdaptRestart (x0 : Nat) (x1 : HostRef) (x2 : Nat) : Statement (.prtAdaptRestart x0 x1 x2) := of_host rfl (fun w => first w)
theorem rlkFrameRx (x0 : Nat) (x1 : Nat) (x2 : Nat) (x3 : Bool) (x4 : Nat) (x5 : List RlkBlock) (x6 : Nat) : Statement (.rlkFrameRx x0 x1 x2 x3 x4 x5 x6) := of_event rfl
theorem rlkLfa (x0 : Nat) (x1 : Nat) : Statement (.rlkLfa x0 x1) := of_event rfl
theorem tubRx (x0 : Nat) (x1 : Nat) (x2 : Nat) (x3 : List RlkBlock) : Statement (.tubRx x0 x1 x2 x3) := of_event rfl
theorem ddHoldExpiry (x0 : Nat) (x1 : Nat) : Statement (.ddHoldExpiry x0 x1) := of_event rfl
theorem copyRecordClose (x0 : Nat) (x1 : Nat) : Statement (.copyRecordClose x0 x1) := of_event rfl
theorem framerFrameRx (x0 : Nat) (x1 : Nat) (x2 : FrmFrame) : Statement (.framerFrameRx x0 x1 x2) := of_event rfl
theorem lofDeclare (x0 : Nat) (x1 : Nat) : Statement (.lofDeclare x0 x1) := of_event rfl
theorem otlLol (x0 : Nat) (x1 : Nat) (x2 : List OtlLane) : Statement (.otlLol x0 x1 x2) := of_event rfl
theorem crc4SearchTimeout (x0 : Nat) (x1 : Nat) (x2 : Bool) : Statement (.crc4SearchTimeout x0 x1 x2) := of_event rfl
theorem ohExtract (x0 : Nat) (x1 : Nat) : Statement (.ohExtract x0 x1) := of_event rfl
theorem ohInsert (x0 : Nat) (x1 : Nat) (x2 : Bool) : Statement (.ohInsert x0 x1 x2) := of_event rfl
theorem sdSfEval (x0 : Nat) (x1 : Nat) : Statement (.sdSfEval x0 x1) := of_event rfl
theorem apsHoldoffExpiry (x0 : Nat) (x1 : Nat) : Statement (.apsHoldoffExpiry x0 x1) := of_event rfl
theorem apsWtrExpiry (x0 : Nat) (x1 : Nat) : Statement (.apsWtrExpiry x0 x1) := of_event rfl
theorem frmCtxCfg (x0 : Nat) (x1 : HostRef) (x2 : CtxCfg) : Statement (.frmCtxCfg x0 x1 x2) := of_host rfl (fun w => first w)
theorem frmTraceSet (x0 : Nat) (x1 : HostRef) (x2 : TraceSet) : Statement (.frmTraceSet x0 x1 x2) := of_host rfl (fun w => first w)
theorem frmCtxRead (x0 : Nat) (x1 : HostRef) (x2 : Nat) (x3 : Nat) : Statement (.frmCtxRead x0 x1 x2 x3) := of_host rfl (fun w => first (first w))
theorem frmApsCfg (x0 : Nat) (x1 : HostRef) (x2 : ApsCfg) : Statement (.frmApsCfg x0 x1 x2) := of_host rfl (fun w => first w)
theorem frmApsCmd (x0 : Nat) (x1 : HostRef) (x2 : Nat) (x3 : Nat) (x4 : Nat) : Statement (.frmApsCmd x0 x1 x2 x3 x4) := of_host rfl (fun w => first (first (first w)))
theorem frmForce (x0 : Nat) (x1 : HostRef) (x2 : Nat) (x3 : Nat) (x4 : Nat) : Statement (.frmForce x0 x1 x2 x3 x4) := of_host rfl (fun w => first (first (first w)))
theorem frmReframe (x0 : Nat) (x1 : HostRef) (x2 : Nat) (x3 : Nat) : Statement (.frmReframe x0 x1 x2 x3) := of_host rfl (fun w => first (first w))
theorem frmErrInsert (x0 : Nat) (x1 : HostRef) (x2 : Nat) (x3 : Nat) (x4 : Nat) (x5 : Nat) : Statement (.frmErrInsert x0 x1 x2 x3 x4 x5) := of_host rfl (fun w => first (first (first (first w))))
theorem handover (x0 : Nat) (x1 : Nat) : Statement (.handover x0 x1) := of_event rfl
theorem clientFrameRx (x0 : Nat) (x1 : Nat) (x2 : ClientFrame) : Statement (.clientFrameRx x0 x1 x2) := of_event rfl
theorem gfpFrameRx (x0 : Nat) (x1 : Nat) (x2 : GfpFrame) : Statement (.gfpFrameRx x0 x1 x2) := of_event rfl
theorem carriageBlockRx (x0 : Nat) (x1 : Nat) (x2 : Nat) (x3 : CarriageBlock) : Statement (.carriageBlockRx x0 x1 x2 x3) := of_event rfl
theorem ddPlayout (x0 : Nat) (x1 : Nat) : Statement (.ddPlayout x0 x1) := of_event rfl
theorem mapRateLimit (x0 : Nat) (x1 : Nat) (x2 : Int) (x3 : Nat) : Statement (.mapRateLimit x0 x1 x2 x3) := of_event rfl
theorem mapCtxRead (x0 : Nat) (x1 : HostRef) (x2 : Nat) (x3 : Nat) : Statement (.mapCtxRead x0 x1 x2 x3) := of_host rfl (fun w => first (first w))
theorem mapPageRead (x0 : Nat) (x1 : HostRef) (x2 : PageRead) : Statement (.mapPageRead x0 x1 x2) := of_host rfl (fun w => first w)
theorem mapDdStatus (x0 : Nat) (x1 : HostRef) (x2 : Nat) (x3 : Nat) : Statement (.mapDdStatus x0 x1 x2 x3) := of_host rfl (fun w => first (first w))
theorem ovmIntentAdd (x0 : Nat) (x1 : HostRef) (x2 : Intent) (x3 : OvmObs) : Statement (.ovmIntentAdd x0 x1 x2 x3) := of_host rfl (fun w => first (first w))
theorem ovmIntentWithdraw (x0 : Nat) (x1 : HostRef) (x2 : Nat) : Statement (.ovmIntentWithdraw x0 x1 x2) := of_host rfl (fun w => first w)
theorem ovmPin (x0 : Nat) (x1 : HostRef) (x2 : Nat) (x3 : Nat) : Statement (.ovmPin x0 x1 x2 x3) := of_host rfl (fun w => first (first w))
theorem ovmUnpin (x0 : Nat) (x1 : HostRef) (x2 : Nat) (x3 : Nat) : Statement (.ovmUnpin x0 x1 x2 x3) := of_host rfl (fun w => first (first w))
theorem ovmResultRead (x0 : Nat) (x1 : HostRef) (x2 : Nat) (x3 : Nat) (x4 : Nat) : Statement (.ovmResultRead x0 x1 x2 x3 x4) := of_host rfl (fun w => first (first (first w)))
theorem ovmDefrag (x0 : Nat) (x1 : HostRef) : Statement (.ovmDefrag x0 x1) := of_host rfl (fun w => w)
theorem ovmMovePlan (x0 : Nat) (x1 : OvmObs) (x2 : List Move) : Statement (.ovmMovePlan x0 x1 x2) := of_event rfl
theorem ovmHoldExpired (x0 : Nat) (x1 : Nat) : Statement (.ovmHoldExpired x0 x1) := of_event rfl
theorem stageUnusable (x0 : Nat) (x1 : Nat) (x2 : Nat) : Statement (.stageUnusable x0 x1 x2) := of_event rfl
theorem ovmRestart (x0 : Nat) (x1 : Nat) : Statement (.ovmRestart x0 x1) := of_event rfl
theorem ovmEngines (x0 : Nat) : Statement (.ovmEngines x0) := of_event rfl
theorem unitWakeReady (x0 : Nat) (x1 : Nat) (x2 : Nat) : Statement (.unitWakeReady x0 x1 x2) := of_event rfl
theorem pmSecondBoundary (x0 : Nat) : Statement (.pmSecondBoundary x0) := of_event rfl
theorem pmSecondRead (x0 : Nat) (x1 : Nat) : Statement (.pmSecondRead x0 x1) := of_event rfl
theorem pmBinClosure (x0 : Nat) (x1 : Nat) : Statement (.pmBinClosure x0 x1) := of_event rfl
theorem pmnPointCfg (x0 : Nat) (x1 : HostRef) (x2 : PointCfg) : Statement (.pmnPointCfg x0 x1 x2) := of_host rfl (fun w => first w)
theorem pmnProfileSet (x0 : Nat) (x1 : HostRef) (x2 : ProfileSet) : Statement (.pmnProfileSet x0 x1 x2) := of_host rfl (fun w => first w)
theorem pmnHistRead (x0 : Nat) (x1 : HostRef) (x2 : HistRead) : Statement (.pmnHistRead x0 x1 x2) := of_host rfl (fun w => first w)
theorem pmnPointClear (x0 : Nat) (x1 : HostRef) (x2 : Nat) (x3 : Bool) (x4 : Bool) : Statement (.pmnPointClear x0 x1 x2 x3 x4) := of_host rfl (fun w => first w)
theorem pmnSecRead (x0 : Nat) (x1 : HostRef) (x2 : Nat) (x3 : Nat) : Statement (.pmnSecRead x0 x1 x2 x3) := of_host rfl (fun w => first (first w))
theorem cipRootLoad (x0 : Nat) (x1 : HostRef) (x2 : List Nat) : Statement (.cipRootLoad x0 x1 x2) := of_host rfl (fun w => first w)
theorem cipKeyErase (x0 : Nat) (x1 : HostRef) (x2 : List Nat) : Statement (.cipKeyErase x0 x1 x2) := of_host rfl (fun w => first w)
theorem cipWrapLoad (x0 : Nat) (x1 : HostRef) (x2 : WrapLoad) : Statement (.cipWrapLoad x0 x1 x2) := of_host rfl (fun w => first w)
theorem cipEpochFlip (x0 : Nat) (x1 : HostRef) (x2 : EpochFlip) (x3 : Bool) : Statement (.cipEpochFlip x0 x1 x2 x3) := of_host rfl (fun w => first w)
theorem keyEpochFlip (x0 : Nat) : Statement (.keyEpochFlip x0) := of_event rfl
theorem sealedBlockTx (x0 : Nat) (x1 : Nat) (x2 : List Nat) : Statement (.sealedBlockTx x0 x1 x2) := of_event rfl
theorem sealedBlockRx (x0 : Nat) (x1 : Nat) (x2 : SealedRx) : Statement (.sealedBlockRx x0 x1 x2) := of_event rfl
theorem keyDerived (x0 : Nat) : Statement (.keyDerived x0) := of_event rfl
theorem halfZeroise (x0 : Nat) (x1 : Nat) : Statement (.halfZeroise x0 x1) := of_event rfl
theorem epochReservation (x0 : Nat) (x1 : Bool) : Statement (.epochReservation x0 x1) := of_event rfl
theorem bulkMessage (x0 : Nat) (x1 : BulkMsg) : Statement (.bulkMessage x0 x1) := of_event rfl
theorem bulkOpen (x0 : Nat) (x1 : Nat) : Statement (.bulkOpen x0 x1) := of_event rfl
theorem mateFrameRx (x0 : Nat) (x1 : Nat) (x2 : MateIn) : Statement (.mateFrameRx x0 x1 x2) := of_event rfl
theorem laneRoleAssign (x0 : Nat) : Statement (.laneRoleAssign x0) := of_event rfl
theorem mateListenEnd (x0 : Nat) : Statement (.mateListenEnd x0) := of_event rfl
theorem tallyLeaseRenewal (x0 : Nat) : Statement (.tallyLeaseRenewal x0) := of_event rfl
theorem grant (x0 : Nat) (x1 : MateText) : Statement (.grant x0 x1) := of_event rfl
theorem ack (x0 : Nat) (x1 : MateText) : Statement (.ack x0 x1) := of_event rfl
theorem tallyInWord (x0 : Nat) (x1 : List Bool) : Statement (.tallyInWord x0 x1) := of_event rfl
theorem surrender (x0 : Nat) (x1 : MateText) : Statement (.surrender x0 x1) := of_event rfl
theorem claim (x0 : Nat) (x1 : MateText) : Statement (.claim x0 x1) := of_event rfl
theorem health (x0 : Nat) (x1 : MateText) : Statement (.health x0 x1) := of_event rfl
theorem forward (x0 : Nat) (x1 : MsgHead) (x2 : Fwd) (x3 : Bool) : Statement (.forward x0 x1 x2 x3) := of_event rfl
theorem place (x0 : Nat) (x1 : MsgHead) (x2 : PlaceMsg) : Statement (.place x0 x1 x2) := of_event rfl
theorem placeAck (x0 : Nat) (x1 : MsgHead) (x2 : Nat) (x3 : Nat) : Statement (.placeAck x0 x1 x2 x3) := of_event rfl
theorem ctrlImage (x0 : Nat) (x1 : MsgHead) (x2 : List ImageEntry) : Statement (.ctrlImage x0 x1 x2) := of_event rfl
theorem gate (x0 : Nat) (x1 : MateText) : Statement (.gate x0 x1) := of_event rfl
theorem parGateMiss (x0 : Nat) (x1 : Nat) (x2 : Nat) : Statement (.parGateMiss x0 x1 x2) := of_event rfl
theorem stateData (x0 : Nat) (x1 : MateText) : Statement (.stateData x0 x1) := of_event rfl
theorem stateCommit (x0 : Nat) (x1 : MateText) (x2 : Snapshot) : Statement (.stateCommit x0 x1 x2) := of_event rfl
theorem stateAck (x0 : Nat) (x1 : MateText) : Statement (.stateAck x0 x1) := of_event rfl
theorem drill (x0 : Nat) (x1 : MsgHead) (x2 : Nat) (x3 : Nat) : Statement (.drill x0 x1 x2 x3) := of_event rfl
theorem stateCommitDeadline (x0 : Nat) : Statement (.stateCommitDeadline x0) := of_event rfl
theorem stateCopyEpoch (x0 : Nat) : Statement (.stateCopyEpoch x0) := of_event rfl
theorem parOrphan (x0 : Nat) : Statement (.parOrphan x0) := of_event rfl
theorem leaseViewExpiry (x0 : Nat) : Statement (.leaseViewExpiry x0) := of_event rfl
theorem parPath (x0 : Nat) : Statement (.parPath x0) := of_event rfl
theorem healthReport (x0 : Nat) : Statement (.healthReport x0) := of_event rfl
theorem canaryBist (x0 : Nat) (x1 : BistUnit) (x2 : Bool) (x3 : Bool) : Statement (.canaryBist x0 x1 x2 x3) := of_event rfl
theorem parTake (x0 : Nat) (x1 : HostRef) : Statement (.parTake x0 x1) := of_host rfl (fun w => w)
theorem parSurrender (x0 : Nat) (x1 : HostRef) : Statement (.parSurrender x0 x1) := of_host rfl (fun w => w)
theorem parDrill (x0 : Nat) (x1 : HostRef) (x2 : Nat) : Statement (.parDrill x0 x1 x2) := of_host rfl (fun w => first w)
theorem parClearFault (x0 : Nat) (x1 : HostRef) : Statement (.parClearFault x0 x1) := of_host rfl (fun w => w)
theorem drillAckTimeout (x0 : Nat) : Statement (.drillAckTimeout x0) := of_event rfl
theorem drillClaimTimeout (x0 : Nat) : Statement (.drillClaimTimeout x0) := of_event rfl
theorem governorStep (x0 : Nat) (x1 : GovObs) : Statement (.governorStep x0 x1) := of_event rfl
theorem devPowerUpdate (x0 : Nat) (x1 : List (Nat × Nat)) : Statement (.devPowerUpdate x0 x1) := of_event rfl
theorem slewWindow (x0 : Nat) : Statement (.slewWindow x0) := of_event rfl
theorem detectorArm (x0 : Nat) : Statement (.detectorArm x0) := of_event rfl
theorem feedLoss (x0 : Nat) : Statement (.feedLoss x0) := of_event rfl
theorem lgStageEnd (x0 : Nat) : Statement (.lgStageEnd x0) := of_event rfl
theorem pmbusPoll (x0 : Nat) (x1 : List PmbRead) : Statement (.pmbusPoll x0 x1) := of_event rfl
theorem pmbAlert (x0 : Nat) (x1 : Nat) (x2 : Nat) : Statement (.pmbAlert x0 x1 x2) := of_event rfl
theorem engEpbUpdate (x0 : Nat) : Statement (.engEpbUpdate x0) := of_event rfl
theorem engLastGasp (x0 : Nat) (x1 : HostRef) : Statement (.engLastGasp x0 x1) := of_host rfl (fun w => w)
theorem engPmbXfer (x0 : Nat) (x1 : HostRef) (x2 : PmbXfer) : Statement (.engPmbXfer x0 x1 x2) := of_host rfl (fun w => first w)
theorem engCrashRead (x0 : Nat) (x1 : HostRef) (x2 : Nat) (x3 : Nat) : Statement (.engCrashRead x0 x1 x2 x3) := of_host rfl (fun w => first (first w))
theorem engCrashRelease (x0 : Nat) (x1 : HostRef) (x2 : Nat) : Statement (.engCrashRelease x0 x1 x2) := of_host rfl (fun w => first w)
theorem engCrashPoints (x0 : Nat) (x1 : HostRef) (x2 : Nat) (x3 : Nat) (x4 : List Nat) : Statement (.engCrashPoints x0 x1 x2 x3 x4) := of_host rfl (fun w => first (first (first (first w))))
theorem descriptorFetch (x0 : Nat) (x1 : List (Nat × List (List Nat))) : Statement (.descriptorFetch x0 x1) := of_event rfl
theorem heldEventRelease (x0 : Nat) : Statement (.heldEventRelease x0) := of_event rfl
theorem dqWriteback (x0 : Nat) (x1 : Nat) : Statement (.dqWriteback x0 x1) := of_event rfl
theorem vectorTimer (x0 : Nat) (x1 : Nat) : Statement (.vectorTimer x0 x1) := of_event rfl
theorem pcieLinkChange (x0 : Nat) (x1 : Bool) (x2 : Nat) (x3 : Nat) : Statement (.pcieLinkChange x0 x1 x2 x3) := of_event rfl
theorem pciePowerState (x0 : Nat) (x1 : Bool) (x2 : Bool) : Statement (.pciePowerState x0 x1 x2) := of_event rfl
theorem hifDomainReset (x0 : Nat) : Statement (.hifDomainReset x0) := of_event rfl
theorem hifNop (x0 : Nat) (x1 : HostRef) (x2 : Nat) : Statement (.hifNop x0 x1 x2) := of_host rfl (fun w => first w)
theorem hifDqBind (x0 : Nat) (x1 : HostRef) (x2 : DqBind) : Statement (.hifDqBind x0 x1 x2) := of_host rfl (fun w => first w)
theorem hifDqUnbind (x0 : Nat) (x1 : HostRef) (x2 : Nat) : Statement (.hifDqUnbind x0 x1 x2) := of_host rfl (fun w => first w)
theorem hifSevSet (x0 : Nat) (x1 : HostRef) (x2 : Nat) (x3 : Nat) (x4 : List Nat) : Statement (.hifSevSet x0 x1 x2 x3 x4) := of_host rfl (fun w => first (first (first (first w))))
theorem hifEvqTest (x0 : Nat) (x1 : HostRef) (x2 : Nat) (x3 : Nat) : Statement (.hifEvqTest x0 x1 x2 x3) := of_host rfl (fun w => first (first w))
theorem queuePush (x0 : Nat) (x1 : Nat) (x2 : QWrite) : Statement (.queuePush x0 x1 x2) := of_event rfl
theorem queuePop (x0 : Nat) (x1 : Nat) : Statement (.queuePop x0 x1) := of_event rfl
theorem queueFlush (x0 : Nat) (x1 : Nat) : Statement (.queueFlush x0 x1) := of_event rfl
theorem qDrop (x0 : Nat) (x1 : Nat) : Statement (.qDrop x0 x1) := of_event rfl
theorem qPtrReset (x0 : Nat) (x1 : Nat) (x2 : Nat) (x3 : Nat) (x4 : Nat) : Statement (.qPtrReset x0 x1 x2 x3 x4) := of_event rfl
theorem queueResetEnd (x0 : Nat) (x1 : Nat) : Statement (.queueResetEnd x0 x1) := of_event rfl
theorem qmgQCreate (x0 : Nat) (x1 : HostRef) (x2 : QCreate) : Statement (.qmgQCreate x0 x1 x2) := of_host rfl (fun w => first w)
theorem qmgQDestroy (x0 : Nat) (x1 : HostRef) (x2 : Nat) : Statement (.qmgQDestroy x0 x1 x2) := of_host rfl (fun w => first w)
theorem qmgQSet (x0 : Nat) (x1 : HostRef) (x2 : Nat) (x3 : Nat) (x4 : Nat) (x5 : Bool) (x6 : Bool) : Statement (.qmgQSet x0 x1 x2 x3 x4 x5 x6) := of_host rfl (fun w => first (first (first w)))
theorem qmgQRead (x0 : Nat) (x1 : HostRef) (x2 : Nat) (x3 : Nat) : Statement (.qmgQRead x0 x1 x2 x3) := of_host rfl (fun w => first (first w))
theorem qmgMark (x0 : Nat) (x1 : HostRef) (x2 : Nat) (x3 : Nat) : Statement (.qmgMark x0 x1 x2 x3) := of_host rfl (fun w => first (first w))
theorem qmgRewind (x0 : Nat) (x1 : HostRef) (x2 : Nat) : Statement (.qmgRewind x0 x1 x2) := of_host rfl (fun w => first w)
theorem qmgDropRest (x0 : Nat) (x1 : HostRef) (x2 : Nat) : Statement (.qmgDropRest x0 x1 x2) := of_host rfl (fun w => first w)
theorem qmgQReset (x0 : Nat) (x1 : HostRef) (x2 : Nat) : Statement (.qmgQReset x0 x1 x2) := of_host rfl (fun w => first w)
theorem registerWrite (x0 : Nat) (x1 : Nat) (x2 : Nat) (x3 : Nat) : Statement (.registerWrite x0 x1 x2 x3) := of_event rfl
theorem shadowLoRead (x0 : Nat) (x1 : Nat) : Statement (.shadowLoRead x0 x1) := of_event rfl
theorem glbCommit (x0 : Nat) (x1 : Nat) : Statement (.glbCommit x0 x1) := of_event rfl
theorem commitSnapshot (x0 : Nat) (x1 : Option Nat) : Statement (.commitSnapshot x0 x1) := of_event rfl
theorem commitOutcome (x0 : Nat) : Statement (.commitOutcome x0) := of_event rfl
theorem glbDiscard (x0 : Nat) (x1 : Nat) : Statement (.glbDiscard x0 x1) := of_event rfl
theorem rstReq (x0 : Nat) (x1 : Nat) : Statement (.rstReq x0 x1) := of_event rfl
theorem rstHewerReq (x0 : Nat) (x1 : Nat) (x2 : Nat) : Statement (.rstHewerReq x0 x1 x2) := of_event rfl
theorem resetReleased (x0 : Nat) (x1 : Nat) : Statement (.resetReleased x0 x1) := of_event rfl
theorem triScrub (x0 : Nat) (x1 : List TriError) : Statement (.triScrub x0 x1) := of_event rfl
theorem regCommit (x0 : Nat) (x1 : HostRef) (x2 : Nat) : Statement (.regCommit x0 x1 x2) := of_host rfl (fun w => first w)
theorem regDiscard (x0 : Nat) (x1 : HostRef) (x2 : Nat) : Statement (.regDiscard x0 x1 x2) := of_host rfl (fun w => first w)
theorem assayGranuleCheck (x0 : Nat) (x1 : Granule) : Statement (.assayGranuleCheck x0 x1) := of_event rfl
theorem assayPassLate (x0 : Nat) (x1 : Nat) : Statement (.assayPassLate x0 x1) := of_event rfl
theorem assayCompareStart (x0 : Nat) : Statement (.assayCompareStart x0) := of_event rfl
theorem transferUnitRx (x0 : Nat) (x1 : Nat) (x2 : List Nat) : Statement (.transferUnitRx x0 x1 x2) := of_event rfl
theorem asyCheck (x0 : Nat) (x1 : HostRef) (x2 : Nat) : Statement (.asyCheck x0 x1 x2) := of_host rfl (fun w => first w)
theorem asyLoopback (x0 : Nat) (x1 : HostRef) (x2 : Nat) (x3 : Nat) (x4 : Nat) (x5 : List (List Nat)) (x6 : List (List Nat)) : Statement (.asyLoopback x0 x1 x2 x3 x4 x5 x6) := of_host rfl (fun w => first (first (first (first (first w)))))
theorem secTrngFail (x0 : Nat) (x1 : Nat) (x2 : Bool) : Statement (.secTrngFail x0 x1 x2) := of_event rfl
theorem secChallenge (x0 : Nat) (x1 : HostRef) (x2 : Nat) : Statement (.secChallenge x0 x1 x2) := of_host rfl (fun w => first w)
theorem nonceExpiry (x0 : Nat) : Statement (.nonceExpiry x0) := of_event rfl
theorem secAttest (x0 : Nat) (x1 : HostRef) (x2 : List Nat) (x3 : Nat) : Statement (.secAttest x0 x1 x2 x3) := of_host rfl (fun w => first (first w))
theorem secCertRead (x0 : Nat) (x1 : HostRef) (x2 : Nat) : Statement (.secCertRead x0 x1 x2) := of_host rfl (fun w => first w)
theorem secLifecycle (x0 : Nat) (x1 : HostRef) (x2 : List Nat) : Statement (.secLifecycle x0 x1 x2) := of_host rfl (fun w => first w)
theorem secOpkeyRotate (x0 : Nat) (x1 : HostRef) (x2 : List Nat) : Statement (.secOpkeyRotate x0 x1 x2) := of_host rfl (fun w => first w)
theorem secSvnCommit (x0 : Nat) (x1 : HostRef) : Statement (.secSvnCommit x0 x1) := of_host rfl (fun w => w)
theorem secImageStage (x0 : Nat) (x1 : HostRef) (x2 : Nat) : Statement (.secImageStage x0 x1 x2) := of_host rfl (fun w => first w)
theorem secImageStaged (x0 : Nat) : Statement (.secImageStaged x0) := of_event rfl
theorem secDebugUnlock (x0 : Nat) (x1 : HostRef) (x2 : List Nat) : Statement (.secDebugUnlock x0 x1 x2) := of_host rfl (fun w => first w)
theorem secDebugLock (x0 : Nat) (x1 : HostRef) : Statement (.secDebugLock x0 x1) := of_host rfl (fun w => w)
theorem debugExpiry (x0 : Nat) : Statement (.debugExpiry x0) := of_event rfl
theorem powerOnResetRelease (x0 : Nat) (x1 : BootIn) : Statement (.powerOnResetRelease x0 x1) := of_event rfl
theorem railUndervoltage (x0 : Nat) : Statement (.railUndervoltage x0) := of_event rfl
theorem perstNRelease (x0 : Nat) (x1 : Nat) (x2 : Nat) : Statement (.perstNRelease x0 x1 x2) := of_event rfl
theorem selftestResult (x0 : Nat) (x1 : SelfTest) : Statement (.selftestResult x0 x1) := of_event rfl
theorem configSetStage (x0 : Nat) : Statement (.configSetStage x0) := of_event rfl
theorem configStore (x0 : Nat) (x1 : Bool) : Statement (.configStore x0 x1) := of_event rfl
theorem cfgLoad (x0 : Nat) (x1 : HostRef) (x2 : Nat) (x3 : Nat) (x4 : Bool) : Statement (.cfgLoad x0 x1 x2 x3 x4) := of_host rfl (fun w => first (first w))
theorem cfgStatus (x0 : Nat) (x1 : HostRef) : Statement (.cfgStatus x0 x1) := of_host rfl (fun w => w)
theorem bootLoad (x0 : Nat) (x1 : HostRef) (x2 : Nat) (x3 : Nat) (x4 : List (List Nat)) : Statement (.bootLoad x0 x1 x2 x3 x4) := of_host rfl (fun w => first (first (first w)))
theorem selftestRead (x0 : Nat) (x1 : HostRef) (x2 : Nat) : Statement (.selftestRead x0 x1 x2) := of_host rfl (fun w => first w)
theorem scrubWord (x0 : Nat) (x1 : SramError) : Statement (.scrubWord x0 x1) := of_event rfl
theorem hbmPatrol (x0 : Nat) (x1 : Nat) (x2 : Nat) (x3 : Nat) (x4 : Bool) (x5 : Bool) : Statement (.hbmPatrol x0 x1 x2 x3 x4 x5) := of_event rfl
theorem bkgEpoch (x0 : Nat) (x1 : Nat) (x2 : Nat) (x3 : List Nat) : Statement (.bkgEpoch x0 x1 x2 x3) := of_event rfl
theorem tjUpdate (x0 : Nat) : Statement (.tjUpdate x0) := of_event rfl
theorem thermalFault (x0 : Nat) : Statement (.thermalFault x0) := of_event rfl
theorem ageMeasure (x0 : Nat) (x1 : List (Nat × Nat)) : Statement (.ageMeasure x0 x1) := of_event rfl
theorem lifeRecord (x0 : Nat) : Statement (.lifeRecord x0) := of_event rfl
theorem logAppend (x0 : Nat) : Statement (.logAppend x0) := of_event rfl
theorem bkgAgeRead (x0 : Nat) (x1 : HostRef) (x2 : Nat) : Statement (.bkgAgeRead x0 x1 x2) := of_host rfl (fun w => first w)
theorem bkgLogAppend (x0 : Nat) (x1 : HostRef) (x2 : List Nat) : Statement (.bkgLogAppend x0 x1 x2) := of_host rfl (fun w => first w)
theorem bkgLogRead (x0 : Nat) (x1 : HostRef) (x2 : Nat) (x3 : Nat) (x4 : Nat) : Statement (.bkgLogRead x0 x1 x2 x3 x4) := of_host rfl (fun w => first (first (first w)))
theorem tstArm (x0 : Nat) (x1 : Nat) : Statement (.tstArm x0 x1) := of_event rfl
theorem tstEnded (x0 : Nat) : Statement (.tstEnded x0) := of_event rfl
theorem refInputNoEdge (x0 : Nat) (x1 : Nat) : Statement (.refInputNoEdge x0 x1) := of_event rfl
theorem esmcPduTimeout (x0 : Nat) (x1 : Nat) : Statement (.esmcPduTimeout x0 x1) := of_event rfl
theorem porstNLow (x0 : Nat) : Statement (.porstNLow x0) := of_event rfl
theorem foldedEventSecondEnd (x0 : Nat) : Statement (.foldedEventSecondEnd x0) := of_event rfl

end Sys2Proof.Laws.Family
end

