-- ==== Sys2Proof/Laws/Setters.lean ====
section
/-! SUPPORT. The fields of the state after an entry of a table is replaced, one lemma a field, and the entry itself. -/

set_option Elab.async false

namespace Sys2Proof.Machine

/-! ### setCand -/

@[simp] theorem State.setCand_pending (s : State) (n : Nat) (c : CandSt) : (s.setCand n c).pending = s.pending := rfl
@[simp] theorem State.setCand_time (s : State) (n : Nat) (c : CandSt) : (s.setCand n c).time = s.time := rfl
@[simp] theorem State.setCand_addr (s : State) (n : Nat) (c : CandSt) : (s.setCand n c).addr = s.addr := rfl
@[simp] theorem State.setCand_dco (s : State) (n : Nat) (c : CandSt) : (s.setCand n c).dco = s.dco := rfl
@[simp] theorem State.setCand_freeCtr (s : State) (n : Nat) (c : CandSt) : (s.setCand n c).freeCtr = s.freeCtr := rfl
@[simp] theorem State.setCand_regs (s : State) (n : Nat) (c : CandSt) : (s.setCand n c).regs = s.regs := rfl
@[simp] theorem State.setCand_io (s : State) (n : Nat) (c : CandSt) : (s.setCand n c).io = s.io := rfl
@[simp] theorem State.setCand_shf (s : State) (n : Nat) (c : CandSt) : (s.setCand n c).shf = s.shf := rfl
@[simp] theorem State.setCand_flt (s : State) (n : Nat) (c : CandSt) : (s.setCand n c).flt = s.flt := rfl
@[simp] theorem State.setCand_prt (s : State) (n : Nat) (c : CandSt) : (s.setCand n c).prt = s.prt := rfl
@[simp] theorem State.setCand_rlk (s : State) (n : Nat) (c : CandSt) : (s.setCand n c).rlk = s.rlk := rfl
@[simp] theorem State.setCand_frm (s : State) (n : Nat) (c : CandSt) : (s.setCand n c).frm = s.frm := rfl
@[simp] theorem State.setCand_map (s : State) (n : Nat) (c : CandSt) : (s.setCand n c).map = s.map := rfl
@[simp] theorem State.setCand_ovm (s : State) (n : Nat) (c : CandSt) : (s.setCand n c).ovm = s.ovm := rfl
@[simp] theorem State.setCand_qmg (s : State) (n : Nat) (c : CandSt) : (s.setCand n c).qmg = s.qmg := rfl
@[simp] theorem State.setCand_feeds (s : State) (n : Nat) (c : CandSt) : (s.setCand n c).feeds = s.feeds := rfl
@[simp] theorem State.setCand_pm (s : State) (n : Nat) (c : CandSt) : (s.setCand n c).pm = s.pm := rfl
@[simp] theorem State.setCand_cip (s : State) (n : Nat) (c : CandSt) : (s.setCand n c).cip = s.cip := rfl
@[simp] theorem State.setCand_par (s : State) (n : Nat) (c : CandSt) : (s.setCand n c).par = s.par := rfl
@[simp] theorem State.setCand_eng (s : State) (n : Nat) (c : CandSt) : (s.setCand n c).eng = s.eng := rfl
@[simp] theorem State.setCand_asy (s : State) (n : Nat) (c : CandSt) : (s.setCand n c).asy = s.asy := rfl
@[simp] theorem State.setCand_bkg (s : State) (n : Nat) (c : CandSt) : (s.setCand n c).bkg = s.bkg := rfl
@[simp] theorem State.setCand_sec (s : State) (n : Nat) (c : CandSt) : (s.setCand n c).sec = s.sec := rfl
@[simp] theorem State.setCand_sys (s : State) (n : Nat) (c : CandSt) : (s.setCand n c).sys = s.sys := rfl
@[simp] theorem State.setCand_rd (s : State) (n : Nat) (c : CandSt) (f : Fld) (i : Nat) : (s.setCand n c).rd f i = s.rd f i := rfl
@[simp] theorem State.setCand_rdBit (s : State) (n : Nat) (c : CandSt) (f : Fld) (i : Nat) : (s.setCand n c).rdBit f i = s.rdBit f i := rfl
@[simp] theorem State.setCand_rdInt (s : State) (n : Nat) (c : CandSt) (f : Fld) (i : Nat) : (s.setCand n c).rdInt f i = s.rdInt f i := rfl
theorem State.setCand_cand (s : State) (n : Nat) (c : CandSt) (m : Nat) :
    (s.setCand n c).cand m = if m = n then c else s.cand m := tget_tset _ _ _ _ _
@[simp] theorem State.setCand_cand_same (s : State) (n : Nat) (c : CandSt) : (s.setCand n c).cand n = c := by
  rw [State.setCand_cand, if_pos rfl]

/-! ### setChan -/

@[simp] theorem State.setChan_pending (s : State) (n : Nat) (c : FltChan) : (s.setChan n c).pending = s.pending := rfl
@[simp] theorem State.setChan_time (s : State) (n : Nat) (c : FltChan) : (s.setChan n c).time = s.time := rfl
@[simp] theorem State.setChan_addr (s : State) (n : Nat) (c : FltChan) : (s.setChan n c).addr = s.addr := rfl
@[simp] theorem State.setChan_dco (s : State) (n : Nat) (c : FltChan) : (s.setChan n c).dco = s.dco := rfl
@[simp] theorem State.setChan_freeCtr (s : State) (n : Nat) (c : FltChan) : (s.setChan n c).freeCtr = s.freeCtr := rfl
@[simp] theorem State.setChan_regs (s : State) (n : Nat) (c : FltChan) : (s.setChan n c).regs = s.regs := rfl
@[simp] theorem State.setChan_io (s : State) (n : Nat) (c : FltChan) : (s.setChan n c).io = s.io := rfl
@[simp] theorem State.setChan_shf (s : State) (n : Nat) (c : FltChan) : (s.setChan n c).shf = s.shf := rfl
@[simp] theorem State.setChan_tim (s : State) (n : Nat) (c : FltChan) : (s.setChan n c).tim = s.tim := rfl
@[simp] theorem State.setChan_prt (s : State) (n : Nat) (c : FltChan) : (s.setChan n c).prt = s.prt := rfl
@[simp] theorem State.setChan_rlk (s : State) (n : Nat) (c : FltChan) : (s.setChan n c).rlk = s.rlk := rfl
@[simp] theorem State.setChan_frm (s : State) (n : Nat) (c : FltChan) : (s.setChan n c).frm = s.frm := rfl
@[simp] theorem State.setChan_map (s : State) (n : Nat) (c : FltChan) : (s.setChan n c).map = s.map := rfl
@[simp] theorem State.setChan_ovm (s : State) (n : Nat) (c : FltChan) : (s.setChan n c).ovm = s.ovm := rfl
@[simp] theorem State.setChan_qmg (s : State) (n : Nat) (c : FltChan) : (s.setChan n c).qmg = s.qmg := rfl
@[simp] theorem State.setChan_feeds (s : State) (n : Nat) (c : FltChan) : (s.setChan n c).feeds = s.feeds := rfl
@[simp] theorem State.setChan_pm (s : State) (n : Nat) (c : FltChan) : (s.setChan n c).pm = s.pm := rfl
@[simp] theorem State.setChan_cip (s : State) (n : Nat) (c : FltChan) : (s.setChan n c).cip = s.cip := rfl
@[simp] theorem State.setChan_par (s : State) (n : Nat) (c : FltChan) : (s.setChan n c).par = s.par := rfl
@[simp] theorem State.setChan_eng (s : State) (n : Nat) (c : FltChan) : (s.setChan n c).eng = s.eng := rfl
@[simp] theorem State.setChan_asy (s : State) (n : Nat) (c : FltChan) : (s.setChan n c).asy = s.asy := rfl
@[simp] theorem State.setChan_bkg (s : State) (n : Nat) (c : FltChan) : (s.setChan n c).bkg = s.bkg := rfl
@[simp] theorem State.setChan_sec (s : State) (n : Nat) (c : FltChan) : (s.setChan n c).sec = s.sec := rfl
@[simp] theorem State.setChan_sys (s : State) (n : Nat) (c : FltChan) : (s.setChan n c).sys = s.sys := rfl
@[simp] theorem State.setChan_rd (s : State) (n : Nat) (c : FltChan) (f : Fld) (i : Nat) : (s.setChan n c).rd f i = s.rd f i := rfl
@[simp] theorem State.setChan_rdBit (s : State) (n : Nat) (c : FltChan) (f : Fld) (i : Nat) : (s.setChan n c).rdBit f i = s.rdBit f i := rfl
@[simp] theorem State.setChan_rdInt (s : State) (n : Nat) (c : FltChan) (f : Fld) (i : Nat) : (s.setChan n c).rdInt f i = s.rdInt f i := rfl
theorem State.setChan_chan (s : State) (n : Nat) (c : FltChan) (m : Nat) :
    (s.setChan n c).chan m = if m = n then c else s.chan m := tget_tset _ _ _ _ _
@[simp] theorem State.setChan_chan_same (s : State) (n : Nat) (c : FltChan) : (s.setChan n c).chan n = c := by
  rw [State.setChan_chan, if_pos rfl]

/-! ### setFeed -/

@[simp] theorem State.setFeed_pending (s : State) (n : Nat) (c : FeedSt) : (s.setFeed n c).pending = s.pending := rfl
@[simp] theorem State.setFeed_time (s : State) (n : Nat) (c : FeedSt) : (s.setFeed n c).time = s.time := rfl
@[simp] theorem State.setFeed_addr (s : State) (n : Nat) (c : FeedSt) : (s.setFeed n c).addr = s.addr := rfl
@[simp] theorem State.setFeed_dco (s : State) (n : Nat) (c : FeedSt) : (s.setFeed n c).dco = s.dco := rfl
@[simp] theorem State.setFeed_freeCtr (s : State) (n : Nat) (c : FeedSt) : (s.setFeed n c).freeCtr = s.freeCtr := rfl
@[simp] theorem State.setFeed_regs (s : State) (n : Nat) (c : FeedSt) : (s.setFeed n c).regs = s.regs := rfl
@[simp] theorem State.setFeed_io (s : State) (n : Nat) (c : FeedSt) : (s.setFeed n c).io = s.io := rfl
@[simp] theorem State.setFeed_shf (s : State) (n : Nat) (c : FeedSt) : (s.setFeed n c).shf = s.shf := rfl
@[simp] theorem State.setFeed_tim (s : State) (n : Nat) (c : FeedSt) : (s.setFeed n c).tim = s.tim := rfl
@[simp] theorem State.setFeed_flt (s : State) (n : Nat) (c : FeedSt) : (s.setFeed n c).flt = s.flt := rfl
@[simp] theorem State.setFeed_prt (s : State) (n : Nat) (c : FeedSt) : (s.setFeed n c).prt = s.prt := rfl
@[simp] theorem State.setFeed_rlk (s : State) (n : Nat) (c : FeedSt) : (s.setFeed n c).rlk = s.rlk := rfl
@[simp] theorem State.setFeed_frm (s : State) (n : Nat) (c : FeedSt) : (s.setFeed n c).frm = s.frm := rfl
@[simp] theorem State.setFeed_map (s : State) (n : Nat) (c : FeedSt) : (s.setFeed n c).map = s.map := rfl
@[simp] theorem State.setFeed_ovm (s : State) (n : Nat) (c : FeedSt) : (s.setFeed n c).ovm = s.ovm := rfl
@[simp] theorem State.setFeed_qmg (s : State) (n : Nat) (c : FeedSt) : (s.setFeed n c).qmg = s.qmg := rfl
@[simp] theorem State.setFeed_pm (s : State) (n : Nat) (c : FeedSt) : (s.setFeed n c).pm = s.pm := rfl
@[simp] theorem State.setFeed_cip (s : State) (n : Nat) (c : FeedSt) : (s.setFeed n c).cip = s.cip := rfl
@[simp] theorem State.setFeed_par (s : State) (n : Nat) (c : FeedSt) : (s.setFeed n c).par = s.par := rfl
@[simp] theorem State.setFeed_eng (s : State) (n : Nat) (c : FeedSt) : (s.setFeed n c).eng = s.eng := rfl
@[simp] theorem State.setFeed_asy (s : State) (n : Nat) (c : FeedSt) : (s.setFeed n c).asy = s.asy := rfl
@[simp] theorem State.setFeed_bkg (s : State) (n : Nat) (c : FeedSt) : (s.setFeed n c).bkg = s.bkg := rfl
@[simp] theorem State.setFeed_sec (s : State) (n : Nat) (c : FeedSt) : (s.setFeed n c).sec = s.sec := rfl
@[simp] theorem State.setFeed_sys (s : State) (n : Nat) (c : FeedSt) : (s.setFeed n c).sys = s.sys := rfl
@[simp] theorem State.setFeed_rd (s : State) (n : Nat) (c : FeedSt) (f : Fld) (i : Nat) : (s.setFeed n c).rd f i = s.rd f i := rfl
@[simp] theorem State.setFeed_rdBit (s : State) (n : Nat) (c : FeedSt) (f : Fld) (i : Nat) : (s.setFeed n c).rdBit f i = s.rdBit f i := rfl
@[simp] theorem State.setFeed_rdInt (s : State) (n : Nat) (c : FeedSt) (f : Fld) (i : Nat) : (s.setFeed n c).rdInt f i = s.rdInt f i := rfl
theorem State.setFeed_feed (s : State) (n : Nat) (c : FeedSt) (m : Nat) :
    (s.setFeed n c).feed m = if m = n then c else s.feed m := tget_tset _ _ _ _ _
@[simp] theorem State.setFeed_feed_same (s : State) (n : Nat) (c : FeedSt) : (s.setFeed n c).feed n = c := by
  rw [State.setFeed_feed, if_pos rfl]

/-! ### setFramer -/

@[simp] theorem State.setFramer_pending (s : State) (n : Nat) (c : FrmUnit) : (s.setFramer n c).pending = s.pending := rfl
@[simp] theorem State.setFramer_time (s : State) (n : Nat) (c : FrmUnit) : (s.setFramer n c).time = s.time := rfl
@[simp] theorem State.setFramer_addr (s : State) (n : Nat) (c : FrmUnit) : (s.setFramer n c).addr = s.addr := rfl
@[simp] theorem State.setFramer_dco (s : State) (n : Nat) (c : FrmUnit) : (s.setFramer n c).dco = s.dco := rfl
@[simp] theorem State.setFramer_freeCtr (s : State) (n : Nat) (c : FrmUnit) : (s.setFramer n c).freeCtr = s.freeCtr := rfl
@[simp] theorem State.setFramer_regs (s : State) (n : Nat) (c : FrmUnit) : (s.setFramer n c).regs = s.regs := rfl
@[simp] theorem State.setFramer_io (s : State) (n : Nat) (c : FrmUnit) : (s.setFramer n c).io = s.io := rfl
@[simp] theorem State.setFramer_shf (s : State) (n : Nat) (c : FrmUnit) : (s.setFramer n c).shf = s.shf := rfl
@[simp] theorem State.setFramer_tim (s : State) (n : Nat) (c : FrmUnit) : (s.setFramer n c).tim = s.tim := rfl
@[simp] theorem State.setFramer_flt (s : State) (n : Nat) (c : FrmUnit) : (s.setFramer n c).flt = s.flt := rfl
@[simp] theorem State.setFramer_prt (s : State) (n : Nat) (c : FrmUnit) : (s.setFramer n c).prt = s.prt := rfl
@[simp] theorem State.setFramer_rlk (s : State) (n : Nat) (c : FrmUnit) : (s.setFramer n c).rlk = s.rlk := rfl
@[simp] theorem State.setFramer_map (s : State) (n : Nat) (c : FrmUnit) : (s.setFramer n c).map = s.map := rfl
@[simp] theorem State.setFramer_ovm (s : State) (n : Nat) (c : FrmUnit) : (s.setFramer n c).ovm = s.ovm := rfl
@[simp] theorem State.setFramer_qmg (s : State) (n : Nat) (c : FrmUnit) : (s.setFramer n c).qmg = s.qmg := rfl
@[simp] theorem State.setFramer_feeds (s : State) (n : Nat) (c : FrmUnit) : (s.setFramer n c).feeds = s.feeds := rfl
@[simp] theorem State.setFramer_pm (s : State) (n : Nat) (c : FrmUnit) : (s.setFramer n c).pm = s.pm := rfl
@[simp] theorem State.setFramer_cip (s : State) (n : Nat) (c : FrmUnit) : (s.setFramer n c).cip = s.cip := rfl
@[simp] theorem State.setFramer_par (s : State) (n : Nat) (c : FrmUnit) : (s.setFramer n c).par = s.par := rfl
@[simp] theorem State.setFramer_eng (s : State) (n : Nat) (c : FrmUnit) : (s.setFramer n c).eng = s.eng := rfl
@[simp] theorem State.setFramer_asy (s : State) (n : Nat) (c : FrmUnit) : (s.setFramer n c).asy = s.asy := rfl
@[simp] theorem State.setFramer_bkg (s : State) (n : Nat) (c : FrmUnit) : (s.setFramer n c).bkg = s.bkg := rfl
@[simp] theorem State.setFramer_sec (s : State) (n : Nat) (c : FrmUnit) : (s.setFramer n c).sec = s.sec := rfl
@[simp] theorem State.setFramer_sys (s : State) (n : Nat) (c : FrmUnit) : (s.setFramer n c).sys = s.sys := rfl
@[simp] theorem State.setFramer_rd (s : State) (n : Nat) (c : FrmUnit) (f : Fld) (i : Nat) : (s.setFramer n c).rd f i = s.rd f i := rfl
@[simp] theorem State.setFramer_rdBit (s : State) (n : Nat) (c : FrmUnit) (f : Fld) (i : Nat) : (s.setFramer n c).rdBit f i = s.rdBit f i := rfl
@[simp] theorem State.setFramer_rdInt (s : State) (n : Nat) (c : FrmUnit) (f : Fld) (i : Nat) : (s.setFramer n c).rdInt f i = s.rdInt f i := rfl
theorem State.setFramer_framer (s : State) (n : Nat) (c : FrmUnit) (m : Nat) :
    (s.setFramer n c).framer m = if m = n then c else s.framer m := tget_tset _ _ _ _ _
@[simp] theorem State.setFramer_framer_same (s : State) (n : Nat) (c : FrmUnit) : (s.setFramer n c).framer n = c := by
  rw [State.setFramer_framer, if_pos rfl]

/-! ### setGroup -/

@[simp] theorem State.setGroup_pending (s : State) (n : Nat) (c : ApsGroup) : (s.setGroup n c).pending = s.pending := rfl
@[simp] theorem State.setGroup_time (s : State) (n : Nat) (c : ApsGroup) : (s.setGroup n c).time = s.time := rfl
@[simp] theorem State.setGroup_addr (s : State) (n : Nat) (c : ApsGroup) : (s.setGroup n c).addr = s.addr := rfl
@[simp] theorem State.setGroup_dco (s : State) (n : Nat) (c : ApsGroup) : (s.setGroup n c).dco = s.dco := rfl
@[simp] theorem State.setGroup_freeCtr (s : State) (n : Nat) (c : ApsGroup) : (s.setGroup n c).freeCtr = s.freeCtr := rfl
@[simp] theorem State.setGroup_regs (s : State) (n : Nat) (c : ApsGroup) : (s.setGroup n c).regs = s.regs := rfl
@[simp] theorem State.setGroup_io (s : State) (n : Nat) (c : ApsGroup) : (s.setGroup n c).io = s.io := rfl
@[simp] theorem State.setGroup_shf (s : State) (n : Nat) (c : ApsGroup) : (s.setGroup n c).shf = s.shf := rfl
@[simp] theorem State.setGroup_tim (s : State) (n : Nat) (c : ApsGroup) : (s.setGroup n c).tim = s.tim := rfl
@[simp] theorem State.setGroup_flt (s : State) (n : Nat) (c : ApsGroup) : (s.setGroup n c).flt = s.flt := rfl
@[simp] theorem State.setGroup_prt (s : State) (n : Nat) (c : ApsGroup) : (s.setGroup n c).prt = s.prt := rfl
@[simp] theorem State.setGroup_rlk (s : State) (n : Nat) (c : ApsGroup) : (s.setGroup n c).rlk = s.rlk := rfl
@[simp] theorem State.setGroup_map (s : State) (n : Nat) (c : ApsGroup) : (s.setGroup n c).map = s.map := rfl
@[simp] theorem State.setGroup_ovm (s : State) (n : Nat) (c : ApsGroup) : (s.setGroup n c).ovm = s.ovm := rfl
@[simp] theorem State.setGroup_qmg (s : State) (n : Nat) (c : ApsGroup) : (s.setGroup n c).qmg = s.qmg := rfl
@[simp] theorem State.setGroup_feeds (s : State) (n : Nat) (c : ApsGroup) : (s.setGroup n c).feeds = s.feeds := rfl
@[simp] theorem State.setGroup_pm (s : State) (n : Nat) (c : ApsGroup) : (s.setGroup n c).pm = s.pm := rfl
@[simp] theorem State.setGroup_cip (s : State) (n : Nat) (c : ApsGroup) : (s.setGroup n c).cip = s.cip := rfl
@[simp] theorem State.setGroup_par (s : State) (n : Nat) (c : ApsGroup) : (s.setGroup n c).par = s.par := rfl
@[simp] theorem State.setGroup_eng (s : State) (n : Nat) (c : ApsGroup) : (s.setGroup n c).eng = s.eng := rfl
@[simp] theorem State.setGroup_asy (s : State) (n : Nat) (c : ApsGroup) : (s.setGroup n c).asy = s.asy := rfl
@[simp] theorem State.setGroup_bkg (s : State) (n : Nat) (c : ApsGroup) : (s.setGroup n c).bkg = s.bkg := rfl
@[simp] theorem State.setGroup_sec (s : State) (n : Nat) (c : ApsGroup) : (s.setGroup n c).sec = s.sec := rfl
@[simp] theorem State.setGroup_sys (s : State) (n : Nat) (c : ApsGroup) : (s.setGroup n c).sys = s.sys := rfl
@[simp] theorem State.setGroup_rd (s : State) (n : Nat) (c : ApsGroup) (f : Fld) (i : Nat) : (s.setGroup n c).rd f i = s.rd f i := rfl
@[simp] theorem State.setGroup_rdBit (s : State) (n : Nat) (c : ApsGroup) (f : Fld) (i : Nat) : (s.setGroup n c).rdBit f i = s.rdBit f i := rfl
@[simp] theorem State.setGroup_rdInt (s : State) (n : Nat) (c : ApsGroup) (f : Fld) (i : Nat) : (s.setGroup n c).rdInt f i = s.rdInt f i := rfl

/-! ### setGfp -/

@[simp] theorem State.setGfp_pending (s : State) (n : Nat) (c : GfpSt) : (s.setGfp n c).pending = s.pending := rfl
@[simp] theorem State.setGfp_time (s : State) (n : Nat) (c : GfpSt) : (s.setGfp n c).time = s.time := rfl
@[simp] theorem State.setGfp_addr (s : State) (n : Nat) (c : GfpSt) : (s.setGfp n c).addr = s.addr := rfl
@[simp] theorem State.setGfp_dco (s : State) (n : Nat) (c : GfpSt) : (s.setGfp n c).dco = s.dco := rfl
@[simp] theorem State.setGfp_freeCtr (s : State) (n : Nat) (c : GfpSt) : (s.setGfp n c).freeCtr = s.freeCtr := rfl
@[simp] theorem State.setGfp_regs (s : State) (n : Nat) (c : GfpSt) : (s.setGfp n c).regs = s.regs := rfl
@[simp] theorem State.setGfp_io (s : State) (n : Nat) (c : GfpSt) : (s.setGfp n c).io = s.io := rfl
@[simp] theorem State.setGfp_shf (s : State) (n : Nat) (c : GfpSt) : (s.setGfp n c).shf = s.shf := rfl
@[simp] theorem State.setGfp_tim (s : State) (n : Nat) (c : GfpSt) : (s.setGfp n c).tim = s.tim := rfl
@[simp] theorem State.setGfp_flt (s : State) (n : Nat) (c : GfpSt) : (s.setGfp n c).flt = s.flt := rfl
@[simp] theorem State.setGfp_prt (s : State) (n : Nat) (c : GfpSt) : (s.setGfp n c).prt = s.prt := rfl
@[simp] theorem State.setGfp_rlk (s : State) (n : Nat) (c : GfpSt) : (s.setGfp n c).rlk = s.rlk := rfl
@[simp] theorem State.setGfp_frm (s : State) (n : Nat) (c : GfpSt) : (s.setGfp n c).frm = s.frm := rfl
@[simp] theorem State.setGfp_ovm (s : State) (n : Nat) (c : GfpSt) : (s.setGfp n c).ovm = s.ovm := rfl
@[simp] theorem State.setGfp_qmg (s : State) (n : Nat) (c : GfpSt) : (s.setGfp n c).qmg = s.qmg := rfl
@[simp] theorem State.setGfp_feeds (s : State) (n : Nat) (c : GfpSt) : (s.setGfp n c).feeds = s.feeds := rfl
@[simp] theorem State.setGfp_pm (s : State) (n : Nat) (c : GfpSt) : (s.setGfp n c).pm = s.pm := rfl
@[simp] theorem State.setGfp_cip (s : State) (n : Nat) (c : GfpSt) : (s.setGfp n c).cip = s.cip := rfl
@[simp] theorem State.setGfp_par (s : State) (n : Nat) (c : GfpSt) : (s.setGfp n c).par = s.par := rfl
@[simp] theorem State.setGfp_eng (s : State) (n : Nat) (c : GfpSt) : (s.setGfp n c).eng = s.eng := rfl
@[simp] theorem State.setGfp_asy (s : State) (n : Nat) (c : GfpSt) : (s.setGfp n c).asy = s.asy := rfl
@[simp] theorem State.setGfp_bkg (s : State) (n : Nat) (c : GfpSt) : (s.setGfp n c).bkg = s.bkg := rfl
@[simp] theorem State.setGfp_sec (s : State) (n : Nat) (c : GfpSt) : (s.setGfp n c).sec = s.sec := rfl
@[simp] theorem State.setGfp_sys (s : State) (n : Nat) (c : GfpSt) : (s.setGfp n c).sys = s.sys := rfl
@[simp] theorem State.setGfp_rd (s : State) (n : Nat) (c : GfpSt) (f : Fld) (i : Nat) : (s.setGfp n c).rd f i = s.rd f i := rfl
@[simp] theorem State.setGfp_rdBit (s : State) (n : Nat) (c : GfpSt) (f : Fld) (i : Nat) : (s.setGfp n c).rdBit f i = s.rdBit f i := rfl
@[simp] theorem State.setGfp_rdInt (s : State) (n : Nat) (c : GfpSt) (f : Fld) (i : Nat) : (s.setGfp n c).rdInt f i = s.rdInt f i := rfl
theorem State.setGfp_gfp (s : State) (n : Nat) (c : GfpSt) (m : Nat) :
    (s.setGfp n c).gfp m = if m = n then c else s.gfp m := tget_tset _ _ _ _ _
@[simp] theorem State.setGfp_gfp_same (s : State) (n : Nat) (c : GfpSt) : (s.setGfp n c).gfp n = c := by
  rw [State.setGfp_gfp, if_pos rfl]

/-! ### setHitless -/

@[simp] theorem State.setHitless_pending (s : State) (n : Nat) (c : HitlessSt) : (s.setHitless n c).pending = s.pending := rfl
@[simp] theorem State.setHitless_time (s : State) (n : Nat) (c : HitlessSt) : (s.setHitless n c).time = s.time := rfl
@[simp] theorem State.setHitless_addr (s : State) (n : Nat) (c : HitlessSt) : (s.setHitless n c).addr = s.addr := rfl
@[simp] theorem State.setHitless_dco (s : State) (n : Nat) (c : HitlessSt) : (s.setHitless n c).dco = s.dco := rfl
@[simp] theorem State.setHitless_freeCtr (s : State) (n : Nat) (c : HitlessSt) : (s.setHitless n c).freeCtr = s.freeCtr := rfl
@[simp] theorem State.setHitless_regs (s : State) (n : Nat) (c : HitlessSt) : (s.setHitless n c).regs = s.regs := rfl
@[simp] theorem State.setHitless_io (s : State) (n : Nat) (c : HitlessSt) : (s.setHitless n c).io = s.io := rfl
@[simp] theorem State.setHitless_shf (s : State) (n : Nat) (c : HitlessSt) : (s.setHitless n c).shf = s.shf := rfl
@[simp] theorem State.setHitless_tim (s : State) (n : Nat) (c : HitlessSt) : (s.setHitless n c).tim = s.tim := rfl
@[simp] theorem State.setHitless_flt (s : State) (n : Nat) (c : HitlessSt) : (s.setHitless n c).flt = s.flt := rfl
@[simp] theorem State.setHitless_prt (s : State) (n : Nat) (c : HitlessSt) : (s.setHitless n c).prt = s.prt := rfl
@[simp] theorem State.setHitless_rlk (s : State) (n : Nat) (c : HitlessSt) : (s.setHitless n c).rlk = s.rlk := rfl
@[simp] theorem State.setHitless_frm (s : State) (n : Nat) (c : HitlessSt) : (s.setHitless n c).frm = s.frm := rfl
@[simp] theorem State.setHitless_ovm (s : State) (n : Nat) (c : HitlessSt) : (s.setHitless n c).ovm = s.ovm := rfl
@[simp] theorem State.setHitless_qmg (s : State) (n : Nat) (c : HitlessSt) : (s.setHitless n c).qmg = s.qmg := rfl
@[simp] theorem State.setHitless_feeds (s : State) (n : Nat) (c : HitlessSt) : (s.setHitless n c).feeds = s.feeds := rfl
@[simp] theorem State.setHitless_pm (s : State) (n : Nat) (c : HitlessSt) : (s.setHitless n c).pm = s.pm := rfl
@[simp] theorem State.setHitless_cip (s : State) (n : Nat) (c : HitlessSt) : (s.setHitless n c).cip = s.cip := rfl
@[simp] theorem State.setHitless_par (s : State) (n : Nat) (c : HitlessSt) : (s.setHitless n c).par = s.par := rfl
@[simp] theorem State.setHitless_eng (s : State) (n : Nat) (c : HitlessSt) : (s.setHitless n c).eng = s.eng := rfl
@[simp] theorem State.setHitless_asy (s : State) (n : Nat) (c : HitlessSt) : (s.setHitless n c).asy = s.asy := rfl
@[simp] theorem State.setHitless_bkg (s : State) (n : Nat) (c : HitlessSt) : (s.setHitless n c).bkg = s.bkg := rfl
@[simp] theorem State.setHitless_sec (s : State) (n : Nat) (c : HitlessSt) : (s.setHitless n c).sec = s.sec := rfl
@[simp] theorem State.setHitless_sys (s : State) (n : Nat) (c : HitlessSt) : (s.setHitless n c).sys = s.sys := rfl
@[simp] theorem State.setHitless_rd (s : State) (n : Nat) (c : HitlessSt) (f : Fld) (i : Nat) : (s.setHitless n c).rd f i = s.rd f i := rfl
@[simp] theorem State.setHitless_rdBit (s : State) (n : Nat) (c : HitlessSt) (f : Fld) (i : Nat) : (s.setHitless n c).rdBit f i = s.rdBit f i := rfl
@[simp] theorem State.setHitless_rdInt (s : State) (n : Nat) (c : HitlessSt) (f : Fld) (i : Nat) : (s.setHitless n c).rdInt f i = s.rdInt f i := rfl

/-! ### setMateLane -/

@[simp] theorem State.setMateLane_pending (s : State) (n : Nat) (c : MateLane) : (s.setMateLane n c).pending = s.pending := rfl
@[simp] theorem State.setMateLane_time (s : State) (n : Nat) (c : MateLane) : (s.setMateLane n c).time = s.time := rfl
@[simp] theorem State.setMateLane_addr (s : State) (n : Nat) (c : MateLane) : (s.setMateLane n c).addr = s.addr := rfl
@[simp] theorem State.setMateLane_dco (s : State) (n : Nat) (c : MateLane) : (s.setMateLane n c).dco = s.dco := rfl
@[simp] theorem State.setMateLane_freeCtr (s : State) (n : Nat) (c : MateLane) : (s.setMateLane n c).freeCtr = s.freeCtr := rfl
@[simp] theorem State.setMateLane_regs (s : State) (n : Nat) (c : MateLane) : (s.setMateLane n c).regs = s.regs := rfl
@[simp] theorem State.setMateLane_io (s : State) (n : Nat) (c : MateLane) : (s.setMateLane n c).io = s.io := rfl
@[simp] theorem State.setMateLane_shf (s : State) (n : Nat) (c : MateLane) : (s.setMateLane n c).shf = s.shf := rfl
@[simp] theorem State.setMateLane_tim (s : State) (n : Nat) (c : MateLane) : (s.setMateLane n c).tim = s.tim := rfl
@[simp] theorem State.setMateLane_flt (s : State) (n : Nat) (c : MateLane) : (s.setMateLane n c).flt = s.flt := rfl
@[simp] theorem State.setMateLane_prt (s : State) (n : Nat) (c : MateLane) : (s.setMateLane n c).prt = s.prt := rfl
@[simp] theorem State.setMateLane_rlk (s : State) (n : Nat) (c : MateLane) : (s.setMateLane n c).rlk = s.rlk := rfl
@[simp] theorem State.setMateLane_frm (s : State) (n : Nat) (c : MateLane) : (s.setMateLane n c).frm = s.frm := rfl
@[simp] theorem State.setMateLane_map (s : State) (n : Nat) (c : MateLane) : (s.setMateLane n c).map = s.map := rfl
@[simp] theorem State.setMateLane_ovm (s : State) (n : Nat) (c : MateLane) : (s.setMateLane n c).ovm = s.ovm := rfl
@[simp] theorem State.setMateLane_qmg (s : State) (n : Nat) (c : MateLane) : (s.setMateLane n c).qmg = s.qmg := rfl
@[simp] theorem State.setMateLane_feeds (s : State) (n : Nat) (c : MateLane) : (s.setMateLane n c).feeds = s.feeds := rfl
@[simp] theorem State.setMateLane_pm (s : State) (n : Nat) (c : MateLane) : (s.setMateLane n c).pm = s.pm := rfl
@[simp] theorem State.setMateLane_cip (s : State) (n : Nat) (c : MateLane) : (s.setMateLane n c).cip = s.cip := rfl
@[simp] theorem State.setMateLane_eng (s : State) (n : Nat) (c : MateLane) : (s.setMateLane n c).eng = s.eng := rfl
@[simp] theorem State.setMateLane_asy (s : State) (n : Nat) (c : MateLane) : (s.setMateLane n c).asy = s.asy := rfl
@[simp] theorem State.setMateLane_bkg (s : State) (n : Nat) (c : MateLane) : (s.setMateLane n c).bkg = s.bkg := rfl
@[simp] theorem State.setMateLane_sec (s : State) (n : Nat) (c : MateLane) : (s.setMateLane n c).sec = s.sec := rfl
@[simp] theorem State.setMateLane_sys (s : State) (n : Nat) (c : MateLane) : (s.setMateLane n c).sys = s.sys := rfl
@[simp] theorem State.setMateLane_rd (s : State) (n : Nat) (c : MateLane) (f : Fld) (i : Nat) : (s.setMateLane n c).rd f i = s.rd f i := rfl
@[simp] theorem State.setMateLane_rdBit (s : State) (n : Nat) (c : MateLane) (f : Fld) (i : Nat) : (s.setMateLane n c).rdBit f i = s.rdBit f i := rfl
@[simp] theorem State.setMateLane_rdInt (s : State) (n : Nat) (c : MateLane) (f : Fld) (i : Nat) : (s.setMateLane n c).rdInt f i = s.rdInt f i := rfl
theorem State.setMateLane_mateLane (s : State) (n : Nat) (c : MateLane) (m : Nat) :
    (s.setMateLane n c).mateLane m = if m = n then c else s.mateLane m := tget_tset _ _ _ _ _
@[simp] theorem State.setMateLane_mateLane_same (s : State) (n : Nat) (c : MateLane) : (s.setMateLane n c).mateLane n = c := by
  rw [State.setMateLane_mateLane, if_pos rfl]

/-! ### setPoint -/

@[simp] theorem State.setPoint_pending (s : State) (n : Nat) (c : PmPoint) : (s.setPoint n c).pending = s.pending := rfl
@[simp] theorem State.setPoint_time (s : State) (n : Nat) (c : PmPoint) : (s.setPoint n c).time = s.time := rfl
@[simp] theorem State.setPoint_addr (s : State) (n : Nat) (c : PmPoint) : (s.setPoint n c).addr = s.addr := rfl
@[simp] theorem State.setPoint_dco (s : State) (n : Nat) (c : PmPoint) : (s.setPoint n c).dco = s.dco := rfl
@[simp] theorem State.setPoint_freeCtr (s : State) (n : Nat) (c : PmPoint) : (s.setPoint n c).freeCtr = s.freeCtr := rfl
@[simp] theorem State.setPoint_regs (s : State) (n : Nat) (c : PmPoint) : (s.setPoint n c).regs = s.regs := rfl
@[simp] theorem State.setPoint_io (s : State) (n : Nat) (c : PmPoint) : (s.setPoint n c).io = s.io := rfl
@[simp] theorem State.setPoint_shf (s : State) (n : Nat) (c : PmPoint) : (s.setPoint n c).shf = s.shf := rfl
@[simp] theorem State.setPoint_tim (s : State) (n : Nat) (c : PmPoint) : (s.setPoint n c).tim = s.tim := rfl
@[simp] theorem State.setPoint_flt (s : State) (n : Nat) (c : PmPoint) : (s.setPoint n c).flt = s.flt := rfl
@[simp] theorem State.setPoint_prt (s : State) (n : Nat) (c : PmPoint) : (s.setPoint n c).prt = s.prt := rfl
@[simp] theorem State.setPoint_rlk (s : State) (n : Nat) (c : PmPoint) : (s.setPoint n c).rlk = s.rlk := rfl
@[simp] theorem State.setPoint_frm (s : State) (n : Nat) (c : PmPoint) : (s.setPoint n c).frm = s.frm := rfl
@[simp] theorem State.setPoint_map (s : State) (n : Nat) (c : PmPoint) : (s.setPoint n c).map = s.map := rfl
@[simp] theorem State.setPoint_ovm (s : State) (n : Nat) (c : PmPoint) : (s.setPoint n c).ovm = s.ovm := rfl
@[simp] theorem State.setPoint_qmg (s : State) (n : Nat) (c : PmPoint) : (s.setPoint n c).qmg = s.qmg := rfl
@[simp] theorem State.setPoint_feeds (s : State) (n : Nat) (c : PmPoint) : (s.setPoint n c).feeds = s.feeds := rfl
@[simp] theorem State.setPoint_cip (s : State) (n : Nat) (c : PmPoint) : (s.setPoint n c).cip = s.cip := rfl
@[simp] theorem State.setPoint_par (s : State) (n : Nat) (c : PmPoint) : (s.setPoint n c).par = s.par := rfl
@[simp] theorem State.setPoint_eng (s : State) (n : Nat) (c : PmPoint) : (s.setPoint n c).eng = s.eng := rfl
@[simp] theorem State.setPoint_asy (s : State) (n : Nat) (c : PmPoint) : (s.setPoint n c).asy = s.asy := rfl
@[simp] theorem State.setPoint_bkg (s : State) (n : Nat) (c : PmPoint) : (s.setPoint n c).bkg = s.bkg := rfl
@[simp] theorem State.setPoint_sec (s : State) (n : Nat) (c : PmPoint) : (s.setPoint n c).sec = s.sec := rfl
@[simp] theorem State.setPoint_sys (s : State) (n : Nat) (c : PmPoint) : (s.setPoint n c).sys = s.sys := rfl
@[simp] theorem State.setPoint_rd (s : State) (n : Nat) (c : PmPoint) (f : Fld) (i : Nat) : (s.setPoint n c).rd f i = s.rd f i := rfl
@[simp] theorem State.setPoint_rdBit (s : State) (n : Nat) (c : PmPoint) (f : Fld) (i : Nat) : (s.setPoint n c).rdBit f i = s.rdBit f i := rfl
@[simp] theorem State.setPoint_rdInt (s : State) (n : Nat) (c : PmPoint) (f : Fld) (i : Nat) : (s.setPoint n c).rdInt f i = s.rdInt f i := rfl
theorem State.setPoint_point (s : State) (n : Nat) (c : PmPoint) (m : Nat) :
    (s.setPoint n c).point m = if m = n then c else s.point m := tget_tset _ _ _ _ _
@[simp] theorem State.setPoint_point_same (s : State) (n : Nat) (c : PmPoint) : (s.setPoint n c).point n = c := by
  rw [State.setPoint_point, if_pos rfl]

/-! ### setTrb -/

@[simp] theorem State.setTrb_pending (s : State) (n : Nat) (c : TrbSt) : (s.setTrb n c).pending = s.pending := rfl
@[simp] theorem State.setTrb_time (s : State) (n : Nat) (c : TrbSt) : (s.setTrb n c).time = s.time := rfl
@[simp] theorem State.setTrb_addr (s : State) (n : Nat) (c : TrbSt) : (s.setTrb n c).addr = s.addr := rfl
@[simp] theorem State.setTrb_dco (s : State) (n : Nat) (c : TrbSt) : (s.setTrb n c).dco = s.dco := rfl
@[simp] theorem State.setTrb_freeCtr (s : State) (n : Nat) (c : TrbSt) : (s.setTrb n c).freeCtr = s.freeCtr := rfl
@[simp] theorem State.setTrb_regs (s : State) (n : Nat) (c : TrbSt) : (s.setTrb n c).regs = s.regs := rfl
@[simp] theorem State.setTrb_io (s : State) (n : Nat) (c : TrbSt) : (s.setTrb n c).io = s.io := rfl
@[simp] theorem State.setTrb_shf (s : State) (n : Nat) (c : TrbSt) : (s.setTrb n c).shf = s.shf := rfl
@[simp] theorem State.setTrb_tim (s : State) (n : Nat) (c : TrbSt) : (s.setTrb n c).tim = s.tim := rfl
@[simp] theorem State.setTrb_flt (s : State) (n : Nat) (c : TrbSt) : (s.setTrb n c).flt = s.flt := rfl
@[simp] theorem State.setTrb_rlk (s : State) (n : Nat) (c : TrbSt) : (s.setTrb n c).rlk = s.rlk := rfl
@[simp] theorem State.setTrb_frm (s : State) (n : Nat) (c : TrbSt) : (s.setTrb n c).frm = s.frm := rfl
@[simp] theorem State.setTrb_map (s : State) (n : Nat) (c : TrbSt) : (s.setTrb n c).map = s.map := rfl
@[simp] theorem State.setTrb_ovm (s : State) (n : Nat) (c : TrbSt) : (s.setTrb n c).ovm = s.ovm := rfl
@[simp] theorem State.setTrb_qmg (s : State) (n : Nat) (c : TrbSt) : (s.setTrb n c).qmg = s.qmg := rfl
@[simp] theorem State.setTrb_feeds (s : State) (n : Nat) (c : TrbSt) : (s.setTrb n c).feeds = s.feeds := rfl
@[simp] theorem State.setTrb_pm (s : State) (n : Nat) (c : TrbSt) : (s.setTrb n c).pm = s.pm := rfl
@[simp] theorem State.setTrb_cip (s : State) (n : Nat) (c : TrbSt) : (s.setTrb n c).cip = s.cip := rfl
@[simp] theorem State.setTrb_par (s : State) (n : Nat) (c : TrbSt) : (s.setTrb n c).par = s.par := rfl
@[simp] theorem State.setTrb_eng (s : State) (n : Nat) (c : TrbSt) : (s.setTrb n c).eng = s.eng := rfl
@[simp] theorem State.setTrb_asy (s : State) (n : Nat) (c : TrbSt) : (s.setTrb n c).asy = s.asy := rfl
@[simp] theorem State.setTrb_bkg (s : State) (n : Nat) (c : TrbSt) : (s.setTrb n c).bkg = s.bkg := rfl
@[simp] theorem State.setTrb_sec (s : State) (n : Nat) (c : TrbSt) : (s.setTrb n c).sec = s.sec := rfl
@[simp] theorem State.setTrb_sys (s : State) (n : Nat) (c : TrbSt) : (s.setTrb n c).sys = s.sys := rfl
@[simp] theorem State.setTrb_rd (s : State) (n : Nat) (c : TrbSt) (f : Fld) (i : Nat) : (s.setTrb n c).rd f i = s.rd f i := rfl
@[simp] theorem State.setTrb_rdBit (s : State) (n : Nat) (c : TrbSt) (f : Fld) (i : Nat) : (s.setTrb n c).rdBit f i = s.rdBit f i := rfl
@[simp] theorem State.setTrb_rdInt (s : State) (n : Nat) (c : TrbSt) (f : Fld) (i : Nat) : (s.setTrb n c).rdInt f i = s.rdInt f i := rfl
theorem State.setTrb_trb (s : State) (n : Nat) (c : TrbSt) (m : Nat) :
    (s.setTrb n c).trb m = if m = n then c else s.trb m := tget_tset _ _ _ _ _
@[simp] theorem State.setTrb_trb_same (s : State) (n : Nat) (c : TrbSt) : (s.setTrb n c).trb n = c := by
  rw [State.setTrb_trb, if_pos rfl]

/-! ### setQueue -/

@[simp] theorem State.setQueue_pending (s : State) (n : Nat) (c : QSt) : (s.setQueue n c).pending = s.pending := rfl
@[simp] theorem State.setQueue_time (s : State) (n : Nat) (c : QSt) : (s.setQueue n c).time = s.time := rfl
@[simp] theorem State.setQueue_addr (s : State) (n : Nat) (c : QSt) : (s.setQueue n c).addr = s.addr := rfl
@[simp] theorem State.setQueue_dco (s : State) (n : Nat) (c : QSt) : (s.setQueue n c).dco = s.dco := rfl
@[simp] theorem State.setQueue_freeCtr (s : State) (n : Nat) (c : QSt) : (s.setQueue n c).freeCtr = s.freeCtr := rfl
@[simp] theorem State.setQueue_regs (s : State) (n : Nat) (c : QSt) : (s.setQueue n c).regs = s.regs := rfl
@[simp] theorem State.setQueue_io (s : State) (n : Nat) (c : QSt) : (s.setQueue n c).io = s.io := rfl
@[simp] theorem State.setQueue_shf (s : State) (n : Nat) (c : QSt) : (s.setQueue n c).shf = s.shf := rfl
@[simp] theorem State.setQueue_tim (s : State) (n : Nat) (c : QSt) : (s.setQueue n c).tim = s.tim := rfl
@[simp] theorem State.setQueue_flt (s : State) (n : Nat) (c : QSt) : (s.setQueue n c).flt = s.flt := rfl
@[simp] theorem State.setQueue_prt (s : State) (n : Nat) (c : QSt) : (s.setQueue n c).prt = s.prt := rfl
@[simp] theorem State.setQueue_rlk (s : State) (n : Nat) (c : QSt) : (s.setQueue n c).rlk = s.rlk := rfl
@[simp] theorem State.setQueue_frm (s : State) (n : Nat) (c : QSt) : (s.setQueue n c).frm = s.frm := rfl
@[simp] theorem State.setQueue_map (s : State) (n : Nat) (c : QSt) : (s.setQueue n c).map = s.map := rfl
@[simp] theorem State.setQueue_ovm (s : State) (n : Nat) (c : QSt) : (s.setQueue n c).ovm = s.ovm := rfl
@[simp] theorem State.setQueue_feeds (s : State) (n : Nat) (c : QSt) : (s.setQueue n c).feeds = s.feeds := rfl
@[simp] theorem State.setQueue_pm (s : State) (n : Nat) (c : QSt) : (s.setQueue n c).pm = s.pm := rfl
@[simp] theorem State.setQueue_cip (s : State) (n : Nat) (c : QSt) : (s.setQueue n c).cip = s.cip := rfl
@[simp] theorem State.setQueue_par (s : State) (n : Nat) (c : QSt) : (s.setQueue n c).par = s.par := rfl
@[simp] theorem State.setQueue_eng (s : State) (n : Nat) (c : QSt) : (s.setQueue n c).eng = s.eng := rfl
@[simp] theorem State.setQueue_asy (s : State) (n : Nat) (c : QSt) : (s.setQueue n c).asy = s.asy := rfl
@[simp] theorem State.setQueue_bkg (s : State) (n : Nat) (c : QSt) : (s.setQueue n c).bkg = s.bkg := rfl
@[simp] theorem State.setQueue_sec (s : State) (n : Nat) (c : QSt) : (s.setQueue n c).sec = s.sec := rfl
@[simp] theorem State.setQueue_sys (s : State) (n : Nat) (c : QSt) : (s.setQueue n c).sys = s.sys := rfl
@[simp] theorem State.setQueue_rd (s : State) (n : Nat) (c : QSt) (f : Fld) (i : Nat) : (s.setQueue n c).rd f i = s.rd f i := rfl
@[simp] theorem State.setQueue_rdBit (s : State) (n : Nat) (c : QSt) (f : Fld) (i : Nat) : (s.setQueue n c).rdBit f i = s.rdBit f i := rfl
@[simp] theorem State.setQueue_rdInt (s : State) (n : Nat) (c : QSt) (f : Fld) (i : Nat) : (s.setQueue n c).rdInt f i = s.rdInt f i := rfl
theorem State.setQueue_queue (s : State) (n : Nat) (c : QSt) (m : Nat) :
    (s.setQueue n c).queue m = if m = n then some c else s.queue m := tfind_tset _ _ _ _

/-! ### setDq -/

@[simp] theorem State.setDq_pending (s : State) (n : Nat) (c : DqSt) : (s.setDq n c).pending = s.pending := rfl
@[simp] theorem State.setDq_time (s : State) (n : Nat) (c : DqSt) : (s.setDq n c).time = s.time := rfl
@[simp] theorem State.setDq_addr (s : State) (n : Nat) (c : DqSt) : (s.setDq n c).addr = s.addr := rfl
@[simp] theorem State.setDq_dco (s : State) (n : Nat) (c : DqSt) : (s.setDq n c).dco = s.dco := rfl
@[simp] theorem State.setDq_freeCtr (s : State) (n : Nat) (c : DqSt) : (s.setDq n c).freeCtr = s.freeCtr := rfl
@[simp] theorem State.setDq_regs (s : State) (n : Nat) (c : DqSt) : (s.setDq n c).regs = s.regs := rfl
@[simp] theorem State.setDq_io (s : State) (n : Nat) (c : DqSt) : (s.setDq n c).io = s.io := rfl
@[simp] theorem State.setDq_shf (s : State) (n : Nat) (c : DqSt) : (s.setDq n c).shf = s.shf := rfl
@[simp] theorem State.setDq_tim (s : State) (n : Nat) (c : DqSt) : (s.setDq n c).tim = s.tim := rfl
@[simp] theorem State.setDq_flt (s : State) (n : Nat) (c : DqSt) : (s.setDq n c).flt = s.flt := rfl
@[simp] theorem State.setDq_prt (s : State) (n : Nat) (c : DqSt) : (s.setDq n c).prt = s.prt := rfl
@[simp] theorem State.setDq_rlk (s : State) (n : Nat) (c : DqSt) : (s.setDq n c).rlk = s.rlk := rfl
@[simp] theorem State.setDq_frm (s : State) (n : Nat) (c : DqSt) : (s.setDq n c).frm = s.frm := rfl
@[simp] theorem State.setDq_map (s : State) (n : Nat) (c : DqSt) : (s.setDq n c).map = s.map := rfl
@[simp] theorem State.setDq_ovm (s : State) (n : Nat) (c : DqSt) : (s.setDq n c).ovm = s.ovm := rfl
@[simp] theorem State.setDq_feeds (s : State) (n : Nat) (c : DqSt) : (s.setDq n c).feeds = s.feeds := rfl
@[simp] theorem State.setDq_pm (s : State) (n : Nat) (c : DqSt) : (s.setDq n c).pm = s.pm := rfl
@[simp] theorem State.setDq_cip (s : State) (n : Nat) (c : DqSt) : (s.setDq n c).cip = s.cip := rfl
@[simp] theorem State.setDq_par (s : State) (n : Nat) (c : DqSt) : (s.setDq n c).par = s.par := rfl
@[simp] theorem State.setDq_eng (s : State) (n : Nat) (c : DqSt) : (s.setDq n c).eng = s.eng := rfl
@[simp] theorem State.setDq_asy (s : State) (n : Nat) (c : DqSt) : (s.setDq n c).asy = s.asy := rfl
@[simp] theorem State.setDq_bkg (s : State) (n : Nat) (c : DqSt) : (s.setDq n c).bkg = s.bkg := rfl
@[simp] theorem State.setDq_sec (s : State) (n : Nat) (c : DqSt) : (s.setDq n c).sec = s.sec := rfl
@[simp] theorem State.setDq_sys (s : State) (n : Nat) (c : DqSt) : (s.setDq n c).sys = s.sys := rfl
@[simp] theorem State.setDq_rd (s : State) (n : Nat) (c : DqSt) (f : Fld) (i : Nat) : (s.setDq n c).rd f i = s.rd f i := rfl
@[simp] theorem State.setDq_rdBit (s : State) (n : Nat) (c : DqSt) (f : Fld) (i : Nat) : (s.setDq n c).rdBit f i = s.rdBit f i := rfl
@[simp] theorem State.setDq_rdInt (s : State) (n : Nat) (c : DqSt) (f : Fld) (i : Nat) : (s.setDq n c).rdInt f i = s.rdInt f i := rfl

/-! ### setRlkLane -/

@[simp] theorem State.setRlkLane_pending (s : State) (n : Nat) (c : RlkLane) : (s.setRlkLane n c).pending = s.pending := rfl
@[simp] theorem State.setRlkLane_time (s : State) (n : Nat) (c : RlkLane) : (s.setRlkLane n c).time = s.time := rfl
@[simp] theorem State.setRlkLane_addr (s : State) (n : Nat) (c : RlkLane) : (s.setRlkLane n c).addr = s.addr := rfl
@[simp] theorem State.setRlkLane_dco (s : State) (n : Nat) (c : RlkLane) : (s.setRlkLane n c).dco = s.dco := rfl
@[simp] theorem State.setRlkLane_freeCtr (s : State) (n : Nat) (c : RlkLane) : (s.setRlkLane n c).freeCtr = s.freeCtr := rfl
@[simp] theorem State.setRlkLane_regs (s : State) (n : Nat) (c : RlkLane) : (s.setRlkLane n c).regs = s.regs := rfl
@[simp] theorem State.setRlkLane_io (s : State) (n : Nat) (c : RlkLane) : (s.setRlkLane n c).io = s.io := rfl
@[simp] theorem State.setRlkLane_shf (s : State) (n : Nat) (c : RlkLane) : (s.setRlkLane n c).shf = s.shf := rfl
@[simp] theorem State.setRlkLane_tim (s : State) (n : Nat) (c : RlkLane) : (s.setRlkLane n c).tim = s.tim := rfl
@[simp] theorem State.setRlkLane_flt (s : State) (n : Nat) (c : RlkLane) : (s.setRlkLane n c).flt = s.flt := rfl
@[simp] theorem State.setRlkLane_prt (s : State) (n : Nat) (c : RlkLane) : (s.setRlkLane n c).prt = s.prt := rfl
@[simp] theorem State.setRlkLane_frm (s : State) (n : Nat) (c : RlkLane) : (s.setRlkLane n c).frm = s.frm := rfl
@[simp] theorem State.setRlkLane_map (s : State) (n : Nat) (c : RlkLane) : (s.setRlkLane n c).map = s.map := rfl
@[simp] theorem State.setRlkLane_ovm (s : State) (n : Nat) (c : RlkLane) : (s.setRlkLane n c).ovm = s.ovm := rfl
@[simp] theorem State.setRlkLane_qmg (s : State) (n : Nat) (c : RlkLane) : (s.setRlkLane n c).qmg = s.qmg := rfl
@[simp] theorem State.setRlkLane_feeds (s : State) (n : Nat) (c : RlkLane) : (s.setRlkLane n c).feeds = s.feeds := rfl
@[simp] theorem State.setRlkLane_pm (s : State) (n : Nat) (c : RlkLane) : (s.setRlkLane n c).pm = s.pm := rfl
@[simp] theorem State.setRlkLane_cip (s : State) (n : Nat) (c : RlkLane) : (s.setRlkLane n c).cip = s.cip := rfl
@[simp] theorem State.setRlkLane_par (s : State) (n : Nat) (c : RlkLane) : (s.setRlkLane n c).par = s.par := rfl
@[simp] theorem State.setRlkLane_eng (s : State) (n : Nat) (c : RlkLane) : (s.setRlkLane n c).eng = s.eng := rfl
@[simp] theorem State.setRlkLane_asy (s : State) (n : Nat) (c : RlkLane) : (s.setRlkLane n c).asy = s.asy := rfl
@[simp] theorem State.setRlkLane_bkg (s : State) (n : Nat) (c : RlkLane) : (s.setRlkLane n c).bkg = s.bkg := rfl
@[simp] theorem State.setRlkLane_sec (s : State) (n : Nat) (c : RlkLane) : (s.setRlkLane n c).sec = s.sec := rfl
@[simp] theorem State.setRlkLane_sys (s : State) (n : Nat) (c : RlkLane) : (s.setRlkLane n c).sys = s.sys := rfl
@[simp] theorem State.setRlkLane_rd (s : State) (n : Nat) (c : RlkLane) (f : Fld) (i : Nat) : (s.setRlkLane n c).rd f i = s.rd f i := rfl
@[simp] theorem State.setRlkLane_rdBit (s : State) (n : Nat) (c : RlkLane) (f : Fld) (i : Nat) : (s.setRlkLane n c).rdBit f i = s.rdBit f i := rfl
@[simp] theorem State.setRlkLane_rdInt (s : State) (n : Nat) (c : RlkLane) (f : Fld) (i : Nat) : (s.setRlkLane n c).rdInt f i = s.rdInt f i := rfl
theorem State.setRlkLane_rlkLane (s : State) (n : Nat) (c : RlkLane) (m : Nat) :
    (s.setRlkLane n c).rlkLane m = if m = n then c else s.rlkLane m := tget_tset _ _ _ _ _
@[simp] theorem State.setRlkLane_rlkLane_same (s : State) (n : Nat) (c : RlkLane) : (s.setRlkLane n c).rlkLane n = c := by
  rw [State.setRlkLane_rlkLane, if_pos rfl]

/-! ### setRlkCtx -/

@[simp] theorem State.setRlkCtx_pending (s : State) (n : Nat) (c : RlkCtx) : (s.setRlkCtx n c).pending = s.pending := rfl
@[simp] theorem State.setRlkCtx_time (s : State) (n : Nat) (c : RlkCtx) : (s.setRlkCtx n c).time = s.time := rfl
@[simp] theorem State.setRlkCtx_addr (s : State) (n : Nat) (c : RlkCtx) : (s.setRlkCtx n c).addr = s.addr := rfl
@[simp] theorem State.setRlkCtx_dco (s : State) (n : Nat) (c : RlkCtx) : (s.setRlkCtx n c).dco = s.dco := rfl
@[simp] theorem State.setRlkCtx_freeCtr (s : State) (n : Nat) (c : RlkCtx) : (s.setRlkCtx n c).freeCtr = s.freeCtr := rfl
@[simp] theorem State.setRlkCtx_regs (s : State) (n : Nat) (c : RlkCtx) : (s.setRlkCtx n c).regs = s.regs := rfl
@[simp] theorem State.setRlkCtx_io (s : State) (n : Nat) (c : RlkCtx) : (s.setRlkCtx n c).io = s.io := rfl
@[simp] theorem State.setRlkCtx_shf (s : State) (n : Nat) (c : RlkCtx) : (s.setRlkCtx n c).shf = s.shf := rfl
@[simp] theorem State.setRlkCtx_tim (s : State) (n : Nat) (c : RlkCtx) : (s.setRlkCtx n c).tim = s.tim := rfl
@[simp] theorem State.setRlkCtx_flt (s : State) (n : Nat) (c : RlkCtx) : (s.setRlkCtx n c).flt = s.flt := rfl
@[simp] theorem State.setRlkCtx_prt (s : State) (n : Nat) (c : RlkCtx) : (s.setRlkCtx n c).prt = s.prt := rfl
@[simp] theorem State.setRlkCtx_frm (s : State) (n : Nat) (c : RlkCtx) : (s.setRlkCtx n c).frm = s.frm := rfl
@[simp] theorem State.setRlkCtx_map (s : State) (n : Nat) (c : RlkCtx) : (s.setRlkCtx n c).map = s.map := rfl
@[simp] theorem State.setRlkCtx_ovm (s : State) (n : Nat) (c : RlkCtx) : (s.setRlkCtx n c).ovm = s.ovm := rfl
@[simp] theorem State.setRlkCtx_qmg (s : State) (n : Nat) (c : RlkCtx) : (s.setRlkCtx n c).qmg = s.qmg := rfl
@[simp] theorem State.setRlkCtx_feeds (s : State) (n : Nat) (c : RlkCtx) : (s.setRlkCtx n c).feeds = s.feeds := rfl
@[simp] theorem State.setRlkCtx_pm (s : State) (n : Nat) (c : RlkCtx) : (s.setRlkCtx n c).pm = s.pm := rfl
@[simp] theorem State.setRlkCtx_cip (s : State) (n : Nat) (c : RlkCtx) : (s.setRlkCtx n c).cip = s.cip := rfl
@[simp] theorem State.setRlkCtx_par (s : State) (n : Nat) (c : RlkCtx) : (s.setRlkCtx n c).par = s.par := rfl
@[simp] theorem State.setRlkCtx_eng (s : State) (n : Nat) (c : RlkCtx) : (s.setRlkCtx n c).eng = s.eng := rfl
@[simp] theorem State.setRlkCtx_asy (s : State) (n : Nat) (c : RlkCtx) : (s.setRlkCtx n c).asy = s.asy := rfl
@[simp] theorem State.setRlkCtx_bkg (s : State) (n : Nat) (c : RlkCtx) : (s.setRlkCtx n c).bkg = s.bkg := rfl
@[simp] theorem State.setRlkCtx_sec (s : State) (n : Nat) (c : RlkCtx) : (s.setRlkCtx n c).sec = s.sec := rfl
@[simp] theorem State.setRlkCtx_sys (s : State) (n : Nat) (c : RlkCtx) : (s.setRlkCtx n c).sys = s.sys := rfl
@[simp] theorem State.setRlkCtx_rd (s : State) (n : Nat) (c : RlkCtx) (f : Fld) (i : Nat) : (s.setRlkCtx n c).rd f i = s.rd f i := rfl
@[simp] theorem State.setRlkCtx_rdBit (s : State) (n : Nat) (c : RlkCtx) (f : Fld) (i : Nat) : (s.setRlkCtx n c).rdBit f i = s.rdBit f i := rfl
@[simp] theorem State.setRlkCtx_rdInt (s : State) (n : Nat) (c : RlkCtx) (f : Fld) (i : Nat) : (s.setRlkCtx n c).rdInt f i = s.rdInt f i := rfl
theorem State.setRlkCtx_rlkCtx (s : State) (n : Nat) (c : RlkCtx) (m : Nat) :
    (s.setRlkCtx n c).rlkCtx m = if m = n then c else s.rlkCtx m := tget_tset _ _ _ _ _
@[simp] theorem State.setRlkCtx_rlkCtx_same (s : State) (n : Nat) (c : RlkCtx) : (s.setRlkCtx n c).rlkCtx n = c := by
  rw [State.setRlkCtx_rlkCtx, if_pos rfl]

/-! ### setPass -/

@[simp] theorem State.setPass_pending (s : State) (n : Nat) (c : PassSt) : (s.setPass n c).pending = s.pending := rfl
@[simp] theorem State.setPass_time (s : State) (n : Nat) (c : PassSt) : (s.setPass n c).time = s.time := rfl
@[simp] theorem State.setPass_addr (s : State) (n : Nat) (c : PassSt) : (s.setPass n c).addr = s.addr := rfl
@[simp] theorem State.setPass_dco (s : State) (n : Nat) (c : PassSt) : (s.setPass n c).dco = s.dco := rfl
@[simp] theorem State.setPass_freeCtr (s : State) (n : Nat) (c : PassSt) : (s.setPass n c).freeCtr = s.freeCtr := rfl
@[simp] theorem State.setPass_regs (s : State) (n : Nat) (c : PassSt) : (s.setPass n c).regs = s.regs := rfl
@[simp] theorem State.setPass_io (s : State) (n : Nat) (c : PassSt) : (s.setPass n c).io = s.io := rfl
@[simp] theorem State.setPass_shf (s : State) (n : Nat) (c : PassSt) : (s.setPass n c).shf = s.shf := rfl
@[simp] theorem State.setPass_tim (s : State) (n : Nat) (c : PassSt) : (s.setPass n c).tim = s.tim := rfl
@[simp] theorem State.setPass_flt (s : State) (n : Nat) (c : PassSt) : (s.setPass n c).flt = s.flt := rfl
@[simp] theorem State.setPass_prt (s : State) (n : Nat) (c : PassSt) : (s.setPass n c).prt = s.prt := rfl
@[simp] theorem State.setPass_rlk (s : State) (n : Nat) (c : PassSt) : (s.setPass n c).rlk = s.rlk := rfl
@[simp] theorem State.setPass_frm (s : State) (n : Nat) (c : PassSt) : (s.setPass n c).frm = s.frm := rfl
@[simp] theorem State.setPass_map (s : State) (n : Nat) (c : PassSt) : (s.setPass n c).map = s.map := rfl
@[simp] theorem State.setPass_ovm (s : State) (n : Nat) (c : PassSt) : (s.setPass n c).ovm = s.ovm := rfl
@[simp] theorem State.setPass_qmg (s : State) (n : Nat) (c : PassSt) : (s.setPass n c).qmg = s.qmg := rfl
@[simp] theorem State.setPass_feeds (s : State) (n : Nat) (c : PassSt) : (s.setPass n c).feeds = s.feeds := rfl
@[simp] theorem State.setPass_pm (s : State) (n : Nat) (c : PassSt) : (s.setPass n c).pm = s.pm := rfl
@[simp] theorem State.setPass_cip (s : State) (n : Nat) (c : PassSt) : (s.setPass n c).cip = s.cip := rfl
@[simp] theorem State.setPass_par (s : State) (n : Nat) (c : PassSt) : (s.setPass n c).par = s.par := rfl
@[simp] theorem State.setPass_eng (s : State) (n : Nat) (c : PassSt) : (s.setPass n c).eng = s.eng := rfl
@[simp] theorem State.setPass_bkg (s : State) (n : Nat) (c : PassSt) : (s.setPass n c).bkg = s.bkg := rfl
@[simp] theorem State.setPass_sec (s : State) (n : Nat) (c : PassSt) : (s.setPass n c).sec = s.sec := rfl
@[simp] theorem State.setPass_sys (s : State) (n : Nat) (c : PassSt) : (s.setPass n c).sys = s.sys := rfl
@[simp] theorem State.setPass_rd (s : State) (n : Nat) (c : PassSt) (f : Fld) (i : Nat) : (s.setPass n c).rd f i = s.rd f i := rfl
@[simp] theorem State.setPass_rdBit (s : State) (n : Nat) (c : PassSt) (f : Fld) (i : Nat) : (s.setPass n c).rdBit f i = s.rdBit f i := rfl
@[simp] theorem State.setPass_rdInt (s : State) (n : Nat) (c : PassSt) (f : Fld) (i : Nat) : (s.setPass n c).rdInt f i = s.rdInt f i := rfl
theorem State.setPass_pass (s : State) (n : Nat) (c : PassSt) (m : Nat) :
    (s.setPass n c).pass m = if m = n then c else s.pass m := tget_tset _ _ _ _ _
@[simp] theorem State.setPass_pass_same (s : State) (n : Nat) (c : PassSt) : (s.setPass n c).pass n = c := by
  rw [State.setPass_pass, if_pos rfl]

end Sys2Proof.Machine
end

