-- ==== Sys2Proof/Laws/Reads.lean ====
section
/-! SUPPORT. Register reads through updates of other fields, through conditionals and through waiting; frames over register
fields. -/

set_option Elab.async false

namespace Sys2Proof.Machine

@[simp] theorem State.mk_rd {a b c d e regs io shf tim flt prt rlk frm map ovm qmg feeds pm cip par eng asy bkg sec sys} (f : Fld)
    (i : Nat) : (State.mk a b c d e regs io shf tim flt prt rlk frm map ovm qmg feeds pm cip par eng asy bkg sec sys).rd f i =
      regs.rd f i := rfl

@[simp] theorem State.regs_rd (s : State) (f : Fld) (i : Nat) : s.regs.rd f i = s.rd f i := rfl

@[simp] theorem State.ite_rd {c : Prop} [Decidable c] (x y : State) (f : Fld) (i : Nat) :
    (if c then x else y).rd f i = if c then x.rd f i else y.rd f i := by
  split <;> rfl

theorem RegsOnly.refl (l : List (Fld × Nat)) (s : State) : RegsOnly l s s := fun _ _ _ => rfl

theorem RegsOnly.intro {l : List (Fld × Nat)} {s t : State}
    (h : ∀ (f : Fld) (i : Nat), (∀ e ∈ l, f.key i ≠ e.1.key e.2) → t.rd f i = s.rd f i) : RegsOnly l s t :=
  fun f i k => h f i (fun e he x => k e he x.symm)

theorem RegsOnly.trans {l : List (Fld × Nat)} {s t u : State} (h : RegsOnly l s t) (k : RegsOnly l t u) : RegsOnly l s u :=
  fun f i x => (k f i x).trans (h f i x)

theorem State.elapse_toNextCycle (s : State) (dt : Nat) :
    (s.elapse dt).waitAddr (nextCycle (s.elapse dt).addr) = s.toNextCycle dt := rfl

@[simp] theorem State.toNextCycle_rd (s : State) (dt : Nat) (f : Fld) (i : Nat) : (s.toNextCycle dt).rd f i = s.rd f i := by
  unfold State.toNextCycle; simp

@[simp] theorem State.toBoundary_rd (s : State) (dt m : Nat) (f : Fld) (i : Nat) : (s.toBoundary dt m).rd f i = s.rd f i := by
  unfold State.toBoundary; simp

/-- A pattern fits its width. -/
theorem pattern_lt (w : Nat) (i : Int) : pattern w i < 2 ^ w := by
  unfold pattern
  have h1 : i % (2 : Int) ^ w < 2 ^ w := Int.emod_lt_of_pos _ (by positivity)
  have h0 : 0 ≤ i % (2 : Int) ^ w := Int.emod_nonneg _ (by positivity)
  zify
  rw [Int.toNat_of_nonneg h0]
  exact h1

@[simp] theorem pattern_mod (w : Nat) (i : Int) : pattern w i % 2 ^ w = pattern w i := Nat.mod_eq_of_lt (pattern_lt w i)

/-- The newest event, by an equal detail. -/
theorem State.raise_raised' (s : State) (code src : Nat) {d e : List (Nat × Nat)} (h : d = e) : Raised (s.raise code src d) code src e := by
  subst h; exact State.raise_raised s code src d

theorem State.raiseC_raised' (s : State) (code src : Nat) {d e : List (Nat × Nat)} (h : d = e) :
    Raised (s.raiseC code src d) code src e := by
  subst h; exact State.raiseC_raised s code src d

/-- The newest completion, by an equal result. -/
theorem State.complete_answered' (s : State) (h : HostRef) (op o r : Nat) {d e : List (Nat × Nat)} (k : d = e) :
    Answered (s.complete h op o r d) h op o r e := by
  subst k; exact State.complete_answered s h op o r d

/-! ### Waiting -/

@[simp] theorem State.toNextCycle_pending (s : State) (dt : Nat) : (s.toNextCycle dt).pending = s.pending := by
  unfold State.toNextCycle; simp
@[simp] theorem State.toNextCycle_dco (s : State) (dt : Nat) : (s.toNextCycle dt).dco = s.dco := by
  unfold State.toNextCycle; simp
@[simp] theorem State.toNextCycle_freeCtr (s : State) (dt : Nat) : (s.toNextCycle dt).freeCtr = s.freeCtr := by
  unfold State.toNextCycle; simp
@[simp] theorem State.toNextCycle_regs (s : State) (dt : Nat) : (s.toNextCycle dt).regs = s.regs := by
  unfold State.toNextCycle; simp
@[simp] theorem State.toNextCycle_io (s : State) (dt : Nat) : (s.toNextCycle dt).io = s.io := by
  unfold State.toNextCycle; simp
@[simp] theorem State.toNextCycle_shf (s : State) (dt : Nat) : (s.toNextCycle dt).shf = s.shf := by
  unfold State.toNextCycle; simp
@[simp] theorem State.toNextCycle_tim (s : State) (dt : Nat) : (s.toNextCycle dt).tim = s.tim := by
  unfold State.toNextCycle; simp
@[simp] theorem State.toNextCycle_flt (s : State) (dt : Nat) : (s.toNextCycle dt).flt = s.flt := by
  unfold State.toNextCycle; simp
@[simp] theorem State.toNextCycle_prt (s : State) (dt : Nat) : (s.toNextCycle dt).prt = s.prt := by
  unfold State.toNextCycle; simp
@[simp] theorem State.toNextCycle_rlk (s : State) (dt : Nat) : (s.toNextCycle dt).rlk = s.rlk := by
  unfold State.toNextCycle; simp
@[simp] theorem State.toNextCycle_frm (s : State) (dt : Nat) : (s.toNextCycle dt).frm = s.frm := by
  unfold State.toNextCycle; simp
@[simp] theorem State.toNextCycle_map (s : State) (dt : Nat) : (s.toNextCycle dt).map = s.map := by
  unfold State.toNextCycle; simp
@[simp] theorem State.toNextCycle_ovm (s : State) (dt : Nat) : (s.toNextCycle dt).ovm = s.ovm := by
  unfold State.toNextCycle; simp
@[simp] theorem State.toNextCycle_qmg (s : State) (dt : Nat) : (s.toNextCycle dt).qmg = s.qmg := by
  unfold State.toNextCycle; simp
@[simp] theorem State.toNextCycle_feeds (s : State) (dt : Nat) : (s.toNextCycle dt).feeds = s.feeds := by
  unfold State.toNextCycle; simp
@[simp] theorem State.toNextCycle_pm (s : State) (dt : Nat) : (s.toNextCycle dt).pm = s.pm := by
  unfold State.toNextCycle; simp
@[simp] theorem State.toNextCycle_cip (s : State) (dt : Nat) : (s.toNextCycle dt).cip = s.cip := by
  unfold State.toNextCycle; simp
@[simp] theorem State.toNextCycle_par (s : State) (dt : Nat) : (s.toNextCycle dt).par = s.par := by
  unfold State.toNextCycle; simp
@[simp] theorem State.toNextCycle_eng (s : State) (dt : Nat) : (s.toNextCycle dt).eng = s.eng := by
  unfold State.toNextCycle; simp
@[simp] theorem State.toNextCycle_asy (s : State) (dt : Nat) : (s.toNextCycle dt).asy = s.asy := by
  unfold State.toNextCycle; simp
@[simp] theorem State.toNextCycle_bkg (s : State) (dt : Nat) : (s.toNextCycle dt).bkg = s.bkg := by
  unfold State.toNextCycle; simp
@[simp] theorem State.toNextCycle_sec (s : State) (dt : Nat) : (s.toNextCycle dt).sec = s.sec := by
  unfold State.toNextCycle; simp
@[simp] theorem State.toNextCycle_sys (s : State) (dt : Nat) : (s.toNextCycle dt).sys = s.sys := by
  unfold State.toNextCycle; simp
@[simp] theorem State.toNextCycle_rdBit (s : State) (dt : Nat) (f : Fld) (i : Nat) : (s.toNextCycle dt).rdBit f i = s.rdBit f i := by
  unfold State.toNextCycle; simp
@[simp] theorem State.toNextCycle_rdInt (s : State) (dt : Nat) (f : Fld) (i : Nat) : (s.toNextCycle dt).rdInt f i = s.rdInt f i := by
  unfold State.toNextCycle; simp
@[simp] theorem State.toBoundary_pending (s : State) (dt m : Nat) : (s.toBoundary dt m).pending = s.pending := by
  unfold State.toBoundary; simp
@[simp] theorem State.toBoundary_dco (s : State) (dt m : Nat) : (s.toBoundary dt m).dco = s.dco := by
  unfold State.toBoundary; simp
@[simp] theorem State.toBoundary_freeCtr (s : State) (dt m : Nat) : (s.toBoundary dt m).freeCtr = s.freeCtr := by
  unfold State.toBoundary; simp
@[simp] theorem State.toBoundary_regs (s : State) (dt m : Nat) : (s.toBoundary dt m).regs = s.regs := by
  unfold State.toBoundary; simp
@[simp] theorem State.toBoundary_io (s : State) (dt m : Nat) : (s.toBoundary dt m).io = s.io := by
  unfold State.toBoundary; simp
@[simp] theorem State.toBoundary_shf (s : State) (dt m : Nat) : (s.toBoundary dt m).shf = s.shf := by
  unfold State.toBoundary; simp
@[simp] theorem State.toBoundary_tim (s : State) (dt m : Nat) : (s.toBoundary dt m).tim = s.tim := by
  unfold State.toBoundary; simp
@[simp] theorem State.toBoundary_flt (s : State) (dt m : Nat) : (s.toBoundary dt m).flt = s.flt := by
  unfold State.toBoundary; simp
@[simp] theorem State.toBoundary_prt (s : State) (dt m : Nat) : (s.toBoundary dt m).prt = s.prt := by
  unfold State.toBoundary; simp
@[simp] theorem State.toBoundary_rlk (s : State) (dt m : Nat) : (s.toBoundary dt m).rlk = s.rlk := by
  unfold State.toBoundary; simp
@[simp] theorem State.toBoundary_frm (s : State) (dt m : Nat) : (s.toBoundary dt m).frm = s.frm := by
  unfold State.toBoundary; simp
@[simp] theorem State.toBoundary_map (s : State) (dt m : Nat) : (s.toBoundary dt m).map = s.map := by
  unfold State.toBoundary; simp
@[simp] theorem State.toBoundary_ovm (s : State) (dt m : Nat) : (s.toBoundary dt m).ovm = s.ovm := by
  unfold State.toBoundary; simp
@[simp] theorem State.toBoundary_qmg (s : State) (dt m : Nat) : (s.toBoundary dt m).qmg = s.qmg := by
  unfold State.toBoundary; simp
@[simp] theorem State.toBoundary_feeds (s : State) (dt m : Nat) : (s.toBoundary dt m).feeds = s.feeds := by
  unfold State.toBoundary; simp
@[simp] theorem State.toBoundary_pm (s : State) (dt m : Nat) : (s.toBoundary dt m).pm = s.pm := by
  unfold State.toBoundary; simp
@[simp] theorem State.toBoundary_cip (s : State) (dt m : Nat) : (s.toBoundary dt m).cip = s.cip := by
  unfold State.toBoundary; simp
@[simp] theorem State.toBoundary_par (s : State) (dt m : Nat) : (s.toBoundary dt m).par = s.par := by
  unfold State.toBoundary; simp
@[simp] theorem State.toBoundary_eng (s : State) (dt m : Nat) : (s.toBoundary dt m).eng = s.eng := by
  unfold State.toBoundary; simp
@[simp] theorem State.toBoundary_asy (s : State) (dt m : Nat) : (s.toBoundary dt m).asy = s.asy := by
  unfold State.toBoundary; simp
@[simp] theorem State.toBoundary_bkg (s : State) (dt m : Nat) : (s.toBoundary dt m).bkg = s.bkg := by
  unfold State.toBoundary; simp
@[simp] theorem State.toBoundary_sec (s : State) (dt m : Nat) : (s.toBoundary dt m).sec = s.sec := by
  unfold State.toBoundary; simp
@[simp] theorem State.toBoundary_sys (s : State) (dt m : Nat) : (s.toBoundary dt m).sys = s.sys := by
  unfold State.toBoundary; simp
@[simp] theorem State.toBoundary_rdBit (s : State) (dt m : Nat) (f : Fld) (i : Nat) : (s.toBoundary dt m).rdBit f i = s.rdBit f i := by
  unfold State.toBoundary; simp
@[simp] theorem State.toBoundary_rdInt (s : State) (dt m : Nat) (f : Fld) (i : Nat) : (s.toBoundary dt m).rdInt f i = s.rdInt f i := by
  unfold State.toBoundary; simp
@[simp] theorem State.untilTime_pending (s : State) (dt m : Nat) : (s.untilTime dt m).pending = s.pending := by
  unfold State.untilTime; simp
@[simp] theorem State.untilTime_dco (s : State) (dt m : Nat) : (s.untilTime dt m).dco = s.dco := by
  unfold State.untilTime; simp
@[simp] theorem State.untilTime_freeCtr (s : State) (dt m : Nat) : (s.untilTime dt m).freeCtr = s.freeCtr := by
  unfold State.untilTime; simp
@[simp] theorem State.untilTime_regs (s : State) (dt m : Nat) : (s.untilTime dt m).regs = s.regs := by
  unfold State.untilTime; simp
@[simp] theorem State.untilTime_io (s : State) (dt m : Nat) : (s.untilTime dt m).io = s.io := by
  unfold State.untilTime; simp
@[simp] theorem State.untilTime_shf (s : State) (dt m : Nat) : (s.untilTime dt m).shf = s.shf := by
  unfold State.untilTime; simp
@[simp] theorem State.untilTime_tim (s : State) (dt m : Nat) : (s.untilTime dt m).tim = s.tim := by
  unfold State.untilTime; simp
@[simp] theorem State.untilTime_flt (s : State) (dt m : Nat) : (s.untilTime dt m).flt = s.flt := by
  unfold State.untilTime; simp
@[simp] theorem State.untilTime_prt (s : State) (dt m : Nat) : (s.untilTime dt m).prt = s.prt := by
  unfold State.untilTime; simp
@[simp] theorem State.untilTime_rlk (s : State) (dt m : Nat) : (s.untilTime dt m).rlk = s.rlk := by
  unfold State.untilTime; simp
@[simp] theorem State.untilTime_frm (s : State) (dt m : Nat) : (s.untilTime dt m).frm = s.frm := by
  unfold State.untilTime; simp
@[simp] theorem State.untilTime_map (s : State) (dt m : Nat) : (s.untilTime dt m).map = s.map := by
  unfold State.untilTime; simp
@[simp] theorem State.untilTime_ovm (s : State) (dt m : Nat) : (s.untilTime dt m).ovm = s.ovm := by
  unfold State.untilTime; simp
@[simp] theorem State.untilTime_qmg (s : State) (dt m : Nat) : (s.untilTime dt m).qmg = s.qmg := by
  unfold State.untilTime; simp
@[simp] theorem State.untilTime_feeds (s : State) (dt m : Nat) : (s.untilTime dt m).feeds = s.feeds := by
  unfold State.untilTime; simp
@[simp] theorem State.untilTime_pm (s : State) (dt m : Nat) : (s.untilTime dt m).pm = s.pm := by
  unfold State.untilTime; simp
@[simp] theorem State.untilTime_cip (s : State) (dt m : Nat) : (s.untilTime dt m).cip = s.cip := by
  unfold State.untilTime; simp
@[simp] theorem State.untilTime_par (s : State) (dt m : Nat) : (s.untilTime dt m).par = s.par := by
  unfold State.untilTime; simp
@[simp] theorem State.untilTime_eng (s : State) (dt m : Nat) : (s.untilTime dt m).eng = s.eng := by
  unfold State.untilTime; simp
@[simp] theorem State.untilTime_asy (s : State) (dt m : Nat) : (s.untilTime dt m).asy = s.asy := by
  unfold State.untilTime; simp
@[simp] theorem State.untilTime_bkg (s : State) (dt m : Nat) : (s.untilTime dt m).bkg = s.bkg := by
  unfold State.untilTime; simp
@[simp] theorem State.untilTime_sec (s : State) (dt m : Nat) : (s.untilTime dt m).sec = s.sec := by
  unfold State.untilTime; simp
@[simp] theorem State.untilTime_sys (s : State) (dt m : Nat) : (s.untilTime dt m).sys = s.sys := by
  unfold State.untilTime; simp
@[simp] theorem State.untilTime_rd (s : State) (dt m : Nat) (f : Fld) (i : Nat) : (s.untilTime dt m).rd f i = s.rd f i := by
  unfold State.untilTime; simp
@[simp] theorem State.untilTime_rdBit (s : State) (dt m : Nat) (f : Fld) (i : Nat) : (s.untilTime dt m).rdBit f i = s.rdBit f i := by
  unfold State.untilTime; simp
@[simp] theorem State.untilTime_rdInt (s : State) (dt m : Nat) (f : Fld) (i : Nat) : (s.untilTime dt m).rdInt f i = s.rdInt f i := by
  unfold State.untilTime; simp

/-! ### Conditionals -/

@[simp] theorem RegSt.ite_rd {c : Prop} [Decidable c] (x y : RegSt) (f : Fld) (i : Nat) :
    (if c then x else y).rd f i = if c then x.rd f i else y.rd f i := by
  split <;> rfl

@[simp] theorem State.ite_pending {c : Prop} [Decidable c] (x y : State) : (if c then x else y).pending = if c then x.pending else y.pending :=
  apply_ite State.pending c x y
@[simp] theorem State.ite_time {c : Prop} [Decidable c] (x y : State) : (if c then x else y).time = if c then x.time else y.time :=
  apply_ite State.time c x y
@[simp] theorem State.ite_addr {c : Prop} [Decidable c] (x y : State) : (if c then x else y).addr = if c then x.addr else y.addr :=
  apply_ite State.addr c x y
@[simp] theorem State.ite_dco {c : Prop} [Decidable c] (x y : State) : (if c then x else y).dco = if c then x.dco else y.dco :=
  apply_ite State.dco c x y
@[simp] theorem State.ite_freeCtr {c : Prop} [Decidable c] (x y : State) : (if c then x else y).freeCtr = if c then x.freeCtr else y.freeCtr :=
  apply_ite State.freeCtr c x y
@[simp] theorem State.ite_regs {c : Prop} [Decidable c] (x y : State) : (if c then x else y).regs = if c then x.regs else y.regs :=
  apply_ite State.regs c x y
@[simp] theorem State.ite_io {c : Prop} [Decidable c] (x y : State) : (if c then x else y).io = if c then x.io else y.io :=
  apply_ite State.io c x y
@[simp] theorem State.ite_shf {c : Prop} [Decidable c] (x y : State) : (if c then x else y).shf = if c then x.shf else y.shf :=
  apply_ite State.shf c x y
@[simp] theorem State.ite_tim {c : Prop} [Decidable c] (x y : State) : (if c then x else y).tim = if c then x.tim else y.tim :=
  apply_ite State.tim c x y
@[simp] theorem State.ite_flt {c : Prop} [Decidable c] (x y : State) : (if c then x else y).flt = if c then x.flt else y.flt :=
  apply_ite State.flt c x y
@[simp] theorem State.ite_prt {c : Prop} [Decidable c] (x y : State) : (if c then x else y).prt = if c then x.prt else y.prt :=
  apply_ite State.prt c x y
@[simp] theorem State.ite_rlk {c : Prop} [Decidable c] (x y : State) : (if c then x else y).rlk = if c then x.rlk else y.rlk :=
  apply_ite State.rlk c x y
@[simp] theorem State.ite_frm {c : Prop} [Decidable c] (x y : State) : (if c then x else y).frm = if c then x.frm else y.frm :=
  apply_ite State.frm c x y
@[simp] theorem State.ite_map {c : Prop} [Decidable c] (x y : State) : (if c then x else y).map = if c then x.map else y.map :=
  apply_ite State.map c x y
@[simp] theorem State.ite_ovm {c : Prop} [Decidable c] (x y : State) : (if c then x else y).ovm = if c then x.ovm else y.ovm :=
  apply_ite State.ovm c x y
@[simp] theorem State.ite_qmg {c : Prop} [Decidable c] (x y : State) : (if c then x else y).qmg = if c then x.qmg else y.qmg :=
  apply_ite State.qmg c x y
@[simp] theorem State.ite_feeds {c : Prop} [Decidable c] (x y : State) : (if c then x else y).feeds = if c then x.feeds else y.feeds :=
  apply_ite State.feeds c x y
@[simp] theorem State.ite_pm {c : Prop} [Decidable c] (x y : State) : (if c then x else y).pm = if c then x.pm else y.pm :=
  apply_ite State.pm c x y
@[simp] theorem State.ite_cip {c : Prop} [Decidable c] (x y : State) : (if c then x else y).cip = if c then x.cip else y.cip :=
  apply_ite State.cip c x y
@[simp] theorem State.ite_par {c : Prop} [Decidable c] (x y : State) : (if c then x else y).par = if c then x.par else y.par :=
  apply_ite State.par c x y
@[simp] theorem State.ite_eng {c : Prop} [Decidable c] (x y : State) : (if c then x else y).eng = if c then x.eng else y.eng :=
  apply_ite State.eng c x y
@[simp] theorem State.ite_asy {c : Prop} [Decidable c] (x y : State) : (if c then x else y).asy = if c then x.asy else y.asy :=
  apply_ite State.asy c x y
@[simp] theorem State.ite_bkg {c : Prop} [Decidable c] (x y : State) : (if c then x else y).bkg = if c then x.bkg else y.bkg :=
  apply_ite State.bkg c x y
@[simp] theorem State.ite_sec {c : Prop} [Decidable c] (x y : State) : (if c then x else y).sec = if c then x.sec else y.sec :=
  apply_ite State.sec c x y
@[simp] theorem State.ite_sys {c : Prop} [Decidable c] (x y : State) : (if c then x else y).sys = if c then x.sys else y.sys :=
  apply_ite State.sys c x y

end Sys2Proof.Machine
end

