-- ==== Sys2Proof/Laws/Timing.lean ====
section
/-! SUPPORT. What a review of the timing candidates, a change of DPLL state and a selection decision leave as it was. -/

set_option Elab.async false

namespace Sys2Proof.Machine

/-- What a review of the candidates keeps: what each candidate is and has measured and received, the rest of the timing block,
every part of the state but the timing block, the registers and the host side, and every register field but the candidates'
state, reason, effective QL and count of its changes, and TIM_FORCED. -/
structure Reviewed (s t : State) : Prop where
  enabled : ∀ n, (t.cand n).enabled = (s.cand n).enabled
  source : ∀ n, (t.cand n).kind = (s.cand n).kind ∧ (t.cand n).lane = (s.cand n).lane ∧ (t.cand n).chan = (s.cand n).chan
  measured : ∀ n, (t.cand n).measured = (s.cand n).measured
  qlRx : ∀ n, (t.cand n).qlRx = (s.cand n).qlRx
  tim : ∃ c f d, t.tim = { s.tim with cands := c, forced := f, disqAt := d }
  rest : ∃ r i m, t = { s with regs := r, io := i, tim := m }
  regs : ∀ (f : Fld) (i : Nat), (∀ n, f.key i ≠ Reg.TIM_CAND_STATE.key n) → (∀ n, f.key i ≠ Reg.TIM_CAND_REASON.key n) →
    (∀ n, f.key i ≠ Reg.TIM_CAND_QL.key n) → (∀ n, f.key i ≠ Reg.TIM_CAND_QLCHG_CNT.key n) → f.key i ≠ Reg.TIM_FORCED.key 0 →
    t.rd f i = s.rd f i

theorem Reviewed.refl (s : State) : Reviewed s s :=
  ⟨fun _ => rfl, fun _ => ⟨rfl, rfl, rfl⟩, fun _ => rfl, fun _ => rfl, ⟨_, _, _, rfl⟩, ⟨_, _, _, rfl⟩, fun _ _ _ _ _ _ _ => rfl⟩

theorem Reviewed.trans {s t u : State} (h : Reviewed s t) (k : Reviewed t u) : Reviewed s u := by
  refine ⟨fun n => (k.enabled n).trans (h.enabled n), fun n => ?_, fun n => (k.measured n).trans (h.measured n),
    fun n => (k.qlRx n).trans (h.qlRx n), ?_, ?_, fun f i a b c d e => (k.regs f i a b c d e).trans (h.regs f i a b c d e)⟩
  · obtain ⟨a, b, c⟩ := h.source n
    obtain ⟨a', b', c'⟩ := k.source n
    exact ⟨a'.trans a, b'.trans b, c'.trans c⟩
  · obtain ⟨a, b, c, e⟩ := h.tim
    obtain ⟨a', b', c', e'⟩ := k.tim
    exact ⟨a', b', c', by rw [e', e]⟩
  · obtain ⟨a, b, c, e⟩ := h.rest
    obtain ⟨a', b', c', e'⟩ := k.rest
    exact ⟨a', b', c', by rw [e', e]⟩

/-- A change of one candidate that keeps what it is and has. -/
theorem Reviewed.setCand (s : State) (n : Nat) (c : CandSt) (h1 : c.enabled = (s.cand n).enabled)
    (h2 : c.kind = (s.cand n).kind ∧ c.lane = (s.cand n).lane ∧ c.chan = (s.cand n).chan)
    (h3 : c.measured = (s.cand n).measured) (h4 : c.qlRx = (s.cand n).qlRx) : Reviewed s (s.setCand n c) := by
  refine ⟨fun m => ?_, fun m => ?_, fun m => ?_, fun m => ?_, ⟨_, _, _, rfl⟩, ⟨_, _, _, rfl⟩, fun _ _ _ _ _ _ _ => rfl⟩ <;>
    rw [State.setCand_cand] <;> split
  all_goals first | (subst m; assumption) | rfl | exact ⟨rfl, rfl, rfl⟩

theorem Reviewed.upd {s t : State} (h : t.tim.cands = s.tim.cands) (k : ∃ c f d, t.tim = { s.tim with cands := c, forced := f, disqAt := d })
    (r : ∃ r i m, t = { s with regs := r, io := i, tim := m })
    (g : ∀ (f : Fld) (i : Nat), (∀ n, f.key i ≠ Reg.TIM_CAND_STATE.key n) → (∀ n, f.key i ≠ Reg.TIM_CAND_REASON.key n) →
      (∀ n, f.key i ≠ Reg.TIM_CAND_QL.key n) → (∀ n, f.key i ≠ Reg.TIM_CAND_QLCHG_CNT.key n) → f.key i ≠ Reg.TIM_FORCED.key 0 →
      t.rd f i = s.rd f i) : Reviewed s t := by
  have e (n : Nat) : t.cand n = s.cand n := by unfold State.cand; rw [h]
  exact ⟨fun n => by rw [e], fun n => by rw [e]; exact ⟨rfl, rfl, rfl⟩, fun n => by rw [e], fun n => by rw [e], k, r, g⟩

theorem Reviewed.wr (s : State) (f : Fld) (n v : Nat) (h : f = Reg.TIM_CAND_STATE ∨ f = Reg.TIM_CAND_REASON ∨ f = Reg.TIM_CAND_QL ∨
    f = Reg.TIM_CAND_QLCHG_CNT ∨ f = Reg.TIM_FORCED ∧ n = 0) : Reviewed s (s.wr f n v) := by
  refine Reviewed.upd rfl ⟨_, _, _, rfl⟩ ⟨_, _, _, rfl⟩ fun g i a b c d e => State.wr_rd_other _ _ _ _ _ _ ?_
  rcases h with rfl | rfl | rfl | rfl | ⟨rfl, rfl⟩
  · exact a n
  · exact b n
  · exact c n
  · exact d n
  · exact e

theorem Reviewed.raise (s : State) (code src : Nat) (d : List (Nat × Nat)) : Reviewed s (s.raise code src d) :=
  Reviewed.upd rfl ⟨_, _, _, rfl⟩ ⟨_, _, _, rfl⟩ fun _ _ _ _ _ _ _ => rfl

theorem State.cancelForce_reviewed (s : State) (n : Nat) : Reviewed s (s.cancelForce n) := by
  unfold State.cancelForce
  split
  · refine Reviewed.trans (t := { s with tim := { s.tim with forced := none } }) (Reviewed.upd rfl ⟨_, _, _, rfl⟩ ⟨_, _, _, rfl⟩ fun _ _ _ _ _ _ _ => rfl) ?_
    exact Reviewed.trans (Reviewed.wr _ _ _ _ (by simp)) (Reviewed.raise _ _ _ _)
  · exact Reviewed.refl s

/-- What a detector that resumes keeps of its candidate. -/
theorem CandSt.resume_spec (c : CandSt) (a : Nat) :
    (c.resume a).enabled = c.enabled ∧ ((c.resume a).kind = c.kind ∧ (c.resume a).lane = c.lane ∧ (c.resume a).chan = c.chan) ∧
      (c.resume a).measured = c.measured ∧ (c.resume a).qlRx = c.qlRx ∧ (c.resume a).defectAt = none := by
  unfold CandSt.resume
  split <;> exact ⟨rfl, ⟨rfl, rfl, rfl⟩, rfl, rfl, rfl⟩

/-- A detector that resumes, with the candidate's timers changed. -/
theorem Reviewed.setResume (s : State) (n a : Nat) (c : CandSt) (h1 : c.enabled = ((s.cand n).resume a).enabled)
    (h2 : c.kind = ((s.cand n).resume a).kind ∧ c.lane = ((s.cand n).resume a).lane ∧ c.chan = ((s.cand n).resume a).chan)
    (h3 : c.measured = ((s.cand n).resume a).measured) (h4 : c.qlRx = ((s.cand n).resume a).qlRx) :
    Reviewed s (s.setCand n c) := by
  obtain ⟨r1, ⟨r2, r3, r4⟩, r5, r6, -⟩ := CandSt.resume_spec (s.cand n) a
  exact Reviewed.setCand s n c (h1.trans r1) ⟨h2.1.trans r2, h2.2.1.trans r3, h2.2.2.trans r4⟩ (h3.trans r5) (h4.trans r6)

theorem State.disqualify_reviewed (s : State) (n cause : Nat) : Reviewed s (s.disqualify n cause) := by
  have k1 : Reviewed s (s.setCand n { (s.cand n).resume s.addr with since := none, wtrFrom := none, wtrWaits := false }) :=
    Reviewed.setResume s n s.addr _ rfl ⟨rfl, rfl, rfl⟩ rfl rfl
  have k2 (x : State) : Reviewed x (((x.wr Reg.TIM_CAND_STATE n 1).wr Reg.TIM_CAND_REASON n cause).raise Ev.REF_DISQUALIFIED
      (srcCand n) [(1, n), (1, cause)]) :=
    Reviewed.trans (Reviewed.trans (Reviewed.wr x _ _ _ (by simp)) (Reviewed.wr _ Reg.TIM_CAND_REASON n cause (by simp)))
      (Reviewed.raise _ _ _ _)
  have k3 (x : State) : Reviewed x (if x.rd Reg.TIM_SEL 0 = n then { x with tim := { x.tim with disqAt := x.addr } } else x) := by
    split
    · exact Reviewed.upd rfl ⟨_, _, _, rfl⟩ ⟨_, _, _, rfl⟩ fun _ _ _ _ _ _ _ => rfl
    · exact Reviewed.refl _
  exact Reviewed.trans (Reviewed.trans (Reviewed.trans k1 (k2 _)) (k3 _)) (State.cancelForce_reviewed _ n)

theorem State.holdPhase_reviewed (s : State) (n : Nat) : Reviewed s (s.holdPhase n) := by
  unfold State.holdPhase
  split
  · exact Reviewed.refl s
  · exact Reviewed.setCand s n _ rfl ⟨rfl, rfl, rfl⟩ rfl rfl

theorem State.candLost_reviewed (s : State) (n : Nat) : Reviewed s (s.candLost n) := by
  unfold State.candLost
  split
  · split
    · exact State.holdPhase_reviewed s n
    · exact State.disqualify_reviewed s n _
  · exact State.disqualify_reviewed s n _

theorem State.candBack_reviewed (s : State) (n : Nat) : Reviewed s (s.candBack n) := by
  unfold State.candBack
  split
  · exact Reviewed.setResume s n s.addr _ rfl ⟨rfl, rfl, rfl⟩ rfl rfl
  · exact Reviewed.refl s

theorem State.qualTimer_reviewed (s : State) (n : Nat) : Reviewed s (s.qualTimer n) := by
  unfold State.qualTimer
  split
  · split
    · exact Reviewed.refl s
    · exact Reviewed.setCand s n _ rfl ⟨rfl, rfl, rfl⟩ rfl rfl
  · split
    · exact Reviewed.setCand s n _ rfl ⟨rfl, rfl, rfl⟩ rfl rfl
    · exact Reviewed.refl s

theorem State.candReview_reviewed (s : State) (n : Nat) : Reviewed s (s.candReview n) := by
  have k (x : State) (v : CandSt) (h : v.enabled = (x.cand n).enabled)
      (h2 : v.kind = (x.cand n).kind ∧ v.lane = (x.cand n).lane ∧ v.chan = (x.cand n).chan)
      (h3 : v.measured = (x.cand n).measured) (h4 : v.qlRx = (x.cand n).qlRx) := Reviewed.setCand x n v h h2 h3 h4
  unfold State.candReview
  dsimp only
  split
  · exact Reviewed.refl s
  · split
    · split
      · exact Reviewed.trans (State.candBack_reviewed s n) (State.qualTimer_reviewed _ n)
      · exact State.candLost_reviewed s n
    · split
      · have h1 : Reviewed s (if s.lossCause n = 0 then s
            else (s.setCand n { s.cand n with since := none, keepQual := false }).wr Reg.TIM_CAND_REASON n (s.lossCause n)) := by
          split
          · exact Reviewed.refl s
          · exact Reviewed.trans (k s { s.cand n with since := none, keepQual := false } rfl ⟨rfl, rfl, rfl⟩ rfl rfl)
              (Reviewed.wr _ Reg.TIM_CAND_REASON n _ (by simp))
        exact Reviewed.trans h1 (State.qualTimer_reviewed _ n)
      · split
        · exact Reviewed.refl s
        · split
          · split
            · exact Reviewed.refl s
            · exact Reviewed.trans (k s { s.cand n with since := some s.addr } rfl ⟨rfl, rfl, rfl⟩ rfl rfl)
                (Reviewed.wr _ Reg.TIM_CAND_STATE n 2 (by simp))
          · split
            · exact Reviewed.trans (Reviewed.trans (k s { s.cand n with since := none } rfl ⟨rfl, rfl, rfl⟩ rfl rfl)
                (Reviewed.wr _ Reg.TIM_CAND_STATE n 1 (by simp))) (Reviewed.wr _ Reg.TIM_CAND_REASON n _ (by simp))
            · exact Reviewed.refl s

theorem State.qlRefresh_reviewed (s : State) (n : Nat) : Reviewed s (s.qlRefresh n) := by
  unfold State.qlRefresh
  dsimp only
  split
  · rw [State.count_eq]
    exact Reviewed.trans (Reviewed.trans (Reviewed.wr _ _ _ _ (by simp)) (Reviewed.wr _ _ _ _ (by simp))) (Reviewed.raise _ _ _ _)
  · exact Reviewed.refl s

theorem Reviewed.foldl {α : Type} {f : State → α → State} (h : ∀ s x, Reviewed s (f s x)) (l : List α) :
    ∀ s, Reviewed s (l.foldl f s) := by
  induction l with
  | nil => exact fun s => Reviewed.refl s
  | cons x r ih => exact fun s => Reviewed.trans (h s x) (ih _)

/-- What a review of every candidate keeps. -/
theorem State.timReview_reviewed (s : State) : Reviewed s s.timReview :=
  Reviewed.foldl (fun a n => Reviewed.trans (State.qlRefresh_reviewed a n) (State.candReview_reviewed _ n)) _ s

/-! ### Disqualification -/

/-- A force that is given up leaves the candidates and every register but TIM_FORCED. -/
theorem State.cancelForce_spec (s : State) (n : Nat) :
    (s.cancelForce n).tim.cands = s.tim.cands ∧ RegsOnly [(Reg.TIM_FORCED, 0)] s (s.cancelForce n) := by
  unfold State.cancelForce
  split
  · refine ⟨by simp, RegsOnly.intro fun f i h => ?_⟩
    simp only [State.raise_rd, State.wrBit_eq]
    exact State.wr_rd_other _ _ _ _ _ _ (h (Reg.TIM_FORCED, 0) (by simp))
  · exact ⟨rfl, RegsOnly.refl _ _⟩

/-- A disqualified candidate is FAILED with its cause, and holds no timer (R61). -/
theorem State.disqualify_spec (s : State) (n cause : Nat) :
    (s.disqualify n cause).candState n = 1 ∧ (s.disqualify n cause).rd Reg.TIM_CAND_REASON n = cause % 16 ∧
    ((s.disqualify n cause).cand n).defectAt = none ∧ ((s.disqualify n cause).cand n).wtrFrom = none ∧
    RegsOnly [(Reg.TIM_CAND_STATE, n), (Reg.TIM_CAND_REASON, n), (Reg.TIM_FORCED, 0)] s (s.disqualify n cause) := by
  let y := ((s.setCand n { (s.cand n).resume s.addr with since := none, wtrFrom := none, wtrWaits := false }).wr
    Reg.TIM_CAND_STATE n 1).wr Reg.TIM_CAND_REASON n cause
  let z := y.raise Ev.REF_DISQUALIFIED (srcCand n) [(1, n), (1, cause)]
  show (State.cancelForce (if z.rd Reg.TIM_SEL 0 = n then { z with tim := { z.tim with disqAt := z.addr } }
    else z) n).candState n = 1 ∧ _
  obtain ⟨x, hx⟩ : ∃ x, x = (if z.rd Reg.TIM_SEL 0 = n then { z with tim := { z.tim with disqAt := z.addr } }
    else z) := ⟨_, rfl⟩
  have hd : s.disqualify n cause = x.cancelForce n := by rw [hx]; rfl
  rw [hd, ← hx]
  obtain ⟨h1, h2⟩ := State.cancelForce_spec x n
  have hr : ∀ f i, x.rd f i = (((s.setCand n { (s.cand n).resume s.addr with since := none, wtrFrom := none, wtrWaits := false }).wr
      Reg.TIM_CAND_STATE n 1).wr Reg.TIM_CAND_REASON n cause).rd f i := by
    intro f i; rw [hx]; split <;> simp [z, y]
  have hc : x.tim.cands = tset s.tim.cands n { (s.cand n).resume s.addr with since := none, wtrFrom := none, wtrWaits := false } := by
    rw [hx]; split <;> simp [z, y, State.setCand]
  have k1 := h2 Reg.TIM_CAND_STATE n (by simp [Fld.key, Reg.TIM_FORCED, Reg.TIM_CAND_STATE]; omega)
  have k2 := h2 Reg.TIM_CAND_REASON n (by simp [Fld.key, Reg.TIM_FORCED, Reg.TIM_CAND_REASON]; omega)
  refine ⟨?_, ?_, ?_, ?_, ?_⟩
  · unfold State.candState
    rw [k1, hr, State.wr_rd_other _ _ _ _ _ _ (by simp [Fld.key, Reg.TIM_CAND_STATE, Reg.TIM_CAND_REASON]), State.wr_rd_same]
    rfl
  · rw [k2, hr, State.wr_rd_same]
    rfl
  · unfold State.cand; rw [h1, hc, tget_tset, if_pos rfl]; exact (CandSt.resume_spec _ _).2.2.2.2
  · unfold State.cand; rw [h1, hc, tget_tset, if_pos rfl]
  · refine RegsOnly.intro fun f i h => ?_
    rw [h2 f i (by simp at h ⊢; exact fun e => h.2.2 e.symm), hr, State.wr_rd_other _ _ _ _ _ _ (h (Reg.TIM_CAND_REASON, n) (by simp)),
      State.wr_rd_other _ _ _ _ _ _ (h (Reg.TIM_CAND_STATE, n) (by simp))]
    rfl

/-! ### The DPLL and the DCO -/

/-- The register fields that a change of DPLL state, a switch, a discarded sample or a new DCO offset writes. -/
def dpllFields : List (Fld × Nat) :=
  [(Reg.TIM_DPLL_STATE, 0), (Reg.TIM_HO_UNCOMP, 0), (Reg.SHF_STATE, 0), (Reg.TIM_SWITCHING, 0), (Reg.TIM_HO_SHORT, 0),
    (Reg.TIM_DCO_OFFSET, 0), (Reg.TIM_DCO_LIMIT, 0), (Reg.TIM_MODEL_C1, 0), (Reg.TIM_MODEL_C2, 0), (Reg.TIM_MODEL_C3, 0),
    (Reg.TIM_MODEL_C4, 0), (Reg.TIM_MODEL_AGE, 0), (Reg.TIM_MODEL_TRANGE, 0)]

/-- What a change of DPLL state, a switch or a new DCO offset keeps: the shaft's address and every register field but its own. -/
def DpllMove (s t : State) : Prop := t.addr = s.addr ∧ RegsOnly dpllFields s t

theorem DpllMove.refl (s : State) : DpllMove s s := ⟨rfl, RegsOnly.refl _ s⟩

theorem DpllMove.trans {s t u : State} (h : DpllMove s t) (k : DpllMove t u) : DpllMove s u :=
  ⟨k.1.trans h.1, RegsOnly.trans h.2 k.2⟩

/-- An update that leaves the address and the registers. -/
theorem DpllMove.upd {a s : State} (h : DpllMove a s) {tm dc ct io shf tim flt prt rlk frm map ovm qmg feeds pm cip par eng asy bkg sec
    sys} : DpllMove a ⟨s.pending, tm, s.addr, dc, ct, s.regs, io, shf, tim, flt, prt, rlk, frm, map, ovm, qmg, feeds, pm, cip, par, eng,
      asy, bkg, sec, sys⟩ := ⟨h.1, h.2⟩

theorem DpllMove.wr {a s : State} (k : DpllMove a s) {f : Fld} {i v : Nat} (h : (f, i) ∈ dpllFields) : DpllMove a (s.wr f i v) :=
  ⟨k.1, RegsOnly.wr k.2 f i v h⟩

theorem DpllMove.wrBit {a s : State} (k : DpllMove a s) {f : Fld} {i : Nat} {b : Bool} (h : (f, i) ∈ dpllFields) :
    DpllMove a (s.wrBit f i b) := DpllMove.wr k h

theorem DpllMove.wrInt {a s : State} (k : DpllMove a s) {f : Fld} {i : Nat} {b : Int} (h : (f, i) ∈ dpllFields) :
    DpllMove a (s.wrInt f i b) := DpllMove.wr k h

theorem DpllMove.raise {a s : State} (k : DpllMove a s) {c r : Nat} {d : List (Nat × Nat)} : DpllMove a (s.raise c r d) := k

theorem DpllMove.raiseIf {a s : State} (k : DpllMove a s) {b : Bool} {c r : Nat} {d : List (Nat × Nat)} :
    DpllMove a (s.raiseIf b c r d) := by
  cases b <;> exact k

theorem DpllMove.setCand {a s : State} (k : DpllMove a s) {n : Nat} {c : CandSt} : DpllMove a (s.setCand n c) := k

theorem DpllMove.ite {a s t : State} {c : Prop} [Decidable c] (h : DpllMove a s) (k : DpllMove a t) :
    DpllMove a (if c then s else t) := by
  split <;> assumption

theorem DpllMove.foldl {α : Type} {f : State → α → State} (h : ∀ b s x, DpllMove b s → DpllMove b (f s x)) (l : List α) :
    ∀ {a s : State}, DpllMove a s → DpllMove a (l.foldl f s) := by
  induction l with
  | nil => exact fun k => k
  | cons x r ih => exact fun k => ih (h _ _ x k)

theorem State.setShfState_move {base s : State} {v : Nat} (h : DpllMove base s) : DpllMove base (s.setShfState v) := by
  unfold State.setShfState
  try dsimp only
  repeat' first
    | with_reducible assumption | (with_reducible refine DpllMove.wr ?_ (by simp [dpllFields]))
    | (with_reducible refine DpllMove.wrBit ?_ (by simp [dpllFields]))
    | (with_reducible refine DpllMove.wrInt ?_ (by simp [dpllFields])) | with_reducible apply DpllMove.raise
    | with_reducible apply DpllMove.raiseIf | with_reducible apply DpllMove.setCand | with_reducible apply DpllMove.ite
    | fail_if_no_progress with_reducible apply DpllMove.upd

theorem State.followDpll_move {base s : State} {v : Nat} (h : DpllMove base s) : DpllMove base (s.followDpll v) := by
  unfold State.followDpll
  try dsimp only
  repeat' first
    | with_reducible assumption | (with_reducible refine DpllMove.wr ?_ (by simp [dpllFields]))
    | (with_reducible refine DpllMove.wrBit ?_ (by simp [dpllFields]))
    | (with_reducible refine DpllMove.wrInt ?_ (by simp [dpllFields])) | with_reducible apply DpllMove.raise
    | with_reducible apply DpllMove.raiseIf | with_reducible apply DpllMove.setCand
    | with_reducible apply State.setShfState_move | with_reducible apply DpllMove.ite
    | fail_if_no_progress with_reducible apply DpllMove.upd

theorem State.setDpll_move {base s : State} {v : Nat} (h : DpllMove base s) : DpllMove base (s.setDpll v) := by
  unfold State.setDpll
  try dsimp only
  repeat' first
    | with_reducible assumption | (with_reducible refine DpllMove.wr ?_ (by simp [dpllFields]))
    | (with_reducible refine DpllMove.wrBit ?_ (by simp [dpllFields]))
    | (with_reducible refine DpllMove.wrInt ?_ (by simp [dpllFields])) | with_reducible apply DpllMove.raise
    | with_reducible apply DpllMove.raiseIf | with_reducible apply DpllMove.setCand | with_reducible apply State.followDpll_move
    | with_reducible apply DpllMove.ite | fail_if_no_progress with_reducible apply DpllMove.upd

theorem State.startWaitingWtr_move {base s : State} (h : DpllMove base s) : DpllMove base (s.startWaitingWtr) := by
  unfold State.startWaitingWtr
  try dsimp only
  repeat' first
    | intro _ | with_reducible assumption | (with_reducible refine DpllMove.wr ?_ (by simp [dpllFields]))
    | (with_reducible refine DpllMove.wrBit ?_ (by simp [dpllFields]))
    | (with_reducible refine DpllMove.wrInt ?_ (by simp [dpllFields])) | with_reducible apply DpllMove.raise
    | with_reducible apply DpllMove.raiseIf | with_reducible apply DpllMove.setCand | with_reducible apply DpllMove.ite
    | with_reducible apply DpllMove.foldl | fail_if_no_progress with_reducible apply DpllMove.upd

theorem State.abandonSwitch_move {base s : State} (h : DpllMove base s) : DpllMove base (s.abandonSwitch) := by
  unfold State.abandonSwitch
  try dsimp only
  repeat' first
    | with_reducible assumption | (with_reducible refine DpllMove.wr ?_ (by simp [dpllFields]))
    | (with_reducible refine DpllMove.wrBit ?_ (by simp [dpllFields]))
    | (with_reducible refine DpllMove.wrInt ?_ (by simp [dpllFields])) | with_reducible apply DpllMove.raise
    | with_reducible apply DpllMove.raiseIf | with_reducible apply DpllMove.setCand
    | with_reducible apply State.startWaitingWtr_move | with_reducible apply DpllMove.ite
    | fail_if_no_progress with_reducible apply DpllMove.upd

theorem State.finishSwitch_move {base s : State} (h : DpllMove base s) : DpllMove base (s.finishSwitch) := by
  unfold State.finishSwitch
  try dsimp only
  repeat' first
    | with_reducible assumption | (with_reducible refine DpllMove.wr ?_ (by simp [dpllFields]))
    | (with_reducible refine DpllMove.wrBit ?_ (by simp [dpllFields]))
    | (with_reducible refine DpllMove.wrInt ?_ (by simp [dpllFields])) | with_reducible apply DpllMove.raise
    | with_reducible apply DpllMove.raiseIf | with_reducible apply DpllMove.setCand | with_reducible apply State.setDpll_move
    | with_reducible apply State.startWaitingWtr_move | with_reducible apply DpllMove.ite
    | fail_if_no_progress with_reducible apply DpllMove.upd

theorem State.putCoef_move {base s : State} {f : Fld} {q : Rat} (hf : (f, 0) ∈ dpllFields) (h : DpllMove base s) : DpllMove base (s.putCoef f q) := by
  exact DpllMove.wrInt h hf

theorem State.showFit_move {base s : State} (h : DpllMove base s) : DpllMove base s.showFit := by
  unfold State.showFit
  dsimp only [List.foldl_cons, List.foldl_nil]
  have k : DpllMove base (((((s.putCoef Reg.TIM_MODEL_C1 (s.tim.fit.theta.getD 0 0)).putCoef Reg.TIM_MODEL_C2
      (s.tim.fit.theta.getD 1 0)).putCoef Reg.TIM_MODEL_C3 (s.tim.fit.theta.getD 2 0)).putCoef Reg.TIM_MODEL_C4
      (s.tim.fit.theta.getD 3 0)).putCoef Reg.TIM_MODEL_AGE (s.tim.fit.theta.getD 4 0)) := by
    repeat' refine State.putCoef_move (by simp [dpllFields]) ?_
    exact h
  split <;> exact DpllMove.wr k (by simp [dpllFields])

theorem State.dropSamples_move {base s : State} (h : DpllMove base s) : DpllMove base (s.dropSamples) := by
  unfold State.dropSamples
  try dsimp only
  repeat' first
    | with_reducible assumption | (with_reducible refine DpllMove.wr ?_ (by simp [dpllFields]))
    | (with_reducible refine DpllMove.wrBit ?_ (by simp [dpllFields]))
    | (with_reducible refine DpllMove.wrInt ?_ (by simp [dpllFields])) | with_reducible apply DpllMove.raise
    | with_reducible apply DpllMove.raiseIf | with_reducible apply DpllMove.setCand | with_reducible apply State.showFit_move
    | with_reducible apply DpllMove.ite | split | fail_if_no_progress with_reducible apply DpllMove.upd

theorem State.enterHoldover_move {base s : State} (h : DpllMove base s) : DpllMove base (s.enterHoldover) := by
  unfold State.enterHoldover
  try dsimp only
  repeat' first
    | with_reducible assumption | (with_reducible refine DpllMove.wr ?_ (by simp [dpllFields]))
    | (with_reducible refine DpllMove.wrBit ?_ (by simp [dpllFields]))
    | (with_reducible refine DpllMove.wrInt ?_ (by simp [dpllFields])) | with_reducible apply DpllMove.raise
    | with_reducible apply DpllMove.raiseIf | with_reducible apply DpllMove.setCand | with_reducible apply State.setDpll_move
    | with_reducible apply State.dropSamples_move | with_reducible apply DpllMove.ite
    | fail_if_no_progress with_reducible apply DpllMove.upd

theorem State.beginSwitch_move {base s : State} {o n c : Nat} (h : DpllMove base s) : DpllMove base (s.beginSwitch o n c) := by
  unfold State.beginSwitch
  try dsimp only
  repeat' first
    | with_reducible assumption | (with_reducible refine DpllMove.wr ?_ (by simp [dpllFields]))
    | (with_reducible refine DpllMove.wrBit ?_ (by simp [dpllFields]))
    | (with_reducible refine DpllMove.wrInt ?_ (by simp [dpllFields])) | with_reducible apply DpllMove.raise
    | with_reducible apply DpllMove.raiseIf | with_reducible apply DpllMove.setCand | with_reducible apply DpllMove.ite
    | fail_if_no_progress with_reducible apply DpllMove.upd

theorem State.enterAcquire_move {base s : State} {n : Nat} (h : DpllMove base s) : DpllMove base (s.enterAcquire n) := by
  unfold State.enterAcquire
  try dsimp only
  repeat' first
    | with_reducible assumption | (with_reducible refine DpllMove.wr ?_ (by simp [dpllFields]))
    | (with_reducible refine DpllMove.wrBit ?_ (by simp [dpllFields]))
    | (with_reducible refine DpllMove.wrInt ?_ (by simp [dpllFields])) | with_reducible apply DpllMove.raise
    | with_reducible apply DpllMove.raiseIf | with_reducible apply DpllMove.setCand | with_reducible apply State.setDpll_move
    | with_reducible apply DpllMove.ite | fail_if_no_progress with_reducible apply DpllMove.upd

theorem State.dpllAct_move {base s : State} {sel : Option Nat} {o : Nat} {b : Bool} {c : Nat} (h : DpllMove base s) : DpllMove base (s.dpllAct sel o b c) := by
  unfold State.dpllAct
  try dsimp only
  repeat' first
    | with_reducible assumption | (with_reducible refine DpllMove.wr ?_ (by simp [dpllFields]))
    | (with_reducible refine DpllMove.wrBit ?_ (by simp [dpllFields]))
    | (with_reducible refine DpllMove.wrInt ?_ (by simp [dpllFields])) | with_reducible apply DpllMove.raise
    | with_reducible apply DpllMove.raiseIf | with_reducible apply DpllMove.setCand | with_reducible apply State.setDpll_move
    | with_reducible apply State.abandonSwitch_move | with_reducible apply State.enterHoldover_move
    | with_reducible apply State.beginSwitch_move | with_reducible apply State.enterAcquire_move
    | with_reducible apply DpllMove.ite | split | fail_if_no_progress with_reducible apply DpllMove.upd

theorem State.judgeLock_move {base s : State} (h : DpllMove base s) : DpllMove base (s.judgeLock) := by
  unfold State.judgeLock
  try dsimp only
  repeat' first
    | with_reducible assumption | (with_reducible refine DpllMove.wr ?_ (by simp [dpllFields]))
    | (with_reducible refine DpllMove.wrBit ?_ (by simp [dpllFields]))
    | (with_reducible refine DpllMove.wrInt ?_ (by simp [dpllFields])) | with_reducible apply DpllMove.raise
    | with_reducible apply DpllMove.raiseIf | with_reducible apply DpllMove.setCand | with_reducible apply DpllMove.ite
    | fail_if_no_progress with_reducible apply DpllMove.upd

theorem State.setDco_move {base s : State} {d : Int} (h : DpllMove base s) : DpllMove base (s.setDco d) := by
  unfold State.setDco
  try dsimp only
  repeat' first
    | with_reducible assumption | (with_reducible refine DpllMove.wr ?_ (by simp [dpllFields]))
    | (with_reducible refine DpllMove.wrBit ?_ (by simp [dpllFields]))
    | (with_reducible refine DpllMove.wrInt ?_ (by simp [dpllFields])) | with_reducible apply DpllMove.raise
    | with_reducible apply DpllMove.raiseIf | with_reducible apply DpllMove.setCand | with_reducible apply DpllMove.ite
    | fail_if_no_progress with_reducible apply DpllMove.upd

theorem State.judgeDemand_move {base s : State} {d : Int} (h : DpllMove base s) : DpllMove base (s.judgeDemand d) := by
  unfold State.judgeDemand
  try dsimp only
  repeat' first
    | with_reducible assumption | (with_reducible refine DpllMove.wr ?_ (by simp [dpllFields]))
    | (with_reducible refine DpllMove.wrBit ?_ (by simp [dpllFields]))
    | (with_reducible refine DpllMove.wrInt ?_ (by simp [dpllFields])) | with_reducible apply DpllMove.raise
    | with_reducible apply DpllMove.raiseIf | with_reducible apply DpllMove.setCand | with_reducible apply DpllMove.ite
    | fail_if_no_progress with_reducible apply DpllMove.upd

theorem State.runLoop_move {base s : State} {e : Int} {m : Nat} {b : Bool} (h : DpllMove base s) : DpllMove base (s.runLoop e m b) := by
  unfold State.runLoop
  try dsimp only
  repeat' first
    | with_reducible assumption | (with_reducible refine DpllMove.wr ?_ (by simp [dpllFields]))
    | (with_reducible refine DpllMove.wrBit ?_ (by simp [dpllFields]))
    | (with_reducible refine DpllMove.wrInt ?_ (by simp [dpllFields])) | with_reducible apply DpllMove.raise
    | with_reducible apply DpllMove.raiseIf | with_reducible apply DpllMove.setCand
    | with_reducible apply State.judgeDemand_move | with_reducible apply State.setDco_move | with_reducible apply DpllMove.ite
    | fail_if_no_progress with_reducible apply DpllMove.upd

theorem State.driveDco_move {base s : State} (h : DpllMove base s) : DpllMove base (s.driveDco) := by
  unfold State.driveDco
  try dsimp only
  repeat' first
    | with_reducible assumption | (with_reducible refine DpllMove.wr ?_ (by simp [dpllFields]))
    | (with_reducible refine DpllMove.wrBit ?_ (by simp [dpllFields]))
    | (with_reducible refine DpllMove.wrInt ?_ (by simp [dpllFields])) | with_reducible apply DpllMove.raise
    | with_reducible apply DpllMove.raiseIf | with_reducible apply DpllMove.setCand
    | with_reducible apply State.judgeDemand_move | with_reducible apply State.setDco_move
    | with_reducible apply State.runLoop_move | with_reducible apply State.finishSwitch_move | with_reducible apply DpllMove.ite
    | fail_if_no_progress with_reducible apply DpllMove.upd

theorem State.judge450_move {base s : State} (h : DpllMove base s) : DpllMove base (s.judge450) := by
  unfold State.judge450
  try dsimp only
  repeat' first
    | with_reducible assumption | (with_reducible refine DpllMove.wr ?_ (by simp [dpllFields]))
    | (with_reducible refine DpllMove.wrBit ?_ (by simp [dpllFields]))
    | (with_reducible refine DpllMove.wrInt ?_ (by simp [dpllFields])) | with_reducible apply DpllMove.raise
    | with_reducible apply DpllMove.raiseIf | with_reducible apply DpllMove.setCand | with_reducible apply DpllMove.ite
    | fail_if_no_progress with_reducible apply DpllMove.upd

theorem State.setDco_dco (s : State) (d : Int) : (s.setDco d).dco = clampDco d := by
  unfold State.setDco
  dsimp only
  split
  · next h => exact h.symm
  · rfl

/-- The address at which a wait ends, while the shaft runs. -/
theorem State.waitAddr_addr (s : State) (a : Nat) (h : s.halted = false) : (s.waitAddr a).addr = max s.addr a := by
  unfold State.waitAddr State.elapse
  simp [h]; omega

theorem le_ceilTo (m a : Nat) (h : 0 < m) : a ≤ ceilTo m a := by
  unfold ceilTo
  have := Nat.div_add_mod (a + m - 1) m
  have h2 := Nat.mod_lt (a + m - 1) h
  rw [Nat.mul_comm] at this
  omega

/-- The boundary that a wait ends at, while the shaft runs. -/
theorem State.toBoundary_addr (s : State) (dt m : Nat) (h : s.halted = false) (hm : 0 < m) :
    (s.toBoundary dt m).addr = ceilTo m (s.addr + dt) := by
  unfold State.toBoundary
  have hd : (s.elapse dt).halted = false := h
  have haddr : (s.elapse dt).addr = s.addr + dt := by simp [State.elapse, h]
  simp only [State.waitAddr_addr _ _ hd, haddr]
  have := le_ceilTo m (s.addr + dt) hm
  omega

end Sys2Proof.Machine
end

