-- ==== Sys2Proof/Tests/Slice0.lean ====
section
/-! SUPPORT. The writer's own tests: ill-formed terms that `Instr.wf` refuses, worked numbers of the spec, and for every
obligation with hypotheses a theorem that a concrete state and operands meet them, clause by clause. -/

set_option Elab.async false

namespace Sys2Proof.Tests

open Sys2Proof.Machine

/-- The reset state with some fields set. -/
def wt (l : List (Fld × Nat × Nat)) : State := l.foldl (fun s e => s.wr e.1 e.2.1 e.2.2) State.reset
/-- A command ring slot. -/
def h0 : HostRef := ⟨3, 7, false, false⟩
/-- The next state, for outcomes that are one. -/
def outNext : Host.Outcome State Fault Refusal → State
  | .next t => t
  | _ => {}

/-! ### Ill-formed terms, one for each check of `WellFormed` -/

theorem test_wf_widths_refused :
    (Instr.timForce 0 h0 256).wf = false ∧ (Instr.prtAdaptRestart 0 h0 65536).wf = false ∧
    (Instr.regCommit 0 h0 (2 ^ 32)).wf = false ∧ (Instr.timSetTod 0 h0 0 (2 ^ 48) 0).wf = false ∧
    (Instr.hifNop 0 h0 (2 ^ 64)).wf = false ∧ (Instr.inputStuck 0 0 2).wf = false ∧
    (Instr.timSteer 0 h0 (2 ^ 31)).wf = false ∧ (Instr.timSteer 0 h0 (-(2 ^ 31) - 1)).wf = false ∧
    (Instr.bkgLogAppend 0 h0 (List.replicate 11 0)).wf = false := by decide +kernel

theorem test_wf_numbers_refused :
    (Instr.laneLol 0 80 true).wf = false ∧ (Instr.trbAlign 0 32).wf = false ∧ (Instr.wtrExpiry 0 20).wf = false ∧
    (Instr.xfadeDone 0 48).wf = false ∧ (Instr.handover 0 49152).wf = false ∧ (Instr.ovmRestart 0 96).wf = false ∧
    (Instr.stageUnusable 0 4 0).wf = false ∧ (Instr.timClear 0 ⟨16, 0, false, false⟩).wf = false ∧
    (Instr.registerWrite 0 2 0 15).wf = false := by
  decide +kernel

theorem test_wf_structures_refused :
    (Instr.armSwap 0 [{ period := 8, cyc := 0, pos := 0, cls := 0, target := 0, arg := 0 }]).wf = false ∧
    (Instr.doorbellRead 0 { ok := true, status := 0, bytes := [256], lines := [] }).wf = false ∧
    (Instr.timModelLoad 0 h0 { c1 := 2 ^ 31, c2 := 0, c3 := 0, c4 := 0, age := 0, t0 := 0 }).wf = false ∧
    (Instr.fltConfig 0 h0 { ch := 0, preset := 256, n := 0, r := 0, k := 0, keep := false }).wf = false ∧
    (Instr.fltCoefLoad 0 h0 0 0 0 true [1]).wf = false ∧
    (Instr.trbFrameRx 0 0 0 (List.replicate 4859 0)).wf = false ∧
    (Instr.tubRx 0 0 0 (List.replicate 8 { sync := 1, bytes := [0, 0, 0, 0, 0, 0, 0] })).wf = false ∧
    (Instr.frmCtxCfg 0 h0 { ctx := 0, sf := 256, sd := 0, trace := 0, acts := 0, label := 0, sa := 0 }).wf = false ∧
    (Instr.frmTraceSet 0 h0 { ctx := 0, tx := 0, layer := 4, part := 0, bytes := List.replicate 32 0 }).wf = false ∧
    (Instr.frmApsCfg 0 h0 { group := 0, mode := 0, hold := 256, wtr := 0 }).wf = false ∧
    (Instr.mapPageRead 0 h0 { what := 0, standby := 0, first := 0, count := 65536, host := 0 }).wf = false ∧
    (Instr.ovmMovePlan 0 {} [{ ctx := 49152, reason := 1, place := {} }]).wf = false ∧
    (Instr.queuePush 0 0 { bytes := List.replicate 65 0, wide := true, last := false, abort := false, status := 0, tag := 0 }).wf = false ∧
    (Instr.qmgQCreate 0 h0 { q := 65536, k := 8, mode := 0, hold := false, flush := 1, high := 0, low := 0 }).wf = false ∧
    (Instr.pmnPointCfg 0 h0 { point := 0, on := true, bidir := false, exp := false, prof := 256 }).wf = false ∧
    (Instr.pmnProfileSet 0 h0 { prof := 0, typ := 0, neP := 0, feP := 0, thr := [] }).wf = false ∧
    (Instr.pmnHistRead 0 h0 { point := 0, count := 65536, typ := 0, first := 0, num := 1, host := 0 }).wf = false ∧
    (Instr.secDebugUnlock 0 h0 [256]).wf = false ∧
    (Instr.cipWrapLoad 0 h0 { slot := 255, fromEpoch := 0, peer := 0, blob := List.replicate 39 0 }).wf = false ∧
    (Instr.cipEpochFlip 0 h0 { scope := 0, num := 0, epoch := 65536, raiseCur := false } true).wf = false ∧
    (Instr.bulkMessage 0 { typ := 256, prio := 0, length := 0, iv := 0, nonce := 0, opening := false, early := false, pair := 0, text := [], tag := 0 }).wf = false ∧
    (Instr.grant 0 { head := List.replicate 15 0, payload := [], crc := 0 }).wf = false ∧
    (Instr.engCrashPoints 0 h0 1 0 [1]).wf = false ∧
    (Instr.descriptorFetch 0 [(0, [List.replicate 63 0])]).wf = false ∧
    (Instr.hifDqBind 0 h0 { d := 0, q := 0, dir := 2 ^ 8, size := 6, base := 0, evq := 0, thr := 0 }).wf = false ∧
    (Instr.hifSevSet 0 h0 0 1 [1]).wf = false ∧
    (Instr.assayGranuleCheck 0 { unit := 6, index := 0, kind := 0, num := 0, written := false, word := 0, stored := 0, dataA := [], dataB := [], memErr := false, last := false }).wf = false ∧
    (Instr.transferUnitRx 0 0 [256]).wf = false ∧
    (Instr.scrubWord 0 { addr := 0, row := 0, group := 0, scrub := true, written := false, error := true, uncorr := false, kind := 10, num := 0 }).wf = false := by
  decide +kernel

theorem test_wf_accepts_extremes :
    (Instr.hifNop 0 ⟨15, 2 ^ 32 - 1, true, true⟩ (2 ^ 64 - 1)).wf = true ∧ (Instr.laneLol 0 79 true).wf = true ∧
    (Instr.timSteer 0 h0 (-(2 ^ 31))).wf = true ∧ (Instr.tstArm 0 (2 ^ 32 - 1)).wf = true := by decide +kernel

/-! ### Worked numbers of the spec -/

/-- Example 00-1: 1,024:7,290 is the stamp 0x0000_0000_0400_1C7A. -/
theorem test_stamp_of_example : stampOf (1024 * 19440 + 7290) = 0x0000000004001C7A := by decide +kernel

/-- R454 names CRC-32C, whose check value over "123456789" is 0xE306_9283. -/
theorem test_crc32c_check_value : crc32c [0x31, 0x32, 0x33, 0x34, 0x35, 0x36, 0x37, 0x38, 0x39] = 0xE3069283 := by
  decide +kernel

/-- R181: over the ASCII bytes "123456789" the CRC-16/CCITT gives 0x29B1. -/
theorem test_crc16_check_value : crc16 [0x31, 0x32, 0x33, 0x34, 0x35, 0x36, 0x37, 0x38, 0x39] = 0x29B1 := by decide +kernel

/-- Chapter 08's bundle: slot 17's TSI entry. -/
theorem test_tsi_entry_of_example :
    tsiEntry 8273 { intent := 0x63, kind := 8, dest := some 8319, pos := 0x73, place := { inSlice := 0, egSlice := 1 }, endpoint := { typ := 2, lane := 4, idx := 17 }, stage := true } none = 0x94207F7308144000000007FF00000000 := by
  decide +kernel

/-- Chapter 08's bundle: the entry of grain 96. -/
theorem test_grain_entry_of_example :
    grainEntry 8322 { intent := 0x63, kind := 0x10, dest := some 49028, stage := true, place := { egSlice := 1, lineSlice := 1, grain := 96, grains := 1, ts := 12 } } 0 = 0xB641040008CBF840 := by
  decide +kernel

/-- R160: the main tap gives way first, then the post tap, then the pre tap. -/
theorem test_taps_clip :
    clipTaps 4 51 8 = (4, 51, 8) ∧ clipTaps 20 40 30 = (20, 13, 30) ∧ clipTaps 40 30 40 = (40, 0, 23) ∧
    clipTaps 63 63 63 = (63, 0, 0) := by decide +kernel

/-- Example 10-1: a second with 5 errored blocks is an ES, and one with a defect is ES, SES and DS. -/
theorem test_classify_of_example :
    (classify { neEb := 5 } (2400, 2400)).bits = 65 ∧ (classify { neEb := 5 } (2400, 2400)).neBbe = 5 ∧
    (classify { neDc := 1 } (2400, 2400)).bits = 71 := by decide +kernel

/-- Example 02-1: arming at 4,095:18,200 makes the next boundary, at 4,099:19,100 the one after. -/
theorem test_arming_of_example :
    (outNext (exec (.armSwap 0 []) { wt [(Reg.SHF_STATE, 0, 1)] with addr := 4095 * 19440 + 18200 })).rd
      Reg.SHF_SWAP_DEFER_CNT 0 = 0 ∧
    (outNext (exec (.armSwap 0 []) { wt [(Reg.SHF_STATE, 0, 1)] with addr := 4099 * 19440 + 19100 })).rd
      Reg.SHF_SWAP_DEFER_CNT 0 = 1 := by decide +kernel

/-- A word that the table gives no bits decodes to no command, and places none. -/
theorem test_no_word_decodes : decodeTableWord 32 0 = none ∧ State.reset.withFetchWord 32 0 = State.reset := by
  decide +kernel

/-! ### Witnesses for the statements about every step and command -/

/-- A state at the DCO's limit, with a byte in host memory and a command in front. -/
def wInv : State :=
  let s := wt [(Reg.SHF_STATE, 0, 1)]
  { s with dco := 500000000, pending := [.timClear 1 h0], io := { s.io with mem := [(64, 7)] } }

/-- The hypotheses of `Obligations.StepKeepsInvariant` are met. -/
theorem witness_StepKeepsInvariant : Inv wInv ∧ step wInv = .next (outNext (step wInv)) := by
  refine ⟨⟨?_, ?_⟩, rfl⟩
  · unfold dcoOk; decide +kernel
  · unfold ioOk; decide +kernel

/-- The hypothesis of `Obligations.CommandsChangeOnlyTheirParts` is met, for a host command and for an event. -/
theorem witness_CommandsChangeOnlyTheirParts :
    exec (.timClear 4 h0) wInv = .next (outNext (exec (.timClear 4 h0) wInv)) ∧
    exec (.shaftHalt 4) wInv = .next (outNext (exec (.shaftHalt 4) wInv)) := ⟨rfl, rfl⟩

/-- The hypothesis of `Obligations.CommandsLeaveTheQueue` is met where a command still waits. -/
theorem witness_CommandsLeaveTheQueue :
    exec (.timClear 1 h0) wInv = .next (outNext (exec (.timClear 1 h0) wInv)) := rfl

/-- The hypothesis of `Obligations.StampsHoldCycleAndPosition` on a completion is met. -/
theorem witness_StampsHoldCycleAndPosition :
    (({ wInv with addr := 77 * 19440 + 19439 } : State).complete h0 Op.TIM_CLEAR 0 0 []).io.cpllog.head?.isSome = true := by
  decide +kernel

/-- The hypotheses of `Obligations.AnswersStoreOnlyTheirBytes` on the reads are met, at an address outside what they store. -/
theorem witness_AnswersStoreOnlyTheirBytes_reads :
    exec (.mapPageRead 1 h0 { what := 0, standby := 0, first := 0, count := 2, host := 4096 }) wInv =
      .next (outNext (exec (.mapPageRead 1 h0 { what := 0, standby := 0, first := 0, count := 2, host := 4096 }) wInv)) ∧
    exec (.pmnSecRead 1 h0 0 4096) wInv = .next (outNext (exec (.pmnSecRead 1 h0 0 4096) wInv)) ∧
    (64 < 4096 ∧ (64 < wInv.cplSlot h0.ring ∨ wInv.cplSlot h0.ring + 32 ≤ 64)) := ⟨rfl, rfl, by decide +kernel⟩

/-! ### The hypotheses of the statements are met -/

namespace General

def w0 : State := State.reset
def wRun : State := wt [(Reg.SHF_STATE, 0, 1)]
def wQue : State := { wRun with pending := [.hifNop 0 h0 5, .timClear 1 h0] }
def wRst : State := wt [(Reg.SHF_STATE, 0, 1), (Reg.RST_ACTIVE, 0, 2)]
def wRing (l : List (Fld × Nat × Nat)) : State :=
  let s := wt ([(Reg.SHF_STATE, 0, 1), (Reg.HIF_LINK_UP, 0, 1), (Reg.HIF_CMD_CPL, 3, 2), (Reg.HIF_CPL_EN, 2, 1), (Reg.HIF_CPL_SIZE, 2, 6),
    (Reg.HIF_CPL_BASE_LO, 2, 4096), (Reg.HIF_EN, 0, 1), (Reg.HIF_EVQ_EN, 0, 1), (Reg.HIF_EVQ_SIZE, 0, 6), (Reg.HIF_EVQ_BASE_LO, 0, 8192)] ++ l)
  { s with io := { s.io with busMaster := true } }
def wStale : State := { wRing [(Reg.RST_GEN, 1, 5)] with io := { (wRing []).io with delivered := [{ ring := 3, tag := 7, opcode := Op.TIM_CLEAR, noCpl := false, gens := [0, 4] }] } }
def hBad : HostRef := ⟨3, 7, false, true⟩
def s1 : State := wRing []
def s2 : State := wRing [(Reg.HIF_CPL_EN, 2, 0)]
def s3 : State := wRing [(Reg.HIF_LINK_UP, 0, 0)]
def s4 : State := outNext (exec (.hifNop 0 h0 9) (wRing []))
def wCrit : State := wRing [(Reg.HIF_EVQ_EN, 3, 1), (Reg.HIF_EVQ_SIZE, 3, 6), (Reg.HIF_EVQ_BASE_LO, 3, 65536), (Reg.HIF_EVQ_ROUTE0, 0, 3), (Reg.HIF_EVQ_ROUTE1, 0, 3), (Reg.HIF_EVQ_ROUTE2, 0, 3), (Reg.HIF_EVQ_ROUTE3, 0, 3),
 (Reg.HIF_EVQ_ROUTE0, 1, 3), (Reg.HIF_EVQ_ROUTE1, 1, 3), (Reg.HIF_EVQ_ROUTE2, 1, 3), (Reg.HIF_EVQ_ROUTE3, 1, 3)]
def rec0 : EvRec := { code := Ev.SCHED_LATE, sev := 2, folded := false, caused := false, src := 0, stamp := 0, detail := packItems [] }
def wOne : State := { wRing [] with io := (wRing []).io.wr Reg.HIF_EVQ_PROD 0 63 }
def wOver : State := { wOne with io := { wOne.io with evq := [(0, { inOver := true, drops := 4 })] } }
def wFull : State := { wRun with io := { wRun.io with evq := [(0, { held := List.replicate 64 rec0 })] } }
def s5 : State := {wRun with addr := 19440*77+19439}
def ent (c : Nat) : SchedEntry := { period := 0, cyc := 0, pos := 5, cls := 0, target := c, arg := 0 }
def wLate : State := { wRun with addr := 5, shf := { wRun.shf with bank0 := (List.range 10).map (fun k => (k, ent k)) } }
def wHalf : State := { wLate with shf := { wLate.shf with firedAt := some wLate.addr, half := true, fired := [swapEntry] } }
def wAtSwap : State := { wLate with shf := { wLate.shf with armDue := some wLate.addr } }
def wLate0 : State := { wRun with addr := 0, shf := { wRun.shf with carried := (List.range 9).map ent } }
def wArm : State := { wRun with addr := 19440 * 3 + 18999 }
def s6 : State := wt [(Reg.HIF_CMD_CONS, 4, 2^32-1)]
def dq0 : DqSt := {q := 1, toHost := true, size := 6, base := 0x10000, evq := 0, thr := 4, dev := 10, host := 6, words := 3}
def wDq (x : DqSt) : State := { wRing [] with qmg := { (wRing []).qmg with dqs := [(5, x)] } }
def s7 : State := wDq dq0
def s8 : State := wDq {dq0 with ready := true}
def q9x : DqSt := {dq0 with ready := true}
def s10 : State := wDq {dq0 with ready := true, dev := 20}
def q11x : DqSt := {dq0 with ready := true, dev := 20}
def mq (hold : Bool) (m wp : Nat) : QSt := { hold := hold, mark := some m, rp := 60, wp := wp }
def wMq (x : QSt) : State := { wRun with qmg := { wRun.qmg with qs := [(5, x)] } }
def s12 : State := wMq (mq false 0 64)
def s13 : State := wMq (mq true 60 64)
def s14 : State := wMq (mq false 1 64)
def q7n (b : Bool) : QSt := { reader := 7, markLost := b }
def s15 : State := wMq (q7n true)
def s16 : State := wMq (q7n false)

/-- The hypotheses of `Obligations.StepRunsFrontCommand` are met. -/
theorem witness_StepRunsFrontCommand :
    (wQue.pending = [Instr.hifNop 0 h0 5, Instr.timClear 1 h0]) := by
  and_intros <;> decide +kernel

/-- The hypotheses of `Obligations.EmptyQueueLetsOnePeriodPass` are met. -/
theorem witness_EmptyQueueLetsOnePeriodPass :
    (wRun.pending = []) := by
  and_intros <;> decide +kernel

/-- The hypotheses of `Obligations.HostCommandsMeetResets` are met. -/
theorem witness_HostCommandsMeetResets :
    (hostOf (Instr.timClear 4 h0) = some (4, h0, domShaft, Op.TIM_CLEAR) ∧ (wRst.elapse 4).inReset domShaft = true) ∧
    (hostOf (Instr.timClear 4 h0) = some (4, h0, domShaft, Op.TIM_CLEAR) ∧ (wStale.elapse 4).inReset domShaft = false
      ∧ (wStale.elapse 4).stale h0 domShaft Op.TIM_CLEAR = true) ∧
    (hostOf (Instr.asyLoopback 4 hBad 64 128 3 [] []) = some (4, hBad, 0, Op.ASY_LOOPBACK) ∧ (wRun.elapse 4).inReset 0
      = false ∧ (wRun.elapse 4).stale hBad 0 Op.ASY_LOOPBACK = false ∧ hBad.badRead = true ∧ readsBuffer
      Op.ASY_LOOPBACK = true) := by
  and_intros <;> decide +kernel

/-- The hypotheses of `Obligations.CompletionsTakeTheirSlot` are met. -/
theorem witness_CompletionsTakeTheirSlot :
    (2 = s1.rd Reg.HIF_CMD_CPL h0.ring) ∧
    (2 = s1.rd Reg.HIF_CMD_CPL h0.ring ∧ s1.mayUseHost = true ∧ s1.io.heldCpl = [] ∧ h0.noCpl = false ∧ (∀ d ∈
      s1.io.delivered, d.isOf h0.ring h0.tag Op.HIF_NOP = true → d.dead = false) ∧ s1.rd Reg.HIF_CPL_EN 2 = 1 ∧ 2 <
      16) ∧
    (2 = s2.rd Reg.HIF_CMD_CPL h0.ring ∧ s2.mayUseHost = true ∧ s2.io.heldCpl = [] ∧ h0.noCpl = false ∧ (∀ d ∈
      s2.io.delivered, d.isOf h0.ring h0.tag Op.HIF_NOP = true → d.dead = false) ∧ s2.rd Reg.HIF_CPL_EN 2 ≠ 1 ∧ 2 <
      16) ∧
    (2 = s3.rd Reg.HIF_CMD_CPL h0.ring ∧ s3.mayUseHost = false ∧ h0.noCpl = false ∧ (∀ d ∈ s3.io.delivered, d.isOf
      h0.ring h0.tag Op.HIF_NOP = true → d.dead = false)) := by
  and_intros <;> decide +kernel

/-- The hypotheses of `Obligations.AnswersStoreOnlyTheirBytes` are met. -/
theorem witness_AnswersStoreOnlyTheirBytes :
    (Instr.hifNop 0 h0 9 ∈ [Instr.timClear 0 h0, Instr.timHoldover 0 h0 0, Instr.timSetTod 0 h0 0 0 0,
      Instr.timTodCapture 0 h0, Instr.hifNop 0 h0 9, Instr.hifSevSet 0 h0 0 0 [], Instr.cfgStatus 0 h0,
      Instr.pmnPointClear 0 h0 0 false false] ∧ exec (Instr.hifNop 0 h0 9) s1 = Host.Outcome.next s4) := by
  exact ⟨by decide +kernel, rfl⟩

/-- The hypotheses of `Obligations.EventsGoToTheirQueues` are met. -/
theorem witness_EventsGoToTheirQueues :
    (0 = s1.routeOf Ev.SCHED_LATE ∧ 0 < 32 ∧ s1.evqOpen 0 = true ∧ (tget ({} : EvqSt) s1.io.evq 0).held = [] ∧ (tget
      ({} : EvqSt) s1.io.evq 0).inOver = false ∧ 2 ≤ s1.evqFree s1.io 0 ∧ (s1.severity Ev.SCHED_LATE ≠ 4 ∨ 0 = 0)) ∧
    (3 = wCrit.routeOf Ev.SHAFT_HALT ∧ 3 < 32 ∧ wCrit.evqOpen 3 = true ∧ (tget ({} : EvqSt) wCrit.io.evq 3).held = []
      ∧ (tget ({} : EvqSt) wCrit.io.evq 3).inOver = false ∧ 2 ≤ wCrit.evqFree wCrit.io 3 ∧ wCrit.severity
      Ev.SHAFT_HALT = 4 ∧ 3 ≠ 0 ∧ wCrit.evqOpen 0 = true ∧ (tget ({} : EvqSt) wCrit.io.evq 0).held = [] ∧ (tget ({} :
      EvqSt) wCrit.io.evq 0).inOver = false ∧ 2 ≤ wCrit.evqFree wCrit.io 0) := by
  and_intros <;> decide +kernel

/-- The hypotheses of `Obligations.EventsStoreOnlyInTheirRings` are met. -/
theorem witness_EventsStoreOnlyInTheirRings :
    (rec0.detail.length = 12 ∧ (∀ (k : ℕ), k = 0 ∨ k = 3 → 8191 < wCrit.evqBase k ∨ wCrit.evqBase k + 32 *
      wCrit.evqSize k ≤ 8191)) := by
  refine ⟨by decide +kernel, fun k hk => ?_⟩
  rcases hk with rfl | rfl <;> decide +kernel

/-- The hypotheses of `Obligations.EventQueuesOverflow` are met. -/
theorem witness_EventQueuesOverflow :
    (wOne.evqOpen 0 = true ∧ (tget ({} : EvqSt) wOne.io.evq 0).held = [] ∧ (tget ({} : EvqSt) wOne.io.evq 0).inOver =
      false ∧ wOne.evqFree wOne.io 0 = 1) ∧
    (wOver.evqOpen 0 = true ∧ (tget ({} : EvqSt) wOver.io.evq 0).held = [] ∧ (tget ({} : EvqSt) wOver.io.evq 0).inOver
      = true) ∧
    (wRun.evqOpen 0 = false ∧ (tget ({} : EvqSt) wRun.io.evq 0).held.length < 64) ∧
    (wFull.evqOpen 0 = false ∧ (tget ({} : EvqSt) wFull.io.evq 0).held.length = 64) := by
  and_intros <;> decide +kernel

/-- The hypotheses of `Obligations.HostMemoryReadsBack` are met. -/
theorem witness_HostMemoryReadsBack :
    (memWf [(4, 9), (7, 3)] = true) ∧
    (memWf [(4, 9), (7, 3)] = true ∧ [1, 0, 300, 4][2]? = some 300) ∧
    (memWf [(4, 9), (7, 3)] = true ∧ (7 < 3 ∨ 3 + [1, 0, 300, 4].length ≤ 7)) := by
  and_intros <;> decide +kernel

/-- The hypotheses of `Obligations.RecordsEndWithTheirCrc` are met. -/
theorem witness_RecordsEndWithTheirCrc :
    (packItems [(4, 8)] = packItems [(4, 8)]) := by
  and_intros <;> decide +kernel

/-- The hypotheses of `Obligations.NothingLiesAboveTheMap` are met. -/
theorem witness_NothingLiesAboveTheMap :
    (10485759 < 10485760) := by
  and_intros <;> decide +kernel

/-- The hypotheses of `Obligations.EntriesBeyondTheEighthAreCarried` are met. -/
theorem witness_EntriesBeyondTheEighthAreCarried :
    (wLate.halted = false ∧ wLate.shf.armDue ≠ some (wLate.addr + 0) ∧ (wLate.shf.firedAt ≠ some (wLate.addr + 0) ∨
      wLate.shf.half = true) ∧ wLate.perturbed 3 = false) ∧
    (wHalf.halted = false ∧ wHalf.shf.armDue ≠ some (wHalf.addr + 0) ∧ (wHalf.shf.firedAt ≠ some (wHalf.addr + 0) ∨
      wHalf.shf.half = true) ∧ wHalf.perturbed 3 = false) ∧
    (wAtSwap.halted = false ∧ wAtSwap.shf.armDue = some (wAtSwap.addr + 0) ∧ wAtSwap.shf.firedAt ≠ some (wAtSwap.addr
      + 0)) ∧
    (wLate0.halted = false ∧ wLate0.shf.armDue ≠ some (wLate0.addr + 0) ∧ (wLate0.shf.firedAt ≠ some (wLate0.addr + 0)
      ∨ wLate0.shf.half = true) ∧ wLate0.perturbed 3 = false) := by
  and_intros <;> decide +kernel

/-- The hypotheses of `Obligations.LateArmingDefersTheSwap` are met. -/
theorem witness_LateArmingDefersTheSwap :
(wArm.halted = false ∧ wArm.hasAuthority = true ∧ wArm.ovm.arm = none ∧ (wArm.paired = false ∨ (wArm.elapse 0).mateSilent = true) ∧ have p := (wArm.elapse 0).prepareSwap [];
    p.1.bankKept (List.map (fun x => x.2) p.2.bank) = true) ∧
(wArm.halted = false ∧ wArm.hasAuthority = true ∧ wArm.ovm.arm = none ∧ (wArm.paired = false ∨ (wArm.elapse 1).mateSilent = true) ∧ have p := (wArm.elapse 1).prepareSwap [];
    p.1.bankKept (List.map (fun x => x.2) p.2.bank) = true) ∧
(wRun.halted = false ∧ wRun.hasAuthority = true ∧ wRun.ovm.arm = none ∧ (wRun.paired = false ∨ (wRun.elapse 1).mateSilent = true) ∧ have p := (wRun.elapse 1).prepareSwap [];
    p.1.bankKept (List.map (fun x => x.2) p.2.bank) = true) := by
  and_intros <;> decide +kernel

/-- The hypotheses of `Obligations.AliveCountersFollowThePasses` are met. -/
theorem witness_AliveCountersFollowThePasses :
    (0 < 64) ∧
    (tsorted wCrit.io.laps = true) ∧
    (2 = s1.rd Reg.HIF_CMD_CPL 3 ∧ 2 < 16 ∧ s1.rd Reg.HIF_CPL_EN 2 = 1 ∧ 2 ^ 32 - 1 = ((wRing []).io.wr
      Reg.HIF_CPL_PROD 2 (2 ^ 32 - 1)).rd Reg.HIF_CPL_PROD 2 ∧ 2 ^ 32 - 1 < 2 ^ 32 ∧ 64 = 2 ^ s1.rd Reg.HIF_CPL_SIZE
      2) ∧
    (0 < 32 ∧ 2 ^ 32 - 1 = ((wRing []).io.wr Reg.HIF_EVQ_PROD 0 (2 ^ 32 - 1)).rd Reg.HIF_EVQ_PROD 0 ∧ 2 ^ 32 - 1 < 2 ^
      32) ∧
    (4 < 16 ∧ s6.rd Reg.HIF_CMD_CONS 4 < 2 ^ 32) := by
  and_intros <;> decide +kernel

/-- The hypotheses of `Obligations.ReadyIsRaisedOnceAtTheThreshold` are met. -/
theorem witness_ReadyIsRaisedOnceAtTheThreshold :
    (tfind s7.qmg.dqs 5 = some dq0 ∧ dq0.toHost = true ∧ (dq0.words ≠ 0 ∨ dq0.reset = true) ∧ s7.mayUseHost = true ∧
      s7.io.resumeAt ≤ (s7.toBoundary 0 Config.cyclePos).addr ∧ dq0.evq < 32 ∧ dq0.ready = false ∧ max 1 dq0.thr ≤
      ahead dq0.host dq0.dev) ∧
    (tfind s8.qmg.dqs 5 = some q9x ∧ q9x.toHost = true ∧ (q9x.ready = true ∨ q9x.evq = 255 ∨ ahead q9x.host q9x.dev <
      max 1 q9x.thr)) ∧
    (tfind s7.qmg.dqs 5 = some dq0 ∧ dq0.toHost = true ∧ 6 % 2 ^ 32 = dq0.host) ∧
    (tfind s10.qmg.dqs 5 = some q11x ∧ q11x.toHost = true ∧ 7 % 2 ^ 32 ≠ q11x.host ∧ ahead q11x.host 7 ≤ ahead
      q11x.host q11x.dev) ∧
    (tfind s8.qmg.dqs 5 = some q9x ∧ q9x.toHost = true ∧ 8 % 2 ^ 32 ≠ q9x.host ∧ ahead q9x.host 8 ≤ ahead q9x.host
      q9x.dev) := by
  and_intros <;> decide +kernel

/-- The hypotheses of `Obligations.OverwrittenMarksAreLost` are met. -/
theorem witness_OverwrittenMarksAreLost :
    (s12.queue 5 = some (mq false 0 64) ∧ (mq false 0 64).depth ≠ (mq false 0 64).size ∧ (mq false 0 64).mark = some
      0) ∧
    (s13.queue 5 = some (mq true 60 64) ∧ (mq true 60 64).depth ≠ (mq true 60 64).size ∧ (mq true 60 64).mark = some
      60) ∧
    (s14.queue 5 = some (mq false 1 64) ∧ (mq false 1 64).depth ≠ (mq false 1 64).size ∧ (mq false 1 64).mark = some
      1) ∧
    (Admitted s15 3 h0 domQmg Op.QMG_REWIND ∧ s15.queue 5 = some (q7n true) ∧ (q7n true).resetting = false ∧ (q7n
      true).reader = 7 ∧ (q7n true).mark = none) ∧
    (Admitted s16 3 h0 domQmg Op.QMG_REWIND ∧ s16.queue 5 = some (q7n false) ∧ (q7n false).resetting = false ∧ (q7n
      false).reader = 7 ∧ (q7n false).mark = none) := by
  and_intros <;> decide +kernel

/-- The hypotheses of `Obligations.CountersWrapAndTakeWrites` are met. -/
theorem witness_CountersWrapAndTakeWrites :
    (15 < 20 ∧ Reg.QMG_DROP_CNT ∈ Reg.ofBlock 15 ∧ Reg.QMG_DROP_CNT.kind = FKind.cnt) := by
  and_intros <;> decide +kernel

end General

namespace ShaftCases

def wRun : State := wt [(Reg.SHF_STATE, 0, 1)]
def arm0 : ArmSt := { adds := [], moves := [], bank := [], tsi := [], grains := [], armed := true }
def wArmed : State := { wRun with ovm := { wRun.ovm with arm := some arm0 }, shf := { wRun.shf with armDue := some 77760 } }
def wLateArm : State := { wRun with addr := 19440 * 3 + 19000 }

/-- The hypotheses of `Obligations.ShaftEventsTakeEffect` are met. -/
theorem witness_ShaftEventsTakeEffect :
    (wArmed.halted = false ∧ wArmed.ovm.arm = some arm0 ∧ wArmed.shf.armDue = some 77760 ∧ arm0.adds = [] ∧ arm0.moves
      = [] ∧ wArmed.ovm.withdraws = [] ∧ wArmed.ovm.shedding = [] ∧ wArmed.perturbed 4 = false ∧ pagesSound
      (((wArmed.elapse 5).waitAddr 77760).standbyCtxs [] []) = true) ∧
    (wArmed.halted = false ∧ wArmed.ovm.arm = some arm0 ∧ wArmed.shf.armDue = some 77760 ∧ (true && false) = false) ∧
(wLateArm.halted = false ∧ wLateArm.hasAuthority = true ∧ wLateArm.ovm.arm = none ∧ (wLateArm.paired = false ∨ (wLateArm.elapse 0).mateSilent = true) ∧ have p := (wLateArm.elapse 0).prepareSwap [];
    p.1.bankKept (List.map (fun x => x.2) p.2.bank) = true) ∧
(wRun.halted = false ∧ wRun.hasAuthority = true ∧ wRun.ovm.arm = none ∧ (wRun.paired = false ∨ (wRun.elapse 0).mateSilent = true) ∧ have p := (wRun.elapse 0).prepareSwap [];
    p.1.bankKept (List.map (fun x => x.2) p.2.bank) = true) ∧
    (wRun.halted = false ∧ wRun.shf.armDue ≠ some (wRun.addr + 0) ∧ wRun.shf.firedAt ≠ some (wRun.addr + 0) ∧
      wRun.perturbed 3 = false) ∧
    ((8 ≤ 8 ∨ 56 ≤ 8)) ∧
    ((56 ≤ 8 ∨ 56 ≤ 56)) ∧
    (wRun.halted = false) ∧
    (State.reset.halted = true ∧ State.reset.shf.startable = true ∧ State.reset.inReset domShaft = false ∧
      (State.reset.rdBit Reg.PAR_PAIR_EN 0 = false ∨ State.reset.par.listened = true)) := by
  and_intros <;> decide +kernel

end ShaftCases

namespace TimingCommandCases

def wCand (st : Nat) : State :=
  let s := wt [(Reg.SHF_STATE, 0, 1), (Reg.TIM_CAND_EN, 19, 1), (Reg.TIM_CAND_STATE, 19, st)]
  { s with tim := { s.tim with cands := [(19, { enabled := true })] } }
def s1 : State := wCand 3
def mc0 : ModelCoef := { c1 := 256, c2 := -512, c3 := 0, c4 := 0, t0 := 400, age := -7 }
def s2 : State := wCand 4
def s3 : State := wCand 2
def s4 : State := wCand 5

/-- The hypotheses of `Obligations.TimCommandsTakeEffect` are met. -/
theorem witness_TimCommandsTakeEffect :
    (Admitted s1 0 h0 domShaft Op.TIM_FORCE ∧ s1.badCand 19 = false ∧ s1.candState 19 = 3) ∧
    (Admitted s1 0 h0 domShaft Op.TIM_CLEAR) ∧
    (Admitted s1 0 h0 domShaft Op.TIM_HOLDOVER) ∧
    (Admitted s1 0 h0 domShaft Op.TIM_STEER) ∧
    (Admitted s1 0 h0 domShaft Op.TIM_SET_TOD ∧ (s1.elapse 0).addrAhead (addrOfStamp 65536) = true) ∧
    (Admitted s1 3 h0 domShaft Op.TIM_TOD_CAPTURE) ∧
    (Admitted s1 3 h0 domShaft Op.TIM_MODEL_LOAD ∧ modelInRange mc0 = true) ∧
    (Admitted s2 3 h0 domShaft Op.TIM_WTR_CLEAR ∧ s2.badCand 19 = false ∧ s2.candState 19 = 4) ∧
    (Admitted s3 3 h0 domShaft Op.TIM_LOCKOUT ∧ s3.badCand 19 = false) ∧
    (Admitted s4 3 h0 domShaft Op.TIM_LOCKOUT ∧ s4.badCand 19 = false) ∧
    (Admitted s4 3 h0 domShaft Op.TIM_LOCKOUT ∧ s4.badCand 19 = false ∧ 0 ≠ 1 ∧ s4.candState 19 = 5) := by
  and_intros <;> decide +kernel

end TimingCommandCases

namespace CandidateCases

def wC (n st : Nat) (c : CandSt) : State :=
  let s := wt [(Reg.SHF_STATE, 0, 1), (Reg.TIM_CAND_EN, n, 1), (Reg.TIM_CAND_STATE, n, st)]
  { s with tim := { s.tim with cands := [(n, c)] } }
def wMeas : State := wC 19 2 { enabled := true }
def wQual : State := wC 0 2 { enabled := true, since := some 4 }
def wQual2 : State := wC 0 2 { enabled := true, since := some 4, everQual := true }
def wHold : State := wC 0 3 { enabled := true, defectAt := some 0 }
def wHoldPps : State := { wC 16 3 { enabled := true, defectAt := some 0 } with tim := { (wC 16 3 { enabled := true, defectAt := some 0 }).tim with noEdge := [16] } }
def wWtr : State := wC 7 4 { enabled := true, wtrFrom := some 100 }
def wDog : State := { wC 19 3 { enabled := true } with tim := { (wC 19 3 { enabled := true }).tim with steerAt := some 2 } }
def wDog5 : State := { wC 19 5 { enabled := true } with tim := { (wC 19 5 { enabled := true }).tim with steerAt := some 2 } }
def s1 : State := wC 16 3 {enabled := true}
def s2 : State := wC 18 3 {enabled := true}
def wEsmc : State := (wC 15 3 { enabled := true, kind := 0, lane := 31 }).wr Reg.PRT_LANE_MODE 31 8

/-- The hypotheses of `Obligations.CandidateEventsTakeEffect` are met. -/
theorem witness_CandidateEventsTakeEffect :
    (19 < 20 ∧ (List.map Prod.fst [(2, 7), (19, -5)]).Nodup ∧ (∀ e ∈ [(2, 7), (19, -5)], e.1 < 20) ∧ (19, -5) ∈ [(2,
      7), (19, -5)] ∧ (wMeas.cand 19).enabled = true) ∧
    (wQual.halted = false ∧ wQual.candState 0 = 2 ∧ (wQual.cand 0).since = some 4) ∧
    (wQual2.halted = false ∧ wQual2.candState 0 = 2 ∧ (wQual2.cand 0).since = some 4) ∧
    (wHold.halted = false ∧ (wHold.cand 0).defectAt = some 0) ∧
    (wHoldPps.halted = false ∧ (wHoldPps.cand 16).defectAt = some 0) ∧
    (wWtr.halted = false ∧ (wWtr.cand 7).wtrFrom = some 100 ∧ wWtr.candState 7 = 4) ∧
    (wDog.halted = false ∧ wDog.tim.steerAt = some 2) ∧
    (wDog5.halted = false ∧ wDog5.tim.steerAt = some 2) ∧
    (16 ≤ 16 ∧ 16 ≤ 18 ∧ (16 = 18 → s1.tim.ppsEdge.isSome = true → 1001 * Config.msPos ≤ s1.time + 3 - s1.tim.ppsAt)) ∧
    (16 ≤ 18 ∧ 18 ≤ 18 ∧ (18 = 18 → s2.tim.ppsEdge.isSome = true → 1001 * Config.msPos ≤ s2.time + 3 - s2.tim.ppsAt)) ∧
    ((wEsmc.rd Reg.PRT_LANE_MODE 31 = 7 ∨ wEsmc.rd Reg.PRT_LANE_MODE 31 = 8) ∧ 15 < 16 ∧ (wEsmc.cand 15).enabled =
      true ∧ (wEsmc.cand 15).kind ≤ 1 ∧ (wEsmc.cand 15).laneIndex = 31 ∧ (∀ (a : ℕ), tfind wEsmc.tim.esmc 31 = some a
      → a + 5 * Config.secondPos ≤ (wEsmc.elapse 3).addr)) := by
  and_intros <;> decide +kernel

end CandidateCases

namespace TimingCases

def wSel : State :=
  let s := wt [(Reg.SHF_STATE, 0, 1), (Reg.TIM_CAND_EN, 3, 1), (Reg.TIM_CAND_STATE, 3, 3)]
  { s with tim := { s.tim with cands := [(3, { enabled := true, everQual := true, measured := true, since := some 0 })] } }
def wSw : State :=
  let s := wt [(Reg.SHF_STATE, 0, 1), (Reg.TIM_SWITCHING, 0, 1), (Reg.TIM_DPLL_STATE, 0, dpllAcquire), (Reg.TIM_SEL, 0, 4)]
  { s with addr := 10 ^ 12, tim := { s.tim with inWindow := some 5 } }
def wHo (m : Nat) : State :=
  let s := wt [(Reg.SHF_STATE, 0, 3), (Reg.TIM_DPLL_STATE, 0, dpllHoldover), (Reg.TIM_MODEL_STATE, 0, m)]
  { s with tim := { s.tim with fHist := 1234 } }
def s1 : State := wHo 1
def s2 : State := wHo 2
def wLk : State := { wt [(Reg.SHF_STATE, 0, 2), (Reg.TIM_DPLL_STATE, 0, dpllLocked)] with addr := 60 * Config.secondPos }
def wTod : State := { wt [(Reg.SHF_STATE, 0, 1), (Reg.TIM_PPSOUT_EN, 0, 1)] with sys := { State.reset.sys with configured := true }, tim := { State.reset.tim with todQueue := [(77, 5, 0), (99, 6, 1)] } }
def wPps : State :=
  let s := wt [(Reg.SHF_STATE, 0, 1), (Reg.TIM_PPSOUT_EN, 0, 1), (Reg.TIM_PPSOUT_SQ, 0, 0)]
  { s with sys := { s.sys with configured := true } }

/-- The hypotheses of `Obligations.TimingEventsTakeEffect` are met. -/
theorem witness_TimingEventsTakeEffect :
    (wSel.halted = false) ∧
    (wSw.halted = false ∧ wSw.rdBit Reg.TIM_SWITCHING 0 = true ∧ wSw.rd Reg.TIM_DPLL_STATE 0 = dpllAcquire ∧ wSw.rd
      Reg.TIM_SEL 0 ≠ 19 ∧ wSw.tim.inWindow = some 5 ∧ 5 + lockCycles (wSw.bandwidth (wSw.rd Reg.TIM_SEL 0)) *
      Config.cyclePos ≤ ceilTo Config.cyclePos (wSw.addr + 3)) ∧
    (s1.halted = false ∧ s1.rd Reg.TIM_DPLL_STATE 0 = dpllHoldover ∧ s1.rd Reg.TIM_MODEL_STATE 0 ≠ 2) ∧
    (s2.halted = false ∧ s2.rd Reg.TIM_DPLL_STATE 0 = dpllHoldover ∧ s2.rd Reg.TIM_MODEL_STATE 0 = 2) ∧
    (wLk.halted = false ∧ wLk.rd Reg.TIM_DPLL_STATE 0 = dpllLocked ∧ wLk.tim.lockedAt + 60 * Config.secondPos ≤ ceilTo
      Config.secondPos (wLk.addr + 0) ∧ (∀ (e : ℕ × FitSt), wLk.tim.fitLog.head? = some e → e.1 ≠ ceilTo
      Config.secondPos (wLk.addr + 0))) ∧
    (wTod.halted = false ∧ wTod.tim.todQueue = [(77, 5, 0), (99, 6, 1)]) ∧
    (wPps.halted = false ∧ wPps.ppsoutLow = false) := by
  and_intros <;> decide +kernel

end TimingCases

namespace FilterCases

def wF (c : FltChan) (l : List (Fld × Nat × Nat)) : State :=
  let s := wt ([(Reg.SHF_STATE, 0, 1), (Reg.FLT_CH_EN_HI, 0, 2 ^ 15)] ++ l)
  { s with flt := { s.flt with chans := [(47, c)] } }
def inst8 : FltInst := { n := 3, r := 8, k := 0, samples := 24, bank := .taps (List.replicate 64 65536) }
def raw8 : FltRaw := { value := 0, inSat := none }
def wF0 : State := wF { cur := some inst8 } []
def run0 := inst8.run 47 false [0, 0, 0, 0, 0, 0, 0, 0]
def wFd : State := wt [(Reg.SHF_STATE, 0, 1), (Reg.FLT_CH_EN_HI, 0, 8)]
def fcfg : FltCfg := { ch := 47, preset := 4, n := 4, r := 16, k := 8, keep := false }
def wFx : State := wF { cfg := some (fcfg, h0, 19440) } []
def fcfg1 : FltCfg := { ch := 47, preset := 1, n := 4, r := 16, k := 8, keep := false }
def wFx1 : State := wF { cfg := some (fcfg1, h0, 19440) } []
def wFade : State := wF { inc := some inst8, fadeK := 32 } [(Reg.FLT_CH_XFADE_LEN, 47, 32), (Reg.FLT_CH_FADING, 47, 1)]
def wSwp : State := wF { swapTo := [(1, h0)] } []
def wDef : State := wF { defer := some (1, h0) } [(Reg.FLT_CH_COMPLETE_B, 47, 0), (Reg.FLT_CH_DEFERRED, 47, 1)]
def wRs : State := { wF0 with flt := { wF0.flt with resets := [(90, 2 ^ 47), (50, 2 ^ 47)] } }
def wFdg : State := wF { swapTo := [(1, h0)] } [(Reg.FLT_CH_FADING, 47, 1)]
def s1 : State := wF {} []
def wCf : State := wF { gotB := [32, 16, 0], bankB := some (.taps (List.replicate 64 0)) } [(Reg.FLT_CH_COMPLETE_B, 47, 0)]
def s2 : State := wF {} [(Reg.FLT_CH_COMPLETE_B, 47, 1)]
def s3 : State := wF {} [(Reg.FLT_CH_FADING, 47, 1)]

/-- The hypotheses of `Obligations.FilterEventsTakeEffect` are met. -/
theorem witness_FilterEventsTakeEffect :
    (wF0.halted = false ∧ (wF0.elapse 0 = if isFeed 47 = true then wF0.elapse 0 else wF0.toBoundary 0 Config.cyclePos)
      ∧ wF0.chanOn 47 = true ∧ (wF0.elapse 0).chanFed 47 = true ∧ wF0.inReset domFlt = false ∧ (wF0.chan 47).inc =
      none ∧ (wF0.chain 47).run 47 (wF0.rdBit Reg.FLT_CH_FROZEN 47) ((wF0.elapse 0).inputs 47 [0, 0, 0, 0, 0, 0, 0,
      0]) = (run0.1, run0.2.1, some raw8)) ∧
    (isFeed 35 = true ∧ wFd.chanOn 35 = true ∧ wFd.rdBit Reg.FLT_CH_STUCK 35 = false) ∧
    (wFx.halted = false ∧ (wFx.chan 47).cfg = some (fcfg, h0, 19440) ∧ cfgBad fcfg = false) ∧
    (wFx1.halted = false ∧ (wFx1.chan 47).cfg = some (fcfg1, h0, 19440) ∧ cfgBad fcfg1 = false) ∧
    (wFade.chanOn 47 = true ∧ (wFade.chan 47).inc = some inst8 ∧ 0 < wFade.rd Reg.FLT_CH_XFADE_LEN 47 ∧ wFade.rd
      Reg.FLT_CH_XFADE_LEN 47 ≤ (wFade.chan 47).fadeK) ∧
    (1 < 2 ∧ wSwp.rdBit Reg.FLT_CH_FADING 47 = false ∧ (wSwp.chan 47).defer = none ∧ (wSwp.chan 47).swapTo = [(1,
      h0)]) ∧
    (1 < 2 ∧ wDef.rdBit Reg.FLT_CH_FADING 47 = false ∧ (wDef.chan 47).cfg = none ∧ (wDef.chan 47).swapTo = [] ∧
      (wDef.chan 47).defer = some (1, h0)) ∧
    (1 < 2 ∧ wFdg.rdBit Reg.FLT_CH_FADING 47 = true ∧ (wFdg.chan 47).defer = none ∧ (wFdg.chan 47).swapTo = [(1, h0)]) ∧
    (wRs.halted = false ∧ earliest wRs.flt.resets = some (50, 2 ^ 47)) := by
  and_intros <;> decide +kernel

/-- The hypotheses of `Obligations.FilterCommandsTakeEffect` are met. -/
theorem witness_FilterCommandsTakeEffect :
    (Admitted s1 3 h0 domFlt Op.FLT_CONFIG ∧ s1.chanOn fcfg.ch = true ∧ cfgBad fcfg = false ∧ s1.rdBit
      Reg.FLT_CH_FADING fcfg.ch = false ∧ (s1.chan fcfg.ch).cfg = none) ∧
    (Admitted s1 3 h0 domFlt Op.FLT_COEF_LOAD ∧ s1.chanOn 47 = true ∧ 16 ∈ [0, 16, 32, 48] ∧ s1.rd Reg.FLT_CH_BANK 47
      ≠ 1 % 2 ∧ (List.replicate 16 5).length = 16) ∧
    (Admitted s1 3 h0 domFlt Op.FLT_COEF_LOAD ∧ s1.chanOn 47 = true ∧ 48 ∈ [0, 16, 32, 48] ∧ s1.rd Reg.FLT_CH_BANK 47
      ≠ 1 % 2 ∧ (List.replicate 16 5).length = 16) ∧
    (Admitted wCf 3 h0 domFlt Op.FLT_COEF_LOAD ∧ wCf.chanOn 47 = true ∧ wCf.rd Reg.FLT_CH_BANK 47 ≠ 1 % 2 ∧
      (List.replicate 16 5).length = 16 ∧ wCf.rdBit (completeFld (1 % 2)) 47 = false ∧ (if 1 % 2 = 0 then (wCf.chan
      47).gotA else (wCf.chan 47).gotB) = [32, 16, 0]) ∧
    (Admitted wCf 3 h0 domFlt Op.FLT_COEF_LOAD ∧ wCf.chanOn 47 = true ∧ wCf.rd Reg.FLT_CH_BANK 47 ≠ 1 % 2 ∧
      (List.replicate 16 0).length = 16 ∧ wCf.rdBit (completeFld (1 % 2)) 47 = false ∧ (if 1 % 2 = 0 then (wCf.chan
      47).gotA else (wCf.chan 47).gotB) = [32, 16, 0]) ∧
    (Admitted s2 3 h0 domFlt Op.FLT_SWAP ∧ s2.chanOn 47 = true ∧ s2.rdBit Reg.FLT_CH_FADING 47 = false ∧ (s2.chan
      47).cfg = none ∧ s2.rdBit (completeFld (1 % 2)) 47 = true ∧ s2.rd Reg.FLT_CH_BANK 47 ≠ 1 % 2) ∧
    (Admitted s3 3 h0 domFlt Op.FLT_SWAP ∧ s3.chanOn 47 = true ∧ s3.rdBit Reg.FLT_CH_FADING 47 = true ∧ (s3.chan
      47).defer = none) ∧
    (Admitted s1 3 h0 domFlt Op.FLT_SYNC_RESET ∧ s1.maskBad (2 ^ 47) = false ∧ (s1.elapse 3).addrAhead (addrOfStamp
      65536) = true) ∧
    (Admitted s1 3 h0 domFlt Op.FLT_FREEZE ∧ s1.maskBad (2 ^ 47) = false) := by
  and_intros <;> decide +kernel

end FilterCases

namespace PortCases

def wL (l m : Nat) (r : List (Fld × Nat × Nat)) : State := wt ([(Reg.SHF_STATE, 0, 1), (Reg.PRT_LANE_MODE, l, m)] ++ r)
def s1 : State := wL 79 9 []
def s2 : State := wL 79 9 [(Reg.PRT_LANE_LOS, 79, 1)]
def s3 : State := wt [(Reg.PRT_TRB_EN, 31, 1)]
def s4 : State := wt [(Reg.PRT_TRB_EN, 31, 1), (Reg.PRT_TRB_LOS, 31, 1)]
def s5 : State := wL 47 8 [(Reg.PRT_LANE_READY, 47, 1)]
def s6 : State := wL 47 8 [(Reg.PRT_LANE_READY, 47, 1), (Reg.PRT_LANE_NO_BLOCK_LOCK, 47, 1)]
def s7 : State := wL 47 8 [(Reg.PRT_LANE_READY, 47, 1), (Reg.PRT_LANE_HIBER, 47, 1)]
def s8 : State := wL 47 8 []
def eyeB : EyeMeas := { lane := 47, eyes := [(9, 8), (12, 7), (10, 30)], freq := -3 }
def eye0 : List EyeMeas := [eyeB, { lane := 2, eyes := [(1, 1)], freq := 1 }]
def wTest (k : Nat) : State := { wt [(Reg.PRT_LANE_PRBS_LOCK, 79, k)] with prt := { State.reset.prt with tests := [(79, { ptn := 1, flags := 2 })] } }
def s9 : State := wTest 0
def s10 : State := wTest 1
def tfb : List Nat := [0xF6, 0xF6, 0x28, 0x28, 0, 7, 3]
def tf0 : TrbFrame := readTrb 0 tfb
def s11 : State := wt [(Reg.PRT_TRB_EN, 31, 1), (Reg.PRT_TRB_ALIGN, 31, 2)]
def s12 : State := wL 79 9 [(Reg.PRT_LANE_READY, 79, 1), (Reg.PRT_LANE_LOL, 79, 1)]

/-- The hypotheses of `Obligations.PortCommandsTakeEffect` are met. -/
theorem witness_PortCommandsTakeEffect :
    (s1.laneOn 79 = true ∧ s1.rdBit Reg.PRT_LANE_LOS 79 ≠ true) ∧
    (s2.laneOn 79 = true ∧ s2.rdBit Reg.PRT_LANE_LOS 79 ≠ false) ∧
    (s3.trbOn 31 = true ∧ s3.rdBit Reg.PRT_TRB_LOS 31 ≠ true) ∧
    (s4.trbOn 31 = true ∧ s4.rdBit Reg.PRT_TRB_LOS 31 ≠ false) ∧
    (s5.laneOn 47 = true ∧ (true = true → s5.rdBit Reg.PRT_LANE_READY 47 = true ∧ s5.rdBit Reg.PRT_LANE_LOS 47 =
      false)) ∧
    (s5.laneOn 47 = true ∧ (false = true → s5.rdBit Reg.PRT_LANE_READY 47 = true ∧ s5.rdBit Reg.PRT_LANE_LOS 47 =
      false)) ∧
    (47 < 80 ∧ (true = true → s5.lanePcs 47 = true)) ∧
    (47 < 80 ∧ (false = true → s6.lanePcs 47 = true)) ∧
    ((true = true → s5.lanePcs 47 = true ∧ s5.rdBit Reg.PRT_LANE_NO_BLOCK_LOCK 47 = false)) ∧
    ((false = true → s7.lanePcs 47 = true ∧ s7.rdBit Reg.PRT_LANE_NO_BLOCK_LOCK 47 = false)) ∧
    (s8.laneOn 47 = true ∧ s8.rdBit Reg.PRT_LANE_READY 47 = false) ∧
    (47 ∈ s5.readyLanes ∧ (∀ l ∈ s5.readyLanes, (s5.elapse 3).eyeDue 47 ≤ (s5.elapse 3).eyeDue l) ∧ List.find? (fun e
      => e.lane == 47) eye0 = some eyeB) ∧
    (79 < 80 ∧ tfind s9.prt.tests 79 = some { ptn := 1, flags := 2 : LaneTest } ∧ bitOf 2 1 = true) ∧
    (79 < 80 ∧ tfind s10.prt.tests 79 = some { ptn := 1, flags := 2 : LaneTest } ∧ bitOf 2 1 = true) ∧
    (s3.trbOn 31 = true ∧ s3.rdBit Reg.PRT_TRB_LOS 31 = false ∧ s3.trbLooks 31 0 = true ∧ tf0 = readTrb (s3.trbLayout
      31) tfb) ∧
    (s11.trbOn 31 = true ∧ s11.rdBit Reg.PRT_TRB_LOS 31 = false ∧ s11.trbLooks 31 0 = true ∧ tf0 = readTrb
      (s11.trbLayout 31) tfb) ∧
    (s3.trbOn 31 = true ∧ (if s3.rd Reg.PRT_TRB_ALIGN 31 = 2 then (s3.trb 31).inSince else (s3.trb 31).outSince) =
      some 0) ∧
    (Admitted s1 3 h0 (laneDomain 79) Op.PRT_TEST ∧ 79 ≤ 79 ∧ 4 ≤ 4 ∧ (bitOf 6 2 && bitOf 6 3) = false ∧ s1.laneBusy
      79 true = false ∧ s1.laneOn 79 = true) ∧
    (Admitted s1 3 h0 (laneDomain 79) Op.PRT_TEST ∧ 79 ≤ 79 ∧ 0 ≤ 4 ∧ (bitOf 0 2 && bitOf 0 3) = false ∧ s1.laneBusy
      79 true = false ∧ s1.laneOn 79 = true) ∧
    (Admitted s12 3 h0 (laneDomain 79) Op.PRT_ADAPT_RESTART ∧ 79 ≤ 79 ∧ s12.laneBusy 79 false = false ∧ s12.laneOn 79
      = true) := by
  and_intros <;> decide +kernel

end PortCases

namespace RalaleCases

def wR (a : Nat) : State := wt [(Reg.SHF_STATE, 0, 1), (Reg.PRT_LANE_MODE, 47, 9), (Reg.RLK_ALIGN, 47, a)]
def rf0 : RlkFrame := { marker := true, markCrc := true, count := 1, unit := 1, paired := true, ohCrc := true, linkId := 77, ql := 2, rdi := false, dgasp := false, txStamp := 5, rc := [9, 8, 7, 6, 5], worstCid := 3, worstCnt := 2, echoStamp := 0, echoAge := 0 }
def rb0 : List RlkBlock := rf0.blocks false 12345
def rbBad : List RlkBlock := rb0.take 7 ++ [{ sync := 0, bytes := List.replicate 8 0 }]
def rfA : RlkFrame := readRlk false 12345 rb0
def rfB : RlkFrame := readRlk false 12345 rbBad
def s1 : State := wR 2
def s2 : State := wR 0
def s3 : State := wR 1
def wRin : State := { wR 2 with rlk := { (wR 2).rlk with lanes := [(47, { inSince := some 0 })] } }
def tub0 : Tub := { hcrc := true, cid := 5, seq := 65535, csf := false, resync := false, vbc := 56, sop := false, eop := false, abort := false, data := List.replicate 56 1 }
def tb0 : List RlkBlock := tub0.blocks 999
def tbBad : List RlkBlock := { sync := 3, bytes := List.replicate 8 7 } :: tb0.drop 1
def tubR : Tub := readTub 999 tb0
def ctxR : Ctx := { intent := 1, kind := 0x10, active := true, endpoint := { typ := 3, lane := 47, idx := 5 } }
def wTub (x : RlkCtx) : State := { wR 2 with ovm := { (wR 2).ovm with ctxs := [(9, ctxR)] }, rlk := { (wR 2).rlk with ctxs := [(9, x)] } }
def wTub1 : State := wTub { sync := true, n := 65535 }
def held0 : HeldTub := { seq := 0, csf := false, sop := false, eop := false, abort := false, since := 10, lanes := [47], data := [] }
def wTub2 : State := wTub { sync := true, n := 65535, held := [held0] }
def ctxR2 : Ctx := { intent := 1, kind := 0x10, active := true, endpoint := { typ := 3, lane := 47, idx := 5 }, endpointB := { typ := 3, lane := 46, idx := 5 } }
def crec0 : CopyRec := { seq := 8, since := 4, lanes := [47] }
def wCopy : State := { wTub { sync := true, records := [crec0] } with ovm := { (wR 2).ovm with ctxs := [(9, ctxR2)] } }

/-- The hypotheses of `Obligations.RalaleEventsTakeEffect` are met. -/
theorem witness_RalaleEventsTakeEffect :
    (s1.rlkLive 47 = true) ∧
    (s2.rlkLive 47 = true ∧ s2.rlkLooks 47 0 = true ∧ rfA = readRlk (s2.rdBit Reg.RLK_EK7210 47) 12345 rb0 ∧ s2.rlkHit
      47 rfA = true ∧ s2.rd Reg.RLK_ALIGN 47 ≠ 2 ∧ (s2.rd Reg.RLK_ALIGN 47 = 0 ∨ (s2.rlkLane 47).conf + 1 <
      s2.rlkNeeds 47)) ∧
    (s3.rlkLive 47 = true ∧ s3.rlkLooks 47 0 = true ∧ rfA = readRlk (s3.rdBit Reg.RLK_EK7210 47) 12345 rb0 ∧ s3.rlkHit
      47 rfA = true ∧ s3.rd Reg.RLK_ALIGN 47 ≠ 2 ∧ (s3.rd Reg.RLK_ALIGN 47 = 0 ∨ (s3.rlkLane 47).conf + 1 <
      s3.rlkNeeds 47)) ∧
    (s1.rlkLive 47 = true ∧ s1.rlkLooks 47 0 = true ∧ rfA = readRlk (s1.rdBit Reg.RLK_EK7210 47) 12345 rb0 ∧ s1.rlkHit
      47 rfA = true ∧ s1.rd Reg.RLK_ALIGN 47 = 2) ∧
    (s1.rlkLive 47 = true ∧ s1.rlkLooks 47 0 = true ∧ rfB = readRlk (s1.rdBit Reg.RLK_EK7210 47) 12345 rbBad ∧
      s1.rlkHit 47 rfB = true ∧ s1.rd Reg.RLK_ALIGN 47 = 2) ∧
    (s2.rlkOn 47 = true ∧ s2.rdBit Reg.PRT_LANE_GATED 47 = false ∧ (if s2.rd Reg.RLK_ALIGN 47 = 2 then (s2.rlkLane
      47).inSince else (s2.rlkLane 47).outSince) = some 0) ∧
    (wRin.rlkOn 47 = true ∧ wRin.rdBit Reg.PRT_LANE_GATED 47 = false ∧ (if wRin.rd Reg.RLK_ALIGN 47 = 2 then
      (wRin.rlkLane 47).inSince else (wRin.rlkLane 47).outSince) = some 0) ∧
    (s1.rlkLive 47 = true ∧ s1.rd Reg.RLK_ALIGN 47 = 2 ∧ (readTub 999 tbBad).hcrc = false) ∧
    (wTub1.rlkLive 47 = true ∧ wTub1.rd Reg.RLK_ALIGN 47 = 2 ∧ wTub1.perturbed 4 = false ∧ wTub1.rdBit Reg.RLK_LIM 47
      = false ∧ tubR = readTub 999 tb0 ∧ tubR.hcrc = true ∧ tubR.cid ≠ 65535 ∧ 1 ≤ tubR.vbc ∧ tubR.vbc ≤ 56 ∧ tubR.csf
      = false ∧ wTub1.cidCtx 47 tubR.cid = some (9, ctxR) ∧ (wTub1.rlkCtx 9).sync = true ∧ (wTub1.rlkCtx 9).held = []
      ∧ tubR.seq = (wTub1.rlkCtx 9).n) ∧
    (wTub2.ctx? 9 = some ctxR ∧ ctxR.isFlow = false ∧ (wTub2.rlkCtx 9).held = [held0] ∧ (wTub2.rlkCtx (9 +
      65536)).held = [] ∧ held0.csf = false ∧ (wTub2.rlkCtx 9).n < 65536 ∧ held0.seq = ((wTub2.rlkCtx 9).n + 1) %
      65536) ∧
    (wCopy.ctx? 9 = some ctxR2 ∧ (wCopy.rlkCtx 9).records = [crec0] ∧ (wCopy.rlkCtx (9 + 65536)).records = [] ∧
      List.filter (fun l => !crec0.lanes.contains l) (ctxR2.rlkLinks 9) = [46]) := by
  and_intros <;> decide +kernel

end RalaleCases

namespace FramingCases

def fr0 : FrmFrame := { word := true, aux := true, fLoss := false, alt := false, mf := true, seq := 0, b1 := 3, bip := 5, bad := 2, blocks := 8, ptr := none, ks := none, status := some 4, rai := none, fars := 0, zeros := none, psi := none, trace := none, traceAt := 0, label := none, aps := none, ssm := none, sas := [], fecCorr := 0, fecUncorr := 0, copies := none, dgasp := none, fill := none }
def frNo : FrmFrame := { fr0 with word := false }
def wS (u : FrmUnit) (m : Nat) : State := { wt [(Reg.SHF_STATE, 0, 1), (Reg.PRT_LANE_MODE, 71, m)] with frm := { units := [(srcLane 71, u)], groups := [] } }
def s1 : State := wS {} 4
def s2 : State := wS {} 6
def s3 : State := wS { align := 2 } 4
def s4 : State := wS { align := 2, okSince := some 7, raw := [2] } 4
def s5 : State := wS { align := 0, oofSince := some 7 } 4
def lanes4 (skew : Nat) : List OtlLane := (List.range 20).map fun k => { sync := true, marker := k, delay := if k = 3 then skew else 0 }
def s6 : State := wS { align := 2, otl := some (true, 5) } 12
def s7 : State := wS { align := 2, raw := [4], otl := some (false, 5) } 12
def s8 : State := wS { align := 2, raw := [4] } 11
def ctxE1 (k : Nat) : Ctx := { intent := 1, kind := k, active := true }
def fires (cls arg : Nat) (s : State) : State :=
  { s with shf := { s.shf with firedAt := some (s.addr + 3), fired := [{ period := 0, cyc := 0, pos := 3, cls := cls, target := 0, arg := arg }] } }
def wX (k : Nat) (u : FrmUnit) (gs : Tab ApsGroup) : State :=
  let s := wt [(Reg.SHF_STATE, 0, 1)]
  { s with ovm := { s.ovm with ctxs := [(9, ctxE1 k)] }, frm := { units := [(srcCtx 9, u)], groups := gs } }
def s9 : State := wX 1 { okSince := some 7, raw := [3] } []
def s10 : State := wX 1 { okSince := some 7, align := 2, cfg := { acts := 7 } } []
def s11 : State := fires 1 9 (wX 1 { newTrace := true } [])
def g0 : ApsGroup := { scheme := 1, work := 9, prot := 10, wanted := 1 }
def s12 : State := fires 2 9 (wX 1 { cfgNext := some { sf := 3 }, forcedNext := some [1] } [(2, g0)])
def s13 : State := fires 2 9 (wX 1 {} [])
def s14 : State := wX 8 { window := [(0, 50)] } []
def gH : ApsGroup := { scheme := 1, work := 9, prot := 10, holdFrom := some 4, mode := 1 }
def wHg : State := wX 1 { declared := [16] } [(2, gH)]
def gW : ApsGroup := { scheme := 1, work := 9, prot := 10, wtrFrom := some 4, mode := 1, wanted := 1 }
def wWg : State := wX 1 {} [(2, gW)]
def ctxMig : Ctx := { ctxE1 1 with migrating := some 3 }
def wMig : State := { wX 1 {} [] with ovm := { (wX 1 {} []).ovm with ctxs := [(9, ctxMig)] } }
def cc0 : CtxCfg := { ctx := 9, sf := 4, sd := 6, trace := 2, acts := 5, label := 3, sa := 4 }
def fc0 : FrmCfg := { sf := 4, sd := 6, trace := 2, acts := 5, label := 3, sa := 4 }
def s15 : State := wX 1 {} []
def ts0 : TraceSet := { ctx := 9, tx := 0, layer := 1, part := 1, bytes := List.replicate 32 7 }
def s16 : State := wX 0x10 { forced := [3] } []
def s17 : State := wX 1 { align := 2 } []
def wSx : State := { wS { align := 2 } 4 with ovm := { State.reset.ovm with ctxs := [(9, ctxE1 1)] } }
def s18 : State := wX 1 {} [(2, g0)]
def gHd : ApsGroup := { gH with holdDone := true }
def wHg2 : State := wX 1 { declared := [16] } [(2, gHd)]
def fcOf (s : State) : FrmCfg := { (s.framer (s.frmKey 9)).cfg with sf := cc0.sf, sd := cc0.sd, trace := cc0.trace, acts := cc0.acts % 16, label := cc0.label, sa := cc0.sa }

/-- The hypotheses of `Obligations.FramingEventsTakeEffect` are met. -/
theorem witness_FramingEventsTakeEffect :
    (s1.framerLive (srcLane 71) = true ∧ kindVc (s1.framerKind (srcLane 71)) = false ∧ (s1.framer (srcLane 71)).align
      = 0) ∧
    (s2.framerLive (srcLane 71) = true ∧ kindVc (s2.framerKind (srcLane 71)) = false ∧ (s2.framer (srcLane 71)).align
      = 0) ∧
    (s3.framerLive (srcLane 71) = true ∧ 71 < 72 ∧ modeStm (s3.rd Reg.PRT_LANE_MODE 71) = true ∧ (s3.framer (srcLane
      71)).align = 2 ∧ (s3.framer (srcLane 71)).raw = [] ∧ fr0.word = true) ∧
    ((if (s4.framer (srcLane 71)).align = 2 then (s4.framer (srcLane 71)).okSince else (s4.framer (srcLane
      71)).oofSince) = some 7) ∧
    ((if (s5.framer (srcLane 71)).align = 2 then (s5.framer (srcLane 71)).okSince else (s5.framer (srcLane
      71)).oofSince) = some 7) ∧
    (71 < 72 ∧ (s6.rd Reg.PRT_LANE_MODE 71 = 11 ∨ s6.rd Reg.PRT_LANE_MODE 71 = 12) ∧ s6.portFirst 71 = 71) ∧
    (71 < 72 ∧ (s7.rd Reg.PRT_LANE_MODE 71 = 11 ∨ s7.rd Reg.PRT_LANE_MODE 71 = 12) ∧ s7.portFirst 71 = 71) ∧
    (71 < 72 ∧ (s8.rd Reg.PRT_LANE_MODE 71 = 11 ∨ s8.rd Reg.PRT_LANE_MODE 71 = 12) ∧ s8.portFirst 71 = 71) ∧
    ((s9.framer (srcCtx 9)).okSince = some 7 ∧ s9.framerKind (srcCtx 9) = 1 ∧ (s9.framer (srcCtx 9)).crc4 = false) ∧
    ((s10.framer (srcCtx 9)).okSince = some 7 ∧ s10.framerKind (srcCtx 9) = 1 ∧ (s10.framer (srcCtx 9)).crc4 = false) ∧
    (s11.frmCtxOk 9 = true ∧ ((s11.elapse 3).dispatched 1 fun e => e.arg == 9) = true) ∧
    (s12.frmCtxOk 9 = true ∧ ((s12.elapse 3).dispatched 2 fun e => e.arg == 9) = true) ∧
    (s13.frmCtxOk 9 = true ∧ ((s13.elapse 3).dispatched 2 fun e => e.arg == 9) = true) ∧
    (s14.monitorRate (srcCtx 9) (s14.framerKind (srcCtx 9)) ≠ 0 ∧ s14.halted = false ∧ (s14.framer (srcCtx
      9)).declared.any maskOrder.contains = false ∧ s14.serverMasks (srcCtx 9) = false) ∧
    (tfind wHg.frm.groups 2 = some gH ∧ gH.holdFrom = some 4 ∧ wHg.hasAuthority = true ∧ gH.scheme ≠ 8 ∧ gH.command =
      0 ∧ bitOf gH.mode 1 = false ∧ wHg.legFail gH 0 = true ∧ wHg.legFail gH 1 = false) ∧
    (tfind wWg.frm.groups 2 = some gW ∧ gW.wtrFrom = some 4 ∧ wWg.hasAuthority = true ∧ gW.scheme ≠ 8 ∧ gW.command = 0
      ∧ bitOf gW.mode 1 = false ∧ bitOf gW.mode 0 = true ∧ wWg.legFail gW 0 = false ∧ wWg.legFail gW 1 = false ∧
      wWg.legDegraded gW 0 = false ∧ wWg.legDegraded gW 1 = false) := by
  and_intros <;> decide +kernel

/-- The hypotheses of `Obligations.FramingCommandsTakeEffect` are met. -/
theorem witness_FramingCommandsTakeEffect :
    (wMig.ctx? 9 = some ctxMig ∧ ctxMig.active = true ∧ kindHasOverhead ctxMig.kind = true ∧ Admitted wMig 3 h0 0
      Op.FRM_CTX_CFG ∧ cc0.ctx = 9 ∧ ctxMig.migrating.isSome = true) ∧
    (s15.ctx? 9 = some (ctxE1 1) ∧ (ctxE1 1).active = true ∧ kindHasOverhead (ctxE1 1).kind = true ∧ Admitted s15 3 h0
      0 Op.FRM_CTX_CFG ∧ cc0.ctx = 9 ∧ (ctxE1 1).migrating = none ∧ (cc0.sf = 0 ∨ 3 ≤ cc0.sf ∧ cc0.sf ≤ 5) ∧ (cc0.sd =
      0 ∨ 5 ≤ cc0.sd ∧ cc0.sd ≤ 9) ∧ cc0.trace ≤ 3 ∧ cc0.sa ≤ 4 ∧ fc0 = fcOf s15 ∧ s15.sfExp fc0 < s15.sdExp fc0 ∧
      (s15.monitorRate (s15.frmKey 9) (s15.framerKind (s15.frmKey 9)) = 0 ∨ windowCycles (s15.sdExp fc0)
      (s15.monitorRate (s15.frmKey 9) (s15.framerKind (s15.frmKey 9))) ≤ 80000 ∧ windowCycles (s15.sfExp fc0)
      (s15.monitorRate (s15.frmKey 9) (s15.framerKind (s15.frmKey 9))) ≤ 80000)) ∧
    (s15.ctx? 9 = some (ctxE1 1) ∧ (ctxE1 1).active = true ∧ kindHasOverhead (ctxE1 1).kind = true ∧ Admitted s15 3 h0
      0 Op.FRM_TRACE_SET ∧ ts0.ctx = 9 ∧ (ctxE1 1).migrating = none ∧ ts0.tx ≤ 1 ∧ ts0.layer ≤ 3 ∧ ts0.part ≤ 1 ∧
      ts0.bytes.length = 32) ∧
    (s15.ctx? 9 = some (ctxE1 1) ∧ (ctxE1 1).active = true ∧ kindHasOverhead (ctxE1 1).kind = true ∧ Admitted s15 3 h0
      0 Op.FRM_CTX_READ ∧ (ctxE1 1).migrating = none ∧ 64 % 64 = 0) ∧
    (s15.ctx? 9 = some (ctxE1 1) ∧ (ctxE1 1).active = true ∧ kindHasOverhead (ctxE1 1).kind = true ∧ Admitted s15 3 {
      ring := 3, tag := 7, noCpl := true : HostRef } 0 Op.FRM_CTX_READ ∧ (ctxE1 1).migrating = none ∧ 64 % 64 = 0) ∧
    (s15.ctx? 9 = some (ctxE1 1) ∧ (ctxE1 1).active = true ∧ kindHasOverhead (ctxE1 1).kind = true ∧ Admitted s15 3 h0
      0 Op.FRM_FORCE ∧ (ctxE1 1).migrating = none ∧ s15.hasAuthority = true ∧ 1 ≤ 1 ∧ (1 < 2 ∨ 1 ≤ 3 ∧ kindOdu
      (s15.framerKind (s15.frmKey 9)) = true)) ∧
    (s16.ctx? 9 = some (ctxE1 16) ∧ (ctxE1 16).active = true ∧ kindHasOverhead (ctxE1 16).kind = true ∧ Admitted s16 3
      h0 0 Op.FRM_FORCE ∧ (ctxE1 16).migrating = none ∧ s16.hasAuthority = true ∧ 0 ≤ 1 ∧ (3 < 2 ∨ 3 ≤ 3 ∧ kindOdu
      (s16.framerKind (s16.frmKey 9)) = true)) ∧
    (s15.ctx? 9 = some (ctxE1 1) ∧ (ctxE1 1).active = true ∧ kindHasOverhead (ctxE1 1).kind = true ∧ Admitted s15 3 h0
      0 Op.FRM_ERR_INSERT ∧ (ctxE1 1).migrating = none ∧ 7 ≤ 7 ∧ 1 ≤ 8 ∧ 8 ≤ 8 ∧ 1 ≤ 1) ∧
    (s17.ctx? 9 = some (ctxE1 1) ∧ (ctxE1 1).active = true ∧ kindHasOverhead (ctxE1 1).kind = true ∧ Admitted s17 3 h0
      0 Op.FRM_REFRAME ∧ kindPdh (s17.framerKind (srcCtx 9)) = true) ∧
    (wSx.ctx? 9 = some (ctxE1 1) ∧ (ctxE1 1).active = true ∧ kindHasOverhead (ctxE1 1).kind = true ∧ Admitted wSx 3 h0
      0 Op.FRM_REFRAME ∧ 71 < 72 ∧ wSx.portFirst 71 = 71 ∧ (modeStm (wSx.rd Reg.PRT_LANE_MODE 71) || modeOtu (wSx.rd
      Reg.PRT_LANE_MODE 71)) = true) := by
  and_intros <;> decide +kernel

/-- The hypotheses of `Obligations.ProtectionCommandsTakeEffect` are met. -/
theorem witness_ProtectionCommandsTakeEffect :
    (tfind s18.frm.groups 2 = some g0 ∧ Admitted s18 3 h0 0 Op.FRM_APS_CFG ∧ 2 = 2 ∧ apsModeOk g0.scheme 3 = true ∧
      100 ≤ 100 ∧ 300 ≤ 720 ∧ 720 ≤ 720) ∧
    (tfind s18.frm.groups 2 = some g0 ∧ Admitted s18 3 h0 0 Op.FRM_APS_CMD ∧ s18.hasAuthority = true ∧ 1 ≤ 1) ∧
    (tfind s18.frm.groups 2 = some g0 ∧ Admitted s18 3 h0 0 Op.FRM_APS_CMD ∧ s18.hasAuthority = true ∧ 1 ≤ 4 ∧ 4 ≤ 4 ∧
      1 ≤ 1 ∧ commandReq 4 ≤ (s18.localWant g0).req) ∧
    (tfind wHg2.frm.groups 2 = some gHd ∧ Admitted wHg2 3 h0 0 Op.FRM_APS_CMD ∧ wHg2.hasAuthority = true ∧ 1 ≤ 4 ∧ 4 ≤
      4 ∧ 1 ≤ 1 ∧ (wHg2.localWant gHd).req < commandReq 4) := by
  and_intros <;> decide +kernel

end FramingCases

namespace MappingCases

def wM (m : MapSt) (cs : Tab Ctx) (r : List (Fld × Nat × Nat)) : State :=
  let s := wt ([(Reg.SHF_STATE, 0, 1), (Reg.PRT_LANE_MODE, 47, 8), (Reg.PRT_LANE_READY, 47, 1)] ++ r)
  { s with map := m, ovm := { s.ovm with ctxs := cs } }
def s1 : State := wM { handing := [4, 9] } [] []
def cf0 : ClientFrame := { tpid := 0x8100, vid := 7, data := [1, 2, 3], fcsOk := true, ql := none }
def s2 : State := wM {} [] []
def flow0 : Ctx := { intent := 1, kind := 0x21, active := true, endpoint := { typ := 4, lane := 47, idx := 7 }, place := { queue := 70 } }
def wFlow : State := { wM {} [(9, flow0)] [] with qmg := { State.reset.qmg with qs := [(70, { k := 8, packet := true, high := 200, low := 4 })] } }
def ctxG : Ctx := { intent := 1, kind := 0x21, active := true }
def gf0 (c h : Nat) : GfpFrame := { core := c, head := h, pFcs := true }
def s3 : State := wM { gfp := [(9, { align := 2 })] } [(9, ctxG)] []
def s4 : State := wM { gfp := [(9, { align := 1 })] } [(9, ctxG)] []
def s5 : State := wM { gfp := [(9, { align := 0 })] } [(9, ctxG)] []
def hs0 : HitlessSt := { synced := true, next := 100 }
def car0 (m : Nat) : Carriage := { tag := 7, iv := 2 ^ 47 + 5, epoch := 3, next := 0, flags := 0, len := 0, mseq := m }
def cb0 (m : Nat) : CarriageBlock := { stream := (car0 m).bytes, tsf := false, viol := 0 }
def s6 : State := wM { hitless := [(9, hs0)] } [] []
def bc0 (m : Nat) : BlockCopy := { mseq := m, leg := 1, good := true, tsf := false, viol := 0, since := 5, unitB := false }
def hs1 (m : Nat) : HitlessSt := { synced := true, next := 100, copies := [bc0 m] }
def s7 : State := wM { hitless := [(9, hs1 100)] } [] []
def s8 : State := wM { hitless := [(9, hs1 101)] } [] []
def ctxLane : Ctx := { intent := 1, kind := 1, active := true, endpoint := { typ := 1, lane := 47 } }
def ctxRate : Ctx := { intent := 1, kind := 0x12, active := true, endpoint := { typ := 1, lane := 47 } }
def s9 : State := wM {} [(9, ctxRate)] [(Reg.PRT_LANE_MODE, 47, 5)]
def h1 : HostRef := ⟨3, 7, true, false⟩
def s10 : State := wM {} [(9, ctxLane)] []
def s11 : State := wM { hitless := [(9, hs0)] } [(9, ctxLane)] []

/-- The hypotheses of `Obligations.MappingCommandsTakeEffect` are met. -/
theorem witness_MappingCommandsTakeEffect :
    (9 ∈ s1.map.handing) ∧
    (s2.lanePcs 47 = true ∧ s2.rdBit Reg.PRT_LANE_NO_BLOCK_LOCK 47 = false ∧ cf0.ql = none ∧ cf0.fcsOk = true ∧
      cf0.data.length ≤ 9600 ∧ s2.flowAt 47 (s2.frameVid cf0) = none) ∧
    (wFlow.lanePcs 47 = true ∧ wFlow.rdBit Reg.PRT_LANE_NO_BLOCK_LOCK 47 = false ∧ cf0.ql = none ∧ cf0.fcsOk = true ∧
      cf0.data.length ≤ 9600 ∧ wFlow.flowAt 47 (wFlow.frameVid cf0) = some (9, flow0)) ∧
    (s3.ctx? 9 = some ctxG ∧ ctxG.active = true ∧ (s3.gfp 9).align = 2 ∧ readCore (gf0 7 0).core = CoreSays.bad) ∧
    (s4.ctx? 9 = some ctxG ∧ ctxG.active = true ∧ (s4.gfp 9).align ≠ 2) ∧
    (s5.ctx? 9 = some ctxG ∧ ctxG.active = true ∧ (s5.gfp 9).align ≠ 2) ∧
    (s3.ctx? 9 = some ctxG ∧ ctxG.active = true ∧ (s3.gfp 9).align = 2 ∧ readCore (gf0 (sendCore 40) 12345).core =
      CoreSays.good 40 ∧ 4 ≤ 40 ∧ hecOk (gf0 (sendCore 40) 12345).head = false) ∧
    (s6.group? 9 = some hs0 ∧ hs0.synced = true ∧ readCarriage (cb0 1124).stream = some (car0 1124) ∧ 0 ≤ mseqDist
      (car0 1124).mseq hs0.next ∧ mseqDist (car0 1124).mseq hs0.next ≤ 1024) ∧
    (s6.group? 9 = some hs0 ∧ hs0.synced = true ∧ readCarriage (cb0 100).stream = some (car0 100) ∧ 0 ≤ mseqDist (car0
      100).mseq hs0.next ∧ mseqDist (car0 100).mseq hs0.next ≤ 1024) ∧
    (s6.group? 9 = some hs0 ∧ hs0.synced = true ∧ readCarriage (cb0 99).stream = some (car0 99) ∧ -1024 ≤ mseqDist
      (car0 99).mseq hs0.next ∧ mseqDist (car0 99).mseq hs0.next < 0) ∧
    (s6.group? 9 = some hs0 ∧ hs0.synced = true ∧ readCarriage (cb0 4294966372).stream = some (car0 4294966372) ∧
      -1024 ≤ mseqDist (car0 4294966372).mseq hs0.next ∧ mseqDist (car0 4294966372).mseq hs0.next < 0) ∧
    (s7.group? 9 = some (hs1 100) ∧ (hs1 100).copies = [bc0 100]) ∧
    (s8.group? 9 = some (hs1 101) ∧ (hs1 101).copies = [bc0 101]) ∧
    (s9.followsRate 47 = true ∧ -250000 < 249999 ∧ 249999 < 250000) ∧
    (s9.followsRate 47 = true ∧ s9.laneCtx 47 = some 9 ∧ (260000 ≤ -250000 ∨ 250000 ≤ 260000) ∧ (56 ≤ 8 ∨ 56 ≤ 56)) ∧
    (s9.followsRate 47 = true ∧ s9.laneCtx 47 = some 9 ∧ (-250000 ≤ -250000 ∨ 250000 ≤ -250000) ∧ (8 ≤ 8 ∨ 56 ≤ 8)) ∧
    (Admitted s10 3 h1 0 Op.MAP_CTX_READ ∧ s10.ctx? 9 = some ctxLane ∧ ctxLane.active = true ∧ ctxLane.migrating =
      none ∧ 64 % 64 = 0) ∧
    (Admitted s10 3 h0 0 Op.MAP_CTX_READ ∧ s10.ctx? 9 = some ctxLane ∧ ctxLane.active = true ∧ ctxLane.migrating =
      none ∧ 64 % 64 = 0) ∧
    (Admitted s2 3 h1 0 Op.MAP_PAGE_READ ∧ 0 ≤ 1 ∧ 1 ≤ 1 ∧ 1 ≤ 1 ∧ 1 ≤ 4096 ∧ (49151 + 1 ≤ if 0 = 0 then 49152 else
      1024)) ∧
    (Admitted s2 3 h0 0 Op.MAP_PAGE_READ ∧ 1 ≤ 1 ∧ 0 ≤ 1 ∧ 1 ≤ 1 ∧ 1 ≤ 4096 ∧ (1023 + 1 ≤ if 1 = 0 then 49152 else
      1024)) ∧
    (Admitted s11 3 h1 0 Op.MAP_DD_STATUS ∧ s11.ctx? 9 = some ctxLane ∧ ctxLane.active = true ∧ ctxLane.migrating =
      none ∧ 64 % 64 = 0 ∧ s11.groupOfLeg 9 = some (9, hs0)) := by
  and_intros <;> decide +kernel

end MappingCases

namespace OvermanCases

def wO (o : OvmSt) (r : List (Fld × Nat × Nat)) : State := { wt ([(Reg.SHF_STATE, 0, 1)] ++ r) with ovm := o }
def ctxA : Ctx := { intent := 5, kind := 0x10, active := true, pins := 1 }
def int0 : Intent := { id := 5, client := 1, container := 0x10, count := 1, proc := 0, sealing := 0, key := 0, prot := 0, shed := 7, nts := 0, rate := 0, srcA := { typ := 1, lane := 47 }, srcB := {}, dstA := { typ := 1, lane := 46 }, dstB := {} }
def ist (n : Nat) : IntentSt := { params := int0, state := n, host := h0, ctxs := [9] }
def s1 : State := wO { intents := [(5, ist 1)] } []
def s2 : State := wO { intents := [(5, ist 0)], order := [4, 5] } []
def s3 : State := wO { ctxs := [(9, ctxA)] } []
def h1 : HostRef := ⟨3, 7, true, false⟩
def s4 : State := wO {} []
def pl1 : Place := { grain := 3 }
def mv0 : Move := { ctx := 9, reason := 6, place := pl1 }
def ctxC : Ctx := { intent := 5, kind := 0x10, active := true, stage := true, pins := 0, place := { inSlice := 3, egSlice := 3 } }
def mv2 : Move := { ctx := 9, reason := 2, place := { inSlice := 2, egSlice := 2 } }
def s5 : State := wO { ctxs := [(9, ctxC)] } []
def ctxM : Ctx := { ctxA with migrating := some 10 }
def wMov : State := wO { ctxs := [(9, ctxM)], moves := [mv0] } []
def ctxSt : Ctx := { intent := 5, kind := 0x10, active := true, stage := true, pins := 0, place := { inSlice := 3 } }
def s6 : State := wO { ctxs := [(8, ctxSt), (9, ctxA)] } []
def s7 : State := wO { ctxs := [(8, ctxSt), (9, ctxA)] } [(Reg.PAR_PAIR_EN, 0, 1)]
def wEng : State := wO {} [(Reg.OVM_HEWERS_LO, 0, 15), (Reg.OVM_STATE, 0, 1), (Reg.OVM_ENGINES, 0, 4)]
def s8 : State := wO {} [(Reg.OVM_HEWERS_LO, 0, 31), (Reg.OVM_STATE, 0, 1), (Reg.OVM_ENGINES, 0, 9)]
def wWake (kind n : Nat) : State := wO { waking := [unitCode kind n], gated := [unitCode kind n], intents := [(5, { ist 0 with wake := [unitCode kind n] })] } [(Reg.PRT_LANE_GATED, 79, 1), (Reg.PRT_LANE_READY, 79, 1)]
def s9 : State := wWake 2 79
def s10 : State := wWake 3 31
def s11 : State := wWake 1 3
def int1 : Intent := { id := 5, client := 14, container := 0, count := 1, proc := 0, sealing := 0, key := 0, prot := 0, shed := 3, nts := 0, rate := 0, srcA := { typ := 1, lane := 47 }, srcB := {}, dstA := {}, dstB := {} }
def wAdd : State := wO {} [(Reg.PRT_LANE_MODE, 47, 1), (Reg.PRT_LANE_READY, 47, 1), (Reg.OVM_STATE, 0, 1)]
def obsFull : OvmObs := { fullHewers := List.range 96 }
def ist1 : IntentSt := { params := int1, state := 0, host := h0 }
def wAdm : State := match (wAdd.elapse 3).acceptIntent int1 {} ist1 with | .ok b => b | .error _ => {}

/-- The hypotheses of `Obligations.OvermanCommandsTakeEffect` are met. -/
theorem witness_OvermanCommandsTakeEffect :
    (Admitted s1 3 h0 0 Op.OVM_INTENT_WITHDRAW ∧ tfind s1.ovm.intents 5 = some (ist 1) ∧ (ist 1).state ≠ 4 ∧ (ist
      1).state ≠ 0 ∧ s1.migratingOf 5 = none ∧ s1.hasAuthority = true) ∧
    (Admitted s2 3 h0 0 Op.OVM_INTENT_WITHDRAW ∧ tfind s2.ovm.intents 5 = some (ist 0) ∧ (ist 0).state = 0 ∧
      s2.migratingOf 5 = none ∧ s2.hasAuthority = true) ∧
    (Admitted s3 3 h0 0 Op.OVM_PIN ∧ s3.ctx? 9 = some ctxA ∧ ctxA.active = true ∧ ctxA.migrating = none ∧ 63 ≤ 63 ∧
      s3.hasAuthority = true) ∧
    (Admitted s3 3 h0 0 Op.OVM_UNPIN ∧ s3.ctx? 9 = some ctxA ∧ ctxA.active = true ∧ ctxA.migrating = none ∧ 63 ≤ 63 ∧
      s3.hasAuthority = true) ∧
    (Admitted s1 3 h1 0 Op.OVM_RESULT_READ ∧ tfind s1.ovm.intents 5 = some (ist 1) ∧ s1.migratingOf 5 = none ∧ 64 % 64
      = 0 ∧ (s1.resultBlock 5 (ist 1)).length ≤ 4096) ∧
    (Admitted s4 3 h0 0 Op.OVM_DEFRAG) ∧
    (Admitted wAdd 3 h0 0 Op.OVM_INTENT_ADD ∧ wAdd.intentReason int1 = none ∧ (wAdd.elapse 3).acceptIntent int1 ({} :
      OvmObs) { params := int1, state := 0, host := h0 : IntentSt } = Except.ok wAdm) ∧
(Admitted wAdd 3 h0 0 Op.OVM_INTENT_ADD ∧ wAdd.intentReason int1 = none ∧ (match (wAdd.elapse 3).acceptIntent int1 obsFull { params := int1, state := 0, host := h0, charge := obsFull.charge : IntentSt } with
    | Except.error 0 => True
    | x => False)) ∧
    (Admitted s4 3 h0 0 Op.OVM_INTENT_ADD ∧ s4.intentReason int0 = some 1) := by
  refine ⟨?_, ?_, ?_, ?_, ?_, ?_, ?_, ⟨?_, ?_, ?_⟩, ?_⟩
  case refine_8 => and_intros <;> decide +kernel
  case refine_9 => decide +kernel
  case refine_10 =>
    have e : (wAdd.elapse 3).acceptIntent int1 obsFull { params := int1, state := 0, host := h0, charge := obsFull.charge } = .error 0 := by
      decide +kernel
    rw [e]; trivial
  all_goals and_intros
  all_goals decide +kernel

/-- The hypotheses of `Obligations.OvermanEventsTakeEffect` are met. -/
theorem witness_OvermanEventsTakeEffect :
    (s3.hasAuthority = true ∧ (s3.elapse 3).moveRuns [mv0] mv0 = true ∧ s3.ctx? mv0.ctx = some ctxA ∧ ctxA.active =
      true ∧ ctxA.migrating = none ∧ farSame ctxA.place mv0.place = true ∧ ctxA.pins.land (movedItems ctxA.place
      mv0.place) = 0 ∧ (mv0.reason = 6 ∨ (List.filter (fun n => n.reason != 6) s3.ovm.moves).length < max 1 (s3.rd
      Reg.OVM_MOVE_MAX 0)) ∧ (s3.elapse 3).moveFits mv0 ctxA = true ∧ (s3.elapse 3).moveHewerOk ({} : OvmObs) mv0 ctxA
      = true ∧ (s3.elapse 3).gatedUnits { ctxA with place := mv0.place } = []) ∧
    (s5.hasAuthority = true ∧ (s5.elapse 3).moveRuns [mv2] mv2 = true ∧ s5.ctx? mv2.ctx = some ctxC ∧ ctxC.active =
      true ∧ ctxC.migrating = none ∧ farSame ctxC.place mv2.place = true ∧ ctxC.pins.land (movedItems ctxC.place
      mv2.place) = 0 ∧ (mv2.reason = 6 ∨ (List.filter (fun n => n.reason != 6) s5.ovm.moves).length < max 1 (s5.rd
      Reg.OVM_MOVE_MAX 0)) ∧ (s5.elapse 3).moveFits mv2 ctxC = true ∧ (s5.elapse 3).moveHewerOk ({} : OvmObs) mv2 ctxC
      = true ∧ (s5.elapse 3).gatedUnits { ctxC with place := mv2.place } = []) ∧
    (wMov.halted = false ∧ wMov.ctx? 9 = some ctxM ∧ ctxM.migrating = some 10 ∧ wMov.ovm.held = []) ∧
    (3 < 4 ∧ 0 ≤ 1) ∧
    (3 < 4 ∧ 1 ≤ 1) ∧
    (3 ∈ wEng.ovmHewers ∧ wEng.ovm.moves = []) ∧
    (s4.rd Reg.OVM_STATE 0 = 0 ∧ (∀ n < 96, s4.hewerReset n = false)) ∧
    (s8.rd Reg.OVM_STATE 0 ≠ 0 ∧ s8.enginesNeeded < s8.rd Reg.OVM_ENGINES 0 ∧ s8.ovm.idleFrom = none) ∧
    (unitCode 2 79 ∈ s9.ovm.waking ∧ s9.ovm.moveWaits = []) ∧
    (unitCode 3 31 ∈ s10.ovm.waking ∧ s10.ovm.moveWaits = []) ∧
    (unitCode 1 3 ∈ s11.ovm.waking ∧ s11.ovm.moveWaits = []) := by
  and_intros <;> decide +kernel

end OvermanCases

namespace MonitoringCases

def onPt : PmPoint := { cfg := { on := true }, acc := { neEb := 5, feEb := 6, neDc := 2 }, last := { neEb := 900000 }, ever := true }
def wPm (x : PmPoint) : State := { wt [(Reg.SHF_STATE, 0, 1), (Reg.PMN_EN, 0, 1)] with addr := 19440, pm := { points := [(49157, x)], running := true }, shf := { firedAt := some 19445, fired := [{ period := 0, cyc := 0, pos := 5, cls := 6, target := 0, arg := 0 }] } }
def s1 : State := wPm onPt
def unreadPt : PmPoint := { onPt with unread := true }
def s2 : State := wPm unreadPt
def secS (b : Bool) : PmSec := { neEs := b, neSes := b, neDs := false, feEs := false, feSes := false, feDs := false, neBbe := 3, feBbe := 0, start := 7, b15 := 0, b24 := 0 }
def fullPt : PmPoint := { unreadPt with pend := List.replicate 9 (secS true), last := { neDc := 4, neEb := 77 } }
def s3 : State := wPm fullPt
def fullPt0 : PmPoint := { unreadPt with pend := List.replicate 9 (secS true), last := { neEb := 0 } }
def s4 : State := wPm fullPt0
def binPt : PmPoint := { onPt with cur15 := { serial := 3, classified := 890 } }
def wBin : State := { wPm binPt with tim := { tod := 900 * 3 * todSecond, todAt := 19440 * 2 } }
def wPc : State := wPm onPt
def h1 : HostRef := ⟨3, 7, true, false⟩
def wPh : State := wPm { onPt with hist15 := List.replicate 32 { serial := 4 } }

/-- The hypotheses of `Obligations.MonitoringEventsTakeEffect` are met. -/
theorem witness_MonitoringEventsTakeEffect :
    (tsorted s1.pm.points = true ∧ s1.pm.running = true ∧ s1.pm.frozen = false ∧ (s1.point 49157).cfg.on = true ∧
      s1.halted = false ∧ s1.pm.nextTod * todSecond ≤ (s1.toBoundary 5 Config.cyclePos).todNow ∧ (s1.point 49157).next
      = none) ∧
    (tsorted s2.pm.points = true ∧ s2.pm.running = true ∧ s2.pm.frozen = false ∧ (s2.point 49157).cfg.on = true ∧
      s2.pointHewer 49157 = 0 ∧ ((s2.elapse 5).dispatched 6 fun e => e.target == 0) = true ∧ (s2.point 49157).unread =
      true ∧ s2.rdBit Reg.PMN_EN 0 = true ∧ (s2.point 49157).pend.length < 9) ∧
    (tsorted s3.pm.points = true ∧ s3.pm.running = true ∧ s3.pm.frozen = false ∧ (s3.point 49157).cfg.on = true ∧
      s3.pointHewer 49157 = 0 ∧ ((s3.elapse 5).dispatched 6 fun e => e.target == 0) = true ∧ (s3.point 49157).unread =
      true ∧ s3.rdBit Reg.PMN_EN 0 = true ∧ (s3.point 49157).pend = secS true :: List.replicate 8 (secS true) ∧
      (List.replicate 8 (secS true)).length = 8) ∧
    (tsorted s4.pm.points = true ∧ s4.pm.running = true ∧ s4.pm.frozen = false ∧ (s4.point 49157).cfg.on = true ∧
      s4.pointHewer 49157 = 0 ∧ ((s4.elapse 5).dispatched 6 fun e => e.target == 0) = true ∧ (s4.point 49157).unread =
      true ∧ s4.rdBit Reg.PMN_EN 0 = true ∧ (s4.point 49157).pend = secS true :: List.replicate 8 (secS true) ∧
      (List.replicate 8 (secS true)).length = 8) ∧
    (tsorted wBin.pm.points = true ∧ wBin.pm.running = true ∧ wBin.pm.frozen = false ∧ (wBin.point 49157).cfg.on =
      true ∧ wBin.halted = false ∧ wBin.hasAuthority = true ∧ wBin.pointHewer 49157 = 0 ∧ ((wBin.elapse 5).dispatched
      6 fun e => e.target == 0) = true ∧ (wBin.elapse 5).edgeSec % 900 = 0 ∧ 0 < (wBin.point 49157).cur15.classified) := by
  and_intros <;> decide +kernel

/-- The hypotheses of `Obligations.MonitoringCommandsTakeEffect` are met. -/
theorem witness_MonitoringCommandsTakeEffect :
    (Admitted wPc 5 h0 0 Op.PMN_POINT_CFG ∧ wPc.hasAuthority = true ∧ 63 ≤ 63 ∧ wPc.pointOk 49759 = true) ∧
    (Admitted wPc 5 h0 0 Op.PMN_PROFILE_SET ∧ wPc.hasAuthority = true ∧ 63 ≤ 63 ∧ 1 ≤ 1 ∧ 100 ≤ 100 ∧ 0 ≤ 100 ∧ [1, 2,
      3, 4, 5, 6, 7, 8, 9, 10].length = 10) ∧
    (Admitted wPh 5 h1 0 Op.PMN_HIST_READ ∧ 1 = 1 ∧ 0 ≤ 1 ∧ 1 = 1 ∧ (32 ≤ if 0 = 0 then 32 else 7) ∧ wPh.pointOk 49157
      = true ∧ (wPh.point 49157).ever = true ∧ wPh.pm.badHist = [] ∧ 4096 % 64 = 0 ∧ 32 ≤ (wPh.point 49157).histLen 0) ∧
    (Admitted wPc 5 h1 0 Op.PMN_HIST_READ ∧ 1 = 1 ∧ 1 ≤ 1 ∧ 1 = 1 ∧ (0 ≤ if 1 = 0 then 32 else 7) ∧ wPc.pointOk 49157
      = true ∧ (wPc.point 49157).ever = true ∧ wPc.pm.badHist = [] ∧ 4096 % 64 = 0 ∧ 0 ≤ (wPc.point 49157).histLen 1) ∧
    (Admitted wPc 5 h0 0 Op.PMN_POINT_CLEAR ∧ wPc.hasAuthority = true ∧ wPc.pointOk 49157 = true) ∧
    (Admitted wPc 5 h1 0 Op.PMN_SEC_READ ∧ 4096 % 64 = 0 ∧ wPc.pointOk 49157 = true ∧ (wPc.point 49157).ever = true) := by
  and_intros <;> decide +kernel

end MonitoringCases

namespace CipherCases

/-- An envelope for the unit whose serial is 0, of opcode `op`. -/
def envB (op : Nat) : List Nat := [0x45, 0x4B, 0x4F, 0x50] ++ leBytes 2 op ++ [0, 1] ++ List.replicate 184 0
def wCip : State := wt [(Reg.SHF_STATE, 0, 1), (Reg.SEC_LIFECYCLE, 0, 2), (Reg.SEC_OPKEY_SLOT, 0, 0), (Reg.SEC_NONCE_VALID, 0, 1), (Reg.CIP_PAIR_ID, 0, 4), (Reg.CIP_EPOCH_RESV, 0, 32)]
def s1 : State := { wCip with cip := { slots := [(2, { h0 := some { fromEpoch := 1, peer := 9, key := 77 } })] } }
def kh : KeyHalf := { fromEpoch := 1, peer := 9, key := 77 }
def wKeyed : State := { wCip with cip := { slots := [(2, { h0 := some kh }), (3, { h0 := some kh })] } }
def wl : WrapLoad := { slot := 63, fromEpoch := 5, peer := 8, blob := List.replicate 40 1 }
def cc : CipCtx := { slot := 1, tx := { epoch := 6 }, rx := { epoch := 6, pEpoch := 6 } }
def wFlip (r : Nat) : State := { wt [(Reg.SHF_STATE, 0, 1), (Reg.CIP_PAIR_ID, 0, 4), (Reg.CIP_EPOCH_RESV, 0, r)] with addr := 19440 * 400010, cip := { slots := [(1, { h0 := some kh })], ctxs := [(9, cc)] } }
def ef : EpochFlip := { scope := 0, num := 9, epoch := 0, raiseCur := true }
def s2 : State := wFlip 7
def s3 : State := wFlip 6
def fl : CipFlip := { scope := 0, num := 9, epoch := 7, raiseCur := true, due := 19440 * 400032, targets := [(9, 7)], waiting := [9] }
def wDueFlip : State := { wFlip 7 with cip := { (wFlip 7).cip with flips := [fl] }, shf := { oneShots := [flipEntry (19440 * 400032)], firedAt := some (19440 * 400032), fired := [flipEntry (19440 * 400032)] } }
def ccStop : CipCtx := { cc with tx := { epoch := 6, stop := 3, mseq := 4294967295 } }
def wStop : State := { wFlip 7 with cip := { (wFlip 7).cip with ctxs := [(9, ccStop)] } }
def car (flags : Nat) : Carriage := { tag := 3, iv := 5, epoch := 6, next := 7, flags := flags, len := 0, mseq := 4 }
def blk (flags : Nat) : SealedRx := { stream := (car flags).bytes, before := [8], first := 19440, last := 38879, frames := 0 }
def ccRun : CipCtx := { cc with rx := { running := true, epoch := 6, pEpoch := 6, pending := true, forced := 1 } }
def wRunC : State := { wFlip 7 with cip := { (wFlip 7).cip with ctxs := [(9, ccRun)] } }
def rq : DeriveReq := { ctx := 9, dir := 1, epoch := 7, deadline := 5, since := 2 }
def wReq : State := { wFlip 7 with cip := { (wFlip 7).cip with requests := [rq] } }
def khU : KeyHalf := { kh with used := true }
def wUsed : State := { wFlip 7 with cip := { slots := [(2, { h0 := some khU, h1 := some kh })] } }
def wWant : State := { wFlip 7 with cip := { resvWant := some 65530 } }
def bm (o e : Bool) : BulkMsg := { typ := 1, prio := 2, length := 64, iv := 5, nonce := 6, opening := o, early := e, pair := 4, text := [1, 2, 3], tag := 5 }
def wBulk : State := { wKeyed with ovm := { wKeyed.ovm with gated := [] } }
def br (o : Bool) : BulkRun := { msg := bm o true, keyed := true, order := 0 }
def wPipe (o : Bool) : State := { wKeyed with cip := { wKeyed.cip with pipes := [(2, { run := some (br o) })] } }
def s4 : State := wPipe false
def s5 : State := wPipe true

/-- The hypotheses of `Obligations.CipherCommandsTakeEffect` are met. -/
theorem witness_CipherCommandsTakeEffect :
    (Admitted wCip 3 h0 10 Op.CIP_ROOT_LOAD ∧ wCip.hasAuthority = true) ∧
    (Admitted s1 3 h0 10 Op.CIP_KEY_ERASE ∧ s1.cip.ctxs = [] ∧ tsorted s1.cip.slots = true) ∧
    (Admitted wKeyed 3 h0 10 Op.CIP_WRAP_LOAD ∧ wl.slot ≤ 63 ∧ wl.peer ≠ wKeyed.rd Reg.CIP_PAIR_ID 0 ∧
      wKeyed.hasAuthority = true ∧ wKeyed.loadReason (128 + wl.slot) wl.fromEpoch = none ∧ wKeyed.loadHalf (128 +
      wl.slot) = some 0 ∧ wKeyed.kek = some (wKeyed.kek.getD 0) ∧ (wKeyed.rd Reg.SEC_LIFECYCLE 0 = 1 ∨ wKeyed.rd
      Reg.SEC_LIFECYCLE 0 = 2)) ∧
    (Admitted s2 3 h0 10 Op.CIP_EPOCH_FLIP ∧ s2.flipReason ef (s2.flipTargets ef) = none ∧ s2.reserved (List.foldl max
      0 (List.map (fun x => x.2) (s2.flipTargets ef))) = true) ∧
    (Admitted s3 3 h0 10 Op.CIP_EPOCH_FLIP ∧ s3.flipReason ef (s3.flipTargets ef) = none ∧ s3.reserved (List.foldl max
      0 (List.map (fun x => x.2) (s3.flipTargets ef))) = false) := by
  have hk : wKeyed.newestHalf = some kh := by decide +kernel
  have some_of_half : ∀ (s : State) (k : KeyHalf), s.newestHalf = some k → s.kek = some (s.kek.getD 0) := by
    intro s k h
    simp only [State.kek, h, Option.map_some, Option.getD_some]
  have hk2 := some_of_half _ _ hk
  and_intros <;> first
    | (guard_target =ₛ wKeyed.kek = some (wKeyed.kek.getD 0); exact hk2)
    | decide +kernel

/-- The hypotheses of `Obligations.CipherEventsTakeEffect` are met. -/
theorem witness_CipherEventsTakeEffect :
    (wDueFlip.halted = false ∧ List.filter (fun g => !g.fired) wDueFlip.cip.flips = [fl] ∧ (((wDueFlip.elapse
      3).waitAddr fl.due).dispatched 7 fun x => true) = true) ∧
    (s2.cip? 9 = some cc ∧ cc.tx.announced = false ∧ cc.tx.flip = none ∧ cc.tx.stop = 0 ∧ s2.txCause cc = 0) ∧
    (wStop.cip? 9 = some ccStop ∧ ccStop.tx.announced = false ∧ ccStop.tx.flip = none ∧ ccStop.tx.stop ≠ 0) ∧
    (s2.cip? 9 = some cc ∧ cc.rx.running = false ∧ readCarriage (blk 2).stream = some (car 2) ∧ cc.rx.epoch ≤ (car
      2).epoch) ∧
    (s2.cip? 9 = some cc ∧ cc.rx.running = false ∧ readCarriage (blk 0).stream = some (car 0) ∧ cc.rx.epoch ≤ (car
      0).epoch) ∧
    (wRunC.cip? 9 = some ccRun ∧ ccRun.rx.running = true ∧ ccRun.rx.pending = true ∧ readCarriage (blk 8).stream =
      some (car 8) ∧ (car 8).stop = true) ∧
    (firstReq wReq.cip.requests = some rq ∧ wReq.cip? rq.ctx = some cc ∧ (wReq.contextKey rq.ctx rq.dir
      rq.epoch).isSome = true) ∧
    ((wUsed.keySlot 2).erasing = false ∧ (wUsed.keySlot 2).h0 = some khU ∧ khU.used = true ∧ wUsed.halfInUse 2 0 =
      false ∧ wUsed.halfInFlight 2 0 = false) ∧
    (wWant.cip.resvWant = some 65530) ∧
    (wBulk.bulkKeyed = true ∧ wBulk.bulkPipe = some 0 ∧ (tget ({} : BulkPipe) wBulk.cip.pipes 0).run = none) ∧
    ((tget ({} : BulkPipe) s4.cip.pipes 2).run = some (br false) ∧ (tget ({} : BulkPipe) s4.cip.pipes 2).suspended =
      [] ∧ (tget ({} : BulkPipe) s4.cip.pipes 2).waiting = [] ∧ (br false).msg.opening = false) ∧
    ((tget ({} : BulkPipe) s5.cip.pipes 2).run = some (br true) ∧ (tget ({} : BulkPipe) s5.cip.pipes 2).suspended = []
      ∧ (tget ({} : BulkPipe) s5.cip.pipes 2).waiting = [] ∧ (br true).msg.opening = true) := by
  and_intros <;> decide +kernel

end CipherCases

namespace MateCases

def mh (typ : Nat) : MsgHead := { head := msgHeader typ 40 8 622080, bodyOk := true }
def txt (typ : Nat) (p : List Nat) : MateText :=
  { head := msgHeader typ p.length 8 622080, payload := p, crc := crc32c (msgHeader typ p.length 8 622080 ++ p) }
def m0 : MsgHead := mh 0
def x0 : MateText := txt 0 []
def xBad : MateText := { x0 with crc := 5 }
def xGrant : MateText := txt 1 ((MateMsg.grant 53).payload.getD [])
def xAck : MateText := txt 2 ((MateMsg.ack 53 true).payload.getD [])
def xSur : MateText := txt 3 ((MateMsg.surrender 1 1900000).payload.getD [])
def xClaim : MateText := txt 4 (List.replicate 24 0 ++ leBytes 14 12345)
def wP (st : Nat) (r : List (Fld × Nat × Nat)) (p : ParSt) : State := { wt ([(Reg.SHF_STATE, 0, 1), (Reg.PAR_PAIR_EN, 0, 1), (Reg.PAR_LINK_PATH, 0, 1), (Reg.PAR_STATE, 0, st), (Reg.PRT_LANE_MODE, 72, 1), (Reg.PRT_LANE_MODE, 79, 1), (Reg.PRT_LANE_GATED, 79, 0), (Reg.PRT_LANE_GATED, 72, 0)] ++ r) with addr := 19440 * 100, par := p }
def mf : MateFrame := { marker := true, markCrc := true, laneNo := 0, unit := 1, role := 1, ohCrc := true, cycle := 100, parState := 3, authority := false, faulted := false, healthy := true, ql := 2, echoCycle := 90, echoNs := 10, inSync := 255, timSel := 4 }
def mIn : MateIn := { off := 40, lock := true, prior := 4321, blocks := mf.blocks 4321, sub := 7 }
def s1 : State := wP 5 [] {}
def pSync : ParSt := { lanes := [(7, { align := 2, next := 40 })] }
def s2 : State := wP 5 [] pSync
def s3 : State := wP 5 [] { ctlSeen := [7, 9] }
def s4 : State := wP 1 [] {}
def wPin : State := wP 5 [(Reg.PAR_PIN_PATH, 0, 1)] {}
def s5 : State := wP 2 [] {}
def s6 : State := wP 3 [] {}
def hm : HealthMsg := { verdict := 1, faulted := false, healthy := true, joinReady := false, good := 9, miss := 1, tests := 3, failures := 0, cfgCrc := 0, epoch := 0, stages := 0 }
def xHm : MateText := txt 5 hm.bytes
def efp : EpochFlip := { scope := 0, num := 9, epoch := 0, raiseCur := true }
def pm0 : PlaceMsg := { cycle := 104, adds := [], removes := [], sheds := [], moves := [], own := [] }
def wAck : State := { wP 5 [] { placing := some (pm0, 77) } with ovm := { arm := some {} } }
def g0 : ApsGroup := { scheme := 1, work := 3, prot := 4 }
def wGrp : State := { wP 3 [] {} with frm := { groups := [(6, g0)] } }
def im : ImageEntry := { group := 6, tx := [1, 2], leg := 1, request := 7 }
def ge : GateEntry := { ctx := 9, frame := 1, decision := 2, upstream := 3, offset := 4, fill := true }
def xGate : MateText := txt 10 (gateBytes ge)
def wStd (p : ParSt) : State := { wP 3 [] p with cip := { slots := [(3, { h0 := some { fromEpoch := 1, peer := 2, key := 3 } })] } }
def xData : MateText := txt 11 (List.replicate 100 1)
def stg : Staging := { since := 622080, ivs := [(5, 0, [])] }
def s7 : State := wStd {}
def s8 : State := wStd { staging := some stg }
def xCommit : MateText := txt 12 (List.replicate 64 1)
def sn : Snapshot := { intents := [], groups := [], epochs := [], points := [], defects := [], slots := [], tod := 0 }
def xSack : MateText := txt 13 (beBytes 8 77 ++ [0, 0, 0, 0, 0, 0, 0, 0])

/-- The hypotheses of `Obligations.MateMessagesTakeEffect` are met. -/
theorem witness_MateMessagesTakeEffect :
    (s1.paired = true ∧ 7 ≤ 7 ∧ s1.laneOn (72 + 7) = true ∧ (s1.mateLane 7).align = 0 ∧ mIn.lock = true ∧ (s1.mateLane
      7).next ≤ mIn.off ∧ (readMate mIn.prior mIn.blocks).marker = true) ∧
    (s2.paired = true ∧ 7 ≤ 7 ∧ s2.laneOn (72 + 7) = true ∧ (s2.mateLane 7).align = 2 ∧ mIn.lock = true ∧ (s2.mateLane
      7).next = mIn.off ∧ (readMate mIn.prior mIn.blocks).marker = true ∧ (readMate mIn.prior mIn.blocks).ohCrc =
      true) ∧
    (s1.paired = true ∧ textGood xBad = false) ∧
    (FreshControl s3 1 xGrant.head (textGood xGrant) ∧ s3.parSt = parActive ∧ (s3.elapse 3).cycle < addrOfStamp (beNum
      (cut xGrant.payload 0 8)) / Config.cyclePos + 48) ∧
    (FreshControl s4 2 xAck.head (textGood xAck) ∧ s4.parSt = parSeeking ∧ s4.par.mute = false) ∧
    (wPin.paired = true ∧ wPin.rdBit Reg.PAR_PIN_PATH 0 = true ∧ wPin.parSt = parActive ∧ readChips (pinChips (pinWord
      9 0 99)) = some (pinWord 9 0 99) ∧ (wPin.elapse 3).cycle < (wPin.elapse 3).recentCycle (99 % 65536) + 48) ∧
    (FreshControl s5 3 xSur.head (textGood xSur) ∧ s5.parSt = parJoining) ∧
    (FreshControl s6 4 xClaim.head (textGood xClaim) ∧ s6.parSt = parStandby ∧ s6.par.drill = none ∧ s6.par.takeHost =
      none) ∧
    (FreshControl s1 5 xHm.head (textGood xHm) ∧ s1.parSt = parActive ∧ (readHealth xHm.payload).joinReady = false ∧
      (readHealth xHm.payload).stages = s1.par.mateStages) ∧
    (FreshControl s6 6 (mh 6).head (headGood (mh 6))) ∧
    (NextData s6 7 (mh 7).head (headGood (mh 7)) ∧ s6.hasAuthority = false ∧ s6.addr + 3 < pm0.cycle * Config.cyclePos
      ∧ (s6.elapse 3).swapBoundary.1 ≤ pm0.cycle * Config.cyclePos) ∧
    (FreshControl wAck 8 (mh 8).head (headGood (mh 8)) ∧ wAck.ovm.arm = some ({} : ArmSt) ∧ false = false ∧
      wAck.par.placing = some (pm0, 77) ∧ pm0.cycle = 104 ∧ (wAck.elapse 3).swapBoundary = (104 * Config.cyclePos,
      false)) ∧
    (FreshControl wGrp 9 (mh 9).head (headGood (mh 9)) ∧ wGrp.hasAuthority = false ∧ tfind wGrp.frm.groups im.group =
      some g0) ∧
    (NextData wGrp 10 xGate.head (textGood xGate) ∧ wGrp.par.planner = false ∧ readGates xGate.payload = [ge]) ∧
    (NextData s7 11 xData.head (textGood xData) ∧ (s7.parSt = parJoining ∨ s7.parSt = parStandby) ∧ s7.bulkKeyed =
      true ∧ (∀ (g : Staging), s7.par.staging = some g → g.dead = false)) ∧
    (NextData s8 11 xData.head (textGood xData) ∧ (s8.parSt = parJoining ∨ s8.parSt = parStandby) ∧ s8.bulkKeyed =
      true ∧ (∀ (g : Staging), s8.par.staging = some g → g.dead = false)) ∧
    (FreshControl s8 12 xCommit.head (textGood xCommit) ∧ (s8.parSt = parJoining ∨ s8.parSt = parStandby) ∧
      s8.bulkKeyed = true ∧ (∀ (g : Staging), s8.par.staging = some g → g.dead = false) ∧ s8.perturbed 4 = false ∧
      s8.par.drill = none) ∧
    (FreshControl s7 12 xCommit.head (textGood xCommit) ∧ (s7.parSt = parJoining ∨ s7.parSt = parStandby) ∧
      s7.bulkKeyed = true ∧ (∀ (g : Staging), s7.par.staging = some g → g.dead = false) ∧ s7.perturbed 4 = false ∧
      s7.par.drill = none) ∧
    (FreshControl s1 13 xSack.head (textGood xSack) ∧ s1.par.drill = none ∧ xSack.payload.getD 8 0 = 0) ∧
    (FreshControl s1 14 (mh 14).head (headGood (mh 14))) := by
  and_intros <;> decide +kernel

end MateCases

namespace PairCases

def wP (st : Nat) (r : List (Fld × Nat × Nat)) (p : ParSt) : State := { wt ([(Reg.SHF_STATE, 0, 1), (Reg.PAR_PAIR_EN, 0, 1), (Reg.PAR_LINK_PATH, 0, 1), (Reg.PAR_STATE, 0, st)] ++ r) with addr := 19440 * 100, par := p }
def fires (cls arg : Nat) (s : State) : State :=
  { s with shf := { s.shf with firedAt := some (s.addr + 3), fired := [{ period := 0, cyc := 0, pos := 3, cls := cls, target := 0, arg := arg }] } }
def lanesUp : List (Fld × Nat × Nat) := (Reg.PAR_LANES_USABLE, 0, 255) :: ((List.range 8).map (fun l => [(Reg.PRT_LANE_LOS, 72 + l, 0), (Reg.PRT_LANE_LOL, 72 + l, 0)])).flatten
def s1 : State := wP 5 lanesUp {}
def s2 : State := wP 5 [(Reg.SHF_STATE, 0, 0)] {}
def s3 : State := fires 9 0 (wP 3 [] {})
def s4 : State := fires 9 0 (wP 5 [] {})
def s5 : State := fires 9 0 (wP 5 [] { gotGrant := true, lease := some 7 })
def s6 : State := wP 5 [(Reg.PAR_LEASED, 0, 1)] { lease := some 60 }
def s7 : State := wP 4 [] { granted := some 50, staging := some { since := 622080 } }
def s8 : State := wP 3 [(Reg.PAR_AUTO, 0, 0)] { heardLink := some 0 }
def s9 : State := wP 5 [] {}
def s10 : State := wP 3 [] {}
def cx : Ctx := { intent := 1, kind := 1, active := true }
def wGt (pl : Bool) (l : Tab GateEntry) : State := { wP 3 [] { planner := pl, plans := l } with ovm := { State.reset.ovm with ctxs := [(9, cx)] } }
def s11 : State := wGt true []
def ge : GateEntry := { ctx := 9, frame := 1, decision := 2, upstream := 3, offset := 4, fill := true }
def s12 : State := wGt false []
def s13 : State := wGt false [(planKey 9 1, ge)]
def s14 : State := fires 8 0 (wP 5 [] {})
def s15 : State := wP 3 [] { staging := some { since := 622080 } }
def s16 : State := wP 5 [] { drill := some { options := 3, phase := 1, since := 1900000 } }
def s17 : State := wP 2 [] { drill := some { options := 3, phase := 2, since := 1900000 } }
def s18 : State := wP 3 [] { granted := some 99 }
def s19 : State := wP 5 [] { mateState := 3, mateHealthy := true }
def s20 : State := wP 3 [] { faults := [2, 3] }

/-- The hypotheses of `Obligations.PairEventsTakeEffect` are met. -/
theorem witness_PairEventsTakeEffect :
    (s1.paired = true ∧ s1.par.drill = none ∧ s1.par.roleDown = false ∧ (∀ l ∈ s1.usableLanes, s1.rdBit
      Reg.PRT_LANE_LOS (72 + l) = false ∧ s1.rdBit Reg.PRT_LANE_LOL (72 + l) = false)) ∧
    (s2.paired = true ∧ s2.halted = true ∧ s2.par.listened = false ∧ s2.shf.startable = true ∧ s2.inReset domShaft =
      false ∧ s2.par.mateAt = none ∧ s2.shf.txIdle = true) ∧
    (s3.paired = true ∧ s3.halted = false ∧ (s3.parSt = parJoining ∨ s3.parSt = parStandby) ∧ s3.pinsOnly = false ∧
      ((s3.elapse 3).dispatched 9 fun x => true) = true) ∧
    (s4.paired = true ∧ s4.halted = false ∧ s4.parSt = parActive ∧ s4.pinsOnly = false ∧ ((s4.elapse 3).dispatched 9
      fun x => true) = true) ∧
    (s5.paired = true ∧ s5.halted = false ∧ s5.parSt = parActive ∧ s5.pinsOnly = false ∧ ((s5.elapse 3).dispatched 9
      fun x => true) = true) ∧
    (s6.halted = false ∧ s6.parSt = parActive ∧ s6.rdBit Reg.PAR_LEASED 0 = true ∧ s6.par.lease = some 60) ∧
    (s7.halted = false ∧ s7.parSt = parTaking ∧ s7.healthy = true ∧ s7.par.granted = some 50 ∧ s7.par.lease = none ∧
      s7.par.drill = none) ∧
    (s8.rdBit Reg.PAR_LINK_PATH 0 = true ∧ s8.rdBit Reg.PAR_PIN_PATH 0 = false ∧ s8.par.heardLink = some 0 ∧ s8.rdBit
      Reg.PAR_AUTO 0 = false) ∧
    (s9.paired = true ∧ s9.halted = false ∧ s9.parSt ≠ parStandby) ∧
    (s10.paired = true ∧ s10.parSt = parStandby ∧ s10.bistIdle (BistUnit.hewer 95) = true) ∧
    (s10.paired = true ∧ s10.parSt = parStandby ∧ s10.bistIdle (BistUnit.grain 3) = true) ∧
    (s11.paired = true ∧ s11.ctx? 9 = some cx ∧ cx.active = true ∧ s11.par.planner = true) ∧
    (s12.paired = true ∧ s12.ctx? 9 = some cx ∧ cx.active = true ∧ s12.par.planner = false ∧ tfind s12.par.plans
      (planKey 9 1) = none) ∧
    (s13.paired = true ∧ s13.ctx? 9 = some cx ∧ cx.active = true ∧ s13.par.planner = false ∧ tfind s13.par.plans
      (planKey 9 1) = some ge) ∧
    (s14.paired = true ∧ s14.halted = false ∧ s14.parSt = parActive ∧ s14.par.fullSince = none ∧ ((s14.elapse
      3).dispatched 8 fun x => true) = true) ∧
    (s15.par.staging = some { since := 622080 : Staging } ∧ false = false) ∧
    (s16.halted = false ∧ s16.par.drill = some { options := 3, phase := 1, since := 1900000 : DrillSt } ∧ 1 = 1) ∧
    (s17.par.drill = some { options := 3, phase := 2, since := 1900000 : DrillSt } ∧ 2 = 2) ∧
    (Admitted s18 3 h0 11 Op.PAR_TAKE ∧ s18.paired = true ∧ s18.parSt = parStandby ∧ s18.healthy = true ∧
      s18.par.granted = some 99 ∧ (s18.elapse 3).addr < (99 + 64) * Config.cyclePos) ∧
    (Admitted s9 3 h0 11 Op.PAR_SURRENDER ∧ s9.paired = true ∧ s9.parSt = parActive) ∧
    (Admitted s19 3 h0 11 Op.PAR_DRILL ∧ 3 ≤ 3 ∧ s19.paired = true ∧ s19.par.drill = none ∧ s19.parSt = parActive ∧
      s19.par.mateState = parStandby ∧ s19.par.mateHealthy = true) ∧
    (Admitted s20 3 h0 11 Op.PAR_CLEAR_FAULT ∧ s20.paired = true ∧ (∀ c ∈ s20.par.faults, c ≠ 1 ∧ c ≠ 4 ∧ c ∉
      s20.sys.faultsHeld)) := by
  and_intros <;> decide +kernel

end PairCases

namespace EnergyCases

def wE (r : List (Fld × Nat × Nat)) (e : EngSt) : State := { wt ([(Reg.SHF_STATE, 0, 1)] ++ r) with addr := 19440 * 100, time := 19440 * 100, eng := e }
def wIdle (r : List (Fld × Nat × Nat)) (e : EngSt) : State := let s := wE r e; { s with ovm := { s.ovm with gated := (List.range 8).map (256 + ·) } }
def gv : GovObs := { hewer := false, pipe := none }
def s1 : State := wIdle [(Reg.ENG_BUDGET, 0, 100)] { powers := [(0, 5000)] }
def s2 : State := wIdle [(Reg.ENG_BUDGET, 0, 100), (Reg.ENG_HYST, 0, 0), (Reg.BKG_THROTTLED, 0, 1)] { powers := [(0, 50)], below := some 0 }
def s3 : State := wE [] {}
def wPipeW : State := let s := wE [] { waiting := [.wake 23] }; { s with ovm := { s.ovm with gated := [23], waking := [] } }
def wSlew : State := let s := wE [] { waiting := [.wake 23], winAt := 3, winSum := 100000 }; { s with ovm := { s.ovm with gated := [23], waking := [] } }
def wSlew2 : State := { wSlew with eng := { wSlew.eng with winAt := 126 } }
def wArmD : State := let s := wE [(Reg.ENG_FEED_EN, 7, 1)] {}; { s with sys := { s.sys with configured := true }, feeds := [(7, { okSince := some 0 })] }
def wLost (en : Nat) : State := let s := wE [(Reg.ENG_FEED_EN, 7, 1), (Reg.ENG_FEED_UNALIGNED, 7, 0), (Reg.ENG_ARMED, 0, 1), (Reg.ENG_LG_EN, 0, en), (Reg.ENG_LOSS_WORDS, 0, 3), (Reg.ENG_HOLDUP_MJ, 0, 5000), (Reg.ENG_DEV_POWER, 0, 9000)] {}; { s with feeds := [(7, { lowRun := 3, lowFrom := 65536 * 19440 * 90 })] }
def s4 : State := wLost 0
def s5 : State := wLost 1
def s6 : State := wE [(Reg.ENG_STATE, 0, 3), (Reg.ENG_LG_STAGE, 0, 1)] { ledger := 5000 }
def s7 : State := wE [(Reg.ENG_STATE, 0, 3), (Reg.ENG_LG_STAGE, 0, 4)] { ledger := 5000 }
def pr (e : Nat) : PmbRead := { conv := 7, err := e, status := 3, vin := 65535, iout := 4, pout := 5 }
def s8 : State := wE [(Reg.ENG_PMB_EN, 7, 1)] {}
def ectx : Ctx := { intent := 5, kind := 0x10, active := true, stage := true, nts := 1, rate := 1000 }
def wRate : State := let s := wE [(Reg.ENG_DEV_POWER, 0, 9)] {}; { s with ovm := { s.ovm with ctxs := [(9, ectx)] } }
def wLg : State := wE [(Reg.ENG_LG_EN, 0, 1), (Reg.ENG_HOLDUP_MJ, 0, 5000), (Reg.ENG_DEV_POWER, 0, 9000)] {}
def s9 : State := wE [(Reg.ENG_STATE, 0, 3)] {}
def h1 : HostRef := ⟨3, 7, true, false⟩
def px (n : Nat) (g : List Nat) : PmbXfer := { addr := 127, wlen := 32, rlen := n, pec := true, data := [], host := 64, err := 0, got := g }
def crm : BulkMsg := { typ := 2, prio := 1, length := 64, iv := 3, nonce := 6, opening := false, early := false, pair := 4, text := [1, 2], tag := 5 }
def cr : CrashRec := { cause := 0, stamp := 5, ledgers := [1, 2], ran := [1], skipped := [], events := [], points := [], bins := [], msg := crm }
def s10 : State := wE [] { slots := [(1, cr)] }
def s11 : State := wE [] { slots := [(0, cr), (1, cr)] }
def s12 : State := wE [] { points := [(250, 7)] }

/-- The hypotheses of `Obligations.EnergyEventsTakeEffect` are met. -/
theorem witness_EnergyEventsTakeEffect :
    (s1.halted = false ∧ s1.gasping = false ∧ s1.rdBit Reg.BKG_THROTTLED 0 = false ∧ s1.rd Reg.ENG_HBM_STATE 0 = 0 ∧
      s1.eng.pipes = [] ∧ s1.eng.pipeAsks = [] ∧ s1.eng.lanes = [] ∧ s1.eng.shed = [] ∧ s1.eng.hewers = 0 ∧ (∀ (u :
      ℕ), 256 ≤ u → u < 264 → s1.unitIdle u = false ∨ s1.ovm.gated.contains u = true) ∧ ↑(s1.rd Reg.ENG_BUDGET 0) <
      (s1.toBoundary 3 Config.multiframePos).meanPower) ∧
    (s2.halted = false ∧ s2.gasping = false ∧ s2.rdBit Reg.BKG_THROTTLED 0 = true ∧ s2.rd Reg.ENG_HBM_STATE 0 = 0 ∧
      s2.eng.pipes = [] ∧ s2.eng.pipeAsks = [] ∧ s2.eng.lanes = [] ∧ s2.eng.shed = [] ∧ s2.eng.hewers = 0 ∧ (∀ (u :
      ℕ), 256 ≤ u → u < 264 → s2.unitIdle u = false ∨ s2.ovm.gated.contains u = true) ∧ (s2.toBoundary (155520000 *
      60) Config.multiframePos).meanPower < ↑(s2.rd Reg.ENG_BUDGET 0) - ↑(s2.rd Reg.ENG_HYST 0) ∧ s2.eng.below = some
      0 ∧ 0 + s2.releasePos ≤ s2.time + 155520000 * 60 ∧ (s2.toBoundary (155520000 * 60)
      Config.multiframePos).meanPower + 10 ≤ ↑(s2.rd Reg.ENG_BUDGET 0) - ↑(s2.rd Reg.ENG_HYST 0)) ∧
    (s3.rd Reg.ENG_STATE 0 ≠ 3 ∧ s3.rd Reg.ENG_STATE 0 ≠ 4 ∧ [(900, 30000), (1800, 35535)].length ≤ 9 ∧ (List.map (fun
      x => x.2) [(900, 30000), (1800, 35535)]).sum < 65536) ∧
    (23 < 24 ∧ wPipeW.eng.waiting = [LoadStep.wake 23] ∧ wPipeW.gasping = false ∧ (wPipeW.toBoundary 3
      Config.hundredUsPos).slewSum = 0 ∧ wPipeW.ovm.gated.contains 23 = true ∧ wPipeW.ovm.waking.contains 23 = false) ∧
    (wSlew2.eng.waiting = [LoadStep.wake 23] ∧ wSlew2.gasping = false ∧ (wSlew2.toBoundary 3
      Config.hundredUsPos).slewFits (wSlew2.stepPrice (LoadStep.wake 23)) = false) ∧
    (wArmD.sys.configured = true ∧ wArmD.rdBit Reg.ENG_ARMED 0 = false ∧ (∃ k < 8, wArmD.rdBit Reg.ENG_FEED_EN k =
      true) ∧ (∀ k < 8, wArmD.rdBit Reg.ENG_FEED_EN k = true → ∃ a, (wArmD.feed k).okSince = some a ∧ a +
      Config.secondPos ≤ wArmD.time + 155520000)) ∧
    (s4.feedsLost = true ∧ s4.gasping = false ∧ s4.rdBit Reg.ENG_LG_EN 0 = false) ∧
    (s5.feedsLost = true ∧ s5.gasping = false ∧ s5.rdBit Reg.ENG_LG_EN 0 = true ∧ s5.paired = false ∧ s5.eng.waiting =
      []) ∧
    (s6.rd Reg.ENG_STATE 0 = 3 ∧ s6.rd Reg.ENG_LG_STAGE 0 = 1) ∧
    (s7.rd Reg.ENG_STATE 0 = 3 ∧ s7.rd Reg.ENG_LG_STAGE 0 = 4) ∧
    (s8.rd Reg.ENG_STATE 0 ≠ 4 ∧ List.filter (s8.rdBit Reg.ENG_PMB_EN) (List.range 8) = [(pr 0).conv] ∧ (pr 0).err = 0
      ∧ (pr 0).status < 4) ∧
    (s8.rd Reg.ENG_STATE 0 ≠ 4 ∧ List.filter (s8.rdBit Reg.ENG_PMB_EN) (List.range 8) = [(pr 1).conv] ∧ (pr 1).err =
      1) ∧
    (7 < 8 ∧ 65535 < 65536) ∧
    (0 = ((s3.rd Reg.ENG_DEV_POWER 0 : ℚ) * 10 ^ 12 / (s3.carriedRate : ℚ) + 1 / 2).floor ∧ 0 < 65536) ∧
    (3600 = ((wRate.rd Reg.ENG_DEV_POWER 0 : ℚ) * 10 ^ 12 / (wRate.carriedRate : ℚ) + 1 / 2).floor ∧ 3600 < 65536) := by
  and_intros <;> decide +kernel

/-- The hypotheses of `Obligations.EnergyCommandsTakeEffect` are met. -/
theorem witness_EnergyCommandsTakeEffect :
    (Admitted wLg 3 h0 0 Op.ENG_LAST_GASP ∧ wLg.gasping = false ∧ wLg.rdBit Reg.ENG_LG_EN 0 = true ∧ wLg.paired =
      false ∧ wLg.eng.waiting = []) ∧
    (Admitted s9 3 h0 0 Op.ENG_LAST_GASP ∧ s9.gasping = true) ∧
    (Admitted s3 3 h1 0 Op.ENG_PMB_XFER ∧ s3.gasping = false ∧ (px 2 [5, 6]).addr ≤ 127 ∧ (px 2 [5, 6]).wlen ≤ 32 ∧
      (px 2 [5, 6]).rlen ≤ 32 ∧ (px 2 [5, 6]).host % 64 = 0 ∧ (px 2 [5, 6]).err = 0 ∧ (px 2 [5, 6]).got.length = (px 2
      [5, 6]).rlen) ∧
    (Admitted s3 3 h1 0 Op.ENG_PMB_XFER ∧ s3.gasping = false ∧ (px 0 []).addr ≤ 127 ∧ (px 0 []).wlen ≤ 32 ∧ (px 0
      []).rlen ≤ 32 ∧ (px 0 []).host % 64 = 0 ∧ (px 0 []).err = 0 ∧ (px 0 []).got.length = (px 0 []).rlen) ∧
    (Admitted s10 3 h1 0 Op.ENG_CRASH_READ ∧ 1 ≤ 1 ∧ 64 % 64 = 0 ∧ tfind s10.eng.slots 1 = some cr) ∧
    (Admitted s11 3 h0 0 Op.ENG_CRASH_RELEASE ∧ 1 ≤ 1 ∧ s11.gasping = false ∧ tsorted s11.eng.slots = true) ∧
    (Admitted s12 3 h0 0 Op.ENG_CRASH_POINTS ∧ 256 ≤ 256 ∧ 244 ≤ 255 ∧ s12.gasping = false ∧ [1, 2, 3, 4, 5, 6, 7, 8,
      9, 10, 11, 12].length ≤ 12 ∧ 244 + [1, 2, 3, 4, 5, 6, 7, 8, 9, 10, 11, 12].length ≤ 256 ∧ tsorted s12.eng.points
      = true) := by
  and_intros <;> decide +kernel

end EnergyCases

namespace HostIfCases

def wRing (l : List (Fld × Nat × Nat)) : State :=
  let s := wt ([(Reg.SHF_STATE, 0, 1), (Reg.HIF_LINK_UP, 0, 1), (Reg.HIF_CMD_CPL, 3, 2), (Reg.HIF_CPL_EN, 2, 1), (Reg.HIF_CPL_SIZE, 2, 6), (Reg.HIF_CPL_BASE_LO, 2, 4096), (Reg.HIF_EN, 0, 1), (Reg.HIF_EVQ_EN, 0, 1), (Reg.HIF_EVQ_SIZE, 0, 6), (Reg.HIF_EVQ_BASE_LO, 0, 8192), (Reg.HIF_CMD_EN, 0, 1), (Reg.HIF_CMD_EN, 15, 1), (Reg.HIF_CMD_SIZE, 15, 6), (Reg.HIF_CMD_SIZE, 0, 6)] ++ l)
  { s with io := { s.io with busMaster := true } }
def pg (ok : Bool) (p c : List Nat) : DbPage :=
  { ok := ok, status := 0, bytes := (p ++ c).flatMap (leBytes 4) ++ List.replicate 256 0, lines := [] }
def l16 (v : Nat) : List Nat := List.replicate 16 v
def s1 : State := wRing []
def s2 : State := wRing [(Reg.HIF_DB_READ_ERR_CNT, 0, 4294967295)]
def s3 : State := wRing [(Reg.HIF_CMD_EN, 15, 0), (Reg.HIF_CPL_EN, 2, 0), (Reg.HIF_EVQ_EN, 0, 0)]
def dscb (op alive : Nat) : List Nat := descBytes op 0 alive 7 []
def badb (op alive : Nat) : List Nat := (dscb op alive).take 60 ++ [1, 2, 3, 4]
def wFet (n : Nat) (l : List (Fld × Nat × Nat)) : State := let s := wRing l; { s with io := { s.io with fetch := [(n, 1)] } }
def s4 : State := wFet 15 []
def s5 : State := wFet 15 [(Reg.HIF_CMD_CONS, 15, 4294967295)]
def s6 : State := wFet 15 [(Reg.HIF_STALE_LIMIT, 0, 2)]
def cpl0 : CplRec := { ring := 3, tag := 2, opcode := 3, outcome := 1, reason := 4, stamp := 99, result := packItems [(4, 8)] }
def wHeldC : State := let s := wRing []; { s with io := { s.io with heldCpl := [cpl0] } }
def rec0 : EvRec := { code := Ev.SCHED_LATE, sev := 2, folded := false, caused := false, src := 0, stamp := 0, detail := packItems [] }
def wHeldE : State := let s := wRing [(Reg.HIF_EVQ_EN, 31, 1), (Reg.HIF_EVQ_SIZE, 31, 6), (Reg.HIF_EVQ_BASE_LO, 31, 65536)]; { s with io := { s.io with evq := [(31, { held := [rec0] })] } }
def dqW : DqSt := { q := 1, toHost := true, size := 6, base := 65536, evq := 255, thr := 4, dev := 10, host := 6, words := 3 }
def wDq (x : DqSt) : State := let s := wRing [(Reg.HIF_DQ_WB_ADDR_LO, 0, 131072)]; { s with qmg := { s.qmg with dqs := [(8191, x)] } }
def s7 : State := wDq dqW
def dqE : DqSt := { q := 1, toHost := true, size := 6, base := 65536, evq := 0, thr := 4, dev := 10, host := 6, words := 3 }
def s8 : State := wDq dqE
def wVec (m : Tab Nat) : State := let s := wRing [(Reg.HIF_VEC_TIMER, 31, 5)]; { s with io := { s.io with vecs := [(31, { count := 2, since := 7 })], msix := m } }
def s9 : State := wVec []
def s10 : State := wVec [(127, 0)]
def s11 : State := wt [(Reg.SHF_STATE, 0, 1), (Reg.HIF_LINK_UP, 0, 1)]
def wDown : State := wt [(Reg.SHF_STATE, 0, 1), (Reg.HIF_LINK_UP, 0, 0)]
def wWas : State := { wDown with io := { wDown.io with linkWas := true } }
def s12 : State := wRing [(Reg.RST_GEN, 2, 65535)]
def bd : DqBind := { d := 8191, q := 5, dir := 1, size := 16, base := 4096, evq := 31, thr := 2 }
def q0 : QSt := {}
def wQ (x : QSt) : State := let s := wRing []; { s with qmg := { s.qmg with qs := [(5, x)] } }
def s13 : State := wQ q0
def bd2 : DqBind := { d := 8192, q := 5, dir := 1, size := 16, base := 4096, evq := 31, thr := 2 }
def qB : QSt := { reader := 7 }
def dqU : DqSt := { q := 5, toHost := true, size := 6, base := 65536, evq := 255, thr := 4 }
def wUn : State := let s := wQ qB; { s with qmg := { s.qmg with dqs := [(8191, dqU)] } }

/-- The hypotheses of `Obligations.HostInterfaceEventsTakeEffect` are met. -/
theorem witness_HostInterfaceEventsTakeEffect :
    (s1.ReadsPage 3 ∧ (pg true (l16 64) (l16 0)).ok = true) ∧
    (s2.ReadsPage 3 ∧ (pg false [] []).ok = false) ∧
    (s3.ReadsPage 3 ∧ (pg true (l16 65) (l16 0)).ok = true ∧ (pg true (l16 65) (l16 0)).lines = [] ∧ s3.rdBit
      Reg.HIF_CMD_EN 0 = true ∧ 2 ^ s3.rd Reg.HIF_CMD_SIZE 0 < ahead (s3.rd Reg.HIF_CMD_CONS 0) (leNum (cut (pg true
      (l16 65) (l16 0)).bytes 0 4)) ∧ (∀ n < 16, (n ≠ 0 → s3.rdBit Reg.HIF_CMD_EN n = false) ∧ s3.rdBit Reg.HIF_CPL_EN
      n = false) ∧ (∀ n < 32, s3.rdBit Reg.HIF_EVQ_EN n = false)) ∧
    (readDesc (dscb Op.HIF_NOP 1) = readDesc (dscb Op.HIF_NOP 1) ∧ 15 < 16 ∧ s4.io.fetch = [(15, 1)] ∧ s4.rdBit
      Reg.HIF_CMD_EN 15 = true ∧ s4.perturbed 4 = false ∧ s4.sys.bootMode = false ∧ descReason (readDesc (dscb
      Op.HIF_NOP 1)) (aliveOf (s4.io.full Reg.HIF_CMD_CONS 15 (s4.rd Reg.HIF_CMD_CONS 15)) (2 ^ s4.rd Reg.HIF_CMD_SIZE
      15)) false = 0 ∧ (bitOf (readDesc (dscb Op.HIF_NOP 1)).flags 1 = false ∨ (s4.io.delivered.any fun e => e.ring ==
      15) = false)) ∧
    (readDesc (badb Op.HIF_NOP (aliveOf 4294967295 64)) = readDesc (badb Op.HIF_NOP (aliveOf 4294967295 64)) ∧ 15 < 16
      ∧ s5.io.fetch = [(15, 1)] ∧ s5.rdBit Reg.HIF_CMD_EN 15 = true ∧ (readDesc (badb Op.HIF_NOP (aliveOf 4294967295
      64))).alive < 256 ∧ (readDesc (badb Op.HIF_NOP (aliveOf 4294967295 64))).alive = aliveOf (s5.io.full
      Reg.HIF_CMD_CONS 15 (s5.rd Reg.HIF_CMD_CONS 15)) (2 ^ s5.rd Reg.HIF_CMD_SIZE 15) ∧ (readDesc (badb Op.HIF_NOP
      (aliveOf 4294967295 64))).crcOk = false) ∧
    (readDesc (dscb Op.HIF_NOP 0) = readDesc (dscb Op.HIF_NOP 0) ∧ 15 < 16 ∧ s6.io.fetch = [(15, 1)] ∧ s6.rdBit
      Reg.HIF_CMD_EN 15 = true ∧ tfind s6.io.stale 15 = none ∧ 1 < s6.rd Reg.HIF_STALE_LIMIT 0 ∧ s6.io.full
      Reg.HIF_CMD_CONS 15 (s6.rd Reg.HIF_CMD_CONS 15) < 2 ^ s6.rd Reg.HIF_CMD_SIZE 15 ∧ (readDesc (dscb Op.HIF_NOP
      0)).alive = 0) ∧
    (wHeldC.halted = false ∧ wHeldC.mayUseHost = true ∧ wHeldC.io.resumeAt ≤ ceilTo Config.cyclePos (wHeldC.addr + 3)
      ∧ wHeldC.io.heldCpl = [cpl0] ∧ (∀ (k : ℕ), (tget ({} : EvqSt) wHeldC.io.evq k).held = [] ∧ (tget ({} : EvqSt)
      wHeldC.io.evq k).lost = 0) ∧ 2 = wHeldC.rd Reg.HIF_CMD_CPL cpl0.ring ∧ 2 < 16 ∧ wHeldC.rd Reg.HIF_CPL_EN 2 = 1 ∧
      wHeldC.rd Reg.HIF_CPL_VEC_EN 2 ≠ 1) ∧
    (wHeldE.halted = false ∧ wHeldE.evqOpen 31 = true ∧ wHeldE.io.resumeAt ≤ ceilTo Config.cyclePos (wHeldE.addr + 3)
      ∧ wHeldE.io.heldCpl = [] ∧ 31 < 32 ∧ (∀ (k : ℕ), k ≠ 31 → (tget ({} : EvqSt) wHeldE.io.evq k).held = [] ∧ (tget
      ({} : EvqSt) wHeldE.io.evq k).lost = 0) ∧ (tget ({} : EvqSt) wHeldE.io.evq 31).held = [rec0] ∧ (tget ({} :
      EvqSt) wHeldE.io.evq 31).lost = 0 ∧ (tget ({} : EvqSt) wHeldE.io.evq 31).inOver = false ∧ 2 ≤ wHeldE.evqFree
      wHeldE.io 31 ∧ wHeldE.rd Reg.HIF_EVQ_VEC_EN 31 ≠ 1) ∧
    (tfind s7.qmg.dqs 8191 = some dqW ∧ (dqW.words ≠ 0 ∨ dqW.reset = true) ∧ s7.mayUseHost = true ∧ s7.io.resumeAt ≤
      (s7.toBoundary 3 Config.cyclePos).addr ∧ 32 ≤ dqW.evq) ∧
    (tfind s8.qmg.dqs 8191 = some dqE ∧ dqE.words ≠ 0 ∧ s8.mayUseHost = true ∧ s8.io.resumeAt ≤ (s8.toBoundary 3
      Config.cyclePos).addr ∧ dqE.evq < 32 ∧ dqE.toHost = true ∧ dqE.ready = false ∧ max 1 dqE.thr ≤ ahead dqE.host
      dqE.dev) ∧
    ((tget ({} : VecSt) s9.io.vecs 31).count ≠ 0 ∧ s9.rd Reg.HIF_VEC_TIMER 31 = 5 ∧ 0 < 5 ∧ 31 < 32) ∧
    ((tget ({} : VecSt) s10.io.vecs 31).count ≠ 0 ∧ s10.rd Reg.HIF_VEC_TIMER 31 = 5 ∧ 0 < 5 ∧ 31 < 32) ∧
    (7 < 8 ∧ 15 < 16 ∧ wDown.rd Reg.HIF_LINK_UP 0 = 0 ∧ wDown.io.linkWas = false) ∧
    (7 < 8 ∧ 15 < 16 ∧ s1.rdBit Reg.HIF_LINK_UP 0 = true) ∧
    (7 < 8 ∧ 15 < 16 ∧ wWas.rd Reg.HIF_LINK_UP 0 = 0 ∧ wWas.io.linkWas = true ∧ wWas.inReset domHif = false) ∧
    (s12.inReset domHif = false ∧ s12.ovm.moves = []) := by
  and_intros <;> first
    | decide +kernel
    | (intro k; exact ⟨rfl, rfl⟩)
    | (intro k hk; have e : wHeldE.io.evq = [(31, { held := [rec0] })] := rfl
       rw [e]; simp [tget, tfind, Ne.symm hk])

/-- The hypotheses of `Obligations.HostInterfaceCommandsTakeEffect` are met. -/
theorem witness_HostInterfaceCommandsTakeEffect :
    (Admitted s1 3 h0 domHif Op.HIF_NOP) ∧
    (Admitted s13 3 h0 domHif Op.HIF_DQ_BIND ∧ bd.d ≤ 8191 ∧ bd.dir ≤ 1 ∧ 6 ≤ bd.size ∧ bd.size ≤ 16 ∧ bd.base % 4096
      = 0 ∧ (bd.evq ≤ 31 ∨ bd.evq = 255) ∧ s13.queue bd.q = some q0 ∧ tfind s13.qmg.dqs bd.d = none ∧ s13.boundTo bd.q
      = none ∧ (if bd.dir = 0 then q0.reader else q0.writer) = 0) ∧
    (Admitted s13 3 h0 domHif Op.HIF_DQ_BIND ∧ 8191 < bd2.d) ∧
    (Admitted wUn 3 h0 domHif Op.HIF_DQ_UNBIND ∧ wUn.io.unbound ≠ some (8191, (wUn.elapse 3).addr) ∧ tsorted
      wUn.qmg.dqs = true ∧ tfind wUn.qmg.dqs 8191 = some dqU ∧ wUn.queue dqU.q = some qB) ∧
    (Admitted s1 3 h0 domHif Op.HIF_SEV_SET ∧ 1 ≤ 96 ∧ 96 ≤ 96 ∧ 96 ≤ (List.replicate 96 3).length ∧ (∀ v ∈
      List.replicate 96 3, v ≤ 3)) ∧
    (Admitted s1 3 h0 domHif Op.HIF_EVQ_TEST ∧ 31 ≤ 31 ∧ 3 ≤ 3) := by
  and_intros <;> decide +kernel

end HostIfCases

namespace QueueCases

def wQs (l : List (Fld × Nat × Nat)) (x : QSt) : State := let s := wt ([(Reg.SHF_STATE, 0, 1), (Reg.HIF_LINK_UP, 0, 1), (Reg.HIF_EN, 0, 1)] ++ l); { s with qmg := { s.qmg with qs := [(5, x)] }, io := { s.io with busMaster := true } }
def q0 : QSt := {}
def nw (b : List Nat) : QWrite := { bytes := b, wide := false, last := false, abort := false, status := 0, tag := 0 }
def s1 : State := wQs [] q0
def qFull : QSt := { wp := 64, slots := (List.range 64).map (fun k => (k, { data := [k] })), drops := 4294967295 }
def s2 : State := wQs [] qFull
def qHigh : QSt := { isHigh := true, writer := 4, wp := 50 }
def s3 : State := wQs [] qHigh
def qOne : QSt := { wp := 1, slots := [(0, { data := [1, 2] })] }
def s4 : State := wQs [] qOne
def fl (q : Nat) : Ctx := { intent := 1, kind := 0x21, active := true, dest := some 20, rate := 16, place := { queue := q, queues := 1 } }
def wTurn (turn : Nat) : State :=
  let s := wQs [] qOne
  { s with qmg := { s.qmg with qs := [(5, qOne), (6, qOne)] }, ovm := { s.ovm with ctxs := [(8, fl 5), (9, fl 6)] }, map := { s.map with drr := [(20, (turn, []))] } }
def s5 : State := wTurn 6
def s6 : State := wTurn 5
def dq5 : DqSt := { q := 5, toHost := true, size := 6, base := 65536, evq := 255, thr := 4, dev := 4294967295, host := 4294967232 + 1 }
def wBo : State := let s := wQs [] qOne; { s with qmg := { s.qmg with dqs := [(8191, dq5)] } }
def qOpen : QSt := { wp := 1, openAt := some 0, slots := [(0, { data := [1, 2] })] }
def s7 : State := wQs [] qOpen
def qWin : QSt := { window := some (0, 9) }
def s8 : State := wQs [] qWin
def qRes : QSt := { resetting := true }
def s9 : State := wQs [] qRes
def qPkt : QSt := { packet := true, wp := 127, rp := 70 }
def wPk (n : Nat) : QWrite := { bytes := List.replicate n 3, wide := false, last := true, abort := false, status := 7, tag := 65535 }
def s10 : State := wQs [] qPkt
def qc (q k : Nat) : QCreate := { q := q, k := k, mode := 3, hold := true, flush := 0, high := 2 ^ k, low := 2 ^ k - 1 }
def wC (l : List (Fld × Nat × Nat)) : State := wQs ([(Reg.QMG_HOST_BASE, 0, 32768), (Reg.QMG_HOST_HBM, 0, 256)] ++ l) q0
def s11 : State := wC []
def wC2 : State := let s := wC []; { s with qmg := { s.qmg with qs := [(32768, { host := true })] } }
def h1 : HostRef := ⟨3, 7, true, false⟩
def q7 : QSt := { reader := 7, wp := 3, rp := 2, slots := [(0, { data := [1, 2] }), (1, { data := [] }), (2, { data := [4] })], mark := some 1 }
def s12 : State := wQs [] q7
def q7n (b : Bool) : QSt := { reader := 7, markLost := b }
def s13 : State := wQs [] (q7n true)
def s14 : State := wQs [] (q7n false)
def q7p : QSt := { packet := true, reader := 7, wp := 3, rp := 1, slots := [(0, { data := [1, 2], sop := true }), (1, { data := [5] }), (2, { data := [4], eop := true })] }
def s15 : State := wQs [] q7p

/-- The hypotheses of `Obligations.QueueEventsTakeEffect` are met. -/
theorem witness_QueueEventsTakeEffect :
    (s1.queue 5 = some q0 ∧ q0.resetting = false ∧ q0.heldBack = false ∧ s1.boundTo 5 = none ∧ q0.packet = false ∧ (nw
      (List.replicate 16 9)).wide = false ∧ q0.openAt = none ∧ q0.mark = none ∧ q0.depth ≠ q0.size ∧ (nw
      (List.replicate 16 9)).bytes.length < 64) ∧
    (s1.queue 5 = some q0 ∧ q0.resetting = false ∧ q0.heldBack = false ∧ s1.boundTo 5 = none ∧ q0.packet = false ∧ (nw
      []).wide = false ∧ q0.openAt = none ∧ q0.mark = none ∧ q0.depth ≠ q0.size ∧ (nw []).bytes.length < 64) ∧
    (s2.queue 5 = some qFull ∧ qFull.resetting = false ∧ qFull.heldBack = false ∧ s2.boundTo 5 = none ∧ qFull.packet =
      false ∧ (nw [1]).wide = false ∧ qFull.openAt = none ∧ qFull.depth = qFull.size ∧ qFull.window = none) ∧
    (s3.queue 5 = some qHigh ∧ qHigh.heldBack = true) ∧
    (s4.queue 5 = some qOne ∧ qOne.resetting = false ∧ qOne.readable ≠ 0 ∧ s4.boundTo 5 = none ∧ ((s4.elapse
      3).drrServe 5).isSome = true) ∧
    (s5.queue 5 = some qOne ∧ s5.boundTo 5 = none ∧ (s5.elapse 3).drrServe 5 = none) ∧
    (s6.queue 5 = some qOne ∧ qOne.resetting = false ∧ qOne.readable ≠ 0 ∧ s6.boundTo 5 = none ∧ ((s6.elapse
      3).drrServe 5).isSome = true) ∧
    (wBo.queue 5 = some qOne ∧ qOne.resetting = false ∧ qOne.readable ≠ 0 ∧ wBo.boundTo 5 = some (8191, dq5) ∧
      dq5.toHost = true ∧ (wBo.elapse 3).dqCanMove dq5 = true) ∧
    (s7.queue 5 = some qOpen ∧ qOpen.openAt = some 0) ∧
    (s8.queue 5 = some qWin ∧ qWin.window = some (0, 9)) ∧
    (s4.queue 5 = some qOne) ∧
    (s9.queue 5 = some qRes) := by
  and_intros <;> decide +kernel

/-- The hypotheses of `Obligations.ShortPacketIsStoredWhole` are met. -/
theorem witness_ShortPacketIsStoredWhole :
    (s10.queue 5 = some qPkt ∧ qPkt.resetting = false ∧ qPkt.heldBack = false ∧ s10.boundTo 5 = none ∧ qPkt.packet =
      true ∧ qPkt.pkt = none ∧ qPkt.skip = false ∧ qPkt.mark = none ∧ qPkt.depth ≠ qPkt.size ∧ qPkt.wp < qPkt.modulus
      ∧ (wPk 56).wide = false ∧ (wPk 56).abort = false ∧ (wPk 56).last = true ∧ (wPk 56).bytes.length ≤ 56) ∧
    (s10.queue 5 = some qPkt ∧ qPkt.resetting = false ∧ qPkt.heldBack = false ∧ s10.boundTo 5 = none ∧ qPkt.packet =
      true ∧ qPkt.pkt = none ∧ qPkt.skip = false ∧ qPkt.mark = none ∧ qPkt.depth ≠ qPkt.size ∧ qPkt.wp < qPkt.modulus
      ∧ (wPk 0).wide = false ∧ (wPk 0).abort = false ∧ (wPk 0).last = true ∧ (wPk 0).bytes.length ≤ 56) := by
  and_intros <;> decide +kernel

/-- The hypotheses of `Obligations.QueueCommandsTakeEffect` are met. -/
theorem witness_QueueCommandsTakeEffect :
    (Admitted s11 3 h0 domQmg Op.QMG_Q_CREATE ∧ s11.rd Reg.QMG_HOST_BASE 0 ≤ (qc 65487 22).q ∧ (qc 65487 22).q ≤ 65487
      ∧ s11.queue (qc 65487 22).q = none ∧ 8 ≤ (qc 65487 22).k ∧ (qc 65487 22).k ≤ 22 ∧ (qc 65487 22).low < (qc 65487
      22).high ∧ (qc 65487 22).high ≤ 2 ^ (qc 65487 22).k ∧ ((qc 65487 22).mode % 2 = 0 → (qc 65487 22).mode / 2 % 4 =
      0) ∧ s11.hostHbm + 64 * 2 ^ (qc 65487 22).k ≤ s11.rd Reg.QMG_HOST_HBM 0 * 2 ^ 20) ∧
    (Admitted s11 3 h0 domQmg Op.QMG_Q_CREATE ∧ s11.rd Reg.QMG_HOST_BASE 0 ≤ (qc 32768 8).q ∧ (qc 32768 8).q ≤ 65487 ∧
      s11.queue (qc 32768 8).q = none ∧ 8 ≤ (qc 32768 8).k ∧ (qc 32768 8).k ≤ 22 ∧ (qc 32768 8).low < (qc 32768
      8).high ∧ (qc 32768 8).high ≤ 2 ^ (qc 32768 8).k ∧ ((qc 32768 8).mode % 2 = 0 → (qc 32768 8).mode / 2 % 4 = 0) ∧
      s11.hostHbm + 64 * 2 ^ (qc 32768 8).k ≤ s11.rd Reg.QMG_HOST_HBM 0 * 2 ^ 20) ∧
    (Admitted wC2 3 h0 domQmg Op.QMG_Q_CREATE ∧ wC2.rd Reg.QMG_HOST_BASE 0 ≤ (qc 32768 8).q ∧ (qc 32768 8).q ≤ 65487 ∧
      (wC2.queue (qc 32768 8).q).isSome = true) ∧
    (Admitted wC2 3 h0 domQmg Op.QMG_Q_DESTROY ∧ wC2.queue 32768 = some { host := true : QSt } ∧ false = false ∧ true
      = true ∧ wC2.boundTo 32768 = none ∧ tsorted wC2.qmg.qs = true) ∧
    (Admitted wC2 3 h0 domQmg Op.QMG_Q_SET ∧ wC2.queue 32768 = some { host := true : QSt } ∧ false = false ∧ 63 < 64 ∧
      64 ≤ { host := true : QSt }.size ∧ (true = true → true = true)) ∧
    (Admitted s11 3 h0 domQmg Op.QMG_Q_SET ∧ s11.queue 5 = some ({} : QSt) ∧ false = false ∧ 63 < 64 ∧ 64 ≤ ({} :
      QSt).size ∧ (false = true → false = true)) ∧
    (Admitted s11 3 h1 domQmg Op.QMG_Q_READ ∧ s11.queue 5 = some ({} : QSt) ∧ false = false ∧ 4096 % 64 = 0) ∧
    (Admitted s11 3 h1 domQmg Op.QMG_Q_READ ∧ s11.queue 6 = none) ∧
    (Admitted s12 3 h0 domQmg Op.QMG_MARK ∧ s12.queue 5 = some q7 ∧ q7.resetting = false ∧ q7.reader = 7) ∧
    (Admitted s12 3 h0 domQmg Op.QMG_REWIND ∧ s12.queue 5 = some q7 ∧ q7.resetting = false ∧ q7.reader = 7 ∧ q7.mark =
      some 1) ∧
    (Admitted s13 3 h0 domQmg Op.QMG_REWIND ∧ s13.queue 5 = some (q7n true) ∧ (q7n true).resetting = false ∧ (q7n
      true).reader = 7 ∧ (q7n true).mark = none) ∧
    (Admitted s14 3 h0 domQmg Op.QMG_REWIND ∧ s14.queue 5 = some (q7n false) ∧ (q7n false).resetting = false ∧ (q7n
      false).reader = 7 ∧ (q7n false).mark = none) ∧
    (Admitted s15 3 h0 domQmg Op.QMG_DROP_REST ∧ s15.queue 5 = some q7p ∧ q7p.resetting = false ∧ q7p.reader = 7 ∧
      q7p.packet = true ∧ q7p.readable ≠ 0 ∧ (q7p.word q7p.rp).sop = false) ∧
    (Admitted wC2 3 h0 domQmg Op.QMG_Q_RESET ∧ wC2.queue 32768 = some { host := true : QSt } ∧ false = false ∧ true =
      true) := by
  and_intros <;> decide +kernel

end QueueCases

namespace RegisterCases

def wR (l : List (Fld × Nat × Nat)) : State := { wt ([(Reg.SHF_STATE, 0, 1)] ++ l) with addr := 19440 * 100, time := 19440 * 100 }
def s1 : State := wR [(Reg.GLB_ACCESS_BAD_CNT, 0, 4294967295)]
def fAt (off : Nat) : Fld := match wordFields off with | e :: _ => e.1 | [] => Reg.RST_KEY
def s2 : State := wR []
def wLck : State := let s := wR [(Reg.GLB_WTL_CNT, 0, 4294967295)]; { s with regs := { s.regs with locked := [Reg.CIP_PAIR_ID.key 0] } }
def s3 : State := wR [(Reg.RST_REQ, 0, 5)]
def s4 : State := wt []
def wCm (m : Nat) (st : Tab Nat) : State := let s := wR [(Reg.GLB_COMMIT, 0, m)]; { s with regs := { s.regs with staged := st } }
def s5 : State := wCm 32768 [(Reg.QMG_HOST_BASE.key 0, 7)]
def s6 : State := wCm 1048575 [(Reg.QMG_HOST_BASE.key 0, 7)]
def run1 : CommitRun := { mask := 32768, asks := [], staged := [(Reg.QMG_HOST_BASE.key 0, 7)], fail := none, set := false, due := 19440 * 101 }
def wRn (r : CommitRun) : State := let s := wR [(Reg.GLB_COMMIT_BUSY, 0, 32768)]; { s with regs := { s.regs with run := some r } }
def s7 : State := wRn run1
def run2 : CommitRun := { mask := 32768, asks := [], staged := [(Reg.QMG_HOST_BASE.key 0, 7)], fail := some (15, 3, 0x00780004), set := false, due := 19440 * 101 }
def s8 : State := wRn run2
def wDis : State := let s := wR []; { s with regs := { s.regs with staged := [(Reg.QMG_HOST_BASE.key 0, 7)] } }
def s9 : State := wR [(Reg.RLK_GOOD_CNT, 47, 5), (Reg.PRT_LANE_MODE, 47, 8)]
def s10 : State := wR [(Reg.FRM_LANE_B1_CNT, 71, 5), (Reg.PRT_LANE_MODE, 71, 7)]
def s11 : State := wR [(Reg.RST_ACTIVE, 0, 512), (Reg.QMG_HOST_HBM, 0, 5)]

/-- The hypotheses of `Obligations.RegisterWritesTakeEffect` are met. -/
theorem witness_RegisterWritesTakeEffect :
    (s1.inReset 0 = false ∧ outsideMap (10485759 / 4 * 4) = false ∧ 14 % 16 ≠ 15) ∧
    (s2.inReset 0 = false ∧ 1572868 % 4 = 0 ∧ outsideMap 1572868 = false ∧ activeView 1572868 = false ∧ 1572868 /
      524288 ∈ [3, 6, 7, 8, 9, 10, 11, 12, 13, 15, 16, 17, 18] ∧ wordFields 1572868 = [(fAt 1572868, 0)] ∧ s2.inReset
      ((fAt 1572868).domain 0) = false ∧ s2.gasping = false) ∧
    (s2.inReset 0 = false ∧ 1572900 % 4 = 0 ∧ outsideMap 1572900 = false ∧ activeView 1572900 = false ∧ 1572900 /
      524288 ∈ [3, 6, 7, 8, 9, 10, 11, 12, 13, 15, 16, 17, 18] ∧ wordFields 1572900 = [(fAt 1572900, 0)] ∧ s2.inReset
      ((fAt 1572900).domain 0) = false ∧ s2.gasping = false) ∧
    (s2.inReset 0 = false ∧ 1572908 % 4 = 0 ∧ outsideMap 1572908 = false ∧ activeView 1572908 = false ∧ 1572908 /
      524288 ∈ [3, 6, 7, 8, 9, 10, 11, 12, 13, 15, 16, 17, 18] ∧ wordFields 1572908 = [(fAt 1572908, 0)] ∧ s2.inReset
      ((fAt 1572908).domain 0) = false ∧ s2.gasping = false) ∧
    (s2.inReset 0 = false ∧ 3149824 % 4 = 0 ∧ outsideMap 3149824 = false ∧ activeView 3149824 = false ∧ 3149824 /
      524288 ∈ [3, 6, 7, 8, 9, 10, 11, 12, 13, 15, 16, 17, 18] ∧ wordFields 3149824 = [(fAt 3149824, 0)] ∧ s2.inReset
      ((fAt 3149824).domain 0) = false ∧ s2.gasping = false) ∧
    (s2.inReset 0 = false ∧ 5767168 % 4 = 0 ∧ outsideMap 5767168 = false ∧ activeView 5767168 = false ∧ 5767168 /
      524288 ∈ [3, 6, 7, 8, 9, 10, 11, 12, 13, 15, 16, 17, 18] ∧ wordFields 5767168 = [(fAt 5767168, 0)] ∧ s2.inReset
      ((fAt 5767168).domain 0) = false ∧ s2.gasping = false) ∧
    (wLck.inReset 0 = false ∧ 5767168 % 4 = 0 ∧ outsideMap 5767168 = false ∧ activeView 5767168 = false ∧ 5767168 /
      524288 ∈ [3, 6, 7, 8, 9, 10, 11, 12, 13, 15, 16, 17, 18] ∧ wordFields 5767168 = [(fAt 5767168, 0)] ∧
      wLck.inReset ((fAt 5767168).domain 0) = false ∧ wLck.gasping = false) ∧
    (s2.inReset 0 = false ∧ (fAt 1572948, [fAt 1572952, fAt 1572956]) ∈ shadowPairs ∧ s2.inReset ((fAt 1572948).domain
      0) = false) ∧
    (s2.inReset 0 = false ∧ s2.halted = false ∧ List.find? (fun e => e.1.tri) (wordFields 524292) = some (fAt 524292,
      0)) ∧
    (s3.inReset 0 = false ∧ s3.halted = false) ∧
    (s2.inReset 0 = false ∧ s2.inReset (Reg.QMG_HOST_BASE.domain 0) = false ∧ Reg.QMG_HOST_BASE.shadowed = false ∧
      Reg.QMG_HOST_BASE.kind = FKind.cmt) ∧
    (s9.inReset 0 = false ∧ Reg.RLK_GOOD_CNT ∈ Reg.ofBlock 6 ∧ (Reg.RLK_GOOD_CNT.kind = FKind.sts ∨
      Reg.RLK_GOOD_CNT.kind = FKind.cnt) ∧ Reg.RLK_GOOD_CNT.count = 48 ∧ 47 < 48 ∧ s9.rd Reg.PRT_LANE_MODE 47 ≠ 9 ∧
      s9.rd Reg.PRT_LANE_MODE 47 ≠ 10) ∧
    (s10.inReset 0 = false ∧ Reg.FRM_LANE_B1_CNT ∈ Reg.ofBlock 7 ∧ (Reg.FRM_LANE_B1_CNT.kind = FKind.sts ∨
      Reg.FRM_LANE_B1_CNT.kind = FKind.cnt) ∧ Reg.FRM_LANE_B1_CNT.count = 72 ∧ 71 < 72 ∧ modeStm (s10.rd
      Reg.PRT_LANE_MODE 71) = false ∧ modeOtu (s10.rd Reg.PRT_LANE_MODE 71) = false) ∧
    (s11.inReset 0 = false ∧ s11.inReset (Reg.QMG_HOST_HBM.domain 0) = true ∧ Reg.QMG_HOST_HBM ≠ Reg.GLB_ID) := by
  and_intros <;> decide +kernel

/-- The hypotheses of `Obligations.CommitsTakeEffect` are met. -/
theorem witness_CommitsTakeEffect :
    (1048575 < 2 ^ 20 ∧ s2.inReset 0 = false ∧ s2.halted = false) ∧
    (524288 < 2 ^ 20 ∧ 524288 ≠ 0 ∧ s4.inReset 0 = false ∧ s4.halted = true) ∧
    (1048575 < 2 ^ 20 ∧ Admitted s2 3 h0 0 Op.REG_COMMIT ∧ s2.halted = false) ∧
    (2 ^ 20 ≤ 1048576 ∧ Admitted s2 3 h0 0 Op.REG_COMMIT) ∧
    (s5.inReset 0 = false ∧ s5.halted = false ∧ s5.rd Reg.GLB_COMMIT 0 = 32768 ∧ 32768 ≠ 0 ∧ 32768 < 2 ^ 20 ∧
      s5.regs.run = none ∧ s5.regs.asks = [] ∧ s5.regs.setAsk = false ∧ s5.regs.askedAt.1 ≠ (s5.toBoundary 3
      Config.cyclePos).time ∧ s5.regs.doneAt.1 ≠ (s5.toBoundary 3 Config.cyclePos).addr) ∧
    (s6.inReset 0 = false ∧ s6.halted = false ∧ s6.rd Reg.GLB_COMMIT 0 = 1048575 ∧ 1048575 ≠ 0 ∧ 1048575 < 2 ^ 20 ∧
      s6.regs.run = none ∧ s6.regs.asks = [] ∧ s6.regs.setAsk = false ∧ s6.regs.askedAt.1 ≠ (s6.toBoundary 3
      Config.cyclePos).time ∧ s6.regs.doneAt.1 ≠ (s6.toBoundary 3 Config.cyclePos).addr) ∧
    (s7.halted = false ∧ s7.regs.run = some run1 ∧ run1.set = false ∧ run1.asks = [] ∧ run1.mask = 2 ^ 15 ∧ run1.fail
      = none ∧ s7.gasping = false ∧ s7.rd Reg.GLB_DISCARD 0 = 0 ∧ s7.regs.discards = []) ∧
    (s8.halted = false ∧ s8.regs.run = some run2 ∧ run2.set = false ∧ run2.asks = [] ∧ run2.fail = some (15, 3,
      7864324) ∧ s8.rd Reg.GLB_DISCARD 0 = 0 ∧ s8.regs.discards = []) ∧
    (32768 < 2 ^ 20 ∧ 32768 ≠ 0 ∧ wDis.inReset 0 = false ∧ wDis.halted = false ∧ wDis.rd Reg.GLB_COMMIT_BUSY 0 = 0 ∧
      wDis.regs.discards = []) ∧
    (32768 < 2 ^ 20 ∧ Admitted wDis 3 h0 0 Op.REG_DISCARD ∧ wDis.halted = false ∧ wDis.rd Reg.GLB_COMMIT_BUSY 0 = 0 ∧
      wDis.rd Reg.GLB_DISCARD 0 = 0 ∧ wDis.regs.discards = []) ∧
    (0 < 2 ^ 20 ∧ Admitted wDis 3 h0 0 Op.REG_DISCARD ∧ wDis.halted = false ∧ wDis.rd Reg.GLB_COMMIT_BUSY 0 = 0 ∧
      wDis.rd Reg.GLB_DISCARD 0 = 0 ∧ wDis.regs.discards = []) := by
  and_intros <;> decide +kernel

end RegisterCases

namespace ResetCases

def wR (l : List (Fld × Nat × Nat)) : State := { wt ([(Reg.SHF_STATE, 0, 1)] ++ l) with addr := 19440 * 100, time := 19440 * 100 }
def wFull : State := { wR [(Reg.SEC_SVN_OTP, 0, 3), (Reg.SEC_LIFECYCLE, 0, 2), (Reg.SEC_DEBUG, 0, 2), (Reg.RST_KEY, 0, 0xC0DE)] with cip := { slots := [(2, {})] } }
def s1 : State := outNext (exec (.railUndervoltage 4) wFull)
def s2 : State := outNext (exec (.porstNLow 4) wFull)
def s3 : State := outNext (exec (.rstReq 4 8191) wFull)
def s4 : State := wR [(Reg.RST_KEY, 0, 0xC0DE), (Reg.RST_GEN, 1, 65535)]
def s5 : State := wR [(Reg.RST_KEY, 0, 0xC0DD)]
def s6 : State := wR [(Reg.RST_KEY, 0, 0xC0DE)]
def s7 : State := wR [(Reg.RST_ACTIVE, 0, 4098)]
def s8 : State := wR [(Reg.RST_ACTIVE, 0, 8190)]
def s9 : State := wR [(Reg.RST_HEWER_ACTIVE_HI, 0, 2147483648)]
def wOrd : State := let s := wR [(Reg.RST_ACTIVE, 0, 10)]; { s with sys := { s.sys with starting := true } }
def bi (src : Bool) : BootIn := { bootSrc := src, pairEn := true, unitId := true, trngOk := true, stored := true, nor := none, suspect := [], moved := none }
def wHeld : State := wt [(Reg.CIP_EPOCH_RESV, 0, 65535)]
def s10 : State := wR []

/-- The hypotheses of `Obligations.ChipResetsTakeEffect` are met. -/
theorem witness_ChipResetsTakeEffect :
    (((exec (Instr.railUndervoltage 4) wFull = Host.Outcome.next s1 ∨ exec (Instr.porstNLow 4) wFull =
      Host.Outcome.next s1) ∧ 0 = 0 ∨ ∃ value, wFull.inReset 0 = false ∧ bitOf (wFull.rd Reg.RST_ACTIVE 0) 0 = false ∧
      wFull.rd Reg.RST_KEY 0 = 49374 ∧ bitOf value 0 = true ∧ exec (Instr.rstReq 4 value) wFull = Host.Outcome.next s1
      ∧ 0 = 1)) ∧
    (((exec (Instr.railUndervoltage 4) wFull = Host.Outcome.next s2 ∨ exec (Instr.porstNLow 4) wFull =
      Host.Outcome.next s2) ∧ 0 = 0 ∨ ∃ value, wFull.inReset 0 = false ∧ bitOf (wFull.rd Reg.RST_ACTIVE 0) 0 = false ∧
      wFull.rd Reg.RST_KEY 0 = 49374 ∧ bitOf value 0 = true ∧ exec (Instr.rstReq 4 value) wFull = Host.Outcome.next s2
      ∧ 0 = 1)) ∧
    (((exec (Instr.railUndervoltage 4) wFull = Host.Outcome.next s3 ∨ exec (Instr.porstNLow 4) wFull =
      Host.Outcome.next s3) ∧ 1 = 0 ∨ ∃ value, wFull.inReset 0 = false ∧ bitOf (wFull.rd Reg.RST_ACTIVE 0) 0 = false ∧
      wFull.rd Reg.RST_KEY 0 = 49374 ∧ bitOf value 0 = true ∧ exec (Instr.rstReq 4 value) wFull = Host.Outcome.next s3
      ∧ 1 = 1)) := by
  exact ⟨.inl ⟨.inl rfl, rfl⟩, .inl ⟨.inr rfl, rfl⟩,
    .inr ⟨8191, by decide +kernel, by decide +kernel, by decide +kernel, by decide +kernel, rfl, rfl⟩⟩

/-- The hypotheses of `Obligations.ResetCommandsTakeEffect` are met. -/
theorem witness_ResetCommandsTakeEffect :
    (1 ≤ 1 ∧ 1 ≤ 12 ∧ bitOf (s4.rd Reg.RST_ACTIVE 0) 0 = false ∧ s4.rd Reg.RST_KEY 0 = 49374 ∧ s4.inReset 1 = false ∧
      s4.paired = false ∧ s4.ovm.moves = []) ∧
    (1 ≤ 12 ∧ 12 ≤ 12 ∧ bitOf (s4.rd Reg.RST_ACTIVE 0) 0 = false ∧ s4.rd Reg.RST_KEY 0 = 49374 ∧ s4.inReset 12 = false
      ∧ s4.paired = false ∧ s4.ovm.moves = []) ∧
    (1 ≤ 2 ∧ 2 ≤ 12 ∧ bitOf (s4.rd Reg.RST_ACTIVE 0) 0 = false ∧ s4.rd Reg.RST_KEY 0 = 49374 ∧ s4.inReset 2 = false ∧
      s4.paired = false ∧ s4.ovm.moves = []) ∧
    (8191 < 2 ^ 13 ∧ 8191 ≠ 0 ∧ bitOf (s5.rd Reg.RST_ACTIVE 0) 0 = false ∧ s5.rd Reg.RST_KEY 0 ≠ 49374) ∧
    (2 < 3 ∧ 31 < 32 ∧ 95 = 32 * 2 + 31 ∧ bitOf (s6.rd Reg.RST_ACTIVE 0) 0 = false ∧ s6.rd Reg.RST_KEY 0 = 49374 ∧
      s6.hewerReset 95 = false ∧ s6.ovm.moves = []) ∧
    (0 < 3 ∧ 0 < 32 ∧ 0 = 32 * 0 + 0 ∧ bitOf (s6.rd Reg.RST_ACTIVE 0) 0 = false ∧ s6.rd Reg.RST_KEY 0 = 49374 ∧
      s6.hewerReset 0 = false ∧ s6.ovm.moves = []) ∧
    (1 ≤ 1 ∧ 1 ≤ 12 ∧ bitOf (s7.rd Reg.RST_ACTIVE 0) 0 = false ∧ bitOf (s7.rd Reg.RST_ACTIVE 0) 1 = true ∧
      s7.sys.bootMode = false ∧ bitOf (s7.rd Reg.RST_REQ 0) 1 = false ∧ s7.startsInOrder 1 = true) ∧
    (1 ≤ 12 ∧ 12 ≤ 12 ∧ bitOf (s7.rd Reg.RST_ACTIVE 0) 0 = false ∧ bitOf (s7.rd Reg.RST_ACTIVE 0) 12 = true ∧
      s7.sys.bootMode = false ∧ bitOf (s7.rd Reg.RST_REQ 0) 12 = false ∧ s7.startsInOrder 12 = true) ∧
    (1 ≤ 2 ∧ 2 ≤ 12 ∧ bitOf (s8.rd Reg.RST_ACTIVE 0) 0 = false ∧ bitOf (s8.rd Reg.RST_ACTIVE 0) 2 = true ∧
      s8.sys.bootMode = false ∧ bitOf (s8.rd Reg.RST_REQ 0) 2 = false ∧ s8.startsInOrder 2 = true) ∧
    (95 ≤ 95 ∧ bitOf (s9.rd Reg.RST_ACTIVE 0) 0 = false ∧ s9.sys.bootMode = false ∧ s9.hewerReset 95 = true ∧
      s9.startsInOrder (32768 + 95) = true ∧ bitOf (s9.rd (hewerFld Reg.RST_HEWER_REQ_LO Reg.RST_HEWER_REQ_MID
      Reg.RST_HEWER_REQ_HI 95) 0) (95 % 32) = false) ∧
    (wOrd.startsInOrder 3 = false) ∧
    (wHeld.sys.held = true ∧ (bi true).moved = none ∧ (bi true).trngOk = true) ∧
    (wHeld.sys.held = true ∧ (bi false).moved = none ∧ (bi false).trngOk = true) := by
  and_intros <;> decide +kernel

end ResetCases

namespace AssayCases

def wA (l : List (Fld × Nat × Nat)) (a : AsySt) : State := { wt ([(Reg.SHF_STATE, 0, 1), (Reg.ASY_STATE, 0, 1), (Reg.ASY_EN, 0, 15)] ++ l) with addr := 19440 * 100 + 5, time := 19440 * 100 + 5, asy := a }
def gr : Granule := { unit := 3, index := 65535, kind := 4, num := 4, written := false, word := 0, stored := crc32c [1, 2], dataA := [1, 2], dataB := [1, 2], memErr := false, last := false }
def grW : Granule := { gr with written := true }
def s1 : State := wA [] { passes := [(3, { attempts := 1 })] }
def s2 : State := wA [(Reg.ASY_SKIP_CNT, 3, 4294967295)] { passes := [(3, { attempts := 2 })] }
def s3 : State := wA [] {}
def grL : Granule := { gr with last := true }
def s4 : State := wA [(Reg.ASY_PASS_LATE, 3, 1)] {}
def grM : Granule := { gr with unit := 0, kind := 0, word := 1, dataA := [3], dataB := [4] }
def grR : Granule := { gr with word := 2, dataA := [3], dataB := [3] }
def s5 : State := wA [(Reg.ASY_POS, 3, 99)] {}
def wSt : State := let s := wA [(Reg.ASY_STATE, 0, 0)] {}; { s with sys := { s.sys with configured := true } }
def cl : CfgLoad := { source := 3, host := some h0, store := false }
def wLd : State := let s := wA [] {}; { s with sys := { s.sys with loading := some cl } }
def xu (a : Nat) (ok : Bool) : List Nat := let b := xferBytes a 1 [9, 8, 7]; if ok then b else b.set 9 0
def wLd2 (a : Nat) : State := { wLd with asy := { xfers := [(2, { typ := 1, units := 4, alive := a })] } }
def s6 : State := wLd2 255
def s7 : State := wLd2 254
def s8 : State := wLd2 7
def s9 : State := wA [(Reg.ASY_POS, 3, 9), (Reg.ASY_EN, 0, 8)] {}
def s10 : State := wA [(Reg.ASY_POS, 3, 9)] {}
def s11 : State := wA [(Reg.ASY_STATE, 0, 0)] {}
def h1 : HostRef := ⟨3, 7, true, false⟩
def xl (a : Nat) (l : List Nat) : List Nat := xferBytes a 3 l

/-- The hypotheses of `Obligations.AssayCommandsTakeEffect` are met. -/
theorem witness_AssayCommandsTakeEffect :
    (s1.compares grW.unit = true ∧ guardUnit grW.kind = grW.unit ∧ (s1.pass grW.unit).next ≤ grW.index ∧ grW.written =
      true ∧ (s1.pass grW.unit).attempts < 2) ∧
    (s2.compares grW.unit = true ∧ guardUnit grW.kind = grW.unit ∧ (s2.pass grW.unit).next ≤ grW.index ∧ grW.written =
      true ∧ (s2.pass grW.unit).attempts = 2 ∧ grW.last = false) ∧
    (s3.compares gr.unit = true ∧ guardUnit gr.kind = gr.unit ∧ (s3.pass gr.unit).next ≤ gr.index ∧ gr.written = false
      ∧ gr.memErr = false ∧ gr.word = 0 ∧ sumA gr = gr.stored ∧ s3.perturbed 4 = false ∧ gr.last = false) ∧
    (s4.compares grL.unit = true ∧ guardUnit grL.kind = grL.unit ∧ (s4.pass grL.unit).next ≤ grL.index ∧ grL.written =
      false ∧ grL.memErr = false ∧ grL.word = 0 ∧ sumA grL = grL.stored ∧ s4.perturbed 4 = false ∧ grL.last = true ∧
      s4.asy.checks = []) ∧
    (s3.compares grM.unit = true ∧ guardUnit grM.kind = grM.unit ∧ (s3.pass grM.unit).next ≤ grM.index ∧ grM.written =
      false ∧ grM.memErr = false ∧ grM.word ≤ 1 ∧ sumA grM ≠ grM.stored ∧ sumB grM ≠ grM.stored ∧ grM.kind = 0 ∧
      grM.last = false) ∧
    (s3.compares grR.unit = true ∧ guardUnit grR.kind = grR.unit ∧ (s3.pass grR.unit).next ≤ grR.index ∧ grR.written =
      false ∧ grR.memErr = false ∧ 2 ≤ grR.word ∧ sumA grR = sumB grR ∧ grR.last = false) ∧
    (s5.compares 3 = true ∧ s5.rdBit Reg.ASY_PASS_LATE 3 = false) ∧
    (wSt.sys.configured = true ∧ wSt.halted = false ∧ wSt.rd Reg.ASY_STATE 0 = 0) ∧
    (wLd.transferOpen 2 = true ∧ (tget ({} : XferSt) wLd.asy.xfers 2).refused = none ∧ (tget ({} : XferSt)
      wLd.asy.xfers 2).reason (unitType 2) (readXfer (xu 1 true)) = none ∧ wLd.perturbed 4 = false) ∧
    (s6.transferOpen 2 = true ∧ (tget ({} : XferSt) s6.asy.xfers 2).refused = none ∧ (tget ({} : XferSt) s6.asy.xfers
      2).reason (unitType 2) (readXfer (xu 1 true)) = none ∧ s6.perturbed 4 = false) ∧
    (s7.transferOpen 2 = true ∧ (tget ({} : XferSt) s7.asy.xfers 2).refused = none ∧ (tget ({} : XferSt) s7.asy.xfers
      2).reason (unitType 2) (readXfer (xu 255 true)) = none ∧ s7.perturbed 4 = false) ∧
    (s8.transferOpen 2 = true ∧ (tget ({} : XferSt) s8.asy.xfers 2).refused = none ∧ (tget ({} : XferSt) s8.asy.xfers
      2).reason (unitType 2) (readXfer (xu 7 true)) = some 4) ∧
    (s8.transferOpen 2 = true ∧ (tget ({} : XferSt) s8.asy.xfers 2).refused = none ∧ (tget ({} : XferSt) s8.asy.xfers
      2).reason (unitType 2) (readXfer (xu 9 true)) = some 5) ∧
    (s8.transferOpen 2 = true ∧ (tget ({} : XferSt) s8.asy.xfers 2).refused = none ∧ (tget ({} : XferSt) s8.asy.xfers
      2).reason (unitType 2) (readXfer (xu 8 false)) = some 3) ∧
    (Admitted s9 3 h0 0 Op.ASY_CHECK ∧ 63 < 64 ∧ s9.rd Reg.ASY_STATE 0 = 1 ∧ [3] = List.filter (fun u => bitOf 63 u &&
      s9.compares u) (List.range 4) ∧ [3] ≠ []) ∧
    (Admitted s10 3 h0 0 Op.ASY_CHECK ∧ 63 < 64 ∧ s10.rd Reg.ASY_STATE 0 = 1 ∧ [0, 1, 2, 3] = List.filter (fun u =>
      bitOf 63 u && s10.compares u) (List.range 4) ∧ [0, 1, 2, 3] ≠ []) ∧
    (Admitted s11 3 h0 0 Op.ASY_CHECK ∧ 63 < 64 ∧ s11.rd Reg.ASY_STATE 0 ≠ 1) ∧
    (Admitted s3 3 h1 0 Op.ASY_LOOPBACK ∧ 64 % 64 = 0 ∧ 128 % 64 = 0 ∧ 3 ≠ 0 ∧ ({} : XferSt).reason (unitType 5)
      (readXfer (xl 1 [5, 6, 7])) = none ∧ ({} : XferSt).reason (unitType 5) (readXfer (xl 1 [5, 6, 7])) = none ∧
      s3.perturbed 4 = false) ∧
    (Admitted s3 3 h1 0 Op.ASY_LOOPBACK ∧ 64 % 64 = 0 ∧ 128 % 64 = 0 ∧ 3 ≠ 0 ∧ ({} : XferSt).reason (unitType 5)
      (readXfer (xl 2 [5, 6, 7])) = some 5) := by
  and_intros <;> decide +kernel

end AssayCases

namespace SecurityCases

def wS (l : List (Fld × Nat × Nat)) (x : SecSt) : State := { wt ([(Reg.SHF_STATE, 0, 1)] ++ l) with time := 100, addr := 100, sec := x }
def s1 : State := wS [(Reg.SEC_TRNG_OK, 0, 1)] {}
def s2 : State := wS [] { failing := [1] }
def h1 : HostRef := ⟨3, 7, true, false⟩
def s3 : State := wS [(Reg.SEC_NONCE_VALID, 0, 1), (Reg.SEC_NONCE, 7, 5)] { nonceAt := 50 }
def s4 : State := wS [(Reg.SEC_LIFECYCLE, 0, 3)] {}
def envB (op slot : Nat) : List Nat := [0x45, 0x4B, 0x4F, 0x50] ++ leBytes 2 op ++ [slot, 1] ++ List.replicate 184 0
def s5 : State := wS [(Reg.SEC_LIFECYCLE, 0, 0), (Reg.SEC_NONCE_VALID, 0, 1)] {}
def s6 : State := wS [(Reg.SEC_LIFECYCLE, 0, 2), (Reg.SEC_NONCE_VALID, 0, 1), (Reg.SEC_OPKEY_SLOT, 0, 2)] {}
def s7 : State := wS [(Reg.SEC_LIFECYCLE, 0, 3), (Reg.SEC_NONCE_VALID, 0, 1)] {}
def s8 : State := wS [(Reg.SEC_SVN_RUN, 0, 63), (Reg.SEC_SVN_OTP, 0, 62)] {}
def s9 : State := wS [] { staging := some h1 }
def s10 : State := wS [] {}
def s11 : State := wS [(Reg.SEC_BOOT_SLOT, 0, 1)] { staging := some h0 }
def s12 : State := wS [(Reg.SEC_LIFECYCLE, 0, 2), (Reg.SEC_NONCE_VALID, 0, 1), (Reg.SEC_OPKEY_SLOT, 0, 0)] {}
def s13 : State := wS [(Reg.SEC_DEBUG, 0, 2)] {}
def s14 : State := wS [(Reg.SEC_DEBUG, 0, 1)] { closeAt := 50 }

/-- The hypotheses of `Obligations.SecurityCommandsTakeEffect` are met. -/
theorem witness_SecurityCommandsTakeEffect :
    (s1.sec.failing.contains 1 = false) ∧
    (s2.sec.failing = [1]) ∧
    (Admitted s1 3 h1 0 Op.SEC_CHALLENGE ∧ 64 % 64 = 0 ∧ s1.rdBit Reg.SEC_TRNG_OK 0 = true) ∧
    (s3.rdBit Reg.SEC_NONCE_VALID 0 = true) ∧
    (Admitted s1 3 h1 0 Op.SEC_ATTEST ∧ 64 % 64 = 0 ∧ s1.rd Reg.SEC_LIFECYCLE 0 ≠ 3 ∧ s1.rdBit Reg.SEC_TRNG_OK 0 =
      true) ∧
    (Admitted s4 3 h1 0 Op.SEC_ATTEST ∧ 64 % 64 = 0 ∧ s4.rd Reg.SEC_LIFECYCLE 0 = 3) ∧
    (Admitted s4 3 h1 0 Op.SEC_CERT_READ) ∧
    (Admitted s5 3 h0 0 Op.SEC_LIFECYCLE ∧ s5.rd Reg.SEC_LIFECYCLE 0 = 0) ∧
    (Admitted s4 3 h0 0 Op.SEC_LIFECYCLE ∧ s4.rd Reg.SEC_LIFECYCLE 0 = 3) ∧
    (Admitted s6 3 h0 0 Op.SEC_OPKEY_ROTATE ∧ s6.operatorState = true ∧ s6.rd Reg.SEC_OPKEY_SLOT 0 < 3) ∧
    (Admitted s7 3 h0 0 Op.SEC_OPKEY_ROTATE ∧ s7.operatorState = false) ∧
    (Admitted s8 3 h0 0 Op.SEC_SVN_COMMIT ∧ s8.sec.staging = none ∧ s8.sec.run = none ∧ s8.otherBoots = false ∧ s8.rd
      Reg.SEC_SVN_OTP 0 < s8.rd Reg.SEC_SVN_RUN 0 ∧ s8.rd Reg.SEC_SVN_RUN 0 < 64) ∧
    (Admitted s9 3 h0 0 Op.SEC_SVN_COMMIT ∧ s9.sec.staging.isSome = true) ∧
    (Admitted s10 3 h0 0 Op.SEC_IMAGE_STAGE ∧ 65536 ≠ 0 ∧ s10.sec.staging = none ∧ tsorted s10.asy.xfers = true) ∧
    (s11.sec.staging = some h0 ∧ s11.sec.svnWaits = [] ∧ ({} : XferSt) = tget ({} : XferSt) s11.asy.xfers 3 ∧ 1 =
      s11.imageStatus false [] ∧ tsorted s11.sec.imgs = true) ∧
    (Admitted s12 3 h0 0 Op.SEC_DEBUG_UNLOCK ∧ s12.operatorState = true) ∧
    (Admitted s13 3 h0 0 Op.SEC_DEBUG_LOCK ∧ s13.rd Reg.SEC_DEBUG 0 ≠ 0) ∧
    (s14.rd Reg.SEC_DEBUG 0 ≠ 0) := by
  and_intros <;> decide +kernel

end SecurityCases

namespace StartupCases

def wU (l : List (Fld × Nat × Nat)) (x : SysSt) : State := { wt ([(Reg.SHF_STATE, 0, 1)] ++ l) with time := 100, addr := 100, sys := x }
def st0 (fatal : Bool) : SelfTest := { rowSlices := [3], rowHewers := [95], rowOther := 1, hbmFailed := false, hbmBad := [2], hewers := [0], pipes := [23], lanes := [79], trngOk := false, fatal := fatal }
def s1 : State := wU [] { starting := true }
def ld : CfgLoad := { source := 3, host := some h0, store := true }
def recs0 : List (Nat × Nat) := [(0x00780004, 7)]
def setB (r : List (Nat × Nat)) (serial mask crc : Nat) : List Nat := let h := [0x45, 0x4B, 0x43, 0x46, 1, 0, 0, 0] ++ leBytes 4 (State.reset.rd Reg.GLB_ID 0) ++ leBytes 4 serial ++ leBytes 4 r.length ++ leBytes 4 mask ++ leBytes 4 crc ++ List.replicate 32 0; h ++ leBytes 4 (crc32c h) ++ r.flatMap (fun e => leBytes 4 e.1 ++ leBytes 4 e.2)
def wLoadOf (b : List Nat) : State := { wU [] { loading := some ld } with asy := { xfers := [(2, { typ := 1, units := 1, alive := 1, data := b })] } }
def wLoad : State := wLoadOf (setB recs0 5 32768 (setCrc recs0))
def fQ : Fld := match wordFields 3149824 with | e :: _ => e.1 | [] => Reg.RST_KEY
def recs1 : List (Nat × Nat) := [(fQ.base, 1)]
def wLoad1 : State := wLoadOf (setB recs1 5 64 (setCrc recs1))
def wLoadBad : State := wLoadOf (setB recs0 5 32768 0)
def csOne : ConfigSet := readSet (setB recs0 77 32768 (setCrc recs0))
def wSto : State := wU [] { storing := some csOne, storeHost := some h0, nor := [(0, [1, 2])] }
def s2 : State := wU [] {}
def wCon : State := wU [] { configured := true, serial := 5, cfgCrc := 6, source := 2, loading := some ld }
def s3 : State := wU [] { bootMode := true }
def h1 : HostRef := ⟨3, 7, true, false⟩
def s4 : State := wU [] { tested := some (st0 false) }

/-- The hypotheses of `Obligations.StartupCommandsTakeEffect` are met. -/
theorem witness_StartupCommandsTakeEffect :
    (s1.sys.starting = true ∧ s1.sys.bootMode = false ∧ s1.sys.tested = none ∧ s1.paired = false) ∧
    (wLoad.sys.loading = some ld ∧ ld.set = none ∧ (tget ({} : XferSt) wLoad.asy.xfers 2).units ≠ 0 ∧ (tget ({} :
      XferSt) wLoad.asy.xfers 2).refused = none ∧ wLoad.setReason (wLoad.arrived ld) = none ∧ wLoad.halted = false) ∧
    (wLoad1.sys.loading = some ld ∧ ld.set = none ∧ (tget ({} : XferSt) wLoad1.asy.xfers 2).units ≠ 0 ∧ (tget ({} :
      XferSt) wLoad1.asy.xfers 2).refused = none ∧ wLoad1.setReason (wLoad1.arrived ld) = none ∧ wLoad1.halted = false
      ∧ tsorted wLoad1.regs.staged = true ∧ (wLoad1.arrived ld).recs = [(fQ.base + fQ.stride * 0, 1)] ∧ wordFields
      (fQ.base + fQ.stride * 0) = [(fQ, 0)] ∧ fQ.kind = FKind.cmt ∧ (fQ.base + fQ.stride * 0) % 4 = 0) ∧
    (wLoadBad.sys.loading = some ld ∧ ld.host = some h0 ∧ ld.set = none ∧ (tget ({} : XferSt) wLoadBad.asy.xfers
      2).units ≠ 0 ∧ (tget ({} : XferSt) wLoadBad.asy.xfers 2).refused = none ∧ wLoadBad.setReason (wLoadBad.arrived
      ld) = some 19 ∧ 19 ≠ 17) ∧
    (wSto.sys.storing = some csOne) ∧
    (wSto.sys.storing = some csOne ∧ wSto.sys.storeHost = some h0) ∧
    (Admitted s2 3 h0 0 Op.CFG_LOAD ∧ 64 % 64 = 0 ∧ 1 ≠ 0 ∧ s2.sys.loading = none ∧ s2.gasping = false ∧ tsorted
      s2.asy.xfers = true) ∧
    (Admitted wLoad 3 h0 0 Op.CFG_LOAD ∧ 64 % 64 = 0 ∧ 1 ≠ 0 ∧ wLoad.sys.loading.isSome = true) ∧
    (Admitted wCon 3 h0 0 Op.CFG_STATUS ∧ wCon.sys.configured = true) ∧
    (Admitted s3 3 h0 0 Op.BOOT_LOAD ∧ 64 % 64 = 0 ∧ 65536 ≠ 0 ∧ s3.sys.bootMode = true ∧ ((wU [] { bootMode := true :
      SysSt }).elapse 3).stripAll 3 [xferBytes 1 2 [9, 8]] = (s3.elapse 3).stripAll 3 [xferBytes 1 2 [9, 8]]) ∧
    (Admitted s2 3 h0 0 Op.BOOT_LOAD ∧ 64 % 64 = 0 ∧ 65536 ≠ 0 ∧ s2.sys.bootMode = false) ∧
    (Admitted s4 3 h1 0 Op.SELFTEST_READ ∧ s4.sys.tested = some (st0 false)) := by
  and_intros <;> decide +kernel

end StartupCases

namespace BackgroundCases

def wB (l : List (Fld × Nat × Nat)) (x : BkgSt) : State := { wt ([(Reg.SHF_STATE, 0, 1)] ++ l) with time := 19440 * 100 + 5, addr := 19440 * 100 + 5, bkg := x }
def se (u : Bool) (k : Nat) : SramError := { addr := 4294967295, row := 65535, group := 3, scrub := true, written := false, error := true, uncorr := u, kind := k, num := 4 }
def seF : SramError := { addr := 4294967295, row := 65535, group := 3, scrub := false, written := true, error := true, uncorr := false, kind := 9, num := 4 }
def seC : SramError := { addr := 4294967295, row := 65535, group := 3, scrub := true, written := false, error := false, uncorr := false, kind := 9, num := 4 }
def seW : SramError := { addr := 4294967295, row := 65535, group := 3, scrub := true, written := true, error := true, uncorr := false, kind := 9, num := 4 }
def s1 : State := wB [(Reg.BKG_SRAM_CORR_CNT, 0, 4294967295)] { scrub := some 4 }
def s2 : State := wB [] {}
def s3 : State := wB [] { scrub := some 4 }
def s4 : State := wB [] { scrub := some 4, fixed := some (4294967295, 19440 * 100 + 8) }
def s5 : State := wB [] { patrol := some 5 }
def s6 : State := wB [(Reg.TST_LEFT, 0, 1), (Reg.BKG_THROTTLED, 0, 1)] { armed := true, waits := [(1, 3)] }
def wHot : State := { wB [(Reg.BKG_TJ_WARN, 0, 100)] { tjAt := 7, tjSum := 5 } with flt := { chans := [(36 + 11, { vLast := 4096 * 1600 })] } }
def s7 : State := wB [] { hotFrom := some 5 }
def s8 : State := wB [(Reg.PAR_PAIR_EN, 0, 1)] { hotFrom := some 5 }
def wAge : State := let s := wB [] { base := [(183, 10000)] }; { s with sys := { s.sys with configured := true, since := 9 } }
def s9 : State := wB [] { tjAt := 7, tjSum := 5, tjTime := 3, tjHot := 1, lifeTime := 4, lifeSum := 2 }
def rec0 : EvRec := { code := Ev.SCHED_LATE, sev := 2, folded := false, caused := false, src := 0, stamp := 0, detail := packItems [] }
def wLog (x : BkgSt) : State := let s := wB [] x; { s with io := { s.io with logWait := [rec0, rec0] } }
def s10 : State := wLog { sector := some 475, sectors := [(475, { seq := 3 })] }
def s11 : State := wLog { logCount := 100 }
def h1 : HostRef := ⟨3, 7, true, false⟩
def s12 : State := wB [] { ages := [(183, (7, 9))] }
def sc : LogSector := { seq := 3, recs := [List.replicate 32 1] }
def s13 : State := wB [] { sectors := [(475, sc)] }
def s14 : State := wB [(Reg.TST_CHECK_COUNT, 0, 1)] {}
def s15 : State := wB [(Reg.SEC_LIFECYCLE, 0, 2)] {}
def s16 : State := wB [(Reg.TST_ARM, 0, 0x7E57), (Reg.TST_ACTIVE, 0, 31)] { armed := true, altered := 4 }
def rt : RateSt := { window := 0, raised := 17, folded := 3, src := 5 }
def wRt : State := let s := wB [] {}; { s with io := { s.io with rates := [(Ev.AUTH_FAIL, rt)] } }

/-- The hypotheses of `Obligations.BackgroundCommandsTakeEffect` are met. -/
theorem witness_BackgroundCommandsTakeEffect :
    ((se false 9).error = true ∧ ((se false 9).scrub = true → s1.bkg.scrub.isSome = true ∧ (se false 9).written =
      false) ∧ (se false 9).uncorr = false ∧ s1.bkg.fixed ≠ some ((se false 9).addr, s1.time + 3)) ∧
    (seF.error = true ∧ (seF.scrub = true → s2.bkg.scrub.isSome = true ∧ seF.written = false) ∧ seF.uncorr = false ∧
      s2.bkg.fixed ≠ some (seF.addr, s2.time + 3)) ∧
    (seC.scrub = true ∧ s3.bkg.scrub.isSome = true ∧ seC.written = false ∧ seC.error = false) ∧
    (seW.scrub = true ∧ seW.written = true) ∧
    ((se false 1).uncorr = false ∧ s4.bkg.fixed = some ((se false 1).addr, s4.time + 3)) ∧
    ((se true 1).error = true ∧ ((se true 1).scrub = true → s3.bkg.scrub.isSome = true ∧ (se true 1).written = false)
      ∧ (se true 1).uncorr = true ∧ (se true 1).kind = 1) ∧
    ((se true 9).error = true ∧ ((se true 9).scrub = true → s3.bkg.scrub.isSome = true ∧ (se true 9).written = false)
      ∧ (se true 9).uncorr = true ∧ (se true 9).kind = 9) ∧
    (s5.bkg.patrol.isSome = true) ∧
    (s5.bkg.patrol.isSome = true ∧ s5.queue 65535 = none) ∧
    (s6.halted = false ∧ s6.bkg.tstFrom = none ∧ s6.bkg.armed = true) ∧
    (wHot.halted = false ∧ wHot.bkg.tstFrom = none ∧ hottest (List.map (fun i => (i, (wHot.chan (36 + i)).vLast))
      (List.range 12)) = some (11, 4096 * 1600) ∧ 4096 * 1600 = 4096 * 1600 ∧ -32768 ≤ 1600 ∧ 1600 ≤ 32767 ∧
      wHot.bkg.tjSaid = false ∧ 16 * ↑(wHot.rd Reg.BKG_TJ_WARN 0) ≤ 1600) ∧
    (s7.bkg.hotFrom = some 5 ∧ s7.paired = false) ∧
    (s8.bkg.hotFrom = some 5 ∧ s8.paired = true) ∧
    (wAge.sys.configured = true ∧ 183 < 184 ∧ 10000 * (wAge.ageBase 183 - 9000) = 1000 * wAge.ageBase 183) ∧
    (s10.io.logWait = [rec0, rec0] ∧ s10.gasping = false ∧ s10.norBusy = false ∧ s10.bkg.logCount < 100 ∧
      s10.bkg.sector = some 475 ∧ (s10.sector 475).recs.length < sectorRecords) ∧
    (s11.io.logWait = [rec0, rec0] ∧ s11.gasping = false ∧ s11.norBusy = false ∧ s11.bkg.logSec = (s11.elapse
      3).second ∧ 100 ≤ s11.bkg.logCount) ∧
    (Admitted s12 3 h1 0 Op.BKG_AGE_READ ∧ 64 % 64 = 0 ∧ s12.gasping = false) ∧
    (Admitted s2 3 h1 0 Op.BKG_LOG_APPEND ∧ s2.gasping = false) ∧
    (Admitted s13 3 h1 0 Op.BKG_LOG_READ ∧ s13.gasping = false ∧ List.find? (fun y => y.seq == sc.seq) (List.filter
      (fun y => y.seq != 0) (List.map (fun x => x.2) s13.bkg.sectors)) = some sc) ∧
    (s14.inReset 0 = false ∧ 2063959 % 65536 = 32343 ∧ s14.bkg.armed = false ∧ s14.tstCondition = none ∧ s14.halted =
      false ∧ s14.rd Reg.TST_CHECK_COUNT 0 ≠ 0) ∧
    (s15.inReset 0 = false ∧ 2063959 % 65536 = 32343 ∧ s15.bkg.armed = false ∧ s15.tstCondition = some 0 ∧
      s15.bkg.tstFrom = none) ∧
    (s16.bkg.armed = true ∧ s16.tstOver = some 1) ∧
    (wRt.io.rates = [(Ev.AUTH_FAIL, rt)] ∧ rt.folded ≠ 0 ∧ rt.window = (wRt.elapse 3).second) := by
  and_intros <;> decide +kernel

end BackgroundCases

namespace LineFormatCases

def tSlot (layout : Nat) : TrbSlot := { los := true, active := true, count := if layout = 1 then 8191 else 511, data := List.replicate (slotBytes layout) 255 }
def tFrame (layout counter : Nat) : TrbFrame := { word := true, layout := layout, counter := counter, rla := true, farBad := true, slots := List.replicate (trbSlots layout) (tSlot layout), crcOk := true }
def rFrame : RlkFrame := { marker := true, markCrc := true, count := 255, unit := 1, paired := true, ohCrc := true, linkId := 65535, ql := 15, rdi := true, dgasp := true, txStamp := 4294967295, rc := [1, 2, 3, 4, 4294967295], worstCid := 65535, worstCnt := 65535, echoStamp := 4294967295, echoAge := 4294967295 }
def rTub : Tub := { hcrc := true, cid := 65535, seq := 65535, vbc := 255, sop := true, eop := true, csf := true, resync := true, abort := true, data := List.replicate 56 255 }
def mFrame : MateFrame := { marker := true, markCrc := true, laneNo := 7, unit := 1, role := 255, ohCrc := true, cycle := 281474976710655, parState := 7, authority := true, faulted := true, healthy := true, ql := 15, echoCycle := 4294967295, echoNs := 4294967295, inSync := 255, timSel := 255 }
def cSent : Carriage := { tag := 340282366920938463463374607431768211455, iv := 281474976710655, epoch := 65535, next := 65535, flags := 255, len := 255, mseq := 4294967295 }

/-- The hypotheses of `Obligations.LineFormatsReadBack` are met. -/
theorem witness_LineFormatsReadBack :
    ((tFrame 0 0).word = true ∧ (tFrame 0 0).crcOk = true ∧ (tFrame 0 0).layout ≤ 1 ∧ (tFrame 0 0).counter < 256 ∧
      (tFrame 0 0).slots.length = trbSlots (tFrame 0 0).layout ∧ (∀ q ∈ (tFrame 0 0).slots, (q.count < if (tFrame 0
      0).layout = 1 then 8192 else 512) ∧ q.data.length = slotBytes (tFrame 0 0).layout ∧ ∀ b ∈ q.data, b < 256)) ∧
    ((tFrame 1 255).word = true ∧ (tFrame 1 255).crcOk = true ∧ (tFrame 1 255).layout ≤ 1 ∧ (tFrame 1 255).counter <
      256 ∧ (tFrame 1 255).slots.length = trbSlots (tFrame 1 255).layout ∧ (∀ q ∈ (tFrame 1 255).slots, (q.count < if
      (tFrame 1 255).layout = 1 then 8192 else 512) ∧ q.data.length = slotBytes (tFrame 1 255).layout ∧ ∀ b ∈ q.data,
      b < 256)) ∧
    (rFrame.marker = true ∧ rFrame.markCrc = true ∧ rFrame.ohCrc = true ∧ rFrame.count < 256 ∧ rFrame.unit < 2 ∧
      rFrame.linkId < 2 ^ 16 ∧ rFrame.ql < 16 ∧ rFrame.txStamp < 2 ^ 32 ∧ rFrame.rc.length = 5 ∧ (∀ n ∈ rFrame.rc, n <
      2 ^ 32) ∧ rFrame.worstCid < 2 ^ 16 ∧ rFrame.worstCnt < 2 ^ 16 ∧ rFrame.echoStamp < 2 ^ 32 ∧ rFrame.echoAge < 2 ^
      32 ∧ 0 < 2 ^ 58) ∧
    (rFrame.marker = true ∧ rFrame.markCrc = true ∧ rFrame.ohCrc = true ∧ rFrame.count < 256 ∧ rFrame.unit < 2 ∧
      rFrame.linkId < 2 ^ 16 ∧ rFrame.ql < 16 ∧ rFrame.txStamp < 2 ^ 32 ∧ rFrame.rc.length = 5 ∧ (∀ n ∈ rFrame.rc, n <
      2 ^ 32) ∧ rFrame.worstCid < 2 ^ 16 ∧ rFrame.worstCnt < 2 ^ 16 ∧ rFrame.echoStamp < 2 ^ 32 ∧ rFrame.echoAge < 2 ^
      32 ∧ 288230376151711743 < 2 ^ 58) ∧
    (rTub.hcrc = true ∧ rTub.cid < 2 ^ 16 ∧ rTub.seq < 2 ^ 16 ∧ rTub.vbc < 256 ∧ rTub.data.length = 56 ∧ (∀ b ∈
      rTub.data, b < 256) ∧ 288230376151711743 < 2 ^ 58) ∧
    (mFrame.marker = true ∧ mFrame.markCrc = true ∧ mFrame.ohCrc = true ∧ mFrame.laneNo < 8 ∧ mFrame.unit < 2 ∧
      mFrame.role < 256 ∧ mFrame.cycle < 2 ^ 48 ∧ mFrame.parState < 8 ∧ mFrame.ql < 16 ∧ mFrame.echoCycle < 2 ^ 32 ∧
      mFrame.echoNs < 2 ^ 32 ∧ mFrame.inSync < 256 ∧ mFrame.timSel < 256 ∧ 288230376151711743 < 2 ^ 58) ∧
    (cSent.tag < 2 ^ 128 ∧ cSent.iv < 2 ^ 48 ∧ cSent.epoch < 2 ^ 16 ∧ cSent.next < 2 ^ 16 ∧ cSent.flags < 256 ∧
      cSent.len < 256 ∧ cSent.mseq < 2 ^ 32 ∧ (List.replicate 64 0).length = 64 ∧ copyOk (List.replicate 64 0) =
      false) ∧
    (65535 < 2 ^ 16) ∧
    (0 < 2 ^ 16) ∧
    (255 < 256 ∧ 255 < 256 ∧ [255, 0].length < 2 ^ 32 ∧ (∀ b ∈ [255, 0], b < 256)) ∧
    (4294967295 < 2 ^ 32) ∧
    (0 < 2 ^ 32) := by
  and_intros <;> decide +kernel

end LineFormatCases

end Sys2Proof.Tests
end

section
/-! PROOFS. What R3 says of stamps and of the records that carry one, and what R5 says of the offsets above the register
map. -/

namespace Sys2Proof.Machine

/-! ### Stamps (R3) -/

/-- A stamp fits 64 bits. -/
theorem stampOf_lt (a : Nat) : stampOf a < 2 ^ 64 := by
  unfold stampOf Config.cyclePos; omega

/-- Bits [63:16] of a stamp are the cycle modulo 2⁴⁸. -/
theorem stampOf_cycle (a : Nat) : bitsOf (stampOf a) 16 48 = a / 19440 % 2 ^ 48 := by
  unfold bitsOf stampOf Config.cyclePos; omega

/-- Bits [15:0] of a stamp are the position: one below 19,440 fits them and reaches no bit of the cycle. -/
theorem stampOf_pos (a : Nat) : bitsOf (stampOf a) 0 16 = a % 19440 := by
  unfold bitsOf stampOf Config.cyclePos; omega

/-! ### Records that carry a stamp (Tables 14-5, 14-11 and 14-17) -/

@[simp] theorem length_leBytes (w n : Nat) : (leBytes w n).length = w := by
  induction w generalizing n with
  | zero => rfl
  | succ w ih => simp [leBytes, ih]

/-- The three records begin alike: a 2-byte number, two bytes, a 4-byte number, and the stamp at byte 8. -/
theorem record_stamp (a x y b st : Nat) (rest : List Nat) :
    ((leBytes 2 a ++ ([x, y] ++ (leBytes 4 b ++ (leBytes 8 st ++ rest)))).drop 8).take 8 = leBytes 8 st := by
  have head_length : (leBytes 2 a ++ ([x, y] ++ leBytes 4 b)).length = 8 := by simp
  rw [← List.append_assoc [x, y], ← List.append_assoc (leBytes 2 a), List.drop_left' head_length,
    List.take_left' (length_leBytes 8 st)]

theorem EvRec.bytes_stamp (r : EvRec) (alive : Nat) : ((r.bytes alive).drop 8).take 8 = leBytes 8 r.stamp := by
  unfold EvRec.bytes
  simp only [List.append_assoc, record_stamp]

theorem CplRec.bytes_stamp (c : CplRec) (alive : Nat) : ((c.bytes alive).drop 8).take 8 = leBytes 8 c.stamp := by
  unfold CplRec.bytes
  simp only [List.append_assoc, record_stamp]

theorem State.dqRecord_stamp (s : State) (d : Nat) (x : DqSt) :
    ((s.dqRecord d x).drop 8).take 8 = leBytes 8 s.stamp := by
  unfold State.dqRecord
  simp only [List.append_assoc, record_stamp]

/-- The newest completion carries the stamp of the address at which it was made (R461). -/
theorem State.complete_head_stamp {s : State} {h : HostRef} {op outcome reason : Nat} {result : List (Nat × Nat)} {c : CplRec}
    (hc : (s.complete h op outcome reason result).io.cpllog.head? = some c) : c.stamp = s.stamp := by
  unfold State.complete at hc
  rw [State.ioComplete_cpllog] at hc
  cases hc
  rfl

/-- Settles O17: the halves of a stamp do not overlap, and each record's bytes 15:8 are the stamp of the state that made it. -/
theorem stampsHoldCycleAndPosition : Obligations.StampsHoldCycleAndPosition := by
  unfold Obligations.StampsHoldCycleAndPosition
  refine ⟨fun a => ⟨stampOf_lt a, stampOf_cycle a, stampOf_pos a⟩, ?events, ?completions, State.dqRecord_stamp⟩
  case events => exact fun _ _ _ alive _ _ _ => EvRec.bytes_stamp _ alive
  case completions =>
    intro s h op outcome reason alive result c hc
    rw [CplRec.bytes_stamp, State.complete_head_stamp hc]
    rfl

/-! ### Offsets above the register map (R5) -/

theorem outsideMap_iff (off : Nat) : outsideMap off = true ↔ 0x009FFFFF < off := by
  unfold outsideMap; rw [decide_eq_true_iff]; omega

/-- The map ends at a word boundary, so the word of an offset above it lies above it too. -/
theorem outsideMap_word {off : Nat} (h : outsideMap off = true) : outsideMap (off / 4 * 4) = true := by
  rw [outsideMap_iff] at h ⊢; omega

theorem State.readWord_outsideMap {off : Nat} (h : outsideMap off = true) (s : State) : s.readWord off = 0 := by
  unfold State.readWord; rw [if_pos h]

/-- A write above the map is discarded whatever its byte enables, with no report of them (R5 before R500). -/
theorem execRegisterWrite_outsideMap {off : Nat} (h : outsideMap off = true) (dt value be : Nat) (s : State) :
    execRegisterWrite dt off value be s = .next (s.elapse dt) := by
  have hw : outsideMap (off / 4 * 4) = true := outsideMap_word h
  unfold execRegisterWrite
  simp only [hw, Bool.or_true, if_true]

/-- The dispatch of a register write. -/
theorem exec_registerWrite (dt off value be : Nat) (s : State) :
    exec (.registerWrite dt off value be) s = execRegisterWrite dt off value be s := rfl

/-- Settles O18: reads and writes judge the offset before anything else of the state. -/
theorem nothingLiesAboveTheMap : Obligations.NothingLiesAboveTheMap := by
  unfold Obligations.NothingLiesAboveTheMap
  intro s dt off value be hoff
  have h : outsideMap off = true := (outsideMap_iff off).mpr hoff
  exact ⟨s.readWord_outsideMap h, (exec_registerWrite ..).trans (execRegisterWrite_outsideMap h dt value be s)⟩

end Sys2Proof.Machine
end

section
/-! PROOFS. The dispatch of a position's entries, with those beyond the eighth carried to the next (R39 to R41, R47), and the
boundary for which a swap is armed (R45). -/

namespace Sys2Proof.Machine

/-! ### Shaft time -/

@[simp] theorem State.halted_elapse (s : State) (n : Nat) : (s.elapse n).halted = s.halted := rfl

theorem State.addr_elapse {s : State} (h : s.halted = false) (n : Nat) : (s.elapse n).addr = s.addr + n := by
  simp [State.elapse, h]

/-! ### What is due at a position -/

/-- At a multiframe boundary at most seven entries go ahead of the swap (R39, R41). -/
theorem State.dueNow_of_boundary {s : State} (hp : s.pos = 0) (hc : s.cycle % 4 = 0) :
    s.dueNow = s.aheadNow.take 7 ++ swapEntry :: (s.aheadNow.drop 7 ++ s.posDue) := by
  simp [State.dueNow, hp, hc]

theorem State.dueNow_of_not_boundary {s : State} (h : s.pos ≠ 0 ∨ s.cycle % 4 ≠ 0) : s.dueNow = s.aheadNow ++ s.posDue := by
  unfold State.dueNow
  rw [if_neg (by simpa [imp_iff_not_or] using h)]

/-- The swap is among the first eight entries of a multiframe boundary. -/
theorem State.swapEntry_mem_take_dueNow {s : State} (hp : s.pos = 0) (hc : s.cycle % 4 = 0) :
    swapEntry ∈ s.dueNow.take 8 := by
  have hlen : (s.aheadNow.take 7).length ≤ 7 := List.length_take_le 7 _
  have hroom : 8 - (s.aheadNow.take 7).length = (7 - (s.aheadNow.take 7).length) + 1 := by omega
  rw [State.dueNow_of_boundary hp hc, List.take_append, hroom, List.take_succ_cons]
  exact List.mem_append_right _ List.mem_cons_self

/-- The state with nothing carried: what is due there are the position's own entries. -/
def State.noneCarried (s : State) : State := { s with shf := { s.shf with carried := [] } }

@[simp] theorem State.noneCarried_posDue (s : State) : s.noneCarried.posDue = s.posDue := rfl
@[simp] theorem State.noneCarried_pos (s : State) : s.noneCarried.pos = s.pos := rfl
@[simp] theorem State.noneCarried_cycle (s : State) : s.noneCarried.cycle = s.cycle := rfl

theorem State.aheadNow_of_carried {s : State} (hhalf : s.shf.half = false) (hat : s.shf.carriedAt ≤ s.addr) :
    s.aheadNow = s.shf.carried := by
  simp [State.aheadNow, State.carriedNow, hhalf, hat]

/-- Entries carried to a position go ahead of its own. At a multiframe boundary the swap is one of its own, ahead of which
at most seven go. -/
theorem State.dueNow_eq_carried_append {s : State} (hhalf : s.shf.half = false) (hat : s.shf.carriedAt ≤ s.addr)
    (hfew : s.shf.carried.length ≤ 7 ∨ s.pos ≠ 0 ∨ s.cycle % 4 ≠ 0) :
    s.dueNow = s.shf.carried ++ s.noneCarried.dueNow := by
  have hahead : s.aheadNow = s.shf.carried := State.aheadNow_of_carried hhalf hat
  have hnone : s.noneCarried.aheadNow = [] := State.aheadNow_of_carried (s := s.noneCarried) hhalf hat
  by_cases hb : s.pos ≠ 0 ∨ s.cycle % 4 ≠ 0
  · rw [State.dueNow_of_not_boundary hb, State.dueNow_of_not_boundary (s := s.noneCarried) hb, hahead, hnone]
    simp
  · have hlen : s.shf.carried.length ≤ 7 := hfew.resolve_right hb
    obtain ⟨hp, hc⟩ : s.pos = 0 ∧ s.cycle % 4 = 0 := by simpa [not_or] using hb
    rw [State.dueNow_of_boundary hp hc, State.dueNow_of_boundary (s := s.noneCarried) hp hc, hahead, hnone,
      List.take_of_length_le hlen, List.drop_of_length_le hlen]
    simp

/-! ### The dispatch -/

@[simp] theorem State.dispatch_addr (s : State) : s.dispatch.addr = s.addr := by simp [State.dispatch]

@[simp] theorem State.dispatch_fired (s : State) : s.dispatch.shf.fired = s.dueNow.take 8 := by simp [State.dispatch]

@[simp] theorem State.dispatch_half (s : State) : s.dispatch.shf.half = false := by simp [State.dispatch]

@[simp] theorem State.dispatch_carried (s : State) : s.dispatch.shf.carried = s.dueNow.drop 8 := by simp [State.dispatch]

@[simp] theorem State.dispatch_carriedAt (s : State) : s.dispatch.shf.carriedAt = s.addr + 1 := by simp [State.dispatch]

/-- A dispatch writes two counts. -/
theorem State.dispatch_rd_other (s : State) {f : Fld} {i : Nat} (hlate : f.key i ≠ Reg.SHF_LATE_CNT.key 0)
    (hperturb : f.key i ≠ Reg.TST_PERTURB_CNT.key 0) : s.dispatch.rd f i = s.rd f i := by
  unfold State.dispatch State.countBy
  simp only [State.raiseIf_rd]
  rw [State.wr_rd_other _ _ _ _ _ _ hperturb, State.wr_rd_other _ _ _ _ _ _ hlate]
  rfl

theorem State.dispatch_halted (s : State) : s.dispatch.halted = s.halted := by
  unfold State.halted
  rw [State.dispatch_rd_other s (by decide) (by decide)]

theorem State.jitterOf_of_not_perturbed {s : State} (h : s.perturbed 3 = false) (k : Nat) : s.jitterOf k = 0 := by
  simp [State.jitterOf, h]

/-- No test perturbation delays entries, so only those beyond the eighth are late. -/
theorem State.delayed_of_not_perturbed {s : State} (h : s.perturbed 3 = false) :
    s.bankDue.filter (fun e => s.jitterOf e.1 != 0) = [] := by
  simp [State.jitterOf_of_not_perturbed h]

theorem State.dispatch_rd_late {s : State} (h : s.perturbed 3 = false) :
    s.dispatch.rd Reg.SHF_LATE_CNT 0 = (s.rd Reg.SHF_LATE_CNT 0 + (s.dueNow.length - 8)) % 2 ^ 32 := by
  unfold State.dispatch State.countBy
  simp only [State.delayed_of_not_perturbed h, State.raiseIf_rd]
  rw [State.wr_rd_other _ _ _ _ _ _ (by decide : Reg.SHF_LATE_CNT.key 0 ≠ Reg.TST_PERTURB_CNT.key 0), State.wr_rd_same]
  simp [Reg.SHF_LATE_CNT]

/-- SCHED_LATE was raised in this cycle already. -/
def State.saidLate (s : State) : Bool := s.shf.lateSeen && decide (s.shf.lateCycle = s.cycle)

theorem State.dispatch_raised {s : State} (h : s.perturbed 3 = false) (hlate : 8 < s.dueNow.length) (hsaid : s.saidLate = false) :
    Raised s.dispatch Ev.SCHED_LATE srcDevice [(2, (s.addr + 1) % Config.cyclePos), (4, s.dueNow.length - 8)] := by
  have hne : s.dueNow.length - 8 ≠ 0 := by omega
  unfold State.saidLate at hsaid
  unfold State.dispatch State.raiseIf
  simp only [State.delayed_of_not_perturbed h]
  rw [if_pos (by simp [hne, hsaid])]
  exact State.raise_raised' _ _ _ (by simp [Nat.not_le.mpr hlate])

theorem State.dispatch_io {s : State} (h : s.perturbed 3 = false) (hquiet : s.dueNow.length ≤ 8 ∨ s.saidLate = true) :
    s.dispatch.io = s.io := by
  unfold State.saidLate at hquiet
  unfold State.dispatch State.raiseIf
  simp only [State.delayed_of_not_perturbed h]
  rw [if_neg]
  · rfl
  rcases hquiet with hfew | hsaid
  · simp [hfew]
  · simp [hsaid]

/-- After a dispatch with late entries, SCHED_LATE counts as raised in this cycle. -/
theorem State.dispatch_saysLate {s : State} (hlate : 8 < s.dueNow.length) :
    s.dispatch.shf.lateSeen = true ∧ s.dispatch.shf.lateCycle = s.cycle := by
  have hne : s.dueNow.length - 8 ≠ 0 := by omega
  by_cases hsaid : s.saidLate = true
  · obtain ⟨hseen, hcycle⟩ : s.shf.lateSeen = true ∧ s.shf.lateCycle = s.cycle := by simpa [State.saidLate] using hsaid
    simp [State.dispatch, hseen, hcycle]
  · have hfirst : s.shf.lateSeen = false ∨ s.shf.lateCycle ≠ s.cycle := by
      simpa [State.saidLate, imp_iff_not_or] using hsaid
    rcases hfirst with hunseen | hearlier
    · simp [State.dispatch, hunseen, hne]
    · simp [State.dispatch, hearlier, hne]

/-- At the position after a dispatch, what was carried goes ahead of the position's own entries. -/
theorem State.dueNow_after_dispatch {s : State} (hrun : s.halted = false)
    (hfew : (s.dueNow.drop 8).length ≤ 7 ∨ (s.dispatch.elapse 1).pos ≠ 0 ∨ (s.dispatch.elapse 1).cycle % 4 ≠ 0) :
    (s.dispatch.elapse 1).dueNow = s.dueNow.drop 8 ++ (s.dispatch.elapse 1).noneCarried.dueNow := by
  have haddr : (s.dispatch.elapse 1).addr = s.addr + 1 := by
    rw [State.addr_elapse (by rw [State.dispatch_halted, hrun]), State.dispatch_addr]
  have h := State.dueNow_eq_carried_append (s := s.dispatch.elapse 1) (by simp) (by simp [haddr]) (by simpa using hfew)
  simpa using h

/-! ### HEWER_WAKEUP -/

/-- Where no swap is due and the position was not served, its entries are dispatched. -/
theorem exec_hewerWakeup_dispatch {s : State} {dt : Nat} (hrun : s.halted = false) (hswap : s.shf.armDue ≠ some (s.addr + dt))
    (hnew : s.shf.firedAt ≠ some (s.addr + dt) ∨ s.shf.half = true) :
    exec (.hewerWakeup dt) s = .next (s.elapse dt).dispatch := by
  show execHewerWakeup dt s = _
  have hserved : (decide (s.shf.firedAt = some (s.addr + dt)) && !s.shf.half) = false := by
    rcases hnew with h | h <;> simp [h]
  simp [execHewerWakeup, State.swapDue, State.addr_elapse hrun, hrun, hswap, hserved]

/-- At an armed swap the old bank is left first. -/
theorem exec_hewerWakeup_clearOld {s : State} {dt : Nat} (hrun : s.halted = false) (hswap : s.shf.armDue = some (s.addr + dt))
    (hnew : s.shf.firedAt ≠ some (s.addr + dt)) : exec (.hewerWakeup dt) s = .next (s.elapse dt).clearOld := by
  show execHewerWakeup dt s = _
  simp [execHewerWakeup, State.swapDue, State.addr_elapse hrun, hrun, hswap, hnew]

theorem State.clearOld_of_new {s : State} (hnew : s.shf.firedAt ≠ some s.addr) :
    s.clearOld = { s with shf := { s.shf with
      fired := s.carriedNow.take 7, firedAt := some s.addr, half := true, carried := [], jittered := [] } } := by
  unfold State.clearOld
  rw [if_neg hnew]

/-- Settles O19: the dispatch takes eight entries of those due, and what it leaves goes ahead of the next position's own. -/
theorem entriesBeyondTheEighthAreCarried : Obligations.EntriesBeyondTheEighthAreCarried := by
  unfold Obligations.EntriesBeyondTheEighthAreCarried
  refine ⟨fun s dt hrun hswap hnew hsteady => ?dispatched, fun s dt hrun hswap hnew => ?beforeSwap⟩
  case dispatched =>
    have haddr : (s.elapse dt).addr = s.addr + dt := State.addr_elapse hrun dt
    have hsteady' : (s.elapse dt).perturbed 3 = false := hsteady
    refine ⟨_, exec_hewerWakeup_dispatch hrun hswap hnew, State.dispatch_fired _, State.dispatch_rd_late hsteady',
      State.dueNow_after_dispatch (s := s.elapse dt) hrun, fun hlate hsaid => ?_, State.dispatch_saysLate,
      State.dispatch_io hsteady', fun hp hc => ?_⟩
    · rw [← haddr]
      exact State.dispatch_raised hsteady' hlate hsaid
    · rw [State.dispatch_fired]
      exact State.swapEntry_mem_take_dueNow hp hc
  case beforeSwap =>
    have haddr : (s.elapse dt).addr = s.addr + dt := State.addr_elapse hrun dt
    refine ⟨_, exec_hewerWakeup_clearOld hrun hswap hnew, ?_⟩
    rw [State.clearOld_of_new (by rw [haddr]; exact hnew), ← haddr]
    exact ⟨rfl, rfl, rfl, rfl, rfl, RegsOnly.refl _ s⟩

/-! ### The boundary of a swap (R45) -/

theorem State.swapBoundary_inTime {s : State} (hlast : s.cycle % 4 = 3) (hpos : s.pos < 19000) :
    s.swapBoundary = ((s.cycle + 1) * 19440, false) := by
  have hnext : (s.cycle / 4 + 1) * 4 = s.cycle + 1 := by omega
  simp [State.swapBoundary, Config.cyclePos, hnext, Nat.not_le.mpr hpos]

theorem State.swapBoundary_notLast {s : State} (hcycle : s.cycle % 4 ≠ 3) :
    s.swapBoundary = ((s.cycle + (4 - s.cycle % 4)) * 19440, false) := by
  have hnext : (s.cycle / 4 + 1) * 4 = s.cycle + (4 - s.cycle % 4) := by omega
  simp [State.swapBoundary, Config.cyclePos, hnext, hcycle]

theorem State.swapBoundary_late {s : State} (hlast : s.cycle % 4 = 3) (hpos : 19000 ≤ s.pos) :
    s.swapBoundary = ((s.cycle + 5) * 19440, true) := by
  have hnext : (s.cycle / 4 + 1) * 4 + 4 = s.cycle + 5 := by omega
  simp [State.swapBoundary, Config.cyclePos, hnext, hlast, hpos]

/-! ### Arming -/

@[simp] theorem State.armNow_armDue (s : State) (a : ArmSt) (due : Nat) (late : Bool) :
    (s.armNow a due late).shf.armDue = some due := by cases late <;> rfl

theorem State.armNow_rd_bankArmed (s : State) (a : ArmSt) (due : Nat) (late : Bool) :
    (s.armNow a due late).rd Reg.SHF_BANK_ARMED 0 = 1 := by
  cases late <;> simp [State.armNow, State.count, State.countBy, State.wrBit, State.wr_rd, ofBool, Fld.key,
    Reg.SHF_BANK_ARMED, Reg.MAP_PAGE_ARMED, Reg.SHF_SWAP_DEFER_CNT]

theorem State.armNow_rd_deferrals (s : State) (a : ArmSt) (due : Nat) :
    (s.armNow a due false).rd Reg.SHF_SWAP_DEFER_CNT 0 = s.rd Reg.SHF_SWAP_DEFER_CNT 0 := by
  simp [State.armNow, State.wrBit, State.wr_rd, Fld.key, Reg.SHF_BANK_ARMED, Reg.MAP_PAGE_ARMED, Reg.SHF_SWAP_DEFER_CNT]

theorem State.armNow_io (s : State) (a : ArmSt) (due : Nat) : (s.armNow a due false).io = s.io := rfl

theorem State.armNow_rd_deferrals_late (s : State) (a : ArmSt) (due : Nat) :
    (s.armNow a due true).rd Reg.SHF_SWAP_DEFER_CNT 0 = (s.rd Reg.SHF_SWAP_DEFER_CNT 0 + 1) % 2 ^ 32 := by
  simp [State.armNow, State.count, State.countBy, State.wrBit, State.wr_rd, Fld.key, Reg.SHF_BANK_ARMED, Reg.MAP_PAGE_ARMED,
    Reg.SHF_SWAP_DEFER_CNT]

theorem State.armNow_raised_late (s : State) (a : ArmSt) (due : Nat) :
    Raised (s.armNow a due true) Ev.SCHED_SWAP_DEFERRED srcDevice [addrItem s.addr] := State.raise_raised ..

/-- The holder of authority, with no mate to wait for, arms the bank that it prepared (R42, R44). -/
theorem exec_armSwap_armNow {s : State} {dt : Nat} {own : List SchedEntry} (hrun : s.halted = false) (hauth : s.hasAuthority = true)
    (hfree : s.ovm.arm = none) (hmate : s.paired = false ∨ (s.elapse dt).mateSilent = true)
    (hkept : ((s.elapse dt).prepareSwap own).1.bankKept (((s.elapse dt).prepareSwap own).2.bank.map (·.2)) = true) :
    exec (.armSwap dt own) s = .next (((s.elapse dt).prepareSwap own).1.armNow ((s.elapse dt).prepareSwap own).2
      (s.elapse dt).swapBoundary.1 (s.elapse dt).swapBoundary.2) := by
  show execArmSwap dt own s = _
  have hauth' : (s.elapse dt).hasAuthority = true := hauth
  have halone : ((s.elapse dt).paired && !(s.elapse dt).mateSilent) = false := by
    rcases hmate with h | h
    · rw [show (s.elapse dt).paired = false from h, Bool.false_and]
    · rw [h, Bool.not_true, Bool.and_false]
  simp [execArmSwap, hrun, hauth', hfree, hkept, halone]

/-- Settles O20: the swap is armed for the boundary that the position of arming gives. -/
theorem lateArmingDefersTheSwap : Obligations.LateArmingDefersTheSwap := by
  unfold Obligations.LateArmingDefersTheSwap
  intro s dt own hrun hauth hfree hmate hkept
  have haddr : (s.elapse dt).addr = s.addr + dt := State.addr_elapse hrun dt
  have hcycle : (s.elapse dt).cycle = (s.addr + dt) / 19440 := congrArg (· / 19440) haddr
  have hpos : (s.elapse dt).pos = (s.addr + dt) % 19440 := congrArg (· % 19440) haddr
  refine ⟨_, exec_armSwap_armNow hrun hauth hfree hmate hkept, State.armNow_rd_bankArmed .., ?inTime, ?notLast, ?late⟩
  all_goals rw [← hcycle]
  case inTime =>
    rw [← hpos]
    intro hlast hbefore
    rw [State.swapBoundary_inTime hlast hbefore]
    exact ⟨State.armNow_armDue .., State.armNow_rd_deferrals .., State.armNow_io ..⟩
  case notLast =>
    intro hother
    rw [State.swapBoundary_notLast hother]
    exact ⟨State.armNow_armDue .., State.armNow_rd_deferrals .., State.armNow_io ..⟩
  case late =>
    rw [← hpos]
    intro hlast hfrom
    rw [State.swapBoundary_late hlast hfrom]
    exact ⟨State.armNow_armDue .., State.armNow_rd_deferrals_late .., State.armNow_raised_late ..⟩

end Sys2Proof.Machine
end

section
/-! PROOFS. What the line formats are made of: fields of bytes that read back, checks that fit their field, and scramblers that
undo themselves. -/

namespace Sys2Proof.Machine

/-! ### Bytes -/

/-- Every member is a byte. -/
def IsBytes (l : List Nat) : Prop := ∀ b ∈ l, b < 256

@[simp] theorem isBytes_nil : IsBytes [] := by simp [IsBytes]

@[simp] theorem isBytes_cons (b : Nat) (l : List Nat) : IsBytes (b :: l) ↔ b < 256 ∧ IsBytes l := List.forall_mem_cons

@[simp] theorem isBytes_append (l m : List Nat) : IsBytes (l ++ m) ↔ IsBytes l ∧ IsBytes m := List.forall_mem_append

@[simp] theorem isBytes_zeros (n : Nat) : IsBytes (List.replicate n 0) := by
  intro b hb
  simp [List.eq_of_mem_replicate hb]

@[simp] theorem isBytes_leBytes (w n : Nat) : IsBytes (leBytes w n) := by
  induction w generalizing n with
  | zero => exact isBytes_nil
  | succ w ih => simp [leBytes, ih, Nat.mod_lt]

@[simp] theorem isBytes_beBytes (w n : Nat) : IsBytes (beBytes w n) :=
  fun b hb => isBytes_leBytes w n b (List.mem_reverse.1 hb)

theorem isBytes_flatMap {α : Type} {l : List α} {f : α → List Nat} (h : ∀ a ∈ l, IsBytes (f a)) : IsBytes (l.flatMap f) := by
  intro b hb
  obtain ⟨a, ha, hmem⟩ := List.mem_flatMap.1 hb
  exact h a ha b hmem

@[simp] theorem length_beBytes (w n : Nat) : (beBytes w n).length = w := by simp [beBytes]

theorem leNum_leBytes {w n : Nat} (h : n < 256 ^ w) : leNum (leBytes w n) = n := by
  induction w generalizing n with
  | zero => simp_all [leBytes, leNum]
  | succ w ih =>
    have hrest : n / 256 < 256 ^ w := by rw [Nat.pow_succ] at h; omega
    rw [leBytes, leNum, ih hrest]
    omega

theorem beNum_beBytes {w n : Nat} (h : n < 256 ^ w) : beNum (beBytes w n) = n := by
  rw [beNum, beBytes, List.reverse_reverse, leNum_leBytes h]

/-! ### Fields of a record -/

/-- A cut that begins at or after the end of a field passes over it. -/
theorem cut_append_right {a : List Nat} {i : Nat} (b : List Nat) (n : Nat) (h : a.length ≤ i) :
    cut (a ++ b) i n = cut b (i - a.length) n := by
  rw [cut, cut, List.drop_append, List.drop_of_length_le h, List.nil_append]

/-- A cut of a field's own length takes the field. -/
theorem cut_append_left {a : List Nat} {n : Nat} (b : List Nat) (h : a.length = n) : cut (a ++ b) 0 n = a := by
  rw [cut, List.drop_zero, List.take_left' h]

@[simp] theorem cut_beBytes_skip {w i : Nat} (x : Nat) (b : List Nat) (n : Nat) (h : w ≤ i) :
    cut (beBytes w x ++ b) i n = cut b (i - w) n := by
  simpa using cut_append_right (a := beBytes w x) b n (by simpa using h)

@[simp] theorem cut_beBytes_here (w x : Nat) (b : List Nat) : cut (beBytes w x ++ b) 0 w = beBytes w x :=
  cut_append_left b (length_beBytes w x)

@[simp] theorem cut_cons_skip (a : Nat) (b : List Nat) (i n : Nat) : cut (a :: b) (i + 1) n = cut b i n := rfl

@[simp] theorem getElem?_beBytes_skip {w i : Nat} (x : Nat) (b : List Nat) (h : w ≤ i) :
    (beBytes w x ++ b)[i]? = b[i - w]? := by
  rw [List.getElem?_append_right (by simpa using h), length_beBytes]

/-! ### Flags -/

theorem ofBool_lt (b : Bool) : ofBool b < 2 := by cases b <;> decide

/-- A flag is read at its own bit, whatever lies above and below it. -/
theorem bitOf_flag {k lo : Nat} (hi : Nat) (b : Bool) (h : lo < 2 ^ k) : bitOf (lo + 2 ^ k * (ofBool b + 2 * hi)) k = b := by
  have hdiv : (lo + 2 ^ k * (ofBool b + 2 * hi)) / 2 ^ k = ofBool b + 2 * hi := by
    rw [Nat.add_mul_div_left _ _ (by positivity), Nat.div_eq_of_lt h, Nat.zero_add]
  rw [bitOf, hdiv, Nat.add_mul_mod_self_left]
  cases b <;> rfl

/-- Two flags in a byte of their own. -/
theorem bitOf_pair (a b : Bool) : bitOf (ofBool a + 2 * ofBool b) 0 = a ∧ bitOf (ofBool a + 2 * ofBool b) 1 = b := by
  cases a <;> cases b <;> decide

theorem pair_lt (a b : Bool) : ofBool a + 2 * ofBool b < 256 := by
  cases a <;> cases b <;> decide

/-! ### Checks -/

theorem crcBit_lt {c : Nat} (h : c < 2 ^ 32) : crcBit c < 2 ^ 32 := by
  unfold crcBit
  split
  · exact Nat.xor_lt_two_pow (by omega) (by decide)
  · omega

theorem crc32c_lt {l : List Nat} (h : IsBytes l) : crc32c l < 256 ^ 4 := by
  refine Nat.xor_lt_two_pow (n := 32) (by decide) ?_
  refine List.foldlRecOn (motive := (· < 2 ^ 32)) l _ (by decide) fun c hc b hb => ?_
  have hb32 : b < 2 ^ 32 := (h b hb).trans (by decide)
  have hxor : Nat.xor c b < 2 ^ 32 := Nat.xor_lt_two_pow hc hb32
  iterate 8 refine crcBit_lt ?_
  exact hxor

theorem crc16Bit_lt {c : Nat} : crc16Bit c < 2 ^ 16 := by
  unfold crc16Bit
  split
  · omega
  · exact Nat.xor_lt_two_pow (by omega) (by decide)

theorem crc16From_lt {init : Nat} (l : List Nat) (h : init < 256 ^ 2) : crc16From init l < 256 ^ 2 :=
  List.foldlRecOn (motive := (· < 256 ^ 2)) l _ h fun _ _ _ _ => crc16Bit_lt

theorem crc16_lt (l : List Nat) : crc16 l < 256 ^ 2 := crc16From_lt l (by decide)

/-- A CRC-16 that follows the bytes it covers passes. -/
theorem crc16_check {l : List Nat} {n : Nat} (rest : List Nat) (h : l.length = n) :
    crc16 ((l ++ (beBytes 2 (crc16 l) ++ rest)).take n) = beNum (cut (l ++ (beBytes 2 (crc16 l) ++ rest)) n 2) := by
  rw [List.take_left' h, cut_append_right _ _ h.le, h, Nat.sub_self, cut_beBytes_here, beNum_beBytes (crc16_lt l)]

/-! ### Scramblers -/

/-- `Nat.xor_xor_cancel_right` in the model's spelling of exclusive or. -/
theorem xor_xor_cancel (a b : Nat) : Nat.xor (Nat.xor a b) b = a := Nat.xor_xor_cancel_right a b

@[simp] theorem length_addScramble (r : Nat) (l : List Nat) : (addScramble r l).length = l.length := by
  induction l generalizing r with
  | nil => rfl
  | cons b l ih => simp [addScramble, ih]

/-- The generator's sequence added twice is none (R148). -/
theorem addScramble_addScramble (r : Nat) (l : List Nat) : addScramble r (addScramble r l) = l := by
  induction l generalizing r with
  | nil => rfl
  | cons b l ih => rw [addScramble, addScramble, xor_xor_cancel, ih]

/-- The descrambler sees the line bits that the scrambler put out, so that it takes out what was added (R169). -/
theorem selfScramble_receive (n h b : Nat) (hb : b < 2 ^ n) :
    selfScramble false n h (selfScramble true n h b).1 = (b, (selfScramble true n h b).2) := by
  induction n generalizing h b with
  | zero =>
    obtain rfl : b = 0 := by omega
    rfl
  | succ n ih =>
    have hrest : b / 2 < 2 ^ n := by omega
    simp only [selfScramble, if_true, Bool.false_eq_true, if_false]
    set o := (b % 2 + h / 2 ^ 57 + h / 2 ^ 38) % 2 with ho
    set r := selfScramble true n ((2 * h + o) % 2 ^ 58) (b / 2) with hr
    have hbit : (o + 2 * r.1) % 2 = o := by omega
    have hline : (o + 2 * r.1) / 2 = r.1 := by omega
    rw [hbit, hline, hr, ih _ _ hrest]
    ext
    · simp only; omega
    · rfl

@[simp] theorem length_selfScrambleBytes (send : Bool) (h : Nat) (l : List Nat) :
    (selfScrambleBytes send h l).length = l.length := by
  induction l generalizing h with
  | nil => rfl
  | cons b l ih => simp [selfScrambleBytes, ih]

/-- What a scrambler sends, a descrambler with the same line bits before it gives back (R169). -/
theorem selfScrambleBytes_receive (h : Nat) {l : List Nat} (hl : IsBytes l) :
    selfScrambleBytes false h (selfScrambleBytes true h l) = l := by
  induction l generalizing h with
  | nil => rfl
  | cons b l ih =>
    obtain ⟨hb, hrest⟩ := (isBytes_cons b l).1 hl
    simp only [selfScrambleBytes, selfScramble_receive 8 h b hb, ih _ hrest]

/-! ### Blocks -/

/-- Successive cuts of one length join to the bytes they were cut from. -/
theorem flatMap_cut (l : List Nat) (m n : Nat) : (List.range n).flatMap (fun k => cut l (m * k) m) = l.take (m * n) := by
  induction n with
  | zero => simp
  | succ n ih => rw [List.range_succ, List.flatMap_append, ih, List.flatMap_singleton, cut, Nat.mul_succ, List.take_add]

@[simp] theorem length_sendBlocks (first prior : Nat) (plain : List Nat) :
    (sendBlocks first prior plain).length = plain.length / 8 := by simp [sendBlocks]

/-- Bytes sent in blocks are the plain bytes of those blocks (R169). -/
theorem plainBytes_sendBlocks (first prior : Nat) {plain : List Nat} (hbytes : IsBytes plain) (hfull : 8 ∣ plain.length) :
    plainBytes prior (sendBlocks first prior plain) = plain := by
  have hline : (sendBlocks first prior plain).flatMap (·.bytes) = selfScrambleBytes true prior plain := by
    rw [sendBlocks, List.flatMap_map, flatMap_cut, Nat.mul_div_cancel' hfull, List.take_of_length_le (by simp)]
  rw [plainBytes, hline, selfScrambleBytes_receive prior hbytes]

/-- The first block takes the sync header that the sender names (R170). -/
theorem sendBlocks_eq_cons (first prior : Nat) {plain : List Nat} (h : 8 ≤ plain.length) :
    ∃ bytes rest, sendBlocks first prior plain = { sync := first, bytes := bytes } :: rest := by
  obtain ⟨n, hn⟩ : ∃ n, plain.length / 8 = n + 1 := ⟨plain.length / 8 - 1, by omega⟩
  exact ⟨_, _, by rw [sendBlocks, hn, List.range_succ_eq_map, List.map_cons, if_pos rfl]⟩

/-! ### Frames of a marker and an overhead (Tables 06-3, 06-4 and 12-1) -/

/-- A marker word, two bytes with their CRC-16, and an overhead with its own. -/
def markedFrame (word : List Nat) (x y : Nat) (o : List Nat) : List Nat :=
  word ++ ([x, y] ++ (beBytes 2 (crc16 [x, y]) ++ (o ++ beBytes 2 (crc16 o))))

section
variable {word : List Nat} (hword : word.length = 4) (x y : Nat) (o : List Nat)
include hword

theorem length_markedFrame : (markedFrame word x y o).length = 10 + o.length := by
  simp only [markedFrame, List.length_append, List.length_cons, List.length_nil, length_beBytes, hword]
  omega

theorem markedFrame_word : (markedFrame word x y o).take 4 = word := List.take_left' hword

theorem markedFrame_first : (markedFrame word x y o).getD 4 0 = x := by
  rw [markedFrame, List.getD_append_right _ _ _ _ hword.le, hword]
  rfl

theorem markedFrame_second : (markedFrame word x y o).getD 5 0 = y := by
  rw [markedFrame, List.getD_append_right _ _ _ _ (by omega), hword]
  rfl

theorem markedFrame_check :
    crc16 (cut (markedFrame word x y o) 4 2) = beNum (cut (markedFrame word x y o) 6 2) := by
  have hpass := crc16_check (l := [x, y]) (o ++ beBytes 2 (crc16 o)) rfl
  rw [markedFrame, cut_append_right _ _ hword.le, cut_append_right _ 2 (i := 6) (by omega), hword]
  exact hpass

theorem markedFrame_overhead : (markedFrame word x y o).drop 8 = o ++ beBytes 2 (crc16 o) := by
  have hhead : (word ++ ([x, y] ++ beBytes 2 (crc16 [x, y]))).length = 8 := by simp [hword]
  rw [← List.drop_left' (l₂ := o ++ beBytes 2 (crc16 o)) hhead]
  simp [markedFrame]

end

theorem isBytes_markedFrame {word : List Nat} {x y : Nat} {o : List Nat} (hword : IsBytes word) (hx : x < 256) (hy : y < 256)
    (ho : IsBytes o) : IsBytes (markedFrame word x y o) := by
  simp [markedFrame, hword, hx, hy, ho]

end Sys2Proof.Machine
end

section
/-! PROOFS. The tributary-link frame and the Ralale frame and tub, each from its writer to its reader: what its bytes are, that its
checks pass, and what is read at each field. -/

namespace Sys2Proof.Machine

/-! ### Tributary links (R145 to R148) -/

/-- A slot as it is sent (Table 05-5). -/
def TrbSlot.bytes (q : TrbSlot) : List Nat := beBytes 2 q.control ++ q.data

/-- A slot whose fields a layout admits. -/
structure TrbSlot.Fits (layout : Nat) (q : TrbSlot) : Prop where
  count : q.count < (if layout = 1 then 8192 else 512)
  length_data : q.data.length = slotBytes layout
  data : IsBytes q.data

theorem TrbSlot.count_lt {layout : Nat} {q : TrbSlot} (h : q.Fits layout) : q.count < 8192 := by
  have hcount := h.count
  split at hcount <;> omega

theorem TrbSlot.control_lt {layout : Nat} {q : TrbSlot} (h : q.Fits layout) : q.control < 256 ^ 2 := by
  have hcount := q.count_lt h
  have hactive := ofBool_lt q.active
  have hlos := ofBool_lt q.los
  unfold TrbSlot.control
  omega

theorem TrbSlot.control_count {layout : Nat} {q : TrbSlot} (h : q.Fits layout) :
    q.control % (if layout = 1 then 8192 else 512) = q.count := by
  have hcount := h.count
  unfold TrbSlot.control
  by_cases hl : layout = 1
  · rw [if_pos hl] at hcount ⊢
    omega
  · rw [if_neg hl] at hcount ⊢
    omega

theorem TrbSlot.control_active {layout : Nat} {q : TrbSlot} (h : q.Fits layout) : bitOf q.control 14 = q.active := by
  have hcount : q.count < 2 ^ 14 := (q.count_lt h).trans (by decide)
  rw [← bitOf_flag (ofBool q.los) q.active hcount, TrbSlot.control]
  congr 1
  omega

theorem TrbSlot.control_los {layout : Nat} {q : TrbSlot} (h : q.Fits layout) : bitOf q.control 15 = q.los := by
  have hcount := q.count_lt h
  have hactive := ofBool_lt q.active
  have hbelow : q.count + 16384 * ofBool q.active < 2 ^ 15 := by omega
  exact bitOf_flag 0 q.los hbelow

theorem TrbSlot.length_bytes {layout : Nat} {q : TrbSlot} (h : q.Fits layout) : q.bytes.length = slotBytes layout + 2 := by
  simp [TrbSlot.bytes, h.length_data, Nat.add_comm]

theorem TrbSlot.isBytes_bytes {layout : Nat} {q : TrbSlot} (h : q.Fits layout) : IsBytes q.bytes := by
  simp [TrbSlot.bytes, h.data]

theorem readSlot_bytes {layout : Nat} {q : TrbSlot} (h : q.Fits layout) : readSlot layout q.bytes = q := by
  have hword : beNum (q.bytes.take 2) = q.control := by
    rw [TrbSlot.bytes, List.take_left' (length_beBytes 2 _), beNum_beBytes (q.control_lt h)]
  have hdata : q.bytes.drop 2 = q.data := List.drop_left' (length_beBytes 2 _)
  simp only [readSlot, hword, hdata, q.control_count h, q.control_active h, q.control_los h]

theorem readSlots_bytes {layout : Nat} {slots : List TrbSlot} (rest : List Nat) (h : ∀ q ∈ slots, q.Fits layout) :
    readSlots layout slots.length (slots.flatMap TrbSlot.bytes ++ rest) = slots := by
  induction slots with
  | nil => rfl
  | cons q slots ih =>
    obtain ⟨hq, hslots⟩ := List.forall_mem_cons.1 h
    have hlen := q.length_bytes hq
    rw [List.length_cons, readSlots, List.flatMap_cons, List.append_assoc, List.take_left' hlen, List.drop_left' hlen,
      readSlot_bytes hq, ih hslots]

theorem length_slots_bytes {layout : Nat} {slots : List TrbSlot} (h : ∀ q ∈ slots, q.Fits layout) :
    (slots.flatMap TrbSlot.bytes).length = slots.length * (slotBytes layout + 2) := by
  rw [List.length_flatMap, List.map_congr_left fun q hq => q.length_bytes (h q hq), List.map_const', List.sum_replicate, smul_eq_mul]

/-- The link status (Table 05-4). -/
def TrbFrame.status (f : TrbFrame) : Nat := ofBool f.rla + 2 * ofBool f.farBad

theorem TrbFrame.status_lt (f : TrbFrame) : f.status < 256 ^ 2 := (pair_lt f.rla f.farBad).trans (by decide)

/-- A frame whose fields the format admits. -/
structure TrbFrame.Fits (f : TrbFrame) : Prop where
  layout : f.layout ≤ 1
  counter : f.counter < 256
  length_slots : f.slots.length = trbSlots f.layout
  slots : ∀ q ∈ f.slots, q.Fits f.layout

/-- What is scrambled of a frame before its check: status, four reserved bytes, slots, and zeros up to byte 4,855. -/
def TrbFrame.covered (f : TrbFrame) : List Nat :=
  beBytes 2 f.status ++ ([0, 0, 0, 0] ++ (f.slots.flatMap TrbSlot.bytes ++
    List.replicate (4844 - (f.slots.flatMap TrbSlot.bytes).length) 0))

theorem TrbFrame.body_eq (f : TrbFrame) : f.body = [f.layout, f.counter] ++ f.covered := by
  have hslots : f.slots.flatMap (fun q => beBytes 2 q.control ++ q.data) = f.slots.flatMap TrbSlot.bytes := rfl
  rw [TrbFrame.body, TrbFrame.covered, TrbFrame.status, hslots]
  generalize f.slots.flatMap TrbSlot.bytes = slots
  simp
  omega

theorem TrbFrame.length_covered {f : TrbFrame} (h : f.Fits) : f.covered.length = 4850 := by
  have hlen := length_slots_bytes h.slots
  have hroom : (f.slots.flatMap TrbSlot.bytes).length ≤ 4844 := by
    rw [hlen, h.length_slots]
    unfold trbSlots slotBytes
    split <;> decide
  simp only [TrbFrame.covered, List.length_append, length_beBytes, List.length_cons, List.length_nil, List.length_replicate]
  omega

theorem TrbFrame.isBytes_body {f : TrbFrame} (h : f.Fits) : IsBytes f.body := by
  have hlayout : f.layout < 256 := h.layout.trans_lt (by decide)
  have hslots : IsBytes (f.slots.flatMap TrbSlot.bytes) := isBytes_flatMap fun q hq => q.isBytes_bytes (h.slots q hq)
  simp [TrbFrame.body_eq, TrbFrame.covered, hlayout, h.counter, hslots]

/-- A frame is its word, its two plain bytes, and the scrambled rest with its check (R145 to R148). -/
theorem TrbFrame.bytes_eq (f : TrbFrame) :
    f.bytes = trbWord ++ ([f.layout, f.counter] ++ addScramble (trbSeed f.counter) (f.covered ++ beBytes 4 (crc32c f.body))) := by
  simp [TrbFrame.bytes, TrbFrame.body_eq]

theorem TrbFrame.length_bytes {f : TrbFrame} (h : f.Fits) : f.bytes.length = 4860 := by
  simp [TrbFrame.bytes_eq, trbWord, TrbFrame.length_covered h]

/-- What is scrambled of a frame: what the check covers of it, and the check. -/
def TrbFrame.plain (f : TrbFrame) : List Nat := f.covered ++ beBytes 4 (crc32c f.body)

theorem TrbFrame.plain_status (f : TrbFrame) : beNum (f.plain.take 2) = f.status := by
  rw [TrbFrame.plain, TrbFrame.covered, List.append_assoc, List.take_left' (length_beBytes 2 _), beNum_beBytes f.status_lt]

theorem TrbFrame.plain_slots {f : TrbFrame} (h : f.Fits) : readSlots f.layout (trbSlots f.layout) (f.plain.drop 6) = f.slots := by
  have hhead : (beBytes 2 f.status ++ [0, 0, 0, 0]).length = 6 := by simp
  rw [TrbFrame.plain, TrbFrame.covered, List.append_assoc, List.append_assoc, List.append_assoc, ← List.append_assoc (beBytes 2 _),
    List.drop_left' hhead, ← h.length_slots, readSlots_bytes _ h.slots]

theorem TrbFrame.plain_check {f : TrbFrame} (h : f.Fits) :
    beNum (f.plain.drop 4850) = crc32c ([f.layout, f.counter] ++ f.plain.take 4850) := by
  have hlen := TrbFrame.length_covered h
  rw [TrbFrame.plain, List.drop_left' hlen, List.take_left' hlen, ← TrbFrame.body_eq,
    beNum_beBytes (crc32c_lt (TrbFrame.isBytes_body h))]

theorem readTrb_bytes {f : TrbFrame} (hword : f.word = true) (hcrc : f.crcOk = true) (h : f.Fits) :
    readTrb f.layout f.bytes = f := by
  have hhead : f.bytes.take 4 = trbWord ∧ f.bytes.getD 4 0 = f.layout ∧ f.bytes.getD 5 0 = f.counter ∧
      cut f.bytes 4 2 = [f.layout, f.counter] := ⟨rfl, rfl, rfl, rfl⟩
  obtain ⟨htake, hlayout, hcounter, hcut⟩ := hhead
  have hplain : addScramble (trbSeed f.counter) (f.bytes.drop 6) = f.plain := by
    rw [TrbFrame.bytes_eq]
    exact addScramble_addScramble (trbSeed f.counter) f.plain
  obtain ⟨hrla, hfar⟩ : bitOf f.status 0 = f.rla ∧ bitOf f.status 1 = f.farBad := bitOf_pair f.rla f.farBad
  simp only [readTrb, htake, hlayout, hcounter, hcut, hplain, f.plain_status, TrbFrame.plain_slots h, TrbFrame.plain_check h, hrla,
    hfar, beq_self_eq_true]
  cases f
  simp only at hword hcrc
  subst hword hcrc
  rfl

/-! ### Ralale frames (R169 to R174, R181) -/

/-- A frame whose fields the format admits. -/
structure RlkFrame.Fits (f : RlkFrame) : Prop where
  count : f.count < 256
  unit : f.unit < 2
  linkId : f.linkId < 256 ^ 2
  ql : f.ql < 16
  txStamp : f.txStamp < 256 ^ 4
  length_rc : f.rc.length = 5
  rc : ∀ n ∈ f.rc, n < 256 ^ 4
  worstCid : f.worstCid < 256 ^ 2
  worstCnt : f.worstCnt < 256 ^ 2
  echoStamp : f.echoStamp < 256 ^ 4
  echoAge : f.echoAge < 256 ^ 4

/-- The overhead that its CRC-16 covers (Table 06-4). -/
def RlkFrame.covered (f : RlkFrame) : List Nat :=
  beBytes 2 f.linkId ++ (f.ql :: (ofBool f.rdi + 2 * ofBool f.dgasp) :: (beBytes 4 f.txStamp ++ (f.rc.flatMap (beBytes 4) ++
    (beBytes 2 f.worstCid ++ (beBytes 2 f.worstCnt ++ (beBytes 4 f.echoStamp ++ (beBytes 4 f.echoAge ++ List.replicate 14 0)))))))

/-- Byte 5 of the marker: the unit and whether it is paired (Table 06-3). -/
def RlkFrame.sender (f : RlkFrame) : Nat := f.unit * 128 + ofBool f.paired * 64

theorem RlkFrame.bytes_eq (f : RlkFrame) : f.markerBytes ++ f.overheadBytes = markedFrame markerWord f.count f.sender f.covered := by
  simp [RlkFrame.markerBytes, RlkFrame.overheadBytes, markedFrame, RlkFrame.sender, RlkFrame.covered]

theorem RlkFrame.sender_reads {f : RlkFrame} (h : f.Fits) :
    f.sender < 256 ∧ f.sender / 128 % 2 = f.unit ∧ bitOf f.sender 6 = f.paired := by
  have hunit := h.unit
  have hpaired := ofBool_lt f.paired
  refine ⟨by unfold RlkFrame.sender; omega, by unfold RlkFrame.sender; omega, ?_⟩
  rw [← bitOf_flag (k := 6) (lo := 0) f.unit f.paired (by decide), RlkFrame.sender]
  congr 1
  omega

theorem RlkFrame.length_covered {f : RlkFrame} (h : f.Fits) : f.covered.length = 54 := by
  have hrc : (f.rc.flatMap (beBytes 4)).length = 20 := by simp [List.length_flatMap, h.length_rc]
  simp [RlkFrame.covered, hrc]

theorem RlkFrame.isBytes_covered {f : RlkFrame} (h : f.Fits) : IsBytes f.covered := by
  have hql : f.ql < 256 := h.ql.trans (by decide)
  have hrc : IsBytes (f.rc.flatMap (beBytes 4)) := isBytes_flatMap fun n _ => isBytes_beBytes 4 n
  simp [RlkFrame.covered, hql, hrc, pair_lt]

theorem RlkFrame.length_blocks {f : RlkFrame} (h : f.Fits) (ek : Bool) (prior : Nat) : (f.blocks ek prior).length = 8 := by
  rw [RlkFrame.blocks, RlkFrame.bytes_eq, length_sendBlocks, length_markedFrame rfl, RlkFrame.length_covered h]

theorem RlkFrame.plainBytes_blocks {f : RlkFrame} (h : f.Fits) (ek : Bool) (prior : Nat) :
    plainBytes prior (f.blocks ek prior) = markedFrame markerWord f.count f.sender f.covered := by
  have hlen : (markedFrame markerWord f.count f.sender f.covered).length = 64 := by
    rw [length_markedFrame rfl, RlkFrame.length_covered h]
  have hbytes : IsBytes (markedFrame markerWord f.count f.sender f.covered) :=
    isBytes_markedFrame (by simp [markerWord]) h.count (RlkFrame.sender_reads h).1 (RlkFrame.isBytes_covered h)
  rw [RlkFrame.blocks, RlkFrame.bytes_eq, plainBytes_sendBlocks _ _ hbytes (by simp [hlen])]

theorem RlkFrame.rc_eq {f : RlkFrame} (h : f.Fits) : ∃ a b c d e, f.rc = [a, b, c, d, e] :=
  match f.rc, h.length_rc with
  | [a, b, c, d, e], _ => ⟨a, b, c, d, e, rfl⟩

/-- Every field of the overhead is read at its place (Table 06-4). -/
theorem readRlk_overhead {f : RlkFrame} (h : f.Fits) {o check : List Nat} (ho : o = f.covered ++ check) :
    beNum (cut o 0 2) = f.linkId ∧ o.getD 2 0 % 16 = f.ql ∧ bitOf (o.getD 3 0) 0 = f.rdi ∧ bitOf (o.getD 3 0) 1 = f.dgasp ∧
      beNum (cut o 4 4) = f.txStamp ∧
      [beNum (cut o 8 4), beNum (cut o 12 4), beNum (cut o 16 4), beNum (cut o 20 4), beNum (cut o 24 4)] = f.rc ∧
      beNum (cut o 28 2) = f.worstCid ∧ beNum (cut o 30 2) = f.worstCnt ∧ beNum (cut o 32 4) = f.echoStamp ∧
      beNum (cut o 36 4) = f.echoAge := by
  obtain ⟨a, b, c, d, e, hrc⟩ := f.rc_eq h
  have hcounts : ∀ n ∈ [a, b, c, d, e], beNum (beBytes 4 n) = n := fun n hn => beNum_beBytes (h.rc n (hrc ▸ hn))
  simp only [List.forall_mem_cons] at hcounts
  simp [ho, RlkFrame.covered, hrc, hcounts, bitOf_pair, Nat.mod_eq_of_lt h.ql, beNum_beBytes h.linkId, beNum_beBytes h.txStamp,
    beNum_beBytes h.worstCid, beNum_beBytes h.worstCnt, beNum_beBytes h.echoStamp, beNum_beBytes h.echoAge]

theorem readRlk_blocks {f : RlkFrame} (hmark : f.marker = true) (hmarkCrc : f.markCrc = true) (hohCrc : f.ohCrc = true)
    (h : f.Fits) (ek : Bool) (prior : Nat) : readRlk ek prior (f.blocks ek prior) = f := by
  have hplain := RlkFrame.plainBytes_blocks h ek prior
  obtain ⟨first, rest, hcons⟩ : ∃ first rest, f.blocks ek prior = ⟨if ek then 1 else 2, first⟩ :: rest :=
    sendBlocks_eq_cons _ _ (by simp [RlkFrame.bytes_eq, length_markedFrame (word := markerWord) rfl]; omega)
  rw [hcons] at hplain ⊢
  have hcheck := crc16_check [] (RlkFrame.length_covered h)
  rw [List.append_nil] at hcheck
  obtain ⟨-, hunit, hpaired⟩ := RlkFrame.sender_reads h
  obtain ⟨hlinkId, hql, hrdi, hdgasp, htxStamp, hrc, hworstCid, hworstCnt, hechoStamp, hechoAge⟩ :=
    readRlk_overhead h (check := beBytes 2 (crc16 f.covered)) rfl
  have hword : markerWord.length = 4 := rfl
  simp only [readRlk, hplain, markedFrame_word hword, markedFrame_first hword, markedFrame_second hword, markedFrame_check hword,
    markedFrame_overhead hword, hcheck, hunit, hpaired, hlinkId, hql, hrdi, hdgasp, htxStamp, hrc, hworstCid, hworstCnt,
    hechoStamp, hechoAge, beq_self_eq_true, Bool.and_self]
  cases f
  simp only at hmark hmarkCrc hohCrc
  subst hmark hmarkCrc hohCrc
  rfl

/-! ### Tubs (R172, R174, R180, R181) -/

/-- A tub whose fields the format admits. -/
structure Tub.Fits (u : Tub) : Prop where
  cid : u.cid < 256 ^ 2
  seq : u.seq < 256 ^ 2
  vbc : u.vbc < 256
  length_data : u.data.length = 56
  data : IsBytes u.data

/-- A tub's flags (Table 06-6). -/
def Tub.flags (u : Tub) : Nat :=
  128 * ofBool u.sop + 64 * ofBool u.eop + 32 * ofBool u.csf + 16 * ofBool u.abort + 8 * ofBool u.resync

theorem Tub.flags_read (u : Tub) :
    u.flags < 256 ∧ bitOf u.flags 7 = u.sop ∧ bitOf u.flags 6 = u.eop ∧ bitOf u.flags 5 = u.csf ∧ bitOf u.flags 4 = u.abort ∧
      bitOf u.flags 3 = u.resync := by
  have hall : ∀ sop eop csf abort resync : Bool,
      let n := 128 * ofBool sop + 64 * ofBool eop + 32 * ofBool csf + 16 * ofBool abort + 8 * ofBool resync
      n < 256 ∧ bitOf n 7 = sop ∧ bitOf n 6 = eop ∧ bitOf n 5 = csf ∧ bitOf n 4 = abort ∧ bitOf n 3 = resync := by decide
  exact hall u.sop u.eop u.csf u.abort u.resync

/-- The six bytes that HCRC covers. -/
def Tub.header (u : Tub) : List Nat := beBytes 2 u.cid ++ (beBytes 2 u.seq ++ [u.flags, u.vbc])

@[simp] theorem Tub.length_header (u : Tub) : u.header.length = 6 := by simp [Tub.header]

theorem Tub.bytes_eq (u : Tub) : u.bytes = u.header ++ (beBytes 2 (crc16 u.header) ++ u.data) := by
  simp [Tub.bytes, Tub.header, Tub.flags]

theorem Tub.length_bytes {u : Tub} (h : u.Fits) : u.bytes.length = 64 := by
  simp [Tub.bytes_eq, h.length_data]

theorem Tub.isBytes_bytes {u : Tub} (h : u.Fits) : IsBytes u.bytes := by
  simp [Tub.bytes_eq, Tub.header, u.flags_read.1, h.vbc, h.data]

theorem Tub.length_blocks {u : Tub} (h : u.Fits) (prior : Nat) : (u.blocks prior).length = 8 := by
  rw [Tub.blocks, length_sendBlocks, Tub.length_bytes h]

/-- Every field of the header is read at its place (Table 06-5). -/
theorem readTub_header {u : Tub} (h : u.Fits) {b rest : List Nat} (hb : b = u.header ++ rest) :
    beNum (b.take 2) = u.cid ∧ beNum (cut b 2 2) = u.seq ∧ b.getD 4 0 = u.flags ∧ b.getD 5 0 = u.vbc := by
  have hcid : b.take 2 = beBytes 2 u.cid := by
    rw [hb, Tub.header, List.append_assoc, List.take_left' (length_beBytes 2 _)]
  rw [hcid, beNum_beBytes h.cid]
  simp [hb, Tub.header, beNum_beBytes h.seq]

theorem readTub_blocks {u : Tub} (hhcrc : u.hcrc = true) (h : u.Fits) (prior : Nat) : readTub prior (u.blocks prior) = u := by
  have hplain : plainBytes prior (u.blocks prior) = u.bytes :=
    plainBytes_sendBlocks 1 prior (Tub.isBytes_bytes h) (by simp [Tub.length_bytes h])
  have hcheck : crc16 (u.bytes.take 6) = beNum (cut u.bytes 6 2) := by
    rw [Tub.bytes_eq]
    exact crc16_check u.data u.length_header
  have hdata : u.bytes.drop 8 = u.data := by
    rw [Tub.bytes_eq, ← List.append_assoc, List.drop_left' (by simp)]
  obtain ⟨hcid, hseq, hflags, hvbc⟩ := readTub_header h u.bytes_eq
  obtain ⟨-, hsop, heop, hcsf, habort, hresync⟩ := u.flags_read
  simp only [readTub, hplain, hcheck, hdata, hcid, hseq, hflags, hvbc, hsop, heop, hcsf, habort, hresync, beq_self_eq_true]
  cases u
  simp only at hhcrc
  subst hhcrc
  rfl

end Sys2Proof.Machine
end

section
/-! PROOFS. The mate frame, the carriage stream, the GFP core header, the transfer unit and the pin word, each from its writer to its
reader, and with them all line formats. -/

namespace Sys2Proof.Machine

/-! ### Mate frames (R387) -/

/-- A mate frame whose fields the format admits. -/
structure MateFrame.Fits (f : MateFrame) : Prop where
  laneNo : f.laneNo < 8
  unit : f.unit < 2
  role : f.role < 256
  cycle : f.cycle < 256 ^ 6
  parState : f.parState < 8
  ql : f.ql < 16
  echoCycle : f.echoCycle < 256 ^ 4
  echoNs : f.echoNs < 256 ^ 4
  inSync : f.inSync < 256
  timSel : f.timSel < 256

/-- The pair's state and its three flags (Table 12-1). -/
def MateFrame.status (f : MateFrame) : Nat :=
  f.parState + 8 * ofBool f.authority + 16 * ofBool f.faulted + 32 * ofBool f.healthy

theorem MateFrame.status_reads {f : MateFrame} (h : f.Fits) :
    f.status < 256 ∧ f.status % 8 = f.parState ∧ bitOf f.status 3 = f.authority ∧ bitOf f.status 4 = f.faulted ∧
      bitOf f.status 5 = f.healthy := by
  have hall : ∀ n < 8, ∀ authority faulted healthy : Bool,
      let st := n + 8 * ofBool authority + 16 * ofBool faulted + 32 * ofBool healthy
      st < 256 ∧ st % 8 = n ∧ bitOf st 3 = authority ∧ bitOf st 4 = faulted ∧ bitOf st 5 = healthy := by decide
  exact hall f.parState h.parState f.authority f.faulted f.healthy

/-- Byte 4 of the marker: lane and unit (Table 12-1). -/
def MateFrame.sender (f : MateFrame) : Nat := f.laneNo + 128 * f.unit

theorem MateFrame.sender_reads {f : MateFrame} (h : f.Fits) :
    f.sender < 256 ∧ f.sender % 8 = f.laneNo ∧ f.sender / 128 % 2 = f.unit := by
  have hlane := h.laneNo
  have hunit := h.unit
  unfold MateFrame.sender
  omega

/-- The overhead that its CRC-16 covers (Table 12-1). -/
def MateFrame.covered (f : MateFrame) : List Nat :=
  beBytes 6 f.cycle ++ (f.status :: f.ql :: (beBytes 4 f.echoCycle ++ (beBytes 4 f.echoNs ++ [f.inSync, f.timSel, 0, 0, 0, 0])))

@[simp] theorem MateFrame.length_covered (f : MateFrame) : f.covered.length = 22 := by simp [MateFrame.covered]

theorem MateFrame.bytes_eq (f : MateFrame) : f.bytes = markedFrame mateWord f.sender f.role f.covered := by
  simp [MateFrame.bytes, markedFrame, MateFrame.sender, MateFrame.covered, MateFrame.status]

theorem MateFrame.length_bytes (f : MateFrame) : f.bytes.length = 32 := by
  rw [MateFrame.bytes_eq, length_markedFrame rfl, MateFrame.length_covered]

theorem MateFrame.isBytes_bytes {f : MateFrame} (h : f.Fits) : IsBytes f.bytes := by
  have hql : f.ql < 256 := h.ql.trans (by decide)
  rw [MateFrame.bytes_eq]
  refine isBytes_markedFrame (by simp [mateWord]) (MateFrame.sender_reads h).1 h.role ?_
  simp [MateFrame.covered, (MateFrame.status_reads h).1, hql, h.inSync, h.timSel]

/-- Every field of the overhead is read at its place (Table 12-1). -/
theorem readMate_overhead {f : MateFrame} (h : f.Fits) {o check : List Nat} (ho : o = f.covered ++ check) :
    beNum (cut o 0 6) = f.cycle ∧ o.getD 6 0 = f.status ∧ o.getD 7 0 % 16 = f.ql ∧ beNum (cut o 8 4) = f.echoCycle ∧
      beNum (cut o 12 4) = f.echoNs ∧ o.getD 16 0 = f.inSync ∧ o.getD 17 0 = f.timSel := by
  simp [ho, MateFrame.covered, Nat.mod_eq_of_lt h.ql, beNum_beBytes h.cycle, beNum_beBytes h.echoCycle, beNum_beBytes h.echoNs]

theorem readMate_blocks {f : MateFrame} (hmark : f.marker = true) (hmarkCrc : f.markCrc = true) (hohCrc : f.ohCrc = true)
    (h : f.Fits) (prior : Nat) : readMate prior (f.blocks prior) = f := by
  have hplain : plainBytes prior (f.blocks prior) = markedFrame mateWord f.sender f.role f.covered := by
    rw [MateFrame.blocks, plainBytes_sendBlocks 2 prior (MateFrame.isBytes_bytes h) (by simp [MateFrame.length_bytes]),
      MateFrame.bytes_eq]
  obtain ⟨first, rest, hcons⟩ : ∃ first rest, f.blocks prior = ⟨2, first⟩ :: rest :=
    sendBlocks_eq_cons _ _ (by simp [MateFrame.length_bytes])
  rw [hcons] at hplain ⊢
  have hcheck := crc16_check [] f.length_covered
  rw [List.append_nil] at hcheck
  have hword : mateWord.length = 4 := rfl
  obtain ⟨-, hlane, hunit⟩ := MateFrame.sender_reads h
  obtain ⟨-, hparState, hauthority, hfaulted, hhealthy⟩ := MateFrame.status_reads h
  obtain ⟨hcycle, hstatus, hql, hechoCycle, hechoNs, hinSync, htimSel⟩ :=
    readMate_overhead h (check := beBytes 2 (crc16 f.covered)) rfl
  simp only [readMate, hplain, markedFrame_word hword, markedFrame_first hword, markedFrame_second hword, markedFrame_check hword,
    markedFrame_overhead hword, hcheck, hlane, hunit, hcycle, hstatus, hparState, hauthority, hfaulted, hhealthy, hql, hechoCycle,
    hechoNs, hinSync, htimSel, beq_self_eq_true, Bool.and_self]
  cases f
  simp only at hmark hmarkCrc hohCrc
  subst hmark hmarkCrc hohCrc
  rfl

/-! ### Carriage streams (R282) -/

/-- A carriage whose fields the format admits. -/
structure Carriage.Fits (c : Carriage) : Prop where
  tag : c.tag < 256 ^ 16
  iv : c.iv < 256 ^ 6
  epoch : c.epoch < 256 ^ 2
  next : c.next < 256 ^ 2
  flags : c.flags < 256
  len : c.len < 256
  mseq : c.mseq < 256 ^ 4

/-- The 60 bytes that the stream's CRC-32C covers. -/
def Carriage.covered (c : Carriage) : List Nat :=
  beBytes 16 c.tag ++ (beBytes 6 c.iv ++ (beBytes 2 c.epoch ++ (beBytes 2 c.next ++ (c.flags :: c.len :: (beBytes 4 c.mseq ++
    List.replicate 28 0)))))

@[simp] theorem Carriage.length_covered (c : Carriage) : c.covered.length = 60 := by simp [Carriage.covered]

theorem Carriage.bytes_eq (c : Carriage) : c.bytes = c.covered ++ beBytes 4 (crc32c c.covered) := by
  simp [Carriage.bytes, Carriage.aad, Carriage.covered]

@[simp] theorem Carriage.length_bytes (c : Carriage) : c.bytes.length = 64 := by simp [Carriage.bytes_eq]

theorem copyOk_bytes {c : Carriage} (h : c.Fits) : copyOk c.bytes = true := by
  have hbytes : IsBytes c.covered := by simp [Carriage.covered, h.flags, h.len]
  have hcheck : crc32c (c.bytes.take 60) = beNum (c.bytes.drop 60) := by
    rw [Carriage.bytes_eq, List.take_left' c.length_covered, List.drop_left' c.length_covered, beNum_beBytes (crc32c_lt hbytes)]
  simp [copyOk, hcheck]

/-- The first 64 bytes of a stream are its first copy. -/
theorem streamCopies_append {a : List Nat} (b : List Nat) (h : a.length = 64) : streamCopies (a ++ b) = a :: streamCopies b := by
  have hcount : (a ++ b).length / 64 = b.length / 64 + 1 := by
    rw [List.length_append, h, Nat.add_div_left _ (by decide)]
  have hnext (i : Nat) : cut (a ++ b) (64 * (i + 1)) 64 = cut b (64 * i) 64 := by
    rw [cut_append_right _ _ (by omega), h, Nat.mul_succ, Nat.add_sub_cancel]
  simp only [streamCopies, hcount, List.range_succ_eq_map, List.map_cons, List.map_map, Nat.mul_zero, cut_append_left b h]
  congr 1
  exact List.map_congr_left fun i _ => hnext i

theorem streamCopies_single {a : List Nat} (h : a.length = 64) : streamCopies a = [a] := by
  rw [← List.append_nil a, streamCopies_append [] h, List.append_nil]
  rfl

/-- A copy that fails its check is passed over (R282). -/
theorem readCarriage_append_bad {bad : List Nat} (b : List Nat) (h : bad.length = 64) (hbad : copyOk bad = false) :
    readCarriage (bad ++ b) = readCarriage b := by
  simp only [readCarriage, streamCopies_append b h, List.find?_cons, hbad]

theorem readCarriage_bad {bad : List Nat} (h : bad.length = 64) (hbad : copyOk bad = false) : readCarriage bad = none := by
  simp only [readCarriage, streamCopies_single h, List.find?_cons, hbad, List.find?_nil, Option.map_none]

/-- A copy that passes is the one read, whatever follows it (R282). -/
theorem readCarriage_append_good {a : List Nat} (b : List Nat) (h : a.length = 64) (hok : copyOk a = true) :
    readCarriage (a ++ b) = readCarriage a := by
  simp only [readCarriage, streamCopies_append b h, streamCopies_single h, List.find?_cons, hok]

theorem readCarriage_bytes {c : Carriage} (h : c.Fits) : readCarriage c.bytes = some c := by
  simp only [readCarriage, streamCopies_single c.length_bytes, List.find?_cons, copyOk_bytes h, Option.map_some]
  simp [Carriage.bytes_eq, Carriage.covered, beNum_beBytes h.tag, beNum_beBytes h.iv, beNum_beBytes h.epoch, beNum_beBytes h.next,
    beNum_beBytes h.mseq]

/-! ### GFP core headers (R265) -/

/-- The two halves of a core header ahead of the XOR: PLI and its HEC. -/
theorem core_halves (pli : Nat) :
    (pli * 65536 + crc16From 0 (beBytes 2 pli)) / 65536 = pli ∧
      (pli * 65536 + crc16From 0 (beBytes 2 pli)) % 65536 = crc16From 0 (beBytes 2 pli) := by
  have hcrc : crc16From 0 (beBytes 2 pli) < 65536 := crc16From_lt _ (by decide)
  omega

theorem readCore_sendCore (pli : Nat) : readCore (sendCore pli) = .good pli := by
  obtain ⟨hpli, hhec⟩ := core_halves pli
  simp only [readCore, sendCore, xor_xor_cancel, hecOk, hpli, hhec, beq_self_eq_true, if_true]

/-! ### Transfer units (R542) -/

/-- The eight bytes ahead of a transfer unit's data (Table 17-5). -/
def xferHead (alive typ length : Nat) : List Nat := leBytes 4 length ++ [alive, typ, 0, 0]

@[simp] theorem length_xferHead (alive typ length : Nat) : (xferHead alive typ length).length = 8 := by simp [xferHead]

theorem xferBytes_eq (alive typ : Nat) (data : List Nat) :
    xferBytes alive typ data =
      xferHead alive typ data.length ++ (data ++ leBytes 4 (crc32c (xferHead alive typ data.length ++ data))) := by
  simp [xferBytes, xferHead]

theorem readXfer_xferBytes {alive typ : Nat} {data : List Nat} (halive : alive < 256) (htyp : typ < 256)
    (hlen : data.length < 256 ^ 4) (hdata : IsBytes data) :
    readXfer (xferBytes alive typ data) =
      { length := data.length, alive := alive, typ := typ, data := data, crcOk := true } := by
  set head := xferHead alive typ data.length with hhead
  set check := leBytes 4 (crc32c (head ++ data)) with hcheck
  have hbytes : xferBytes alive typ data = head ++ (data ++ check) := xferBytes_eq alive typ data
  have hhead8 : head.length = 8 := length_xferHead alive typ data.length
  have hbefore : (head ++ data).length = 8 + data.length := by rw [List.length_append, hhead8]
  have hlength : leNum ((xferBytes alive typ data).take 4) = data.length := by
    rw [hbytes, hhead, xferHead, List.append_assoc, List.take_left' (length_leBytes 4 _), leNum_leBytes hlen]
  have hdataRead : slice (xferBytes alive typ data) 8 data.length = data := by
    rw [hbytes, slice, List.drop_left' hhead8, List.take_left]
  have hcheckRead : leNum (slice (xferBytes alive typ data) (8 + data.length) 4) = crc32c (head ++ data) := by
    have hcrc : crc32c (head ++ data) < 256 ^ 4 :=
      crc32c_lt (by simp [hhead, xferHead, halive, htyp, hdata])
    rw [hbytes, ← List.append_assoc, slice, List.drop_left' hbefore, hcheck, List.take_of_length_le (by simp), leNum_leBytes hcrc]
  have hcovered : (xferBytes alive typ data).take (8 + data.length) = head ++ data := by
    rw [hbytes, ← List.append_assoc, List.take_left' hbefore]
  have htotal : (xferBytes alive typ data).length = 12 + data.length := by
    rw [hbytes, List.length_append, List.length_append, hhead8, hcheck, length_leBytes]
    omega
  have hbyte4 : (xferBytes alive typ data).getD 4 0 = alive := rfl
  have hbyte5 : (xferBytes alive typ data).getD 5 0 = typ := rfl
  simp only [readXfer, hlength, hdataRead, hcheckRead, hcovered, htotal, hbyte4, hbyte5, beq_self_eq_true, Bool.and_self]

/-! ### Pin words (R401) -/

theorem unManchester_pairs (l : List Bool) : unManchester (l.flatMap fun b => [b, !b]) = some l := by
  induction l with
  | nil => rfl
  | cons b l ih => simp [unManchester, ih]

theorem ofMsb_append (l : List Bool) (b : Bool) : ofMsb (l ++ [b]) = 2 * ofMsb l + ofBool b := by
  simp [ofMsb, List.foldl_append]

/-- The low bits of a number, most significant first, spell it modulo their weight. -/
theorem ofMsb_bits (n w : Nat) : ofMsb ((List.range n).map fun i => bitOf w (n - 1 - i)) = w % 2 ^ n := by
  induction n generalizing w with
  | zero => simp [ofMsb, Nat.mod_one]
  | succ n ih =>
    have hhigh : (List.range n).map (fun i => bitOf w (n - i)) = (List.range n).map fun i => bitOf (w / 2) (n - 1 - i) := by
      refine List.map_congr_left fun i hi => ?_
      have hin : i < n := List.mem_range.1 hi
      have hpos : n - i = n - 1 - i + 1 := by omega
      rw [hpos, bitOf, bitOf, Nat.pow_succ', Nat.div_div_eq_div_mul]
    have hlast : ofBool (bitOf w 0) = w % 2 := by
      rcases Nat.mod_two_eq_zero_or_one w with h | h <;> simp [bitOf, ofBool, h]
    simp only [List.range_succ, List.map_append, List.map_cons, List.map_nil, ofMsb_append, Nat.add_sub_cancel, hhigh, ih,
      Nat.sub_self, hlast]
    rw [Nat.pow_succ', Nat.mod_mul]
    omega

theorem length_pinChips (w : Nat) : (pinChips w).length = 68 := by
  simp [pinChips, List.length_flatMap, Function.comp_def]

theorem readChips_pinChips {w : Nat} (h : w < 2 ^ 32) : readChips (pinChips w) = some w := by
  have hbits := ofMsb_bits 32 w
  rw [Nat.mod_eq_of_lt h] at hbits
  have htop : (pinChips w).take 4 = List.replicate 4 true := List.take_left' rfl
  have hrest : (pinChips w).drop 4 = ((List.range 32).map fun i => bitOf w (31 - i)).flatMap fun b => [b, !b] :=
    List.drop_left' rfl
  rw [readChips, if_pos htop, hrest, unManchester_pairs, Option.map_some]
  exact congrArg some hbits

/-! ### All formats -/

/-- Settles O60: each format's reader undoes its writer, since scrambling is undone, every check covers what was written, and each
field is read at the place where it was put. -/
theorem lineFormatsReadBack : Obligations.LineFormatsReadBack := by
  unfold Obligations.LineFormatsReadBack
  refine ⟨?trb, ?rlk, ?tub, ?mate, ?carriage, ?core, ?xfer, ?pin⟩
  case trb =>
    intro f hword hcrc hlayout hcounter hlen hslots
    have hfit : ∀ q ∈ f.slots, q.Fits f.layout := by
      intro q hq
      obtain ⟨hcount, hdataLen, hdata⟩ := hslots q hq
      exact ⟨hcount, hdataLen, hdata⟩
    have h : f.Fits := ⟨hlayout, hcounter, hlen, hfit⟩
    exact ⟨TrbFrame.length_bytes h, readTrb_bytes hword hcrc h⟩
  case rlk =>
    intro f ek prior hmark hmarkCrc hohCrc hcount hunit hlinkId hql htxStamp hlen hrc hworstCid hworstCnt hechoStamp hechoAge _
    have h : f.Fits := ⟨hcount, hunit, hlinkId, hql, htxStamp, hlen, hrc, hworstCid, hworstCnt, hechoStamp, hechoAge⟩
    exact ⟨RlkFrame.length_blocks h ek prior, readRlk_blocks hmark hmarkCrc hohCrc h ek prior⟩
  case tub =>
    intro u prior hhcrc hcid hseq hvbc hlen hdata _
    have h : u.Fits := ⟨hcid, hseq, hvbc, hlen, hdata⟩
    exact ⟨Tub.length_blocks h prior, readTub_blocks hhcrc h prior⟩
  case mate =>
    intro f prior hmark hmarkCrc hohCrc hlane hunit hrole hcycle hparState hql hechoCycle hechoNs hinSync htimSel _
    have h : f.Fits := ⟨hlane, hunit, hrole, hcycle, hparState, hql, hechoCycle, hechoNs, hinSync, htimSel⟩
    exact readMate_blocks hmark hmarkCrc hohCrc h prior
  case carriage =>
    intro c bad rest htag hiv hepoch hnext hflags hlen hmseq hbadLen hbad
    have h : c.Fits := ⟨htag, hiv, hepoch, hnext, hflags, hlen, hmseq⟩
    have hread : readCarriage (c.bytes ++ rest) = some c := by
      rw [readCarriage_append_good rest c.length_bytes (copyOk_bytes h), readCarriage_bytes h]
    refine ⟨hread, ?_, readCarriage_bad hbadLen hbad⟩
    rw [List.append_assoc, readCarriage_append_bad _ hbadLen hbad, hread]
  case core => exact fun pli _ => readCore_sendCore pli
  case xfer => exact fun alive typ data halive htyp hlen hdata => readXfer_xferBytes halive htyp hlen hdata
  case pin => exact fun w hw => ⟨length_pinChips w, readChips_pinChips hw⟩

end Sys2Proof.Machine
end

section
/-! PROOFS. How a ring's index counts the passes round its ring: the records written at it carry their pass, each moves it on by
one, and the ring's enabling begins it at 0 (R452, R453). -/

namespace Sys2Proof.Machine

/-! ### Alive counters -/

theorem aliveOf_lt (idx size : Nat) : aliveOf idx size < 256 := by
  unfold aliveOf; omega

/-- The same slot's next entry belongs to the next pass, whose counter differs. -/
theorem aliveOf_next_pass {size : Nat} (h : 0 < size) (idx : Nat) : aliveOf (idx + size) size ≠ aliveOf idx size := by
  unfold aliveOf
  rw [Nat.add_div_right idx h]
  omega

/-- Completion and event records begin with a 2-byte number and a byte, before the alive counter (Tables 14-5 and 14-17). -/
theorem record_alive (a x alive : Nat) (rest : List Nat) : (leBytes 2 a ++ ([x, alive] ++ rest))[3]? = some alive := rfl

theorem CplRec.bytes_alive (c : CplRec) (alive : Nat) : (c.bytes alive)[3]? = some alive := by
  unfold CplRec.bytes
  simp only [List.append_assoc, record_alive]

theorem EvRec.bytes_alive (r : EvRec) (alive : Nat) : (r.bytes alive)[3]? = some alive := by
  unfold EvRec.bytes
  simp only [List.append_assoc, record_alive]

/-! ### Indices counted on past 2³² -/

theorem IoSt.wr_rd (io : IoSt) (f g : Fld) (i j v : Nat) :
    (io.wr f i v).rd g j = if g.key j = f.key i then v % 2 ^ f.width else io.rd g j := by
  unfold IoSt.wr IoSt.rd
  simp only [tfind_tset]
  split <;> rfl

@[simp] theorem IoSt.wr_rd_same (io : IoSt) (f : Fld) (i v : Nat) : (io.wr f i v).rd f i = v % 2 ^ f.width := by
  rw [IoSt.wr_rd, if_pos rfl]

theorem IoSt.wr_rd_other (io : IoSt) (f g : Fld) (i j v : Nat) (h : g.key j ≠ f.key i) : (io.wr f i v).rd g j = io.rd g j := by
  rw [IoSt.wr_rd, if_neg h]

/-- A 32-bit index that moves on by one, with its lap counted as it comes round to 0, moves on by one in full. -/
theorem IoSt.full_lap (io : IoSt) (f : Fld) (i : Nat) {p : Nat} (hp : p < 2 ^ 32) :
    (io.lap f i p).full f i ((p + 1) % 2 ^ 32) = io.full f i p + 1 := by
  unfold IoSt.lap
  split
  case isTrue hround =>
    have hlast : p + 1 = 2 ^ 32 := by omega
    simp only [IoSt.full, tmod, tget_tset, if_pos, hround]
    omega
  case isFalse hround =>
    unfold IoSt.full
    omega

/-- With its laps forgotten, an index of 0 is at the beginning of the first pass. -/
theorem IoSt.full_zero_of_laps_tdel {io : IoSt} {l : Tab Nat} {f : Fld} {i : Nat} (hs : tsorted l = true)
    (hl : io.laps = tdel l (f.key i)) : io.full f i 0 = 0 := by
  have hnone : tfind (tdel l (f.key i)) (f.key i) = none := by rw [tfind_tdel _ _ _ hs, if_pos rfl]
  simp [IoSt.full, hl, tget, hnone]

/-! ### A vector's count of records -/

@[simp] theorem IoSt.sendMsg_mem (io : IoSt) (v : Nat) : (io.sendMsg v).mem = io.mem := by
  unfold IoSt.sendMsg; split <;> rfl

@[simp] theorem IoSt.sendMsg_laps (io : IoSt) (v : Nat) : (io.sendMsg v).laps = io.laps := by
  unfold IoSt.sendMsg; split <;> rfl

/-- A message sent is counted, and no other field held beside changes. -/
theorem IoSt.sendMsg_rd_other (io : IoSt) {v : Nat} {f : Fld} {i : Nat} (h : f.key i ≠ Reg.HIF_VEC_MSG_CNT.key v) :
    (io.sendMsg v).rd f i = io.rd f i := by
  unfold IoSt.sendMsg
  split
  · rfl
  · exact IoSt.wr_rd_other _ _ _ _ _ _ h

@[simp] theorem State.countRecord_mem (s : State) (io : IoSt) (v : Nat) (now : Bool) : (s.countRecord io v now).mem = io.mem := by
  unfold State.countRecord; dsimp only; split <;> simp

@[simp] theorem State.countRecord_laps (s : State) (io : IoSt) (v : Nat) (now : Bool) :
    (s.countRecord io v now).laps = io.laps := by
  unfold State.countRecord; dsimp only; split <;> simp

theorem State.countRecord_rd_other (s : State) (io : IoSt) {v : Nat} (now : Bool) {f : Fld} {i : Nat}
    (h : f.key i ≠ Reg.HIF_VEC_MSG_CNT.key v) : (s.countRecord io v now).rd f i = io.rd f i := by
  unfold State.countRecord
  dsimp only
  split
  · exact IoSt.sendMsg_rd_other _ h
  · rfl

/-! ### Records put into rings -/

/-- A ring's index held beside the registers, counted on from the ring's enabling (R452, R453). -/
def IoSt.index (io : IoSt) (f : Fld) (i : Nat) : Nat := io.full f i (io.rd f i)

theorem State.countRecord_index (s : State) (io : IoSt) {v : Nat} (now : Bool) {f : Fld} {i : Nat}
    (h : f.key i ≠ Reg.HIF_VEC_MSG_CNT.key v) : (s.countRecord io v now).index f i = io.index f i := by
  unfold IoSt.index IoSt.full
  rw [State.countRecord_laps, State.countRecord_rd_other s io now h]

/-- A record is written at an address, and the index of its ring moves past it. -/
def IoSt.ringPut (io : IoSt) (f : Fld) (i a : Nat) (record : List Nat) : IoSt :=
  (({ io with mem := memWrite io.mem a record } : IoSt).wr f i (io.rd f i + 1)).lap f i (io.rd f i)

theorem IoSt.ringPut_mem (io : IoSt) (f : Fld) (i a : Nat) (record : List Nat) :
    (io.ringPut f i a record).mem = memWrite io.mem a record := IoSt.lap_mem ..

theorem IoSt.ringPut_index {io : IoSt} {f : Fld} {i : Nat} (hw : f.width = 32) (hp : io.rd f i < 2 ^ 32) (a : Nat)
    (record : List Nat) : (io.ringPut f i a record).index f i = io.index f i + 1 := by
  unfold IoSt.index IoSt.ringPut
  rw [IoSt.lap_rd, IoSt.wr_rd_same, hw, IoSt.full_lap _ _ _ hp]
  rfl

section
variable (s : State) (io : IoSt) (f : Fld) (i a : Nat) (record : List Nat) (named : Prop) [Decidable named] (v : Nat) (now : Bool)

/-- Host memory takes the record alone, whether or not the ring names a vector. -/
theorem State.counted_ringPut_mem :
    (if named then s.countRecord (io.ringPut f i a record) v now else io.ringPut f i a record).mem = memWrite io.mem a record :=
  IoSt.ite_field _ ((State.countRecord_mem ..).trans (IoSt.ringPut_mem ..)) (IoSt.ringPut_mem ..)

variable {io f i v}

/-- The ring's index moves on by one, whether or not the ring names a vector. -/
theorem State.counted_ringPut_index (hw : f.width = 32) (hp : io.rd f i < 2 ^ 32) (hv : f.key i ≠ Reg.HIF_VEC_MSG_CNT.key v) :
    (if named then s.countRecord (io.ringPut f i a record) v now else io.ringPut f i a record).index f i = io.index f i + 1 :=
  IoSt.ite_field (·.index f i) ((State.countRecord_index s _ now hv).trans (IoSt.ringPut_index hw hp a record))
    (IoSt.ringPut_index hw hp a record)

end

/-- A completion goes into the next slot of an enabled ring, and its vector counts it (R461, R471). -/
theorem State.cplPut_of_enabled {s : State} {c : CplRec} (h : s.rd Reg.HIF_CPL_EN (s.rd Reg.HIF_CMD_CPL c.ring) = 1) (io : IoSt) :
    s.cplPut io c =
      let q := s.rd Reg.HIF_CMD_CPL c.ring
      let size := 2 ^ s.rd Reg.HIF_CPL_SIZE q
      let put := io.ringPut Reg.HIF_CPL_PROD q
        (s.rd Reg.HIF_CPL_BASE_LO q + 2 ^ 32 * s.rd Reg.HIF_CPL_BASE_HI q + 32 * (io.rd Reg.HIF_CPL_PROD q % size))
        (c.bytes (aliveOf (io.index Reg.HIF_CPL_PROD q) size))
      if s.rd Reg.HIF_CPL_VEC_EN q = 1 then s.countRecord put (s.rd Reg.HIF_CPL_VEC q) false else put := by
  unfold State.cplPut
  dsimp only
  rw [if_pos h]
  rfl

/-- An event goes into the next slot of its queue, and the queue's vector counts it (R464, R471). -/
theorem State.evqPut_eq (s : State) (io : IoSt) (q : Nat) (r : EvRec) :
    s.evqPut io q r =
      let put := io.ringPut Reg.HIF_EVQ_PROD q (s.evqBase q + 32 * (io.rd Reg.HIF_EVQ_PROD q % s.evqSize q))
        (r.bytes (aliveOf (io.index Reg.HIF_EVQ_PROD q) (s.evqSize q)))
      if s.rd Reg.HIF_EVQ_VEC_EN q = 1 then s.countRecord put (s.rd Reg.HIF_EVQ_VEC q) (r.sev == 4) else put := rfl

/-- The producer indices of the CPL rings lie below the message counts of the vectors, whatever vector a ring names. -/
theorem key_cplProd_ne_vecMsgCnt {q : Nat} (hq : q < 16) (v : Nat) : Reg.HIF_CPL_PROD.key q ≠ Reg.HIF_VEC_MSG_CNT.key v := by
  simp only [Fld.key, Reg.HIF_CPL_PROD, Reg.HIF_VEC_MSG_CNT]
  omega

theorem key_evqProd_ne_vecMsgCnt {q : Nat} (hq : q < 32) (v : Nat) : Reg.HIF_EVQ_PROD.key q ≠ Reg.HIF_VEC_MSG_CNT.key v := by
  simp only [Fld.key, Reg.HIF_EVQ_PROD, Reg.HIF_VEC_MSG_CNT]
  omega

theorem State.cplPut_mem {s : State} {c : CplRec} (h : s.rd Reg.HIF_CPL_EN (s.rd Reg.HIF_CMD_CPL c.ring) = 1) (io : IoSt) :
    (s.cplPut io c).mem =
      let q := s.rd Reg.HIF_CMD_CPL c.ring
      let size := 2 ^ s.rd Reg.HIF_CPL_SIZE q
      memWrite io.mem
        (s.rd Reg.HIF_CPL_BASE_LO q + 2 ^ 32 * s.rd Reg.HIF_CPL_BASE_HI q + 32 * (io.rd Reg.HIF_CPL_PROD q % size))
        (c.bytes (aliveOf (io.index Reg.HIF_CPL_PROD q) size)) := by
  rw [State.cplPut_of_enabled h]
  exact State.counted_ringPut_mem ..

theorem State.cplPut_index {s : State} {c : CplRec} {q : Nat} (hring : q = s.rd Reg.HIF_CMD_CPL c.ring) (hq : q < 16)
    (h : s.rd Reg.HIF_CPL_EN q = 1) {io : IoSt} (hp : io.rd Reg.HIF_CPL_PROD q < 2 ^ 32) :
    (s.cplPut io c).index Reg.HIF_CPL_PROD q = io.index Reg.HIF_CPL_PROD q + 1 := by
  subst hring
  rw [State.cplPut_of_enabled h]
  exact State.counted_ringPut_index (hw := rfl) (hp := hp) (hv := key_cplProd_ne_vecMsgCnt hq _) ..

theorem State.evqPut_mem (s : State) (io : IoSt) (q : Nat) (r : EvRec) :
    (s.evqPut io q r).mem = memWrite io.mem (s.evqBase q + 32 * (io.rd Reg.HIF_EVQ_PROD q % s.evqSize q))
      (r.bytes (aliveOf (io.index Reg.HIF_EVQ_PROD q) (s.evqSize q))) := by
  rw [State.evqPut_eq]
  exact State.counted_ringPut_mem ..

theorem State.evqPut_index (s : State) {io : IoSt} {q : Nat} (hq : q < 32) (hp : io.rd Reg.HIF_EVQ_PROD q < 2 ^ 32) (r : EvRec) :
    (s.evqPut io q r).index Reg.HIF_EVQ_PROD q = io.index Reg.HIF_EVQ_PROD q + 1 := by
  rw [State.evqPut_eq]
  exact State.counted_ringPut_index (hw := rfl) (hp := hp) (hv := key_evqProd_ne_vecMsgCnt hq _) ..

/-! ### Descriptors taken from CMD rings -/

/-- A CMD ring's consumer index, counted on from the ring's enabling (R452, R453). -/
def State.cmdIndex (s : State) (n : Nat) : Nat := s.io.full Reg.HIF_CMD_CONS n (s.rd Reg.HIF_CMD_CONS n)

/-- A descriptor taken clears two status bits of its ring, which are not part of the ring's index. -/
theorem State.consume_rd_cons (s : State) (n : Nat) (d : DescIn) :
    (s.consume n d).rd Reg.HIF_CMD_CONS n = (s.rd Reg.HIF_CMD_CONS n + 1) % 2 ^ 32 := by
  have hready : Reg.HIF_CMD_CONS.key n ≠ Reg.HIF_CMD_NOT_READY.key n := by
    simp only [Fld.key, Reg.HIF_CMD_CONS, Reg.HIF_CMD_NOT_READY]; omega
  have hfenced : Reg.HIF_CMD_CONS.key n ≠ Reg.HIF_CMD_FENCED.key n := by
    simp only [Fld.key, Reg.HIF_CMD_CONS, Reg.HIF_CMD_FENCED]; omega
  unfold State.consume
  simp only [State.wrBit_eq]
  rw [State.wr_rd_other _ _ _ _ _ _ hfenced, State.wr_rd_other _ _ _ _ _ _ hready, State.wr_rd_same]
  rfl

theorem State.consume_cmdIndex {s : State} {n : Nat} (hp : s.rd Reg.HIF_CMD_CONS n < 2 ^ 32) (d : DescIn) :
    (s.consume n d).cmdIndex n = s.cmdIndex n + 1 := by
  unfold State.cmdIndex
  rw [State.consume_rd_cons]
  exact IoSt.full_lap _ _ _ hp

/-! ### Rings enabled -/

/-- A ring restarted has both indices at 0 and the laps of the device's own forgotten (R453). -/
theorem IoSt.index_restarted {io : IoSt} (hs : tsorted io.laps = true) (f g : Fld) (i : Nat) :
    ({ (io.wr f i 0).wr g i 0 with laps := tdel io.laps (f.key i) } : IoSt).index f i = 0 := by
  have hzero : ((io.wr f i 0).wr g i 0).rd f i = 0 := by simp [IoSt.wr_rd]
  unfold IoSt.index
  exact (congrArg _ hzero).trans (IoSt.full_zero_of_laps_tdel hs rfl)

theorem State.cmdEnabled_cmdIndex {s : State} (hs : tsorted s.io.laps = true) (n : Nat) : (s.cmdEnabled n).cmdIndex n = 0 := by
  have hzero : (s.cmdEnabled n).rd Reg.HIF_CMD_CONS n = 0 := by simp [State.cmdEnabled, State.wr_rd]
  rw [State.cmdIndex, hzero]
  exact IoSt.full_zero_of_laps_tdel hs rfl

/-- Settles O21: a ring's index, counted on past 2³² by its laps, begins at 0 and moves on by one with each record put into the ring
or descriptor taken from it, and the record's counter is that of the index it was put at. -/
theorem aliveCountersFollowThePasses : Obligations.AliveCountersFollowThePasses := by
  unfold Obligations.AliveCountersFollowThePasses
  refine ⟨?counter, ?enabled, ?completion, ?event, ?descriptor, ?byte3⟩
  case counter =>
    exact fun idx size hsize => ⟨rfl, Nat.succ_ne_zero _, aliveOf_lt idx size, aliveOf_next_pass hsize idx⟩
  case enabled =>
    exact fun s q hs => ⟨IoSt.index_restarted hs .., IoSt.index_restarted hs .., State.cmdEnabled_cmdIndex hs q⟩
  case completion =>
    rintro s io c q p size hring hq hen rfl hp rfl
    refine ⟨?_, State.cplPut_index hring hq hen hp⟩
    subst hring
    exact State.cplPut_mem hen io
  case event =>
    rintro s io r q p hq rfl hp
    exact ⟨State.evqPut_mem s io q r, State.evqPut_index s hq hp r⟩
  case descriptor => exact fun s n d _ hp => State.consume_cmdIndex hp d
  case byte3 => exact fun c r alive => ⟨c.bytes_alive alive, r.bytes_alive alive⟩

end Sys2Proof.Machine
end

section
/-! PROOFS. When HIF_DQ_READY is raised: at a data queue's write-back and as its host index is read (R470). -/

namespace Sys2Proof.Machine

/-! ### The judgement -/

@[simp] theorem State.tfind_setDq (s : State) (d : Nat) (x : DqSt) : tfind (s.setDq d x).qmg.dqs d = some x :=
  tfind_tset_same _ _ _

theorem State.raiseOn_raised (s : State) (q code src : Nat) (det : List (Nat × Nat)) (sev : Nat) (caused : Bool) :
    Raised (s.raiseOn q code src det sev caused) code src det := by
  refine ⟨{ s.evRec code src det false caused with sev := sev }, ?_, rfl, rfl, rfl⟩
  show (State.ioRaise s _ _).evlog.head? = _
  rw [State.ioRaise_evlog]
  rfl

/-- A data queue to the host for which HIF_DQ_READY is due: it names an event queue, no event is outstanding, and the words copied
and not consumed reach the threshold. -/
structure DqSt.ReadyDue (x : DqSt) : Prop where
  toHost    : x.toHost = true
  named     : x.evq < 32
  fresh     : x.ready = false
  threshold : max 1 x.thr ≤ ahead x.host x.dev

/-- A data queue for which none is due. -/
def DqSt.Quiet (x : DqSt) : Prop := x.ready = true ∨ x.evq = 0xFF ∨ ahead x.host x.dev < max 1 x.thr

theorem State.judgeReady_of_due {s : State} {d : Nat} {x : DqSt} (hx : tfind s.qmg.dqs d = some x) (due : x.ReadyDue) :
    tfind (s.judgeReady d).qmg.dqs d = some { x with ready := true } ∧
      Raised (s.judgeReady d) Ev.HIF_DQ_READY (srcRing 3 d) [(2, d), (4, ahead x.host x.dev)] := by
  have hraise : s.judgeReady d = (s.setDq d { x with ready := true }).raiseOn x.evq Ev.HIF_DQ_READY (srcRing 3 d)
      [(2, d), (4, ahead x.host x.dev)] (s.severity Ev.HIF_DQ_READY) false := by
    simp only [State.judgeReady, hx, due.toHost, due.named, due.fresh, due.threshold]
    rfl
  rw [hraise]
  exact ⟨State.tfind_setDq .., State.raiseOn_raised ..⟩

theorem State.judgeReady_of_quiet {s : State} {d : Nat} {x : DqSt} (hx : tfind s.qmg.dqs d = some x) (quiet : x.Quiet) :
    s.judgeReady d = s := by
  simp only [State.judgeReady, hx]
  rcases quiet with hready | hnone | hfew
  · simp [hready]
  · simp [hnone]
  · simp [Nat.not_le.mpr hfew]

/-! ### DQ_WRITEBACK -/

/-- The data queue once its record is written: nothing is left to report. -/
def DqSt.reported (x : DqSt) : DqSt := { x with words := 0, crc := 0xFFFFFFFF, reset := false, records := x.records + 1 }

/-- The state once a data queue's record is written (R469). -/
def State.reportDq (s : State) (d : Nat) (x : DqSt) : State :=
  (s.hostWrite (s.rd Reg.HIF_DQ_WB_ADDR_LO 0 + 2 ^ 32 * s.rd Reg.HIF_DQ_WB_ADDR_HI 0 + 32 * d) (s.dqRecord d x)).setDq d x.reported

theorem State.reportDq_evlog (s : State) (d : Nat) (x : DqSt) : (s.reportDq d x).io.evlog = s.io.evlog := rfl

@[simp] theorem State.tfind_reportDq (s : State) (d : Nat) (x : DqSt) : tfind (s.reportDq d x).qmg.dqs d = some x.reported :=
  State.tfind_setDq ..

/-- A write-back has something to report and host memory to report it to (R444, R469). -/
def State.reportsDq (s : State) (x : DqSt) : Prop :=
  (x.words ≠ 0 ∨ x.reset = true) ∧ s.mayUseHost = true ∧ s.io.resumeAt ≤ s.addr

theorem State.toBoundary_mayUseHost (s : State) (dt m : Nat) : (s.toBoundary dt m).mayUseHost = s.mayUseHost := by
  simp [State.mayUseHost]

theorem exec_dqWriteback {s : State} {d : Nat} {x : DqSt} (hx : tfind s.qmg.dqs d = some x) (dt : Nat) :
    ((s.toBoundary dt Config.cyclePos).reportsDq x →
      exec (.dqWriteback dt d) s = .next (((s.toBoundary dt Config.cyclePos).reportDq d x).judgeReady d)) ∧
    (¬ (s.toBoundary dt Config.cyclePos).reportsDq x →
      exec (.dqWriteback dt d) s = .next (s.toBoundary dt Config.cyclePos)) := by
  have hx' : tfind (s.toBoundary dt Config.cyclePos).qmg.dqs d = some x := by rw [State.toBoundary_qmg, hx]
  have hguard : ((x.words = 0 && !x.reset) || !(s.toBoundary dt Config.cyclePos).mayUseHost ||
      (s.toBoundary dt Config.cyclePos).addr < (s.toBoundary dt Config.cyclePos).io.resumeAt : Bool) = true ↔
      ¬ (s.toBoundary dt Config.cyclePos).reportsDq x := by
    simp [State.reportsDq, imp_iff_not_or, or_assoc]
  show (_ → execDqWriteback dt d s = _) ∧ (_ → execDqWriteback dt d s = _)
  unfold execDqWriteback
  simp only [hx']
  constructor
  · intro h
    rw [if_neg (fun hg => hguard.mp hg h)]
    rfl
  · intro h
    rw [if_pos (hguard.mpr h)]

/-! ### The host's index -/

theorem State.takeDq_same {s : State} {d v : Nat} {x : DqSt} (hx : tfind s.qmg.dqs d = some x) (hv : v % 2 ^ 32 = x.host) :
    s.takeDq d v = s := by
  simp only [State.takeDq, hx, if_pos hv]

/-- An index that moves, and no further than the device's, is taken, and the event no longer outstanding. -/
theorem State.takeDq_moved {s : State} {d v : Nat} {x : DqSt} (hx : tfind s.qmg.dqs d = some x) (hdir : x.toHost = true)
    (hv : v % 2 ^ 32 ≠ x.host) (hgood : ahead x.host v ≤ ahead x.host x.dev) :
    s.takeDq d v = (s.setDq d { x with host := v % 2 ^ 32, ready := false }).judgeReady d := by
  simp only [State.takeDq, hx, if_neg hv, if_pos hdir, hgood]
  rfl

/-- Settles O22: the write-back and a move of the host's index each leave a queue to which the same judgement applies. -/
theorem readyIsRaisedOnceAtTheThreshold : Obligations.ReadyIsRaisedOnceAtTheThreshold := by
  unfold Obligations.ReadyIsRaisedOnceAtTheThreshold
  intro s dt d x hx hdir
  refine ⟨?raised, ?quiet, fun v hv => State.takeDq_same hx hv, fun v hv hgood => ?moved⟩
  case raised =>
    intro hsome hmay hresume hevq hfresh hthr
    have hreports : (s.toBoundary dt Config.cyclePos).reportsDq x :=
      ⟨hsome, by rw [State.toBoundary_mayUseHost, hmay], by rw [State.toBoundary_io]; exact hresume⟩
    obtain ⟨hfound, hraised⟩ := State.judgeReady_of_due (State.tfind_reportDq (s.toBoundary dt Config.cyclePos) d x)
      ⟨hdir, hevq, hfresh, hthr⟩
    exact ⟨_, (exec_dqWriteback hx dt).1 hreports, ⟨_, hfound, rfl⟩, hraised⟩
  case quiet =>
    intro hquiet
    have hlog : (s.toBoundary dt Config.cyclePos).io.evlog = s.io.evlog := by rw [State.toBoundary_io]
    by_cases hreports : (s.toBoundary dt Config.cyclePos).reportsDq x
    · refine ⟨_, (exec_dqWriteback hx dt).1 hreports, ?_⟩
      rw [State.judgeReady_of_quiet (State.tfind_reportDq ..) hquiet]
      exact ⟨(State.reportDq_evlog ..).trans hlog, x.reported, State.tfind_reportDq .., rfl⟩
    · exact ⟨_, (exec_dqWriteback hx dt).2 hreports, hlog, x, by rw [State.toBoundary_qmg, hx], rfl⟩
  case moved =>
    have htaken := State.tfind_setDq s d { x with host := v % 2 ^ 32, ready := false }
    rw [State.takeDq_moved hx hdir hv hgood]
    constructor
    · intro hevq hthr
      obtain ⟨hfound, hraised⟩ := State.judgeReady_of_due htaken ⟨hdir, hevq, rfl, hthr⟩
      exact ⟨⟨_, hfound, rfl, rfl⟩, hraised⟩
    · intro hquiet
      rw [State.judgeReady_of_quiet htaken (.inr hquiet)]
      exact ⟨htaken, rfl⟩

end Sys2Proof.Machine
end

section
/-! PROOFS. The mark of a queue: what a new word does to it, and a rewind to one that is not set (R491, R492). -/

namespace Sys2Proof.Machine

/-! ### A new word -/

theorem State.setQueue_queue_same (s : State) (q : Nat) (x : QSt) : (s.setQueue q x).queue q = some x := by
  rw [State.setQueue_queue, if_pos rfl]

/-- The queue once a word is written at its write pointer. -/
def QSt.written (x : QSt) (w : QWord) : QSt := { x.setWord x.wp w with wp := x.after x.wp }

/-- The queue whose mark is lost. -/
def QSt.losingMark (x : QSt) : QSt := { x with mark := none, markLost := true }

/-- The next word overwrites the one at the mark: the mark holds no words, and the write pointer has come round to it (R492). -/
def QSt.Overwrites (x : QSt) (m : Nat) : Prop := x.hold = false ∧ x.dist m x.wp = x.size

theorem QSt.not_overwrites_iff {x : QSt} {m : Nat} : ¬ x.Overwrites m ↔ x.hold = true ∨ x.dist m x.wp ≠ x.size := by
  simp [QSt.Overwrites, imp_iff_not_or]

/-- The loss test of a new word decides it. -/
theorem QSt.overwrites_test {x : QSt} {m : Nat} : (!x.hold && x.dist m x.wp == x.size) = true ↔ x.Overwrites m := by
  simp [QSt.Overwrites]

section
variable {s : State} {q m : Nat} {x : QSt} (hx : s.queue q = some x) (hroom : x.depth ≠ x.size) (hm : x.mark = some m)
include hx hroom hm

theorem State.newWord_of_overwrites (h : x.Overwrites m) (w : QWord) :
    s.newWord q w = some (((s.setQueue q (x.written w).losingMark).count Reg.QMG_MARK_LOST_CNT 0).raise Ev.Q_MARK_LOST
      (srcQueue q) [(4, m), (4, x.after x.wp)]) := by
  simp only [State.newWord, hx, if_neg hroom, hm, if_pos (QSt.overwrites_test.mpr h)]
  rfl

theorem State.newWord_of_not_overwrites (h : ¬ x.Overwrites m) (w : QWord) :
    s.newWord q w = some (s.setQueue q (x.written w)) := by
  simp only [State.newWord, hx, if_neg hroom, hm, if_neg (mt QSt.overwrites_test.mp h)]
  rfl

end

/-! ### QMG_REWIND -/

theorem State.awaitQueue_of_running {s : State} {q : Nat} {x : QSt} (hx : s.queue q = some x) (hrun : x.resetting = false) :
    s.awaitQueue q = s := by
  simp [State.awaitQueue, hx, hrun]

/-- A rewind of a queue that the host reads and no mark is set in is refused at once. -/
theorem exec_qmgRewind_of_no_mark {s : State} {dt : Nat} {h : HostRef} {q : Nat} {x : QSt}
    (hadm : Admitted s dt h domQmg Op.QMG_REWIND) (hx : s.queue q = some x) (hrun : x.resetting = false) (hreader : x.reader = 7)
    (hm : x.mark = none) :
    exec (.qmgRewind dt h q) s = .next ((s.elapse dt).refuse h Op.QMG_REWIND (if x.markLost then 8 else 7)) := by
  have hx' : (s.elapse dt).queue q = some x := hx
  show execQmgRewind dt h q s = _
  unfold execQmgRewind
  rw [State.command_admitted hadm]
  simp [State.awaitQueue_of_running hx' hrun, hx', hreader, hm]

/-- Settles O23: a new word loses the mark exactly where it overwrites the word at it. -/
theorem overwrittenMarksAreLost : Obligations.OverwrittenMarksAreLost := by
  unfold Obligations.OverwrittenMarksAreLost
  refine ⟨?word, ?rewind⟩
  case word =>
    intro s q x w m hx hroom hm
    by_cases hover : x.Overwrites m
    · refine ⟨_, State.newWord_of_overwrites hx hroom hm hover w, fun _ _ => ⟨?_, ?_, State.raise_raised ..⟩,
        fun hkept => absurd hover (QSt.not_overwrites_iff.mpr hkept)⟩
      · exact ⟨(x.written w).losingMark, State.setQueue_queue_same .., rfl, rfl, rfl, rfl⟩
      · rw [State.raise_rd, State.count_eq, State.wr_rd_same, State.setQueue_rd]
        rfl
    · exact ⟨_, State.newWord_of_not_overwrites hx hroom hm hover w, fun hhold hreached => absurd ⟨hhold, hreached⟩ hover,
        fun _ => ⟨⟨x.written w, State.setQueue_queue_same .., hm, rfl, rfl⟩, rfl, rfl⟩⟩
  case rewind =>
    intro s dt h q x hadm hx hrun hreader hm
    exact ⟨_, exec_qmgRewind_of_no_mark hadm hx hrun hreader hm, rfl, State.refuse_answered .., regsOnly_of_regs rfl []⟩

end Sys2Proof.Machine
end

section
/-! PROOFS. Counters: every CNT field of the tables is a register word of its own, counts modulo 2³² and goes on from what the
host writes (R505). -/

namespace Sys2Proof.Machine

/-! ### The CNT fields of the tables -/

/-- Every CNT field of the register tables takes all the 32 bits of its word. -/
theorem Reg.cnt_whole_word :
    ∀ g < 20, ∀ f ∈ Reg.ofBlock g, f.kind = .cnt → f.width = 32 ∧ f.lo = 0 := by
  decide +kernel

/-! ### Counting -/

@[simp] theorem State.countBy_rd_same (s : State) (f : Fld) (i n : Nat) :
    (s.countBy f i n).rd f i = (s.rd f i + n) % 2 ^ f.width := by
  rw [State.countBy_eq, State.wr_rd_same]

@[simp] theorem State.count_rd_same (s : State) (f : Fld) (i : Nat) :
    (s.count f i).rd f i = (s.rd f i + 1) % 2 ^ f.width :=
  State.countBy_rd_same s f i 1

@[simp] theorem IoSt.countBy_rd_same (io : IoSt) (f : Fld) (i n : Nat) :
    (io.countBy f i n).rd f i = (io.rd f i + n) % 2 ^ f.width :=
  IoSt.wr_rd_same io f i _

/-! ### Host writes of a CNT field -/

/-- The low `w` bits of a value that fits in them are the value. -/
theorem bitsOf_zero_of_lt {v w : Nat} (h : v < 2 ^ w) : bitsOf v 0 w = v := by
  rw [bitsOf, pow_zero, Nat.div_one, Nat.mod_eq_of_lt h]

section
variable {s : State} {f : Fld} {i v : Nat} (off : Nat) (hcnt : f.kind = .cnt) (hfree : s.inReset (f.domain i) = false)
include hcnt hfree

/-- Outside a reset of its domain a counter of the register store takes its bits of the word written. -/
theorem State.hostField_cnt (hio : f.inIo = false) :
    s.hostField off v f i = s.wr f i (bitsOf v f.lo f.width) := by
  simp [State.hostField, hfree, hcnt, hio]

/-- Outside a reset of its domain a counter held beside the rings takes its bits of the word written. -/
theorem State.hostField_cnt_inIo (hio : f.inIo = true) :
    (s.hostField off v f i).io = s.io.wr f i (bitsOf v f.lo f.width) := by
  simp [State.hostField, hfree, hcnt, hio]

variable (hlo : f.lo = 0) (hv : v < 2 ^ f.width)
include hlo hv

theorem State.hostField_cnt_rd_same (hio : f.inIo = false) : (s.hostField off v f i).rd f i = v := by
  rw [State.hostField_cnt off hcnt hfree hio, State.wr_rd_same, hlo, bitsOf_zero_of_lt hv, Nat.mod_eq_of_lt hv]

theorem State.hostField_cnt_io_rd_same (hio : f.inIo = true) : (s.hostField off v f i).io.rd f i = v := by
  rw [State.hostField_cnt_inIo off hcnt hfree hio, IoSt.wr_rd_same, hlo, bitsOf_zero_of_lt hv, Nat.mod_eq_of_lt hv]

end

/-- Settles O24: a counter's word is its own, so a write sets all of it and the next count adds one to what was written. -/
theorem countersWrapAndTakeWrites : Obligations.CountersWrapAndTakeWrites := by
  unfold Obligations.CountersWrapAndTakeWrites
  intro g f i hg hf hcnt
  obtain ⟨hwidth, hlo⟩ := Reg.cnt_whole_word g hg f hf hcnt
  rw [← hwidth]
  refine ⟨rfl, hlo, fun s n => s.countBy_rd_same f i n, fun io n => io.countBy_rd_same f i n, ?write⟩
  case write =>
    intro s off v hv hfree
    constructor
    · intro hio
      have htaken := State.hostField_cnt_rd_same off hcnt hfree hlo hv hio
      exact ⟨htaken, by rw [State.count_rd_same, htaken]⟩
    · intro hio
      have htaken := State.hostField_cnt_io_rd_same off hcnt hfree hlo hv hio
      exact ⟨htaken, by rw [IoSt.countBy_rd_same, htaken]⟩

end Sys2Proof.Machine
end

section
/-! PROOFS. What every command and every step keeps, and the parts that each leaves: the relations of Laws/ brought together over
`exec`. -/

namespace Sys2Proof.Machine

/-! ### Every command -/

/-- Each command answers a next state that keeps the queue, time, the free values and the invariant. -/
theorem exec_keeps (i : Instr) (s : State) : ∃ t, exec i s = .next t ∧ Keeps s t := by
  cases i with
  | schedSwap => exact execSchedSwap_keeps
  | armSwap => exact execArmSwap_keeps
  | hewerWakeup => exact execHewerWakeup_keeps
  | doorbellRead => exact execDoorbellRead_keeps
  | gateSlip => exact execGateSlip_keeps
  | shaftHalt => exact execShaftHalt_keeps
  | shaftStart => exact execShaftStart_keeps
  | timFreqMeasure => exact execTimFreqMeasure_keeps
  | refQualified => exact execRefQualified_keeps
  | timHoldoffExpiry => exact execTimHoldoffExpiry_keeps
  | refSelection => exact execRefSelection_keeps
  | refSwitchDone => exact execRefSwitchDone_keeps
  | wtrExpiry => exact execWtrExpiry_keeps
  | steerWdogExpiry => exact execSteerWdogExpiry_keeps
  | holdoverUpdate => exact execHoldoverUpdate_keeps
  | modelLearnSample => exact execModelLearnSample_keeps
  | todSetApply => exact execTodSetApply_keeps
  | ppsinEdge => exact execPpsinEdge_keeps
  | ppsoutPulse => exact execPpsoutPulse_keeps
  | timForce => exact execTimForce_keeps
  | timClear => exact execTimClear_keeps
  | timLockout => exact execTimLockout_keeps
  | timHoldover => exact execTimHoldover_keeps
  | timSteer => exact execTimSteer_keeps
  | timSetTod => exact execTimSetTod_keeps
  | timTodCapture => exact execTimTodCapture_keeps
  | timModelLoad => exact execTimModelLoad_keeps
  | timWtrClear => exact execTimWtrClear_keeps
  | fltOutputWord => exact execFltOutputWord_keeps
  | inputStuck => exact execInputStuck_keeps
  | xfadeStart => exact execXfadeStart_keeps
  | xfadeDone => exact execXfadeDone_keeps
  | swapDone => exact execSwapDone_keeps
  | fltSyncResetApply => exact execFltSyncResetApply_keeps
  | fltConfig => exact execFltConfig_keeps
  | fltCoefLoad => exact execFltCoefLoad_keeps
  | fltSwap => exact execFltSwap_keeps
  | fltSyncReset => exact execFltSyncReset_keeps
  | fltFreeze => exact execFltFreeze_keeps
  | laneLos => exact execLaneLos_keeps
  | laneLol => exact execLaneLol_keeps
  | laneBlockLock => exact execLaneBlockLock_keeps
  | laneHiber => exact execLaneHiber_keeps
  | laneReady => exact execLaneReady_keeps
  | eyeMeasure => exact execEyeMeasure_keeps
  | prbsLock => exact execPrbsLock_keeps
  | trbFrameRx => exact execTrbFrameRx_keeps
  | trbAlign => exact execTrbAlign_keeps
  | prtTest => exact execPrtTest_keeps
  | prtAdaptRestart => exact execPrtAdaptRestart_keeps
  | rlkFrameRx => exact execRlkFrameRx_keeps
  | rlkLfa => exact execRlkLfa_keeps
  | tubRx => exact execTubRx_keeps
  | ddHoldExpiry => exact execDdHoldExpiry_keeps
  | copyRecordClose => exact execCopyRecordClose_keeps
  | framerFrameRx => exact execFramerFrameRx_keeps
  | lofDeclare => exact execLofDeclare_keeps
  | otlLol => exact execOtlLol_keeps
  | crc4SearchTimeout => exact execCrc4SearchTimeout_keeps
  | ohExtract => exact execOhExtract_keeps
  | ohInsert => exact execOhInsert_keeps
  | sdSfEval => exact execSdSfEval_keeps
  | apsHoldoffExpiry => exact execApsHoldoffExpiry_keeps
  | apsWtrExpiry => exact execApsWtrExpiry_keeps
  | frmCtxCfg => exact execFrmCtxCfg_keeps
  | frmTraceSet => exact execFrmTraceSet_keeps
  | frmCtxRead => exact execFrmCtxRead_keeps
  | frmApsCfg => exact execFrmApsCfg_keeps
  | frmApsCmd => exact execFrmApsCmd_keeps
  | frmForce => exact execFrmForce_keeps
  | frmReframe => exact execFrmReframe_keeps
  | frmErrInsert => exact execFrmErrInsert_keeps
  | handover => exact execHandover_keeps
  | clientFrameRx => exact execClientFrameRx_keeps
  | gfpFrameRx dt ctx f => exact execGfpFrameRx_keeps (dt := dt) (ctx := ctx) (f := f) (s := s)
  | carriageBlockRx => exact execCarriageBlockRx_keeps
  | ddPlayout => exact execDdPlayout_keeps
  | mapRateLimit => exact execMapRateLimit_keeps
  | mapCtxRead => exact execMapCtxRead_keeps
  | mapPageRead => exact execMapPageRead_keeps
  | mapDdStatus => exact execMapDdStatus_keeps
  | ovmIntentAdd => exact execOvmIntentAdd_keeps
  | ovmIntentWithdraw => exact execOvmIntentWithdraw_keeps
  | ovmPin => exact execOvmPin_keeps
  | ovmUnpin => exact execOvmUnpin_keeps
  | ovmResultRead => exact execOvmResultRead_keeps
  | ovmDefrag => exact execOvmDefrag_keeps
  | ovmMovePlan => exact execOvmMovePlan_keeps
  | ovmHoldExpired => exact execOvmHoldExpired_keeps
  | stageUnusable => exact execStageUnusable_keeps
  | ovmRestart => exact execOvmRestart_keeps
  | ovmEngines => exact execOvmEngines_keeps
  | unitWakeReady => exact execUnitWakeReady_keeps
  | pmSecondBoundary => exact execPmSecondBoundary_keeps
  | pmSecondRead => exact execPmSecondRead_keeps
  | pmBinClosure => exact execPmBinClosure_keeps
  | pmnPointCfg => exact execPmnPointCfg_keeps
  | pmnProfileSet => exact execPmnProfileSet_keeps
  | pmnHistRead => exact execPmnHistRead_keeps
  | pmnPointClear => exact execPmnPointClear_keeps
  | pmnSecRead => exact execPmnSecRead_keeps
  | cipRootLoad => exact execCipRootLoad_keeps
  | cipKeyErase => exact execCipKeyErase_keeps
  | cipWrapLoad => exact execCipWrapLoad_keeps
  | cipEpochFlip => exact execCipEpochFlip_keeps
  | keyEpochFlip => exact execKeyEpochFlip_keeps
  | sealedBlockTx => exact execSealedBlockTx_keeps
  | sealedBlockRx => exact execSealedBlockRx_keeps
  | keyDerived => exact execKeyDerived_keeps
  | halfZeroise => exact execHalfZeroise_keeps
  | epochReservation => exact execEpochReservation_keeps
  | bulkMessage => exact execBulkMessage_keeps
  | bulkOpen => exact execBulkOpen_keeps
  | mateFrameRx => exact execMateFrameRx_keeps
  | laneRoleAssign => exact execLaneRoleAssign_keeps
  | mateListenEnd => exact execMateListenEnd_keeps
  | tallyLeaseRenewal => exact execTallyLeaseRenewal_keeps
  | grant => exact execGrant_keeps
  | ack => exact execAck_keeps
  | tallyInWord => exact execTallyInWord_keeps
  | surrender => exact execSurrender_keeps
  | claim => exact execClaim_keeps
  | health => exact execHealth_keeps
  | forward => exact execForward_keeps
  | place => exact execPlace_keeps
  | placeAck => exact execPlaceAck_keeps
  | ctrlImage => exact execCtrlImage_keeps
  | gate => exact execGate_keeps
  | parGateMiss => exact execParGateMiss_keeps
  | stateData => exact execStateData_keeps
  | stateCommit => exact execStateCommit_keeps
  | stateAck => exact execStateAck_keeps
  | drill => exact execDrill_keeps
  | stateCommitDeadline => exact execStateCommitDeadline_keeps
  | stateCopyEpoch => exact execStateCopyEpoch_keeps
  | parOrphan => exact execParOrphan_keeps
  | leaseViewExpiry => exact execLeaseViewExpiry_keeps
  | parPath => exact execParPath_keeps
  | healthReport => exact execHealthReport_keeps
  | canaryBist => exact execCanaryBist_keeps
  | parTake => exact execParTake_keeps
  | parSurrender => exact execParSurrender_keeps
  | parDrill => exact execParDrill_keeps
  | parClearFault => exact execParClearFault_keeps
  | drillAckTimeout => exact execDrillAckTimeout_keeps
  | drillClaimTimeout => exact execDrillClaimTimeout_keeps
  | governorStep => exact execGovernorStep_keeps
  | devPowerUpdate => exact execDevPowerUpdate_keeps
  | slewWindow => exact execSlewWindow_keeps
  | detectorArm => exact execDetectorArm_keeps
  | feedLoss => exact execFeedLoss_keeps
  | lgStageEnd => exact execLgStageEnd_keeps
  | pmbusPoll => exact execPmbusPoll_keeps
  | pmbAlert => exact execPmbAlert_keeps
  | engEpbUpdate => exact execEngEpbUpdate_keeps
  | engLastGasp => exact execEngLastGasp_keeps
  | engPmbXfer => exact execEngPmbXfer_keeps
  | engCrashRead => exact execEngCrashRead_keeps
  | engCrashRelease => exact execEngCrashRelease_keeps
  | engCrashPoints => exact execEngCrashPoints_keeps
  | descriptorFetch => exact execDescriptorFetch_keeps
  | heldEventRelease => exact execHeldEventRelease_keeps
  | dqWriteback => exact execDqWriteback_keeps
  | vectorTimer => exact execVectorTimer_keeps
  | pcieLinkChange => exact execPcieLinkChange_keeps
  | pciePowerState => exact execPciePowerState_keeps
  | hifDomainReset => exact execHifDomainReset_keeps
  | hifNop => exact execHifNop_keeps
  | hifDqBind => exact execHifDqBind_keeps
  | hifDqUnbind => exact execHifDqUnbind_keeps
  | hifSevSet => exact execHifSevSet_keeps
  | hifEvqTest => exact execHifEvqTest_keeps
  | queuePush => exact execQueuePush_keeps
  | queuePop => exact execQueuePop_keeps
  | queueFlush => exact execQueueFlush_keeps
  | qDrop => exact execQDrop_keeps
  | qPtrReset => exact execQPtrReset_keeps
  | queueResetEnd => exact execQueueResetEnd_keeps
  | qmgQCreate => exact execQmgQCreate_keeps
  | qmgQDestroy => exact execQmgQDestroy_keeps
  | qmgQSet => exact execQmgQSet_keeps
  | qmgQRead => exact execQmgQRead_keeps
  | qmgMark => exact execQmgMark_keeps
  | qmgRewind => exact execQmgRewind_keeps
  | qmgDropRest => exact execQmgDropRest_keeps
  | qmgQReset => exact execQmgQReset_keeps
  | registerWrite => exact execRegisterWrite_keeps
  | shadowLoRead => exact execShadowLoRead_keeps
  | glbCommit => exact execGlbCommit_keeps
  | commitSnapshot => exact execCommitSnapshot_keeps
  | commitOutcome => exact execCommitOutcome_keeps
  | glbDiscard => exact execGlbDiscard_keeps
  | rstReq => exact execRstReq_keeps
  | rstHewerReq => exact execRstHewerReq_keeps
  | resetReleased => exact execResetReleased_keeps
  | triScrub => exact execTriScrub_keeps
  | regCommit => exact execRegCommit_keeps
  | regDiscard => exact execRegDiscard_keeps
  | assayGranuleCheck => exact execAssayGranuleCheck_keeps
  | assayPassLate => exact execAssayPassLate_keeps
  | assayCompareStart => exact execAssayCompareStart_keeps
  | transferUnitRx => exact execTransferUnitRx_keeps
  | asyCheck => exact execAsyCheck_keeps
  | asyLoopback => exact execAsyLoopback_keeps
  | secTrngFail => exact execSecTrngFail_keeps
  | secChallenge => exact execSecChallenge_keeps
  | nonceExpiry => exact execNonceExpiry_keeps
  | secAttest => exact execSecAttest_keeps
  | secCertRead => exact execSecCertRead_keeps
  | secLifecycle => exact execSecLifecycle_keeps
  | secOpkeyRotate => exact execSecOpkeyRotate_keeps
  | secSvnCommit => exact execSecSvnCommit_keeps
  | secImageStage => exact execSecImageStage_keeps
  | secImageStaged => exact execSecImageStaged_keeps
  | secDebugUnlock => exact execSecDebugUnlock_keeps
  | secDebugLock => exact execSecDebugLock_keeps
  | debugExpiry => exact execDebugExpiry_keeps
  | powerOnResetRelease => exact execPowerOnResetRelease_keeps
  | railUndervoltage => exact execRailUndervoltage_keeps
  | perstNRelease => exact execPerstNRelease_keeps
  | selftestResult => exact execSelftestResult_keeps
  | configSetStage => exact execConfigSetStage_keeps
  | configStore => exact execConfigStore_keeps
  | cfgLoad => exact execCfgLoad_keeps
  | cfgStatus => exact execCfgStatus_keeps
  | bootLoad => exact execBootLoad_keeps
  | selftestRead => exact execSelftestRead_keeps
  | scrubWord => exact execScrubWord_keeps
  | hbmPatrol => exact execHbmPatrol_keeps
  | bkgEpoch => exact execBkgEpoch_keeps
  | tjUpdate => exact execTjUpdate_keeps
  | thermalFault => exact execThermalFault_keeps
  | ageMeasure => exact execAgeMeasure_keeps
  | lifeRecord => exact execLifeRecord_keeps
  | logAppend => exact execLogAppend_keeps
  | bkgAgeRead => exact execBkgAgeRead_keeps
  | bkgLogAppend => exact execBkgLogAppend_keeps
  | bkgLogRead => exact execBkgLogRead_keeps
  | tstArm => exact execTstArm_keeps
  | tstEnded => exact execTstEnded_keeps
  | refInputNoEdge => exact execRefInputNoEdge_keeps
  | esmcPduTimeout => exact execEsmcPduTimeout_keeps
  | porstNLow => exact execPorstNLow_keeps
  | foldedEventSecondEnd => exact execFoldedEventSecondEnd_keeps

/-- A part that `framesOf` does not list for a command is the same after it. -/
theorem exec_frame (i : Instr) (s : State) (p : Part) (hp : p ∉ framesOf i) : ∃ t, exec i s = .next t ∧ p.same s t := by
  cases i with
  | schedSwap => exact execSchedSwap_frame hp
  | armSwap => exact execArmSwap_frame hp
  | hewerWakeup => exact execHewerWakeup_frame hp
  | doorbellRead => exact execDoorbellRead_frame hp
  | gateSlip => exact execGateSlip_frame hp
  | shaftHalt => exact execShaftHalt_frame hp
  | shaftStart => exact execShaftStart_frame hp
  | timFreqMeasure => exact execTimFreqMeasure_frame hp
  | refQualified => exact execRefQualified_frame hp
  | timHoldoffExpiry => exact execTimHoldoffExpiry_frame hp
  | refSelection => exact execRefSelection_frame hp
  | refSwitchDone => exact execRefSwitchDone_frame hp
  | wtrExpiry => exact execWtrExpiry_frame hp
  | steerWdogExpiry => exact execSteerWdogExpiry_frame hp
  | holdoverUpdate => exact execHoldoverUpdate_frame hp
  | modelLearnSample => exact execModelLearnSample_frame hp
  | todSetApply => exact execTodSetApply_frame hp
  | ppsinEdge => exact execPpsinEdge_frame hp
  | ppsoutPulse => exact execPpsoutPulse_frame hp
  | timForce => exact execTimForce_frame hp
  | timClear => exact execTimClear_frame hp
  | timLockout => exact execTimLockout_frame hp
  | timHoldover => exact execTimHoldover_frame hp
  | timSteer => exact execTimSteer_frame hp
  | timSetTod => exact execTimSetTod_frame hp
  | timTodCapture => exact execTimTodCapture_frame hp
  | timModelLoad => exact execTimModelLoad_frame hp
  | timWtrClear => exact execTimWtrClear_frame hp
  | fltOutputWord => exact execFltOutputWord_frame hp
  | inputStuck => exact execInputStuck_frame hp
  | xfadeStart => exact execXfadeStart_frame hp
  | xfadeDone => exact execXfadeDone_frame hp
  | swapDone => exact execSwapDone_frame hp
  | fltSyncResetApply => exact execFltSyncResetApply_frame hp
  | fltConfig => exact execFltConfig_frame hp
  | fltCoefLoad => exact execFltCoefLoad_frame hp
  | fltSwap => exact execFltSwap_frame hp
  | fltSyncReset => exact execFltSyncReset_frame hp
  | fltFreeze => exact execFltFreeze_frame hp
  | laneLos => exact execLaneLos_frame hp
  | laneLol => exact execLaneLol_frame hp
  | laneBlockLock => exact execLaneBlockLock_frame hp
  | laneHiber => exact execLaneHiber_frame hp
  | laneReady => exact execLaneReady_frame hp
  | eyeMeasure => exact execEyeMeasure_frame hp
  | prbsLock => exact execPrbsLock_frame hp
  | trbFrameRx => exact execTrbFrameRx_frame hp
  | trbAlign => exact execTrbAlign_frame hp
  | prtTest => exact execPrtTest_frame hp
  | prtAdaptRestart => exact execPrtAdaptRestart_frame hp
  | rlkFrameRx => exact execRlkFrameRx_frame hp
  | rlkLfa => exact execRlkLfa_frame hp
  | tubRx => exact execTubRx_frame hp
  | ddHoldExpiry => exact execDdHoldExpiry_frame hp
  | copyRecordClose => exact execCopyRecordClose_frame hp
  | framerFrameRx => exact execFramerFrameRx_frame hp
  | lofDeclare => exact execLofDeclare_frame hp
  | otlLol => exact execOtlLol_frame hp
  | crc4SearchTimeout => exact execCrc4SearchTimeout_frame hp
  | ohExtract => exact execOhExtract_frame hp
  | ohInsert => exact execOhInsert_frame hp
  | sdSfEval => exact execSdSfEval_frame hp
  | apsHoldoffExpiry => exact execApsHoldoffExpiry_frame hp
  | apsWtrExpiry => exact execApsWtrExpiry_frame hp
  | frmCtxCfg => exact execFrmCtxCfg_frame hp
  | frmTraceSet => exact execFrmTraceSet_frame hp
  | frmCtxRead => exact execFrmCtxRead_frame hp
  | frmApsCfg => exact execFrmApsCfg_frame hp
  | frmApsCmd => exact execFrmApsCmd_frame hp
  | frmForce => exact execFrmForce_frame hp
  | frmReframe => exact execFrmReframe_frame hp
  | frmErrInsert => exact execFrmErrInsert_frame hp
  | handover => exact execHandover_frame hp
  | clientFrameRx => exact execClientFrameRx_frame hp
  | gfpFrameRx dt ctx f => exact execGfpFrameRx_frame (dt := dt) (ctx := ctx) (f := f) (s := s) hp
  | carriageBlockRx => exact execCarriageBlockRx_frame hp
  | ddPlayout => exact execDdPlayout_frame hp
  | mapRateLimit => exact execMapRateLimit_frame hp
  | mapCtxRead => exact execMapCtxRead_frame hp
  | mapPageRead => exact execMapPageRead_frame hp
  | mapDdStatus => exact execMapDdStatus_frame hp
  | ovmIntentAdd => exact execOvmIntentAdd_frame hp
  | ovmIntentWithdraw => exact execOvmIntentWithdraw_frame hp
  | ovmPin => exact execOvmPin_frame hp
  | ovmUnpin => exact execOvmUnpin_frame hp
  | ovmResultRead => exact execOvmResultRead_frame hp
  | ovmDefrag => exact execOvmDefrag_frame hp
  | ovmMovePlan => exact execOvmMovePlan_frame hp
  | ovmHoldExpired => exact execOvmHoldExpired_frame hp
  | stageUnusable => exact execStageUnusable_frame hp
  | ovmRestart => exact execOvmRestart_frame hp
  | ovmEngines => exact execOvmEngines_frame hp
  | unitWakeReady => exact execUnitWakeReady_frame hp
  | pmSecondBoundary => exact execPmSecondBoundary_frame hp
  | pmSecondRead => exact execPmSecondRead_frame hp
  | pmBinClosure => exact execPmBinClosure_frame hp
  | pmnPointCfg => exact execPmnPointCfg_frame hp
  | pmnProfileSet => exact execPmnProfileSet_frame hp
  | pmnHistRead => exact execPmnHistRead_frame hp
  | pmnPointClear => exact execPmnPointClear_frame hp
  | pmnSecRead => exact execPmnSecRead_frame hp
  | cipRootLoad => exact execCipRootLoad_frame hp
  | cipKeyErase => exact execCipKeyErase_frame hp
  | cipWrapLoad => exact execCipWrapLoad_frame hp
  | cipEpochFlip => exact execCipEpochFlip_frame hp
  | keyEpochFlip => exact execKeyEpochFlip_frame hp
  | sealedBlockTx => exact execSealedBlockTx_frame hp
  | sealedBlockRx => exact execSealedBlockRx_frame hp
  | keyDerived => exact execKeyDerived_frame hp
  | halfZeroise => exact execHalfZeroise_frame hp
  | epochReservation => exact execEpochReservation_frame hp
  | bulkMessage => exact execBulkMessage_frame hp
  | bulkOpen => exact execBulkOpen_frame hp
  | mateFrameRx => exact execMateFrameRx_frame hp
  | laneRoleAssign => exact execLaneRoleAssign_frame hp
  | mateListenEnd => exact execMateListenEnd_frame hp
  | tallyLeaseRenewal => exact execTallyLeaseRenewal_frame hp
  | grant => exact execGrant_frame hp
  | ack => exact execAck_frame hp
  | tallyInWord => exact execTallyInWord_frame hp
  | surrender => exact execSurrender_frame hp
  | claim => exact execClaim_frame hp
  | health => exact execHealth_frame hp
  | forward => exact execForward_frame hp
  | place => exact execPlace_frame hp
  | placeAck => exact execPlaceAck_frame hp
  | ctrlImage => exact execCtrlImage_frame hp
  | gate => exact execGate_frame hp
  | parGateMiss => exact execParGateMiss_frame hp
  | stateData => exact execStateData_frame hp
  | stateCommit => exact execStateCommit_frame hp
  | stateAck => exact execStateAck_frame hp
  | drill => exact execDrill_frame hp
  | stateCommitDeadline => exact execStateCommitDeadline_frame hp
  | stateCopyEpoch => exact execStateCopyEpoch_frame hp
  | parOrphan => exact execParOrphan_frame hp
  | leaseViewExpiry => exact execLeaseViewExpiry_frame hp
  | parPath => exact execParPath_frame hp
  | healthReport => exact execHealthReport_frame hp
  | canaryBist => exact execCanaryBist_frame hp
  | parTake => exact execParTake_frame hp
  | parSurrender => exact execParSurrender_frame hp
  | parDrill => exact execParDrill_frame hp
  | parClearFault => exact execParClearFault_frame hp
  | drillAckTimeout => exact execDrillAckTimeout_frame hp
  | drillClaimTimeout => exact execDrillClaimTimeout_frame hp
  | governorStep => exact execGovernorStep_frame hp
  | devPowerUpdate => exact execDevPowerUpdate_frame hp
  | slewWindow => exact execSlewWindow_frame hp
  | detectorArm => exact execDetectorArm_frame hp
  | feedLoss => exact execFeedLoss_frame hp
  | lgStageEnd => exact execLgStageEnd_frame hp
  | pmbusPoll => exact execPmbusPoll_frame hp
  | pmbAlert => exact execPmbAlert_frame hp
  | engEpbUpdate => exact execEngEpbUpdate_frame hp
  | engLastGasp => exact execEngLastGasp_frame hp
  | engPmbXfer => exact execEngPmbXfer_frame hp
  | engCrashRead => exact execEngCrashRead_frame hp
  | engCrashRelease => exact execEngCrashRelease_frame hp
  | engCrashPoints => exact execEngCrashPoints_frame hp
  | descriptorFetch => exact execDescriptorFetch_frame hp
  | heldEventRelease => exact execHeldEventRelease_frame hp
  | dqWriteback => exact execDqWriteback_frame hp
  | vectorTimer => exact execVectorTimer_frame hp
  | pcieLinkChange => exact execPcieLinkChange_frame hp
  | pciePowerState => exact execPciePowerState_frame hp
  | hifDomainReset => exact execHifDomainReset_frame hp
  | hifNop => exact execHifNop_frame hp
  | hifDqBind => exact execHifDqBind_frame hp
  | hifDqUnbind => exact execHifDqUnbind_frame hp
  | hifSevSet => exact execHifSevSet_frame hp
  | hifEvqTest => exact execHifEvqTest_frame hp
  | queuePush => exact execQueuePush_frame hp
  | queuePop => exact execQueuePop_frame hp
  | queueFlush => exact execQueueFlush_frame hp
  | qDrop => exact execQDrop_frame hp
  | qPtrReset => exact execQPtrReset_frame hp
  | queueResetEnd => exact execQueueResetEnd_frame hp
  | qmgQCreate => exact execQmgQCreate_frame hp
  | qmgQDestroy => exact execQmgQDestroy_frame hp
  | qmgQSet => exact execQmgQSet_frame hp
  | qmgQRead => exact execQmgQRead_frame hp
  | qmgMark => exact execQmgMark_frame hp
  | qmgRewind => exact execQmgRewind_frame hp
  | qmgDropRest => exact execQmgDropRest_frame hp
  | qmgQReset => exact execQmgQReset_frame hp
  | registerWrite => exact execRegisterWrite_frame hp
  | shadowLoRead => exact execShadowLoRead_frame hp
  | glbCommit => exact execGlbCommit_frame hp
  | commitSnapshot => exact execCommitSnapshot_frame hp
  | commitOutcome => exact execCommitOutcome_frame hp
  | glbDiscard => exact execGlbDiscard_frame hp
  | rstReq => exact execRstReq_frame hp
  | rstHewerReq => exact execRstHewerReq_frame hp
  | resetReleased => exact execResetReleased_frame hp
  | triScrub => exact execTriScrub_frame hp
  | regCommit => exact execRegCommit_frame hp
  | regDiscard => exact execRegDiscard_frame hp
  | assayGranuleCheck => exact execAssayGranuleCheck_frame hp
  | assayPassLate => exact execAssayPassLate_frame hp
  | assayCompareStart => exact execAssayCompareStart_frame hp
  | transferUnitRx => exact execTransferUnitRx_frame hp
  | asyCheck => exact execAsyCheck_frame hp
  | asyLoopback => exact execAsyLoopback_frame hp
  | secTrngFail => exact execSecTrngFail_frame hp
  | secChallenge => exact execSecChallenge_frame hp
  | nonceExpiry => exact execNonceExpiry_frame hp
  | secAttest => exact execSecAttest_frame hp
  | secCertRead => exact execSecCertRead_frame hp
  | secLifecycle => exact execSecLifecycle_frame hp
  | secOpkeyRotate => exact execSecOpkeyRotate_frame hp
  | secSvnCommit => exact execSecSvnCommit_frame hp
  | secImageStage => exact execSecImageStage_frame hp
  | secImageStaged => exact execSecImageStaged_frame hp
  | secDebugUnlock => exact execSecDebugUnlock_frame hp
  | secDebugLock => exact execSecDebugLock_frame hp
  | debugExpiry => exact execDebugExpiry_frame hp
  | powerOnResetRelease => exact execPowerOnResetRelease_frame hp
  | railUndervoltage => exact execRailUndervoltage_frame hp
  | perstNRelease => exact execPerstNRelease_frame hp
  | selftestResult => exact execSelftestResult_frame hp
  | configSetStage => exact execConfigSetStage_frame hp
  | configStore => exact execConfigStore_frame hp
  | cfgLoad => exact execCfgLoad_frame hp
  | cfgStatus => exact execCfgStatus_frame hp
  | bootLoad => exact execBootLoad_frame hp
  | selftestRead => exact execSelftestRead_frame hp
  | scrubWord => exact execScrubWord_frame hp
  | hbmPatrol => exact execHbmPatrol_frame hp
  | bkgEpoch => exact execBkgEpoch_frame hp
  | tjUpdate => exact execTjUpdate_frame hp
  | thermalFault => exact execThermalFault_frame hp
  | ageMeasure => exact execAgeMeasure_frame hp
  | lifeRecord => exact execLifeRecord_frame hp
  | logAppend => exact execLogAppend_frame hp
  | bkgAgeRead => exact execBkgAgeRead_frame hp
  | bkgLogAppend => exact execBkgLogAppend_frame hp
  | bkgLogRead => exact execBkgLogRead_frame hp
  | tstArm => exact execTstArm_frame hp
  | tstEnded => exact execTstEnded_frame hp
  | refInputNoEdge => exact execRefInputNoEdge_frame hp
  | esmcPduTimeout => exact execEsmcPduTimeout_frame hp
  | porstNLow => exact execPorstNLow_frame hp
  | foldedEventSecondEnd => exact execFoldedEventSecondEnd_frame hp

theorem keeps_of_exec {i : Instr} {s t : State} (h : exec i s = .next t) : Keeps s t := by
  obtain ⟨u, hu, hk⟩ := exec_keeps i s
  rw [hu] at h
  cases h
  exact hk

theorem onlyChanges_of_exec {i : Instr} {s t : State} (h : exec i s = .next t) : OnlyChanges (framesOf i) s t := by
  intro p hp
  obtain ⟨u, hu, hsame⟩ := exec_frame i s p hp
  rw [hu] at h
  cases h
  exact hsame

/-- Settles O3: every command's meaning answers a next state. -/
theorem commandsAnswerANextState : Obligations.CommandsAnswerANextState := by
  unfold Obligations.CommandsAnswerANextState
  intro i s
  obtain ⟨t, ht, _⟩ := exec_keeps i s
  exact ⟨t, ht⟩

/-- Settles O7, by the frame of each command's meaning. -/
theorem commandsChangeOnlyTheirParts : Obligations.CommandsChangeOnlyTheirParts := by
  unfold Obligations.CommandsChangeOnlyTheirParts
  exact fun _ _ _ h => onlyChanges_of_exec h

/-- Settles O8: no frame lists the queue among the parts a command may change. -/
theorem commandsLeaveTheQueue : Obligations.CommandsLeaveTheQueue := by
  unfold Obligations.CommandsLeaveTheQueue
  exact fun _ _ _ h => (keeps_of_exec h).pend

/-! ### Every step -/

/-- Settles O1. -/
theorem stepRunsFrontCommand : Obligations.StepRunsFrontCommand := by
  unfold Obligations.StepRunsFrontCommand
  intro c rest s h
  simp only [step, h]

/-- Settles O2: one position period passes, in which a HALTED shaft stays where it is. -/
theorem emptyQueueLetsOnePeriodPass : Obligations.EmptyQueueLetsOnePeriodPass := by
  unfold Obligations.EmptyQueueLetsOnePeriodPass
  intro s h
  simp [step, h, State.elapse, State.halted]

/-- The invariant speaks of no part that taking the front command off the queue changes. -/
theorem inv_pending {s : State} (h : Inv s) (l : List Instr) : Inv { s with pending := l } := h

/-- Settles O6: a step is a command or the passage of one period, and both keep the invariant. -/
theorem stepKeepsInvariant : Obligations.StepKeepsInvariant := by
  unfold Obligations.StepKeepsInvariant
  intro s t hinv hstep
  unfold step at hstep
  split at hstep
  · cases hstep
    exact (State.elapse_keeps (Keeps.refl s)).inv hinv
  · exact (keeps_of_exec hstep).inv (inv_pending hinv _)

/-! ### Reset -/

/-- Settles O4: right after reset no register has been written, and every table of the blocks is empty. -/
theorem resetLeavesTheTablesValues : Obligations.ResetLeavesTheTablesValues := by
  unfold Obligations.ResetLeavesTheTablesValues
  exact ⟨fun _ _ => rfl, rfl, rfl, rfl, rfl, rfl, rfl, rfl, rfl, fun n hn => by interval_cases n <;> exact ⟨rfl, rfl⟩⟩

/-- Settles O5: after reset the DCO stands at 0, and nothing is held or in host memory. -/
theorem invariantHoldsAtReset : Obligations.InvariantHoldsAtReset := by
  unfold Obligations.InvariantHoldsAtReset
  exact ⟨⟨by decide, by decide⟩, rfl, fun _ h => absurd h List.not_mem_nil⟩

end Sys2Proof.Machine
end

section
/-! PROOFS. Host memory and the records that go into it: completions in their rings (R461, R463), events in theirs (R464 to R467), and
the answers of host commands to a block in reset (R459). -/

namespace Sys2Proof.Machine

/-! ### Host memory in any form -/

/-- Deleting an entry leaves every other key as it was, whatever the order of the keys. -/
theorem tfind_tdel_other {V : Type} (t : Tab V) {q r : Nat} (h : r ≠ q) : tfind (tdel t q) r = tfind t r := by
  induction t with
  | nil => rfl
  | cons e rest ih =>
    obtain ⟨k, v⟩ := e
    unfold tdel
    split
    · next hk => subst hk; simp [tfind, Ne.symm h]
    · simp only [tfind, ih]

theorem memGet_memPut_other (m : List Host.Cell) {a c : Nat} (b : Byte) (h : c ≠ a) : memGet (memPut m a b) c = memGet m c := by
  unfold memGet tget memPut
  split
  · rw [tfind_tdel_other m h]
  · rw [tfind_tset_other m a c b h]

/-- A run of bytes written leaves every byte outside it as it was, in memory of any form. -/
theorem memGet_memWrite_off (bs : List Nat) : ∀ (m : List Host.Cell) {a c : Nat}, c < a ∨ a + bs.length ≤ c →
    memGet (memWrite m a bs) c = memGet m c := by
  induction bs with
  | nil => exact fun _ _ _ _ => rfl
  | cons b rest ih =>
    intro m a c h
    simp only [List.length_cons] at h
    rw [memWrite, ih _ (by omega), memGet_memPut_other m _ (by omega)]

/-- Settles O15: the canonical form finds the last byte written at an address, and every other as before. -/
theorem hostMemoryReadsBack : Obligations.HostMemoryReadsBack := by
  unfold Obligations.HostMemoryReadsBack
  intro m a bs hm
  refine ⟨memWrite_wf bs m a hm, fun k v hv => ?inside, fun c hc => memGet_memWrite_off bs m hc⟩
  case inside =>
    obtain ⟨hk, rfl⟩ := List.getElem?_eq_some_iff.mp hv
    exact memGet_memWrite_inside bs m a k hk hm

/-! ### Runs of bytes that change -/

theorem MemOnly.of_mem {a n : Nat} {s t : State} (h : t.io.mem = s.io.mem) : MemOnly a n s t := fun _ _ => by rw [h]

theorem MemOnly.of_write {a n : Nat} {s t : State} {bs : List Nat} (hlen : bs.length ≤ n) (h : t.io.mem = memWrite s.io.mem a bs) :
    MemOnly a n s t := fun c hc => by rw [h, memGet_memWrite_off bs _ (by omega)]

/-! ### Records -/

@[simp] theorem length_packItems (items : List (Nat × Nat)) : (packItems items).length = 12 := by simp [packItems]

theorem CplRec.length_bytes {c : CplRec} (h : c.result.length = 12) (alive : Nat) : (c.bytes alive).length = 32 := by
  simp [CplRec.bytes, h]

theorem EvRec.length_bytes {r : EvRec} (h : r.detail.length = 12) (alive : Nat) : (r.bytes alive).length = 32 := by
  simp [EvRec.bytes, h]

/-- The first 28 bytes of a completion record, and what follows them. -/
theorem CplRec.bytes_crc {c : CplRec} (h : c.result.length = 12) (alive : Nat) :
    (c.bytes alive).drop 28 = leBytes 4 (crc32c ((c.bytes alive).take 28)) := by
  unfold CplRec.bytes
  dsimp only
  rw [List.drop_left' (by simp [h]), List.take_left' (by simp [h])]

theorem EvRec.bytes_crc {r : EvRec} (h : r.detail.length = 12) (alive : Nat) :
    (r.bytes alive).drop 28 = leBytes 4 (crc32c ((r.bytes alive).take 28)) := by
  unfold EvRec.bytes
  dsimp only
  rw [List.drop_left' (by simp [h]), List.take_left' (by simp [h])]

/-- Settles O16: the last four bytes are computed from the 28 before them, of which the 12 of the detail or result are always there. -/
theorem recordsEndWithTheirCrc : Obligations.RecordsEndWithTheirCrc := by
  unfold Obligations.RecordsEndWithTheirCrc
  refine ⟨fun s code src alive det folded caused => ?event, fun c items alive hc => ?completion, by decide +kernel⟩
  case event =>
    have hlen : (s.evRec code src det folded caused).detail.length = 12 := length_packItems det
    refine ⟨EvRec.length_bytes hlen alive, EvRec.bytes_crc hlen alive, rfl, ?_⟩
    show (List.drop 16 _).take 12 = (s.evRec code src det folded caused).detail
    unfold EvRec.bytes
    dsimp only
    rw [List.append_assoc, List.drop_left' (by simp), List.take_left' hlen]
  case completion =>
    have hlen : c.result.length = 12 := by rw [hc]; exact length_packItems items
    exact ⟨CplRec.length_bytes hlen alive, CplRec.bytes_crc hlen alive, rfl, rfl⟩

/-! ### Completions (R461, R463, R444) -/

/-- A completion goes only into the next slot of its ring. -/
theorem State.cplPut_memGet_other (s : State) {io : IoSt} {c : CplRec} (hcnt : io.cnt = s.io.cnt) (hlen : c.result.length = 12) {x : Nat}
    (hx : x < s.cplSlot c.ring ∨ s.cplSlot c.ring + 32 ≤ x) : memGet (s.cplPut io c).mem x = memGet io.mem x := by
  have hrd (f : Fld) (i : Nat) : io.rd f i = s.io.rd f i := by simp only [IoSt.rd, hcnt]
  by_cases hen : s.rd Reg.HIF_CPL_EN (s.rd Reg.HIF_CMD_CPL c.ring) = 1
  · rw [State.cplPut_mem hen]
    refine memGet_memWrite_off _ _ ?_
    rw [CplRec.length_bytes hlen, hrd]
    exact hx
  · unfold State.cplPut
    dsimp only
    rw [if_neg hen]
    rfl

/-- The host side as a completion finds it: its reservation ended, the completion logged. -/
def State.ioAnswering (s : State) (c : CplRec) : IoSt :=
  { s.io with delivered := s.io.delivered.eraseP (fun d => d.isOf c.ring c.tag c.opcode), cpllog := (c :: s.io.cpllog).take 256 }

/-- A completion is left out, written, or held. -/
theorem State.ioComplete_cases (s : State) (c : CplRec) (noCpl : Bool) :
    s.ioComplete c noCpl = s.ioAnswering c ∨ s.ioComplete c noCpl = s.cplPut (s.ioAnswering c) c ∨
      s.ioComplete c noCpl = { s.ioAnswering c with heldCpl := s.io.heldCpl ++ [c] } := by
  unfold State.ioComplete
  dsimp only
  split_ifs
  · exact .inl rfl
  · exact .inr (.inl rfl)
  · exact .inr (.inr rfl)

/-- A completion changes host memory, if at all, in its slot alone. -/
theorem State.complete_memOnly (s : State) (h : HostRef) (op outcome reason : Nat) (result : List (Nat × Nat)) :
    MemOnly (s.cplSlot h.ring) 32 s (s.complete h op outcome reason result) := by
  intro x hx
  let c : CplRec := { ring := h.ring, tag := h.tag, opcode := op, outcome := outcome, reason := reason, stamp := s.stamp,
                      result := packItems result }
  have hio : (s.complete h op outcome reason result).io = s.ioComplete c h.noCpl := rfl
  rw [hio]
  rcases State.ioComplete_cases s c h.noCpl with hleft | hput | hheld
  · rw [hleft]; rfl
  · rw [hput]; exact State.cplPut_memGet_other s (io := s.ioAnswering c) rfl (length_packItems result) hx
  · rw [hheld]; rfl

theorem State.done_memOnly (s : State) (h : HostRef) (op : Nat) : MemOnly (s.cplSlot h.ring) 32 s (s.done h op) :=
  State.complete_memOnly s h op 0 0 []

theorem State.refuse_memOnly (s : State) (h : HostRef) (op r : Nat) : MemOnly (s.cplSlot h.ring) 32 s (s.refuse h op r) :=
  State.complete_memOnly s h op 2 r []

theorem State.reject_memOnly (s : State) (h : HostRef) (op r : Nat) : MemOnly (s.cplSlot h.ring) 32 s (s.reject h op r) :=
  State.complete_memOnly s h op 3 r []

section
variable {s : State} {c : CplRec} (hdead : ∀ d ∈ s.io.delivered, d.isOf c.ring c.tag c.opcode = true → d.dead = false)
include hdead

/-- A completion of a command whose ring was not disabled since goes to its ring, where host memory may be written. -/
theorem State.ioComplete_of_open (hhost : s.mayUseHost = true) (hheld : s.io.heldCpl = []) :
    s.ioComplete c false = s.cplPut (s.ioAnswering c) c := by
  unfold State.ioComplete
  dsimp only
  rw [if_neg, if_pos]
  · rfl
  · simp [hhost, hheld]
  · cases hfind : s.io.delivered.find? (fun d => d.isOf c.ring c.tag c.opcode) with
    | none => simp
    | some d => simp [hdead d (List.mem_of_find?_eq_some hfind) (by simpa using List.find?_some hfind)]

/-- It is held behind the others where host memory may not be written. -/
theorem State.ioComplete_of_shut (hhost : s.mayUseHost = false) :
    s.ioComplete c false = { s.ioAnswering c with heldCpl := s.io.heldCpl ++ [c] } := by
  unfold State.ioComplete
  dsimp only
  rw [if_neg, if_neg]
  · rfl
  · simp [hhost]
  · cases hfind : s.io.delivered.find? (fun d => d.isOf c.ring c.tag c.opcode) with
    | none => simp
    | some d => simp [hdead d (List.mem_of_find?_eq_some hfind) (by simpa using List.find?_some hfind)]

end

/-- A disabled ring drops and counts a completion. -/
theorem State.cplPut_of_disabled {s : State} {c : CplRec} (h : s.rd Reg.HIF_CPL_EN (s.rd Reg.HIF_CMD_CPL c.ring) ≠ 1) (io : IoSt) :
    s.cplPut io c = io.countBy Reg.HIF_CPL_DROP_CNT (s.rd Reg.HIF_CMD_CPL c.ring) 1 := by
  unfold State.cplPut
  dsimp only
  rw [if_neg h]

/-- Whatever its message is counted in, a record put into a ring moves the ring's index on by one. -/
theorem State.counted_ringPut_rd (s : State) {io : IoSt} {f : Fld} {i v : Nat} (a : Nat) (record : List Nat) (named : Prop)
    [Decidable named] (now : Bool) (hv : f.key i ≠ Reg.HIF_VEC_MSG_CNT.key v) :
    (if named then s.countRecord (io.ringPut f i a record) v now else io.ringPut f i a record).rd f i =
      (io.rd f i + 1) % 2 ^ f.width := by
  have hput : (io.ringPut f i a record).rd f i = (io.rd f i + 1) % 2 ^ f.width := by
    unfold IoSt.ringPut
    rw [IoSt.lap_rd, IoSt.wr_rd_same]
  exact IoSt.ite_field (·.rd f i) ((State.countRecord_rd_other s _ now hv).trans hput) hput

/-- It leaves every other field held beside but the messages' counts. -/
theorem State.counted_ringPut_rd_other (s : State) {io : IoSt} {f g : Fld} {i j v : Nat} (a : Nat) (record : List Nat) (named : Prop)
    [Decidable named] (now : Bool) (hg : g.key j ≠ f.key i) (hv : g.key j ≠ Reg.HIF_VEC_MSG_CNT.key v) :
    (if named then s.countRecord (io.ringPut f i a record) v now else io.ringPut f i a record).rd g j = io.rd g j := by
  have hput : (io.ringPut f i a record).rd g j = io.rd g j := by
    unfold IoSt.ringPut
    rw [IoSt.lap_rd, IoSt.wr_rd_other _ _ _ _ _ _ hg]
    rfl
  exact IoSt.ite_field (·.rd g j) ((State.countRecord_rd_other s _ now hv).trans hput) hput

theorem State.cplPut_rd_prod {s : State} {c : CplRec} {q : Nat} (hring : q = s.rd Reg.HIF_CMD_CPL c.ring) (hq : q < 16)
    (h : s.rd Reg.HIF_CPL_EN q = 1) (io : IoSt) :
    (s.cplPut io c).rd Reg.HIF_CPL_PROD q = (io.rd Reg.HIF_CPL_PROD q + 1) % 2 ^ 32 := by
  subst hring
  rw [State.cplPut_of_enabled h]
  exact State.counted_ringPut_rd s _ _ _ _ (key_cplProd_ne_vecMsgCnt hq _)

/-- Settles O10: of a completion's four ways (left out, written, dropped, held) the state decides, and only one of them writes. -/
theorem completionsTakeTheirSlot : Obligations.CompletionsTakeTheirSlot := by
  unfold Obligations.CompletionsTakeTheirSlot
  intro s h op outcome reason result q t c hq
  refine ⟨State.complete_memOnly s h op outcome reason result, State.complete_answered .., ?written, ?dropped, ?held⟩
  case written =>
    intro hhost hheld hcpl hdead hen hlt
    have hio : t.io = s.cplPut (s.ioAnswering c) c :=
      (congrArg (s.ioComplete c) hcpl).trans (State.ioComplete_of_open (c := c) hdead hhost hheld)
    rw [hio]
    refine ⟨?_, State.cplPut_rd_prod (c := c) hq hlt hen _⟩
    subst hq
    exact State.cplPut_mem (c := c) hen _
  case dropped =>
    intro hhost hheld hcpl hdead hen hlt
    have hio : t.io = s.cplPut (s.ioAnswering c) c :=
      (congrArg (s.ioComplete c) hcpl).trans (State.ioComplete_of_open (c := c) hdead hhost hheld)
    subst hq
    rw [hio, State.cplPut_of_disabled (c := c) hen]
    exact ⟨rfl, IoSt.wr_rd_same ..⟩
  case held =>
    intro hhost hcpl hdead
    have hio : t.io = { s.ioAnswering c with heldCpl := s.io.heldCpl ++ [c] } :=
      (congrArg (s.ioComplete c) hcpl).trans (State.ioComplete_of_shut (c := c) hdead hhost)
    rw [hio]
    exact ⟨rfl, rfl⟩

/-! ### Host commands to a block in reset (R459, R460) -/

/-- A host command is delivered to its block, which runs it or answers for its reset. -/
theorem exec_of_hostOf {i : Instr} {dt : Nat} {h : HostRef} {d op : Nat} (hi : hostOf i = some (dt, h, d, op)) (s : State) :
    ∃ run, exec i s = .next (s.command dt h d op run) := by
  cases i <;> cases hi <;> exact ⟨_, rfl⟩

section
variable {s : State} {dt : Nat} {h : HostRef} {d op : Nat} (run : State → State)

theorem State.command_inReset (hreset : (s.elapse dt).inReset d = true) :
    s.command dt h d op run = (s.elapse dt).reject h op 6 := by
  unfold State.command
  dsimp only
  rw [if_pos hreset]

theorem State.command_stale (hreset : (s.elapse dt).inReset d = false) (hstale : (s.elapse dt).stale h d op = true) :
    s.command dt h d op run = (s.elapse dt).reject h op 7 := by
  unfold State.command
  dsimp only
  rw [if_neg (by simp [hreset]), if_pos hstale]

theorem State.command_badRead (hreset : (s.elapse dt).inReset d = false) (hstale : (s.elapse dt).stale h d op = false)
    (hbad : h.badRead = true) (hreads : readsBuffer op = true) : s.command dt h d op run = (s.elapse dt).reject h op 8 := by
  unfold State.command
  dsimp only
  rw [if_neg (by simp [hreset]), if_neg (by simp [hstale]), if_pos (by simp [hbad, hreads])]

end

/-- A rejection after some time changes the clock and the host side, there only the slot of its completion. -/
theorem State.elapse_reject (s : State) (dt : Nat) (h : HostRef) (op r : Nat) :
    let t := (s.elapse dt).reject h op r
    Answered t h op 3 r [] ∧ OnlyChanges [.clock, .io] s t ∧ t.time = s.time + dt ∧ MemOnly (s.cplSlot h.ring) 32 s t :=
  ⟨State.reject_answered .., (onlyChanges_iff _ _ _).mpr (by simp), rfl, State.reject_memOnly (s.elapse dt) h op r⟩

/-- Settles O9: every host command goes through the one delivery, which judges the reset, the generation and the read in this order. -/
theorem hostCommandsMeetResets : Obligations.HostCommandsMeetResets := by
  unfold Obligations.HostCommandsMeetResets
  intro i s dt h d op hi
  obtain ⟨run, hrun⟩ := exec_of_hostOf hi s
  refine ⟨fun hreset => ?_, fun hreset hstale => ?_, fun hreset hstale hbad hreads => ?_⟩
  · exact ⟨_, hrun, by rw [State.command_inReset run hreset]; exact State.elapse_reject s dt h op 6⟩
  · exact ⟨_, hrun, by rw [State.command_stale run hreset hstale]; exact State.elapse_reject s dt h op 7⟩
  · exact ⟨_, hrun, by rw [State.command_badRead run hreset hstale hbad hreads]; exact State.elapse_reject s dt h op 8⟩

/-! ### What host commands store -/

section
variable {s t : State} {dt : Nat} {h : HostRef} {d op : Nat} {run : State → State}

/-- What a delivered command stores, its answer to a reset stores less: only its completion. -/
theorem State.command_memOnly (hrun : MemOnly (s.cplSlot h.ring) 32 s (run (s.elapse dt))) :
    MemOnly (s.cplSlot h.ring) 32 s (s.command dt h d op run) := by
  have hrejected (r : Nat) : MemOnly (s.cplSlot h.ring) 32 s ((s.elapse dt).reject h op r) :=
    State.reject_memOnly (s.elapse dt) h op r
  unfold State.command
  dsimp only
  split
  · exact hrejected 6
  · split
    · exact hrejected 7
    · split
      · exact hrejected 8
      · exact hrun

/-- The same of a command that stores a buffer besides. -/
theorem State.command_memGet {c : Nat} (hc : c < s.cplSlot h.ring ∨ s.cplSlot h.ring + 32 ≤ c)
    (hrun : memGet (run (s.elapse dt)).io.mem c = memGet s.io.mem c) :
    memGet (s.command dt h d op run).io.mem c = memGet s.io.mem c := by
  have hrejected (r : Nat) : memGet ((s.elapse dt).reject h op r).io.mem c = memGet s.io.mem c :=
    State.reject_memOnly (s.elapse dt) h op r c hc
  unfold State.command
  dsimp only
  split
  · exact hrejected 6
  · split
    · exact hrejected 7
    · split
      · exact hrejected 8
      · exact hrun

end

/-- A completion's slot is the same in states with the same registers and the same host side. -/
theorem State.cplSlot_congr {s t : State} (hregs : t.regs = s.regs) (hcnt : t.io.cnt = s.io.cnt) (ring : Nat) :
    t.cplSlot ring = s.cplSlot ring := by
  simp only [State.cplSlot, State.rd, IoSt.rd, hregs, hcnt]

/-- Whatever a command did before it completed, if it left host memory and the ring as they were, its completion alone is stored. -/
theorem State.complete_memOnly_of {s a : State} {h : HostRef} (op outcome reason : Nat) (result : List (Nat × Nat))
    (hslot : a.cplSlot h.ring = s.cplSlot h.ring) (hmem : a.io.mem = s.io.mem) :
    MemOnly (s.cplSlot h.ring) 32 s (a.complete h op outcome reason result) := by
  intro c hc
  rw [← hmem]
  exact State.complete_memOnly a h op outcome reason result c (by rw [hslot]; exact hc)

/-- A byte outside the buffer and outside the completion's slot is as before a buffer is stored and the command completes. -/
theorem State.hostWrite_done_memGet {s a : State} {h : HostRef} {op host : Nat} {bs : List Nat} {c : Nat}
    (hslot : a.cplSlot h.ring = s.cplSlot h.ring) (hmem : a.io.mem = s.io.mem) (hbuf : c < host ∨ host + bs.length ≤ c)
    (hc : c < s.cplSlot h.ring ∨ s.cplSlot h.ring + 32 ≤ c) :
    memGet ((a.hostWrite host bs).done h op).io.mem c = memGet s.io.mem c := by
  have hslot' : (a.hostWrite host bs).cplSlot h.ring = s.cplSlot h.ring := hslot
  rw [State.done_memOnly _ _ _ c (by rw [hslot']; exact hc), ← hmem]
  exact memGet_memWrite_off bs _ hbuf

/-- The entries of a page read, one after the other. -/
theorem length_pageBytes (n w : Nat) (f : Nat → Nat) : (((List.range n).map fun i => leBytes w (f i)).flatten).length = w * n := by
  induction n with
  | zero => rfl
  | succ n ih => rw [List.range_succ, List.map_append, List.flatten_append, List.length_append, ih]; simp [Nat.mul_succ]

/-- A write below the host interface's registers leaves where completions go. -/
theorem State.wr_cplSlot (s : State) {f : Fld} {i : Nat} (v : Nat) (hf : f.key i < 0x00701000 * 32) (ring : Nat) :
    (s.wr f i v).cplSlot ring = s.cplSlot ring := by
  have hother {g : Fld} (hg : 0x00701000 ≤ g.base) (j : Nat) : (s.wr f i v).rd g j = s.rd g j := by
    refine State.wr_rd_other s f g i j v ?_
    have : g.base * 32 ≤ g.key j := by unfold Fld.key; nlinarith [Nat.zero_le (g.stride * j), Nat.zero_le g.lo]
    omega
  unfold State.cplSlot
  simp only [hother (g := Reg.HIF_CMD_CPL) (by decide), hother (g := Reg.HIF_CPL_BASE_LO) (by decide),
    hother (g := Reg.HIF_CPL_BASE_HI) (by decide), hother (g := Reg.HIF_CPL_SIZE) (by decide), State.wr_io]

section
variable {s t : State} {dt : Nat} {h : HostRef}

/-- The eight commands that return nothing but their completion. -/
theorem execAnswering_memOnly (on stamp sec ns value first count point : Nat) (levels : List Nat) (c15 c24 : Bool) {i : Instr}
    (hi : i ∈ [Instr.timClear dt h, .timHoldover dt h on, .timSetTod dt h stamp sec ns, .timTodCapture dt h, .hifNop dt h value,
      .hifSevSet dt h first count levels, .cfgStatus dt h, .pmnPointClear dt h point c15 c24]) (he : exec i s = .next t) :
    MemOnly (s.cplSlot h.ring) 32 s t := by
  have answers (a : State) (op outcome reason : Nat) (result : List (Nat × Nat)) (hregs : a.regs = s.regs) (hcnt : a.io.cnt = s.io.cnt)
      (hmem : a.io.mem = s.io.mem) : MemOnly (s.cplSlot h.ring) 32 s (a.complete h op outcome reason result) :=
    State.complete_memOnly_of op outcome reason result (State.cplSlot_congr hregs hcnt _) hmem
  simp only [List.mem_cons, List.not_mem_nil, or_false] at hi
  rcases hi with rfl | rfl | rfl | rfl | rfl | rfl | rfl | rfl <;> cases he <;> refine State.command_memOnly ?_
  case inl => exact State.complete_memOnly_of _ _ _ _ (State.wr_cplSlot _ _ (by decide) _) rfl
  case inr.inl => exact answers _ _ _ _ _ rfl rfl rfl
  case inr.inr.inl =>
    dsimp only
    split
    · exact answers _ _ _ _ _ rfl rfl rfl
    · exact answers _ _ _ _ _ rfl rfl rfl
  case inr.inr.inr.inl =>
    exact answers _ _ _ _ _ (State.waitAddr_regs ..) (by rw [State.waitAddr_io]; rfl) (by rw [State.waitAddr_io]; rfl)
  case inr.inr.inr.inr.inl => exact answers _ _ _ _ _ rfl rfl rfl
  case inr.inr.inr.inr.inr.inl =>
    dsimp only
    split
    · exact answers _ _ _ _ _ rfl rfl rfl
    · exact answers _ _ _ _ _ rfl rfl rfl
  case inr.inr.inr.inr.inr.inr.inl => exact answers _ _ _ _ _ rfl rfl rfl
  case inr.inr.inr.inr.inr.inr.inr =>
    dsimp only
    split
    · exact answers _ _ _ _ _ rfl rfl rfl
    · split
      · exact answers _ _ _ _ _ rfl rfl rfl
      · exact answers _ _ _ _ _ rfl rfl rfl

theorem execMapPageRead_memGet {p : PageRead} (he : exec (.mapPageRead dt h p) s = .next t) {c : Nat}
    (hbuf : c < p.host ∨ p.host + (if p.what = 0 then 16 else 8) * p.count ≤ c)
    (hc : c < s.cplSlot h.ring ∨ s.cplSlot h.ring + 32 ≤ c) : memGet t.io.mem c = memGet s.io.mem c := by
  cases he
  refine State.command_memGet hc ?_
  extract_lets most table w
  have hlen : (((List.range p.count).map fun i => leBytes w (tget 0 table (p.first + i))).flatten).length = w * p.count :=
    length_pageBytes _ w _
  split
  · exact State.refuse_memOnly (s.elapse dt) h _ _ c hc
  · exact State.hostWrite_done_memGet rfl rfl (by rw [hlen]; exact hbuf) hc

theorem execPmnSecRead_memGet {point host : Nat} (he : exec (.pmnSecRead dt h point host) s = .next t) {c : Nat}
    (hbuf : c < host ∨ host + ((s.toNextCycle dt).pointBytes point).length ≤ c)
    (hc : c < s.cplSlot h.ring ∨ s.cplSlot h.ring + 32 ≤ c) : memGet t.io.mem c = memGet s.io.mem c := by
  have refused (r : Nat) : memGet ((s.elapse dt).refuse h Op.PMN_SEC_READ r).io.mem c = memGet s.io.mem c :=
    State.refuse_memOnly (s.elapse dt) h _ _ c hc
  cases he
  refine State.command_memGet hc ?_
  dsimp only
  split
  · exact refused 1
  · split
    · exact refused 2
    · split
      · exact refused 4
      · exact State.hostWrite_done_memGet
          (State.cplSlot_congr (State.toNextCycle_regs s dt) (congrArg IoSt.cnt (State.toNextCycle_io s dt)) _)
          (congrArg IoSt.mem (State.toNextCycle_io s dt)) hbuf hc

end

/-- Settles O11: each of these commands ends in one completion, and the two reads store their buffer just before it. -/
theorem answersStoreOnlyTheirBytes : Obligations.AnswersStoreOnlyTheirBytes := by
  unfold Obligations.AnswersStoreOnlyTheirBytes
  intro s t dt h
  refine ⟨fun on stamp sec ns value first count point levels c15 c24 i hi he => ?_, fun p he c hbuf hc => ?_,
    fun point host he c hbuf hc => ?_⟩
  · exact execAnswering_memOnly on stamp sec ns value first count point levels c15 c24 hi he
  · exact execMapPageRead_memGet he hbuf hc
  · exact execPmnSecRead_memGet he hbuf hc

/-! ### Events in their rings (R464 to R467) -/

@[simp] theorem IoSt.wr_mem (io : IoSt) (f : Fld) (i v : Nat) : (io.wr f i v).mem = io.mem := rfl
@[simp] theorem IoSt.wr_evq (io : IoSt) (f : Fld) (i v : Nat) : (io.wr f i v).evq = io.evq := rfl
@[simp] theorem IoSt.countBy_mem (io : IoSt) (f : Fld) (i n : Nat) : (io.countBy f i n).mem = io.mem := rfl
@[simp] theorem IoSt.countBy_evq (io : IoSt) (f : Fld) (i n : Nat) : (io.countBy f i n).evq = io.evq := rfl

@[simp] theorem IoSt.sendMsg_evq (io : IoSt) (v : Nat) : (io.sendMsg v).evq = io.evq := by
  unfold IoSt.sendMsg; split <;> rfl

@[simp] theorem State.countRecord_evq (s : State) (io : IoSt) (v : Nat) (now : Bool) : (s.countRecord io v now).evq = io.evq := by
  unfold State.countRecord; dsimp only; split <;> simp

/-- A record put into a queue's ring leaves what the queues hold and have dropped. -/
@[simp] theorem State.evqPut_evq (s : State) (io : IoSt) (q : Nat) (r : EvRec) : (s.evqPut io q r).evq = io.evq := by
  unfold State.evqPut; dsimp only; split <;> simp

theorem State.evqPut_rd_prod (s : State) (io : IoSt) {q : Nat} (hq : q < 32) (r : EvRec) :
    (s.evqPut io q r).rd Reg.HIF_EVQ_PROD q = (io.rd Reg.HIF_EVQ_PROD q + 1) % 2 ^ 32 := by
  rw [State.evqPut_eq]
  exact State.counted_ringPut_rd s _ _ _ _ (key_evqProd_ne_vecMsgCnt hq _)

/-- Outside its own index and the messages' counts a record put leaves the fields held beside. -/
theorem State.evqPut_rd_other (s : State) (io : IoSt) {q : Nat} (r : EvRec) {g : Fld} {j : Nat} (hg : g.key j ≠ Reg.HIF_EVQ_PROD.key q)
    (hv : ∀ v, g.key j ≠ Reg.HIF_VEC_MSG_CNT.key v) : (s.evqPut io q r).rd g j = io.rd g j := by
  rw [State.evqPut_eq]
  exact State.counted_ringPut_rd_other s _ _ _ _ hg (hv _)

theorem State.evqPut_rd_prod_other (s : State) (io : IoSt) {q k : Nat} (hk : k < 32) (hne : k ≠ q) (r : EvRec) :
    (s.evqPut io q r).rd Reg.HIF_EVQ_PROD k = io.rd Reg.HIF_EVQ_PROD k :=
  State.evqPut_rd_other s io r (by simp only [Fld.key, Reg.HIF_EVQ_PROD]; omega) (key_evqProd_ne_vecMsgCnt hk)

theorem State.evqPut_rd_dropCnt (s : State) (io : IoSt) {q k : Nat} (hk : k < 32) (r : EvRec) :
    (s.evqPut io q r).rd Reg.HIF_EVQ_DROP_CNT k = io.rd Reg.HIF_EVQ_DROP_CNT k :=
  State.evqPut_rd_other s io r (by simp only [Fld.key, Reg.HIF_EVQ_PROD, Reg.HIF_EVQ_DROP_CNT]; omega)
    (fun v => by simp only [Fld.key, Reg.HIF_VEC_MSG_CNT, Reg.HIF_EVQ_DROP_CNT]; omega)

/-- A record put into one queue's ring leaves another's room. -/
theorem State.evqPut_evqFree_other (s : State) (io : IoSt) {q k : Nat} (hk : k < 32) (hne : k ≠ q) (r : EvRec) :
    s.evqFree (s.evqPut io q r) k = s.evqFree io k := by
  have hcons : (s.evqPut io q r).rd Reg.HIF_EVQ_CONS k = io.rd Reg.HIF_EVQ_CONS k :=
    State.evqPut_rd_other s io r (by simp only [Fld.key, Reg.HIF_EVQ_PROD, Reg.HIF_EVQ_CONS]; omega)
      (fun v => by simp only [Fld.key, Reg.HIF_VEC_MSG_CNT, Reg.HIF_EVQ_CONS]; omega)
  unfold State.evqFree
  rw [hcons, State.evqPut_rd_prod_other s io hk hne]

section
variable {s : State} {io : IoSt} {q : Nat}

/-- An event for a queue that is open and holds nothing back, with room for it, goes into its ring. -/
theorem State.evqSend_put (hopen : s.evqOpen q = true) (hheld : (tget {} io.evq q).held = []) (hover : (tget {} io.evq q).inOver = false)
    (hroom : 2 ≤ s.evqFree io q) (r : EvRec) : s.evqSend io q r = s.evqPut io q r := by
  have hfull : ¬ s.evqFree io q = 1 := by omega
  have hshort : ¬ s.evqFree io q ≤ 1 := by omega
  simp [State.evqSend, State.evqRoom, hopen, hheld, hover, hfull, hshort]

/-- An event for a queue that cannot be written is kept for it (R467). -/
theorem State.evqSend_hold (hshut : s.evqOpen q = false) (r : EvRec) : s.evqSend io q r = s.evqHold io q r := by
  simp [State.evqSend, hshut]

/-- An event for a queue in overflow is dropped (R466). -/
theorem State.evqSend_drop (hopen : s.evqOpen q = true) (hheld : (tget {} io.evq q).held = []) (hover : (tget {} io.evq q).inOver = true)
    (r : EvRec) : s.evqSend io q r = s.evqDrop io q r := by
  simp [State.evqSend, State.evqRoom, hopen, hheld, hover]

/-- The host side once an open queue with one free slot has taken EVQ_OVERFLOW, before the event itself is dropped. -/
def State.evqOverflowed (s : State) (io : IoSt) (q : Nat) : IoSt :=
  { s.evqPut io q (s.overflowRec q 0 0 0) with
    evq := tmod {} (s.evqPut io q (s.overflowRec q 0 0 0)).evq q (fun e => { e with inOver := true, drops := 0 }) }

theorem State.evqSend_overflow (hopen : s.evqOpen 0 = true) (hheld : (tget {} io.evq 0).held = [])
    (hover : (tget {} io.evq 0).inOver = false) (hroom : s.evqFree io 0 = 1) (r : EvRec) :
    s.evqSend io 0 r = s.evqDrop (s.evqOverflowed io 0) 0 r := by
  simp [State.evqSend, State.evqRoom, hopen, hheld, hover, hroom, State.evqOverflowed]

end

/-- The host side with an event logged. -/
def State.ioLogged (s : State) (r : EvRec) : IoSt :=
  { s.io with evlog := (r :: s.io.evlog).take 256,
              logWait := if min 4 (s.rd Reg.BKG_LOG_SEV 0) ≤ r.sev then s.io.logWait ++ [r] else s.io.logWait }

/-- An event that is not CRITICAL, or whose own queue is EVQ 0, goes to its queue alone (R464). -/
theorem State.ioRaise_own {s : State} {r : EvRec} {q : Nat} (h : r.sev ≠ 4 ∨ q = 0) : s.ioRaise r q = s.evqSend (s.ioLogged r) q r := by
  have hq : ¬ (decide (r.sev = 4) && q != 0) = true := by
    rcases h with h | h <;> simp [h]
  unfold State.ioRaise
  dsimp only
  rw [if_neg hq]
  rfl

/-- A CRITICAL one goes to EVQ 0 besides. -/
theorem State.ioRaise_critical {s : State} {r : EvRec} {q : Nat} (hsev : r.sev = 4) (hq : q ≠ 0) :
    s.ioRaise r q = s.evqSend (s.evqSend (s.ioLogged r) q r) 0 r := by
  have hboth : (decide (r.sev = 4) && q != 0) = true := by simp [hsev, hq]
  unfold State.ioRaise
  dsimp only
  rw [if_pos hboth]
  rfl

/-- Settles O12: an open queue with room puts the record into its ring, and a CRITICAL event does so twice, at two indices. -/
theorem eventsGoToTheirQueues : Obligations.EventsGoToTheirQueues := by
  unfold Obligations.EventsGoToTheirQueues
  intro s code src q det hq hlt hopen hheld hover hroom
  let r := s.evRec code src det false false
  let io := s.ioLogged r
  have hput : s.evqSend io q r = s.evqPut io q r := State.evqSend_put (io := io) hopen hheld hover hroom r
  refine ⟨fun hown => ?own, fun hcrit hne hopen0 hheld0 hover0 hroom0 => ?critical⟩
  case own =>
    have hio : (s.raise code src det).io = s.evqPut io q r := by
      show s.ioRaise r (s.routeOf code) = _
      rw [← hq, State.ioRaise_own hown, hput]
    rw [hio]
    exact ⟨State.evqPut_mem s io q r, State.evqPut_rd_prod s io hlt r, fun k hk hne => State.evqPut_rd_prod_other s io hk hne r⟩
  case critical =>
    have hput0 : s.evqSend (s.evqPut io q r) 0 r = s.evqPut (s.evqPut io q r) 0 r := by
      refine State.evqSend_put hopen0 ?_ ?_ ?_ r
      · rw [State.evqPut_evq]; exact hheld0
      · rw [State.evqPut_evq]; exact hover0
      · rw [State.evqPut_evqFree_other s io (by decide) (Ne.symm hne)]; exact hroom0
    have hio : (s.raise code src det).io = s.evqPut (s.evqPut io q r) 0 r := by
      show s.ioRaise r (s.routeOf code) = _
      rw [← hq, State.ioRaise_critical hcrit hne, hput, hput0]
    rw [hio]
    constructor
    · rw [State.evqPut_rd_prod_other s _ hlt hne]
      exact State.evqPut_rd_prod s io hlt r
    · rw [State.evqPut_rd_prod s _ (by decide), State.evqPut_rd_prod_other s io (by decide) (Ne.symm hne)]
      rfl

/-! ### What events store -/

theorem State.length_overflowRec_detail (s : State) (q n first last : Nat) : (s.overflowRec q n first last).detail.length = 12 := by
  unfold State.overflowRec
  exact length_packItems _

@[simp] theorem State.evqDrop_mem (s : State) (io : IoSt) (q : Nat) (r : EvRec) : (s.evqDrop io q r).mem = io.mem := rfl

/-- An event drops, or takes EVQ_OVERFLOW's place and drops, or goes into the ring (R466). -/
theorem State.evqRoom_cases (s : State) (io : IoSt) (q : Nat) (r : EvRec) :
    s.evqRoom io q r = s.evqDrop io q r ∨ s.evqRoom io q r = s.evqDrop (s.evqOverflowed io q) q r ∨
      (∃ e, s.evqRoom io q r = s.evqDrop { io with evq := e } q r) ∨ s.evqRoom io q r = s.evqPut io q r := by
  unfold State.evqRoom
  dsimp only
  by_cases hover : (tget {} io.evq q).inOver = true
  · rw [if_pos hover]; exact .inl rfl
  · rw [if_neg hover]
    by_cases hfull : s.evqFree io q ≤ 1
    · rw [if_pos hfull]
      by_cases hlast : s.evqFree io q = 1
      · rw [if_pos hlast]; exact .inr (.inl rfl)
      · rw [if_neg hlast]; exact .inr (.inr (.inl ⟨_, rfl⟩))
    · rw [if_neg hfull]; exact .inr (.inr (.inr rfl))

section
variable {s : State} {q c : Nat} (hc : c < s.evqBase q ∨ s.evqBase q + 32 * s.evqSize q ≤ c)
include hc

/-- A slot of a ring lies inside the ring. -/
theorem State.evqPut_memGet {r : EvRec} (hr : r.detail.length = 12) (io : IoSt) : memGet (s.evqPut io q r).mem c = memGet io.mem c := by
  rw [State.evqPut_mem]
  refine memGet_memWrite_off _ _ ?_
  have hslot : io.rd Reg.HIF_EVQ_PROD q % s.evqSize q < s.evqSize q := Nat.mod_lt _ (Nat.two_pow_pos _)
  rw [EvRec.length_bytes hr]
  omega

theorem State.evqRoom_memGet {r : EvRec} (hr : r.detail.length = 12) (io : IoSt) : memGet (s.evqRoom io q r).mem c = memGet io.mem c := by
  rcases State.evqRoom_cases s io q r with hdrop | hover | ⟨e, hdrop⟩ | hput
  · rw [hdrop, State.evqDrop_mem]
  · rw [hover, State.evqDrop_mem]
    exact State.evqPut_memGet hc (State.length_overflowRec_detail ..) io
  · rw [hdrop, State.evqDrop_mem]
  · rw [hput]
    exact State.evqPut_memGet hc hr io

end

@[simp] theorem State.evqHold_mem (s : State) (io : IoSt) (q : Nat) (r : EvRec) : (s.evqHold io q r).mem = io.mem := by
  unfold State.evqHold; dsimp only; split <;> rfl

/-- An event sent to a queue stores in the queue's ring, and where its overflow is reported in that of EVQ 0. -/
theorem State.evqSend_memGet {s : State} {q c : Nat}
    (hc : ∀ k, k = 0 ∨ k = q → c < s.evqBase k ∨ s.evqBase k + 32 * s.evqSize k ≤ c) {r : EvRec} (hr : r.detail.length = 12) (io : IoSt) :
    memGet (s.evqSend io q r).mem c = memGet io.mem c := by
  have hroom : memGet (s.evqRoom io q r).mem c = memGet io.mem c := State.evqRoom_memGet (hc q (.inr rfl)) hr io
  unfold State.evqSend
  split
  · dsimp only
    split
    · split
      · rw [State.evqRoom_memGet (hc 0 (.inl rfl)) (State.length_overflowRec_detail ..), hroom]
      · rw [State.evqHold_mem, hroom]
    · exact hroom
  · rw [State.evqHold_mem]

/-- Settles O13: what an event puts, it puts into a slot of a ring; dropping and holding store nothing. -/
theorem eventsStoreOnlyInTheirRings : Obligations.EventsStoreOnlyInTheirRings := by
  unfold Obligations.EventsStoreOnlyInTheirRings
  intro s r q c hr hc
  have hown : memGet (s.evqSend (s.ioLogged r) q r).mem c = memGet s.io.mem c := State.evqSend_memGet hc hr _
  by_cases h : r.sev ≠ 4 ∨ q = 0
  · rw [State.ioRaise_own h, hown]
  · obtain ⟨hsev, hq⟩ := not_or.mp h
    have hzero : ∀ k, k = 0 ∨ k = 0 → c < s.evqBase k ∨ s.evqBase k + 32 * s.evqSize k ≤ c := fun k hk => hc k (.inl (or_self_iff.mp hk))
    rw [State.ioRaise_critical (not_ne_iff.mp hsev) hq, State.evqSend_memGet hzero hr, hown]

/-! ### Overflow (R466, R467) -/

theorem State.evqDrop_rd (s : State) (io : IoSt) (q : Nat) (r : EvRec) :
    (s.evqDrop io q r).rd Reg.HIF_EVQ_DROP_CNT q = (io.rd Reg.HIF_EVQ_DROP_CNT q + 1) % 2 ^ 32 := IoSt.wr_rd_same ..

theorem State.evqDrop_evq (s : State) (io : IoSt) (q : Nat) (r : EvRec) :
    (tget {} (s.evqDrop io q r).evq q).inOver = (tget {} io.evq q).inOver ∧
      (tget {} (s.evqDrop io q r).evq q).drops = (tget {} io.evq q).drops + 1 := by
  simp [State.evqDrop, tget_tset]

/-- Settles O14: an event for EVQ 0 alone, by the queue's state: with one free slot, in overflow, and shut with fewer or as many as 64
held. -/
theorem eventQueuesOverflow : Obligations.EventQueuesOverflow := by
  unfold Obligations.EventQueuesOverflow
  intro s r
  have hraise : s.ioRaise r 0 = s.evqSend (s.ioLogged r) 0 r := State.ioRaise_own (.inr rfl)
  rw [hraise]
  refine ⟨fun hopen hheld hover hroom => ?lastSlot, fun hopen hheld hover => ?inOverflow, fun hshut hfew => ?held, fun hshut hmany => ?lost⟩
  case lastSlot =>
    rw [State.evqSend_overflow (io := s.ioLogged r) hopen hheld hover hroom]
    have hevq := State.evqDrop_evq s (s.evqOverflowed (s.ioLogged r) 0) 0 r
    refine ⟨State.evqPut_mem s (s.ioLogged r) 0 _, ?_, ?_, ?_⟩
    · rw [State.evqDrop_rd]
      show ((s.evqPut (s.ioLogged r) 0 _).rd Reg.HIF_EVQ_DROP_CNT 0 + 1) % 2 ^ 32 = _
      rw [State.evqPut_rd_dropCnt s _ (by decide)]
      rfl
    · rw [hevq.1]
      simp [State.evqOverflowed, tmod, tget_tset]
    · rw [hevq.2]
      simp [State.evqOverflowed, tmod, tget_tset]
  case inOverflow =>
    rw [State.evqSend_drop (io := s.ioLogged r) hopen hheld hover]
    exact ⟨rfl, State.evqDrop_rd .., (State.evqDrop_evq ..).2⟩
  case held =>
    have hlog : (tget {} (s.ioLogged r).evq 0).held.length < 64 := hfew
    rw [State.evqSend_hold hshut]
    unfold State.evqHold
    dsimp only
    rw [if_pos hlog]
    exact ⟨rfl, by simp only [tget_tset, if_pos]; rfl, rfl⟩
  case lost =>
    have hlog : ¬ (tget {} (s.ioLogged r).evq 0).held.length < 64 := by
      show ¬ (tget {} s.io.evq 0).held.length < 64
      omega
    rw [State.evqSend_hold hshut]
    unfold State.evqHold
    dsimp only
    rw [if_neg hlog]
    exact ⟨rfl, by simp only [IoSt.countBy_evq, tget_tset, if_pos]; rfl, by simp only [IoSt.countBy_evq, tget_tset, if_pos]; rfl,
      IoSt.wr_rd_same ..⟩

end Sys2Proof.Machine
end

section
/-! PROOFS. The shaft's events (chapter 02). -/

namespace Sys2Proof.Machine

/-- Context 1's gate is followed from the tubs that arrive for it, and stands at 32: no boundary is near. -/
def gateFollowed : State := { State.reset with rlk := { State.reset.rlk with ctxs := [(1, { gateAt := some 0 })] } }

/-- Refutes O25: where a gate's store is followed from the tubs that arrive, GATE_SLIP judges the fill that the device has, and not
the row's, which it takes only while it has none. Here the row brings 8 and the store stands at 32, so nothing slips. -/
theorem not_shaftEventsTakeEffect : ¬ Obligations.ShaftEventsTakeEffect := by
  unfold Obligations.ShaftEventsTakeEffect
  intro h
  obtain ⟨-, -, -, -, hslip, -⟩ := h gateFollowed 0
  obtain ⟨t, ht, hfill, -⟩ := hslip 1 8 (.inl (by decide))
  cases ht
  exact absurd hfill (by decide +kernel)

end Sys2Proof.Machine
end

section
/-! PROOFS. The timing block's host commands (R102, Table 03-12). -/

namespace Sys2Proof.Machine

/-! ### Admitted host commands -/

/-- An admitted host command completes with what its meaning makes of the state after its time. -/
theorem completes_of_admitted {i : Instr} {s : State} {dt : Nat} {h : HostRef} {d op : Nat} {run : State → State}
    {post : State → Prop} (hexec : exec i s = .next (s.command dt h d op run)) (hadm : Admitted s dt h d op)
    (hpost : post (run (s.elapse dt))) : Completes i s post :=
  ⟨_, hexec, by rw [State.command_admitted hadm]; exact hpost⟩

@[simp] theorem State.wrBit_rd_same (s : State) (f : Fld) (i : Nat) (b : Bool) : (s.wrBit f i b).rd f i = ofBool b % 2 ^ f.width :=
  State.wr_rd_same s f i (ofBool b)

/-- A counter reads one more, cut to its width. -/
@[simp] theorem State.count_rd_same' (s : State) (f : Fld) (i : Nat) : (s.count f i).rd f i = (s.rd f i + 1) % 2 ^ f.width :=
  State.wr_rd_same s f i (s.rd f i + 1)

theorem RegsOnly.wrBit {l : List (Fld × Nat)} {s t : State} (k : RegsOnly l s t) {f : Fld} {i : Nat} {b : Bool} (hf : (f, i) ∈ l) :
    RegsOnly l s (t.wrBit f i b) := k.wr f i _ hf

theorem RegsOnly.wrInt {l : List (Fld × Nat)} {s t : State} (k : RegsOnly l s t) {f : Fld} {i : Nat} {v : Int} (hf : (f, i) ∈ l) :
    RegsOnly l s (t.wrInt f i v) := k.wr f i _ hf

theorem RegsOnly.count {l : List (Fld × Nat)} {s t : State} (k : RegsOnly l s t) {f : Fld} {i : Nat} (hf : (f, i) ∈ l) :
    RegsOnly l s (t.count f i) := k.wr f i _ hf

/-- An update of the state beside the registers leaves them. -/
theorem RegsOnly.upd {l : List (Fld × Nat)} {s t : State} (k : RegsOnly l s t)
    {pd tm ad dc ct io shf tim flt prt rlk frm map ovm qmg feeds pm cip par eng asy bkg sec sys} :
    RegsOnly l s ⟨pd, tm, ad, dc, ct, t.regs, io, shf, tim, flt, prt, rlk, frm, map, ovm, qmg, feeds, pm, cip, par, eng, asy, bkg,
      sec, sys⟩ := k

theorem RegsOnly.raise {l : List (Fld × Nat)} {s t : State} (k : RegsOnly l s t) (code src : Nat) (d : List (Nat × Nat)) :
    RegsOnly l s (t.raise code src d) := k

theorem RegsOnly.raiseC {l : List (Fld × Nat)} {s t : State} (k : RegsOnly l s t) (code src : Nat) (d : List (Nat × Nat)) :
    RegsOnly l s (t.raiseC code src d) := k

theorem RegsOnly.ite {l : List (Fld × Nat)} {s t u : State} {c : Prop} [Decidable c] (h : RegsOnly l s t) (k : RegsOnly l s u) :
    RegsOnly l s (if c then t else u) := by
  split <;> assumption

/-- Completions leave the registers. -/
theorem RegsOnly.complete {l : List (Fld × Nat)} {s t : State} (k : RegsOnly l s t) (h : HostRef) (op o r : Nat)
    (items : List (Nat × Nat)) : RegsOnly l s (t.complete h op o r items) := k.of_regs rfl

theorem RegsOnly.done {l : List (Fld × Nat)} {s t : State} (k : RegsOnly l s t) (h : HostRef) (op : Nat) :
    RegsOnly l s (t.done h op) := k.of_regs rfl

/-- Time leaves the registers. -/
theorem RegsOnly.of_elapse (l : List (Fld × Nat)) (s : State) (n : Nat) : RegsOnly l s (s.elapse n) := regsOnly_of_regs rfl l

theorem RegsOnly.of_toNextCycle (l : List (Fld × Nat)) (s : State) (n : Nat) : RegsOnly l s (s.toNextCycle n) :=
  regsOnly_of_regs (State.toNextCycle_regs s n) l

theorem Raised.done {s : State} {code src : Nat} {d : List (Nat × Nat)} (k : Raised s code src d) (h : HostRef) (op : Nat) :
    Raised (s.done h op) code src d := k.complete h op 0 0 []

/-! ### The commands -/

theorem State.cand_congr {s t : State} (h : t.tim.cands = s.tim.cands) (n : Nat) : t.cand n = s.cand n := by
  unfold State.cand; rw [h]

@[simp] theorem State.loadFit_regs (s : State) (p : ModelCoef) : (s.loadFit p).regs = s.regs := rfl

@[simp] theorem State.loadFit_rd (s : State) (p : ModelCoef) (f : Fld) (i : Nat) : (s.loadFit p).rd f i = s.rd f i := rfl

section
variable {s : State} {dt : Nat} {h : HostRef}

theorem completes_timForce {cand : Nat} (hadm : Admitted s dt h domShaft Op.TIM_FORCE) (hcand : s.badCand cand = false)
    (hqual : s.candState cand = 3) :
    Completes (.timForce dt h cand) s fun t =>
      t.tim = { s.tim with forced := some cand } ∧ t.rd Reg.TIM_FORCED 0 = 1 ∧ Answered t h Op.TIM_FORCE 0 0 [] ∧
      RegsOnly [(Reg.TIM_FORCED, 0)] s t := by
  have hcand' : ¬ (s.elapse dt).badCand cand = true := by rw [← Bool.not_eq_true] at hcand; exact hcand
  have hqual' : ¬ ((s.elapse dt).candState cand != 3) = true := by
    rw [bne_iff_ne, not_not]; exact hqual
  refine completes_of_admitted rfl hadm ?_
  dsimp only
  rw [if_neg hcand', if_neg hqual']
  refine ⟨rfl, ?_, State.done_answered .., RegsOnly.done (RegsOnly.wrBit (RegsOnly.upd (RegsOnly.of_elapse _ s dt)) ?_) h _⟩
  · rw [State.done_rd, State.wrBit_rd_same]; rfl
  · exact List.mem_singleton.mpr rfl

theorem completes_timClear (hadm : Admitted s dt h domShaft Op.TIM_CLEAR) :
    Completes (.timClear dt h) s fun t =>
      t.tim = { s.tim with forced := none } ∧ t.rd Reg.TIM_FORCED 0 = 0 ∧ Answered t h Op.TIM_CLEAR 0 0 [] ∧
      RegsOnly [(Reg.TIM_FORCED, 0)] s t := by
  refine completes_of_admitted rfl hadm ⟨rfl, ?_, State.done_answered ..,
    RegsOnly.done (RegsOnly.wrBit (RegsOnly.upd (RegsOnly.of_elapse _ s dt)) ?_) h _⟩
  · rw [State.done_rd, State.wrBit_rd_same]; rfl
  · exact List.mem_singleton.mpr rfl

theorem completes_timHoldover (hadm : Admitted s dt h domShaft Op.TIM_HOLDOVER) (on : Nat) :
    Completes (.timHoldover dt h on) s fun t =>
      t.tim.holdOn = decide (on = 1) ∧ Answered t h Op.TIM_HOLDOVER 0 0 [] ∧ RegsOnly [] s t :=
  completes_of_admitted rfl hadm ⟨rfl, State.done_answered .., regsOnly_of_regs rfl _⟩

theorem completes_timSetTod (hadm : Admitted s dt h domShaft Op.TIM_SET_TOD) {stamp : Nat} (sec ns : Nat)
    (hahead : (s.elapse dt).addrAhead (addrOfStamp stamp) = true) :
    Completes (.timSetTod dt h stamp sec ns) s fun t =>
      t.tim.todQueue = insertByAddr s.tim.todQueue (addrOfStamp stamp, sec, ns) ∧ Answered t h Op.TIM_SET_TOD 0 0 [] ∧
      RegsOnly [] s t := by
  refine completes_of_admitted rfl hadm ?_
  dsimp only
  rw [if_pos hahead]
  exact ⟨rfl, State.done_answered .., regsOnly_of_regs rfl _⟩

theorem completes_timTodCapture (hadm : Admitted s dt h domShaft Op.TIM_TOD_CAPTURE) :
    Completes (.timTodCapture dt h) s fun t =>
      t.addr = (s.toNextCycle dt).addr ∧
      Answered t h Op.TIM_TOD_CAPTURE 0 0 [(6, (s.toNextCycle dt).todSec), (4, (s.toNextCycle dt).todNs)] ∧ RegsOnly [] s t :=
  completes_of_admitted rfl hadm ⟨rfl, State.complete_answered .., RegsOnly.complete (RegsOnly.of_toNextCycle _ s dt) _ _ _ _ _⟩

/-- A steer is taken limited, whatever was given before; out of its range it is answered so (R90, R91, R94). -/
theorem completes_timSteer (hadm : Admitted s dt h domShaft Op.TIM_STEER) (value : Int) :
    Completes (.timSteer dt h value) s fun t =>
      t.tim.steer = max (-500000000) (min 500000000 value) ∧
      (if -500000000 ≤ value ∧ value ≤ 500000000 then Answered t h Op.TIM_STEER 0 0 []
        else Answered t h Op.TIM_STEER 1 4 [] ∧ t.rd Reg.TIM_DCO_LIMIT 0 = 1 ∧
          Raised t Ev.DCO_LIMIT srcDevice [(4, satSigned 4 value)]) ∧
      RegsOnly [(Reg.TIM_STEER_SUPERSEDED_CNT, 0), (Reg.TIM_DCO_LIMIT, 0)] s t := by
  refine completes_of_admitted rfl hadm ?_
  dsimp only
  have hregs (c : Prop) [Decidable c] : RegsOnly [(Reg.TIM_STEER_SUPERSEDED_CNT, 0), (Reg.TIM_DCO_LIMIT, 0)] s
      (if c then (s.elapse dt).count Reg.TIM_STEER_SUPERSEDED_CNT 0 else s.elapse dt) :=
    RegsOnly.ite (RegsOnly.count (RegsOnly.of_elapse _ s dt) (by simp)) (RegsOnly.of_elapse _ s dt)
  by_cases hin : -500000000 ≤ value ∧ value ≤ 500000000
  · rw [if_pos (by omega), if_pos hin]
    exact ⟨rfl, State.done_answered .., RegsOnly.done (RegsOnly.upd (hregs _)) h _⟩
  · rw [if_neg (by omega), if_neg hin]
    refine ⟨rfl, ⟨State.complete_answered .., ?_, (State.raiseC_raised ..).complete ..⟩, ?_⟩
    · rw [State.complete_rd, State.raiseC_rd, State.wrBit_rd_same]; rfl
    · refine RegsOnly.complete (RegsOnly.raiseC (RegsOnly.wrBit (RegsOnly.upd (hregs _)) ?_) _ _ _) _ _ _ _ _
      simp

theorem completes_timModelLoad {p : ModelCoef} (hadm : Admitted s dt h domShaft Op.TIM_MODEL_LOAD) (hrange : modelInRange p = true) :
    Completes (.timModelLoad dt h p) s fun t =>
      t.rd Reg.TIM_MODEL_C1 0 = pattern 32 p.c1 ∧ t.rd Reg.TIM_MODEL_C2 0 = pattern 32 p.c2 ∧
      t.rd Reg.TIM_MODEL_C3 0 = pattern 32 p.c3 ∧ t.rd Reg.TIM_MODEL_C4 0 = pattern 32 p.c4 ∧
      t.rd Reg.TIM_MODEL_AGE 0 = pattern 32 p.age ∧ t.rd Reg.TIM_MODEL_T0 0 = pattern 16 p.t0 ∧
      t.rd Reg.TIM_MODEL_STATE 0 = 2 ∧ Answered t h Op.TIM_MODEL_LOAD 0 0 [] ∧
      RegsOnly [(Reg.TIM_MODEL_C1, 0), (Reg.TIM_MODEL_C2, 0), (Reg.TIM_MODEL_C3, 0), (Reg.TIM_MODEL_C4, 0),
        (Reg.TIM_MODEL_AGE, 0), (Reg.TIM_MODEL_T0, 0), (Reg.TIM_MODEL_STATE, 0)] s t := by
  refine completes_of_admitted rfl hadm ?_
  rw [if_pos hrange]
  extract_lets b c c' old d
  have hc (f : Fld) : c'.rd f 0 = c.rd f 0 := State.loadFit_rd ..
  have hd (f : Fld) (hf : f.key 0 ≠ Reg.TIM_MODEL_STATE.key 0) : d.rd f 0 = c.rd f 0 := by
    show (if old = 2 then c' else _).rd f 0 = _
    split
    · rw [hc]
    · rw [State.raiseC_rd, State.wr_rd_other _ _ _ _ _ _ hf, hc]
  have hstate : d.rd Reg.TIM_MODEL_STATE 0 = 2 := by
    show (if old = 2 then c' else _).rd _ 0 = _
    split
    case isTrue h2 => exact h2
    case isFalse => rw [State.raiseC_rd, State.wr_rd_same]; rfl
  refine ⟨?_, ?_, ?_, ?_, ?_, ?_, ?state, State.done_answered .., RegsOnly.done ?regs h _⟩
  case state => rw [State.done_rd, hstate]
  case regs =>
    have hcregs : RegsOnly [(Reg.TIM_MODEL_C1, 0), (Reg.TIM_MODEL_C2, 0), (Reg.TIM_MODEL_C3, 0), (Reg.TIM_MODEL_C4, 0),
        (Reg.TIM_MODEL_AGE, 0), (Reg.TIM_MODEL_T0, 0), (Reg.TIM_MODEL_STATE, 0)] s c' := by
      refine RegsOnly.of_regs (t := c) ?_ (State.loadFit_regs ..)
      iterate 6 refine RegsOnly.wrInt ?_ (by simp)
      exact RegsOnly.of_toNextCycle _ s dt
    show RegsOnly _ s (if old = 2 then c' else _)
    exact RegsOnly.ite hcregs (RegsOnly.raiseC (RegsOnly.wr hcregs _ _ _ (by simp)) _ _ _)
  all_goals
    rw [State.done_rd, hd _ (by decide)]
    simp [c, State.wrInt_eq, State.wr_rd, Fld.key, Reg.TIM_MODEL_C1, Reg.TIM_MODEL_C2, Reg.TIM_MODEL_C3, Reg.TIM_MODEL_C4,
      Reg.TIM_MODEL_AGE, Reg.TIM_MODEL_T0]
    exact pattern_lt _ _

/-- A candidate set reads back after a register write, a record and the answer. -/
theorem State.setCand_cand_of_answered (s : State) (n : Nat) (c : CandSt) (f : Fld) (i v code src : Nat) (d : List (Nat × Nat))
    (h : HostRef) (op : Nat) : (State.done (((s.setCand n c).wr f i v).raiseC code src d) h op).cand n = c :=
  (State.cand_congr (s := s.setCand n c) rfl n).trans (State.setCand_cand_same s n c)

theorem completes_timWtrClear {cand : Nat} (hadm : Admitted s dt h domShaft Op.TIM_WTR_CLEAR) (hcand : s.badCand cand = false)
    (hwtr : s.candState cand = 4) :
    Completes (.timWtrClear dt h cand) s fun t =>
      t.addr = (s.toNextCycle dt).addr ∧ t.candState cand = 3 ∧ (t.cand cand).wtrFrom = none ∧
      Raised t Ev.REF_QUALIFIED (srcCand cand) [(1, cand), (4, satSigned 4 (s.rdInt Reg.TIM_CAND_FREQ cand))] ∧
      Answered t h Op.TIM_WTR_CLEAR 0 0 [] ∧ RegsOnly [(Reg.TIM_CAND_STATE, cand)] s t := by
  have hcand' : ¬ (s.elapse dt).badCand cand = true := by rw [← Bool.not_eq_true] at hcand; exact hcand
  have hwtr' : (s.toNextCycle dt).candState cand = 4 := (State.toNextCycle_rd ..).trans hwtr
  refine completes_of_admitted rfl hadm ?_
  dsimp only
  rw [if_neg hcand', State.elapse_toNextCycle, if_pos hwtr', State.toNextCycle_rdInt]
  refine ⟨rfl, ?_, ?_, (State.raiseC_raised ..).done .., State.done_answered .., ?_⟩
  · simp [State.candState, Reg.TIM_CAND_STATE]
  · rw [State.setCand_cand_of_answered]
  · refine RegsOnly.done (RegsOnly.raiseC (RegsOnly.wr (t := State.setCand ..) ?_ _ _ _ (by simp)) _ _ _) _ _
    exact RegsOnly.of_regs (RegsOnly.of_toNextCycle _ s dt) (State.setCand_regs ..)

/-! ### Lockout (R74) -/

/-- The timer of a candidate's conditions writes no register, and leaves its WTR timer. -/
theorem State.qualTimer_spec (s : State) (n : Nat) :
    (s.qualTimer n).regs = s.regs ∧ (s.qualTimer n).addr = s.addr ∧ ((s.qualTimer n).cand n).wtrFrom = (s.cand n).wtrFrom := by
  unfold State.qualTimer
  split_ifs <;> simp

/-- A candidate locked out is shown so, and its WTR timer is off. -/
theorem State.lockOut_spec (s : State) (n : Nat) :
    (s.lockOut n).candState n = 5 ∧ (s.lockOut n).addr = s.addr ∧ ((s.lockOut n).cand n).wtrFrom = none ∧
      RegsOnly [(Reg.TIM_CAND_STATE, n), (Reg.TIM_FORCED, 0)] s (s.lockOut n) := by
  unfold State.lockOut
  extract_lets c s1 s2
  obtain ⟨hregs, haddr, hcand⟩ := State.qualTimer_spec s1 n
  have hs2 : s2.candState n = 5 ∧ s2.addr = s.addr ∧ (s2.cand n).wtrFrom = none ∧
      RegsOnly [(Reg.TIM_CAND_STATE, n), (Reg.TIM_FORCED, 0)] s s2 := by
    refine ⟨State.wr_rd_same .., haddr, ?_, RegsOnly.wr (RegsOnly.of_regs (RegsOnly.refl _ s) hregs) _ _ _ (by simp)⟩
    show ((s1.qualTimer n).cand n).wtrFrom = none
    rw [hcand, State.setCand_cand_same]
  split
  · exact hs2
  · exact hs2

/-- A release of the force leaves the candidates. -/
theorem State.cancelForce_addr (s : State) (n : Nat) : (s.cancelForce n).addr = s.addr := by
  unfold State.cancelForce
  split <;> rfl

theorem State.cancelForce_candState (s : State) (n m : Nat) : (s.cancelForce n).candState m = s.candState m := by
  refine (State.cancelForce_spec s n).2 _ _ fun e he => ?_
  obtain rfl := List.mem_singleton.mp he
  simp only [Fld.key, Reg.TIM_FORCED, Reg.TIM_CAND_STATE]
  omega

theorem completes_timLockout_on {cand : Nat} (hadm : Admitted s dt h domShaft Op.TIM_LOCKOUT) (hcand : s.badCand cand = false) :
    Completes (.timLockout dt h cand 1) s fun t =>
      t.addr = (s.toNextCycle dt).addr ∧ t.candState cand = 5 ∧ (s.candState cand ≠ 5 → (t.cand cand).wtrFrom = none) ∧
      Answered t h Op.TIM_LOCKOUT 0 0 [] ∧ RegsOnly [(Reg.TIM_CAND_STATE, cand), (Reg.TIM_FORCED, 0)] s t := by
  have hcand' : ¬ (s.elapse dt).badCand cand = true := by rw [← Bool.not_eq_true] at hcand; exact hcand
  have hb : RegsOnly [(Reg.TIM_CAND_STATE, cand), (Reg.TIM_FORCED, 0)] s (s.toNextCycle dt) := RegsOnly.of_toNextCycle _ s dt
  refine completes_of_admitted rfl hadm ?_
  dsimp only
  rw [if_neg hcand', if_pos rfl, State.elapse_toNextCycle]
  by_cases hlocked : (s.toNextCycle dt).candState cand = 5
  · rw [if_pos hlocked]
    have hs : s.candState cand = 5 := (State.toNextCycle_rd ..).symm.trans hlocked
    exact ⟨rfl, hlocked, fun hne => absurd hs hne, State.done_answered .., RegsOnly.done hb _ _⟩
  · rw [if_neg hlocked]
    obtain ⟨hstate, haddr, hwtr, hregs⟩ := State.lockOut_spec (s.toNextCycle dt) cand
    obtain ⟨hcands, hforced⟩ := State.cancelForce_spec ((s.toNextCycle dt).lockOut cand) cand
    refine ⟨?_, ?_, fun _ => ?_, State.done_answered .., RegsOnly.done (hb.trans (hregs.trans ?_)) _ _⟩
    · exact (State.cancelForce_addr ..).trans haddr
    · exact (State.cancelForce_candState ..).trans hstate
    · rw [State.cand_congr ((congrArg TimSt.cands (State.done_tim ..)).trans hcands)]
      exact hwtr
    · exact fun f i hf => hforced f i fun e he => hf e (List.mem_cons_of_mem _ he)

/-- A candidate that qualifies waits to restore, or is qualified at once; only its state is written. -/
theorem State.qualify_spec (s : State) (n : Nat) :
    (s.qualify n).candState n = (if (s.cand n).everQual = true ∧ n ≠ 19 then 4 else 3) ∧
      RegsOnly [(Reg.TIM_CAND_STATE, n)] s (s.qualify n) := by
  have hwr (t : State) (v : Nat) (ht : t.regs = s.regs) : RegsOnly [(Reg.TIM_CAND_STATE, n)] s (t.wr Reg.TIM_CAND_STATE n v) :=
    RegsOnly.wr (RegsOnly.of_regs (RegsOnly.refl _ s) ht) _ _ _ (by simp)
  have hcond : ((s.cand n).everQual && n != 19) = true ↔ (s.cand n).everQual = true ∧ n ≠ 19 := by simp
  unfold State.qualify
  dsimp only
  by_cases hever : (s.cand n).everQual = true ∧ n ≠ 19
  · rw [if_pos (hcond.mpr hever), if_pos hever]
    split
    · exact ⟨State.wr_rd_same .., hwr _ 4 rfl⟩
    · exact ⟨State.wr_rd_same .., hwr _ 4 rfl⟩
  · rw [if_neg (hcond.not.mpr hever), if_neg hever]
    exact ⟨State.wr_rd_same .., hwr _ 3 rfl⟩

/-- Where a candidate's lockout ends, by its conditions, its qualification time and what it was before (R74). -/
theorem State.lockRelease_spec (s : State) (n : Nat) :
    (s.lockRelease n).candState n =
      (if s.qualCause n ≠ 0 then 1
        else if s.addr < (s.cand n).since.getD s.addr + s.qualPos n then 2
        else if (s.cand n).keepQual then 3
        else if (s.cand n).everQual && n ≠ 19 then 4 else 3) ∧
      RegsOnly [(Reg.TIM_CAND_STATE, n)] s (s.lockRelease n) := by
  have hwr (t : State) (v : Nat) (ht : t.regs = s.regs) : RegsOnly [(Reg.TIM_CAND_STATE, n)] s (t.wr Reg.TIM_CAND_STATE n v) :=
    RegsOnly.wr (RegsOnly.of_regs (RegsOnly.refl _ s) ht) _ _ _ (by simp)
  unfold State.lockRelease
  dsimp only
  by_cases hcause : s.qualCause n ≠ 0
  · rw [if_pos (bne_iff_ne.mpr hcause), if_pos hcause]
    exact ⟨State.wr_rd_same .., hwr _ 1 rfl⟩
  · rw [if_neg (mt bne_iff_ne.mp hcause), if_neg hcause]
    by_cases hsoon : s.addr < (s.cand n).since.getD s.addr + s.qualPos n
    · rw [if_pos hsoon, if_pos hsoon]
      exact ⟨State.wr_rd_same .., hwr _ 2 rfl⟩
    · rw [if_neg hsoon, if_neg hsoon]
      by_cases hkeep : (s.cand n).keepQual = true
      · rw [if_pos hkeep, if_pos hkeep]
        exact ⟨State.wr_rd_same .., hwr _ 3 rfl⟩
      · rw [if_neg hkeep, if_neg hkeep]
        obtain ⟨hstate, hregs⟩ := State.qualify_spec (s.setCand n { s.cand n with since := some ((s.cand n).since.getD s.addr) }) n
        refine ⟨?_, RegsOnly.trans (RegsOnly.of_regs (RegsOnly.refl _ s) rfl) hregs⟩
        rw [hstate, State.setCand_cand_same]
        simp

theorem completes_timLockout_off {cand on : Nat} (hadm : Admitted s dt h domShaft Op.TIM_LOCKOUT) (hcand : s.badCand cand = false)
    (hon : on ≠ 1) (hlocked : s.candState cand = 5) :
    Completes (.timLockout dt h cand on) s fun t =>
      t.candState cand =
        (if (s.toNextCycle dt).qualCause cand ≠ 0 then 1
          else if (s.toNextCycle dt).addr < (s.cand cand).since.getD (s.toNextCycle dt).addr + s.qualPos cand then 2
          else if (s.cand cand).keepQual then 3
          else if (s.cand cand).everQual && cand ≠ 19 then 4 else 3) ∧
      Answered t h Op.TIM_LOCKOUT 0 0 [] ∧ RegsOnly [(Reg.TIM_CAND_STATE, cand)] s t := by
  have hcand' : ¬ (s.elapse dt).badCand cand = true := by rw [← Bool.not_eq_true] at hcand; exact hcand
  have hlocked' : (s.toNextCycle dt).candState cand = 5 := (State.toNextCycle_rd ..).trans hlocked
  have hsame : (s.toNextCycle dt).cand cand = s.cand cand := State.cand_congr (congrArg TimSt.cands (State.toNextCycle_tim s dt)) cand
  have hpos : (s.toNextCycle dt).qualPos cand = s.qualPos cand := by simp only [State.qualPos, hsame]
  obtain ⟨hstate, hregs⟩ := State.lockRelease_spec (s.toNextCycle dt) cand
  rw [hsame, hpos] at hstate
  refine completes_of_admitted rfl hadm ?_
  dsimp only
  rw [if_neg hcand', if_neg hon, State.elapse_toNextCycle, if_pos hlocked']
  exact ⟨hstate, State.done_answered .., RegsOnly.done (RegsOnly.trans (RegsOnly.of_toNextCycle _ s dt) hregs) _ _⟩

end

/-- Settles O26, command by command. -/
theorem timCommandsTakeEffect : Obligations.TimCommandsTakeEffect := by
  unfold Obligations.TimCommandsTakeEffect
  intro s dt h
  exact ⟨fun _ hadm hcand hqual => completes_timForce hadm hcand hqual, completes_timClear,
    fun on hadm => completes_timHoldover hadm on, fun value hadm => completes_timSteer hadm value,
    fun _ sec ns hadm hahead => completes_timSetTod hadm sec ns hahead, completes_timTodCapture,
    fun _ hadm hrange => completes_timModelLoad hadm hrange, fun _ hadm hcand hwtr => completes_timWtrClear hadm hcand hwtr,
    fun _ hadm hcand => completes_timLockout_on hadm hcand,
    fun _ _ hadm hcand hon hlocked => completes_timLockout_off hadm hcand hon hlocked⟩

end Sys2Proof.Machine
end

section
/-! PROOFS. What waiting does to the clock, and the candidates' measurements, qualification, hold-off, WTR and watchdog (Tables 03-2 to
03-4). -/

namespace Sys2Proof.Machine

/-! ### Waiting -/

/-- A running shaft reaches every address that it waits for. -/
theorem State.whenAddr_running {s : State} (h : s.halted = false) (a : Nat) (f : State → State) : s.whenAddr a f = f (s.waitAddr a) := by
  unfold State.whenAddr
  dsimp only
  rw [if_neg (by rw [State.waitAddr_addr s a h]; omega)]

/-- A boundary at or after now is waited for to the period. -/
theorem State.waitAddr_ceilTo {s : State} (h : s.halted = false) {m a : Nat} (hm : 0 < m) (ha : s.addr ≤ a) :
    (s.waitAddr (ceilTo m a)).addr = ceilTo m a := by
  rw [State.waitAddr_addr s _ h]
  exact max_eq_right (ha.trans (le_ceilTo m a hm))

theorem State.untilTime_time (s : State) (dt t : Nat) : (s.untilTime dt t).time = max (s.time + dt) t := by
  show s.time + dt + (t - (s.time + dt)) = _
  omega

/-! ### Measurements (R56) -/

/-- What is added to a candidate's measurement while its reference is perturbed (Table 20-3). -/
def State.refOffset (s : State) (n : Nat) : Int :=
  if s.perturbed 0 = true ∧ s.rd Reg.TST_REF_CAND 0 = n then max (-20000) (min 20000 (s.rdInt Reg.TST_REF_OFFSET 0)) else 0

/-- One measurement is taken. -/
def State.takeMeas (a : State) (m : Nat × Int) : State :=
  if (a.cand m.1).enabled then
    let off : Int :=
      if bitOf (a.rd Reg.TST_ACTIVE 0) 0 && a.rd Reg.TST_REF_CAND 0 = m.1 then
        max (-20000) (min 20000 (a.rdInt Reg.TST_REF_OFFSET 0)) else 0
    let b := a.setFreq m.1 (m.2 + off)
    let c := if off = 0 then b else b.count Reg.TST_PERTURB_CNT 0
    { c with tim := { c.tim with noEdge := c.tim.noEdge.filter (fun n => n != m.1 || m.1 == 18) } }
  else a

theorem exec_timFreqMeasure (dt : Nat) (meas : List (Nat × Int)) (s : State) :
    exec (.timFreqMeasure dt meas) s = .next (meas.foldl State.takeMeas (s.toBoundary dt Config.secondPos)).timReview := rfl

/-- A measurement changes its own candidate's entry and frequency, and counts a perturbation. -/
theorem State.takeMeas_other (a : State) (m : Nat × Int) :
    (a.takeMeas m).addr = a.addr ∧ (∀ k, ((a.takeMeas m).cand k).enabled = (a.cand k).enabled) ∧
      (∀ k, (a.cand k).measured = true → ((a.takeMeas m).cand k).measured = true) ∧
      RegsOnly [(Reg.TIM_CAND_FREQ, m.1), (Reg.TST_PERTURB_CNT, 0)] a (a.takeMeas m) := by
  unfold State.takeMeas
  split
  case isFalse => exact ⟨rfl, fun _ => rfl, fun _ h => h, RegsOnly.refl _ a⟩
  case isTrue =>
    extract_lets off b c
    have hc : c.addr = a.addr ∧ c.tim.cands = b.tim.cands ∧ RegsOnly [(Reg.TIM_CAND_FREQ, m.1), (Reg.TST_PERTURB_CNT, 0)] a c := by
      have hb : RegsOnly [(Reg.TIM_CAND_FREQ, m.1), (Reg.TST_PERTURB_CNT, 0)] a b :=
        RegsOnly.wrInt (t := State.setCand ..) (RegsOnly.of_regs (RegsOnly.refl _ a) rfl) (by simp)
      show (if off = 0 then b else _).addr = _ ∧ (if off = 0 then b else _).tim.cands = _ ∧ RegsOnly _ a (if off = 0 then b else _)
      split
      · exact ⟨rfl, rfl, hb⟩
      · exact ⟨rfl, rfl, RegsOnly.count hb (by simp)⟩
    obtain ⟨haddr, hcands, hregs⟩ := hc
    have hcand (k : Nat) : (State.cand { c with tim := { c.tim with noEdge := c.tim.noEdge.filter (fun n => n != m.1 || m.1 == 18) } } k) =
        if k = m.1 then { a.cand m.1 with measured := true, freqs := (a.addr, m.2 + off) :: (a.cand m.1).freqs } else a.cand k :=
      (State.cand_congr (s := b) hcands k).trans (State.setCand_cand a m.1 _ k)
    refine ⟨haddr, fun k => ?_, fun k hk => ?_, hregs⟩
    · rw [hcand]
      split
      next heq => rw [heq]
      next => rfl
    · rw [hcand]
      split
      · rfl
      · exact hk

/-- An enabled candidate takes its measurement, with what a perturbation adds. -/
theorem State.takeMeas_own (a : State) (m : Nat × Int) (hen : (a.cand m.1).enabled = true) :
    ((a.takeMeas m).cand m.1).measured = true ∧ (a.takeMeas m).rd Reg.TIM_CAND_FREQ m.1 = pattern 32 (m.2 + a.refOffset m.1) := by
  unfold State.takeMeas
  rw [if_pos hen]
  extract_lets off b c
  have hoff : off = a.refOffset m.1 := by
    simp only [off, State.refOffset, State.perturbed, Bool.and_eq_true, decide_eq_true_eq]
    congr
  have hc : c.tim.cands = b.tim.cands ∧ c.rd Reg.TIM_CAND_FREQ m.1 = b.rd Reg.TIM_CAND_FREQ m.1 := by
    show (if off = 0 then b else _).tim.cands = _ ∧ (if off = 0 then b else _).rd _ _ = _
    split
    · exact ⟨rfl, rfl⟩
    · refine ⟨rfl, ?_⟩
      rw [State.count_eq, State.wr_rd_other]
      simp only [Fld.key, Reg.TIM_CAND_FREQ, Reg.TST_PERTURB_CNT]
      omega
  constructor
  · exact congrArg CandSt.measured ((State.cand_congr (s := b) hc.1 m.1).trans (State.setCand_cand_same a m.1 _))
  · rw [← hoff]
    show c.rd _ _ = _
    rw [hc.2]
    exact (State.wr_rd_same ..).trans (pattern_mod 32 _)

/-- The registers that say what a perturbation adds are not those a measurement writes. -/
theorem RegsOnly.refOffset {a b : State} {k : Nat} (h : RegsOnly [(Reg.TIM_CAND_FREQ, k), (Reg.TST_PERTURB_CNT, 0)] a b) (hk : k < 20)
    (n : Nat) : b.refOffset n = a.refOffset n := by
  have hrd (f : Fld) (hf : f ∈ [Reg.TST_ACTIVE, Reg.TST_REF_CAND, Reg.TST_REF_OFFSET]) : b.rd f 0 = a.rd f 0 := by
    refine h f 0 fun e he => ?_
    simp only [List.mem_cons, List.not_mem_nil, or_false] at hf he
    rcases hf with rfl | rfl | rfl <;> rcases he with rfl | rfl <;>
      simp only [Fld.key, Reg.TST_ACTIVE, Reg.TST_REF_CAND, Reg.TST_REF_OFFSET, Reg.TIM_CAND_FREQ, Reg.TST_PERTURB_CNT] <;> omega
  simp only [State.refOffset, State.perturbed, State.rdInt, hrd Reg.TST_ACTIVE (by simp), hrd Reg.TST_REF_CAND (by simp),
    hrd Reg.TST_REF_OFFSET (by simp)]
  congr

/-- Measurements of other candidates leave a candidate's own. -/
theorem State.takeMeas_fold_other (n : Nat) (hn : n < 20) (l : List (Nat × Int)) : ∀ a : State, (∀ e ∈ l, e.1 < 20 ∧ e.1 ≠ n) →
    (l.foldl State.takeMeas a).addr = a.addr ∧
      ((a.cand n).measured = true → ((l.foldl State.takeMeas a).cand n).measured = true) ∧
      (l.foldl State.takeMeas a).rd Reg.TIM_CAND_FREQ n = a.rd Reg.TIM_CAND_FREQ n := by
  induction l with
  | nil => exact fun _ _ => ⟨rfl, id, rfl⟩
  | cons m rest ih =>
    intro a hl
    obtain ⟨haddr, -, hmeas, hregs⟩ := State.takeMeas_other a m
    obtain ⟨haddr', hmeas', hfreq'⟩ := ih (a.takeMeas m) fun e he => hl e (List.mem_cons_of_mem _ he)
    have hm := hl m (List.mem_cons_self ..)
    refine ⟨haddr'.trans haddr, fun h => hmeas' (hmeas n h), hfreq'.trans (hregs _ _ fun e he => ?_)⟩
    simp only [List.mem_cons, List.not_mem_nil, or_false] at he
    rcases he with rfl | rfl <;> simp only [Fld.key, Reg.TIM_CAND_FREQ, Reg.TST_PERTURB_CNT] <;> omega

theorem State.takeMeas_fold {n : Nat} {v : Int} (hn : n < 20) (l : List (Nat × Int)) : ∀ a : State, (l.map Prod.fst).Nodup →
    (∀ e ∈ l, e.1 < 20) → (n, v) ∈ l → (a.cand n).enabled = true →
    (l.foldl State.takeMeas a).addr = a.addr ∧ ((l.foldl State.takeMeas a).cand n).measured = true ∧
      (l.foldl State.takeMeas a).rd Reg.TIM_CAND_FREQ n = pattern 32 (v + a.refOffset n) := by
  induction l with
  | nil => exact fun _ _ _ h => absurd h List.not_mem_nil
  | cons m rest ih =>
    intro a hnodup hlt hmem hen
    obtain ⟨hhead, htail⟩ := List.nodup_cons.mp hnodup
    obtain ⟨haddr, henab, -, hregs⟩ := State.takeMeas_other a m
    have hrest : ∀ e ∈ rest, e.1 < 20 := fun e he => hlt e (List.mem_cons_of_mem _ he)
    rcases List.mem_cons.mp hmem with rfl | hin
    · obtain ⟨hmeas, hfreq⟩ := State.takeMeas_own a (n, v) hen
      obtain ⟨haddr', hmeas', hfreq'⟩ := State.takeMeas_fold_other n hn rest (a.takeMeas (n, v))
        fun e he => ⟨hrest e he, fun heq => hhead (List.mem_map.mpr ⟨e, he, heq⟩)⟩
      exact ⟨haddr'.trans haddr, hmeas' hmeas, hfreq'.trans hfreq⟩
    · obtain ⟨haddr', hmeas', hfreq'⟩ := ih (a.takeMeas m) htail hrest hin ((henab n).trans hen)
      exact ⟨haddr'.trans haddr, hmeas', by rw [List.foldl_cons, hfreq', hregs.refOffset (hlt m (List.mem_cons_self ..))]⟩

/-- A review leaves a candidate's frequency. -/
theorem Reviewed.freq {s t : State} (h : Reviewed s t) (n : Nat) : t.rd Reg.TIM_CAND_FREQ n = s.rd Reg.TIM_CAND_FREQ n := by
  refine h.regs _ _ (fun m => ?_) (fun m => ?_) (fun m => ?_) (fun m => ?_) ?_
  all_goals
    simp only [Fld.key, Reg.TIM_CAND_FREQ, Reg.TIM_CAND_STATE, Reg.TIM_CAND_REASON, Reg.TIM_CAND_QL, Reg.TIM_CAND_QLCHG_CNT,
      Reg.TIM_FORCED]
    omega

theorem Reviewed.clock {s t : State} (h : Reviewed s t) : t.addr = s.addr ∧ t.time = s.time := by
  obtain ⟨r, i, m, rfl⟩ := h.rest
  exact ⟨rfl, rfl⟩

section
variable {s : State} {dt : Nat}

theorem completes_timFreqMeasure {meas : List (Nat × Int)} {n : Nat} {v : Int} (hn : n < 20) (hnodup : (meas.map Prod.fst).Nodup)
    (hlt : ∀ e ∈ meas, e.1 < 20) (hmem : (n, v) ∈ meas) (hen : (s.cand n).enabled = true) :
    Completes (.timFreqMeasure dt meas) s fun t =>
      t.addr = (s.toBoundary dt Config.secondPos).addr ∧ (t.cand n).measured = true ∧
      t.rd Reg.TIM_CAND_FREQ n = pattern 32 (v +
        if s.perturbed 0 = true ∧ s.rd Reg.TST_REF_CAND 0 = n then max (-20000) (min 20000 (s.rdInt Reg.TST_REF_OFFSET 0))
        else 0) := by
  have hen' : ((s.toBoundary dt Config.secondPos).cand n).enabled = true := by
    rw [State.cand_congr (congrArg TimSt.cands (State.toBoundary_tim s dt _))]; exact hen
  obtain ⟨haddr, hmeas, hfreq⟩ := State.takeMeas_fold hn meas (s.toBoundary dt Config.secondPos) hnodup hlt hmem hen'
  have hoff : (s.toBoundary dt Config.secondPos).refOffset n = s.refOffset n := by
    simp only [State.refOffset, State.perturbed, State.toBoundary_rd, State.toBoundary_rdInt]
    congr
  have hrev := State.timReview_reviewed (meas.foldl State.takeMeas (s.toBoundary dt Config.secondPos))
  refine ⟨_, exec_timFreqMeasure dt meas s, hrev.clock.1.trans haddr, (hrev.measured n).trans hmeas, ?_⟩
  rw [hrev.freq, hfreq, hoff]
  rfl

/-! ### Qualification, hold-off, WTR and the watchdog -/

/-- After its time passed a running shaft still runs, and waits for an address. -/
theorem State.elapse_waitAddr_addr (hrun : s.halted = false) (a : Nat) : ((s.elapse dt).waitAddr a).addr = max (s.addr + dt) a := by
  rw [State.waitAddr_addr _ _ (by exact hrun), State.addr_elapse hrun]

theorem State.waitAddr_cand (s : State) (a n : Nat) : (s.waitAddr a).cand n = s.cand n :=
  State.cand_congr (congrArg TimSt.cands (State.waitAddr_tim s a)) n

theorem State.qualify_addr (s : State) (n : Nat) : (s.qualify n).addr = s.addr := by
  unfold State.qualify
  dsimp only
  split_ifs <;> rfl

theorem completes_refQualified {cand a : Nat} (hrun : s.halted = false) (hstate : s.candState cand = 2)
    (hsince : (s.cand cand).since = some a) :
    Completes (.refQualified dt cand) s fun t =>
      t.addr = ceilTo Config.cyclePos (max (s.addr + dt) (a + s.qualPos cand)) ∧
      t.candState cand = (if (s.cand cand).everQual = true ∧ cand ≠ 19 then 4 else 3) ∧
      RegsOnly [(Reg.TIM_CAND_STATE, cand)] s t := by
  have hexec : exec (.refQualified dt cand) s =
      .next (((s.elapse dt).waitAddr (ceilTo Config.cyclePos (max (s.elapse dt).addr (a + s.qualPos cand)))).qualify cand) := by
    show execRefQualified dt cand s = _
    have hstate' : (s.elapse dt).candState cand = 2 := hstate
    have hsince' : ((s.elapse dt).cand cand).since = some a := hsince
    unfold execRefQualified
    dsimp only
    rw [if_pos hstate', hsince']
    dsimp only
    rw [State.whenAddr_running (by exact hrun)]
    rfl
  obtain ⟨hq, hregs⟩ := State.qualify_spec ((s.elapse dt).waitAddr (ceilTo Config.cyclePos (max (s.elapse dt).addr (a + s.qualPos cand)))) cand
  refine ⟨_, hexec, ?_, ?_, RegsOnly.trans (regsOnly_of_regs (State.waitAddr_regs (s.elapse dt) _) _) hregs⟩
  · rw [State.qualify_addr, State.waitAddr_ceilTo (by exact hrun) (by decide) (le_max_left ..), State.addr_elapse hrun]
  · rw [hq, State.waitAddr_cand]
    rfl

theorem State.disqualify_addr (s : State) (n cause : Nat) : (s.disqualify n cause).addr = s.addr :=
  (State.disqualify_reviewed s n cause).clock.1

/-- A candidate disqualified holds no phase (R63). -/
theorem State.disqualify_held (s : State) (n cause : Nat) : ((s.disqualify n cause).cand n).held = false := by
  have hresume : ((s.cand n).resume s.addr).held = false := by
    unfold CandSt.resume
    split
    · rfl
    · next h => exact Bool.eq_false_of_not_eq_true h
  have hcands : (s.disqualify n cause).tim.cands =
      (s.setCand n { (s.cand n).resume s.addr with since := none, wtrFrom := none, wtrWaits := false }).tim.cands := by
    refine (State.cancelForce_spec _ n).1.trans ?_
    dsimp only
    split <;> rfl
  rw [State.cand_congr hcands, State.setCand_cand_same]
  exact hresume

theorem completes_timHoldoffExpiry {cand from_ : Nat} (hrun : s.halted = false) (hdefect : (s.cand cand).defectAt = some from_) :
    Completes (.timHoldoffExpiry dt cand) s fun t =>
      let b := (s.elapse dt).waitAddr (from_ + s.holdoffPos)
      t.addr = max (s.addr + dt) (from_ + s.holdoffPos) ∧ (t.cand cand).defectAt = none ∧ (t.cand cand).held = false ∧
      (if b.candDefect cand = true ∧ (s.candState cand = 3 ∨ s.candState cand = 4) then
        t.candState cand = 1 ∧ t.rd Reg.TIM_CAND_REASON cand = 1
      else t.candState cand = s.candState cand ∧ (t.cand cand).phaseBase = (s.cand cand).phaseBase) := by
  let b := (s.elapse dt).waitAddr (from_ + s.holdoffPos)
  have haddr : b.addr = max (s.addr + dt) (from_ + s.holdoffPos) := State.elapse_waitAddr_addr hrun _
  have hstate : b.candState cand = s.candState cand := State.waitAddr_rd ..
  have hcand : b.cand cand = s.cand cand := State.waitAddr_cand ..
  have hexec : exec (.timHoldoffExpiry dt cand) s = .next
      (if b.candDefect cand && (b.candState cand = 3 || b.candState cand = 4) then b.disqualify cand 1 else b.candBack cand) := by
    show execTimHoldoffExpiry dt cand s = _
    have hdefect' : ((s.elapse dt).cand cand).defectAt = some from_ := hdefect
    unfold execTimHoldoffExpiry
    dsimp only
    rw [hdefect']
    dsimp only
    rw [State.whenAddr_running (by exact hrun)]
    rfl
  have hcond : (b.candDefect cand && (decide (b.candState cand = 3) || decide (b.candState cand = 4))) = true ↔
      b.candDefect cand = true ∧ (s.candState cand = 3 ∨ s.candState cand = 4) := by simp [hstate]
  refine ⟨_, hexec, ?_⟩
  dsimp only
  by_cases hlost : b.candDefect cand = true ∧ (s.candState cand = 3 ∨ s.candState cand = 4)
  · rw [if_pos (hcond.mpr hlost), if_pos hlost]
    obtain ⟨hdown, hreason, hdef, -, -⟩ := State.disqualify_spec b cand 1
    exact ⟨(State.disqualify_addr ..).trans haddr, hdef, State.disqualify_held .., hdown, hreason⟩
  · rw [if_neg (hcond.not.mpr hlost), if_neg hlost]
    have hback : b.candBack cand = b.setCand cand ((s.cand cand).resume b.addr) := by
      unfold State.candBack
      rw [hcand, if_pos (by rw [hdefect]; rfl)]
    rw [hback, State.setCand_cand_same]
    refine ⟨haddr, (CandSt.resume_spec _ _).2.2.2.2, ?_, hstate, ?_⟩
    · unfold CandSt.resume
      split
      · rfl
      · next h => exact Bool.eq_false_of_not_eq_true h
    · unfold CandSt.resume
      split <;> rfl

theorem completes_wtrExpiry {cand a : Nat} (hrun : s.halted = false) (hwtr : (s.cand cand).wtrFrom = some a)
    (hstate : s.candState cand = 4) :
    Completes (.wtrExpiry dt cand) s fun t =>
      t.addr = ceilTo Config.cyclePos (max (s.addr + dt) (a + min 720 (s.rd Reg.TIM_WTR 0) * 8000 * Config.cyclePos)) ∧
      t.candState cand = 3 ∧ (t.cand cand).wtrFrom = none ∧
      Raised t Ev.REF_QUALIFIED (srcCand cand) [(1, cand), (4, satSigned 4 (s.rdInt Reg.TIM_CAND_FREQ cand))] ∧
      RegsOnly [(Reg.TIM_CAND_STATE, cand)] s t := by
  let b := (s.elapse dt).waitAddr
    (ceilTo Config.cyclePos (max (s.elapse dt).addr (a + min 720 (s.rd Reg.TIM_WTR 0) * Config.secondPos)))
  have hexec : exec (.wtrExpiry dt cand) s = .next
      (((b.setCand cand { b.cand cand with wtrFrom := none }).wr Reg.TIM_CAND_STATE cand 3).raise Ev.REF_QUALIFIED (srcCand cand)
        [(1, cand), (4, satSigned 4 (s.rdInt Reg.TIM_CAND_FREQ cand))]) := by
    show execWtrExpiry dt cand s = _
    have hwtr' : ((s.elapse dt).cand cand).wtrFrom = some a := hwtr
    have hstate' : b.candState cand = 4 := (State.waitAddr_rd ..).trans hstate
    have hfreq : b.rdInt Reg.TIM_CAND_FREQ cand = s.rdInt Reg.TIM_CAND_FREQ cand := State.waitAddr_rdInt ..
    unfold execWtrExpiry
    dsimp only
    rw [hwtr']
    dsimp only
    rw [State.whenAddr_running (by exact hrun), if_pos (by exact hstate'), State.setCand_rdInt, ← hfreq]
    rfl
  have hsecs : min 720 (s.rd Reg.TIM_WTR 0) * Config.secondPos = min 720 (s.rd Reg.TIM_WTR 0) * 8000 * Config.cyclePos := by
    rw [Nat.mul_assoc]
    rfl
  refine ⟨_, hexec, ?_, ?_, ?_, State.raise_raised .., ?_⟩
  · rw [State.raise_addr, State.wr_addr, State.setCand_addr, ← hsecs]
    show b.addr = _
    rw [State.waitAddr_ceilTo (by exact hrun) (by decide) (le_max_left ..), State.addr_elapse hrun]
  · simp [State.candState, Reg.TIM_CAND_STATE]
  · show (State.cand (State.setCand ..) cand).wtrFrom = none
    rw [State.setCand_cand_same]
  · refine RegsOnly.raise (RegsOnly.wr (t := State.setCand ..) ?_ _ _ _ (by simp)) _ _ _
    exact RegsOnly.of_regs (regsOnly_of_regs (State.waitAddr_regs (s.elapse dt) _) _) (State.setCand_regs ..)

theorem completes_steerWdogExpiry {a : Nat} (hrun : s.halted = false) (hsteer : s.tim.steerAt = some a) :
    Completes (.steerWdogExpiry dt) s fun t =>
      t.addr = max (s.addr + dt) (a + min 600 (max 1 (s.rd Reg.TIM_STEER_WDOG 0)) * 800 * Config.cyclePos) ∧
      t.tim.steerAt = none ∧
      (s.candState 19 = 3 → t.candState 19 = 1 ∧ t.rd Reg.TIM_CAND_REASON 19 = 4) ∧
      (s.candState 19 = 5 → t.candState 19 = 5 ∧ t.rd Reg.TIM_CAND_REASON 19 = 4) ∧
      RegsOnly [(Reg.TIM_CAND_STATE, 19), (Reg.TIM_CAND_REASON, 19), (Reg.TIM_FORCED, 0)] s t := by
  let b := (s.elapse dt).waitAddr (max (s.elapse dt).addr (a + s.wdogPos))
  let c : State := { b with tim := { b.tim with steerAt := none } }
  have haddr : c.addr = max (s.addr + dt) (a + min 600 (max 1 (s.rd Reg.TIM_STEER_WDOG 0)) * 800 * Config.cyclePos) := by
    show b.addr = _
    rw [State.elapse_waitAddr_addr hrun, State.addr_elapse hrun, ← max_assoc, max_self]
    rfl
  have hstate : c.candState 19 = s.candState 19 := State.waitAddr_rd ..
  have hregs : RegsOnly [(Reg.TIM_CAND_STATE, 19), (Reg.TIM_CAND_REASON, 19), (Reg.TIM_FORCED, 0)] s c :=
    regsOnly_of_regs (State.waitAddr_regs (s.elapse dt) _) _
  have hexec : exec (.steerWdogExpiry dt) s = .next
      (if c.candState 19 = 3 then c.disqualify 19 4
        else if c.candState 19 = 5 then
          (c.setCand 19 { c.cand 19 with since := none, keepQual := false }).wr Reg.TIM_CAND_REASON 19 4
        else c) := by
    show execSteerWdogExpiry dt s = _
    have hsteer' : (s.elapse dt).tim.steerAt = some a := hsteer
    unfold execSteerWdogExpiry
    dsimp only
    rw [hsteer']
    dsimp only
    rw [State.whenAddr_running (by exact hrun)]
    rfl
  refine ⟨_, hexec, ?_⟩
  by_cases hqual : s.candState 19 = 3
  · rw [if_pos (hstate.trans hqual)]
    obtain ⟨hdown, hreason, -, -, hdis⟩ := State.disqualify_spec c 19 4
    obtain ⟨_, _, _, htim⟩ := (State.disqualify_reviewed c 19 4).tim
    refine ⟨(State.disqualify_addr ..).trans haddr, by rw [htim], fun _ => ⟨hdown, hreason⟩, fun h => ?_, hregs.trans hdis⟩
    omega
  · rw [if_neg (fun h => hqual (hstate.symm.trans h))]
    by_cases hlocked : s.candState 19 = 5
    · rw [if_pos (hstate.trans hlocked)]
      refine ⟨haddr, rfl, fun h => absurd h hqual, fun _ => ⟨?_, State.wr_rd_same ..⟩,
        RegsOnly.wr (t := State.setCand ..) (RegsOnly.of_regs hregs (State.setCand_regs ..)) _ _ _ (by simp)⟩
      unfold State.candState
      rw [State.wr_rd_other _ _ _ _ _ _ (by decide), State.setCand_rd]
      exact hstate.trans hlocked
    · rw [if_neg (fun h => hlocked (hstate.symm.trans h))]
      exact ⟨haddr, rfl, fun h => absurd h hqual, fun h => absurd h hlocked, hregs⟩

/-! ### Inputs without edges, lanes without ESMC PDUs -/

/-- Candidates 16 to 18 are defective while no edge comes (R60). -/
theorem State.candDefect_of_noEdge {s : State} {n : Nat} (hlo : 16 ≤ n) (hhi : n ≤ 18) (h : n ∈ s.tim.noEdge) : s.candDefect n = true := by
  have hcontains : s.tim.noEdge.contains n = true := List.contains_iff_mem.mpr h
  unfold State.candDefect
  dsimp only
  rw [if_neg (by omega)]
  obtain rfl | rfl | rfl : n = 16 ∨ n = 17 ∨ n = 18 := by omega
  all_goals simp [h]

theorem completes_refInputNoEdge {cand : Nat} (hlo : 16 ≤ cand) (hhi : cand ≤ 18)
    (hlate : cand = 18 → s.tim.ppsEdge.isSome = true → 1001 * Config.msPos ≤ s.time + dt - s.tim.ppsAt) :
    Completes (.refInputNoEdge dt cand) s fun t => cand ∈ t.tim.noEdge ∧ t.candDefect cand = true ∧ t.time = s.time + dt := by
  obtain ⟨x, hexec, htime, hx⟩ : ∃ x : State, exec (.refInputNoEdge dt cand) s = .next x.timReview ∧ x.time = s.time + dt ∧
      cand ∈ x.tim.noEdge := by
    refine ⟨_, rfl, ?_, ?_⟩
    · dsimp only
      split <;> rfl
    · have hearly : (decide (cand = 18) && s.tim.ppsEdge.isSome && decide (s.time + dt - s.tim.ppsAt < 1001 * Config.msPos)) = false := by
        by_cases h18 : cand = 18
        · by_cases hpps : s.tim.ppsEdge.isSome = true
          · have := hlate h18 hpps
            simp only [Bool.and_eq_false_iff, decide_eq_false_iff_not]
            omega
          · simp [hpps]
        · simp [h18]
      by_cases hin : cand ∈ s.tim.noEdge
      · simp [hin]
      · show cand ∈ (State.tim (if (decide (16 ≤ cand) && decide (cand ≤ 18) &&
          !(decide (cand = 18) && s.tim.ppsEdge.isSome && decide (s.time + dt - s.tim.ppsAt < 1001 * Config.msPos)) &&
          !s.tim.noEdge.contains cand) = true then _ else _)).noEdge
        rw [if_pos (by rw [hearly]; simp [hlo, hhi, hin])]
        exact List.mem_cons_self ..
  have hrev := State.timReview_reviewed x
  obtain ⟨_, _, _, htim⟩ := hrev.tim
  have hmem : cand ∈ x.timReview.tim.noEdge := by rw [htim]; exact hx
  exact ⟨_, hexec, hmem, State.candDefect_of_noEdge hlo hhi hmem, hrev.clock.2.trans htime⟩

/-- A quality level received is stored by the candidates that it is for, and stays through the others' entries. -/
theorem State.acceptQl_qlRx (s : State) (hit : CandSt → Bool) (ql n : Nat) (hn : n < 16) (hen : (s.cand n).enabled = true)
    (hhit : hit (s.cand n) = true) : ((s.acceptQl hit ql).cand n).qlRx = some ql ∧ (s.acceptQl hit ql).time = s.time := by
  let f (a : State) (m : Nat) : State :=
    if (a.cand m).enabled && hit (a.cand m) then a.setCand m { a.cand m with qlRx := some ql } else a
  have htime (l : List Nat) : ∀ a : State, (l.foldl f a).time = a.time := by
    induction l with
    | nil => exact fun _ => rfl
    | cons m rest ih =>
      intro a
      refine (ih (f a m)).trans ?_
      show (if _ then _ else a : State).time = _
      split <;> rfl
  have hother (a : State) (m : Nat) (hne : n ≠ m) : (f a m).cand n = a.cand n := by
    show (if _ then _ else a : State).cand n = _
    split
    · rw [State.setCand_cand, if_neg hne]
    · rfl
  have hkept (l : List Nat) : ∀ a : State, n ∉ l → (l.foldl f a).cand n = a.cand n := by
    induction l with
    | nil => exact fun _ _ => rfl
    | cons m rest ih =>
      intro a hnot
      obtain ⟨hne, hrest⟩ := not_or.mp (mt List.mem_cons.mpr hnot)
      exact (ih (f a m) hrest).trans (hother a m hne)
  have hset (l : List Nat) : ∀ a : State, l.Nodup → n ∈ l → a.cand n = s.cand n → ((l.foldl f a).cand n).qlRx = some ql := by
    induction l with
    | nil => exact fun _ _ h => absurd h List.not_mem_nil
    | cons m rest ih =>
      intro a hnodup hmem ha
      obtain ⟨hnot, hrest⟩ := List.nodup_cons.mp hnodup
      by_cases heq : n = m
      · subst heq
        show ((rest.foldl f (f a n)).cand n).qlRx = _
        have hf : f a n = a.setCand n { a.cand n with qlRx := some ql } := if_pos (by rw [ha, hen, hhit]; rfl)
        rw [hkept rest _ hnot, hf, State.setCand_cand_same]
      · exact ih (f a m) hrest ((List.mem_cons.mp hmem).resolve_left heq) ((hother a m heq).trans ha)
  have hrev := State.timReview_reviewed ((List.range 16).foldl f s)
  exact ⟨(hrev.qlRx n).trans (hset _ s List.nodup_range (List.mem_range.mpr hn) rfl), hrev.clock.2.trans (htime _ s)⟩

theorem completes_esmcPduTimeout {lane n : Nat} (hmode : s.rd Reg.PRT_LANE_MODE lane = 7 ∨ s.rd Reg.PRT_LANE_MODE lane = 8) (hn : n < 16)
    (hen : (s.cand n).enabled = true) (hkind : (s.cand n).kind ≤ 1) (hlane : (s.cand n).laneIndex = lane)
    (hlate : ∀ a, tfind s.tim.esmc lane = some a → a + 5 * Config.secondPos ≤ (s.elapse dt).addr) :
    Completes (.esmcPduTimeout dt lane) s fun t => (t.cand n).qlRx = some 0xF ∧ t.time = s.time + dt := by
  have hhit : (((s.elapse dt).cand n).kind == 0 || ((s.elapse dt).cand n).kind == 1) &&
      ((s.elapse dt).cand n).laneIndex == lane := by
    show ((s.cand n).kind == 0 || (s.cand n).kind == 1) && (s.cand n).laneIndex == lane
    have : (s.cand n).kind = 0 ∨ (s.cand n).kind = 1 := by omega
    rcases this with h | h <;> simp [h, hlane]
  have hmode' : (decide ((s.elapse dt).rd Reg.PRT_LANE_MODE lane = 7) || decide ((s.elapse dt).rd Reg.PRT_LANE_MODE lane = 8)) = true := by
    simp only [Bool.or_eq_true, decide_eq_true_eq]
    exact hmode
  have hexec : exec (.esmcPduTimeout dt lane) s = .next ((s.elapse dt).acceptLaneQl lane 0xF) := by
    show execEsmcPduTimeout dt lane s = _
    unfold execEsmcPduTimeout
    dsimp only
    cases hfind : tfind s.tim.esmc lane with
    | none => rw [State.elapse_tim, hfind, if_pos (by rw [hmode']; rfl)]
    | some a =>
      have := hlate a hfind
      rw [State.elapse_tim, hfind, if_pos (by rw [hmode']; simp; omega)]
  exact ⟨_, hexec, State.acceptQl_qlRx (s.elapse dt) _ 0xF n hn hen hhit⟩

end

/-- Settles O27, event by event. -/
theorem candidateEventsTakeEffect : Obligations.CandidateEventsTakeEffect := by
  unfold Obligations.CandidateEventsTakeEffect
  intro s dt
  exact ⟨fun _ _ _ hn hnodup hlt hmem hen => completes_timFreqMeasure hn hnodup hlt hmem hen,
    fun _ _ hrun hstate hsince => completes_refQualified hrun hstate hsince,
    fun _ _ hrun hdefect => completes_timHoldoffExpiry hrun hdefect,
    fun _ _ hrun hwtr hstate => completes_wtrExpiry hrun hwtr hstate,
    fun _ hrun hsteer => completes_steerWdogExpiry hrun hsteer,
    fun _ hlo hhi hlate => completes_refInputNoEdge hlo hhi hlate,
    fun _ _ hmode hn hen hkind hlane hlate => completes_esmcPduTimeout hmode hn hen hkind hlane hlate⟩

end Sys2Proof.Machine
end

section
/-! PROOFS. Selection, the end of a switch, holdover, the temperature model, the time of day and its pulses (R63, R70 to R98). -/

namespace Sys2Proof.Machine

/-! ### Selection (R70 to R73) -/

/-- What a cycle boundary does before its decision moves no shaft address. -/
theorem State.atDecision_addr (s : State) : s.atDecision.addr = s.addr := by
  have hclock : Part.clock.same s s.atDecision := by
    refine State.judgeDisagree_frame (by decide) (State.applyStep_frame (by decide) (State.steerQualify_frame (by decide) ?_))
    refine Part.foldl (fun _ _ _ h => State.candReview_frame (by decide) h) _ ?_
    exact Part.foldl (fun _ _ _ h => State.qlRefresh_frame (by decide) (State.applyCandCfg_frame (by decide) h)) _ (Part.same_refl _ _)
  exact hclock.2

theorem DpllMove.sel {s t : State} (h : DpllMove s t) : t.rd Reg.TIM_SEL 0 = s.rd Reg.TIM_SEL 0 :=
  h.2 _ _ (by decide)

/-- The selection that a boundary reports: the target of a switch that goes on, or the one R70 to R73 make. -/
theorem State.actDpll_spec (b : State) : b.actDpll.addr = b.addr ∧ b.actDpll.rd Reg.TIM_SEL 0 =
    if b.slaveDue = none ∧ b.rdBit Reg.TIM_SWITCHING 0 = true ∧ b.candState (b.rd Reg.TIM_SEL 0) = 3 ∧ b.tim.holdOn = false then
      b.rd Reg.TIM_SEL 0
    else b.selectNow.getD 31 % 32 := by
  let w := b.wr Reg.TIM_SEL 0 (b.selectNow.getD 31)
  have hwritten {t : State} (hmove : DpllMove w t) : t.addr = b.addr ∧ t.rd Reg.TIM_SEL 0 = b.selectNow.getD 31 % 32 :=
    ⟨hmove.1, hmove.sel.trans (State.wr_rd_same ..)⟩
  unfold State.actDpll
  cases hslave : b.slaveDue with
  | some on =>
    rw [if_neg (by simp)]
    show (b.slaveFollow on).addr = _ ∧ (b.slaveFollow on).rd _ _ = _
    unfold State.slaveFollow
    cases on with
    | true => exact hwritten (State.setDpll_move (DpllMove.upd (State.abandonSwitch_move (DpllMove.refl _))))
    | false => exact hwritten (State.enterHoldover_move (DpllMove.upd (DpllMove.refl _)))
  | none =>
    show b.makeDecision.addr = _ ∧ b.makeDecision.rd _ _ = _
    unfold State.makeDecision
    dsimp only
    by_cases hgoes : b.rdBit Reg.TIM_SWITCHING 0 = true ∧ b.candState (b.rd Reg.TIM_SEL 0) = 3 ∧ b.tim.holdOn = false
    · obtain ⟨hswitching, hstate, hauto⟩ := hgoes
      rw [if_pos (by simp [hswitching, hstate, hauto]), if_pos ⟨rfl, hswitching, hstate, hauto⟩]
      exact ⟨rfl, rfl⟩
    · rw [if_neg (fun h => hgoes (by simpa [and_assoc] using h)), if_neg (fun h => hgoes h.2)]
      exact hwritten (State.dpllAct_move (DpllMove.refl _))

section
variable {s : State} {dt : Nat}

theorem State.toBoundary_halted (s : State) (dt m : Nat) : (s.toBoundary dt m).halted = s.halted := by
  simp only [State.halted, State.toBoundary_rd]

theorem completes_refSelection (hrun : s.halted = false) :
    Completes (.refSelection dt) s fun t =>
      let b := (s.toBoundary dt Config.cyclePos).atDecision
      t.addr = ceilTo Config.cyclePos (s.addr + dt) ∧
      t.rd Reg.TIM_SEL 0 =
        (if b.slaveDue = none ∧ b.rdBit Reg.TIM_SWITCHING 0 = true ∧ b.candState (b.rd Reg.TIM_SEL 0) = 3 ∧ b.tim.holdOn = false then
          b.rd Reg.TIM_SEL 0
        else b.selectNow.getD 31 % 32) := by
  have hexec : exec (.refSelection dt) s =
      .next (s.toBoundary dt Config.cyclePos).atDecision.actDpll.judgeLock.driveDco.judge450 := by
    show execRefSelection dt s = _
    unfold execRefSelection
    dsimp only
    rw [if_neg (by rw [State.toBoundary_halted, hrun]; decide)]
    rfl
  refine ⟨_, hexec, ?_⟩
  have haddrB : (s.toBoundary dt Config.cyclePos).atDecision.addr = ceilTo Config.cyclePos (s.addr + dt) := by
    rw [State.atDecision_addr, State.toBoundary_addr s dt _ hrun (by decide)]
  revert haddrB
  generalize (s.toBoundary dt Config.cyclePos).atDecision = b
  intro haddrB
  have hmove : DpllMove b.actDpll b.actDpll.judgeLock.driveDco.judge450 :=
    State.judge450_move (State.driveDco_move (State.judgeLock_move (DpllMove.refl _)))
  obtain ⟨haddr, hsel⟩ := State.actDpll_spec b
  exact ⟨(hmove.1.trans haddr).trans haddrB, hmove.sel.trans hsel⟩

/-! ### The end of a switch (R76) -/

theorem State.startWaitingWtr_clock (s : State) : s.startWaitingWtr.addr = s.addr ∧ s.startWaitingWtr.regs = s.regs := by
  have hclock : Part.clock.same s s.startWaitingWtr := State.startWaitingWtr_frame (by decide) (Part.same_refl _ _)
  have hregs : Part.regs.same s s.startWaitingWtr := State.startWaitingWtr_frame (by decide) (Part.same_refl _ _)
  exact ⟨hclock.2, hregs⟩

/-- From ACQUIRE a DPLL of a running shaft becomes LOCKED, and the shaft's state follows (Table 03-9). -/
theorem State.setDpll_locked {a : State} (hrun : a.halted = false) (hacq : a.rd Reg.TIM_DPLL_STATE 0 = dpllAcquire) :
    (a.setDpll dpllLocked).addr = a.addr ∧ (a.setDpll dpllLocked).rd Reg.TIM_DPLL_STATE 0 = dpllLocked ∧
      (a.setDpll dpllLocked).rd Reg.SHF_STATE 0 = 2 ∧
      RegsOnly [(Reg.TIM_DPLL_STATE, 0), (Reg.SHF_STATE, 0)] a (a.setDpll dpllLocked) := by
  let s1 := (a.wr Reg.TIM_DPLL_STATE 0 dpllLocked).raise Ev.DPLL_STATE_CHANGE srcDevice [(1, a.rd Reg.TIM_DPLL_STATE 0), (1, dpllLocked)]
  let s2 : State := { s1 with tim := { s1.tim with everLocked := true, lockedAt := s1.addr } }
  have hshf : s2.rd Reg.SHF_STATE 0 = a.rd Reg.SHF_STATE 0 := State.wr_rd_other _ _ _ _ _ _ (by decide)
  have hregs : RegsOnly [(Reg.TIM_DPLL_STATE, 0), (Reg.SHF_STATE, 0)] a s2 :=
    RegsOnly.upd (RegsOnly.raise ((RegsOnly.refl _ a).wr Reg.TIM_DPLL_STATE 0 dpllLocked (by simp)) _ _ _)
  have hrun2 : s2.halted = false := by
    unfold State.halted
    rw [hshf]
    exact hrun
  have hset : a.setDpll dpllLocked = s2.setShfState 2 := by
    unfold State.setDpll
    dsimp only
    rw [if_neg (by rw [hacq]; decide), if_neg (by rw [hacq]; decide),
      if_pos (show dpllLocked = 2 from rfl)]
    show s2.followDpll 2 = _
    unfold State.followDpll
    rw [if_neg (by rw [hrun2]; decide)]
    rfl
  have hstate : s2.rd Reg.TIM_DPLL_STATE 0 = dpllLocked := State.wr_rd_same a Reg.TIM_DPLL_STATE 0 dpllLocked
  rw [hset]
  unfold State.setShfState
  dsimp only
  split
  next h => exact ⟨rfl, hstate, h, hregs⟩
  next h =>
    refine ⟨rfl, ?_, State.wr_rd_same s2 Reg.SHF_STATE 0 2, RegsOnly.raise (hregs.wr Reg.SHF_STATE 0 2 (by simp)) _ _ _⟩
    rw [State.raise_rd, State.wr_rd_other _ _ _ _ _ _ (by decide), hstate]

theorem State.finishSwitch_spec {a : State} (hrun : a.halted = false) (hacq : a.rd Reg.TIM_DPLL_STATE 0 = dpllAcquire) :
    a.finishSwitch.addr = a.addr ∧ a.finishSwitch.rd Reg.TIM_SWITCHING 0 = 0 ∧ a.finishSwitch.rd Reg.TIM_DPLL_STATE 0 = dpllLocked ∧
      a.finishSwitch.rd Reg.SHF_STATE 0 = 2 ∧
      RegsOnly [(Reg.TIM_SWITCHING, 0), (Reg.TIM_DPLL_STATE, 0), (Reg.SHF_STATE, 0)] a a.finishSwitch := by
  let s1 := (a.wrBit Reg.TIM_SWITCHING 0 false).raise Ev.REF_SWITCH_DONE (srcCand (a.rd Reg.TIM_SEL 0))
    [(1, a.rd Reg.TIM_SEL 0), (4, (a.addr - a.tim.switchAt) / Config.cyclePos)]
  have hother (f : Fld) (i : Nat) (h : f.key i ≠ Reg.TIM_SWITCHING.key 0) : s1.rd f i = a.rd f i := State.wr_rd_other _ _ _ _ _ _ h
  have hrun1 : s1.halted = false := by
    unfold State.halted
    rw [hother _ _ (by decide)]
    exact hrun
  obtain ⟨haddr, hlock, hshf, honly⟩ := State.setDpll_locked hrun1 ((hother _ _ (by decide)).trans hacq)
  obtain ⟨haddr', hregs⟩ := State.startWaitingWtr_clock (s1.setDpll dpllLocked)
  have hrd (f : Fld) (i : Nat) : (s1.setDpll dpllLocked).startWaitingWtr.rd f i = (s1.setDpll dpllLocked).rd f i := by
    unfold State.rd
    rw [hregs]
  have hbit : s1.rd Reg.TIM_SWITCHING 0 = 0 := State.wrBit_rd_same a Reg.TIM_SWITCHING 0 false
  show (s1.setDpll dpllLocked).startWaitingWtr.addr = _ ∧ (s1.setDpll dpllLocked).startWaitingWtr.rd _ _ = _ ∧
    (s1.setDpll dpllLocked).startWaitingWtr.rd _ _ = _ ∧ (s1.setDpll dpllLocked).startWaitingWtr.rd _ _ = _ ∧
    RegsOnly _ a (s1.setDpll dpllLocked).startWaitingWtr
  rw [hrd, hrd, hrd]
  refine ⟨haddr'.trans haddr, (honly _ _ (by decide)).trans hbit, hlock, hshf, RegsOnly.of_regs (fun f i h => ?_) hregs⟩
  rw [honly f i fun e he => h e (List.mem_cons_of_mem _ he)]
  exact hother f i (h (Reg.TIM_SWITCHING, 0) (by simp)).symm

theorem completes_refSwitchDone {a : Nat} (hrun : s.halted = false) (hswitching : s.rdBit Reg.TIM_SWITCHING 0 = true)
    (hacq : s.rd Reg.TIM_DPLL_STATE 0 = dpllAcquire) (hsel : s.rd Reg.TIM_SEL 0 ≠ 19) (hwindow : s.tim.inWindow = some a)
    (hlock : a + lockCycles (s.bandwidth (s.rd Reg.TIM_SEL 0)) * Config.cyclePos ≤ ceilTo Config.cyclePos (s.addr + dt)) :
    Completes (.refSwitchDone dt) s fun t =>
      t.addr = ceilTo Config.cyclePos (s.addr + dt) ∧ t.rd Reg.TIM_SWITCHING 0 = 0 ∧ t.rd Reg.TIM_DPLL_STATE 0 = dpllLocked ∧
      t.rd Reg.SHF_STATE 0 = 2 ∧
      RegsOnly [(Reg.TIM_SWITCHING, 0), (Reg.TIM_DPLL_STATE, 0), (Reg.SHF_STATE, 0)] s t := by
  let b := s.toBoundary dt Config.cyclePos
  have hrd (f : Fld) (i : Nat) : b.rd f i = s.rd f i := State.toBoundary_rd ..
  have hrunb : b.halted = false := (State.toBoundary_halted ..).trans hrun
  have haddr : b.addr = ceilTo Config.cyclePos (s.addr + dt) := State.toBoundary_addr s dt _ hrun (by decide)
  have hband : b.bandwidth (b.rd Reg.TIM_SEL 0) = s.bandwidth (s.rd Reg.TIM_SEL 0) := by
    unfold State.bandwidth
    rw [hrd, State.cand_congr (congrArg TimSt.cands (State.toBoundary_tim s dt _))]
  have hwindow' : b.tim.inWindow = some a := (congrArg TimSt.inWindow (State.toBoundary_tim s dt _)).trans hwindow
  have hexec : exec (.refSwitchDone dt) s = .next b.finishSwitch := by
    show execRefSwitchDone dt s = _
    unfold execRefSwitchDone
    show Host.Outcome.next (if b.halted = true then b else _) = _
    have hswitching' : b.rdBit Reg.TIM_SWITCHING 0 = true := by rw [State.rdBit, hrd]; exact hswitching
    rw [if_neg (by rw [hrunb]; decide)]
    rw [hwindow']
    dsimp only
    rw [if_pos]
    show (b.rdBit Reg.TIM_SWITCHING 0 && decide (b.rd Reg.TIM_DPLL_STATE 0 = dpllAcquire) && b.rd Reg.TIM_SEL 0 != 19 &&
      decide (a + lockCycles (b.bandwidth (b.rd Reg.TIM_SEL 0)) * Config.cyclePos ≤ b.addr)) = true
    rw [hswitching', hband, hrd, hrd, hacq, haddr]
    simp [hsel, hlock]
  obtain ⟨haddr', hsw, hst, hshf, hregs⟩ := State.finishSwitch_spec hrunb ((hrd _ _).trans hacq)
  exact ⟨_, hexec, haddr'.trans haddr, hsw, hst, hshf, RegsOnly.trans (regsOnly_of_regs (State.toBoundary_regs ..) _) hregs⟩

/-! ### Holdover (R86, R94) -/

theorem State.judgeDemand_regsOnly (a : State) (d : Int) : RegsOnly [(Reg.TIM_DCO_LIMIT, 0)] a (a.judgeDemand d) := by
  unfold State.judgeDemand
  split
  · exact RegsOnly.wrBit (RegsOnly.refl _ a) (by simp)
  · split
    · exact RegsOnly.refl _ a
    · exact RegsOnly.raise (RegsOnly.wrBit (RegsOnly.refl _ a) (by simp)) _ _ _

theorem State.judgeDemand_addr (a : State) (d : Int) : (a.judgeDemand d).addr = a.addr := by
  unfold State.judgeDemand
  split_ifs <;> rfl

theorem State.setDco_regsOnly (a : State) (d : Int) : RegsOnly [(Reg.TIM_DCO_OFFSET, 0)] a (a.setDco d) := by
  unfold State.setDco
  dsimp only
  split
  · exact RegsOnly.refl _ a
  · exact RegsOnly.wrInt (RegsOnly.upd (RegsOnly.refl _ a)) (by simp)

theorem State.setDco_addr (a : State) (d : Int) : (a.setDco d).addr = a.addr := by
  unfold State.setDco
  dsimp only
  split <;> rfl

/-- The demand of holdover goes to the DCO, and says whether it is compensated. -/
theorem State.holdoverDemand_spec (a : State) (uncomp : Bool) (d : Int) :
    let t := (((a.wrBit Reg.TIM_HO_UNCOMP 0 uncomp).judgeDemand d).setDco d).draw
    t.addr = a.addr ∧ t.dco = clampDco d ∧ t.rd Reg.TIM_HO_UNCOMP 0 = ofBool uncomp := by
  let w := a.wrBit Reg.TIM_HO_UNCOMP 0 uncomp
  have haddr : ((w.judgeDemand d).setDco d).addr = a.addr := by
    rw [State.setDco_addr, State.judgeDemand_addr]
    rfl
  have huncomp : ((w.judgeDemand d).setDco d).rd Reg.TIM_HO_UNCOMP 0 = ofBool uncomp := by
    rw [State.setDco_regsOnly _ _ _ _ (by decide), State.judgeDemand_regsOnly _ _ _ _ (by decide), State.wrBit_rd_same]
    cases uncomp <;> rfl
  exact ⟨haddr, State.setDco_dco (w.judgeDemand d) d, huncomp⟩

theorem completes_holdoverUpdate_uncompensated (hrun : s.halted = false) (hstate : s.rd Reg.TIM_DPLL_STATE 0 = dpllHoldover)
    (hmodel : s.rd Reg.TIM_MODEL_STATE 0 ≠ 2) :
    Completes (.holdoverUpdate dt) s fun t =>
      t.addr = ceilTo Config.epochPos (s.addr + dt) ∧ t.dco = clampDco (8 * s.nearest s.tim.fHist) ∧
      t.rd Reg.TIM_HO_UNCOMP 0 = 1 := by
  let b := s.toBoundary dt Config.epochPos
  have hnearest : b.nearest b.tim.fHist = s.nearest s.tim.fHist := by
    unfold State.nearest
    rw [State.toBoundary_tim, State.toBoundary_freeCtr]
  have hexec : exec (.holdoverUpdate dt) s = .next ((((b.wrBit Reg.TIM_HO_UNCOMP 0 true).judgeDemand (8 * b.nearest b.tim.fHist)).setDco
      (8 * b.nearest b.tim.fHist)).draw) := by
    show execHoldoverUpdate dt s = _
    unfold execHoldoverUpdate
    dsimp only
    rw [if_neg (by rw [State.toBoundary_halted, State.toBoundary_rd, hrun, hstate]; decide),
      if_pos (by rw [State.toBoundary_rd]; exact bne_iff_ne.mpr hmodel)]
  obtain ⟨haddr, hdco, huncomp⟩ := State.holdoverDemand_spec b true (8 * b.nearest b.tim.fHist)
  exact ⟨_, hexec, haddr.trans (State.toBoundary_addr s dt _ hrun (by decide)), hdco.trans (by rw [hnearest]), huncomp⟩

theorem completes_holdoverUpdate_compensated (hrun : s.halted = false) (hstate : s.rd Reg.TIM_DPLL_STATE 0 = dpllHoldover)
    (hmodel : s.rd Reg.TIM_MODEL_STATE 0 = 2) :
    Completes (.holdoverUpdate dt) s fun t =>
      t.addr = ceilTo Config.epochPos (s.addr + dt) ∧ t.rd Reg.TIM_HO_UNCOMP 0 = 0 ∧
      t.dco = clampDco (8 * s.nearest (s.tim.fHist +
        (s.model (s.tempAt t.addr) (s.slopeAt t.addr) - s.model s.tim.entryT s.tim.entrySlope) +
        s.coef Reg.TIM_MODEL_AGE * (((t.addr - s.tim.guardAt : Nat) : Rat) / (86400 * Config.secondPos)))) := by
  let b := s.toBoundary dt Config.epochPos
  let d := b.nearest (b.tim.fHist + (b.model (b.tempAt b.addr) (b.slopeAt b.addr) - b.model b.tim.entryT b.tim.entrySlope) +
    b.coef Reg.TIM_MODEL_AGE * (((b.addr - b.tim.guardAt : Nat) : Rat) / (86400 * Config.secondPos)))
  have hd : d = s.nearest (s.tim.fHist +
      (s.model (s.tempAt b.addr) (s.slopeAt b.addr) - s.model s.tim.entryT s.tim.entrySlope) +
      s.coef Reg.TIM_MODEL_AGE * (((b.addr - s.tim.guardAt : Nat) : Rat) / (86400 * Config.secondPos))) := by
    simp only [d, b, State.nearest, State.model, State.slopeAt, State.tempAt, State.coef, State.rangeHi, State.rangeLo,
      State.toBoundary_tim, State.toBoundary_freeCtr, State.toBoundary_rdInt, State.toBoundary_rd]
    congr
  obtain ⟨a, hexec, haddrA⟩ : ∃ a : State, exec (.holdoverUpdate dt) s = .next ((((a.wrBit Reg.TIM_HO_UNCOMP 0 false).judgeDemand
      (8 * d)).setDco (8 * d)).draw) ∧ a.addr = b.addr := by
    show ∃ a : State, execHoldoverUpdate dt s = _ ∧ _
    unfold execHoldoverUpdate
    dsimp only
    rw [if_neg (by rw [State.toBoundary_halted, State.toBoundary_rd, hrun, hstate]; decide),
      if_neg (by rw [State.toBoundary_rd, hmodel]; decide)]
    exact ⟨_, rfl, State.raiseIf_addr ..⟩
  obtain ⟨haddr, hdco, huncomp⟩ := State.holdoverDemand_spec a false (8 * d)
  have haddr' := haddr.trans haddrA
  refine ⟨_, hexec, haddr'.trans (State.toBoundary_addr s dt _ hrun (by decide)), huncomp, ?_⟩
  rw [hdco, haddr', hd]

/-! ### The temperature model (R88) -/

theorem State.showFit_tim (a : State) : a.showFit.tim = a.tim := by
  unfold State.showFit
  dsimp only
  split <;> rfl

theorem State.showFit_trange {a : State} {lo hi : Int} (h : a.tim.fit.learnt = some (lo, hi)) :
    a.showFit.rd Reg.TIM_MODEL_TRANGE 0 = (pattern 16 lo + 65536 * pattern 16 hi) % 2 ^ 32 := by
  unfold State.showFit
  dsimp only
  rw [h]
  exact State.wr_rd_same ..

theorem State.setModel_tim (a : State) (v : Nat) : (a.setModel v).tim = a.tim := by
  unfold State.setModel
  dsimp only
  split <;> rfl

theorem State.setModel_state (a : State) {v : Nat} (hv : v < 4) : (a.setModel v).rd Reg.TIM_MODEL_STATE 0 = v := by
  unfold State.setModel
  dsimp only
  split
  · assumption
  · rw [State.raise_rd, State.wr_rd_same]
    exact Nat.mod_eq_of_lt hv

theorem State.setModel_regsOnly (a : State) (v : Nat) : RegsOnly [(Reg.TIM_MODEL_STATE, 0)] a (a.setModel v) := by
  unfold State.setModel
  dsimp only
  split
  · exact RegsOnly.refl _ a
  · exact RegsOnly.raise ((RegsOnly.refl _ a).wr _ _ _ (by simp)) _ _ _

/-- The state that the model takes at a sample (R87 to R89). -/
def State.judgeModel (a : State) (f : FitSt) : State :=
  let limit := a.rd Reg.TIM_MODEL_RMS_MAX 0
  if a.rd Reg.TIM_MODEL_STATE 0 = 2 then
    (if ((2 * limit : Nat) : Rat) ^ 2 < f.hourSquare then a.setModel 1 else a)
  else a.setModel (if f.valid limit then 2 else 1)

theorem State.judgeModel_spec (a : State) (f : FitSt) :
    (a.judgeModel f).tim = a.tim ∧ (a.judgeModel f).rd Reg.TIM_MODEL_TRANGE 0 = a.rd Reg.TIM_MODEL_TRANGE 0 ∧
    (a.judgeModel f).rd Reg.TIM_MODEL_STATE 0 ≠ 0 ∧
    (a.rd Reg.TIM_MODEL_STATE 0 ≠ 2 → f.samples < 21600 → (a.judgeModel f).rd Reg.TIM_MODEL_STATE 0 = 1) := by
  have hset {v : Nat} (hlo : 1 ≤ v) (hhi : v ≤ 2) : (a.setModel v).tim = a.tim ∧
      (a.setModel v).rd Reg.TIM_MODEL_TRANGE 0 = a.rd Reg.TIM_MODEL_TRANGE 0 ∧ (a.setModel v).rd Reg.TIM_MODEL_STATE 0 ≠ 0 :=
    ⟨State.setModel_tim a v, State.setModel_regsOnly a v _ _ (by decide), by rw [State.setModel_state a (by omega)]; omega⟩
  unfold State.judgeModel
  dsimp only
  by_cases hvalid : a.rd Reg.TIM_MODEL_STATE 0 = 2
  · rw [if_pos hvalid]
    split
    · obtain ⟨htim, hrange, hstate⟩ := hset (v := 1) (by omega) (by omega)
      exact ⟨htim, hrange, hstate, fun h => absurd hvalid h⟩
    · exact ⟨rfl, rfl, by rw [hvalid]; decide, fun h => absurd hvalid h⟩
  · rw [if_neg hvalid]
    obtain ⟨htim, hrange, hstate⟩ := hset (v := if f.valid (a.rd Reg.TIM_MODEL_RMS_MAX 0) then 2 else 1)
      (by split <;> omega) (by split <;> omega)
    refine ⟨htim, hrange, hstate, fun _ hfew => ?_⟩
    have hinvalid : f.valid (a.rd Reg.TIM_MODEL_RMS_MAX 0) = false := by
      unfold FitSt.valid
      rw [decide_eq_false (by omega)]
      rfl
    rw [hinvalid]
    exact State.setModel_state a (by decide)

theorem FitSt.sample_learnt (f : FitSt) (addr : Nat) (t16 : Int) (phi : List Rat) (y : Rat) :
    ∃ lo hi, (f.sample addr t16 phi y).learnt = some (lo, hi) := by
  unfold FitSt.sample
  dsimp only
  split
  · exact ⟨_, _, rfl⟩
  · exact ⟨_, _, rfl⟩

theorem completes_modelLearnSample (hrun : s.halted = false) (hlocked : s.rd Reg.TIM_DPLL_STATE 0 = dpllLocked)
    (hlong : s.tim.lockedAt + 60 * Config.secondPos ≤ ceilTo Config.secondPos (s.addr + dt))
    (hnew : ∀ e, s.tim.fitLog.head? = some e → e.1 ≠ ceilTo Config.secondPos (s.addr + dt)) :
    Completes (.modelLearnSample dt) s fun t =>
      let b := s.toBoundary dt Config.secondPos
      t.tim.fit = s.tim.fit.sample b.addr (b.tempAt b.addr * 16).floor (b.fitTerms b.addr)
        ((histSum s.tim.hist (b.addr - Config.secondPos) b.addr : Rat) / (8 * Config.secondPos)) ∧
      t.rd Reg.TIM_MODEL_STATE 0 ≠ 0 ∧
      (s.rd Reg.TIM_MODEL_STATE 0 ≠ 2 → s.tim.fit.samples + 1 < 21600 → t.rd Reg.TIM_MODEL_STATE 0 = 1) ∧
      (∃ lo hi, t.tim.fit.learnt = some (lo, hi) ∧
        t.rd Reg.TIM_MODEL_TRANGE 0 = (pattern 16 lo + 65536 * pattern 16 hi) % 2 ^ 32) := by
  let b := s.toBoundary dt Config.secondPos
  have haddr : b.addr = ceilTo Config.secondPos (s.addr + dt) := State.toBoundary_addr s dt _ hrun (by decide)
  have htim : b.tim = s.tim := State.toBoundary_tim ..
  let f := b.tim.fit.sample b.addr (b.tempAt b.addr * 16).floor (b.fitTerms b.addr)
    ((histSum b.tim.hist (b.addr - Config.secondPos) b.addr : Rat) / (8 * Config.secondPos))
  let fitted : State := { b with tim := { b.tim with fit := f, fitLog := ((b.addr, b.tim.fit) :: b.tim.fitLog).take 4 } }
  let shown := fitted.showFit.wr Reg.TIM_MODEL_RMS 0 (min (2 ^ 32 - 1) (Nat.sqrt f.meanSquare.floor.toNat))
  have hnew' : (b.tim.fitLog.head?.any fun e => e.1 == b.addr) = false := by
    rw [htim, haddr]
    cases hhead : s.tim.fitLog.head? with
    | none => rfl
    | some e => exact beq_false_of_ne (hnew e hhead)
  have hexec : exec (.modelLearnSample dt) s = .next (shown.judgeModel f).draw := by
    show execModelLearnSample dt s = _
    unfold execModelLearnSample
    dsimp only
    rw [if_neg]
    · rfl
    · show ¬ (b.halted || b.rd Reg.TIM_DPLL_STATE 0 != dpllLocked || decide (b.addr < b.tim.lockedAt + 60 * Config.secondPos) ||
        b.tim.fitLog.head?.any fun e => e.1 == b.addr) = true
      rw [hnew', State.toBoundary_halted, State.toBoundary_rd, hrun, hlocked, htim, haddr, decide_eq_false (by omega)]
      decide
  obtain ⟨lo, hi, hlearnt⟩ := FitSt.sample_learnt b.tim.fit b.addr (b.tempAt b.addr * 16).floor (b.fitTerms b.addr)
    ((histSum b.tim.hist (b.addr - Config.secondPos) b.addr : Rat) / (8 * Config.secondPos))
  obtain ⟨htimJ, hrange, hstate, hlearning⟩ := State.judgeModel_spec shown f
  have hfit : (shown.judgeModel f).tim.fit = f := by
    rw [htimJ]
    exact congrArg TimSt.fit (State.showFit_tim fitted)
  have hwas : shown.rd Reg.TIM_MODEL_STATE 0 = s.rd Reg.TIM_MODEL_STATE 0 := by
    rw [State.wr_rd_other _ _ _ _ _ _ (by decide), (State.showFit_move (DpllMove.refl fitted)).2 _ _ (by decide)]
    exact State.toBoundary_rd ..
  refine ⟨_, hexec, ?_, hstate, fun h2 hfew => hlearning (by rw [hwas]; exact h2) ?_, lo, hi, ?_, ?_⟩
  · show (shown.judgeModel f).tim.fit = _
    rw [hfit]
    simp only [f, htim, b]
  · show b.tim.fit.samples + 1 < _
    rw [htim]
    exact hfew
  · show (shown.judgeModel f).tim.fit.learnt = _
    rw [hfit]
    exact hlearnt
  · show (shown.judgeModel f).rd _ _ = _
    rw [hrange, State.wr_rd_other _ _ _ _ _ _ (by decide)]
    exact State.showFit_trange (a := fitted) hlearnt

/-! ### The time of day and its pulses (R96 to R98) -/

/-- A time of day just set is the time of day now. -/
theorem State.setTod_todNow (a : State) (v : Nat) : (a.setTod v).todNow = v % (2 ^ 48 * todSecond) := by
  show (v % (2 ^ 48 * todSecond) + 3125 * (a.addr - a.addr)) % (2 ^ 48 * todSecond) = _
  rw [Nat.sub_self, Nat.mul_zero, Nat.add_zero, Nat.mod_mod]

/-- The time of day of the queue's front is set. -/
def State.applyTod (b : State) (rest : List (Nat × Nat × Nat)) (v : Nat) : State :=
  ({ b with tim := { b.tim with todQueue := rest, todSet := true } } : State).setTod v

theorem State.applyTod_spec (b : State) (rest : List (Nat × Nat × Nat)) (v : Nat) :
    (b.applyTod rest v).addr = b.addr ∧ (b.applyTod rest v).regs = b.regs ∧ (b.applyTod rest v).ppsoutLow = b.ppsoutLow ∧
    (b.applyTod rest v).halted = b.halted ∧ (b.applyTod rest v).tim.todQueue = rest ∧
    (b.applyTod rest v).tim.pulses = b.tim.pulses ∧ (b.applyTod rest v).todNow = v % (2 ^ 48 * todSecond) :=
  ⟨rfl, rfl, rfl, rfl, rfl, rfl, State.setTod_todNow _ v⟩

/-- A pulse of a running shaft counts while PPSOUT is on, and changes nothing else but its time. -/
theorem State.pulse_spec {a : State} (hrun : a.halted = false) (sub : Nat) :
    (a.pulse sub).addr = a.addr ∧ (a.pulse sub).time = a.time ∧ (a.pulse sub).regs = a.regs ∧ (a.pulse sub).todNow = a.todNow ∧
    (a.pulse sub).tim.todQueue = a.tim.todQueue ∧
    (a.pulse sub).tim.pulses = (if a.ppsoutLow = false then a.tim.pulses + 1 else a.tim.pulses) ∧
    (a.ppsoutLow = false → (a.pulse sub).tim.pulseAt = some (a.time, sub)) := by
  unfold State.pulse
  rw [hrun]
  cases a.ppsoutLow with
  | false => exact ⟨rfl, rfl, rfl, rfl, rfl, rfl, fun _ => rfl⟩
  | true => exact ⟨rfl, rfl, rfl, rfl, rfl, rfl, fun h => absurd h (by decide)⟩

theorem State.waitAddr_halted (a : State) (x : Nat) : (a.waitAddr x).halted = a.halted := by
  simp only [State.halted, State.waitAddr_rd]

theorem State.waitAddr_ppsoutLow (a : State) (x : Nat) : (a.waitAddr x).ppsoutLow = a.ppsoutLow := by
  simp only [State.ppsoutLow, State.waitAddr_sys, State.waitAddr_rdBit, State.waitAddr_rd]

theorem exec_todSetApply_running {a sec ns : Nat} {rest : List (Nat × Nat × Nat)} (hrun : s.halted = false)
    (hqueue : s.tim.todQueue = (a, sec, ns) :: rest) : exec (.todSetApply dt) s = .next
      (if ns = 0 then (((s.elapse dt).waitAddr a).applyTod rest (sec * todSecond + ns * 486)).pulse 0
      else ((s.elapse dt).waitAddr a).applyTod rest (sec * todSecond + ns * 486)) := by
  show execTodSetApply dt s = _
  have hqueue' : (s.elapse dt).tim.todQueue = (a, sec, ns) :: rest := hqueue
  unfold execTodSetApply
  dsimp only
  rw [hqueue']
  dsimp only
  rw [State.whenAddr_running (by exact hrun)]
  rfl

theorem completes_todSetApply {a sec ns : Nat} {rest : List (Nat × Nat × Nat)} (hrun : s.halted = false)
    (hqueue : s.tim.todQueue = (a, sec, ns) :: rest) :
    Completes (.todSetApply dt) s fun t =>
      t.addr = max (s.addr + dt) a ∧ t.tim.todQueue = rest ∧ t.todNow = (sec * todSecond + ns * 486) % (2 ^ 48 * todSecond) ∧
      t.tim.pulses = (if ns = 0 ∧ s.ppsoutLow = false then s.tim.pulses + 1 else s.tim.pulses) ∧
      RegsOnly [] s t := by
  refine ⟨_, exec_todSetApply_running hrun hqueue, ?_⟩
  obtain ⟨haddr, hregs, hlow, hhalted, hqueued, hpulses, htod⟩ :=
    State.applyTod_spec ((s.elapse dt).waitAddr a) rest (sec * todSecond + ns * 486)
  have haddr' := haddr.trans (State.elapse_waitAddr_addr hrun a)
  have hregs' := hregs.trans (State.waitAddr_regs (s.elapse dt) a)
  have hlow' := hlow.trans (State.waitAddr_ppsoutLow (s.elapse dt) a)
  have hpulses' := hpulses.trans (congrArg TimSt.pulses (State.waitAddr_tim (s.elapse dt) a))
  by_cases hns : ns = 0
  · obtain ⟨haddrP, -, hregsP, htodP, hqueueP, hpulsesP, -⟩ :=
      State.pulse_spec (hhalted.trans ((State.waitAddr_halted (s.elapse dt) a).trans hrun)) 0
    rw [if_pos hns]
    refine ⟨haddrP.trans haddr', hqueueP.trans hqueued, htodP.trans htod, ?_, regsOnly_of_regs (hregsP.trans hregs') _⟩
    rw [hpulsesP, hpulses', hlow']
    simp only [hns, true_and]
    rfl
  · rw [if_neg hns, if_neg (fun h => hns h.1)]
    exact ⟨haddr', hqueued, htod, hpulses', regsOnly_of_regs hregs' _⟩

/-- The phase of an edge against the nearest second, in tenths of a ns, lies within half a second. -/
theorem ppsErr_spec (t : Nat) :
    let frac : Int := (t : Int) % tenthSecond
    let err : Int := if frac < 5000000000 then frac else frac - tenthSecond
    (∃ k : Int, err + k * 10000000000 = t) ∧ -5000000000 ≤ err ∧ err < 5000000000 := by
  have hdef : tenthSecond = 10000000000 := rfl
  dsimp only
  rw [hdef]
  have hdiv := Int.emod_add_mul_ediv (t : Int) 10000000000
  split
  · exact ⟨⟨(t : Int) / 10000000000, by omega⟩, by omega, by omega⟩
  · exact ⟨⟨(t : Int) / 10000000000 + 1, by omega⟩, by omega, by omega⟩

/-- An edge of PPSIN is taken at a time of day, with its error against the nearest second (R97). -/
def State.takeEdge (a : State) (t : Nat) (err : Int) : State :=
  let gap := a.time - a.tim.ppsAt
  let good := 999 * Config.msPos ≤ gap && gap ≤ 1001 * Config.msPos
  let others := a.tim.noEdge.filter (· != 18)
  let b := { a with tim := { a.tim with
      ppsEdge := some t, ppsAt := a.time, ppsErr := err, stepArmed := false,
      noEdge := if a.tim.ppsEdge.isNone then a.tim.noEdge else if good then others else 18 :: others } }
  if a.tim.stepArmed && b.ppsStepDue then { b with tim := { b.tim with stepNext := some err } } else b

theorem State.takeEdge_spec (a : State) (t : Nat) (err : Int) :
    (a.takeEdge t err).timReview.tim.ppsEdge = some t ∧ (a.takeEdge t err).timReview.tim.ppsAt = a.time ∧
      (a.takeEdge t err).timReview.tim.ppsErr = err := by
  obtain ⟨_, _, _, htim⟩ := (State.timReview_reviewed (a.takeEdge t err)).tim
  rw [htim]
  unfold State.takeEdge
  dsimp only
  split_ifs <;> exact ⟨rfl, rfl, rfl⟩

theorem exec_ppsinEdge (s : State) (dt sub : Nat) : exec (.ppsinEdge dt sub) s =
    .next ((s.elapse dt).takeEdge ((s.elapse dt).todNow * 10 / 486 + sub)
      (if (((s.elapse dt).todNow * 10 / 486 + sub : Nat) : Int) % tenthSecond < 5000000000 then
        (((s.elapse dt).todNow * 10 / 486 + sub : Nat) : Int) % tenthSecond
      else (((s.elapse dt).todNow * 10 / 486 + sub : Nat) : Int) % tenthSecond - tenthSecond)).timReview := rfl

theorem completes_ppsinEdge (sub : Nat) :
    Completes (.ppsinEdge dt sub) s fun t =>
      t.tim.ppsEdge = some ((s.elapse dt).todNow * 10 / 486 + sub) ∧ t.tim.ppsAt = s.time + dt ∧
      (∃ k : Int, t.tim.ppsErr + k * 10000000000 = (((s.elapse dt).todNow * 10 / 486 + sub : Nat) : Int)) ∧
      -5000000000 ≤ t.tim.ppsErr ∧ t.tim.ppsErr < 5000000000 := by
  refine ⟨_, exec_ppsinEdge s dt sub, ?_⟩
  generalize (s.elapse dt).todNow * 10 / 486 + sub = t
  obtain ⟨hedge, hat, herr⟩ := State.takeEdge_spec (s.elapse dt) t
    (if (t : Int) % tenthSecond < 5000000000 then (t : Int) % tenthSecond else (t : Int) % tenthSecond - tenthSecond)
  rw [hedge, hat, herr]
  exact ⟨rfl, rfl, ppsErr_spec t⟩

theorem completes_ppsoutPulse (hrun : s.halted = false) (hon : s.ppsoutLow = false) :
    Completes (.ppsoutPulse dt) s fun t =>
      let left := ((todSecond : Int) - (((s.elapse dt).todNow : Int) - s.rdInt Reg.TIM_PPSOUT_COMP 0 * 486) % (todSecond : Int)).toNat
      t.tim.pulses = s.tim.pulses + 1 ∧ t.tim.pulseAt = some (t.time, left % 3125) ∧ t.addr = s.addr + dt + left / 3125 ∧
      RegsOnly [] s t := by
  let left := ((todSecond : Int) - (((s.elapse dt).todNow : Int) - s.rdInt Reg.TIM_PPSOUT_COMP 0 * 486) % (todSecond : Int)).toNat
  let b := (s.elapse dt).waitAddr ((s.elapse dt).addr + left / 3125)
  have hexec : exec (.ppsoutPulse dt) s = .next (b.pulse (left % 3125)) := rfl
  have hrunb : b.halted = false := (State.waitAddr_halted (s.elapse dt) _).trans hrun
  have honb : b.ppsoutLow = false := (State.waitAddr_ppsoutLow (s.elapse dt) _).trans hon
  have haddr : b.addr = s.addr + dt + left / 3125 := by
    show ((s.elapse dt).waitAddr _).addr = _
    rw [State.elapse_waitAddr_addr hrun, State.addr_elapse hrun]
    omega
  obtain ⟨haddr', htime, hregs, -, -, hpulses, hat⟩ := State.pulse_spec hrunb (left % 3125)
  refine ⟨_, hexec, ?_, (hat honb).trans (by rw [htime]), haddr'.trans haddr, regsOnly_of_regs (hregs.trans ?_) _⟩
  · rw [hpulses, if_pos honb]
    exact congrArg (· + 1) (congrArg TimSt.pulses (State.waitAddr_tim (s.elapse dt) _))
  · exact State.waitAddr_regs (s.elapse dt) _

end

/-- Settles O28, event by event. -/
theorem timingEventsTakeEffect : Obligations.TimingEventsTakeEffect := by
  unfold Obligations.TimingEventsTakeEffect
  intro s dt
  exact ⟨completes_refSelection,
    fun _ hrun hswitching hacq hsel hwindow hlock => completes_refSwitchDone hrun hswitching hacq hsel hwindow hlock,
    completes_holdoverUpdate_uncompensated, completes_holdoverUpdate_compensated, completes_modelLearnSample,
    fun _ _ _ _ hrun hqueue => completes_todSetApply hrun hqueue, completes_ppsinEdge, completes_ppsoutPulse⟩

end Sys2Proof.Machine
end

section
/-! PROOFS. What a write to a queue, and the delivery of a filter word, write in the registers. -/

namespace Sys2Proof.Machine

/-! ### Registers that a write to a queue counts in -/

theorem RegsOnly.raiseIf {l : List (Fld × Nat)} {s t : State} (k : RegsOnly l s t) (b : Bool) (code src : Nat) (d : List (Nat × Nat)) :
    RegsOnly l s (t.raiseIf b code src d) := by
  unfold State.raiseIf
  exact RegsOnly.ite (k.raise _ _ _) k

theorem RegsOnly.draw {l : List (Fld × Nat)} {s t : State} (k : RegsOnly l s t) : RegsOnly l s t.draw := k

/-- Fewer fields are allowed to change. -/
theorem RegsOnly.mono {l m : List (Fld × Nat)} {s t : State} (k : RegsOnly l s t) (h : ∀ e ∈ l, e ∈ m) : RegsOnly m s t :=
  fun f i hf => k f i fun e he => hf e (h e he)

theorem RegsOnly.setQueue {l : List (Fld × Nat)} {s t : State} (k : RegsOnly l s t) (n : Nat) (q : QSt) :
    RegsOnly l s (t.setQueue n q) := k.of_regs rfl

/-- The counters of the queue manager, and that of the perturbations. -/
def queueCounts : List (Fld × Nat) :=
  [(Reg.QMG_DROP_CNT, 0), (Reg.QMG_ABORT_CNT, 0), (Reg.QMG_MARK_LOST_CNT, 0), (Reg.TST_PERTURB_CNT, 0)]

section
variable {base s : State}

theorem State.judgeQueue_regsOnly (h : RegsOnly queueCounts base s) (n : Nat) : RegsOnly queueCounts base (s.judgeQueue n) := by
  unfold State.judgeQueue
  split
  · exact h
  · refine RegsOnly.raiseIf (RegsOnly.raiseIf ?_ _ _ _ _) _ _ _ _
    exact RegsOnly.ite (RegsOnly.count (h.setQueue _ _) (by simp [queueCounts])) (h.setQueue _ _)

theorem State.endWindow_regsOnly (h : RegsOnly queueCounts base s) (n : Nat) (q : QSt) (k : Nat) :
    RegsOnly queueCounts base (s.endWindow n q k) := (h.setQueue _ _).raise _ _ _

theorem State.dropOne_regsOnly (h : RegsOnly queueCounts base s) (n : Nat) : RegsOnly queueCounts base (s.dropOne n) := by
  unfold State.dropOne
  split
  · exact h
  · refine RegsOnly.count (RegsOnly.setQueue ?_ _ _) (by simp [queueCounts])
    split
    · exact RegsOnly.ite (State.endWindow_regsOnly h _ _ _) h
    · exact h

theorem State.abandon_regsOnly (h : RegsOnly queueCounts base s) (n : Nat) : RegsOnly queueCounts base (s.abandon n) := by
  unfold State.abandon
  split
  · exact h
  · split
    · exact h.count (by simp [queueCounts])
    · exact (h.setQueue _ _).count (by simp [queueCounts])

theorem State.newWord_regsOnly (h : RegsOnly queueCounts base s) {n : Nat} {w : QWord} {t : State} (ht : s.newWord n w = some t) :
    RegsOnly queueCounts base t := by
  unfold State.newWord at ht
  split at ht
  · cases ht
  · dsimp only at ht
    split_ifs at ht with hfull
    split at ht
    · split at ht
      · cases ht
        exact ((h.setQueue _ _).count (by simp [queueCounts])).raise _ _ _
      · cases ht
        exact h.setQueue _ _
    · cases ht
      exact h.setQueue _ _

theorem State.dropPacket_regsOnly (h : RegsOnly queueCounts base s) (n : Nat) (last : Bool) :
    RegsOnly queueCounts base (s.dropPacket n last) := by
  have hdrop := State.dropOne_regsOnly (State.abandon_regsOnly h n) n
  unfold State.dropPacket
  dsimp only
  split
  · exact hdrop
  · exact hdrop.setQueue _ _

theorem State.appendBytes_regsOnly (n : Nat) (l : List Nat) : ∀ {s t : State}, RegsOnly queueCounts base s →
    s.appendBytes n l = some t → RegsOnly queueCounts base t := by
  induction l with
  | nil =>
    intro s t h ht
    cases ht
    exact h
  | cons b rest ih =>
    intro s t h ht
    unfold State.appendBytes at ht
    split at ht
    · cases ht
    · dsimp only at ht
      split at ht
      · exact ih (h.setQueue _ _) ht
      · split at ht
        · cases ht
        · next hnew => exact ih (State.newWord_regsOnly h hnew) ht

theorem State.startPacket_regsOnly (h : RegsOnly queueCounts base s) {n : Nat} {t : State} (ht : s.startPacket n = some t) :
    RegsOnly queueCounts base t := by
  unfold State.startPacket at ht
  split at ht
  · cases ht
  · split at ht
    · cases ht
    · next hnew =>
      split at ht
      · cases ht
      · cases ht
        exact (State.newWord_regsOnly h hnew).setQueue _ _

theorem State.endPacket_regsOnly (h : RegsOnly queueCounts base s) (n status tag : Nat) :
    RegsOnly queueCounts base (s.endPacket n status tag) := by
  unfold State.endPacket
  split
  · exact h
  · split
    · exact h
    · exact h.setQueue _ _

theorem State.writePacket_regsOnly (h : RegsOnly queueCounts base s) (n : Nat) (w : QWrite) (q : QSt) :
    RegsOnly queueCounts base (s.writePacket n w q) := by
  unfold State.writePacket
  split
  · exact h.setQueue _ _
  · split
    · exact RegsOnly.ite (State.abandon_regsOnly h n) h
    · split
      · exact State.dropPacket_regsOnly h n _
      · next s1 hstart =>
        have h1 : RegsOnly queueCounts base s1 := by
          split at hstart
          · cases hstart
            exact h
          · exact State.startPacket_regsOnly h hstart
        split
        · exact State.dropPacket_regsOnly h1 n _
        · next s2 happend =>
          have h2 := State.appendBytes_regsOnly n _ h1 happend
          dsimp only
          refine RegsOnly.ite (State.endPacket_regsOnly ?_ _ _ _) ?_ <;> split
          · exact h2
          · exact h2.setQueue _ _
          · exact h2
          · exact h2.setQueue _ _

theorem State.writeRecord_regsOnly (h : RegsOnly queueCounts base s) (n : Nat) (bytes : List Nat) (q : QSt) :
    RegsOnly queueCounts base (s.writeRecord n bytes q) := by
  unfold State.writeRecord
  dsimp only
  split
  · exact h.setQueue _ _
  · split
    · exact State.dropOne_regsOnly h n
    · next hnew =>
      have h1 := State.newWord_regsOnly h hnew
      split
      · exact h1
      · exact h1.setQueue _ _

theorem State.writeWide_regsOnly (h : RegsOnly queueCounts base s) (n : Nat) (bytes : List Nat) (q : QSt) :
    RegsOnly queueCounts base (s.writeWide n bytes q) := by
  unfold State.writeWide
  dsimp only
  split
  · split
    · exact h.setQueue _ _
    · split
      · exact State.dropPacket_regsOnly (h.setQueue _ _) n _
      · next hnew =>
        have h1 := State.newWord_regsOnly (h.setQueue _ _) hnew
        split
        · exact h1
        · exact RegsOnly.ite (h1.setQueue _ _) h1
  · split
    · split
      · exact State.dropOne_regsOnly h n
      · exact (State.dropOne_regsOnly h n).setQueue _ _
    · split
      · split
        · exact State.dropPacket_regsOnly h n _
        · exact (State.dropPacket_regsOnly h n _).setQueue _ _
      · next hnew =>
        have h1 := State.newWord_regsOnly h hnew
        split
        · exact h1
        · exact h1.setQueue _ _

/-- A write to a queue writes no register but counters. -/
theorem State.writeQueue_regsOnly (h : RegsOnly queueCounts base s) (n : Nat) (w : QWrite) :
    RegsOnly queueCounts base (s.writeQueue n w) := by
  unfold State.writeQueue
  split
  · exact h
  · split
    · exact RegsOnly.ite (State.dropOne_regsOnly h n) h
    · refine State.judgeQueue_regsOnly ?_ n
      refine RegsOnly.ite (RegsOnly.ite (State.writeWide_regsOnly h _ _ _) (State.writePacket_regsOnly h _ _ _))
        (RegsOnly.ite ?_ (State.writeRecord_regsOnly h _ _ _))
      split
      · exact State.dropOne_regsOnly h n
      · next hnew => exact State.newWord_regsOnly h hnew

theorem State.pushRecord_regsOnly (h : RegsOnly queueCounts base s) (n : Nat) (bytes : List Nat) :
    RegsOnly queueCounts base (s.pushRecord n bytes) := State.writeQueue_regsOnly h n _

/-! ### Registers that a word of a feed channel writes (R422, R423, R426) -/

/-- The fields of a feed pair that its words write. -/
def feedFields (k : Nat) : List (Fld × Nat) :=
  [(Reg.ENG_FEED_V, k), (Reg.ENG_FEED_I, k), (Reg.ENG_FEED_P, k), (Reg.ENG_FEED_UNALIGNED, k), (Reg.ENG_FEED_LOW, k)]

theorem RegsOnly.setFeed {l : List (Fld × Nat)} {s t : State} (k : RegsOnly l s t) (n : Nat) (f : FeedSt) :
    RegsOnly l s (t.setFeed n f) := k.of_regs rfl

theorem State.feedPair_regsOnly {k : Nat} (h : RegsOnly (feedFields k) base s) : RegsOnly (feedFields k) base (s.feedPair k) := by
  unfold State.feedPair
  dsimp only
  split
  · split
    · refine RegsOnly.draw (RegsOnly.wrBit (RegsOnly.wr (h.setFeed _ _) _ _ _ ?_) ?_) <;> simp [feedFields]
    · refine RegsOnly.ite (h.setFeed _ _) (RegsOnly.raise (RegsOnly.wrBit (h.setFeed _ _) ?_) _ _ _)
      simp [feedFields]
  · exact h

theorem State.feedLow_regsOnly {k : Nat} (h : RegsOnly (feedFields k) base s) (stamp v : Int) :
    RegsOnly (feedFields k) base (s.feedLow k stamp v) := by
  unfold State.feedLow
  refine RegsOnly.raiseIf (RegsOnly.wrBit (h.setFeed _ _) ?_) _ _ _ _
  simp [feedFields]

theorem State.feedWord_regsOnly {ch : Nat} (h : RegsOnly (feedFields (feedOf ch)) base s) (stamp v : Int) :
    RegsOnly (feedFields (feedOf ch)) base (s.feedWord ch stamp v) := by
  unfold State.feedWord
  dsimp only
  split
  · exact h
  · split
    · refine State.feedPair_regsOnly (State.feedLow_regsOnly (RegsOnly.setFeed (RegsOnly.draw (h.wr Reg.ENG_FEED_V _ _ ?_)) _ _) _ _)
      simp [feedFields]
    · refine State.feedPair_regsOnly (RegsOnly.setFeed (RegsOnly.draw (h.wr Reg.ENG_FEED_I _ _ ?_)) _ _)
      simp [feedFields]

end

end Sys2Proof.Machine
end

section
/-! PROOFS. The filter chains' samples, stuck inputs, swaps, cross-fades and resets (R104 to R128). -/

namespace Sys2Proof.Machine

theorem ofBool_mod_two (b : Bool) : ofBool b % 2 ^ 1 = ofBool b := Nat.mod_eq_of_lt (ofBool_lt b)

/-- Two fields of one record differ in their place in it. -/
theorem Fld.key_ne {f g : Fld} (h : f.stride = g.stride ∧ f.base * 32 + f.lo ≠ g.base * 32 + g.lo) (i : Nat) : f.key i ≠ g.key i := by
  obtain ⟨hstride, hplace⟩ := h
  unfold Fld.key
  rw [hstride]
  omega

/-- A field of a record keeps its value while another field of the record is written. -/
theorem State.wr_rd_field {f g : Fld} (h : f.stride = g.stride ∧ f.base * 32 + f.lo ≠ g.base * 32 + g.lo) (s : State) (i v : Nat) :
    (s.wr g i v).rd f i = s.rd f i := State.wr_rd_other _ _ _ _ _ _ (Fld.key_ne h i)

/-- A field of a record apart from those that changed. -/
theorem RegsOnly.field {l : List Fld} {s t : State} {i : Nat} (k : RegsOnly (l.map fun g => (g, i)) s t) {f : Fld}
    (h : ∀ g ∈ l, g.stride = f.stride ∧ g.base * 32 + g.lo ≠ f.base * 32 + f.lo) : t.rd f i = s.rd f i := by
  refine k f i fun e he => ?_
  obtain ⟨g, hg, rfl⟩ := List.mem_map.mp he
  exact Fld.key_ne (h g hg) i

/-! ### The channels' table -/

theorem State.chan_congr {s t : State} (h : t.flt = s.flt) (n : Nat) : t.chan n = s.chan n := by
  unfold State.chan
  rw [h]

theorem RegsOnly.setChan {l : List (Fld × Nat)} {s t : State} (k : RegsOnly l s t) (n : Nat) (c : FltChan) :
    RegsOnly l s (t.setChan n c) := k.of_regs rfl

theorem State.chan_lt {s : State} {ch : Nat} (h : s.chanOn ch = true) : ch < 48 := by
  unfold State.chanOn at h
  simp only [Bool.and_eq_true, decide_eq_true_eq] at h
  exact h.1.2

theorem State.chanOn_congr {s t : State} (h : t.regs = s.regs) (ch : Nat) : t.chanOn ch = s.chanOn ch := by
  unfold State.chanOn State.rd
  rw [h]

theorem State.bankOf_congr {s t : State} (h : t.flt = s.flt) (n b : Nat) : t.bankOf n b = s.bankOf n b := by
  unfold State.bankOf
  rw [State.chan_congr h]

theorem State.chain_congr {s t : State} (hflt : t.flt = s.flt) (hregs : t.regs = s.regs) (n : Nat) : t.chain n = s.chain n := by
  unfold State.chain
  rw [State.chan_congr hflt, State.bankOf_congr hflt]
  unfold State.rd
  rw [hregs]

/-! ### Output words (R104 to R117) -/

/-- A delivered word is the channel's latest, and counts; what else it writes is its consumer's and its queue's. -/
theorem State.deliverWord_spec (s : State) (ch : Nat) (w : FltWord) :
    (s.deliverWord ch w).chan ch = { s.chan ch with vLast := w.value } ∧
    RegsOnly (feedFields (feedOf ch) ++ queueCounts) (s.count Reg.FLT_CH_WORD_CNT ch) (s.deliverWord ch w) := by
  let s1 := (s.setChan ch { s.chan ch with vLast := w.value }).count Reg.FLT_CH_WORD_CNT ch
  have hchan1 : s1.chan ch = { s.chan ch with vLast := w.value } := State.setChan_chan_same s ch _
  have hregs1 : RegsOnly (feedFields (feedOf ch) ++ queueCounts) (s.count Reg.FLT_CH_WORD_CNT ch) s1 := regsOnly_of_regs rfl _
  let s2 :=
    if isFeed ch then s1.feedWord ch (max 0 w.stamp) w.value
    else if 36 ≤ ch then { s1 with tim := { s1.tim with temps := (s1.addr, s1.meanTemp) :: s1.tim.temps } }
    else s1
  have hflt2 : s2.flt = s1.flt := by
    show (if isFeed ch then s1.feedWord ch (max 0 w.stamp) w.value else _ : State).flt = _
    split
    · exact State.feedWord_frame (pt := .flt) (by decide) (Part.same_refl _ _)
    · split <;> rfl
  have hregs2 : RegsOnly (feedFields (feedOf ch) ++ queueCounts) s1 s2 := by
    show RegsOnly _ s1 (if isFeed ch then s1.feedWord ch (max 0 w.stamp) w.value else _)
    refine RegsOnly.ite ?_ (RegsOnly.ite (RegsOnly.upd (RegsOnly.refl _ s1)) (RegsOnly.refl _ s1))
    exact (State.feedWord_regsOnly (RegsOnly.refl _ s1) _ _).mono fun e he => List.mem_append_left _ he
  show State.chan (if s2.rdBit Reg.FLT_CH_QUEUE_EN ch then s2.pushRecord (65488 + ch) (w.bytes ch) else s2) ch = _ ∧
    RegsOnly _ _ (if s2.rdBit Reg.FLT_CH_QUEUE_EN ch then s2.pushRecord (65488 + ch) (w.bytes ch) else s2)
  split
  · have hflt3 : (s2.pushRecord (65488 + ch) (w.bytes ch)).flt = s2.flt :=
      State.pushRecord_frame (pt := .flt) (by decide) (Part.same_refl _ _)
    have hregs3 : RegsOnly (feedFields (feedOf ch) ++ queueCounts) s2 (s2.pushRecord (65488 + ch) (w.bytes ch)) :=
      (State.pushRecord_regsOnly (RegsOnly.refl _ s2) _ _).mono fun e he => List.mem_append_right _ he
    exact ⟨(State.chan_congr (hflt3.trans hflt2) ch).trans hchan1, (hregs1.trans hregs2).trans hregs3⟩
  · exact ⟨(State.chan_congr hflt2 ch).trans hchan1, hregs1.trans hregs2⟩

/-- A channel's counter of words and its settling mark are none of its consumer's or its queue's fields. -/
theorem filter_field_ne {ch : Nat} (hch : ch < 48) {f : Fld} (hf : f = Reg.FLT_CH_WORD_CNT ∨ f = Reg.FLT_CH_SETTLING) :
    ∀ e ∈ feedFields (feedOf ch) ++ queueCounts, e.1.key e.2 ≠ f.key ch := by
  intro e he
  have hfeed : feedOf ch ≤ 14 := by unfold feedOf; omega
  simp only [feedFields, queueCounts, List.mem_append, List.mem_cons, List.not_mem_nil, or_false] at he
  rcases hf with rfl | rfl <;> rcases he with (rfl | rfl | rfl | rfl | rfl) | (rfl | rfl | rfl | rfl) <;>
    simp only [Fld.key, Reg.FLT_CH_WORD_CNT, Reg.FLT_CH_SETTLING, Reg.ENG_FEED_V, Reg.ENG_FEED_I, Reg.ENG_FEED_P,
      Reg.ENG_FEED_UNALIGNED, Reg.ENG_FEED_LOW, Reg.QMG_DROP_CNT, Reg.QMG_ABORT_CNT, Reg.QMG_MARK_LOST_CNT, Reg.TST_PERTURB_CNT] <;>
    omega

theorem State.judgeSat_regsOnly (s : State) (ch : Nat) (sat : Option Int) :
    RegsOnly [(Reg.FLT_CH_SAT, ch), (Reg.FLT_CH_SAT_CNT, ch)] s (s.judgeSat ch sat) := by
  unfold State.judgeSat
  dsimp only
  split
  · exact RegsOnly.wrBit (RegsOnly.refl _ s) (by simp)
  · exact RegsOnly.raiseIf (RegsOnly.wrBit (RegsOnly.count (RegsOnly.refl _ s) (by simp)) (by simp)) _ _ _ _

theorem State.judgeSat_flt (s : State) (ch : Nat) (sat : Option Int) : (s.judgeSat ch sat).flt = s.flt := by
  unfold State.judgeSat
  dsimp only
  split
  · rfl
  · rw [State.raiseIf_flt]
    rfl

/-- A word sent by a chain is judged for saturation and delivered. -/
theorem State.sendWord_spec (s : State) {ch : Nat} (hch : ch < 48) (sat : Option Int) (w : FltWord) :
    let t := ((s.judgeSat ch sat).deliverWord ch w).draw
    t.chan ch = { s.chan ch with vLast := w.value } ∧
    t.rd Reg.FLT_CH_WORD_CNT ch = (s.rd Reg.FLT_CH_WORD_CNT ch + 1) % 2 ^ 32 ∧
    t.rd Reg.FLT_CH_SETTLING ch = s.rd Reg.FLT_CH_SETTLING ch := by
  obtain ⟨hchan, hregs⟩ := State.deliverWord_spec (s.judgeSat ch sat) ch w
  have hsat := State.judgeSat_regsOnly s ch sat
  refine ⟨hchan.trans (by rw [State.chan_congr (State.judgeSat_flt s ch sat)]), (hregs _ _ (filter_field_ne hch (.inl rfl))).trans ?_,
    (hregs _ _ (filter_field_ne hch (.inr rfl))).trans ?_⟩
  · rw [State.count_rd_same', hsat.field (l := [Reg.FLT_CH_SAT, Reg.FLT_CH_SAT_CNT]) (by decide)]
    rfl
  · rw [State.count_eq, State.wr_rd_other _ _ _ _ _ _ (Fld.key_ne (by decide) ch)]
    exact hsat.field (l := [Reg.FLT_CH_SAT, Reg.FLT_CH_SAT_CNT]) (by decide)

/-- The samples that complete a word of a channel with no cross-fade. -/
theorem State.runCurrent_word {s : State} {ch : Nat} (hch : ch < 48) {samples : List Int} {x : FltInst} {k : Nat} {raw : FltRaw}
    (hinc : (s.chan ch).inc = none)
    (hrun : (s.chain ch).run ch (s.rdBit Reg.FLT_CH_FROZEN ch) samples = (x, k, some raw)) :
    ((s.runCurrent ch samples).chan ch).cur = some x ∧
    ((s.runCurrent ch samples).chan ch).vLast = max (-2147483648) (min 2147483647 (s.wholeFree raw.value)) ∧
    (s.runCurrent ch samples).rd Reg.FLT_CH_WORD_CNT ch = (s.rd Reg.FLT_CH_WORD_CNT ch + 1) % 2 ^ 32 ∧
    (s.runCurrent ch samples).rd Reg.FLT_CH_SETTLING ch = ofBool (decide (x.samples < x.n * x.r)) := by
  obtain ⟨s4, sat, w, ht, hcur, hvalue, hcnt, hsettling⟩ : ∃ (s4 : State) (sat : Option Int) (w : FltWord),
      s.runCurrent ch samples = ((s4.judgeSat ch sat).deliverWord ch w).draw ∧ (s4.chan ch).cur = some x ∧
      w.value = max (-2147483648) (min 2147483647 (s.wholeFree raw.value)) ∧
      s4.rd Reg.FLT_CH_WORD_CNT ch = s.rd Reg.FLT_CH_WORD_CNT ch ∧
      s4.rd Reg.FLT_CH_SETTLING ch = ofBool (decide (x.samples < x.n * x.r)) := by
    unfold State.runCurrent
    dsimp only
    rw [hrun, hinc]
    simp only [Option.isSome_none, Bool.false_eq_true, if_false, Bool.false_and]
    refine ⟨_, _, _, rfl, ?_, rfl, ?_, ?_⟩
    · rw [State.setChan_chan_same]
      exact congrArg FltChan.cur (State.setChan_chan_same s ch _)
    · rw [State.setChan_rd, State.wrInt_eq, State.wr_rd_other _ _ _ _ _ _ (Fld.key_ne (by decide) ch),
        State.wrBit_eq, State.wr_rd_other _ _ _ _ _ _ (Fld.key_ne (by decide) ch)]
      exact State.wr_rd_other _ _ _ _ _ _ (Fld.key_ne (by decide) ch)
    · rw [State.setChan_rd, State.wrInt_eq, State.wr_rd_other _ _ _ _ _ _ (Fld.key_ne (by decide) ch),
        State.wrBit_rd_same]
      exact ofBool_mod_two _
  obtain ⟨hchan, hwords, hsettles⟩ := State.sendWord_spec s4 hch sat w
  rw [ht, hchan]
  exact ⟨hcur, hvalue, hwords.trans (by rw [hcnt]), hsettles.trans hsettling⟩

section
variable {s : State} {dt ch : Nat}

theorem State.unstick_spec (a : State) (ch : Nat) (raw : List Int) : (a.unstick ch raw).flt = a.flt ∧
    (a.unstick ch raw).freeCtr = a.freeCtr ∧ (a.unstick ch raw).inputs ch raw = a.inputs ch raw ∧
    RegsOnly [(Reg.FLT_CH_STUCK, ch)] a (a.unstick ch raw) := by
  unfold State.unstick
  dsimp only
  split
  next h =>
    refine ⟨rfl, rfl, ?_, RegsOnly.wrBit (RegsOnly.refl _ a) (by simp)⟩
    have hfeed : isFeed ch = true := (Bool.and_eq_true_iff.mp h).1
    have hlo : ¬ ch < 20 := by
      unfold isFeed at hfeed
      simp only [Bool.and_eq_true, decide_eq_true_eq] at hfeed
      omega
    unfold State.inputs
    rw [if_neg hlo, if_neg hlo]
  next => exact ⟨rfl, rfl, rfl, RegsOnly.refl _ a⟩

theorem completes_fltOutputWord {samples : List Int} {x : FltInst} {k : Nat} {raw : FltRaw} {b : State} (hrun : s.halted = false)
    (hb : b = (if isFeed ch then s.elapse dt else s.toBoundary dt Config.cyclePos)) (hon : s.chanOn ch = true)
    (hfed : b.chanFed ch = true) (hreset : s.inReset domFlt = false) (hinc : (s.chan ch).inc = none)
    (hword : (s.chain ch).run ch (s.rdBit Reg.FLT_CH_FROZEN ch) (b.inputs ch samples) = (x, k, some raw)) :
    Completes (.fltOutputWord dt ch false samples) s fun t =>
      (t.chan ch).cur = some x ∧ (t.chan ch).vLast = max (-2147483648) (min 2147483647 (s.wholeFree raw.value)) ∧
      t.rd Reg.FLT_CH_WORD_CNT ch = (s.rd Reg.FLT_CH_WORD_CNT ch + 1) % 2 ^ 32 ∧
      t.rd Reg.FLT_CH_SETTLING ch = ofBool (decide (x.samples < x.n * x.r)) := by
  have hregs : b.regs = s.regs := by rw [hb]; split; exacts [rfl, State.toBoundary_regs ..]
  have hflt : b.flt = s.flt := by rw [hb]; split; exacts [rfl, State.toBoundary_flt ..]
  have hfree : b.freeCtr = s.freeCtr := by rw [hb]; split; exacts [rfl, State.toBoundary_freeCtr ..]
  have hrd (f : Fld) (i : Nat) : b.rd f i = s.rd f i := by unfold State.rd; rw [hregs]
  obtain ⟨hfltU, hfreeU, hinputs, hregsU⟩ := State.unstick_spec b ch samples
  have hch : ch < 48 := State.chan_lt hon
  have hkey {f : Fld} (h : Reg.FLT_CH_STUCK.key ch ≠ f.key ch) : (b.unstick ch samples).rd f ch = s.rd f ch :=
    (hregsU f ch (by simpa using h)).trans (hrd f ch)
  have hexec : exec (.fltOutputWord dt ch false samples) s = .next ((b.unstick ch samples).runCurrent ch (b.inputs ch samples)) := by
    show execFltOutputWord dt ch false samples s = _
    unfold execFltOutputWord
    dsimp only
    rw [← hb, hinputs, if_neg]
    · rfl
    · have hhalt : b.halted = false := by unfold State.halted; rw [hrd]; exact hrun
      have hreset' : b.inReset domFlt = false := by unfold State.inReset; rw [hrd]; exact hreset
      rw [hhalt, hfed, hreset', State.chanOn_congr hregs, hon]
      decide
  have hchain : (b.unstick ch samples).chain ch = s.chain ch := by
    unfold State.chain
    rw [State.chan_congr (hfltU.trans hflt), State.bankOf_congr (hfltU.trans hflt),
      hkey (Fld.key_ne (by decide) ch), hkey (Fld.key_ne (by decide) ch),
      hkey (Fld.key_ne (by decide) ch), hkey (Fld.key_ne (by decide) ch)]
  have hfrozen : (b.unstick ch samples).rdBit Reg.FLT_CH_FROZEN ch = s.rdBit Reg.FLT_CH_FROZEN ch := by
    unfold State.rdBit
    rw [hkey (Fld.key_ne (by decide) ch)]
  obtain ⟨hcur, hlast, hcnt, hsettling⟩ := State.runCurrent_word (s := b.unstick ch samples) hch (samples := b.inputs ch samples)
    (by rw [State.chan_congr (hfltU.trans hflt)]; exact hinc) (by rw [hchain, hfrozen]; exact hword)
  refine ⟨_, hexec, hcur, hlast.trans ?_, hcnt.trans ?_, hsettling⟩
  · unfold State.wholeFree
    rw [hfreeU, hfree]
  · rw [hkey (Fld.key_ne (by decide) ch)]

/-! ### Stuck inputs (R118) -/

theorem completes_inputStuck {level : Nat} (hfeed : isFeed ch = true) (hon : s.chanOn ch = true)
    (hstuck : s.rdBit Reg.FLT_CH_STUCK ch = false) :
    Completes (.inputStuck dt ch level) s fun t =>
      t.rd Reg.FLT_CH_STUCK ch = 1 ∧ Raised t Ev.INPUT_STUCK (srcChannel ch) [(1, ch), (1, level)] ∧
      RegsOnly [(Reg.FLT_CH_STUCK, ch)] s t := by
  let b := s.elapse dt
  let c := b.setChan ch { b.chan ch with stuckAt := level % 2, stuckFrom := b.addr }
  have hexec : exec (.inputStuck dt ch level) s =
      .next ((c.wrBit Reg.FLT_CH_STUCK ch true).raise Ev.INPUT_STUCK (srcChannel ch) [(1, ch), (1, level)]) := by
    show execInputStuck dt ch level s = _
    have hcond : (isFeed ch && b.chanOn ch && !b.rdBit Reg.FLT_CH_STUCK ch) = true := by
      rw [hfeed, State.chanOn_congr (s := s) (t := b) rfl, hon, State.elapse_rdBit, hstuck]
      rfl
    exact congrArg Host.Outcome.next (if_pos hcond)
  refine ⟨_, hexec, ?_, State.raise_raised .., RegsOnly.raise (RegsOnly.wrBit (RegsOnly.setChan (RegsOnly.of_elapse _ s dt) _ _) (by simp)) _ _ _⟩
  rw [State.raise_rd, State.wrBit_rd_same]
  rfl

/-! ### Cross-fades (R113, R123, R124, R128) -/

theorem State.checkBank_spec (a : State) (ch b : Nat) : (a.checkBank ch b).flt = a.flt ∧ (a.checkBank ch b).addr = a.addr ∧
    (a.checkBank ch b).rd (completeFld b) ch = 1 ∧ (a.checkBank ch b).rd (asymFld b) ch = ofBool (a.bankOf ch b).asym ∧
    ((a.bankOf ch b).asym = true → Raised (a.checkBank ch b) Ev.COEF_ASYM (srcChannel ch) [(1, ch), (1, b)]) ∧
    RegsOnly [(completeFld b, ch), (asymFld b, ch)] a (a.checkBank ch b) := by
  let w := (a.wrBit (completeFld b) ch true).wrBit (asymFld b) ch (a.bankOf ch b).asym
  have hregs : RegsOnly [(completeFld b, ch), (asymFld b, ch)] a w :=
    RegsOnly.wrBit (RegsOnly.wrBit (RegsOnly.refl _ a) (by simp)) (by simp)
  have hcomplete : w.rd (completeFld b) ch = 1 := by
    show ((a.wrBit (completeFld b) ch true).wrBit (asymFld b) ch _).rd _ _ = _
    rw [State.wrBit_eq _ (asymFld b), State.wr_rd_other, State.wrBit_rd_same]
    · unfold completeFld
      split <;> rfl
    · unfold completeFld asymFld
      split <;> simp [Fld.key, Reg.FLT_CH_COMPLETE_A, Reg.FLT_CH_COMPLETE_B, Reg.FLT_CH_ASYM_A, Reg.FLT_CH_ASYM_B]
  have hasym : w.rd (asymFld b) ch = ofBool (a.bankOf ch b).asym := by
    rw [State.wrBit_rd_same]
    unfold asymFld
    split <;> exact ofBool_mod_two _
  show (if (a.bankOf ch b).asym then w.raiseC Ev.COEF_ASYM (srcChannel ch) [(1, ch), (1, b)] else w).flt = _ ∧
    (if (a.bankOf ch b).asym then w.raiseC Ev.COEF_ASYM (srcChannel ch) [(1, ch), (1, b)] else w).addr = _ ∧
    (if (a.bankOf ch b).asym then w.raiseC Ev.COEF_ASYM (srcChannel ch) [(1, ch), (1, b)] else w).rd _ _ = _ ∧
    (if (a.bankOf ch b).asym then w.raiseC Ev.COEF_ASYM (srcChannel ch) [(1, ch), (1, b)] else w).rd _ _ = _ ∧
    (_ → Raised (if (a.bankOf ch b).asym then w.raiseC Ev.COEF_ASYM (srcChannel ch) [(1, ch), (1, b)] else w) _ _ _) ∧
    RegsOnly _ a (if (a.bankOf ch b).asym then w.raiseC Ev.COEF_ASYM (srcChannel ch) [(1, ch), (1, b)] else w)
  split
  next h => exact ⟨rfl, rfl, hcomplete, hasym, fun _ => State.raiseC_raised .., hregs⟩
  next h => exact ⟨rfl, rfl, hcomplete, hasym, fun k => absurd k h, hregs⟩

/-- N, R and k of a configuration fit the fields that show them (Table 04-2, R116). -/
theorem cfgShape_fits {p : FltCfg} (h : cfgBad p = false) (feed : Bool) :
    p.preset < 2 ^ 3 ∧ (p.preset = 4 → p.n < 2 ^ 3 ∧ p.r < 2 ^ 13 ∧ p.k < 2 ^ 5) ∧
    (presetNR p.preset feed).1 < 2 ^ 3 ∧ (presetNR p.preset feed).2 < 2 ^ 13 := by
  unfold cfgBad at h
  simp only [Bool.or_eq_false_iff, decide_eq_false_iff_not, Bool.and_eq_false_iff, beq_eq_false_iff_ne, bne_eq_false_iff_eq] at h
  obtain ⟨hpreset, hcustom⟩ := h
  refine ⟨by omega, fun h4 => ?_, ?_⟩
  · have := hcustom.resolve_left (fun k => k h4)
    omega
  · unfold presetNR
    split <;> decide

/-- The fields that show a channel's chain, at the start of a cross-fade. -/
def State.showShape (a : State) (ch preset : Nat) (nr : Nat × Nat) (k b : Nat) : State :=
  (((((((a.wr Reg.FLT_CH_PRESET ch preset).wr Reg.FLT_CH_N ch nr.1).wr Reg.FLT_CH_R ch nr.2).wr Reg.FLT_CH_DC_K ch k).wr
    Reg.FLT_CH_BANK ch b).wrBit Reg.FLT_CH_FADING ch true).wr Reg.FLT_CH_GDELAY ch (gdelayPos nr.1 nr.2 (isFeed ch))).wrBit
    Reg.FLT_CH_SETTLING ch true

theorem State.showShape_spec (a : State) (ch : Nat) {preset : Nat} {nr : Nat × Nat} {k b : Nat} (hpreset : preset < 2 ^ 3)
    (hn : nr.1 < 2 ^ 3) (hr : nr.2 < 2 ^ 13) (hk : k < 2 ^ 5) (hb : b < 2 ^ 1) :
    (a.showShape ch preset nr k b).rd Reg.FLT_CH_PRESET ch = preset ∧ (a.showShape ch preset nr k b).rd Reg.FLT_CH_N ch = nr.1 ∧
    (a.showShape ch preset nr k b).rd Reg.FLT_CH_R ch = nr.2 ∧ (a.showShape ch preset nr k b).rd Reg.FLT_CH_DC_K ch = k ∧
    (a.showShape ch preset nr k b).rd Reg.FLT_CH_BANK ch = b ∧ (a.showShape ch preset nr k b).rd Reg.FLT_CH_FADING ch = 1 ∧
    (a.showShape ch preset nr k b).rd Reg.FLT_CH_SETTLING ch = 1 := by
  unfold State.showShape
  simp (disch := decide) only [State.wrBit_eq, State.wr_rd_field, State.wr_rd_same]
  exact ⟨Nat.mod_eq_of_lt hpreset, Nat.mod_eq_of_lt hn, Nat.mod_eq_of_lt hr, Nat.mod_eq_of_lt hk, Nat.mod_eq_of_lt hb, rfl, rfl⟩

theorem State.showShape_flt (a : State) (ch preset : Nat) (nr : Nat × Nat) (k b : Nat) : (a.showShape ch preset nr k b).flt = a.flt ∧
    (a.showShape ch preset nr k b).addr = a.addr := by
  unfold State.showShape
  simp only [State.wrBit_eq, State.wr_flt, State.wr_addr, and_self]

theorem State.setBank_cur (a : State) (ch b : Nat) (x : FltBank) : ((a.setBank ch b x).chan ch).cur = (a.chan ch).cur := by
  unfold State.setBank
  dsimp only
  rw [State.setChan_chan_same]
  split <;> rfl

/-- N, R and k of the chain that a configuration starts. -/
def fltShape (p : FltCfg) (feed : Bool) : Nat × Nat := if p.preset = 4 then (p.n, p.r) else presetNR p.preset feed
def fltDcK (p : FltCfg) : Nat := if p.preset = 4 then p.k else 0

/-- A cross-fade opens: the chain in force goes out, and the configured one comes in. -/
def State.openFade (a : State) (ch : Nat) (p : FltCfg) : State :=
  let b := 1 - a.rd Reg.FLT_CH_BANK ch
  let s2 := a.setChan ch { a.chan ch with cur := some (a.chain ch), cfg := none, fadeK := 0 }
  let s3 := if p.keep || p.preset = 4 then s2 else (s2.setBank ch b (.stock p.preset (stockKind ch))).checkBank ch b
  s3.setChan ch { s3.chan ch with
    inc := some { n := (fltShape p (isFeed ch)).1, r := (fltShape p (isFeed ch)).2, k := (fltDcK p), resetAt := s3.addr, bank := s3.bankOf ch b } }

theorem State.openFade_spec (a : State) (ch : Nat) (p : FltCfg) : (a.openFade ch p).addr = a.addr ∧
    ((a.openFade ch p).chan ch).cur = some (a.chain ch) ∧ ∃ x, ((a.openFade ch p).chan ch).inc = some x ∧ x.samples = 0 := by
  let b := 1 - a.rd Reg.FLT_CH_BANK ch
  let s2 := a.setChan ch { a.chan ch with cur := some (a.chain ch), cfg := none, fadeK := 0 }
  have hcur2 : (s2.chan ch).cur = some (a.chain ch) := congrArg FltChan.cur (State.setChan_chan_same a ch _)
  obtain ⟨hflt, haddr, -⟩ := State.checkBank_spec (s2.setBank ch b (.stock p.preset (stockKind ch))) ch b
  unfold State.openFade
  extract_lets _ _ s3
  have h3 : s3.addr = a.addr ∧ (s3.chan ch).cur = some (a.chain ch) := by
    show State.addr (if p.keep || p.preset = 4 then s2 else _) = _ ∧ (State.chan (if p.keep || p.preset = 4 then s2 else _) ch).cur = _
    split
    · exact ⟨rfl, hcur2⟩
    · exact ⟨haddr, by rw [State.chan_congr hflt, State.setBank_cur, hcur2]⟩
  rw [State.setChan_chan_same, State.setChan_addr]
  exact ⟨h3.1, h3.2, _, rfl, rfl⟩

theorem exec_xfadeStart_running {p : FltCfg} {h : HostRef} {due : Nat} (hrun : s.halted = false)
    (hcfg : (s.chan ch).cfg = some (p, h, due)) :
    exec (.xfadeStart dt ch) s = .next (((((s.elapse dt).waitAddr due).openFade ch p).showShape ch p.preset
      (fltShape p (isFeed ch)) (fltDcK p) (1 - ((s.elapse dt).waitAddr due).rd Reg.FLT_CH_BANK ch)).done h Op.FLT_CONFIG) := by
  show execXfadeStart dt ch s = _
  have hcfg' : ((s.elapse dt).chan ch).cfg = some (p, h, due) := hcfg
  unfold execXfadeStart
  dsimp only
  rw [hcfg']
  dsimp only
  rw [State.whenAddr_running (by exact hrun)]
  rfl

theorem completes_xfadeStart {p : FltCfg} {h : HostRef} {due : Nat} (hrun : s.halted = false)
    (hcfg : (s.chan ch).cfg = some (p, h, due)) (hgood : cfgBad p = false) :
    Completes (.xfadeStart dt ch) s fun t =>
      t.addr = max (s.addr + dt) due ∧ t.rd Reg.FLT_CH_PRESET ch = p.preset ∧ t.rd Reg.FLT_CH_BANK ch = 1 - s.rd Reg.FLT_CH_BANK ch ∧
      t.rd Reg.FLT_CH_FADING ch = 1 ∧ t.rd Reg.FLT_CH_SETTLING ch = 1 ∧
      (p.preset = 4 → t.rd Reg.FLT_CH_N ch = p.n ∧ t.rd Reg.FLT_CH_R ch = p.r ∧ t.rd Reg.FLT_CH_DC_K ch = p.k) ∧
      (p.preset ≠ 4 → t.rd Reg.FLT_CH_N ch = (presetNR p.preset (isFeed ch)).1 ∧
        t.rd Reg.FLT_CH_R ch = (presetNR p.preset (isFeed ch)).2 ∧ t.rd Reg.FLT_CH_DC_K ch = 0) ∧
      (t.chan ch).cur = some (s.chain ch) ∧ (∃ x, (t.chan ch).inc = some x ∧ x.samples = 0) ∧
      Answered t h Op.FLT_CONFIG 0 0 [] := by
  refine ⟨_, exec_xfadeStart_running hrun hcfg, ?_⟩
  obtain ⟨a, ha⟩ : ∃ a, a = (s.elapse dt).waitAddr due := ⟨_, rfl⟩
  have hbank : 1 - a.rd Reg.FLT_CH_BANK ch = 1 - s.rd Reg.FLT_CH_BANK ch := by
    rw [ha, State.waitAddr_rd, State.elapse_rd]
  have hchain : a.chain ch = s.chain ch := ha ▸ State.chain_congr (State.waitAddr_flt (s.elapse dt) due) (State.waitAddr_regs (s.elapse dt) due) ch
  obtain ⟨hpreset, hcustom, hn, hr⟩ := cfgShape_fits hgood (isFeed ch)
  have hshape : (fltShape p (isFeed ch)).1 < 2 ^ 3 ∧ (fltShape p (isFeed ch)).2 < 2 ^ 13 ∧ (fltDcK p) < 2 ^ 5 := by
    unfold fltShape fltDcK
    split
    next h4 => exact hcustom h4
    next => exact ⟨hn, hr, by decide⟩
  obtain ⟨haddr, hcur, hinc⟩ := State.openFade_spec a ch p
  obtain ⟨hflt, haddr'⟩ := State.showShape_flt (a.openFade ch p) ch p.preset (fltShape p (isFeed ch)) (fltDcK p)
    (1 - a.rd Reg.FLT_CH_BANK ch)
  obtain ⟨hP, hN, hR, hK, hB, hF, hS⟩ := State.showShape_spec (a.openFade ch p) ch hpreset hshape.1 hshape.2.1 hshape.2.2
    (b := 1 - a.rd Reg.FLT_CH_BANK ch) (by omega)
  rw [← ha]
  simp only [State.done_addr, State.done_rd, State.chan_congr (State.done_flt _ h Op.FLT_CONFIG), State.chan_congr hflt]
  refine ⟨haddr'.trans (haddr.trans (ha ▸ State.elapse_waitAddr_addr hrun due)), hP, hB.trans hbank, hF, hS,
    fun h4 => ?_, fun h4 => ?_, hcur.trans (by rw [hchain]), hinc, State.done_answered ..⟩
  · have hp : fltShape p (isFeed ch) = (p.n, p.r) := if_pos h4
    have hk : fltDcK p = p.k := if_pos h4
    exact ⟨hN.trans (by rw [hp]), hR.trans (by rw [hp]), hK.trans hk⟩
  · have hp : fltShape p (isFeed ch) = presetNR p.preset (isFeed ch) := if_neg h4
    have hk : fltDcK p = 0 := if_neg h4
    exact ⟨hN.trans (by rw [hp]), hR.trans (by rw [hp]), hK.trans hk⟩

theorem State.endFade_spec (a : State) (ch : Nat) (x : FltInst) : (a.endFade ch x).addr = a.addr ∧
    (a.endFade ch x).chan ch = { a.chan ch with cur := some x, inc := none, fadeK := 0, vOld := (a.chan ch).vNew } ∧
    (∀ n, n ≠ ch → (a.endFade ch x).chan n = a.chan n) ∧ (a.endFade ch x).rd Reg.FLT_CH_FADING ch = 0 ∧
    Raised (a.endFade ch x) Ev.XFADE_DONE (srcChannel ch) [(1, ch), (1, a.rd Reg.FLT_CH_PRESET ch)] ∧
    RegsOnly [(Reg.FLT_CH_FADING, ch)] a (a.endFade ch x) := by
  let c : FltChan := { a.chan ch with cur := some x, inc := none, fadeK := 0, vOld := (a.chan ch).vNew }
  have hpreset : ((a.setChan ch c).wrBit Reg.FLT_CH_FADING ch false).rd Reg.FLT_CH_PRESET ch = a.rd Reg.FLT_CH_PRESET ch :=
    State.wr_rd_field (by decide) (a.setChan ch c) ch _
  have hend : a.endFade ch x = ((a.setChan ch c).wrBit Reg.FLT_CH_FADING ch false).raise Ev.XFADE_DONE (srcChannel ch)
      [(1, ch), (1, a.rd Reg.FLT_CH_PRESET ch)] := by
    rw [← hpreset]
    rfl
  rw [hend]
  refine ⟨rfl, State.setChan_chan_same a ch c, fun n hn => (State.setChan_chan a ch c n).trans (if_neg hn), ?_, State.raise_raised ..,
    RegsOnly.raise (RegsOnly.wrBit (RegsOnly.setChan (RegsOnly.refl _ a) _ _) (by simp)) _ _ _⟩
  rw [State.raise_rd, State.wrBit_rd_same]
  rfl

theorem completes_xfadeDone {x : FltInst} (hinc : (s.chan ch).inc = some x) (hlen : 0 < s.rd Reg.FLT_CH_XFADE_LEN ch)
    (hdone : s.rd Reg.FLT_CH_XFADE_LEN ch ≤ (s.chan ch).fadeK) :
    Completes (.xfadeDone dt ch) s fun t =>
      (t.chan ch).cur = some x ∧ (t.chan ch).inc = none ∧ t.rd Reg.FLT_CH_FADING ch = 0 ∧
      Raised t Ev.XFADE_DONE (srcChannel ch) [(1, ch), (1, s.rd Reg.FLT_CH_PRESET ch)] ∧
      RegsOnly [(Reg.FLT_CH_FADING, ch)] s t := by
  have hexec : exec (.xfadeDone dt ch) s = .next ((s.elapse dt).endFade ch x) := by
    show execXfadeDone dt ch s = _
    have hinc' : ((s.elapse dt).chan ch).inc = some x := hinc
    unfold execXfadeDone
    dsimp only
    rw [hinc']
    dsimp only
    rw [if_pos]
    rw [State.elapse_rd, decide_eq_true (show _ ≤ ((s.elapse dt).chan ch).fadeK from hdone), decide_eq_true hlen]
    rfl
  obtain ⟨-, hchan, -, hfading, hraised, hregs⟩ := State.endFade_spec (s.elapse dt) ch x
  exact ⟨_, hexec, by rw [hchan], by rw [hchan], hfading, hraised, hregs⟩

/-! ### Swaps (R120, R121) -/

/-- A swap puts its bank in force, and leaves the rest of the chain. -/
theorem State.applySwap_spec (a : State) (ch : Nat) {w : Nat × HostRef} (hw : w.1 < 2) :
    (a.applySwap ch w).chan ch = { a.chan ch with cur := some { a.chain ch with bank := a.bankOf ch w.1 } } ∧
    (a.applySwap ch w).rd Reg.FLT_CH_BANK ch = w.1 ∧
    Raised (a.applySwap ch w) Ev.SWAP_DONE (srcChannel ch) [(1, ch), (1, w.1), (1, 0)] ∧
    Answered (a.applySwap ch w) w.2 Op.FLT_SWAP 0 0 [] ∧ RegsOnly [(Reg.FLT_CH_BANK, ch)] a (a.applySwap ch w) := by
  refine ⟨State.setChan_chan_same a ch _, ?_, Raised.done (State.raise_raised ..) _ _, State.done_answered ..,
    RegsOnly.done (RegsOnly.raise (RegsOnly.wr (RegsOnly.setChan (RegsOnly.refl _ a) _ _) _ _ _ (by simp)) _ _ _) _ _⟩
  unfold State.applySwap
  dsimp only
  rw [State.done_rd, State.raise_rd, State.wr_rd_same]
  exact Nat.mod_eq_of_lt hw

/-- Swaps that wait are taken off the list. -/
def State.takeSwaps (a : State) (ch : Nat) : State := a.setChan ch { a.chan ch with swapTo := [] }

theorem State.takeSwaps_chan (a : State) (ch : Nat) : (a.takeSwaps ch).chan ch = { a.chan ch with swapTo := [] } :=
  State.setChan_chan_same a ch _

theorem State.takeSwaps_bankOf (a : State) (ch b : Nat) : (a.takeSwaps ch).bankOf ch b = a.bankOf ch b := by
  unfold State.bankOf
  rw [State.takeSwaps_chan]

theorem State.takeSwaps_chain (a : State) (ch : Nat) : (a.takeSwaps ch).chain ch = a.chain ch := by
  unfold State.chain
  rw [State.takeSwaps_bankOf, State.takeSwaps_chan]
  rfl

theorem exec_swapDone_settled {l : List (Nat × HostRef)} (hfading : s.rdBit Reg.FLT_CH_FADING ch = false)
    (hswaps : (s.chan ch).swapTo = l) :
    let s3 := l.foldl (fun a w => a.applySwap ch w) ((s.elapse dt).takeSwaps ch)
    exec (.swapDone dt ch) s = .next (if (s3.chan ch).cfg.isSome then s3 else s3.applyDeferred ch) := by
  subst hswaps
  exact congrArg Host.Outcome.next (if_neg (by rw [State.elapse_rdBit, hfading]; decide))

theorem completes_swapDone_swap {b : Nat} {h : HostRef} (hb : b < 2) (hfading : s.rdBit Reg.FLT_CH_FADING ch = false)
    (hdefer : (s.chan ch).defer = none) (hswaps : (s.chan ch).swapTo = [(b, h)]) :
    Completes (.swapDone dt ch) s fun t =>
      t.rd Reg.FLT_CH_BANK ch = b ∧ (t.chan ch).swapTo = [] ∧
      (∃ x, (t.chan ch).cur = some x ∧ x.bank = s.bankOf ch b ∧ x.integ = (s.chain ch).integ ∧ x.comb = (s.chain ch).comb ∧
        x.fir = (s.chain ch).fir) ∧
      Raised t Ev.SWAP_DONE (srcChannel ch) [(1, ch), (1, b), (1, 0)] ∧ Answered t h Op.FLT_SWAP 0 0 [] ∧
      RegsOnly [(Reg.FLT_CH_BANK, ch)] s t := by
  let a := (s.elapse dt).takeSwaps ch
  have hchanA : a.chan ch = { s.chan ch with swapTo := [] } := State.takeSwaps_chan (s.elapse dt) ch
  have hchainA : a.chain ch = s.chain ch := State.takeSwaps_chain (s.elapse dt) ch
  have hbankA : a.bankOf ch b = s.bankOf ch b := State.takeSwaps_bankOf (s.elapse dt) ch b
  have hregsA : RegsOnly [(Reg.FLT_CH_BANK, ch)] s a := RegsOnly.setChan (RegsOnly.of_elapse _ s dt) _ _
  obtain ⟨hchan, hbank, hraised, hanswered, hregs⟩ := State.applySwap_spec a ch (w := (b, h)) hb
  have hexec : exec (.swapDone dt ch) s = .next (a.applySwap ch (b, h)) := by
    refine (exec_swapDone_settled hfading hswaps).trans (congrArg Host.Outcome.next ?_)
    show (if ((a.applySwap ch (b, h)).chan ch).cfg.isSome then a.applySwap ch (b, h) else (a.applySwap ch (b, h)).applyDeferred ch) = _
    split
    · rfl
    · unfold State.applyDeferred
      rw [hchan, hchanA, hdefer]
  refine ⟨_, hexec, hbank, ?_, ⟨{ s.chain ch with bank := s.bankOf ch b }, ?_, rfl, rfl, rfl, rfl⟩, hraised, hanswered, hregsA.trans hregs⟩
  · rw [hchan, hchanA]
  · rw [hchan, hchainA, hbankA]

theorem completeFld_ne_deferred (b ch : Nat) : (completeFld b).key ch ≠ Reg.FLT_CH_DEFERRED.key ch := by
  unfold completeFld
  split <;> exact Fld.key_ne (by decide) ch

theorem completes_swapDone_deferred {b : Nat} {h : HostRef} (hb : b < 2) (hfading : s.rdBit Reg.FLT_CH_FADING ch = false)
    (hcfg : (s.chan ch).cfg = none) (hswaps : (s.chan ch).swapTo = []) (hdefer : (s.chan ch).defer = some (b, h)) :
    Completes (.swapDone dt ch) s fun t =>
      t.rd Reg.FLT_CH_DEFERRED ch = 0 ∧ (t.chan ch).defer = none ∧
      (if s.rdBit (completeFld b) ch = true then
        t.rd Reg.FLT_CH_BANK ch = b ∧ Raised t Ev.SWAP_DONE (srcChannel ch) [(1, ch), (1, b), (1, 0)] ∧ Answered t h Op.FLT_SWAP 0 0 []
      else t.rd Reg.FLT_CH_BANK ch = s.rd Reg.FLT_CH_BANK ch ∧ Raised t Ev.SWAP_DONE (srcChannel ch) [(1, ch), (1, b), (1, 4)] ∧
        Answered t h Op.FLT_SWAP 2 4 []) ∧
      RegsOnly [(Reg.FLT_CH_DEFERRED, ch), (Reg.FLT_CH_BANK, ch)] s t := by
  let a := (s.elapse dt).takeSwaps ch
  have hchanA : a.chan ch = { s.chan ch with swapTo := [] } := State.takeSwaps_chan (s.elapse dt) ch
  let d := (a.setChan ch { a.chan ch with defer := none }).wrBit Reg.FLT_CH_DEFERRED ch false
  have hchanD : (d.chan ch).defer = none := congrArg FltChan.defer (State.setChan_chan_same a ch _)
  have hdeferred : d.rd Reg.FLT_CH_DEFERRED ch = 0 := State.wrBit_rd_same ..
  have hregsD : RegsOnly [(Reg.FLT_CH_DEFERRED, ch)] s d :=
    RegsOnly.wrBit (RegsOnly.setChan (RegsOnly.setChan (RegsOnly.of_elapse _ s dt) _ _) _ _) (by simp)
  have hcomplete : d.rdBit (completeFld b) ch = s.rdBit (completeFld b) ch := by
    unfold State.rdBit
    rw [hregsD _ _ (by simpa using (completeFld_ne_deferred b ch).symm)]
  have hexec : exec (.swapDone dt ch) s = .next (if s.rdBit (completeFld b) ch then d.applySwap ch (b, h)
      else (d.raise Ev.SWAP_DONE (srcChannel ch) [(1, ch), (1, b), (1, 4)]).refuse h Op.FLT_SWAP 4) := by
    refine (exec_swapDone_settled hfading hswaps).trans (congrArg Host.Outcome.next ?_)
    show (if (a.chan ch).cfg.isSome then a else a.applyDeferred ch) = _
    rw [if_neg (by rw [hchanA, hcfg]; decide), ← hcomplete]
    unfold State.applyDeferred
    rw [show (a.chan ch).defer = some (b, h) by rw [hchanA, hdefer]]
  have hmono : ∀ e ∈ [(Reg.FLT_CH_DEFERRED, ch)], e ∈ [(Reg.FLT_CH_DEFERRED, ch), (Reg.FLT_CH_BANK, ch)] := by simp
  refine ⟨_, hexec, ?_⟩
  split
  · obtain ⟨hchan, hbank, hraised, hanswered, hregs⟩ := State.applySwap_spec d ch (w := (b, h)) hb
    exact ⟨(hregs.field (l := [Reg.FLT_CH_BANK]) (by decide)).trans hdeferred, by rw [hchan]; exact hchanD, ⟨hbank, hraised, hanswered⟩,
      (hregsD.mono hmono).trans (hregs.mono (by simp))⟩
  · exact ⟨hdeferred, hchanD, ⟨hregsD.field (l := [Reg.FLT_CH_DEFERRED]) (by decide), Raised.complete (State.raise_raised ..) _ _ _ _ _,
      State.refuse_answered ..⟩, RegsOnly.complete (RegsOnly.raise (hregsD.mono hmono) _ _ _) _ _ _ _ _⟩

/-- A swap is deferred where none was before. -/
theorem State.deferSwap_spec (a : State) (ch : Nat) {w : Nat × HostRef} (hw : w.1 < 2) (hnone : (a.chan ch).defer = none) :
    (a.deferSwap ch w).chan ch = { a.chan ch with defer := some w } ∧ (a.deferSwap ch w).rd Reg.FLT_CH_DEFERRED ch = 1 ∧
    (a.deferSwap ch w).rd Reg.FLT_CH_DEF_BANK ch = w.1 ∧
    Raised (a.deferSwap ch w) Ev.SWAP_DEFERRED (srcChannel ch) [(1, ch), (1, w.1)] ∧
    RegsOnly [(Reg.FLT_CH_DEFERRED, ch), (Reg.FLT_CH_DEF_BANK, ch)] a (a.deferSwap ch w) := by
  unfold State.deferSwap
  dsimp only
  rw [hnone]
  refine ⟨State.setChan_chan_same a ch _, ?_, ?_, State.raiseC_raised ..,
    RegsOnly.raiseC (RegsOnly.wr (RegsOnly.wrBit (RegsOnly.setChan (RegsOnly.refl _ a) _ _) (by simp)) _ _ _ (by simp)) _ _ _⟩
  · rw [State.raiseC_rd, State.wr_rd_field (by decide), State.wrBit_rd_same]
    rfl
  · rw [State.raiseC_rd, State.wr_rd_same]
    exact Nat.mod_eq_of_lt hw

theorem completes_swapDone_fading {b : Nat} {h : HostRef} (hb : b < 2) (hfading : s.rdBit Reg.FLT_CH_FADING ch = true)
    (hdefer : (s.chan ch).defer = none) (hswaps : (s.chan ch).swapTo = [(b, h)]) :
    Completes (.swapDone dt ch) s fun t =>
      (t.chan ch).defer = some (b, h) ∧ (t.chan ch).swapTo = [] ∧ t.rd Reg.FLT_CH_DEFERRED ch = 1 ∧ t.rd Reg.FLT_CH_DEF_BANK ch = b ∧
      Raised t Ev.SWAP_DEFERRED (srcChannel ch) [(1, ch), (1, b)] ∧
      RegsOnly [(Reg.FLT_CH_DEFERRED, ch), (Reg.FLT_CH_DEF_BANK, ch)] s t := by
  let a := (s.elapse dt).takeSwaps ch
  have hchanA : a.chan ch = { s.chan ch with swapTo := [] } := State.takeSwaps_chan (s.elapse dt) ch
  have hregsA : RegsOnly [(Reg.FLT_CH_DEFERRED, ch), (Reg.FLT_CH_DEF_BANK, ch)] s a := RegsOnly.setChan (RegsOnly.of_elapse _ s dt) _ _
  have hexec : exec (.swapDone dt ch) s = .next (a.deferSwap ch (b, h)) := by
    have hswaps' : ((s.elapse dt).chan ch).swapTo = [(b, h)] := hswaps
    show execSwapDone dt ch s = _
    unfold execSwapDone
    dsimp only
    rw [State.elapse_rdBit, if_pos hfading, hswaps']
    rfl
  obtain ⟨hchan, hdeferred, hbank, hraised, hregs⟩ := State.deferSwap_spec a ch (w := (b, h)) hb (by rw [hchanA]; exact hdefer)
  exact ⟨_, hexec, by rw [hchan], by rw [hchan, hchanA], hdeferred, hbank, hraised, hregsA.trans hregs⟩

/-! ### Synchronising resets (R126) -/

/-- A cross-fade in progress ends. -/
def State.dropFade (a : State) (ch : Nat) : State :=
  match (a.chan ch).inc with
  | none => a
  | some x => a.endFade ch x

/-- A channel's chain starts from nothing. -/
def State.restart (a : State) (ch : Nat) : State :=
  let x := (a.chain ch).cleared (a.rdBit Reg.FLT_CH_FROZEN ch)
  ((a.setChan ch { a.chan ch with cur := some { x with resetAt := a.addr } }).wrBit Reg.FLT_CH_SETTLING ch
    true).wrInt Reg.FLT_CH_DC_EST ch (signed 32 (a.figure 32 true (x.est * 256)))

theorem State.dropFade_spec (a : State) (ch : Nat) : (a.dropFade ch).addr = a.addr ∧ ((a.dropFade ch).chan ch).inc = none ∧
    (∀ n, n ≠ ch → (a.dropFade ch).chan n = a.chan n) ∧ (a.dropFade ch).flt.resets = a.flt.resets ∧
    RegsOnly [(Reg.FLT_CH_FADING, ch)] a (a.dropFade ch) := by
  unfold State.dropFade
  split
  next h => exact ⟨rfl, h, fun _ _ => rfl, rfl, RegsOnly.refl _ a⟩
  next x _ =>
    obtain ⟨haddr, hchan, hother, -, -, hregs⟩ := State.endFade_spec a ch x
    exact ⟨haddr, by rw [hchan], hother, rfl, hregs⟩

/-- A channel reset starts over at this address, and its cross-fade ends. -/
theorem State.resetChan_spec (a : State) (ch : Nat) : (a.resetChan ch).addr = a.addr ∧
    (∃ x, ((a.resetChan ch).chan ch).cur = some x ∧ x.integ = [] ∧ x.comb = [] ∧ x.fir = [] ∧ x.samples = 0 ∧ x.resetAt = a.addr) ∧
    ((a.resetChan ch).chan ch).inc = none ∧ (a.resetChan ch).rd Reg.FLT_CH_SETTLING ch = 1 ∧
    (∀ n, n ≠ ch → (a.resetChan ch).chan n = a.chan n) ∧ (a.resetChan ch).flt.resets = a.flt.resets ∧
    RegsOnly [(Reg.FLT_CH_FADING, ch), (Reg.FLT_CH_SETTLING, ch), (Reg.FLT_CH_DC_EST, ch)] a (a.resetChan ch) := by
  let b := a.dropFade ch
  obtain ⟨haddr, hinc, hother, hresets, hregs⟩ := State.dropFade_spec a ch
  show ((b.restart ch).addr = _ ∧ (∃ x, ((b.restart ch).chan ch).cur = some x ∧ _) ∧ ((b.restart ch).chan ch).inc = _ ∧
    (b.restart ch).rd _ _ = _ ∧ (∀ n, n ≠ ch → (b.restart ch).chan n = _) ∧ (b.restart ch).flt.resets = _ ∧ RegsOnly _ a (b.restart ch))
  refine ⟨haddr, ⟨_, congrArg FltChan.cur (State.setChan_chan_same b ch _), rfl, rfl, rfl, rfl, haddr⟩,
    (congrArg FltChan.inc (State.setChan_chan_same b ch _)).trans hinc, ?_,
    fun n hn => ((State.setChan_chan b ch _ n).trans (if_neg hn)).trans (hother n hn), hresets, ?_⟩
  · unfold State.restart
    rw [State.wrInt_eq, State.wr_rd_field (by decide), State.wrBit_rd_same]
    rfl
  · refine (hregs.mono (by simp)).trans (RegsOnly.wrInt (RegsOnly.wrBit (RegsOnly.setChan (RegsOnly.refl _ b) _ _) ?_) ?_) <;> simp

/-- One channel of a scheduled reset. -/
def State.resetNamed (mask : Nat) (a : State) (n : Nat) : State := if bitOf mask n && a.chanOn n then a.resetChan n else a

theorem State.resetNamed_other (mask : Nat) (a : State) {n : Nat} (hn : n < 48) : (a.resetNamed mask n).addr = a.addr ∧
    (a.resetNamed mask n).flt.resets = a.flt.resets ∧ (∀ m, (a.resetNamed mask n).chanOn m = a.chanOn m) ∧
    ∀ m, m ≠ n ∨ bitOf mask m = false → (a.resetNamed mask n).chan m = a.chan m ∧
      (m < 48 → m ≠ n → (a.resetNamed mask n).rd Reg.FLT_CH_SETTLING m = a.rd Reg.FLT_CH_SETTLING m) := by
  unfold State.resetNamed
  split
  next h =>
    obtain ⟨haddr, -, -, -, hother, hresets, hregs⟩ := State.resetChan_spec a n
    have hkeep (f : Fld) (i : Nat) (hf : ∀ g ∈ [Reg.FLT_CH_FADING, Reg.FLT_CH_SETTLING, Reg.FLT_CH_DC_EST], g.key n ≠ f.key i) :
        (a.resetChan n).rd f i = a.rd f i := by
      refine hregs f i fun e he => ?_
      simp only [List.mem_cons, List.not_mem_nil, or_false] at he
      rcases he with rfl | rfl | rfl <;> exact hf _ (by simp)
    refine ⟨haddr, hresets, fun m => ?_, fun m hm => ⟨hother m ?_, fun hlt hne => hkeep _ _ fun g hg => ?_⟩⟩
    · unfold State.chanOn
      rw [hkeep Reg.FLT_CH_EN_LO 0, hkeep Reg.FLT_CH_EN_HI 0] <;>
      · intro g hg
        simp only [List.mem_cons, List.not_mem_nil, or_false] at hg
        rcases hg with rfl | rfl | rfl <;>
          simp only [Fld.key, Reg.FLT_CH_FADING, Reg.FLT_CH_SETTLING, Reg.FLT_CH_DC_EST, Reg.FLT_CH_EN_LO, Reg.FLT_CH_EN_HI] <;> omega
    · rcases hm with hm | hm
      · exact hm
      · rintro rfl
        rw [hm] at h
        exact absurd h (by simp)
    · simp only [List.mem_cons, List.not_mem_nil, or_false] at hg
      rcases hg with rfl | rfl | rfl <;>
        simp only [Fld.key, Reg.FLT_CH_FADING, Reg.FLT_CH_SETTLING, Reg.FLT_CH_DC_EST] <;> omega
  next => exact ⟨rfl, rfl, fun _ => rfl, fun _ _ => ⟨rfl, fun _ _ => rfl⟩⟩

/-- What a reset leaves of a channel: all of it where it is not named. -/
theorem State.resetNamed_fold {mask : Nat} (l : List Nat) : ∀ a : State, (∀ n ∈ l, n < 48) →
    (l.foldl (State.resetNamed mask) a).addr = a.addr ∧ (l.foldl (State.resetNamed mask) a).flt.resets = a.flt.resets ∧
    (∀ m, (l.foldl (State.resetNamed mask) a).chanOn m = a.chanOn m) ∧
    (∀ m, m ∉ l ∨ bitOf mask m = false → (l.foldl (State.resetNamed mask) a).chan m = a.chan m) ∧
    (∀ m, m < 48 → m ∉ l → (l.foldl (State.resetNamed mask) a).rd Reg.FLT_CH_SETTLING m = a.rd Reg.FLT_CH_SETTLING m) := by
  induction l with
  | nil => exact fun a _ => ⟨rfl, rfl, fun _ => rfl, fun _ _ => rfl, fun _ _ _ => rfl⟩
  | cons n rest ih =>
    intro a hlt
    obtain ⟨haddr, hresets, hon, hother⟩ := State.resetNamed_other mask a (hlt n (List.mem_cons_self ..))
    obtain ⟨haddr', hresets', hon', hother', hsettling'⟩ := ih (a.resetNamed mask n) fun m hm => hlt m (List.mem_cons_of_mem _ hm)
    refine ⟨haddr'.trans haddr, hresets'.trans hresets, fun m => (hon' m).trans (hon m), fun m hm => ?_, fun m hm hnot => ?_⟩
    · refine (hother' m (hm.imp_left fun h k => h (List.mem_cons_of_mem _ k))).trans (hother m ?_).1
      exact hm.imp_left fun h k => h (k ▸ List.mem_cons_self ..)
    · have hne : m ≠ n := fun k => hnot (k ▸ List.mem_cons_self ..)
      exact (hsettling' m hm fun k => hnot (List.mem_cons_of_mem _ k)).trans ((hother m (.inl hne)).2 hm hne)

/-- A named channel that is enabled starts over. -/
theorem State.resetNamed_fold_named {mask : Nat} (hch : ch < 48) (hbit : bitOf mask ch = true) (l : List Nat) : ∀ a : State,
    (∀ n ∈ l, n < 48) → l.Nodup → ch ∈ l → a.chanOn ch = true →
    let t := l.foldl (State.resetNamed mask) a
    (∃ x, (t.chan ch).cur = some x ∧ x.integ = [] ∧ x.comb = [] ∧ x.fir = [] ∧ x.samples = 0 ∧ x.resetAt = a.addr) ∧
      (t.chan ch).inc = none ∧ t.rd Reg.FLT_CH_SETTLING ch = 1 := by
  induction l with
  | nil => exact fun _ _ _ h => absurd h List.not_mem_nil
  | cons n rest ih =>
    intro a hlt hnodup hmem hon
    obtain ⟨hnot, hrest⟩ := List.nodup_cons.mp hnodup
    have hlt' : ∀ m ∈ rest, m < 48 := fun m hm => hlt m (List.mem_cons_of_mem _ hm)
    obtain ⟨haddr, -, hon', -⟩ := State.resetNamed_other mask a (hlt n (List.mem_cons_self ..))
    by_cases heq : ch = n
    · subst heq
      have hreset : a.resetNamed mask ch = a.resetChan ch := if_pos (by rw [hbit, hon]; rfl)
      obtain ⟨-, hcur, hinc, hsettling, -⟩ := State.resetChan_spec a ch
      obtain ⟨-, -, -, hother, hkept⟩ := State.resetNamed_fold rest (a.resetNamed mask ch) hlt'
      dsimp only
      rw [List.foldl_cons, hother ch (.inl hnot), hkept ch hch hnot, hreset]
      exact ⟨hcur, hinc, hsettling⟩
    · obtain ⟨hcur, hinc, hsettling⟩ := ih (a.resetNamed mask n) hlt' hrest ((List.mem_cons.mp hmem).resolve_left heq) ((hon' ch).trans hon)
      dsimp only
      rw [List.foldl_cons, ← haddr]
      exact ⟨hcur, hinc, hsettling⟩

theorem completes_fltSyncResetApply {a mask : Nat} (hrun : s.halted = false) (hnext : earliest s.flt.resets = some (a, mask)) :
    Completes (.fltSyncResetApply dt) s fun t =>
      t.addr = max (s.addr + dt) a ∧ t.flt.resets = s.flt.resets.erase (a, mask) ∧
      (ch < 48 → bitOf mask ch = true → s.chanOn ch = true →
        (∃ x, (t.chan ch).cur = some x ∧ x.integ = [] ∧ x.comb = [] ∧ x.fir = [] ∧ x.samples = 0 ∧ x.resetAt = t.addr) ∧
        (t.chan ch).inc = none ∧ t.rd Reg.FLT_CH_SETTLING ch = 1) ∧
      (ch < 48 → bitOf mask ch = false → t.chan ch = s.chan ch) := by
  let b := (s.elapse dt).waitAddr a
  let c : State := { b with flt := { b.flt with resets := b.flt.resets.erase (a, mask) } }
  have hflt : b.flt = s.flt := State.waitAddr_flt (s.elapse dt) a
  have hchan (n : Nat) : c.chan n = s.chan n := by
    show tget {} b.flt.chans n = _
    rw [hflt]
    rfl
  have hon (n : Nat) : c.chanOn n = s.chanOn n := State.chanOn_congr (State.waitAddr_regs (s.elapse dt) a) n
  have haddr : c.addr = max (s.addr + dt) a := State.elapse_waitAddr_addr hrun a
  have hexec : exec (.fltSyncResetApply dt) s = .next ((List.range 48).foldl (State.resetNamed mask) c) := by
    show execFltSyncResetApply dt s = _
    have hnext' : earliest (s.elapse dt).flt.resets = some (a, mask) := hnext
    unfold execFltSyncResetApply
    dsimp only
    rw [hnext']
    dsimp only
    rw [State.whenAddr_running (by exact hrun)]
    rfl
  have hrange : ∀ n ∈ List.range 48, n < 48 := fun n hn => List.mem_range.mp hn
  obtain ⟨haddr', hresets, -, hother, -⟩ := State.resetNamed_fold (mask := mask) (List.range 48) c hrange
  refine ⟨_, hexec, haddr'.trans haddr, hresets.trans ?_, fun hch hbit hen => ?_, fun _ hbit => (hother ch (.inr hbit)).trans (hchan ch)⟩
  · show b.flt.resets.erase _ = _
    rw [hflt]
  · have hnamed := State.resetNamed_fold_named hch hbit (List.range 48) c hrange List.nodup_range (List.mem_range.mpr hch)
      ((hon ch).trans hen)
    rw [haddr']
    exact hnamed

end

/-- Settles O29, event by event. -/
theorem filterEventsTakeEffect : Obligations.FilterEventsTakeEffect := by
  unfold Obligations.FilterEventsTakeEffect
  intro s dt ch
  exact ⟨fun _ _ _ _ _ hrun hb hon hfed hreset hinc hword => completes_fltOutputWord hrun hb hon hfed hreset hinc hword,
    fun _ hfeed hon hstuck => completes_inputStuck hfeed hon hstuck,
    fun _ _ _ hrun hcfg hgood => completes_xfadeStart hrun hcfg hgood,
    fun _ _ hinc hlen hdone => completes_xfadeDone hinc hlen hdone,
    fun _ _ hb hfading hdefer hswaps => completes_swapDone_swap hb hfading hdefer hswaps,
    fun _ _ hb hfading hcfg hswaps hdefer => completes_swapDone_deferred hb hfading hcfg hswaps hdefer,
    fun _ _ hb hfading hdefer hswaps => completes_swapDone_fading hb hfading hdefer hswaps,
    fun _ _ hrun hnext => completes_fltSyncResetApply hrun hnext⟩

end Sys2Proof.Machine
end

section
/-! PROOFS. The filter chains' host commands (R109, R113, R116, R119 to R126, Table 04-5). -/

namespace Sys2Proof.Machine

/-! ### Banks -/

theorem State.setBank_bankOf_same (a : State) (ch b : Nat) (x : FltBank) : (a.setBank ch b x).bankOf ch b = x := by
  unfold State.bankOf State.setBank
  dsimp only
  rw [State.setChan_chan_same]
  by_cases hb : b = 0
  · rw [if_pos hb, if_pos hb]
    rfl
  · rw [if_neg hb, if_neg hb]
    rfl

theorem State.setBank_bankOf_other (a : State) (ch : Nat) {b : Nat} (hb : b < 2) (x : FltBank) :
    (a.setBank ch b x).bankOf ch (1 - b) = a.bankOf ch (1 - b) := by
  unfold State.bankOf State.setBank
  dsimp only
  rw [State.setChan_chan_same]
  obtain rfl | rfl : b = 0 ∨ b = 1 := by omega
  · rfl
  · rfl

/-- The channel notes which quarters of a bank were loaded. -/
def State.noteQuarters (a : State) (ch b : Nat) (got : List Nat) : State :=
  a.setChan ch (if b = 0 then { a.chan ch with gotA := got } else { a.chan ch with gotB := got })

theorem State.noteQuarters_bankOf (a : State) (ch b : Nat) (got : List Nat) (c : Nat) :
    (a.noteQuarters ch b got).bankOf ch c = a.bankOf ch c := by
  unfold State.bankOf State.noteQuarters
  rw [State.setChan_chan_same]
  by_cases hb : b = 0
  · rw [if_pos hb]
  · rw [if_neg hb]

/-- The quarters of a bank loaded before a load. -/
def State.quarters (a : State) (ch b : Nat) (start : Bool) : List Nat :=
  if start then [] else if a.rdBit (completeFld b) ch then [0, 16, 32, 48] else if b = 0 then (a.chan ch).gotA else (a.chan ch).gotB

/-- One quarter of a bank is loaded, and the bank checked where that completes it (R113, R119). -/
def State.loadQuarter (a : State) (ch b first : Nat) (start : Bool) (l : List Int) : State :=
  let got := if (a.quarters ch b start).contains first then a.quarters ch b start else first :: a.quarters ch b start
  let s1 := (a.noteQuarters ch b got).setBank ch b (.taps l)
  if got.length == 4 then s1.checkBank ch b else s1.wrBit (completeFld b) ch false

theorem State.loadQuarter_spec (a : State) (ch first : Nat) {b : Nat} (hb : b < 2) (start : Bool) (l : List Int) :
    (a.loadQuarter ch b first start l).bankOf ch b = .taps l ∧
    (a.loadQuarter ch b first start l).bankOf ch (1 - b) = a.bankOf ch (1 - b) ∧
    (start = true → (a.loadQuarter ch b first start l).rd (completeFld b) ch = 0) ∧
    RegsOnly [(completeFld b, ch), (asymFld b, ch)] a (a.loadQuarter ch b first start l) := by
  unfold State.loadQuarter
  extract_lets got s1
  have hsame : s1.bankOf ch b = .taps l := State.setBank_bankOf_same ..
  have hother : s1.bankOf ch (1 - b) = a.bankOf ch (1 - b) :=
    (State.setBank_bankOf_other _ ch hb _).trans (State.noteQuarters_bankOf ..)
  have hregs : RegsOnly [(completeFld b, ch), (asymFld b, ch)] a s1 := RegsOnly.setChan (RegsOnly.setChan (RegsOnly.refl _ a) _ _) _ _
  split
  next hfull =>
    obtain ⟨hflt, -, -, -, -, hcheck⟩ := State.checkBank_spec s1 ch b
    refine ⟨(State.bankOf_congr hflt ch b).trans hsame, (State.bankOf_congr hflt ch _).trans hother, fun hstart => ?_, hregs.trans hcheck⟩
    subst hstart
    exact absurd (show (1 == 4) = true from hfull) (by decide)
  next =>
    refine ⟨hsame, hother, fun _ => ?_, RegsOnly.wrBit hregs (by simp)⟩
    rw [State.wrBit_rd_same]
    exact Nat.zero_mod _

/-- The last quarter completes a bank, which is then checked. -/
theorem State.loadQuarter_last (a : State) (ch : Nat) {b : Nat} (hcomplete : a.rdBit (completeFld b) ch = false)
    (hgot : (if b = 0 then (a.chan ch).gotA else (a.chan ch).gotB) = [32, 16, 0]) (l : List Int) :
    (a.loadQuarter ch b 48 false l).rd (completeFld b) ch = 1 ∧
    (a.loadQuarter ch b 48 false l).rd (asymFld b) ch = ofBool (!symmetric l) ∧
    ((!symmetric l) = true → Raised (a.loadQuarter ch b 48 false l) Ev.COEF_ASYM (srcChannel ch) [(1, ch), (1, b)]) := by
  have hquarters : a.quarters ch b false = [32, 16, 0] := by
    unfold State.quarters
    rw [if_neg (by decide), hcomplete, if_neg (by decide)]
    exact hgot
  unfold State.loadQuarter
  rw [hquarters]
  obtain ⟨-, -, hdone, hasym, hraised, -⟩ := State.checkBank_spec ((a.noteQuarters ch b [48, 32, 16, 0]).setBank ch b (.taps l)) ch b
  rw [State.setBank_bankOf_same] at hasym hraised
  exact ⟨hdone, hasym, hraised⟩

/-! ### Frozen channels (R109) -/

/-- FLT_FREEZE sets the mark of the channels of its kind that the mask names. -/
theorem State.freezeChans_fold {mask : Nat} {feeds on : Bool} (l : List Nat) : ∀ a : State, l.Nodup → (∀ n ∈ l, n < 48) →
    let t := l.foldl (fun a ch => if bitOf mask ch && isFeed ch == feeds then a.wrBit Reg.FLT_CH_FROZEN ch on else a) a
    (∀ n, n < 48 → t.rd Reg.FLT_CH_FROZEN n =
      if n ∈ l ∧ bitOf mask n = true ∧ isFeed n = feeds then ofBool on else a.rd Reg.FLT_CH_FROZEN n) ∧
    RegsOnly ((List.range 48).map fun n => (Reg.FLT_CH_FROZEN, n)) a t ∧ t.flt = a.flt := by
  induction l with
  | nil => exact fun a _ _ => ⟨fun n _ => (if_neg (fun h => absurd h.1 List.not_mem_nil)).symm, RegsOnly.refl _ a, rfl⟩
  | cons m rest ih =>
    intro a hnodup hlt
    obtain ⟨hnot, hrest⟩ := List.nodup_cons.mp hnodup
    let b := if bitOf mask m && isFeed m == feeds then a.wrBit Reg.FLT_CH_FROZEN m on else a
    have hm : m < 48 := hlt m (List.mem_cons_self ..)
    obtain ⟨hread, hregs, hflt⟩ := ih b hrest fun n hn => hlt n (List.mem_cons_of_mem _ hn)
    have hmine : b.rd Reg.FLT_CH_FROZEN m = if bitOf mask m = true ∧ isFeed m = feeds then ofBool on else a.rd Reg.FLT_CH_FROZEN m := by
      show State.rd (if _ then _ else a) _ _ = _
      by_cases hc : bitOf mask m = true ∧ isFeed m = feeds
      · rw [if_pos (by simp [hc]), if_pos hc, State.wrBit_rd_same]
        exact ofBool_mod_two on
      · rw [if_neg (by simpa using hc), if_neg hc]
    have hother (n : Nat) (hn : n < 48) (hne : n ≠ m) : b.rd Reg.FLT_CH_FROZEN n = a.rd Reg.FLT_CH_FROZEN n := by
      show State.rd (if _ then _ else a) _ _ = _
      split
      · rw [State.wrBit_eq, State.wr_rd_other]
        simp only [Fld.key, Reg.FLT_CH_FROZEN]
        omega
      · rfl
    refine ⟨fun n hn => (hread n hn).trans ?_, RegsOnly.trans ?_ hregs, hflt.trans ?_⟩
    · by_cases heq : n = m
      · subst heq
        rw [if_neg (fun h => hnot h.1), hmine]
        simp only [List.mem_cons, true_or, true_and]
      · rw [hother n hn heq]
        simp only [List.mem_cons, heq, false_or]
    · refine RegsOnly.ite (RegsOnly.wrBit (RegsOnly.refl _ a) ?_) (RegsOnly.refl _ a)
      exact List.mem_map.mpr ⟨m, List.mem_range.mpr hm, rfl⟩
    · show State.flt (if _ then _ else a) = _
      split <;> rfl

theorem State.freezeChans_spec (a : State) (mask : Nat) (feeds on : Bool) :
    (∀ n, n < 48 → (a.freezeChans mask feeds on).rd Reg.FLT_CH_FROZEN n =
      if bitOf mask n = true ∧ isFeed n = feeds then ofBool on else a.rd Reg.FLT_CH_FROZEN n) ∧
    RegsOnly ((List.range 48).map fun n => (Reg.FLT_CH_FROZEN, n)) a (a.freezeChans mask feeds on) := by
  obtain ⟨hread, hregs, -⟩ := State.freezeChans_fold (mask := mask) (feeds := feeds) (on := on) (List.range 48) a List.nodup_range
    fun n hn => List.mem_range.mp hn
  refine ⟨fun n hn => (hread n hn).trans ?_, hregs⟩
  simp only [List.mem_range.mpr hn, true_and]

/-! ### The commands -/

section
variable {s : State} {dt : Nat} {h : HostRef} {ch : Nat}

theorem completes_fltConfig {p : FltCfg} (hadm : Admitted s dt h domFlt Op.FLT_CONFIG) (hon : s.chanOn p.ch = true)
    (hgood : cfgBad p = false) (hfading : s.rdBit Reg.FLT_CH_FADING p.ch = false) (hcfg : (s.chan p.ch).cfg = none) :
    Completes (.fltConfig dt h p) s fun t =>
      t.chan p.ch = { s.chan p.ch with cfg := some (p, h, nextCycle (s.elapse dt).addr) } ∧ t.io = s.io ∧ RegsOnly [] s t := by
  refine completes_of_admitted rfl hadm ?_
  dsimp only
  have hon' : (s.elapse dt).chanOn p.ch = true := hon
  have hcfg' : ((s.elapse dt).chan p.ch).cfg = none := hcfg
  rw [hon', if_neg (by decide), hgood, if_neg (by decide), State.elapse_rdBit, hfading, hcfg', if_neg (by decide)]
  exact ⟨State.setChan_chan_same .., rfl, RegsOnly.setChan (RegsOnly.of_elapse _ s dt) _ _⟩

/-- A quarter is loaded into the bank that is not in force. -/
theorem exec_fltCoefLoad_taken {bank first : Nat} {start : Bool} {taps : List Int} (hadm : Admitted s dt h domFlt Op.FLT_COEF_LOAD)
    (hon : s.chanOn ch = true) (hfirst : first ∈ [0, 16, 32, 48]) (hbank : s.rd Reg.FLT_CH_BANK ch ≠ bank % 2)
    (htaps : taps.length = 16) :
    exec (.fltCoefLoad dt h ch bank first start taps) s = .next (((s.elapse dt).loadQuarter ch (bank % 2) first start
      ((s.bankOf ch (bank % 2)).list.take first ++ taps ++ (s.bankOf ch (bank % 2)).list.drop (first + 16))).done h
      Op.FLT_COEF_LOAD) := by
  show execFltCoefLoad dt h ch bank first start taps s = _
  unfold execFltCoefLoad
  rw [State.command_admitted hadm]
  dsimp only
  have hon' : (s.elapse dt).chanOn ch = true := hon
  have hpad : (taps ++ List.replicate 16 0).take 16 = taps := by rw [← htaps, List.take_left']; rfl
  rw [hon', if_neg (by decide), if_neg (by rw [List.contains_iff_mem.mpr hfirst]; decide), State.elapse_rd, if_neg hbank, hpad]
  rfl

theorem completes_fltCoefLoad {bank first : Nat} {start : Bool} {taps : List Int} (hadm : Admitted s dt h domFlt Op.FLT_COEF_LOAD)
    (hon : s.chanOn ch = true) (hfirst : first ∈ [0, 16, 32, 48]) (hbank : s.rd Reg.FLT_CH_BANK ch ≠ bank % 2)
    (htaps : taps.length = 16) :
    Completes (.fltCoefLoad dt h ch bank first start taps) s fun t =>
      (t.bankOf ch (bank % 2)).list =
        (s.bankOf ch (bank % 2)).list.take first ++ taps ++ (s.bankOf ch (bank % 2)).list.drop (first + 16) ∧
      (start = true → t.rd (completeFld (bank % 2)) ch = 0) ∧
      t.bankOf ch (1 - bank % 2) = s.bankOf ch (1 - bank % 2) ∧ Answered t h Op.FLT_COEF_LOAD 0 0 [] ∧
      RegsOnly [(completeFld (bank % 2), ch), (asymFld (bank % 2), ch)] s t := by
  refine ⟨_, exec_fltCoefLoad_taken hadm hon hfirst hbank htaps, ?_⟩
  generalize (s.bankOf ch (bank % 2)).list.take first ++ taps ++ (s.bankOf ch (bank % 2)).list.drop (first + 16) = l
  obtain ⟨hsame, hother, hstart, hregs⟩ := State.loadQuarter_spec (s.elapse dt) ch first (Nat.mod_lt bank (by decide)) start l
  refine ⟨?_, hstart, (State.bankOf_congr (State.done_flt ..) ..).trans hother, State.done_answered .., RegsOnly.done hregs _ _⟩
  rw [State.bankOf_congr (State.done_flt ..), hsame]
  rfl

theorem completes_fltCoefLoad_last {bank : Nat} {taps : List Int} (hadm : Admitted s dt h domFlt Op.FLT_COEF_LOAD)
    (hon : s.chanOn ch = true) (hbank : s.rd Reg.FLT_CH_BANK ch ≠ bank % 2) (htaps : taps.length = 16)
    (hcomplete : s.rdBit (completeFld (bank % 2)) ch = false)
    (hgot : (if bank % 2 = 0 then (s.chan ch).gotA else (s.chan ch).gotB) = [32, 16, 0]) :
    Completes (.fltCoefLoad dt h ch bank 48 false taps) s fun t =>
      t.rd (completeFld (bank % 2)) ch = 1 ∧
      t.rd (asymFld (bank % 2)) ch = ofBool (!symmetric ((s.bankOf ch (bank % 2)).list.take 48 ++ taps ++
        (s.bankOf ch (bank % 2)).list.drop 64)) ∧
      (t.rd (asymFld (bank % 2)) ch = 1 → Raised t Ev.COEF_ASYM (srcChannel ch) [(1, ch), (1, bank % 2)]) := by
  refine ⟨_, exec_fltCoefLoad_taken hadm hon (by simp) hbank htaps, ?_⟩
  generalize (s.bankOf ch (bank % 2)).list.take 48 ++ taps ++ (s.bankOf ch (bank % 2)).list.drop 64 = l
  obtain ⟨hdone, hasym, hraised⟩ := State.loadQuarter_last (s.elapse dt) ch hcomplete hgot l
  refine ⟨hdone, hasym, fun hone => Raised.done (hraised ?_) _ _⟩
  have hflag : ofBool (!symmetric l) = 1 := hasym.symm.trans hone
  cases hsym : symmetric l with
  | false => rfl
  | true =>
    rw [hsym] at hflag
    exact absurd hflag (by decide)

theorem completes_fltSwap {bank : Nat} (hadm : Admitted s dt h domFlt Op.FLT_SWAP) (hon : s.chanOn ch = true)
    (hfading : s.rdBit Reg.FLT_CH_FADING ch = false) (hcfg : (s.chan ch).cfg = none)
    (hcomplete : s.rdBit (completeFld (bank % 2)) ch = true) (hbank : s.rd Reg.FLT_CH_BANK ch ≠ bank % 2) :
    Completes (.fltSwap dt h ch bank) s fun t =>
      t.chan ch = { s.chan ch with swapTo := (s.chan ch).swapTo ++ [(bank % 2, h)] } ∧ t.io = s.io ∧ RegsOnly [] s t := by
  refine completes_of_admitted rfl hadm ?_
  dsimp only
  have hon' : (s.elapse dt).chanOn ch = true := hon
  have hcfg' : ((s.elapse dt).chan ch).cfg = none := hcfg
  rw [hon', if_neg (by decide), State.elapse_rdBit, hfading, if_neg (by rw [hcfg']; decide), State.elapse_rdBit, hcomplete,
    if_neg (by decide), State.elapse_rd, decide_eq_false hbank, if_neg (by simp)]
  exact ⟨State.setChan_chan_same .., rfl, RegsOnly.setChan (RegsOnly.of_elapse _ s dt) _ _⟩

theorem completes_fltSwap_fading {bank : Nat} (hadm : Admitted s dt h domFlt Op.FLT_SWAP) (hon : s.chanOn ch = true)
    (hfading : s.rdBit Reg.FLT_CH_FADING ch = true) (hdefer : (s.chan ch).defer = none) :
    Completes (.fltSwap dt h ch bank) s fun t =>
      (t.chan ch).defer = some (bank % 2, h) ∧ t.rd Reg.FLT_CH_DEFERRED ch = 1 ∧ t.rd Reg.FLT_CH_DEF_BANK ch = bank % 2 ∧
      Raised t Ev.SWAP_DEFERRED (srcChannel ch) [(1, ch), (1, bank % 2)] ∧
      RegsOnly [(Reg.FLT_CH_DEFERRED, ch), (Reg.FLT_CH_DEF_BANK, ch)] s t := by
  refine completes_of_admitted rfl hadm ?_
  dsimp only
  have hon' : (s.elapse dt).chanOn ch = true := hon
  rw [hon', if_neg (by decide), State.elapse_rdBit, hfading, Bool.true_or, if_pos rfl]
  obtain ⟨hchan, hdeferred, hbank, hraised, hregs⟩ :=
    State.deferSwap_spec (s.elapse dt) ch (w := (bank % 2, h)) (Nat.mod_lt _ (by decide)) hdefer
  exact ⟨by rw [hchan], hdeferred, hbank, hraised, hregs⟩

theorem completes_fltSyncReset {mask stamp : Nat} (hadm : Admitted s dt h domFlt Op.FLT_SYNC_RESET) (hmask : s.maskBad mask = false)
    (hahead : (s.elapse dt).addrAhead (addrOfStamp stamp) = true) :
    Completes (.fltSyncReset dt h mask stamp) s fun t =>
      t.flt = { s.flt with resets := s.flt.resets ++ [(addrOfStamp stamp, mask)] } ∧
      Answered t h Op.FLT_SYNC_RESET 0 0 [] ∧ RegsOnly [] s t := by
  refine completes_of_admitted rfl hadm ?_
  dsimp only
  have hmask' : (s.elapse dt).maskBad mask = false := hmask
  rw [hmask', if_neg (by decide), hahead, if_neg (by decide)]
  exact ⟨rfl, State.done_answered .., RegsOnly.done (RegsOnly.upd (RegsOnly.of_elapse _ s dt)) _ _⟩

theorem completes_fltFreeze {mask on : Nat} (hadm : Admitted s dt h domFlt Op.FLT_FREEZE) (hmask : s.maskBad mask = false) :
    Completes (.fltFreeze dt h mask on) s fun t =>
      (∀ n, n < 48 → t.rd Reg.FLT_CH_FROZEN n =
        if bitOf mask n then ofBool (on == 1) else s.rd Reg.FLT_CH_FROZEN n) ∧
      Answered t h Op.FLT_FREEZE 0 0 [] ∧ RegsOnly ((List.range 48).map fun n => (Reg.FLT_CH_FROZEN, n)) s t := by
  refine completes_of_admitted rfl hadm ?_
  dsimp only
  have hmask' : (s.elapse dt).maskBad mask = false := hmask
  rw [hmask', if_neg (by decide)]
  obtain ⟨hfeeds, hregs1⟩ := State.freezeChans_spec (s.elapse dt) mask true (on == 1)
  obtain ⟨a1, ha1⟩ : ∃ a1, a1 = (s.elapse dt).freezeChans mask true (on == 1) := ⟨_, rfl⟩
  rw [← ha1] at hfeeds hregs1 ⊢
  obtain ⟨a2, ha2, hregs2⟩ : ∃ a2, a2 = (if ((List.range 48).any fun ch => bitOf mask ch && !isFeed ch) = true then
      a1.waitAddr (nextCycle a1.addr) else a1) ∧ a2.regs = a1.regs := by
    refine ⟨_, rfl, ?_⟩
    split
    · exact State.waitAddr_regs ..
    · rfl
  rw [← ha2]
  obtain ⟨hothers, hregs3⟩ := State.freezeChans_spec a2 mask false (on == 1)
  refine ⟨fun n hn => (hothers n hn).trans ?_, State.done_answered ..,
    RegsOnly.done ((RegsOnly.of_regs (RegsOnly.trans (RegsOnly.of_elapse _ s dt) hregs1) hregs2).trans hregs3) _ _⟩
  have hrd : a2.rd Reg.FLT_CH_FROZEN n = a1.rd Reg.FLT_CH_FROZEN n := by unfold State.rd; rw [hregs2]
  rw [hrd, hfeeds n hn]
  cases bitOf mask n <;> cases isFeed n <;> rfl

end

/-- Settles O30, command by command. -/
theorem filterCommandsTakeEffect : Obligations.FilterCommandsTakeEffect := by
  unfold Obligations.FilterCommandsTakeEffect
  intro s dt h ch
  exact ⟨fun _ hadm hon hgood hfading hcfg => completes_fltConfig hadm hon hgood hfading hcfg,
    fun _ _ _ _ hadm hon hfirst hbank htaps => completes_fltCoefLoad hadm hon hfirst hbank htaps,
    fun _ _ hadm hon hbank htaps hcomplete hgot => completes_fltCoefLoad_last hadm hon hbank htaps hcomplete hgot,
    fun _ hadm hon hfading hcfg hcomplete hbank => completes_fltSwap hadm hon hfading hcfg hcomplete hbank,
    fun _ hadm hon hfading hdefer => completes_fltSwap_fading hadm hon hfading hdefer,
    fun _ _ hadm hmask hahead => completes_fltSyncReset hadm hmask hahead,
    fun _ _ hadm hmask => completes_fltFreeze hadm hmask⟩

end Sys2Proof.Machine
end

section
/-! PROOFS. The blocks of the register map: which blocks' fields a review of the references, a framer or a receiver may write. -/

namespace Sys2Proof.Machine

/-- The block of the register map in which a field lies (Table 16-1): each has 2¹⁹ bytes of addresses. -/
def Fld.block (f : Fld) (i : Nat) : Nat := f.key i / 2 ^ 24

/-- A field's first `n` instances lie within block `b`. -/
def Fld.within (f : Fld) (b n : Nat) : Bool :=
  decide (b * 2 ^ 19 ≤ f.base) && decide (f.base + f.stride * n < (b + 1) * 2 ^ 19) && decide (f.lo < 32)

theorem Fld.block_eq {f : Fld} {b n i : Nat} (hf : f.within b n = true) (hi : i < n) : f.block i = b := by
  unfold Fld.within at hf
  simp only [Bool.and_eq_true, decide_eq_true_eq] at hf
  obtain ⟨⟨hfrom, hto⟩, hlo⟩ := hf
  have hstride : f.stride * i ≤ f.stride * n := Nat.mul_le_mul_left _ hi.le
  unfold Fld.block Fld.key
  omega

/-- Only fields of the listed blocks differ. -/
def BlocksOnly (bs : List Nat) (s t : State) : Prop := ∀ (f : Fld) (i : Nat), f.block i ∉ bs → t.rd f i = s.rd f i

section
variable {bs : List Nat} {s t u : State}

theorem BlocksOnly.refl (bs : List Nat) (s : State) : BlocksOnly bs s s := fun _ _ _ => rfl

theorem BlocksOnly.trans (h : BlocksOnly bs s t) (k : BlocksOnly bs t u) : BlocksOnly bs s u :=
  fun f i x => (k f i x).trans (h f i x)

theorem BlocksOnly.mono {cs : List Nat} (k : BlocksOnly bs s t) (h : ∀ b ∈ bs, b ∈ cs) : BlocksOnly cs s t :=
  fun f i hf => k f i fun hb => hf (h _ hb)

theorem BlocksOnly.of_regs (k : BlocksOnly bs s t) (h : u.regs = t.regs) : BlocksOnly bs s u := fun f i hf => by
  have := k f i hf
  unfold State.rd at *
  rw [h]
  exact this

/-- A field outside the blocks written keeps its value. -/
theorem BlocksOnly.field (k : BlocksOnly bs s t) {f : Fld} {b n i : Nat} (hi : i < n) (hf : f.within b n = true) (hb : b ∉ bs) :
    t.rd f i = s.rd f i := k f i (by rwa [Fld.block_eq hf hi])

theorem BlocksOnly.bit (k : BlocksOnly bs s t) {f : Fld} {b n i : Nat} (hi : i < n) (hf : f.within b n = true) (hb : b ∉ bs) :
    t.rdBit f i = s.rdBit f i := congrArg (· != 0) (k.field hi hf hb)

theorem BlocksOnly.wr (k : BlocksOnly bs s t) {f : Fld} {b n i : Nat} (hi : i < n) (hf : f.within b n = true) (hb : b ∈ bs) (v : Nat) :
    BlocksOnly bs s (t.wr f i v) := fun g j hg => by
  rw [State.wr_rd_other]
  · exact k g j hg
  · intro hkey
    have hblock : g.block j = f.block i := congrArg (· / 2 ^ 24) hkey
    rw [hblock, Fld.block_eq hf hi] at hg
    exact hg hb

theorem BlocksOnly.wrBit (k : BlocksOnly bs s t) {f : Fld} {b n i : Nat} (hi : i < n) (hf : f.within b n = true) (hb : b ∈ bs) (v : Bool) :
    BlocksOnly bs s (t.wrBit f i v) := k.wr hi hf hb _

theorem BlocksOnly.wrInt (k : BlocksOnly bs s t) {f : Fld} {b n i : Nat} (hi : i < n) (hf : f.within b n = true) (hb : b ∈ bs) (v : Int) :
    BlocksOnly bs s (t.wrInt f i v) := k.wr hi hf hb _

theorem BlocksOnly.count (k : BlocksOnly bs s t) {f : Fld} {b n i : Nat} (hi : i < n) (hf : f.within b n = true) (hb : b ∈ bs) :
    BlocksOnly bs s (t.count f i) := k.wr hi hf hb _

theorem BlocksOnly.countBy (k : BlocksOnly bs s t) {f : Fld} {b n i : Nat} (hi : i < n) (hf : f.within b n = true) (hb : b ∈ bs)
    (v : Nat) : BlocksOnly bs s (t.countBy f i v) := k.wr hi hf hb _

theorem BlocksOnly.raise (k : BlocksOnly bs s t) (code src : Nat) (d : List (Nat × Nat)) : BlocksOnly bs s (t.raise code src d) := k

theorem BlocksOnly.raiseC (k : BlocksOnly bs s t) (code src : Nat) (d : List (Nat × Nat)) : BlocksOnly bs s (t.raiseC code src d) := k

theorem BlocksOnly.raiseLim (k : BlocksOnly bs s t) (lim code n src : Nat) (d : List (Nat × Nat)) :
    BlocksOnly bs s (t.raiseLim lim code n src d) := k.of_regs (State.raiseLim_regs ..)

theorem BlocksOnly.ite {c : Prop} [Decidable c] (h : BlocksOnly bs s t) (k : BlocksOnly bs s u) :
    BlocksOnly bs s (if c then t else u) := by
  split <;> assumption

theorem BlocksOnly.raiseIf (k : BlocksOnly bs s t) (b : Bool) (code src : Nat) (d : List (Nat × Nat)) :
    BlocksOnly bs s (t.raiseIf b code src d) := BlocksOnly.ite k k

theorem BlocksOnly.setCand (k : BlocksOnly bs s t) (n : Nat) (c : CandSt) : BlocksOnly bs s (t.setCand n c) := k

theorem BlocksOnly.setFramer (k : BlocksOnly bs s t) (n : Nat) (u : FrmUnit) : BlocksOnly bs s (t.setFramer n u) := k

theorem BlocksOnly.setRlkLane (k : BlocksOnly bs s t) (n : Nat) (x : RlkLane) : BlocksOnly bs s (t.setRlkLane n x) := k

theorem BlocksOnly.foldl {α : Type} {f : State → α → State} {l : List α} (h : ∀ (a : State), ∀ x ∈ l, BlocksOnly bs a (f a x)) :
    ∀ {t : State}, BlocksOnly bs s t → BlocksOnly bs s (l.foldl f t) := by
  induction l with
  | nil => exact fun k => k
  | cons x rest ih =>
    exact fun k => ih (fun a y hy => h a y (List.mem_cons_of_mem _ hy)) (k.trans (h _ x (List.mem_cons_self ..)))

end

/-! ### The references (block 3) -/

section
variable {a s : State} {n : Nat}

theorem State.disqualify_blocks (h : BlocksOnly [3] a s) (hn : n < 20) (cause : Nat) : BlocksOnly [3] a (s.disqualify n cause) := by
  refine h.trans fun f i hf => (State.disqualify_spec s n cause).2.2.2.2 f i fun e he hkey => hf ?_
  have hblock : f.block i = e.1.block e.2 := congrArg (· / 2 ^ 24) hkey.symm
  simp only [List.mem_cons, List.not_mem_nil, or_false] at he
  rcases he with rfl | rfl | rfl
  · rw [hblock, Fld.block_eq (f := Reg.TIM_CAND_STATE) (b := 3) (by decide) hn]
    decide
  · rw [hblock, Fld.block_eq (f := Reg.TIM_CAND_REASON) (b := 3) (by decide) hn]
    decide
  · rw [hblock]
    decide

theorem State.candLost_blocks (h : BlocksOnly [3] a s) (hn : n < 20) : BlocksOnly [3] a (s.candLost n) := by
  unfold State.candLost
  refine BlocksOnly.ite (BlocksOnly.ite ?_ (State.disqualify_blocks h hn _)) (State.disqualify_blocks h hn _)
  exact BlocksOnly.ite h (h.setCand _ _)

theorem State.candBack_blocks (h : BlocksOnly [3] a s) : BlocksOnly [3] a (s.candBack n) := BlocksOnly.ite (h.setCand _ _) h

theorem State.qualTimer_blocks (h : BlocksOnly [3] a s) : BlocksOnly [3] a (s.qualTimer n) :=
  BlocksOnly.ite (BlocksOnly.ite h (h.setCand _ _)) (BlocksOnly.ite (h.setCand _ _) h)

theorem State.candReview_blocks (h : BlocksOnly [3] a s) (hn : n < 20) : BlocksOnly [3] a (s.candReview n) := by
  have hstate {x : State} (k : BlocksOnly [3] a x) (v : Nat) : BlocksOnly [3] a (x.wr Reg.TIM_CAND_STATE n v) :=
    k.wr (b := 3) hn (by decide) (by decide) v
  have hreason {x : State} (k : BlocksOnly [3] a x) (v : Nat) : BlocksOnly [3] a (x.wr Reg.TIM_CAND_REASON n v) :=
    k.wr (b := 3) hn (by decide) (by decide) v
  unfold State.candReview
  refine BlocksOnly.ite h (BlocksOnly.ite (BlocksOnly.ite (State.qualTimer_blocks (State.candBack_blocks h)) (State.candLost_blocks h hn))
    (BlocksOnly.ite (State.qualTimer_blocks (BlocksOnly.ite h (hreason (h.setCand _ _) _))) (BlocksOnly.ite h (BlocksOnly.ite ?_ ?_))))
  · exact BlocksOnly.ite h (hstate (h.setCand _ _) _)
  · exact BlocksOnly.ite (hreason (hstate (h.setCand _ _) _) _) h

theorem State.qlRefresh_blocks (h : BlocksOnly [3] a s) (hn : n < 20) : BlocksOnly [3] a (s.qlRefresh n) := by
  unfold State.qlRefresh
  exact BlocksOnly.ite (((h.wr (b := 3) hn (by decide) (by decide) _).count (b := 3) hn (by decide) (by decide)).raise _ _ _) h

/-- A review of the references writes only fields of the timing block. -/
theorem State.timReview_blocks (s : State) : BlocksOnly [3] s s.timReview :=
  BlocksOnly.foldl (fun a _ hn => State.candReview_blocks (State.qlRefresh_blocks (BlocksOnly.refl _ a) (List.mem_range.mp hn))
    (List.mem_range.mp hn)) (BlocksOnly.refl _ s)

theorem State.acceptQl_blocks (s : State) (hit : CandSt → Bool) (ql : Nat) : BlocksOnly [3] s (s.acceptQl hit ql) :=
  BlocksOnly.trans (BlocksOnly.foldl (fun a _ _ => BlocksOnly.ite ((BlocksOnly.refl _ a).setCand _ _) (BlocksOnly.refl _ a))
    (BlocksOnly.refl _ s)) (State.timReview_blocks _)

theorem State.acceptLaneQl_blocks (s : State) (l ql : Nat) : BlocksOnly [3] s (s.acceptLaneQl l ql) :=
  State.acceptQl_blocks s _ ql

end

/-! ### Points of performance monitoring -/

theorem State.pmDefect_regs (s : State) (p : Nat) (ne fe : Bool) : (s.pmDefect p ne fe).regs = s.regs := by
  unfold State.pmDefect
  dsimp only
  split <;> rfl

theorem State.pmBlocks_regs (s : State) (p ne fe : Nat) : (s.pmBlocks p ne fe).regs = s.regs := by
  unfold State.pmBlocks
  dsimp only
  split <;> rfl

/-! ### Framers (block 7) -/

section
variable {a s : State}

theorem State.laneRegs_blocks (h : BlocksOnly [3, 7] a s) (l : Nat) : BlocksOnly [3, 7] a (s.laneRegs l) := by
  unfold State.laneRegs
  dsimp only
  split
  · exact h
  next hl =>
    have hlane : l < 72 := by omega
    have hbit {x : State} (k : BlocksOnly [3, 7] a x) {f : Fld} (hf : f.within 7 72 = true) (v : Bool) :
        BlocksOnly [3, 7] a (x.wrBit f l v) := k.wrBit (b := 7) hlane hf (by decide) v
    refine hbit (hbit (hbit (hbit (hbit (hbit (hbit (hbit (hbit (hbit (h.wr (b := 7) hlane (by decide) (by decide) _) ?_ _) ?_ _) ?_ _)
      ?_ _) ?_ _) ?_ _) ?_ _) ?_ _) ?_ _) ?_ _ <;> decide

theorem State.settleOne_blocks (h : BlocksOnly [3, 7] a s) (k : Nat) : BlocksOnly [3, 7] a (s.settleOne k) := by
  let u := s.framer k
  let new := s.declares k u
  let isMasked := new.any maskOrder.contains || s.serverMasks k
  let u1 : FrmUnit := { u with declared := new, masked := isMasked }
  let u2 : FrmUnit := if u.masked && !isMasked then { u1 with window := [], winB1 := [], winFrom := s.cycle } else u1
  let s2 := (List.range 19).foldl (fun a c =>
    if u.declared.contains c != new.contains c then a.reportDefect k c (new.contains c) else a) (s.setFramer k u2)
  have h2 : BlocksOnly [3, 7] a s2 :=
    BlocksOnly.foldl (fun b _ _ => BlocksOnly.ite ((BlocksOnly.refl _ b).raiseLim _ _ _ _ _) (BlocksOnly.refl _ b)) (h.of_regs rfl)
  let s3 := if keyIsLane k then s2.laneRegs (keyNum k) else s2
  have h3 : BlocksOnly [3, 7] a s3 := BlocksOnly.ite (State.laneRegs_blocks h2 _) h2
  obtain ⟨s4, hs4, h4⟩ : ∃ s4, s4 = (match s3.framerPoint k with
      | none => s3
      | some p => s3.pmDefect p u2.tsf (new.contains 7 || new.contains 8)) ∧ BlocksOnly [3, 7] a s4 := by
    refine ⟨_, rfl, ?_⟩
    split
    · exact h3
    · exact h3.of_regs (State.pmDefect_regs ..)
  have hsettle : s.settleOne k = if keyIsLane k && modeStm (s.rd Reg.PRT_LANE_MODE (keyNum k)) then
      s4.pmDefect (rsPoint (keyNum k)) (new.contains 0 || new.contains 2) false else s4 := by
    rw [hs4]
    rfl
  rw [hsettle]
  exact BlocksOnly.ite (h4.of_regs (State.pmDefect_regs ..)) h4

theorem State.settle_blocks (h : BlocksOnly [3, 7] a s) (k : Nat) : BlocksOnly [3, 7] a (s.settle k) := by
  have hone := State.settleOne_blocks h k
  unfold State.settle
  dsimp only
  refine BlocksOnly.trans ?_ ((State.timReview_blocks _).mono (by decide))
  exact hone.trans (BlocksOnly.foldl (fun b q _ => State.settleOne_blocks (BlocksOnly.refl _ b) q) (BlocksOnly.refl _ _))

theorem State.countOof_blocks (h : BlocksOnly [3, 7] a s) (k : Nat) (was : FrmUnit) : BlocksOnly [3, 7] a (s.countOof k was) := by
  unfold State.countOof
  split
  next hc =>
    simp only [Bool.and_eq_true, decide_eq_true_eq] at hc
    exact h.count (b := 7) hc.1.1.2 (by decide) (by decide)
  next => exact h

theorem State.framerLos_blocks (h : BlocksOnly [3, 7] a s) (k : Nat) (los stop : Bool) : BlocksOnly [3, 7] a (s.framerLos k los stop) := by
  unfold State.framerLos
  exact State.settle_blocks (State.countOof_blocks (h.setFramer k _) k _) k

end

/-! ### Ralale receivers (block 6) -/

section
variable {a s : State}

theorem State.rlkReview_blocks (s : State) (l : Nat) : BlocksOnly [3] s (s.rlkReview l) := by
  unfold State.rlkReview
  dsimp only
  split
  · exact State.timReview_blocks s
  · exact BlocksOnly.trans ((BlocksOnly.refl _ s).of_regs (State.pmDefect_regs ..)) (State.timReview_blocks _)

theorem State.rlkSearch_blocks (s : State) {l : Nat} (hl : l < 48) (from_ : Nat) : BlocksOnly [3, 6] s (s.rlkSearch l from_) :=
  BlocksOnly.wr (b := 6) ((BlocksOnly.refl _ s).setRlkLane l _) hl (by decide) (by decide) 0

theorem State.rlkOn_lt {l : Nat} (h : s.rlkOn l = true) : l < 48 := by
  unfold State.rlkOn at h
  simp only [Bool.and_eq_true, decide_eq_true_eq] at h
  exact h.1

theorem State.rlkDown_blocks (s : State) (l : Nat) : BlocksOnly [3, 6] s (s.rlkDown l) := by
  unfold State.rlkDown
  split
  next hon =>
    refine BlocksOnly.trans ?_ ((State.rlkReview_blocks _ l).mono (by decide))
    exact BlocksOnly.ite (BlocksOnly.refl _ s) (State.rlkSearch_blocks s (State.rlkOn_lt hon) 0)
  next => exact BlocksOnly.refl _ s

end

end Sys2Proof.Machine
end

section
/-! PROOFS. Lane defects, readiness, eyes and test patterns, and tributary links (R145 to R167). -/

namespace Sys2Proof.Machine

theorem State.wrBit_rdBit_same (s : State) {f : Fld} (hf : f.width = 1) (i : Nat) (b : Bool) : (s.wrBit f i b).rdBit f i = b := by
  unfold State.rdBit
  rw [State.wrBit_rd_same, hf]
  cases b <;> rfl

theorem RegsOnly.bit {l : List (Fld × Nat)} {s t : State} (k : RegsOnly l s t) {f : Fld} {i : Nat} (h : ∀ e ∈ l, e.1.key e.2 ≠ f.key i) :
    t.rdBit f i = s.rdBit f i := congrArg (· != 0) (k f i h)

theorem RegsOnly.fieldBit {l : List Fld} {s t : State} {i : Nat} (k : RegsOnly (l.map fun g => (g, i)) s t) {f : Fld}
    (h : ∀ g ∈ l, g.stride = f.stride ∧ g.base * 32 + g.lo ≠ f.base * 32 + f.lo) : t.rdBit f i = s.rdBit f i :=
  congrArg (· != 0) (k.field h)

/-! ### Lanes -/

section
variable {s : State} {dt lane : Nat}

theorem State.laneOn_lt (h : s.laneOn lane = true) : lane < 80 := by
  unfold State.laneOn at h
  simp only [Bool.and_eq_true, decide_eq_true_eq] at h
  exact h.1.1.1

/-- A lane's mark is set or cleared, and a change is reported. -/
theorem State.laneFlag_spec (s : State) {f : Fld} (hf : f.width = 1) (code l : Nat) (on : Bool) :
    (s.laneFlag f code l on).rdBit f l = on ∧ RegsOnly [(f, l)] s (s.laneFlag f code l on) ∧
    (s.rdBit f l ≠ on → Raised (s.laneFlag f code l on) code (srcLane l) [(2, l), (1, ofBool on)]) := by
  unfold State.laneFlag
  split
  next h => exact ⟨h, RegsOnly.refl _ s, fun k => absurd h k⟩
  next h =>
    refine ⟨?_, RegsOnly.raise (RegsOnly.wrBit (RegsOnly.refl _ s) (by simp)) _ _ _, fun _ => State.raise_raised ..⟩
    rw [State.raise_rdBit, State.wrBit_rdBit_same s hf]

/-- The defects that a higher one masks read 0 (R157). -/
theorem State.maskBelow_spec (s : State) (l n : Nat) :
    (3 ≤ n → (s.maskBelow l n).rdBit Reg.PRT_LANE_LOL l = false) ∧
    (2 ≤ n → (s.maskBelow l n).rdBit Reg.PRT_LANE_NO_BLOCK_LOCK l = false) ∧
    (s.maskBelow l n).rdBit Reg.PRT_LANE_HIBER l = false ∧
    RegsOnly ([Reg.PRT_LANE_LOL, Reg.PRT_LANE_NO_BLOCK_LOCK, Reg.PRT_LANE_HIBER].map fun g => (g, l)) s (s.maskBelow l n) := by
  let s1 := if 3 ≤ n then s.laneFlag Reg.PRT_LANE_LOL Ev.LANE_LOL l false else s
  let s2 := if 2 ≤ n then s1.laneFlag Reg.PRT_LANE_NO_BLOCK_LOCK Ev.LANE_BLOCK_LOCK l false else s1
  obtain ⟨hlol, hlolOnly, -⟩ := State.laneFlag_spec s (f := Reg.PRT_LANE_LOL) rfl Ev.LANE_LOL l false
  obtain ⟨hlock, hlockOnly, -⟩ := State.laneFlag_spec s1 (f := Reg.PRT_LANE_NO_BLOCK_LOCK) rfl Ev.LANE_BLOCK_LOCK l false
  obtain ⟨hhiber, hhiberOnly, -⟩ := State.laneFlag_spec s2 (f := Reg.PRT_LANE_HIBER) rfl Ev.LANE_HIBER l false
  have h1 : RegsOnly ([Reg.PRT_LANE_LOL].map fun g => (g, l)) s s1 := RegsOnly.ite hlolOnly (RegsOnly.refl _ s)
  have h2 : RegsOnly ([Reg.PRT_LANE_NO_BLOCK_LOCK].map fun g => (g, l)) s1 s2 := RegsOnly.ite hlockOnly (RegsOnly.refl _ s1)
  have h3 : RegsOnly ([Reg.PRT_LANE_HIBER].map fun g => (g, l)) s2 (s.maskBelow l n) := hhiberOnly
  refine ⟨fun hn => ?_, fun hn => ?_, hhiber, (h1.mono (by simp)).trans ((h2.mono (by simp)).trans (h3.mono (by simp)))⟩
  · rw [h3.fieldBit (by decide), h2.fieldBit (by decide)]
    show State.rdBit (if 3 ≤ n then _ else s) _ _ = _
    rw [if_pos hn, hlol]
  · rw [h3.fieldBit (by decide)]
    show State.rdBit (if 2 ≤ n then _ else s1) _ _ = _
    rw [if_pos hn, hlock]

/-- What follows from a lane's defects writes no field of the ports. -/
theorem State.laneFollow_blocks (s : State) (l : Nat) : BlocksOnly [3, 6, 7] s (s.laneFollow l) := by
  have h1 (c : Nat) (d r : Bool) : BlocksOnly [3, 7] s (s.pmDefect c d r) := (BlocksOnly.refl _ s).of_regs (State.pmDefect_regs ..)
  have hrest (b : State) (hb : BlocksOnly [3, 7] s b) : BlocksOnly [3, 6, 7] s ((b.rlkDown l).timReview) :=
    ((hb.mono (by decide)).trans ((State.rlkDown_blocks b l).mono (by decide))).trans
      ((State.timReview_blocks (b.rlkDown l)).mono (by decide))
  unfold State.laneFollow
  exact hrest _ (BlocksOnly.ite (State.framerLos_blocks (h1 _ _ _) _ _ _) (h1 _ _ _))

theorem State.laneFollow_rd (s : State) (hl : lane < 80) {f : Fld} (hf : f.within 5 80 = true) :
    (s.laneFollow lane).rd f lane = s.rd f lane := (State.laneFollow_blocks s lane).field hl hf (by decide)

theorem State.laneFollow_rdBit (s : State) (hl : lane < 80) {f : Fld} (hf : f.within 5 80 = true) :
    (s.laneFollow lane).rdBit f lane = s.rdBit f lane := (State.laneFollow_blocks s lane).bit hl hf (by decide)

theorem completes_laneLos_lane {set : Bool} (hon : s.laneOn lane = true) (hchange : s.rdBit Reg.PRT_LANE_LOS lane ≠ set) :
    Completes (.laneLos dt lane false set) s fun t =>
      t.rdBit Reg.PRT_LANE_LOS lane = set ∧
      (set = true → t.rd Reg.PRT_LANE_LOS_CNT lane = (s.rd Reg.PRT_LANE_LOS_CNT lane + 1) % 2 ^ 32 ∧
        t.rdBit Reg.PRT_LANE_LOL lane = false ∧ t.rdBit Reg.PRT_LANE_NO_BLOCK_LOCK lane = false ∧
        t.rdBit Reg.PRT_LANE_HIBER lane = false) := by
  let b := (s.elapse dt).laneFlag Reg.PRT_LANE_LOS Ev.LANE_LOS lane set
  have hl : lane < 80 := State.laneOn_lt hon
  obtain ⟨hlos, hlosOnly, -⟩ := State.laneFlag_spec (s.elapse dt) (f := Reg.PRT_LANE_LOS) rfl Ev.LANE_LOS lane set
  have hexec : exec (.laneLos dt lane false set) s =
      .next ((if set then (b.count Reg.PRT_LANE_LOS_CNT lane).maskBelow lane 3 else b).laneFollow lane) := by
    refine congrArg Host.Outcome.next ((if_neg (by decide)).trans (if_neg ?_))
    show ¬ (!s.laneOn lane || decide (s.rdBit Reg.PRT_LANE_LOS lane = set)) = true
    rw [hon, decide_eq_false hchange]
    decide
  refine ⟨_, hexec, ?_⟩
  simp (disch := first | exact hl | decide) only [State.laneFollow_rd, State.laneFollow_rdBit]
  cases set with
  | false => exact ⟨hlos, fun h => absurd h (by decide)⟩
  | true =>
    obtain ⟨c, hc⟩ : ∃ c, c = b.count Reg.PRT_LANE_LOS_CNT lane := ⟨_, rfl⟩
    have hcount : RegsOnly ([Reg.PRT_LANE_LOS_CNT].map fun g => (g, lane)) b c :=
      hc ▸ RegsOnly.count (RegsOnly.refl _ b) (by simp)
    have hcnt : c.rd Reg.PRT_LANE_LOS_CNT lane = (s.rd Reg.PRT_LANE_LOS_CNT lane + 1) % 2 ^ 32 := by
      rw [hc, State.count_rd_same', RegsOnly.field (l := [Reg.PRT_LANE_LOS]) hlosOnly (by decide)]
      rfl
    have hclos : c.rdBit Reg.PRT_LANE_LOS lane = true := (hcount.fieldBit (by decide)).trans hlos
    obtain ⟨hlol, hlock, hhiber, honly⟩ := State.maskBelow_spec c lane 3
    show State.rdBit (State.maskBelow _ lane 3) _ _ = _ ∧ (_ → State.rd (State.maskBelow _ lane 3) _ _ = _ ∧ _ ∧ _ ∧ _)
    rw [← hc]
    exact ⟨(honly.fieldBit (by decide)).trans hclos, fun _ =>
      ⟨(honly.field (by decide)).trans hcnt, hlol (by decide), hlock (by decide), hhiber⟩⟩

theorem completes_laneLol {set : Bool} (hon : s.laneOn lane = true)
    (hready : set = true → s.rdBit Reg.PRT_LANE_READY lane = true ∧ s.rdBit Reg.PRT_LANE_LOS lane = false) :
    Completes (.laneLol dt lane set) s fun t =>
      t.rdBit Reg.PRT_LANE_LOL lane = set ∧
      (set = true → t.rdBit Reg.PRT_LANE_NO_BLOCK_LOCK lane = false ∧ t.rdBit Reg.PRT_LANE_HIBER lane = false) := by
  let b := (s.elapse dt).laneFlag Reg.PRT_LANE_LOL Ev.LANE_LOL lane set
  have hl : lane < 80 := State.laneOn_lt hon
  obtain ⟨hlol, -, -⟩ := State.laneFlag_spec (s.elapse dt) (f := Reg.PRT_LANE_LOL) rfl Ev.LANE_LOL lane set
  have hexec : exec (.laneLol dt lane set) s = .next ((if set then b.maskBelow lane 2 else b).laneFollow lane) := by
    refine congrArg Host.Outcome.next (if_neg ?_)
    show ¬ (!s.laneOn lane || (set && (!s.rdBit Reg.PRT_LANE_READY lane || s.rdBit Reg.PRT_LANE_LOS lane))) = true
    rw [hon]
    cases set with
    | false => exact Bool.false_ne_true
    | true =>
      rw [(hready rfl).1, (hready rfl).2]
      decide
  refine ⟨_, hexec, ?_⟩
  simp (disch := first | exact hl | decide) only [State.laneFollow_rdBit]
  cases set with
  | false => exact ⟨hlol, fun h => absurd h (by decide)⟩
  | true =>
    obtain ⟨-, hlock, hhiber, -⟩ := State.maskBelow_spec b lane 2
    refine ⟨?_, fun _ => ⟨hlock (by decide), hhiber⟩⟩
    -- two levels of masking leave LOL itself
    have hkeep : (b.maskBelow lane 2).rdBit Reg.PRT_LANE_LOL lane = b.rdBit Reg.PRT_LANE_LOL lane := by
      let c := b.laneFlag Reg.PRT_LANE_NO_BLOCK_LOCK Ev.LANE_BLOCK_LOCK lane false
      obtain ⟨-, hc, -⟩ := State.laneFlag_spec b (f := Reg.PRT_LANE_NO_BLOCK_LOCK) rfl Ev.LANE_BLOCK_LOCK lane false
      obtain ⟨-, hd, -⟩ := State.laneFlag_spec c (f := Reg.PRT_LANE_HIBER) rfl Ev.LANE_HIBER lane false
      exact (RegsOnly.fieldBit (l := [Reg.PRT_LANE_HIBER]) hd (by decide)).trans
        (RegsOnly.fieldBit (l := [Reg.PRT_LANE_NO_BLOCK_LOCK]) hc (by decide))
    exact hkeep.trans hlol

theorem completes_laneBlockLock {lost : Bool} (hl : lane < 80) (hpcs : lost = true → s.lanePcs lane = true) :
    Completes (.laneBlockLock dt lane lost) s fun t =>
      t.rdBit Reg.PRT_LANE_NO_BLOCK_LOCK lane = lost ∧ (lost = true → t.rdBit Reg.PRT_LANE_HIBER lane = false) := by
  let b := (s.elapse dt).laneFlag Reg.PRT_LANE_NO_BLOCK_LOCK Ev.LANE_BLOCK_LOCK lane lost
  obtain ⟨hlock, -, -⟩ := State.laneFlag_spec (s.elapse dt) (f := Reg.PRT_LANE_NO_BLOCK_LOCK) rfl Ev.LANE_BLOCK_LOCK lane lost
  have hexec : exec (.laneBlockLock dt lane lost) s = .next ((if lost then b.maskBelow lane 1 else b).laneFollow lane) := by
    refine congrArg Host.Outcome.next (if_neg ?_)
    show ¬ (lost && !s.lanePcs lane) = true
    cases lost with
    | false => exact Bool.false_ne_true
    | true =>
      rw [hpcs rfl]
      decide
  refine ⟨_, hexec, ?_⟩
  simp (disch := first | exact hl | decide) only [State.laneFollow_rdBit]
  cases lost with
  | false => exact ⟨hlock, fun h => absurd h (by decide)⟩
  | true =>
    obtain ⟨hhiber, honly, -⟩ := State.laneFlag_spec b (f := Reg.PRT_LANE_HIBER) rfl Ev.LANE_HIBER lane false
    exact ⟨(RegsOnly.fieldBit (l := [Reg.PRT_LANE_HIBER]) honly (by decide)).trans hlock, fun _ => hhiber⟩

theorem completes_laneHiber {set : Bool}
    (hpcs : set = true → s.lanePcs lane = true ∧ s.rdBit Reg.PRT_LANE_NO_BLOCK_LOCK lane = false) :
    Completes (.laneHiber dt lane set) s fun t =>
      t.rdBit Reg.PRT_LANE_HIBER lane = set ∧
      (s.rdBit Reg.PRT_LANE_HIBER lane ≠ set → Raised t Ev.LANE_HIBER (srcLane lane) [(2, lane), (1, ofBool set)]) ∧
      RegsOnly [(Reg.PRT_LANE_HIBER, lane)] s t := by
  obtain ⟨hhiber, honly, hraised⟩ := State.laneFlag_spec (s.elapse dt) (f := Reg.PRT_LANE_HIBER) rfl Ev.LANE_HIBER lane set
  have hexec : exec (.laneHiber dt lane set) s = .next ((s.elapse dt).laneFlag Reg.PRT_LANE_HIBER Ev.LANE_HIBER lane set) := by
    refine congrArg Host.Outcome.next (if_neg ?_)
    show ¬ (set && (!s.lanePcs lane || s.rdBit Reg.PRT_LANE_NO_BLOCK_LOCK lane)) = true
    cases set with
    | false => exact Bool.false_ne_true
    | true =>
      rw [(hpcs rfl).1, (hpcs rfl).2]
      decide
  exact ⟨_, hexec, hhiber, hraised, honly⟩

/-! ### Eyes (R159, R161, R162) -/

theorem State.adaptLane_regs (s : State) (l : Nat) : (s.adaptLane l).regs = s.regs :=
  State.adaptLane_frame (pt := .regs) (by decide) (Part.same_refl _ s)

theorem State.setEye_spec (s : State) (l w h : Nat) :
    (s.setEye l w h).rd Reg.PRT_LANE_EYE_W l = w % 2 ^ Reg.PRT_LANE_EYE_W.width ∧
    (s.setEye l w h).rd Reg.PRT_LANE_EYE_H l = h % 2 ^ Reg.PRT_LANE_EYE_H.width ∧
    RegsOnly [(Reg.PRT_LANE_EYE_W, l), (Reg.PRT_LANE_EYE_H, l)] s (s.setEye l w h) := by
  have hrd (f : Fld) (i : Nat) : (s.setEye l w h).rd f i = ((s.wr Reg.PRT_LANE_EYE_W l w).wr Reg.PRT_LANE_EYE_H l h).rd f i := rfl
  rw [hrd, hrd]
  refine ⟨?_, State.wr_rd_same .., RegsOnly.upd (((RegsOnly.refl _ s).wr _ _ _ (by simp)).wr _ _ _ (by simp))⟩
  rw [State.wr_rd_field (by decide), State.wr_rd_same]

theorem completes_laneReady {w h : Nat} (hon : s.laneOn lane = true) (hready : s.rdBit Reg.PRT_LANE_READY lane = false) :
    Completes (.laneReady dt lane w h) s fun t =>
      t.rd Reg.PRT_LANE_READY lane = 1 ∧ t.rd Reg.PRT_LANE_EYE_W lane = w % 2 ^ Reg.PRT_LANE_EYE_W.width ∧
      t.rd Reg.PRT_LANE_EYE_H lane = h % 2 ^ Reg.PRT_LANE_EYE_H.width := by
  let e := ((s.elapse dt).adaptLane lane).setEye lane w h
  have hl : lane < 80 := State.laneOn_lt hon
  have hexec : exec (.laneReady dt lane w h) s = .next (((e.wrBit Reg.PRT_LANE_READY lane true).raise Ev.LANE_READY (srcLane lane)
      [(2, lane), (1, w), (1, h)]).timReview) := by
    refine congrArg Host.Outcome.next (if_neg ?_)
    show ¬ (!s.laneOn lane || s.rdBit Reg.PRT_LANE_READY lane) = true
    rw [hon, hready]
    decide
  obtain ⟨hw, hh, -⟩ := State.setEye_spec ((s.elapse dt).adaptLane lane) lane w h
  have hkeep {f : Fld} (hf : f.within 5 80 = true) := (State.timReview_blocks ((e.wrBit Reg.PRT_LANE_READY lane true).raise Ev.LANE_READY
    (srcLane lane) [(2, lane), (1, w), (1, h)])).field hl hf (by decide)
  refine ⟨_, hexec, (hkeep (by decide)).trans ?_, (hkeep (by decide)).trans ?_, (hkeep (by decide)).trans ?_⟩
  · rw [State.raise_rd, State.wrBit_rd_same]
    rfl
  · rw [State.raise_rd, State.wrBit_eq, State.wr_rd_field (by decide)]
    exact hw
  · rw [State.raise_rd, State.wrBit_eq, State.wr_rd_field (by decide)]
    exact hh

/-- The fields that a measurement of an eye writes. -/
def eyeFields (l : Nat) : List (Fld × Nat) := [(Reg.PRT_LANE_EYE_W, l), (Reg.PRT_LANE_EYE_H, l), (Reg.PRT_LANE_FREQ, l)]

theorem State.measureEye_regsOnly (s : State) (meas : List EyeMeas) (l : Nat) : RegsOnly (eyeFields l) s (s.measureEye meas l) := by
  have heye (w h : Nat) : RegsOnly (eyeFields l) s ((s.adaptLane l).setEye l w h) :=
    (regsOnly_of_regs (State.adaptLane_regs s l) _).trans ((State.setEye_spec (s.adaptLane l) l w h).2.2.mono (by simp [eyeFields]))
  unfold State.measureEye
  split
  · exact RegsOnly.wrInt (heye _ _) (by simp [eyeFields])
  · exact (heye _ _).draw.draw

theorem State.measureEye_own (s : State) {meas : List EyeMeas} {l : Nat} {m : EyeMeas}
    (hm : meas.find? (fun e => e.lane == l) = some m) :
    (s.measureEye meas l).rd Reg.PRT_LANE_EYE_W l = (smallestEye m).1 % 2 ^ Reg.PRT_LANE_EYE_W.width ∧
    (s.measureEye meas l).rd Reg.PRT_LANE_EYE_H l = (smallestEye m).2 % 2 ^ Reg.PRT_LANE_EYE_H.width ∧
    (s.measureEye meas l).rd Reg.PRT_LANE_FREQ l = pattern Reg.PRT_LANE_FREQ.width m.freq := by
  obtain ⟨hw, hh, -⟩ := State.setEye_spec (s.adaptLane l) l (smallestEye m).1 (smallestEye m).2
  unfold State.measureEye
  rw [hm]
  dsimp only
  rw [State.wrInt_eq, State.wr_rd_field (by decide), State.wr_rd_field (by decide), State.wr_rd_same]
  exact ⟨hw, hh, pattern_mod _ _⟩

/-- Other lanes' fields are apart from a lane's. -/
theorem eyeFields_apart {l m : Nat} (hne : m ≠ l) {f : Fld}
    (hf : f ∈ [Reg.PRT_LANE_EYE_W, Reg.PRT_LANE_EYE_H, Reg.PRT_LANE_FREQ]) : ∀ e ∈ eyeFields m, e.1.key e.2 ≠ f.key l := by
  intro e he
  simp only [eyeFields, List.mem_cons, List.not_mem_nil, or_false] at he hf
  rcases he with rfl | rfl | rfl <;> rcases hf with rfl | rfl | rfl <;>
    simp only [Fld.key, Reg.PRT_LANE_EYE_W, Reg.PRT_LANE_EYE_H, Reg.PRT_LANE_FREQ] <;> omega

theorem State.measureEye_fold {meas : List EyeMeas} (l : List Nat) : ∀ a : State, (∀ n ∈ l, n < 80) → l.Nodup →
    RegsOnly (l.flatMap eyeFields) a (l.foldl (fun a n => a.measureEye meas n) a) ∧
    (l.foldl (fun a n => a.measureEye meas n) a).time = a.time ∧
    (∀ n m, n ∈ l → meas.find? (fun e => e.lane == n) = some m →
      (l.foldl (fun a n => a.measureEye meas n) a).rd Reg.PRT_LANE_EYE_W n = (smallestEye m).1 % 2 ^ Reg.PRT_LANE_EYE_W.width ∧
      (l.foldl (fun a n => a.measureEye meas n) a).rd Reg.PRT_LANE_EYE_H n = (smallestEye m).2 % 2 ^ Reg.PRT_LANE_EYE_H.width ∧
      (l.foldl (fun a n => a.measureEye meas n) a).rd Reg.PRT_LANE_FREQ n = pattern Reg.PRT_LANE_FREQ.width m.freq) := by
  induction l with
  | nil => exact fun a _ _ => ⟨RegsOnly.refl _ a, rfl, fun _ _ h => absurd h List.not_mem_nil⟩
  | cons k rest ih =>
    intro a hlt hnodup
    obtain ⟨hnot, hrest⟩ := List.nodup_cons.mp hnodup
    have hlt' : ∀ n ∈ rest, n < 80 := fun n hn => hlt n (List.mem_cons_of_mem _ hn)
    obtain ⟨hregs, htime, hown⟩ := ih (a.measureEye meas k) hlt' hrest
    have htime1 : Part.clock.same a (a.measureEye meas k) := State.measureEye_frame (by decide) (Part.same_refl _ a)
    refine ⟨?_, htime.trans htime1.1, fun n m hn hm => ?_⟩
    · refine ((State.measureEye_regsOnly a meas k).mono fun e he => ?_).trans (hregs.mono fun e he => ?_)
      · exact List.mem_flatMap.mpr ⟨k, List.mem_cons_self .., he⟩
      · obtain ⟨n, hn, he⟩ := List.mem_flatMap.mp he
        exact List.mem_flatMap.mpr ⟨n, List.mem_cons_of_mem _ hn, he⟩
    · by_cases hin : n ∈ rest
      · exact hown n m hin hm
      · obtain rfl : n = k := (List.mem_cons.mp hn).resolve_right hin
        have hkeep {f : Fld} (hf : f ∈ [Reg.PRT_LANE_EYE_W, Reg.PRT_LANE_EYE_H, Reg.PRT_LANE_FREQ]) :
            (rest.foldl (fun a n => a.measureEye meas n) (a.measureEye meas n)).rd f n = (a.measureEye meas n).rd f n := by
          refine hregs f n fun e he => ?_
          obtain ⟨j, hj, he⟩ := List.mem_flatMap.mp he
          exact eyeFields_apart (fun h : j = n => hin (h ▸ hj)) hf e he
        obtain ⟨hw, hh, hf⟩ := State.measureEye_own a hm
        exact ⟨(hkeep (by simp)).trans hw, (hkeep (by simp)).trans hh, (hkeep (by simp)).trans hf⟩

/-- The least of a list that has a least element. -/
theorem foldl_min_eq {l : List Nat} {v : Nat} (hmem : v ∈ l) (hmin : ∀ x ∈ l, v ≤ x) (d : Nat) : l.foldl min (l.headD d) = v := by
  have hle (l : List Nat) : ∀ a, (∀ x ∈ l, l.foldl min a ≤ x) ∧ l.foldl min a ≤ a := by
    induction l with
    | nil => exact fun a => ⟨fun _ h => absurd h List.not_mem_nil, Nat.le_refl a⟩
    | cons y rest ih =>
      intro a
      obtain ⟨hrest, hstart⟩ := ih (min a y)
      refine ⟨fun x hx => ?_, hstart.trans (min_le_left a y)⟩
      rcases List.mem_cons.mp hx with rfl | hx
      · exact hstart.trans (min_le_right a x)
      · exact hrest x hx
  have hge (l : List Nat) : ∀ a, v ≤ a → (∀ x ∈ l, v ≤ x) → v ≤ l.foldl min a := by
    induction l with
    | nil => exact fun a h _ => h
    | cons y rest ih =>
      exact fun a ha h => ih (min a y) (le_min ha (h y (List.mem_cons_self ..))) fun x hx => h x (List.mem_cons_of_mem _ hx)
  refine Nat.le_antisymm ((hle l _).1 v hmem) (hge l _ ?_ hmin)
  cases l with
  | nil => exact absurd hmem List.not_mem_nil
  | cons y rest => exact hmin y (List.mem_cons_self ..)

theorem State.readyLanes_lt {l : Nat} (h : l ∈ s.readyLanes) : l < 80 := by
  unfold State.readyLanes at h
  exact List.mem_range.mp (List.mem_filter.mp h).1

theorem completes_eyeMeasure {meas : List EyeMeas} {m : EyeMeas} (hready : lane ∈ s.readyLanes)
    (hfirst : ∀ l ∈ s.readyLanes, (s.elapse dt).eyeDue lane ≤ (s.elapse dt).eyeDue l)
    (hm : meas.find? (fun e => e.lane == lane) = some m) :
    Completes (.eyeMeasure dt meas) s fun t =>
      t.time = max (s.time + dt) ((s.elapse dt).eyeDue lane) ∧
      t.rd Reg.PRT_LANE_EYE_W lane = (smallestEye m).1 % 2 ^ Reg.PRT_LANE_EYE_W.width ∧
      t.rd Reg.PRT_LANE_EYE_H lane = (smallestEye m).2 % 2 ^ Reg.PRT_LANE_EYE_H.width ∧
      t.rd Reg.PRT_LANE_FREQ lane = pattern Reg.PRT_LANE_FREQ.width m.freq ∧
      RegsOnly (s.readyLanes.flatMap fun l =>
        [(Reg.PRT_LANE_EYE_W, l), (Reg.PRT_LANE_EYE_H, l), (Reg.PRT_LANE_FREQ, l)]) s t := by
  let a := s.elapse dt
  let due := (s.readyLanes.map a.eyeDue).foldl min ((s.readyLanes.map a.eyeDue).headD a.time)
  let b := a.elapse (due - a.time)
  let l := s.readyLanes.filter fun n => decide (b.eyeDue n ≤ b.time)
  have hexec : exec (.eyeMeasure dt meas) s = .next (l.foldl (fun a n => a.measureEye meas n) b) := rfl
  have hdue : due = a.eyeDue lane := by
    refine foldl_min_eq (List.mem_map.mpr ⟨lane, hready, rfl⟩) (fun x hx => ?_) _
    obtain ⟨n, hn, rfl⟩ := List.mem_map.mp hx
    exact hfirst n hn
  have htime : b.time = max (s.time + dt) (a.eyeDue lane) := by
    show s.time + dt + (due - (s.time + dt)) = _
    rw [hdue]
    omega
  have hin : lane ∈ l := by
    refine List.mem_filter.mpr ⟨hready, decide_eq_true ?_⟩
    show b.eyeDue lane ≤ b.time
    rw [htime]
    unfold State.eyeDue
    show (match tfind s.prt.eyeAt lane with | none => b.time | some t => t + 100 * Config.msPos) ≤ _
    cases hat : tfind s.prt.eyeAt lane with
    | none => exact htime.le
    | some t =>
      refine le_max_of_le_right ?_
      show _ ≤ match tfind s.prt.eyeAt lane with | none => _ | some t => t + 100 * Config.msPos
      rw [hat]
  have hnodup : l.Nodup := List.Nodup.filter _ (List.Nodup.filter _ List.nodup_range)
  have hlt : ∀ n ∈ l, n < 80 := fun n hn => State.readyLanes_lt (List.mem_filter.mp hn).1
  obtain ⟨hregs, htime', hown⟩ := State.measureEye_fold (meas := meas) l b hlt hnodup
  obtain ⟨hw, hh, hf⟩ := hown lane m hin hm
  have hb : RegsOnly (s.readyLanes.flatMap eyeFields) s b := regsOnly_of_regs rfl _
  refine ⟨_, hexec, htime'.trans htime, hw, hh, hf, hb.trans (hregs.mono fun e he => ?_)⟩
  obtain ⟨n, hn, he⟩ := List.mem_flatMap.mp he
  exact List.mem_flatMap.mpr ⟨n, (List.mem_filter.mp hn).1, he⟩

/-! ### Test patterns (R164, R165, R167) -/

theorem completes_prbsLock {locked : Bool} {errors : Nat} {e : LaneTest} (htest : tfind s.prt.tests lane = some e)
    (hcheck : bitOf e.flags 1 = true) :
    Completes (.prbsLock dt lane locked errors) s fun t =>
      t.rdBit Reg.PRT_LANE_PRBS_LOCK lane = locked ∧
      t.rd Reg.PRT_LANE_PRBS_ERR_CNT lane =
        (if s.rdBit Reg.PRT_LANE_PRBS_LOCK lane then (s.rd Reg.PRT_LANE_PRBS_ERR_CNT lane + errors) % 2 ^ 32
          else s.rd Reg.PRT_LANE_PRBS_ERR_CNT lane) ∧
      (s.rdBit Reg.PRT_LANE_PRBS_LOCK lane ≠ locked →
        Raised t Ev.PRBS_LOCK (srcLane lane) [(2, lane), (1, ofBool locked)]) ∧
      RegsOnly [(Reg.PRT_LANE_PRBS_LOCK, lane), (Reg.PRT_LANE_PRBS_ERR_CNT, lane)] s t := by
  let b := if s.rdBit Reg.PRT_LANE_PRBS_LOCK lane then (s.elapse dt).countBy Reg.PRT_LANE_PRBS_ERR_CNT lane errors else s.elapse dt
  have hexec : exec (.prbsLock dt lane locked errors) s = .next (b.prbsState lane locked) := by
    show execPrbsLock dt lane locked errors s = _
    have htest' : tfind (s.elapse dt).prt.tests lane = some e := htest
    unfold execPrbsLock
    dsimp only
    rw [htest']
    dsimp only
    rw [if_neg (by rw [hcheck]; decide)]
    rfl
  have hb : RegsOnly [(Reg.PRT_LANE_PRBS_ERR_CNT, lane)] s b :=
    RegsOnly.ite ((RegsOnly.of_elapse _ s dt).wr _ _ _ (by simp)) (RegsOnly.of_elapse _ s dt)
  have herr : b.rd Reg.PRT_LANE_PRBS_ERR_CNT lane = if s.rdBit Reg.PRT_LANE_PRBS_LOCK lane then
      (s.rd Reg.PRT_LANE_PRBS_ERR_CNT lane + errors) % 2 ^ 32 else s.rd Reg.PRT_LANE_PRBS_ERR_CNT lane := by
    show State.rd (if _ then _ else _) _ _ = _
    split
    · exact State.wr_rd_same ..
    · rfl
  have hlock : b.rdBit Reg.PRT_LANE_PRBS_LOCK lane = s.rdBit Reg.PRT_LANE_PRBS_LOCK lane :=
    RegsOnly.fieldBit (l := [Reg.PRT_LANE_PRBS_ERR_CNT]) hb (by decide)
  obtain ⟨hstate, honly, hraised⟩ := State.laneFlag_spec b (f := Reg.PRT_LANE_PRBS_LOCK) rfl Ev.PRBS_LOCK lane locked
  rw [hlock] at hraised
  exact ⟨_, hexec, hstate, (RegsOnly.field (l := [Reg.PRT_LANE_PRBS_LOCK]) honly (by decide)).trans herr, hraised,
    (hb.mono (by simp)).trans (honly.mono (by simp))⟩

theorem completes_prtTest {h : HostRef} {ptn flags : Nat} (hadm : Admitted s dt h (laneDomain lane) Op.PRT_TEST) (hl : lane ≤ 79)
    (hptn : ptn ≤ 4) (hflags : (bitOf flags 2 && bitOf flags 3) = false) (hbusy : s.laneBusy lane true = false)
    (hon : s.laneOn lane = true) :
    Completes (.prtTest dt h lane ptn flags) s fun t =>
      t.rd Reg.PRT_LANE_TESTING lane = (if ptn = 0 ∧ flags = 0 then 0 else 1) ∧
      (¬(ptn = 0 ∧ flags = 0) → tfind t.prt.tests lane = some { ptn := ptn, flags := flags % 16 }) ∧
      (ptn = 0 ∧ flags = 0 → tsorted s.prt.tests = true → tfind t.prt.tests lane = none) ∧
      t.rdBit Reg.PRT_LANE_PRBS_LOCK lane = false ∧ Answered t h Op.PRT_TEST 0 0 [] ∧
      RegsOnly [(Reg.PRT_LANE_TESTING, lane), (Reg.PRT_LANE_PRBS_LOCK, lane)] s t := by
  let b := (s.elapse dt).prbsState lane false
  obtain ⟨hlock, honly, -⟩ := State.laneFlag_spec (s.elapse dt) (f := Reg.PRT_LANE_PRBS_LOCK) rfl Ev.PRBS_LOCK lane false
  have hregs : RegsOnly [(Reg.PRT_LANE_TESTING, lane), (Reg.PRT_LANE_PRBS_LOCK, lane)] s b :=
    (RegsOnly.of_elapse _ s dt).trans (honly.mono (by simp))
  have hprt : b.prt = (s.elapse dt).prt := State.laneFlag_frame (pt := .prt) (by decide) (Part.same_refl _ (s.elapse dt))
  refine completes_of_admitted rfl hadm ?_
  dsimp only
  have hbusy' : (s.elapse dt).laneBusy lane true = false := hbusy
  have hon' : (s.elapse dt).laneOn lane = true := hon
  rw [if_neg (by omega), if_neg (by rw [hflags]; simpa using hptn), hbusy', if_neg (by decide), hon', if_neg (by decide)]
  by_cases hoff : ptn = 0 ∧ flags = 0
  · rw [if_pos (by simp [hoff]), if_pos hoff]
    refine ⟨?_, fun h => absurd hoff h, fun _ hsorted => ?_, ?_, State.done_answered .., RegsOnly.done (RegsOnly.wrBit (RegsOnly.upd hregs) (by simp)) _ _⟩
    · rw [State.done_rd, State.wrBit_rd_same]
      rfl
    · show tfind (tdel b.prt.tests lane) lane = none
      rw [hprt]
      exact (tfind_tdel _ _ _ hsorted).trans (if_pos rfl)
    · rw [State.done_rdBit, State.wrBit_eq, State.rdBit, State.wr_rd_field (by decide)]
      exact hlock
  · rw [if_neg (by simpa using hoff), if_neg hoff]
    refine ⟨?_, fun _ => ?_, fun h => absurd h hoff, ?_, State.done_answered .., RegsOnly.done (RegsOnly.wrBit (RegsOnly.upd hregs) (by simp)) _ _⟩
    · rw [State.done_rd, State.wrBit_rd_same]
      rfl
    · exact tfind_tset_same ..
    · rw [State.done_rdBit, State.wrBit_eq, State.rdBit, State.wr_rd_field (by decide)]
      exact hlock

theorem completes_prtAdaptRestart {h : HostRef} (hadm : Admitted s dt h (laneDomain lane) Op.PRT_ADAPT_RESTART) (hl : lane ≤ 79)
    (hbusy : s.laneBusy lane false = false) (hon : s.laneOn lane = true) :
    Completes (.prtAdaptRestart dt h lane) s fun t =>
      t.rd Reg.PRT_LANE_READY lane = 0 ∧ t.rdBit Reg.PRT_LANE_LOL lane = false ∧
      t.rdBit Reg.PRT_LANE_NO_BLOCK_LOCK lane = false ∧ t.rdBit Reg.PRT_LANE_HIBER lane = false ∧
      Answered t h Op.PRT_ADAPT_RESTART 0 0 [] := by
  obtain ⟨hlol, hlock, hhiber, -⟩ := State.maskBelow_spec (s.elapse dt) lane 3
  refine completes_of_admitted rfl hadm ?_
  have hbusy' : (s.elapse dt).laneBusy lane false = false := hbusy
  have hon' : (s.elapse dt).laneOn lane = true := hon
  have hlane : lane < 80 := by omega
  rw [if_neg (by omega), hbusy', if_neg (by decide), hon', if_neg (by decide)]
  simp (disch := first | exact hlane | decide) only [State.done_rd, State.done_rdBit, State.laneFollow_rd, State.laneFollow_rdBit]
  have hkeep {f : Fld} (hf : f.stride = 0x40 ∧ f.base * 32 + f.lo ≠ 0x281010 * 32 + 6) :
      (((s.elapse dt).maskBelow lane 3).wrBit Reg.PRT_LANE_READY lane false).rdBit f lane = ((s.elapse dt).maskBelow lane 3).rdBit f lane :=
    congrArg (· != 0) (State.wr_rd_field hf _ lane _)
  refine ⟨?_, (hkeep (by decide)).trans (hlol (by decide)), (hkeep (by decide)).trans (hlock (by decide)),
    (hkeep (by decide)).trans hhiber, State.done_answered ..⟩
  rw [State.wrBit_rd_same]
  rfl

end

end Sys2Proof.Machine
end

section
/-! PROOFS. Tributary links (R145 to R150, R154 to R156), and the ports as a whole. -/

namespace Sys2Proof.Machine

/-! ### Tributary links (R145 to R150, R154 to R156) -/

/-- A field of a tributary link other than its circuits' LOS. -/
def Fld.ofLink (f : Fld) : Bool := f.within 5 32 && decide (f.stride = 0x40) && decide (f.base < 0x283010)

theorem Fld.ofLink_within {f : Fld} (hf : f.ofLink = true) : f.within 5 32 = true := by
  unfold Fld.ofLink at hf
  simp only [Bool.and_eq_true] at hf
  exact hf.1.1

theorem Fld.ofLink_apart {f : Fld} (hf : f.ofLink = true) (slot : Nat) :
    (chanLosFld slot).stride = f.stride ∧ (chanLosFld slot).base * 32 + (chanLosFld slot).lo ≠ f.base * 32 + f.lo := by
  unfold Fld.ofLink Fld.within at hf
  simp only [Bool.and_eq_true, decide_eq_true_eq] at hf
  obtain ⟨⟨⟨⟨-, -⟩, hlo⟩, hstride⟩, hbase⟩ := hf
  rw [hstride]
  unfold chanLosFld
  split <;> refine ⟨rfl, ?_⟩ <;>
    simp only [Reg.PRT_TRB_CHAN_LOS0, Reg.PRT_TRB_CHAN_LOS1, Reg.PRT_TRB_CHAN_LOS2, Reg.PRT_TRB_CHAN_LOS3] <;> omega

section
variable {s : State} {dt lane : Nat}

theorem State.trbOn_lt (h : s.trbOn lane = true) : lane < 32 := by
  unfold State.trbOn at h
  simp only [Bool.and_eq_true, decide_eq_true_eq] at h
  exact h.1.1.1

theorem State.circuitLos_rd (s : State) (hl : lane < 32) {f : Fld} (hf : f.ofLink = true) (c slot : Nat) :
    (s.circuitLos lane c slot).rd f lane = s.rd f lane := by
  have hframer (b : State) (k : Nat) (los stop : Bool) : (b.framerLos k los stop).rd f lane = b.rd f lane :=
    (State.framerLos_blocks (BlocksOnly.refl _ b) k los stop).field hl (Fld.ofLink_within hf) (by decide)
  unfold State.circuitLos
  dsimp only
  split
  · rfl
  · rw [hframer, State.raise_rd]
    exact State.wr_rd_field ((Fld.ofLink_apart hf slot).imp Eq.symm Ne.symm) _ _ _

theorem State.trbFollow_rd (s : State) (hl : lane < 32) {f : Fld} (hf : f.ofLink = true) :
    (s.trbFollow lane).rd f lane = s.rd f lane := by
  have hfold (l : List (Nat × Ctx)) : ∀ a : State,
      (l.foldl (fun a e => a.circuitLos lane e.1 e.2.trbEnd.idx) a).rd f lane = a.rd f lane := by
    induction l with
    | nil => exact fun _ => rfl
    | cons e rest ih => exact fun a => (ih _).trans (State.circuitLos_rd a hl hf ..)
  have hreview (b : State) : b.timReview.rd f lane = b.rd f lane :=
    (State.timReview_blocks b).field hl (Fld.ofLink_within hf) (by decide)
  have hdefect (b : State) (c : Nat) (d r : Bool) : (b.pmDefect c d r).rd f lane = b.rd f lane :=
    congrArg (fun m => m.rd f lane) (State.pmDefect_regs b c d r)
  unfold State.trbFollow
  dsimp only
  rw [hreview]
  split
  · exact hfold _ s
  · rw [hdefect]
    exact hfold _ s

theorem State.trbFollow_rdBit (s : State) (hl : lane < 32) {f : Fld} (hf : f.ofLink = true) :
    (s.trbFollow lane).rdBit f lane = s.rdBit f lane := congrArg (· != 0) (State.trbFollow_rd s hl hf)

theorem State.trbFollow_prt (s : State) : (s.trbFollow lane).prt = s.prt :=
  State.trbFollow_frame (pt := .prt) (by decide) (Part.same_refl _ s)

theorem completes_laneLos_trb {set : Bool} (hon : s.trbOn lane = true) (hchange : s.rdBit Reg.PRT_TRB_LOS lane ≠ set) :
    Completes (.laneLos dt lane true set) s fun t =>
      t.rdBit Reg.PRT_TRB_LOS lane = set ∧ (set = true → t.rd Reg.PRT_TRB_ALIGN lane = 0) := by
  let b := ((s.elapse dt).wrBit Reg.PRT_TRB_LOS lane set).raise Ev.LANE_LOS (srcTrb lane) [(2, lane), (1, ofBool set)]
  have hl : lane < 32 := State.trbOn_lt hon
  have hexec : exec (.laneLos dt lane true set) s = .next ((if set then b.trbSearch lane 0 else b).trbFollow lane) := by
    refine congrArg Host.Outcome.next ((if_pos rfl).trans (if_neg ?_))
    show ¬ (!s.trbOn lane || decide (s.rdBit Reg.PRT_TRB_LOS lane = set)) = true
    rw [hon, decide_eq_false hchange]
    decide
  have hb : b.rdBit Reg.PRT_TRB_LOS lane = set := by
    show State.rdBit (State.raise _ _ _ _) _ _ = _
    rw [State.raise_rdBit, State.wrBit_rdBit_same _ rfl]
  refine ⟨_, hexec, ?_⟩
  show State.rdBit (State.trbFollow _ _) _ _ = _ ∧ (_ → State.rd (State.trbFollow _ _) _ _ = _)
  rw [State.trbFollow_rdBit _ hl (by decide), State.trbFollow_rd _ hl (by decide)]
  cases set with
  | false => exact ⟨hb, fun h => absurd h (by decide)⟩
  | true =>
    refine ⟨?_, fun _ => State.wr_rd_same ..⟩
    show State.rdBit (State.trbSearch b lane 0) _ _ = _
    unfold State.trbSearch State.rdBit
    rw [State.wr_rd_field (by decide)]
    exact hb

/-- How a frame's alignment word moves the search (Table 05-4). -/
def alignNext (now conf bad : Nat) (word : Bool) : Nat :=
  if word then (if now = 2 then 2 else if now = 0 then 1 else if conf = 0 then now else 2)
  else if now = 2 ∧ bad < 3 then 2 else 0

theorem State.trbSearch_regsOnly (s : State) (n k : Nat) : RegsOnly [(Reg.PRT_TRB_ALIGN, n)] s (s.trbSearch n k) :=
  RegsOnly.wr (RegsOnly.upd (RegsOnly.refl _ s)) _ _ _ (by simp)

theorem State.trbStep_regsOnly (s : State) (n off : Nat) (word : Bool) :
    RegsOnly [(Reg.PRT_TRB_ALIGN, n)] s (s.trbStep n off word) := by
  have hset (x : TrbSt) : RegsOnly [(Reg.PRT_TRB_ALIGN, n)] s (s.setTrb n x) := RegsOnly.refl _ s
  have hwr (x : TrbSt) (v : Nat) : RegsOnly [(Reg.PRT_TRB_ALIGN, n)] s ((s.setTrb n x).wr Reg.PRT_TRB_ALIGN n v) :=
    (hset x).wr _ _ _ (by simp)
  unfold State.trbStep
  dsimp only
  exact RegsOnly.ite (RegsOnly.ite (State.trbSearch_regsOnly s n _) (hset _)) (RegsOnly.ite (State.trbSearch_regsOnly s n _)
    (RegsOnly.ite (hwr _ _) (RegsOnly.ite (hset _) (hwr _ _))))

theorem State.trbSearch_align (s : State) (n k : Nat) : (s.trbSearch n k).rd Reg.PRT_TRB_ALIGN n = 0 := State.wr_rd_same ..

theorem State.trbStep_align (s : State) (n off : Nat) (word : Bool) :
    (s.trbStep n off word).rd Reg.PRT_TRB_ALIGN n = alignNext (s.rd Reg.PRT_TRB_ALIGN n) (s.trb n).conf (s.trb n).bad word := by
  unfold State.trbStep alignNext
  dsimp only
  by_cases hsync : s.rd Reg.PRT_TRB_ALIGN n = 2
  · rw [if_pos hsync]
    cases word with
    | true =>
      simp only [if_true, hsync, true_and]
      exact hsync
    | false =>
      simp only [Bool.false_eq_true, if_false, hsync, true_and]
      by_cases hbad : (s.trb n).bad < 3
      · rw [if_neg (by omega), if_pos hbad]
        exact hsync
      · rw [if_pos (by omega), if_neg hbad]
        exact State.trbSearch_align ..
  · rw [if_neg hsync]
    cases word with
    | false =>
      simp only [Bool.not_false, if_true, Bool.false_eq_true, if_false, hsync, false_and]
      exact State.trbSearch_align ..
    | true =>
      simp only [Bool.not_true, Bool.false_eq_true, if_false, if_true, hsync]
      split_ifs with hzero hconf
      · exact State.wr_rd_same ..
      · rfl
      · exact State.wr_rd_same ..

/-! ### The slots of a frame (R147, R150) -/

/-- The bits that a slot gives its circuit. -/
def slotBits (cap kind : Nat) (q : TrbSlot) : List Bool :=
  if cap < q.count then List.replicate (nominalCount kind) true else (q.data.flatMap msbBits).take q.count

/-- The circuit of a slot. -/
def State.slotCircuit (s : State) (n slot : Nat) : Option (Nat × Ctx) := (s.circuits n).find? fun e => e.2.trbEnd.idx == slot

theorem State.takeSlot_none {n slot : Nat} (q : TrbSlot) (h : s.slotCircuit n slot = none) : s.takeSlot n slot q = s := by
  unfold State.slotCircuit at h
  unfold State.takeSlot
  rw [h]

/-- What a slot changes: its circuit's bits, its own LOS and the count of overruns. -/
theorem State.takeSlot_some {n slot c : Nat} {x : Ctx} (q : TrbSlot) (h : s.slotCircuit n slot = some (c, x)) :
    (s.takeSlot n slot q).ovm = s.ovm ∧ RegsOnly [(Reg.PRT_TRB_OVERRUN_CNT, n)] s (s.takeSlot n slot q) ∧
    ((s.takeSlot n slot q).trb n).sendBad = (s.trb n).sendBad ∧
    (s.takeSlot n slot q).prt.given = tset s.prt.given c (slotBits (s.slotCapacity n) x.kind q) := by
  have hstep (y : TrbSt) (los : Bool) : (y.slotStep slot los).sendBad = y.sendBad := by
    unfold TrbSt.slotStep
    dsimp only
    split_ifs <;> rfl
  have hsend (los : Bool) : (tget {} (tset s.prt.trb n ((s.trb n).slotStep slot los)) n).sendBad = (s.trb n).sendBad := by
    rw [tget_tset, if_pos rfl, hstep]
  unfold State.slotCircuit at h
  unfold State.takeSlot
  rw [h]
  by_cases hover : s.slotCapacity n < q.count
  · rw [slotBits, if_pos hover]
    have hover' : (s.setTrb n ((s.trb n).slotStep slot q.los)).slotCapacity n < q.count := hover
    dsimp only
    rw [if_pos hover']
    exact ⟨rfl, RegsOnly.raise (RegsOnly.count (RegsOnly.upd (RegsOnly.refl _ s)) (by simp)) _ _ _, hsend _, rfl⟩
  · rw [slotBits, if_neg hover]
    have hover' : ¬ (s.setTrb n ((s.trb n).slotStep slot q.los)).slotCapacity n < q.count := hover
    dsimp only
    rw [if_neg hover']
    exact ⟨rfl, RegsOnly.refl _ s, hsend _, rfl⟩

theorem State.takeSlot_spec (s : State) (n slot : Nat) (q : TrbSlot) :
    (s.takeSlot n slot q).ovm = s.ovm ∧ RegsOnly [(Reg.PRT_TRB_OVERRUN_CNT, n)] s (s.takeSlot n slot q) ∧
    ((s.takeSlot n slot q).trb n).sendBad = (s.trb n).sendBad ∧
    (∀ c, (∀ y, s.slotCircuit n slot ≠ some (c, y)) → tfind (s.takeSlot n slot q).prt.given c = tfind s.prt.given c) ∧
    ∀ c x, s.slotCircuit n slot = some (c, x) →
      tfind (s.takeSlot n slot q).prt.given c = some (slotBits (s.slotCapacity n) x.kind q) := by
  cases h : s.slotCircuit n slot with
  | none =>
    rw [State.takeSlot_none q h]
    exact ⟨rfl, RegsOnly.refl _ s, rfl, fun _ _ => rfl, fun c x hc => absurd hc (by simp)⟩
  | some e =>
    obtain ⟨c, x⟩ := e
    obtain ⟨hovm, hregs, hsend, hgiven⟩ := State.takeSlot_some q h
    refine ⟨hovm, hregs, hsend, fun d hd => ?_, fun d y hd => ?_⟩
    · rw [hgiven]
      exact tfind_tset_other _ _ _ _ fun hdc => hd x (by rw [hdc])
    · obtain ⟨rfl, rfl⟩ := Prod.mk.inj (Option.some.inj hd)
      rw [hgiven, tfind_tset_same]

/-- What all slots of a frame from the `k`th on change. -/
theorem State.takeSlots_spec {n : Nat} (l : List TrbSlot) : ∀ (k : Nat) (s : State),
    RegsOnly [(Reg.PRT_TRB_OVERRUN_CNT, n)] s (s.takeSlots n k l) ∧
    ((s.takeSlots n k l).trb n).sendBad = (s.trb n).sendBad ∧
    (∀ c, (∀ slot y, s.slotCircuit n slot = some (c, y) → slot < k) →
      tfind (s.takeSlots n k l).prt.given c = tfind s.prt.given c) ∧
    ∀ j q c x, l[j]? = some q → s.slotCircuit n (k + j) = some (c, x) →
      (∀ slot y, s.slotCircuit n slot = some (c, y) → slot = k + j) →
      tfind (s.takeSlots n k l).prt.given c = some (slotBits (s.slotCapacity n) x.kind q) := by
  induction l with
  | nil => exact fun k s => ⟨RegsOnly.refl _ s, rfl, fun _ _ => rfl, fun j q c x h => absurd h (by simp)⟩
  | cons q0 rest ih =>
    intro k s
    obtain ⟨hovm, hregs, hsend, hother, hown⟩ := State.takeSlot_spec s n k q0
    obtain ⟨hregs', hsend', hother', hown'⟩ := ih (k + 1) (s.takeSlot n k q0)
    have hcap : (s.takeSlot n k q0).slotCapacity n = s.slotCapacity n :=
      congrArg (fun v => 8 * slotBytes v) (RegsOnly.field (l := [Reg.PRT_TRB_OVERRUN_CNT]) hregs (f := Reg.PRT_TRB_LAYOUT) (by decide))
    have hcircuit (slot : Nat) : (s.takeSlot n k q0).slotCircuit n slot = s.slotCircuit n slot := by
      unfold State.slotCircuit State.circuits
      rw [hovm]
    simp only [hcap, hcircuit] at hother' hown'
    refine ⟨hregs.trans hregs', hsend'.trans hsend, fun c hc => ?_, fun j q c x hj hslot huniq => ?_⟩
    · rw [← hother c fun y hy => absurd (hc k y hy) (Nat.lt_irrefl k)]
      exact hother' c fun slot y hy => Nat.lt_succ_of_lt (hc slot y hy)
    · cases j with
      | zero =>
        obtain rfl : q0 = q := Option.some.inj hj
        rw [← hown c x hslot]
        exact hother' c fun slot y hy => by rw [huniq slot y hy]; exact Nat.lt_succ_self k
      | succ j =>
        have hkj : k + (j + 1) = k + 1 + j := by omega
        rw [hkj] at hslot
        simp only [hkj] at huniq
        exact hown' j q c x hj hslot huniq

/-- A frame in SYNC (R155, R156, Table 05-4), on link `n` of a state. -/
theorem State.takeTrbFrame_spec (s : State) (n : Nat) (f : TrbFrame) :
    (s.takeTrbFrame n f).rd Reg.PRT_TRB_ALIGN n = s.rd Reg.PRT_TRB_ALIGN n ∧
    (s.takeTrbFrame n f).rdBit Reg.PRT_TRB_RLA n = f.rla ∧
    (s.takeTrbFrame n f).rd Reg.PRT_TRB_CRC_CNT n =
      (if f.crcOk then s.rd Reg.PRT_TRB_CRC_CNT n else (s.rd Reg.PRT_TRB_CRC_CNT n + 1) % 2 ^ 32) ∧
    ((s.takeTrbFrame n f).trb n).sendBad = !f.crcOk ∧
    (s.takeTrbFrame n f).rdBit Reg.PRT_TRB_MODE_MISMATCH n = (f.layout != s.trbLayout n) ∧
    ∀ slot q c x, f.layout = s.trbLayout n → f.slots[slot]? = some q → s.slotCircuit n slot = some (c, x) →
      (∀ slot2 y, s.slotCircuit n slot2 = some (c, y) → slot2 = slot) →
      tfind (s.takeTrbFrame n f).prt.given c = some (slotBits (s.slotCapacity n) x.kind q) := by
  unfold State.takeTrbFrame
  extract_lets s1 s2 link s3 s4 wrong s5
  have h1 : RegsOnly ([Reg.PRT_TRB_RLA].map fun g => (g, n)) s s1 := RegsOnly.wrBit (RegsOnly.refl _ s) (by simp)
  have h2 : RegsOnly ([Reg.PRT_TRB_CRC_CNT].map fun g => (g, n)) s1 s2 :=
    RegsOnly.ite (RegsOnly.refl _ s1) (RegsOnly.count (RegsOnly.refl _ s1) (by simp))
  have hcrc : s2.rd Reg.PRT_TRB_CRC_CNT n =
      if f.crcOk then s.rd Reg.PRT_TRB_CRC_CNT n else (s.rd Reg.PRT_TRB_CRC_CNT n + 1) % 2 ^ 32 := by
    rw [← h1.field (f := Reg.PRT_TRB_CRC_CNT) (by decide)]
    show State.rd (if f.crcOk then s1 else _) _ _ = _
    split
    · rfl
    · exact State.count_rd_same' s1 Reg.PRT_TRB_CRC_CNT n
  obtain ⟨h4, hprt, hovm⟩ : RegsOnly ([].map fun g => (g, n)) s2 s4 ∧ s4.prt = s3.prt ∧ s4.ovm = s.ovm := by
    have hovm3 : s3.ovm = s.ovm := by
      show State.ovm (if f.crcOk then s1 else _) = _
      split <;> rfl
    have hkeep (c ne fe : Nat) : RegsOnly [] s2 (s3.pmBlocks c ne fe) ∧ (s3.pmBlocks c ne fe).prt = s3.prt ∧
        (s3.pmBlocks c ne fe).ovm = s.ovm := by
      refine ⟨(RegsOnly.upd (RegsOnly.refl _ s2)).trans (regsOnly_of_regs (State.pmBlocks_regs s3 c ne fe) _),
        State.pmBlocks_frame (pt := .prt) (by decide) (Part.same_refl _ s3), ?_⟩
      exact (State.pmBlocks_frame (pt := .ovm) (by decide) (Part.same_refl _ s3)).trans hovm3
    simp only [s4]
    split
    · exact ⟨RegsOnly.upd (RegsOnly.refl _ s2), rfl, hovm3⟩
    · exact hkeep _ _ _
  have hlayout : s4.trbLayout n = s.trbLayout n :=
    (h4.field (by decide)).trans ((h2.field (by decide)).trans (h1.field (by decide)))
  have hcap : s4.slotCapacity n = s.slotCapacity n := congrArg (fun v => 8 * slotBytes v) hlayout
  have h5 : RegsOnly ([Reg.PRT_TRB_MODE_MISMATCH].map fun g => (g, n)) s4 s5 :=
    RegsOnly.wrBit (RegsOnly.raiseIf (RegsOnly.refl _ s4) _ _ _ _) (by simp)
  have hbit : s5.rdBit Reg.PRT_TRB_MODE_MISMATCH n = (f.layout != s.trbLayout n) := by
    rw [← hlayout]
    exact State.wrBit_rdBit_same _ rfl n wrong
  have hprt5 : s5.prt = s3.prt := (State.raiseIf_prt ..).trans hprt
  have hovm5 : s5.ovm = s.ovm := (State.raiseIf_ovm ..).trans hovm
  have hsend3 : (s3.trb n).sendBad = !f.crcOk := congrArg TrbSt.sendBad ((tget_tset ..).trans (if_pos rfl))
  have hsend5 : (s5.trb n).sendBad = !f.crcOk := by
    rw [← hsend3]
    unfold State.trb
    rw [hprt5]
  -- the slots write the count of overruns alone
  have hall (t : State) (ht : RegsOnly ([Reg.PRT_TRB_OVERRUN_CNT].map fun g => (g, n)) s5 t) :
      t.rd Reg.PRT_TRB_ALIGN n = s.rd Reg.PRT_TRB_ALIGN n ∧ t.rdBit Reg.PRT_TRB_RLA n = f.rla ∧
      t.rd Reg.PRT_TRB_CRC_CNT n =
        (if f.crcOk then s.rd Reg.PRT_TRB_CRC_CNT n else (s.rd Reg.PRT_TRB_CRC_CNT n + 1) % 2 ^ 32) ∧
      t.rdBit Reg.PRT_TRB_MODE_MISMATCH n = (f.layout != s.trbLayout n) := by
    refine ⟨?_, ?_, ?_, (ht.fieldBit (by decide)).trans hbit⟩
    · rw [ht.field (by decide), h5.field (by decide), h4.field (by decide), h2.field (by decide), h1.field (by decide)]
    · rw [ht.fieldBit (by decide), h5.fieldBit (by decide), h4.fieldBit (by decide), h2.fieldBit (by decide)]
      exact State.wrBit_rdBit_same s rfl n f.rla
    · rw [ht.field (by decide), h5.field (by decide), h4.field (by decide), hcrc]
  by_cases hwrong : wrong = true
  · rw [if_pos hwrong]
    obtain ⟨halign, hrla, hcnt, hmismatch⟩ := hall s5 (RegsOnly.refl _ s5)
    refine ⟨halign, hrla, hcnt, hsend5, hmismatch, fun slot q c x hsame => ?_⟩
    have hne : (f.layout != s4.trbLayout n) = true := hwrong
    rw [hlayout, hsame, bne_self_eq_false] at hne
    exact absurd hne (by decide)
  · rw [if_neg hwrong]
    obtain ⟨hregs, hsend, -, hown⟩ := State.takeSlots_spec (n := n) f.slots 0 s5
    obtain ⟨halign, hrla, hcnt, hmismatch⟩ := hall _ hregs
    have hcircuit (slot : Nat) : s5.slotCircuit n slot = s.slotCircuit n slot := by
      unfold State.slotCircuit State.circuits
      rw [hovm5]
    have hcap5 : s5.slotCapacity n = s.slotCapacity n :=
      (congrArg (fun v => 8 * slotBytes v) (h5.field (f := Reg.PRT_TRB_LAYOUT) (by decide))).trans hcap
    refine ⟨halign, hrla, hcnt, hsend.trans hsend5, hmismatch, fun slot q c x _ hq hslot huniq => ?_⟩
    have hgot := hown slot q c x hq (by rw [Nat.zero_add, hcircuit, hslot])
      fun slot2 y h2 => by rw [Nat.zero_add]; exact huniq slot2 y (by rw [← hcircuit, h2])
    rw [hgot, hcap5]

theorem State.trbStep_keeps_circuits (s : State) (n off : Nat) (word : Bool) : (s.trbStep n off word).ovm = s.ovm :=
  State.trbStep_frame (pt := .ovm) (by decide) (Part.same_refl _ s)

theorem completes_trbFrameRx {off : Nat} {bytes : List Nat} {f : TrbFrame} (hon : s.trbOn lane = true)
    (hlos : s.rdBit Reg.PRT_TRB_LOS lane = false) (hlooks : s.trbLooks lane off = true) (hf : f = readTrb (s.trbLayout lane) bytes) :
    Completes (.trbFrameRx dt lane off bytes) s fun t =>
      t.rd Reg.PRT_TRB_ALIGN lane =
        (if f.word then
          (if s.rd Reg.PRT_TRB_ALIGN lane = 2 then 2 else if s.rd Reg.PRT_TRB_ALIGN lane = 0 then 1
            else if (s.trb lane).conf = 0 then s.rd Reg.PRT_TRB_ALIGN lane else 2)
        else if s.rd Reg.PRT_TRB_ALIGN lane = 2 ∧ (s.trb lane).bad < 3 then 2 else 0) ∧
      (s.rd Reg.PRT_TRB_ALIGN lane = 2 → t.rd Reg.PRT_TRB_ALIGN lane = 2 → t.rdBit Reg.PRT_TRB_RLA lane = f.rla ∧
        t.rd Reg.PRT_TRB_CRC_CNT lane =
          (if f.crcOk then s.rd Reg.PRT_TRB_CRC_CNT lane else (s.rd Reg.PRT_TRB_CRC_CNT lane + 1) % 2 ^ 32) ∧
        (t.trb lane).sendBad = !f.crcOk ∧ t.rdBit Reg.PRT_TRB_MODE_MISMATCH lane = (f.layout != s.trbLayout lane) ∧
        ∀ slot q c x, f.layout = s.trbLayout lane → f.slots[slot]? = some q →
          (s.circuits lane).find? (fun e => e.2.trbEnd.idx == slot) = some (c, x) →
          (∀ slot2 y, (s.circuits lane).find? (fun e => e.2.trbEnd.idx == slot2) = some (c, y) → slot2 = slot) →
          tfind t.prt.given c = some (if s.slotCapacity lane < q.count then List.replicate (nominalCount x.kind) true
            else (q.data.flatMap msbBits).take q.count)) := by
  subst hf
  let f := readTrb (s.trbLayout lane) bytes
  let b := (s.elapse dt).trbStep lane off f.word
  have hl : lane < 32 := State.trbOn_lt hon
  have hexec : exec (.trbFrameRx dt lane off bytes) s =
      .next ((if b.rd Reg.PRT_TRB_ALIGN lane = 2 then b.takeTrbFrame lane f else b).trbFollow lane) := by
    refine congrArg Host.Outcome.next (if_neg ?_)
    show ¬ (!s.trbOn lane || s.rdBit Reg.PRT_TRB_LOS lane || !s.trbLooks lane off) = true
    rw [hon, hlos, hlooks]
    decide
  have hbalign : b.rd Reg.PRT_TRB_ALIGN lane = alignNext (s.rd Reg.PRT_TRB_ALIGN lane) (s.trb lane).conf (s.trb lane).bad f.word :=
    State.trbStep_align ..
  have hregs : RegsOnly ([Reg.PRT_TRB_ALIGN].map fun g => (g, lane)) (s.elapse dt) b :=
    State.trbStep_regsOnly (s.elapse dt) lane off f.word
  have hovm : b.ovm = s.ovm := State.trbStep_keeps_circuits ..
  obtain ⟨halign, hrla, hcnt, hsend, hmismatch, hslots⟩ := State.takeTrbFrame_spec b lane f
  refine ⟨_, hexec, ?_⟩
  show State.rd (State.trbFollow _ _) _ _ = _ ∧ (_ → State.rd (State.trbFollow _ _) _ _ = _ → State.rdBit (State.trbFollow _ _) _ _ = _ ∧
    State.rd (State.trbFollow _ _) _ _ = _ ∧ TrbSt.sendBad (tget {} (State.trbFollow _ _).prt.trb lane) = _ ∧
    State.rdBit (State.trbFollow _ _) _ _ = _ ∧ ∀ slot q c x, _ → _ → _ → _ → tfind (State.trbFollow _ _).prt.given c = _)
  simp (disch := first | exact hl | decide) only [State.trbFollow_rd, State.trbFollow_rdBit, State.trbFollow_prt]
  have hnow : b.rd Reg.PRT_TRB_ALIGN lane = _ := hbalign
  by_cases hsync : b.rd Reg.PRT_TRB_ALIGN lane = 2
  · rw [if_pos hsync]
    have hlayout : b.trbLayout lane = s.trbLayout lane := hregs.field (f := Reg.PRT_TRB_LAYOUT) (by decide)
    have hcap : b.slotCapacity lane = s.slotCapacity lane := congrArg (fun v => 8 * slotBytes v) hlayout
    have hcircuit (slot : Nat) : b.slotCircuit lane slot = (s.circuits lane).find? fun e => e.2.trbEnd.idx == slot := by
      unfold State.slotCircuit State.circuits
      rw [hovm]
    rw [hlayout] at hmismatch
    simp only [hlayout, hcap, hcircuit] at hslots
    refine ⟨halign.trans hbalign, fun _ _ => ⟨hrla, hcnt.trans ?_, hsend, hmismatch, hslots⟩⟩
    rw [hregs.field (f := Reg.PRT_TRB_CRC_CNT) (by decide)]
    rfl
  · rw [if_neg hsync]
    exact ⟨hbalign, fun _ h => absurd h hsync⟩

/-- LLA is declared or cleared, and a change is reported to what follows the link (R155). -/
def State.setLla (a : State) (n : Nat) (on : Bool) : State :=
  if a.rdBit Reg.PRT_TRB_LLA n = on then a
  else ((a.wrBit Reg.PRT_TRB_LLA n on).raise Ev.TRB_ALIGN (srcTrb n) [(2, n), (1, ofBool on)]).trbFollow n

theorem State.setLla_spec (a : State) (hl : lane < 32) (on : Bool) :
    (a.setLla lane on).rdBit Reg.PRT_TRB_LLA lane = on ∧ (a.setLla lane on).time = a.time := by
  unfold State.setLla
  split
  next h => exact ⟨h, rfl⟩
  next =>
    refine ⟨?_, (State.trbFollow_frame (pt := .clock) (by decide) (Part.same_refl _ _)).1⟩
    rw [State.trbFollow_rdBit _ hl (by decide), State.raise_rdBit, State.wrBit_rdBit_same _ rfl]

theorem completes_trbAlign {since : Nat} (hon : s.trbOn lane = true)
    (hsince : (if s.rd Reg.PRT_TRB_ALIGN lane = 2 then (s.trb lane).inSince else (s.trb lane).outSince) = some since) :
    Completes (.trbAlign dt lane) s fun t =>
      t.rdBit Reg.PRT_TRB_LLA lane = decide (s.rd Reg.PRT_TRB_ALIGN lane ≠ 2) ∧
      t.time = max (s.time + dt) (since + (if s.rd Reg.PRT_TRB_ALIGN lane = 2 then 1 else 3) * Config.msPos) := by
  have hl : lane < 32 := State.trbOn_lt hon
  have htime (k : Nat) : ((s.elapse dt).elapse (since + k - (s.elapse dt).time)).time = max (s.time + dt) (since + k) := by
    show s.time + dt + (since + k - (s.time + dt)) = _
    omega
  have hexec : exec (.trbAlign dt lane) s = .next (if s.rd Reg.PRT_TRB_ALIGN lane = 2
      then ((s.elapse dt).elapse (since + Config.msPos - (s.elapse dt).time)).setLla lane false
      else ((s.elapse dt).elapse (since + 3 * Config.msPos - (s.elapse dt).time)).setLla lane true) := by
    show execTrbAlign dt lane s = _
    unfold execTrbAlign
    dsimp only
    have hon' : (s.elapse dt).trbOn lane = true := hon
    have halign : (s.elapse dt).rd Reg.PRT_TRB_ALIGN lane = s.rd Reg.PRT_TRB_ALIGN lane := rfl
    have htrb : (s.elapse dt).trb lane = s.trb lane := rfl
    rw [if_neg (by rw [hon']; decide), halign, htrb]
    split
    next h =>
      rw [if_pos h] at hsince
      rw [hsince]
      rfl
    next h =>
      rw [if_neg h] at hsince
      rw [hsince]
      rfl
  refine ⟨_, hexec, ?_⟩
  by_cases hsync : s.rd Reg.PRT_TRB_ALIGN lane = 2
  · obtain ⟨hlla, hkeep⟩ := State.setLla_spec ((s.elapse dt).elapse (since + Config.msPos - (s.elapse dt).time)) hl false
    rw [if_pos hsync, if_pos hsync, Nat.one_mul]
    exact ⟨hlla.trans (decide_eq_false fun h => h hsync).symm, hkeep.trans (htime _)⟩
  · obtain ⟨hlla, hkeep⟩ := State.setLla_spec ((s.elapse dt).elapse (since + 3 * Config.msPos - (s.elapse dt).time)) hl true
    rw [if_neg hsync, if_neg hsync]
    exact ⟨hlla.trans (decide_eq_true hsync).symm, hkeep.trans (htime _)⟩

end

/-- Settles O31, clause by clause over the ports' events and the two commands of lanes. -/
theorem portCommandsTakeEffect : Obligations.PortCommandsTakeEffect := by
  unfold Obligations.PortCommandsTakeEffect
  intro s dt lane
  exact ⟨fun _ hon hchange => completes_laneLos_lane hon hchange,
    fun _ hon hchange => completes_laneLos_trb hon hchange,
    fun _ hon hready => completes_laneLol hon hready,
    fun _ hl hpcs => completes_laneBlockLock hl hpcs,
    fun _ hpcs => completes_laneHiber hpcs,
    fun _ _ hon hready => completes_laneReady hon hready,
    fun _ _ hready hfirst hm => completes_eyeMeasure hready hfirst hm,
    fun _ _ _ _ htest hcheck => completes_prbsLock htest hcheck,
    fun _ _ _ hon hlos hlooks hf => completes_trbFrameRx hon hlos hlooks hf,
    fun _ hon hsince => completes_trbAlign hon hsince,
    fun _ _ _ hadm hl hptn hflags hbusy hon => completes_prtTest hadm hl hptn hflags hbusy hon,
    fun _ hadm hl hbusy hon => completes_prtAdaptRestart hadm hl hbusy hon⟩

end Sys2Proof.Machine
end

section
/-! PROOFS. Ralale frames, the failure of alignment, tubs and the closing of records (R168 to R205). -/

namespace Sys2Proof.Machine

/-! ### The fields of a lane's receiver -/

/-- A field of a lane of the Ralale block. -/
def Fld.ofRlk (f : Fld) : Bool := f.within 6 48 && decide (f.stride = 0x80)

/-- Of the fields of a lane of the Ralale block, only the listed ones differ. -/
def RlkOnly (fs : List Fld) (l : Nat) (s t : State) : Prop :=
  ∀ f : Fld, f.ofRlk = true → (∀ g ∈ fs, g.base * 32 + g.lo ≠ f.base * 32 + f.lo) → t.rd f l = s.rd f l

section
variable {s t u : State} {l : Nat} {fs gs bs : List Fld}

theorem RlkOnly.refl (fs : List Fld) (l : Nat) (s : State) : RlkOnly fs l s s := fun _ _ _ => rfl

theorem RlkOnly.trans (h : RlkOnly fs l s t) (k : RlkOnly fs l t u) : RlkOnly fs l s u := fun f hf hne => (k f hf hne).trans (h f hf hne)

theorem RlkOnly.mono (h : RlkOnly fs l s t) (hsub : ∀ g ∈ fs, g ∈ gs) : RlkOnly gs l s t :=
  fun f hf hne => h f hf fun g hg => hne g (hsub g hg)

theorem RlkOnly.of_regs (h : t.regs = s.regs) : RlkOnly fs l s t := fun f _ _ => congrArg (fun m => m.rd f l) h

theorem RlkOnly.of_blocks {cs : List Nat} (hl : l < 48) (h : BlocksOnly cs s t) (hc : 6 ∉ cs) : RlkOnly fs l s t := fun f hf _ => by
  unfold Fld.ofRlk at hf
  exact h.field hl (Bool.and_eq_true_iff.mp hf).1 hc

theorem RlkOnly.wr (h : RlkOnly fs l s t) {g : Fld} (hg : g ∈ fs) (hstride : g.stride = 0x80) (v : Nat) :
    RlkOnly fs l s (t.wr g l v) := fun f hf hne => by
  unfold Fld.ofRlk at hf
  have hf' : f.stride = 0x80 := of_decide_eq_true (Bool.and_eq_true_iff.mp hf).2
  rw [State.wr_rd_field ⟨hf'.trans hstride.symm, (hne g hg).symm⟩]
  exact h f (by unfold Fld.ofRlk; exact hf) hne

theorem RlkOnly.ite {c : Prop} [Decidable c] (h : RlkOnly fs l s t) (k : RlkOnly fs l s u) : RlkOnly fs l s (if c then t else u) := by
  split <;> assumption

theorem RlkOnly.bit (h : RlkOnly fs l s t) {f : Fld} (hf : f.ofRlk = true) (hne : ∀ g ∈ fs, g.base * 32 + g.lo ≠ f.base * 32 + f.lo) :
    t.rdBit f l = s.rdBit f l := congrArg (· != 0) (h f hf hne)

end

section
variable {s : State} {dt lane : Nat}

theorem State.rlkLive_on (h : s.rlkLive lane = true) : s.rlkOn lane = true := by
  unfold State.rlkLive at h
  simp only [Bool.and_eq_true] at h
  exact h.1.1.1

theorem State.rlkLive_lt (h : s.rlkLive lane = true) : lane < 48 := State.rlkOn_lt (State.rlkLive_on h)

theorem State.rlkReview_rlkOnly (hl : lane < 48) (s : State) : RlkOnly [] lane s (s.rlkReview lane) :=
  RlkOnly.of_blocks hl (State.rlkReview_blocks s lane) (by decide)

theorem State.rlkSearch_rlkOnly (s : State) (l k : Nat) : RlkOnly [Reg.RLK_ALIGN] l s (s.rlkSearch l k) :=
  RlkOnly.wr (RlkOnly.of_regs rfl) (by simp) rfl 0

theorem State.rlkSearch_align (s : State) (l k : Nat) : (s.rlkSearch l k).rd Reg.RLK_ALIGN l = 0 := State.wr_rd_same ..

/-! ### Frames (R169 to R179) -/

theorem completes_rlkFrameRx_unlocked {off prior badSync : Nat} {blocks : List RlkBlock} (hlive : s.rlkLive lane = true) :
    Completes (.rlkFrameRx dt lane off false prior blocks badSync) s fun t =>
      t.rd Reg.RLK_ALIGN lane = 0 ∧
      t.rd Reg.RLK_SH_ERR_CNT lane = (s.rd Reg.RLK_SH_ERR_CNT lane + (badSync + badHeaders blocks)) % 2 ^ 32 := by
  let b := (s.elapse dt).countBy Reg.RLK_SH_ERR_CNT lane (badSync + badHeaders blocks)
  have hl : lane < 48 := State.rlkLive_lt hlive
  have hexec : exec (.rlkFrameRx dt lane off false prior blocks badSync) s = .next ((b.rlkSearch lane 0).rlkReview lane) := by
    refine congrArg Host.Outcome.next (if_neg ?_)
    show ¬ (!s.rlkLive lane) = true
    rw [hlive]
    decide
  have hreview := State.rlkReview_rlkOnly hl (b.rlkSearch lane 0)
  refine ⟨_, hexec, ?_, ?_⟩
  · rw [hreview _ (by decide) (by decide), State.rlkSearch_align]
  · rw [hreview _ (by decide) (by decide), State.rlkSearch_rlkOnly b lane 0 _ (by decide) (by decide)]
    exact State.countBy_rd_same ..

/-- The command for a frame that the receiver looks at. -/
theorem exec_rlkFrameRx_looks {off prior badSync : Nat} {blocks : List RlkBlock} {f : RlkFrame} {b : State} (hlive : s.rlkLive lane = true)
    (hb : b = (s.elapse dt).countBy Reg.RLK_SH_ERR_CNT lane (badSync + badHeaders blocks)) (hlooks : s.rlkLooks lane off = true)
    (hf : f = readRlk (s.rdBit Reg.RLK_EK7210 lane) prior blocks) (hhit : s.rlkHit lane f = true) :
    ∃ c, c = (b.rlkAlign lane off f).rlkMarker lane f ∧ b.rlkHit lane f = true ∧
      exec (.rlkFrameRx dt lane off true prior blocks badSync) s =
        .next ((if c.rd Reg.RLK_ALIGN lane = 2 then c.rlkTake lane f else c).rlkReview lane) := by
  have hcount : RlkOnly [Reg.RLK_SH_ERR_CNT] lane s b := hb ▸ RlkOnly.wr (RlkOnly.of_regs rfl) (by simp) rfl _
  have hrlk : b.rlk = s.rlk := by rw [hb]; rfl
  have halign : b.rd Reg.RLK_ALIGN lane = s.rd Reg.RLK_ALIGN lane := hcount _ (by decide) (by decide)
  have hek : b.rdBit Reg.RLK_EK7210 lane = s.rdBit Reg.RLK_EK7210 lane := hcount.bit (by decide) (by decide)
  have hlane : b.rlkLane lane = s.rlkLane lane := by
    unfold State.rlkLane
    rw [hrlk]
  have hlooks' : b.rlkLooks lane off = true := by
    unfold State.rlkLooks at *
    rw [halign, hlane]
    exact hlooks
  have hhit' : b.rlkHit lane f = true := by
    unfold State.rlkHit at *
    rw [halign, hlane, hek]
    exact hhit
  refine ⟨_, rfl, hhit', ?_⟩
  show execRlkFrameRx dt lane off true prior blocks badSync s = _
  unfold execRlkFrameRx
  dsimp only
  have hlive' : (s.elapse dt).rlkLive lane = true := hlive
  rw [if_neg (by rw [hlive']; decide), if_neg (by decide), ← hb, if_neg (by rw [hlooks']; decide), hek, ← hf, if_pos hhit']

/-- What the receiver's alignment writes. -/
theorem State.rlkAlign_rlkOnly (s : State) (l off : Nat) (f : RlkFrame) : RlkOnly [Reg.RLK_ALIGN] l s (s.rlkAlign l off f) := by
  have hset (x : RlkLane) : RlkOnly [Reg.RLK_ALIGN] l s (s.setRlkLane l x) := RlkOnly.of_regs rfl
  have hwr (x : RlkLane) (v : Nat) : RlkOnly [Reg.RLK_ALIGN] l s ((s.setRlkLane l x).wr Reg.RLK_ALIGN l v) :=
    (hset x).wr (by simp) rfl v
  unfold State.rlkAlign
  exact RlkOnly.ite (RlkOnly.ite ((hset _).trans (State.rlkSearch_rlkOnly _ l _)) (hset _))
    (RlkOnly.ite (State.rlkSearch_rlkOnly s l _) (RlkOnly.ite (hwr _ _) (RlkOnly.ite (hset _) (hwr _ _))))

/-- A frame whose marker is a hit, outside SYNC, before the last confirmation (Table 06-7). -/
theorem State.rlkAlign_search {f : RlkFrame} {l : Nat} (s : State) (off : Nat) (hhit : s.rlkHit l f = true) (hsync : s.rd Reg.RLK_ALIGN l ≠ 2)
    (hmore : s.rd Reg.RLK_ALIGN l = 0 ∨ (s.rlkLane l).conf + 1 < s.rlkNeeds l) :
    (s.rlkAlign l off f).rd Reg.RLK_ALIGN l = if s.rd Reg.RLK_ALIGN l = 0 then 1 else s.rd Reg.RLK_ALIGN l := by
  unfold State.rlkAlign
  dsimp only
  rw [if_neg hsync, if_neg (by rw [hhit]; decide)]
  split
  next => exact State.wr_rd_same ..
  next hzero =>
    rw [if_pos (hmore.resolve_left hzero)]
    rfl

/-- A frame whose marker is a hit in SYNC (Table 06-7). -/
theorem State.rlkAlign_sync {f : RlkFrame} {l : Nat} (s : State) (off : Nat) (hhit : s.rlkHit l f = true) (hsync : s.rd Reg.RLK_ALIGN l = 2) :
    ∃ x, s.rlkAlign l off f = s.setRlkLane l x := by
  unfold State.rlkAlign
  dsimp only
  rw [if_pos hsync, hhit, if_pos rfl, if_neg (by decide : ¬ 4 ≤ 0)]
  exact ⟨_, rfl⟩

theorem State.rlkMarker_rlkOnly (s : State) (l : Nat) (f : RlkFrame) :
    RlkOnly [Reg.RLK_UNIT_RX, Reg.RLK_PAIRED_RX, Reg.RLK_MARK_CRC_CNT] l s (s.rlkMarker l f) :=
  RlkOnly.ite (((RlkOnly.refl _ l s).wr (by simp) rfl _).wr (by simp) rfl _) ((RlkOnly.refl _ l s).wr (by simp) rfl _)

theorem completes_rlkFrameRx_search {off prior badSync : Nat} {blocks : List RlkBlock} {f : RlkFrame} (hlive : s.rlkLive lane = true)
    (hlooks : s.rlkLooks lane off = true) (hf : f = readRlk (s.rdBit Reg.RLK_EK7210 lane) prior blocks) (hhit : s.rlkHit lane f = true)
    (hsync : s.rd Reg.RLK_ALIGN lane ≠ 2) (hmore : s.rd Reg.RLK_ALIGN lane = 0 ∨ (s.rlkLane lane).conf + 1 < s.rlkNeeds lane) :
    Completes (.rlkFrameRx dt lane off true prior blocks badSync) s fun t =>
      t.rd Reg.RLK_ALIGN lane = (if s.rd Reg.RLK_ALIGN lane = 0 then 1 else s.rd Reg.RLK_ALIGN lane) := by
  have hl : lane < 48 := State.rlkLive_lt hlive
  obtain ⟨b, hb⟩ : ∃ b, b = (s.elapse dt).countBy Reg.RLK_SH_ERR_CNT lane (badSync + badHeaders blocks) := ⟨_, rfl⟩
  obtain ⟨c, hc, hhit', hexec⟩ := exec_rlkFrameRx_looks hlive hb hlooks hf hhit
  have hcount : RlkOnly [Reg.RLK_SH_ERR_CNT] lane s b := hb ▸ RlkOnly.wr (RlkOnly.of_regs rfl) (by simp) rfl _
  have hrlk : b.rlk = s.rlk := by rw [hb]; rfl
  have halign : b.rd Reg.RLK_ALIGN lane = s.rd Reg.RLK_ALIGN lane := hcount _ (by decide) (by decide)
  have hneeds : b.rlkNeeds lane = s.rlkNeeds lane :=
    congrArg (fun v : Bool => if v then 3 else 2) (hcount.bit (f := Reg.RLK_EK7210) (by decide) (by decide))
  have hlane : b.rlkLane lane = s.rlkLane lane := by
    unfold State.rlkLane
    rw [hrlk]
  have hcalign : c.rd Reg.RLK_ALIGN lane = if s.rd Reg.RLK_ALIGN lane = 0 then 1 else s.rd Reg.RLK_ALIGN lane := by
    rw [hc, State.rlkMarker_rlkOnly _ lane f _ (by decide) (by decide),
      State.rlkAlign_search b off hhit' (by rw [halign]; exact hsync) (by rw [halign, hlane, hneeds]; exact hmore), halign]
  refine ⟨_, hexec, ?_⟩
  show State.rd _ _ _ = _
  rw [State.rlkReview_rlkOnly hl _ _ (by decide) (by decide), if_neg, hcalign]
  rw [hcalign]
  split
  · decide
  · exact hsync

/-! ### What a frame in SYNC brings (R175 to R179, R203, R205) -/

/-- The fields that the overhead of a counted frame writes. -/
def overheadFields : List Fld :=
  [Reg.RLK_RX_QL, Reg.RLK_RDI_RX, Reg.RLK_RX_LINK_ID, Reg.RLK_LIM, Reg.RLK_DGASP_RX, Reg.RLK_RTT, Reg.RLK_FE_GOOD, Reg.RLK_FE_HDR_ERR,
    Reg.RLK_FE_COPY_LOST, Reg.RLK_FE_LATE, Reg.RLK_FE_BOTH_LOST, Reg.RLK_FE_WORST_CID, Reg.RLK_FE_WORST_CNT]

theorem State.rlkQl_rlkOnly (hl : lane < 48) (s : State) (ql : Nat) : RlkOnly [Reg.RLK_RX_QL] lane s (s.rlkQl lane ql) := by
  have hset (x : RlkLane) : RlkOnly [Reg.RLK_RX_QL] lane s (s.setRlkLane lane x) := RlkOnly.of_regs rfl
  unfold State.rlkQl
  exact RlkOnly.ite (((hset _).wr (by simp) rfl _).trans (RlkOnly.of_blocks hl (State.acceptLaneQl_blocks _ lane ql) (by decide))) (hset _)

theorem State.rlkRdi_rlkOnly (s : State) (v : Bool) : RlkOnly [Reg.RLK_RDI_RX] lane s (s.rlkRdi lane v) := by
  have hset (x : RlkLane) : RlkOnly [Reg.RLK_RDI_RX] lane s (s.setRlkLane lane x) := RlkOnly.of_regs rfl
  unfold State.rlkRdi
  exact RlkOnly.ite (((hset _).wr (by simp) rfl _).trans (RlkOnly.of_regs rfl)) (hset _)

theorem State.rlkLim_spec (s : State) (v : Nat) :
    (s.rlkLim lane v).rd Reg.RLK_RX_LINK_ID lane = v % 2 ^ Reg.RLK_RX_LINK_ID.width ∧
    RlkOnly [Reg.RLK_RX_LINK_ID, Reg.RLK_LIM] lane s (s.rlkLim lane v) := by
  have hset (x : RlkLane) : RlkOnly [Reg.RLK_RX_LINK_ID, Reg.RLK_LIM] lane s ((s.setRlkLane lane x).wr Reg.RLK_RX_LINK_ID lane v) :=
    (RlkOnly.of_regs rfl).wr (by simp) rfl _
  have hmark (b : State) (on : Bool) (n : Nat) : RlkOnly [Reg.RLK_LIM] lane b
      ((b.wrBit Reg.RLK_LIM lane on).raise Ev.RLK_LIM (srcLane lane) [(2, lane), (1, n), (2, v)]) :=
    ((RlkOnly.refl _ lane b).wr (by simp) rfl _).trans (RlkOnly.of_regs rfl)
  obtain ⟨x, hx⟩ : ∃ x, RlkOnly [Reg.RLK_LIM] lane ((s.setRlkLane lane x).wr Reg.RLK_RX_LINK_ID lane v) (s.rlkLim lane v) := by
    unfold State.rlkLim
    exact ⟨_, RlkOnly.ite (hmark _ _ _) (RlkOnly.ite (hmark _ _ _) (RlkOnly.refl _ _ _))⟩
  refine ⟨?_, (hset x).trans (hx.mono (by simp))⟩
  rw [hx _ (by decide) (by decide), State.wr_rd_same]

theorem State.rlkGasp_rlkOnly (s : State) (v : Bool) : RlkOnly [Reg.RLK_DGASP_RX] lane s (s.rlkGasp lane v) := by
  have hset (x : RlkLane) : RlkOnly [Reg.RLK_DGASP_RX] lane s (s.setRlkLane lane x) := RlkOnly.of_regs rfl
  have hbit (x : RlkLane) (on : Bool) : RlkOnly [Reg.RLK_DGASP_RX] lane s ((s.setRlkLane lane x).wrBit Reg.RLK_DGASP_RX lane on) :=
    (hset x).wr (by simp) rfl _
  unfold State.rlkGasp
  refine RlkOnly.ite ((hbit _ _).trans (RlkOnly.of_regs rfl)) ?_
  split
  · exact RlkOnly.ite (hbit _ _) (hset _)
  · exact hset _

theorem State.rlkRtt_rlkOnly (s : State) (echo age : Nat) : RlkOnly [Reg.RLK_RTT] lane s (s.rlkRtt lane echo age) := by
  unfold State.rlkRtt
  exact RlkOnly.ite (RlkOnly.refl _ lane s) (((RlkOnly.refl _ lane s).wr (by simp) rfl _).trans (RlkOnly.of_regs rfl))

theorem State.rlkReturn_spec (hl : lane < 48) (s : State) (f : RlkFrame) :
    (s.rlkReturn lane f).rd Reg.RLK_FE_GOOD lane = f.rc.getD 0 0 % 2 ^ 32 ∧
    RlkOnly [Reg.RLK_FE_GOOD, Reg.RLK_FE_HDR_ERR, Reg.RLK_FE_COPY_LOST, Reg.RLK_FE_LATE, Reg.RLK_FE_BOTH_LOST, Reg.RLK_FE_WORST_CID,
      Reg.RLK_FE_WORST_CNT] lane s (s.rlkReturn lane f) := by
  have hpair (m n : Nat) (x : RlkLane) : RlkOnly [] lane s
      (((s.countBy Reg.PAR_FE_GOOD 0 m).countBy Reg.PAR_FE_MISS 0 n).setRlkLane lane x) :=
    (RlkOnly.of_blocks hl (((BlocksOnly.refl [12] s).countBy (b := 12) (n := 1) (by decide) (by decide) (by decide) m).countBy
      (b := 12) (n := 1) (by decide) (by decide) (by decide) n) (by decide)).trans (RlkOnly.of_regs rfl)
  have hrest (b : State) (v1 v2 v3 v4 v5 v6 : Nat) : RlkOnly [Reg.RLK_FE_HDR_ERR, Reg.RLK_FE_COPY_LOST, Reg.RLK_FE_LATE,
      Reg.RLK_FE_BOTH_LOST, Reg.RLK_FE_WORST_CID, Reg.RLK_FE_WORST_CNT] lane b ((((((b.wr Reg.RLK_FE_HDR_ERR lane v1).wr
        Reg.RLK_FE_COPY_LOST lane v2).wr Reg.RLK_FE_LATE lane v3).wr Reg.RLK_FE_BOTH_LOST lane v4).wr Reg.RLK_FE_WORST_CID lane v5).wr
        Reg.RLK_FE_WORST_CNT lane v6) :=
    ((((((RlkOnly.refl _ lane b).wr (by simp) rfl _).wr (by simp) rfl _).wr (by simp) rfl _).wr (by simp) rfl _).wr (by simp) rfl _).wr
      (by simp) rfl _
  unfold State.rlkReturn
  dsimp only
  refine ⟨?_, RlkOnly.trans (RlkOnly.wr ((hpair _ _ _).mono (by simp)) (by simp) rfl _) ((hrest _ _ _ _ _ _ _).mono (by simp))⟩
  rw [hrest _ _ _ _ _ _ _ _ (by decide) (by decide), State.wr_rd_same]
  rfl

theorem State.rlkOverhead_spec (hl : lane < 48) (s : State) (f : RlkFrame) :
    (s.rlkOverhead lane f).rd Reg.RLK_RX_LINK_ID lane = f.linkId % 2 ^ Reg.RLK_RX_LINK_ID.width ∧
    (s.rlkOverhead lane f).rd Reg.RLK_FE_GOOD lane = f.rc.getD 0 0 % 2 ^ 32 ∧ RlkOnly overheadFields lane s (s.rlkOverhead lane f) := by
  obtain ⟨b, hb⟩ : ∃ b, b = (s.rlkQl lane f.ql).rlkRdi lane f.rdi := ⟨_, rfl⟩
  have hbOnly : RlkOnly overheadFields lane s b :=
    hb ▸ ((State.rlkQl_rlkOnly hl s f.ql).mono (by decide)).trans ((State.rlkRdi_rlkOnly _ f.rdi).mono (by decide))
  obtain ⟨hid, hlim⟩ := State.rlkLim_spec (lane := lane) b f.linkId
  obtain ⟨c, hc⟩ : ∃ c, c = ((b.rlkLim lane f.linkId).rlkGasp lane f.dgasp).rlkRtt lane f.echoStamp f.echoAge := ⟨_, rfl⟩
  have hcOnly : RlkOnly [Reg.RLK_DGASP_RX, Reg.RLK_RTT] lane (b.rlkLim lane f.linkId) c :=
    hc ▸ ((State.rlkGasp_rlkOnly _ f.dgasp).mono (by simp)).trans ((State.rlkRtt_rlkOnly _ f.echoStamp f.echoAge).mono (by simp))
  let d := c.setRlkLane lane { c.rlkLane lane with echoStamp := f.txStamp, echoTime := c.time }
  have hd : RlkOnly [] lane c d := RlkOnly.of_regs rfl
  obtain ⟨hgood, hreturn⟩ := State.rlkReturn_spec hl d f
  have hover : s.rlkOverhead lane f = d.rlkReturn lane f := by
    simp only [d, hc, hb]
    rfl
  rw [hover]
  refine ⟨?_, hgood, hbOnly.trans ((hlim.mono (by decide)).trans ((hcOnly.mono (by decide)).trans ((hd.mono (by simp)).trans
    (hreturn.mono (by decide)))))⟩
  rw [hreturn _ (by decide) (by decide), hd _ (by decide) (by decide), hcOnly _ (by decide) (by decide), hid]

theorem State.rlkTake_bad {f : RlkFrame} (s : State) (hbad : f.ohCrc = false) :
    (s.rlkTake lane f).rd Reg.RLK_OH_CRC_CNT lane = (s.rd Reg.RLK_OH_CRC_CNT lane + 1) % 2 ^ 32 ∧
    RlkOnly [Reg.RLK_OH_CRC_CNT] lane s (s.rlkTake lane f) := by
  have hpoint (c : Nat) : ((s.count Reg.RLK_OH_CRC_CNT lane).pmBlocks c 1 0).regs = (s.count Reg.RLK_OH_CRC_CNT lane).regs :=
    State.pmBlocks_regs ..
  have hcount : RlkOnly [Reg.RLK_OH_CRC_CNT] lane s (s.count Reg.RLK_OH_CRC_CNT lane) :=
    (RlkOnly.refl _ lane s).wr (by simp) rfl _
  unfold State.rlkTake
  rw [if_neg (by rw [hbad]; decide)]
  dsimp only
  split
  · exact ⟨State.count_rd_same' .., hcount⟩
  · exact ⟨(congrArg (fun m => m.rd Reg.RLK_OH_CRC_CNT lane) (hpoint _)).trans (State.count_rd_same' ..), hcount.trans (RlkOnly.of_regs (hpoint _))⟩

theorem State.rlkTake_good {f : RlkFrame} (s : State) (hgood : f.ohCrc = true) : s.rlkTake lane f = s.rlkOverhead lane f := by
  unfold State.rlkTake
  rw [if_pos hgood]

theorem State.rlkMarker_spec (s : State) (f : RlkFrame) :
    (f.markCrc = true → (s.rlkMarker lane f).rd Reg.RLK_UNIT_RX lane = f.unit % 2 ^ Reg.RLK_UNIT_RX.width ∧
      (s.rlkMarker lane f).rdBit Reg.RLK_PAIRED_RX lane = f.paired ∧
      (s.rlkMarker lane f).rd Reg.RLK_MARK_CRC_CNT lane = s.rd Reg.RLK_MARK_CRC_CNT lane) ∧
    (f.markCrc = false → (s.rlkMarker lane f).rd Reg.RLK_UNIT_RX lane = s.rd Reg.RLK_UNIT_RX lane ∧
      (s.rlkMarker lane f).rd Reg.RLK_MARK_CRC_CNT lane = (s.rd Reg.RLK_MARK_CRC_CNT lane + 1) % 2 ^ 32) := by
  unfold State.rlkMarker
  refine ⟨fun h => ?_, fun h => ?_⟩
  · rw [if_pos h]
    refine ⟨?_, State.wrBit_rdBit_same _ rfl _ _, ?_⟩
    · rw [State.wrBit_eq, State.wr_rd_field (by decide), State.wr_rd_same]
    · rw [State.wrBit_eq, State.wr_rd_field (by decide), State.wr_rd_field (by decide)]
  · rw [if_neg (by rw [h]; decide)]
    refine ⟨State.wr_rd_field (by decide) .., State.count_rd_same' ..⟩

theorem completes_rlkFrameRx_sync {off prior badSync : Nat} {blocks : List RlkBlock} {f : RlkFrame} (hlive : s.rlkLive lane = true)
    (hlooks : s.rlkLooks lane off = true) (hf : f = readRlk (s.rdBit Reg.RLK_EK7210 lane) prior blocks) (hhit : s.rlkHit lane f = true)
    (hsync : s.rd Reg.RLK_ALIGN lane = 2) :
    Completes (.rlkFrameRx dt lane off true prior blocks badSync) s fun t =>
      t.rd Reg.RLK_ALIGN lane = 2 ∧
      (f.markCrc = true → t.rd Reg.RLK_UNIT_RX lane = f.unit % 2 ^ Reg.RLK_UNIT_RX.width ∧
        t.rdBit Reg.RLK_PAIRED_RX lane = f.paired ∧ t.rd Reg.RLK_MARK_CRC_CNT lane = s.rd Reg.RLK_MARK_CRC_CNT lane) ∧
      (f.markCrc = false → t.rd Reg.RLK_UNIT_RX lane = s.rd Reg.RLK_UNIT_RX lane ∧
        t.rd Reg.RLK_MARK_CRC_CNT lane = (s.rd Reg.RLK_MARK_CRC_CNT lane + 1) % 2 ^ 32) ∧
      (f.ohCrc = true → t.rd Reg.RLK_RX_LINK_ID lane = f.linkId % 2 ^ Reg.RLK_RX_LINK_ID.width ∧
        t.rd Reg.RLK_FE_GOOD lane = f.rc.getD 0 0 % 2 ^ 32 ∧ t.rd Reg.RLK_OH_CRC_CNT lane = s.rd Reg.RLK_OH_CRC_CNT lane) ∧
      (f.ohCrc = false → t.rd Reg.RLK_OH_CRC_CNT lane = (s.rd Reg.RLK_OH_CRC_CNT lane + 1) % 2 ^ 32 ∧
        t.rd Reg.RLK_RX_LINK_ID lane = s.rd Reg.RLK_RX_LINK_ID lane) := by
  have hl : lane < 48 := State.rlkLive_lt hlive
  obtain ⟨b, hb⟩ : ∃ b, b = (s.elapse dt).countBy Reg.RLK_SH_ERR_CNT lane (badSync + badHeaders blocks) := ⟨_, rfl⟩
  obtain ⟨c, hc, hhit', hexec⟩ := exec_rlkFrameRx_looks hlive hb hlooks hf hhit
  have hcount : RlkOnly [Reg.RLK_SH_ERR_CNT] lane s b := hb ▸ RlkOnly.wr (RlkOnly.of_regs rfl) (by simp) rfl _
  obtain ⟨x, hx⟩ := State.rlkAlign_sync b off hhit' ((hcount _ (by decide) (by decide)).trans hsync)
  have hset : RlkOnly [Reg.RLK_SH_ERR_CNT] lane s (b.setRlkLane lane x) := hcount.trans (RlkOnly.of_regs rfl)
  rw [hx] at hc
  obtain ⟨d, hd⟩ : ∃ d, d = b.setRlkLane lane x := ⟨_, rfl⟩
  rw [← hd] at hc hset
  have hmark := State.rlkMarker_rlkOnly d lane f
  obtain ⟨hgoodMark, hbadMark⟩ := State.rlkMarker_spec (lane := lane) d f
  rw [← hc] at hmark hgoodMark hbadMark
  have hcOnly : RlkOnly [Reg.RLK_SH_ERR_CNT, Reg.RLK_UNIT_RX, Reg.RLK_PAIRED_RX, Reg.RLK_MARK_CRC_CNT] lane s c :=
    (hset.mono (by simp)).trans (hmark.mono (by simp))
  have halign : c.rd Reg.RLK_ALIGN lane = 2 := (hcOnly _ (by decide) (by decide)).trans hsync
  rw [if_pos halign] at hexec
  refine ⟨_, hexec, ?_⟩
  have hreview (f : Fld) (hf : f.ofRlk = true) (y : State) : (y.rlkReview lane).rd f lane = y.rd f lane :=
    State.rlkReview_rlkOnly hl y f hf (by simp)
  have hreviewBit (f : Fld) (hf : f.ofRlk = true) (y : State) : (y.rlkReview lane).rdBit f lane = y.rdBit f lane :=
    congrArg (· != 0) (hreview f hf y)
  simp (disch := decide) only [hreview, hreviewBit]
  -- both ways of taking the overhead leave the marker's fields and the state of alignment
  obtain ⟨fs, htake, hfs⟩ : ∃ fs, RlkOnly fs lane c (c.rlkTake lane f) ∧
      ∀ g ∈ fs, g ∈ Reg.RLK_OH_CRC_CNT :: overheadFields := by
    cases hoh : f.ohCrc with
    | true => exact ⟨_, State.rlkTake_good c hoh ▸ (State.rlkOverhead_spec hl c f).2.2, fun g hg => List.mem_cons_of_mem _ hg⟩
    | false => exact ⟨_, (State.rlkTake_bad c hoh).2, by simp⟩
  have hkeep := htake.mono hfs
  refine ⟨(hkeep _ (by decide) (by decide)).trans halign, fun h => ?_, fun h => ?_, fun h => ?_, fun h => ?_⟩
  · obtain ⟨hunit, hpaired, hcnt⟩ := hgoodMark h
    exact ⟨(hkeep _ (by decide) (by decide)).trans hunit, (hkeep.bit (by decide) (by decide)).trans hpaired,
      (hkeep _ (by decide) (by decide)).trans (hcnt.trans (hset _ (by decide) (by decide)))⟩
  · obtain ⟨hunit, hcnt⟩ := hbadMark h
    rw [hset _ (by decide) (by decide)] at hunit hcnt
    exact ⟨(hkeep _ (by decide) (by decide)).trans hunit, (hkeep _ (by decide) (by decide)).trans hcnt⟩
  · obtain ⟨hid, hgood, honly⟩ := State.rlkOverhead_spec hl c f
    rw [State.rlkTake_good c h]
    exact ⟨hid, hgood, (honly _ (by decide) (by decide)).trans (hcOnly _ (by decide) (by decide))⟩
  · obtain ⟨hcnt, honly⟩ := State.rlkTake_bad (lane := lane) c h
    rw [hcOnly _ (by decide) (by decide)] at hcnt
    exact ⟨hcnt, (honly _ (by decide) (by decide)).trans (hcOnly _ (by decide) (by decide))⟩

/-! ### Failure of alignment (R187) -/

/-- LFA is declared or cleared, and a change is reported to what follows the lane. -/
def State.setLfa (a : State) (l : Nat) (on : Bool) : State :=
  if a.rdBit Reg.RLK_LFA l = on then a
  else ((a.wrBit Reg.RLK_LFA l on).raise Ev.RLK_LFA (srcLane l)
    [(2, l), (1, ofBool on), (1, ofBool (on && a.rdBit Reg.RLK_DGASP_RX l))]).rlkReview l

theorem State.setLfa_spec (hl : lane < 48) (a : State) (on : Bool) :
    (a.setLfa lane on).rdBit Reg.RLK_LFA lane = on ∧ (a.setLfa lane on).time = a.time := by
  unfold State.setLfa
  split
  next h => exact ⟨h, rfl⟩
  next =>
    refine ⟨?_, (State.rlkReview_frame (pt := .clock) (by decide) (Part.same_refl _ _)).1⟩
    rw [(State.rlkReview_rlkOnly hl _).bit (by decide) (by decide), State.raise_rdBit, State.wrBit_rdBit_same _ rfl]

theorem completes_rlkLfa {since : Nat} (hon : s.rlkOn lane = true) (hgated : s.rdBit Reg.PRT_LANE_GATED lane = false)
    (hsince : (if s.rd Reg.RLK_ALIGN lane = 2 then (s.rlkLane lane).inSince else (s.rlkLane lane).outSince) = some since) :
    Completes (.rlkLfa dt lane) s fun t =>
      t.rdBit Reg.RLK_LFA lane = decide (s.rd Reg.RLK_ALIGN lane ≠ 2) ∧
      t.time = max (s.time + dt) (since + (if s.rd Reg.RLK_ALIGN lane = 2 then 1 else 3) * Config.msPos) := by
  have hl : lane < 48 := State.rlkOn_lt hon
  have htime (k : Nat) : ((s.elapse dt).elapse (since + k - (s.elapse dt).time)).time = max (s.time + dt) (since + k) := by
    show s.time + dt + (since + k - (s.time + dt)) = _
    omega
  have hexec : exec (.rlkLfa dt lane) s = .next (if s.rd Reg.RLK_ALIGN lane = 2
      then ((s.elapse dt).elapse (since + Config.msPos - (s.elapse dt).time)).setLfa lane false
      else ((s.elapse dt).elapse (since + 3 * Config.msPos - (s.elapse dt).time)).setLfa lane true) := by
    show execRlkLfa dt lane s = _
    unfold execRlkLfa
    dsimp only
    have hon' : (s.elapse dt).rlkOn lane = true := hon
    have hgated' : (s.elapse dt).rdBit Reg.PRT_LANE_GATED lane = false := hgated
    have halign : (s.elapse dt).rd Reg.RLK_ALIGN lane = s.rd Reg.RLK_ALIGN lane := rfl
    have hrlk : (s.elapse dt).rlkLane lane = s.rlkLane lane := rfl
    rw [if_neg (by rw [hon', hgated']; decide), halign, hrlk]
    split
    next h =>
      rw [if_pos h] at hsince
      rw [hsince]
      rfl
    next h =>
      rw [if_neg h] at hsince
      rw [hsince]
      rfl
  refine ⟨_, hexec, ?_⟩
  by_cases hsync : s.rd Reg.RLK_ALIGN lane = 2
  · obtain ⟨hlfa, hkeep⟩ := State.setLfa_spec hl ((s.elapse dt).elapse (since + Config.msPos - (s.elapse dt).time)) false
    rw [if_pos hsync, if_pos hsync, Nat.one_mul]
    exact ⟨hlfa.trans (decide_eq_false fun h => h hsync).symm, hkeep.trans (htime _)⟩
  · obtain ⟨hlfa, hkeep⟩ := State.setLfa_spec hl ((s.elapse dt).elapse (since + 3 * Config.msPos - (s.elapse dt).time)) true
    rw [if_neg hsync, if_neg hsync]
    exact ⟨hlfa.trans (decide_eq_true hsync).symm, hkeep.trans (htime _)⟩

end

end Sys2Proof.Machine
end

section
/-! PROOFS. Tubs, their hold and their records (R180 to R201), and the Ralale block's events as a whole. -/

namespace Sys2Proof.Machine

section
variable {s : State} {dt lane : Nat}

theorem State.setRlkCtx_same (s : State) (c : Nat) (y : RlkCtx) : (s.setRlkCtx c y).rlkCtx c = y :=
  (State.setRlkCtx_rlkCtx ..).trans (if_pos rfl)

theorem State.rlkCtx_congr {a b : State} (h : b.rlk = a.rlk) (c : Nat) : b.rlkCtx c = a.rlkCtx c := by
  unfold State.rlkCtx
  rw [h]

/-! ### Giving a tub out, and losing one -/

/-- The group once tub `t` has gone out. -/
def RlkCtx.given (y : RlkCtx) (x : Ctx) (t : HeldTub) (now addr : Nat) : RlkCtx :=
  { y.give x.isFlow t now with gateAt := some (y.gateAt.getD addr), gateBits := y.gateBits + 448 }

theorem State.flowWrite_blocks (s : State) (x : Ctx) (bytes : List Nat) (last abort : Bool) :
    BlocksOnly [15, 19] s (s.flowWrite x bytes last abort) := by
  unfold State.flowWrite
  refine BlocksOnly.ite ?_ (BlocksOnly.refl _ s)
  refine fun f i hf => State.writeQueue_regsOnly (RegsOnly.refl _ s) _ _ f i fun e he hkey => hf ?_
  have hblock : f.block i = e.1.block e.2 := congrArg (· / 2 ^ 24) hkey.symm
  simp only [queueCounts, List.mem_cons, List.not_mem_nil, or_false] at he
  rcases he with rfl | rfl | rfl | rfl <;> rw [hblock] <;> decide

theorem State.giveTub_spec (s : State) (c : Nat) (x : Ctx) (t : HeldTub) :
    (s.giveTub c x t).rlkCtx c = (s.rlkCtx c).given x t s.time s.addr ∧ (s.giveTub c x t).time = s.time ∧
    BlocksOnly [15, 19] s (s.giveTub c x t) := by
  let b := s.setRlkCtx c ((s.rlkCtx c).given x t s.time s.addr)
  let d := if kindHasOverhead x.kind then b else b.pmDefect (c % 65536) false t.csf
  have hd : d.rlk = b.rlk ∧ d.time = b.time ∧ BlocksOnly [15, 19] b d := by
    show State.rlk (if _ then _ else _) = _ ∧ State.time (if _ then _ else _) = _ ∧ BlocksOnly _ b (if _ then _ else _)
    split
    · exact ⟨rfl, rfl, BlocksOnly.refl _ b⟩
    · exact ⟨State.pmDefect_frame (pt := .rlk) (by decide) (Part.same_refl _ b),
        (State.pmDefect_frame (pt := .clock) (by decide) (Part.same_refl _ b)).1,
        (BlocksOnly.refl _ b).of_regs (State.pmDefect_regs ..)⟩
  obtain ⟨hrlk, htime, hregs⟩ := hd
  have hb : BlocksOnly [15, 19] s b := (BlocksOnly.refl _ s).of_regs rfl
  have hctx : d.rlkCtx c = (s.rlkCtx c).given x t s.time s.addr := (State.rlkCtx_congr hrlk c).trans (State.setRlkCtx_same ..)
  have hgive : s.giveTub c x t = if (!(s.rlkCtx c).skip || t.sop) && !t.csf then d.flowWrite x t.data t.eop (t.abort && t.eop) else d := rfl
  rw [hgive]
  split
  · refine ⟨(State.rlkCtx_congr (State.flowWrite_frame (pt := .rlk) (by decide) (Part.same_refl _ d)) c).trans hctx,
      (State.flowWrite_frame (pt := .clock) (by decide) (Part.same_refl _ d)).1.trans htime, ?_⟩
    exact (hb.trans hregs).trans (State.flowWrite_blocks d x _ _ _)
  · exact ⟨hctx, htime, hb.trans hregs⟩

theorem State.deliverTubs_none {c : Nat} (x : Ctx) (h : (s.rlkCtx c).held = []) (fuel : Nat) : s.deliverTubs c x fuel = s := by
  cases fuel with
  | zero => rfl
  | succ n =>
    unfold State.deliverTubs RlkCtx.heldAt
    dsimp only
    rw [h]
    rfl

/-- A tub with data that stands at N goes out. -/
theorem State.deliverTubs_give {c : Nat} {t : HeldTub} (x : Ctx) (h : (s.rlkCtx c).heldAt (s.rlkCtx c).n = some t)
    (hcsf : t.csf = false) (fuel : Nat) : s.deliverTubs c x (fuel + 1) = (s.giveTub c x t).deliverTubs c x fuel := by
  conv_lhs => unfold State.deliverTubs
  dsimp only
  rw [h]
  dsimp only
  rw [if_pos]
  unfold HeldTub.ready
  rw [hcsf]
  rfl

/-- N is lost where another tub has been held long enough. -/
theorem State.deliverTubs_lose {c : Nat} (x : Ctx) (h : (s.rlkCtx c).heldAt (s.rlkCtx c).n = none)
    (hold : (s.rlkCtx c).held.any (fun t => decide (t.since + s.holdPos ≤ s.time)) = true) (fuel : Nat) :
    s.deliverTubs c x (fuel + 1) = (s.loseTub c x).deliverTubs c x fuel := by
  conv_lhs => unfold State.deliverTubs
  dsimp only
  rw [h]
  dsimp only
  rw [if_pos hold]

/-- The group once the sole tub held has gone out. -/
theorem State.deliverTubs_sole {c : Nat} {t : HeldTub} (x : Ctx) (hheld : (s.rlkCtx c).held = [t]) (hn : t.seq = (s.rlkCtx c).n)
    (hcsf : t.csf = false) (fuel : Nat) : s.deliverTubs c x (fuel + 1) = s.giveTub c x t := by
  have hat : (s.rlkCtx c).heldAt (s.rlkCtx c).n = some t := by
    unfold RlkCtx.heldAt
    rw [hheld, List.find?_cons_of_pos (by rw [hn]; exact beq_self_eq_true _)]
  rw [State.deliverTubs_give x hat hcsf, State.deliverTubs_none x]
  rw [(State.giveTub_spec s c x t).1]
  show (s.rlkCtx c).held.filter (fun u => u.seq != t.seq) = []
  rw [hheld, List.filter_cons_of_neg (by rw [bne_self_eq_false]; decide)]
  rfl

/-! ### A received tub (R180 to R185, R193 to R196) -/

theorem State.rlkLive_elapse (h : s.rlkLive lane = true) (halign : s.rd Reg.RLK_ALIGN lane = 2) (dt : Nat) :
    ¬ (!(s.elapse dt).rlkLive lane || (s.elapse dt).rd Reg.RLK_ALIGN lane != 2) = true := by
  show ¬ (!s.rlkLive lane || s.rd Reg.RLK_ALIGN lane != 2) = true
  rw [h, halign]
  decide

theorem completes_tubRx_badHeader {prior : Nat} {blocks : List RlkBlock} (hlive : s.rlkLive lane = true)
    (halign : s.rd Reg.RLK_ALIGN lane = 2) (hcrc : (readTub prior blocks).hcrc = false) :
    Completes (.tubRx dt lane prior blocks) s fun t =>
      t.rd Reg.RLK_HDR_ERR_CNT lane = (s.rd Reg.RLK_HDR_ERR_CNT lane + 1) % 2 ^ 32 ∧
      t.rd Reg.RLK_SH_ERR_CNT lane = (s.rd Reg.RLK_SH_ERR_CNT lane + badHeaders blocks) % 2 ^ 32 ∧ t.rlk = s.rlk ∧ t.io = s.io ∧
      RegsOnly [(Reg.RLK_HDR_ERR_CNT, lane), (Reg.RLK_SH_ERR_CNT, lane)] s t := by
  let b := (s.elapse dt).countBy Reg.RLK_SH_ERR_CNT lane (badHeaders blocks)
  have hexec : exec (.tubRx dt lane prior blocks) s = .next (b.count Reg.RLK_HDR_ERR_CNT lane) := by
    refine congrArg Host.Outcome.next ((if_neg (State.rlkLive_elapse hlive halign dt)).trans (if_pos ?_))
    rw [hcrc]
    rfl
  have hb : RlkOnly [Reg.RLK_SH_ERR_CNT] lane s b := RlkOnly.wr (RlkOnly.of_regs rfl) (by simp) rfl _
  refine ⟨_, hexec, ?_, ?_, rfl, rfl, RegsOnly.count (RegsOnly.wr (RegsOnly.of_elapse _ s dt) _ _ _ (by simp)) (by simp)⟩
  · exact (State.count_rd_same' b Reg.RLK_HDR_ERR_CNT lane).trans (by rw [hb _ (by decide) (by decide)]; rfl)
  · exact (State.wr_rd_field (by decide) b lane _).trans (State.countBy_rd_same ..)

/-- A copy that stands at N of a group that holds none goes out at once (R194, R195). -/
theorem State.goodTub_inOrder {a : State} {c : Nat} {x : Ctx} {u : Tub} (hsync : (a.rlkCtx c).sync = true)
    (hheld : (a.rlkCtx c).held = []) (hseq : u.seq = (a.rlkCtx c).n) (hcsf : u.csf = false) :
    ∃ b, BlocksOnly [] a b ∧ b.time = a.time ∧ b.rlkCtx c = { a.rlkCtx c with oow := 0, held := [heldOf u a.time [lane]] } ∧
      a.goodTub lane c x u = b.giveTub c x (heldOf u a.time [lane]) := by
  let y := a.rlkCtx c
  let d := a.setRlkCtx c y
  let b := d.setRlkCtx c { y with oow := 0, held := [heldOf u a.time [lane]] }
  have hd : d.rlkCtx c = y := State.setRlkCtx_same ..
  have hb : b.rlkCtx c = { y with oow := 0, held := [heldOf u a.time [lane]] } := State.setRlkCtx_same ..
  have hahead : d.aheadTub lane c u = b := by
    have hnone : ({ d.rlkCtx c with oow := 0 } : RlkCtx).heldAt u.seq = none := by
      unfold RlkCtx.heldAt
      rw [hd]
      show List.find? _ y.held = none
      rw [hheld]
      rfl
    unfold State.aheadTub
    dsimp only at hnone ⊢
    rw [hnone]
    dsimp only
    rw [hd]
    show d.setRlkCtx c { y with oow := 0, held := heldOf u a.time [lane] :: y.held.filter _ } = _
    rw [hheld]
    rfl
  have hgood : a.goodTub lane c x u = b.deliverTubs c x 65536 := by
    unfold State.goodTub
    dsimp only
    rw [if_pos hsync, if_pos (by rw [hseq]; omega)]
    exact congrArg (fun v : State => v.deliverTubs c x 65536) hahead
  refine ⟨b, (BlocksOnly.refl _ a).of_regs rfl, rfl, hb, hgood.trans ?_⟩
  refine State.deliverTubs_sole (fuel := 65535) x (by rw [hb]) ?_ hcsf
  rw [hb]
  exact hseq

theorem completes_tubRx_inOrder {prior : Nat} {blocks : List RlkBlock} {u : Tub} {c : Nat} {x : Ctx} (hlive : s.rlkLive lane = true)
    (halign : s.rd Reg.RLK_ALIGN lane = 2) (hcheck : s.perturbed 4 = false) (hlim : s.rdBit Reg.RLK_LIM lane = false)
    (hu : u = readTub prior blocks) (hcrc : u.hcrc = true) (hcid : u.cid ≠ 0xFFFF) (hvbc : 1 ≤ u.vbc) (hvbc' : u.vbc ≤ 56)
    (hcsf : u.csf = false) (hctx : s.cidCtx lane u.cid = some (c, x)) (hsync : (s.rlkCtx c).sync = true)
    (hheld : (s.rlkCtx c).held = []) (hseq : u.seq = (s.rlkCtx c).n) :
    Completes (.tubRx dt lane prior blocks) s fun t =>
      (t.rlkCtx c).n = (u.seq + 1) % 65536 ∧ (t.rlkCtx c).held = [] ∧
      (t.rlkCtx c).records = (s.rlkCtx c).records ++ [{ seq := u.seq, since := s.time + dt, lanes := [lane] }] ∧
      (t.rlkCtx c).gateBits = (s.rlkCtx c).gateBits + 448 ∧
      t.rd Reg.RLK_GOOD_CNT lane = (s.rd Reg.RLK_GOOD_CNT lane + 1) % 2 ^ 32 := by
  have hl : lane < 48 := State.rlkLive_lt hlive
  obtain ⟨b, hb⟩ : ∃ b, b = (s.elapse dt).countBy Reg.RLK_SH_ERR_CNT lane (badHeaders blocks) := ⟨_, rfl⟩
  have hbOnly : RlkOnly [Reg.RLK_SH_ERR_CNT] lane s b := hb ▸ RlkOnly.wr (RlkOnly.of_regs rfl) (by simp) rfl _
  have hbBlocks : BlocksOnly [6] s b :=
    hb ▸ BlocksOnly.countBy (b := 6) ((BlocksOnly.refl _ s).of_regs rfl) hl (by decide) (by decide) _
  have hcheck' : (b.alterCheck 7).2 = false := by
    have hperturbed : b.perturbed 4 = false :=
      (congrArg (fun v => bitOf v 4) (hbBlocks.field (f := Reg.TST_ACTIVE) (b := 19) (n := 1) (by decide) (by decide) (by decide))).trans hcheck
    unfold State.alterCheck
    rw [hperturbed]
    rfl
  have hlim' : b.rdBit Reg.RLK_LIM lane = false := (hbOnly.bit (by decide) (by decide)).trans hlim
  have hctx' : b.cidCtx lane u.cid = some (c, x) := by
    rw [hb]
    exact hctx
  let a := b.count Reg.RLK_GOOD_CNT lane
  have hexec : exec (.tubRx dt lane prior blocks) s = .next (a.goodTub lane c x u) := by
    show execTubRx dt lane prior blocks s = _
    unfold execTubRx
    dsimp only
    rw [if_neg (State.rlkLive_elapse hlive halign dt), ← hb, ← hu, if_neg (by rw [hcrc]; decide),
      if_neg (by rw [hcheck', Bool.and_false]; decide), if_neg hcid, if_neg (by simp; exact ⟨⟨by omega, by omega⟩, hlim'⟩), hctx']
  have hactx : a.rlkCtx c = s.rlkCtx c := State.rlkCtx_congr (by simp only [a, hb]; rfl) c
  have hatime : a.time = s.time + dt := by simp only [a, hb]; rfl
  rw [← hactx] at hsync hheld hseq
  obtain ⟨d, hd, hdtime, hdctx, hgood⟩ := State.goodTub_inOrder (lane := lane) (x := x) hsync hheld hseq hcsf
  obtain ⟨hgctx, -, hgregs⟩ := State.giveTub_spec d c x (heldOf u a.time [lane])
  rw [hdctx, hdtime] at hgctx
  rw [hgood] at hexec
  refine ⟨_, hexec, ?_, ?_, ?_, ?_, ?_⟩
  · rw [hgctx]
    rfl
  · rw [hgctx]
    show List.filter (fun v => v.seq != u.seq) [heldOf u a.time [lane]] = []
    rw [List.filter_cons_of_neg (by show ¬ (u.seq != u.seq) = true; rw [bne_self_eq_false]; decide)]
    rfl
  · rw [hgctx, hatime, ← hactx]
    rfl
  · rw [hgctx, ← hactx]
    rfl
  · have hkeep (f : Fld) (hf : f.within 6 48 = true) : (d.giveTub c x (heldOf u a.time [lane])).rd f lane = a.rd f lane :=
      ((hd.mono (by decide)).trans hgregs).field hl hf (by decide)
    rw [hkeep _ (by decide), ← hbOnly Reg.RLK_GOOD_CNT (by decide) (by decide)]
    exact State.count_rd_same' ..

/-! ### The end of a hold (R195, R196) -/

/-- A group with a constant rate once N is lost. -/
def RlkCtx.lost (y : RlkCtx) : RlkCtx := { y with n := (y.n + 1) % 65536, gateBits := y.gateBits + 448, fill := y.fill + 56 }

/-- N is lost: the group counts one further, and one with a constant rate gets failure fill. -/
theorem State.loseTub_spec (s : State) (c : Nat) {x : Ctx} (hflow : x.isFlow = false) :
    (s.loseTub c x).rlkCtx c = (s.rlkCtx c).lost ∧ (s.loseTub c x).time = s.time := by
  let z : RlkCtx := { s.rlkCtx c with n := ((s.rlkCtx c).n + 1) % 65536, skip := x.isFlow || (s.rlkCtx c).skip,
                                      gateBits := (s.rlkCtx c).gateBits + 448,
                                      fill := if x.isFlow then (s.rlkCtx c).fill else (s.rlkCtx c).fill + 56 }
  have hz : z = (s.rlkCtx c).lost := by
    simp only [z, hflow, Bool.false_or, Bool.false_eq_true, if_false]
    rfl
  have hcount (l : List Nat) : ∀ a : State, (l.foldl (fun a n => a.count Reg.RLK_BOTH_LOST_CNT n) a).rlk = a.rlk ∧
      (l.foldl (fun a n => a.count Reg.RLK_BOTH_LOST_CNT n) a).time = a.time := by
    induction l with
    | nil => exact fun _ => ⟨rfl, rfl⟩
    | cons n rest ih => exact fun a => ih (a.count Reg.RLK_BOTH_LOST_CNT n)
  obtain ⟨a, ha⟩ : ∃ a, a = ((x.rlkLinks c).foldl (fun a l => a.count Reg.RLK_BOTH_LOST_CNT l) (s.setRlkCtx c z)).flowWrite x [] true true :=
    ⟨_, rfl⟩
  have hrlk : a.rlk = (s.setRlkCtx c z).rlk := by
    rw [ha]
    exact (State.flowWrite_frame (pt := .rlk) (by decide) (Part.same_refl _ _)).trans (hcount _ _).1
  have htime : a.time = s.time := by
    rw [ha]
    exact (State.flowWrite_frame (pt := .clock) (by decide) (Part.same_refl _ _)).1.trans (hcount _ _).2
  have hlose : s.loseTub c x = a.raiseFirst Ev.RLK_BOTH_LOST c (srcCtx (c % 65536)) (s.rlkCtx c).n
      (fun f n => [(2, c % 65536), (2, f), (4, n)]) := by
    rw [ha]
    rfl
  rw [hlose, ← hz]
  refine ⟨?_, (State.raiseFirst_frame (pt := .clock) (by decide) (Part.same_refl _ a)).1.trans htime⟩
  exact (State.rlkCtx_congr ((State.raiseFirst_frame (pt := .rlk) (by decide) (Part.same_refl _ a)).trans hrlk) c).trans
    (State.setRlkCtx_same ..)

theorem earlier_some_none (c v : Nat) : earlier c (some v) none = c := rfl

theorem completes_ddHoldExpiry {ctx : Nat} {x : Ctx} {u : HeldTub} (hctx : s.ctx? ctx = some x) (hflow : x.isFlow = false)
    (hheld : (s.rlkCtx ctx).held = [u]) (hback : (s.rlkCtx (ctx + 65536)).held = []) (hcsf : u.csf = false)
    (hn : (s.rlkCtx ctx).n < 65536) (hseq : u.seq = ((s.rlkCtx ctx).n + 1) % 65536) :
    Completes (.ddHoldExpiry dt ctx) s fun t =>
      t.time = max (s.time + dt) (u.since + s.holdPos) ∧ (t.rlkCtx ctx).n = (u.seq + 1) % 65536 ∧ (t.rlkCtx ctx).held = [] ∧
      (t.rlkCtx ctx).fill = (s.rlkCtx ctx).fill + 56 := by
  obtain ⟨b, hb⟩ : ∃ b, b = (s.elapse dt).elapse (u.since + s.holdPos - (s.elapse dt).time) := ⟨_, rfl⟩
  have hbtime : b.time = max (s.time + dt) (u.since + s.holdPos) := by
    rw [hb]
    show s.time + dt + (u.since + s.holdPos - (s.time + dt)) = _
    omega
  have hbctx : b.rlkCtx ctx = s.rlkCtx ctx := State.rlkCtx_congr (by rw [hb]; rfl) ctx
  have hbhold : b.holdPos = s.holdPos := by rw [hb]; rfl
  have hexec : exec (.ddHoldExpiry dt ctx) s = .next (b.deliverTubs ctx x 65536) := by
    have hsince : (s.elapse dt).heldSince ctx = some u.since := by
      unfold State.heldSince
      show (match (s.rlkCtx ctx).held.map (·.since) with | [] => none | t :: rest => some (rest.foldl min t)) = _
      rw [hheld]
      rfl
    have hsince' : (s.elapse dt).heldSince (ctx + 65536) = none := by
      unfold State.heldSince
      show (match (s.rlkCtx (ctx + 65536)).held.map (·.since) with | [] => none | t :: rest => some (rest.foldl min t)) = _
      rw [hback]
      rfl
    have hctx' : (s.elapse dt).ctx? ctx = some x := hctx
    show execDdHoldExpiry dt ctx s = _
    unfold execDdHoldExpiry
    dsimp only
    rw [hsince, hsince', earlier_some_none, hsince, hctx', hb]
    rfl
  -- first N is lost, then the tub that was held goes out
  have hnone : (b.rlkCtx ctx).heldAt (b.rlkCtx ctx).n = none := by
    have hne : ¬ (u.seq == (s.rlkCtx ctx).n) = true := fun h => absurd (beq_iff_eq.mp h) (by omega)
    unfold RlkCtx.heldAt
    rw [hbctx, hheld]
    exact List.find?_cons_of_neg hne
  have hold : (b.rlkCtx ctx).held.any (fun t => decide (t.since + b.holdPos ≤ b.time)) = true := by
    rw [hbctx, hheld, hbhold, hbtime]
    exact List.any_eq_true.mpr ⟨u, List.mem_singleton_self u, decide_eq_true (le_max_right _ _)⟩
  obtain ⟨hlctx, hltime⟩ := State.loseTub_spec b ctx hflow
  rw [hbctx] at hlctx
  have hdeliver : b.deliverTubs ctx x 65536 = (b.loseTub ctx x).giveTub ctx x u := by
    refine (State.deliverTubs_lose (fuel := 65535) x hnone hold).trans (State.deliverTubs_sole (fuel := 65534) x ?_ ?_ hcsf)
    · rw [hlctx]
      exact hheld
    · rw [hlctx]
      exact hseq
  obtain ⟨hgctx, hgtime, -⟩ := State.giveTub_spec (b.loseTub ctx x) ctx x u
  rw [hlctx] at hgctx
  rw [hdeliver] at hexec
  refine ⟨_, hexec, hgtime.trans (hltime.trans hbtime), ?_, ?_, ?_⟩
  · rw [hgctx]
    rfl
  · rw [hgctx]
    show (s.rlkCtx ctx).held.filter (fun v => v.seq != u.seq) = []
    rw [hheld, List.filter_cons_of_neg (by rw [bne_self_eq_false]; decide)]
    rfl
  · rw [hgctx]
    rfl

/-! ### The closing of a record (R197) -/

theorem completes_copyRecordClose {ctx : Nat} {x : Ctx} {r : CopyRec} {rest : List CopyRec} {l : Nat} (hctx : s.ctx? ctx = some x)
    (hrecords : (s.rlkCtx ctx).records = r :: rest) (hback : (s.rlkCtx (ctx + 65536)).records = [])
    (hlost : (x.rlkLinks ctx).filter (fun l => !r.lanes.contains l) = [l]) :
    Completes (.copyRecordClose dt ctx) s fun t =>
      t.time = max (s.time + dt) (r.since + s.holdPos) ∧ t.rlkCtx ctx = { s.rlkCtx ctx with records := rest } ∧
      t.rd Reg.RLK_COPY_LOST_CNT l = (s.rd Reg.RLK_COPY_LOST_CNT l + 1) % 2 ^ 32 ∧
      RegsOnly [(Reg.RLK_COPY_LOST_CNT, l)] s t := by
  obtain ⟨b, hb⟩ : ∃ b, b = (s.elapse dt).elapse (r.since + s.holdPos - (s.elapse dt).time) := ⟨_, rfl⟩
  have hbtime : b.time = max (s.time + dt) (r.since + s.holdPos) := by
    rw [hb]
    show s.time + dt + (r.since + s.holdPos - (s.time + dt)) = _
    omega
  have hbregs : b.regs = s.regs := by rw [hb]; rfl
  have hexec : exec (.copyRecordClose dt ctx) s =
      .next ((b.setRlkCtx ctx { s.rlkCtx ctx with records := rest }).copyLost l (x.cidOn ctx l)) := by
    have hsince : (s.elapse dt).recordSince ctx = some r.since := by
      show ((s.rlkCtx ctx).records.head?).map (·.since) = _
      rw [hrecords]
      rfl
    have hsince' : (s.elapse dt).recordSince (ctx + 65536) = none := by
      show ((s.rlkCtx (ctx + 65536)).records.head?).map (·.since) = _
      rw [hback]
      rfl
    have hctx' : (s.elapse dt).ctx? ctx = some x := hctx
    have hrecords' : ((s.elapse dt).rlkCtx ctx).records = r :: rest := hrecords
    show execCopyRecordClose dt ctx s = _
    unfold execCopyRecordClose
    dsimp only
    rw [hsince, hsince', earlier_some_none, hctx', hrecords']
    dsimp only
    rw [hlost, hb]
    rfl
  have hlostOnly (a : State) (k : Nat) : (a.copyLost l k).time = a.time ∧ (a.copyLost l k).rlkCtx ctx = a.rlkCtx ctx ∧
      (a.copyLost l k).rd Reg.RLK_COPY_LOST_CNT l = (a.rd Reg.RLK_COPY_LOST_CNT l + 1) % 2 ^ 32 ∧
      RegsOnly [(Reg.RLK_COPY_LOST_CNT, l)] a (a.copyLost l k) :=
    ⟨rfl, rfl, State.count_rd_same' (a.setRlkLane l _) Reg.RLK_COPY_LOST_CNT l,
      RegsOnly.count (RegsOnly.upd (RegsOnly.refl _ a)) (by simp)⟩
  obtain ⟨htime, hkeep, hcount, honly⟩ := hlostOnly (b.setRlkCtx ctx { s.rlkCtx ctx with records := rest }) (x.cidOn ctx l)
  refine ⟨_, hexec, htime.trans hbtime, hkeep.trans (State.setRlkCtx_same ..), hcount.trans ?_, ?_⟩
  · exact congrArg (fun m => (m.rd Reg.RLK_COPY_LOST_CNT l + 1) % 2 ^ 32) hbregs
  · exact (regsOnly_of_regs (t := b.setRlkCtx ctx { s.rlkCtx ctx with records := rest }) hbregs _).trans honly

end

/-- Settles O32, clause by clause over frames, the failure of alignment, tubs and records. -/
theorem ralaleEventsTakeEffect : Obligations.RalaleEventsTakeEffect := by
  unfold Obligations.RalaleEventsTakeEffect
  intro s dt lane
  exact ⟨fun _ _ _ _ hlive => completes_rlkFrameRx_unlocked hlive,
    fun _ _ _ _ _ hlive hlooks hf hhit hsync hmore => completes_rlkFrameRx_search hlive hlooks hf hhit hsync hmore,
    fun _ _ _ _ _ hlive hlooks hf hhit hsync => completes_rlkFrameRx_sync hlive hlooks hf hhit hsync,
    fun _ hon hgated hsince => completes_rlkLfa hon hgated hsince,
    fun _ _ hlive halign hcrc => completes_tubRx_badHeader hlive halign hcrc,
    fun _ _ _ _ _ hlive halign hcheck hlim hu hcrc hcid hvbc hvbc' hcsf hctx hsync hheld hseq =>
      completes_tubRx_inOrder hlive halign hcheck hlim hu hcrc hcid hvbc hvbc' hcsf hctx hsync hheld hseq,
    fun _ _ _ hctx hflow hheld hback hcsf hn hseq => completes_ddHoldExpiry hctx hflow hheld hback hcsf hn hseq,
    fun _ _ _ _ _ hctx hrecords hback hlost => completes_copyRecordClose hctx hrecords hback hlost⟩

end Sys2Proof.Machine
end

section
/-! PROOFS. Framing events (chapter 07). -/

namespace Sys2Proof.Machine

/-- Lane 0 in an STM-1 mode, its framer in SYNC without a defect, where the two last frames have shown AIS. -/
def framerNearAis : State :=
  let s := State.reset.wr Reg.PRT_LANE_MODE 0 1
  { s with frm := { s.frm with units := [(srcLane 0, { align := 2, runs := [(5, 2)] })] } }

/-- A frame with its alignment word, one B1 violation and AIS in K2. -/
def frameWithAis : FrmFrame :=
  { word := true, aux := false, fLoss := false, alt := false, mf := false, seq := 0, b1 := 1, bip := 0, bad := 0, blocks := 0,
    ptr := none, ks := some (0, 7), status := none, rai := none, fars := 0, zeros := none, psi := none, trace := none, traceAt := 0,
    label := none, aps := none, ssm := none, sas := [], fecCorr := 0, fecUncorr := 0, copies := none, dgasp := none, fill := none }

/-- The B1 violations that lane 0 has counted after a step. -/
def b1Count : Host.Outcome State Fault Refusal → Nat
  | .next t => t.rd Reg.FRM_LANE_B1_CNT 0
  | _ => 0

/-- Refutes O33: a framer without a raw defect before a frame need not count the frame's violations. Here the frame is the third in
a row that shows AIS, so that AIS is declared with it and counting is suspended (R233). -/
theorem not_framingEventsTakeEffect : ¬ Obligations.FramingEventsTakeEffect := by
  unfold Obligations.FramingEventsTakeEffect
  intro h
  obtain ⟨-, hframe, -⟩ := h framerNearAis 0
  obtain ⟨t, ht, -, hb1, -⟩ := hframe 0 frameWithAis (by decide +kernel) (by decide) (by decide +kernel) (by decide +kernel)
    (by decide +kernel) rfl
  have hcount : b1Count (exec (.framerFrameRx 0 (srcLane 0) frameWithAis) framerNearAis) = 0 := by decide +kernel
  rw [ht] at hcount
  exact absurd (hb1.symm.trans hcount) (by decide +kernel)

end Sys2Proof.Machine
end

section
/-! PROOFS. The commands of protection groups (R239, R240, R242). -/

namespace Sys2Proof.Machine

section
variable {s : State} {dt group : Nat} {h : HostRef} {g : ApsGroup}

theorem State.setGroup_same (s : State) (n : Nat) (g : ApsGroup) : tfind (s.setGroup n g).frm.groups n = some g := tfind_tset_same ..

/-- The timers of a group leave its commands. -/
theorem State.apsTimers_command (s : State) (g : ApsGroup) :
    (s.apsTimers g).command = g.command ∧ (s.apsTimers g).cmdLeg = g.cmdLeg := by
  unfold State.apsTimers
  dsimp only
  split_ifs <;> exact ⟨rfl, rfl⟩

/-- The evaluation of a group's requests leaves its commands, and writes no field. -/
theorem State.evalGroup_command (hg : tfind s.frm.groups group = some g) :
    (∃ q, tfind (s.evalGroup group).frm.groups group = some q ∧ q.command = g.command ∧ q.cmdLeg = g.cmdLeg) ∧
    (s.evalGroup group).regs = s.regs := by
  obtain ⟨hcmd, hleg⟩ := State.apsTimers_command s g
  unfold State.evalGroup
  rw [hg]
  dsimp only
  split
  · exact ⟨⟨g, hg, rfl, rfl⟩, rfl⟩
  · exact ⟨⟨_, State.setGroup_same .., hcmd, hleg⟩, rfl⟩

theorem completes_frmApsCfg (hg : tfind s.frm.groups group = some g) {p : ApsCfg} (hadm : Admitted s dt h 0 Op.FRM_APS_CFG)
    (hp : p.group = group) (hmode : apsModeOk g.scheme p.mode = true) (hhold : p.hold ≤ 100) (hwtr : 300 ≤ p.wtr) (hwtr' : p.wtr ≤ 720) :
    Completes (.frmApsCfg dt h p) s fun t =>
      tfind t.frm.groups group = some { g with next := some (p.mode, p.hold, p.wtr) } ∧ Answered t h Op.FRM_APS_CFG 0 0 [] ∧
      RegsOnly [] s t := by
  refine completes_of_admitted rfl hadm ?_
  have hg' : tfind (s.elapse dt).frm.groups p.group = some g := hp ▸ hg
  rw [hg']
  dsimp only
  rw [if_neg (by rw [hmode]; simp; omega), hp]
  exact ⟨State.setGroup_same .., State.done_answered .., RegsOnly.done (RegsOnly.upd (RegsOnly.of_elapse _ s dt)) _ _⟩

/-- A group's command is stored, its requests are evaluated, and the command completes. -/
theorem State.setGroup_evalGroup_done (s : State) (dt group : Nat) (h : HostRef) (q : ApsGroup) :
    (∃ z, tfind ((((s.elapse dt).setGroup group q).evalGroup group).done h Op.FRM_APS_CMD).frm.groups group = some z ∧
      z.command = q.command ∧ z.cmdLeg = q.cmdLeg) ∧
    Answered ((((s.elapse dt).setGroup group q).evalGroup group).done h Op.FRM_APS_CMD) h Op.FRM_APS_CMD 0 0 [] ∧
    RegsOnly [] s ((((s.elapse dt).setGroup group q).evalGroup group).done h Op.FRM_APS_CMD) := by
  obtain ⟨hz, hregs⟩ := State.evalGroup_command (State.setGroup_same (s.elapse dt) group q)
  exact ⟨hz, State.done_answered .., RegsOnly.done (regsOnly_of_regs hregs _) _ _⟩

theorem completes_frmApsCmd_clear (hg : tfind s.frm.groups group = some g) {leg : Nat} (hadm : Admitted s dt h 0 Op.FRM_APS_CMD)
    (hauth : s.hasAuthority = true) (hleg : leg ≤ 1) :
    Completes (.frmApsCmd dt h group 0 leg) s fun t =>
      (∃ q, tfind t.frm.groups group = some q ∧ q.command = 0) ∧ Answered t h Op.FRM_APS_CMD 0 0 [] ∧ RegsOnly [] s t := by
  refine completes_of_admitted rfl hadm ?_
  have hauth' : (s.elapse dt).hasAuthority = true := hauth
  have hg' : tfind (s.elapse dt).frm.groups group = some g := hg
  rw [if_neg (by rw [hauth']; decide), hg']
  dsimp only
  rw [if_neg (by simp; omega), if_pos rfl]
  obtain ⟨⟨z, hz, hcmd, -⟩, hdone, hregs⟩ := State.setGroup_evalGroup_done s dt group h { g with command := 0, wtrFrom := none }
  exact ⟨⟨z, hz, hcmd⟩, hdone, hregs⟩

section
variable (hg : tfind s.frm.groups group = some g) {cmd leg : Nat} (hadm : Admitted s dt h 0 Op.FRM_APS_CMD)
  (hauth : s.hasAuthority = true) (hcmd : 1 ≤ cmd) (hcmd' : cmd ≤ 4) (hleg : leg ≤ 1)
include hg hadm hauth hcmd hcmd' hleg

theorem completes_frmApsCmd_set (hreq : commandReq cmd ≤ (s.localWant g).req) :
    Completes (.frmApsCmd dt h group cmd leg) s fun t =>
      (∃ q, tfind t.frm.groups group = some q ∧ q.command = cmd ∧ q.cmdLeg = leg) ∧ Answered t h Op.FRM_APS_CMD 0 0 [] ∧
      RegsOnly [] s t := by
  refine completes_of_admitted rfl hadm ?_
  have hauth' : (s.elapse dt).hasAuthority = true := hauth
  have hg' : tfind (s.elapse dt).frm.groups group = some g := hg
  have hreq' : ¬ ((s.elapse dt).localWant g).req < commandReq cmd := Nat.not_lt.mpr hreq
  rw [if_neg (by rw [hauth']; decide), hg']
  dsimp only
  rw [if_neg (by simp; omega), if_neg (by omega), if_neg hreq']
  exact State.setGroup_evalGroup_done s dt group h { g with command := cmd, cmdLeg := leg }

theorem completes_frmApsCmd_superseded (hreq : (s.localWant g).req < commandReq cmd) :
    Completes (.frmApsCmd dt h group cmd leg) s fun t =>
      t.frm = s.frm ∧ Answered t h Op.FRM_APS_CMD 2 5 [] ∧ RegsOnly [] s t := by
  refine completes_of_admitted rfl hadm ?_
  have hauth' : (s.elapse dt).hasAuthority = true := hauth
  have hg' : tfind (s.elapse dt).frm.groups group = some g := hg
  have hreq' : ((s.elapse dt).localWant g).req < commandReq cmd := hreq
  rw [if_neg (by rw [hauth']; decide), hg']
  dsimp only
  rw [if_neg (by simp; omega), if_neg (by omega), if_pos hreq']
  exact ⟨rfl, State.refuse_answered .., RegsOnly.of_elapse _ s dt⟩

end

end

/-- Settles O35, clause by clause over FRM_APS_CFG and FRM_APS_CMD. -/
theorem protectionCommandsTakeEffect : Obligations.ProtectionCommandsTakeEffect := by
  unfold Obligations.ProtectionCommandsTakeEffect
  intro s dt h group g hg
  exact ⟨fun _ hadm hp hmode hhold hwtr hwtr' => completes_frmApsCfg hg hadm hp hmode hhold hwtr hwtr',
    fun _ hadm hauth hleg => completes_frmApsCmd_clear hg hadm hauth hleg,
    fun _ _ hadm hauth hcmd hcmd' hleg hreq => completes_frmApsCmd_set hg hadm hauth hcmd hcmd' hleg hreq,
    fun _ _ hadm hauth hcmd hcmd' hleg hreq => completes_frmApsCmd_superseded hg hadm hauth hcmd hcmd' hleg hreq⟩

end Sys2Proof.Machine
end

section
/-! PROOFS. The FRM commands (R222, R234, R236, R242, R244, R312). -/

namespace Sys2Proof.Machine

/-! ### What a framer's settling keeps -/

/-- Outside the timing block, only fields of lanes and of blocks after the framers' differ: the framers' own counters stay. -/
def FramerCountsKept (s t : State) : Prop :=
  ∀ (f : Fld) (i : Nat), f.block i ≠ 3 → f.key i < Reg.FRM_LANE_ALIGN.key 0 → t.rd f i = s.rd f i

section
variable {s t u a : State}

theorem FramerCountsKept.refl (s : State) : FramerCountsKept s s := fun _ _ _ _ => rfl

theorem FramerCountsKept.trans (h : FramerCountsKept s t) (k : FramerCountsKept t u) : FramerCountsKept s u :=
  fun f i hb hk => (k f i hb hk).trans (h f i hb hk)

theorem FramerCountsKept.of_regs (h : FramerCountsKept s t) (k : u.regs = t.regs) : FramerCountsKept s u :=
  fun f i hb hk => (congrArg (fun m => m.rd f i) k).trans (h f i hb hk)

theorem FramerCountsKept.wr (h : FramerCountsKept s t) {g : Fld} (hg : Reg.FRM_LANE_ALIGN.base * 32 ≤ g.base * 32 + g.lo) (j v : Nat) :
    FramerCountsKept s (t.wr g j v) := fun f i hb hk => by
  rw [State.wr_rd_other]
  · exact h f i hb hk
  · intro hkey
    rw [hkey] at hk
    unfold Fld.key at hk
    simp only [Reg.FRM_LANE_ALIGN] at hk hg
    omega

theorem FramerCountsKept.ite {c : Prop} [Decidable c] (h : FramerCountsKept s t) (k : FramerCountsKept s u) :
    FramerCountsKept s (if c then t else u) := by
  split <;> assumption

theorem State.timReview_framerCounts (s : State) : FramerCountsKept s s.timReview :=
  fun f i hb _ => State.timReview_blocks s f i (by simpa using hb)

theorem State.laneRegs_framerCounts (h : FramerCountsKept a s) (l : Nat) : FramerCountsKept a (s.laneRegs l) := by
  unfold State.laneRegs
  refine FramerCountsKept.ite h ?_
  exact ((((((((((h.wr (by decide) _ _).wr (by decide) _ _).wr (by decide) _ _).wr (by decide) _ _).wr (by decide) _ _).wr
    (by decide) _ _).wr (by decide) _ _).wr (by decide) _ _).wr (by decide) _ _).wr (by decide) _ _).wr (by decide) _ _

/-- Every framer keeps its state of alignment. -/
def AlignKept (s t : State) : Prop := ∀ k, (t.framer k).align = (s.framer k).align

theorem AlignKept.of_frm (h : t.frm = s.frm) : AlignKept s t := fun k => by
  unfold State.framer
  rw [h]

theorem State.setFramer_same (s : State) (k : Nat) (u : FrmUnit) : (s.setFramer k u).framer k = u :=
  (tget_tset ..).trans (if_pos rfl)

theorem State.setFramer_align (s : State) {k : Nat} {u : FrmUnit} (h : u.align = (s.framer k).align) : AlignKept s (s.setFramer k u) := by
  intro q
  show (tget {} (tset s.frm.units k u) q).align = _
  rw [tget_tset]
  split
  next hq => rw [h, hq]
  next => rfl

/-- What one framer's settling keeps. -/
theorem State.settleOne_kept (s : State) (k : Nat) : FramerCountsKept s (s.settleOne k) ∧ AlignKept s (s.settleOne k) := by
  let u := s.framer k
  let new := s.declares k u
  let isMasked := new.any maskOrder.contains || s.serverMasks k
  let u1 : FrmUnit := { u with declared := new, masked := isMasked }
  let u2 : FrmUnit := if u.masked && !isMasked then { u1 with window := [], winB1 := [], winFrom := s.cycle } else u1
  have hu2 : u2.align = u.align := by
    show FrmUnit.align (if _ then _ else _) = _
    split <;> rfl
  let s1 := s.setFramer k u2
  let s2 := (List.range 19).foldl (fun a c =>
    if u.declared.contains c != new.contains c then a.reportDefect k c (new.contains c) else a) s1
  have hreport (a : State) (c : Nat) (on : Bool) : (a.reportDefect k c on).regs = a.regs ∧ (a.reportDefect k c on).frm = a.frm :=
    ⟨State.raiseLim_regs .., State.raiseLim_frm ..⟩
  have h2 (l : List Nat) : ∀ a : State, (l.foldl (fun a c =>
      if u.declared.contains c != new.contains c then a.reportDefect k c (new.contains c) else a) a).regs = a.regs ∧
      (l.foldl (fun a c => if u.declared.contains c != new.contains c then a.reportDefect k c (new.contains c) else a) a).frm = a.frm := by
    induction l with
    | nil => exact fun _ => ⟨rfl, rfl⟩
    | cons c rest ih =>
      intro a
      obtain ⟨hregs, hfrm⟩ := ih (if u.declared.contains c != new.contains c then a.reportDefect k c (new.contains c) else a)
      refine ⟨hregs.trans ?_, hfrm.trans ?_⟩
      · split
        · exact (hreport _ _ _).1
        · rfl
      · split
        · exact (hreport _ _ _).2
        · rfl
  let s3 := if keyIsLane k then s2.laneRegs (keyNum k) else s2
  have h3 : FramerCountsKept s s3 ∧ s3.frm = s1.frm := by
    have hbase : FramerCountsKept s s2 := (FramerCountsKept.refl s).of_regs (h2 _ s1).1
    show FramerCountsKept s (if _ then _ else _) ∧ State.frm (if _ then _ else _) = _
    split
    · exact ⟨State.laneRegs_framerCounts hbase _,
        (State.laneRegs_frame (pt := .frm) (by decide) (Part.same_refl _ s2)).trans (h2 _ s1).2⟩
    · exact ⟨hbase, (h2 _ s1).2⟩
  have hdefect (a : State) (p : Nat) (ne fe : Bool) : (a.pmDefect p ne fe).frm = a.frm :=
    State.pmDefect_frame (pt := .frm) (by decide) (Part.same_refl _ a)
  obtain ⟨s4, hs4, h4⟩ : ∃ s4, s4 = (match s3.framerPoint k with
      | none => s3
      | some p => s3.pmDefect p u2.tsf (new.contains 7 || new.contains 8)) ∧ (FramerCountsKept s s4 ∧ s4.frm = s1.frm) := by
    refine ⟨_, rfl, ?_⟩
    split
    · exact h3
    · exact ⟨h3.1.of_regs (State.pmDefect_regs ..), (hdefect ..).trans h3.2⟩
  have hsettle : s.settleOne k = if keyIsLane k && modeStm (s.rd Reg.PRT_LANE_MODE (keyNum k)) then
      s4.pmDefect (rsPoint (keyNum k)) (new.contains 0 || new.contains 2) false else s4 := by
    rw [hs4]
    rfl
  have halign (t : State) (ht : t.frm = s1.frm) : AlignKept s t := fun q =>
    (AlignKept.of_frm ht q).trans (State.setFramer_align s hu2 q)
  rw [hsettle]
  split
  · exact ⟨h4.1.of_regs (State.pmDefect_regs ..), halign _ ((hdefect ..).trans h4.2)⟩
  · exact ⟨h4.1, halign _ h4.2⟩

theorem State.settle_kept (s : State) (k : Nat) : FramerCountsKept s (s.settle k) ∧ AlignKept s (s.settle k) := by
  have hfold (l : List Nat) : ∀ a : State, FramerCountsKept a (l.foldl (fun a q => a.settleOne q) a) ∧
      AlignKept a (l.foldl (fun a q => a.settleOne q) a) := by
    induction l with
    | nil => exact fun a => ⟨FramerCountsKept.refl a, fun _ => rfl⟩
    | cons q rest ih =>
      intro a
      obtain ⟨hone, halign⟩ := State.settleOne_kept a q
      obtain ⟨hrest, halign'⟩ := ih (a.settleOne q)
      exact ⟨hone.trans hrest, fun k => (halign' k).trans (halign k)⟩
  obtain ⟨hone, halign⟩ := State.settleOne_kept s k
  unfold State.settle
  dsimp only
  obtain ⟨hrest, halign'⟩ := hfold ((s.frm.units.map (·.1)).filter (fun q => (s.servers 8 q).contains k)) (s.settleOne k)
  refine ⟨(hone.trans hrest).trans (State.timReview_framerCounts _), fun q => ?_⟩
  refine (AlignKept.of_frm (State.timReview_frame (pt := .frm) (by decide) (Part.same_refl _ _)) q).trans ((halign' q).trans (halign q))

end

end Sys2Proof.Machine
end

section
/-! PROOFS. The FRM commands (R222, R234, R236, R242, R244, R312), clause by clause. -/

namespace Sys2Proof.Machine

theorem State.done_mem_of_noCpl (s : State) {h : HostRef} (hno : h.noCpl = true) (op : Nat) : (s.done h op).io.mem = s.io.mem := by
  show (s.ioComplete _ h.noCpl).mem = _
  unfold State.ioComplete
  rw [hno]
  rfl

/-! ### Traces -/

/-- Half a trace of 64 bytes is replaced (FRM_TRACE_SET). -/
def traceWith (old new : List Nat) (part : Nat) : List Nat := if part = 0 then new ++ old.drop 32 else old.take 32 ++ new

theorem traceWith_half {old new : List Nat} {part : Nat} (hold : old.length = 64) (hnew : new.length = 32) (hpart : part ≤ 1) :
    ((traceWith old new part).drop (32 * part)).take 32 = new := by
  unfold traceWith
  split
  next hzero =>
    rw [hzero, Nat.mul_zero, List.drop_zero, List.take_left' hnew]
  next hone =>
    obtain rfl : part = 1 := by omega
    rw [List.drop_left' (by rw [List.length_take, hold]; rfl), ← hnew, List.take_length]

section
variable {s : State} {dt ctx : Nat} {h : HostRef} {x : Ctx} (hctx : s.ctx? ctx = some x)
include hctx

/-- A command that names a context outside a migration runs at once. -/
theorem State.orHold_run (hmig : x.migrating = none) (cmd : CtxCmd) (run : State → State) :
    (s.elapse dt).orHold ctx cmd run = run (s.elapse dt) := by
  have hctx' : (s.elapse dt).ctx? ctx = some x := hctx
  unfold State.orHold
  rw [hctx']
  dsimp only
  rw [if_neg (by rw [hmig]; decide)]

/-- A command that names a MIGRATING context is held and counted. -/
theorem State.orHold_held (hmig : x.migrating.isSome = true) (cmd : CtxCmd) (run : State → State) :
    (s.elapse dt).orHold ctx cmd run =
      ({ s.elapse dt with ovm := { s.ovm with held := s.ovm.held ++ [(ctx, cmd)] } } : State).count Reg.OVM_HELD_CNT 0 := by
  have hctx' : (s.elapse dt).ctx? ctx = some x := hctx
  unfold State.orHold
  rw [hctx']
  dsimp only
  rw [if_pos hmig]
  rfl

theorem State.frmCtxOk_of_active (hactive : x.active = true) (hkind : kindHasOverhead x.kind = true) :
    (s.elapse dt).frmCtxOk ctx = true := by
  have hctx' : (s.elapse dt).ctx? ctx = some x := hctx
  unfold State.frmCtxOk
  rw [hctx']
  exact Bool.and_eq_true_iff.mpr ⟨hactive, hkind⟩

theorem completes_frmCtxCfg_held {p : CtxCfg} (hadm : Admitted s dt h 0 Op.FRM_CTX_CFG) (hp : p.ctx = ctx)
    (hmig : x.migrating.isSome = true) :
    Completes (.frmCtxCfg dt h p) s fun t =>
      t.ovm.held = s.ovm.held ++ [(ctx, .ctxCfg h p)] ∧ t.rd Reg.OVM_HELD_CNT 0 = (s.rd Reg.OVM_HELD_CNT 0 + 1) % 2 ^ 32 ∧
      t.io = s.io ∧ t.frm = s.frm ∧ RegsOnly [(Reg.OVM_HELD_CNT, 0)] s t := by
  refine completes_of_admitted rfl hadm ?_
  rw [hp, State.orHold_held hctx hmig]
  exact ⟨rfl, State.count_rd_same' .., rfl, rfl, RegsOnly.count (RegsOnly.upd (RegsOnly.of_elapse _ s dt)) (by simp)⟩

variable (hactive : x.active = true) (hkind : kindHasOverhead x.kind = true) (hmig : x.migrating = none)
include hactive hkind hmig

theorem completes_frmCtxCfg {p : CtxCfg} {c : FrmCfg} (hadm : Admitted s dt h 0 Op.FRM_CTX_CFG) (hp : p.ctx = ctx)
    (hsf : p.sf = 0 ∨ 3 ≤ p.sf ∧ p.sf ≤ 5) (hsd : p.sd = 0 ∨ 5 ≤ p.sd ∧ p.sd ≤ 9) (htrace : p.trace ≤ 3) (hsa : p.sa ≤ 4)
    (hc : c = { (s.framer (s.frmKey ctx)).cfg with
      sf := p.sf, sd := p.sd, trace := p.trace, acts := p.acts % 16, label := p.label, sa := p.sa })
    (hexp : s.sfExp c < s.sdExp c)
    (hwin : s.monitorRate (s.frmKey ctx) (s.framerKind (s.frmKey ctx)) = 0 ∨
      windowCycles (s.sdExp c) (s.monitorRate (s.frmKey ctx) (s.framerKind (s.frmKey ctx))) ≤ 80000 ∧
      windowCycles (s.sfExp c) (s.monitorRate (s.frmKey ctx) (s.framerKind (s.frmKey ctx))) ≤ 80000) :
    Completes (.frmCtxCfg dt h p) s fun t =>
      t.framer (s.frmKey ctx) = { s.framer (s.frmKey ctx) with cfgNext := some c } ∧ Answered t h Op.FRM_CTX_CFG 0 0 [] ∧
      RegsOnly [] s t := by
  have hdo : (s.elapse dt).doCtxCfg h p =
      ((s.elapse dt).setFramer (s.frmKey ctx) { s.framer (s.frmKey ctx) with cfgNext := some c }).done h Op.FRM_CTX_CFG := by
    have hok := State.frmCtxOk_of_active (dt := dt) hctx hactive hkind
    have hrange : ((p.sf != 0 && (decide (p.sf < 3) || decide (5 < p.sf))) || (p.sd != 0 && (decide (p.sd < 5) || decide (9 < p.sd))) ||
        decide (3 < p.trace) || decide (4 < p.sa)) = false := by
      simp
      omega
    have hjudge : ¬ (decide (s.sdExp c ≤ s.sfExp c) || (s.monitorRate (s.frmKey ctx) (s.framerKind (s.frmKey ctx)) != 0 &&
        (decide (80000 < windowCycles (s.sdExp c) (s.monitorRate (s.frmKey ctx) (s.framerKind (s.frmKey ctx)))) ||
          decide (80000 < windowCycles (s.sfExp c) (s.monitorRate (s.frmKey ctx) (s.framerKind (s.frmKey ctx))))))) = true := by
      simp
      omega
    subst hc
    unfold State.doCtxCfg
    rw [hp, if_neg (by rw [hok]; decide), if_neg (by rw [hrange]; decide)]
    exact if_neg hjudge
  refine completes_of_admitted rfl hadm ?_
  rw [hp, State.orHold_run hctx hmig, hdo]
  exact ⟨State.setFramer_same .., State.done_answered .., RegsOnly.done (RegsOnly.upd (RegsOnly.of_elapse _ s dt)) _ _⟩

theorem completes_frmTraceSet {p : TraceSet} (hadm : Admitted s dt h 0 Op.FRM_TRACE_SET) (hp : p.ctx = ctx) (htx : p.tx ≤ 1)
    (hlayer : p.layer ≤ 3) (hpart : p.part ≤ 1) (hlen : p.bytes.length = 32) :
    Completes (.frmTraceSet dt h p) s fun t =>
      (∃ c, (t.framer (s.frmKey ctx)).cfgNext = some c ∧
        ((tget [] (if p.tx = 0 then c.expect else c.send) p.layer).drop (32 * p.part)).take 32 = p.bytes) ∧
      Answered t h Op.FRM_TRACE_SET 0 0 [] ∧ RegsOnly [] s t := by
  let u := s.framer (s.frmKey ctx)
  let c := u.cfgNext.getD u.cfg
  let tab := if p.tx = 0 then c.expect else c.send
  let l := traceWith ((tget [] tab p.layer ++ List.replicate 64 0).take 64) ((p.bytes ++ List.replicate 32 0).take 32) p.part
  let c1 : FrmCfg := if p.tx = 0 then { c with expect := tset c.expect p.layer l } else { c with send := tset c.send p.layer l }
  have hdo : (s.elapse dt).doTraceSet h p =
      ((s.elapse dt).setFramer (s.frmKey ctx) { u with cfgNext := some c1 }).done h Op.FRM_TRACE_SET := by
    have hok := State.frmCtxOk_of_active (dt := dt) hctx hactive hkind
    unfold State.doTraceSet
    rw [hp, if_neg (by rw [hok]; decide), if_neg (by simp; omega)]
    rfl
  have hbytes : (p.bytes ++ List.replicate 32 0).take 32 = p.bytes := List.take_left' hlen
  have htab : tget [] (if p.tx = 0 then c1.expect else c1.send) p.layer = l := by
    show tget [] (if p.tx = 0 then FrmCfg.expect (if p.tx = 0 then _ else _) else FrmCfg.send (if p.tx = 0 then _ else _)) p.layer = l
    split
    · exact (tget_tset ..).trans (if_pos rfl)
    · exact (tget_tset ..).trans (if_pos rfl)
  refine completes_of_admitted rfl hadm ?_
  rw [hp, State.orHold_run hctx hmig, hdo]
  refine ⟨⟨c1, congrArg FrmUnit.cfgNext (State.setFramer_same ..), ?_⟩, State.done_answered ..,
    RegsOnly.done (RegsOnly.upd (RegsOnly.of_elapse _ s dt)) _ _⟩
  rw [htab]
  refine (traceWith_half ?_ ?_ hpart).trans hbytes
  · rw [List.length_take, List.length_append, List.length_replicate]
    omega
  · rw [hbytes, hlen]

theorem completes_frmCtxRead {host : Nat} (hadm : Admitted s dt h 0 Op.FRM_CTX_READ) (hhost : host % 64 = 0) :
    Completes (.frmCtxRead dt h ctx host) s fun t =>
      Answered t h Op.FRM_CTX_READ 0 0 [] ∧ RegsOnly [] s t ∧
      (h.noCpl = true → t.io.mem = memWrite s.io.mem host (((s.framer (s.frmKey ctx)).snap ++ List.replicate 128 0).take 128)) := by
  have hdo : (s.elapse dt).doFrmRead h ctx host = ((s.elapse dt).hostWrite host
      (((s.framer (s.frmKey ctx)).snap ++ List.replicate 128 0).take 128)).done h Op.FRM_CTX_READ := by
    have hok := State.frmCtxOk_of_active (dt := dt) hctx hactive hkind
    unfold State.doFrmRead
    rw [if_neg (by rw [hok]; decide), if_neg (by rw [hhost]; decide)]
    rfl
  refine completes_of_admitted rfl hadm ?_
  rw [State.orHold_run hctx hmig, hdo]
  exact ⟨State.done_answered .., RegsOnly.done (RegsOnly.upd (RegsOnly.of_elapse _ s dt)) _ _, fun hno => State.done_mem_of_noCpl (State.hostWrite _ _ _) hno _⟩

theorem completes_frmForce {what on : Nat} (hadm : Admitted s dt h 0 Op.FRM_FORCE) (hauth : s.hasAuthority = true) (hon : on ≤ 1)
    (hwhat : what < 2 ∨ what ≤ 3 ∧ kindOdu (s.framerKind (s.frmKey ctx)) = true) :
    Completes (.frmForce dt h ctx what on) s fun t =>
      (∃ l, (t.framer (s.frmKey ctx)).forcedNext = some l ∧ (what ∈ l ↔ on = 1)) ∧ Answered t h Op.FRM_FORCE 0 0 [] ∧
      RegsOnly [] s t := by
  let u := s.framer (s.frmKey ctx)
  let m := (u.forcedNext.getD u.forced).filter fun c => c != what
  have hdo : (s.elapse dt).doForce h ctx what on =
      ((s.elapse dt).setFramer (s.frmKey ctx) { u with forcedNext := some (if on = 1 then what :: m else m) }).done h Op.FRM_FORCE := by
    have hok := State.frmCtxOk_of_active (dt := dt) hctx hactive hkind
    have hauth' : (s.elapse dt).hasAuthority = true := hauth
    have hrange : ¬ (decide (3 < what) || decide (1 < on) ||
        (decide (2 ≤ what) && !kindOdu (s.framerKind (s.frmKey ctx)))) = true := by
      rcases hwhat with hlow | ⟨hhigh, hodu⟩
      · simp
        omega
      · rw [hodu]
        simp
        omega
    unfold State.doForce
    rw [if_neg (by rw [hauth']; decide), if_neg (by rw [hok]; decide)]
    exact if_neg hrange
  refine completes_of_admitted rfl hadm ?_
  rw [State.orHold_run hctx hmig, hdo]
  refine ⟨⟨_, congrArg FrmUnit.forcedNext (State.setFramer_same ..), ?_⟩, State.done_answered ..,
    RegsOnly.done (RegsOnly.upd (RegsOnly.of_elapse _ s dt)) _ _⟩
  have hm : what ∉ m := fun hin => absurd (List.mem_filter.mp hin).2 (by simp)
  by_cases h1 : on = 1
  · rw [if_pos h1]
    exact ⟨fun _ => h1, fun _ => List.mem_cons_self ..⟩
  · rw [if_neg h1]
    exact ⟨fun hin => absurd hin hm, fun k => absurd k h1⟩

theorem completes_frmErrInsert {monitor viol frames : Nat} (hadm : Admitted s dt h 0 Op.FRM_ERR_INSERT) (hmon : monitor ≤ 7)
    (hviol : 1 ≤ viol) (hviol' : viol ≤ 8) (hframes : 1 ≤ frames) :
    Completes (.frmErrInsert dt h ctx monitor viol frames) s fun t =>
      t.framer (s.frmKey ctx) = { s.framer (s.frmKey ctx) with errIns := some (monitor, viol, frames) } ∧
      Answered t h Op.FRM_ERR_INSERT 0 0 [] ∧ RegsOnly [] s t := by
  have hdo : (s.elapse dt).doErrInsert h ctx monitor viol frames = ((s.elapse dt).setFramer (s.frmKey ctx)
      { s.framer (s.frmKey ctx) with errIns := some (monitor, viol, frames) }).done h Op.FRM_ERR_INSERT := by
    have hok := State.frmCtxOk_of_active (dt := dt) hctx hactive hkind
    unfold State.doErrInsert
    rw [if_neg (by rw [hok]; decide), if_neg (by simp; omega)]
    rfl
  refine completes_of_admitted rfl hadm ?_
  rw [State.orHold_run hctx hmig, hdo]
  exact ⟨State.setFramer_same .., State.done_answered .., RegsOnly.done (RegsOnly.upd (RegsOnly.of_elapse _ s dt)) _ _⟩

end

/-! ### FRM_REFRAME (R222) -/

section
variable {s : State} {dt ctx lane : Nat} {h : HostRef} {x : Ctx}

/-- A framer that FRM_REFRAME restarts, with the note of its port's logical lanes. -/
def State.reframed (s : State) (k : Nat) (otl : Option (Bool × Nat)) : State :=
  (((s.setFramer k { (s.framer k).toSearch s.time with otl := otl }).countOof k (s.framer k)).settle k).count Reg.FRM_REFRAME_CNT 0

theorem FrmUnit.toSearch_align (u : FrmUnit) (now : Nat) : (u.toSearch now).align = 0 := by
  unfold FrmUnit.toSearch FrmUnit.setRaw
  dsimp only
  rw [if_pos rfl]
  split <;> rfl

theorem State.countOof_kept (a : State) (k : Nat) (was : FrmUnit) :
    FramerCountsKept a (a.countOof k was) ∧ AlignKept a (a.countOof k was) := by
  unfold State.countOof
  split
  · exact ⟨(FramerCountsKept.refl a).wr (by decide) _ _, AlignKept.of_frm rfl⟩
  · exact ⟨FramerCountsKept.refl a, fun _ => rfl⟩

/-- A restarted framer searches, and the restart is counted. -/
theorem State.reframed_spec (s : State) (k : Nat) (otl : Option (Bool × Nat)) :
    ((s.reframed k otl).framer k).align = 0 ∧
    (s.reframed k otl).rd Reg.FRM_REFRAME_CNT 0 = (s.rd Reg.FRM_REFRAME_CNT 0 + 1) % 2 ^ 32 := by
  obtain ⟨a, ha⟩ : ∃ a, a = s.setFramer k { (s.framer k).toSearch s.time with otl := otl } := ⟨_, rfl⟩
  have halign : (a.framer k).align = 0 := by
    rw [ha, State.setFramer_same]
    exact FrmUnit.toSearch_align ..
  have hregs : a.regs = s.regs := by rw [ha]; rfl
  obtain ⟨hoof, hoofAlign⟩ := State.countOof_kept a k (s.framer k)
  obtain ⟨hsettle, hsettleAlign⟩ := State.settle_kept (a.countOof k (s.framer k)) k
  obtain ⟨b, hb⟩ : ∃ b, b = (a.countOof k (s.framer k)).settle k := ⟨_, rfl⟩
  rw [← hb] at hsettle hsettleAlign
  have hcount : b.rd Reg.FRM_REFRAME_CNT 0 = s.rd Reg.FRM_REFRAME_CNT 0 :=
    ((hoof.trans hsettle) Reg.FRM_REFRAME_CNT 0 (by decide) (by decide)).trans
      (congrArg (fun m => m.rd Reg.FRM_REFRAME_CNT 0) hregs)
  have hdef : s.reframed k otl = b.count Reg.FRM_REFRAME_CNT 0 := by
    rw [hb, ha]
    rfl
  rw [hdef]
  refine ⟨((hsettleAlign k).trans (hoofAlign k)).trans halign, ?_⟩
  rw [← hcount]
  exact State.count_rd_same' ..

/-- What FRM_REFRAME leaves behind where it runs. -/
theorem State.reframed_done {a b : State} {k : Nat} {otl : Option (Bool × Nat)} (hb : b = a.reframed k otl) (h : HostRef) :
    (((b.raiseC Ev.FRM_REFRAMED k [(2, keyNum k)]).done h Op.FRM_REFRAME).framer k).align = 0 ∧
    ((b.raiseC Ev.FRM_REFRAMED k [(2, keyNum k)]).done h Op.FRM_REFRAME).rd Reg.FRM_REFRAME_CNT 0 =
      (a.rd Reg.FRM_REFRAME_CNT 0 + 1) % 2 ^ 32 ∧
    Raised ((b.raiseC Ev.FRM_REFRAMED k [(2, keyNum k)]).done h Op.FRM_REFRAME) Ev.FRM_REFRAMED k [(2, keyNum k)] ∧
    Answered ((b.raiseC Ev.FRM_REFRAMED k [(2, keyNum k)]).done h Op.FRM_REFRAME) h Op.FRM_REFRAME 0 0 [] := by
  obtain ⟨halign, hcount⟩ := State.reframed_spec a k otl
  rw [← hb] at halign hcount
  exact ⟨halign, hcount, (State.raiseC_raised b _ _ _).done _ _, State.done_answered ..⟩

theorem completes_frmReframe_ctx (hctx : s.ctx? ctx = some x) (hactive : x.active = true) (hkind : kindHasOverhead x.kind = true)
    (hadm : Admitted s dt h 0 Op.FRM_REFRAME) (hpdh : kindPdh (s.framerKind (srcCtx ctx)) = true) :
    Completes (.frmReframe dt h 0xFFFF ctx) s fun t =>
      (t.framer (srcCtx ctx)).align = 0 ∧ t.rd Reg.FRM_REFRAME_CNT 0 = (s.rd Reg.FRM_REFRAME_CNT 0 + 1) % 2 ^ 32 ∧
      Raised t Ev.FRM_REFRAMED (srcCtx ctx) [(2, keyNum (srcCtx ctx))] ∧ Answered t h Op.FRM_REFRAME 0 0 [] := by
  have hok := State.frmCtxOk_of_active (dt := dt) hctx hactive hkind
  have hpdh' : kindPdh ((s.elapse dt).framerKind (srcCtx ctx)) = true := hpdh
  have hrun := State.reframed_done (a := s.elapse dt) (k := srcCtx ctx) (otl := ((s.elapse dt).framer (srcCtx ctx)).otl) rfl h
  refine completes_of_admitted rfl hadm ?_
  dsimp only
  rw [if_neg (by rw [hok, hpdh']; decide), if_neg (by rw [beq_self_eq_true]; exact Bool.false_ne_true)]
  exact hrun

theorem completes_frmReframe_lane (hadm : Admitted s dt h 0 Op.FRM_REFRAME) (hl : lane < 72) (hfirst : s.portFirst lane = lane)
    (hmode : (modeStm (s.rd Reg.PRT_LANE_MODE lane) || modeOtu (s.rd Reg.PRT_LANE_MODE lane)) = true) :
    Completes (.frmReframe dt h lane ctx) s fun t =>
      (t.framer (srcLane lane)).align = 0 ∧ t.rd Reg.FRM_REFRAME_CNT 0 = (s.rd Reg.FRM_REFRAME_CNT 0 + 1) % 2 ^ 32 ∧
      Raised t Ev.FRM_REFRAMED (srcLane lane) [(2, lane)] ∧ Answered t h Op.FRM_REFRAME 0 0 [] := by
  have hkey : keyNum (srcLane lane) = lane := by
    unfold keyNum srcLane
    omega
  have hne : (lane == 0xFFFF) = false := beq_eq_false_iff_ne.mpr (by omega)
  have hlane : (decide (lane < 72) && (s.elapse dt).portFirst lane == lane &&
      (modeStm ((s.elapse dt).rd Reg.PRT_LANE_MODE lane) || modeOtu ((s.elapse dt).rd Reg.PRT_LANE_MODE lane))) = true := by
    simp only [Bool.and_eq_true, decide_eq_true_eq, beq_iff_eq]
    exact ⟨⟨hl, hfirst⟩, hmode⟩
  refine completes_of_admitted rfl hadm ?_
  dsimp only
  rw [hne, hlane, if_neg (by rw [Bool.false_and]; exact Bool.false_ne_true), if_neg (by decide)]
  simp only [Bool.false_eq_true, if_false]
  obtain ⟨b, hb⟩ : ∃ b, b = (s.elapse dt).reframed (srcLane lane) (if (!false && (decide ((s.elapse dt).rd Reg.PRT_LANE_MODE lane = 11) ||
    decide ((s.elapse dt).rd Reg.PRT_LANE_MODE lane = 12))) = true then some (true, (s.elapse dt).time)
    else ((s.elapse dt).framer (srcLane lane)).otl) := ⟨_, rfl⟩
  have hrun := State.reframed_done hb h
  rw [hkey] at hrun ⊢
  rw [hb] at hrun
  exact hrun

end

/-- Settles O34, clause by clause over the FRM commands. -/
theorem framingCommandsTakeEffect : Obligations.FramingCommandsTakeEffect := by
  unfold Obligations.FramingCommandsTakeEffect
  intro s dt h ctx x hctx hactive hkind
  exact ⟨fun _ hadm hp hmig => completes_frmCtxCfg_held hctx hadm hp hmig,
    fun _ _ hadm hp hmig hsf hsd htrace hsa hc hexp hwin =>
      completes_frmCtxCfg hctx hactive hkind hmig hadm hp hsf hsd htrace hsa hc hexp hwin,
    fun _ hadm hp hmig htx hlayer hpart hlen => completes_frmTraceSet hctx hactive hkind hmig hadm hp htx hlayer hpart hlen,
    fun _ hadm hmig hhost => completes_frmCtxRead hctx hactive hkind hmig hadm hhost,
    fun _ _ hadm hmig hauth hon hwhat => completes_frmForce hctx hactive hkind hmig hadm hauth hon hwhat,
    fun _ _ _ hadm hmig hmon hviol hviol' hframes => completes_frmErrInsert hctx hactive hkind hmig hadm hmon hviol hviol' hframes,
    fun hadm hpdh => completes_frmReframe_ctx hctx hactive hkind hadm hpdh,
    fun _ hadm hl hfirst hmode => completes_frmReframe_lane hadm hl hfirst hmode⟩

end Sys2Proof.Machine
end

section
/-! PROOFS. Handovers, client and GFP frames (R260 to R265, R277) and rate following (R259). -/

namespace Sys2Proof.Machine

section
variable {s : State} {dt ctx : Nat}

theorem completes_handover (hin : ctx ∈ s.map.handing) :
    Completes (.handover dt ctx) s fun t =>
      t.map = { s.map with handing := s.map.handing.filter (fun c => c != ctx) } ∧
      t.rd Reg.MAP_HANDOVER_CNT 0 = (s.rd Reg.MAP_HANDOVER_CNT 0 + 1) % 2 ^ 32 ∧ RegsOnly [(Reg.MAP_HANDOVER_CNT, 0)] s t := by
  refine ⟨_, congrArg Host.Outcome.next (if_pos ?_), rfl, State.count_rd_same' .., ?_⟩
  · exact List.contains_iff_mem.mpr hin
  · exact RegsOnly.count (RegsOnly.upd (RegsOnly.of_elapse _ s dt)) (by simp)

/-! ### Client frames (R261 to R263) -/

section
variable {port : Nat} {f : ClientFrame} (hpcs : s.lanePcs port = true) (hlock : s.rdBit Reg.PRT_LANE_NO_BLOCK_LOCK port = false)
  (hql : f.ql = none) (hfcs : f.fcsOk = true) (hlen : f.data.length ≤ 9600)
include hpcs hlock hql hfcs hlen

theorem completes_clientFrameRx_unmatched (hflow : s.flowAt port (s.frameVid f) = none) :
    Completes (.clientFrameRx dt port f) s fun t =>
      t.rd Reg.MAP_VLAN_UNMATCHED_CNT 0 = (s.rd Reg.MAP_VLAN_UNMATCHED_CNT 0 + 1) % 2 ^ 32 ∧
      tget 0 t.map.discards (s.clientPort port) = (tget 0 s.map.discards (s.clientPort port) + 1) % 2 ^ 32 ∧
      t.qmg = s.qmg ∧ RegsOnly [(Reg.MAP_VLAN_UNMATCHED_CNT, 0)] s t := by
  obtain ⟨b, hb⟩ : ∃ b, b = ((s.elapse dt).count Reg.MAP_VLAN_UNMATCHED_CNT 0).discard (s.clientPort port) := ⟨_, rfl⟩
  have hexec : exec (.clientFrameRx dt port f) s = .next (b.raiseFirst Ev.MAP_VLAN_UNMATCHED port (srcCtx (s.clientPort port))
      (s.frameVid f) (fun v n => [(2, s.clientPort port), (2, v), (4, n)])) := by
    have hpcs' : (s.elapse dt).lanePcs port = true := hpcs
    have hlock' : (s.elapse dt).rdBit Reg.PRT_LANE_NO_BLOCK_LOCK port = false := hlock
    have hflow' : (s.elapse dt).flowAt port ((s.elapse dt).frameVid f) = none := hflow
    show execClientFrameRx dt port f s = _
    unfold execClientFrameRx
    dsimp only
    rw [if_neg (by rw [hpcs', hlock']; decide), hql]
    dsimp only
    rw [if_pos hfcs, hflow', if_neg (by omega), hb]
    rfl
  have hregs : (b.raiseFirst Ev.MAP_VLAN_UNMATCHED port (srcCtx (s.clientPort port)) (s.frameVid f)
      (fun v n => [(2, s.clientPort port), (2, v), (4, n)])).regs = ((s.elapse dt).count Reg.MAP_VLAN_UNMATCHED_CNT 0).regs := by
    refine (State.raiseFirst_frame (pt := .regs) (by decide) (Part.same_refl _ b)).trans ?_
    rw [hb]
    rfl
  refine ⟨_, hexec, ?_, ?_, ?_, ?_⟩
  · exact (congrArg (fun m => m.rd Reg.MAP_VLAN_UNMATCHED_CNT 0) hregs).trans (State.count_rd_same' ..)
  · rw [show State.map _ = b.map from State.raiseFirst_frame (pt := .map) (by decide) (Part.same_refl _ b), hb]
    exact (tget_tset ..).trans (if_pos rfl)
  · rw [show State.qmg _ = b.qmg from State.raiseFirst_frame (pt := .qmg) (by decide) (Part.same_refl _ b), hb]
    rfl
  · refine RegsOnly.trans (t := (s.elapse dt).count Reg.MAP_VLAN_UNMATCHED_CNT 0) ?_ (regsOnly_of_regs hregs _)
    exact RegsOnly.count (RegsOnly.of_elapse _ s dt) (by simp)

theorem completes_clientFrameRx_matched {c : Nat} {x : Ctx} (hflow : s.flowAt port (s.frameVid f) = some (c, x)) :
    Completes (.clientFrameRx dt port f) s fun t =>
      t = (s.elapse dt).writeQueue x.place.queue
        { bytes := f.data, wide := false, last := true, abort := false, status := 0, tag := s.frameVid f } := by
  refine ⟨_, ?_, rfl⟩
  have hpcs' : (s.elapse dt).lanePcs port = true := hpcs
  have hlock' : (s.elapse dt).rdBit Reg.PRT_LANE_NO_BLOCK_LOCK port = false := hlock
  have hflow' : (s.elapse dt).flowAt port ((s.elapse dt).frameVid f) = some (c, x) := hflow
  have hlen' : decide (9600 < f.data.length) = false := decide_eq_false (by omega)
  show execClientFrameRx dt port f s = _
  unfold execClientFrameRx
  dsimp only
  rw [if_neg (by rw [hpcs', hlock']; decide), hql]
  dsimp only
  rw [if_pos hfcs, hflow', if_neg (by omega), hfcs, hlen']
  rfl

end

/-! ### GFP frames (R264, R265) -/

/-- The state of a GFP receiver outside SYNC after a core header (Table 08-5). -/
def gfpNext (now : Nat) : CoreSays → Nat
  | .good _ => if now = 0 then 1 else 2
  | _ => 0

theorem State.setGfp_same (s : State) (c : Nat) (g : GfpSt) : (s.setGfp c g).gfp c = g := (tget_tset ..).trans (if_pos rfl)

theorem State.loseGfp_gfp (s : State) (c : Nat) : (s.loseGfp c).gfp c = { s.gfp c with lost := min 65535 ((s.gfp c).lost + 1) } :=
  State.setGfp_same ..

theorem State.gfp_congr {a b : State} (h : b.map = a.map) (c : Nat) : b.gfp c = a.gfp c := by
  unfold State.gfp
  rw [h]

theorem State.setCmf_align (s : State) (c upi : Nat) : ((s.setCmf c upi).gfp c).align = (s.gfp c).align := by
  have hfold (l : List (Nat × Ctx)) (on : Bool) : ∀ a : State, (l.foldl (fun a e => a.pmDefect e.1 false on) a).map = a.map := by
    induction l with
    | nil => exact fun _ => rfl
    | cons e rest ih => exact fun a => (ih _).trans (State.pmDefect_frame (pt := .map) (by decide) (Part.same_refl _ a))
  unfold State.setCmf
  dsimp only
  split
  · rfl
  · obtain ⟨b, hb⟩ : ∃ b, b = (s.ovm.ctxs.filter (fun e => e.2.active && e.2.isFlow && e.2.dest == some c)).foldl
      (fun a e => a.pmDefect e.1 false (upi != 0)) (s.setGfp c { s.gfp c with cmf := upi }) := ⟨_, rfl⟩
    rw [← hb]
    have hgfp : b.gfp c = { s.gfp c with cmf := upi } := by
      rw [hb, State.gfp_congr (hfold _ _ _), State.setGfp_same]
    show (b.gfp c).align = _
    rw [hgfp]

theorem State.takeGfp_align (s : State) (c pli : Nat) (f : GfpFrame) : ((s.takeGfp c pli f).gfp c).align = (s.gfp c).align := by
  unfold State.takeGfp
  dsimp only
  split_ifs
  · rfl
  · rw [State.loseGfp_gfp]
  · exact State.setCmf_align ..
  · rfl
  · rfl
  · exact State.setCmf_align ..

section
variable {f : GfpFrame} {x : Ctx} (hctx : s.ctx? ctx = some x) (hactive : x.active = true)
include hctx hactive

theorem State.gfpActive : ¬ (!((s.elapse dt).ctx? ctx).any (·.active)) = true := by
  have hctx' : (s.elapse dt).ctx? ctx = some x := hctx
  rw [hctx', Option.any_some, hactive]
  decide

theorem completes_gfpFrameRx_lost (hsync : (s.gfp ctx).align = 2) (hcore : readCore f.core = .bad) :
    Completes (.gfpFrameRx dt ctx f) s fun t =>
      (t.gfp ctx).align = 0 ∧ (t.gfp ctx).lost = min 65535 ((s.gfp ctx).lost + 1) ∧
      t.rd Reg.MAP_CHEC_UNCORR_CNT 0 = (s.rd Reg.MAP_CHEC_UNCORR_CNT 0 + 1) % 2 ^ 32 ∧
      Raised t Ev.MAP_GFP_LFD (srcCtx ctx) [(2, ctx)] ∧ RegsOnly [(Reg.MAP_CHEC_UNCORR_CNT, 0)] s t := by
  let b := ((s.elapse dt).setGfp ctx { s.gfp ctx with align := 0 }).loseGfp ctx
  have hexec : exec (.gfpFrameRx dt ctx f) s =
      .next ((b.count Reg.MAP_CHEC_UNCORR_CNT 0).raise Ev.MAP_GFP_LFD (srcCtx ctx) [(2, ctx)]) := by
    have hsync' : ((s.elapse dt).gfp ctx).align = 2 := hsync
    show execGfpFrameRx dt ctx f s = _
    unfold execGfpFrameRx
    dsimp only
    rw [if_neg (State.gfpActive hctx hactive), hcore]
    dsimp only
    rw [if_pos hsync']
    rfl
  have hgfp : b.gfp ctx = { s.gfp ctx with align := 0, lost := min 65535 ((s.gfp ctx).lost + 1) } := by
    show ((((s.elapse dt).setGfp ctx _).loseGfp ctx).gfp ctx) = _
    rw [State.loseGfp_gfp, State.setGfp_same]
  refine ⟨_, hexec, congrArg GfpSt.align hgfp, congrArg GfpSt.lost hgfp, ?_, State.raise_raised .., ?_⟩
  · exact State.count_rd_same' b Reg.MAP_CHEC_UNCORR_CNT 0
  · exact RegsOnly.raise (RegsOnly.count (RegsOnly.upd (RegsOnly.of_elapse _ s dt)) (by simp)) _ _ _

theorem completes_gfpFrameRx_search (hsync : (s.gfp ctx).align ≠ 2) :
    Completes (.gfpFrameRx dt ctx f) s fun t => (t.gfp ctx).align = gfpNext (s.gfp ctx).align (readCore f.core) := by
  have hsync' : ((s.elapse dt).gfp ctx).align ≠ 2 := hsync
  have hactive' := State.gfpActive (dt := dt) hctx hactive
  cases hcore : readCore f.core with
  | good pli =>
    by_cases hzero : ((s.elapse dt).gfp ctx).align = 0
    · refine ⟨(s.elapse dt).setGfp ctx { (s.elapse dt).gfp ctx with align := 1 }, ?_, ?_⟩
      · show execGfpFrameRx dt ctx f s = _
        unfold execGfpFrameRx
        dsimp only
        rw [if_neg hactive', hcore]
        dsimp only
        rw [if_neg hsync', if_pos hzero]
      · exact (congrArg GfpSt.align (State.setGfp_same ..)).trans (if_pos hzero).symm
    · refine ⟨((s.elapse dt).setGfp ctx { (s.elapse dt).gfp ctx with align := 2 }).takeGfp ctx pli f, ?_, ?_⟩
      · show execGfpFrameRx dt ctx f s = _
        unfold execGfpFrameRx
        dsimp only
        rw [if_neg hactive', hcore]
        dsimp only
        rw [if_neg hsync', if_neg hzero]
      · exact (State.takeGfp_align ..).trans ((congrArg GfpSt.align (State.setGfp_same ..)).trans (if_neg hzero).symm)
  | fixed pli =>
    refine ⟨(s.elapse dt).setGfp ctx { (s.elapse dt).gfp ctx with align := 0 }, ?_, congrArg GfpSt.align (State.setGfp_same ..)⟩
    show execGfpFrameRx dt ctx f s = _
    unfold execGfpFrameRx
    dsimp only
    rw [if_neg hactive', hcore]
    dsimp only
    rw [if_neg hsync']
  | bad =>
    refine ⟨(s.elapse dt).setGfp ctx { (s.elapse dt).gfp ctx with align := 0 }, ?_, congrArg GfpSt.align (State.setGfp_same ..)⟩
    show execGfpFrameRx dt ctx f s = _
    unfold execGfpFrameRx
    dsimp only
    rw [if_neg hactive', hcore]
    dsimp only
    rw [if_neg hsync']

theorem completes_gfpFrameRx_badType {pli : Nat} (hsync : (s.gfp ctx).align = 2) (hcore : readCore f.core = .good pli) (hpli : 4 ≤ pli)
    (hhead : hecOk f.head = false) :
    Completes (.gfpFrameRx dt ctx f) s fun t =>
      (t.gfp ctx).align = 2 ∧ (t.gfp ctx).lost = min 65535 ((s.gfp ctx).lost + 1) ∧ RegsOnly [] s t := by
  have hexec : exec (.gfpFrameRx dt ctx f) s = .next ((s.elapse dt).loseGfp ctx) := by
    have hsync' : ((s.elapse dt).gfp ctx).align = 2 := hsync
    show execGfpFrameRx dt ctx f s = _
    unfold execGfpFrameRx State.takeGfp
    dsimp only
    rw [if_neg (State.gfpActive hctx hactive), hcore]
    dsimp only
    rw [if_pos hsync', if_neg (by omega), if_pos (by rw [hhead]; decide)]
  have hgfp := State.loseGfp_gfp (s.elapse dt) ctx
  exact ⟨_, hexec, (congrArg GfpSt.align hgfp).trans hsync, congrArg GfpSt.lost hgfp, RegsOnly.upd (RegsOnly.of_elapse _ s dt)⟩

end

/-! ### Rate following (R259, R260) -/

section
variable {lane fill : Nat} {steer : Int}

/-- The state with a lane's divider set. -/
def State.setFollow (s : State) (l : Nat) (p : Int) : State := { s with map := { s.map with follow := tset s.map.follow l p } }

theorem completes_mapRateLimit_within (hfollows : s.followsRate lane = true) (hlo : -250000 < steer) (hhi : steer < 250000) :
    Completes (.mapRateLimit dt lane steer fill) s fun t =>
      tget 0 t.map.follow lane = steer ∧ t.io = s.io ∧ RegsOnly [] s t := by
  have hppb : dividerPpb steer = steer := by
    unfold dividerPpb
    omega
  have hexec : exec (.mapRateLimit dt lane steer fill) s = .next ((s.elapse dt).setFollow lane steer) := by
    have hfollows' : (s.elapse dt).followsRate lane = true := hfollows
    have hinner : (steer != 250000 && steer != -250000) = true := by
      simp
      omega
    show execMapRateLimit dt lane steer fill s = _
    unfold execMapRateLimit
    dsimp only
    rw [if_neg (by rw [hfollows']; decide), hppb]
    split
    · rfl
    · rw [if_pos (by rw [hinner, Bool.or_true])]
      rfl
  exact ⟨_, hexec, (tget_tset ..).trans (if_pos rfl), rfl, RegsOnly.upd (RegsOnly.of_elapse _ s dt)⟩

/-- The event before the newest is still in the log. -/
theorem Raised.mem_raise {a b : State} {code src code' src' : Nat} {d e : List (Nat × Nat)} (h : Raised a code src d) (hio : b.io = a.io) :
    ∃ r ∈ (b.raise code' src' e).io.evlog, r.code = code ∧ r.src = src ∧ r.detail = packItems d := by
  obtain ⟨r, hhead, hcode, hsrc, hdetail⟩ := h
  obtain ⟨rest, hrest⟩ := List.head?_eq_some_iff.mp hhead
  refine ⟨r, ?_, hcode, hsrc, hdetail⟩
  show r ∈ (State.ioRaise b _ _).evlog
  rw [State.ioRaise_evlog, hio, hrest, List.take_succ_cons, List.take_succ_cons]
  exact List.mem_cons_of_mem _ (List.mem_cons_self ..)

theorem completes_mapRateLimit_beyond {c : Nat} (hfollows : s.followsRate lane = true) (hctx : s.laneCtx lane = some c)
    (hsteer : steer ≤ -250000 ∨ 250000 ≤ steer) (hfill : fill ≤ 8 ∨ 56 ≤ fill) :
    Completes (.mapRateLimit dt lane steer fill) s fun t =>
      tget 0 t.map.follow lane = (if steer ≤ -250000 then -250000 else 250000) ∧
      (∃ r ∈ t.io.evlog, r.code = Ev.MAP_RATE_LIMIT ∧ r.src = srcLane lane ∧
        r.detail = packItems [(2, lane), (1, ofBool (decide (250000 ≤ steer)))]) ∧
      t.rd Reg.MAP_RATEFOLLOW_LIMIT_CNT 0 = (s.rd Reg.MAP_RATEFOLLOW_LIMIT_CNT 0 + 1) % 2 ^ 32 ∧
      t.rd Reg.SHF_GATE_SLIP_CNT 0 = (s.rd Reg.SHF_GATE_SLIP_CNT 0 + 1) % 2 ^ 32 ∧
      Raised t Ev.GATE_SLIP (srcCtx c) [(2, c), (1, ofBool (decide (56 ≤ fill)))] ∧
      RegsOnly [(Reg.MAP_RATEFOLLOW_LIMIT_CNT, 0), (Reg.SHF_GATE_SLIP_CNT, 0)] s t := by
  obtain ⟨p, hp⟩ : ∃ p, p = dividerPpb steer := ⟨_, rfl⟩
  have hlimit : p = if steer ≤ -250000 then -250000 else 250000 := by
    rw [hp]
    unfold dividerPpb
    split <;> omega
  have hup : (p == 250000) = decide (250000 ≤ steer) := by
    rw [hlimit, Bool.eq_iff_iff, beq_iff_eq, decide_eq_true_eq]
    split <;> omega
  obtain ⟨a, ha⟩ : ∃ a, a = ((s.elapse dt).setFollow lane p).count Reg.MAP_RATEFOLLOW_LIMIT_CNT 0 := ⟨_, rfl⟩
  obtain ⟨b, hb⟩ : ∃ b, b = a.raise Ev.MAP_RATE_LIMIT (srcLane lane) [(2, lane), (1, ofBool (decide (250000 ≤ steer)))] := ⟨_, rfl⟩
  obtain ⟨d, hd⟩ : ∃ d, d = b.count Reg.SHF_GATE_SLIP_CNT 0 := ⟨_, rfl⟩
  have hexec : exec (.mapRateLimit dt lane steer fill) s =
      .next (d.raise Ev.GATE_SLIP (srcCtx c) [(2, c), (1, ofBool (decide (56 ≤ fill)))]) := by
    have hfollows' : (s.elapse dt).followsRate lane = true := hfollows
    have hctx' : ((s.elapse dt).setFollow lane p).laneCtx lane = some c := hctx
    have hinner : ((decide (8 < fill) && decide (fill < 56)) || (p != 250000 && p != -250000)) = false := by
      have hend : p = 250000 ∨ p = -250000 := by
        rw [hlimit]
        split <;> omega
      rcases hend with h | h <;> rw [h] <;> simp <;> omega
    show execMapRateLimit dt lane steer fill s = _
    unfold execMapRateLimit
    dsimp only
    rw [if_neg (by rw [hfollows']; decide), ← hp]
    change Host.Outcome.next (match ((s.elapse dt).setFollow lane p).laneCtx lane with | none => _ | some c => _) = _
    rw [hctx']
    dsimp only
    rw [if_neg (by rw [hinner]; decide), hup, hd, hb, ha]
    rfl
  have hraised : Raised b Ev.MAP_RATE_LIMIT (srcLane lane) [(2, lane), (1, ofBool (decide (250000 ≤ steer)))] := by
    rw [hb]
    exact State.raise_raised ..
  have hregs : RegsOnly [(Reg.MAP_RATEFOLLOW_LIMIT_CNT, 0)] s b := by
    rw [hb, ha]
    exact RegsOnly.raise (RegsOnly.count (RegsOnly.upd (RegsOnly.of_elapse _ s dt)) (by simp)) _ _ _
  have hslip : RegsOnly [(Reg.SHF_GATE_SLIP_CNT, 0)] b d := by
    rw [hd]
    exact RegsOnly.count (RegsOnly.refl _ b) (by simp)
  refine ⟨_, hexec, ?_, hraised.mem_raise (by rw [hd]; rfl), ?_, ?_, State.raise_raised .., ?_⟩
  · show tget 0 d.map.follow lane = _
    rw [hd, hb, ha, ← hlimit]
    exact (tget_tset ..).trans (if_pos rfl)
  · refine (hslip _ _ (by decide)).trans ?_
    rw [hb, ha]
    exact State.count_rd_same' ..
  · show d.rd _ _ = _
    rw [hd, ← hregs Reg.SHF_GATE_SLIP_CNT 0 (by decide)]
    exact State.count_rd_same' ..
  · exact RegsOnly.raise ((hregs.mono (by simp)).trans (hslip.mono (by simp))) _ _ _

end

end

end Sys2Proof.Machine
end

section
/-! PROOFS. Carriage blocks and play-out (R281 to R289), the reads of MAP (R295), and the mapping block as a whole. -/

namespace Sys2Proof.Machine

section
variable {s : State} {dt ctx : Nat} {x : HitlessSt}

theorem State.setHitless_same (s : State) (c : Nat) (x : HitlessSt) : (s.setHitless c x).group? c = some x := tfind_tset_same ..

theorem HitlessSt.setLeg_next (x : HitlessSt) (l : Nat) (y : LegSt) : (x.setLeg l y).next = x.next := by
  unfold HitlessSt.setLeg
  split <;> rfl

theorem HitlessSt.setLeg_copies (x : HitlessSt) (l : Nat) (y : LegSt) : (x.setLeg l y).copies = x.copies := by
  unfold HitlessSt.setLeg
  split <;> rfl

theorem HitlessSt.setLeg_lost (x : HitlessSt) (l : Nat) (y : LegSt) : (x.setLeg l y).lost = x.lost := by
  unfold HitlessSt.setLeg
  split <;> rfl

theorem HitlessSt.setLeg_same (x : HitlessSt) (l : Nat) (y : LegSt) : (x.setLeg l y).leg l = y := by
  unfold HitlessSt.setLeg HitlessSt.leg
  split <;> rfl

/-! ### Carriage blocks -/

section
variable {leg : Nat} {b : CarriageBlock} {f : Carriage} (hgroup : s.group? ctx = some x) (hsync : x.synced = true)
  (hstream : readCarriage b.stream = some f)
include hgroup hsync hstream

/-- How a group judges a block whose stream has a good copy. -/
def blockOf (b : CarriageBlock) (f : Carriage) (failing : Bool) : BlockIn :=
  { good := !b.tsf && !failing && b.viol == 0, mseq := f.mseq, tsf := b.tsf || failing, viol := b.viol, unitB := bitOf f.iv 47 }

/-- The command for a block in the window of its group. -/
theorem exec_carriageBlockRx (hlo : -1024 ≤ mseqDist f.mseq x.next) (hhi : mseqDist f.mseq x.next ≤ 1024) :
    exec (.carriageBlockRx dt ctx leg b) s = .next (if mseqDist f.mseq x.next < 0
      then (s.elapse dt).lateCopy ctx (leg % 2) x (blockOf b f (s.tsf (s.frmKey (x.leg (leg % 2)).ctx)))
      else (s.elapse dt).ringCopy ctx (leg % 2) x (blockOf b f (s.tsf (s.frmKey (x.leg (leg % 2)).ctx)))) := by
  have hgroup' : (s.elapse dt).group? ctx = some x := hgroup
  have hblock (failing : Bool) : (x.leg (leg % 2)).blockIn b failing = blockOf b f failing := by
    unfold LegSt.blockIn
    rw [hstream]
    rfl
  have hmseq (failing : Bool) : (blockOf b f failing).mseq = f.mseq := rfl
  show execCarriageBlockRx dt ctx leg b s = _
  unfold execCarriageBlockRx
  dsimp only
  rw [hgroup']
  dsimp only
  rw [if_neg (by rw [hsync]; decide), hstream, hblock, if_pos Option.isSome_some, hmseq, if_neg (by simp; omega)]
  rfl

theorem completes_carriageBlockRx_inTime (hlo : 0 ≤ mseqDist f.mseq x.next) (hhi : mseqDist f.mseq x.next ≤ 1024) {failing : Bool}
    (hfailing : failing = (b.tsf || s.tsf (s.frmKey (x.leg (leg % 2)).ctx))) :
    Completes (.carriageBlockRx dt ctx leg b) s fun t =>
      (∃ z, t.group? ctx = some z ∧ z.next = x.next ∧ z.copies = x.copies ++
        [{ mseq := f.mseq, leg := leg % 2, good := !failing && b.viol == 0, tsf := failing, viol := b.viol, since := s.time + dt,
           unitB := bitOf f.iv 47 }]) ∧ RegsOnly [] s t := by
  refine ⟨_, (exec_carriageBlockRx hgroup hsync hstream (by omega) hhi).trans (congrArg Host.Outcome.next (if_neg (by omega))), ?_⟩
  refine ⟨⟨_, State.setHitless_same .., HitlessSt.setLeg_next .., ?_⟩, RegsOnly.upd (RegsOnly.of_elapse _ s dt)⟩
  show (x.setLeg _ _).copies ++ _ = _
  rw [HitlessSt.setLeg_copies, hfailing, Bool.not_or]
  rfl

theorem completes_carriageBlockRx_late (hlo : -1024 ≤ mseqDist f.mseq x.next) (hhi : mseqDist f.mseq x.next < 0) :
    Completes (.carriageBlockRx dt ctx leg b) s fun t =>
      (∃ z, t.group? ctx = some z ∧ z.next = x.next ∧ z.copies = x.copies) ∧
      t.rd Reg.MAP_DD_LATE_CNT 0 = (s.rd Reg.MAP_DD_LATE_CNT 0 + 1) % 2 ^ 32 ∧ RegsOnly [(Reg.MAP_DD_LATE_CNT, 0)] s t := by
  have hlate (a : State) (l : Nat) (d : BlockIn) : (∃ z, (a.lateCopy ctx l x d).group? ctx = some z ∧ z.next = x.next ∧ z.copies = x.copies) ∧
      (a.lateCopy ctx l x d).rd Reg.MAP_DD_LATE_CNT 0 = (a.rd Reg.MAP_DD_LATE_CNT 0 + 1) % 2 ^ 32 ∧
      RegsOnly [(Reg.MAP_DD_LATE_CNT, 0)] a (a.lateCopy ctx l x d) := by
    obtain ⟨y, say, detail, hy⟩ : ∃ y say detail, a.lateCopy ctx l x d = ((a.setHitless ctx ((x.setLeg l y).credit d.unitB false)).count
        Reg.MAP_DD_LATE_CNT 0).raiseIf say Ev.MAP_DD_EXCEEDED (srcCtx ctx) detail := ⟨_, _, _, rfl⟩
    rw [hy]
    refine ⟨⟨(x.setLeg l y).credit d.unitB false, ?_, HitlessSt.setLeg_next .., HitlessSt.setLeg_copies ..⟩,
      (State.raiseIf_rd ..).trans (State.count_rd_same' ..), ?_⟩
    · unfold State.group?
      rw [State.raiseIf_map]
      exact State.setHitless_same ..
    · exact RegsOnly.raiseIf (RegsOnly.count (RegsOnly.upd (RegsOnly.refl _ a)) (by simp)) _ _ _ _
  obtain ⟨hz, hcount, honly⟩ := hlate (s.elapse dt) (leg % 2) (blockOf b f (s.tsf (s.frmKey (x.leg (leg % 2)).ctx)))
  exact ⟨_, (exec_carriageBlockRx hgroup hsync hstream hlo (by omega)).trans (congrArg Host.Outcome.next (if_pos hhi)), hz, hcount,
    (RegsOnly.of_elapse _ s dt).trans honly⟩

end

/-! ### Play-out (R286, R287) -/

/-- The group once its next block is past. -/
def HitlessSt.passed (x : HitlessSt) : HitlessSt :=
  { x with next := (x.next + 1) % 2 ^ 32, copies := x.copies.filter (fun d => d.mseq != x.next) }

/-- The group once the copy of a block has been played, or the block lost. -/
def HitlessSt.playedBy (x : HitlessSt) : Option BlockCopy → HitlessSt
  | some d => x.passed.setLeg d.leg { x.passed.leg d.leg with played := ((x.passed.leg d.leg).played + 1) % 2 ^ 32 }
  | none => { x.passed with lost := min 65535 (x.lost + 1) }

theorem HitlessSt.playedBy_next (x : HitlessSt) (o : Option BlockCopy) : (x.playedBy o).next = (x.next + 1) % 2 ^ 32 := by
  cases o with
  | none => rfl
  | some d => exact HitlessSt.setLeg_next ..

/-- A sole copy that is good and next is chosen; one that is not next is left. -/
theorem chooseCopy_sole {d : BlockCopy} {copies : List BlockCopy} (hcopies : copies = [d]) (next : Nat)
    (r : BlockCopy → BlockCopy → Prop) [DecidableRel r] :
    (d.mseq = next → d.good = true → chooseCopy (List.insertionSort r (copies.filter fun d => d.mseq == next)) = some d) ∧
    (d.mseq ≠ next → chooseCopy (List.insertionSort r (copies.filter fun d => d.mseq == next)) = none) := by
  rw [hcopies]
  refine ⟨fun hnext hgood => ?_, fun hnext => ?_⟩
  · rw [List.filter_cons_of_pos (by rw [hnext]; exact beq_self_eq_true _)]
    show chooseCopy [d] = some d
    unfold chooseCopy
    rw [List.find?_cons_of_pos hgood]
  · rw [List.filter_cons_of_neg (by rw [beq_eq_false_iff_ne.mpr hnext]; decide)]
    rfl

theorem exec_ddPlayout {d : BlockCopy} (hgroup : s.group? ctx = some x) (hcopies : x.copies = [d]) :
    ∃ o, exec (.ddPlayout dt ctx) s =
        .next (((s.elapse dt).elapse (d.since + s.ddPos - (s.elapse dt).time)).setHitless ctx (x.playedBy o)) ∧
      (d.mseq = x.next → d.good = true → o = some d) ∧ (d.mseq ≠ x.next → o = none) := by
  have hgroup' : (s.elapse dt).group? ctx = some x := hgroup
  have hsince : x.copies.map (fun d => d.since) = [d.since] := by
    rw [hcopies]
    rfl
  show ∃ o, execDdPlayout dt ctx s = _ ∧ _
  unfold execDdPlayout
  dsimp only
  rw [hgroup']
  dsimp only
  rw [hsince]
  dsimp only
  split
  next e hchosen =>
    exact ⟨some e, rfl, fun hn hg => hchosen.symm.trans ((chooseCopy_sole hcopies x.next _).1 hn hg),
      fun hn => hchosen.symm.trans ((chooseCopy_sole hcopies x.next _).2 hn)⟩
  next hchosen =>
    exact ⟨none, rfl, fun hn hg => hchosen.symm.trans ((chooseCopy_sole hcopies x.next _).1 hn hg),
      fun hn => hchosen.symm.trans ((chooseCopy_sole hcopies x.next _).2 hn)⟩

theorem completes_ddPlayout {d : BlockCopy} (hgroup : s.group? ctx = some x) (hcopies : x.copies = [d]) :
    Completes (.ddPlayout dt ctx) s fun t =>
      t.time = max (s.time + dt) (d.since + s.ddPos) ∧
      (∃ z, t.group? ctx = some z ∧ z.next = (x.next + 1) % 2 ^ 32 ∧
        (d.mseq = x.next → d.good = true → z.copies = [] ∧ (z.leg d.leg).played = ((x.leg d.leg).played + 1) % 2 ^ 32 ∧
          z.lost = x.lost) ∧
        (d.mseq ≠ x.next → z.copies = [d] ∧ z.lost = min 65535 (x.lost + 1))) ∧ RegsOnly [] s t := by
  obtain ⟨o, hexec, hplayed, hlost⟩ := exec_ddPlayout (dt := dt) hgroup hcopies
  refine ⟨_, hexec, ?_, ⟨x.playedBy o, State.setHitless_same .., HitlessSt.playedBy_next .., fun hn hg => ?_, fun hn => ?_⟩,
    RegsOnly.upd (regsOnly_of_regs rfl _)⟩
  · show s.time + dt + (d.since + s.ddPos - (s.time + dt)) = _
    omega
  · rw [hplayed hn hg]
    refine ⟨(HitlessSt.setLeg_copies ..).trans ?_, congrArg LegSt.played (HitlessSt.setLeg_same ..), HitlessSt.setLeg_lost ..⟩
    show x.copies.filter (fun d => d.mseq != x.next) = []
    rw [hcopies, List.filter_cons_of_neg (by rw [hn, bne_self_eq_false]; decide)]
    rfl
  · rw [hlost hn]
    refine ⟨?_, rfl⟩
    show x.copies.filter (fun d => d.mseq != x.next) = [d]
    rw [hcopies]
    exact List.filter_cons_of_pos (bne_iff_ne.mpr hn)

end

/-! ### The reads of MAP (R295) -/

section
variable {s : State} {dt ctx host : Nat} {h : HostRef}

/-- A record's bytes are written out; six values of it are free. -/
def State.putRecord (s : State) (host : Nat) (bytes : List Nat) : State :=
  { s.hostWrite host bytes with freeCtr := s.freeCtr + 6 }

theorem State.putRecord_regs (s : State) (host : Nat) (bytes : List Nat) : (s.putRecord host bytes).regs = s.regs := rfl

theorem completes_mapCtxRead {x : Ctx} (hadm : Admitted s dt h 0 Op.MAP_CTX_READ) (hctx : s.ctx? ctx = some x)
    (hactive : x.active = true) (hmig : x.migrating = none) (hhost : host % 64 = 0) :
    Completes (.mapCtxRead dt h ctx host) s fun t =>
      t.addr = (s.toNextCycle dt).addr ∧ Answered t h Op.MAP_CTX_READ 0 0 [] ∧ RegsOnly [] s t ∧
      (h.noCpl = true → t.io.mem = memWrite s.io.mem host ((s.toNextCycle dt).recordBytes ctx x)) := by
  have hdo : (s.elapse dt).doMapRead h ctx host =
      ((s.toNextCycle dt).putRecord host ((s.toNextCycle dt).recordBytes ctx x)).done h Op.MAP_CTX_READ := by
    have hctx' : (s.elapse dt).ctx? ctx = some x := hctx
    unfold State.doMapRead
    rw [hctx']
    dsimp only
    have hnext : (s.elapse dt).waitAddr (nextCycle (s.elapse dt).addr) = s.toNextCycle dt := rfl
    rw [if_neg (by rw [hactive]; decide), if_neg (by rw [hhost]; decide), hnext]
    generalize (s.toNextCycle dt).recordBytes ctx x = bytes
    rfl
  refine completes_of_admitted rfl hadm ?_
  rw [State.orHold_run hctx hmig, hdo]
  generalize (s.toNextCycle dt).recordBytes ctx x = bytes
  have hregs : RegsOnly [] s ((s.toNextCycle dt).putRecord host bytes) :=
    regsOnly_of_regs ((State.putRecord_regs ..).trans (State.toNextCycle_regs s dt)) _
  refine ⟨rfl, State.done_answered .., hregs.done h _, fun hno => ?_⟩
  rw [State.done_mem_of_noCpl _ hno]
  show memWrite (s.toNextCycle dt).io.mem host _ = _
  rw [State.toNextCycle_io]

theorem completes_mapPageRead {p : PageRead} (hadm : Admitted s dt h 0 Op.MAP_PAGE_READ) (hwhat : p.what ≤ 1) (hstandby : p.standby ≤ 1)
    (hcount : 1 ≤ p.count) (hcount' : p.count ≤ 4096) (hfit : p.first + p.count ≤ (if p.what = 0 then 49152 else 1024)) :
    Completes (.mapPageRead dt h p) s fun t =>
      Answered t h Op.MAP_PAGE_READ 0 0 [] ∧ RegsOnly [] s t ∧
      (h.noCpl = true → t.io.mem = memWrite s.io.mem p.host (((List.range p.count).map fun i =>
        leBytes (if p.what = 0 then 16 else 8) (tget 0 (s.page (p.what == 1) (p.standby == 1)) (p.first + i))).flatten)) := by
  refine completes_of_admitted rfl hadm ?_
  have hrange : (decide (1 < p.what) || decide (1 < p.standby) || decide (p.count = 0) || decide (4096 < p.count) ||
      decide ((if p.what = 0 then 49152 else 1024) < p.first + p.count)) = false := by
    simp only [Bool.or_eq_false_iff, decide_eq_false_iff_not]
    omega
  dsimp only
  rw [if_neg (by rw [hrange]; decide)]
  exact ⟨State.done_answered .., RegsOnly.done (RegsOnly.upd (RegsOnly.of_elapse _ s dt)) _ _,
    fun hno => State.done_mem_of_noCpl (State.hostWrite _ _ _) hno _⟩

theorem completes_mapDdStatus {x : Ctx} {g : Nat × HitlessSt} (hadm : Admitted s dt h 0 Op.MAP_DD_STATUS) (hctx : s.ctx? ctx = some x)
    (hactive : x.active = true) (hmig : x.migrating = none) (hhost : host % 64 = 0) (hgroup : s.groupOfLeg ctx = some g) :
    Completes (.mapDdStatus dt h ctx host) s fun t =>
      t.addr = (s.toNextCycle dt).addr ∧ Answered t h Op.MAP_DD_STATUS 0 0 [] ∧ RegsOnly [] s t ∧
      (h.noCpl = true → t.io.mem = memWrite s.io.mem host g.2.bytes) := by
  have hdo : (s.elapse dt).doDdStatus h ctx host = ((s.toNextCycle dt).hostWrite host g.2.bytes).done h Op.MAP_DD_STATUS := by
    have hctx' : (s.elapse dt).ctx? ctx = some x := hctx
    have hgroup' : (s.elapse dt).groupOfLeg ctx = some g := hgroup
    unfold State.doDdStatus
    rw [hctx']
    dsimp only
    rw [if_neg (by rw [hactive]; decide), if_neg (by rw [hhost]; decide), hgroup']
    rfl
  refine completes_of_admitted rfl hadm ?_
  rw [State.orHold_run hctx hmig, hdo]
  refine ⟨rfl, State.done_answered .., RegsOnly.done (RegsOnly.upd (RegsOnly.of_toNextCycle _ s dt)) _ _, fun hno => ?_⟩
  rw [State.done_mem_of_noCpl (State.hostWrite _ _ _) hno]
  show memWrite (s.toNextCycle dt).io.mem host _ = _
  rw [State.toNextCycle_io]

end

/-- Settles O36, clause by clause over handovers, frames, blocks, play-out, rate limits and reads. -/
theorem mappingCommandsTakeEffect : Obligations.MappingCommandsTakeEffect := by
  unfold Obligations.MappingCommandsTakeEffect
  intro s dt ctx
  exact ⟨completes_handover,
    fun _ _ hpcs hlock hql hfcs hlen hflow => completes_clientFrameRx_unmatched hpcs hlock hql hfcs hlen hflow,
    fun _ _ _ _ hpcs hlock hql hfcs hlen hflow => completes_clientFrameRx_matched hpcs hlock hql hfcs hlen hflow,
    fun _ _ hctx hactive hsync hcore => completes_gfpFrameRx_lost hctx hactive hsync hcore,
    fun f _ hctx hactive hsync => (by
      obtain ⟨t, ht, hpost⟩ := completes_gfpFrameRx_search (f := f) hctx hactive hsync
      refine ⟨t, ht, ?_⟩
      show (t.gfp ctx).align = _
      rw [hpost]
      cases readCore f.core <;> rfl),
    fun _ _ _ hctx hactive hsync hcore hpli hhead => completes_gfpFrameRx_badType hctx hactive hsync hcore hpli hhead,
    fun _ _ _ _ hgroup hsync hstream hlo hhi => completes_carriageBlockRx_inTime hgroup hsync hstream hlo hhi rfl,
    fun _ _ _ _ hgroup hsync hstream hlo hhi => completes_carriageBlockRx_late hgroup hsync hstream hlo hhi,
    fun _ _ hgroup hcopies => completes_ddPlayout hgroup hcopies,
    fun _ _ _ hfollows hlo hhi => completes_mapRateLimit_within hfollows hlo hhi,
    fun _ _ _ _ hfollows hctx hsteer hfill => completes_mapRateLimit_beyond hfollows hctx hsteer hfill,
    fun _ _ _ hadm hctx hactive hmig hhost => completes_mapCtxRead hadm hctx hactive hmig hhost,
    fun _ _ hadm hwhat hstandby hcount hcount' hfit => completes_mapPageRead hadm hwhat hstandby hcount hcount' hfit,
    fun _ _ _ _ hadm hctx hactive hmig hhost hgroup => completes_mapDdStatus hadm hctx hactive hmig hhost hgroup⟩

end Sys2Proof.Machine
end


section
/-! PROOFS. The OVM commands (R297 to R316), clause by clause. -/

namespace Sys2Proof.Machine

/-! ### Bits -/

theorem bitOf_eq_testBit (n k : Nat) : bitOf n k = n.testBit k := by
  rw [bitOf, Nat.testBit_eq_decide_div_mod_eq]

theorem testBit_succ_of_even {a : Nat} (ha : a % 2 = 0) : ∀ j, 0 < j → (a + 1).testBit j = a.testBit j
  | j + 1, _ => by
    rw [Nat.testBit_add_one, Nat.testBit_add_one]
    congr 1
    omega

/-- A bit set reads back; the others stay. -/
theorem bitOf_setBit (n k j : Nat) (b : Bool) : bitOf (setBit n k b) j = if j = k then b else bitOf n j := by
  have hn : n = 2 ^ k * (n / 2 ^ k) + n % 2 ^ k := (Nat.div_add_mod n (2 ^ k)).symm
  have hlt : n % 2 ^ k < 2 ^ k := Nat.mod_lt _ (Nat.two_pow_pos k)
  have hbit (a : Nat) : bitOf (2 ^ k * a + n % 2 ^ k) j = if j < k then (n % 2 ^ k).testBit j else a.testBit (j - k) := by
    rw [bitOf_eq_testBit, Nat.testBit_two_pow_mul_add _ hlt]
  unfold setBit
  split
  next hsame =>
    split
    next hj => rw [hj, hsame]
    next => rfl
  next hdiff =>
    have hold := hbit (n / 2 ^ k)
    rw [← hn] at hold
    cases b with
    | true =>
      have heven : n / 2 ^ k % 2 = 0 := by
        simp [bitOf] at hdiff
        omega
      have hset : (n + 2 ^ k) = 2 ^ k * (n / 2 ^ k + 1) + n % 2 ^ k := by
        rw [Nat.mul_add, Nat.mul_one]
        omega
      rw [if_pos rfl, hset, hbit, hold]
      split
      next hlow => rw [if_neg (by omega)]
      next hhigh =>
        split
        next hj =>
          rw [hj, Nat.sub_self, Nat.testBit_zero]
          simp
          omega
        next hj => exact testBit_succ_of_even heven _ (by omega)
    | false =>
      have hodd : n / 2 ^ k % 2 = 1 := by
        simp [bitOf] at hdiff
        omega
      obtain ⟨m, hm⟩ : ∃ m, n / 2 ^ k = m + 1 := Nat.exists_eq_succ_of_ne_zero (fun hzero => by rw [hzero] at hodd; exact absurd hodd (by decide))
      have hset : (n - 2 ^ k) = 2 ^ k * m + n % 2 ^ k := by
        rw [hm, Nat.mul_add, Nat.mul_one] at hn
        omega
      rw [if_neg Bool.false_ne_true, hset, hbit, hold, hm]
      split
      next hlow => rw [if_neg (by omega)]
      next hhigh =>
        split
        next hj =>
          rw [hj, Nat.sub_self, Nat.testBit_zero]
          simp
          omega
        next hj => exact (testBit_succ_of_even (by omega) _ (by omega)).symm

/-- The pins of a context once those of `items` are set or cleared. -/
theorem bitOf_pinned (items : Nat) (on : Bool) (k : Nat) (l : List Nat) : ∀ a : Nat,
    bitOf (l.foldl (fun a k => if bitOf items k then setBit a k on else a) a) k =
      if k ∈ l ∧ bitOf items k = true then on else bitOf a k := by
  induction l with
  | nil => simp
  | cons j l ih =>
    intro a
    rw [List.foldl_cons, ih]
    by_cases hj : bitOf items j = true
    · rw [if_pos hj, bitOf_setBit]
      by_cases hkj : k = j
      · simp [hkj, hj]
      · simp [hkj]
    · rw [if_neg hj]
      by_cases hkj : k = j
      · simp [hkj, hj]
      · simp [hkj]

/-! ### Refusals -/

section
variable {s : State} {dt ctx intent : Nat} {h : HostRef}

theorem State.refuseIntent_answered (s : State) (h : HostRef) (id r : Nat) :
    Answered (s.refuseIntent h id r) h Op.OVM_INTENT_ADD 2 r (intentResult id [] r 0) :=
  (State.complete_answered ..).raiseC ..

theorem State.refuseIntent_raised (s : State) (h : HostRef) (id r : Nat) :
    Raised (s.refuseIntent h id r) Ev.OVM_REFUSED (srcIntent id) [(4, id), (1, r)] := State.raiseC_raised ..

theorem State.refuseIntent_rd (s : State) (h : HostRef) (id r : Nat) (f : Fld) (i : Nat) :
    (s.refuseIntent h id r).rd f i = (s.count Reg.OVM_REFUSE_CNT 0).rd f i := rfl

theorem RegsOnly.refuseIntent {l : List (Fld × Nat)} {t : State} (k : RegsOnly l s t) (hl : (Reg.OVM_REFUSE_CNT, 0) ∈ l) (h : HostRef)
    (id r : Nat) : RegsOnly l s (t.refuseIntent h id r) :=
  RegsOnly.raiseC (RegsOnly.complete (RegsOnly.count k hl) _ _ _ _ _) _ _ _

/-! ### Intents -/

section
variable {p : Intent} {obs : OvmObs}

theorem State.elapse_intentReason (s : State) (dt : Nat) (p : Intent) : (s.elapse dt).intentReason p = s.intentReason p := rfl

theorem completes_ovmIntentAdd {b : State} (hadm : Admitted s dt h 0 Op.OVM_INTENT_ADD) (hreason : s.intentReason p = none)
    (hacc : (s.elapse dt).acceptIntent p obs { params := p, state := 0, host := h, charge := obs.charge } = .ok b) :
    Completes (.ovmIntentAdd dt h p obs) s fun t =>
      t.ovm = { b.ovm with order := b.ovm.order.filter (fun i => i != p.id) ++ [p.id] } ∧ t.regs = b.regs ∧ t.io = b.io := by
  refine completes_of_admitted rfl hadm ?_
  rw [State.elapse_intentReason, hreason]
  dsimp only
  rw [hacc]
  exact ⟨rfl, rfl, rfl⟩

theorem completes_ovmIntentAdd_waits (hadm : Admitted s dt h 0 Op.OVM_INTENT_ADD) (hreason : s.intentReason p = none)
    (hacc : (s.elapse dt).acceptIntent p obs { params := p, state := 0, host := h, charge := obs.charge } = .error 0) :
    Completes (.ovmIntentAdd dt h p obs) s fun t =>
      tfind t.ovm.intents p.id = some { params := p, state := 0, host := h, charge := obs.charge } ∧
      t.ovm.order = s.ovm.order.filter (fun i => i != p.id) ++ [p.id] ∧ t.ovm.ctxs = s.ovm.ctxs ∧ t.io = s.io ∧ RegsOnly [] s t := by
  refine completes_of_admitted rfl hadm ?_
  rw [State.elapse_intentReason, hreason]
  dsimp only
  rw [hacc]
  exact ⟨tfind_tset_same .., rfl, rfl, rfl, RegsOnly.upd (RegsOnly.of_elapse _ s dt)⟩

theorem completes_ovmIntentAdd_refused {r : Nat} (hadm : Admitted s dt h 0 Op.OVM_INTENT_ADD) (hreason : s.intentReason p = some r) :
    Completes (.ovmIntentAdd dt h p obs) s fun t =>
      t.ovm = s.ovm ∧ t.rd Reg.OVM_REFUSE_CNT 0 = (s.rd Reg.OVM_REFUSE_CNT 0 + 1) % 2 ^ 32 ∧
      Answered t h Op.OVM_INTENT_ADD 2 r (intentResult p.id [] r 0) ∧ Raised t Ev.OVM_REFUSED (srcIntent p.id) [(4, p.id), (1, r)] ∧
      RegsOnly [(Reg.OVM_REFUSE_CNT, 0)] s t := by
  refine completes_of_admitted rfl hadm ?_
  rw [State.elapse_intentReason, hreason]
  refine ⟨rfl, ?_, State.refuseIntent_answered .., State.refuseIntent_raised .., ?_⟩
  · rw [State.refuseIntent_rd, State.count_rd_same']
    rfl
  · exact RegsOnly.refuseIntent (RegsOnly.of_elapse _ s dt) (List.mem_singleton.mpr rfl) _ _ _

end

/-! ### Withdrawals -/

section
variable {x : IntentSt} (hadm : Admitted s dt h 0 Op.OVM_INTENT_WITHDRAW) (hfind : tfind s.ovm.intents intent = some x)
  (hmig : s.migratingOf intent = none) (hauth : s.hasAuthority = true)
include hadm hfind hmig hauth

/-- An intent without a MIGRATING context is withdrawn at once. -/
theorem completes_withdraw_of_doWithdraw {post : State → Prop} (hpost : post ((s.elapse dt).doWithdraw h intent)) :
    Completes (.ovmIntentWithdraw dt h intent) s post := by
  have hmig' : (s.elapse dt).migratingOf intent = none := hmig
  refine completes_of_admitted rfl hadm ?_
  rw [hmig']
  exact hpost

theorem completes_ovmIntentWithdraw (hnone : x.state ≠ 4) (hpend : x.state ≠ 0) :
    Completes (.ovmIntentWithdraw dt h intent) s fun t =>
      t.ovm = { s.ovm with withdraws := s.ovm.withdraws ++ [(intent, h)] } ∧ t.io = s.io ∧ RegsOnly [] s t := by
  have hdo : (s.elapse dt).doWithdraw h intent =
      { s.elapse dt with ovm := { s.ovm with withdraws := s.ovm.withdraws ++ [(intent, h)] } } := by
    have hfind' : tfind (s.elapse dt).ovm.intents intent = some x := hfind
    have hauth' : (s.elapse dt).hasAuthority = true := hauth
    unfold State.doWithdraw
    rw [hfind', hauth']
    exact (if_neg hnone).trans ((if_neg Bool.false_ne_true).trans (if_neg hpend))
  refine completes_withdraw_of_doWithdraw hadm hfind hmig hauth ?_
  rw [hdo]
  exact ⟨rfl, rfl, RegsOnly.upd (RegsOnly.of_elapse _ s dt)⟩

/-- The state once a PENDING intent is forgotten. -/
def State.pendingDropped (s : State) (intent : Nat) (x : IntentSt) : State :=
  { s.dropReserved x with ovm := { (s.dropReserved x).ovm with
    intents := tset (s.dropReserved x).ovm.intents intent { x with state := 4, ctxs := [] },
    order := (s.dropReserved x).ovm.order.filter (fun i => i != intent) } }

theorem completes_ovmIntentWithdraw_pending (hpend : x.state = 0) :
    Completes (.ovmIntentWithdraw dt h intent) s fun t =>
      tfind t.ovm.intents intent = some { x with state := 4, ctxs := [] } ∧ intent ∉ t.ovm.order ∧
      Answered t h Op.OVM_INTENT_WITHDRAW 0 0 [] ∧ Raised t Ev.OVM_REFUSED (srcIntent intent) [(4, intent), (1, 12)] ∧
      RegsOnly [(Reg.OVM_REFUSE_CNT, 0)] s t := by
  have hdo : (s.elapse dt).doWithdraw h intent =
      (((s.elapse dt).pendingDropped intent x).refuseIntent x.host intent 0x0C).done h Op.OVM_INTENT_WITHDRAW := by
    have hfind' : tfind (s.elapse dt).ovm.intents intent = some x := hfind
    have hauth' : (s.elapse dt).hasAuthority = true := hauth
    unfold State.doWithdraw
    rw [hfind', hauth']
    exact (if_neg (by rw [hpend]; decide)).trans ((if_neg Bool.false_ne_true).trans (if_pos hpend))
  refine completes_withdraw_of_doWithdraw hadm hfind hmig hauth ?_
  rw [hdo]
  refine ⟨tfind_tset_same .., ?_, State.done_answered .., (State.refuseIntent_raised ..).done .., ?_⟩
  · show intent ∉ (s.elapse dt).ovm.order.filter (fun i => i != intent)
    simp
  · exact RegsOnly.done (RegsOnly.refuseIntent (RegsOnly.upd (RegsOnly.of_elapse _ s dt)) (List.mem_singleton.mpr rfl) _ _ _) _ _

end

/-! ### Pins -/

section
variable {items : Nat} {x : Ctx} (hctx : s.ctx? ctx = some x) (hactive : x.active = true) (hmig : x.migrating = none)
  (hitems : items ≤ 63) (hauth : s.hasAuthority = true)
include hctx hactive hmig hitems hauth

/-- The state once items of a context are pinned or unpinned. -/
def State.setPins (s : State) (ctx items : Nat) (x : Ctx) (on : Bool) : State :=
  { s with ovm := { s.ovm with ctxs := tset s.ovm.ctxs ctx { x with
    pins := (List.range 6).foldl (fun a k => if bitOf items k then setBit a k on else a) x.pins } } }

theorem State.doPin_eq (on : Bool) : (s.elapse dt).doPin h ctx items on =
    ((s.elapse dt).setPins ctx items x on).done h (if on then Op.OVM_PIN else Op.OVM_UNPIN) := by
  have hctx' : (s.elapse dt).ctx? ctx = some x := hctx
  have hauth' : (s.elapse dt).hasAuthority = true := hauth
  unfold State.doPin
  rw [hctx', hauth']
  exact (if_neg (by omega)).trans ((if_neg (by rw [hactive]; decide)).trans (if_neg Bool.false_ne_true))

/-- What both pin commands say of the context. -/
theorem State.doPin_spec (on : Bool) :
    (∃ y, ((s.elapse dt).doPin h ctx items on).ctx? ctx = some y ∧ y.place = x.place ∧
      ∀ k, k < 6 → bitOf y.pins k = if bitOf items k = true then on else bitOf x.pins k) ∧
    Answered ((s.elapse dt).doPin h ctx items on) h (if on then Op.OVM_PIN else Op.OVM_UNPIN) 0 0 [] ∧
    RegsOnly [] s ((s.elapse dt).doPin h ctx items on) := by
  rw [State.doPin_eq hctx hactive hmig hitems hauth]
  refine ⟨⟨_, tfind_tset_same .., rfl, fun k hk => ?_⟩, State.done_answered .., RegsOnly.done (RegsOnly.upd (RegsOnly.of_elapse _ s dt)) _ _⟩
  rw [bitOf_pinned]
  simp [hk]

theorem completes_ovmPin (hadm : Admitted s dt h 0 Op.OVM_PIN) :
    Completes (.ovmPin dt h ctx items) s fun t =>
      (∃ y, t.ctx? ctx = some y ∧ y.place = x.place ∧ ∀ k, k < 6 → bitOf y.pins k = (bitOf x.pins k || bitOf items k)) ∧
      Answered t h Op.OVM_PIN 0 0 [] ∧ RegsOnly [] s t := by
  obtain ⟨⟨y, hy, hplace, hpins⟩, hans, hregs⟩ := State.doPin_spec (dt := dt) (h := h) hctx hactive hmig hitems hauth true
  refine completes_of_admitted rfl hadm ?_
  rw [State.orHold_run hctx hmig]
  refine ⟨⟨y, hy, hplace, fun k hk => ?_⟩, hans, hregs⟩
  rw [hpins k hk]
  cases bitOf items k <;> simp

theorem completes_ovmUnpin (hadm : Admitted s dt h 0 Op.OVM_UNPIN) :
    Completes (.ovmUnpin dt h ctx items) s fun t =>
      (∃ y, t.ctx? ctx = some y ∧ y.place = x.place ∧ ∀ k, k < 6 → bitOf y.pins k = (bitOf x.pins k && !bitOf items k)) ∧
      Answered t h Op.OVM_UNPIN 0 0 [] ∧ RegsOnly [] s t := by
  obtain ⟨⟨y, hy, hplace, hpins⟩, hans, hregs⟩ := State.doPin_spec (dt := dt) (h := h) hctx hactive hmig hitems hauth false
  refine completes_of_admitted rfl hadm ?_
  rw [State.orHold_run hctx hmig]
  refine ⟨⟨y, hy, hplace, fun k hk => ?_⟩, hans, hregs⟩
  rw [hpins k hk]
  cases bitOf items k <;> simp

end

/-! ### Results and defragmentation -/

theorem State.elapse_servers (s : State) (dt : Nat) : ∀ n k, (s.elapse dt).servers n k = s.servers n k
  | 0, _ => rfl
  | n + 1, k => by
    have hkey : (s.elapse dt).serverKey k = s.serverKey k := rfl
    unfold State.servers
    rw [hkey]
    split
    next => rfl
    next q hq => rw [State.elapse_servers s dt n q]

theorem State.elapse_sourceFailed (s : State) (dt k : Nat) : (s.elapse dt).sourceFailed k = s.sourceFailed k := by
  unfold State.sourceFailed
  rw [State.elapse_servers]
  rfl

theorem State.elapse_placeBytes (s : State) (dt c : Nat) (x : Ctx) : (s.elapse dt).placeBytes c x = s.placeBytes c x := by
  unfold State.placeBytes
  rw [State.elapse_sourceFailed]
  rfl

theorem State.elapse_resultBlock (s : State) (dt id : Nat) (x : IntentSt) : (s.elapse dt).resultBlock id x = s.resultBlock id x := by
  have hctx (c : Nat) : (s.elapse dt).ctx? c = s.ctx? c := rfl
  unfold State.resultBlock
  simp only [State.elapse_placeBytes, hctx]

theorem completes_ovmResultRead {host avail : Nat} {x : IntentSt} (hadm : Admitted s dt h 0 Op.OVM_RESULT_READ)
    (hfind : tfind s.ovm.intents intent = some x) (hmig : s.migratingOf intent = none) (hhost : host % 64 = 0)
    (hroom : (s.resultBlock intent x).length ≤ avail) :
    Completes (.ovmResultRead dt h intent host avail) s fun t =>
      Answered t h Op.OVM_RESULT_READ 0 0 [] ∧ RegsOnly [] s t ∧
      (h.noCpl = true → t.io.mem = memWrite s.io.mem host (s.resultBlock intent x)) := by
  have hdo : (s.elapse dt).doResultRead h intent host avail =
      ((s.elapse dt).hostWrite host (s.resultBlock intent x)).done h Op.OVM_RESULT_READ := by
    have hfind' : tfind (s.elapse dt).ovm.intents intent = some x := hfind
    unfold State.doResultRead
    rw [hfind']
    dsimp only
    rw [State.elapse_resultBlock]
    exact if_neg (by simp; omega)
  have hmig' : (s.elapse dt).migratingOf intent = none := hmig
  refine completes_of_admitted rfl hadm ?_
  rw [hmig']
  show Answered ((s.elapse dt).doResultRead ..) _ _ _ _ _ ∧ RegsOnly _ _ ((s.elapse dt).doResultRead ..) ∧
    (_ → ((s.elapse dt).doResultRead ..).io.mem = _)
  rw [hdo]
  generalize s.resultBlock intent x = bytes
  exact ⟨State.done_answered .., RegsOnly.done (RegsOnly.upd (RegsOnly.of_elapse _ s dt)) _ _,
    fun hno => State.done_mem_of_noCpl (State.hostWrite _ _ _) hno _⟩

/-- The next multiple of a length lies at most that length ahead. -/
theorem nextMultiple_spec (a : Nat) {n : Nat} (hn : 0 < n) :
    a < (a / n + 1) * n ∧ (a / n + 1) * n ≤ a + n ∧ (a / n + 1) * n % n = 0 := by
  refine ⟨Nat.lt_mul_of_div_lt (Nat.lt_succ_self _) hn, ?_, Nat.mul_mod_left ..⟩
  rw [Nat.add_mul, Nat.one_mul]
  exact Nat.add_le_add_right (Nat.div_mul_le_self ..) _

theorem completes_ovmDefrag (hadm : Admitted s dt h 0 Op.OVM_DEFRAG) :
    Completes (.ovmDefrag dt h) s fun t =>
      (∃ a, t.ovm = { s.ovm with defragAt := some a } ∧ t.addr < a ∧ a ≤ t.addr + Config.epochPos ∧ a % Config.epochPos = 0) ∧
      Answered t h Op.OVM_DEFRAG 0 0 [] ∧ RegsOnly [] s t := by
  have hpos : 0 < Config.epochPos := by decide
  refine completes_of_admitted rfl hadm ⟨⟨((s.elapse dt).addr / Config.epochPos + 1) * Config.epochPos, rfl, ?_⟩,
    State.done_answered .., RegsOnly.done (RegsOnly.upd (RegsOnly.of_elapse _ s dt)) _ _⟩
  exact nextMultiple_spec (s.elapse dt).addr hpos

end

/-- Settles O37, command by command. -/
theorem overmanCommandsTakeEffect : Obligations.OvermanCommandsTakeEffect := by
  unfold Obligations.OvermanCommandsTakeEffect
  intro s dt h
  refine ⟨fun p obs b hadm hreason hacc => completes_ovmIntentAdd hadm hreason hacc, fun p obs hadm hreason hacc => ?_,
    fun p obs r hadm hreason => completes_ovmIntentAdd_refused hadm hreason,
    fun intent x hadm hfind hnone hpend hmig hauth => completes_ovmIntentWithdraw hadm hfind hmig hauth hnone hpend,
    fun intent x hadm hfind hpend hmig hauth => completes_ovmIntentWithdraw_pending hadm hfind hmig hauth hpend,
    fun ctx items x hadm hctx hactive hmig hitems hauth => completes_ovmPin hctx hactive hmig hitems hauth hadm,
    fun ctx items x hadm hctx hactive hmig hitems hauth => completes_ovmUnpin hctx hactive hmig hitems hauth hadm,
    fun intent host avail x hadm hfind hmig hhost hroom => completes_ovmResultRead hadm hfind hmig hhost hroom, completes_ovmDefrag⟩
  split at hacc
  next hzero => exact completes_ovmIntentAdd_waits hadm hreason hzero
  next => exact hacc.elim

end Sys2Proof.Machine
end


section
/-! PROOFS. The Overman's own events (R28, R309 to R318). -/

namespace Sys2Proof.Machine

section
variable {s : State} {dt ctx : Nat}

/-! ### Moves -/

/-- The state once a move has begun (R312). -/
def State.moveBegun (s : State) (m : Move) (x : Ctx) : State :=
  { s with ovm := { s.ovm with moves := s.ovm.moves ++ [m], ctxs := tset s.ovm.ctxs m.ctx { x with migrating := some s.addr } } }

theorem State.takeMove_begun {m : Move} {x : Ctx} (hctx : s.ctx? m.ctx = some x) (hok : s.moveOk m x = true)
    (hawake : s.gatedUnits { x with place := m.place } = []) : s.takeMove m = s.moveBegun m x := by
  unfold State.takeMove
  rw [hctx]
  dsimp only
  rw [hok, hawake]
  exact (if_neg Bool.false_ne_true).trans (if_neg (by decide))

/-- The state once a plan of one move has been taken up. -/
def State.planTaken (s : State) (m : Move) (x : Ctx) : State :=
  { s.moveBegun m x with ovm := { (s.moveBegun m x).ovm with
      lastMove := tset s.ovm.lastMove m.reason s.time,
      defragAt := if m.reason == 4 then none else s.ovm.defragAt } }

theorem completes_ovmMovePlan {obs : OvmObs} {m : Move} {x : Ctx} (hauth : s.hasAuthority = true)
    (hruns : (s.elapse dt).moveRuns [m] m = true) (hctx : s.ctx? m.ctx = some x) (hactive : x.active = true)
    (hmig : x.migrating = none) (hfar : farSame x.place m.place = true) (hpins : Nat.land x.pins (movedItems x.place m.place) = 0)
    (hcount : m.reason = 6 ∨ (s.ovm.moves.filter (fun n => n.reason != 6)).length < max 1 (s.rd Reg.OVM_MOVE_MAX 0))
    (hfits : (s.elapse dt).moveFits m x = true) (hhewer : (s.elapse dt).moveHewerOk obs m x = true)
    (hawake : (s.elapse dt).gatedUnits { x with place := m.place } = []) :
    Completes (.ovmMovePlan dt obs [m]) s fun t =>
      t.ovm.moves = s.ovm.moves ++ [m] ∧ t.ctx? m.ctx = some { x with migrating := some t.addr } ∧
      tfind t.ovm.lastMove m.reason = some t.time ∧ t.io = s.io ∧ RegsOnly [] s t := by
  have hctx' : (s.elapse dt).ctx? m.ctx = some x := hctx
  have hauth' : (s.elapse dt).hasAuthority = true := hauth
  have hcount' : (m.reason == 6 || decide (((s.elapse dt).ovm.moves.filter (fun n => n.reason != 6)).length <
      max 1 ((s.elapse dt).rd Reg.OVM_MOVE_MAX 0))) = true := by
    simpa using hcount
  have hok : (s.elapse dt).moveOk m x = true := by
    unfold State.moveOk
    simp only [hactive, hmig, hfar, hpins, hfits, hcount']
    rfl
  have hexec : exec (.ovmMovePlan dt obs [m]) s = .next ((s.elapse dt).planTaken m x) := by
    show execOvmMovePlan dt obs [m] s = _
    unfold execOvmMovePlan
    dsimp only
    rw [hauth', List.filter_cons_of_pos (by rw [hruns, hctx']; exact hhewer), List.filter_nil, List.foldl_cons, List.foldl_nil,
      State.takeMove_begun hctx' hok hawake]
    unfold State.planTaken
    rw [List.any_cons, List.any_nil, Bool.or_false]
    rfl
  exact ⟨_, hexec, rfl, tfind_tset_same .., tfind_tset_same .., rfl, RegsOnly.upd (RegsOnly.upd (RegsOnly.of_elapse _ s dt))⟩

/-- The state once a hold has expired with no command held (R313). -/
def State.holdExpired (s : State) (c : Nat) (x : Ctx) : State :=
  (({ s with ovm := { s.ovm with moves := s.ovm.moves.filter (fun m => m.ctx != c),
                                 ctxs := tset s.ovm.ctxs c { x with migrating := none } } } : State).count Reg.OVM_HOLD_EXPIRE_CNT 0).raise
    Ev.OVM_HOLD_EXPIRED (srcCtx c) [(2, c), (4, 0)]

theorem State.expireHold_eq {x : Ctx} (hctx : s.ctx? ctx = some x) (hheld : s.ovm.held = []) :
    s.expireHold ctx = { s.holdExpired ctx x with ovm := { (s.holdExpired ctx x).ovm with held := [] } } := by
  have hend : s.endMove ctx = { s with ovm := { s.ovm with
      moves := s.ovm.moves.filter (fun m => m.ctx != ctx), ctxs := tset s.ovm.ctxs ctx { x with migrating := none } } } := by
    unfold State.endMove
    rw [hctx]
  have hnone : (s.holdExpired ctx x).ovm.held = [] := hheld
  unfold State.expireHold
  dsimp only
  rw [hend, hheld]
  show (s.holdExpired ctx x).releaseHeld ctx = _
  unfold State.releaseHeld
  rw [hnone]
  rfl

theorem completes_ovmHoldExpired {x : Ctx} {since : Nat} (hrun : s.halted = false) (hctx : s.ctx? ctx = some x)
    (hmig : x.migrating = some since) (hheld : s.ovm.held = []) :
    Completes (.ovmHoldExpired dt ctx) s fun t =>
      t.addr = max (s.addr + dt) (since + 2 * Config.multiframePos) ∧ t.ctx? ctx = some { x with migrating := none } ∧
      (∀ m ∈ t.ovm.moves, m.ctx ≠ ctx) ∧
      t.rd Reg.OVM_HOLD_EXPIRE_CNT 0 = (s.rd Reg.OVM_HOLD_EXPIRE_CNT 0 + 1) % 2 ^ 32 ∧
      Raised t Ev.OVM_HOLD_EXPIRED (srcCtx ctx) [(2, ctx), (4, 0)] ∧ RegsOnly [(Reg.OVM_HOLD_EXPIRE_CNT, 0)] s t := by
  generalize hend : since + 2 * Config.multiframePos = a
  obtain ⟨b, hb⟩ : ∃ b, b = (s.elapse dt).waitAddr a := ⟨_, rfl⟩
  have haddr : b.addr = max (s.addr + dt) a := by
    have hstart : (s.elapse dt).addr = s.addr + dt := by
      show (if s.halted then s.addr else _) = _
      rw [if_neg (by rw [hrun]; decide)]
    rw [hb, State.waitAddr_addr (s.elapse dt) _ hrun, hstart]
  have hovm : b.ovm = s.ovm := by rw [hb, State.waitAddr_ovm]; rfl
  have hregs : b.regs = s.regs := by rw [hb, State.waitAddr_regs]; rfl
  have hbctx : b.ctx? ctx = some x := by
    unfold State.ctx?
    rw [hovm]
    exact hctx
  have hrd (f : Fld) : b.rd f 0 = s.rd f 0 := by
    unfold State.rd
    rw [hregs]
  have hexec : exec (.ovmHoldExpired dt ctx) s =
      .next { b.holdExpired ctx x with ovm := { (b.holdExpired ctx x).ovm with held := [] } } := by
    have hctx' : (s.elapse dt).ctx? ctx = some x := hctx
    show execOvmHoldExpired dt ctx s = _
    unfold execOvmHoldExpired
    dsimp only
    rw [hctx']
    dsimp only
    rw [hmig]
    dsimp only
    rw [hend, ← hb, if_neg (by omega), State.expireHold_eq hbctx (by rw [hovm, hheld])]
  refine ⟨_, hexec, haddr, tfind_tset_same .., ?_, ?_, State.raise_raised .., ?_⟩
  · intro m hm
    have hkept : m ∈ b.ovm.moves.filter (fun m => m.ctx != ctx) := hm
    simpa using (List.mem_filter.mp hkept).2
  · show (State.count _ Reg.OVM_HOLD_EXPIRE_CNT 0).rd Reg.OVM_HOLD_EXPIRE_CNT 0 = _
    rw [State.count_rd_same', ← hrd]
    rfl
  · exact RegsOnly.upd (RegsOnly.raise (RegsOnly.count (RegsOnly.upd (regsOnly_of_regs hregs _)) (List.mem_singleton.mpr rfl)) _ _ _)

/-! ### Stages -/

/-- A unit that has found a fault in itself. -/
def State.Faulted (s : State) : Prop := s.par.faults ≠ [] ∧ s.rd Reg.PAR_FAULTED 0 = 1

theorem State.parRegs_faulted (h : s.par.faults ≠ []) : s.parRegs.Faulted := by
  have hlist : (!s.par.faults.isEmpty) = true := by simpa using h
  refine ⟨h, ?_⟩
  unfold State.parRegs
  rw [hlist]
  simp [State.wrBit, State.wr_rd, Fld.key, Reg.PAR_FAULTED, Reg.PAR_FAULT_CAUSE, Reg.PAR_HEALTHY, ofBool]

theorem State.Faulted.unhealthy (h : s.Faulted) : s.healthy = false := by
  unfold State.healthy
  rw [List.isEmpty_eq_false_iff.mpr h.1]
  rfl

theorem State.setPar_faulted (h : s.Faulted) (v cause : Nat) : (s.setPar v cause).Faulted := by
  unfold State.setPar
  dsimp only
  split
  · exact h
  · refine State.parRegs_faulted ?_
    have hpar (a : State) : a.ovmFollow.par = a.par := State.ovmFollow_frame (pt := .par) (by decide) (Part.same_refl _ a)
    rw [hpar]
    exact h.1

theorem State.raise_faulted (h : s.Faulted) (code src : Nat) (d : List (Nat × Nat)) : (s.raise code src d).Faulted := h

theorem State.endTake_faulted (h : s.Faulted) (reason : Nat) : (s.endTake reason).Faulted := by
  unfold State.endTake
  split
  · exact h
  · split <;> exact h

theorem State.tryActive_faulted (h : s.Faulted) : s.tryActive.Faulted := by
  unfold State.tryActive
  split
  · exact h
  · rw [h.unhealthy]
    exact State.endTake_faulted (State.setPar_faulted h ..) 4

theorem State.tryTake_faulted (h : s.Faulted) : s.tryTake.Faulted := by
  unfold State.tryTake
  rw [h.unhealthy, Bool.and_false]
  exact h

theorem State.send_faults (s : State) (m : MateMsg) : (s.send m).par.faults = s.par.faults := by
  unfold State.send
  split <;> rfl

theorem State.giveUp_faulted (h : s.Faulted) (cause : Nat) : (s.giveUp cause).Faulted := by
  unfold State.giveUp
  extract_lets p s1 s2
  have hrd (a : State) (m : MateMsg) (f : Fld) : (a.send m).rd f 0 = a.rd f 0 :=
    regsOnly_of_regs (State.send_frame (pt := .regs) (by decide) (Part.same_refl _ a)) [] f 0 (by simp)
  have hleased (a : State) : (a.wrBit Reg.PAR_LEASED 0 false).rd Reg.PAR_FAULTED 0 = a.rd Reg.PAR_FAULTED 0 :=
    State.wr_rd_other _ _ _ _ _ _ (by decide)
  have hfaults : s2.par.faults = s.par.faults := by
    show (State.send (State.send _ _) _).par.faults = _
    rw [State.send_faults, State.send_faults]
    rfl
  have hfaulted : s2.rd Reg.PAR_FAULTED 0 = 1 := by
    show (State.send (State.send _ _) _).rd _ 0 = _
    rw [hrd, hrd, hleased]
    exact h.2
  have h2 : s2.Faulted := ⟨by rw [hfaults]; exact h.1, hfaulted⟩
  exact State.setPar_faulted (State.raise_faulted h2 _ _ _) ..

theorem State.selfFault_faulted (h : s.paired = true) (cause : Nat) : (s.selfFault cause).Faulted := by
  unfold State.selfFault
  rw [h]
  extract_lets p s1
  have h1 : s1.Faulted := by
    refine State.parRegs_faulted ?_
    show (if s.par.faults.contains cause then s.par.faults else s.par.faults ++ [cause]) ≠ []
    split
    next hin => exact fun hnil => by simp [hnil] at hin
    next => simp
  show (if s1.parSt = parActive then s1.giveUp cause else s1.review).Faulted
  split
  next => exact State.giveUp_faulted h1 cause
  next => exact State.tryTake_faulted (State.tryActive_faulted (State.parRegs_faulted h1.1))

/-- The intent of a context pinned to an unusable stage is stranded (R311). -/
def State.strandIntent (a : State) (unit : Nat) (e : Nat × Ctx) : State :=
  match tfind a.ovm.intents e.2.intent with
  | none => a
  | some x =>
    ({ a with ovm := { a.ovm with intents := tset a.ovm.intents e.2.intent { x with state := 3 } } } : State).raise
      Ev.OVM_PIN_BLOCKED (srcIntent e.2.intent) [(4, e.2.intent), (2, e.1), (1, unit)]

theorem State.strandIntent_spec (a : State) (unit : Nat) (e : Nat × Ctx) : (a.strandIntent unit e).regs = a.regs ∧
    (a.strandIntent unit e).ovm.unusable = a.ovm.unusable ∧ (a.strandIntent unit e).ovm.ctxs = a.ovm.ctxs := by
  unfold State.strandIntent
  split
  · exact ⟨rfl, rfl, rfl⟩
  · exact ⟨rfl, rfl, rfl⟩

/-- The pinned contexts of a stage strand their intents: no register changes, and of the Overman's state only the intents. -/
theorem State.markUnusable_spec (s : State) {slice stage : Nat} (hstage : stage ≤ 1) :
    (s.markUnusable slice stage).regs = s.regs ∧ stageUnit slice stage ∈ (s.markUnusable slice stage).ovm.unusable ∧
    (s.markUnusable slice stage).ovm.ctxs = s.ovm.ctxs.map (fun e =>
      if e.2.active && (e.2.stage && (if stage = 0 then e.2.place.inSlice else e.2.place.egSlice) == slice) then
        (e.1, { e.2 with fail := true }) else e) := by
  unfold State.markUnusable
  extract_lets u hit o s1
  have hfold (l : List (Nat × Ctx)) (f : State → Nat × Ctx → State)
      (hf : ∀ a e, (f a e).regs = a.regs ∧ (f a e).ovm.unusable = a.ovm.unusable ∧ (f a e).ovm.ctxs = a.ovm.ctxs) : ∀ a : State,
      (l.foldl f a).regs = a.regs ∧ (l.foldl f a).ovm.unusable = a.ovm.unusable ∧ (l.foldl f a).ovm.ctxs = a.ovm.ctxs := by
    induction l with
    | nil => exact fun a => ⟨rfl, rfl, rfl⟩
    | cons e rest ih =>
      intro a
      obtain ⟨hregs, hun, hctxs⟩ := ih (f a e)
      obtain ⟨hregs', hun', hctxs'⟩ := hf a e
      exact ⟨hregs.trans hregs', hun.trans hun', hctxs.trans hctxs'⟩
  have hu : u = stageUnit slice stage := if_pos hstage
  obtain ⟨hregs, hun, hctxs⟩ := hfold (s.ovm.ctxs.filter (fun e => hit e.2 && bitOf e.2.pins 0))
    (State.strandIntent · (2 * slice + stage % 2) ·) (fun a e => State.strandIntent_spec a _ e) s1
  refine ⟨hregs, ?_, ?_⟩
  · refine Eq.mpr (congrArg (fun l => stageUnit slice stage ∈ l) hun) ?_
    rw [← hu]
    show u ∈ if s.ovm.unusable.contains u then s.ovm.unusable else s.ovm.unusable ++ [u]
    split
    next hin => simpa using hin
    next => simp
  · refine hctxs.trans (List.map_congr_left fun e _ => ?_)
    have hhit : hit e.2 =
        (e.2.active && (e.2.stage && (if stage = 0 then e.2.place.inSlice else e.2.place.egSlice) == slice)) := by
      obtain rfl | rfl : stage = 0 ∨ stage = 1 := by omega
      · rfl
      · rfl
    rw [hhit]

theorem completes_stageUnusable {slice stage : Nat} (hstage : stage ≤ 1) :
    Completes (.stageUnusable dt slice stage) s fun t =>
      stageUnit slice stage ∈ t.ovm.unusable ∧
      (∀ c x, (c, x) ∈ s.ovm.ctxs → x.active = true → x.stage = true →
        (if stage = 0 then x.place.inSlice else x.place.egSlice) = slice → (c, { x with fail := true }) ∈ t.ovm.ctxs) ∧
      (∀ c x, (c, x) ∈ s.ovm.ctxs → x.stage = false → (c, x) ∈ t.ovm.ctxs) ∧
      (s.paired = true → t.rd Reg.PAR_FAULTED 0 = 1) ∧ (s.paired = false → RegsOnly [] s t) := by
  obtain ⟨hregs, hun, hctxs⟩ := State.markUnusable_spec (s.elapse dt) (slice := slice) hstage
  obtain ⟨b, hb⟩ : ∃ b, b = (s.elapse dt).markUnusable slice stage := ⟨_, rfl⟩
  rw [← hb] at hregs hun hctxs
  have hovm : (b.selfFault 1).ovm = b.ovm := State.selfFault_frame (pt := .ovm) (by decide) (Part.same_refl _ b)
  have hpaired : b.paired = s.paired := congrArg (· != 0) (regsOnly_of_regs hregs [] Reg.PAR_PAIR_EN 0 (by simp))
  refine ⟨b.selfFault 1, by rw [hb]; rfl, by rw [hovm]; exact hun, ?_, ?_, ?_, ?_⟩
  · intro c x hmem hactive hin hslice
    rw [hovm, hctxs]
    refine List.mem_map.mpr ⟨(c, x), hmem, if_pos ?_⟩
    rw [hactive, hin, hslice]
    simp
  · intro c x hmem hout
    rw [hovm, hctxs]
    refine List.mem_map.mpr ⟨(c, x), hmem, if_neg ?_⟩
    rw [hout]
    simp
  · intro hp
    exact (State.selfFault_faulted (hpaired.trans hp) 1).2
  · intro hp
    have hsame : b.selfFault 1 = b := by
      unfold State.selfFault
      rw [hpaired, hp]
      rfl
    rw [hsame]
    exact regsOnly_of_regs hregs _

/-! ### Engines -/

/-- The registers that name the Overman's hewers. -/
def hewerFields : List (Fld × Nat) :=
  [(Reg.OVM_HEWERS_LO, 0), (Reg.OVM_HEWERS_MID, 0), (Reg.OVM_HEWERS_HI, 0), (Reg.OVM_ENGINES, 0)]

theorem State.takeHewers_regsOnly (s : State) (n : Nat) (bad : List Nat) : RegsOnly hewerFields s (s.takeHewers n bad) := by
  unfold State.takeHewers State.setHewers
  refine RegsOnly.raiseIf ?_ _ _ _ _
  iterate 4 refine RegsOnly.wr ?_ _ _ _ (by simp [hewerFields])
  exact RegsOnly.refl _ s

theorem State.takeHewers_ovm (s : State) (n : Nat) (bad : List Nat) : (s.takeHewers n bad).ovm = s.ovm :=
  State.takeHewers_frame (pt := .ovm) (by decide) (Part.same_refl _ s)

theorem State.takeHewers_runState (s : State) (n : Nat) (bad : List Nat) : (s.takeHewers n bad).ovmRunState = s.ovmRunState := by
  have h := State.takeHewers_regsOnly s n bad
  unfold State.ovmRunState State.hasAuthority
  rw [h Reg.PAR_PAIR_EN 0 (by decide), h Reg.PAR_AUTHORITY 0 (by decide)]

/-- The Overman runs on hewers and shows so. -/
theorem State.begun_spec (s : State) (n : Nat) (bad : List Nat) :
    ((s.takeHewers n bad).wr Reg.OVM_STATE 0 (s.takeHewers n bad).ovmRunState).rd Reg.OVM_STATE 0 =
      (if s.hasAuthority then 1 else 2) ∧
    RegsOnly ((Reg.OVM_STATE, 0) :: hewerFields) s
      ((s.takeHewers n bad).wr Reg.OVM_STATE 0 (s.takeHewers n bad).ovmRunState) := by
  refine ⟨?_, RegsOnly.wr (RegsOnly.mono (State.takeHewers_regsOnly s n bad) (fun e he => List.mem_cons_of_mem _ he)) _ _ _ (by simp)⟩
  rw [State.wr_rd_same, State.takeHewers_runState]
  unfold State.ovmRunState
  split <;> rfl

/-- The Overman that restarts, before it has taken its hewers: no move is under way. -/
def State.restarted (s : State) : State :=
  { (s.count Reg.OVM_RESTART_CNT 0).wr Reg.OVM_STATE 0 3 with ovm := { s.ovm with
      moveWaits := [], arm := match s.ovm.arm with | some a => if a.armed then some a else none | none => none } }

theorem State.ovmRestart_eq (h : s.ovm.moves = []) (bad : List Nat) : s.ovmRestart bad =
    (s.restarted.takeHewers s.restarted.enginesNeeded bad).wr Reg.OVM_STATE 0
      (s.restarted.takeHewers s.restarted.enginesNeeded bad).ovmRunState := by
  unfold State.ovmRestart
  rw [h]
  rfl

theorem completes_ovmRestart {hewer : Nat} (hon : hewer ∈ s.ovmHewers) (hmoves : s.ovm.moves = []) :
    Completes (.ovmRestart dt hewer) s fun t =>
      t.rd Reg.OVM_RESTART_CNT 0 = (s.rd Reg.OVM_RESTART_CNT 0 + 1) % 2 ^ 32 ∧
      t.rd Reg.OVM_STATE 0 = (if s.hasAuthority then 1 else 2) ∧ t.ovm.ctxs = s.ovm.ctxs ∧ t.ovm.intents = s.ovm.intents ∧
      RegsOnly [(Reg.OVM_RESTART_CNT, 0), (Reg.OVM_STATE, 0), (Reg.OVM_HEWERS_LO, 0), (Reg.OVM_HEWERS_MID, 0),
        (Reg.OVM_HEWERS_HI, 0), (Reg.OVM_ENGINES, 0)] s t := by
  obtain ⟨b, hb⟩ : ∃ b, b = (s.elapse dt).restarted := ⟨_, rfl⟩
  have hregs : b.regs = (((s.elapse dt).count Reg.OVM_RESTART_CNT 0).wr Reg.OVM_STATE 0 3).regs := by rw [hb]; rfl
  have hctxs : b.ovm.ctxs = s.ovm.ctxs := by rw [hb]; rfl
  have hintents : b.ovm.intents = s.ovm.intents := by rw [hb]; rfl
  have hexec : exec (.ovmRestart dt hewer) s =
      .next ((b.takeHewers b.enginesNeeded [hewer]).wr Reg.OVM_STATE 0 (b.takeHewers b.enginesNeeded [hewer]).ovmRunState) := by
    have hon' : (s.elapse dt).ovmHewers.contains hewer = true := List.elem_eq_true_of_mem hon
    show execOvmRestart dt hewer s = _
    unfold execOvmRestart
    dsimp only
    rw [if_neg (by rw [hon']; decide), State.ovmRestart_eq (s := s.elapse dt) hmoves, hb]
  have hbcnt : b.rd Reg.OVM_RESTART_CNT 0 = (s.rd Reg.OVM_RESTART_CNT 0 + 1) % 2 ^ 32 := by
    refine (regsOnly_of_regs hregs [] Reg.OVM_RESTART_CNT 0 (by simp)).trans ?_
    exact (State.wr_rd_other _ _ _ _ _ _ (by decide)).trans (State.count_rd_same' ..)
  have hbonly : RegsOnly [(Reg.OVM_RESTART_CNT, 0), (Reg.OVM_STATE, 0)] s b :=
    RegsOnly.of_regs (RegsOnly.wr (RegsOnly.count (RegsOnly.of_elapse _ s dt) (by simp)) _ _ _ (by simp)) hregs
  have hauth : b.hasAuthority = s.hasAuthority := by
    unfold State.hasAuthority
    rw [hbonly Reg.PAR_PAIR_EN 0 (by decide), hbonly Reg.PAR_AUTHORITY 0 (by decide)]
  obtain ⟨hstate, honly⟩ := State.begun_spec b b.enginesNeeded [hewer]
  refine ⟨_, hexec, (honly _ _ (by decide)).trans hbcnt, by rw [hstate, hauth], ?_, ?_,
    RegsOnly.trans (RegsOnly.mono hbonly (by simp)) (RegsOnly.mono honly (by simp [hewerFields]))⟩
  · exact (congrArg OvmSt.ctxs (State.takeHewers_ovm ..)).trans hctxs
  · exact (congrArg OvmSt.intents (State.takeHewers_ovm ..)).trans hintents

theorem completes_ovmEngines_begins (hstate : s.rd Reg.OVM_STATE 0 = 0) (hout : ∀ n, n < 96 → s.hewerReset n = false) :
    Completes (.ovmEngines dt) s fun t =>
      t.rd Reg.OVM_STATE 0 = (if s.hasAuthority then 1 else 2) ∧
      RegsOnly [(Reg.OVM_STATE, 0), (Reg.OVM_HEWERS_LO, 0), (Reg.OVM_HEWERS_MID, 0), (Reg.OVM_HEWERS_HI, 0),
        (Reg.OVM_ENGINES, 0)] s t := by
  obtain ⟨b, hb⟩ : ∃ b, b = s.elapse dt := ⟨_, rfl⟩
  have hstate' : b.rd Reg.OVM_STATE 0 = 0 := by rw [hb]; exact hstate
  have hnone : (List.range 96).any (fun h => b.hewerReset h && !b.ovm.unusable.contains (512 + h)) = false := by
    rw [List.any_eq_false]
    intro n hn
    have hreset : b.hewerReset n = false := by rw [hb]; exact hout n (List.mem_range.mp hn)
    simp [hreset]
  have hexec : exec (.ovmEngines dt) s =
      .next ((b.takeHewers b.enginesNeeded []).wr Reg.OVM_STATE 0 (b.takeHewers b.enginesNeeded []).ovmRunState) := by
    show execOvmEngines dt s = _
    unfold execOvmEngines
    dsimp only
    rw [← hb, if_pos hstate']
    unfold State.startOverman
    rw [if_neg (by rw [hstate', hnone]; decide)]
  obtain ⟨hrun, honly⟩ := State.begun_spec b b.enginesNeeded []
  have hsb : RegsOnly ((Reg.OVM_STATE, 0) :: hewerFields) s b := by rw [hb]; exact RegsOnly.of_elapse _ s dt
  refine ⟨_, hexec, hrun.trans ?_, RegsOnly.trans hsb honly⟩
  rw [hb]
  rfl

theorem completes_ovmEngines_idle (hstate : s.rd Reg.OVM_STATE 0 ≠ 0) (hneed : s.enginesNeeded < s.rd Reg.OVM_ENGINES 0)
    (hidle : s.ovm.idleFrom = none) :
    Completes (.ovmEngines dt) s fun t => t.ovm = { s.ovm with idleFrom := some (s.time + dt) } ∧ RegsOnly [] s t := by
  have hexec : exec (.ovmEngines dt) s =
      .next { s.elapse dt with ovm := { s.ovm with idleFrom := some (s.time + dt) } } := by
    have hstate' : ¬ (s.elapse dt).rd Reg.OVM_STATE 0 = 0 := hstate
    have hneed' : (s.elapse dt).enginesNeeded < (s.elapse dt).rd Reg.OVM_ENGINES 0 := hneed
    have hidle' : (s.elapse dt).ovm.idleFrom = none := hidle
    show execOvmEngines dt s = _
    unfold execOvmEngines
    dsimp only
    rw [if_neg hstate', if_neg (by omega), if_neg (by omega), hidle']
    rfl
  exact ⟨_, hexec, rfl, RegsOnly.upd (RegsOnly.of_elapse _ s dt)⟩

/-! ### Units that wake -/

/-- An intent waits for a unit no longer. -/
def IntentSt.unitUp (x : IntentSt) (u : Nat) : IntentSt := { x with wake := x.wake.filter (fun v => v != u) }

/-- The state once a unit that was waking is no longer gated (R28). -/
def State.unitUp (s : State) (u : Nat) : State :=
  { s with ovm := { s.ovm with
    waking := s.ovm.waking.filter (fun v => v != u), gated := s.ovm.gated.filter (fun v => v != u),
    intents := s.ovm.intents.map (fun e => (e.1, e.2.unitUp u)) } }

/-- What a unit's kind adds once it is ready. -/
def State.unitReady (s : State) (kind n : Nat) : State :=
  if kind = 2 then (s.wrBit Reg.PRT_LANE_GATED n false).laneRestart n
  else if kind = 3 then
    ({ s with prt := { s.prt with trbGated := s.prt.trbGated.filter (fun v => v != n) } } : State).trbRestart n
  else s

theorem State.unitReady_ovm (s : State) (kind n : Nat) : (s.unitReady kind n).ovm = s.ovm := by
  unfold State.unitReady
  split
  · exact (State.laneRestart_frame (pt := .ovm) (by decide) (Part.same_refl _ _)).trans rfl
  · split
    · exact (State.trbRestart_frame (pt := .ovm) (by decide) (Part.same_refl _ _)).trans rfl
    · rfl

/-- A lane that restarts is not ready; of its ports' fields nothing but its defects is written besides. -/
theorem State.laneRestart_spec (s : State) {l : Nat} (hl : l < 80) :
    (s.laneRestart l).rd Reg.PRT_LANE_READY l = 0 ∧ (s.laneRestart l).rd Reg.PRT_LANE_GATED l = s.rd Reg.PRT_LANE_GATED l := by
  unfold State.laneRestart
  extract_lets s1 s2 u s3 s4 s5
  obtain ⟨-, hlos, -⟩ := State.laneFlag_spec s (f := Reg.PRT_LANE_LOS) rfl Ev.LANE_LOS l false
  obtain ⟨-, -, -, hmask⟩ := State.maskBelow_spec (s.laneFlag Reg.PRT_LANE_LOS Ev.LANE_LOS l false) l 3
  have h12 : RegsOnly ([Reg.PRT_LANE_READY].map fun g => (g, l)) s1 s2 := RegsOnly.wrBit (RegsOnly.refl _ s1) (by simp)
  have hgated : s2.rd Reg.PRT_LANE_GATED l = s.rd Reg.PRT_LANE_GATED l := by
    rw [h12.field (by decide), hmask.field (by decide), RegsOnly.field (l := [Reg.PRT_LANE_LOS]) hlos (by decide)]
  have hready : s2.rd Reg.PRT_LANE_READY l = 0 := State.wrBit_rd_same ..
  have h3 : BlocksOnly [3, 6, 7] s2 s3 :=
    (State.settle_blocks (BlocksOnly.setFramer (BlocksOnly.refl _ s2) _ _) _).mono (by decide)
  have htx (a : State) : BlocksOnly [3, 6, 7] a (a.settleTx l) := by
    unfold State.settleTx
    split
    next hon =>
      have hlt : l < 48 := State.rlkOn_lt hon
      exact BlocksOnly.setRlkLane (BlocksOnly.wr (b := 6) (n := 48) (BlocksOnly.wr (b := 6) (n := 48) (BlocksOnly.refl _ a) hlt
        (by decide) (by decide) _) hlt (by decide) (by decide) _) _ _
    next => exact BlocksOnly.refl _ a
  have h5 : BlocksOnly [3, 6, 7] s2 s5 := by
    show BlocksOnly _ s2 (if l < 48 then _ else s3)
    split
    next hlt =>
      have h4 : BlocksOnly [3, 6, 7] s2 s4 := by
        refine BlocksOnly.wrBit (b := 6) (n := 48) ?_ hlt (by decide) (by decide) _
        refine BlocksOnly.wrBit (b := 6) (n := 48) ?_ hlt (by decide) (by decide) _
        refine BlocksOnly.wr (b := 6) (n := 48) ?_ hlt (by decide) (by decide) _
        exact BlocksOnly.setRlkLane (BlocksOnly.trans h3 (htx s3)) _ _
      exact BlocksOnly.wrBit (b := 6) (n := 48) (BlocksOnly.wrBit (b := 6) (n := 48) h4 hlt (by decide) (by decide) _) hlt
        (by decide) (by decide) _
    next => exact h3
  have hall : BlocksOnly [3, 6, 7] s2 (s5.laneFollow l) := BlocksOnly.trans h5 (State.laneFollow_blocks s5 l)
  exact ⟨(hall.field (b := 5) (n := 80) hl (by decide) (by decide)).trans hready,
    (hall.field (b := 5) (n := 80) hl (by decide) (by decide)).trans hgated⟩

theorem State.trbRestart_trbGated (s : State) (n : Nat) : (s.trbRestart n).prt.trbGated = s.prt.trbGated := by
  unfold State.trbRestart
  dsimp only
  rw [State.trbFollow_prt]
  rfl

theorem State.unitReady_lane (s : State) {n : Nat} (hn : n < 80) :
    (s.unitReady 2 n).rd Reg.PRT_LANE_GATED n = 0 ∧ (s.unitReady 2 n).rd Reg.PRT_LANE_READY n = 0 := by
  obtain ⟨hready, hgated⟩ := State.laneRestart_spec (s.wrBit Reg.PRT_LANE_GATED n false) hn
  exact ⟨hgated.trans (State.wrBit_rd_same ..), hready⟩

theorem State.unitReady_trb (s : State) (n : Nat) : (s.unitReady 3 n).prt.trbGated = s.prt.trbGated.filter (fun v => v != n) := by
  unfold State.unitReady
  rw [if_neg (by decide), if_pos rfl, State.trbRestart_trbGated]

theorem State.retryMoves_none (h : s.ovm.moveWaits = []) : s.retryMoves = { s with ovm := { s.ovm with moveWaits := [] } } := by
  unfold State.retryMoves
  rw [h]
  rfl

/-- The command for a unit that is waking, where no move waits. -/
theorem exec_unitWakeReady {kind n : Nat} (hwaking : unitCode kind n ∈ s.ovm.waking) (hwaits : s.ovm.moveWaits = []) :
    ∃ b, b = ((s.elapse dt).unitUp (unitCode kind n)).unitReady kind n ∧
      exec (.unitWakeReady dt kind n) s = .next { b with ovm := { b.ovm with moveWaits := [] } } := by
  refine ⟨_, rfl, ?_⟩
  have hin : ¬ (!(s.elapse dt).ovm.waking.contains (unitCode kind n)) = true := by
    have : (s.elapse dt).ovm.waking.contains (unitCode kind n) = true := List.elem_eq_true_of_mem hwaking
    rw [this]
    decide
  have hnone : (((s.elapse dt).unitUp (unitCode kind n)).unitReady kind n).ovm.moveWaits = [] := by
    rw [State.unitReady_ovm]
    exact hwaits
  show execUnitWakeReady dt kind n s = _
  unfold execUnitWakeReady
  dsimp only
  rw [if_neg hin, ← State.retryMoves_none hnone]
  rfl

theorem tfind_map_value {V W : Type} (f : V → W) (t : Tab V) (q : Nat) :
    tfind (t.map fun e => (e.1, f e.2)) q = (tfind t q).map f := by
  induction t with
  | nil => rfl
  | cons e rest ih =>
    obtain ⟨k, v⟩ := e
    unfold tfind
    rw [List.map_cons]
    dsimp only
    split
    · rfl
    · exact ih

theorem completes_unitWakeReady {kind n : Nat} (hwaking : unitCode kind n ∈ s.ovm.waking) (hwaits : s.ovm.moveWaits = []) :
    Completes (.unitWakeReady dt kind n) s fun t =>
      unitCode kind n ∉ t.ovm.waking ∧ unitCode kind n ∉ t.ovm.gated ∧
      (∀ i x, tfind t.ovm.intents i = some x → unitCode kind n ∉ x.wake) ∧
      (kind = 2 → n < 80 → t.rd Reg.PRT_LANE_GATED n = 0 ∧ t.rd Reg.PRT_LANE_READY n = 0) ∧
      (kind = 3 → n ∉ t.prt.trbGated) ∧ (kind ≤ 1 → RegsOnly [] s t) := by
  obtain ⟨b, hb, hexec⟩ := exec_unitWakeReady (dt := dt) hwaking hwaits
  have hovm : b.ovm = ((s.elapse dt).unitUp (unitCode kind n)).ovm := by rw [hb, State.unitReady_ovm]
  have hwakingB : b.ovm.waking = s.ovm.waking.filter (fun v => v != unitCode kind n) := by rw [hovm]; rfl
  have hgatedB : b.ovm.gated = s.ovm.gated.filter (fun v => v != unitCode kind n) := by rw [hovm]; rfl
  have hintentsB : b.ovm.intents = s.ovm.intents.map (fun e => (e.1, e.2.unitUp (unitCode kind n))) := by rw [hovm]; rfl
  refine ⟨_, hexec, ?_, ?_, ?_, ?_, ?_, ?_⟩
  · show _ ∉ b.ovm.waking
    rw [hwakingB]
    simp
  · show _ ∉ b.ovm.gated
    rw [hgatedB]
    simp
  · intro i x hx
    have hfind : tfind b.ovm.intents i = some x := hx
    rw [hintentsB, tfind_map_value (fun y : IntentSt => y.unitUp (unitCode kind n))] at hfind
    obtain ⟨y, -, rfl⟩ := Option.map_eq_some_iff.mp hfind
    simp [IntentSt.unitUp]
  · rintro rfl hn
    show b.rd _ _ = 0 ∧ b.rd _ _ = 0
    rw [hb]
    exact State.unitReady_lane _ hn
  · rintro rfl
    show _ ∉ b.prt.trbGated
    have hprt : b.prt.trbGated = s.prt.trbGated.filter (fun v => v != n) := by
      rw [hb, State.unitReady_trb]
      rfl
    rw [hprt]
    simp
  · intro hkind
    have hsame : b = (s.elapse dt).unitUp (unitCode kind n) := by
      rw [hb]
      exact (if_neg (by omega)).trans (if_neg (by omega))
    refine RegsOnly.upd ?_
    rw [hsame]
    exact RegsOnly.of_elapse _ s dt

end

/-- Settles O38, event by event. -/
theorem overmanEventsTakeEffect : Obligations.OvermanEventsTakeEffect := by
  unfold Obligations.OvermanEventsTakeEffect
  intro s dt
  exact ⟨fun obs m x hauth hruns hctx hactive hmig hfar hpins hcount hfits hhewer hawake =>
      completes_ovmMovePlan hauth hruns hctx hactive hmig hfar hpins hcount hfits hhewer hawake,
    fun ctx x since hrun hctx hmig hheld => completes_ovmHoldExpired hrun hctx hmig hheld,
    fun slice stage _ hstage => completes_stageUnusable hstage, fun hewer hon hmoves => completes_ovmRestart hon hmoves,
    completes_ovmEngines_begins, completes_ovmEngines_idle,
    fun kind n hwaking hwaits => completes_unitWakeReady hwaking hwaits⟩

end Sys2Proof.Machine
end


section
/-! PROOFS. Monitored points one beside another: what the work on one point leaves of the others (R321 to R346). -/

namespace Sys2Proof.Machine

/-- The counters that the work on a point may write. -/
def pmCounts : List (Fld × Nat) :=
  [(Reg.PMN_TCA_CNT, 0), (Reg.PMN_EXPORT_DROP_CNT, 0), (Reg.PMN_SEC_LOST_CNT, 0)] ++ queueCounts

/-- Nothing changed that point `p` is judged by. -/
structure PmOther (p : Nat) (s t : State) : Prop where
  point : t.point p = s.point p
  pct : t.pm.pct = s.pm.pct
  frozen : t.pm.frozen = s.pm.frozen
  regs : RegsOnly pmCounts s t

section
variable {p q : Nat} {base s t : State}

theorem PmOther.refl (p : Nat) (s : State) : PmOther p s s := ⟨rfl, rfl, rfl, RegsOnly.refl _ s⟩

theorem PmOther.trans (h : PmOther p base s) (k : PmOther p s t) : PmOther p base t :=
  ⟨k.point.trans h.point, k.pct.trans h.pct, k.frozen.trans h.frozen, RegsOnly.trans h.regs k.regs⟩

theorem State.point_setPoint (s : State) (q p : Nat) (x : PmPoint) : (s.setPoint q x).point p = if p = q then x else s.point p :=
  tget_tset ..

theorem State.point_congr (h : t.pm = s.pm) (p : Nat) : t.point p = s.point p := by
  unfold State.point
  rw [h]

/-- Where the state of monitoring is the same, only counters may differ. -/
theorem PmOther.of_pm (h : PmOther p base s) (hpm : t.pm = s.pm) (hregs : RegsOnly pmCounts s t) : PmOther p base t :=
  h.trans ⟨State.point_congr hpm p, by rw [hpm], by rw [hpm], hregs⟩

theorem PmOther.setPm (h : PmOther p base s) {m : PmSt} (hpoints : m.points = s.pm.points) (hpct : m.pct = s.pm.pct)
    (hfrozen : m.frozen = s.pm.frozen) : PmOther p base { s with pm := m } :=
  h.trans ⟨by unfold State.point; rw [← hpoints], hpct, hfrozen, RegsOnly.upd (RegsOnly.refl _ s)⟩

theorem PmOther.setPoint (h : PmOther p base s) (hq : q ≠ p) (x : PmPoint) : PmOther p base (s.setPoint q x) :=
  h.trans ⟨by rw [State.point_setPoint, if_neg hq.symm], rfl, rfl, RegsOnly.upd (RegsOnly.refl _ s)⟩

theorem PmOther.count (h : PmOther p base s) {f : Fld} (hf : (f, 0) ∈ pmCounts) : PmOther p base (s.count f 0) :=
  h.of_pm rfl (RegsOnly.count (RegsOnly.refl _ s) hf)

theorem PmOther.raise (h : PmOther p base s) (code src : Nat) (d : List (Nat × Nat)) : PmOther p base (s.raise code src d) :=
  h.of_pm rfl (RegsOnly.refl _ s)

theorem PmOther.raiseIf (h : PmOther p base s) (b : Bool) (code src : Nat) (d : List (Nat × Nat)) :
    PmOther p base (s.raiseIf b code src d) :=
  h.of_pm (State.raiseIf_pm ..) (RegsOnly.raiseIf (RegsOnly.refl _ s) _ _ _ _)

theorem PmOther.ite {c : Prop} [Decidable c] (h : PmOther p base s) (k : PmOther p base t) : PmOther p base (if c then s else t) := by
  split <;> assumption

/-! ### Bins -/

theorem State.judgeTca_other (h : PmOther p base s) (q typ : Nat) (old new : PmBin) (thr : List Nat) :
    PmOther p base (s.judgeTca q typ old new thr).1 := by
  unfold State.judgeTca
  have hfold (f : State × PmBin → Nat → State × PmBin) (hf : ∀ a i, PmOther p base a.1 → PmOther p base (f a i).1) (l : List Nat) :
      ∀ a : State × PmBin, PmOther p base a.1 → PmOther p base (l.foldl f a).1 := by
    induction l with
    | nil => exact fun _ ha => ha
    | cons i rest ih => exact fun a ha => ih _ (hf a i ha)
  refine hfold _ (fun a i ha => ?_) _ _ h
  dsimp only
  split
  · exact (PmOther.count (f := Reg.PMN_TCA_CNT) ha (by simp [pmCounts])).raise _ _ _
  · exact ha

theorem State.commitSec_other (h : PmOther p base s) (q : Nat) (x : PmPoint) (sec : PmSec) :
    PmOther p base (s.commitSec q x sec).1 := by
  unfold State.commitSec
  extract_lets adds put a b judge r q'
  split
  · exact h
  · have hjudge (s0 : State) (typ : Nat) (was : PmBin) (wasOld : Option PmBin) (now : PmBin × Option PmBin)
        (h0 : PmOther p base s0) : PmOther p base (judge s0 typ was wasOld now).1 := by
      dsimp only [judge]
      split
      · exact State.judgeTca_other (State.judgeTca_other h0 ..) ..
      · exact State.judgeTca_other h0 ..
    exact hjudge _ _ _ _ _ (hjudge _ _ _ _ _ h)

theorem State.pushRecord_other (h : PmOther p base s) (n : Nat) (bytes : List Nat) : PmOther p base (s.pushRecord n bytes) :=
  h.of_pm (State.pushRecord_frame (pt := .pm) (by decide) (Part.same_refl _ s))
    (RegsOnly.mono (State.writeQueue_regsOnly (RegsOnly.refl _ s) _ _) (fun e he => List.mem_append_right _ he))

theorem State.exportBin_other (h : PmOther p base s) (q typ : Nat) (b : PmBin) (on : Bool) :
    PmOther p base (s.exportBin q typ b on).1 := by
  unfold State.exportBin
  extract_lets n rec fits drops src
  split
  · exact h
  · split
    · exact State.pushRecord_other h ..
    · refine PmOther.count (f := Reg.PMN_EXPORT_DROP_CNT) ?_ (by simp [pmCounts])
      exact PmOther.setPm h rfl rfl rfl

theorem State.tellDrops_other (h : PmOther p base s) (typ : Nat) : PmOther p base (s.tellDrops typ) := by
  unfold State.tellDrops
  extract_lets n k
  split
  · exact h
  · refine PmOther.raise ?_ _ _ _
    exact PmOther.setPm h rfl rfl rfl

theorem State.finalise_other (h : PmOther p base s) (q typ : Nat) (x : PmPoint) (b : PmBin) :
    PmOther p base (s.finalise q typ x b).1 := by
  unfold State.finalise
  dsimp only
  split
  · exact h
  · exact State.exportBin_other h ..

theorem PmOther.noteDone (h : PmOther p base s) (typ : Nat) (bad : Bool) : PmOther p base { s with pm := s.pm.noteDone typ bad } := by
  unfold PmSt.noteDone
  split
  · exact PmOther.setPm h rfl rfl rfl
  · exact PmOther.setPm h rfl rfl rfl

theorem State.finaliseOld_other (h : PmOther p base s) (q : Nat) (x : PmPoint) : PmOther p base (s.finaliseOld q x).1 := by
  unfold State.finaliseOld
  extract_lets r
  have hr : PmOther p base r.1 := by
    dsimp only [r]
    split
    · exact h
    · split
      · exact h
      · exact (State.finalise_other h ..).noteDone _ _
  split
  · exact hr
  · split
    · exact hr
    · exact (State.finalise_other hr ..).noteDone _ _

theorem State.commitAll_other (h : PmOther p base s) (q : Nat) (x : PmPoint) : PmOther p base (s.commitAll q x).1 := by
  unfold State.commitAll
  have hfold (l : List PmSec) : ∀ a : State × PmPoint, PmOther p base a.1 →
      PmOther p base (l.foldl (fun a sec => a.1.commitSec q a.2 sec) a).1 := by
    induction l with
    | nil => exact fun _ ha => ha
    | cons i rest ih => exact fun a ha => ih _ (State.commitSec_other ha ..)
  exact hfold _ _ h

theorem State.closeNow_other (h : PmOther p base s) (q : Nat) (x : PmPoint) (bit : Nat) : PmOther p base (s.closeNow q x bit).1 := by
  unfold State.closeNow
  exact State.tellDrops_other (State.tellDrops_other (State.finalise_other (State.finalise_other
    (State.finaliseOld_other (State.commitAll_other h _ _) _ _) _ _ _ _) _ _ _ _) _) _

/-! ### Work on another point -/

section
variable (h : PmOther p base s) (hq : q ≠ p)
include h hq

theorem State.applyPointCfg_other : PmOther p base (s.applyPointCfg q) := by
  have hstart (a : State) (ha : PmOther p base a) (x : PmPoint) (c : PmCfg) : PmOther p base (a.startPoint q x c) :=
    PmOther.setPoint ha hq _
  have hstop (a : State) (ha : PmOther p base a) : PmOther p base (a.stopPoint q) := by
    unfold State.stopPoint
    exact PmOther.ite (PmOther.setPoint (State.closeNow_other ha _ _ _) hq _) ha
  unfold State.applyPointCfg
  dsimp only
  split
  · exact h
  · have h1 := PmOther.setPoint h hq { s.point q with next := none }
    exact PmOther.ite (hstart _ h1 _ _) (PmOther.ite (PmOther.setPoint (hstop _ h1) hq _) (PmOther.setPoint h1 hq _))

theorem State.boundaryPoint_other : PmOther p base (s.boundaryPoint q) := by
  have honce (a : State) (ha : PmOther p base a) (code n src : Nat) (mk : Nat → List (Nat × Nat)) :
      PmOther p base (a.raiseOnce code n src mk) :=
    ha.of_pm (State.raiseOnce_pm ..) (regsOnly_of_regs (State.raiseOnce_regs ..) _)
  unfold State.boundaryPoint
  extract_lets x lost mark acc y s1
  split
  · exact h
  · have h1 : PmOther p base s1 := PmOther.setPoint h hq y
    exact PmOther.ite (honce _ (PmOther.count (f := Reg.PMN_SEC_LOST_CNT) h1 (by simp [pmCounts])) _ _ _ _) h1

theorem State.readSecond_other : PmOther p base (s.readSecond q) := by
  unfold State.readSecond
  extract_lets x sec window y x1
  split
  · exact h
  · split
    · exact PmOther.setPoint h hq _
    · split
      · exact PmOther.setPoint h hq _
      · clear_value window
        split
        · exact PmOther.setPoint h hq _
        · exact PmOther.setPoint (State.finaliseOld_other (State.commitSec_other ((h.raiseIf _ _ _ _).raiseIf _ _ _ _) _ _ _) _ _) hq _

theorem State.closeBin_other (typ sec : Nat) : PmOther p base (s.closeBin q typ sec) := by
  unfold State.closeBin
  extract_lets x0 edge atStart f x cur nb ob acc
  split
  · exact h
  · have hf : PmOther p base f.1 := by
      dsimp only [f]
      split
      · exact State.finalise_other h ..
      · exact h
    exact PmOther.ite (PmOther.setPoint hf hq _) (PmOther.setPoint hf hq _)

end

theorem State.reportClosed_other (h : PmOther p base s) : PmOther p base s.reportClosed := by
  have htold (a : State) (typ src : Nat) (d : List (Nat × Nat)) (ha : PmOther p base a) :
      PmOther p base ((a.tellDrops typ).raise Ev.PM_BIN_CLOSED src d) := (State.tellDrops_other ha typ).raise _ _ _
  unfold State.reportClosed
  extract_lets m a
  have ha : PmOther p base a := by
    dsimp only [a]
    split
    · split
      · exact h
      · refine htold _ _ _ _ ?_
        exact PmOther.setPm h rfl rfl rfl
    · exact h
  split
  · split
    · exact ha
    · refine htold _ _ _ _ ?_
      exact PmOther.setPm ha rfl rfl rfl
  · exact ha

/-! ### One point among all -/

/-- Work on points in turn leaves a point that is not among them. -/
theorem foldl_other {f : State → Nat → State} (hf : ∀ a q, q ≠ p → PmOther p a (f a q)) (l : List Nat) (hp : p ∉ l) :
    ∀ a, PmOther p a (l.foldl f a) := by
  induction l with
  | nil => exact fun a => PmOther.refl p a
  | cons q rest ih =>
    obtain ⟨hne, hrest⟩ : p ≠ q ∧ p ∉ rest := by simpa using hp
    exact fun a => (hf a q (Ne.symm hne)).trans (ih hrest _)

/-- In a list without repetition a member stands between others. -/
theorem split_of_nodup {l : List Nat} (hnd : l.Nodup) (hp : p ∈ l) : ∃ l1 l2, l = l1 ++ p :: l2 ∧ p ∉ l1 ∧ p ∉ l2 := by
  obtain ⟨l1, l2, rfl⟩ := List.append_of_mem hp
  obtain ⟨-, hcons, hdisj⟩ := List.nodup_append.mp hnd
  exact ⟨l1, l2, rfl, fun h1 => hdisj p h1 p (List.mem_cons_self ..) rfl, (List.nodup_cons.mp hcons).1⟩

theorem keys_above {V : Type} {n : Nat} : ∀ {t : Tab V}, above n t → ∀ k ∈ t.map (·.1), n < k
  | [], _, k, hk => absurd hk (List.not_mem_nil)
  | (j, v) :: rest, ⟨hj, hrest⟩, k, hk => by
    rcases List.mem_cons.mp hk with rfl | hk
    · exact hj
    · exact hj.trans (keys_above hrest k hk)

/-- A sorted table has no key twice. -/
theorem nodup_keys {V : Type} : ∀ {t : Tab V}, tsorted t = true → (t.map (·.1)).Nodup
  | [], _ => List.nodup_nil
  | (k, v) :: rest, h => by
    have habove : above k rest := (tsorted_cons k v rest).mp h
    refine List.nodup_cons.mpr ⟨fun hk => absurd (keys_above habove k hk) (Nat.lt_irrefl k), nodup_keys ?_⟩
    refine (tsorted_above rest).mpr ?_
    match rest, habove with
    | [], _ => exact Or.inl rfl
    | (j, w) :: r, ⟨_, hr⟩ => exact Or.inr ⟨j, w, r, rfl, hr⟩

theorem mem_keys_of_tfind {V : Type} {v : V} : ∀ {t : Tab V} {k : Nat}, tfind t k = some v → k ∈ t.map (·.1)
  | (j, w) :: rest, k, h => by
    unfold tfind at h
    split at h
    next hk => rw [hk]; exact List.mem_cons_self ..
    next => exact List.mem_cons_of_mem _ (mem_keys_of_tfind h)

/-- A point that is monitored stands in the table. -/
theorem State.mem_points_of_on (h : (s.point p).cfg.on = true) : p ∈ s.pm.points.map (·.1) := by
  cases hfind : tfind s.pm.points p with
  | none =>
    have hpoint : s.point p = {} := by
      unfold State.point tget
      rw [hfind]
      rfl
    rw [hpoint] at h
    exact absurd h (by decide)
  | some x => exact mem_keys_of_tfind hfind

/-! ### What a point is judged by -/

theorem State.pointBlocks_congr (hovm : t.ovm = s.ovm) (hfrm : t.frm = s.frm)
    (hmode : ∀ l, t.rd Reg.PRT_LANE_MODE l = s.rd Reg.PRT_LANE_MODE l) (p : Nat) : t.pointBlocks p = s.pointBlocks p := by
  unfold State.pointBlocks State.ctx?
  rw [hovm, hfrm]
  simp only [hmode]

theorem State.pointP_congr (hovm : t.ovm = s.ovm) (p : Nat) : t.pointP p = s.pointP p := by
  unfold State.pointP State.ctx?
  rw [hovm]

theorem State.pointHewer_congr (hovm : t.ovm = s.ovm) (p : Nat) : t.pointHewer p = s.pointHewer p := by
  unfold State.pointHewer State.ctx?
  rw [hovm]

theorem laneMode_key_of_pmCounts (l : Nat) : ∀ e ∈ pmCounts, e.1.key e.2 ≠ Reg.PRT_LANE_MODE.key l := by
  intro e he
  simp only [pmCounts, queueCounts, List.cons_append, List.nil_append, List.mem_cons, List.not_mem_nil, or_false] at he
  unfold Fld.key
  rcases he with rfl | rfl | rfl | rfl | rfl | rfl | rfl <;>
    simp only [Reg.PRT_LANE_MODE, Reg.PMN_TCA_CNT, Reg.PMN_EXPORT_DROP_CNT, Reg.PMN_SEC_LOST_CNT, Reg.QMG_DROP_CNT,
      Reg.QMG_ABORT_CNT, Reg.QMG_MARK_LOST_CNT, Reg.TST_PERTURB_CNT] <;> omega

theorem State.sesThr_congr (h : PmOther p s t) (hovm : t.ovm = s.ovm) (hfrm : t.frm = s.frm) : t.sesThr p = s.sesThr p := by
  unfold State.sesThr
  rw [h.point, h.pct, State.pointP_congr hovm,
    State.pointBlocks_congr hovm hfrm (fun l => h.regs _ _ (laneMode_key_of_pmCounts l))]

end

end Sys2Proof.Machine
end


section
/-! PROOFS. Seconds and bins of performance monitoring, and its host commands (R321 to R346). -/

namespace Sys2Proof.Machine

section
variable {s : State} {dt hewer p : Nat}

/-! ### Points that the work on a second leaves -/

/-- What the commit of a second and the finalisation of bins leave of a point. -/
def PmPoint.Avail (x y : PmPoint) : Prop := y.pend = x.pend ∧ y.neUnav = x.neUnav ∧ y.feUnav = x.feUnav

theorem PmPoint.Avail.refl (x : PmPoint) : PmPoint.Avail x x := ⟨rfl, rfl, rfl⟩

theorem PmPoint.Avail.trans {x y z : PmPoint} (h : PmPoint.Avail x y) (k : PmPoint.Avail y z) : PmPoint.Avail x z :=
  ⟨k.1.trans h.1, k.2.1.trans h.2.1, k.2.2.trans h.2.2⟩

theorem State.commitSec_avail (s : State) (p : Nat) (x : PmPoint) (sec : PmSec) : PmPoint.Avail x (s.commitSec p x sec).2 := by
  unfold State.commitSec
  dsimp only
  split
  · exact PmPoint.Avail.refl x
  · exact ⟨rfl, rfl, rfl⟩

/-- Finalisation files a bin in the history, and leaves the rest of its point. -/
theorem State.finalise_point (s : State) (p typ : Nat) (x : PmPoint) (b : PmBin) :
    PmPoint.Avail x (s.finalise p typ x b).2 ∧ (s.finalise p typ x b).2.cur15 = x.cur15 ∧
      (s.finalise p typ x b).2.old15 = x.old15 := by
  unfold State.finalise
  dsimp only
  split
  · exact ⟨PmPoint.Avail.refl x, rfl, rfl⟩
  · split
    · exact ⟨⟨rfl, rfl, rfl⟩, rfl, rfl⟩
    · exact ⟨⟨rfl, rfl, rfl⟩, rfl, rfl⟩

theorem State.finaliseOld_avail (s : State) (p : Nat) (x : PmPoint) : PmPoint.Avail x (s.finaliseOld p x).2 := by
  have hfin (a : State) (typ : Nat) (y z : PmPoint) (b : PmBin) (h : PmPoint.Avail x y) (hz : PmPoint.Avail y z) :
      PmPoint.Avail x (a.finalise p typ z b).2 := (h.trans hz).trans (State.finalise_point a p typ z b).1
  unfold State.finaliseOld
  extract_lets r
  have hr : PmPoint.Avail x r.2 := by
    dsimp only [r]
    split
    · exact PmPoint.Avail.refl x
    · split
      · exact PmPoint.Avail.refl x
      · exact hfin _ _ _ _ _ (PmPoint.Avail.refl x) ⟨rfl, rfl, rfl⟩
  split
  · exact hr
  · split
    · exact hr
    · exact hfin _ _ _ _ _ hr ⟨rfl, rfl, rfl⟩

/-! ### The end of a second -/

/-- A point at the boundary: its second is stored and a new one begins. -/
theorem State.boundaryPoint_spec (s : State) (hon : (s.point p).cfg.on = true) :
    ((s.boundaryPoint p).point p).unread = true ∧ ((s.boundaryPoint p).point p).last.neEb = (s.point p).acc.neEb ∧
    ((s.boundaryPoint p).point p).last.feEb = (s.point p).acc.feEb ∧ ((s.boundaryPoint p).point p).acc.neEb = 0 ∧
    ((s.boundaryPoint p).point p).acc.feEb = 0 ∧ ((s.boundaryPoint p).point p).acc.neDc = 0 ∧
    ((s.boundaryPoint p).point p).acc.feDc = 0 ∧ ((s.boundaryPoint p).point p).next = (s.point p).next := by
  have hon' : ((s.point p).upTo s.addr).cfg.on = true := hon
  unfold State.boundaryPoint
  extract_lets x lost mark acc y s1
  have hpoint : State.point (if lost = true then
      (s1.count Reg.PMN_SEC_LOST_CNT 0).raiseOnce Ev.PM_SECOND_LOST p (srcPoint p) fun k => [(2, p), (4, k)] else s1) p = y := by
    have hs1 : s1.point p = y := by rw [State.point_setPoint, if_pos rfl]
    split
    · rw [State.point_congr (State.raiseOnce_pm ..)]
      exact hs1
    · exact hs1
  rw [if_neg (by rw [hon']; decide), hpoint]
  exact ⟨rfl, rfl, rfl, rfl, rfl, rfl, rfl, rfl⟩

theorem State.applyPointCfg_none (h : (s.point p).next = none) : s.applyPointCfg p = s := by
  unfold State.applyPointCfg
  dsimp only
  rw [h]

/-- Settings that wait leave a point that has none waiting. -/
theorem foldl_applyPointCfg (hnext : (s.point p).next = none) (l : List Nat) :
    ((l.foldl (fun a q => a.applyPointCfg q) s).point p) = s.point p := by
  induction l generalizing s with
  | nil => rfl
  | cons q rest ih =>
    by_cases hq : q = p
    · rw [List.foldl_cons, hq, State.applyPointCfg_none hnext]
      exact ih hnext
    · have hpoint := (State.applyPointCfg_other (PmOther.refl p s) hq).point
      rw [List.foldl_cons, ih (by rw [hpoint]; exact hnext), hpoint]

/-- The state in which a PM second has begun, before its numbers are noted. -/
def State.secondBegun (s : State) : State :=
  (s.pm.points.map (·.1)).foldl (fun a p => a.applyPointCfg p) ((s.pm.points.map (·.1)).foldl (fun a p => a.boundaryPoint p) s)

theorem State.secondBegun_part (s : State) {pt : Part} (hp : pt ∉ [Part.regs, Part.io, Part.qmg, Part.pm]) :
    pt.same s s.secondBegun :=
  Part.foldl (fun _ _ _ h => State.applyPointCfg_frame hp h) _
    (Part.foldl (fun _ _ _ h => State.boundaryPoint_frame (Part.sub hp (by decide)) h) _ (Part.same_refl _ s))

theorem completes_pmSecondBoundary (hsorted : tsorted s.pm.points = true) (hrunning : s.pm.running = true)
    (hfrozen : s.pm.frozen = false) (hon : (s.point p).cfg.on = true) (hrun : s.halted = false)
    (htod : s.pm.nextTod * todSecond ≤ (s.toBoundary dt Config.cyclePos).todNow) (hnext : (s.point p).next = none) :
    Completes (.pmSecondBoundary dt) s fun t =>
      t.addr = ceilTo Config.cyclePos (s.addr + dt) ∧ t.pm.began = some t.addr ∧ t.pm.nextTod = t.todSec + 1 ∧
      (t.point p).unread = true ∧ (t.point p).last.neEb = (s.point p).acc.neEb ∧
      (t.point p).last.feEb = (s.point p).acc.feEb ∧ (t.point p).acc.neEb = 0 ∧ (t.point p).acc.feEb = 0 ∧
      (t.point p).acc.neDc = 0 ∧ (t.point p).acc.feDc = 0 := by
  obtain ⟨b, hb⟩ : ∃ b, b = s.toBoundary dt Config.cyclePos := ⟨_, rfl⟩
  have hpm : b.pm = s.pm := by rw [hb, State.toBoundary_pm]
  have haddr : b.addr = ceilTo Config.cyclePos (s.addr + dt) := by rw [hb, State.toBoundary_addr s dt _ hrun (by decide)]
  have hpoint : b.point p = s.point p := State.point_congr hpm p
  have hexec : exec (.pmSecondBoundary dt) s = .next { b.secondBegun with pm := { b.secondBegun.pm with
      nextTod := b.secondBegun.todSec + 1, began := some b.secondBegun.addr } } := by
    have hhalted : b.halted = false := by rw [hb, State.toBoundary_halted, hrun]
    have hgo : (b.halted || !b.pm.running || b.pm.frozen || decide (b.todNow < b.pm.nextTod * todSecond)) = false := by
      rw [hhalted, hpm, hrunning, hfrozen, hb, decide_eq_false (Nat.not_lt.mpr htod)]
      rfl
    show execPmSecondBoundary dt s = _
    unfold execPmSecondBoundary
    dsimp only
    rw [← hb, if_neg (by rw [hgo]; decide)]
    rfl
  have hlast : ∃ c : State, c.point p = b.secondBegun.point p ∧ (c.point p).unread = true ∧
      (c.point p).last.neEb = (s.point p).acc.neEb ∧ (c.point p).last.feEb = (s.point p).acc.feEb ∧ (c.point p).acc.neEb = 0 ∧
      (c.point p).acc.feEb = 0 ∧ (c.point p).acc.neDc = 0 ∧ (c.point p).acc.feDc = 0 := by
    obtain ⟨l1, l2, hkeys, hl1, hl2⟩ := split_of_nodup (nodup_keys (by rw [hpm]; exact hsorted))
      (State.mem_points_of_on (s := b) (p := p) (by rw [hpoint]; exact hon))
    have hother (a : State) (q : Nat) (hq : q ≠ p) : PmOther p a (a.boundaryPoint q) :=
      State.boundaryPoint_other (PmOther.refl p a) hq
    obtain ⟨c, hc⟩ : ∃ c, c = l1.foldl (fun a q => a.boundaryPoint q) b := ⟨_, rfl⟩
    have hcpoint : c.point p = s.point p := by rw [hc, (foldl_other hother l1 hl1 b).point, hpoint]
    obtain ⟨hunread, hne, hfe, hnez, hfez, hned, hfed, hnextc⟩ := State.boundaryPoint_spec c (by rw [hcpoint]; exact hon)
    have hafter : (l2.foldl (fun a q => a.boundaryPoint q) (c.boundaryPoint p)).point p = (c.boundaryPoint p).point p :=
      (foldl_other hother l2 hl2 _).point
    refine ⟨c.boundaryPoint p, ?_, hunread, by rw [hne, hcpoint], by rw [hfe, hcpoint], hnez, hfez, hned, hfed⟩
    unfold State.secondBegun
    rw [hkeys, List.foldl_append (f := fun a q => State.boundaryPoint a q), List.foldl_cons, ← hc]
    rw [foldl_applyPointCfg (by rw [hafter, hnextc, hcpoint]; exact hnext), hafter]
  obtain ⟨c, hc, hunread, hne, hfe, hnez, hfez, hned, hfed⟩ := hlast
  have hclock : b.secondBegun.addr = b.addr := (State.secondBegun_part b (pt := .clock) (by decide)).2
  rw [hc] at hunread hne hfe hnez hfez hned hfed
  exact ⟨_, hexec, hclock.trans haddr, rfl, rfl, hunread, hne, hfe, hnez, hfez, hned, hfed⟩

/-! ### The reading of a second -/

/-- A hewer's points in turn: what the reading of the others leaves of point `p` when its own turn comes, and after it. -/
theorem exec_pmSecondRead (hsorted : tsorted s.pm.points = true) (hrunning : s.pm.running = true)
    (hon : (s.point p).cfg.on = true) (hhewer : s.pointHewer p = hewer)
    (hentry : (s.elapse dt).dispatched 6 (fun e => e.target == hewer) = true) :
    ∃ b t, exec (.pmSecondRead dt hewer) s = .next t ∧ PmOther p s b ∧ b.sesThr p = s.sesThr p ∧
      t.point p = (b.readSecond p).point p := by
  obtain ⟨a, ha⟩ : ∃ a, a = s.elapse dt := ⟨_, rfl⟩
  have hsa : PmOther p s a := by rw [ha]; exact ⟨rfl, rfl, rfl, RegsOnly.of_elapse _ s dt⟩
  obtain ⟨keys, hkeys⟩ : ∃ keys, keys = (a.pm.points.map (·.1)).filter (fun q => a.pointHewer q == hewer) := ⟨_, rfl⟩
  have hexec : exec (.pmSecondRead dt hewer) s = .next (keys.foldl (fun a q => a.readSecond q) a).reportClosed := by
    have hgo : (!a.pm.running || !a.dispatched 6 (fun e => e.target == hewer)) = false := by
      rw [ha, hentry]
      show (!s.pm.running || _) = _
      rw [hrunning]
      rfl
    show execPmSecondRead dt hewer s = _
    unfold execPmSecondRead
    dsimp only
    rw [← ha, if_neg (by rw [hgo]; decide), hkeys]
  have hmem : p ∈ keys := by
    rw [hkeys, List.mem_filter]
    refine ⟨State.mem_points_of_on (by rw [hsa.point]; exact hon), ?_⟩
    rw [State.pointHewer_congr (s := s) (by rw [ha]; rfl), hhewer]
    exact beq_self_eq_true hewer
  have hnd : keys.Nodup := by
    rw [hkeys]
    exact (nodup_keys (t := a.pm.points) (by rw [ha]; exact hsorted)).filter _
  obtain ⟨l1, l2, hsplit, hl1, hl2⟩ := split_of_nodup hnd hmem
  have hother (a : State) (q : Nat) (hq : q ≠ p) : PmOther p a (a.readSecond q) := State.readSecond_other (PmOther.refl p a) hq
  obtain ⟨b, hb⟩ : ∃ b, b = l1.foldl (fun a q => a.readSecond q) a := ⟨_, rfl⟩
  have hab : PmOther p a b := by rw [hb]; exact foldl_other hother l1 hl1 a
  have hpart {pt : Part} (hp : pt ∉ [Part.regs, Part.io, Part.qmg, Part.pm]) : pt.same a b := by
    rw [hb]
    exact Part.foldl (fun _ _ _ h => State.readSecond_frame hp h) _ (Part.same_refl _ a)
  have hovm : b.ovm = s.ovm := (hpart (pt := .ovm) (by decide)).trans (by rw [ha]; rfl)
  have hfrm : b.frm = s.frm := (hpart (pt := .frm) (by decide)).trans (by rw [ha]; rfl)
  refine ⟨b, _, hexec, hsa.trans hab, State.sesThr_congr (hsa.trans hab) hovm hfrm, ?_⟩
  rw [(State.reportClosed_other (PmOther.refl p _)).point, hsplit, List.foldl_append, List.foldl_cons, ← hb,
    (foldl_other hother l2 hl2 _).point]

theorem pmnEn_key_of_pmCounts : ∀ e ∈ pmCounts, e.1.key e.2 ≠ Reg.PMN_EN.key 0 := by decide

section
variable (hon : (s.point p).cfg.on = true) (hunread : (s.point p).unread = true) (hen : s.rdBit Reg.PMN_EN 0 = true)
  (hfrozen : s.pm.frozen = false)
include hon hunread hen hfrozen

/-- The point once a second is classified, before one is committed. -/
def PmPoint.classed (x : PmPoint) (sec : PmSec) : PmPoint :=
  { x.noteClassified sec with
    unread := false, cls := sec.bits, pend := x.pend ++ [sec],
    neHist := (x.neHist * 2 + ofBool sec.neSes) % 1024, feHist := (x.feHist * 2 + ofBool sec.feSes) % 1024 }

theorem State.readSecond_early (hpend : (s.point p).pend.length < 9) :
    (s.readSecond p).point p = (s.point p).classed (classify (s.point p).last (s.sesThr p)) := by
  have hread : s.readSecond p = s.setPoint p ((s.point p).classed (classify (s.point p).last (s.sesThr p))) := by
    unfold State.readSecond
    dsimp only
    rw [if_neg (by rw [hon, hunread]; decide), if_neg (by rw [hen, hfrozen]; decide),
      if_pos (by rw [List.length_append, List.length_singleton]; omega)]
    rfl
  rw [hread, State.point_setPoint, if_pos rfl]

theorem State.readSecond_commits {first : PmSec} {rest : List PmSec} (hpend : (s.point p).pend = first :: rest)
    (hlen : rest.length = 8) :
    ((s.readSecond p).point p).pend = rest ++ [classify (s.point p).last (s.sesThr p)] ∧
    ((s.readSecond p).point p).neUnav = unavailable (s.point p).neUnav
      (((s.point p).pend ++ [classify (s.point p).last (s.sesThr p)]).map (·.neSes)) ∧
    ((s.readSecond p).point p).feUnav = unavailable (s.point p).feUnav
      (((s.point p).pend ++ [classify (s.point p).last (s.sesThr p)]).map (·.feSes)) := by
  generalize hsec : classify (s.point p).last (s.sesThr p) = sec
  generalize hx : s.point p = x at *
  obtain ⟨y, hread, havail⟩ : ∃ y : PmPoint, (s.readSecond p).point p = y ∧
      PmPoint.Avail { x.classed sec with
        pend := rest ++ [sec], neUnav := unavailable x.neUnav ((x.pend ++ [sec]).map (·.neSes)),
        feUnav := unavailable x.feUnav ((x.pend ++ [sec]).map (·.feSes)) } y := by
    have hwindow : x.pend ++ [sec] = first :: (rest ++ [sec]) := by rw [hpend]; rfl
    refine ⟨_, rfl, ?_⟩
    unfold State.readSecond
    dsimp only
    rw [hx, hsec, if_neg (by rw [hon, hunread]; decide), if_neg (by rw [hen, hfrozen]; decide),
      if_neg (by rw [List.length_append, List.length_singleton, hpend, List.length_cons]; omega), hwindow]
    dsimp only
    rw [State.point_setPoint, if_pos rfl]
    refine PmPoint.Avail.trans ?_ (State.finaliseOld_avail ..)
    refine PmPoint.Avail.trans ?_ (State.commitSec_avail ..)
    exact ⟨rfl, rfl, rfl⟩
  obtain ⟨hp, hne, hfe⟩ := havail
  rw [hread]
  exact ⟨hp, hne, hfe⟩

end

end

end Sys2Proof.Machine
end


section
/-! PROOFS. The closing of bins (R331 to R334), and the host commands of performance monitoring (R321, R335 to R346). -/

namespace Sys2Proof.Machine

section
variable {s : State} {dt hewer p sec : Nat}

/-! ### Bins that close -/

theorem State.closeBin_quarter (s : State) (sec : Nat) (hon : (s.point p).cfg.on = true) (hsome : 0 < (s.point p).cur15.classified) :
    ((s.closeBin p 0 sec).point p).cur15 = { serial := (s.point p).cur15.serial + 1, start := sec } ∧
    ((s.closeBin p 0 sec).point p).old15 = some { (s.point p).cur15 with ended := cycleStart s.addr } := by
  unfold State.closeBin
  extract_lets x0 edge atStart f x cur nb ob acc
  have hx : x.cur15 = x0.cur15 := by
    dsimp only [x, f]
    split
    · exact (State.finalise_point ..).2.1
    · rfl
  have hcur : cur = x0.cur15 := hx
  have hopen : ¬ (decide (cur.start = sec) && decide (cur.classified = 0)) = true := by
    rw [hcur]
    have : x0.cur15.classified ≠ 0 := by
      show (s.point p).cur15.classified ≠ 0
      omega
    simp [this]
  rw [if_neg (by rw [hon]; decide), if_neg (by simpa using hopen), State.point_setPoint, if_pos rfl, if_pos rfl]
  refine ⟨?_, ?_⟩
  · show ({ serial := cur.serial + 1, start := sec } : PmBin) = _
    rw [hcur]
  · show some ({ cur with ended := edge } : PmBin) = _
    rw [hcur]

/-- The closing of the 24-hour bin leaves the 15-minute bins of every point. -/
theorem State.closeBin_day (s : State) (q sec p : Nat) :
    ((s.closeBin q 1 sec).point p).cur15 = (s.point p).cur15 ∧ ((s.closeBin q 1 sec).point p).old15 = (s.point p).old15 := by
  by_cases hq : q = p
  · subst hq
    unfold State.closeBin
    extract_lets x0 edge atStart f x cur nb ob acc
    have hx : x.cur15 = x0.cur15 ∧ x.old15 = x0.old15 := by
      dsimp only [x, f]
      split
      · obtain ⟨-, hcur, hold⟩ := State.finalise_point s q 1 { x0 with old24 := none } ‹PmBin›
        exact ⟨hcur, hold⟩
      · exact ⟨rfl, rfl⟩
    split
    · exact ⟨rfl, rfl⟩
    · split
      · rw [State.point_setPoint, if_pos rfl]
        exact hx
      · rw [State.point_setPoint, if_pos rfl, if_neg (by decide)]
        exact hx
  · rw [(State.closeBin_other (PmOther.refl p s) hq 1 sec).point]
    exact ⟨rfl, rfl⟩

theorem foldl_closeBin_day (l : List Nat) (sec p : Nat) : ∀ s : State,
    ((l.foldl (fun b q => b.closeBin q 1 sec) s).point p).cur15 = (s.point p).cur15 ∧
    ((l.foldl (fun b q => b.closeBin q 1 sec) s).point p).old15 = (s.point p).old15 := by
  induction l with
  | nil => exact fun s => ⟨rfl, rfl⟩
  | cons q rest ih =>
    intro s
    obtain ⟨hcur, hold⟩ := ih (s.closeBin q 1 sec)
    obtain ⟨hcur', hold'⟩ := State.closeBin_day s q sec p
    exact ⟨hcur.trans hcur', hold.trans hold'⟩

theorem foldl_closeBin_part (l : List Nat) (typ sec : Nat) (s : State) {pt : Part}
    (hp : pt ∉ [Part.regs, Part.io, Part.qmg, Part.pm]) : pt.same s (l.foldl (fun b q => b.closeBin q typ sec) s) :=
  Part.foldl (fun _ _ _ h => State.closeBin_frame hp h) l (Part.same_refl _ s)

/-- The 15-minute bins of a hewer's points have closed at a boundary. -/
def State.quartersClosed (s : State) (keys : List Nat) (sec : Nat) : State :=
  keys.foldl (fun b q => b.closeBin q 0 sec) { s with pm := { s.pm with done15 := match s.pm.done15 with
    | some d => if d.1 = cycleStart s.addr then some d else some (cycleStart s.addr, 0, 0)
    | none => some (cycleStart s.addr, 0, 0) } }

/-- The 24-hour bins of a hewer's points close where the day ends. -/
def State.daysClosed (s : State) (keys : List Nat) (sec edge : Nat) (ends : Bool) : State :=
  if ends = true then
    keys.foldl (fun b q => b.closeBin q 1 sec) { s with pm := { s.pm with done24 := match s.pm.done24 with
      | some d => if d.1 = edge then some d else some (edge, 0, 0)
      | none => some (edge, 0, 0) } }
  else s

theorem State.daysClosed_spec (s : State) (keys : List Nat) (sec edge : Nat) (ends : Bool) (p : Nat) :
    ((s.daysClosed keys sec edge ends).point p).cur15 = (s.point p).cur15 ∧
    ((s.daysClosed keys sec edge ends).point p).old15 = (s.point p).old15 ∧ (s.daysClosed keys sec edge ends).addr = s.addr := by
  unfold State.daysClosed
  split
  · obtain ⟨hcur, hold⟩ := foldl_closeBin_day keys sec p { s with pm := { s.pm with done24 := match s.pm.done24 with
      | some d => if d.1 = edge then some d else some (edge, 0, 0)
      | none => some (edge, 0, 0) } }
    exact ⟨hcur, hold, (foldl_closeBin_part keys 1 sec _ (pt := .clock) (by decide)).2⟩
  · exact ⟨rfl, rfl, rfl⟩

theorem completes_pmBinClosure (hsorted : tsorted s.pm.points = true) (hrunning : s.pm.running = true)
    (hfrozen : s.pm.frozen = false) (hon : (s.point p).cfg.on = true) (hrun : s.halted = false) (hauth : s.hasAuthority = true)
    (hhewer : s.pointHewer p = hewer) (hentry : (s.elapse dt).dispatched 6 (fun e => e.target == hewer) = true)
    (hquarter : (s.elapse dt).edgeSec % 900 = 0) (hsome : 0 < (s.point p).cur15.classified) :
    Completes (.pmBinClosure dt hewer) s fun t =>
      (t.point p).cur15.serial = (s.point p).cur15.serial + 1 ∧ (t.point p).cur15.start = (s.elapse dt).edgeSec ∧
      (t.point p).cur15.counts = ({} : PmBin).counts ∧ (t.point p).cur15.seconds = 0 ∧
      (t.point p).old15 = some { (s.point p).cur15 with ended := cycleStart t.addr } := by
  obtain ⟨a, ha⟩ : ∃ a, a = s.elapse dt := ⟨_, rfl⟩
  have hpm : a.pm = s.pm := by rw [ha]; rfl
  have hpoint : a.point p = s.point p := State.point_congr hpm p
  rw [← ha] at hentry hquarter ⊢
  obtain ⟨keys, hkeys⟩ : ∃ keys, keys = (a.pm.points.map (·.1)).filter (fun q => a.pointHewer q == hewer) := ⟨_, rfl⟩
  have hexec : exec (.pmBinClosure dt hewer) s = .next ((a.quartersClosed keys a.edgeSec).daysClosed keys a.edgeSec (cycleStart a.addr)
      (decide ((a.edgeSec + 86400 - a.dayStart) % 86400 = 0))) := by
    have hat : s.atEntry dt Config.cyclePos 6 = a := by
      have hany : a.dispatched 6 (fun _ => true) = true := by
        unfold State.dispatched at hentry ⊢
        obtain ⟨hfired, hsomeEntry⟩ := Bool.and_eq_true_iff.mp hentry
        refine Bool.and_eq_true_iff.mpr ⟨hfired, List.any_eq_true.mpr ?_⟩
        obtain ⟨e, he, hcls⟩ := List.any_eq_true.mp hsomeEntry
        exact ⟨e, he, by rw [(Bool.and_eq_true_iff.mp hcls).1]; rfl⟩
      unfold State.atEntry
      dsimp only
      rw [← ha, if_pos hany]
    have hgo : (a.halted || !a.pm.running || a.pm.frozen || !a.hasAuthority || !a.dispatched 6 (fun e => e.target == hewer)) = false := by
      rw [hentry, hpm, hrunning, hfrozen, ha]
      show (s.halted || _ || _ || !s.hasAuthority || _) = _
      rw [hrun, hauth]
      rfl
    show execPmBinClosure dt hewer s = _
    unfold execPmBinClosure
    dsimp only
    rw [hat, if_neg (by rw [hgo]; decide), if_pos hquarter, ← hkeys]
    unfold State.daysClosed
    simp only [decide_eq_true_eq]
    rfl
  have hmem : p ∈ keys := by
    rw [hkeys, List.mem_filter]
    refine ⟨State.mem_points_of_on (by rw [hpoint]; exact hon), ?_⟩
    rw [State.pointHewer_congr (s := s) (by rw [ha]; rfl), hhewer]
    exact beq_self_eq_true hewer
  have hnd : keys.Nodup := by
    rw [hkeys, hpm]
    exact (nodup_keys hsorted).filter _
  obtain ⟨l1, l2, hsplit, hl1, hl2⟩ := split_of_nodup hnd hmem
  have hother (b : State) (q : Nat) (hq : q ≠ p) : PmOther p b (b.closeBin q 0 a.edgeSec) :=
    State.closeBin_other (PmOther.refl p b) hq 0 _
  obtain ⟨b, hb⟩ : ∃ b, b = a.quartersClosed l1 a.edgeSec := ⟨_, rfl⟩
  have hbpoint : b.point p = s.point p := by
    rw [hb, ← hpoint]
    exact (foldl_other hother l1 hl1 _).point
  have hbaddr : b.addr = a.addr := by
    rw [hb]
    exact (foldl_closeBin_part l1 0 _ _ (pt := .clock) (by decide)).2
  obtain ⟨hcur, hold⟩ := State.closeBin_quarter b a.edgeSec (by rw [hbpoint]; exact hon) (by rw [hbpoint]; exact hsome)
  obtain ⟨c, hc⟩ : ∃ c, c = a.quartersClosed keys a.edgeSec := ⟨_, rfl⟩
  have hcfold : c = l2.foldl (fun b q => b.closeBin q 0 a.edgeSec) (b.closeBin p 0 a.edgeSec) := by
    rw [hc, hb]
    unfold State.quartersClosed
    rw [hsplit, List.foldl_append, List.foldl_cons]
  have hcpoint : c.point p = (b.closeBin p 0 a.edgeSec).point p := by rw [hcfold, (foldl_other hother l2 hl2 _).point]
  have hcaddr : c.addr = a.addr := by
    rw [hc]
    exact (foldl_closeBin_part keys 0 _ _ (pt := .clock) (by decide)).2
  rw [← hc] at hexec
  obtain ⟨hdcur, hdold, hdaddr⟩ := State.daysClosed_spec c keys a.edgeSec (cycleStart a.addr)
    (decide ((a.edgeSec + 86400 - a.dayStart) % 86400 = 0)) p
  rw [hcpoint, hcur, hbpoint] at hdcur
  rw [hcpoint, hold, hbpoint, hbaddr] at hdold
  refine ⟨_, hexec, ?_⟩
  beta_reduce
  rw [hdcur, hdold, hdaddr, hcaddr]
  exact ⟨rfl, rfl, rfl, rfl, rfl⟩

end

/-- Settles O39, event by event. -/
theorem monitoringEventsTakeEffect : Obligations.MonitoringEventsTakeEffect := by
  unfold Obligations.MonitoringEventsTakeEffect
  intro s dt hewer p hsorted hrunning hfrozen hon
  refine ⟨completes_pmSecondBoundary hsorted hrunning hfrozen hon, fun hhewer hentry hunread hen hpend => ?_,
    fun first rest hhewer hentry hunread hen hpend hlen => ?_, completes_pmBinClosure hsorted hrunning hfrozen hon⟩
  · obtain ⟨b, t, hexec, hkept, hthr, hpoint⟩ := exec_pmSecondRead hsorted hrunning hon hhewer hentry
    have hread := State.readSecond_early (s := b) (p := p) (by rw [hkept.point]; exact hon) (by rw [hkept.point]; exact hunread)
      (by unfold State.rdBit; rw [hkept.regs _ _ pmnEn_key_of_pmCounts]; exact hen) (hkept.frozen.trans hfrozen)
      (by rw [hkept.point]; exact hpend)
    rw [hkept.point, hthr] at hread
    rw [hread] at hpoint
    refine ⟨t, hexec, ?_⟩
    beta_reduce
    rw [hpoint]
    exact ⟨rfl, rfl, rfl, rfl, rfl⟩
  · obtain ⟨b, t, hexec, hkept, hthr, hpoint⟩ := exec_pmSecondRead hsorted hrunning hon hhewer hentry
    have hread := State.readSecond_commits (s := b) (p := p) (by rw [hkept.point]; exact hon) (by rw [hkept.point]; exact hunread)
      (by unfold State.rdBit; rw [hkept.regs _ _ pmnEn_key_of_pmCounts]; exact hen) (hkept.frozen.trans hfrozen)
      (by rw [hkept.point]; exact hpend) hlen
    rw [hkept.point, hthr] at hread
    refine ⟨t, hexec, ?_⟩
    beta_reduce
    rw [hpoint]
    exact hread

/-! ### Host commands -/

section
variable {s : State} {dt point host : Nat} {h : HostRef}

theorem completes_pmnPointCfg {p : PointCfg} (hadm : Admitted s dt h 0 Op.PMN_POINT_CFG) (hauth : s.hasAuthority = true)
    (hprof : p.prof ≤ 63) (hok : s.pointOk p.point = true) :
    Completes (.pmnPointCfg dt h p) s fun t =>
      t.point p.point = { s.point p.point with next := some { on := p.on, bidir := p.bidir, exp := p.exp, prof := p.prof } } ∧
      Answered t h Op.PMN_POINT_CFG 0 0 [] ∧ RegsOnly [] s t := by
  have hauth' : (s.elapse dt).hasAuthority = true := hauth
  have hok' : (s.elapse dt).pointOk p.point = true := hok
  refine completes_of_admitted rfl hadm ?_
  rw [hauth', hok', Bool.not_true, if_neg Bool.false_ne_true, if_neg (by omega), if_neg Bool.false_ne_true]
  refine ⟨?_, State.done_answered .., RegsOnly.done (RegsOnly.upd (RegsOnly.of_elapse _ s dt)) _ _⟩
  exact (State.point_setPoint (s.elapse dt) _ _ _).trans (if_pos rfl)

theorem completes_pmnProfileSet {p : ProfileSet} (hadm : Admitted s dt h 0 Op.PMN_PROFILE_SET) (hauth : s.hasAuthority = true)
    (hprof : p.prof ≤ 63) (htyp : p.typ ≤ 1) (hne : p.neP ≤ 100) (hfe : p.feP ≤ 100) (hthr : p.thr.length = 10) :
    Completes (.pmnProfileSet dt h p) s fun t =>
      (tget {} t.pm.thr (2 * p.prof + p.typ)).thr = p.thr ∧ tget (0, 0) t.pm.pct p.prof = (p.neP, p.feP) ∧
      Answered t h Op.PMN_PROFILE_SET 0 0 [] ∧ RegsOnly [] s t := by
  have hauth' : (s.elapse dt).hasAuthority = true := hauth
  have hrange : (decide (63 < p.prof) || decide (1 < p.typ) || decide (100 < p.neP) || decide (100 < p.feP)) = false := by
    simp
    omega
  refine completes_of_admitted rfl hadm ?_
  rw [hauth', Bool.not_true, if_neg Bool.false_ne_true, if_neg (by rw [hrange]; decide)]
  refine ⟨?_, ?_, State.done_answered .., RegsOnly.done (RegsOnly.upd (RegsOnly.of_elapse _ s dt)) _ _⟩
  · have hset : tget {} (tset (s.elapse dt).pm.thr (2 * p.prof + p.typ) { thr := (p.thr ++ List.replicate 10 0).take 10 })
        (2 * p.prof + p.typ) = ({ thr := (p.thr ++ List.replicate 10 0).take 10 } : PmProfile) := by
      rw [tget_tset, if_pos rfl]
    refine (congrArg PmProfile.thr hset).trans ?_
    exact List.take_left' hthr
  · exact (tget_tset ..).trans (if_pos rfl)

theorem State.histError_none (hbad : s.pm.badHist = []) (q typ i : Nat) : s.histError q typ i = s := by
  unfold State.histError
  dsimp only
  rw [hbad]
  exact if_neg (by simp)

theorem completes_pmnHistRead {p : HistRead} (hadm : Admitted s dt h 0 Op.PMN_HIST_READ) (hcount : p.count = 1) (htyp : p.typ ≤ 1)
    (hnum : p.num = 1) (hfirst : p.first ≤ (if p.typ = 0 then 32 else 7)) (hok : s.pointOk p.point = true)
    (hever : (s.point p.point).ever = true) (hbad : s.pm.badHist = []) (hhost : p.host % 64 = 0)
    (hlen : p.first ≤ (s.point p.point).histLen p.typ) :
    Completes (.pmnHistRead dt h p) s fun t =>
      Answered t h Op.PMN_HIST_READ 0 0 [] ∧ RegsOnly [] s t ∧
      (h.noCpl = true → t.io.mem = memWrite s.io.mem p.host ((s.elapse dt).histRecord p.point p.typ p.first)) := by
  obtain ⟨a, ha⟩ : ∃ a, a = s.elapse dt := ⟨_, rfl⟩
  have hok' : a.pointOk p.point = true := by rw [ha]; exact hok
  have hever' : (a.point p.point).ever = true := by rw [ha]; exact hever
  have hlen' : p.first ≤ (a.point p.point).histLen p.typ := by rw [ha]; exact hlen
  have hbad' : a.pm.badHist = [] := by rw [ha]; exact hbad
  have hpts : (List.range p.count).map (fun k => p.point + k) = [p.point] := by rw [hcount]; rfl
  have hwant : ([p.point].map (fun q => (List.range p.num).map (fun k => (q, p.first + k)))).flatten = [(p.point, p.first)] := by
    rw [hnum]
    rfl
  have hrange : (decide (p.count < 1) || decide (1024 < p.count) || decide (1 < p.typ) ||
      decide ((if p.typ = 0 then 32 else 7) < p.first + p.num - 1) || decide ((if p.typ = 0 then 32 else 7) < p.first) ||
      p.host % 64 != 0) = false := by
    rw [hcount, hnum, hhost]
    simp
    omega
  refine completes_of_admitted rfl hadm ?_
  rw [← ha]
  dsimp only
  rw [hpts, hwant, if_neg (by rw [hrange]; decide), if_neg (by simp [hok']), if_neg (by simp [hever']),
    if_neg (by simp [hnum, hlen']), List.foldl_cons, List.foldl_nil, State.histError_none hbad', List.map_cons, List.map_nil,
    List.flatten_cons, List.flatten_nil, List.append_nil]
  generalize a.histRecord p.point p.typ p.first = bytes
  rw [ha]
  exact ⟨State.done_answered .., RegsOnly.done (RegsOnly.upd (RegsOnly.of_elapse _ s dt)) _ _,
    fun hno => State.done_mem_of_noCpl (State.hostWrite _ _ _) hno _⟩

/-- A bin whose counts the host has cleared (R335). -/
def PmBin.cleared (b : PmBin) : PmBin := { b with counts := [0, 0, 0, 0, 0, 0, 0, 0, 0, 0], suspect := setBit b.suspect 2 true }

theorem PmBin.cleared_spec (b : PmBin) : b.cleared.counts = List.replicate 10 0 ∧ bitOf b.cleared.suspect 2 = true := by
  refine ⟨rfl, ?_⟩
  show bitOf (setBit b.suspect 2 true) 2 = true
  rw [bitOf_setBit, if_pos rfl]

theorem completes_pmnPointClear {c15 c24 : Bool} (hadm : Admitted s dt h 0 Op.PMN_POINT_CLEAR) (hauth : s.hasAuthority = true)
    (hok : s.pointOk point = true) :
    Completes (.pmnPointClear dt h point c15 c24) s fun t =>
      (if c15 then (t.point point).cur15.counts = List.replicate 10 0 ∧ bitOf (t.point point).cur15.suspect 2 = true
        else (t.point point).cur15 = (s.point point).cur15) ∧
      (if c24 then (t.point point).cur24.counts = List.replicate 10 0 ∧ bitOf (t.point point).cur24.suspect 2 = true
        else (t.point point).cur24 = (s.point point).cur24) ∧
      Answered t h Op.PMN_POINT_CLEAR 0 0 [] ∧ RegsOnly [] s t := by
  obtain ⟨x, hx⟩ : ∃ x, x = s.point point := ⟨_, rfl⟩
  have hauth' : (s.elapse dt).hasAuthority = true := hauth
  have hok' : (s.elapse dt).pointOk point = true := hok
  have hpoint' : (s.elapse dt).point point = x := hx.symm
  refine completes_of_admitted rfl hadm ?_
  dsimp only
  rw [hauth', hok', hpoint', Bool.not_true, if_neg Bool.false_ne_true, if_neg Bool.false_ne_true, ← hx]
  have hread (y : PmPoint) : (((s.elapse dt).setPoint point y).done h Op.PMN_POINT_CLEAR).point point = y :=
    (State.point_setPoint (s.elapse dt) _ _ _).trans (if_pos rfl)
  rw [hread]
  refine ⟨?_, ?_, State.done_answered .., RegsOnly.done (RegsOnly.upd (RegsOnly.of_elapse _ s dt)) _ _⟩
  · cases c15 with
    | true => exact PmBin.cleared_spec x.cur15
    | false => rfl
  · cases c24 with
    | true => exact PmBin.cleared_spec x.cur24
    | false => rfl

theorem completes_pmnSecRead (hadm : Admitted s dt h 0 Op.PMN_SEC_READ) (hhost : host % 64 = 0) (hok : s.pointOk point = true)
    (hever : (s.point point).ever = true) :
    Completes (.pmnSecRead dt h point host) s fun t =>
      t.addr = (s.toNextCycle dt).addr ∧ Answered t h Op.PMN_SEC_READ 0 0 [] ∧ RegsOnly [] s t ∧
      (h.noCpl = true → t.io.mem = memWrite s.io.mem host ((s.toNextCycle dt).pointBytes point)) := by
  have hok' : (s.elapse dt).pointOk point = true := hok
  have hever' : ((s.elapse dt).point point).ever = true := hever
  refine completes_of_admitted rfl hadm ?_
  dsimp only
  rw [hok', hever', hhost, State.elapse_toNextCycle, Bool.not_true, if_neg Bool.false_ne_true, if_neg (by decide), if_neg Bool.false_ne_true]
  generalize (s.toNextCycle dt).pointBytes point = bytes
  refine ⟨rfl, State.done_answered .., RegsOnly.done (RegsOnly.upd (RegsOnly.of_toNextCycle _ s dt)) _ _, fun hno => ?_⟩
  rw [State.done_mem_of_noCpl (State.hostWrite _ _ _) hno]
  show memWrite (s.toNextCycle dt).io.mem _ _ = _
  rw [State.toNextCycle_io]

end

/-- Settles O40, command by command. -/
theorem monitoringCommandsTakeEffect : Obligations.MonitoringCommandsTakeEffect := by
  unfold Obligations.MonitoringCommandsTakeEffect
  intro s dt h
  exact ⟨fun p => completes_pmnPointCfg, fun p => completes_pmnProfileSet, fun p => completes_pmnHistRead,
    fun point c15 c24 => completes_pmnPointClear, fun point host => completes_pmnSecRead⟩

end Sys2Proof.Machine
end


section
/-! PROOFS. The CIP commands (R352 to R365, R378 to R381, R560 to R562). -/

namespace Sys2Proof.Machine

/-- The status registers that follow the key store, the cache and the derivation units. -/
def cipFields : List (Fld × Nat) :=
  [(Reg.CIP_ROOT_STATE, 0), (Reg.CIP_WRAP_LOADED_LO, 0), (Reg.CIP_WRAP_LOADED_HI, 0), (Reg.CIP_CACHE_USED, 0),
    (Reg.CIP_CTX_STOPPED, 0), (Reg.CIP_DERIVE_BUSY, 0)]

section
variable {s t a : State} {dt k : Nat} {h : HostRef} {e : List Nat}

/-! ### Envelopes -/

theorem State.dropNonce_spec (s : State) :
    s.dropNonce.rd Reg.SEC_NONCE_VALID 0 = 0 ∧
    RegsOnly ((Reg.SEC_NONCE_VALID, 0) :: (List.range 8).map (fun i => (Reg.SEC_NONCE, i))) s s.dropNonce := by
  have hfold (l : List Nat) (hl : ∀ i ∈ l, i < 8) : ∀ b : State,
      RegsOnly ((List.range 8).map (fun i => (Reg.SEC_NONCE, i))) b (l.foldl (fun a i => a.wr Reg.SEC_NONCE i 0) b) := by
    induction l with
    | nil => exact fun b => RegsOnly.refl _ b
    | cons i rest ih =>
      intro b
      refine RegsOnly.trans (RegsOnly.wr (RegsOnly.refl _ b) _ _ _ ?_) (ih (fun j hj => hl j (List.mem_cons_of_mem _ hj)) _)
      exact List.mem_map.mpr ⟨i, List.mem_range.mpr (hl i (List.mem_cons_self ..)), rfl⟩
  have hrest := hfold (List.range 8) (fun i hi => List.mem_range.mp hi) (s.wrBit Reg.SEC_NONCE_VALID 0 false)
  refine ⟨?_, RegsOnly.trans (RegsOnly.wrBit (RegsOnly.refl _ s) (List.mem_cons_self ..))
    (RegsOnly.mono hrest (fun x hx => List.mem_cons_of_mem _ hx))⟩
  exact (hrest _ _ (by decide)).trans (State.wrBit_rd_same ..)

/-- The state once an envelope is accepted. -/
def State.envAccepted (s : State) (e : List Nat) : State := s.dropNonce.extend 4 (Config.sha512 (envSig e))

/-- The state once an envelope has failed with a cause. -/
def State.envFailed (s : State) (op cause : Nat) (caused : Bool) : State :=
  ((if cause = 6 then s.dropNonce else s).count Reg.SEC_ENV_BAD_CNT 0).say caused Ev.SEC_ENVELOPE_BAD srcDevice
    [(2, op), (1, cause), (4, s.rd Reg.SEC_SERIAL_LO 0)]

theorem State.checkEnvelope_ok {op : Nat} (hc : (s.envelopeCause op false e).1 = 0) (caused : Bool) :
    s.checkEnvelope op false caused e = (s.envAccepted e, .ok (s.envelopeCause op false e).2) := by
  unfold State.checkEnvelope
  dsimp only
  rw [hc]
  rfl

theorem State.checkEnvelope_bad {op : Nat} (hc : (s.envelopeCause op false e).1 ≠ 0) (caused : Bool) :
    s.checkEnvelope op false caused e =
      (s.envFailed op (s.envelopeCause op false e).1 caused, .error (s.envelopeCause op false e).1) := by
  generalize hr : s.envelopeCause op false e = r at *
  have hdrop : (if (decide (r.1 = 0) || (decide (r.1 = 6) && !false)) = true then s.dropNonce else s) =
      if r.1 = 6 then s.dropNonce else s := by
    simp [hc]
  unfold State.checkEnvelope
  dsimp only
  rw [hr, hdrop, if_neg hc]
  rfl

theorem State.envAccepted_spec (s : State) (e : List Nat) :
    (s.envAccepted e).rd Reg.SEC_NONCE_VALID 0 = 0 ∧ (s.envAccepted e).cip = s.cip ∧
    tget 0 (s.envAccepted e).sec.meas 4 =
      Config.sha512 (leBytes 64 (tget 0 s.sec.meas 4) ++ leBytes 64 (Config.sha512 (envSig e))) ∧
    RegsOnly ((Reg.SEC_NONCE_VALID, 0) :: (List.range 8).map (fun i => (Reg.SEC_NONCE, i))) s (s.envAccepted e) := by
  have hsec : s.dropNonce.sec = s.sec := State.dropNonce_frame (pt := .sec) (by decide) (Part.same_refl _ s)
  have hcip : s.dropNonce.cip = s.cip := State.dropNonce_frame (pt := .cip) (by decide) (Part.same_refl _ s)
  refine ⟨s.dropNonce_spec.1, hcip, ?_, RegsOnly.upd s.dropNonce_spec.2⟩
  rw [← hsec]
  exact (tget_tset ..).trans (if_pos rfl)

theorem State.say_regs (s : State) (caused : Bool) (code src : Nat) (d : List (Nat × Nat)) : (s.say caused code src d).regs = s.regs :=
  State.say_frame (pt := .regs) (by decide) (Part.same_refl _ s)

theorem State.say_raised (s : State) (caused : Bool) (code src : Nat) (d : List (Nat × Nat)) :
    Raised (s.say caused code src d) code src d := by
  unfold State.say
  split
  · exact State.raiseC_raised ..
  · exact State.raise_raised ..

theorem State.envFailed_spec (s : State) (op : Nat) {cause : Nat} (caused : Bool) :
    (s.envFailed op cause caused).cip = s.cip ∧
    (s.envFailed op cause caused).rd Reg.SEC_ENV_BAD_CNT 0 = (s.rd Reg.SEC_ENV_BAD_CNT 0 + 1) % 2 ^ 32 ∧
    Raised (s.envFailed op cause caused) Ev.SEC_ENVELOPE_BAD srcDevice [(2, op), (1, cause), (4, s.rd Reg.SEC_SERIAL_LO 0)] ∧
    (cause ≠ 6 → RegsOnly [(Reg.SEC_ENV_BAD_CNT, 0)] s (s.envFailed op cause caused)) := by
  unfold State.envFailed
  obtain ⟨b, hb⟩ : ∃ b, b = if cause = 6 then s.dropNonce else s := ⟨_, rfl⟩
  have hcip : b.cip = s.cip := by
    rw [hb]
    split
    · exact State.dropNonce_frame (pt := .cip) (by decide) (Part.same_refl _ s)
    · rfl
  have hcnt : b.rd Reg.SEC_ENV_BAD_CNT 0 = s.rd Reg.SEC_ENV_BAD_CNT 0 := by
    rw [hb]
    split
    · exact s.dropNonce_spec.2 _ _ (by decide)
    · rfl
  rw [← hb]
  refine ⟨?_, ?_, State.say_raised .., fun h6 => ?_⟩
  · have hsay : ((b.count Reg.SEC_ENV_BAD_CNT 0).say caused Ev.SEC_ENVELOPE_BAD srcDevice
        [(2, op), (1, cause), (4, s.rd Reg.SEC_SERIAL_LO 0)]).cip = b.cip :=
      State.say_frame (pt := .cip) (by decide) (State.count_frame (pt := .cip) (by decide) (Part.same_refl _ b))
    exact hsay.trans hcip
  · rw [regsOnly_of_regs (State.say_regs ..) [] _ _ (by simp), State.count_rd_same', hcnt]
    rfl
  · rw [if_neg h6] at hb
    rw [hb]
    exact RegsOnly.of_regs (RegsOnly.count (RegsOnly.refl _ s) (List.mem_singleton.mpr rfl)) (State.say_regs ..)

/-! ### The key store -/

theorem State.keySlot_setSlot (s : State) (k j : Nat) (x : KeySlot) : (s.setSlot k x).keySlot j = if j = k then x else s.keySlot j :=
  tget_tset ..

theorem State.keySlot_congr (h : t.cip.slots = s.cip.slots) (j : Nat) : t.keySlot j = s.keySlot j := by
  unfold State.keySlot
  rw [h]

theorem KeySlot.half_setHalf (x : KeySlot) (i : Nat) (y : Option KeyHalf) : (x.setHalf i y).half i = y := by
  unfold KeySlot.setHalf KeySlot.half
  split <;> rfl

theorem State.slotRegs_regsOnly (s : State) : RegsOnly cipFields s s.slotRegs := by
  unfold State.slotRegs
  iterate 3 refine RegsOnly.wr ?_ _ _ _ (by simp [cipFields])
  exact RegsOnly.refl _ s

theorem State.setSlot_regsOnly (s : State) (k : Nat) (x : KeySlot) : RegsOnly cipFields s (s.setSlot k x) :=
  RegsOnly.trans (RegsOnly.upd (RegsOnly.refl _ s)) (State.slotRegs_regsOnly _)

theorem State.cipRegs_regsOnly (s : State) : RegsOnly cipFields s s.cipRegs := by
  unfold State.cipRegs
  iterate 2 refine RegsOnly.wr ?_ _ _ _ (by simp [cipFields])
  exact RegsOnly.refl _ s

theorem State.setCip_regsOnly (s : State) (c : Nat) (x : CipCtx) : RegsOnly cipFields s (s.setCip c x) :=
  RegsOnly.trans (RegsOnly.upd (RegsOnly.refl _ s)) (State.cipRegs_regsOnly _)

theorem State.busyRegs_regsOnly (s : State) : RegsOnly cipFields s s.busyRegs :=
  RegsOnly.wr (RegsOnly.refl _ s) _ _ _ (by simp [cipFields])

theorem State.wantKey_regsOnly (s : State) (c dir ep deadline : Nat) : RegsOnly cipFields s (s.wantKey c dir ep deadline) :=
  RegsOnly.trans (RegsOnly.upd (RegsOnly.refl _ s)) (State.busyRegs_regsOnly _)

/-- Only the cache and the requests of the cipher pool changed, and the registers that follow. -/
def CacheOnly (s t : State) : Prop := t.cip.slots = s.cip.slots ∧ t.cip.flips = s.cip.flips ∧ RegsOnly cipFields s t

theorem CacheOnly.refl (s : State) : CacheOnly s s := ⟨rfl, rfl, RegsOnly.refl _ s⟩

theorem CacheOnly.trans {u : State} (h : CacheOnly s t) (k : CacheOnly t u) : CacheOnly s u :=
  ⟨k.1.trans h.1, k.2.1.trans h.2.1, RegsOnly.trans h.2.2 k.2.2⟩

theorem State.setCip_cacheOnly (s : State) (c : Nat) (x : CipCtx) : CacheOnly s (s.setCip c x) :=
  ⟨rfl, rfl, State.setCip_regsOnly s c x⟩

theorem State.wantKey_cacheOnly (s : State) (c dir ep deadline : Nat) : CacheOnly s (s.wantKey c dir ep deadline) :=
  ⟨rfl, rfl, State.wantKey_regsOnly s c dir ep deadline⟩

theorem State.needKey_cacheOnly (s : State) (c dir ep deadline : Nat) : CacheOnly s (s.needKey c dir ep deadline) := by
  unfold State.needKey
  split
  · exact CacheOnly.refl s
  · split
    · split
      · exact CacheOnly.refl s
      · exact State.wantKey_cacheOnly ..
    · split
      · exact CacheOnly.refl s
      · exact State.wantKey_cacheOnly ..

theorem State.renewKey_cacheOnly (s : State) (c dir ep : Nat) : CacheOnly s (s.renewKey c dir ep) := by
  unfold State.renewKey
  split
  · exact CacheOnly.refl s
  · exact (State.setCip_cacheOnly ..).trans (State.wantKey_cacheOnly ..)

theorem State.deriveAgain_cacheOnly (s : State) (k i c : Nat) (x : CipCtx) : CacheOnly s (s.deriveAgain k i c x) := by
  have hite (b : State) (p : Prop) [Decidable p] (dir ep : Nat) : CacheOnly b (if p then b.renewKey c dir ep else b) := by
    split
    · exact State.renewKey_cacheOnly ..
    · exact CacheOnly.refl b
  unfold State.deriveAgain
  exact (hite _ _ _ _).trans (hite _ _ _ _)

theorem foldl_cacheOnly {α : Type} {f : State → α → State} (hf : ∀ a x, CacheOnly a (f a x)) (l : List α) :
    ∀ a : State, CacheOnly a (l.foldl f a) := by
  induction l with
  | nil => exact CacheOnly.refl
  | cons x rest ih => exact fun a => (hf a x).trans (ih _)

/-- The state once a half has been written and the keys it covers are asked for again. -/
def State.halfLoaded (s : State) (k i since peer key : Nat) : State :=
  (s.cip.ctxs.filter (fun e => e.2.slot == k)).foldl (fun a e => a.deriveAgain k i e.1 e.2)
    (s.setSlot k ((s.keySlot k).setHalf i (some { fromEpoch := since, peer := peer, key := key })))

theorem State.halfLoaded_spec (s : State) (k i since peer key : Nat) :
    ((s.halfLoaded k i since peer key).keySlot k).half i = some { fromEpoch := since, peer := peer, key := key } ∧
    RegsOnly cipFields s (s.halfLoaded k i since peer key) := by
  obtain ⟨a, ha⟩ : ∃ a, a = s.setSlot k ((s.keySlot k).setHalf i (some { fromEpoch := since, peer := peer, key := key })) := ⟨_, rfl⟩
  unfold State.halfLoaded
  rw [← ha]
  have hfold (l : List (Nat × CipCtx)) : CacheOnly a (l.foldl (fun a e => a.deriveAgain k i e.1 e.2) a) :=
    foldl_cacheOnly (f := fun a (e : Nat × CipCtx) => a.deriveAgain k i e.1 e.2) (fun c x => State.deriveAgain_cacheOnly c k i x.1 x.2) l a
  obtain ⟨hslots, -, hregs⟩ := hfold (s.cip.ctxs.filter (fun e => e.2.slot == k))
  have hset : RegsOnly cipFields s a := by
    rw [ha]
    exact State.setSlot_regsOnly s k _
  have hall := RegsOnly.trans hset hregs
  refine ⟨?_, hall⟩
  rw [State.keySlot_congr hslots, ha, State.keySlot_setSlot, if_pos rfl, KeySlot.half_setHalf]

/-- A key half is loaded, and reported. -/
theorem State.loadKey_spec {i : Nat} (hhalf : s.loadHalf k = some i) (since peer key : Nat) (caused : Bool) :
    ((s.loadKey k since peer key caused).keySlot k).half i = some { fromEpoch := since, peer := peer, key := key } ∧
    Raised (s.loadKey k since peer key caused) Ev.KEY_LOADED srcDevice
      [(1, ofBool (k < 4)), (1, if k < 4 then k else k - 0x80), (2, since)] ∧
    RegsOnly cipFields s (s.loadKey k since peer key caused) := by
  obtain ⟨b, hb⟩ : ∃ b, b = s.halfLoaded k i since peer key := ⟨_, rfl⟩
  have hload : s.loadKey k since peer key caused = b.say caused Ev.KEY_LOADED srcDevice
      [(1, ofBool (k < 4)), (1, if k < 4 then k else k - 0x80), (2, since)] := by
    unfold State.loadKey
    rw [hhalf, hb]
    rfl
  obtain ⟨hkey, hregs⟩ := State.halfLoaded_spec s k i since peer key
  rw [← hb] at hkey hregs
  have hcip (d : List (Nat × Nat)) : (b.say caused Ev.KEY_LOADED srcDevice d).cip = b.cip :=
    State.say_frame (pt := .cip) (by decide) (Part.same_refl _ b)
  rw [hload]
  refine ⟨?_, State.say_raised .., RegsOnly.of_regs hregs (State.say_regs ..)⟩
  rw [State.keySlot_congr (congrArg CipSt.slots (hcip _)), hkey]

/-! ### What is forwarded -/

theorem State.sendFwd_io (s : State) (f : Fwd) : (s.sendFwd f).io = s.io :=
  State.sendFwd_frame (pt := .io) (by decide) (Part.same_refl _ s)

theorem State.sendFwd_regs (s : State) (f : Fwd) : (s.sendFwd f).regs = s.regs :=
  State.sendFwd_frame (pt := .regs) (by decide) (Part.same_refl _ s)

theorem State.sendFwd_cip (s : State) (f : Fwd) : (s.sendFwd f).cip = s.cip :=
  State.sendFwd_frame (pt := .cip) (by decide) (Part.same_refl _ s)

theorem State.sendFwd_sec (s : State) (f : Fwd) : (s.sendFwd f).sec = s.sec :=
  State.sendFwd_frame (pt := .sec) (by decide) (Part.same_refl _ s)

theorem Raised.of_io {code src : Nat} {d : List (Nat × Nat)} (h : Raised s code src d) (hio : t.io = s.io) : Raised t code src d := by
  unfold Raised
  rw [hio]
  exact h

theorem RegsOnly.of_elapse_left {l : List (Fld × Nat)} (h : RegsOnly l (s.elapse dt) t) : RegsOnly l s t := h

end

end Sys2Proof.Machine
end


section
/-! PROOFS. The CIP commands (R355 to R365, R378 to R381), command by command. -/

namespace Sys2Proof.Machine

section
variable {s t : State} {dt : Nat} {h : HostRef} {e : List Nat}

theorem State.loadHalf_congr (hcip : t.cip = s.cip) (k : Nat) : t.loadHalf k = s.loadHalf k := by
  unfold State.loadHalf State.halfInUse State.keySlot
  rw [hcip]

theorem State.loadReason_congr (hcip : t.cip = s.cip) (k since : Nat) : t.loadReason k since = s.loadReason k since := by
  unfold State.loadReason State.slotEpochs State.cip? State.keySlot
  rw [State.loadHalf_congr hcip, hcip]

theorem State.hasAuthority_congr (hpair : t.rd Reg.PAR_PAIR_EN 0 = s.rd Reg.PAR_PAIR_EN 0)
    (hauth : t.rd Reg.PAR_AUTHORITY 0 = s.rd Reg.PAR_AUTHORITY 0) : t.hasAuthority = s.hasAuthority := by
  unfold State.hasAuthority
  rw [hpair, hauth]

theorem State.finish_done {op : Nat} {b : State} : State.finish h op (b, 0) = b.done h op := if_pos rfl

theorem State.finish_refuse {op r : Nat} {b : State} (hr : r ≠ 0) : State.finish h op (b, r) = b.refuse h op r := if_neg hr

theorem State.fwdDone_keySlot (s : State) (f : Fwd) (op k : Nat) : ((s.sendFwd f).done h op).keySlot k = s.keySlot k :=
  State.keySlot_congr (congrArg CipSt.slots (State.sendFwd_cip s f)) k

/-! ### CIP_ROOT_LOAD -/

theorem State.doRootLoad_bad (hc : (s.envelopeCause Op.CIP_ROOT_LOAD false e).1 ≠ 0) :
    s.doRootLoad e false = (s.envFailed Op.CIP_ROOT_LOAD (s.envelopeCause Op.CIP_ROOT_LOAD false e).1 true, 2) := by
  unfold State.doRootLoad
  rw [Bool.not_false, State.checkEnvelope_bad hc]

theorem State.doRootLoad_ok {b : List Nat} (hc : s.envelopeCause Op.CIP_ROOT_LOAD false e = (0, b)) (hslot : b.getD 0 0 ≤ 3)
    (hpeer : b.getD 0 0 = 3 ∨ b.getD 4 0 + 256 * b.getD 5 0 ≠ s.rd Reg.CIP_PAIR_ID 0) (hauth : s.hasAuthority = true)
    (hreason : s.loadReason (b.getD 0 0) (b.getD 2 0 + 256 * b.getD 3 0) = none) :
    s.doRootLoad e false = (((s.envAccepted e).loadKey (b.getD 0 0) (b.getD 2 0 + 256 * b.getD 3 0)
      (b.getD 4 0 + 256 * b.getD 5 0) (leNum ((b.drop 8).take 32)) true).sendFwd (.rootLoad e), 0) := by
  obtain ⟨-, hcip, -, hregs⟩ := State.envAccepted_spec s e
  have hcause : (s.envelopeCause Op.CIP_ROOT_LOAD false e).1 = 0 := by rw [hc]
  unfold State.doRootLoad
  rw [Bool.not_false, State.checkEnvelope_ok hcause, hc]
  dsimp only
  rw [hregs Reg.CIP_PAIR_ID 0 (by decide), State.loadReason_congr hcip, hreason,
    State.hasAuthority_congr (hregs _ _ (by decide)) (hregs _ _ (by decide)), hauth]
  have hrange : (decide (3 < b.getD 0 0) || (b.getD 0 0 != 3 && b.getD 4 0 + 256 * b.getD 5 0 == s.rd Reg.CIP_PAIR_ID 0)) = false := by
    rw [decide_eq_false (by omega), Bool.false_or, Bool.and_eq_false_iff]
    exact hpeer.imp (fun h3 => by rw [h3]; rfl) (fun hne => by simpa using hne)
  rw [if_neg (by rw [hrange]; decide)]
  rfl

theorem completes_cipRootLoad (hadm : Admitted s dt h 10 Op.CIP_ROOT_LOAD) (hauth : s.hasAuthority = true) :
    Completes (.cipRootLoad dt h e) s fun t =>
      let c := s.envelopeCause Op.CIP_ROOT_LOAD false e
      let slot := c.2.getD 0 0
      let since := c.2.getD 2 0 + 256 * c.2.getD 3 0
      let peer := c.2.getD 4 0 + 256 * c.2.getD 5 0
      (∀ i, c.1 = 0 → slot ≤ 3 → (slot = 3 ∨ peer ≠ s.rd Reg.CIP_PAIR_ID 0) → s.loadReason slot since = none →
        s.loadHalf slot = some i →
        (t.keySlot slot).half i = some { fromEpoch := since, peer := peer, key := leNum ((c.2.drop 8).take 32) } ∧
        t.rd Reg.SEC_NONCE_VALID 0 = 0 ∧ tget 0 t.sec.meas 4 = Config.sha512 (leBytes 64 (tget 0 s.sec.meas 4) ++
          leBytes 64 (Config.sha512 (envSig e))) ∧
        Raised t Ev.KEY_LOADED srcDevice [(1, 1), (1, slot), (2, since)] ∧ Answered t h Op.CIP_ROOT_LOAD 0 0 []) ∧
      (c.1 ≠ 0 → t.cip = s.cip ∧ t.rd Reg.SEC_ENV_BAD_CNT 0 = (s.rd Reg.SEC_ENV_BAD_CNT 0 + 1) % 2 ^ 32 ∧
        Raised t Ev.SEC_ENVELOPE_BAD srcDevice [(2, Op.CIP_ROOT_LOAD), (1, c.1), (4, s.rd Reg.SEC_SERIAL_LO 0)] ∧
        Answered t h Op.CIP_ROOT_LOAD 2 2 []) ∧
      (c.1 ≠ 0 → c.1 ≠ 6 → RegsOnly [(Reg.SEC_ENV_BAD_CNT, 0)] s t) := by
  obtain ⟨a, ha⟩ : ∃ a, a = s.elapse dt := ⟨_, rfl⟩
  have hcause : a.envelopeCause Op.CIP_ROOT_LOAD false e = s.envelopeCause Op.CIP_ROOT_LOAD false e := by rw [ha]; rfl
  have hcip : a.cip = s.cip := by rw [ha]; rfl
  have hrd (f : Fld) : a.rd f 0 = s.rd f 0 := by rw [ha]; rfl
  refine completes_of_admitted rfl hadm ?_
  rw [← ha]
  generalize hc : s.envelopeCause Op.CIP_ROOT_LOAD false e = c at hcause ⊢
  obtain ⟨cause, b⟩ := c
  intro c slot since peer
  refine ⟨fun i h0 hslot hpeer hreason hhalf => ?_, fun hbad => ?_, fun hbad h6 => ?_⟩
  · have h0' : cause = 0 := h0
    subst h0'
    obtain ⟨hvalid, hcipE, hmeas, -⟩ := State.envAccepted_spec a e
    have hhalf' : (a.envAccepted e).loadHalf slot = some i := by
      rw [State.loadHalf_congr (hcipE.trans hcip)]
      exact hhalf
    obtain ⟨hkey, hraised, hregs⟩ := State.loadKey_spec hhalf' since peer (leNum ((b.drop 8).take 32)) true
    have hdo := State.doRootLoad_ok hcause hslot (by rw [hrd]; exact hpeer)
      ((State.hasAuthority_congr (hrd _) (hrd _)).trans hauth) (by rw [State.loadReason_congr hcip]; exact hreason)
    obtain ⟨l, hl⟩ : ∃ l, l = (a.envAccepted e).loadKey slot since peer (leNum ((b.drop 8).take 32)) true := ⟨_, rfl⟩
    have hsec : l.sec = (a.envAccepted e).sec := by
      rw [hl]
      exact State.loadKey_frame (pt := .sec) (by decide) (Part.same_refl _ _)
    have hdo' : a.doRootLoad e false = (l.sendFwd (.rootLoad e), 0) := by rw [hl]; exact hdo
    rw [← hl] at hkey hraised hregs
    rw [if_pos (show slot < 4 by omega)] at hraised
    have hroot : ofBool (decide (slot < 4)) = 1 := by rw [decide_eq_true (show slot < 4 by omega)]; rfl
    rw [hroot] at hraised
    rw [hdo', State.finish_done]
    refine ⟨?_, ?_, ?_, (hraised.of_io (State.sendFwd_io ..)).done .., State.done_answered ..⟩
    · rw [State.fwdDone_keySlot]
      exact hkey
    · rw [State.done_rd, regsOnly_of_regs (State.sendFwd_regs l _) [] _ _ (by simp), hregs _ _ (by decide), hvalid]
    · rw [State.done_sec, State.sendFwd_sec, hsec, hmeas, ha]
      rfl
  · have hbad' : (a.envelopeCause Op.CIP_ROOT_LOAD false e).1 ≠ 0 := by rw [hcause]; exact hbad
    obtain ⟨hcipF, hcnt, hraised, -⟩ := State.envFailed_spec a Op.CIP_ROOT_LOAD (cause := cause) true
    rw [State.doRootLoad_bad hbad', hcause, State.finish_refuse (by decide)]
    refine ⟨hcipF.trans hcip, ?_, ?_, State.refuse_answered ..⟩
    · rw [State.refuse_rd, hcnt, hrd]
    · rw [← hrd]
      exact hraised.complete ..
  · have hbad' : (a.envelopeCause Op.CIP_ROOT_LOAD false e).1 ≠ 0 := by rw [hcause]; exact hbad
    obtain ⟨-, -, -, honly⟩ := State.envFailed_spec a Op.CIP_ROOT_LOAD (cause := cause) true
    rw [State.doRootLoad_bad hbad', hcause, State.finish_refuse (by decide)]
    have hall := RegsOnly.complete (honly h6) h Op.CIP_ROOT_LOAD 2 2 []
    rw [ha] at hall ⊢
    exact RegsOnly.of_elapse_left hall

/-! ### CIP_KEY_ERASE -/

theorem State.doKeyErase_bad (hc : (s.envelopeCause Op.CIP_KEY_ERASE false e).1 ≠ 0) :
    s.doKeyErase e false = (s.envFailed Op.CIP_KEY_ERASE (s.envelopeCause Op.CIP_KEY_ERASE false e).1 true, 2) := by
  unfold State.doKeyErase
  rw [Bool.not_false, State.checkEnvelope_bad hc]

theorem State.doKeyErase_ok {b : List Nat} (hc : s.envelopeCause Op.CIP_KEY_ERASE false e = (0, b)) (hwhat : b.getD 0 0 = 0)
    (hslot : b.getD 1 0 < 3) :
    s.doKeyErase e false = (((s.envAccepted e).eraseSlot (b.getD 1 0) true).sendFwd (.keyErase e), 0) := by
  have hcause : (s.envelopeCause Op.CIP_KEY_ERASE false e).1 = 0 := by rw [hc]
  unfold State.doKeyErase
  rw [Bool.not_false, State.checkEnvelope_ok hcause, hc]
  dsimp only
  have hrange : (decide (1 < 0) || (0 == 0 && decide (3 < b.getD 1 0)) || (0 == 1 && decide (63 < b.getD 1 0))) = false := by
    rw [decide_eq_false (show ¬ 3 < b.getD 1 0 by omega)]
    rfl
  rw [hwhat, if_neg (by rw [hrange]; decide)]
  rfl

/-- A slot marked for erasure: no direction uses it. -/
def State.slotMarked (s : State) (k : Nat) : State := s.setSlot k { s.keySlot k with erasing := true, stopped := 0 }

theorem State.halfInFlight_none (hctxs : s.cip.ctxs = []) (k i : Nat) : s.halfInFlight k i = false := by
  unfold State.halfInFlight
  rw [hctxs]
  rfl

/-- With no sealed context, an erase of a root slot ends at once. -/
theorem State.eraseSlot_eq {k : Nat} (hk : k < 3) (hctxs : s.cip.ctxs = []) (caused : Bool) :
    ∃ g : State, s.eraseSlot k caused = g.say caused Ev.KEY_ERASED srcDevice [(1, 1), (1, k), (4, 0)] ∧
      g.cip.slots = tdel (tset s.cip.slots k { s.keySlot k with erasing := true, stopped := 0 }) k := by
  have hset : eraseSet k = [k] := if_neg (by omega)
  have hctxs' : (s.slotMarked k).cip.ctxs = [] := hctxs
  have hslot : (s.slotMarked k).keySlot k = { s.keySlot k with erasing := true, stopped := 0 } := by
    unfold State.slotMarked
    rw [State.keySlot_setSlot, if_pos rfl]
  have hmark : s.eraseSlot k caused = (s.slotMarked k).finishErase k caused := by
    unfold State.eraseSlot
    rw [hset, hctxs]
    dsimp only
    rw [List.filter_cons_of_pos (by simp), List.filter_nil, List.filter_nil, List.foldl_cons, List.foldl_nil, if_pos rfl]
    rfl
  have hdrained : (s.slotMarked k).drained k = true := by
    unfold State.drained
    rw [hset, List.all_cons, List.all_nil, State.halfInFlight_none hctxs', State.halfInFlight_none hctxs']
    rfl
  refine ⟨?gone, hmark.trans ?erased, ?slots⟩
  case erased =>
    unfold State.finishErase
    dsimp only
    rw [hslot, hdrained, if_neg (show ¬ (!true || !true) = true by decide), hset, List.foldl_cons, List.foldl_nil, decide_eq_true (show k < 4 by omega),
      if_pos (show k < 4 by omega)]
    rfl
  case slots => rfl

theorem completes_cipKeyErase (hadm : Admitted s dt h 10 Op.CIP_KEY_ERASE) (hctxs : s.cip.ctxs = [])
    (hsorted : tsorted s.cip.slots = true) :
    Completes (.cipKeyErase dt h e) s fun t =>
      let c := s.envelopeCause Op.CIP_KEY_ERASE false e
      let slot := c.2.getD 1 0
      (c.1 = 0 → c.2.getD 0 0 = 0 → slot < 3 →
        t.keySlot slot = {} ∧ (∀ k, k ≠ slot → t.keySlot k = s.keySlot k) ∧
        Raised t Ev.KEY_ERASED srcDevice [(1, 1), (1, slot), (4, 0)] ∧ Answered t h Op.CIP_KEY_ERASE 0 0 []) ∧
      (c.1 ≠ 0 → t.cip = s.cip ∧ Raised t Ev.SEC_ENVELOPE_BAD srcDevice
        [(2, Op.CIP_KEY_ERASE), (1, c.1), (4, s.rd Reg.SEC_SERIAL_LO 0)] ∧ Answered t h Op.CIP_KEY_ERASE 2 2 []) := by
  obtain ⟨a, ha⟩ : ∃ a, a = s.elapse dt := ⟨_, rfl⟩
  have hcause : a.envelopeCause Op.CIP_KEY_ERASE false e = s.envelopeCause Op.CIP_KEY_ERASE false e := by rw [ha]; rfl
  have hcip : a.cip = s.cip := by rw [ha]; rfl
  have hrd (f : Fld) : a.rd f 0 = s.rd f 0 := by rw [ha]; rfl
  refine completes_of_admitted rfl hadm ?_
  rw [← ha]
  generalize hc : s.envelopeCause Op.CIP_KEY_ERASE false e = c at hcause ⊢
  obtain ⟨cause, b⟩ := c
  intro c slot
  refine ⟨fun h0 hwhat hslot => ?_, fun hbad => ?_⟩
  · have h0' : cause = 0 := h0
    subst h0'
    obtain ⟨-, hcipE, -, -⟩ := State.envAccepted_spec a e
    obtain ⟨d, hd⟩ : ∃ d, d = a.envAccepted e := ⟨_, rfl⟩
    have hcipD : d.cip = s.cip := by rw [hd]; exact hcipE.trans hcip
    have hdo := State.doKeyErase_ok hcause hwhat hslot
    obtain ⟨r, hr, hslotsR⟩ := State.eraseSlot_eq (s := d) hslot (by rw [hcipD]; exact hctxs) true
    rw [← hd] at hdo
    obtain ⟨g, hg⟩ : ∃ g, g = d.eraseSlot slot true := ⟨_, rfl⟩
    have hslots : g.cip.slots = tdel (tset s.cip.slots slot { d.keySlot slot with erasing := true, stopped := 0 }) slot := by
      rw [hg, hr, ← hcipD, ← hslotsR]
      exact congrArg CipSt.slots (State.say_frame (pt := .cip) (by decide) (Part.same_refl _ r))
    have hraised : Raised g Ev.KEY_ERASED srcDevice [(1, 1), (1, slot), (4, 0)] := by
      rw [hg, hr]
      exact State.say_raised ..
    have hread (k : Nat) : g.keySlot k = if k = slot then {} else s.keySlot k := by
      unfold State.keySlot tget
      rw [hslots, tfind_tdel _ _ _ (tsorted_tset _ _ _ hsorted), tfind_tset]
      split <;> rfl
    have hdo' : a.doKeyErase e false = (g.sendFwd (.keyErase e), 0) := by rw [hg]; exact hdo
    rw [hdo', State.finish_done]
    refine ⟨?_, fun k hk => ?_, (hraised.of_io (State.sendFwd_io ..)).done .., State.done_answered ..⟩
    · rw [State.fwdDone_keySlot, hread, if_pos rfl]
    · rw [State.fwdDone_keySlot, hread, if_neg hk]
  · have hbad' : (a.envelopeCause Op.CIP_KEY_ERASE false e).1 ≠ 0 := by rw [hcause]; exact hbad
    obtain ⟨hcipF, -, hraised, -⟩ := State.envFailed_spec a Op.CIP_KEY_ERASE (cause := cause) true
    rw [State.doKeyErase_bad hbad', hcause, State.finish_refuse (by decide)]
    refine ⟨hcipF.trans hcip, ?_, State.refuse_answered ..⟩
    rw [← hrd]
    exact hraised.complete ..

/-! ### CIP_WRAP_LOAD -/

section
variable {p : WrapLoad} (hslot : p.slot ≤ 63) (hpeer : p.peer ≠ s.rd Reg.CIP_PAIR_ID 0) (hauth : s.hasAuthority = true)
  (hreason : s.loadReason (0x80 + p.slot) p.fromEpoch = none) {kek : Nat} (hkek : s.kek = some kek)
  (hlife : s.rd Reg.SEC_LIFECYCLE 0 = 1 ∨ s.rd Reg.SEC_LIFECYCLE 0 = 2)
include hslot hpeer hauth hreason hkek hlife

theorem State.doWrapLoad_eq : s.doWrapLoad p false =
    match Config.kwUnwrap kek p.blob with
    | none => (s, 6)
    | some key => ((s.loadKey (0x80 + p.slot) p.fromEpoch p.peer key true).sendFwd (.wrapLoad p), 0) := by
  have hopen : (s.rd Reg.SEC_LIFECYCLE 0 == 1 || s.rd Reg.SEC_LIFECYCLE 0 == 2) = true := by
    rcases hlife with h1 | h2
    · rw [h1]; rfl
    · rw [h2]; rfl
  unfold State.doWrapLoad
  dsimp only
  rw [hopen, hauth, hreason, hkek, if_neg (by simp; omega)]
  rfl

end

theorem completes_cipWrapLoad {p : WrapLoad} {i kek : Nat} (hadm : Admitted s dt h 10 Op.CIP_WRAP_LOAD) (hslot : p.slot ≤ 63)
    (hpeer : p.peer ≠ s.rd Reg.CIP_PAIR_ID 0) (hauth : s.hasAuthority = true)
    (hreason : s.loadReason (0x80 + p.slot) p.fromEpoch = none) (hhalf : s.loadHalf (0x80 + p.slot) = some i)
    (hkek : s.kek = some kek) (hlife : s.rd Reg.SEC_LIFECYCLE 0 = 1 ∨ s.rd Reg.SEC_LIFECYCLE 0 = 2) :
    Completes (.cipWrapLoad dt h p) s fun t =>
      (∀ key, Config.kwUnwrap kek p.blob = some key →
        (t.keySlot (0x80 + p.slot)).half i = some { fromEpoch := p.fromEpoch, peer := p.peer, key := key } ∧
        Raised t Ev.KEY_LOADED srcDevice [(1, 0), (1, p.slot), (2, p.fromEpoch)] ∧ Answered t h Op.CIP_WRAP_LOAD 0 0 []) ∧
      (Config.kwUnwrap kek p.blob = none → t.cip = s.cip ∧ Answered t h Op.CIP_WRAP_LOAD 2 6 [] ∧ RegsOnly [] s t) := by
  obtain ⟨a, ha⟩ : ∃ a, a = s.elapse dt := ⟨_, rfl⟩
  have hcip : a.cip = s.cip := by rw [ha]; rfl
  have hrd (f : Fld) : a.rd f 0 = s.rd f 0 := by rw [ha]; rfl
  have hdo := State.doWrapLoad_eq (s := a) (p := p) hslot (by rw [hrd]; exact hpeer)
    ((State.hasAuthority_congr (hrd _) (hrd _)).trans hauth) (by rw [State.loadReason_congr hcip]; exact hreason) (kek := kek)
    (by rw [ha]; exact hkek) (by rw [hrd]; exact hlife)
  refine completes_of_admitted rfl hadm ?_
  rw [← ha]
  refine ⟨fun key hkey => ?_, fun hnone => ?_⟩
  · obtain ⟨hslotL, hraised, -⟩ := State.loadKey_spec (s := a) (by rw [State.loadHalf_congr hcip]; exact hhalf) p.fromEpoch p.peer key true
    rw [hkey] at hdo
    obtain ⟨l, hl⟩ : ∃ l, l = a.loadKey (0x80 + p.slot) p.fromEpoch p.peer key true := ⟨_, rfl⟩
    have hdo' : a.doWrapLoad p false = (l.sendFwd (.wrapLoad p), 0) := by rw [hl]; exact hdo
    rw [← hl] at hslotL hraised
    rw [if_neg (by omega), decide_eq_false (by omega), Nat.add_sub_cancel_left] at hraised
    rw [hdo', State.finish_done]
    refine ⟨?_, (hraised.of_io (State.sendFwd_io ..)).done .., State.done_answered ..⟩
    rw [State.fwdDone_keySlot]
    exact hslotL
  · rw [hnone] at hdo
    have hdo' : a.doWrapLoad p false = (a, 6) := hdo
    rw [hdo', State.finish_refuse (by decide), ha]
    exact ⟨rfl, State.refuse_answered .., RegsOnly.complete (RegsOnly.of_elapse _ s dt) _ _ _ _ _⟩

/-! ### CIP_EPOCH_FLIP -/

/-- The flip that a command schedules. -/
def State.newFlip (s : State) (p : EpochFlip) (l : List (Nat × Nat)) : CipFlip :=
  { scope := p.scope, num := p.num, epoch := if p.epoch = 0 then (l.map (·.2)).foldl max 0 else p.epoch,
    raiseCur := p.raiseCur, due := s.flipDue, targets := l, waiting := l.map (·.1) }

theorem State.scheduleFlip_spec (s : State) (p : EpochFlip) (l : List (Nat × Nat)) :
    (s.scheduleFlip p l).shf.oneShots = s.shf.oneShots ++ [flipEntry s.flipDue] ∧
    (∃ f, (s.scheduleFlip p l).cip.flips = s.cip.flips ++ [f] ∧ f.due = s.flipDue ∧ f.targets = l) ∧
    RegsOnly cipFields s (s.scheduleFlip p l) := by
  obtain ⟨f, hf⟩ : ∃ f, f = s.newFlip p l := ⟨_, rfl⟩
  obtain ⟨b, hb⟩ : ∃ b : State, b = { s with
      cip := { s.cip with flips := s.cip.flips ++ [f] },
      shf := { s.shf with oneShots := s.shf.oneShots ++ [flipEntry s.flipDue] } } := ⟨_, rfl⟩
  obtain ⟨g, hg⟩ : ∃ g : State → Nat × Nat → State, g = fun a t => match a.cip? t.1 with
    | none => a
    | some x => (a.setCip t.1 { x with tx := { x.tx with flip := some t.2, fired := false } }).needKey t.1 0 t.2 s.flipDue := ⟨_, rfl⟩
  have hstep (a : State) (t : Nat × Nat) : CacheOnly a (g a t) := by
    rw [hg]
    dsimp only
    split
    · exact CacheOnly.refl a
    · exact (State.setCip_cacheOnly ..).trans (State.needKey_cacheOnly ..)
  have heq : s.scheduleFlip p l = l.foldl g b := by
    rw [hg, hb, hf]
    rfl
  obtain ⟨-, hflips, hregs⟩ := foldl_cacheOnly hstep l b
  have hshf : (s.scheduleFlip p l).shf = b.shf := by
    have hstepShf (a c : State) (t : Nat × Nat) (hac : Part.same a c .shf) : Part.same a (g c t) .shf := by
      rw [hg]
      dsimp only
      split
      · exact hac
      · exact State.needKey_frame (pt := .shf) (by decide) (State.setCip_frame (pt := .shf) (by decide) hac)
    rw [heq]
    exact Part.foldl (p := .shf) hstepShf l (Part.same_refl _ b)
  rw [hshf, heq, hflips]
  have hsb : RegsOnly cipFields s b := by
    rw [hb]
    exact RegsOnly.upd (RegsOnly.refl _ s)
  have hall := RegsOnly.trans hsb hregs
  refine ⟨by rw [hb], ⟨f, by rw [hb], by rw [hf]; rfl, by rw [hf]; rfl⟩, hall⟩

/-- The highest epoch that a flip's targets enter. -/
def mostEpoch (l : List (Nat × Nat)) : Nat := (l.map (·.2)).foldl max 0

theorem foldl_max_le {n : Nat} (l : List Nat) (hl : ∀ x ∈ l, x ≤ n) : ∀ a, a ≤ n → l.foldl max a ≤ n := by
  induction l with
  | nil => exact fun _ ha => ha
  | cons x rest ih =>
    exact fun a ha => ih (fun y hy => hl y (List.mem_cons_of_mem _ hy)) _ (Nat.max_le.mpr ⟨ha, hl x (List.mem_cons_self ..)⟩)

/-- A flip that is not refused enters epochs of 16 bits. -/
theorem State.mostEpoch_le {p : EpochFlip} {l : List (Nat × Nat)} (hreason : s.flipReason p l = none) : mostEpoch l ≤ 65535 := by
  have hall : l.any (fun t => decide (0xFFFF < t.2)) = false := by
    unfold State.flipReason at hreason
    dsimp only at hreason
    split at hreason
    · cases hreason
    split at hreason
    · cases hreason
    split at hreason
    · cases hreason
    split at hreason
    · cases hreason
    split at hreason
    · cases hreason
    next hany => exact Bool.not_eq_true _ ▸ hany
  refine foldl_max_le _ (fun x hx => ?_) 0 (Nat.zero_le _)
  obtain ⟨t, ht, rfl⟩ := List.mem_map.mp hx
  have hone := List.any_eq_false.mp hall t ht
  simpa using hone

/-- What a reservation that is stored leaves: its epoch, cut to 16 bits. -/
theorem State.reserve_stored_rd (s : State) (m : Nat) (caused : Bool) :
    (s.reserve m true caused).rd Reg.CIP_EPOCH_RESV 0 = min 65535 (m + 16) := by
  unfold State.reserve
  dsimp only
  rw [if_pos rfl, regsOnly_of_regs (State.say_regs ..) [] _ _ (by simp), State.wr_rd_same]
  exact Nat.mod_eq_of_lt (Nat.lt_of_le_of_lt (Nat.min_le_left ..) (by decide))

theorem State.reserve_failed_spec (s : State) (m : Nat) (caused : Bool) : (s.reserve m false caused).regs = s.regs ∧
    Raised (s.reserve m false caused) Ev.EPOCH_RESV_FAIL srcDevice [(2, min 65535 (m + 16))] := by
  unfold State.reserve
  dsimp only
  rw [if_neg Bool.false_ne_true]
  exact ⟨State.say_regs .., State.say_raised ..⟩

section
variable {p : EpochFlip} {stored : Bool} (hreason : s.flipReason p (s.flipTargets p) = none)
include hreason

theorem State.doEpochFlip_reserved (hres : s.reserved (mostEpoch (s.flipTargets p)) = true) :
    s.doEpochFlip p stored false = ((s.scheduleFlip p (s.flipTargets p)).sendFwd (.epochFlip p), 0) := by
  unfold State.doEpochFlip
  unfold mostEpoch at hres
  dsimp only
  rw [hreason, hres]
  dsimp only
  rw [if_pos rfl, hres]
  rfl

/-- The reservation that a flip above the one in force makes. -/
theorem State.doEpochFlip_reserves (hres : s.reserved (mostEpoch (s.flipTargets p)) = false) :
    s.doEpochFlip p true false =
      (((s.reserve (mostEpoch (s.flipTargets p)) true true).scheduleFlip p (s.flipTargets p)).sendFwd (.epochFlip p), 0) := by
  have hle := State.mostEpoch_le hreason
  have hnow : (s.reserve (mostEpoch (s.flipTargets p)) true true).reserved (mostEpoch (s.flipTargets p)) = true := by
    generalize mostEpoch (s.flipTargets p) = m at hle ⊢
    unfold State.reserved
    rw [State.reserve_stored_rd]
    simp
    omega
  unfold State.doEpochFlip
  unfold mostEpoch at *
  dsimp only
  rw [hreason, hres]
  dsimp only
  rw [if_neg Bool.false_ne_true, Bool.not_false, hnow]
  rfl

theorem State.doEpochFlip_refused (hres : s.reserved (mostEpoch (s.flipTargets p)) = false) :
    s.doEpochFlip p false false = (s.reserve (mostEpoch (s.flipTargets p)) false true, 8) := by
  have hnow : (s.reserve (mostEpoch (s.flipTargets p)) false true).reserved (mostEpoch (s.flipTargets p)) = false := by
    generalize mostEpoch (s.flipTargets p) = m at hres ⊢
    have hrd : (s.reserve m false true).rd Reg.CIP_EPOCH_RESV 0 = s.rd Reg.CIP_EPOCH_RESV 0 :=
      regsOnly_of_regs (State.reserve_failed_spec s m true).1 [] _ _ (by simp)
    unfold State.reserved at hres ⊢
    rw [hrd]
    exact hres
  unfold State.doEpochFlip
  unfold mostEpoch at *
  dsimp only
  rw [hreason, hres]
  dsimp only
  rw [if_neg Bool.false_ne_true, Bool.not_false, hnow]
  rfl

theorem completes_cipEpochFlip (hadm : Admitted s dt h 10 Op.CIP_EPOCH_FLIP)
    (hres : s.reserved (((s.flipTargets p).map (·.2)).foldl max 0) = true) :
    Completes (.cipEpochFlip dt h p stored) s fun t =>
      t.shf.oneShots = s.shf.oneShots ++ [flipEntry (s.elapse dt).flipDue] ∧
      (∃ f, t.cip.flips = s.cip.flips ++ [f] ∧ f.due = (s.elapse dt).flipDue ∧ f.targets = s.flipTargets p) ∧
      Answered t h Op.CIP_EPOCH_FLIP 0 0 [] := by
  obtain ⟨a, ha⟩ : ∃ a, a = s.elapse dt := ⟨_, rfl⟩
  have htargets : a.flipTargets p = s.flipTargets p := by rw [ha]; rfl
  have hdo := State.doEpochFlip_reserved (s := a) (p := p) (stored := stored) (by rw [ha]; exact hreason) (by rw [ha]; exact hres)
  obtain ⟨honeShots, hflips, -⟩ := State.scheduleFlip_spec a p (a.flipTargets p)
  obtain ⟨b, hb⟩ : ∃ b, b = a.scheduleFlip p (a.flipTargets p) := ⟨_, rfl⟩
  rw [← hb] at hdo honeShots hflips
  have hshf : (b.sendFwd (.epochFlip p)).shf = b.shf := State.sendFwd_frame (pt := .shf) (by decide) (Part.same_refl _ b)
  refine completes_of_admitted rfl hadm ?_
  rw [← ha, hdo, State.finish_done, State.done_shf, hshf, State.done_cip, State.sendFwd_cip, honeShots, ← htargets]
  refine ⟨?_, ?_, State.done_answered ..⟩
  · rw [ha]
    rfl
  · obtain ⟨f, hf, hdue, htg⟩ := hflips
    exact ⟨f, by rw [hf, ha]; rfl, hdue, htg⟩

theorem completes_cipEpochFlip_above (hadm : Admitted s dt h 10 Op.CIP_EPOCH_FLIP)
    (hres : s.reserved (((s.flipTargets p).map (·.2)).foldl max 0) = false) :
    Completes (.cipEpochFlip dt h p stored) s fun t =>
      if stored then
        t.rd Reg.CIP_EPOCH_RESV 0 = min 65535 (((s.flipTargets p).map (·.2)).foldl max 0 + 16) ∧
        t.shf.oneShots = s.shf.oneShots ++ [flipEntry (s.elapse dt).flipDue] ∧ Answered t h Op.CIP_EPOCH_FLIP 0 0 []
      else
        t.shf = s.shf ∧ Raised t Ev.EPOCH_RESV_FAIL srcDevice
          [(2, min 65535 (((s.flipTargets p).map (·.2)).foldl max 0 + 16))] ∧
        Answered t h Op.CIP_EPOCH_FLIP 2 8 [] ∧ RegsOnly [] s t := by
  obtain ⟨a, ha⟩ : ∃ a, a = s.elapse dt := ⟨_, rfl⟩
  have htargets : a.flipTargets p = s.flipTargets p := by rw [ha]; rfl
  have hreason' : a.flipReason p (a.flipTargets p) = none := by rw [ha]; exact hreason
  have hres' : a.reserved (mostEpoch (a.flipTargets p)) = false := by rw [ha]; exact hres
  have hmost : ((s.flipTargets p).map (·.2)).foldl max 0 = mostEpoch (a.flipTargets p) := by rw [htargets]; rfl
  rw [hmost]
  refine completes_of_admitted rfl hadm ?_
  cases stored with
  | true =>
    have hdo := State.doEpochFlip_reserves hreason' hres'
    obtain ⟨l, hl⟩ : ∃ l, l = a.flipTargets p := ⟨_, rfl⟩
    obtain ⟨r, hr⟩ : ∃ r, r = a.reserve (mostEpoch l) true true := ⟨_, rfl⟩
    rw [← hl, ← hr] at hdo
    obtain ⟨honeShots, -, hregs⟩ := State.scheduleFlip_spec r p l
    obtain ⟨b, hb⟩ : ∃ b, b = r.scheduleFlip p l := ⟨_, rfl⟩
    rw [← hb] at hdo honeShots hregs
    have hshf : (b.sendFwd (.epochFlip p)).shf = b.shf := State.sendFwd_frame (pt := .shf) (by decide) (Part.same_refl _ b)
    have hshfr : r.shf = s.shf := by
      rw [hr]
      exact (State.reserve_frame (pt := .shf) (by decide) (Part.same_refl _ a)).trans (by rw [ha]; rfl)
    have hdue : r.flipDue = a.flipDue := by
      have hclock : r.addr = a.addr := by
        rw [hr]
        exact (State.reserve_frame (pt := .clock) (by decide) (Part.same_refl _ a)).2
      unfold State.flipDue State.cycle
      rw [hclock]
    have hresv : r.rd Reg.CIP_EPOCH_RESV 0 = min 65535 (mostEpoch l + 16) := by
      rw [hr, State.reserve_stored_rd]
    rw [if_pos rfl, ← ha, hdo, State.finish_done, State.done_rd, regsOnly_of_regs (State.sendFwd_regs b _) [] _ _ (by simp),
      hregs _ _ (by decide), hresv, State.done_shf, hshf, honeShots, hshfr, hdue, ← hl]
    exact ⟨rfl, rfl, State.done_answered ..⟩
  | false =>
    have hdo := State.doEpochFlip_refused hreason' hres'
    generalize mostEpoch (a.flipTargets p) = m at hdo
    obtain ⟨r, hr⟩ : ∃ r, r = a.reserve m false true := ⟨_, rfl⟩
    rw [← hr] at hdo
    have hraised : Raised r Ev.EPOCH_RESV_FAIL srcDevice [(2, min 65535 (m + 16))] := by
      rw [hr]
      exact (State.reserve_failed_spec a m true).2
    have hregs : r.regs = s.regs := by
      rw [hr, (State.reserve_failed_spec a m true).1, ha]
      rfl
    have hshfr : r.shf = s.shf := by
      rw [hr]
      exact (State.reserve_frame (pt := .shf) (by decide) (Part.same_refl _ a)).trans (by rw [ha]; rfl)
    rw [if_neg Bool.false_ne_true, ← ha, hdo, State.finish_refuse (by decide)]
    exact ⟨hshfr, hraised.complete .., State.refuse_answered .., RegsOnly.complete (regsOnly_of_regs hregs _) _ _ _ _ _⟩

end

end

/-- Settles O41, command by command. -/
theorem cipherCommandsTakeEffect : Obligations.CipherCommandsTakeEffect := by
  unfold Obligations.CipherCommandsTakeEffect
  intro s dt h
  exact ⟨fun e hadm hauth => completes_cipRootLoad hadm hauth, fun e hadm hctxs hsorted => completes_cipKeyErase hadm hctxs hsorted,
    fun p i e hadm hslot hpeer hauth hreason hhalf hkek hlife =>
      completes_cipWrapLoad hadm hslot hpeer hauth hreason hhalf hkek hlife,
    fun p stored hadm hreason hres => completes_cipEpochFlip hreason hadm hres,
    fun p stored hadm hreason hres => completes_cipEpochFlip_above hreason hadm hres⟩

end Sys2Proof.Machine
end


section
/-! PROOFS. The epochs and the blocks of sealed contexts (R347, R349, R358 to R371). -/

namespace Sys2Proof.Machine

section
variable {s t : State} {dt c : Nat} {x : CipCtx}

/-! ### Forced signal fail -/

/-- Every framer keeps its forced signal fail. -/
def SealFailKept (s t : State) : Prop := ∀ k, (t.framer k).sealFail = (s.framer k).sealFail

theorem SealFailKept.trans {u : State} (h : SealFailKept s t) (k : SealFailKept t u) : SealFailKept s u := fun q => (k q).trans (h q)

theorem SealFailKept.of_frm (h : t.frm = s.frm) : SealFailKept s t := fun k => by
  unfold State.framer
  rw [h]

theorem State.setFramer_sealFail (s : State) {k : Nat} {u : FrmUnit} (h : u.sealFail = (s.framer k).sealFail) :
    SealFailKept s (s.setFramer k u) := by
  intro q
  show (tget {} (tset s.frm.units k u) q).sealFail = _
  rw [tget_tset]
  split
  next hq => rw [h, hq]
  next => rfl

theorem State.settleOne_sealFail (s : State) (k : Nat) : SealFailKept s (s.settleOne k) := by
  let new := s.declares k (s.framer k)
  let isMasked := new.any maskOrder.contains || s.serverMasks k
  let u1 : FrmUnit := { s.framer k with declared := new, masked := isMasked }
  let u2 : FrmUnit := if (s.framer k).masked && !isMasked then { u1 with window := [], winB1 := [], winFrom := s.cycle } else u1
  have hu2 : u2.sealFail = (s.framer k).sealFail := by
    show FrmUnit.sealFail (if _ then _ else _) = _
    split <;> rfl
  have hfrm : (s.settleOne k).frm = (s.setFramer k u2).frm := by
    have hreport (a b : State) (c : Nat) (hab : Part.same a b .frm) : Part.same a
        (if (s.framer k).declared.contains c != new.contains c then b.reportDefect k c (new.contains c) else b) .frm := by
      split
      · exact State.reportDefect_frame (pt := .frm) (by decide) hab
      · exact hab
    have hreports := Part.foldl (p := .frm) hreport (List.range 19) (Part.same_refl .frm (s.setFramer k u2))
    have hlane {b : State} (hb : Part.same (s.setFramer k u2) b .frm) :
        Part.same (s.setFramer k u2) (if keyIsLane k then b.laneRegs (keyNum k) else b) .frm := by
      split
      · exact State.laneRegs_frame (pt := .frm) (by decide) hb
      · exact hb
    have hpoint {b : State} (p : Option Nat) (ne fe : Bool) (hb : Part.same (s.setFramer k u2) b .frm) :
        Part.same (s.setFramer k u2) (match p with | none => b | some p => b.pmDefect p ne fe) .frm := by
      split
      · exact hb
      · exact State.pmDefect_frame (pt := .frm) (by decide) hb
    have hall (p : Option Nat) := hpoint p u2.tsf (new.contains 7 || new.contains 8) (hlane hreports)
    unfold State.settleOne
    extract_lets
    split
    · exact State.pmDefect_frame (pt := .frm) (by decide) (hall _)
    · exact hall _
  exact (State.setFramer_sealFail s hu2).trans (SealFailKept.of_frm hfrm)

theorem State.settle_sealFail (s : State) (k : Nat) : SealFailKept s (s.settle k) := by
  have hfold (l : List Nat) : ∀ a : State, SealFailKept a (l.foldl (fun a q => a.settleOne q) a) := by
    induction l with
    | nil => exact fun _ _ => rfl
    | cons q rest ih => exact fun a => (State.settleOne_sealFail a q).trans (ih _)
  unfold State.settle
  dsimp only
  refine SealFailKept.trans ((State.settleOne_sealFail s k).trans
    (hfold ((s.frm.units.map (·.1)).filter (fun q => (s.servers 8 q).contains k)) (s.settleOne k))) (SealFailKept.of_frm ?_)
  exact State.timReview_frame (pt := .frm) (by decide) (Part.same_refl _ _)

/-- Forced signal fail follows the count of a context's forced blocks. -/
theorem State.forceFail_spec (s : State) (c n : Nat) : (s.forceFail c n).cip = s.cip ∧
    ((s.forceFail c n).framer (s.frmKey c)).sealFail = decide (n ≠ 0) ∧ BlocksOnly [3, 7] s (s.forceFail c n) := by
  refine ⟨State.forceFail_frame (pt := .cip) (by decide) (Part.same_refl _ s), ?_, ?_⟩
  · unfold State.forceFail
    dsimp only
    split
    next heq => rw [heq]; simp
    next =>
      rw [State.settle_sealFail, State.setFramer_same]
      simp
  · unfold State.forceFail
    dsimp only
    split
    · exact BlocksOnly.refl _ s
    · exact State.settle_blocks (BlocksOnly.setFramer (BlocksOnly.refl _ s) _ _) _

/-! ### A context's directions -/

theorem State.setCip_same (s : State) (c : Nat) (x : CipCtx) : (s.setCip c x).cip? c = some x := tfind_tset_same ..

theorem State.cip?_congr (h : t.cip.ctxs = s.cip.ctxs) (c : Nat) : t.cip? c = s.cip? c := by
  unfold State.cip?
  rw [h]

theorem State.markUsed_spec (s : State) (k e : Nat) : (s.markUsed k e).cip.ctxs = s.cip.ctxs ∧ RegsOnly cipFields s (s.markUsed k e) := by
  unfold State.markUsed
  split
  · exact ⟨rfl, RegsOnly.refl _ s⟩
  · dsimp only
    split
    · exact ⟨rfl, RegsOnly.refl _ s⟩
    · split
      · exact ⟨rfl, RegsOnly.refl _ s⟩
      · exact ⟨rfl, State.setSlot_regsOnly s k _⟩

theorem State.needKey_spec (s : State) (c dir e deadline : Nat) :
    (s.needKey c dir e deadline).cip.ctxs = s.cip.ctxs ∧ RegsOnly cipFields s (s.needKey c dir e deadline) := by
  have hwant : (s.wantKey c dir e deadline).cip.ctxs = s.cip.ctxs ∧ RegsOnly cipFields s (s.wantKey c dir e deadline) :=
    ⟨rfl, State.wantKey_regsOnly s c dir e deadline⟩
  unfold State.needKey
  split
  · exact ⟨rfl, RegsOnly.refl _ s⟩
  · split <;> split
    · exact ⟨rfl, RegsOnly.refl _ s⟩
    · exact hwant
    · exact ⟨rfl, RegsOnly.refl _ s⟩
    · exact hwant

/-- A context whose receiving direction differs from the one given in whether it is stopped alone. -/
def RxSave (s : State) (c : Nat) (x : CipCtx) : Prop := ∃ n, s.cip? c = some { x with rx := { x.rx with stop := n } }

theorem State.stopDir_rx (hs : RxSave s c x) (cause : Nat) :
    RxSave (s.stopDir c 1 cause) c x ∧ RegsOnly cipFields s (s.stopDir c 1 cause) := by
  obtain ⟨n, hn⟩ := hs
  unfold State.stopDir
  rw [hn]
  simp only [one_ne_zero, ↓reduceIte]
  split
  · exact ⟨⟨n, hn⟩, RegsOnly.refl _ s⟩
  · exact ⟨⟨cause, State.setCip_same ..⟩, RegsOnly.raise (State.setCip_regsOnly s c _) _ _ _⟩

theorem State.resumeDir_rx (hs : RxSave s c x) : RxSave (s.resumeDir c 1) c x ∧ RegsOnly cipFields s (s.resumeDir c 1) := by
  obtain ⟨n, hn⟩ := hs
  unfold State.resumeDir
  rw [hn]
  simp only [one_ne_zero, ↓reduceIte]
  split
  · exact ⟨⟨n, hn⟩, RegsOnly.refl _ s⟩
  · exact ⟨⟨0, State.setCip_same ..⟩, RegsOnly.raise (State.setCip_regsOnly s c _) _ _ _⟩

/-- What a prediction leaves of its context, but for whether it is stopped. -/
theorem State.takePrediction_spec (hx : s.cip? c = some x) (b : Carriage) (last : Nat) :
    RxSave (s.takePrediction c b last) c { x with rx := x.rx.predict b } ∧ RegsOnly cipFields s (s.takePrediction c b last) := by
  unfold State.takePrediction
  rw [hx]
  dsimp -zeta only
  extract_lets r s1 s2 src s3 hasHalf
  obtain ⟨hused, husedR⟩ := State.markUsed_spec (s.setCip c { x with rx := r }) x.slot r.pEpoch
  obtain ⟨hneed, hneedR⟩ := State.needKey_spec s1 c 1 r.pEpoch (last + 1)
  obtain ⟨hnext, hnextR⟩ := State.needKey_spec (s1.needKey c 1 r.pEpoch (last + 1)) c 1 (r.pEpoch + 1) noDeadline
  have h2 : s2.cip.ctxs = (s.setCip c { x with rx := r }).cip.ctxs := hnext.trans (hneed.trans hused)
  have hregs2 : RegsOnly cipFields s s2 :=
    RegsOnly.trans (RegsOnly.trans (RegsOnly.trans (State.setCip_regsOnly s c _) husedR) hneedR) hnextR
  have hctxs : s3.cip.ctxs = s2.cip.ctxs := by
    show (State.cip (if _ then _ else _)).ctxs = _
    split <;> rfl
  have hregs3 : RegsOnly cipFields s s3 := RegsOnly.ite hregs2 (RegsOnly.upd hregs2)
  have hsave : RxSave s3 c { x with rx := r } :=
    ⟨r.stop, (State.cip?_congr (hctxs.trans h2) c).trans (State.setCip_same s c _)⟩
  clear_value s3 hasHalf
  split
  · exact ⟨(State.resumeDir_rx hsave).1, RegsOnly.trans hregs3 (State.resumeDir_rx hsave).2⟩
  · split
    · exact ⟨(State.stopDir_rx hsave 2).1, RegsOnly.trans hregs3 (State.stopDir_rx hsave 2).2⟩
    · split
      · exact ⟨(State.stopDir_rx hsave 3).1, RegsOnly.trans hregs3 (State.stopDir_rx hsave 3).2⟩
      · exact ⟨hsave, hregs3⟩

theorem State.countForced_eq (hx : s.cip? c = some x) :
    s.countForced c = s.setCip c { x with rx := { x.rx with forced := x.rx.forced - 1 } } := by
  unfold State.countForced
  rw [hx]

/-! ### Verdicts -/

/-- A verdict other than Pass is counted, and forces signal fail for two blocks. -/
theorem State.failBlock_spec (hx : s.cip? c = some x) (code first last frames : Nat) :
    (∃ y, (s.failBlock c code first last frames).cip? c = some y ∧ y.rx.forced = 2 ∧ y.rx.fails = (x.rx.fails + 1) % 2 ^ 32 ∧
      y.rx.passed = x.rx.passed) ∧
    (s.failBlock c code first last frames).rd Reg.CIP_AUTH_FAIL_CNT 0 = (s.rd Reg.CIP_AUTH_FAIL_CNT 0 + 1) % 2 ^ 32 := by
  obtain ⟨y, hy⟩ : ∃ y : CipCtx, y = { x with rx := { x.rx with
    forced := 2, fails := (x.rx.fails + 1) % 2 ^ 32, noTag := if code = 2 then min 65535 (x.rx.noTag + 1) else x.rx.noTag,
    ivMis := if code = 3 then min 65535 (x.rx.ivMis + 1) else x.rx.ivMis } } := ⟨_, rfl⟩
  have hfail : s.failBlock c code first last frames = ((s.setCip c y).count Reg.CIP_AUTH_FAIL_CNT 0).raiseLim 16 Ev.AUTH_FAIL c (srcCtx c)
      [(2, c), (1, code), (1, frames), (4, shortAddr first), (4, shortAddr last)] := by
    unfold State.failBlock
    rw [hx, hy]
  rw [hfail]
  refine ⟨⟨y, ?_, by rw [hy], by rw [hy], by rw [hy]⟩, ?_⟩
  · rw [State.cip?_congr (congrArg CipSt.ctxs (State.raiseLim_cip ..))]
    exact State.setCip_same s c y
  · rw [State.raiseLim_rd, State.count_rd_same', State.setCip_regsOnly s c y _ _ (by decide)]
    rfl

/-- A block's verdict by the tag that the next block's stream carries. -/
theorem State.judgeTag_spec (hx : s.cip? c = some x) (hpending : x.rx.pending = true) (g : Carriage) (b : SealedRx) :
    ∃ y, (s.judgeTag c (some g) b).cip? c = some y ∧
      (g.tag = Config.gcmTag x.rx.key x.rx.iv x.rx.aad b.before →
        y.rx.forced = x.rx.forced ∧ y.rx.fails = x.rx.fails ∧ y.rx.passed = (x.rx.passed + 1) % 2 ^ 32 ∧
        (s.judgeTag c (some g) b).rd Reg.CIP_AUTH_FAIL_CNT 0 = s.rd Reg.CIP_AUTH_FAIL_CNT 0) ∧
      (g.tag ≠ Config.gcmTag x.rx.key x.rx.iv x.rx.aad b.before →
        y.rx.forced = 2 ∧ y.rx.fails = (x.rx.fails + 1) % 2 ^ 32 ∧ y.rx.passed = x.rx.passed ∧
        (s.judgeTag c (some g) b).rd Reg.CIP_AUTH_FAIL_CNT 0 = (s.rd Reg.CIP_AUTH_FAIL_CNT 0 + 1) % 2 ^ 32) := by
  obtain ⟨z, hz⟩ : ∃ z : CipCtx, z = { x with rx := { x.rx with pending := false, inHalf := none } } := ⟨_, rfl⟩
  have hjudge : s.judgeTag c (some g) b =
      if g.tag != Config.gcmTag x.rx.key x.rx.iv x.rx.aad b.before then
        (s.setCip c z).failBlock c 1 x.rx.first x.rx.last b.frames
      else (s.setCip c z).setCip c { x with rx := { x.rx with pending := false, inHalf := none, passed := (x.rx.passed + 1) % 2 ^ 32 } } := by
    unfold State.judgeTag
    rw [hx, hz]
    dsimp only
    rw [hpending]
    rfl
  have hcnt : (s.setCip c z).rd Reg.CIP_AUTH_FAIL_CNT 0 = s.rd Reg.CIP_AUTH_FAIL_CNT 0 := State.setCip_regsOnly s c z _ _ (by decide)
  rw [hjudge]
  by_cases hgood : g.tag = Config.gcmTag x.rx.key x.rx.iv x.rx.aad b.before
  · rw [if_neg (by rw [hgood, bne_self_eq_false]; exact Bool.false_ne_true)]
    refine ⟨_, State.setCip_same .., fun _ => ⟨rfl, rfl, rfl, ?_⟩, fun hne => absurd hgood hne⟩
    rw [State.setCip_regsOnly _ c _ _ _ (by decide), hcnt]
  · rw [if_pos (bne_iff_ne.mpr hgood)]
    obtain ⟨⟨y, hy, hforced, hfails, hpassed⟩, hfailCnt⟩ :=
      State.failBlock_spec (State.setCip_same s c z) 1 x.rx.first x.rx.last b.frames
    rw [hcnt] at hfailCnt
    rw [hz] at hfails hpassed
    exact ⟨y, hy, fun heq => absurd heq hgood, fun _ => ⟨hforced, hfails, hpassed, hfailCnt⟩⟩

/-! ### KEY_EPOCH_FLIP -/

theorem State.fireFlip_spec (s : State) (f : CipFlip) :
    (s.fireFlip f).cip.flips = s.cip.flips.map (fun g => if g == f then { g with fired := true } else g) ∧
    (f.raiseCur = true → s.rd Reg.CIP_EPOCH_CUR 0 < f.epoch → (s.fireFlip f).rd Reg.CIP_EPOCH_CUR 0 = f.epoch % 65536) := by
  obtain ⟨b, hb⟩ : ∃ b : State, b =
    { s with cip := { s.cip with flips := s.cip.flips.map (fun g => if g == f then { g with fired := true } else g) } } := ⟨_, rfl⟩
  obtain ⟨g, hg⟩ : ∃ g : State → Nat × Nat → State, g = fun a t => match a.cip? t.1 with
    | none => a
    | some x => a.setCip t.1 { x with tx := { x.tx with fired := true } } := ⟨_, rfl⟩
  have hstep (a : State) (t : Nat × Nat) : CacheOnly a (g a t) := by
    rw [hg]
    dsimp only
    split
    · exact CacheOnly.refl a
    · exact State.setCip_cacheOnly ..
  obtain ⟨u, hu⟩ : ∃ u, u = f.targets.foldl g b := ⟨_, rfl⟩
  have hfire : s.fireFlip f = if f.raiseCur && u.rd Reg.CIP_EPOCH_CUR 0 < f.epoch then u.wr Reg.CIP_EPOCH_CUR 0 f.epoch else u := by
    rw [hu, hg, hb]
    rfl
  obtain ⟨-, hflips, hregs⟩ := foldl_cacheOnly hstep f.targets b
  rw [← hu] at hflips hregs
  have hcur : u.rd Reg.CIP_EPOCH_CUR 0 = s.rd Reg.CIP_EPOCH_CUR 0 := by
    rw [hregs _ _ (by decide), hb]
    rfl
  rw [hfire]
  refine ⟨?_, fun hraise hlt => ?_⟩
  · have hsame (p : Prop) [Decidable p] (v : Nat) : (if p then u.wr Reg.CIP_EPOCH_CUR 0 v else u).cip = u.cip := by
      split <;> rfl
    rw [hsame, hflips, hb]
  · rw [if_pos (by rw [hraise, hcur]; simpa using hlt), State.wr_rd_same]
    rfl

theorem completes_keyEpochFlip {f : CipFlip} (hrun : s.halted = false) (hflips : s.cip.flips.filter (fun g => !g.fired) = [f])
    (hdisp : ((s.elapse dt).waitAddr f.due).dispatched 7 (fun _ => true) = true) :
    Completes (.keyEpochFlip dt) s fun t =>
      t.addr = max (s.addr + dt) f.due ∧ t.cip.flips = s.cip.flips.map (fun g => if g == f then { g with fired := true } else g) ∧
      (f.raiseCur = true → s.rd Reg.CIP_EPOCH_CUR 0 < f.epoch → t.rd Reg.CIP_EPOCH_CUR 0 = f.epoch % 65536) ∧
      flipEntry f.due ∉ t.shf.oneShots := by
  obtain ⟨w, hw⟩ : ∃ w, w = (s.elapse dt).waitAddr f.due := ⟨_, rfl⟩
  have haddr : w.addr = max (s.addr + dt) f.due := by rw [hw]; exact State.elapse_waitAddr_addr hrun _
  have hcip : w.cip = s.cip := by rw [hw, State.waitAddr_cip]; rfl
  have hrd (g : Fld) : w.rd g 0 = s.rd g 0 := by rw [hw, State.waitAddr_rd]; rfl
  rw [← hw] at hdisp
  obtain ⟨v, hv⟩ : ∃ v : State, v =
    { w with shf := { w.shf with oneShots := w.shf.oneShots.filter (fun e => e != flipEntry f.due) } } := ⟨_, rfl⟩
  have hexec : exec (.keyEpochFlip dt) s = .next (v.fireFlip f) := by
    show execKeyEpochFlip dt s = _
    have hfl : (s.elapse dt).cip.flips.filter (fun g => !g.fired) = [f] := hflips
    unfold execKeyEpochFlip
    dsimp only
    rw [hfl]
    have hgo : ¬ (decide (w.addr < f.due) || !w.dispatched 7 (fun _ => true)) = true := by
      rw [hdisp, haddr]
      simp
    rw [hv]
    rw [hw] at hgo ⊢
    exact congrArg Host.Outcome.next (if_neg hgo)
  obtain ⟨hfl, hcur⟩ := State.fireFlip_spec v f
  have hshf : (v.fireFlip f).shf = v.shf := State.fireFlip_frame (pt := .shf) (by decide) (Part.same_refl _ v)
  have hclock : (v.fireFlip f).addr = v.addr := (State.fireFlip_frame (pt := .clock) (by decide) (Part.same_refl _ v)).2
  have hvcip : v.cip = s.cip := by rw [hv]; exact hcip
  have hvrd : v.rd Reg.CIP_EPOCH_CUR 0 = s.rd Reg.CIP_EPOCH_CUR 0 := by rw [hv]; exact hrd _
  refine ⟨_, hexec, ?_, ?_, ?_, ?_⟩
  · rw [hclock, hv]
    exact haddr
  · rw [hfl, hvcip]
  · rw [← hvrd]
    exact hcur
  · rw [hshf, hv]
    simp

/-! ### SEALED_BLOCK_TX -/

/-- The context that a sending direction, neither announcing nor announced, leaves as it begins a block. -/
def State.sealedNext (s : State) (ctx : Nat) (x : CipCtx) (before : List Nat) : CipCtx :=
  { x with tx := { x.tx with
    stream := (s.sealStream ctx x (s.tagBefore x.tx before)).bytes, key := (s.sealKey ctx x).1, iv := s.sealIv ctx x,
    mseq := (x.tx.mseq + 1) % 2 ^ 32, ctr := if x.tx.stop = 0 then x.tx.ctr + 1 else x.tx.ctr,
    warned := x.tx.warned || (decide (x.tx.stop = 0) && decide (2 ^ 46 ≤ x.tx.ctr) && !x.tx.warned),
    inHalf := if x.tx.stop = 0 then s.halfOf x.slot x.tx.epoch else none,
    blocks := if x.tx.stop = 0 then (x.tx.blocks + 1) % 2 ^ 32 else x.tx.blocks } }

theorem State.sendBlock_eq (s : State) (ctx : Nat) (before : List Nat) (hann : x.tx.announced = false) (hflip : x.tx.flip = none) :
    s.sendBlock ctx x before = (s.setCip ctx (s.sealedNext ctx x before)).draw.raiseIf
      (decide (x.tx.stop = 0) && decide (2 ^ 46 ≤ x.tx.ctr) && !x.tx.warned) Ev.CTR_WARN (srcCtx ctx)
      [(2, ctx), (1, 0), (2, x.tx.epoch)] := by
  obtain ⟨slot, tx, rx, txCache, rxCache⟩ := x
  obtain ⟨epoch, ctr, flip, fired, announced, stop, warned, inHalf, mseq, blocks, stream, key, iv⟩ := tx
  cases hann
  cases hflip
  unfold State.sendBlock State.sealedNext
  rfl

theorem exec_sealedBlockTx {ctx : Nat} {before : List Nat} (hx : s.cip? ctx = some x) (hann : x.tx.announced = false)
    (hflip : x.tx.flip = none) (hgo : x.tx.stop ≠ 0 ∨ s.txCause x = 0) :
    exec (.sealedBlockTx dt ctx before) s =
      .next (((s.elapse dt).setCip ctx ((s.elapse dt).sealedNext ctx x before)).draw.raiseIf
        (decide (x.tx.stop = 0) && decide (2 ^ 46 ≤ x.tx.ctr) && !x.tx.warned) Ev.CTR_WARN (srcCtx ctx)
        [(2, ctx), (1, 0), (2, x.tx.epoch)]) := by
  obtain ⟨a, ha⟩ : ∃ a, a = s.elapse dt := ⟨_, rfl⟩
  have hxa : a.cip? ctx = some x := by rw [ha]; exact hx
  have hcause : a.txCause x = s.txCause x := by rw [ha]; rfl
  have henter : a.enterEpoch ctx x = a := by
    unfold State.enterEpoch
    rw [hann]
    rfl
  have hstay : (decide (x.tx.stop = 0) && a.txCause x != 0) = false := by
    rw [hcause]
    rcases hgo with hs | hc
    · rw [decide_eq_false hs]; rfl
    · rw [hc]; simp
  show execSealedBlockTx dt ctx before s = _
  unfold execSealedBlockTx
  rw [← ha]
  dsimp only
  rw [hxa]
  dsimp only
  rw [henter, hxa]
  dsimp only
  rw [hstay, if_neg Bool.false_ne_true, hxa]
  exact congrArg Host.Outcome.next (State.sendBlock_eq a ctx before hann hflip)

theorem State.drawn_cip? (s : State) (ctx : Nat) (x : CipCtx) (w : Bool) (code src : Nat) (d : List (Nat × Nat)) :
    ((s.setCip ctx x).draw.raiseIf w code src d).cip? ctx = some x := by
  rw [State.cip?_congr (congrArg CipSt.ctxs (State.raiseIf_cip ..))]
  exact State.setCip_same s ctx x

theorem completes_sealedBlockTx {ctx : Nat} {before : List Nat} (hx : s.cip? ctx = some x) (hann : x.tx.announced = false)
    (hflip : x.tx.flip = none) (hstop : x.tx.stop = 0) (hcause : s.txCause x = 0) :
    Completes (.sealedBlockTx dt ctx before) s fun t =>
      ∃ y, t.cip? ctx = some y ∧ y.tx.epoch = x.tx.epoch ∧ y.tx.ctr = x.tx.ctr + 1 ∧ y.tx.stop = 0 ∧
        y.tx.mseq = (x.tx.mseq + 1) % 2 ^ 32 ∧ y.tx.blocks = (x.tx.blocks + 1) % 2 ^ 32 ∧ y.rx = x.rx ∧
        y.tx.stream = (s.sealStream ctx x (s.tagBefore x.tx before)).bytes :=
  ⟨_, exec_sealedBlockTx hx hann hflip (Or.inr hcause), _, State.drawn_cip? .., rfl, if_pos hstop, hstop, rfl, if_pos hstop, rfl, rfl⟩

theorem completes_sealedBlockTx_stopped {ctx : Nat} {before : List Nat} (hx : s.cip? ctx = some x) (hann : x.tx.announced = false)
    (hflip : x.tx.flip = none) (hstop : x.tx.stop ≠ 0) :
    Completes (.sealedBlockTx dt ctx before) s fun t =>
      (∃ y, t.cip? ctx = some y ∧ y.tx.ctr = x.tx.ctr ∧ y.tx.stop = x.tx.stop ∧ y.tx.mseq = (x.tx.mseq + 1) % 2 ^ 32 ∧
        y.tx.blocks = x.tx.blocks) ∧ t.io = s.io := by
  refine ⟨_, exec_sealedBlockTx hx hann hflip (Or.inl hstop), ⟨_, State.drawn_cip? .., if_neg hstop, rfl, rfl, if_neg hstop⟩, ?_⟩
  rw [decide_eq_false hstop]
  rfl

/-! ### SEALED_BLOCK_RX -/

theorem exec_sealedBlockRx {ctx : Nat} {b : SealedRx} {f : Carriage} (hx : s.cip? ctx = some x) (hf : readCarriage b.stream = some f)
    {u : State} {y : CipCtx}
    (hu : u = if !x.rx.running then
        (if x.rx.epoch ≤ f.epoch then ((s.elapse dt).countForced ctx).takePrediction ctx f b.last else (s.elapse dt).countForced ctx)
      else (((s.elapse dt).countForced ctx).judgeTag ctx (some f) b).runBlock ctx f b)
    (hy : u.cip? ctx = some y) : exec (.sealedBlockRx dt ctx b) s = .next (u.forceFail ctx y.rx.forced) := by
  obtain ⟨a, ha⟩ : ∃ a, a = s.elapse dt := ⟨_, rfl⟩
  have hxa : a.cip? ctx = some x := by rw [ha]; exact hx
  rw [← ha] at hu
  show execSealedBlockRx dt ctx b s = _
  unfold execSealedBlockRx
  rw [← ha]
  dsimp only
  rw [hxa, hf]
  dsimp only
  rw [Option.isSome_some, if_pos rfl, ← hu, hy]

theorem completes_sealedBlockRx_seeking {ctx : Nat} {b : SealedRx} {f : Carriage} (hx : s.cip? ctx = some x)
    (hseek : x.rx.running = false) (hf : readCarriage b.stream = some f) (hepoch : x.rx.epoch ≤ f.epoch) :
    Completes (.sealedBlockRx dt ctx b) s fun t =>
      ∃ y, t.cip? ctx = some y ∧ y.rx.running = true ∧ y.rx.epoch = f.epoch ∧
        y.rx.pEpoch = (if f.flip then f.next else f.epoch) ∧ y.rx.pMseq = (f.mseq + 1) % 2 ^ 32 := by
  have hcount := State.countForced_eq (s := s.elapse dt) hx
  obtain ⟨⟨n, hn⟩, -⟩ := State.takePrediction_spec
    ((congrArg (State.cip? · ctx) hcount).trans (State.setCip_same (s.elapse dt) ctx _)) f b.last
  refine ⟨_, exec_sealedBlockRx hx hf (by rw [hseek, Bool.not_false, if_pos rfl, if_pos hepoch]) hn, _,
    (State.cip?_congr (congrArg CipSt.ctxs (State.forceFail_spec ..).1) ctx).trans hn, rfl, rfl, rfl, rfl⟩

theorem completes_sealedBlockRx_running {ctx : Nat} {b : SealedRx} {f : Carriage} (hx : s.cip? ctx = some x)
    (hrunning : x.rx.running = true) (hpending : x.rx.pending = true) (hf : readCarriage b.stream = some f) (hstop : f.stop = true) :
    Completes (.sealedBlockRx dt ctx b) s fun t =>
      let good := f.tag = Config.gcmTag x.rx.key x.rx.iv x.rx.aad b.before
      ∃ y, t.cip? ctx = some y ∧
        (good → y.rx.forced = x.rx.forced - 1 ∧ y.rx.fails = x.rx.fails ∧ y.rx.passed = (x.rx.passed + 1) % 2 ^ 32 ∧
          t.rd Reg.CIP_AUTH_FAIL_CNT 0 = s.rd Reg.CIP_AUTH_FAIL_CNT 0) ∧
        (¬good → y.rx.forced = 2 ∧ y.rx.fails = (x.rx.fails + 1) % 2 ^ 32 ∧ y.rx.passed = x.rx.passed ∧
          (t.framer (s.frmKey ctx)).sealFail = true ∧
          t.rd Reg.CIP_AUTH_FAIL_CNT 0 = (s.rd Reg.CIP_AUTH_FAIL_CNT 0 + 1) % 2 ^ 32) := by
  obtain ⟨z, hz⟩ : ∃ z : CipCtx, z = { x with rx := { x.rx with forced := x.rx.forced - 1 } } := ⟨_, rfl⟩
  obtain ⟨a, ha⟩ : ∃ a, a = (s.elapse dt).setCip ctx z := ⟨_, rfl⟩
  have hcount : (s.elapse dt).countForced ctx = a := by rw [ha, hz]; exact State.countForced_eq hx
  have hza : a.cip? ctx = some z := by rw [ha]; exact State.setCip_same ..
  have hcnt : a.rd Reg.CIP_AUTH_FAIL_CNT 0 = s.rd Reg.CIP_AUTH_FAIL_CNT 0 := by
    rw [ha]
    exact State.setCip_regsOnly (s.elapse dt) ctx z _ _ (by decide)
  have hovm : a.ovm = s.ovm := by rw [ha]; rfl
  obtain ⟨y, hy, hgood, hbad⟩ := State.judgeTag_spec hza (by rw [hz]; exact hpending) f b
  obtain ⟨j, hj⟩ : ∃ j, j = a.judgeTag ctx (some f) b := ⟨_, rfl⟩
  have hovmJ : j.ovm = s.ovm := by
    rw [hj]
    exact (State.judgeTag_frame (pt := .ovm) (by decide) (Part.same_refl _ a)).trans hovm
  rw [← hj] at hy hgood hbad
  have hrun : j.runBlock ctx f b = j.takePrediction ctx f b.last := by
    unfold State.runBlock
    rw [hy]
    dsimp only
    rw [if_pos hstop]
  obtain ⟨⟨n, hn⟩, hregsU⟩ := State.takePrediction_spec hy f b.last
  obtain ⟨u, hu⟩ : ∃ u, u = j.takePrediction ctx f b.last := ⟨_, rfl⟩
  have hovmU : u.ovm = s.ovm := by
    rw [hu]
    exact (State.takePrediction_frame (pt := .ovm) (by decide) (Part.same_refl _ j)).trans hovmJ
  have hkey : u.frmKey ctx = s.frmKey ctx := by
    unfold State.frmKey State.ctx?
    rw [hovmU]
  rw [← hu] at hn hregsU
  obtain ⟨hcipF, hfail, hblocks⟩ := State.forceFail_spec u ctx y.rx.forced
  have hcntF : (u.forceFail ctx y.rx.forced).rd Reg.CIP_AUTH_FAIL_CNT 0 = j.rd Reg.CIP_AUTH_FAIL_CNT 0 :=
    (hblocks.field (b := 11) (n := 1) (by decide) (by decide) (by decide)).trans (hregsU _ _ (by decide))
  refine ⟨_, exec_sealedBlockRx hx hf (u := u) (by rw [hrunning, Bool.not_true, if_neg Bool.false_ne_true, hcount, ← hj, hrun, hu]) hn,
    _, (State.cip?_congr (congrArg CipSt.ctxs hcipF) ctx).trans hn, fun hg => ?_, fun hg => ?_⟩
  · rw [hz] at hgood
    obtain ⟨hforced, hfails, hpassed, hcntJ⟩ := hgood hg
    exact ⟨hforced, hfails, hpassed, hcntF.trans (hcntJ.trans hcnt)⟩
  · rw [hz] at hbad
    obtain ⟨hforced, hfails, hpassed, hcntJ⟩ := hbad hg
    refine ⟨hforced, hfails, hpassed, ?_, hcntF.trans (hcntJ.trans (by rw [hcnt]))⟩
    show ((u.forceFail ctx y.rx.forced).framer (s.frmKey ctx)).sealFail = true
    rw [← hkey, hfail, hforced]
    rfl

end

end Sys2Proof.Machine
end


section
/-! PROOFS. Derivations, zeroised halves, reservations and bulk messages (R358, R359, R365, R374 to R377, R380). -/

namespace Sys2Proof.Machine

section
variable {s t : State} {dt : Nat}

/-! ### KEY_DERIVED -/

theorem State.contextKey_isSome_congr (hcip : t.cip.ctxs = s.cip.ctxs) (hslots : t.cip.slots = s.cip.slots)
    (hpair : t.rd Reg.CIP_PAIR_ID 0 = s.rd Reg.CIP_PAIR_ID 0) (c dir e : Nat) :
    (t.contextKey c dir e).isSome = (s.contextKey c dir e).isSome := by
  have hslot (k : Nat) : t.keySlot k = s.keySlot k := State.keySlot_congr hslots k
  have hhalf (k : Nat) : t.halfOf k e = s.halfOf k e := by
    unfold State.halfOf
    rw [hslot, hpair]
  unfold State.contextKey
  rw [hcip]
  split
  · rfl
  · rw [hhalf]
    split
    · rfl
    · rw [hslot]
      split
      · rfl
      · simp only [Option.isSome_some]

theorem State.contextKey_epoch {c dir e : Nat} {d : DerivedKey} (h : s.contextKey c dir e = some d) : d.epoch = e := by
  unfold State.contextKey at h
  split at h
  · cases h
  · split at h
    · cases h
    · split at h
      · cases h
      · cases h
        rfl

theorem hasKey_addKey (l : List DerivedKey) (d : DerivedKey) (cur : Nat) : hasKey (addKey l d cur) d.epoch = true := by
  simp [hasKey, addKey]

/-- A context with a key derived for one of its directions. -/
def CipCtx.withKey (x : CipCtx) (dir : Nat) (d : DerivedKey) : CipCtx :=
  if dir = 0 then { x with txCache := addKey x.txCache d x.tx.epoch } else { x with rxCache := addKey x.rxCache d x.rx.epoch }

theorem CipCtx.withKey_spec (x : CipCtx) (dir : Nat) (d : DerivedKey) :
    hasKey (if dir = 0 then (x.withKey dir d).txCache else (x.withKey dir d).rxCache) d.epoch = true ∧
    (x.withKey dir d).tx = x.tx ∧ (x.withKey dir d).rx = x.rx := by
  unfold CipCtx.withKey
  by_cases hdir : dir = 0
  · rw [if_pos hdir, if_pos hdir]
    exact ⟨hasKey_addKey .., rfl, rfl⟩
  · rw [if_neg hdir, if_neg hdir]
    exact ⟨hasKey_addKey .., rfl, rfl⟩

theorem completes_keyDerived {r : DeriveReq} {x : CipCtx} (hreq : firstReq s.cip.requests = some r) (hx : s.cip? r.ctx = some x)
    (hkey : (s.contextKey r.ctx r.dir r.epoch).isSome = true) :
    Completes (.keyDerived dt) s fun t =>
      t.time = max (s.time + dt) (r.since + 25) ∧ r ∉ t.cip.requests ∧
      (∃ y, t.cip? r.ctx = some y ∧ hasKey (if r.dir = 0 then y.txCache else y.rxCache) r.epoch = true ∧ y.tx = x.tx ∧
        y.rx = x.rx) ∧
      t.rd Reg.CIP_DERIVE_CNT 0 = (s.rd Reg.CIP_DERIVE_CNT 0 + 1) % 2 ^ 32 ∧ t.io = s.io := by
  obtain ⟨a, ha⟩ : ∃ a, a = (s.elapse dt).elapse (r.since + 25 - (s.elapse dt).time) := ⟨_, rfl⟩
  obtain ⟨b, hb⟩ : ∃ b : State, b = State.busyRegs { a with cip := { a.cip with requests := a.cip.requests.filter (fun q => q != r) } } :=
    ⟨_, rfl⟩
  have hctxs : b.cip.ctxs = s.cip.ctxs := by rw [hb, ha]; rfl
  have hslots : b.cip.slots = s.cip.slots := by rw [hb, ha]; rfl
  have hregs : RegsOnly cipFields s b := by
    rw [hb, ha]
    exact State.busyRegs_regsOnly _
  have hreqs : r ∉ b.cip.requests := by
    rw [hb]
    show r ∉ a.cip.requests.filter (fun q => q != r)
    simp
  have htime : b.time = max (s.time + dt) (r.since + 25) := by
    rw [hb, ha]
    show s.time + dt + (r.since + 25 - (s.time + dt)) = _
    omega
  have hio : b.io = s.io := by rw [hb, ha]; rfl
  have hsome := State.contextKey_isSome_congr hctxs hslots (hregs _ _ (by decide)) r.ctx r.dir r.epoch
  rw [hkey] at hsome
  obtain ⟨d, hd⟩ := Option.isSome_iff_exists.mp hsome
  have hxb : b.cip? r.ctx = some x := (State.cip?_congr hctxs _).trans hx
  have hexec : exec (.keyDerived dt) s = .next ((b.setCip r.ctx (x.withKey r.dir d)).count Reg.CIP_DERIVE_CNT 0) := by
    show execKeyDerived dt s = _
    have hreq' : firstReq (s.elapse dt).cip.requests = some r := hreq
    unfold execKeyDerived
    dsimp only
    rw [hreq']
    dsimp only
    rw [← ha, ← hb, hd, hxb]
    rfl
  obtain ⟨hhas, htx, hrx⟩ := CipCtx.withKey_spec x r.dir d
  rw [State.contextKey_epoch hd] at hhas
  have hcnt : (b.setCip r.ctx (x.withKey r.dir d)).rd Reg.CIP_DERIVE_CNT 0 = s.rd Reg.CIP_DERIVE_CNT 0 :=
    (State.setCip_regsOnly b r.ctx _ _ _ (by decide)).trans (hregs _ _ (by decide))
  refine ⟨_, hexec, htime, hreqs, ⟨_, State.setCip_same b r.ctx _, hhas, htx, hrx⟩, ?_, hio⟩
  rw [State.count_rd_same', hcnt]
  rfl

/-! ### HALF_ZEROISE -/

theorem completes_halfZeroise {slot : Nat} {k : KeyHalf} (hkept : (s.keySlot slot).erasing = false) (hk : (s.keySlot slot).h0 = some k)
    (hused : k.used = true) (hidle : s.halfInUse slot 0 = false) (hsent : s.halfInFlight slot 0 = false) :
    Completes (.halfZeroise dt slot) s fun t =>
      t.keySlot slot = { s.keySlot slot with h0 := none } ∧ t.io = s.io ∧
      RegsOnly [(Reg.CIP_ROOT_STATE, 0), (Reg.CIP_WRAP_LOADED_LO, 0), (Reg.CIP_WRAP_LOADED_HI, 0)] s t := by
  obtain ⟨a, ha⟩ : ∃ a, a = s.elapse dt := ⟨_, rfl⟩
  have hslot : a.keySlot slot = s.keySlot slot := by rw [ha]; rfl
  have hidle' : a.halfInUse slot 0 = false := by rw [ha]; exact hidle
  have hsent' : a.halfInFlight slot 0 = false := by rw [ha]; exact hsent
  have hhalf : (s.keySlot slot).half 0 = some k := hk
  have hexec : exec (.halfZeroise dt slot) s = .next (a.setSlot slot { s.keySlot slot with h0 := none }) := by
    show execHalfZeroise dt slot s = _
    unfold execHalfZeroise
    rw [← ha]
    dsimp only
    rw [hslot, hkept, if_neg Bool.false_ne_true]
    refine congrArg Host.Outcome.next (if_pos ?_)
    beta_reduce
    rw [hhalf]
    dsimp only
    rw [hused, hidle', hsent']
    rfl
  refine ⟨_, hexec, (State.keySlot_setSlot ..).trans (if_pos rfl), by rw [ha]; rfl, ?_⟩
  unfold State.setSlot State.slotRegs
  iterate 3 refine RegsOnly.wr ?_ _ _ _ (by simp)
  rw [ha]
  exact RegsOnly.refl _ s

/-! ### EPOCH_RESERVATION -/

theorem completes_epochReservation {stored : Bool} {e : Nat} (hwant : s.cip.resvWant = some e) :
    Completes (.epochReservation dt stored) s fun t =>
      if stored then
        t.rd Reg.CIP_EPOCH_RESV 0 = min 65535 (e + 16) ∧ t.cip.resvWant = none ∧ t.cip.resvFail = false ∧
        Raised t Ev.EPOCH_RESERVED srcDevice [(2, min 65535 (e + 16))] ∧ RegsOnly [(Reg.CIP_EPOCH_RESV, 0)] s t
      else
        t.cip.resvFail = true ∧ t.cip.resvWant = some e ∧ Raised t Ev.EPOCH_RESV_FAIL srcDevice [(2, min 65535 (e + 16))] ∧
        RegsOnly [] s t := by
  have hexec : exec (.epochReservation dt stored) s = .next ((s.elapse dt).reserve e stored false) := by
    show execEpochReservation dt stored s = _
    have hwant' : (s.elapse dt).cip.resvWant = some e := hwant
    unfold execEpochReservation
    dsimp only
    rw [hwant']
  refine ⟨_, hexec, ?_⟩
  cases stored with
  | true =>
    rw [if_pos rfl]
    have hrd := State.reserve_stored_rd (s.elapse dt) e false
    unfold State.reserve at hrd ⊢
    exact ⟨hrd, rfl, rfl, State.raise_raised .., RegsOnly.wr (RegsOnly.refl _ s) _ _ _ (List.mem_cons_self ..)⟩
  | false =>
    rw [if_neg Bool.false_ne_true]
    unfold State.reserve
    exact ⟨rfl, rfl, State.raise_raised .., RegsOnly.refl _ s⟩

/-! ### BULK_MESSAGE -/

/-- The message that a device gives its number, and the counters it leaves (R348, R374). -/
theorem State.numberBulk_spec (s : State) (hkeyed : s.bulkKeyed = true) (m : BulkMsg) :
    (∃ ctrs, (s.numberBulk m).1 = { s with cip := { s.cip with bulkCtr := ctrs } }) ∧
    (m.opening = true → (s.numberBulk m).2 = m) ∧
    (m.opening = false → (s.numberBulk m).2 = { m with
      iv := s.unitBit * 2 ^ 47 + tget 0 s.cip.bulkCtr (4 * m.nonce + m.typ) % 2 ^ 47, pair := s.rd Reg.CIP_PAIR_ID 0 }) := by
  unfold State.numberBulk
  cases hopen : m.opening with
  | true => exact ⟨⟨s.cip.bulkCtr, rfl⟩, fun _ => rfl, fun hf => Bool.noConfusion hf⟩
  | false =>
    rw [if_neg (by rw [hkeyed]; decide)]
    exact ⟨⟨_, rfl⟩, fun ht => Bool.noConfusion ht, fun _ => rfl⟩

theorem State.setPipe_same (s : State) (p : Nat) (x : BulkPipe) : tget {} (s.setPipe p x).cip.pipes p = x :=
  (tget_tset ..).trans (if_pos rfl)

theorem State.setPipe_regsOnly (s : State) (p : Nat) (x : BulkPipe) : RegsOnly [(Reg.CIP_PIPE_BULK, 0)] s (s.setPipe p x) :=
  RegsOnly.wr (RegsOnly.refl _ s) _ _ _ (List.mem_cons_self ..)

theorem completes_bulkMessage {m : BulkMsg} {p : Nat} (hkeyed : s.bulkKeyed = true) (hpipe : s.bulkPipe = some p)
    (hfree : (tget {} s.cip.pipes p).run = none) :
    Completes (.bulkMessage dt m) s fun t =>
      (∃ r, (tget {} t.cip.pipes p).run = some r ∧ r.keyed = true ∧ r.order = s.cip.arrivals ∧
        (m.opening = true → r.msg = m) ∧
        (m.opening = false → r.msg = { m with
          iv := s.unitBit * 2 ^ 47 + tget 0 s.cip.bulkCtr (4 * m.nonce + m.typ) % 2 ^ 47, pair := s.rd Reg.CIP_PAIR_ID 0 })) ∧
      t.io = s.io ∧ RegsOnly [(Reg.CIP_PIPE_BULK, 0)] s t := by
  obtain ⟨⟨ctrs, hctrs⟩, hopening, hsealing⟩ := State.numberBulk_spec (s.elapse dt) hkeyed m
  obtain ⟨r, hr⟩ : ∃ r : BulkRun, r = { msg := ((s.elapse dt).numberBulk m).2, keyed := true, order := s.cip.arrivals } := ⟨_, rfl⟩
  obtain ⟨a, ha⟩ : ∃ a : State, a = { s.elapse dt with cip := { s.cip with bulkCtr := ctrs, arrivals := s.cip.arrivals + 1 } } := ⟨_, rfl⟩
  have hkeyed' : State.bulkKeyed { s.elapse dt with cip := { (s.elapse dt).cip with bulkCtr := ctrs } } = true := hkeyed
  have hpipe' : a.bulkPipe = some p := by rw [ha]; exact hpipe
  have hfree' : (tget {} a.cip.pipes p).run = none := by rw [ha]; exact hfree
  have hmeet : a.meetPipe p r = a.setPipe p { tget {} a.cip.pipes p with run := some r } := by
    unfold State.meetPipe
    dsimp only
    rw [hfree']
  have hexec : exec (.bulkMessage dt m) s = .next (a.meetPipe p r) := by
    show execBulkMessage dt m s = _
    unfold execBulkMessage
    dsimp only
    rw [hctrs, hkeyed', Bool.not_true, if_neg Bool.false_ne_true]
    rw [ha] at hpipe' ⊢
    rw [hr]
    refine congrArg Host.Outcome.next ?_
    split
    next q hq => exact Option.some.inj (hq.symm.trans hpipe') ▸ rfl
    next hq => exact absurd (hq.symm.trans hpipe') (by simp)
  rw [hmeet] at hexec
  refine ⟨_, hexec, ⟨r, by rw [State.setPipe_same], by rw [hr], by rw [hr], ?_, ?_⟩, by rw [ha]; rfl, ?_⟩
  · rw [hr]
    exact hopening
  · rw [hr]
    exact hsealing
  · refine RegsOnly.trans ?_ (State.setPipe_regsOnly a p _)
    rw [ha]
    exact RegsOnly.refl _ s

/-! ### BULK_OPEN -/

theorem State.bulkKey_congr (hslots : t.cip.slots = s.cip.slots) (hpair : t.rd Reg.CIP_PAIR_ID 0 = s.rd Reg.CIP_PAIR_ID 0) (m : BulkMsg) :
    t.bulkKey m = s.bulkKey m := by
  unfold State.bulkKey State.newestHalf
  rw [State.keySlot_congr hslots, hpair]

theorem State.bulkTag_congr (hkey : ∀ m, t.bulkKey m = s.bulkKey m) (m : BulkMsg) (text : List Nat) : t.bulkTag m text = s.bulkTag m text := by
  unfold State.bulkTag
  rw [hkey]

theorem State.sealBulk_congr (hkey : ∀ m, t.bulkKey m = s.bulkKey m) (m : BulkMsg) : t.sealBulk m = s.sealBulk m := by
  unfold State.sealBulk
  dsimp only
  rw [hkey, State.bulkTag_congr hkey]

/-- A pipeline whose message ends with none behind it stands empty. -/
theorem State.emptyPipe_spec (s : State) (dt pipe : Nat) :
    (∀ m, ((s.elapse dt).setPipe pipe {}).bulkKey m = s.bulkKey m) ∧
    RegsOnly [(Reg.CIP_PIPE_BULK, 0)] s ((s.elapse dt).setPipe pipe {}) := by
  have hregs := State.setPipe_regsOnly (s.elapse dt) pipe {}
  exact ⟨State.bulkKey_congr (s := s.elapse dt) rfl (hregs _ _ (by decide)), hregs⟩

/-- What a bulk result leaves: the results of its consumer, and, for a failed tag, the count. -/
theorem State.bulkResult_spec (s : State) (p : Nat) (m : BulkMsg) (res : Nat) :
    (s.bulkResult p m res).cip.pipes = s.cip.pipes ∧ (s.bulkResult p m res).cip.results = ((m, res) :: s.cip.results).take 256 ∧
    (res = 0 → (s.bulkResult p m res).regs = s.regs) ∧
    (res = 1 ∨ res = 2 → (s.bulkResult p m res).rd Reg.CIP_BULK_AUTH_FAIL_CNT 0 = (s.rd Reg.CIP_BULK_AUTH_FAIL_CNT 0 + 1) % 2 ^ 32 ∧
      RegsOnly [(Reg.CIP_BULK_AUTH_FAIL_CNT, 0)] s (s.bulkResult p m res)) := by
  obtain ⟨b, hb⟩ : ∃ b : State, b = { s with cip := { s.cip with results := ((m, res) :: s.cip.results).take 256 } } := ⟨_, rfl⟩
  have hbad : s.bulkResult p m res = if res = 1 || res = 2 then
      (b.count Reg.CIP_BULK_AUTH_FAIL_CNT 0).raise Ev.BULK_AUTH_FAIL (srcPipe p)
        [(1, m.typ), (1, p), (6, m.iv % 2 ^ 47), (1, ofBool (res == 2))] else b := by
    rw [hb]
    rfl
  have hregs : b.regs = s.regs := by rw [hb]
  have hcip : (s.bulkResult p m res).cip = b.cip := by
    rw [hbad]
    split <;> rfl
  refine ⟨by rw [hcip, hb], by rw [hcip, hb], fun h0 => ?_, fun hfail => ?_⟩
  · rw [hbad, h0]
    exact hregs
  · rw [hbad, if_pos (by simpa using hfail)]
    have hcnt : b.rd Reg.CIP_BULK_AUTH_FAIL_CNT 0 = s.rd Reg.CIP_BULK_AUTH_FAIL_CNT 0 := regsOnly_of_regs hregs [] _ _ (by simp)
    refine ⟨?_, RegsOnly.raise (RegsOnly.count (regsOnly_of_regs hregs _) (List.mem_cons_self ..)) _ _ _⟩
    rw [State.raise_rd, State.count_rd_same', hcnt]
    rfl

section
variable {pipe : Nat} {q : BulkRun} (hrun : (tget {} s.cip.pipes pipe).run = some q) (hsusp : (tget {} s.cip.pipes pipe).suspended = [])
  (hwait : (tget {} s.cip.pipes pipe).waiting = [])
include hrun hsusp hwait

theorem exec_bulkOpen : exec (.bulkOpen dt pipe) s =
    .next (if !q.msg.opening then ((s.elapse dt).setPipe pipe {}).bulkResult pipe (s.sealBulk q.msg) 0
      else ((s.elapse dt).setPipe pipe {}).bulkResult pipe q.msg
        (if q.msg.tag = s.bulkTag q.msg q.msg.text then 0 else if q.msg.early then 2 else 1)) := by
  obtain ⟨hkey, -⟩ := State.emptyPipe_spec s dt pipe
  obtain ⟨x, hx⟩ : ∃ x : BulkPipe, x = tget {} s.cip.pipes pipe := ⟨_, rfl⟩
  rw [← hx] at hrun hsusp hwait
  have hx' : tget {} (s.elapse dt).cip.pipes pipe = x := hx.symm
  rw [← State.sealBulk_congr hkey, ← State.bulkTag_congr hkey]
  show execBulkOpen dt pipe s = _
  unfold execBulkOpen
  dsimp only
  rw [hx', hrun, hsusp, hwait]
  rfl

theorem completes_bulkOpen_sealed (hseal : q.msg.opening = false) :
    Completes (.bulkOpen dt pipe) s fun t =>
      (tget {} t.cip.pipes pipe).run = none ∧ t.cip.results = ((s.sealBulk q.msg, 0) :: s.cip.results).take 256 ∧
      RegsOnly [(Reg.CIP_PIPE_BULK, 0)] s t := by
  have hexec := exec_bulkOpen (dt := dt) hrun hsusp hwait
  rw [hseal, Bool.not_false, if_pos rfl] at hexec
  obtain ⟨b, hb⟩ : ∃ b, b = (s.elapse dt).setPipe pipe {} := ⟨_, rfl⟩
  obtain ⟨-, hregs⟩ := State.emptyPipe_spec s dt pipe
  obtain ⟨hpipes, hresults, hgood, -⟩ := State.bulkResult_spec b pipe (s.sealBulk q.msg) 0
  rw [← hb] at hexec hregs
  refine ⟨_, hexec, ?_, ?_, RegsOnly.of_regs hregs (hgood rfl)⟩
  · rw [hpipes, hb, State.setPipe_same]
  · rw [hresults, hb]
    rfl

theorem completes_bulkOpen_opened (hopen : q.msg.opening = true) :
    Completes (.bulkOpen dt pipe) s fun t =>
      let good := q.msg.tag = s.bulkTag q.msg q.msg.text
      (tget {} t.cip.pipes pipe).run = none ∧
      t.cip.results = ((q.msg, if good then 0 else if q.msg.early then 2 else 1) :: s.cip.results).take 256 ∧
      (good → RegsOnly [(Reg.CIP_PIPE_BULK, 0)] s t) ∧
      (¬good → t.rd Reg.CIP_BULK_AUTH_FAIL_CNT 0 = (s.rd Reg.CIP_BULK_AUTH_FAIL_CNT 0 + 1) % 2 ^ 32 ∧
        RegsOnly [(Reg.CIP_PIPE_BULK, 0), (Reg.CIP_BULK_AUTH_FAIL_CNT, 0)] s t) := by
  have hexec := exec_bulkOpen (dt := dt) hrun hsusp hwait
  rw [hopen, Bool.not_true, if_neg Bool.false_ne_true] at hexec
  obtain ⟨b, hb⟩ : ∃ b, b = (s.elapse dt).setPipe pipe {} := ⟨_, rfl⟩
  obtain ⟨res, hres⟩ : ∃ res, res = if q.msg.tag = s.bulkTag q.msg q.msg.text then 0 else if q.msg.early then 2 else 1 := ⟨_, rfl⟩
  obtain ⟨-, hregs⟩ := State.emptyPipe_spec s dt pipe
  obtain ⟨hpipes, hresults, hgood, hbad⟩ := State.bulkResult_spec b pipe q.msg res
  rw [← hb, ← hres] at hexec
  rw [← hb] at hregs
  refine ⟨_, hexec, ?_, ?_, fun hg => ?_, fun hg => ?_⟩
  · rw [hpipes, hb, State.setPipe_same]
  · rw [hresults, hb, hres]
    rfl
  · exact RegsOnly.of_regs hregs (hgood (hres.trans (if_pos hg)))
  · have hfail : res = 1 ∨ res = 2 := by
      rw [hres, if_neg hg]
      split
      · exact Or.inr rfl
      · exact Or.inl rfl
    obtain ⟨hcnt, honly⟩ := hbad hfail
    refine ⟨?_, RegsOnly.trans (RegsOnly.mono hregs ?_) (RegsOnly.mono honly ?_)⟩
    · rw [hcnt, hregs _ _ (by decide)]
    · exact fun x hx => List.mem_cons.mpr (Or.inl (List.mem_singleton.mp hx))
    · exact fun x hx => List.mem_cons_of_mem _ hx

end

end

/-- Settles O42, command by command. -/
theorem cipherEventsTakeEffect : Obligations.CipherEventsTakeEffect := by
  unfold Obligations.CipherEventsTakeEffect
  intro s dt
  exact ⟨fun f hrun hflips hdisp => completes_keyEpochFlip hrun hflips hdisp,
    fun ctx x before hx hann hflip hstop hcause => completes_sealedBlockTx hx hann hflip hstop hcause,
    fun ctx x before hx hann hflip hstop => completes_sealedBlockTx_stopped hx hann hflip hstop,
    fun ctx x b f hx hseek hf hepoch => completes_sealedBlockRx_seeking hx hseek hf hepoch,
    fun ctx x b f hx hrunning hpending hf hstop => completes_sealedBlockRx_running hx hrunning hpending hf hstop,
    fun r x hreq hx hkey => completes_keyDerived hreq hx hkey,
    fun slot k hkept hk hused hidle hsent => completes_halfZeroise hkept hk hused hidle hsent,
    fun stored e hwant => completes_epochReservation hwant,
    fun m p hkeyed hpipe hfree => completes_bulkMessage hkeyed hpipe hfree,
    fun pipe q hrun hsusp hwait hseal => completes_bulkOpen_sealed hrun hsusp hwait hseal,
    fun pipe q hrun hsusp hwait hopen => completes_bulkOpen_opened hrun hsusp hwait hopen⟩

end Sys2Proof.Machine
end


section
/-! PROOFS. What is heard of the mate, and the state that a unit takes (R387 to R391, R402, R405, R407). -/

namespace Sys2Proof.Machine

section
variable {s t : State} {dt typ : Nat} {head : List Nat} {good : Bool}

/-! ### Taking a message -/

/-- A path that is heard already is noted, and no more. -/
theorem State.hear_link (hl : s.rdBit Reg.PAR_LINK_PATH 0 = true) (hidle : s.parSt ≠ parTaking) :
    s.hear false = { s with par := { s.par with heardLink := some s.time } } := by
  unfold State.hear
  extract_lets f p s1 s2
  have hs2 : s2 = s1 := if_pos hl
  have hst : ¬ (decide (s1.parSt = parTaking) && decide (s1.par.takeCause = 3)) = true := by
    rw [decide_eq_false (show ¬ s1.parSt = parTaking from hidle)]
    exact Bool.false_ne_true
  rw [hs2]
  exact if_neg hst

theorem State.hear_pins (hp : s.rdBit Reg.PAR_PIN_PATH 0 = true) (hidle : s.parSt ≠ parTaking) :
    s.hear true = { s with par := { s.par with heardPin := some s.time } } := by
  unfold State.hear
  extract_lets f p s1 s2
  have hs2 : s2 = s1 := if_pos hp
  have hst : ¬ (decide (s1.parSt = parTaking) && decide (s1.par.takeCause = 3)) = true := by
    rw [decide_eq_false (show ¬ s1.parSt = parTaking from hidle)]
    exact Bool.false_ne_true
  rw [hs2]
  exact if_neg hst

/-- A fresh control message is noted, and acted on. -/
theorem State.control_fresh (h : FreshControl s typ head good) (run : State → State) :
    (s.elapse dt).control typ head good run = run ((s.elapse dt).heardControl head) := by
  obtain ⟨hpaired, hgood, htyp, hnew, hlink, hidle⟩ := h
  obtain ⟨a, ha⟩ : ∃ a, a = s.elapse dt := ⟨_, rfl⟩
  have hp : a.paired = true := by rw [ha]; exact hpaired
  have hhear := State.hear_link (s := a) (by rw [ha]; exact hlink) (by rw [ha]; exact hidle)
  have hseen : a.par.ctlSeen.contains (headSeq head) = false := by rw [ha]; simpa using hnew
  have htyp' : (head.headD 0 != typ) = false := by rw [htyp]; exact bne_self_eq_false ..
  rw [← ha]
  unfold State.control State.heardControl
  rw [hp, hgood, htyp', hhear]
  dsimp only
  rw [hseen]
  rfl

theorem State.controlText_fresh {x : MateText} (h : FreshControl s typ x.head (textGood x)) (run : State → State) :
    (s.elapse dt).controlText typ x run = run ((s.elapse dt).heardControl x.head) := State.control_fresh h run

/-- The state that acts on a data message in its turn. -/
def State.nextData (s : State) (head : List Nat) : State :=
  { s with par := { s.par with dataNext := some ((headSeq head + 1) % 2 ^ 32), dataHeld := [] } }

/-- A message in its turn, with none held, is acted on. -/
theorem State.orderData_next {q : Nat} (hturn : s.par.dataNext.getD q = q) (hnone : s.par.dataHeld = []) (m : DataMsg) :
    s.orderData q m = ({ s with par := { s.par with dataNext := some ((q + 1) % 2 ^ 32), dataHeld := [] } } : State).runData m := by
  unfold State.orderData
  extract_lets next ahead again held first p s1
  have hahead : ahead q = 0 := by
    show (q + 2 ^ 32 - s.par.dataNext.getD q) % 2 ^ 32 = 0
    rw [hturn]
    omega
  have hagain : again = false := by
    show decide (2 ^ 31 ≤ ahead q) = false
    rw [hahead]
    exact decide_eq_false (by omega)
  have hheld : held = [(q, m)] := by
    show (if again then [(q, m)] else s.par.dataHeld.filter (fun e => e.1 != q) ++ [(q, m)]) = _
    rw [hagain, hnone]
    rfl
  have hs1 : s1 = { s with par := { s.par with dataNext := some q, dataHeld := [(q, m)] } } := by
    show ({ s with par := { s.par with
      dataNext := some (if again then q else if 6 < held.length then first else next), dataHeld := held } } : State) = _
    rw [hagain, hheld, if_neg Bool.false_ne_true, if_neg (by simp), show next = q from hturn]
  rw [if_neg (by rw [hahead]; omega), hheld, hs1]
  have hfind : ([(q, m)] : List (Nat × DataMsg)).find? (fun e => e.1 == q) = some (q, m) := by simp
  have hrest : ([(q, m)] : List (Nat × DataMsg)).filter (fun f => f.1 != q) = [] := by simp
  show State.drainData 1 _ = _
  unfold State.drainData
  dsimp only
  rw [Option.getD_some, hfind]
  dsimp only
  rw [hrest]
  rfl

/-- A data message in its turn, with none held, is acted on. -/
theorem State.dataMsg_next (h : NextData s typ head good) (m : DataMsg) :
    (s.elapse dt).dataMsg typ head good m = ((s.elapse dt).nextData head).runData m := by
  obtain ⟨hpaired, hgood, htyp, hturn, hnone⟩ := h
  obtain ⟨a, ha⟩ : ∃ a, a = s.elapse dt := ⟨_, rfl⟩
  have hp : a.paired = true := by rw [ha]; exact hpaired
  have htyp' : (head.headD 0 != typ) = false := by rw [htyp]; exact bne_self_eq_false ..
  have hnext : a.par.dataNext.getD (headSeq head) = headSeq head := by
    have hpar : a.par = s.par := by rw [ha]; rfl
    rw [hpar]
    rcases hturn with h0 | h1
    · rw [h0]; rfl
    · rw [h1]; rfl
  rw [← ha]
  unfold State.dataMsg State.nextData
  rw [hp, hgood, htyp', Bool.not_true, if_neg Bool.false_ne_true, if_neg Bool.false_ne_true, if_neg Bool.false_ne_true,
    State.orderData_next hnext (by rw [ha]; exact hnone) m]

/-! ### The unit's state -/

/-- The fields that follow the unit's state. -/
def parStateFields : List (Fld × Nat) :=
  [(Reg.PAR_STATE, 0), (Reg.PAR_AUTHORITY, 0), (Reg.OVM_STATE, 0), (Reg.PAR_FAULTED, 0), (Reg.PAR_FAULT_CAUSE, 0), (Reg.PAR_HEALTHY, 0)]

theorem State.parRegs_par (s : State) : s.parRegs.par = s.par := State.parRegs_frame (pt := .par) (by decide) (Part.same_refl _ s)
theorem State.parRegs_io (s : State) : s.parRegs.io = s.io := State.parRegs_frame (pt := .io) (by decide) (Part.same_refl _ s)
theorem State.ovmFollow_par (s : State) : s.ovmFollow.par = s.par := State.ovmFollow_frame (pt := .par) (by decide) (Part.same_refl _ s)
theorem State.ovmFollow_io (s : State) : s.ovmFollow.io = s.io := State.ovmFollow_frame (pt := .io) (by decide) (Part.same_refl _ s)
theorem State.setPar_par (s : State) (v cause : Nat) : (s.setPar v cause).par = s.par :=
  State.setPar_frame (pt := .par) (by decide) (Part.same_refl _ s)

theorem State.parRegs_regsOnly (s : State) : RegsOnly [(Reg.PAR_FAULTED, 0), (Reg.PAR_FAULT_CAUSE, 0), (Reg.PAR_HEALTHY, 0)] s s.parRegs := by
  unfold State.parRegs
  iterate 3 refine RegsOnly.wr ?_ _ _ _ (by simp)
  exact RegsOnly.refl _ s

theorem State.ovmFollow_regsOnly (s : State) : RegsOnly [(Reg.OVM_STATE, 0)] s s.ovmFollow := by
  unfold State.ovmFollow
  exact RegsOnly.ite (RegsOnly.wr (RegsOnly.refl _ s) _ _ _ (List.mem_cons_self ..)) (RegsOnly.refl _ s)

theorem State.setPar_regsOnly (s : State) (v cause : Nat) : RegsOnly parStateFields s (s.setPar v cause) := by
  unfold State.setPar
  dsimp only
  refine RegsOnly.ite (RegsOnly.refl _ s) ?_
  refine RegsOnly.trans (RegsOnly.trans ?_ (RegsOnly.mono (State.ovmFollow_regsOnly _) ?_)) (RegsOnly.mono (State.parRegs_regsOnly _) ?_)
  · refine RegsOnly.raise (RegsOnly.wrBit (RegsOnly.wr (RegsOnly.refl _ s) _ _ _ ?_) ?_) _ _ _
    · simp [parStateFields]
    · simp [parStateFields]
  · simp [parStateFields]
  · simp [parStateFields]

/-- A unit takes another state. -/
theorem State.setPar_spec {v : Nat} (hold : s.parSt ≠ v) (hv : v < 8) (cause : Nat) :
    (s.setPar v cause).parSt = v ∧ Raised (s.setPar v cause) Ev.PAR_STATE_CHANGE srcDevice [(1, s.parSt), (1, v), (1, cause)] := by
  obtain ⟨b, hb⟩ : ∃ b, b = (s.wr Reg.PAR_STATE 0 v).wrBit Reg.PAR_AUTHORITY 0 (v == parActive) := ⟨_, rfl⟩
  obtain ⟨c, hc⟩ : ∃ c, c = b.raise Ev.PAR_STATE_CHANGE srcDevice [(1, s.parSt), (1, v), (1, cause)] := ⟨_, rfl⟩
  have hset : s.setPar v cause = c.ovmFollow.parRegs := by
    rw [hc, hb]
    exact if_neg hold
  rw [hset]
  refine ⟨?_, ?_⟩
  · have hst : b.rd Reg.PAR_STATE 0 = v := by
      rw [hb]
      refine (State.wr_rd_other _ _ _ _ _ _ (by decide)).trans ?_
      rw [State.wr_rd_same]
      exact Nat.mod_eq_of_lt hv
    show c.ovmFollow.parRegs.rd Reg.PAR_STATE 0 = v
    rw [State.parRegs_regsOnly _ _ _ (by decide), State.ovmFollow_regsOnly _ _ _ (by decide), hc, State.raise_rd, hst]
  · refine Raised.of_io ?_ ((State.parRegs_io _).trans (State.ovmFollow_io _))
    rw [hc]
    exact State.raise_raised ..

/-! ### What is sent -/

/-- The messages sent, and the numbers of the next, are all of the pair's state that sending one changes. -/
theorem State.send_par (s : State) (m : MateMsg) : ∃ sent ctl data, (s.send m).par = { s.par with sent := sent, ctlTx := ctl, dataTx := data } := by
  unfold State.send
  split
  · exact ⟨s.par.sent, s.par.ctlTx, s.par.dataTx, rfl⟩
  · exact ⟨_, _, _, rfl⟩

theorem State.send_regs (s : State) (m : MateMsg) : (s.send m).regs = s.regs := State.send_frame (pt := .regs) (by decide) (Part.same_refl _ s)
theorem State.send_io (s : State) (m : MateMsg) : (s.send m).io = s.io := State.send_frame (pt := .io) (by decide) (Part.same_refl _ s)

/-- The newest message sent. -/
theorem State.send_newest (s : State) {m : MateMsg} (hm : m.isTally = false ∨ s.pinsOnly = false) :
    ∃ y rest, (s.send m).par.sent = y :: rest ∧ y.msg = m := by
  have hgo : ¬ (m.isTally && s.pinsOnly) = true := by
    rcases hm with h | h
    · rw [h]; exact Bool.false_ne_true
    · rw [h, Bool.and_false]; exact Bool.false_ne_true
  unfold State.send
  rw [if_neg hgo]
  exact ⟨_, _, rfl, rfl⟩

/-! ### Lanes -/

theorem State.mateLane_setMateLane (s : State) (l : Nat) (x : MateLane) : (s.setMateLane l x).mateLane l = x :=
  (tget_tset ..).trans (if_pos rfl)

/-- What a frame says of the mate, and its lanes, stand as they were. -/
def ReportKept (s t : State) : Prop :=
  t.par.lanes = s.par.lanes ∧ t.par.mateHealthy = s.par.mateHealthy ∧ t.par.mateQl = s.par.mateQl ∧ t.par.mateSel = s.par.mateSel

theorem ReportKept.refl (s : State) : ReportKept s s := ⟨rfl, rfl, rfl, rfl⟩

theorem ReportKept.trans {u : State} (h : ReportKept s t) (k : ReportKept t u) : ReportKept s u := by
  obtain ⟨h1, h2, h3, h4⟩ := h
  obtain ⟨k1, k2, k3, k4⟩ := k
  exact ⟨k1.trans h1, k2.trans h2, k3.trans h3, k4.trans h4⟩

theorem ReportKept.of_par (h : t.par = s.par) : ReportKept s t := by
  unfold ReportKept
  rw [h]
  exact ⟨rfl, rfl, rfl, rfl⟩

theorem State.send_report (s : State) (m : MateMsg) : ReportKept s (s.send m) := by
  obtain ⟨sent, ctl, data, h⟩ := State.send_par s m
  unfold ReportKept
  rw [h]
  exact ⟨rfl, rfl, rfl, rfl⟩

theorem State.giveUp_report (s : State) (cause : Nat) : ReportKept s (s.giveUp cause) := by
  unfold State.giveUp
  extract_lets p s1 s2
  have h1 : ReportKept s (s1.wrBit Reg.PAR_LEASED 0 false) := ⟨rfl, rfl, rfl, rfl⟩
  have h2 : ReportKept s s2 := (h1.trans (State.send_report ..)).trans (State.send_report ..)
  exact h2.trans (ReportKept.of_par (State.setPar_par ..))

theorem State.hearState_report (s : State) (v : Nat) : ReportKept s (s.hearState v) := by
  unfold State.hearState
  extract_lets p s1
  have h1 : ReportKept s s1 := ⟨rfl, rfl, rfl, rfl⟩
  split
  · exact h1
  · split
    · exact h1.trans (ReportKept.of_par (State.setPar_par ..))
    · split
      · unfold State.dualActive
        dsimp only
        split
        · exact h1.trans (State.giveUp_report ..)
        · exact h1
      · exact h1

theorem State.compareAddr_report (s : State) (mate mateCycle : Nat) (auth : Bool) : ReportKept s (s.compareAddr mate mateCycle auth) := by
  unfold State.compareAddr
  extract_lets far mine yields s1 p
  split
  · exact ReportKept.refl s
  · refine ReportKept.trans (t := { s1 with par := { s1.par with mute := true } }) ⟨rfl, rfl, rfl, rfl⟩ (ReportKept.of_par ?_)
    exact (State.parRegs_par _).trans (State.setPar_par ..)

/-- A lane that counts the frame, as its overhead leaves it. -/
def State.countedLane (s : State) (l : Nat) (f : MateFrame) : MateLane :=
  let x := s.mateLane l
  let ok := x.align == 2 && bitOf f.inSync l
  { x with okRun := if ok then x.okRun + 1 else 0, badRun := if ok then 0 else x.badRun + 1,
           role := if f.markCrc then f.role else x.role, echo := f.cycle % 2 ^ 32, echoTime := s.time }

/-- What the overhead of a counted frame leaves of the lane, and of the mate's report. -/
theorem State.mateOverhead_spec (s : State) (l : Nat) (f : MateFrame) (sub : Int) :
    (s.mateOverhead l f sub).mateLane l = s.countedLane l f ∧ (s.mateOverhead l f sub).par.mateHealthy = f.healthy ∧
    (s.mateOverhead l f sub).par.mateQl = some f.ql ∧ (s.mateOverhead l f sub).par.mateSel = f.timSel := by
  obtain ⟨b, hb⟩ : ∃ b : State, b = { s.setMateLane l (s.countedLane l f) with
    par := { (s.setMateLane l (s.countedLane l f)).par with mateHealthy := f.healthy, mateQl := some f.ql, mateSel := f.timSel } } := ⟨_, rfl⟩
  have hkept : ReportKept b (s.mateOverhead l f sub) := by
    have husable (a : State) (on : Bool) : ReportKept a (a.setUsable l on) :=
      ReportKept.of_par (State.setUsable_frame (pt := .par) (by decide) (Part.same_refl _ a))
    have hrtt (a : State) (e n : Nat) : ReportKept a (a.mateRtt e n) :=
      ReportKept.of_par (State.mateRtt_frame (pt := .par) (by decide) (Part.same_refl _ a))
    have herr (a : State) (c : Nat) : ReportKept a (a.shaftErr c sub) :=
      ReportKept.of_par (State.shaftErr_frame (pt := .par) (by decide) (Part.same_refl _ a))
    unfold State.mateOverhead
    extract_lets x ok y s0 p s1 s2 s3 mate q s4 s5
    have h2 : ReportKept b s2 := by
      have h1 : ReportKept b s1 := by
        rw [hb]
        exact ReportKept.refl _
      show ReportKept b (if _ then _ else _)
      split
      · exact h1.trans (husable ..)
      · split
        · exact h1.trans (husable ..)
        · exact h1
    have h3 : ReportKept b s3 := h2.trans (hrtt ..)
    have h4 : ReportKept b s4 :=
      ReportKept.trans (t := { s3 with par := { s3.par with mateAt := some (mate, s3.time) } }) h3 (State.compareAddr_report ..)
    have h5 : ReportKept b s5 := by
      show ReportKept b (if _ then _ else _)
      split
      · exact h4.trans (herr ..)
      · exact h4
    exact h5.trans (State.hearState_report ..)
  obtain ⟨hlanes, hhealthy, hql, hsel⟩ := hkept
  refine ⟨?_, by rw [hhealthy, hb], by rw [hql, hb], by rw [hsel, hb]⟩
  unfold State.mateLane
  rw [hlanes, hb]
  exact State.mateLane_setMateLane ..

end

end Sys2Proof.Machine
end


section
/-! PROOFS. Frames and messages from the mate, one by one (R387 to R391, R400 to R402, R407, R411, R412, R416, R418). -/

namespace Sys2Proof.Machine

section
variable {s t : State} {dt : Nat} {m : MsgHead} {x : MateText}

/-! ### MATE_FRAME_RX -/

theorem exec_mateFrameRx {lane : Nat} {f : MateIn} (hpaired : s.paired = true) (hlane : lane ≤ 7) (hon : s.laneOn (72 + lane) = true)
    (hlock : f.lock = true) (hlooks : (s.mateLane lane).looks f.off = true) {y : MateLane}
    (hy : y = (s.mateLane lane).alignStep f.off (readMate f.prior f.blocks).marker) :
    exec (.mateFrameRx dt lane f) s = .next (
      if y.align != 2 then
        (if 2 ≤ y.badRun + 1 then
          (((s.elapse dt).setMateLane lane y).setMateLane lane { y with okRun := 0, badRun := y.badRun + 1 }).setUsable lane false
        else ((s.elapse dt).setMateLane lane y).setMateLane lane { y with okRun := 0, badRun := y.badRun + 1 })
      else if (readMate f.prior f.blocks).ohCrc then
        ((s.elapse dt).setMateLane lane y).mateOverhead lane (readMate f.prior f.blocks) f.sub
      else (s.elapse dt).setMateLane lane y) := by
  obtain ⟨a, ha⟩ : ∃ a, a = s.elapse dt := ⟨_, rfl⟩
  have hguard : ¬ (!a.paired || decide (7 < lane) || !a.laneOn (72 + lane)) = true := by
    rw [show a.paired = true by rw [ha]; exact hpaired, show a.laneOn (72 + lane) = true by rw [ha]; exact hon,
      decide_eq_false (by omega)]
    decide
  have hl : a.mateLane lane = s.mateLane lane := by rw [ha]; rfl
  show execMateFrameRx dt lane f s = _
  unfold execMateFrameRx
  rw [← ha]
  dsimp only
  rw [if_neg hguard, hl, hlock, hlooks, if_pos rfl, ← hy]
  rfl

theorem completes_mateFrameRx_first {lane : Nat} {f : MateIn} (hpaired : s.paired = true) (hlane : lane ≤ 7)
    (hon : s.laneOn (72 + lane) = true) (hsearch : (s.mateLane lane).align = 0) (hlock : f.lock = true)
    (hnext : (s.mateLane lane).next ≤ f.off) (hmarker : (readMate f.prior f.blocks).marker = true) :
    Completes (.mateFrameRx dt lane f) s fun t => (t.mateLane lane).align = 1 ∧ (t.mateLane lane).base = f.off := by
  obtain ⟨y, hy⟩ : ∃ y, y = (s.mateLane lane).alignStep f.off (readMate f.prior f.blocks).marker := ⟨_, rfl⟩
  have hlooks : (s.mateLane lane).looks f.off = true := by
    unfold MateLane.looks
    rw [if_pos hsearch]
    exact decide_eq_true hnext
  have hstep : y = { s.mateLane lane with next := f.off + 53125, align := 1, base := f.off, conf := 0 } := by
    rw [hy, hmarker]
    unfold MateLane.alignStep
    simp [hsearch]
  have halign : y.align = 1 := by rw [hstep]
  have hbase : y.base = f.off := by rw [hstep]
  have hexec := exec_mateFrameRx (dt := dt) hpaired hlane hon hlock hlooks hy
  rw [if_pos (show (y.align != 2) = true by rw [halign]; rfl)] at hexec
  obtain ⟨b, hb⟩ : ∃ b, b = ((s.elapse dt).setMateLane lane y).setMateLane lane { y with okRun := 0, badRun := y.badRun + 1 } := ⟨_, rfl⟩
  rw [← hb] at hexec
  have hlane : b.mateLane lane = { y with okRun := 0, badRun := y.badRun + 1 } := by rw [hb, State.mateLane_setMateLane]
  have husable : (if 2 ≤ y.badRun + 1 then b.setUsable lane false else b).mateLane lane = b.mateLane lane := by
    split
    · unfold State.mateLane
      rw [show (b.setUsable lane false).par = b.par from State.setUsable_frame (pt := .par) (by decide) (Part.same_refl _ b)]
    · rfl
  refine ⟨_, hexec, ?_, ?_⟩
  · rw [husable, hlane]
    exact halign
  · rw [husable, hlane]
    exact hbase

theorem completes_mateFrameRx_counted {lane : Nat} {f : MateIn} (hpaired : s.paired = true) (hlane : lane ≤ 7)
    (hon : s.laneOn (72 + lane) = true) (hsync : (s.mateLane lane).align = 2) (hlock : f.lock = true)
    (hnext : (s.mateLane lane).next = f.off) (hmarker : (readMate f.prior f.blocks).marker = true)
    (hcrc : (readMate f.prior f.blocks).ohCrc = true) :
    Completes (.mateFrameRx dt lane f) s fun t =>
      let g := readMate f.prior f.blocks
      (t.mateLane lane).align = 2 ∧ (t.mateLane lane).echo = g.cycle % 2 ^ 32 ∧ t.par.mateHealthy = g.healthy ∧
      t.par.mateQl = some g.ql ∧ t.par.mateSel = g.timSel := by
  obtain ⟨y, hy⟩ : ∃ y, y = (s.mateLane lane).alignStep f.off (readMate f.prior f.blocks).marker := ⟨_, rfl⟩
  have hlooks : (s.mateLane lane).looks f.off = true := by
    unfold MateLane.looks
    rw [hsync, if_neg (by decide), hnext]
    exact beq_self_eq_true _
  have halign : y.align = 2 := by
    rw [hy, hmarker]
    unfold MateLane.alignStep
    simp [hsync]
  have hexec := exec_mateFrameRx (dt := dt) hpaired hlane hon hlock hlooks hy
  rw [if_neg (show ¬ (y.align != 2) = true by rw [halign]; decide), if_pos hcrc] at hexec
  obtain ⟨b, hb⟩ : ∃ b, b = (s.elapse dt).setMateLane lane y := ⟨_, rfl⟩
  rw [← hb] at hexec
  generalize readMate f.prior f.blocks = g at hexec
  obtain ⟨hl, hhealthy, hql, hsel⟩ := State.mateOverhead_spec b lane g f.sub
  refine ⟨_, hexec, ?_, ?_, hhealthy, hql, hsel⟩
  · rw [hl, hb]
    show ((s.elapse dt).setMateLane lane y |>.mateLane lane).align = 2
    rw [State.mateLane_setMateLane, halign]
  · rw [hl]
    rfl

/-! ### GRANT and ACK -/

theorem completes_grant_bad (hpaired : s.paired = true) (hbad : textGood x = false) :
    Completes (.grant dt x) s fun t =>
      t.rd Reg.PAR_MSG_CRC_CNT 0 = (s.rd Reg.PAR_MSG_CRC_CNT 0 + 1) % 2 ^ 32 ∧ t.par = s.par ∧ t.io = s.io ∧
      RegsOnly [(Reg.PAR_MSG_CRC_CNT, 0)] s t := by
  have hp : (s.elapse dt).paired = true := hpaired
  have hexec : exec (.grant dt x) s = .next ((s.elapse dt).count Reg.PAR_MSG_CRC_CNT 0) := by
    show execGrant dt x s = _
    unfold execGrant State.controlText State.control
    rw [hp, hbad, Bool.not_true, if_neg Bool.false_ne_true, Bool.not_false, if_pos rfl]
  refine ⟨_, hexec, ?_, rfl, rfl, RegsOnly.count (RegsOnly.of_elapse _ s dt) (List.mem_cons_self ..)⟩
  rw [State.count_rd_same']
  rfl

/-- An active unit takes a fresh grant. -/
theorem State.takeGrant_active {c : Nat} (hactive : s.parSt = parActive) (hfresh : s.cycle < c + 48) :
    (s.takeGrant c).par = { s.par with lease := some (max c (s.par.lease.getD 0)), gotGrant := true, gaveUp := false } ∧
    (s.takeGrant c).time = s.time ∧ (s.takeGrant c).rd Reg.PAR_LEASED 0 = 1 ∧ (s.takeGrant c).io = s.io ∧
    RegsOnly [(Reg.PAR_LEASED, 0), (Reg.PAR_LEASE_LO, 0), (Reg.PAR_LEASE_HI, 0)] s (s.takeGrant c) := by
  obtain ⟨b, hb⟩ : ∃ b : State, b = { s with par := { s.par with
    lease := some (max c (s.par.lease.getD 0)), gotGrant := true, gaveUp := false } } := ⟨_, rfl⟩
  have hgrant : s.takeGrant c = (b.leaseRegs (max c (s.par.lease.getD 0))).wrBit Reg.PAR_LEASED 0 true := by
    unfold State.takeGrant
    rw [if_neg (by omega), if_pos hactive, hb]
  rw [hgrant]
  refine ⟨by rw [hb]; rfl, by rw [hb]; rfl, State.wrBit_rd_same .., by rw [hb]; rfl, ?_⟩
  unfold State.leaseRegs
  refine RegsOnly.wrBit (RegsOnly.wr (RegsOnly.wr ?_ _ _ _ (by simp)) _ _ _ (by simp)) (by simp)
  rw [hb]
  exact RegsOnly.refl _ s

theorem completes_grant (h : FreshControl s 1 x.head (textGood x)) (hactive : s.parSt = parActive)
    (hfresh : (s.elapse dt).cycle < addrOfStamp (beNum (cut x.payload 0 8)) / Config.cyclePos + 48) :
    Completes (.grant dt x) s fun t =>
      t.par.lease = some (max (addrOfStamp (beNum (cut x.payload 0 8)) / Config.cyclePos) (s.par.lease.getD 0)) ∧
      t.par.gotGrant = true ∧ t.rd Reg.PAR_LEASED 0 = 1 ∧ t.io = s.io ∧
      RegsOnly [(Reg.PAR_LEASED, 0), (Reg.PAR_LEASE_LO, 0), (Reg.PAR_LEASE_HI, 0)] s t := by
  obtain ⟨a, ha⟩ : ∃ a, a = (s.elapse dt).heardControl x.head := ⟨_, rfl⟩
  have hexec : exec (.grant dt x) s = .next (a.takeGrant (addrOfStamp (beNum (cut x.payload 0 8)) / Config.cyclePos)) := by
    rw [ha]
    exact congrArg Host.Outcome.next (State.controlText_fresh h _)
  obtain ⟨hpar, -, hleased, hio, hregs⟩ := State.takeGrant_active (s := a) (by rw [ha]; exact hactive) (by rw [ha]; exact hfresh)
  refine ⟨_, hexec, ?_, by rw [hpar], hleased, by rw [hio, ha]; rfl, RegsOnly.trans ?_ hregs⟩
  · rw [hpar, ha]
    rfl
  · rw [ha]
    exact RegsOnly.refl _ s

/-- A seeking unit that hears an active mate joins it. -/
theorem State.hearState_joins (hseek : s.parSt = parSeeking) (hmute : s.par.mute = false) :
    s.hearState parActive = ({ s with par := { s.par with
      mateState := parActive, mateActive := s.par.mateActive || parActive == parActive } } : State).setPar parJoining 0 := by
  unfold State.hearState
  extract_lets p s1
  have hgo : (decide (s1.parSt = parSeeking) && !s1.par.mute) = true := by
    rw [show s1.parSt = parSeeking from hseek, show s1.par.mute = false from hmute]
    rfl
  rw [if_neg (by decide), if_pos hgo]

theorem completes_ack (h : FreshControl s 2 x.head (textGood x)) (hseek : s.parSt = parSeeking) (hmute : s.par.mute = false) :
    Completes (.ack dt x) s fun t =>
      t.parSt = parJoining ∧ t.par.mateState = parActive ∧ Raised t Ev.PAR_STATE_CHANGE srcDevice [(1, 1), (1, 2), (1, 0)] := by
  obtain ⟨a, ha⟩ : ∃ a, a = (s.elapse dt).heardControl x.head := ⟨_, rfl⟩
  obtain ⟨b, hb⟩ : ∃ b : State, b = { a with par := { a.par with mateState := parActive, mateActive := a.par.mateActive || parActive == parActive } } :=
    ⟨_, rfl⟩
  have hst : b.parSt = parSeeking := by rw [hb, ha]; exact hseek
  have hheard : a.hearState parActive = b.setPar parJoining 0 := by
    rw [hb]
    exact State.hearState_joins (by rw [ha]; exact hseek) (by rw [ha]; exact hmute)
  have hexec : exec (.ack dt x) s = .next (b.setPar parJoining 0) := by
    rw [← hheard, ha]
    exact congrArg Host.Outcome.next (State.controlText_fresh h _)
  obtain ⟨hnew, hraised⟩ := State.setPar_spec (s := b) (v := parJoining) (by rw [hst]; decide) (by decide) 0
  rw [hst] at hraised
  exact ⟨_, hexec, hnew, by rw [State.setPar_par, hb], hraised⟩

/-! ### TALLY_IN_WORD -/

theorem crc8Byte_lt (c b : Nat) : crc8Byte c b < 256 := by
  have hxor (y : Nat) (hy : y < 256) : Nat.xor y 7 < 256 := Nat.xor_lt_two_pow (n := 8) hy (by decide)
  have hstep (y : Nat) : (if 128 ≤ y then Nat.xor (y * 2 % 256) 7 else y * 2) < 256 := by
    split
    · exact hxor _ (Nat.mod_lt _ (by decide))
    · omega
  unfold crc8Byte
  rw [show List.range 8 = List.range 7 ++ [7] from rfl, List.foldl_append, List.foldl_cons, List.foldl_nil]
  generalize List.foldl _ _ _ = y
  exact hstep y

/-- The fields of a pin word that carries a grant. -/
theorem pinWord_grant (cycle : Nat) :
    pinWord 9 0 cycle / 2 ^ 28 % 16 = 9 ∧ pinWord 9 0 cycle / 2 ^ 24 % 16 = 0 ∧ pinWord 9 0 cycle / 256 % 65536 = cycle % 65536 ∧
    pinWord 9 0 (cycle % 65536) = pinWord 9 0 cycle := by
  refine ⟨?_, ?_, ?_, ?_⟩
  all_goals unfold pinWord; dsimp only
  · have hcrc := crc8Byte_lt
      (crc8Byte (crc8Byte 0 ((9 * 2 ^ 20 + 0 % 16 * 2 ^ 16 + cycle % 65536) / 65536))
        ((9 * 2 ^ 20 + 0 % 16 * 2 ^ 16 + cycle % 65536) / 256 % 256)) ((9 * 2 ^ 20 + 0 % 16 * 2 ^ 16 + cycle % 65536) % 256)
    generalize crc8Byte _ _ = r at hcrc ⊢
    omega
  · have hcrc := crc8Byte_lt
      (crc8Byte (crc8Byte 0 ((9 * 2 ^ 20 + 0 % 16 * 2 ^ 16 + cycle % 65536) / 65536))
        ((9 * 2 ^ 20 + 0 % 16 * 2 ^ 16 + cycle % 65536) / 256 % 256)) ((9 * 2 ^ 20 + 0 % 16 * 2 ^ 16 + cycle % 65536) % 256)
    generalize crc8Byte _ _ = r at hcrc ⊢
    omega
  · have hcrc := crc8Byte_lt
      (crc8Byte (crc8Byte 0 ((9 * 2 ^ 20 + 0 % 16 * 2 ^ 16 + cycle % 65536) / 65536))
        ((9 * 2 ^ 20 + 0 % 16 * 2 ^ 16 + cycle % 65536) / 256 % 256)) ((9 * 2 ^ 20 + 0 % 16 * 2 ^ 16 + cycle % 65536) % 256)
    generalize crc8Byte _ _ = r at hcrc ⊢
    omega
  · rw [Nat.mod_mod]

theorem completes_tallyInWord {chips : List Bool} {cycle : Nat} (hpaired : s.paired = true) (hpins : s.rdBit Reg.PAR_PIN_PATH 0 = true)
    (hactive : s.parSt = parActive) (hchips : readChips chips = some (pinWord 9 0 cycle))
    (hfresh : (s.elapse dt).cycle < (s.elapse dt).recentCycle (cycle % 65536) + 48) :
    Completes (.tallyInWord dt chips) s fun t =>
      t.par.lease = some (max ((s.elapse dt).recentCycle (cycle % 65536)) (s.par.lease.getD 0)) ∧ t.par.gotGrant = true ∧
      t.par.heardPin = some t.time ∧ t.rd Reg.PAR_LEASED 0 = 1 ∧ t.io = s.io ∧
      RegsOnly [(Reg.PAR_LEASED, 0), (Reg.PAR_LEASE_LO, 0), (Reg.PAR_LEASE_HI, 0)] s t := by
  obtain ⟨a, ha⟩ : ∃ a, a = s.elapse dt := ⟨_, rfl⟩
  rw [← ha] at hfresh ⊢
  obtain ⟨b, hb⟩ : ∃ b : State, b = { a with par := { a.par with heardPin := some a.time } } := ⟨_, rfl⟩
  have hp : a.paired = true := by rw [ha]; exact hpaired
  have hst : a.parSt = parActive := by rw [ha]; exact hactive
  have hhear : a.hear true = b := by
    rw [hb]
    exact State.hear_pins (by rw [ha]; exact hpins) (by rw [hst]; decide)
  have hrecent (n : Nat) : b.recentCycle n = a.recentCycle n := by rw [hb]; rfl
  obtain ⟨hkind, hcause, hlow, hword⟩ := pinWord_grant cycle
  have hexec : exec (.tallyInWord dt chips) s = .next (b.takeGrant (a.recentCycle (cycle % 65536))) := by
    show execTallyInWord dt chips s = _
    unfold execTallyInWord
    rw [← ha, hchips]
    dsimp only
    rw [hkind, hcause, hlow, hword, hp, bne_self_eq_false, ← hrecent]
    refine congrArg Host.Outcome.next ?_
    show a.takePinWord 9 0 (cycle % 65536) = _
    unfold State.takePinWord
    rw [hhear]
    rfl
  obtain ⟨hpar, htime, hleased, hio, hregs⟩ := State.takeGrant_active (s := b) (c := a.recentCycle (cycle % 65536))
    (by rw [hb]; exact hst) (by rw [hb]; exact hfresh)
  refine ⟨_, hexec, ?_, by rw [hpar], ?_, hleased, ?_, RegsOnly.trans ?_ hregs⟩
  · rw [hpar, hb, ha]
    rfl
  · rw [hpar, htime, hb]
  · rw [hio, hb, ha]
    rfl
  · rw [hb, ha]
    exact RegsOnly.refl _ s

/-! ### SURRENDER and CLAIM -/

theorem completes_surrender (h : FreshControl s 3 x.head (textGood x)) (hjoin : s.parSt = parJoining) :
    Completes (.surrender dt x) s fun t =>
      t.par.surrendered = true ∧ t.par.surrenderAt = addrOfStamp (beNum (cut x.payload 8 8)) ∧ t.par.mateState = parJoining ∧
      t.io = s.io ∧ RegsOnly [] s t := by
  obtain ⟨cause, hcause⟩ : ∃ c, c = x.payload.getD 0 0 := ⟨_, rfl⟩
  obtain ⟨at_, hat⟩ : ∃ a, a = addrOfStamp (beNum (cut x.payload 8 8)) := ⟨_, rfl⟩
  obtain ⟨a, ha⟩ : ∃ a, a = (s.elapse dt).heardControl x.head := ⟨_, rfl⟩
  obtain ⟨b, hb⟩ : ∃ b : State, b = { a with par := { a.par with surrendered := true, surrenderAt := at_, mateState := parJoining } } := ⟨_, rfl⟩
  have hst : b.parSt = parJoining := by rw [hb, ha]; exact hjoin
  have htake : a.takeSurrender cause at_ = b := by
    have hraise : b.raiseIf (decide (cause = 8) && decide (b.parSt = parActive)) Ev.PAR_DUAL_ACTIVE srcDevice [(1, 1)] = b := by
      rw [hst, show decide (parJoining = parActive) = false from rfl, Bool.and_false]
      rfl
    unfold State.takeSurrender
    dsimp only
    rw [← hb, hraise]
    unfold State.tryTake
    rw [hst]
    rfl
  have hexec : exec (.surrender dt x) s = .next b := by
    rw [← htake, hcause, hat, ha]
    exact congrArg Host.Outcome.next (State.controlText_fresh h _)
  rw [← hat]
  refine ⟨b, hexec, by rw [hb], by rw [hb], by rw [hb], by rw [hb, ha]; rfl, ?_⟩
  rw [hb, ha]
  exact RegsOnly.refl _ s

theorem completes_claim (h : FreshControl s 4 x.head (textGood x)) (hstandby : s.parSt = parStandby) (hdrill : s.par.drill = none)
    (htake : s.par.takeHost = none) :
    Completes (.claim dt x) s fun t =>
      t.parSt = parJoining ∧ t.par.mateState = parActive ∧ t.par.nonce = leNum (cut x.payload 24 14) ∧
      t.par.surrendered = false ∧ t.par.planNext = some false ∧ t.par.staging = none ∧
      Raised t Ev.PAR_STATE_CHANGE srcDevice [(1, 3), (1, 2), (1, 0)] := by
  obtain ⟨n, hn⟩ : ∃ n, n = leNum (cut x.payload 24 14) := ⟨_, rfl⟩
  obtain ⟨a, ha⟩ : ∃ a, a = (s.elapse dt).heardControl x.head := ⟨_, rfl⟩
  obtain ⟨b, hb⟩ : ∃ b : State, b = { a with par := { a.par with
    surrendered := false, pinSurrender := none, mateState := parActive, mateActive := true, nonce := n, staging := none,
    planNext := some false } } := ⟨_, rfl⟩
  have hst : b.parSt = parStandby := by rw [hb, ha]; exact hstandby
  have hstA : a.parSt = parStandby := by rw [ha]; exact hstandby
  have hdrillB : b.par.drill = none := by rw [hb, ha]; exact hdrill
  have htakeB : b.par.takeHost = none := by rw [hb, ha]; exact htake
  have hend : b.endTake 3 = b := by
    unfold State.endTake
    rw [htakeB]
  have hclaim : a.takeClaim (some n) = b.setPar parJoining 0 := by
    unfold State.takeClaim
    extract_lets p s1 q s2 s3
    have hnot : ¬ (decide (a.parSt = parActive) && !a.isUnitB) = true := by
      rw [hstA]
      exact Bool.false_ne_true
    have h2 : s2 = b := (if_neg hnot).trans hb.symm
    have h3 : s3 = b := by
      show (match s2.par.drill with
        | some d => if d.phase = 4 then s2.endDrill 2 s2.par.surrenderAt else s2.drillPassed 2 d.gaveAt
        | none => s2) = b
      rw [h2, hdrillB]
    have hother : ¬ s3.parSt = parActive := by rw [h3, hst]; decide
    have hup : ¬ s3.parSt = 0 := by rw [h3, hst]; decide
    refine (if_neg hother).trans ((if_neg hup).trans ?_)
    rw [h3, hend]
  have hexec : exec (.claim dt x) s = .next (b.setPar parJoining 0) := by
    rw [← hclaim, hn, ha]
    exact congrArg Host.Outcome.next (State.controlText_fresh h _)
  obtain ⟨hnew, hraised⟩ := State.setPar_spec (s := b) (v := parJoining) (by rw [hst]; decide) (by decide) 0
  rw [hst] at hraised
  rw [← hn]
  refine ⟨_, hexec, hnew, ?_, ?_, ?_, ?_, ?_, hraised⟩
  all_goals rw [State.setPar_par, hb]

/-! ### HEALTH -/

theorem State.compareCrc_active (hactive : s.parSt = parActive) (crc : Nat) : s.compareCrc crc = s := by
  unfold State.compareCrc
  rw [hactive]
  rfl

/-- Stages that the mate reports again change nothing. -/
theorem State.takeStages_again {v : Nat} (hv : v = s.par.mateStages) : s.takeStages v = s := by
  have hnone : (List.range 16).filter (fun i => bitOf v i && !bitOf s.par.mateStages i) = [] := by
    rw [hv]
    simp
  unfold State.takeStages
  rw [hnone, hv]
  exact ite_self _

theorem State.tryStandby_active (hactive : s.parSt = parActive) : s.tryStandby = s := by
  unfold State.tryStandby
  rw [hactive]
  rfl

theorem State.judgeCanary_active (hactive : s.parSt = parActive) : s.judgeCanary = s := by
  unfold State.judgeCanary
  rw [hactive]
  rfl

theorem completes_health (h : FreshControl s 5 x.head (textGood x)) (hactive : s.parSt = parActive)
    (hready : (readHealth x.payload).joinReady = false) (hstages : (readHealth x.payload).stages = s.par.mateStages) :
    Completes (.health dt x) s fun t =>
      let p := readHealth x.payload
      t.par.mateHealthy = p.healthy ∧ t.par.mateJoinReady = false ∧
      t.par.canary.mate = ((p.good, p.miss) :: s.par.canary.mate).take 10 ∧ t.io = s.io ∧ RegsOnly [] s t := by
  obtain ⟨p, hp⟩ : ∃ p, p = readHealth x.payload := ⟨_, rfl⟩
  rw [← hp] at hready hstages
  obtain ⟨a, ha⟩ : ∃ a, a = (s.elapse dt).heardControl x.head := ⟨_, rfl⟩
  obtain ⟨b, hb⟩ : ∃ b : State, b = { a with par := { a.par with
    mateHealthy := p.healthy, mateJoinReady := p.joinReady,
    canary := { a.par.canary with mate := ((p.good, p.miss) :: a.par.canary.mate).take 10 } } } := ⟨_, rfl⟩
  have hst : b.parSt = parActive := by rw [hb, ha]; exact hactive
  have hstagesB : p.stages = b.par.mateStages := by rw [hb, ha]; exact hstages
  have htake : a.takeHealth p = b := by
    unfold State.takeHealth
    dsimp only
    rw [← hb, State.compareCrc_active hst, State.takeStages_again hstagesB, State.tryStandby_active hst, hready]
    exact State.judgeCanary_active hst
  have hexec : exec (.health dt x) s = .next b := by
    rw [← htake, hp, ha]
    exact congrArg Host.Outcome.next (State.controlText_fresh h _)
  rw [← hp]
  refine ⟨b, hexec, by rw [hb], by rw [hb]; exact hready, by rw [hb, ha]; rfl, by rw [hb, ha]; rfl, ?_⟩
  rw [hb, ha]
  exact RegsOnly.refl _ s

/-! ### FORWARD -/

theorem completes_forward {f : Fwd} {stored : Bool} (h : FreshControl s 6 m.head (headGood m)) {run : State → State}
    (hrun : ∀ a, exec (.forward dt m f stored) a = .next ((a.elapse dt).control 6 m.head (headGood m) run)) :
    Completes (.forward dt m f stored) s fun t => t = run ((s.elapse dt).heardControl m.head) :=
  ⟨_, (hrun s).trans (congrArg Host.Outcome.next (State.control_fresh h run)), rfl⟩

/-! ### PLACE and PLACE_ACK -/

/-- The pages of a placement are armed for a boundary that is not deferred. -/
theorem State.armNow_spec (s : State) (a : ArmSt) (due : Nat) :
    (s.armNow a due false).shf.armDue = some due ∧ (s.armNow a due false).ovm.arm = some { a with armed := true } ∧
    (s.armNow a due false).rd Reg.SHF_BANK_ARMED 0 = 1 ∧ (s.armNow a due false).rd Reg.MAP_PAGE_ARMED 0 = 1 ∧
    (s.armNow a due false).io = s.io ∧ (s.armNow a due false).par = s.par ∧
    RegsOnly [(Reg.SHF_BANK_ARMED, 0), (Reg.MAP_PAGE_ARMED, 0)] s (s.armNow a due false) := by
  refine ⟨rfl, rfl, ?_, State.wrBit_rd_same .., rfl, rfl, ?_⟩
  · refine (State.wr_rd_other _ _ _ _ _ _ (by decide)).trans ?_
    exact State.wrBit_rd_same ..
  · exact RegsOnly.wrBit (RegsOnly.wrBit (RegsOnly.upd (RegsOnly.refl _ s)) (by simp)) (by simp)

/-- The state with the placement's intents and moves noted, before its pages are built. -/
def State.notePlace (s : State) (p : PlaceMsg) : State :=
  let a1 := p.adds.foldl State.takePlaced s
  { a1 with ovm := { a1.ovm with withdraws := p.removes.map (fun i => (i, mateHost)), shedding := p.sheds, moves := p.moves } }

/-- The arming that a placement builds. -/
def State.placeArm (s : State) (p : PlaceMsg) : ArmSt :=
  let all := s.standbyCtxs (p.adds.map (fun x => x.params.id)) p.moves
  { adds := p.adds.map (fun x => x.params.id), moves := p.moves, bank := s.buildBank p.own all (p.cycle * Config.cyclePos), tsi := tsiPage all,
    grains := grainPage all }

theorem State.notePlace_same {pt : Part} (hp : pt ≠ .ovm) (s : State) (p : PlaceMsg) : Part.same s (s.notePlace p) pt := by
  have hfold : Part.same s (p.adds.foldl State.takePlaced s) pt :=
    Part.foldl (p := pt) (fun a b e hab => State.takePlaced_frame (by simpa using hp) hab) p.adds (Part.same_refl pt s)
  cases pt
  case ovm => exact absurd rfl hp
  all_goals exact hfold

theorem State.takePlace_eq {p : PlaceMsg} (hauth : s.hasAuthority = false) (haddr : s.addr < p.cycle * Config.cyclePos)
    (hdue : s.swapBoundary.1 ≤ p.cycle * Config.cyclePos) :
    s.takePlace p =
      ({ (s.notePlace p).armNow ((s.notePlace p).placeArm p) (p.cycle * Config.cyclePos) false with
        par := { ((s.notePlace p).armNow ((s.notePlace p).placeArm p) (p.cycle * Config.cyclePos) false).par with place := some p } } :
          State).send (.placeAck p.cycle (pageCrc ((s.notePlace p).placeArm p).tsi ((s.notePlace p).placeArm p).grains)) := by
  have hbound : (s.notePlace p).swapBoundary = s.swapBoundary := by
    have hclock : (s.notePlace p).addr = s.addr := (State.notePlace_same (pt := .clock) (by decide) s p).2
    unfold State.swapBoundary State.cycle State.pos
    rw [hclock]
  have hlate : ¬ (p.cycle * Config.cyclePos < (s.notePlace p).swapBoundary.1) := by
    rw [hbound]
    omega
  unfold State.takePlace
  rw [hauth, if_neg Bool.false_ne_true, if_neg (by omega)]
  unfold State.notePlace at hlate
  extract_lets a1 q a2 adds all b due late a3 q' a4
  have hlate' : late = False := eq_false hlate
  have h3 : a3 = a2.armNow b (p.cycle * Config.cyclePos) false := if_neg hlate
  have hgo : ¬ ((decide late && (decide (a4.parSt = parStandby) || decide (a4.parSt = parJoining))) = true) := by
    rw [decide_eq_false hlate]
    exact Bool.false_ne_true
  rw [if_neg hgo]
  show State.send { a3 with par := { a3.par with place := some p } } _ = _
  rw [h3]
  rfl

theorem completes_place {p : PlaceMsg} (h : NextData s 7 m.head (headGood m)) (hauth : s.hasAuthority = false)
    (haddr : s.addr + dt < p.cycle * Config.cyclePos) (hdue : (s.elapse dt).swapBoundary.1 ≤ p.cycle * Config.cyclePos) :
    Completes (.place dt m p) s fun t =>
      t.shf.armDue = some (p.cycle * Config.cyclePos) ∧ t.rd Reg.SHF_BANK_ARMED 0 = 1 ∧ t.rd Reg.MAP_PAGE_ARMED 0 = 1 ∧
      t.par.place = some p ∧ (∃ a, t.ovm.arm = some a ∧ a.armed = true ∧ a.moves = p.moves) ∧
      (∃ y rest crc, t.par.sent = y :: rest ∧ y.msg = .placeAck p.cycle crc) ∧ t.io = s.io ∧
      RegsOnly [(Reg.SHF_BANK_ARMED, 0), (Reg.MAP_PAGE_ARMED, 0)] s t := by
  obtain ⟨a, ha⟩ : ∃ a, a = (s.elapse dt).nextData m.head := ⟨_, rfl⟩
  have haddr' : a.addr < p.cycle * Config.cyclePos := by
    have hle : (s.elapse dt).addr ≤ s.addr + dt := by
      unfold State.elapse
      dsimp only
      split <;> omega
    rw [ha]
    exact Nat.lt_of_le_of_lt hle haddr
  have htake := State.takePlace_eq (s := a) (p := p) (by rw [ha]; exact hauth) haddr' (by rw [ha]; exact hdue)
  obtain ⟨n, hn⟩ : ∃ n, n = a.notePlace p := ⟨_, rfl⟩
  obtain ⟨b, hb⟩ : ∃ b, b = n.placeArm p := ⟨_, rfl⟩
  have hmoves : b.moves = p.moves := by rw [hb]; rfl
  obtain ⟨harm, harmO, hbank, hpage, hioA, hparA, hregsA⟩ := State.armNow_spec n b (p.cycle * Config.cyclePos)
  obtain ⟨r, hr⟩ : ∃ r, r = n.armNow b (p.cycle * Config.cyclePos) false := ⟨_, rfl⟩
  obtain ⟨v, hv⟩ : ∃ v : State, v = { r with par := { r.par with place := some p } } := ⟨_, rfl⟩
  obtain ⟨crc, hcrc⟩ : ∃ crc, crc = pageCrc b.tsi b.grains := ⟨_, rfl⟩
  rw [← hn, ← hb, ← hcrc, ← hr, ← hv] at htake
  rw [← hr] at harm harmO hbank hpage hioA hparA hregsA
  have hexec : exec (.place dt m p) s = .next (v.send (.placeAck p.cycle crc)) := by
    rw [← htake, ha]
    exact congrArg Host.Outcome.next (State.dataMsg_next h _)
  have hvregs : v.regs = r.regs := by rw [hv]
  have hrdV (f : Fld) : (v.send (.placeAck p.cycle crc)).rd f 0 = r.rd f 0 :=
    regsOnly_of_regs ((State.send_regs ..).trans hvregs) [] f 0 (by simp)
  have hshf : (v.send (.placeAck p.cycle crc)).shf = r.shf :=
    (State.send_frame (pt := .shf) (by decide) (Part.same_refl _ v)).trans (by rw [hv])
  have hovm : (v.send (.placeAck p.cycle crc)).ovm = r.ovm :=
    (State.send_frame (pt := .ovm) (by decide) (Part.same_refl _ v)).trans (by rw [hv])
  obtain ⟨sent, ctl, data, hpar⟩ := State.send_par v (.placeAck p.cycle crc)
  obtain ⟨y, rest, hsent, hmsg⟩ := State.send_newest v (m := .placeAck p.cycle crc) (Or.inl rfl)
  have hnio : n.io = s.io := by
    rw [hn]
    exact (State.notePlace_same (pt := .io) (by decide) a p).trans (by rw [ha]; rfl)
  have hnregs : RegsOnly [(Reg.SHF_BANK_ARMED, 0), (Reg.MAP_PAGE_ARMED, 0)] s n := by
    refine regsOnly_of_regs ?_ _
    rw [hn]
    exact (State.notePlace_same (pt := .regs) (by decide) a p).trans (by rw [ha]; rfl)
  refine ⟨_, hexec, by rw [hshf]; exact harm, (hrdV _).trans hbank, (hrdV _).trans hpage, by rw [hpar, hv],
    ⟨{ b with armed := true }, by rw [hovm]; exact harmO, rfl, hmoves⟩, ⟨y, rest, crc, hsent, hmsg⟩, ?_, ?_⟩
  · rw [State.send_io, hv]
    exact hioA.trans hnio
  · exact RegsOnly.of_regs (RegsOnly.trans hnregs hregsA) ((State.send_regs ..).trans hvregs)

theorem completes_placeAck {cycle crc : Nat} {p : PlaceMsg} {b : ArmSt} (h : FreshControl s 8 m.head (headGood m))
    (harm : s.ovm.arm = some b) (hidle : b.armed = false) (hplacing : s.par.placing = some (p, crc)) (hcycle : p.cycle = cycle)
    (hdue : (s.elapse dt).swapBoundary = (cycle * Config.cyclePos, false)) :
    Completes (.placeAck dt m cycle crc) s fun t =>
      t.shf.armDue = some (cycle * Config.cyclePos) ∧ t.ovm.arm = some { b with armed := true } ∧
      t.rd Reg.SHF_BANK_ARMED 0 = 1 ∧ t.rd Reg.MAP_PAGE_ARMED 0 = 1 ∧ t.io = s.io ∧
      RegsOnly [(Reg.SHF_BANK_ARMED, 0), (Reg.MAP_PAGE_ARMED, 0)] s t := by
  obtain ⟨a, ha⟩ : ∃ a, a = (s.elapse dt).heardControl m.head := ⟨_, rfl⟩
  have harm' : a.ovm.arm = some b := by rw [ha]; exact harm
  have hplacing' : a.par.placing = some (p, crc) := by rw [ha]; exact hplacing
  have hdue' : a.swapBoundary = (cycle * Config.cyclePos, false) := by rw [ha]; exact hdue
  have hexec : exec (.placeAck dt m cycle crc) s = .next (a.armNow b (cycle * Config.cyclePos) false) := by
    show execPlaceAck dt m cycle crc s = _
    unfold execPlaceAck
    rw [State.control_fresh h, ← ha]
    dsimp only
    rw [harm', hplacing']
    dsimp only
    rw [hidle, hcycle, bne_self_eq_false, bne_self_eq_false, hdue']
    dsimp only
    rw [if_neg (by decide), if_pos rfl]
  obtain ⟨hdueA, harmA, hbank, hpage, hio, -, hregs⟩ := State.armNow_spec a b (cycle * Config.cyclePos)
  refine ⟨_, hexec, hdueA, harmA, hbank, hpage, by rw [hio, ha]; rfl, RegsOnly.trans ?_ hregs⟩
  rw [ha]
  exact RegsOnly.refl _ s

/-! ### CTRL_IMAGE and GATE -/

theorem completes_ctrlImage {e : ImageEntry} {g : ApsGroup} (h : FreshControl s 9 m.head (headGood m)) (hauth : s.hasAuthority = false)
    (hg : tfind s.frm.groups e.group = some g) :
    Completes (.ctrlImage dt m [e]) s fun t =>
      tfind t.frm.groups e.group = some { g with tx := e.tx, wanted := e.leg, request := e.request } ∧ t.io = s.io ∧
      RegsOnly [] s t := by
  obtain ⟨a, ha⟩ : ∃ a, a = (s.elapse dt).heardControl m.head := ⟨_, rfl⟩
  have hauth' : a.hasAuthority = false := by rw [ha]; exact hauth
  have hg' : tfind a.frm.groups e.group = some g := by rw [ha]; exact hg
  have hexec : exec (.ctrlImage dt m [e]) s = .next (a.setGroup e.group { g with tx := e.tx, wanted := e.leg, request := e.request }) := by
    show execCtrlImage dt m [e] s = _
    unfold execCtrlImage
    rw [State.control_fresh h, ← ha, hauth', if_neg Bool.false_ne_true, List.foldl_cons, List.foldl_nil, hg']
  refine ⟨_, hexec, tfind_tset_same .., by rw [ha]; rfl, ?_⟩
  rw [ha]
  exact RegsOnly.refl _ s

theorem completes_gate {e : GateEntry} (h : NextData s 10 x.head (textGood x)) (hplan : s.par.planner = false)
    (hgates : readGates x.payload = [e]) :
    Completes (.gate dt x) s fun t => tfind t.par.plans (planKey e.ctx e.frame) = some e ∧ t.io = s.io ∧ RegsOnly [] s t := by
  obtain ⟨a, ha⟩ : ∃ a, a = (s.elapse dt).nextData x.head := ⟨_, rfl⟩
  have hplan' : a.par.planner = false := by rw [ha]; exact hplan
  have hexec : exec (.gate dt x) s = .next { a with par := { a.par with plans := tset a.par.plans (planKey e.ctx e.frame) e } } := by
    show execGate dt x s = _
    unfold execGate
    rw [State.dataMsg_next h, ← ha, hgates]
    show Host.Outcome.next (a.takeGates [e]) = _
    unfold State.takeGates
    rw [hplan']
    rfl
  refine ⟨_, hexec, tfind_tset_same .., by rw [ha]; rfl, ?_⟩
  rw [ha]
  exact RegsOnly.refl _ s

/-! ### STATE_ACK and DRILL -/

theorem completes_stateAck (h : FreshControl s 13 x.head (textGood x)) (hdrill : s.par.drill = none) (hverdict : x.payload.getD 8 0 = 0) :
    Completes (.stateAck dt x) s fun t =>
      t.par.mateApplied = some (addrOfStamp (beNum (cut x.payload 0 8))) ∧ t.par.fullSince = none ∧ t.io = s.io ∧
      RegsOnly [] s t := by
  obtain ⟨n, hn⟩ : ∃ n, n = beNum (cut x.payload 0 8) := ⟨_, rfl⟩
  obtain ⟨a, ha⟩ : ∃ a, a = (s.elapse dt).heardControl x.head := ⟨_, rfl⟩
  have hdrill' : a.par.drill = none := by rw [ha]; exact hdrill
  have htake : a.takeAck n 0 = { a with par := { a.par with mateApplied := some (addrOfStamp n), fullSince := none } } := by
    unfold State.takeAck
    dsimp only
    rw [hdrill']
    rfl
  have hexec : exec (.stateAck dt x) s = .next { a with par := { a.par with mateApplied := some (addrOfStamp n), fullSince := none } } := by
    rw [← htake, ← hverdict, hn, ha]
    exact congrArg Host.Outcome.next (State.controlText_fresh h _)
  rw [← hn]
  refine ⟨_, hexec, rfl, rfl, by rw [ha]; rfl, ?_⟩
  rw [ha]
  exact RegsOnly.refl _ s

theorem completes_drill {options cycle : Nat} (h : FreshControl s 14 m.head (headGood m)) :
    Completes (.drill dt m options cycle) s fun t =>
      t.par.drill = some { options := options, phase := 4, since := s.time + dt, snap := cycle * Config.cyclePos } ∧
      t.io = s.io ∧ RegsOnly [] s t :=
  ⟨_, congrArg Host.Outcome.next (State.control_fresh h _), rfl, rfl, RegsOnly.refl _ s⟩

end

end Sys2Proof.Machine
end


section
/-! PROOFS. Snapshots: staging, commits and what a unit in step does next (R407, R412 to R415). -/

namespace Sys2Proof.Machine

section
variable {s t : State} {dt : Nat} {x : MateText}

/-! ### Snapshots discarded -/

/-- What a snapshot's being discarded leaves. -/
theorem State.discardEpoch_spec (s : State) (addr reason : Nat) :
    (s.discardEpoch addr reason).par.applied = s.par.applied ∧ (s.discardEpoch addr reason).par.staging = none ∧
    (s.discardEpoch addr reason).cip = s.cip ∧
    Raised (s.discardEpoch addr reason) Ev.PAR_EPOCH_DISCARDED srcDevice [addrItem addr, (1, reason)] ∧
    (s.discardEpoch addr reason).rd Reg.PAR_EPOCH_DISCARD_CNT 0 = (s.rd Reg.PAR_EPOCH_DISCARD_CNT 0 + 1) % 2 ^ 32 ∧
    RegsOnly [(Reg.PAR_EPOCH_DISCARD_CNT, 0), (Reg.PAR_FAULTED, 0), (Reg.PAR_FAULT_CAUSE, 0), (Reg.PAR_HEALTHY, 0)] s
      (s.discardEpoch addr reason) := by
  obtain ⟨b, hb⟩ : ∃ b : State, b = { s with par := { s.par with
    staging := none, missRun := if reason = 1 then s.par.missRun else s.par.missRun + 1 } } := ⟨_, rfl⟩
  obtain ⟨c, hc⟩ : ∃ c, c = (b.count Reg.PAR_EPOCH_DISCARD_CNT 0).raise Ev.PAR_EPOCH_DISCARDED srcDevice [addrItem addr, (1, reason)] := ⟨_, rfl⟩
  obtain ⟨m, hm⟩ : ∃ m, m = MateMsg.stateAck (stampOf addr) reason := ⟨_, rfl⟩
  have hdiscard : s.discardEpoch addr reason = (c.send m).parRegs := by
    rw [hc, hb, hm]
    rfl
  obtain ⟨sent, ctl, data, hpar⟩ := State.send_par c m
  have hcnt : c.rd Reg.PAR_EPOCH_DISCARD_CNT 0 = (s.rd Reg.PAR_EPOCH_DISCARD_CNT 0 + 1) % 2 ^ 32 := by
    rw [hc, State.raise_rd, State.count_rd_same', hb]
    rfl
  have hregs : RegsOnly [(Reg.PAR_EPOCH_DISCARD_CNT, 0), (Reg.PAR_FAULTED, 0), (Reg.PAR_FAULT_CAUSE, 0), (Reg.PAR_HEALTHY, 0)] s c := by
    rw [hc, hb]
    exact RegsOnly.raise (RegsOnly.count (RegsOnly.upd (RegsOnly.refl _ s)) (List.mem_cons_self ..)) _ _ _
  rw [hdiscard]
  refine ⟨?_, ?_, ?_, ?_, ?_, ?_⟩
  · rw [State.parRegs_par, hpar, hc, hb]
    rfl
  · rw [State.parRegs_par, hpar, hc, hb]
    rfl
  · rw [show (c.send m).parRegs.cip = c.cip from
      State.parRegs_frame (pt := .cip) (by decide) (State.send_frame (pt := .cip) (by decide) (Part.same_refl _ c)), hc, hb]
    rfl
  · refine Raised.of_io ?_ ((State.parRegs_io _).trans (State.send_io ..))
    rw [hc]
    exact State.raise_raised ..
  · rw [State.parRegs_regsOnly _ _ _ (by decide), regsOnly_of_regs (State.send_regs ..) [] _ _ (by simp), hcnt]
  · refine RegsOnly.trans (RegsOnly.of_regs hregs (State.send_regs ..)) (RegsOnly.mono (State.parRegs_regsOnly _) ?_)
    exact fun e he => List.mem_cons_of_mem _ he

/-! ### STATE_DATA -/

/-- A snapshot is discarded whole, and what still comes of it is dropped. -/
def State.taintStaging (s : State) (g : Staging) : State :=
  let d := s.discardEpoch g.since 3
  { d with par := { d.par with staging := some { g with dead := true } } }

section
variable (h : NextData s 11 x.head (textGood x)) (hst : s.parSt = parJoining ∨ s.parSt = parStandby) (hkeyed : s.bulkKeyed = true)
  (halive : ∀ g, s.par.staging = some g → g.dead = false)
include h hst hkeyed halive

/-- A message of a snapshot's data is opened into staging; one that is tainted ends the snapshot. -/
theorem exec_stateData {b : BulkMsg} (hb : b = readBulk true x.payload) {g : Staging}
    (hg : g = s.par.staging.getD { since := snapOf ((s.elapse dt).sentAddr x.head) }) {r : Nat}
    (hr : r = if b.tag = s.bulkTag b b.text then 0 else 2) {a1 : State}
    (ha1 : a1 = ((s.elapse dt).nextData x.head).bulkResult (((s.elapse dt).nextData x.head).bulkPipe.getD 0) b r) {a2 : State}
    (ha2 : a2 = { a1 with par := { a1.par with staging := some { g with ivs := g.ivs ++ [(b.iv % 2 ^ 47, r, s.openBulk b)] } } }) :
    exec (.stateData dt x) s = .next (if r = 2 then a2.taintStaging g else a2) := by
  obtain ⟨a, ha⟩ : ∃ a, a = (s.elapse dt).nextData x.head := ⟨_, rfl⟩
  rw [← ha] at ha1
  have hjoin : ¬ (a.parSt != parJoining && a.parSt != parStandby) = true := by
    have hpar : a.parSt = s.parSt := by rw [ha]; rfl
    rw [hpar]
    rcases hst with h1 | h2
    · rw [h1]; decide
    · rw [h2]; decide
  have hkeyed' : a.bulkKeyed = true := by rw [ha]; exact hkeyed
  have hkey (m : BulkMsg) : a.bulkKey m = s.bulkKey m := State.bulkKey_congr (by rw [ha]; rfl) (by rw [ha]; rfl) m
  have hopen : a.openBulk b = s.openBulk b := by
    unfold State.openBulk
    rw [hkey]
  have hstaging : a.par.staging.getD { since := snapOf ((s.elapse dt).sentAddr x.head) } = g := by rw [hg, ha]; rfl
  have hdead : g.dead = false := by
    rw [hg]
    cases hs : s.par.staging with
    | none => rfl
    | some y => exact halive y hs
  have hexec : exec (.stateData dt x) s = .next (a.takeStateData ((s.elapse dt).sentAddr x.head) b) := by
    rw [ha, hb]
    exact congrArg Host.Outcome.next (State.dataMsg_next h _)
  rw [hexec]
  refine congrArg Host.Outcome.next ?_
  unfold State.takeStateData
  rw [if_neg hjoin, hstaging, hkeyed', Bool.not_true, if_neg Bool.false_ne_true, State.bulkTag_congr hkey, ← hr, hopen]
  extract_lets g' r' b1 p b2 b3
  have hb2 : b2 = a2 := by
    rw [ha2, ha1]
  have hgo : ¬ g'.dead = true := by
    rw [show g'.dead = false from hdead]
    exact Bool.false_ne_true
  refine (if_neg hgo).trans ?_
  rw [← hb2]
  rfl

theorem completes_stateData :
    Completes (.stateData dt x) s fun t =>
      let b := readBulk true x.payload
      let g := s.par.staging.getD { since := snapOf ((s.elapse dt).sentAddr x.head) }
      let good := b.tag = s.bulkTag b b.text
      (good → t.par.staging = some { g with ivs := g.ivs ++ [(b.iv % 2 ^ 47, 0, s.openBulk b)] } ∧
        t.cip.results = ((b, 0) :: s.cip.results).take 256 ∧ t.io = s.io ∧ RegsOnly [] s t) ∧
      (¬good → t.par.staging.map (·.dead) = some true ∧ t.cip.results = ((b, 2) :: s.cip.results).take 256 ∧
        t.rd Reg.CIP_BULK_AUTH_FAIL_CNT 0 = (s.rd Reg.CIP_BULK_AUTH_FAIL_CNT 0 + 1) % 2 ^ 32 ∧
        t.rd Reg.PAR_EPOCH_DISCARD_CNT 0 = (s.rd Reg.PAR_EPOCH_DISCARD_CNT 0 + 1) % 2 ^ 32 ∧
        Raised t Ev.PAR_EPOCH_DISCARDED srcDevice [addrItem g.since, (1, 3)]) := by
  obtain ⟨b, hb⟩ : ∃ b, b = readBulk true x.payload := ⟨_, rfl⟩
  obtain ⟨g, hg⟩ : ∃ g, g = s.par.staging.getD { since := snapOf ((s.elapse dt).sentAddr x.head) } := ⟨_, rfl⟩
  obtain ⟨r, hr⟩ : ∃ r, r = if b.tag = s.bulkTag b b.text then 0 else 2 := ⟨_, rfl⟩
  obtain ⟨a, ha⟩ : ∃ a, a = (s.elapse dt).nextData x.head := ⟨_, rfl⟩
  obtain ⟨pipe, hpipe⟩ : ∃ p, p = a.bulkPipe.getD 0 := ⟨_, rfl⟩
  obtain ⟨a1, ha1⟩ : ∃ a1, a1 = a.bulkResult pipe b r := ⟨_, rfl⟩
  obtain ⟨a2, ha2⟩ : ∃ a2 : State, a2 = { a1 with par := { a1.par with
    staging := some { g with ivs := g.ivs ++ [(b.iv % 2 ^ 47, r, s.openBulk b)] } } } := ⟨_, rfl⟩
  have hexec := exec_stateData h hst hkeyed halive hb hg hr (by rw [ha1, hpipe, ha]) ha2
  obtain ⟨-, hresults, hgood, hbad⟩ := State.bulkResult_spec a pipe b r
  rw [← ha1] at hresults hgood hbad
  have hcip : a.cip = s.cip := by rw [ha]; rfl
  have hregs : a.regs = s.regs := by rw [ha]; rfl
  rw [hcip] at hresults
  rw [← hb, ← hg]
  refine ⟨_, hexec, fun hg' => ?_, fun hg' => ?_⟩
  · have hr0 : r = 0 := hr.trans (if_pos hg')
    rw [hr0, if_neg (by decide), ha2, hr0]
    refine ⟨rfl, by rw [← hr0]; exact hresults, ?_, regsOnly_of_regs ((hgood hr0).trans hregs) _⟩
    show a1.io = s.io
    rw [ha1, hr0, ha]
    rfl
  · have hr2 : r = 2 := hr.trans (if_neg hg')
    obtain ⟨hcnt, honly⟩ := hbad (Or.inr hr2)
    obtain ⟨-, -, hcipD, hraised, hcntD, honlyD⟩ := State.discardEpoch_spec a2 g.since 3
    obtain ⟨d, hd⟩ : ∃ d, d = a2.discardEpoch g.since 3 := ⟨_, rfl⟩
    have htaint : a2.taintStaging g = { d with par := { d.par with staging := some { g with dead := true } } } := by
      rw [hd]
      rfl
    rw [← hd] at hcipD hraised hcntD honlyD
    have hrd2 (f : Fld) : a2.rd f 0 = a1.rd f 0 := by rw [ha2]; rfl
    have hrdA (f : Fld) : a.rd f 0 = s.rd f 0 := regsOnly_of_regs hregs [] _ _ (by simp)
    rw [if_pos hr2, htaint]
    refine ⟨rfl, ?_, ?_, ?_, hraised⟩
    · show d.cip.results = _
      rw [hcipD, ha2, ← hr2]
      exact hresults
    · show d.rd Reg.CIP_BULK_AUTH_FAIL_CNT 0 = _
      rw [honlyD _ _ (by decide), hrd2, hcnt, hrdA]
    · show d.rd Reg.PAR_EPOCH_DISCARD_CNT 0 = _
      rw [hcntD, hrd2, honly _ _ (by decide), hrdA]

end

/-! ### What a unit does once a snapshot is judged -/

/-- The snapshot applied, the misses and the counts of snapshots stand as they were, and none is in staging. -/
structure CopyKept (s t : State) : Prop where
  applied : t.par.applied = s.par.applied
  staging : t.par.staging = none
  missRun : t.par.missRun = s.par.missRun
  regs : t.rd Reg.PAR_EPOCH_APPLIED_CNT 0 = s.rd Reg.PAR_EPOCH_APPLIED_CNT 0 ∧
    t.rd Reg.PAR_EPOCH_DISCARD_CNT 0 = s.rd Reg.PAR_EPOCH_DISCARD_CNT 0

theorem CopyKept.refl (h : s.par.staging = none) : CopyKept s s := ⟨rfl, h, rfl, rfl, rfl⟩

theorem CopyKept.trans {u : State} (h : CopyKept s t) (k : CopyKept t u) : CopyKept s u :=
  ⟨k.applied.trans h.applied, k.staging, k.missRun.trans h.missRun, k.regs.1.trans h.regs.1, k.regs.2.trans h.regs.2⟩

/-- Where the pair's state says the same of snapshots, and their counts are not written. -/
theorem CopyKept.step {u : State} (h : CopyKept s t) (happlied : u.par.applied = t.par.applied) (hstaging : u.par.staging = t.par.staging)
    (hmiss : u.par.missRun = t.par.missRun) {l : List (Fld × Nat)} (hregs : RegsOnly l t u)
    (hl : ∀ e ∈ l, e.1.key e.2 ≠ Reg.PAR_EPOCH_APPLIED_CNT.key 0 ∧ e.1.key e.2 ≠ Reg.PAR_EPOCH_DISCARD_CNT.key 0) : CopyKept s u :=
  h.trans ⟨happlied, hstaging.trans h.staging, hmiss, hregs _ _ (fun e he => (hl e he).1), hregs _ _ (fun e he => (hl e he).2)⟩

theorem CopyKept.same (h : CopyKept s t) {u : State} (hpar : u.par = t.par) {l : List (Fld × Nat)} (hregs : RegsOnly l t u)
    (hl : ∀ e ∈ l, e.1.key e.2 ≠ Reg.PAR_EPOCH_APPLIED_CNT.key 0 ∧ e.1.key e.2 ≠ Reg.PAR_EPOCH_DISCARD_CNT.key 0) : CopyKept s u :=
  h.step (by rw [hpar]) (by rw [hpar]) (by rw [hpar]) hregs hl

theorem State.setPar_copy (h : CopyKept s t) (v cause : Nat) : CopyKept s (t.setPar v cause) :=
  h.same (State.setPar_par ..) (State.setPar_regsOnly t v cause) (by decide)

theorem State.send_copy (h : CopyKept s t) (m : MateMsg) : CopyKept s (t.send m) := by
  obtain ⟨sent, ctl, data, hpar⟩ := State.send_par t m
  exact h.step (by rw [hpar]) (by rw [hpar]) (by rw [hpar]) (regsOnly_of_regs (State.send_regs t m) []) (by simp)

theorem State.endTake_copy (h : CopyKept s t) (reason : Nat) : CopyKept s (t.endTake reason) := by
  unfold State.endTake
  split
  · exact h
  · dsimp only
    have hend : CopyKept s { t with par := { t.par with takeHost := none } } := ⟨h.applied, h.staging, h.missRun, h.regs⟩
    split
    · exact hend.same rfl (RegsOnly.refl [] _) (by simp)
    · exact hend.same rfl (RegsOnly.refl [] _) (by simp)

theorem State.drillPassed_copy (h : CopyKept s t) (phase gaveAt : Nat) : CopyKept s (t.drillPassed phase gaveAt) := by
  have hend : CopyKept s (t.endDrill 0 gaveAt) := ⟨h.applied, h.staging, h.missRun, h.regs⟩
  unfold State.drillPassed
  split
  · exact h
  · dsimp only
    split
    · exact h
    · split
      · exact ⟨hend.applied, hend.staging, hend.missRun, hend.regs⟩
      · exact hend

theorem State.becomeActive_copy (h : CopyKept s t) : CopyKept s t.becomeActive := by
  unfold State.becomeActive
  extract_lets cause gap epoch nonce s0 s1 behind s2 p s3 s4
  have h1 : s1 = s0 := by
    show (match t.par.staging with | some g => if g.dead then s0 else s0.discardEpoch g.since 1 | none => s0) = s0
    rw [h.staging]
  have h3 : CopyKept s s3 := by
    have h2 : CopyKept s s2 := by
      show CopyKept s (s1.markGap _)
      rw [h1]
      exact ⟨h.applied, h.staging, h.missRun, h.regs⟩
    exact ⟨h2.applied, rfl, h2.missRun, h2.regs⟩
  have hleased : CopyKept s (s3.wrBit Reg.PAR_LEASED 0 false) :=
    h3.same rfl (RegsOnly.wrBit (l := [(Reg.PAR_LEASED, 0)]) (RegsOnly.refl _ s3) (List.mem_cons_self ..)) (by decide)
  have hactive := State.setPar_copy hleased parActive cause
  have h4 : CopyKept s s4 :=
    hactive.same rfl (RegsOnly.raise (RegsOnly.count (l := [(Reg.PAR_TAKEOVER_CNT, 0)]) (RegsOnly.refl _ _) (List.mem_cons_self ..)) _ _ _)
      (by decide)
  exact State.endTake_copy (State.send_copy (State.send_copy h4 _) _) 0

theorem State.tryActive_copy (h : CopyKept s t) : CopyKept s t.tryActive := by
  unfold State.tryActive
  split
  · exact h
  · split
    · exact State.endTake_copy (State.setPar_copy h _ _) 4
    · extract_lets view own
      clear_value view own
      split
      · split
        · exact State.drillPassed_copy (State.becomeActive_copy h) _ _
        · exact State.becomeActive_copy h
      · exact h

theorem State.tryTake_copy (h : CopyKept s t) : CopyKept s t.tryTake := by
  unfold State.tryTake
  split
  · have hcause : CopyKept s { t with par := { t.par with takeCause := 1, takeHost := none } } := ⟨h.applied, h.staging, h.missRun, h.regs⟩
    exact State.tryActive_copy (State.setPar_copy hcause parTaking 1)
  · exact h

theorem State.review_copy (h : CopyKept s t) : CopyKept s t.review :=
  State.tryTake_copy (State.tryActive_copy (h.same (State.parRegs_par t) (State.parRegs_regsOnly t) (by decide)))

theorem State.tryStandby_copy (h : CopyKept s t) : CopyKept s t.tryStandby := by
  unfold State.tryStandby
  split
  · exact State.review_copy (State.setPar_copy h _ _)
  · exact h

/-! ### What a snapshot changes -/

/-- Nothing of the pair's own state changes, and the count of snapshots applied is not written. -/
def AppliedKept (s t : State) : Prop := t.par = s.par ∧ t.rd Reg.PAR_EPOCH_APPLIED_CNT 0 = s.rd Reg.PAR_EPOCH_APPLIED_CNT 0

theorem AppliedKept.refl (s : State) : AppliedKept s s := ⟨rfl, rfl⟩

theorem AppliedKept.trans {u : State} (h : AppliedKept s t) (k : AppliedKept t u) : AppliedKept s u := ⟨k.1.trans h.1, k.2.trans h.2⟩

theorem AppliedKept.of_regs (hpar : t.par = s.par) {l : List (Fld × Nat)} (hregs : RegsOnly l s t)
    (hl : ∀ e ∈ l, e.1.key e.2 ≠ Reg.PAR_EPOCH_APPLIED_CNT.key 0) : AppliedKept s t := ⟨hpar, hregs _ _ hl⟩

theorem AppliedKept.of_same (hpar : t.par = s.par) (hregs : t.regs = s.regs) : AppliedKept s t :=
  AppliedKept.of_regs hpar (regsOnly_of_regs hregs []) (by simp)

theorem foldl_appliedKept {α : Type} {f : State → α → State} (hf : ∀ a x, AppliedKept a (f a x)) (l : List α) :
    ∀ a : State, AppliedKept a (l.foldl f a) := by
  induction l with
  | nil => exact AppliedKept.refl
  | cons x rest ih => exact fun a => (hf a x).trans (ih _)

/-- No link's channels share a register with the count of snapshots applied. -/
theorem State.dropSlot_applied (s : State) (n slot : Nat) : AppliedKept s (s.dropSlot n slot) := by
  have hkey : Reg.PAR_EPOCH_APPLIED_CNT.key 0 ≠ (chanLosFld slot).key n := by
    unfold chanLosFld
    split
    all_goals
      simp only [Fld.key, Reg.PAR_EPOCH_APPLIED_CNT, Reg.PRT_TRB_CHAN_LOS0, Reg.PRT_TRB_CHAN_LOS1, Reg.PRT_TRB_CHAN_LOS2, Reg.PRT_TRB_CHAN_LOS3]
      omega
  exact ⟨rfl, State.wr_rd_other _ _ _ _ _ _ hkey⟩

theorem State.stopPoint_applied (s : State) (p : Nat) : AppliedKept s (s.stopPoint p) := by
  refine AppliedKept.of_regs (l := pmCounts) (State.stopPoint_frame (pt := .par) (by decide) (Part.same_refl _ s)) ?_ (by decide)
  have hclose := (State.closeNow_other (PmOther.refl 0 s) p (s.point p) 1).regs
  unfold State.stopPoint
  dsimp only
  generalize s.closeNow p (s.point p) 1 = r at hclose ⊢
  split
  · exact RegsOnly.upd hclose
  · exact RegsOnly.refl _ s

theorem State.dropCipher_applied (s : State) (c : Nat) : AppliedKept s (s.dropCipher c) := by
  refine AppliedKept.of_regs (l := cipFields) (State.dropCipher_frame (pt := .par) (by decide) (Part.same_refl _ s)) ?_ (by decide)
  unfold State.dropCipher
  dsimp only
  refine RegsOnly.of_regs ?_ (State.endFlip_frame (pt := .regs) (by decide) (Part.same_refl _ _))
  exact RegsOnly.trans (RegsOnly.trans (RegsOnly.upd (RegsOnly.refl _ s)) (State.cipRegs_regsOnly _)) (State.busyRegs_regsOnly _)

theorem State.dropCtx_applied (s : State) (c : Nat) : AppliedKept s (s.dropCtx c) := by
  unfold State.dropCtx
  split
  · exact AppliedKept.refl s
  · extract_lets s0 s1 qs
    have h0 : AppliedKept s s0 := by
      show AppliedKept s (if _ then _ else _)
      split
      · exact State.dropSlot_applied ..
      · exact AppliedKept.refl s
    have htubs : AppliedKept s0 (s0.dropTubs c) :=
      AppliedKept.of_same (State.dropTubs_frame (pt := .par) (by decide) (Part.same_refl _ s0))
        (State.dropTubs_frame (pt := .regs) (by decide) (Part.same_refl _ s0))
    have h1 : AppliedKept s s1 := ((h0.trans htubs).trans (State.stopPoint_applied ..)).trans (State.dropCipher_applied ..)
    exact h1.trans (AppliedKept.of_same rfl rfl)

theorem State.placeCipher_applied (s : State) (c slot epoch : Nat) (joins : Bool) : AppliedKept s (s.placeCipher c slot epoch joins) := by
  refine AppliedKept.of_regs (l := cipFields) (State.placeCipher_frame (pt := .par) (by decide) (Part.same_refl _ s)) ?_ (by decide)
  unfold State.placeCipher State.wantKeys
  extract_lets x s1
  have h1 : RegsOnly cipFields s s1 := by
    refine RegsOnly.trans ?_ (State.markUsed_spec _ slot epoch).2
    iterate 4 refine RegsOnly.trans ?_ (State.wantKey_regsOnly _ _ _ _ _)
    exact State.setCip_regsOnly s c x
  have hstop (a : State) (cause : Nat) : RegsOnly cipFields a (a.stopDir c 0 cause) := by
    unfold State.stopDir
    split
    · exact RegsOnly.refl _ a
    · simp only [↓reduceIte]
      split
      · exact RegsOnly.refl _ a
      · exact RegsOnly.raise (State.setCip_regsOnly a c _) _ _ _
  split
  · exact RegsOnly.trans h1 (hstop _ _)
  · split
    · exact RegsOnly.trans h1 (hstop _ _)
    · exact h1

theorem State.copyCtx_applied (s : State) (i : Nat) (p : PlacedCtx) : AppliedKept s (s.copyCtx i p) := by
  unfold State.copyCtx
  extract_lets y p' s1 s2 s3 s4
  split
  · exact AppliedKept.of_same rfl rfl
  · have h2 : AppliedKept s s2 := by
      show AppliedKept s (if _ then _ else _)
      split <;> exact AppliedKept.of_same rfl rfl
    have h3 : AppliedKept s s3 := by
      show AppliedKept s (if _ then _ else _)
      split
      · exact h2
      · exact h2.trans (AppliedKept.of_same (State.pmPlace_frame (pt := .par) (by decide) (Part.same_refl _ s2))
          (State.pmPlace_frame (pt := .regs) (by decide) (Part.same_refl _ s2)))
    have h4 : AppliedKept s s4 := by
      show AppliedKept s (if _ then _ else _)
      split
      · exact h3.trans (AppliedKept.of_same rfl rfl)
      · exact h3
    split
    · exact h4.trans (State.placeCipher_applied ..)
    · exact h4

theorem State.addGroup_applied (s : State) (y : IntentSt) : AppliedKept s (s.addGroup y) := by
  unfold State.addGroup
  split
  · split
    · split <;> exact AppliedKept.of_same rfl rfl
    · exact AppliedKept.refl s
  · dsimp only
    split <;> exact AppliedKept.of_same rfl rfl

theorem State.copyIntent_applied (s : State) (p : PlacedIntent) : AppliedKept s (s.copyIntent p) := by
  unfold State.copyIntent
  extract_lets i known y q s1
  have h1 : AppliedKept s s1 := AppliedKept.of_same rfl rfl
  split
  · have h2 := h1.trans (foldl_appliedKept (f := fun a c => a.copyCtx i c) (fun a c => State.copyCtx_applied a i c) p.ctxs s1)
    split
    · exact h2
    · exact h2.trans (State.addGroup_applied ..)
  · exact h1

theorem State.copyGroup_applied (s : State) (c : GroupCopy) : AppliedKept s (s.copyGroup c) := by
  unfold State.copyGroup
  split <;> exact AppliedKept.of_same rfl rfl

theorem State.copyDefect_applied (s : State) (c : DefectCopy) : AppliedKept s (s.copyDefect c) := by
  unfold State.copyDefect
  dsimp only
  split <;> exact AppliedKept.of_same rfl rfl

theorem State.copyEpoch_applied (s : State) (c : EpochCopy) : AppliedKept s (s.copyEpoch c) := by
  unfold State.copyEpoch
  split
  · exact AppliedKept.refl s
  · exact AppliedKept.of_regs rfl (State.setCip_regsOnly s _ _) (by decide)

theorem State.copySlot_applied (s : State) (c : SlotCopy) : AppliedKept s (s.copySlot c) :=
  AppliedKept.of_regs rfl (State.setSlot_regsOnly s _ _) (by decide)

/-- A snapshot is applied without a word of the pair's own state. -/
theorem State.applySnapshot_applied (s : State) (stamp : Nat) (full : Bool) (n : Snapshot) : AppliedKept s (s.applySnapshot stamp full n) := by
  unfold State.applySnapshot
  extract_lets names gone s1 s2 s3 s4
  have h1 : AppliedKept s s1 := foldl_appliedKept State.dropCtx_applied gone s
  have h2 : AppliedKept s s2 := h1.trans (foldl_appliedKept State.copyIntent_applied n.intents s1)
  have h3 : AppliedKept s s3 :=
    (((h2.trans (foldl_appliedKept State.copyGroup_applied n.groups _)).trans (foldl_appliedKept State.copyDefect_applied n.defects _)).trans
      (foldl_appliedKept State.copyEpoch_applied n.epochs _)).trans (foldl_appliedKept State.copySlot_applied n.slots _)
  have h4 : AppliedKept s s4 :=
    h3.trans (foldl_appliedKept (f := State.copyPoint) (fun _ _ => AppliedKept.of_same rfl rfl) n.points _)
  exact h4.trans (AppliedKept.of_same rfl rfl)

/-! ### STATE_COMMIT -/

theorem State.commitReason_congr (hstaging : t.par.staging = s.par.staging) (happlied : t.par.applied = s.par.applied)
    (haddr : t.addr = s.addr) (c : CommitRec) (tagOk : Bool) : t.commitReason c tagOk = s.commitReason c tagOk := by
  unfold State.commitReason
  rw [hstaging, happlied, haddr]

/-- A snapshot that is applied at its commit. -/
def State.commitApplied (s : State) (c : CommitRec) (snap : Snapshot) : State :=
  let a2 := ((s.waitAddr (nextCycle s.addr)).applySnapshot c.stamp c.base.isNone snap).epochRegs c.stamp
  let a3 : State := { a2 with par := { a2.par with staging := none, missRun := 0, joined := a2.par.joined || c.base.isNone } }
  (((a3.count Reg.PAR_EPOCH_APPLIED_CNT 0).send (.stateAck (stampOf c.stamp) 0)).tryStandby).review

/-- The address that a snapshot is known by as it is discarded at its commit. -/
def State.commitAddr (s : State) (c : CommitRec) (tagOk : Bool) : Nat :=
  if tagOk then c.stamp else match s.par.staging with | some g => g.since | none => s.addr

theorem State.commitApplied_spec (s : State) (c : CommitRec) (snap : Snapshot) :
    (s.commitApplied c snap).par.applied = some c.stamp ∧ (s.commitApplied c snap).par.staging = none ∧
    (s.commitApplied c snap).par.missRun = 0 ∧
    (s.commitApplied c snap).rd Reg.PAR_EPOCH_APPLIED_CNT 0 = (s.rd Reg.PAR_EPOCH_APPLIED_CNT 0 + 1) % 2 ^ 32 := by
  obtain ⟨a1, ha1⟩ : ∃ a1, a1 = (s.waitAddr (nextCycle s.addr)).applySnapshot c.stamp c.base.isNone snap := ⟨_, rfl⟩
  have hcnt1 : a1.rd Reg.PAR_EPOCH_APPLIED_CNT 0 = s.rd Reg.PAR_EPOCH_APPLIED_CNT 0 := by
    rw [ha1, (State.applySnapshot_applied ..).2, State.waitAddr_rd]
  obtain ⟨a3, ha3⟩ : ∃ a3 : State, a3 = { a1.epochRegs c.stamp with
    par := { (a1.epochRegs c.stamp).par with staging := none, missRun := 0, joined := (a1.epochRegs c.stamp).par.joined || c.base.isNone } } :=
    ⟨_, rfl⟩
  have hcnt3 : a3.rd Reg.PAR_EPOCH_APPLIED_CNT 0 = s.rd Reg.PAR_EPOCH_APPLIED_CNT 0 := by
    rw [ha3]
    refine Eq.trans ?_ hcnt1
    exact (State.wr_rd_other _ _ _ _ _ _ (by decide)).trans (State.wr_rd_other _ _ _ _ _ _ (by decide))
  obtain ⟨b, hb⟩ : ∃ b, b = a3.count Reg.PAR_EPOCH_APPLIED_CNT 0 := ⟨_, rfl⟩
  have hbpar : b.par = a3.par := by rw [hb]; rfl
  have hstaging : b.par.staging = none := by rw [hbpar, ha3]
  have hkept := State.review_copy (State.tryStandby_copy (State.send_copy (CopyKept.refl hstaging) (.stateAck (stampOf c.stamp) 0)))
  have heq : s.commitApplied c snap = ((b.send (.stateAck (stampOf c.stamp) 0)).tryStandby).review := by
    rw [hb, ha3, ha1]
    rfl
  rw [heq]
  refine ⟨?_, hkept.staging, ?_, ?_⟩
  · rw [hkept.applied, hbpar, ha3]
    rfl
  · rw [hkept.missRun, hbpar, ha3]
  · rw [hkept.regs.1, hb, State.count_rd_same', hcnt3]
    rfl

section
variable (h : FreshControl s 12 x.head (textGood x)) (hst : s.parSt = parJoining ∨ s.parSt = parStandby) (hkeyed : s.bulkKeyed = true)
  (halive : ∀ g, s.par.staging = some g → g.dead = false) (hcheck : s.perturbed 4 = false) (hdrill : s.par.drill = none)
include h hst hkeyed halive hcheck hdrill

theorem exec_stateCommit {snap : Snapshot} {b : BulkMsg} (hb : b = readBulk false x.payload) {c : CommitRec}
    (hc : c = readCommit (s.openBulk b)) {tagOk : Bool} (htag : tagOk = (b.tag == s.bulkTag b b.text)) {r : Nat}
    (hr : r = (s.elapse dt).commitReason c tagOk) :
    ∃ at_, exec (.stateCommit dt x snap) s = .next (if r = 0 then ((s.elapse dt).heardControl x.head).commitApplied c snap
      else (((s.elapse dt).heardControl x.head).discardEpoch at_ r).review) := by
  obtain ⟨a, ha⟩ : ∃ a, a = (s.elapse dt).heardControl x.head := ⟨_, rfl⟩
  have hjoin : ¬ (a.parSt != parJoining && a.parSt != parStandby) = true := by
    have hpar : a.parSt = s.parSt := by rw [ha]; rfl
    rw [hpar]
    rcases hst with h1 | h2
    · rw [h1]; decide
    · rw [h2]; decide
  have hkey (m : BulkMsg) : a.bulkKey m = s.bulkKey m := State.bulkKey_congr (by rw [ha]; rfl) (by rw [ha]; rfl) m
  have hopen : a.openBulk b = s.openBulk b := by
    unfold State.openBulk
    rw [hkey]
  have htagA : (a.bulkKeyed && b.tag == a.bulkTag b b.text) = tagOk := by
    rw [show a.bulkKeyed = true by rw [ha]; exact hkeyed, State.bulkTag_congr hkey, Bool.true_and, htag]
  have hmissed : (if tagOk then a.drillMissed c.stamp else a) = a := by
    split
    · unfold State.drillMissed
      rw [show a.par.drill = none by rw [ha]; exact hdrill]
    · rfl
  have hreason : a.commitReason c tagOk = r := by
    rw [hr]
    exact State.commitReason_congr (by rw [ha]; rfl) (by rw [ha]; rfl) (by rw [ha]; rfl) c tagOk
  have hcheckA : a.alterCheck 4 = (a, false) := by
    unfold State.alterCheck
    rw [show a.perturbed 4 = false by rw [ha]; exact hcheck]
    rfl
  have hdead : ¬ (match a.par.staging with | some g => g.dead | none => false) = true := by
    rw [show a.par.staging = s.par.staging by rw [ha]; rfl]
    cases hs : s.par.staging with
    | none => exact Bool.false_ne_true
    | some y => rw [show (match some y with | some g => Staging.dead g | none => false) = y.dead from rfl, halive y hs]; exact Bool.false_ne_true
  refine ⟨a.commitAddr c tagOk, ?_⟩
  have hexec : exec (.stateCommit dt x snap) s = .next (a.takeCommit b snap) := by
    rw [ha, hb]
    exact congrArg Host.Outcome.next (State.controlText_fresh h _)
  rw [hexec, ← ha]
  refine congrArg Host.Outcome.next ?_
  unfold State.takeCommit
  rw [htagA, hopen, ← hc]
  refine (if_neg hjoin).trans ?_
  rw [hmissed]
  refine (if_neg hdead).trans ?_
  rw [hcheckA]
  split
  next heq =>
    rw [if_pos (hreason.symm.trans heq)]
    exact if_neg Bool.false_ne_true
  next heq =>
    rw [if_neg (fun h0 => heq (hreason.trans h0)), hreason]
    rfl

theorem completes_stateCommit {snap : Snapshot} :
    Completes (.stateCommit dt x snap) s fun t =>
      let b := readBulk false x.payload
      let c := readCommit (s.openBulk b)
      let r := (s.elapse dt).commitReason c (b.tag == s.bulkTag b b.text)
      (r = 0 → t.par.applied = some c.stamp ∧ t.par.staging = none ∧ t.par.missRun = 0 ∧
        t.rd Reg.PAR_EPOCH_APPLIED_CNT 0 = (s.rd Reg.PAR_EPOCH_APPLIED_CNT 0 + 1) % 2 ^ 32) ∧
      (r ≠ 0 → t.par.applied = s.par.applied ∧ t.par.staging = none ∧
        t.rd Reg.PAR_EPOCH_DISCARD_CNT 0 = (s.rd Reg.PAR_EPOCH_DISCARD_CNT 0 + 1) % 2 ^ 32) := by
  obtain ⟨b, hb⟩ : ∃ b, b = readBulk false x.payload := ⟨_, rfl⟩
  obtain ⟨c, hc⟩ : ∃ c, c = readCommit (s.openBulk b) := ⟨_, rfl⟩
  obtain ⟨tagOk, htag⟩ : ∃ ok, ok = (b.tag == s.bulkTag b b.text) := ⟨_, rfl⟩
  obtain ⟨r, hr⟩ : ∃ r, r = (s.elapse dt).commitReason c tagOk := ⟨_, rfl⟩
  obtain ⟨at_, hexec⟩ := exec_stateCommit (dt := dt) (snap := snap) h hst hkeyed halive hcheck hdrill hb hc htag hr
  obtain ⟨a, ha⟩ : ∃ a, a = (s.elapse dt).heardControl x.head := ⟨_, rfl⟩
  rw [← ha] at hexec
  rw [← hb]
  dsimp only
  rw [← hc, ← htag, ← hr]
  refine ⟨_, hexec, fun h0 => ?_, fun hne => ?_⟩
  · obtain ⟨happlied, hstaging, hmiss, hcnt⟩ := State.commitApplied_spec a c snap
    rw [if_pos h0]
    refine ⟨happlied, hstaging, hmiss, ?_⟩
    rw [hcnt, ha]
    rfl
  · obtain ⟨happlied, hstaging, -, -, hcnt, -⟩ := State.discardEpoch_spec a at_ r
    have hkept := State.review_copy (CopyKept.refl hstaging)
    rw [if_neg hne]
    refine ⟨?_, hkept.staging, ?_⟩
    · rw [hkept.applied, happlied, ha]
      rfl
    · rw [hkept.regs.2, hcnt, ha]
      rfl

end

end

/-- Settles O43, message by message. -/
theorem mateMessagesTakeEffect : Obligations.MateMessagesTakeEffect := by
  unfold Obligations.MateMessagesTakeEffect
  intro s dt m x
  exact ⟨fun lane f hpaired hlane hon hsearch hlock hnext hmarker =>
      completes_mateFrameRx_first hpaired hlane hon hsearch hlock hnext hmarker,
    fun lane f hpaired hlane hon hsync hlock hnext hmarker hcrc =>
      completes_mateFrameRx_counted hpaired hlane hon hsync hlock hnext hmarker hcrc,
    fun hpaired hbad => completes_grant_bad hpaired hbad,
    fun h hactive hfresh => completes_grant h hactive hfresh,
    fun h hseek hmute => completes_ack h hseek hmute,
    fun chips cycle hpaired hpins hactive hchips hfresh => completes_tallyInWord hpaired hpins hactive hchips hfresh,
    fun h hjoin => completes_surrender h hjoin,
    fun h hstandby hdrill htake => completes_claim h hstandby hdrill htake,
    fun h hactive hready hstages => completes_health h hactive hready hstages,
    fun e h => completes_forward (run := fun a => (a.doRootLoad e true).1) h (fun _ => rfl),
    fun e h => completes_forward (run := fun a => (a.doKeyErase e true).1) h (fun _ => rfl),
    fun p stored h => completes_forward (run := fun a => (a.doEpochFlip p stored true).1) h (fun _ => rfl),
    fun p h hauth haddr hdue => completes_place h hauth haddr hdue,
    fun cycle crc p b h harm hidle hplacing hcycle hdue => completes_placeAck h harm hidle hplacing hcycle hdue,
    fun e g h hauth hg => completes_ctrlImage h hauth hg,
    fun e h hplan hgates => completes_gate h hplan hgates,
    fun h hst hkeyed halive => completes_stateData h hst hkeyed halive,
    fun snap h hst hkeyed halive hcheck hdrill => completes_stateCommit h hst hkeyed halive hcheck hdrill,
    fun h hdrill hverdict => completes_stateAck h hdrill hverdict,
    fun options cycle h => completes_drill h⟩

end Sys2Proof.Machine
end


section
/-! PROOFS. The tally: taking it, giving it up, and what neither touches (R402, R407 to R410, R415). -/

namespace Sys2Proof.Machine

section
variable {s t : State} {dt : Nat}

/-! ### The state taken -/

/-- A unit that takes another state has authority in ACTIVE alone. -/
theorem State.setPar_authority {v : Nat} (hold : s.parSt ≠ v) (cause : Nat) :
    (s.setPar v cause).rd Reg.PAR_AUTHORITY 0 = ofBool (v == parActive) := by
  obtain ⟨b, hb⟩ : ∃ b, b = (s.wr Reg.PAR_STATE 0 v).wrBit Reg.PAR_AUTHORITY 0 (v == parActive) := ⟨_, rfl⟩
  have hset : s.setPar v cause = (b.raise Ev.PAR_STATE_CHANGE srcDevice [(1, s.parSt), (1, v), (1, cause)]).ovmFollow.parRegs := by
    rw [hb]
    exact if_neg hold
  have hbit (on : Bool) : ofBool on % 2 ^ 1 = ofBool on := by cases on <;> rfl
  rw [hset, State.parRegs_regsOnly _ _ _ (by decide), State.ovmFollow_regsOnly _ _ _ (by decide), State.raise_rd, hb]
  exact (State.wrBit_rd_same ..).trans (hbit _)

theorem State.setPar_addr (s : State) (v cause : Nat) : (s.setPar v cause).addr = s.addr :=
  (State.setPar_frame (pt := .clock) (by decide) (Part.same_refl _ s)).2

theorem State.endTake_regs (s : State) (reason : Nat) : (s.endTake reason).regs = s.regs :=
  State.endTake_frame (pt := .regs) (by decide) (Part.same_refl _ s)

theorem State.endTake_addr (s : State) (reason : Nat) : (s.endTake reason).addr = s.addr :=
  (State.endTake_frame (pt := .clock) (by decide) (Part.same_refl _ s)).2

theorem State.send_addr (s : State) (m : MateMsg) : (s.send m).addr = s.addr :=
  (State.send_frame (pt := .clock) (by decide) (Part.same_refl _ s)).2

theorem State.parRegs_clear (h : s.par.faults = []) : s.parRegs.rd Reg.PAR_FAULTED 0 = 0 := by
  unfold State.parRegs
  refine (State.wr_rd_other _ _ _ _ _ _ (by decide)).trans ((State.wr_rd_other _ _ _ _ _ _ (by decide)).trans ?_)
  refine (State.wrBit_rd_same ..).trans ?_
  rw [h]
  rfl

/-! ### What taking the tally leaves -/

/-- The diagnosed faults and the cause of a takeover stand; no drill begins, and PAR_FAULTED goes on saying that there is no fault. -/
structure TallyKept (s t : State) : Prop where
  faults : t.par.faults = s.par.faults
  cause : t.par.takeCause = s.par.takeCause
  drill : s.par.drill = none → t.par.drill = none
  clear : (s.par.faults = [] → s.rd Reg.PAR_FAULTED 0 = 0) → t.par.faults = [] → t.rd Reg.PAR_FAULTED 0 = 0

theorem TallyKept.refl (s : State) : TallyKept s s := ⟨rfl, rfl, id, id⟩

theorem TallyKept.trans {u : State} (h : TallyKept s t) (k : TallyKept t u) : TallyKept s u :=
  ⟨k.faults.trans h.faults, k.cause.trans h.cause, fun hd => k.drill (h.drill hd), fun hc => k.clear (h.clear hc)⟩

theorem TallyKept.of_rd (hfaults : t.par.faults = s.par.faults) (hcause : t.par.takeCause = s.par.takeCause)
    (hdrill : s.par.drill = none → t.par.drill = none) (hrd : t.rd Reg.PAR_FAULTED 0 = s.rd Reg.PAR_FAULTED 0) : TallyKept s t :=
  ⟨hfaults, hcause, hdrill, fun hc hf => hrd.trans (hc (hfaults.symm.trans hf))⟩

theorem State.parRegs_tally (s : State) : TallyKept s s.parRegs := by
  have hpar := State.parRegs_par s
  exact ⟨by rw [hpar], by rw [hpar], by rw [hpar]; exact id, fun _ hf => State.parRegs_clear (by rw [hpar] at hf; exact hf)⟩

theorem State.setPar_tally (s : State) (v cause : Nat) : TallyKept s (s.setPar v cause) := by
  unfold State.setPar
  dsimp only
  split
  · exact TallyKept.refl s
  · refine TallyKept.trans ?_ (State.parRegs_tally _)
    refine TallyKept.of_rd ?_ ?_ ?_ ?_
    · rw [State.ovmFollow_par]; rfl
    · rw [State.ovmFollow_par]; rfl
    · rw [State.ovmFollow_par]; exact id
    · rw [State.ovmFollow_regsOnly _ _ _ (by decide), State.raise_rd]
      exact (State.wr_rd_other _ _ _ _ _ _ (by decide)).trans (State.wr_rd_other _ _ _ _ _ _ (by decide))

theorem State.send_tally (s : State) (m : MateMsg) : TallyKept s (s.send m) := by
  obtain ⟨sent, ctl, data, h⟩ := State.send_par s m
  exact TallyKept.of_rd (by rw [h]) (by rw [h]) (by rw [h]; exact id) (regsOnly_of_regs (State.send_regs s m) [] _ _ (by simp))

theorem State.endTake_tally (s : State) (reason : Nat) : TallyKept s (s.endTake reason) := by
  unfold State.endTake
  split
  · exact TallyKept.refl s
  · dsimp only
    split
    · exact TallyKept.of_rd rfl rfl id rfl
    · exact TallyKept.of_rd rfl rfl id rfl

theorem State.drillPassed_tally (s : State) (phase gaveAt : Nat) : TallyKept s (s.drillPassed phase gaveAt) := by
  unfold State.drillPassed
  split
  · exact TallyKept.refl s
  next d hd =>
    have hsome : s.par.drill ≠ none := by rw [hd]; exact Option.some_ne_none d
    dsimp only
    split
    · exact TallyKept.refl s
    · split
      · exact TallyKept.of_rd rfl rfl (fun h => absurd h hsome) rfl
      · exact TallyKept.of_rd rfl rfl (fun h => absurd h hsome) rfl

theorem State.discardEpoch_tally (s : State) (addr reason : Nat) : TallyKept s (s.discardEpoch addr reason) := by
  obtain ⟨b, hb⟩ : ∃ b : State, b = { s with par := { s.par with
    staging := none, missRun := if reason = 1 then s.par.missRun else s.par.missRun + 1 } } := ⟨_, rfl⟩
  obtain ⟨c, hc⟩ : ∃ c, c = (b.count Reg.PAR_EPOCH_DISCARD_CNT 0).raise Ev.PAR_EPOCH_DISCARDED srcDevice [addrItem addr, (1, reason)] := ⟨_, rfl⟩
  have hdiscard : s.discardEpoch addr reason = (c.send (.stateAck (stampOf addr) reason)).parRegs := by
    rw [hc, hb]
    rfl
  have hsc : TallyKept s c := by
    refine TallyKept.of_rd (by rw [hc, hb]; rfl) (by rw [hc, hb]; rfl) (by rw [hc, hb]; exact id) ?_
    rw [hc, State.raise_rd, hb]
    exact State.wr_rd_other _ _ _ _ _ _ (by decide)
  rw [hdiscard]
  exact (hsc.trans (State.send_tally ..)).trans (State.parRegs_tally _)

/-- A unit that becomes active gives up the snapshot in staging. -/
def State.unstaged (s : State) : State :=
  match s.par.staging with
  | some g => if g.dead then s else s.discardEpoch g.since 1
  | none => s

/-- The registers that a discarded snapshot writes. -/
def discardFields : List (Fld × Nat) :=
  [(Reg.PAR_EPOCH_DISCARD_CNT, 0), (Reg.PAR_FAULTED, 0), (Reg.PAR_FAULT_CAUSE, 0), (Reg.PAR_HEALTHY, 0)]

theorem State.unstaged_spec (s : State) : TallyKept s s.unstaged ∧ s.unstaged.addr = s.addr ∧ RegsOnly discardFields s s.unstaged := by
  unfold State.unstaged
  split
  next g _ =>
    split
    · exact ⟨TallyKept.refl s, rfl, RegsOnly.refl _ s⟩
    · obtain ⟨-, -, -, -, -, hregs⟩ := State.discardEpoch_spec s g.since 1
      exact ⟨State.discardEpoch_tally s g.since 1, (State.discardEpoch_frame (pt := .clock) (by decide) (Part.same_refl _ s)).2, hregs⟩
  next => exact ⟨TallyKept.refl s, rfl, RegsOnly.refl _ s⟩

/-- The state in which a unit becomes active, once the snapshot in staging is given up and the gap is marked. -/
def State.beforeActive (s : State) : State :=
  let s1 := ({ s with freeCtr := s.freeCtr + 2 } : State).unstaged
  let s2 := s1.markGap ((s1.todNow - 3125 * (s.addr - s.par.applied.getD s.addr)) / todSecond)
  { s2 with par := { s2.par with
    nonce := Config.freeRandom (s.freeCtr + 1) % 2 ^ 112, pinClaim := some (s.par.takeCause, 8), surrendered := false, lease := none,
    gaveUp := false, gotGrant := false, planNext := some true, mateApplied := none, fullSince := none, staging := none } }

theorem State.beforeActive_spec (s : State) :
    TallyKept s s.beforeActive ∧ s.beforeActive.addr = s.addr ∧ RegsOnly discardFields s s.beforeActive := by
  obtain ⟨a, ha⟩ : ∃ a : State, a = { s with freeCtr := s.freeCtr + 2 } := ⟨_, rfl⟩
  have hsa : TallyKept s a := by
    rw [ha]
    exact TallyKept.of_rd rfl rfl id rfl
  have hregsA : RegsOnly discardFields s a := by
    rw [ha]
    exact RegsOnly.refl _ s
  have haddrA : a.addr = s.addr := by rw [ha]
  obtain ⟨htally, haddr, hregs⟩ := State.unstaged_spec a
  unfold State.beforeActive
  rw [← ha]
  generalize a.unstaged = b at *
  have hall := RegsOnly.trans hregsA hregs
  exact ⟨(hsa.trans htally).trans (TallyKept.of_rd rfl rfl id rfl), haddr.trans haddrA, RegsOnly.upd hall⟩

/-- The unit once it is active, before it says so. -/
def State.activated (s : State) : State :=
  ((s.beforeActive.wrBit Reg.PAR_LEASED 0 false).setPar parActive s.par.takeCause).count Reg.PAR_TAKEOVER_CNT 0

/-- What PAR_TALLY_TAKEN says. -/
def State.takenDetail (s : State) : List (Nat × Nat) :=
  [(1, s.par.takeCause), (4, (s.par.granted.getD 0) % 2 ^ 32), (4, (s.par.applied.getD 0) / Config.cyclePos % 2 ^ 32),
    (3, min (s.nearest (((s.addr - s.gapFrom : Nat) : Rat) * 125 / 19440)).toNat (2 ^ 24 - 1))]

theorem State.becomeActive_eq (s : State) : s.becomeActive =
    (((s.activated.raise Ev.PAR_TALLY_TAKEN srcDevice s.takenDetail).send (.claim s.par.takeCause s.addr
      ((s.par.applied.getD 0) / Config.cyclePos) (Config.freeRandom (s.freeCtr + 1) % 2 ^ 112))).send
      (.pinWord (pinWord 0xC s.par.takeCause s.cycle))).endTake 0 := rfl

theorem State.activated_tally (s : State) : TallyKept s s.activated := by
  obtain ⟨htally, -, -⟩ := State.beforeActive_spec s
  have hleased : TallyKept s.beforeActive (s.beforeActive.wrBit Reg.PAR_LEASED 0 false) :=
    TallyKept.of_rd rfl rfl id (State.wr_rd_other _ _ _ _ _ _ (by decide))
  refine ((htally.trans hleased).trans (State.setPar_tally _ parActive s.par.takeCause)).trans ?_
  exact TallyKept.of_rd rfl rfl id (State.wr_rd_other _ _ _ _ _ _ (by decide))

theorem State.becomeActive_tally (s : State) : TallyKept s s.becomeActive := by
  rw [State.becomeActive_eq]
  have hraise (a : State) (d : List (Nat × Nat)) : TallyKept a (a.raise Ev.PAR_TALLY_TAKEN srcDevice d) := TallyKept.of_rd rfl rfl id rfl
  exact ((((State.activated_tally s).trans (hraise ..)).trans (State.send_tally ..)).trans (State.send_tally ..)).trans
    (State.endTake_tally ..)

/-- A unit that becomes active has authority; the takeover is counted. -/
theorem State.becomeActive_spec (hold : s.parSt ≠ parActive) :
    s.becomeActive.addr = s.addr ∧ s.becomeActive.parSt = parActive ∧ s.becomeActive.rd Reg.PAR_AUTHORITY 0 = 1 ∧
    s.becomeActive.rd Reg.PAR_TAKEOVER_CNT 0 = (s.rd Reg.PAR_TAKEOVER_CNT 0 + 1) % 2 ^ 32 := by
  obtain ⟨-, haddr, hregs⟩ := State.beforeActive_spec s
  obtain ⟨b, hb⟩ : ∃ b, b = s.beforeActive.wrBit Reg.PAR_LEASED 0 false := ⟨_, rfl⟩
  have hbrd {f : Fld} (hf : ∀ e ∈ (Reg.PAR_LEASED, 0) :: discardFields, e.1.key e.2 ≠ f.key 0) : b.rd f 0 = s.rd f 0 := by
    have hall : RegsOnly ((Reg.PAR_LEASED, 0) :: discardFields) s b := by
      rw [hb]
      exact RegsOnly.wrBit (RegsOnly.mono hregs (fun e he => List.mem_cons_of_mem _ he)) (List.mem_cons_self ..)
    exact hall f 0 hf
  have hst : b.parSt ≠ parActive := by
    show b.rd Reg.PAR_STATE 0 ≠ parActive
    rw [hbrd (by decide)]
    exact hold
  obtain ⟨c, hc⟩ : ∃ c, c = b.setPar parActive s.par.takeCause := ⟨_, rfl⟩
  have hact : s.activated = c.count Reg.PAR_TAKEOVER_CNT 0 := by
    rw [hc, hb]
    rfl
  have hreg (f : Fld) : s.becomeActive.rd f 0 = s.activated.rd f 0 := by
    rw [State.becomeActive_eq]
    refine regsOnly_of_regs ?_ [] f 0 (by simp)
    rw [State.endTake_regs, State.send_regs, State.send_regs]
    rfl
  have hclock : s.becomeActive.addr = s.activated.addr := by
    rw [State.becomeActive_eq]
    rw [State.endTake_addr, State.send_addr, State.send_addr]
    rfl
  obtain ⟨hnew, -⟩ := State.setPar_spec hst (by decide) s.par.takeCause
  have hauth := State.setPar_authority hst s.par.takeCause
  rw [← hc] at hnew hauth
  refine ⟨?_, ?_, ?_, ?_⟩
  · rw [hclock, hact]
    show c.addr = s.addr
    rw [hc, State.setPar_addr, hb]
    exact haddr
  · show s.becomeActive.rd Reg.PAR_STATE 0 = parActive
    rw [hreg, hact]
    exact (State.wr_rd_other _ _ _ _ _ _ (by decide)).trans hnew
  · rw [hreg, hact]
    exact (State.wr_rd_other _ _ _ _ _ _ (by decide)).trans hauth
  · rw [hreg, hact, State.count_rd_same', hc, State.setPar_regsOnly b parActive _ _ _ (by decide), hbrd (by decide)]
    rfl

theorem State.tryActive_tally (s : State) : TallyKept s s.tryActive := by
  unfold State.tryActive
  split
  · exact TallyKept.refl s
  · split
    · exact (State.setPar_tally ..).trans (State.endTake_tally ..)
    · extract_lets view own
      clear_value view own
      split
      · split
        · exact (State.becomeActive_tally s).trans (State.drillPassed_tally ..)
        · exact State.becomeActive_tally s
      · exact TallyKept.refl s

/-- A unit without a diagnosed fault. -/
def State.Clear (s : State) : Prop := s.par.faults = [] ∧ s.rd Reg.PAR_FAULTED 0 = 0

theorem TallyKept.keeps_clear (h : TallyKept s t) (hs : s.Clear) : t.Clear :=
  ⟨h.faults.trans hs.1, h.clear (fun _ => hs.2) (h.faults.trans hs.1)⟩

theorem State.review_clear (h : s.par.faults = []) : s.review.Clear := by
  have h1 : s.parRegs.Clear := ⟨by rw [State.parRegs_par]; exact h, State.parRegs_clear h⟩
  have h2 : s.parRegs.tryActive.Clear := (State.tryActive_tally _).keeps_clear h1
  show s.parRegs.tryActive.tryTake.Clear
  generalize s.parRegs.tryActive = a at h2
  unfold State.tryTake
  split
  · have h3 : State.Clear { a with par := { a.par with takeCause := 1, takeHost := none } } := h2
    exact (State.tryActive_tally _).keeps_clear ((State.setPar_tally ..).keeps_clear h3)
  · exact h2

end

end Sys2Proof.Machine
end


section
/-! PROOFS. The pair's own events and its host commands (R389, R392, R396, R402 to R404, R410, R412, R414, R416 to R418, R421). -/

namespace Sys2Proof.Machine

section
variable {s t : State} {dt : Nat} {h : HostRef}

/-! ### LANE_ROLE_ASSIGN -/

theorem completes_laneRoleAssign (hpaired : s.paired = true) (hdrill : s.par.drill = none) (hup : s.par.roleDown = false)
    (hlit : ∀ l ∈ s.usableLanes, s.rdBit Reg.PRT_LANE_LOS (72 + l) = false ∧ s.rdBit Reg.PRT_LANE_LOL (72 + l) = false) :
    Completes (.laneRoleAssign dt) s fun t =>
      t.addr = (s.toBoundary dt Config.multiframePos).addr ∧
      t.rd Reg.PAR_LANE_ROLE 0 = ((s.rolesNow.map (fun e => e.2 * 4 ^ e.1)).sum) % 2 ^ 16 ∧
      t.par.planner = s.par.planNext.getD s.par.planner ∧ t.par.planNext = none := by
  obtain ⟨a, ha⟩ : ∃ a, a = s.toBoundary dt Config.multiframePos := ⟨_, rfl⟩
  have hregs : a.regs = s.regs := by rw [ha, State.toBoundary_regs]
  have hpar : a.par = s.par := by rw [ha, State.toBoundary_par]
  have hrd (f : Fld) (i : Nat) : a.rd f i = s.rd f i := regsOnly_of_regs hregs [] f i (by simp)
  have hbit (f : Fld) (i : Nat) : a.rdBit f i = s.rdBit f i := congrArg (· != 0) (hrd f i)
  have hlanes : a.usableLanes = s.usableLanes := by
    unfold State.usableLanes
    rw [hrd]
  have hdark : a.usableLanes.filter (fun l => a.rdBit Reg.PRT_LANE_LOS (72 + l) || a.rdBit Reg.PRT_LANE_LOL (72 + l)) = [] := by
    rw [List.filter_eq_nil_iff, hlanes]
    intro l hl
    obtain ⟨hlos, hlol⟩ := hlit l hl
    rw [hbit, hbit, hlos, hlol]
    decide
  obtain ⟨b, hb⟩ : ∃ b : State, b = { a with par := { a.par with
    drill := none, roleDown := false, planner := a.par.planNext.getD a.par.planner, planNext := none } } := ⟨_, rfl⟩
  have hroles : b.rolesNow = s.rolesNow := by
    have hdown : b.par.roleDown = s.par.roleDown := by rw [hb, hup]
    have husable : b.usableLanes = s.usableLanes := by
      rw [← hlanes, hb]
      rfl
    unfold State.rolesNow
    rw [hdown, husable]
  have hp : a.paired = true := (hbit Reg.PAR_PAIR_EN 0).trans hpaired
  have hdrillA : a.par.drill = none := by rw [hpar]; exact hdrill
  have hexec : exec (.laneRoleAssign dt) s = .next (b.wr Reg.PAR_LANE_ROLE 0 ((b.rolesNow.map (fun e => e.2 * 4 ^ e.1))).sum) := by
    show execLaneRoleAssign dt s = _
    unfold execLaneRoleAssign
    rw [← ha]
    dsimp only
    rw [hp, Bool.not_true, if_neg Bool.false_ne_true]
    beta_reduce
    rw [hdark, List.foldl_nil, hdrillA, hb]
    rfl
  refine ⟨_, hexec, by rw [← ha]; show b.addr = a.addr; rw [hb], ?_, ?_, by rw [hb]; rfl⟩
  · rw [State.wr_rd_same, hroles]
    rfl
  · rw [hb, ← hpar]
    rfl

/-! ### MATE_LISTEN_END -/

/-- A shaft that was HALTED runs from an address with the reference free (R51). -/
theorem State.leaveHalted_free (hhalted : s.halted = true) (hidle : s.shf.txIdle = true) (addr : Nat) :
    (s.leaveHalted addr dpllFreerun 1).addr = addr ∧ (s.leaveHalted addr dpllFreerun 1).time = s.time ∧
    (s.leaveHalted addr dpllFreerun 1).par = s.par ∧ (s.leaveHalted addr dpllFreerun 1).rd Reg.SHF_STATE 0 = 1 ∧
    (s.leaveHalted addr dpllFreerun 1).rd Reg.TIM_DPLL_STATE 0 = dpllFreerun ∧
    RegsOnly [(Reg.SHF_STATE, 0), (Reg.TIM_DPLL_STATE, 0), (Reg.TIM_HO_UNCOMP, 0)] s (s.leaveHalted addr dpllFreerun 1) := by
  have hshf : s.rd Reg.SHF_STATE 0 = 0 := by
    unfold State.halted at hhalted
    exact eq_of_beq hhalted
  obtain ⟨a, ha⟩ : ∃ a : State, a = { s with addr := addr, tim := { s.tim with todAt := addr, todWas := none } } := ⟨_, rfl⟩
  obtain ⟨b, hb⟩ : ∃ b, b = a.setTxIdle (!s.sys.configured || s.sys.fatal) := ⟨_, rfl⟩
  have hbregs : b.regs = s.regs := by
    have ha' : a.regs = s.regs := by rw [ha]
    have hidleA : a.shf.txIdle = true := by rw [ha]; exact hidle
    rw [hb]
    cases hon : (!s.sys.configured || s.sys.fatal) with
    | true =>
      unfold State.setTxIdle
      rw [if_pos hidleA]
      exact ha'
    | false =>
      unfold State.setTxIdle
      rw [hidleA, if_neg (by decide), if_neg Bool.false_ne_true]
      exact ha'
  have hbrd (f : Fld) : b.rd f 0 = s.rd f 0 := regsOnly_of_regs hbregs [] f 0 (by simp)
  obtain ⟨c, hc⟩ : ∃ c, c = b.setDpll dpllFreerun := ⟨_, rfl⟩
  have hdpll : c.rd Reg.TIM_DPLL_STATE 0 = dpllFreerun ∧ RegsOnly [(Reg.TIM_DPLL_STATE, 0), (Reg.TIM_HO_UNCOMP, 0)] b c := by
    rw [hc]
    unfold State.setDpll
    dsimp only
    split
    next heq => exact ⟨heq, RegsOnly.refl _ b⟩
    next hne =>
      obtain ⟨d, hd⟩ : ∃ d, d = (b.wr Reg.TIM_DPLL_STATE 0 dpllFreerun).raise Ev.DPLL_STATE_CHANGE srcDevice
        [(1, b.rd Reg.TIM_DPLL_STATE 0), (1, dpllFreerun)] := ⟨_, rfl⟩
      have hdrd : d.rd Reg.TIM_DPLL_STATE 0 = dpllFreerun := by
        rw [hd, State.raise_rd]
        exact State.wr_rd_same ..
      have hdregs : RegsOnly [(Reg.TIM_DPLL_STATE, 0), (Reg.TIM_HO_UNCOMP, 0)] b d := by
        rw [hd]
        exact RegsOnly.raise (RegsOnly.wr (RegsOnly.refl _ b) _ _ _ (List.mem_cons_self ..)) _ _ _
      rw [← hd, if_neg (show ¬ dpllFreerun = 2 by decide)]
      have hstill {e : State} (he : RegsOnly [(Reg.TIM_DPLL_STATE, 0), (Reg.TIM_HO_UNCOMP, 0)] b e) : e.followDpll dpllFreerun = e := by
        unfold State.followDpll
        refine if_pos ?_
        unfold State.halted
        rw [he _ _ (by decide), hbrd, hshf]
        rfl
      obtain ⟨e, he⟩ : ∃ e : State, e = if b.rd Reg.TIM_DPLL_STATE 0 = 2 then
        { d with tim := { d.tim with locks := (d.tim.lockedAt, d.addr) :: d.tim.locks } } else d := ⟨_, rfl⟩
      have heregs : e.regs = d.regs := by
        rw [he]
        split <;> rfl
      have herd : e.rd Reg.TIM_DPLL_STATE 0 = dpllFreerun := (regsOnly_of_regs heregs [] _ _ (by simp)).trans hdrd
      have heonly : RegsOnly [(Reg.TIM_DPLL_STATE, 0), (Reg.TIM_HO_UNCOMP, 0)] b e := RegsOnly.of_regs hdregs heregs
      rw [← he]
      have hunc : RegsOnly [(Reg.TIM_DPLL_STATE, 0), (Reg.TIM_HO_UNCOMP, 0)] b (e.wrBit Reg.TIM_HO_UNCOMP 0 false) :=
        RegsOnly.wrBit heonly (by simp)
      split
      · rw [hstill hunc]
        exact ⟨(State.wr_rd_other _ _ _ _ _ _ (by decide)).trans herd, hunc⟩
      · rw [hstill heonly]
        exact ⟨herd, heonly⟩
  have hcshf : c.rd Reg.SHF_STATE 0 = 0 := by rw [hdpll.2 _ _ (by decide), hbrd, hshf]
  obtain ⟨e, he⟩ : ∃ e, e = c.setShfState 1 := ⟨_, rfl⟩
  have heq : e = (c.wr Reg.SHF_STATE 0 1).raise Ev.SHAFT_STATE_CHANGE srcDevice [(1, c.rd Reg.SHF_STATE 0), (1, 1)] := by
    rw [he]
    exact if_neg (by rw [hcshf]; decide)
  have hleave : s.leaveHalted addr dpllFreerun 1 = e.addFilterQueues := by
    rw [he, hc, hb, ha]
    rfl
  have hfinal (f : Fld) : (s.leaveHalted addr dpllFreerun 1).rd f 0 = e.rd f 0 := by
    rw [hleave]
    exact regsOnly_of_regs (State.addFilterQueues_frame (pt := .regs) (by decide) (Part.same_refl _ e)) [] f 0 (by simp)
  have hclock : Part.same a (s.leaveHalted addr dpllFreerun 1) .clock := by
    rw [hleave, heq]
    refine State.addFilterQueues_frame (pt := .clock) (by decide) ?_
    have hbc : Part.same a c .clock := by
      rw [hc, hb]
      exact State.setDpll_frame (pt := .clock) (by decide) (State.setTxIdle_frame (pt := .clock) (by decide) (Part.same_refl _ a))
    exact hbc
  have hpar : (s.leaveHalted addr dpllFreerun 1).par = s.par := by
    rw [State.leaveHalted_frame (pt := .par) (by decide) (Part.same_refl _ s)]
  refine ⟨?_, ?_, hpar, ?_, ?_, ?_⟩
  · rw [hclock.2, ha]
  · rw [hclock.1, ha]
  · rw [hfinal, heq, State.raise_rd, State.wr_rd_same]
    rfl
  · rw [hfinal, heq, State.raise_rd]
    exact (State.wr_rd_other _ _ _ _ _ _ (by decide)).trans hdpll.1
  · have hsc : RegsOnly [(Reg.SHF_STATE, 0), (Reg.TIM_DPLL_STATE, 0), (Reg.TIM_HO_UNCOMP, 0)] s c :=
      RegsOnly.trans (regsOnly_of_regs hbregs _) (RegsOnly.mono hdpll.2 (fun x hx => List.mem_cons_of_mem _ hx))
    have hse : RegsOnly [(Reg.SHF_STATE, 0), (Reg.TIM_DPLL_STATE, 0), (Reg.TIM_HO_UNCOMP, 0)] s e := by
      rw [heq]
      exact RegsOnly.raise (RegsOnly.wr hsc _ _ _ (List.mem_cons_self ..)) _ _ _
    rw [hleave]
    exact RegsOnly.of_regs hse (State.addFilterQueues_frame (pt := .regs) (by decide) (Part.same_refl _ e))

theorem completes_mateListenEnd (hpaired : s.paired = true) (hhalted : s.halted = true) (hnew : s.par.listened = false)
    (hstart : s.shf.startable = true) (hreset : s.inReset domShaft = false) (hnone : s.par.mateAt = none) (hidle : s.shf.txIdle = true) :
    Completes (.mateListenEnd dt) s fun t =>
      t.addr = 0 ∧ t.time = max (s.time + dt) (s.par.listenFrom + (if s.isUnitB then 4 else 2) * Config.secondPos) ∧
      t.par.listened = true ∧ t.rd Reg.SHF_STATE 0 = 1 ∧ t.rd Reg.TIM_DPLL_STATE 0 = dpllFreerun ∧
      RegsOnly [(Reg.SHF_STATE, 0), (Reg.TIM_DPLL_STATE, 0), (Reg.TIM_HO_UNCOMP, 0)] s t := by
  obtain ⟨a, ha⟩ : ∃ a, a = s.elapse dt := ⟨_, rfl⟩
  obtain ⟨w, hw⟩ : ∃ w, w = (if s.isUnitB then 4 else 2) * Config.secondPos := ⟨_, rfl⟩
  obtain ⟨b, hb⟩ : ∃ b, b = a.elapse (a.par.listenFrom + w - a.time) := ⟨_, rfl⟩
  obtain ⟨c, hc⟩ : ∃ c : State, c = { b with par := { b.par with listened := true } } := ⟨_, rfl⟩
  have hguard : ¬ (!a.paired || !a.halted || a.par.listened || !a.shf.startable || a.inReset domShaft) = true := by
    have hall : a.paired = true ∧ a.halted = true ∧ a.par.listened = false ∧ a.shf.startable = true ∧ a.inReset domShaft = false := by
      rw [ha]
      exact ⟨hpaired, hhalted, hnew, hstart, hreset⟩
    obtain ⟨h1, h2, h3, h4, h5⟩ := hall
    rw [h1, h2, h3, h4, h5]
    decide
  have hwait : (if a.isUnitB then 4 * Config.secondPos else 2 * Config.secondPos) = w := by
    rw [hw, show a.isUnitB = s.isUnitB by rw [ha]; rfl]
    split <;> rfl
  have hheard : b.mateHeard = none := by
    unfold State.mateHeard
    rw [show b.par.mateAt = none by rw [hb, ha]; exact hnone]
  have hexec : exec (.mateListenEnd dt) s = .next (c.leaveHalted 0 dpllFreerun 1) := by
    show execMateListenEnd dt s = _
    unfold execMateListenEnd
    rw [← ha]
    refine congrArg Host.Outcome.next ((if_neg hguard).trans ?_)
    dsimp only
    rw [hwait, ← hb, hheard, hc]
    rfl
  obtain ⟨haddr, htime, hpar, hshf, hdpll, hregs⟩ := State.leaveHalted_free (s := c) (by rw [hc, hb, ha]; exact hhalted)
    (by rw [hc, hb, ha]; exact hidle) 0
  refine ⟨_, hexec, haddr, ?_, by rw [hpar, hc], hshf, hdpll, RegsOnly.trans ?_ hregs⟩
  · rw [htime, ← hw, hc, hb, ha]
    show s.time + dt + (s.par.listenFrom + w - (s.time + dt)) = _
    omega
  · rw [hc, hb, ha]
    exact RegsOnly.refl _ s

/-! ### TALLY_LEASE_RENEWAL -/

theorem State.atEntry_dispatched {cls : Nat} (hd : (s.elapse dt).dispatched cls (fun _ => true) = true) (m : Nat) :
    s.atEntry dt m cls = s.elapse dt := if_pos hd

/-- What sending a message does to the messages sent. -/
theorem State.send_sent (s : State) (m : MateMsg) : (s.send m).par.sent = s.par.sent ∨ ∃ x, (s.send m).par.sent = (x :: s.par.sent).take 256 := by
  unfold State.send
  split
  · exact Or.inl rfl
  · exact Or.inr ⟨_, rfl⟩

/-- A slot's word on the pins leaves the grants as they were, and sends one message at most. -/
theorem State.pinSlot_spec (s : State) : s.pinSlot.par.granted = s.par.granted ∧ s.pinSlot.par.gotGrant = s.par.gotGrant ∧
    (s.pinSlot.par.sent = s.par.sent ∨ ∃ x, s.pinSlot.par.sent = (x :: s.par.sent).take 256) := by
  have hsend (a : State) (m : MateMsg) : (a.send m).par.granted = a.par.granted ∧ (a.send m).par.gotGrant = a.par.gotGrant ∧
      ((a.send m).par.sent = a.par.sent ∨ ∃ x, (a.send m).par.sent = (x :: a.par.sent).take 256) := by
    obtain ⟨sent, ctl, data, hpar⟩ := State.send_par a m
    exact ⟨by rw [hpar], by rw [hpar], State.send_sent a m⟩
  have hstay : s.par.granted = s.par.granted ∧ s.par.gotGrant = s.par.gotGrant ∧
      (s.par.sent = s.par.sent ∨ ∃ x, s.par.sent = (x :: s.par.sent).take 256) := ⟨rfl, rfl, Or.inl rfl⟩
  unfold State.pinSlot
  split
  · exact hsend { s with par := { s.par with pinClaim := _ } } _
  · split
    · exact hsend s _
    · exact hstay
  · split
    · exact hsend s _
    · split
      · exact hsend s _
      · exact hstay

/-- The message sent just before a slot's word is among the two newest. -/
theorem State.pinSlot_mem {y : SentMsg} {rest : List SentMsg} (hsent : s.par.sent = y :: rest) :
    y.msg ∈ (s.pinSlot.par.sent.take 2).map (·.msg) := by
  obtain ⟨-, -, hstay | ⟨x, hx⟩⟩ := State.pinSlot_spec s
  · rw [hstay, hsent]
    simp
  · rw [hx, hsent]
    simp

theorem State.pinSlot_regs (s : State) : s.pinSlot.regs = s.regs := State.pinSlot_frame (pt := .regs) (by decide) (Part.same_refl _ s)
theorem State.pinSlot_io (s : State) : s.pinSlot.io = s.io := State.pinSlot_frame (pt := .io) (by decide) (Part.same_refl _ s)
theorem State.pinSlot_addr (s : State) : s.pinSlot.addr = s.addr := (State.pinSlot_frame (pt := .clock) (by decide) (Part.same_refl _ s)).2

section
variable (hpaired : s.paired = true) (hrun : s.halted = false) (hpins : s.pinsOnly = false)
  (hdisp : (s.elapse dt).dispatched 9 (fun _ => true) = true)
include hpaired hrun hpins hdisp

theorem completes_tallyLeaseRenewal_grant (hst : s.parSt = parJoining ∨ s.parSt = parStandby) :
    Completes (.tallyLeaseRenewal dt) s fun t =>
      t.addr = s.addr + dt ∧ t.par.granted = some t.cycle ∧
      t.rd Reg.PAR_LEASE_LO 0 = t.cycle % 2 ^ 32 ∧ .grant t.cycle ∈ (t.par.sent.take 2).map (·.msg) ∧ t.io = s.io ∧
      RegsOnly [(Reg.PAR_LEASE_LO, 0), (Reg.PAR_LEASE_HI, 0)] s t := by
  obtain ⟨a, ha⟩ : ∃ a, a = s.elapse dt := ⟨_, rfl⟩
  have haddr : a.addr = s.addr + dt := by rw [ha]; exact State.addr_elapse hrun dt
  have hat := State.atEntry_dispatched hdisp (8 * Config.cyclePos)
  rw [← ha] at hdisp hat
  obtain ⟨b, hb⟩ : ∃ b, b = State.leaseRegs { a with par := { a.par with granted := some a.cycle } } a.cycle := ⟨_, rfl⟩
  obtain ⟨c, hc⟩ : ∃ c, c = b.send (.grant a.cycle) := ⟨_, rfl⟩
  have hguard : ¬ (!a.paired || a.halted || !a.dispatched 9 (fun _ => true)) = true := by
    rw [hdisp, show a.paired = true by rw [ha]; exact hpaired, show a.halted = false by rw [ha]; exact hrun]
    decide
  have hst' : (decide (a.parSt = parJoining) || decide (a.parSt = parStandby)) = true := by
    rw [show a.parSt = s.parSt by rw [ha]; rfl]
    simpa using hst
  have hexec : exec (.tallyLeaseRenewal dt) s = .next c.pinSlot := by
    show execTallyLeaseRenewal dt s = _
    unfold execTallyLeaseRenewal
    rw [hat]
    refine congrArg Host.Outcome.next ((if_neg hguard).trans ((if_pos hst').trans ?_))
    rw [hc, hb]
  obtain ⟨hgranted, -, -⟩ := State.pinSlot_spec c
  obtain ⟨sent, ctl, data, hpar⟩ := State.send_par b (.grant a.cycle)
  obtain ⟨y, rest, hsent, hmsg⟩ := State.send_newest b (m := .grant a.cycle) (Or.inr (by rw [hb, ha]; exact hpins))
  rw [← hc] at hpar hsent
  have hcaddr : c.addr = a.addr := by
    rw [hc, State.send_addr, hb]
    rfl
  have hcycle : c.pinSlot.cycle = a.cycle := by
    unfold State.cycle
    rw [State.pinSlot_addr, hcaddr]
  have hregs : c.pinSlot.regs = b.regs := by rw [State.pinSlot_regs, hc, State.send_regs]
  refine ⟨_, hexec, ?_, ?_, ?_, ?_, ?_, ?_⟩
  · rw [State.pinSlot_addr, hcaddr, haddr]
  · rw [hgranted, hcycle, hpar, hb]
    rfl
  · rw [regsOnly_of_regs hregs [] _ _ (by simp), hcycle, hb]
    refine (State.wr_rd_other _ _ _ _ _ _ (by decide)).trans ((State.wr_rd_same ..).trans ?_)
    exact Nat.mod_mod ..
  · rw [hcycle, ← hmsg]
    exact State.pinSlot_mem hsent
  · rw [State.pinSlot_io, hc, State.send_io, hb, ha]
    rfl
  · refine RegsOnly.of_regs (t := b) ?_ hregs
    rw [hb]
    unfold State.leaseRegs
    refine RegsOnly.wr (RegsOnly.wr ?_ _ _ _ (by simp)) _ _ _ (by simp)
    rw [ha]
    exact RegsOnly.refl _ s

theorem completes_tallyLeaseRenewal_active (hactive : s.parSt = parActive) :
    Completes (.tallyLeaseRenewal dt) s fun t =>
      t.par.gotGrant = false ∧ .ack (s.par.lease.getD 0) (s.rdBit Reg.PAR_LEASED 0) ∈ (t.par.sent.take 2).map (·.msg) ∧
      (s.par.gotGrant = false → t.rd Reg.PAR_GRANT_MISS_CNT 0 = (s.rd Reg.PAR_GRANT_MISS_CNT 0 + 1) % 2 ^ 32) ∧
      (s.par.gotGrant = true → RegsOnly [] s t) ∧ RegsOnly [(Reg.PAR_GRANT_MISS_CNT, 0)] s t := by
  obtain ⟨a, ha⟩ : ∃ a, a = s.elapse dt := ⟨_, rfl⟩
  have hat := State.atEntry_dispatched hdisp (8 * Config.cyclePos)
  rw [← ha] at hdisp hat
  obtain ⟨g, hg⟩ : ∃ g, g = if a.par.gotGrant then a else a.count Reg.PAR_GRANT_MISS_CNT 0 := ⟨_, rfl⟩
  obtain ⟨b, hb⟩ : ∃ b : State, b = { g with par := { g.par with gotGrant := false } } := ⟨_, rfl⟩
  have hgpar : g.par = s.par := by
    rw [hg, ha]
    split <;> rfl
  have hgrd {f : Fld} (hf : Reg.PAR_GRANT_MISS_CNT.key 0 ≠ f.key 0) : g.rd f 0 = s.rd f 0 := by
    rw [hg, ha]
    split
    · rfl
    · exact State.wr_rd_other _ _ _ _ _ _ hf.symm
  have hgot : a.par.gotGrant = s.par.gotGrant := by rw [ha]; rfl
  have hguard : ¬ (!a.paired || a.halted || !a.dispatched 9 (fun _ => true)) = true := by
    rw [hdisp, show a.paired = true by rw [ha]; exact hpaired, show a.halted = false by rw [ha]; exact hrun]
    decide
  have hst : a.parSt = parActive := by rw [ha]; exact hactive
  have hjoin : ¬ (decide (a.parSt = parJoining) || decide (a.parSt = parStandby)) = true := by
    rw [hst]
    decide
  obtain ⟨m, hm⟩ : ∃ m, m = MateMsg.ack (s.par.lease.getD 0) (s.rdBit Reg.PAR_LEASED 0) := ⟨_, rfl⟩
  have hmsg : MateMsg.ack (g.par.lease.getD 0) (g.rdBit Reg.PAR_LEASED 0) = m := by
    unfold State.rdBit
    rw [hm, hgpar, hgrd (by decide)]
    rfl
  obtain ⟨c, hc⟩ : ∃ c, c = b.send m := ⟨_, rfl⟩
  have hexec : exec (.tallyLeaseRenewal dt) s = .next c.pinSlot := by
    show execTallyLeaseRenewal dt s = _
    unfold execTallyLeaseRenewal
    rw [hat]
    refine congrArg Host.Outcome.next ((if_neg hguard).trans ((if_neg hjoin).trans ((if_pos hst).trans ?_)))
    dsimp only
    rw [← hg, hmsg, ← hb, ← hc]
  obtain ⟨-, hgotP, -⟩ := State.pinSlot_spec c
  have hbpins : b.pinsOnly = false := by
    have hdrill : b.par.drill = s.par.drill := by rw [hb, ← hgpar]
    unfold State.pinsOnly at hpins ⊢
    rw [hdrill]
    exact hpins
  obtain ⟨sent, ctl, data, hpar⟩ := State.send_par b m
  obtain ⟨y, rest, hsent, hymsg⟩ := State.send_newest b (m := m) (Or.inr hbpins)
  rw [← hc] at hpar hsent
  have hregs : c.pinSlot.regs = g.regs := by rw [State.pinSlot_regs, hc, State.send_regs, hb]
  refine ⟨_, hexec, ?_, ?_, fun hno => ?_, fun hyes => ?_, ?_⟩
  · rw [hgotP, hpar, hb]
  · rw [← hm, ← hymsg]
    exact State.pinSlot_mem hsent
  · rw [regsOnly_of_regs hregs [] _ _ (by simp), hg, if_neg (by rw [hgot, hno]; decide), State.count_rd_same', ha]
    rfl
  · refine regsOnly_of_regs (hregs.trans ?_) _
    rw [hg, if_pos (hgot.trans hyes), ha]
    rfl
  · refine RegsOnly.of_regs (t := g) ?_ hregs
    rw [hg, ha]
    exact RegsOnly.ite (RegsOnly.refl _ s) (RegsOnly.count (RegsOnly.refl _ s) (List.mem_cons_self ..))

end

/-! ### PAR_ORPHAN and LEASE_VIEW_EXPIRY -/

theorem completes_parOrphan {c : Nat} (hrun : s.halted = false) (hactive : s.parSt = parActive)
    (hleased : s.rdBit Reg.PAR_LEASED 0 = true) (hlease : s.par.lease = some c) :
    Completes (.parOrphan dt) s fun t =>
      t.addr = max (s.addr + dt) ((c + 48) * Config.cyclePos) ∧ t.parSt = parOrphan ∧ t.rd Reg.PAR_LEASED 0 = 0 ∧
      t.rd Reg.PAR_AUTHORITY 0 = 0 := by
  obtain ⟨a, ha⟩ : ∃ a, a = (s.elapse dt).waitAddr ((c + 48) * Config.cyclePos) := ⟨_, rfl⟩
  have haddr : a.addr = max (s.addr + dt) ((c + 48) * Config.cyclePos) := by rw [ha]; exact State.elapse_waitAddr_addr hrun _
  obtain ⟨b, hb⟩ : ∃ b, b = (a.wrBit Reg.PAR_LEASED 0 false).raise Ev.PAR_ORPHAN srcDevice [(4, c % 2 ^ 32)] := ⟨_, rfl⟩
  have hexec : exec (.parOrphan dt) s = .next (b.setPar parOrphan 0) := by
    show execParOrphan dt s = _
    have hl : (s.elapse dt).par.lease = some c := hlease
    have hgo : ¬ ((s.elapse dt).parSt != parActive || !(s.elapse dt).rdBit Reg.PAR_LEASED 0) = true := by
      rw [show (s.elapse dt).parSt = parActive from hactive, show (s.elapse dt).rdBit Reg.PAR_LEASED 0 = true from hleased]
      decide
    have hdue : ¬ a.addr < (c + 48) * Config.cyclePos := by rw [haddr]; omega
    rw [ha] at hdue
    unfold execParOrphan
    dsimp only
    rw [hl]
    refine congrArg Host.Outcome.next ((if_neg hgo).trans ((if_neg hdue).trans ?_))
    rw [hb, ha]
  have hst : b.parSt = parActive := by
    show b.rd Reg.PAR_STATE 0 = parActive
    rw [hb, State.raise_rd]
    refine (State.wr_rd_other _ _ _ _ _ _ (by decide)).trans ?_
    rw [ha, State.waitAddr_rd]
    exact hactive
  have hne : b.parSt ≠ parOrphan := by rw [hst]; decide
  refine ⟨_, hexec, ?_, (State.setPar_spec hne (by decide) 0).1, ?_, State.setPar_authority hne 0⟩
  · rw [State.setPar_addr, hb]
    exact haddr
  · rw [State.setPar_regsOnly b parOrphan _ _ _ (by decide), hb, State.raise_rd]
    exact State.wrBit_rd_same ..

/-- A healthy unit in TAKING whose view and own lease have run out becomes active. -/
theorem State.tryActive_expired {g : Nat} (htaking : s.parSt = parTaking) (hhealthy : s.healthy = true) (hgranted : s.par.granted = some g)
    (hlease : s.par.lease = none) (hdrill : s.par.drill = none) (hdue : (g + 64) * Config.cyclePos ≤ s.addr) :
    s.tryActive = s.becomeActive := by
  have hdone : s.becomeActive.drillPassed 4 s.par.surrenderAt = s.becomeActive := by
    unfold State.drillPassed
    rw [(State.becomeActive_tally s).drill hdrill]
  unfold State.tryActive
  rw [htaking, hhealthy, hgranted, hlease]
  dsimp only
  rw [decide_eq_true hdue, hdone, ite_self]
  rfl

theorem completes_leaseViewExpiry {g : Nat} (hrun : s.halted = false) (htaking : s.parSt = parTaking) (hhealthy : s.healthy = true)
    (hgranted : s.par.granted = some g) (hlease : s.par.lease = none) (hdrill : s.par.drill = none) :
    Completes (.leaseViewExpiry dt) s fun t =>
      t.addr = max (s.addr + dt) ((g + 64) * Config.cyclePos) ∧ t.parSt = parActive ∧ t.rd Reg.PAR_AUTHORITY 0 = 1 ∧
      t.rd Reg.PAR_TAKEOVER_CNT 0 = (s.rd Reg.PAR_TAKEOVER_CNT 0 + 1) % 2 ^ 32 := by
  obtain ⟨a, ha⟩ : ∃ a, a = (s.elapse dt).waitAddr ((g + 64) * Config.cyclePos) := ⟨_, rfl⟩
  have haddr : a.addr = max (s.addr + dt) ((g + 64) * Config.cyclePos) := by rw [ha]; exact State.elapse_waitAddr_addr hrun _
  have hpar : a.par = s.par := by rw [ha, State.waitAddr_par]; rfl
  have hrd (f : Fld) : a.rd f 0 = s.rd f 0 := by rw [ha, State.waitAddr_rd]; rfl
  have hst : a.parSt = parTaking := (hrd _).trans htaking
  have hhealthyA : a.healthy = true := by
    have hc : a.rdBit Reg.PAR_ADDR_CONFLICT 0 = s.rdBit Reg.PAR_ADDR_CONFLICT 0 := congrArg (· != 0) (hrd _)
    unfold State.healthy State.parSt at hhealthy ⊢
    rw [hpar, hrd, hrd, hrd, hc]
    exact hhealthy
  have hbecome := State.tryActive_expired hst hhealthyA (by rw [hpar]; exact hgranted) (by rw [hpar]; exact hlease)
    (by rw [hpar]; exact hdrill) (by rw [haddr]; exact le_max_right ..)
  have hexec : exec (.leaseViewExpiry dt) s = .next a.becomeActive := by
    show execLeaseViewExpiry dt s = _
    have hgo : ¬ ((s.elapse dt).parSt != parTaking) = true := by
      rw [show (s.elapse dt).parSt = parTaking from htaking]
      decide
    have hg : (s.elapse dt).par.granted = some g := hgranted
    have hl : (s.elapse dt).par.lease = none := hlease
    rw [← hbecome, ha]
    unfold execLeaseViewExpiry
    dsimp only
    refine congrArg Host.Outcome.next ((if_neg hgo).trans ?_)
    rw [hg, hl]
    dsimp only
    rw [Nat.max_zero]
  obtain ⟨haddrB, hstB, hauth, hcnt⟩ := State.becomeActive_spec (s := a) (by rw [hst]; decide)
  exact ⟨_, hexec, haddrB.trans haddr, hstB, hauth, hcnt.trans (by rw [hrd])⟩

/-! ### PAR_PATH -/

theorem completes_parPath {heard : Nat} (hlink : s.rdBit Reg.PAR_LINK_PATH 0 = true) (hpins : s.rdBit Reg.PAR_PIN_PATH 0 = false)
    (hheard : s.par.heardLink = some heard) (hauto : s.rdBit Reg.PAR_AUTO 0 = false) :
    Completes (.parPath dt) s fun t =>
      t.time = max (s.time + dt) (heard + s.silencePos) ∧ t.rd Reg.PAR_LINK_PATH 0 = 0 ∧
      Raised t Ev.PAR_PATH srcDevice [(1, 0), (1, 1)] ∧ RegsOnly [(Reg.PAR_LINK_PATH, 0)] s t := by
  obtain ⟨p, hp⟩ : ∃ p, p = s.silencePos := ⟨_, rfl⟩
  rw [← hp]
  obtain ⟨a, ha⟩ : ∃ a, a = s.elapse dt := ⟨_, rfl⟩
  obtain ⟨b, hb⟩ : ∃ b, b = a.elapse (heard + p - a.time) := ⟨_, rfl⟩
  obtain ⟨c, hc⟩ : ∃ c, c = (b.wrBit Reg.PAR_LINK_PATH 0 false).raise Ev.PAR_PATH srcDevice [(1, 0), (1, 1)] := ⟨_, rfl⟩
  have hcauto : c.rdBit Reg.PAR_AUTO 0 = false := by
    unfold State.rdBit
    rw [hc, State.raise_rd, show (b.wrBit Reg.PAR_LINK_PATH 0 false).rd Reg.PAR_AUTO 0 = b.rd Reg.PAR_AUTO 0 from
      State.wr_rd_other _ _ _ _ _ _ (by decide), hb, ha]
    exact hauto
  have hstay : c.tryAuto = c := by
    unfold State.tryAuto
    rw [hcauto]
    simp
  have hexec : exec (.parPath dt) s = .next c := by
    show execParPath dt s = _
    have h1 : a.rdBit Reg.PAR_LINK_PATH 0 = true := by rw [ha]; exact hlink
    have h2 : a.rdBit Reg.PAR_PIN_PATH 0 = false := by rw [ha]; exact hpins
    have h3 : a.par.heardLink = some heard := by rw [ha]; exact hheard
    have h4 : a.silencePos = p := by
      rw [hp]
      unfold State.silencePos
      rw [show a.rd Reg.PAR_AUTO_SILENCE 0 = s.rd Reg.PAR_AUTO_SILENCE 0 by rw [ha]; rfl]
    unfold execParPath
    rw [← ha]
    dsimp only
    rw [h1, h2, h3, h4]
    refine congrArg Host.Outcome.next ?_
    simp only [↓reduceIte, Bool.false_eq_true, Option.map_some]
    rw [← hb, show ofBool false = 0 from rfl, ← hc, hstay]
  refine ⟨c, hexec, ?_, ?_, by rw [hc]; exact State.raise_raised .., ?_⟩
  · have htime : c.time = b.time := by
      rw [hc]
      rfl
    rw [htime, hb, ha]
    show s.time + dt + (heard + p - (s.time + dt)) = _
    omega
  · rw [hc, State.raise_rd]
    exact State.wrBit_rd_same ..
  · rw [hc, hb, ha]
    exact RegsOnly.raise (RegsOnly.wrBit (t := s.elapse dt |>.elapse _) (RegsOnly.refl _ s) (List.mem_cons_self ..)) Ev.PAR_PATH srcDevice [(1, 0), (1, 1)]

end

end Sys2Proof.Machine
end


section
/-! PROOFS. Health, gating, copying, drills and the pair's host commands (R392, R396, R403, R407, R412, R414, R417, R421), and O44. -/

namespace Sys2Proof.Machine

section
variable {s t : State} {dt : Nat} {h : HostRef}

/-! ### HEALTH_REPORT and CANARY_BIST -/

/-- A HEALTH payload has the 34 bytes of Table 12-8. -/
theorem HealthMsg.length_bytes (p : HealthMsg) : p.bytes.length = 34 := by
  simp [HealthMsg.bytes]

theorem State.judgeCanary_other (hst : s.parSt ≠ parStandby) : s.judgeCanary = s := by
  unfold State.judgeCanary
  exact if_pos (bne_iff_ne.2 hst)

theorem completes_healthReport (hpaired : s.paired = true) (hrun : s.halted = false) (hst : s.parSt ≠ parStandby) :
    Completes (.healthReport dt) s fun t =>
      t.addr = ceilTo (8000 * Config.cyclePos) (s.addr + dt) ∧ t.par.canary.tests = 0 ∧ t.par.canary.failures = 0 ∧
      (∃ y rest bytes, t.par.sent = y :: rest ∧ y.msg = .health bytes ∧ bytes.length = 34) ∧ t.io = s.io ∧ RegsOnly [] s t := by
  obtain ⟨a, ha⟩ : ∃ a, a = s.toBoundary dt (8000 * Config.cyclePos) := ⟨_, rfl⟩
  have hregs : a.regs = s.regs := by rw [ha, State.toBoundary_regs]
  have hrd (f : Fld) : a.rd f 0 = s.rd f 0 := regsOnly_of_regs hregs [] f 0 (by simp)
  have haddr : a.addr = ceilTo (8000 * Config.cyclePos) (s.addr + dt) := by
    have he : (s.elapse dt).addr = s.addr + dt := State.addr_elapse hrun dt
    rw [ha]
    show ((s.elapse dt).waitAddr (ceilTo (8000 * Config.cyclePos) (s.elapse dt).addr)).addr = _
    rw [he]
    exact State.waitAddr_ceilTo (s := s.elapse dt) hrun (by decide) he.le
  obtain ⟨bytes, hbytes⟩ : ∃ bytes, bytes = (a.healthMsg ((a.rd Reg.PAR_FE_GOOD 0 + 2 ^ 32 - a.par.canary.lastGood) % 2 ^ 32)
    ((a.rd Reg.PAR_FE_MISS 0 + 2 ^ 32 - a.par.canary.lastMiss) % 2 ^ 32)).bytes := ⟨_, rfl⟩
  have hlen : bytes.length = 34 := by
    rw [hbytes]
    exact HealthMsg.length_bytes _
  obtain ⟨b, hb⟩ : ∃ b, b = a.send (.health bytes) := ⟨_, rfl⟩
  obtain ⟨c, hc⟩ : ∃ c : State, c = { b with par := { b.par with canary := { b.par.canary with
    own := (((a.rd Reg.PAR_FE_GOOD 0 + 2 ^ 32 - a.par.canary.lastGood) % 2 ^ 32,
      (a.rd Reg.PAR_FE_MISS 0 + 2 ^ 32 - a.par.canary.lastMiss) % 2 ^ 32) :: b.par.canary.own).take 10,
    lastGood := b.rd Reg.PAR_FE_GOOD 0, lastMiss := b.rd Reg.PAR_FE_MISS 0, tests := 0, failures := 0 } } } := ⟨_, rfl⟩
  have hcregs : c.regs = s.regs := by
    rw [hc, ← hregs, hb]
    exact State.send_regs ..
  have hcst : c.parSt ≠ parStandby := by
    unfold State.parSt at hst ⊢
    rw [regsOnly_of_regs hcregs [] _ _ (by simp)]
    exact hst
  have hexec : exec (.healthReport dt) s = .next c := by
    show execHealthReport dt s = _
    have hgo : ¬ (!a.paired || a.halted) = true := by
      have h1 : a.paired = true := (congrArg (· != 0) (hrd Reg.PAR_PAIR_EN)).trans hpaired
      have h2 : a.halted = false := by
        unfold State.halted at hrun ⊢
        rw [hrd]
        exact hrun
      rw [h1, h2]
      decide
    unfold execHealthReport
    rw [← ha]
    dsimp only
    refine congrArg Host.Outcome.next ((if_neg hgo).trans ?_)
    rw [← hbytes, ← hb, ← hc]
    exact State.judgeCanary_other hcst
  obtain ⟨y, rest, hsent, hmsg⟩ := State.send_newest a (m := .health bytes) (Or.inl rfl)
  rw [← hb] at hsent
  refine ⟨c, hexec, ?_, by rw [hc], by rw [hc], ⟨y, rest, bytes, by rw [hc]; exact hsent, hmsg, hlen⟩, ?_, regsOnly_of_regs hcregs _⟩
  · rw [← haddr, hc, hb]
    exact State.send_addr ..
  · rw [hc, hb]
    exact (State.send_io ..).trans (by rw [ha, State.toBoundary_io])

/-- Self-test failures in the last two rotations hold the verdict at 3 (R414). -/
theorem State.canaryVerdict_failed (hfail : s.par.canary.rotFails + s.par.canary.prevFails ≠ 0) : s.canaryVerdict.1 = 3 := by
  have hbist : (s.par.canary.rotFails + s.par.canary.prevFails != 0) = true := bne_iff_ne.2 hfail
  unfold State.canaryVerdict
  extract_lets sum own mate loss judged ex lim bist old e v
  have hv : (bist || (judged && decide (10 * lim < ex))) = true := by
    show ((s.par.canary.rotFails + s.par.canary.prevFails != 0) || _) = true
    rw [hbist, Bool.true_or]
  exact if_pos hv

/-- A standby unit whose canary failed stays in STANDBY and is not healthy. -/
theorem State.judgeCanary_failed (hst : s.parSt = parStandby) (hfail : s.par.canary.rotFails + s.par.canary.prevFails ≠ 0) :
    s.judgeCanary.time = s.time ∧ s.judgeCanary.par = { s.par with canary := { s.par.canary with excess := s.canaryVerdict.2 } } ∧
    s.judgeCanary.rd Reg.PAR_CANARY 0 = 3 ∧ s.judgeCanary.rd Reg.PAR_HEALTHY 0 = 0 ∧
    RegsOnly [(Reg.PAR_CANARY, 0), (Reg.PAR_FAULTED, 0), (Reg.PAR_FAULT_CAUSE, 0), (Reg.PAR_HEALTHY, 0)] s s.judgeCanary := by
  obtain ⟨e, he⟩ : ∃ e, e = s.canaryVerdict.2 := ⟨_, rfl⟩
  obtain ⟨a, ha⟩ : ∃ a : State, a = { s with par := { s.par with canary := { s.par.canary with excess := e } } } := ⟨_, rfl⟩
  obtain ⟨b, hb⟩ : ∃ b, b = (a.wr Reg.PAR_CANARY 0 3).raiseIf (s.rd Reg.PAR_CANARY 0 != 3) Ev.PAR_CANARY srcDevice
    [(1, s.rd Reg.PAR_CANARY 0), (1, 3), (4, satSigned 4 e)] := ⟨_, rfl⟩
  have hbregs : RegsOnly [(Reg.PAR_CANARY, 0)] s b := by
    rw [hb, ha]
    exact RegsOnly.raiseIf (RegsOnly.wr (RegsOnly.upd (RegsOnly.refl _ s)) _ _ _ (List.mem_cons_self ..)) _ _ _ _
  have hbcanary : b.rd Reg.PAR_CANARY 0 = 3 := by
    have hstill : b.regs = (a.wr Reg.PAR_CANARY 0 3).regs := by
      rw [hb]
      exact State.raiseIf_frame (pt := .regs) (by decide) (Part.same_refl _ _)
    rw [regsOnly_of_regs hstill [] _ _ (by simp), State.wr_rd_same]
    rfl
  have hbpar : b.par = { s.par with canary := { s.par.canary with excess := e } } := by
    rw [show b.par = a.par from by rw [hb]; exact State.raiseIf_frame (pt := .par) (base := a) (by decide) rfl, ha]
  obtain ⟨c, hc⟩ : ∃ c, c = b.parRegs := ⟨_, rfl⟩
  have hcregs : RegsOnly [(Reg.PAR_FAULTED, 0), (Reg.PAR_FAULT_CAUSE, 0), (Reg.PAR_HEALTHY, 0)] b c := by
    rw [hc]
    exact State.parRegs_regsOnly b
  have hcst : c.parSt = parStandby := by
    show c.rd Reg.PAR_STATE 0 = parStandby
    rw [hcregs _ _ (by decide), hbregs _ _ (by decide)]
    exact hst
  have hccanary : c.rd Reg.PAR_CANARY 0 = 3 := (hcregs _ _ (by decide)).trans hbcanary
  have hsick {x : State} (hx : x.rd Reg.PAR_CANARY 0 = 3) : x.healthy = false := by
    unfold State.healthy
    rw [hx]
    simp
  have htry : c.tryActive = c := by
    unfold State.tryActive
    refine if_pos ?_
    rw [hcst]
    decide
  have hjudge : s.judgeCanary = c := by
    have hreview : b.review = c := by
      show b.parRegs.tryActive.tryTake = c
      rw [← hc, htry]
      unfold State.tryTake
      rw [hsick hccanary, Bool.and_false, if_neg Bool.false_ne_true]
    rw [← hreview]
    unfold State.judgeCanary
    refine (if_neg (fun hne => bne_iff_ne.1 hne hst)).trans ?_
    dsimp only
    rw [State.canaryVerdict_failed hfail, ← he, ← ha, ← hb]
  rw [hjudge, ← he]
  refine ⟨?_, ?_, hccanary, ?_, ?_⟩
  · have h1 : b.time = s.time := by
      have hba : b.time = a.time := by
        rw [hb]
        exact (State.raiseIf_frame (pt := .clock) (base := a) (s := a.wr Reg.PAR_CANARY 0 3) (by decide) ⟨rfl, rfl⟩).1
      rw [hba, ha]
    rw [hc]
    exact h1
  · rw [hc, State.parRegs_par, hbpar]
  · rw [hc]
    unfold State.parRegs
    refine (State.wrBit_rd_same ..).trans ?_
    rw [hsick hbcanary, Bool.and_false]
    rfl
  · exact RegsOnly.trans (RegsOnly.mono hbregs (by simp)) (RegsOnly.mono hcregs (fun e he => List.mem_cons_of_mem _ he))

theorem State.bistIdle_congr {u : BistUnit} (hregs : t.regs = s.regs) (hovm : t.ovm = s.ovm) (hmap : t.map = s.map) :
    t.bistIdle u = s.bistIdle u := by
  have hrd (f : Fld) : t.rd f 0 = s.rd f 0 := regsOnly_of_regs hregs [] f 0 (by simp)
  cases u <;> simp only [State.bistIdle, State.ovmHewers, hrd, hovm, hmap]

/-- The canary's counts after a self-test that failed. -/
def CanarySt.afterFailure (x : CanarySt) (now : Nat) (rotationEnd : Bool) : CanarySt :=
  { x with
    tests := x.tests + 1, failures := x.failures + 1, due := now + 10 * Config.msPos,
    rotFails := if rotationEnd then 0 else x.rotFails + 1, prevFails := if rotationEnd then x.rotFails + 1 else x.prevFails }

theorem completes_canaryBist {unit : BistUnit} {rotationEnd : Bool} (hpaired : s.paired = true) (hst : s.parSt = parStandby)
    (hidle : s.bistIdle unit = true) :
    Completes (.canaryBist dt unit true rotationEnd) s fun t =>
      t.time = max (s.time + dt) s.par.canary.due ∧ t.par.canary.tests = s.par.canary.tests + 1 ∧
      t.par.canary.failures = s.par.canary.failures + 1 ∧
      t.rd Reg.PAR_BIST_FAIL_CNT 0 = (s.rd Reg.PAR_BIST_FAIL_CNT 0 + 1) % 2 ^ 32 ∧ t.rd Reg.PAR_CANARY 0 = 3 ∧
      t.rd Reg.PAR_HEALTHY 0 = 0 := by
  obtain ⟨a, ha⟩ : ∃ a, a = s.untilTime dt s.par.canary.due := ⟨_, rfl⟩
  have hpar : a.par = s.par := by rw [ha, State.untilTime_par]
  have hrd (f : Fld) : a.rd f 0 = s.rd f 0 := regsOnly_of_regs (by rw [ha, State.untilTime_regs]) [] f 0 (by simp)
  obtain ⟨b, hb⟩ : ∃ b : State, b = { a with par := { a.par with canary := a.par.canary.afterFailure a.time rotationEnd } } := ⟨_, rfl⟩
  obtain ⟨c, hc⟩ : ∃ c, c = b.countBy Reg.PAR_BIST_FAIL_CNT 0 1 := ⟨_, rfl⟩
  have hexec : exec (.canaryBist dt unit true rotationEnd) s = .next c.judgeCanary := by
    show execCanaryBist dt unit true rotationEnd s = _
    have hgo : ¬ (!a.paired || a.parSt != parStandby || !a.bistIdle unit) = true := by
      have h1 : a.paired = true := (congrArg (· != 0) (hrd Reg.PAR_PAIR_EN)).trans hpaired
      have h2 : a.parSt = parStandby := (hrd _).trans hst
      have h3 : a.bistIdle unit = true :=
        (State.bistIdle_congr (by rw [ha, State.untilTime_regs]) (by rw [ha, State.untilTime_ovm]) (by rw [ha, State.untilTime_map])).trans hidle
      rw [h1, h2, h3]
      decide
    unfold execCanaryBist
    rw [← ha]
    refine congrArg Host.Outcome.next ((if_neg hgo).trans ?_)
    rw [hc, hb]
    rfl
  have hcst : c.parSt = parStandby := by
    show c.rd Reg.PAR_STATE 0 = parStandby
    rw [hc, show (b.countBy Reg.PAR_BIST_FAIL_CNT 0 1).rd Reg.PAR_STATE 0 = b.rd Reg.PAR_STATE 0 from State.wr_rd_other _ _ _ _ _ _ (by decide), hb]
    exact (hrd _).trans hst
  have hcpar : c.par = { s.par with canary := s.par.canary.afterFailure a.time rotationEnd } := by
    rw [hc, hb, ← hpar]
    rfl
  have hfail : c.par.canary.rotFails + c.par.canary.prevFails ≠ 0 := by
    rw [hcpar]
    show (if rotationEnd then 0 else s.par.canary.rotFails + 1) + (if rotationEnd then s.par.canary.rotFails + 1 else s.par.canary.prevFails) ≠ 0
    cases rotationEnd <;> simp
  obtain ⟨htime, hparJ, hcanary, hhealthy, hregs⟩ := State.judgeCanary_failed hcst hfail
  refine ⟨_, hexec, ?_, ?_, ?_, ?_, hcanary, hhealthy⟩
  · rw [htime, hc, hb, ← State.untilTime_time, ← ha]
    rfl
  · rw [hparJ, hcpar]
    rfl
  · rw [hparJ, hcpar]
    rfl
  · rw [hregs _ _ (by decide), hc, State.countBy_rd_same, hb]
    exact congrArg (fun n => (n + 1) % 2 ^ 32) (hrd _)

end

end Sys2Proof.Machine
end


section
/-! PROOFS. Gating, copying, drills and the pair's host commands (R392, R396, R403, R407, R412, R417, R421), and O44. -/

namespace Sys2Proof.Machine

section
variable {s t : State} {dt : Nat} {h : HostRef}

/-! ### PAR_GATE_MISS -/

section
variable {ctx frame : Nat} {y : Ctx} (hpaired : s.paired = true) (hctx : s.ctx? ctx = some y) (hactive : y.active = true)
include hpaired hctx hactive

theorem parGateMiss_due : ¬ (!(s.elapse dt).paired || !((s.elapse dt).ctx? ctx).any (·.active)) = true := by
  rw [show (s.elapse dt).paired = true from hpaired, show (s.elapse dt).ctx? ctx = some y from hctx, Option.any_some, hactive]
  decide

theorem completes_parGateMiss_planner (hplan : s.par.planner = true) :
    Completes (.parGateMiss dt ctx frame) s fun t =>
      (∃ g z rest, t.par.sent = z :: rest ∧ z.msg = .gate [g] ∧ g.ctx = ctx ∧ g.frame = (frame + s.planFrames ctx) % 65536) ∧
      t.io = s.io ∧ RegsOnly [] s t := by
  obtain ⟨a, ha⟩ : ∃ a, a = s.elapse dt := ⟨_, rfl⟩
  obtain ⟨g, hg⟩ : ∃ g, g = a.newPlan ctx ((frame + s.planFrames ctx) % 65536) := ⟨_, rfl⟩
  obtain ⟨b, hb⟩ : ∃ b : State, b = { a with freeCtr := a.freeCtr + 3 } := ⟨_, rfl⟩
  have hexec : exec (.parGateMiss dt ctx frame) s = .next (b.send (.gate [g])) := by
    show execParGateMiss dt ctx frame s = _
    have hdue := parGateMiss_due (dt := dt) hpaired hctx hactive
    have hp : a.par.planner = true := by rw [ha]; exact hplan
    have hf : a.planFrames ctx = s.planFrames ctx := by rw [ha]; rfl
    rw [← ha] at hdue
    unfold execParGateMiss
    rw [← ha]
    refine congrArg Host.Outcome.next ((if_neg hdue).trans ((if_pos hp).trans ?_))
    rw [hf, hb, hg]
  obtain ⟨z, rest, hsent, hmsg⟩ := State.send_newest b (m := .gate [g]) (Or.inl rfl)
  refine ⟨_, hexec, ⟨g, z, rest, hsent, hmsg, by rw [hg]; rfl, by rw [hg]; rfl⟩, ?_, regsOnly_of_regs ((State.send_regs ..).trans ?_) _⟩
  · rw [State.send_io, hb, ha]
    rfl
  · rw [hb, ha]
    rfl

theorem completes_parGateMiss_none (hplan : s.par.planner = false) (hnone : tfind s.par.plans (planKey ctx frame) = none) :
    Completes (.parGateMiss dt ctx frame) s fun t =>
      t.rd Reg.PAR_GATE_MISS_CNT 0 = (s.rd Reg.PAR_GATE_MISS_CNT 0 + 1) % 2 ^ 32 ∧ RegsOnly [(Reg.PAR_GATE_MISS_CNT, 0)] s t := by
  obtain ⟨a, ha⟩ : ∃ a, a = s.elapse dt := ⟨_, rfl⟩
  obtain ⟨b, hb⟩ : ∃ b, b = (a.takeDecision ctx (a.newPlan ctx frame).decision).draw := ⟨_, rfl⟩
  obtain ⟨c, hc⟩ : ∃ c, c = b.count Reg.PAR_GATE_MISS_CNT 0 := ⟨_, rfl⟩
  obtain ⟨e, he⟩ : ∃ e, e = c.raiseOnce Ev.PAR_GATE_MISS 0 srcDevice (fun n => [(4, n)]) := ⟨_, rfl⟩
  have hexec : exec (.parGateMiss dt ctx frame) s = .next e := by
    show execParGateMiss dt ctx frame s = _
    have hdue := parGateMiss_due (dt := dt) hpaired hctx hactive
    have hp : ¬ a.par.planner = true := by rw [ha, show (s.elapse dt).par.planner = false from hplan]; exact Bool.false_ne_true
    have hn : tfind a.par.plans (planKey ctx frame) = none := by rw [ha]; exact hnone
    rw [← ha] at hdue
    unfold execParGateMiss
    rw [← ha]
    refine congrArg Host.Outcome.next ((if_neg hdue).trans ((if_neg hp).trans ?_))
    rw [hn, he, hc, hb]
  have hbregs : b.regs = s.regs := by
    have h1 : a.regs = s.regs := by rw [ha]; rfl
    rw [hb, ← h1]
    exact State.takeDecision_frame (pt := .regs) (by decide) (Part.same_refl _ a)
  have heregs : e.regs = c.regs := by
    rw [he]
    exact State.raiseOnce_frame (pt := .regs) (by decide) (Part.same_refl _ c)
  refine ⟨e, hexec, ?_, RegsOnly.of_regs (t := c) ?_ heregs⟩
  · rw [regsOnly_of_regs heregs [] _ _ (by simp), hc, State.count_rd_same', regsOnly_of_regs hbregs [] _ _ (by simp)]
    rfl
  · rw [hc]
    exact RegsOnly.count (regsOnly_of_regs hbregs _) (List.mem_cons_self ..)

theorem completes_parGateMiss_stored {e : GateEntry} (hplan : s.par.planner = false) (hsome : tfind s.par.plans (planKey ctx frame) = some e) :
    Completes (.parGateMiss dt ctx frame) s fun t =>
      t.par = { s.par with plans := tdel s.par.plans (planKey ctx frame) } ∧ t.io = s.io ∧ RegsOnly [] s t := by
  obtain ⟨a, ha⟩ : ∃ a, a = s.elapse dt := ⟨_, rfl⟩
  obtain ⟨b, hb⟩ : ∃ b : State, b = { a with par := { a.par with plans := tdel a.par.plans (planKey ctx frame) } } := ⟨_, rfl⟩
  have hexec : exec (.parGateMiss dt ctx frame) s = .next (b.takeDecision ctx e.decision) := by
    show execParGateMiss dt ctx frame s = _
    have hdue := parGateMiss_due (dt := dt) hpaired hctx hactive
    have hp : ¬ a.par.planner = true := by rw [ha, show (s.elapse dt).par.planner = false from hplan]; exact Bool.false_ne_true
    have hn : tfind a.par.plans (planKey ctx frame) = some e := by rw [ha]; exact hsome
    rw [← ha] at hdue
    unfold execParGateMiss
    rw [← ha]
    refine congrArg Host.Outcome.next ((if_neg hdue).trans ((if_neg hp).trans ?_))
    rw [hn, hb]
  refine ⟨_, hexec, ?_, ?_, regsOnly_of_regs ?_ _⟩
  · rw [show (b.takeDecision ctx e.decision).par = b.par from State.takeDecision_frame (pt := .par) (by decide) (Part.same_refl _ b), hb, ha]
    rfl
  · rw [show (b.takeDecision ctx e.decision).io = b.io from State.takeDecision_frame (pt := .io) (by decide) (Part.same_refl _ b), hb, ha]
    rfl
  · rw [show (b.takeDecision ctx e.decision).regs = b.regs from State.takeDecision_frame (pt := .regs) (by decide) (Part.same_refl _ b), hb, ha]
    rfl

end

/-! ### STATE_COPY_EPOCH and STATE_COMMIT_DEADLINE -/

/-- What a drill that waits for the copy is after the copy at an address (R417). -/
def DrillSt.copied (at_ : Nat) (x : DrillSt) : DrillSt :=
  if x.phase = 0 then { x with phase := 1, since := at_, snap := at_ } else x

theorem completes_stateCopyEpoch (hpaired : s.paired = true) (hrun : s.halted = false) (hactive : s.parSt = parActive)
    (hfull : s.par.fullSince = none) (hdisp : (s.elapse dt).dispatched 8 (fun _ => true) = true) :
    Completes (.stateCopyEpoch dt) s fun t =>
      t.addr = s.addr + dt ∧ t.par.applied = some t.addr ∧ t.rd Reg.PAR_EPOCH_LO 0 = t.cycle % 2 ^ 32 ∧
      (∃ y rest base, t.par.sent = y :: rest ∧ y.msg = .stateCopy t.stamp base (s.elapse dt).snapshotNow) ∧ t.io = s.io ∧
      RegsOnly [(Reg.PAR_EPOCH_LO, 0), (Reg.PAR_EPOCH_HI, 0)] s t := by
  obtain ⟨a, ha⟩ : ∃ a, a = s.elapse dt := ⟨_, rfl⟩
  have haddr : a.addr = s.addr + dt := by rw [ha]; exact State.addr_elapse hrun dt
  have hat := State.atEntry_dispatched hdisp Config.epochPos
  rw [← ha] at hdisp hat ⊢
  obtain ⟨joining, hjoining⟩ : ∃ j, j = (a.par.mateState == parJoining || a.par.mateApplied.isNone) := ⟨_, rfl⟩
  obtain ⟨base, hbase⟩ : ∃ b : Option Nat, b = (if joining then none else a.par.mateApplied).map stampOf := ⟨_, rfl⟩
  obtain ⟨snap, hsnap⟩ : ∃ n, n = a.snapshotNow := ⟨_, rfl⟩
  obtain ⟨m, hm⟩ : ∃ m, m = MateMsg.stateCopy a.stamp base snap := ⟨_, rfl⟩
  obtain ⟨b, hb⟩ : ∃ b, b = a.epochRegs a.addr := ⟨_, rfl⟩
  obtain ⟨c, hc⟩ : ∃ c, c = b.send m := ⟨_, rfl⟩
  obtain ⟨e, he⟩ : ∃ e : State, e = { c with par := { c.par with
    fullSince := if joining then some a.addr else none, drill := c.par.drill.map (DrillSt.copied c.addr) } } := ⟨_, rfl⟩
  have hexec : exec (.stateCopyEpoch dt) s = .next e := by
    show execStateCopyEpoch dt s = _
    have hgo : ¬ (!a.paired || a.halted || a.parSt != parActive || !a.dispatched 8 (fun _ => true)) = true := by
      rw [hdisp, show a.paired = true by rw [ha]; exact hpaired, show a.halted = false by rw [ha]; exact hrun,
        show a.parSt = parActive by rw [ha]; exact hactive]
      decide
    have hf : a.par.fullSince = none := by rw [ha]; exact hfull
    have hdrill : c.par.drill.map (DrillSt.copied c.addr) = (match c.par.drill with
        | some x => if x.phase = 0 then some { x with phase := 1, since := c.addr, snap := c.addr } else some x
        | none => none) := by
      cases c.par.drill with
      | none => rfl
      | some x =>
        rw [Option.map_some]
        unfold DrillSt.copied
        dsimp only
        split <;> rfl
    unfold execStateCopyEpoch
    rw [hat]
    refine congrArg Host.Outcome.next ((if_neg hgo).trans ?_)
    dsimp only
    rw [hf]
    dsimp only
    rw [if_neg Bool.false_ne_true, ← hjoining, ← hbase, ← hsnap, ← hm, ← hb, ← hc, he, hdrill]
      <;> rfl
  have hcaddr : c.addr = a.addr := by
    rw [hc, State.send_addr, hb]
    rfl
  have heregs : e.regs = b.regs := by
    rw [he, hc]
    exact State.send_regs ..
  obtain ⟨sent, ctl, data, hpar⟩ := State.send_par b m
  obtain ⟨y, rest, hsent, hmsg⟩ := State.send_newest b (m := m) (Or.inl (by rw [hm]; rfl))
  rw [← hc] at hpar hsent
  have headdr : e.addr = a.addr := by rw [he]; exact hcaddr
  refine ⟨e, hexec, headdr.trans haddr, ?_, ?_, ⟨y, rest, base, by rw [he]; exact hsent, ?_⟩, ?_, ?_⟩
  · rw [headdr, he]
    show c.par.applied = _
    rw [hpar, hb]
    rfl
  · unfold State.cycle
    rw [headdr, regsOnly_of_regs heregs [] _ _ (by simp), hb]
    unfold State.epochRegs
    refine (State.wr_rd_other _ _ _ _ _ _ (by decide)).trans ((State.wr_rd_same ..).trans ?_)
    exact Nat.mod_mod ..
  · rw [hmsg, hm, hsnap]
    unfold State.stamp
    rw [headdr]
  · have h1 : e.io = c.io := by rw [he]
    rw [h1, hc, State.send_io, hb, ha]
    rfl
  · refine RegsOnly.of_regs (t := b) ?_ heregs
    rw [hb]
    unfold State.epochRegs
    refine RegsOnly.wr (RegsOnly.wr ?_ _ _ _ (by simp)) _ _ _ (by simp)
    rw [ha]
    exact RegsOnly.refl _ s

theorem completes_stateCommitDeadline {g : Staging} (hstaging : s.par.staging = some g) (hdead : g.dead = false) :
    Completes (.stateCommitDeadline dt) s fun t =>
      t.addr = ((s.elapse dt).waitAddr (g.since + (if s.parSt = parJoining then 64 else 1) * Config.epochPos)).addr ∧
      t.par.staging = none ∧ t.rd Reg.PAR_EPOCH_DISCARD_CNT 0 = (s.rd Reg.PAR_EPOCH_DISCARD_CNT 0 + 1) % 2 ^ 32 ∧
      Raised t Ev.PAR_EPOCH_DISCARDED srcDevice [addrItem g.since, (1, 1)] ∧
      RegsOnly [(Reg.PAR_EPOCH_DISCARD_CNT, 0), (Reg.PAR_FAULTED, 0), (Reg.PAR_FAULT_CAUSE, 0), (Reg.PAR_HEALTHY, 0)] s t := by
  obtain ⟨w, hw⟩ : ∃ w, w = g.since + (if s.parSt = parJoining then 64 else 1) * Config.epochPos := ⟨_, rfl⟩
  rw [← hw]
  obtain ⟨b, hb⟩ : ∃ b, b = (s.elapse dt).waitAddr w := ⟨_, rfl⟩
  rw [← hb]
  have hregs : b.regs = s.regs := by
    rw [hb, State.waitAddr_regs]
    rfl
  have hexec : exec (.stateCommitDeadline dt) s = .next (b.discardEpoch g.since 1) := by
    show execStateCommitDeadline dt s = _
    have h1 : (s.elapse dt).par.staging = some g := hstaging
    have h2 : (s.elapse dt).parSt = s.parSt := rfl
    have h3 : ¬ g.dead = true := by rw [hdead]; exact Bool.false_ne_true
    unfold execStateCommitDeadline
    dsimp only
    rw [h1]
    refine congrArg Host.Outcome.next ((if_neg h3).trans ?_)
    rw [h2, ← hw, ← hb]
  obtain ⟨-, hnone, -, hraised, hcnt, honly⟩ := State.discardEpoch_spec b g.since 1
  refine ⟨_, hexec, ?_, hnone, ?_, hraised, RegsOnly.trans (regsOnly_of_regs hregs _) honly⟩
  · exact (State.discardEpoch_frame (pt := .clock) (by decide) (Part.same_refl _ b)).2
  · rw [hcnt, regsOnly_of_regs hregs [] _ _ (by simp)]

/-! ### Drills -/

theorem State.endDrill_par (s : State) (result gaveAt : Nat) : (s.endDrill result gaveAt).par = { s.par with drill := none } := rfl

theorem State.endDrill_regs (s : State) (result gaveAt : Nat) : (s.endDrill result gaveAt).regs = s.regs := rfl

/-- A drill that ends at the address at which the authority was given up shows no gap. -/
theorem State.endDrill_here (s : State) (result : Nat) :
    Raised (s.endDrill result s.addr) Ev.PAR_DRILL_RESULT srcDevice [(1, result), (4, 0)] := by
  have hgap : s.nearest (((s.addr - s.addr : Nat) : Rat) * 125 / 19440) = 0 := by
    rw [Nat.sub_self]
    have hfloor : Rat.floor 0 = 0 := rfl
    unfold State.nearest
    norm_num [hfloor]
  unfold State.endDrill
  dsimp only
  rw [hgap]
  exact State.raise_raised ..

theorem completes_drillAckTimeout {d : DrillSt} (hrun : s.halted = false) (hdrill : s.par.drill = some d) (hphase : d.phase = 1) :
    Completes (.drillAckTimeout dt) s fun t =>
      t.addr = max (s.addr + dt) (d.since + 8 * Config.cyclePos) ∧ t.par.drill = none ∧
      Raised t Ev.PAR_DRILL_RESULT srcDevice [(1, 1), (4, 0)] ∧ RegsOnly [] s t := by
  obtain ⟨w, hw⟩ : ∃ w, w = d.since + 8 * Config.cyclePos := ⟨_, rfl⟩
  rw [← hw]
  obtain ⟨b, hb⟩ : ∃ b, b = (s.elapse dt).waitAddr w := ⟨_, rfl⟩
  have haddr : b.addr = max (s.addr + dt) w := by rw [hb]; exact State.elapse_waitAddr_addr hrun _
  have hexec : exec (.drillAckTimeout dt) s = .next (b.endDrill 1 b.addr) := by
    show execDrillAckTimeout dt s = _
    have h1 : (s.elapse dt).par.drill = some d := hdrill
    have h2 : ¬ (d.phase != 1) = true := by rw [hphase]; decide
    have h3 : ¬ b.addr < w := by omega
    unfold execDrillAckTimeout
    dsimp only
    rw [h1]
    refine congrArg Host.Outcome.next ((if_neg h2).trans ?_)
    rw [← hw, ← hb]
    exact if_neg h3
  refine ⟨_, hexec, haddr, by rw [State.endDrill_par], State.endDrill_here b 1, regsOnly_of_regs ?_ _⟩
  rw [State.endDrill_regs, hb, State.waitAddr_regs]
  rfl

theorem completes_drillClaimTimeout {d : DrillSt} (hdrill : s.par.drill = some d) (hphase : d.phase = 2) :
    Completes (.drillClaimTimeout dt) s fun t =>
      t.time = max (s.time + dt) (d.since + 50 * Config.msPos) ∧ t.par.drill = none ∧ t.par.takeCause = 2 := by
  obtain ⟨w, hw⟩ : ∃ w, w = d.since + 50 * Config.msPos := ⟨_, rfl⟩
  rw [← hw]
  obtain ⟨b, hb⟩ : ∃ b, b = (s.elapse dt).elapse (w - (s.elapse dt).time) := ⟨_, rfl⟩
  obtain ⟨c, hc⟩ : ∃ c, c = b.endDrill 2 d.gaveAt := ⟨_, rfl⟩
  obtain ⟨e, he⟩ : ∃ e : State, e = { c with par := { c.par with takeCause := 2, takeHost := none } } := ⟨_, rfl⟩
  have hexec : exec (.drillClaimTimeout dt) s = .next (e.setPar parTaking 2).tryActive := by
    show execDrillClaimTimeout dt s = _
    have h1 : (s.elapse dt).par.drill = some d := hdrill
    have h2 : ¬ (d.phase != 2) = true := by rw [hphase]; decide
    unfold execDrillClaimTimeout
    dsimp only
    rw [h1]
    refine congrArg Host.Outcome.next ((if_neg h2).trans ?_)
    rw [← hw, ← hb, ← hc, he]
    rfl
  have hkept : TallyKept e (e.setPar parTaking 2).tryActive := (State.setPar_tally ..).trans (State.tryActive_tally _)
  have hend : e.par.drill = none ∧ e.par.takeCause = 2 := by
    rw [he, hc, State.endDrill_par]
    exact ⟨rfl, rfl⟩
  refine ⟨_, hexec, ?_, hkept.drill hend.1, hkept.cause.trans hend.2⟩
  have htime : (e.setPar parTaking 2).tryActive.time = e.time :=
    (State.tryActive_frame (pt := .clock) (by decide) (State.setPar_frame (pt := .clock) (by decide) (Part.same_refl _ e))).1
  have hetime : e.time = b.time := by
    rw [he, hc]
    rfl
  rw [htime, hetime, hb]
  show s.time + dt + (w - (s.time + dt)) = _
  omega

/-! ### The host commands -/

/-- A healthy unit stays so in TAKING. -/
theorem State.healthy_taking (hhealthy : s.healthy = true) (hfaults : t.par.faults = s.par.faults) (hst : t.parSt = parTaking)
    (hcanary : t.rd Reg.PAR_CANARY 0 = s.rd Reg.PAR_CANARY 0) (hconflict : t.rd Reg.PAR_ADDR_CONFLICT 0 = s.rd Reg.PAR_ADDR_CONFLICT 0) :
    t.healthy = true := by
  have hc : t.rdBit Reg.PAR_ADDR_CONFLICT 0 = s.rdBit Reg.PAR_ADDR_CONFLICT 0 := congrArg (· != 0) hconflict
  have hnot : (parTaking != parStandby) = true := rfl
  unfold State.healthy at hhealthy ⊢
  rw [hfaults, hcanary, hc, hst, hnot, Bool.true_or, Bool.and_true]
  simp only [Bool.and_eq_true] at hhealthy ⊢
  exact hhealthy.1

theorem completes_parTake {g : Nat} (hadm : Admitted s dt h 11 Op.PAR_TAKE) (hpaired : s.paired = true) (hst : s.parSt = parStandby)
    (hhealthy : s.healthy = true) (hgranted : s.par.granted = some g) (hview : (s.elapse dt).addr < (g + 64) * Config.cyclePos) :
    Completes (.parTake dt h) s fun t =>
      t.parSt = parTaking ∧ t.par.takeHost = some h ∧ t.par.takeCause = 2 ∧
      Raised t Ev.PAR_STATE_CHANGE srcDevice [(1, 3), (1, 4), (1, 2)] := by
  refine completes_of_admitted rfl hadm ?_
  obtain ⟨a, ha⟩ : ∃ a, a = s.elapse dt := ⟨_, rfl⟩
  have hstA : a.parSt = parStandby := by rw [ha]; exact hst
  have hhealthyA : a.healthy = true := by rw [ha]; exact hhealthy
  have hgrantedA : a.par.granted = some g := by rw [ha]; exact hgranted
  have hp : ¬ (!a.paired) = true := by rw [ha, show (s.elapse dt).paired = true from hpaired]; decide
  have h1 : ¬ (!([parSeeking, parStandby, parOrphan].contains a.parSt)) = true := by rw [hstA]; decide
  have h2 : ¬ (!a.healthy) = true := by rw [hhealthyA]; decide
  rw [← ha] at hview ⊢
  obtain ⟨b, hb⟩ : ∃ b : State, b = { a with par := { a.par with takeCause := 2, takeHost := some h } } := ⟨_, rfl⟩
  obtain ⟨c, hc⟩ : ∃ c, c = b.setPar parTaking 2 := ⟨_, rfl⟩
  have hbst : b.parSt = parStandby := by rw [hb]; exact hstA
  obtain ⟨hnew, hraised⟩ := State.setPar_spec (s := b) (v := parTaking) (by rw [hbst]; decide) (by decide) 2
  rw [hbst, ← hc] at hraised
  rw [← hc] at hnew
  have hcpar : c.par = b.par := by rw [hc]; exact State.setPar_par ..
  have hcrd {f : Fld} (hf : ∀ e ∈ parStateFields, e.1.key e.2 ≠ f.key 0) : c.rd f 0 = a.rd f 0 := by
    rw [hc, State.setPar_regsOnly b parTaking 2 _ _ hf, hb]
    rfl
  have hchealthy : c.healthy = true :=
    State.healthy_taking hhealthyA (by rw [hcpar, hb]) hnew (hcrd (by decide)) (hcrd (by decide))
  have hwait : c.tryActive = c := by
    have hgrantedC : c.par.granted = some g := by rw [hcpar, hb]; exact hgrantedA
    have haddr : ¬ (g + 64) * Config.cyclePos ≤ c.addr := by
      rw [hc, State.setPar_addr, hb]
      exact Nat.not_le.2 hview
    unfold State.tryActive
    rw [hnew, hchealthy, hgrantedC]
    dsimp only
    rw [decide_eq_false haddr, Bool.false_and, if_neg Bool.false_ne_true]
    rfl
  have htake : a.enterTaking 2 (some h) = c := by
    rw [← hwait, hc, hb]
    rfl
  rw [if_neg hp, if_neg h1, if_neg h2, htake]
  refine ⟨hnew, ?_, ?_, hraised⟩
  · rw [hcpar, hb]
  · rw [hcpar, hb]

theorem completes_parSurrender (hadm : Admitted s dt h 11 Op.PAR_SURRENDER) (hpaired : s.paired = true) (hactive : s.parSt = parActive) :
    Completes (.parSurrender dt h) s fun t =>
      t.parSt = parJoining ∧ t.par.gaveUp = true ∧ t.rd Reg.PAR_AUTHORITY 0 = 0 ∧ t.rd Reg.PAR_LEASED 0 = 0 ∧
      Raised t Ev.PAR_STATE_CHANGE srcDevice [(1, 5), (1, 2), (1, 6)] ∧ Answered t h Op.PAR_SURRENDER 0 0 [] := by
  refine completes_of_admitted rfl hadm ?_
  obtain ⟨a, ha⟩ : ∃ a, a = s.elapse dt := ⟨_, rfl⟩
  have hp : ¬ (!a.paired) = true := by rw [ha, show (s.elapse dt).paired = true from hpaired]; decide
  have hst : a.parSt = parActive := by rw [ha]; exact hactive
  have h1 : ¬ (a.parSt != parActive) = true := by rw [hst]; decide
  rw [← ha]
  obtain ⟨b, hb⟩ : ∃ b : State, b = { a with par := { a.par with gaveUp := true, lease := none, pinSurrender := some (6, a.time) } } := ⟨_, rfl⟩
  obtain ⟨c, hc⟩ : ∃ c, c = (b.wrBit Reg.PAR_LEASED 0 false).send (.surrender 6 b.addr) := ⟨_, rfl⟩
  obtain ⟨d, hd⟩ : ∃ d, d = c.send (.pinWord (pinWord 3 6 b.cycle)) := ⟨_, rfl⟩
  obtain ⟨e, he⟩ : ∃ e, e = d.raise Ev.PAR_SURRENDER srcDevice [(1, 6)] := ⟨_, rfl⟩
  have hgive : a.giveUp 6 = e.setPar parJoining 6 := by
    rw [he, hd, hc, hb]
    rfl
  have heregs : e.regs = (b.wrBit Reg.PAR_LEASED 0 false).regs := by
    rw [he, State.raise_regs, hd, State.send_regs, hc, State.send_regs]
  have hest : e.parSt = parActive := by
    show e.rd Reg.PAR_STATE 0 = parActive
    rw [regsOnly_of_regs heregs [] _ _ (by simp)]
    refine (State.wr_rd_other _ _ _ _ _ _ (by decide)).trans ?_
    rw [hb]
    exact hst
  have hgave : e.par.gaveUp = true := by
    obtain ⟨s1, c1, d1, hp1⟩ := State.send_par (b.wrBit Reg.PAR_LEASED 0 false) (.surrender 6 b.addr)
    obtain ⟨s2, c2, d2, hp2⟩ := State.send_par c (.pinWord (pinWord 3 6 b.cycle))
    rw [he, State.raise_par, hd, hp2, hc, hp1, hb]
    rfl
  have hne : e.parSt ≠ parJoining := by rw [hest]; decide
  obtain ⟨hnew, hraised⟩ := State.setPar_spec hne (by decide) 6
  rw [hest] at hraised
  rw [if_neg hp, if_neg h1, hgive]
  refine ⟨hnew, ?_, State.setPar_authority hne 6, ?_, hraised.done .., State.done_answered ..⟩
  · show (e.setPar parJoining 6).par.gaveUp = true
    rw [State.setPar_par]
    exact hgave
  · show (e.setPar parJoining 6).rd Reg.PAR_LEASED 0 = 0
    rw [State.setPar_regsOnly e parJoining 6 _ _ (by decide), regsOnly_of_regs heregs [] _ _ (by simp)]
    exact State.wrBit_rd_same ..

theorem completes_parDrill {options : Nat} (hadm : Admitted s dt h 11 Op.PAR_DRILL) (hoptions : options ≤ 3) (hpaired : s.paired = true)
    (hdrill : s.par.drill = none) (hactive : s.parSt = parActive) (hmate : s.par.mateState = parStandby) (hwell : s.par.mateHealthy = true) :
    Completes (.parDrill dt h options) s fun t =>
      t.par.drill = some { options := options, phase := 0, since := s.time + dt } ∧ Answered t h Op.PAR_DRILL 0 0 [] ∧ RegsOnly [] s t := by
  refine completes_of_admitted rfl hadm ?_
  obtain ⟨a, ha⟩ : ∃ a, a = s.elapse dt := ⟨_, rfl⟩
  have hp : ¬ (!a.paired) = true := by rw [ha, show (s.elapse dt).paired = true from hpaired]; decide
  have h1 : ¬ 3 < options := by omega
  have h2 : ¬ a.par.drill.isSome = true := by rw [ha, show (s.elapse dt).par.drill = none from hdrill]; decide
  have h3 : ¬ (a.parSt != parActive) = true := by rw [ha, show (s.elapse dt).parSt = parActive from hactive]; decide
  have h4 : ¬ (a.par.mateState != parStandby || !a.par.mateHealthy) = true := by
    rw [ha, show (s.elapse dt).par.mateState = parStandby from hmate, show (s.elapse dt).par.mateHealthy = true from hwell]
    decide
  rw [← ha]
  obtain ⟨b, hb⟩ : ∃ b : State, b = { a with par := { a.par with drill := some { options := options, phase := 0, since := a.time } } } := ⟨_, rfl⟩
  obtain ⟨m, hm⟩ : ∃ m, m = MateMsg.drill options ((a.addr / Config.epochPos + 1) * 32) := ⟨_, rfl⟩
  rw [if_neg h1, if_neg hp, if_neg h2, if_neg h3, if_neg h4, ← hm, ← hb]
  obtain ⟨sent, ctl, data, hpar⟩ := State.send_par b m
  refine ⟨?_, State.done_answered .., RegsOnly.done (regsOnly_of_regs ?_ _) _ _⟩
  · show (b.send m).par.drill = _
    rw [hpar, hb, ha]
    rfl
  · rw [State.send_regs, hb, ha]
    rfl

theorem completes_parClearFault (hadm : Admitted s dt h 11 Op.PAR_CLEAR_FAULT) (hpaired : s.paired = true)
    (hfaults : ∀ c ∈ s.par.faults, c ≠ 1 ∧ c ≠ 4 ∧ c ∉ s.sys.faultsHeld) :
    Completes (.parClearFault dt h) s fun t =>
      t.par.faults = [] ∧ t.rd Reg.PAR_FAULTED 0 = 0 ∧ Answered t h Op.PAR_CLEAR_FAULT 0 0 [] := by
  refine completes_of_admitted rfl hadm ?_
  obtain ⟨a, ha⟩ : ∃ a, a = s.elapse dt := ⟨_, rfl⟩
  have hp : ¬ (!a.paired) = true := by rw [ha, show (s.elapse dt).paired = true from hpaired]; decide
  have hfaultsA : ∀ c ∈ a.par.faults, c ≠ 1 ∧ c ≠ 4 ∧ c ∉ a.sys.faultsHeld := by rw [ha]; exact hfaults
  have hstays : ¬ ((a.par.faults.contains 1 && a.ovm.unusable.any (· < 4096)) ||
      (a.par.faults.contains 4 && decide (1760 ≤ a.rdInt Reg.BKG_TJ_MAX 0)) || a.par.faults.any (fun c => a.sys.faultsHeld.contains c)) = true := by
    have h1 : a.par.faults.contains 1 = false := by simpa using fun hmem => (hfaultsA 1 hmem).1 rfl
    have h4 : a.par.faults.contains 4 = false := by simpa using fun hmem => (hfaultsA 4 hmem).2.1 rfl
    have hheld : a.par.faults.any (fun c => a.sys.faultsHeld.contains c) = false := by
      simpa using fun c hc => (hfaultsA c hc).2.2
    rw [h1, h4, hheld]
    simp
  rw [← ha]
  obtain ⟨b, hb⟩ : ∃ b : State, b = { a with par := { a.par with faults := [] } } := ⟨_, rfl⟩
  obtain ⟨hnone, hclear⟩ := State.review_clear (s := b.parRegs) (by rw [State.parRegs_par, hb])
  dsimp only
  rw [if_neg hp, if_neg hstays, ← hb]
  generalize b.parRegs.review = c at hnone hclear ⊢
  exact ⟨hnone, hclear, State.done_answered ..⟩

end

/-- Settles O44, clause by clause. -/
theorem pairEventsTakeEffect : Obligations.PairEventsTakeEffect := by
  unfold Obligations.PairEventsTakeEffect
  intro s dt
  exact ⟨completes_laneRoleAssign, completes_mateListenEnd, fun h1 h2 h3 h4 h5 => completes_tallyLeaseRenewal_grant h1 h2 h4 h5 h3,
    fun h1 h2 h3 h4 h5 => completes_tallyLeaseRenewal_active h1 h2 h4 h5 h3, fun _ => completes_parOrphan,
    fun _ => completes_leaseViewExpiry, fun _ => completes_parPath, completes_healthReport, fun _ _ => completes_canaryBist,
    fun _ _ _ => completes_parGateMiss_planner, fun _ _ _ => completes_parGateMiss_none, fun _ _ _ _ h1 h2 h3 => completes_parGateMiss_stored h1 h2 h3,
    completes_stateCopyEpoch, fun _ => completes_stateCommitDeadline, fun _ => completes_drillAckTimeout,
    fun _ => completes_drillClaimTimeout, fun _ _ => completes_parTake, fun _ => completes_parSurrender, fun _ _ => completes_parDrill,
    fun _ => completes_parClearFault⟩

end Sys2Proof.Machine
end


section
/-! PROOFS. The governor of the energy block (R424, R427 to R430). -/

namespace Sys2Proof.Machine

section
variable {s t : State} {dt : Nat} {o : GovObs}

/-! ### Rounding -/

theorem State.wholeFree_near (s : State) (q : Rat) : s.wholeFree q = q.floor ∨ s.wholeFree q = q.floor + 1 := by
  unfold State.wholeFree
  split
  · exact Or.inl rfl
  · rcases Int.emod_two_eq_zero_or_one (Config.freeRound s.freeCtr) with h | h
    · rw [h, Int.add_zero]
      exact Or.inl rfl
    · rw [h]
      exact Or.inr rfl

theorem State.figure_zero (s : State) (w : Nat) : s.figure w false 0 = 0 := by
  have hwhole : s.wholeFree 0 = 0 := by
    have hfloor : Rat.floor 0 = 0 := rfl
    unfold State.wholeFree
    rw [hfloor]
    exact if_pos rfl
  have hhi : (0 : Int) ≤ 2 ^ w - 1 := Int.sub_nonneg.2 (one_le_pow₀ (by decide))
  have hin : (decide ((0 : Int) ≤ 0) && decide ((0 : Int) ≤ 2 ^ w - 1)) = true := by
    rw [decide_eq_true hhi]
    rfl
  unfold State.figure
  rw [hwhole]
  refine (if_pos hin).trans ?_
  unfold pattern
  rw [Int.zero_emod]
  rfl

/-! ### Intake -/

theorem State.foldl_setFeed_regs (f : State → Nat → FeedSt) : ∀ (l : List Nat) (a : State), (l.foldl (fun a k => a.setFeed k (f a k)) a).regs = a.regs
  | [], _ => rfl
  | k :: l, a => by
    rw [List.foldl_cons, State.foldl_setFeed_regs f l]
    rfl

theorem State.intake_regs (s : State) : RegsOnly [(Reg.ENG_INTAKE, 0)] s s.intake ∧ (s.goodPairs = [] → s.intake.rd Reg.ENG_INTAKE 0 = 0) := by
  obtain ⟨total, htotal⟩ : ∃ q : Rat, q = (s.goodPairs.map (fun k => if (s.feed k).pCount = 0 then 0 else (s.feed k).pSum / (s.feed k).pCount)).sum := ⟨_, rfl⟩
  obtain ⟨b, hb⟩ : ∃ b, b = (s.wr Reg.ENG_INTAKE 0 (s.figure 20 false total)).draw := ⟨_, rfl⟩
  have hregs : s.intake.regs = b.regs := by
    unfold State.intake
    dsimp only
    rw [State.foldl_setFeed_regs, hb, htotal]
  have hbregs : RegsOnly [(Reg.ENG_INTAKE, 0)] s b := by
    rw [hb]
    exact RegsOnly.upd (RegsOnly.wr (RegsOnly.refl _ s) _ _ _ (List.mem_cons_self ..))
  refine ⟨RegsOnly.of_regs hbregs hregs, fun hnone => ?_⟩
  rw [regsOnly_of_regs hregs [] _ _ (by simp), hb]
  refine (State.wr_rd_same ..).trans ?_
  rw [htotal, hnone, List.map_nil, List.sum_nil, State.figure_zero, Nat.zero_mod]

/-! ### Levers -/

/-- No lever is in force but the workloads' throttling may be. -/
structure State.Unlevered (s : State) : Prop where
  hbm : s.rd Reg.ENG_HBM_STATE 0 = 0
  pipes : s.eng.pipes = []
  asks : s.eng.pipeAsks = []
  lanes : s.eng.lanes = []
  shed : s.eng.shed = []
  hewers : s.eng.hewers = 0

theorem State.Unlevered.congr (h : s.Unlevered) (hhbm : t.rd Reg.ENG_HBM_STATE 0 = s.rd Reg.ENG_HBM_STATE 0) (hpipes : t.eng.pipes = s.eng.pipes)
    (hasks : t.eng.pipeAsks = s.eng.pipeAsks) (hlanes : t.eng.lanes = s.eng.lanes) (hshed : t.eng.shed = s.eng.shed)
    (hhewers : t.eng.hewers = s.eng.hewers) : t.Unlevered :=
  ⟨hhbm.trans h.hbm, hpipes.trans h.pipes, hasks.trans h.asks, hlanes.trans h.lanes, hshed.trans h.shed, hhewers.trans h.hewers⟩

theorem State.Unlevered.topLever (h : s.Unlevered) : s.topLever = if s.rdBit Reg.BKG_THROTTLED 0 then 1 else 0 := by
  unfold State.topLever
  rw [h.shed, h.lanes, h.hbm, h.pipes, h.asks, h.hewers]
  rfl

/-- ENG_LEVER and ENG_STATE where throttling alone may be in force. -/
theorem State.Unlevered.leverRegs (h : s.Unlevered) (hgasp : s.gasping = false) {on : Bool} (hon : s.rdBit Reg.BKG_THROTTLED 0 = on) :
    s.leverRegs false = (s.wr Reg.ENG_LEVER 0 (ofBool on)).wr Reg.ENG_STATE 0 (ofBool on) := by
  obtain ⟨a, ha⟩ : ∃ a, a = s.wr Reg.ENG_LEVER 0 (ofBool on) := ⟨_, rfl⟩
  have hrd {f : Fld} (hf : Reg.ENG_LEVER.key 0 ≠ f.key 0) : a.rd f 0 = s.rd f 0 := by
    rw [ha]
    exact State.wr_rd_other _ _ _ _ _ _ hf.symm
  have htop (x : State) (hx : x.Unlevered) (hxon : x.rdBit Reg.BKG_THROTTLED 0 = on) : x.topLever = ofBool on := by
    rw [hx.topLever, hxon]
    cases on <;> rfl
  have hA : a.Unlevered := h.congr (hrd (by decide)) (by rw [ha]; rfl) (by rw [ha]; rfl) (by rw [ha]; rfl) (by rw [ha]; rfl) (by rw [ha]; rfl)
  have honA : a.rdBit Reg.BKG_THROTTLED 0 = on := (congrArg (· != 0) (hrd (by decide))).trans hon
  have hgaspA : a.gasping = false := by
    unfold State.gasping at hgasp ⊢
    rw [hrd (by decide)]
    exact hgasp
  have hstate : (if ofBool on = 0 then 0 else 1) = ofBool on := by cases on <;> rfl
  unfold State.leverRegs
  dsimp only
  rw [htop s h hon, ← ha, hgaspA, htop a hA honA, if_neg Bool.false_ne_true, if_neg Bool.false_ne_true, hstate]

theorem State.sayLever_raised (s : State) (lever : Nat) (pulled : Bool) (mean : Rat) :
    ∃ m : Int, (m = mean.floor ∨ m = mean.floor + 1) ∧ Raised (s.sayLever lever pulled mean) Ev.ENG_LEVER srcDevice [(1, lever), (1, ofBool pulled), (4, m.toNat)] :=
  ⟨_, s.wholeFree_near mean, State.raise_raised ..⟩

/-- What a step of lever 1 leaves: it is in force or not, and so are ENG_LEVER and ENG_STATE. -/
theorem State.lever1_spec {a : State} (ha : a.Unlevered) (hgasp : a.gasping = false) (on : Bool) (mean : Rat) :
    (((a.wrBit Reg.BKG_THROTTLED 0 on).sayLever 1 on mean).leverRegs false).addr = a.addr ∧
    (((a.wrBit Reg.BKG_THROTTLED 0 on).sayLever 1 on mean).leverRegs false).ovm = a.ovm ∧
    (((a.wrBit Reg.BKG_THROTTLED 0 on).sayLever 1 on mean).leverRegs false).rd Reg.BKG_THROTTLED 0 = ofBool on ∧
    (((a.wrBit Reg.BKG_THROTTLED 0 on).sayLever 1 on mean).leverRegs false).rd Reg.ENG_LEVER 0 = ofBool on ∧
    (((a.wrBit Reg.BKG_THROTTLED 0 on).sayLever 1 on mean).leverRegs false).rd Reg.ENG_STATE 0 = ofBool on ∧
    (∃ m : Int, (m = mean.floor ∨ m = mean.floor + 1) ∧ Raised (((a.wrBit Reg.BKG_THROTTLED 0 on).sayLever 1 on mean).leverRegs false)
      Ev.ENG_LEVER srcDevice [(1, 1), (1, ofBool on), (4, m.toNat)]) ∧
    RegsOnly [(Reg.BKG_THROTTLED, 0), (Reg.ENG_LEVER, 0), (Reg.ENG_STATE, 0)] a
      (((a.wrBit Reg.BKG_THROTTLED 0 on).sayLever 1 on mean).leverRegs false) := by
  obtain ⟨b, hb⟩ : ∃ b, b = (a.wrBit Reg.BKG_THROTTLED 0 on).sayLever 1 on mean := ⟨_, rfl⟩
  obtain ⟨m, hm, hraised⟩ := State.sayLever_raised (a.wrBit Reg.BKG_THROTTLED 0 on) 1 on mean
  rw [← hb] at hraised ⊢
  have hbregs : b.regs = (a.wrBit Reg.BKG_THROTTLED 0 on).regs := by rw [hb]; rfl
  have hbit (v : Bool) (n : Nat) (hn : 0 < n) : ofBool v % 2 ^ n = ofBool v := by
    refine Nat.mod_eq_of_lt (lt_of_lt_of_le ?_ (Nat.pow_le_pow_right (by decide) hn))
    cases v <;> decide
  have hbon : b.rd Reg.BKG_THROTTLED 0 = ofBool on := by
    rw [regsOnly_of_regs hbregs [] _ _ (by simp), State.wrBit_rd_same]
    exact hbit _ _ (by decide)
  have hbrd {f : Fld} (hf : Reg.BKG_THROTTLED.key 0 ≠ f.key 0) : b.rd f 0 = a.rd f 0 := by
    rw [regsOnly_of_regs hbregs [] _ _ (by simp)]
    exact State.wr_rd_other _ _ _ _ _ _ hf.symm
  have hbeng : b.eng = a.eng := by rw [hb]; rfl
  have hbU : b.Unlevered := ha.congr (hbrd (by decide)) (by rw [hbeng]) (by rw [hbeng]) (by rw [hbeng]) (by rw [hbeng]) (by rw [hbeng])
  have hbgasp : b.gasping = false := by
    unfold State.gasping at hgasp ⊢
    rw [hbrd (by decide)]
    exact hgasp
  have hbbit : b.rdBit Reg.BKG_THROTTLED 0 = on := by
    unfold State.rdBit
    rw [hbon]
    cases on <;> rfl
  rw [hbU.leverRegs hbgasp hbbit]
  refine ⟨by rw [hb]; rfl, by rw [hb]; rfl, ?_, ?_, ?_, ⟨m, hm, hraised⟩, ?_⟩
  · exact (State.wr_rd_other _ _ _ _ _ _ (by decide)).trans ((State.wr_rd_other _ _ _ _ _ _ (by decide)).trans hbon)
  · exact (State.wr_rd_other _ _ _ _ _ _ (by decide)).trans ((State.wr_rd_same ..).trans (hbit _ _ (by decide)))
  · exact (State.wr_rd_same ..).trans (hbit _ _ (by decide))
  · refine RegsOnly.wr (RegsOnly.wr (RegsOnly.of_regs ?_ hbregs) _ _ _ (by simp)) _ _ _ (by simp)
    exact RegsOnly.wrBit (RegsOnly.refl _ a) (by simp)

/-! ### The step at a multiframe boundary -/

theorem foldl_eq_self {α β : Type} {f : β → α → β} {b : β} : ∀ {l : List α}, (∀ x ∈ l, f b x = b) → l.foldl f b = b
  | [], _ => rfl
  | x :: l, h => by
    rw [List.foldl_cons, h x (List.mem_cons_self ..)]
    exact foldl_eq_self (fun y hy => h y (List.mem_cons_of_mem _ hy))

theorem State.unitIdle_stage {u : Nat} (hovm : t.ovm = s.ovm) (hlo : 24 ≤ u) (hhi : u < 1024) : t.unitIdle u = s.unitIdle u := by
  unfold State.unitIdle State.heldPlaces
  rw [hovm, if_neg (by omega), if_pos hhi, if_neg (by omega), if_pos hhi]

/-- Stages in use or gated already are not gated. -/
theorem State.gateStages_none (h : ∀ u, 256 ≤ u → u < 264 → s.unitIdle u = false ∨ s.ovm.gated.contains u = true) : s.gateStages = s := by
  unfold State.gateStages
  refine foldl_eq_self fun u hu => if_neg ?_
  obtain ⟨k, hk, rfl⟩ := List.mem_map.1 hu
  have hk8 : k < 8 := List.mem_range.1 hk
  rcases h (256 + k) (by omega) (by omega) with hbusy | hgated
  · rw [hbusy]
    simp
  · rw [hgated]
    simp

/-- What GOVERNOR_STEP does where no unit is gated, parked or held by a lever. -/
theorem exec_governorStep (hrun : s.halted = false) (hgasp : s.gasping = false) (hU : s.Unlevered) :
    exec (.governorStep dt o) s = .next ((s.toBoundary dt Config.multiframePos).intake.govern o).gateStages := by
  obtain ⟨a, ha⟩ : ∃ a, a = s.toBoundary dt Config.multiframePos := ⟨_, rfl⟩
  have hrd (f : Fld) : a.rd f 0 = s.rd f 0 := regsOnly_of_regs (by rw [ha, State.toBoundary_regs]) [] f 0 (by simp)
  obtain ⟨b, hb⟩ : ∃ b, b = a.intake := ⟨_, rfl⟩
  have hbeng : b.eng = s.eng := by
    rw [show b.eng = a.eng from by rw [hb]; exact State.intake_frame (pt := .eng) (by decide) (Part.same_refl _ a), ha, State.toBoundary_eng]
  have hdrop : b.dropWoken = b := by
    have hp : b.eng.pipes = [] := by rw [hbeng]; exact hU.pipes
    have hl : b.eng.lanes = [] := by rw [hbeng]; exact hU.lanes
    have heta : ({ b.eng with pipes := [], lanes := [] } : EngSt) = b.eng := by
      conv_rhs => rw [show b.eng = { b.eng with pipes := b.eng.pipes, lanes := b.eng.lanes } from rfl, hp, hl]
    unfold State.dropWoken
    dsimp only
    rw [hp, hl, List.filter_nil, heta]
  have hpark : b.parkAsked = b := by
    unfold State.parkAsked
    rw [hbeng, hU.asks]
    rfl
  have hbgasp : b.gasping = false := by
    unfold State.gasping at hgasp ⊢
    rw [hb, (State.intake_regs a).1 _ _ (by decide), hrd]
    exact hgasp
  have hgo : ¬ (a.halted || decide (a.rd Reg.ENG_STATE 0 = 4)) = true := by
    have h1 : a.halted = false := by
      unfold State.halted at hrun ⊢
      rw [hrd]
      exact hrun
    have h2 : a.rd Reg.ENG_STATE 0 ≠ 4 := by
      intro h4
      unfold State.gasping at hgasp
      rw [← hrd, h4] at hgasp
      exact absurd hgasp (by decide)
    rw [h1, decide_eq_false h2]
    decide
  show execGovernorStep dt o s = _
  unfold execGovernorStep
  rw [← ha]
  refine congrArg Host.Outcome.next ((if_neg hgo).trans ?_)
  rw [← hb, hdrop, hpark]
  dsimp only
  rw [hbgasp, if_neg Bool.false_ne_true]

/-- The state in which the governor compares, and what it stands in with the state before. -/
structure Judged (s a b : State) : Prop where
  eng : b.eng = s.eng
  ovm : b.ovm = s.ovm
  time : b.time = a.time
  addr : b.addr = a.addr
  regs : RegsOnly [(Reg.ENG_INTAKE, 0)] s b

theorem State.intake_judged (s : State) (dt : Nat) :
    Judged s (s.toBoundary dt Config.multiframePos) (s.toBoundary dt Config.multiframePos).intake := by
  obtain ⟨a, ha⟩ : ∃ a, a = s.toBoundary dt Config.multiframePos := ⟨_, rfl⟩
  rw [← ha]
  have hclock := State.intake_frame (pt := .clock) (by decide) (Part.same_refl _ a)
  refine ⟨?_, ?_, hclock.1, hclock.2, RegsOnly.trans (regsOnly_of_regs ?_ _) (State.intake_regs a).1⟩
  · rw [show a.intake.eng = a.eng from State.intake_frame (pt := .eng) (by decide) (Part.same_refl _ a), ha, State.toBoundary_eng]
  · rw [show a.intake.ovm = a.ovm from State.intake_frame (pt := .ovm) (by decide) (Part.same_refl _ a), ha, State.toBoundary_ovm]
  · rw [ha, State.toBoundary_regs]

section
variable {a b : State} (hj : Judged s a b)
include hj

theorem Judged.meanPower (ha : a.eng = s.eng) : b.meanPower = a.meanPower := by
  unfold State.meanPower
  rw [hj.eng, ha, hj.addr]

theorem Judged.rd {f : Fld} (hf : Reg.ENG_INTAKE.key 0 ≠ f.key 0) : b.rd f 0 = s.rd f 0 := by
  refine hj.regs f 0 ?_
  intro e he
  rw [List.mem_singleton] at he
  rw [he]
  exact hf

theorem Judged.unlevered (hU : s.Unlevered) : b.Unlevered :=
  hU.congr (hj.rd (by decide)) (by rw [hj.eng]) (by rw [hj.eng]) (by rw [hj.eng]) (by rw [hj.eng]) (by rw [hj.eng])

theorem Judged.gasping : b.gasping = s.gasping := by
  unfold State.gasping
  rw [hj.rd (by decide)]

theorem Judged.throttled : b.rdBit Reg.BKG_THROTTLED 0 = s.rdBit Reg.BKG_THROTTLED 0 := congrArg (· != 0) (hj.rd (by decide))

end

/-- The state with since when the mean has been below the budget by the hysteresis. -/
def State.belowSince (s : State) (below : Option Nat) : State := { s with eng := { s.eng with below := below } }

/-- Over budget with the workloads running, lever 1 is pulled. -/
theorem State.govern_over (hoff : s.rdBit Reg.BKG_THROTTLED 0 = false) (hover : (s.rd Reg.ENG_BUDGET 0 : Rat) < s.meanPower) :
    ∃ below, s.govern o = (((s.belowSince below).wrBit Reg.BKG_THROTTLED 0 true).sayLever 1 true s.meanPower).leverRegs false := by
  refine ⟨if s.meanPower < (s.rd Reg.ENG_BUDGET 0 : Rat) - s.rd Reg.ENG_HYST 0 then some (s.eng.below.getD s.time) else none, ?_⟩
  unfold State.govern
  extract_lets mean budget low below p s1 top due
  refine (if_pos (show budget < mean from hover)).trans ?_
  have hpull : s1.pull o 1 = some (s1.wrBit Reg.BKG_THROTTLED 0 true) := if_neg (by rw [show s1.rdBit Reg.BKG_THROTTLED 0 = false from hoff]; decide)
  unfold State.pullLowest
  rw [hpull]
  rfl

/-- Below the budget by the hysteresis for long enough, lever 1 is released. -/
theorem State.govern_release {since : Nat} (hU : s.Unlevered) (hon : s.rdBit Reg.BKG_THROTTLED 0 = true)
    (hlow : s.meanPower < (s.rd Reg.ENG_BUDGET 0 : Rat) - s.rd Reg.ENG_HYST 0) (hbelow : s.eng.below = some since)
    (hdue : since + s.releasePos ≤ s.time) (hcost : s.meanPower + 10 ≤ (s.rd Reg.ENG_BUDGET 0 : Rat) - s.rd Reg.ENG_HYST 0) :
    s.govern o = (((s.belowSince (some since)).wrBit Reg.BKG_THROTTLED 0 false).sayLever 1 false s.meanPower).leverRegs false := by
  unfold State.govern
  extract_lets mean budget low below p s1 top due
  have hb : below = some since := (if_pos (show mean < low from hlow)).trans (by rw [hbelow]; rfl)
  have hs1 : s1 = s.belowSince (some since) := by
    show s.belowSince below = _
    rw [hb]
  have htop : top = 1 := by
    have h1 : s1.Unlevered := ⟨hU.hbm, hU.pipes, hU.asks, hU.lanes, hU.shed, hU.hewers⟩
    exact h1.topLever.trans (if_pos hon)
  have hnot : ¬ budget < mean := by
    have h0 : (0 : Rat) ≤ s.rd Reg.ENG_HYST 0 := Nat.cast_nonneg _
    have h1 : mean < budget - s.rd Reg.ENG_HYST 0 := hlow
    linarith
  have hrelease : s1.releasePos = s.releasePos := by rw [hs1]; rfl
  have hdueB : due = true := by
    show (match (generalizing := false) below with | some t => decide (t + s1.releasePos ≤ s1.time) | none => false) = true
    rw [hb, hrelease]
    refine decide_eq_true ?_
    rw [hs1]
    exact hdue
  have hyes : (due && top != 0 && decide (mean + s1.releaseCost top ≤ low)) = true := by
    rw [hdueB, htop, decide_eq_true (show mean + s1.releaseCost 1 ≤ low from hcost)]
    rfl
  refine (if_neg hnot).trans ((if_pos hyes).trans ?_)
  rw [htop, hs1]
  rfl

end

end Sys2Proof.Machine
end


section
/-! PROOFS. Power, levers, load steps, the loss detector, PMBus and energy per bit (R424, R425, R427, R431, R433, R439, R440, R605). -/

namespace Sys2Proof.Machine

section
variable {s t : State} {dt : Nat}

/-! ### GOVERNOR_STEP -/

theorem State.le_toBoundary_time (s : State) (dt m : Nat) : s.time + dt ≤ (s.toBoundary dt m).time := by
  unfold State.toBoundary State.waitAddr
  dsimp only
  split
  · exact le_refl _
  · exact Nat.le_add_right ..

section
variable {o : GovObs} (hrun : s.halted = false) (hgasp : s.gasping = false) (hU : s.Unlevered)
  (hstages : ∀ u, 256 ≤ u → u < 264 → s.unitIdle u = false ∨ s.ovm.gated.contains u = true)
include hrun hgasp hU hstages

theorem completes_governorStep_over (hoff : s.rdBit Reg.BKG_THROTTLED 0 = false)
    (hover : (s.rd Reg.ENG_BUDGET 0 : Rat) < (s.toBoundary dt Config.multiframePos).meanPower) :
    Completes (.governorStep dt o) s fun t =>
      t.addr = ceilTo Config.multiframePos (s.addr + dt) ∧ t.rd Reg.BKG_THROTTLED 0 = 1 ∧ t.rd Reg.ENG_LEVER 0 = 1 ∧
      t.rd Reg.ENG_STATE 0 = 1 ∧ (s.goodPairs = [] → t.rd Reg.ENG_INTAKE 0 = 0) ∧
      (∃ m : Int, (m = (s.toBoundary dt Config.multiframePos).meanPower.floor ∨
          m = (s.toBoundary dt Config.multiframePos).meanPower.floor + 1) ∧
        Raised t Ev.ENG_LEVER srcDevice [(1, 1), (1, 1), (4, m.toNat)]) ∧
      RegsOnly [(Reg.ENG_INTAKE, 0), (Reg.BKG_THROTTLED, 0), (Reg.ENG_LEVER, 0), (Reg.ENG_STATE, 0)] s t := by
  obtain ⟨a, ha⟩ : ∃ a, a = s.toBoundary dt Config.multiframePos := ⟨_, rfl⟩
  obtain ⟨b, hb⟩ : ∃ b, b = a.intake := ⟨_, rfl⟩
  have hj : Judged s a b := by rw [hb, ha]; exact State.intake_judged s dt
  have hmean : b.meanPower = a.meanPower := hj.meanPower (by rw [ha, State.toBoundary_eng])
  rw [← ha] at hover ⊢
  obtain ⟨w, hgovern⟩ := State.govern_over (s := b) (o := o) (hj.throttled.trans hoff)
    (by rw [hj.rd (by decide), hmean]; exact hover)
  obtain ⟨c, hc⟩ : ∃ c, c = b.belowSince w := ⟨_, rfl⟩
  have hcU : c.Unlevered := by
    obtain ⟨h1, h2, h3, h4, h5, h6⟩ := hj.unlevered hU
    rw [hc]
    exact ⟨h1, h2, h3, h4, h5, h6⟩
  have hcgasp : c.gasping = false := by
    rw [hc]
    exact hj.gasping.trans hgasp
  obtain ⟨haddr, hovm, hthr, hlever, hstate, ⟨m, hm, hraised⟩, hregs⟩ := State.lever1_spec hcU hcgasp true b.meanPower
  rw [hc, ← hgovern] at haddr hovm hthr hlever hstate hraised hregs
  have hexec : exec (.governorStep dt o) s = .next (b.govern o) := by
    rw [exec_governorStep hrun hgasp hU, ← ha, ← hb]
    refine congrArg Host.Outcome.next (State.gateStages_none fun u hlo hhi => ?_)
    have hsame : (b.govern o).ovm = s.ovm := hovm.trans hj.ovm
    rw [State.unitIdle_stage hsame (by omega) (by omega), hsame]
    exact hstages u hlo hhi
  refine ⟨_, hexec, ?_, hthr, hlever, hstate, fun hnone => ?_, ⟨m, by rw [← hmean]; exact hm, hraised⟩, ?_⟩
  · rw [haddr]
    exact hj.addr.trans (by rw [ha]; exact State.toBoundary_addr s dt _ hrun (by decide))
  · have hpairs : a.goodPairs = s.goodPairs := by
      unfold State.goodPairs
      rw [ha]
      simp only [State.toBoundary_rdBit]
    rw [hregs _ _ (by decide)]
    show b.rd Reg.ENG_INTAKE 0 = 0
    rw [hb]
    exact (State.intake_regs a).2 (hpairs.trans hnone)
  · refine RegsOnly.trans (RegsOnly.mono hj.regs (by simp)) (RegsOnly.mono (s := b) hregs fun e he => List.mem_cons_of_mem _ he)

theorem completes_governorStep_release {since : Nat} (hon : s.rdBit Reg.BKG_THROTTLED 0 = true)
    (hlow : (s.toBoundary dt Config.multiframePos).meanPower < (s.rd Reg.ENG_BUDGET 0 : Rat) - s.rd Reg.ENG_HYST 0)
    (hbelow : s.eng.below = some since) (hdue : since + s.releasePos ≤ s.time + dt)
    (hcost : (s.toBoundary dt Config.multiframePos).meanPower + 10 ≤ (s.rd Reg.ENG_BUDGET 0 : Rat) - s.rd Reg.ENG_HYST 0) :
    Completes (.governorStep dt o) s fun t =>
      t.rd Reg.BKG_THROTTLED 0 = 0 ∧ t.rd Reg.ENG_LEVER 0 = 0 ∧ t.rd Reg.ENG_STATE 0 = 0 ∧
      (∃ m : Int, (m = (s.toBoundary dt Config.multiframePos).meanPower.floor ∨
          m = (s.toBoundary dt Config.multiframePos).meanPower.floor + 1) ∧
        Raised t Ev.ENG_LEVER srcDevice [(1, 1), (1, 0), (4, m.toNat)]) := by
  obtain ⟨a, ha⟩ : ∃ a, a = s.toBoundary dt Config.multiframePos := ⟨_, rfl⟩
  obtain ⟨b, hb⟩ : ∃ b, b = a.intake := ⟨_, rfl⟩
  have hj : Judged s a b := by rw [hb, ha]; exact State.intake_judged s dt
  have hmean : b.meanPower = a.meanPower := hj.meanPower (by rw [ha, State.toBoundary_eng])
  have hbudget : b.rd Reg.ENG_BUDGET 0 = s.rd Reg.ENG_BUDGET 0 := hj.rd (by decide)
  have hhyst : b.rd Reg.ENG_HYST 0 = s.rd Reg.ENG_HYST 0 := hj.rd (by decide)
  have hrelease : b.releasePos = s.releasePos := by
    unfold State.releasePos
    rw [hj.rd (by decide)]
  have htime : s.time + dt ≤ a.time := by
    rw [ha]
    exact State.le_toBoundary_time s dt _
  rw [← ha] at hlow hcost ⊢
  have hgovern := State.govern_release (s := b) (o := o) (hj.unlevered hU) (hj.throttled.trans hon)
    (by rw [hmean, hbudget, hhyst]; exact hlow) (by rw [hj.eng]; exact hbelow)
    (by rw [hrelease, hj.time]; exact hdue.trans htime) (by rw [hmean, hbudget, hhyst]; exact hcost)
  obtain ⟨c, hc⟩ : ∃ c, c = b.belowSince (some since) := ⟨_, rfl⟩
  have hcU : c.Unlevered := by
    obtain ⟨h1, h2, h3, h4, h5, h6⟩ := hj.unlevered hU
    rw [hc]
    exact ⟨h1, h2, h3, h4, h5, h6⟩
  have hcgasp : c.gasping = false := by
    rw [hc]
    exact hj.gasping.trans hgasp
  obtain ⟨-, hovm, hthr, hlever, hstate, ⟨m, hm, hraised⟩, -⟩ := State.lever1_spec hcU hcgasp false b.meanPower
  rw [hc, ← hgovern] at hovm hthr hlever hstate hraised
  have hexec : exec (.governorStep dt o) s = .next (b.govern o) := by
    rw [exec_governorStep hrun hgasp hU, ← ha, ← hb]
    refine congrArg Host.Outcome.next (State.gateStages_none fun u hlo hhi => ?_)
    have hsame : (b.govern o).ovm = s.ovm := hovm.trans hj.ovm
    rw [State.unitIdle_stage hsame (by omega) (by omega), hsame]
    exact hstages u hlo hhi
  exact ⟨_, hexec, hthr, hlever, hstate, m, by rw [← hmean]; exact hm, hraised⟩

end

/-! ### DEV_POWER_UPDATE -/

/-- Nothing but registers differs. -/
def RegsAlone (s t : State) : Prop := ∃ r, t = { s with regs := r }

theorem foldl_setRail_alone : ∀ (l : List ((Nat × Nat) × Nat)) (a : State), RegsAlone a (l.foldl (fun a e => a.setRail e.2 e.1.1 e.1.2) a)
  | [], a => ⟨a.regs, rfl⟩
  | e :: l, a => by
    obtain ⟨r, hr⟩ := foldl_setRail_alone l (a.setRail e.2 e.1.1 e.1.2)
    exact ⟨r, hr.trans rfl⟩

theorem railMv_key (k j : Nat) : Reg.BKG_RAIL_MV.key k ≠ Reg.BKG_RAIL_PWR.key j := by
  show (0x00900040 + 4 * k) * 32 + 0 ≠ (0x00900040 + 4 * j) * 32 + 16
  omega

theorem railMv_key_inj {k j : Nat} (h : k ≠ j) : Reg.BKG_RAIL_MV.key k ≠ Reg.BKG_RAIL_MV.key j := by
  show (0x00900040 + 4 * k) * 32 + 0 ≠ (0x00900040 + 4 * j) * 32 + 0
  omega

theorem railPwr_key_inj {k j : Nat} (h : k ≠ j) : Reg.BKG_RAIL_PWR.key k ≠ Reg.BKG_RAIL_PWR.key j := by
  show (0x00900040 + 4 * k) * 32 + 16 ≠ (0x00900040 + 4 * j) * 32 + 16
  omega

/-- What the rails' registers read after the rails from number `n` on were measured. -/
theorem foldl_setRail_rd : ∀ (l : List (Nat × Nat)) (n : Nat) (a : State),
    (∀ (f : Fld) (i : Nat), (∀ k, n ≤ k → k < n + l.length → f.key i ≠ Reg.BKG_RAIL_MV.key k ∧ f.key i ≠ Reg.BKG_RAIL_PWR.key k) →
      ((l.zipIdx n).foldl (fun a e => a.setRail e.2 e.1.1 e.1.2) a).rd f i = a.rd f i) ∧
    (∀ k p, l[k]? = some p →
      ((l.zipIdx n).foldl (fun a e => a.setRail e.2 e.1.1 e.1.2) a).rd Reg.BKG_RAIL_MV (n + k) = p.1 % 2 ^ 16 ∧
      ((l.zipIdx n).foldl (fun a e => a.setRail e.2 e.1.1 e.1.2) a).rd Reg.BKG_RAIL_PWR (n + k) = p.2 % 2 ^ 16)
  | [], _, _ => ⟨fun _ _ _ => rfl, fun _ _ h => by simp at h⟩
  | q :: l, n, a => by
    obtain ⟨hother, hread⟩ := foldl_setRail_rd l (n + 1) (a.setRail n q.1 q.2)
    rw [List.zipIdx_cons, List.foldl_cons]
    refine ⟨fun f i hf => ?_, fun k p hk => ?_⟩
    · rw [hother f i (fun k hlo hhi => hf k (by omega) (by rw [List.length_cons]; omega))]
      obtain ⟨hmv, hpwr⟩ := hf n (le_refl n) (by rw [List.length_cons]; omega)
      exact (State.wr_rd_other _ _ _ _ _ _ hpwr).trans (State.wr_rd_other _ _ _ _ _ _ hmv)
    · cases k with
      | zero =>
        obtain rfl : q = p := Option.some.inj hk
        refine ⟨(hother _ _ fun k hlo _ => ⟨railMv_key_inj (by omega), railMv_key _ _⟩).trans ?_,
          (hother _ _ fun k hlo _ => ⟨(railMv_key _ _).symm, railPwr_key_inj (by omega)⟩).trans (State.wr_rd_same ..)⟩
        exact (State.wr_rd_other _ _ _ _ _ _ (railMv_key _ _)).trans (State.wr_rd_same ..)
      | succ k =>
        have h := hread k p hk
        rw [show n + 1 + k = n + (k + 1) by omega] at h
        exact h

theorem completes_devPowerUpdate {rails : List (Nat × Nat)} (hgasp : s.rd Reg.ENG_STATE 0 ≠ 3) (hstop : s.rd Reg.ENG_STATE 0 ≠ 4)
    (hlen : rails.length ≤ 9) (hsum : (rails.map (·.2)).sum < 65536) :
    Completes (.devPowerUpdate dt rails) s fun t =>
      (∀ k p, rails[k]? = some p → t.rd Reg.BKG_RAIL_MV k = p.1 % 2 ^ 16 ∧ t.rd Reg.BKG_RAIL_PWR k = p.2 % 2 ^ 16) ∧
      t.rd Reg.ENG_DEV_POWER 0 = (rails.map (·.2)).sum ∧
      t.eng.powers = ((t.addr, (((rails.map (·.2)).sum : Nat) : Int)) :: s.eng.powers).take 16 ∧ t.eng.ledger = s.eng.ledger ∧
      RegsOnly ((Reg.ENG_DEV_POWER, 0) :: (List.range 9).flatMap (fun k => [(Reg.BKG_RAIL_MV, k), (Reg.BKG_RAIL_PWR, k)])) s t := by
  obtain ⟨v, hv⟩ : ∃ v, v = (rails.map (·.2)).sum := ⟨_, rfl⟩
  rw [← hv] at hsum ⊢
  obtain ⟨a, ha⟩ : ∃ a, a = s.toBoundary dt Config.hundredUsPos := ⟨_, rfl⟩
  have hard (f : Fld) (i : Nat) : a.rd f i = s.rd f i := by rw [ha, State.toBoundary_rd]
  obtain ⟨b, hb⟩ : ∃ b, b = (rails.zipIdx).foldl (fun a e => a.setRail e.2 e.1.1 e.1.2) a := ⟨_, rfl⟩
  obtain ⟨hother, hread⟩ := foldl_setRail_rd rails 0 a
  rw [← hb] at hother hread
  obtain ⟨r, hr⟩ : RegsAlone a b := by rw [hb]; exact foldl_setRail_alone _ a
  obtain ⟨c, hc⟩ : ∃ c, c = (b.wr Reg.ENG_DEV_POWER 0 v).draw := ⟨_, rfl⟩
  obtain ⟨e, he⟩ : ∃ e : State, e = { c with eng := { c.eng with powers := ((c.addr, (v : Int)) :: c.eng.powers).take 16 } } := ⟨_, rfl⟩
  have herd {f : Fld} {i : Nat} (hf : Reg.ENG_DEV_POWER.key 0 ≠ f.key i) : e.rd f i = b.rd f i := by
    rw [he, hc]
    exact State.wr_rd_other _ _ _ _ _ _ hf.symm
  have hrail (k : Nat) : Reg.ENG_DEV_POWER.key 0 ≠ Reg.BKG_RAIL_MV.key k ∧ Reg.ENG_DEV_POWER.key 0 ≠ Reg.BKG_RAIL_PWR.key k := by
    refine ⟨?_, ?_⟩
    · show (0x00680014 + 0 * 0) * 32 + 0 ≠ (0x00900040 + 4 * k) * 32 + 0
      omega
    · show (0x00680014 + 0 * 0) * 32 + 0 ≠ (0x00900040 + 4 * k) * 32 + 16
      omega
  have hstate : e.rd Reg.ENG_STATE 0 = s.rd Reg.ENG_STATE 0 := by
    rw [herd (by decide), hother _ _ fun k _ _ => ?_, hard]
    refine ⟨?_, ?_⟩
    · show (0x00680010 + 0 * 0) * 32 + 0 ≠ (0x00900040 + 4 * k) * 32 + 0
      omega
    · show (0x00680010 + 0 * 0) * 32 + 0 ≠ (0x00900040 + 4 * k) * 32 + 16
      omega
  have hcstate : c.rd Reg.ENG_STATE 0 = s.rd Reg.ENG_STATE 0 := by
    rw [← hstate, he]
    rfl
  have hexec : exec (.devPowerUpdate dt rails) s = .next e := by
    show execDevPowerUpdate dt rails s = _
    unfold execDevPowerUpdate
    rw [← ha]
    dsimp only
    rw [List.take_of_length_le hlen, ← hb, ← hv, if_pos hsum, ← hc]
    refine congrArg Host.Outcome.next ((if_neg (by rw [hcstate]; exact hstop)).trans ?_)
    rw [← he]
    unfold State.chargeLedger
    refine if_pos ?_
    rw [hstate]
    exact bne_iff_ne.2 hgasp
  have hceng : c.eng = s.eng := by
    rw [hc, hr]
    show a.eng = s.eng
    rw [ha, State.toBoundary_eng]
  refine ⟨e, hexec, fun k p hk => ?_, ?_, ?_, ?_, fun f i hf => ?_⟩
  · obtain ⟨h1, h2⟩ := hread k p hk
    rw [Nat.zero_add] at h1 h2
    exact ⟨(herd (hrail k).1).trans h1, (herd (hrail k).2).trans h2⟩
  · rw [he, hc]
    exact (State.wr_rd_same ..).trans (Nat.mod_eq_of_lt hsum)
  · rw [he, ← hceng]
  · rw [he, ← hceng]
  · rw [herd (hf _ (List.mem_cons_self ..)), hother f i fun k _ hk => ?_, hard]
    have hmem (g : Fld × Nat) (hg : g ∈ [(Reg.BKG_RAIL_MV, k), (Reg.BKG_RAIL_PWR, k)]) : g.1.key g.2 ≠ f.key i :=
      hf g (List.mem_cons_of_mem _ (List.mem_flatMap.2 ⟨k, List.mem_range.2 (by omega), hg⟩))
    exact ⟨(hmem (Reg.BKG_RAIL_MV, k) (by simp)).symm, (hmem (Reg.BKG_RAIL_PWR, k) (by simp)).symm⟩

/-! ### SLEW_WINDOW -/

theorem completes_slewWindow_wake {p : Nat} (hp : p < 24) (hwait : s.eng.waiting = [.wake p]) (hgasp : s.gasping = false)
    (hempty : (s.toBoundary dt Config.hundredUsPos).slewSum = 0) (hgated : s.ovm.gated.contains p = true)
    (hwaking : s.ovm.waking.contains p = false) :
    Completes (.slewWindow dt) s fun t =>
      t.ovm.waking = s.ovm.waking ++ [p] ∧ t.ovm.gated = s.ovm.gated ∧ t.eng.waiting = [] ∧ t.eng.winSum = 8 ∧
      t.eng.winAt = t.addr / Config.hundredUsPos ∧ t.io = s.io ∧ RegsOnly [] s t := by
  obtain ⟨a, ha⟩ : ∃ a, a = s.toBoundary dt Config.hundredUsPos := ⟨_, rfl⟩
  have hovm : a.ovm = s.ovm := by rw [ha, State.toBoundary_ovm]
  rw [← ha] at hempty
  have hprice : a.stepPrice (.wake p) = 8 := if_neg (by simp; omega)
  have hfits : a.slewFits 8 = true := by
    unfold State.slewFits
    rw [hempty]
    rfl
  obtain ⟨b, hb⟩ : ∃ b, b = a.slewCharge 8 := ⟨_, rfl⟩
  obtain ⟨c, hc⟩ : ∃ c : State, c = { b with ovm := { b.ovm with waking := b.ovm.waking ++ [p] } } := ⟨_, rfl⟩
  obtain ⟨e, he⟩ : ∃ e : State, e = { c with eng := { c.eng with waiting := [] } } := ⟨_, rfl⟩
  have hbovm : b.ovm = s.ovm := by rw [hb]; exact hovm
  have hexec : exec (.slewWindow dt) s = .next e := by
    show execSlewWindow dt s = _
    have hw : a.eng.waiting = [.wake p] := by rw [ha, State.toBoundary_eng]; exact hwait
    have hgo : (a.gasping || a.slewFits 8) = true := by rw [hfits, Bool.or_true]
    have hmake : b.makeStep (.wake p) = c := by
      rw [hc]
      refine if_pos ?_
      rw [hbovm, hgated, hwaking]
      rfl
    unfold execSlewWindow
    rw [← ha]
    dsimp only
    rw [hw]
    unfold State.admitSteps
    dsimp only
    rw [hprice, if_pos hgo, ← hb, hmake, he]
    rfl
  have hwin : e.eng.winSum = 0 + 8 := by
    rw [he, hc, hb, ← hempty]
    rfl
  refine ⟨e, hexec, ?_, ?_, by rw [he], hwin, ?_, ?_, regsOnly_of_regs ?_ _⟩
  · rw [he, hc, hbovm]
  · rw [he, hc, hbovm]
  · rw [he, hc, hb]
    rfl
  · rw [he, hc, hb]
    show a.io = s.io
    rw [ha, State.toBoundary_io]
  · rw [he, hc, hb]
    show a.regs = s.regs
    rw [ha, State.toBoundary_regs]

theorem completes_slewWindow_full {x : LoadStep} (hwait : s.eng.waiting = [x]) (hgasp : s.gasping = false)
    (hfull : (s.toBoundary dt Config.hundredUsPos).slewFits (s.stepPrice x) = false) :
    Completes (.slewWindow dt) s fun t =>
      t.rd Reg.ENG_SLEW_DEFER_CNT 0 = (s.rd Reg.ENG_SLEW_DEFER_CNT 0 + 1) % 2 ^ 32 ∧ t.eng = s.eng ∧ t.ovm = s.ovm ∧
      RegsOnly [(Reg.ENG_SLEW_DEFER_CNT, 0)] s t := by
  obtain ⟨a, ha⟩ : ∃ a, a = s.toBoundary dt Config.hundredUsPos := ⟨_, rfl⟩
  have hrd (f : Fld) : a.rd f 0 = s.rd f 0 := by rw [ha, State.toBoundary_rd]
  have heng : a.eng = s.eng := by rw [ha, State.toBoundary_eng]
  have hovm : a.ovm = s.ovm := by rw [ha, State.toBoundary_ovm]
  have hprice : a.stepPrice x = s.stepPrice x := by
    cases x with
    | gate u => rfl
    | wake u => rfl
    | hbm k =>
      unfold State.stepPrice
      rw [hrd]
    | shed i =>
      unfold State.stepPrice State.chargeOf
      rw [hovm]
  rw [← ha] at hfull
  obtain ⟨b, hb⟩ : ∃ b : State, b = { a with eng := { a.eng with waiting := [x] } } := ⟨_, rfl⟩
  have hbeng : b.eng = s.eng := by
    rw [hb, heng, ← hwait]
  have hexec : exec (.slewWindow dt) s = .next (b.countBy Reg.ENG_SLEW_DEFER_CNT 0 1) := by
    show execSlewWindow dt s = _
    have hno : ¬ (a.gasping || a.slewFits (s.stepPrice x)) = true := by
      have hg : a.gasping = false := by
        unfold State.gasping at hgasp ⊢
        rw [hrd]
        exact hgasp
      rw [hg, hfull]
      decide
    unfold execSlewWindow
    rw [← ha]
    dsimp only
    rw [heng, hwait]
    unfold State.admitSteps
    dsimp only
    rw [hprice, if_neg hno, hb]
    rfl
  refine ⟨_, hexec, ?_, hbeng, by rw [hb]; exact hovm, ?_⟩
  · rw [State.countBy_rd_same, hb]
    exact congrArg (fun n => (n + 1) % 2 ^ 32) (hrd _)
  · refine RegsOnly.wr (regsOnly_of_regs ?_ _) _ _ _ (List.mem_cons_self ..)
    rw [hb]
    show a.regs = s.regs
    rw [ha, State.toBoundary_regs]

/-! ### DETECTOR_ARM, and FEED_LOSS with last gasps disabled -/

theorem completes_detectorArm (hconf : s.sys.configured = true) (hoff : s.rdBit Reg.ENG_ARMED 0 = false)
    (hsome : ∃ k, k < 8 ∧ s.rdBit Reg.ENG_FEED_EN k = true)
    (hup : ∀ k, k < 8 → s.rdBit Reg.ENG_FEED_EN k = true → ∃ a, (s.feed k).okSince = some a ∧ a + Config.secondPos ≤ s.time + dt) :
    Completes (.detectorArm dt) s fun t =>
      t.rd Reg.ENG_ARMED 0 = 1 ∧ t.time = s.time + dt ∧ RegsOnly [(Reg.ENG_ARMED, 0)] s t := by
  obtain ⟨a, ha⟩ : ∃ a, a = s.elapse dt := ⟨_, rfl⟩
  obtain ⟨on, hon⟩ : ∃ on, on = (List.range 8).filter (a.rdBit Reg.ENG_FEED_EN) := ⟨_, rfl⟩
  have hmem (k : Nat) (hk : k ∈ on) : ∃ n, (a.feed k).okSince = some n ∧ n + Config.secondPos ≤ s.time + dt := by
    rw [hon, List.mem_filter, List.mem_range, ha] at hk
    rw [ha]
    exact hup k hk.1 hk.2
  obtain ⟨from_, hfrom⟩ : ∃ l, l = on.map (fun k => (a.feed k).okSince) := ⟨_, rfl⟩
  obtain ⟨due, hdue⟩ : ∃ d, d = (from_.map (fun t => t.getD 0 + Config.secondPos)).foldl max 0 := ⟨_, rfl⟩
  have hle : due ≤ s.time + dt := by
    rw [hdue]
    refine foldl_max_le _ (fun x hx => ?_) 0 (Nat.zero_le _)
    obtain ⟨y, hy, rfl⟩ := List.mem_map.1 hx
    rw [hfrom] at hy
    obtain ⟨k, hk, rfl⟩ := List.mem_map.1 hy
    obtain ⟨n, hn, hlate⟩ := hmem k hk
    rw [hn, Option.getD_some]
    exact hlate
  have hexec : exec (.detectorArm dt) s = .next ((a.elapse (due - a.time)).wrBit Reg.ENG_ARMED 0 true) := by
    show execDetectorArm dt s = _
    have hgo : ¬ (!a.sys.configured || on.isEmpty || a.rdBit Reg.ENG_ARMED 0 || from_.any (·.isNone)) = true := by
      have h1 : on.isEmpty = false := by
        obtain ⟨k, hk, hen⟩ := hsome
        have hin : k ∈ on := by
          rw [hon, List.mem_filter, List.mem_range, ha]
          exact ⟨hk, hen⟩
        cases honl : on with
        | nil => rw [honl] at hin; cases hin
        | cons => rfl
      have h2 : from_.any (·.isNone) = false := by
        rw [List.any_eq_false, hfrom]
        intro x hx
        obtain ⟨k, hk, rfl⟩ := List.mem_map.1 hx
        obtain ⟨n, hn, -⟩ := hmem k hk
        rw [hn]
        exact Bool.false_ne_true
      rw [h1, h2, show a.sys.configured = true by rw [ha]; exact hconf, show a.rdBit Reg.ENG_ARMED 0 = false by rw [ha]; exact hoff]
      decide
    unfold execDetectorArm
    rw [← ha]
    dsimp only
    rw [← hon, ← hfrom, ← hdue]
    exact congrArg Host.Outcome.next (if_neg hgo)
  refine ⟨_, hexec, State.wrBit_rd_same .., ?_, RegsOnly.wrBit ?_ (List.mem_cons_self ..)⟩
  · rw [ha]
    show s.time + dt + (due - (s.time + dt)) = _
    omega
  · rw [ha]
    exact RegsOnly.refl _ s

theorem completes_feedLoss_disabled (hlost : s.feedsLost = true) (hgasp : s.gasping = false) (hoff : s.rdBit Reg.ENG_LG_EN 0 = false) :
    Completes (.feedLoss dt) s fun t =>
      Raised t Ev.ENG_LAST_GASP srcDevice [(1, 0), (4, s.rd Reg.ENG_LEDGER_MJ 0)] ∧ t.eng = s.eng ∧ RegsOnly [] s t := by
  obtain ⟨a, ha⟩ : ∃ a, a = s.elapse dt := ⟨_, rfl⟩
  have hexec : exec (.feedLoss dt) s = .next (a.raise Ev.ENG_LAST_GASP srcDevice [(1, 0), (4, a.rd Reg.ENG_LEDGER_MJ 0)]) := by
    show execFeedLoss dt s = _
    have h1 : a.feedsLost = true := by rw [ha]; exact hlost
    have h2 : ¬ a.gasping = true := by rw [ha, show (s.elapse dt).gasping = false from hgasp]; decide
    have h3 : (!a.rdBit Reg.ENG_LG_EN 0) = true := by rw [ha, show (s.elapse dt).rdBit Reg.ENG_LG_EN 0 = false from hoff]; rfl
    unfold execFeedLoss
    rw [← ha]
    exact congrArg Host.Outcome.next ((if_pos h1).trans ((if_neg h2).trans (if_pos h3)))
  rw [show s.rd Reg.ENG_LEDGER_MJ 0 = a.rd Reg.ENG_LEDGER_MJ 0 by rw [ha]; rfl]
  refine ⟨_, hexec, State.raise_raised .., by rw [ha]; rfl, RegsOnly.raise ?_ _ _ _⟩
  rw [ha]
  exact RegsOnly.refl _ s

/-! ### PMBus -/

theorem State.pmbFault_rd (s : State) (j status : Nat) :
    (s.pmbFault j status).rd Reg.ENG_PMB_FAULT_CNT 0 = (s.rd Reg.ENG_PMB_FAULT_CNT 0 + 1) % 2 ^ 32 := by
  unfold State.pmbFault
  rw [State.raise_rd, State.count_rd_same']
  rfl

theorem State.pmbFault_raised (s : State) (j status : Nat) :
    Raised (s.pmbFault j status) Ev.ENG_PMB_FAULT (srcConverter j) [(1, j), (2, status)] := State.raise_raised ..

theorem State.pmbFault_regsOnly (s : State) (j status : Nat) : RegsOnly [(Reg.ENG_PMB_FAULT_CNT, 0)] s (s.pmbFault j status) :=
  RegsOnly.raise (RegsOnly.count (RegsOnly.refl _ s) (List.mem_cons_self ..)) _ _ _

/-- A poll of the one converter that is polled. -/
theorem exec_pmbusPoll {r : PmbRead} (hstop : s.rd Reg.ENG_STATE 0 ≠ 4) (hon : (List.range 8).filter (s.rdBit Reg.ENG_PMB_EN) = [r.conv]) :
    exec (.pmbusPoll dt [r]) s = .next ((s.toBoundary dt (100 * Config.msPos)).takePoll r) := by
  obtain ⟨a, ha⟩ : ∃ a, a = s.toBoundary dt (100 * Config.msPos) := ⟨_, rfl⟩
  have hbits : a.rdBit Reg.ENG_PMB_EN = s.rdBit Reg.ENG_PMB_EN := by
    funext k
    rw [ha, State.toBoundary_rdBit]
  have hgo : ¬ a.rd Reg.ENG_STATE 0 = 4 := by rw [ha, State.toBoundary_rd]; exact hstop
  have hfind : ([r] : List PmbRead).find? (fun x => x.conv == r.conv) = some r := by simp
  show execPmbusPoll dt [r] s = _
  unfold execPmbusPoll
  rw [← ha]
  refine congrArg Host.Outcome.next ((if_neg hgo).trans ?_)
  rw [hbits, hon, List.foldl_cons, List.foldl_nil, hfind]
  rfl

theorem completes_pmbusPoll_read {r : PmbRead} (hstop : s.rd Reg.ENG_STATE 0 ≠ 4)
    (hon : (List.range 8).filter (s.rdBit Reg.ENG_PMB_EN) = [r.conv]) (herr : r.err = 0) (hstatus : r.status < 4) :
    Completes (.pmbusPoll dt [r]) s fun t =>
      t.rd Reg.ENG_PMB_STATUS r.conv = r.status ∧ t.rd Reg.ENG_PMB_VIN r.conv = r.vin % 2 ^ 16 ∧
      t.rd Reg.ENG_PMB_IOUT r.conv = r.iout % 2 ^ 16 ∧ t.rd Reg.ENG_PMB_POUT r.conv = r.pout % 2 ^ 16 ∧ t.io = s.io ∧
      RegsOnly [(Reg.ENG_PMB_STATUS, r.conv), (Reg.ENG_PMB_VIN, r.conv), (Reg.ENG_PMB_IOUT, r.conv), (Reg.ENG_PMB_POUT, r.conv)] s t := by
  obtain ⟨a, ha⟩ : ∃ a, a = s.toBoundary dt (100 * Config.msPos) := ⟨_, rfl⟩
  obtain ⟨b, hb⟩ : ∃ b, b = (((a.wr Reg.ENG_PMB_STATUS r.conv r.status).wr Reg.ENG_PMB_VIN r.conv r.vin).wr Reg.ENG_PMB_IOUT r.conv r.iout).wr
    Reg.ENG_PMB_POUT r.conv r.pout := ⟨_, rfl⟩
  have hexec : exec (.pmbusPoll dt [r]) s = .next b := by
    have h1 : ¬ r.err = 1 := by rw [herr]; decide
    have h2 : ¬ (r.err != 0) = true := by rw [herr]; decide
    have h3 : ¬ (r.status % 65536 / 4 != 0) = true := by
      rw [show r.status % 65536 / 4 = 0 by omega]
      decide
    rw [exec_pmbusPoll hstop hon, ← ha, hb]
    exact congrArg Host.Outcome.next ((if_neg h1).trans ((if_neg h2).trans (if_neg h3)))
  have hkeys : Reg.ENG_PMB_STATUS.key r.conv ≠ Reg.ENG_PMB_VIN.key r.conv ∧ Reg.ENG_PMB_STATUS.key r.conv ≠ Reg.ENG_PMB_IOUT.key r.conv ∧
      Reg.ENG_PMB_STATUS.key r.conv ≠ Reg.ENG_PMB_POUT.key r.conv ∧ Reg.ENG_PMB_VIN.key r.conv ≠ Reg.ENG_PMB_IOUT.key r.conv ∧
      Reg.ENG_PMB_VIN.key r.conv ≠ Reg.ENG_PMB_POUT.key r.conv ∧ Reg.ENG_PMB_IOUT.key r.conv ≠ Reg.ENG_PMB_POUT.key r.conv := by
    have hs : Reg.ENG_PMB_STATUS.key r.conv = (0x00682004 + 0x10 * r.conv) * 32 + 0 := rfl
    have hv : Reg.ENG_PMB_VIN.key r.conv = (0x00682008 + 0x10 * r.conv) * 32 + 0 := rfl
    have hi : Reg.ENG_PMB_IOUT.key r.conv = (0x0068200C + 0x10 * r.conv) * 32 + 0 := rfl
    have hp : Reg.ENG_PMB_POUT.key r.conv = (0x00682008 + 0x10 * r.conv) * 32 + 16 := rfl
    omega
  obtain ⟨k1, k2, k3, k4, k5, k6⟩ := hkeys
  refine ⟨b, hexec, ?_, ?_, ?_, ?_, ?_, ?_⟩
  · rw [hb, State.wr_rd_other _ _ _ _ _ _ k3, State.wr_rd_other _ _ _ _ _ _ k2, State.wr_rd_other _ _ _ _ _ _ k1, State.wr_rd_same]
    exact Nat.mod_eq_of_lt (hstatus.trans (by decide))
  · rw [hb, State.wr_rd_other _ _ _ _ _ _ k5, State.wr_rd_other _ _ _ _ _ _ k4, State.wr_rd_same]
    rfl
  · rw [hb, State.wr_rd_other _ _ _ _ _ _ k6, State.wr_rd_same]
    rfl
  · rw [hb, State.wr_rd_same]
    rfl
  · rw [hb, ← State.toBoundary_io s dt (100 * Config.msPos), ← ha]
    rfl
  · rw [hb]
    refine RegsOnly.wr (RegsOnly.wr (RegsOnly.wr (RegsOnly.wr (regsOnly_of_regs ?_ _) _ _ _ (by simp)) _ _ _ (by simp)) _ _ _ (by simp)) _ _ _
      (by simp)
    rw [ha, State.toBoundary_regs]

theorem completes_pmbusPoll_nack {r : PmbRead} (hstop : s.rd Reg.ENG_STATE 0 ≠ 4)
    (hon : (List.range 8).filter (s.rdBit Reg.ENG_PMB_EN) = [r.conv]) (herr : r.err = 1) :
    Completes (.pmbusPoll dt [r]) s fun t =>
      t.rd Reg.ENG_PMB_FAULT_CNT 0 = (s.rd Reg.ENG_PMB_FAULT_CNT 0 + 1) % 2 ^ 32 ∧
      Raised t Ev.ENG_PMB_FAULT (srcConverter r.conv) [(1, r.conv), (2, 0xFFFF)] ∧ RegsOnly [(Reg.ENG_PMB_FAULT_CNT, 0)] s t := by
  obtain ⟨a, ha⟩ : ∃ a, a = s.toBoundary dt (100 * Config.msPos) := ⟨_, rfl⟩
  have hregs : a.regs = s.regs := by rw [ha, State.toBoundary_regs]
  have hexec : exec (.pmbusPoll dt [r]) s = .next (a.pmbFault r.conv 0xFFFF) := by
    rw [exec_pmbusPoll hstop hon, ← ha]
    exact congrArg Host.Outcome.next (if_pos herr)
  refine ⟨_, hexec, ?_, State.pmbFault_raised .., RegsOnly.trans (regsOnly_of_regs hregs _) (State.pmbFault_regsOnly _ _ _)⟩
  rw [State.pmbFault_rd, regsOnly_of_regs hregs [] _ _ (by simp)]

theorem completes_pmbAlert {conv status : Nat} (hconv : conv < 8) (hstatus : status < 65536) :
    Completes (.pmbAlert dt conv status) s fun t =>
      t.rd Reg.ENG_PMB_FAULT_CNT 0 = (s.rd Reg.ENG_PMB_FAULT_CNT 0 + 1) % 2 ^ 32 ∧
      Raised t Ev.ENG_PMB_FAULT (srcConverter conv) [(1, conv), (2, status)] ∧ RegsOnly [(Reg.ENG_PMB_FAULT_CNT, 0)] s t := by
  have hexec : exec (.pmbAlert dt conv status) s = .next ((s.elapse dt).pmbFault conv status) := by
    show execPmbAlert dt conv status s = _
    unfold execPmbAlert
    rw [Nat.mod_eq_of_lt hconv, Nat.mod_eq_of_lt hstatus]
  refine ⟨_, hexec, ?_, State.pmbFault_raised .., RegsOnly.trans (RegsOnly.of_elapse _ s dt) (State.pmbFault_regsOnly _ _ _)⟩
  rw [State.pmbFault_rd]
  rfl

/-! ### ENG_EPB_UPDATE -/

theorem completes_engEpbUpdate {q : Int} (hq : q = (((s.rd Reg.ENG_DEV_POWER 0 : Rat) * 1000000000000 / s.carriedRate) + 1 / 2).floor)
    (hsmall : q < 65536) :
    Completes (.engEpbUpdate dt) s fun t =>
      t.rd Reg.ENG_EPB 0 = (if s.carriedRate = 0 then 0xFFFF else q.toNat) ∧
      (s.halted = false → t.addr = ceilTo Config.secondPos (s.addr + dt)) ∧ t.io = s.io ∧ RegsOnly [(Reg.ENG_EPB, 0)] s t := by
  obtain ⟨a, ha⟩ : ∃ a, a = s.toBoundary dt Config.secondPos := ⟨_, rfl⟩
  have hrate : a.carriedRate = s.carriedRate := by
    unfold State.carriedRate
    rw [ha, State.toBoundary_ovm]
  have hqA : (((a.rd Reg.ENG_DEV_POWER 0 : Rat) * 1000000000000 / s.carriedRate) + 1 / 2).floor = q := by
    rw [hq, ha, State.toBoundary_rd]
  have haddr (hrun : s.halted = false) : a.addr = ceilTo Config.secondPos (s.addr + dt) := by
    rw [ha]
    exact State.toBoundary_addr s dt _ hrun (by decide)
  have hio : a.io = s.io := by rw [ha, State.toBoundary_io]
  have honly (v : Nat) : RegsOnly [(Reg.ENG_EPB, 0)] s (a.wr Reg.ENG_EPB 0 v) := by
    refine RegsOnly.wr (regsOnly_of_regs ?_ _) _ _ _ (List.mem_cons_self ..)
    rw [ha, State.toBoundary_regs]
  by_cases hzero : s.carriedRate = 0
  · have hexec : exec (.engEpbUpdate dt) s = .next (a.wr Reg.ENG_EPB 0 0xFFFF) := by
      show execEngEpbUpdate dt s = _
      unfold execEngEpbUpdate
      rw [← ha]
      exact congrArg Host.Outcome.next (if_pos (hrate.trans hzero))
    refine ⟨_, hexec, ?_, haddr, hio, honly _⟩
    rw [if_pos hzero, State.wr_rd_same]
    rfl
  · have hexec : exec (.engEpbUpdate dt) s = .next (a.wr Reg.ENG_EPB 0 q.toNat).draw := by
      show execEngEpbUpdate dt s = _
      unfold execEngEpbUpdate
      rw [← ha]
      dsimp only
      rw [hrate, hqA, if_pos hsmall]
      exact congrArg Host.Outcome.next (if_neg hzero)
    refine ⟨_, hexec, ?_, haddr, hio, RegsOnly.upd (honly _)⟩
    rw [if_neg hzero]
    refine (State.wr_rd_same ..).trans (Nat.mod_eq_of_lt ?_)
    show q.toNat < 65536
    omega

end

end Sys2Proof.Machine
end


section
/-! PROOFS. The last gasp (R433 to R437), and O45. -/

namespace Sys2Proof.Machine

section
variable {s t u : State} {dt : Nat}

/-! ### Stages -/

theorem foldl_regsOnly {α : Type} {f : State → α → State} {fs : List (Fld × Nat)} (hf : ∀ a x, RegsOnly fs a (f a x)) :
    ∀ (l : List α) (a : State), RegsOnly fs a (l.foldl f a)
  | [], a => RegsOnly.refl _ a
  | x :: l, a => RegsOnly.trans (hf a x) (foldl_regsOnly hf l (f a x))

theorem State.pmFreeze_regs (s : State) : RegsOnly pmCounts s s.pmFreeze := by
  unfold State.pmFreeze
  dsimp only
  exact RegsOnly.upd (foldl_regsOnly (fun a p => RegsOnly.upd (State.closeNow_other (PmOther.refl 0 a) p (a.point p) 5).regs) _ s)

/-- A stage entered, and what stands. -/
structure Entered (stage : Nat) (s t : State) : Prop where
  entered : t.rd Reg.ENG_LG_STAGE 0 = stage
  ran : t.eng.ran = s.eng.ran ++ [stage]
  ledger : t.eng.ledger = s.eng.ledger
  hewers : t.eng.hewers = s.eng.hewers
  power : t.eng.declPower = s.eng.declPower
  cause : t.eng.declCause = s.eng.declCause
  regs : RegsOnly ((Reg.ENG_LG_STAGE, 0) :: pmCounts) s t

/-- What follows the entry leaves it. -/
theorem Entered.of_eng {stage : Nat} (h : Entered stage s t) (hran : u.eng.ran = t.eng.ran) (hledger : u.eng.ledger = t.eng.ledger)
    (hhewers : u.eng.hewers = t.eng.hewers) (hpower : u.eng.declPower = t.eng.declPower) (hcause : u.eng.declCause = t.eng.declCause)
    (hregs : RegsOnly pmCounts t u) : Entered stage s u :=
  ⟨(hregs _ _ (by decide)).trans h.entered, hran.trans h.ran, hledger.trans h.ledger, hhewers.trans h.hewers, hpower.trans h.power,
    hcause.trans h.cause, RegsOnly.trans h.regs (RegsOnly.mono hregs fun _ he => List.mem_cons_of_mem _ he)⟩

theorem State.enterStage_entered (s : State) {stage : Nat} (hstage : stage < 8) : Entered stage s (s.enterStage stage) := by
  unfold State.enterStage
  extract_lets p s0 s1
  have h1 : Entered stage s s1 := by
    refine ⟨(State.wr_rd_same ..).trans (Nat.mod_eq_of_lt hstage), rfl, rfl, rfl, rfl, rfl, ?_⟩
    exact RegsOnly.upd (RegsOnly.raise (RegsOnly.wr (RegsOnly.upd (RegsOnly.refl _ s)) _ _ _ (List.mem_cons_self ..)) _ _ _)
  clear_value s1
  split
  · exact h1.of_eng rfl rfl rfl rfl rfl (RegsOnly.refl _ s1)
  · have heng : s1.pmFreeze.eng = s1.eng := State.pmFreeze_frame (pt := .eng) (by decide) (Part.same_refl _ s1)
    exact h1.of_eng (by rw [heng]) (by rw [heng]) (by rw [heng]) (by rw [heng]) (by rw [heng]) (State.pmFreeze_regs s1)
  · exact h1
  · exact h1.of_eng rfl rfl rfl rfl rfl (RegsOnly.refl _ s1)

/-- A stage of the list is entered, or stage 4. -/
theorem State.nextStage_entered : ∀ {l : List Nat} {s : State}, (∀ k ∈ l, k < 8) → ∃ k, (k ∈ l ∨ k = 4) ∧ Entered k s (s.nextStage l)
  | [], s, _ => ⟨4, Or.inr rfl, s.enterStage_entered (by decide)⟩
  | k :: rest, s, hl => by
    unfold State.nextStage
    extract_lets price p s1
    split
    · obtain ⟨b, hb⟩ : ∃ b, b = (s1.raise Ev.ENG_LG_SKIPPED srcDevice [(1, k), (4, s1.mj s1.eng.ledger), (4, s1.mj price)]).draw := ⟨_, rfl⟩
      have hbeng : b.eng = s1.eng := by rw [hb]; rfl
      have hbregs : b.regs = s.regs := by rw [hb]; rfl
      rw [← hb]
      obtain ⟨j, hj, hentered⟩ := State.nextStage_entered (l := rest) (s := b) (fun x hx => hl x (List.mem_cons_of_mem _ hx))
      obtain ⟨e1, e2, e3, e4, e5, e6, e7⟩ := hentered
      rw [hbeng] at e2 e3 e4 e5 e6
      exact ⟨j, hj.imp (List.mem_cons_of_mem _) id, e1, e2, e3, e4, e5, e6, RegsOnly.trans (regsOnly_of_regs hbregs _) e7⟩
    · exact ⟨k, Or.inl (List.mem_cons_self ..), s.enterStage_entered (hl k (List.mem_cons_self ..))⟩

/-! ### The levers at a declaration -/

/-- What the levers pulled at a declaration leave. -/
structure GaspKept (l : List (Fld × Nat)) (s t : State) : Prop where
  ran : t.eng.ran = s.eng.ran
  ledger : t.eng.ledger = s.eng.ledger
  hewers : t.eng.hewers = s.eng.hewers
  power : t.eng.declPower = s.eng.declPower
  cause : t.eng.declCause = s.eng.declCause
  regs : RegsOnly l s t

theorem GaspKept.refl (l : List (Fld × Nat)) (s : State) : GaspKept l s s := ⟨rfl, rfl, rfl, rfl, rfl, RegsOnly.refl _ s⟩

theorem GaspKept.trans {l : List (Fld × Nat)} (h : GaspKept l s t) (k : GaspKept l t u) : GaspKept l s u :=
  ⟨k.ran.trans h.ran, k.ledger.trans h.ledger, k.hewers.trans h.hewers, k.power.trans h.power, k.cause.trans h.cause,
    RegsOnly.trans h.regs k.regs⟩

theorem GaspKept.of_eng {l : List (Fld × Nat)} (heng : t.eng = s.eng) (hregs : RegsOnly l s t) : GaspKept l s t := by
  refine ⟨?_, ?_, ?_, ?_, ?_, hregs⟩ <;> rw [heng]

/-- The registers that levers 2 to 4 move. -/
def deepFields : List (Fld × Nat) := [(Reg.ENG_HBM_STATE, 0), (Reg.ENG_LEVER, 0)]

theorem gasping_of_regsOnly (h : RegsOnly deepFields s t) : t.gasping = s.gasping := by
  unfold State.gasping
  rw [h _ _ (by decide)]

/-- A pipeline's gating moves no register. -/
theorem State.gateUnit_pipe {p : Nat} (hp : p < 24) (s : State) : GaspKept deepFields s (s.gateUnit p) := by
  refine GaspKept.of_eng (State.gateUnit_frame (pt := .eng) (by decide) (Part.same_refl _ s)) (regsOnly_of_regs ?_ _)
  unfold State.gateUnit
  split
  · rfl
  · dsimp only
    rw [if_neg (by omega), if_neg (by omega)]

theorem State.loadStep_gasping (hgasp : s.gasping = true) (x : LoadStep) : s.loadStep x = s.makeStep x := by
  refine if_pos ?_
  rw [hgasp, Bool.true_or]

theorem foldl_gatePipe {l : List Nat} (hl : ∀ p ∈ l, p < 24) : ∀ {s : State}, s.gasping = true →
    GaspKept deepFields s (l.foldl (fun a p => ({ a with eng := { a.eng with pipes := p :: a.eng.pipes } } : State).loadStep (.gate p)) s) := by
  induction l with
  | nil => exact fun _ => GaspKept.refl _ _
  | cons p l ih =>
    intro s hgasp
    obtain ⟨b, hb⟩ : ∃ b : State, b = { s with eng := { s.eng with pipes := p :: s.eng.pipes } } := ⟨_, rfl⟩
    have hbgasp : b.gasping = true := by rw [hb]; exact hgasp
    have hsb : GaspKept deepFields s b := by
      rw [hb]
      exact ⟨rfl, rfl, rfl, rfl, rfl, RegsOnly.refl _ s⟩
    rw [List.foldl_cons, ← hb, State.loadStep_gasping hbgasp]
    have hgate := State.gateUnit_pipe (hl p (List.mem_cons_self ..)) b
    have hgasp' : (b.makeStep (.gate p)).gasping = true := (gasping_of_regsOnly hgate.regs).trans hbgasp
    exact (hsb.trans hgate).trans (ih (fun q hq => hl q (List.mem_cons_of_mem _ hq)) hgasp')

theorem State.sayLever_kept (s : State) (lever : Nat) (pulled : Bool) (mean : Rat) (l : List (Fld × Nat)) :
    GaspKept l s (s.sayLever lever pulled mean) := ⟨rfl, rfl, rfl, rfl, rfl, RegsOnly.refl _ s⟩

/-- A lever's move, reported or not made. -/
theorem GaspKept.say {l : List (Fld × Nat)} (h : GaspKept l s t) (moved : Bool) (lever : Nat) (mean : Rat) :
    GaspKept l s (if moved then t.sayLever lever true mean else s) := by
  split
  · exact h.trans (State.sayLever_kept ..)
  · exact GaspKept.refl l s

/-- At a declaration the workloads are throttled, the hewers' lever stands at its last step, and only the registers of the levers move. -/
theorem State.pullGasp_spec (hgasp : s.gasping = true) :
    s.pullGasp.eng.ran = s.eng.ran ∧ s.pullGasp.eng.ledger = s.eng.ledger ∧ s.pullGasp.eng.declPower = s.eng.declPower ∧
    s.pullGasp.eng.declCause = s.eng.declCause ∧ 96 ≤ s.pullGasp.eng.hewers ∧ s.pullGasp.rd Reg.BKG_THROTTLED 0 ≠ 0 ∧
    RegsOnly ((Reg.BKG_THROTTLED, 0) :: deepFields) s s.pullGasp := by
  unfold State.pullGasp
  extract_lets mean say s1 p s2 idle s3 deep s4
  have h1 : GaspKept [(Reg.BKG_THROTTLED, 0)] s s1 :=
    (show GaspKept _ s (s.wrBit Reg.BKG_THROTTLED 0 true) from
      ⟨rfl, rfl, rfl, rfl, rfl, RegsOnly.wrBit (RegsOnly.refl _ s) (List.mem_cons_self ..)⟩).say _ _ _
  have hthr : s1.rd Reg.BKG_THROTTLED 0 ≠ 0 := by
    show State.rd (if (!s.rdBit Reg.BKG_THROTTLED 0) = true then (s.wrBit Reg.BKG_THROTTLED 0 true).sayLever 1 true mean else s) Reg.BKG_THROTTLED 0 ≠ 0
    cases hon : s.rdBit Reg.BKG_THROTTLED 0 with
    | true => exact bne_iff_ne.1 hon
    | false =>
      rw [Bool.not_false, if_pos rfl]
      show (s.wrBit Reg.BKG_THROTTLED 0 true).rd Reg.BKG_THROTTLED 0 ≠ 0
      rw [State.wrBit_rd_same]
      decide
  have h2 : s2.eng.ran = s1.eng.ran ∧ s2.eng.ledger = s1.eng.ledger ∧ s2.eng.declPower = s1.eng.declPower ∧
      s2.eng.declCause = s1.eng.declCause ∧ 96 ≤ s2.eng.hewers ∧ s2.regs = s1.regs := by
    by_cases hfew : s1.eng.hewers < 96
    · rw [show s2 = _ from if_pos (decide_eq_true hfew)]
      exact ⟨rfl, rfl, rfl, rfl, le_refl 96, rfl⟩
    · rw [show s2 = s1 from if_neg (by rw [decide_eq_false hfew]; decide)]
      exact ⟨rfl, rfl, rfl, rfl, Nat.not_lt.1 hfew, rfl⟩
  clear_value s1 s2
  obtain ⟨hran2, hledger2, hpower2, hcause2, hhewers2, hregs2⟩ := h2
  have hgasp2 : s2.gasping = true := by
    unfold State.gasping at hgasp ⊢
    rw [regsOnly_of_regs hregs2 [] _ _ (by simp), h1.regs _ _ (by decide)]
    exact hgasp
  have h3 : GaspKept deepFields s2 s3 := by
    refine (foldl_gatePipe (fun p hp => ?_) hgasp2).say _ _ _
    rw [show idle = _ from rfl, List.mem_filter, List.mem_range] at hp
    exact hp.1
  clear_value s3
  have hgasp3 : s3.gasping = true := (gasping_of_regsOnly h3.regs).trans hgasp2
  have h4 : GaspKept deepFields s3 s4 := by
    have hstep : GaspKept deepFields s3 (s3.loadStep (.hbm deep)) := by
      rw [State.loadStep_gasping hgasp3]
      exact ⟨rfl, rfl, rfl, rfl, rfl, RegsOnly.wr (RegsOnly.refl _ s3) _ _ _ (List.mem_cons_self ..)⟩
    exact hstep.say _ _ _
  clear_value s4
  have hgasp4 : s4.gasping = true := (gasping_of_regsOnly h4.regs).trans hgasp3
  have h5 : GaspKept deepFields s4 (s4.leverRegs false) := by
    obtain ⟨b, hb⟩ : ∃ b, b = s4.wr Reg.ENG_LEVER 0 s4.topLever := ⟨_, rfl⟩
    have hbregs : RegsOnly deepFields s4 b := by
      rw [hb]
      exact RegsOnly.wr (RegsOnly.refl _ s4) _ _ _ (by simp [deepFields])
    have hbgasp : b.gasping = true := (gasping_of_regsOnly hbregs).trans hgasp4
    have hlever : s4.leverRegs false = b := by
      unfold State.leverRegs
      dsimp only
      rw [← hb]
      exact if_pos hbgasp
    rw [hlever]
    exact GaspKept.of_eng (by rw [hb]; rfl) hbregs
  obtain ⟨hran, hledger, hhewers, hpower, hcause, hregs⟩ := (h3.trans h4).trans h5
  refine ⟨?_, ?_, ?_, ?_, ?_, ?_, ?_⟩
  · rw [hran, hran2, h1.ran]
  · rw [hledger, hledger2, h1.ledger]
  · rw [hpower, hpower2, h1.power]
  · rw [hcause, hcause2, h1.cause]
  · rw [hhewers]
    exact hhewers2
  · rw [hregs _ _ (by decide), regsOnly_of_regs hregs2 [] _ _ (by simp)]
    exact hthr
  · refine RegsOnly.trans (RegsOnly.mono h1.regs (by simp)) (RegsOnly.trans (regsOnly_of_regs hregs2 _) (RegsOnly.mono hregs ?_))
    exact fun e he => List.mem_cons_of_mem _ he

/-! ### The declaration -/

/-- A loss declared by an unpaired device begins the last gasp (R434, R435). -/
theorem State.declareLoss_spec (hgasp : s.gasping = false) (hon : s.rdBit Reg.ENG_LG_EN 0 = true) (hpaired : s.paired = false)
    (hwait : s.eng.waiting = []) (cause : Nat) (age : Rat) :
    (s.declareLoss cause age).rd Reg.ENG_STATE 0 = 3 ∧ (s.declareLoss cause age).rd Reg.ENG_LG_STAGE 0 ∈ [1, 2, 3, 4] ∧
    (s.declareLoss cause age).rd Reg.BKG_THROTTLED 0 ≠ 0 ∧ 96 ≤ (s.declareLoss cause age).eng.hewers ∧
    (s.declareLoss cause age).eng.declPower = s.rd Reg.ENG_DEV_POWER 0 ∧ (s.declareLoss cause age).eng.declCause = cause ∧
    (s.declareLoss cause age).eng.ledger = (s.rd Reg.ENG_HOLDUP_MJ 0 : Rat) - energyMj (s.rd Reg.ENG_DEV_POWER 0) age ∧
    (s.declareLoss cause age).eng.ran = [(s.declareLoss cause age).rd Reg.ENG_LG_STAGE 0] := by
  obtain ⟨p, hp⟩ : ∃ p, p = s.rd Reg.ENG_DEV_POWER 0 := ⟨_, rfl⟩
  obtain ⟨ledger, hledger⟩ : ∃ q, q = (s.rd Reg.ENG_HOLDUP_MJ 0 : Rat) - energyMj p age := ⟨_, rfl⟩
  rw [← hp, ← hledger]
  obtain ⟨a, ha⟩ : ∃ a : State, a = { s with
    eng := { s.eng with ledger := ledger, ledgerAt := s.time, declPower := p, declAt := s.addr, declCause := cause,
                        ledgers := [], ran := [], skipped := [] },
    sys := { s.sys with faultsHeld := s.sys.faultsHeld ++ [5] } } := ⟨_, rfl⟩
  obtain ⟨b, hb⟩ : ∃ b, b = (a.wr Reg.ENG_STATE 0 3).ledgerReg := ⟨_, rfl⟩
  obtain ⟨c, hc⟩ : ∃ c : State, c = { b with eng := { b.eng with waiting := [] } } := ⟨_, rfl⟩
  have hbregs : RegsOnly [(Reg.ENG_STATE, 0), (Reg.ENG_LEDGER_MJ, 0)] s b := by
    rw [hb, ha]
    exact RegsOnly.upd (RegsOnly.wr (RegsOnly.wr (RegsOnly.upd (RegsOnly.refl _ s)) _ _ _ (by simp)) _ _ _ (by simp))
  have hbstate : b.rd Reg.ENG_STATE 0 = 3 := by
    rw [hb]
    exact (State.wr_rd_other _ _ _ _ _ _ (by decide)).trans (State.wr_rd_same ..)
  have hbeng : b.eng = a.eng := by rw [hb]; rfl
  have hself : b.selfFault 5 = b := by
    have hno : b.paired = false := (congrArg (· != 0) (hbregs Reg.PAR_PAIR_EN 0 (by decide))).trans hpaired
    unfold State.selfFault
    rw [hno]
    rfl
  have hdecl : s.declareLoss cause age = c.pullGasp.nextStage [1, 2, 3] := by
    have h1 : ¬ s.gasping = true := by rw [hgasp]; decide
    have h2 : ¬ (!s.rdBit Reg.ENG_LG_EN 0) = true := by rw [hon]; decide
    unfold State.declareLoss
    refine (if_neg h1).trans ((if_neg h2).trans ?_)
    dsimp only
    rw [← hp, ← hledger, ← ha, ← hb, hself]
    have hw : b.eng.waiting = [] := by rw [hbeng, ha]; exact hwait
    rw [hw, hc]
    rfl
  have hcgasp : c.gasping = true := by
    unfold State.gasping
    rw [hc]
    show decide (3 ≤ b.rd Reg.ENG_STATE 0) = true
    rw [hbstate]
    rfl
  obtain ⟨hran, hled, hpow, hcause, hhewers, hthr, hregs⟩ := State.pullGasp_spec hcgasp
  obtain ⟨k, hk, hentered⟩ := State.nextStage_entered (l := [1, 2, 3]) (s := c.pullGasp) (by decide)
  have hk4 : k ∈ [1, 2, 3, 4] := by
    simp only [List.mem_cons, List.not_mem_nil, or_false] at hk ⊢
    omega
  rw [hdecl]
  refine ⟨?_, ?_, ?_, ?_, ?_, ?_, ?_, ?_⟩
  · rw [hentered.regs _ _ (by decide), hregs _ _ (by decide), hc]
    exact hbstate
  · rw [hentered.entered]
    exact hk4
  · rw [hentered.regs _ _ (by decide)]
    exact hthr
  · rw [hentered.hewers]
    exact hhewers
  · rw [hentered.power, hpow, hc, hbeng, ha]
  · rw [hentered.cause, hcause, hc, hbeng, ha]
  · rw [hentered.ledger, hled, hc, hbeng, ha]
  · rw [hentered.ran, hentered.entered, hran, hc, hbeng, ha]
    rfl

theorem completes_feedLoss_declared (hlost : s.feedsLost = true) (hgasp : s.gasping = false) (hon : s.rdBit Reg.ENG_LG_EN 0 = true)
    (hpaired : s.paired = false) (hwait : s.eng.waiting = []) :
    Completes (.feedLoss dt) s fun t =>
      t.rd Reg.ENG_STATE 0 = 3 ∧ t.rd Reg.ENG_LG_STAGE 0 ∈ [1, 2, 3, 4] ∧ t.rd Reg.BKG_THROTTLED 0 ≠ 0 ∧ 96 ≤ t.eng.hewers ∧
      t.eng.declPower = s.rd Reg.ENG_DEV_POWER 0 ∧ t.eng.declCause = 0 ∧
      t.eng.ledger = (s.rd Reg.ENG_HOLDUP_MJ 0 : Rat) - energyMj (s.rd Reg.ENG_DEV_POWER 0) (s.elapse dt).lossAge ∧
      t.eng.ran = [t.rd Reg.ENG_LG_STAGE 0] := by
  have hexec : exec (.feedLoss dt) s = .next ((s.elapse dt).declareLoss 0 (s.elapse dt).lossAge) :=
    congrArg Host.Outcome.next (if_pos (show (s.elapse dt).feedsLost = true from hlost))
  exact ⟨_, hexec, State.declareLoss_spec (s := s.elapse dt) hgasp hon hpaired hwait 0 _⟩

/-! ### The end of a stage -/

theorem State.chargeLedger_regs (s : State) (p : Nat) : RegsOnly [(Reg.ENG_LEDGER_MJ, 0)] s (s.chargeLedger p) := by
  unfold State.chargeLedger
  split
  · exact RegsOnly.refl _ s
  · exact RegsOnly.upd (RegsOnly.wr (RegsOnly.upd (RegsOnly.refl _ s)) _ _ _ (List.mem_cons_self ..))

/-- Links that stop sending settle the counts of their own block of registers. -/
theorem State.setTxIdle_blocks (s : State) : BlocksOnly [6] s (s.setTxIdle true) := by
  have hsettle (a : State) (l : Nat) : BlocksOnly [6] a (a.settleTx l) := by
    unfold State.settleTx
    split
    next hon =>
      have hl := State.rlkOn_lt hon
      exact ((BlocksOnly.refl [6] a).wr (b := 6) hl (by decide) (by decide) _ |>.wr (b := 6) hl (by decide) (by decide) _).setRlkLane _ _
    next => exact BlocksOnly.refl _ a
  unfold State.setTxIdle
  split
  · exact BlocksOnly.refl _ s
  · rw [if_pos rfl]
    generalize List.range 48 = ls
    exact BlocksOnly.of_regs (BlocksOnly.foldl (l := ls) (fun a l _ => hsettle a l) (BlocksOnly.refl _ s)) rfl

theorem State.setTxIdle_idle (s : State) : (s.setTxIdle true).shf.txIdle = true := by
  unfold State.setTxIdle
  split
  next h => exact h
  next => rfl

theorem completes_lgStageEnd_first (hstate : s.rd Reg.ENG_STATE 0 = 3) (hstage : s.rd Reg.ENG_LG_STAGE 0 = 1) :
    Completes (.lgStageEnd dt) s fun t =>
      t.time = max (s.time + dt) (s.eng.stageAt + s.gaspPos) ∧ t.shf.txIdle = true ∧ t.rd Reg.ENG_LG_STAGE 0 ∈ [2, 3, 4] ∧
      t.rd Reg.ENG_STATE 0 = 3 := by
  obtain ⟨due, hdue⟩ : ∃ n, n = s.eng.stageAt + s.gaspPos := ⟨_, rfl⟩
  rw [← hdue]
  obtain ⟨z, hz⟩ : ∃ z, z = s.elapse dt := ⟨_, rfl⟩
  have hzdue : z.eng.stageAt + z.gaspPos = due := by rw [hz, hdue]; rfl
  obtain ⟨a, ha⟩ : ∃ a, a = z.elapse (due - z.time) := ⟨_, rfl⟩
  have hard (f : Fld) : a.rd f 0 = s.rd f 0 := by rw [ha, hz]; rfl
  obtain ⟨b, hb⟩ : ∃ b, b = a.chargeLedger (a.rd Reg.ENG_DEV_POWER 0) := ⟨_, rfl⟩
  have hbregs : RegsOnly [(Reg.ENG_LEDGER_MJ, 0)] a b := by rw [hb]; exact State.chargeLedger_regs _ _
  obtain ⟨c, hc⟩ : ∃ c, c = b.setTxIdle true := ⟨_, rfl⟩
  have hexec : exec (.lgStageEnd dt) s = .next (c.nextStage [2, 3]) := by
    show execLgStageEnd dt s = _
    have hfirst : (z.rd Reg.ENG_STATE 0 == 3 && z.rd Reg.ENG_LG_STAGE 0 == 1) = true := by
      rw [hz, show (s.elapse dt).rd Reg.ENG_STATE 0 = 3 from hstate, show (s.elapse dt).rd Reg.ENG_LG_STAGE 0 = 1 from hstage]
      rfl
    have hgo : ¬ (a.rd Reg.ENG_STATE 0 != 3) = true := by rw [hard, hstate]; decide
    have hone : b.rd Reg.ENG_LG_STAGE 0 = 1 := by rw [hbregs _ _ (by decide), hard, hstage]
    unfold execLgStageEnd
    rw [← hz]
    dsimp only
    rw [hfirst, if_pos rfl, hzdue, ← ha]
    refine congrArg Host.Outcome.next ((if_neg hgo).trans ?_)
    rw [← hb, hone, hc]
    rfl
  obtain ⟨k, hk, hentered⟩ := State.nextStage_entered (l := [2, 3]) (s := c) (by decide)
  refine ⟨_, hexec, ?_, ?_, ?_, ?_⟩
  · have h1 : (c.nextStage [2, 3]).time = c.time := (State.nextStage_frame (pt := .clock) (by decide) (Part.same_refl _ c)).1
    have h2 : c.time = b.time := by rw [hc]; exact (State.setTxIdle_frame (pt := .clock) (by decide) (Part.same_refl _ b)).1
    have h3 : b.time = a.time := by rw [hb]; exact (State.chargeLedger_frame (pt := .clock) (by decide) (Part.same_refl _ a)).1
    rw [h1, h2, h3, ha, hz]
    show s.time + dt + (due - (s.time + dt)) = _
    omega
  · have h1 : (c.nextStage [2, 3]).shf = c.shf := State.nextStage_frame (pt := .shf) (by decide) (Part.same_refl _ c)
    rw [h1, hc]
    exact State.setTxIdle_idle b
  · rw [hentered.entered]
    simp only [List.mem_cons, List.not_mem_nil, or_false] at hk ⊢
    omega
  · have hidle : c.rd Reg.ENG_STATE 0 = b.rd Reg.ENG_STATE 0 := by
      rw [hc]
      exact (State.setTxIdle_blocks b).field (b := 13) (n := 1) (by decide) (by decide) (by decide)
    rw [hentered.regs _ _ (by decide), hidle, hbregs _ _ (by decide), hard, hstate]

theorem completes_lgStageEnd_last (hstate : s.rd Reg.ENG_STATE 0 = 3) (hstage : s.rd Reg.ENG_LG_STAGE 0 = 4) :
    Completes (.lgStageEnd dt) s fun t =>
      t.rd Reg.ENG_STATE 0 = 4 ∧ t.rd Reg.SHF_STATE 0 = 0 ∧ t.rd Reg.RST_ACTIVE 0 = 0x1FFF ∧ t.rd Reg.HIF_EN 0 = 0 ∧
      t.shf.startable = false ∧ t.shf.txIdle = true ∧ t.io = s.io ∧
      (s.shf.txIdle = true → RegsOnly [(Reg.ENG_LEDGER_MJ, 0), (Reg.ENG_STATE, 0), (Reg.SHF_STATE, 0), (Reg.RST_ACTIVE, 0),
        (Reg.HIF_EN, 0)] s t) := by
  obtain ⟨a, ha⟩ : ∃ a, a = s.elapse dt := ⟨_, rfl⟩
  have hard (f : Fld) : a.rd f 0 = s.rd f 0 := by rw [ha]; rfl
  obtain ⟨b, hb⟩ : ∃ b, b = a.chargeLedger (a.rd Reg.ENG_DEV_POWER 0) := ⟨_, rfl⟩
  have hbregs : RegsOnly [(Reg.ENG_LEDGER_MJ, 0)] a b := by rw [hb]; exact State.chargeLedger_regs _ _
  obtain ⟨c, hc⟩ : ∃ c, c = b.setTxIdle true := ⟨_, rfl⟩
  obtain ⟨d, hd⟩ : ∃ d : State, d = { c with shf := { c.shf with startable := false } } := ⟨_, rfl⟩
  obtain ⟨e, he⟩ : ∃ e, e = (((d.wr Reg.ENG_STATE 0 4).wr Reg.SHF_STATE 0 0).wr Reg.RST_ACTIVE 0 0x1FFF).wr Reg.HIF_EN 0 0 := ⟨_, rfl⟩
  have hexec : exec (.lgStageEnd dt) s = .next e := by
    show execLgStageEnd dt s = _
    have hfirst : (a.rd Reg.ENG_STATE 0 == 3 && a.rd Reg.ENG_LG_STAGE 0 == 1) = false := by
      rw [hard, hard, hstate, hstage]
      rfl
    have hgo : ¬ (a.rd Reg.ENG_STATE 0 != 3) = true := by rw [hard, hstate]; decide
    have hfour : b.rd Reg.ENG_LG_STAGE 0 = 4 := by rw [hbregs _ _ (by decide), hard, hstage]
    unfold execLgStageEnd
    rw [← ha]
    dsimp only
    rw [hfirst, if_neg Bool.false_ne_true]
    refine congrArg Host.Outcome.next ((if_neg hgo).trans ?_)
    rw [← hb, hfour, he, hd, hc]
    rfl
  have hbio : b.io = s.io := by
    rw [show b.io = a.io from by rw [hb]; exact State.chargeLedger_frame (pt := .io) (by decide) (Part.same_refl _ a), ha]
    rfl
  refine ⟨e, hexec, ?_, ?_, ?_, ?_, ?_, ?_, ?_, fun hidle => ?_⟩
  · rw [he, State.wr_rd_other _ _ _ _ _ _ (by decide), State.wr_rd_other _ _ _ _ _ _ (by decide), State.wr_rd_other _ _ _ _ _ _ (by decide)]
    exact State.wr_rd_same ..
  · rw [he, State.wr_rd_other _ _ _ _ _ _ (by decide), State.wr_rd_other _ _ _ _ _ _ (by decide)]
    exact State.wr_rd_same ..
  · rw [he, State.wr_rd_other _ _ _ _ _ _ (by decide)]
    exact State.wr_rd_same ..
  · rw [he]
    exact State.wr_rd_same ..
  · rw [he, hd]
    rfl
  · rw [he, hd]
    show c.shf.txIdle = true
    rw [hc]
    exact State.setTxIdle_idle b
  · rw [he, hd, ← hbio]
    show c.io = b.io
    rw [hc]
    exact State.setTxIdle_frame (pt := .io) (by decide) (Part.same_refl _ b)
  · have hcb : c = b := by
      have hbidle : b.shf.txIdle = true := by
        rw [show b.shf = a.shf from by rw [hb]; exact State.chargeLedger_frame (pt := .shf) (by decide) (Part.same_refl _ a), ha]
        exact hidle
      rw [hc]
      exact if_pos hbidle
    rw [he, hd, hcb]
    refine RegsOnly.wr (RegsOnly.wr (RegsOnly.wr (RegsOnly.wr (RegsOnly.upd ?_) _ _ _ (by simp)) _ _ _ (by simp)) _ _ _ (by simp)) _ _ _ (by simp)
    refine RegsOnly.trans (t := a) ?_ (RegsOnly.mono hbregs (by simp))
    rw [ha]
    exact RegsOnly.refl _ s

end

/-- Settles O45, clause by clause. -/
theorem energyEventsTakeEffect : Obligations.EnergyEventsTakeEffect := by
  unfold Obligations.EnergyEventsTakeEffect
  intro s dt
  refine ⟨fun o hrun hgasp hoff hhbm hpipes hasks hlanes hshed hhewers hstages hover => ?_,
    fun o since hrun hgasp hon hhbm hpipes hasks hlanes hshed hhewers hstages hlow hbelow hdue hcost => ?_,
    fun _ => completes_devPowerUpdate, fun _ => completes_slewWindow_wake, fun _ => completes_slewWindow_full, completes_detectorArm,
    completes_feedLoss_disabled, completes_feedLoss_declared, completes_lgStageEnd_first, completes_lgStageEnd_last,
    fun _ => completes_pmbusPoll_read, fun _ => completes_pmbusPoll_nack, fun _ _ => completes_pmbAlert, fun _ => completes_engEpbUpdate⟩
  · exact completes_governorStep_over hrun hgasp ⟨hhbm, hpipes, hasks, hlanes, hshed, hhewers⟩ hstages hoff hover
  · exact completes_governorStep_release hrun hgasp ⟨hhbm, hpipes, hasks, hlanes, hshed, hhewers⟩ hstages hon hlow hbelow hdue hcost

end Sys2Proof.Machine
end


section
/-! PROOFS. The host commands of the energy block (R434, R436, R437, R439), and O46. -/

namespace Sys2Proof.Machine

section
variable {s t : State} {dt : Nat} {h : HostRef}

theorem State.complete_mem_of_noCpl (s : State) {h : HostRef} (hno : h.noCpl = true) (op r : Nat) (l : List (Nat × Nat)) :
    (s.complete h op 0 r l).io.mem = s.io.mem := by
  show (s.ioComplete _ h.noCpl).mem = _
  unfold State.ioComplete
  rw [hno]
  rfl

theorem completes_engLastGasp (hadm : Admitted s dt h 0 Op.ENG_LAST_GASP) (hgasp : s.gasping = false) (hon : s.rdBit Reg.ENG_LG_EN 0 = true)
    (hpaired : s.paired = false) (hwait : s.eng.waiting = []) :
    Completes (.engLastGasp dt h) s fun t =>
      t.rd Reg.ENG_STATE 0 = 3 ∧ t.rd Reg.ENG_LG_STAGE 0 ∈ [1, 2, 3, 4] ∧ t.eng.declCause = 1 ∧
      t.eng.ledger = (s.rd Reg.ENG_HOLDUP_MJ 0 : Rat) ∧ t.eng.ran = [t.rd Reg.ENG_LG_STAGE 0] ∧
      Answered t h Op.ENG_LAST_GASP 0 0 [] := by
  refine completes_of_admitted rfl hadm ?_
  obtain ⟨hstate, hstage, -, -, -, hcause, hledger, hran⟩ := State.declareLoss_spec (s := s.elapse dt) hgasp hon hpaired hwait 1 0
  have hnot : ¬ (s.elapse dt).gasping = true := by rw [show (s.elapse dt).gasping = false from hgasp]; decide
  have hfull : ((s.elapse dt).declareLoss 1 0).eng.ledger = (s.rd Reg.ENG_HOLDUP_MJ 0 : Rat) := by
    rw [hledger]
    unfold energyMj
    rw [mul_zero, zero_mul, zero_div, sub_zero]
    rfl
  rw [if_neg hnot]
  generalize (s.elapse dt).declareLoss 1 0 = b at *
  exact ⟨hstate, hstage, hcause, hfull, hran, State.done_answered ..⟩

theorem completes_engLastGasp_again (hadm : Admitted s dt h 0 Op.ENG_LAST_GASP) (hgasp : s.gasping = true) :
    Completes (.engLastGasp dt h) s fun t => t.eng = s.eng ∧ Answered t h Op.ENG_LAST_GASP 2 2 [] ∧ RegsOnly [] s t := by
  refine completes_of_admitted rfl hadm ?_
  rw [if_pos (show (s.elapse dt).gasping = true from hgasp)]
  exact ⟨rfl, State.refuse_answered .., RegsOnly.complete (RegsOnly.of_elapse _ s dt) _ _ _ _ _⟩

theorem completes_engPmbXfer {p : PmbXfer} (hadm : Admitted s dt h 0 Op.ENG_PMB_XFER) (hgasp : s.gasping = false) (haddr : p.addr ≤ 127)
    (hwlen : p.wlen ≤ 32) (hrlen : p.rlen ≤ 32) (hhost : p.host % 64 = 0) (herr : p.err = 0) (hgot : p.got.length = p.rlen) :
    Completes (.engPmbXfer dt h p) s fun t =>
      Answered t h Op.ENG_PMB_XFER 0 0 [(2, p.rlen)] ∧ RegsOnly [] s t ∧
      (h.noCpl = true → t.io.mem = if p.rlen = 0 then s.io.mem else memWrite s.io.mem p.host p.got) := by
  refine completes_of_admitted rfl hadm ?_
  have h1 : ¬ (decide (127 < p.addr) || decide (32 < p.wlen) || decide (32 < p.rlen) || (p.rlen != 0 && p.host % 64 != 0)) = true := by
    rw [hhost]
    simp
    omega
  have h2 : ¬ (s.elapse dt).gasping = true := by rw [show (s.elapse dt).gasping = false from hgasp]; decide
  have h3 : ¬ (p.err != 0) = true := by rw [herr]; decide
  have htake : p.got.take p.rlen = p.got := List.take_of_length_le (by omega)
  obtain ⟨b, hb⟩ : ∃ b, b = if p.rlen = 0 then s.elapse dt else (s.elapse dt).hostWrite p.host p.got := ⟨_, rfl⟩
  have hbregs : b.regs = s.regs := by
    rw [hb]
    split <;> rfl
  have hbmem : b.io.mem = if p.rlen = 0 then s.io.mem else memWrite s.io.mem p.host p.got := by
    rw [hb]
    split <;> rfl
  dsimp only
  rw [if_neg h1, if_neg h2, if_neg h3, htake, ← hb, hgot]
  refine ⟨State.complete_answered .., RegsOnly.complete (regsOnly_of_regs hbregs _) _ _ _ _ _, fun hno => ?_⟩
  rw [State.complete_mem_of_noCpl _ hno, hbmem]

theorem completes_engCrashRead {slot host : Nat} {r : CrashRec} (hadm : Admitted s dt h 0 Op.ENG_CRASH_READ) (hslot : slot ≤ 1)
    (hhost : host % 64 = 0) (hrec : tfind s.eng.slots slot = some r) :
    Completes (.engCrashRead dt h slot host) s fun t =>
      Answered t h Op.ENG_CRASH_READ 0 0 [] ∧ RegsOnly [] s t ∧ t.eng = s.eng ∧
      (h.noCpl = true → t.io.mem = memWrite s.io.mem host (bulkBytes r.msg)) := by
  refine completes_of_admitted rfl hadm ?_
  have h1 : ¬ (decide (1 < slot) || host % 64 != 0) = true := by
    rw [hhost]
    simp
    omega
  rw [if_neg h1, show tfind (s.elapse dt).eng.slots slot = some r from hrec]
  dsimp only
  generalize bulkBytes r.msg = bytes
  exact ⟨State.done_answered .., RegsOnly.done (RegsOnly.upd (RegsOnly.of_elapse _ s dt)) _ _, rfl,
    fun hno => State.done_mem_of_noCpl (State.hostWrite _ _ _) hno _⟩

theorem completes_engCrashRelease {slot : Nat} (hadm : Admitted s dt h 0 Op.ENG_CRASH_RELEASE) (hslot : slot ≤ 1) (hgasp : s.gasping = false)
    (hsorted : tsorted s.eng.slots = true) :
    Completes (.engCrashRelease dt h slot) s fun t =>
      tfind t.eng.slots slot = none ∧ (∀ k, k ≠ slot → tfind t.eng.slots k = tfind s.eng.slots k) ∧
      Answered t h Op.ENG_CRASH_RELEASE 0 0 [] ∧ RegsOnly [] s t := by
  refine completes_of_admitted rfl hadm ?_
  have h1 : ¬ 1 < slot := by omega
  have h2 : ¬ (s.elapse dt).gasping = true := by rw [show (s.elapse dt).gasping = false from hgasp]; decide
  rw [if_neg h1, if_neg h2]
  refine ⟨?_, fun k hk => ?_, State.done_answered .., RegsOnly.done (RegsOnly.upd (RegsOnly.of_elapse _ s dt)) _ _⟩
  · exact (tfind_tdel s.eng.slots slot slot hsorted).trans (if_pos rfl)
  · exact (tfind_tdel s.eng.slots slot k hsorted).trans (if_neg hk)

/-- Consecutive entries of a table set from a list, from number `n` of the list on. -/
theorem foldl_tset_points (first : Nat) : ∀ (l : List Nat) (n : Nat) (t : Tab Nat),
    (∀ k p, l[k]? = some p → tget 0 ((l.zipIdx n).foldl (fun t q => tset t (first + q.2) q.1) t) (first + (n + k)) = p) ∧
    (∀ m, m < first + n ∨ first + n + l.length ≤ m → tget 0 ((l.zipIdx n).foldl (fun t q => tset t (first + q.2) q.1) t) m = tget 0 t m)
  | [], _, _ => ⟨fun _ _ hk => by simp at hk, fun _ _ => rfl⟩
  | p :: l, n, t => by
    obtain ⟨hread, hother⟩ := foldl_tset_points first l (n + 1) (tset t (first + n) p)
    rw [List.zipIdx_cons, List.foldl_cons]
    refine ⟨fun k q hk => ?_, fun m hm => ?_⟩
    · cases k with
      | zero =>
        rw [hother _ (Or.inl (by omega)), tget_tset, if_pos (by omega)]
        exact Option.some.inj hk
      | succ k =>
        have hk' := hread k q hk
        rw [show n + 1 + k = n + (k + 1) by omega] at hk'
        exact hk'
    · rw [List.length_cons] at hm
      rw [hother m (by omega), tget_tset, if_neg (by omega)]

theorem completes_engCrashPoints {count first : Nat} {points : List Nat} (hadm : Admitted s dt h 0 Op.ENG_CRASH_POINTS) (hcount : count ≤ 256)
    (hfirst : first ≤ 255) (hgasp : s.gasping = false) (hlen : points.length ≤ 12) (hfit : first + points.length ≤ count) :
    Completes (.engCrashPoints dt h count first points) s fun t =>
      t.eng.pointCount = count ∧ (∀ k p, points[k]? = some p → tget 0 t.eng.points (first + k) = p) ∧
      (∀ n, n < first ∨ first + points.length ≤ n → tget 0 t.eng.points n = tget 0 s.eng.points n) ∧
      Answered t h Op.ENG_CRASH_POINTS 0 0 [] ∧ RegsOnly [] s t := by
  refine completes_of_admitted rfl hadm ?_
  have h1 : ¬ (decide (256 < count) || decide (255 < first)) = true := by
    simp
    omega
  have h2 : ¬ (s.elapse dt).gasping = true := by rw [show (s.elapse dt).gasping = false from hgasp]; decide
  have htake : (points.take 12).take (count - first) = points := by
    rw [List.take_of_length_le hlen, List.take_of_length_le (by omega)]
  obtain ⟨hread, hother⟩ := foldl_tset_points first points 0 s.eng.points
  dsimp only
  rw [if_neg h1, if_neg h2, htake]
  refine ⟨rfl, fun k p hk => ?_, fun n hn => ?_, State.done_answered .., RegsOnly.done (RegsOnly.upd (RegsOnly.of_elapse _ s dt)) _ _⟩
  · have hk' := hread k p hk
    rw [Nat.zero_add] at hk'
    exact hk'
  · exact hother n (by omega)

end

/-- Settles O46, clause by clause. -/
theorem energyCommandsTakeEffect : Obligations.EnergyCommandsTakeEffect := by
  unfold Obligations.EnergyCommandsTakeEffect
  intro s dt h
  exact ⟨completes_engLastGasp, completes_engLastGasp_again, fun _ => completes_engPmbXfer, fun _ _ _ => completes_engCrashRead,
    fun _ => completes_engCrashRelease,
    fun _ _ _ hadm hcount hfirst hgasp hlen hfit _ => completes_engCrashPoints hadm hcount hfirst hgasp hlen hfit⟩

end Sys2Proof.Machine
end


section
/-! PROOFS. The host interface's reset (R445), and O47. -/

namespace Sys2Proof.Machine

/-- An intent whose fields do not matter. -/
def heldIntent : Intent :=
  { id := 9, client := 0, container := 0, count := 0, proc := 0, sealing := 0, key := 0, prot := 0, shed := 0, nts := 0, rate := 0,
    srcA := {}, srcB := {}, dstA := {}, dstB := {} }

/-- Slice 0 in reset; context 5 waits to move onto it, and the withdrawal of the pending intent 9 is held for that context. -/
def moveWaitsOnReset : State :=
  let s := State.reset.wr Reg.RST_ACTIVE 0 8
  { s with ovm := { s.ovm with
      ctxs := [(5, { intent := 1, kind := 0 })], moveWaits := [{ ctx := 5, reason := 0, place := {} }],
      held := [(5, .withdraw {} 9)], intents := [(9, { params := heldIntent, state := 0, host := {} })] } }

/-- The code of the newest event after a step. -/
def newestCode : Host.Outcome State Fault Refusal → Option Nat
  | .next t => t.io.evlog.head?.map (·.code)
  | _ => none

/-- Refutes O47: the entry of the HIF domain into reset need not be the newest event. Here a move that waits, toward a slice in reset,
is abandoned with it (R583), and the withdrawal held for the move's context then raises OVM_REFUSED. -/
theorem not_hostInterfaceEventsTakeEffect : ¬ Obligations.HostInterfaceEventsTakeEffect := by
  unfold Obligations.HostInterfaceEventsTakeEffect
  intro h
  obtain ⟨-, -, -, -, -, -, -, -, -, -, -, -, -, -, -, -, hreset⟩ := h moveWaitsOnReset 0
  obtain ⟨t, ht, -, -, -, -, -, -, -, r, hr, hcode, -, -⟩ := hreset (by decide +kernel) rfl
  have hnewest : newestCode (exec (.hifDomainReset 0) moveWaitsOnReset) = some Ev.OVM_REFUSED := by decide +kernel
  rw [ht] at hnewest
  have hentered : newestCode (.next t) = some Ev.RESET_ENTERED := by
    show t.io.evlog.head?.map (·.code) = _
    rw [hr, Option.map_some, hcode]
  exact absurd (hentered.symm.trans hnewest) (by decide)

end Sys2Proof.Machine
end


section
/-! PROOFS. The commands of the host interface (Table 14-14, R465, R468, R469), and O48. -/

namespace Sys2Proof.Machine

section
variable {s t : State} {dt : Nat} {h : HostRef}

theorem completes_hifNop {value : Nat} (hadm : Admitted s dt h domHif Op.HIF_NOP) :
    Completes (.hifNop dt h value) s fun t => Answered t h Op.HIF_NOP 0 0 [(8, value)] ∧ t.io.evlog = s.io.evlog ∧ RegsOnly [] s t := by
  refine completes_of_admitted rfl hadm ⟨State.complete_answered .., ?_, RegsOnly.complete (RegsOnly.of_elapse _ s dt) _ _ _ _ _⟩
  rw [State.complete_evlog]
  rfl

/-! ### Data queues -/

theorem completes_hifDqBind {p : DqBind} {x : QSt} (hadm : Admitted s dt h domHif Op.HIF_DQ_BIND) (hd : p.d ≤ 8191) (hdir : p.dir ≤ 1)
    (hsmall : 6 ≤ p.size) (hlarge : p.size ≤ 16) (hbase : p.base % 4096 = 0) (hevq : p.evq ≤ 31 ∨ p.evq = 0xFF)
    (hqueue : s.queue p.q = some x) (hfree : tfind s.qmg.dqs p.d = none) (hbound : s.boundTo p.q = none)
    (hside : (if p.dir = 0 then x.reader else x.writer) = 0) :
    Completes (.hifDqBind dt h p) s fun t =>
      tfind t.qmg.dqs p.d = some { q := p.q, toHost := p.dir == 0, size := p.size, base := p.base, evq := p.evq, thr := p.thr } ∧
      t.queue p.q = some (if p.dir = 0 then { x with reader := 7 } else { x with writer := 7 }) ∧
      (∀ q, q ≠ p.q → t.queue q = s.queue q) ∧ (∀ k, k ≠ p.d → tfind t.qmg.dqs k = tfind s.qmg.dqs k) ∧
      Answered t h Op.HIF_DQ_BIND 0 0 [] ∧ RegsOnly [] s t := by
  refine completes_of_admitted rfl hadm ?_
  obtain ⟨a, ha⟩ : ∃ a, a = s.elapse dt := ⟨_, rfl⟩
  have hqueueA : a.queue p.q = some x := by rw [ha]; exact hqueue
  have hfreeA : tfind a.qmg.dqs p.d = none := by rw [ha]; exact hfree
  have hboundA : a.boundTo p.q = none := by rw [ha]; exact hbound
  have hranges : ¬ (decide (8191 < p.d) || decide (1 < p.dir) || decide (p.size < 6) || decide (16 < p.size) || p.base % 4096 != 0 ||
      (decide (31 < p.evq) && p.evq != 0xFF)) = true := by
    rw [hbase]
    simp
    omega
  have hside' : (if (p.dir == 0) = true then x.reader else x.writer) = 0 := by
    simp only [beq_iff_eq]
    exact hside
  have hnew : ¬ (tfind a.qmg.dqs p.d).isSome = true := by rw [hfreeA]; decide
  have hbusy : ¬ ((a.boundTo p.q).isSome || (if (p.dir == 0) = true then x.reader else x.writer) != 0) = true := by
    rw [hboundA, hside']
    decide
  obtain ⟨y, hy⟩ : ∃ y : QSt, y = if p.dir = 0 then { x with reader := 7 } else { x with writer := 7 } := ⟨_, rfl⟩
  obtain ⟨d, hdq⟩ : ∃ d : DqSt, d = { q := p.q, toHost := p.dir == 0, size := p.size, base := p.base, evq := p.evq, thr := p.thr } := ⟨_, rfl⟩
  have hy' : (if (p.dir == 0) = true then { x with reader := 7 } else { x with writer := 7 }) = y := by
    rw [hy]
    simp only [beq_iff_eq]
  obtain ⟨b, hb⟩ : ∃ b, b = (a.setQueue p.q y).setDq p.d d := ⟨_, rfl⟩
  have hbqs : b.qmg.qs = tset s.qmg.qs p.q y := by
    rw [hb, ha]
    rfl
  have hbdqs : b.qmg.dqs = tset s.qmg.dqs p.d d := by
    rw [hb, ha]
    rfl
  have hbregs : b.regs = s.regs := by
    rw [hb, ha]
    rfl
  rw [← ha, if_neg hranges, hqueueA]
  dsimp only
  rw [if_neg hnew, if_neg hbusy, hy', ← hdq, ← hb, ← hy]
  refine ⟨?_, ?_, fun q hq => ?_, fun k hk => ?_, State.done_answered .., RegsOnly.done (regsOnly_of_regs hbregs _) _ _⟩
  · show tfind b.qmg.dqs p.d = some d
    rw [hbdqs]
    exact tfind_tset_same ..
  · show tfind b.qmg.qs p.q = some y
    rw [hbqs]
    exact tfind_tset_same ..
  · show tfind b.qmg.qs q = tfind s.qmg.qs q
    rw [hbqs]
    exact tfind_tset_other _ _ _ _ hq
  · show tfind b.qmg.dqs k = tfind s.qmg.dqs k
    rw [hbdqs]
    exact tfind_tset_other _ _ _ _ hk

theorem completes_hifDqBind_range {p : DqBind} (hadm : Admitted s dt h domHif Op.HIF_DQ_BIND) (hd : 8191 < p.d) :
    Completes (.hifDqBind dt h p) s fun t => t.qmg = s.qmg ∧ Answered t h Op.HIF_DQ_BIND 3 9 [] ∧ RegsOnly [] s t := by
  refine completes_of_admitted rfl hadm ?_
  rw [if_pos (by simp [hd])]
  exact ⟨rfl, State.reject_answered .., RegsOnly.complete (RegsOnly.of_elapse _ s dt) _ _ _ _ _⟩

theorem completes_hifDqUnbind {d : Nat} {x : DqSt} {y : QSt} (hadm : Admitted s dt h domHif Op.HIF_DQ_UNBIND)
    (hfirst : s.io.unbound ≠ some (d, (s.elapse dt).addr)) (hsorted : tsorted s.qmg.dqs = true) (hdq : tfind s.qmg.dqs d = some x)
    (hqueue : s.queue x.q = some y) :
    Completes (.hifDqUnbind dt h d) s fun t =>
      tfind t.qmg.dqs d = none ∧ t.queue x.q = some (if x.toHost then { y with reader := 0 } else { y with writer := 0 }) ∧
      (s.halted = false → t.addr = nextCycle (s.addr + dt)) ∧ Answered t h Op.HIF_DQ_UNBIND 0 0 [] ∧ RegsOnly [] s t := by
  refine completes_of_admitted rfl hadm ?_
  obtain ⟨a, ha⟩ : ∃ a, a = s.elapse dt := ⟨_, rfl⟩
  obtain ⟨b, hb⟩ : ∃ b, b = a.waitAddr (nextCycle a.addr) := ⟨_, rfl⟩
  have hbqmg : b.qmg = s.qmg := by
    rw [hb, State.waitAddr_qmg, ha]
    rfl
  have hregs : b.regs = s.regs := by
    rw [hb, State.waitAddr_regs, ha]
    rfl
  have hunbind : b.unbind d = ({ b with qmg := { b.qmg with dqs := tdel b.qmg.dqs d } } : State).setQueue x.q
      (if x.toHost then { y with reader := 0 } else { y with writer := 0 }) := by
    have h1 : tfind b.qmg.dqs d = some x := by rw [hbqmg]; exact hdq
    have h2 : ({ b with qmg := { b.qmg with dqs := tdel b.qmg.dqs d } } : State).queue x.q = some y := by
      show tfind b.qmg.qs x.q = some y
      rw [hbqmg]
      exact hqueue
    unfold State.unbind
    rw [h1]
    dsimp only
    rw [h2]
  have hother : ¬ a.io.unbound = some (d, a.addr) := by rw [ha]; exact hfirst
  have hsome : ¬ (tfind a.qmg.dqs d).isNone = true := by rw [ha, show tfind (s.elapse dt).qmg.dqs d = some x from hdq]; exact Bool.false_ne_true
  rw [← ha, if_neg hother, if_neg hsome]
  dsimp only
  rw [← hb, hunbind]
  refine ⟨?_, tfind_tset_same .., fun hrun => ?_, State.done_answered .., RegsOnly.done (RegsOnly.upd (regsOnly_of_regs hregs _)) _ _⟩
  · show tfind (tdel b.qmg.dqs d) d = none
    rw [hbqmg]
    exact (tfind_tdel _ _ _ hsorted).trans (if_pos rfl)
  · have haddr : a.addr = s.addr + dt := by rw [ha]; exact State.addr_elapse hrun dt
    show b.addr = _
    rw [hb, State.waitAddr_addr a _ (by rw [ha]; exact hrun), haddr]
    refine max_eq_right ?_
    unfold nextCycle
    have h1 := Nat.div_add_mod (s.addr + dt) Config.cyclePos
    have h2 := Nat.mod_lt (s.addr + dt) (show 0 < Config.cyclePos by decide)
    rw [Nat.mul_comm] at h1
    rw [Nat.add_mul, Nat.one_mul]
    omega

/-! ### Severities -/

theorem State.cplPut_sev (s : State) (io : IoSt) (c : CplRec) : (s.cplPut io c).sev = io.sev := by
  have hlap (io : IoSt) (f : Fld) (i v : Nat) : (io.lap f i v).sev = io.sev := IoSt.ite_field _ rfl rfl
  have hsend (io : IoSt) (v : Nat) : (io.sendMsg v).sev = io.sev := IoSt.ite_field _ rfl rfl
  unfold State.cplPut
  extract_lets q p size base io1 io2
  exact IoSt.ite_field _ (IoSt.ite_field _ (IoSt.ite_field _ ((hsend _ _).trans (hlap ..)) (hlap ..)) (hlap ..)) rfl

theorem State.done_severity (s : State) (h : HostRef) (op c : Nat) : (s.done h op).severity c = s.severity c := by
  have hsev : (s.done h op).io.sev = s.io.sev := by
    show (s.ioComplete _ _).sev = _
    unfold State.ioComplete
    extract_lets mine src io
    exact IoSt.ite_field _ rfl (IoSt.ite_field _ (State.cplPut_sev ..) rfl)
  unfold State.severity
  rw [hsev]

/-- Levels set for consecutive codes, those left out that `good` does not hold of. -/
theorem foldl_sev (first : Nat) (good : Nat → Bool) (c : Nat) : ∀ (l : List Nat) (n : Nat) (t : Tab Nat),
    tget 2 ((((l.zipIdx n).map (fun e => (first + e.2, e.1 % 16))).filter (fun e => good e.1)).foldl (fun t e => tset t e.1 e.2) t) c =
      if first + n ≤ c ∧ c < first + n + l.length ∧ good c = true then l.getD (c - (first + n)) 0 % 16 else tget 2 t c
  | [], n, t => by
    rw [if_neg (by rw [List.length_nil]; omega)]
    rfl
  | v :: l, n, t => by
    rw [List.zipIdx_cons, List.map_cons, List.length_cons]
    by_cases hgood : good (first + n) = true
    · rw [List.filter_cons_of_pos (by exact hgood), List.foldl_cons, foldl_sev first good c l (n + 1), tget_tset]
      by_cases hc : c = first + n
      · subst hc
        rw [if_neg (by omega), if_pos rfl, if_pos ⟨le_refl _, by omega, hgood⟩, Nat.sub_self]
        rfl
      · rw [if_neg hc]
        by_cases hin : first + (n + 1) ≤ c ∧ c < first + (n + 1) + l.length ∧ good c = true
        · rw [if_pos hin, if_pos ⟨by omega, by omega, hin.2.2⟩, show c - (first + n) = c - (first + (n + 1)) + 1 by omega, List.getD_cons_succ]
        · rw [if_neg hin, if_neg (fun h => hin ⟨by omega, by omega, h.2.2⟩)]
    · rw [List.filter_cons_of_neg (by exact hgood), foldl_sev first good c l (n + 1)]
      have hc (hg : good c = true) : c ≠ first + n := fun heq => hgood (heq ▸ hg)
      by_cases hin : first + (n + 1) ≤ c ∧ c < first + (n + 1) + l.length ∧ good c = true
      · rw [if_pos hin, if_pos ⟨by omega, by omega, hin.2.2⟩, show c - (first + n) = c - (first + (n + 1)) + 1 by omega, List.getD_cons_succ]
      · rw [if_neg hin, if_neg (fun h => hin ⟨by have := hc h.2.2; omega, by omega, h.2.2⟩)]

theorem completes_hifSevSet {first count : Nat} {levels : List Nat} (hadm : Admitted s dt h domHif Op.HIF_SEV_SET) (hone : 1 ≤ count)
    (hmost : count ≤ 96) (hlen : count ≤ levels.length) (hlevels : ∀ v ∈ levels, v ≤ 3) :
    Completes (.hifSevSet dt h first count levels) s fun t =>
      (∀ c, t.severity c =
        if first ≤ c ∧ c < first + count ∧ c ∈ Ev.all ∧ c ∉ fixedCritical then levels.getD (c - first) 0 else s.severity c) ∧
      Answered t h Op.HIF_SEV_SET 0 0 [] ∧ RegsOnly [] s t := by
  refine completes_of_admitted rfl hadm ?_
  obtain ⟨a, ha⟩ : ∃ a, a = s.elapse dt := ⟨_, rfl⟩
  have hsev : a.io.sev = s.io.sev := by rw [ha]; rfl
  have hregs : a.regs = s.regs := by rw [ha]; rfl
  obtain ⟨good, hgood⟩ : ∃ g : Nat → Bool, g = fun c => Ev.all.contains c && !fixedCritical.contains c := ⟨_, rfl⟩
  obtain ⟨l, hl⟩ : ∃ l, l = ((levels.take count).zipIdx.map (fun e => (first + e.2, e.1 % 16))).filter (fun e => good e.1) := ⟨_, rfl⟩
  have hread := foldl_sev first good
  have hsmall : l.any (fun e => decide (3 < e.2)) = false := by
    rw [List.any_eq_false, hl]
    intro e he
    obtain ⟨x, hx, rfl⟩ := List.mem_map.1 (List.mem_of_mem_filter he)
    have hv : x.1 ≤ 3 := hlevels _ (List.mem_of_mem_take (List.fst_mem_of_mem_zipIdx hx))
    simp
    omega
  have hgo : ¬ (decide (count = 0) || decide (96 < count) || l.any (fun e => decide (3 < e.2))) = true := by
    rw [hsmall]
    simp
    omega
  have hlist : ((levels.take count).zipIdx.map (fun e => (first + e.2, e.1 % 16))).filter (fun e =>
      Ev.all.contains e.1 && !fixedCritical.contains e.1) = l := by rw [hl, hgood]
  dsimp only
  rw [← ha, hlist, if_neg hgo]
  refine ⟨fun c => ?_, State.done_answered .., RegsOnly.done (RegsOnly.upd (regsOnly_of_regs hregs _)) _ _⟩
  have hc := hread c (levels.take count) 0 a.io.sev
  rw [← hl, Nat.add_zero, List.length_take, min_eq_left hlen] at hc
  rw [State.done_severity]
  unfold State.severity
  dsimp only
  rw [hc, hsev]
  by_cases hfix : c ∈ fixedCritical
  · have hfix' : fixedCritical.contains c = true := by simpa using hfix
    rw [if_pos hfix', if_pos hfix', if_neg (fun hin => hin.2.2.2 hfix)]
  · have hfix' : ¬ fixedCritical.contains c = true := by simpa using hfix
    have hgoodc : good c = true ↔ c ∈ Ev.all := by
      rw [hgood]
      simp [hfix]
    rw [if_neg hfix', if_neg hfix']
    by_cases hin : first ≤ c ∧ c < first + count ∧ c ∈ Ev.all
    · obtain ⟨hlo, hhi, hall⟩ := hin
      have hget : (levels.take count).getD (c - first) 0 = levels.getD (c - first) 0 := by
        rw [List.getD_eq_getElem?_getD, List.getD_eq_getElem?_getD, List.getElem?_take_of_lt (by omega)]
      have hsmallc : levels.getD (c - first) 0 ≤ 3 := by
        rw [List.getD_eq_getElem _ _ (by omega)]
        exact hlevels _ (List.getElem_mem _)
      rw [if_pos ⟨hlo, hhi, hgoodc.2 hall⟩, if_pos ⟨hlo, hhi, hall, hfix⟩, hget]
      omega
    · rw [if_neg (fun h => hin ⟨h.1, h.2.1, hgoodc.1 h.2.2⟩), if_neg (fun h => hin ⟨h.1, h.2.1, h.2.2.1⟩)]

theorem completes_hifEvqTest {evq sev : Nat} (hadm : Admitted s dt h domHif Op.HIF_EVQ_TEST) (hevq : evq ≤ 31) (hsev : sev ≤ 3) :
    Completes (.hifEvqTest dt h evq sev) s fun t =>
      (∃ r, t.io.evlog.head? = some r ∧ r.code = Ev.HIF_TEST ∧ r.src = srcDevice ∧ r.sev = sev ∧ r.caused = true ∧
        r.detail = packItems [(1, sev)]) ∧
      Answered t h Op.HIF_EVQ_TEST 0 0 [] ∧ RegsOnly [] s t := by
  refine completes_of_admitted rfl hadm ?_
  have hgo : ¬ (decide (31 < evq) || decide (3 < sev)) = true := by
    simp
    omega
  rw [if_neg hgo]
  refine ⟨⟨{ (s.elapse dt).evRec Ev.HIF_TEST srcDevice [(1, sev)] false true with sev := sev }, ?_, rfl, rfl, rfl, rfl, rfl⟩,
    State.done_answered .., RegsOnly.done (RegsOnly.upd (RegsOnly.of_elapse _ s dt)) _ _⟩
  refine (congrArg List.head? (State.complete_evlog ..)).trans ?_
  show (State.ioRaise _ _ _).evlog.head? = _
  rw [State.ioRaise_evlog]
  rfl

end

/-- Settles O48, clause by clause. -/
theorem hostInterfaceCommandsTakeEffect : Obligations.HostInterfaceCommandsTakeEffect := by
  unfold Obligations.HostInterfaceCommandsTakeEffect
  intro s dt h
  exact ⟨fun _ => completes_hifNop, fun _ _ => completes_hifDqBind, fun _ => completes_hifDqBind_range, fun _ _ _ => completes_hifDqUnbind,
    fun _ _ _ => completes_hifSevSet, fun _ _ => completes_hifEvqTest⟩

end Sys2Proof.Machine
end


section
/-! PROOFS. What writes to and reads from a queue leave in it: the judging of its depth, a word written, a drop; O49. -/

namespace Sys2Proof.Machine

/-! ### The queue table -/

theorem State.setQueue_queue_other (s : State) (n : Nat) (q : QSt) {k : Nat} (h : k ≠ n) : (s.setQueue n q).queue k = s.queue k :=
  tfind_tset_other _ _ _ _ h

@[simp] theorem State.setQueue_dqs (s : State) (n : Nat) (q : QSt) : (s.setQueue n q).qmg.dqs = s.qmg.dqs := rfl

/-- The word just written at a pointer is the one read there. -/
@[simp] theorem QSt.word_setWord (q : QSt) (p : Nat) (w : QWord) : (q.setWord p w).word p = w := by
  show tget _ (tset q.slots (p % q.size) w) (p % q.size) = w
  rw [tget_tset, if_pos rfl]

/-- Equal queue parts hold equal queues. -/
theorem State.queue_of_qmg {s t : State} (h : t.qmg = s.qmg) (k : Nat) : t.queue k = s.queue k := congrArg (fun m : QmgSt => tfind m.qs k) h

/-! ### The judging of a queue (R486) -/

/-- Judging a queue changes three of its flags and no other part of it. -/
theorem State.judgeQueue_flags {s : State} {n : Nat} {q : QSt} (h : s.queue n = some q) :
    ∃ hi fu sa, (s.judgeQueue n).qmg = (s.setQueue n { q with isHigh := hi, isFull := fu, fullSaid := sa }).qmg := by
  unfold State.judgeQueue State.raiseIf
  rw [h]
  dsimp only
  split <;> split <;> split <;> exact ⟨_, _, _, rfl⟩

theorem State.judgeQueue_regs (s : State) (n : Nat) : RegsOnly [(Reg.TST_PERTURB_CNT, 0)] s (s.judgeQueue n) := by
  unfold State.judgeQueue
  split
  · exact RegsOnly.refl _ _
  · refine RegsOnly.raiseIf (RegsOnly.raiseIf (RegsOnly.ite (RegsOnly.count ?_ (by simp)) ?_) _ _ _ _) _ _ _ _ <;>
      exact (RegsOnly.refl _ s).setQueue _ _

/-- A queue below its threshold that no test presses on says nothing. -/
theorem State.judgeQueue_quiet {s : State} {n : Nat} {q : QSt} (h : s.queue n = some q) (hh : q.isHigh = false)
    (hp : s.pressed n = false) (hd : q.depth < q.high) (hf : q.depth ≠ q.size) : (s.judgeQueue n).io = s.io := by
  have hlow : ¬ q.high ≤ q.depth := Nat.not_le.mpr hd
  have hfull : (q.depth == q.size) = false := beq_eq_false_iff_ne.mpr hf
  unfold State.judgeQueue
  rw [h]
  simp [hh, hp, hlow, hfull, State.raiseIf]

/-- What a judged queue holds, and that the others and the data queues stand. -/
theorem State.judgeQueue_queue {s : State} {n : Nat} {q : QSt} (h : s.queue n = some q) :
    (∃ hi fu sa, (s.judgeQueue n).queue n = some { q with isHigh := hi, isFull := fu, fullSaid := sa }) ∧
      (∀ k, k ≠ n → (s.judgeQueue n).queue k = s.queue k) ∧ (s.judgeQueue n).qmg.dqs = s.qmg.dqs := by
  obtain ⟨hi, fu, sa, hq⟩ := State.judgeQueue_flags h
  refine ⟨⟨hi, fu, sa, (State.queue_of_qmg hq n).trans (State.setQueue_queue_same ..)⟩, fun k hk => ?_, ?_⟩
  · exact (State.queue_of_qmg hq k).trans (State.setQueue_queue_other _ _ _ hk)
  · exact (congrArg QmgSt.dqs hq).trans rfl

/-! ### A new word, and a drop -/

/-- A word written to a queue with no mark goes to the write pointer. -/
theorem State.newWord_stores {s : State} {n : Nat} {q : QSt} (h : s.queue n = some q) (hm : q.mark = none) (hd : q.depth ≠ q.size)
    (w : QWord) : s.newWord n w = some (s.setQueue n (q.written w)) := by
  unfold State.newWord
  rw [h]
  dsimp only
  rw [if_neg hd, hm]
  rfl

/-- A full queue takes no word. -/
theorem State.newWord_full {s : State} {n : Nat} {q : QSt} (h : s.queue n = some q) (hd : q.depth = q.size) (w : QWord) :
    s.newWord n w = none := by
  unfold State.newWord
  rw [h]
  exact if_pos hd

/-- The first drop of a queue opens a window and is counted. -/
theorem State.dropOne_first {s : State} {n : Nat} {q : QSt} (h : s.queue n = some q) (hw : q.window = none) :
    s.dropOne n = (s.setQueue n { q with drops := min (q.drops + 1) (2 ^ 32 - 1), window := some (s.time, 1) }).count
      Reg.QMG_DROP_CNT 0 := by
  have hq : tget q s.qmg.qs n = q := by show (s.queue n).getD q = q; rw [h]; rfl
  unfold State.dropOne
  rw [h]
  simp only [hw, hq]

/-! ### Records -/

/-- A record written to a queue with no open word starts one. -/
theorem State.writeRecord_opens {s : State} {n : Nat} {q : QSt} (h : s.queue n = some q) (ho : q.openAt = none) (hm : q.mark = none)
    (hd : q.depth ≠ q.size) {bytes : List Nat} (hl : bytes.length < 64) :
    s.writeRecord n bytes q =
      (s.setQueue n (q.written { data := bytes })).setQueue n { q.written { data := bytes } with openAt := some s.cycle } := by
  have hne : ¬ bytes.length = 64 := by omega
  unfold State.writeRecord
  rw [ho, State.newWord_stores h hm hd]
  simp only [State.setQueue_queue_same, if_neg hne]
  rfl

/-- A record written to a full queue with no open word is dropped. -/
theorem State.writeRecord_drops {s : State} {n : Nat} {q : QSt} (h : s.queue n = some q) (ho : q.openAt = none)
    (hd : q.depth = q.size) (bytes : List Nat) : s.writeRecord n bytes q = s.dropOne n := by
  unfold State.writeRecord
  rw [ho, State.newWord_full h hd]
  rfl

/-- A narrow write of a record is stored and the queue judged. -/
theorem State.writeQueue_record {s : State} {n : Nat} {q : QSt} (h : s.queue n = some q) (hr : q.resetting = false)
    (hp : q.packet = false) {w : QWrite} (hw : w.wide = false) : s.writeQueue n w = (s.writeRecord n w.bytes q).judgeQueue n := by
  unfold State.writeQueue
  rw [h]
  simp only [hr, hp, hw, Bool.false_eq_true, if_false]

/-! ### QUEUE_PUSH -/

section
variable {s : State} {dt q : Nat} {x : QSt} {w : QWrite}

/-- A writer that is not held back, of a queue that no data queue feeds, writes it. -/
theorem exec_queuePush (hq : s.queue q = some x) (hh : x.heldBack = false) (hb : s.boundTo q = none) :
    exec (.queuePush dt q w) s =
      .next (((s.elapse dt).setQueue q { x with writer := if x.writer = 0 then 4 else x.writer }).writeQueue q w) := by
  have hq' : (s.elapse dt).queue q = some x := hq
  have hb' : (s.elapse dt).boundTo q = none := hb
  show execQueuePush dt q w s = _
  unfold execQueuePush
  dsimp only
  rw [hq']
  simp only [hh, hb', Bool.false_eq_true, if_false]

theorem completes_queuePush_stores (hq : s.queue q = some x) (hr : x.resetting = false) (hh : x.heldBack = false)
    (hb : s.boundTo q = none) (hp : x.packet = false) (hw : w.wide = false) (ho : x.openAt = none) (hm : x.mark = none)
    (hd : x.depth ≠ x.size) (hl : w.bytes.length < 64) :
    Completes (.queuePush dt q w) s fun t =>
      (∃ y, t.queue q = some y ∧ y.wp = x.after x.wp ∧ y.rp = x.rp ∧ y.word x.wp = { data := w.bytes } ∧
        y.openAt = some (s.elapse dt).cycle ∧ y.drops = x.drops ∧ y.writer = (if x.writer = 0 then 4 else x.writer)) ∧
      (∀ k, k ≠ q → t.queue k = s.queue k) ∧ RegsOnly [(Reg.TST_PERTURB_CNT, 0)] s t := by
  refine ⟨_, exec_queuePush hq hh hb, ?_⟩
  obtain ⟨x1, hx1⟩ : ∃ x1 : QSt, x1 = { x with writer := if x.writer = 0 then 4 else x.writer } := ⟨_, rfl⟩
  rw [← hx1]
  have hset : ((s.elapse dt).setQueue q x1).queue q = some x1 := State.setQueue_queue_same ..
  have hdep : x1.depth ≠ x1.size := by rw [hx1]; exact hd
  rw [State.writeQueue_record hset (by rw [hx1]; exact hr) (by rw [hx1]; exact hp) hw,
    State.writeRecord_opens hset (by rw [hx1]; exact ho) (by rw [hx1]; exact hm) hdep hl]
  obtain ⟨⟨hi, fu, sa, hy⟩, hoth, -⟩ := State.judgeQueue_queue (State.setQueue_queue_same
    (((s.elapse dt).setQueue q x1).setQueue q (x1.written { data := w.bytes })) q
    { x1.written { data := w.bytes } with openAt := some ((s.elapse dt).setQueue q x1).cycle })
  refine ⟨⟨_, hy, by rw [hx1]; rfl, by rw [hx1]; rfl, ?_, rfl, by rw [hx1]; rfl, by rw [hx1]; rfl⟩, fun k hk => ?_, ?_⟩
  · have hwp : x1.wp = x.wp := by rw [hx1]
    rw [← hwp]
    exact QSt.word_setWord x1 x1.wp _
  · refine (hoth k hk).trans ?_
    rw [State.setQueue_queue_other _ _ _ hk, State.setQueue_queue_other _ _ _ hk, State.setQueue_queue_other _ _ _ hk]
    rfl
  · exact ((RegsOnly.refl _ s).of_regs rfl).trans (State.judgeQueue_regs _ q)

theorem completes_queuePush_drops (hq : s.queue q = some x) (hr : x.resetting = false) (hh : x.heldBack = false)
    (hb : s.boundTo q = none) (hp : x.packet = false) (hw : w.wide = false) (ho : x.openAt = none) (hd : x.depth = x.size)
    (hwin : x.window = none) :
    Completes (.queuePush dt q w) s fun t =>
      (∃ y, t.queue q = some y ∧ y.wp = x.wp ∧ y.rp = x.rp ∧ y.slots = x.slots ∧ y.drops = min (x.drops + 1) (2 ^ 32 - 1) ∧
        y.window = some (s.time + dt, 1)) ∧
      t.rd Reg.QMG_DROP_CNT 0 = (s.rd Reg.QMG_DROP_CNT 0 + 1) % 2 ^ 32 ∧
      RegsOnly [(Reg.QMG_DROP_CNT, 0), (Reg.TST_PERTURB_CNT, 0)] s t := by
  refine ⟨_, exec_queuePush hq hh hb, ?_⟩
  obtain ⟨x1, hx1⟩ : ∃ x1 : QSt, x1 = { x with writer := if x.writer = 0 then 4 else x.writer } := ⟨_, rfl⟩
  rw [← hx1]
  have hset : ((s.elapse dt).setQueue q x1).queue q = some x1 := State.setQueue_queue_same ..
  rw [State.writeQueue_record hset (by rw [hx1]; exact hr) (by rw [hx1]; exact hp) hw,
    State.writeRecord_drops hset (by rw [hx1]; exact ho) (by rw [hx1]; exact hd),
    State.dropOne_first hset (by rw [hx1]; exact hwin)]
  obtain ⟨a, ha⟩ : ∃ a, a = ((s.elapse dt).setQueue q x1).setQueue q
    { x1 with drops := min (x1.drops + 1) (2 ^ 32 - 1), window := some (((s.elapse dt).setQueue q x1).time, 1) } := ⟨_, rfl⟩
  rw [← ha]
  have hqa : (a.count Reg.QMG_DROP_CNT 0).queue q = some
      { x1 with drops := min (x1.drops + 1) (2 ^ 32 - 1), window := some (((s.elapse dt).setQueue q x1).time, 1) } := by
    rw [ha]; exact State.setQueue_queue_same ..
  have hrega : ∀ f i, a.rd f i = s.rd f i := fun f i => by rw [ha]; rfl
  have hjudge := State.judgeQueue_regs (a.count Reg.QMG_DROP_CNT 0) q
  obtain ⟨⟨hi, fu, sa, hy⟩, -, -⟩ := State.judgeQueue_queue hqa
  refine ⟨⟨_, hy, by rw [hx1], by rw [hx1], by rw [hx1], by rw [hx1], rfl⟩, ?_, ?_⟩
  · rw [hjudge _ _ (by decide), State.count_rd_same', hrega]
    rfl
  · exact (RegsOnly.count (fun f i _ => hrega f i) (by simp)).trans (hjudge.mono (by simp))

theorem completes_queuePush_heldBack (hq : s.queue q = some x) (hh : x.heldBack = true) :
    Completes (.queuePush dt q w) s fun t => t.qmg = s.qmg ∧ t.io = s.io ∧ RegsOnly [] s t := by
  have hq' : (s.elapse dt).queue q = some x := hq
  refine ⟨s.elapse dt, ?_, rfl, rfl, RegsOnly.refl _ _⟩
  show execQueuePush dt q w s = _
  unfold execQueuePush
  dsimp only
  rw [hq']
  exact congrArg Host.Outcome.next (if_pos hh)

/-! ### QUEUE_POP -/

/-- A queue that no data queue empties is read where the round robin serves it. -/
theorem exec_queuePop_served {a : State} (hq : s.queue q = some x) (hr : x.resetting = false) (hn : x.readable ≠ 0)
    (hb : s.boundTo q = none) (ha : (s.elapse dt).drrServe q = some a) :
    exec (.queuePop dt q) s = .next (((a.sendFlow q x).setQueue q
      { x with rp := x.after x.rp, reader := if x.reader = 0 then 4 else x.reader }).judgeQueue q) := by
  have hq' : (s.elapse dt).queue q = some x := hq
  have hb' : (s.elapse dt).boundTo q = none := hb
  have hgo : ¬ (decide (x.readable = 0) || x.resetting) = true := by simp [hn, hr]
  show execQueuePop dt q s = _
  unfold execQueuePop
  dsimp only
  rw [hq']
  dsimp only
  rw [if_neg hgo, hb', ha]

theorem completes_queuePop_served (hq : s.queue q = some x) (hr : x.resetting = false) (hn : x.readable ≠ 0)
    (hb : s.boundTo q = none) (hd : ((s.elapse dt).drrServe q).isSome = true) :
    Completes (.queuePop dt q) s fun t =>
      (∃ y, t.queue q = some y ∧ y.rp = x.after x.rp ∧ y.wp = x.wp ∧ y.slots = x.slots ∧ y.mark = x.mark) ∧
      (∀ k, k ≠ q → t.queue k = s.queue k) ∧ RegsOnly [(Reg.TST_PERTURB_CNT, 0)] s t := by
  obtain ⟨a, ha⟩ := Option.isSome_iff_exists.mp hd
  have hqmg : (a.sendFlow q x).qmg = s.qmg :=
    State.sendFlow_frame (pt := .qmg) (by decide) (State.drrServe_frame (pt := .qmg) (base := s) (s := s.elapse dt) (by decide) rfl ha)
  have hregs : (a.sendFlow q x).regs = s.regs :=
    State.sendFlow_frame (pt := .regs) (by decide) (State.drrServe_frame (pt := .regs) (base := s) (s := s.elapse dt) (by decide) rfl ha)
  refine ⟨_, exec_queuePop_served hq hr hn hb ha, ?_⟩
  obtain ⟨⟨hi, fu, sa, hy⟩, hoth, -⟩ := State.judgeQueue_queue (State.setQueue_queue_same (a.sendFlow q x) q
    { x with rp := x.after x.rp, reader := if x.reader = 0 then 4 else x.reader })
  refine ⟨⟨_, hy, rfl, rfl, rfl, rfl⟩, fun k hk => ?_, ?_⟩
  · exact (hoth k hk).trans ((State.setQueue_queue_other _ _ _ hk).trans (State.queue_of_qmg hqmg k))
  · exact (((RegsOnly.refl _ s).of_regs hregs).setQueue _ _).trans (State.judgeQueue_regs _ q)

/-- Another queue's turn stands: nothing is read. -/
theorem completes_queuePop_passed (hq : s.queue q = some x) (hb : s.boundTo q = none) (hd : (s.elapse dt).drrServe q = none) :
    Completes (.queuePop dt q) s fun t => t.qmg = s.qmg ∧ t.map = s.map ∧ t.io = s.io ∧ RegsOnly [] s t := by
  have hq' : (s.elapse dt).queue q = some x := hq
  have hb' : (s.elapse dt).boundTo q = none := hb
  refine ⟨s.elapse dt, ?_, rfl, rfl, rfl, RegsOnly.refl _ _⟩
  show execQueuePop dt q s = _
  unfold execQueuePop
  dsimp only
  rw [hq']
  dsimp only
  rw [hb', hd]
  exact congrArg Host.Outcome.next (ite_self _)

/-- The queue after a word is copied to the ring of its data queue `b`. -/
def QSt.copied (x : QSt) (b : DqSt) : QSt :=
  { x with rp := x.after x.rp, firstIdx := if (x.word x.rp).sop then b.dev else x.firstIdx }

theorem exec_queuePop_copied {d : Nat} {b : DqSt} (hq : s.queue q = some x) (hr : x.resetting = false) (hn : x.readable ≠ 0)
    (hb : s.boundTo q = some (d, b)) (hto : b.toHost = true) (hmove : (s.elapse dt).dqCanMove b = true) :
    exec (.queuePop dt q) s = .next ((((s.elapse dt).setQueue q (x.copied b)).copyWord d b (x.padded (x.word x.rp))).judgeQueue q) := by
  have hq' : (s.elapse dt).queue q = some x := hq
  have hb' : (s.elapse dt).boundTo q = some (d, b) := hb
  have hgo : ¬ (decide (x.readable = 0) || x.resetting) = true := by simp [hn, hr]
  have hdir : ¬ (!b.toHost) = true := by simp [hto]
  show execQueuePop dt q s = _
  unfold execQueuePop
  dsimp only
  rw [hq']
  dsimp only
  rw [if_neg hgo, hb']
  exact congrArg Host.Outcome.next ((if_neg hdir).trans (if_pos hmove))

theorem completes_queuePop_copied {d : Nat} {b : DqSt} (hq : s.queue q = some x) (hr : x.resetting = false) (hn : x.readable ≠ 0)
    (hb : s.boundTo q = some (d, b)) (hto : b.toHost = true) (hmove : (s.elapse dt).dqCanMove b = true) :
    Completes (.queuePop dt q) s fun t =>
      (∃ y, t.queue q = some y ∧ y.rp = x.after x.rp ∧ y.wp = x.wp) ∧
      tfind t.qmg.dqs d = some { b with dev := (b.dev + 1) % 2 ^ 32, words := b.words + 1, crc := crcRun b.crc (x.padded (x.word x.rp)) } ∧
      (x.isHigh = false → s.pressed q = false → ({ x with rp := x.after x.rp } : QSt).depth < x.high →
        ({ x with rp := x.after x.rp } : QSt).depth ≠ x.size →
        t.io = { s.io with mem := memWrite s.io.mem (b.base + 64 * (b.dev % 2 ^ b.size)) (x.padded (x.word x.rp)) }) := by
  refine ⟨_, exec_queuePop_copied hq hr hn hb hto hmove, ?_⟩
  have hset : (((s.elapse dt).setQueue q (x.copied b)).copyWord d b (x.padded (x.word x.rp))).queue q = some (x.copied b) :=
    State.setQueue_queue_same (s.elapse dt) q (x.copied b)
  obtain ⟨⟨hi, fu, sa, hy⟩, -, hdqs⟩ := State.judgeQueue_queue hset
  refine ⟨⟨_, hy, rfl, rfl⟩, ?_, fun hhigh hpress hlow hfull => ?_⟩
  · rw [hdqs]
    exact tfind_tset_same _ _ _
  · exact (State.judgeQueue_quiet hset hhigh hpress hlow hfull).trans rfl

/-! ### Flushes, windows and resets -/

theorem completes_queueFlush {c : Nat} (hq : s.queue q = some x) (ho : x.openAt = some c) :
    Completes (.queueFlush dt q) s fun t =>
      t.queue q = some { x with openAt := none } ∧
      (s.halted = false → t.addr = max (s.addr + dt) ((c + max 1 x.flush) * Config.cyclePos)) ∧
      t.rd Reg.QMG_FLUSH_CNT 0 = (s.rd Reg.QMG_FLUSH_CNT 0 + 1) % 2 ^ 32 ∧ RegsOnly [(Reg.QMG_FLUSH_CNT, 0)] s t := by
  have hq' : (s.elapse dt).queue q = some x := hq
  have hexec : exec (.queueFlush dt q) s = .next
      ((((s.elapse dt).waitAddr (max (s.elapse dt).addr ((c + max 1 x.flush) * Config.cyclePos))).setQueue q
        { x with openAt := none }).count Reg.QMG_FLUSH_CNT 0) := by
    show execQueueFlush dt q s = _
    unfold execQueueFlush
    dsimp only
    rw [hq']
    dsimp only
    rw [ho]
  refine ⟨_, hexec, State.setQueue_queue_same .., fun hrun => ?_, ?_, ?_⟩
  · have hrun' : (s.elapse dt).halted = false := hrun
    show ((s.elapse dt).waitAddr _).addr = _
    rw [State.waitAddr_addr _ _ hrun', State.addr_elapse hrun]
    omega
  · rw [State.count_rd_same', State.setQueue_rd, State.waitAddr_rd]
    rfl
  · exact RegsOnly.count (l := [(Reg.QMG_FLUSH_CNT, 0)])
      (RegsOnly.setQueue (RegsOnly.of_regs (RegsOnly.refl _ s) (State.waitAddr_regs (s.elapse dt) _)) _ _) (by simp)

theorem completes_qDrop {since k : Nat} (hq : s.queue q = some x) (hw : x.window = some (since, k)) :
    Completes (.qDrop dt q) s fun t =>
      t.queue q = some { x with window := none } ∧ t.time = max (s.time + dt) (since + Config.secondPos) ∧
      Raised t Ev.Q_DROP (srcQueue q) [(4, k), (1, ofBool x.packet)] ∧ RegsOnly [] s t := by
  have hq' : (s.elapse dt).queue q = some x := hq
  obtain ⟨d, hd⟩ : ∃ d, d = since + Config.secondPos - (s.time + dt) := ⟨_, rfl⟩
  have hexec : exec (.qDrop dt q) s = .next (((s.elapse dt).elapse d).endWindow q x k) := by
    show execQDrop dt q s = _
    unfold execQDrop
    dsimp only
    rw [hq']
    dsimp only
    rw [hw, hd]
    rfl
  have htime : s.time + dt + d = max (s.time + dt) (since + Config.secondPos) := by omega
  rw [← htime]
  exact ⟨_, hexec, State.setQueue_queue_same .., rfl, State.raise_raised .., (RegsOnly.refl _ s).of_regs rfl⟩

/-- The queue after its reset begins (R496). -/
def QSt.cleared (q : QSt) : QSt :=
  { q with
    wp := 0, rp := 0, mark := none, markLost := false, slots := [], pkt := none, pktLen := 0,
    skip := false, left := 0, openAt := none, isHigh := false, isFull := false, fullSaid := false,
    resets := min (q.resets + 1) (2 ^ 32 - 1), resetting := true }

/-- A reset clears its queue alone, and is counted. -/
theorem State.resetQueue_spec (hq : s.queue q = some x) :
    (s.resetQueue q).queue q = some x.cleared ∧ (∀ k, k ≠ q → (s.resetQueue q).queue k = s.queue k) ∧
      (s.resetQueue q).regs = (s.count Reg.QMG_PTR_RESET_CNT 0).regs := by
  unfold State.resetQueue
  rw [hq]
  dsimp only
  split
  · exact ⟨State.setQueue_queue_same .., fun k hk => State.setQueue_queue_other _ _ _ hk, rfl⟩
  · exact ⟨State.setQueue_queue_same .., fun k hk => State.setQueue_queue_other _ _ _ hk, rfl⟩

/-- What a reset writes in the registers. -/
theorem State.resetQueue_regs (hq : s.queue q = some x) :
    (s.resetQueue q).rd Reg.QMG_PTR_RESET_CNT 0 = (s.rd Reg.QMG_PTR_RESET_CNT 0 + 1) % 2 ^ 32 ∧
      RegsOnly [(Reg.QMG_PTR_RESET_CNT, 0)] s (s.resetQueue q) := by
  obtain ⟨-, -, hregs⟩ := State.resetQueue_spec hq
  refine ⟨?_, ((RegsOnly.refl _ s).count (by simp)).of_regs hregs⟩
  rw [State.rd, hregs]
  exact State.count_rd_same' s Reg.QMG_PTR_RESET_CNT 0

theorem completes_qPtrReset (hq : s.queue q = some x) (which binary graycopy : Nat) :
    Completes (.qPtrReset dt q which binary graycopy) s fun t =>
      (∃ y, t.queue q = some y ∧ y.wp = 0 ∧ y.rp = 0 ∧ y.mark = none ∧ y.slots = [] ∧ y.resetting = true ∧
        y.resets = min (x.resets + 1) (2 ^ 32 - 1) ∧ y.drops = x.drops ∧ y.high = x.high ∧ y.low = x.low) ∧
      t.rd Reg.QMG_PTR_RESET_CNT 0 = (s.rd Reg.QMG_PTR_RESET_CNT 0 + 1) % 2 ^ 32 ∧
      Raised t Ev.Q_PTR_RESET (srcQueue q) [(1, which), (4, binary), (4, graycopy)] ∧
      (∀ k, k ≠ q → t.queue k = s.queue k) ∧ RegsOnly [(Reg.QMG_PTR_RESET_CNT, 0)] s t := by
  have hq' : (s.elapse dt).queue q = some x := hq
  obtain ⟨hsame, hoth, -⟩ := State.resetQueue_spec hq'
  obtain ⟨hcnt, hregs⟩ := State.resetQueue_regs hq'
  have hexec : exec (.qPtrReset dt q which binary graycopy) s = .next
      (((s.elapse dt).resetQueue q).raise Ev.Q_PTR_RESET (srcQueue q) [(1, which), (4, binary), (4, graycopy)]) := by
    show execQPtrReset dt q which binary graycopy s = _
    unfold execQPtrReset
    dsimp only
    rw [hq']
    rfl
  exact ⟨_, hexec, ⟨x.cleared, hsame, rfl, rfl, rfl, rfl, rfl, rfl, rfl, rfl, rfl⟩, hcnt, State.raise_raised .., hoth,
    (RegsOnly.raise (RegsOnly.trans (RegsOnly.of_regs (RegsOnly.refl _ s) rfl) hregs) _ _ _)⟩

theorem completes_queueResetEnd (hq : s.queue q = some x) :
    Completes (.queueResetEnd dt q) s fun t =>
      t.queue q = some { x with resetting := false } ∧ t.addr = (s.toBoundary dt Config.cyclePos).addr ∧ t.io = s.io ∧
        RegsOnly [] s t := by
  obtain ⟨b, hb⟩ : ∃ b, b = s.toBoundary dt Config.cyclePos := ⟨_, rfl⟩
  have hq' : b.queue q = some x := by rw [hb]; exact (State.queue_of_qmg (State.toBoundary_qmg ..) q).trans hq
  have hio : b.io = s.io := by rw [hb]; exact State.toBoundary_io ..
  have hregs : b.regs = s.regs := by rw [hb]; exact State.toBoundary_regs ..
  have hexec : exec (.queueResetEnd dt q) s = .next (b.setQueue q { x with resetting := false }) := by
    show execQueueResetEnd dt q s = _
    unfold execQueueResetEnd State.endQueueReset
    rw [← hb, hq']
  rw [← hb]
  exact ⟨_, hexec, State.setQueue_queue_same .., rfl, hio, (RegsOnly.refl _ s).of_regs hregs⟩

end

/-- Settles O49, clause by clause: a write stores or drops, a read moves the read pointer, and the judging that ends both changes
only three flags of the queue. -/
theorem queueEventsTakeEffect : Obligations.QueueEventsTakeEffect := by
  unfold Obligations.QueueEventsTakeEffect
  intro s dt q x hq
  refine ⟨fun w hr hh hb hp hw ho hm hd hl => completes_queuePush_stores hq hr hh hb hp hw ho hm hd hl,
    fun w hr hh hb hp hw ho hd hwin => completes_queuePush_drops hq hr hh hb hp hw ho hd hwin,
    fun w hh => completes_queuePush_heldBack hq hh,
    fun hr hn hb hd => completes_queuePop_served hq hr hn hb hd,
    fun hb hd => completes_queuePop_passed hq hb hd,
    fun d b hr hn hb hto hmove => completes_queuePop_copied hq hr hn hb hto hmove,
    fun c ho => completes_queueFlush hq ho,
    fun since k hw => completes_qDrop hq hw,
    fun which binary graycopy => completes_qPtrReset hq which binary graycopy,
    completes_queueResetEnd hq⟩

end Sys2Proof.Machine
end


section
/-! PROOFS. A short packet, from its SOP word to its filled length slot; O50. -/

namespace Sys2Proof.Machine

/-- The pointer of the word before the write pointer, the last one written. -/
def QSt.last (q : QSt) : Nat := (q.wp + q.modulus - 1) % q.modulus

theorem QSt.modulus_pos (q : QSt) : 0 < q.modulus := Nat.two_pow_pos _

/-- The pointer before the next one is the pointer. -/
theorem QSt.before_after (q : QSt) {p : Nat} (h : p < q.modulus) : (q.after p + q.modulus - 1) % q.modulus = p := by
  unfold QSt.after
  rcases Nat.lt_or_ge (p + 1) q.modulus with hlt | hge
  · rw [Nat.mod_eq_of_lt hlt, show p + 1 + q.modulus - 1 = p + q.modulus by omega, Nat.add_mod_right, Nat.mod_eq_of_lt h]
  · have hp : p + 1 = q.modulus := by omega
    rw [hp, Nat.mod_self, Nat.zero_add, Nat.mod_eq_of_lt (by omega)]
    omega

section
variable {n : Nat}

/-- Bytes that fit in the open word are appended to it; nothing else of the queue changes. -/
theorem State.appendBytes_fits (l : List Nat) : ∀ {s : State} {q : QSt}, s.queue n = some q →
    (q.word q.last).data.length + l.length ≤ 64 →
    ∃ t sl, s.appendBytes n l = some t ∧ t.queue n = some { q with slots := sl } ∧
      ({ q with slots := sl } : QSt).word q.last = { q.word q.last with data := (q.word q.last).data ++ l } := by
  induction l with
  | nil => exact fun {s q} h _ => ⟨s, q.slots, rfl, h, by rw [List.append_nil]⟩
  | cons b rest ih =>
    intro s q h hlen
    rw [List.length_cons] at hlen
    obtain ⟨q1, hq1⟩ : ∃ q1 : QSt, q1 = q.setWord q.last { q.word q.last with data := (q.word q.last).data ++ [b] } := ⟨_, rfl⟩
    have hlast : q1.last = q.last := by rw [hq1]; rfl
    have hword : q1.word q.last = { q.word q.last with data := (q.word q.last).data ++ [b] } := by
      rw [hq1]; exact QSt.word_setWord ..
    obtain ⟨t, sl, ht, hqt, hw⟩ := ih (s := s.setQueue n q1) (q := q1) (State.setQueue_queue_same ..) (by
      rw [hlast, hword]
      simp only [List.length_append, List.length_cons, List.length_nil]
      omega)
    have hstep : s.appendBytes n (b :: rest) = (s.setQueue n q1).appendBytes n rest := by
      rw [State.appendBytes, h]
      dsimp only
      rw [hq1]
      exact if_pos (show (q.word q.last).data.length < 64 by omega)
    refine ⟨t, sl, hstep.trans ht, by rw [hqt, hq1]; rfl, ?_⟩
    rw [hlast, hword] at hw
    refine (show _ = ({ q1 with slots := sl } : QSt).word q.last by rw [hq1]; rfl).trans (hw.trans ?_)
    simp only [List.append_assoc, List.cons_append, List.nil_append]

/-- The length slot reserved in the SOP word, filled. -/
def lengthSlot (len status tag : Nat) : List Nat := leBytes 4 len ++ [status % 256, 0] ++ leBytes 2 tag

/-- A packet of one word that ends is closed: EOP is set and the length slot filled. -/
theorem State.endPacket_oneWord {s : State} {q : QSt} (h : s.queue n = some q) (hp : q.pkt = some q.last) (status tag : Nat) :
    ∃ sl, s.endPacket n status tag = s.setQueue n { q with slots := sl, pkt := none, pktLen := 0 } ∧
      ({ q with slots := sl } : QSt).word q.last =
        { q.word q.last with eop := true, data := lengthSlot q.pktLen status tag ++ (q.word q.last).data.drop 8 } := by
  obtain ⟨q1, hq1⟩ : ∃ q1 : QSt, q1 = q.setWord q.last { q.word q.last with eop := true } := ⟨_, rfl⟩
  have hw1 : q1.word q.last = { q.word q.last with eop := true } := by rw [hq1]; exact QSt.word_setWord ..
  obtain ⟨q2, hq2⟩ : ∃ q2 : QSt, q2 = q1.setWord q.last
    { q1.word q.last with data := lengthSlot q.pktLen status tag ++ (q1.word q.last).data.drop 8 } := ⟨_, rfl⟩
  refine ⟨q2.slots, ?_, ?_⟩
  · unfold State.endPacket
    rw [h]
    dsimp only
    rw [hp, hq2, hq1]
    rfl
  · have hq : ({ q with slots := q2.slots } : QSt) = q2 := by rw [hq2, hq1]; rfl
    rw [hq, hq2, QSt.word_setWord, hw1]

/-- The queue with a packet started at its write pointer. -/
def QSt.started (x : QSt) : QSt :=
  { x.written { data := List.replicate 8 0, sop := true } with pkt := some x.wp, pktLen := 0 }

/-- A packet starts at the write pointer of a queue with room and no mark. -/
theorem State.startPacket_stores {s : State} {x : QSt} (h : s.queue n = some x) (hm : x.mark = none) (hd : x.depth ≠ x.size) :
    ∃ a : State, s.startPacket n = some a ∧ a.queue n = some x.started := by
  refine ⟨_, ?_, State.setQueue_queue_same (s.setQueue n (x.written { data := List.replicate 8 0, sop := true })) n x.started⟩
  unfold State.startPacket
  rw [h]
  dsimp only
  rw [State.newWord_stores h hm hd]
  dsimp only
  rw [State.setQueue_queue_same]
  rfl

theorem QSt.started_last {x : QSt} (hwp : x.wp < x.modulus) : x.started.last = x.wp := QSt.before_after x hwp

theorem QSt.started_word {x : QSt} (hwp : x.wp < x.modulus) :
    x.started.word x.started.last = { data := List.replicate 8 0, sop := true } := by
  rw [QSt.started_last hwp]
  exact QSt.word_setWord x x.wp { data := List.replicate 8 0, sop := true }

/-- A whole packet of at most 56 bytes written at once to a queue with room: what the queue holds before it is judged. -/
theorem State.writePacket_short {s : State} {x : QSt} {w : QWrite} (h : s.queue n = some x) (hpkt : x.pkt = none) (hskip : x.skip = false)
    (hm : x.mark = none) (hd : x.depth ≠ x.size) (hwp : x.wp < x.modulus) (ha : w.abort = false) (hl : w.last = true)
    (hlen : w.bytes.length ≤ 56) :
    ∃ y, (s.writePacket n w x).queue n = some y ∧ y.wp = x.after x.wp ∧ y.pkt = none ∧ y.rp = x.rp ∧
      y.word x.wp = { data := lengthSlot w.bytes.length w.status w.tag ++ w.bytes, sop := true, eop := true } := by
  obtain ⟨a, hstart, hqa⟩ := State.startPacket_stores h hm hd
  have hword := QSt.started_word hwp
  have hlast := QSt.started_last hwp
  obtain ⟨b, sl, happ, hqb, hwb⟩ := State.appendBytes_fits w.bytes hqa (by
    rw [hword]
    simp only [List.length_replicate]
    omega)
  obtain ⟨q3, hq3⟩ : ∃ q3 : QSt, q3 = { x.started with slots := sl, pktLen := 0 + w.bytes.length } := ⟨_, rfl⟩
  have hlast3 : q3.last = x.wp := by rw [hq3]; exact hlast
  obtain ⟨sl', hend, hwe⟩ := State.endPacket_oneWord (s := b.setQueue n q3) (State.setQueue_queue_same ..)
    (by rw [hlast3, hq3]; rfl) w.status w.tag
  have hwrite : s.writePacket n w x = (b.setQueue n q3).endPacket n w.status w.tag := by
    unfold State.writePacket
    simp only [hskip, ha, hpkt, hstart, happ, hqb, hl, Option.isSome_none, Bool.false_eq_true, if_false, if_true]
    rw [hq3]
    rfl
  rw [hwrite, hend]
  refine ⟨_, State.setQueue_queue_same .., by rw [hq3]; rfl, rfl, by rw [hq3]; rfl, ?_⟩
  have hw3 : q3.word q3.last = { data := List.replicate 8 0 ++ w.bytes, sop := true } := by
    rw [hword, hlast] at hwb
    rw [hlast3, hq3]
    exact hwb
  have hlen3 : q3.pktLen = w.bytes.length := by rw [hq3]; exact Nat.zero_add _
  rw [hw3, hlast3, hlen3] at hwe
  refine (show _ = ({ q3 with slots := sl' } : QSt).word x.wp from rfl).trans (hwe.trans ?_)
  rw [List.drop_append_of_le_length (by simp), List.drop_replicate]
  rfl

end

/-- Settles O50: the packet's one word starts with the length slot, takes its bytes, and is closed at its end. -/
theorem shortPacketIsStoredWhole : Obligations.ShortPacketIsStoredWhole := by
  unfold Obligations.ShortPacketIsStoredWhole
  intro s dt q x w hq hr hh hb hp hpkt hskip hm hd hwp hw ha hl hlen
  obtain ⟨x1, hx1⟩ : ∃ x1 : QSt, x1 = { x with writer := if x.writer = 0 then 4 else x.writer } := ⟨_, rfl⟩
  have hset : ((s.elapse dt).setQueue q x1).queue q = some x1 := State.setQueue_queue_same ..
  obtain ⟨y, hy, hywp, hypkt, hyrp, hyw⟩ := State.writePacket_short (w := w) hset (by rw [hx1]; exact hpkt) (by rw [hx1]; exact hskip)
    (by rw [hx1]; exact hm) (by rw [hx1]; exact hd) (by rw [hx1]; exact hwp) ha hl hlen
  have hwrite : ((s.elapse dt).setQueue q x1).writeQueue q w = (((s.elapse dt).setQueue q x1).writePacket q w x1).judgeQueue q := by
    have hr1 : x1.resetting = false := by rw [hx1]; exact hr
    have hp1 : x1.packet = true := by rw [hx1]; exact hp
    unfold State.writeQueue
    rw [hset]
    simp only [hr1, hp1, hw, Bool.false_eq_true, if_false, if_true]
  obtain ⟨⟨hi, fu, sa, hj⟩, -, -⟩ := State.judgeQueue_queue hy
  refine ⟨_, exec_queuePush hq hh hb, ?_⟩
  rw [← hx1, hwrite]
  have hxwp : x1.wp = x.wp := by rw [hx1]
  refine ⟨_, hj, hywp.trans (by rw [hx1]; rfl), hypkt, hyrp.trans (by rw [hx1]), ?_⟩
  rw [hxwp] at hyw
  exact hyw

end Sys2Proof.Machine
end


section
/-! PROOFS. The commands of the queue manager (Table 15-8, R490, R491, R496, R497), and O51. -/

namespace Sys2Proof.Machine

theorem lt_nextCycle (a : Nat) : a < nextCycle a := by
  unfold nextCycle
  rw [Nat.mul_comm]
  exact Nat.lt_mul_div_succ a (by decide)

/-- The wait for the next cycle boundary ends there while the shaft runs. -/
theorem State.elapse_nextCycle_addr {s : State} (hrun : s.halted = false) (dt : Nat) :
    ((s.elapse dt).waitAddr (nextCycle (s.elapse dt).addr)).addr = nextCycle (s.addr + dt) := by
  rw [State.elapse_waitAddr_addr hrun, State.addr_elapse hrun]
  exact Nat.max_eq_right (Nat.le_of_lt (lt_nextCycle _))

section
variable {s : State} {dt : Nat} {h : HostRef}

/-! ### QMG_Q_CREATE and QMG_Q_DESTROY -/

theorem completes_qmgQCreate {p : QCreate} (hadm : Admitted s dt h domQmg Op.QMG_Q_CREATE) (hlo : s.rd Reg.QMG_HOST_BASE 0 ≤ p.q)
    (hhi : p.q ≤ 65487) (hnone : s.queue p.q = none) (hk8 : 8 ≤ p.k) (hk22 : p.k ≤ 22) (hlow : p.low < p.high) (hhigh : p.high ≤ 2 ^ p.k)
    (hmode : p.mode % 2 = 0 → p.mode / 2 % 4 = 0) (hroom : s.hostHbm + 64 * 2 ^ p.k ≤ s.rd Reg.QMG_HOST_HBM 0 * 2 ^ 20) :
    Completes (.qmgQCreate dt h p) s fun t =>
      (∃ x, t.queue p.q = some x ∧ x.packet = (p.mode % 2 == 0) ∧ x.recSize = 8 * 2 ^ (p.mode / 2 % 4) ∧ x.hold = p.hold ∧ x.hbm = true ∧
        x.host = true ∧ x.k = p.k ∧ x.flush = max 1 p.flush ∧ x.high = p.high ∧ x.low = p.low ∧ x.wp = 0 ∧ x.rp = 0 ∧ x.drops = 0) ∧
      (∀ k, k ≠ p.q → t.queue k = s.queue k) ∧ (s.halted = false → t.addr = nextCycle (s.addr + dt)) ∧
      Answered t h Op.QMG_Q_CREATE 0 0 [] ∧ RegsOnly [] s t := by
  refine completes_of_admitted rfl hadm ?_
  obtain ⟨b, hb⟩ : ∃ b, b = (s.elapse dt).waitAddr (nextCycle (s.elapse dt).addr) := ⟨_, rfl⟩
  obtain ⟨x, hx⟩ : ∃ x : QSt, x =
      { packet := p.mode % 2 == 0, recSize := 8 * 2 ^ (p.mode / 2 % 4), hold := p.hold, hbm := true, host := true,
        k := p.k, flush := max 1 p.flush, base := Config.freeChoice b.freeCtr % 2 ^ 32, high := p.high, low := p.low } := ⟨_, rfl⟩
  have hqmg : b.qmg = s.qmg := by rw [hb]; exact State.waitAddr_qmg ..
  have hregs : b.regs = s.regs := by rw [hb]; exact State.waitAddr_regs ..
  have hshape : ¬ (decide (p.k < 8) || decide (22 < p.k) || decide (p.high ≤ p.low) || decide (2 ^ p.k < p.high) ||
      (p.mode % 2 == 0) && (p.mode / 2 % 4 != 0)) = true := by
    simp only [Bool.or_eq_true, decide_eq_true_eq, Bool.and_eq_true, beq_iff_eq, bne_iff_ne, ne_eq]
    rintro ((((h1 | h1) | h1) | h1) | ⟨h1, h2⟩)
    · omega
    · omega
    · omega
    · exact absurd h1 (Nat.not_lt.mpr hhigh)
    · exact h2 (hmode h1)
  have h1 : ¬ (decide (p.q < (s.elapse dt).rd Reg.QMG_HOST_BASE 0) || decide (65487 < p.q)) = true := by
    rw [State.elapse_rd]
    simp only [Bool.or_eq_true, decide_eq_true_eq]
    omega
  have h2 : ¬ ((s.elapse dt).queue p.q).isSome = true := by
    rw [show (s.elapse dt).queue p.q = none from hnone]
    exact Bool.false_ne_true
  have h3 : ¬ (s.elapse dt).rd Reg.QMG_HOST_HBM 0 * 2 ^ 20 < (s.elapse dt).hostHbm + 64 * 2 ^ p.k := Nat.not_lt.mpr hroom
  dsimp only
  rw [if_neg h1, if_neg h2, if_neg hshape, if_neg h3, ← hb, ← hx]
  refine ⟨⟨x, State.setQueue_queue_same .., ?_⟩, fun k hk => ?_, fun hhalt => ?_, State.done_answered .., ?_⟩
  · rw [hx]
    exact ⟨rfl, rfl, rfl, rfl, rfl, rfl, rfl, rfl, rfl, rfl, rfl, rfl⟩
  · exact (State.setQueue_queue_other b p.q x hk).trans (State.queue_of_qmg hqmg k)
  · rw [← State.elapse_nextCycle_addr hhalt dt, ← hb]
    rfl
  · exact ((((RegsOnly.refl _ s).of_regs hregs).setQueue p.q x).draw).done h _

theorem completes_qmgQCreate_taken {p : QCreate} (hadm : Admitted s dt h domQmg Op.QMG_Q_CREATE) (hlo : s.rd Reg.QMG_HOST_BASE 0 ≤ p.q)
    (hhi : p.q ≤ 65487) (hsome : (s.queue p.q).isSome = true) :
    Completes (.qmgQCreate dt h p) s fun t => t.qmg = s.qmg ∧ Answered t h Op.QMG_Q_CREATE 2 4 [] ∧ RegsOnly [] s t := by
  refine completes_of_admitted rfl hadm ?_
  have h1 : ¬ (decide (p.q < (s.elapse dt).rd Reg.QMG_HOST_BASE 0) || decide (65487 < p.q)) = true := by
    rw [State.elapse_rd]
    simp only [Bool.or_eq_true, decide_eq_true_eq]
    omega
  dsimp only
  rw [if_neg h1, if_pos (show ((s.elapse dt).queue p.q).isSome = true from hsome)]
  exact ⟨rfl, State.refuse_answered .., RegsOnly.complete (RegsOnly.of_elapse _ s dt) _ _ _ _ _⟩

section
variable {q : Nat} {x : QSt} (hq : s.queue q = some x) (hr : x.resetting = false)
include hq hr

/-- A queue that runs is not waited for. -/
theorem State.awaitQueue_elapse : (s.elapse dt).awaitQueue q = s.elapse dt :=
  State.awaitQueue_of_running (s := s.elapse dt) hq hr

theorem completes_qmgQDestroy (hadm : Admitted s dt h domQmg Op.QMG_Q_DESTROY) (hhost : x.host = true) (hfree : s.boundTo q = none)
    (hsorted : tsorted s.qmg.qs = true) :
    Completes (.qmgQDestroy dt h q) s fun t =>
      t.queue q = none ∧ (∀ k, k ≠ q → t.queue k = s.queue k) ∧ Answered t h Op.QMG_Q_DESTROY 0 0 [] ∧ RegsOnly [] s t := by
  refine completes_of_admitted rfl hadm ?_
  have hq' : (s.elapse dt).queue q = some x := hq
  have hb' : (s.elapse dt).boundTo q = none := hfree
  have h1 : ¬ (!x.host) = true := by simp [hhost]
  have h2 : ¬ (none : Option (Nat × DqSt)).isSome = true := Bool.false_ne_true
  dsimp only
  rw [State.awaitQueue_elapse hq hr, hq', hb']
  dsimp only
  rw [if_neg h1, if_neg h2]
  refine ⟨?_, fun k hk => ?_, State.done_answered .., RegsOnly.done (regsOnly_of_regs rfl _) _ _⟩
  · exact (tfind_tdel s.qmg.qs q q hsorted).trans (if_pos rfl)
  · exact tfind_tdel_other s.qmg.qs hk

/-! ### Commands that set a queue and have it judged -/

/-- What a queue set to `y` at a state that holds the registers of `s`, judged and answered, leaves. -/
theorem State.judged_done {a : State} (ha : a.regs = s.regs) (y : QSt) (op r : Nat) (l : List (Nat × Nat)) :
    (∃ hi fu sa, (((a.setQueue q y).judgeQueue q).complete h op 0 r l).queue q =
      some { y with isHigh := hi, isFull := fu, fullSaid := sa }) ∧
    Answered (((a.setQueue q y).judgeQueue q).complete h op 0 r l) h op 0 r l ∧
    RegsOnly [(Reg.TST_PERTURB_CNT, 0)] s (((a.setQueue q y).judgeQueue q).complete h op 0 r l) := by
  obtain ⟨hsame, -, -⟩ := State.judgeQueue_queue (State.setQueue_queue_same a q y)
  refine ⟨hsame, State.complete_answered .., ?_⟩
  exact ((((RegsOnly.refl _ s).of_regs ha).setQueue q y).trans (State.judgeQueue_regs _ q)).complete h op 0 r l

theorem completes_qmgQSet {high low : Nat} {hold holdValid : Bool} (hadm : Admitted s dt h domQmg Op.QMG_Q_SET) (hlow : low < high)
    (hhigh : high ≤ x.size) (hhost : holdValid = true → x.host = true) :
    Completes (.qmgQSet dt h q high low hold holdValid) s fun t =>
      (∃ y, t.queue q = some y ∧ y.high = high ∧ y.low = low ∧ y.hold = (if holdValid then hold else x.hold) ∧ y.wp = x.wp ∧
        y.rp = x.rp) ∧
      (s.halted = false → t.addr = nextCycle (s.addr + dt)) ∧ Answered t h Op.QMG_Q_SET 0 0 [] ∧
      RegsOnly [(Reg.TST_PERTURB_CNT, 0)] s t := by
  refine completes_of_admitted rfl hadm ?_
  have hq' : (s.elapse dt).queue q = some x := hq
  have h1 : ¬ (decide (high ≤ low) || decide (x.size < high)) = true := by
    simp only [Bool.or_eq_true, decide_eq_true_eq]
    omega
  have h2 : ¬ (holdValid && !x.host) = true := by
    simp only [Bool.and_eq_true, Bool.not_eq_true']
    exact fun ⟨hv, hx⟩ => Bool.false_ne_true (hx.symm.trans (hhost hv))
  obtain ⟨b, hb⟩ : ∃ b, b = (s.elapse dt).waitAddr (nextCycle (s.elapse dt).addr) := ⟨_, rfl⟩
  obtain ⟨x1, hx1⟩ : ∃ x1 : QSt, x1 = { x with high := high, low := low, hold := if holdValid then hold else x.hold } := ⟨_, rfl⟩
  have hregs : b.regs = s.regs := by rw [hb]; exact State.waitAddr_regs ..
  dsimp only
  rw [State.awaitQueue_elapse hq hr, hq']
  dsimp only
  rw [if_neg h1, if_neg h2, ← hb, ← hx1]
  obtain ⟨⟨hi, fu, sa, hy⟩, hans, honly⟩ := State.judged_done (h := h) hq hr hregs x1 Op.QMG_Q_SET 0 []
  refine ⟨⟨_, hy, by rw [hx1], by rw [hx1], by rw [hx1], by rw [hx1], by rw [hx1]⟩, fun hhalt => ?_, hans, honly⟩
  rw [← State.elapse_nextCycle_addr hhalt dt, ← hb]
  exact (State.complete_frame (pt := .clock) (by decide) (State.judgeQueue_frame (pt := .clock) (base := b)
    (s := b.setQueue q x1) (by decide) ⟨rfl, rfl⟩)).2

theorem completes_qmgQRead {host : Nat} (hadm : Admitted s dt h domQmg Op.QMG_Q_READ) (halign : host % 64 = 0) :
    Completes (.qmgQRead dt h q host) s fun t =>
      t.qmg = s.qmg ∧ Answered t h Op.QMG_Q_READ 0 0 [] ∧ RegsOnly [] s t ∧
      (h.noCpl = true → t.io.mem = memWrite s.io.mem host ((s.elapse dt).queueRecord q x)) := by
  refine completes_of_admitted rfl hadm ?_
  have hq' : (s.elapse dt).queue q = some x := hq
  have h1 : ¬ (host % 64 != 0) = true := by rw [halign]; decide
  dsimp only
  rw [State.awaitQueue_elapse hq hr, hq']
  dsimp only
  rw [if_neg h1]
  generalize (s.elapse dt).queueRecord q x = bytes
  exact ⟨rfl, State.done_answered .., RegsOnly.done (regsOnly_of_regs rfl _) _ _,
    fun hno => (State.done_mem_of_noCpl _ hno _).trans rfl⟩

theorem completes_qmgMark {on : Nat} (hadm : Admitted s dt h domQmg Op.QMG_MARK) (hreader : x.reader = 7) :
    Completes (.qmgMark dt h q on) s fun t =>
      (∃ y, t.queue q = some y ∧ y.mark = (if on = 1 then some x.rp else none) ∧ y.markLost = false ∧ y.rp = x.rp ∧ y.wp = x.wp) ∧
      Answered t h Op.QMG_MARK 0 0 [] ∧ RegsOnly [(Reg.TST_PERTURB_CNT, 0)] s t := by
  refine completes_of_admitted rfl hadm ?_
  have hq' : (s.elapse dt).queue q = some x := hq
  have h1 : ¬ (x.reader != 7) = true := by rw [hreader]; decide
  obtain ⟨x1, hx1⟩ : ∃ x1 : QSt, x1 = { x with mark := if on = 1 then some x.rp else none, markLost := false } := ⟨_, rfl⟩
  dsimp only
  rw [State.awaitQueue_elapse hq hr, hq']
  dsimp only
  rw [if_neg h1, ← hx1]
  obtain ⟨⟨hi, fu, sa, hy⟩, hans, honly⟩ := State.judged_done (h := h) (a := s.elapse dt) hq hr rfl x1 Op.QMG_MARK 0 []
  exact ⟨⟨_, hy, by rw [hx1], by rw [hx1], by rw [hx1], by rw [hx1]⟩, hans, honly⟩

theorem completes_qmgRewind {m : Nat} (hadm : Admitted s dt h domQmg Op.QMG_REWIND) (hreader : x.reader = 7) (hmark : x.mark = some m) :
    Completes (.qmgRewind dt h q) s fun t =>
      (∃ y, t.queue q = some y ∧ y.rp = m ∧ y.mark = some m ∧ y.wp = x.wp) ∧
      Answered t h Op.QMG_REWIND 0 0 [] ∧ RegsOnly [(Reg.TST_PERTURB_CNT, 0)] s t := by
  refine completes_of_admitted rfl hadm ?_
  have hq' : (s.elapse dt).queue q = some x := hq
  have h1 : ¬ (x.reader != 7) = true := by rw [hreader]; decide
  obtain ⟨x1, hx1⟩ : ∃ x1 : QSt, x1 = { x with rp := m, mark := some m } := ⟨_, rfl⟩
  dsimp only
  rw [State.awaitQueue_elapse hq hr, hq']
  dsimp only
  rw [if_neg h1, hmark]
  dsimp only
  rw [← hx1]
  obtain ⟨⟨hi, fu, sa, hy⟩, hans, honly⟩ := State.judged_done (h := h) (a := s.elapse dt) hq hr rfl x1 Op.QMG_REWIND 0 []
  exact ⟨⟨_, hy, by rw [hx1], by rw [hx1], by rw [hx1]⟩, hans, honly⟩

/-- The queue once the rest of the packet being read is discarded. -/
def QSt.skipped (x : QSt) : QSt := { x with rp := (x.rp + x.restOfPacket x.readable x.rp) % x.modulus }

theorem completes_qmgDropRest (hadm : Admitted s dt h domQmg Op.QMG_DROP_REST) (hreader : x.reader = 7) (hpacket : x.packet = true)
    (hread : x.readable ≠ 0) (hsop : (x.word x.rp).sop = false) :
    Completes (.qmgDropRest dt h q) s fun t =>
      (∃ y, t.queue q = some y ∧ y.rp = (x.rp + x.restOfPacket x.readable x.rp) % x.modulus ∧ y.wp = x.wp) ∧
      Answered t h Op.QMG_DROP_REST 0 0 [(4, x.restOfPacket x.readable x.rp)] ∧ RegsOnly [(Reg.TST_PERTURB_CNT, 0)] s t := by
  have hq' : (s.elapse dt).queue q = some x := hq
  have h1 : ¬ (x.reader != 7) = true := by rw [hreader]; decide
  have h2 : ¬ (!x.packet || decide (x.readable = 0) || (x.word x.rp).sop) = true := by simp [hpacket, hread, hsop]
  have hrun : ∃ c : State, exec (.qmgDropRest dt h q) s =
        .next ((c.judgeQueue q).complete h Op.QMG_DROP_REST 0 0 [(4, x.restOfPacket x.readable x.rp)]) ∧
      c.queue q = some x.skipped ∧ c.regs = s.regs := by
    show ∃ c : State, execQmgDropRest dt h q s = _ ∧ _
    unfold execQmgDropRest
    rw [State.command_admitted hadm]
    dsimp only
    rw [State.awaitQueue_elapse hq hr, hq']
    dsimp only
    rw [if_neg h1, if_neg h2]
    refine ⟨_, rfl, ?_, ?_⟩
    · split
      · exact State.setQueue_queue_same (s.elapse dt) q x.skipped
      · exact State.setQueue_queue_same (s.elapse dt) q x.skipped
    · split
      · rfl
      · rfl
  obtain ⟨c, hexec, hqc, hregs⟩ := hrun
  obtain ⟨⟨hi, fu, sa, hy⟩, -, -⟩ := State.judgeQueue_queue hqc
  exact ⟨_, hexec, ⟨_, hy, rfl, rfl⟩, State.complete_answered ..,
    (((RegsOnly.refl _ s).of_regs hregs).trans (State.judgeQueue_regs c q)).complete _ _ _ _ _⟩

theorem completes_qmgQReset (hadm : Admitted s dt h domQmg Op.QMG_Q_RESET) (hhost : x.host = true) :
    Completes (.qmgQReset dt h q) s fun t =>
      (∃ y, t.queue q = some y ∧ y.wp = 0 ∧ y.rp = 0 ∧ y.mark = none ∧ y.slots = [] ∧ y.resetting = true) ∧
      t.rd Reg.QMG_PTR_RESET_CNT 0 = (s.rd Reg.QMG_PTR_RESET_CNT 0 + 1) % 2 ^ 32 ∧
      Raised t Ev.Q_PTR_RESET (srcQueue q) [(1, 3), (4, x.wp), (4, gray x.wp)] ∧ Answered t h Op.QMG_Q_RESET 0 0 [] ∧
      RegsOnly [(Reg.QMG_PTR_RESET_CNT, 0)] s t := by
  refine completes_of_admitted rfl hadm ?_
  have hq' : (s.elapse dt).queue q = some x := hq
  have h1 : ¬ (!x.host && ((s.elapse dt).boundTo q).isNone) = true := by simp [hhost]
  obtain ⟨hsame, -, -⟩ := State.resetQueue_spec hq'
  obtain ⟨hcnt, hregs⟩ := State.resetQueue_regs hq'
  dsimp only
  rw [State.awaitQueue_elapse hq hr, hq']
  dsimp only
  rw [if_neg h1]
  generalize (s.elapse dt).resetQueue q = b at *
  exact ⟨⟨x.cleared, hsame, rfl, rfl, rfl, rfl, rfl⟩, hcnt, (State.raiseC_raised ..).done .., State.done_answered ..,
    ((RegsOnly.trans (RegsOnly.of_elapse _ s dt) hregs).raiseC _ _ _).done _ _⟩

end

/-! ### Refusals -/

theorem completes_qmgQRead_none {q host : Nat} (hadm : Admitted s dt h domQmg Op.QMG_Q_READ) (hq : s.queue q = none) :
    Completes (.qmgQRead dt h q host) s fun t => t.qmg = s.qmg ∧ Answered t h Op.QMG_Q_READ 2 1 [] ∧ RegsOnly [] s t := by
  refine completes_of_admitted rfl hadm ?_
  have hq' : (s.elapse dt).queue q = none := hq
  have hwait : (s.elapse dt).awaitQueue q = s.elapse dt := by
    unfold State.awaitQueue
    rw [hq']
  dsimp only
  rw [hwait, hq']
  exact ⟨rfl, State.refuse_answered .., RegsOnly.complete (RegsOnly.of_elapse _ s dt) _ _ _ _ _⟩

theorem completes_qmgRewind_unmarked {q : Nat} {x : QSt} (hadm : Admitted s dt h domQmg Op.QMG_REWIND) (hq : s.queue q = some x)
    (hr : x.resetting = false) (hreader : x.reader = 7) (hm : x.mark = none) :
    Completes (.qmgRewind dt h q) s fun t =>
      t.qmg = s.qmg ∧ Answered t h Op.QMG_REWIND 2 (if x.markLost then 8 else 7) [] ∧ RegsOnly [] s t :=
  ⟨_, exec_qmgRewind_of_no_mark hadm hq hr hreader hm, rfl, State.refuse_answered ..,
    RegsOnly.complete (RegsOnly.of_elapse _ s dt) _ _ _ _ _⟩

end

/-- Settles O51: each command of the queue manager sets its queue and has it judged, or is refused. -/
theorem queueCommandsTakeEffect : Obligations.QueueCommandsTakeEffect := by
  unfold Obligations.QueueCommandsTakeEffect
  intro s dt h
  refine ⟨fun p hadm hlo hhi hnone h8 h22 hlow hhigh hmode hroom => completes_qmgQCreate hadm hlo hhi hnone h8 h22 hlow hhigh hmode hroom,
    fun p hadm hlo hhi hsome => completes_qmgQCreate_taken hadm hlo hhi hsome,
    fun q x hadm hq hr hhost hfree hsorted => completes_qmgQDestroy hq hr hadm hhost hfree hsorted,
    fun q x high low hold holdValid hadm hq hr hlow hhigh hhost => completes_qmgQSet hq hr hadm hlow hhigh hhost,
    fun q x host hadm hq hr halign => completes_qmgQRead hq hr hadm halign,
    fun q host hadm hq => completes_qmgQRead_none hadm hq,
    fun q x on hadm hq hr hreader => completes_qmgMark hq hr hadm hreader,
    fun q x m hadm hq hr hreader hm => completes_qmgRewind hq hr hadm hreader hm,
    fun q x hadm hq hr hreader hm => completes_qmgRewind_unmarked hadm hq hr hreader hm,
    fun q x hadm hq hr hreader hp hn hsop => completes_qmgDropRest hq hr hadm hreader hp hn hsop,
    fun q x hadm hq hr hhost => completes_qmgQReset hq hr hadm hhost⟩

end Sys2Proof.Machine
end


section
/-! PROOFS. Host writes and reads of registers (R500 to R514), the shadows and the scrub of triplicated fields, and O52. -/

namespace Sys2Proof.Machine

/-! ### A table filled from a list -/

/-- Entries that no element of the list is put at stand. -/
theorem tfind_foldl_tset_other {A V : Type} (key : A → Nat) (v : A → V) {k : Nat} :
    ∀ (l : List A) (t : Tab V), (∀ x ∈ l, key x ≠ k) → tfind (l.foldl (fun t x => tset t (key x) (v x)) t) k = tfind t k
  | [], _, _ => rfl
  | x :: l, t, h => by
    rw [List.foldl_cons, tfind_foldl_tset_other key v l _ fun y hy => h y (List.mem_cons_of_mem _ hy)]
    exact tfind_tset_other _ _ _ _ (h x List.mem_cons_self).symm

/-- An element whose place no other element takes is found there. -/
theorem tfind_foldl_tset_mem {A V : Type} (key : A → Nat) (v : A → V) {x : A} :
    ∀ (l : List A) (t : Tab V), x ∈ l → (∀ y ∈ l, key y = key x → y = x) →
      tfind (l.foldl (fun t x => tset t (key x) (v x)) t) (key x) = some (v x)
  | y :: l, t, hx, huniq => by
    rw [List.foldl_cons]
    by_cases hin : x ∈ l
    · exact tfind_foldl_tset_mem key v l _ hin fun z hz => huniq z (List.mem_cons_of_mem _ hz)
    · obtain rfl : x = y := (List.mem_cons.mp hx).resolve_right hin
      rw [tfind_foldl_tset_other key v l _ fun z hz hk => hin (huniq z (List.mem_cons_of_mem _ hz) hk ▸ hz)]
      exact tfind_tset_same _ _ _

/-! ### The shadows (R512) -/

/-- Each LO field is the pair's own, and what its read latches lies at places of its own. -/
theorem shadowPairs_spec : ∀ e ∈ shadowPairs, shadowPairs.find? (fun p => p.1.base == e.1.base) = some e ∧
    ∀ f ∈ e.2, ∀ g ∈ e.2, g.key 0 = f.key 0 → g = f := by
  decide +kernel

section
variable {s : State} {dt : Nat}

theorem completes_shadowLoRead {e : Fld × List Fld} (he : e ∈ shadowPairs) (hfree : s.inReset (e.1.domain 0) = false) :
    Completes (.shadowLoRead dt e.1.base) s fun t =>
      (∀ f ∈ e.2, tfind t.regs.shadow (f.key 0) = some ((s.elapse dt).value f 0)) ∧ t.regs.vals = s.regs.vals ∧ t.io = s.io := by
  obtain ⟨hfind, huniq⟩ := shadowPairs_spec e he
  obtain ⟨b, hb⟩ : ∃ b, b = s.elapse dt := ⟨_, rfl⟩
  have hnot : ¬ b.inReset (e.1.domain 0) = true := by rw [show b.inReset (e.1.domain 0) = false by rw [hb]; exact hfree]; decide
  have hexec : exec (.shadowLoRead dt e.1.base) s = .next { b with regs := { b.regs with
      shadow := e.2.foldl (fun t f => tset t (f.key 0) (b.value f 0)) b.regs.shadow } } := by
    show execShadowLoRead dt e.1.base s = _
    unfold execShadowLoRead
    dsimp only
    rw [hfind, ← hb]
    exact congrArg Host.Outcome.next (if_neg hnot)
  rw [← hb]
  refine ⟨_, hexec, fun f hf => ?_, by rw [hb]; rfl, by rw [hb]; rfl⟩
  exact tfind_foldl_tset_mem (fun f : Fld => f.key 0) (fun f => b.value f 0) e.2 b.regs.shadow hf (huniq f hf)

/-! ### The scrub (R510, R511) -/

/-- One field whose copies differ, found at an epoch boundary while the shaft runs. -/
theorem exec_triScrub_one (hfree : s.inReset 0 = false) (hrun : s.halted = false) (e : TriError) :
    exec (.triScrub dt [e]) s = .next ((s.toBoundary dt Config.epochPos).triFix e) := by
  obtain ⟨b, hb⟩ : ∃ b, b = s.toBoundary dt Config.epochPos := ⟨_, rfl⟩
  have hh : b.halted = false := by rw [hb, State.toBoundary_halted]; exact hrun
  have hr : b.inReset 0 = false := by
    rw [hb]
    unfold State.inReset
    rw [State.toBoundary_rd]
    exact hfree
  have hnot : ¬ (b.halted || b.inReset 0) = true := by rw [hh, hr]; decide
  show execTriScrub dt [e] s = _
  unfold execTriScrub
  dsimp only
  rw [← hb]
  exact congrArg Host.Outcome.next (if_neg hnot)

theorem completes_triScrub_fixed {off c : Nat} {w : Fld × Nat} (hfree : s.inReset 0 = false) (hrun : s.halted = false)
    (hw : (wordFields off).find? (fun e => e.1.tri) = some w) :
    Completes (.triScrub dt [{ off := off, copy := some c }]) s fun t =>
      t.addr = ceilTo Config.epochPos (s.addr + dt) ∧ t.rd Reg.GLB_TRI_FIX_CNT 0 = (s.rd Reg.GLB_TRI_FIX_CNT 0 + 1) % 2 ^ 32 ∧
      Raised t Ev.TRI_CORRECTED srcDevice [(4, off), (1, c)] ∧ RegsOnly [(Reg.GLB_TRI_FIX_CNT, 0)] s t := by
  obtain ⟨b, hb⟩ : ∃ b, b = s.toBoundary dt Config.epochPos := ⟨_, rfl⟩
  have haddr : b.addr = ceilTo Config.epochPos (s.addr + dt) := by rw [hb]; exact State.toBoundary_addr s dt _ hrun (by decide)
  have hregs : b.regs = s.regs := by rw [hb]; exact State.toBoundary_regs ..
  have hexec : exec (.triScrub dt [{ off := off, copy := some c }]) s =
      .next ((b.count Reg.GLB_TRI_FIX_CNT 0).raise Ev.TRI_CORRECTED srcDevice [(4, off), (1, c)]) := by
    rw [exec_triScrub_one hfree hrun, ← hb]
    unfold State.triFix
    rw [hw]
  refine ⟨_, hexec, haddr, ?_, State.raise_raised .., ?_⟩
  · rw [State.raise_rd, State.count_rd_same', State.rd, hregs]
    rfl
  · exact (RegsOnly.count (l := [(Reg.GLB_TRI_FIX_CNT, 0)]) (regsOnly_of_regs hregs _) (by simp)).raise _ _ _

theorem completes_triScrub_lost (hfree : s.inReset 0 = false) (hrun : s.halted = false) :
    Completes (.triScrub dt [{ off := 0x00080004, copy := none }]) s fun t =>
      t.rd Reg.RST_REQ 0 = 0 ∧ t.rd Reg.GLB_TRI_FAULT 0 = 1 ∧ Raised t Ev.TRI_NO_MAJORITY srcDevice [(4, 0x00080004)] ∧
      RegsOnly [(Reg.RST_REQ, 0), (Reg.GLB_TRI_FAULT, 0)] s t := by
  obtain ⟨b, hb⟩ : ∃ b, b = s.toBoundary dt Config.epochPos := ⟨_, rfl⟩
  have hregs : b.regs = s.regs := by rw [hb]; exact State.toBoundary_regs ..
  have hw : (wordFields 0x00080004).find? (fun w => w.1.tri) = some (Reg.RST_REQ, 0) := by decide +kernel
  have hexec : exec (.triScrub dt [{ off := 0x00080004, copy := none }]) s =
      .next (((b.wr Reg.RST_REQ 0 0).wr Reg.GLB_TRI_FAULT 0 1).raise Ev.TRI_NO_MAJORITY srcDevice [(4, 0x00080004)]) := by
    rw [exec_triScrub_one hfree hrun, ← hb]
    unfold State.triFix
    dsimp only
    rw [hw]
    rfl
  refine ⟨_, hexec, ?_, ?_, State.raise_raised .., ?_⟩
  · rw [State.raise_rd, State.wr_rd_other _ _ _ _ _ _ (by decide), State.wr_rd_same]
    rfl
  · rw [State.raise_rd, State.wr_rd_same]
    rfl
  · exact RegsOnly.raise (RegsOnly.wr (RegsOnly.wr (l := [(Reg.RST_REQ, 0), (Reg.GLB_TRI_FAULT, 0)]) (regsOnly_of_regs hregs _) _ _ _
      (by simp)) _ _ _ (by simp)) _ _ _

/-! ### Host writes -/

theorem completes_registerWrite_partial (hfree : s.inReset 0 = false) {off be : Nat} (value : Nat)
    (hin : outsideMap (off / 4 * 4) = false) (hbe : be % 16 ≠ 15) :
    Completes (.registerWrite dt off value be) s fun t =>
      t.rd Reg.GLB_ACCESS_BAD_CNT 0 = (s.rd Reg.GLB_ACCESS_BAD_CNT 0 + 1) % 2 ^ 32 ∧
      Raised t Ev.REG_ACCESS_BAD srcDevice [(4, off / 4 * 4), (1, be % 16), (1, 0)] ∧ RegsOnly [(Reg.GLB_ACCESS_BAD_CNT, 0)] s t := by
  have h1 : ¬ ((s.elapse dt).inReset 0 || outsideMap (off / 4 * 4)) = true := by
    rw [hin, show (s.elapse dt).inReset 0 = false from hfree]
    decide
  have hexec : exec (.registerWrite dt off value be) s = .next ((s.elapse dt).accessBad (off / 4 * 4) (be % 16) 0) := by
    show execRegisterWrite dt off value be s = _
    unfold execRegisterWrite
    exact congrArg Host.Outcome.next ((if_neg h1).trans (if_pos (bne_iff_ne.mpr hbe)))
  refine ⟨_, hexec, ?_, State.raise_raised .., ?_⟩
  · unfold State.accessBad
    rw [State.raise_rd, State.count_rd_same']
    rfl
  · exact (RegsOnly.count (l := [(Reg.GLB_ACCESS_BAD_CNT, 0)]) (RegsOnly.of_elapse _ s dt) (by simp)).raise _ _ _

/-- The blocks whose writes do nothing beside storing the fields: all but the device's, the resets', the shaft's, the filters', the
lanes', the host interface's and the tests'. -/
def plainBlocks : List Nat := [3, 6, 7, 8, 9, 10, 11, 12, 13, 15, 16, 17, 18]

theorem mem_plainBlocks_iff {k : Nat} (h : k ∈ plainBlocks) : k ≠ 0 ∧ k ≠ 1 ∧ k ≠ 2 ∧ k ≠ 4 ∧ k ≠ 5 ∧ k ≠ 14 ∧ k ≠ 19 := by
  have hall : ∀ k ∈ plainBlocks, k ≠ 0 ∧ k ≠ 1 ∧ k ≠ 2 ∧ k ≠ 4 ∧ k ≠ 5 ∧ k ≠ 14 ∧ k ≠ 19 := by decide
  exact hall k h

/-- In those blocks a write leaves the registers, the staged values, the locks and the rings as the stored fields have them. -/
theorem State.afterWrite_plain (old new : State) {off : Nat} (hb : off / 0x80000 ∈ plainBlocks) :
    (old.afterWrite new off).regs = new.regs ∧ (old.afterWrite new off).io = new.io := by
  obtain ⟨-, -, h2, h4, h5, h14, -⟩ := mem_plainBlocks_iff hb
  have c1 : ¬ off = 0x00100000 := by omega
  have c2 : ¬ (decide (off = 0x00200000) || decide (off = 0x00200004)) = true := by
    simp only [Bool.or_eq_true, decide_eq_true_eq]
    omega
  have c3 : ¬ (0x00281000 ≤ off ∧ off < 0x00282400 ∧ off % 0x40 = 8) := by omega
  have c4 : ¬ off = 0x00700000 := by omega
  have c5 : ¬ (0x00701000 ≤ off ∧ off < 0x00701200 ∧ off % 0x20 = 8) := by omega
  have c6 : ¬ (0x00701200 ≤ off ∧ off < 0x00701400 ∧ off % 0x20 = 8) := by omega
  have c7 : ¬ (0x00701400 ≤ off ∧ off < 0x00701800 ∧ off % 0x20 = 8) := by omega
  unfold State.afterWrite
  simp only [Bool.and_eq_true, decide_eq_true_eq, and_assoc]
  rw [if_neg c1, if_neg c2, if_neg c3, if_neg c4, if_neg c5, if_neg c6, if_neg c7]
  split
  · split
    · exact ⟨rfl, rfl⟩
    · exact ⟨rfl, rfl⟩
  · exact ⟨rfl, rfl⟩

/-- A write of a word of those blocks stores its fields. -/
theorem exec_registerWrite_plain (hfree : s.inReset 0 = false) {off : Nat} (value : Nat) (hal : off % 4 = 0) (hin : outsideMap off = false)
    (hview : activeView off = false) (hb : off / 0x80000 ∈ plainBlocks) :
    exec (.registerWrite dt off value 15) s = .next ((s.elapse dt).hostFields off (value % 2 ^ 32)) := by
  obtain ⟨h0, h1, -, -, -, h14, h19⟩ := mem_plainBlocks_iff hb
  have hoff : off / 4 * 4 = off := by omega
  have g1 : ¬ ((s.elapse dt).inReset 0 || outsideMap off) = true := by
    rw [hin, show (s.elapse dt).inReset 0 = false from hfree]
    decide
  have g2 : ¬ (15 % 16 != 15) = true := by decide
  have c0 : ¬ (outsideMap off || activeView off) = true := by rw [hin, hview]; decide
  have c1 : ¬ off = 0x00000004 := by omega
  have c2 : ¬ off = 0x00000010 := by omega
  have c3 : ¬ off = 0x00080004 := by omega
  have c4 : ¬ off = 0x00080010 := by omega
  have c5 : ¬ off = 0x00080014 := by omega
  have c6 : ¬ off = 0x00080018 := by omega
  have c7 : ¬ off = 0x00980000 := by omega
  have c8 : ¬ (decide (0x00708000 ≤ off) && decide (off < 0x00708200)) = true := by
    simp only [Bool.and_eq_true, decide_eq_true_eq]
    omega
  show execRegisterWrite dt off value 15 s = _
  unfold execRegisterWrite State.writeWord
  dsimp only
  rw [hoff, if_neg g1, if_neg g2, if_neg c0, if_neg c1, if_neg c2, if_neg c3, if_neg c4, if_neg c5, if_neg c6, if_neg c7, if_neg c8]

/-- A write of a word of one field in those blocks leaves the registers and the rings as that field's own write does. -/
theorem registerWrite_oneField (hfree : s.inReset 0 = false) {off : Nat} (value : Nat) (hal : off % 4 = 0) (hin : outsideMap off = false)
    (hview : activeView off = false) (hb : off / 0x80000 ∈ plainBlocks) {f : Fld} {i : Nat} (hw : wordFields off = [(f, i)]) :
    ∃ t, exec (.registerWrite dt off value 15) s = .next t ∧
      t.regs = ((s.elapse dt).hostField off (value % 2 ^ 32) f i).regs ∧ t.io = ((s.elapse dt).hostField off (value % 2 ^ 32) f i).io := by
  obtain ⟨hregs, hio⟩ := State.afterWrite_plain (s.elapse dt) ((s.elapse dt).hostField off (value % 2 ^ 32) f i) hb
  refine ⟨_, exec_registerWrite_plain hfree value hal hin hview hb, ?_⟩
  unfold State.hostFields
  rw [hw]
  exact ⟨hregs, hio⟩

/-- A staged value reads back (R514). -/
theorem State.stage_staged {f : Fld} {i : Nat} (hs : tsorted s.regs.staged = true) (v : Nat) : (s.stage f i v).staged f i = v := by
  by_cases hv : v = s.rd f i
  · have hnone : tfind (tdel s.regs.staged (f.key i)) (f.key i) = none := (tfind_tdel _ _ _ hs).trans (if_pos rfl)
    unfold State.stage State.staged
    dsimp only
    rw [if_pos hv, hnone, hv]
    rfl
  · unfold State.stage State.staged
    dsimp only
    rw [if_neg hv, tfind_tset_same]
    rfl

theorem RegsOnly.raiseLim {l : List (Fld × Nat)} {t : State} (k : RegsOnly l s t) (lim code n src : Nat) (d : List (Nat × Nat)) :
    RegsOnly l s (t.raiseLim lim code n src d) := k.of_regs (State.raiseLim_regs ..)

section
variable {f : Fld} {i off v : Nat} (hfree : s.inReset (f.domain i) = false)
include hfree

/-- Outside a reset and a last gasp a CTL field takes its bits. -/
theorem State.hostField_ctl (hk : f.kind = .ctl) (hgasp : s.gasping = false) :
    s.hostField off v f i = s.wr f i (bitsOf v f.lo f.width) := by
  simp [State.hostField, hfree, hk, hgasp]

theorem State.hostField_sts (hk : f.kind = .sts) : s.hostField off v f i = s := by
  simp [State.hostField, hfree, hk]

theorem State.hostField_cmt (hk : f.kind = .cmt) : s.hostField off v f i = s.stage f i (bitsOf v f.lo f.width) := by
  simp [State.hostField, hfree, hk]

/-- A locked field keeps its value; the write is counted (R507). -/
theorem State.hostField_locked (hk : f.kind = .lck) (hl : s.isLocked f i = true) :
    s.hostField off v f i = (s.count Reg.GLB_WTL_CNT 0).raiseLim 16 Ev.WRITE_TO_LOCKED 0 srcDevice
      [(4, off), (4, bitsOf v f.lo f.width), (4, s.rd f i)] := by
  simp [State.hostField, State.hostLock, hfree, hk, hl]

/-- The first write of a field locks it (R506). -/
theorem State.hostField_unlocked (hk : f.kind = .lck) (hl : s.isLocked f i = false) (hne : f ≠ Reg.CIP_EPOCH_BASE) :
    s.hostField off v f i =
      ({ s with regs := { s.regs with locked := f.key i :: s.regs.locked } } : State).wr f i (bitsOf v f.lo f.width) := by
  simp [State.hostField, State.hostLock, State.lockField, hfree, hk, hl, hne]

end

/-- What a host write of a word of one field does, by the field's type. -/
theorem completes_registerWrite_field (hfree : s.inReset 0 = false) {off : Nat} (value : Nat) (hal : off % 4 = 0)
    (hin : outsideMap off = false) (hview : activeView off = false) (hb : off / 0x80000 ∈ plainBlocks) {f : Fld} {i : Nat}
    (hw : wordFields off = [(f, i)]) (hdom : s.inReset (f.domain i) = false) (hgasp : s.gasping = false) :
    Completes (.registerWrite dt off value 15) s fun t =>
      (f.kind = .ctl → t.rd f i = bitsOf (value % 2 ^ 32) f.lo f.width % 2 ^ f.width ∧ RegsOnly [(f, i)] s t ∧ t.io = s.io) ∧
      (f.kind = .sts → t.regs = s.regs ∧ t.io = s.io) ∧
      (f.kind = .cnt → f.inIo = false → t.rd f i = bitsOf (value % 2 ^ 32) f.lo f.width % 2 ^ f.width ∧ RegsOnly [(f, i)] s t) ∧
      (f.kind = .cmt → tsorted s.regs.staged = true →
        t.staged f i = bitsOf (value % 2 ^ 32) f.lo f.width ∧ RegsOnly [] s t ∧ t.io = s.io) ∧
      (f.kind = .lck → s.isLocked f i = true →
        t.rd Reg.GLB_WTL_CNT 0 = (s.rd Reg.GLB_WTL_CNT 0 + 1) % 2 ^ 32 ∧ RegsOnly [(Reg.GLB_WTL_CNT, 0)] s t) ∧
      (f.kind = .lck → s.isLocked f i = false → f ≠ Reg.CIP_EPOCH_BASE →
        t.rd f i = bitsOf (value % 2 ^ 32) f.lo f.width % 2 ^ f.width ∧ t.isLocked f i = true ∧ RegsOnly [(f, i)] s t) := by
  obtain ⟨t, hexec, hregs, hio⟩ := registerWrite_oneField (dt := dt) hfree value hal hin hview hb hw
  obtain ⟨b, hbs⟩ : ∃ b, b = s.elapse dt := ⟨_, rfl⟩
  have hbregs : b.regs = s.regs := by rw [hbs]; rfl
  have hbio : b.io = s.io := by rw [hbs]; rfl
  have hdom' : b.inReset (f.domain i) = false := by rw [hbs]; exact hdom
  have hgasp' : b.gasping = false := by rw [hbs]; exact hgasp
  have honly (l : List (Fld × Nat)) : RegsOnly l s b := regsOnly_of_regs hbregs l
  rw [← hbs] at hregs hio
  refine ⟨t, hexec, fun hk => ?_, fun hk => ?_, fun hk hout => ?_, fun hk hs => ?_, fun hk hl => ?_, fun hk hl hne => ?_⟩
  · rw [State.hostField_ctl hdom' hk hgasp'] at hregs hio
    exact ⟨(congrArg (fun r : RegSt => r.rd f i) hregs).trans (State.wr_rd_same ..),
      (RegsOnly.wr (l := [(f, i)]) (honly _) f i _ (by simp)).of_regs hregs, hio.trans hbio⟩
  · rw [State.hostField_sts hdom' hk] at hregs hio
    exact ⟨hregs.trans hbregs, hio.trans hbio⟩
  · rw [State.hostField_cnt off hk hdom' hout] at hregs
    exact ⟨(congrArg (fun r : RegSt => r.rd f i) hregs).trans (State.wr_rd_same ..),
      (RegsOnly.wr (l := [(f, i)]) (honly _) f i _ (by simp)).of_regs hregs⟩
  · rw [State.hostField_cmt hdom' hk] at hregs hio
    have hst : t.staged f i = (b.stage f i (bitsOf (value % 2 ^ 32) f.lo f.width)).staged f i := by
      unfold State.staged State.rd
      rw [hregs]
    refine ⟨hst.trans (State.stage_staged (by rw [hbregs]; exact hs) _), ?_, hio.trans hbio⟩
    exact RegsOnly.of_regs (t := b.stage f i _) (fun g j hg => honly [] g j hg) hregs
  · rw [State.hostField_locked hdom' hk (by unfold State.isLocked; rw [hbregs]; exact hl)] at hregs
    have hcount : RegsOnly [(Reg.GLB_WTL_CNT, 0)] s (b.count Reg.GLB_WTL_CNT 0) := (honly _).count (by simp)
    have hlim := (RegsOnly.refl [] (b.count Reg.GLB_WTL_CNT 0)).raiseLim 16 Ev.WRITE_TO_LOCKED 0 srcDevice
      [(4, off), (4, bitsOf (value % 2 ^ 32) f.lo f.width), (4, b.rd f i)]
    refine ⟨?_, RegsOnly.of_regs (hcount.raiseLim _ _ _ _ _) hregs⟩
    refine (congrArg (fun r : RegSt => r.rd Reg.GLB_WTL_CNT 0) hregs).trans ((hlim _ _ (by simp)).trans ?_)
    rw [State.count_rd_same', State.rd, hbregs]
    rfl
  · rw [State.hostField_unlocked hdom' hk (by unfold State.isLocked; rw [hbregs]; exact hl) hne] at hregs
    refine ⟨(congrArg (fun r : RegSt => r.rd f i) hregs).trans (State.wr_rd_same ..), ?_, ?_⟩
    · unfold State.isLocked
      rw [hregs]
      exact List.contains_iff_mem.mpr List.mem_cons_self
    · refine RegsOnly.of_regs (RegsOnly.wr (l := [(f, i)]) ?_ f i _ (by simp)) hregs
      exact fun g j hg => honly [(f, i)] g j hg

/-! ### Reads -/

theorem State.readField_inReset {f : Fld} {i : Nat} (hr : s.inReset (f.domain i) = true) (hne : f ≠ Reg.GLB_ID) : s.readField f i = 0 := by
  unfold State.readField
  rw [hr, beq_eq_false_iff_ne.mpr hne]
  rfl

/-- A field of a silent lane reads 0. -/
theorem State.readField_silent {f : Fld} {i : Nat} (h : s.silentLane f i = true) : s.readField f i = 0 := by
  unfold State.readField
  split
  · rfl
  · rfl

theorem ofBlock_base {k : Nat} (hk : k = 6 ∨ k = 7) : ∀ f ∈ Reg.ofBlock k, f.base / 0x80000 = k := by
  obtain rfl | rfl := hk
  · decide +kernel
  · decide +kernel

theorem State.readField_notRalale {f : Fld} {i : Nat} (hf : f ∈ Reg.ofBlock 6) (hk : f.kind = .sts ∨ f.kind = .cnt) (hn : f.count = 48)
    (h9 : s.rd Reg.PRT_LANE_MODE i ≠ 9) (h10 : s.rd Reg.PRT_LANE_MODE i ≠ 10) : s.readField f i = 0 := by
  have hon : s.rlkOn i = false := by
    unfold State.rlkOn
    rw [beq_eq_false_iff_ne.mpr h9, beq_eq_false_iff_ne.mpr h10]
    simp
  refine State.readField_silent ?_
  unfold State.silentLane
  rw [hon, hn, ofBlock_base (Or.inl rfl) f hf]
  obtain hk | hk := hk
  · rw [hk]; rfl
  · rw [hk]; rfl

theorem State.readField_notFramed {f : Fld} {i : Nat} (hf : f ∈ Reg.ofBlock 7) (hk : f.kind = .sts ∨ f.kind = .cnt) (hn : f.count = 72)
    (hstm : modeStm (s.rd Reg.PRT_LANE_MODE i) = false) (hotu : modeOtu (s.rd Reg.PRT_LANE_MODE i) = false) : s.readField f i = 0 := by
  refine State.readField_silent ?_
  unfold State.silentLane
  rw [hstm, hotu, hn, ofBlock_base (Or.inr rfl) f hf]
  obtain hk | hk := hk
  · rw [hk]; rfl
  · rw [hk]; rfl

theorem State.readField_cmt {f : Fld} {i : Nat} (hr : s.inReset (f.domain i) = false) (hs : f.shadowed = false) (hk : f.kind = .cmt) :
    s.readField f i = s.staged f i := by
  simp [State.readField, State.silentLane, hr, hs, hk]

end

/-- Settles O52: a write of a word of one field is that field's own write, by its type; the shadows, the scrub and the reads stand
beside it. -/
theorem registerWritesTakeEffect : Obligations.RegisterWritesTakeEffect := by
  unfold Obligations.RegisterWritesTakeEffect
  intro s dt hfree
  refine ⟨fun off value be hin hbe => completes_registerWrite_partial hfree value hin hbe,
    fun off value f i hal hin hview hb hw hdom hgasp => completes_registerWrite_field hfree value hal hin hview hb hw hdom hgasp,
    fun e he hdom => completes_shadowLoRead he hdom,
    fun off c w hrun hw => completes_triScrub_fixed hfree hrun hw,
    fun hrun => completes_triScrub_lost hfree hrun,
    fun f i hr hne => State.readField_inReset hr hne,
    fun f hf i hk hn _ h9 h10 => State.readField_notRalale hf hk hn h9 h10,
    fun f hf i hk hn _ hstm hotu => State.readField_notFramed hf hk hn hstm hotu,
    fun f i hr hs hk => State.readField_cmt hr hs hk⟩

end Sys2Proof.Machine
end


section
/-! PROOFS. Commits and discards (R515 to R520, R529): requests, the snapshot, the outcome and the copies that a boundary makes, and
O53. -/

namespace Sys2Proof.Machine

/-! ### Masks of groups -/

/-- The powers of the bits of a number below `n` add up to its remainder. -/
theorem sum_bits (v : Nat) : ∀ n : Nat, (((List.range n).filter (bitOf v)).map (2 ^ ·)).sum = v % 2 ^ n
  | 0 => (Nat.mod_one v).symm
  | n + 1 => by
    rw [List.range_succ, List.filter_append, List.map_append, List.sum_append, sum_bits v n, Nat.mod_pow_succ]
    congr 1
    by_cases hb : v / 2 ^ n % 2 = 1
    · have hbit : bitOf v n = true := decide_eq_true hb
      simp [hbit, hb]
    · have hbit : bitOf v n = false := decide_eq_false hb
      have hzero : v / 2 ^ n % 2 = 0 := by omega
      simp [hbit, hzero]

@[simp] theorem bitOf_zero_left (k : Nat) : bitOf 0 k = false := by
  unfold bitOf
  rw [Nat.zero_div]
  rfl

/-- A mask of groups is the sum of their powers. -/
theorem sum_groupsOf {v : Nat} (hv : v < 2 ^ 20) : ((groupsOf v).map (2 ^ ·)).sum = v :=
  (sum_bits v 20).trans (Nat.mod_eq_of_lt hv)

/-- The lowest group of a mask is one of the twenty. -/
theorem lowest_lt (mask : Nat) : lowest mask < 20 := by
  unfold lowest
  cases hg : groupsOf mask with
  | nil => decide
  | cons g rest =>
    have hmem : g ∈ groupsOf mask := by rw [hg]; exact List.mem_cons_self
    exact List.mem_range.mp (List.mem_filter.mp hmem).1

/-- A table kept where a test of the places holds. -/
theorem tfind_filter_key {V : Type} (p : Nat → Bool) (k : Nat) : ∀ t : Tab V,
    tfind (t.filter fun e => p e.1) k = if p k = true then tfind t k else none
  | [] => by simp [tfind]
  | (q, v) :: rest => by
    have ih := tfind_filter_key p k rest
    by_cases hq : q = k
    · subst hq
      by_cases hp : p q = true
      · rw [List.filter_cons_of_pos (by exact hp), if_pos hp]
        simp [tfind]
      · rw [List.filter_cons_of_neg (by exact hp), ih, if_neg hp, if_neg hp]
    · have hrest : tfind ((q, v) :: rest) k = tfind rest k := if_neg hq
      by_cases hp : p q = true
      · rw [List.filter_cons_of_pos (by exact hp), hrest, ← ih]
        exact if_neg hq
      · rw [List.filter_cons_of_neg (by exact hp), hrest, ih]

section
variable {s : State} {dt : Nat} {h : HostRef}

/-! ### Discards -/

/-- The staged values of the groups discarded are gone, and the others stand. -/
theorem State.discardGroups_staged (s : State) (mask : Nat) (f : Fld) (i : Nat) :
    tfind (s.discardGroups mask).regs.staged (f.key i) =
      if bitOf mask (keyGroup (f.key i)) = true then none else tfind s.regs.staged (f.key i) := by
  refine (tfind_filter_key (fun k => !bitOf mask (keyGroup k)) (f.key i) s.regs.staged).trans ?_
  cases bitOf mask (keyGroup (f.key i)) with
  | true => rfl
  | false => rfl

/-- The discards of GLB_DISCARD, made. -/
def State.discardAsked (s : State) (v : Nat) : State :=
  let a := (s.discardGroups v).wr Reg.GLB_DISCARD 0 0
  { a with regs := { a.regs with discards := [] } }

/-- With no group BUSY every discard asked for is made. -/
theorem State.makeDiscards_free {v : Nat} (hbusy : s.rd Reg.GLB_COMMIT_BUSY 0 = 0) (hv : s.rd Reg.GLB_DISCARD 0 = v) (hlt : v < 2 ^ 20) :
    s.makeDiscards = s.regs.discards.foldl (fun a e => (a.discardGroups e.1).done e.2 Op.REG_DISCARD) (s.discardAsked v) := by
  have hnow : (((groupsOf v).filter (fun g => !bitOf 0 g)).map (2 ^ ·)).sum = v := by
    simp only [bitOf_zero_left, Bool.not_false, List.filter_true]
    exact sum_groupsOf hlt
  have hland (n : Nat) : Nat.land n 0 = 0 := Nat.and_zero n
  unfold State.makeDiscards
  dsimp only
  rw [hbusy, hv, hnow]
  simp only [hland, beq_self_eq_true, List.filter_true, bne_self_eq_false, List.filter_false, Nat.sub_self]
  rfl

/-- Where none is asked for, only the register is written. -/
theorem State.makeDiscards_none (hv : s.rd Reg.GLB_DISCARD 0 = 0) (hnone : s.regs.discards = []) :
    s.makeDiscards = s.discardAsked 0 := by
  have hgroups : groupsOf 0 = [] := by decide
  have hready : ((s.discardGroups 0).wr Reg.GLB_DISCARD 0 0).regs.discards = [] := hnone
  unfold State.makeDiscards
  dsimp only
  rw [hv, hgroups]
  simp only [List.filter_nil, List.map_nil, List.sum_nil, hready, List.foldl_nil, Nat.sub_self]
  rfl

theorem State.discardAsked_regsOnly (s : State) (v : Nat) : RegsOnly [(Reg.GLB_DISCARD, 0)] s (s.discardAsked v) := by
  refine RegsOnly.of_regs (t := (s.discardGroups v).wr Reg.GLB_DISCARD 0 0) ?_ rfl |>.trans ?_
  · exact RegsOnly.wr (fun _ _ _ => rfl) _ _ _ (by simp)
  · exact RegsOnly.refl _ _

theorem State.discardAsked_rd (s : State) (v : Nat) : (s.discardAsked v).rd Reg.GLB_DISCARD 0 = 0 :=
  State.wr_rd_same (s.discardGroups v) Reg.GLB_DISCARD 0 0

theorem State.discardAsked_staged (s : State) (v : Nat) (f : Fld) (i : Nat) :
    tfind (s.discardAsked v).regs.staged (f.key i) =
      if bitOf v (keyGroup (f.key i)) = true then none else tfind s.regs.staged (f.key i) :=
  State.discardGroups_staged s v f i

theorem completes_glbDiscard {value : Nat} (hv : value < 2 ^ 20) (hne : value ≠ 0) (hfree : s.inReset 0 = false)
    (hrun : s.halted = false) (hbusy : s.rd Reg.GLB_COMMIT_BUSY 0 = 0) (hnone : s.regs.discards = []) :
    Completes (.glbDiscard dt value) s fun t =>
      t.addr = nextCycle (s.addr + dt) ∧ t.rd Reg.GLB_DISCARD 0 = 0 ∧
      (∀ f i, bitOf value (keyGroup (f.key i)) = true → t.staged f i = t.rd f i) ∧
      (∀ f i, bitOf value (keyGroup (f.key i)) = false → f ≠ Reg.GLB_DISCARD → f.key i ≠ Reg.GLB_DISCARD.key 0 →
        t.staged f i = s.staged f i) ∧ t.io = s.io ∧ RegsOnly [(Reg.GLB_DISCARD, 0)] s t := by
  obtain ⟨a, ha⟩ : ∃ a, a = (s.elapse dt).wr Reg.GLB_DISCARD 0 value := ⟨_, rfl⟩
  obtain ⟨b, hb⟩ : ∃ b, b = a.waitAddr (nextCycle a.addr) := ⟨_, rfl⟩
  have hasked : a.rd Reg.GLB_DISCARD 0 = value := by rw [ha, State.wr_rd_same]; exact Nat.mod_eq_of_lt hv
  have hahalt : a.halted = false := by
    unfold State.halted
    rw [ha, State.wr_rd_other _ _ _ _ _ _ (by decide)]
    exact hrun
  have hregs : b.regs = a.regs := by rw [hb]; exact State.waitAddr_regs ..
  have hbasked : b.rd Reg.GLB_DISCARD 0 = value := by rw [State.rd, hregs]; exact hasked
  have hbbusy : b.rd Reg.GLB_COMMIT_BUSY 0 = 0 := by
    rw [State.rd, hregs]
    refine Eq.trans ?_ hbusy
    rw [← State.rd, ha, State.wr_rd_other _ _ _ _ _ _ (by decide)]
    rfl
  have hbnone : b.regs.discards = [] := by rw [hregs, ha]; exact hnone
  have haddr : b.addr = nextCycle (s.addr + dt) := by
    rw [hb, State.waitAddr_addr _ _ hahalt, ha, State.wr_addr, State.addr_elapse hrun]
    exact Nat.max_eq_right (Nat.le_of_lt (lt_nextCycle _))
  have hio : b.io = s.io := by rw [hb, State.waitAddr_io, ha]; rfl
  have hexec : exec (.glbDiscard dt value) s = .next (b.discardAsked value) := by
    have h1 : ¬ (s.elapse dt).inReset 0 = true := by rw [show (s.elapse dt).inReset 0 = false from hfree]; decide
    have h2 : ¬ (a.halted || decide (a.rd Reg.GLB_DISCARD 0 = 0)) = true := by simp [hahalt, hasked, hne]
    show execGlbDiscard dt value s = _
    unfold execGlbDiscard State.writeDiscard
    dsimp only
    rw [if_neg h1, ← ha, if_neg h2, ← hb, State.makeDiscards_free hbbusy hbasked hv, hbnone]
    rfl
  have honly : RegsOnly [(Reg.GLB_DISCARD, 0)] s b := by
    refine RegsOnly.of_regs (t := a) ?_ hregs
    rw [ha]
    exact RegsOnly.wr (RegsOnly.of_elapse _ s dt) _ _ _ (by simp)
  have hall := RegsOnly.trans honly (State.discardAsked_regsOnly b value)
  have hstaged : b.regs.staged = s.regs.staged := by rw [hregs, ha]; rfl
  refine ⟨_, hexec, haddr, State.discardAsked_rd .., fun f i hg => ?_, fun f i hg _ hk => ?_, hio, hall⟩
  · unfold State.staged
    rw [State.discardAsked_staged, if_pos hg]
    rfl
  · unfold State.staged
    rw [State.discardAsked_staged, hg, if_neg Bool.false_ne_true, hstaged, hall f i (by simpa using hk.symm)]

theorem completes_regDiscard {mask : Nat} (hmask : mask < 2 ^ 20) (hadm : Admitted s dt h 0 Op.REG_DISCARD) (hrun : s.halted = false)
    (hbusy : s.rd Reg.GLB_COMMIT_BUSY 0 = 0) (hasked : s.rd Reg.GLB_DISCARD 0 = 0) (hnone : s.regs.discards = []) :
    Completes (.regDiscard dt h mask) s fun t =>
      t.addr = nextCycle (s.addr + dt) ∧ (∀ f i, bitOf mask (keyGroup (f.key i)) = true → t.staged f i = t.rd f i) ∧
      Answered t h Op.REG_DISCARD 0 0 [] ∧ RegsOnly [(Reg.GLB_DISCARD, 0)] s t := by
  refine completes_of_admitted rfl hadm ?_
  obtain ⟨a, ha⟩ : ∃ a : State, a = { s.elapse dt with regs := { (s.elapse dt).regs with
    discards := (s.elapse dt).regs.discards ++ [(mask, h)] } } := ⟨_, rfl⟩
  obtain ⟨b, hb⟩ : ∃ b, b = a.waitAddr (nextCycle (s.elapse dt).addr) := ⟨_, rfl⟩
  have hahalt : ¬ a.halted = true := by rw [show a.halted = false by rw [ha]; exact hrun]; decide
  have hregs : b.regs = a.regs := by rw [hb]; exact State.waitAddr_regs ..
  have hrd (f : Fld) (i : Nat) : b.rd f i = s.rd f i := by rw [State.rd, hregs, ha]; rfl
  have hdisc : b.regs.discards = [(mask, h)] := by
    rw [hregs, ha]
    show s.regs.discards ++ _ = _
    rw [hnone]
    rfl
  have haddr : b.addr = nextCycle (s.addr + dt) := by
    rw [hb, State.waitAddr_addr _ _ (by rw [ha]; exact hrun), ha]
    show max (s.elapse dt).addr _ = _
    rw [State.addr_elapse hrun]
    exact Nat.max_eq_right (Nat.le_of_lt (lt_nextCycle _))
  dsimp only
  rw [if_neg (Nat.not_le.mpr hmask), ← ha, if_neg hahalt, ← hb,
    State.makeDiscards_free ((hrd _ _).trans hbusy) ((hrd _ _).trans hasked) (by decide), hdisc]
  refine ⟨haddr, fun f i hg => ?_, State.done_answered .., ?_⟩
  · show (tfind ((b.discardAsked 0).discardGroups mask).regs.staged (f.key i)).getD _ = _
    rw [State.discardGroups_staged, if_pos hg]
    rfl
  · refine RegsOnly.trans (l := [(Reg.GLB_DISCARD, 0)]) (fun f i _ => hrd f i) ?_
    exact fun f i hf => State.discardAsked_regsOnly b 0 f i hf

/-! ### Requests -/

theorem completes_glbCommit {value : Nat} (hv : value < 2 ^ 20) (hfree : s.inReset 0 = false) (hrun : s.halted = false) :
    Completes (.glbCommit dt value) s fun t => t.rd Reg.GLB_COMMIT 0 = value ∧ t.io = s.io ∧ RegsOnly [(Reg.GLB_COMMIT, 0)] s t := by
  have h1 : ¬ (s.elapse dt).inReset 0 = true := by rw [show (s.elapse dt).inReset 0 = false from hfree]; decide
  have h2 : ¬ ((s.elapse dt).halted && (value % 2 ^ 20 != 0)) = true := by
    rw [show (s.elapse dt).halted = false from hrun]
    exact Bool.false_ne_true
  have hval : value % 2 ^ 20 = value := Nat.mod_eq_of_lt hv
  have hexec : ∃ p, exec (.glbCommit dt value) s =
      .next (({ s.elapse dt with regs := { (s.elapse dt).regs with askedAt := p } } : State).wr Reg.GLB_COMMIT 0 value) := by
    show ∃ p, execGlbCommit dt value s = _
    unfold execGlbCommit State.writeCommit
    dsimp only
    rw [if_neg h1, if_neg h2, hval]
    exact ⟨_, rfl⟩
  obtain ⟨p, hexec⟩ := hexec
  refine ⟨_, hexec, (State.wr_rd_same ..).trans hval, rfl, ?_⟩
  exact RegsOnly.wr (l := [(Reg.GLB_COMMIT, 0)]) (fun _ _ _ => rfl) _ _ _ (by simp)

/-- What a rejection with no REG_COMMIT in it writes and raises (R519). -/
theorem State.rejectCommit_spec (s : State) (mask : Nat) (f : Nat × Nat × Nat) :
    (s.rejectCommit mask f []).rd Reg.GLB_LAST_REJECT_GROUP 0 = f.1 % 2 ^ 5 ∧
    (s.rejectCommit mask f []).rd Reg.GLB_LAST_REJECT_REASON 0 = f.2.1 % 2 ^ 8 ∧
    (s.rejectCommit mask f []).rd Reg.GLB_LAST_REJECT_OFF 0 = f.2.2 % 2 ^ 32 ∧
    (s.rejectCommit mask f []).rd Reg.GLB_REJECT_CNT 0 = (s.rd Reg.GLB_REJECT_CNT 0 + 1) % 2 ^ 32 ∧
    Raised (s.rejectCommit mask f []) Ev.COMMIT_REJECT srcDevice [(4, mask), (1, f.1), (1, f.2.1), (2, 0), (4, f.2.2)] ∧
    RegsOnly [(Reg.GLB_LAST_REJECT_GROUP, 0), (Reg.GLB_LAST_REJECT_REASON, 0), (Reg.GLB_LAST_REJECT_OFF, 0), (Reg.GLB_REJECT_CNT, 0)] s
      (s.rejectCommit mask f []) := by
  obtain ⟨a, ha⟩ : ∃ a, a = ((s.wr Reg.GLB_LAST_REJECT_GROUP 0 f.1).wr Reg.GLB_LAST_REJECT_REASON 0 f.2.1).wr
    Reg.GLB_LAST_REJECT_OFF 0 f.2.2 := ⟨_, rfl⟩
  have hrej : s.rejectCommit mask f [] = (a.count Reg.GLB_REJECT_CNT 0).raise Ev.COMMIT_REJECT srcDevice
      [(4, mask), (1, f.1), (1, f.2.1), (2, 0), (4, f.2.2)] := by
    rw [ha]
    rfl
  have hcount : RegsOnly [(Reg.GLB_REJECT_CNT, 0)] a (a.count Reg.GLB_REJECT_CNT 0) := (RegsOnly.refl _ a).count (by simp)
  rw [hrej]
  refine ⟨?_, ?_, ?_, ?_, State.raise_raised .., ?_⟩
  · rw [State.raise_rd, hcount _ _ (by decide), ha, State.wr_rd_other _ _ _ _ _ _ (by decide),
      State.wr_rd_other _ _ _ _ _ _ (by decide)]
    exact State.wr_rd_same s Reg.GLB_LAST_REJECT_GROUP 0 f.1
  · rw [State.raise_rd, hcount _ _ (by decide), ha, State.wr_rd_other _ _ _ _ _ _ (by decide)]
    exact State.wr_rd_same _ Reg.GLB_LAST_REJECT_REASON 0 f.2.1
  · rw [State.raise_rd, hcount _ _ (by decide), ha]
    exact State.wr_rd_same _ Reg.GLB_LAST_REJECT_OFF 0 f.2.2
  · rw [State.raise_rd, State.count_rd_same', ha, State.wr_rd_other _ _ _ _ _ _ (by decide),
      State.wr_rd_other _ _ _ _ _ _ (by decide), State.wr_rd_other _ _ _ _ _ _ (by decide)]
    rfl
  · rw [ha]
    exact RegsOnly.raise (RegsOnly.count (RegsOnly.wr (RegsOnly.wr (RegsOnly.wr (RegsOnly.refl _ s) _ _ _ (by simp)) _ _ _ (by simp)) _ _ _
      (by simp)) (by simp)) _ _ _

theorem completes_glbCommit_halted {value : Nat} (hv : value < 2 ^ 20) (hne : value ≠ 0) (hfree : s.inReset 0 = false)
    (hrun : s.halted = true) :
    Completes (.glbCommit dt value) s fun t =>
      t.rd Reg.GLB_COMMIT 0 = 0 ∧ t.rd Reg.GLB_LAST_REJECT_GROUP 0 = lowest value ∧ t.rd Reg.GLB_LAST_REJECT_REASON 0 = 0x81 ∧
      t.rd Reg.GLB_REJECT_CNT 0 = (s.rd Reg.GLB_REJECT_CNT 0 + 1) % 2 ^ 32 ∧
      Raised t Ev.COMMIT_REJECT srcDevice [(4, value), (1, lowest value), (1, 0x81), (2, 0), (4, 0x00100004)] := by
  have h1 : ¬ (s.elapse dt).inReset 0 = true := by rw [show (s.elapse dt).inReset 0 = false from hfree]; decide
  have hval : value % 2 ^ 20 = value := Nat.mod_eq_of_lt hv
  have h2 : ((s.elapse dt).halted && (value != 0)) = true := by
    rw [show (s.elapse dt).halted = true from hrun, bne_iff_ne.mpr hne]
    rfl
  obtain ⟨a, ha⟩ : ∃ a, a = (s.elapse dt).wr Reg.GLB_COMMIT 0 0 := ⟨_, rfl⟩
  obtain ⟨hgroup, hreason, -, hcnt, hraised, honly⟩ := State.rejectCommit_spec a value (lowest value, 0x81, 0x00100004)
  have hexec : exec (.glbCommit dt value) s = .next (a.rejectCommit value (lowest value, 0x81, 0x00100004) []) := by
    show execGlbCommit dt value s = _
    unfold execGlbCommit State.writeCommit
    dsimp only
    rw [if_neg h1, hval, if_pos h2, ← ha]
    rfl
  refine ⟨_, hexec, ?_, hgroup.trans (Nat.mod_eq_of_lt (Nat.lt_trans (lowest_lt value) (by decide))), hreason, ?_, hraised⟩
  · rw [honly _ _ (by decide), ha]
    exact State.wr_rd_same _ _ _ _
  · rw [hcnt, ha, State.wr_rd_other _ _ _ _ _ _ (by decide)]
    rfl

theorem completes_regCommit {mask : Nat} (hmask : mask < 2 ^ 20) (hadm : Admitted s dt h 0 Op.REG_COMMIT) (hrun : s.halted = false) :
    Completes (.regCommit dt h mask) s fun t => t.regs.asks = s.regs.asks ++ [(s.time + dt, mask, h)] ∧ t.io = s.io ∧ RegsOnly [] s t := by
  refine completes_of_admitted rfl hadm ?_
  have h2 : ¬ (s.elapse dt).halted = true := by rw [show (s.elapse dt).halted = false from hrun]; decide
  rw [if_neg (Nat.not_le.mpr hmask), if_neg h2]
  exact ⟨rfl, rfl, fun _ _ _ => rfl⟩

theorem completes_regCommit_bad {mask : Nat} (hmask : 2 ^ 20 ≤ mask) (hadm : Admitted s dt h 0 Op.REG_COMMIT) :
    Completes (.regCommit dt h mask) s fun t => t.regs = s.regs ∧ Answered t h Op.REG_COMMIT 2 2 [] ∧ RegsOnly [] s t := by
  refine completes_of_admitted rfl hadm ?_
  rw [if_pos hmask]
  exact ⟨rfl, State.refuse_answered .., fun _ _ _ => rfl⟩

/-! ### The snapshot -/

/-- The commit that a snapshot of the request of GLB_COMMIT alone starts. -/
def State.commitOf (s : State) (mask : Nat) (bad : Option Nat) : CommitRun :=
  { mask := mask, asks := [], staged := s.snapshot mask none, fail := s.checkCommit (s.snapshot mask none) mask bad, set := false,
    due := s.addr + Config.cyclePos }

/-- The registers of the commit under way. -/
def State.startCommit (s : State) (mask : Nat) (bad : Option Nat) : State :=
  let a : State := { s with regs := { s.regs with run := some (s.commitOf mask bad), asks := [], setAsk := false } }
  (a.wr Reg.GLB_COMMIT 0 0).wr Reg.GLB_COMMIT_BUSY 0 (Nat.lor (s.rd Reg.GLB_COMMIT_BUSY 0) mask)

theorem exec_commitSnapshot {b : State} (hb : b = s.toBoundary dt Config.cyclePos) {mask : Nat} (bad : Option Nat)
    (hfree : b.inReset 0 = false) (hrun : b.halted = false) (hmask : b.rd Reg.GLB_COMMIT 0 = mask) (hne : mask ≠ 0)
    (hnorun : b.regs.run = none) (hasks : b.regs.asks = []) (hset : b.regs.setAsk = false) (hasked : b.regs.askedAt.1 ≠ b.time)
    (hdone : b.regs.doneAt.1 ≠ b.addr) : exec (.commitSnapshot dt bad) s = .next (b.startCommit mask bad) := by
  have h1 : ¬ (b.halted || b.inReset 0) = true := by rw [hrun, hfree]; decide
  have hland : Nat.land mask 0 = 0 := Nat.and_zero mask
  have hlor (n : Nat) : Nat.lor n 0 = n := Nat.or_zero n
  have hor : orMasks [] = 0 := rfl
  have hno : ¬ ((none : Option CommitRun).isSome || (Nat.land mask 0 != 0) ||
      (decide (mask = 0) && ([] : List (Nat × Nat × HostRef)).isEmpty && !false)) = true := by
    rw [hland, decide_eq_false hne]
    decide
  show execCommitSnapshot dt bad s = _
  unfold execCommitSnapshot
  rw [← hb]
  dsimp only
  rw [if_neg h1, hnorun]
  dsimp only
  rw [if_neg hasked, if_neg hdone, hmask, hasks, hset, hland]
  simp only [List.filter_nil, List.map_nil, hor, hlor, Bool.false_eq_true, if_false, Nat.sub_zero]
  rw [hnorun, if_neg hno, Nat.sub_self]
  rfl

theorem completes_commitSnapshot {mask : Nat} (bad : Option Nat) (hfree : s.inReset 0 = false) (hrun : s.halted = false)
    (hmask : s.rd Reg.GLB_COMMIT 0 = mask) (hne : mask ≠ 0) (hnorun : s.regs.run = none) (hasks : s.regs.asks = [])
    (hset : s.regs.setAsk = false) (hasked : s.regs.askedAt.1 ≠ (s.toBoundary dt Config.cyclePos).time)
    (hdone : s.regs.doneAt.1 ≠ (s.toBoundary dt Config.cyclePos).addr) :
    Completes (.commitSnapshot dt bad) s fun t =>
      t.addr = ceilTo Config.cyclePos (s.addr + dt) ∧
      (∃ r, t.regs.run = some r ∧ r.mask = mask ∧ r.staged = (s.toBoundary dt Config.cyclePos).snapshot mask none ∧
        r.fail = (s.toBoundary dt Config.cyclePos).checkCommit r.staged mask bad ∧ r.due = t.addr + Config.cyclePos) ∧
      t.rd Reg.GLB_COMMIT 0 = 0 ∧ t.rd Reg.GLB_COMMIT_BUSY 0 = Nat.lor (s.rd Reg.GLB_COMMIT_BUSY 0) mask % 2 ^ 20 ∧
      t.io = s.io ∧ RegsOnly [(Reg.GLB_COMMIT, 0), (Reg.GLB_COMMIT_BUSY, 0)] s t := by
  obtain ⟨b, hb⟩ : ∃ b, b = s.toBoundary dt Config.cyclePos := ⟨_, rfl⟩
  have hregs : b.regs = s.regs := by rw [hb]; exact State.toBoundary_regs ..
  have hio : b.io = s.io := by rw [hb]; exact State.toBoundary_io ..
  have hrd (f : Fld) (i : Nat) : b.rd f i = s.rd f i := by rw [State.rd, hregs]; rfl
  have haddr : b.addr = ceilTo Config.cyclePos (s.addr + dt) := by rw [hb]; exact State.toBoundary_addr s dt _ hrun (by decide)
  have hexec := exec_commitSnapshot (mask := mask) hb bad (by unfold State.inReset; rw [hrd]; exact hfree)
    (by rw [hb, State.toBoundary_halted]; exact hrun) ((hrd _ _).trans hmask) hne (by rw [hregs]; exact hnorun)
    (by rw [hregs]; exact hasks) (by rw [hregs]; exact hset) (by rw [hregs, hb]; exact hasked) (by rw [hregs, hb]; exact hdone)
  rw [← hb]
  obtain ⟨c, hc⟩ : ∃ c : State, c = { b with regs := { b.regs with run := some (b.commitOf mask bad), asks := [], setAsk := false } } :=
    ⟨_, rfl⟩
  have hstart : b.startCommit mask bad =
      (c.wr Reg.GLB_COMMIT 0 0).wr Reg.GLB_COMMIT_BUSY 0 (Nat.lor (b.rd Reg.GLB_COMMIT_BUSY 0) mask) := by rw [hc]; rfl
  have hcrd (f : Fld) (i : Nat) : c.rd f i = s.rd f i := by rw [hc]; exact hrd f i
  have hcrun : c.regs.run = some (b.commitOf mask bad) := by rw [hc]
  have hcaddr : c.addr = b.addr := by rw [hc]
  have hcio : c.io = s.io := by rw [hc]; exact hio
  refine ⟨_, hexec, ?_⟩
  rw [hstart, hrd]
  refine ⟨hcaddr.trans haddr, ⟨b.commitOf mask bad, hcrun, rfl, rfl, rfl, ?_⟩, ?_, State.wr_rd_same .., hcio, ?_⟩
  · show b.addr + Config.cyclePos = c.addr + Config.cyclePos
    rw [hcaddr]
  · rw [State.wr_rd_other _ _ _ _ _ _ (by decide), State.wr_rd_same]
    rfl
  · exact RegsOnly.wr (RegsOnly.wr (l := [(Reg.GLB_COMMIT, 0), (Reg.GLB_COMMIT_BUSY, 0)]) (fun f i _ => hcrd f i) _ _ _ (by simp))
      _ _ _ (by simp)

/-! ### The outcome -/

/-- One active value that a commit sets. -/
def State.activateOne (t : Tab Nat) (a : State) (w : Fld × Nat) : State :=
  match tfind t (w.1.key w.2) with
  | none => a
  | some v =>
    let now := a.staged w.1 w.2
    let st := if now = v then tdel a.regs.staged (w.1.key w.2) else tset a.regs.staged (w.1.key w.2) now
    ({ a with regs := { a.regs with staged := st } } : State).wr w.1 w.2 v

theorem State.activate_eq (s : State) (mask : Nat) (t : Tab Nat) :
    s.activate mask t = ((groupsOf mask).flatMap groupFields).foldl (State.activateOne t) s := rfl

/-- A commit sets a field that its snapshot holds; nothing else of the registers or beside them changes, the staged values apart. -/
theorem State.activateOne_spec (t : Tab Nat) (a : State) (w : Fld × Nat) :
    (∀ v, tfind t (w.1.key w.2) = some v → (State.activateOne t a w).rd w.1 w.2 = v % 2 ^ w.1.width) ∧
    RegsOnly [w] a (State.activateOne t a w) ∧ (State.activateOne t a w).regs.run = a.regs.run ∧
    (State.activateOne t a w).regs.discards = a.regs.discards ∧ (State.activateOne t a w).addr = a.addr := by
  unfold State.activateOne
  cases ht : tfind t (w.1.key w.2) with
  | none => exact ⟨fun v hv => (nomatch hv), RegsOnly.refl _ _, rfl, rfl, rfl⟩
  | some v =>
    refine ⟨fun v' hv => ?_, ?_, rfl, rfl, rfl⟩
    · rw [← Option.some.inj hv]
      exact State.wr_rd_same ..
    · exact RegsOnly.wr (l := [w]) (fun _ _ _ => rfl) _ _ _ (by simp)

/-- Group QMG has two fields. -/
theorem groupFields_qmg : (groupsOf (2 ^ 15)).flatMap groupFields = [(Reg.QMG_HOST_BASE, 0), (Reg.QMG_HOST_HBM, 0)] := by decide

/-- The outcome of a commit, run at the position 0 that follows its snapshot. -/
theorem exec_commitOutcome {r : CommitRun} (hrun : s.halted = false) (hr : s.regs.run = some r) :
    exec (.commitOutcome dt) s = .next (((s.elapse dt).waitAddr (min r.due (nextCycle (s.addr + dt)))).outcome r) := by
  have h1 : ¬ (s.elapse dt).halted = true := by rw [show (s.elapse dt).halted = false from hrun]; decide
  have hr' : (s.elapse dt).regs.run = some r := hr
  show execCommitOutcome dt s = _
  unfold execCommitOutcome
  dsimp only
  rw [hr']
  dsimp only
  rw [if_neg h1, State.addr_elapse hrun]

/-- The state at the outcome with the commit taken off, and its groups no longer BUSY. -/
def State.endCommit (s : State) (r : CommitRun) : State :=
  let a : State := { s with regs := { s.regs with run := none, doneAt := (s.addr, r.mask) } }
  a.wr Reg.GLB_COMMIT_BUSY 0 (a.rd Reg.GLB_COMMIT_BUSY 0 - Nat.land (a.rd Reg.GLB_COMMIT_BUSY 0) r.mask)

theorem State.endCommit_regsOnly (s : State) (r : CommitRun) : RegsOnly [(Reg.GLB_COMMIT_BUSY, 0)] s (s.endCommit r) :=
  RegsOnly.wr (l := [(Reg.GLB_COMMIT_BUSY, 0)]) (fun _ _ _ => rfl) _ _ _ (by simp)

/-- A commit that failed is rejected. -/
theorem State.outcome_failed {r : CommitRun} {f : Nat × Nat × Nat} (hset : r.set = false) (hasks : r.asks = []) (hf : r.fail = some f) :
    s.outcome r = ((s.endCommit r).rejectCommit r.mask f []).makeDiscards := by
  unfold State.outcome
  dsimp only
  rw [hset, hasks, hf]
  rfl

theorem completes_commitOutcome_failed {r : CommitRun} {f : Nat × Nat × Nat} (hrun : s.halted = false) (hr : s.regs.run = some r)
    (hset : r.set = false) (hasks : r.asks = []) (hf : r.fail = some f) (hasked : s.rd Reg.GLB_DISCARD 0 = 0) (hnone : s.regs.discards = []) :
    Completes (.commitOutcome dt) s fun t =>
      t.rd Reg.GLB_LAST_REJECT_GROUP 0 = f.1 % 2 ^ 5 ∧ t.rd Reg.GLB_LAST_REJECT_REASON 0 = f.2.1 % 2 ^ 8 ∧
      t.rd Reg.GLB_LAST_REJECT_OFF 0 = f.2.2 % 2 ^ 32 ∧ t.rd Reg.GLB_REJECT_CNT 0 = (s.rd Reg.GLB_REJECT_CNT 0 + 1) % 2 ^ 32 ∧
      Raised t Ev.COMMIT_REJECT srcDevice [(4, r.mask), (1, f.1), (1, f.2.1), (2, 0), (4, f.2.2)] ∧
      RegsOnly [(Reg.GLB_LAST_REJECT_GROUP, 0), (Reg.GLB_LAST_REJECT_REASON, 0), (Reg.GLB_LAST_REJECT_OFF, 0), (Reg.GLB_REJECT_CNT, 0),
        (Reg.GLB_COMMIT_BUSY, 0), (Reg.GLB_DISCARD, 0)] s t := by
  obtain ⟨b, hb⟩ : ∃ b, b = (s.elapse dt).waitAddr (min r.due (nextCycle (s.addr + dt))) := ⟨_, rfl⟩
  have hregs : b.regs = s.regs := by rw [hb]; exact State.waitAddr_regs ..
  have hrd (g : Fld) (i : Nat) : b.rd g i = s.rd g i := by rw [State.rd, hregs]; rfl
  obtain ⟨c, hc⟩ : ∃ c, c = b.endCommit r := ⟨_, rfl⟩
  have hbc : RegsOnly [(Reg.GLB_COMMIT_BUSY, 0)] b c := by rw [hc]; exact State.endCommit_regsOnly b r
  obtain ⟨hgroup, hreason, hoff, hcnt, hraised, honly⟩ := State.rejectCommit_spec c r.mask f
  obtain ⟨d, hd⟩ : ∃ d, d = c.rejectCommit r.mask f [] := ⟨_, rfl⟩
  rw [← hd] at hgroup hreason hoff hcnt hraised honly
  have hdisc : d.regs.discards = [] := by rw [hd, hc]; exact (congrArg RegSt.discards hregs).trans hnone
  have hdasked : d.rd Reg.GLB_DISCARD 0 = 0 := by rw [honly _ _ (by decide), hbc _ _ (by decide), hrd]; exact hasked
  have hexec : exec (.commitOutcome dt) s = .next (d.discardAsked 0) := by
    rw [exec_commitOutcome hrun hr, ← hb, State.outcome_failed hset hasks hf, ← hc, ← hd, State.makeDiscards_none hdasked hdisc]
  have hlast := State.discardAsked_regsOnly d 0
  refine ⟨_, hexec, (hlast _ _ (by decide)).trans hgroup, (hlast _ _ (by decide)).trans hreason, (hlast _ _ (by decide)).trans hoff, ?_,
    hraised.of_io rfl, ?_⟩
  · rw [hlast _ _ (by decide), hcnt, hbc _ _ (by decide), hrd]
  · refine RegsOnly.trans (fun g i _ => hrd g i) (RegsOnly.trans (hbc.mono ?_) (RegsOnly.trans (honly.mono ?_) (hlast.mono ?_)))
    · simp
    · simp
    · simp

/-- A commit of group QMG that passed its checks sets the group's two fields, is counted and reported. -/
theorem State.outcome_qmg {r : CommitRun} (hset : r.set = false) (hasks : r.asks = []) (hmask : r.mask = 2 ^ 15) (hf : r.fail = none)
    (hgasp : (s.endCommit r).gasping = false) :
    s.outcome r = ((((State.activateOne r.staged (State.activateOne r.staged (s.endCommit r) (Reg.QMG_HOST_BASE, 0))
      (Reg.QMG_HOST_HBM, 0)).count Reg.GLB_COMMIT_CNT 0).measureCmt).raise Ev.COMMIT_DONE srcDevice [(4, 2 ^ 15)]).makeDiscards := by
  have hact : (s.endCommit r).activate (2 ^ 15) r.staged =
      State.activateOne r.staged (State.activateOne r.staged (s.endCommit r) (Reg.QMG_HOST_BASE, 0)) (Reg.QMG_HOST_HBM, 0) := by
    rw [State.activate_eq, groupFields_qmg]
    rfl
  have hafter (x y : State) : x.afterCommit y 15 = x := rfl
  have hgroups : groupsOf (2 ^ 15) = [15] := by decide
  rw [← hact]
  generalize hc : s.endCommit r = c at *
  unfold State.outcome
  dsimp only
  rw [hset, hasks, hf, hmask]
  have hc' : ({ s with regs := { s.regs with run := none, doneAt := (s.addr, 2 ^ 15) } } : State).wr Reg.GLB_COMMIT_BUSY 0
      (({ s with regs := { s.regs with run := none, doneAt := (s.addr, 2 ^ 15) } } : State).rd Reg.GLB_COMMIT_BUSY 0 -
        Nat.land (({ s with regs := { s.regs with run := none, doneAt := (s.addr, 2 ^ 15) } } : State).rd Reg.GLB_COMMIT_BUSY 0) (2 ^ 15)) = c := by
    rw [← hc, ← hmask]
    rfl
  rw [hc', hgasp]
  simp only [Bool.and_false, Bool.false_eq_true, if_false, hgroups, List.foldl_cons, List.foldl_nil, hafter]
  rfl

theorem State.measureCmt_regs (s : State) : s.measureCmt.regs = s.regs := rfl

theorem State.measureCmt_addr (s : State) : s.measureCmt.addr = s.addr := rfl

theorem completes_commitOutcome_qmg {r : CommitRun} (hrun : s.halted = false) (hr : s.regs.run = some r) (hset : r.set = false)
    (hasks : r.asks = []) (hmask : r.mask = 2 ^ 15) (hf : r.fail = none) (hgasp : s.gasping = false)
    (hasked : s.rd Reg.GLB_DISCARD 0 = 0) (hnone : s.regs.discards = []) :
    Completes (.commitOutcome dt) s fun t =>
      (∀ v, tfind r.staged (Reg.QMG_HOST_BASE.key 0) = some v → t.rd Reg.QMG_HOST_BASE 0 = v % 2 ^ Reg.QMG_HOST_BASE.width) ∧
      (∀ v, tfind r.staged (Reg.QMG_HOST_HBM.key 0) = some v → t.rd Reg.QMG_HOST_HBM 0 = v % 2 ^ Reg.QMG_HOST_HBM.width) ∧
      t.rd Reg.GLB_COMMIT_CNT 0 = (s.rd Reg.GLB_COMMIT_CNT 0 + 1) % 2 ^ 32 ∧ t.regs.run = none ∧
      t.addr = max (s.addr + dt) (min r.due (nextCycle (s.addr + dt))) ∧ Raised t Ev.COMMIT_DONE srcDevice [(4, 2 ^ 15)] ∧
      RegsOnly [(Reg.QMG_HOST_BASE, 0), (Reg.QMG_HOST_HBM, 0), (Reg.GLB_COMMIT_CNT, 0), (Reg.GLB_COMMIT_BUSY, 0),
        (Reg.GLB_DISCARD, 0)] s t := by
  obtain ⟨b, hb⟩ : ∃ b, b = (s.elapse dt).waitAddr (min r.due (nextCycle (s.addr + dt))) := ⟨_, rfl⟩
  have hregs : b.regs = s.regs := by rw [hb]; exact State.waitAddr_regs ..
  have haddr : b.addr = max (s.addr + dt) (min r.due (nextCycle (s.addr + dt))) := by rw [hb]; exact State.elapse_waitAddr_addr hrun _
  have hrd (g : Fld) (i : Nat) : b.rd g i = s.rd g i := by rw [State.rd, hregs]; rfl
  obtain ⟨c, hc⟩ : ∃ c, c = b.endCommit r := ⟨_, rfl⟩
  have hbc : RegsOnly [(Reg.GLB_COMMIT_BUSY, 0)] b c := by rw [hc]; exact State.endCommit_regsOnly b r
  have hcgasp : c.gasping = false := by
    unfold State.gasping
    rw [hbc _ _ (by decide), hrd]
    exact hgasp
  have hcrun : c.regs.run = none := by rw [hc]; rfl
  have hcdisc : c.regs.discards = [] := by rw [hc]; exact (congrArg RegSt.discards hregs).trans hnone
  have hcaddr : c.addr = b.addr := by rw [hc]; rfl
  obtain ⟨hbase, hone, hrun1, hdisc1, haddr1⟩ := State.activateOne_spec r.staged c (Reg.QMG_HOST_BASE, 0)
  generalize hx1 : State.activateOne r.staged c (Reg.QMG_HOST_BASE, 0) = x1 at *
  obtain ⟨hhbm, htwo, hrun2, hdisc2, haddr2⟩ := State.activateOne_spec r.staged x1 (Reg.QMG_HOST_HBM, 0)
  generalize hx2 : State.activateOne r.staged x1 (Reg.QMG_HOST_HBM, 0) = x2 at *
  obtain ⟨d, hd⟩ : ∃ d, d = ((x2.count Reg.GLB_COMMIT_CNT 0).measureCmt).raise Ev.COMMIT_DONE srcDevice [(4, 2 ^ 15)] := ⟨_, rfl⟩
  have hdregs : d.regs = (x2.count Reg.GLB_COMMIT_CNT 0).regs := by rw [hd]; exact State.measureCmt_regs _
  have hcount : RegsOnly [(Reg.GLB_COMMIT_CNT, 0)] x2 d :=
    RegsOnly.of_regs (t := x2.count Reg.GLB_COMMIT_CNT 0) ((RegsOnly.refl _ x2).count (by simp)) hdregs
  have hddisc : d.regs.discards = [] := by rw [hdregs]; exact hdisc2.trans (hdisc1.trans hcdisc)
  have hdasked : d.rd Reg.GLB_DISCARD 0 = 0 := by
    rw [hcount _ _ (by decide), htwo _ _ (by decide), hone _ _ (by decide), hbc _ _ (by decide), hrd]
    exact hasked
  have hexec : exec (.commitOutcome dt) s = .next (d.discardAsked 0) := by
    rw [exec_commitOutcome hrun hr, ← hb, State.outcome_qmg hset hasks hmask hf (by rw [← hc]; exact hcgasp), ← hc, hx1, hx2, ← hd,
      State.makeDiscards_none hdasked hddisc]
  have hlast := State.discardAsked_regsOnly d 0
  have hraised : Raised d Ev.COMMIT_DONE srcDevice [(4, 2 ^ 15)] := by rw [hd]; exact State.raise_raised ..
  have hdaddr : d.addr = x2.addr := by rw [hd]; exact State.measureCmt_addr _
  refine ⟨_, hexec, fun v hv => ?_, fun v hv => ?_, ?_, ?_, ?_, hraised.of_io rfl, ?_⟩
  · rw [hlast _ _ (by decide), hcount _ _ (by decide), htwo _ _ (by decide)]
    exact hbase v hv
  · rw [hlast _ _ (by decide), hcount _ _ (by decide)]
    exact hhbm v hv
  · rw [hlast _ _ (by decide), State.rd, hdregs, ← State.rd, State.count_rd_same', htwo _ _ (by decide), hone _ _ (by decide),
      hbc _ _ (by decide), hrd]
    rfl
  · exact (congrArg RegSt.run hdregs).trans (hrun2.trans (hrun1.trans hcrun))
  · exact hdaddr.trans (haddr2.trans (haddr1.trans (hcaddr.trans haddr)))
  · refine RegsOnly.trans (fun g i _ => hrd g i) (RegsOnly.trans (hbc.mono ?_) (RegsOnly.trans (hone.mono ?_) (RegsOnly.trans (htwo.mono ?_)
      (RegsOnly.trans (hcount.mono ?_) (hlast.mono ?_)))))
    · simp
    · simp
    · simp
    · simp
    · simp

end

/-- Settles O53: requests, the snapshot that makes them one commit, its outcome either way, and the discards that a boundary makes. -/
theorem commitsTakeEffect : Obligations.CommitsTakeEffect := by
  unfold Obligations.CommitsTakeEffect
  intro s dt
  refine ⟨fun value hv hfree hrun => completes_glbCommit hv hfree hrun,
    fun value hv hne hfree hrun => completes_glbCommit_halted hv hne hfree hrun,
    fun h mask hmask hadm hrun => completes_regCommit hmask hadm hrun,
    fun h mask hmask hadm => completes_regCommit_bad hmask hadm,
    fun bad mask hfree hrun hmask hne _ hnorun hasks hset hasked hdone =>
      completes_commitSnapshot bad hfree hrun hmask hne hnorun hasks hset hasked hdone,
    fun r hrun hr hset hasks hmask hf hgasp hasked hnone => completes_commitOutcome_qmg hrun hr hset hasks hmask hf hgasp hasked hnone,
    fun r f hrun hr hset hasks hf hasked hnone => completes_commitOutcome_failed hrun hr hset hasks hf hasked hnone,
    fun value hv hne hfree hrun hbusy hnone => completes_glbDiscard hv hne hfree hrun hbusy hnone,
    fun h mask hmask hadm hrun hbusy hasked hnone => completes_regDiscard hmask hadm hrun hbusy hasked hnone⟩

end Sys2Proof.Machine
end


section
/-! PROOFS. The chip reset (R527, R569, R577), and O54. -/

namespace Sys2Proof.Machine

/-! ### Fields written from a list -/

/-- Register 0 of each field of a list takes its value. -/
def State.wrAll (v : Fld → Nat) (l : List Fld) (s : State) : State := l.foldl (fun a f => a.wr f 0 (v f)) s

theorem State.wrAll_cons (v : Fld → Nat) (f : Fld) (l : List Fld) (s : State) :
    State.wrAll v (f :: l) s = State.wrAll v l (s.wr f 0 (v f)) := rfl

/-- Writing a list of fields changes only the registers. -/
theorem State.wrAll_eq (v : Fld → Nat) : ∀ (l : List Fld) (s : State), ∃ r, State.wrAll v l s = { s with regs := r }
  | [], s => ⟨s.regs, rfl⟩
  | f :: l, s => by
    obtain ⟨r, hr⟩ := State.wrAll_eq v l (s.wr f 0 (v f))
    exact ⟨r, (State.wrAll_cons ..).trans hr⟩

theorem State.wrAll_regsOnly (v : Fld → Nat) : ∀ (l : List Fld) (s : State), RegsOnly (l.map fun f => (f, 0)) s (State.wrAll v l s)
  | [], s => RegsOnly.refl _ s
  | f :: l, s => by
    rw [State.wrAll_cons]
    refine RegsOnly.trans (RegsOnly.wr (RegsOnly.refl _ s) f 0 (v f) (by simp)) ?_
    exact (State.wrAll_regsOnly v l (s.wr f 0 (v f))).mono fun e he => List.mem_cons_of_mem _ he

/-- A field whose register no other field of the list has reads what it was written. -/
theorem State.wrAll_rd (v : Fld → Nat) {f : Fld} (l : List Fld) : ∀ (s : State), f ∈ l → (∀ g ∈ l, g.key 0 = f.key 0 → g = f) →
    (State.wrAll v l s).rd f 0 = v f % 2 ^ f.width := by
  induction l with
  | nil => exact fun s hf _ => absurd hf List.not_mem_nil
  | cons g l ih =>
    intro s hf huniq
    rw [State.wrAll_cons]
    by_cases hin : f ∈ l
    · exact ih _ hin fun k hk => huniq k (List.mem_cons_of_mem _ hk)
    · obtain rfl : f = g := (List.mem_cons.mp hf).resolve_right hin
      rw [State.wrAll_regsOnly v l _ f 0 ?_, State.wr_rd_same]
      intro e he hk
      obtain ⟨k, hkl, rfl⟩ := List.mem_map.mp he
      exact hin (huniq k (List.mem_cons_of_mem _ hkl) hk ▸ hkl)

/-- The registers of the fields kept are their own. -/
theorem keptFields_uniq : ∀ f ∈ keptFields, ∀ g ∈ keptFields, g.key 0 = f.key 0 → g = f := by decide +kernel

/-! ### The chip reset -/

/-- What a chip reset keeps, before its registers are written. -/
def State.chipKept (s : State) : State :=
  { State.reset with
    pending := s.pending, time := s.time, freeCtr := s.freeCtr,
    io := { mem := s.io.mem, busMaster := s.io.busMaster, d3hot := s.io.d3hot, linkWas := s.io.linkWas },
    eng := { slots := s.eng.slots, erasedAt := s.eng.erasedAt, erases := s.eng.erases },
    bkg := { lifeSum := s.bkg.lifeSum, lifeHot := s.bkg.lifeHot, lifeTime := s.bkg.lifeTime, sectors := s.bkg.sectors,
             sector := s.bkg.sector, base := s.bkg.base },
    sec := { imgs := s.sec.imgs, opkeys := s.sec.opkeys, idGone := s.sec.idGone },
    sys := { nor := s.sys.nor }, shf := { startable := false } }

/-- The fields that show every unit in reset. -/
def hewerActives : List Fld := [Reg.RST_HEWER_ACTIVE_LO, Reg.RST_HEWER_ACTIVE_MID, Reg.RST_HEWER_ACTIVE_HI]

/-- The state of a chip reset before the event of an open debug port. -/
def State.chipHeld (s : State) (cause : Nat) : State :=
  State.wrAll (fun _ => 0xFFFFFFFF) hewerActives
    (((State.wrAll (fun f => s.rd f 0) keptFields s.chipKept).wr Reg.RST_ACTIVE 0 0x1FFF).wr Reg.RST_CAUSE 0 cause)

theorem State.chipReset_eq (s : State) (cause : Nat) : s.chipReset cause =
    (s.chipHeld cause).raiseIf (s.rdBit Reg.SEC_DEBUG 0) Ev.SEC_DEBUG srcDevice [(1, s.rd Reg.SEC_DEBUG 0), (1, 0), (4, 0)] := rfl

/-- The fields that a chip reset sets away from their reset values. -/
def chipFields : List (Fld × Nat) :=
  keptFields.map (fun f => (f, 0)) ++ [(Reg.RST_ACTIVE, 0), (Reg.RST_CAUSE, 0), (Reg.RST_HEWER_ACTIVE_LO, 0),
    (Reg.RST_HEWER_ACTIVE_MID, 0), (Reg.RST_HEWER_ACTIVE_HI, 0)]

theorem State.chipHeld_eq (s : State) (cause : Nat) : ∃ r, s.chipHeld cause = { s.chipKept with regs := r } := by
  obtain ⟨r1, h1⟩ := State.wrAll_eq (fun f => s.rd f 0) keptFields s.chipKept
  obtain ⟨r2, h2⟩ := State.wrAll_eq (fun _ => 0xFFFFFFFF) hewerActives
    (((State.wrAll (fun f => s.rd f 0) keptFields s.chipKept).wr Reg.RST_ACTIVE 0 0x1FFF).wr Reg.RST_CAUSE 0 cause)
  refine ⟨r2, h2.trans ?_⟩
  rw [h1]
  rfl

theorem State.chipHeld_regsOnly (s : State) (cause : Nat) : RegsOnly chipFields State.reset (s.chipHeld cause) := by
  refine RegsOnly.trans (t := s.chipKept) (fun _ _ _ => rfl) ?_
  refine RegsOnly.trans ?_ ((State.wrAll_regsOnly _ hewerActives _).mono ?_)
  · refine RegsOnly.wr (RegsOnly.wr ((State.wrAll_regsOnly _ keptFields _).mono ?_) _ _ _ ?_) _ _ _ ?_
    · exact fun e he => List.mem_append_left _ he
    · exact List.mem_append_right _ (by simp)
    · exact List.mem_append_right _ (by simp)
  · intro e he
    refine List.mem_append_right _ ?_
    simp only [hewerActives, List.map_cons, List.map_nil, List.mem_cons, List.not_mem_nil, or_false] at he
    simp only [List.mem_cons, List.not_mem_nil, or_false]
    exact Or.inr (Or.inr he)

/-- A field kept reads as before. -/
theorem State.chipHeld_kept (s : State) (cause : Nat) {f : Fld} (hf : f ∈ keptFields)
    (h1 : ∀ e ∈ hewerActives.map fun g => (g, 0), e.1.key e.2 ≠ f.key 0) (h2 : f.key 0 ≠ Reg.RST_ACTIVE.key 0)
    (h3 : f.key 0 ≠ Reg.RST_CAUSE.key 0) : (s.chipHeld cause).rd f 0 = s.rd f 0 % 2 ^ f.width := by
  unfold State.chipHeld
  rw [State.wrAll_regsOnly _ hewerActives _ f 0 h1, State.wr_rd_other _ _ _ _ _ _ h3, State.wr_rd_other _ _ _ _ _ _ h2]
  exact State.wrAll_rd (fun f => s.rd f 0) keptFields s.chipKept hf (keptFields_uniq f hf)

theorem State.chipHeld_active (s : State) (cause : Nat) : (s.chipHeld cause).rd Reg.RST_ACTIVE 0 = 0x1FFF := by
  unfold State.chipHeld
  rw [State.wrAll_regsOnly _ hewerActives _ Reg.RST_ACTIVE 0 (by decide), State.wr_rd_other _ _ _ _ _ _ (by decide), State.wr_rd_same]
  rfl

theorem State.chipHeld_cause (s : State) {cause : Nat} (h : cause < 2) : (s.chipHeld cause).rd Reg.RST_CAUSE 0 = cause := by
  unfold State.chipHeld
  rw [State.wrAll_regsOnly _ hewerActives _ Reg.RST_CAUSE 0 (by decide), State.wr_rd_same]
  exact Nat.mod_eq_of_lt (show cause < 4 by omega)

/-! ### The event of an open debug port -/

/-- With no event queue open an event leaves host memory. -/
theorem State.ioRaise_mem_of_shut {s : State} (hshut : ∀ q, s.evqOpen q = false) (r : EvRec) (q : Nat) :
    (s.ioRaise r q).mem = s.io.mem := by
  have hsend (io : IoSt) (k : Nat) : (s.evqSend io k r).mem = io.mem := by
    rw [State.evqSend_hold (hshut k)]
    exact State.evqHold_mem ..
  unfold State.ioRaise
  dsimp only
  split
  · rw [hsend, hsend]
  · exact hsend _ _

/-- Such an event changes only the host side, and not the memory. -/
theorem State.raiseIf_of_shut {s : State} (hshut : ∀ q, s.evqOpen q = false) (b : Bool) (code src : Nat) (d : List (Nat × Nat)) :
    ∃ io : IoSt, io.mem = s.io.mem ∧ s.raiseIf b code src d = { s with io := io } := by
  unfold State.raiseIf
  split
  · exact ⟨_, State.ioRaise_mem_of_shut hshut _ _, rfl⟩
  · exact ⟨s.io, rfl, rfl⟩

theorem State.chipHeld_shut (s : State) (cause q : Nat) : (s.chipHeld cause).evqOpen q = false := by
  have hen : (s.chipHeld cause).rd Reg.HIF_EN 0 = 0 := State.chipHeld_regsOnly s cause Reg.HIF_EN 0 (by decide)
  unfold State.evqOpen
  rw [hen]
  simp

/-- What a chip reset leaves, and what it resets. -/
def ChipReset (s t : State) (cause : Nat) : Prop :=
  t.rd Reg.RST_ACTIVE 0 = 0x1FFF ∧ t.rd Reg.RST_CAUSE 0 = cause ∧ t.halted = true ∧ t.addr = 0 ∧ t.time = s.time ∧
    t.pending = s.pending ∧ t.io.mem = s.io.mem ∧ t.rd Reg.SEC_SVN_OTP 0 = s.rd Reg.SEC_SVN_OTP 0 % 2 ^ Reg.SEC_SVN_OTP.width ∧
    t.rd Reg.SEC_LIFECYCLE 0 = s.rd Reg.SEC_LIFECYCLE 0 % 2 ^ Reg.SEC_LIFECYCLE.width ∧ t.rd Reg.SEC_DEBUG 0 = 0 ∧
    t.sec.imgs = s.sec.imgs ∧ t.sys.nor = s.sys.nor ∧ t.bkg.sectors = s.bkg.sectors ∧ t.eng.slots = s.eng.slots ∧
    t.cip.slots = [] ∧ t.ovm.intents = [] ∧ t.qmg.qs = State.reset.qmg.qs ∧ RegsOnly chipFields State.reset t

theorem State.chipReset_spec (s : State) {cause : Nat} (h : cause < 2) : ChipReset s (s.chipReset cause) cause := by
  obtain ⟨r, hr⟩ := State.chipHeld_eq s cause
  obtain ⟨io, hmem, heq⟩ := State.raiseIf_of_shut (State.chipHeld_shut s cause) (s.rdBit Reg.SEC_DEBUG 0) Ev.SEC_DEBUG srcDevice
    [(1, s.rd Reg.SEC_DEBUG 0), (1, 0), (4, 0)]
  have hactive := State.chipHeld_active s cause
  have hcause := State.chipHeld_cause s h
  have hotp : (s.chipHeld cause).rd Reg.SEC_SVN_OTP 0 = s.rd Reg.SEC_SVN_OTP 0 % 2 ^ Reg.SEC_SVN_OTP.width :=
    State.chipHeld_kept s cause (by decide) (by decide) (by decide) (by decide)
  have hlife : (s.chipHeld cause).rd Reg.SEC_LIFECYCLE 0 = s.rd Reg.SEC_LIFECYCLE 0 % 2 ^ Reg.SEC_LIFECYCLE.width :=
    State.chipHeld_kept s cause (by decide) (by decide) (by decide) (by decide)
  have honly := State.chipHeld_regsOnly s cause
  have hhalt : (s.chipHeld cause).halted = true := by
    unfold State.halted
    rw [honly Reg.SHF_STATE 0 (by decide)]
    rfl
  have hdebug : (s.chipHeld cause).rd Reg.SEC_DEBUG 0 = 0 := honly Reg.SEC_DEBUG 0 (by decide)
  rw [State.chipReset_eq, heq]
  generalize s.chipHeld cause = c at *
  subst hr
  exact ⟨hactive, hcause, hhalt, rfl, rfl, rfl, hmem, hotp, hlife, hdebug, rfl, rfl, rfl, rfl, rfl, rfl, rfl, honly⟩

/-- A keyed request of the chip's reset (R526, R527). -/
theorem exec_rstReq_chip {s : State} {dt value : Nat} (hchip : bitOf (s.rd Reg.RST_ACTIVE 0) 0 = false)
    (hkey : s.rd Reg.RST_KEY 0 = 0xC0DE) (hv : bitOf value 0 = true) :
    exec (.rstReq dt value) s = .next (((((s.elapse dt).wr Reg.RST_KEY 0 0).wr Reg.RST_REQ 0 (value % 2 ^ 13)).count
      Reg.RST_REQ_CNT 0).chipReset 1) := by
  have hodd : value % 2 = 1 := by
    unfold bitOf at hv
    simpa using hv
  have hbit : bitOf (value % 2 ^ 13) 0 = true := by
    unfold bitOf
    simp only [pow_zero, Nat.div_one, decide_eq_true_eq]
    omega
  have hne : ¬ value % 2 ^ 13 = 0 := by omega
  have h1 : ¬ bitOf ((s.elapse dt).rd Reg.RST_ACTIVE 0) 0 = true := by
    rw [State.elapse_rd, hchip]
    decide
  have h2 : ¬ (value % 2 ^ 13 != 0 && (s.elapse dt).rd Reg.RST_KEY 0 != 0xC0DE) = true := by
    rw [State.elapse_rd, hkey]
    simp
  show execRstReq dt value s = _
  unfold execRstReq State.writeRstReq
  dsimp only
  rw [if_neg h1, if_neg h2, if_neg hne, if_pos hbit]

/-- What the key's clearing and the request's count leave of a state that a chip reset then takes. -/
theorem ChipReset.of_request {s t : State} {dt v : Nat}
    (h : ChipReset ((((s.elapse dt).wr Reg.RST_KEY 0 0).wr Reg.RST_REQ 0 v).count Reg.RST_REQ_CNT 0) t 1) :
    ChipReset (s.elapse dt) t 1 := by
  obtain ⟨b, hb⟩ : ∃ b, b = (((s.elapse dt).wr Reg.RST_KEY 0 0).wr Reg.RST_REQ 0 v).count Reg.RST_REQ_CNT 0 := ⟨_, rfl⟩
  have honly : RegsOnly [(Reg.RST_KEY, 0), (Reg.RST_REQ, 0), (Reg.RST_REQ_CNT, 0)] (s.elapse dt) b := by
    rw [hb]
    exact RegsOnly.count (RegsOnly.wr (RegsOnly.wr (RegsOnly.refl _ _) _ _ _ (by simp)) _ _ _ (by simp)) (by simp)
  rw [← hb] at h
  unfold ChipReset at h ⊢
  rw [honly Reg.SEC_SVN_OTP 0 (by decide), honly Reg.SEC_LIFECYCLE 0 (by decide)] at h
  rw [hb] at h
  exact h

/-- Settles O54: a chip reset is the reset state with what it keeps written back, all units in reset and the cause told. -/
theorem chipResetsTakeEffect : Obligations.ChipResetsTakeEffect := by
  unfold Obligations.ChipResetsTakeEffect
  intro s t dt cause hstep
  have hspec : ChipReset (s.elapse dt) t cause := by
    obtain ⟨hexec, rfl⟩ | ⟨value, -, hchip, hkey, hv, hexec, rfl⟩ := hstep
    · have ht : t = (s.elapse dt).chipReset 0 := by
        obtain hexec | hexec := hexec
        · exact (Host.Outcome.next.inj hexec).symm
        · exact (Host.Outcome.next.inj hexec).symm
      rw [ht]
      exact State.chipReset_spec _ (by decide)
    · rw [exec_rstReq_chip hchip hkey hv] at hexec
      rw [← Host.Outcome.next.inj hexec]
      exact ChipReset.of_request (State.chipReset_spec _ (by decide))
  exact hspec

end Sys2Proof.Machine
end


section
/-! PROOFS. Requests of resets (R526, R583), and O55. -/

namespace Sys2Proof.Machine

/-- The state of `moveWaitsOnReset` with the key of the resets written. -/
def moveWaitsOnRequest : State := moveWaitsOnReset.wr Reg.RST_KEY 0 0xC0DE

/-- Refutes O55: RESET_ENTERED need not be the newest event after a request. Here no move is under way, but one waits toward slice 0, in
reset already; the request of slice 1's reset abandons it (R583), and the withdrawal held for the move's context raises OVM_REFUSED. -/
theorem not_resetCommandsTakeEffect : ¬ Obligations.ResetCommandsTakeEffect := by
  unfold Obligations.ResetCommandsTakeEffect
  intro h
  obtain ⟨-, -, hrequest, -⟩ := h moveWaitsOnRequest 0
  obtain ⟨t, ht, -, -, -, r, hr, hcode, -, -⟩ := hrequest 4 (by decide) (by decide) (by decide +kernel) (by decide +kernel)
    (by decide +kernel) (by decide +kernel) rfl
  have hnewest : newestCode (exec (.rstReq 0 (2 ^ 4)) moveWaitsOnRequest) = some Ev.OVM_REFUSED := by decide +kernel
  rw [ht] at hnewest
  have hentered : newestCode (.next t) = some Ev.RESET_ENTERED := by
    show t.io.evlog.head?.map (·.code) = _
    rw [hr, Option.map_some, hcode]
  exact absurd (hentered.symm.trans hnewest) (by decide)

end Sys2Proof.Machine
end


section
/-! PROOFS. The assay units (R534 to R545), and O56. -/

namespace Sys2Proof.Machine

/-! ### Registers and passes of the units -/

/-- The fields of each unit. -/
def asyFields : List Fld :=
  [Reg.ASY_POS, Reg.ASY_PASS_LATE, Reg.ASY_PASS_CNT, Reg.ASY_REGEN_CNT, Reg.ASY_MISMATCH_CNT, Reg.ASY_SKIP_CNT]

theorem asyFields_key : ∀ f ∈ asyFields, ∀ g ∈ asyFields, ∀ u < 4, ∀ v < 4, f.key u = g.key v → f = g ∧ u = v := by decide

theorem asyFields_apart : ∀ f ∈ asyFields, ∀ u < 4, f.key u ≠ Reg.ASY_STATE.key 0 ∧ f.key u ≠ Reg.ASY_EN.key 0 := by decide

section
variable {s t : State} {dt u : Nat}

/-- A unit's field is not the one written where either the field or the unit differs. -/
theorem State.wr_rd_asy (s : State) {f g : Fld} {v : Nat} (x : Nat) (hf : f ∈ asyFields) (hg : g ∈ asyFields) (hu : u < 4) (hv : v < 4)
    (hne : f ≠ g ∨ u ≠ v) : (s.wr f u x).rd g v = s.rd g v :=
  State.wr_rd_other _ _ _ _ _ _ fun hk => by
    obtain ⟨h1, h2⟩ := asyFields_key g hg f hf v hv u hu hk
    exact hne.elim (fun h => h h1.symm) (fun h => h h2.symm)

theorem State.setPass_pass_other (s : State) (p : PassSt) {v : Nat} (h : v ≠ u) : (s.setPass u p).pass v = s.pass v := by
  show tget _ (tset s.asy.passes u p) v = _
  rw [tget_tset, if_neg h]
  rfl

theorem State.compares_lt (h : s.compares u = true) : u < 4 := by
  unfold State.compares at h
  simp only [Bool.and_eq_true, decide_eq_true_eq] at h
  exact h.1.2

/-- A unit compares as long as ASY_STATE and ASY_EN stand. -/
theorem State.compares_congr (h1 : t.rd Reg.ASY_STATE 0 = s.rd Reg.ASY_STATE 0) (h2 : t.rd Reg.ASY_EN 0 = s.rd Reg.ASY_EN 0) (u : Nat) :
    t.compares u = s.compares u := by
  unfold State.compares
  rw [h1, h2]

/-- A count of a unit's events leaves it comparing. -/
theorem State.count_compares {f : Fld} (hf : f ∈ asyFields) (hu : u < 4) : (s.count f u).compares u = s.compares u := by
  obtain ⟨h1, h2⟩ := asyFields_apart f hf u hu
  exact State.compares_congr (State.wr_rd_other _ _ _ _ _ _ (Ne.symm h1)) (State.wr_rd_other _ _ _ _ _ _ (Ne.symm h2)) u

/-! ### The next granule -/

/-- A pass once the granule at an index is done. -/
def PassSt.beyond (p : PassSt) (index : Nat) : PassSt := { p with attempts := 0, next := index + 1 }

/-- A granule that is not the last: the position and the pass move on, and nothing else. -/
theorem State.nextGranule_more (s : State) {g : Granule} (hl : g.last = false) :
    s.nextGranule g = (s.setPass g.unit ((s.pass g.unit).beyond g.index)).wr Reg.ASY_POS g.unit g.index := by
  unfold State.nextGranule
  rw [hl]
  rfl

theorem State.nextGranule_more_spec (s : State) {g : Granule} (hl : g.last = false) :
    (s.nextGranule g).rd Reg.ASY_POS g.unit = g.index % 2 ^ 16 ∧ (s.nextGranule g).pass g.unit = (s.pass g.unit).beyond g.index ∧
    (s.nextGranule g).io = s.io ∧ RegsOnly [(Reg.ASY_POS, g.unit)] s (s.nextGranule g) := by
  rw [State.nextGranule_more s hl]
  exact ⟨State.wr_rd_same _ Reg.ASY_POS g.unit g.index, State.setPass_pass_same s g.unit _, rfl,
    RegsOnly.wr (l := [(Reg.ASY_POS, g.unit)]) (fun _ _ _ => rfl) _ _ _ (by simp)⟩

/-- A pass begins. -/
theorem State.startPass_spec (s : State) (hu : u < 4) :
    (s.startPass u).rd Reg.ASY_POS u = 0 ∧ (s.startPass u).rd Reg.ASY_PASS_LATE u = 0 ∧ (s.startPass u).pass u = { since := s.time } ∧
    RegsOnly [(Reg.ASY_POS, u), (Reg.ASY_PASS_LATE, u)] s (s.startPass u) := by
  unfold State.startPass
  refine ⟨?_, State.wr_rd_same .., State.setPass_pass_same s u _, ?_⟩
  · rw [State.wr_rd_asy _ _ (by decide) (by decide) hu hu (.inl (by decide)), State.wr_rd_same]
    rfl
  · exact RegsOnly.wr (RegsOnly.wr (l := [(Reg.ASY_POS, u), (Reg.ASY_PASS_LATE, u)]) (fun _ _ _ => rfl) _ _ _ (by simp)) _ _ _ (by simp)

/-- What the start of a pass leaves of another unit, and of all beside the units. -/
theorem State.startPass_other (s : State) (hu : u < 4) {v : Nat} (hv : v < 4) (hne : v ≠ u) :
    (s.startPass u).rd Reg.ASY_POS v = s.rd Reg.ASY_POS v ∧ (s.startPass u).rd Reg.ASY_PASS_LATE v = s.rd Reg.ASY_PASS_LATE v ∧
    (s.startPass u).pass v = s.pass v := by
  unfold State.startPass
  refine ⟨?_, ?_, State.setPass_pass_other s _ hne⟩
  · rw [State.wr_rd_asy _ _ (by decide) (by decide) hu hv (.inl (by decide)),
      State.wr_rd_asy _ _ (by decide) (by decide) hu hv (.inr (Ne.symm hne))]
    rfl
  · rw [State.wr_rd_asy _ _ (by decide) (by decide) hu hv (.inr (Ne.symm hne)),
      State.wr_rd_asy _ _ (by decide) (by decide) hu hv (.inl (by decide))]
    rfl

/-- The last granule of a pass with no check waiting: the pass is counted and the next begins. -/
theorem State.nextGranule_last (s : State) {g : Granule} (hu : g.unit < 4) (hl : g.last = true) (hc : s.asy.checks = []) :
    (s.nextGranule g).rd Reg.ASY_POS g.unit = 0 ∧
    (s.nextGranule g).rd Reg.ASY_PASS_CNT g.unit = (s.rd Reg.ASY_PASS_CNT g.unit + 1) % 2 ^ 32 ∧
    (s.nextGranule g).pass g.unit = { since := s.time } ∧ (s.nextGranule g).io = s.io ∧
    RegsOnly [(Reg.ASY_POS, g.unit), (Reg.ASY_PASS_CNT, g.unit), (Reg.ASY_PASS_LATE, g.unit)] s (s.nextGranule g) := by
  obtain ⟨a, ha⟩ : ∃ a, a = ((s.setPass g.unit ((s.pass g.unit).beyond g.index)).wr Reg.ASY_POS g.unit g.index).count Reg.ASY_PASS_CNT g.unit :=
    ⟨_, rfl⟩
  obtain ⟨hpos, -, hpass, hstart⟩ := a.startPass_spec hu
  have hchecks : (a.startPass g.unit).asy.checks = [] := by rw [ha]; exact hc
  have hnext : s.nextGranule g = { a.startPass g.unit with asy := { (a.startPass g.unit).asy with checks := [] } } := by
    unfold State.nextGranule State.checksDone
    rw [hl, if_pos rfl]
    have hfold : ((s.setPass g.unit { s.pass g.unit with attempts := 0, next := g.index + 1 }).wr Reg.ASY_POS g.unit g.index).count
        Reg.ASY_PASS_CNT g.unit = a := by rw [ha]; rfl
    dsimp only
    rw [hfold, hchecks]
    rfl
  have hcount : (a.startPass g.unit).rd Reg.ASY_PASS_CNT g.unit = (s.rd Reg.ASY_PASS_CNT g.unit + 1) % 2 ^ 32 := by
    unfold State.startPass
    rw [State.wr_rd_asy _ _ (by decide) (by decide) hu hu (.inl (by decide)), State.wr_rd_asy _ _ (by decide) (by decide) hu hu
      (.inl (by decide))]
    show a.rd Reg.ASY_PASS_CNT g.unit = _
    rw [ha, State.count_rd_same', State.wr_rd_asy _ _ (by decide) (by decide) hu hu (.inl (by decide))]
    rfl
  have honly : RegsOnly [(Reg.ASY_POS, g.unit), (Reg.ASY_PASS_CNT, g.unit), (Reg.ASY_PASS_LATE, g.unit)] s a := by
    rw [ha]
    exact RegsOnly.count (RegsOnly.wr (l := [(Reg.ASY_POS, g.unit), (Reg.ASY_PASS_CNT, g.unit), (Reg.ASY_PASS_LATE, g.unit)])
      (fun _ _ _ => rfl) _ _ _ (by simp)) (by simp)
  have htime : a.time = s.time := by rw [ha]; rfl
  have hio : (a.startPass g.unit).io = s.io := by rw [ha]; rfl
  have hall : RegsOnly [(Reg.ASY_POS, g.unit), (Reg.ASY_PASS_CNT, g.unit), (Reg.ASY_PASS_LATE, g.unit)] s (a.startPass g.unit) :=
    honly.trans (hstart.mono (by simp))
  rw [htime] at hpass
  rw [hnext]
  generalize a.startPass g.unit = b at *
  exact ⟨hpos, hcount, hpass, hio, hall⟩

/-! ### Granules -/

section
variable {g : Granule} (hon : s.compares g.unit = true) (hkind : guardUnit g.kind = g.unit) (hnext : (s.pass g.unit).next ≤ g.index)
include hon hkind hnext

/-- The granule is its unit's next. -/
theorem not_granule_skipped :
    ¬ (!(s.elapse dt).compares g.unit || guardUnit g.kind != g.unit || decide (g.index < ((s.elapse dt).pass g.unit).next)) = true := by
  rw [show (s.elapse dt).compares g.unit = true from hon, hkind]
  have hle : ((s.elapse dt).pass g.unit).next ≤ g.index := hnext
  simp only [Bool.not_true, bne_self_eq_false, Bool.or_self, Bool.false_or, decide_eq_true_eq]
  omega

theorem completes_granule_abandoned (hw : g.written = true) (ha : (s.pass g.unit).attempts < 2) :
    Completes (.assayGranuleCheck dt g) s fun t =>
      t.pass g.unit = { s.pass g.unit with attempts := (s.pass g.unit).attempts + 1 } ∧ t.io = s.io ∧ RegsOnly [] s t := by
  have hexec : exec (.assayGranuleCheck dt g) s =
      .next ((s.elapse dt).setPass g.unit { s.pass g.unit with attempts := (s.pass g.unit).attempts + 1 }) := by
    show execAssayGranuleCheck dt g s = _
    unfold execAssayGranuleCheck State.abandonGranule
    dsimp only
    rw [if_neg (not_granule_skipped hon hkind hnext), if_pos hw]
    exact congrArg Host.Outcome.next (if_pos (show (s.pass g.unit).attempts + 1 < 3 by omega))
  exact ⟨_, hexec, State.setPass_pass_same .., rfl, fun _ _ _ => rfl⟩

theorem completes_granule_skipped (hw : g.written = true) (ha : (s.pass g.unit).attempts = 2) (hl : g.last = false) :
    Completes (.assayGranuleCheck dt g) s fun t =>
      (t.pass g.unit).attempts = 0 ∧ t.rd Reg.ASY_SKIP_CNT g.unit = (s.rd Reg.ASY_SKIP_CNT g.unit + 1) % 2 ^ 32 ∧
      Raised t Ev.ASSAY_SKIP srcDevice [(1, g.unit), (2, g.index)] ∧
      RegsOnly [(Reg.ASY_SKIP_CNT, g.unit), (Reg.ASY_POS, g.unit)] s t := by
  have hu := State.compares_lt hon
  obtain ⟨c, hc⟩ : ∃ c, c = ((s.elapse dt).count Reg.ASY_SKIP_CNT g.unit).raise Ev.ASSAY_SKIP srcDevice [(1, g.unit), (2, g.index)] :=
    ⟨_, rfl⟩
  have hexec : exec (.assayGranuleCheck dt g) s = .next (c.nextGranule g) := by
    have h3 : ¬ ((s.elapse dt).pass g.unit).attempts + 1 < 3 := by
      rw [show ((s.elapse dt).pass g.unit).attempts = 2 from ha]
      decide
    show execAssayGranuleCheck dt g s = _
    unfold execAssayGranuleCheck State.abandonGranule
    dsimp only
    rw [if_neg (not_granule_skipped hon hkind hnext), if_pos hw, if_neg h3, hc]
  obtain ⟨-, hpass, hio, honly⟩ := c.nextGranule_more_spec hl
  have hraised : Raised c Ev.ASSAY_SKIP srcDevice [(1, g.unit), (2, g.index)] := by rw [hc]; exact State.raise_raised ..
  have hcount : RegsOnly [(Reg.ASY_SKIP_CNT, g.unit), (Reg.ASY_POS, g.unit)] s c := by
    rw [hc]
    exact (RegsOnly.count (RegsOnly.of_elapse _ s dt) (by simp)).raise _ _ _
  refine ⟨_, hexec, by rw [hpass]; rfl, ?_, hraised.of_io hio, hcount.trans (honly.mono (by simp))⟩
  rw [State.nextGranule_more c hl, State.wr_rd_asy _ _ (by decide) (by decide) hu hu (.inl (by decide)), hc]
  exact State.count_rd_same' (s.elapse dt) Reg.ASY_SKIP_CNT g.unit

/-- A granule that is compared, where the outcome leaves its unit comparing: the unit moves on. -/
theorem exec_granule_compared {c : State} (hw : g.written = false) (hm : g.memErr = false) (hcmp : (s.elapse dt).compare g = c)
    (hc : c.compares g.unit = true) : exec (.assayGranuleCheck dt g) s = .next (c.nextGranule g) := by
  have h2 : ¬ g.written = true := by rw [hw]; decide
  have h3 : ¬ g.memErr = true := by rw [hm]; decide
  show execAssayGranuleCheck dt g s = _
  unfold execAssayGranuleCheck
  dsimp only
  rw [if_neg (not_granule_skipped hon hkind hnext), if_neg h2, if_neg h3, hcmp, if_pos hc]

/-- A granule whose check word is right, where no test alters it, changes nothing. -/
theorem compare_passes (hm : g.memErr = false) (hword : g.word = 0) (hsum : sumA g = g.stored) (hp : s.perturbed 4 = false) :
    (s.elapse dt).compare g = s.elapse dt := by
  have h1 : ¬ g.memErr = true := by rw [hm]; decide
  have h2 : g.word ≤ 1 := by omega
  have h3 : ¬ g.word = 1 := by omega
  have halter : (s.elapse dt).alterCheck g.unit = (s.elapse dt, false) := by
    unfold State.alterCheck
    rw [show (s.elapse dt).perturbed 4 = false from hp]
    rfl
  unfold State.compare
  rw [if_neg h1, if_pos h2, if_pos hsum]
  unfold State.passOrAlter
  rw [halter]
  unfold State.passed
  dsimp only
  rw [if_neg h3]
  rfl

theorem completes_granule_passed (hw : g.written = false) (hm : g.memErr = false) (hword : g.word = 0) (hsum : sumA g = g.stored)
    (hp : s.perturbed 4 = false) (hl : g.last = false) :
    Completes (.assayGranuleCheck dt g) s fun t =>
      t.rd Reg.ASY_POS g.unit = g.index % 2 ^ 16 ∧ (t.pass g.unit).since = (s.pass g.unit).since ∧ (t.pass g.unit).attempts = 0 ∧
      t.io = s.io ∧ RegsOnly [(Reg.ASY_POS, g.unit)] s t := by
  obtain ⟨hpos, hpass, hio, honly⟩ := (s.elapse dt).nextGranule_more_spec hl
  exact ⟨_, exec_granule_compared hon hkind hnext hw hm (compare_passes hon hkind hnext hm hword hsum hp) hon, hpos, by rw [hpass]; rfl,
    by rw [hpass]; rfl, hio, honly⟩

theorem completes_granule_passEnds (hw : g.written = false) (hm : g.memErr = false) (hword : g.word = 0) (hsum : sumA g = g.stored)
    (hp : s.perturbed 4 = false) (hl : g.last = true) (hc : s.asy.checks = []) :
    Completes (.assayGranuleCheck dt g) s fun t =>
      t.rd Reg.ASY_POS g.unit = 0 ∧ t.rd Reg.ASY_PASS_CNT g.unit = (s.rd Reg.ASY_PASS_CNT g.unit + 1) % 2 ^ 32 ∧
      t.pass g.unit = { since := s.time + dt } ∧ t.io = s.io ∧
      RegsOnly [(Reg.ASY_POS, g.unit), (Reg.ASY_PASS_CNT, g.unit), (Reg.ASY_PASS_LATE, g.unit)] s t := by
  exact ⟨_, exec_granule_compared hon hkind hnext hw hm (compare_passes hon hkind hnext hm hword hsum hp) hon,
    (s.elapse dt).nextGranule_last (State.compares_lt hon) hl hc⟩

/-- A comparison that counts and reports, and then moves on. -/
theorem completes_granule_reported {f : Fld} (hf : f ∈ asyFields) (hne : Reg.ASY_POS ≠ f) (hwidth : f.width = 32) {code : Nat}
    {d : List (Nat × Nat)} (hw : g.written = false) (hm : g.memErr = false)
    (hcmp : (s.elapse dt).compare g = ((s.elapse dt).count f g.unit).raise code srcDevice d) (hl : g.last = false) :
    Completes (.assayGranuleCheck dt g) s fun t =>
      t.rd f g.unit = (s.rd f g.unit + 1) % 2 ^ 32 ∧ Raised t code srcDevice d ∧ RegsOnly [(f, g.unit), (Reg.ASY_POS, g.unit)] s t := by
  have hu := State.compares_lt hon
  obtain ⟨c, hc⟩ : ∃ c, c = ((s.elapse dt).count f g.unit).raise code srcDevice d := ⟨_, rfl⟩
  have hcon : c.compares g.unit = true := by rw [hc]; exact (State.count_compares hf hu).trans hon
  obtain ⟨-, -, hio, honly⟩ := c.nextGranule_more_spec hl
  have hraised : Raised c code srcDevice d := by rw [hc]; exact State.raise_raised ..
  have hcount : RegsOnly [(f, g.unit), (Reg.ASY_POS, g.unit)] s c := by
    rw [hc]
    exact (RegsOnly.count (RegsOnly.of_elapse _ s dt) (by simp)).raise _ _ _
  refine ⟨_, exec_granule_compared hon hkind hnext hw hm (hcmp.trans hc.symm) hcon, ?_, hraised.of_io hio,
    hcount.trans (honly.mono (by simp))⟩
  rw [State.nextGranule_more c hl, State.wr_rd_asy _ _ (by decide) hf hu hu (.inl hne), hc, ← hwidth]
  exact State.count_rd_same' (s.elapse dt) f g.unit

theorem completes_granule_mismatch (hw : g.written = false) (hm : g.memErr = false) (hword : g.word ≤ 1) (hA : sumA g ≠ g.stored)
    (hB : sumB g ≠ g.stored) (hk : g.kind = 0) (hl : g.last = false) :
    Completes (.assayGranuleCheck dt g) s fun t =>
      t.rd Reg.ASY_MISMATCH_CNT g.unit = (s.rd Reg.ASY_MISMATCH_CNT g.unit + 1) % 2 ^ 32 ∧
      Raised t Ev.ASSAY_MISMATCH srcDevice [(1, g.unit), (2, g.index), (4, g.stored), (4, sumB g), (1, 0)] ∧
      RegsOnly [(Reg.ASY_MISMATCH_CNT, g.unit), (Reg.ASY_POS, g.unit)] s t := by
  refine completes_granule_reported hon hkind hnext (by decide) (by decide) rfl hw hm ?_ hl
  have h1 : ¬ g.memErr = true := by rw [hm]; decide
  unfold State.compare
  rw [if_neg h1, if_pos hword, if_neg hA, if_neg hB]
  unfold State.mismatch
  rw [hk]
  rfl

theorem completes_granule_regenerated (hw : g.written = false) (hm : g.memErr = false) (hword : 2 ≤ g.word) (hsum : sumA g = sumB g)
    (hl : g.last = false) :
    Completes (.assayGranuleCheck dt g) s fun t =>
      t.rd Reg.ASY_REGEN_CNT g.unit = (s.rd Reg.ASY_REGEN_CNT g.unit + 1) % 2 ^ 32 ∧
      Raised t Ev.CHECK_REGENERATED srcDevice [(1, g.unit), (2, g.index), (4, g.stored), (4, sumA g)] ∧
      RegsOnly [(Reg.ASY_REGEN_CNT, g.unit), (Reg.ASY_POS, g.unit)] s t := by
  refine completes_granule_reported hon hkind hnext (by decide) (by decide) rfl hw hm ?_ hl
  have h1 : ¬ g.memErr = true := by rw [hm]; decide
  unfold State.compare
  rw [if_neg h1, if_neg (show ¬ g.word ≤ 1 by omega), if_pos hsum]

end

/-! ### Late passes and the start of comparing -/

theorem completes_assayPassLate (hon : s.compares u = true) (hlate : s.rdBit Reg.ASY_PASS_LATE u = false) :
    Completes (.assayPassLate dt u) s fun t =>
      t.time = max (s.time + dt) ((s.pass u).since + 2 * s.asyPeriod) ∧ t.rd Reg.ASY_PASS_LATE u = 1 ∧
      Raised t Ev.ASSAY_PASS_LATE srcDevice [(1, u), (2, s.rd Reg.ASY_POS u)] ∧ RegsOnly [(Reg.ASY_PASS_LATE, u)] s t := by
  have hperiod : (s.elapse dt).asyPeriod = s.asyPeriod := by
    unfold State.asyPeriod
    rw [State.elapse_rd, State.elapse_rdBit]
  obtain ⟨due, hdue⟩ : ∃ due, due = (s.pass u).since + 2 * s.asyPeriod := ⟨_, rfl⟩
  obtain ⟨b, hb⟩ : ∃ b, b = (s.elapse dt).untilTime 0 due := ⟨_, rfl⟩
  have htime : b.time = max (s.time + dt) due := by rw [hb]; exact State.untilTime_time ..
  have hregs : b.regs = s.regs := by rw [hb]; rfl
  have hrd (f : Fld) (i : Nat) : b.rd f i = s.rd f i := by rw [State.rd, hregs]; rfl
  have hexec : exec (.assayPassLate dt u) s =
      .next ((b.wr Reg.ASY_PASS_LATE u 1).raise Ev.ASSAY_PASS_LATE srcDevice [(1, u), (2, b.rd Reg.ASY_POS u)]) := by
    have h1 : ¬ (!(s.elapse dt).compares u || (s.elapse dt).rdBit Reg.ASY_PASS_LATE u) = true := by
      rw [show (s.elapse dt).compares u = true from hon, State.elapse_rdBit, hlate]
      decide
    show execAssayPassLate dt u s = _
    unfold execAssayPassLate
    dsimp only
    rw [if_neg h1, hperiod, hb, hdue]
    rfl
  rw [← hdue]
  refine ⟨_, hexec, htime, State.wr_rd_same .., ?_, ?_⟩
  · rw [hrd]
    exact State.raise_raised ..
  · exact (RegsOnly.wr (l := [(Reg.ASY_PASS_LATE, u)]) (fun f i _ => hrd f i) _ _ _ (by simp)).raise _ _ _

/-- The LATE bit of a unit that no pass begins of stands. -/
theorem State.startPasses_late : ∀ (l : List Nat) (s : State), (∀ u ∈ l, u < 4) → ∀ {v : Nat}, v < 4 → v ∉ l →
    (l.foldl State.startPass s).rd Reg.ASY_PASS_LATE v = s.rd Reg.ASY_PASS_LATE v
  | [], _, _, _, _, _ => rfl
  | u :: l, s, hl, v, hv, hin => by
    rw [List.foldl_cons, State.startPasses_late l _ (fun w hw => hl w (List.mem_cons_of_mem _ hw)) hv fun h => hin (List.mem_cons_of_mem _ h)]
    exact (s.startPass_other (hl u List.mem_cons_self) hv fun h => hin (h ▸ List.mem_cons_self)).2.1

/-- Passes begun of the units of a list: each that is in it has begun, and the others stand. -/
theorem State.startPasses_spec : ∀ (l : List Nat) (s : State), (∀ u ∈ l, u < 4) →
    (∀ v, v < 4 → if v ∈ l then (l.foldl State.startPass s).rd Reg.ASY_POS v = 0 ∧ (l.foldl State.startPass s).rd Reg.ASY_PASS_LATE v = 0 ∧
        (l.foldl State.startPass s).pass v = { since := s.time }
      else (l.foldl State.startPass s).rd Reg.ASY_POS v = s.rd Reg.ASY_POS v ∧ (l.foldl State.startPass s).pass v = s.pass v) ∧
    (l.foldl State.startPass s).time = s.time ∧ (l.foldl State.startPass s).addr = s.addr ∧ (l.foldl State.startPass s).io = s.io ∧
    (l.foldl State.startPass s).asy.checks = s.asy.checks ∧
    (l.foldl State.startPass s).rd Reg.ASY_STATE 0 = s.rd Reg.ASY_STATE 0
  | [], s, _ => ⟨fun v _ => by simp, rfl, rfl, rfl, rfl, rfl⟩
  | u :: l, s, hl => by
    have hu : u < 4 := hl u List.mem_cons_self
    obtain ⟨hall, htime, haddr, hio, hchecks, hstate⟩ := State.startPasses_spec l (s.startPass u) fun v hv => hl v (List.mem_cons_of_mem _ hv)
    obtain ⟨hpos, hlate, hpass, -⟩ := s.startPass_spec hu
    have hkeep : (s.startPass u).rd Reg.ASY_STATE 0 = s.rd Reg.ASY_STATE 0 := by
      unfold State.startPass
      rw [State.wr_rd_other _ _ _ _ _ _ (Ne.symm (asyFields_apart _ (by decide) u hu).1),
        State.wr_rd_other _ _ _ _ _ _ (Ne.symm (asyFields_apart _ (by decide) u hu).1)]
      rfl
    refine ⟨fun v hv => ?_, htime, haddr, hio, hchecks, hstate.trans hkeep⟩
    rw [List.foldl_cons]
    have hv' := hall v hv
    have htu : (s.startPass u).time = s.time := rfl
    by_cases hin : v ∈ l
    · rw [if_pos hin, htu] at hv'
      rw [if_pos (List.mem_cons_of_mem _ hin)]
      exact hv'
    · rw [if_neg hin] at hv'
      obtain ⟨hv1, hv2⟩ := hv'
      by_cases huv : v = u
      · subst huv
        have hlate' : (l.foldl State.startPass (s.startPass v)).rd Reg.ASY_PASS_LATE v = 0 :=
          (State.startPasses_late l _ (fun w hw => hl w (List.mem_cons_of_mem _ hw)) hv hin).trans hlate
        rw [if_pos List.mem_cons_self]
        exact ⟨hv1.trans hpos, hlate', hv2.trans hpass⟩
      · obtain ⟨hpos', -, hpass'⟩ := s.startPass_other hu hv huv
        rw [if_neg (by simp [huv, hin])]
        exact ⟨hv1.trans hpos', hv2.trans hpass'⟩

theorem completes_assayCompareStart (hconf : s.sys.configured = true) (hrun : s.halted = false) (hidle : s.rd Reg.ASY_STATE 0 = 0) :
    Completes (.assayCompareStart dt) s fun t =>
      t.rd Reg.ASY_STATE 0 = 1 ∧ t.addr % Config.cyclePos = 0 ∧
      (∀ u, u < 4 → t.rd Reg.ASY_POS u = 0 ∧ t.rd Reg.ASY_PASS_LATE u = 0 ∧ t.pass u = { since := t.time }) := by
  obtain ⟨w, hw⟩ : ∃ w, w = if (s.elapse dt).addr = (s.elapse dt).regs.doneAt.1 then nextCycle (s.elapse dt).addr
    else ceilTo Config.cyclePos (s.elapse dt).addr := ⟨_, rfl⟩
  obtain ⟨b, hb⟩ : ∃ b, b = ((s.elapse dt).waitAddr w).tstTake := ⟨_, rfl⟩
  obtain ⟨c, hc⟩ : ∃ c, c = b.wr Reg.ASY_STATE 0 1 := ⟨_, rfl⟩
  have hexec : exec (.assayCompareStart dt) s = .next ([0, 1, 2, 3].foldl State.startPass c) := by
    have h1 : ¬ (!(s.elapse dt).sys.configured || (s.elapse dt).halted || (s.elapse dt).rd Reg.ASY_STATE 0 != 0) = true := by
      rw [show (s.elapse dt).sys.configured = true from hconf, show (s.elapse dt).halted = false from hrun, State.elapse_rd, hidle]
      decide
    show execAssayCompareStart dt s = _
    unfold execAssayCompareStart
    dsimp only
    rw [if_neg h1, ← hw, ← hb, ← hc]
  have haddrb : b.addr = ((s.elapse dt).waitAddr w).addr := by
    rw [hb]
    exact (State.tstTake_frame (pt := .clock) (by decide) ⟨rfl, rfl⟩).2
  have hwle : (s.elapse dt).addr ≤ w ∧ w % Config.cyclePos = 0 := by
    rw [hw]
    split
    · exact ⟨Nat.le_of_lt (lt_nextCycle _), Nat.mul_mod_left _ _⟩
    · exact ⟨le_ceilTo _ _ (by decide), Nat.mul_mod_left _ _⟩
  have haddr : b.addr = w := by
    rw [haddrb, State.waitAddr_addr (s.elapse dt) w hrun]
    exact Nat.max_eq_right hwle.1
  obtain ⟨hall, htime, haddrs, -, -, hstate⟩ := State.startPasses_spec [0, 1, 2, 3] c (by decide)
  have hcstate : c.rd Reg.ASY_STATE 0 = 1 := by rw [hc]; exact State.wr_rd_same ..
  have hcaddr : c.addr = w := by rw [hc]; exact haddr
  refine ⟨_, hexec, hstate.trans hcstate, by rw [haddrs, hcaddr]; exact hwle.2, fun u hu => ?_⟩
  have hin : u ∈ [0, 1, 2, 3] := by
    simp only [List.mem_cons, List.not_mem_nil, or_false]
    omega
  have hu' := hall u hu
  rw [if_pos hin] at hu'
  rw [htime]
  exact hu'

end

end Sys2Proof.Machine
end


section
/-! PROOFS. Transfer units, ASY_CHECK and ASY_LOOPBACK (R540 to R542, R545), and O56. -/

namespace Sys2Proof.Machine

section
variable {s : State} {dt : Nat} {h : HostRef}

/-! ### Transfer units -/

/-- The transfer after a unit that is taken. -/
def XferSt.took (x : XferSt) (unit : Nat) (u : XferUnit) : XferSt :=
  { x with typ := unitType unit, units := x.units + 1, alive := u.alive, data := x.data ++ u.data }

theorem State.alterCheck_calm (hp : s.perturbed 4 = false) (target : Nat) : s.alterCheck target = (s, false) := by
  unfold State.alterCheck
  rw [hp]
  rfl

/-- A unit with no reason against it is taken where no test alters checks. -/
theorem State.strip_taken (hp : s.perturbed 4 = false) {x : XferSt} (hx : x.refused = none) (unit : Nat) (caused : Bool) {b : List Nat}
    (hr : x.reason (unitType unit) (readXfer b) = none) : s.strip unit caused x b = (s, x.took unit (readXfer b)) := by
  have h1 : ¬ x.refused.isSome = true := by rw [hx]; exact Bool.false_ne_true
  unfold State.strip
  rw [if_neg h1]
  dsimp only
  rw [hr, State.alterCheck_calm hp]
  rfl

/-- A unit with a reason against it refuses the transfer. -/
theorem State.strip_refused {x : XferSt} (hx : x.refused = none) (unit : Nat) (caused : Bool) {b : List Nat} {c : Nat}
    (hr : x.reason (unitType unit) (readXfer b) = some c) : s.strip unit caused x b =
      ((s.count Reg.ASY_SUSPECT_CNT 0).say caused Ev.CHECK_SUSPECT srcDevice
        [(1, unit), (1, (readXfer b).typ), (4, x.units), (1, c)],
       { x.took unit (readXfer b) with refused := some (c, x.units), data := [] }) := by
  have h1 : ¬ x.refused.isSome = true := by rw [hx]; exact Bool.false_ne_true
  unfold State.strip
  rw [if_neg h1]
  dsimp only
  rw [hr]
  rfl

/-- What the refusal of a unit counts and reports. -/
theorem State.suspect_spec (s : State) (caused : Bool) (d : List (Nat × Nat)) :
    ((s.count Reg.ASY_SUSPECT_CNT 0).say caused Ev.CHECK_SUSPECT srcDevice d).rd Reg.ASY_SUSPECT_CNT 0 =
      (s.rd Reg.ASY_SUSPECT_CNT 0 + 1) % 2 ^ 32 ∧
    Raised ((s.count Reg.ASY_SUSPECT_CNT 0).say caused Ev.CHECK_SUSPECT srcDevice d) Ev.CHECK_SUSPECT srcDevice d ∧
    RegsOnly [(Reg.ASY_SUSPECT_CNT, 0)] s ((s.count Reg.ASY_SUSPECT_CNT 0).say caused Ev.CHECK_SUSPECT srcDevice d) := by
  have hregs := (s.count Reg.ASY_SUSPECT_CNT 0).say_regs caused Ev.CHECK_SUSPECT srcDevice d
  refine ⟨?_, State.say_raised .., (RegsOnly.count (RegsOnly.refl [(Reg.ASY_SUSPECT_CNT, 0)] s) (by simp)).of_regs hregs⟩
  rw [State.rd, hregs]
  exact State.count_rd_same' s Reg.ASY_SUSPECT_CNT 0

/-- A unit of a transfer that is open is stripped, and the transfer kept. -/
theorem exec_transferUnitRx {unit : Nat} {u : List Nat} (hopen : s.transferOpen unit = true) {r : State × XferSt}
    (hr : (s.elapse dt).strip unit ((s.elapse dt).transferCaused unit) (tget {} s.asy.xfers unit) u = r) :
    exec (.transferUnitRx dt unit u) s = .next { r.1 with asy := { r.1.asy with xfers := tset r.1.asy.xfers unit r.2 } } := by
  have h1 : ¬ (!(s.elapse dt).transferOpen unit) = true := by
    rw [show (s.elapse dt).transferOpen unit = true from hopen]
    decide
  rw [← hr]
  show execTransferUnitRx dt unit u s = _
  unfold execTransferUnitRx
  exact congrArg Host.Outcome.next (if_neg h1)

theorem completes_transferUnitRx_taken {unit : Nat} {u : List Nat} (hopen : s.transferOpen unit = true)
    (hx : (tget {} s.asy.xfers unit).refused = none) (hr : (tget {} s.asy.xfers unit).reason (unitType unit) (readXfer u) = none)
    (hp : s.perturbed 4 = false) :
    Completes (.transferUnitRx dt unit u) s fun t =>
      tget {} t.asy.xfers unit =
        { typ := unitType unit, units := (tget {} s.asy.xfers unit).units + 1, alive := (readXfer u).alive, refused := none,
          data := (tget {} s.asy.xfers unit).data ++ (readXfer u).data } ∧
      t.io = s.io ∧ RegsOnly [] s t := by
  have hstrip := State.strip_taken (s := s.elapse dt) hp hx unit ((s.elapse dt).transferCaused unit) hr
  have hexec := exec_transferUnitRx hopen hstrip
  generalize readXfer u = b at *
  generalize tget {} s.asy.xfers unit = x at *
  refine ⟨_, hexec, ?_, rfl, fun _ _ _ => rfl⟩
  refine (tget_tset ..).trans ((if_pos rfl).trans ?_)
  unfold XferSt.took
  rw [hx]

theorem completes_transferUnitRx_refused {unit : Nat} {u : List Nat} {c : Nat} (hopen : s.transferOpen unit = true)
    (hx : (tget {} s.asy.xfers unit).refused = none) (hr : (tget {} s.asy.xfers unit).reason (unitType unit) (readXfer u) = some c) :
    Completes (.transferUnitRx dt unit u) s fun t =>
      (tget {} t.asy.xfers unit).refused = some (c, (tget {} s.asy.xfers unit).units) ∧ (tget {} t.asy.xfers unit).data = [] ∧
      t.rd Reg.ASY_SUSPECT_CNT 0 = (s.rd Reg.ASY_SUSPECT_CNT 0 + 1) % 2 ^ 32 ∧
      Raised t Ev.CHECK_SUSPECT srcDevice [(1, unit), (1, (readXfer u).typ), (4, (tget {} s.asy.xfers unit).units), (1, c)] ∧
      RegsOnly [(Reg.ASY_SUSPECT_CNT, 0)] s t := by
  have hstrip := State.strip_refused (s := s.elapse dt) hx unit ((s.elapse dt).transferCaused unit) hr
  obtain ⟨hcnt, hraised, honly⟩ := (s.elapse dt).suspect_spec ((s.elapse dt).transferCaused unit)
    [(1, unit), (1, (readXfer u).typ), (4, (tget {} s.asy.xfers unit).units), (1, c)]
  have hexec := exec_transferUnitRx hopen hstrip
  generalize readXfer u = b at *
  generalize tget {} s.asy.xfers unit = x at *
  generalize ((s.elapse dt).count Reg.ASY_SUSPECT_CNT 0).say ((s.elapse dt).transferCaused unit) Ev.CHECK_SUSPECT srcDevice
    [(1, unit), (1, b.typ), (4, x.units), (1, c)] = a at *
  have hread : tget {} (tset a.asy.xfers unit { x.took unit b with refused := some (c, x.units), data := [] }) unit =
      { x.took unit b with refused := some (c, x.units), data := [] } := by rw [tget_tset, if_pos rfl]
  exact ⟨_, hexec, congrArg XferSt.refused hread, congrArg XferSt.data hread, hcnt, hraised, honly⟩

/-! ### ASY_CHECK -/

theorem completes_asyCheck {mask : Nat} {l : List Nat} (hadm : Admitted s dt h 0 Op.ASY_CHECK) (hmask : mask < 64)
    (hstate : s.rd Reg.ASY_STATE 0 = 1) (hl : l = (List.range 4).filter (fun u => bitOf mask u && s.compares u)) (hne : l ≠ []) :
    Completes (.asyCheck dt h mask) s fun t =>
      t.asy.checks = s.asy.checks ++ [(l, h)] ∧ (s.halted = false → t.addr = nextCycle (s.addr + dt)) ∧
      (∀ u, u ∈ l → t.rd Reg.ASY_POS u = 0 ∧ t.pass u = { since := t.time }) ∧
      (∀ u, u < 4 → u ∉ l → t.rd Reg.ASY_POS u = s.rd Reg.ASY_POS u ∧ t.pass u = s.pass u) ∧ t.io = s.io := by
  refine completes_of_admitted rfl hadm ?_
  obtain ⟨b, hb⟩ : ∃ b, b = (s.elapse dt).waitAddr (nextCycle (s.elapse dt).addr) := ⟨_, rfl⟩
  have hregs : b.regs = s.regs := by rw [hb]; exact State.waitAddr_regs ..
  have hrd (f : Fld) (i : Nat) : b.rd f i = s.rd f i := by rw [State.rd, hregs]; rfl
  have hasy : b.asy = s.asy := by rw [hb, State.waitAddr_asy]; rfl
  have hio : b.io = s.io := by rw [hb, State.waitAddr_io]; rfl
  have hon (u : Nat) : b.compares u = s.compares u := State.compares_congr (hrd _ _) (hrd _ _) u
  have hlt : ∀ u ∈ l, u < 4 := fun u hu => by
    rw [hl] at hu
    exact List.mem_range.mp (List.mem_filter.mp hu).1
  have hlb : (List.range 4).filter (fun u => bitOf mask u && b.compares u) = l := by
    rw [hl]
    exact List.filter_congr fun u _ => by rw [hon]
  have h1 : ¬ 64 ≤ mask := Nat.not_le.mpr hmask
  have h2 : ¬ ((s.elapse dt).rd Reg.ASY_STATE 0 != 1) = true := by rw [State.elapse_rd, hstate]; decide
  have h3 : ¬ l.isEmpty = true := by rw [List.isEmpty_iff]; exact hne
  have haddr (hrun : s.halted = false) : b.addr = nextCycle (s.addr + dt) := by rw [hb]; exact State.elapse_nextCycle_addr hrun dt
  obtain ⟨hall, htime, haddrs, hios, hchecks, -⟩ := State.startPasses_spec l b hlt
  dsimp only
  rw [if_neg h1, if_neg h2, ← hb, hlb, if_neg h3]
  generalize l.foldl State.startPass b = c at *
  refine ⟨by show c.asy.checks ++ _ = _; rw [hchecks, hasy], fun hrun => haddrs.trans (haddr hrun), fun u hu => ?_, fun u hu hnot => ?_,
    hios.trans hio⟩
  · have hu' := hall u (hlt u hu)
    rw [if_pos hu] at hu'
    obtain ⟨hpos, -, hpass⟩ := hu'
    exact ⟨hpos, hpass.trans (by rw [← htime])⟩
  · have hu' := hall u hu
    rw [if_neg hnot] at hu'
    obtain ⟨hpos, hpass⟩ := hu'
    refine ⟨hpos.trans (hrd _ _), hpass.trans ?_⟩
    unfold State.pass
    rw [hasy]

theorem completes_asyCheck_idle {mask : Nat} (hadm : Admitted s dt h 0 Op.ASY_CHECK) (hmask : mask < 64) (hstate : s.rd Reg.ASY_STATE 0 ≠ 1) :
    Completes (.asyCheck dt h mask) s fun t => t.asy = s.asy ∧ Answered t h Op.ASY_CHECK 2 2 [] ∧ RegsOnly [] s t := by
  refine completes_of_admitted rfl hadm ?_
  have h1 : ¬ 64 ≤ mask := Nat.not_le.mpr hmask
  have h2 : ((s.elapse dt).rd Reg.ASY_STATE 0 != 1) = true := by rw [State.elapse_rd]; exact bne_iff_ne.mpr hstate
  rw [if_neg h1, if_pos h2]
  exact ⟨rfl, State.refuse_answered .., RegsOnly.complete (RegsOnly.of_elapse _ s dt) _ _ _ _ _⟩

/-! ### ASY_LOOPBACK -/

theorem State.stripAll_one (s : State) (unit : Nat) (u : List Nat) : s.stripAll unit [u] = s.strip unit true {} u := rfl

/-- The addresses and the length of a loopback are good. -/
theorem not_loopback_bad {src dst bytes : Nat} (hsrc : src % 64 = 0) (hdst : dst % 64 = 0) (hbytes : bytes ≠ 0) :
    ¬ (src % 64 != 0 || dst % 64 != 0 || decide (bytes = 0)) = true := by
  rw [hsrc, hdst]
  simp [hbytes]

theorem completes_asyLoopback {src dst bytes : Nat} {u v : List Nat} (hadm : Admitted s dt h 0 Op.ASY_LOOPBACK) (hsrc : src % 64 = 0)
    (hdst : dst % 64 = 0) (hbytes : bytes ≠ 0) (hu : ({} : XferSt).reason (unitType 5) (readXfer u) = none)
    (hv : ({} : XferSt).reason (unitType 5) (readXfer v) = none) (hp : s.perturbed 4 = false) :
    Completes (.asyLoopback dt h src dst bytes [u] [v]) s fun t =>
      Answered t h Op.ASY_LOOPBACK 0 0 [(4, 1)] ∧ RegsOnly [] s t ∧
      (h.noCpl = true → t.io.mem = memWrite s.io.mem dst (readXfer v).data) := by
  refine completes_of_admitted rfl hadm ?_
  have hone := State.strip_taken (s := s.elapse dt) hp (x := {}) rfl 5 true hu
  have htwo := State.strip_taken (s := s.elapse dt) hp (x := {}) rfl 5 true hv
  have hno : ¬ (({} : XferSt).took 5 (readXfer u)).refused.isSome = true := Bool.false_ne_true
  dsimp only
  rw [if_neg (not_loopback_bad hsrc hdst hbytes), State.stripAll_one, hone]
  dsimp only
  rw [if_neg hno, State.stripAll_one, htwo]
  generalize readXfer v = b at *
  have hdata : (({} : XferSt).took 5 b).data = b.data := List.nil_append _
  have hunits : (({} : XferSt).took 5 b).units = 1 := rfl
  have hnone : (({} : XferSt).took 5 b).refused = none := rfl
  rw [hnone, hdata, hunits]
  dsimp only
  exact ⟨State.complete_answered .., RegsOnly.complete (regsOnly_of_regs rfl _) _ _ _ _ _,
    fun hn => (State.complete_mem_of_noCpl _ hn _ _ _).trans rfl⟩

theorem completes_asyLoopback_refused {src dst bytes : Nat} {u : List Nat} {back : List (List Nat)} {c : Nat}
    (hadm : Admitted s dt h 0 Op.ASY_LOOPBACK) (hsrc : src % 64 = 0) (hdst : dst % 64 = 0) (hbytes : bytes ≠ 0)
    (hu : ({} : XferSt).reason (unitType 5) (readXfer u) = some c) :
    Completes (.asyLoopback dt h src dst bytes [u] back) s fun t =>
      Answered t h Op.ASY_LOOPBACK 2 c [(4, 0)] ∧ t.rd Reg.ASY_SUSPECT_CNT 0 = (s.rd Reg.ASY_SUSPECT_CNT 0 + 1) % 2 ^ 32 ∧
      RegsOnly [(Reg.ASY_SUSPECT_CNT, 0)] s t := by
  refine completes_of_admitted rfl hadm ?_
  have hone := State.strip_refused (s := s.elapse dt) (x := {}) rfl 5 true hu
  have hyes : ({ ({} : XferSt).took 5 (readXfer u) with refused := some (c, 0), data := [] } : XferSt).refused.isSome = true := rfl
  obtain ⟨hcnt, -, honly⟩ := (s.elapse dt).suspect_spec true [(1, 5), (1, (readXfer u).typ), (4, 0), (1, c)]
  dsimp only
  rw [if_neg (not_loopback_bad hsrc hdst hbytes), State.stripAll_one, hone]
  dsimp only
  rw [if_pos hyes]
  generalize ((s.elapse dt).count Reg.ASY_SUSPECT_CNT 0).say true Ev.CHECK_SUSPECT srcDevice
    [(1, 5), (1, (readXfer u).typ), (4, 0), (1, c)] = a at *
  exact ⟨State.complete_answered .., hcnt, RegsOnly.complete (fun f i hf => honly f i hf) _ _ _ _ _⟩

end

/-- Settles O56: the outcomes of a granule's comparison, late passes, the start of comparing, transfer units and the two commands. -/
theorem assayCommandsTakeEffect : Obligations.AssayCommandsTakeEffect := by
  unfold Obligations.AssayCommandsTakeEffect
  intro s dt
  refine ⟨fun g hon hk hn hw ha => completes_granule_abandoned hon hk hn hw ha,
    fun g hon hk hn hw ha hl => completes_granule_skipped hon hk hn hw ha hl,
    fun g hon hk hn hw hm hword hsum hp hl => completes_granule_passed hon hk hn hw hm hword hsum hp hl,
    fun g hon hk hn hw hm hword hsum hp hl hc => completes_granule_passEnds hon hk hn hw hm hword hsum hp hl hc,
    fun g hon hk hn hw hm hword hA hB hkind hl => completes_granule_mismatch hon hk hn hw hm hword hA hB hkind hl,
    fun g hon hk hn hw hm hword hsum hl => completes_granule_regenerated hon hk hn hw hm hword hsum hl,
    fun unit hon hlate => completes_assayPassLate hon hlate,
    fun hconf hrun hidle => completes_assayCompareStart hconf hrun hidle,
    fun unit u hopen hx hr hp => completes_transferUnitRx_taken hopen hx hr hp,
    fun unit u c hopen hx hr => completes_transferUnitRx_refused hopen hx hr,
    fun h mask l hadm hmask hstate hl hne => completes_asyCheck hadm hmask hstate hl hne,
    fun h mask hadm hmask hstate => completes_asyCheck_idle hadm hmask hstate,
    fun h src dst bytes u v hadm hsrc hdst hbytes hu hv hp => completes_asyLoopback hadm hsrc hdst hbytes hu hv hp,
    fun h src dst bytes u back c hadm hsrc hdst hbytes hu => completes_asyLoopback_refused hadm hsrc hdst hbytes hu⟩

end Sys2Proof.Machine
end


section
/-! PROOFS. The security block (R546 to R566), and O57. -/

namespace Sys2Proof.Machine

section
variable {s t : State} {dt : Nat} {h : HostRef} {e : List Nat}

/-! ### The nonce -/

/-- The words of the nonce register take the first `n` values of a sequence. -/
def State.wrNonces (s : State) (v : Nat → Nat) (n : Nat) : State := (List.range n).foldl (fun a i => a.wr Reg.SEC_NONCE i (v i)) s

theorem State.wrNonces_succ (s : State) (v : Nat → Nat) (n : Nat) :
    s.wrNonces v (n + 1) = (s.wrNonces v n).wr Reg.SEC_NONCE n (v n) := by
  unfold State.wrNonces
  rw [List.range_succ, List.foldl_append]
  rfl

theorem nonce_key_inj {i j : Nat} (h : i ≠ j) : Reg.SEC_NONCE.key i ≠ Reg.SEC_NONCE.key j := by
  simp only [Fld.key, Reg.SEC_NONCE]
  omega

theorem State.wrNonces_rd (s : State) (v : Nat → Nat) (n : Nat) : ∀ i, i < n → (s.wrNonces v n).rd Reg.SEC_NONCE i = v i % 2 ^ 32 := by
  induction n with
  | zero => exact fun i hi => absurd hi (Nat.not_lt_zero i)
  | succ n ih =>
    intro i hi
    rw [State.wrNonces_succ]
    by_cases hin : i = n
    · rw [hin, State.wr_rd_same]
      rfl
    · rw [State.wr_rd_other _ _ _ _ _ _ (nonce_key_inj hin)]
      exact ih i (by omega)

theorem State.wrNonces_regsOnly (s : State) (v : Nat → Nat) (n : Nat) :
    RegsOnly ((List.range n).map fun i => (Reg.SEC_NONCE, i)) s (s.wrNonces v n) := by
  induction n with
  | zero => exact RegsOnly.refl _ s
  | succ n ih =>
    rw [State.wrNonces_succ, List.range_succ, List.map_append]
    exact (ih.mono fun e he => List.mem_append_left _ he).wr _ _ _ (List.mem_append_right _ (by simp))

/-- The words of the nonce are written beside everything else. -/
theorem State.wrNonces_eq (s : State) (v : Nat → Nat) (n : Nat) : ∃ r, s.wrNonces v n = { s with regs := r } := by
  induction n with
  | zero => exact ⟨s.regs, rfl⟩
  | succ n ih =>
    obtain ⟨r, hr⟩ := ih
    obtain ⟨s', hs'⟩ : ∃ s', s' = s.wrNonces v n := ⟨_, rfl⟩
    rw [State.wrNonces_succ, ← hs']
    rw [← hs'] at hr
    exact ⟨(s'.wr Reg.SEC_NONCE n (v n)).regs, by rw [hr]; rfl⟩

theorem State.dropNonce_eq (s : State) : s.dropNonce = (s.wrBit Reg.SEC_NONCE_VALID 0 false).wrNonces (fun _ => 0) 8 := rfl

/-- Dropping the nonce changes only registers. -/
theorem State.dropNonce_same (s : State) : ∃ r, s.dropNonce = { s with regs := r } := by
  obtain ⟨r, hr⟩ := State.wrNonces_eq (s.wrBit Reg.SEC_NONCE_VALID 0 false) (fun _ => 0) 8
  exact ⟨r, (State.dropNonce_eq s).trans hr⟩

theorem completes_nonceExpiry (hv : s.rdBit Reg.SEC_NONCE_VALID 0 = true) :
    Completes (.nonceExpiry dt) s fun t =>
      t.time = max (s.time + dt) (s.sec.nonceAt + 600 * Config.secondPos) ∧ t.rd Reg.SEC_NONCE_VALID 0 = 0 ∧
      (∀ i, i < 8 → t.rd Reg.SEC_NONCE i = 0) ∧ t.io = s.io := by
  obtain ⟨due, hdue⟩ : ∃ due, due = s.sec.nonceAt + 600 * Config.secondPos := ⟨_, rfl⟩
  obtain ⟨b, hb⟩ : ∃ b, b = (s.elapse dt).untilTime 0 due := ⟨_, rfl⟩
  have htime : b.time = max (s.time + dt) due := by rw [hb]; exact State.untilTime_time ..
  have hio : b.io = s.io := by rw [hb]; rfl
  have hexec : exec (.nonceExpiry dt) s = .next b.dropNonce := by
    show execNonceExpiry dt s = _
    unfold execNonceExpiry
    dsimp only
    rw [if_pos (show (s.elapse dt).rdBit Reg.SEC_NONCE_VALID 0 = true from hv), hb, hdue]
    rfl
  obtain ⟨r, hr⟩ := b.dropNonce_same
  have hio' : b.dropNonce.io = b.io := by rw [hr]
  have htime' : b.dropNonce.time = b.time := by rw [hr]
  rw [← hdue]
  exact ⟨_, hexec, htime'.trans htime, b.dropNonce_spec.1,
    State.wrNonces_rd (b.wrBit Reg.SEC_NONCE_VALID 0 false) (fun _ => 0) 8, hio'.trans hio⟩

theorem completes_secChallenge {host : Nat} (hadm : Admitted s dt h 0 Op.SEC_CHALLENGE) (halign : host % 64 = 0)
    (hok : s.rdBit Reg.SEC_TRNG_OK 0 = true) :
    Completes (.secChallenge dt h host) s fun t =>
      t.rd Reg.SEC_NONCE_VALID 0 = 1 ∧ t.sec.nonceAt = s.time + dt ∧
      (∃ n, n < 2 ^ 256 ∧ (∀ i, i < 8 → t.rd Reg.SEC_NONCE i = n / 2 ^ (32 * i) % 2 ^ 32) ∧
        Answered t h Op.SEC_CHALLENGE 0 0 [(12, n % 2 ^ 96)] ∧
        (h.noCpl = true → t.io.mem = memWrite s.io.mem host (leBytes 32 n))) ∧
      RegsOnly ((Reg.SEC_NONCE_VALID, 0) :: (List.range 8).map (fun i => (Reg.SEC_NONCE, i))) s t := by
  refine completes_of_admitted rfl hadm ?_
  have h1 : ¬ (host % 64 != 0) = true := by rw [halign]; decide
  have h2 : ¬ (!(s.elapse dt).rdBit Reg.SEC_TRNG_OK 0) = true := by rw [State.elapse_rdBit, hok]; decide
  obtain ⟨n, hn⟩ : ∃ n, n = Config.freeRandom (s.elapse dt).freeCtr % 2 ^ 256 := ⟨_, rfl⟩
  have hlt : n < 2 ^ 256 := by rw [hn]; exact Nat.mod_lt _ (Nat.two_pow_pos _)
  obtain ⟨a, ha⟩ : ∃ a : State, a = ({ (s.elapse dt).draw with sec := { (s.elapse dt).draw.sec with
    nonceAt := (s.elapse dt).draw.time } } : State).wrBit Reg.SEC_NONCE_VALID 0 true := ⟨_, rfl⟩
  have hissue : (s.elapse dt).draw.issueNonce n = a.wrNonces (fun i => n / 2 ^ (32 * i)) 8 := by rw [ha]; rfl
  have hvalid : a.rd Reg.SEC_NONCE_VALID 0 = 1 := by rw [ha]; exact State.wrBit_rd_same ..
  have hat : a.sec.nonceAt = s.time + dt := by rw [ha]; rfl
  have hmem : a.io.mem = s.io.mem := by rw [ha]; rfl
  have honly : RegsOnly [(Reg.SEC_NONCE_VALID, 0)] s a := by
    rw [ha]
    exact RegsOnly.wrBit (fun _ _ _ => rfl) (by simp)
  have hrd := a.wrNonces_rd (fun i => n / 2 ^ (32 * i)) 8
  have hregs := a.wrNonces_regsOnly (fun i => n / 2 ^ (32 * i)) 8
  obtain ⟨r, hr⟩ := a.wrNonces_eq (fun i => n / 2 ^ (32 * i)) 8
  have hsec : (a.wrNonces (fun i => n / 2 ^ (32 * i)) 8).sec = a.sec := by rw [hr]
  have hio : (a.wrNonces (fun i => n / 2 ^ (32 * i)) 8).io = a.io := by rw [hr]
  dsimp only
  rw [if_neg h1, if_neg h2, ← hn, hissue]
  generalize a.wrNonces (fun i => n / 2 ^ (32 * i)) 8 = b at *
  refine ⟨(hregs Reg.SEC_NONCE_VALID 0 (by decide)).trans hvalid, (congrArg SecSt.nonceAt hsec).trans hat,
    ⟨n, hlt, hrd, State.complete_answered .., fun hno => ?_⟩, ?_⟩
  · refine (State.complete_mem_of_noCpl _ hno _ _ _).trans ?_
    show memWrite b.io.mem host _ = _
    rw [hio, hmem]
  · refine RegsOnly.complete ?_ _ _ _ _ _
    exact RegsOnly.trans (honly.mono (by simp)) (RegsOnly.of_regs (hregs.mono fun e he => List.mem_cons_of_mem _ he) rfl)

/-! ### The TRNG, attestation and the certificate -/

/-- A health test's change: the tests that fail, and whether none does. -/
theorem exec_secTrngFail {test : Nat} {fails : Bool} {l : List Nat} (hnew : s.sec.failing.contains test ≠ fails)
    (hl : (if fails then s.sec.failing ++ [test] else s.sec.failing.filter (fun t => t != test)) = l) :
    exec (.secTrngFail dt test fails) s =
      .next ((({ s.elapse dt with sec := { (s.elapse dt).sec with failing := l } } : State).wrBit Reg.SEC_TRNG_OK 0 l.isEmpty).raise
        Ev.SEC_TRNG_FAIL srcDevice [(1, test), (1, ofBool fails)]) := by
  have h1 : ¬ ((s.elapse dt).sec.failing.contains test == fails) = true := by
    rw [beq_iff_eq]
    exact hnew
  subst hl
  show execSecTrngFail dt test fails s = _
  unfold execSecTrngFail
  exact congrArg Host.Outcome.next (if_neg h1)

theorem completes_secTrngFail (test : Nat) (hnew : s.sec.failing.contains test = false) :
    Completes (.secTrngFail dt test true) s fun t =>
      t.sec.failing = s.sec.failing ++ [test] ∧ t.rd Reg.SEC_TRNG_OK 0 = 0 ∧
      Raised t Ev.SEC_TRNG_FAIL srcDevice [(1, test), (1, 1)] ∧ RegsOnly [(Reg.SEC_TRNG_OK, 0)] s t := by
  refine ⟨_, exec_secTrngFail (by rw [hnew]; decide) rfl, rfl, ?_, State.raise_raised .., ?_⟩
  · rw [State.raise_rd, State.wrBit_rd_same]
    have hne : (if true = true then s.sec.failing ++ [test] else s.sec.failing.filter (fun t => t != test)).isEmpty = false := by simp
    rw [hne]
    rfl
  · exact (RegsOnly.wrBit (l := [(Reg.SEC_TRNG_OK, 0)]) (fun _ _ _ => rfl) (by simp)).raise _ _ _

theorem completes_secTrngFail_recovers (test : Nat) (hone : s.sec.failing = [test]) :
    Completes (.secTrngFail dt test false) s fun t =>
      t.sec.failing = [] ∧ t.rd Reg.SEC_TRNG_OK 0 = 1 ∧ Raised t Ev.SEC_TRNG_FAIL srcDevice [(1, test), (1, 0)] ∧
      RegsOnly [(Reg.SEC_TRNG_OK, 0)] s t := by
  have hl : (if false = true then s.sec.failing ++ [test] else s.sec.failing.filter (fun t => t != test)) = [] := by
    rw [hone]
    simp
  refine ⟨_, exec_secTrngFail (by rw [hone]; simp) hl, rfl, ?_, State.raise_raised .., ?_⟩
  · rw [State.raise_rd, State.wrBit_rd_same]
    rfl
  · exact (RegsOnly.wrBit (l := [(Reg.SEC_TRNG_OK, 0)]) (fun _ _ _ => rfl) (by simp)).raise _ _ _

theorem completes_secAttest {nonce : List Nat} {host : Nat} (hadm : Admitted s dt h 0 Op.SEC_ATTEST) (halign : host % 64 = 0)
    (hlife : s.rd Reg.SEC_LIFECYCLE 0 ≠ 3) (hok : s.rdBit Reg.SEC_TRNG_OK 0 = true) :
    Completes (.secAttest dt h nonce host) s fun t =>
      Answered t h Op.SEC_ATTEST 0 0 [] ∧ RegsOnly [] s t ∧ t.sec = s.sec ∧
      (h.noCpl = true → ∃ sig : List Nat, sig.length = 64 ∧
        t.io.mem = memWrite s.io.mem host ((s.elapse dt).report nonce ++ sig)) := by
  refine completes_of_admitted rfl hadm ?_
  have h1 : ¬ (host % 64 != 0) = true := by rw [halign]; decide
  have h2 : ¬ (s.elapse dt).rd Reg.SEC_LIFECYCLE 0 = 3 := hlife
  have h3 : ¬ (!(s.elapse dt).rdBit Reg.SEC_TRNG_OK 0) = true := by rw [State.elapse_rdBit, hok]; decide
  rw [if_neg h1, if_neg h2, if_neg h3]
  obtain ⟨sig, hsig⟩ : ∃ sig, sig = leBytes 64 (Config.identitySign (s.elapse dt).serial ((s.elapse dt).report nonce)) := ⟨_, rfl⟩
  have hlen : sig.length = 64 := by rw [hsig]; exact length_leBytes ..
  rw [← hsig]
  generalize (s.elapse dt).report nonce = body
  exact ⟨State.done_answered .., RegsOnly.done (regsOnly_of_regs rfl _) _ _, rfl,
    fun hno => ⟨sig, hlen, (State.done_mem_of_noCpl _ hno _).trans rfl⟩⟩

theorem completes_secAttest_end {nonce : List Nat} {host : Nat} (hadm : Admitted s dt h 0 Op.SEC_ATTEST) (halign : host % 64 = 0)
    (hlife : s.rd Reg.SEC_LIFECYCLE 0 = 3) :
    Completes (.secAttest dt h nonce host) s fun t => Answered t h Op.SEC_ATTEST 2 8 [] ∧ RegsOnly [] s t := by
  refine completes_of_admitted rfl hadm ?_
  have h1 : ¬ (host % 64 != 0) = true := by rw [halign]; decide
  rw [if_neg h1, if_pos (show (s.elapse dt).rd Reg.SEC_LIFECYCLE 0 = 3 from hlife)]
  exact ⟨State.refuse_answered .., RegsOnly.complete (RegsOnly.of_elapse _ s dt) _ _ _ _ _⟩

theorem completes_secCertRead {host : Nat} (hadm : Admitted s dt h 0 Op.SEC_CERT_READ) :
    Completes (.secCertRead dt h host) s fun t =>
      Answered t h Op.SEC_CERT_READ 0 0 [(2, s.certificate.length)] ∧ RegsOnly [] s t ∧
      (h.noCpl = true → t.io.mem = memWrite s.io.mem host s.certificate) := by
  refine completes_of_admitted rfl hadm ?_
  have hcert : (s.elapse dt).certificate = s.certificate := rfl
  rw [hcert]
  generalize s.certificate = cert
  exact ⟨State.complete_answered .., RegsOnly.complete (regsOnly_of_regs rfl _) _ _ _ _ _,
    fun hno => (State.complete_mem_of_noCpl _ hno _ _ _).trans rfl⟩

/-! ### Envelopes -/

/-- An envelope accepted leaves the registers but the nonce's. -/
theorem State.envAccepted_regs (s : State) (e : List Nat) :
    RegsOnly ((Reg.SEC_NONCE_VALID, 0) :: (List.range 8).map (fun i => (Reg.SEC_NONCE, i))) s (s.envAccepted e) :=
  (State.envAccepted_spec s e).2.2.2

/-- An envelope accepted extends a measurement, and changes nothing else beside the registers. -/
theorem State.envAccepted_same (s : State) (e : List Nat) :
    ∃ r m, s.envAccepted e = { s with regs := r, sec := { s.sec with meas := m } } := by
  obtain ⟨r, hr⟩ := s.dropNonce_same
  unfold State.envAccepted
  rw [hr]
  exact ⟨r, _, rfl⟩

/-- An envelope for a move into PROVISIONED is judged as any other. -/
theorem State.checkEnvelope_fresh_ok {op : Nat} (hc : (s.envelopeCause op true e).1 = 0) (caused : Bool) :
    s.checkEnvelope op true caused e = (s.envAccepted e, .ok (s.envelopeCause op true e).2) := by
  unfold State.checkEnvelope
  dsimp only
  rw [hc]
  rfl

/-- One that fails keeps the nonce, whatever its cause. -/
theorem State.checkEnvelope_fresh_bad {op : Nat} (hc : (s.envelopeCause op true e).1 ≠ 0) (caused : Bool) :
    s.checkEnvelope op true caused e = ((s.count Reg.SEC_ENV_BAD_CNT 0).say caused Ev.SEC_ENVELOPE_BAD srcDevice
      [(2, op), (1, (s.envelopeCause op true e).1), (4, s.rd Reg.SEC_SERIAL_LO 0)], .error (s.envelopeCause op true e).1) := by
  generalize hr : s.envelopeCause op true e = r at *
  have hkeep : ¬ (decide (r.1 = 0) || (decide (r.1 = 6) && !true)) = true := by simp [hc]
  unfold State.checkEnvelope
  dsimp only
  rw [hr, if_neg hkeep, if_neg hc]

/-! ### The lifecycle -/

theorem completes_secLifecycle (hadm : Admitted s dt h 0 Op.SEC_LIFECYCLE) (hlife : s.rd Reg.SEC_LIFECYCLE 0 = 0) :
    Completes (.secLifecycle dt h e) s fun t =>
      let c := s.envelopeCause Op.SEC_LIFECYCLE true e
      (c.1 = 0 → c.2.getD 0 0 = 1 →
        t.rd Reg.SEC_LIFECYCLE 0 = 1 ∧ t.rd Reg.SEC_OPKEY_SLOT 0 = 0 ∧ tfind t.sec.opkeys 0 = some ((c.2.drop 4).take 32) ∧
        t.rd Reg.SEC_NONCE_VALID 0 = 0 ∧ Raised t Ev.SEC_LIFECYCLE_CHANGED srcDevice [(1, 0), (1, 1)] ∧
        Answered t h Op.SEC_LIFECYCLE 0 0 []) ∧
      (c.1 ≠ 0 → t.rd Reg.SEC_LIFECYCLE 0 = 0 ∧ t.sec.opkeys = s.sec.opkeys ∧
        t.rd Reg.SEC_ENV_BAD_CNT 0 = (s.rd Reg.SEC_ENV_BAD_CNT 0 + 1) % 2 ^ 32 ∧
        Raised t Ev.SEC_ENVELOPE_BAD srcDevice [(2, Op.SEC_LIFECYCLE), (1, c.1), (4, s.rd Reg.SEC_SERIAL_LO 0)] ∧
        Answered t h Op.SEC_LIFECYCLE 2 (c.1 + 1) []) := by
  refine completes_of_admitted rfl hadm ?_
  obtain ⟨a, ha⟩ : ∃ a, a = s.elapse dt := ⟨_, rfl⟩
  have hcause : a.envelopeCause Op.SEC_LIFECYCLE true e = s.envelopeCause Op.SEC_LIFECYCLE true e := by rw [ha]; rfl
  have hnow : a.rd Reg.SEC_LIFECYCLE 0 = 0 := by rw [ha]; exact hlife
  have hserial : a.rd Reg.SEC_SERIAL_LO 0 = s.rd Reg.SEC_SERIAL_LO 0 := by rw [ha]; rfl
  have hbadcnt : a.rd Reg.SEC_ENV_BAD_CNT 0 = s.rd Reg.SEC_ENV_BAD_CNT 0 := by rw [ha]; rfl
  have hkeys : a.sec.opkeys = s.sec.opkeys := by rw [ha]; rfl
  rw [← ha]
  dsimp only
  rw [hnow, if_neg (show ¬ (0 = 3) by decide), show ((0 : Nat) == 0) = true from rfl]
  by_cases hc : (s.envelopeCause Op.SEC_LIFECYCLE true e).1 = 0
  · rw [State.checkEnvelope_fresh_ok (by rw [hcause]; exact hc), hcause]
    refine ⟨fun _ hnew => ?_, fun hbad => absurd hc hbad⟩
    generalize (s.envelopeCause Op.SEC_LIFECYCLE true e).2 = p at hnew ⊢
    obtain ⟨b, hb⟩ : ∃ b, b = a.envAccepted e := ⟨_, rfl⟩
    have hvalid : b.rd Reg.SEC_NONCE_VALID 0 = 0 := by rw [hb]; exact (State.envAccepted_spec a e).1
    have hblife : b.rd Reg.SEC_LIFECYCLE 0 = 0 := by rw [hb, State.envAccepted_regs a e _ _ (by decide)]; exact hnow
    have hmove : b.moveLifecycle 1 p = (((({ b with sec := { b.sec with opkeys := tset b.sec.opkeys 0 ((p.drop 4).take 32) } } : State).wr
        Reg.SEC_OPKEY_SLOT 0 0).wr Reg.SEC_LIFECYCLE 0 1).raiseC Ev.SEC_LIFECYCLE_CHANGED srcDevice
        [(1, b.rd Reg.SEC_LIFECYCLE 0), (1, 1)]) := rfl
    rw [← hb]
    dsimp only
    rw [hnew, if_neg (show ¬ (decide (1 = 0) || decide (3 < 1)) = true by decide), if_neg (show ¬ (1 != 0 + 1) = true by decide), hmove,
      hblife]
    obtain ⟨c, hcdef⟩ : ∃ c : State, c = { b with sec := { b.sec with opkeys := tset b.sec.opkeys 0 ((p.drop 4).take 32) } } := ⟨_, rfl⟩
    have hckey : tfind c.sec.opkeys 0 = some ((p.drop 4).take 32) := by rw [hcdef]; exact tfind_tset_same _ _ _
    have hcvalid : c.rd Reg.SEC_NONCE_VALID 0 = 0 := by rw [hcdef]; exact hvalid
    rw [← hcdef]
    obtain ⟨d, hd⟩ : ∃ d, d = (c.wr Reg.SEC_OPKEY_SLOT 0 0).wr Reg.SEC_LIFECYCLE 0 1 := ⟨_, rfl⟩
    have hdlife : d.rd Reg.SEC_LIFECYCLE 0 = 1 := by rw [hd]; exact State.wr_rd_same ..
    have hdslot : d.rd Reg.SEC_OPKEY_SLOT 0 = 0 := by
      rw [hd, State.wr_rd_other _ _ _ _ _ _ (by decide)]
      exact State.wr_rd_same ..
    have hdvalid : d.rd Reg.SEC_NONCE_VALID 0 = 0 := by
      rw [hd, State.wr_rd_other _ _ _ _ _ _ (by decide), State.wr_rd_other _ _ _ _ _ _ (by decide)]
      exact hcvalid
    have hdkey : tfind d.sec.opkeys 0 = some ((p.drop 4).take 32) := by rw [hd]; exact hckey
    rw [← hd]
    exact ⟨hdlife, hdslot, hdkey, hdvalid, (State.raiseC_raised ..).done .., State.done_answered ..⟩
  · rw [State.checkEnvelope_fresh_bad (by rw [hcause]; exact hc), hcause]
    generalize (s.envelopeCause Op.SEC_LIFECYCLE true e).1 = cause at hc ⊢
    refine ⟨fun hok => absurd hok hc, fun _ => ?_⟩
    obtain ⟨b, hb⟩ : ∃ b, b = (a.count Reg.SEC_ENV_BAD_CNT 0).say true Ev.SEC_ENVELOPE_BAD srcDevice
      [(2, Op.SEC_LIFECYCLE), (1, cause), (4, a.rd Reg.SEC_SERIAL_LO 0)] := ⟨_, rfl⟩
    have hregs : b.regs = (a.count Reg.SEC_ENV_BAD_CNT 0).regs := by rw [hb]; exact State.say_regs ..
    have hraised : Raised b Ev.SEC_ENVELOPE_BAD srcDevice [(2, Op.SEC_LIFECYCLE), (1, cause), (4, s.rd Reg.SEC_SERIAL_LO 0)] := by
      rw [hb, hserial]
      exact State.say_raised ..
    have hblife : b.rd Reg.SEC_LIFECYCLE 0 = 0 := by
      rw [State.rd, hregs, ← State.rd, State.count_eq, State.wr_rd_other _ _ _ _ _ _ (by decide)]
      exact hnow
    have hbcnt : b.rd Reg.SEC_ENV_BAD_CNT 0 = (s.rd Reg.SEC_ENV_BAD_CNT 0 + 1) % 2 ^ 32 := by
      rw [State.rd, hregs, ← State.rd, State.count_rd_same', hbadcnt]
      rfl
    have hbkeys : b.sec.opkeys = s.sec.opkeys := by rw [hb]; exact hkeys
    rw [← hb]
    exact ⟨hblife, hbkeys, hbcnt, hraised.complete .., State.refuse_answered ..⟩

theorem completes_secLifecycle_end (hadm : Admitted s dt h 0 Op.SEC_LIFECYCLE) (hlife : s.rd Reg.SEC_LIFECYCLE 0 = 3) :
    Completes (.secLifecycle dt h e) s fun t => t.sec = s.sec ∧ Answered t h Op.SEC_LIFECYCLE 2 8 [] ∧ RegsOnly [] s t := by
  refine completes_of_admitted rfl hadm ?_
  dsimp only
  rw [if_pos (show (s.elapse dt).rd Reg.SEC_LIFECYCLE 0 = 3 from hlife)]
  exact ⟨rfl, State.refuse_answered .., RegsOnly.complete (RegsOnly.of_elapse _ s dt) _ _ _ _ _⟩

/-! ### Operator keys -/

/-- What an envelope that failed leaves of the security block beside the nonce and the counter. -/
theorem State.envFailed_kept (s : State) (op cause : Nat) (caused : Bool) :
    (s.envFailed op cause caused).sec = s.sec ∧
    RegsOnly ((Reg.SEC_ENV_BAD_CNT, 0) :: (Reg.SEC_NONCE_VALID, 0) :: (List.range 8).map (fun i => (Reg.SEC_NONCE, i))) s
      (s.envFailed op cause caused) := by
  unfold State.envFailed
  obtain ⟨b, hb⟩ : ∃ b, b = if cause = 6 then s.dropNonce else s := ⟨_, rfl⟩
  have hsec : b.sec = s.sec := by
    rw [hb]
    split
    · obtain ⟨r, hr⟩ := s.dropNonce_same
      rw [hr]
    · rfl
  have honly : RegsOnly ((Reg.SEC_ENV_BAD_CNT, 0) :: (Reg.SEC_NONCE_VALID, 0) :: (List.range 8).map (fun i => (Reg.SEC_NONCE, i))) s b := by
    rw [hb]
    split
    · exact s.dropNonce_spec.2.mono fun e he => List.mem_cons_of_mem _ he
    · exact RegsOnly.refl _ s
  rw [← hb]
  refine ⟨?_, (honly.count (by simp)).of_regs (State.say_regs ..)⟩
  have hsay : ((b.count Reg.SEC_ENV_BAD_CNT 0).say caused Ev.SEC_ENVELOPE_BAD srcDevice
      [(2, op), (1, cause), (4, s.rd Reg.SEC_SERIAL_LO 0)]).sec = b.sec :=
    State.say_frame (pt := .sec) (by decide) (State.count_frame (pt := .sec) (by decide) (Part.same_refl _ b))
  exact hsay.trans hsec

theorem completes_secOpkeyRotate (hadm : Admitted s dt h 0 Op.SEC_OPKEY_ROTATE) (hop : s.operatorState = true)
    (hslot : s.rd Reg.SEC_OPKEY_SLOT 0 < 3) :
    Completes (.secOpkeyRotate dt h e) s fun t =>
      let c := s.envelopeCause Op.SEC_OPKEY_ROTATE false e
      (c.1 = 0 →
        t.rd Reg.SEC_OPKEY_SLOT 0 = s.rd Reg.SEC_OPKEY_SLOT 0 + 1 ∧
        tfind t.sec.opkeys (s.rd Reg.SEC_OPKEY_SLOT 0 + 1) = some (c.2.take 32) ∧ t.rd Reg.SEC_NONCE_VALID 0 = 0 ∧
        Answered t h Op.SEC_OPKEY_ROTATE 0 0 []) ∧
      (c.1 ≠ 0 → t.sec.opkeys = s.sec.opkeys ∧ t.rd Reg.SEC_OPKEY_SLOT 0 = s.rd Reg.SEC_OPKEY_SLOT 0 ∧
        Answered t h Op.SEC_OPKEY_ROTATE 2 (c.1 + 1) []) := by
  refine completes_of_admitted rfl hadm ?_
  obtain ⟨a, ha⟩ : ∃ a, a = s.elapse dt := ⟨_, rfl⟩
  have hcause : a.envelopeCause Op.SEC_OPKEY_ROTATE false e = s.envelopeCause Op.SEC_OPKEY_ROTATE false e := by rw [ha]; rfl
  have hop' : ¬ (!a.operatorState) = true := by rw [show a.operatorState = true by rw [ha]; exact hop]; decide
  obtain ⟨k, hk⟩ : ∃ k, k = s.rd Reg.SEC_OPKEY_SLOT 0 := ⟨_, rfl⟩
  have hak : a.rd Reg.SEC_OPKEY_SLOT 0 = k := by rw [ha, hk]; rfl
  have hkeys : a.sec.opkeys = s.sec.opkeys := by rw [ha]; rfl
  rw [← hk] at hslot ⊢
  rw [← ha, if_neg hop']
  by_cases hc : (s.envelopeCause Op.SEC_OPKEY_ROTATE false e).1 = 0
  · rw [State.checkEnvelope_ok (by rw [hcause]; exact hc), hcause]
    refine ⟨fun _ => ?_, fun hbad => absurd hc hbad⟩
    generalize (s.envelopeCause Op.SEC_OPKEY_ROTATE false e).2 = p
    obtain ⟨b, hb⟩ : ∃ b, b = a.envAccepted e := ⟨_, rfl⟩
    have hvalid : b.rd Reg.SEC_NONCE_VALID 0 = 0 := by rw [hb]; exact (State.envAccepted_spec a e).1
    have hbk : b.rd Reg.SEC_OPKEY_SLOT 0 = k := by rw [hb, State.envAccepted_regs a e _ _ (by decide)]; exact hak
    rw [← hb]
    dsimp only
    rw [hbk, if_neg (show ¬ 3 ≤ k by omega)]
    obtain ⟨c, hcdef⟩ : ∃ c, c = b.takeOpkey (k + 1) p := ⟨_, rfl⟩
    have hck : c.rd Reg.SEC_OPKEY_SLOT 0 = k + 1 := by
      rw [hcdef]
      refine (State.wr_rd_same ..).trans (Nat.mod_eq_of_lt (show k + 1 < 16 by omega))
    have hckey : tfind c.sec.opkeys (k + 1) = some (p.take 32) := by rw [hcdef]; exact tfind_tset_same _ _ _
    have hcvalid : c.rd Reg.SEC_NONCE_VALID 0 = 0 := by
      rw [hcdef]
      exact (State.wr_rd_other _ _ _ _ _ _ (by decide)).trans hvalid
    rw [← hcdef]
    exact ⟨hck, hckey, hcvalid, State.done_answered ..⟩
  · rw [State.checkEnvelope_bad (by rw [hcause]; exact hc), hcause]
    dsimp only
    generalize (s.envelopeCause Op.SEC_OPKEY_ROTATE false e).1 = cause at hc ⊢
    refine ⟨fun hok => absurd hok hc, fun _ => ?_⟩
    obtain ⟨hsec, honly⟩ := a.envFailed_kept Op.SEC_OPKEY_ROTATE cause true
    generalize a.envFailed Op.SEC_OPKEY_ROTATE cause true = b at *
    exact ⟨(congrArg SecSt.opkeys hsec).trans hkeys, (honly _ _ (by decide)).trans hak, State.refuse_answered ..⟩

theorem completes_secOpkeyRotate_shut (hadm : Admitted s dt h 0 Op.SEC_OPKEY_ROTATE) (hop : s.operatorState = false) :
    Completes (.secOpkeyRotate dt h e) s fun t => t.sec = s.sec ∧ Answered t h Op.SEC_OPKEY_ROTATE 2 8 [] ∧ RegsOnly [] s t := by
  refine completes_of_admitted rfl hadm ?_
  have hop' : (!(s.elapse dt).operatorState) = true := by rw [show (s.elapse dt).operatorState = false from hop]; decide
  rw [if_pos hop']
  exact ⟨rfl, State.refuse_answered .., RegsOnly.complete (RegsOnly.of_elapse _ s dt) _ _ _ _ _⟩

end

end Sys2Proof.Machine
end


section
/-! PROOFS. Anti-rollback, image staging and the debug port (R552 to R555, R564), and O57. -/

namespace Sys2Proof.Machine

section
variable {s t : State} {dt : Nat} {h : HostRef} {e : List Nat}

/-! ### Anti-rollback -/

/-- Without a running image no key is revoked. -/
theorem State.revokes_none (hrun : s.sec.run = none) : s.revokes = 0 := by
  unfold State.revokes
  rw [hrun]

/-- A commit that advances the SVN beside a slot that does not boot is DONE. -/
theorem State.commitSvn_advances (hrun : s.sec.run = none) (hother : s.otherBoots = false)
    (hup : s.rd Reg.SEC_SVN_OTP 0 < s.rd Reg.SEC_SVN_RUN 0) (h : HostRef) :
    s.commitSvn h = (((s.wr Reg.SEC_SVN_OTP 0 (s.rd Reg.SEC_SVN_RUN 0)).wr Reg.SEC_VKEY_REVOKED 0
      (s.rd Reg.SEC_VKEY_REVOKED 0)).raiseC Ev.SEC_SVN_ADVANCED srcDevice
        [(1, s.rd Reg.SEC_SVN_OTP 0), (1, s.rd Reg.SEC_SVN_RUN 0), (1, 0)]).done h Op.SEC_SVN_COMMIT := by
  have hmax : max (s.rd Reg.SEC_SVN_OTP 0) (s.rd Reg.SEC_SVN_RUN 0) = s.rd Reg.SEC_SVN_RUN 0 := Nat.max_eq_right hup.le
  have hall : Nat.lor (s.rd Reg.SEC_VKEY_REVOKED 0) 0 = s.rd Reg.SEC_VKEY_REVOKED 0 := Nat.or_zero _
  have hne : ¬ s.rd Reg.SEC_SVN_RUN 0 = s.rd Reg.SEC_SVN_OTP 0 := by omega
  unfold State.commitSvn
  dsimp only
  rw [hmax, State.revokes_none hrun, hall, if_neg hne, if_neg hne, hother, Bool.false_and, if_neg Bool.false_ne_true, Nat.sub_self]

theorem completes_secSvnCommit (hadm : Admitted s dt h 0 Op.SEC_SVN_COMMIT) (hstage : s.sec.staging = none) (hrun : s.sec.run = none)
    (hother : s.otherBoots = false) (hup : s.rd Reg.SEC_SVN_OTP 0 < s.rd Reg.SEC_SVN_RUN 0) (hlt : s.rd Reg.SEC_SVN_RUN 0 < 64) :
    Completes (.secSvnCommit dt h) s fun t =>
      t.rd Reg.SEC_SVN_OTP 0 = s.rd Reg.SEC_SVN_RUN 0 ∧ t.rd Reg.SEC_VKEY_REVOKED 0 = s.rd Reg.SEC_VKEY_REVOKED 0 % 16 ∧
      Raised t Ev.SEC_SVN_ADVANCED srcDevice [(1, s.rd Reg.SEC_SVN_OTP 0), (1, s.rd Reg.SEC_SVN_RUN 0), (1, 0)] ∧
      Answered t h Op.SEC_SVN_COMMIT 0 0 [] ∧ RegsOnly [(Reg.SEC_SVN_OTP, 0), (Reg.SEC_VKEY_REVOKED, 0)] s t := by
  refine completes_of_admitted rfl hadm ?_
  obtain ⟨a, ha⟩ : ∃ a, a = s.elapse dt := ⟨_, rfl⟩
  have hregs : a.regs = s.regs := by rw [ha]; rfl
  have hrd : ∀ f i, a.rd f i = s.rd f i := fun f i => by unfold State.rd; rw [hregs]
  have hastage : a.sec.staging = none := by rw [ha]; exact hstage
  have harun : a.sec.run = none := by rw [ha]; exact hrun
  have hnot : ¬ a.sec.staging.isSome = true := by rw [hastage]; decide
  have haother : a.otherBoots = false := by rw [ha]; exact hother
  rw [← ha, if_neg hnot, State.commitSvn_advances harun haother (by rw [hrd, hrd]; exact hup), hrd, hrd, hrd]
  obtain ⟨b, hb⟩ : ∃ b, b = (a.wr Reg.SEC_SVN_OTP 0 (s.rd Reg.SEC_SVN_RUN 0)).wr Reg.SEC_VKEY_REVOKED 0
    (s.rd Reg.SEC_VKEY_REVOKED 0) := ⟨_, rfl⟩
  have hotp : b.rd Reg.SEC_SVN_OTP 0 = s.rd Reg.SEC_SVN_RUN 0 := by
    rw [hb, State.wr_rd_other _ _ _ _ _ _ (by decide), State.wr_rd_same]
    exact Nat.mod_eq_of_lt hlt
  have hrevoked : b.rd Reg.SEC_VKEY_REVOKED 0 = s.rd Reg.SEC_VKEY_REVOKED 0 % 16 := by
    rw [hb, State.wr_rd_same]
    rfl
  have honly : RegsOnly [(Reg.SEC_SVN_OTP, 0), (Reg.SEC_VKEY_REVOKED, 0)] s b := by
    rw [hb]
    exact ((regsOnly_of_regs hregs _).wr _ _ _ (by simp)).wr _ _ _ (by simp)
  rw [← hb]
  exact ⟨hotp, hrevoked, (State.raiseC_raised ..).done .., State.done_answered .., RegsOnly.done (honly.raiseC _ _ _) _ _⟩

theorem completes_secSvnCommit_waits (hadm : Admitted s dt h 0 Op.SEC_SVN_COMMIT) (hstage : s.sec.staging.isSome = true) :
    Completes (.secSvnCommit dt h) s fun t => t.sec = { s.sec with svnWaits := s.sec.svnWaits ++ [h] } ∧ t.io = s.io ∧ RegsOnly [] s t := by
  refine completes_of_admitted rfl hadm ?_
  rw [if_pos (show (s.elapse dt).sec.staging.isSome = true from hstage)]
  exact ⟨rfl, rfl, regsOnly_of_regs rfl _⟩

/-! ### Image staging -/

theorem completes_secImageStage {length : Nat} (hadm : Admitted s dt h 0 Op.SEC_IMAGE_STAGE) (hlen : length ≠ 0)
    (hstage : s.sec.staging = none) (hsorted : tsorted s.asy.xfers = true) :
    Completes (.secImageStage dt h length) s fun t =>
      t.sec = { s.sec with staging := some h } ∧ t.rd Reg.SEC_STAGING 0 = 1 ∧ tfind t.asy.xfers 3 = none ∧ t.io = s.io ∧
      RegsOnly [(Reg.SEC_STAGING, 0)] s t := by
  refine completes_of_admitted rfl hadm ?_
  have hnot : ¬ (s.elapse dt).sec.staging.isSome = true := by rw [show (s.elapse dt).sec.staging = none from hstage]; decide
  have hgone : tfind (tdel s.asy.xfers 3) 3 = none := by rw [tfind_tdel _ _ _ hsorted, if_pos rfl]
  rw [if_neg hlen, if_neg hnot]
  exact ⟨rfl, State.wrBit_rd_same .., hgone, rfl, RegsOnly.wrBit (fun _ _ _ => rfl) (by simp)⟩

/-- A slot takes a good image, and is erased by a bad one. -/
theorem tfind_image (imgs : Tab (List Nat)) (slot status : Nat) (img : List Nat) (hsorted : tsorted imgs = true) :
    tfind (if status = 0 then tset imgs slot img else tdel imgs slot) slot = if status = 0 then some img else none := by
  split
  · exact tfind_tset_same _ _ _
  · rw [tfind_tdel _ _ _ hsorted, if_pos rfl]

/-- The state in which the end of a stage raises its event: the stage is over, the slot is written, a good image is measured. -/
def State.stageEnded (s : State) (status : Nat) (img : List Nat) : State :=
  let s1 : State := { s with sec := { s.sec with
    staging := none, svnWaits := [],
    imgs := if status = 0 then tset s.sec.imgs s.otherSlot img else tdel s.sec.imgs s.otherSlot } }
  if status = 0 then (s1.wrBit Reg.SEC_STAGING 0 false).extend 6 (Config.sha512 (imgHeader img)) else s1.wrBit Reg.SEC_STAGING 0 false

/-- Without commits that wait, the end of a stage is its event and its answer on the ended stage. -/
theorem State.endStage_eq {x : XferSt} {status : Nat} (hx : x = tget {} s.asy.xfers 3)
    (hstatus : status = s.imageStatus (x.refused.isNone && x.units != 0) x.data) (hwaits : s.sec.svnWaits = []) (h : HostRef) :
    s.endStage h =
      (let b := (s.stageEnded status x.data).raiseC Ev.SEC_IMAGE_STAGED srcDevice [(1, s.otherSlot), (1, imgSvn x.data), (1, status)]
       if status = 0 then b.done h Op.SEC_IMAGE_STAGE else b.refuse h Op.SEC_IMAGE_STAGE 0x0C) := by
  unfold State.endStage State.stageEnded
  dsimp only
  rw [← hx, ← hstatus, hwaits]
  rfl

theorem State.stageEnded_spec (s : State) (status : Nat) (img : List Nat) (hsorted : tsorted s.sec.imgs = true) :
    (s.stageEnded status img).rd Reg.SEC_STAGING 0 = 0 ∧ (s.stageEnded status img).sec.staging = none ∧
    tfind (s.stageEnded status img).sec.imgs s.otherSlot = (if status = 0 then some img else none) ∧
    (status = 0 → tget 0 (s.stageEnded status img).sec.meas 6 = Config.sha512 (leBytes 64 (tget 0 s.sec.meas 6) ++
      leBytes 64 (Config.sha512 (imgHeader img)))) ∧
    RegsOnly [(Reg.SEC_STAGING, 0)] s (s.stageEnded status img) := by
  obtain ⟨a, ha⟩ : ∃ a : State, a = { s with sec := { s.sec with
    staging := none, svnWaits := [],
    imgs := if status = 0 then tset s.sec.imgs s.otherSlot img else tdel s.sec.imgs s.otherSlot } } := ⟨_, rfl⟩
  have himgs : tfind a.sec.imgs s.otherSlot = if status = 0 then some img else none := by
    rw [ha]
    exact tfind_image s.sec.imgs s.otherSlot status img hsorted
  have hstaging : a.sec.staging = none := by rw [ha]
  have hmeas : a.sec.meas = s.sec.meas := by rw [ha]
  have honly : RegsOnly [(Reg.SEC_STAGING, 0)] s (a.wrBit Reg.SEC_STAGING 0 false) := by
    rw [ha]
    exact RegsOnly.wrBit (fun _ _ _ => rfl) (by simp)
  have hended : s.stageEnded status img =
      if status = 0 then (a.wrBit Reg.SEC_STAGING 0 false).extend 6 (Config.sha512 (imgHeader img)) else a.wrBit Reg.SEC_STAGING 0 false := by
    rw [ha]
    rfl
  rw [hended]
  by_cases h0 : status = 0
  · rw [if_pos h0, ← himgs]
    refine ⟨State.wrBit_rd_same .., hstaging, rfl, fun _ => ?_, honly.of_regs rfl⟩
    rw [← hmeas]
    exact (tget_tset 0 a.sec.meas 6 6 _).trans (if_pos rfl)
  · rw [if_neg h0, ← himgs]
    exact ⟨State.wrBit_rd_same .., hstaging, rfl, fun hz => absurd hz h0, honly⟩

theorem completes_secImageStaged {x : XferSt} {status : Nat} (hstage : s.sec.staging = some h) (hwaits : s.sec.svnWaits = [])
    (hx : x = tget {} s.asy.xfers 3) (hstatus : status = s.imageStatus (x.refused.isNone && x.units != 0) x.data)
    (hsorted : tsorted s.sec.imgs = true) :
    Completes (.secImageStaged dt) s fun t =>
      t.rd Reg.SEC_STAGING 0 = 0 ∧ t.sec.staging = none ∧
      tfind t.sec.imgs s.otherSlot = (if status = 0 then some x.data else none) ∧
      (status = 0 → tget 0 t.sec.meas 6 = Config.sha512 (leBytes 64 (tget 0 s.sec.meas 6) ++
        leBytes 64 (Config.sha512 (imgHeader x.data)))) ∧
      Raised t Ev.SEC_IMAGE_STAGED srcDevice [(1, s.otherSlot), (1, imgSvn x.data), (1, status)] ∧
      (if status = 0 then Answered t h Op.SEC_IMAGE_STAGE 0 0 [] else Answered t h Op.SEC_IMAGE_STAGE 2 0x0C []) ∧
      RegsOnly [(Reg.SEC_STAGING, 0)] s t := by
  obtain ⟨a, ha⟩ : ∃ a, a = s.elapse dt := ⟨_, rfl⟩
  have hsec : a.sec = s.sec := by rw [ha]; rfl
  have hslot : a.otherSlot = s.otherSlot := by rw [ha]; rfl
  have honly : RegsOnly [(Reg.SEC_STAGING, 0)] s a := by rw [ha]; exact RegsOnly.of_elapse _ s dt
  have hxa : x = tget {} a.asy.xfers 3 := by rw [ha]; exact hx
  have hstatusa : status = a.imageStatus (x.refused.isNone && x.units != 0) x.data := by rw [ha]; exact hstatus
  have hexec : exec (.secImageStaged dt) s = .next (a.endStage h) := by
    show execSecImageStaged dt s = _
    unfold execSecImageStaged
    dsimp only
    rw [← ha, hsec, hstage]
  obtain ⟨hbit, hnone, himg, hmeas, hregs⟩ := a.stageEnded_spec status x.data (by rw [hsec]; exact hsorted)
  rw [hsec] at hmeas
  rw [hslot] at himg
  have hend := State.endStage_eq hxa hstatusa (by rw [hsec]; exact hwaits) h
  rw [hslot] at hend
  refine ⟨_, hexec.trans (congrArg _ hend), ?_⟩
  replace hregs := RegsOnly.trans honly hregs
  generalize a.stageEnded status x.data = b at *
  obtain ⟨c, hc⟩ : ∃ c, c = b.raiseC Ev.SEC_IMAGE_STAGED srcDevice [(1, s.otherSlot), (1, imgSvn x.data), (1, status)] := ⟨_, rfl⟩
  have hraised : Raised c Ev.SEC_IMAGE_STAGED srcDevice [(1, s.otherSlot), (1, imgSvn x.data), (1, status)] := by
    rw [hc]
    exact State.raiseC_raised ..
  have hcsec : c.sec = b.sec := by rw [hc]; rfl
  have hcregs : RegsOnly [(Reg.SEC_STAGING, 0)] s c := by rw [hc]; exact hregs.raiseC _ _ _
  have hcbit : c.rd Reg.SEC_STAGING 0 = 0 := by rw [hc]; exact hbit
  rw [← hcsec] at hnone himg hmeas
  rw [← hc]
  by_cases h0 : status = 0
  · dsimp only
    rw [if_pos h0] at himg
    rw [if_pos h0, if_pos h0, if_pos h0]
    exact ⟨hcbit, hnone, himg, hmeas, hraised.done .., State.done_answered .., hcregs.done _ _⟩
  · dsimp only
    rw [if_neg h0] at himg
    rw [if_neg h0, if_neg h0, if_neg h0]
    exact ⟨hcbit, hnone, himg, hmeas, hraised.complete .., State.refuse_answered .., hcregs.complete _ _ _ _ _⟩

/-! ### The debug port -/

/-- Below scope FULL the port opens with its scope, its time to close and its event, whatever its scope was. -/
theorem State.openDebug_spec {scope minutes slot : Nat} (s : State) (hscope : scope ≤ 2) (h : HostRef) :
    (s.openDebug scope minutes slot h).rd Reg.SEC_DEBUG 0 = scope ∧
    (s.openDebug scope minutes slot h).sec.closeAt = s.time + minutes * 60 * Config.secondPos ∧
    Raised (s.openDebug scope minutes slot h) Ev.SEC_DEBUG srcDevice [(1, scope), (1, 1), (4, minutes)] ∧
    Answered (s.openDebug scope minutes slot h) h Op.SEC_DEBUG_UNLOCK 0 0 [] := by
  unfold State.openDebug
  generalize s.time + minutes * 60 * Config.secondPos = close
  generalize debugDigest scope minutes slot = digest
  obtain ⟨a, ha⟩ : ∃ a : State, a = (({ s with
    sec := { s.sec with opening := none, debugSlot := slot, closeAt := close } } : State).wr Reg.SEC_DEBUG 0 scope).extend 5 digest := ⟨_, rfl⟩
  have hrd : a.rd Reg.SEC_DEBUG 0 = scope := by
    rw [ha]
    exact (State.wr_rd_same ..).trans (Nat.mod_eq_of_lt (show scope < 4 by omega))
  have hclose : a.sec.closeAt = close := by rw [ha]; rfl
  obtain ⟨b, hb⟩ : ∃ b, b = a.raiseC Ev.SEC_DEBUG srcDevice [(1, scope), (1, 1), (4, minutes)] := ⟨_, rfl⟩
  have hbrd : b.rd Reg.SEC_DEBUG 0 = scope := by rw [hb]; exact hrd
  have hbclose : b.sec.closeAt = close := by rw [hb]; exact hclose
  have hraised : Raised b Ev.SEC_DEBUG srcDevice [(1, scope), (1, 1), (4, minutes)] := by rw [hb]; exact State.raiseC_raised ..
  have hnot : ¬ (decide (scope = 3) && !(s.rd Reg.SEC_DEBUG 0 == 3)) = true := by
    rw [decide_eq_false (show ¬ scope = 3 by omega)]
    exact Bool.false_ne_true
  dsimp only
  rw [← ha, ← hb, if_neg hnot]
  split
  · exact ⟨hbrd, hbclose, (hraised.of_io rfl).done .., State.done_answered ..⟩
  · exact ⟨hbrd, hbclose, hraised.done .., State.done_answered ..⟩

theorem completes_secDebugUnlock (hadm : Admitted s dt h 0 Op.SEC_DEBUG_UNLOCK) (hop : s.operatorState = true) :
    Completes (.secDebugUnlock dt h e) s fun t =>
      let c := s.envelopeCause Op.SEC_DEBUG_UNLOCK false e
      let scope := c.2.getD 0 0
      let minutes := c.2.getD 2 0 + 256 * c.2.getD 3 0
      (c.1 = 0 → 1 ≤ scope → scope ≤ 2 → 1 ≤ minutes → minutes ≤ 1440 →
        t.rd Reg.SEC_DEBUG 0 = scope ∧ t.sec.closeAt = s.time + dt + minutes * 60 * Config.secondPos ∧
        Raised t Ev.SEC_DEBUG srcDevice [(1, scope), (1, 1), (4, minutes)] ∧ Answered t h Op.SEC_DEBUG_UNLOCK 0 0 []) ∧
      (c.1 ≠ 0 → t.rd Reg.SEC_DEBUG 0 = s.rd Reg.SEC_DEBUG 0 ∧ Answered t h Op.SEC_DEBUG_UNLOCK 2 (c.1 + 1) []) := by
  refine completes_of_admitted rfl hadm ?_
  obtain ⟨a, ha⟩ : ∃ a, a = s.elapse dt := ⟨_, rfl⟩
  have hcause : a.envelopeCause Op.SEC_DEBUG_UNLOCK false e = s.envelopeCause Op.SEC_DEBUG_UNLOCK false e := by rw [ha]; rfl
  have hop' : ¬ (!a.operatorState) = true := by rw [show a.operatorState = true by rw [ha]; exact hop]; decide
  have htime : a.time = s.time + dt := by rw [ha]; rfl
  have hdebug : a.rd Reg.SEC_DEBUG 0 = s.rd Reg.SEC_DEBUG 0 := by rw [ha]; rfl
  rw [← ha, if_neg hop']
  by_cases hc : (s.envelopeCause Op.SEC_DEBUG_UNLOCK false e).1 = 0
  · rw [State.checkEnvelope_ok (by rw [hcause]; exact hc), hcause]
    dsimp only
    refine ⟨fun _ => ?_, fun hbad => absurd hc hbad⟩
    generalize (s.envelopeCause Op.SEC_DEBUG_UNLOCK false e).2 = p
    generalize p.getD 0 0 = scope
    generalize p.getD 2 0 + 256 * p.getD 3 0 = minutes
    intro hscope hscope' hmin hmin'
    have hbtime : (a.envAccepted e).time = s.time + dt := by
      obtain ⟨r, m, hr⟩ := a.envAccepted_same e
      rw [hr]
      exact htime
    generalize a.envAccepted e = b at hbtime ⊢
    have hform : ¬ (decide (scope = 0) || decide (3 < scope) || decide (minutes = 0) || decide (1440 < minutes)) = true := by
      simp only [Bool.or_eq_true, decide_eq_true_eq]
      omega
    have hfull : ¬ (decide (scope = 3) && decide (b.rd Reg.SEC_LIFECYCLE 0 = 2)) = true := by
      rw [decide_eq_false (show ¬ scope = 3 by omega)]
      exact Bool.false_ne_true
    rw [if_neg hform, if_neg hfull, ← hbtime]
    exact b.openDebug_spec hscope' h
  · rw [State.checkEnvelope_bad (by rw [hcause]; exact hc), hcause]
    dsimp only
    refine ⟨fun hok => absurd hok hc, fun _ => ?_⟩
    generalize (s.envelopeCause Op.SEC_DEBUG_UNLOCK false e).1 = cause
    have honly := (a.envFailed_kept Op.SEC_DEBUG_UNLOCK cause true).2
    generalize a.envFailed Op.SEC_DEBUG_UNLOCK cause true = b at *
    exact ⟨(honly _ _ (by decide)).trans hdebug, State.refuse_answered ..⟩

/-- The port closes with its event; only the scope's register changes. -/
theorem State.closeDebug_spec (s : State) (caused : Bool) :
    (s.closeDebug caused).rd Reg.SEC_DEBUG 0 = 0 ∧
    Raised (s.closeDebug caused) Ev.SEC_DEBUG srcDevice [(1, s.rd Reg.SEC_DEBUG 0), (1, 0), (4, 0)] ∧
    RegsOnly [(Reg.SEC_DEBUG, 0)] s (s.closeDebug caused) ∧ (s.closeDebug caused).time = s.time := by
  unfold State.closeDebug
  generalize s.rd Reg.SEC_DEBUG 0 = scope
  obtain ⟨b, hb⟩ : ∃ b, b = (s.wr Reg.SEC_DEBUG 0 0).say caused Ev.SEC_DEBUG srcDevice [(1, scope), (1, 0), (4, 0)] := ⟨_, rfl⟩
  have hregs : b.regs = (s.wr Reg.SEC_DEBUG 0 0).regs := by rw [hb]; exact State.say_regs ..
  have hrd : b.rd Reg.SEC_DEBUG 0 = 0 := by
    rw [State.rd, hregs, ← State.rd]
    exact State.wr_rd_same ..
  have hraised : Raised b Ev.SEC_DEBUG srcDevice [(1, scope), (1, 0), (4, 0)] := by rw [hb]; exact State.say_raised ..
  have honly : RegsOnly [(Reg.SEC_DEBUG, 0)] s b := ((RegsOnly.refl _ s).wr _ _ _ (by simp)).of_regs hregs
  have htime : b.time = s.time := by
    rw [hb]
    exact (State.say_frame (pt := .clock) (by decide) (Part.same_refl _ (s.wr Reg.SEC_DEBUG 0 0))).1
  dsimp only
  rw [← hb]
  split
  · exact ⟨hrd, hraised.of_io rfl, honly.of_regs rfl, htime⟩
  · exact ⟨hrd, hraised, honly, htime⟩

theorem completes_secDebugLock (hadm : Admitted s dt h 0 Op.SEC_DEBUG_LOCK) (hopen : s.rd Reg.SEC_DEBUG 0 ≠ 0) :
    Completes (.secDebugLock dt h) s fun t =>
      t.rd Reg.SEC_DEBUG 0 = 0 ∧ Raised t Ev.SEC_DEBUG srcDevice [(1, s.rd Reg.SEC_DEBUG 0), (1, 0), (4, 0)] ∧
      Answered t h Op.SEC_DEBUG_LOCK 0 0 [] ∧ RegsOnly [(Reg.SEC_DEBUG, 0)] s t := by
  refine completes_of_admitted rfl hadm ?_
  rw [if_neg (show ¬ (s.elapse dt).rd Reg.SEC_DEBUG 0 = 0 from hopen)]
  generalize debugDigest ((s.elapse dt).rd Reg.SEC_DEBUG 0) 0 (s.elapse dt).sec.debugSlot = digest
  obtain ⟨b, hb⟩ : ∃ b, b = (s.elapse dt).extend 5 digest := ⟨_, rfl⟩
  have hregs : b.regs = s.regs := by rw [hb]; rfl
  have hscope : b.rd Reg.SEC_DEBUG 0 = s.rd Reg.SEC_DEBUG 0 := by unfold State.rd; rw [hregs]
  obtain ⟨hrd, hraised, honly, _⟩ := b.closeDebug_spec true
  rw [hscope] at hraised
  rw [← hb]
  exact ⟨hrd, hraised.done .., State.done_answered .., RegsOnly.done (RegsOnly.trans (regsOnly_of_regs hregs _) honly) _ _⟩

theorem completes_debugExpiry (hopen : s.rd Reg.SEC_DEBUG 0 ≠ 0) :
    Completes (.debugExpiry dt) s fun t =>
      t.time = max (s.time + dt) s.sec.closeAt ∧ t.rd Reg.SEC_DEBUG 0 = 0 ∧
      Raised t Ev.SEC_DEBUG srcDevice [(1, s.rd Reg.SEC_DEBUG 0), (1, 0), (4, 0)] ∧ RegsOnly [(Reg.SEC_DEBUG, 0)] s t := by
  obtain ⟨b, hb⟩ : ∃ b, b = (s.elapse dt).untilTime 0 s.sec.closeAt := ⟨_, rfl⟩
  have htime : b.time = max (s.time + dt) s.sec.closeAt := by rw [hb]; exact State.untilTime_time ..
  have hregs : b.regs = s.regs := by rw [hb]; rfl
  have hscope : b.rd Reg.SEC_DEBUG 0 = s.rd Reg.SEC_DEBUG 0 := by unfold State.rd; rw [hregs]
  have hexec : exec (.debugExpiry dt) s = .next (b.closeDebug false) := by
    rw [hb]
    show execDebugExpiry dt s = _
    unfold execDebugExpiry
    exact congrArg Host.Outcome.next (if_neg hopen)
  obtain ⟨hrd, hraised, honly, hsame⟩ := b.closeDebug_spec false
  rw [hscope] at hraised
  exact ⟨_, hexec, hsame.trans htime, hrd, hraised, RegsOnly.trans (regsOnly_of_regs hregs _) honly⟩

end

/-! ### The security block -/

/-- Settles O57, from the effect of each command and event of the security block. -/
theorem securityCommandsTakeEffect : Obligations.SecurityCommandsTakeEffect := by
  unfold Obligations.SecurityCommandsTakeEffect
  intro s dt
  exact ⟨fun test => completes_secTrngFail test, fun test => completes_secTrngFail_recovers test,
    fun _ _ => completes_secChallenge, completes_nonceExpiry, fun _ _ _ => completes_secAttest, fun _ _ _ => completes_secAttest_end,
    fun _ _ => completes_secCertRead, fun _ _ => completes_secLifecycle, fun _ _ => completes_secLifecycle_end,
    fun _ _ => completes_secOpkeyRotate, fun _ _ => completes_secOpkeyRotate_shut, fun _ => completes_secSvnCommit,
    fun _ => completes_secSvnCommit_waits, fun _ _ => completes_secImageStage, fun _ _ _ => completes_secImageStaged,
    fun _ _ => completes_secDebugUnlock, fun _ => completes_secDebugLock, completes_debugExpiry⟩

end Sys2Proof.Machine
end


section
/-! PROOFS. Self-test (R575), and O58. -/

namespace Sys2Proof.Machine

/-- The block starts with a Ralale lane on that has sent one tub since its counters were settled. -/
def startsWhileSending : State :=
  let s : State := State.reset.wr Reg.PRT_LANE_MODE 0 9
  { s with shf := { s.shf with txIdle := false }, rlk := { s.rlk with lanes := tset s.rlk.lanes 0 { txData := 1 } },
           sys := { s.sys with starting := true } }

/-- A self-test in which no unit fails, with a fatal result. -/
def fatalTest : SelfTest :=
  { rowSlices := [], rowHewers := [], rowOther := 0, hbmFailed := false, hbmBad := [], hewers := [], pipes := [], lanes := [],
    trngOk := true, fatal := true }

/-- Refutes O58: a fatal SELFTEST_RESULT may change a register beside SEC_TRNG_OK. It turns the transmitters idle, which first settles
the counters of each Ralale lane that was sending: here RLK_TX_TUB_CNT of lane 0 goes from 0 to 1. -/
theorem not_startupCommandsTakeEffect : ¬ Obligations.StartupCommandsTakeEffect := by
  unfold Obligations.StartupCommandsTakeEffect
  intro h
  obtain ⟨hselftest, -⟩ := h startsWhileSending 0
  obtain ⟨t, ht, -, -, -, -, -, -, -, -, -, honly⟩ := hselftest fatalTest (by decide +kernel) (by decide +kernel) (by decide +kernel)
    (by decide +kernel)
  have hbefore : startsWhileSending.rd Reg.RLK_TX_TUB_CNT 0 = 0 := by decide +kernel
  have hafter : (match exec (.selftestResult 0 fatalTest) startsWhileSending with
      | .next t => t.rd Reg.RLK_TX_TUB_CNT 0
      | _ => 0) = 1 := by decide +kernel
  rw [ht] at hafter
  exact absurd (((honly Reg.RLK_TX_TUB_CNT 0 (by decide)).trans hbefore).symm.trans hafter) (by decide)

end Sys2Proof.Machine
end
